-- ==== Sys2Proof/Word.lean ====
section
/-! DEFINITION. The byte type and the plain integer conversions of the spec's pseudocode (section 0.5). -/

namespace Sys2Proof

/-- One byte of a cell, an image, a frame or a memory (R5: device formats are little-endian byte strings). -/
abbrev Byte := BitVec 8

/-- `sat(x, n)` of section 0.5: clamp to the n-bit signed range. -/
def sat (x : Int) (n : Nat) : Int :=
  if x < -(2 ^ (n - 1) : Int) then -(2 ^ (n - 1) : Int)
  else if (2 ^ (n - 1) : Int) - 1 < x then (2 ^ (n - 1) : Int) - 1 else x

/-- `wrap(x, n)` of section 0.5: keep the low n bits as n-bit two's complement. -/
def wrap (x : Int) (n : Nat) : Int :=
  let r := x % (2 ^ n : Int)
  if r < (2 ^ (n - 1) : Int) then r else r - (2 ^ n : Int)

/-- `x >> k` of section 0.5: arithmetic shift right. -/
def asr (x : Int) (k : Nat) : Int := Int.fdiv x (2 ^ k : Int)

/-- `div(a, b)` of section 0.5: integer division rounding toward zero. -/
def divz (a b : Int) : Int := Int.tdiv a b

/-- `floor(a, b)` of section 0.5: integer division rounding toward minus infinity. -/
def divf (a b : Int) : Int := Int.fdiv a b

end Sys2Proof
end

