-- ==== Sys2Proof/Names.lean ====
section
/-! DEFINITION. The closed sets of names the spec's commands and state use: sides, modes, output states, planes' units. -/

namespace Sys2Proof

/-- The two sides of the module (R11). -/
inductive Side where
  | field | host
  deriving DecidableEq, Repr

/-- The power domains of Table 2-3. -/
inductive Dom where
  | f0 | f1 | f2 | f3 | f4 | h0 | h1 | h2 | h3 | h4
  deriving DecidableEq, Repr

/-- The device modes of Table 2-1. -/
inductive Mode where
  | dormant | kindling | banked | ready | active | derate | autonomous | quench | tripped | commission | service | recovery
  deriving DecidableEq, Repr

/-- The mode codes of Table 2-1. -/
def Mode.code : Mode → Nat
  | .dormant => 0 | .kindling => 1 | .banked => 2 | .ready => 3 | .active => 4 | .derate => 5
  | .autonomous => 6 | .quench => 7 | .tripped => 8 | .commission => 9 | .service => 10 | .recovery => 11

/-- The mode of a code; 12 to 15 are no codes of Table 2-1 and are never stored. -/
def Mode.ofCode : Nat → Option Mode
  | 0 => some .dormant | 1 => some .kindling | 2 => some .banked | 3 => some .ready | 4 => some .active | 5 => some .derate
  | 6 => some .autonomous | 7 => some .quench | 8 => some .tripped | 9 => some .commission | 10 => some .service
  | 11 => some .recovery | _ => none

/-- *READY or lower* (R26). -/
def Mode.readyOrLower : Mode → Bool
  | .dormant | .kindling | .banked | .ready | .service | .recovery => true
  | .active | .derate | .autonomous | .quench | .tripped | .commission => false

/-- Modes in which the CE runs (Table 2-1); in SERVICE it may be halted by debug (R115). -/
def Mode.ceRuns : Mode → Bool
  | .ready | .active | .derate | .autonomous | .quench | .tripped | .commission | .service => true
  | .dormant | .kindling | .banked | .recovery => false

/-- The fields of a CE instruction behind its OP (Table 6-7). -/
structure CeArgs where
  flags : Nat := 0
  r : Nat := 0
  c : Nat := 0
  dst : Nat := 0
  src : Nat := 0
  aux : Nat := 0
  mat : Nat := 0
  deriving DecidableEq, Repr

/-- A word the CE reads (R125): a coefficient, an output shift, a signal, a biquad section or a feed-forward point. -/
inductive CeWord where
  | coef (i : Nat)
  | osh (i : Nat)
  | signal (n : Nat)
  | sect (n : Nat)
  | point (table i : Nat)
  deriving DecidableEq, Repr

/-- An ECC error that a read meets (R125): the word, its address as CEN_ECCADDR shows it, and whether it is uncorrectable. -/
structure EccHit where
  word : CeWord
  addr : Nat
  uncorr : Bool
  deriving DecidableEq, Repr

/-- The blocks with an enable bit and a status of their own (R40, Table 2-6). -/
inductive Block where
  | out (n : Fin 4)
  | ctr
  | bil
  | met
  | stk
  | svg
  | pub (p : Fin 2)
  | fieldPort (p : Fin 2)
  | can (c : Fin 4)
  | capture
  | ring (r : Fin 32)
  | imd (n : Fin 4)
  | cable (n : Fin 4)
  | hostPort (p : Fin 2)
  | t1s (n : Fin 4)
  | periph (i : Fin 10)
  deriving DecidableEq, Repr

/-- The fields of an enclave command block behind its OP (R382). -/
structure EncBlock where
  slot : Nat := 0
  purpose : Nat := 0
  flags : Nat := 0
  src : Nat := 0
  srcLen : Nat := 0
  dst : Nat := 0
  dstLen : Nat := 0
  deriving DecidableEq, Repr

/-! ## Contents of frames of published standards (chapters 5 and 12), as their parsers see them -/

/-- The authentication extension of a frame (R259): the key slot it names, and whether its tag verifies under that slot's
key. -/
structure AuthExt where
  slot : Nat
  tagOk : Bool
  deriving DecidableEq, Repr

/-- One quality of IEC 61850-7-3 as R251 and R255 use it. -/
structure Quality where
  invalid : Bool
  questionable : Bool
  test : Bool
  deriving DecidableEq, Repr

/-- One ASDU of a sampled-value frame (section 12.4): IA, IB, IC, IN, VA, VB, VC, VN with their qualities. -/
structure SvAsdu where
  smpCnt : Nat
  smpSynch : Nat
  values : List Int
  qualities : List Quality
  deriving DecidableEq, Repr

/-- A sampled-value frame (R249). -/
structure SvMsg where
  port : Nat
  mac : Nat
  appid : Nat
  vid : Option Nat
  svId : List Byte
  confRev : Nat
  asdus : List SvAsdu
  auth : Option AuthExt
  deriving DecidableEq, Repr

/-- One top-level member of a GOOSE dataset (section 12.6). -/
inductive GooseEntry where
  | boolean (v : Bool)
  | quality (q : Quality)
  | other
  deriving DecidableEq, Repr

/-- A GOOSE frame (R255); `ttl` is timeAllowedtoLive in ms. -/
structure GooseMsg where
  port : Nat
  mac : Nat
  appid : Nat
  gocbRef : List Byte
  confRev : Nat
  ndsCom : Bool
  simulation : Bool
  stNum : Nat
  sqNum : Nat
  ttl : Nat
  entries : List GooseEntry
  auth : Option AuthExt
  deriving DecidableEq, Repr

/-- An IEEE 1588 message as R101 uses it; times are in 1/16 ns, `corr` is the correctionField in 1/16 ns. -/
inductive PtpMsg where
  | announce (domain : Nat) (utc : Option Int)
  | sync (domain seq : Nat) (twoStep : Bool) (origin corr : Int)
  | followUp (domain seq : Nat) (origin corr : Int)
  | pdelayReq (domain seq : Nat)
  | pdelayResp (domain seq : Nat) (reqReceipt corr : Int)
  | pdelayRespFollowUp (domain seq : Nat) (respOrigin corr : Int)
  | other
  deriving DecidableEq, Repr

end Sys2Proof
end

