-- ==== Sys2Proof/Syntax.lean ====
section
/-! DEFINITION. The commands of the block: one constructor per row of spec/opcode_table.json, with the row's operands.
A command that stands for an instant, an expiry or a measurement carries what the outside world supplies with it. -/

namespace Sys2Proof

/-- The commands of the ZNY4810, in the order of the table. -/
inductive Instr where
  /-- `POWER_ON_RESET` (R35): All supplies of a side become good after its battery domain had no supply, so that side is reset and boots from scratch. -/
  | powerOnReset (side : Side)
  /-- `SUPPLY_MONITOR_RESET` (R421): A main rail of a side stays below its falling threshold for 2 µs, so the side is held in reset until the rails recover. -/
  | supplyMonitorReset (side : Side)
  /-- `BATTERY_SWITCHOVER` (R422): VAUXF or VAUXH crosses 3.00 V, so F0 or H0 moves its supply between the auxiliary rail and the battery without losing state. -/
  | batterySwitchover (side : Side) (toBattery : Bool)
  /-- `WATCHDOG_SERVICE` (R35): A write of 0x5AA5 to FSYS_WDT.SERVICE or HSYS_WDT.SERVICE restarts watchdog stage 1. -/
  | watchdogService (side : Side) (value : Nat)
  /-- `WATCHDOG_STAGE_1` (R35): Stage 1 of a side's watchdog expires without a service write, which raises an event and a non-maskable interrupt. -/
  | watchdogStage1 (side : Side)
  /-- `WATCHDOG_STAGE_2_FIELD` (R35): The field watchdog goes 10 ms past stage 1 without service, so only the FMP pair is reset while the control plane runs on. -/
  | watchdogStage2Field
  /-- `WATCHDOG_STAGE_2_HOST` (R340): The host watchdog goes 10 ms past stage 1 without service, so the host takes a warm reset with DRAM kept in self-refresh. -/
  | watchdogStage2Host
  /-- `SW_FMP` (R38): FSYS_SWRST is written with SCOPE 0b01 and the right key, so the FMP pair is reset without any mode change. -/
  | swFmp (key : Nat)
  /-- `SW_FIELD` (R35): FSYS_SWRST is written with SCOPE 0b10, so F1 to F4 are reset when the mode is READY or lower, and the request is refused otherwise. -/
  | swField (key : Nat)
  /-- `SW_WARM` (R340): HSYS_SWRST is written with SCOPE 0b01, so H1 to H3 are reset while DRAM is kept in self-refresh. -/
  | swWarm (key : Nat)
  /-- `SW_COLD` (R35): HSYS_SWRST is written with SCOPE 0b10, so H1 to H4 are reset and DRAM is lost. -/
  | swCold (key : Nat)
  /-- `LS_FMP` (R38): The cores of the FMP pair disagree, so the pair restarts and the device becomes TRIPPED. -/
  | lsFmp
  /-- `LS_MET` (R280): The cores of the metrology pair disagree, so the pair restarts while MET hardware keeps accumulating and every channel sets RESTART. -/
  | lsMet
  /-- `CE_LOCKSTEP_MISMATCH` (R126): The CE checker finds a mismatch, or a tick that has not spent its declared count by W − 40, which is a device-level trip. -/
  | ceLockstepMismatch
  /-- `LS_ENC` (R35): The cores of the enclave pair disagree, so the host takes a warm reset. -/
  | lsEnc
  /-- `THERMAL_RESET` (R392): The shutdown sequence is still not complete 50 ms after SHUTDOWN was crossed, so the side is reset except for F0 or H0. -/
  | thermalReset (side : Side)
  /-- `FMP_RESTART_COMPLETE` (R38): The FMP finishes a restart of about 400 ms and resumes its functions without reloading the stream. -/
  | fmpRestartComplete
  /-- `BOOT_COMPLETE` (R39): KINDLING ends in READY, BANKED or RECOVERY according to the boot outcome, the stream and any pending shutdown record. -/
  | bootComplete (selfTest image : Bool)
  /-- `MODE_REQ` (R30): A flue mode request is accepted and performed or refused against Table 2-2, and it is answered when the transition completes. -/
  | modeReq (tag target : Nat)
  /-- `RE_ARM` (R32): A mode request with REARM = 1 returns the device from TRIPPED or BANKED to READY once every re-arm condition holds. -/
  | reArm (tag target : Nat) (ack : Bool)
  /-- `FSYS_MODEREQ` (R30): The FMP writes TARGET in FSYS_MODEREQ to request a mode transition. -/
  | fsysModereq (target : Fin 16)
  /-- `FSYS_MODEREQ_REARM` (R32): The FMP writes REARM in FSYS_MODEREQ to request an RE_ARM. -/
  | fsysModereqRearm (target : Fin 16)
  /-- `SAMPLE_INSTANT` (R29): At S of each tick, the mode is evaluated, the tick index advances and the PWM loads its shadow values. -/
  | sampleInstant (blockSwitch : Bool)
  /-- `T_HB_EXPIRY` (R65): T_hb elapses with no accepted HEARTBEAT, so HOSTLOST is set and AUTONOMOUS follows. -/
  | tHbExpiry
  /-- `T_AUTO_EXPIRY` (R65): T_auto runs out in AUTONOMOUS, so the device enters QUENCH. -/
  | tAutoExpiry
  /-- `QUENCH_LIMIT_EXPIRY` (R31): FSYS_QUENCH.LIMIT expires while the device is still engaged, so the device enters TRIPPED. -/
  | quenchLimitExpiry
  /-- `BLOCK_DISABLE_REQUEST` (R40): A block's enable bit is written to 0, so the block moves to DRAINING and finishes its current unit of work. -/
  | blockDisableRequest (block : Block)
  /-- `BLOCK_ENABLE_REQUEST` (R41): A block's enable bit is written to 1, so the block returns to ENABLED, after any drain in progress completes. -/
  | blockEnableRequest (block : Block)
  /-- `DRAIN_COMPLETE` (R40): A draining block completes its unit of work and becomes DISABLED or ENABLED, which can release a pending mode change. -/
  | drainComplete (block : Block)
  /-- `FLUE_LINK_UP` (R46): Flue training completes, every SEQ and credit counter takes its initial value, and held journal events are sent. -/
  | flueLinkUp
  /-- `FLUE_RETRAIN` (R46): Sixteen consecutive cells fail on a lane, so the link retrains and the cells in flight are lost. -/
  | flueRetrain (sender : Side) (lane : Fin 2) (fails : Nat)
  /-- `FLUE_CELL_SLOT` (R51): At each cell-slot boundary, the sender picks a SAFETY, CONTROL, EVENT, bulk or IDLE cell under the credit and reserved-slot rules. -/
  | flueCellSlot (sender : Side)
  /-- `FLUE_CELL_RECEIVE` (R49): A cell is received and checked for CRC, TYPE, LEN and SEQ gaps, and its credit report is taken. -/
  | flueCellReceive (receiver : Side) (cell : List Byte)
  /-- `HEARTBEAT` (R66): An accepted HEARTBEAT restarts T_hb, is answered by HB_ACK, and with HOSTSTATE 1 or 2 clears HOSTLOST and ends AUTONOMOUS. -/
  | heartbeat (hbSeq hostState : Nat)
  /-- `HB_ACK` (R67): The host endpoint accepts an HB_ACK, which resets field-loss supervision. -/
  | hbAck (hbSeq modeWord stc : Nat)
  /-- `TRIP_DEVICE` (R56): A flue TRIP of device scope sets TRP_SWSTAT.DEV and causes a device-level trip. -/
  | tripDevice (scope index msgid reason : Nat)
  /-- `TRIP_OUTPUT` (R190): A flue TRIP of output scope drives the output's leg groups safe and sends the output to FAULT. -/
  | tripOutput (index msgid reason : Nat)
  /-- `TRIP_LEG_GROUP` (R190): A flue TRIP of leg-group scope sets the group's software trip, which drives its legs to the safe pattern. -/
  | tripLegGroup (index msgid reason : Nat)
  /-- `QUENCH_ALL` (R56): A flue QUENCH_ALL sends the device to QUENCH and every engaged output to RAMPDOWN. -/
  | quenchAll (msgid reason : Nat)
  /-- `QUENCH_OUT` (R303): A QUENCH_OUT sends each named output that is in INSULATION, PRECHARGE or DELIVER to RAMPDOWN. -/
  | quenchOut (mask : Fin 16) (msgid reason : Nat)
  /-- `PARAM_WR` (R59): A PARAM_WR is accepted and scheduled for one tick, or a kept response is sent again for a repeated TAG. -/
  | paramWr (payload : List Byte)
  /-- `PARAM_RD` (R59): A PARAM_RD is accepted, and its entries are read from the snapshot at W of its chosen tick. -/
  | paramRd (payload : List Byte)
  /-- `TARGET_SET` (R78): A TARGET_SET is accepted, and its clamped target values take effect in the chosen tick. -/
  | targetSet (payload : List Byte)
  /-- `PARAM_RSP` (R59): The host receives a PARAM_RSP into ring 20, and HFLU event 76 is raised for a refusal. -/
  | paramRsp (tag status index count ty : Nat) (values : List Nat)
  /-- `TIME_SYNC` (R57): The host endpoint accepts a TIME_SYNC and stamps it on the host time counter. -/
  | timeSync (stc fr state source utc err : Nat)
  /-- `EVENT` (R346): An accepted EVENT cell sets its source's pending bit in the event router and goes to ring 21 and to the journal. -/
  | event (number : Fin 64) (kind count first last : Nat) (data : List Nat)
  /-- `TELEMETRY` (R217): The host receives a TELEMETRY cell into ring 21. -/
  | telemetry (block inst window ms : Nat) (values : List Nat)
  /-- `RECORD_READY` (R290): The host receives a RECORD_READY announcing a session record or a legal log entry. -/
  | recordReady (output kind number stc : Nat)
  /-- `IMG_CTRL_BEGIN` (R86): IMG_CTRL BEGIN starts an image transfer and sets the standby bank to RECEIVING, or is refused with BUSY. -/
  | imgCtrlBegin (xfer length : Nat)
  /-- `IMG_DATA` (R86): An IMG_DATA cell is written to staging at its OFFSET, and the transfer aborts if the data reaches past LENGTH. -/
  | imgData (xfer offset : Nat) (bytes : List Byte)
  /-- `IMG_CTRL_END` (R86): IMG_CTRL END checks the digest and SEQ continuity, and then starts validation or hands a token or legally relevant image to its owner. -/
  | imgCtrlEnd (xfer : Nat) (digest : List Byte)
  /-- `IMG_CTRL_ABORT` (R86): IMG_CTRL ABORT ends the transfer and sets the standby bank to INVALID. -/
  | imgCtrlAbort (xfer : Nat)
  /-- `IMG_STAT` (R55): The host receives IMG_STAT with the outcome of an image transfer. -/
  | imgStat (xfer status : Nat)
  /-- `STREAM_VALIDATION_COMPLETE` (R82): Validation and expansion end, and the standby bank becomes VALID or REFUSED with its code. -/
  | streamValidationComplete (damaged : Bool)
  /-- `STS_PERSIST` (R89): A write of 0x50E5 to STS_PERSIST asks the FMP to write the active stream to the other NOR slot. -/
  | stsPersist (value : Nat)
  /-- `PERSIST_COMPLETE` (R89): A persist ends by marking the slot boot-valid and raising STS_MINSVN, or it fails with a code. -/
  | persistComplete (readBack : Bool)
  /-- `STS_SWAPCTL_ARM` (R90): A write of ARM arms a swap at STS_SWAPAT, or the arm is refused with a code. -/
  | stsSwapctlArm
  /-- `STS_SWAPCTL_CANCEL` (R90): A write of CANCEL cancels an armed swap with code CANCELLED. -/
  | stsSwapctlCancel
  /-- `STREAM_SWAP` (R91): At the swap tick, the bank roles exchange, REGINIT and the presets are applied, and the incoming stream governs. -/
  | streamSwap
  /-- `PPS_IN_EDGE` (R100): A rising PPS_IN edge is captured, its phase error is formed, and the edge is accepted or rejected. -/
  | ppsInEdge (cap : Nat)
  /-- `PPS_MISSING_SECOND` (R100): A second passes with no accepted PPS edge, so PPSMISS is counted and PPS_IN becomes invalid after three such seconds. -/
  | ppsMissingSecond
  /-- `PTP_MESSAGE` (R101): The FMP processes a received IEEE 1588 message on a field port. -/
  | ptpMessage (port : Fin 2) (rx : Int) (m : PtpMsg)
  /-- `PDELAY_REQ_SEND` (R101): A Pdelay_Req is sent every second on each field port. -/
  | pdelayReqSend (port : Fin 2)
  /-- `PTP_OFFSET_SAMPLE` (R101): A write to STC_PTPOFS delivers one offset sample, which updates source validity and feeds the servo when the source is selected. -/
  | ptpOffsetSample (port : Fin 2) (ofs : Int)
  /-- `PTP_SAMPLE_TIMEOUT` (R99): A PTP port gets no sample for 3.0 s and becomes invalid. -/
  | ptpSampleTimeout (port : Fin 2)
  /-- `SERVO_SAMPLE_TIMEOUT` (R102): No sample arrives for 1.5 s, so the phase term is set to 0 and the frequency term is held. -/
  | servoSampleTimeout
  /-- `STC_STEP` (R104): A pending step is applied at the next S of the tick grid, which abandons that tick and restarts the carriers. -/
  | stcStep
  /-- `ESTERR_LIMIT` (R106): STC_ESTERR rises to ERRLIM or above, so STC event 33 is raised with KIND 1. -/
  | esterrLimit
  /-- `STC_SECOND` (R110): At each whole STC second, PPS_OUT rises and the F0 time counter is copied from the STC. -/
  | stcSecond
  /-- `PPS_OUT_FALL` (R110): PPS_OUT falls after its WIDTH. -/
  | ppsOutFall
  /-- `STC_SETSEC_HI_ARM` (R109): A write of STC_SETSEC_HI with ARM = 1 arms a seconds setting for the next accepted PPS edge. -/
  | stcSetsecHiArm (value : Nat)
  /-- `STC_NOW_LO_READ` (R111): A read of STC_NOW_LO latches STC_NOW_HI and STC_NOW_FR in the same cycle. -/
  | stcNowLoRead
  /-- `STC_MILLISECOND` (R98): At each whole STC millisecond, the share frame begins, gate lists restart and STC-gated work becomes due. -/
  | stcMillisecond
  /-- `TEN_US_GRID` (R299): While no stream is active, outputs are evaluated and PARAM requests are served at each whole 10 µs of the STC. -/
  | tenUsGrid
  /-- `MEASUREMENT_LATCH` (R112): At S + t_meas, measurements latch, damper inputs and CONTROL messages are taken, and computation starts. -/
  | measurementLatch (bits : List (Nat × List Bool))
  /-- `WRITE_PHASE` (R112): At W, actuations pass to the PWM shadows, the signal snapshot is taken, and W-time processing runs. -/
  | writePhase
  /-- `MVM` (R121): The MVM instruction initialises the accumulators and accumulates a matrix-vector product by the bit-exact rule. -/
  | ceMvm (a : CeArgs) (ecc : Option EccHit)
  /-- `MVA` (R121): The MVA instruction continues the accumulators with a further matrix. -/
  | ceMva (a : CeArgs) (ecc : Option EccHit)
  /-- `WB` (R121): The WB instruction shifts, rounds and saturates the accumulators into destination signals. -/
  | ceWb (a : CeArgs) (ecc : Option EccHit)
  /-- `VADD` (R124): The VADD instruction forms the saturated elementwise sum of two signal vectors. -/
  | ceVadd (a : CeArgs) (ecc : Option EccHit)
  /-- `VSUB` (R124): The VSUB instruction forms the saturated elementwise difference of two signal vectors. -/
  | ceVsub (a : CeArgs) (ecc : Option EccHit)
  /-- `VLIM` (R124): The VLIM instruction clamps signals between their bound signals. -/
  | ceVlim (a : CeArgs) (ecc : Option EccHit)
  /-- `MOV` (R124): The MOV instruction copies a signal vector. -/
  | ceMov (a : CeArgs) (ecc : Option EccHit)
  /-- `LUT` (R146): The LUT instruction interpolates a feed-forward table, with direction selection when DIR is set. -/
  | ceLut (a : CeArgs) (ecc : Option EccHit)
  /-- `SLEW` (R143): The SLEW instruction runs the named slew generators one step under their rate and jerk limits. -/
  | ceSlew (a : CeArgs) (ecc : Option EccHit)
  /-- `BQ` (R132): The BQ instruction runs one stage of biquad sections in direct form II transposed. -/
  | ceBq (a : CeArgs) (ecc : Option EccHit)
  /-- `RESID` (R153): The RESID instruction tests residuals against detector thresholds and counts runs beyond them. -/
  | ceResid (a : CeArgs) (ecc : Option EccHit)
  /-- `FERR` (R151): The FERR instruction runs the named following-error supervisors. -/
  | ceFerr (a : CeArgs) (ecc : Option EccHit)
  /-- `IDLE` (R124): The IDLE instruction spends C cycles and does nothing else. -/
  | ceIdle (a : CeArgs)
  /-- `END` (R123): The END instruction ends a code sequence. -/
  | ceEnd (a : CeArgs)
  /-- `CEN_DBG_HALT` (R115): A write of HALT in SERVICE halts the CE after W, and a write of 0 resumes it at the next S. -/
  | cenDbgHalt (halt : Bool)
  /-- `CEN_DBG_STEP` (R115): A write of STEP while the CE is HALTED runs exactly one tick, after which the CE halts again. -/
  | cenDbgStep
  /-- `LAW_MAN_WRITE` (R135): A write of MAN switches a block between MANUAL and AUTOMATIC from the chosen tick. -/
  | lawManWrite (block : Fin 8) (value : Nat)
  /-- `ENCODER_TRANSITION` (R147): A filtered change on ENC_A or ENC_B updates the quadrature count or counts an illegal transition. -/
  | encoderTransition (axis : Fin 4) (a b : Bool)
  /-- `ENCODER_INDEX_EDGE` (R149): An index edge sets zref or is checked against ZTOL. -/
  | encoderIndexEdge (axis : Fin 4)
  /-- `AXIS_ENABLE` (R150): EN written to 1 in a mode that allows switching moves the axis from OFF to RUN. -/
  | axisEnable (axis : Fin 4)
  /-- `AXIS_DISABLE` (R150): EN written to 0 moves a running axis to STOPPING with its generator target at 0. -/
  | axisDisable (axis : Fin 4)
  /-- `AXIS_CLR` (R150): CLR written to 1 moves an axis from FAULT to OFF. -/
  | axisClr (axis : Fin 4)
  /-- `STOPTIME_EXPIRY` (R150): STOPTIME elapses for a stopping axis, so the axis goes to OFF or FAULT. -/
  | stoptimeExpiry (axis : Fin 4)
  /-- `DGR_VARREQ` (R156): A write of GO requests a variant key for a block, which is pended at W or refused with a code. -/
  | dgrVarreq (block : Fin 8) (value : Nat)
  /-- `DGR_LOST_WRITE` (R165): A W1C write to DGR_LOST clears lost modules only in READY or lower or in MANUAL, and a refusal is counted. -/
  | dgrLostWrite (block : Fin 8) (value : Nat)
  /-- `LEG_SHEDDING_EVALUATION` (R168): At each whole 10 ms, the FMP selects the module count from the loss table and requests a variant and carrier multiple. -/
  | legSheddingEvaluation
  /-- `PERIOD_START` (R172): At a leg's carrier period start, it loads its duty and applies the minimum-pulse policy. -/
  | periodStart (leg : Fin 80)
  /-- `PWM_GRPDIV_WRITE` (R173): A write of REQ pends a permitted carrier multiple, or sets DIVBAD. -/
  | pwmGrpdivWrite (group : Fin 20) (value : Nat)
  /-- `PWM_FORCE_WRITE` (R183): A force value takes effect at the leg's next period start, and both-high forces are rejected. -/
  | pwmForceWrite (leg : Fin 80) (value : Nat)
  /-- `TRIP_INPUT_FALL` (R188): A trip input pad falls, so its mapped legs reach the safe pattern within 25 ns. -/
  | tripInputFall (input : Fin 96)
  /-- `TRIP_QUALIFICATION` (R188): A trip input stays active for FILT, so it latches TRP_STAT and takes its OUTPUT or DEVICE action. -/
  | tripQualification (input : Fin 96)
  /-- `TRIP_INPUT_RISE` (R188): A trip input becomes inactive, and it is counted as a glitch when it had not qualified. -/
  | tripInputRise (input : Fin 96)
  /-- `TRP_CLR` (R189): A clear of a TRP_STAT bit is accepted after TREARM of inactivity, and refused otherwise. -/
  | trpClr (word : Fin 3) (value : Nat)
  /-- `TRP_SWCLR` (R190): A write to TRP_SWCLR clears software trips, and a clear of DEV is refused while a GOOSE ACTION 3 holds. -/
  | trpSwclr (value : Nat)
  /-- `SYNC_IN_EDGE` (R185): A SYNC_IN edge is captured, its error is checked, and δ is slewed. -/
  | syncInEdge (cap : Nat)
  /-- `SYNC_IN_MISSING` (R186): Eight periods of REFG pass without an accepted edge, so the state becomes HELD. -/
  | syncInMissing
  /-- `SYNC_IN_ENABLE` (R186): EN written to 1 moves SYNC_IN from OFF to ACQUIRING. -/
  | syncInEnable
  /-- `SYNC_IN_DISABLE` (R186): EN written to 0 moves SYNC_IN to OFF, and δ returns towards 0. -/
  | syncInDisable
  /-- `TRIGGER_COMPARE` (R184): A trigger compare fires in the period, stamps the STC and acts on its target. -/
  | triggerCompare (group : Fin 20) (cmp : Fin 4)
  /-- `MOD_CONDITION_PRESENT` (R198): A modulator STUCK, SAT or CLK condition is detected, so it is flagged and its metering channel switches to fallback. -/
  | modConditionPresent (kind : Fin 3) (index : Fin 128)
  /-- `MOD_CONDITION_END` (R197): A health condition ends after 1.0 ms without recurrence, and MOD event 25 is raised when the last one ends. -/
  | modConditionEnd (kind : Fin 3) (index : Fin 128)
  /-- `FBA_CONVERSION_SLOT` (R201): In each 0.5 µs slot, a converter makes a control, triggered or background conversion. -/
  | fbaConversionSlot (conv : Fin 2) (raw : Int)
  /-- `CTR_START` (R206): The FMP starts a contactor sequence on the lowest idle engine, or the start is refused with a code. -/
  | ctrStart (seq : Nat)
  /-- `CTR_SEQUENCER_BOUNDARY` (R205): At each 10 µs boundary, the engines sample feedback and advance at most one step each. -/
  | ctrSequencerBoundary (fb : Nat)
  /-- `CTR_STEP_TIMEOUT` (R208): A step's TCLOSE, TOPEN or TIME limit elapses, so the step fails or completes as its operation states. -/
  | ctrStepTimeout (engine : Fin 8)
  /-- `COIL_MISMATCH` (R209): A coil's feedback disagrees with its coil state for TCLOSE or TOPEN outside its own steps, so CTR_MISM is set. -/
  | coilMismatch (coil : Fin 48)
  /-- `IMD_ENABLE` (R212): EN written to 1 starts injection at the next multiple of 2 × HP and enters SETTLING. -/
  | imdEnable (ch : Fin 4)
  /-- `IMD_HALF_PERIOD_END` (R211): An injection half period ends, and after each low half the insulation ratio is computed and the state updated. -/
  | imdHalfPeriodEnd (ch : Fin 4)
  /-- `DEMAND_RECORD_TRANSMIT` (R221): At 50 µs + DEVNO × TXSPACE, the demand record is queued on each field port that is up. -/
  | demandRecordTransmit
  /-- `DEMAND_RECORD` (R223): A received demand record is checked and used for its frame, or discarded and counted. -/
  | demandRecord (payload : List Byte)
  /-- `SHARE_CUTOFF` (R230): At 700 µs, records for the frame close, and the allocation is computed by 780 µs. -/
  | shareCutoff
  /-- `SHR_NEXTAT_ARM` (R219): A write of SHR_NEXTAT_HI with ARM arms a LIMIT, MARGIN and MEMBER change for a frame. -/
  | shrNextatArm (value : Nat)
  /-- `THERMAL_DERATE_STEP` (R237): At each whole 100 ms, the thermal derate factor FT falls or recovers by 100. -/
  | thermalDerateStep
  /-- `ROUTING_PLAN` (R240): At each whole 100 ms, the FMP plans at most one module routing step. -/
  | routingPlan
  /-- `ROUTING_ZERO_TIMEOUT` (R240): A routing step stays in ZERO for 20 ms without zero current, so it is abandoned. -/
  | routingZeroTimeout
  /-- `ETH_LINK_CHANGE` (R241): A field or management port's PHY reports link up, link down or an unsupported mode. -/
  | ethLinkChange (port : Fin 4) (up supported : Bool)
  /-- `ETH_FRAME_RECEIVE` (R244): A received Ethernet frame is stamped, classified and buffered, or dropped and counted. -/
  | ethFrameReceive (port : Fin 4) (frame : List Byte) (fcsOk : Bool)
  /-- `ETH_TRANSMIT_START` (R245): A queued frame starts on a port when its gate is open and its wire time fits before the gate closes. -/
  | ethTransmitStart (port : Fin 4)
  /-- `FNET_GCLCTL_APPLY` (R246): A write of APPLY schedules the shadow gate list for the next millisecond. -/
  | fnetGclctlApply (port : Fin 2) (nent : Nat)
  /-- `SV_FRAME` (R249): A sampled-value frame is matched to a subscription, and its samples enter the jitter buffer or are released. -/
  | svFrame (m : SvMsg)
  /-- `SV_SAMPLE_DEADLINE` (R251): A sample that has not arrived by its deadline is released missing with held values. -/
  | svSampleDeadline (sub : Fin 8)
  /-- `SV_SUBSCRIPTION_ENABLE` (R252): EN written to 1 with DSET set moves a subscription to INVALID with an empty buffer. -/
  | svSubscriptionEnable (sub : Fin 8)
  /-- `SV_SUBSCRIPTION_DISABLE` (R252): EN written to 0 moves a subscription to OFF. -/
  | svSubscriptionDisable (sub : Fin 8)
  /-- `SV_SUBSCRIPTION_RECONFIGURE` (R252): A write to a subscription's configuration register returns it to INVALID with an empty buffer. -/
  | svSubscriptionReconfigure (sub : Fin 8)
  /-- `SV_PUBLICATION` (R253): A publication frame is formed from resampled metering data and queued at most 150 µs after its last sample. -/
  | svPublication (pub : Fin 2) (raws : List (List Int)) (len : Nat)
  /-- `GOOSE_FRAME` (R255): A GOOSE frame is checked and accepted, which updates VALUE, QBAD and the subscription state. -/
  | gooseFrame (m : GooseMsg)
  /-- `GOOSE_TTL_EXPIRY` (R256): timeAllowedtoLive elapses, so the subscription becomes STALE. -/
  | gooseTtlExpiry (sub : Fin 32)
  /-- `GOOSE_SUBSCRIPTION_ENABLE` (R256): EN written to 1 moves a GOOSE subscription to WAITING. -/
  | gooseSubscriptionEnable (sub : Fin 32)
  /-- `GOOSE_SUBSCRIPTION_DISABLE` (R256): EN written to 0 moves a GOOSE subscription to OFF with HOLD at 0. -/
  | gooseSubscriptionDisable (sub : Fin 32)
  /-- `METROLOGY_INSTANT` (R262): At t_n + 1.000 ms, the samples of instant t_n are processed into energy increments. -/
  | metrologyInstant (main vh : List Int)
  /-- `METROLOGY_RETURN_WAIT` (R265): An input's health bit has been clear for RETURN, so the channel returns to its main source. -/
  | metrologyReturnWait (channel : Fin 16)
  /-- `TEST_PULSE_START` (R277): At a whole STC microsecond with a pulse owed and spacing met, a test pulse starts. -/
  | testPulseStart (k : Fin 4)
  /-- `TEST_PULSE_END` (R277): A test pulse ends after w µs. -/
  | testPulseEnd (k : Fin 4)
  /-- `TEST_OUTPUT_CONFIG_WRITE` (R278): A write to MET_TPCFG or MET_TPCONST resets the accumulator and the owed pulses and ends any pulse in progress. -/
  | testOutputConfigWrite (k : Fin 4) (isConst : Bool) (value : Nat)
  /-- `MET_ECLR` (R273): A keyed write clears the named energy accumulators before sealing, and is refused after sealing. -/
  | metEclr (value : Nat)
  /-- `LR_IMAGE_STAGED` (R281): The metrology processor has checked a legally relevant image and written it to its inactive slot, so the image is STAGED. -/
  | lrImageStaged (version svn : Nat) (sum : List Byte)
  /-- `LR_ACTIVATE` (R281): A write of 0x4C52 to MET_LRCTL.KEY starts the switch to the staged image, or is refused with a code. -/
  | lrActivate (key : Nat)
  /-- `LR_SWITCH_COMPLETE` (R281): The new image checks its checksum and is marked good and logged, or the old image runs again with SELFTEST. -/
  | lrSwitchComplete (ok : Bool)
  /-- `METROLOGY_PROCESSOR_RUNNING` (R280): The metrology processor runs again, which ends the restart interval. -/
  | metrologyProcessorRunning
  /-- `SEAL_REQUEST` (R282): A write of 0x5EA1 to BIL_SEALCTL checks the seal conditions and starts sealing or refuses with a code. -/
  | sealRequest (key : Nat)
  /-- `SEAL_COMPLETE` (R282): The seal and binding fuses are blown, a SEALED log entry is written, and a commit is requested. -/
  | sealComplete
  /-- `COMMIT_REQUEST` (R286): A write of BIL_COMMIT.REQ requests a commit, which merges with any pending request. -/
  | commitRequest
  /-- `COMMIT_15_MIN` (R286): At each whole 15 min of the STC, a commit is requested. -/
  | commit15Min
  /-- `COMMIT_COMPLETE` (R286): A commit ends with the snapshot in NOR and the pending records moved, or fails after one repeat. -/
  | commitComplete (ok : Bool)
  /-- `SHUTDOWN_RECORD_NOR_COPY` (R391): After any billing commit in progress, the shutdown record is copied to a field NOR slot. -/
  | shutdownRecordNorCopy
  /-- `SESSION_OPEN` (R289): OP = 1 opens a session on an output, or is refused with a code. -/
  | sessionOpen (output : Fin 4)
  /-- `SESSION_CLOSE` (R290): OP = 2 closes an open session with CAUSE HOST, or is refused with NOTOPEN. -/
  | sessionClose (output : Fin 4)
  /-- `SESSION_RECORD_SIGNED` (R290): The session record is built and signed, RECORD_READY is sent, and a commit is requested. -/
  | sessionRecordSigned (output : Fin 4)
  /-- `BIL_RECACK` (R294): A write of BIL_RECACK acknowledges stored records up to and including that number. -/
  | bilRecack (value : Nat)
  /-- `BIL_LOGACK` (R295): A write of BIL_LOGACK acknowledges legal log entries up to and including that number. -/
  | bilLogack (value : Nat)
  /-- `REC_REQ_BEGIN` (R294): REC_REQ BEGIN sends a record or log entry as REC_DATA, or an unknown marker. -/
  | recReqBegin (xfer number : Nat)
  /-- `REC_DATA` (R344): The host receives REC_DATA bytes into ring 26. -/
  | recData (xfer offset : Nat) (bytes : List Byte) (last : Bool)
  /-- `THEFT_WATCH_BLOCK` (R296): In DORMANT, each 100 ms block of theft-watch samples is classified above or below THR. -/
  | theftWatchBlock (samples : List (List Int))
  /-- `OUT_LOCK` (R300): The LOCK command moves an output from DETECT to LOCK and requests SEQ LOCK. -/
  | outLock (output : Fin 4)
  /-- `OUT_UNLOCK` (R300): The UNLOCK command requests SEQ UNLOCK and clears LOCKED when the sequence is done. -/
  | outUnlock (output : Fin 4)
  /-- `OUT_START` (R300): The START command moves an output from LOCK to INSULATION after its checks. -/
  | outStart (output : Fin 4)
  /-- `OUT_STOP` (R300): The STOP command sends an output in INSULATION, PRECHARGE or DELIVER to RAMPDOWN. -/
  | outStop (output : Fin 4)
  /-- `OUT_CLR` (R300): The CLR command leaves FAULT and clears the output-scope software trips once every cause has ended. -/
  | outClr (output : Fin 4)
  /-- `TLOCK_EXPIRY` (R301): TLOCK elapses in LOCK with LOCKED = 0, so the output goes to FAULT with TIMEOUT. -/
  | tlockExpiry (output : Fin 4)
  /-- `TINS_EXPIRY` (R301): TINS elapses in INSULATION, so the output goes to RAMPDOWN with TIMEOUT pending. -/
  | tinsExpiry (output : Fin 4)
  /-- `TPRE_EXPIRY` (R301): TPRE elapses in PRECHARGE, so the output goes to RAMPDOWN with TIMEOUT pending. -/
  | tpreExpiry (output : Fin 4)
  /-- `TRAMP_EXPIRY` (R301): TRAMP elapses in RAMPDOWN, so the output goes to FAULT with RAMP. -/
  | trampExpiry (output : Fin 4)
  /-- `TDIS_EXPIRY` (R301): TDIS elapses in WELDCHECK with the voltage still above VSAFE, so the output goes to FAULT with DISCHARGE. -/
  | tdisExpiry (output : Fin 4)
  /-- `OUT_SEQUENCE_RETRY` (R299): Every 1 ms, the FMP repeats a requested sequence start that was refused with NOENG or CONFLICT. -/
  | outSequenceRetry (output : Fin 4)
  /-- `CONNECTOR_CHANGE` (R308): A debounced change of CONN_N changes the connector state of an output. -/
  | connectorChange (output : Fin 4) (present : Bool)
  /-- `ENABLE_LOOP_CHANGE` (R308): A debounced change of ELOOP_N changes the enable-loop state of an output. -/
  | enableLoopChange (output : Fin 4) (closed : Bool)
  /-- `T1S_FRAME` (R309): A 10BASE-T1S frame with a good FCS is received into ring 8 + 2n. -/
  | t1sFrame (port : Fin 4) (frame : List Byte) (fcsOk : Bool) (collisions : Nat)
  /-- `CONTROL_PILOT_PERIOD` (R311): At the end of each pilot period, the plateau levels, the pilot state and DIODE are updated. -/
  | controlPilotPeriod (port : Fin 4) (high low : Option Int) (dutyM : Nat)
  /-- `PROXIMITY_READING` (R313): Every 1 ms, the proximity resistance is measured, and a sustained change raises an event. -/
  | proximityReading (port : Fin 4) (res : Nat)
  /-- `FLOW_WINDOW` (R314): Every 100 ms, the coolant flow is computed, and no-flow is decided. -/
  | flowWindow (output : Fin 4) (count : Nat)
  /-- `FAN_STALL` (R315): No tach edge arrives for 1 s at a duty of 20 % or more, so STALL is set. -/
  | fanStall (output : Fin 4)
  /-- `STK_CTL_WAKE` (R325): A write of WAKE moves the chain from FAULT to WAKING. -/
  | stkCtlWake
  /-- `CHAIN_REWAKE` (R325): With AUTOW set, the chain returns from FAULT to WAKING 600 ms after it entered FAULT. -/
  | chainRewake
  /-- `WAKE_COMPLETE` (R325): The wake tone has been sent and the wake time has elapsed, so enumeration starts. -/
  | wakeComplete
  /-- `ENUM_COMPLETE` (R325): Enumeration ends with the chain in RUN, or in FAULT after the third wake. -/
  | enumComplete
  /-- `CHAIN_NOP` (R323): The device sends the NOP chain command to a satellite. -/
  | chainNop (sat : Fin 32)
  /-- `CHAIN_ENUM` (R325): The device sends the ENUM chain command, which gives an address to the first unaddressed satellite. -/
  | chainEnum (fromB : Bool)
  /-- `CHAIN_ECHO` (R325): The device sends the ECHO chain command to measure a satellite's round-trip delay. -/
  | chainEcho (fromB : Bool) (sat : Fin 32)
  /-- `CHAIN_CFG` (R321): The device sends the CFG chain command, which gives a satellite its arrival delays and flags. -/
  | chainCfg (sat : Fin 32)
  /-- `CHAIN_SNAP` (R328): The device broadcasts SNAP from each serving end, timed for the snapshot target. -/
  | chainSnap
  /-- `CHAIN_READ` (R329): The device sends the READ chain command for snapshot ID m, nearest satellite first. -/
  | chainRead (fromB : Bool)
  /-- `CHAIN_BAL` (R334): The device sends the BAL chain command with a satellite's applied duties in the free time. -/
  | chainBal (fromB : Bool)
  /-- `CHAIN_OWT` (R333): The device broadcasts OWT to switch the open-wire test current on a line or off. -/
  | chainOwt
  /-- `CHAIN_SLEEP` (R325): The device broadcasts SLEEP from both ends when the chain goes to OFF. -/
  | chainSleep
  /-- `CHAIN_RESPONSE` (R324): A valid satellite response arrives, which resets MISSRUN and is processed for its command. -/
  | chainResponse (fromB : Bool) (frame : List Byte) (rtt : Nat)
  /-- `CHAIN_RESPONSE_MISSED` (R324): A response is missed, so MISSRUN rises and the chain goes to FAULT at 3. -/
  | chainResponseMissed (fromB : Bool)
  /-- `STK_OWCFG_START` (R333): A write of START begins an open-wire sweep. -/
  | stkOwcfgStart (owper owthr : Nat)
  /-- `OPEN_WIRE_PERIOD` (R333): Every OWPER seconds, an open-wire sweep starts. -/
  | openWirePeriod
  /-- `BUFFER_GO` (R336): GO moves the buffer from HELD to RUN when the chain checks pass, and is refused otherwise. -/
  | bufferGo
  /-- `BUFFER_STOP` (R336): STOP moves the buffer from RUN to QUENCHING with CAUSE 5. -/
  | bufferStop
  /-- `BUFFER_TQ_EXPIRY` (R336): TQ elapses in QUENCHING, so the buffer is HELD. -/
  | bufferTqExpiry
  /-- `HRNG_TAIL_WRITE` (R342): A write of HRNG_TAIL gives descriptors to hardware and restarts a stalled ring. -/
  | hrngTailWrite (ring : Fin 32) (index : Nat)
  /-- `RING_COAL_TIMEOUT` (R345): The coalescing TIME passes, so a receive descriptor completes or a ring event is raised. -/
  | ringCoalTimeout (ring : Fin 32)
  /-- `DRAM_SCRUB` (R339): The background scrubber reads and corrects DRAM, and each ECC error found is counted and reported. -/
  | dramScrub (errors : List (Nat × Bool))
  /-- `HOST_BAD_ACCESS` (R337): A host access to an unmapped or protected address ends in a bus error, or a reserved register reads 0, and HSYS event 71 is raised. -/
  | hostBadAccess (addr : Nat) (write narrow machine : Bool)
  /-- `HSYS_IMGOK` (R341): A write of 0x600D makes the running TRIAL slot GOOD with the higher generation. -/
  | hsysImgok (value : Nat)
  /-- `HEVT_CLAIM_READ` (R346): A read of HEVT_CLAIM returns the highest-priority pending source and clears its pending bit. -/
  | hevtClaimRead (core : Fin 4)
  /-- `HEVT_CLAIM_WRITE` (R346): A write of a source number to HEVT_CLAIM completes that source. -/
  | hevtClaimWrite (source : Nat)
  /-- `GPIO_EDGE` (R347): A GPIO pin with its EVT bit set changes level, so event 127 is raised. -/
  | gpioEdge (pin : Fin 32) (level : Bool)
  /-- `CAN_TX_REQ` (R352): A write of REQ moves a transmit buffer to PENDING. -/
  | canTxReq (ctrl : Fin 4) (buf : Fin 3)
  /-- `CAN_TX_ABORT` (R352): A write of ABORT aborts a pending buffer, or lets a frame being sent finish without retry. -/
  | canTxAbort (ctrl : Fin 4) (buf : Fin 3)
  /-- `CAN_START_OF_FRAME` (R353): At a start of frame, one pending buffer is chosen and starts SENDING. -/
  | canStartOfFrame (ctrl : Fin 4)
  /-- `CAN_TRANSMIT_COMPLETE` (R352): A sent frame is acknowledged and completes, so its buffer becomes DONE. -/
  | canTransmitComplete (ctrl : Fin 4)
  /-- `CAN_ARBITRATION_LOST` (R354): A buffer loses arbitration, so it retries or ends ARBLIM. -/
  | canArbitrationLost (ctrl : Fin 4)
  /-- `CAN_FRAME_ERROR` (R354): An error occurs during a frame, so error counters change and the buffer retries or ends ERRLIM. -/
  | canFrameError (ctrl : Fin 4) (lec : Fin 7) (step : Fin 9)
  /-- `CAN_RECOVER` (R355): A write of RECOVER starts bus-off recovery when ABO = 0. -/
  | canRecover (ctrl : Fin 4)
  /-- `CAN_BUSOFF_RECOVERY_COMPLETE` (R355): 128 sequences of 11 recessive bits end bus-off, and the controller becomes error active. -/
  | canBusoffRecoveryComplete (ctrl : Fin 4)
  /-- `CAN_FRAME_RECEIVED` (R356): A received frame is filtered to a mailbox, its shadow or the receive ring, or dropped. -/
  | canFrameReceived (ctrl : Fin 4) (words : List Nat)
  /-- `CAN_MAILBOX_LOCK` (R357): A read of word 0 of a mailbox locks it and latches MBTS. -/
  | canMailboxLock (ctrl : Fin 4) (mb : Fin 16)
  /-- `CAN_MAILBOX_RELEASE` (R357): A read of the last frame word releases a mailbox and moves any shadow frame in. -/
  | canMailboxRelease (ctrl : Fin 4) (mb : Fin 16)
  /-- `CAN_RXPOP` (R359): A write of RXPOP frees the oldest FCAN receive-ring entry. -/
  | canRxpop (ctrl : Fin 2)
  /-- `CAN_FILTER_WRITE` (R356): A write to a mailbox filter register empties that mailbox and its shadow. -/
  | canFilterWrite (ctrl : Fin 4) (mb : Fin 16) (reg : Fin 3) (value : Nat)
  /-- `DEBUG_UNLOCK` (R365): An accepted DEBUG_UNLOCK token sets DBGARM, so debug is enabled at the next reset. -/
  | debugUnlock (die : Side) (token : List Byte)
  /-- `LIFECYCLE_TOKEN` (R363): An accepted LIFECYCLE token blows the next lifecycle group, which takes effect at the next reset. -/
  | lifecycleToken (die : Side) (token : List Byte) (fuseOk : Bool)
  /-- `SLOT_PROGRAM` (R374): An accepted SLOT_PROGRAM token programs an empty key slot with a new key hash. -/
  | slotProgram (die : Side) (token : List Byte) (fuseOk : Bool)
  /-- `SLOT_REVOKE` (R374): An accepted SLOT_REVOKE token revokes a key slot from the next verification. -/
  | slotRevoke (die : Side) (token : List Byte) (fuseOk : Bool)
  /-- `INJECTION_TOKEN` (R400): An accepted injection token permits injections within its points, window and count. -/
  | injectionToken (die : Side) (token : List Byte)
  /-- `RELOCK` (R365): A write of RELOCK clears DBGARM, so debug is disabled at the next reset. -/
  | relock (die : Side)
  /-- `FSEC_PAIRCTL_GO` (R375): FSEC verifies the enclave's pairing input, answers in PAIROUT and derives the transport and bulk keys. -/
  | fsecPairctlGo
  /-- `KEY_LOAD` (R376): A wrapped key in FSEC_KEYIN is unwrapped into a share or process-bus slot, or refused. -/
  | keyLoad (target : Fin 8)
  /-- `KEY_SLOT_CLEAR` (R376): A write with CLR = 1 empties a field key slot. -/
  | keySlotClear (target : Fin 8)
  /-- `FSEC_STMTCTL_GO` (R379): FSEC builds and signs the field statement within 20 ms. -/
  | fsecStmtctlGo
  /-- `DERIVE` (R382): The enclave DERIVE command derives a software key into a slot. -/
  | encDerive (blk : EncBlock)
  /-- `UNWRAP` (R382): The enclave UNWRAP command unwraps a key under WRAP into a slot. -/
  | encUnwrap (blk : EncBlock)
  /-- `WRAP` (R382): The enclave WRAP command wraps an exportable slot under WRAP to memory. -/
  | encWrap (blk : EncBlock)
  /-- `SIGN` (R382): The enclave SIGN command signs a 48-byte digest with a slot key. -/
  | encSign (blk : EncBlock)
  /-- `ATTEST` (R380): The enclave ATTEST command signs an attestation quote with DEVID. -/
  | encAttest (blk : EncBlock)
  /-- `EXTEND` (R378): The enclave EXTEND command extends MR2 or MR3 with a digest. -/
  | encExtend (blk : EncBlock)
  /-- `FIELDMEAS` (R378): The enclave FIELDMEAS command verifies a field statement and extends MR4 to MR7 with changed values. -/
  | encFieldmeas (blk : EncBlock)
  /-- `PAIR` (R375): The enclave PAIR command produces the PAIRIN bytes or consumes the PAIROUT bytes of a pairing. -/
  | encPair (blk : EncBlock)
  /-- `KEYWRAPF` (R376): The enclave KEYWRAPF command rewraps a key under K_T as the input for a field key load. -/
  | encKeywrapf (blk : EncBlock)
  /-- `AEAD` (R382): The enclave AEAD command runs AES-256-GCM with a slot key or K_B. -/
  | encAead (blk : EncBlock)
  /-- `RANDOM` (R383): The enclave RANDOM command returns DRBG bytes, or is refused with ENTROPY. -/
  | encRandom (blk : EncBlock)
  /-- `ENCLAVE_CLEAR` (R382): The enclave CLEAR command empties a key slot. -/
  | encClear (blk : EncBlock)
  /-- `SEC_MONOINC` (R371): A write of SEC_MONOINC increments the named monotonic counters, and their mirror is written. -/
  | secMonoinc (mask : Fin 16)
  /-- `TRNG_HEALTH_FAILURE` (R383): A TRNG health test fails, so FAIL is set and randomness is refused until 1,024 samples pass. -/
  | trngHealthFailure (die : Side)
  /-- `TAMPER_INPUT` (R384): An enabled tamper input stays low for 100 µs, so it latches and zeroises keys if ZEROISE is set. -/
  | tamperInput (die : Side) (input : Fin 2) (low : Bool)
  /-- `BOUNDARY_SCAN_INSTRUCTION` (R367): A boundary-scan instruction that drives pads acts only in permitted modes, and acts as BYPASS otherwise. -/
  | boundaryScanInstruction (die : Side) (drives : Bool)
  /-- `THERMAL_READING` (R387): Each 1 ms sensor update re-evaluates WARN, THROTTLE and SHUTDOWN. -/
  | thermalReading (side : Side) (conv : List (List Int)) (failed : List Bool)
  /-- `TQS_EXPIRY` (R391): At t0 + TQS, outputs still in codes 4 to 7 go to FAULT with CAUSE DEVICE. -/
  | tqsExpiry
  /-- `HOST_SHUTDOWN_CLEAR` (R395): Every host sensor reads below WARN − HWARN for 1 s, so the host restarts as a warm reset. -/
  | hostShutdownClear
  /-- `THRESHOLD_WRITE` (R388): A threshold or hysteresis write is applied, or refused with ORDERR when it breaks the required order. -/
  | thresholdWrite (side : Side) (hyst : Bool) (value : Nat)
  /-- `FTHM_RECCTL` (R392): A write of 0xAC4D makes the next FMP RE_ARM acknowledge the shutdown record. -/
  | fthmRecctl (value : Nat)
  /-- `HTHM_SHUTREC_CLR` (R395): A write of CLR sets HTHM_SHUTREC.VALID to 0. -/
  | hthmShutrecClr
  /-- `INJECTION_START` (R398): A write of GO starts a permitted injection, or refuses it with a code. -/
  | injectionStart (side : Side) (point : Nat) (inst : Nat)
  /-- `INJECTION_STOP` (R399): A write of STOP ends every active injection on the side. -/
  | injectionStop (side : Side)
  /-- `INJECTION_END` (R397): An injection reaches the end stated for its point, and its end event is raised. -/
  | injectionEnd (point : Nat) (inst : Nat)
  /-- `JOURNAL_ALLOWANCE` (R402): Every 100 µs, the write allowance gains one unit, and the oldest held record is written. -/
  | journalAllowance
  /-- `FLOOD_END` (R403): QUIET passes with no report from a source in flood, so a FLOOD_END entry is written. -/
  | floodEnd (source : Fin 128)
  /-- `JRN_DATA` (R404): The host receives JRN_DATA with the events kept while the link was down into ring 23. -/
  | jrnData (xfer offset : Nat) (bytes : List Byte) (last : Bool)
  /-- `CAPTURE_ARM` (R405): A write of ARM moves the capture from OFF or FROZEN to ARMED. -/
  | captureArm
  /-- `CAPTURE_TRIGGER` (R406): A write of TRIGGER triggers the capture manually. -/
  | captureTrigger
  /-- `CAPTURE_STOP` (R405): A write of STOP sets the capture to OFF. -/
  | captureStop
  /-- `CAP_REQ_BEGIN` (R407): CAP_REQ BEGIN starts a live stream, or a readout of the frozen ring. -/
  | capReqBegin (xfer len : Nat)
  /-- `CAP_REQ_END` (R407): CAP_REQ END ends a capture stream. -/
  | capReqEnd (xfer : Nat)
  /-- `CAP_REQ_ABORT` (R407): CAP_REQ ABORT ends a capture stream. -/
  | capReqAbort (xfer : Nat)
  /-- `CAP_DATA` (R344): The host receives CAP_DATA bytes into ring 22. -/
  | capData (xfer offset : Nat) (bytes : List Byte) (last : Bool)
  /-- `FIELD_ASH_READY` (R408): The FMP finishes assembling the field ash area, which becomes READY. -/
  | fieldAshReady (area : List Byte)
  /-- `ASH_REQ_BEGIN` (R408): ASH_REQ BEGIN sends the field ash area as ASH_DATA. -/
  | ashReqBegin (xfer : Nat)
  /-- `ASH_DATA` (R344): The host receives ASH_DATA bytes into ring 25. -/
  | ashData (xfer offset : Nat) (bytes : List Byte) (last : Bool)
  /-- `FDIA_ASHCTL_CLR` (R408): A write of CLR empties the field ash area. -/
  | fdiaAshctlClr
  /-- `HDIA_ASHCTL_SNAP` (R409): A write of SNAP copies every host register block into the ash snapshot area. -/
  | hdiaAshctlSnap
  /-- `HDIA_ASHCTL_EXPORTED` (R410): A write of EXPORTED sets the ash region to EXPORTED so that it can be reused. -/
  | hdiaAshctlExported
  /-- `ASH_GATHER_COMPLETE` (R409): Firmware finishes gathering the ash record and sets it COMPLETE. -/
  | ashGatherComplete (endOff : Nat)
  /-- `BAD_ACCESS` (R414): A bad FMP access has no side effect and is latched in FSYS_BADADDR. -/
  | badAccess (addr : Nat) (write narrow : Bool)
  /-- `REGISTER_WRITE` (R7): A write to a register that has no row of its own follows its access type. -/
  | registerWrite (addr value : Nat)
  /-- `REGISTER_READ_CLEAR` (R7): A read of an RC register returns its value and then clears it. -/
  | registerReadClear (addr : Nat)
  /-- `LATCHED_PAIR_READ` (R111): A read of the LO word of a 64-bit counter latches its HI word. -/
  | latchedPairRead (addr : Nat)
  /-- `HEARTBEAT_SEND` (R64): Every 1.000 ms, the host generator sends a HEARTBEAT while it is enabled and recently kicked. -/
  | heartbeatSend
  /-- `HFLU_HBKICK` (R64): A keyed write of HFLU_HBKICK refreshes the kick age and sets HOSTSTATE for the following heartbeats. -/
  | hfluHbkick (value : Nat)
  /-- `HFLU_TXWIN_COMMIT` (R51): A write to COMMIT queues a software SAFETY or CONTROL cell, or discards it when the queue is full. -/
  | hfluTxwinCommit (win : Fin 2)
  /-- `FIELD_LOST` (R67): No HB_ACK is accepted for T_FLOSS, so HFLU event 74 is raised once. -/
  | fieldLost
  /-- `NO_CREDIT_TIMEOUT` (R50): A host queue has cells waiting and no credit for 1 ms, so HFLU event 75 is raised. -/
  | noCreditTimeout (queue : Fin 8)
  /-- `TIME_SYNC_MISSING` (R57): The host receives no TIME_SYNC for 3 ms, so HFLU event 77 is raised. -/
  | timeSyncMissing
  /-- `SUPPLY_RELEASE` (R421): Every main rail of a side has stood at or above its rising threshold for 100 µs while F0 or H0 kept a supply, so the side is released from reset, and on the field side DORMANT gives way to KINDLING. -/
  | supplyRelease (side : Side)
  /-- `BATTERY_LOSS` (R34): VBATF or VBATH is lost while the main supply of that side is also absent, so F0 or H0 loses its state, including the battery-backed SRAM and the theft watch. -/
  | batteryLoss (side : Side)
  /-- `TRNG_HEALTH_RECOVERY` (R383): After a health-test failure, 1,024 consecutive TRNG samples pass, so requests for randomness are no longer refused with ENTROPY. -/
  | trngHealthRecovery (die : Side)
  /-- `TACH_EDGE` (R315): An edge on TACHn updates the fan RPM from the edge-to-edge period and clears STALL. -/
  | tachEdge (output : Fin 4)
  /-- `HOST_ECC_ERROR` (R339): A core or DMA read of host DRAM or SRAM finds an ECC error, which is corrected and counted, or returned as a bus error with HSYS event 69 or 70 and a host fatal error. -/
  | hostEccError (sram : Bool) (addr : Nat) (uncorr : Bool)
  /-- `FMP_WINDOW_ECC_ERROR` (R125): An FMP read through a field memory window meets an uncorrectable word, which is counted in CEN_ECC.UNCORR and raises CEN event 18 with KIND 2, with no trip. -/
  | fmpWindowEccError (addr : Nat)
  /-- `PLCA_STATUS_CHANGE` (R309): The PLCA status of a 10BASE-T1S port changes, or jabber is detected, which updates VEH_T1SSTAT and raises VEH event 102. -/
  | plcaStatusChange (port : Fin 4) (ok jabber : Bool)
  /-- `PERIPHERAL_TRANSFER` (R347): A UART, SPI, I2C or USB transfer or received byte completes, which updates its FIFO or DMA ring and HPER_STAT and raises the peripheral's event. -/
  | peripheralTransfer (inst : Fin 9) (bytes : List Byte) (err : Bool)
  deriving DecidableEq, Repr

end Sys2Proof
end

