-- ==== Sys2Proof/Decode.lean ====
section
/-! DEFINITION. The decoder over the rows of spec/opcode_table.json that give bits: the table gives bits for no row. -/

namespace Sys2Proof

/-- The command a word of the table spells: none, since every row's list of bit fields is empty. -/
def decodeTableWord (_nbits _w : Nat) : Option Instr := none

end Sys2Proof
end

