-- ==== Sys2Proof/Config.lean ====
section
/-! DEFINITION. What one implementation fixes and what the spec leaves open: uninterpreted constants. The cryptographic
primitives of the published standards the spec names stand here without a body (log entry 4), and so do the free values
(log entry 3): no proof can see a value of one. -/

namespace Sys2Proof.Config

/-- A free value, applied to how many were drawn before: a value the spec leaves open. -/
opaque freeValue : Nat → Nat

/-- A byte string of exactly `n` bytes: the sizes that the spec and the named standards give. -/
def sized (n : Nat) (bs : List Byte) : List Byte := (bs ++ List.replicate n 0).take n

opaque sha384Of : List Byte → List Byte

/-- SHA-384 of a byte string, 48 bytes (R73). -/
def sha384 (bs : List Byte) : List Byte := sized 48 (sha384Of bs)

/-- ECDSA P-384 over a 48-byte digest: public key (96 bytes), digest, r and s; whether the signature holds (R73). -/
opaque ecdsaVerify : List Byte → List Byte → List Byte → Bool

opaque ecdsaSignOf : Nat → List Byte → List Byte

/-- Deterministic ECDSA P-384 signature (96 bytes, r then s) of a digest under a private key (FIPS 186-5, R368). -/
def ecdsaSign (k : Nat) (digest : List Byte) : List Byte := sized 96 (ecdsaSignOf k digest)

opaque ecdsaPublicOf : Nat → List Byte

/-- The public key (96 bytes, X then Y, big-endian) of a P-384 private key. -/
def ecdsaPublic (k : Nat) : List Byte := sized 96 (ecdsaPublicOf k)

opaque hmacSha384Of : List Byte → List Byte → List Byte

/-- HMAC-SHA-384 of a key and a message, 48 bytes (R368). -/
def hmacSha384 (key msg : List Byte) : List Byte := sized 48 (hmacSha384Of key msg)

/-- The position map of the fuse controller for F_ROOT: MAPSEED and a bit number (R362). -/
opaque fusePi : Nat → Nat → Nat

/-- The position map of the fuse controller for F_MASK: MAPSEED and a bit number (R362). -/
opaque fuseMu : Nat → Nat → Nat

/-- Temperature in 0.01 °C of the IEC 60751 equation, of the nominal resistance and the resistance, both in mΩ (R204). -/
opaque iec60751 : Nat → Nat → Int

opaque gmacOf : List Byte → List Byte → List Byte → List Byte

/-- The AES-256-GMAC tag (16 bytes) of a byte string under a key and a 12-byte IV (R224). -/
def gmac (key iv msg : List Byte) : List Byte := sized 16 (gmacOf key iv msg)

opaque aesWrapOf : List Byte → List Byte → List Byte

/-- AES key wrap of NIST SP 800-38F: key-encryption key and plaintext; 8 bytes longer than the plaintext (R376). -/
def aesWrap (kek plain : List Byte) : List Byte := sized (plain.length + 8) (aesWrapOf kek plain)

/-- Its unwrap, none where the integrity check fails. -/
opaque aesUnwrap : List Byte → List Byte → Option (List Byte)

/-- AES-256-GCM opening of a ciphertext: key, 12-byte IV, ciphertext, tag (R377); none where the tag fails. -/
opaque gcmOpen : List Byte → List Byte → List Byte → List Byte → Option (List Byte)

opaque ecdhOf : Nat → List Byte → List Byte

/-- The x-coordinate, 48 bytes big-endian, of the ECDH product of a private and a public P-384 key (R375). -/
def ecdh (k : Nat) (pub : List Byte) : List Byte := sized 48 (ecdhOf k pub)

/-- The enclave's AEAD command on a key, the FLAGS byte and the source bytes: the spec gives no layout of nonce, additional
data and tag inside SRC, so the whole function is free; none where a tag fails (Table 19-10). -/
opaque aead : List Byte → Nat → List Byte → Option (List Byte)

/-- SHA-384 of the Sirora factory public key, held in ROM (Table 19-2, R370). -/
opaque factoryKeyHash : List Byte

/-- The bytes of a host register snapshot (R409) as a function of the register file: the spec gives the snapshot's size and no
layout. -/
opaque snapshotBytes : List (Nat × Nat) → List Byte

end Sys2Proof.Config
end

