-- ==== Sys2Proof/Machine/Bits.lean ====
section
/-! DEFINITION. Bit fields, two's complement reading, byte order and the two CRCs of the spec (R5, R48, R321). -/

namespace Sys2Proof.Machine

/-- Bit `i` of a register word. -/
def bit (v i : Nat) : Nat := v / 2 ^ i % 2

/-- Bits [hi:lo] of a register word (section 0.5). -/
def bits (v hi lo : Nat) : Nat := v / 2 ^ lo % 2 ^ (hi - lo + 1)

/-- A Bool as the value of a one-bit field. -/
def b2n (b : Bool) : Nat := if b then 1 else 0

/-- Whether bit `i` is 1. -/
def testBit (v i : Nat) : Bool := bit v i = 1

/-- The word `v` with bit `i` set. -/
def setBit (v i : Nat) : Nat := Nat.lor v (2 ^ i)

/-- The word `v` with bit `i` cleared. -/
def clearBit (v i : Nat) : Nat := if testBit v i then v - 2 ^ i else v

/-- The value of an n-bit field read as two's complement (the sI.F formats of section 0.5). -/
def signed (v n : Nat) : Int := if v % 2 ^ n < 2 ^ (n - 1) then (v % 2 ^ n : Nat) else ((v % 2 ^ n : Nat) : Int) - 2 ^ n

/-- The n-bit field that holds the integer `x` in two's complement. -/
def unsigned (x : Int) (n : Nat) : Nat := (x % (2 ^ n : Int)).toNat

/-- A count that saturates at `m` after adding `k` (the RC and RO counters of the register tables). -/
def satAdd (v k m : Nat) : Nat := min m (v + k)

/-- A value kept within `lo` to `hi`. -/
def clampNat (v lo hi : Nat) : Nat := if v < lo then lo else if hi < v then hi else v

/-- An integer kept within `lo` to `hi`. -/
def clampInt (v lo hi : Int) : Int := if v < lo then lo else if hi < v then hi else v

/-- The number a little-endian byte string spells (R5). -/
def leNat : List Byte → Nat
  | [] => 0
  | b :: bs => b.toNat + 256 * leNat bs

/-- The `n` little-endian bytes of a number (R5). -/
def leBytes : Nat → Nat → List Byte
  | 0, _ => []
  | n + 1, v => BitVec.ofNat 8 (v % 256) :: leBytes n (v / 256)

/-- The number a big-endian byte string spells (fields of published standards, R5). -/
def beNat (bs : List Byte) : Nat := leNat bs.reverse

/-- The little-endian number in bytes `i` to `i + n - 1`. -/
def leAt (bs : List Byte) (i n : Nat) : Nat := leNat ((bs.drop i).take n)

/-- The big-endian number in bytes `i` to `i + n - 1`. -/
def beAt (bs : List Byte) (i n : Nat) : Nat := beNat ((bs.drop i).take n)

/-- Bytes `i` to `i + n - 1` of a string. -/
def slice (bs : List Byte) (i n : Nat) : List Byte := (bs.drop i).take n

/-- A byte string brought to exactly `n` bytes with zero bytes behind. -/
def padTo (bs : List Byte) (n : Nat) : List Byte := (bs ++ List.replicate (n - bs.length) 0).take n

/-- Little-endian 32-bit words of a byte string, as many as `n`. -/
def leWords : Nat → List Byte → List Nat
  | 0, _ => []
  | n + 1, bs => leNat (bs.take 4) :: leWords n (bs.drop 4)

/-- One bit step of a reflected CRC with polynomial `poly` (already reflected). -/
def crcShift (poly : Nat) (c : Nat) : Nat := if c % 2 = 1 then Nat.xor (c / 2) poly else c / 2

/-- The eight bit steps of one byte. -/
def crcByte (poly : Nat) (c : Nat) (b : Byte) : Nat :=
  let x := Nat.xor c b.toNat
  crcShift poly (crcShift poly (crcShift poly (crcShift poly (crcShift poly (crcShift poly (crcShift poly (crcShift poly x)))))))

/-- CRC-32C of R48: polynomial 0x1EDC_6F41 processed reflected, initial value and final XOR 0xFFFF_FFFF. -/
def crc32c (bs : List Byte) : Nat := Nat.xor (bs.foldl (crcByte 0x82F63B78) 0xFFFFFFFF) 0xFFFFFFFF

/-- One bit step of the unreflected CRC-16 of R321. -/
def crc16Shift (c : Nat) : Nat := if 0x8000 ≤ c then Nat.xor (c * 2 % 0x10000) 0x1021 else c * 2 % 0x10000

/-- One byte of the CRC-16 of R321. -/
def crc16Byte (c : Nat) (b : Byte) : Nat :=
  let x := Nat.xor c (b.toNat * 256)
  crc16Shift (crc16Shift (crc16Shift (crc16Shift (crc16Shift (crc16Shift (crc16Shift (crc16Shift x)))))))

/-- CRC-16 of R321: polynomial 0x1021, initial value 0xFFFF, no reflection and no final XOR. -/
def crc16 (bs : List Byte) : Nat := bs.foldl crc16Byte 0xFFFF

/-- The sum of a list of integers. -/
def sumInt (xs : List Int) : Int := xs.foldl (· + ·) 0

/-- Positions of a list whose element satisfies `p`. -/
def whichIdx {α : Type} (p : α → Bool) (xs : List α) : List Nat :=
  (xs.zipIdx.filter (fun q => p q.1)).map (·.2)

/-- A word with bit `i` set where `f i` holds, for `i` below `n`. -/
def maskOf (n : Nat) (f : Nat → Bool) : Nat :=
  ((List.range n).filter f).foldl (fun a i => a + 2 ^ i) 0

/-- The indices below `n` whose bit is 1 in a mask. -/
def bitsOf (n v : Nat) : List Nat := (List.range n).filter (testBit v)

end Sys2Proof.Machine
end

