-- ==== Sys2Proof/Machine/Regs.lean ====
section
/-! DEFINITION. The register file: register fields as the keys of one canonical list, and the descriptor types of the
register tables (section 0.4, R5 to R7). -/

namespace Sys2Proof.Machine

/-- One field of one register instance: the byte address of its word, its low bit, its width and its reset value.
Field-side addresses are the 24-bit addresses of R18; host addresses start at 0x2000_0000. -/
structure Fld where
  addr : Nat
  lo : Nat
  width : Nat
  reset : Nat
  deriving DecidableEq, Repr

/-- The field's place in the register file: fields of one word are neighbours and no two fields share a key. -/
def Fld.key (f : Fld) : Nat := f.addr * 32 + f.lo

/-- Access types of Table 0-3. -/
inductive Acc where
  | rw | ro | w1c | wo | rc | rws | rwl
  deriving DecidableEq, Repr

/-- One field of a register table: low bit, width, access type, reset value, and the range a written value is kept
within (a register table's "reads back as"). -/
structure FieldDesc where
  lo : Nat
  width : Nat
  acc : Acc
  reset : Nat
  low : Nat
  high : Nat
  deriving DecidableEq, Repr

/-- One register of Tables 22-1 and 22-2: its name, the address of its first instance, its (count, stride) pairs
outermost first, and its fields. -/
structure RegDesc where
  name : String
  base : Nat
  dims : List (Nat × Nat)
  fields : List FieldDesc
  deriving DecidableEq, Repr

/-- The field of a descriptor at a concrete register address. -/
def FieldDesc.at (fd : FieldDesc) (addr : Nat) : Fld := ⟨addr, fd.lo, fd.width, fd.reset⟩

/-- Whether an offset from the first instance is one of the instances (R18: index times stride). -/
def instanceAt : List (Nat × Nat) → Nat → Bool
  | [], off => off == 0
  | (c, s) :: ds, off => decide (off / s < c) && instanceAt ds (off % s)

/-- Whether the descriptor describes the register at `addr`. -/
def RegDesc.covers (r : RegDesc) (addr : Nat) : Bool := decide (r.base ≤ addr) && instanceAt r.dims (addr - r.base)

/-- The register file: (key, value) pairs, keys strictly rising, no entry that equals its field's reset value. -/
abbrev Regs := List (Nat × Nat)

/-- The entry of a key. -/
def Regs.find : Regs → Nat → Option Nat
  | [], _ => none
  | (k, v) :: rest, key => if k = key then some v else Regs.find rest key

/-- The list with the entry of a key put in its place. -/
def Regs.insert : Regs → Nat → Nat → Regs
  | [], key, v => [(key, v)]
  | (k, w) :: rest, key, v =>
    if key < k then (key, v) :: (k, w) :: rest
    else if key = k then (key, v) :: rest
    else (k, w) :: Regs.insert rest key v

/-- The list without any entry of a key. -/
def Regs.erase : Regs → Nat → Regs
  | [], _ => []
  | (k, w) :: rest, key => if k = key then Regs.erase rest key else (k, w) :: Regs.erase rest key

/-- The value of a field: its entry, or its reset value. -/
def Regs.get (r : Regs) (f : Fld) : Nat := (Regs.find r f.key).getD f.reset

/-- A field written: the value keeps the field's width, and a value equal to the reset value leaves no entry. -/
def Regs.set (r : Regs) (f : Fld) (v : Nat) : Regs :=
  if v % 2 ^ f.width = f.reset then Regs.erase r f.key else Regs.insert r f.key (v % 2 ^ f.width)

/-- The canonical form: keys strictly rising. -/
def Regs.wf : Regs → Bool
  | [] => true
  | [_] => true
  | (k, _) :: (k', w) :: rest => decide (k < k') && Regs.wf ((k', w) :: rest)

/-- Every field whose word satisfies `p` back at its reset value (R10). -/
def Regs.resetWhere (r : Regs) (p : Nat → Bool) : Regs := r.filter (fun e => !p e.1)

end Sys2Proof.Machine
end

