-- ==== Sys2Proof/Machine/RegMap.lean ====
section
/-! DEFINITION. Every register of Tables 22-1 and 22-2 as the chapters' register tables give it: one named field per row
(`R.<register>.<field>`, with the instance indices outermost first, each taken modulo the number of instances) and the descriptor list the generic accesses use. -/

namespace Sys2Proof.Machine

/-- The reset MODE of energy register `e` (Table 13-3). -/
def metEcfgReset (e : Nat) : Nat :=
  if e < 28 then (if e % 7 = 0 then 2 else if e % 7 = 1 then 3 else 1) else if e % 2 = 0 then 2 else 3

end Sys2Proof.Machine

namespace Sys2Proof.Machine.R

def FSYS_ID.PART : Fld := ⟨0x00000000, 16, 16, 0x4810⟩
def FSYS_ID.MAJOR : Fld := ⟨0x00000000, 8, 8, 0xB⟩
def FSYS_ID.MINOR : Fld := ⟨0x00000000, 0, 8, 0⟩
def FSYS_VARIANT.VARIANT : Fld := ⟨0x00000004, 0, 2, 1⟩
def FSYS_MODE.SHUTREC : Fld := ⟨0x00000010, 18, 1, 0⟩
def FSYS_MODE.REARM_PEND : Fld := ⟨0x00000010, 17, 1, 0⟩
def FSYS_MODE.HOSTLOST : Fld := ⟨0x00000010, 16, 1, 0⟩
def FSYS_MODE.CAUSE : Fld := ⟨0x00000010, 8, 8, 1⟩
def FSYS_MODE.PREV : Fld := ⟨0x00000010, 4, 4, 0⟩
def FSYS_MODE.MODE : Fld := ⟨0x00000010, 0, 4, 1⟩
def FSYS_MODEREQ.RESULT : Fld := ⟨0x00000014, 24, 2, 0⟩
def FSYS_MODEREQ.REARM : Fld := ⟨0x00000014, 8, 1, 0⟩
def FSYS_MODEREQ.TARGET : Fld := ⟨0x00000014, 0, 4, 0⟩
def FSYS_RSTCAUSE.LS_MET : Fld := ⟨0x00000018, 8, 1, 0⟩
def FSYS_RSTCAUSE.LS_FMP : Fld := ⟨0x00000018, 7, 1, 0⟩
def FSYS_RSTCAUSE.THERM : Fld := ⟨0x00000018, 6, 1, 0⟩
def FSYS_RSTCAUSE.FLUE : Fld := ⟨0x00000018, 5, 1, 0⟩
def FSYS_RSTCAUSE.SW_FIELD : Fld := ⟨0x00000018, 4, 1, 0⟩
def FSYS_RSTCAUSE.SW_FMP : Fld := ⟨0x00000018, 3, 1, 0⟩
def FSYS_RSTCAUSE.WDT2 : Fld := ⟨0x00000018, 2, 1, 0⟩
def FSYS_RSTCAUSE.SUPPLY : Fld := ⟨0x00000018, 1, 1, 0⟩
def FSYS_RSTCAUSE.POR : Fld := ⟨0x00000018, 0, 1, 1⟩
def FSYS_SWRST.KEY : Fld := ⟨0x0000001C, 16, 16, 0⟩
def FSYS_SWRST.SCOPE : Fld := ⟨0x0000001C, 0, 2, 0⟩
def FSYS_WDT.SERVICE : Fld := ⟨0x00000020, 16, 16, 0⟩
def FSYS_WDT.T1 : Fld := ⟨0x00000020, 0, 10, 0x3E8⟩
def FSYS_PWRSTAT.F0SRC : Fld := ⟨0x00000024, 6, 1, 0⟩
def FSYS_PWRSTAT.F2RET : Fld := ⟨0x00000024, 5, 1, 0⟩
def FSYS_PWRSTAT.ON : Fld := ⟨0x00000024, 0, 5, 3⟩
def FSYS_BOOTCFG.BANKED : Fld := ⟨0x00000028, 0, 1, 0⟩
def FSYS_QUENCH.LIMIT : Fld := ⟨0x0000002C, 0, 12, 0x1F4⟩
def FSYS_BADADDR.VALID : Fld := ⟨0x00000030, 31, 1, 0⟩
def FSYS_BADADDR.WRITE : Fld := ⟨0x00000030, 30, 1, 0⟩
def FSYS_BADADDR.COUNT : Fld := ⟨0x00000030, 26, 4, 0⟩
def FSYS_BADADDR.ADDR : Fld := ⟨0x00000030, 0, 26, 0⟩
def FFLU_LINK.TRAINS : Fld := ⟨0x00010000, 8, 8, 0⟩
def FFLU_LINK.SINGLE : Fld := ⟨0x00010000, 3, 1, 0⟩
def FFLU_LINK.LANE1 : Fld := ⟨0x00010000, 2, 1, 0⟩
def FFLU_LINK.LANE0 : Fld := ⟨0x00010000, 1, 1, 0⟩
def FFLU_LINK.UP : Fld := ⟨0x00010000, 0, 1, 0⟩
def FFLU_HBCFG.T_AUTO : Fld := ⟨0x00010004, 16, 9, 0x1E⟩
def FFLU_HBCFG.T_HB : Fld := ⟨0x00010004, 0, 10, 0xC8⟩
def FFLU_HBSTAT.AUTO_S : Fld := ⟨0x00010008, 16, 9, 0⟩
def FFLU_HBSTAT.SINCE_HB : Fld := ⟨0x00010008, 0, 16, 0⟩
def FFLU_ERR.TXFULL : Fld := ⟨0x0001000C, 26, 6, 0⟩
def FFLU_ERR.INVALID : Fld := ⟨0x0001000C, 20, 6, 0⟩
def FFLU_ERR.GAP : Fld := ⟨0x0001000C, 12, 8, 0⟩
def FFLU_ERR.CRC : Fld := ⟨0x0001000C, 0, 12, 0⟩
def FFLU_REFUSE.LAST : Fld := ⟨0x00010010, 16, 8, 0⟩
def FFLU_REFUSE.COUNT : Fld := ⟨0x00010010, 0, 16, 0⟩
def FFLU_BULKWT.RECORD : Fld := ⟨0x00010014, 16, 4, 2⟩
def FFLU_BULKWT.ASH : Fld := ⟨0x00010014, 12, 4, 1⟩
def FFLU_BULKWT.JOURNAL : Fld := ⟨0x00010014, 8, 4, 2⟩
def FFLU_BULKWT.CAPTURE : Fld := ⟨0x00010014, 4, 4, 0xA⟩
def FFLU_BULKWT.IMAGE : Fld := ⟨0x00010014, 0, 4, 1⟩
def FFLU_CREDIT.Q0 : Fld := ⟨0x00010018, 0, 4, 0⟩
def FFLU_CREDIT.Q1 : Fld := ⟨0x00010018, 4, 4, 0⟩
def FFLU_CREDIT.Q2 : Fld := ⟨0x00010018, 8, 4, 0⟩
def FFLU_CREDIT.Q3 : Fld := ⟨0x00010018, 12, 4, 0⟩
def FFLU_CREDIT.Q4 : Fld := ⟨0x00010018, 16, 4, 0⟩
def FFLU_CREDIT.Q5 : Fld := ⟨0x00010018, 20, 4, 0⟩
def FFLU_CREDIT.Q6 : Fld := ⟨0x00010018, 24, 4, 0⟩
def FFLU_CREDIT.Q7 : Fld := ⟨0x00010018, 28, 4, 0⟩
def STS_LOADSTAT.SECT : Fld := ⟨0x00020000, 24, 8, 0xFF⟩
def STS_LOADSTAT.CODE : Fld := ⟨0x00020000, 16, 8, 0⟩
def STS_LOADSTAT.STATE : Fld := ⟨0x00020000, 0, 4, 0⟩
def STS_BANK.BOOTSLOT : Fld := ⟨0x00020004, 4, 1, 0⟩
def STS_BANK.ACTV : Fld := ⟨0x00020004, 1, 1, 0⟩
def STS_BANK.ACT : Fld := ⟨0x00020004, 0, 1, 0⟩
def STS_ACTID.ID : Fld := ⟨0x00020008, 0, 32, 0⟩
def STS_STBID.ID : Fld := ⟨0x0002000C, 0, 32, 0⟩
def STS_ACTSVN.SVN : Fld := ⟨0x00020010, 0, 32, 0⟩
def STS_MINSVN.SVN : Fld := ⟨0x00020014, 0, 32, 0⟩
def STS_SWAPAT_LO.LO : Fld := ⟨0x00020018, 0, 32, 0⟩
def STS_SWAPAT_HI.HI : Fld := ⟨0x0002001C, 0, 32, 0⟩
def STS_SWAPCTL.CANCEL : Fld := ⟨0x00020020, 1, 1, 0⟩
def STS_SWAPCTL.ARM : Fld := ⟨0x00020020, 0, 1, 0⟩
def STS_SWAPSTAT.CODE : Fld := ⟨0x00020024, 16, 8, 0⟩
def STS_SWAPSTAT.DEFER : Fld := ⟨0x00020024, 8, 8, 0⟩
def STS_SWAPSTAT.STATE : Fld := ⟨0x00020024, 0, 4, 0⟩
def STS_PERSIST.KEY : Fld := ⟨0x00020028, 16, 16, 0⟩
def STS_PERSIST.CODE : Fld := ⟨0x00020028, 8, 8, 0⟩
def STS_PERSIST.STATE : Fld := ⟨0x00020028, 0, 2, 0⟩
def STS_BOOTGEN.GEN : Fld := ⟨0x0002002C, 0, 32, 0⟩
def STS_TGTCLAMP.LAST : Fld := ⟨0x00020030, 16, 16, 0⟩
def STS_TGTCLAMP.COUNT : Fld := ⟨0x00020030, 0, 16, 0⟩
def STS_ACTDIG.DIG (i : Nat) : Fld := ⟨0x00020040 + 0x4 * (i % 12), 0, 32, 0⟩
def STC_CFG.TC : Fld := ⟨0x00030000, 24, 6, 8⟩
def STC_CFG.SLEWMAX : Fld := ⟨0x00030000, 16, 8, 0x32⟩
def STC_CFG.PREF : Fld := ⟨0x00030000, 8, 2, 0⟩
def STC_CFG.STEPEN : Fld := ⟨0x00030000, 3, 1, 1⟩
def STC_CFG.PTP1EN : Fld := ⟨0x00030000, 2, 1, 0⟩
def STC_CFG.PTP0EN : Fld := ⟨0x00030000, 1, 1, 0⟩
def STC_CFG.PPSEN : Fld := ⟨0x00030000, 0, 1, 0⟩
def STC_STAT.SECPEND : Fld := ⟨0x00030004, 11, 1, 0⟩
def STC_STAT.STEPPEND : Fld := ⟨0x00030004, 10, 1, 0⟩
def STC_STAT.PTP1OK : Fld := ⟨0x00030004, 9, 1, 0⟩
def STC_STAT.PTP0OK : Fld := ⟨0x00030004, 8, 1, 0⟩
def STC_STAT.PPSOK : Fld := ⟨0x00030004, 7, 1, 0⟩
def STC_STAT.SOURCE : Fld := ⟨0x00030004, 4, 3, 0⟩
def STC_STAT.STATE : Fld := ⟨0x00030004, 0, 3, 0⟩
def STC_NOW_LO.NS : Fld := ⟨0x00030008, 0, 32, 0⟩
def STC_NOW_HI.NS : Fld := ⟨0x0003000C, 0, 32, 0⟩
def STC_NOW_FR.FR : Fld := ⟨0x00030010, 0, 32, 0⟩
def STC_PHERR.E : Fld := ⟨0x00030014, 0, 32, 0⟩
def STC_RATE.RATE : Fld := ⟨0x00030018, 0, 32, 0⟩
def STC_FREQ.F : Fld := ⟨0x0003001C, 0, 32, 0⟩
def STC_ESTERR.ERR : Fld := ⟨0x00030020, 0, 32, 0xFFFFFFFF⟩
def STC_PPSCFG.DLY : Fld := ⟨0x00030024, 16, 16, 0⟩
def STC_PPSCFG.WIN : Fld := ⟨0x00030024, 0, 10, 0x64⟩
def STC_PPSOUT.MODE : Fld := ⟨0x00030028, 16, 2, 2⟩
def STC_PPSOUT.WIDTH : Fld := ⟨0x00030028, 0, 9, 0x64⟩
def STC_PTPCFG.DOMAIN : Fld := ⟨0x0003002C, 0, 8, 0⟩
def STC_PTPOFS.OFS (i : Nat) : Fld := ⟨0x00030030 + 0x4 * (i % 2), 0, 32, 0⟩
def STC_SETSEC_LO.SEC : Fld := ⟨0x00030038, 0, 32, 0⟩
def STC_SETSEC_HI.ARM : Fld := ⟨0x0003003C, 31, 1, 0⟩
def STC_SETSEC_HI.SEC : Fld := ⟨0x0003003C, 0, 16, 0⟩
def STC_UTCOFS.SRC : Fld := ⟨0x00030040, 16, 1, 0⟩
def STC_UTCOFS.OFS : Fld := ⟨0x00030040, 0, 16, 0x25⟩
def STC_HOLDCFG.ERRLIM : Fld := ⟨0x00030044, 16, 16, 0x7D0⟩
def STC_HOLDCFG.HORATE : Fld := ⟨0x00030044, 0, 10, 0x14⟩
def STC_CNT.STEPS : Fld := ⟨0x00030048, 24, 8, 0⟩
def STC_CNT.PPSREJ : Fld := ⟨0x00030048, 16, 8, 0⟩
def STC_CNT.PPSMISS : Fld := ⟨0x00030048, 8, 8, 0⟩
def STC_CNT.SRCCHG : Fld := ⟨0x00030048, 0, 8, 0⟩
def CEN_STAT.DAMAGED : Fld := ⟨0x00040000, 9, 1, 0⟩
def CEN_STAT.SWAPTICK : Fld := ⟨0x00040000, 8, 1, 0⟩
def CEN_STAT.RUN : Fld := ⟨0x00040000, 0, 2, 0⟩
def CEN_TICK_LO.K : Fld := ⟨0x00040004, 0, 32, 0⟩
def CEN_TICK_HI.K : Fld := ⟨0x00040008, 0, 32, 0⟩
def CEN_TIMING.W_CYC : Fld := ⟨0x0004000C, 16, 16, 0⟩
def CEN_TIMING.TMEAS_CYC : Fld := ⟨0x0004000C, 0, 16, 0⟩
def CEN_BUDGET.WORST : Fld := ⟨0x00040010, 16, 16, 0⟩
def CEN_BUDGET.U : Fld := ⟨0x00040010, 0, 16, 0⟩
def CEN_DECL.BASE : Fld := ⟨0x00040014, 0, 32, 0⟩
def CEN_SRPERIOD.L : Fld := ⟨0x00040018, 0, 21, 1⟩
def CEN_SATTOT.COUNT : Fld := ⟨0x0004001C, 0, 32, 0⟩
def CEN_SATLAST.VALID : Fld := ⟨0x00040020, 31, 1, 0⟩
def CEN_SATLAST.SIG : Fld := ⟨0x00040020, 0, 10, 0⟩
def CEN_SATSEL.SIG : Fld := ⟨0x00040024, 0, 10, 0⟩
def CEN_SATVAL.COUNT : Fld := ⟨0x00040028, 0, 16, 0⟩
def CEN_ECC.UNCORR : Fld := ⟨0x0004002C, 24, 8, 0⟩
def CEN_ECC.CORR : Fld := ⟨0x0004002C, 0, 16, 0⟩
def CEN_ECCADDR.SIGMEM : Fld := ⟨0x00040030, 31, 1, 0⟩
def CEN_ECCADDR.ADDR : Fld := ⟨0x00040030, 0, 25, 0⟩
def CEN_DBG.STEP : Fld := ⟨0x00040034, 1, 1, 0⟩
def CEN_DBG.HALT : Fld := ⟨0x00040034, 0, 1, 0⟩
def LAW_BLK.NX (i : Nat) : Fld := ⟨0x00050000 + 0x10 * (i % 8), 22, 10, 0⟩
def LAW_BLK.NU (i : Nat) : Fld := ⟨0x00050000 + 0x10 * (i % 8), 14, 8, 0⟩
def LAW_BLK.NY (i : Nat) : Fld := ⟨0x00050000 + 0x10 * (i % 8), 6, 8, 0⟩
def LAW_BLK.LAW (i : Nat) : Fld := ⟨0x00050000 + 0x10 * (i % 8), 0, 2, 0⟩
def LAW_MAN.XFERCNT (i : Nat) : Fld := ⟨0x00050004 + 0x10 * (i % 8), 16, 16, 0⟩
def LAW_MAN.TRACK (i : Nat) : Fld := ⟨0x00050004 + 0x10 * (i % 8), 1, 1, 0⟩
def LAW_MAN.MAN (i : Nat) : Fld := ⟨0x00050004 + 0x10 * (i % 8), 0, 1, 0⟩
def LAW_BQSAT.SECT : Fld := ⟨0x00050100, 16, 16, 0⟩
def LAW_BQSAT.COUNT : Fld := ⟨0x00050100, 0, 16, 0⟩
def LAW_BQSEL.SECT : Fld := ⟨0x00050104, 0, 9, 0⟩
def LAW_BQS1.S1 : Fld := ⟨0x00050108, 0, 32, 0⟩
def LAW_BQS2.S2 : Fld := ⟨0x0005010C, 0, 32, 0⟩
def LAW_SLEWRATE.RMAX (i : Nat) : Fld := ⟨0x00050400 + 0x10 * (i % 64), 0, 31, 0⟩
def LAW_SLEWJERK.JMAX (i : Nat) : Fld := ⟨0x00050404 + 0x10 * (i % 64), 0, 31, 0⟩
def LAW_SLEWTGT.T (i : Nat) : Fld := ⟨0x00050408 + 0x10 * (i % 64), 0, 32, 0⟩
def LAW_SLEWSTAT.RATE (i : Nat) : Fld := ⟨0x0005040C + 0x10 * (i % 64), 0, 32, 0⟩
def LAW_FERRLIM.LIMIT (i : Nat) : Fld := ⟨0x00050800 + 0x10 * (i % 16), 0, 32, 0⟩
def LAW_FERRTMR.TIMER (i : Nat) : Fld := ⟨0x00050804 + 0x10 * (i % 16), 0, 16, 1⟩
def LAW_FERRSTAT.COUNT (i : Nat) : Fld := ⟨0x00050808 + 0x10 * (i % 16), 16, 16, 0⟩
def LAW_FERRSTAT.UNIT (i : Nat) : Fld := ⟨0x00050808 + 0x10 * (i % 16), 4, 3, 0⟩
def LAW_FERRSTAT.KIND (i : Nat) : Fld := ⟨0x00050808 + 0x10 * (i % 16), 3, 1, 0⟩
def LAW_FERRSTAT.STATE (i : Nat) : Fld := ⟨0x00050808 + 0x10 * (i % 16), 0, 2, 0⟩
def LAW_FERRPEAK.PEAK (i : Nat) : Fld := ⟨0x0005080C + 0x10 * (i % 16), 0, 32, 0⟩
def LAW_AXCFG.ENCEN (i : Nat) : Fld := ⟨0x00050C00 + 0x40 * (i % 4), 31, 1, 0⟩
def LAW_AXCFG.ZEN (i : Nat) : Fld := ⟨0x00050C00 + 0x40 * (i % 4), 30, 1, 0⟩
def LAW_AXCFG.FILT (i : Nat) : Fld := ⟨0x00050C00 + 0x40 * (i % 4), 24, 3, 0⟩
def LAW_AXCFG.POLES (i : Nat) : Fld := ⟨0x00050C00 + 0x40 * (i % 4), 16, 8, 0⟩
def LAW_AXCFG.VELWIN (i : Nat) : Fld := ⟨0x00050C00 + 0x40 * (i % 4), 8, 8, 1⟩
def LAW_AXCFG.ZTOL (i : Nat) : Fld := ⟨0x00050C00 + 0x40 * (i % 4), 0, 8, 1⟩
def LAW_AXCPR.CPR (i : Nat) : Fld := ⟨0x00050C04 + 0x40 * (i % 4), 0, 21, 0x1000⟩
def LAW_AXSTOP.GEN (i : Nat) : Fld := ⟨0x00050C08 + 0x40 * (i % 4), 26, 6, 0⟩
def LAW_AXSTOP.STOPTIME (i : Nat) : Fld := ⟨0x00050C08 + 0x40 * (i % 4), 16, 10, 0x64⟩
def LAW_AXSTOP.VSTILL (i : Nat) : Fld := ⟨0x00050C08 + 0x40 * (i % 4), 0, 16, 0⟩
def LAW_AXCTL.CLR (i : Nat) : Fld := ⟨0x00050C0C + 0x40 * (i % 4), 1, 1, 0⟩
def LAW_AXCTL.EN (i : Nat) : Fld := ⟨0x00050C0C + 0x40 * (i % 4), 0, 1, 0⟩
def LAW_AXSTAT.CAUSE (i : Nat) : Fld := ⟨0x00050C10 + 0x40 * (i % 4), 4, 3, 0⟩
def LAW_AXSTAT.ZVALID (i : Nat) : Fld := ⟨0x00050C10 + 0x40 * (i % 4), 3, 1, 0⟩
def LAW_AXSTAT.STATE (i : Nat) : Fld := ⟨0x00050C10 + 0x40 * (i % 4), 0, 2, 0⟩
def LAW_AXCNT.CNT (i : Nat) : Fld := ⟨0x00050C14 + 0x40 * (i % 4), 0, 32, 0⟩
def LAW_AXZPOS.ZCNT (i : Nat) : Fld := ⟨0x00050C18 + 0x40 * (i % 4), 0, 32, 0⟩
def LAW_AXERR.ZMISS (i : Nat) : Fld := ⟨0x00050C1C + 0x40 * (i % 4), 8, 8, 0⟩
def LAW_AXERR.ILLEGAL (i : Nat) : Fld := ⟨0x00050C1C + 0x40 * (i % 4), 0, 8, 0⟩
def DGR_CTL.DETEN : Fld := ⟨0x00060000, 0, 1, 1⟩
def DGR_SHED.RUNNING : Fld := ⟨0x00060004, 8, 1, 0⟩
def DGR_SHED.EN : Fld := ⟨0x00060004, 0, 1, 0⟩
def DGR_IMBCFG.IMIN : Fld := ⟨0x00060008, 16, 16, 0x10⟩
def DGR_IMBCFG.WARN : Fld := ⟨0x00060008, 0, 16, 0xC8⟩
def DGR_CAP.CAP (i : Nat) : Fld := ⟨0x00060010 + 0x4 * (i % 4), 0, 16, 0xFFFF⟩
def DGR_CNT.LOSTREF : Fld := ⟨0x00060020, 24, 8, 0⟩
def DGR_CNT.FALLBACK : Fld := ⟨0x00060020, 16, 8, 0⟩
def DGR_CNT.TRIG : Fld := ⟨0x00060020, 0, 16, 0⟩
def DGR_BLKSTAT.KEY (i : Nat) : Fld := ⟨0x00060100 + 0x20 * (i % 8), 16, 16, 0⟩
def DGR_BLKSTAT.INDEX (i : Nat) : Fld := ⟨0x00060100 + 0x20 * (i % 8), 11, 5, 0⟩
def DGR_BLKSTAT.DEGRADED (i : Nat) : Fld := ⟨0x00060100 + 0x20 * (i % 8), 10, 1, 0⟩
def DGR_BLKSTAT.WINOPEN (i : Nat) : Fld := ⟨0x00060100 + 0x20 * (i % 8), 9, 1, 0⟩
def DGR_BLKSTAT.PEND (i : Nat) : Fld := ⟨0x00060100 + 0x20 * (i % 8), 8, 1, 0⟩
def DGR_BLKSTAT.QDET (i : Nat) : Fld := ⟨0x00060100 + 0x20 * (i % 8), 0, 8, 0xFF⟩
def DGR_VARREQ.KEY (i : Nat) : Fld := ⟨0x00060104 + 0x20 * (i % 8), 16, 16, 0⟩
def DGR_VARREQ.CODE (i : Nat) : Fld := ⟨0x00060104 + 0x20 * (i % 8), 8, 3, 0⟩
def DGR_VARREQ.RESULT (i : Nat) : Fld := ⟨0x00060104 + 0x20 * (i % 8), 4, 2, 0⟩
def DGR_VARREQ.GO (i : Nat) : Fld := ⟨0x00060104 + 0x20 * (i % 8), 0, 1, 0⟩
def DGR_LOST.LOST (i : Nat) : Fld := ⟨0x00060108 + 0x20 * (i % 8), 0, 12, 0⟩
def DGR_WIN.DET (i : Nat) : Fld := ⟨0x0006010C + 0x20 * (i % 8), 24, 8, 0⟩
def DGR_WIN.TICKS (i : Nat) : Fld := ⟨0x0006010C + 0x20 * (i % 8), 16, 8, 0⟩
def DGR_WIN.AGREE (i : Nat) : Fld := ⟨0x0006010C + 0x20 * (i % 8), 8, 8, 0⟩
def DGR_WIN.OPEN (i : Nat) : Fld := ⟨0x0006010C + 0x20 * (i % 8), 0, 8, 0⟩
def DGR_LASTCLS.DET (i : Nat) : Fld := ⟨0x00060110 + 0x20 * (i % 8), 24, 8, 0⟩
def DGR_LASTCLS.AGREE (i : Nat) : Fld := ⟨0x00060110 + 0x20 * (i % 8), 16, 8, 0⟩
def DGR_LASTCLS.OPEN (i : Nat) : Fld := ⟨0x00060110 + 0x20 * (i % 8), 8, 8, 0⟩
def DGR_LASTCLS.VERDICT (i : Nat) : Fld := ⟨0x00060110 + 0x20 * (i % 8), 0, 3, 0⟩
def DGR_SHEDSTAT.CARDIV (i : Nat) : Fld := ⟨0x00060114 + 0x20 * (i % 8), 16, 8, 0⟩
def DGR_SHEDSTAT.WANT (i : Nat) : Fld := ⟨0x00060114 + 0x20 * (i % 8), 8, 8, 0⟩
def DGR_SHEDSTAT.COUNT (i : Nat) : Fld := ⟨0x00060114 + 0x20 * (i % 8), 0, 8, 0⟩
def DGR_DETSTAT.TRIGS (i : Nat) : Fld := ⟨0x00061000 + 0x10 * (i % 192), 24, 8, 0⟩
def DGR_DETSTAT.CNT (i : Nat) : Fld := ⟨0x00061000 + 0x10 * (i % 192), 8, 8, 0⟩
def DGR_DETSTAT.STATE (i : Nat) : Fld := ⟨0x00061000 + 0x10 * (i % 192), 0, 2, 0⟩
def DGR_DETTHR.THR (i : Nat) : Fld := ⟨0x00061004 + 0x10 * (i % 192), 0, 32, 0⟩
def DGR_DETPEAK.PEAK (i : Nat) : Fld := ⟨0x00061008 + 0x10 * (i % 192), 0, 32, 0⟩
def DGR_IMBAVG.VALID (i : Nat) : Fld := ⟨0x00062000 + 0x10 * (i % 20), 16, 1, 0⟩
def DGR_IMBAVG.AVG (i : Nat) : Fld := ⟨0x00062000 + 0x10 * (i % 20), 0, 16, 0⟩
def DGR_IMBPEAK.PEAK (i : Nat) : Fld := ⟨0x00062004 + 0x10 * (i % 20), 0, 16, 0⟩
def PWM_LEGCFG.USED (i : Nat) (j : Nat) : Fld := ⟨0x00100000 + 0x400 * (i % 20) + 0x80 * (j % 4), 31, 1, 0⟩
def PWM_LEGCFG.CLASS (i : Nat) (j : Nat) : Fld := ⟨0x00100000 + 0x400 * (i % 20) + 0x80 * (j % 4), 30, 1, 0⟩
def PWM_LEGCFG.AXIS (i : Nat) (j : Nat) : Fld := ⟨0x00100000 + 0x400 * (i % 20) + 0x80 * (j % 4), 28, 2, 0⟩
def PWM_LEGCFG.POLICY (i : Nat) (j : Nat) : Fld := ⟨0x00100000 + 0x400 * (i % 20) + 0x80 * (j % 4), 24, 1, 0⟩
def PWM_LEGCFG.BLK (i : Nat) (j : Nat) : Fld := ⟨0x00100000 + 0x400 * (i % 20) + 0x80 * (j % 4), 16, 8, 0xFF⟩
def PWM_DTR.DT (i : Nat) (j : Nat) : Fld := ⟨0x00100004 + 0x400 * (i % 20) + 0x80 * (j % 4), 0, 17, 0⟩
def PWM_DTF.DT (i : Nat) (j : Nat) : Fld := ⟨0x00100008 + 0x400 * (i % 20) + 0x80 * (j % 4), 0, 17, 0⟩
def PWM_TMIN.TMIN (i : Nat) (j : Nat) : Fld := ⟨0x0010000C + 0x400 * (i % 20) + 0x80 * (j % 4), 0, 16, 0x80⟩
def PWM_LOFS.LOFS (i : Nat) (j : Nat) : Fld := ⟨0x00100010 + 0x400 * (i % 20) + 0x80 * (j % 4), 0, 16, 0⟩
def PWM_SHADOW.DUTY (i : Nat) (j : Nat) : Fld := ⟨0x00100014 + 0x400 * (i % 20) + 0x80 * (j % 4), 0, 32, 0⟩
def PWM_ACTIVE.DUTY (i : Nat) (j : Nat) : Fld := ⟨0x00100018 + 0x400 * (i % 20) + 0x80 * (j % 4), 0, 32, 0⟩
def PWM_FORCE.B (i : Nat) (j : Nat) : Fld := ⟨0x0010001C + 0x400 * (i % 20) + 0x80 * (j % 4), 2, 2, 0⟩
def PWM_FORCE.A (i : Nat) (j : Nat) : Fld := ⟨0x0010001C + 0x400 * (i % 20) + 0x80 * (j % 4), 0, 2, 0⟩
def PWM_REALA.WIDTH (i : Nat) (j : Nat) : Fld := ⟨0x00100020 + 0x400 * (i % 20) + 0x80 * (j % 4), 0, 22, 0⟩
def PWM_REALB.WIDTH (i : Nat) (j : Nat) : Fld := ⟨0x00100024 + 0x400 * (i % 20) + 0x80 * (j % 4), 0, 22, 0⟩
def PWM_CARRY.CARRY (i : Nat) (j : Nat) : Fld := ⟨0x00100028 + 0x400 * (i % 20) + 0x80 * (j % 4), 0, 32, 0⟩
def PWM_LEGSTAT.STRETCHED (i : Nat) (j : Nat) : Fld := ⟨0x0010002C + 0x400 * (i % 20) + 0x80 * (j % 4), 11, 1, 0⟩
def PWM_LEGSTAT.DROPPED (i : Nat) (j : Nat) : Fld := ⟨0x0010002C + 0x400 * (i % 20) + 0x80 * (j % 4), 10, 1, 0⟩
def PWM_LEGSTAT.FULL (i : Nat) (j : Nat) : Fld := ⟨0x0010002C + 0x400 * (i % 20) + 0x80 * (j % 4), 9, 1, 0⟩
def PWM_LEGSTAT.ZERO (i : Nat) (j : Nat) : Fld := ⟨0x0010002C + 0x400 * (i % 20) + 0x80 * (j % 4), 8, 1, 0⟩
def PWM_LEGSTAT.TAB (i : Nat) (j : Nat) : Fld := ⟨0x0010002C + 0x400 * (i % 20) + 0x80 * (j % 4), 3, 1, 0⟩
def PWM_LEGSTAT.STATE (i : Nat) (j : Nat) : Fld := ⟨0x0010002C + 0x400 * (i % 20) + 0x80 * (j % 4), 0, 3, 0⟩
def PWM_LEGCNT.DROPS (i : Nat) (j : Nat) : Fld := ⟨0x00100030 + 0x400 * (i % 20) + 0x80 * (j % 4), 16, 16, 0⟩
def PWM_LEGCNT.STRETCHES (i : Nat) (j : Nat) : Fld := ⟨0x00100030 + 0x400 * (i % 20) + 0x80 * (j % 4), 0, 16, 0⟩
def PWM_GRPCFG.USED (i : Nat) : Fld := ⟨0x00100200 + 0x400 * (i % 20), 31, 1, 0⟩
def PWM_GRPCFG.MODE (i : Nat) : Fld := ⟨0x00100200 + 0x400 * (i % 20), 0, 1, 0⟩
def PWM_PER.VALUE (i : Nat) : Fld := ⟨0x00100204 + 0x400 * (i % 20), 0, 16, 0⟩
def PWM_GOFS.VALUE (i : Nat) : Fld := ⟨0x00100208 + 0x400 * (i % 20), 0, 16, 0⟩
def PWM_GRPDIV.REQ (i : Nat) : Fld := ⟨0x0010020C + 0x400 * (i % 20), 0, 3, 1⟩
def PWM_GRPSTAT.PEREFF (i : Nat) : Fld := ⟨0x00100210 + 0x400 * (i % 20), 16, 16, 0⟩
def PWM_GRPSTAT.DIVACT (i : Nat) : Fld := ⟨0x00100210 + 0x400 * (i % 20), 8, 3, 1⟩
def PWM_GRPSTAT.PEND (i : Nat) : Fld := ⟨0x00100210 + 0x400 * (i % 20), 4, 1, 0⟩
def PWM_GRPSTAT.DIVBAD (i : Nat) : Fld := ⟨0x00100210 + 0x400 * (i % 20), 3, 1, 0⟩
def PWM_TRGCFG.PAD (i : Nat) (j : Nat) : Fld := ⟨0x00100240 + 0x400 * (i % 20) + 0x10 * (j % 4), 8, 3, 0⟩
def PWM_TRGCFG.TARGET (i : Nat) (j : Nat) : Fld := ⟨0x00100240 + 0x400 * (i % 20) + 0x10 * (j % 4), 2, 3, 0⟩
def PWM_TRGCFG.EN (i : Nat) (j : Nat) : Fld := ⟨0x00100240 + 0x400 * (i % 20) + 0x10 * (j % 4), 0, 1, 0⟩
def PWM_TRGPOS.POS (i : Nat) (j : Nat) : Fld := ⟨0x00100244 + 0x400 * (i % 20) + 0x10 * (j % 4), 0, 32, 0⟩
def PWM_TRGSTAMP.NS (i : Nat) (j : Nat) : Fld := ⟨0x00100248 + 0x400 * (i % 20) + 0x10 * (j % 4), 0, 32, 0⟩
def PWM_STAT.FORCEEN : Fld := ⟨0x00108000, 1, 1, 0⟩
def PWM_STAT.TAB : Fld := ⟨0x00108000, 0, 1, 0⟩
def PWM_SYNCCFG.EN : Fld := ⟨0x00108004, 31, 1, 0⟩
def PWM_SYNCCFG.REFG : Fld := ⟨0x00108004, 24, 5, 0⟩
def PWM_SYNCCFG.WIN : Fld := ⟨0x00108004, 8, 12, 0xF00⟩
def PWM_SYNCCFG.SLEW : Fld := ⟨0x00108004, 0, 8, 0x10⟩
def PWM_SYNCPH.PHOFS : Fld := ⟨0x00108008, 0, 22, 0⟩
def PWM_SYNCSTAT.DELTA : Fld := ⟨0x0010800C, 16, 16, 0⟩
def PWM_SYNCSTAT.STATE : Fld := ⟨0x0010800C, 0, 2, 0⟩
def PWM_SYNCERR.E : Fld := ⟨0x00108010, 0, 32, 0⟩
def PWM_CNT.DUTYSAT : Fld := ⟨0x00108014, 16, 16, 0⟩
def PWM_CNT.FORCEERR : Fld := ⟨0x00108014, 0, 16, 0⟩
def TRP_RAW.ACT (i : Nat) : Fld := ⟨0x00110000 + 0x4 * (i % 3), 0, 32, 0⟩
def TRP_STAT.LATCH (i : Nat) : Fld := ⟨0x00110010 + 0x4 * (i % 3), 0, 32, 0⟩
def TRP_CLR.CLR (i : Nat) : Fld := ⟨0x00110020 + 0x4 * (i % 3), 0, 32, 0⟩
def TRP_LEGSAFE.LEG (i : Nat) : Fld := ⟨0x00110030 + 0x4 * (i % 3), 0, 32, 0⟩
def TRP_CFG.TREARM : Fld := ⟨0x00110040, 0, 16, 0x64⟩
def TRP_SWSTAT.DEV : Fld := ⟨0x00110044, 31, 1, 0⟩
def TRP_SWSTAT.OUT : Fld := ⟨0x00110044, 24, 4, 0⟩
def TRP_SWSTAT.GRP : Fld := ⟨0x00110044, 0, 20, 0⟩
def TRP_SWCLR.DEV : Fld := ⟨0x00110048, 31, 1, 0⟩
def TRP_SWCLR.OUT : Fld := ⟨0x00110048, 24, 4, 0⟩
def TRP_SWCLR.GRP : Fld := ⟨0x00110048, 0, 20, 0⟩
def TRP_REFUSE.LAST : Fld := ⟨0x0011004C, 24, 8, 0⟩
def TRP_REFUSE.COUNT : Fld := ⟨0x0011004C, 0, 16, 0⟩
def TRP_GLITCH.LAST : Fld := ⟨0x00110050, 24, 8, 0⟩
def TRP_GLITCH.COUNT : Fld := ⟨0x00110050, 0, 16, 0⟩
def TRP_FIRST.VALID : Fld := ⟨0x00110054, 31, 1, 0⟩
def TRP_FIRST.INPUT : Fld := ⟨0x00110054, 0, 7, 0⟩
def TRP_FIRSTT_LO.NS : Fld := ⟨0x00110058, 0, 32, 0⟩
def TRP_FIRSTT_HI.NS : Fld := ⟨0x0011005C, 0, 32, 0⟩
def MOD_HLTHCFG.CLKMISS : Fld := ⟨0x00120000, 24, 4, 8⟩
def MOD_HLTHCFG.SATRUN : Fld := ⟨0x00120000, 16, 8, 4⟩
def MOD_HLTHCFG.STUCK : Fld := ⟨0x00120000, 0, 12, 0x100⟩
def MOD_CLKSTAT.FAULT : Fld := ⟨0x00120004, 8, 8, 0⟩
def MOD_CLKSTAT.RUN : Fld := ⟨0x00120004, 0, 8, 0⟩
def MOD_HSTAT.IN (i : Nat) : Fld := ⟨0x00120010 + 0x4 * (i % 4), 0, 32, 0⟩
def MOD_HLATCH.IN (i : Nat) : Fld := ⟨0x00120020 + 0x4 * (i % 4), 0, 32, 0⟩
def MOD_CNT.FAULTS : Fld := ⟨0x00120030, 0, 16, 0⟩
def MOD_INSTAT.DENS (i : Nat) : Fld := ⟨0x00121000 + 0x4 * (i % 128), 16, 8, 0⟩
def MOD_INSTAT.CLK (i : Nat) : Fld := ⟨0x00121000 + 0x4 * (i % 128), 8, 3, 0⟩
def MOD_INSTAT.USED (i : Nat) : Fld := ⟨0x00121000 + 0x4 * (i % 128), 3, 1, 0⟩
def MOD_INSTAT.CLKF (i : Nat) : Fld := ⟨0x00121000 + 0x4 * (i % 128), 2, 1, 0⟩
def MOD_INSTAT.SAT (i : Nat) : Fld := ⟨0x00121000 + 0x4 * (i % 128), 1, 1, 0⟩
def MOD_INSTAT.STUCK (i : Nat) : Fld := ⟨0x00121000 + 0x4 * (i % 128), 0, 1, 0⟩
def FBA_CHCFG.INTEG (i : Nat) : Fld := ⟨0x00130000 + 0x10 * (i % 32), 31, 1, 0⟩
def FBA_CHCFG.GUARD (i : Nat) : Fld := ⟨0x00130000 + 0x10 * (i % 32), 30, 1, 0⟩
def FBA_CHCFG.RATE (i : Nat) : Fld := ⟨0x00130000 + 0x10 * (i % 32), 28, 2, 0⟩
def FBA_CHCFG.LEAK (i : Nat) : Fld := ⟨0x00130000 + 0x10 * (i % 32), 23, 5, 8⟩
def FBA_CHCFG.ISH (i : Nat) : Fld := ⟨0x00130000 + 0x10 * (i % 32), 16, 7, 0⟩
def FBA_CHCFG.GTHR (i : Nat) : Fld := ⟨0x00130000 + 0x10 * (i % 32), 0, 16, 0⟩
def FBA_RAW.VALUE (i : Nat) : Fld := ⟨0x00130004 + 0x10 * (i % 32), 0, 32, 0⟩
def FBA_GCNT.COUNT (i : Nat) : Fld := ⟨0x00130008 + 0x10 * (i % 32), 0, 16, 0⟩
def FBA_TSEQ.CH0 (i : Nat) : Fld := ⟨0x00130200 + 0x10 * (i % 2), 0, 4, 0⟩
def FBA_TSEQ.CH1 (i : Nat) : Fld := ⟨0x00130200 + 0x10 * (i % 2), 4, 4, 0⟩
def FBA_TSEQ.CH2 (i : Nat) : Fld := ⟨0x00130200 + 0x10 * (i % 2), 8, 4, 0⟩
def FBA_TSEQ.CH3 (i : Nat) : Fld := ⟨0x00130200 + 0x10 * (i % 2), 12, 4, 0⟩
def FBA_TSEQ.CH4 (i : Nat) : Fld := ⟨0x00130200 + 0x10 * (i % 2), 16, 4, 0⟩
def FBA_TSEQ.CH5 (i : Nat) : Fld := ⟨0x00130200 + 0x10 * (i % 2), 20, 4, 0⟩
def FBA_TSEQ.CH6 (i : Nat) : Fld := ⟨0x00130200 + 0x10 * (i % 2), 24, 4, 0⟩
def FBA_TSEQ.CH7 (i : Nat) : Fld := ⟨0x00130200 + 0x10 * (i % 2), 28, 4, 0⟩
def FBA_TCFG.LEN (i : Nat) : Fld := ⟨0x00130204 + 0x10 * (i % 2), 0, 4, 0⟩
def FBA_CNT.DROPB : Fld := ⟨0x00130300, 8, 8, 0⟩
def FBA_CNT.DROPA : Fld := ⟨0x00130300, 0, 8, 0⟩
def FBA_TEMPCFG.GTHR (i : Nat) : Fld := ⟨0x00130400 + 0x10 * (i % 32), 16, 16, 0⟩
def FBA_TEMPCFG.GUARD (i : Nat) : Fld := ⟨0x00130400 + 0x10 * (i % 32), 2, 1, 0⟩
def FBA_TEMPCFG.TYPE (i : Nat) : Fld := ⟨0x00130400 + 0x10 * (i % 32), 0, 2, 0⟩
def FBA_TEMP.FAULT (i : Nat) : Fld := ⟨0x00130404 + 0x10 * (i % 32), 31, 1, 0⟩
def FBA_TEMP.OPEN (i : Nat) : Fld := ⟨0x00130404 + 0x10 * (i % 32), 30, 1, 0⟩
def FBA_TEMP.SHORT (i : Nat) : Fld := ⟨0x00130404 + 0x10 * (i % 32), 29, 1, 0⟩
def FBA_TEMP.VALUE (i : Nat) : Fld := ⟨0x00130404 + 0x10 * (i % 32), 0, 24, 0⟩
def CTR_CTL.STATUS : Fld := ⟨0x00140000, 4, 2, 1⟩
def CTR_CTL.EN : Fld := ⟨0x00140000, 0, 1, 1⟩
def CTR_START.RESULT : Fld := ⟨0x00140004, 24, 2, 0⟩
def CTR_START.CODE : Fld := ⟨0x00140004, 20, 4, 0⟩
def CTR_START.ENGINE : Fld := ⟨0x00140004, 8, 3, 0⟩
def CTR_START.SEQ : Fld := ⟨0x00140004, 0, 6, 0⟩
def CTR_ENG.CODE (i : Nat) : Fld := ⟨0x00140010 + 0x4 * (i % 8), 24, 4, 0⟩
def CTR_ENG.STEP (i : Nat) : Fld := ⟨0x00140010 + 0x4 * (i % 8), 16, 8, 0⟩
def CTR_ENG.SEQ (i : Nat) : Fld := ⟨0x00140010 + 0x4 * (i % 8), 8, 6, 0⟩
def CTR_ENG.NV (i : Nat) : Fld := ⟨0x00140010 + 0x4 * (i % 8), 4, 1, 0⟩
def CTR_ENG.STATE (i : Nat) : Fld := ⟨0x00140010 + 0x4 * (i % 8), 0, 3, 0⟩
def CTR_COIL.BIT (i : Nat) : Fld := ⟨0x00140040 + 0x4 * (i % 2), 0, 32, 0⟩
def CTR_FB.BIT (i : Nat) : Fld := ⟨0x00140048 + 0x4 * (i % 2), 0, 32, 0⟩
def CTR_WELD.BIT (i : Nat) : Fld := ⟨0x00140050 + 0x4 * (i % 2), 0, 32, 0⟩
def CTR_MISM.BIT (i : Nat) : Fld := ⟨0x00140058 + 0x4 * (i % 2), 0, 32, 0⟩
def CTR_CNT.REFUSED : Fld := ⟨0x00140060, 24, 8, 0⟩
def CTR_CNT.FAILED : Fld := ⟨0x00140060, 16, 8, 0⟩
def CTR_CNT.DONE : Fld := ⟨0x00140060, 0, 16, 0⟩
def TLM_CFG.WIN : Fld := ⟨0x00150000, 0, 3, 6⟩
def TLM_CELLEN.UNIT : Fld := ⟨0x00150004, 0, 25, 0x1FFFFFF⟩
def TLM_SRC.VEN (i : Nat) : Fld := ⟨0x00151000 + 0x100 * (i % 25), 31, 1, 0⟩
def TLM_SRC.IEN (i : Nat) : Fld := ⟨0x00151000 + 0x100 * (i % 25), 30, 1, 0⟩
def TLM_SRC.TEN (i : Nat) : Fld := ⟨0x00151000 + 0x100 * (i % 25), 29, 1, 0⟩
def TLM_SRC.TIN (i : Nat) : Fld := ⟨0x00151000 + 0x100 * (i % 25), 24, 5, 0⟩
def TLM_SRC.ISIG (i : Nat) : Fld := ⟨0x00151000 + 0x100 * (i % 25), 12, 10, 0⟩
def TLM_SRC.VSIG (i : Nat) : Fld := ⟨0x00151000 + 0x100 * (i % 25), 0, 10, 0⟩
def TLM_PCOEF.PMANT (i : Nat) : Fld := ⟨0x00151004 + 0x100 * (i % 25), 0, 32, 0⟩
def TLM_PSH.PSH (i : Nat) : Fld := ⟨0x00151008 + 0x100 * (i % 25), 0, 6, 0⟩
def TLM_VAL.VALUE (i : Nat) (j : Nat) (k : Nat) : Fld := ⟨0x00151020 + 0x100 * (i % 25) + 0x10 * (j % 4) + 0x4 * (k % 3), 0, 32, 0x80000000⟩
def TLM_MAX.VALUE (i : Nat) (j : Nat) : Fld := ⟨0x00151060 + 0x100 * (i % 25) + 0x8 * (j % 4), 0, 32, 0x80000000⟩
def TLM_MIN.VALUE (i : Nat) (j : Nat) : Fld := ⟨0x00151064 + 0x100 * (i % 25) + 0x8 * (j % 4), 0, 32, 0x80000000⟩
def TLM_CAPCFG.EN : Fld := ⟨0x00158000, 31, 1, 0⟩
def TLM_CAPCFG.TRIG : Fld := ⟨0x00158000, 16, 5, 0x1F⟩
def TLM_CAPCFG.DECIM : Fld := ⟨0x00158000, 8, 8, 1⟩
def TLM_CAPCFG.NSIG : Fld := ⟨0x00158000, 0, 7, 0x40⟩
def TLM_CAPPOST.POST : Fld := ⟨0x00158004, 0, 21, 0⟩
def TLM_CAPCTL.STOP : Fld := ⟨0x00158008, 2, 1, 0⟩
def TLM_CAPCTL.TRIGGER : Fld := ⟨0x00158008, 1, 1, 0⟩
def TLM_CAPCTL.ARM : Fld := ⟨0x00158008, 0, 1, 0⟩
def TLM_CAPSTAT.DEPTH : Fld := ⟨0x0015800C, 11, 21, 0x4000⟩
def TLM_CAPSTAT.CAUSE : Fld := ⟨0x0015800C, 4, 4, 0⟩
def TLM_CAPSTAT.STATE : Fld := ⟨0x0015800C, 0, 2, 0⟩
def TLM_CAPWR.FRAMES : Fld := ⟨0x00158010, 0, 32, 0⟩
def TLM_CAPTRIG_LO.NS : Fld := ⟨0x00158014, 0, 32, 0⟩
def TLM_CAPTRIG_HI.NS : Fld := ⟨0x00158018, 0, 32, 0⟩
def TLM_CAPSIG.SIG (i : Nat) : Fld := ⟨0x00158100 + 0x4 * (i % 64), 0, 10, 0⟩
def TLM_CAPMARK.NS (i : Nat) : Fld := ⟨0x00158200 + 0x8 * (i % 16), 0, 32, 0⟩
def TLM_CAPMFR.GROUP (i : Nat) : Fld := ⟨0x00158204 + 0x8 * (i % 16), 27, 5, 0⟩
def TLM_CAPMFR.CMP (i : Nat) : Fld := ⟨0x00158204 + 0x8 * (i % 16), 25, 2, 0⟩
def TLM_CAPMFR.VALID (i : Nat) : Fld := ⟨0x00158204 + 0x8 * (i % 16), 24, 1, 0⟩
def TLM_CAPMFR.FRAME (i : Nat) : Fld := ⟨0x00158204 + 0x8 * (i % 16), 0, 24, 0⟩
def IMD_CTL.STATE (i : Nat) : Fld := ⟨0x00160000 + 0x100 * (i % 4), 8, 3, 0⟩
def IMD_CTL.STATUS (i : Nat) : Fld := ⟨0x00160000 + 0x100 * (i % 4), 4, 2, 0⟩
def IMD_CTL.EN (i : Nat) : Fld := ⟨0x00160000 + 0x100 * (i % 4), 0, 1, 0⟩
def IMD_CFG.FCONF (i : Nat) : Fld := ⟨0x00160004 + 0x100 * (i % 4), 28, 4, 2⟩
def IMD_CFG.STOL (i : Nat) : Fld := ⟨0x00160004 + 0x100 * (i % 4), 16, 12, 0x40⟩
def IMD_CFG.HP (i : Nat) : Fld := ⟨0x00160004 + 0x100 * (i % 4), 0, 14, 0x1F4⟩
def IMD_NET.VINJ (i : Nat) : Fld := ⟨0x00160008 + 0x100 * (i % 4), 16, 16, 0⟩
def IMD_NET.RNET (i : Nat) : Fld := ⟨0x00160008 + 0x100 * (i % 4), 0, 16, 0⟩
def IMD_THR.WARN (i : Nat) : Fld := ⟨0x0016000C + 0x100 * (i % 4), 16, 16, 0x1F4⟩
def IMD_THR.FAULT (i : Nat) : Fld := ⟨0x0016000C + 0x100 * (i % 4), 0, 16, 0x64⟩
def IMD_UREF.UREF (i : Nat) : Fld := ⟨0x00160010 + 0x100 * (i % 4), 0, 16, 1⟩
def IMD_RISO.VALUE (i : Nat) : Fld := ⟨0x00160014 + 0x100 * (i % 4), 0, 32, 0xFFFFFFFF⟩
def IMD_RATIO.VALUE (i : Nat) : Fld := ⟨0x00160018 + 0x100 * (i % 4), 0, 32, 0xFFFFFFFF⟩
def SHR_GROUPID.ID : Fld := ⟨0x00180000, 0, 32, 0⟩
def SHR_GRP.MISSLIM : Fld := ⟨0x00180004, 24, 8, 3⟩
def SHR_GRP.TXSPACE : Fld := ⟨0x00180004, 16, 8, 0xA⟩
def SHR_GRP.TXKEY : Fld := ⟨0x00180004, 9, 1, 0⟩
def SHR_GRP.AUTH : Fld := ⟨0x00180004, 8, 1, 0⟩
def SHR_GRP.DEVNO : Fld := ⟨0x00180004, 0, 5, 0⟩
def SHR_STAT.MISSING : Fld := ⟨0x00180008, 24, 8, 0⟩
def SHR_STAT.HEARD : Fld := ⟨0x00180008, 16, 8, 0⟩
def SHR_STAT.WRIGN : Fld := ⟨0x00180008, 6, 1, 0⟩
def SHR_STAT.NEXTPEND : Fld := ⟨0x00180008, 5, 1, 0⟩
def SHR_STAT.BUFFLT : Fld := ⟨0x00180008, 4, 1, 0⟩
def SHR_STAT.FALLBACK : Fld := ⟨0x00180008, 3, 1, 0⟩
def SHR_STAT.GUARD : Fld := ⟨0x00180008, 2, 1, 0⟩
def SHR_STAT.MVALID : Fld := ⟨0x00180008, 1, 1, 0⟩
def SHR_STAT.MUSED : Fld := ⟨0x00180008, 0, 1, 0⟩
def SHR_NEXTLIM.VALUE : Fld := ⟨0x00180010, 0, 32, 0⟩
def SHR_NEXTMARG.VALUE : Fld := ⟨0x00180014, 0, 32, 0⟩
def SHR_NEXTMEMB.VALUE : Fld := ⟨0x00180018, 0, 32, 0⟩
def SHR_NEXTAT_LO.VALUE : Fld := ⟨0x0018001C, 0, 32, 0⟩
def SHR_NEXTAT_HI.ARM : Fld := ⟨0x00180020, 31, 1, 0⟩
def SHR_NEXTAT_HI.AT : Fld := ⟨0x00180020, 0, 16, 0⟩
def SHR_LIMIT.VALUE : Fld := ⟨0x00180024, 0, 32, 0⟩
def SHR_MARGIN.VALUE : Fld := ⟨0x00180028, 0, 32, 0⟩
def SHR_MEMBER.VALUE : Fld := ⟨0x0018002C, 0, 32, 1⟩
def SHR_OTHERMIN.VALUE : Fld := ⟨0x00180030, 0, 32, 0⟩
def SHR_OTHERMAX.VALUE : Fld := ⟨0x00180034, 0, 32, 0x7FFFFFFF⟩
def SHR_MARGFB.VALUE : Fld := ⟨0x00180038, 0, 32, 0⟩
def SHR_DEVMAX.VALUE : Fld := ⟨0x0018003C, 0, 32, 0x493E00⟩
def SHR_BUFCFG.SUPCLASS : Fld := ⟨0x00180040, 4, 3, 3⟩
def SHR_BUFCFG.SUPPORT : Fld := ⟨0x00180040, 3, 1, 0⟩
def SHR_BUFCFG.CLASS : Fld := ⟨0x00180040, 0, 3, 7⟩
def SHR_BUFCHG.W : Fld := ⟨0x00180044, 0, 32, 0⟩
def SHR_BUFDIS.W : Fld := ⟨0x00180048, 0, 32, 0⟩
def SHR_BUFRAMP.W : Fld := ⟨0x0018004C, 0, 32, 0⟩
def SHR_DERATE.FT : Fld := ⟨0x00180050, 16, 10, 0x3E8⟩
def SHR_DERATE.REQ : Fld := ⟨0x00180050, 0, 1, 0⟩
def SHR_GCFG.STREAM : Fld := ⟨0x00180060, 4, 3, 0⟩
def SHR_GCFG.F60 : Fld := ⟨0x00180060, 0, 1, 0⟩
def SHR_GMARG.VALUE : Fld := ⟨0x00180064, 0, 32, 0⟩
def SHR_GMARGFB.VALUE : Fld := ⟨0x00180068, 0, 32, 0⟩
def SHR_GSCALE.VALUE : Fld := ⟨0x0018006C, 0, 32, 0x40000000⟩
def SHR_GPQ.VALUE : Fld := ⟨0x00180070, 0, 32, 0⟩
def SHR_FRAME_LO.VALUE : Fld := ⟨0x00180080, 0, 32, 0⟩
def SHR_FRAME_HI.VALUE : Fld := ⟨0x00180084, 0, 32, 0⟩
def SHR_BUDGET.VALUE : Fld := ⟨0x00180088, 0, 32, 0⟩
def SHR_POC.VALUE : Fld := ⟨0x0018008C, 0, 32, 0⟩
def SHR_DRAW.VALUE : Fld := ⟨0x00180090, 0, 32, 0⟩
def SHR_IMPORT.VALUE : Fld := ⟨0x00180094, 0, 32, 0⟩
def SHR_CNT.LATE : Fld := ⟨0x00180098, 24, 8, 0⟩
def SHR_CNT.CFGMIS : Fld := ⟨0x00180098, 16, 8, 0⟩
def SHR_CNT.AUTHFAIL : Fld := ⟨0x00180098, 8, 8, 0⟩
def SHR_CNT.SUBST : Fld := ⟨0x00180098, 0, 8, 0⟩
def SHR_OUTCFG.VMIN (i : Nat) : Fld := ⟨0x00180100 + 0x40 * (i % 4), 21, 11, 0xC8⟩
def SHR_OUTCFG.VALID (i : Nat) : Fld := ⟨0x00180100 + 0x40 * (i % 4), 20, 1, 0⟩
def SHR_OUTCFG.CNEG (i : Nat) : Fld := ⟨0x00180100 + 0x40 * (i % 4), 14, 6, 0x3F⟩
def SHR_OUTCFG.CPOS (i : Nat) : Fld := ⟨0x00180100 + 0x40 * (i % 4), 8, 6, 0x3F⟩
def SHR_OUTCFG.VSH (i : Nat) : Fld := ⟨0x00180100 + 0x40 * (i % 4), 0, 6, 0⟩
def SHR_RAMP.VALUE (i : Nat) : Fld := ⟨0x00180104 + 0x40 * (i % 4), 0, 32, 0⟩
def SHR_PPRE.VALUE (i : Nat) : Fld := ⟨0x00180108 + 0x40 * (i % 4), 0, 32, 0⟩
def SHR_VMANT.VALUE (i : Nat) : Fld := ⟨0x0018010C + 0x40 * (i % 4), 0, 32, 0⟩
def SHR_FLOOR.VALUE (i : Nat) : Fld := ⟨0x00180110 + 0x40 * (i % 4), 0, 32, 0⟩
def SHR_CLASS.CLASS (i : Nat) : Fld := ⟨0x00180114 + 0x40 * (i % 4), 0, 3, 0⟩
def SHR_REQSENT.W (i : Nat) : Fld := ⟨0x00180118 + 0x40 * (i % 4), 0, 32, 0⟩
def SHR_ALLOC.W (i : Nat) : Fld := ⟨0x0018011C + 0x40 * (i % 4), 0, 32, 0⟩
def SHR_DAMPSRC.FLOORSHORT (i : Nat) : Fld := ⟨0x00180120 + 0x40 * (i % 4), 8, 1, 0⟩
def SHR_DAMPSRC.BY (i : Nat) : Fld := ⟨0x00180120 + 0x40 * (i % 4), 0, 3, 0⟩
def SHR_MEMSTAT.HEARD (i : Nat) : Fld := ⟨0x00180200 + 0x4 * (i % 32), 31, 1, 0⟩
def SHR_MEMSTAT.MISSING (i : Nat) : Fld := ⟨0x00180200 + 0x4 * (i % 32), 30, 1, 0⟩
def SHR_MEMSTAT.AGE (i : Nat) : Fld := ⟨0x00180200 + 0x4 * (i % 32), 0, 16, 0⟩
def SHR_RTCFG.PMOD : Fld := ⟨0x00180300, 16, 16, 0x190⟩
def SHR_RTCFG.EN : Fld := ⟨0x00180300, 0, 1, 0⟩
def SHR_RTIZ.IZERO : Fld := ⟨0x00180304, 0, 32, 0x64⟩
def SHR_RTSTAT.STEPS : Fld := ⟨0x00180308, 24, 8, 0⟩
def SHR_RTSTAT.PHASE : Fld := ⟨0x00180308, 16, 3, 0⟩
def SHR_RTSTAT.TO : Fld := ⟨0x00180308, 12, 4, 0⟩
def SHR_RTSTAT.FROM : Fld := ⟨0x00180308, 8, 4, 0⟩
def SHR_RTSTAT.GROUP : Fld := ⟨0x00180308, 0, 5, 0⟩
def SHR_RTMAP.SEQ3 (i : Nat) : Fld := ⟨0x00180400 + 0x4 * (i % 20), 18, 6, 0x3F⟩
def SHR_RTMAP.SEQ2 (i : Nat) : Fld := ⟨0x00180400 + 0x4 * (i % 20), 12, 6, 0x3F⟩
def SHR_RTMAP.SEQ1 (i : Nat) : Fld := ⟨0x00180400 + 0x4 * (i % 20), 6, 6, 0x3F⟩
def SHR_RTMAP.SEQ0 (i : Nat) : Fld := ⟨0x00180400 + 0x4 * (i % 20), 0, 6, 0x3F⟩
def SVG_CTL.STATUS : Fld := ⟨0x00190000, 4, 2, 1⟩
def SVG_CTL.EN : Fld := ⟨0x00190000, 0, 1, 1⟩
def SVG_CNT.SVAUTH : Fld := ⟨0x00190004, 24, 8, 0⟩
def SVG_CNT.GSAUTH : Fld := ⟨0x00190004, 16, 8, 0⟩
def SVG_CNT.GSOLD : Fld := ⟨0x00190004, 8, 8, 0⟩
def SVG_CNT.GSFORMAT : Fld := ⟨0x00190004, 0, 8, 0⟩
def SVG_SUBCFG.EN (i : Nat) : Fld := ⟨0x00190100 + 0x40 * (i % 8), 31, 1, 0⟩
def SVG_SUBCFG.AUTH (i : Nat) : Fld := ⟨0x00190100 + 0x40 * (i % 8), 30, 1, 0⟩
def SVG_SUBCFG.KEYSLOT (i : Nat) : Fld := ⟨0x00190100 + 0x40 * (i % 8), 28, 2, 0⟩
def SVG_SUBCFG.PORTS (i : Nat) : Fld := ⟨0x00190100 + 0x40 * (i % 8), 26, 2, 3⟩
def SVG_SUBCFG.DEPTH (i : Nat) : Fld := ⟨0x00190100 + 0x40 * (i % 8), 4, 4, 4⟩
def SVG_SUBCFG.DSET (i : Nat) : Fld := ⟨0x00190100 + 0x40 * (i % 8), 0, 4, 0⟩
def SVG_SUBMAC_LO.VALUE (i : Nat) : Fld := ⟨0x00190104 + 0x40 * (i % 8), 0, 32, 0⟩
def SVG_SUBMAC_HI.VALUE (i : Nat) : Fld := ⟨0x00190108 + 0x40 * (i % 8), 0, 32, 0⟩
def SVG_SUBAPP.VIDEN (i : Nat) : Fld := ⟨0x0019010C + 0x40 * (i % 8), 31, 1, 0⟩
def SVG_SUBAPP.VID (i : Nat) : Fld := ⟨0x0019010C + 0x40 * (i % 8), 16, 12, 0⟩
def SVG_SUBAPP.APPID (i : Nat) : Fld := ⟨0x0019010C + 0x40 * (i % 8), 0, 16, 0⟩
def SVG_SUBIDC.VALUE (i : Nat) : Fld := ⟨0x00190110 + 0x40 * (i % 8), 0, 32, 0⟩
def SVG_SUBREV.VALUE (i : Nat) : Fld := ⟨0x00190114 + 0x40 * (i % 8), 0, 32, 0⟩
def SVG_SUBSTAT.SMPCNT (i : Nat) : Fld := ⟨0x00190118 + 0x40 * (i % 8), 16, 16, 0⟩
def SVG_SUBSTAT.SMPSYNCH (i : Nat) : Fld := ⟨0x00190118 + 0x40 * (i % 8), 8, 8, 0⟩
def SVG_SUBSTAT.QUEST (i : Nat) : Fld := ⟨0x00190118 + 0x40 * (i % 8), 5, 1, 0⟩
def SVG_SUBSTAT.HELD (i : Nat) : Fld := ⟨0x00190118 + 0x40 * (i % 8), 4, 1, 0⟩
def SVG_SUBSTAT.MISSRUN (i : Nat) : Fld := ⟨0x00190118 + 0x40 * (i % 8), 2, 2, 0⟩
def SVG_SUBSTAT.STATE (i : Nat) : Fld := ⟨0x00190118 + 0x40 * (i % 8), 0, 2, 0⟩
def SVG_SUBCNT.MISSING (i : Nat) : Fld := ⟨0x0019011C + 0x40 * (i % 8), 24, 8, 0⟩
def SVG_SUBCNT.LATE (i : Nat) : Fld := ⟨0x0019011C + 0x40 * (i % 8), 16, 8, 0⟩
def SVG_SUBCNT.EARLY (i : Nat) : Fld := ⟨0x0019011C + 0x40 * (i % 8), 8, 8, 0⟩
def SVG_SUBCNT.FORMAT (i : Nat) : Fld := ⟨0x0019011C + 0x40 * (i % 8), 0, 8, 0⟩
def SVG_SUBVAL.VALUE (i : Nat) (j : Nat) : Fld := ⟨0x00190120 + 0x40 * (i % 8) + 0x4 * (j % 8), 0, 32, 0⟩
def SVG_PUBCFG.EN (i : Nat) : Fld := ⟨0x00190400 + 0x80 * (i % 2), 31, 1, 0⟩
def SVG_PUBCFG.AUTH (i : Nat) : Fld := ⟨0x00190400 + 0x80 * (i % 2), 30, 1, 0⟩
def SVG_PUBCFG.KEYSLOT (i : Nat) : Fld := ⟨0x00190400 + 0x80 * (i % 2), 28, 2, 0⟩
def SVG_PUBCFG.PORTS (i : Nat) : Fld := ⟨0x00190400 + 0x80 * (i % 2), 26, 2, 3⟩
def SVG_PUBCFG.IDLEN (i : Nat) : Fld := ⟨0x00190400 + 0x80 * (i % 2), 16, 6, 1⟩
def SVG_PUBCFG.DSET (i : Nat) : Fld := ⟨0x00190400 + 0x80 * (i % 2), 0, 4, 0⟩
def SVG_PUBMAC_LO.VALUE (i : Nat) : Fld := ⟨0x00190404 + 0x80 * (i % 2), 0, 32, 0⟩
def SVG_PUBMAC_HI.VALUE (i : Nat) : Fld := ⟨0x00190408 + 0x80 * (i % 2), 0, 32, 0⟩
def SVG_PUBAPP.PCP (i : Nat) : Fld := ⟨0x0019040C + 0x80 * (i % 2), 29, 3, 4⟩
def SVG_PUBAPP.VID (i : Nat) : Fld := ⟨0x0019040C + 0x80 * (i % 2), 16, 12, 0⟩
def SVG_PUBAPP.APPID (i : Nat) : Fld := ⟨0x0019040C + 0x80 * (i % 2), 0, 16, 0⟩
def SVG_PUBREV.VALUE (i : Nat) : Fld := ⟨0x00190410 + 0x80 * (i % 2), 0, 32, 0⟩
def SVG_PUBSTAT.SMPCNT (i : Nat) : Fld := ⟨0x00190414 + 0x80 * (i % 2), 16, 16, 0⟩
def SVG_PUBSTAT.SMPSYNCH (i : Nat) : Fld := ⟨0x00190414 + 0x80 * (i % 2), 8, 8, 0⟩
def SVG_PUBSTAT.STATUS (i : Nat) : Fld := ⟨0x00190414 + 0x80 * (i % 2), 0, 2, 0⟩
def SVG_PUBSRC.SHIFT (i : Nat) (j : Nat) : Fld := ⟨0x00190420 + 0x80 * (i % 2) + 0x8 * (j % 8), 8, 6, 0⟩
def SVG_PUBSRC.CH (i : Nat) (j : Nat) : Fld := ⟨0x00190420 + 0x80 * (i % 2) + 0x8 * (j % 8), 0, 8, 0xFF⟩
def SVG_PUBGAIN.GAIN (i : Nat) (j : Nat) : Fld := ⟨0x00190424 + 0x80 * (i % 2) + 0x8 * (j % 8), 0, 32, 0x40000000⟩
def SVG_PUBID.ID (i : Nat) (j : Nat) : Fld := ⟨0x00190460 + 0x80 * (i % 2) + 0x4 * (j % 8), 0, 32, 0⟩
def SVG_GSCFG.EN (i : Nat) : Fld := ⟨0x00190800 + 0x20 * (i % 32), 31, 1, 0⟩
def SVG_GSCFG.AUTH (i : Nat) : Fld := ⟨0x00190800 + 0x20 * (i % 32), 30, 1, 0⟩
def SVG_GSCFG.KEYSLOT (i : Nat) : Fld := ⟨0x00190800 + 0x20 * (i % 32), 28, 2, 0⟩
def SVG_GSCFG.PORTS (i : Nat) : Fld := ⟨0x00190800 + 0x20 * (i % 32), 26, 2, 3⟩
def SVG_GSCFG.SIM (i : Nat) : Fld := ⟨0x00190800 + 0x20 * (i % 32), 25, 1, 0⟩
def SVG_GSCFG.TESTACT (i : Nat) : Fld := ⟨0x00190800 + 0x20 * (i % 32), 24, 1, 0⟩
def SVG_GSCFG.FAILSAFE (i : Nat) : Fld := ⟨0x00190800 + 0x20 * (i % 32), 23, 1, 0⟩
def SVG_GSCFG.QENTRY (i : Nat) : Fld := ⟨0x00190800 + 0x20 * (i % 32), 8, 8, 0xFF⟩
def SVG_GSCFG.ENTRY (i : Nat) : Fld := ⟨0x00190800 + 0x20 * (i % 32), 0, 8, 0⟩
def SVG_GSACT.OUTMASK (i : Nat) : Fld := ⟨0x00190804 + 0x20 * (i % 32), 8, 4, 0⟩
def SVG_GSACT.ACTION (i : Nat) : Fld := ⟨0x00190804 + 0x20 * (i % 32), 0, 2, 0⟩
def SVG_GSMAC_LO.VALUE (i : Nat) : Fld := ⟨0x00190808 + 0x20 * (i % 32), 0, 32, 0⟩
def SVG_GSMAC_HI.VALUE (i : Nat) : Fld := ⟨0x0019080C + 0x20 * (i % 32), 0, 32, 0⟩
def SVG_GSAPP.APPID (i : Nat) : Fld := ⟨0x00190810 + 0x20 * (i % 32), 0, 16, 0⟩
def SVG_GSREF.VALUE (i : Nat) : Fld := ⟨0x00190814 + 0x20 * (i % 32), 0, 32, 0⟩
def SVG_GSREV.VALUE (i : Nat) : Fld := ⟨0x00190818 + 0x20 * (i % 32), 0, 32, 0⟩
def SVG_GSSTAT.STNUM (i : Nat) : Fld := ⟨0x0019081C + 0x20 * (i % 32), 16, 16, 0⟩
def SVG_GSSTAT.QBAD (i : Nat) : Fld := ⟨0x0019081C + 0x20 * (i % 32), 5, 1, 0⟩
def SVG_GSSTAT.HOLD (i : Nat) : Fld := ⟨0x0019081C + 0x20 * (i % 32), 4, 1, 0⟩
def SVG_GSSTAT.VALUE (i : Nat) : Fld := ⟨0x0019081C + 0x20 * (i % 32), 3, 1, 0⟩
def SVG_GSSTAT.STATE (i : Nat) : Fld := ⟨0x0019081C + 0x20 * (i % 32), 0, 2, 0⟩
def FNET_PORT.SPEEDERR (i : Nat) : Fld := ⟨0x001A0000 + 0x100 * (i % 2), 8, 1, 0⟩
def FNET_PORT.STATUS (i : Nat) : Fld := ⟨0x001A0000 + 0x100 * (i % 2), 4, 2, 1⟩
def FNET_PORT.LINK (i : Nat) : Fld := ⟨0x001A0000 + 0x100 * (i % 2), 1, 1, 0⟩
def FNET_PORT.EN (i : Nat) : Fld := ⟨0x001A0000 + 0x100 * (i % 2), 0, 1, 1⟩
def FNET_PDLY.TX (i : Nat) : Fld := ⟨0x001A0004 + 0x100 * (i % 2), 16, 16, 0⟩
def FNET_PDLY.RX (i : Nat) : Fld := ⟨0x001A0004 + 0x100 * (i % 2), 0, 16, 0⟩
def FNET_SHRTAG.PCP (i : Nat) : Fld := ⟨0x001A0008 + 0x100 * (i % 2), 13, 3, 6⟩
def FNET_SHRTAG.VID (i : Nat) : Fld := ⟨0x001A0008 + 0x100 * (i % 2), 0, 12, 0⟩
def FNET_GCLCTL.APPLY (i : Nat) : Fld := ⟨0x001A000C + 0x100 * (i % 2), 31, 1, 0⟩
def FNET_GCLCTL.PEND (i : Nat) : Fld := ⟨0x001A000C + 0x100 * (i % 2), 8, 1, 0⟩
def FNET_GCLCTL.NENT (i : Nat) : Fld := ⟨0x001A000C + 0x100 * (i % 2), 0, 5, 1⟩
def FNET_DROP0.SV (i : Nat) : Fld := ⟨0x001A0010 + 0x100 * (i % 2), 24, 8, 0⟩
def FNET_DROP0.SHARE (i : Nat) : Fld := ⟨0x001A0010 + 0x100 * (i % 2), 16, 8, 0⟩
def FNET_DROP0.GOOSE (i : Nat) : Fld := ⟨0x001A0010 + 0x100 * (i % 2), 8, 8, 0⟩
def FNET_DROP0.PTP (i : Nat) : Fld := ⟨0x001A0010 + 0x100 * (i % 2), 0, 8, 0⟩
def FNET_DROP1.OTHER (i : Nat) : Fld := ⟨0x001A0014 + 0x100 * (i % 2), 24, 8, 0⟩
def FNET_DROP1.OVERSIZE (i : Nat) : Fld := ⟨0x001A0014 + 0x100 * (i % 2), 16, 8, 0⟩
def FNET_DROP1.FILTERED (i : Nat) : Fld := ⟨0x001A0014 + 0x100 * (i % 2), 8, 8, 0⟩
def FNET_DROP1.FCS (i : Nat) : Fld := ⟨0x001A0014 + 0x100 * (i % 2), 0, 8, 0⟩
def FNET_TXLATE.SHRLATE (i : Nat) : Fld := ⟨0x001A0018 + 0x100 * (i % 2), 0, 8, 0⟩
def FNET_GCL0.GATES (i : Nat) : Fld := ⟨0x001A0040 + 0x100 * (i % 2), 28, 4, 0xF⟩
def FNET_GCL0.DUR (i : Nat) : Fld := ⟨0x001A0040 + 0x100 * (i % 2), 0, 20, 0xF4240⟩
def FNET_GCL.GATES (i : Nat) (j : Nat) : Fld := ⟨0x001A0044 + 0x100 * (i % 2) + 0x4 * (j % 15), 28, 4, 0⟩
def FNET_GCL.DUR (i : Nat) (j : Nat) : Fld := ⟨0x001A0044 + 0x100 * (i % 2) + 0x4 * (j % 15), 0, 20, 0⟩
def FNET_BUFPEAK.CELLS (i : Nat) : Fld := ⟨0x001A0800 + 0x4 * (i % 6), 0, 12, 0⟩
def FNET_OTHERFLT.EN (i : Nat) : Fld := ⟨0x001A0820 + 0x4 * (i % 4), 31, 1, 0⟩
def FNET_OTHERFLT.ETYPE (i : Nat) : Fld := ⟨0x001A0820 + 0x4 * (i % 4), 0, 16, 0⟩
def MET_CTL.STATUS : Fld := ⟨0x00200000, 4, 2, 1⟩
def MET_CTL.EN : Fld := ⟨0x00200000, 0, 1, 1⟩
def MET_SWCFG.RETURN : Fld := ⟨0x00200004, 0, 10, 0xA⟩
def MET_ECLR.KEY : Fld := ⟨0x00200008, 16, 16, 0⟩
def MET_ECLR.DC : Fld := ⟨0x00200008, 1, 1, 0⟩
def MET_ECLR.AC : Fld := ⟨0x00200008, 0, 1, 0⟩
def MET_LRVER.MAJOR : Fld := ⟨0x00200010, 24, 8, 0⟩
def MET_LRVER.MINOR : Fld := ⟨0x00200010, 16, 8, 0⟩
def MET_LRVER.BUILD : Fld := ⟨0x00200010, 0, 16, 0⟩
def MET_LRMINSVN.SVN : Fld := ⟨0x00200014, 0, 32, 0⟩
def MET_LRCTL.KEY : Fld := ⟨0x00200018, 16, 16, 0⟩
def MET_LRCTL.CODE : Fld := ⟨0x00200018, 8, 4, 0⟩
def MET_LRCTL.RUN : Fld := ⟨0x00200018, 2, 1, 0⟩
def MET_LRCTL.STATE : Fld := ⟨0x00200018, 0, 2, 0⟩
def MET_LRSUM.SUM (i : Nat) : Fld := ⟨0x00200040 + 0x4 * (i % 12), 0, 32, 0⟩
def MET_CHCFG.NL (i : Nat) : Fld := ⟨0x00200100 + 0x10 * (i % 16), 0, 16, 0x9C4⟩
def MET_CHSTAT.SWITCHES (i : Nat) : Fld := ⟨0x00200104 + 0x10 * (i % 16), 16, 16, 0⟩
def MET_CHSTAT.NOLOAD (i : Nat) : Fld := ⟨0x00200104 + 0x10 * (i % 16), 8, 1, 1⟩
def MET_CHSTAT.NOSRC (i : Nat) : Fld := ⟨0x00200104 + 0x10 * (i % 16), 7, 1, 0⟩
def MET_CHSTAT.FBONLY (i : Nat) : Fld := ⟨0x00200104 + 0x10 * (i % 16), 6, 1, 0⟩
def MET_CHSTAT.CFG (i : Nat) : Fld := ⟨0x00200104 + 0x10 * (i % 16), 5, 1, 0⟩
def MET_CHSTAT.RESTART (i : Nat) : Fld := ⟨0x00200104 + 0x10 * (i % 16), 4, 1, 0⟩
def MET_CHSTAT.OVR (i : Nat) : Fld := ⟨0x00200104 + 0x10 * (i % 16), 3, 1, 0⟩
def MET_CHSTAT.SUSPECT (i : Nat) : Fld := ⟨0x00200104 + 0x10 * (i % 16), 2, 1, 0⟩
def MET_CHSTAT.FB (i : Nat) : Fld := ⟨0x00200104 + 0x10 * (i % 16), 1, 1, 0⟩
def MET_CHSTAT.SRC (i : Nat) : Fld := ⟨0x00200104 + 0x10 * (i % 16), 0, 1, 0⟩
def MET_CHRMS.RMS (i : Nat) : Fld := ⟨0x00200108 + 0x10 * (i % 16), 0, 32, 0⟩
def MET_ECFG.MODE (i : Nat) : Fld := ⟨0x00200400 + 0x10 * (i % 36), 0, 2, (metEcfgReset (i % 36))⟩
def MET_E_LO.E (i : Nat) : Fld := ⟨0x00200404 + 0x10 * (i % 36), 0, 32, 0⟩
def MET_E_HI.E (i : Nat) : Fld := ⟨0x00200408 + 0x10 * (i % 36), 0, 32, 0⟩
def MET_TPCFG.SRCBAD (i : Nat) : Fld := ⟨0x00200800 + 0x10 * (i % 4), 8, 1, 0⟩
def MET_TPCFG.SRC (i : Nat) : Fld := ⟨0x00200800 + 0x10 * (i % 4), 2, 6, 0⟩
def MET_TPCFG.EN (i : Nat) : Fld := ⟨0x00200800 + 0x10 * (i % 4), 0, 1, 0⟩
def MET_TPCONST.C (i : Nat) : Fld := ⟨0x00200804 + 0x10 * (i % 4), 0, 20, 0x2710⟩
def MET_TPSTAT.WIDTH (i : Nat) : Fld := ⟨0x00200808 + 0x10 * (i % 4), 16, 16, 0x7D0⟩
def MET_TPSTAT.SAT (i : Nat) : Fld := ⟨0x00200808 + 0x10 * (i % 4), 15, 1, 0⟩
def MET_TPSTAT.OWED (i : Nat) : Fld := ⟨0x00200808 + 0x10 * (i % 4), 0, 12, 0⟩
def MET_TPCNT.DROPPED (i : Nat) : Fld := ⟨0x0020080C + 0x10 * (i % 4), 0, 32, 0⟩
def BIL_CTL.STATUS : Fld := ⟨0x00210000, 4, 2, 1⟩
def BIL_CTL.EN : Fld := ⟨0x00210000, 0, 1, 1⟩
def BIL_SEAL.CODE : Fld := ⟨0x00210004, 8, 8, 0⟩
def BIL_SEAL.STATE : Fld := ⟨0x00210004, 0, 3, 0⟩
def BIL_SEALCTL.KEY : Fld := ⟨0x00210008, 16, 16, 0⟩
def BIL_COMMIT.FAIL : Fld := ⟨0x0021000C, 8, 1, 0⟩
def BIL_COMMIT.SLOT : Fld := ⟨0x0021000C, 4, 1, 0⟩
def BIL_COMMIT.STATE : Fld := ⟨0x0021000C, 1, 2, 0⟩
def BIL_COMMIT.REQ : Fld := ⟨0x0021000C, 0, 1, 0⟩
def BIL_SEQ_LO.SEQ : Fld := ⟨0x00210010, 0, 32, 0⟩
def BIL_SEQ_HI.SEQ : Fld := ⟨0x00210014, 0, 32, 0⟩
def BIL_RESTORE.CUT : Fld := ⟨0x00210018, 8, 8, 0⟩
def BIL_RESTORE.SRC : Fld := ⟨0x00210018, 0, 2, 0⟩
def BIL_RECNEXT.NUM : Fld := ⟨0x0021001C, 0, 32, 0⟩
def BIL_RECACK.NUM : Fld := ⟨0x00210020, 0, 32, 0⟩
def BIL_LOGNEXT.NUM : Fld := ⟨0x00210024, 0, 32, 0⟩
def BIL_LOGACK.NUM : Fld := ⟨0x00210028, 0, 32, 0⟩
def BIL_STORE.LOGS : Fld := ⟨0x0021002C, 16, 11, 0⟩
def BIL_STORE.RECS : Fld := ⟨0x0021002C, 0, 9, 0⟩
def BIL_LOGLOST.COUNT : Fld := ⟨0x00210030, 0, 32, 0⟩
def BIL_BIND.DIG (i : Nat) : Fld := ⟨0x00210040 + 0x4 * (i % 12), 0, 32, 0⟩
def BIL_SESSCTL.CODE (i : Nat) : Fld := ⟨0x00210100 + 0x40 * (i % 4), 12, 4, 0⟩
def BIL_SESSCTL.RESULT (i : Nat) : Fld := ⟨0x00210100 + 0x40 * (i % 4), 8, 2, 0⟩
def BIL_SESSCTL.OP (i : Nat) : Fld := ⟨0x00210100 + 0x40 * (i % 4), 0, 2, 0⟩
def BIL_SESSSTAT.CLOSING (i : Nat) : Fld := ⟨0x00210104 + 0x40 * (i % 4), 1, 1, 0⟩
def BIL_SESSSTAT.OPEN (i : Nat) : Fld := ⟨0x00210104 + 0x40 * (i % 4), 0, 1, 0⟩
def BIL_SESSREC.RECNUM (i : Nat) : Fld := ⟨0x00210108 + 0x40 * (i % 4), 0, 32, 0xFFFFFFFF⟩
def BIL_SID.SID (i : Nat) (j : Nat) : Fld := ⟨0x00210110 + 0x40 * (i % 4) + 0x4 * (j % 4), 0, 32, 0⟩
def BIL_TWCTL.EN : Fld := ⟨0x00210200, 0, 1, 1⟩
def BIL_TWSTAT.EPIS : Fld := ⟨0x00210204, 8, 5, 0⟩
def BIL_TWSTAT.MERGED : Fld := ⟨0x00210204, 0, 1, 0⟩
def BIL_TWCFG.EN (i : Nat) : Fld := ⟨0x00210210 + 0x10 * (i % 4), 31, 1, 0⟩
def BIL_TWCFG.INTEG (i : Nat) : Fld := ⟨0x00210210 + 0x10 * (i % 4), 30, 1, 0⟩
def BIL_TWCFG.THR (i : Nat) : Fld := ⟨0x00210210 + 0x10 * (i % 4), 0, 16, 0x7D0⟩
def BIL_TWGAIN.GAIN (i : Nat) : Fld := ⟨0x00210214 + 0x10 * (i % 4), 0, 32, 0x40000000⟩
def OUT_CTL.STATUS (i : Nat) : Fld := ⟨0x00240000 + 0x1000 * (i % 4), 4, 2, 1⟩
def OUT_CTL.EN (i : Nat) : Fld := ⟨0x00240000 + 0x1000 * (i % 4), 0, 1, 1⟩
def OUT_STAT.HOLDPRE (i : Nat) : Fld := ⟨0x00240004 + 0x1000 * (i % 4), 23, 1, 0⟩
def OUT_STAT.LOCKED (i : Nat) : Fld := ⟨0x00240004 + 0x1000 * (i % 4), 22, 1, 0⟩
def OUT_STAT.ELOOP (i : Nat) : Fld := ⟨0x00240004 + 0x1000 * (i % 4), 21, 1, 0⟩
def OUT_STAT.CONN (i : Nat) : Fld := ⟨0x00240004 + 0x1000 * (i % 4), 20, 1, 0⟩
def OUT_STAT.SEQWAIT (i : Nat) : Fld := ⟨0x00240004 + 0x1000 * (i % 4), 17, 1, 0⟩
def OUT_STAT.FPEND (i : Nat) : Fld := ⟨0x00240004 + 0x1000 * (i % 4), 16, 1, 0⟩
def OUT_STAT.CAUSE (i : Nat) : Fld := ⟨0x00240004 + 0x1000 * (i % 4), 8, 8, 0⟩
def OUT_STAT.PREV (i : Nat) : Fld := ⟨0x00240004 + 0x1000 * (i % 4), 4, 4, 0⟩
def OUT_STAT.STATE (i : Nat) : Fld := ⟨0x00240004 + 0x1000 * (i % 4), 0, 4, 0⟩
def OUT_CMD.RESULT (i : Nat) : Fld := ⟨0x00240008 + 0x1000 * (i % 4), 24, 2, 0⟩
def OUT_CMD.CODE (i : Nat) : Fld := ⟨0x00240008 + 0x1000 * (i % 4), 16, 4, 0⟩
def OUT_CMD.OP (i : Nat) : Fld := ⟨0x00240008 + 0x1000 * (i % 4), 0, 3, 0⟩
def OUT_SEQ.OPEN (i : Nat) : Fld := ⟨0x0024000C + 0x1000 * (i % 4), 24, 6, 0x3F⟩
def OUT_SEQ.PRE (i : Nat) : Fld := ⟨0x0024000C + 0x1000 * (i % 4), 18, 6, 0x3F⟩
def OUT_SEQ.INS (i : Nat) : Fld := ⟨0x0024000C + 0x1000 * (i % 4), 12, 6, 0x3F⟩
def OUT_SEQ.UNLOCK (i : Nat) : Fld := ⟨0x0024000C + 0x1000 * (i % 4), 6, 6, 0x3F⟩
def OUT_SEQ.LOCK (i : Nat) : Fld := ⟨0x0024000C + 0x1000 * (i % 4), 0, 6, 0x3F⟩
def OUT_TLIM0.TPRE (i : Nat) : Fld := ⟨0x00240010 + 0x1000 * (i % 4), 16, 16, 0x2710⟩
def OUT_TLIM0.TLOCK (i : Nat) : Fld := ⟨0x00240010 + 0x1000 * (i % 4), 0, 16, 0x7D0⟩
def OUT_TLIM1.TRAMP (i : Nat) : Fld := ⟨0x00240014 + 0x1000 * (i % 4), 16, 16, 0x3E8⟩
def OUT_TLIM1.TINS (i : Nat) : Fld := ⟨0x00240014 + 0x1000 * (i % 4), 0, 16, 0x12C⟩
def OUT_CFG.WARNOK (i : Nat) : Fld := ⟨0x00240018 + 0x1000 * (i % 4), 31, 1, 0⟩
def OUT_CFG.IMDCH (i : Nat) : Fld := ⟨0x00240018 + 0x1000 * (i % 4), 28, 3, 7⟩
def OUT_CFG.TDIS (i : Nat) : Fld := ⟨0x00240018 + 0x1000 * (i % 4), 16, 12, 0x3E8⟩
def OUT_CFG.EDEB (i : Nat) : Fld := ⟨0x00240018 + 0x1000 * (i % 4), 8, 8, 2⟩
def OUT_CFG.DEB (i : Nat) : Fld := ⟨0x00240018 + 0x1000 * (i % 4), 0, 8, 0x14⟩
def OUT_GEN.VGEN (i : Nat) : Fld := ⟨0x0024001C + 0x1000 * (i % 4), 8, 8, 0xFF⟩
def OUT_GEN.IGEN (i : Nat) : Fld := ⟨0x0024001C + 0x1000 * (i % 4), 0, 8, 0xFF⟩
def OUT_IZERO.VALUE (i : Nat) : Fld := ⟨0x00240020 + 0x1000 * (i % 4), 0, 32, 0⟩
def OUT_VSAFE.VALUE (i : Nat) : Fld := ⟨0x00240024 + 0x1000 * (i % 4), 0, 32, 0⟩
def OUT_DAMPER.PD (i : Nat) : Fld := ⟨0x00240030 + 0x1000 * (i % 4), 0, 32, 0⟩
def OUT_FCAUSE.CAUSE (i : Nat) : Fld := ⟨0x00240034 + 0x1000 * (i % 4), 1, 16, 0⟩
def OUT_CNT.REFUSED (i : Nat) : Fld := ⟨0x00240038 + 0x1000 * (i % 4), 16, 16, 0⟩
def OUT_CNT.FAULTS (i : Nat) : Fld := ⟨0x00240038 + 0x1000 * (i % 4), 0, 16, 0⟩
def CBL_CTL.NOFLOW (i : Nat) : Fld := ⟨0x00250000 + 0x400 * (i % 4), 8, 1, 0⟩
def CBL_CTL.STATUS (i : Nat) : Fld := ⟨0x00250000 + 0x400 * (i % 4), 4, 2, 1⟩
def CBL_CTL.EN (i : Nat) : Fld := ⟨0x00250000 + 0x400 * (i % 4), 0, 1, 1⟩
def CBL_CFG.FMIN (i : Nat) : Fld := ⟨0x00250004 + 0x400 * (i % 4), 16, 16, 0x32⟩
def CBL_CFG.NOTIFY (i : Nat) : Fld := ⟨0x00250004 + 0x400 * (i % 4), 8, 8, 0x14⟩
def CBL_CFG.PUMPAX (i : Nat) : Fld := ⟨0x00250004 + 0x400 * (i % 4), 0, 3, 7⟩
def CBL_IMANT.IMANT (i : Nat) : Fld := ⟨0x00250008 + 0x400 * (i % 4), 0, 32, 0⟩
def CBL_ISIG.ISH (i : Nat) : Fld := ⟨0x0025000C + 0x400 * (i % 4), 16, 6, 0⟩
def CBL_ISIG.ISIG (i : Nat) : Fld := ⟨0x0025000C + 0x400 * (i % 4), 0, 10, 0⟩
def CBL_COOL.TCOOLDEF (i : Nat) : Fld := ⟨0x00250010 + 0x400 * (i % 4), 16, 16, 0x258⟩
def CBL_COOL.TIN_OUT (i : Nat) : Fld := ⟨0x00250010 + 0x400 * (i % 4), 8, 5, 0⟩
def CBL_COOL.TIN_IN (i : Nat) : Fld := ⟨0x00250010 + 0x400 * (i % 4), 0, 5, 0⟩
def CBL_FLOWK.K (i : Nat) : Fld := ⟨0x00250014 + 0x400 * (i % 4), 0, 16, 0⟩
def CBL_FLOW.TCOOL (i : Nat) : Fld := ⟨0x00250018 + 0x400 * (i % 4), 16, 16, 0⟩
def CBL_FLOW.FLOW (i : Nat) : Fld := ⟨0x00250018 + 0x400 * (i % 4), 0, 16, 0⟩
def CBL_ILIM.ILIM (i : Nat) : Fld := ⟨0x0025001C + 0x400 * (i % 4), 0, 32, 0x7FFFFFFF⟩
def CBL_ICAP.ICAP (i : Nat) : Fld := ⟨0x00250020 + 0x400 * (i % 4), 0, 32, 0x7FFFFFFF⟩
def CBL_HOR.HOR (i : Nat) : Fld := ⟨0x00250024 + 0x400 * (i % 4), 0, 16, 0x2710⟩
def CBL_TTRIP.TTRIP (i : Nat) : Fld := ⟨0x00250028 + 0x400 * (i % 4), 0, 16, 0x3E8⟩
def CBL_ISAFE.ISAFE (i : Nat) : Fld := ⟨0x0025002C + 0x400 * (i % 4), 0, 32, 0⟩
def CBL_FAN.PPR (i : Nat) : Fld := ⟨0x00250030 + 0x400 * (i % 4), 12, 2, 2⟩
def CBL_FAN.DUTY (i : Nat) : Fld := ⟨0x00250030 + 0x400 * (i % 4), 0, 10, 0⟩
def CBL_TACH.STALL (i : Nat) : Fld := ⟨0x00250034 + 0x400 * (i % 4), 16, 1, 0⟩
def CBL_TACH.RPM (i : Nat) : Fld := ⟨0x00250034 + 0x400 * (i % 4), 0, 16, 0⟩
def CBL_PINCFG.SHARE (i : Nat) (j : Nat) : Fld := ⟨0x00250100 + 0x400 * (i % 4) + 0x40 * (j % 4), 16, 16, 0⟩
def CBL_PINCFG.EN (i : Nat) (j : Nat) : Fld := ⟨0x00250100 + 0x400 * (i % 4) + 0x40 * (j % 4), 7, 1, 0⟩
def CBL_PINCFG.TIN (i : Nat) (j : Nat) : Fld := ⟨0x00250100 + 0x400 * (i % 4) + 0x40 * (j % 4), 0, 5, 0⟩
def CBL_RC0.VALUE (i : Nat) (j : Nat) : Fld := ⟨0x00250104 + 0x400 * (i % 4) + 0x40 * (j % 4), 0, 32, 0⟩
def CBL_RK0.VALUE (i : Nat) (j : Nat) : Fld := ⟨0x00250108 + 0x400 * (i % 4) + 0x40 * (j % 4), 0, 32, 0⟩
def CBL_ALC.VALUE (i : Nat) (j : Nat) : Fld := ⟨0x0025010C + 0x400 * (i % 4) + 0x40 * (j % 4), 0, 16, 0⟩
def CBL_CC.VALUE (i : Nat) (j : Nat) : Fld := ⟨0x00250110 + 0x400 * (i % 4) + 0x40 * (j % 4), 0, 32, 1⟩
def CBL_CK.VALUE (i : Nat) (j : Nat) : Fld := ⟨0x00250114 + 0x400 * (i % 4) + 0x40 * (j % 4), 0, 32, 1⟩
def CBL_RTHC.VALUE (i : Nat) (j : Nat) : Fld := ⟨0x00250118 + 0x400 * (i % 4) + 0x40 * (j % 4), 0, 32, 1⟩
def CBL_RTHNF.VALUE (i : Nat) (j : Nat) : Fld := ⟨0x0025011C + 0x400 * (i % 4) + 0x40 * (j % 4), 0, 32, 1⟩
def CBL_RTHK.VALUE (i : Nat) (j : Nat) : Fld := ⟨0x00250120 + 0x400 * (i % 4) + 0x40 * (j % 4), 0, 32, 1⟩
def CBL_TMAX.MARGIN (i : Nat) (j : Nat) : Fld := ⟨0x00250124 + 0x400 * (i % 4) + 0x40 * (j % 4), 16, 16, 0x32⟩
def CBL_TMAX.TMAX (i : Nat) (j : Nat) : Fld := ⟨0x00250124 + 0x400 * (i % 4) + 0x40 * (j % 4), 0, 16, 0x384⟩
def CBL_TC.VALUE (i : Nat) (j : Nat) : Fld := ⟨0x00250128 + 0x400 * (i % 4) + 0x40 * (j % 4), 0, 32, 0⟩
def CBL_TK.VALUE (i : Nat) (j : Nat) : Fld := ⟨0x0025012C + 0x400 * (i % 4) + 0x40 * (j % 4), 0, 32, 0⟩
def CBL_PILIM.VALUE (i : Nat) (j : Nat) : Fld := ⟨0x00250130 + 0x400 * (i % 4) + 0x40 * (j % 4), 0, 32, 0x7FFFFFFF⟩
def STK_CTL.WAKE : Fld := ⟨0x00260000, 8, 1, 0⟩
def STK_CTL.STATUS : Fld := ⟨0x00260000, 4, 2, 1⟩
def STK_CTL.EN : Fld := ⟨0x00260000, 0, 1, 1⟩
def STK_CHCFG.AUTOW : Fld := ⟨0x00260004, 19, 1, 1⟩
def STK_CHCFG.CCEN : Fld := ⟨0x00260004, 18, 1, 1⟩
def STK_CHCFG.CRCEN : Fld := ⟨0x00260004, 17, 1, 1⟩
def STK_CHCFG.RING : Fld := ⟨0x00260004, 16, 1, 0⟩
def STK_CHCFG.SPLIT : Fld := ⟨0x00260004, 8, 5, 0⟩
def STK_CHCFG.NSAT : Fld := ⟨0x00260004, 0, 6, 0⟩
def STK_CHSTAT.SPLITEFF : Fld := ⟨0x00260008, 16, 6, 0⟩
def STK_CHSTAT.NFOUND : Fld := ⟨0x00260008, 8, 6, 0⟩
def STK_CHSTAT.CFGPEND : Fld := ⟨0x00260008, 3, 1, 0⟩
def STK_CHSTAT.STATE : Fld := ⟨0x00260008, 0, 3, 0⟩
def STK_SNAPCFG.PAUSE : Fld := ⟨0x0026000C, 24, 1, 1⟩
def STK_SNAPCFG.LEAD : Fld := ⟨0x0026000C, 16, 8, 0x16⟩
def STK_SNAPCFG.PERIOD : Fld := ⟨0x0026000C, 0, 9, 0x64⟩
def STK_SNAPSTAT.ID : Fld := ⟨0x00260010, 16, 8, 0⟩
def STK_SNAPSTAT.PERLONG : Fld := ⟨0x00260010, 15, 1, 0⟩
def STK_SNAPSTAT.PEREFF : Fld := ⟨0x00260010, 0, 9, 0⟩
def STK_SNAPT_LO.NS : Fld := ⟨0x00260014, 0, 32, 0⟩
def STK_SNAPT_HI.NS : Fld := ⟨0x00260018, 0, 32, 0⟩
def STK_BUFCFG.TQ : Fld := ⟨0x00260020, 16, 16, 0x1F4⟩
def STK_BUFCFG.IGEN : Fld := ⟨0x00260020, 8, 8, 0xFF⟩
def STK_BUFCFG.BLK : Fld := ⟨0x00260020, 0, 8, 0xFF⟩
def STK_BUFSIG.VSIG : Fld := ⟨0x00260024, 16, 10, 0⟩
def STK_BUFSIG.ISIG : Fld := ⟨0x00260024, 0, 10, 0⟩
def STK_BUFIMANT.VALUE : Fld := ⟨0x00260028, 0, 32, 0⟩
def STK_BUFVMANT.VALUE : Fld := ⟨0x0026002C, 0, 32, 0⟩
def STK_BUFSH.VSH : Fld := ⟨0x00260030, 8, 6, 0⟩
def STK_BUFSH.ISH : Fld := ⟨0x00260030, 0, 6, 0⟩
def STK_BUFIZ.VALUE : Fld := ⟨0x00260034, 0, 32, 0x3E8⟩
def STK_BUFCTL.STOP : Fld := ⟨0x00260038, 1, 1, 0⟩
def STK_BUFCTL.GO : Fld := ⟨0x00260038, 0, 1, 0⟩
def STK_BUFSTAT.CAUSEMASK : Fld := ⟨0x0026003C, 16, 5, 0⟩
def STK_BUFSTAT.CAUSE : Fld := ⟨0x0026003C, 8, 3, 0⟩
def STK_BUFSTAT.STATE : Fld := ⟨0x0026003C, 0, 2, 0⟩
def STK_CELLLIM.CELLOV : Fld := ⟨0x00260040, 16, 16, 0xA410⟩
def STK_CELLLIM.CELLUV : Fld := ⟨0x00260040, 0, 16, 0x61A8⟩
def STK_CHKCFG.SUMTOL : Fld := ⟨0x00260044, 16, 16, 0x7D0⟩
def STK_CHKCFG.SUMLIM : Fld := ⟨0x00260044, 8, 4, 3⟩
def STK_CHKCFG.LIMN : Fld := ⟨0x00260044, 0, 4, 2⟩
def STK_SUM.MV : Fld := ⟨0x00260048, 0, 32, 0⟩
def STK_VSTACK.MV : Fld := ⟨0x0026004C, 0, 32, 0⟩
def STK_OWCFG.START : Fld := ⟨0x00260050, 31, 1, 0⟩
def STK_OWCFG.OWPER : Fld := ⟨0x00260050, 16, 12, 0⟩
def STK_OWCFG.OWTHR : Fld := ⟨0x00260050, 0, 16, 0x1F4⟩
def STK_OWSTAT.SWEEPS : Fld := ⟨0x00260054, 16, 8, 0⟩
def STK_OWSTAT.RUNNING : Fld := ⟨0x00260054, 8, 1, 0⟩
def STK_OWSTAT.LINE : Fld := ⟨0x00260054, 0, 5, 0x1F⟩
def STK_IMPCFG.ALPHA : Fld := ⟨0x00260058, 24, 4, 4⟩
def STK_IMPCFG.IMPMIN : Fld := ⟨0x00260058, 0, 24, 0x4E20⟩
def STK_BALMOD.RBAL : Fld := ⟨0x0026005C, 16, 16, 0x21⟩
def STK_BALMOD.RW : Fld := ⟨0x0026005C, 0, 16, 0x32⟩
def STK_CNT.MISS : Fld := ⟨0x00260060, 24, 8, 0⟩
def STK_CNT.CRC : Fld := ⟨0x00260060, 16, 8, 0⟩
def STK_CNT.CC : Fld := ⟨0x00260060, 8, 8, 0⟩
def STK_CNT.REROUTE : Fld := ⟨0x00260060, 0, 8, 0⟩
def STK_SATSTAT.FOUND (i : Nat) : Fld := ⟨0x00261000 + 0x10 * (i % 32), 5, 1, 0⟩
def STK_SATSTAT.DERATED (i : Nat) : Fld := ⟨0x00261000 + 0x10 * (i % 32), 4, 1, 0⟩
def STK_SATSTAT.END (i : Nat) : Fld := ⟨0x00261000 + 0x10 * (i % 32), 2, 1, 0⟩
def STK_SATSTAT.MISSRUN (i : Nat) : Fld := ⟨0x00261000 + 0x10 * (i % 32), 0, 2, 0⟩
def STK_SATTEMP.VALID (i : Nat) : Fld := ⟨0x00261004 + 0x10 * (i % 32), 31, 1, 0⟩
def STK_SATTEMP.TDIE (i : Nat) : Fld := ⟨0x00261004 + 0x10 * (i % 32), 0, 16, 0⟩
def STK_SATDLY.ARRB (i : Nat) : Fld := ⟨0x00261008 + 0x10 * (i % 32), 16, 16, 0xFFFF⟩
def STK_SATDLY.ARRA (i : Nat) : Fld := ⟨0x00261008 + 0x10 * (i % 32), 0, 16, 0xFFFF⟩
def STK_SATOW.LINE (i : Nat) : Fld := ⟨0x0026100C + 0x10 * (i % 32), 0, 19, 0⟩
def STK_CELLV.VALID (i : Nat) : Fld := ⟨0x00262000 + 0x4 * (i % 576), 31, 1, 0⟩
def STK_CELLV.BALCORR (i : Nat) : Fld := ⟨0x00262000 + 0x4 * (i % 576), 30, 1, 0⟩
def STK_CELLV.OWT (i : Nat) : Fld := ⟨0x00262000 + 0x4 * (i % 576), 29, 1, 0⟩
def STK_CELLV.V (i : Nat) : Fld := ⟨0x00262000 + 0x4 * (i % 576), 0, 16, 0⟩
def STK_CELLZ.Z (i : Nat) : Fld := ⟨0x00263000 + 0x4 * (i % 576), 0, 32, 0x80000000⟩
def STK_BALDUTY.DUTY3 (i : Nat) : Fld := ⟨0x00264000 + 0x4 * (i % 144), 24, 7, 0⟩
def STK_BALDUTY.DUTY2 (i : Nat) : Fld := ⟨0x00264000 + 0x4 * (i % 144), 16, 7, 0⟩
def STK_BALDUTY.DUTY1 (i : Nat) : Fld := ⟨0x00264000 + 0x4 * (i % 144), 8, 7, 0⟩
def STK_BALDUTY.DUTY0 (i : Nat) : Fld := ⟨0x00264000 + 0x4 * (i % 144), 0, 7, 0⟩
def STK_BALEFF.DUTY3 (i : Nat) : Fld := ⟨0x00264400 + 0x4 * (i % 144), 24, 7, 0⟩
def STK_BALEFF.DUTY2 (i : Nat) : Fld := ⟨0x00264400 + 0x4 * (i % 144), 16, 7, 0⟩
def STK_BALEFF.DUTY1 (i : Nat) : Fld := ⟨0x00264400 + 0x4 * (i % 144), 8, 7, 0⟩
def STK_BALEFF.DUTY0 (i : Nat) : Fld := ⟨0x00264400 + 0x4 * (i % 144), 0, 7, 0⟩
def FCAN_CTL.RECOVER (i : Nat) : Fld := ⟨0x00270000 + 0x8000 * (i % 2), 12, 1, 0⟩
def FCAN_CTL.RINGALL (i : Nat) : Fld := ⟨0x00270000 + 0x8000 * (i % 2), 11, 1, 0⟩
def FCAN_CTL.PEX (i : Nat) : Fld := ⟨0x00270000 + 0x8000 * (i % 2), 10, 1, 0⟩
def FCAN_CTL.ABO (i : Nat) : Fld := ⟨0x00270000 + 0x8000 * (i % 2), 9, 1, 0⟩
def FCAN_CTL.ORDER (i : Nat) : Fld := ⟨0x00270000 + 0x8000 * (i % 2), 8, 1, 0⟩
def FCAN_CTL.LOOP (i : Nat) : Fld := ⟨0x00270000 + 0x8000 * (i % 2), 7, 1, 0⟩
def FCAN_CTL.LISTEN (i : Nat) : Fld := ⟨0x00270000 + 0x8000 * (i % 2), 6, 1, 0⟩
def FCAN_CTL.STATUS (i : Nat) : Fld := ⟨0x00270000 + 0x8000 * (i % 2), 4, 2, 0⟩
def FCAN_CTL.EN (i : Nat) : Fld := ⟨0x00270000 + 0x8000 * (i % 2), 0, 1, 0⟩
def FCAN_NBT.NBRP (i : Nat) : Fld := ⟨0x00270004 + 0x8000 * (i % 2), 24, 8, 0⟩
def FCAN_NBT.NTSEG1 (i : Nat) : Fld := ⟨0x00270004 + 0x8000 * (i % 2), 16, 8, 0x7E⟩
def FCAN_NBT.NTSEG2 (i : Nat) : Fld := ⟨0x00270004 + 0x8000 * (i % 2), 8, 7, 0x1F⟩
def FCAN_NBT.NSJW (i : Nat) : Fld := ⟨0x00270004 + 0x8000 * (i % 2), 0, 7, 0x1F⟩
def FCAN_DBT.TDCEN (i : Nat) : Fld := ⟨0x00270008 + 0x8000 * (i % 2), 31, 1, 0⟩
def FCAN_DBT.DBRP (i : Nat) : Fld := ⟨0x00270008 + 0x8000 * (i % 2), 24, 5, 0⟩
def FCAN_DBT.DTSEG1 (i : Nat) : Fld := ⟨0x00270008 + 0x8000 * (i % 2), 16, 5, 0xA⟩
def FCAN_DBT.DTSEG2 (i : Nat) : Fld := ⟨0x00270008 + 0x8000 * (i % 2), 8, 4, 3⟩
def FCAN_DBT.DSJW (i : Nat) : Fld := ⟨0x00270008 + 0x8000 * (i % 2), 0, 4, 3⟩
def FCAN_TDC.TDCV (i : Nat) : Fld := ⟨0x0027000C + 0x8000 * (i % 2), 8, 7, 0⟩
def FCAN_TDC.TDCO (i : Nat) : Fld := ⟨0x0027000C + 0x8000 * (i % 2), 0, 7, 0⟩
def FCAN_ERR.TIMBAD (i : Nat) : Fld := ⟨0x00270010 + 0x8000 * (i % 2), 24, 1, 0⟩
def FCAN_ERR.LEC (i : Nat) : Fld := ⟨0x00270010 + 0x8000 * (i % 2), 20, 4, 0⟩
def FCAN_ERR.STATE (i : Nat) : Fld := ⟨0x00270010 + 0x8000 * (i % 2), 16, 2, 0⟩
def FCAN_ERR.REC (i : Nat) : Fld := ⟨0x00270010 + 0x8000 * (i % 2), 8, 8, 0⟩
def FCAN_ERR.TEC (i : Nat) : Fld := ⟨0x00270010 + 0x8000 * (i % 2), 0, 8, 0⟩
def FCAN_CNT.ARBLOST (i : Nat) : Fld := ⟨0x00270014 + 0x8000 * (i % 2), 24, 8, 0⟩
def FCAN_CNT.BUSERR (i : Nat) : Fld := ⟨0x00270014 + 0x8000 * (i % 2), 16, 8, 0⟩
def FCAN_CNT.FILTERED (i : Nat) : Fld := ⟨0x00270014 + 0x8000 * (i % 2), 8, 8, 0⟩
def FCAN_CNT.RINGOVR (i : Nat) : Fld := ⟨0x00270014 + 0x8000 * (i % 2), 0, 8, 0⟩
def FCAN_RETRY.ERRETRY (i : Nat) : Fld := ⟨0x00270018 + 0x8000 * (i % 2), 4, 4, 3⟩
def FCAN_RETRY.ALRETRY (i : Nat) : Fld := ⟨0x00270018 + 0x8000 * (i % 2), 0, 4, 3⟩
def FCAN_TXB.WORD (i : Nat) (j : Nat) (k : Nat) : Fld := ⟨0x00270100 + 0x8000 * (i % 2) + 0x80 * (j % 3) + 0x4 * (k % 18), 0, 32, 0⟩
def FCAN_TXCMD.ABORT (i : Nat) (j : Nat) : Fld := ⟨0x00270148 + 0x8000 * (i % 2) + 0x80 * (j % 3), 31, 1, 0⟩
def FCAN_TXCMD.REQ (i : Nat) (j : Nat) : Fld := ⟨0x00270148 + 0x8000 * (i % 2) + 0x80 * (j % 3), 30, 1, 0⟩
def FCAN_TXCMD.WRIGN (i : Nat) (j : Nat) : Fld := ⟨0x00270148 + 0x8000 * (i % 2) + 0x80 * (j % 3), 24, 1, 0⟩
def FCAN_TXCMD.ERRN (i : Nat) (j : Nat) : Fld := ⟨0x00270148 + 0x8000 * (i % 2) + 0x80 * (j % 3), 20, 4, 0⟩
def FCAN_TXCMD.ARBN (i : Nat) (j : Nat) : Fld := ⟨0x00270148 + 0x8000 * (i % 2) + 0x80 * (j % 3), 16, 4, 0⟩
def FCAN_TXCMD.STAT (i : Nat) (j : Nat) : Fld := ⟨0x00270148 + 0x8000 * (i % 2) + 0x80 * (j % 3), 0, 4, 0⟩
def FCAN_TXTS.NS (i : Nat) (j : Nat) : Fld := ⟨0x0027014C + 0x8000 * (i % 2) + 0x80 * (j % 3), 0, 32, 0⟩
def FCAN_MB.WORD (i : Nat) (j : Nat) (k : Nat) : Fld := ⟨0x00271000 + 0x8000 * (i % 2) + 0x80 * (j % 16) + 0x4 * (k % 18), 0, 32, 0⟩
def FCAN_MBFLT.ID (i : Nat) (j : Nat) : Fld := ⟨0x00271048 + 0x8000 * (i % 2) + 0x80 * (j % 16), 0, 29, 0⟩
def FCAN_MBMASK.MASK (i : Nat) (j : Nat) : Fld := ⟨0x0027104C + 0x8000 * (i % 2) + 0x80 * (j % 16), 0, 29, 0x1FFFFFFF⟩
def FCAN_MBCFG.FDFCHK (i : Nat) (j : Nat) : Fld := ⟨0x00271050 + 0x8000 * (i % 2) + 0x80 * (j % 16), 5, 1, 0⟩
def FCAN_MBCFG.FDF (i : Nat) (j : Nat) : Fld := ⟨0x00271050 + 0x8000 * (i % 2) + 0x80 * (j % 16), 4, 1, 0⟩
def FCAN_MBCFG.IDE (i : Nat) (j : Nat) : Fld := ⟨0x00271050 + 0x8000 * (i % 2) + 0x80 * (j % 16), 3, 1, 0⟩
def FCAN_MBCFG.MODE (i : Nat) (j : Nat) : Fld := ⟨0x00271050 + 0x8000 * (i % 2) + 0x80 * (j % 16), 0, 2, 0⟩
def FCAN_MBSTAT.OVRCLR (i : Nat) (j : Nat) : Fld := ⟨0x00271054 + 0x8000 * (i % 2) + 0x80 * (j % 16), 31, 1, 0⟩
def FCAN_MBSTAT.OVR (i : Nat) (j : Nat) : Fld := ⟨0x00271054 + 0x8000 * (i % 2) + 0x80 * (j % 16), 8, 8, 0⟩
def FCAN_MBSTAT.SHADOW (i : Nat) (j : Nat) : Fld := ⟨0x00271054 + 0x8000 * (i % 2) + 0x80 * (j % 16), 2, 1, 0⟩
def FCAN_MBSTAT.LOCK (i : Nat) (j : Nat) : Fld := ⟨0x00271054 + 0x8000 * (i % 2) + 0x80 * (j % 16), 1, 1, 0⟩
def FCAN_MBSTAT.NEW (i : Nat) (j : Nat) : Fld := ⟨0x00271054 + 0x8000 * (i % 2) + 0x80 * (j % 16), 0, 1, 0⟩
def FCAN_MBTS.NS (i : Nat) (j : Nat) : Fld := ⟨0x00271058 + 0x8000 * (i % 2) + 0x80 * (j % 16), 0, 32, 0⟩
def FCAN_RXSTAT.ENTRIES (i : Nat) : Fld := ⟨0x00272000 + 0x8000 * (i % 2), 0, 7, 0⟩
def FCAN_RXPOP.POP (i : Nat) : Fld := ⟨0x00272004 + 0x8000 * (i % 2), 0, 1, 0⟩
def FCAN_RXENT.WORD (i : Nat) (j : Nat) : Fld := ⟨0x00272010 + 0x8000 * (i % 2) + 0x4 * (j % 20), 0, 32, 0⟩
def FTHM_THR.SHUTDOWN : Fld := ⟨0x00280000, 16, 8, 0x78⟩
def FTHM_THR.THROTTLE : Fld := ⟨0x00280000, 8, 8, 0x6E⟩
def FTHM_THR.WARN : Fld := ⟨0x00280000, 0, 8, 0x64⟩
def FTHM_HYST.HSHUT : Fld := ⟨0x00280004, 16, 8, 5⟩
def FTHM_HYST.HTHR : Fld := ⟨0x00280004, 8, 8, 5⟩
def FTHM_HYST.HWARN : Fld := ⟨0x00280004, 0, 8, 5⟩
def FTHM_CFG.TQS : Fld := ⟨0x00280008, 0, 6, 0x28⟩
def FTHM_STAT.HOT : Fld := ⟨0x0028000C, 16, 4, 0⟩
def FTHM_STAT.ORDERR : Fld := ⟨0x0028000C, 6, 1, 0⟩
def FTHM_STAT.SENSFLT : Fld := ⟨0x0028000C, 5, 1, 0⟩
def FTHM_STAT.SHUTNOW : Fld := ⟨0x0028000C, 4, 1, 0⟩
def FTHM_STAT.SHUT : Fld := ⟨0x0028000C, 2, 2, 0⟩
def FTHM_STAT.THROTTLE : Fld := ⟨0x0028000C, 1, 1, 0⟩
def FTHM_STAT.WARN : Fld := ⟨0x0028000C, 0, 1, 0⟩
def FTHM_PEAK.SENSOR : Fld := ⟨0x00280010, 16, 4, 0⟩
def FTHM_PEAK.PEAK : Fld := ⟨0x00280010, 0, 16, 0x8000⟩
def FTHM_RECCTL.KEY : Fld := ⟨0x00280014, 16, 16, 0⟩
def FTHM_TEMP.FAULT (i : Nat) : Fld := ⟨0x00280100 + 0x4 * (i % 12), 31, 1, 0⟩
def FTHM_TEMP.T (i : Nat) : Fld := ⟨0x00280100 + 0x4 * (i % 12), 0, 16, 0⟩
def FDIA_INJCTL.GO : Fld := ⟨0x00290000, 31, 1, 0⟩
def FDIA_INJCTL.STOP : Fld := ⟨0x00290000, 30, 1, 0⟩
def FDIA_INJCTL.RESULT : Fld := ⟨0x00290000, 28, 2, 0⟩
def FDIA_INJCTL.CODE : Fld := ⟨0x00290000, 24, 4, 0⟩
def FDIA_INJCTL.INST : Fld := ⟨0x00290000, 8, 8, 0⟩
def FDIA_INJCTL.POINT : Fld := ⟨0x00290000, 0, 8, 0⟩
def FDIA_INJPAR.PAR : Fld := ⟨0x00290004, 0, 32, 0⟩
def FDIA_INJSTAT.COUNT : Fld := ⟨0x00290008, 16, 16, 0⟩
def FDIA_INJSTAT.TOKEN : Fld := ⟨0x00290008, 8, 1, 0⟩
def FDIA_INJSTAT.ACTIVE : Fld := ⟨0x00290008, 0, 4, 0⟩
def FDIA_CNT.STARTED : Fld := ⟨0x0029000C, 16, 16, 0⟩
def FDIA_CNT.CAPSKIP : Fld := ⟨0x0029000C, 0, 16, 0⟩
def FDIA_ASHSTAT.LOST : Fld := ⟨0x00290010, 16, 8, 0⟩
def FDIA_ASHSTAT.CAUSE : Fld := ⟨0x00290010, 8, 8, 0⟩
def FDIA_ASHSTAT.STATE : Fld := ⟨0x00290010, 0, 2, 0⟩
def FDIA_ASHCTL.CLR : Fld := ⟨0x00290014, 0, 1, 0⟩
def FDIA_FATAL_LO.NS : Fld := ⟨0x00290018, 0, 32, 0⟩
def FDIA_FATAL_HI.NS : Fld := ⟨0x0029001C, 0, 32, 0⟩
def FSEC_STATE.REV : Fld := ⟨0x002A0000, 24, 5, 0⟩
def FSEC_STATE.PROG : Fld := ⟨0x002A0000, 16, 5, 9⟩
def FSEC_STATE.PINNED : Fld := ⟨0x002A0000, 9, 1, 0⟩
def FSEC_STATE.PAIRED : Fld := ⟨0x002A0000, 8, 1, 0⟩
def FSEC_STATE.LCPEND : Fld := ⟨0x002A0000, 7, 1, 0⟩
def FSEC_STATE.DBGARM : Fld := ⟨0x002A0000, 5, 1, 0⟩
def FSEC_STATE.DBGEN : Fld := ⟨0x002A0000, 4, 1, 0⟩
def FSEC_STATE.LC : Fld := ⟨0x002A0000, 0, 3, 2⟩
def FSEC_UID_LO.UID : Fld := ⟨0x002A0004, 0, 32, 0⟩
def FSEC_UID_HI.UID : Fld := ⟨0x002A0008, 0, 32, 0⟩
def FSEC_DBGCTL.RELOCK : Fld := ⟨0x002A000C, 0, 1, 0⟩
def FSEC_TOKSTAT.RESULT : Fld := ⟨0x002A0010, 16, 2, 0⟩
def FSEC_TOKSTAT.CODE : Fld := ⟨0x002A0010, 8, 8, 0⟩
def FSEC_TOKSTAT.KIND : Fld := ⟨0x002A0010, 0, 8, 0⟩
def FSEC_CFG.BULKENC : Fld := ⟨0x002A0014, 0, 1, 0⟩
def FSEC_PAIRCTL.CODE : Fld := ⟨0x002A0018, 12, 4, 0⟩
def FSEC_PAIRCTL.RESULT : Fld := ⟨0x002A0018, 8, 2, 0⟩
def FSEC_PAIRCTL.GO : Fld := ⟨0x002A0018, 0, 1, 0⟩
def FSEC_KEYCTL.CODE : Fld := ⟨0x002A001C, 12, 4, 0⟩
def FSEC_KEYCTL.RESULT : Fld := ⟨0x002A001C, 8, 2, 0⟩
def FSEC_KEYCTL.TARGET : Fld := ⟨0x002A001C, 4, 3, 0⟩
def FSEC_KEYCTL.CLR : Fld := ⟨0x002A001C, 1, 1, 0⟩
def FSEC_KEYCTL.GO : Fld := ⟨0x002A001C, 0, 1, 0⟩
def FSEC_FWMINSVN.SVN : Fld := ⟨0x002A0020, 0, 32, 0⟩
def FSEC_TRNG.FAILURES : Fld := ⟨0x002A0024, 8, 8, 0⟩
def FSEC_TRNG.FAIL : Fld := ⟨0x002A0024, 1, 1, 0⟩
def FSEC_TRNG.OK : Fld := ⟨0x002A0024, 0, 1, 0⟩
def FSEC_TAMPCFG.ZEROISE (i : Nat) : Fld := ⟨0x002A0028 + 0x4 * (i % 2), 1, 1, 0⟩
def FSEC_TAMPCFG.EN (i : Nat) : Fld := ⟨0x002A0028 + 0x4 * (i % 2), 0, 1, 0⟩
def FSEC_TAMPSTAT.RAW : Fld := ⟨0x002A0030, 4, 2, 0⟩
def FSEC_TAMPSTAT.LATCH : Fld := ⟨0x002A0030, 0, 2, 0⟩
def FSEC_STMTCTL.RESULT : Fld := ⟨0x002A0034, 8, 2, 0⟩
def FSEC_STMTCTL.GO : Fld := ⟨0x002A0034, 0, 1, 0⟩
def FSEC_CHAL.WORD (i : Nat) : Fld := ⟨0x002A0040 + 0x4 * (i % 4), 0, 32, 0⟩
def FSEC_NONCE.WORD (i : Nat) : Fld := ⟨0x002A0050 + 0x4 * (i % 4), 0, 32, 0⟩
def FSEC_KEYIN.WORD (i : Nat) : Fld := ⟨0x002A0080 + 0x4 * (i % 12), 0, 32, 0⟩
def FSEC_MPUB.WORD (i : Nat) : Fld := ⟨0x002A0100 + 0x4 * (i % 24), 0, 32, 0⟩
def FSEC_FPUB.WORD (i : Nat) : Fld := ⟨0x002A0180 + 0x4 * (i % 24), 0, 32, 0⟩
def FSEC_STMT.WORD (i : Nat) : Fld := ⟨0x002A0200 + 0x4 * (i % 84), 0, 32, 0⟩
def FSEC_PAIRIN.WORD (i : Nat) : Fld := ⟨0x002A0400 + 0x4 * (i % 76), 0, 32, 0⟩
def FSEC_PAIROUT.WORD (i : Nat) : Fld := ⟨0x002A0600 + 0x4 * (i % 76), 0, 32, 0⟩
def HSYS_ID.PART : Fld := ⟨0x20000000, 16, 16, 0x4810⟩
def HSYS_ID.MAJOR : Fld := ⟨0x20000000, 8, 8, 0xB⟩
def HSYS_ID.MINOR : Fld := ⟨0x20000000, 0, 8, 0⟩
def HSYS_RSTCAUSE.LS_ENC : Fld := ⟨0x20000018, 6, 1, 0⟩
def HSYS_RSTCAUSE.THERM : Fld := ⟨0x20000018, 5, 1, 0⟩
def HSYS_RSTCAUSE.SW_COLD : Fld := ⟨0x20000018, 4, 1, 0⟩
def HSYS_RSTCAUSE.SW_WARM : Fld := ⟨0x20000018, 3, 1, 0⟩
def HSYS_RSTCAUSE.WDT2 : Fld := ⟨0x20000018, 2, 1, 0⟩
def HSYS_RSTCAUSE.SUPPLY : Fld := ⟨0x20000018, 1, 1, 0⟩
def HSYS_RSTCAUSE.POR : Fld := ⟨0x20000018, 0, 1, 1⟩
def HSYS_SWRST.KEY : Fld := ⟨0x2000001C, 16, 16, 0⟩
def HSYS_SWRST.SCOPE : Fld := ⟨0x2000001C, 0, 2, 0⟩
def HSYS_WDT.SERVICE : Fld := ⟨0x20000020, 16, 16, 0⟩
def HSYS_WDT.T1 : Fld := ⟨0x20000020, 0, 10, 0x3E8⟩
def HSYS_PWRSTAT.H0SRC : Fld := ⟨0x20000024, 5, 1, 0⟩
def HSYS_PWRSTAT.ON : Fld := ⟨0x20000024, 0, 5, 3⟩
def HSYS_BOOTCFG.TRIES : Fld := ⟨0x20000028, 0, 2, 3⟩
def HSYS_IMGSTAT.BSTATE : Fld := ⟨0x2000002C, 6, 2, 0⟩
def HSYS_IMGSTAT.ASTATE : Fld := ⟨0x2000002C, 4, 2, 2⟩
def HSYS_IMGSTAT.TRY : Fld := ⟨0x2000002C, 2, 2, 0⟩
def HSYS_IMGSTAT.FALLBACK : Fld := ⟨0x2000002C, 1, 1, 0⟩
def HSYS_IMGSTAT.SLOT : Fld := ⟨0x2000002C, 0, 1, 0⟩
def HSYS_IMGOK.KEY : Fld := ⟨0x20000030, 16, 16, 0⟩
def HSYS_HTC_LO.NS : Fld := ⟨0x20000034, 0, 32, 0⟩
def HSYS_HTC_HI.NS : Fld := ⟨0x20000038, 0, 32, 0⟩
def HFLU_LINK.TRAINS : Fld := ⟨0x20010000, 8, 8, 0⟩
def HFLU_LINK.SINGLE : Fld := ⟨0x20010000, 3, 1, 0⟩
def HFLU_LINK.LANE1 : Fld := ⟨0x20010000, 2, 1, 0⟩
def HFLU_LINK.LANE0 : Fld := ⟨0x20010000, 1, 1, 0⟩
def HFLU_LINK.UP : Fld := ⟨0x20010000, 0, 1, 0⟩
def HFLU_HBCFG.KICK : Fld := ⟨0x20010004, 24, 8, 0x14⟩
def HFLU_HBCFG.HBGEN : Fld := ⟨0x20010004, 16, 1, 0⟩
def HFLU_HBCFG.T_FLOSS : Fld := ⟨0x20010004, 0, 10, 0xA⟩
def HFLU_HBKICK.KEY : Fld := ⟨0x20010008, 16, 16, 0⟩
def HFLU_HBKICK.HOSTSTATE : Fld := ⟨0x20010008, 0, 8, 0⟩
def HFLU_ERR.TXFULL : Fld := ⟨0x2001000C, 26, 6, 0⟩
def HFLU_ERR.INVALID : Fld := ⟨0x2001000C, 20, 6, 0⟩
def HFLU_ERR.GAP : Fld := ⟨0x2001000C, 12, 8, 0⟩
def HFLU_ERR.CRC : Fld := ⟨0x2001000C, 0, 12, 0⟩
def HFLU_BULKWT.RECORD : Fld := ⟨0x20010014, 16, 4, 1⟩
def HFLU_BULKWT.ASH : Fld := ⟨0x20010014, 12, 4, 1⟩
def HFLU_BULKWT.JOURNAL : Fld := ⟨0x20010014, 8, 4, 1⟩
def HFLU_BULKWT.CAPTURE : Fld := ⟨0x20010014, 4, 4, 1⟩
def HFLU_BULKWT.IMAGE : Fld := ⟨0x20010014, 0, 4, 0xC⟩
def HFLU_CREDIT.Q0 : Fld := ⟨0x20010018, 0, 4, 0⟩
def HFLU_CREDIT.Q1 : Fld := ⟨0x20010018, 4, 4, 0⟩
def HFLU_CREDIT.Q2 : Fld := ⟨0x20010018, 8, 4, 0⟩
def HFLU_CREDIT.Q3 : Fld := ⟨0x20010018, 12, 4, 0⟩
def HFLU_CREDIT.Q4 : Fld := ⟨0x20010018, 16, 4, 0⟩
def HFLU_CREDIT.Q5 : Fld := ⟨0x20010018, 20, 4, 0⟩
def HFLU_CREDIT.Q6 : Fld := ⟨0x20010018, 24, 4, 0⟩
def HFLU_CREDIT.Q7 : Fld := ⟨0x20010018, 28, 4, 0⟩
def HFLU_TSDLY.DLY : Fld := ⟨0x2001001C, 0, 16, 0⟩
def HFLU_TXWIN.CELL (i : Nat) (j : Nat) : Fld := ⟨0x20010100 + 0x40 * (i % 2) + 0x4 * (j % 16), 0, 32, 0⟩
def HRNG_BASE_LO.ADDR (i : Nat) : Fld := ⟨0x20020000 + 0x40 * (i % 32), 0, 32, 0⟩
def HRNG_BASE_HI.ADDR (i : Nat) : Fld := ⟨0x20020004 + 0x40 * (i % 32), 0, 32, 0⟩
def HRNG_CFG.SIZE (i : Nat) : Fld := ⟨0x20020008 + 0x40 * (i % 32), 8, 5, 4⟩
def HRNG_CFG.DIR (i : Nat) : Fld := ⟨0x20020008 + 0x40 * (i % 32), 6, 1, (if i % 32 ≤ 18 ∧ i % 32 % 2 = 0 ∨ 20 ≤ i % 32 ∧ i % 32 ≤ 26 then 1 else 0)⟩
def HRNG_CFG.STATUS (i : Nat) : Fld := ⟨0x20020008 + 0x40 * (i % 32), 4, 2, 0⟩
def HRNG_CFG.EN (i : Nat) : Fld := ⟨0x20020008 + 0x40 * (i % 32), 0, 1, 0⟩
def HRNG_HEAD.IDX (i : Nat) : Fld := ⟨0x2002000C + 0x40 * (i % 32), 0, 16, 0⟩
def HRNG_TAIL.IDX (i : Nat) : Fld := ⟨0x20020010 + 0x40 * (i % 32), 0, 16, 0⟩
def HRNG_STAT.ERR (i : Nat) : Fld := ⟨0x20020014 + 0x40 * (i % 32), 2, 1, 0⟩
def HRNG_STAT.STALL (i : Nat) : Fld := ⟨0x20020014 + 0x40 * (i % 32), 1, 1, 0⟩
def HRNG_STAT.EVT (i : Nat) : Fld := ⟨0x20020014 + 0x40 * (i % 32), 0, 1, 0⟩
def HRNG_DROP.COUNT (i : Nat) : Fld := ⟨0x20020018 + 0x40 * (i % 32), 0, 16, 0⟩
def HRNG_COAL.TIME (i : Nat) : Fld := ⟨0x2002001C + 0x40 * (i % 32), 16, 16, 0⟩
def HRNG_COAL.COUNT (i : Nat) : Fld := ⟨0x2002001C + 0x40 * (i % 32), 0, 8, 0⟩
def HEVT_SRC.EN (i : Nat) : Fld := ⟨0x20030000 + 0x4 * (i % 128), 31, 1, 0⟩
def HEVT_SRC.PRIO (i : Nat) : Fld := ⟨0x20030000 + 0x4 * (i % 128), 8, 3, 0⟩
def HEVT_SRC.CORE (i : Nat) : Fld := ⟨0x20030000 + 0x4 * (i % 128), 0, 4, 0⟩
def HEVT_PEND.PEND (i : Nat) : Fld := ⟨0x20030200 + 0x4 * (i % 4), 0, 32, 0⟩
def HEVT_THR.THR (i : Nat) : Fld := ⟨0x20030300 + 0x8 * (i % 4), 0, 3, 0⟩
def HEVT_CLAIM.SRC (i : Nat) : Fld := ⟨0x20030304 + 0x8 * (i % 4), 0, 8, 0⟩
def HNET_PORT.SPEEDERR (i : Nat) : Fld := ⟨0x20040000 + 0x100 * (i % 2), 8, 1, 0⟩
def HNET_PORT.STATUS (i : Nat) : Fld := ⟨0x20040000 + 0x100 * (i % 2), 4, 2, 1⟩
def HNET_PORT.LINK (i : Nat) : Fld := ⟨0x20040000 + 0x100 * (i % 2), 1, 1, 0⟩
def HNET_PORT.EN (i : Nat) : Fld := ⟨0x20040000 + 0x100 * (i % 2), 0, 1, 1⟩
def HNET_MAC_LO.OCTETS (i : Nat) : Fld := ⟨0x20040004 + 0x100 * (i % 2), 0, 32, 0⟩
def HNET_MAC_HI.OCTETS (i : Nat) : Fld := ⟨0x20040008 + 0x100 * (i % 2), 0, 16, 0⟩
def HNET_RXFLT.PCPSPLIT (i : Nat) : Fld := ⟨0x2004000C + 0x100 * (i % 2), 8, 3, 4⟩
def HNET_RXFLT.ALLMULTI (i : Nat) : Fld := ⟨0x2004000C + 0x100 * (i % 2), 1, 1, 0⟩
def HNET_RXFLT.PROMISC (i : Nat) : Fld := ⟨0x2004000C + 0x100 * (i % 2), 0, 1, 0⟩
def HNET_CNT.FCS (i : Nat) : Fld := ⟨0x20040010 + 0x100 * (i % 2), 16, 16, 0⟩
def HNET_CNT.FILTERED (i : Nat) : Fld := ⟨0x20040010 + 0x100 * (i % 2), 0, 16, 0⟩
def VEH_T1SCFG.TOTMR (i : Nat) : Fld := ⟨0x20050000 + 0x100 * (i % 4), 24, 8, 0x20⟩
def VEH_T1SCFG.NODECNT (i : Nat) : Fld := ⟨0x20050000 + 0x100 * (i % 4), 16, 8, 8⟩
def VEH_T1SCFG.NODEID (i : Nat) : Fld := ⟨0x20050000 + 0x100 * (i % 4), 8, 8, 0⟩
def VEH_T1SCFG.PLCAEN (i : Nat) : Fld := ⟨0x20050000 + 0x100 * (i % 4), 1, 1, 0⟩
def VEH_T1SCFG.EN (i : Nat) : Fld := ⟨0x20050000 + 0x100 * (i % 4), 0, 1, 0⟩
def VEH_T1SSTAT.JABBER (i : Nat) : Fld := ⟨0x20050004 + 0x100 * (i % 4), 8, 1, 0⟩
def VEH_T1SSTAT.STATUS (i : Nat) : Fld := ⟨0x20050004 + 0x100 * (i % 4), 4, 2, 0⟩
def VEH_T1SSTAT.PLCA (i : Nat) : Fld := ⟨0x20050004 + 0x100 * (i % 4), 0, 1, 0⟩
def VEH_T1SCNT.RXERR (i : Nat) : Fld := ⟨0x20050008 + 0x100 * (i % 4), 16, 16, 0⟩
def VEH_T1SCNT.COLL (i : Nat) : Fld := ⟨0x20050008 + 0x100 * (i % 4), 0, 16, 0⟩
def VEH_CPCFG.AUTOQ (i : Nat) : Fld := ⟨0x20050020 + 0x100 * (i % 4), 8, 8, 0⟩
def VEH_CPCFG.ARM (i : Nat) : Fld := ⟨0x20050020 + 0x100 * (i % 4), 1, 1, 0⟩
def VEH_CPCFG.EN (i : Nat) : Fld := ⟨0x20050020 + 0x100 * (i % 4), 0, 1, 0⟩
def VEH_CPDUTY.DUTY (i : Nat) : Fld := ⟨0x20050024 + 0x100 * (i % 4), 0, 10, 0⟩
def VEH_CPMEAS.LOW (i : Nat) : Fld := ⟨0x20050028 + 0x100 * (i % 4), 16, 16, 0x8000⟩
def VEH_CPMEAS.HIGH (i : Nat) : Fld := ⟨0x20050028 + 0x100 * (i % 4), 0, 16, 0x8000⟩
def VEH_CPSTAT.DUTYM (i : Nat) : Fld := ⟨0x2005002C + 0x100 * (i % 4), 16, 10, 0⟩
def VEH_CPSTAT.DIODE (i : Nat) : Fld := ⟨0x2005002C + 0x100 * (i % 4), 3, 1, 0⟩
def VEH_CPSTAT.STATE (i : Nat) : Fld := ⟨0x2005002C + 0x100 * (i % 4), 0, 3, 7⟩
def VEH_PP.RES (i : Nat) : Fld := ⟨0x20050030 + 0x100 * (i % 4), 0, 16, 0xFFFF⟩
def HCAN_CTL.RECOVER (i : Nat) : Fld := ⟨0x20060000 + 0x8000 * (i % 2), 12, 1, 0⟩
def HCAN_CTL.RINGALL (i : Nat) : Fld := ⟨0x20060000 + 0x8000 * (i % 2), 11, 1, 0⟩
def HCAN_CTL.PEX (i : Nat) : Fld := ⟨0x20060000 + 0x8000 * (i % 2), 10, 1, 0⟩
def HCAN_CTL.ABO (i : Nat) : Fld := ⟨0x20060000 + 0x8000 * (i % 2), 9, 1, 0⟩
def HCAN_CTL.ORDER (i : Nat) : Fld := ⟨0x20060000 + 0x8000 * (i % 2), 8, 1, 0⟩
def HCAN_CTL.LOOP (i : Nat) : Fld := ⟨0x20060000 + 0x8000 * (i % 2), 7, 1, 0⟩
def HCAN_CTL.LISTEN (i : Nat) : Fld := ⟨0x20060000 + 0x8000 * (i % 2), 6, 1, 0⟩
def HCAN_CTL.STATUS (i : Nat) : Fld := ⟨0x20060000 + 0x8000 * (i % 2), 4, 2, 0⟩
def HCAN_CTL.EN (i : Nat) : Fld := ⟨0x20060000 + 0x8000 * (i % 2), 0, 1, 0⟩
def HCAN_NBT.NBRP (i : Nat) : Fld := ⟨0x20060004 + 0x8000 * (i % 2), 24, 8, 0⟩
def HCAN_NBT.NTSEG1 (i : Nat) : Fld := ⟨0x20060004 + 0x8000 * (i % 2), 16, 8, 0x7E⟩
def HCAN_NBT.NTSEG2 (i : Nat) : Fld := ⟨0x20060004 + 0x8000 * (i % 2), 8, 7, 0x1F⟩
def HCAN_NBT.NSJW (i : Nat) : Fld := ⟨0x20060004 + 0x8000 * (i % 2), 0, 7, 0x1F⟩
def HCAN_DBT.TDCEN (i : Nat) : Fld := ⟨0x20060008 + 0x8000 * (i % 2), 31, 1, 0⟩
def HCAN_DBT.DBRP (i : Nat) : Fld := ⟨0x20060008 + 0x8000 * (i % 2), 24, 5, 0⟩
def HCAN_DBT.DTSEG1 (i : Nat) : Fld := ⟨0x20060008 + 0x8000 * (i % 2), 16, 5, 0xA⟩
def HCAN_DBT.DTSEG2 (i : Nat) : Fld := ⟨0x20060008 + 0x8000 * (i % 2), 8, 4, 3⟩
def HCAN_DBT.DSJW (i : Nat) : Fld := ⟨0x20060008 + 0x8000 * (i % 2), 0, 4, 3⟩
def HCAN_TDC.TDCV (i : Nat) : Fld := ⟨0x2006000C + 0x8000 * (i % 2), 8, 7, 0⟩
def HCAN_TDC.TDCO (i : Nat) : Fld := ⟨0x2006000C + 0x8000 * (i % 2), 0, 7, 0⟩
def HCAN_ERR.TIMBAD (i : Nat) : Fld := ⟨0x20060010 + 0x8000 * (i % 2), 24, 1, 0⟩
def HCAN_ERR.LEC (i : Nat) : Fld := ⟨0x20060010 + 0x8000 * (i % 2), 20, 4, 0⟩
def HCAN_ERR.STATE (i : Nat) : Fld := ⟨0x20060010 + 0x8000 * (i % 2), 16, 2, 0⟩
def HCAN_ERR.REC (i : Nat) : Fld := ⟨0x20060010 + 0x8000 * (i % 2), 8, 8, 0⟩
def HCAN_ERR.TEC (i : Nat) : Fld := ⟨0x20060010 + 0x8000 * (i % 2), 0, 8, 0⟩
def HCAN_CNT.ARBLOST (i : Nat) : Fld := ⟨0x20060014 + 0x8000 * (i % 2), 24, 8, 0⟩
def HCAN_CNT.BUSERR (i : Nat) : Fld := ⟨0x20060014 + 0x8000 * (i % 2), 16, 8, 0⟩
def HCAN_CNT.FILTERED (i : Nat) : Fld := ⟨0x20060014 + 0x8000 * (i % 2), 8, 8, 0⟩
def HCAN_CNT.RINGOVR (i : Nat) : Fld := ⟨0x20060014 + 0x8000 * (i % 2), 0, 8, 0⟩
def HCAN_RETRY.ERRETRY (i : Nat) : Fld := ⟨0x20060018 + 0x8000 * (i % 2), 4, 4, 3⟩
def HCAN_RETRY.ALRETRY (i : Nat) : Fld := ⟨0x20060018 + 0x8000 * (i % 2), 0, 4, 3⟩
def HCAN_TXB.WORD (i : Nat) (j : Nat) (k : Nat) : Fld := ⟨0x20060100 + 0x8000 * (i % 2) + 0x80 * (j % 3) + 0x4 * (k % 18), 0, 32, 0⟩
def HCAN_TXCMD.ABORT (i : Nat) (j : Nat) : Fld := ⟨0x20060148 + 0x8000 * (i % 2) + 0x80 * (j % 3), 31, 1, 0⟩
def HCAN_TXCMD.REQ (i : Nat) (j : Nat) : Fld := ⟨0x20060148 + 0x8000 * (i % 2) + 0x80 * (j % 3), 30, 1, 0⟩
def HCAN_TXCMD.WRIGN (i : Nat) (j : Nat) : Fld := ⟨0x20060148 + 0x8000 * (i % 2) + 0x80 * (j % 3), 24, 1, 0⟩
def HCAN_TXCMD.ERRN (i : Nat) (j : Nat) : Fld := ⟨0x20060148 + 0x8000 * (i % 2) + 0x80 * (j % 3), 20, 4, 0⟩
def HCAN_TXCMD.ARBN (i : Nat) (j : Nat) : Fld := ⟨0x20060148 + 0x8000 * (i % 2) + 0x80 * (j % 3), 16, 4, 0⟩
def HCAN_TXCMD.STAT (i : Nat) (j : Nat) : Fld := ⟨0x20060148 + 0x8000 * (i % 2) + 0x80 * (j % 3), 0, 4, 0⟩
def HCAN_TXTS.NS (i : Nat) (j : Nat) : Fld := ⟨0x2006014C + 0x8000 * (i % 2) + 0x80 * (j % 3), 0, 32, 0⟩
def HCAN_MB.WORD (i : Nat) (j : Nat) (k : Nat) : Fld := ⟨0x20061000 + 0x8000 * (i % 2) + 0x80 * (j % 16) + 0x4 * (k % 18), 0, 32, 0⟩
def HCAN_MBFLT.ID (i : Nat) (j : Nat) : Fld := ⟨0x20061048 + 0x8000 * (i % 2) + 0x80 * (j % 16), 0, 29, 0⟩
def HCAN_MBMASK.MASK (i : Nat) (j : Nat) : Fld := ⟨0x2006104C + 0x8000 * (i % 2) + 0x80 * (j % 16), 0, 29, 0x1FFFFFFF⟩
def HCAN_MBCFG.FDFCHK (i : Nat) (j : Nat) : Fld := ⟨0x20061050 + 0x8000 * (i % 2) + 0x80 * (j % 16), 5, 1, 0⟩
def HCAN_MBCFG.FDF (i : Nat) (j : Nat) : Fld := ⟨0x20061050 + 0x8000 * (i % 2) + 0x80 * (j % 16), 4, 1, 0⟩
def HCAN_MBCFG.IDE (i : Nat) (j : Nat) : Fld := ⟨0x20061050 + 0x8000 * (i % 2) + 0x80 * (j % 16), 3, 1, 0⟩
def HCAN_MBCFG.MODE (i : Nat) (j : Nat) : Fld := ⟨0x20061050 + 0x8000 * (i % 2) + 0x80 * (j % 16), 0, 2, 0⟩
def HCAN_MBSTAT.OVRCLR (i : Nat) (j : Nat) : Fld := ⟨0x20061054 + 0x8000 * (i % 2) + 0x80 * (j % 16), 31, 1, 0⟩
def HCAN_MBSTAT.OVR (i : Nat) (j : Nat) : Fld := ⟨0x20061054 + 0x8000 * (i % 2) + 0x80 * (j % 16), 8, 8, 0⟩
def HCAN_MBSTAT.SHADOW (i : Nat) (j : Nat) : Fld := ⟨0x20061054 + 0x8000 * (i % 2) + 0x80 * (j % 16), 2, 1, 0⟩
def HCAN_MBSTAT.LOCK (i : Nat) (j : Nat) : Fld := ⟨0x20061054 + 0x8000 * (i % 2) + 0x80 * (j % 16), 1, 1, 0⟩
def HCAN_MBSTAT.NEW (i : Nat) (j : Nat) : Fld := ⟨0x20061054 + 0x8000 * (i % 2) + 0x80 * (j % 16), 0, 1, 0⟩
def HCAN_MBTS.NS (i : Nat) (j : Nat) : Fld := ⟨0x20061058 + 0x8000 * (i % 2) + 0x80 * (j % 16), 0, 32, 0⟩
def HCAN_RXSTAT.ENTRIES (i : Nat) : Fld := ⟨0x20062000 + 0x8000 * (i % 2), 0, 7, 0⟩
def SEC_STATE.REV : Fld := ⟨0x20070000, 24, 3, 0⟩
def SEC_STATE.PROG : Fld := ⟨0x20070000, 16, 3, 1⟩
def SEC_STATE.CONT : Fld := ⟨0x20070000, 10, 1, 0⟩
def SEC_STATE.PINNED : Fld := ⟨0x20070000, 9, 1, 0⟩
def SEC_STATE.PAIRED : Fld := ⟨0x20070000, 8, 1, 0⟩
def SEC_STATE.LCPEND : Fld := ⟨0x20070000, 7, 1, 0⟩
def SEC_STATE.DBGARM : Fld := ⟨0x20070000, 5, 1, 0⟩
def SEC_STATE.DBGEN : Fld := ⟨0x20070000, 4, 1, 0⟩
def SEC_STATE.LC : Fld := ⟨0x20070000, 0, 3, 2⟩
def SEC_UID_LO.UID : Fld := ⟨0x20070004, 0, 32, 0⟩
def SEC_UID_HI.UID : Fld := ⟨0x20070008, 0, 32, 0⟩
def SEC_DBGCTL.RELOCK : Fld := ⟨0x2007000C, 0, 1, 0⟩
def SEC_CMD.GO : Fld := ⟨0x20070010, 31, 1, 0⟩
def SEC_CMD.RESULT : Fld := ⟨0x20070010, 28, 2, 0⟩
def SEC_CMD.CODE : Fld := ⟨0x20070010, 16, 8, 0⟩
def SEC_CMD.OP : Fld := ⟨0x20070010, 0, 8, 0⟩
def SEC_CMDADDR_LO.ADDR : Fld := ⟨0x20070014, 0, 32, 0⟩
def SEC_CMDADDR_HI.ADDR : Fld := ⟨0x20070018, 0, 32, 0⟩
def SEC_TRNG.FAILURES : Fld := ⟨0x20070020, 8, 8, 0⟩
def SEC_TRNG.FAIL : Fld := ⟨0x20070020, 1, 1, 0⟩
def SEC_TRNG.OK : Fld := ⟨0x20070020, 0, 1, 0⟩
def SEC_TAMPCFG.ZEROISE (i : Nat) : Fld := ⟨0x20070024 + 0x4 * (i % 2), 1, 1, 0⟩
def SEC_TAMPCFG.EN (i : Nat) : Fld := ⟨0x20070024 + 0x4 * (i % 2), 0, 1, 0⟩
def SEC_TAMPSTAT.RAW : Fld := ⟨0x2007002C, 4, 2, 0⟩
def SEC_TAMPSTAT.LATCH : Fld := ⟨0x2007002C, 0, 2, 0⟩
def SEC_MONOINC.INC : Fld := ⟨0x20070030, 0, 4, 0⟩
def SEC_TOKSTAT.RESULT : Fld := ⟨0x20070034, 16, 2, 0⟩
def SEC_TOKSTAT.CODE : Fld := ⟨0x20070034, 8, 8, 0⟩
def SEC_TOKSTAT.KIND : Fld := ⟨0x20070034, 0, 8, 0⟩
def SEC_CHAL.WORD (i : Nat) : Fld := ⟨0x20070040 + 0x4 * (i % 4), 0, 32, 0⟩
def SEC_MONO.VALUE (i : Nat) : Fld := ⟨0x20070050 + 0x4 * (i % 4), 0, 32, 0⟩
def SEC_DPUB.WORD (i : Nat) : Fld := ⟨0x20070080 + 0x4 * (i % 24), 0, 32, 0⟩
def SEC_MR.WORD (i : Nat) (j : Nat) : Fld := ⟨0x20070100 + 0x40 * (i % 8) + 0x4 * (j % 12), 0, 32, 0⟩
def HTHM_THR.SHUTDOWN : Fld := ⟨0x20080000, 16, 8, 0x78⟩
def HTHM_THR.THROTTLE : Fld := ⟨0x20080000, 8, 8, 0x6E⟩
def HTHM_THR.WARN : Fld := ⟨0x20080000, 0, 8, 0x64⟩
def HTHM_HYST.HSHUT : Fld := ⟨0x20080004, 16, 8, 5⟩
def HTHM_HYST.HTHR : Fld := ⟨0x20080004, 8, 8, 5⟩
def HTHM_HYST.HWARN : Fld := ⟨0x20080004, 0, 8, 5⟩
def HTHM_CFG.MODE : Fld := ⟨0x20080008, 6, 2, 1⟩
def HTHM_CFG.DIV : Fld := ⟨0x20080008, 4, 2, 0⟩
def HTHM_CFG.SKIP : Fld := ⟨0x20080008, 0, 4, 1⟩
def HTHM_STAT.HOT : Fld := ⟨0x2008000C, 16, 4, 0⟩
def HTHM_STAT.ORDERR : Fld := ⟨0x2008000C, 6, 1, 0⟩
def HTHM_STAT.SENSFLT : Fld := ⟨0x2008000C, 5, 1, 0⟩
def HTHM_STAT.SHUTNOW : Fld := ⟨0x2008000C, 4, 1, 0⟩
def HTHM_STAT.SHUT : Fld := ⟨0x2008000C, 2, 2, 0⟩
def HTHM_STAT.THROTTLE : Fld := ⟨0x2008000C, 1, 1, 0⟩
def HTHM_STAT.WARN : Fld := ⟨0x2008000C, 0, 1, 0⟩
def HTHM_PEAK.SENSOR : Fld := ⟨0x20080010, 16, 4, 0⟩
def HTHM_PEAK.PEAK : Fld := ⟨0x20080010, 0, 16, 0x8000⟩
def HTHM_SHUTREC.VALID : Fld := ⟨0x20080014, 31, 1, 0⟩
def HTHM_SHUTREC.CLR : Fld := ⟨0x20080014, 30, 1, 0⟩
def HTHM_SHUTREC.SENSOR : Fld := ⟨0x20080014, 16, 4, 0⟩
def HTHM_SHUTREC.PEAK : Fld := ⟨0x20080014, 0, 16, 0⟩
def HTHM_TEMP.FAULT (i : Nat) : Fld := ⟨0x20080100 + 0x4 * (i % 8), 31, 1, 0⟩
def HTHM_TEMP.T (i : Nat) : Fld := ⟨0x20080100 + 0x4 * (i % 8), 0, 16, 0⟩
def HDIA_INJCTL.GO : Fld := ⟨0x20090000, 31, 1, 0⟩
def HDIA_INJCTL.STOP : Fld := ⟨0x20090000, 30, 1, 0⟩
def HDIA_INJCTL.RESULT : Fld := ⟨0x20090000, 28, 2, 0⟩
def HDIA_INJCTL.CODE : Fld := ⟨0x20090000, 24, 4, 0⟩
def HDIA_INJCTL.INST : Fld := ⟨0x20090000, 8, 8, 0⟩
def HDIA_INJCTL.POINT : Fld := ⟨0x20090000, 0, 8, 0⟩
def HDIA_INJPAR.PAR : Fld := ⟨0x20090004, 0, 32, 0⟩
def HDIA_INJSTAT.COUNT : Fld := ⟨0x20090008, 16, 16, 0⟩
def HDIA_INJSTAT.TOKEN : Fld := ⟨0x20090008, 8, 1, 0⟩
def HDIA_INJSTAT.ACTIVE : Fld := ⟨0x20090008, 0, 4, 0⟩
def HDIA_JCFG.QUIET : Fld := ⟨0x20090010, 16, 16, 0x64⟩
def HDIA_JSTAT.HELD : Fld := ⟨0x20090014, 8, 8, 0⟩
def HDIA_JSTAT.STALL : Fld := ⟨0x20090014, 1, 1, 0⟩
def HDIA_JSTAT.FLOOD : Fld := ⟨0x20090014, 0, 1, 0⟩
def HDIA_JSEQ.SEQ : Fld := ⟨0x20090018, 0, 32, 0⟩
def HDIA_JCNT.HELD : Fld := ⟨0x2009001C, 16, 16, 0⟩
def HDIA_JCNT.FLOODS : Fld := ⟨0x2009001C, 0, 16, 0⟩
def HDIA_ASHSTAT.LOST : Fld := ⟨0x20090020, 16, 8, 0⟩
def HDIA_ASHSTAT.CAUSE : Fld := ⟨0x20090020, 8, 8, 0⟩
def HDIA_ASHSTAT.STATE : Fld := ⟨0x20090020, 0, 3, 0⟩
def HDIA_ASHCTL.SNAP : Fld := ⟨0x20090024, 1, 1, 0⟩
def HDIA_ASHCTL.EXPORTED : Fld := ⟨0x20090024, 0, 1, 0⟩
def HDIA_HELD.SRC (i : Nat) : Fld := ⟨0x20090040 + 0x4 * (i % 4), 0, 32, 0⟩
def HDIA_FLOOD.SRC (i : Nat) : Fld := ⟨0x20090050 + 0x4 * (i % 4), 0, 32, 0⟩
def HPER_CTL.STATUS (i : Nat) : Fld := ⟨0x200A0000 + 0x1000 * (i % 10), 4, 2, 0⟩
def HPER_CTL.EN (i : Nat) : Fld := ⟨0x200A0000 + 0x1000 * (i % 10), 0, 1, 0⟩
def HPER_CFG.FRAME (i : Nat) : Fld := ⟨0x200A0004 + 0x1000 * (i % 10), 24, 8, 0⟩
def HPER_CFG.RATE (i : Nat) : Fld := ⟨0x200A0004 + 0x1000 * (i % 10), 0, 20, 0⟩
def HPER_DMASEL.RING (i : Nat) : Fld := ⟨0x200A0008 + 0x1000 * (i % 10), 0, 8, 0xFF⟩
def HPER_STAT.ERROR (i : Nat) : Fld := ⟨0x200A000C + 0x1000 * (i % 10), 3, 1, 0⟩
def HPER_STAT.OVERRUN (i : Nat) : Fld := ⟨0x200A000C + 0x1000 * (i % 10), 2, 1, 0⟩
def HPER_STAT.DONE (i : Nat) : Fld := ⟨0x200A000C + 0x1000 * (i % 10), 1, 1, 0⟩
def HPER_STAT.FIFO (i : Nat) : Fld := ⟨0x200A000C + 0x1000 * (i % 10), 0, 1, 0⟩
def HPER_DATA.DATA (i : Nat) : Fld := ⟨0x200A0010 + 0x1000 * (i % 10), 0, 32, 0⟩
def HPER_DIR.OUT : Fld := ⟨0x200A9014, 0, 32, 0⟩
def HPER_EVT.EN : Fld := ⟨0x200A9018, 0, 32, 0⟩
def HMEM_ECC.UNCORR : Fld := ⟨0x200B0000, 24, 8, 0⟩
def HMEM_ECC.CORR : Fld := ⟨0x200B0000, 0, 16, 0⟩
def HMEM_ECCADDR.ADDR : Fld := ⟨0x200B0004, 0, 32, 0⟩
def HMEM_SCRUB.HOURS : Fld := ⟨0x200B0008, 0, 8, 0x18⟩
def HMEM_PROT.LOCK : Fld := ⟨0x200B000C, 0, 1, 1⟩
def HMEM_STAT.RETAINED : Fld := ⟨0x200B0010, 1, 1, 0⟩
def HMEM_STAT.TRAINED : Fld := ⟨0x200B0010, 0, 1, 0⟩

end Sys2Proof.Machine.R

namespace Sys2Proof.Machine

/-- Registers of block index 0x0 (Table 22-1). -/
def regBlock0 : List RegDesc := [
  ⟨"FSYS_ID", 0x00000000, [], [⟨16, 16, .ro, 18448, 0, 65535⟩, ⟨8, 8, .ro, 11, 0, 255⟩, ⟨0, 8, .ro, 0, 0, 255⟩]⟩,
  ⟨"FSYS_VARIANT", 0x00000004, [], [⟨0, 2, .ro, 1, 0, 3⟩]⟩,
  ⟨"FSYS_MODE", 0x00000010, [], [⟨18, 1, .ro, 0, 0, 1⟩, ⟨17, 1, .ro, 0, 0, 1⟩, ⟨16, 1, .ro, 0, 0, 1⟩, ⟨8, 8, .ro, 1, 0, 255⟩, ⟨4, 4, .ro, 0, 0, 15⟩, ⟨0, 4, .ro, 1, 0, 15⟩]⟩,
  ⟨"FSYS_MODEREQ", 0x00000014, [], [⟨24, 2, .ro, 0, 0, 3⟩, ⟨8, 1, .rw, 0, 0, 1⟩, ⟨0, 4, .rw, 0, 0, 15⟩]⟩,
  ⟨"FSYS_RSTCAUSE", 0x00000018, [], [⟨8, 1, .w1c, 0, 0, 1⟩, ⟨7, 1, .w1c, 0, 0, 1⟩, ⟨6, 1, .w1c, 0, 0, 1⟩, ⟨5, 1, .w1c, 0, 0, 1⟩, ⟨4, 1, .w1c, 0, 0, 1⟩, ⟨3, 1, .w1c, 0, 0, 1⟩, ⟨2, 1, .w1c, 0, 0, 1⟩, ⟨1, 1, .w1c, 0, 0, 1⟩, ⟨0, 1, .w1c, 1, 0, 1⟩]⟩,
  ⟨"FSYS_SWRST", 0x0000001C, [], [⟨16, 16, .wo, 0, 0, 65535⟩, ⟨0, 2, .wo, 0, 0, 3⟩]⟩,
  ⟨"FSYS_WDT", 0x00000020, [], [⟨16, 16, .wo, 0, 0, 65535⟩, ⟨0, 10, .rw, 1000, 1, 1000⟩]⟩,
  ⟨"FSYS_PWRSTAT", 0x00000024, [], [⟨6, 1, .ro, 0, 0, 1⟩, ⟨5, 1, .ro, 0, 0, 1⟩, ⟨0, 5, .ro, 3, 0, 31⟩]⟩,
  ⟨"FSYS_BOOTCFG", 0x00000028, [], [⟨0, 1, .rw, 0, 0, 1⟩]⟩,
  ⟨"FSYS_QUENCH", 0x0000002C, [], [⟨0, 12, .rws, 500, 0, 4095⟩]⟩,
  ⟨"FSYS_BADADDR", 0x00000030, [], [⟨31, 1, .rc, 0, 0, 1⟩, ⟨30, 1, .rc, 0, 0, 1⟩, ⟨26, 4, .rc, 0, 0, 15⟩, ⟨0, 26, .rc, 0, 0, 67108863⟩]⟩]

/-- Registers of block index 0x1 (Table 22-1). -/
def regBlock1 : List RegDesc := [
  ⟨"FFLU_LINK", 0x00010000, [], [⟨8, 8, .ro, 0, 0, 255⟩, ⟨3, 1, .ro, 0, 0, 1⟩, ⟨2, 1, .ro, 0, 0, 1⟩, ⟨1, 1, .ro, 0, 0, 1⟩, ⟨0, 1, .ro, 0, 0, 1⟩]⟩,
  ⟨"FFLU_HBCFG", 0x00010004, [], [⟨16, 9, .rw, 30, 1, 300⟩, ⟨0, 10, .rw, 200, 50, 1000⟩]⟩,
  ⟨"FFLU_HBSTAT", 0x00010008, [], [⟨16, 9, .ro, 0, 0, 511⟩, ⟨0, 16, .ro, 0, 0, 65535⟩]⟩,
  ⟨"FFLU_ERR", 0x0001000C, [], [⟨26, 6, .rc, 0, 0, 63⟩, ⟨20, 6, .rc, 0, 0, 63⟩, ⟨12, 8, .rc, 0, 0, 255⟩, ⟨0, 12, .rc, 0, 0, 4095⟩]⟩,
  ⟨"FFLU_REFUSE", 0x00010010, [], [⟨16, 8, .rc, 0, 0, 255⟩, ⟨0, 16, .rc, 0, 0, 65535⟩]⟩,
  ⟨"FFLU_BULKWT", 0x00010014, [], [⟨16, 4, .rw, 2, 1, 15⟩, ⟨12, 4, .rw, 1, 0, 15⟩, ⟨8, 4, .rw, 2, 0, 15⟩, ⟨4, 4, .rw, 10, 0, 15⟩, ⟨0, 4, .rw, 1, 0, 15⟩]⟩,
  ⟨"FFLU_CREDIT", 0x00010018, [], [⟨0, 4, .ro, 0, 0, 15⟩, ⟨4, 4, .ro, 0, 0, 15⟩, ⟨8, 4, .ro, 0, 0, 15⟩, ⟨12, 4, .ro, 0, 0, 15⟩, ⟨16, 4, .ro, 0, 0, 15⟩, ⟨20, 4, .ro, 0, 0, 15⟩, ⟨24, 4, .ro, 0, 0, 15⟩, ⟨28, 4, .ro, 0, 0, 15⟩]⟩]

/-- Registers of block index 0x2 (Table 22-1). -/
def regBlock2 : List RegDesc := [
  ⟨"STS_LOADSTAT", 0x00020000, [], [⟨24, 8, .ro, 255, 0, 255⟩, ⟨16, 8, .ro, 0, 0, 255⟩, ⟨0, 4, .ro, 0, 0, 15⟩]⟩,
  ⟨"STS_BANK", 0x00020004, [], [⟨4, 1, .ro, 0, 0, 1⟩, ⟨1, 1, .ro, 0, 0, 1⟩, ⟨0, 1, .ro, 0, 0, 1⟩]⟩,
  ⟨"STS_ACTID", 0x00020008, [], [⟨0, 32, .ro, 0, 0, 4294967295⟩]⟩,
  ⟨"STS_STBID", 0x0002000C, [], [⟨0, 32, .ro, 0, 0, 4294967295⟩]⟩,
  ⟨"STS_ACTSVN", 0x00020010, [], [⟨0, 32, .ro, 0, 0, 4294967295⟩]⟩,
  ⟨"STS_MINSVN", 0x00020014, [], [⟨0, 32, .ro, 0, 0, 4294967295⟩]⟩,
  ⟨"STS_SWAPAT_LO", 0x00020018, [], [⟨0, 32, .rw, 0, 0, 4294967295⟩]⟩,
  ⟨"STS_SWAPAT_HI", 0x0002001C, [], [⟨0, 32, .rw, 0, 0, 4294967295⟩]⟩,
  ⟨"STS_SWAPCTL", 0x00020020, [], [⟨1, 1, .wo, 0, 0, 1⟩, ⟨0, 1, .wo, 0, 0, 1⟩]⟩,
  ⟨"STS_SWAPSTAT", 0x00020024, [], [⟨16, 8, .ro, 0, 0, 255⟩, ⟨8, 8, .ro, 0, 0, 255⟩, ⟨0, 4, .ro, 0, 0, 15⟩]⟩,
  ⟨"STS_PERSIST", 0x00020028, [], [⟨16, 16, .wo, 0, 0, 65535⟩, ⟨8, 8, .ro, 0, 0, 255⟩, ⟨0, 2, .ro, 0, 0, 3⟩]⟩,
  ⟨"STS_BOOTGEN", 0x0002002C, [], [⟨0, 32, .ro, 0, 0, 4294967295⟩]⟩,
  ⟨"STS_TGTCLAMP", 0x00020030, [], [⟨16, 16, .rc, 0, 0, 65535⟩, ⟨0, 16, .rc, 0, 0, 65535⟩]⟩,
  ⟨"STS_ACTDIG", 0x00020040, [(12, 0x4)], [⟨0, 32, .ro, 0, 0, 4294967295⟩]⟩]

/-- Registers of block index 0x3 (Table 22-1). -/
def regBlock3 : List RegDesc := [
  ⟨"STC_CFG", 0x00030000, [], [⟨24, 6, .rw, 8, 1, 63⟩, ⟨16, 8, .rw, 50, 1, 50⟩, ⟨8, 2, .rw, 0, 0, 3⟩, ⟨3, 1, .rw, 1, 0, 1⟩, ⟨2, 1, .rw, 0, 0, 1⟩, ⟨1, 1, .rw, 0, 0, 1⟩, ⟨0, 1, .rw, 0, 0, 1⟩]⟩,
  ⟨"STC_STAT", 0x00030004, [], [⟨11, 1, .ro, 0, 0, 1⟩, ⟨10, 1, .ro, 0, 0, 1⟩, ⟨9, 1, .ro, 0, 0, 1⟩, ⟨8, 1, .ro, 0, 0, 1⟩, ⟨7, 1, .ro, 0, 0, 1⟩, ⟨4, 3, .ro, 0, 0, 7⟩, ⟨0, 3, .ro, 0, 0, 7⟩]⟩,
  ⟨"STC_NOW_LO", 0x00030008, [], [⟨0, 32, .ro, 0, 0, 4294967295⟩]⟩,
  ⟨"STC_NOW_HI", 0x0003000C, [], [⟨0, 32, .ro, 0, 0, 4294967295⟩]⟩,
  ⟨"STC_NOW_FR", 0x00030010, [], [⟨0, 32, .ro, 0, 0, 4294967295⟩]⟩,
  ⟨"STC_PHERR", 0x00030014, [], [⟨0, 32, .ro, 0, 0, 4294967295⟩]⟩,
  ⟨"STC_RATE", 0x00030018, [], [⟨0, 32, .ro, 0, 0, 4294967295⟩]⟩,
  ⟨"STC_FREQ", 0x0003001C, [], [⟨0, 32, .ro, 0, 0, 4294967295⟩]⟩,
  ⟨"STC_ESTERR", 0x00030020, [], [⟨0, 32, .ro, 4294967295, 0, 4294967295⟩]⟩,
  ⟨"STC_PPSCFG", 0x00030024, [], [⟨16, 16, .rw, 0, 0, 65535⟩, ⟨0, 10, .rw, 100, 1, 1000⟩]⟩,
  ⟨"STC_PPSOUT", 0x00030028, [], [⟨16, 2, .rw, 2, 0, 3⟩, ⟨0, 9, .rw, 100, 1, 500⟩]⟩,
  ⟨"STC_PTPCFG", 0x0003002C, [], [⟨0, 8, .rw, 0, 0, 255⟩]⟩,
  ⟨"STC_PTPOFS", 0x00030030, [(2, 0x4)], [⟨0, 32, .wo, 0, 0, 4294967295⟩]⟩,
  ⟨"STC_SETSEC_LO", 0x00030038, [], [⟨0, 32, .rw, 0, 0, 4294967295⟩]⟩,
  ⟨"STC_SETSEC_HI", 0x0003003C, [], [⟨31, 1, .wo, 0, 0, 1⟩, ⟨0, 16, .rw, 0, 0, 65535⟩]⟩,
  ⟨"STC_UTCOFS", 0x00030040, [], [⟨16, 1, .ro, 0, 0, 1⟩, ⟨0, 16, .rw, 37, 0, 65535⟩]⟩,
  ⟨"STC_HOLDCFG", 0x00030044, [], [⟨16, 16, .rw, 2000, 1, 65535⟩, ⟨0, 10, .rw, 20, 1, 1000⟩]⟩,
  ⟨"STC_CNT", 0x00030048, [], [⟨24, 8, .rc, 0, 0, 255⟩, ⟨16, 8, .rc, 0, 0, 255⟩, ⟨8, 8, .rc, 0, 0, 255⟩, ⟨0, 8, .rc, 0, 0, 255⟩]⟩]

/-- Registers of block index 0x4 (Table 22-1). -/
def regBlock4 : List RegDesc := [
  ⟨"CEN_STAT", 0x00040000, [], [⟨9, 1, .ro, 0, 0, 1⟩, ⟨8, 1, .ro, 0, 0, 1⟩, ⟨0, 2, .ro, 0, 0, 3⟩]⟩,
  ⟨"CEN_TICK_LO", 0x00040004, [], [⟨0, 32, .ro, 0, 0, 4294967295⟩]⟩,
  ⟨"CEN_TICK_HI", 0x00040008, [], [⟨0, 32, .ro, 0, 0, 4294967295⟩]⟩,
  ⟨"CEN_TIMING", 0x0004000C, [], [⟨16, 16, .ro, 0, 0, 65535⟩, ⟨0, 16, .ro, 0, 0, 65535⟩]⟩,
  ⟨"CEN_BUDGET", 0x00040010, [], [⟨16, 16, .ro, 0, 0, 65535⟩, ⟨0, 16, .ro, 0, 0, 65535⟩]⟩,
  ⟨"CEN_DECL", 0x00040014, [], [⟨0, 32, .ro, 0, 0, 4294967295⟩]⟩,
  ⟨"CEN_SRPERIOD", 0x00040018, [], [⟨0, 21, .ro, 1, 0, 2097151⟩]⟩,
  ⟨"CEN_SATTOT", 0x0004001C, [], [⟨0, 32, .rc, 0, 0, 4294967295⟩]⟩,
  ⟨"CEN_SATLAST", 0x00040020, [], [⟨31, 1, .ro, 0, 0, 1⟩, ⟨0, 10, .ro, 0, 0, 1023⟩]⟩,
  ⟨"CEN_SATSEL", 0x00040024, [], [⟨0, 10, .rw, 0, 0, 1023⟩]⟩,
  ⟨"CEN_SATVAL", 0x00040028, [], [⟨0, 16, .rc, 0, 0, 65535⟩]⟩,
  ⟨"CEN_ECC", 0x0004002C, [], [⟨24, 8, .rc, 0, 0, 255⟩, ⟨0, 16, .rc, 0, 0, 65535⟩]⟩,
  ⟨"CEN_ECCADDR", 0x00040030, [], [⟨31, 1, .ro, 0, 0, 1⟩, ⟨0, 25, .ro, 0, 0, 33554431⟩]⟩,
  ⟨"CEN_DBG", 0x00040034, [], [⟨1, 1, .wo, 0, 0, 1⟩, ⟨0, 1, .rw, 0, 0, 1⟩]⟩]

/-- Registers of block index 0x5 (Table 22-1). -/
def regBlock5 : List RegDesc := [
  ⟨"LAW_BLK", 0x00050000, [(8, 0x10)], [⟨22, 10, .ro, 0, 0, 1023⟩, ⟨14, 8, .ro, 0, 0, 255⟩, ⟨6, 8, .ro, 0, 0, 255⟩, ⟨0, 2, .ro, 0, 0, 3⟩]⟩,
  ⟨"LAW_MAN", 0x00050004, [(8, 0x10)], [⟨16, 16, .ro, 0, 0, 65535⟩, ⟨1, 1, .ro, 0, 0, 1⟩, ⟨0, 1, .rw, 0, 0, 1⟩]⟩,
  ⟨"LAW_BQSAT", 0x00050100, [], [⟨16, 16, .ro, 0, 0, 65535⟩, ⟨0, 16, .rc, 0, 0, 65535⟩]⟩,
  ⟨"LAW_BQSEL", 0x00050104, [], [⟨0, 9, .rw, 0, 0, 511⟩]⟩,
  ⟨"LAW_BQS1", 0x00050108, [], [⟨0, 32, .ro, 0, 0, 4294967295⟩]⟩,
  ⟨"LAW_BQS2", 0x0005010C, [], [⟨0, 32, .ro, 0, 0, 4294967295⟩]⟩,
  ⟨"LAW_SLEWRATE", 0x00050400, [(64, 0x10)], [⟨0, 31, .rw, 0, 0, 2147483647⟩]⟩,
  ⟨"LAW_SLEWJERK", 0x00050404, [(64, 0x10)], [⟨0, 31, .rw, 0, 0, 2147483647⟩]⟩,
  ⟨"LAW_SLEWTGT", 0x00050408, [(64, 0x10)], [⟨0, 32, .ro, 0, 0, 4294967295⟩]⟩,
  ⟨"LAW_SLEWSTAT", 0x0005040C, [(64, 0x10)], [⟨0, 32, .ro, 0, 0, 4294967295⟩]⟩,
  ⟨"LAW_FERRLIM", 0x00050800, [(16, 0x10)], [⟨0, 32, .rw, 0, 0, 4294967295⟩]⟩,
  ⟨"LAW_FERRTMR", 0x00050804, [(16, 0x10)], [⟨0, 16, .rw, 1, 1, 65535⟩]⟩,
  ⟨"LAW_FERRSTAT", 0x00050808, [(16, 0x10)], [⟨16, 16, .ro, 0, 0, 65535⟩, ⟨4, 3, .ro, 0, 0, 7⟩, ⟨3, 1, .ro, 0, 0, 1⟩, ⟨0, 2, .ro, 0, 0, 3⟩]⟩,
  ⟨"LAW_FERRPEAK", 0x0005080C, [(16, 0x10)], [⟨0, 32, .rc, 0, 0, 4294967295⟩]⟩,
  ⟨"LAW_AXCFG", 0x00050C00, [(4, 0x40)], [⟨31, 1, .rws, 0, 0, 1⟩, ⟨30, 1, .rws, 0, 0, 1⟩, ⟨24, 3, .rws, 0, 0, 7⟩, ⟨16, 8, .rws, 0, 0, 255⟩, ⟨8, 8, .rws, 1, 1, 255⟩, ⟨0, 8, .rws, 1, 0, 255⟩]⟩,
  ⟨"LAW_AXCPR", 0x00050C04, [(4, 0x40)], [⟨0, 21, .rws, 4096, 4, 1048576⟩]⟩,
  ⟨"LAW_AXSTOP", 0x00050C08, [(4, 0x40)], [⟨26, 6, .rws, 0, 0, 63⟩, ⟨16, 10, .rws, 100, 1, 1000⟩, ⟨0, 16, .rws, 0, 0, 65535⟩]⟩,
  ⟨"LAW_AXCTL", 0x00050C0C, [(4, 0x40)], [⟨1, 1, .wo, 0, 0, 1⟩, ⟨0, 1, .rw, 0, 0, 1⟩]⟩,
  ⟨"LAW_AXSTAT", 0x00050C10, [(4, 0x40)], [⟨4, 3, .ro, 0, 0, 7⟩, ⟨3, 1, .ro, 0, 0, 1⟩, ⟨0, 2, .ro, 0, 0, 3⟩]⟩,
  ⟨"LAW_AXCNT", 0x00050C14, [(4, 0x40)], [⟨0, 32, .ro, 0, 0, 4294967295⟩]⟩,
  ⟨"LAW_AXZPOS", 0x00050C18, [(4, 0x40)], [⟨0, 32, .ro, 0, 0, 4294967295⟩]⟩,
  ⟨"LAW_AXERR", 0x00050C1C, [(4, 0x40)], [⟨8, 8, .rc, 0, 0, 255⟩, ⟨0, 8, .rc, 0, 0, 255⟩]⟩]

/-- Registers of block index 0x6 (Table 22-1). -/
def regBlock6 : List RegDesc := [
  ⟨"DGR_CTL", 0x00060000, [], [⟨0, 1, .rws, 1, 0, 1⟩]⟩,
  ⟨"DGR_SHED", 0x00060004, [], [⟨8, 1, .ro, 0, 0, 1⟩, ⟨0, 1, .rw, 0, 0, 1⟩]⟩,
  ⟨"DGR_IMBCFG", 0x00060008, [], [⟨16, 16, .rw, 16, 0, 65535⟩, ⟨0, 16, .rw, 200, 0, 65535⟩]⟩,
  ⟨"DGR_CAP", 0x00060010, [(4, 0x4)], [⟨0, 16, .ro, 65535, 0, 65535⟩]⟩,
  ⟨"DGR_CNT", 0x00060020, [], [⟨24, 8, .rc, 0, 0, 255⟩, ⟨16, 8, .rc, 0, 0, 255⟩, ⟨0, 16, .rc, 0, 0, 65535⟩]⟩,
  ⟨"DGR_BLKSTAT", 0x00060100, [(8, 0x20)], [⟨16, 16, .ro, 0, 0, 65535⟩, ⟨11, 5, .ro, 0, 0, 31⟩, ⟨10, 1, .ro, 0, 0, 1⟩, ⟨9, 1, .ro, 0, 0, 1⟩, ⟨8, 1, .ro, 0, 0, 1⟩, ⟨0, 8, .ro, 255, 0, 255⟩]⟩,
  ⟨"DGR_VARREQ", 0x00060104, [(8, 0x20)], [⟨16, 16, .rw, 0, 0, 65535⟩, ⟨8, 3, .ro, 0, 0, 7⟩, ⟨4, 2, .ro, 0, 0, 3⟩, ⟨0, 1, .wo, 0, 0, 1⟩]⟩,
  ⟨"DGR_LOST", 0x00060108, [(8, 0x20)], [⟨0, 12, .w1c, 0, 0, 4095⟩]⟩,
  ⟨"DGR_WIN", 0x0006010C, [(8, 0x20)], [⟨24, 8, .ro, 0, 0, 255⟩, ⟨16, 8, .ro, 0, 0, 255⟩, ⟨8, 8, .ro, 0, 0, 255⟩, ⟨0, 8, .ro, 0, 0, 255⟩]⟩,
  ⟨"DGR_LASTCLS", 0x00060110, [(8, 0x20)], [⟨24, 8, .ro, 0, 0, 255⟩, ⟨16, 8, .ro, 0, 0, 255⟩, ⟨8, 8, .ro, 0, 0, 255⟩, ⟨0, 3, .ro, 0, 0, 7⟩]⟩,
  ⟨"DGR_SHEDSTAT", 0x00060114, [(8, 0x20)], [⟨16, 8, .ro, 0, 0, 255⟩, ⟨8, 8, .ro, 0, 0, 255⟩, ⟨0, 8, .ro, 0, 0, 255⟩]⟩,
  ⟨"DGR_DETSTAT", 0x00061000, [(192, 0x10)], [⟨24, 8, .ro, 0, 0, 255⟩, ⟨8, 8, .ro, 0, 0, 255⟩, ⟨0, 2, .ro, 0, 0, 3⟩]⟩,
  ⟨"DGR_DETTHR", 0x00061004, [(192, 0x10)], [⟨0, 32, .rw, 0, 0, 4294967295⟩]⟩,
  ⟨"DGR_DETPEAK", 0x00061008, [(192, 0x10)], [⟨0, 32, .rc, 0, 0, 4294967295⟩]⟩,
  ⟨"DGR_IMBAVG", 0x00062000, [(20, 0x10)], [⟨16, 1, .ro, 0, 0, 1⟩, ⟨0, 16, .ro, 0, 0, 65535⟩]⟩,
  ⟨"DGR_IMBPEAK", 0x00062004, [(20, 0x10)], [⟨0, 16, .rc, 0, 0, 65535⟩]⟩]

/-- Registers of block index 0x10 (Table 22-1). -/
def regBlock10 : List RegDesc := [
  ⟨"PWM_LEGCFG", 0x00100000, [(20, 0x400), (4, 0x80)], [⟨31, 1, .rws, 0, 0, 1⟩, ⟨30, 1, .rws, 0, 0, 1⟩, ⟨28, 2, .rws, 0, 0, 3⟩, ⟨24, 1, .rws, 0, 0, 1⟩, ⟨16, 8, .rws, 255, 0, 255⟩]⟩,
  ⟨"PWM_DTR", 0x00100004, [(20, 0x400), (4, 0x80)], [⟨0, 17, .rws, 0, 0, 131071⟩]⟩,
  ⟨"PWM_DTF", 0x00100008, [(20, 0x400), (4, 0x80)], [⟨0, 17, .rws, 0, 0, 131071⟩]⟩,
  ⟨"PWM_TMIN", 0x0010000C, [(20, 0x400), (4, 0x80)], [⟨0, 16, .rws, 128, 0, 65535⟩]⟩,
  ⟨"PWM_LOFS", 0x00100010, [(20, 0x400), (4, 0x80)], [⟨0, 16, .rws, 0, 0, 65535⟩]⟩,
  ⟨"PWM_SHADOW", 0x00100014, [(20, 0x400), (4, 0x80)], [⟨0, 32, .ro, 0, 0, 4294967295⟩]⟩,
  ⟨"PWM_ACTIVE", 0x00100018, [(20, 0x400), (4, 0x80)], [⟨0, 32, .ro, 0, 0, 4294967295⟩]⟩,
  ⟨"PWM_FORCE", 0x0010001C, [(20, 0x400), (4, 0x80)], [⟨2, 2, .rw, 0, 0, 3⟩, ⟨0, 2, .rw, 0, 0, 3⟩]⟩,
  ⟨"PWM_REALA", 0x00100020, [(20, 0x400), (4, 0x80)], [⟨0, 22, .ro, 0, 0, 4194303⟩]⟩,
  ⟨"PWM_REALB", 0x00100024, [(20, 0x400), (4, 0x80)], [⟨0, 22, .ro, 0, 0, 4194303⟩]⟩,
  ⟨"PWM_CARRY", 0x00100028, [(20, 0x400), (4, 0x80)], [⟨0, 32, .ro, 0, 0, 4294967295⟩]⟩,
  ⟨"PWM_LEGSTAT", 0x0010002C, [(20, 0x400), (4, 0x80)], [⟨11, 1, .ro, 0, 0, 1⟩, ⟨10, 1, .ro, 0, 0, 1⟩, ⟨9, 1, .ro, 0, 0, 1⟩, ⟨8, 1, .ro, 0, 0, 1⟩, ⟨3, 1, .ro, 0, 0, 1⟩, ⟨0, 3, .ro, 0, 0, 7⟩]⟩,
  ⟨"PWM_LEGCNT", 0x00100030, [(20, 0x400), (4, 0x80)], [⟨16, 16, .rc, 0, 0, 65535⟩, ⟨0, 16, .rc, 0, 0, 65535⟩]⟩,
  ⟨"PWM_GRPCFG", 0x00100200, [(20, 0x400)], [⟨31, 1, .rws, 0, 0, 1⟩, ⟨0, 1, .rws, 0, 0, 1⟩]⟩,
  ⟨"PWM_PER", 0x00100204, [(20, 0x400)], [⟨0, 16, .rws, 0, 0, 65535⟩]⟩,
  ⟨"PWM_GOFS", 0x00100208, [(20, 0x400)], [⟨0, 16, .rws, 0, 0, 65535⟩]⟩,
  ⟨"PWM_GRPDIV", 0x0010020C, [(20, 0x400)], [⟨0, 3, .rw, 1, 1, 7⟩]⟩,
  ⟨"PWM_GRPSTAT", 0x00100210, [(20, 0x400)], [⟨16, 16, .ro, 0, 0, 65535⟩, ⟨8, 3, .ro, 1, 0, 7⟩, ⟨4, 1, .ro, 0, 0, 1⟩, ⟨3, 1, .ro, 0, 0, 1⟩]⟩,
  ⟨"PWM_TRGCFG", 0x00100240, [(20, 0x400), (4, 0x10)], [⟨8, 3, .rws, 0, 0, 7⟩, ⟨2, 3, .rws, 0, 0, 7⟩, ⟨0, 1, .rws, 0, 0, 1⟩]⟩,
  ⟨"PWM_TRGPOS", 0x00100244, [(20, 0x400), (4, 0x10)], [⟨0, 32, .rw, 0, 0, 4294967295⟩]⟩,
  ⟨"PWM_TRGSTAMP", 0x00100248, [(20, 0x400), (4, 0x10)], [⟨0, 32, .ro, 0, 0, 4294967295⟩]⟩,
  ⟨"PWM_STAT", 0x00108000, [], [⟨1, 1, .ro, 0, 0, 1⟩, ⟨0, 1, .ro, 0, 0, 1⟩]⟩,
  ⟨"PWM_SYNCCFG", 0x00108004, [], [⟨31, 1, .rw, 0, 0, 1⟩, ⟨24, 5, .rw, 0, 0, 31⟩, ⟨8, 12, .rw, 3840, 0, 3840⟩, ⟨0, 8, .rw, 16, 1, 255⟩]⟩,
  ⟨"PWM_SYNCPH", 0x00108008, [], [⟨0, 22, .rw, 0, 0, 4194303⟩]⟩,
  ⟨"PWM_SYNCSTAT", 0x0010800C, [], [⟨16, 16, .ro, 0, 0, 65535⟩, ⟨0, 2, .ro, 0, 0, 3⟩]⟩,
  ⟨"PWM_SYNCERR", 0x00108010, [], [⟨0, 32, .ro, 0, 0, 4294967295⟩]⟩,
  ⟨"PWM_CNT", 0x00108014, [], [⟨16, 16, .rc, 0, 0, 65535⟩, ⟨0, 16, .rc, 0, 0, 65535⟩]⟩]

/-- Registers of block index 0x11 (Table 22-1). -/
def regBlock11 : List RegDesc := [
  ⟨"TRP_RAW", 0x00110000, [(3, 0x4)], [⟨0, 32, .ro, 0, 0, 4294967295⟩]⟩,
  ⟨"TRP_STAT", 0x00110010, [(3, 0x4)], [⟨0, 32, .ro, 0, 0, 4294967295⟩]⟩,
  ⟨"TRP_CLR", 0x00110020, [(3, 0x4)], [⟨0, 32, .wo, 0, 0, 4294967295⟩]⟩,
  ⟨"TRP_LEGSAFE", 0x00110030, [(3, 0x4)], [⟨0, 32, .ro, 0, 0, 4294967295⟩]⟩,
  ⟨"TRP_CFG", 0x00110040, [], [⟨0, 16, .rw, 100, 1, 65535⟩]⟩,
  ⟨"TRP_SWSTAT", 0x00110044, [], [⟨31, 1, .ro, 0, 0, 1⟩, ⟨24, 4, .ro, 0, 0, 15⟩, ⟨0, 20, .ro, 0, 0, 1048575⟩]⟩,
  ⟨"TRP_SWCLR", 0x00110048, [], [⟨31, 1, .wo, 0, 0, 1⟩, ⟨24, 4, .wo, 0, 0, 15⟩, ⟨0, 20, .wo, 0, 0, 1048575⟩]⟩,
  ⟨"TRP_REFUSE", 0x0011004C, [], [⟨24, 8, .rc, 0, 0, 255⟩, ⟨0, 16, .rc, 0, 0, 65535⟩]⟩,
  ⟨"TRP_GLITCH", 0x00110050, [], [⟨24, 8, .rc, 0, 0, 255⟩, ⟨0, 16, .rc, 0, 0, 65535⟩]⟩,
  ⟨"TRP_FIRST", 0x00110054, [], [⟨31, 1, .ro, 0, 0, 1⟩, ⟨0, 7, .ro, 0, 0, 127⟩]⟩,
  ⟨"TRP_FIRSTT_LO", 0x00110058, [], [⟨0, 32, .ro, 0, 0, 4294967295⟩]⟩,
  ⟨"TRP_FIRSTT_HI", 0x0011005C, [], [⟨0, 32, .ro, 0, 0, 4294967295⟩]⟩]

/-- Registers of block index 0x12 (Table 22-1). -/
def regBlock12 : List RegDesc := [
  ⟨"MOD_HLTHCFG", 0x00120000, [], [⟨24, 4, .rws, 8, 1, 15⟩, ⟨16, 8, .rws, 4, 1, 255⟩, ⟨0, 12, .rws, 256, 32, 4095⟩]⟩,
  ⟨"MOD_CLKSTAT", 0x00120004, [], [⟨8, 8, .ro, 0, 0, 255⟩, ⟨0, 8, .ro, 0, 0, 255⟩]⟩,
  ⟨"MOD_HSTAT", 0x00120010, [(4, 0x4)], [⟨0, 32, .ro, 0, 0, 4294967295⟩]⟩,
  ⟨"MOD_HLATCH", 0x00120020, [(4, 0x4)], [⟨0, 32, .w1c, 0, 0, 4294967295⟩]⟩,
  ⟨"MOD_CNT", 0x00120030, [], [⟨0, 16, .rc, 0, 0, 65535⟩]⟩,
  ⟨"MOD_INSTAT", 0x00121000, [(128, 0x4)], [⟨16, 8, .ro, 0, 0, 255⟩, ⟨8, 3, .ro, 0, 0, 7⟩, ⟨3, 1, .ro, 0, 0, 1⟩, ⟨2, 1, .ro, 0, 0, 1⟩, ⟨1, 1, .ro, 0, 0, 1⟩, ⟨0, 1, .ro, 0, 0, 1⟩]⟩]

/-- Registers of block index 0x13 (Table 22-1). -/
def regBlock13 : List RegDesc := [
  ⟨"FBA_CHCFG", 0x00130000, [(32, 0x10)], [⟨31, 1, .rws, 0, 0, 1⟩, ⟨30, 1, .rws, 0, 0, 1⟩, ⟨28, 2, .rws, 0, 0, 3⟩, ⟨23, 5, .rws, 8, 8, 24⟩, ⟨16, 7, .rws, 0, 0, 47⟩, ⟨0, 16, .rws, 0, 0, 65535⟩]⟩,
  ⟨"FBA_RAW", 0x00130004, [(32, 0x10)], [⟨0, 32, .ro, 0, 0, 4294967295⟩]⟩,
  ⟨"FBA_GCNT", 0x00130008, [(32, 0x10)], [⟨0, 16, .rc, 0, 0, 65535⟩]⟩,
  ⟨"FBA_TSEQ", 0x00130200, [(2, 0x10)], [⟨0, 4, .rws, 0, 0, 15⟩, ⟨4, 4, .rws, 0, 0, 15⟩, ⟨8, 4, .rws, 0, 0, 15⟩, ⟨12, 4, .rws, 0, 0, 15⟩, ⟨16, 4, .rws, 0, 0, 15⟩, ⟨20, 4, .rws, 0, 0, 15⟩, ⟨24, 4, .rws, 0, 0, 15⟩, ⟨28, 4, .rws, 0, 0, 15⟩]⟩,
  ⟨"FBA_TCFG", 0x00130204, [(2, 0x10)], [⟨0, 4, .rws, 0, 0, 8⟩]⟩,
  ⟨"FBA_CNT", 0x00130300, [], [⟨8, 8, .rc, 0, 0, 255⟩, ⟨0, 8, .rc, 0, 0, 255⟩]⟩,
  ⟨"FBA_TEMPCFG", 0x00130400, [(32, 0x10)], [⟨16, 16, .rws, 0, 0, 65535⟩, ⟨2, 1, .rws, 0, 0, 1⟩, ⟨0, 2, .rws, 0, 0, 3⟩]⟩,
  ⟨"FBA_TEMP", 0x00130404, [(32, 0x10)], [⟨31, 1, .ro, 0, 0, 1⟩, ⟨30, 1, .ro, 0, 0, 1⟩, ⟨29, 1, .ro, 0, 0, 1⟩, ⟨0, 24, .ro, 0, 0, 16777215⟩]⟩]

/-- Registers of block index 0x14 (Table 22-1). -/
def regBlock14 : List RegDesc := [
  ⟨"CTR_CTL", 0x00140000, [], [⟨4, 2, .ro, 1, 0, 3⟩, ⟨0, 1, .rw, 1, 0, 1⟩]⟩,
  ⟨"CTR_START", 0x00140004, [], [⟨24, 2, .ro, 0, 0, 3⟩, ⟨20, 4, .ro, 0, 0, 15⟩, ⟨8, 3, .ro, 0, 0, 7⟩, ⟨0, 6, .rw, 0, 0, 63⟩]⟩,
  ⟨"CTR_ENG", 0x00140010, [(8, 0x4)], [⟨24, 4, .ro, 0, 0, 15⟩, ⟨16, 8, .ro, 0, 0, 255⟩, ⟨8, 6, .ro, 0, 0, 63⟩, ⟨4, 1, .ro, 0, 0, 1⟩, ⟨0, 3, .ro, 0, 0, 7⟩]⟩,
  ⟨"CTR_COIL", 0x00140040, [(2, 0x4)], [⟨0, 32, .ro, 0, 0, 4294967295⟩]⟩,
  ⟨"CTR_FB", 0x00140048, [(2, 0x4)], [⟨0, 32, .ro, 0, 0, 4294967295⟩]⟩,
  ⟨"CTR_WELD", 0x00140050, [(2, 0x4)], [⟨0, 32, .w1c, 0, 0, 4294967295⟩]⟩,
  ⟨"CTR_MISM", 0x00140058, [(2, 0x4)], [⟨0, 32, .w1c, 0, 0, 4294967295⟩]⟩,
  ⟨"CTR_CNT", 0x00140060, [], [⟨24, 8, .rc, 0, 0, 255⟩, ⟨16, 8, .rc, 0, 0, 255⟩, ⟨0, 16, .rc, 0, 0, 65535⟩]⟩]

/-- Registers of block index 0x15 (Table 22-1). -/
def regBlock15 : List RegDesc := [
  ⟨"TLM_CFG", 0x00150000, [], [⟨0, 3, .rw, 6, 0, 7⟩]⟩,
  ⟨"TLM_CELLEN", 0x00150004, [], [⟨0, 25, .rw, 33554431, 0, 33554431⟩]⟩,
  ⟨"TLM_SRC", 0x00151000, [(25, 0x100)], [⟨31, 1, .rws, 0, 0, 1⟩, ⟨30, 1, .rws, 0, 0, 1⟩, ⟨29, 1, .rws, 0, 0, 1⟩, ⟨24, 5, .rws, 0, 0, 31⟩, ⟨12, 10, .rws, 0, 0, 1023⟩, ⟨0, 10, .rws, 0, 0, 1023⟩]⟩,
  ⟨"TLM_PCOEF", 0x00151004, [(25, 0x100)], [⟨0, 32, .rws, 0, 0, 4294967295⟩]⟩,
  ⟨"TLM_PSH", 0x00151008, [(25, 0x100)], [⟨0, 6, .rws, 0, 0, 63⟩]⟩,
  ⟨"TLM_VAL", 0x00151020, [(25, 0x100), (4, 0x10), (3, 0x4)], [⟨0, 32, .ro, 2147483648, 0, 4294967295⟩]⟩,
  ⟨"TLM_MAX", 0x00151060, [(25, 0x100), (4, 0x8)], [⟨0, 32, .rc, 2147483648, 0, 4294967295⟩]⟩,
  ⟨"TLM_MIN", 0x00151064, [(25, 0x100), (4, 0x8)], [⟨0, 32, .rc, 2147483648, 0, 4294967295⟩]⟩,
  ⟨"TLM_CAPCFG", 0x00158000, [], [⟨31, 1, .rw, 0, 0, 1⟩, ⟨16, 5, .rw, 31, 0, 31⟩, ⟨8, 8, .rw, 1, 1, 255⟩, ⟨0, 7, .rw, 64, 1, 64⟩]⟩,
  ⟨"TLM_CAPPOST", 0x00158004, [], [⟨0, 21, .rw, 0, 0, 2097151⟩]⟩,
  ⟨"TLM_CAPCTL", 0x00158008, [], [⟨2, 1, .wo, 0, 0, 1⟩, ⟨1, 1, .wo, 0, 0, 1⟩, ⟨0, 1, .wo, 0, 0, 1⟩]⟩,
  ⟨"TLM_CAPSTAT", 0x0015800C, [], [⟨11, 21, .ro, 16384, 0, 2097151⟩, ⟨4, 4, .ro, 0, 0, 15⟩, ⟨0, 2, .ro, 0, 0, 3⟩]⟩,
  ⟨"TLM_CAPWR", 0x00158010, [], [⟨0, 32, .ro, 0, 0, 4294967295⟩]⟩,
  ⟨"TLM_CAPTRIG_LO", 0x00158014, [], [⟨0, 32, .ro, 0, 0, 4294967295⟩]⟩,
  ⟨"TLM_CAPTRIG_HI", 0x00158018, [], [⟨0, 32, .ro, 0, 0, 4294967295⟩]⟩,
  ⟨"TLM_CAPSIG", 0x00158100, [(64, 0x4)], [⟨0, 10, .rw, 0, 0, 1023⟩]⟩,
  ⟨"TLM_CAPMARK", 0x00158200, [(16, 0x8)], [⟨0, 32, .ro, 0, 0, 4294967295⟩]⟩,
  ⟨"TLM_CAPMFR", 0x00158204, [(16, 0x8)], [⟨27, 5, .ro, 0, 0, 31⟩, ⟨25, 2, .ro, 0, 0, 3⟩, ⟨24, 1, .ro, 0, 0, 1⟩, ⟨0, 24, .ro, 0, 0, 16777215⟩]⟩]

/-- Registers of block index 0x16 (Table 22-1). -/
def regBlock16 : List RegDesc := [
  ⟨"IMD_CTL", 0x00160000, [(4, 0x100)], [⟨8, 3, .ro, 0, 0, 7⟩, ⟨4, 2, .ro, 0, 0, 3⟩, ⟨0, 1, .rw, 0, 0, 1⟩]⟩,
  ⟨"IMD_CFG", 0x00160004, [(4, 0x100)], [⟨28, 4, .rws, 2, 1, 15⟩, ⟨16, 12, .rws, 64, 0, 4095⟩, ⟨0, 14, .rws, 500, 100, 10000⟩]⟩,
  ⟨"IMD_NET", 0x00160008, [(4, 0x100)], [⟨16, 16, .rws, 0, 0, 65535⟩, ⟨0, 16, .rws, 0, 0, 65535⟩]⟩,
  ⟨"IMD_THR", 0x0016000C, [(4, 0x100)], [⟨16, 16, .rw, 500, 0, 65535⟩, ⟨0, 16, .rw, 100, 0, 65535⟩]⟩,
  ⟨"IMD_UREF", 0x00160010, [(4, 0x100)], [⟨0, 16, .rw, 1, 1, 65535⟩]⟩,
  ⟨"IMD_RISO", 0x00160014, [(4, 0x100)], [⟨0, 32, .ro, 4294967295, 0, 4294967295⟩]⟩,
  ⟨"IMD_RATIO", 0x00160018, [(4, 0x100)], [⟨0, 32, .ro, 4294967295, 0, 4294967295⟩]⟩]

/-- Registers of block index 0x18 (Table 22-1). -/
def regBlock18a : List RegDesc := [
  ⟨"SHR_GROUPID", 0x00180000, [], [⟨0, 32, .rw, 0, 0, 4294967295⟩]⟩,
  ⟨"SHR_GRP", 0x00180004, [], [⟨24, 8, .rw, 3, 1, 255⟩, ⟨16, 8, .rw, 10, 2, 20⟩, ⟨9, 1, .rw, 0, 0, 1⟩, ⟨8, 1, .rw, 0, 0, 1⟩, ⟨0, 5, .rw, 0, 0, 31⟩]⟩,
  ⟨"SHR_STAT", 0x00180008, [], [⟨24, 8, .ro, 0, 0, 255⟩, ⟨16, 8, .ro, 0, 0, 255⟩, ⟨6, 1, .ro, 0, 0, 1⟩, ⟨5, 1, .ro, 0, 0, 1⟩, ⟨4, 1, .ro, 0, 0, 1⟩, ⟨3, 1, .ro, 0, 0, 1⟩, ⟨2, 1, .ro, 0, 0, 1⟩, ⟨1, 1, .ro, 0, 0, 1⟩, ⟨0, 1, .ro, 0, 0, 1⟩]⟩,
  ⟨"SHR_NEXTLIM", 0x00180010, [], [⟨0, 32, .rw, 0, 0, 4294967295⟩]⟩,
  ⟨"SHR_NEXTMARG", 0x00180014, [], [⟨0, 32, .rw, 0, 0, 4294967295⟩]⟩,
  ⟨"SHR_NEXTMEMB", 0x00180018, [], [⟨0, 32, .rw, 0, 0, 4294967295⟩]⟩,
  ⟨"SHR_NEXTAT_LO", 0x0018001C, [], [⟨0, 32, .rw, 0, 0, 4294967295⟩]⟩,
  ⟨"SHR_NEXTAT_HI", 0x00180020, [], [⟨31, 1, .wo, 0, 0, 1⟩, ⟨0, 16, .rw, 0, 0, 65535⟩]⟩,
  ⟨"SHR_LIMIT", 0x00180024, [], [⟨0, 32, .ro, 0, 0, 4294967295⟩]⟩,
  ⟨"SHR_MARGIN", 0x00180028, [], [⟨0, 32, .ro, 0, 0, 4294967295⟩]⟩,
  ⟨"SHR_MEMBER", 0x0018002C, [], [⟨0, 32, .ro, 1, 0, 4294967295⟩]⟩,
  ⟨"SHR_OTHERMIN", 0x00180030, [], [⟨0, 32, .rw, 0, 0, 4294967295⟩]⟩,
  ⟨"SHR_OTHERMAX", 0x00180034, [], [⟨0, 32, .rw, 2147483647, 0, 4294967295⟩]⟩,
  ⟨"SHR_MARGFB", 0x00180038, [], [⟨0, 32, .rw, 0, 0, 4294967295⟩]⟩,
  ⟨"SHR_DEVMAX", 0x0018003C, [], [⟨0, 32, .rw, 4800000, 0, 4294967295⟩]⟩,
  ⟨"SHR_BUFCFG", 0x00180040, [], [⟨4, 3, .rw, 3, 0, 7⟩, ⟨3, 1, .rw, 0, 0, 1⟩, ⟨0, 3, .rw, 7, 0, 7⟩]⟩,
  ⟨"SHR_BUFCHG", 0x00180044, [], [⟨0, 32, .rw, 0, 0, 4294967295⟩]⟩,
  ⟨"SHR_BUFDIS", 0x00180048, [], [⟨0, 32, .rw, 0, 0, 4294967295⟩]⟩,
  ⟨"SHR_BUFRAMP", 0x0018004C, [], [⟨0, 32, .rws, 0, 0, 4294967295⟩]⟩,
  ⟨"SHR_DERATE", 0x00180050, [], [⟨16, 10, .ro, 1000, 0, 1023⟩, ⟨0, 1, .rw, 0, 0, 1⟩]⟩,
  ⟨"SHR_GCFG", 0x00180060, [], [⟨4, 3, .rw, 0, 0, 7⟩, ⟨0, 1, .rw, 0, 0, 1⟩]⟩,
  ⟨"SHR_GMARG", 0x00180064, [], [⟨0, 32, .rw, 0, 0, 4294967295⟩]⟩,
  ⟨"SHR_GMARGFB", 0x00180068, [], [⟨0, 32, .rw, 0, 0, 4294967295⟩]⟩,
  ⟨"SHR_GSCALE", 0x0018006C, [], [⟨0, 32, .ro, 1073741824, 0, 4294967295⟩]⟩,
  ⟨"SHR_GPQ", 0x00180070, [], [⟨0, 32, .ro, 0, 0, 4294967295⟩]⟩,
  ⟨"SHR_FRAME_LO", 0x00180080, [], [⟨0, 32, .ro, 0, 0, 4294967295⟩]⟩,
  ⟨"SHR_FRAME_HI", 0x00180084, [], [⟨0, 32, .ro, 0, 0, 4294967295⟩]⟩,
  ⟨"SHR_BUDGET", 0x00180088, [], [⟨0, 32, .ro, 0, 0, 4294967295⟩]⟩,
  ⟨"SHR_POC", 0x0018008C, [], [⟨0, 32, .ro, 0, 0, 4294967295⟩]⟩,
  ⟨"SHR_DRAW", 0x00180090, [], [⟨0, 32, .ro, 0, 0, 4294967295⟩]⟩]

/-- Registers of block index 0x18 (Table 22-1). -/
def regBlock18b : List RegDesc := [
  ⟨"SHR_IMPORT", 0x00180094, [], [⟨0, 32, .ro, 0, 0, 4294967295⟩]⟩,
  ⟨"SHR_CNT", 0x00180098, [], [⟨24, 8, .rc, 0, 0, 255⟩, ⟨16, 8, .rc, 0, 0, 255⟩, ⟨8, 8, .rc, 0, 0, 255⟩, ⟨0, 8, .rc, 0, 0, 255⟩]⟩,
  ⟨"SHR_OUTCFG", 0x00180100, [(4, 0x40)], [⟨21, 11, .rws, 200, 0, 2047⟩, ⟨20, 1, .rws, 0, 0, 1⟩, ⟨14, 6, .rws, 63, 0, 63⟩, ⟨8, 6, .rws, 63, 0, 63⟩, ⟨0, 6, .rws, 0, 0, 63⟩]⟩,
  ⟨"SHR_RAMP", 0x00180104, [(4, 0x40)], [⟨0, 32, .rws, 0, 0, 4294967295⟩]⟩,
  ⟨"SHR_PPRE", 0x00180108, [(4, 0x40)], [⟨0, 32, .rws, 0, 0, 4294967295⟩]⟩,
  ⟨"SHR_VMANT", 0x0018010C, [(4, 0x40)], [⟨0, 32, .rws, 0, 0, 4294967295⟩]⟩,
  ⟨"SHR_FLOOR", 0x00180110, [(4, 0x40)], [⟨0, 32, .rw, 0, 0, 4294967295⟩]⟩,
  ⟨"SHR_CLASS", 0x00180114, [(4, 0x40)], [⟨0, 3, .rw, 0, 0, 7⟩]⟩,
  ⟨"SHR_REQSENT", 0x00180118, [(4, 0x40)], [⟨0, 32, .ro, 0, 0, 4294967295⟩]⟩,
  ⟨"SHR_ALLOC", 0x0018011C, [(4, 0x40)], [⟨0, 32, .ro, 0, 0, 4294967295⟩]⟩,
  ⟨"SHR_DAMPSRC", 0x00180120, [(4, 0x40)], [⟨8, 1, .ro, 0, 0, 1⟩, ⟨0, 3, .ro, 0, 0, 7⟩]⟩,
  ⟨"SHR_MEMSTAT", 0x00180200, [(32, 0x4)], [⟨31, 1, .ro, 0, 0, 1⟩, ⟨30, 1, .ro, 0, 0, 1⟩, ⟨0, 16, .ro, 0, 0, 65535⟩]⟩,
  ⟨"SHR_RTCFG", 0x00180300, [], [⟨16, 16, .rw, 400, 1, 65535⟩, ⟨0, 1, .rw, 0, 0, 1⟩]⟩,
  ⟨"SHR_RTIZ", 0x00180304, [], [⟨0, 32, .rw, 100, 0, 4294967295⟩]⟩,
  ⟨"SHR_RTSTAT", 0x00180308, [], [⟨24, 8, .ro, 0, 0, 255⟩, ⟨16, 3, .ro, 0, 0, 7⟩, ⟨12, 4, .ro, 0, 0, 15⟩, ⟨8, 4, .ro, 0, 0, 15⟩, ⟨0, 5, .ro, 0, 0, 31⟩]⟩,
  ⟨"SHR_RTMAP", 0x00180400, [(20, 0x4)], [⟨18, 6, .rws, 63, 0, 63⟩, ⟨12, 6, .rws, 63, 0, 63⟩, ⟨6, 6, .rws, 63, 0, 63⟩, ⟨0, 6, .rws, 63, 0, 63⟩]⟩]

/-- Registers of block index 0x19 (Table 22-1). -/
def regBlock19 : List RegDesc := [
  ⟨"SVG_CTL", 0x00190000, [], [⟨4, 2, .ro, 1, 0, 3⟩, ⟨0, 1, .rw, 1, 0, 1⟩]⟩,
  ⟨"SVG_CNT", 0x00190004, [], [⟨24, 8, .rc, 0, 0, 255⟩, ⟨16, 8, .rc, 0, 0, 255⟩, ⟨8, 8, .rc, 0, 0, 255⟩, ⟨0, 8, .rc, 0, 0, 255⟩]⟩,
  ⟨"SVG_SUBCFG", 0x00190100, [(8, 0x40)], [⟨31, 1, .rw, 0, 0, 1⟩, ⟨30, 1, .rw, 0, 0, 1⟩, ⟨28, 2, .rw, 0, 0, 3⟩, ⟨26, 2, .rw, 3, 0, 3⟩, ⟨4, 4, .rw, 4, 0, 15⟩, ⟨0, 4, .rw, 0, 0, 15⟩]⟩,
  ⟨"SVG_SUBMAC_LO", 0x00190104, [(8, 0x40)], [⟨0, 32, .rw, 0, 0, 4294967295⟩]⟩,
  ⟨"SVG_SUBMAC_HI", 0x00190108, [(8, 0x40)], [⟨0, 32, .rw, 0, 0, 4294967295⟩]⟩,
  ⟨"SVG_SUBAPP", 0x0019010C, [(8, 0x40)], [⟨31, 1, .rw, 0, 0, 1⟩, ⟨16, 12, .rw, 0, 0, 4095⟩, ⟨0, 16, .rw, 0, 0, 65535⟩]⟩,
  ⟨"SVG_SUBIDC", 0x00190110, [(8, 0x40)], [⟨0, 32, .rw, 0, 0, 4294967295⟩]⟩,
  ⟨"SVG_SUBREV", 0x00190114, [(8, 0x40)], [⟨0, 32, .rw, 0, 0, 4294967295⟩]⟩,
  ⟨"SVG_SUBSTAT", 0x00190118, [(8, 0x40)], [⟨16, 16, .ro, 0, 0, 65535⟩, ⟨8, 8, .ro, 0, 0, 255⟩, ⟨5, 1, .ro, 0, 0, 1⟩, ⟨4, 1, .ro, 0, 0, 1⟩, ⟨2, 2, .ro, 0, 0, 3⟩, ⟨0, 2, .ro, 0, 0, 3⟩]⟩,
  ⟨"SVG_SUBCNT", 0x0019011C, [(8, 0x40)], [⟨24, 8, .rc, 0, 0, 255⟩, ⟨16, 8, .rc, 0, 0, 255⟩, ⟨8, 8, .rc, 0, 0, 255⟩, ⟨0, 8, .rc, 0, 0, 255⟩]⟩,
  ⟨"SVG_SUBVAL", 0x00190120, [(8, 0x40), (8, 0x4)], [⟨0, 32, .ro, 0, 0, 4294967295⟩]⟩,
  ⟨"SVG_PUBCFG", 0x00190400, [(2, 0x80)], [⟨31, 1, .rw, 0, 0, 1⟩, ⟨30, 1, .rw, 0, 0, 1⟩, ⟨28, 2, .rw, 0, 0, 3⟩, ⟨26, 2, .rw, 3, 0, 3⟩, ⟨16, 6, .rw, 1, 1, 32⟩, ⟨0, 4, .rw, 0, 0, 15⟩]⟩,
  ⟨"SVG_PUBMAC_LO", 0x00190404, [(2, 0x80)], [⟨0, 32, .rw, 0, 0, 4294967295⟩]⟩,
  ⟨"SVG_PUBMAC_HI", 0x00190408, [(2, 0x80)], [⟨0, 32, .rw, 0, 0, 4294967295⟩]⟩,
  ⟨"SVG_PUBAPP", 0x0019040C, [(2, 0x80)], [⟨29, 3, .rw, 4, 0, 7⟩, ⟨16, 12, .rw, 0, 0, 4095⟩, ⟨0, 16, .rw, 0, 0, 65535⟩]⟩,
  ⟨"SVG_PUBREV", 0x00190410, [(2, 0x80)], [⟨0, 32, .rw, 0, 0, 4294967295⟩]⟩,
  ⟨"SVG_PUBSTAT", 0x00190414, [(2, 0x80)], [⟨16, 16, .ro, 0, 0, 65535⟩, ⟨8, 8, .ro, 0, 0, 255⟩, ⟨0, 2, .ro, 0, 0, 3⟩]⟩,
  ⟨"SVG_PUBSRC", 0x00190420, [(2, 0x80), (8, 0x8)], [⟨8, 6, .rw, 0, 0, 63⟩, ⟨0, 8, .rw, 255, 0, 255⟩]⟩,
  ⟨"SVG_PUBGAIN", 0x00190424, [(2, 0x80), (8, 0x8)], [⟨0, 32, .rw, 1073741824, 0, 4294967295⟩]⟩,
  ⟨"SVG_PUBID", 0x00190460, [(2, 0x80), (8, 0x4)], [⟨0, 32, .rw, 0, 0, 4294967295⟩]⟩,
  ⟨"SVG_GSCFG", 0x00190800, [(32, 0x20)], [⟨31, 1, .rw, 0, 0, 1⟩, ⟨30, 1, .rw, 0, 0, 1⟩, ⟨28, 2, .rw, 0, 0, 3⟩, ⟨26, 2, .rw, 3, 0, 3⟩, ⟨25, 1, .rw, 0, 0, 1⟩, ⟨24, 1, .rw, 0, 0, 1⟩, ⟨23, 1, .rw, 0, 0, 1⟩, ⟨8, 8, .rw, 255, 0, 255⟩, ⟨0, 8, .rw, 0, 0, 63⟩]⟩,
  ⟨"SVG_GSACT", 0x00190804, [(32, 0x20)], [⟨8, 4, .rws, 0, 0, 15⟩, ⟨0, 2, .rws, 0, 0, 3⟩]⟩,
  ⟨"SVG_GSMAC_LO", 0x00190808, [(32, 0x20)], [⟨0, 32, .rw, 0, 0, 4294967295⟩]⟩,
  ⟨"SVG_GSMAC_HI", 0x0019080C, [(32, 0x20)], [⟨0, 32, .rw, 0, 0, 4294967295⟩]⟩,
  ⟨"SVG_GSAPP", 0x00190810, [(32, 0x20)], [⟨0, 16, .rw, 0, 0, 65535⟩]⟩,
  ⟨"SVG_GSREF", 0x00190814, [(32, 0x20)], [⟨0, 32, .rw, 0, 0, 4294967295⟩]⟩,
  ⟨"SVG_GSREV", 0x00190818, [(32, 0x20)], [⟨0, 32, .rw, 0, 0, 4294967295⟩]⟩,
  ⟨"SVG_GSSTAT", 0x0019081C, [(32, 0x20)], [⟨16, 16, .ro, 0, 0, 65535⟩, ⟨5, 1, .ro, 0, 0, 1⟩, ⟨4, 1, .ro, 0, 0, 1⟩, ⟨3, 1, .ro, 0, 0, 1⟩, ⟨0, 2, .ro, 0, 0, 3⟩]⟩]

/-- Registers of block index 0x1A (Table 22-1). -/
def regBlock1A : List RegDesc := [
  ⟨"FNET_PORT", 0x001A0000, [(2, 0x100)], [⟨8, 1, .ro, 0, 0, 1⟩, ⟨4, 2, .ro, 1, 0, 3⟩, ⟨1, 1, .ro, 0, 0, 1⟩, ⟨0, 1, .rw, 1, 0, 1⟩]⟩,
  ⟨"FNET_PDLY", 0x001A0004, [(2, 0x100)], [⟨16, 16, .rw, 0, 0, 65535⟩, ⟨0, 16, .rw, 0, 0, 65535⟩]⟩,
  ⟨"FNET_SHRTAG", 0x001A0008, [(2, 0x100)], [⟨13, 3, .rw, 6, 0, 7⟩, ⟨0, 12, .rw, 0, 0, 4095⟩]⟩,
  ⟨"FNET_GCLCTL", 0x001A000C, [(2, 0x100)], [⟨31, 1, .wo, 0, 0, 1⟩, ⟨8, 1, .ro, 0, 0, 1⟩, ⟨0, 5, .rw, 1, 1, 16⟩]⟩,
  ⟨"FNET_DROP0", 0x001A0010, [(2, 0x100)], [⟨24, 8, .rc, 0, 0, 255⟩, ⟨16, 8, .rc, 0, 0, 255⟩, ⟨8, 8, .rc, 0, 0, 255⟩, ⟨0, 8, .rc, 0, 0, 255⟩]⟩,
  ⟨"FNET_DROP1", 0x001A0014, [(2, 0x100)], [⟨24, 8, .rc, 0, 0, 255⟩, ⟨16, 8, .rc, 0, 0, 255⟩, ⟨8, 8, .rc, 0, 0, 255⟩, ⟨0, 8, .rc, 0, 0, 255⟩]⟩,
  ⟨"FNET_TXLATE", 0x001A0018, [(2, 0x100)], [⟨0, 8, .rc, 0, 0, 255⟩]⟩,
  ⟨"FNET_GCL0", 0x001A0040, [(2, 0x100)], [⟨28, 4, .rw, 15, 0, 15⟩, ⟨0, 20, .rw, 1000000, 0, 1000000⟩]⟩,
  ⟨"FNET_GCL", 0x001A0044, [(2, 0x100), (15, 0x4)], [⟨28, 4, .rw, 0, 0, 15⟩, ⟨0, 20, .rw, 0, 0, 1000000⟩]⟩,
  ⟨"FNET_BUFPEAK", 0x001A0800, [(6, 0x4)], [⟨0, 12, .rc, 0, 0, 4095⟩]⟩,
  ⟨"FNET_OTHERFLT", 0x001A0820, [(4, 0x4)], [⟨31, 1, .rw, 0, 0, 1⟩, ⟨0, 16, .rw, 0, 0, 65535⟩]⟩]

/-- Registers of block index 0x20 (Table 22-1). -/
def regBlock20 : List RegDesc := [
  ⟨"MET_CTL", 0x00200000, [], [⟨4, 2, .ro, 1, 0, 3⟩, ⟨0, 1, .rw, 1, 0, 1⟩]⟩,
  ⟨"MET_SWCFG", 0x00200004, [], [⟨0, 10, .rwl, 10, 1, 600⟩]⟩,
  ⟨"MET_ECLR", 0x00200008, [], [⟨16, 16, .rwl, 0, 0, 65535⟩, ⟨1, 1, .rwl, 0, 0, 1⟩, ⟨0, 1, .rwl, 0, 0, 1⟩]⟩,
  ⟨"MET_LRVER", 0x00200010, [], [⟨24, 8, .ro, 0, 0, 255⟩, ⟨16, 8, .ro, 0, 0, 255⟩, ⟨0, 16, .ro, 0, 0, 65535⟩]⟩,
  ⟨"MET_LRMINSVN", 0x00200014, [], [⟨0, 32, .ro, 0, 0, 4294967295⟩]⟩,
  ⟨"MET_LRCTL", 0x00200018, [], [⟨16, 16, .wo, 0, 0, 65535⟩, ⟨8, 4, .ro, 0, 0, 15⟩, ⟨2, 1, .ro, 0, 0, 1⟩, ⟨0, 2, .ro, 0, 0, 3⟩]⟩,
  ⟨"MET_LRSUM", 0x00200040, [(12, 0x4)], [⟨0, 32, .ro, 0, 0, 4294967295⟩]⟩,
  ⟨"MET_CHCFG", 0x00200100, [(16, 0x10)], [⟨0, 16, .rwl, 2500, 0, 65535⟩]⟩,
  ⟨"MET_CHSTAT", 0x00200104, [(16, 0x10)], [⟨16, 16, .ro, 0, 0, 65535⟩, ⟨8, 1, .ro, 1, 0, 1⟩, ⟨7, 1, .ro, 0, 0, 1⟩, ⟨6, 1, .ro, 0, 0, 1⟩, ⟨5, 1, .ro, 0, 0, 1⟩, ⟨4, 1, .ro, 0, 0, 1⟩, ⟨3, 1, .ro, 0, 0, 1⟩, ⟨2, 1, .ro, 0, 0, 1⟩, ⟨1, 1, .ro, 0, 0, 1⟩, ⟨0, 1, .ro, 0, 0, 1⟩]⟩,
  ⟨"MET_CHRMS", 0x00200108, [(16, 0x10)], [⟨0, 32, .ro, 0, 0, 4294967295⟩]⟩,
  ⟨"MET_ECFG", 0x00200400, [(4, 0x70)], [⟨0, 2, .rwl, 2, 0, 3⟩]⟩,
  ⟨"MET_ECFG", 0x00200410, [(4, 0x70)], [⟨0, 2, .rwl, 3, 0, 3⟩]⟩,
  ⟨"MET_ECFG", 0x00200420, [(4, 0x70), (5, 0x10)], [⟨0, 2, .rwl, 1, 0, 3⟩]⟩,
  ⟨"MET_ECFG", 0x002005C0, [(4, 0x20)], [⟨0, 2, .rwl, 2, 0, 3⟩]⟩,
  ⟨"MET_ECFG", 0x002005D0, [(4, 0x20)], [⟨0, 2, .rwl, 3, 0, 3⟩]⟩,
  ⟨"MET_E_LO", 0x00200404, [(36, 0x10)], [⟨0, 32, .ro, 0, 0, 4294967295⟩]⟩,
  ⟨"MET_E_HI", 0x00200408, [(36, 0x10)], [⟨0, 32, .ro, 0, 0, 4294967295⟩]⟩,
  ⟨"MET_TPCFG", 0x00200800, [(4, 0x10)], [⟨8, 1, .ro, 0, 0, 1⟩, ⟨2, 6, .rwl, 0, 0, 35⟩, ⟨0, 1, .rwl, 0, 0, 1⟩]⟩,
  ⟨"MET_TPCONST", 0x00200804, [(4, 0x10)], [⟨0, 20, .rwl, 10000, 1, 1000000⟩]⟩,
  ⟨"MET_TPSTAT", 0x00200808, [(4, 0x10)], [⟨16, 16, .ro, 2000, 0, 65535⟩, ⟨15, 1, .ro, 0, 0, 1⟩, ⟨0, 12, .ro, 0, 0, 4095⟩]⟩,
  ⟨"MET_TPCNT", 0x0020080C, [(4, 0x10)], [⟨0, 32, .rc, 0, 0, 4294967295⟩]⟩]

/-- Registers of block index 0x21 (Table 22-1). -/
def regBlock21 : List RegDesc := [
  ⟨"BIL_CTL", 0x00210000, [], [⟨4, 2, .ro, 1, 0, 3⟩, ⟨0, 1, .rw, 1, 0, 1⟩]⟩,
  ⟨"BIL_SEAL", 0x00210004, [], [⟨8, 8, .ro, 0, 0, 255⟩, ⟨0, 3, .ro, 0, 0, 7⟩]⟩,
  ⟨"BIL_SEALCTL", 0x00210008, [], [⟨16, 16, .wo, 0, 0, 65535⟩]⟩,
  ⟨"BIL_COMMIT", 0x0021000C, [], [⟨8, 1, .ro, 0, 0, 1⟩, ⟨4, 1, .ro, 0, 0, 1⟩, ⟨1, 2, .ro, 0, 0, 3⟩, ⟨0, 1, .wo, 0, 0, 1⟩]⟩,
  ⟨"BIL_SEQ_LO", 0x00210010, [], [⟨0, 32, .ro, 0, 0, 4294967295⟩]⟩,
  ⟨"BIL_SEQ_HI", 0x00210014, [], [⟨0, 32, .ro, 0, 0, 4294967295⟩]⟩,
  ⟨"BIL_RESTORE", 0x00210018, [], [⟨8, 8, .ro, 0, 0, 255⟩, ⟨0, 2, .ro, 0, 0, 3⟩]⟩,
  ⟨"BIL_RECNEXT", 0x0021001C, [], [⟨0, 32, .ro, 0, 0, 4294967295⟩]⟩,
  ⟨"BIL_RECACK", 0x00210020, [], [⟨0, 32, .rw, 0, 0, 4294967295⟩]⟩,
  ⟨"BIL_LOGNEXT", 0x00210024, [], [⟨0, 32, .ro, 0, 0, 4294967295⟩]⟩,
  ⟨"BIL_LOGACK", 0x00210028, [], [⟨0, 32, .rw, 0, 0, 4294967295⟩]⟩,
  ⟨"BIL_STORE", 0x0021002C, [], [⟨16, 11, .ro, 0, 0, 2047⟩, ⟨0, 9, .ro, 0, 0, 511⟩]⟩,
  ⟨"BIL_LOGLOST", 0x00210030, [], [⟨0, 32, .rc, 0, 0, 4294967295⟩]⟩,
  ⟨"BIL_BIND", 0x00210040, [(12, 0x4)], [⟨0, 32, .ro, 0, 0, 4294967295⟩]⟩,
  ⟨"BIL_SESSCTL", 0x00210100, [(4, 0x40)], [⟨12, 4, .ro, 0, 0, 15⟩, ⟨8, 2, .ro, 0, 0, 3⟩, ⟨0, 2, .wo, 0, 0, 3⟩]⟩,
  ⟨"BIL_SESSSTAT", 0x00210104, [(4, 0x40)], [⟨1, 1, .ro, 0, 0, 1⟩, ⟨0, 1, .ro, 0, 0, 1⟩]⟩,
  ⟨"BIL_SESSREC", 0x00210108, [(4, 0x40)], [⟨0, 32, .ro, 4294967295, 0, 4294967295⟩]⟩,
  ⟨"BIL_SID", 0x00210110, [(4, 0x40), (4, 0x4)], [⟨0, 32, .rw, 0, 0, 4294967295⟩]⟩,
  ⟨"BIL_TWCTL", 0x00210200, [], [⟨0, 1, .rwl, 1, 0, 1⟩]⟩,
  ⟨"BIL_TWSTAT", 0x00210204, [], [⟨8, 5, .ro, 0, 0, 31⟩, ⟨0, 1, .ro, 0, 0, 1⟩]⟩,
  ⟨"BIL_TWCFG", 0x00210210, [(4, 0x10)], [⟨31, 1, .rwl, 0, 0, 1⟩, ⟨30, 1, .rwl, 0, 0, 1⟩, ⟨0, 16, .rwl, 2000, 0, 65535⟩]⟩,
  ⟨"BIL_TWGAIN", 0x00210214, [(4, 0x10)], [⟨0, 32, .rwl, 1073741824, 0, 4294967295⟩]⟩]

/-- Registers of block index 0x24 (Table 22-1). -/
def regBlock24 : List RegDesc := [
  ⟨"OUT_CTL", 0x00240000, [(4, 0x1000)], [⟨4, 2, .ro, 1, 0, 3⟩, ⟨0, 1, .rw, 1, 0, 1⟩]⟩,
  ⟨"OUT_STAT", 0x00240004, [(4, 0x1000)], [⟨23, 1, .ro, 0, 0, 1⟩, ⟨22, 1, .ro, 0, 0, 1⟩, ⟨21, 1, .ro, 0, 0, 1⟩, ⟨20, 1, .ro, 0, 0, 1⟩, ⟨17, 1, .ro, 0, 0, 1⟩, ⟨16, 1, .ro, 0, 0, 1⟩, ⟨8, 8, .ro, 0, 0, 255⟩, ⟨4, 4, .ro, 0, 0, 15⟩, ⟨0, 4, .ro, 0, 0, 15⟩]⟩,
  ⟨"OUT_CMD", 0x00240008, [(4, 0x1000)], [⟨24, 2, .ro, 0, 0, 3⟩, ⟨16, 4, .ro, 0, 0, 15⟩, ⟨0, 3, .wo, 0, 0, 7⟩]⟩,
  ⟨"OUT_SEQ", 0x0024000C, [(4, 0x1000)], [⟨24, 6, .rws, 63, 0, 63⟩, ⟨18, 6, .rws, 63, 0, 63⟩, ⟨12, 6, .rws, 63, 0, 63⟩, ⟨6, 6, .rws, 63, 0, 63⟩, ⟨0, 6, .rws, 63, 0, 63⟩]⟩,
  ⟨"OUT_TLIM0", 0x00240010, [(4, 0x1000)], [⟨16, 16, .rws, 10000, 1, 65535⟩, ⟨0, 16, .rws, 2000, 1, 65535⟩]⟩,
  ⟨"OUT_TLIM1", 0x00240014, [(4, 0x1000)], [⟨16, 16, .rws, 1000, 1, 65535⟩, ⟨0, 16, .rws, 300, 1, 65535⟩]⟩,
  ⟨"OUT_CFG", 0x00240018, [(4, 0x1000)], [⟨31, 1, .rws, 0, 0, 1⟩, ⟨28, 3, .rws, 7, 0, 7⟩, ⟨16, 12, .rws, 1000, 1, 4095⟩, ⟨8, 8, .rws, 2, 0, 255⟩, ⟨0, 8, .rws, 20, 0, 255⟩]⟩,
  ⟨"OUT_GEN", 0x0024001C, [(4, 0x1000)], [⟨8, 8, .rws, 255, 0, 255⟩, ⟨0, 8, .rws, 255, 0, 255⟩]⟩,
  ⟨"OUT_IZERO", 0x00240020, [(4, 0x1000)], [⟨0, 32, .rws, 0, 0, 4294967295⟩]⟩,
  ⟨"OUT_VSAFE", 0x00240024, [(4, 0x1000)], [⟨0, 32, .rws, 0, 0, 4294967295⟩]⟩,
  ⟨"OUT_DAMPER", 0x00240030, [(4, 0x1000)], [⟨0, 32, .ro, 0, 0, 4294967295⟩]⟩,
  ⟨"OUT_FCAUSE", 0x00240034, [(4, 0x1000)], [⟨1, 16, .w1c, 0, 0, 65535⟩]⟩,
  ⟨"OUT_CNT", 0x00240038, [(4, 0x1000)], [⟨16, 16, .rc, 0, 0, 65535⟩, ⟨0, 16, .rc, 0, 0, 65535⟩]⟩]

/-- Registers of block index 0x25 (Table 22-1). -/
def regBlock25 : List RegDesc := [
  ⟨"CBL_CTL", 0x00250000, [(4, 0x400)], [⟨8, 1, .ro, 0, 0, 1⟩, ⟨4, 2, .ro, 1, 0, 3⟩, ⟨0, 1, .rw, 1, 0, 1⟩]⟩,
  ⟨"CBL_CFG", 0x00250004, [(4, 0x400)], [⟨16, 16, .rws, 50, 0, 65535⟩, ⟨8, 8, .rws, 20, 0, 255⟩, ⟨0, 3, .rws, 7, 0, 7⟩]⟩,
  ⟨"CBL_IMANT", 0x00250008, [(4, 0x400)], [⟨0, 32, .rws, 0, 0, 4294967295⟩]⟩,
  ⟨"CBL_ISIG", 0x0025000C, [(4, 0x400)], [⟨16, 6, .rws, 0, 0, 63⟩, ⟨0, 10, .rws, 0, 0, 1023⟩]⟩,
  ⟨"CBL_COOL", 0x00250010, [(4, 0x400)], [⟨16, 16, .rws, 600, 0, 65535⟩, ⟨8, 5, .rws, 0, 0, 31⟩, ⟨0, 5, .rws, 0, 0, 31⟩]⟩,
  ⟨"CBL_FLOWK", 0x00250014, [(4, 0x400)], [⟨0, 16, .rws, 0, 0, 65535⟩]⟩,
  ⟨"CBL_FLOW", 0x00250018, [(4, 0x400)], [⟨16, 16, .ro, 0, 0, 65535⟩, ⟨0, 16, .ro, 0, 0, 65535⟩]⟩,
  ⟨"CBL_ILIM", 0x0025001C, [(4, 0x400)], [⟨0, 32, .ro, 2147483647, 0, 4294967295⟩]⟩,
  ⟨"CBL_ICAP", 0x00250020, [(4, 0x400)], [⟨0, 32, .rws, 2147483647, 0, 4294967295⟩]⟩,
  ⟨"CBL_HOR", 0x00250024, [(4, 0x400)], [⟨0, 16, .rws, 10000, 1, 65535⟩]⟩,
  ⟨"CBL_TTRIP", 0x00250028, [(4, 0x400)], [⟨0, 16, .rws, 1000, 0, 65535⟩]⟩,
  ⟨"CBL_ISAFE", 0x0025002C, [(4, 0x400)], [⟨0, 32, .rws, 0, 0, 4294967295⟩]⟩,
  ⟨"CBL_FAN", 0x00250030, [(4, 0x400)], [⟨12, 2, .rw, 2, 1, 3⟩, ⟨0, 10, .rw, 0, 0, 1000⟩]⟩,
  ⟨"CBL_TACH", 0x00250034, [(4, 0x400)], [⟨16, 1, .ro, 0, 0, 1⟩, ⟨0, 16, .ro, 0, 0, 65535⟩]⟩,
  ⟨"CBL_PINCFG", 0x00250100, [(4, 0x400), (4, 0x40)], [⟨16, 16, .rws, 0, 0, 65535⟩, ⟨7, 1, .rws, 0, 0, 1⟩, ⟨0, 5, .rws, 0, 0, 31⟩]⟩,
  ⟨"CBL_RC0", 0x00250104, [(4, 0x400), (4, 0x40)], [⟨0, 32, .rws, 0, 0, 4294967295⟩]⟩,
  ⟨"CBL_RK0", 0x00250108, [(4, 0x400), (4, 0x40)], [⟨0, 32, .rws, 0, 0, 4294967295⟩]⟩,
  ⟨"CBL_ALC", 0x0025010C, [(4, 0x400), (4, 0x40)], [⟨0, 16, .rws, 0, 0, 65535⟩]⟩,
  ⟨"CBL_CC", 0x00250110, [(4, 0x400), (4, 0x40)], [⟨0, 32, .rws, 1, 1, 4294967295⟩]⟩,
  ⟨"CBL_CK", 0x00250114, [(4, 0x400), (4, 0x40)], [⟨0, 32, .rws, 1, 1, 4294967295⟩]⟩,
  ⟨"CBL_RTHC", 0x00250118, [(4, 0x400), (4, 0x40)], [⟨0, 32, .rws, 1, 1, 4294967295⟩]⟩,
  ⟨"CBL_RTHNF", 0x0025011C, [(4, 0x400), (4, 0x40)], [⟨0, 32, .rws, 1, 1, 4294967295⟩]⟩,
  ⟨"CBL_RTHK", 0x00250120, [(4, 0x400), (4, 0x40)], [⟨0, 32, .rws, 1, 1, 4294967295⟩]⟩,
  ⟨"CBL_TMAX", 0x00250124, [(4, 0x400), (4, 0x40)], [⟨16, 16, .rws, 50, 0, 65535⟩, ⟨0, 16, .rws, 900, 0, 65535⟩]⟩,
  ⟨"CBL_TC", 0x00250128, [(4, 0x400), (4, 0x40)], [⟨0, 32, .ro, 0, 0, 4294967295⟩]⟩,
  ⟨"CBL_TK", 0x0025012C, [(4, 0x400), (4, 0x40)], [⟨0, 32, .ro, 0, 0, 4294967295⟩]⟩,
  ⟨"CBL_PILIM", 0x00250130, [(4, 0x400), (4, 0x40)], [⟨0, 32, .ro, 2147483647, 0, 4294967295⟩]⟩]

/-- Registers of block index 0x26 (Table 22-1). -/
def regBlock26a : List RegDesc := [
  ⟨"STK_CTL", 0x00260000, [], [⟨8, 1, .wo, 0, 0, 1⟩, ⟨4, 2, .ro, 1, 0, 3⟩, ⟨0, 1, .rw, 1, 0, 1⟩]⟩,
  ⟨"STK_CHCFG", 0x00260004, [], [⟨19, 1, .rws, 1, 0, 1⟩, ⟨18, 1, .rws, 1, 0, 1⟩, ⟨17, 1, .rws, 1, 0, 1⟩, ⟨16, 1, .rws, 0, 0, 1⟩, ⟨8, 5, .rws, 0, 0, 31⟩, ⟨0, 6, .rws, 0, 0, 32⟩]⟩,
  ⟨"STK_CHSTAT", 0x00260008, [], [⟨16, 6, .ro, 0, 0, 63⟩, ⟨8, 6, .ro, 0, 0, 63⟩, ⟨3, 1, .ro, 0, 0, 1⟩, ⟨0, 3, .ro, 0, 0, 7⟩]⟩,
  ⟨"STK_SNAPCFG", 0x0026000C, [], [⟨24, 1, .rws, 1, 0, 1⟩, ⟨16, 8, .rws, 22, 2, 50⟩, ⟨0, 9, .rws, 100, 10, 400⟩]⟩,
  ⟨"STK_SNAPSTAT", 0x00260010, [], [⟨16, 8, .ro, 0, 0, 255⟩, ⟨15, 1, .ro, 0, 0, 1⟩, ⟨0, 9, .ro, 0, 0, 511⟩]⟩,
  ⟨"STK_SNAPT_LO", 0x00260014, [], [⟨0, 32, .ro, 0, 0, 4294967295⟩]⟩,
  ⟨"STK_SNAPT_HI", 0x00260018, [], [⟨0, 32, .ro, 0, 0, 4294967295⟩]⟩,
  ⟨"STK_BUFCFG", 0x00260020, [], [⟨16, 16, .rws, 500, 1, 65535⟩, ⟨8, 8, .rws, 255, 0, 255⟩, ⟨0, 8, .rws, 255, 0, 255⟩]⟩,
  ⟨"STK_BUFSIG", 0x00260024, [], [⟨16, 10, .rws, 0, 0, 1023⟩, ⟨0, 10, .rws, 0, 0, 1023⟩]⟩,
  ⟨"STK_BUFIMANT", 0x00260028, [], [⟨0, 32, .rws, 0, 0, 4294967295⟩]⟩,
  ⟨"STK_BUFVMANT", 0x0026002C, [], [⟨0, 32, .rws, 0, 0, 4294967295⟩]⟩,
  ⟨"STK_BUFSH", 0x00260030, [], [⟨8, 6, .rws, 0, 0, 63⟩, ⟨0, 6, .rws, 0, 0, 63⟩]⟩,
  ⟨"STK_BUFIZ", 0x00260034, [], [⟨0, 32, .rws, 1000, 0, 4294967295⟩]⟩,
  ⟨"STK_BUFCTL", 0x00260038, [], [⟨1, 1, .wo, 0, 0, 1⟩, ⟨0, 1, .wo, 0, 0, 1⟩]⟩,
  ⟨"STK_BUFSTAT", 0x0026003C, [], [⟨16, 5, .ro, 0, 0, 31⟩, ⟨8, 3, .ro, 0, 0, 7⟩, ⟨0, 2, .ro, 0, 0, 3⟩]⟩,
  ⟨"STK_CELLLIM", 0x00260040, [], [⟨16, 16, .rws, 42000, 0, 65535⟩, ⟨0, 16, .rws, 25000, 0, 65535⟩]⟩,
  ⟨"STK_CHKCFG", 0x00260044, [], [⟨16, 16, .rws, 2000, 0, 65535⟩, ⟨8, 4, .rws, 3, 1, 15⟩, ⟨0, 4, .rws, 2, 1, 15⟩]⟩,
  ⟨"STK_SUM", 0x00260048, [], [⟨0, 32, .ro, 0, 0, 4294967295⟩]⟩,
  ⟨"STK_VSTACK", 0x0026004C, [], [⟨0, 32, .ro, 0, 0, 4294967295⟩]⟩,
  ⟨"STK_OWCFG", 0x00260050, [], [⟨31, 1, .wo, 0, 0, 1⟩, ⟨16, 12, .rw, 0, 0, 4095⟩, ⟨0, 16, .rw, 500, 0, 65535⟩]⟩,
  ⟨"STK_OWSTAT", 0x00260054, [], [⟨16, 8, .ro, 0, 0, 255⟩, ⟨8, 1, .ro, 0, 0, 1⟩, ⟨0, 5, .ro, 31, 0, 31⟩]⟩,
  ⟨"STK_IMPCFG", 0x00260058, [], [⟨24, 4, .rws, 4, 0, 8⟩, ⟨0, 24, .rws, 20000, 0, 16777215⟩]⟩,
  ⟨"STK_BALMOD", 0x0026005C, [], [⟨16, 16, .rws, 33, 1, 65535⟩, ⟨0, 16, .rws, 50, 0, 65535⟩]⟩,
  ⟨"STK_CNT", 0x00260060, [], [⟨24, 8, .rc, 0, 0, 255⟩, ⟨16, 8, .rc, 0, 0, 255⟩, ⟨8, 8, .rc, 0, 0, 255⟩, ⟨0, 8, .rc, 0, 0, 255⟩]⟩,
  ⟨"STK_SATSTAT", 0x00261000, [(32, 0x10)], [⟨5, 1, .ro, 0, 0, 1⟩, ⟨4, 1, .ro, 0, 0, 1⟩, ⟨2, 1, .ro, 0, 0, 1⟩, ⟨0, 2, .ro, 0, 0, 3⟩]⟩,
  ⟨"STK_SATTEMP", 0x00261004, [(32, 0x10)], [⟨31, 1, .ro, 0, 0, 1⟩, ⟨0, 16, .ro, 0, 0, 65535⟩]⟩,
  ⟨"STK_SATDLY", 0x00261008, [(32, 0x10)], [⟨16, 16, .ro, 65535, 0, 65535⟩, ⟨0, 16, .ro, 65535, 0, 65535⟩]⟩,
  ⟨"STK_SATOW", 0x0026100C, [(32, 0x10)], [⟨0, 19, .w1c, 0, 0, 524287⟩]⟩,
  ⟨"STK_CELLV", 0x00262000, [(576, 0x4)], [⟨31, 1, .ro, 0, 0, 1⟩, ⟨30, 1, .ro, 0, 0, 1⟩, ⟨29, 1, .ro, 0, 0, 1⟩, ⟨0, 16, .ro, 0, 0, 65535⟩]⟩,
  ⟨"STK_CELLZ", 0x00263000, [(576, 0x4)], [⟨0, 32, .ro, 2147483648, 0, 4294967295⟩]⟩]

/-- Registers of block index 0x26 (Table 22-1). -/
def regBlock26b : List RegDesc := [
  ⟨"STK_BALDUTY", 0x00264000, [(144, 0x4)], [⟨24, 7, .rw, 0, 0, 100⟩, ⟨16, 7, .rw, 0, 0, 100⟩, ⟨8, 7, .rw, 0, 0, 100⟩, ⟨0, 7, .rw, 0, 0, 100⟩]⟩,
  ⟨"STK_BALEFF", 0x00264400, [(144, 0x4)], [⟨24, 7, .ro, 0, 0, 127⟩, ⟨16, 7, .ro, 0, 0, 127⟩, ⟨8, 7, .ro, 0, 0, 127⟩, ⟨0, 7, .ro, 0, 0, 127⟩]⟩]

/-- Registers of block index 0x27 (Table 22-1). -/
def regBlock27 : List RegDesc := [
  ⟨"FCAN_CTL", 0x00270000, [(2, 0x8000)], [⟨12, 1, .wo, 0, 0, 1⟩, ⟨11, 1, .rw, 0, 0, 1⟩, ⟨10, 1, .rw, 0, 0, 1⟩, ⟨9, 1, .rw, 0, 0, 1⟩, ⟨8, 1, .rw, 0, 0, 1⟩, ⟨7, 1, .rw, 0, 0, 1⟩, ⟨6, 1, .rw, 0, 0, 1⟩, ⟨4, 2, .ro, 0, 0, 3⟩, ⟨0, 1, .rw, 0, 0, 1⟩]⟩,
  ⟨"FCAN_NBT", 0x00270004, [(2, 0x8000)], [⟨24, 8, .rw, 0, 0, 255⟩, ⟨16, 8, .rw, 126, 1, 255⟩, ⟨8, 7, .rw, 31, 1, 127⟩, ⟨0, 7, .rw, 31, 0, 127⟩]⟩,
  ⟨"FCAN_DBT", 0x00270008, [(2, 0x8000)], [⟨31, 1, .rw, 0, 0, 1⟩, ⟨24, 5, .rw, 0, 0, 31⟩, ⟨16, 5, .rw, 10, 0, 31⟩, ⟨8, 4, .rw, 3, 0, 15⟩, ⟨0, 4, .rw, 3, 0, 15⟩]⟩,
  ⟨"FCAN_TDC", 0x0027000C, [(2, 0x8000)], [⟨8, 7, .ro, 0, 0, 127⟩, ⟨0, 7, .rw, 0, 0, 127⟩]⟩,
  ⟨"FCAN_ERR", 0x00270010, [(2, 0x8000)], [⟨24, 1, .ro, 0, 0, 1⟩, ⟨20, 4, .ro, 0, 0, 15⟩, ⟨16, 2, .ro, 0, 0, 3⟩, ⟨8, 8, .ro, 0, 0, 255⟩, ⟨0, 8, .ro, 0, 0, 255⟩]⟩,
  ⟨"FCAN_CNT", 0x00270014, [(2, 0x8000)], [⟨24, 8, .rc, 0, 0, 255⟩, ⟨16, 8, .rc, 0, 0, 255⟩, ⟨8, 8, .rc, 0, 0, 255⟩, ⟨0, 8, .rc, 0, 0, 255⟩]⟩,
  ⟨"FCAN_RETRY", 0x00270018, [(2, 0x8000)], [⟨4, 4, .rw, 3, 0, 15⟩, ⟨0, 4, .rw, 3, 0, 15⟩]⟩,
  ⟨"FCAN_TXB", 0x00270100, [(2, 0x8000), (3, 0x80), (18, 0x4)], [⟨0, 32, .rw, 0, 0, 4294967295⟩]⟩,
  ⟨"FCAN_TXCMD", 0x00270148, [(2, 0x8000), (3, 0x80)], [⟨31, 1, .wo, 0, 0, 1⟩, ⟨30, 1, .wo, 0, 0, 1⟩, ⟨24, 1, .ro, 0, 0, 1⟩, ⟨20, 4, .ro, 0, 0, 15⟩, ⟨16, 4, .ro, 0, 0, 15⟩, ⟨0, 4, .ro, 0, 0, 15⟩]⟩,
  ⟨"FCAN_TXTS", 0x0027014C, [(2, 0x8000), (3, 0x80)], [⟨0, 32, .ro, 0, 0, 4294967295⟩]⟩,
  ⟨"FCAN_MB", 0x00271000, [(2, 0x8000), (16, 0x80), (18, 0x4)], [⟨0, 32, .ro, 0, 0, 4294967295⟩]⟩,
  ⟨"FCAN_MBFLT", 0x00271048, [(2, 0x8000), (16, 0x80)], [⟨0, 29, .rw, 0, 0, 536870911⟩]⟩,
  ⟨"FCAN_MBMASK", 0x0027104C, [(2, 0x8000), (16, 0x80)], [⟨0, 29, .rw, 536870911, 0, 536870911⟩]⟩,
  ⟨"FCAN_MBCFG", 0x00271050, [(2, 0x8000), (16, 0x80)], [⟨5, 1, .rw, 0, 0, 1⟩, ⟨4, 1, .rw, 0, 0, 1⟩, ⟨3, 1, .rw, 0, 0, 1⟩, ⟨0, 2, .rw, 0, 0, 3⟩]⟩,
  ⟨"FCAN_MBSTAT", 0x00271054, [(2, 0x8000), (16, 0x80)], [⟨31, 1, .wo, 0, 0, 1⟩, ⟨8, 8, .ro, 0, 0, 255⟩, ⟨2, 1, .ro, 0, 0, 1⟩, ⟨1, 1, .ro, 0, 0, 1⟩, ⟨0, 1, .ro, 0, 0, 1⟩]⟩,
  ⟨"FCAN_MBTS", 0x00271058, [(2, 0x8000), (16, 0x80)], [⟨0, 32, .ro, 0, 0, 4294967295⟩]⟩,
  ⟨"FCAN_RXSTAT", 0x00272000, [(2, 0x8000)], [⟨0, 7, .ro, 0, 0, 127⟩]⟩,
  ⟨"FCAN_RXPOP", 0x00272004, [(2, 0x8000)], [⟨0, 1, .wo, 0, 0, 1⟩]⟩,
  ⟨"FCAN_RXENT", 0x00272010, [(2, 0x8000), (20, 0x4)], [⟨0, 32, .ro, 0, 0, 4294967295⟩]⟩]

/-- Registers of block index 0x28 (Table 22-1). -/
def regBlock28 : List RegDesc := [
  ⟨"FTHM_THR", 0x00280000, [], [⟨16, 8, .rw, 120, 0, 255⟩, ⟨8, 8, .rw, 110, 0, 255⟩, ⟨0, 8, .rw, 100, 0, 255⟩]⟩,
  ⟨"FTHM_HYST", 0x00280004, [], [⟨16, 8, .rw, 5, 0, 255⟩, ⟨8, 8, .rw, 5, 0, 255⟩, ⟨0, 8, .rw, 5, 0, 255⟩]⟩,
  ⟨"FTHM_CFG", 0x00280008, [], [⟨0, 6, .rw, 40, 10, 45⟩]⟩,
  ⟨"FTHM_STAT", 0x0028000C, [], [⟨16, 4, .ro, 0, 0, 15⟩, ⟨6, 1, .ro, 0, 0, 1⟩, ⟨5, 1, .ro, 0, 0, 1⟩, ⟨4, 1, .ro, 0, 0, 1⟩, ⟨2, 2, .ro, 0, 0, 3⟩, ⟨1, 1, .ro, 0, 0, 1⟩, ⟨0, 1, .ro, 0, 0, 1⟩]⟩,
  ⟨"FTHM_PEAK", 0x00280010, [], [⟨16, 4, .rc, 0, 0, 15⟩, ⟨0, 16, .rc, 32768, 0, 65535⟩]⟩,
  ⟨"FTHM_RECCTL", 0x00280014, [], [⟨16, 16, .wo, 0, 0, 65535⟩]⟩,
  ⟨"FTHM_TEMP", 0x00280100, [(12, 0x4)], [⟨31, 1, .ro, 0, 0, 1⟩, ⟨0, 16, .ro, 0, 0, 65535⟩]⟩]

/-- Registers of block index 0x29 (Table 22-1). -/
def regBlock29 : List RegDesc := [
  ⟨"FDIA_INJCTL", 0x00290000, [], [⟨31, 1, .wo, 0, 0, 1⟩, ⟨30, 1, .wo, 0, 0, 1⟩, ⟨28, 2, .ro, 0, 0, 3⟩, ⟨24, 4, .ro, 0, 0, 15⟩, ⟨8, 8, .rw, 0, 0, 255⟩, ⟨0, 8, .rw, 0, 0, 255⟩]⟩,
  ⟨"FDIA_INJPAR", 0x00290004, [], [⟨0, 32, .rw, 0, 0, 4294967295⟩]⟩,
  ⟨"FDIA_INJSTAT", 0x00290008, [], [⟨16, 16, .ro, 0, 0, 65535⟩, ⟨8, 1, .ro, 0, 0, 1⟩, ⟨0, 4, .ro, 0, 0, 15⟩]⟩,
  ⟨"FDIA_CNT", 0x0029000C, [], [⟨16, 16, .rc, 0, 0, 65535⟩, ⟨0, 16, .rc, 0, 0, 65535⟩]⟩,
  ⟨"FDIA_ASHSTAT", 0x00290010, [], [⟨16, 8, .ro, 0, 0, 255⟩, ⟨8, 8, .ro, 0, 0, 255⟩, ⟨0, 2, .ro, 0, 0, 3⟩]⟩,
  ⟨"FDIA_ASHCTL", 0x00290014, [], [⟨0, 1, .wo, 0, 0, 1⟩]⟩,
  ⟨"FDIA_FATAL_LO", 0x00290018, [], [⟨0, 32, .ro, 0, 0, 4294967295⟩]⟩,
  ⟨"FDIA_FATAL_HI", 0x0029001C, [], [⟨0, 32, .ro, 0, 0, 4294967295⟩]⟩]

/-- Registers of block index 0x2A (Table 22-1). -/
def regBlock2A : List RegDesc := [
  ⟨"FSEC_STATE", 0x002A0000, [], [⟨24, 5, .ro, 0, 0, 31⟩, ⟨16, 5, .ro, 9, 0, 31⟩, ⟨9, 1, .ro, 0, 0, 1⟩, ⟨8, 1, .ro, 0, 0, 1⟩, ⟨7, 1, .ro, 0, 0, 1⟩, ⟨5, 1, .ro, 0, 0, 1⟩, ⟨4, 1, .ro, 0, 0, 1⟩, ⟨0, 3, .ro, 2, 0, 7⟩]⟩,
  ⟨"FSEC_UID_LO", 0x002A0004, [], [⟨0, 32, .ro, 0, 0, 4294967295⟩]⟩,
  ⟨"FSEC_UID_HI", 0x002A0008, [], [⟨0, 32, .ro, 0, 0, 4294967295⟩]⟩,
  ⟨"FSEC_DBGCTL", 0x002A000C, [], [⟨0, 1, .wo, 0, 0, 1⟩]⟩,
  ⟨"FSEC_TOKSTAT", 0x002A0010, [], [⟨16, 2, .ro, 0, 0, 3⟩, ⟨8, 8, .ro, 0, 0, 255⟩, ⟨0, 8, .ro, 0, 0, 255⟩]⟩,
  ⟨"FSEC_CFG", 0x002A0014, [], [⟨0, 1, .rw, 0, 0, 1⟩]⟩,
  ⟨"FSEC_PAIRCTL", 0x002A0018, [], [⟨12, 4, .ro, 0, 0, 15⟩, ⟨8, 2, .ro, 0, 0, 3⟩, ⟨0, 1, .wo, 0, 0, 1⟩]⟩,
  ⟨"FSEC_KEYCTL", 0x002A001C, [], [⟨12, 4, .ro, 0, 0, 15⟩, ⟨8, 2, .ro, 0, 0, 3⟩, ⟨4, 3, .rw, 0, 0, 7⟩, ⟨1, 1, .wo, 0, 0, 1⟩, ⟨0, 1, .wo, 0, 0, 1⟩]⟩,
  ⟨"FSEC_FWMINSVN", 0x002A0020, [], [⟨0, 32, .ro, 0, 0, 4294967295⟩]⟩,
  ⟨"FSEC_TRNG", 0x002A0024, [], [⟨8, 8, .ro, 0, 0, 255⟩, ⟨1, 1, .ro, 0, 0, 1⟩, ⟨0, 1, .ro, 0, 0, 1⟩]⟩,
  ⟨"FSEC_TAMPCFG", 0x002A0028, [(2, 0x4)], [⟨1, 1, .rw, 0, 0, 1⟩, ⟨0, 1, .rw, 0, 0, 1⟩]⟩,
  ⟨"FSEC_TAMPSTAT", 0x002A0030, [], [⟨4, 2, .ro, 0, 0, 3⟩, ⟨0, 2, .w1c, 0, 0, 3⟩]⟩,
  ⟨"FSEC_STMTCTL", 0x002A0034, [], [⟨8, 2, .ro, 0, 0, 3⟩, ⟨0, 1, .wo, 0, 0, 1⟩]⟩,
  ⟨"FSEC_CHAL", 0x002A0040, [(4, 0x4)], [⟨0, 32, .ro, 0, 0, 4294967295⟩]⟩,
  ⟨"FSEC_NONCE", 0x002A0050, [(4, 0x4)], [⟨0, 32, .rw, 0, 0, 4294967295⟩]⟩,
  ⟨"FSEC_KEYIN", 0x002A0080, [(12, 0x4)], [⟨0, 32, .wo, 0, 0, 4294967295⟩]⟩,
  ⟨"FSEC_MPUB", 0x002A0100, [(24, 0x4)], [⟨0, 32, .ro, 0, 0, 4294967295⟩]⟩,
  ⟨"FSEC_FPUB", 0x002A0180, [(24, 0x4)], [⟨0, 32, .ro, 0, 0, 4294967295⟩]⟩,
  ⟨"FSEC_STMT", 0x002A0200, [(84, 0x4)], [⟨0, 32, .ro, 0, 0, 4294967295⟩]⟩,
  ⟨"FSEC_PAIRIN", 0x002A0400, [(76, 0x4)], [⟨0, 32, .wo, 0, 0, 4294967295⟩]⟩,
  ⟨"FSEC_PAIROUT", 0x002A0600, [(76, 0x4)], [⟨0, 32, .ro, 0, 0, 4294967295⟩]⟩]

/-- Registers of block index 0x2000 (Table 22-2). -/
def regBlock2000 : List RegDesc := [
  ⟨"HSYS_ID", 0x20000000, [], [⟨16, 16, .ro, 18448, 0, 65535⟩, ⟨8, 8, .ro, 11, 0, 255⟩, ⟨0, 8, .ro, 0, 0, 255⟩]⟩,
  ⟨"HSYS_RSTCAUSE", 0x20000018, [], [⟨6, 1, .w1c, 0, 0, 1⟩, ⟨5, 1, .w1c, 0, 0, 1⟩, ⟨4, 1, .w1c, 0, 0, 1⟩, ⟨3, 1, .w1c, 0, 0, 1⟩, ⟨2, 1, .w1c, 0, 0, 1⟩, ⟨1, 1, .w1c, 0, 0, 1⟩, ⟨0, 1, .w1c, 1, 0, 1⟩]⟩,
  ⟨"HSYS_SWRST", 0x2000001C, [], [⟨16, 16, .wo, 0, 0, 65535⟩, ⟨0, 2, .wo, 0, 0, 3⟩]⟩,
  ⟨"HSYS_WDT", 0x20000020, [], [⟨16, 16, .wo, 0, 0, 65535⟩, ⟨0, 10, .rw, 1000, 1, 1000⟩]⟩,
  ⟨"HSYS_PWRSTAT", 0x20000024, [], [⟨5, 1, .ro, 0, 0, 1⟩, ⟨0, 5, .ro, 3, 0, 31⟩]⟩,
  ⟨"HSYS_BOOTCFG", 0x20000028, [], [⟨0, 2, .rw, 3, 1, 3⟩]⟩,
  ⟨"HSYS_IMGSTAT", 0x2000002C, [], [⟨6, 2, .ro, 0, 0, 3⟩, ⟨4, 2, .ro, 2, 0, 3⟩, ⟨2, 2, .ro, 0, 0, 3⟩, ⟨1, 1, .ro, 0, 0, 1⟩, ⟨0, 1, .ro, 0, 0, 1⟩]⟩,
  ⟨"HSYS_IMGOK", 0x20000030, [], [⟨16, 16, .wo, 0, 0, 65535⟩]⟩,
  ⟨"HSYS_HTC_LO", 0x20000034, [], [⟨0, 32, .ro, 0, 0, 4294967295⟩]⟩,
  ⟨"HSYS_HTC_HI", 0x20000038, [], [⟨0, 32, .ro, 0, 0, 4294967295⟩]⟩]

/-- Registers of block index 0x2001 (Table 22-2). -/
def regBlock2001 : List RegDesc := [
  ⟨"HFLU_LINK", 0x20010000, [], [⟨8, 8, .ro, 0, 0, 255⟩, ⟨3, 1, .ro, 0, 0, 1⟩, ⟨2, 1, .ro, 0, 0, 1⟩, ⟨1, 1, .ro, 0, 0, 1⟩, ⟨0, 1, .ro, 0, 0, 1⟩]⟩,
  ⟨"HFLU_HBCFG", 0x20010004, [], [⟨24, 8, .rw, 20, 5, 255⟩, ⟨16, 1, .rw, 0, 0, 1⟩, ⟨0, 10, .rw, 10, 2, 1000⟩]⟩,
  ⟨"HFLU_HBKICK", 0x20010008, [], [⟨16, 16, .wo, 0, 0, 65535⟩, ⟨0, 8, .wo, 0, 0, 255⟩]⟩,
  ⟨"HFLU_ERR", 0x2001000C, [], [⟨26, 6, .rc, 0, 0, 63⟩, ⟨20, 6, .rc, 0, 0, 63⟩, ⟨12, 8, .rc, 0, 0, 255⟩, ⟨0, 12, .rc, 0, 0, 4095⟩]⟩,
  ⟨"HFLU_BULKWT", 0x20010014, [], [⟨16, 4, .rw, 1, 1, 15⟩, ⟨12, 4, .rw, 1, 0, 15⟩, ⟨8, 4, .rw, 1, 0, 15⟩, ⟨4, 4, .rw, 1, 0, 15⟩, ⟨0, 4, .rw, 12, 0, 15⟩]⟩,
  ⟨"HFLU_CREDIT", 0x20010018, [], [⟨0, 4, .ro, 0, 0, 15⟩, ⟨4, 4, .ro, 0, 0, 15⟩, ⟨8, 4, .ro, 0, 0, 15⟩, ⟨12, 4, .ro, 0, 0, 15⟩, ⟨16, 4, .ro, 0, 0, 15⟩, ⟨20, 4, .ro, 0, 0, 15⟩, ⟨24, 4, .ro, 0, 0, 15⟩, ⟨28, 4, .ro, 0, 0, 15⟩]⟩,
  ⟨"HFLU_TSDLY", 0x2001001C, [], [⟨0, 16, .ro, 0, 0, 65535⟩]⟩,
  ⟨"HFLU_TXWIN", 0x20010100, [(2, 0x40), (16, 0x4)], [⟨0, 32, .wo, 0, 0, 4294967295⟩]⟩]

/-- Registers of block index 0x2002 (Table 22-2). -/
def regBlock2002 : List RegDesc := [
  ⟨"HRNG_BASE_LO", 0x20020000, [(32, 0x40)], [⟨0, 32, .rw, 0, 0, 4294967295⟩]⟩,
  ⟨"HRNG_BASE_HI", 0x20020004, [(32, 0x40)], [⟨0, 32, .rw, 0, 0, 4294967295⟩]⟩,
  ⟨"HRNG_CFG", 0x20020008, [(10, 0x80)], [⟨8, 5, .rw, 4, 4, 16⟩, ⟨6, 1, .rw, 1, 0, 1⟩, ⟨4, 2, .ro, 0, 0, 3⟩, ⟨0, 1, .rw, 0, 0, 1⟩]⟩,
  ⟨"HRNG_CFG", 0x20020048, [(10, 0x80)], [⟨8, 5, .rw, 4, 4, 16⟩, ⟨6, 1, .rw, 0, 0, 1⟩, ⟨4, 2, .ro, 0, 0, 3⟩, ⟨0, 1, .rw, 0, 0, 1⟩]⟩,
  ⟨"HRNG_CFG", 0x20020508, [(7, 0x40)], [⟨8, 5, .rw, 4, 4, 16⟩, ⟨6, 1, .rw, 1, 0, 1⟩, ⟨4, 2, .ro, 0, 0, 3⟩, ⟨0, 1, .rw, 0, 0, 1⟩]⟩,
  ⟨"HRNG_CFG", 0x200206C8, [(5, 0x40)], [⟨8, 5, .rw, 4, 4, 16⟩, ⟨6, 1, .rw, 0, 0, 1⟩, ⟨4, 2, .ro, 0, 0, 3⟩, ⟨0, 1, .rw, 0, 0, 1⟩]⟩,
  ⟨"HRNG_HEAD", 0x2002000C, [(32, 0x40)], [⟨0, 16, .ro, 0, 0, 65535⟩]⟩,
  ⟨"HRNG_TAIL", 0x20020010, [(32, 0x40)], [⟨0, 16, .rw, 0, 0, 65535⟩]⟩,
  ⟨"HRNG_STAT", 0x20020014, [(32, 0x40)], [⟨2, 1, .w1c, 0, 0, 1⟩, ⟨1, 1, .w1c, 0, 0, 1⟩, ⟨0, 1, .w1c, 0, 0, 1⟩]⟩,
  ⟨"HRNG_DROP", 0x20020018, [(32, 0x40)], [⟨0, 16, .rc, 0, 0, 65535⟩]⟩,
  ⟨"HRNG_COAL", 0x2002001C, [(32, 0x40)], [⟨16, 16, .rw, 0, 0, 65535⟩, ⟨0, 8, .rw, 0, 0, 255⟩]⟩]

/-- Registers of block index 0x2003 (Table 22-2). -/
def regBlock2003 : List RegDesc := [
  ⟨"HEVT_SRC", 0x20030000, [(128, 0x4)], [⟨31, 1, .rw, 0, 0, 1⟩, ⟨8, 3, .rw, 0, 0, 7⟩, ⟨0, 4, .rw, 0, 0, 15⟩]⟩,
  ⟨"HEVT_PEND", 0x20030200, [(4, 0x4)], [⟨0, 32, .w1c, 0, 0, 4294967295⟩]⟩,
  ⟨"HEVT_THR", 0x20030300, [(4, 0x8)], [⟨0, 3, .rw, 0, 0, 7⟩]⟩,
  ⟨"HEVT_CLAIM", 0x20030304, [(4, 0x8)], [⟨0, 8, .rw, 0, 0, 255⟩]⟩]

/-- Registers of block index 0x2004 (Table 22-2). -/
def regBlock2004 : List RegDesc := [
  ⟨"HNET_PORT", 0x20040000, [(2, 0x100)], [⟨8, 1, .ro, 0, 0, 1⟩, ⟨4, 2, .ro, 1, 0, 3⟩, ⟨1, 1, .ro, 0, 0, 1⟩, ⟨0, 1, .rw, 1, 0, 1⟩]⟩,
  ⟨"HNET_MAC_LO", 0x20040004, [(2, 0x100)], [⟨0, 32, .rw, 0, 0, 4294967295⟩]⟩,
  ⟨"HNET_MAC_HI", 0x20040008, [(2, 0x100)], [⟨0, 16, .rw, 0, 0, 65535⟩]⟩,
  ⟨"HNET_RXFLT", 0x2004000C, [(2, 0x100)], [⟨8, 3, .rw, 4, 0, 7⟩, ⟨1, 1, .rw, 0, 0, 1⟩, ⟨0, 1, .rw, 0, 0, 1⟩]⟩,
  ⟨"HNET_CNT", 0x20040010, [(2, 0x100)], [⟨16, 16, .rc, 0, 0, 65535⟩, ⟨0, 16, .rc, 0, 0, 65535⟩]⟩]

/-- Registers of block index 0x2005 (Table 22-2). -/
def regBlock2005 : List RegDesc := [
  ⟨"VEH_T1SCFG", 0x20050000, [(4, 0x100)], [⟨24, 8, .rw, 32, 1, 255⟩, ⟨16, 8, .rw, 8, 1, 255⟩, ⟨8, 8, .rw, 0, 0, 255⟩, ⟨1, 1, .rw, 0, 0, 1⟩, ⟨0, 1, .rw, 0, 0, 1⟩]⟩,
  ⟨"VEH_T1SSTAT", 0x20050004, [(4, 0x100)], [⟨8, 1, .ro, 0, 0, 1⟩, ⟨4, 2, .ro, 0, 0, 3⟩, ⟨0, 1, .ro, 0, 0, 1⟩]⟩,
  ⟨"VEH_T1SCNT", 0x20050008, [(4, 0x100)], [⟨16, 16, .rc, 0, 0, 65535⟩, ⟨0, 16, .rc, 0, 0, 65535⟩]⟩,
  ⟨"VEH_CPCFG", 0x20050020, [(4, 0x100)], [⟨8, 8, .rw, 0, 0, 255⟩, ⟨1, 1, .rw, 0, 0, 1⟩, ⟨0, 1, .rw, 0, 0, 1⟩]⟩,
  ⟨"VEH_CPDUTY", 0x20050024, [(4, 0x100)], [⟨0, 10, .rw, 0, 0, 1000⟩]⟩,
  ⟨"VEH_CPMEAS", 0x20050028, [(4, 0x100)], [⟨16, 16, .ro, 32768, 0, 65535⟩, ⟨0, 16, .ro, 32768, 0, 65535⟩]⟩,
  ⟨"VEH_CPSTAT", 0x2005002C, [(4, 0x100)], [⟨16, 10, .ro, 0, 0, 1023⟩, ⟨3, 1, .ro, 0, 0, 1⟩, ⟨0, 3, .ro, 7, 0, 7⟩]⟩,
  ⟨"VEH_PP", 0x20050030, [(4, 0x100)], [⟨0, 16, .ro, 65535, 0, 65535⟩]⟩]

/-- Registers of block index 0x2006 (Table 22-2). -/
def regBlock2006 : List RegDesc := [
  ⟨"HCAN_CTL", 0x20060000, [(2, 0x8000)], [⟨12, 1, .wo, 0, 0, 1⟩, ⟨11, 1, .rw, 0, 0, 1⟩, ⟨10, 1, .rw, 0, 0, 1⟩, ⟨9, 1, .rw, 0, 0, 1⟩, ⟨8, 1, .rw, 0, 0, 1⟩, ⟨7, 1, .rw, 0, 0, 1⟩, ⟨6, 1, .rw, 0, 0, 1⟩, ⟨4, 2, .ro, 0, 0, 3⟩, ⟨0, 1, .rw, 0, 0, 1⟩]⟩,
  ⟨"HCAN_NBT", 0x20060004, [(2, 0x8000)], [⟨24, 8, .rw, 0, 0, 255⟩, ⟨16, 8, .rw, 126, 1, 255⟩, ⟨8, 7, .rw, 31, 1, 127⟩, ⟨0, 7, .rw, 31, 0, 127⟩]⟩,
  ⟨"HCAN_DBT", 0x20060008, [(2, 0x8000)], [⟨31, 1, .rw, 0, 0, 1⟩, ⟨24, 5, .rw, 0, 0, 31⟩, ⟨16, 5, .rw, 10, 0, 31⟩, ⟨8, 4, .rw, 3, 0, 15⟩, ⟨0, 4, .rw, 3, 0, 15⟩]⟩,
  ⟨"HCAN_TDC", 0x2006000C, [(2, 0x8000)], [⟨8, 7, .ro, 0, 0, 127⟩, ⟨0, 7, .rw, 0, 0, 127⟩]⟩,
  ⟨"HCAN_ERR", 0x20060010, [(2, 0x8000)], [⟨24, 1, .ro, 0, 0, 1⟩, ⟨20, 4, .ro, 0, 0, 15⟩, ⟨16, 2, .ro, 0, 0, 3⟩, ⟨8, 8, .ro, 0, 0, 255⟩, ⟨0, 8, .ro, 0, 0, 255⟩]⟩,
  ⟨"HCAN_CNT", 0x20060014, [(2, 0x8000)], [⟨24, 8, .rc, 0, 0, 255⟩, ⟨16, 8, .rc, 0, 0, 255⟩, ⟨8, 8, .rc, 0, 0, 255⟩, ⟨0, 8, .rc, 0, 0, 255⟩]⟩,
  ⟨"HCAN_RETRY", 0x20060018, [(2, 0x8000)], [⟨4, 4, .rw, 3, 0, 15⟩, ⟨0, 4, .rw, 3, 0, 15⟩]⟩,
  ⟨"HCAN_TXB", 0x20060100, [(2, 0x8000), (3, 0x80), (18, 0x4)], [⟨0, 32, .rw, 0, 0, 4294967295⟩]⟩,
  ⟨"HCAN_TXCMD", 0x20060148, [(2, 0x8000), (3, 0x80)], [⟨31, 1, .wo, 0, 0, 1⟩, ⟨30, 1, .wo, 0, 0, 1⟩, ⟨24, 1, .ro, 0, 0, 1⟩, ⟨20, 4, .ro, 0, 0, 15⟩, ⟨16, 4, .ro, 0, 0, 15⟩, ⟨0, 4, .ro, 0, 0, 15⟩]⟩,
  ⟨"HCAN_TXTS", 0x2006014C, [(2, 0x8000), (3, 0x80)], [⟨0, 32, .ro, 0, 0, 4294967295⟩]⟩,
  ⟨"HCAN_MB", 0x20061000, [(2, 0x8000), (16, 0x80), (18, 0x4)], [⟨0, 32, .ro, 0, 0, 4294967295⟩]⟩,
  ⟨"HCAN_MBFLT", 0x20061048, [(2, 0x8000), (16, 0x80)], [⟨0, 29, .rw, 0, 0, 536870911⟩]⟩,
  ⟨"HCAN_MBMASK", 0x2006104C, [(2, 0x8000), (16, 0x80)], [⟨0, 29, .rw, 536870911, 0, 536870911⟩]⟩,
  ⟨"HCAN_MBCFG", 0x20061050, [(2, 0x8000), (16, 0x80)], [⟨5, 1, .rw, 0, 0, 1⟩, ⟨4, 1, .rw, 0, 0, 1⟩, ⟨3, 1, .rw, 0, 0, 1⟩, ⟨0, 2, .rw, 0, 0, 3⟩]⟩,
  ⟨"HCAN_MBSTAT", 0x20061054, [(2, 0x8000), (16, 0x80)], [⟨31, 1, .wo, 0, 0, 1⟩, ⟨8, 8, .ro, 0, 0, 255⟩, ⟨2, 1, .ro, 0, 0, 1⟩, ⟨1, 1, .ro, 0, 0, 1⟩, ⟨0, 1, .ro, 0, 0, 1⟩]⟩,
  ⟨"HCAN_MBTS", 0x20061058, [(2, 0x8000), (16, 0x80)], [⟨0, 32, .ro, 0, 0, 4294967295⟩]⟩,
  ⟨"HCAN_RXSTAT", 0x20062000, [(2, 0x8000)], [⟨0, 7, .ro, 0, 0, 127⟩]⟩]

/-- Registers of block index 0x2007 (Table 22-2). -/
def regBlock2007 : List RegDesc := [
  ⟨"SEC_STATE", 0x20070000, [], [⟨24, 3, .ro, 0, 0, 7⟩, ⟨16, 3, .ro, 1, 0, 7⟩, ⟨10, 1, .ro, 0, 0, 1⟩, ⟨9, 1, .ro, 0, 0, 1⟩, ⟨8, 1, .ro, 0, 0, 1⟩, ⟨7, 1, .ro, 0, 0, 1⟩, ⟨5, 1, .ro, 0, 0, 1⟩, ⟨4, 1, .ro, 0, 0, 1⟩, ⟨0, 3, .ro, 2, 0, 7⟩]⟩,
  ⟨"SEC_UID_LO", 0x20070004, [], [⟨0, 32, .ro, 0, 0, 4294967295⟩]⟩,
  ⟨"SEC_UID_HI", 0x20070008, [], [⟨0, 32, .ro, 0, 0, 4294967295⟩]⟩,
  ⟨"SEC_DBGCTL", 0x2007000C, [], [⟨0, 1, .wo, 0, 0, 1⟩]⟩,
  ⟨"SEC_CMD", 0x20070010, [], [⟨31, 1, .wo, 0, 0, 1⟩, ⟨28, 2, .ro, 0, 0, 3⟩, ⟨16, 8, .ro, 0, 0, 255⟩, ⟨0, 8, .rw, 0, 0, 255⟩]⟩,
  ⟨"SEC_CMDADDR_LO", 0x20070014, [], [⟨0, 32, .rw, 0, 0, 4294967295⟩]⟩,
  ⟨"SEC_CMDADDR_HI", 0x20070018, [], [⟨0, 32, .rw, 0, 0, 4294967295⟩]⟩,
  ⟨"SEC_TRNG", 0x20070020, [], [⟨8, 8, .ro, 0, 0, 255⟩, ⟨1, 1, .ro, 0, 0, 1⟩, ⟨0, 1, .ro, 0, 0, 1⟩]⟩,
  ⟨"SEC_TAMPCFG", 0x20070024, [(2, 0x4)], [⟨1, 1, .rw, 0, 0, 1⟩, ⟨0, 1, .rw, 0, 0, 1⟩]⟩,
  ⟨"SEC_TAMPSTAT", 0x2007002C, [], [⟨4, 2, .ro, 0, 0, 3⟩, ⟨0, 2, .w1c, 0, 0, 3⟩]⟩,
  ⟨"SEC_MONOINC", 0x20070030, [], [⟨0, 4, .wo, 0, 0, 15⟩]⟩,
  ⟨"SEC_TOKSTAT", 0x20070034, [], [⟨16, 2, .ro, 0, 0, 3⟩, ⟨8, 8, .ro, 0, 0, 255⟩, ⟨0, 8, .ro, 0, 0, 255⟩]⟩,
  ⟨"SEC_CHAL", 0x20070040, [(4, 0x4)], [⟨0, 32, .ro, 0, 0, 4294967295⟩]⟩,
  ⟨"SEC_MONO", 0x20070050, [(4, 0x4)], [⟨0, 32, .ro, 0, 0, 4294967295⟩]⟩,
  ⟨"SEC_DPUB", 0x20070080, [(24, 0x4)], [⟨0, 32, .ro, 0, 0, 4294967295⟩]⟩,
  ⟨"SEC_MR", 0x20070100, [(8, 0x40), (12, 0x4)], [⟨0, 32, .ro, 0, 0, 4294967295⟩]⟩]

/-- Registers of block index 0x2008 (Table 22-2). -/
def regBlock2008 : List RegDesc := [
  ⟨"HTHM_THR", 0x20080000, [], [⟨16, 8, .rw, 120, 0, 255⟩, ⟨8, 8, .rw, 110, 0, 255⟩, ⟨0, 8, .rw, 100, 0, 255⟩]⟩,
  ⟨"HTHM_HYST", 0x20080004, [], [⟨16, 8, .rw, 5, 0, 255⟩, ⟨8, 8, .rw, 5, 0, 255⟩, ⟨0, 8, .rw, 5, 0, 255⟩]⟩,
  ⟨"HTHM_CFG", 0x20080008, [], [⟨6, 2, .rw, 1, 0, 3⟩, ⟨4, 2, .rw, 0, 0, 3⟩, ⟨0, 4, .rw, 1, 1, 15⟩]⟩,
  ⟨"HTHM_STAT", 0x2008000C, [], [⟨16, 4, .ro, 0, 0, 15⟩, ⟨6, 1, .ro, 0, 0, 1⟩, ⟨5, 1, .ro, 0, 0, 1⟩, ⟨4, 1, .ro, 0, 0, 1⟩, ⟨2, 2, .ro, 0, 0, 3⟩, ⟨1, 1, .ro, 0, 0, 1⟩, ⟨0, 1, .ro, 0, 0, 1⟩]⟩,
  ⟨"HTHM_PEAK", 0x20080010, [], [⟨16, 4, .rc, 0, 0, 15⟩, ⟨0, 16, .rc, 32768, 0, 65535⟩]⟩,
  ⟨"HTHM_SHUTREC", 0x20080014, [], [⟨31, 1, .ro, 0, 0, 1⟩, ⟨30, 1, .wo, 0, 0, 1⟩, ⟨16, 4, .ro, 0, 0, 15⟩, ⟨0, 16, .ro, 0, 0, 65535⟩]⟩,
  ⟨"HTHM_TEMP", 0x20080100, [(8, 0x4)], [⟨31, 1, .ro, 0, 0, 1⟩, ⟨0, 16, .ro, 0, 0, 65535⟩]⟩]

/-- Registers of block index 0x2009 (Table 22-2). -/
def regBlock2009 : List RegDesc := [
  ⟨"HDIA_INJCTL", 0x20090000, [], [⟨31, 1, .wo, 0, 0, 1⟩, ⟨30, 1, .wo, 0, 0, 1⟩, ⟨28, 2, .ro, 0, 0, 3⟩, ⟨24, 4, .ro, 0, 0, 15⟩, ⟨8, 8, .rw, 0, 0, 255⟩, ⟨0, 8, .rw, 0, 0, 255⟩]⟩,
  ⟨"HDIA_INJPAR", 0x20090004, [], [⟨0, 32, .rw, 0, 0, 4294967295⟩]⟩,
  ⟨"HDIA_INJSTAT", 0x20090008, [], [⟨16, 16, .ro, 0, 0, 65535⟩, ⟨8, 1, .ro, 0, 0, 1⟩, ⟨0, 4, .ro, 0, 0, 15⟩]⟩,
  ⟨"HDIA_JCFG", 0x20090010, [], [⟨16, 16, .rw, 100, 1, 65535⟩]⟩,
  ⟨"HDIA_JSTAT", 0x20090014, [], [⟨8, 8, .ro, 0, 0, 255⟩, ⟨1, 1, .ro, 0, 0, 1⟩, ⟨0, 1, .ro, 0, 0, 1⟩]⟩,
  ⟨"HDIA_JSEQ", 0x20090018, [], [⟨0, 32, .ro, 0, 0, 4294967295⟩]⟩,
  ⟨"HDIA_JCNT", 0x2009001C, [], [⟨16, 16, .rc, 0, 0, 65535⟩, ⟨0, 16, .rc, 0, 0, 65535⟩]⟩,
  ⟨"HDIA_ASHSTAT", 0x20090020, [], [⟨16, 8, .ro, 0, 0, 255⟩, ⟨8, 8, .ro, 0, 0, 255⟩, ⟨0, 3, .ro, 0, 0, 7⟩]⟩,
  ⟨"HDIA_ASHCTL", 0x20090024, [], [⟨1, 1, .wo, 0, 0, 1⟩, ⟨0, 1, .wo, 0, 0, 1⟩]⟩,
  ⟨"HDIA_HELD", 0x20090040, [(4, 0x4)], [⟨0, 32, .ro, 0, 0, 4294967295⟩]⟩,
  ⟨"HDIA_FLOOD", 0x20090050, [(4, 0x4)], [⟨0, 32, .ro, 0, 0, 4294967295⟩]⟩]

/-- Registers of block index 0x200A (Table 22-2). -/
def regBlock200A : List RegDesc := [
  ⟨"HPER_CTL", 0x200A0000, [(10, 0x1000)], [⟨4, 2, .ro, 0, 0, 3⟩, ⟨0, 1, .rw, 0, 0, 1⟩]⟩,
  ⟨"HPER_CFG", 0x200A0004, [(10, 0x1000)], [⟨24, 8, .rw, 0, 0, 255⟩, ⟨0, 20, .rw, 0, 0, 1048575⟩]⟩,
  ⟨"HPER_DMASEL", 0x200A0008, [(10, 0x1000)], [⟨0, 8, .rw, 255, 0, 255⟩]⟩,
  ⟨"HPER_STAT", 0x200A000C, [(10, 0x1000)], [⟨3, 1, .w1c, 0, 0, 1⟩, ⟨2, 1, .w1c, 0, 0, 1⟩, ⟨1, 1, .w1c, 0, 0, 1⟩, ⟨0, 1, .w1c, 0, 0, 1⟩]⟩,
  ⟨"HPER_DATA", 0x200A0010, [(10, 0x1000)], [⟨0, 32, .rw, 0, 0, 4294967295⟩]⟩,
  ⟨"HPER_DIR", 0x200A9014, [], [⟨0, 32, .rw, 0, 0, 4294967295⟩]⟩,
  ⟨"HPER_EVT", 0x200A9018, [], [⟨0, 32, .rw, 0, 0, 4294967295⟩]⟩]

/-- Registers of block index 0x200B (Table 22-2). -/
def regBlock200B : List RegDesc := [
  ⟨"HMEM_ECC", 0x200B0000, [], [⟨24, 8, .rc, 0, 0, 255⟩, ⟨0, 16, .rc, 0, 0, 65535⟩]⟩,
  ⟨"HMEM_ECCADDR", 0x200B0004, [], [⟨0, 32, .ro, 0, 0, 4294967295⟩]⟩,
  ⟨"HMEM_SCRUB", 0x200B0008, [], [⟨0, 8, .rw, 24, 1, 255⟩]⟩,
  ⟨"HMEM_PROT", 0x200B000C, [], [⟨0, 1, .rw, 1, 0, 1⟩]⟩,
  ⟨"HMEM_STAT", 0x200B0010, [], [⟨1, 1, .ro, 0, 0, 1⟩, ⟨0, 1, .ro, 0, 0, 1⟩]⟩]

/-- The registers of the block an address lies in, by its block index (R18). -/
def regsOfBlock : Nat → List RegDesc
  | 0x0 => regBlock0
  | 0x1 => regBlock1
  | 0x2 => regBlock2
  | 0x3 => regBlock3
  | 0x4 => regBlock4
  | 0x5 => regBlock5
  | 0x6 => regBlock6
  | 0x10 => regBlock10
  | 0x11 => regBlock11
  | 0x12 => regBlock12
  | 0x13 => regBlock13
  | 0x14 => regBlock14
  | 0x15 => regBlock15
  | 0x16 => regBlock16
  | 0x18 => regBlock18a ++ regBlock18b
  | 0x19 => regBlock19
  | 0x1A => regBlock1A
  | 0x20 => regBlock20
  | 0x21 => regBlock21
  | 0x24 => regBlock24
  | 0x25 => regBlock25
  | 0x26 => regBlock26a ++ regBlock26b
  | 0x27 => regBlock27
  | 0x28 => regBlock28
  | 0x29 => regBlock29
  | 0x2A => regBlock2A
  | 0x2000 => regBlock2000
  | 0x2001 => regBlock2001
  | 0x2002 => regBlock2002
  | 0x2003 => regBlock2003
  | 0x2004 => regBlock2004
  | 0x2005 => regBlock2005
  | 0x2006 => regBlock2006
  | 0x2007 => regBlock2007
  | 0x2008 => regBlock2008
  | 0x2009 => regBlock2009
  | 0x200A => regBlock200A
  | 0x200B => regBlock200B
  | _ => []

/-- The register at an address (R411, R418); none where the address is reserved by its place (R412). -/
def findReg (addr : Nat) : Option RegDesc :=
  if addr % 4 = 0 then (regsOfBlock (addr / 0x10000)).find? (fun r => r.covers addr) else none

end Sys2Proof.Machine
end

