-- ==== Sys2Proof/Machine/Memory.lean ====
section
/-! DEFINITION. The addressed memories (field staging through the FMP's windows, host SRAM and DRAM): one canonical list of
(address, byte) pairs each, its reads and its writes. -/

namespace Sys2Proof.Machine

/-- An addressed memory: addresses strictly rising, no entry equal to what an unlisted address reads as. -/
abbrev Mem := List Host.Cell

/-- What an address that nothing has written reads as (DESIGN CHOICE, log entry 2: the spec gives RAM no reset contents). -/
def unwrittenByte : Byte := 0

/-- One byte of a memory. -/
def Mem.read : Mem → Nat → Byte
  | [], _ => unwrittenByte
  | (a, b) :: rest, addr => if a = addr then b else Mem.read rest addr

/-- The list without any entry of an address. -/
def Mem.erase : Mem → Nat → Mem
  | [], _ => []
  | (a, b) :: rest, addr => if a = addr then Mem.erase rest addr else (a, b) :: Mem.erase rest addr

/-- The list with the entry of an address put in its place. -/
def Mem.insert : Mem → Nat → Byte → Mem
  | [], addr, v => [(addr, v)]
  | (a, b) :: rest, addr, v =>
    if addr < a then (addr, v) :: (a, b) :: rest
    else if addr = a then (addr, v) :: rest
    else (a, b) :: Mem.insert rest addr v

/-- One byte written; the value an unlisted address reads as leaves no entry. -/
def Mem.write (m : Mem) (addr : Nat) (v : Byte) : Mem :=
  if v = unwrittenByte then Mem.erase m addr else Mem.insert m addr v

/-- `n` bytes from an address upward. -/
def Mem.readBytes (m : Mem) : Nat → Nat → List Byte
  | _, 0 => []
  | addr, n + 1 => Mem.read m addr :: Mem.readBytes m (addr + 1) n

/-- A byte string written from an address upward. -/
def Mem.writeBytes (m : Mem) : Nat → List Byte → Mem
  | _, [] => m
  | addr, b :: bs => Mem.writeBytes (Mem.write m addr b) (addr + 1) bs

/-- A little-endian number of `n` bytes (R5). -/
def Mem.readNat (m : Mem) (addr n : Nat) : Nat := leNat (Mem.readBytes m addr n)

/-- A number written as `n` little-endian bytes (R5). -/
def Mem.writeNat (m : Mem) (addr n v : Nat) : Mem := Mem.writeBytes m addr (leBytes n v)

/-- The canonical form: addresses strictly rising, no entry with the unwritten value. -/
def Mem.wf : Mem → Bool
  | [] => true
  | [(_, b)] => decide (b ≠ unwrittenByte)
  | (a, b) :: (a', b') :: rest => decide (a < a') && decide (b ≠ unwrittenByte) && Mem.wf ((a', b') :: rest)

end Sys2Proof.Machine
end

