-- ==== Sys2Proof/Machine/State.lean ====
section
/-! DEFINITION. The state of the block as plain data: the register file, the memories, the structured state behind the
registers chapter by chapter, and the queue of waiting commands. Every field's default is its value right after reset. -/

namespace Sys2Proof.Machine

/-! ## Messages of the flue and events -/

/-- One flue message: its TYPE (Table 3-5) and its defined payload bytes. -/
structure Msg where
  ty : Nat := 0xFF
  payload : List Byte := []
  deriving DecidableEq, Repr

/-- A held record of the event journal (R403). -/
structure HeldRec where
  src : Nat := 0
  kind : Nat := 0
  count : Nat := 0
  first : Nat := 0
  last : Nat := 0
  data : List Nat := []
  hostTime : Bool := false
  deriving DecidableEq, Repr

/-- A source in flood (R403): the episode's first and last held report, the total of its written records, whether its
FLOOD_BEGIN entry has been written, and the host time of its last report. -/
structure FloodRec where
  src : Nat := 0
  first : Nat := 0
  last : Nat := 0
  total : Nat := 0
  begun : Bool := false
  lastAt : Nat := 0
  kind : Nat := 0
  hostTime : Bool := false
  deriving DecidableEq, Repr

/-- The event router's journal (R401 to R404). -/
structure Journal where
  /-- write allowance, at most 64 (R402) -/
  allowance : Nat := 0
  /-- held records in the order in which they were opened (R403) -/
  held : List HeldRec := []
  flood : List FloodRec := []
  deriving DecidableEq, Repr

/-- Bytes of a bulk cell that wait for a data ring: the message type whose credit is held back, XFER, and whether they begin or
end the transfer. -/
structure BulkWait where
  ring : Nat := 0
  ty : Nat := 0
  xfer : Nat := 0
  sop : Bool := false
  eop : Bool := false
  bytes : List Byte := []
  deriving DecidableEq, Repr

/-- The ring manager's hidden state beside the HRNG registers and the descriptors in host memory (R342 to R345). -/
structure Rings where
  /-- bytes already written to the current descriptor, per ring -/
  fill : List Nat := List.replicate 32 0
  /-- the current descriptor begins a transfer (SOP), per ring -/
  sopOpen : List Bool := List.replicate 32 false
  /-- completions carrying IRQ collected since the last ring event, per ring (R345) -/
  collected : List Nat := List.replicate 32 0
  /-- flue cells waiting for ring 20 and ring 21 (R343), oldest first -/
  wait20 : List (List Byte) := []
  wait21 : List (List Byte) := []
  /-- rings stopped by a descriptor whose OWN reads 0, until the next TAIL write (R342) -/
  stopped : List Bool := List.replicate 32 false
  /-- bulk bytes waiting for rings 22, 23, 25 and 26 -/
  waitBulk : List BulkWait := []
  deriving DecidableEq, Repr

/-! ## Chapter 21: fault injection -/

/-- An active injection (R397): its point, instance and parameter, the uses or the time that are left, and whether a token
permitted it. -/
structure Injection where
  point : Nat := 0
  inst : Nat := 0
  par : Nat := 0
  left : Nat := 0
  byToken : Bool := false
  deriving DecidableEq, Repr

/-- A loaded injection token (Table 21-3). -/
structure InjToken where
  notBefore : Nat := 0
  notAfter : Nat := 0
  points : Nat := 0
  inst : Nat := 0xFF
  count : Nat := 0
  deriving DecidableEq, Repr

/-- Injection on both sides: active injections, tokens, and starts that wait for their tick (R398). -/
structure Inject where
  field : List Injection := []
  host : List Injection := []
  tokenF : Option InjToken := none
  tokenH : Option InjToken := none
  /-- a GO accepted for the next latch -/
  startWaiting : Bool := false
  deriving DecidableEq, Repr

/-! ## Chapter 2: power, reset and the mode machine -/

/-- A mode request that waits (R30, R63). -/
structure ModeReq where
  target : Nat := 0
  rearm : Bool := false
  ack : Bool := false
  /-- the flue TAG to answer, none for a request through FSYS_MODEREQ -/
  tag : Option Nat := none
  deriving DecidableEq, Repr

/-- Supplies, held resets and the inputs of the mode evaluation (R27 to R31, R33 to R38). -/
structure Power where
  /-- VAUXF and VAUXH supply F0 and H0; otherwise VBATF and VBATH do (R422) -/
  auxF : Bool := true
  auxH : Bool := true
  /-- F0 or H0 has been without both of its supplies since its side was last released -/
  f0Lost : Bool := false
  h0Lost : Bool := false
  /-- the side is held in reset -/
  fHeld : Bool := false
  hHeld : Bool := false
  /-- the pending mode request (R63) -/
  req : Option ModeReq := none
  /-- engagement as it stood after the output evaluations of the previous S (R27) -/
  engaged : Bool := false
  /-- conditions that wait for the mode evaluation at S: device-level trip, quench order, T_auto and QUENCH limit expired -/
  tripPend : Bool := false
  quenchPend : Bool := false
  autoExpired : Bool := false
  quenchExpired : Bool := false
  /-- QUENCH was entered, or entered again, from a thermal shutdown (Table 2-2) -/
  quenchThermal : Bool := false
  fmpRestart : Bool := false
  /-- non-maskable interrupts raised by watchdog stage 1 and not yet serviced -/
  nmiF : Bool := false
  nmiH : Bool := false
  /-- the boot in progress: F1 to F4 were reset and KINDLING has not ended (R39) -/
  bootF : Bool := true
  /-- events raised after the next boot (R44): event number, KIND, none where the spec gives none, and data -/
  bootEvents : List (Nat × Option Nat × List Nat) := []
  /-- CTR drains, or stands DISABLED, for a mode in which it is not live (R42) -/
  ctrHold : Bool := false
  deriving DecidableEq, Repr

/-! ## Chapter 3: the flue -/

/-- One direction of the flue: the sender's counters and queues and the receiver's (R45 to R53). Lists have one element per
queue 0 to 7. -/
structure FlueDir where
  /-- slot number mod 64 (R51) -/
  slot : Nat := 0
  /-- SEQ of the next cell to send -/
  seq : List Nat := List.replicate 8 0
  /-- last CRF received for the queue -/
  crf : List Nat := List.replicate 8 0
  /-- waiting messages -/
  queue : List (List Msg) := List.replicate 8 []
  /-- the SAFETY message whose DUP copy is still to be sent (R53) -/
  dup : Option Msg := none
  /-- bulk round robin: queue 3 to 7 now visited and cells sent in the visit (R51) -/
  rrQueue : Nat := 3
  rrSent : Nat := 0
  /-- receiver: next expected SEQ and cumulative freed count of each queue -/
  expSeq : List Nat := List.replicate 8 0
  freed : List Nat := List.replicate 8 0
  /-- receiver: queues whose freed count changed since it was last reported -/
  changed : List Bool := List.replicate 8 false
  /-- receiver: next queue of the report rotation, and the queue last reported for a change (R50) -/
  rot : Nat := 0
  turn : Nat := 7
  xcBusy : Bool := false
  /-- receiver: the payload of the first SAFETY copy accepted, awaiting its DUP copy (R53) -/
  lastSafety : Option Msg := none
  /-- consecutive failed cells and failed trainings per lane (R46, R47) -/
  failRun : List Nat := [0, 0]
  trainFails : List Nat := [0, 0]
  single : Bool := false
  /-- the bytes of the last cell sent -/
  lastCell : List Byte := []
  /-- a SEQ gap marked the bulk transfer of queue 3 to 7 as damaged (R55), index q − 3 -/
  damaged : List Bool := List.replicate 5 false
  /-- cells accepted and not yet taken by the command that acts on them; their buffers are not freed yet -/
  accepted : List (List Byte) := []
  deriving DecidableEq, Repr

/-- A request accepted on the CONTROL class: its entries are (address or target number, value) pairs (R58, R59). -/
structure CtlReq where
  tag : Nat := 0
  ty : Nat := 0
  count : Nat := 0
  entries : List (Nat × Nat) := []
  /-- COUNT or LEN broke the format -/
  badFormat : Bool := false
  deriving DecidableEq, Repr

/-- A request after its checks, waiting for its PARAM_RSP at W: STATUS and INDEX (Table 3-6). -/
structure CtlDone where
  req : CtlReq := {}
  status : Nat := 0
  index : Nat := 0xFF
  deriving DecidableEq, Repr

/-- A kept pair of R62 with its response. -/
structure KeptRsp where
  tag : Nat := 0
  ty : Nat := 0
  rsp : Msg := {}
  deriving DecidableEq, Repr

/-- Both endpoints (FFLU and HFLU). -/
structure Flue where
  up : Bool := false
  /-- host to field -/
  h2f : FlueDir := {}
  /-- field to host -/
  f2h : FlueDir := {}
  /-- requests accepted and waiting for the latch of their tick -/
  reqs : List CtlReq := []
  /-- requests checked at the latch and answered at W -/
  done : List CtlDone := []
  /-- the 16 most recent pairs, newest first (R62) -/
  kept : List KeptRsp := []
  /-- step count of the last accepted HEARTBEAT and of the entry to AUTONOMOUS (R65) -/
  hbAt : Nat := 0
  autoAt : Nat := 0
  /-- HBSEQ of the hardware generator and the kick (R64) -/
  hbSeq : Nat := 0
  kickAt : Option Nat := none
  hostState : Nat := 0
  /-- host time of the last accepted HB_ACK, and whether event 74 stands raised (R67) -/
  ackAt : Nat := 0
  lostRaised : Bool := false
  /-- host stamp and STC of the last TIME_SYNC (R57) -/
  tsHost : Nat := 0
  tsStc : Nat := 0
  /-- events with full data kept while the link is down (R404), oldest first, as Table 21-4 entries -/
  keptEvents : List (List Byte) := []
  /-- bytes of the two HFLU_TXWIN windows -/
  txwin0 : List Byte := []
  txwin1 : List Byte := []
  deriving DecidableEq, Repr

/-- A MEASMAP record (Table 10-1). -/
structure MeasRec where
  slot : Nat := 0
  path : Nat := 0
  src : Nat := 0
  index : Nat := 0
  clk : Nat := 0
  shift : Int := 0
  gain : Int := 0
  offset : Int := 0
  deriving DecidableEq, Repr

/-- A coil record of CTRSEQ (Table 10-3). -/
structure CoilRec where
  coil : Nat := 0
  fb : Nat := 0xFF
  fpol : Bool := false
  fbdeb : Nat := 0
  tclose : Nat := 1
  topen : Nat := 1
  va : Nat := 0xFFFF
  vb : Nat := 0xFFFF
  vclose : Nat := 0
  vpres : Nat := 0
  deriving DecidableEq, Repr

/-- A sequence record of CTRSEQ. -/
structure SeqRec where
  seq : Nat := 0
  failSeq : Nat := 0xFF
  first : Nat := 0
  nsteps : Nat := 1
  deriving DecidableEq, Repr

/-- A step record of CTRSEQ; `arg` is a coil or a signal. -/
structure StepRec where
  op : Nat := 0
  arg : Nat := 0
  time : Nat := 0
  value : Nat := 0
  deriving DecidableEq, Repr

/-- An interlock record of CTRSEQ. -/
structure IlkRec where
  a : Nat := 0
  b : Nat := 0
  require : Bool := false
  deriving DecidableEq, Repr

/-- The CTRSEQ section. -/
structure CtrDef where
  coils : List CoilRec := []
  seqs : List SeqRec := []
  steps : List StepRec := []
  ilks : List IlkRec := []
  deriving DecidableEq, Repr

/-! ## Chapter 4: the structure stream's sections, as records -/

/-- TIMING (Table 4-6). -/
structure Timing where
  tick : Nat := 0
  phase : Nat := 0
  w : Nat := 0
  osr : Nat := 0
  base : Nat := 0
  preset : Nat := 0
  div : List Nat := []
  deriving DecidableEq, Repr

/-- A PERM record (Table 4-7). -/
structure Perm where
  first : Nat := 0
  last : Nat := 0
  rdModes : Nat := 0
  wrModes : Nat := 0
  wmask : Nat := 0
  deriving DecidableEq, Repr

/-- A TARGETS record (Table 4-8). -/
structure Target where
  number : Nat := 0
  kind : Nat := 0
  dest : Nat := 0
  min : Int := 0
  max : Int := 0
  dflt : Int := 0
  wrModes : Nat := 0
  deriving DecidableEq, Repr

/-- A PRESET record (Table 4-10). -/
structure Preset where
  dblk : Nat := 0
  op : Nat := 0
  didx : Nat := 0
  sblk : Nat := 0
  sidx : Nat := 0
  const : Int := 0
  deriving DecidableEq, Repr

/-- A REGINIT record (Table 4-11). -/
structure RegInit where
  addr : Nat := 0
  mask : Nat := 0
  value : Nat := 0
  deriving DecidableEq, Repr

/-- A PADFN record. -/
structure PadFn where
  group : Nat := 0
  fn : Nat := 0
  deriving DecidableEq, Repr

/-- One CE instruction (Table 6-7). -/
structure CeOp where
  op : Nat := 0
  a : CeArgs := {}
  deriving DecidableEq, Repr

/-- A SUBRATE record (Table 4-9) with its code; `period` is N, or for an STC-gated slot the period R21 gives it, 0 where it has
no fixed phase. -/
structure SubSlot where
  slot : Nat := 0
  kind : Nat := 0
  n : Nat := 0
  phase : Nat := 0
  cyc : Nat := 0
  entry : Nat := 0
  code : List CeOp := []
  deriving DecidableEq, Repr

/-- A matrix descriptor of COEFF (Table 6-6). -/
structure Mat where
  rows : Nat := 0
  cols : Nat := 0
  first : Nat := 0
  oshFirst : Nat := 0
  deriving DecidableEq, Repr

/-- A block record of BLOCKS (Table 7-2). -/
structure Blk where
  blk : Nat := 0
  law : Nat := 0
  nvar : Nat := 0
  track : Bool := false
  manInit : Bool := false
  xbase : Nat := 0
  nx : Nat := 0
  ybase : Nat := 0
  ny : Nat := 0
  ubase : Nat := 0
  nu : Nat := 0
  manBase : Nat := 0xFFFF
  ni : Nat := 0
  wbase : Nat := 0
  nw : Nat := 0
  slot : Nat := 0xFF
  deriving DecidableEq, Repr

/-- A variant record (Table 7-3). -/
structure Var where
  key : Nat := 0
  blk : Nat := 0
  index : Nat := 0
  roles : List Nat := []
  deriving DecidableEq, Repr

/-- A generator record (Table 7-7). -/
structure Gen where
  gen : Nat := 0
  rmax : Nat := 0
  jmax : Nat := 0
  init : Int := 0
  deriving DecidableEq, Repr

/-- A supervisor record (Table 7-11). -/
structure Sup where
  sup : Nat := 0
  kind : Nat := 0
  unit : Nat := 0
  limit : Nat := 0
  timer : Nat := 0
  deriving DecidableEq, Repr

/-- A feed-forward table (Table 7-8). -/
structure FfTab where
  x0 : Int := 0
  xshift : Nat := 0
  mode : Nat := 0
  dead : Nat := 0
  points : List Int := []
  deriving DecidableEq, Repr

/-- A DETMAP block record (Table 8-2). -/
structure DetBlk where
  blk : Nat := 0
  cwin : Nat := 0
  quorum : Nat := 0
  shed : Bool := false
  outmask : Nat := 0
  deriving DecidableEq, Repr

/-- A detector record (Table 8-3). -/
structure Det where
  det : Nat := 0
  blk : Nat := 0
  meas : Nat := 0
  thr : Nat := 0
  n : Nat := 0
  mod : Nat := 0
  fallback : Nat := 0
  classify : Bool := false
  hwsel : Bool := false
  est : Nat := 0
  bal : Nat := 0
  agree : Nat := 0
  openTol : Nat := 0
  imin : Nat := 0
  deriving DecidableEq, Repr

/-- A variant attribute (Table 8-4). -/
structure VarAttr where
  blk : Nat := 0
  index : Nat := 0
  bumpless : Bool := false
  degraded : Bool := false
  active : Nat := 0
  cap : List Nat := []
  excl : Nat := 0
  deriving DecidableEq, Repr

/-- A map entry (Table 8-5). -/
structure MapEntry where
  blk : Nat := 0
  det : Nat := 0
  outcome : Nat := 0
  src : Nat := 0
  dst : Nat := 0
  deriving DecidableEq, Repr

/-- A module record (Table 8-5). -/
structure ModRec where
  blk : Nat := 0
  mod : Nat := 0
  group : Nat := 0
  legs : Nat := 0
  il : List Nat := []
  deriving DecidableEq, Repr

/-- A row of the loss table (Table 8-6). -/
structure LossRow where
  blk : Nat := 0
  count : Nat := 0
  cardiv : Nat := 0
  pmin : Nat := 0
  pmax : Nat := 0
  deriving DecidableEq, Repr

/-- A LEGMAP record (Table 9-1). -/
structure LegRec where
  leg : Nat := 0
  blk : Nat := 0
  cls : Nat := 0
  axis : Nat := 0
  mode : Nat := 0
  policy : Nat := 0
  per : Nat := 0
  gofs : Nat := 0
  lofs : Nat := 0
  dtr : Nat := 0
  dtf : Nat := 0
  tmin : Nat := 0
  deriving DecidableEq, Repr

/-- A TRIPMAT input record (Table 9-7). -/
structure TripRec where
  action : Nat := 0
  filt : Nat := 0
  legMask : Nat := 0
  outMask : Nat := 0
  deriving DecidableEq, Repr

/-- An ACTMAP record (Table 9-2). -/
structure ActRec where
  slot : Nat := 0
  kind : Nat := 0
  dest : Nat := 0
  fmt : Nat := 0
  deriving DecidableEq, Repr

/-- A structure stream after expansion: what a bank holds (R69), with the raw sections that R92 compares. -/
structure StreamData where
  id : Nat := 0
  svn : Nat := 0
  digest : List Byte := []
  timingRaw : List Byte := []
  legmapRaw : List Byte := []
  padfnRaw : List Byte := []
  timing : Timing := {}
  tmeas : Nat := 0
  lcm : Nat := 1
  worst : Nat := 0
  legs : List LegRec := []
  trips : List TripRec := []
  patterns : List Nat := []
  acts : List ActRec := []
  perms : List Perm := []
  targets : List Target := []
  slots : List SubSlot := []
  presets : List Preset := []
  regInits : List RegInit := []
  padFns : List PadFn := []
  mats : List Mat := []
  coefs : List Nat := []
  oshs : List Nat := []
  main : List CeOp := []
  blks : List Blk := []
  vars : List Var := []
  gens : List Gen := []
  sups : List Sup := []
  ffs : List FfTab := []
  detBlks : List DetBlk := []
  dets : List Det := []
  attrs : List VarAttr := []
  maps : List MapEntry := []
  mods : List ModRec := []
  hyst : Nat := 0
  dwell : Nat := 0
  loss : List LossRow := []
  /-- balancing derate points (T in 0.1 °C, LIM in %), empty for the default of R334 -/
  balTab : List (Int × Nat) := []
  meas : List MeasRec := []
  /-- the metering MEASMAP records in slot order, as R85 digests them -/
  bindRaw : List Byte := []
  ctr : CtrDef := {}
  deriving DecidableEq, Repr

/-- A NOR stream slot (R71): its image and its mark record. -/
structure NorSlot where
  img : List Byte := []
  marked : Bool := false
  gen : Nat := 0
  deriving DecidableEq, Repr

/-- An IMAGE transfer in progress (R86): XFER, the LENGTH of its BEGIN, and in RECOVERY the NOR slot it goes to (R88). -/
structure ImgXfer where
  xfer : Nat := 0
  len : Nat := 0
  slot : Option Nat := none
  deriving DecidableEq, Repr

/-- The loader beside the STS registers (chapter 4): the two banks, the NOR slots, STS_MINSVN as field NOR holds it, the transfer
in progress with its bytes in RECOVERY, the image being validated with its NOR slot in RECOVERY, and a persist in progress. -/
structure Sts where
  banks : List StreamData := [{}, {}]
  slots : List NorSlot := [{}, {}]
  minSvn : Nat := 0
  rx : Option ImgXfer := none
  rxMem : Mem := []
  image : List Byte := []
  imageSlot : Option Nat := none
  persist : Option (List Byte) := none
  deriving DecidableEq, Repr

/-! ## Chapter 5: site time -/

/-- The STC, its sources and its servo (R95 to R111), and the two time counters beside it. -/
structure SiteTime where
  /-- the STC in 2.5 ns steps since the site epoch (R95, R97: the step count Q) -/
  q : Nat := 0
  /-- F0 time counter in 2.5 ns steps (R96) -/
  f0 : Nat := 0
  /-- host time counter in 2.5 ns steps (HSYS_HTC) -/
  hq : Nat := 0
  /-- RTC of H0 in 2.5 ns steps (Table 2-3) -/
  rtc : Nat := 0
  /-- highest whole STC millisecond acted on (R104) -/
  lastMs : Nat := 0
  ePrev : Int := 0
  p : Int := 0
  f : Int := 0
  /-- no sample since FREERUN or HOLDOVER (R102) -/
  first : Bool := true
  /-- the sample of a step that waits for the next S: its phase error in 1/16 ns, and whether a seconds setting asks for it -/
  step : Option (Int × Bool) := none
  /-- the last whole second acted on -/
  lastSec : Option Nat := none
  /-- armed seconds setting (R109) -/
  setSec : Option Nat := none
  /-- consecutive accepted in-window edges, consecutive seconds without one, capture of the last accepted edge (ns) -/
  ppsRun : Nat := 0
  ppsMissRun : Nat := 0
  ppsLast : Option Nat := none
  /-- samples of PTP ports 0 and 1 without a gap above 3.0 s (R99) -/
  ptpRun : List Nat := [0, 0]
  /-- consecutive samples with |e| ≤ 1,000 ns (Table 5-4) -/
  okRun : Nat := 0
  /-- |e| at entry to HOLDOVER and the step count there (R106) -/
  holdErr : Nat := 0
  holdAt : Nat := 0
  /-- STC_ESTERR stands at or above ERRLIM, as it does in FREERUN from the start: no rise to it is to come (R106) -/
  errHigh : Bool := true
  ppsOut : Bool := false
  /-- Pdelay_Req messages sent per field port, and messages the FMP still has to process are its own -/
  pdelaySeq : List Nat := [0, 0]
  deriving DecidableEq, Repr

/-! ## Chapters 6 and 7: the control engine and the laws -/

/-- One row of the accumulator file (R120, R121). -/
structure AccRow where
  acc : Int := 0
  sat : Bool := false
  /-- index of the row's output-shift byte in the matrix that initialised it -/
  osh : Nat := 0
  deriving DecidableEq, Repr

/-- A slew generator: its rate and its target; its value is signal 0x180 + g (R142, R143). -/
structure GenRt where
  rate : Int := 0
  target : Int := 0
  deriving DecidableEq, Repr

/-- A motion axis beside its LAW registers (R147 to R150). -/
structure AxisRt where
  a : Bool := false
  b : Bool := false
  z : Bool := false
  cnt : Int := 0
  /-- counts at the last S and before, newest first -/
  atS : List Int := []
  zref : Int := 0
  faultPend : Bool := false
  deriving DecidableEq, Repr

/-- The control engine: signal memory, snapshot, accumulators, section memory, and the code still to run in the tick. -/
structure Ce where
  /-- signals 0x000 to 0x3FF (Table 6-4) -/
  sig : List Int := List.replicate 1024 0
  /-- the snapshot taken at W (R113) -/
  snap : List Int := List.replicate 1024 0
  acc : List AccRow := List.replicate 256 {}
  /-- biquad sections: s1 and s2 -/
  bq : List (Int × Int) := List.replicate 512 (0, 0)
  /-- section states at the last W (LAW_BQS1, LAW_BQS2) -/
  bqSnap : List (Int × Int) := List.replicate 512 (0, 0)
  satcnt : List Nat := List.replicate 1024 0
  /-- instructions of the present tick that have not run yet (R114) -/
  todo : List CeOp := []
  /-- words found uncorrectable since the bank became active (R125) -/
  bad : List CeWord := []
  /-- tick index k of the last S (R97) -/
  k : Nat := 0
  /-- a STEP of CEN_DBG that waits for the next S, and the single tick it runs -/
  stepReq : Bool := false
  stepping : Bool := false
  /-- S of the present tick has passed and its latch has not; its latch has passed and W has not -/
  latchDue : Bool := false
  wDue : Bool := false
  /-- the CE runs in the present tick (R115) -/
  runTick : Bool := false
  /-- the next whole STC millisecond whose STC-gated slots have not run, and whether they run in the present tick (R21, R104) -/
  gateNext : Nat := 0
  gateDue : Bool := false
  /-- MAN in force and MAN as requested up to the last S, per block (R135) -/
  man : List Bool := List.replicate 8 false
  manReq : List Bool := List.replicate 8 false
  /-- the present tick is the block's transfer tick (R136, R140, R157) -/
  xfer : List Bool := List.replicate 8 false
  gens : List GenRt := List.replicate 64 {}
  axes : List AxisRt := List.replicate 4 {}
  /-- present values of the targets, by number (R78, R94) -/
  targets : List (Nat × Int) := []
  /-- the present tick is the swap tick -/
  swapTick : Bool := false
  /-- the PRESET work that this swap tick runs before its program (R80) -/
  presets : List (Nat × Nat × Int) := []
  deriving DecidableEq, Repr

/-- One block's degraded-operation state beside its DGR registers (chapter 8). -/
structure DgrBlk where
  /-- index of the active variant -/
  active : Nat := 0
  /-- index that takes effect at the next S, with KIND of its event 22 -/
  pend : Option (Nat × Nat) := none
  /-- open window: detector; it waits for the change tick while `winWait` -/
  win : Option Nat := none
  winWait : Bool := false
  agree : Nat := 0
  opened : Nat := 0
  ticks : Nat := 0
  queued : Option Nat := none
  /-- a software request that waits for its W: key and whether it is shedding -/
  req : Option (Nat × Bool) := none
  /-- 10 ms periods since the last shedding change (R168), and the CARDIV wanted -/
  dwell : Nat := 0
  deriving DecidableEq, Repr

/-- One detector's count and trigger (R153). -/
structure DetRt where
  cnt : Nat := 0
  trig : Bool := false
  deriving DecidableEq, Repr

/-- One leg group's imbalance sum over the present second (R166). -/
structure ImbRt where
  sum : Nat := 0
  n : Nat := 0
  high : Bool := false
  deriving DecidableEq, Repr

/-- The DGR block. -/
structure Dgr where
  blk : List DgrBlk := List.replicate 8 {}
  det : List DetRt := List.replicate 192 {}
  imb : List ImbRt := List.replicate 20 {}
  deriving DecidableEq, Repr

/-! ## Chapter 9: PWM and trip array -/

/-- One leg beside its PWM registers. Times are in fine units of the step count (64 per 2.5 ns step). -/
structure LegRt where
  /-- start of the present period, and its length -/
  t0 : Nat := 0
  p : Nat := 0
  /-- carrier multiple in force (R173) -/
  div : Nat := 1
  /-- duty in force -/
  duty : Nat := 0
  carry : Int := 0
  /-- the plan of the period: PWM_A high from ah0 to ah1, PWM_B low from bl0 to bl1 -/
  ah0 : Nat := 0
  ah1 : Nat := 0
  bl0 : Nat := 0
  bl1 : Nat := 0
  /-- the pads follow the plan; otherwise they stand at levels (padA, padB) -/
  edges : Bool := false
  padA : Bool := false
  padB : Bool := false
  /-- earliest times at which A and B may be high (R176) -/
  aOn : Nat := 0
  bOn : Nat := 0
  /-- high times of the pads in the present period up to `seen` -/
  accA : Nat := 0
  accB : Nat := 0
  seen : Nat := 0
  /-- tabulated policy in force (R180) -/
  tab : Bool := false
  /-- force values applied at the last period start (R183) -/
  fa : Nat := 0
  fb : Nat := 0
  /-- released by the trip array, with TRP event 12 still to come at its resumption (R189) -/
  owed : Bool := false
  deriving DecidableEq, Repr

/-- One trip input: when its pad last fell and rose (STC ns), and whether it waits for its qualification. -/
structure TripRt where
  /-- the pad is low -/
  low : Bool := false
  fell : Nat := 0
  rose : Nat := 0
  /-- it acts and has not qualified -/
  waits : Bool := false
  deriving DecidableEq, Repr

/-- PWM and trip array. -/
structure Pwm where
  legs : List LegRt := List.replicate 80 {}
  inputs : List TripRt := List.replicate 96 {}
  /-- pending CARDIV per group, and whether the S of its change tick has come (R173) -/
  divPend : List (Option Nat) := List.replicate 20 none
  divDue : List Bool := List.replicate 20 false
  /-- trigger positions in force, 4 per group -/
  trgPos : List Nat := List.replicate 80 0
  /-- period number of the last firing, 4 per group (in fine units of its period start) -/
  trgLast : List Nat := List.replicate 80 0
  /-- STC ns up to which each TRGOUT pad is high -/
  trgOut : List Nat := List.replicate 8 0
  /-- SYNC_IN: correction δ, consecutive good edges -/
  delta : Int := 0
  syncRun : Nat := 0
  /-- S of the last tick, in steps -/
  lastS : Nat := 0
  deriving DecidableEq, Repr

/-! ## Chapter 10: sensors, contactors, insulation monitors and telemetry -/

/-- The impulse guard of one scanned input: its last two output samples and its run (R203). -/
structure GuardRt where
  x1 : Int := 0
  x2 : Int := 0
  run : Nat := 0
  deriving DecidableEq, Repr

/-- One fallback sample of a channel: its stamp in STC ns, its value, and whether the conversion was at full scale (R262, R266). -/
structure FbSample where
  stamp : Nat := 0
  value : Int := 0
  full : Bool := false
  deriving DecidableEq, Repr

/-- The two fallback converters (R199 to R203). Scanned inputs are numbered 0 to 31 channels, 32 to 63 temperature inputs, 64
to 67 insulation sense inputs. -/
structure Fba where
  /-- 0.5 µs slots that each converter has begun -/
  slot : List Nat := [0, 0]
  /-- channels of the control conversions still to make in the tick -/
  ctlTodo : List (List Nat) := [[], []]
  /-- rest of the triggered sequence in progress, and queued starts -/
  trigTodo : List (List Nat) := [[], []]
  starts : List Nat := [0, 0]
  /-- last control, triggered and background result of each channel -/
  ctl : List Int := List.replicate 32 0
  trig : List Int := List.replicate 32 0
  back : List Int := List.replicate 32 0
  /-- background samples of the channels at 16 kS/s, newest first (R262) -/
  hist : List (List FbSample) := List.replicate 32 []
  /-- integrators (R202) -/
  y : List Int := List.replicate 32 0
  /-- the due instant that each scanned input was last converted for, counted from 1 -/
  dueDone : List Nat := List.replicate 68 0
  guards : List GuardRt := List.replicate 68 {}
  deriving DecidableEq, Repr

/-- One sequencer engine beside its CTR_ENG register (R205 to R210). -/
structure EngRt where
  /-- the definitions in force at its start (R91) -/
  defs : CtrDef := {}
  /-- the sequence started, the sequence it runs now (a FAILSEQ while it recovers), and the step within it -/
  started : Nat := 0
  seq : Nat := 0
  step : Nat := 0
  /-- the present step has not begun -/
  fresh : Bool := false
  /-- a W has met the step's condition, or its weld check -/
  met : Bool := false
  deriving DecidableEq, Repr

/-- The contactor sequencer: engines, and samples for which each coil's feedback has differed from its debounced state. -/
structure Ctr where
  eng : List EngRt := List.replicate 8 {}
  differ : List Nat := List.replicate 48 0
  /-- raw feedback levels last sampled, none before the first sample -/
  raw : Option Nat := none
  deriving DecidableEq, Repr

/-- One insulation monitor channel (R211, R212). -/
structure ImdRt where
  /-- STC ns of the first high half, and the number of the present half period (even: high) -/
  first : Nat := 0
  half : Nat := 0
  /-- the last 16 sense samples, newest first -/
  samples : List Int := []
  /-- settled mean of the last high half -/
  xp : Option Int := none
  unsettled : Nat := 0
  low : Nat := 0
  high : Nat := 0
  deriving DecidableEq, Repr

/-- One telemetry quantity: sums and counts of the present 1 ms, 100 ms and 1 s spans (R215). -/
structure TlmQ where
  sum : List Int := [0, 0, 0]
  n : List Nat := [0, 0, 0]
  deriving DecidableEq, Repr

/-- Telemetry: 4 quantities of 25 units, the STC millisecond of the present span, and that of unit 24. -/
structure Tlm where
  q : List TlmQ := List.replicate 100 {}
  ms : Nat := 0
  acMs : Nat := 0
  /-- the last instant of unit 24's span has been processed -/
  acFull : Bool := false
  deriving DecidableEq, Repr

/-! ## Chapter 11: site sharing and the damper -/

/-- One entry of a demand record (R230). -/
structure ShrEntry where
  req : Nat := 0
  flr : Nat := 0
  cls : Nat := 0
  deriving DecidableEq, Repr

/-- A demand record: what the allocation uses of it, and its bytes 0 to 127. -/
structure ShrRec where
  dev : Nat := 0
  frame : Nat := 0
  draw : Int := 0
  poc : Int := 0
  mvalid : Bool := false
  disc : Nat := 0
  /-- sum of REQ and CHG, sum of RAMP and CHGRAMP (R229) -/
  rt : Nat := 0
  rs : Nat := 0
  entries : List ShrEntry := []
  bytes : List Byte := []
  deriving DecidableEq, Repr

/-- An allocation the device computed (R230). -/
structure ShrAlloc where
  frame : Nat := 0
  a : List Nat := [0, 0, 0, 0]
  c : Nat := 0
  disc : Nat := 0
  deriving DecidableEq, Repr

/-- One member: its last used record (R229) and its run of missing frames. -/
structure ShrMember where
  lastf : Nat := 0
  rt : Nat := 0
  rs : Nat := 0
  la : Nat := 0
  run : Nat := 0
  missReported : Bool := false
  cfgReported : Bool := false
  deriving DecidableEq, Repr

/-- One millisecond of point-of-connection samples (R226). -/
structure PocSpan where
  ms : Nat := 0
  sum : Int := 0
  n : Nat := 0
  deriving DecidableEq, Repr

/-- A guard sample that waits for its latch (R233, R235): due instant, power, sample instant. -/
structure GuardSample where
  due : Nat := 0
  p : Int := 0
  inst : Nat := 0
  deriving DecidableEq, Repr

/-- SHR beside its registers. -/
structure Shr where
  /-- the frame now running, its own record, and whether one was formed -/
  frame : Nat := 0
  own : Option ShrRec := none
  /-- records used in the frame, and members with conflicting copies -/
  used : List ShrRec := []
  conflict : List Nat := []
  /-- records received that name a later frame -/
  early : List (List Byte) := []
  /-- the allocation last computed, with whether it substituted a member; the one in force; own entries below their floor -/
  comp : Option ShrAlloc := none
  subst : Bool := false
  force : ShrAlloc := {}
  starved : Bool := false
  shortSup : Bool := false
  /-- T0 of a hand-off that waits for its latch -/
  hand : Option Nat := none
  /-- d of the last computed allocation, and o of the last one with a valid M -/
  lastD : Int := 0
  lastO : Int := 0
  members : List ShrMember := List.replicate 32 {}
  /-- armed change of R219: limit, margin, member mask, frame -/
  armed : Option (Nat × Nat × Nat × Nat) := none
  rampPrev : List Nat := [0, 0, 0, 0]
  /-- group key slots 0 and 1, with the highest FRAME sent under each (R224) -/
  keys : List (Option (List Byte)) := [none, none]
  sent : List (Option Nat) := [none, none]
  /-- guard window, newest first; samples that wait; start of the episode -/
  win : List Int := []
  waiting : List GuardSample := []
  episode : Option Nat := none
  /-- the POC stream has been valid since this STC ns; sums of its samples, newest first -/
  validSince : Option Nat := none
  poc : List PocSpan := []
  /-- own AC import (R222) -/
  ac : List PocSpan := []
  /-- P_REF of R237, whether the limit stands, and whether a condition holds -/
  pref : List Int := [0, 0, 0, 0]
  limited : Bool := false
  derating : Bool := false
  deriving DecidableEq, Repr

/-- A routing step beside SHR_RTSTAT (R240). -/
structure Route where
  /-- key of the donor block's variant before the step -/
  prevKey : Nat := 0
  donor : Nat := 0
  receiver : Nat := 0
  engine : Option Nat := none
  seqDone : Bool := false
  seqFail : Bool := false
  /-- STC ns since when the module current has been at or below RTIZ at every W -/
  zeroAt : Option Nat := none
  deriving DecidableEq, Repr

/-! ## Chapter 12: field Ethernet ports and process-bus subscriptions -/

/-- A frame in a transmit queue: its tag (PCP and VID), EtherType, payload, length on the wire without preamble and gap, and
the share frame of a demand record. -/
structure TxFrame where
  tag : Option (Nat × Nat) := none
  etype : Nat := 0
  payload : List Byte := []
  len : Nat := 64
  frame : Nat := 0
  deriving DecidableEq, Repr

/-- One field port: transmit queues PTP, SHARE, SV, OTHER, the active gate list, and the last frame sent with its stamp. -/
structure PortRt where
  queues : List (List TxFrame) := [[], [], [], []]
  gates : List (Nat × Nat) := [(0xF, 1000000)]
  sending : Option (TxFrame × Nat) := none
  dropSeen : Bool := false
  deriving DecidableEq, Repr

/-- PTP on one port (R101): the Sync that waits for its Follow_Up, the peer-delay exchange, and the mean path delay. Times are
in 1/16 ns. -/
structure PtpRt where
  sync : Option (Nat × Int × Int) := none
  t1 : Option (Nat × Int) := none
  resp : Option (Nat × Int × Int) := none
  delay : Option Int := none
  deriving DecidableEq, Repr

/-- FNET beside its registers: ports, PTP, and the receive buffer: per class 0 to 4 the cells of each frame held, from its
reserve and from the pool. -/
structure Net where
  ports : List PortRt := [{}, {}]
  ptp : List PtpRt := [{}, {}]
  cells : List (List (Nat × Nat)) := [[], [], [], [], []]
  deriving DecidableEq, Repr

/-- A sample in a jitter buffer (R250): its absolute index, values, and what R251 asks of it. -/
structure SvSample where
  idx : Nat := 0
  values : List Int := []
  synch : Nat := 0
  missing : Bool := false
  quest : Bool := false
  deriving DecidableEq, Repr

/-- One sampled-value subscription. -/
structure SubRt where
  buf : List SvSample := []
  next : Option Nat := none
  usedRun : Nat := 0
  deriving DecidableEq, Repr

/-- One GOOSE subscription. -/
structure GsRt where
  last : Option (Nat × Nat) := none
  /-- STC ns of the last accepted frame, and its timeAllowedtoLive in ns -/
  at' : Nat := 0
  ttl : Nat := 0
  deriving DecidableEq, Repr

/-- SVG beside its registers; process-bus key slots 0 to 3 (R259); the last frame of each publication. -/
structure Svg where
  subs : List SubRt := List.replicate 8 {}
  gs : List GsRt := List.replicate 32 {}
  keys : List (Option (List Byte)) := [none, none, none, none]
  pubs : List (List SvAsdu) := [[], []]
  deriving DecidableEq, Repr


/-! ## Chapter 13: metrology -/

/-- One test output (R276, R277): acc, its last 8 increments newest first, the STC µs at which its last pulse started, and that
at which the pulse in progress ends. -/
structure TestOut where
  acc : Nat := 0
  last : List Nat := []
  start : Option Nat := none
  high : Option Nat := none
  deriving DecidableEq, Repr

/-- A legally relevant image: version, security version, checksum. -/
structure LrImg where
  ver : Nat := 0
  svn : Nat := 0
  sum : List Byte := List.replicate 48 0
  deriving DecidableEq, Repr

/-- The signal chain beside the MET registers (R260 to R281). -/
structure Metr where
  /-- the last processed instant, in STC ns -/
  last : Option Nat := none
  acc : List Int := List.replicate 36 0
  /-- metering records in force; records that govern from the first instant at or after a time, and whether a swap brings them -/
  recs : List MeasRec := []
  due : Option (Nat × List MeasRec × Bool) := none
  /-- per channel: first instant that takes its fallback sample, and the first that takes its main sample again -/
  fbFrom : List (Option Nat) := List.replicate 16 none
  retAt : List (Option Nat) := List.replicate 16 none
  suspect : List Bool := List.replicate 16 false
  /-- source of the last sample: 0 main, 1 fallback, 2 none -/
  src : List Nat := List.replicate 16 2
  /-- present window: flags as MET_CHSTAT [7:1], sums of |x| and x², of p, q and d, and the instants so far -/
  flags : List Nat := List.replicate 16 0
  n : Nat := 0
  sumAbs : List Nat := List.replicate 16 0
  sumSq : List Nat := List.replicate 16 0
  sumP : List Int := [0, 0, 0]
  sumQ : List Int := [0, 0, 0]
  sumD : List Int := [0, 0, 0, 0]
  /-- the last 128 current samples of each phase, newest first (R269) -/
  past : List (List Int) := [[], [], []]
  tp : List TestOut := List.replicate 4 {}
  /-- the image STAGED (R281) -/
  staged : Option LrImg := none
  deriving DecidableEq, Repr


/-! ## Chapter 14: sessions, live image, NOR stores and theft watch -/

/-- An interval of a session (R292): first window's start, last window's end, KIND; times in STC ns. -/
structure Interval where
  first : Nat := 0
  last : Nat := 0
  kind : Nat := 0
  deriving DecidableEq, Repr

/-- A session on an output, with everything its record takes from it (Table 14-3). -/
structure Sess where
  isOpen : Bool := false
  closing : Bool := false
  /-- the start readings are latched -/
  started : Bool := false
  output : Nat := 0
  sid : List Byte := List.replicate 16 0
  start : Nat := 0
  stop : Nat := 0
  stStart : Nat := 0
  stStop : Nat := 0
  utcStart : Int := 0
  utcStop : Int := 0
  errStart : Nat := 0
  errStop : Nat := 0
  daStart : Nat := 0
  daStop : Nat := 0
  dbStart : Nat := 0
  dbStop : Nat := 0
  /-- instants processed in the session, their sum of d, greatest whole-window sum of d -/
  n : Nat := 0
  sumD : Int := 0
  maxWin : Option Int := none
  intervals : List Interval := []
  nint : Nat := 0
  run : Option Interval := none
  kinds : Nat := 0
  stepped : Bool := false
  holdover : Bool := false
  incomplete : Bool := false
  cause : Nat := 0
  lrVer : Nat := 0
  lrSum : List Byte := []
  sealState : Nat := 0
  deriving DecidableEq, Repr

/-- A live image (R285); its CRC holds unless the copy is absent. Records and log entries are (number, bytes with signature). -/
structure LiveImg where
  seq : Nat := 0
  acc : List Int := []
  sess : List Sess := []
  toSign : List Sess := []
  recs : List (Nat × List Byte) := []
  logs : List (Nat × List Byte) := []
  recNext : Nat := 0
  logNext : Nat := 0
  last : Nat := 0
  /-- bytes 0 to 63 of the last log entry (CHAIN), and entries lost since the last OVERFLOW entry -/
  lastLog : List Byte := []
  overflow : Nat := 0
  deriving DecidableEq, Repr

/-- The billing working state in F1: what the live image copies, and the commit and seal in progress. -/
structure Bil where
  sess : List Sess := List.replicate 4 {}
  /-- sessions whose stop readings are latched and whose record is still to be signed -/
  toSign : List Sess := []
  recs : List (Nat × List Byte) := []
  logs : List (Nat × List Byte) := []
  recNext : Nat := 0
  logNext : Nat := 0
  lastLog : List Byte := []
  overflow : Nat := 0
  seq : Nat := 0
  /-- session commands of the FMP that wait for the next S: output and OP (R290) -/
  cmds : List (Nat × Nat) := []
  /-- the snapshot being written and its NOR slot -/
  commit : Option (LiveImg × Nat) := none
  sealing : Bool := false
  deriving DecidableEq, Repr

/-- What keeps its contents through a field reset: the live copies L0 and L1 (battery-backed SRAM), the NOR slots and stores, and
the legally relevant image (NOR). -/
structure BilStore where
  copies : List (Option LiveImg) := [none, none]
  slots : List (Option LiveImg) := [none, none]
  recs : List (Nat × List Byte) := []
  logs : List (Nat × List Byte) := []
  lr : LrImg := {}
  /-- MET_LRMINSVN as field NOR holds it -/
  lrMin : Nat := 0
  deriving DecidableEq, Repr

/-- One episode of the F0 theft log (R296, R297); times are the F0 counter in ns. -/
structure Episode where
  start : Nat := 0
  stop : Nat := 0
  mask : Nat := 0
  peak : Nat := 0
  q : List Nat := [0, 0, 0, 0]
  merged : Bool := false
  deriving DecidableEq, Repr

/-- One theft-watch channel: its integrator and its runs of blocks above and below. -/
structure TheftCh where
  y : Int := 0
  above : Nat := 0
  below : Nat := 0
  deriving DecidableEq, Repr

/-- The theft watch in F0: log, episode in progress, blocks kept that an episode may still take in, and the entry to DORMANT. -/
structure Theft where
  log : List Episode := []
  cur : Option Episode := none
  ch : List TheftCh := List.replicate 4 {}
  /-- the last 20 blocks, newest first: start and m of each channel (0 for a channel not in use) -/
  blocks : List (Nat × List Nat) := []
  /-- channels above in those blocks -/
  masks : List Nat := []
  /-- m of the blocks since the last one above, while an episode lasts -/
  tail : List (List Nat) := []
  /-- STC ns of the entry to DORMANT -/
  entered : Option Nat := none
  deriving DecidableEq, Repr

/-! ## Chapter 15: outputs -/

/-- One output beside its OUT registers (R299 to R307). -/
structure OutRt where
  /-- a QUENCH_OUT action waits for the next S -/
  quench : Bool := false
  /-- immediate causes that arose and wait for the evaluation at S -/
  imm : List Nat := []
  /-- the pending cause that leads through RAMPDOWN, 0 none -/
  pend : Nat := 0
  /-- a command by the FMP that waits for the next S -/
  cmd : Option Nat := none
  /-- the sequence step that waits to be started (SEQWAIT): 0 none, 1 LOCK, 2 UNLOCK, 3 INS, 4 PRE, 5 OPEN; whether the FMP
  repeats its start; the step last requested; the engine that runs it -/
  want : Nat := 0
  retry : Bool := false
  cur : Nat := 0
  engine : Option Nat := none
  /-- outcome of the step last requested: done, or failed with a CTR code -/
  seqDone : Bool := false
  seqFail : Option Nat := none
  /-- an insulation measurement of IMDCH completed after SEQ INS -/
  imdFresh : Bool := false
  /-- STC ns since when the current has stayed at or below IZERO at every W -/
  izeroAt : Option Nat := none
  /-- the voltage was at or below VSAFE at the last W -/
  vsafe : Bool := false
  /-- a drain that ends in FAULT as well (R305) -/
  drainFault : Bool := false
  /-- marker in field battery-backed SRAM (R307) -/
  marker : Bool := false
  /-- software trip bits that this output's fault set -/
  trips : Nat := 0
  deriving DecidableEq, Repr


/-- One pin of a cable (R317): nodes in µ°C, whether they have been set, and whether its sensor was at TTRIP or in FAULT. -/
structure PinRt where
  tc : Int := 0
  tk : Int := 0
  ready : Bool := false
  hot : Bool := false
  fault : Bool := false
  deriving DecidableEq, Repr

/-- One cable (R314 to R318): squared pin currents summed since the last millisecond, per pin, and their count; windows below
FMIN in a row; the last reported limit and the STC ms of the report; STC ns of the fan's last tach edge. -/
structure CableRt where
  s2 : List Nat := [0, 0, 0, 0]
  n : Nat := 0
  lowFlow : Nat := 0
  reported : Nat := 0x7FFFFFFF
  reportMs : Option Nat := none
  tachAt : Option Nat := none
  pins : List PinRt := List.replicate 4 {}
  deriving DecidableEq, Repr

/-- One vehicle port (R310 to R313): the duty in force, the candidate pilot state with its periods, periods of a high low plateau,
and the proximity change in progress. -/
structure VehRt where
  duty : Nat := 0
  cand : Nat := 7
  candRun : Nat := 0
  diodeRun : Nat := 0
  ppRun : Nat := 0
  /-- the resistance that the last report gave -/
  ppRef : Nat := 0xFFFF
  deriving DecidableEq, Repr


/-! ## Chapter 16: the buffer stack port -/

/-- A chain command awaiting its response on an end: satellite (the address given, for ENUM), code, CC and payload. -/
structure ChainCmd where
  sat : Nat := 0
  code : Nat := 0
  cc : Nat := 0
  payload : List Byte := []
  deriving DecidableEq, Repr

/-- One satellite as the device knows it (R321, R322, R334): command counter, the checks in force, whether its last CFG was
answered or a POR asks for one, the last command sent and whether its response was missed, and the duties it holds. -/
structure SatRt where
  cc : Nat := 0
  crcOn : Bool := true
  ccOn : Bool := true
  cfgd : Bool := false
  cfgDue : Bool := false
  last : Option (Nat × List Byte) := none
  missed : Bool := false
  held : List Nat := List.replicate 18 0
  deriving DecidableEq, Repr

/-- One cell (R331, R332): snapshots in a row beyond its limits, the reading of the present snapshot and of the last complete
one with whether impedance may use it, and zest. -/
structure CellRt where
  run : Nat := 0
  cur : Option (Int × Bool) := none
  prev : Option (Int × Bool) := none
  zest : Option Int := none
  deriving DecidableEq, Repr

/-- The chain, its snapshots, the open-wire sweep and the buffer block beside the STK registers. -/
structure Stk where
  /-- STK_CHCFG in force since the last entry to WAKING (R326) -/
  nsat : Nat := 0
  ring : Bool := false
  crcEn : Bool := true
  ccEn : Bool := true
  autow : Bool := true
  cfgSplit : Nat := 0
  /-- wakes of the present enumeration, STC ns of the entry to FAULT, and a WAKE written since -/
  wakes : Nat := 0
  faultAt : Nat := 0
  wakeReq : Bool := false
  /-- satellites found from each end, and ends whose enumeration is over -/
  found : List Nat := [0, 0]
  enumDone : List Bool := [false, false]
  /-- first satellite served by B, and whether it has moved since the last WAKING (R327) -/
  split : Nat := 0
  moved : Bool := false
  sats : List SatRt := List.replicate 32 {}
  /-- per end: the command that awaits its response, and the last frame sent -/
  out : List (Option ChainCmd) := [none, none]
  lastFrame : List (List Byte) := [[], []]
  /-- the chain goes to OFF once its frame in flight is done; a SLEEP is due -/
  closing : Bool := false
  sleepDue : Bool := false
  /-- the present snapshot: whether one is open, its ID and target (STC steps), satellites still to read per end, satellites
  read, whether it is complete -/
  snapOn : Bool := false
  snapId : Nat := 0
  target : Nat := 0
  todo : List (List Nat) := [[], []]
  got : List Nat := []
  complete : Bool := false
  /-- ib and vst taken at W of the target tick; the pair of the last complete snapshot -/
  pair : Option (Int × Int) := none
  prevIb : Option Int := none
  /-- the last snapshot was complete; STC ns of the target of the last complete one, and whether there was one -/
  lastComplete : Bool := false
  doneAt : Option Nat := none
  /-- readings of the last complete snapshot (R333) -/
  compV : Option (List Int) := none
  cells : List CellRt := List.replicate 576 {}
  sumRun : Nat := 0
  /-- open-wire sweep: line, 0 OWT due, 1 OWT sent, 2 test snapshot taken; STC ns of the OWT, readings before it, satellites not yet
  compared, and whether the present snapshot is the test -/
  owLine : Option Nat := none
  owPhase : Nat := 0
  owAt : Nat := 0
  owBase : Option (List Int) := none
  owPend : List Nat := []
  owTest : Bool := false
  /-- the buffer: tick of the last GO, snapshot of the last cause, STC ns since when |ib| stays at or below IZERO -/
  goAt : Option Nat := none
  causeId : Option Nat := none
  izeroAt : Option Nat := none
  deriving DecidableEq, Repr


/-! ## Chapter 17: the host platform -/

/-- The mark record of an image slot (R341): generation, state 0 EMPTY 1 TRIAL 2 GOOD, try count, and what the slot holds: whether
its signature verifies, its security version, the SHA-384 of its boot header and owner-key manifests, and that of the image (R378). -/
structure ImgSlot where
  gen : Nat := 0
  st : Nat := 0
  tries : Nat := 0
  ok : Bool := true
  svn : Nat := 0
  header : List Byte := []
  digest : List Byte := []
  deriving DecidableEq, Repr

/-- The host platform beside its registers: image slots A and B, the slot running, TRIES in the mark records, sources claimed
and not completed, peripheral FIFOs (received and to send), and the last frame sent on the management ports 0 and 1 and on the
10BASE-T1S ports 0 to 3. -/
structure HostPlat where
  slots : List ImgSlot := [{ gen := 1, st := 2 }, {}]
  running : Option Nat := some 0
  tries : Nat := 3
  service : List Nat := []
  rx : List (List Byte) := List.replicate 9 []
  tx : List (List Byte) := List.replicate 9 []
  sent : List (List Byte) := List.replicate 6 []
  deriving DecidableEq, Repr


/-! ## Chapter 18: CAN FD controllers -/

/-- A received frame with its 64-bit stamp and the mailbox it went to, 0xFF for none (R359). -/
structure CanEntry where
  stamp : Nat := 0
  words : List Nat := []
  mb : Nat := 0xFF
  deriving DecidableEq, Repr

/-- One mailbox beside its registers: the stamp of the frame it holds, and its shadow (R357, R358). -/
structure MailboxRt where
  stamp : Nat := 0
  shadow : Option CanEntry := none
  deriving DecidableEq, Repr

/-- One controller (0 and 1 FCAN, 2 and 3 HCAN) beside its registers: TEC and REC, recovery from bus-off, LOOP in force, the
buffer being sent with an ABORT written on it, mailboxes, the receive ring, and for HCAN the start stamp of a ring-fed frame. -/
structure CanRt where
  tec : Nat := 0
  rec' : Nat := 0
  recovering : Bool := false
  loop : Bool := false
  sending : Option Nat := none
  abort : Bool := false
  fed : Bool := false
  fedAt : Nat := 0
  mbs : List MailboxRt := List.replicate 16 {}
  ring : List CanEntry := []
  deriving DecidableEq, Repr


/-! ## Chapter 19: fuses, keys and enclave -/

/-- One die's fuse array (Table 19-1). Slots in REV order: OWN0, OWN1, DBGKEY, MLR0, MLR1. -/
structure Fuses where
  root : Nat := 0
  mask : Nat := 0
  mapSeed : Nat := 0
  uid : Nat := 0
  variant : Nat := 1
  lc : Nat := 0x00FF
  slots : List (Option (List Byte)) := [some (List.replicate 48 0), none, none, some (List.replicate 48 0), none]
  rev : Nat := 0
  pin : Option (List Byte) := none
  sealed : Bool := false
  bind : List Byte := List.replicate 48 0
  cont : Bool := false
  deriving DecidableEq, Repr

/-- FSEC beside its registers: K_T and K_B, XFERs used since the pairing, the peer's key, share
keys that wait for their millisecond, the digest of the running field image, and the F0 counter held at each tamper latch. -/
structure Fsec where
  kt : Option (List Byte) := none
  kb : List Byte := []
  usedXfer : List Nat := []
  /-- DEVID public key of the current pairing -/
  peer : List Byte := []
  /-- share slots whose new content governs from the next whole STC millisecond (R376) -/
  keyNext : List (Nat × Option (List Byte)) := []
  fwDigest : List Byte := List.replicate 48 0
  tampAt : List Nat := [0, 0]
  /-- the boundary scan drives pads (R367) -/
  scan : Bool := false
  deriving DecidableEq, Repr

/-- A key slot of the enclave (R382). -/
structure EncSlot where
  key : List Byte := []
  exportable : Bool := false
  deriving DecidableEq, Repr

/-- The enclave beside the SEC registers. -/
structure Enclave where
  slots : List (Option EncSlot) := List.replicate 16 none
  kt : Option (List Byte) := none
  kb : List Byte := []
  /-- ephemeral key and nonce of a pairing that waits for PAIROUT -/
  eph : Option (Nat × List Byte) := none
  /-- FID public key and UID of the field die in the current pairing, and the UID named in PAIRIN -/
  fid : List Byte := []
  fuid : Nat := 0
  askUid : Nat := 0
  /-- values last extended into MR4 to MR7 -/
  lastExt : List (Option (List Byte)) := [none, none, none, none]
  quotes : Nat := 0
  /-- mirror of the monotonic counters in host NOR, and whether it is valid -/
  mirror : Option (List Nat × List Byte) := none
  /-- no mirror has restored the counters after H0 lost both supplies (R371) -/
  monoLost : Bool := false
  /-- the continuity statement in the host NOR data area (R372) -/
  statement : List Byte := []
  tampAt : List Nat := [0, 0]
  scan : Bool := false
  deriving DecidableEq, Repr

/-! ## Chapter 20: die temperature -/

/-- A shutdown record (Table 20-1): its fields. -/
structure ShutRec where
  seq : Nat := 0
  stc : Nat := 0
  sensor : Nat := 0
  mode : Nat := 0
  peak : Int := 0
  ack : Bool := false
  result : Nat := 0
  deriving DecidableEq, Repr

/-- The thermal supervisors beside their registers: good readings in a row of each sensor in FAULT, the field SHUTDOWN latched and
its t0 in STC ns, TQS expired, the record in F0 that is not yet in NOR, the two NOR slots, the key of FTHM_RECCTL written, and the
host SHUTDOWN condition. -/
structure Therm where
  goodF : List Nat := List.replicate 12 0
  goodH : List Nat := List.replicate 8 0
  shut : Bool := false
  t0 : Nat := 0
  f0 : Option ShutRec := none
  nor : List (Option ShutRec) := [none, none]
  ackKey : Bool := false
  shutH : Bool := false
  deriving DecidableEq, Repr

/-! ## Chapter 21: capture and ash -/

/-- Waveform capture beside the TLM_CAP registers (R405 to R407). -/
structure Cap where
  /-- cause of a trigger that waits for its frame -/
  trig : Option Nat := none
  /-- ticks since the last frame -/
  ticks : Nat := 0
  /-- frames still to follow the trigger frame -/
  post : Nat := 0
  /-- next entry of TLM_CAPMARK -/
  mark : Nat := 0
  /-- live stream: XFER, next frame to send and bytes from BEGIN -/
  live : Option Nat := none
  liveFrame : Nat := 0
  liveBytes : Nat := 0
  deriving DecidableEq, Repr

/-- The ash areas beside FDIA and HDIA (R408 to R410): whether a latched field error still waits for its area, the bytes FMP firmware
assembled, the XFER of the transfer in progress; and the header in host DRAM: STATE, CAUSE, STC and host time of the error, LOST, END,
and the cause whose gathering begins after the boot. -/
structure Ash where
  pend : Bool := false
  field : List Byte := []
  xfer : Option Nat := none
  hState : Nat := 0
  hCause : Nat := 0
  hStc : Nat := 0
  hTime : Nat := 0
  hLost : Nat := 0
  hEnd : Nat := 0
  hPend : Option Nat := none
  deriving DecidableEq, Repr

/-! ## The block -/

/-- Everything but the queue of commands. -/
structure Dev where
  /-- every register field of Tables 22-1 and 22-2 (Machine/RegMap.lean) -/
  regs : Regs := []
  /-- field memory reached through the FMP's windows: staging and the capture ring (Table 22-3) -/
  fmem : Mem := []
  /-- host SRAM, battery-backed SRAM and DRAM by host physical address (Table 17-1) -/
  hmem : Mem := []
  /-- the word the last bus read returned (the model's own field) -/
  lastRead : Nat := 0
  /-- the last bus access ended in a bus error (the model's own field) -/
  busError : Bool := false
  /-- how many free values were drawn (the model's own field, log entry 3) -/
  free : Nat := 0
  /-- chapter 21: injections -/
  inj : Inject := {}
  /-- chapter 21: the event journal -/
  jr : Journal := {}
  /-- chapter 17: the ring manager -/
  rings : Rings := {}
  /-- chapter 2: power, reset and mode -/
  pw : Power := {}
  /-- chapter 3: the flue -/
  fl : Flue := {}
  /-- chapter 5: site time -/
  tm : SiteTime := {}
  /-- chapter 4: the structure stream -/
  st : Sts := {}
  /-- chapters 6 and 7: the control engine, its signals and the laws -/
  ce : Ce := {}
  /-- chapter 8: residuals, variants and shedding -/
  dgr : Dgr := {}
  /-- chapter 9: PWM legs and trip array -/
  pwm : Pwm := {}
  /-- chapter 15: the four outputs -/
  out : List OutRt := List.replicate 4 {}
  /-- chapter 15: cables and fans -/
  cbl : List CableRt := List.replicate 4 {}
  /-- chapter 15: vehicle ports -/
  veh : List VehRt := List.replicate 4 {}
  /-- chapter 21: waveform capture -/
  cap : Cap := {}
  /-- chapter 21: the ash areas -/
  ash : Ash := {}
  /-- chapter 10: fallback converters -/
  fba : Fba := {}
  /-- chapter 10: contactor sequencer -/
  ctr : Ctr := {}
  /-- chapter 10: insulation monitors -/
  imd : List ImdRt := List.replicate 4 {}
  /-- chapter 10: telemetry -/
  tlm : Tlm := {}
  /-- chapter 11: share engine, guard and damper -/
  shr : Shr := {}
  /-- chapter 11: module routing -/
  rt : Route := {}
  /-- chapter 12: field ports -/
  net : Net := {}
  /-- chapter 12: sampled values and GOOSE -/
  svg : Svg := {}
  /-- chapter 13: the signal chain of metrology -/
  met : Metr := {}
  /-- chapter 14: sessions, commit and seal -/
  bil : Bil := {}
  /-- chapter 14: live copies and NOR stores -/
  bst : BilStore := {}
  /-- chapter 14: the theft watch -/
  tw : Theft := {}
  /-- chapter 19: the field die's fuses -/
  ffuse : Fuses := {}
  /-- chapter 19: the host die's fuses -/
  hfuse : Fuses := {}
  /-- chapter 19: the field security unit -/
  fsec : Fsec := {}
  /-- chapter 19: the enclave -/
  enc : Enclave := {}
  /-- chapter 16: the buffer stack port -/
  stk : Stk := {}
  /-- chapter 18: the CAN FD controllers -/
  can : List CanRt := List.replicate 4 {}
  /-- chapter 17: the host platform -/
  hp : HostPlat := {}
  /-- chapter 20: die temperature -/
  th : Therm := {}
  deriving DecidableEq, Repr

/-- The state of the block: its registers, memories and units, and the commands that wait, first in, first out. -/
structure State where
  dev : Dev
  pending : List Instr
  deriving DecidableEq, Repr

/-- Reasons to stop with a fault. No command of this block raises one (the block has no processor whose run could fault):
the type stands for the interface. -/
inductive Fault where
  /-- an unmapped place of a memory that has no stated outcome; raised by nobody; safe -/
  | unmapped
  deriving DecidableEq, Repr

/-- Reasons to refuse a command. -/
inductive Refusal where
  /-- raised by exec's arm of a command that has no meaning yet; safe -/
  | notModelled (mnemonic : String)
  deriving DecidableEq, Repr

/-- The machine right after a power-on reset of both sides, before their boots go on (R35, R39 point A): every register at
its reset value, nothing in memory, no command waiting. -/
def State.reset : State := { dev := {}, pending := [] }

end Sys2Proof.Machine
end

