-- ==== Sys2Proof/Machine/Ops.lean ====
section
/-! DEFINITION. The named operations over the block: register fields, register words by their descriptors, power domains,
time, and the mode. -/

namespace Sys2Proof.Machine

/-! ## Register fields -/

/-- The value of a register field. -/
def Dev.rd (d : Dev) (f : Fld) : Nat := Regs.get d.regs f

/-- A register field written by the block itself. -/
def Dev.wr (d : Dev) (f : Fld) (v : Nat) : Dev := { d with regs := Regs.set d.regs f v }

/-- Whether a one-bit field reads 1. -/
def Dev.on (d : Dev) (f : Fld) : Bool := decide (d.rd f = 1)

/-- A field read as two's complement. -/
def Dev.rdS (d : Dev) (f : Fld) : Int := signed (d.rd f) f.width

/-- A field written with an integer in two's complement. -/
def Dev.wrS (d : Dev) (f : Fld) (x : Int) : Dev := d.wr f (unsigned x f.width)

/-- A one-bit field written with a Bool. -/
def Dev.wrB (d : Dev) (f : Fld) (b : Bool) : Dev := d.wr f (b2n b)

/-- A counting field raised by `k`, saturating at its greatest value. -/
def Dev.bumpBy (d : Dev) (f : Fld) (k : Nat) : Dev := d.wr f (satAdd (d.rd f) k (2 ^ f.width - 1))

/-- A counting field raised by 1, saturating. -/
def Dev.bump (d : Dev) (f : Fld) : Dev := d.bumpBy f 1

/-- Several field writes in order. -/
def Dev.wrAll (d : Dev) (ws : List (Fld × Nat)) : Dev := ws.foldl (fun d w => d.wr w.1 w.2) d

/-- A 64-bit value put into two 32-bit registers. -/
def Dev.wrPair (d : Dev) (lo hi : Fld) (v : Nat) : Dev := (d.wr lo (v % 2 ^ 32)).wr hi (v / 2 ^ 32)

/-- A list folded over the block, in order. -/
def Dev.forAll {α : Type} (d : Dev) (xs : List α) (f : Dev → α → Dev) : Dev := xs.foldl f d

/-- A conditional change of the block. -/
def Dev.when (d : Dev) (c : Bool) (f : Dev → Dev) : Dev := if c then f d else d

/-! ## Free values -/

/-- A free value below `m`, and the block with one more free value drawn (log entry 3). -/
def Dev.drawFree (d : Dev) (m : Nat) : Nat × Dev := (Config.freeValue d.free % m, { d with free := d.free + 1 })

/-! ## Power domains -/

/-- The domain a register address belongs to (Tables 22-1 and 22-2, and the domain notes of chapters 2, 14, 19 and 20). -/
def domOfAddr (addr : Nat) : Dom :=
  let off := addr % 0x10000
  match addr / 0x10000 with
  | 0x00 => if off = 0x18 then .f0 else .f1
  | 0x04 | 0x05 | 0x06 | 0x15 | 0x25 => .f2
  | 0x10 => .f3
  | 0x12 | 0x13 | 0x14 | 0x16 | 0x18 | 0x19 | 0x1A | 0x24 | 0x26 | 0x27 => .f4
  | 0x21 => if 0x200 ≤ off then .f0 else .f1
  | 0x2A => if off = 0x28 ∨ off = 0x2C ∨ off = 0x30 then .f0 else .f1
  | 0x2000 => if off = 0x18 then .h0 else .h1
  | 0x2004 | 0x2005 | 0x2006 | 0x200A => .h3
  | 0x2007 => if off = 0x24 ∨ off = 0x28 ∨ off = 0x2C ∨ (0x50 ≤ off ∧ off < 0x60) then .h0 else .h1
  | 0x2008 => if off = 0x14 then .h0 else .h1
  | 0x200B => .h4
  | b => if b < 0x2000 then .f1 else .h1

/-- The domain of a register file key: that of its word, but for the two DBGARM bits, which F0 and H0 hold (section 19.9). -/
def domOfKey (key : Nat) : Dom :=
  if key = R.FSEC_STATE.DBGARM.key then .f0
  else if key = R.SEC_STATE.DBGARM.key then .h0
  else domOfAddr (key / 32)

/-- Whether a domain is on and good and not in retention (FSYS_PWRSTAT, HSYS_PWRSTAT). -/
def Dev.domOn (d : Dev) (dom : Dom) : Bool :=
  let f := d.rd R.FSYS_PWRSTAT.ON
  let h := d.rd R.HSYS_PWRSTAT.ON
  match dom with
  | .f0 => testBit f 0 | .f1 => testBit f 1 | .f2 => testBit f 2 && !d.on R.FSYS_PWRSTAT.F2RET | .f3 => testBit f 3
  | .f4 => testBit f 4
  | .h0 => testBit h 0 | .h1 => testBit h 1 | .h2 => testBit h 2 | .h3 => testBit h 3 | .h4 => testBit h 4

/-- Every register of the domains that `p` names back at its reset value (R10). -/
def Dev.resetDomains (d : Dev) (p : Dom → Bool) : Dev := { d with regs := Regs.resetWhere d.regs (fun k => p (domOfKey k)) }

/-! ## Mode -/

/-- The device mode (FSYS_MODE.MODE). -/
def Dev.mode (d : Dev) : Mode := (Mode.ofCode (d.rd R.FSYS_MODE.MODE)).getD .kindling

/-- A stream is active (STS_BANK.ACTV). -/
def Dev.streamActive (d : Dev) : Bool := d.on R.STS_BANK.ACTV

/-- The CE is live (R115, Table 2-1): a stream is active with F2 and F3 on, in a mode in which the CE runs or in KINDLING, where it
starts once the stream is active. -/
def Dev.ceLive (d : Dev) : Bool := d.streamActive && d.domOn .f2 && d.domOn .f3 && (d.mode.ceRuns || decide (d.mode = .kindling))

/-! ## Time -/

/-- The STC in ns (R95). -/
def Dev.stcNs (d : Dev) : Nat := 5 * d.tm.q / 2 % 2 ^ 64

/-- The STC's binary fraction of a nanosecond (R95). -/
def Dev.stcFr (d : Dev) : Nat := if 5 * d.tm.q % 2 = 1 then 2 ^ 31 else 0

/-- The step count of a time in whole ns, rounded up to the next step. -/
def stepsOfNs (ns : Nat) : Nat := (2 * ns + 4) / 5

/-- The STC moved on to an instant that has come, and the F0 time counter with it; neither moves back this way. -/
def Dev.advanceTo (d : Dev) (q : Nat) : Dev := { d with tm := { d.tm with q := max d.tm.q q, f0 := d.tm.f0 + (q - d.tm.q) } }

/-- The F0 time counter in ns (R96). -/
def Dev.f0Ns (d : Dev) : Nat := 5 * d.tm.f0 / 2

/-- The host time counter in ns (HSYS_HTC). -/
def Dev.htcNs (d : Dev) : Nat := 5 * d.tm.hq / 2 % 2 ^ 64

/-- The host time counter moved on to an instant that has come, in ns. -/
def Dev.hostAdvanceTo (d : Dev) (ns : Nat) : Dev := { d with tm := { d.tm with hq := max d.tm.hq (stepsOfNs ns) } }

/-- Whole ms between two step counts. -/
def msBetween (q0 q1 : Nat) : Nat := (q1 - q0) / 400000

/-- One 400 MHz field cycle with no command waiting: the STC advances by 2.5 ns while F1 is on (R95), the F0 time counter
while F0 is on, and the host time counter and the RTC while H1 and H0 are on. -/
def Dev.idle (d : Dev) : Dev :=
  let q := if d.domOn .f1 then d.tm.q + 1 else d.tm.q
  let f0 := if d.domOn .f0 then d.tm.f0 + 1 else d.tm.f0
  let hq := if d.domOn .h1 then d.tm.hq + 1 else d.tm.hq
  let rtc := if d.domOn .h0 then d.tm.rtc + 1 else d.tm.rtc
  { d with tm := { d.tm with q := q, f0 := f0, hq := hq, rtc := rtc } }

/-! ## Lists of per-instance values -/

/-- The list with element `i` replaced. -/
def setAt {α : Type} (xs : List α) (i : Nat) (v : α) : List α := xs.set i v

/-- Element `i` of a list of numbers, 0 beyond its end. -/
def numAt (xs : List Nat) (i : Nat) : Nat := xs.getD i 0

/-- Element `i` of a list of numbers raised by `k`. -/
def addAt (xs : List Nat) (i k : Nat) : List Nat := xs.set i (numAt xs i + k)

/-! ## Outcomes -/

/-- The outcome of a command that changes the block and leaves the queue to the step. -/
def done (s : State) (f : Dev → Dev) : Host.Outcome State Fault Refusal := .next { s with dev := f s.dev }

end Sys2Proof.Machine
end

