-- ==== Sys2Proof/Machine/Events.lean ====
section
/-! DEFINITION. Reporting: the ring manager (R342 to R345), the event journal (R401 to R404), the event router (R346) and the
EVENT cells of the field side (Table 3-5). -/

namespace Sys2Proof.Machine

/-! ## Rings -/

/-- The address of the descriptor at HEAD (Table 17-5). -/
def Dev.descAt (d : Dev) (r idx : Nat) : Nat := d.rd (R.HRNG_BASE_LO.ADDR r) + 2 ^ 32 * d.rd (R.HRNG_BASE_HI.ADDR r) + 32 * idx

/-- Descriptors in the ring's array. -/
def Dev.ringSize (d : Dev) (r : Nat) : Nat := 2 ^ d.rd (R.HRNG_CFG.SIZE r)

def Dev.ringHead (d : Dev) (r : Nat) : Nat := d.descAt r (d.rd (R.HRNG_HEAD.IDX r))

/-- CTRL of the descriptor at an index. -/
def Dev.descCtrl (d : Dev) (r idx : Nat) : Nat := Mem.readNat d.hmem (d.descAt r idx + 24) 4

/-- Whether the descriptor at `idx` lies before TAIL and is owned by hardware. -/
def Dev.ringOwnedAt (d : Dev) (r idx : Nat) : Bool :=
  decide (idx ≠ d.rd (R.HRNG_TAIL.IDX r)) && testBit (d.descCtrl r idx) 0

/-- The ring can take or give bytes now (R342). -/
def Dev.ringReady (d : Dev) (r : Nat) : Bool :=
  d.on (R.HRNG_CFG.EN r) && !d.rings.stopped.getD r false && d.ringOwnedAt r (d.rd (R.HRNG_HEAD.IDX r))

/-- The ring stands at a descriptor before TAIL whose OWN reads 0 (R342). -/
def Dev.ringBlocked (d : Dev) (r : Nat) : Bool :=
  d.on (R.HRNG_CFG.EN r) && decide (d.rd (R.HRNG_HEAD.IDX r) ≠ d.rd (R.HRNG_TAIL.IDX r)) &&
  !testBit (d.descCtrl r (d.rd (R.HRNG_HEAD.IDX r))) 0

/-- Bytes stored behind what the current descriptor already holds. -/
def Dev.ringStore (d : Dev) (r : Nat) (bs : List Byte) : Dev :=
  let a := Mem.readNat d.hmem (d.ringHead r) 8 + numAt d.rings.fill r
  { d with hmem := Mem.writeBytes d.hmem a bs, rings := { d.rings with fill := addAt d.rings.fill r bs.length } }

/-- The current descriptor completed (R342): DONE, TS, SOP, EOP, ERR and INFO written, OWN cleared, HEAD advanced. The Bool
says that the ring's event is due (R345). -/
def Dev.ringFinish (d : Dev) (r : Nat) (err info : Nat) (sop eop : Bool) : Dev × Bool :=
  let a := d.ringHead r
  let c := Mem.readNat d.hmem (a + 24) 4
  let c' := b2n sop * 2 + b2n eop * 4 + bits c 3 3 * 8 + err * 16 + info % 256 * 256 + bits c 31 16 * 2 ^ 16
  let m := Mem.writeNat d.hmem (a + 12) 4 (numAt d.rings.fill r)
  let m := Mem.writeNat m (a + 16) 8 d.htcNs
  let m := Mem.writeNat m (a + 24) 4 c'
  let irq := testBit c 3
  let n := numAt d.rings.collected r + b2n irq
  let due := irq && decide (max 1 (d.rd (R.HRNG_COAL.COUNT r)) ≤ n)
  let d := { d with hmem := m, rings := { d.rings with fill := setAt d.rings.fill r 0, collected := setAt d.rings.collected r (if due then 0 else n) } }
  let d := d.wr (R.HRNG_HEAD.IDX r) ((d.rd (R.HRNG_HEAD.IDX r) + 1) % d.ringSize r)
  let d := if err = 0 then d else d.wr (R.HRNG_STAT.ERR r) 1
  (d, due)

/-! ## Journal -/

/-- The pending bit of a source in the router (R346). -/
def Dev.pend (d : Dev) (n : Nat) : Dev :=
  d.wr (R.HEVT_PEND.PEND (n / 32)) (setBit (d.rd (R.HEVT_PEND.PEND (n / 32))) (n % 32))

/-- The 64 bytes of a journal entry (Table 21-4); DATA words are stored little-endian, 4 bytes each. -/
def jrnEntry (first last ev kind typ flags count jseq : Nat) (data : List Nat) : List Byte :=
  leBytes 8 first ++ leBytes 8 last ++ leBytes 1 ev ++ leBytes 1 kind ++ leBytes 1 typ ++ leBytes 1 flags ++ leBytes 4 count ++
  leBytes 4 jseq ++ padTo (data.flatMap (leBytes 4)) 36

/-- Ring 24 lies within the bounds of R401 at its current descriptor. -/
def Dev.jrnRingFits (d : Dev) : Bool :=
  let buf := Mem.readNat d.hmem (d.ringHead 24) 8
  decide (12 ≤ d.rd (R.HRNG_CFG.SIZE 24)) && decide (0xFA000000 ≤ buf) && decide (buf + 64 ≤ 0xFC000000) &&
  decide (64 ≤ Mem.readNat d.hmem (d.ringHead 24 + 8) 4)

/-- A journal entry can be written now, but for the held state of its source (R402). -/
def Dev.jrnReady (d : Dev) : Bool := decide (1 ≤ d.jr.allowance) && d.ringReady 24 && d.jrnRingFits

/-- One entry written to ring 24: one unit of the allowance, JSEQ raised (R402). The ring's own event only sets its pending
bit and is no entry of the journal it reports (log entry 12). -/
def Dev.jrnWrite (d : Dev) (first last ev kind typ flags count : Nat) (data : List Nat) : Dev :=
  let e := jrnEntry first last ev kind typ flags count (d.rd R.HDIA_JSEQ.SEQ) data
  let d := d.ringStore 24 e
  let (d, due) := d.ringFinish 24 0 0 true true
  let d := { d with jr := { d.jr with allowance := d.jr.allowance - 1 } }
  let d := d.wr R.HDIA_JSEQ.SEQ (d.rd R.HDIA_JSEQ.SEQ + 1)
  if due then (d.wr (R.HRNG_STAT.EVT 24) 1).pend 92 else d

/-- The held and flood views of HDIA. -/
def Dev.jrnShow (d : Dev) : Dev :=
  let d := d.wr R.HDIA_JSTAT.HELD (min 255 d.jr.held.length)
  let d := d.wr R.HDIA_JSTAT.FLOOD (b2n (!d.jr.flood.isEmpty))
  d.forAll [0, 1, 2, 3] (fun d i =>
    (d.wr (R.HDIA_HELD.SRC i) (maskOf 32 (fun j => d.jr.held.any (fun h => h.src == 32 * i + j)))).wr
      (R.HDIA_FLOOD.SRC i) (maskOf 32 (fun j => d.jr.flood.any (fun h => h.src == 32 * i + j))))

/-- A report held (R403): its source's record opened or extended, and the source enters flood when it is not in it. -/
def Dev.jrnHold (d : Dev) (h : HeldRec) : Dev :=
  let open' := d.jr.held.any (fun x => x.src == h.src)
  let held := if open' then d.jr.held.map (fun x => if x.src = h.src then { x with count := x.count + h.count, last := h.last, kind := x.kind } else x)
    else d.jr.held ++ [h]
  let inFlood := d.jr.flood.any (fun x => x.src == h.src)
  let flood := if inFlood then d.jr.flood.map (fun x => if x.src = h.src then { x with last := h.last, lastAt := d.htcNs, kind := h.kind } else x)
    else d.jr.flood ++ [{ src := h.src, first := h.first, last := h.last, lastAt := d.htcNs, kind := h.kind, hostTime := h.hostTime }]
  let d := { d with jr := { d.jr with held := held, flood := flood } }
  let d := (d.bumpBy R.HDIA_JCNT.HELD h.count)
  let d := if inFlood then d else (d.bump R.HDIA_JCNT.FLOODS).pend 121
  d.jrnShow

/-- A report given to the journal (R402, R403); event 123 is raised when ring 24 lacks owned descriptors (R404). -/
def Dev.jrnReport (d : Dev) (h : HeldRec) : Dev :=
  let hasHeld := d.jr.held.any (fun x => x.src == h.src)
  if d.jrnReady && !hasHeld then
    let d := d.jrnWrite h.first h.last h.src h.kind 0 (b2n h.hostTime) h.count h.data
    { d with jr := { d.jr with flood := d.jr.flood.map (fun x => if x.src = h.src then { x with last := h.last, lastAt := d.htcNs, kind := h.kind, total := x.total + h.count } else x) } }
  else
    let stall := !d.ringReady 24 && !d.on R.HDIA_JSTAT.STALL
    let d := d.jrnHold h
    if stall then
      let d := (d.wr R.HDIA_JSTAT.STALL 1).pend 123
      d.jrnHold { src := 123, count := 1, first := d.htcNs, last := d.htcNs, hostTime := true }
    else d

/-- A held record written with one unit of the allowance (R403): FLOOD_BEGIN as the episode's first, COALESCED after it; a count
above 0xFFFF_FFFF is written with SATCNT and the rest stays held. -/
def Dev.jrnHeldWrite (d : Dev) (h : HeldRec) (rest : List HeldRec) : Dev :=
  let begun := d.jr.flood.any (fun x => x.src == h.src && x.begun)
  let n := min h.count 0xFFFFFFFF
  let more := decide (n < h.count)
  let d := d.jrnWrite h.first h.last h.src h.kind (if begun then 2 else 1) (b2n h.hostTime + 2 * b2n more) n h.data
  let held := if more then { h with count := h.count - n } :: rest else rest
  let mark := fun (x : FloodRec) => if x.src = h.src then { x with begun := true, total := x.total + n } else x
  { d with jr := { d.jr with held := held, flood := d.jr.flood.map mark } }

/-- Held records written oldest first while the journal can take them (R403); `fuel` bounds the units of the allowance. -/
def Dev.jrnDrainGo : Nat → Dev → Dev
  | 0, d => d
  | n + 1, d =>
    match d.jr.held with
    | [] => d
    | h :: rest => if d.jrnReady then Dev.jrnDrainGo n (d.jrnHeldWrite h rest) else d

def Dev.jrnDrain (d : Dev) : Dev := (Dev.jrnDrainGo 64 d).jrnShow

/-! ## Events -/

/-- A host event: pending bit and journal (R346); event 121 has no entry of its own (R403). -/
def Dev.raiseH (d : Dev) (n kind : Nat) (data : List Nat) : Dev :=
  let d := d.pend n
  if n = 121 then d
  else d.jrnReport { src := n, kind := kind, count := 1, first := d.htcNs, last := d.htcNs, data := data, hostTime := true }

/-- The event of a ring (R345): rings 2k and 2k + 1 share event 80 + k. -/
def Dev.ringEvent (d : Dev) (r : Nat) : Dev := (d.wr (R.HRNG_STAT.EVT r) 1).raiseH (80 + r / 2) 0 [r]

/-- The ring stops at a descriptor that software has not given (R342). -/
def Dev.ringStall (d : Dev) (r : Nat) : Dev :=
  if d.rings.stopped.getD r false then d
  else ({ d with rings := { d.rings with stopped := setAt d.rings.stopped r true } }.wr (R.HRNG_STAT.STALL r) 1).ringEvent r

/-- The stall check when hardware reaches for a descriptor. -/
def Dev.ringReach (d : Dev) (r : Nat) : Dev := if d.ringBlocked r then d.ringStall r else d

/-- The current descriptor completed, with its ring's event where it is due. -/
def Dev.ringComplete (d : Dev) (r err info : Nat) (sop eop : Bool) : Dev :=
  let (d, due) := d.ringFinish r err info sop eop
  if due then d.ringEvent r else d

/-- A received frame put into a ring, from descriptor to descriptor (R342): `none` when no descriptor is owned at its start. -/
def Dev.ringFrameGo : Nat → Dev → Nat → List Byte → Nat → Bool → Dev
  | 0, d, _, _, _, _ => d
  | n + 1, d, r, bs, info, sop =>
    let cap := Mem.readNat d.hmem (d.ringHead r + 8) 4
    let next := (d.rd (R.HRNG_HEAD.IDX r) + 1) % d.ringSize r
    if bs.length ≤ cap then (d.ringStore r bs).ringComplete r 0 info sop true
    else if d.ringOwnedAt r next then
      Dev.ringFrameGo n ((d.ringStore r (bs.take cap)).ringComplete r 0 info sop false) r (bs.drop cap) info false
    else (d.ringStore r (bs.take cap)).ringComplete r 1 info sop true

/-- A received Ethernet, 10BASE-T1S or CAN frame given to its ring; dropped and counted when the ring has no owned
descriptor (R343). -/
def Dev.ringFrame (d : Dev) (r : Nat) (bs : List Byte) (info : Nat) : Dev :=
  let d := d.ringReach r
  if d.ringReady r then Dev.ringFrameGo (bs.length + 1) d r bs info true
  else d.bump (R.HRNG_DROP.COUNT r)

/-- A whole cell given to ring 20 or 21: floor(LEN / 64) cells per descriptor (R344). The Bool says it was taken. -/
def Dev.ringCell (d : Dev) (r : Nat) (cell : List Byte) : Dev × Bool :=
  let d := d.ringReach r
  if d.ringReady r then
    let cap := Mem.readNat d.hmem (d.ringHead r + 8) 4 / 64 * 64
    if cap = 0 then (d.ringComplete r 1 0 true true, false)
    else
      let d := d.ringStore r (padTo cell 64)
      if cap ≤ numAt d.rings.fill r then (d.ringComplete r 0 0 true true, true) else (d, true)
  else (d, false)

/-- The current descriptor of a data ring completed, with SOP when it began a transfer. -/
def Dev.ringDataEnd (d : Dev) (r err info : Nat) (eop : Bool) : Dev :=
  let sop := d.rings.sopOpen.getD r false
  ({ d with rings := { d.rings with sopOpen := setAt d.rings.sopOpen r false } }).ringComplete r err info sop eop

/-- Data bytes of bulk cells packed into a ring (R344): the transfer's end completes the descriptor. The Bool says the bytes
were taken. -/
def Dev.ringDataGo : Nat → Dev → Nat → List Byte → Nat → Bool → Dev × Bool
  | 0, d, _, _, _, _ => (d, true)
  | n + 1, d, r, bs, info, eop =>
    let d := d.ringReach r
    if d.ringReady r then
      let cap := Mem.readNat d.hmem (d.ringHead r + 8) 4 - numAt d.rings.fill r
      if bs.length < cap then
        let d := d.ringStore r bs
        (if eop then d.ringDataEnd r 0 info true else d, true)
      else if bs.length = cap then ((d.ringStore r bs).ringDataEnd r 0 info eop, true)
      else Dev.ringDataGo n ((d.ringStore r (bs.take cap)).ringDataEnd r 0 info false) r (bs.drop cap) info eop
    else (d, false)

/-- Bulk data for ring `r` (R344): a new transfer begins a new descriptor with SOP. -/
def Dev.ringData (d : Dev) (r : Nat) (bs : List Byte) (xfer : Nat) (sop eop : Bool) : Dev × Bool :=
  let d := if sop && decide (0 < numAt d.rings.fill r) then d.ringDataEnd r 0 (xfer % 256) true else d
  let d := if sop then { d with rings := { d.rings with sopOpen := setAt d.rings.sopOpen r true } } else d
  Dev.ringDataGo (bs.length + 2) d r bs (xfer % 256) eop

/-! ## EVENT cells of the field side -/

/-- The EVENT message of Table 3-5; DATA words are stored little-endian, 4 bytes each (log entry 11). -/
def eventMsg (n kind count first last : Nat) (data : List Nat) : Msg :=
  { ty := 0x40, payload := leBytes 1 n ++ leBytes 1 kind ++ leBytes 2 count ++ leBytes 8 first ++ leBytes 8 last ++
      padTo (data.flatMap (leBytes 4)) 36 }

/-- Credits of a queue of either direction (Table 3-3). -/
def creditsOf (q : Nat) : Nat := if q = 0 then 8 else if q ≤ 2 then 15 else 12

/-- Credits a sender has left on queue `q` (R50). -/
def FlueDir.credit (fd : FlueDir) (q : Nat) : Nat := creditsOf q - (numAt fd.seq q + 32 * 256 - numAt fd.crf q) % 32

/-- A message put behind the others of its queue. -/
def FlueDir.enqueue (fd : FlueDir) (q : Nat) (m : Msg) : FlueDir := { fd with queue := setAt fd.queue q (fd.queue.getD q [] ++ [m]) }

/-- A message put on a field-to-host queue. -/
def Dev.sendF (d : Dev) (q : Nat) (m : Msg) : Dev := { d with fl := { d.fl with f2h := d.fl.f2h.enqueue q m } }

/-- A message put on a host-to-field queue. -/
def Dev.sendH (d : Dev) (q : Nat) (m : Msg) : Dev := { d with fl := { d.fl with h2f := d.fl.h2f.enqueue q m } }

/-- The journal entry form of an event the field side keeps while the link is down (R404). -/
def keepEvent (kept : List (List Byte)) (e : List Byte) : List (List Byte) := (kept ++ [e]).drop ((kept ++ [e]).length - 1024)

/-- Whether a waiting message is an EVENT of number `n` and KIND `kind` that can count one more report. -/
def coalesces (n kind : Nat) (m : Msg) : Bool :=
  m.ty == 0x40 && leAt m.payload 0 1 == n && leAt m.payload 1 1 == kind && decide (leAt m.payload 2 2 < 65535)

/-- One more report in a waiting EVENT: COUNT + 1 and LAST (R404). -/
def coalesceInto (now : Nat) (m : Msg) : Msg :=
  { m with payload := m.payload.take 2 ++ leBytes 2 (leAt m.payload 2 2 + 1) ++ slice m.payload 4 8 ++ leBytes 8 now ++ m.payload.drop 20 }

/-- The first waiting message that `p` names, changed by `g`. -/
def mapFirst {α : Type} (p : α → Bool) (g : α → α) : List α → List α
  | [] => []
  | x :: xs => if p x then g x :: xs else x :: mapFirst p g xs

/-- A field event raised at the present STC: a new EVENT cell, or, while the queue has no credit or the link is down, one
more report in the waiting cell of the same number and KIND (R404, Table 3-3; log entry 11). -/
def Dev.raise (d : Dev) (n kind : Nat) (data : List Nat) : Dev :=
  let now := d.stcNs
  let waiting := d.fl.f2h.queue.getD 2 []
  let blocked := !d.fl.up || decide (d.fl.f2h.credit 2 = 0)
  let d := if d.fl.up then d
    else { d with fl := { d.fl with keptEvents := keepEvent d.fl.keptEvents (jrnEntry now now n kind 0 0 1 0 data) } }
  if blocked && waiting.any (coalesces n kind) then
    { d with fl := { d.fl with f2h := { d.fl.f2h with queue := setAt d.fl.f2h.queue 2 (mapFirst (coalesces n kind) (coalesceInto now) waiting) } } }
  else d.sendF 2 (eventMsg n kind 1 now now data)

/-- An event of either side. -/
def Dev.raiseOn (d : Dev) (side : Side) (nF nH kind : Nat) (data : List Nat) : Dev :=
  match side with
  | .field => d.raise nF kind data
  | .host => d.raiseH nH kind data

/-! ## Injections in progress (R397) -/

/-- The active injection of a point and instance, on the side the point belongs to (points 1 to 15 field, 32 to 35 host). -/
def Dev.injected (d : Dev) (point inst : Nat) : Option Injection :=
  (if point < 32 then d.inj.field else d.inj.host).find? (fun i => i.point == point && i.inst == inst)

/-- INJSTAT of both sides: active injections, token valid and its count left. -/
def Dev.injShow (d : Dev) : Dev :=
  let left := fun (t : Option InjToken) => match t with | some x => x.count | none => 0
  d.wrAll [(R.FDIA_INJSTAT.ACTIVE, d.inj.field.length), (R.HDIA_INJSTAT.ACTIVE, d.inj.host.length),
    (R.FDIA_INJSTAT.TOKEN, b2n d.inj.tokenF.isSome), (R.HDIA_INJSTAT.TOKEN, b2n d.inj.tokenH.isSome),
    (R.FDIA_INJSTAT.COUNT, left d.inj.tokenF), (R.HDIA_INJSTAT.COUNT, left d.inj.tokenH)]

/-- An injection ended: removed, with its end event, KIND 2 (R398). -/
def Dev.injEnd (d : Dev) (point inst : Nat) : Dev :=
  match d.injected point inst with
  | none => d
  | some i =>
    let keep := fun (j : Injection) => !(j.point == point && j.inst == inst)
    let d := if point < 32 then { d with inj := { d.inj with field := d.inj.field.filter keep } }
      else { d with inj := { d.inj with host := d.inj.host.filter keep } }
    d.injShow.raiseOn (if point < 32 then .field else .host) 63 120 2 [point, inst, i.par]

/-- One use of an injection that ends after a number of uses. -/
def Dev.injUse (d : Dev) (point inst : Nat) : Dev :=
  match d.injected point inst with
  | none => d
  | some i =>
    if i.left ≤ 1 then d.injEnd point inst
    else
      let dec := fun (j : Injection) => if j.point = point ∧ j.inst = inst then { j with left := j.left - 1 } else j
      if point < 32 then { d with inj := { d.inj with field := d.inj.field.map dec } }
      else { d with inj := { d.inj with host := d.inj.host.map dec } }

/-- Whether an injection of the point and instance is active. -/
def Dev.isInjected (d : Dev) (point inst : Nat) : Bool := (d.injected point inst).isSome

end Sys2Proof.Machine
end

