-- ==== Sys2Proof/Machine/Keys.lean ====
section
/-! DEFINITION. Fuses and key derivation (R361 to R369): roots, purposes, signing keys, and what the fuse registers show. -/

namespace Sys2Proof.Machine

/-- Bytes of a number, first byte in bits [7:0]. -/
def bytesOfNat (n v : Nat) : List Byte := leBytes n v

/-- `n` big-endian bytes of a number. -/
def beBytes (n v : Nat) : List Byte := (leBytes n v).reverse

/-- Lifecycle code: the number of LC groups with at least 3 bits at 1 (R363). -/
def Fuses.lcCode (f : Fuses) : Nat :=
  ((List.range 4).filter (fun g => decide (3 ≤ ((List.range 4).filter (fun i => testBit f.lc (4 * g + i))).length))).length

/-- The die's root (R362). -/
def Fuses.rootKey (f : Fuses) : List Byte :=
  leBytes 32 (maskOf 256 (fun i => xor (testBit f.root (Config.fusePi f.mapSeed i)) (testBit f.mask (Config.fuseMu f.mapSeed i))))

/-- The test root, the same on every die (Table 19-1). -/
def troot : List Byte := (List.range 32).map (BitVec.ofNat 8)

/-- Counter-mode blocks of R368. -/
def kdfBlocks (key label context : List Byte) (nbits : Nat) : Nat → List Byte
  | 0 => []
  | n + 1 => kdfBlocks key label context nbits n ++
      Config.hmacSha384 key (beBytes 4 (n + 1) ++ label ++ [0] ++ context ++ beBytes 4 nbits)

/-- The derivation of R368 for a given key, with the lifecycle, debug and UID context. -/
def kdfWith (key : List Byte) (purpose ver lc dbg uid : Nat) (ctx : List Byte) (nbits : Nat) : List Byte :=
  (kdfBlocks key (leBytes 1 purpose ++ leBytes 2 ver) (leBytes 1 lc ++ leBytes 1 dbg ++ leBytes 8 uid ++ ctx) nbits ((nbits + 383) / 384)).take (nbits / 8)

/-- The order of the P-384 group (FIPS 186-5). -/
def p384Order : Nat := 0xffffffffffffffffffffffffffffffffffffffffffffffffc7634d81f4372ddf581a0db248b0a77aecec196accc52973

/-- The private key that 448 derived bits give (R368). -/
def p384Private (c : List Byte) : Nat := beNat c % (p384Order - 1) + 1

/-- Lifecycle code of a die as its STATE register shows it. -/
def Dev.lc (d : Dev) : Side → Nat
  | .field => d.rd R.FSEC_STATE.LC
  | .host => d.rd R.SEC_STATE.LC

/-- Debug enabled on a die (R364). -/
def Dev.dbgen (d : Dev) : Side → Bool
  | .field => d.on R.FSEC_STATE.DBGEN
  | .host => d.on R.SEC_STATE.DBGEN

def Dev.fuses (d : Dev) : Side → Fuses
  | .field => d.ffuse
  | .host => d.hfuse

def Dev.setFuses (d : Dev) (side : Side) (f : Fuses) : Dev :=
  match side with
  | .field => { d with ffuse := f }
  | .host => { d with hfuse := f }

/-- kdf of R368 on a die; none when SCRAPPED. -/
def Dev.kdf (d : Dev) (side : Side) (purpose : Nat) (ctx : List Byte) (nbits : Nat) : Option (List Byte) :=
  let lc := d.lc side
  if lc = 4 then none
  else
    let test := d.dbgen side || decide (lc = 0) || decide (lc = 3)
    let key := if test then troot else (d.fuses side).rootKey
    some (kdfWith key purpose 1 lc (b2n test) (d.fuses side).uid ctx nbits)

/-- The private key of a purpose (Table 19-4). -/
def Dev.privKey (d : Dev) (side : Side) (purpose : Nat) : Nat := p384Private ((d.kdf side purpose [] 448).getD [])

/-- The public key of a purpose; zero bytes where derivation is refused. -/
def Dev.pubKey (d : Dev) (side : Side) (purpose : Nat) : List Byte :=
  if (d.kdf side purpose [] 448).isSome then Config.ecdsaPublic (d.privKey side purpose) else List.replicate 96 0

/-- A signature of a die's derived key over SHA-384 of a byte string. -/
def Dev.signBytes (d : Dev) (side : Side) (purpose : Nat) (bs : List Byte) : List Byte :=
  Config.ecdsaSign (d.privKey side purpose) (Config.sha384 bs)

/-- 32-bit words of a byte string written to consecutive registers. -/
def Dev.wrWords (d : Dev) (f : Nat → Fld) (bs : List Byte) : Dev :=
  d.forAll ((leWords ((bs.length + 3) / 4) bs).zipIdx) (fun d w => d.wr (f w.2) w.1)

/-- Bytes of consecutive registers. -/
def Dev.rdWords (d : Dev) (f : Nat → Fld) (n : Nat) : List Byte := (List.range n).flatMap (fun i => leBytes 4 (d.rd (f i)))

/-- Slots as a PROG mask. -/
def Fuses.prog (f : Fuses) : Nat := maskOf f.slots.length (fun i => (f.slots.getD i none).isSome)

/-- What the field die's fuse registers show from point B of Table 2-5 on: variant, lifecycle, slots, UID, seal and binding
(R282, R361, section 19.9); the public keys are derived when they are read. -/
def Dev.fuseShowF (d : Dev) : Dev :=
  let f := d.ffuse
  let dbg := d.on R.FSEC_STATE.DBGEN
  let sealSt := if f.variant = 2 then 2 else if dbg then 3 else b2n f.sealed
  let d := d.wrAll [(R.FSYS_VARIANT.VARIANT, f.variant), (R.FSEC_STATE.REV, f.rev), (R.FSEC_STATE.PROG, f.prog), (R.FSEC_STATE.PINNED, b2n f.pin.isSome),
    (R.FSEC_STATE.LC, f.lcCode), (R.FSEC_UID_LO.UID, f.uid), (R.FSEC_UID_HI.UID, f.uid / 2 ^ 32), (R.BIL_SEAL.STATE, sealSt)]
  d.wrWords R.BIL_BIND.DIG (if f.sealed then f.bind else List.replicate 48 0)

/-- What the host die's fuse registers show. -/
def Dev.fuseShowH (d : Dev) : Dev :=
  let f := d.hfuse
  d.wrAll [(R.SEC_STATE.REV, f.rev), (R.SEC_STATE.PROG, f.prog), (R.SEC_STATE.PINNED, b2n f.pin.isSome), (R.SEC_STATE.CONT, b2n f.cont),
    (R.SEC_STATE.LC, f.lcCode), (R.SEC_UID_LO.UID, f.uid), (R.SEC_UID_HI.UID, f.uid / 2 ^ 32)]

/-- Whether the RWL fields are sealed (R283). -/
def Dev.rwlSealed (d : Dev) : Bool :=
  decide (d.rd R.BIL_SEAL.STATE = 1) || (decide (d.rd R.BIL_SEAL.STATE = 3) && d.ffuse.sealed)

end Sys2Proof.Machine
end

