-- ==== Sys2Proof/Machine/Ash.lean ====
section
/-! DEFINITION. The host's ash record (R409, R410): header, register snapshot, gathering and LOST. The header's fields are state of
their own: Table 21-5 names them and gives no places for them inside the 2 KiB. -/

namespace Sys2Proof.Machine

/-- HDIA_ASHSTAT shown from the header. -/
def Dev.ashShow (d : Dev) : Dev :=
  d.wrAll [(R.HDIA_ASHSTAT.LOST, min 255 d.ash.hLost), (R.HDIA_ASHSTAT.CAUSE, d.ash.hCause), (R.HDIA_ASHSTAT.STATE, d.ash.hState)]

/-- STATE set, with event 122. -/
def Dev.ashState (d : Dev) (st kind : Nat) : Dev := ({ d with ash := { d.ash with hState := st } }.ashShow).raiseH 122 kind [d.ash.hCause]

/-- Every host register block copied into the snapshot area (R409). -/
def Dev.ashSnap (d : Dev) : Dev :=
  let host := d.regs.filter (fun e => decide (0x20000000 ≤ e.1 / 32))
  { d with hmem := Mem.writeBytes d.hmem 0xFC001000 (padTo (Config.snapshotBytes host) 61440) }

/-- The region may take a new record: EMPTY or EXPORTED, and none begun. -/
def Dev.ashFree (d : Dev) : Bool := (decide (d.ash.hState = 0) || decide (d.ash.hState = 5)) && d.ash.hPend.isNone

/-- A host fatal error (R409, R410): a record that is not EXPORTED stays and LOST rises; otherwise the record takes the cause and
times. Causes 6 and 7 come with the snapshot by hardware and a warm reset, after which the gathering begins; with the others it
begins at once. -/
def Dev.hostFatal (d : Dev) (cause : Nat) : Dev :=
  if d.ashFree then
    let a := { d.ash with hState := 0, hCause := cause, hStc := d.stcNs, hTime := d.htcNs, hLost := 0, hEnd := 0 }
    let d := { d with ash := a }
    if cause = 6 ∨ cause = 7 then ({ d with ash := { d.ash with hPend := some cause } }.ashShow).ashSnap else d.ashState 1 0
  else
    ({ d with ash := { d.ash with hLost := d.ash.hLost + 1 } }.ashShow).raiseH 122 3 [cause]

end Sys2Proof.Machine
end

