-- ==== Sys2Proof/Machine/Time.lean ====
section
/-! DEFINITION. Site time (chapter 5): sources, servo, steps, holdover, PPS_OUT and the STC reads. -/

namespace Sys2Proof.Machine

/-- Whether a source code of Table 5-3 is enabled and valid (R99). -/
def Dev.sourceUsable (d : Dev) (code : Nat) : Bool :=
  match code with
  | 1 => d.on R.STC_CFG.PPSEN && d.on R.STC_STAT.PPSOK
  | 2 => d.on R.STC_CFG.PTP0EN && d.on R.STC_STAT.PTP0OK
  | 3 => d.on R.STC_CFG.PTP1EN && d.on R.STC_STAT.PTP1OK
  | _ => false

/-- The source R99 selects: the preferred one if it is usable, else the usable one with the lowest code, else 0. -/
def Dev.chooseSource (d : Dev) : Nat :=
  let pref := d.rd R.STC_CFG.PREF + 1
  if d.sourceUsable pref then pref
  else if d.sourceUsable 1 then 1 else if d.sourceUsable 2 then 2 else if d.sourceUsable 3 then 3 else 0

/-- STC_ESTERR (R106): in FREERUN all ones, in HOLDOVER grown since entry, otherwise the error of the last sample. -/
def Dev.estErr (d : Dev) : Nat :=
  match d.rd R.STC_STAT.STATE with
  | 0 => 0xFFFFFFFF
  | 3 => min 0xFFFFFFFE (d.tm.holdErr + d.rd R.STC_HOLDCFG.HORATE * ((d.tm.q - d.tm.holdAt) * 5 / 2) / 10 ^ 9)
  | _ => min 0xFFFFFFFE (d.rd R.STC_ESTERR.ERR)

/-- STATE and SOURCE changed to new values, with event 32 when either changes (R105). -/
def Dev.stcSet (d : Dev) (state source : Nat) : Dev :=
  let os := d.rd R.STC_STAT.STATE
  let oc := d.rd R.STC_STAT.SOURCE
  if os = state ∧ oc = source then d
  else
    let d := (d.wr R.STC_STAT.STATE state).wr R.STC_STAT.SOURCE source
    let d := if oc = source then d else d.bump R.STC_CNT.SRCCHG
    d.raise 32 0 [os, state, oc, source]

/-- The rate registers after a change of f or p (R102). -/
def Dev.rateShow (d : Dev) : Dev := (d.wrS R.STC_RATE.RATE (d.tm.f + d.tm.p)).wrS R.STC_FREQ.F d.tm.f

/-- Source selection after a change of validity or enable (R99, Table 5-4). -/
def Dev.reselect (d : Dev) : Dev :=
  let new := d.chooseSource
  let old := d.rd R.STC_STAT.SOURCE
  if new = old then d
  else if new = 0 then
    let d := { d with tm := { d.tm with p := 0, first := true, okRun := 0, holdErr := d.estErr, holdAt := d.tm.q } }
    d.rateShow.stcSet 3 0
  else
    let d := { d with tm := { d.tm with okRun := 0 } }
    d.stcSet 1 new

/-- The servo of R102 for one sample with phase error `e` in ns. -/
def Dev.servo (d : Dev) (e : Int) : Dev :=
  let smax : Int := d.rd R.STC_CFG.SLEWMAX * 100000
  let drift : Int := if d.tm.first then 0 else e - d.tm.ePrev - divz d.tm.p 100
  let f := clampInt (d.tm.f + divz (-drift * 100) 4) (-1000000) 1000000
  let p := clampInt (divz (-e * 100) (d.rd R.STC_CFG.TC)) (-smax) smax
  ({ d with tm := { d.tm with f := f, p := p, ePrev := e, first := false } }).rateShow

/-- Legs that switch: RUN or FORCED (Table 9-9), with F3 on. -/
def Dev.legsSwitch (d : Dev) : Bool :=
  d.domOn .f3 && (List.range 80).any (fun n => d.rd (R.PWM_LEGSTAT.STATE (n / 4) (n % 4)) == 1 || d.rd (R.PWM_LEGSTAT.STATE (n / 4) (n % 4)) == 3)

/-- STEPEN is 1 and the mode is READY or lower (R103). -/
def Dev.stepModeOk (d : Dev) : Bool := d.on R.STC_CFG.STEPEN && d.mode.readyOrLower

/-- Lock state after a sample (Table 5-4). -/
def Dev.lockStep (d : Dev) (e : Int) : Dev :=
  let small := decide (e.natAbs ≤ 1000)
  let n := if small then d.tm.okRun + 1 else 0
  let d := { d with tm := { d.tm with okRun := n } }
  let src := d.rd R.STC_STAT.SOURCE
  match d.rd R.STC_STAT.STATE with
  | 1 => if 3 ≤ n then d.stcSet 2 src else d
  | 2 => if 2000 < e.natAbs then ({ d with tm := { d.tm with okRun := 0 } }).stcSet 1 src else d
  | _ => d

/-- One sample of the selected source, phase error in 1/16 ns (R102, R103, R106). -/
def Dev.stcSample (d : Dev) (e16 : Int) (sec : Bool) : Dev :=
  let e := divz e16 16
  let d := d.wrS R.STC_PHERR.E (sat e 32)
  let d := d.wr R.STC_ESTERR.ERR (min 0xFFFFFFFE e.natAbs)
  let d := if e.natAbs < d.rd R.STC_HOLDCFG.ERRLIM then { d with tm := { d.tm with errHigh := false } } else d
  let d := d.lockStep e
  if !sec && decide (e.natAbs ≤ 1000) then
    ({ (d.servo e) with tm := { (d.servo e).tm with step := none } }).wr R.STC_STAT.STEPPEND 0
  else if d.stepModeOk then
    let d := { d with tm := { d.tm with step := some (e16, sec) } }
    if d.legsSwitch then (d.wr R.STC_STAT.STEPPEND 1).servo e else d
  else ({ d with tm := { d.tm with step := none } }).servo e

/-- The nearest multiple of `m` steps to `x`, ties away from zero (R104). -/
def roundAway (x : Int) (m : Nat) : Int :=
  if 0 ≤ x then (2 * x + m) / (2 * m) else -((2 * (-x) + m) / (2 * m))

/-- A step applied (R104): e rounded to 2.5 ns is taken off the STC. -/
def Dev.stcStepApply (d : Dev) (e16 : Int) (sec : Bool) : Dev :=
  let n := roundAway e16 40
  let rest := divz (e16 - 40 * n) 16
  let d := { d with tm := { d.tm with q := ((d.tm.q : Int) - n).toNat, ePrev := rest, p := 0, step := none, lastSec := none,
                                       setSec := if sec then none else d.tm.setSec } }
  let d := d.rateShow
  let d := d.wr R.STC_ESTERR.ERR rest.natAbs
  let d := if rest.natAbs < d.rd R.STC_HOLDCFG.ERRLIM then { d with tm := { d.tm with errHigh := false } } else d
  let d := d.wr R.STC_STAT.STEPPEND 0
  let d := if sec then d.wr R.STC_STAT.SECPEND 0 else d
  let d := d.bump R.STC_CNT.STEPS
  d.raise 33 0 [unsigned (divz (5 * n) 2) 64 % 2 ^ 32, unsigned (divz (5 * n) 2) 64 / 2 ^ 32]

/-- The phase error of a captured edge in 1/16 ns (R100): the capture less DLY, from the nearest whole second. -/
def Dev.ppsError (d : Dev) (cap : Nat) : Int :=
  let x : Int := (cap : Int) - 16 * d.rd R.STC_PPSCFG.DLY
  let r := x % 16000000000
  if 8000000000 ≤ r then r - 16000000000 else r

/-- The sample an accepted edge gives while PPS_IN is selected: the armed seconds setting where a step may be made (R109),
the phase error otherwise. -/
def Dev.ppsSample (d : Dev) (cap : Nat) (e16 : Int) : Dev :=
  match d.tm.setSec with
  | some s =>
    if d.stepModeOk then d.stcSample ((cap : Int) - 16 * d.rd R.STC_PPSCFG.DLY - 16 * (s * 10 ^ 9 : Nat)) true
    else d.stcSample e16 false
  | none => d.stcSample e16 false

/-- Whether a capture lies 1 s ± WIN behind the last accepted one (R99), in 1/16 ns. -/
def Dev.ppsNear (d : Dev) (cap : Nat) : Bool :=
  match d.tm.ppsLast with
  | some l => decide (l + 16 * 10 ^ 9 ≤ cap + d.rd R.STC_PPSCFG.WIN * 16000) && decide (cap ≤ l + 16 * 10 ^ 9 + d.rd R.STC_PPSCFG.WIN * 16000)
  | none => false

/-- An accepted PPS edge: validity, source selection, and its sample when PPS_IN is selected (R99, R100, R109). -/
def Dev.ppsAccept (d : Dev) (cap : Nat) (e16 : Int) : Dev :=
  let run := if d.ppsNear cap then d.tm.ppsRun + 1 else 1
  let d := { d with tm := { d.tm with ppsRun := run, ppsLast := some cap, ppsMissRun := 0 } }
  let d := if 3 ≤ run then d.wr R.STC_STAT.PPSOK 1 else d
  let d := d.reselect
  if d.rd R.STC_STAT.SOURCE = 1 then d.ppsSample cap e16 else d

/-- PPS_IN_EDGE, capture in 1/16 ns of the STC (R100). While injection point 8 is active the edge is ignored (Table 21-1). -/
def Dev.ppsEdge (d : Dev) (cap : Nat) (ignored : Bool) : Dev :=
  if ignored then d
  else
    let d := d.advanceTo (cap / 40)
    let e16 := d.ppsError cap
    if d.on R.STC_STAT.PPSOK && decide (d.rd R.STC_PPSCFG.WIN * 16000 < e16.natAbs) then d.bump R.STC_CNT.PPSREJ
    else d.ppsAccept cap e16

/-- PPS_MISSING_SECOND (R99, R100). -/
def Dev.ppsMissing (d : Dev) : Dev :=
  let n := d.tm.ppsMissRun + 1
  let d := (d.bump R.STC_CNT.PPSMISS)
  let d := { d with tm := { d.tm with ppsMissRun := n, ppsRun := 0 } }
  if 3 ≤ n then (d.wr R.STC_STAT.PPSOK 0).reselect else d

/-- STC_STAT.PTP0OK or PTP1OK. -/
def ptpOk (p : Nat) : Fld := if p = 0 then R.STC_STAT.PTP0OK else R.STC_STAT.PTP1OK

/-- PTP_OFFSET_SAMPLE (R99, R101). -/
def Dev.ptpSample (d : Dev) (p : Nat) (ofs : Int) : Dev :=
  let ofs := wrap ofs 32
  let n := numAt d.tm.ptpRun p + 1
  let d := { d with tm := { d.tm with ptpRun := setAt d.tm.ptpRun p n } }
  let d := if 3 ≤ n then d.wr (ptpOk p) 1 else d
  let d := d.reselect
  if d.rd R.STC_STAT.SOURCE = 2 + p then d.stcSample (16 * ofs) false else d

/-- PTP_SAMPLE_TIMEOUT (R99). -/
def Dev.ptpTimeout (d : Dev) (p : Nat) : Dev :=
  ({ d with tm := { d.tm with ptpRun := setAt d.tm.ptpRun p 0 } }.wr (ptpOk p) 0).reselect

/-- ESTERR_LIMIT (R106). -/
def Dev.estErrCheck (d : Dev) : Dev :=
  if d.rd R.STC_HOLDCFG.ERRLIM ≤ d.estErr ∧ d.tm.errHigh = false then
    ({ d with tm := { d.tm with errHigh := true } }).raise 33 1 [d.estErr]
  else d

/-- The first whole multiple of `n` steps at or after `q` that lies above `last`. -/
def nextGrid (q n : Nat) (last : Option Nat) : Nat :=
  let m := (q + n - 1) / n
  match last with
  | some l => if m * n = q ∧ m = l then m + 1 else m
  | none => m

/-- STC_SECOND (R96, R110). -/
def Dev.stcSecond (d : Dev) : Dev :=
  let s := nextGrid d.tm.q 400000000 d.tm.lastSec
  let d := d.advanceTo (s * 400000000)
  let mode := d.rd R.STC_PPSOUT.MODE
  let pulse := mode = 1 ∨ mode = 2 ∧ d.rd R.STC_STAT.STATE = 2
  { d with tm := { d.tm with lastSec := some s, f0 := s * 400000000, ppsOut := if pulse then true else d.tm.ppsOut } }

/-- STC_SETSEC_HI written (R109): SEC [47:32], and ARM arms the setting. -/
def Dev.setSecHi (d : Dev) (v : Nat) : Dev :=
  let d := d.wr R.STC_SETSEC_HI.SEC (bits v 15 0)
  if testBit v 31 then
    { (d.wr R.STC_STAT.SECPEND 1) with tm := { d.tm with setSec := some (d.rd R.STC_SETSEC_HI.SEC * 2 ^ 32 + d.rd R.STC_SETSEC_LO.SEC) } }
  else d

/-- STC_NOW_LO read (R111): HI and FR latch in the same cycle. -/
def Dev.readNowLo (d : Dev) : Dev :=
  { ((d.wr R.STC_NOW_HI.NS (d.stcNs / 2 ^ 32)).wr R.STC_NOW_FR.FR d.stcFr) with lastRead := d.stcNs % 2 ^ 32 }

/-- The STC loaded from the F0 time counter when F1 is released (R96), at the counter's resolution of 1/32,768 s. -/
def Dev.stcLoad (d : Dev) : Dev :=
  let u := d.tm.f0 * 32768 / 400000000
  let hq := d.tm.hq
  let f0 := d.tm.f0
  let rtc := d.tm.rtc
  { d with tm := { q := (u * 400000000 + 32767) / 32768, f0 := f0, hq := hq, rtc := rtc } }

/-- PTP_SAMPLE_TIMEOUT: 3.0 s without a sample on a PTP port (R99). -/
def execPtpSampleTimeout (port : Fin 2) (s : State) : Host.Outcome State Fault Refusal := done s (·.ptpTimeout port)

/-- PTP_OFFSET_SAMPLE: one write of STC_PTPOFS (R101). -/
def execPtpOffsetSample (port : Fin 2) (ofs : Int) (s : State) : Host.Outcome State Fault Refusal := done s (·.ptpSample port ofs)

/-- PPS_MISSING_SECOND (R100). -/
def execPpsMissingSecond (s : State) : Host.Outcome State Fault Refusal := done s Dev.ppsMissing

/-- SERVO_SAMPLE_TIMEOUT: 1.5 s without a sample: p := 0 and f held (R102). -/
def execServoSampleTimeout (s : State) : Host.Outcome State Fault Refusal :=
  done s (fun d => ({ d with tm := { d.tm with p := 0 } }).rateShow)

/-- ESTERR_LIMIT (R106). -/
def execEsterrLimit (s : State) : Host.Outcome State Fault Refusal := done s Dev.estErrCheck

/-- STC_SECOND (R96, R110). -/
def execStcSecond (s : State) : Host.Outcome State Fault Refusal := done s Dev.stcSecond

/-- PPS_OUT_FALL: the pulse ends after its WIDTH (R110). -/
def execPpsOutFall (s : State) : Host.Outcome State Fault Refusal :=
  done s (fun d => { d with tm := { d.tm with ppsOut := false } })

/-- STC_SETSEC_HI_ARM: the word written to STC_SETSEC_HI (R109). -/
def execStcSetsecHiArm (value : Nat) (s : State) : Host.Outcome State Fault Refusal := done s (·.setSecHi value)

/-- STC_NOW_LO_READ (R111). -/
def execStcNowLoRead (s : State) : Host.Outcome State Fault Refusal := done s Dev.readNowLo

end Sys2Proof.Machine
end

