-- ==== Sys2Proof/Machine/Flue.lean ====
section
/-! DEFINITION. The flue (chapter 3): cells, credits, slots, the endpoints' supervision, and the host's receipt of
field messages. -/

namespace Sys2Proof.Machine

/-! ## Cells -/

/-- The queue a message type belongs to (Table 3-3); none for 0x80 to 0xFF. -/
def queueOfType (ty : Nat) : Option Nat :=
  if ty < 0x10 then some 0 else if ty < 0x40 then some 1 else if ty < 0x60 then some 2 else if ty < 0x68 then some 3
  else if ty < 0x70 then some 4 else if ty < 0x74 then some 5 else if ty < 0x78 then some 6 else if ty < 0x80 then some 7 else none

/-- Types defined for the direction towards a receiver (Table 3-5). -/
def typeDefined (receiver : Side) (ty : Nat) : Bool :=
  match receiver with
  | .field => [0x00, 0x02, 0x03, 0x04, 0x10, 0x11, 0x13, 0x14, 0x60, 0x61, 0x68, 0x74, 0x78].contains ty
  | .host => [0x01, 0x12, 0x15, 0x40, 0x41, 0x42, 0x62, 0x69, 0x70, 0x75, 0x79].contains ty

/-- Whether LEN is the one Table 3-5 requires. PARAM_WR, PARAM_RD and TARGET_SET answer an inconsistent LEN with FORMAT, so any
LEN up to 56 passes here. -/
def lenFits (ty len : Nat) : Bool :=
  match ty with
  | 0x00 | 0x02 | 0x03 | 0x04 | 0x14 | 0x62 => len == 8
  | 0x01 | 0x42 => len == 16
  | 0x10 | 0x11 | 0x13 => decide (len ≤ 56)
  | 0x12 | 0x40 | 0x61 | 0x68 | 0x74 | 0x78 => len == 56
  | 0x15 => len == 24
  | 0x41 => decide (12 ≤ len) && decide (len ≤ 56) && decide (len % 4 = 0)
  | 0x60 | 0x69 | 0x70 | 0x75 | 0x79 => decide (9 ≤ len) && decide (len ≤ 56)
  | _ => false

/-- The 64 bytes of a cell (Tables 3-1 and 3-2). -/
def cellBytes (m : Msg) (dup xc : Bool) (seq crq crf : Nat) : List Byte :=
  let body := leBytes 4 (m.ty + m.payload.length * 2 ^ 8 + b2n dup * 2 ^ 14 + b2n xc * 2 ^ 15 + seq * 2 ^ 16 + crq * 2 ^ 24 + crf * 2 ^ 27)
    ++ padTo m.payload 56
  body ++ leBytes 4 (crc32c body)

/-- A cell whose CRC is inverted (injection points 5 and 32). -/
def spoilCrc (cell : List Byte) : List Byte := cell.take 60 ++ leBytes 4 (Nat.xor (leAt cell 60 4) 0xFFFFFFFF)

/-- The message a cell carries. -/
def msgOfCell (cell : List Byte) : Msg := { ty := leAt cell 0 1, payload := slice cell 4 (bits (leAt cell 0 4) 13 8) }

/-! ## The two directions -/

/-- The direction a side sends on. -/
def Dev.sendDir (d : Dev) : Side → FlueDir
  | .field => d.fl.f2h
  | .host => d.fl.h2f

/-- The direction a side receives on. -/
def Dev.recvDir (d : Dev) : Side → FlueDir
  | .field => d.fl.h2f
  | .host => d.fl.f2h

def Dev.setSendDir (d : Dev) (side : Side) (fd : FlueDir) : Dev :=
  match side with
  | .field => { d with fl := { d.fl with f2h := fd } }
  | .host => { d with fl := { d.fl with h2f := fd } }

def Dev.setRecvDir (d : Dev) (side : Side) (fd : FlueDir) : Dev :=
  match side with
  | .field => { d with fl := { d.fl with h2f := fd } }
  | .host => { d with fl := { d.fl with f2h := fd } }

/-- Credits shown in FFLU_CREDIT and HFLU_CREDIT. -/
def Dev.creditShow (d : Dev) : Dev :=
  d.wrAll [(R.FFLU_CREDIT.Q0, d.fl.f2h.credit 0), (R.FFLU_CREDIT.Q1, d.fl.f2h.credit 1), (R.FFLU_CREDIT.Q2, d.fl.f2h.credit 2),
    (R.FFLU_CREDIT.Q3, d.fl.f2h.credit 3), (R.FFLU_CREDIT.Q4, d.fl.f2h.credit 4), (R.FFLU_CREDIT.Q5, d.fl.f2h.credit 5),
    (R.FFLU_CREDIT.Q6, d.fl.f2h.credit 6), (R.FFLU_CREDIT.Q7, d.fl.f2h.credit 7),
    (R.HFLU_CREDIT.Q0, d.fl.h2f.credit 0), (R.HFLU_CREDIT.Q1, d.fl.h2f.credit 1), (R.HFLU_CREDIT.Q2, d.fl.h2f.credit 2),
    (R.HFLU_CREDIT.Q3, d.fl.h2f.credit 3), (R.HFLU_CREDIT.Q4, d.fl.h2f.credit 4), (R.HFLU_CREDIT.Q5, d.fl.h2f.credit 5),
    (R.HFLU_CREDIT.Q6, d.fl.h2f.credit 6), (R.HFLU_CREDIT.Q7, d.fl.h2f.credit 7)]

/-- `k` buffers of queue `q` freed at a receiver (R50). -/
def FlueDir.free (fd : FlueDir) (q k : Nat) : FlueDir :=
  if k = 0 then fd else { fd with freed := setAt fd.freed q ((numAt fd.freed q + k) % 32), changed := setAt fd.changed q true }

/-! ## Link state -/

/-- The link state lost (R46): nothing passes until the next FLUE_LINK_UP, and what the receivers held is gone. -/
def Dev.linkDown (d : Dev) : Dev :=
  let was := d.fl.up
  let d := { d with fl := { d.fl with up := false, h2f := { d.fl.h2f with accepted := [], dup := none },
                                      f2h := { d.fl.f2h with accepted := [], dup := none } } }
  let d := d.wrAll [(R.FFLU_LINK.UP, 0), (R.HFLU_LINK.UP, 0), (R.FFLU_LINK.LANE0, 0), (R.FFLU_LINK.LANE1, 0), (R.HFLU_LINK.LANE0, 0), (R.HFLU_LINK.LANE1, 0)]
  if was then (d.raise 2 0 [0]).raiseH 72 0 [0] else d

/-- Counters of one direction at their initial values (R46); waiting messages stay. -/
def FlueDir.trained (fd : FlueDir) : FlueDir :=
  { fd with slot := 0, seq := List.replicate 8 0, crf := List.replicate 8 0, dup := none, rrQueue := 3, rrSent := 0,
            expSeq := List.replicate 8 0, freed := List.replicate 8 0, changed := List.replicate 8 false, rot := 0, turn := 7,
            xcBusy := false, lastSafety := none, failRun := [0, 0], accepted := [],
            single := fd.trainFails.any (fun n => decide (3 ≤ n)) }

/-- The messages of one bulk transfer: 48 data bytes each with XFER and OFFSET (Table 3-5). -/
def bulkMsgs (ty xfer : Nat) : Nat → Nat → List Byte → List Msg
  | 0, _, _ => []
  | n + 1, off, bs =>
    if bs = [] then []
    else { ty := ty, payload := leBytes 2 xfer ++ leBytes 4 off ++ leBytes 2 0 ++ bs.take 48 } :: bulkMsgs ty xfer n (off + 48) (bs.drop 48)

/-- A byte string queued as one bulk transfer. -/
def Dev.sendBulk (d : Dev) (q ty xfer : Nat) (bs : List Byte) : Dev :=
  d.forAll (bulkMsgs ty xfer (bs.length + 1) 0 bs) (fun d m => d.sendF q m)

/-- FLUE_LINK_UP (R46): counters at their initial values on both ends, LINK and CREDIT shown, TSDLY of R57, and the events
kept while the link was down sent as one JRN_DATA transfer (R404). -/
def Dev.linkUp (d : Dev) : Dev :=
  let d := { d with fl := { d.fl with up := true, h2f := d.fl.h2f.trained, f2h := d.fl.f2h.trained } }
  let lane := fun (fd : FlueDir) (i : Nat) => b2n (decide (numAt fd.trainFails i < 3))
  let d := d.wrAll [(R.FFLU_LINK.UP, 1), (R.HFLU_LINK.UP, 1), (R.FFLU_LINK.SINGLE, b2n d.fl.f2h.single), (R.HFLU_LINK.SINGLE, b2n d.fl.h2f.single),
    (R.FFLU_LINK.LANE0, lane d.fl.f2h 0), (R.FFLU_LINK.LANE1, lane d.fl.f2h 1), (R.HFLU_LINK.LANE0, lane d.fl.h2f 0), (R.HFLU_LINK.LANE1, lane d.fl.h2f 1),
    (R.FFLU_LINK.TRAINS, d.rd R.FFLU_LINK.TRAINS + 1), (R.HFLU_LINK.TRAINS, d.rd R.HFLU_LINK.TRAINS + 1),
    (R.HFLU_TSDLY.DLY, if d.fl.f2h.single then 1187 else 653)]
  let d := (d.creditShow.raise 2 0 [1]).raiseH 72 0 [1]
  let kept := d.fl.keptEvents
  ({ d with fl := { d.fl with keptEvents := [] } }).sendBulk 5 0x70 0 kept.flatten

/-- FLUE_RETRAIN (R46, R47): the lane that failed, and how many trainings in a row it then failed. -/
def Dev.retrain (d : Dev) (sender : Side) (lane fails : Nat) : Dev :=
  let fd := d.sendDir sender
  (d.setSendDir sender { fd with trainFails := setAt fd.trainFails lane fails }).linkDown

/-! ## Sending -/

/-- Bulk queue that the round robin visits next: from the present queue on, the first with a cell and a credit (R51). -/
def FlueDir.bulkNext (fd : FlueDir) (weight : Nat → Nat) : Option Nat :=
  let ready := fun q => !(fd.queue.getD q []).isEmpty && decide (0 < fd.credit q)
  let cur := fd.rrQueue
  if ready cur && decide (fd.rrSent < weight cur) then some cur
  else [1, 2, 3, 4, 5].map (fun k => 3 + (cur - 3 + k) % 5) |>.find? ready

/-- The weight of a bulk sub-stream (FFLU_BULKWT, HFLU_BULKWT). -/
def Dev.bulkWeight (d : Dev) (sender : Side) (q : Nat) : Nat :=
  match sender, q with
  | .field, 3 => d.rd R.FFLU_BULKWT.IMAGE | .field, 4 => d.rd R.FFLU_BULKWT.CAPTURE | .field, 5 => d.rd R.FFLU_BULKWT.JOURNAL
  | .field, 6 => d.rd R.FFLU_BULKWT.ASH | .field, _ => d.rd R.FFLU_BULKWT.RECORD
  | .host, 3 => d.rd R.HFLU_BULKWT.IMAGE | .host, 4 => d.rd R.HFLU_BULKWT.CAPTURE | .host, 5 => d.rd R.HFLU_BULKWT.JOURNAL
  | .host, 6 => d.rd R.HFLU_BULKWT.ASH | .host, _ => d.rd R.HFLU_BULKWT.RECORD

/-- What a slot carries (R51): the queue of the cell, none for IDLE, and XC. -/
def FlueDir.choose (fd : FlueDir) (weight : Nat → Nat) : Option Nat × Bool :=
  let waiting := fun q => !(fd.queue.getD q []).isEmpty
  let safety := fd.dup.isSome || waiting 0
  if fd.slot = 0 then (if safety then (some 0, decide (fd.credit 0 = 0)) else (none, false))
  else if safety && decide (0 < fd.credit 0) then (some 0, false)
  else if waiting 1 && decide (0 < fd.credit 1) then (some 1, false)
  else if waiting 2 && decide (0 < fd.credit 2) then (some 2, false)
  else (fd.bulkNext weight, false)

/-- The freed-count report of a cell (R50): the queues that changed take turns in ascending order, else the rotation. -/
def FlueDir.report (fd : FlueDir) : Nat × FlueDir :=
  match ([1, 2, 3, 4, 5, 6, 7, 8].map (fun k => (fd.turn + k) % 8)).find? (fun q => fd.changed.getD q false) with
  | some q => (q, { fd with turn := q, changed := setAt fd.changed q false })
  | none => (fd.rot, { fd with rot := (fd.rot + 1) % 8 })

/-- The message of the queue chosen, and the direction after it has left: its SEQ used, a first SAFETY copy remembered for
its DUP copy, the round robin moved on (R51, R53). -/
def FlueDir.take (fd : FlueDir) (q : Nat) : Msg × Bool × FlueDir :=
  let seq := setAt fd.seq q ((numAt fd.seq q + 1) % 256)
  match q, fd.dup with
  | 0, some m => (m, true, { fd with seq := seq, dup := none })
  | _, _ =>
    let m := ((fd.queue.getD q []).head?).getD {}
    let fd' := { fd with seq := seq, queue := setAt fd.queue q ((fd.queue.getD q []).drop 1) }
    if q = 0 then (m, false, { fd' with dup := some m })
    else if 3 ≤ q then (m, false, { fd' with rrQueue := q, rrSent := if q = fd.rrQueue then fd.rrSent + 1 else 1 })
    else (m, false, fd')

/-- A TIME_SYNC takes the STC of the start of its slot (R57). -/
def Dev.stampMsg (d : Dev) (m : Msg) : Msg :=
  if m.ty = 0x15 then { m with payload := leBytes 8 d.stcNs ++ leBytes 4 d.stcFr ++ m.payload.drop 12 } else m

/-- FLUE_CELL_SLOT: one slot of a sender (R50, R51, R53). While the link is down no cell passes. -/
def Dev.cellSlot (d : Dev) (sender : Side) : Dev :=
  if d.fl.up = false then d
  else
    let (crq, back) := (d.recvDir sender).report
    let crf := numAt back.freed crq
    let d := d.setRecvDir sender back
    let fd := d.sendDir sender
    let nslot := (fd.slot + 1) % 64
    match fd.choose (d.bulkWeight sender) with
    | (none, _) =>
      d.setSendDir sender { fd with slot := nslot, lastCell := cellBytes { ty := 0xFF, payload := [] } false false 0 crq crf }
    | (some q, xc) =>
      let seq := numAt fd.seq q
      let (m, dup, fd') := fd.take q
      let cell := cellBytes (d.stampMsg m) dup xc seq crq crf
      let point := match sender with | .field => 5 | .host => 32
      let cell' := if d.isInjected point 0 then spoilCrc cell else cell
      ((d.setSendDir sender { fd' with slot := nslot, lastCell := cell' }).injUse point 0).creditShow

/-! ## Receiving -/

/-- A count of the receiver's ERR register raised, with its event (FSYS event 3, HFLU event 73). -/
def Dev.flueErr (d : Dev) (receiver : Side) (f h : Fld) (k : Nat) : Dev :=
  if k = 0 then d
  else match receiver with
    | .field => (d.bumpBy f k).raise 3 0 [k]
    | .host => (d.bumpBy h k).raiseH 73 0 [k]

/-- SEQ of a good cell of queue `q` (R49): none when it is stale, otherwise the gap. -/
def FlueDir.gap (fd : FlueDir) (q seq : Nat) : Option Nat :=
  let g := (seq + 256 - numAt fd.expSeq q) % 256
  if 128 ≤ g then none else some g

/-- The counters of a queue after a cell that is `g` ahead (R49, R55). -/
def FlueDir.advance (fd : FlueDir) (q seq g : Nat) : FlueDir :=
  let fd := ({ fd with expSeq := setAt fd.expSeq q ((seq + 1) % 256) }).free q g
  if 3 ≤ q ∧ 0 < g then { fd with damaged := setAt fd.damaged (q - 3) true } else fd

/-- What becomes of a cell of queue `q` whose CRC, TYPE and LEN are good and whose SEQ is not stale: a second SAFETY copy is
freed without action, an XC cell needs the XC buffer, everything else is accepted (R52, R53). -/
def Dev.acceptCell (d : Dev) (receiver : Side) (q : Nat) (cell : List Byte) : Dev :=
  let fd := d.recvDir receiver
  let w := leAt cell 0 4
  let m := msgOfCell cell
  if q = 0 ∧ testBit w 14 = true ∧ fd.lastSafety = some m then d.setRecvDir receiver ({ fd with lastSafety := none }.free 0 1)
  else if q = 0 ∧ testBit w 15 = true ∧ fd.xcBusy = true then
    (d.setRecvDir receiver (fd.free 0 1)).flueErr receiver R.FFLU_ERR.INVALID R.HFLU_ERR.INVALID 1
  else
    let busy := fd.xcBusy || (decide (q = 0) && testBit w 15)
    let last := if q = 0 then (if testBit w 14 then none else some m) else fd.lastSafety
    d.setRecvDir receiver { fd with accepted := fd.accepted ++ [cell], xcBusy := busy, lastSafety := last }

/-- FLUE_CELL_RECEIVE (R49 to R53). -/
def Dev.cellReceive (d : Dev) (receiver : Side) (cell : List Byte) : Dev :=
  if d.fl.up = false then d
  else if crc32c (cell.take 60) ≠ leAt cell 60 4 then
    let fd := d.recvDir receiver
    (d.setRecvDir receiver { fd with failRun := fd.failRun.map (· + 1) }).flueErr receiver R.FFLU_ERR.CRC R.HFLU_ERR.CRC 1
  else
    let w := leAt cell 0 4
    let snd := d.sendDir receiver
    let d := (d.setSendDir receiver { snd with crf := setAt snd.crf (bits w 26 24) (bits w 31 27) }).creditShow
    let fd := d.recvDir receiver
    let d := d.setRecvDir receiver { fd with failRun := [0, 0] }
    let ty := bits w 7 0
    if ty = 0xFF then d
    else match queueOfType ty with
      | none => d.flueErr receiver R.FFLU_ERR.INVALID R.HFLU_ERR.INVALID 1
      | some q =>
        let fd := d.recvDir receiver
        match fd.gap q (bits w 23 16) with
        | none => d
        | some g =>
          let d := (d.setRecvDir receiver (fd.advance q (bits w 23 16) g)).flueErr receiver R.FFLU_ERR.GAP R.HFLU_ERR.GAP g
          if typeDefined receiver ty && lenFits ty (bits w 13 8) then d.acceptCell receiver q cell
          else (d.setRecvDir receiver ((d.recvDir receiver).free q 1)).flueErr receiver R.FFLU_ERR.INVALID R.HFLU_ERR.INVALID 1

/-- The first cell of the list that `p` names, and the list without it. -/
def takeFirst {α : Type} (p : α → Bool) : List α → Option (α × List α)
  | [] => none
  | x :: xs => if p x then some (x, xs) else (takeFirst p xs).map (fun r => (r.1, x :: r.2))

/-- The accepted cell of a type taken by the command that acts on it, its buffer freed (Table 3-3); a command that stands for
a message whose cell was not put through FLUE_CELL_RECEIVE finds none. -/
def Dev.takeCell (d : Dev) (receiver : Side) (ty : Nat) : Dev :=
  let fd := d.recvDir receiver
  match takeFirst (fun c => leAt c 0 1 == ty) fd.accepted with
  | none => d
  | some (c, rest) =>
    let q := (queueOfType ty).getD 0
    d.setRecvDir receiver (({ fd with accepted := rest, xcBusy := fd.xcBusy && !(decide (q = 0) && testBit (leAt c 0 4) 15) }).free q 1)

/-- The accepted cell of a type, or one made from the message where the command stands alone. -/
def Dev.cellFor (d : Dev) (receiver : Side) (m : Msg) : List Byte :=
  ((d.recvDir receiver).accepted.find? (fun c => leAt c 0 1 == m.ty)).getD (cellBytes m false false 0 0 0)

/-! ## Host endpoint -/

/-- A CONTROL or SAFETY cell for ring 20: waits in the endpoint while the ring has no owned descriptor; of more than 64 the
oldest is discarded and counted (R343). -/
def Dev.toRing20 (d : Dev) (cell : List Byte) : Dev :=
  let (d', ok) := d.ringCell 20 cell
  if ok then d'
  else
    let w := d'.rings.wait20 ++ [cell]
    if 64 < w.length then ({ d' with rings := { d'.rings with wait20 := w.drop 1 } }).bump (R.HRNG_DROP.COUNT 20)
    else { d' with rings := { d'.rings with wait20 := w } }

/-- An EVENT-class cell for ring 21; while it waits its credit is not returned (R343). -/
def Dev.toRing21 (d : Dev) (m : Msg) : Dev :=
  let cell := d.cellFor .host m
  let (d', ok) := d.ringCell 21 cell
  if ok then d'.takeCell .host m.ty
  else
    let fd := d'.fl.f2h
    let acc := match takeFirst (fun c => leAt c 0 1 == m.ty) fd.accepted with | some (_, r) => r | none => fd.accepted
    { d' with rings := { d'.rings with wait21 := d'.rings.wait21 ++ [cell] }, fl := { d'.fl with f2h := { fd with accepted := acc } } }

/-- Bulk data bytes for a data ring (R344); waiting bytes hold their credit back (R343). -/
def Dev.toDataRing (d : Dev) (r ty xfer : Nat) (bs : List Byte) (sop eop : Bool) : Dev :=
  let (d', ok) := d.ringData r bs xfer sop eop
  let d' := if ok then d'.takeCell .host ty else { d' with rings := { d'.rings with waitBulk := d'.rings.waitBulk ++ [{ ring := r, ty := ty, xfer := xfer, sop := sop, eop := eop, bytes := bs }] } }
  if eop then d'.raiseH 78 0 [r, xfer] else d'

/-- HB_ACK accepted by the host endpoint (R67); the cell also goes to ring 20 (Table 17-4). -/
def Dev.hbAck (d : Dev) (hbSeq modeWord stc : Nat) : Dev :=
  let m : Msg := { ty := 0x01, payload := leBytes 4 hbSeq ++ leBytes 4 modeWord ++ leBytes 8 stc }
  let cell := d.cellFor .host m
  let d := d.takeCell .host 0x01
  let f := { d.fl with ackAt := d.htcNs, lostRaised := false }
  { d with fl := f }.toRing20 cell

/-- HEARTBEAT_SEND (R64): once per ms while HBGEN is 1, the link is up and the kick is recent. -/
def Dev.heartbeatSend (d : Dev) : Dev :=
  let fresh := match d.fl.kickAt with | some t => decide (d.htcNs ≤ t + d.rd R.HFLU_HBCFG.KICK * 10 ^ 6) | none => false
  if d.on R.HFLU_HBCFG.HBGEN && d.fl.up && fresh then
    let n := (d.fl.hbSeq + 1) % 2 ^ 32
    let f := { d.fl with hbSeq := n }
    { d with fl := f }.sendH 0 { ty := 0x00, payload := leBytes 4 n ++ leBytes 1 d.fl.hostState ++ leBytes 3 0 }
  else d

/-- A write of HFLU_HBKICK (R64). -/
def Dev.hbKick (d : Dev) (v : Nat) : Dev :=
  if bits v 31 16 = 0x4B1C then { d with fl := { d.fl with kickAt := some d.htcNs, hostState := bits v 7 0 } } else d

/-- A write to COMMIT of a transmit window (R51): the cell is queued, or discarded and counted when the queue is full. -/
def Dev.txwinCommit (d : Dev) (win : Nat) : Dev :=
  let bs := padTo (if win = 0 then d.fl.txwin0 else d.fl.txwin1) 60
  let m : Msg := { ty := leAt bs 0 1, payload := slice bs 4 (min 56 (bits (leAt bs 0 4) 13 8)) }
  let q := d.fl.h2f.queue.getD win []
  if (if win = 0 then 16 else 64) ≤ q.length then (d.bump R.HFLU_ERR.TXFULL).raiseH 73 0 [1] else d.sendH win m

/-- A word written into a transmit window (HFLU_TXWIN, offsets 0x00 to 0x3B). -/
def Dev.txwinWrite (d : Dev) (win word v : Nat) : Dev :=
  let put := fun bs => (padTo bs 60).take (4 * word) ++ leBytes 4 v ++ (padTo bs 60).drop (4 * word + 4)
  if win = 0 then { d with fl := { d.fl with txwin0 := put d.fl.txwin0 } } else { d with fl := { d.fl with txwin1 := put d.fl.txwin1 } }

/-! ## Meanings -/

/-- FLUE_LINK_UP (R46). -/
def execFlueLinkUp (s : State) : Host.Outcome State Fault Refusal := done s Dev.linkUp

/-- FLUE_RETRAIN (R46, R47). -/
def execFlueRetrain (sender : Side) (lane : Fin 2) (fails : Nat) (s : State) : Host.Outcome State Fault Refusal :=
  done s (·.retrain sender lane fails)

/-- FLUE_CELL_SLOT (R51). -/
def execFlueCellSlot (sender : Side) (s : State) : Host.Outcome State Fault Refusal := done s (·.cellSlot sender)

/-- FLUE_CELL_RECEIVE (R49). -/
def execFlueCellReceive (receiver : Side) (cell : List Byte) (s : State) : Host.Outcome State Fault Refusal :=
  done s (·.cellReceive receiver cell)

/-- HB_ACK (R67). -/
def execHbAck (hbSeq modeWord stc : Nat) (s : State) : Host.Outcome State Fault Refusal := done s (·.hbAck hbSeq modeWord stc)

/-- HEARTBEAT_SEND (R64). -/
def execHeartbeatSend (s : State) : Host.Outcome State Fault Refusal := done s Dev.heartbeatSend

/-- HFLU_HBKICK (R64). -/
def execHfluHbkick (value : Nat) (s : State) : Host.Outcome State Fault Refusal := done s (·.hbKick value)

/-- HFLU_TXWIN_COMMIT (R51). -/
def execHfluTxwinCommit (win : Fin 2) (s : State) : Host.Outcome State Fault Refusal := done s (·.txwinCommit win)

/-- FIELD_LOST (R67): once per loss. -/
def execFieldLost (s : State) : Host.Outcome State Fault Refusal :=
  done s (fun d => if d.fl.lostRaised then d else ({ d with fl := { d.fl with lostRaised := true } }).raiseH 74 0 [])

/-- NO_CREDIT_TIMEOUT (R50): HFLU event 75 with the queue. -/
def execNoCreditTimeout (queue : Fin 8) (s : State) : Host.Outcome State Fault Refusal := done s (·.raiseH 75 0 [queue])

/-- TIME_SYNC_MISSING (R57): HFLU event 77. -/
def execTimeSyncMissing (s : State) : Host.Outcome State Fault Refusal := done s (·.raiseH 77 0 [])

/-- TIME_SYNC accepted by the host endpoint and stamped on the host time counter (R57). -/
def execTimeSync (stc fr state source utc err : Nat) (s : State) : Host.Outcome State Fault Refusal :=
  done s (fun d =>
    let m : Msg := { ty := 0x15, payload := leBytes 8 stc ++ leBytes 4 fr ++ leBytes 1 state ++ leBytes 1 source ++ leBytes 2 utc ++ leBytes 4 err }
    let cell := d.cellFor .host m
    let d := d.takeCell .host 0x15
    ({ d with fl := { d.fl with tsHost := d.htcNs, tsStc := stc } }).toRing20 cell)

/-- PARAM_RSP received by the host (R59): ring 20, and HFLU event 76 for a refusal. -/
def execParamRsp (tag status index count ty : Nat) (values : List Nat) (s : State) : Host.Outcome State Fault Refusal :=
  done s (fun d =>
    let m : Msg := { ty := 0x12, payload := (leBytes 2 tag ++ leBytes 1 status ++ leBytes 1 index ++ leBytes 1 count ++ leBytes 1 ty ++ leBytes 2 0 ++
      padTo (values.flatMap (leBytes 4)) 48) }
    let cell := d.cellFor .host m
    let d := (d.takeCell .host 0x12).toRing20 cell
    if status = 0 then d else d.raiseH 76 0 [tag, status, index])

/-- TELEMETRY received by the host into ring 21 (R217). -/
def execTelemetry (block inst window ms : Nat) (values : List Nat) (s : State) : Host.Outcome State Fault Refusal :=
  done s (·.toRing21 { ty := 0x41, payload := (leBytes 1 block ++ leBytes 1 inst ++ leBytes 1 window ++ leBytes 1 values.length ++ leBytes 4 ms ++
    values.flatMap (leBytes 4)) })

/-- RECORD_READY received by the host into ring 21 (R290). -/
def execRecordReady (output kind number stc : Nat) (s : State) : Host.Outcome State Fault Refusal :=
  done s (·.toRing21 { ty := 0x42, payload := leBytes 1 output ++ leBytes 1 kind ++ leBytes 2 0 ++ leBytes 4 number ++ leBytes 8 stc })

/-- IMG_STAT received by the host (R55): HFLU event 78 for a complete transfer, 79 otherwise. -/
def execImgStat (xfer status : Nat) (s : State) : Host.Outcome State Fault Refusal :=
  done s (fun d => (d.takeCell .host 0x62).raiseH (if status = 0 then 78 else 79) 0 [xfer, status])

/-- REC_DATA received by the host into ring 26 (R344). -/
def execRecData (xfer offset : Nat) (bytes : List Byte) (last : Bool) (s : State) : Host.Outcome State Fault Refusal :=
  done s (·.toDataRing 26 0x79 xfer bytes (decide (offset = 0)) last)

/-- CAP_DATA received by the host into ring 22 (R344). -/
def execCapData (xfer offset : Nat) (bytes : List Byte) (last : Bool) (s : State) : Host.Outcome State Fault Refusal :=
  done s (·.toDataRing 22 0x69 xfer bytes (decide (offset = 0)) last)

/-- JRN_DATA received by the host into ring 23 (R404). -/
def execJrnData (xfer offset : Nat) (bytes : List Byte) (last : Bool) (s : State) : Host.Outcome State Fault Refusal :=
  done s (·.toDataRing 23 0x70 xfer bytes (decide (offset = 0)) last)

/-- ASH_DATA received by the host into ring 25 (R344). -/
def execAshData (xfer offset : Nat) (bytes : List Byte) (last : Bool) (s : State) : Host.Outcome State Fault Refusal :=
  done s (·.toDataRing 25 0x75 xfer bytes (decide (offset = 0)) last)

/-- EVENT accepted by the host (R346): the source's pending bit, ring 21 and the journal (R401). A field ash area that became READY
is a host fatal error too (R409). -/
def execEvent (number : Fin 64) (kind count first last : Nat) (data : List Nat) (s : State) : Host.Outcome State Fault Refusal :=
  done s (fun d =>
    let d := d.pend number
    let d := d.toRing21 (eventMsg number kind count first last data)
    let d := d.jrnReport { src := number, kind := kind, count := count, first := first, last := last, data := data }
    if number.val = 63 ∧ kind = 4 then d.hostFatal (data.getD 0 0) else d)

end Sys2Proof.Machine
end

