-- ==== Sys2Proof/Machine/Capture.lean ====
section
/-! DEFINITION. Waveform capture (R405 to R407) and the field's fatal-error latch (R408). -/

namespace Sys2Proof.Machine

/-- Byte offset of the capture ring in field SRAM (Table 4-1). -/
def capBase : Nat := 0x1400000

/-- Bytes of one frame. -/
def Dev.capFrameLen (d : Dev) : Nat := 4 * max 1 (d.rd R.TLM_CAPCFG.NSIG)

/-- Depth of the ring in frames (R405). -/
def Dev.capDepth (d : Dev) : Nat := 4194304 / d.capFrameLen

/-- Capture state (TLM_CAPSTAT.STATE). -/
def Dev.capState (d : Dev) : Nat := d.rd R.TLM_CAPSTAT.STATE

/-- A trigger taken: CAUSE 1 to 5 as the TRIG bits, 6 by hand (R406); ignored unless ARMED. -/
def Dev.capTrigger (d : Dev) (cause : Nat) : Dev :=
  if d.capState = 1 ∧ d.cap.trig = none then ({ d with cap := { d.cap with trig := some cause } }).raise 28 0 [cause] else d

/-- A trigger cause, taken when TLM_CAPCFG.TRIG enables it (R406). -/
def Dev.capCause (d : Dev) (cause : Nat) : Dev := if testBit (d.rd R.TLM_CAPCFG.TRIG) (cause - 1) then d.capTrigger cause else d

/-- Bytes of a frame from the snapshot (R405). -/
def Dev.capFrame (d : Dev) : List Byte :=
  (List.range (d.capFrameLen / 4)).flatMap (fun i => leBytes 4 (unsigned (d.ce.snap.getD (d.rd (R.TLM_CAPSIG.SIG i)) 0) 32))

/-- FROZEN once no frame is still to follow (R406). -/
def Dev.capFreeze (d : Dev) : Dev := if d.cap.post = 0 then (d.wr R.TLM_CAPSTAT.STATE 3).raise 29 0 [] else d

/-- The trigger frame: ARMED to POST, or to FROZEN where POST is 0 (R406). -/
def Dev.capPost (d : Dev) (cause : Nat) : Dev :=
  let d := { d with cap := { d.cap with trig := none, post := d.rd R.TLM_CAPPOST.POST } }
  (((d.wr R.TLM_CAPSTAT.STATE 2).wr R.TLM_CAPSTAT.CAUSE cause).wrPair R.TLM_CAPTRIG_LO.NS R.TLM_CAPTRIG_HI.NS (5 * d.pwm.lastS / 2)).capFreeze

/-- The state after a frame: ARMED to POST with the trigger frame, FROZEN after POST frames (R406). -/
def Dev.capAdvance (d : Dev) : Dev :=
  match d.capState, d.cap.trig with
  | 1, some c => d.capPost c
  | 2, _ => { d with cap := { d.cap with post := d.cap.post - 1 } }.capFreeze
  | _, _ => d

/-- Bytes `n` of frame `k` of the ring. -/
def Dev.capRead (d : Dev) (k : Nat) : List Byte := Mem.readBytes d.fmem (capBase + k % d.capDepth * d.capFrameLen) d.capFrameLen

/-- Bulk messages of `bs` from a given OFFSET on. -/
def Dev.sendBulkAt (d : Dev) (q ty xfer off : Nat) (bs : List Byte) : Dev :=
  d.forAll (bulkMsgs ty xfer (bs.length + 1) (off % 2 ^ 32) bs) (fun d m => d.sendF q m)

/-- The live stream goes on when its queue is empty: frames overwritten before they are sent are skipped (R407); it pauses
while the field THROTTLE condition holds. -/
def Dev.capFeed (d : Dev) (throttle : Bool) : Dev :=
  match d.cap.live with
  | none => d
  | some x =>
    if throttle || !(d.fl.f2h.queue.getD 4 []).isEmpty then d
    else
      let n := d.rd R.TLM_CAPWR.FRAMES
      let skip := (n - d.cap.liveFrame) - d.capDepth
      let d := if skip = 0 then d
        else
          let c := { d.cap with liveFrame := d.cap.liveFrame + skip, liveBytes := d.cap.liveBytes + skip * d.capFrameLen }
          (({ d with cap := c }).bumpBy R.FDIA_CNT.CAPSKIP skip).raise 30 0 [skip]
      if d.cap.liveFrame < n then
        let bs := d.capRead d.cap.liveFrame
        let c := { d.cap with liveFrame := d.cap.liveFrame + 1, liveBytes := d.cap.liveBytes + bs.length }
        let off := d.cap.liveBytes
        ({ d with cap := c }).sendBulkAt 4 0x69 x off bs
      else d

/-- CAPTURE_FRAME at W (R405). -/
def Dev.capAtW (d : Dev) : Dev :=
  if d.on R.TLM_CAPCFG.EN && (decide (d.capState = 1) || decide (d.capState = 2)) then
    let t := d.cap.ticks + 1
    if max 1 (d.rd R.TLM_CAPCFG.DECIM) ≤ t then
      let k := d.rd R.TLM_CAPWR.FRAMES
      let m := Mem.writeBytes d.fmem (capBase + k % d.capDepth * d.capFrameLen) d.capFrame
      let d := { d with fmem := m, cap := { d.cap with ticks := 0 } }
      (d.wr R.TLM_CAPWR.FRAMES (k + 1)).capAdvance
    else { d with cap := { d.cap with ticks := t } }
  else d

/-- A capture marker (Table 9-5, target 4). -/
def Dev.capMark (d : Dev) (group cmp : Nat) : Dev :=
  if d.capState = 3 then d
  else
    let i := d.cap.mark
    let d := d.wrAll [(R.TLM_CAPMARK.NS i, d.stcNs), (R.TLM_CAPMFR.GROUP i, group), (R.TLM_CAPMFR.CMP i, cmp), (R.TLM_CAPMFR.VALID i, 1),
      (R.TLM_CAPMFR.FRAME i, d.rd R.TLM_CAPWR.FRAMES)]
    { d with cap := { d.cap with mark := (i + 1) % 16 } }

/-- ARM (TLM_CAPCTL): from OFF or FROZEN to ARMED. -/
def Dev.capArm (d : Dev) : Dev :=
  if d.capState = 0 ∨ d.capState = 3 then
    let c := { d.cap with trig := none, ticks := 0, post := 0 }
    ((({ d with cap := c }).wr R.TLM_CAPSTAT.STATE 1).wr R.TLM_CAPSTAT.CAUSE 0).wr R.TLM_CAPWR.FRAMES 0
  else d

/-- STOP (TLM_CAPCTL): to OFF. -/
def Dev.capStop (d : Dev) : Dev := ({ d with cap := { d.cap with trig := none } }).wr R.TLM_CAPSTAT.STATE 0

/-- The frozen ring, oldest frame first. -/
def Dev.capFrozen (d : Dev) : List Byte :=
  let n := d.rd R.TLM_CAPWR.FRAMES
  let first := n - d.capDepth
  (List.range (n - first)).flatMap (fun k => d.capRead (first + k))

/-- CAP_REQ BEGIN (R407). -/
def Dev.capBegin (d : Dev) (xfer len : Nat) : Dev :=
  let d := d.takeCell .field 0x68
  if len = 0 then
    { d with cap := { d.cap with live := some xfer, liveFrame := d.rd R.TLM_CAPWR.FRAMES, liveBytes := 0 } }
  else if d.capState = 3 then d.sendBulkAt 4 0x69 xfer 0 (d.capFrozen.take len)
  else d.sendBulkAt 4 0x69 xfer 0xFFFFFFFF [0x01]

/-- CAP_REQ END or ABORT (R407): the stream ends, what waits of it is not sent, event 31. -/
def Dev.capEnd (d : Dev) : Dev :=
  let d := d.takeCell .field 0x68
  ({ d with cap := { d.cap with live := none } }).raise 31 0 []

/-- The fatal-error latch of R408: cause and STC; an area READY or SENDING is left unchanged. -/
def Dev.fatalLatch (d : Dev) (cause : Nat) : Dev :=
  if d.rd R.FDIA_ASHSTAT.STATE = 0 then
    ({ d with ash := { d.ash with pend := true } }.wr R.FDIA_ASHSTAT.CAUSE cause).wrPair R.FDIA_FATAL_LO.NS R.FDIA_FATAL_HI.NS d.stcNs
  else (d.bump R.FDIA_ASHSTAT.LOST).raise 63 5 [cause]

/-! ## Meanings -/

/-- CAPTURE_ARM (R405). -/
def execCaptureArm (s : State) : Host.Outcome State Fault Refusal := done s (fun d => if d.domOn .f2 then d.capArm else d)

/-- CAPTURE_TRIGGER (R406). -/
def execCaptureTrigger (s : State) : Host.Outcome State Fault Refusal := done s (fun d => if d.domOn .f2 then d.capTrigger 6 else d)

/-- CAPTURE_STOP (R405). -/
def execCaptureStop (s : State) : Host.Outcome State Fault Refusal := done s (fun d => if d.domOn .f2 then d.capStop else d)

/-- CAP_REQ_BEGIN (R407). -/
def execCapReqBegin (xfer len : Nat) (s : State) : Host.Outcome State Fault Refusal := done s (·.capBegin xfer len)

/-- CAP_REQ_END (R407). -/
def execCapReqEnd (xfer : Nat) (s : State) : Host.Outcome State Fault Refusal :=
  done s (fun d => if d.cap.live = some xfer then d.capEnd else d.takeCell .field 0x68)

/-- CAP_REQ_ABORT (R407): the waiting CAP_DATA of the transfer is not sent. -/
def execCapReqAbort (xfer : Nat) (s : State) : Host.Outcome State Fault Refusal :=
  done s (fun d =>
    let keep := fun (m : Msg) => !(decide (leAt m.payload 0 2 = xfer))
    let q := setAt d.fl.f2h.queue 4 ((d.fl.f2h.queue.getD 4 []).filter keep)
    ({ d with fl := { d.fl with f2h := { d.fl.f2h with queue := q } } }).capEnd)

end Sys2Proof.Machine
end

