-- ==== Sys2Proof/Machine/Legs.lean ====
section
/-! DEFINITION. PWM legs and the trip array's hold on them (chapter 9): carriers, loads, minimum pulse, tabulated service, the
source that drives a leg, software trips, SYNC_IN and the carrier multiples. -/

namespace Sys2Proof.Machine

/-- The active stream (Table 4-1); empty while none is active. -/
def Dev.act (d : Dev) : StreamData := if d.streamActive then d.st.banks.getD (d.rd R.STS_BANK.ACT) {} else {}

/-! ## Edges of one period -/

/-- What a leg does in one period: PWM_A high from ah0 to ah1, PWM_B low from bl0 to bl1, the carry after it and its flags. -/
structure Plan where
  ah0 : Nat := 0
  ah1 : Nat := 0
  bl0 : Nat := 0
  bl1 : Nat := 0
  carry : Int := 0
  dropped : Bool := false
  stretched : Bool := false
  deriving DecidableEq, Repr

/-- The settings of a leg that the plan depends on (Table 9-1). -/
structure LegSet where
  sawtooth : Bool := false
  stretch : Bool := false
  dtr : Nat := 0
  dtf : Nat := 0
  tmin : Nat := 0
  deriving DecidableEq, Repr

/-- The requested width of R175. -/
def dutyWidth (duty p : Nat) : Nat := (duty * p + 2 ^ 30) / 2 ^ 31

/-- ton and toff of R175. -/
def edgeTimes (c : LegSet) (p w : Nat) : Nat × Nat :=
  if c.sawtooth then (0, w) else ((p - w) / 2, p - (p - w + 1) / 2)

/-- Pads of a period with effective width `w` (R175, R176). -/
def planWidth (c : LegSet) (p w : Nat) : Plan :=
  if w = 0 then {}
  else if w = p then { ah1 := p, bl1 := p }
  else
    let (ton, toff) := edgeTimes c p w
    { ah0 := ton + c.dtr, ah1 := toff, bl0 := ton, bl1 := toff + c.dtf }

/-- The normal policy of R177: effective width, carry, dropped and stretched. -/
def minPulse (c : LegSet) (p w : Nat) (carry : Int) : Int × Int × Bool × Bool :=
  let wc : Int := max c.dtr (min ((p : Int) - c.dtf) w)
  let a : Int := wc - c.dtr + carry
  let b : Int := (p : Int) - c.dtf - wc - carry
  if a < c.tmin then
    if a ≤ 0 ∨ c.stretch = false then (0, a, decide (0 < a), false) else (c.dtr + c.tmin, a - c.tmin, false, true)
  else if b < c.tmin then
    if b ≤ 0 ∨ c.stretch = false then (p, -b, decide (0 < b), false) else ((p : Int) - c.dtf - c.tmin, c.tmin - b, false, true)
  else (wc + carry, 0, false, false)

/-- The 0 % and 100 % codes (R175), else the normal policy (R177). -/
def planNormal (c : LegSet) (p duty : Nat) (carry : Int) : Plan :=
  if duty = 0 then {}
  else if 2 ^ 31 ≤ duty then { ah1 := p, bl1 := p }
  else
    let (w, k, dr, st) := minPulse c p (dutyWidth duty p) carry
    { planWidth c p w.toNat with carry := k, dropped := dr, stretched := st }

/-- The tabulated policy of R179, T_hw = 128 fine units. -/
def planTab (c : LegSet) (p duty : Nat) : Plan :=
  if duty = 0 then {}
  else if 2 ^ 31 ≤ duty then { ah1 := p, bl1 := p }
  else
    let w := dutyWidth duty p
    if w = 0 then {}
    else if w = p then { ah1 := p, bl1 := p }
    else
      let (ton, toff) := edgeTimes c p w
      if w < c.dtr + 128 then
        if w + c.dtf < 128 then {} else { bl0 := ton, bl1 := toff + c.dtf }
      else if p < w + c.dtf + 128 then
        if p - w + c.dtr < 128 then { ah1 := p, bl1 := p } else { ah0 := ton + c.dtr, ah1 := toff, bl1 := p }
      else { ah0 := ton + c.dtr, ah1 := toff, bl0 := ton, bl1 := toff + c.dtf }

/-! ## Pads of one leg over time -/

/-- Length of the part of [a, b) that lies in [lo, hi). -/
def overlap (a b lo hi : Nat) : Nat := min b hi - max a lo

/-- High times of PWM_A and PWM_B from `seen` to `now`. -/
def LegRt.highs (l : LegRt) (now : Nat) : Nat × Nat :=
  if l.edges then
    (overlap (max (l.t0 + l.ah0) l.aOn) (l.t0 + l.ah1) l.seen now,
     overlap (max l.t0 l.bOn) (l.t0 + l.bl0) l.seen now + overlap (max (l.t0 + l.bl1) l.bOn) (l.t0 + l.p) l.seen now)
  else (if l.padA then overlap l.aOn now l.seen now else 0, if l.padB then overlap l.bOn now l.seen now else 0)

/-- Pad levels at a time (R176). -/
def LegRt.levels (l : LegRt) (now : Nat) : Bool × Bool :=
  if l.edges then
    let t := now - l.t0
    (decide (l.ah0 ≤ t) && decide (t < l.ah1) && decide (l.aOn ≤ now), !(decide (l.bl0 ≤ t) && decide (t < l.bl1)) && decide (l.bOn ≤ now))
  else (l.padA && decide (l.aOn ≤ now), l.padB && decide (l.bOn ≤ now))

/-- The high times up to `now` counted. -/
def LegRt.settle (l : LegRt) (now : Nat) : LegRt :=
  { l with accA := l.accA + (l.highs now).1, accB := l.accB + (l.highs now).2, seen := now }

/-- The earliest turn-on times after whatever the leg did up to `now`: PWM_A waits DTR from the last fall of PWM_B and PWM_B
waits DTF from the last fall of PWM_A; `a` and `b` are the levels the leg takes up next (R176). -/
def LegRt.guardTimes (l : LegRt) (now dtr dtf : Nat) (a b : Bool) : Nat × Nat :=
  let (ca, cb) := l.levels now
  let fellA := if ca && !a then now + dtf else if l.edges && decide (0 < l.ah1) && decide (l.t0 + l.ah1 ≤ now) then l.t0 + l.ah1 + dtf else 0
  let fellB := if cb && !b then now + dtr else if l.edges && decide (l.bl0 < l.bl1) && decide (l.t0 + l.bl0 ≤ now) then l.t0 + l.bl0 + dtr else 0
  (max l.aOn fellB, max l.bOn fellA)

/-- The pads put at fixed levels from `now` on. -/
def LegRt.setPads (l : LegRt) (now dtr dtf : Nat) (a b : Bool) : LegRt :=
  let g := l.guardTimes now dtr dtf a b
  { l.settle now with edges := false, padA := a, padB := b, aOn := g.1, bOn := g.2 }

/-! ## Legs of the device -/

def Dev.leg (d : Dev) (n : Nat) : LegRt := d.pwm.legs.getD n {}

def Dev.setLeg (d : Dev) (n : Nat) (l : LegRt) : Dev := { d with pwm := { d.pwm with legs := setAt d.pwm.legs n l } }

def Dev.legUsed (d : Dev) (n : Nat) : Bool := d.on (R.PWM_LEGCFG.USED (n / 4) (n % 4))

def Dev.legSet (d : Dev) (n : Nat) : LegSet :=
  { sawtooth := d.on (R.PWM_GRPCFG.MODE (n / 4)), stretch := d.on (R.PWM_LEGCFG.POLICY (n / 4) (n % 4)), dtr := d.rd (R.PWM_DTR.DT (n / 4) (n % 4)),
    dtf := d.rd (R.PWM_DTF.DT (n / 4) (n % 4)), tmin := d.rd (R.PWM_TMIN.TMIN (n / 4) (n % 4)) }

/-- Table 9-9. -/
def Dev.legState (d : Dev) (n : Nat) : Nat := d.rd (R.PWM_LEGSTAT.STATE (n / 4) (n % 4))

def Dev.setLegState (d : Dev) (n v : Nat) : Dev := d.wr (R.PWM_LEGSTAT.STATE (n / 4) (n % 4)) v

/-- Safe pattern of a leg: levels of A and B (Table 9-7). -/
def Dev.safePattern (d : Dev) (n : Nat) : Bool × Bool :=
  let v := numAt d.act.patterns n
  (testBit v 0, testBit v 1)

/-- The leg at its safe pattern from now on. -/
def Dev.legSafe (d : Dev) (n : Nat) : Dev :=
  let c := d.legSet n
  let (a, b) := d.safePattern n
  d.setLeg n ((d.leg n).setPads (64 * d.tm.q) c.dtr c.dtf a b)

/-- A trip input is active: its pad is low, or injection point 1 asserts it. -/
def Dev.tripActive (d : Dev) (i : Nat) : Bool := (d.pwm.inputs.getD i {}).low || d.isInjected 1 i

/-- TRP_STAT of an input. -/
def Dev.tripStat (d : Dev) (i : Nat) : Bool := testBit (d.rd (R.TRP_STAT.LATCH (i / 32))) (i % 32)

/-- The TRIPMAT record of an input; IGNORE while no stream is active. -/
def Dev.tripRec (d : Dev) (i : Nat) : TripRec := d.act.trips.getD i {}

/-- The trip array holds the leg safe (R189, R190). -/
def Dev.tripCause (d : Dev) (n : Nat) : Bool :=
  d.on R.TRP_SWSTAT.DEV || testBit (d.rd R.TRP_SWSTAT.GRP) (n / 4) ||
  (List.range 96).any (fun i => decide ((d.tripRec i).action ≠ 0) && testBit (d.tripRec i).legMask n && (d.tripActive i || d.tripStat i))

/-- The modules a leg belongs to: (block, module). -/
def Dev.legModule (d : Dev) (n : Nat) : Option ModRec := d.act.mods.find? (fun m => m.group == n / 4 && testBit m.legs (n % 4))

/-- ACTIVE of the variant in force of a block (Table 8-4). -/
def Dev.activeMods (d : Dev) (b : Nat) : Nat :=
  match d.act.attrs.find? (fun a => a.blk == b && a.index == (d.dgr.blk.getD b {}).active) with
  | some a => a.active
  | none => 0

/-- The leg's module is lost or does not switch under the active variant (R159). -/
def Dev.moduleHold (d : Dev) (n : Nat) : Bool :=
  match d.legModule n with
  | some m => !testBit (d.activeMods m.blk) m.mod || testBit (d.rd (R.DGR_LOST.LOST m.blk)) m.mod
  | none => false

/-- The leg belongs to the buffer block, and the buffer is HELD (R336). -/
def Dev.bufferHold (d : Dev) (n : Nat) : Bool :=
  decide (d.rd R.STK_BUFCFG.BLK ≠ 0xFF) && decide (d.rd R.STK_BUFSTAT.STATE = 0) &&
  d.act.legs.any (fun l => l.leg == n && l.cls == 0 && l.blk == d.rd R.STK_BUFCFG.BLK)

/-- A hold of R181 applies: the mode (Table 9-4), the leg's module, the buffer HELD, or the leg's axis not in RUN. -/
def Dev.holdCause (d : Dev) (n : Nat) : Bool :=
  let motion := d.on (R.PWM_LEGCFG.CLASS (n / 4) (n % 4))
  let byMode := match d.mode with
    | .ready => !motion
    | .tripped | .service => true
    | _ => false
  byMode || d.moduleHold n || d.bufferHold n || (motion && decide (d.rd (R.LAW_AXSTAT.STATE (d.rd (R.PWM_LEGCFG.AXIS (n / 4) (n % 4)))) ≠ 1))

/-- Legs with edges of R175 in the present mode (Table 9-4). -/
def Dev.edgesAllowed (d : Dev) (n : Nat) : Bool :=
  match d.mode with
  | .active | .derate | .autonomous | .quench | .commission => true
  | .ready => d.on (R.PWM_LEGCFG.CLASS (n / 4) (n % 4))
  | _ => false

/-- The tabulated policy governs (Table 9-4). -/
def tabMode : Mode → Bool
  | .kindling | .commission | .recovery => true
  | _ => false

/-- Forces are effective (Table 9-4). -/
def Dev.forcesOn (d : Dev) : Bool :=
  match d.mode with
  | .kindling => d.streamActive
  | .commission => true
  | _ => false

/-- PWM_STAT shows the present mode. -/
def Dev.pwmStatShow (d : Dev) : Dev := (d.wrB R.PWM_STAT.FORCEEN d.forcesOn).wrB R.PWM_STAT.TAB (tabMode d.mode)

/-- TRP_LEGSAFE of a leg. -/
def Dev.legSafeShow (d : Dev) (n : Nat) (v : Bool) : Dev :=
  let w := d.rd (R.TRP_LEGSAFE.LEG (n / 32))
  if testBit w (n % 32) = v then d else d.wr (R.TRP_LEGSAFE.LEG (n / 32)) (if v then setBit w (n % 32) else clearBit w (n % 32))

/-- TRP event 12 is due when the leg next resumes (R189). -/
def Dev.legOwes (d : Dev) (n : Nat) (v : Bool) : Dev := d.setLeg n { d.leg n with owed := v }

/-- The legs the trip array holds, shown in TRP_LEGSAFE; legs newly held go to their safe patterns at once, and legs whose last
cause has ended wait for their period start (R188, R189). -/
def Dev.legsTrip (d : Dev) : Dev :=
  let f3 := d.domOn .f3
  d.forAll (List.range 80) (fun d n =>
    if d.legUsed n || (!f3 && d.act.legs.any (fun r => r.leg == n)) then
      if d.tripCause n then
        let d := d.legSafeShow n true
        if f3 && decide (d.legState n ≠ 4) then ((d.legSafe n).legOwes n false).setLegState n 4 else d
      else if f3 then (if d.legState n = 4 then (d.legOwes n true).setLegState n 5 else d)
      else d.legSafeShow n false
    else d.legSafeShow n false)

/-- Holds that begin at S (R182). -/
def Dev.legsHold (d : Dev) : Dev :=
  if d.domOn .f3 then
    d.forAll (List.range 80) (fun d n =>
      if d.legUsed n && d.holdCause n && decide (d.legState n ≠ 4) && decide (d.legState n ≠ 2) then (d.legSafe n).setLegState n 2 else d)
  else d

/-! ## Software trips and device-level trips -/

/-- TRP_FIRST and its time, when it is not VALID (R188). -/
def Dev.tripFirst (d : Dev) (input : Nat) : Dev :=
  if d.on R.TRP_FIRST.VALID then d
  else ((d.wr R.TRP_FIRST.VALID 1).wr R.TRP_FIRST.INPUT input).wrPair R.TRP_FIRSTT_LO.NS R.TRP_FIRSTT_HI.NS d.stcNs

/-- TRP_FIRST.VALID clears when every status bit is 0 (section 9.9). -/
def Dev.tripFirstClear (d : Dev) : Dev :=
  if d.rd (R.TRP_STAT.LATCH 0) = 0 ∧ d.rd (R.TRP_STAT.LATCH 1) = 0 ∧ d.rd (R.TRP_STAT.LATCH 2) = 0 ∧ d.on R.TRP_SWSTAT.DEV = false ∧
     d.rd R.TRP_SWSTAT.OUT = 0 ∧ d.rd R.TRP_SWSTAT.GRP = 0 then d.wr R.TRP_FIRST.VALID 0 else d

/-- Software trip of leg groups, SCOPE 2 (R190). -/
def Dev.swTripGroups (d : Dev) (mask : Nat) : Dev :=
  let d := d.wr R.TRP_SWSTAT.GRP (Nat.lor (d.rd R.TRP_SWSTAT.GRP) (mask % 2 ^ 20))
  (((d.tripFirst 96).legsTrip).raise 11 2 [mask]).capCause 3

/-- The leg groups that SCOPE 1 of an output reaches (R190). -/
def Dev.outGroups (d : Dev) (n : Nat) : Nat :=
  let blks := (d.act.detBlks.filter (fun b => testBit b.outmask n)).map (·.blk)
  maskOf 20 (fun g => (List.range 4).any (fun l =>
    d.legUsed (4 * g + l) && (if blks.isEmpty then !d.on (R.PWM_LEGCFG.CLASS g l) else blks.contains (d.rd (R.PWM_LEGCFG.BLK g l)))))

/-- Software trip of an output, SCOPE 1 (R190). -/
def Dev.swTripOut (d : Dev) (n : Nat) : Dev :=
  let d := d.wr R.TRP_SWSTAT.OUT (setBit (d.rd R.TRP_SWSTAT.OUT) n)
  let d := d.wr R.TRP_SWSTAT.GRP (Nat.lor (d.rd R.TRP_SWSTAT.GRP) (d.outGroups n))
  (((d.tripFirst 96).legsTrip).raise 11 1 [n]).capCause 3

/-- A device-level trip (Table 2-2): TRP_SWSTAT.DEV (R190, R302), legs safe at once, TRIPPED at the next evaluation. -/
def Dev.deviceTrip (d : Dev) : Dev :=
  let d := (d.wr R.TRP_SWSTAT.DEV 1).tripFirst 96
  let d := { d with pw := { d.pw with tripPend := true } }
  ((d.legsTrip).raise 11 0 []).capCause 2

/-! ## Carriers -/

/-- Effective period of a leg in fine units. -/
def Dev.legP (d : Dev) (n div : Nat) : Nat := 64 * d.rd (R.PWM_PER.VALUE (n / 4)) * div

/-- The leg's carrier origin in fine units: its offsets and δ (R170). -/
def Dev.legOrigin (d : Dev) (n : Nat) : Int :=
  64 * (d.rd (R.PWM_GOFS.VALUE (n / 4)) + d.rd (R.PWM_LOFS.LOFS (n / 4) (n % 4)) : Nat) + d.pwm.delta

/-- The first point of a carrier at or after fine time `t`. -/
def nextPoint (origin : Int) (p t : Nat) : Nat := (origin + -(Int.fdiv (-((t : Int) - origin)) p) * p).toNat

/-- The leg's next period start (R170). -/
def Dev.legNext (d : Dev) (n : Nat) : Nat :=
  let l := d.leg n
  nextPoint (d.legOrigin n) (d.legP n l.div) (max (64 * d.tm.q) (if l.p = 0 then 0 else l.t0 + 1))

/-- Whether a period start is an S (R172): δ moves the carriers and not the tick grid. -/
def Dev.startIsS (d : Dev) (f : Nat) : Bool :=
  let x : Int := f - d.pwm.delta
  let t := d.act.timing.tick
  decide (0 < t) && decide (x % 64 = 0) && decide ((x / 64 - d.act.timing.phase) % t = 0)

/-- Conditions of R171 for a group with a carrier multiple. -/
def Dev.divPermitted (d : Dev) (g div : Nat) : Bool :=
  let pe := d.rd (R.PWM_PER.VALUE g) * div
  let t := d.act.timing.tick
  let ph := d.act.timing.phase
  decide (1 ≤ div) && decide (div ≤ 4) && decide (1600 ≤ pe) && decide (pe ≤ 40000) && decide (0 < t) &&
  ((decide (pe % t = 0) && decide (1 ≤ pe / t) && decide (pe / t ≤ 64)) || (decide (t % pe = 0) && decide (1 ≤ t / pe) && decide (t / pe ≤ 16))) &&
  (List.range 4).all (fun l => !d.legUsed (4 * g + l) ||
    (decide (((d.rd (R.PWM_GOFS.VALUE g) + d.rd (R.PWM_LOFS.LOFS g l) : Nat) - (ph : Int)) % (min pe t : Nat) = 0) &&
     decide (d.rd (R.PWM_DTR.DT g l) + d.rd (R.PWM_DTF.DT g l) + 2 * d.rd (R.PWM_TMIN.TMIN g l) ≤ 64 * d.rd (R.PWM_PER.VALUE g))))

/-- PEREFF and DIVACT of a group from its first used leg. -/
def Dev.grpShow (d : Dev) (g : Nat) : Dev :=
  match (List.range 4).find? (fun l => d.legUsed (4 * g + l)) with
  | some l =>
    let v := (d.leg (4 * g + l)).div
    (d.wr (R.PWM_GRPSTAT.DIVACT g) v).wr (R.PWM_GRPSTAT.PEREFF g) (d.rd (R.PWM_PER.VALUE g) * v)
  | none => d

/-- PWM_GRPDIV.REQ written (R173): a permitted value is pending from the next S, any other sets DIVBAD. -/
def Dev.grpDivReq (d : Dev) (g v : Nat) : Dev :=
  let v := if v % 8 = 0 then 1 else v % 8
  let d := d.wr (R.PWM_GRPDIV.REQ g) v
  if d.divPermitted g v then
    let w := { d.pwm with divPend := setAt d.pwm.divPend g (some v), divDue := setAt d.pwm.divDue g false }
    { d with pwm := w }.wr (R.PWM_GRPSTAT.DIVBAD g) 0
  else d.wr (R.PWM_GRPSTAT.DIVBAD g) 1

/-- At S a requested multiple becomes pending (R173). -/
def Dev.grpDivAtS (d : Dev) : Dev :=
  d.forAll (List.range 20) (fun d g =>
    match d.pwm.divPend.getD g none with
    | some _ => { d with pwm := { d.pwm with divDue := setAt d.pwm.divDue g true } }.wr (R.PWM_GRPSTAT.PEND g) 1
    | none => d)

/-- A pending multiple taken by a leg whose period starts at `f` under both periods (R173). -/
def Dev.legDiv (d : Dev) (n f : Nat) : Dev :=
  let g := n / 4
  match d.pwm.divPend.getD g none with
  | some v =>
    if d.pwm.divDue.getD g false && decide (((f : Int) - d.legOrigin n) % (d.legP n v : Nat) = 0) then
      let d := d.setLeg n { d.leg n with div := v }
      if (List.range 4).all (fun l => !d.legUsed (4 * g + l) || decide ((d.leg (4 * g + l)).div = v)) then
        let w := { d.pwm with divPend := setAt d.pwm.divPend g none, divDue := setAt d.pwm.divDue g false }
        ({ d with pwm := w }.wr (R.PWM_GRPSTAT.PEND g) 0).grpShow g
      else d
    else d
  | none => d

/-! ## Period start -/

/-- Force values in effect at a period start (R183): 3 acts as 0, both high acts as both low, high forces the other low. -/
def forceValues (a b : Nat) : Nat × Nat :=
  match (if a = 3 then 0 else a), (if b = 3 then 0 else b) with
  | 2, 2 => (1, 1)
  | 2, _ => (2, 1)
  | _, 2 => (1, 2)
  | x, y => (x, y)

/-- A plan with forced switches held at their levels. -/
def Plan.forced (pl : Plan) (p fa fb : Nat) : Plan :=
  let pl := match fa with
    | 1 => { pl with ah0 := 0, ah1 := 0 }
    | 2 => { pl with ah0 := 0, ah1 := p }
    | _ => pl
  match fb with
  | 1 => { pl with bl0 := 0, bl1 := p }
  | 2 => { pl with bl0 := 0, bl1 := 0 }
  | _ => pl

/-- The period's plan put to work at `f`, with R176 kept against what the leg did before. -/
def LegRt.begin (l : LegRt) (f p : Nat) (pl : Plan) (c : LegSet) : LegRt :=
  let a := decide (pl.ah0 = 0) && decide (0 < pl.ah1)
  let b := !(decide (pl.bl0 = 0) && decide (0 < pl.bl1))
  let g := l.guardTimes f c.dtr c.dtf a b
  { l with t0 := f, p := p, edges := true, ah0 := pl.ah0, ah1 := pl.ah1, bl0 := pl.bl0, bl1 := pl.bl1, carry := pl.carry,
           aOn := g.1, bOn := g.2, accA := 0, accB := 0, seen := f }

/-- The plan of a leg with no applicable source in KINDLING: both pads low (R181). -/
def planLow (p : Nat) : Plan := { bl1 := p }

/-- The plan and the leg state of a leg that neither a trip nor a hold keeps (R181). -/
def Dev.legPlan (d : Dev) (n p duty : Nat) (carry : Int) : Plan × Nat × Nat × Nat :=
  let c := d.legSet n
  let base := if d.edgesAllowed n then (if tabMode d.mode then planTab c p duty else planNormal c p duty carry) else planLow p
  if d.forcesOn then
    let f := forceValues (d.rd (R.PWM_FORCE.A (n / 4) (n % 4))) (d.rd (R.PWM_FORCE.B (n / 4) (n % 4)))
    if f.1 = 0 ∧ f.2 = 0 then (base, if d.edgesAllowed n then 1 else 2, 0, 0) else (base.forced p f.1 f.2, 3, f.1, f.2)
  else (base, if d.edgesAllowed n then 1 else 2, 0, 0)

/-- Counters and status of the period now planned (R178, PWM_LEGSTAT). -/
def Dev.legShow (d : Dev) (n : Nat) (pl : Plan) (duty : Nat) : Dev :=
  let g := n / 4
  let i := n % 4
  let d := d.wrAll [(R.PWM_LEGSTAT.DROPPED g i, b2n pl.dropped), (R.PWM_LEGSTAT.STRETCHED g i, b2n pl.stretched), (R.PWM_LEGSTAT.ZERO g i, b2n (decide (duty = 0))),
    (R.PWM_LEGSTAT.FULL g i, b2n (decide (2 ^ 31 ≤ duty))), (R.PWM_LEGSTAT.TAB g i, b2n (tabMode d.mode)), (R.PWM_ACTIVE.DUTY g i, duty)]
  let d := d.wrS (R.PWM_CARRY.CARRY g i) pl.carry
  let d := if pl.dropped then d.bump (R.PWM_LEGCNT.DROPS g i) else d
  if pl.stretched then d.bump (R.PWM_LEGCNT.STRETCHES g i) else d

/-- δ returns towards 0 by SLEW per period of the reference group while SYNC_IN is off (R186). -/
def Dev.syncReturn (d : Dev) (n : Nat) : Dev :=
  let refg := if d.rd R.PWM_SYNCCFG.REFG < 20 then d.rd R.PWM_SYNCCFG.REFG else 0
  if d.on R.PWM_SYNCCFG.EN = false ∧ n / 4 = refg ∧ (List.range (n % 4)).all (fun l => !d.legUsed (4 * refg + l)) then
    let s : Int := d.rd R.PWM_SYNCCFG.SLEW
    let x := if 0 ≤ d.pwm.delta then max 0 (d.pwm.delta - s) else min 0 (d.pwm.delta + s)
    { d with pwm := { d.pwm with delta := x } }.wrS R.PWM_SYNCSTAT.DELTA x
  else d

/-- Trigger positions of a group loaded at a period start that is an S (R172). -/
def Dev.trgLoad (d : Dev) (g : Nat) : Dev :=
  { d with pwm := { d.pwm with trgPos := [0, 1, 2, 3].foldl (fun xs t => setAt xs (4 * g + t) (min 0x7FFFFFFF (d.rd (R.PWM_TRGPOS.POS g t)))) d.pwm.trgPos } }

/-- A new period of a leg that nothing keeps at its safe pattern. -/
def Dev.legRun (d : Dev) (n f : Nat) (load resume : Bool) : Dev :=
  let g := n / 4
  let l := d.leg n
  let p := d.legP n l.div
  let duty := if load then min (2 ^ 31) (d.rd (R.PWM_SHADOW.DUTY g (n % 4))) else l.duty
  let tab := tabMode d.mode
  let carry := if resume || decide (l.tab ≠ tab) || decide (3 = d.legState n) then 0 else l.carry
  let (pl, st, fa, fb) := d.legPlan n p duty carry
  let l' := l.begin f p pl (d.legSet n)
  let d := (d.setLeg n { l' with duty := duty, tab := tab, fa := fa, fb := fb }).setLegState n st
  d.legShow n pl duty

/-- A new period of a leg that a trip or a hold keeps at its safe pattern. -/
def Dev.legKept (d : Dev) (n f st : Nat) : Dev :=
  let l := d.leg n
  let d := d.setLeg n { l with t0 := f, p := d.legP n l.div, accA := 0, accB := 0, seen := f }
  d.setLegState n st

/-- PERIOD_START of leg `n` (R172 to R183, R189). -/
def Dev.periodStart (d : Dev) (n : Nat) : Dev :=
  if d.domOn .f3 && d.legUsed n && decide (0 < d.rd (R.PWM_PER.VALUE (n / 4))) then
    let f := d.legNext n
    let d := (d.advanceTo (f / 64)).syncReturn n
    let had := decide (0 < (d.leg n).p)
    let d := d.setLeg n ((d.leg n).settle f)
    let d := if had then (d.wr (R.PWM_REALA.WIDTH (n / 4) (n % 4)) (d.leg n).accA).wr (R.PWM_REALB.WIDTH (n / 4) (n % 4)) (d.leg n).accB else d
    let atS := d.startIsS f
    let d := if atS then (d.legDiv n f).trgLoad (n / 4) else d
    let st := d.legState n
    let kept := decide (st = 2) || decide (st = 4) || decide (st = 5)
    if d.tripCause n then (if st = 4 then d else d.legSafe n).legKept n f 4
    else if d.holdCause n && (kept || atS) then ((if kept then d else d.legSafe n).legKept n f 2).legSafeShow n false
    else
      let d := (d.legRun n f (atS || kept) kept).legSafeShow n false
      if (d.leg n).owed then (d.legOwes n false).raise 12 0 [n] else d
  else d

/-- PWM_FORCE written (R183). -/
def Dev.forceWrite (d : Dev) (n v : Nat) : Dev :=
  let d := (d.wr (R.PWM_FORCE.A (n / 4) (n % 4)) (bits v 1 0)).wr (R.PWM_FORCE.B (n / 4) (n % 4)) (bits v 3 2)
  if bits v 1 0 = 2 ∧ bits v 3 2 = 2 then (d.bump R.PWM_CNT.FORCEERR).raise 15 0 [n] else d

/-! ## Duties at W -/

/-- R174: an actuation signal as a duty or a position, and whether it was out of range. -/
def dutyOf (fmt : Nat) (s : Int) : Nat × Bool :=
  let v := if fmt = 0 then 2 * s else 2 ^ 30 + s
  if v < 0 then (0, true) else if 2 ^ 31 < v then (2 ^ 31, true) else (v.toNat, false)

/-- The legs a KIND 2 destination drives: the CLASS 1 legs of the axis in ascending order are U, V and W (Table 9-2). -/
def Dev.axisLeg (d : Dev) (axis phase : Nat) : Option Nat :=
  ((List.range 80).filter (fun n => d.legUsed n && d.on (R.PWM_LEGCFG.CLASS (n / 4) (n % 4)) && decide (d.rd (R.PWM_LEGCFG.AXIS (n / 4) (n % 4)) = axis)))[phase]?

/-- The transfer of one ACTMAP record at W (R174). -/
def Dev.actTransfer (d : Dev) (r : ActRec) : Dev :=
  let (v, sat) := dutyOf r.fmt (d.ce.sig.getD r.slot 0)
  let d := if sat then d.bump R.PWM_CNT.DUTYSAT else d
  match r.kind with
  | 0 => d.wr (R.PWM_SHADOW.DUTY (r.dest / 4) (r.dest % 4)) v
  | 1 => d.wr (R.PWM_TRGPOS.POS (r.dest / 4) (r.dest % 4)) (min v 0x7FFFFFFF)
  | _ =>
    match d.axisLeg (r.dest / 4) (r.dest % 4) with
    | some n => d.wr (R.PWM_SHADOW.DUTY (n / 4) (n % 4)) v
    | none => d

/-! ## SYNC_IN -/

/-- SYNC_IN state changed, with PWM event 14 (R186). -/
def Dev.syncState (d : Dev) (st : Nat) : Dev :=
  if d.rd R.PWM_SYNCSTAT.STATE = st then d else (d.wr R.PWM_SYNCSTAT.STATE st).raise 14 st [d.rd R.PWM_SYNCSTAT.STATE]

/-- The reference group (PWM_SYNCCFG.REFG). -/
def Dev.refGroup (d : Dev) : Nat := if d.rd R.PWM_SYNCCFG.REFG < 20 then d.rd R.PWM_SYNCCFG.REFG else 0

/-- Effective period of a group in fine units. -/
def Dev.grpP (d : Dev) (g : Nat) : Nat := 64 * d.rd (R.PWM_PER.VALUE g) * d.rd (R.PWM_GRPSTAT.DIVACT g)

/-- The error of a SYNC_IN edge in fine units, within −p/2 to p/2 (R185). -/
def Dev.syncError (d : Dev) (edge : Nat) : Int :=
  let g := d.refGroup
  let p := d.grpP g
  let x : Int := ((edge : Int) - 64 * d.rd (R.PWM_GOFS.VALUE g) - d.pwm.delta - d.rd R.PWM_SYNCPH.PHOFS) % p
  if (p : Int) ≤ 2 * x then x - p else x

def Dev.setDelta (d : Dev) (x : Int) : Dev := { d with pwm := { d.pwm with delta := x } }.wrS R.PWM_SYNCSTAT.DELTA x

def Dev.setSyncRun (d : Dev) (n : Nat) : Dev := { d with pwm := { d.pwm with syncRun := n } }

/-- A rising edge of SYNC_IN captured in 0.3125 ns units, 8 fine units each (R185, R186). -/
def Dev.syncEdge (d : Dev) (cap : Nat) : Dev :=
  if d.on R.PWM_SYNCCFG.EN && decide (0 < d.grpP d.refGroup) then
    let d := d.advanceTo (8 * cap / 64)
    let e := d.syncError (8 * cap)
    let p := d.grpP d.refGroup
    let d := d.wrS R.PWM_SYNCERR.E e
    if p < 4 * e.natAbs then d.setSyncRun 0
    else
      let slew : Int := d.rd R.PWM_SYNCCFG.SLEW
      let win : Int := d.rd R.PWM_SYNCCFG.WIN
      let small := decide ((e.natAbs : Int) ≤ slew)
      match d.rd R.PWM_SYNCSTAT.STATE with
      | 3 => if small && decide ((d.pwm.delta.natAbs : Int) ≤ win) then (d.setSyncRun 0).syncState 1 else d
      | st =>
        if st = 2 ∧ small = false ∧ win ≤ d.pwm.delta.natAbs then (d.setSyncRun 0).syncState 3
        else
          let n := if small then d.pwm.syncRun + 1 else 0
          let d := (d.setDelta (clampInt (d.pwm.delta + clampInt e (-slew) slew) (-win) win)).setSyncRun n
          if st = 1 ∧ 8 ≤ n then (d.setSyncRun 0).syncState 2 else d
  else d

/-- 8 consecutive periods of REFG without an accepted edge (R186). -/
def Dev.syncMissing (d : Dev) : Dev :=
  if d.rd R.PWM_SYNCSTAT.STATE = 1 ∨ d.rd R.PWM_SYNCSTAT.STATE = 2 then (d.setSyncRun 0).syncState 3 else d

/-- EN written 1 (Table 9-6). -/
def Dev.syncEnable (d : Dev) : Dev :=
  let d := d.wr R.PWM_SYNCCFG.EN 1
  if d.rd R.PWM_SYNCSTAT.STATE = 0 then (d.setSyncRun 0).syncState 1 else d

/-- EN written 0 (Table 9-6). -/
def Dev.syncDisable (d : Dev) : Dev := ((d.wr R.PWM_SYNCCFG.EN 0).setSyncRun 0).syncState 0

/-! ## Meanings -/

/-- PERIOD_START (R172). -/
def execPeriodStart (leg : Fin 80) (s : State) : Host.Outcome State Fault Refusal := done s (·.periodStart leg)

/-- PWM_GRPDIV_WRITE (R173). -/
def execPwmGrpdivWrite (group : Fin 20) (value : Nat) (s : State) : Host.Outcome State Fault Refusal :=
  done s (fun d => if d.domOn .f3 then d.grpDivReq group value else d)

/-- PWM_FORCE_WRITE (R183). -/
def execPwmForceWrite (leg : Fin 80) (value : Nat) (s : State) : Host.Outcome State Fault Refusal :=
  done s (fun d => if d.domOn .f3 then d.forceWrite leg value else d)

/-- SYNC_IN_EDGE (R185). -/
def execSyncInEdge (cap : Nat) (s : State) : Host.Outcome State Fault Refusal :=
  done s (fun d => if d.domOn .f3 then d.syncEdge cap else d)

/-- SYNC_IN_MISSING (R186). -/
def execSyncInMissing (s : State) : Host.Outcome State Fault Refusal := done s Dev.syncMissing

/-- SYNC_IN_ENABLE (R186). -/
def execSyncInEnable (s : State) : Host.Outcome State Fault Refusal := done s (fun d => if d.domOn .f3 then d.syncEnable else d)

/-- SYNC_IN_DISABLE (R186). -/
def execSyncInDisable (s : State) : Host.Outcome State Fault Refusal := done s (fun d => if d.domOn .f3 then d.syncDisable else d)

end Sys2Proof.Machine
end

