-- ==== Sys2Proof/Machine/Orders.lean ====
section
/-! DEFINITION. Orders that one unit gives the outputs: quench, immediate causes (R302, R303). The outputs act on them at S. -/

namespace Sys2Proof.Machine

def Dev.outRt (d : Dev) (n : Nat) : OutRt := d.out.getD n {}

def Dev.setOut (d : Dev) (n : Nat) (o : OutRt) : Dev := { d with out := setAt d.out n o }

/-- State code of an output (Table 15-1). -/
def Dev.outState (d : Dev) (n : Nat) : Nat := d.rd (R.OUT_STAT.STATE n)

/-- A cause arises (R301): its OUT_FCAUSE bit and OUT event 49 KIND 2. -/
def Dev.outCause (d : Dev) (n c : Nat) : Dev :=
  (d.wr (R.OUT_FCAUSE.CAUSE n) (setBit (d.rd (R.OUT_FCAUSE.CAUSE n)) (c - 1))).raise 49 2 [n, c]

/-- An immediate cause (R302): the output-scope trip at once in LOCK to WELDCHECK; the state follows at S. -/
def Dev.outImmediate (d : Dev) (n c : Nat) : Dev :=
  let o := d.outRt n
  let d := (d.setOut n { o with imm := o.imm ++ [c] }).outCause n c
  if 2 ≤ d.outState n ∧ d.outState n ≤ 7 then
    let d := d.swTripOut n
    d.setOut n { d.outRt n with trips := Nat.lor (d.outRt n).trips (d.outGroups n) }
  else d

/-- A cause that leads through RAMPDOWN made pending; a fault already pending is kept (R301). -/
def Dev.outPend (d : Dev) (n c : Nat) : Dev :=
  let d := d.outCause n c
  if (d.outRt n).pend = 0 then (d.setOut n { d.outRt n with pend := c }).wr (R.OUT_STAT.FPEND n) 1 else d

/-- The action of a QUENCH_OUT (R303), with the cause that a field-side rule sets pending; the ramp starts at the next S
(Table 1-3). -/
def Dev.outQuench (d : Dev) (n : Nat) (cause : Option Nat) : Dev :=
  if 3 ≤ d.outState n ∧ d.outState n ≤ 5 then
    let d := match cause with | some c => d.outPend n c | none => d
    d.setOut n { d.outRt n with quench := true }
  else d

/-- QUENCH_ALL (Table 2-2): the mode evaluation takes it at the next S. -/
def Dev.quenchAll (d : Dev) : Dev := { d with pw := { d.pw with quenchPend := true } }

end Sys2Proof.Machine
end

