-- ==== Sys2Proof/Machine/Ce.lean ====
section
/-! DEFINITION. The control engine's instructions (chapters 6 and 7): R121 arithmetic, signals, biquads, slew generators,
feed-forward tables, following-error supervision and residual tests, and ECC. -/

namespace Sys2Proof.Machine

/-! ## Arithmetic of R121 -/

/-- rsh_round of R121: right shift, to nearest, ties away from zero. -/
def rshRound (v : Int) (r : Nat) : Int :=
  if 0 ≤ v then (v + 2 ^ (r - 1)) / 2 ^ r else -((-v + 2 ^ (r - 1)) / 2 ^ r)

/-- MANT and SHIFT of a coefficient word (R119). -/
def coefMant (w : Nat) : Int := signed w 32
def coefShift (w : Nat) : Int := signed (w / 2 ^ 32) 6

/-- term of R121, with whether it saturated. -/
def term (w : Nat) (x : Int) : Int × Bool :=
  let p := coefMant w * x
  let s := coefShift w
  let t := if 0 ≤ s then p * 2 ^ s.toNat else rshRound p (-s).toNat
  (sat t 80, decide (t ≠ sat t 80))

/-- One addition to the accumulator (R121). -/
def AccRow.add (a : AccRow) (t : Int × Bool) : AccRow :=
  let s := a.acc + t.1
  { a with acc := Sys2Proof.sat s 80, sat := a.sat || t.2 || decide (s ≠ Sys2Proof.sat s 80) }

/-- A row's columns in ascending index (R121). -/
def rowAcc (coefs : List Nat) (first cols : Nat) (sig : List Int) (src : Nat) (a : AccRow) : AccRow :=
  (List.range cols).foldl (fun a j => a.add (term (numAt coefs (first + j)) (sig.getD (src + j) 0))) a

/-- The writeback of R121 with output shift `osh`. -/
def writeback (acc : Int) (osh : Int) : Int × Bool :=
  let y := rshRound acc (30 - osh).toNat
  (sat y 32, decide (y ≠ sat y 32))

/-- OSH of an output-shift byte (Table 6-6). -/
def oshOf (b : Nat) : Int := signed b 5

/-- isqrt: the largest m with m · m ≤ n, for n below 2^80. -/
def isqrt (n : Nat) : Nat :=
  (List.range 40).foldl (fun m k => let c := m + 2 ^ (39 - k); if c * c ≤ n then c else m) 0

/-! ## Signals -/

def Dev.sig (d : Dev) (n : Nat) : Int := d.ce.sig.getD n 0

/-- A block of the active stream. -/
def Dev.blk? (d : Dev) (b : Nat) : Option Blk := d.act.blks.find? (fun x => x.blk == b)

/-- The block is in its transfer tick (R136). -/
def Dev.inXfer (d : Dev) (b : Nat) : Bool := d.ce.xfer.getD b false

/-- A block's actuation signals are not written in its transfer tick (R136). -/
def Dev.sigKept (d : Dev) (n : Nat) : Bool :=
  d.act.blks.any (fun b => d.inXfer b.blk && decide (b.ubase ≤ n) && decide (n < b.ubase + b.nu))

/-- A signal written; a damaged word of the signal memory is made good (R125). -/
def Dev.putSig (d : Dev) (n : Nat) (v : Int) : Dev :=
  { d with ce := { d.ce with sig := setAt d.ce.sig n v, bad := d.ce.bad.filter (fun w => decide (w ≠ CeWord.signal n)) } }

/-- One saturation counted against a destination signal (R122). -/
def Dev.satCount (d : Dev) (n : Nat) : Dev :=
  let was := d.rd R.CEN_SATTOT.COUNT
  let d := { d with ce := { d.ce with satcnt := setAt d.ce.satcnt n (satAdd (numAt d.ce.satcnt n) 1 65535) } }
  let d := ((d.bump R.CEN_SATTOT.COUNT).wr R.CEN_SATLAST.VALID 1).wr R.CEN_SATLAST.SIG n
  if was = 0 then d.raise 16 0 [n] else d

/-- A program destination written (R118, R136), with its saturation counted. -/
def Dev.outSig (d : Dev) (n : Nat) (v : Int) (satd : Bool) : Dev :=
  if d.sigKept n then d else (d.putSig n v).when satd (·.satCount n)

/-- The block whose state, actuation or intermediate range holds a signal (R136). -/
def Dev.ownerOf (d : Dev) (n : Nat) : Option Nat :=
  (d.act.blks.find? (fun b => (decide (b.law = 1) && decide (b.xbase ≤ n) && decide (n < b.xbase + b.nx)) ||
    (decide (b.ubase ≤ n) && decide (n < b.ubase + b.nu)) || (decide (b.wbase ≤ n) && decide (n < b.wbase + b.nw)))).map (·.blk)

/-- A WB or VSUB with XFER writes in the transfer tick of its block only (R136). -/
def Dev.xferWrites (d : Dev) (a : CeArgs) : Bool :=
  !testBit a.flags 1 || (match d.ownerOf a.dst with | some b => d.inXfer b | none => false)

/-- The matrix a MAT field names (Table 6-7, R129). -/
def Dev.matOf (d : Dev) (mat : Nat) : Mat :=
  let idx := if testBit mat 31 then
      match d.act.vars.find? (fun v => v.blk == bits mat 30 24 && v.index == (d.dgr.blk.getD (bits mat 30 24) {}).active) with
      | some v => numAt v.roles (bits mat 15 0)
      | none => 0xFFFF
    else mat
  d.act.mats.getD idx {}

/-! ## Matrix operations -/

def Dev.setAcc (d : Dev) (i : Nat) (a : AccRow) : Dev := { d with ce := { d.ce with acc := setAt d.ce.acc i a } }

/-- MVM (R121). -/
def Dev.ceMvm (d : Dev) (a : CeArgs) : Dev :=
  let m := d.matOf a.mat
  d.forAll (List.range a.r) (fun d i =>
    let x0 : Int := if testBit a.flags 0 then sat (d.sig (a.aux + i) * 2 ^ 30) 80 else 0
    d.setAcc i (rowAcc d.act.coefs (m.first + i * a.c) a.c d.ce.sig a.src { acc := x0, sat := false, osh := m.oshFirst + i }))

/-- MVA (R121). -/
def Dev.ceMva (d : Dev) (a : CeArgs) : Dev :=
  let m := d.matOf a.mat
  d.forAll (List.range a.r) (fun d i =>
    d.setAcc i (rowAcc d.act.coefs (m.first + i * a.c) a.c d.ce.sig a.src (d.ce.acc.getD i {})))

/-- WB (R121, R122). -/
def Dev.ceWb (d : Dev) (a : CeArgs) : Dev :=
  if d.xferWrites a then
    d.forAll (List.range a.r) (fun d i =>
      let row := d.ce.acc.getD i {}
      let w := writeback row.acc (oshOf (numAt d.act.oshs row.osh))
      d.outSig (a.dst + i) w.1 (row.sat || w.2))
  else d

/-- VADD (Table 6-8). -/
def Dev.ceVadd (d : Dev) (a : CeArgs) : Dev :=
  d.forAll (List.range a.r) (fun d i =>
    let x := d.sig (a.src + i) + d.sig (a.aux + i)
    d.outSig (a.dst + i) (sat x 32) (decide (x ≠ sat x 32)))

/-- VSUB (Table 6-8). -/
def Dev.ceVsub (d : Dev) (a : CeArgs) : Dev :=
  if d.xferWrites a then
    d.forAll (List.range a.r) (fun d i =>
      let x := d.sig (a.src + i) - d.sig (a.aux + i)
      d.outSig (a.dst + i) (sat x 32) (decide (x ≠ sat x 32)))
  else d

/-- VLIM (Table 6-8): the lower bound wins. -/
def Dev.ceVlim (d : Dev) (a : CeArgs) : Dev :=
  d.forAll (List.range a.r) (fun d i =>
    d.outSig (a.dst + i) (max (d.sig (a.src + i)) (min (d.sig (a.aux + i)) (d.sig (a.dst + i)))) false)

/-- MOV (Table 6-8). -/
def Dev.ceMov (d : Dev) (a : CeArgs) : Dev :=
  d.forAll (List.range a.r) (fun d i => d.outSig (a.dst + i) (d.sig (a.src + i)) false)

/-! ## Biquads (R131 to R137) -/

/-- wb of R132 with whether it saturated. -/
def wb (a : Int) : Int × Bool := writeback a 0

/-- The block that owns a biquad section. -/
def Dev.sectOwner (d : Dev) (n : Nat) : Option Nat :=
  (d.act.blks.find? (fun b => decide (b.law = 2) && decide (b.xbase ≤ n) && decide (n < b.xbase + b.nx))).map (·.blk)

/-- A state saturation counted in LAW_BQSAT (R132). -/
def Dev.bqSat (d : Dev) (n : Nat) (k : Nat) : Dev :=
  if k = 0 then d else (d.wr R.LAW_BQSAT.SECT n).bumpBy R.LAW_BQSAT.COUNT k

/-- One section of BQ: R132, or R137 with XFER in the transfer tick. -/
def Dev.bqSection (d : Dev) (a : CeArgs) (first i : Nat) (xfer : Bool) : Dev :=
  let cf := fun j => numAt d.act.coefs (first + 5 * i + j)
  let x := d.sig (a.src + i)
  let (s1, s2) := d.ce.bq.getD (a.aux + i) (0, 0)
  let ay := ({ acc := sat (s1 * 2 ^ 30) 80, sat := decide (s1 * 2 ^ 30 ≠ sat (s1 * 2 ^ 30) 80) } : AccRow).add (term (cf 0) x)
  let y := wb ay.acc
  let setS := fun (d : Dev) (p q : Int) => { d with ce := { d.ce with bq := setAt d.ce.bq (a.aux + i) (p, q), bad := d.ce.bad.filter (fun w => decide (w ≠ CeWord.sect (a.aux + i))) } }
  if xfer then
    let u := d.sig (a.dst + i)
    let w0 := wb (term (cf 0) x).1
    let v1 := u - w0.1
    let t2 := (({ acc := 0 } : AccRow).add (term (cf 2) x)).add (term (cf 4) u)
    (setS d (sat v1 32) (wb t2.acc).1).bqSat (a.aux + i)
      (b2n ((term (cf 0) x).2 || w0.2 || decide (v1 ≠ sat v1 32)) + b2n (t2.sat || (wb t2.acc).2))
  else
    let a1 := (((({ acc := sat (s2 * 2 ^ 30) 80 } : AccRow).add (term (cf 1) x))).add (term (cf 3) y.1))
    let a2 := (({ acc := 0 } : AccRow).add (term (cf 2) x)).add (term (cf 4) y.1)
    let d := d.outSig (a.dst + i) y.1 (ay.sat || y.2)
    (setS d (wb a1.acc).1 (wb a2.acc).1).bqSat (a.aux + i) (b2n (a1.sat || (wb a1.acc).2) + b2n (a2.sat || (wb a2.acc).2))

/-- BQ (R132, R136, R137). -/
def Dev.ceBq (d : Dev) (a : CeArgs) : Dev :=
  let m := d.matOf a.mat
  let xfer := testBit a.flags 1 && (match d.sectOwner a.aux with | some b => d.inXfer b | none => false)
  d.forAll (List.range a.r) (fun d i => d.bqSection a m.first i xfer)

/-! ## Feed-forward tables (R146) -/

/-- The two points and the fraction that an input selects. -/
def ffIndex (t : FfTab) (x : Int) : Nat × Nat × Int :=
  let dd : Int := if t.mode = 1 then ((x - t.x0) % 2 ^ 32 : Int) else x - t.x0
  let w : Int := 2 ^ t.xshift
  let n0 := divf dd w
  let fr := divf ((dd - n0 * w) * 65536) w
  if t.mode = 1 then (n0.toNat, (n0.toNat + 1) % 1024, fr)
  else if dd < 0 then (0, 0, 0)
  else if 1023 ≤ n0 then (1023, 1023, 0)
  else (n0.toNat, n0.toNat + 1, fr)

/-- The table's output for an input. -/
def ffValue (t : FfTab) (x : Int) : Int :=
  let (n0, n1, fr) := ffIndex t x
  let y0 := t.points.getD n0 0
  if fr = 0 then y0 else y0 + rshRound ((t.points.getD n1 0 - y0) * fr) 16

/-- The table element `i` of a LUT uses: none where |v| ≤ DEAD. -/
def Dev.lutTable (d : Dev) (a : CeArgs) (i : Nat) : Option Nat :=
  let dir := testBit a.flags 1
  let t := if testBit a.flags 2 then a.mat else if dir then a.mat + 2 * i else a.mat + i
  if dir then
    let v := d.sig (a.aux + i)
    if v.natAbs ≤ (d.act.ffs.getD t {}).dead then none else if 0 < v then some t else some (t + 1)
  else some t

/-- LUT (R146). -/
def Dev.ceLut (d : Dev) (a : CeArgs) : Dev :=
  d.forAll (List.range a.r) (fun d i =>
    let y := match d.lutTable a i with
      | some t => ffValue (d.act.ffs.getD t {}) (d.sig (a.src + i))
      | none => 0
    d.outSig (a.dst + i) y false)

/-! ## Slew generators (R142 to R144) -/

/-- One run of R143: rate and value. -/
def slewRun (rmax jmax : Nat) (v r t : Int) : Int × Int :=
  let e := t - v
  let r := if rmax = 0 then e
    else if jmax = 0 then clampInt e (-(rmax : Int)) rmax
    else
      let m := isqrt (2 * jmax * e.natAbs)
      let rd : Int := e.sign * min rmax m
      r + clampInt (rd - r) (-(jmax : Int)) jmax
  if e = 0 ∨ (r.sign = e.sign ∧ e.natAbs ≤ r.natAbs) then (t, 0) else (sat (v + r) 32, sat r 32)

/-- The axis is used by the stream: it has a leg or a supervisor. -/
def Dev.axisUsed (d : Dev) (n : Nat) : Bool :=
  d.act.legs.any (fun l => l.cls == 1 && l.axis == n) || d.act.sups.any (fun s => s.kind == 0 && s.unit == n)

/-- The generator is held at target 0: by its axis (R150), by its output (R304), or by the buffer (R336). -/
def Dev.genHeld (d : Dev) (g : Nat) : Bool :=
  (decide (d.rd R.STK_BUFCFG.IGEN = g) && decide (d.rd R.STK_BUFSTAT.STATE ≠ 1)) ||
  [0, 1, 2, 3].any (fun n =>
    (d.axisUsed n && decide (d.rd (R.LAW_AXSTOP.GEN n) = g) && decide (d.rd (R.LAW_AXSTAT.STATE n) ≠ 1)) ||
    (decide (d.rd (R.OUT_GEN.IGEN n) = g) && !([3, 4, 5].contains (d.outState n))) ||
    (decide (d.rd (R.OUT_GEN.VGEN n) = g) && [0, 1, 2, 7, 8].contains (d.outState n)))

def Dev.gen (d : Dev) (g : Nat) : GenRt := d.ce.gens.getD g {}

def Dev.setGen (d : Dev) (g : Nat) (r : GenRt) : Dev := { d with ce := { d.ce with gens := setAt d.ce.gens g r } }

/-- One generator's run. -/
def Dev.slewOne (d : Dev) (g : Nat) (src : Option Nat) : Dev :=
  let t := if d.genHeld g then 0 else match src with | some n => d.sig n | none => (d.gen g).target
  let v := d.sig (0x180 + g)
  let r := (d.gen g).rate
  let (v', r') := slewRun (d.rd (R.LAW_SLEWRATE.RMAX g)) (d.rd (R.LAW_SLEWJERK.JMAX g)) v r t
  let d := (d.setGen g { rate := r', target := t }).putSig (0x180 + g) v'
  (d.wrS (R.LAW_SLEWTGT.T g) t).wrS (R.LAW_SLEWSTAT.RATE g) r'

/-- SLEW (R142, R143). -/
def Dev.ceSlew (d : Dev) (a : CeArgs) : Dev :=
  d.forAll (List.range a.r) (fun d i => d.slewOne (a.aux + i) (if testBit a.flags 1 then some (a.src + i) else none))

/-! ## Axes and supervisors (R150 to R152) -/

/-- A supervisor's unit is active (R151). -/
def Dev.supActive (d : Dev) (i : Nat) : Bool :=
  if !d.act.sups.any (fun r => r.sup == i) then false
  else if d.on (R.LAW_FERRSTAT.KIND i) then decide (d.outState (d.rd (R.LAW_FERRSTAT.UNIT i)) = 5)
  else decide (d.rd (R.LAW_AXSTAT.STATE (d.rd (R.LAW_FERRSTAT.UNIT i))) = 1)

/-- Supervisors follow their units' activity (Table 7-12). -/
def Dev.supSync (d : Dev) : Dev :=
  d.forAll d.act.sups (fun d s =>
    let st := d.rd (R.LAW_FERRSTAT.STATE s.sup)
    if d.supActive s.sup then (if st = 0 then (d.wr (R.LAW_FERRSTAT.STATE s.sup) 1).wr (R.LAW_FERRSTAT.COUNT s.sup) 0 else d)
    else if st = 1 ∨ st = 2 then (d.wr (R.LAW_FERRSTAT.STATE s.sup) 0).wr (R.LAW_FERRSTAT.COUNT s.sup) 0 else d)

/-- Supervisors of a unit that leaves FAULT (Table 7-12). -/
def Dev.supRelease (d : Dev) (kind unit : Nat) : Dev :=
  d.forAll d.act.sups (fun d s =>
    if s.kind = kind ∧ s.unit = unit ∧ d.rd (R.LAW_FERRSTAT.STATE s.sup) = 3 then
      (d.wr (R.LAW_FERRSTAT.STATE s.sup) 0).wr (R.LAW_FERRSTAT.COUNT s.sup) 0
    else d)

def Dev.axis (d : Dev) (n : Nat) : AxisRt := d.ce.axes.getD n {}

def Dev.setAxis (d : Dev) (n : Nat) (x : AxisRt) : Dev := { d with ce := { d.ce with axes := setAt d.ce.axes n x } }

/-- State of an axis (Table 7-10). -/
def Dev.axisState (d : Dev) (n : Nat) : Nat := d.rd (R.LAW_AXSTAT.STATE n)

def Dev.setAxisState (d : Dev) (n v : Nat) : Dev := (d.wr (R.LAW_AXSTAT.STATE n) v).supSync

/-- A fault of an axis in RUN (Table 7-10). -/
def Dev.axisFault (d : Dev) (n cause : Nat) : Dev :=
  if d.axisState n = 1 then
    let d := (d.wr (R.LAW_AXSTAT.CAUSE n) cause).setAxis n { d.axis n with faultPend := true }
    ((d.setAxisState n 2)).raise 23 1 [n, cause]
  else d

/-- The unit of a supervisor quenched (R152). -/
def Dev.supQuench (d : Dev) (i : Nat) : Dev :=
  let u := d.rd (R.LAW_FERRSTAT.UNIT i)
  if d.on (R.LAW_FERRSTAT.KIND i) then d.outQuench u (some 12) else d.axisFault u 1

/-- One supervisor's run (R151, Table 7-12); injection point 13 takes |err| as LIMIT + 1. -/
def Dev.ferrOne (d : Dev) (i : Nat) (ref fb : Int) : Dev :=
  let lim := d.rd (R.LAW_FERRLIM.LIMIT i)
  let inj := d.isInjected 13 i
  let err := if inj then lim + 1 else (ref - fb).natAbs
  let d := d.supSync
  let d := if inj then d.injUse 13 i else d
  if d.supActive i then
    let d := d.wr (R.LAW_FERRPEAK.PEAK i) (max (d.rd (R.LAW_FERRPEAK.PEAK i)) (min err 0xFFFFFFFF))
    let st := d.rd (R.LAW_FERRSTAT.STATE i)
    if st = 1 ∨ st = 2 then
      if lim < err then
        let n := d.rd (R.LAW_FERRSTAT.COUNT i) + 1
        let d := d.wr (R.LAW_FERRSTAT.COUNT i) n
        if d.rd (R.LAW_FERRTMR.TIMER i) ≤ n then (((d.wr (R.LAW_FERRSTAT.STATE i) 3).raise 23 0 [i]).capCause 5).supQuench i
        else d.wr (R.LAW_FERRSTAT.STATE i) 2
      else (d.wr (R.LAW_FERRSTAT.STATE i) 1).wr (R.LAW_FERRSTAT.COUNT i) 0
    else d
  else d

/-- FERR (R151). -/
def Dev.ceFerr (d : Dev) (a : CeArgs) : Dev :=
  d.forAll (List.range a.r) (fun d i => d.ferrOne (a.dst + i) (d.sig (a.src + i)) (d.sig (a.aux + i)))

/-! ## Residual detectors (R153, R154) -/

def Dev.detRec (d : Dev) (n : Nat) : Det := (d.act.dets.find? (fun x => x.det == n)).getD {}

/-- Modes in which detectors count (R154). -/
def detMode : Mode → Bool
  | .ready | .active | .derate | .autonomous | .quench | .commission => true
  | _ => false

/-- The detector is MASKED (R154), as is one without a DETMAP record (log entry 154). -/
def Dev.detMasked (d : Dev) (n : Nat) : Bool :=
  let r := d.detRec n
  !detMode d.mode || !d.act.dets.any (fun x => x.det == n) || d.act.attrs.any (fun a => a.blk == r.blk && a.index == (d.dgr.blk.getD r.blk {}).active && testBit a.excl r.meas)

def Dev.detRt (d : Dev) (n : Nat) : DetRt := d.dgr.det.getD n {}

def Dev.setDet (d : Dev) (n : Nat) (x : DetRt) : Dev := { d with dgr := { d.dgr with det := setAt d.dgr.det n x } }

/-- DGR_DETSTAT of a detector (Table 8-1). -/
def Dev.detShow (d : Dev) (n : Nat) : Dev :=
  let x := d.detRt n
  let st := if x.trig then 3 else if d.detMasked n then 0 else if x.cnt = 0 then 1 else 2
  (d.wr (R.DGR_DETSTAT.STATE n) st).wr (R.DGR_DETSTAT.CNT n) x.cnt

/-- One detector's run; injection point 2 takes r as THR + 1. -/
def Dev.residOne (d : Dev) (n : Nat) (x : Int) : Dev :=
  let thr := d.rd (R.DGR_DETTHR.THR n)
  let inj := d.isInjected 2 n
  let r := if inj then thr + 1 else x.natAbs
  let d := if inj then d.injUse 2 n else d
  let d := d.wr (R.DGR_DETPEAK.PEAK n) (max (d.rd (R.DGR_DETPEAK.PEAK n)) (min r 0xFFFFFFFF))
  let t := d.detRt n
  let counting := d.on R.DGR_CTL.DETEN && !d.detMasked n && !t.trig
  let lim := (d.detRec n).n
  let cnt := if counting && decide (thr < r) then min (t.cnt + 1) lim else 0
  (d.setDet n { cnt := cnt, trig := t.trig || (counting && decide (thr < r) && decide (cnt = lim)) }).detShow n

/-- RESID (R153). -/
def Dev.ceResid (d : Dev) (a : CeArgs) : Dev :=
  d.forAll (List.range a.r) (fun d i => d.residOne (a.dst + i) (d.sig (a.src + i)))

/-! ## ECC (R125) -/

/-- Whether `n` lies in `k` places from `b` on. -/
def inRange (b k n : Nat) : Bool := decide (b ≤ n) && decide (n < b + k)

/-- Whether an instruction reads a word (R125). -/
def Dev.ceReads (d : Dev) (o : CeOp) (w : CeWord) : Bool :=
  let a := o.a
  match o.op, w with
  | 1, .coef i | 2, .coef i => inRange (d.matOf a.mat).first (a.r * a.c) i
  | 1, .signal n => inRange a.src a.c n || (testBit a.flags 0 && inRange a.aux a.r n)
  | 2, .signal n => inRange a.src a.c n
  | 3, .osh i => (List.range a.r).any (fun j => (d.ce.acc.getD j {}).osh == i)
  | 4, .signal n | 5, .signal n | 0x0C, .signal n => inRange a.src a.r n || inRange a.aux a.r n
  | 6, .signal n => inRange a.src a.r n || inRange a.aux a.r n || inRange a.dst a.r n
  | 7, .signal n | 0x0B, .signal n => inRange a.src a.r n
  | 8, .signal n => inRange a.src a.r n || (testBit a.flags 1 && inRange a.aux a.r n)
  | 8, .point t i => (List.range a.r).any (fun j => match d.lutTable a j with
      | some t' => let x := ffIndex (d.act.ffs.getD t' {}) (d.sig (a.src + j))
                   t' == t && (i == x.1 || (i == x.2.1 && decide (x.2.2 ≠ 0)))
      | none => false)
  | 9, .signal n => (testBit a.flags 1 && inRange a.src a.r n) || inRange (0x180 + a.aux) a.r n
  | 0x0A, .coef i => inRange (d.matOf a.mat).first (5 * a.r) i
  | 0x0A, .signal n => inRange a.src a.r n || (testBit a.flags 1 && inRange a.dst a.r n)
  | 0x0A, .sect n => inRange a.aux a.r n
  | _, _ => false

/-- The active bank changed by `f`. -/
def Dev.onAct (d : Dev) (f : StreamData → StreamData) : Dev :=
  { d with st := { d.st with banks := setAt d.st.banks (d.rd R.STS_BANK.ACT) (f d.act) } }

/-- A damaged word: its value is no longer defined, a free value stands for it (R125, log entry 3). -/
def Dev.spoilWord (d : Dev) (w : CeWord) : Dev :=
  match w with
  | .coef i => let (v, d) := d.drawFree (2 ^ 38); d.onAct (fun s => { s with coefs := setAt s.coefs i v })
  | .osh i => let (v, d) := d.drawFree 32; d.onAct (fun s => { s with oshs := setAt s.oshs i v })
  | .signal n => let (v, d) := d.drawFree (2 ^ 32); { d with ce := { d.ce with sig := setAt d.ce.sig n (signed v 32) } }
  | .sect n =>
    let (v, d) := d.drawFree (2 ^ 32)
    let (u, d) := d.drawFree (2 ^ 32)
    { d with ce := { d.ce with bq := setAt d.ce.bq n (signed v 32, signed u 32) } }
  | .point t i =>
    let (v, d) := d.drawFree (2 ^ 32)
    d.onAct (fun s => { s with ffs := setAt s.ffs t { s.ffs.getD t {} with points := setAt (s.ffs.getD t {}).points i (signed v 32) } })

/-- CEN_ECCADDR after an error. -/
def Dev.eccAddr (d : Dev) (sigMem : Bool) (addr : Nat) : Dev := (d.wrB R.CEN_ECCADDR.SIGMEM sigMem).wr R.CEN_ECCADDR.ADDR addr

/-- A corrected error (R125). -/
def Dev.eccCorr (d : Dev) (sigMem : Bool) (addr : Nat) : Dev :=
  ((d.bump R.CEN_ECC.CORR).eccAddr sigMem addr).raise 17 0 [addr]

/-- An error met by a word the CE reads (R125). -/
def Dev.ceEcc (d : Dev) (h : EccHit) : Dev :=
  let sigMem := match h.word with | .signal _ => true | _ => false
  if h.uncorr then
    let d := (d.bump R.CEN_ECC.UNCORR).eccAddr sigMem h.addr
    let d := { d.wr R.CEN_STAT.DAMAGED 1 with ce := { d.ce with bad := d.ce.bad ++ [h.word] } }
    (((d.fatalLatch 4).raise 18 0 [h.addr]).deviceTrip).spoilWord h.word
  else d.eccCorr sigMem h.addr

/-- Words already found damaged that the instruction reads again (R125). -/
def Dev.ceReread (d : Dev) (o : CeOp) : Dev :=
  d.forAll (d.ce.bad.filter (d.ceReads o)) (fun d w => (d.bump R.CEN_ECC.UNCORR).spoilWord w)

/-- The error that injection point 4 puts into the next read of its word (Table 21-1). -/
def Dev.ceInjected (d : Dev) (o : CeOp) : Option (Nat × EccHit) :=
  let hit := fun (inst : Nat) (w : Nat → CeWord) => match d.injected 4 inst with
    | some i => let a := bits i.par 24 0
                if d.ceReads o (w a) then some (inst, ({ word := w a, addr := a, uncorr := testBit i.par 31 } : EccHit)) else none
    | none => none
  (hit 1 CeWord.signal).or (hit 0 (fun a => CeWord.coef (a - 0x100000 * d.rd R.STS_BANK.ACT)))

/-! ## Running instructions -/

/-- The effect of one instruction (Table 6-8). -/
def Dev.ceEffect (d : Dev) (o : CeOp) : Dev :=
  match o.op with
  | 1 => d.ceMvm o.a
  | 2 => d.ceMva o.a
  | 3 => d.ceWb o.a
  | 4 => d.ceVadd o.a
  | 5 => d.ceVsub o.a
  | 6 => d.ceVlim o.a
  | 7 => d.ceMov o.a
  | 8 => d.ceLut o.a
  | 9 => d.ceSlew o.a
  | 0x0A => d.ceBq o.a
  | 0x0B => d.ceResid o.a
  | 0x0C => d.ceFerr o.a
  | _ => d

/-- What the reads of an instruction meet before its effect: damaged words, an injected error, an error of the memory. -/
def Dev.ceFetchWords (d : Dev) (o : CeOp) (ecc : Option EccHit) : Dev :=
  let d := d.ceReread o
  let d := match d.ceInjected o with
    | some (inst, h) => (d.injUse 4 inst).ceEcc h
    | none => d
  match ecc with
  | some h => if d.ceReads o h.word then d.ceEcc h else d
  | none => d

/-- One instruction run, with the error its reads meet; the tick's code list goes on when this instruction is its next. -/
def Dev.ceStep (d : Dev) (op : Nat) (a : CeArgs) (ecc : Option EccHit) : Dev :=
  if d.domOn .f2 then
    let d := if d.ce.todo.head? = some ⟨op, a⟩ then { d with ce := { d.ce with todo := d.ce.todo.drop 1 } } else d
    (d.ceFetchWords ⟨op, a⟩ ecc).ceEffect ⟨op, a⟩
  else d

/-- The rest of the tick's code run in order (R114). -/
def Dev.ceRunRest (d : Dev) : Dev :=
  let code := d.ce.todo
  (d.forAll code (fun d o => (d.ceFetchWords o none).ceEffect o)).when true (fun d => { d with ce := { d.ce with todo := [] } })

/-! ## Meanings -/

/-- MVM (R121). -/
def execCeMvm (a : CeArgs) (ecc : Option EccHit) (s : State) : Host.Outcome State Fault Refusal := done s (·.ceStep 0x01 a ecc)

/-- MVA (R121). -/
def execCeMva (a : CeArgs) (ecc : Option EccHit) (s : State) : Host.Outcome State Fault Refusal := done s (·.ceStep 0x02 a ecc)

/-- WB (R121, R122). -/
def execCeWb (a : CeArgs) (ecc : Option EccHit) (s : State) : Host.Outcome State Fault Refusal := done s (·.ceStep 0x03 a ecc)

/-- VADD (Table 6-8, R124). -/
def execCeVadd (a : CeArgs) (ecc : Option EccHit) (s : State) : Host.Outcome State Fault Refusal := done s (·.ceStep 0x04 a ecc)

/-- VSUB (Table 6-8, R124, R136). -/
def execCeVsub (a : CeArgs) (ecc : Option EccHit) (s : State) : Host.Outcome State Fault Refusal := done s (·.ceStep 0x05 a ecc)

/-- VLIM (Table 6-8, R124). -/
def execCeVlim (a : CeArgs) (ecc : Option EccHit) (s : State) : Host.Outcome State Fault Refusal := done s (·.ceStep 0x06 a ecc)

/-- MOV (Table 6-8, R124). -/
def execCeMov (a : CeArgs) (ecc : Option EccHit) (s : State) : Host.Outcome State Fault Refusal := done s (·.ceStep 0x07 a ecc)

/-- LUT (R146). -/
def execCeLut (a : CeArgs) (ecc : Option EccHit) (s : State) : Host.Outcome State Fault Refusal := done s (·.ceStep 0x08 a ecc)

/-- SLEW (R143). -/
def execCeSlew (a : CeArgs) (ecc : Option EccHit) (s : State) : Host.Outcome State Fault Refusal := done s (·.ceStep 0x09 a ecc)

/-- BQ (R132, R137). -/
def execCeBq (a : CeArgs) (ecc : Option EccHit) (s : State) : Host.Outcome State Fault Refusal := done s (·.ceStep 0x0A a ecc)

/-- RESID (R153). -/
def execCeResid (a : CeArgs) (ecc : Option EccHit) (s : State) : Host.Outcome State Fault Refusal := done s (·.ceStep 0x0B a ecc)

/-- FERR (R151). -/
def execCeFerr (a : CeArgs) (ecc : Option EccHit) (s : State) : Host.Outcome State Fault Refusal := done s (·.ceStep 0x0C a ecc)

/-- IDLE (Table 6-8): nothing but its cycles. -/
def execCeIdle (a : CeArgs) (s : State) : Host.Outcome State Fault Refusal := done s (·.ceStep 0x0D a none)

/-- END (R123): the code sequence ends. -/
def execCeEnd (a : CeArgs) (s : State) : Host.Outcome State Fault Refusal := done s (·.ceStep 0x00 a none)

end Sys2Proof.Machine
end

