-- ==== Sys2Proof/Machine/Motion.lean ====
section
/-! DEFINITION. Motion axes, manual and automatic transfer, and the CE's debug halt (chapters 6 and 7). -/

namespace Sys2Proof.Machine

/-! ## Encoders (R147 to R149) -/

/-- Position of a level pair in the quadrature cycle, A leading B when counting up. -/
def quadPos (a b : Bool) : Nat := if a then (if b then 2 else 1) else (if b then 3 else 0)

/-- A filtered change of ENC_A and ENC_B (R147). -/
def Dev.encTransition (d : Dev) (n : Nat) (a b : Bool) : Dev :=
  let x := d.axis n
  let d := d.setAxis n { x with a := a, b := b }
  if d.on (R.LAW_AXCFG.ENCEN n) then
    if x.a ≠ a ∧ x.b ≠ b then (d.bump (R.LAW_AXERR.ILLEGAL n)).axisFault n 2
    else if x.a = a ∧ x.b = b then d
    else
      let up := decide (quadPos a b = (quadPos x.a x.b + 1) % 4)
      d.setAxis n { x with a := a, b := b, cnt := wrap (if up then x.cnt + 1 else x.cnt - 1) 64 }
  else if x.a ≠ a ∧ x.b ≠ b then d.bump (R.LAW_AXERR.ILLEGAL n) else d

/-- Position within a turn (R148). -/
def Dev.axisPos (d : Dev) (n : Nat) (cnt : Int) : Nat := ((cnt - (d.axis n).zref) % (max 4 (d.rd (R.LAW_AXCPR.CPR n)) : Nat)).toNat

/-- Electrical angle at the last S, full turn 2^32 (R148). -/
def Dev.axisAngle (d : Dev) (n : Nat) : Nat :=
  d.axisPos n ((d.axis n).atS.headD 0) * d.rd (R.LAW_AXCFG.POLES n) * 2 ^ 32 / max 4 (d.rd (R.LAW_AXCPR.CPR n)) % 2 ^ 32

/-- Velocity: the count at S less the count VELWIN ticks earlier (R147). -/
def Dev.axisVel (d : Dev) (n : Nat) : Int :=
  let h := (d.axis n).atS
  h.headD 0 - h.getD (max 1 (d.rd (R.LAW_AXCFG.VELWIN n))) (h.getLastD 0)

/-- The counts taken at S (R147). -/
def Dev.axesAtS (d : Dev) : Dev :=
  d.forAll [0, 1, 2, 3] (fun d n =>
    let x := d.axis n
    (d.setAxis n { x with atS := (x.cnt :: x.atS).take 256 }).wrS (R.LAW_AXCNT.CNT n) x.cnt)

/-- An index edge (R148, R149). -/
def Dev.encIndex (d : Dev) (n : Nat) : Dev :=
  let x := d.axis n
  let d := d.wrS (R.LAW_AXZPOS.ZCNT n) x.cnt
  if d.on (R.LAW_AXCFG.ZEN n) then
    if d.on (R.LAW_AXSTAT.ZVALID n) then
      let pos := d.axisPos n x.cnt
      let cpr := max 4 (d.rd (R.LAW_AXCPR.CPR n))
      if d.rd (R.LAW_AXCFG.ZTOL n) < min pos (cpr - pos) then (d.bump (R.LAW_AXERR.ZMISS n)).axisFault n 3 else d
    else (d.setAxis n { x with zref := x.cnt }).wr (R.LAW_AXSTAT.ZVALID n) 1
  else d

/-! ## Axis states (Table 7-10) -/

/-- Modes that allow an axis to switch (R150). -/
def axisMode : Mode → Bool
  | .ready | .active | .derate | .autonomous | .quench | .commission => true
  | _ => false

/-- Target of the axis's generator := 0. -/
def Dev.axisGenZero (d : Dev) (n : Nat) : Dev :=
  let g := d.rd (R.LAW_AXSTOP.GEN n)
  d.setGen g { d.gen g with target := 0 }

/-- RUN to STOPPING. -/
def Dev.axisStopping (d : Dev) (n : Nat) : Dev := if d.axisState n = 1 then (d.setAxisState n 2).axisGenZero n else d

/-- STOPPING ends: FAULT if a fault is pending, otherwise OFF. -/
def Dev.axisStopped (d : Dev) (n : Nat) : Dev :=
  if (d.axis n).faultPend then (d.setAxis n { d.axis n with faultPend := false }).setAxisState n 3 else d.setAxisState n 0

/-- TRIPPED entered or F3 off: RUN and STOPPING end at once. -/
def Dev.axesTripped (d : Dev) : Dev :=
  d.forAll [0, 1, 2, 3] (fun d n => if d.axisState n = 1 ∨ d.axisState n = 2 then d.axisStopped n else d)

/-- A mode that does not allow switching entered. -/
def Dev.axesMode (d : Dev) : Dev :=
  if d.mode = .tripped then d.axesTripped else if axisMode d.mode then d else d.forAll [0, 1, 2, 3] Dev.axisStopping

/-- Standstill of stopping axes, taken with the velocity at the latch (R150). -/
def Dev.axesStandstill (d : Dev) : Dev :=
  d.forAll [0, 1, 2, 3] (fun d n =>
    if d.axisState n = 2 ∧ d.on (R.LAW_AXCFG.ENCEN n) = true ∧ (d.axisVel n).natAbs ≤ d.rd (R.LAW_AXSTOP.VSTILL n) then d.axisStopped n else d)

/-- EN written 1: OFF to RUN in a mode that allows switching. -/
def Dev.axisEnable (d : Dev) (n : Nat) : Dev :=
  let d := d.wr (R.LAW_AXCTL.EN n) 1
  if d.axisState n = 0 ∧ axisMode d.mode = true then
    ((d.setAxis n { d.axis n with zref := 0, faultPend := false }).wr (R.LAW_AXSTAT.ZVALID n) 0).setAxisState n 1
  else d

/-- EN written 0. -/
def Dev.axisDisable (d : Dev) (n : Nat) : Dev := (d.wr (R.LAW_AXCTL.EN n) 0).axisStopping n

/-- CLR: FAULT to OFF. -/
def Dev.axisClr (d : Dev) (n : Nat) : Dev :=
  if d.axisState n = 3 then ((d.wr (R.LAW_AXSTAT.CAUSE n) 0).setAxisState n 0).supRelease 0 n else d

/-! ## Manual and automatic (R135 to R141) -/

/-- LAW_MAN written (R135): ignored for a block with MANBASE 0xFFFF. -/
def Dev.manWrite (d : Dev) (b v : Nat) : Dev :=
  match d.blk? b with
  | some x => if x.manBase = 0xFFFF then d else d.wr (R.LAW_MAN.MAN b) (bit v 0)
  | none => d

/-- At S the requests written by the FMP become those of the tick (R135). -/
def Dev.manAtS (d : Dev) : Dev :=
  { d with ce := { d.ce with manReq := (List.range 8).map (fun b => d.on (R.LAW_MAN.MAN b)), xfer := List.replicate 8 false } }

/-- A write accepted on the flue counts in the tick of its latch (R135). -/
def Dev.manNow (d : Dev) (b : Nat) : Dev := { d with ce := { d.ce with manReq := setAt d.ce.manReq b (d.on (R.LAW_MAN.MAN b)) } }

/-- TRACK loads the manual generators with the held actuations (R139). -/
def Dev.trackLoad (d : Dev) (x : Blk) : Dev :=
  d.forAll (List.range x.nu) (fun d j =>
    let v := d.sig (x.ubase + j)
    (d.setGen (x.manBase + j - 0x180) { rate := 0, target := v }).putSig (x.manBase + j) v)

/-- The MAN changes of a tick, before its computation: a transfer tick where MAN falls (R136), TRACK where it rises (R139); a block
that enters MANUAL has no transfer tick (R157).
`due` says whether a sub-rate slot runs in the tick. -/
def Dev.manApply (d : Dev) (due : Nat → Bool) : Dev :=
  d.forAll d.act.blks (fun d x =>
    let b := x.blk
    let was := d.ce.man.getD b false
    let now := d.ce.manReq.getD b false
    if was = now ∨ (x.slot ≠ 0xFF ∧ due x.slot = false) then d
    else
      let d := { d with ce := { d.ce with man := setAt d.ce.man b now } }
      if now then
        let d := { d with ce := { d.ce with xfer := setAt d.ce.xfer b false } }
        if x.track then d.trackLoad x else d
      else { d with ce := { d.ce with xfer := setAt d.ce.xfer b true } })

/-- At W a block in MANUAL transfers its manual values, and its actuation signals take them (R135). -/
def Dev.manualAtW (d : Dev) : Dev :=
  d.forAll d.act.blks (fun d x =>
    if d.ce.man.getD x.blk false then d.forAll (List.range x.nu) (fun d j => d.putSig (x.ubase + j) (d.sig (x.manBase + j))) else d)

/-- Transfer ticks counted and reported at W (section 7.9, event 23 KIND 2). -/
def Dev.xferAtW (d : Dev) : Dev :=
  d.forAll d.act.blks (fun d x => if d.inXfer x.blk then (d.bump (R.LAW_MAN.XFERCNT x.blk)).raise 23 2 [x.blk] else d)

/-! ## Debug halt (R115) -/

/-- CEN_DBG.HALT written: effective in SERVICE only. -/
def Dev.dbgHalt (d : Dev) (halt : Bool) : Dev := d.wrB R.CEN_DBG.HALT (halt && decide (d.mode = .service))

/-- CEN_DBG.STEP: while HALTED, one tick. -/
def Dev.dbgStep (d : Dev) : Dev :=
  if d.rd R.CEN_STAT.RUN = 2 ∧ d.mode = .service then { d with ce := { d.ce with stepReq := true } } else d

/-! ## Meanings -/

/-- ENCODER_TRANSITION (R147). -/
def execEncoderTransition (axis : Fin 4) (a b : Bool) (s : State) : Host.Outcome State Fault Refusal :=
  done s (fun d => if d.domOn .f2 then d.encTransition axis a b else d)

/-- ENCODER_INDEX_EDGE (R148, R149). -/
def execEncoderIndexEdge (axis : Fin 4) (s : State) : Host.Outcome State Fault Refusal :=
  done s (fun d => if d.domOn .f2 then d.encIndex axis else d)

/-- AXIS_ENABLE (R150). -/
def execAxisEnable (axis : Fin 4) (s : State) : Host.Outcome State Fault Refusal :=
  done s (fun d => if d.domOn .f2 then d.axisEnable axis else d)

/-- AXIS_DISABLE (R150). -/
def execAxisDisable (axis : Fin 4) (s : State) : Host.Outcome State Fault Refusal :=
  done s (fun d => if d.domOn .f2 then d.axisDisable axis else d)

/-- AXIS_CLR (R150). -/
def execAxisClr (axis : Fin 4) (s : State) : Host.Outcome State Fault Refusal :=
  done s (fun d => if d.domOn .f2 then d.axisClr axis else d)

/-- STOPTIME_EXPIRY (R150): STOPTIME has elapsed in STOPPING. -/
def execStoptimeExpiry (axis : Fin 4) (s : State) : Host.Outcome State Fault Refusal :=
  done s (fun d => if d.axisState axis = 2 then d.axisStopped axis else d)

/-- LAW_MAN_WRITE (R135). -/
def execLawManWrite (block : Fin 8) (value : Nat) (s : State) : Host.Outcome State Fault Refusal :=
  done s (fun d => if d.domOn .f2 then d.manWrite block value else d)

/-- CEN_DBG_HALT (R115): the value written to HALT. -/
def execCenDbgHalt (halt : Bool) (s : State) : Host.Outcome State Fault Refusal :=
  done s (fun d => if d.domOn .f2 then d.dbgHalt halt else d)

/-- CEN_DBG_STEP (R115). -/
def execCenDbgStep (s : State) : Host.Outcome State Fault Refusal := done s (fun d => if d.domOn .f2 then d.dbgStep else d)

/-- CE_LOCKSTEP_MISMATCH (R126): CEN event 18 KIND 1, the fatal-error latch (R408) and a device-level trip. -/
def execCeLockstepMismatch (s : State) : Host.Outcome State Fault Refusal :=
  done s (fun d => if d.domOn .f2 then ((d.fatalLatch 3).raise 18 1 []).deviceTrip else d)

end Sys2Proof.Machine
end

