-- ==== Sys2Proof/Machine/Degraded.lean ====
section
/-! DEFINITION. Variants: trigger processing, classification windows, changes of the active variant, module loss (chapter 8). -/

namespace Sys2Proof.Machine

def Dev.dblk (d : Dev) (b : Nat) : DgrBlk := d.dgr.blk.getD b {}

def Dev.setDblk (d : Dev) (b : Nat) (x : DgrBlk) : Dev := { d with dgr := { d.dgr with blk := setAt d.dgr.blk b x } }

/-- Index of the variant of a block with a key. -/
def Dev.varOfKey (d : Dev) (b key : Nat) : Option Nat := (d.act.vars.find? (fun v => v.blk == b && v.key == key)).map (·.index)

/-- Key of a variant of a block. -/
def Dev.keyOf (d : Dev) (b idx : Nat) : Nat := ((d.act.vars.find? (fun v => v.blk == b && v.index == idx)).map (·.key)).getD 0

def Dev.attr (d : Dev) (b idx : Nat) : VarAttr := (d.act.attrs.find? (fun a => a.blk == b && a.index == idx)).getD {}

def Dev.detBlk (d : Dev) (b : Nat) : DetBlk := (d.act.detBlks.find? (fun x => x.blk == b)).getD {}

/-- Index after any pending change (R158). -/
def Dev.idxAfter (d : Dev) (b : Nat) : Nat := match (d.dblk b).pend with | some p => p.1 | none => (d.dblk b).active

def Dev.lost (d : Dev) (b : Nat) : Nat := d.rd (R.DGR_LOST.LOST b)

/-- A variant includes no lost module (R159). -/
def Dev.varAllowed (d : Dev) (b idx : Nat) : Bool := decide (Nat.land (d.attr b idx).active (d.lost b) = 0)

/-- The detection-to-variant table (Table 8-5): outcome 0 EXCL, 1 SENSE, 2 OPEN. -/
def Dev.lookup (d : Dev) (b idx det outcome : Nat) : Option Nat :=
  match d.act.maps.find? (fun m => m.blk == b && m.det == det && m.outcome == outcome && m.src == d.keyOf b idx) with
  | some m => d.varOfKey b m.dst
  | none => none

/-- DGR_BLKSTAT and DGR_WIN of a block. -/
def Dev.dgrShow (d : Dev) (b : Nat) : Dev :=
  let x := d.dblk b
  d.wrAll [(R.DGR_BLKSTAT.KEY b, d.keyOf b x.active), (R.DGR_BLKSTAT.INDEX b, x.active), (R.DGR_BLKSTAT.WINOPEN b, b2n x.win.isSome),
    (R.DGR_BLKSTAT.PEND b, b2n x.pend.isSome), (R.DGR_BLKSTAT.QDET b, x.queued.getD 0xFF), (R.DGR_WIN.DET b, x.win.getD 0),
    (R.DGR_WIN.TICKS b, x.ticks), (R.DGR_WIN.AGREE b, x.agree), (R.DGR_WIN.OPEN b, x.opened)]

/-- A change made pending (R156): KIND of its event 22. -/
def Dev.pendVar (d : Dev) (b idx kind : Nat) : Dev := (d.setDblk b { d.dblk b with pend := some (idx, kind) }).dgrShow b

/-- fallback(d) of R160. -/
def Dev.fallback (d : Dev) (det : Nat) : Dev :=
  let r := d.detRec det
  let d := (d.bump R.DGR_CNT.FALLBACK).raise 20 1 [det]
  let om := (d.detBlk r.blk).outmask
  match r.fallback with
  | 1 => if om = 0 then d.quenchAll else d.forAll (bitsOf 4 om) (fun d n => d.outQuench n (some 13))
  | 2 =>
    let d := d.swTripGroups (maskOf 20 (fun g => d.act.mods.any (fun m => m.blk == r.blk && m.group == g)))
    d.forAll (bitsOf 4 om) (fun d n => d.outImmediate n 1)
  | _ => d

/-- A classification window of a block opened on a detector; it votes from W of the change tick on (R158, R161). -/
def Dev.openWindow (d : Dev) (b det : Nat) : Dev :=
  (d.setDblk b { d.dblk b with win := some det, winWait := true, agree := 0, opened := 0, ticks := 0 }).dgrShow b

/-- One trigger processed (R158). -/
def Dev.trigger (d : Dev) (det : Nat) : Dev :=
  let r := d.detRec det
  let b := r.blk
  let d := d.setDet det { cnt := 0, trig := false }
  let d := ((((d.bump (R.DGR_DETSTAT.TRIGS det)).bump R.DGR_CNT.TRIG).raise 20 0 [det]).capCause 4).detShow det
  if r.hwsel then
    match d.lookup b (d.idxAfter b) det 0 with
    | none => d.fallback det
    | some nextVar =>
      if d.varAllowed b nextVar = false then d.fallback det
      else if (d.dblk b).win.isSome then
        if (d.dblk b).queued = none then
          let d := d.pendVar b nextVar 0
          (d.setDblk b { d.dblk b with queued := some det }).dgrShow b
        else d.fallback det
      else
        let d := d.pendVar b nextVar 0
        if r.classify then d.openWindow b det else d.wr (R.DGR_BLKSTAT.DEGRADED b) 1
  else d

/-- A closed window: the queued detector's window opens in the next tick (R158). -/
def Dev.closeWindow (d : Dev) (b : Nat) : Dev :=
  let q := (d.dblk b).queued
  let d := (d.setDblk b { d.dblk b with win := none, winWait := false, queued := none }).dgrShow b
  match q with
  | some det => if (d.detRec det).classify then d.openWindow b det else d.wr (R.DGR_BLKSTAT.DEGRADED b) 1
  | none => d

/-- Votes and verdict kept (DGR_LASTCLS). -/
def Dev.lastCls (d : Dev) (b det verdict : Nat) : Dev :=
  let x := d.dblk b
  d.wrAll [(R.DGR_LASTCLS.DET b, det), (R.DGR_LASTCLS.AGREE b, x.agree), (R.DGR_LASTCLS.OPEN b, x.opened), (R.DGR_LASTCLS.VERDICT b, verdict)]

/-- Modules that switch under the active variant (DGR_SHEDSTAT.COUNT). -/
def Dev.modsSwitching (d : Dev) (b : Nat) : Nat :=
  let a := (d.attr b (d.dblk b).active).active
  ((List.range 12).filter (fun m => testBit a m && !testBit (d.lost b) m)).length

/-- The verdict at the end of a window (R161). -/
def Dev.verdict (d : Dev) (b det : Nat) : Dev :=
  let x := d.dblk b
  let r := d.detRec det
  let q := (d.detBlk b).quorum
  let v := if q ≤ x.agree then 0 else if q ≤ x.opened then 1 else 2
  let d := d.wr (R.DGR_BLKSTAT.DEGRADED b) 1
  let d := if v = 0 then
      match d.lookup b x.active det 1 with
      | some nextVar => if d.varAllowed b nextVar then d.pendVar b nextVar 0 else d
      | none => d
    else
      let d := d.wr (R.DGR_LOST.LOST b) (setBit (d.lost b) r.mod)
      let d := d.wr (R.DGR_SHEDSTAT.COUNT b) (d.modsSwitching b)
      match d.lookup b x.active det 2 with
      | some nextVar => if d.varAllowed b nextVar then d.pendVar b nextVar 0 else d.fallback det
      | none => d.fallback det
  ((d.lastCls b det (v + 1)).raise 21 v [det, x.agree, x.opened]).closeWindow b

/-- One tick of an open window (R161). -/
def Dev.windowTick (d : Dev) (b : Nat) : Dev :=
  let x := d.dblk b
  match x.win with
  | none => d
  | some det =>
    if x.winWait then d
    else
      let r := d.detRec det
      let e := d.ce.snap.getD r.est 0
      let bl := d.ce.snap.getD r.bal 0
      let counts := decide (r.imin ≤ e.natAbs)
      let ag := counts && decide ((e - bl).natAbs ≤ r.agree)
      let op := counts && !ag && decide (bl.natAbs ≤ r.openTol)
      let d := (d.setDblk b { x with agree := x.agree + b2n ag, opened := x.opened + b2n op, ticks := x.ticks + 1 }).dgrShow b
      if (d.dblk b).ticks = (d.detBlk b).cwin then d.verdict b det else d

/-- Modes in which the CE runs every tick. -/
def Dev.ceRunsNow (d : Dev) : Bool := decide (d.rd R.CEN_STAT.RUN = 1)

/-- The software request of a block taken up at W (R156). `hw` says that a hardware change of the block falls due in the tick. -/
def Dev.takeRequest (d : Dev) (b : Nat) (hw : Bool) : Dev :=
  match (d.dblk b).req with
  | none => d
  | some (key, shed) =>
    let d := d.setDblk b { d.dblk b with req := none }
    let refuse := fun (c : Nat) => (d.wr (R.DGR_VARREQ.RESULT b) 3).wr (R.DGR_VARREQ.CODE b) c
    if hw then refuse 4
    else match d.varOfKey b key with
    | none => refuse 1
    | some idx =>
      if (d.dblk b).win.isSome || (d.dblk b).queued.isSome then refuse 2
      else if d.varAllowed b idx = false then refuse 3
      else if d.ceRunsNow = false then refuse 5
      else d.pendVar b idx (if shed then 2 else 1)

/-- Trigger processing, windows and software requests at W (R156, R158). -/
def Dev.dgrAtW (d : Dev) : Dev :=
  let before := fun b => (d.dblk b).pend
  let trigs := (List.range 192).filter (fun n => (d.detRt n).trig)
  let d := d.forAll trigs Dev.trigger
  let d := d.forAll (List.range 8) Dev.windowTick
  d.forAll (List.range 8) (fun d b => d.takeRequest b (decide ((d.dblk b).pend ≠ before b)))

/-- Software requests at W of a tick in which the CE does not run: refused with MODE where no other cause holds (R156). -/
def Dev.requestsIdle (d : Dev) : Dev :=
  d.forAll (List.range 8) (fun d b =>
    match (d.dblk b).req with
    | none => d
    | some (key, _) =>
      let idx := d.varOfKey b key
      let code := match idx with
        | none => 1
        | some i => if (d.dblk b).win.isSome || (d.dblk b).queued.isSome then 2 else if d.varAllowed b i = false then 3 else 5
      ((d.setDblk b { d.dblk b with req := none }).wr (R.DGR_VARREQ.RESULT b) 3).wr (R.DGR_VARREQ.CODE b) code)

/-- DGR_CAP of the outputs (R164). -/
def Dev.capShow (d : Dev) : Dev :=
  d.forAll [0, 1, 2, 3] (fun d n =>
    let caps := (d.act.detBlks.filter (fun b => testBit b.outmask n)).map (fun b => (d.attr b.blk (d.dblk b.blk).active).cap.getD n 0xFFFF)
    d.wr (R.DGR_CAP.CAP n) (caps.foldl min 0xFFFF))

/-- A pending change takes effect at S (R156, R157, R164). -/
def Dev.varAtS (d : Dev) : Dev :=
  let d := d.forAll (List.range 8) (fun d b =>
    match (d.dblk b).pend with
    | none => d.setDblk b { d.dblk b with winWait := false }
    | some (idx, kind) =>
      let a := d.attr b idx
      let d := d.setDblk b { d.dblk b with active := idx, pend := none, winWait := false, dwell := if kind = 2 then 0 else (d.dblk b).dwell }
      let d := if kind ≠ 0 ∧ a.degraded = false then d.wr (R.DGR_BLKSTAT.DEGRADED b) 0 else d
      let d := if kind ≠ 0 then d.wr (R.DGR_VARREQ.RESULT b) 2 else d
      let d := if a.bumpless && !d.ce.man.getD b false then { d with ce := { d.ce with xfer := setAt d.ce.xfer b true } } else d
      let d := (d.dgrShow b).wr (R.DGR_SHEDSTAT.COUNT b) (d.modsSwitching b)
      (d.raise 22 kind [b, d.keyOf b idx]).capShow)
  d.forAll d.act.dets (fun d r =>
    let d := if d.detMasked r.det then d.setDet r.det { d.detRt r.det with cnt := 0 } else d
    d.detShow r.det)

/-- A window aborted (R162): on entry to TRIPPED or SERVICE, or when F2 switches off. -/
def Dev.windowsAbort (d : Dev) : Dev :=
  d.forAll (List.range 8) (fun d b =>
    match (d.dblk b).win with
    | some det =>
      let d := (d.wr (R.DGR_BLKSTAT.DEGRADED b) 1).lastCls b det 4
      let x := d.dblk b
      let d := ((d.setDblk b { x with win := none, winWait := false, queued := none }).dgrShow b).raise 21 3 [det, x.agree, x.opened]
      match x.queued with
      | some q => d.raise 21 3 [q, 0, 0]
      | none => d
    | none => d)

/-- DGR_VARREQ written (R156). -/
def Dev.varReq (d : Dev) (b v : Nat) : Dev :=
  let d := d.wr (R.DGR_VARREQ.KEY b) (bits v 31 16)
  if testBit v 0 then
    ((d.setDblk b { d.dblk b with req := some (bits v 31 16, false) }).wr (R.DGR_VARREQ.RESULT b) 1).wr (R.DGR_VARREQ.CODE b) 0
  else d

/-- DGR_LOST written (R165). -/
def Dev.lostWrite (d : Dev) (b v : Nat) : Dev :=
  let hit := Nat.land v (d.lost b)
  if hit = 0 then d
  else if d.mode.readyOrLower || d.ce.man.getD b false then
    let d := d.wr (R.DGR_LOST.LOST b) (d.lost b - hit)
    d.wr (R.DGR_SHEDSTAT.COUNT b) (d.modsSwitching b)
  else d.bump R.DGR_CNT.LOSTREF

/-! ## Leg imbalance (R166) -/

/-- The imbalance of one module record in ‰. -/
def Dev.imbalance (d : Dev) (m : ModRec) : Option Nat :=
  let xs := ((List.range 4).filter (fun l => testBit m.legs l && decide (m.il.getD l 0xFF ≠ 0xFF))).map (fun l => d.ce.snap.getD (m.il.getD l 0) 0)
  match xs with
  | x :: y :: rest =>
    let ys := x :: y :: rest
    let mx := ys.foldl max x
    let mn := ys.foldl min x
    let ma := divz (sumInt (ys.map (fun z => (z.natAbs : Int)))) ys.length
    if (d.rd R.DGR_IMBCFG.IMIN : Int) ≤ ma ∧ 0 < ma then some (min 65535 (divz ((mx - mn) * 1000) ma).toNat) else some 0
  | _ => none

/-- The millisecond evaluation; `ms` is the STC millisecond, whose whole seconds close the average. -/
def Dev.imbalanceMs (d : Dev) (ms : Nat) : Dev :=
  d.forAll d.act.mods (fun d m =>
    match d.imbalance m with
    | none => d
    | some v =>
      let g := m.group
      let r := d.dgr.imb.getD g {}
      let d := d.wr (R.DGR_IMBPEAK.PEAK g) (max (d.rd (R.DGR_IMBPEAK.PEAK g)) v)
      let d := d.wr (R.DGR_IMBAVG.VALID g) 1
      if ms % 1000 = 0 ∧ 0 < r.n then
        let avg := r.sum / r.n
        let warn := decide (d.rd R.DGR_IMBCFG.WARN ≤ avg)
        let d := d.wr (R.DGR_IMBAVG.AVG g) avg
        let d := if warn && !r.high then d.raise 22 3 [g] else d
        { d with dgr := { d.dgr with imb := setAt d.dgr.imb g { sum := v, n := 1, high := warn } } }
      else { d with dgr := { d.dgr with imb := setAt d.dgr.imb g { r with sum := r.sum + v, n := r.n + 1 } } })

/-! ## Meanings -/

/-- DGR_VARREQ (R156). -/
def execDgrVarreq (block : Fin 8) (value : Nat) (s : State) : Host.Outcome State Fault Refusal :=
  done s (fun d => if d.domOn .f2 then d.varReq block value else d)

/-- DGR_LOST_WRITE (R165). -/
def execDgrLostWrite (block : Fin 8) (value : Nat) (s : State) : Host.Outcome State Fault Refusal :=
  done s (fun d => if d.domOn .f2 then d.lostWrite block value else d)

end Sys2Proof.Machine
end

