-- ==== Sys2Proof/Machine/Sensors.lean ====
section
/-! DEFINITION. Measurements (sections 10.1 to 10.4, 10.6): destination values, the control decimation, the fallback converters,
temperature inputs and the insulation monitors. -/

namespace Sys2Proof.Machine

/-! ## Destination values -/

/-- y of R193, with whether it saturated. -/
def measValue (m : MeasRec) (raw : Int) : Int × Bool :=
  let p := m.gain * raw
  let t := sat (if 0 ≤ m.shift then p * 2 ^ m.shift.toNat else rshRound p (-m.shift).toNat) 80
  let v := rshRound t 30 + m.offset
  (sat v 32, decide (v ≠ sat v 32))

/-- One running-sum stage of length `n` over a weight list. -/
def boxStage (n : Nat) (w : List Nat) : List Nat :=
  (List.range (w.length + n - 1)).map (fun k => ((List.range n).map (fun j => if j ≤ k then numAt w (k - j) else 0)).foldl (· + ·) 0)

/-- The weights of R195: for k, the number of (i, j, l) with i + j + l = k. -/
def sinc3Weights (osr : Nat) : List Nat := boxStage osr (boxStage osr (List.replicate osr 1))

/-- The control decimation of R195 over the window's bits, oldest first. -/
def sinc3 (osr : Nat) (window : List Bool) : Int :=
  let w := sinc3Weights osr
  let s : Nat := ((window.zipIdx).map (fun b => if b.1 then numAt w b.2 else 0)).foldl (· + ·) 0
  (s : Int) - divz (osr ^ 3 : Nat) 2

/-! ## Impulse guard and insulation sense -/

/-- R203 for one sample: the output sample, the guard after it, and whether the sample was replaced. -/
def guardStep (g : GuardRt) (thr : Nat) (x : Int) : Int × GuardRt × Bool :=
  let p := 2 * g.x1 - g.x2
  if thr < (x - p).natAbs ∧ g.run < 4 then (p, { x1 := p, x2 := g.x1, run := g.run + 1 }, true)
  else (x, { x1 := x, x2 := g.x1, run := 0 }, false)

/-- A guarded sample of a scanned input. -/
def Dev.guarded (d : Dev) (item thr : Nat) (x : Int) : Int × Dev :=
  let (x', g, hit) := guardStep (d.fba.guards.getD item {}) thr x
  let d := { d with fba := { d.fba with guards := setAt d.fba.guards item g } }
  (x', if hit && decide (item < 32) then d.bump (R.FBA_GCNT.COUNT item) else d)

def Dev.imdRt (d : Dev) (n : Nat) : ImdRt := d.imd.getD n {}

def Dev.setImd (d : Dev) (n : Nat) (x : ImdRt) : Dev := { d with imd := setAt d.imd n x }

/-! ## Temperature inputs (R204) -/

/-- A good reading of a temperature input. -/
def Dev.tempGood (d : Dev) (i : Nat) (x : Int) : Dev :=
  let r := if d.on (R.FBA_TEMPCFG.GUARD i) then d.guarded (32 + i) (d.rd (R.FBA_TEMPCFG.GTHR i)) x else (x, d)
  (((r.2.wrS (R.FBA_TEMP.VALUE i) r.1).wr (R.FBA_TEMP.OPEN i) 0).wr (R.FBA_TEMP.SHORT i) 0).wr (R.FBA_TEMP.FAULT i) 0

/-- OPEN or SHORT: VALUE is held, FAULT is set with FBA event 27. -/
def Dev.tempFault (d : Dev) (i : Nat) (isOpen : Bool) : Dev :=
  let was := d.on (R.FBA_TEMP.FAULT i) && decide (d.rd (R.FBA_TEMP.OPEN i) = b2n isOpen)
  let d := ((d.wrB (R.FBA_TEMP.OPEN i) isOpen).wrB (R.FBA_TEMP.SHORT i) (!isOpen)).wr (R.FBA_TEMP.FAULT i) 1
  if was then d else d.raise 27 (b2n (!isOpen)) [i]

/-- One conversion of a temperature input, as a resistance in mΩ. Injection point 12 makes it OPEN. -/
def Dev.tempSample (d : Dev) (i r : Nat) : Dev :=
  let inj := d.isInjected 12 i
  match d.rd (R.FBA_TEMPCFG.TYPE i) with
  | 0 => d
  | 1 => if inj || decide (400000 < r) then d.tempFault i true else if r < 5000 then d.tempFault i false
         else d.tempGood i (Config.iec60751 100000 r)
  | 2 => if inj || decide (4000000 < r) then d.tempFault i true else if r < 50000 then d.tempFault i false
         else d.tempGood i (Config.iec60751 1000000 r)
  | _ => if inj || decide (5000000 < r) then d.tempFault i true else d.tempGood i (r / 100 : Nat)

/-! ## Converters (R199 to R202) -/

/-- Period in ns of a scanned input, 0 when it is not scanned (R201). -/
def Dev.scanPeriod (d : Dev) (item : Nat) : Nat :=
  if item < 32 then (match d.rd (R.FBA_CHCFG.RATE item) with | 1 => 1000000 | 2 => 62500 | _ => 0)
  else if item < 64 then (if d.rd (R.FBA_TEMPCFG.TYPE (item - 32)) = 0 then 0 else 1000000)
  else 1000000

/-- The scan list of a converter: its channels in ascending order, then its temperature inputs, then its sense inputs. -/
def scanList (conv : Nat) : List Nat :=
  ((List.range 16).map (· + 16 * conv)) ++ ((List.range 16).map (· + 32 + 16 * conv)) ++ [64 + 2 * conv, 65 + 2 * conv]

/-- Number of the last due instant of the item at position `pos` at or before `ns`, counted from 1 (R201). -/
def dueCount (period pos ns : Nat) : Nat := if period = 0 ∨ ns < 500 * pos then 0 else (ns - 500 * pos) / period + 1

/-- The scanned inputs that are due, oldest due instant first; positions of the list break ties. -/
def Dev.scanDue (d : Dev) (conv ns : Nat) : Option Nat :=
  let due := ((scanList conv).zipIdx).filterMap (fun q =>
    let p := d.scanPeriod q.1
    let k := dueCount p q.2 ns
    if numAt d.fba.dueDone q.1 < k then some ((k - 1) * p + 500 * q.2, q.1, k) else none)
  match due with
  | [] => none
  | x :: xs => some (xs.foldl (fun a b => if b.1 < a.1 then b else a) x).2.1

/-- One background sample of a channel (R202, R203). -/
def Dev.backSample (d : Dev) (ch : Nat) (x : Int) : Dev :=
  let r := if d.on (R.FBA_CHCFG.GUARD ch) then d.guarded ch (d.rd (R.FBA_CHCFG.GTHR ch)) x else (x, d)
  let x := r.1
  let d := r.2
  if d.on (R.FBA_CHCFG.INTEG ch) then
    let y0 := d.fba.y.getD ch 0
    let y := wrap (y0 + x - rshRound y0 (clampNat (d.rd (R.FBA_CHCFG.LEAK ch)) 8 24)) 64
    let ish := d.rd (R.FBA_CHCFG.ISH ch)
    let out := sat (if ish = 0 then y else rshRound y ish) 32
    { d with fba := { d.fba with y := setAt d.fba.y ch y, back := setAt d.fba.back ch out } }.wrS (R.FBA_RAW.VALUE ch) out
  else { d with fba := { d.fba with back := setAt d.fba.back ch x } }.wrS (R.FBA_RAW.VALUE ch) x

/-- A 16 kS/s sample kept for metrology, with the instant it was converted at (R201, R262). -/
def Dev.histPush (d : Dev) (ch ns : Nat) (raw : Int) : Dev :=
  if d.rd (R.FBA_CHCFG.RATE ch) = 2 then
    let full := decide (raw = 32767) || decide (raw = -32768)
    { d with fba := { d.fba with hist := setAt d.fba.hist ch (({ stamp := ns, value := d.fba.back.getD ch 0, full := full } :: d.fba.hist.getD ch []).take 40) } }
  else d

/-- One conversion of a scanned input at STC `ns`. -/
def Dev.scanSample (d : Dev) (item ns : Nat) (raw : Int) : Dev :=
  if item < 32 then (d.backSample item (wrap raw 16)).histPush item ns (wrap raw 16)
  else if item < 64 then d.tempSample (item - 32) raw.toNat
  else
    let n := item - 64
    let (x, d) := d.guarded item (8 * d.rd (R.IMD_CFG.STOL n)) (wrap raw 16)
    d.setImd n { d.imdRt n with samples := (x :: (d.imdRt n).samples).take 16 }

/-- TSEQ and LEN of a converter (R200). -/
def Dev.trigSeq (d : Dev) (conv : Nat) : List Nat :=
  ([d.rd (R.FBA_TSEQ.CH0 conv), d.rd (R.FBA_TSEQ.CH1 conv), d.rd (R.FBA_TSEQ.CH2 conv), d.rd (R.FBA_TSEQ.CH3 conv), d.rd (R.FBA_TSEQ.CH4 conv),
    d.rd (R.FBA_TSEQ.CH5 conv), d.rd (R.FBA_TSEQ.CH6 conv), d.rd (R.FBA_TSEQ.CH7 conv)].take (d.rd (R.FBA_TCFG.LEN conv))).map (· + 16 * conv)

/-- A start of the triggered sequence (R200): at once on an idle converter, else queued, else dropped. -/
def Dev.trigStart (d : Dev) (conv : Nat) : Dev :=
  if d.trigSeq conv = [] then d
  else
    let busy := !(d.fba.trigTodo.getD conv []).isEmpty || !(d.fba.ctlTodo.getD conv []).isEmpty
    if busy = false then { d with fba := { d.fba with trigTodo := setAt d.fba.trigTodo conv (d.trigSeq conv) } }
    else if numAt d.fba.starts conv < 2 then { d with fba := { d.fba with starts := addAt d.fba.starts conv 1 } }
    else (d.bump (if conv = 0 then R.FBA_CNT.DROPA else R.FBA_CNT.DROPB)).raise 26 0 [conv]

/-- A queued start taken when nothing else of the converter's triggered work is left. -/
def Dev.trigNext (d : Dev) (conv : Nat) : Dev :=
  if (d.fba.trigTodo.getD conv []).isEmpty && decide (0 < numAt d.fba.starts conv) then
    { d with fba := { d.fba with starts := setAt d.fba.starts conv (numAt d.fba.starts conv - 1), trigTodo := setAt d.fba.trigTodo conv (d.trigSeq conv) } }
  else d

/-- What a slot of a converter converts: control before triggered before background (section 10.3). -/
def Dev.convSlot (d : Dev) (conv ns : Nat) (raw : Int) : Dev :=
  match d.fba.ctlTodo.getD conv [] with
  | ch :: rest => { d with fba := { d.fba with ctlTodo := setAt d.fba.ctlTodo conv rest, ctl := setAt d.fba.ctl ch (wrap raw 16) } }
  | [] =>
    match d.fba.trigTodo.getD conv [] with
    | ch :: rest => { d with fba := { d.fba with trigTodo := setAt d.fba.trigTodo conv rest, trig := setAt d.fba.trig ch (wrap raw 16) } }
    | [] =>
      match d.scanDue conv ns with
      | some item =>
        let k := dueCount (d.scanPeriod item) ((scanList conv).idxOf item) ns
        ({ d with fba := { d.fba with dueDone := setAt d.fba.dueDone item k } }).scanSample item ns raw
      | none => d

/-- FBA_CONVERSION_SLOT: the converter's next 0.5 µs slot, aligned to the STC. -/
def Dev.fbaSlot (d : Dev) (conv : Nat) (raw : Int) : Dev :=
  let k := max (numAt d.fba.slot conv) ((d.tm.q + 199) / 200)
  let d := { d with fba := { d.fba with slot := setAt d.fba.slot conv (k + 1) } }
  ((d.advanceTo (200 * k)).trigNext conv).convSlot conv (500 * k) raw

/-- Control conversions of the tick, set at S: PATH 0 SRC 1 records on channels without integrator, in ascending SLOT order
(R199). -/
def Dev.fbaAtS (d : Dev) : Dev :=
  let recs := (List.range 192).filterMap (fun s => d.act.meas.find? (fun m => m.path == 0 && m.src == 1 && m.slot == s))
  let chans := (recs.map (·.index)).filter (fun ch => !d.on (R.FBA_CHCFG.INTEG ch))
  { d with fba := { d.fba with ctlTodo := [chans.filter (fun ch => decide (ch < 16)), chans.filter (fun ch => decide (16 ≤ ch))] } }

/-! ## The latch -/

/-- The raw value of a PATH 0 record (Table 10-2); `window` gives the modulator bits of an input. -/
def Dev.measRaw (d : Dev) (m : MeasRec) (window : Nat → List Bool) (pos vel : Int) (angle : Nat) : Int :=
  match m.src with
  | 0 => sinc3 d.act.timing.osr (window m.index)
  | 1 => if d.on (R.FBA_CHCFG.INTEG m.index) then d.fba.back.getD m.index 0 else d.fba.ctl.getD m.index 0
  | 2 => d.fba.trig.getD m.index 0
  | 3 => wrap pos 32
  | 4 => wrap vel 32
  | 5 => wrap angle 32
  | _ => d.rdS (R.FBA_TEMP.VALUE m.index)

/-- Every measurement signal latched at S + t_meas (R193). -/
def Dev.measLatch (d : Dev) (window : Nat → List Bool) : Dev :=
  d.forAll (d.act.meas.filter (fun m => m.path == 0)) (fun d m =>
    let y := measValue m (d.measRaw m window ((d.axis m.index).atS.headD 0) (d.axisVel m.index) (d.axisAngle m.index))
    (d.putSig m.slot y.1).when y.2 (·.satCount m.slot))

/-! ## Insulation monitors (R211, R212) -/

/-- EN written 1. -/
def Dev.imdEnable (d : Dev) (n : Nat) : Dev :=
  let d := d.wr (R.IMD_CTL.EN n) 1
  if d.rd (R.IMD_CTL.STATUS n) = 0 then
    let p := 2 * clampNat (d.rd (R.IMD_CFG.HP n)) 100 10000 * 1000000
    let d := d.setImd n { first := (d.stcNs + p - 1) / p * p }
    (d.wr (R.IMD_CTL.STATUS n) 1).wr (R.IMD_CTL.STATE n) 1
  else d

/-- A disable that completes (Table 10-5, last row). -/
def Dev.imdOff (d : Dev) (n : Nat) : Dev :=
  let d := (d.setImd n {}).wr (R.IMD_CTL.STATE n) 0
  if d.on (R.IMD_CTL.EN n) then d.imdEnable n else d.wr (R.IMD_CTL.STATUS n) 0

/-- Level of IMD_INJn. -/
def Dev.imdInj (d : Dev) (n : Nat) : Bool :=
  decide (d.rd (R.IMD_CTL.STATUS n) ≠ 0) && decide ((d.imdRt n).first ≤ d.stcNs) && decide ((d.imdRt n).half % 2 = 0)

/-- The value of the half period that ends, none when it is not settled (R211). -/
def Dev.imdSettled (d : Dev) (n : Nat) : Option Int :=
  let xs := (d.imdRt n).samples
  match xs with
  | [] => none
  | x :: rest =>
    if xs.length = 16 ∧ (rest.foldl max x - rest.foldl min x) ≤ (d.rd (R.IMD_CFG.STOL n) : Int) then some (divz (sumInt xs) 16) else none

/-- riso of R211. -/
def imdRiso (xp xn : Int) (vinj rnet : Nat) : Nat :=
  let vd := divz (xp - xn) 2
  if vd ≤ 0 then 0
  else if (vinj : Int) ≤ vd then 0xFFFFFFFF
  else min (rnet * 1000 * vd.toNat / (vinj - vd.toNat)) 0xFFFFFFFE

/-- The rows of Table 10-5 for one measurement with its ratio. -/
def Dev.imdMeasure (d : Dev) (n riso : Nat) : Dev :=
  let ratio := match d.injected 11 n with
    | some i => i.par
    | none => if riso = 0xFFFFFFFF then 0xFFFFFFFF else riso / max 1 (d.rd (R.IMD_UREF.UREF n))
  let d := (d.injUse 11 n).wrAll [(R.IMD_RISO.VALUE n, riso), (R.IMD_RATIO.VALUE n, ratio)]
  let d := d.forAll (whichIdx (fun _ => true) d.out) (fun d o =>
    if d.rd (R.OUT_CFG.IMDCH o) = n then d.setOut o { d.outRt o with imdFresh := true } else d)
  let fault := d.rd (R.IMD_THR.FAULT n)
  let warn := d.rd (R.IMD_THR.WARN n)
  let conf := max 1 (d.rd (R.IMD_CFG.FCONF n))
  let x := d.imdRt n
  let low := if ratio < fault then x.low + 1 else 0
  let high := if fault * 5 ≤ ratio * 4 then x.high + 1 else 0
  let d := d.setImd n { x with low := low, high := high }
  let st := d.rd (R.IMD_CTL.STATE n)
  let st := if st = 1 ∨ st = 5 then 2 else st
  let d := d.wr (R.IMD_CTL.STATE n) st
  if st = 4 then (if conf ≤ high then (d.wr (R.IMD_CTL.STATE n) 3).raise 52 2 [n, ratio] else d)
  else if conf ≤ low then
    ((d.setImd n { d.imdRt n with high := 0 }).wr (R.IMD_CTL.STATE n) 4).raise 52 1 [n, ratio]
  else if st = 2 ∧ ratio < warn then (d.wr (R.IMD_CTL.STATE n) 3).raise 52 0 [n, ratio]
  else if st = 3 ∧ warn * 5 ≤ ratio * 4 then (d.wr (R.IMD_CTL.STATE n) 2).raise 52 2 [n, ratio]
  else d

/-- An unsettled half period: the fourth in a row leaves SETTLING, OK and WARN. -/
def Dev.imdUnsettled (d : Dev) (n : Nat) : Dev :=
  let x := d.imdRt n
  let d := d.setImd n { x with unsettled := x.unsettled + 1 }
  let st := d.rd (R.IMD_CTL.STATE n)
  if 4 ≤ x.unsettled + 1 ∧ 1 ≤ st ∧ st ≤ 3 then (d.wr (R.IMD_CTL.STATE n) 5).raise 53 0 [n] else d

/-- The end of a half period (R211); the first full period is discarded. -/
def Dev.imdHalf (d : Dev) (n : Nat) : Dev :=
  let x := d.imdRt n
  let d := d.advanceTo (stepsOfNs (x.first + (x.half + 1) * clampNat (d.rd (R.IMD_CFG.HP n)) 100 10000 * 1000000))
  let v := d.imdSettled n
  let d :=
    if x.half < 2 then d
    else match v with
      | none => d.imdUnsettled n
      | some xn =>
        let d := d.setImd n { d.imdRt n with unsettled := 0 }
        if x.half % 2 = 0 then d
        else match x.xp with
          | some xp => d.imdMeasure n (imdRiso xp xn (d.rd (R.IMD_NET.VINJ n)) (d.rd (R.IMD_NET.RNET n)))
          | none => d
  if d.rd (R.IMD_CTL.STATUS n) = 2 then d.imdOff n
  else d.setImd n { d.imdRt n with half := x.half + 1, samples := [], xp := if x.half % 2 = 0 then v else none }

/-! ## Meanings -/

/-- FBA_CONVERSION_SLOT (R199 to R204): `raw` is the two's complement result, for a temperature input its resistance in mΩ. -/
def execFbaConversionSlot (conv : Fin 2) (raw : Int) (s : State) : Host.Outcome State Fault Refusal :=
  done s (fun d => if d.domOn .f4 then d.fbaSlot conv raw else d)

/-- IMD_ENABLE (R212). -/
def execImdEnable (ch : Fin 4) (s : State) : Host.Outcome State Fault Refusal :=
  done s (fun d => if d.domOn .f4 then d.imdEnable ch else d)

/-- IMD_HALF_PERIOD_END (R211). -/
def execImdHalfPeriodEnd (ch : Fin 4) (s : State) : Host.Outcome State Fault Refusal :=
  done s (fun d => if d.domOn .f4 && decide (d.rd (R.IMD_CTL.STATUS ch) ≠ 0) then d.imdHalf ch else d)

end Sys2Proof.Machine
end

