-- ==== Sys2Proof/Machine/Contactors.lean ====
section
/-! DEFINITION. The contactor sequencer (section 10.5): engines, steps, interlocks, weld and mismatch supervision. -/

namespace Sys2Proof.Machine

/-! ## Coils and feedback -/

/-- A bit of a pair of 32-bit coil registers. -/
def Dev.coilBit (d : Dev) (f : Nat → Fld) (c : Nat) : Bool := testBit (d.rd (f (c / 32))) (c % 32)

def Dev.setCoilBit (d : Dev) (f : Nat → Fld) (c : Nat) (v : Bool) : Dev :=
  let w := d.rd (f (c / 32))
  d.wr (f (c / 32)) (if v then setBit w (c % 32) else clearBit w (c % 32))

/-- The coil is energised. -/
def Dev.coilOn (d : Dev) (c : Nat) : Bool := d.coilBit R.CTR_COIL.BIT c

/-- The coil's feedback is debounced closed. -/
def Dev.coilClosed (d : Dev) (c : Nat) : Bool := d.coilBit R.CTR_FB.BIT c

/-- The record of a coil in a definition. -/
def CtrDef.coil (t : CtrDef) (c : Nat) : CoilRec := (t.coils.find? (fun x => x.coil == c)).getD { coil := c }

def CtrDef.seqOf (t : CtrDef) (n : Nat) : Option SeqRec := t.seqs.find? (fun x => x.seq == n)

/-- Step `i` of a sequence; END beyond its steps. -/
def CtrDef.stepOf (t : CtrDef) (n i : Nat) : StepRec :=
  match t.seqOf n with
  | some q => if i < q.nsteps then t.steps.getD (q.first + i) {} else {}
  | none => {}

/-- Coils named by CLOSE or OPEN in a sequence. -/
def CtrDef.coilsOf (t : CtrDef) (n : Nat) : List Nat :=
  match t.seqOf n with
  | some q => (((t.steps.drop q.first).take q.nsteps).filter (fun s => s.op == 1 || s.op == 2)).map (·.arg)
  | none => []

/-- The sequence holds a CLOSE step. -/
def CtrDef.hasClose (t : CtrDef) (n : Nat) : Bool :=
  match t.seqOf n with
  | some q => ((t.steps.drop q.first).take q.nsteps).any (fun s => s.op == 1)
  | none => false

/-- FAILSEQ of a sequence, none for 0xFF. -/
def CtrDef.failOf (t : CtrDef) (n : Nat) : Option Nat :=
  match t.seqOf n with
  | some q => if q.failSeq = 0xFF then none else some q.failSeq
  | none => none

/-- Coils of a sequence and its FAILSEQ (R206). -/
def CtrDef.conflictSet (t : CtrDef) (n : Nat) : List Nat :=
  t.coilsOf n ++ (match t.failOf n with | some f => t.coilsOf f | none => [])

/-- Raw feedback levels sampled and debounced (section 10.5); injection point 10 inverts an input. -/
def Dev.fbSample (d : Dev) (fb : Nat) : Dev :=
  d.forAll d.act.ctr.coils (fun d r =>
    if r.fb = 0xFF then d
    else
      let level := testBit fb r.fb != d.isInjected 10 r.fb
      let closed := level == r.fpol
      let n := if closed = d.coilClosed r.coil then 0 else numAt d.ctr.differ r.coil + 1
      if max 1 (100 * r.fbdeb) ≤ n then
        { d with ctr := { d.ctr with differ := setAt d.ctr.differ r.coil 0 } }.setCoilBit R.CTR_FB.BIT r.coil closed
      else { d with ctr := { d.ctr with differ := setAt d.ctr.differ r.coil n } })

/-- A weld suspected (R208): CTR_WELD and event 55 KIND 0. -/
def Dev.coilWeld (d : Dev) (c : Nat) : Dev := (d.setCoilBit R.CTR_WELD.BIT c true).raise 55 0 [c]

/-- Feedback as the last sampled levels show it, without debouncing (Table 2-5, point H). -/
def Dev.fbBoot (d : Dev) : Dev :=
  match d.ctr.raw with
  | none => d
  | some fb => d.forAll d.act.ctr.coils (fun d r =>
      if r.fb = 0xFF then d else d.setCoilBit R.CTR_FB.BIT r.coil ((testBit fb r.fb != d.isInjected 10 r.fb) == r.fpol))

/-- Point H of Table 2-5: coils that read closed while de-energised (R208). -/
def Dev.weldScan (d : Dev) : Dev :=
  d.fbBoot.forAll d.act.ctr.coils (fun d r => if r.fb ≠ 0xFF ∧ d.coilClosed r.coil = true ∧ d.coilOn r.coil = false then d.coilWeld r.coil else d)

/-! ## Electrical checks on the W snapshot -/

def Dev.snapAt (d : Dev) (n : Nat) : Int := d.ce.snap.getD n 0

/-- VA and VB are both set. -/
def CoilRec.hasV (r : CoilRec) : Bool := decide (r.va ≠ 0xFFFF) && decide (r.vb ≠ 0xFFFF)

/-- |VA − VB|. -/
def Dev.coilDiff (d : Dev) (r : CoilRec) : Nat := (d.snapAt r.va - d.snapAt r.vb).natAbs

/-- A weld check by voltage applies: both signals are set and a source is present. -/
def Dev.coilSource (d : Dev) (r : CoilRec) : Bool :=
  r.hasV && (decide (r.vpres ≤ (d.snapAt r.va).natAbs) || decide (r.vpres ≤ (d.snapAt r.vb).natAbs))

/-! ## Engines -/

def Dev.engRt (d : Dev) (e : Nat) : EngRt := d.ctr.eng.getD e {}

def Dev.setEng (d : Dev) (e : Nat) (x : EngRt) : Dev :=
  ({ d with ctr := { d.ctr with eng := setAt d.ctr.eng e x } }.wr (R.CTR_ENG.SEQ e) x.seq).wr (R.CTR_ENG.STEP e) x.step

/-- The engine is RUNNING or RECOVERING. -/
def Dev.engBusy (d : Dev) (e : Nat) : Bool := d.rd (R.CTR_ENG.STATE e) == 1 || d.rd (R.CTR_ENG.STATE e) == 2

def Dev.engStep (d : Dev) (e : Nat) : StepRec := (d.engRt e).defs.stepOf (d.engRt e).seq (d.engRt e).step

def Dev.ctrDraining (d : Dev) : Bool := decide (d.rd R.CTR_CTL.STATUS = 2)

/-- The output that requested the engine's sequence learns its outcome (R299): LOCKED follows a LOCK or UNLOCK that is done, and
insulation measurements count from the end of SEQ INS. -/
def Dev.outSeqEnd (d : Dev) (e : Nat) (fail : Option Nat) : Dev :=
  d.forAll [0, 1, 2, 3] (fun d n =>
    let o := d.outRt n
    if o.engine = some e then
      let d := d.setOut n { o with engine := none, seqDone := fail.isNone, seqFail := fail, imdFresh := o.imdFresh && decide (o.cur ≠ 3) }
      if fail.isNone then
        if o.cur = 1 then d.wr (R.OUT_STAT.LOCKED n) 1 else if o.cur = 2 then d.wr (R.OUT_STAT.LOCKED n) 0 else d
      else d
    else d)

/-- The output or the routing step that waits for the engine's sequence learns how it ended. -/
def Dev.engNotify (d : Dev) (e : Nat) (fail : Option Nat) : Dev :=
  let d := if d.rt.engine = some e then { d with rt := { d.rt with engine := none, seqDone := fail.isNone, seqFail := fail.isSome } } else d
  d.outSeqEnd e fail

/-- A start's end FAILED or ABORTED (R210). -/
def Dev.engEnd (d : Dev) (e state : Nat) : Dev :=
  ((d.wr (R.CTR_ENG.STATE e) state).bump R.CTR_CNT.FAILED).engNotify e (some (d.rd (R.CTR_ENG.CODE e)))

/-- The sequence ran to END (R210). -/
def Dev.engDone (d : Dev) (e : Nat) : Dev :=
  if d.rd (R.CTR_ENG.STATE e) = 1 then
    (((d.wr (R.CTR_ENG.STATE e) 0).bump R.CTR_CNT.DONE).raise 54 0 [e, (d.engRt e).seq, 0]).engNotify e none
  else d.engEnd e 3

/-- The interlock check of R207 for a step. -/
def Dev.ilkOk (d : Dev) (t : CtrDef) (st : StepRec) : Bool :=
  t.ilks.all (fun k =>
    if st.op = 1 then
      if k.require then
        decide (k.a ≠ st.arg) || (if (t.coil k.b).fb = 0xFF then d.coilOn k.b else d.coilClosed k.b)
      else
        let other := if k.a = st.arg then some k.b else if k.b = st.arg then some k.a else none
        match other with
        | some c => !(d.coilOn c || d.coilClosed c)
        | none => true
    else !(k.require && decide (k.b = st.arg) && d.coilOn k.a))

/-- What a step does when it begins, and its failure code (0 none); END is taken by the caller. -/
def Dev.stepBegin (d : Dev) (e : Nat) : Dev × Nat :=
  let st := d.engStep e
  let d := d.setEng e { d.engRt e with fresh := false, met := false }
  if st.op = 1 ∨ st.op = 2 then
    if d.ilkOk (d.engRt e).defs st then (d.setCoilBit R.CTR_COIL.BIT st.arg (decide (st.op = 1)), 0) else (d, 4)
  else (d, 0)

/-- The last failure of a start: its FAILSEQ failed, or it has none. -/
def Dev.engFailLast (d : Dev) (e : Nat) : Dev := d.engEnd e 3

/-- A failed step (R210): CODE, event 54 KIND 1 and the FAILSEQ, whose first step begins at the same boundary. -/
def Dev.engFail (d : Dev) (e code : Nat) : Dev :=
  let x := d.engRt e
  let d := d.raise 54 1 [e, x.seq, code]
  if d.rd (R.CTR_ENG.STATE e) = 2 then d.engFailLast e
  else
    let d := (d.wr (R.CTR_ENG.CODE e) code).outSeqEnd e (some code)
    match x.defs.failOf x.seq with
    | some f =>
      if d.ctrDraining then d.engFailLast e
      else
        let d := (d.setEng e { x with seq := f, step := 0, fresh := false, met := false }).wr (R.CTR_ENG.STATE e) 2
        if (d.engStep e).op = 0 then d.engDone e
        else
          let (d, c) := d.stepBegin e
          if c = 0 then d else (d.raise 54 1 [e, f, c]).engFailLast e
    | none => d.engFailLast e

/-- The engine's present step begins, or END ends the sequence. -/
def Dev.engBegin (d : Dev) (e : Nat) : Dev :=
  if (d.engStep e).op = 0 then (d.setEng e { d.engRt e with fresh := false }).engDone e
  else
    let (d, c) := d.stepBegin e
    if c = 0 then d else d.engFail e c

/-- A completed step: the next one begins at the same boundary; a draining block ends the engine instead (R210). -/
def Dev.engNext (d : Dev) (e : Nat) : Dev :=
  if d.ctrDraining then
    if d.rd (R.CTR_ENG.STATE e) = 2 then d.engEnd e 3
    else ((d.wr (R.CTR_ENG.CODE e) 10).raise 54 1 [e, (d.engRt e).seq, 10]).engEnd e 4
  else (d.setEng e { d.engRt e with step := (d.engRt e).step + 1 }).engBegin e

/-- Whether the present step completes at a boundary (Table 10-4, R208), and CTR_ENG.NV. -/
def Dev.stepComplete (d : Dev) (e : Nat) : Bool × Bool :=
  let st := d.engStep e
  let r := (d.engRt e).defs.coil st.arg
  match st.op with
  | 1 => (decide (r.fb ≠ 0xFF) && d.coilClosed st.arg, false)
  | 2 =>
    if r.fb = 0xFF then ((d.engRt e).met, false)
    else if d.coilClosed st.arg then (false, false)
    else if d.coilSource r then ((d.engRt e).met, false)
    else (true, true)
  | 4 | 5 | 6 => ((d.engRt e).met, false)
  | _ => (false, false)

/-- An engine at a sequencer boundary: at most one step. -/
def Dev.engAdvance (d : Dev) (e : Nat) : Dev :=
  if d.engBusy e then
    if (d.engRt e).fresh then d.engBegin e
    else
      let (done', nv) := d.stepComplete e
      if done' then
        let d := if (d.engStep e).op = 2 then d.wrB (R.CTR_ENG.NV e) nv else d
        d.engNext e
      else d
  else d

/-- A drain of CTR ends with its last engine (R40 to R42): DISABLED, or ENABLED where EN was set again. -/
def Dev.ctrDrained (d : Dev) : Dev :=
  if d.ctrDraining && !(List.range 8).any d.engBusy then d.wr R.CTR_CTL.STATUS (if d.on R.CTR_CTL.EN && !d.pw.ctrHold then 1 else 0) else d

/-- CTR_CTL.EN written (R40, R41). -/
def Dev.ctrEnable (d : Dev) (en : Bool) : Dev :=
  let st := d.rd R.CTR_CTL.STATUS
  let d := d.wrB R.CTR_CTL.EN en
  if en then (if st = 0 ∧ d.pw.ctrHold = false then d.wr R.CTR_CTL.STATUS 1 else d)
  else if st = 1 then (d.wr R.CTR_CTL.STATUS 2).ctrDrained else d

/-- CTR_SEQUENCER_BOUNDARY (R205): the next 10 µs boundary, with the raw feedback levels. -/
def Dev.ctrBoundary (d : Dev) (fb : Nat) : Dev :=
  let d := d.advanceTo ((d.tm.q + 3999) / 4000 * 4000)
  let d := ({ d with ctr := { d.ctr with raw := some fb } }).fbSample fb
  (d.forAll (List.range 8) Dev.engAdvance).ctrDrained

/-- Conditions met at a W (Table 10-4, R208). -/
def Dev.ctrAtW (d : Dev) : Dev :=
  d.forAll (List.range 8) (fun d e =>
    if d.engBusy e && !(d.engRt e).fresh then
      let st := d.engStep e
      let r := (d.engRt e).defs.coil st.arg
      let m := match st.op with
        | 2 => (decide (r.fb = 0xFF) || !d.coilClosed st.arg) && d.coilSource r && decide (r.vclose < d.coilDiff r)
        | 4 => decide ((d.snapAt st.arg).natAbs ≤ st.value)
        | 5 => decide (st.value ≤ (d.snapAt st.arg).natAbs)
        | 6 => decide (d.coilDiff r ≤ st.value)
        | _ => false
      if m then d.setEng e { d.engRt e with met := true } else d
    else d)

/-- CTR_STEP_TIMEOUT (Table 10-4, R208). -/
def Dev.ctrTimeout (d : Dev) (e : Nat) : Dev :=
  if d.engBusy e && !(d.engRt e).fresh then
    let st := d.engStep e
    let r := (d.engRt e).defs.coil st.arg
    match st.op with
    | 1 =>
      if r.fb = 0xFF ∨ d.coilClosed st.arg = true then d.engNext e
      else (d.setCoilBit R.CTR_COIL.BIT st.arg false).engFail e 1
    | 2 =>
      if r.fb ≠ 0xFF ∧ d.coilClosed st.arg = true then (d.coilWeld st.arg).engFail e 2
      else if (d.engRt e).met then (d.wr (R.CTR_ENG.NV e) 0).engNext e
      else if d.coilSource r then ((d.coilWeld st.arg).wr (R.CTR_ENG.NV e) 0).engFail e 3
      else (d.wr (R.CTR_ENG.NV e) 1).engNext e
    | 3 => d.engNext e
    | 4 | 5 | 6 => if (d.engRt e).met then d.engNext e else d.engFail e 5
    | _ => d
  else d

/-! ## Starts (R206) -/

/-- Modes that refuse a start. -/
def ctrModeBad (m : Mode) (close : Bool) : Bool :=
  match m with
  | .dormant | .kindling | .banked | .recovery => true
  | .tripped => close
  | _ => false

/-- The refusal code of a start, 0 when it is taken (R206). -/
def Dev.ctrRefusal (d : Dev) (n : Nat) : Nat :=
  let t := d.act.ctr
  let close := t.hasClose n || (match t.failOf n with | some f => t.hasClose f | none => false)
  let busy := (List.range 8).filter d.engBusy
  if d.rd R.CTR_CTL.STATUS ≠ 1 then 10
  else if ctrModeBad d.mode close then 9
  else if (t.seqOf n).isNone then 8
  else if busy.any (fun e => ((d.engRt e).defs.conflictSet (d.engRt e).started).any (fun c => (t.conflictSet n).contains c)) then 6
  else if busy.length = 8 then 7
  else 0

/-- A start of sequence `n` (R206), with the engine taken. -/
def Dev.ctrStart (d : Dev) (n : Nat) : Dev × Option Nat :=
  let n := n % 64
  let d := d.wr R.CTR_START.SEQ n
  match d.ctrRefusal n, (List.range 8).find? (fun e => !d.engBusy e) with
  | 0, some e =>
    let d := d.setEng e { defs := d.act.ctr, started := n, seq := n, fresh := true }
    (d.wrAll [(R.CTR_ENG.STATE e, 1), (R.CTR_ENG.CODE e, 0), (R.CTR_ENG.NV e, 0), (R.CTR_START.RESULT, 1), (R.CTR_START.CODE, 0), (R.CTR_START.ENGINE, e)],
      some e)
  | c, _ =>
    (((d.wr R.CTR_START.RESULT 3).wr R.CTR_START.CODE c).bump R.CTR_CNT.REFUSED |>.raise 54 2 [0, n, c], none)

/-- COIL_MISMATCH (R209): outside its own CLOSE and OPEN steps. -/
def Dev.coilMismatch (d : Dev) (c : Nat) : Dev :=
  let own := (List.range 8).any (fun e => d.engBusy e && !(d.engRt e).fresh && ((d.engStep e).op == 1 || (d.engStep e).op == 2) && (d.engStep e).arg == c)
  if own || decide ((d.act.ctr.coil c).fb = 0xFF) || d.coilOn c == d.coilClosed c then d
  else (d.setCoilBit R.CTR_MISM.BIT c true).raise 55 1 [c]

/-! ## Meanings -/

/-- CTR_START written by the FMP (R206). -/
def execCtrStart (seq : Nat) (s : State) : Host.Outcome State Fault Refusal :=
  done s (fun d => if d.domOn .f4 then (d.ctrStart seq).1 else d)

/-- CTR_SEQUENCER_BOUNDARY (R205): `fb` holds the raw levels of the feedback inputs. -/
def execCtrSequencerBoundary (fb : Nat) (s : State) : Host.Outcome State Fault Refusal :=
  done s (fun d => if d.domOn .f4 then d.ctrBoundary fb else d)

/-- CTR_STEP_TIMEOUT (R208). -/
def execCtrStepTimeout (engine : Fin 8) (s : State) : Host.Outcome State Fault Refusal :=
  done s (fun d => if d.domOn .f4 then (d.ctrTimeout engine).ctrDrained else d)

/-- COIL_MISMATCH (R209). -/
def execCoilMismatch (coil : Fin 48) (s : State) : Host.Outcome State Fault Refusal :=
  done s (fun d => if d.domOn .f4 then d.coilMismatch coil else d)

end Sys2Proof.Machine
end

