-- ==== Sys2Proof/Machine/Telemetry.lean ====
section
/-! DEFINITION. Telemetry (section 10.7) and leg shedding, which reads it (R168). -/

namespace Sys2Proof.Machine

/-- No value (R215). -/
def tlmNone : Nat := 0x80000000

def Dev.tlmQ (d : Dev) (u q : Nat) : TlmQ := d.tlm.q.getD (4 * u + q) {}

def Dev.setTlmQ (d : Dev) (u q : Nat) (x : TlmQ) : Dev := { d with tlm := { d.tlm with q := setAt d.tlm.q (4 * u + q) x } }

/-- One sample: into the 1 ms sum and TLM_MAX and TLM_MIN (R214, R216). -/
def Dev.tlmSample (d : Dev) (u q : Nat) (v : Int) : Dev :=
  let x := d.tlmQ u q
  let d := d.setTlmQ u q { sum := setAt x.sum 0 (x.sum.getD 0 0 + v), n := addAt x.n 0 1 }
  let mx := d.rd (R.TLM_MAX.VALUE u q)
  let mn := d.rd (R.TLM_MIN.VALUE u q)
  let d := if mx = tlmNone then d.wrS (R.TLM_MAX.VALUE u q) v else d.wrS (R.TLM_MAX.VALUE u q) (max (signed mx 32) v)
  if mn = tlmNone then d.wrS (R.TLM_MIN.VALUE u q) v else d.wrS (R.TLM_MIN.VALUE u q) (min (signed mn 32) v)

/-- P of R214. -/
def tlmPower (v i : Int) (pmant psh : Nat) : Int := sat (rshRound (v * i * signed pmant 32) (30 + psh)) 32

/-- A quantity of a unit is enabled. -/
def Dev.tlmEnabled (d : Dev) (u q : Nat) : Bool :=
  if u = 24 then decide (q = 2)
  else match q with
    | 0 => d.on (R.TLM_SRC.VEN u)
    | 1 => d.on (R.TLM_SRC.IEN u)
    | 2 => d.on (R.TLM_SRC.VEN u) && d.on (R.TLM_SRC.IEN u)
    | _ => d.on (R.TLM_SRC.TEN u)

/-- The samples of one unit at a W (R214). -/
def Dev.tlmUnit (d : Dev) (u : Nat) : Dev :=
  let v := d.snapAt (d.rd (R.TLM_SRC.VSIG u))
  let i := d.snapAt (d.rd (R.TLM_SRC.ISIG u))
  let d := if d.tlmEnabled u 0 then d.tlmSample u 0 v else d
  let d := if d.tlmEnabled u 1 then d.tlmSample u 1 i else d
  let d := if d.tlmEnabled u 2 then d.tlmSample u 2 (tlmPower v i (d.rd (R.TLM_PCOEF.PMANT u)) (d.rd (R.TLM_PSH.PSH u))) else d
  if d.tlmEnabled u 3 then d.tlmSample u 3 (d.rdS (R.FBA_TEMP.VALUE (d.rd (R.TLM_SRC.TIN u)))) else d

/-- Milliseconds of a window. -/
def winMs (w : Nat) : Nat := if w = 0 then 1 else if w = 1 then 100 else 1000

/-- One window of a quantity closed: its value shown, and its sums cleared. A window that passed whole without a W holds no
sample. -/
def Dev.tlmShow (d : Dev) (u q w : Nat) (whole : Bool) : Dev :=
  let x := d.tlmQ u q
  let v := if whole = false ∨ numAt x.n w = 0 ∨ d.tlmEnabled u q = false then tlmNone else unsigned (divz (x.sum.getD w 0) (numAt x.n w)) 32
  (d.wr (R.TLM_VAL.VALUE u q w) v).setTlmQ u q { sum := setAt x.sum w 0, n := setAt x.n w 0 }

/-- The 1 ms value carried into the two longer windows (R215). -/
def Dev.tlmFold (d : Dev) (u q : Nat) : Dev :=
  let x := d.tlmQ u q
  if numAt x.n 0 = 0 ∨ d.tlmEnabled u q = false then d
  else
    let v := divz (x.sum.getD 0 0) (numAt x.n 0)
    d.setTlmQ u q { sum := setAt (setAt x.sum 1 (x.sum.getD 1 0 + v)) 2 (x.sum.getD 2 0 + v), n := addAt (addAt x.n 1 1) 2 1 }

/-- The TELEMETRY cell of a unit and window (R217), with the STC millisecond at the window's end. -/
def Dev.tlmCell (d : Dev) (u w ms : Nat) : Dev :=
  if testBit (d.rd R.TLM_CFG.WIN) w && testBit (d.rd R.TLM_CELLEN.UNIT) u then
    d.sendF 2 { ty := 0x41, payload := leBytes 1 0x15 ++ leBytes 1 u ++ leBytes 1 w ++ leBytes 1 4 ++ leBytes 4 (ms % 2 ^ 32) ++
      [0, 1, 2, 3].flatMap (fun q => leBytes 4 (d.rd (R.TLM_VAL.VALUE u q w))) }
  else d

/-- The spans of a unit that end between STC millisecond `old` and `new` (R215). -/
def Dev.tlmClose (d : Dev) (u old new : Nat) : Dev :=
  let d := d.forAll [0, 1, 2, 3] (fun d q => d.tlmFold u q)
  d.forAll [0, 1, 2] (fun d w =>
    let a := old / winMs w
    let b := new / winMs w
    if a = b then d
    else (d.forAll [0, 1, 2, 3] (fun d q => d.tlmShow u q w (decide (b = a + 1)))).tlmCell u w (b * winMs w))

/-- Telemetry at a W (R214, R215): spans that have ended are closed before the sample of this W. -/
def Dev.tlmAtW (d : Dev) : Dev :=
  let now := d.stcNs / 1000000
  let d := if now = d.tlm.ms then d
    else
      let d := d.forAll (List.range 24) (fun d u => d.tlmClose u d.tlm.ms now)
      { d with tlm := { d.tlm with ms := now } }
  let d := if d.tlm.acFull || decide (d.tlm.acMs + 2 ≤ now) then
      let next := if d.tlm.acFull then d.tlm.acMs + 1 else now - 1
      let d := d.tlmClose 24 d.tlm.acMs next
      { d with tlm := { d.tlm with acMs := next, acFull := false } }
    else d
  d.forAll (List.range 24) Dev.tlmUnit

/-- A metrology sample of unit 24, of the instant `tn` (R214). -/
def Dev.tlmAc (d : Dev) (tn : Nat) (p : Int) : Dev :=
  let ms := tn / 1000000
  let d := if ms = d.tlm.acMs then d
    else
      let d := d.tlmClose 24 d.tlm.acMs ms
      { d with tlm := { d.tlm with acMs := ms, acFull := false } }
  let d := d.tlmSample 24 2 p
  if tn % 1000000 = 875000 then { d with tlm := { d.tlm with acFull := true } } else d

/-! ## Leg shedding (R168) -/

/-- The power that shedding looks at; a span without a value counts as 0. -/
def Dev.shedPower (d : Dev) (b : Nat) : Nat :=
  let om := (d.detBlk b).outmask
  let val := fun u => let v := d.rd (R.TLM_VAL.VALUE u 2 0); if v = tlmNone then 0 else (signed v 32).toNat
  if om = 0 then val 24 else ((bitsOf 4 om).map val).foldl (· + ·) 0

def popcount (v : Nat) : Nat := (bitsOf 32 v).length

/-- The variant that switches `count` modules, or the fewest above it, with the active variant's exclusions (R168). -/
def Dev.shedVariant (d : Dev) (b count : Nat) : Option Nat :=
  let x := d.dblk b
  let cand := (d.act.attrs.filter (fun a => a.blk == b && decide (Nat.land a.active (d.lost b) = 0) && a.excl == (d.attr b x.active).excl))
  let low := fun (as : List VarAttr) => match as with
    | [] => none
    | a :: rest => some (rest.foldl (fun m z => min m z.index) a.index)
  match cand.filter (fun a => popcount a.active == count) with
  | [] =>
    match cand.filter (fun a => decide (count < popcount a.active)) with
    | [] => none
    | a :: rest =>
      let m := rest.foldl (fun m z => min m (popcount z.active)) (popcount a.active)
      low ((a :: rest).filter (fun z => popcount z.active == m))
  | as => low as

/-- One block's evaluation (R168). -/
def Dev.shedBlock (d : Dev) (b : Nat) : Dev :=
  let rows := d.act.loss.filter (fun r => r.blk == b)
  let x := d.dblk b
  match rows with
  | [] => d
  | r0 :: _ =>
    let p := d.shedPower b
    let cur := (rows.find? (fun r => r.count == d.modsSwitching b)).getD r0
    let want := (rows.find? (fun r => decide (r.pmin ≤ p) && decide (p < r.pmax))).getD (if p < r0.pmin then r0 else rows.getLastD r0)
    let go := if cur.count < want.count then true
      else if want.count < cur.count then decide (p * 100 < cur.pmin * (100 - d.act.hyst)) && decide (d.act.dwell ≤ x.dwell)
      else false
    let d := d.wr (R.DGR_SHEDSTAT.WANT b) want.count
    let d := d.setDblk b { x with dwell := x.dwell + 1 }
    if go then
      match d.shedVariant b want.count with
      | some v =>
        if v = x.active then d
        else
          let key := d.keyOf b v
          let d := (d.setDblk b { d.dblk b with req := some (key, true) }).wrAll
            [(R.DGR_VARREQ.KEY b, key), (R.DGR_VARREQ.RESULT b, 1), (R.DGR_VARREQ.CODE b, 0), (R.DGR_SHEDSTAT.CARDIV b, want.cardiv)]
          d.forAll (List.range 20) (fun d g =>
            if d.act.legs.any (fun l => l.blk == b && l.leg / 4 == g) then d.grpDivReq g want.cardiv else d)
      | none => d
    else d

/-- LEG_SHEDDING_EVALUATION (R168). -/
def Dev.shedEval (d : Dev) : Dev :=
  let ok := d.on R.DGR_SHED.EN && (d.mode = .active || d.mode = .derate || d.mode = .autonomous) && !d.pw.fmpRestart
  d.forAll d.act.detBlks (fun d b =>
    let x := d.dblk b.blk
    if ok && b.shed && !d.ce.man.getD b.blk false && x.win.isNone && x.queued.isNone then d.shedBlock b.blk else d)

/-! ## Meanings -/

/-- LEG_SHEDDING_EVALUATION (R168): the next whole 10 ms of the STC. -/
def execLegSheddingEvaluation (s : State) : Host.Outcome State Fault Refusal :=
  done s (fun d => if d.domOn .f2 then (d.advanceTo ((d.tm.q + 3999999) / 4000000 * 4000000)).shedEval else d)

end Sys2Proof.Machine
end

