-- ==== Sys2Proof/Machine/Share.lean ====
section
/-! DEFINITION. Site sharing (chapter 11): frames, demand records, allocation, the point-of-connection guard, the damper and
module routing. -/

namespace Sys2Proof.Machine

/-! ## Members and settings -/

def Dev.devno (d : Dev) : Nat := d.rd R.SHR_GRP.DEVNO

/-- The member mask in force, own bit included (R218). -/
def Dev.memberMask (d : Dev) : Nat := setBit (d.rd R.SHR_MEMBER.VALUE) d.devno

def Dev.member (d : Dev) (m : Nat) : ShrMember := d.shr.members.getD m {}

def Dev.setMember (d : Dev) (m : Nat) (x : ShrMember) : Dev := { d with shr := { d.shr with members := setAt d.shr.members m x } }

/-- A write of DEVNO, GROUPID or AUTH outside READY or lower is ignored and sets WRIGN (R218). -/
def Dev.shrLocked (d : Dev) : Bool := !d.mode.readyOrLower

/-- SHR_NEXTAT_HI written (R219). -/
def Dev.nextatWrite (d : Dev) (v : Nat) : Dev :=
  let d := d.wr R.SHR_NEXTAT_HI.AT (bits v 15 0)
  if testBit v 31 then
    let x := (d.rd R.SHR_NEXTLIM.VALUE, d.rd R.SHR_NEXTMARG.VALUE, d.rd R.SHR_NEXTMEMB.VALUE, d.rd R.SHR_NEXTAT_LO.VALUE + 2 ^ 32 * bits v 15 0)
    { d with shr := { d.shr with armed := some x } }.wr R.SHR_STAT.NEXTPEND 1
  else d

/-- An armed change at its frame boundary (R219). -/
def Dev.nextApply (d : Dev) (f : Nat) : Dev :=
  match d.shr.armed with
  | some (l, g, m, at') =>
    if at' ≤ f then
      let d := { d with shr := { d.shr with armed := none } }
      (d.wrAll [(R.SHR_LIMIT.VALUE, l), (R.SHR_MARGIN.VALUE, g), (R.SHR_MEMBER.VALUE, setBit m d.devno), (R.SHR_STAT.NEXTPEND, 0)]).raise 34 4
        [d.devno, f % 2 ^ 32, f / 2 ^ 32]
    else d
  | none => d

/-! ## Sample spans -/

/-- A sample added to the span of its instant; the last 8 spans are kept. -/
def addSpan (xs : List PocSpan) (inst : Nat) (p : Int) : List PocSpan :=
  let ms := inst / 1000000
  if xs.any (fun x => x.ms == ms) then xs.map (fun x => if x.ms = ms then { x with sum := x.sum + p, n := x.n + 1 } else x)
  else ({ ms := ms, sum := p, n := 1 } :: xs).take 8

/-- Mean of a span, 0 when it holds no sample. -/
def spanMean (xs : List PocSpan) (ms : Nat) : Int :=
  match xs.find? (fun x => x.ms == ms) with
  | some x => divz x.sum x.n
  | none => 0

/-! ## The damper's inputs (R236, R237) -/

/-- Field die at or above THROTTLE (R387). -/
def Dev.dieThrottle (d : Dev) : Bool := d.on R.FTHM_STAT.THROTTLE

/-- A derate condition other than the guard (R237). -/
def Dev.derateCond (d : Dev) : Bool := d.dieThrottle || d.on R.SHR_DERATE.REQ

/-- A derate condition holds (R28). -/
def Dev.deratesNow (d : Dev) : Bool := d.derateCond || decide (d.rd R.SHR_GSCALE.VALUE < 2 ^ 30)

/-- A derate condition that begins while the device is engaged sets P_REF and FT (R237). -/
def Dev.derateSync (d : Dev) : Dev :=
  let c := d.derateCond
  let d := if c && !d.shr.derating && d.pw.engaged then
      let pref := [0, 1, 2, 3].map (fun n => let v := d.rd (R.TLM_VAL.VALUE n 2 1); if v = tlmNone then (0 : Int) else signed v 32)
      { d with shr := { d.shr with pref := pref, limited := true } }.wr R.SHR_DERATE.FT 1000
    else d
  { d with shr := { d.shr with derating := c } }

/-- FT at a whole 100 ms (R237). -/
def Dev.derateStep (d : Dev) : Dev :=
  let d := d.derateSync
  if d.shr.limited then
    let ft := d.rd R.SHR_DERATE.FT
    if d.shr.derating then d.wr R.SHR_DERATE.FT (ft - 100)
    else if 1000 ≤ ft + 100 then { d with shr := { d.shr with limited := false } }.wr R.SHR_DERATE.FT 1000
    else d.wr R.SHR_DERATE.FT (ft + 100)
  else d

/-- No limit. -/
def noLimit : Int := 0x7FFFFFFF

/-- tl of an output (R237). -/
def Dev.thermalLimit (d : Dev) (n : Nat) : Int :=
  if d.shr.limited then divz (d.shr.pref.getD n 0 * d.rd R.SHR_DERATE.FT) 1000 else noLimit

/-- h of an output: its KIND 2 target (R236). -/
def Dev.hostLimit (d : Dev) (n : Nat) : Int :=
  match d.act.targets.find? (fun t => t.kind == 2 && t.dest == n) with
  | some t =>
    match d.ce.targets.find? (fun x => x.1 == t.number) with
    | some x => max 0 x.2
    | none => noLimit
  | none => noLimit

/-- pc of an output (R236). -/
def Dev.cableLimit (d : Dev) (n : Nat) : Int :=
  let icbl := d.rd (R.CBL_ILIM.ILIM n)
  if icbl = 0x7FFFFFFF then noLimit
  else
    let t := (term (d.rd (R.SHR_VMANT.VALUE n) + 2 ^ 32 * d.rd (R.SHR_OUTCFG.VSH n)) (d.sig (d.rd (R.TLM_SRC.VSIG n)))).1
    let vm : Int := max (d.rd (R.SHR_OUTCFG.VMIN n) * 1000 : Nat) (sat (rshRound t 30) 32)
    divz (icbl * vm) 1000000

/-- A coil of SHR_OUTCFG counts as energised and closed. -/
def Dev.coilMade (d : Dev) (c : Nat) : Bool := decide (c = 0x3F) || (d.coilOn c && d.coilClosed c)

/-- CPOS and CNEG of an output are energised and debounced closed. -/
def Dev.outCoilsMade (d : Dev) (n : Nat) : Bool := d.coilMade (d.rd (R.SHR_OUTCFG.CPOS n)) && d.coilMade (d.rd (R.SHR_OUTCFG.CNEG n))

/-- k of an output (R236). -/
def Dev.coilLimit (d : Dev) (n : Nat) : Int := if d.outCoilsMade n then noLimit else (d.rd (R.SHR_PPRE.VALUE n) : Nat)

/-! ## The own record (R222, R225 to R227) -/

/-- The buffer block is running (R227). -/
def Dev.bufferRuns (d : Dev) : Bool := decide (d.rd R.STK_BUFSTAT.STATE = 1)

/-- Modes whose requests and floors are zero (R24). -/
def shareZero : Mode → Bool
  | .banked | .ready | .tripped | .commission | .service => true
  | _ => false

/-- Modes in which nothing is sent (R24). -/
def shareSilent : Mode → Bool
  | .dormant | .kindling | .recovery => true
  | _ => false

/-- The allocation in force during the frame that begins: the one computed in the frame before, handed off at its first latch
(R220). -/
def Dev.allocNow (d : Dev) : ShrAlloc :=
  match d.shr.comp with
  | some c => if c.frame + 1 = d.shr.frame then c else d.shr.force
  | none => d.shr.force

/-- REQ and FLOOR of an output (Table 11-3). -/
def Dev.shrRequest (d : Dev) (n : Nat) : Nat × Nat :=
  let st := d.outState n
  let p1 := d.rd (R.TLM_VAL.VALUE n 2 0)
  let p : Int := if p1 = tlmNone then 0 else max 0 (signed p1 32)
  let cap := d.rd (R.DGR_CAP.CAP n)
  let (raw, flr) : Int × Nat :=
    if shareZero d.mode || !([4, 5, 6].contains st) then (0, 0)
    else if d.mode = .quench ∨ st = 6 then (p, 0)
    else
      let m := min (min (d.hostLimit n) (d.cableLimit n)) (d.thermalLimit n)
      (if cap = 0xFFFF then m else min m (cap * 1000 : Nat), d.rd (R.SHR_FLOOR.VALUE n))
  let top : Int := (numAt d.allocNow.a n + min (d.rd (R.SHR_RAMP.VALUE n)) (numAt d.shr.rampPrev n) : Nat)
  let req := (max 0 (min raw top)).toNat
  (req, min flr req)

/-- CHG and DISC (R227). -/
def Dev.shrBuffer (d : Dev) : Nat × Nat :=
  if d.bufferRuns = false then (0, 0)
  else
    let disc := if d.on R.SHR_BUFCFG.SUPPORT && d.shr.shortSup then d.rd R.SHR_BUFDIS.W else 0
    (if 0 < disc then 0 else min (d.rd R.SHR_BUFCHG.W) (d.allocNow.c + d.rd R.SHR_BUFRAMP.W), disc)

/-- The POC field and MVALID of the record of frame `f` (R226). -/
def Dev.shrPoc (d : Dev) (f : Nat) : Int × Bool :=
  match d.shr.validSince with
  | some t => if t + 1000000 ≤ f * 1000000 then (spanMean d.shr.poc (f - 1), true) else (0, false)
  | none => (0, false)

/-- Bytes 52 + 16n to 67 + 16n of the record (Table 11-2). -/
def Dev.shrOutBytes (d : Dev) (n : Nat) (rq : Nat × Nat) : List Byte :=
  if d.on (R.SHR_OUTCFG.VALID n) then
    leBytes 4 rq.1 ++ leBytes 4 rq.2 ++ leBytes 4 (d.rd (R.SHR_RAMP.VALUE n)) ++ leBytes 2 (d.rd (R.DGR_CAP.CAP n)) ++
      leBytes 1 (d.rd (R.SHR_CLASS.CLASS n)) ++ leBytes 1 (d.outState n)
  else List.replicate 16 0

/-- Bytes 0 to 127 of the own record of frame `f` (Table 11-2). -/
def Dev.shrBytes (d : Dev) (f : Nat) (keyid : Nat) (rqs : List (Nat × Nat)) (chg disc : Nat) (draw poc : Int) (mv : Bool) : List Byte :=
  let flags := b2n mv + 2 * b2n d.deratesNow + 4 * b2n (d.on R.FSYS_MODE.HOSTLOST) + 8 * b2n (decide (d.rd R.SHR_GSCALE.VALUE < 2 ^ 30)) +
    16 * b2n d.shr.subst + 32 * b2n (!d.bufferRuns) + 64 * b2n d.shr.starved
  leBytes 1 1 ++ leBytes 1 d.devno ++ leBytes 1 flags ++ leBytes 1 keyid ++ leBytes 8 f ++ leBytes 4 (d.rd R.SHR_GROUPID.ID) ++
    leBytes 4 (d.rd R.SHR_LIMIT.VALUE) ++ leBytes 4 (d.rd R.SHR_MARGIN.VALUE) ++ leBytes 4 d.memberMask ++ leBytes 4 (unsigned draw 32) ++
    leBytes 4 (unsigned poc 32) ++ leBytes 4 chg ++ leBytes 4 (d.rd R.SHR_BUFRAMP.W) ++ leBytes 4 disc ++ leBytes 1 (d.rd R.SHR_BUFCFG.CLASS) ++
    leBytes 1 d.mode.code ++ leBytes 2 0 ++ (rqs.zipIdx.flatMap (fun q => d.shrOutBytes q.2 q.1)) ++ List.replicate 12 0

/-- What the allocation uses of a record's bytes (Table 11-2). -/
def parseRec (bs : List Byte) : ShrRec :=
  let out := fun n => ({ req := leAt bs (52 + 16 * n) 4, flr := leAt bs (56 + 16 * n) 4, cls := leAt bs (66 + 16 * n) 1 % 8 } : ShrEntry)
  { dev := leAt bs 1 1, frame := leAt bs 4 8, draw := signed (leAt bs 28 4) 32, poc := signed (leAt bs 32 4) 32, mvalid := testBit (leAt bs 2 1) 0,
    disc := leAt bs 44 4,
    rt := leAt bs 52 4 + leAt bs 68 4 + leAt bs 84 4 + leAt bs 100 4 + leAt bs 36 4,
    rs := leAt bs 60 4 + leAt bs 76 4 + leAt bs 92 4 + leAt bs 108 4 + leAt bs 40 4,
    entries := [out 0, out 1, out 2, out 3, { req := leAt bs 36 4, cls := leAt bs 48 1 % 8 }], bytes := bs.take 128 }

/-- KEYID of records sent. -/
def Dev.shrKeyId (d : Dev) : Nat := if d.on R.SHR_GRP.AUTH then d.rd R.SHR_GRP.TXKEY else 0xFF

/-- The own record of frame `f` formed at T0 (R220, R222). DRAW is the mean of the total active power that metrology processed in the
millisecond before T0, that is of the instants a millisecond earlier (R262, log entry 84). -/
def Dev.shrForm (d : Dev) (f : Nat) : Dev :=
  let rqs := [0, 1, 2, 3].map (fun n => if d.on (R.SHR_OUTCFG.VALID n) then d.shrRequest n else (0, 0))
  let (chg, disc) := d.shrBuffer
  let draw := spanMean d.shr.ac (f - 2)
  let (poc, mv) := d.shrPoc f
  let bs := d.shrBytes f d.shrKeyId rqs chg disc draw poc mv
  let ramps := [0, 1, 2, 3].map (fun n => if d.on (R.SHR_OUTCFG.VALID n) then d.rd (R.SHR_RAMP.VALUE n) else 0)
  let d := { d with shr := { d.shr with own := some (parseRec bs), rampPrev := ramps } }
  let d := ((d.wrB R.SHR_STAT.MVALID mv).wrB R.SHR_STAT.BUFFLT (!d.bufferRuns)).wrS R.SHR_DRAW.VALUE draw
  d.forAll rqs.zipIdx (fun d q => d.wr (R.SHR_REQSENT.W q.2) q.1.1)

/-! ## Tags (R224) -/

/-- The IV of a record's tag. -/
def shrIv (group dev frame : Nat) : List Byte := leBytes 4 group ++ leBytes 1 dev ++ leBytes 1 0 ++ leBytes 6 frame

/-- The tag of a record verifies under the key slot it names (R224). -/
def Dev.tagOk (d : Dev) (bs : List Byte) : Bool :=
  match d.shr.keys.getD (leAt bs 3 1) none with
  | some key => decide (Config.gmac key (shrIv (leAt bs 12 4) (leAt bs 1 1) (leAt bs 4 8)) (bs.take 128) = slice bs 128 16)
  | none => false

/-- The payload of the own record with its tag; none where R224 forbids sending. -/
def Dev.shrPayload (d : Dev) (r : ShrRec) : Option (List Byte) :=
  if d.on R.SHR_GRP.AUTH then
    let k := d.rd R.SHR_GRP.TXKEY
    match d.shr.keys.getD k none with
    | some key =>
      if (match d.shr.sent.getD k none with | some f => decide (r.frame ≤ f) | none => false) then none
      else some (r.bytes ++ Config.gmac key (shrIv (d.rd R.SHR_GROUPID.ID) r.dev r.frame) r.bytes)
    | none => none
  else some (r.bytes ++ List.replicate 16 0)

/-! ## Reception (R221, R223) -/

/-- LIMIT, MARGIN and MEMBERS of a record equal the values in force. -/
def Dev.recMatches (d : Dev) (bs : List Byte) : Bool :=
  decide (leAt bs 16 4 = d.rd R.SHR_LIMIT.VALUE) && decide (leAt bs 20 4 = d.rd R.SHR_MARGIN.VALUE) && decide (leAt bs 24 4 = d.memberMask)

/-- A record that passed R223: the first copy is used, an equal copy ignored, a differing one makes its member missing (R221). -/
def Dev.recUse (d : Dev) (r : ShrRec) : Dev :=
  if d.shr.conflict.contains r.dev then d
  else match d.shr.used.find? (fun x => x.dev == r.dev) with
    | some x =>
      if x.bytes = r.bytes then d
      else
        ({ d with shr := { d.shr with used := d.shr.used.filter (fun y => decide (y.dev ≠ r.dev)), conflict := d.shr.conflict ++ [r.dev] } }).raise 34 2
          [r.dev, r.frame % 2 ^ 32, r.frame / 2 ^ 32]
    | none => { d with shr := { d.shr with used := d.shr.used ++ [r] } }

/-- A demand record checked in its frame (R223, R224); injection point 15 discards the records of its member. -/
def Dev.recCheck (d : Dev) (bs : List Byte) : Dev :=
  let m := leAt bs 1 1
  let f := leAt bs 4 8
  let now := d.stcNs
  if f * 1000000 + 700000 < now ∧ f = d.shr.frame ∨ f < now / 1000000 then d.bump R.SHR_CNT.LATE
  else if d.isInjected 15 m then d
  else if leAt bs 0 1 ≠ 1 ∨ f ≠ d.shr.frame ∨ leAt bs 12 4 ≠ d.rd R.SHR_GROUPID.ID ∨ m = d.devno ∨ 32 ≤ m ∨ testBit d.memberMask m = false then d
  else if d.recMatches bs = false then
    let d := d.bump R.SHR_CNT.CFGMIS
    if (d.member m).cfgReported then d
    else (d.setMember m { d.member m with cfgReported := true }).raise 34 3 [m, f % 2 ^ 32, f / 2 ^ 32]
  else if d.on R.SHR_GRP.AUTH && !d.tagOk bs then d.bump R.SHR_CNT.AUTHFAIL
  else d.recUse (parseRec bs)

/-- A received demand record: one that names a later frame is kept and checked in that frame (R223). -/
def Dev.recReceive (d : Dev) (bs : List Byte) : Dev :=
  if d.shr.frame < leAt bs 4 8 then { d with shr := { d.shr with early := d.shr.early ++ [bs] } } else d.recCheck bs

/-- Records kept for the frame that begins. -/
def Dev.recEarly (d : Dev) : Dev :=
  let f := d.shr.frame
  let now := d.shr.early.filter (fun bs => decide (leAt bs 4 8 = f))
  ({ d with shr := { d.shr with early := d.shr.early.filter (fun bs => decide (f < leAt bs 4 8)) } }).forAll now Dev.recCheck

/-- What the record of frame `ms` says of the allocation of the frame before: nothing where none was computed in it (Table 11-2,
R227). -/
def Dev.shrStale (d : Dev) (ms : Nat) : Dev :=
  match d.shr.comp with
  | some c => if c.frame + 1 = ms then d else { d with shr := { d.shr with subst := false, starved := false, shortSup := false } }
  | none => d

/-- A frame boundary (R219, R220, R24). -/
def Dev.shrFrame (d : Dev) (ms : Nat) : Dev :=
  let d := (d.nextApply ms).shrStale ms
  let d := { d with shr := { d.shr with frame := ms, own := none, used := [], conflict := [], hand := some (ms * 1000000) } }
  let d := d.recEarly
  if d.streamActive = false ∨ shareSilent d.mode = true then { d with shr := { d.shr with rampPrev := [0, 0, 0, 0] } } else d.shrForm ms

/-! ## Allocation (R229, R230) -/

/-- An entry during the fill: device, index, class, request, floor, granted. -/
structure FillEntry where
  dev : Nat
  idx : Nat
  cls : Nat
  req : Nat
  flr : Nat
  a : Nat
  deriving DecidableEq, Repr

/-- w of an entry (R230). -/
def FillEntry.w (e : FillEntry) (floor : Bool) : Nat := if floor then e.flr else e.req - e.a

/-- The loop of fill: entries that still want something (index into the list, want), the budget. Answers what each index is
granted and the budget left. -/
def fillGo : Nat → List (Nat × Nat) → Nat → List (Nat × Nat) × Nat
  | 0, _, b => ([], b)
  | n + 1, act, b =>
    if act = [] then ([], b)
    else
      let sh := b / act.length
      let fin := act.filter (fun e => decide (e.2 ≤ sh))
      if fin = [] then
        let r := b - sh * act.length
        (act.zipIdx.map (fun e => (e.1.1, sh + (if e.2 < r then 1 else 0))), 0)
      else
        let spent := (fin.map (·.2)).foldl (· + ·) 0
        let (g, left) := fillGo n (act.filter (fun e => decide (sh < e.2))) (b - spent)
        (fin ++ g, left)

/-- fill of R230 for one class, over entries in ascending (dev, idx). -/
def fillClass (floor : Bool) (c : Nat) (es : List FillEntry) (b : Nat) : List FillEntry × Nat :=
  let act := (es.zipIdx.filter (fun e => e.1.cls == c && decide (0 < e.1.w floor))).map (fun e => (e.2, e.1.w floor))
  let (g, left) := fillGo (act.length + 1) act b
  (es.zipIdx.map (fun e => match g.find? (fun x => x.1 == e.2) with | some x => { e.1 with a := e.1.a + x.2 } | none => e.1), left)

/-- Floors of every class in order, then the rest of every class in order (R230). -/
def allocate (es : List FillEntry) (b : Nat) : List FillEntry :=
  let go := fun (floor : Bool) (s : List FillEntry × Nat) => (List.range 8).foldl (fun s c => fillClass floor c s.1 s.2) s
  (go false (go true (es, b))).1

/-- The entries of one record. -/
def recEntries (r : ShrRec) : List FillEntry :=
  r.entries.zipIdx.map (fun e => { dev := r.dev, idx := e.2, cls := e.1.cls, req := e.1.req, flr := e.1.flr, a := 0 })

/-- z of a missing member in frame `f` (R229). -/
def Dev.reserve (d : Dev) (m f : Nat) : Nat :=
  let x := d.member m
  let top := d.rd R.SHR_DEVMAX.VALUE
  if d.on (R.SHR_MEMSTAT.HEARD m) then min top (max x.la (x.rt + (f - x.lastf) * x.rs)) else top

/-- Members of the group but the own device. -/
def Dev.others (d : Dev) : List Nat := (bitsOf 32 d.memberMask).filter (fun m => decide (m ≠ d.devno))

/-- What a used record leaves for its member (R229, SHR_MEMSTAT, event 34 KIND 1). -/
def Dev.memberUsed (d : Dev) (r : ShrRec) (la f : Nat) : Dev :=
  let x := d.member r.dev
  let d := d.setMember r.dev { lastf := f, rt := r.rt, rs := r.rs, la := la }
  let d := d.wrAll [(R.SHR_MEMSTAT.HEARD r.dev, 1), (R.SHR_MEMSTAT.MISSING r.dev, 0), (R.SHR_MEMSTAT.AGE r.dev, 0)]
  if x.missReported then d.raise 34 1 [r.dev, f % 2 ^ 32, f / 2 ^ 32] else d

/-- A member missing in the frame (event 34 KIND 0 after MISSLIM frames). -/
def Dev.memberMissing (d : Dev) (m f : Nat) : Dev :=
  let x := d.member m
  let hit := decide (x.run + 1 = max 1 (d.rd R.SHR_GRP.MISSLIM))
  let d := ((d.setMember m { x with run := x.run + 1, missReported := x.missReported || hit }).wr (R.SHR_MEMSTAT.MISSING m) 1).bump (R.SHR_MEMSTAT.AGE m)
  let d := d.bump R.SHR_CNT.SUBST
  if hit then d.raise 34 0 [m, f % 2 ^ 32, f / 2 ^ 32] else d

/-- A device number that is neither used nor missing in the frame: AGE goes on where it was heard (SHR_MEMSTAT). -/
def Dev.memberIdle (d : Dev) (m : Nat) : Dev :=
  let d := (d.setMember m { d.member m with run := 0 }).wr (R.SHR_MEMSTAT.MISSING m) 0
  if d.on (R.SHR_MEMSTAT.HEARD m) then d.bump (R.SHR_MEMSTAT.AGE m) else d

/-- M, the margin used, and whether a used record or the own stream gave it (R226). -/
def Dev.shrM (d : Dev) (own : ShrRec) (sumDraw : Int) : Int × Nat × Bool × Bool :=
  let margin := d.rd R.SHR_MARGIN.VALUE
  if own.mvalid then (own.poc, margin, true, false)
  else match d.shr.used.filter (·.mvalid) with
    | r :: rest => (rest.foldl (fun m x => max m x.poc) r.poc, margin, true, true)
    | [] => (sumDraw + signed (d.rd R.SHR_OTHERMAX.VALUE) 32, margin + d.rd R.SHR_MARGFB.VALUE, false, false)

/-- Results of an allocation shown and kept for the hand-off (R230). -/
def Dev.allocDone (d : Dev) (own : ShrRec) (es : List FillEntry) (missing : List Nat) : Dev :=
  let got := fun i => ((es.find? (fun e => e.dev == own.dev && e.idx == i)).map (·.a)).getD 0
  let short := fun n => decide (got n < (own.entries.getD n {}).flr)
  let sup := d.rd R.SHR_BUFCFG.SUPCLASS
  let starved := own.entries.zipIdx.any (fun e => decide (e.1.cls ≤ sup) && decide (got e.2 < e.1.req))
  let comp : ShrAlloc := { frame := own.frame, a := [got 0, got 1, got 2, got 3], c := got 4, disc := own.disc }
  let d := { d with shr := { d.shr with comp := some comp, subst := !missing.isEmpty, starved := [0, 1, 2, 3].any short, shortSup := starved } }
  d.forAll [0, 1, 2, 3] (fun d n =>
    let d := d.wr (R.SHR_ALLOC.W n) (got n)
    let was := d.on (R.SHR_DAMPSRC.FLOORSHORT n)
    let d := d.wrB (R.SHR_DAMPSRC.FLOORSHORT n) (short n)
    if short n && !was then d.raise 49 1 [n] else d)

/-- The allocation of the frame at its cutoff (R229, R230). -/
def Dev.shrCompute (d : Dev) (own : ShrRec) : Dev :=
  let f := own.frame
  let used := d.shr.used
  let missing := d.others.filter (fun m => !used.any (fun r => r.dev == m))
  let recs := own :: used
  let sumDraw := sumInt (recs.map (·.draw))
  let (m, margin, valid, mused) := d.shrM own sumDraw
  let o := max (signed (d.rd R.SHR_OTHERMIN.VALUE) 32) (m - sumDraw)
  let disc := (recs.map (·.disc)).foldl (· + ·) 0
  let z := (missing.map (fun x => d.reserve x f)).foldl (· + ·) 0
  let b : Int := ((d.rd R.SHR_LIMIT.VALUE : Nat) : Int) - o - (margin : Int) + ((disc : Nat) : Int) - ((z : Nat) : Int)
  let es := (List.range 32).flatMap (fun i => (recs.filter (fun r => r.dev == i)).flatMap recEntries)
  let es := allocate es b.toNat
  let sumOf := fun i => ((es.filter (fun e => e.dev == i)).map (·.a)).foldl (· + ·) 0
  let d := d.forAll used (fun d r => d.memberUsed r (sumOf r.dev) f)
  let d := d.forAll missing (fun d x => d.memberMissing x f)
  let d := d.forAll ((List.range 32).filter (fun m => !missing.contains m && !used.any (fun r => r.dev == m))) Dev.memberIdle
  let d := { d with shr := { d.shr with lastD := sumDraw, lastO := if valid then o else d.shr.lastO } }
  let d := (d.wrAll [(R.SHR_STAT.MISSING, missing.length), (R.SHR_STAT.HEARD, used.length), (R.SHR_STAT.MUSED, b2n mused),
    (R.SHR_BUDGET.VALUE, min b.toNat 0xFFFFFFFF), (R.SHR_POC.VALUE, unsigned m 32)]).wrPair R.SHR_FRAME_LO.VALUE R.SHR_FRAME_HI.VALUE f
  d.allocDone own es missing

/-- Injection point 15 counts frames: every active one uses up a frame at the cutoff (Table 21-1). -/
def Dev.injFrames (d : Dev) : Dev := d.forAll (List.range 32) (fun d m => d.injUse 15 m)

/-- SHARE_CUTOFF (R220, R230). -/
def Dev.shrCutoff (d : Dev) : Dev :=
  let d := d.advanceTo (400000 * d.shr.frame + 280000)
  let d := match d.shr.own with
    | some own => d.shrCompute own
    | none => d
  d.injFrames

/-! ## The guard (R232 to R235) -/

/-- Samples per second of a data set (Table 12-2). -/
def dsetRate (c : Nat) : Nat := match c with | 1 => 4000 | 2 | 3 => 4800 | 4 => 14400 | _ => 0

/-- The point-of-connection stream is valid (R226, R232, Table 12-3). -/
def Dev.pocUsable (d : Dev) : Bool :=
  let s := d.rd R.SHR_GCFG.STREAM
  decide (d.rd (R.SVG_SUBSTAT.STATE s) = 2) && !(decide (d.rd (R.SVG_SUBCFG.DSET s) = 1) && d.on R.SHR_GCFG.F60)

/-- Nominal frequency. -/
def Dev.fnom (d : Dev) : Nat := if d.on R.SHR_GCFG.F60 then 60 else 50

/-- nq (R232, R235). -/
def Dev.guardNq (d : Dev) : Nat :=
  if d.on R.SHR_STAT.FALLBACK then 8000 / (4 * d.fnom) else max 1 (dsetRate (d.rd (R.SVG_SUBCFG.DSET (d.rd R.SHR_GCFG.STREAM))) / (4 * d.fnom))

/-- A change of the guard's source (R235): the window restarts, event 35 KIND 2 or 3. -/
def Dev.guardSync (d : Dev) : Dev :=
  let ok := d.pocUsable
  let fb := d.on R.SHR_STAT.FALLBACK
  let d := if ok then (if d.shr.validSince = none then { d with shr := { d.shr with validSince := some d.stcNs } } else d)
    else { d with shr := { d.shr with validSince := none } }
  if ok != fb then d
  else
    let d := { d with shr := { d.shr with win := [], waiting := [] } }
    (d.wrB R.SHR_STAT.FALLBACK (!ok)).raise 35 (if ok then 3 else 2) []

/-- A released sample of the point-of-connection stream (R226, R232, R233). -/
def Dev.guardFeed (d : Dev) (inst : Nat) (p : Int) : Dev :=
  let d := { d with shr := { d.shr with poc := addSpan d.shr.poc inst p } }
  if d.on R.SHR_STAT.FALLBACK || !d.ceLive then d
  else { d with shr := { d.shr with waiting := d.shr.waiting ++ [{ due := d.stcNs + 20000, p := p, inst := inst }] } }

/-- A metrology sample of the own AC input (R222, R235). -/
def Dev.guardAc (d : Dev) (inst : Nat) (p : Int) : Dev :=
  let d := { d with shr := { d.shr with ac := addSpan d.shr.ac inst p } }
  if d.on R.SHR_STAT.FALLBACK && d.ceLive then
    { d with shr := { d.shr with waiting := d.shr.waiting ++ [{ due := d.stcNs, p := p, inst := inst }] } }
  else d

/-- One guard sample (R232, R235). -/
def Dev.guardSample (d : Dev) (x : GuardSample) : Dev :=
  let win := (x.p :: d.shr.win).take d.guardNq
  let fb := d.on R.SHR_STAT.FALLBACK
  let pq := divz (sumInt win) win.length + (if fb then d.shr.lastO else 0)
  let thr : Int := (d.rd R.SHR_LIMIT.VALUE : Nat) - (d.rd R.SHR_GMARG.VALUE : Nat) - (if fb then (d.rd R.SHR_GMARGFB.VALUE : Nat) else 0 : Nat)
  let d := { d with shr := { d.shr with win := win } }.wrS R.SHR_GPQ.VALUE pq
  if thr < pq then
    let g := d.rd R.SHR_GSCALE.VALUE
    let o := pq - rshRound (g * d.shr.lastD) 30
    let gn : Int := if 0 < d.shr.lastD then max 0 (divz ((thr - o) * 2 ^ 30) d.shr.lastD) else 0
    if gn < g then
      let d := (d.wr R.SHR_GSCALE.VALUE gn.toNat).wr R.SHR_STAT.GUARD 1
      if g = 2 ^ 30 ∧ d.shr.episode = none then ({ d with shr := { d.shr with episode := some x.inst } }).raise 35 0 [gn.toNat] else d
    else d
  else d

/-! ## The latch (R236, R238, R239) -/

/-- The hand-off, when S lies at or after its frame boundary (R220, R234). -/
def Dev.handOff (d : Dev) : Dev :=
  match d.shr.hand with
  | some t0 =>
    if t0 ≤ 5 * d.pwm.lastS / 2 then
      let d := { d with shr := { d.shr with hand := none } }
      match d.shr.comp with
      | some c =>
        if c.frame + 1 = t0 / 1000000 then
          let d := { d with shr := { d.shr with force := c } }
          match d.shr.episode with
          | some e =>
            if e + 1000000 ≤ c.frame * 1000000 then
              let d := { d with shr := { d.shr with episode := none, win := [] } }
              ((d.wr R.SHR_GSCALE.VALUE (2 ^ 30)).wr R.SHR_STAT.GUARD 0).raise 35 1 []
            else d
          | none => d
        else d
      | none => d
    else d
  | none => d

/-- Guard samples due at the latch, in sample-count order (R233). -/
def Dev.guardAtLatch (d : Dev) : Dev :=
  let s := 5 * d.pwm.lastS / 2
  let due := d.shr.waiting.filter (fun x => decide (x.due ≤ s))
  ({ d with shr := { d.shr with waiting := d.shr.waiting.filter (fun x => decide (s < x.due)) } }).forAll due Dev.guardSample

/-- Table 11-4. -/
def dampBy (pd ga pc tl h k : Int) (guarded : Bool) : Nat :=
  if noLimit ≤ pd then 0
  else if max 0 ga = pd then (if guarded then 2 else 1)
  else if max 0 pc = pd then 3 else if max 0 tl = pd then 4 else if max 0 h = pd then 5 else if max 0 k = pd then 6 else 0

/-- The damper of one output (R236). -/
def Dev.dampOne (d : Dev) (n : Nat) : Dev :=
  let g := d.rd R.SHR_GSCALE.VALUE
  let a : Int := numAt d.shr.force.a n
  let ga := rshRound (a * g) 30
  let pc := d.cableLimit n
  let tl := d.thermalLimit n
  let h := d.hostLimit n
  let k := d.coilLimit n
  let pd := max 0 (min ga (min pc (min tl (min h k))))
  let d := d.wr (R.SHR_DAMPSRC.BY n) (dampBy pd ga pc tl h k (decide (g < 2 ^ 30)))
  ((d.putSig (0x1F0 + 4 * n) (min pd noLimit)).putSig (0x1F1 + 4 * n) (sat a 32)).putSig (0x1F2 + 4 * n) g

/-- The damper composed at the latch (R236 to R239). -/
def Dev.damperLatch (d : Dev) : Dev :=
  let d := ((d.guardSync.handOff).guardAtLatch).derateSync
  let d := d.forAll [0, 1, 2, 3] Dev.dampOne
  let total : Int := (d.shr.force.a.foldl (· + ·) 0 + d.shr.force.c : Nat)
  let imp := sat (rshRound (total * d.rd R.SHR_GSCALE.VALUE) 30 - d.shr.force.disc) 32
  (d.forAll [0, 1, 2, 3] (fun d n => d.putSig (0x1F3 + 4 * n) imp)).wrS R.SHR_IMPORT.VALUE imp

/-! ## Module routing (R240) -/

/-- Module records of blocks whose OUTMASK names a single output, with that output. -/
def Dev.routable (d : Dev) : List (ModRec × Nat) :=
  d.act.mods.filterMap (fun m => match [0, 1, 2, 3].filter (testBit (d.detBlk m.blk).outmask) with | [n] => some (m, n) | _ => none)

/-- Groups that appear in more than one such block. -/
def Dev.routeGroups (d : Dev) : List Nat :=
  (List.range 20).filter (fun g => decide (2 ≤ (d.routable.filter (fun q => q.1.group == g)).length))

/-- The module is routed to its record's output. -/
def Dev.routed (d : Dev) (m : ModRec) : Bool := testBit (d.activeMods m.blk) m.mod && !testBit (d.lost m.blk) m.mod

/-- SEQn of a group. -/
def Dev.rtSeq (d : Dev) (g n : Nat) : Nat :=
  match n with
  | 0 => d.rd (R.SHR_RTMAP.SEQ0 g) | 1 => d.rd (R.SHR_RTMAP.SEQ1 g) | 2 => d.rd (R.SHR_RTMAP.SEQ2 g) | _ => d.rd (R.SHR_RTMAP.SEQ3 g)

/-- need_n less routed_n. -/
def Dev.rtDeficit (d : Dev) (n : Nat) : Int :=
  let unit := max 1 (d.rd R.SHR_RTCFG.PMOD) * 1000
  let need := (d.rd (R.SHR_REQSENT.W n) + unit - 1) / unit
  (need : Int) - ((d.routable.filter (fun q => q.2 == n && d.routed q.1)).length : Nat)

/-- The variant of a block without or with a module, chosen as in R168. -/
def Dev.moduleVariant (d : Dev) (b mod : Nat) (withIt : Bool) : Option Nat :=
  let x := d.dblk b
  let count := if withIt then popcount (d.attr b x.active).active + 1 else popcount (d.attr b x.active).active - 1
  let cand := d.act.attrs.filter (fun a => a.blk == b && decide (Nat.land a.active (d.lost b) = 0) && a.excl == (d.attr b x.active).excl &&
    testBit a.active mod == withIt)
  let pick : List VarAttr → Option Nat := fun as => match as with
    | [] => none
    | a :: rest => some (rest.foldl (fun m (z : VarAttr) => min m z.index) a.index)
  (pick (cand.filter (fun (a : VarAttr) => popcount a.active == count))).or
    (match cand.filter (fun (a : VarAttr) => decide (count < popcount a.active)) with
     | [] => none
     | a :: rest =>
       let m := rest.foldl (fun m (z : VarAttr) => min m (popcount z.active)) (popcount a.active)
       pick ((a :: rest).filter (fun (z : VarAttr) => popcount z.active == m)))

/-- A software variant request of the FMP (R156). -/
def Dev.requestKey (d : Dev) (b key : Nat) : Dev := d.varReq b (key * 65536 + 1)

/-- The routing module of a group for an output. -/
def Dev.routeMod (d : Dev) (g n : Nat) : Option ModRec := (d.routable.find? (fun q => q.1.group == g && q.2 == n)).map (·.1)

/-- The phase of the step, with zero-current time restarted. -/
def Dev.rtPhase (d : Dev) (p : Nat) : Dev := { d with rt := { d.rt with zeroAt := none } }.wr R.SHR_RTSTAT.PHASE p

/-- A step that ends without its module (event 35 KIND 5). -/
def Dev.rtAbandon (d : Dev) : Dev :=
  (d.rtPhase 0).raise 35 5 [d.rd R.SHR_RTSTAT.GROUP, d.rd R.SHR_RTSTAT.FROM, d.rd R.SHR_RTSTAT.TO]

/-- The output of the first of the largest values. -/
def argMax (xs : List (Nat × Int)) : Option Nat :=
  match xs with
  | [] => none
  | x :: rest => some (rest.foldl (fun a b => if a.2 < b.2 then b else a) x).1

/-- ROUTING_PLAN (R240). -/
def Dev.routePlan (d : Dev) : Dev :=
  if d.on R.SHR_RTCFG.EN && (d.mode = .active || d.mode = .derate || d.mode = .autonomous) && decide (d.rd R.SHR_RTSTAT.PHASE = 0) && !d.pw.fmpRestart then
    match argMax (([0, 1, 2, 3].map (fun n => (n, d.rtDeficit n))).filter (fun x => decide (0 < x.2))) with
    | none => d
    | some rcv =>
      let movable := d.routeGroups.filterMap (fun g =>
        if d.rtSeq g rcv = 0x3F then none
        else ((d.routable.find? (fun q => q.1.group == g && d.routed q.1)).map (fun q => (g, q.2))))
      let donors := ([0, 1, 2, 3].filter (fun n => movable.any (fun x => x.2 == n) && decide (n ≠ rcv) && decide (d.rtDeficit n < 0))).map
        (fun n => (n, -(d.rtDeficit n)))
      match argMax donors with
      | none => d
      | some frm =>
        match movable.find? (fun x => x.2 == frm) with
        | none => d
        | some (g, _) =>
          match d.routeMod g frm, d.routeMod g rcv with
          | some m, some m' =>
            match d.moduleVariant m.blk m.mod false with
            | some v =>
              let d := { d with rt := { prevKey := d.keyOf m.blk (d.dblk m.blk).active, donor := m.blk, receiver := m'.blk } }
              let d := d.wrAll [(R.SHR_RTSTAT.PHASE, 1), (R.SHR_RTSTAT.TO, rcv), (R.SHR_RTSTAT.FROM, frm), (R.SHR_RTSTAT.GROUP, g)]
              d.requestKey m.blk (d.keyOf m.blk v)
            | none => d
          | _, _ => d
  else d

/-- The module's current: the sum of the sensed leg currents of its record. -/
def Dev.moduleCurrent (d : Dev) (m : ModRec) : Int := sumInt ((m.il.filter (fun i => decide (i ≠ 0xFF))).map d.snapAt)

/-- SWITCH (Table 11-5): the routing sequence is started. -/
def Dev.rtSwitch (d : Dev) : Dev :=
  let d := d.rtPhase 3
  let (d, e) := d.ctrStart (d.rtSeq (d.rd R.SHR_RTSTAT.GROUP) (d.rd R.SHR_RTSTAT.TO))
  match e with
  | some _ => { d with rt := { d.rt with engine := e, seqDone := false, seqFail := false } }
  | none => d.rtAbandon

/-- A routing step at W: phase 2 waits for 1 ms without current (Table 11-5). -/
def Dev.routeAtW (d : Dev) : Dev :=
  if d.rd R.SHR_RTSTAT.PHASE = 2 ∧ d.pw.fmpRestart = false then
    match d.routeMod (d.rd R.SHR_RTSTAT.GROUP) (d.rd R.SHR_RTSTAT.FROM) with
    | some m =>
      if (d.moduleCurrent m).natAbs ≤ d.rd R.SHR_RTIZ.IZERO then
        match d.rt.zeroAt with
        | some t => if t + 1000000 ≤ d.stcNs then d.rtSwitch else d
        | none => { d with rt := { d.rt with zeroAt := some d.stcNs } }
      else { d with rt := { d.rt with zeroAt := none } }
    | none => d
  else d

/-- A routing step at S, after variant changes (Table 11-5). -/
def Dev.routeAtS (d : Dev) : Dev :=
  if d.pw.fmpRestart then d
  else match d.rd R.SHR_RTSTAT.PHASE with
    | 1 =>
      match d.routeMod (d.rd R.SHR_RTSTAT.GROUP) (d.rd R.SHR_RTSTAT.FROM) with
      | some m => if testBit (d.activeMods m.blk) m.mod then d else d.rtPhase 2
      | none => d
    | 3 =>
      if d.rt.seqFail then d.rtAbandon
      else if d.rt.seqDone then
        match d.routeMod (d.rd R.SHR_RTSTAT.GROUP) (d.rd R.SHR_RTSTAT.TO) with
        | some m =>
          match d.moduleVariant m.blk m.mod true with
          | some v => (d.rtPhase 4).requestKey m.blk (d.keyOf m.blk v)
          | none => d.rtAbandon
        | none => d
      else d
    | 4 =>
      match d.routeMod (d.rd R.SHR_RTSTAT.GROUP) (d.rd R.SHR_RTSTAT.TO) with
      | some m =>
        if testBit (d.activeMods m.blk) m.mod then
          ((d.rtPhase 0).bump R.SHR_RTSTAT.STEPS).raise 35 4 [d.rd R.SHR_RTSTAT.GROUP, d.rd R.SHR_RTSTAT.FROM, d.rd R.SHR_RTSTAT.TO]
        else d
      | none => d
    | _ => d

/-- ROUTING_ZERO_TIMEOUT (Table 11-5). -/
def Dev.routeTimeout (d : Dev) : Dev :=
  if d.rd R.SHR_RTSTAT.PHASE = 2 then (d.requestKey d.rt.donor d.rt.prevKey).rtAbandon else d

/-- The next whole 100 ms of the STC. -/
def Dev.next100ms (d : Dev) : Nat := (d.tm.q + 39999999) / 40000000 * 40000000

/-! ## Meanings -/

/-- SHR_NEXTAT_ARM (R219): the value written to SHR_NEXTAT_HI. -/
def execShrNextatArm (value : Nat) (s : State) : Host.Outcome State Fault Refusal :=
  done s (fun d => if d.domOn .f4 then d.nextatWrite value else d)

/-- THERMAL_DERATE_STEP (R237). -/
def execThermalDerateStep (s : State) : Host.Outcome State Fault Refusal :=
  done s (fun d => if d.domOn .f4 then (d.advanceTo d.next100ms).derateStep else d)

/-- ROUTING_PLAN (R240). -/
def execRoutingPlan (s : State) : Host.Outcome State Fault Refusal :=
  done s (fun d => if d.domOn .f4 then (d.advanceTo d.next100ms).routePlan else d)

/-- ROUTING_ZERO_TIMEOUT (R240). -/
def execRoutingZeroTimeout (s : State) : Host.Outcome State Fault Refusal :=
  done s (fun d => if d.domOn .f4 then d.routeTimeout else d)

end Sys2Proof.Machine
end

