-- ==== Sys2Proof/Machine/Metrology.lean ====
section
/-! DEFINITION. Metrology (chapter 13): modulator health conditions (R197, R198), sources and switchover, quantities, energy
accumulators, test outputs and the legally relevant software. -/

namespace Sys2Proof.Machine

/-- The largest m with m · m ≤ n, for n below 2^160. -/
def isqrtWide (n : Nat) : Nat :=
  (List.range 80).foldl (fun m k => let c := m + 2 ^ (79 - k); if c * c ≤ n then c else m) 0

/-! ## Sources (R260 to R268) -/

/-- The main and the fallback record of a channel among the records in force. -/
def Metr.mainRec (m : Metr) (c : Nat) : Option MeasRec := m.recs.find? (fun r => r.path == 1 && r.slot == c)

def Metr.fbRec (m : Metr) (c : Nat) : Option MeasRec := m.recs.find? (fun r => r.path == 2 && r.slot == c)

/-- The channel has a source. -/
def Metr.hasSource (m : Metr) (c : Nat) : Bool := (m.mainRec c).isSome || (m.fbRec c).isSome

/-- The source of channel `c` for instant `t`: 0 main, 1 fallback, 2 none (R263 to R265). -/
def Metr.source (m : Metr) (c t : Nat) : Nat :=
  match m.mainRec c, m.fbRec c with
  | none, none => 2
  | none, some _ => 1
  | some _, none => 0
  | some _, some _ =>
    let from' := match m.fbFrom.getD c none with | some f => decide (f ≤ t) | none => false
    let back := match m.retAt.getD c none with | some r => decide (r ≤ t) | none => false
    if from' && !back then 1 else 0

/-- Bit of an input in MOD_HSTAT. -/
def Dev.modFaulty (d : Dev) (j : Nat) : Bool := testBit (d.rd (R.MOD_HSTAT.IN (j / 32))) (j % 32)

/-- Channels whose main source is a modulator input. -/
def Metr.channelsOf (m : Metr) (j : Nat) : List Nat :=
  (List.range 16).filter (fun c => match m.mainRec c with | some r => r.src == 0 && r.index == j | none => false)

/-- A condition has become present on input `j` (R264, R266). -/
def Dev.metFault (d : Dev) (j : Nat) : Dev :=
  d.forAll (d.met.channelsOf j) (fun d c =>
    if (d.met.fbRec c).isSome then
      let running := (d.met.fbFrom.getD c none).isSome && (d.met.retAt.getD c none).isNone
      if running then d
      else { d with met := { d.met with fbFrom := setAt d.met.fbFrom c (some (d.stcNs - 1000000)), retAt := setAt d.met.retAt c none } }
    else if d.met.suspect.getD c false then d
    else ({ d with met := { d.met with suspect := setAt d.met.suspect c true } }).raise 40 2 [c, d.stcNs % 2 ^ 32, d.stcNs / 2 ^ 32])

/-- The last condition of input `j` has ended (R266). -/
def Dev.metClear (d : Dev) (j : Nat) : Dev :=
  d.forAll (d.met.channelsOf j) (fun d c => { d with met := { d.met with suspect := setAt d.met.suspect c false } })

/-- METROLOGY_RETURN_WAIT (R265): T_r is now, when the input's bit is clear. -/
def Dev.metReturn (d : Dev) (c : Nat) : Dev :=
  match d.met.mainRec c with
  | none => d
  | some r =>
    if (d.met.fbFrom.getD c none).isSome && (d.met.retAt.getD c none).isNone && !d.modFaulty r.index then
      { d with met := { d.met with retAt := setAt d.met.retAt c (some d.stcNs) } }
    else d

/-- Metering records of a stream that becomes active (R268). -/
def Dev.metRecsFrom (d : Dev) (ns : Nat) (swap : Bool) : Dev :=
  { d with met := { d.met with due := some (ns, d.act.meas.filter (fun r => decide (1 ≤ r.path)), swap) } }

/-- A channel's fallback interval at a change of its records: it goes on only where both sources stay and the input is the same;
a condition present on a new input begins one. -/
def Dev.metCarry (d : Dev) (old new : Metr) (c t : Nat) : Option Nat :=
  match new.mainRec c, new.fbRec c with
  | some r, some _ =>
    let same := match old.mainRec c with | some r0 => r0.index == r.index && (old.fbRec c).isSome | none => false
    if same then old.fbFrom.getD c none else if d.modFaulty r.index then some t else none
  | _, _ => none

/-- Records that are due at instant `t` take over; the Bools say which channels' records changed by a swap (R268). -/
def Dev.metTake (d : Dev) (t : Nat) : Dev × List Bool :=
  match d.met.due with
  | some (at', recs, swap) =>
    if at' ≤ t then
      let old := d.met
      let new := { old with recs := recs, due := none }
      let changed := (List.range 16).map (fun c => swap && decide (old.mainRec c ≠ new.mainRec c ∨ old.fbRec c ≠ new.fbRec c))
      let new := { new with fbFrom := (List.range 16).map (fun c => d.metCarry old new c t),
                            suspect := (List.range 16).map (fun c => old.suspect.getD c false && decide (old.mainRec c = new.mainRec c)),
                            src := if swap then old.src else (List.range 16).map (fun c => new.source c t) }
      ({ d with met := new }, changed)
    else (d, List.replicate 16 false)
  | none => (d, List.replicate 16 false)

/-! ## Samples -/

/-- The nearest pair of fallback samples around `t`, newest first: the newest at or before `t` and the oldest after it. -/
def bracket (t : Nat) : List FbSample → Option FbSample → Option (FbSample × FbSample)
  | [], _ => none
  | x :: xs, b => if t < x.stamp then bracket t xs (some x) else b.map (fun y => (x, y))

/-- Interpolation of R262 between two values. -/
def interpolate (t : Nat) (a b : FbSample) (xa xb : Int) : Int :=
  let fr := divz (((t - a.stamp : Nat) : Int) * 65536) ((b.stamp - a.stamp : Nat) : Int)
  if fr = 0 then xa else sat (xa + rshRound ((xb - xa) * fr) 16) 32

/-- The fallback sample for `t`: a free value where no pair brackets it; the Bool says full scale (R266). -/
def Dev.fbSampleAt (d : Dev) (m : MeasRec) (t : Nat) : Int × Bool × Dev :=
  match bracket t (d.fba.hist.getD m.index []) none with
  | some (a, b) => (interpolate t a b (measValue m a.value).1 (measValue m b.value).1, a.full || (b.full && decide (a.stamp < t)), d)
  | none => let (v, d) := d.drawFree (2 ^ 32); (signed v 32, false, d)

/-- One channel's sample for `t`, with its flags (bit numbers of MET_CHSTAT); a switch is counted and reported (R265). -/
def Dev.metSample (d : Dev) (c t : Nat) (raw : Int) (cfg : Bool) : Int × Nat × Dev :=
  let m := d.met
  let s := m.source c t
  let r := match s with
    | 0 => (match m.mainRec c with | some r => (measValue r (wrap raw 32)).1 | none => 0, false, d)
    | 1 => (match m.fbRec c with | some r => d.fbSampleAt r t | none => (0, false, d))
    | _ => (0, false, d)
  let x := r.1
  let ovr := r.2.1
  let d := r.2.2
  let fbOnly := (m.mainRec c).isNone && (m.fbRec c).isSome
  let flags := 2 * b2n (decide (s = 1)) + 4 * b2n (decide (s = 0) && m.suspect.getD c false) + 8 * b2n ovr + 16 * b2n (!d.on R.MET_LRCTL.RUN) +
    32 * b2n cfg + 64 * b2n fbOnly + 128 * b2n (decide (s = 2))
  let was := numAt m.src c
  let d := { d with met := { d.met with src := setAt m.src c s } }
  let d := d.wr (R.MET_CHSTAT.SRC c) (b2n (decide (s = 1)))
  if was = s then (x, flags, d)
  else (x, flags, (d.bump (R.MET_CHSTAT.SWITCHES c)).raise 40 (if s = 0 then 1 else 0) [c, t % 2 ^ 32, t / 2 ^ 32])

/-- One more channel's sample behind those before it. -/
def metSampleNext (t : Nat) (raw : List Int) (changed : List Bool) (acc : List Int × List Nat × Dev) (c : Nat) : List Int × List Nat × Dev :=
  let r := acc.2.2.metSample c t (raw.getD c 0) (changed.getD c false)
  (acc.1 ++ [r.1], acc.2.1 ++ [r.2.1], r.2.2)

/-- The samples of all channels for `t`, channel 7 not used. -/
def Dev.metSamples (d : Dev) (t : Nat) (raw : List Int) (changed : List Bool) : List Int × List Nat × Dev :=
  (List.range 16).foldl (metSampleNext t raw changed) ([], [], d)

/-! ## Energy (R269 to R273) -/

/-- What a register's MODE adds of an increment (R272). -/
def modeDelta (mode : Nat) (x : Int) : Int :=
  match mode with
  | 0 => x
  | 1 => x.natAbs
  | 2 => if 0 < x then x else 0
  | _ => if x < 0 then -x else 0

/-- An increment added to a 96-bit accumulator; the spec states no sum beyond 96 bits (a free value). -/
def Dev.accAdd (d : Dev) (e : Nat) (x : Int) : Dev :=
  let s := d.met.acc.getD e 0 + x
  if s = sat s 96 then { d with met := { d.met with acc := setAt d.met.acc e s } }
  else
    let r := d.drawFree (2 ^ 96)
    let d := r.2
    { d with met := { d.met with acc := setAt d.met.acc e (signed r.1 96) } }

/-- Energy register `e` as read: floor(acc, 288 · 10^9), 64 bits, saturating by its type (R272). -/
def Dev.energyRead (d : Dev) (e : Nat) : Nat :=
  let v := Int.fdiv (d.met.acc.getD e 0) 288000000000
  if d.rd (R.MET_ECFG.MODE e) = 0 then unsigned (sat v 64) 64 else (clampInt v 0 (2 ^ 64 - 1)).toNat

/-- No-load of a current channel in the present window (R271). -/
def Dev.noLoad (d : Dev) (c : Nat) : Bool := d.on (R.MET_CHSTAT.NOLOAD c)

/-- The products of one instant: p, q and d of R269, and the increments they give after no-load. -/
structure Products where
  p : List Int := []
  q : List Int := []
  out : List Int := []
  deriving DecidableEq, Repr

/-- p, q and d of an instant from its samples, Hilbert outputs and delayed currents. -/
def products (x vh idel : List Int) : Products :=
  { p := (List.range 3).map (fun k => x.getD k 0 * x.getD (k + 3) 0), q := (List.range 3).map (fun k => vh.getD k 0 * idel.getD k 0),
    out := (List.range 4).map (fun n => x.getD (8 + 2 * n) 0 * x.getD (9 + 2 * n) 0) }

/-- Products with those of currents in no-load discarded. -/
def Dev.loaded (d : Dev) (w : Products) : Products :=
  { p := (List.range 3).map (fun k => if d.noLoad (3 + k) then 0 else w.p.getD k 0),
    q := (List.range 3).map (fun k => if d.noLoad (3 + k) then 0 else w.q.getD k 0),
    out := (List.range 4).map (fun n => if d.noLoad (9 + 2 * n) then 0 else w.out.getD n 0) }

/-- Window increments of set `k`: |Q_w| for the quadrant's register and S_w (R270). -/
def quadrantIncs (k : Nat) (pw qw : Int) (sw : Nat) : List (Nat × Int) :=
  let quad := if 0 ≤ qw then (if 0 ≤ pw then 0 else 1) else (if pw < 0 then 2 else 3)
  [(7 * k + 2 + quad, (qw.natAbs : Int)), (7 * k + 6, (sw : Int))]

/-- S_w of each phase, 0 in no-load. -/
def Dev.apparent (d : Dev) : List Nat :=
  (List.range 3).map (fun k => if d.noLoad (3 + k) then 0 else isqrtWide (numAt d.met.sumSq k * numAt d.met.sumSq (k + 3)))

/-- All window increments at the window's last instant. -/
def Dev.windowIncs (d : Dev) : List (Nat × Int) :=
  let s := d.apparent
  ((List.range 3).flatMap (fun k => quadrantIncs k (d.met.sumP.getD k 0) (d.met.sumQ.getD k 0) (numAt s k))) ++
    quadrantIncs 3 (sumInt d.met.sumP) (sumInt d.met.sumQ) (s.foldl (· + ·) 0)

/-- The increments of one instant by register, before MODE. -/
def instantIncs (w : Products) : List (Nat × Int) :=
  ((List.range 3).flatMap (fun k => [(7 * k, w.p.getD k 0), (7 * k + 1, w.p.getD k 0)])) ++ [(21, sumInt w.p), (22, sumInt w.p)] ++
    ((List.range 4).flatMap (fun n => [(28 + 2 * n, w.out.getD n 0), (29 + 2 * n, w.out.getD n 0)]))

/-! ## Test outputs (R276 to R278) -/

/-- SRC names a NET_SIGNED register: EN reads back 0 and SRCBAD 1 (R276). -/
def Dev.tpCheck (d : Dev) (k : Nat) : Dev :=
  let bad := decide (d.rd (R.MET_ECFG.MODE (d.rd (R.MET_TPCFG.SRC k))) = 0)
  let d := d.wrB (R.MET_TPCFG.SRCBAD k) bad
  if bad then d.wr (R.MET_TPCFG.EN k) 0 else d

def Dev.testOut (d : Dev) (k : Nat) : TestOut := d.met.tp.getD k {}

def Dev.setTestOut (d : Dev) (k : Nat) (t : TestOut) : Dev := { d with met := { d.met with tp := setAt d.met.tp k t } }

/-- One processed instant of a test output (R276). -/
def Dev.tpRun (d : Dev) (k inc : Nat) : Dev :=
  if d.on (R.MET_TPCFG.EN k) then
    let t := d.testOut k
    let thr := 288000000000000000 / max 1 (d.rd (R.MET_TPCONST.C k))
    let acc := t.acc + inc
    let owed := d.rd (R.MET_TPSTAT.OWED k) + acc / thr
    let last := (inc :: t.last).take 8
    let sat0 := d.on (R.MET_TPSTAT.SAT k)
    let ovr := decide (4095 < owed)
    let d := if ovr then d.bumpBy (R.MET_TPCNT.DROPPED k) (owed - 4095) else d
    let owed := min 4095 owed
    let sat1 := ovr || sat0
    let e1 := last.foldl (· + ·) 0
    let test := thr * 1000 / e1
    let w := if e1 = 0 ∨ 4000 ≤ test then 2000 else if 20 ≤ test then test / 2 else 10
    let sat2 := sat1 || (decide (e1 ≠ 0) && decide (test < 20))
    let sat3 := if e1 ≠ 0 ∧ sat2 = true ∧ 20 ≤ test ∧ owed = 0 then false else sat2
    let d := (d.setTestOut k { t with acc := acc % thr, last := last }).wrAll
      [(R.MET_TPSTAT.OWED k, owed), (R.MET_TPSTAT.WIDTH k, w), (R.MET_TPSTAT.SAT k, b2n sat3)]
    if sat0 = sat3 then d else d.raise 41 (if sat3 then 0 else 1) [k]
  else d

/-- TEST_PULSE_START (R277): the first whole µs with a pulse owed, the output low and the spacing met. -/
def Dev.tpStart (d : Dev) (k : Nat) : Dev :=
  let t := d.testOut k
  let now := (d.stcNs + 999) / 1000
  let w := d.rd (R.MET_TPSTAT.WIDTH k)
  let spaced := match t.start with | some s => decide (s + 2 * w ≤ now) | none => true
  if d.on (R.MET_TPCFG.EN k) && decide (0 < d.rd (R.MET_TPSTAT.OWED k)) && t.high.isNone && spaced then
    ((d.advanceTo (stepsOfNs (1000 * now))).setTestOut k { t with start := some now, high := some (now + w) }).wr (R.MET_TPSTAT.OWED k)
      (d.rd (R.MET_TPSTAT.OWED k) - 1)
  else d

/-- TEST_PULSE_END (R277). -/
def Dev.tpEnd (d : Dev) (k : Nat) : Dev :=
  let t := d.testOut k
  match t.high with
  | some e => (d.advanceTo (stepsOfNs (1000 * e))).setTestOut k { t with high := none }
  | none => d

/-- A write to MET_TPCFG or MET_TPCONST (R278); refused with the seal set (R273). -/
def Dev.tpWrite (d : Dev) (k : Nat) (isConst : Bool) (v : Nat) : Dev :=
  if d.rwlSealed then d
  else
    let d := if isConst then d.wr (R.MET_TPCONST.C k) (clampNat (bits v 19 0) 1 1000000)
      else (d.wr (R.MET_TPCFG.SRC k) (min 35 (bits v 7 2))).wr (R.MET_TPCFG.EN k) (bit v 0)
    ((d.setTestOut k { d.testOut k with acc := 0, high := none }).wr (R.MET_TPSTAT.OWED k) 0).tpCheck k

/-- Level of MET_TPk. -/
def Dev.metTpPad (d : Dev) (k : Nat) : Bool := d.domOn .f4 && d.on (R.MET_TPCFG.EN k) && (d.testOut k).high.isSome

/-! ## One instant -/

/-- The instant to process next: the first multiple of 125 µs whose processing time, 1.000 ms later, has not passed and that
was not processed last (R262). -/
def Dev.metNext (d : Dev) : Nat :=
  let t := (d.stcNs - 1000000 + 124999) / 125000 * 125000
  if d.met.last = some t then t + 125000 else t

/-- Whether metrology runs (R25, R43). -/
def Dev.metRuns (d : Dev) : Bool := d.domOn .f1 && d.domOn .f4 && decide (d.mode ≠ .dormant) && decide (d.rd R.MET_CTL.STATUS ≠ 0)

/-- Sums of the present window with one more instant. -/
def Dev.windowAdd (d : Dev) (x : List Int) (flags : List Nat) (w raw : Products) : Dev :=
  let m := d.met
  let m' := { m with
    n := m.n + 1,
    flags := (List.range 16).map (fun c => Nat.lor (numAt m.flags c) (numAt flags c)),
    sumAbs := (List.range 16).map (fun c => numAt m.sumAbs c + (x.getD c 0).natAbs),
    sumSq := (List.range 16).map (fun c => numAt m.sumSq c + (x.getD c 0).natAbs ^ 2),
    sumP := (List.range 3).map (fun k => m.sumP.getD k 0 + w.p.getD k 0),
    sumQ := (List.range 3).map (fun k => m.sumQ.getD k 0 + w.q.getD k 0),
    sumD := (List.range 4).map (fun n => m.sumD.getD n 0 + raw.out.getD n 0) }
  { d with met := m' }

/-- The end of a window (R267, R270, R271): flags and rms shown, no-load set for the next window, sums cleared. -/
def Dev.windowClose (d : Dev) : Dev :=
  let d := d.forAll (List.range 16) (fun d c =>
    let f := numAt d.met.flags c
    let d := d.wrAll [(R.MET_CHSTAT.FB c, bit f 1), (R.MET_CHSTAT.SUSPECT c, bit f 2), (R.MET_CHSTAT.OVR c, bit f 3), (R.MET_CHSTAT.RESTART c, bit f 4),
      (R.MET_CHSTAT.CFG c, bit f 5), (R.MET_CHSTAT.FBONLY c, bit f 6), (R.MET_CHSTAT.NOSRC c, bit f 7), (R.MET_CHRMS.RMS c, isqrtWide (numAt d.met.sumSq c / 800))]
    if (3 ≤ c ∧ c ≤ 5) ∨ (9 ≤ c ∧ c % 2 = 1) then d.wr (R.MET_CHSTAT.NOLOAD c) (b2n (decide (numAt d.met.sumAbs c < d.met.n * d.rd (R.MET_CHCFG.NL c)))) else d)
  let z := List.replicate 16 0
  let m := { d.met with flags := z, n := 0, sumAbs := z, sumSq := z, sumP := [0, 0, 0], sumQ := [0, 0, 0], sumD := [0, 0, 0, 0] }
  { d with met := m }

/-- Increments applied to the accumulators by MODE, and to the test outputs. -/
def Dev.applyIncs (d : Dev) (incs : List (Nat × Int)) : Dev :=
  let adds := incs.map (fun q => (q.1, modeDelta (d.rd (R.MET_ECFG.MODE q.1)) q.2))
  let d := d.forAll adds (fun d q => d.accAdd q.1 q.2)
  d.forAll [0, 1, 2, 3] (fun d k =>
    let src := d.rd (R.MET_TPCFG.SRC k)
    d.tpRun k ((adds.filter (fun q => q.1 == src)).map (fun q => q.2.toNat) |>.foldl (· + ·) 0))

/-! ## Processor and legally relevant software (R279 to R281) -/

/-- The metrology processor stops (R280). -/
def Dev.metStop (d : Dev) : Dev := if d.on R.MET_LRCTL.RUN then (d.wr R.MET_LRCTL.RUN 0).raise 42 0 [d.stcNs % 2 ^ 32, d.stcNs / 2 ^ 32] else d

/-- The identifiers of the image that runs (R279). -/
def Dev.lrShow (d : Dev) (x : LrImg) : Dev :=
  ((d.wrAll [(R.MET_LRVER.MAJOR, bits x.ver 31 24), (R.MET_LRVER.MINOR, bits x.ver 23 16), (R.MET_LRVER.BUILD, bits x.ver 15 0)]).wrWords R.MET_LRSUM.SUM
    (padTo x.sum 48)).wr R.MET_LRMINSVN.SVN d.bst.lrMin

/-- The metrology processor runs: the image its ROM has summed is the staged one during a switch, otherwise the one in NOR. -/
def Dev.metStart (d : Dev) : Dev :=
  if d.on R.MET_LRCTL.RUN then d
  else
    let img := if d.rd R.MET_LRCTL.STATE = 2 then d.met.staged.getD d.bst.lr else d.bst.lr
    ((d.lrShow img).wr R.MET_LRCTL.RUN 1).raise 42 1 [d.stcNs % 2 ^ 32, d.stcNs / 2 ^ 32]

/-- LR_ACTIVATE (R281): refusals in the order of its list. -/
def Dev.lrActivate (d : Dev) (key : Nat) : Dev :=
  if key ≠ 0x4C52 then d
  else
    let openAny := d.bil.sess.any (fun x => x.isOpen)
    let st := d.rd R.MET_LRCTL.STATE
    let code :=
      if st = 2 then 4 else if openAny then 1
      else match d.met.staged with
        | none => 2
        | some x => if x.svn < d.rd R.MET_LRMINSVN.SVN then 3 else 0
    let d := d.wr R.MET_LRCTL.CODE code
    if code ≠ 0 then d.raise 43 1 [code] else (d.wr R.MET_LRCTL.STATE 2).metStop

/-! ## Meanings -/

/-- One condition present on one input (R198). -/
def Dev.modPresent (d : Dev) (kind j : Nat) : Dev :=
  let f := if kind = 0 then R.MOD_INSTAT.STUCK j else if kind = 1 then R.MOD_INSTAT.SAT j else R.MOD_INSTAT.CLKF j
  if d.on f || !d.on (R.MOD_INSTAT.USED j) then d
  else
    let d := d.wr f 1
    let d := d.wr (R.MOD_HSTAT.IN (j / 32)) (setBit (d.rd (R.MOD_HSTAT.IN (j / 32))) (j % 32))
    let d := d.wr (R.MOD_HLATCH.IN (j / 32)) (setBit (d.rd (R.MOD_HLATCH.IN (j / 32))) (j % 32))
    ((d.bump R.MOD_CNT.FAULTS).raise 24 kind [j]).metFault j

/-- One condition ended on one input (R197, R198). -/
def Dev.modEnded (d : Dev) (kind j : Nat) : Dev :=
  let f := if kind = 0 then R.MOD_INSTAT.STUCK j else if kind = 1 then R.MOD_INSTAT.SAT j else R.MOD_INSTAT.CLKF j
  if d.on f then
    let d := d.wr f 0
    if d.on (R.MOD_INSTAT.STUCK j) || d.on (R.MOD_INSTAT.SAT j) || d.on (R.MOD_INSTAT.CLKF j) then d
    else ((d.wr (R.MOD_HSTAT.IN (j / 32)) (clearBit (d.rd (R.MOD_HSTAT.IN (j / 32))) (j % 32))).raise 25 0 [j]).metClear j
  else d

/-- Inputs that a condition concerns: the one named, or for CLK every input in use on its clock (R197). -/
def Dev.modGroup (d : Dev) (kind j : Nat) : List Nat :=
  if kind = 2 then (List.range 128).filter (fun i => d.on (R.MOD_INSTAT.USED i) && decide (d.rd (R.MOD_INSTAT.CLK i) = d.rd (R.MOD_INSTAT.CLK j))) else [j]

/-- The CLK bit of a clock in MOD_CLKSTAT. -/
def Dev.modClk (d : Dev) (kind j : Nat) (on : Bool) : Dev :=
  if kind = 2 then
    let k := d.rd (R.MOD_INSTAT.CLK j)
    let w := d.rd R.MOD_CLKSTAT.FAULT
    d.wr R.MOD_CLKSTAT.FAULT (if on then setBit w k else clearBit w k)
  else d

/-- MOD_CONDITION_PRESENT (R197, R198): kind 0 STUCK, 1 SAT, 2 CLK. -/
def execModConditionPresent (kind : Fin 3) (index : Fin 128) (s : State) : Host.Outcome State Fault Refusal :=
  done s (fun d => if d.domOn .f4 then (d.modClk kind index true).forAll (d.modGroup kind index) (fun d j => d.modPresent kind j) else d)

/-- MOD_CONDITION_END (R197); a condition that an injection holds present does not end. -/
def execModConditionEnd (kind : Fin 3) (index : Fin 128) (s : State) : Host.Outcome State Fault Refusal :=
  done s (fun d => if d.domOn .f4 && !d.isInjected 3 index then
      (d.modClk kind index false).forAll (d.modGroup kind index) (fun d j => if d.isInjected 3 j then d else d.modEnded kind j) else d)

/-- METROLOGY_RETURN_WAIT (R265). -/
def execMetrologyReturnWait (channel : Fin 16) (s : State) : Host.Outcome State Fault Refusal := done s (·.metReturn channel)

/-- TEST_PULSE_START (R277). -/
def execTestPulseStart (k : Fin 4) (s : State) : Host.Outcome State Fault Refusal :=
  done s (fun d => if d.metRuns then d.tpStart k else d)

/-- TEST_PULSE_END (R277). -/
def execTestPulseEnd (k : Fin 4) (s : State) : Host.Outcome State Fault Refusal := done s (·.tpEnd k)

/-- TEST_OUTPUT_CONFIG_WRITE (R278). -/
def execTestOutputConfigWrite (k : Fin 4) (isConst : Bool) (value : Nat) (s : State) : Host.Outcome State Fault Refusal :=
  done s (·.tpWrite k isConst value)

/-- LR_IMAGE_STAGED (R281). -/
def execLrImageStaged (version svn : Nat) (sum : List Byte) (s : State) : Host.Outcome State Fault Refusal :=
  done s (fun d => if d.rd R.MET_LRCTL.STATE = 2 then d
    else { d with met := { d.met with staged := some { ver := version, svn := svn, sum := padTo sum 48 } } }.wr R.MET_LRCTL.STATE 1)

/-- LR_ACTIVATE (R281). -/
def execLrActivate (key : Nat) (s : State) : Host.Outcome State Fault Refusal := done s (·.lrActivate key)

/-- METROLOGY_PROCESSOR_RUNNING (R280). -/
def execMetrologyProcessorRunning (s : State) : Host.Outcome State Fault Refusal := done s Dev.metStart

end Sys2Proof.Machine
end

