-- ==== Sys2Proof/Machine/Billing.lean ====
section
/-! DEFINITION. Sealed registers, sessions, the legal log and the theft watch (chapter 14), and the metrology instant, which
feeds them. -/

namespace Sys2Proof.Machine

/-! ## Live image and commit (R285 to R288) -/

/-- The live image as the working state gives it. -/
def Dev.liveNow (d : Dev) : LiveImg :=
  let b := d.bil
  { seq := b.seq, acc := d.met.acc, sess := b.sess, toSign := b.toSign, recs := b.recs, logs := b.logs, recNext := b.recNext, logNext := b.logNext,
    last := d.met.last.getD 0, lastLog := b.lastLog, overflow := b.overflow }

/-- Index of the copy that holds the newer image, 0 when neither does. -/
def newerCopy (xs : List (Option LiveImg)) : Nat :=
  match xs.getD 0 none, xs.getD 1 none with
  | some a, some b => if a.seq < b.seq then 1 else 0
  | none, some _ => 1
  | _, _ => 0

/-- The image written at a processed instant: SEQ + 1, into the copy that does not hold the previous SEQ. -/
def Dev.liveWrite (d : Dev) : Dev :=
  let d := { d with bil := { d.bil with seq := (d.bil.seq + 1) % 2 ^ 64 } }
  let i := if (d.bst.copies.getD 0 none).isNone && (d.bst.copies.getD 1 none).isNone then 0 else 1 - newerCopy d.bst.copies
  { d with bst := { d.bst with copies := setAt d.bst.copies i (some d.liveNow) } }

/-- Pending records, log entries and sessions brought into the newest copy without a new SEQ. -/
def Dev.liveRefresh (d : Dev) : Dev :=
  let i := newerCopy d.bst.copies
  match d.bst.copies.getD i none with
  | some x => { d with bst := { d.bst with copies := setAt d.bst.copies i (some { d.liveNow with acc := x.acc, last := x.last, seq := x.seq }) } }
  | none => { d with bst := { d.bst with copies := setAt d.bst.copies 0 (some d.liveNow) } }

/-- Counts shown by BIL_STORE, BIL_RECNEXT and BIL_LOGNEXT. -/
def Dev.storeShow (d : Dev) : Dev :=
  d.wrAll [(R.BIL_STORE.RECS, d.bil.recs.length + d.bst.recs.length), (R.BIL_STORE.LOGS, d.bil.logs.length + d.bst.logs.length),
    (R.BIL_RECNEXT.NUM, d.bil.recNext), (R.BIL_LOGNEXT.NUM, d.bil.logNext)]

/-- A commit begun (R286): snapshot of the newest live copy, and the slot without the highest valid SEQ erased. -/
def Dev.commitBegin (d : Dev) : Dev :=
  let snap := (d.bst.copies.getD (newerCopy d.bst.copies) none).getD d.liveNow
  let slot := if (d.bst.slots.getD 0 none).isNone && (d.bst.slots.getD 1 none).isNone then 0 else 1 - newerCopy d.bst.slots
  let d := { d with bil := { d.bil with commit := some (snap, slot) }, bst := { d.bst with slots := setAt d.bst.slots slot none } }
  d.wr R.BIL_COMMIT.STATE 1

/-- A request for a commit (R286): begun, or held as the one pending request. -/
def Dev.commitReq (d : Dev) : Dev :=
  if d.rd R.BIL_CTL.STATUS ≠ 1 then d
  else if d.rd R.BIL_COMMIT.STATE = 0 then d.commitBegin else d.wr R.BIL_COMMIT.STATE 2

/-- Items without those of another list (by number). -/
def without (xs ys : List (Nat × List Byte)) : List (Nat × List Byte) := xs.filter (fun x => !(ys.any (fun y => y.1 == x.1)))

/-- A drain of BIL ends with its commit (Table 2-6). -/
def Dev.bilDrained (d : Dev) : Dev :=
  if d.rd R.BIL_CTL.STATUS = 2 then d.wr R.BIL_CTL.STATUS (if d.on R.BIL_CTL.EN then 1 else 0) else d

/-- COMMIT_COMPLETE (R286): the slot holds the snapshot and its pending items move to the NOR stores, or the commit failed. -/
def Dev.commitDone (d : Dev) (ok : Bool) : Dev :=
  match d.bil.commit with
  | none => d
  | some (snap, slot) =>
    let again := decide (d.rd R.BIL_COMMIT.STATE = 2)
    let d := { d with bil := { d.bil with commit := none } }.wr R.BIL_COMMIT.STATE 0
    let d := if ok then
        let recs := snap.recs.filter (fun x => d.bil.recs.any (fun y => y.1 == x.1))
        let logs := snap.logs.filter (fun x => d.bil.logs.any (fun y => y.1 == x.1))
        let store := { d.bst with slots := setAt d.bst.slots slot (some snap), recs := d.bst.recs ++ recs, logs := d.bst.logs ++ logs }
        let d := { d with bst := store, bil := { d.bil with recs := without d.bil.recs recs, logs := without d.bil.logs logs } }
        ((d.liveRefresh.wr R.BIL_COMMIT.FAIL 0).wr R.BIL_COMMIT.SLOT slot).raise 45 0 []
      else (d.wr R.BIL_COMMIT.FAIL 1).raise 45 1 []
    let d := d.bilDrained.storeShow
    if again then d.commitReq else d

/-! ## Legal log (R295) -/

/-- LEGAL of R284, as bit 0, and DEBUG as bit 1. -/
def Dev.legalFlags (d : Dev) : Nat :=
  b2n (decide (d.ffuse.variant = 1) && decide (d.rd R.BIL_SEAL.STATE = 1) && !d.dbgen .field) + 2 * b2n (d.dbgen .field)

/-- RECORD_READY (Table 3-5). -/
def Dev.recordReady (d : Dev) (output kind number : Nat) : Dev :=
  d.sendF 2 { ty := 0x42, payload := leBytes 1 output ++ leBytes 1 kind ++ leBytes 2 0 ++ leBytes 4 number ++ leBytes 8 d.stcNs }

/-- One log entry built, signed and kept (Table 14-4). -/
def Dev.logPut (d : Dev) (kind flags : Nat) (data : List Byte) : Dev :=
  let num := d.bil.logNext
  let chain := if num = 0 then List.replicate 16 0 else (Config.sha384 d.bil.lastLog).take 16
  let body := leBytes 4 0x474F4C5A ++ leBytes 4 num ++ leBytes 8 d.stcNs ++ leBytes 1 kind ++ leBytes 1 (d.legalFlags + flags) ++ leBytes 2 0 ++
    padTo data 28 ++ chain
  let e := body ++ d.signBytes .field 0x81 body
  let was := d.bil.logs.length + d.bst.logs.length
  let d := { d with bil := { d.bil with logs := d.bil.logs ++ [(num, e)], logNext := num + 1, lastLog := body } }
  let d := (d.liveRefresh.storeShow.recordReady 0 1 num).commitReq
  if was + 1 = 896 then d.raise 47 0 [896] else if was + 1 = 1024 then d.raise 47 1 [1024] else d

/-- A log entry that arises (R295): counted as lost while the log is full; an OVERFLOW entry comes first once space is free. -/
def Dev.logAdd (d : Dev) (kind flags : Nat) (data : List Byte) : Dev :=
  let room := fun (d : Dev) => decide (d.bil.logs.length + d.bst.logs.length < 1024)
  let lose := fun (d : Dev) => ({ d with bil := { d.bil with overflow := d.bil.overflow + 1 } }).bump R.BIL_LOGLOST.COUNT
  let d := if room d && decide (0 < d.bil.overflow) then
      let n := d.bil.overflow
      ({ d with bil := { d.bil with overflow := 0 } }).logPut 8 0 (leBytes 4 (min n 0xFFFFFFFF))
    else d
  if room d then d.logPut kind flags data else lose d

/-! ## Sessions (R289 to R293) -/

def Dev.sessAt (d : Dev) (n : Nat) : Sess := d.bil.sess.getD n {}

def Dev.setSess (d : Dev) (n : Nat) (x : Sess) : Dev :=
  let d := { d with bil := { d.bil with sess := setAt d.bil.sess n x } }
  (d.wr (R.BIL_SESSSTAT.OPEN n) (b2n (x.isOpen && !x.closing))).wr (R.BIL_SESSSTAT.CLOSING n) (b2n x.closing)

/-- The first metrology instant at or after the last S. -/
def Dev.nextInstant (d : Dev) : Nat :=
  let s := if d.streamActive then 5 * d.pwm.lastS / 2 else d.stcNs
  (s + 124999) / 125000 * 125000

/-- UTC seconds of an STC time (Table 5-1). -/
def Dev.utcOf (d : Dev) (ns : Nat) : Int := ((ns / 10 ^ 9 : Nat) : Int) - d.rdS R.STC_UTCOFS.OFS

/-- The code an OPEN is refused with, 0 when it is accepted (R289, Table 14-2). -/
def Dev.sessCode (d : Dev) (n : Nat) : Nat :=
  if 3 < d.rd (R.OUT_STAT.STATE n) then 1
  else if (d.sessAt n).isOpen then 2
  else if d.rd R.MET_LRCTL.STATE = 2 then 3
  else if !(d.met.hasSource (8 + 2 * n)) || !(d.met.hasSource (9 + 2 * n)) then 6
  else if 256 ≤ d.bil.recs.length + d.bst.recs.length then 4
  else if 1024 ≤ d.bil.logs.length + d.bst.logs.length then 5
  else 0

/-- SESSION_OPEN (R289). -/
def Dev.sessOpen (d : Dev) (n : Nat) : Dev :=
  let code := d.sessCode n
  let d := (d.wr (R.BIL_SESSCTL.CODE n) code).wr (R.BIL_SESSCTL.RESULT n) (if code = 0 then 2 else 3)
  if code ≠ 0 then d.raise 46 2 [n, code]
  else
    let t := d.nextInstant
    let x : Sess := { isOpen := true, output := n, sid := d.rdWords (R.BIL_SID.SID n) 4, start := t, stStart := d.rd R.STC_STAT.STATE,
                      utcStart := d.utcOf t, errStart := d.estErr }
    (d.setSess n x).liveRefresh.raise 46 0 [n, 0]

/-- A session closed with a CAUSE (R290); it stays in CLOSING until its stop readings are latched. -/
def Dev.sessEnd (d : Dev) (n cause : Nat) : Dev :=
  let x := d.sessAt n
  if x.isOpen && !x.closing then
    let t := d.nextInstant
    (d.setSess n { x with closing := true, stop := t, cause := cause, stStop := d.rd R.STC_STAT.STATE, utcStop := d.utcOf t, errStop := d.estErr }).liveRefresh
  else d

/-- SESSION_CLOSE (R290). -/
def Dev.sessClose (d : Dev) (n : Nat) : Dev :=
  let x := d.sessAt n
  if x.isOpen && !x.closing then ((d.sessEnd n 0).wr (R.BIL_SESSCTL.CODE n) 0).wr (R.BIL_SESSCTL.RESULT n) 2
  else (d.wr (R.BIL_SESSCTL.CODE n) 7).wr (R.BIL_SESSCTL.RESULT n) 3

/-- A finished interval added: the first six are kept (R292). -/
def Sess.addInterval (x : Sess) (iv : Interval) : Sess :=
  { x with intervals := if x.intervals.length < 6 then x.intervals ++ [iv] else x.intervals, nint := satAdd x.nint 1 65535 }

/-- The run of windows in progress ends. -/
def Sess.endRun (x : Sess) : Sess :=
  match x.run with
  | some iv => { x with run := none }.addInterval iv
  | none => x

/-- One window [ws, we) with its KIND (R292). -/
def Sess.window (x : Sess) (ws we kind : Nat) : Sess :=
  let x := { x with kinds := Nat.lor x.kinds kind }
  match x.run with
  | some iv =>
    if iv.kind = kind ∧ iv.last = ws then { x with run := some { iv with last := we } }
    else let x := x.endRun; if kind = 0 then x else { x with run := some { first := ws, last := we, kind := kind } }
  | none => if kind = 0 then x else { x with run := some { first := ws, last := we, kind := kind } }

/-- KIND of the present window for output `n` (R292). -/
def Dev.windowKind (d : Dev) (n : Nat) : Nat := Nat.lor (numAt d.met.flags (8 + 2 * n)) (numAt d.met.flags (9 + 2 * n)) / 2

/-- A session at the end of the window [ws, we) (R292): intervals, and PMAX over windows wholly within it. -/
def Dev.sessWindow (d : Dev) (n ws we : Nat) : Dev :=
  let x := d.sessAt n
  if x.isOpen && decide (x.start < we) then
    let x' := x.window ws we (d.windowKind n)
    let sum := d.met.sumD.getD n 0
    let whole := decide (x.start ≤ ws) && (!x.closing || decide (we ≤ x.stop))
    d.setSess n (if whole then { x' with maxWin := some (match x.maxWin with | some m => max m sum | none => sum) } else x')
  else d

/-- MET_LRVER as one word. -/
def Dev.lrVerWord (d : Dev) : Nat := d.rd R.MET_LRVER.MAJOR * 2 ^ 24 + d.rd R.MET_LRVER.MINOR * 2 ^ 16 + d.rd R.MET_LRVER.BUILD

/-- The stop readings latched (R290): the session leaves its output and waits for its record. -/
def Dev.stopLatch (d : Dev) (n tn : Nat) : Dev :=
  let x := d.sessAt n
  let ws := tn / 100000000 * 100000000
  let x := if tn % 100000000 = 99875000 then x else x.window ws (ws + 100000000) (d.windowKind n)
  let x := x.endRun
  let x := { x with daStop := d.energyRead (28 + 2 * n), dbStop := d.energyRead (29 + 2 * n) }
  let x := { x with lrVer := d.lrVerWord, lrSum := d.rdWords R.MET_LRSUM.SUM 12, sealState := d.rd R.BIL_SEAL.STATE }
  (({ d with bil := { d.bil with toSign := d.bil.toSign ++ [x] } }).setSess n {})

/-- Start and stop latches of one output after instant `tn` (R289, R290). -/
def Dev.sessLatch (d : Dev) (n tn : Nat) : Dev :=
  let x := d.sessAt n
  let d := if x.isOpen && !x.started && decide (x.start ≤ tn + 125000) then
      d.setSess n { x with started := true, daStart := d.energyRead (28 + 2 * n), dbStart := d.energyRead (29 + 2 * n) }
    else d
  let x := d.sessAt n
  if x.isOpen && x.closing && decide (x.stop ≤ tn + 125000) then d.stopLatch n tn else d

/-- One processed instant within a session (R291). -/
def Dev.sessCount (d : Dev) (n : Nat) (p : Int) : Dev :=
  let x := d.sessAt n
  if x.isOpen && x.started then
    d.setSess n { x with n := x.n + 1, sumD := x.sumD + p, holdover := x.holdover || decide (d.rd R.STC_STAT.STATE ≠ 2) }
  else d

/-- A step of the STC while sessions are open (R291, Table 14-5). -/
def Dev.sessStepped (d : Dev) (step : Int) : Dev :=
  if d.bil.sess.any (fun x => x.isOpen) then
    ({ d with bil := { d.bil with sess := d.bil.sess.map (fun (x : Sess) => if x.isOpen then { x with stepped := true } else x) } }).logAdd 9 0
      (leBytes 8 (unsigned step 64))
  else d

/-- PMAX (R292). -/
def Sess.pmax (x : Sess) : Nat :=
  let v := match x.maxWin with
    | some m => divz m 8000000000
    | none => if x.n = 0 then 0 else divz x.sumD ((x.n * 10000000 : Nat) : Int)
  (clampInt v 0 0xFFFFFFFF).toNat

/-- One INTERVAL entry: OFS, LEN, KIND (R292). -/
def Sess.intervalBytes (x : Sess) (iv : Interval) : List Byte :=
  let first := max iv.first x.start
  let last := min iv.last x.stop
  leBytes 4 ((first - x.start) / 1000000) ++ leBytes 3 ((last - first) / 1000000) ++ leBytes 1 iv.kind

/-- The 256 bytes of a session record (Table 14-3). -/
def Dev.recordBytes (d : Dev) (x : Sess) (num : Nat) : List Byte :=
  let flags := d.legalFlags + 4 * (x.kinds % 128) + 2 ^ 9 * b2n x.incomplete + 2 ^ 10 * b2n (decide (6 < x.nint)) + 2 ^ 11 * b2n x.stepped +
    2 ^ 12 * b2n x.holdover
  let id := d.rd R.FSYS_ID.PART * 2 ^ 16 + d.rd R.FSYS_ID.MAJOR * 2 ^ 8 + d.rd R.FSYS_ID.MINOR
  let bind := if d.ffuse.sealed then d.ffuse.bind else []
  let body := leBytes 4 0x4352535A ++ leBytes 1 1 ++ leBytes 1 x.output ++ leBytes 2 flags ++ leBytes 4 num ++ leBytes 4 x.lrVer ++ padTo x.sid 16 ++
    leBytes 8 d.ffuse.uid ++ leBytes 4 id ++ leBytes 1 x.sealState ++ leBytes 1 (x.stStart + 16 * x.stStop) ++ leBytes 2 x.nint ++
    leBytes 8 x.start ++ leBytes 8 x.stop ++ leBytes 8 (unsigned x.utcStart 64) ++ leBytes 8 (unsigned x.utcStop 64) ++ leBytes 4 (x.n / 8) ++
    leBytes 4 x.pmax ++ leBytes 8 x.daStart ++ leBytes 8 x.daStop ++ leBytes 8 x.dbStart ++ leBytes 8 x.dbStop ++ leBytes 4 x.errStart ++
    leBytes 4 x.errStop ++ padTo (x.intervals.flatMap x.intervalBytes) 48 ++ padTo x.lrSum 48 ++
    (Config.sha384 (d.pubKey .field 0x81)).take 8 ++ padTo (bind.take 8) 8 ++ leBytes 1 x.cause ++ List.replicate 11 0
  body ++ leBytes 4 (crc32c body)

/-- SESSION_RECORD_SIGNED (R290, R293): the oldest waiting session of the output. -/
def Dev.recordSigned (d : Dev) (n : Nat) : Dev :=
  if !d.on R.MET_LRCTL.RUN then d
  else match takeFirst (fun (x : Sess) => x.output == n) d.bil.toSign with
    | none => d
    | some (x, rest) =>
      let num := d.bil.recNext
      let bs := d.recordBytes x num
      let e := bs ++ d.signBytes .field 0x81 bs
      let d := { d with bil := { d.bil with toSign := rest, recs := d.bil.recs ++ [(num, e)], recNext := num + 1 } }
      let d := d.wr (R.BIL_SESSREC.RECNUM n) num
      ((d.liveRefresh.storeShow.recordReady n 0 num).raise 46 1 [n, 0, num]).commitReq

/-! ## Acknowledgement and export (R294, R295) -/

/-- BIL_RECACK written (R294). -/
def Dev.recAck (d : Dev) (v : Nat) : Dev :=
  if v < d.rd R.BIL_RECACK.NUM then d
  else
    let keep := fun (x : Nat × List Byte) => decide (v < x.1)
    ({ d with bil := { d.bil with recs := d.bil.recs.filter keep }, bst := { d.bst with recs := d.bst.recs.filter keep } }.wr R.BIL_RECACK.NUM v).liveRefresh.storeShow

/-- BIL_LOGACK written (R295). -/
def Dev.logAck (d : Dev) (v : Nat) : Dev :=
  if v < d.rd R.BIL_LOGACK.NUM then d
  else
    let keep := fun (x : Nat × List Byte) => decide (v < x.1)
    ({ d with bil := { d.bil with logs := d.bil.logs.filter keep }, bst := { d.bst with logs := d.bst.logs.filter keep } }.wr R.BIL_LOGACK.NUM v).liveRefresh.storeShow

/-- REC_REQ BEGIN (R294): the item as REC_DATA from OFFSET 0, or the unknown marker. -/
def Dev.recReq (d : Dev) (xfer number : Nat) : Dev :=
  let items := if testBit number 31 then d.bst.logs ++ d.bil.logs else d.bst.recs ++ d.bil.recs
  match items.find? (fun x => x.1 == number % 2 ^ 31) with
  | some x => d.sendBulk 7 0x79 xfer x.2
  | none => d.sendF 7 { ty := 0x79, payload := leBytes 2 xfer ++ leBytes 4 0xFFFFFFFF ++ leBytes 2 0 ++ [0x01] }

/-! ## Restore at boot (R287, R288) and theft entries (R297) -/

/-- A session that the restored image shows open or closing, closed as incomplete (R288). -/
def Dev.closeIncomplete (d : Dev) (x : Sess) (last cause : Nat) : Sess :=
  let stop := last + 125000
  let x := { x with closing := true, stop := stop, cause := cause, incomplete := true, stStop := d.rd R.STC_STAT.STATE, utcStop := d.utcOf stop,
                    errStop := d.estErr, daStop := d.energyRead (28 + 2 * x.output), dbStop := d.energyRead (29 + 2 * x.output) }
  let x := if x.started then x else { x with started := true, daStart := x.daStop, dbStart := x.dbStop }
  let x := x.endRun
  { x with lrVer := d.bst.lr.ver, lrSum := d.bst.lr.sum, sealState := d.rd R.BIL_SEAL.STATE }

/-- Point D of Table 2-5 (R287): accumulators, pending items and numbers from the newest valid image. -/
def Dev.restore (d : Dev) (power : Bool) : Dev :=
  let lv := d.bst.copies.getD (newerCopy d.bst.copies) none
  let nv := d.bst.slots.getD (newerCopy d.bst.slots) none
  let (img, src) : LiveImg × Nat := match lv, nv with
    | some l, some n => if n.seq ≤ l.seq then (l, 1) else (n, 2)
    | some l, none => (l, 1)
    | none, some n => (n, 2)
    | none, none => ({ acc := List.replicate 36 0, sess := List.replicate 4 {} }, 0)
  let inStore := fun (xs : List (Nat × List Byte)) (store : List (Nat × List Byte)) => without xs store
  let d := { d with met := { d.met with acc := img.acc },
                    bil := { d.bil with toSign := img.toSign, recs := inStore img.recs d.bst.recs, logs := inStore img.logs d.bst.logs,
                                        recNext := img.recNext, logNext := img.logNext, lastLog := img.lastLog, overflow := img.overflow, seq := img.seq } }
  let cut := img.sess.filter (fun x => x.isOpen)
  let closed := cut.map (fun x => d.closeIncomplete x img.last (if power then 3 else 2))
  let d := { d with bil := { d.bil with toSign := d.bil.toSign ++ closed } }
  let d := d.wrAll [(R.BIL_RESTORE.CUT, min 255 cut.length), (R.BIL_RESTORE.SRC, src), (R.BIL_COMMIT.SLOT, newerCopy d.bst.slots)]
  ((d.storeShow.logAdd 3 0 (leBytes 1 src ++ leBytes 1 cut.length ++ leBytes 2 0 ++ leBytes 8 img.seq)).raise 45 2 [src, cut.length])

/-- The F0 theft log turned into THEFT entries (R297). -/
def Dev.theftEntries (d : Dev) : Dev :=
  if d.tw.log = [] then d
  else
    let d := d.forAll d.tw.log (fun d e =>
      d.logAdd 4 (4 * b2n e.merged) (leBytes 8 e.start ++ leBytes 4 ((e.stop - e.start + 999999999) / 10 ^ 9) ++ leBytes 1 e.mask ++ leBytes 1 0 ++
        leBytes 2 (min 65535 e.peak) ++ e.q.flatMap (fun q => leBytes 2 (min 65535 (q / 360000)))))
    (({ d with tw := { d.tw with log := [] } }).wrAll [(R.BIL_TWSTAT.EPIS, 0), (R.BIL_TWSTAT.MERGED, 0)]).raise 47 2 []

/-- The DORMANT entry of a boot that follows one (Table 14-5). -/
def Dev.dormantEntry (d : Dev) (exit : Nat) : Dev :=
  match d.tw.entered with
  | some t => ({ d with tw := { d.tw with entered := none } }).logAdd 6 0 (leBytes 8 t ++ leBytes 8 exit)
  | none => d

/-! ## Theft watch (R296, R297) -/

/-- An episode added to the F0 log, or merged into the 16th (R297). -/
def Dev.episodePut (d : Dev) (e : Episode) : Dev :=
  let log := if d.tw.log.length < 16 then d.tw.log ++ [e]
    else d.tw.log.take 15 ++ (d.tw.log.drop 15).map (fun x => { x with q := List.zipWith (· + ·) x.q e.q, stop := e.stop, merged := true,
                                                                        mask := Nat.lor x.mask e.mask, peak := max x.peak e.peak })
  ({ d with tw := { d.tw with log := log, cur := none } }).wrAll
    [(R.BIL_TWSTAT.EPIS, log.length), (R.BIL_TWSTAT.MERGED, b2n ((log.getD 15 {}).merged))]

/-- Greatest element of a list of numbers. -/
def maxOf (xs : List Nat) : Nat := xs.foldl max 0

/-- m of one channel's 200 samples, and its integrator after them (R296). -/
def Dev.theftBlockOf (d : Dev) (ch : Nat) (xs : List Int) : Nat × Int :=
  let gain := d.rdS (R.BIL_TWGAIN.GAIN ch)
  let integ := d.on (R.BIL_TWCFG.INTEG ch)
  let r := xs.foldl (fun (acc : Nat × Int) x =>
    let y := if integ then wrap (acc.2 + x - rshRound acc.2 12) 64 else acc.2
    let raw := if integ then sat y 32 else wrap x 32
    (acc.1 + (measValue { gain := gain } raw).1.natAbs, y)) (0, (d.tw.ch.getD ch {}).y)
  (r.1 / 200, r.2)

/-- THEFT_WATCH_BLOCK (R296, R297): one 100 ms block of the F0 counter in DORMANT. -/
def Dev.theftBlock (d : Dev) (samples : List (List Int)) : Dev :=
  if d.mode ≠ .dormant ∨ d.on R.BIL_TWCTL.EN = false then d
  else
    let t0 := match d.tw.blocks.head? with | some b => b.1 + 100000000 | none => d.f0Ns
    let t1 := t0 + 100000000
    let used := fun (ch : Nat) => d.on (R.BIL_TWCFG.EN ch)
    let rs := [0, 1, 2, 3].map (fun ch => if used ch then d.theftBlockOf ch (samples.getD ch []) else (0, 0))
    let ms := rs.map (·.1)
    let above := fun (ch : Nat) => used ch && decide (d.rd (R.BIL_TWCFG.THR ch) < numAt ms ch)
    let chs := [0, 1, 2, 3].map (fun ch =>
      let c := d.tw.ch.getD ch {}
      if !used ch then { c with above := 0, below := 0 }
      else if above ch then { y := (rs.getD ch (0, 0)).2, above := c.above + 1, below := 0 }
      else { y := (rs.getD ch (0, 0)).2, above := 0, below := c.below + 1 })
    let amask := maskOf 4 above
    let blocks := ((t0, ms) :: d.tw.blocks).take 20
    let masks := (amask :: d.tw.masks).take 20
    let d := { d with tm := { d.tm with f0 := max d.tm.f0 (stepsOfNs t1) }, tw := { d.tw with ch := chs, blocks := blocks, masks := masks } }
    let d := match d.tw.cur with
      | none =>
        if chs.any (fun (c : TheftCh) => decide (20 ≤ c.above)) then
          let q := [0, 1, 2, 3].map (fun ch => (blocks.map (fun (b : Nat × List Nat) => numAt b.2 ch)).foldl (· + ·) 0)
          let e : Episode := { start := ((blocks.getLast?).getD (t0, [])).1, stop := t1, mask := masks.foldl Nat.lor 0, peak := maxOf (blocks.flatMap (fun (b : Nat × List Nat) => b.2)), q := q }
          { d with tw := { d.tw with cur := some e, tail := [] } }
        else d
      | some e =>
        if amask ≠ 0 then
          let all := ms :: d.tw.tail
          let q := [0, 1, 2, 3].map (fun ch => numAt e.q ch + (all.map (fun b => numAt b ch)).foldl (· + ·) 0)
          let e := { e with q := q, stop := t1, mask := Nat.lor e.mask amask, peak := max e.peak (maxOf all.flatten) }
          { d with tw := { d.tw with cur := some e, tail := [] } }
        else { d with tw := { d.tw with tail := ms :: d.tw.tail } }
    match d.tw.cur with
    | some e => if [0, 1, 2, 3].all (fun ch => !used ch || decide (20 ≤ (chs.getD ch {}).below)) then
        (d.episodePut e) else d
    | none => d

/-- The end of DORMANT ends the episode in progress (R296). -/
def Dev.theftExit (d : Dev) : Dev :=
  let d := match d.tw.cur with
    | some e => d.episodePut { e with stop := d.f0Ns }
    | none => d
  { d with tw := { d.tw with ch := List.replicate 4 {}, blocks := [], masks := [], tail := [] } }

/-! ## Seal (R282) -/

/-- Code of the first failing check of Table 14-1, 0 when the seal is accepted. -/
def Dev.sealCode (d : Dev) : Nat :=
  if d.ffuse.variant ≠ 1 then 1
  else if d.rd R.BIL_SEAL.STATE ≠ 0 then 2
  else if d.dbgen .field then 3
  else if d.lc .field ≠ 1 ∧ d.lc .field ≠ 2 then 4
  else if d.mode.readyOrLower = false then 5
  else if d.bil.sess.any (fun x => x.isOpen) then 6
  else if d.streamActive = false ∨ d.act.meas.any (fun m => decide (1 ≤ m.path)) = false then 7
  else if d.rd R.MET_LRCTL.STATE ≠ 0 then 8
  else 0

/-- SEAL_REQUEST. -/
def Dev.sealReq (d : Dev) (key : Nat) : Dev :=
  if key ≠ 0x5EA1 ∨ d.bil.sealing = true then d
  else
    let code := d.sealCode
    let d := d.wr R.BIL_SEAL.CODE code
    if code ≠ 0 then d.raise 44 1 [code] else { d with bil := { d.bil with sealing := true } }

/-- SEAL_COMPLETE: the seal and the binding digest of R85 are blown. -/
def Dev.sealDone (d : Dev) : Dev :=
  if d.bil.sealing then
    let dig := Config.sha384 d.act.bindRaw
    let d := { d with bil := { d.bil with sealing := false }, ffuse := { d.ffuse with sealed := true, bind := dig } }
    let d := (d.wr R.BIL_SEAL.STATE 1).wrWords R.BIL_BIND.DIG dig
    (d.logAdd 1 0 (dig.take 16 ++ leBytes 4 d.lrVerWord)).commitReq.raise 44 0 []
  else d

/-! ## The metrology instant -/

/-- METROLOGY_INSTANT (R262 to R272): the next instant processed, 1.000 ms after it. -/
def Dev.metInstant (d : Dev) (main vh : List Int) : Dev :=
  let t := d.metNext
  let d := d.advanceTo (stepsOfNs (t + 1000000))
  let taken := d.metTake t
  let ms := taken.1.metSamples t main taken.2
  let x := ms.1
  let flags := ms.2.1
  let d := ms.2.2
  let past := (List.range 3).map (fun k => (x.getD (3 + k) 0 :: d.met.past.getD k []).take 128)
  let raw := products x (vh.map (wrap · 32)) (past.map (fun p => p.getD 127 0))
  let w := d.loaded raw
  let d := { d with met := { d.met with past := past, last := some t } }.windowAdd x flags w raw
  let last := decide (t % 100000000 = 99875000)
  let d := d.applyIncs (instantIncs w ++ (if last then d.windowIncs else []))
  let d := d.forAll [0, 1, 2, 3] (fun d n => d.sessCount n (raw.out.getD n 0))
  let d := if last then (d.forAll [0, 1, 2, 3] (fun d n => d.sessWindow n (t + 125000 - 100000000) (t + 125000))).windowClose else d
  let d := d.forAll [0, 1, 2, 3] (fun d n => d.sessLatch n t)
  let ptot := sat (divz (sumInt raw.p) 10000000) 32
  ((d.tlmAc t ptot).guardAc t ptot).liveWrite

/-- LR_SWITCH_COMPLETE (R281). -/
def Dev.lrDone (d : Dev) (ok : Bool) : Dev :=
  match d.rd R.MET_LRCTL.STATE, d.met.staged with
  | 2, some x =>
    let old := d.bst.lr
    let d := { d with met := { d.met with staged := none } }
    if ok then
      let d := { d with bst := { d.bst with lr := x, lrMin := max d.bst.lrMin x.svn } }
      let d := (d.metStart.lrShow x).wr R.MET_LRCTL.STATE 0
      (d.logAdd 2 0 (leBytes 4 old.ver ++ leBytes 4 x.ver ++ old.sum.take 8 ++ x.sum.take 8)).raise 43 0 []
    else
      let d := d.wr R.MET_LRCTL.STATE 0
      ((d.metStart.lrShow old).wr R.MET_LRCTL.CODE 5).raise 43 2 []
  | _, _ => d

/-- MET_ECLR (R273). -/
def Dev.metEclr (d : Dev) (v : Nat) : Dev :=
  if bits v 31 16 ≠ 0xE0C1 ∨ d.rwlSealed = true then d
  else
    let hit := fun (e : Nat) => if e < 28 then testBit v 0 else testBit v 1
    let acc := (List.range 36).map (fun e => if hit e then 0 else d.met.acc.getD e 0)
    ({ d with met := { d.met with acc := acc } }).logAdd 5 0 (leBytes 1 (bits v 1 0))

/-! ## Meanings -/

/-- METROLOGY_INSTANT (R262): the metering-path raw values of the 16 channels and the Hilbert filter's outputs. -/
def execMetrologyInstant (main vh : List Int) (s : State) : Host.Outcome State Fault Refusal :=
  done s (fun d => if d.metRuns then d.metInstant main vh else d)

/-- LR_SWITCH_COMPLETE (R281). -/
def execLrSwitchComplete (ok : Bool) (s : State) : Host.Outcome State Fault Refusal := done s (·.lrDone ok)

/-- MET_ECLR (R273). -/
def execMetEclr (value : Nat) (s : State) : Host.Outcome State Fault Refusal := done s (·.metEclr value)

/-- SEAL_REQUEST (R282). -/
def execSealRequest (key : Nat) (s : State) : Host.Outcome State Fault Refusal := done s (·.sealReq key)

/-- SEAL_COMPLETE (R282). -/
def execSealComplete (s : State) : Host.Outcome State Fault Refusal := done s Dev.sealDone

/-- COMMIT_REQUEST (R286). -/
def execCommitRequest (s : State) : Host.Outcome State Fault Refusal := done s Dev.commitReq

/-- COMMIT_15_MIN (R286): the STC has come to a whole 15 min. -/
def execCommit15Min (s : State) : Host.Outcome State Fault Refusal :=
  done s (fun d => (d.advanceTo (stepsOfNs ((d.stcNs + 899999999999) / 900000000000 * 900000000000))).commitReq)

/-- COMMIT_COMPLETE (R286). -/
def execCommitComplete (ok : Bool) (s : State) : Host.Outcome State Fault Refusal := done s (·.commitDone ok)

/-- SESSION_OPEN (R289). -/
def execSessionOpen (output : Fin 4) (s : State) : Host.Outcome State Fault Refusal := done s (·.sessOpen output)

/-- SESSION_CLOSE (R290). -/
def execSessionClose (output : Fin 4) (s : State) : Host.Outcome State Fault Refusal := done s (·.sessClose output)

/-- SESSION_RECORD_SIGNED (R290). -/
def execSessionRecordSigned (output : Fin 4) (s : State) : Host.Outcome State Fault Refusal := done s (·.recordSigned output)

/-- BIL_RECACK (R294). -/
def execBilRecack (value : Nat) (s : State) : Host.Outcome State Fault Refusal := done s (·.recAck value)

/-- BIL_LOGACK (R295). -/
def execBilLogack (value : Nat) (s : State) : Host.Outcome State Fault Refusal := done s (·.logAck value)

/-- REC_REQ_BEGIN (R294). -/
def execRecReqBegin (xfer number : Nat) (s : State) : Host.Outcome State Fault Refusal :=
  done s (fun d => (d.takeCell .field 0x78).recReq xfer number)

/-- THEFT_WATCH_BLOCK (R296): the 200 raw samples of each of the four channels. -/
def execTheftWatchBlock (samples : List (List Int)) (s : State) : Host.Outcome State Fault Refusal := done s (·.theftBlock samples)

end Sys2Proof.Machine
end

