-- ==== Sys2Proof/Machine/FieldNet.lean ====
section
/-! DEFINITION. The field Ethernet ports (sections 12.1 to 12.3): links, receive classes and buffering, gated transmission, the
share engine's frames and IEEE 1588 messages (R101). -/

namespace Sys2Proof.Machine

def Dev.port (d : Dev) (p : Nat) : PortRt := d.net.ports.getD p {}

def Dev.setPort (d : Dev) (p : Nat) (x : PortRt) : Dev := { d with net := { d.net with ports := setAt d.net.ports p x } }

/-- The port sends and accepts frames: it is not disabled, and its link is up (R241). -/
def Dev.portUp (d : Dev) (p : Nat) : Bool := decide (d.rd (R.FNET_PORT.STATUS p) ≠ 0) && d.on (R.FNET_PORT.LINK p)

/-- ETH_LINK_CHANGE on a field port (R241): FNET event 38. -/
def Dev.fieldLink (d : Dev) (p : Nat) (up supported : Bool) : Dev :=
  let was := d.on (R.FNET_PORT.LINK p)
  if up && !supported then
    (((d.wr (R.FNET_PORT.LINK p) 0).wr (R.FNET_PORT.SPEEDERR p) 1)).raise 38 2 [p]
  else
    let d := (d.wrB (R.FNET_PORT.LINK p) up).wr (R.FNET_PORT.SPEEDERR p) 0
    if was == up then d else d.raise 38 (b2n up) [p]

/-! ## Receive (R243, R244) -/

/-- The EtherType of a frame, read behind a VLAN tag. -/
def etherType (f : List Byte) : Nat := if beAt f 12 2 = 0x8100 then beAt f 16 2 else beAt f 12 2

/-- The payload of a frame behind its header and tag. -/
def etherPayload (f : List Byte) : List Byte := if beAt f 12 2 = 0x8100 then f.drop 18 else f.drop 14

/-- Receive class of an EtherType (Table 12-1): 0 PTP, 1 GOOSE, 2 SHARE, 3 SV, 4 OTHER. -/
def Dev.rxClass (d : Dev) (et : Nat) : Option Nat :=
  match et with
  | 0x88F7 => some 0 | 0x88B8 => some 1 | 0x88B5 => some 2 | 0x88BA => some 3
  | _ => if [0, 1, 2, 3].any (fun i => d.on (R.FNET_OTHERFLT.EN i) && decide (d.rd (R.FNET_OTHERFLT.ETYPE i) = et)) then some 4 else none

/-- Reserve of a class in cells, and whether it may use the pool (Table 12-1). -/
def classReserve (c : Nat) : Nat × Bool :=
  match c with | 0 => (64, true) | 1 => (256, true) | 2 => (256, true) | 3 => (1024, false) | _ => (128, false)

/-- Cells of a class in use: reserve and pool. -/
def Dev.cellsUsed (d : Dev) (c : Nat) : Nat × Nat :=
  let xs := d.net.cells.getD c []
  ((xs.map (·.1)).foldl (· + ·) 0, (xs.map (·.2)).foldl (· + ·) 0)

/-- Pool cells in use. -/
def Dev.poolUsed (d : Dev) : Nat := ([0, 1, 2, 3, 4].map (fun c => (d.cellsUsed c).2)).foldl (· + ·) 0

/-- A drop counted, with FNET event 39 for the first since the counters were last read (R244). -/
def Dev.rxDrop (d : Dev) (p : Nat) (f : Fld) : Dev :=
  let d := d.bump f
  if (d.port p).dropSeen then d else (d.setPort p { d.port p with dropSeen := true }).raise 39 0 [p]

/-- The drop counter of a class. -/
def dropField (p c : Nat) : Fld :=
  match c with
  | 0 => R.FNET_DROP0.PTP p | 1 => R.FNET_DROP0.GOOSE p | 2 => R.FNET_DROP0.SHARE p | 3 => R.FNET_DROP0.SV p | _ => R.FNET_DROP1.OTHER p

/-- BUFPEAK of a class and of the pool. -/
def Dev.bufPeak (d : Dev) (c : Nat) : Dev :=
  let d := d.wr (R.FNET_BUFPEAK.CELLS c) (max (d.rd (R.FNET_BUFPEAK.CELLS c)) (d.cellsUsed c).1)
  d.wr (R.FNET_BUFPEAK.CELLS 5) (max (d.rd (R.FNET_BUFPEAK.CELLS 5)) d.poolUsed)

/-- A classified frame admitted whole, or dropped (R244). -/
def Dev.rxAdmit (d : Dev) (p c len : Nat) : Dev :=
  let need := (len + 255) / 256
  let (cap, pool) := classReserve c
  let (used, _) := d.cellsUsed c
  let fromRes := min need (cap - used)
  let rest := need - fromRes
  if rest = 0 ∨ pool = true ∧ d.poolUsed + rest ≤ 320 then
    ({ d with net := { d.net with cells := setAt d.net.cells c (d.net.cells.getD c [] ++ [(fromRes, rest)]) } }).bufPeak c
  else d.rxDrop p (dropField p c)

/-- The oldest frame of a class has been processed: its cells are free (R244). -/
def Dev.rxFree (d : Dev) (c : Nat) : Dev := { d with net := { d.net with cells := setAt d.net.cells c ((d.net.cells.getD c []).drop 1) } }

/-- ETH_FRAME_RECEIVE on a field port (R243, R244). `frame` has no FCS; `fcsOk` says whether its FCS was good. -/
def Dev.fieldFrame (d : Dev) (p : Nat) (frame : List Byte) (fcsOk : Bool) : Dev :=
  if d.portUp p = false then d
  else if 1522 < frame.length + 4 then d.rxDrop p (R.FNET_DROP1.OVERSIZE p)
  else if fcsOk = false then d.rxDrop p (R.FNET_DROP1.FCS p)
  else match d.rxClass (etherType frame) with
    | none => d.rxDrop p (R.FNET_DROP1.FILTERED p)
    | some c => d.rxAdmit p c (frame.length + 4)

/-! ## Transmit (R245 to R247) -/

/-- The gate list over one millisecond: (start, end, mask), cut at 1.000 ms and held to its end. -/
def gateSegs (gs : List (Nat × Nat)) : List (Nat × Nat × Nat) :=
  let r := gs.foldl (fun (a : Nat × List (Nat × Nat × Nat)) g =>
    let e := min 1000000 (a.1 + g.2)
    (e, if a.1 < e then a.2 ++ [(a.1, e, g.1)] else a.2)) (0, [])
  match gs.getLast? with
  | some g => if r.1 < 1000000 then r.2 ++ [(r.1, 1000000, g.1)] else r.2
  | none => []

/-- The mask at a time within the millisecond. -/
def gateMask (segs : List (Nat × Nat × Nat)) (t : Nat) : Nat :=
  match segs.find? (fun s => decide (s.1 ≤ t) && decide (t < s.2.1)) with | some s => s.2.2 | none => 0

/-- The first later instant, in ns from the millisecond's start, at which a gate open at `t` closes; none when it never does
(R245). -/
def gateCloses (segs : List (Nat × Nat × Nat)) (q t : Nat) : Option Nat :=
  match segs.find? (fun s => decide (t < s.1) && !testBit s.2.2 q) with
  | some s => some s.1
  | none =>
    match segs with
    | s0 :: _ =>
      if testBit s0.2.2 q then (segs.find? (fun s => !testBit s.2.2 q)).map (fun s => 1000000 + s.1) else some 1000000
    | [] => some 1000000

/-- Wire time of a frame in ns at 1 Gb/s, preamble and gap included. -/
def wireTime (len : Nat) : Nat := 8 * (len + 20)

/-- The queue that starts now, in the order PTP, SHARE, SV, OTHER (R245). -/
def Dev.txPick (d : Dev) (p : Nat) : Option Nat :=
  let segs := gateSegs (d.port p).gates
  let t := d.stcNs % 1000000
  [0, 1, 2, 3].find? (fun q =>
    match ((d.port p).queues.getD q []).head? with
    | some f => testBit (gateMask segs t) q && (match gateCloses segs q t with | some c => decide (t + wireTime f.len < c) | none => true)
    | none => false)

/-- ETH_TRANSMIT_START on a field port (R245): the frame leaves its queue, stamped plus FNET_PDLY.TX (R242, in 1/16 ns). -/
def Dev.fieldTxStart (d : Dev) (p : Nat) : Dev :=
  if d.on (R.FNET_PORT.LINK p) && decide (d.rd (R.FNET_PORT.STATUS p) = 1) then
    match d.txPick p with
    | some q =>
      let x := d.port p
      match x.queues.getD q [] with
      | f :: rest => d.setPort p { x with queues := setAt x.queues q rest, sending := some (f, 16 * d.stcNs + 2 * d.rd (R.FNET_PDLY.TX p)) }
      | [] => d
    | none => d
  else d

/-- A frame put on a transmit queue. -/
def Dev.txQueue (d : Dev) (p q : Nat) (f : TxFrame) : Dev :=
  let x := d.port p
  d.setPort p { x with queues := setAt x.queues q (x.queues.getD q [] ++ [f]) }

/-- The shadow list of a port (R246). -/
def Dev.gclShadow (d : Dev) (p : Nat) : List (Nat × Nat) :=
  ((d.rd (R.FNET_GCL0.GATES p), d.rd (R.FNET_GCL0.DUR p)) ::
    (List.range 15).map (fun e => (d.rd (R.FNET_GCL.GATES p e), d.rd (R.FNET_GCL.DUR p e)))).take (clampNat (d.rd (R.FNET_GCLCTL.NENT p)) 1 16)

/-- A pending list taken at a whole STC millisecond (R246). -/
def Dev.gclMs (d : Dev) : Dev :=
  d.forAll [0, 1] (fun d p =>
    if d.on (R.FNET_GCLCTL.PEND p) then (d.setPort p { d.port p with gates := d.gclShadow p }).wr (R.FNET_GCLCTL.PEND p) 0 else d)

/-- Demand records of the frame that have not started by its cutoff (R247). -/
def Dev.txLate (d : Dev) : Dev :=
  d.forAll [0, 1] (fun d p =>
    let x := d.port p
    let q := x.queues.getD 1 []
    let late := (q.filter (fun f => decide (f.frame ≤ d.shr.frame))).length
    (d.setPort p { x with queues := setAt x.queues 1 (q.filter (fun f => decide (d.shr.frame < f.frame))) }).bumpBy (R.FNET_TXLATE.SHRLATE p) late)

/-- DEMAND_RECORD_TRANSMIT (R220, R221): once on each field port that is up. -/
def Dev.shrTransmit (d : Dev) : Dev :=
  let d := d.advanceTo (400000 * d.shr.frame + 20000 + 400 * d.devno * clampNat (d.rd R.SHR_GRP.TXSPACE) 2 20)
  match d.shr.own with
  | none => d
  | some r =>
    match d.shrPayload r with
    | none => d
    | some bs =>
      let k := d.rd R.SHR_GRP.TXKEY
      let d := if d.on R.SHR_GRP.AUTH then { d with shr := { d.shr with sent := setAt d.shr.sent k (some r.frame) } } else d
      d.forAll [0, 1] (fun d p =>
        if d.on (R.FNET_PORT.LINK p) && decide (d.rd (R.FNET_PORT.STATUS p) = 1) then
          d.txQueue p 1 { tag := some (d.rd (R.FNET_SHRTAG.PCP p), d.rd (R.FNET_SHRTAG.VID p)), etype := 0x88B5, payload := bs, len := 166, frame := r.frame }
        else d)

/-! ## IEEE 1588 (R101) -/

def Dev.ptp (d : Dev) (p : Nat) : PtpRt := d.net.ptp.getD p {}

def Dev.setPtp (d : Dev) (p : Nat) (x : PtpRt) : Dev := { d with net := { d.net with ptp := setAt d.net.ptp p x } }

/-- An accepted Sync: one offset sample, the STC less the grandmaster time at its receive stamp (R101). -/
def Dev.ptpOffset (d : Dev) (p : Nat) (rx origin corr : Int) : Dev :=
  match (d.ptp p).delay with
  | some md =>
    let ofs := wrap (divz (rx - (origin + corr + md)) 16) 32
    (d.wrS (R.STC_PTPOFS.OFS p) ofs).ptpSample p ofs
  | none => d

/-- A PTP message of the domain; `rx` is its receive stamp in 1/16 ns before FNET_PDLY.RX is taken off (R242). -/
def Dev.ptpMessage (d : Dev) (p : Nat) (rx : Int) (m : PtpMsg) : Dev :=
  let rx := rx - 2 * d.rd (R.FNET_PDLY.RX p)
  let dom := d.rd R.STC_PTPCFG.DOMAIN
  let x := d.ptp p
  match m with
  | .announce dm utc =>
    if dm = dom then
      match utc with
      | some u => (d.wr R.STC_UTCOFS.SRC 1).wrS R.STC_UTCOFS.OFS (wrap u 16)
      | none => d.wr R.STC_UTCOFS.SRC 0
    else d
  | .sync dm seq two origin corr =>
    if dm = dom then (if two then d.setPtp p { x with sync := some (seq, rx, corr) } else d.ptpOffset p rx origin corr) else d
  | .followUp dm seq origin corr =>
    match x.sync with
    | some (s, r, c) => if dm = dom ∧ s = seq then (d.setPtp p { x with sync := none }).ptpOffset p r origin (c + corr) else d
    | none => d
  | .pdelayReq dm _ =>
    if dm = dom then
      (d.txQueue p 0 { etype := 0x88F7, len := 72 }).txQueue p 0 { etype := 0x88F7, len := 72 }
    else d
  | .pdelayResp dm seq t2 corr =>
    match x.t1 with
    | some (s, _) => if dm = dom ∧ s = seq then d.setPtp p { x with resp := some (seq, rx, t2 - corr) } else d
    | none => d
  | .pdelayRespFollowUp dm seq t3 corr =>
    match x.t1, x.resp with
    | some (s, t1), some (s', t4, t2) =>
      if dm = dom ∧ s = seq ∧ s' = seq then d.setPtp p { x with t1 := none, resp := none, delay := some (divz ((t4 - t1) - (t3 + corr - t2)) 2) } else d
    | _, _ => d
  | .other => d

/-- PDELAY_REQ_SEND (R101): a Pdelay_Req, stamped when it is sent. -/
def Dev.pdelayReq (d : Dev) (p : Nat) : Dev :=
  let n := numAt d.tm.pdelaySeq p
  let d := { d with tm := { d.tm with pdelaySeq := setAt d.tm.pdelaySeq p ((n + 1) % 65536) } }
  let t1 : Int := 16 * d.stcNs + 2 * d.rd (R.FNET_PDLY.TX p)
  (d.setPtp p { d.ptp p with t1 := some (n, t1), resp := none }).txQueue p 0 { etype := 0x88F7, len := 72 }

/-! ## Meanings -/

/-- FNET_GCLCTL_APPLY (R246): APPLY written with a NENT. -/
def execFnetGclctlApply (port : Fin 2) (nent : Nat) (s : State) : Host.Outcome State Fault Refusal :=
  done s (fun d => if d.domOn .f4 then (d.wr (R.FNET_GCLCTL.NENT port) (clampNat (nent % 32) 1 16)).wr (R.FNET_GCLCTL.PEND port) 1 else d)

/-- DEMAND_RECORD_TRANSMIT (R221). -/
def execDemandRecordTransmit (s : State) : Host.Outcome State Fault Refusal :=
  done s (fun d => if d.domOn .f4 then d.shrTransmit else d)

/-- DEMAND_RECORD (R223): the payload of a received frame of the share class. -/
def execDemandRecord (payload : List Byte) (s : State) : Host.Outcome State Fault Refusal :=
  done s (fun d => if d.domOn .f4 then (d.rxFree 2).recReceive (padTo payload 144) else d)

/-- SHARE_CUTOFF (R230, R247). -/
def execShareCutoff (s : State) : Host.Outcome State Fault Refusal :=
  done s (fun d => if d.domOn .f4 then (d.shrCutoff).txLate else d)

/-- PTP_MESSAGE (R101): the FMP processes a received message; not during an FMP restart. -/
def execPtpMessage (port : Fin 2) (rx : Int) (m : PtpMsg) (s : State) : Host.Outcome State Fault Refusal :=
  done s (fun d => if d.domOn .f4 && !d.pw.fmpRestart then (d.rxFree 0).ptpMessage port rx m else d)

/-- PDELAY_REQ_SEND (R101). -/
def execPdelayReqSend (port : Fin 2) (s : State) : Host.Outcome State Fault Refusal :=
  done s (fun d => if d.domOn .f4 && !d.pw.fmpRestart && d.portUp port then d.pdelayReq port else d)

end Sys2Proof.Machine
end

