-- ==== Sys2Proof/Machine/ProcessBus.lean ====
section
/-! DEFINITION. Sampled values and GOOSE (sections 12.4 to 12.7). -/

namespace Sys2Proof.Machine

/-- SVG_CTL lets frames be parsed and streams be published. -/
def Dev.svgRuns (d : Dev) : Bool := decide (d.rd R.SVG_CTL.STATUS = 1)

/-- A port mask of Table 12-2's registers; 0b00 acts as 0b11. -/
def portAllowed (mask p : Nat) : Bool := decide (mask = 0) || testBit mask p

/-- Checks of R259 for a subscription: with AUTH the extension must name its key slot and verify under a loaded key. -/
def Dev.authOk (d : Dev) (auth : Bool) (slot : Nat) (e : Option AuthExt) : Bool :=
  !auth || (match e with | some x => decide (x.slot = slot) && x.tagOk && (d.svg.keys.getD slot none).isSome | none => false)

/-! ## Sampled-value subscriptions (R248 to R252) -/

def Dev.sub (d : Dev) (s : Nat) : SubRt := d.svg.subs.getD s {}

def Dev.setSub (d : Dev) (s : Nat) (x : SubRt) : Dev := { d with svg := { d.svg with subs := setAt d.svg.subs s x } }

/-- ASDUs per frame of a data set (Table 12-2). -/
def dsetAsdus (c : Nat) : Nat := match c with | 1 | 2 => 1 | 3 => 2 | 4 => 6 | _ => 0

/-- Instant of a sample index in ns (Table 5-1). -/
def svInstant (rate n : Nat) : Nat := n * 10 ^ 9 / max 1 rate

/-- DEPTH of a subscription, within its data set's bounds (R252). -/
def Dev.svDepth (d : Dev) (s : Nat) : Nat :=
  clampNat (d.rd (R.SVG_SUBCFG.DEPTH s)) (dsetAsdus (d.rd (R.SVG_SUBCFG.DSET s))) 15

/-- Deadline of a sample (R250). -/
def Dev.svDeadline (d : Dev) (s n : Nat) : Nat := svInstant (dsetRate (d.rd (R.SVG_SUBCFG.DSET s))) (n + d.svDepth s)

/-- The subscription left VALID or reached it; the guard follows when it is the point-of-connection stream. -/
def Dev.svState (d : Dev) (s st : Nat) : Dev :=
  let was := d.rd (R.SVG_SUBSTAT.STATE s)
  if was = st then d
  else
    let d := d.wr (R.SVG_SUBSTAT.STATE s) st
    let d := if st = 2 then d.raise 36 1 [s] else if was = 2 then d.raise 36 0 [s] else d
    if s = d.rd R.SHR_GCFG.STREAM then d.guardSync else d

/-- Power of one point-of-connection sample (R232). -/
def svPower (vals : List Int) : Int :=
  divz (vals.getD 4 0 * vals.getD 0 0 + vals.getD 5 0 * vals.getD 1 0 + vals.getD 6 0 * vals.getD 2 0) 100000

/-- One sample released (R251, R252). -/
def Dev.svRelease (d : Dev) (s : Nat) (x : SvSample) : Dev :=
  let rate := max 1 (dsetRate (d.rd (R.SVG_SUBCFG.DSET s)))
  let miss := x.missing || d.isInjected 7 s
  let d := d.injUse 7 s
  let d := d.wrAll [(R.SVG_SUBSTAT.SMPCNT s, x.idx % rate), (R.SVG_SUBSTAT.SMPSYNCH s, x.synch), (R.SVG_SUBSTAT.HELD s, b2n miss),
    (R.SVG_SUBSTAT.QUEST s, b2n (!miss && x.quest))]
  let st := d.rd (R.SVG_SUBSTAT.STATE s)
  let d :=
    if miss then
      let run := min 3 (d.rd (R.SVG_SUBSTAT.MISSRUN s) + 1)
      let d := ((d.wr (R.SVG_SUBSTAT.MISSRUN s) run).bump (R.SVG_SUBCNT.MISSING s)).setSub s { d.sub s with usedRun := 0 }
      if run = 3 ∧ st = 2 then d.svState s 1 else d
    else
      let n := (d.sub s).usedRun + 1
      let d := (d.wr (R.SVG_SUBSTAT.MISSRUN s) 0).setSub s { d.sub s with usedRun := n }
      let d := d.forAll (List.range 8) (fun d q => d.wrS (R.SVG_SUBVAL.VALUE s q) (x.values.getD q 0))
      if 16 ≤ n ∧ st = 1 then d.svState s 2 else d
  if s = d.rd R.SHR_GCFG.STREAM then
    d.guardFeed (svInstant rate x.idx) (svPower ((List.range 8).map (fun q => d.rdS (R.SVG_SUBVAL.VALUE s q))))
  else d

/-- Samples that have arrived are released in index order (R251). -/
def Dev.svDrain (d : Dev) (s : Nat) : Dev :=
  d.forAll (List.range 16) (fun d _ =>
    let x := d.sub s
    match x.next with
    | some n =>
      match x.buf.find? (fun b => b.idx == n) with
      | some b => (d.setSub s { x with buf := x.buf.filter (fun y => decide (y.idx ≠ n)), next := some (n + 1) }).svRelease s b
      | none => d
    | none => d)

/-- The absolute index of a smpCnt that arrives at `now` (R250). -/
def svIndex (rate smpCnt now : Nat) : Nat :=
  let c := svInstant rate smpCnt
  ((((now : Int) + 500000000 - c - 1) / 1000000000) * rate + smpCnt).toNat

/-- One ASDU (R249 to R251). -/
def Dev.svAsdu (d : Dev) (s : Nat) (a : SvAsdu) : Dev :=
  let rate := max 1 (dsetRate (d.rd (R.SVG_SUBCFG.DSET s)))
  let now := d.stcNs
  let n := svIndex rate a.smpCnt now
  let x := d.sub s
  if (match x.next with | some k => decide (n < k) | none => false) && decide (now ≤ d.svDeadline s n) || x.buf.any (fun b => b.idx == n) then d
  else if d.svDeadline s n < now then d.bump (R.SVG_SUBCNT.LATE s)
  else if now + svInstant rate 2 < svInstant rate n then d.bump (R.SVG_SUBCNT.EARLY s)
  else
    let bad := decide (a.smpSynch ≤ 1) || a.qualities.any (fun q => q.invalid || q.test)
    let b : SvSample := { idx := n, values := a.values, synch := a.smpSynch, missing := bad, quest := a.qualities.any (·.questionable) }
    (d.setSub s { x with buf := x.buf ++ [b], next := some (x.next.getD n) }).svDrain s

/-- The frame belongs to the subscription (R249). -/
def Dev.svMatches (d : Dev) (s : Nat) (m : SvMsg) : Bool :=
  decide (d.rd (R.SVG_SUBSTAT.STATE s) ≠ 0) &&
  decide (m.mac = d.rd (R.SVG_SUBMAC_LO.VALUE s) + 2 ^ 32 * (d.rd (R.SVG_SUBMAC_HI.VALUE s) % 65536)) &&
  decide (m.appid = d.rd (R.SVG_SUBAPP.APPID s)) && (!d.on (R.SVG_SUBAPP.VIDEN s) || decide (m.vid = some (d.rd (R.SVG_SUBAPP.VID s)))) &&
  decide (crc32c m.svId = d.rd (R.SVG_SUBIDC.VALUE s)) && portAllowed (d.rd (R.SVG_SUBCFG.PORTS s)) m.port

/-- SV_FRAME (R249, R259). -/
def Dev.svFrame (d : Dev) (m : SvMsg) : Dev :=
  match (List.range 8).find? (fun s => d.svMatches s m) with
  | none => d
  | some s =>
    let ds := d.rd (R.SVG_SUBCFG.DSET s)
    if m.confRev ≠ d.rd (R.SVG_SUBREV.VALUE s) ∨ m.asdus.length ≠ dsetAsdus ds ∨ m.asdus.any (fun a => decide (dsetRate ds ≤ a.smpCnt)) = true then
      d.bump (R.SVG_SUBCNT.FORMAT s)
    else if d.authOk (d.on (R.SVG_SUBCFG.AUTH s)) (d.rd (R.SVG_SUBCFG.KEYSLOT s)) m.auth = false then d.bump R.SVG_CNT.SVAUTH
    else d.forAll m.asdus (fun d a => d.svAsdu s a)

/-- SV_SAMPLE_DEADLINE (R251): the next sample is released missing at its deadline. -/
def Dev.svMiss (d : Dev) (s : Nat) : Dev :=
  let x := d.sub s
  match x.next with
  | some n =>
    let d := d.advanceTo (stepsOfNs (d.svDeadline s n))
    if x.buf.any (fun b => b.idx == n) then d.svDrain s
    else ((d.setSub s { x with next := some (n + 1) }).svRelease s { idx := n, missing := true, synch := d.rd (R.SVG_SUBSTAT.SMPSYNCH s) }).svDrain s
  | none => d

/-- EN written 1 with DSET ≠ 0 (Table 12-3). -/
def Dev.subEnable (d : Dev) (s : Nat) : Dev :=
  let d := d.wr (R.SVG_SUBCFG.EN s) 1
  if d.rd (R.SVG_SUBSTAT.STATE s) = 0 ∧ dsetAsdus (d.rd (R.SVG_SUBCFG.DSET s)) ≠ 0 ∧ d.svgRuns = true then
    ((d.setSub s {}).wr (R.SVG_SUBSTAT.MISSRUN s) 0).svState s 1
  else d

/-- The subscription to OFF (Table 12-3). -/
def Dev.subOff (d : Dev) (s : Nat) : Dev := ((d.setSub s {}).wr (R.SVG_SUBSTAT.MISSRUN s) 0).svState s 0

/-- A configuration register of the subscription written (Table 12-3). -/
def Dev.subReconfigure (d : Dev) (s : Nat) : Dev :=
  let st := d.rd (R.SVG_SUBSTAT.STATE s)
  if st = 0 then d
  else if dsetAsdus (d.rd (R.SVG_SUBCFG.DSET s)) = 0 then d.subOff s
  else ((d.setSub s {}).wr (R.SVG_SUBSTAT.MISSRUN s) 0).svState s 1

/-! ## Publication (R253, R254) -/

/-- smpSynch of the STC state (R254). -/
def Dev.smpSynch (d : Dev) : Nat :=
  match d.rd R.STC_STAT.STATE with
  | 2 => 2
  | 3 => if d.estErr < d.rd R.STC_HOLDCFG.ERRLIM then 2 else 1
  | 1 => 1
  | _ => 0

/-- One published quantity from the raw value of its channel (R253), with its quality. -/
def Dev.pubValue (d : Dev) (p q : Nat) (raw : Int) : Int × Quality :=
  let ch := d.rd (R.SVG_PUBSRC.CH p q)
  let good : Quality := { invalid := false, questionable := false, test := false }
  if 15 ≤ ch then (0, { good with invalid := true })
  else
    let m : MeasRec := { gain := signed (d.rd (R.SVG_PUBGAIN.GAIN p q)) 32, shift := signed (d.rd (R.SVG_PUBSRC.SHIFT p q)) 6 }
    ((measValue m raw).1, { good with questionable := decide (d.rd (R.MET_CHSTAT.SRC ch) = 1), invalid := d.on (R.MET_CHSTAT.NOSRC ch) })

/-- One published ASDU (R253); CH 0xFE publishes VA + VB + VC. -/
def Dev.pubAsdu (d : Dev) (p : Nat) (raws : List Int) (cnt : Nat) : SvAsdu :=
  let base := (List.range 8).map (fun q => d.pubValue p q (raws.getD q 0))
  let v := fun q => (base.getD q (0, ⟨true, false, false⟩)).1
  let out := base.zipIdx.map (fun x =>
    if d.rd (R.SVG_PUBSRC.CH p x.2) = 0xFE then (sat (v 4 + v 5 + v 6) 32, ({ invalid := false, questionable := false, test := false } : Quality)) else x.1)
  { smpCnt := cnt, smpSynch := d.smpSynch, values := out.map (·.1), qualities := out.map (·.2) }

/-- The publication runs (R253). -/
def Dev.pubRuns (d : Dev) (p : Nat) : Bool :=
  d.on (R.SVG_PUBCFG.EN p) && d.svgRuns && d.streamActive && decide (dsetAsdus (d.rd (R.SVG_PUBCFG.DSET p)) ≠ 0) &&
  !(decide (d.rd (R.SVG_PUBCFG.DSET p) = 1) && d.on R.SHR_GCFG.F60)

/-- SV_PUBLICATION (R253): the frame that ends with the last sample at or before now is queued on its ports. -/
def Dev.svPublish (d : Dev) (p : Nat) (raws : List (List Int)) (len : Nat) : Dev :=
  if d.pubRuns p then
    let ds := d.rd (R.SVG_PUBCFG.DSET p)
    let rate := dsetRate ds
    let k := dsetAsdus ds
    let last := d.stcNs % 10 ^ 9 * rate / 10 ^ 9
    let first := last / k * k
    let asdus := (List.range k).map (fun i => d.pubAsdu p (raws.getD i []) (first + i))
    let d := { d with svg := { d.svg with pubs := setAt d.svg.pubs p asdus } }
    let d := (d.wr (R.SVG_PUBSTAT.SMPCNT p) (first + k - 1)).wr (R.SVG_PUBSTAT.SMPSYNCH p) d.smpSynch
    let tag := some (d.rd (R.SVG_PUBAPP.PCP p), d.rd (R.SVG_PUBAPP.VID p))
    d.forAll [0, 1] (fun d port =>
      if portAllowed (d.rd (R.SVG_PUBCFG.PORTS p)) port && d.portUp port then d.txQueue port 2 { tag := tag, etype := 0x88BA, len := len } else d)
  else d

/-! ## GOOSE (R255 to R258) -/

def Dev.gs (d : Dev) (j : Nat) : GsRt := d.svg.gs.getD j {}

def Dev.setGs (d : Dev) (j : Nat) (x : GsRt) : Dev := { d with svg := { d.svg with gs := setAt d.svg.gs j x } }

/-- A subscription with ACTION 3 holds (R258). -/
def Dev.gooseDevHold (d : Dev) : Bool :=
  (List.range 32).any (fun j => d.on (R.SVG_GSSTAT.HOLD j) && decide (d.rd (R.SVG_GSACT.ACTION j) = 3))

/-- A subscription with ACTION 1 naming the output, or with ACTION 2, holds (R258). -/
def Dev.gooseOutHold (d : Dev) (n : Nat) : Bool :=
  (List.range 32).any (fun j => d.on (R.SVG_GSSTAT.HOLD j) &&
    (decide (d.rd (R.SVG_GSACT.ACTION j) = 2) || (decide (d.rd (R.SVG_GSACT.ACTION j) = 1) && testBit (d.rd (R.SVG_GSACT.OUTMASK j)) n)))

/-- The action of a hold that begins (Table 12-5). -/
def Dev.gooseAct (d : Dev) (j : Nat) : Dev :=
  match d.rd (R.SVG_GSACT.ACTION j) with
  | 1 => d.forAll (bitsOf 4 (d.rd (R.SVG_GSACT.OUTMASK j))) (fun d n => d.outQuench n (some 14))
  | 2 => d.quenchAll
  | 3 => d.deviceTrip
  | _ => d

/-- HOLD of R256 brought up to date, with event 37 KIND 0 or 3 and the action. -/
def Dev.gooseHold (d : Dev) (j : Nat) : Dev :=
  let st := d.rd (R.SVG_GSSTAT.STATE j)
  let h := (decide (st = 2) && d.on (R.SVG_GSSTAT.VALUE j) && !d.on (R.SVG_GSSTAT.QBAD j)) || (decide (st = 3) && d.on (R.SVG_GSCFG.FAILSAFE j))
  let was := d.on (R.SVG_GSSTAT.HOLD j)
  let d := d.wrB (R.SVG_GSSTAT.HOLD j) h
  if h && !was then (d.raise 37 0 [j]).gooseAct j else if was && !h then d.raise 37 3 [j] else d

/-- The frame belongs to the subscription (R255). -/
def Dev.gsMatches (d : Dev) (j : Nat) (m : GooseMsg) : Bool :=
  decide (d.rd (R.SVG_GSSTAT.STATE j) ≠ 0) &&
  decide (m.mac = d.rd (R.SVG_GSMAC_LO.VALUE j) + 2 ^ 32 * (d.rd (R.SVG_GSMAC_HI.VALUE j) % 65536)) &&
  decide (m.appid = d.rd (R.SVG_GSAPP.APPID j)) && decide (crc32c m.gocbRef = d.rd (R.SVG_GSREF.VALUE j)) &&
  portAllowed (d.rd (R.SVG_GSCFG.PORTS j)) m.port

/-- VALUE and QBAD of a frame, none where ENTRY or QENTRY has the wrong type (R255 check 3). -/
def Dev.gsValue (d : Dev) (j : Nat) (m : GooseMsg) : Option (Bool × Bool) :=
  let qe := d.rd (R.SVG_GSCFG.QENTRY j)
  let q : Option Bool :=
    if qe = 0xFF then some false
    else match m.entries[qe]? with
      | some (.quality x) => some (x.invalid || (x.test && !d.on (R.SVG_GSCFG.TESTACT j)))
      | _ => none
  match m.entries[min 63 (d.rd (R.SVG_GSCFG.ENTRY j))]?, q with
  | some (.boolean v), some b => some (v, b)
  | _, _ => none

/-- GOOSE_FRAME of a subscription (R255). -/
def Dev.gsReceive (d : Dev) (j : Nat) (m : GooseMsg) : Dev :=
  if d.authOk (d.on (R.SVG_GSCFG.AUTH j)) (d.rd (R.SVG_GSCFG.KEYSLOT j)) m.auth = false then d.bump R.SVG_CNT.GSAUTH
  else if m.confRev ≠ d.rd (R.SVG_GSREV.VALUE j) ∨ m.ndsCom = true ∨ (m.simulation = true ∧ d.on (R.SVG_GSCFG.SIM j) = false) then
    d.bump R.SVG_CNT.GSFORMAT
  else
    let newer := match (d.gs j).last with | some (st, sq) => decide (m.stNum ≠ st) || decide (sq < m.sqNum) | none => true
    if newer = false then (if (d.gs j).last = some (m.stNum, m.sqNum) then d else d.bump R.SVG_CNT.GSOLD)
    else match d.gsValue j m with
      | none => (d.bump R.SVG_CNT.GSFORMAT).raise 37 4 [j]
      | some (v, qb) =>
        let d := d.setGs j { last := some (m.stNum, m.sqNum), at' := d.stcNs, ttl := m.ttl * 1000000 }
        let d := d.wrAll [(R.SVG_GSSTAT.VALUE j, b2n v), (R.SVG_GSSTAT.QBAD j, b2n qb), (R.SVG_GSSTAT.STNUM j, m.stNum)]
        let d := d.injEnd 14 j
        let d := if d.rd (R.SVG_GSSTAT.STATE j) = 2 then d else (d.wr (R.SVG_GSSTAT.STATE j) 2).raise 37 2 [j]
        d.gooseHold j

/-- GOOSE_FRAME (R255): the first matching subscription. -/
def Dev.gooseFrame (d : Dev) (m : GooseMsg) : Dev :=
  match (List.range 32).find? (fun j => d.gsMatches j m) with
  | some j => d.gsReceive j m
  | none => d

/-- A subscription goes STALE (Table 12-4). -/
def Dev.gooseStale (d : Dev) (j : Nat) : Dev :=
  if d.rd (R.SVG_GSSTAT.STATE j) = 2 then ((d.wr (R.SVG_GSSTAT.STATE j) 3).raise 37 1 [j]).gooseHold j else d

/-- EN written 1 (Table 12-4). -/
def Dev.gooseEnable (d : Dev) (j : Nat) : Dev :=
  let d := d.wr (R.SVG_GSCFG.EN j) 1
  if d.rd (R.SVG_GSSTAT.STATE j) = 0 ∧ d.svgRuns = true then ((d.setGs j {}).wr (R.SVG_GSSTAT.STATE j) 1).wr (R.SVG_GSSTAT.HOLD j) 0 else d

/-- EN written 0 (Table 12-4). -/
def Dev.gooseOff (d : Dev) (j : Nat) : Dev := ((d.setGs j {}).wr (R.SVG_GSSTAT.STATE j) 0).gooseHold j

/-- SVG stops: every subscription goes OFF (Table 12-3, SVG_CTL). -/
def Dev.svgStop (d : Dev) : Dev := (d.forAll (List.range 8) Dev.subOff).forAll (List.range 32) Dev.gooseOff

/-- SVG runs again: subscriptions whose EN is 1 begin anew. -/
def Dev.svgStart (d : Dev) : Dev :=
  (d.forAll (List.range 8) (fun d s => if d.on (R.SVG_SUBCFG.EN s) then d.subEnable s else d)).forAll (List.range 32)
    (fun d j => if d.on (R.SVG_GSCFG.EN j) then d.gooseEnable j else d)

/-! ## Meanings -/

/-- SV_FRAME (R249). -/
def execSvFrame (m : SvMsg) (s : State) : Host.Outcome State Fault Refusal :=
  done s (fun d => if d.domOn .f4 then (if d.svgRuns then (d.rxFree 3).svFrame m else d.rxFree 3) else d)

/-- SV_SAMPLE_DEADLINE (R251). -/
def execSvSampleDeadline (sub : Fin 8) (s : State) : Host.Outcome State Fault Refusal :=
  done s (fun d => if d.domOn .f4 then d.svMiss sub else d)

/-- SV_SUBSCRIPTION_ENABLE (R252). -/
def execSvSubscriptionEnable (sub : Fin 8) (s : State) : Host.Outcome State Fault Refusal :=
  done s (fun d => if d.domOn .f4 then d.subEnable sub else d)

/-- SV_SUBSCRIPTION_DISABLE (R252). -/
def execSvSubscriptionDisable (sub : Fin 8) (s : State) : Host.Outcome State Fault Refusal :=
  done s (fun d => if d.domOn .f4 then (d.wr (R.SVG_SUBCFG.EN sub) 0).subOff sub else d)

/-- SV_SUBSCRIPTION_RECONFIGURE (R252). -/
def execSvSubscriptionReconfigure (sub : Fin 8) (s : State) : Host.Outcome State Fault Refusal :=
  done s (fun d => if d.domOn .f4 then d.subReconfigure sub else d)

/-- SV_PUBLICATION (R253): raw values per ASDU and quantity after the resampling filter, and the encoded frame's length. -/
def execSvPublication (pub : Fin 2) (raws : List (List Int)) (len : Nat) (s : State) : Host.Outcome State Fault Refusal :=
  done s (fun d => if d.domOn .f4 then d.svPublish pub raws len else d)

/-- GOOSE_FRAME (R255). -/
def execGooseFrame (m : GooseMsg) (s : State) : Host.Outcome State Fault Refusal :=
  done s (fun d => if d.domOn .f4 then (if d.svgRuns then (d.rxFree 1).gooseFrame m else d.rxFree 1) else d)

/-- GOOSE_TTL_EXPIRY (R256). -/
def execGooseTtlExpiry (sub : Fin 32) (s : State) : Host.Outcome State Fault Refusal :=
  done s (fun d => if d.domOn .f4 then d.gooseStale sub else d)

/-- GOOSE_SUBSCRIPTION_ENABLE (R256). -/
def execGooseSubscriptionEnable (sub : Fin 32) (s : State) : Host.Outcome State Fault Refusal :=
  done s (fun d => if d.domOn .f4 then d.gooseEnable sub else d)

/-- GOOSE_SUBSCRIPTION_DISABLE (R256). -/
def execGooseSubscriptionDisable (sub : Fin 32) (s : State) : Host.Outcome State Fault Refusal :=
  done s (fun d => if d.domOn .f4 then (d.wr (R.SVG_GSCFG.EN sub) 0).gooseOff sub else d)

end Sys2Proof.Machine
end

