-- ==== Sys2Proof/Machine/Trip.lean ====
section
/-! DEFINITION. The trip array's inputs and clears (R187 to R190, R445) and the trigger compares (R184). -/

namespace Sys2Proof.Machine

def Dev.tripIn (d : Dev) (i : Nat) : TripRt := d.pwm.inputs.getD i {}

def Dev.setTripIn (d : Dev) (i : Nat) (t : TripRt) : Dev := { d with pwm := { d.pwm with inputs := setAt d.pwm.inputs i t } }

/-- TRP_RAW of an input from its pad and its injection. -/
def Dev.tripRawShow (d : Dev) (i : Nat) : Dev :=
  let w := d.rd (R.TRP_RAW.ACT (i / 32))
  d.wr (R.TRP_RAW.ACT (i / 32)) (if d.tripActive i then setBit w (i % 32) else clearBit w (i % 32))

/-- TRP_RAW of the inputs that are active when F1 leaves its reset. -/
def Dev.tripRawBoot (d : Dev) : Dev := d.forAll (List.range 96) (fun d i => if d.tripActive i then d.tripRawShow i else d)

/-- Qualification (R188): TRP_STAT, TRP_FIRST, event 8 with the input and the STC, and ACTION 2 or 3. -/
def Dev.tripQualify (d : Dev) (i : Nat) : Dev :=
  let r := d.tripRec i
  let d := d.setTripIn i { d.tripIn i with waits := false }
  let d := d.wr (R.TRP_STAT.LATCH (i / 32)) (setBit (d.rd (R.TRP_STAT.LATCH (i / 32))) (i % 32))
  let d := ((d.tripFirst i).legsTrip).raise 8 0 [i, d.stcNs % 2 ^ 32, d.stcNs / 2 ^ 32]
  let d := d.capCause 1
  if r.action = 2 then d.forAll (bitsOf 4 r.outMask) (fun d n => d.outImmediate n 1)
  else if r.action = 3 then d.deviceTrip
  else d

/-- An input begins to act (R188, R445): first stage on its legs; FILT 0 qualifies at once. -/
def Dev.tripBegin (d : Dev) (i : Nat) : Dev :=
  let r := d.tripRec i
  let d := d.tripRawShow i
  if r.action = 0 then d
  else
    let d := (d.setTripIn i { d.tripIn i with waits := true }).legsTrip
    if r.filt = 0 then d.tripQualify i else d

/-- An input ends to act: a glitch when it has not qualified (R188). -/
def Dev.tripStop (d : Dev) (i : Nat) : Dev :=
  let t := d.tripIn i
  let d := (d.setTripIn i { t with waits := false, rose := d.stcNs }).tripRawShow i
  if t.waits then
    (((d.bump R.TRP_GLITCH.COUNT).wr R.TRP_GLITCH.LAST i).raise 9 0 [i]).legsTrip
  else d.legsTrip

/-- Inputs whose injection has ended and whose pad is not low end to act (R397, R399). -/
def Dev.tripSync (d : Dev) : Dev :=
  d.forAll (List.range 96) (fun d i => if testBit (d.rd (R.TRP_RAW.ACT (i / 32))) (i % 32) && !d.tripActive i then d.tripStop i else d)

/-- TRIP_INPUT_FALL. -/
def Dev.tripFall (d : Dev) (i : Nat) : Dev :=
  let was := d.tripActive i
  let d := d.setTripIn i { d.tripIn i with low := true }
  if was then d else (d.setTripIn i { d.tripIn i with fell := d.stcNs }).tripBegin i

/-- TRIP_INPUT_RISE. -/
def Dev.tripRise (d : Dev) (i : Nat) : Dev :=
  let was := d.tripActive i
  let d := d.setTripIn i { d.tripIn i with low := false }
  if was && !d.tripActive i then d.tripStop i else d

/-- TRIP_QUALIFICATION: FILT × 10 ns after the fall. -/
def Dev.tripFiltEnd (d : Dev) (i : Nat) : Dev :=
  let t := d.tripIn i
  if t.waits && d.tripActive i then (d.advanceTo (stepsOfNs (t.fell + 10 * (d.tripRec i).filt))).tripQualify i else d

/-- The mapping of a stream that becomes active or is swapped in (R445). -/
def Dev.tripRemap (d : Dev) (old : List TripRec) : Dev :=
  let d := d.forAll (List.range 96) (fun d i =>
    let was := (old.getD i {}).action
    let now := (d.tripRec i).action
    if !d.tripActive i then d
    else if was = 0 ∧ now ≠ 0 then (d.setTripIn i { d.tripIn i with fell := d.stcNs }).tripBegin i
    else if was ≠ 0 ∧ now = 0 then d.setTripIn i { d.tripIn i with waits := false }
    else d)
  d.legsTrip

/-- One bit of a write to TRP_CLR (R189). -/
def Dev.tripClear (d : Dev) (i : Nat) : Dev :=
  if d.tripStat i then
    if !d.tripActive i && decide ((d.tripIn i).rose + 1000 * d.rd R.TRP_CFG.TREARM ≤ d.stcNs) then
      d.wr (R.TRP_STAT.LATCH (i / 32)) (clearBit (d.rd (R.TRP_STAT.LATCH (i / 32))) (i % 32))
    else ((d.bump R.TRP_REFUSE.COUNT).wr R.TRP_REFUSE.LAST i).raise 10 0 [i]
  else d

/-- A write to TRP_CLR (R189). -/
def Dev.trpClr (d : Dev) (word value : Nat) : Dev :=
  ((d.forAll (bitsOf 32 value) (fun d b => d.tripClear (32 * word + b))).legsTrip).tripFirstClear

/-- Software-trip bits of outputs and groups cleared (R190). -/
def Dev.swClear (d : Dev) (outs grps : Nat) : Dev :=
  let d := d.wr R.TRP_SWSTAT.OUT (maskOf 4 (fun i => testBit (d.rd R.TRP_SWSTAT.OUT) i && !testBit outs i))
  let d := d.wr R.TRP_SWSTAT.GRP (maskOf 20 (fun i => testBit (d.rd R.TRP_SWSTAT.GRP) i && !testBit grps i))
  (d.legsTrip).tripFirstClear

/-- A write to TRP_SWCLR (R190); DEV is refused while a GOOSE subscription with ACTION 3 holds (R258). -/
def Dev.trpSwClr (d : Dev) (v : Nat) : Dev :=
  let d := if testBit v 31 && d.on R.TRP_SWSTAT.DEV then
      if d.gooseDevHold then ((d.bump R.TRP_REFUSE.COUNT).wr R.TRP_REFUSE.LAST 96).raise 10 0 [96]
      else d.wr R.TRP_SWSTAT.DEV 0
    else d
  d.swClear (bits v 27 24) (bits v 19 0)

/-! ## Trigger compares (R184) -/

/-- TRIGGER_COMPARE: compare `t` of group `g` fires at its next position. -/
def Dev.trigFire (d : Dev) (g t : Nat) : Dev :=
  if d.domOn .f3 && d.on (R.PWM_TRGCFG.EN g t) && decide (0 < d.rd (R.PWM_PER.VALUE g)) then
    let p := d.grpP g
    let off : Nat := (numAt d.pwm.trgPos (4 * g + t) * p + 2 ^ 30) / 2 ^ 31
    let origin : Int := ((64 * d.rd (R.PWM_GOFS.VALUE g) + off : Nat) : Int) + d.pwm.delta
    let f := nextPoint origin p (max (64 * d.tm.q) (numAt d.pwm.trgLast (4 * g + t) + 1))
    let d := { d with pwm := { d.pwm with trgLast := setAt d.pwm.trgLast (4 * g + t) f } }.advanceTo (f / 64)
    let ns := f * 5 / 128
    let d := d.wr (R.PWM_TRGSTAMP.NS g t) (ns % 2 ^ 32)
    match d.rd (R.PWM_TRGCFG.TARGET g t) with
    | 1 => { d with pwm := { d.pwm with trgOut := setAt d.pwm.trgOut (d.rd (R.PWM_TRGCFG.PAD g t)) (ns + 50) } }
    | 2 => if d.domOn .f4 then d.trigStart 0 else d
    | 3 => if d.domOn .f4 then d.trigStart 1 else d
    | 4 => d.capMark g t
    | _ => d
  else d

/-! ## Meanings -/

/-- TRIP_INPUT_FALL (R188); while F1 is off the pad's level alone changes. -/
def execTripInputFall (input : Fin 96) (s : State) : Host.Outcome State Fault Refusal :=
  done s (fun d => if d.domOn .f1 then d.tripFall input else d.setTripIn input { d.tripIn input with low := true })

/-- TRIP_QUALIFICATION (R188). -/
def execTripQualification (input : Fin 96) (s : State) : Host.Outcome State Fault Refusal :=
  done s (fun d => if d.domOn .f1 then d.tripFiltEnd input else d)

/-- TRIP_INPUT_RISE (R188). -/
def execTripInputRise (input : Fin 96) (s : State) : Host.Outcome State Fault Refusal :=
  done s (fun d => if d.domOn .f1 then d.tripRise input else d.setTripIn input { d.tripIn input with low := false })

/-- TRP_CLR (R189). -/
def execTrpClr (word : Fin 3) (value : Nat) (s : State) : Host.Outcome State Fault Refusal :=
  done s (fun d => if d.domOn .f1 then d.trpClr word value else d)

/-- TRP_SWCLR (R190). -/
def execTrpSwclr (value : Nat) (s : State) : Host.Outcome State Fault Refusal :=
  done s (fun d => if d.domOn .f1 then d.trpSwClr value else d)

/-- TRIGGER_COMPARE (R184). -/
def execTriggerCompare (group : Fin 20) (cmp : Fin 4) (s : State) : Host.Outcome State Fault Refusal :=
  done s (·.trigFire group cmp)

end Sys2Proof.Machine
end

