-- ==== Sys2Proof/Machine/Outputs.lean ====
section
/-! DEFINITION. The output state machines (sections 15.1 and 15.2): states, sequences, commands, faults, generators and markers. -/

namespace Sys2Proof.Machine

/-! ## Sequences (R299) -/

/-- The sequence number that OUT_SEQ names for a step: 1 LOCK, 2 UNLOCK, 3 INS, 4 PRE, 5 OPEN. -/
def Dev.outSeqNum (d : Dev) (n step : Nat) : Nat :=
  match step with
  | 1 => d.rd (R.OUT_SEQ.LOCK n) | 2 => d.rd (R.OUT_SEQ.UNLOCK n) | 3 => d.rd (R.OUT_SEQ.INS n) | 4 => d.rd (R.OUT_SEQ.PRE n)
  | _ => d.rd (R.OUT_SEQ.OPEN n)

/-- The FMP starts the requested sequence; NOENG and CONFLICT are repeated (OUT_SEQUENCE_RETRY), and an FMP restart makes it wait. -/
def Dev.outTry (d : Dev) (n : Nat) : Dev :=
  let o := d.outRt n
  if o.want = 0 ∨ o.retry = false ∨ d.pw.fmpRestart = true then d
  else
    let (d, e) := d.ctrStart (d.outSeqNum n o.want)
    match e with
    | some e => (d.setOut n { d.outRt n with want := 0, retry := false, engine := some e }).wr (R.OUT_STAT.SEQWAIT n) 0
    | none => d.setOut n { d.outRt n with retry := decide (d.rd R.CTR_START.CODE = 6) || decide (d.rd R.CTR_START.CODE = 7) }

/-- A step requests its sequence; 0x3F counts as done at once. A new request replaces one that has not started. -/
def Dev.outReq (d : Dev) (n step : Nat) : Dev :=
  let o := { d.outRt n with cur := step, engine := none, seqDone := false, seqFail := none, want := 0, retry := false }
  if d.outSeqNum n step = 0x3F then
    let d := (d.setOut n { o with seqDone := true }).wr (R.OUT_STAT.SEQWAIT n) 0
    if step = 1 then d.wr (R.OUT_STAT.LOCKED n) 1 else if step = 2 then d.wr (R.OUT_STAT.LOCKED n) 0 else d
  else ((d.setOut n { o with want := step, retry := true }).wr (R.OUT_STAT.SEQWAIT n) 1).outTry n

/-! ## Transitions -/

/-- A drain of the output ends where R305 says. -/
def Dev.outDrain (d : Dev) (n new : Nat) : Dev :=
  if d.rd (R.OUT_CTL.STATUS n) = 2 ∧ (new ≤ 1 ∨ (new = 8 ∧ (d.outRt n).drainFault = true)) then
    d.wr (R.OUT_CTL.STATUS n) (if d.on (R.OUT_CTL.EN n) then 1 else 0)
  else d

/-- A change of state (R299): PREV, STATE and event 48; the pending fault is used up in FAULT and dropped in IDLE and DETECT; the
marker of R307; a session closes in IDLE (R290). -/
def Dev.outGo (d : Dev) (n new : Nat) (cause : Option Nat) : Dev :=
  let old := d.outState n
  let o := d.outRt n
  let ends := decide (new = 8) || decide (new ≤ 1)
  let d := d.setOut n { o with quench := false, izeroAt := none, vsafe := false, imdFresh := false, pend := if ends then 0 else o.pend,
                               marker := if 3 ≤ new ∧ new ≤ 7 then true else if new ≤ 2 then false else o.marker }
  let d := d.wrAll [(R.OUT_STAT.PREV n, old), (R.OUT_STAT.STATE n, new), (R.OUT_STAT.HOLDPRE n, 0), (R.OUT_STAT.FPEND n, b2n (decide ((d.outRt n).pend ≠ 0)))]
  let d := match cause with | some c => d.wr (R.OUT_STAT.CAUSE n) c | none => d
  let d := if new = 8 then d.bump (R.OUT_CNT.FAULTS n) else d
  let d := (d.outDrain n new).raise 48 0 [n, old, new, d.rd (R.OUT_STAT.CAUSE n)]
  if new = 0 then d.sessEnd n 1 else d

/-- A coil of the output (CPOS or CNEG) satisfies `p`. -/
def Dev.outCoil (d : Dev) (n : Nat) (p : Nat → Bool) : Bool :=
  [d.rd (R.SHR_OUTCFG.CPOS n), d.rd (R.SHR_OUTCFG.CNEG n)].any (fun c => decide (c < 48) && p c)

/-- FAULT with an immediate cause (R302): SEQ OPEN is requested while a coil of the output is energised. -/
def Dev.outFault (d : Dev) (n cause : Nat) : Dev :=
  let d := d.outGo n 8 (some cause)
  if d.outCoil n d.coilOn then d.outReq n 5 else d

/-- An immediate cause that the state machine itself finds: trip, bit, event and FAULT (R301, R302). -/
def Dev.outTrip (d : Dev) (n cause : Nat) : Dev :=
  let d := d.outImmediate n cause
  (d.setOut n { d.outRt n with imm := [] }).outFault n cause

/-- The device enters TRIPPED: FAULT for codes 4 to 7 with CAUSE DEVICE (Table 15-1). -/
def Dev.outsTripped (d : Dev) : Dev :=
  d.forAll [0, 1, 2, 3] (fun d n => if 4 ≤ d.outState n ∧ d.outState n ≤ 7 then (d.outCause n 2).outFault n 2 else d)

/-- A cause through RAMPDOWN (Table 15-1). -/
def Dev.outRamp (d : Dev) (n cause : Nat) : Dev := (d.outPend n cause).outGo n 6 none

/-! ## Conditions -/

/-- A good reading of a pin's sensor is at or above a level in 0.01 °C. -/
def Dev.pinAbove (d : Dev) (n : Nat) (level : Int) : Bool :=
  [0, 1, 2, 3].any (fun p => d.on (R.CBL_PINCFG.EN n p) && !d.on (R.FBA_TEMP.FAULT (d.rd (R.CBL_PINCFG.TIN n p))) &&
    decide (level ≤ d.rdS (R.FBA_TEMP.VALUE (d.rd (R.CBL_PINCFG.TIN n p)))))

/-- TTRIP of an output in 0.01 °C. -/
def Dev.ttrip (d : Dev) (n : Nat) : Int := (10 * d.rd (R.CBL_TTRIP.TTRIP n) : Nat)

/-- The insulation channel of the output, none for 4 to 7. -/
def Dev.outImd (d : Dev) (n : Nat) : Option Nat := if d.rd (R.OUT_CFG.IMDCH n) < 4 then some (d.rd (R.OUT_CFG.IMDCH n)) else none

/-- A measurement since the state was entered (in INSULATION), or the state alone (in DELIVER), shows IMD FAULT. -/
def Dev.outIso (d : Dev) (n : Nat) : Bool :=
  match d.outImd n with
  | some ch => decide (d.rd (R.IMD_CTL.STATE ch) = 4) && (decide (d.outState n = 5) || (d.outRt n).imdFresh)
  | none => false

/-- The insulation row passes: SEQ INS done, and a good measurement afterwards. -/
def Dev.outInsOk (d : Dev) (n : Nat) : Bool :=
  let o := d.outRt n
  decide (o.cur = 3) && o.seqDone &&
  (match d.outImd n with
   | some ch => o.imdFresh && (decide (d.rd (R.IMD_CTL.STATE ch) = 2) || (decide (d.rd (R.IMD_CTL.STATE ch) = 3) && d.on (R.OUT_CFG.WARNOK n)))
   | none => true)

/-- A failed sequence (R299): SEQ OPEN in WELDCHECK gives WELD or SEQFAIL; LOCK, INS and PRE give SEQFAIL; a WELD found elsewhere sets
its bit. -/
def Dev.outSeqFailed (d : Dev) (n : Nat) : Dev :=
  let o := d.outRt n
  match o.seqFail with
  | none => d
  | some code =>
    let d := d.setOut n { o with seqFail := none }
    let weld := decide (code = 2) || decide (code = 3)
    match o.cur with
    | 2 => d
    | 5 => if d.outState n = 7 then d.outImmediate n (if weld then 7 else 6) else if weld then d.outCause n 7 else d
    | _ => d.outImmediate n 6

/-- Immediate conditions of Table 15-3 that stand at S. -/
def Dev.outConditions (d : Dev) (n : Nat) : Dev :=
  let s := d.outState n
  let d := if 2 ≤ s ∧ s ≤ 7 ∧ d.on (R.OUT_STAT.CONN n) = false then d.outImmediate n 4 else d
  let d := if 3 ≤ s ∧ s ≤ 6 ∧ d.on (R.OUT_STAT.ELOOP n) = false then d.outImmediate n 3 else d
  if 4 ≤ s ∧ s ≤ 7 ∧ d.outCoil n (d.coilBit R.CTR_MISM.BIT) = true then d.outImmediate n 5 else d

/-- The rows of Table 15-1 without an immediate cause. -/
def Dev.outRows (d : Dev) (n : Nat) : Dev :=
  let o := d.outRt n
  let s := d.outState n
  if 3 ≤ s ∧ s ≤ 5 ∧ (o.quench = true ∨ d.mode = .quench) then d.outGo n 6 none
  else if 3 ≤ s ∧ s ≤ 5 ∧ d.pinAbove n (d.ttrip n) = true then d.outRamp n 15
  else if (s = 3 ∨ s = 5) ∧ d.outIso n = true then d.outRamp n 11
  else match s with
    | 0 => if d.on (R.OUT_STAT.CONN n) then d.outGo n 1 none else d
    | 1 => if d.on (R.OUT_STAT.CONN n) then d else (d.wr (R.OUT_STAT.LOCKED n) 0).outGo n 0 none
    | 3 =>
      let hold := d.gooseOutHold n
      let d := d.wrB (R.OUT_STAT.HOLDPRE n) hold
      if d.outInsOk n && !hold then (d.outGo n 4 none).outReq n 4 else d
    | 4 => if o.cur = 4 ∧ o.seqDone = true ∧ d.outCoilsMade n = true then d.outGo n 5 none else d
    | 6 =>
      (match o.izeroAt with
       | some t => if t + 1000000 ≤ d.stcNs then (d.outGo n 7 none).outReq n 5 else d
       | none => d)
    | 7 =>
      if o.cur = 5 ∧ o.seqDone = true ∧ o.vsafe = true then
        if o.pend ≠ 0 then d.outGo n 8 (some o.pend) else d.outGo n (if d.on (R.OUT_STAT.CONN n) then 1 else 0) none
      else d
    | _ => d

/-- The least of a list of causes. -/
def leastCause : List Nat → Nat
  | [] => 0
  | c :: cs => cs.foldl min c

/-- The evaluation of one output at S (R299, R301): immediate causes govern. -/
def Dev.outEval (d : Dev) (n : Nat) : Dev :=
  let d := (d.outSeqFailed n).outConditions n
  let imm := (d.outRt n).imm
  let d := d.setOut n { d.outRt n with imm := [] }
  let s := d.outState n
  if imm ≠ [] ∧ 2 ≤ s ∧ s ≤ 7 then d.outFault n (leastCause imm) else d.outRows n

/-! ## Commands (R300) -/

/-- An immediate cause of the output is still present: an active trip input that names it, or an open enable loop that has
faulted it. -/
def Dev.outCausePresent (d : Dev) (n : Nat) : Bool :=
  (List.range 96).any (fun i => d.tripActive i && decide ((d.tripRec i).action = 2) && testBit (d.tripRec i).outMask n) ||
  (testBit (d.rd (R.OUT_FCAUSE.CAUSE n)) 2 && d.on (R.OUT_STAT.CONN n) && !d.on (R.OUT_STAT.ELOOP n))

/-- CLR is refused (Table 15-2). -/
def Dev.clrBlocked (d : Dev) (n : Nat) : Bool :=
  let o := d.outRt n
  d.outCausePresent n || d.outCoil n d.coilOn || d.outCoil n (d.coilBit R.CTR_WELD.BIT) || d.outCoil n (d.coilBit R.CTR_MISM.BIT) ||
  o.engine.isSome || (decide (o.want ≠ 0) && o.retry) || decide (d.mode = .tripped)

/-- The refusal code of a command, 0 when it is accepted (Table 15-2). -/
def Dev.outCode (d : Dev) (n op : Nat) : Nat :=
  let s := d.outState n
  let modeOk := decide (d.mode = .ready) || decide (d.mode = .active) || decide (d.mode = .derate)
  let enabled := decide (d.rd (R.OUT_CTL.STATUS n) = 1)
  match op with
  | 1 => if s ≠ 1 then 1 else if !modeOk then 2 else if !enabled then 3 else 0
  | 2 => if s = 2 ∨ (s = 8 ∧ d.outCoil n d.coilOn = false) then 0 else 1
  | 3 => if s ≠ 2 then 1 else if !modeOk then 2 else if !enabled then 3 else if !d.on (R.OUT_STAT.ELOOP n) then 4
         else if !d.on (R.OUT_STAT.LOCKED n) then 5 else if d.pinAbove n (d.ttrip n - 1000) then 6
         else (match d.outImd n with | some ch => if d.rd (R.IMD_CTL.STATE ch) = 0 then 8 else 0 | none => 0)
  | 4 => if 3 ≤ s ∧ s ≤ 7 then 0 else 1
  | _ => if s ≠ 8 then 1 else if d.clrBlocked n then 7 else 0

/-- What an accepted command does (Table 15-1). -/
def Dev.outDo (d : Dev) (n op : Nat) : Dev :=
  let s := d.outState n
  match op with
  | 1 => (d.outGo n 2 none).outReq n 1
  | 2 => if s = 2 then (d.outGo n 1 none).outReq n 2 else d.outReq n 2
  | 3 => (d.outGo n 3 none).outReq n 3
  | 4 => if s ≤ 5 then d.outGo n 6 none else d
  | _ =>
    let o := d.outRt n
    let d := (d.setOut n { o with trips := 0 }).swClear (2 ^ n) o.trips
    d.outGo n (if d.on (R.OUT_STAT.CONN n) then 1 else 0) none

/-- A command checked and performed or refused (R300). -/
def Dev.outCmd (d : Dev) (n op : Nat) : Dev :=
  if op = 0 ∨ 5 < op then d
  else
    let code := d.outCode n op
    let d := d.wrAll [(R.OUT_CMD.RESULT n, if code = 0 then 2 else 3), (R.OUT_CMD.CODE n, code)]
    if code ≠ 0 then (d.bump (R.OUT_CNT.REFUSED n)).raise 49 0 [n, code] else d.outDo n op

/-- OUT_CMD written by the FMP: pending to the next S. -/
def Dev.outCmdFmp (d : Dev) (n op : Nat) : Dev :=
  if op = 0 ∨ 5 < op then d
  else (d.setOut n { d.outRt n with cmd := some op }).wrAll [(R.OUT_CMD.RESULT n, 1), (R.OUT_CMD.CODE n, 0)]

/-- The evaluation of the outputs at S, or on the 10 µs grid while no stream is active (R299, R300). -/
def Dev.outsAtS (d : Dev) : Dev :=
  if d.domOn .f4 then
    let d := d.forAll [0, 1, 2, 3] Dev.outEval
    d.forAll [0, 1, 2, 3] (fun d n => match (d.outRt n).cmd with
      | some op => (d.setOut n { d.outRt n with cmd := none }).outCmd n op
      | none => d)
  else d

/-- OUT_CTL.EN written (R305, R41). -/
def Dev.outEnable (d : Dev) (n : Nat) (en : Bool) : Dev :=
  let st := d.rd (R.OUT_CTL.STATUS n)
  let s := d.outState n
  let d := d.wrB (R.OUT_CTL.EN n) en
  if en then (if st = 0 then d.wr (R.OUT_CTL.STATUS n) 1 else d)
  else if st ≠ 1 then d
  else if 3 ≤ s ∧ s ≤ 5 then (d.setOut n { d.outRt n with quench := true, drainFault := false }).wr (R.OUT_CTL.STATUS n) 2
  else if 6 ≤ s ∧ s ≤ 7 then (d.setOut n { d.outRt n with drainFault := true }).wr (R.OUT_CTL.STATUS n) 2
  else d.wr (R.OUT_CTL.STATUS n) 0

/-- The conditions of RAMPDOWN and WELDCHECK at W (Table 15-1). -/
def Dev.outsAtW (d : Dev) : Dev :=
  d.forAll [0, 1, 2, 3] (fun d n =>
    let o := d.outRt n
    match d.outState n with
    | 6 =>
      if (d.snapAt (d.rd (R.TLM_SRC.ISIG n))).natAbs ≤ d.rd (R.OUT_IZERO.VALUE n) then
        (if o.izeroAt.isNone then d.setOut n { o with izeroAt := some d.stcNs } else d)
      else d.setOut n { o with izeroAt := none }
    | 7 =>
      if o.cur = 5 ∧ o.seqDone = true ∧ (d.snapAt (d.rd (R.TLM_SRC.VSIG n))).natAbs ≤ d.rd (R.OUT_VSAFE.VALUE n) then d.setOut n { o with vsafe := true } else d
    | _ => d)

/-- Point H of Table 2-5 (R307, R208): markers and welded contacts lead to FAULT. -/
def Dev.outsPointH (d : Dev) : Dev :=
  d.weldScan.forAll [0, 1, 2, 3] (fun d n =>
    let marked := (d.outRt n).marker
    let weld := d.outCoil n (d.coilBit R.CTR_WELD.BIT)
    let d := if marked then d.outCause n 10 else d
    let d := if weld then d.outCause n 7 else d
    if marked then d.outGo n 8 (some 10) else if weld then d.outGo n 8 (some 7) else d)

/-! ## Limits: the evaluation at S that finds one elapsed -/

/-- TLOCK_EXPIRY. -/
def Dev.tlockEnd (d : Dev) (n : Nat) : Dev := if d.outState n = 2 ∧ d.on (R.OUT_STAT.LOCKED n) = false then d.outTrip n 16 else d

/-- TINS_EXPIRY. -/
def Dev.tinsEnd (d : Dev) (n : Nat) : Dev := if d.outState n = 3 then d.outRamp n 16 else d

/-- TPRE_EXPIRY. -/
def Dev.tpreEnd (d : Dev) (n : Nat) : Dev := if d.outState n = 4 then d.outRamp n 16 else d

/-- TRAMP_EXPIRY. -/
def Dev.trampEnd (d : Dev) (n : Nat) : Dev := if d.outState n = 6 then d.outTrip n 8 else d

/-- TDIS_EXPIRY. -/
def Dev.tdisEnd (d : Dev) (n : Nat) : Dev :=
  let o := d.outRt n
  if d.outState n = 7 ∧ o.cur = 5 ∧ o.seqDone = true ∧ o.vsafe = false then d.outTrip n 9 else d

/-! ## Meanings -/

/-- OUT_LOCK (R300). -/
def execOutLock (output : Fin 4) (s : State) : Host.Outcome State Fault Refusal :=
  done s (fun d => if d.domOn .f4 then d.outCmd output 1 else d)

/-- OUT_UNLOCK (R300). -/
def execOutUnlock (output : Fin 4) (s : State) : Host.Outcome State Fault Refusal :=
  done s (fun d => if d.domOn .f4 then d.outCmd output 2 else d)

/-- OUT_START (R300). -/
def execOutStart (output : Fin 4) (s : State) : Host.Outcome State Fault Refusal :=
  done s (fun d => if d.domOn .f4 then d.outCmd output 3 else d)

/-- OUT_STOP (R300). -/
def execOutStop (output : Fin 4) (s : State) : Host.Outcome State Fault Refusal :=
  done s (fun d => if d.domOn .f4 then d.outCmd output 4 else d)

/-- OUT_CLR (R300). -/
def execOutClr (output : Fin 4) (s : State) : Host.Outcome State Fault Refusal :=
  done s (fun d => if d.domOn .f4 then d.outCmd output 5 else d)

/-- TLOCK_EXPIRY (Table 15-1). -/
def execTlockExpiry (output : Fin 4) (s : State) : Host.Outcome State Fault Refusal :=
  done s (fun d => if d.domOn .f4 then d.tlockEnd output else d)

/-- TINS_EXPIRY (Table 15-1). -/
def execTinsExpiry (output : Fin 4) (s : State) : Host.Outcome State Fault Refusal :=
  done s (fun d => if d.domOn .f4 then d.tinsEnd output else d)

/-- TPRE_EXPIRY (Table 15-1). -/
def execTpreExpiry (output : Fin 4) (s : State) : Host.Outcome State Fault Refusal :=
  done s (fun d => if d.domOn .f4 then d.tpreEnd output else d)

/-- TRAMP_EXPIRY (Table 15-1). -/
def execTrampExpiry (output : Fin 4) (s : State) : Host.Outcome State Fault Refusal :=
  done s (fun d => if d.domOn .f4 then d.trampEnd output else d)

/-- TDIS_EXPIRY (Table 15-1). -/
def execTdisExpiry (output : Fin 4) (s : State) : Host.Outcome State Fault Refusal :=
  done s (fun d => if d.domOn .f4 then d.tdisEnd output else d)

/-- OUT_SEQUENCE_RETRY (R299). -/
def execOutSequenceRetry (output : Fin 4) (s : State) : Host.Outcome State Fault Refusal :=
  done s (fun d => if d.domOn .f4 then d.outTry output else d)

/-- CONNECTOR_CHANGE (R308): the debounced level; it acts at the next S. -/
def execConnectorChange (output : Fin 4) (present : Bool) (s : State) : Host.Outcome State Fault Refusal :=
  done s (fun d => if d.domOn .f4 then d.wrB (R.OUT_STAT.CONN output) present else d)

/-- ENABLE_LOOP_CHANGE (R308). -/
def execEnableLoopChange (output : Fin 4) (closed : Bool) (s : State) : Host.Outcome State Fault Refusal :=
  done s (fun d => if d.domOn .f4 then d.wrB (R.OUT_STAT.ELOOP output) closed else d)

end Sys2Proof.Machine
end

