-- ==== Sys2Proof/Machine/Cable.lean ====
section
/-! DEFINITION. Coolant flow, fans and the cable thermal model (sections 15.4 and 15.5). -/

namespace Sys2Proof.Machine

def Dev.cable (d : Dev) (n : Nat) : CableRt := d.cbl.getD n {}

def Dev.setCable (d : Dev) (n : Nat) (x : CableRt) : Dev := { d with cbl := setAt d.cbl n x }

def Dev.pin (d : Dev) (n p : Nat) : PinRt := (d.cable n).pins.getD p {}

def Dev.setPin (d : Dev) (n p : Nat) (x : PinRt) : Dev :=
  d.setCable n { d.cable n with pins := setAt (d.cable n).pins p x }

/-! ## Flow and fans (R314, R315) -/

/-- The pump axis of an output is named and not in RUN. -/
def Dev.pumpStopped (d : Dev) (n : Nat) : Bool :=
  let ax := d.rd (R.CBL_CFG.PUMPAX n)
  decide (ax < 4) && decide (d.axisState ax ≠ 1)

/-- No-flow decided anew, with event 51 at its begin and its end (R314). -/
def Dev.noFlowCheck (d : Dev) (n : Nat) : Dev :=
  let now := d.pumpStopped n || (decide (d.rd (R.CBL_FLOWK.K n) ≠ 0) && decide (20 ≤ (d.cable n).lowFlow))
  if now = d.on (R.CBL_CTL.NOFLOW n) then d
  else (d.wrB (R.CBL_CTL.NOFLOW n) now).raise 51 (if now then 0 else 1) [n]

/-- The end of a 100 ms flow window with `count` pulses (R314). -/
def Dev.flowWindow (d : Dev) (n count : Nat) : Dev :=
  let k := d.rd (R.CBL_FLOWK.K n)
  let flow := if k = 0 then 0 else count * 6000 / k
  let low := if k ≠ 0 ∧ flow < d.rd (R.CBL_CFG.FMIN n) then (d.cable n).lowFlow + 1 else 0
  let d := d.setCable n { d.cable n with lowFlow := low }
  (d.wr (R.CBL_FLOW.FLOW n) (min flow 65535)).noFlowCheck n

/-- One second without a tach edge (R315). -/
def Dev.fanStall (d : Dev) (n : Nat) : Dev :=
  if 200 ≤ d.rd (R.CBL_FAN.DUTY n) ∧ d.on (R.CBL_TACH.STALL n) = false then (d.wr (R.CBL_TACH.STALL n) 1).raise 51 2 [n] else d

/-- A tach edge (R315): the speed from the time since the edge before, in whole µs. -/
def Dev.tachEdge (d : Dev) (n : Nat) : Dev :=
  let now := d.stcNs
  let us := match (d.cable n).tachAt with | some t => (now - t) / 1000 | none => 0
  let d := if us = 0 then d else d.wr (R.CBL_TACH.RPM n) (min 65535 (60000000 / (us * max 1 (d.rd (R.CBL_FAN.PPR n)))))
  (d.setCable n { d.cable n with tachAt := some now }).wr (R.CBL_TACH.STALL n) 0

/-! ## Thermal model (R316 to R319) -/

/-- `div` of the spec, a free value where the divisor is 0. -/
def Dev.divOpen (d : Dev) (a b : Int) : Int × Dev :=
  if b = 0 then ((Config.freeValue d.free : Nat), { d with free := d.free + 1 }) else (divz a b, d)

/-- tcool in 0.01 °C: the greater of inlet and outlet, or TCOOLDEF where either sensor is in FAULT (R314). -/
def Dev.coolTemp (d : Dev) (n : Nat) : Int :=
  let a := d.rd (R.CBL_COOL.TIN_IN n)
  let b := d.rd (R.CBL_COOL.TIN_OUT n)
  if d.on (R.FBA_TEMP.FAULT a) || d.on (R.FBA_TEMP.FAULT b) then 10 * d.rdS (R.CBL_COOL.TCOOLDEF n)
  else max (d.rdS (R.FBA_TEMP.VALUE a)) (d.rdS (R.FBA_TEMP.VALUE b))

/-- The output current of R316 in mA. -/
def Dev.cblCurrent (d : Dev) (n : Nat) : Int :=
  sat (rshRound (term (d.rd (R.CBL_IMANT.IMANT n) + 2 ^ 32 * d.rd (R.CBL_ISIG.ISH n)) (d.snapAt (d.rd (R.CBL_ISIG.ISIG n)))).1 30) 32

/-- One sample of an output at W (R316). -/
def Dev.cblSample (d : Dev) (n : Nat) : Dev :=
  let i := d.cblCurrent n
  let c := d.cable n
  let sq := [0, 1, 2, 3].map (fun p =>
    if d.on (R.CBL_PINCFG.EN n p) then
      let ip := divz (i * d.rd (R.CBL_PINCFG.SHARE n p)) 32768
      numAt c.s2 p + (ip * ip).toNat
    else numAt c.s2 p)
  d.setCable n { c with s2 := sq, n := c.n + 1 }

/-- The quantities of R317 for one pin in one millisecond. -/
structure PinHeat where
  rc : Int
  rk : Int
  qcool : Int
  qck : Int
  tc : Int
  tk : Int
  tlim : Int
  rthc : Int

/-- The node update of R317. -/
def Dev.pinHeat (d : Dev) (n p : Nat) (i2 tcool tpin tc tk : Int) : PinHeat :=
  let v := fun (f : Fld) => (d.rd f : Int)
  let rthc := if d.on (R.CBL_CTL.NOFLOW n) then v (R.CBL_RTHNF.VALUE n p) else v (R.CBL_RTHC.VALUE n p)
  let alc := v (R.CBL_ALC.VALUE n p)
  let rc := divz (v (R.CBL_RC0.VALUE n p) * (1000000 + divz (alc * (tc - 20000000)) 1000000)) 1000000
  let rk := divz (v (R.CBL_RK0.VALUE n p) * (1000000 + divz (alc * (tk - 20000000)) 1000000)) 1000000
  let pc := divz (i2 * rc) 1000000000
  let pk := divz (i2 * rk) 1000000000
  let qcool := divz ((tc - tcool) * 1000) rthc
  let qck := divz ((tc - tk) * 1000) (v (R.CBL_RTHK.VALUE n p))
  let tc' := tc + divz (pc - qcool - qck) (v (R.CBL_CC.VALUE n p))
  let tk' := max (tk + divz (pk + qck) (v (R.CBL_CK.VALUE n p))) (tpin * 10000)
  { rc := rc, rk := rk, qcool := qcool, qck := qck, tc := tc', tk := tk', rthc := rthc,
    tlim := (v (R.CBL_TMAX.TMAX n p) - v (R.CBL_TMAX.MARGIN n p)) * 100000 }

/-- ilim of R317 in mA; a zero resistance leaves its term open. -/
def Dev.pinLimit (d : Dev) (n p : Nat) (h : PinHeat) (tcool : Int) (fault : Bool) : Nat × Dev :=
  let v := fun (f : Fld) => (d.rd f : Int)
  let hor := v (R.CBL_HOR.HOR n)
  let rthk := v (R.CBL_RTHK.VALUE n p)
  let (k, d) := d.divOpen ((divz ((h.tlim - h.tk) * v (R.CBL_CK.VALUE n p)) hor - h.qck) * 1000000000) h.rk
  let (c, d) := d.divOpen ((divz ((h.tlim - h.tc) * v (R.CBL_CC.VALUE n p)) hor + h.qcool + h.qck) * 1000000000) h.rc
  let (s, d) := d.divOpen ((h.tlim - tcool) * 1000000000000) (h.rthc * (h.rc + h.rk) + rthk * h.rk)
  let ilim := isqrtWide (max (max 0 s) (min (max 0 k) (max 0 c))).toNat
  (if fault then min ilim (d.rd (R.CBL_ISAFE.ISAFE n)) else ilim, d)

/-- The sensor events of a pin (R319). -/
def Dev.pinEvents (d : Dev) (n p : Nat) : Dev :=
  let tin := d.rd (R.CBL_PINCFG.TIN n p)
  let fault := d.on (R.FBA_TEMP.FAULT tin)
  let hot := !fault && decide (d.ttrip n ≤ d.rdS (R.FBA_TEMP.VALUE tin))
  let x := d.pin n p
  let d := if hot && !x.hot then d.raise 50 1 [n, p] else d
  let d := if fault && !x.fault then d.raise 50 2 [n, p] else d
  d.setPin n p { d.pin n p with hot := hot, fault := fault }

/-- One pin at the W of a millisecond (R317): its nodes, its limit and its registers. -/
def Dev.pinMs (d : Dev) (n p : Nat) (i2 : Nat) : Nat × Dev :=
  let tin := d.rd (R.CBL_PINCFG.TIN n p)
  let fault := d.on (R.FBA_TEMP.FAULT tin)
  let tpin := d.rdS (R.FBA_TEMP.VALUE tin)
  let tcool := d.coolTemp n * 10000
  let start := if fault then tcool else tpin * 10000
  let x := d.pin n p
  let h := d.pinHeat n p i2 tcool tpin (if x.ready then x.tc else start) (if x.ready then x.tk else start)
  let (ilim, d) := d.pinLimit n p h tcool fault
  let d := d.setPin n p { d.pin n p with tc := h.tc, tk := h.tk, ready := true }
  let d := (d.wrS (R.CBL_TC.VALUE n p) (divz h.tc 10000)).wrS (R.CBL_TK.VALUE n p) (divz h.tk 10000)
  (ilim, (d.wr (R.CBL_PILIM.VALUE n p) (min ilim 0x7FFFFFFE)).pinEvents n p)

/-- Whether the new limit is reported (R318): it differs by more than NOTIFY ‰, at most once per 100 ms, and always to or from
"no limit". -/
def Dev.ilimReport (d : Dev) (n lim : Nat) : Bool :=
  let c := d.cable n
  let none' := 0x7FFFFFFF
  if lim = c.reported then false
  else if lim = none' ∨ c.reported = none' then true
  else decide (c.reported * d.rd (R.CBL_CFG.NOTIFY n) < ((lim : Int) - c.reported).natAbs * 1000) &&
    (match c.reportMs with | some t => decide (t + 100 ≤ d.stcNs / 1000000) | none => true)

/-- CBL_ILIM written, with event 50 where R318 asks for it. -/
def Dev.setIlim (d : Dev) (n lim : Nat) : Dev :=
  let d := d.wr (R.CBL_ILIM.ILIM n) lim
  if d.ilimReport n lim then
    (d.setCable n { d.cable n with reported := lim, reportMs := some (d.stcNs / 1000000) }).raise 50 0 [n, lim]
  else d

/-- One pin more of an output: the least limit so far, and the pin's share of it (R318). -/
def cblPinNext (n : Nat) (i2 : List Nat) (acc : Nat × Dev) (p : Nat) : Nat × Dev :=
  if acc.2.on (R.CBL_PINCFG.EN n p) then
    let r := acc.2.pinMs n p (numAt i2 p)
    let share := r.2.rd (R.CBL_PINCFG.SHARE n p)
    (if share = 0 then acc.1 else min acc.1 (min (r.2.rd (R.CBL_ICAP.ICAP n)) (min (r.1 * 32768 / share) 0x7FFFFFFE)), r.2)
  else acc

/-- One output at the W of a millisecond (R316 to R318). A drain ends here. -/
def Dev.cblMs (d : Dev) (n : Nat) : Dev :=
  let c := d.cable n
  let i2 := [0, 1, 2, 3].map (fun p => if c.n = 0 then 0 else numAt c.s2 p / c.n)
  let d := d.setCable n { c with s2 := [0, 0, 0, 0], n := 0 }
  let d := d.wrS (R.CBL_FLOW.TCOOL n) (divz (d.coolTemp n) 10)
  let r := [0, 1, 2, 3].foldl (cblPinNext n i2) (0x7FFFFFFF, d)
  let lim' := if r.1 = 0x7FFFFFFF then r.1 else min r.1 0x7FFFFFFE
  let d := r.2
  if d.rd (R.CBL_CTL.STATUS n) = 1 then d.setIlim n lim'
  else if d.rd (R.CBL_CTL.STATUS n) = 2 then d.wr (R.CBL_CTL.STATUS n) (if d.on (R.CBL_CTL.EN n) then 1 else 0)
  else d

/-- The cable model at a W; `ms` says that the tick runs the STC-gated slots of a millisecond. -/
def Dev.cablesAtW (d : Dev) (ms : Bool) : Dev :=
  if d.domOn .f2 then
    d.forAll [0, 1, 2, 3] (fun d n =>
      let d := d.noFlowCheck n
      if d.rd (R.CBL_CTL.STATUS n) = 0 then d
      else
        let d := if d.ceLive then d.cblSample n else d
        if ms then d.cblMs n else d)
  else d

/-- CBL_CTL.EN written (R40, R41, R316). -/
def Dev.cblEnable (d : Dev) (n : Nat) (en : Bool) : Dev :=
  let st := d.rd (R.CBL_CTL.STATUS n)
  let d := d.wrB (R.CBL_CTL.EN n) en
  if en then (if st = 0 then d.wr (R.CBL_CTL.STATUS n) 1 else d)
  else if st = 1 then (d.wr (R.CBL_CTL.STATUS n) 2).setIlim n 0x7FFFFFFF
  else d

/-- CBL_PINCFG.EN becomes 1, or F2 is switched on: the nodes start from the sensor (R317). -/
def Dev.pinStart (d : Dev) (n p : Nat) : Dev := d.setPin n p { d.pin n p with ready := false }

/-! ## Meanings -/

/-- FLOW_WINDOW: the next STC-aligned 100 ms ends with `count` pulses counted (R314). -/
def execFlowWindow (output : Fin 4) (count : Nat) (s : State) : Host.Outcome State Fault Refusal :=
  done s (fun d => if d.domOn .f2 then (d.advanceTo ((d.tm.q + 39999999) / 40000000 * 40000000)).flowWindow output count else d)

/-- FAN_STALL (R315). -/
def execFanStall (output : Fin 4) (s : State) : Host.Outcome State Fault Refusal :=
  done s (fun d => if d.domOn .f2 then d.fanStall output else d)

/-- TACH_EDGE (R315). -/
def execTachEdge (output : Fin 4) (s : State) : Host.Outcome State Fault Refusal :=
  done s (fun d => if d.domOn .f2 then d.tachEdge output else d)

end Sys2Proof.Machine
end

