-- ==== Sys2Proof/Machine/Can.lean ====
section
/-! DEFINITION. The CAN FD controllers (chapter 18). Controllers 0 and 1 are FCAN0 and FCAN1, 2 and 3 are HCAN0 and HCAN1; an
HCAN register stands at the offset of the same FCAN register. -/

namespace Sys2Proof.Machine

/-- The field of controller `c` that `f` names for FCAN. -/
def canAt (c : Nat) (f : Nat → Fld) : Fld :=
  if c < 2 then f c else { f (c - 2) with addr := (f (c - 2)).addr + 0x1FDF0000 }

def Dev.canRt (d : Dev) (c : Nat) : CanRt := d.can.getD c {}

def Dev.setCan (d : Dev) (c : Nat) (x : CanRt) : Dev := { d with can := setAt d.can c x }

/-- The controller's domain. -/
def canDom (c : Nat) : Dom := if c < 2 then .f4 else .h3

/-- The transmit and error event, and the receive event, of a controller (section 18.6). -/
def Dev.canTxEvent (d : Dev) (c kind : Nat) (data : List Nat) : Dev :=
  if c < 2 then d.raise (60 + c) kind data else d.raiseH (104 + 2 * (c - 2)) kind data

def Dev.canRxEvent (d : Dev) (c kind : Nat) (data : List Nat) : Dev :=
  if c < 2 then d.raise (60 + c) kind data else d.raiseH (105 + 2 * (c - 2)) kind data

/-- The controller's time stamp in ns (R351). -/
def Dev.canNow (d : Dev) (c : Nat) : Nat := if c < 2 then d.stcNs else d.htcNs

def Dev.canStatus (d : Dev) (c : Nat) : Nat := d.rd (canAt c R.FCAN_CTL.STATUS)

/-- TXCMD.STAT of a buffer (Table 18-3). -/
def canStat (c b : Nat) : Fld := canAt c (fun i => R.FCAN_TXCMD.STAT i b)

/-! ## Bit timing (R350) -/

/-- TIMBAD from the timing in force: a nominal bit below 80 clocks or a data bit below 10 clocks. -/
def Dev.canTiming (d : Dev) (c : Nat) : Dev :=
  let n := (d.rd (canAt c R.FCAN_NBT.NBRP) + 1) * (1 + (d.rd (canAt c R.FCAN_NBT.NTSEG1) + 1) + (d.rd (canAt c R.FCAN_NBT.NTSEG2) + 1))
  let t := (d.rd (canAt c R.FCAN_DBT.DBRP) + 1) * (1 + (d.rd (canAt c R.FCAN_DBT.DTSEG1) + 1) + (d.rd (canAt c R.FCAN_DBT.DTSEG2) + 1))
  d.wrB (canAt c R.FCAN_ERR.TIMBAD) (decide (n < 80) || decide (t < 10))

/-- The controller takes part in bus traffic: integrated, not in bus-off, with legal timing. -/
def Dev.canOnBus (d : Dev) (c : Nat) : Bool :=
  d.domOn (canDom c) && decide (d.canStatus c ≠ 0) && decide (d.rd (canAt c R.FCAN_ERR.STATE) ≠ 2) && !d.on (canAt c R.FCAN_ERR.TIMBAD)

/-! ## Frames (R351) -/

/-- Bytes of a DLC (R351). -/
def canLen (dlc : Nat) (fd : Bool) : Nat :=
  if dlc ≤ 8 then dlc
  else if fd then (match dlc with | 9 => 12 | 10 => 16 | 11 => 20 | 12 => 24 | 13 => 32 | 14 => 48 | _ => 64) else 8

/-- Bytes a frame's words hold: none for a remote frame. -/
def frameLen (w0 w1 : Nat) : Nat := if testBit w1 4 = false ∧ testBit w0 30 = true then 0 else canLen (w1 % 16) (testBit w1 4)

/-- A received frame in the 18 words of Table 18-2: bytes beyond the length and reserved bits read 0. -/
def canNormal (ws : List Nat) : List Nat :=
  let w0 := numAt ws 0 % 2 ^ 31
  let w1 := numAt ws 1 % 128
  let n := frameLen w0 w1
  w0 :: w1 :: (List.range 16).map (fun k => numAt ws (2 + k) % 2 ^ (8 * min 4 (n - 4 * k)))

/-- The arbitration field of a frame as a number; the lowest wins on the bus (R353). -/
def canArb (w0 w1 : Nat) : Nat :=
  let rtr := if testBit w1 4 then 0 else bit w0 30
  if testBit w0 29 then bits w0 28 18 * 2 ^ 21 + 2 ^ 20 + 2 ^ 19 + bits w0 17 0 * 2 + rtr else bits w0 28 18 * 2 ^ 21 + rtr * 2 ^ 20

def Dev.txWord (d : Dev) (c b k : Nat) : Nat := d.rd (canAt c (fun i => R.FCAN_TXB.WORD i b k))

/-! ## Error state (R355) -/

/-- A buffer ends. -/
def Dev.canEnd (d : Dev) (c b st : Nat) : Dev := (d.wr (canStat c b) st).canTxEvent c 1 [b, st]

/-- TEC and REC shown, and ERR.STATE with its event; bus-off ends the waiting buffers (Table 18-3) and starts recovery with
ABO. -/
def Dev.canShow (d : Dev) (c : Nat) : Dev :=
  let x := d.canRt c
  let d := (d.wr (canAt c R.FCAN_ERR.TEC) (min 255 x.tec)).wr (canAt c R.FCAN_ERR.REC) (min 255 x.rec')
  let old := d.rd (canAt c R.FCAN_ERR.STATE)
  let new := if 255 < x.tec then 2 else if old = 2 ∧ x.recovering = true then 2 else if 128 ≤ x.tec ∨ 128 ≤ x.rec' then 1 else 0
  if old = new then d
  else
    let d := (d.wr (canAt c R.FCAN_ERR.STATE) new).canTxEvent c 5 [new]
    if new = 2 then
      let d := d.setCan c { x with sending := none, abort := false, recovering := d.on (canAt c R.FCAN_CTL.ABO) }
      d.forAll [0, 1, 2] (fun d b => if d.rd (canStat c b) = 1 ∨ d.rd (canStat c b) = 2 then d.canEnd c b 7 else d)
    else d

/-- TEC and REC after a frame sent or received without error (ISO 11898-1:2015; log entry 60). -/
def Dev.canGood (d : Dev) (c : Nat) (asTx : Bool) : Dev :=
  if d.on (canAt c R.FCAN_CTL.LISTEN) then d
  else
    let x := d.canRt c
    if asTx then (d.setCan c { x with tec := x.tec - 1 }).canShow c
    else if x.rec' ≤ 127 then (d.setCan c { x with rec' := x.rec' - 1 }).canShow c
    else
      let (v, d) := d.drawFree 9
      (d.setCan c { x with rec' := 119 + v }).canShow c

/-- A drain whose last frame is done (R360). -/
def Dev.canSettle (d : Dev) (c : Nat) : Dev :=
  if d.canStatus c = 2 ∧ (d.canRt c).sending = none then
    d.wr (canAt c R.FCAN_CTL.STATUS) (if d.on (canAt c R.FCAN_CTL.EN) then 1 else 0)
  else d

/-! ## Receive (R356 to R359) -/

/-- An entry's 80 bytes (R359). -/
def canBytes (e : CanEntry) : List Byte := leBytes 8 e.stamp ++ (List.range 18).flatMap (fun k => leBytes 4 (numAt e.words k))

/-- The ring manager takes HCAN entries into ring 16 + 2i while it has owned descriptors (R343, R359). -/
def Dev.canFlushGo : Nat → Dev → Nat → Dev
  | 0, d, _ => d
  | n + 1, d, c =>
    match (d.canRt c).ring with
    | [] => d
    | e :: rest =>
      let r := 16 + 2 * (c - 2)
      let d := d.ringReach r
      if d.ringReady r then
        let d := d.setCan c { d.canRt c with ring := rest }
        Dev.canFlushGo n (Dev.ringFrameGo 81 d r (canBytes e) e.mb true) c
      else d

/-- The receive ring shown, and for HCAN emptied. -/
def Dev.canFlush (d : Dev) (c : Nat) : Dev :=
  let d := if 2 ≤ c then Dev.canFlushGo 64 d c else d
  d.wr (canAt c R.FCAN_RXSTAT.ENTRIES) (d.canRt c).ring.length

/-- A frame put into the receive ring, or dropped when all 64 entries are full (R359). -/
def Dev.canToRing (d : Dev) (c : Nat) (e : CanEntry) : Dev :=
  let x := d.canRt c
  if 64 ≤ x.ring.length then (d.bump (canAt c R.FCAN_CNT.RINGOVR)).canRxEvent c 6 []
  else (d.setCan c { x with ring := x.ring ++ [e] }).canFlush c

def mbNew (c m : Nat) : Fld := canAt c (fun i => R.FCAN_MBSTAT.NEW i m)
def mbLock (c m : Nat) : Fld := canAt c (fun i => R.FCAN_MBSTAT.LOCK i m)
def mbShadow (c m : Nat) : Fld := canAt c (fun i => R.FCAN_MBSTAT.SHADOW i m)

/-- The words of a mailbox. -/
def Dev.mbPut (d : Dev) (c m : Nat) (e : CanEntry) : Dev :=
  let x := d.canRt c
  let d := d.setCan c { x with mbs := setAt x.mbs m { x.mbs.getD m {} with stamp := e.stamp } }
  d.forAll (List.range 18) (fun d k => d.wr (canAt c (fun i => R.FCAN_MB.WORD i m k)) (numAt e.words k))

def Dev.setShadow (d : Dev) (c m : Nat) (s : Option CanEntry) : Dev :=
  let x := d.canRt c
  (d.setCan c { x with mbs := setAt x.mbs m { x.mbs.getD m {} with shadow := s } }).wrB (mbShadow c m) s.isSome

/-- A frame for a mailbox (R358). -/
def Dev.mbStore (d : Dev) (c m : Nat) (e : CanEntry) : Dev :=
  let ovr := fun (d : Dev) => (d.bump (canAt c (fun i => R.FCAN_MBSTAT.OVR i m))).canRxEvent c 4 [m]
  if d.on (mbLock c m) then
    if d.on (mbShadow c m) then ovr (d.setShadow c m (some e)) else d.setShadow c m (some e)
  else if d.on (mbNew c m) then ovr (d.mbPut c m e)
  else ((d.mbPut c m e).wr (mbNew c m) 1).canRxEvent c 2 [m]

/-- The filter of a mailbox matches a frame (R356). -/
def Dev.mbMatches (d : Dev) (c m : Nat) (w0 w1 : Nat) : Bool :=
  let f := fun (g : Nat → Nat → Fld) => d.rd (canAt c (fun i => g i m))
  decide (f R.FCAN_MBCFG.MODE ≠ 0) && decide (Nat.land (Nat.xor (w0 % 2 ^ 29) (f R.FCAN_MBFLT.ID)) (f R.FCAN_MBMASK.MASK) = 0) &&
  decide (f R.FCAN_MBCFG.IDE = bit w0 29) && (decide (f R.FCAN_MBCFG.FDFCHK = 0) || decide (f R.FCAN_MBCFG.FDF = bit w1 4))

/-- A frame received without error (R356); `at'` is its stamp. -/
def Dev.canReceive (d : Dev) (c : Nat) (ws : List Nat) (at' : Nat) : Dev :=
  let ws := canNormal ws
  match (List.range 16).find? (fun m => d.mbMatches c m (numAt ws 0) (numAt ws 1)) with
  | some m =>
    let e : CanEntry := { stamp := at', words := ws, mb := m }
    let d := d.mbStore c m e
    if d.rd (canAt c (fun i => R.FCAN_MBCFG.MODE i m)) = 2 then d.canToRing c e else d
  | none =>
    if d.on (canAt c R.FCAN_CTL.RINGALL) then d.canToRing c { stamp := at', words := ws, mb := 0xFF }
    else d.bump (canAt c R.FCAN_CNT.FILTERED)

/-- Word 0 of a mailbox read: it locks (R357). -/
def Dev.mbReadLock (d : Dev) (c m : Nat) : Dev :=
  let v := d.rd (canAt c (fun i => R.FCAN_MB.WORD i m 0))
  let d := { d with lastRead := v }
  if d.on (mbLock c m) then d
  else (d.wr (mbLock c m) 1).wr (canAt c (fun i => R.FCAN_MBTS.NS i m)) (((d.canRt c).mbs.getD m {}).stamp)

/-- L of R357 for the frame a mailbox holds. -/
def Dev.mbLast (d : Dev) (c m : Nat) : Nat :=
  1 + (frameLen (d.rd (canAt c (fun i => R.FCAN_MB.WORD i m 0))) (d.rd (canAt c (fun i => R.FCAN_MB.WORD i m 1))) + 3) / 4

/-- The release of a locked mailbox: a shadow frame moves in (R357, R358). -/
def Dev.mbRelease (d : Dev) (c m : Nat) : Dev :=
  if d.on (mbLock c m) then
    let d := d.wr (mbLock c m) 0
    match ((d.canRt c).mbs.getD m {}).shadow with
    | some e => (d.setShadow c m none).mbPut c m e
    | none => d.wr (mbNew c m) 0
  else d

/-- A read of word `k` of a mailbox. -/
def Dev.mbRead (d : Dev) (c m k : Nat) : Dev :=
  if k = 0 then d.mbReadLock c m
  else
    let last := d.mbLast c m
    let d := { d with lastRead := d.rd (canAt c (fun i => R.FCAN_MB.WORD i m k)) }
    if k = last then d.mbRelease c m else d

/-- A write of a mailbox filter register empties the mailbox and its shadow (R356). -/
def Dev.mbFilter (d : Dev) (c m : Nat) (reg v : Nat) : Dev :=
  let w := fun (d : Dev) (g : Nat → Nat → Fld) (x : Nat) => d.wr (canAt c (fun i => g i m)) x
  let d := match reg with
    | 0 => w d R.FCAN_MBFLT.ID (v % 2 ^ 29)
    | 1 => w d R.FCAN_MBMASK.MASK (v % 2 ^ 29)
    | _ => w (w (w (w d R.FCAN_MBCFG.FDFCHK (bit v 5)) R.FCAN_MBCFG.FDF (bit v 4)) R.FCAN_MBCFG.IDE (bit v 3)) R.FCAN_MBCFG.MODE (v % 4)
  let d := (d.mbPut c m { words := [] }).setShadow c m none
  (d.wr (mbNew c m) 0).wr (mbLock c m) 0

/-- RXPOP (R359). -/
def Dev.canPop (d : Dev) (c : Nat) : Dev := (d.setCan c { d.canRt c with ring := (d.canRt c).ring.drop 1 }).canFlush c

/-! ## Transmit (R352 to R354, R360) -/

/-- Buffer 2 of an HCAN controller is fed from its ring. -/
def Dev.canRingFed (d : Dev) (c b : Nat) : Bool := decide (2 ≤ c) && decide (b = 2) && d.on (R.HRNG_CFG.EN (17 + 2 * (c - 2)))

/-- The next descriptor of ring 17 + 2i given to buffer 2: its frame words (R351), when the buffer is free. -/
def Dev.canFeed (d : Dev) (c : Nat) : Dev :=
  let st := d.rd (canStat c 2)
  if d.canRingFed c 2 && decide (st ≠ 1) && decide (st ≠ 2) && decide (d.canStatus c = 1) && !(d.canRt c).fed then
    let r := 17 + 2 * (c - 2)
    let d := d.ringReach r
    if d.ringReady r then
      let bs := Mem.readBytes d.hmem (Mem.readNat d.hmem (d.ringHead r) 8) (min 72 (Mem.readNat d.hmem (d.ringHead r + 8) 4))
      let d := d.forAll (List.range 18) (fun d k => d.wr (canAt c (fun i => R.FCAN_TXB.WORD i 2 k)) (leAt bs (4 * k) 4))
      let d := d.wrAll [(canStat c 2, 1), (canAt c (fun i => R.FCAN_TXCMD.ARBN i 2), 0), (canAt c (fun i => R.FCAN_TXCMD.ERRN i 2), 0)]
      d.setCan c { d.canRt c with fed := true, fedAt := d.htcNs }
    else d
  else d

/-- The descriptor of a ring-fed frame that has ended: DONE and TS, ERR 5 when it was not sent. -/
def Dev.canFedDone (d : Dev) (c : Nat) (ok : Bool) : Dev :=
  if (d.canRt c).fed then
    let r := 17 + 2 * (c - 2)
    let x := d.canRt c
    let a := d.ringHead r
    let n := Mem.readNat d.hmem (a + 8) 4
    let d := { d.setCan c { x with fed := false } with rings := { d.rings with fill := setAt d.rings.fill r (if ok then n else 0) } }
    let d := d.ringComplete r (if ok then 0 else 5) 2 (testBit (Mem.readNat d.hmem (a + 24) 4) 1) (testBit (Mem.readNat d.hmem (a + 24) 4) 2)
    { d with hmem := Mem.writeNat d.hmem (a + 16) 8 x.fedAt }.canFeed c
  else d.canFeed c

/-- A buffer that ends other than DONE, with its descriptor where it was fed. -/
def Dev.canStop (d : Dev) (c b st : Nat) : Dev :=
  let d := (d.setCan c { d.canRt c with sending := if (d.canRt c).sending = some b then none else (d.canRt c).sending, abort := false }).canEnd c b st
  (if b = 2 then d.canFedDone c false else d).canSettle c

/-- REQ written (R352). -/
def Dev.canReq (d : Dev) (c b : Nat) : Dev :=
  if d.canRingFed c b then d.wr (canAt c (fun i => R.FCAN_TXCMD.WRIGN i b)) 1
  else
    let d := d.wr (canAt c (fun i => R.FCAN_TXCMD.WRIGN i b)) 0
    if d.on (canAt c R.FCAN_CTL.LISTEN) ∨ d.canStatus c ≠ 1 ∨ d.rd (canStat c b) = 1 ∨ d.rd (canStat c b) = 2 then d
    else d.wrAll [(canStat c b, 1), (canAt c (fun i => R.FCAN_TXCMD.ARBN i b), 0), (canAt c (fun i => R.FCAN_TXCMD.ERRN i b), 0)]

/-- ABORT written (R352). -/
def Dev.canAbort (d : Dev) (c b : Nat) : Dev :=
  match d.rd (canStat c b) with
  | 1 => d.canStop c b 4
  | 2 => d.setCan c { d.canRt c with abort := true }
  | _ => d

/-- A frame word of a transmit buffer written (R352). -/
def Dev.txWrite (d : Dev) (c b k v : Nat) : Dev :=
  let st := d.rd (canStat c b)
  if st = 1 ∨ st = 2 ∨ d.canRingFed c b = true then d.wr (canAt c (fun i => R.FCAN_TXCMD.WRIGN i b)) 1
  else d.wr (canAt c (fun i => R.FCAN_TXB.WORD i b k)) v

/-- The buffer that R353 chooses. -/
def Dev.canChoose (d : Dev) (c : Nat) : Option Nat :=
  let waiting := [0, 1, 2].filter (fun b => d.rd (canStat c b) == 1)
  if d.on (canAt c R.FCAN_CTL.ORDER) then waiting.head?
  else
    waiting.foldl (fun (best : Option Nat) b => match best with
      | none => some b
      | some a => if canArb (d.txWord c b 0) (d.txWord c b 1) < canArb (d.txWord c a 0) (d.txWord c a 1) then some b else some a) none

/-- A start of frame (R353). -/
def Dev.canStart (d : Dev) (c : Nat) : Dev :=
  if d.canOnBus c && !d.on (canAt c R.FCAN_CTL.LISTEN) && (d.canRt c).sending.isNone then
    match d.canChoose c with
    | none => d
    | some b =>
      let now := d.canNow c
      let x := d.canRt c
      (d.setCan c { x with sending := some b, abort := false, fedAt := if b = 2 then now else x.fedAt }).wrAll
        [(canStat c b, 2), (canAt c (fun i => R.FCAN_TXTS.NS i b), now % 2 ^ 32)]
  else d

/-- The frame sent is acknowledged (Table 18-3); with LOOP it is received too. -/
def Dev.canSent (d : Dev) (c : Nat) : Dev :=
  match (d.canRt c).sending with
  | none => d
  | some b =>
    let x := d.canRt c
    let words := (List.range 18).map (d.txWord c b)
    let at' := d.rd (canAt c (fun i => R.FCAN_TXTS.NS i b))
    let d := ((d.setCan c { x with sending := none, abort := false }).wr (canStat c b) 3).canTxEvent c 0 [b]
    let d := d.canGood c true
    let d := if x.loop then d.canReceive c words (d.canNow c / 2 ^ 32 * 2 ^ 32 + at') else d
    let d := if b = 2 then d.canFedDone c true else d
    d.canSettle c

/-- Arbitration lost (R354, R352, R360). -/
def Dev.canLost (d : Dev) (c : Nat) : Dev :=
  match (d.canRt c).sending with
  | none => d
  | some b =>
    let n := d.rd (canAt c (fun i => R.FCAN_TXCMD.ARBN i b))
    if (d.canRt c).abort then d.canStop c b 4
    else if d.canStatus c = 2 then d.canStop c b 8
    else if n < d.rd (canAt c R.FCAN_RETRY.ALRETRY) then
      ((d.setCan c { d.canRt c with sending := none }).wrAll [(canStat c b, 1), (canAt c (fun i => R.FCAN_TXCMD.ARBN i b), n + 1)]).bump
        (canAt c R.FCAN_CNT.ARBLOST)
    else d.canStop c b 5

/-- An error during a frame (R354, R355): LEC, the counters of ISO 11898-1:2015 (`step` is what TEC or REC rises by), and the
buffer's retry when it was sending. -/
def Dev.canError (d : Dev) (c lec step : Nat) : Dev :=
  let listen := d.on (canAt c R.FCAN_CTL.LISTEN)
  let d := if listen then d else (d.wr (canAt c R.FCAN_ERR.LEC) lec).bump (canAt c R.FCAN_CNT.BUSERR)
  match (d.canRt c).sending with
  | none =>
    if listen then d else (d.setCan c { d.canRt c with rec' := min 255 ((d.canRt c).rec' + step) }).canShow c
  | some b =>
    let d := if listen then d else (d.setCan c { d.canRt c with tec := (d.canRt c).tec + step }).canShow c
    if d.rd (canStat c b) ≠ 2 then (if b = 2 then d.canFedDone c false else d).canSettle c
    else
      let n := d.rd (canAt c (fun i => R.FCAN_TXCMD.ERRN i b))
      if (d.canRt c).abort then d.canStop c b 4
      else if d.canStatus c = 2 then d.canStop c b 8
      else if n < d.rd (canAt c R.FCAN_RETRY.ERRETRY) then
        (d.setCan c { d.canRt c with sending := none }).wrAll [(canStat c b, 1), (canAt c (fun i => R.FCAN_TXCMD.ERRN i b), n + 1)]
      else d.canStop c b 6

/-- RECOVER written (R355). -/
def Dev.canRecover (d : Dev) (c : Nat) : Dev :=
  if d.rd (canAt c R.FCAN_ERR.STATE) = 2 ∧ d.on (canAt c R.FCAN_CTL.ABO) = false then d.setCan c { d.canRt c with recovering := true } else d

/-- 128 sequences of 11 recessive bits seen (R355). -/
def Dev.canRecovered (d : Dev) (c : Nat) : Dev :=
  if d.rd (canAt c R.FCAN_ERR.STATE) = 2 ∧ (d.canRt c).recovering = true then
    ((d.setCan c { d.canRt c with tec := 0, rec' := 0, recovering := false }).canShow c).canFeed c
  else d

/-- CTL.EN written (R360, R41). -/
def Dev.canEnable (d : Dev) (c : Nat) (en : Bool) : Dev :=
  let st := d.canStatus c
  let d := d.wrB (canAt c R.FCAN_CTL.EN) en
  if en then
    if st = 0 then
      let d := d.setCan c { d.canRt c with loop := d.on (canAt c R.FCAN_CTL.LOOP) }
      ((d.wr (canAt c R.FCAN_CTL.STATUS) 1).canTiming c).canFeed c
    else d
  else if st = 1 then
    let d := d.wr (canAt c R.FCAN_CTL.STATUS) 2
    let d := d.forAll [0, 1, 2] (fun d b => if d.rd (canStat c b) = 1 then d.canStop c b 8 else d)
    d.canSettle c
  else d

/-- CTL written as a whole: LOOP counts only while the controller is DISABLED (R355). -/
def Dev.canCtlWrite (d : Dev) (c v : Nat) : Dev :=
  let d := d.wrAll [(canAt c R.FCAN_CTL.RINGALL, bit v 11), (canAt c R.FCAN_CTL.PEX, bit v 10), (canAt c R.FCAN_CTL.ABO, bit v 9),
    (canAt c R.FCAN_CTL.ORDER, bit v 8), (canAt c R.FCAN_CTL.LOOP, bit v 7), (canAt c R.FCAN_CTL.LISTEN, bit v 6)]
  let d := if d.canStatus c = 0 then d.setCan c { d.canRt c with loop := testBit v 7 } else d
  let d := if testBit v 12 then d.canRecover c else d
  d.canEnable c (testBit v 0)

/-- TXCMD written as a whole (R352): ABORT wins over REQ. -/
def Dev.txCmdWrite (d : Dev) (c b v : Nat) : Dev :=
  if testBit v 31 then d.canAbort c b else if testBit v 30 then d.canReq c b else d

/-! ## Meanings -/

/-- A command of controller `c` acts while its domain is on. -/
def Dev.onCan (d : Dev) (c : Nat) (f : Dev → Dev) : Dev := if d.domOn (canDom c) then f d else d

/-- CAN_TX_REQ (R352). -/
def execCanTxReq (ctrl : Fin 4) (buf : Fin 3) (s : State) : Host.Outcome State Fault Refusal := done s (·.onCan ctrl (·.canReq ctrl buf))

/-- CAN_TX_ABORT (R352). -/
def execCanTxAbort (ctrl : Fin 4) (buf : Fin 3) (s : State) : Host.Outcome State Fault Refusal := done s (·.onCan ctrl (·.canAbort ctrl buf))

/-- CAN_START_OF_FRAME (R353). -/
def execCanStartOfFrame (ctrl : Fin 4) (s : State) : Host.Outcome State Fault Refusal := done s (·.onCan ctrl (·.canStart ctrl))

/-- CAN_TRANSMIT_COMPLETE (R352). -/
def execCanTransmitComplete (ctrl : Fin 4) (s : State) : Host.Outcome State Fault Refusal := done s (·.onCan ctrl (·.canSent ctrl))

/-- CAN_ARBITRATION_LOST (R354). -/
def execCanArbitrationLost (ctrl : Fin 4) (s : State) : Host.Outcome State Fault Refusal := done s (·.onCan ctrl (·.canLost ctrl))

/-- CAN_FRAME_ERROR: LEC, and what the counter of the sender or the receiver rises by (R354, R355). -/
def execCanFrameError (ctrl : Fin 4) (lec : Fin 7) (step : Fin 9) (s : State) : Host.Outcome State Fault Refusal :=
  done s (·.onCan ctrl (·.canError ctrl lec step))

/-- CAN_RECOVER (R355). -/
def execCanRecover (ctrl : Fin 4) (s : State) : Host.Outcome State Fault Refusal := done s (·.onCan ctrl (·.canRecover ctrl))

/-- CAN_BUSOFF_RECOVERY_COMPLETE (R355). -/
def execCanBusoffRecoveryComplete (ctrl : Fin 4) (s : State) : Host.Outcome State Fault Refusal := done s (·.onCan ctrl (·.canRecovered ctrl))

/-- CAN_FRAME_RECEIVED: the words of Table 18-2 of a frame received without error (R356). -/
def execCanFrameReceived (ctrl : Fin 4) (words : List Nat) (s : State) : Host.Outcome State Fault Refusal :=
  done s (·.onCan ctrl (fun d => if d.canOnBus ctrl then (d.canGood ctrl false).canReceive ctrl words (d.canNow ctrl) else d))

/-- CAN_MAILBOX_LOCK (R357). -/
def execCanMailboxLock (ctrl : Fin 4) (mb : Fin 16) (s : State) : Host.Outcome State Fault Refusal := done s (·.onCan ctrl (·.mbRead ctrl mb 0))

/-- CAN_MAILBOX_RELEASE: a read of the last frame word (R357). -/
def execCanMailboxRelease (ctrl : Fin 4) (mb : Fin 16) (s : State) : Host.Outcome State Fault Refusal :=
  done s (·.onCan ctrl (fun d => d.mbRead ctrl mb (d.mbLast ctrl mb)))

/-- CAN_RXPOP (R359). -/
def execCanRxpop (ctrl : Fin 2) (s : State) : Host.Outcome State Fault Refusal := done s (·.onCan ctrl (·.canPop ctrl))

/-- CAN_FILTER_WRITE: MBFLT, MBMASK or MBCFG (R356). -/
def execCanFilterWrite (ctrl : Fin 4) (mb : Fin 16) (reg : Fin 3) (value : Nat) (s : State) : Host.Outcome State Fault Refusal :=
  done s (·.onCan ctrl (·.mbFilter ctrl mb reg value))

end Sys2Proof.Machine
end

