-- ==== Sys2Proof/Machine/HostPlat.lean ====
section
/-! DEFINITION. The host platform (chapter 17) and the management ports (section 22.4): ECC, image slots, the transmit side of
the ring manager, the event router and the peripherals. -/

namespace Sys2Proof.Machine

/-! ## Memory errors (R339) -/

/-- One ECC error of host memory; the address is the one the read used. An injected one ends its injection (Table 21-1). -/
def Dev.hostEcc (d : Dev) (sram : Bool) (addr : Nat) (uncorr : Bool) : Dev :=
  let base := if sram then 0x10000000 else 0x80000000
  let word := (addr - base) / 8
  let d := d.wr R.HMEM_ECCADDR.ADDR (if sram then 0xFFFFFFFF else word)
  let d := match d.injected 33 (b2n sram) with
    | some i => if i.par % 2 ^ 25 = word then d.injUse 33 (b2n sram) else d
    | none => d
  if uncorr then (d.bump R.HMEM_ECC.UNCORR).raiseH (if sram then 70 else 69) 0 [addr]
  else (d.bump R.HMEM_ECC.CORR).raiseH 68 0 [addr]

/-! ## Image slots (R341) -/

def Dev.slot (d : Dev) (i : Nat) : ImgSlot := d.hp.slots.getD i {}

def Dev.setSlot (d : Dev) (i : Nat) (x : ImgSlot) : Dev := { d with hp := { d.hp with slots := setAt d.hp.slots i x } }

/-- HSYS_IMGSTAT shown. -/
def Dev.imgShow (d : Dev) (fallback : Bool) : Dev :=
  let run := d.hp.running.getD 0
  d.wrAll [(R.HSYS_IMGSTAT.ASTATE, (d.slot 0).st), (R.HSYS_IMGSTAT.BSTATE, (d.slot 1).st), (R.HSYS_IMGSTAT.SLOT, run),
    (R.HSYS_IMGSTAT.TRY, (d.slot run).tries), (R.HSYS_IMGSTAT.FALLBACK, b2n fallback)]

/-- A slot whose image fails its signature counts as EMPTY. -/
def slotState (x : ImgSlot) : Nat := if x.ok then x.st else 0

/-- The GOOD slot with the higher generation. -/
def Dev.goodSlot (d : Dev) : Option Nat :=
  let good := [0, 1].filter (fun i => slotState (d.slot i) == 2)
  match good with
  | [0, 1] => some (if (d.slot 1).gen < (d.slot 0).gen then 0 else 1)
  | [i] => some i
  | _ => none

/-- The ROM's choice of the slot to boot (R341). A TRIAL slot whose tries are spent becomes EMPTY. -/
def Dev.hostBootSlot (d : Dev) : Dev :=
  let trial := [0, 1].filter (fun i => slotState (d.slot i) == 1)
  match trial.find? (fun i => decide ((d.slot i).tries < d.hp.tries)) with
  | some i =>
    let d := d.setSlot i { d.slot i with tries := (d.slot i).tries + 1 }
    ({ d with hp := { d.hp with running := some i } }).imgShow false
  | none =>
    let d := d.forAll trial (fun d i => d.setSlot i { d.slot i with st := 0, tries := 0 })
    let back := !trial.isEmpty && d.goodSlot.isSome
    let run := d.goodSlot
    let d := ({ d with hp := { d.hp with running := run } }).imgShow back
    if back then d.raiseH 65 0 [] else d

/-- HSYS_IMGOK (R341): it counts only while the running slot is TRIAL. -/
def Dev.imgOk (d : Dev) (v : Nat) : Dev :=
  match d.hp.running with
  | some i =>
    if bits v 31 16 = 0x600D ∧ (d.slot i).st = 1 then
      let d := d.setSlot i { d.slot i with st := 2, gen := (d.slot (1 - i)).gen + 1 }
      (d.imgShow (d.on R.HSYS_IMGSTAT.FALLBACK)).raiseH 67 0 [i]
    else d
  | none => d

/-! ## Rings: transmit and TAIL (R342 to R344) -/

/-- Descriptors from `idx` on that lie before TAIL and are owned by hardware, up to the first with EOP; none when there is no
such run. -/
def Dev.frameDescs (d : Dev) (r : Nat) : Nat → Nat → Option (List Nat)
  | 0, _ => none
  | n + 1, idx =>
    if d.ringOwnedAt r idx then
      if testBit (d.descCtrl r idx) 2 then some [idx]
      else (d.frameDescs r n ((idx + 1) % d.ringSize r)).map (idx :: ·)
    else none

/-- The current transmit descriptor completed: LEN bytes sent. -/
def Dev.ringSent (d : Dev) (r err info : Nat) : Dev :=
  let c := d.descCtrl r (d.rd (R.HRNG_HEAD.IDX r))
  let n := Mem.readNat d.hmem (d.ringHead r + 8) 4
  let d := { d with rings := { d.rings with fill := setAt d.rings.fill r (if err = 0 then n else 0) } }
  d.ringComplete r err info (testBit c 1) (testBit c 2)

/-- The next whole frame of a transmit ring, its descriptors completed. -/
def Dev.ringTakeFrame (d : Dev) (r info : Nat) : Option (List Byte) × Dev :=
  if !d.on (R.HRNG_CFG.EN r) || d.rings.stopped.getD r false then (none, d)
  else
    match d.frameDescs r (d.ringSize r) (d.rd (R.HRNG_HEAD.IDX r)) with
    | none => (none, d.ringReach r)
    | some is =>
      let bytes := is.flatMap (fun i => Mem.readBytes d.hmem (Mem.readNat d.hmem (d.descAt r i) 8) (Mem.readNat d.hmem (d.descAt r i + 8) 4))
      (some bytes, d.forAll is (fun d _ => d.ringSent r 0 info))

/-- The last frame a host port sent. -/
def Dev.hostSent (d : Dev) (port : Nat) (f : List Byte) : Dev := { d with hp := { d.hp with sent := setAt d.hp.sent port f } }

/-- 10BASE-T1S frames waiting in ring 9 + 2n are sent while the port is ENABLED (R309). -/
def Dev.t1sSendGo : Nat → Dev → Nat → Dev
  | 0, d, _ => d
  | k + 1, d, n =>
    match d.ringTakeFrame (9 + 2 * n) n with
    | (some f, d) => Dev.t1sSendGo k (d.hostSent (2 + n) f) n
    | (none, d) => d

def Dev.t1sSend (d : Dev) (n : Nat) : Dev :=
  if d.domOn .h3 ∧ d.rd (R.VEH_T1SSTAT.STATUS n) = 1 then Dev.t1sSendGo (d.ringSize (9 + 2 * n)) d n else d

/-- The whole cells of a descriptor of ring 27 (R344), up to one whose TYPE is no host-to-field bulk type. -/
def Dev.bulkCells (d : Dev) : Nat → List Byte → Dev × Bool
  | 0, _ => (d, true)
  | n + 1, bs =>
    let ty := leAt bs 0 1
    if [0x60, 0x61, 0x68, 0x74, 0x78].contains ty then
      (d.sendH ((queueOfType ty).getD 3) { ty := ty, payload := slice bs 4 (min 56 (bits (leAt bs 0 4) 13 8)) }).bulkCells n (bs.drop 64)
    else (d, false)

/-- Ring 27's waiting descriptors turned into host-to-field bulk cells. -/
def Dev.bulkSendGo : Nat → Dev → Dev
  | 0, d => d
  | k + 1, d =>
    let d := d.ringReach 27
    if d.ringReady 27 then
      let n := Mem.readNat d.hmem (d.ringHead 27 + 8) 4
      let xfer := Mem.readNat d.hmem (Mem.readNat d.hmem (d.ringHead 27) 8 + 4) 1
      let (d, ok) := d.bulkCells (n / 64) (Mem.readBytes d.hmem (Mem.readNat d.hmem (d.ringHead 27) 8) (n / 64 * 64))
      if ok then Dev.bulkSendGo k (d.ringSent 27 0 xfer)
      else
        let d := d.ringSent 27 4 xfer
        { d with rings := { d.rings with stopped := setAt d.rings.stopped 27 true } }
    else d

/-- Cells waiting in the endpoint for ring 20. -/
def Dev.flush20 : Nat → Dev → Dev
  | 0, d => d
  | n + 1, d =>
    match d.rings.wait20 with
    | [] => d
    | c :: rest =>
      let (d', ok) := d.ringCell 20 c
      if ok then Dev.flush20 n { d' with rings := { d'.rings with wait20 := rest } } else d'

/-- Cells waiting for ring 21; their buffers are freed as they are taken (R343). -/
def Dev.flush21 : Nat → Dev → Dev
  | 0, d => d
  | n + 1, d =>
    match d.rings.wait21 with
    | [] => d
    | c :: rest =>
      let (d', ok) := d.ringCell 21 c
      if ok then
        let d' := { d' with rings := { d'.rings with wait21 := rest } }
        Dev.flush21 n (d'.setRecvDir .host ((d'.recvDir .host).free 2 1))
      else d'

/-- Bulk bytes waiting for ring `r`, oldest first. -/
def Dev.flushBulk : Nat → Dev → Nat → Dev
  | 0, d, _ => d
  | n + 1, d, r =>
    match takeFirst (fun (w : BulkWait) => w.ring == r) d.rings.waitBulk with
    | none => d
    | some (w, rest) =>
      let (d', ok) := d.ringData r w.bytes w.xfer w.sop w.eop
      if ok then Dev.flushBulk n ({ d' with rings := { d'.rings with waitBulk := rest } }.takeCell .host w.ty) r else d'

/-- What a ring does when descriptors return to it. -/
def Dev.ringServe (d : Dev) (r : Nat) : Dev :=
  if r = 20 then Dev.flush20 65 d
  else if r = 21 then Dev.flush21 (d.rings.wait21.length) d
  else if r = 22 ∨ r = 23 ∨ r = 25 ∨ r = 26 then Dev.flushBulk d.rings.waitBulk.length d r
  else if r = 16 then d.canFlush 2
  else if r = 18 then d.canFlush 3
  else if r = 17 then d.canFeed 2
  else if r = 19 then d.canFeed 3
  else if r = 27 then Dev.bulkSendGo (d.ringSize 27) d
  else if 8 ≤ r ∧ r < 16 ∧ r % 2 = 1 then d.t1sSend ((r - 9) / 2)
  else if r = 24 then (if d.ringReady 24 then (d.wr R.HDIA_JSTAT.STALL 0).jrnDrain else d)
  else d

/-- HRNG_TAIL written (R342). -/
def Dev.ringTail (d : Dev) (r idx : Nat) : Dev :=
  let d := { d with rings := { d.rings with stopped := setAt d.rings.stopped r false } }
  (d.wr (R.HRNG_TAIL.IDX r) idx).ringServe r

/-- HRNG_CFG.EN written (R40, Table 2-6): the current descriptor is completed first. -/
def Dev.ringEnable (d : Dev) (r : Nat) (en : Bool) : Dev :=
  let st := d.rd (R.HRNG_CFG.STATUS r)
  let d := d.wrB (R.HRNG_CFG.EN r) en
  if en then (if st = 0 then (d.wr (R.HRNG_CFG.STATUS r) 1).ringServe r else d)
  else if st = 1 then d.wr (R.HRNG_CFG.STATUS r) (if numAt d.rings.fill r = 0 then 0 else 2)
  else d

/-- The current descriptor of a draining ring completes. -/
def Dev.ringDrained (d : Dev) (r : Nat) : Dev :=
  if d.rd (R.HRNG_CFG.STATUS r) = 2 then
    let d := if numAt d.rings.fill r = 0 then d else d.ringDataEnd r 0 0 true
    d.wr (R.HRNG_CFG.STATUS r) (if d.on (R.HRNG_CFG.EN r) then 1 else 0)
  else d

/-- TIME µs have passed (R344, R345): a receive descriptor in progress completes, and collected completions raise the event. -/
def Dev.ringCoal (d : Dev) (r : Nat) : Dev :=
  if d.rd (R.HRNG_COAL.TIME r) = 0 then d
  else
    let d := if 0 < numAt d.rings.fill r ∧ d.ringReady r = true then d.ringDataEnd r 0 0 false else d
    if numAt d.rings.collected r = 0 then d
    else ({ d with rings := { d.rings with collected := setAt d.rings.collected r 0 } }).ringEvent r

/-! ## Event router (R346) -/

/-- A source is pending. -/
def Dev.srcPend (d : Dev) (n : Nat) : Bool := testBit (d.rd (R.HEVT_PEND.PEND (n / 32))) (n % 32)

/-- A source may be delivered to a core: pending, enabled, for that core, above its threshold, and not in service. -/
def Dev.srcReady (d : Dev) (c n : Nat) : Bool :=
  d.srcPend n && d.on (R.HEVT_SRC.EN n) && testBit (d.rd (R.HEVT_SRC.CORE n)) c &&
  decide (d.rd (R.HEVT_THR.THR c) < d.rd (R.HEVT_SRC.PRIO n)) && !d.hp.service.contains n

/-- The highest-priority source of a core; ties go to the lowest number. -/
def Dev.srcBest (d : Dev) (c : Nat) : Option Nat :=
  (List.range 128).foldl (fun (best : Option Nat) n =>
    if d.srcReady c n then
      match best with
      | none => some n
      | some b => if d.rd (R.HEVT_SRC.PRIO b) < d.rd (R.HEVT_SRC.PRIO n) then some n else best
    else best) none

/-- HEVT_CLAIM read. -/
def Dev.claimRead (d : Dev) (c : Nat) : Dev :=
  match d.srcBest c with
  | none => { d with lastRead := 0xFF }
  | some n =>
    let d := d.wr (R.HEVT_PEND.PEND (n / 32)) (clearBit (d.rd (R.HEVT_PEND.PEND (n / 32))) (n % 32))
    { d with lastRead := n, hp := { d.hp with service := d.hp.service ++ [n] } }

/-- HEVT_CLAIM written: the source is complete. -/
def Dev.claimWrite (d : Dev) (n : Nat) : Dev := { d with hp := { d.hp with service := d.hp.service.filter (fun x => decide (x ≠ n)) } }

/-! ## Management ports (section 22.4) -/

/-- The PHY of a management port reports (R241). -/
def Dev.hostLink (d : Dev) (p : Nat) (up supported : Bool) : Dev :=
  let was := d.on (R.HNET_PORT.LINK p)
  let now := up && supported
  let d := (d.wrB (R.HNET_PORT.LINK p) now).wrB (R.HNET_PORT.SPEEDERR p) (up && !supported)
  if up && !supported then d.raiseH (96 + p) 2 [p] else if was = now then d else d.raiseH (96 + p) (b2n now) [p]

/-- Whether a frame passes the port's filter: its own address, broadcast, multicast with ALLMULTI, anything with PROMISC. -/
def Dev.hostAccepts (d : Dev) (p : Nat) (f : List Byte) : Bool :=
  let dst := beAt f 0 6
  let own := d.rd (R.HNET_MAC_HI.OCTETS p) * 2 ^ 32 + d.rd (R.HNET_MAC_LO.OCTETS p)
  d.on (R.HNET_RXFLT.PROMISC p) || decide (dst = own) || decide (dst = 2 ^ 48 - 1) || (d.on (R.HNET_RXFLT.ALLMULTI p) && testBit (beAt f 0 1) 0)

/-- A received frame of a management port. -/
def Dev.hostFrame (d : Dev) (p : Nat) (f : List Byte) (fcsOk : Bool) : Dev :=
  if d.rd (R.HNET_PORT.STATUS p) = 0 ∨ d.on (R.HNET_PORT.LINK p) = false then d
  else if !fcsOk then d.bump (R.HNET_CNT.FCS p)
  else if d.hostAccepts p f then
    let pcp := if beAt f 12 2 = 0x8100 then beAt f 14 2 / 2 ^ 13 else 0
    d.ringFrame (if d.rd (R.HNET_RXFLT.PCPSPLIT p) ≤ pcp then 4 * p + 2 else 4 * p) f p
  else d.bump (R.HNET_CNT.FILTERED p)

/-- A frame starts on a management port; which of its two transmit rings goes first is open. -/
def Dev.hostTxStart (d : Dev) (p : Nat) : Dev :=
  if d.rd (R.HNET_PORT.STATUS p) ≠ 1 ∨ d.on (R.HNET_PORT.LINK p) = false then d
  else
    let (v, d) := d.drawFree 2
    let r1 := 4 * p + 1 + 2 * v
    let r2 := 4 * p + 3 - 2 * v
    match d.ringTakeFrame r1 p with
    | (some f, d) => d.hostSent p f
    | (none, d) =>
      match d.ringTakeFrame r2 p with
      | (some f, d) => d.hostSent p f
      | (none, d) => d

/-! ## Peripherals (R347) -/

/-- The event of a peripheral instance. -/
def hperEvent (i : Nat) : Nat := if i < 4 then 124 else if i < 6 then 125 else if i < 8 then 126 else 127

/-- A completed transfer or received bytes of a peripheral, through its ring or its FIFO of 64 bytes. -/
def Dev.hperTransfer (d : Dev) (i : Nat) (bs : List Byte) (err : Bool) : Dev :=
  if d.rd (R.HPER_CTL.STATUS i) = 0 then d
  else
    let r := d.rd (R.HPER_DMASEL.RING i)
    let dma := decide (28 ≤ r) && decide (r < 32) && d.on (R.HRNG_CFG.EN r)
    let d := if dma then
        if d.on (R.HRNG_CFG.DIR r) then
          let d := d.ringReach r
          if d.ringReady r then Dev.ringFrameGo (bs.length + 1) d r bs i true else d.wr (R.HPER_STAT.OVERRUN i) 1
        else (d.ringTakeFrame r i).2
      else
        let q := d.hp.rx.getD i [] ++ bs
        let d := { d with hp := { d.hp with rx := setAt d.hp.rx i (q.take 64), tx := setAt d.hp.tx i [] } }
        let d := if 64 < q.length then d.wr (R.HPER_STAT.OVERRUN i) 1 else d
        if bs = [] then d else d.wr (R.HPER_STAT.FIFO i) 1
    let d := (d.wr (R.HPER_STAT.DONE i) 1).when err (·.wr (R.HPER_STAT.ERROR i) 1)
    let d := if d.rd (R.HPER_CTL.STATUS i) = 2 then d.wr (R.HPER_CTL.STATUS i) (if d.on (R.HPER_CTL.EN i) then 1 else 0) else d
    d.raiseH (hperEvent i) 0 [i]

/-- HPER_CTL.EN written: with a byte or transfer in progress the instance drains (R347). -/
def Dev.hperEnable (d : Dev) (i : Nat) (en : Bool) : Dev :=
  let st := d.rd (R.HPER_CTL.STATUS i)
  let d := d.wrB (R.HPER_CTL.EN i) en
  if en then (if st = 0 then d.wr (R.HPER_CTL.STATUS i) 1 else d)
  else if st = 1 then d.wr (R.HPER_CTL.STATUS i) (if d.hp.tx.getD i [] = [] then 0 else 2) else d

/-- A GPIO pin changes level. -/
def Dev.gpioEdge (d : Dev) (pin : Nat) (level : Bool) : Dev :=
  let v := d.rd (R.HPER_DATA.DATA 9)
  let d' := d.wr (R.HPER_DATA.DATA 9) (if level then setBit v pin else clearBit v pin)
  if testBit v pin ≠ level ∧ testBit (d.rd R.HPER_EVT.EN) pin = true ∧ d.rd (R.HPER_CTL.STATUS 9) ≠ 0 then d'.raiseH 127 0 [9, pin, b2n level] else d'

/-! ## Meanings -/

/-- HRNG_TAIL_WRITE (R342). -/
def execHrngTailWrite (ring : Fin 32) (index : Nat) (s : State) : Host.Outcome State Fault Refusal :=
  done s (fun d => if d.domOn .h1 then d.ringTail ring index else d)

/-- RING_COAL_TIMEOUT (R345). -/
def execRingCoalTimeout (ring : Fin 32) (s : State) : Host.Outcome State Fault Refusal :=
  done s (fun d => if d.domOn .h1 then d.ringCoal ring else d)

/-- HSYS_IMGOK: the word written (R341). -/
def execHsysImgok (value : Nat) (s : State) : Host.Outcome State Fault Refusal :=
  done s (fun d => if d.domOn .h1 then d.imgOk value else d)

/-- HEVT_CLAIM_READ (R346). -/
def execHevtClaimRead (core : Fin 4) (s : State) : Host.Outcome State Fault Refusal :=
  done s (fun d => if d.domOn .h1 then d.claimRead core else d)

/-- HEVT_CLAIM_WRITE (R346). -/
def execHevtClaimWrite (source : Nat) (s : State) : Host.Outcome State Fault Refusal :=
  done s (fun d => if d.domOn .h1 then d.claimWrite source else d)

/-- GPIO_EDGE (R347). -/
def execGpioEdge (pin : Fin 32) (level : Bool) (s : State) : Host.Outcome State Fault Refusal :=
  done s (fun d => if d.domOn .h3 then d.gpioEdge pin level else d)

/-- PERIPHERAL_TRANSFER: instances 0 to 3 UART, 4 and 5 SPI, 6 and 7 I2C, 8 USB; bytes received (R347). -/
def execPeripheralTransfer (inst : Fin 9) (bytes : List Byte) (err : Bool) (s : State) : Host.Outcome State Fault Refusal :=
  done s (fun d => if d.domOn .h3 then d.hperTransfer inst bytes err else d)

/-- ETH_LINK_CHANGE: ports 0 and 1 are the field ports, 2 and 3 the management ports (R241). -/
def execEthLinkChange (port : Fin 4) (up supported : Bool) (s : State) : Host.Outcome State Fault Refusal :=
  done s (fun d =>
    if port.val < 2 then (if d.domOn .f4 then d.fieldLink port up supported else d)
    else if d.domOn .h3 then d.hostLink (port.val - 2) up supported else d)

/-- ETH_FRAME_RECEIVE (R244). -/
def execEthFrameReceive (port : Fin 4) (frame : List Byte) (fcsOk : Bool) (s : State) : Host.Outcome State Fault Refusal :=
  done s (fun d =>
    if port.val < 2 then (if d.domOn .f4 then d.fieldFrame port frame fcsOk else d)
    else if d.domOn .h3 then d.hostFrame (port.val - 2) frame fcsOk else d)

/-- ETH_TRANSMIT_START (R245). -/
def execEthTransmitStart (port : Fin 4) (s : State) : Host.Outcome State Fault Refusal :=
  done s (fun d =>
    if port.val < 2 then (if d.domOn .f4 then d.fieldTxStart port else d)
    else if d.domOn .h3 then d.hostTxStart (port.val - 2) else d)

end Sys2Proof.Machine
end

