-- ==== Sys2Proof/Machine/Security.lean ====
section
/-! DEFINITION. Keys, boot and attestation (chapter 19): signed objects and tokens, pairing and key delivery, the field
statement, the enclave's commands, random sources, tamper inputs and boundary scan. -/

namespace Sys2Proof.Machine

/-! ## Signed objects (R370) -/

/-- The 208-byte trailer of Table 4-4. -/
def trailerOf (bs : List Byte) : List Byte := bs.drop (bs.length - 208)

/-- The PUBKEY of a trailer. -/
def trailerKey (bs : List Byte) : List Byte := slice (trailerOf bs) 16 96

/-- The trailer's MAGIC is correct and its signature verifies over bytes 0 to TOTAL − 209. -/
def trailerVerifies (bs : List Byte) : Bool :=
  decide (208 ≤ bs.length) && decide (leAt (trailerOf bs) 0 4 = 0x4749535A) &&
  Config.ecdsaVerify (trailerKey bs) (Config.sha384 (bs.take (bs.length - 208))) (slice (trailerOf bs) 112 96)

/-- A slot is programmed, is not revoked, and holds SHA-384 of a public key. -/
def Dev.slotHolds (d : Dev) (side : Side) (n : Nat) (pub : List Byte) : Bool :=
  decide ((d.fuses side).slots.getD n none = some (Config.sha384 pub)) && !testBit (d.fuses side).rev n

/-- The slot that KEYSLOT names for a class whose slot 0 is `base`: that class's slot, or DBGKEY (2). -/
def slotNamed (base : Nat) (bs : List Byte) : Option Nat :=
  match leAt (trailerOf bs) 4 1 with
  | 0 => some base
  | 1 => some (base + 1)
  | 2 => some 2
  | _ => none

/-- The object is signed under the slot that it names. -/
def Dev.signedUnder (d : Dev) (side : Side) (base : Nat) (bs : List Byte) : Option Nat :=
  match slotNamed base bs with
  | some n => if d.slotHolds side n (trailerKey bs) && trailerVerifies bs then some n else none
  | none => none

/-- The object is signed by the Sirora factory key (R370). -/
def factorySigned (bs : List Byte) : Bool := decide (Config.sha384 (trailerKey bs) = Config.factoryKeyHash) && trailerVerifies bs

/-- R370 on an object of a class: `base` is 0 for OWN and 3 for MLR. -/
def Dev.signedOk (d : Dev) (side : Side) (base : Nat) (bs : List Byte) : Bool :=
  match d.lc side with
  | 0 => factorySigned bs
  | 4 => false
  | _ => match d.signedUnder side base bs with
    | some 2 => d.dbgen side
    | some _ => true
    | none => false

/-! ## Tokens (R363, R373, R374, R400) -/

/-- CHAL drawn anew from the DRBG (R373). -/
def Dev.newChal (d : Dev) (side : Side) : Dev :=
  d.forAll (List.range 4) (fun d i =>
    let q := d.drawFree (2 ^ 32)
    q.2.wr (match side with | .field => R.FSEC_CHAL.WORD i | .host => R.SEC_CHAL.WORD i) q.1)

/-- The challenge in force. -/
def Dev.chal (d : Dev) : Side → List Byte
  | .field => d.rdWords R.FSEC_CHAL.WORD 4
  | .host => d.rdWords R.SEC_CHAL.WORD 4

/-- Byte 5 of a token body, or byte 4 of an injection token: the die. -/
def dieCode : Side → Nat
  | .host => 0
  | .field => 1

def Dev.paired (d : Dev) : Side → Bool
  | .field => d.on R.FSEC_STATE.PAIRED
  | .host => d.on R.SEC_STATE.PAIRED

def Dev.lcPend (d : Dev) : Side → Bool
  | .field => d.on R.FSEC_STATE.LCPEND
  | .host => d.on R.SEC_STATE.LCPEND

/-- The signing key of a token is one that R374, Table 19-2 and R370 all permit: in MANUFACTURE the factory key alone, for a
lifecycle token. -/
def Dev.tokenSigned (d : Dev) (side : Side) (kind target : Nat) (bs : List Byte) : Bool :=
  let lc := d.lc side
  let mlr := decide (kind = 4) && (decide (target = 3) || decide (target = 4))
  let slot := d.signedUnder side (if mlr then 3 else 0) bs
  let bySlot := match slot with
    | some n => decide (n ≠ 2) && !((kind == 3 || kind == 4) && n == target)
    | none => false
  if lc = 4 then false
  else if lc = 0 then decide (kind = 2) && factorySigned bs
  else bySlot || (decide (lc = 3) && decide (kind = 2) && decide (target = 4) && factorySigned bs)

/-- KIND and TARGET are permitted from the present lifecycle (R363, Table 19-2, Table 19-3). -/
def Dev.tokenAllowed (d : Dev) (side : Side) (kind target : Nat) : Bool :=
  let lc := d.lc side
  let f := d.fuses side
  match kind with
  | 1 => decide (lc = 1) || decide (lc = 2)
  | 2 => !d.lcPend side && (match target with
    | 1 => decide (lc = 0) && decide (f.root ≠ 0) && decide (f.uid ≠ 0) && (f.slots.getD 0 none).isSome
    | 2 => decide (lc = 1) && d.paired side
    | 3 => decide (lc = 1) || decide (lc = 2)
    | 4 => decide (lc < 4)
    | _ => false)
  | _ => true

/-- The slots of a target's class that are programmed and not revoked. -/
def Fuses.liveOf (f : Fuses) (target : Nat) : List Nat :=
  (if 3 ≤ target then [3, 4] else [0, 1]).filter (fun n => (f.slots.getD n none).isSome && !testBit f.rev n)

/-- The target slot may be programmed or revoked (R374). -/
def Dev.tokenSlotOk (d : Dev) (side : Side) (kind target : Nat) : Bool :=
  let f := d.fuses side
  let top := match side with | .field => 5 | .host => 3
  match kind with
  | 3 => decide (1 ≤ target) && decide (target < top) && (f.slots.getD target none).isNone && !testBit f.rev target
  | 4 => decide (target < top) && (f.slots.getD target none).isSome && !testBit f.rev target &&
      (decide (target = 2) || decide (2 ≤ (f.liveOf target).length))
  | _ => true

/-- The body is a well-formed token of the KIND (Table 19-6). -/
def tokenFormed (kind : Nat) (bs : List Byte) : Bool :=
  decide (bs.length = 304) && decide (leAt bs 0 4 = 0x4B54535A) && decide (leAt bs 4 1 = kind) && decide (1 ≤ kind) && decide (kind ≤ 4) &&
  decide (leAt bs 7 1 = 0) && decide (leAt bs 80 16 = 0) && (decide (kind = 3) || decide (leAt bs 32 48 = 0))

/-- The code of Table 19-7 up to the fuses: the first check that fails, 0 with none. -/
def Dev.tokenCode (d : Dev) (side : Side) (kind : Nat) (bs : List Byte) : Nat :=
  let target := leAt bs 6 1
  if tokenFormed kind bs = false then 1
  else if leAt bs 5 1 ≠ dieCode side ∨ leAt bs 8 8 ≠ (d.fuses side).uid then 2
  else if slice bs 16 16 ≠ d.chal side then 3
  else if d.tokenSigned side kind target bs = false then 4
  else if d.tokenAllowed side kind target = false then 5
  else if side = .field ∧ kind = 2 ∧ d.mode.readyOrLower = false then 6
  else if d.tokenSlotOk side kind target = false then 7
  else 0

/-- LC with every group below the target's count blown. -/
def lcBlown (lc target : Nat) : Nat := Nat.lor lc (2 ^ (4 * target) - 1)

/-- The identity key of the peer in the current pairing. -/
def Dev.peerKey (d : Dev) : Side → List Byte
  | .field => d.fsec.peer
  | .host => d.enc.fid

/-- `n` free bytes (log entry 3). -/
def Dev.freeBytes (d : Dev) (n : Nat) : List Byte × Dev :=
  ((List.range n).map (fun i => BitVec.ofNat 8 (Config.freeValue (d.free + i))), { d with free := d.free + n })

/-- The fuses blown for an accepted token (R363, R374). Where the verify fails, what the blown field then reads is open. -/
def Dev.blow (d : Dev) (side : Side) (kind target : Nat) (hash : List Byte) (ok : Bool) : Dev :=
  let f := d.fuses side
  match kind with
  | 2 =>
    if ok then d.setFuses side { f with lc := lcBlown f.lc target, pin := if target = 2 then some (Config.sha384 (d.peerKey side)) else f.pin }
    else
      let q := d.drawFree 65536
      q.2.setFuses side { f with lc := Nat.lor f.lc (Nat.land q.1 (lcBlown f.lc target)) }
  | 3 =>
    if ok then d.setFuses side { f with slots := setAt f.slots target (some hash) }
    else
      let q := d.freeBytes 48
      q.2.setFuses side { f with slots := setAt f.slots target (some q.1) }
  | _ =>
    if ok then d.setFuses side { f with rev := setBit f.rev target }
    else
      let q := d.drawFree 2
      q.2.setFuses side { f with rev := if q.1 = 1 then setBit f.rev target else f.rev }

/-- TOKSTAT written, with the die's token event. -/
def Dev.tokStat (d : Dev) (side : Side) (kind code : Nat) : Dev :=
  let res := if code = 0 then 2 else 3
  match side with
  | .field => (d.wrAll [(R.FSEC_TOKSTAT.RESULT, res), (R.FSEC_TOKSTAT.CODE, code), (R.FSEC_TOKSTAT.KIND, kind)]).raise 6 0 [kind, code]
  | .host => (d.wrAll [(R.SEC_TOKSTAT.RESULT, res), (R.SEC_TOKSTAT.CODE, code), (R.SEC_TOKSTAT.KIND, kind)]).raiseH 109 0 [kind, code]

/-- The slot and revocation bits shown after a blow; lifecycle and pin show from the next reset (R363). -/
def Dev.slotShow (d : Dev) (side : Side) : Dev :=
  let f := d.fuses side
  match side with
  | .field => d.wrAll [(R.FSEC_STATE.REV, f.rev), (R.FSEC_STATE.PROG, f.prog)]
  | .host => d.wrAll [(R.SEC_STATE.REV, f.rev), (R.SEC_STATE.PROG, f.prog)]

/-- A token of KIND 1 to 4 checked and, if accepted, carried out (R365, R363, R374). The Bool says whether it was accepted. -/
def Dev.token (d : Dev) (side : Side) (kind : Nat) (bs : List Byte) (fuseOk : Bool) : Dev × Bool :=
  let target := leAt bs 6 1
  let code := d.tokenCode side kind bs
  if code ≠ 0 then (d.tokStat side (leAt bs 4 1) code, false)
  else if kind = 1 then
    let arm := match side with | .field => R.FSEC_STATE.DBGARM | .host => R.SEC_STATE.DBGARM
    (((d.wr arm 1).newChal side).tokStat side kind 0, true)
  else
    let d := d.blow side kind target (slice bs 32 48) fuseOk
    let d := d.slotShow side
    if fuseOk = false then (d.tokStat side kind 8, false)
    else
      let d := if kind = 2 then d.wr (match side with | .field => R.FSEC_STATE.LCPEND | .host => R.SEC_STATE.LCPEND) 1 else d
      ((d.newChal side).tokStat side kind 0, true)

/-- The code of an injection token (R400, Table 21-3). -/
def Dev.injTokenCode (d : Dev) (side : Side) (bs : List Byte) : Nat :=
  let nb := leAt bs 32 8
  let na := leAt bs 40 8
  let count := leAt bs 54 2
  if bs.length ≠ 272 ∨ leAt bs 0 4 ≠ 0x4A4E495A ∨ leAt bs 5 3 ≠ 0 ∨ leAt bs 53 1 ≠ 0 ∨ leAt bs 56 8 ≠ 0 ∨ na < nb ∨
      nb + 86400 * 10 ^ 9 < na ∨ count = 0 ∨ 1000 < count then 1
  else if leAt bs 4 1 ≠ dieCode side ∨ leAt bs 8 8 ≠ (d.fuses side).uid then 2
  else if slice bs 16 16 ≠ d.chal side then 3
  else if d.lc side = 0 ∨ d.lc side = 4 ∨ (match d.signedUnder side 0 bs with | some n => decide (n ≠ 2) | none => false) = false then 4
  else 0

/-- An injection token checked and, if accepted, put in place of the one before, whose injections end (R399, R400). -/
def Dev.injToken (d : Dev) (side : Side) (bs : List Byte) : Dev × Bool :=
  let code := d.injTokenCode side bs
  if code ≠ 0 then (d.tokStat side 5 code, false)
  else
    let t : InjToken := { notBefore := leAt bs 32 8, notAfter := leAt bs 40 8, points := leAt bs 48 4, inst := leAt bs 52 1, count := leAt bs 54 2 }
    let old := (match side with | .field => d.inj.field | .host => d.inj.host).filter Injection.byToken
    let d := (d.forAll old (fun d i => d.injEnd i.point i.inst)).tripSync
    let d := match side with
      | .field => { d with inj := { d.inj with tokenF := some t } }
      | .host => { d with inj := { d.inj with tokenH := some t } }
    (((d.injShow.newChal side).tokStat side 5 0).raiseOn side 63 120 3 [leAt bs 48 4, leAt bs 52 1, leAt bs 54 2], true)

/-- A token of either shape, by its MAGIC and KIND (R373, R400). -/
def Dev.anyToken (d : Dev) (side : Side) (bs : List Byte) : Dev × Bool :=
  if leAt bs 0 4 = 0x4A4E495A then d.injToken side bs else d.token side (leAt bs 4 1) bs true

/-- The enclave's answer to a command: SEC_CMD and event 108 (Table 19-11). -/
def Dev.encDone (d : Dev) (code : Nat) : Dev :=
  (d.wrAll [(R.SEC_CMD.RESULT, if code = 0 then 2 else 3), (R.SEC_CMD.CODE, code)]).raiseH 108 0 [code]

/-- A token presented to a die: field tokens by FSEC, host tokens by the enclave TOKEN command, which answers besides. -/
def Dev.present (d : Dev) (side : Side) (f : Dev → Dev × Bool) : Dev :=
  match side with
  | .field => if d.domOn .f1 then (f d).1 else d
  | .host => if d.domOn .h1 then (f d).1.encDone (if (f d).2 then 0 else 7) else d

/-- RELOCK written (R365). -/
def Dev.relock (d : Dev) (side : Side) : Dev :=
  match side with
  | .field => if d.domOn .f1 then d.wr R.FSEC_STATE.DBGARM 0 else d
  | .host => if d.domOn .h1 then d.wr R.SEC_STATE.DBGARM 0 else d

/-! ## Pairing (R375) -/

/-- K_T followed by K_B from z and the two nonces. -/
def pairKeys (z nH nF : List Byte) : List Byte := kdfWith z 0xC0 1 0 0 0 (nH ++ nF) 512

/-- A private P-384 key drawn from the DRBG. -/
def Dev.drawKey (d : Dev) : Nat × Dev := ((d.drawFree (p384Order - 1)).1 + 1, (d.drawFree (p384Order - 1)).2)

/-- The end of a pairing on the field side: RESULT and CODE, event 6 KIND 1. -/
def Dev.pairStat (d : Dev) (code : Nat) : Dev :=
  (d.wrAll [(R.FSEC_PAIRCTL.CODE, code), (R.FSEC_PAIRCTL.RESULT, if code = 0 then 2 else 3)]).raise 6 1 [code]

/-- FSEC_PAIRCTL.GO. -/
def Dev.pairGo (d : Dev) : Dev :=
  let x := d.rdWords R.FSEC_PAIRIN.WORD 76
  let dev := slice x 0 96
  let eH := slice x 96 96
  let nH := slice x 192 16
  let said := Config.sha384 ([1] ++ eH ++ nH ++ leBytes 8 d.ffuse.uid)
  if Config.ecdsaVerify dev said (slice x 208 96) = false then d.pairStat 2
  else if d.lc .field = 2 ∧ (d.dbgen .field = true ∨ d.ffuse.pin ≠ some (Config.sha384 dev)) then d.pairStat 3
  else if d.on R.FSEC_TRNG.FAIL then d.pairStat 5
  else
    let k := d.drawKey
    let n := k.2.freeBytes 16
    let d := n.2
    let eF := Config.ecdsaPublic k.1
    let nF := n.1
    let d := d.wrWords R.FSEC_PAIROUT.WORD (d.pubKey .field 0x82 ++ eF ++ nF ++ d.signBytes .field 0x82 ([2] ++ eF ++ nF ++ eH ++ nH))
    let keys := pairKeys (Config.ecdh k.1 eH) nH nF
    let d := { d with fsec := { d.fsec with kt := some (keys.take 32), kb := keys.drop 32, usedXfer := [], peer := dev } }
    (d.wr R.FSEC_STATE.PAIRED 1).pairStat 0

/-! ## Key slots of the field side (R376) -/

/-- The end of a key command: RESULT and CODE, event 6 KIND 2. -/
def Dev.keyStat (d : Dev) (target code : Nat) : Dev :=
  (d.wrAll [(R.FSEC_KEYCTL.CODE, code), (R.FSEC_KEYCTL.RESULT, if code = 0 then 2 else 3), (R.FSEC_KEYCTL.TARGET, target)]).raise 6 2 [target, code]

/-- A slot's new content: a share slot from the next whole STC millisecond, a process-bus slot at once. -/
def Dev.keyPut (d : Dev) (target : Nat) (k : Option (List Byte)) : Dev :=
  if d.domOn .f4 = false then d
  else if target < 2 then { d with fsec := { d.fsec with keyNext := d.fsec.keyNext ++ [(target, k)] } }
  else { d with svg := { d.svg with keys := setAt d.svg.keys (target - 2) k } }

/-- The share keys that govern from this whole STC millisecond; the FRAME rule of R224 starts again. -/
def Dev.keysGovern (d : Dev) : Dev :=
  let xs := d.fsec.keyNext
  ({ d with fsec := { d.fsec with keyNext := [] } }).forAll xs (fun d x =>
    { d with shr := { d.shr with keys := setAt d.shr.keys x.1 x.2, sent := setAt d.shr.sent x.1 none } })

/-- FSEC_KEYCTL.GO with CLR = 0. -/
def Dev.keyLoad (d : Dev) (target : Nat) : Dev :=
  match d.fsec.kt with
  | none => d.keyStat target 1
  | some kt =>
    match Config.aesUnwrap kt (d.rdWords R.FSEC_KEYIN.WORD 12) with
    | none => d.keyStat target 2
    | some x =>
      if 5 < target ∨ leAt x 32 1 ≠ target then d.keyStat target 3
      else (d.keyPut target (some (x.take 32))).keyStat target 0

/-- FSEC_KEYCTL.GO with CLR = 1. -/
def Dev.keyClear (d : Dev) (target : Nat) : Dev :=
  if 5 < target then d.keyStat target 3 else (d.keyPut target none).keyStat target 0

/-! ## The field statement (R379) -/

/-- Bytes 0 to 239 of Table 19-8. -/
def Dev.statement (d : Dev) : List Byte :=
  leBytes 4 0x5453465A ++ [1] ++ leBytes 1 (d.lc .field) ++ leBytes 1 (b2n (d.dbgen .field)) ++ leBytes 1 (d.rd R.BIL_SEAL.STATE) ++
  leBytes 1 (d.rd R.FSYS_VARIANT.VARIANT) ++ List.replicate 7 0 ++ leBytes 8 d.ffuse.uid ++ d.rdWords R.FSEC_NONCE.WORD 4 ++
  leBytes 8 d.stcNs ++ padTo d.fsec.fwDigest 48 ++ (if d.streamActive then d.rdWords R.STS_ACTDIG.DIG 12 else List.replicate 48 0) ++
  d.rdWords R.MET_LRSUM.SUM 12 ++ padTo (Config.sha384 (d.pubKey .field 0x81)) 48

/-- FSEC_STMTCTL.GO. -/
def Dev.stmtGo (d : Dev) : Dev :=
  let b := d.statement
  ((d.wrWords R.FSEC_STMT.WORD (b ++ d.signBytes .field 0x82 b)).wr R.FSEC_STMTCTL.RESULT 2).raise 6 3 []

/-! ## The enclave (R378 to R383) -/

/-- A range that a command may use: host SRAM or DRAM for software (Table 19-11). -/
def encRange (a n : Nat) : Bool :=
  (decide (0x10000000 ≤ a) && decide (a + n ≤ 0x10800000)) || (decide (0x80000000 ≤ a) && decide (a + n ≤ 0xF4000000))

/-- A command whose source and destination lie where they may; ADDR otherwise, and nothing is written. -/
def Dev.encCheck (d : Dev) (src srcLen dst dstLen : Nat) (f : Dev → Dev) : Dev :=
  if (srcLen ≠ 0 ∧ encRange src srcLen = false) ∨ (dstLen ≠ 0 ∧ encRange dst dstLen = false) then d.encDone 6 else f d

/-- Bytes of host memory. -/
def Dev.hread (d : Dev) (a n : Nat) : List Byte := Mem.readBytes d.hmem a n

/-- Bytes written to host memory, and the command done. -/
def Dev.encOut (d : Dev) (a : Nat) (bs : List Byte) : Dev := ({ d with hmem := Mem.writeBytes d.hmem a bs }).encDone 0

def Dev.encSlot (d : Dev) (n : Nat) : Option EncSlot := d.enc.slots.getD n none

def Dev.encPut (d : Dev) (n : Nat) (x : Option EncSlot) : Dev := { d with enc := { d.enc with slots := setAt d.enc.slots n x } }

/-- DERIVE (Table 19-10, R368): DSTLEN is the length of the key in bytes, 32 where it is 0. -/
def Dev.encDeriveCmd (d : Dev) (b : EncBlock) : Dev :=
  d.encCheck b.src b.srcLen 0 0 (fun d =>
    if b.purpose < 0x10 ∨ 0x1F < b.purpose ∨ 32 < b.srcLen then d.encDone 1
    else if 16 ≤ b.slot then d.encDone 2
    else match d.kdf .host b.purpose (d.hread b.src b.srcLen) (8 * (if b.dstLen = 0 then 32 else b.dstLen % 8192)) with
      | some k => (d.encPut b.slot (some { key := k, exportable := testBit b.flags 0 })).encDone 0
      | none => d.encDone 3)

/-- The WRAP key (Table 19-4). -/
def Dev.wrapKey (d : Dev) : List Byte := (d.kdf .host 0x02 [] 256).getD []

/-- UNWRAP (Table 19-10). -/
def Dev.encUnwrapCmd (d : Dev) (b : EncBlock) : Dev :=
  d.encCheck b.src b.srcLen 0 0 (fun d =>
    if 16 ≤ b.slot then d.encDone 2
    else match Config.aesUnwrap d.wrapKey (d.hread b.src b.srcLen) with
      | some k => (d.encPut b.slot (some { key := k, exportable := testBit b.flags 0 })).encDone 0
      | none => d.encDone 3)

/-- WRAP (Table 19-10): EXPORT slots only. -/
def Dev.encWrapCmd (d : Dev) (b : EncBlock) : Dev :=
  match d.encSlot b.slot with
  | none => d.encDone 2
  | some x =>
    if x.exportable = false then d.encDone 3
    else d.encCheck 0 0 b.dst (Config.aesWrap d.wrapKey x.key).length (fun d => d.encOut b.dst (Config.aesWrap d.wrapKey x.key))

/-- SIGN (Table 19-10): the 48-byte SRC signed with the slot. -/
def Dev.encSignCmd (d : Dev) (b : EncBlock) : Dev :=
  match d.encSlot b.slot with
  | none => d.encDone 2
  | some x => d.encCheck b.src 48 b.dst 96 (fun d => d.encOut b.dst (Config.ecdsaSign (p384Private x.key) (d.hread b.src 48)))

/-- MRm (R378). -/
def Dev.mr (d : Dev) (m : Nat) : List Byte := d.rdWords (R.SEC_MR.WORD m) 12

/-- MRm extended by a digest: MR := SHA-384(MR ‖ v). -/
def Dev.mrExtend (d : Dev) (m : Nat) (v : List Byte) : Dev := d.wrWords (R.SEC_MR.WORD m) (padTo (Config.sha384 (d.mr m ++ v)) 48)

/-- The 512-byte quote (Table 19-9). -/
def Dev.quote (d : Dev) (nonce : List Byte) (count : Nat) : List Byte :=
  let p := d.paired .host
  let pinned := p && decide (d.hfuse.pin = some (Config.sha384 d.enc.fid))
  leBytes 4 0x5154415A ++ [1] ++ leBytes 1 (d.lc .host) ++ leBytes 1 (b2n (d.dbgen .host)) ++ leBytes 1 (b2n p + 2 * b2n pinned) ++
  leBytes 8 d.hfuse.uid ++ leBytes 8 (if p then d.enc.fuid else 0) ++ padTo nonce 32 ++ (List.range 8).flatMap d.mr ++ leBytes 8 count ++
  leBytes 8 d.htcNs ++ padTo (Config.sha384 (d.pubKey .host 0x01)) 8 ++ List.replicate 48 0

/-- ATTEST (R380). -/
def Dev.encAttestCmd (d : Dev) (b : EncBlock) : Dev :=
  d.encCheck b.src 32 b.dst 608 (fun d =>
    let d := { d with enc := { d.enc with quotes := (d.enc.quotes + 1) % 2 ^ 64 } }
    let q := d.quote (d.hread b.src 32) d.enc.quotes
    d.encOut b.dst (q ++ d.signBytes .host 0x01 q))

/-- EXTEND (R378): MR2 or MR3. -/
def Dev.encExtendCmd (d : Dev) (b : EncBlock) : Dev :=
  if b.slot ≠ 2 ∧ b.slot ≠ 3 then d.encDone 2
  else d.encCheck b.src 48 0 0 (fun d => (d.mrExtend b.slot (d.hread b.src 48)).encDone 0)

/-- MR4 + i extended when the value differs from the one last extended into it (R378). -/
def Dev.measExtend (d : Dev) (i : Nat) (v : List Byte) : Dev :=
  if d.enc.lastExt.getD i none = some v then d
  else ({ d with enc := { d.enc with lastExt := setAt d.enc.lastExt i (some v) } }).mrExtend (4 + i) v

/-- FIELDMEAS (R378). -/
def Dev.encFieldmeasCmd (d : Dev) (b : EncBlock) : Dev :=
  d.encCheck b.src 336 0 0 (fun d =>
    let s := d.hread b.src 240
    if d.paired .host = false then d.encDone 4
    else if Config.ecdsaVerify d.enc.fid (Config.sha384 s) (d.hread (b.src + 240) 96) = false then d.encDone 3
    else
      let d := d.measExtend 0 (slice s 48 48)
      let d := d.measExtend 1 (slice s 96 48)
      let d := d.measExtend 2 (slice s 144 48)
      (d.measExtend 3 (Config.sha384 (slice s 4 20 ++ slice s 192 48))).encDone 0)

/-- PAIR SLOT 0 (R375 item 1): the PAIRIN bytes to DST; SRC holds the field UID that they name. -/
def Dev.encPairOut (d : Dev) (b : EncBlock) : Dev :=
  d.encCheck b.src 8 b.dst 304 (fun d =>
    if d.on R.SEC_TRNG.FAIL then d.encDone 5
    else
      let uid := leNat (d.hread b.src 8)
      let k := d.drawKey
      let n := k.2.freeBytes 16
      let d := n.2
      let eH := Config.ecdsaPublic k.1
      let d := { d with enc := { d.enc with eph := some (k.1, n.1), askUid := uid } }
      d.encOut b.dst (d.pubKey .host 0x01 ++ eH ++ n.1 ++ d.signBytes .host 0x01 ([1] ++ eH ++ n.1 ++ leBytes 8 uid)))

/-- PAIR SLOT 1 (R375 items 3 and 4): the PAIROUT bytes at SRC. -/
def Dev.encPairIn (d : Dev) (b : EncBlock) : Dev :=
  d.encCheck b.src 304 0 0 (fun d =>
    let x := d.hread b.src 304
    let fid := slice x 0 96
    let eF := slice x 96 96
    let nF := slice x 192 16
    match d.enc.eph with
    | none => d.encDone 4
    | some (e, nH) =>
      if Config.ecdsaVerify fid (Config.sha384 ([2] ++ eF ++ nF ++ Config.ecdsaPublic e ++ nH)) (slice x 208 96) = false then (d.raiseH 110 0 [3]).encDone 3
      else if d.lc .host = 2 ∧ (d.dbgen .host = true ∨ d.hfuse.pin ≠ some (Config.sha384 fid)) then (d.raiseH 110 0 [3]).encDone 3
      else
        let keys := pairKeys (Config.ecdh e eF) nH nF
        let d := { d with enc := { d.enc with eph := none, kt := some (keys.take 32), kb := keys.drop 32, fid := fid, fuid := d.enc.askUid } }
        ((d.wr R.SEC_STATE.PAIRED 1).raiseH 110 0 [0]).encDone 0)

/-- PAIR (Table 19-10). -/
def Dev.encPairCmd (d : Dev) (b : EncBlock) : Dev :=
  match b.slot with
  | 0 => d.encPairOut b
  | 1 => d.encPairIn b
  | _ => d.encDone 2

/-- KEYWRAPF (R376). -/
def Dev.encKeywrapfCmd (d : Dev) (b : EncBlock) : Dev :=
  d.encCheck b.src b.srcLen b.dst 48 (fun d =>
    match d.enc.kt with
    | none => d.encDone 4
    | some kt =>
      match Config.aesUnwrap d.wrapKey (d.hread b.src b.srcLen) with
      | none => d.encDone 3
      | some k => d.encOut b.dst (Config.aesWrap kt (k ++ leBytes 1 b.purpose ++ List.replicate 7 0)))

/-- The key an AEAD command names: the slot's, or K_B for SLOT 0xFE; the code where there is none. -/
def Dev.aeadKey (d : Dev) (slot : Nat) : List Byte × Nat :=
  if slot = 0xFE then (if d.paired .host then (d.enc.kb, 0) else ([], 4))
  else match d.encSlot slot with
    | some x => (x.key, 0)
    | none => ([], 2)

/-- AEAD (Table 19-10). -/
def Dev.encAeadCmd (d : Dev) (b : EncBlock) : Dev :=
  let k := d.aeadKey b.slot
  if k.2 ≠ 0 then d.encDone k.2
  else d.encCheck b.src b.srcLen 0 0 (fun d =>
    match Config.aead k.1 b.flags (d.hread b.src b.srcLen) with
    | some out => d.encCheck 0 0 b.dst out.length (fun d => d.encOut b.dst out)
    | none => d.encDone 3)

/-- RANDOM (R383). -/
def Dev.encRandomCmd (d : Dev) (b : EncBlock) : Dev :=
  d.encCheck 0 0 b.dst b.dstLen (fun d =>
    if d.on R.SEC_TRNG.FAIL then d.encDone 5
    else
      let q := d.freeBytes b.dstLen
      q.2.encOut b.dst q.1)

/-- CLEAR (Table 19-10). -/
def Dev.encClearCmd (d : Dev) (b : EncBlock) : Dev :=
  if 16 ≤ b.slot then d.encDone 2 else (d.encPut b.slot none).encDone 0

/-- TOKEN (Table 19-10): a token at SRC, presented to the host die. -/
def Dev.encTokenCmd (d : Dev) (b : EncBlock) : Dev :=
  d.encCheck b.src b.srcLen 0 0 (fun d => d.present .host (·.anyToken .host (d.hread b.src b.srcLen)))

/-- The command of an OP (Table 19-10); OP for any other. -/
def Dev.encCommand (d : Dev) (op : Nat) (b : EncBlock) : Dev :=
  match op with
  | 0x01 => d.encDeriveCmd b
  | 0x02 => d.encUnwrapCmd b
  | 0x03 => d.encWrapCmd b
  | 0x04 => d.encSignCmd b
  | 0x05 => d.encAttestCmd b
  | 0x06 => d.encExtendCmd b
  | 0x07 => d.encFieldmeasCmd b
  | 0x08 => d.encPairCmd b
  | 0x09 => d.encKeywrapfCmd b
  | 0x0A => d.encAeadCmd b
  | 0x0B => d.encRandomCmd b
  | 0x0C => d.encClearCmd b
  | 0x0D => d.encTokenCmd b
  | _ => d.encDone 1

/-- SEC_CMD.GO: the command block at SEC_CMDADDR is read and its command carried out (R382). -/
def Dev.encGo (d : Dev) : Dev :=
  let a := (d.rd R.SEC_CMDADDR_LO.ADDR + 2 ^ 32 * d.rd R.SEC_CMDADDR_HI.ADDR) / 32 * 32
  if encRange a 32 = false then d.encDone 6
  else
    let x := d.hread a 32
    d.encCommand (leAt x 0 1) { slot := leAt x 1 1, purpose := leAt x 2 1, flags := leAt x 3 1, src := leAt x 4 8, srcLen := leAt x 12 4, dst := leAt x 16 8,
                                dstLen := leAt x 24 4 }

/-- A command of a row: only while the enclave runs. -/
def encRow (s : State) (f : Dev → Dev) : Host.Outcome State Fault Refusal := done s (fun d => if d.domOn .h1 then f d else d)

/-! ## Monotonic counters (R371) -/

/-- The MONO MAC over the four counters. -/
def Dev.monoMac (d : Dev) (xs : List Nat) : List Byte := Config.hmacSha384 ((d.kdf .host 0x03 [] 384).getD []) (xs.flatMap (leBytes 4))

/-- SEC_MONOINC written: the counters named rise by 1, saturating, and the mirror is written. -/
def Dev.monoInc (d : Dev) (mask : Nat) : Dev :=
  let d := d.forAll (bitsOf 4 mask) (fun d c => d.bump (R.SEC_MONO.VALUE c))
  if mask % 16 = 0 then d
  else
    let xs := (List.range 4).map (fun c => d.rd (R.SEC_MONO.VALUE c))
    { d with enc := { d.enc with mirror := some (xs, d.monoMac xs) } }

/-- At a host boot after H0 has lost both supplies the ROM restores the counters from a mirror whose MAC verifies; with none
they read 0xFFFF_FFFF (R371). -/
def Dev.monoRestore (d : Dev) : Dev :=
  match d.enc.mirror with
  | some (xs, mac) =>
    if mac = d.monoMac xs then
      ({ d with enc := { d.enc with monoLost := false } }).forAll xs.zipIdx (fun d x => d.wr (R.SEC_MONO.VALUE x.2) x.1)
    else ({ d with enc := { d.enc with monoLost := true } }).forAll (List.range 4) (fun d c => d.wr (R.SEC_MONO.VALUE c) 0xFFFFFFFF)
  | none => ({ d with enc := { d.enc with monoLost := true } }).forAll (List.range 4) (fun d c => d.wr (R.SEC_MONO.VALUE c) 0xFFFFFFFF)

/-- The continuity step of the first host boot in FIELD (R372). -/
def Dev.continuity (d : Dev) : Dev :=
  if d.lc .host = 2 ∧ d.hfuse.cont = false then
    let test := d.dbgen .host
    let key := if test then troot else d.hfuse.rootKey
    let old := p384Private (kdfWith key 0x01 1 1 (b2n test) d.hfuse.uid [] 448)
    let body := d.pubKey .host 0x01 ++ leBytes 8 d.hfuse.uid
    let d := { d with enc := { d.enc with statement := body ++ Config.ecdsaSign old (Config.sha384 body) }, hfuse := { d.hfuse with cont := true } }
    d.wr R.SEC_STATE.CONT 1
  else d

/-! ## Random sources (R383) -/

/-- A TRNG health test failed. -/
def Dev.trngFail (d : Dev) (side : Side) : Dev :=
  match side with
  | .field => if d.domOn .f1 then (((d.wr R.FSEC_TRNG.FAIL 1).wr R.FSEC_TRNG.OK 0).bump R.FSEC_TRNG.FAILURES).raise 6 4 [] else d
  | .host => if d.domOn .h1 then (((d.wr R.SEC_TRNG.FAIL 1).wr R.SEC_TRNG.OK 0).bump R.SEC_TRNG.FAILURES).raiseH 111 0 [] else d

/-- 1,024 consecutive samples passed. -/
def Dev.trngGood (d : Dev) (side : Side) : Dev :=
  match side with
  | .field => if d.domOn .f1 then (d.wr R.FSEC_TRNG.FAIL 0).wr R.FSEC_TRNG.OK 1 else d
  | .host => if d.domOn .h1 then (d.wr R.SEC_TRNG.FAIL 0).wr R.SEC_TRNG.OK 1 else d

/-! ## Tamper inputs (R384) -/

/-- FSEC empties its slots and loses the pairing. -/
def Dev.zeroiseF (d : Dev) : Dev :=
  let d := { d with shr := { d.shr with keys := [none, none] }, svg := { d.svg with keys := [none, none, none, none] },
                    fsec := { d.fsec with kt := none, kb := [], keyNext := [] } }
  d.wr R.FSEC_STATE.PAIRED 0

/-- The enclave empties its slots, loses the pairing and zeroes 4 KiB of battery-backed SRAM. -/
def Dev.zeroiseH (d : Dev) : Dev :=
  let d := { d with enc := { d.enc with slots := List.replicate 16 none, kt := none, kb := [] },
                    hmem := d.hmem.filter (fun c => decide (c.1 < 0x18000000) || decide (0x18001000 ≤ c.1)) }
  d.wr R.SEC_STATE.PAIRED 0

/-- A raw bit of TAMPSTAT: 1 while the input is low. -/
def withBit (v i : Nat) (b : Bool) : Nat := if b then setBit v i else clearBit v i

/-- An event at once, or at the next boot of a side that is unpowered or held in reset (R384, R44). -/
def Dev.raiseOrBoot (d : Dev) (side : Side) (n kind : Nat) (data : List Nat) : Dev :=
  match side with
  | .field => if d.domOn .f1 then d.raise n kind data else { d with pw := { d.pw with bootEvents := d.pw.bootEvents ++ [(n, some kind, data)] } }
  | .host => if d.domOn .h1 then d.raiseH n kind data else { d with pw := { d.pw with bootEvents := d.pw.bootEvents ++ [(n, some kind, data)] } }

/-- A tamper input low for 100 µs, or high again. -/
def Dev.tamper (d : Dev) (side : Side) (t : Nat) (low : Bool) : Dev :=
  match side with
  | .field =>
    if d.domOn .f0 = false then d
    else
      let d := d.wr R.FSEC_TAMPSTAT.RAW (withBit (d.rd R.FSEC_TAMPSTAT.RAW) t low)
      if low && d.on (R.FSEC_TAMPCFG.EN t) then
        let now := if d.domOn .f1 then d.stcNs else d.f0Ns
        let d := { d with fsec := { d.fsec with tampAt := setAt d.fsec.tampAt t now } }
        let d := d.wr R.FSEC_TAMPSTAT.LATCH (setBit (d.rd R.FSEC_TAMPSTAT.LATCH) t)
        let d := d.when (d.on (R.FSEC_TAMPCFG.ZEROISE t)) Dev.zeroiseF
        d.raiseOrBoot .field 7 t [now % 2 ^ 32, now / 2 ^ 32]
      else d
  | .host =>
    if d.domOn .h0 = false then d
    else
      let d := d.wr R.SEC_TAMPSTAT.RAW (withBit (d.rd R.SEC_TAMPSTAT.RAW) t low)
      if low && d.on (R.SEC_TAMPCFG.EN t) then
        let now := d.tm.rtc
        let d := { d with enc := { d.enc with tampAt := setAt d.enc.tampAt t now } }
        let d := d.wr R.SEC_TAMPSTAT.LATCH (setBit (d.rd R.SEC_TAMPSTAT.LATCH) t)
        let d := d.raiseOrBoot .host 112 t [now % 2 ^ 32, now / 2 ^ 32]
        if d.on (R.SEC_TAMPCFG.ZEROISE t) then d.zeroiseH.raiseOrBoot .host 115 t [] else d
      else d

/-- Latch bits that a write of 1 clears: only those whose input is high (R384). -/
def tampClear (latch raw v : Nat) : Nat := maskOf 2 (fun i => testBit latch i && !(testBit v i && !testBit raw i))

/-! ## Boundary scan (R367, Table 19-3) -/

/-- Whether an instruction that drives pads acts on a die now. -/
def Dev.scanActs (d : Dev) (side : Side) : Bool :=
  let life := decide (d.lc side = 0) || decide (3 ≤ d.lc side) || d.dbgen side
  match side with
  | .host => life
  | .field => life && (decide (d.mode = .recovery) || decide (d.mode = .service) || (decide (d.mode = .kindling) && !d.domOn .f3))

/-- A boundary-scan instruction loaded: it drives the pads where it acts, and is BYPASS otherwise. -/
def Dev.scanLoad (d : Dev) (side : Side) (drives : Bool) : Dev :=
  match side with
  | .field => { d with fsec := { d.fsec with scan := drives && d.scanActs .field } }
  | .host => { d with enc := { d.enc with scan := drives && d.scanActs .host } }

/-- The scan leaves the pads when the die no longer permits it (R367). -/
def Dev.scanEval (d : Dev) : Dev :=
  { d with fsec := { d.fsec with scan := d.fsec.scan && d.scanActs .field }, enc := { d.enc with scan := d.enc.scan && d.scanActs .host } }

/-! ## Commands -/

/-- DEBUG_UNLOCK (R365, R373). -/
def execDebugUnlock (die : Side) (token : List Byte) (s : State) : Host.Outcome State Fault Refusal :=
  done s (·.present die (·.token die 1 token true))

/-- LIFECYCLE_TOKEN (R363). -/
def execLifecycleToken (die : Side) (token : List Byte) (fuseOk : Bool) (s : State) : Host.Outcome State Fault Refusal :=
  done s (·.present die (·.token die 2 token fuseOk))

/-- SLOT_PROGRAM (R374). -/
def execSlotProgram (die : Side) (token : List Byte) (fuseOk : Bool) (s : State) : Host.Outcome State Fault Refusal :=
  done s (·.present die (·.token die 3 token fuseOk))

/-- SLOT_REVOKE (R374). -/
def execSlotRevoke (die : Side) (token : List Byte) (fuseOk : Bool) (s : State) : Host.Outcome State Fault Refusal :=
  done s (·.present die (·.token die 4 token fuseOk))

/-- INJECTION_TOKEN (R400). -/
def execInjectionToken (die : Side) (token : List Byte) (s : State) : Host.Outcome State Fault Refusal :=
  done s (·.present die (·.injToken die token))

/-- RELOCK (R365). -/
def execRelock (die : Side) (s : State) : Host.Outcome State Fault Refusal := done s (·.relock die)

/-- FSEC_PAIRCTL_GO (R375). -/
def execFsecPairctlGo (s : State) : Host.Outcome State Fault Refusal := done s (fun d => if d.domOn .f1 then d.pairGo else d)

/-- KEY_LOAD (R376). -/
def execKeyLoad (target : Fin 8) (s : State) : Host.Outcome State Fault Refusal := done s (fun d => if d.domOn .f1 then d.keyLoad target else d)

/-- KEY_SLOT_CLEAR (R376). -/
def execKeySlotClear (target : Fin 8) (s : State) : Host.Outcome State Fault Refusal :=
  done s (fun d => if d.domOn .f1 then d.keyClear target else d)

/-- FSEC_STMTCTL_GO (R379). -/
def execFsecStmtctlGo (s : State) : Host.Outcome State Fault Refusal := done s (fun d => if d.domOn .f1 then d.stmtGo else d)

/-- DERIVE. -/
def execEncDerive (blk : EncBlock) (s : State) : Host.Outcome State Fault Refusal := encRow s (·.encDeriveCmd blk)

/-- UNWRAP. -/
def execEncUnwrap (blk : EncBlock) (s : State) : Host.Outcome State Fault Refusal := encRow s (·.encUnwrapCmd blk)

/-- WRAP. -/
def execEncWrap (blk : EncBlock) (s : State) : Host.Outcome State Fault Refusal := encRow s (·.encWrapCmd blk)

/-- SIGN. -/
def execEncSign (blk : EncBlock) (s : State) : Host.Outcome State Fault Refusal := encRow s (·.encSignCmd blk)

/-- ATTEST. -/
def execEncAttest (blk : EncBlock) (s : State) : Host.Outcome State Fault Refusal := encRow s (·.encAttestCmd blk)

/-- EXTEND. -/
def execEncExtend (blk : EncBlock) (s : State) : Host.Outcome State Fault Refusal := encRow s (·.encExtendCmd blk)

/-- FIELDMEAS. -/
def execEncFieldmeas (blk : EncBlock) (s : State) : Host.Outcome State Fault Refusal := encRow s (·.encFieldmeasCmd blk)

/-- PAIR. -/
def execEncPair (blk : EncBlock) (s : State) : Host.Outcome State Fault Refusal := encRow s (·.encPairCmd blk)

/-- KEYWRAPF. -/
def execEncKeywrapf (blk : EncBlock) (s : State) : Host.Outcome State Fault Refusal := encRow s (·.encKeywrapfCmd blk)

/-- AEAD. -/
def execEncAead (blk : EncBlock) (s : State) : Host.Outcome State Fault Refusal := encRow s (·.encAeadCmd blk)

/-- RANDOM. -/
def execEncRandom (blk : EncBlock) (s : State) : Host.Outcome State Fault Refusal := encRow s (·.encRandomCmd blk)

/-- ENCLAVE_CLEAR. -/
def execEncClear (blk : EncBlock) (s : State) : Host.Outcome State Fault Refusal := encRow s (·.encClearCmd blk)

/-- SEC_MONOINC (R371). -/
def execSecMonoinc (mask : Fin 16) (s : State) : Host.Outcome State Fault Refusal := encRow s (·.monoInc mask)

/-- TRNG_HEALTH_FAILURE (R383). -/
def execTrngHealthFailure (die : Side) (s : State) : Host.Outcome State Fault Refusal := done s (·.trngFail die)

/-- TRNG_HEALTH_RECOVERY (R383). -/
def execTrngHealthRecovery (die : Side) (s : State) : Host.Outcome State Fault Refusal := done s (·.trngGood die)

/-- TAMPER_INPUT (R384). -/
def execTamperInput (die : Side) (input : Fin 2) (low : Bool) (s : State) : Host.Outcome State Fault Refusal := done s (·.tamper die input low)

/-- BOUNDARY_SCAN_INSTRUCTION (R367). -/
def execBoundaryScanInstruction (die : Side) (drives : Bool) (s : State) : Host.Outcome State Fault Refusal := done s (·.scanLoad die drives)

end Sys2Proof.Machine
end

