-- ==== Sys2Proof/Machine/Container.lean ====
section
/-! DEFINITION. The container of a structure stream (R72, R74) and the decoding of its sections into records, each from the
layout table of its owning chapter. -/

namespace Sys2Proof.Machine

/-! ## Bytes of a record -/

/-- A little-endian field of a record, two's complement. -/
def sAt (r : List Byte) (i n : Nat) : Int := signed (leAt r i n) (8 * n)

/-- Reserved bytes that must be 0. -/
def zeroAt (r : List Byte) (i n : Nat) : Bool := decide (leAt r i n = 0)

/-- Strictly ascending numbers. -/
def ascending : List Nat → Bool
  | a :: b :: rest => decide (a < b) && ascending (b :: rest)
  | _ => true

/-- No number twice. -/
def distinct : List Nat → Bool
  | [] => true
  | a :: rest => !rest.contains a && distinct rest

/-- `n` places from `base` on lie within `lo` to `hi`; no place lies anywhere. -/
def within (base n lo hi : Nat) : Bool := decide (n = 0) || (decide (lo ≤ base) && decide (base + n ≤ hi + 1))

/-- Two ranges share no place. -/
def apart (a n b m : Nat) : Bool := decide (n = 0) || decide (m = 0) || decide (a + n ≤ b) || decide (b + m ≤ a)

/-! ## Header and directory (Tables 4-2 and 4-3) -/

/-- A directory entry with the section's bytes. -/
structure Sec where
  idx : Nat := 0
  tag : Nat := 0
  sver : Nat := 0
  res : Nat := 0
  off : Nat := 0
  len : Nat := 0
  crc : Nat := 0
  bytes : List Byte := []
  deriving DecidableEq, Repr

/-- Directory entry `i` of an image. -/
def secAt (img : List Byte) (i : Nat) : Sec :=
  let e := slice img (64 + 16 * i) 16
  { idx := i, tag := leAt e 0 2, sver := leAt e 2 1, res := leAt e 3 1, off := leAt e 4 4, len := leAt e 8 4, crc := leAt e 12 4,
    bytes := slice img (leAt e 4 4) (leAt e 8 4) }

/-- The directory of an image. -/
def dirOf (img : List Byte) : List Sec := (List.range (leAt img 24 2)).map (secAt img)

/-- The section of a tag. -/
def secOf (dir : List Sec) (tag : Nat) : Option Sec := dir.find? (fun s => s.tag == tag)

/-- The bytes of a section, none where the image lacks it. -/
def secBytes (dir : List Sec) (tag : Nat) : List Byte := match secOf dir tag with | some s => s.bytes | none => []

/-- Informational tags (R72). -/
def infoTag (t : Nat) : Bool := decide (0x8000 ≤ t) && decide (t ≤ 0xFFFE)

/-- One directory entry keeps R72, after a previous section that ended at `before`. -/
def entryOk (img : List Byte) (before : Nat) (first : Bool) (s : Sec) : Bool :=
  (infoTag s.tag || (decide (1 ≤ s.tag) && decide (s.tag ≤ 0x12) && decide (s.sver = 1))) && decide (s.res = 0) && decide (s.off % 16 = 0) &&
  decide (before ≤ s.off) && decide (s.off + s.len + 208 ≤ img.length) && decide (crc32c s.bytes = s.crc) &&
  (first || (slice img before (s.off - before)).all (fun b => decide (b = 0)))

/-- The directory index of the first entry that breaks R72. -/
def entriesBad (img : List Byte) (before : Nat) (first : Bool) (seen : List Nat) : List Sec → Option Nat
  | [] => none
  | s :: rest =>
    if entryOk img before first s && (infoTag s.tag || !seen.contains s.tag) then entriesBad img (s.off + s.len) false (s.tag :: seen) rest
    else some s.idx

/-- The DIRECTORY check (code 0x07): the SECT of its failure. -/
def directoryBad (img : List Byte) : Option Nat :=
  let dir := dirOf img
  match entriesBad img (64 + 16 * dir.length) true [] dir with
  | some i => some i
  | none => if [0x01, 0x05, 0x06, 0x0C, 0x0D, 0x11].all (fun t => (secOf dir t).isSome) then none else some 0xFF

/-! ## Record sections (R74) -/

/-- Record length of a record section's tag. -/
def recLenOf : Nat → Option Nat
  | 0x01 => some 32 | 0x02 => some 16 | 0x03 => some 16 | 0x04 => some 8 | 0x05 => some 32 | 0x06 => some 16 | 0x0C => some 4
  | 0x0D => some 16 | 0x0E => some 20 | 0x0F => some 16 | 0x10 => some 12 | 0x12 => some 12 | _ => none

/-- The records of a record section. -/
def recsOf (bs : List Byte) (rl : Nat) : List (List Byte) := (List.range (leAt bs 0 4)).map (fun i => slice bs (8 + rl * i) rl)

/-- The prefix of a record section holds and its records fill it (R74); TRIPMAT has 80 bytes behind them. -/
def recPrefixOk (bs : List Byte) (rl extra : Nat) : Bool :=
  decide (leAt bs 4 2 = rl) && zeroAt bs 6 2 && decide (bs.length = 8 + rl * leAt bs 0 4 + extra)

/-! ## Decoding -/

def timingOf (r : List Byte) : Timing :=
  { tick := leAt r 0 4, phase := leAt r 4 4, w := leAt r 8 2, osr := leAt r 10 1, base := leAt r 12 4, preset := leAt r 16 2,
    div := (List.range 8).map (fun i => leAt r (20 + i) 1) }

def measOf (r : List Byte) : MeasRec :=
  { slot := leAt r 0 1, path := leAt r 1 1, src := leAt r 2 1, index := leAt r 3 1, clk := leAt r 4 1, shift := sAt r 5 1, gain := sAt r 8 4,
    offset := sAt r 12 4 }

def actOf (r : List Byte) : ActRec := { slot := leAt r 0 2, kind := leAt r 2 1, dest := leAt r 3 1, fmt := leAt r 4 1 }

def legOf (r : List Byte) : LegRec :=
  { leg := leAt r 0 1, blk := leAt r 1 1, cls := leAt r 2 1, axis := leAt r 3 1, mode := leAt r 4 1, policy := leAt r 5 1, per := leAt r 8 4,
    gofs := leAt r 12 4, lofs := leAt r 16 4, dtr := leAt r 20 3, dtf := leAt r 24 3, tmin := leAt r 28 2 }

def tripOf (r : List Byte) : TripRec := { action := leAt r 1 1, filt := leAt r 2 1, legMask := leAt r 4 10, outMask := leAt r 14 1 }

def padOf (r : List Byte) : PadFn := { group := leAt r 0 2, fn := leAt r 2 1 }

def permOf (r : List Byte) : Perm :=
  { first := leAt r 0 3, last := leAt r 4 3, rdModes := leAt r 8 2, wrModes := leAt r 10 2, wmask := leAt r 12 4 }

def targetOf (r : List Byte) : Target :=
  { number := leAt r 0 2, kind := leAt r 2 1, dest := leAt r 3 1, min := sAt r 4 4, max := sAt r 8 4, dflt := sAt r 12 4, wrModes := leAt r 16 2 }

def presetOf (r : List Byte) : Preset :=
  { dblk := leAt r 0 1, op := leAt r 1 1, didx := leAt r 2 2, sblk := leAt r 4 1, sidx := leAt r 6 2, const := sAt r 8 4 }

def regInitOf (r : List Byte) : RegInit := { addr := leAt r 0 3, mask := leAt r 4 4, value := leAt r 8 4 }

def ceOpOf (r : List Byte) : CeOp :=
  { op := leAt r 0 1, a := { flags := leAt r 1 1, r := leAt r 2 2, c := leAt r 4 2, dst := leAt r 6 2, src := leAt r 8 2, aux := leAt r 10 2,
                             mat := leAt r 12 4 } }

/-- The instructions of PROGRAM. -/
def programOf (bs : List Byte) : List CeOp := (List.range (leAt bs 0 4)).map (fun i => ceOpOf (slice bs (16 + 16 * i) 16))

/-- A code sequence from instruction `i` on, up to and without its END. -/
def codeFrom (prog : List CeOp) (i : Nat) : List CeOp := (prog.drop i).takeWhile (fun o => decide (o.op ≠ 0))

/-- The period of an STC-gated slot (R21): 1.000 ms in ticks, 0 where the tick does not divide it. -/
def gatedPeriod (tick : Nat) : Nat := if 0 < tick ∧ 400000 % tick = 0 then 400000 / tick else 0

def subSlotOf (tick : Nat) (prog : List CeOp) (r : List Byte) : SubSlot :=
  let kind := leAt r 1 1
  { slot := leAt r 0 1, kind := kind, n := if kind = 1 then gatedPeriod tick else leAt r 2 2, phase := leAt r 4 2, cyc := leAt r 6 2, entry := leAt r 8 4,
    code := codeFrom prog ((leAt r 8 4 - 16) / 16) }

/-- Slots in ascending SLOT number (R114). -/
def sortSlots : List SubSlot → List SubSlot
  | [] => []
  | x :: xs =>
    let rest := sortSlots xs
    rest.takeWhile (fun y => decide (y.slot < x.slot)) ++ [x] ++ rest.dropWhile (fun y => decide (y.slot < x.slot))

def matRecOf (r : List Byte) : Mat := { rows := leAt r 0 2, cols := leAt r 2 2, first := leAt r 4 4, oshFirst := leAt r 8 4 }

/-- Descriptors of COEFF. -/
def matsOf (bs : List Byte) : List Mat := (List.range (leAt bs 0 4)).map (fun i => matRecOf (slice bs (16 + 12 * i) 12))

/-- Coefficients of COEFF. -/
def coefsOf (bs : List Byte) : List Nat := (List.range (leAt bs 4 4)).map (fun i => leAt bs (16 + 12 * leAt bs 0 4 + 5 * i) 5)

/-- Output-shift bytes of COEFF. -/
def oshsOf (bs : List Byte) : List Nat :=
  (List.range (leAt bs 8 4)).map (fun i => leAt bs (16 + 12 * leAt bs 0 4 + 5 * leAt bs 4 4 + i) 1)

def blkOf (r : List Byte) : Blk :=
  { blk := leAt r 0 1, law := leAt r 1 1, nvar := leAt r 2 1, track := testBit (leAt r 3 1) 0, manInit := testBit (leAt r 3 1) 1, xbase := leAt r 4 2,
    nx := leAt r 6 2, ybase := leAt r 8 2, ny := leAt r 10 2, ubase := leAt r 12 2, nu := leAt r 14 2, manBase := leAt r 16 2, ni := leAt r 18 2,
    wbase := leAt r 20 2, nw := leAt r 22 2, slot := leAt r 24 1 }

def varOf (r : List Byte) : Var :=
  { key := leAt r 0 2, blk := leAt r 2 1, index := leAt r 3 1, roles := (List.range 16).map (fun i => leAt r (8 + 2 * i) 2) }

def genOf (r : List Byte) : Gen := { gen := leAt r 0 1, rmax := leAt r 4 4, jmax := leAt r 8 4, init := sAt r 12 4 }

def supOf (r : List Byte) : Sup := { sup := leAt r 0 1, kind := leAt r 1 1, unit := leAt r 2 1, limit := leAt r 4 4, timer := leAt r 8 2 }

/-- Consecutive records: `n` of `rl` bytes from `off` on. -/
def runOf (bs : List Byte) (off rl n : Nat) : List (List Byte) := (List.range n).map (fun i => slice bs (off + rl * i) rl)

/-- The four record runs of BLOCKS (R127). -/
def blkRun (bs : List Byte) : List (List Byte) := runOf bs 16 32 (leAt bs 0 1)
def varRun (bs : List Byte) : List (List Byte) := runOf bs (16 + 32 * leAt bs 0 1) 40 (leAt bs 4 4)
def genRun (bs : List Byte) : List (List Byte) := runOf bs (16 + 32 * leAt bs 0 1 + 40 * leAt bs 4 4) 16 (leAt bs 1 1)
def supRun (bs : List Byte) : List (List Byte) := runOf bs (16 + 32 * leAt bs 0 1 + 40 * leAt bs 4 4 + 16 * leAt bs 1 1) 16 (leAt bs 2 1)

/-- A feed-forward table (Table 7-8). -/
def ffOf (bs : List Byte) (i : Nat) : FfTab :=
  let r := slice bs (16 + 4112 * i) 4112
  { x0 := sAt r 0 4, xshift := leAt r 4 1, mode := leAt r 5 1, dead := leAt r 8 4, points := (List.range 1024).map (fun j => sAt r (16 + 4 * j) 4) }

def detBlkOf (r : List Byte) : DetBlk :=
  { blk := leAt r 0 1, cwin := leAt r 1 1, quorum := leAt r 2 1, shed := testBit (leAt r 3 1) 0, outmask := leAt r 4 1 }

def detOf (r : List Byte) : Det :=
  { det := leAt r 0 1, blk := leAt r 1 1, meas := leAt r 2 2, thr := leAt r 4 4, n := leAt r 8 1, mod := leAt r 9 1, fallback := leAt r 10 1,
    classify := testBit (leAt r 11 1) 0, hwsel := testBit (leAt r 11 1) 1, est := leAt r 12 2, bal := leAt r 14 2, agree := leAt r 16 4,
    openTol := leAt r 20 4, imin := leAt r 24 4 }

def attrOf (r : List Byte) : VarAttr :=
  { blk := leAt r 0 1, index := leAt r 1 1, bumpless := testBit (leAt r 2 1) 0, degraded := testBit (leAt r 2 1) 1, active := leAt r 4 2,
    cap := (List.range 4).map (fun i => leAt r (8 + 2 * i) 2), excl := leAt r 16 24 }

def mapOf (r : List Byte) : MapEntry := { blk := leAt r 0 1, det := leAt r 1 1, outcome := leAt r 2 1, src := leAt r 4 2, dst := leAt r 6 2 }

def modOf (r : List Byte) : ModRec :=
  { blk := leAt r 0 1, mod := leAt r 1 1, group := leAt r 2 1, legs := leAt r 3 1, il := (List.range 4).map (fun i => leAt r (4 + i) 1) }

/-- The record runs of DETMAP (section 8.2). -/
def dBlkRun (bs : List Byte) : List (List Byte) := runOf bs 16 16 (leAt bs 0 1)
def detRun (bs : List Byte) : List (List Byte) := runOf bs (16 + 16 * leAt bs 0 1) 32 (leAt bs 2 2)
def attrRun (bs : List Byte) : List (List Byte) := runOf bs (16 + 16 * leAt bs 0 1 + 32 * leAt bs 2 2) 40 (leAt bs 4 2)
def mapRun (bs : List Byte) : List (List Byte) :=
  runOf bs (16 + 16 * leAt bs 0 1 + 32 * leAt bs 2 2 + 40 * leAt bs 4 2) 8 (leAt bs 6 2)
def modRun (bs : List Byte) : List (List Byte) :=
  runOf bs (16 + 16 * leAt bs 0 1 + 32 * leAt bs 2 2 + 40 * leAt bs 4 2 + 8 * leAt bs 6 2) 8 (leAt bs 8 2)

def lossRowOf (r : List Byte) : LossRow := { blk := leAt r 0 1, count := leAt r 1 1, cardiv := leAt r 2 1, pmin := leAt r 4 4, pmax := leAt r 8 4 }

/-- Rows of the loss table at offset `off` of TABLES. -/
def lossRun (bs : List Byte) (off : Nat) : List (List Byte) := if off = 0 then [] else runOf bs (off + 16) 16 (leAt bs off 2)

/-- Points of the balancing derate table (R334). -/
def balOf (bs : List Byte) (off : Nat) : List (Int × Nat) :=
  if off = 0 then [] else (runOf bs (off + 16) 4 (leAt bs off 2)).map (fun r => (sAt r 0 2, leAt r 2 1))

def coilOf (r : List Byte) : CoilRec :=
  { coil := leAt r 0 1, fb := leAt r 1 1, fpol := testBit (leAt r 2 1) 0, fbdeb := leAt r 3 1, tclose := leAt r 4 2, topen := leAt r 6 2,
    va := leAt r 8 2, vb := leAt r 10 2, vclose := leAt r 12 4, vpres := leAt r 16 4 }

def seqOf (r : List Byte) : SeqRec := { seq := leAt r 0 1, failSeq := leAt r 1 1, first := leAt r 2 2, nsteps := leAt r 4 2 }

def stepOf (r : List Byte) : StepRec := { op := leAt r 0 1, arg := leAt r 2 2, time := leAt r 4 2, value := leAt r 8 4 }

def ilkOf (r : List Byte) : IlkRec := { a := leAt r 0 1, b := leAt r 1 1, require := decide (leAt r 2 1 = 1) }

/-- The record runs of CTRSEQ (R205). -/
def coilRun (bs : List Byte) : List (List Byte) := runOf bs 16 24 (leAt bs 0 1)
def seqRun (bs : List Byte) : List (List Byte) := runOf bs (16 + 24 * leAt bs 0 1) 8 (leAt bs 1 1)
def stepRun (bs : List Byte) : List (List Byte) := runOf bs (16 + 24 * leAt bs 0 1 + 8 * leAt bs 1 1) 12 (leAt bs 2 2)
def ilkRun (bs : List Byte) : List (List Byte) := runOf bs (16 + 24 * leAt bs 0 1 + 8 * leAt bs 1 1 + 12 * leAt bs 2 2) 4 (leAt bs 4 1)

/-- The metering records of MEASMAP in slot order (R85): PATH 1 before PATH 2 of one slot. -/
def bindBytes (rs : List (List Byte)) : List Byte :=
  (List.range 256).flatMap (fun s => [1, 2].flatMap (fun p => (rs.filter (fun r => decide (leAt r 0 1 = s) && decide (leAt r 1 1 = p))).flatten))

/-- TMEAS_CYC (R117). -/
def tmeasOf (t : Timing) (meas : List MeasRec) : Nat :=
  let divs := (meas.filter (fun m => m.path == 0 && m.src == 0)).map (fun m => numAt t.div m.clk)
  3 * t.osr * (if divs.isEmpty then 16 else divs.foldl max 0)

/-- Least common multiple of the periods of the schedule (R79, R21). -/
def lcmOf (slots : List SubSlot) : Nat := slots.foldl (fun a s => if s.n = 0 then a else Nat.lcm a s.n) 1

/-- Whether a slot runs at tick phase `p` as the budget counts it (R21, R83). -/
def slotCounts (p : Nat) (s : SubSlot) : Bool :=
  if s.kind = 1 then decide (s.n = 0) || decide (p % s.n = 0) else decide (0 < s.n) && decide (p % s.n = s.phase)

/-- The load of tick phase `p` (R83). -/
def loadAt (base : Nat) (slots : List SubSlot) (p : Nat) : Nat := slots.foldl (fun a s => if slotCounts p s then a + s.cyc else a) base

/-- The largest tick load over `n` phases. -/
def worstLoad (base : Nat) (slots : List SubSlot) : Nat → Nat
  | 0 => 0
  | n + 1 => max (worstLoad base slots n) (loadAt base slots n)

/-- An image expanded into the records a bank holds (R69). -/
def decodeStream (img : List Byte) : StreamData :=
  let dir := dirOf img
  let b := secBytes dir
  let timing := timingOf (slice (b 0x01) 8 32)
  let meas := (recsOf (b 0x03) 16).map measOf
  let prog := programOf (b 0x11)
  let slots := sortSlots ((recsOf (b 0x0F) 16).map (subSlotOf timing.tick prog))
  let lcm := lcmOf slots
  { id := leAt img 16 4, svn := leAt img 20 4, digest := Config.sha384 img, timingRaw := b 0x01, legmapRaw := b 0x05, padfnRaw := b 0x0C,
    timing := timing, tmeas := tmeasOf timing meas, lcm := lcm, worst := worstLoad timing.base slots lcm + timing.preset,
    legs := (recsOf (b 0x05) 32).map legOf, trips := (recsOf (b 0x06) 16).map tripOf,
    patterns := (List.range 80).map (fun i => leAt (b 0x06) (1544 + i) 1), acts := (recsOf (b 0x04) 8).map actOf, perms := (recsOf (b 0x0D) 16).map permOf,
    targets := (recsOf (b 0x0E) 20).map targetOf, slots := slots, presets := (recsOf (b 0x10) 12).map presetOf,
    regInits := (recsOf (b 0x12) 12).map regInitOf, padFns := (recsOf (b 0x0C) 4).map padOf, mats := matsOf (b 0x08), coefs := coefsOf (b 0x08),
    oshs := oshsOf (b 0x08), main := codeFrom prog 0, blks := (blkRun (b 0x07)).map blkOf, vars := (varRun (b 0x07)).map varOf,
    gens := (genRun (b 0x07)).map genOf, sups := (supRun (b 0x07)).map supOf, ffs := (List.range (leAt (b 0x09) 0 4)).map (ffOf (b 0x09)),
    detBlks := (dBlkRun (b 0x0A)).map detBlkOf, dets := (detRun (b 0x0A)).map detOf, attrs := (attrRun (b 0x0A)).map attrOf,
    maps := (mapRun (b 0x0A)).map mapOf, mods := (modRun (b 0x0A)).map modOf, hyst := leAt (b 0x09) (leAt (b 0x09) 4 4 + 2) 1,
    dwell := leAt (b 0x09) (leAt (b 0x09) 4 4 + 3) 1, loss := (lossRun (b 0x09) (leAt (b 0x09) 4 4)).map lossRowOf,
    balTab := balOf (b 0x09) (leAt (b 0x09) 8 4), meas := meas, bindRaw := bindBytes (recsOf (b 0x03) 16),
    ctr := { coils := (coilRun (b 0x0B)).map coilOf, seqs := (seqRun (b 0x0B)).map seqOf, steps := (stepRun (b 0x0B)).map stepOf,
             ilks := (ilkRun (b 0x0B)).map ilkOf } }

end Sys2Proof.Machine
end

