-- ==== Sys2Proof/Machine/LoadCheck.lean ====
section
/-! DEFINITION. The loader's checks of one image (R82, Table 4-12): the layout rules of every section, and the checks of codes
0x01 to 0x0F in ascending order. -/

namespace Sys2Proof.Machine

/-! ## RWS values that an image would give (R81) -/

/-- A field after the REGINIT records of a stream, over the value it has before. -/
def initField (inits : List RegInit) (f : Fld) (v : Nat) : Nat :=
  inits.foldl (fun v r => if r.addr = f.addr then
    maskOf f.width (fun i => if testBit r.mask (f.lo + i) then testBit r.value (f.lo + i) else testBit v i) else v) v

/-- A written value kept within the range its register table gives the field. -/
def clampField (f : Fld) (v : Nat) : Nat :=
  match findReg f.addr with
  | some reg => match reg.fields.find? (fun fd => decide (fd.lo = f.lo)) with
    | some fd => clampNat v fd.low fd.high
    | none => v
  | none => v

/-- The value a field would have once the stream is active: over its present value, or its reset value at boot (R81). -/
def Dev.rwsAfter (d : Dev) (x : StreamData) (f : Fld) : Nat :=
  clampField f (initField x.regInits f (if d.streamActive then d.rd f else f.reset))

/-- MASK of a REGINIT record lies in RWS fields of the register it addresses. -/
def regInitOk (r : RegInit) : Bool :=
  match findReg r.addr with
  | some reg => decide (r.addr ≤ 0x7FFFFC) && (List.range 32).all (fun i => !testBit r.mask i ||
      reg.fields.any (fun f => decide (f.acc = .rws) && decide (f.lo ≤ i) && decide (i < f.lo + f.width)))
  | none => false

/-! ## Sections by record -/

/-- SIGNALS: NUMBER ascending, KIND the one Table 6-4 gives (Table 6-5). -/
def kindOfSignal (n : Nat) : Option Nat :=
  if n < 0xC0 then some 0 else if n < 0x100 then none else if n < 0x180 then some 1 else if n < 0x200 then some 2
  else if n < 0x2A0 then some 3 else if n < 0x400 then some 4 else none

def signalsOk (rs : List (List Byte)) : Bool :=
  ascending (rs.map (fun r => leAt r 0 2)) && rs.all (fun r => decide (kindOfSignal (leAt r 0 2) = some (leAt r 2 1)) && zeroAt r 3 5)

/-- Sources of Table 10-2. -/
def pathSrcOk (path src : Nat) : Bool :=
  match path with
  | 0 => decide (src ≤ 6)
  | 1 => decide (src = 0)
  | 2 => decide (src = 1)
  | _ => false

def indexMax : Nat → Nat
  | 0 => 127 | 1 | 2 => 31 | 3 | 4 | 5 => 3 | _ => 31

/-- A MEASMAP record by itself (Table 10-1, R260). -/
def measRecOk (r : List Byte) : Bool :=
  let m := measOf r
  pathSrcOk m.path m.src && decide (m.index ≤ indexMax m.src) && decide (m.clk ≤ if m.src = 0 then 7 else 0) && decide (-32 ≤ m.shift) &&
  decide (m.shift ≤ 31) && zeroAt r 6 2 && (if m.path = 0 then decide (m.slot ≤ 0xBF) else decide (m.slot ≤ 15) && decide (m.slot ≠ 7))

/-- The triggered sequence a converter would have (FBA_TCFG, FBA_TSEQ). -/
def Dev.trigSeqAfter (d : Dev) (x : StreamData) (c : Nat) : List Nat :=
  ([R.FBA_TSEQ.CH0 c, R.FBA_TSEQ.CH1 c, R.FBA_TSEQ.CH2 c, R.FBA_TSEQ.CH3 c, R.FBA_TSEQ.CH4 c, R.FBA_TSEQ.CH5 c, R.FBA_TSEQ.CH6 c, R.FBA_TSEQ.CH7 c].map
    (d.rwsAfter x)).take (d.rwsAfter x (R.FBA_TCFG.LEN c))

/-- MEASMAP (R194, R202, R203, R260). -/
def Dev.measmapOk (d : Dev) (x : StreamData) (rs : List (List Byte)) : Bool :=
  let ms := x.meas
  let ch := fun (f : Nat → Fld) (i : Nat) => d.rwsAfter x (f i)
  rs.all measRecOk && distinct (ms.map (fun m => m.path * 256 + m.slot)) &&
  ms.all (fun m => decide (m.src ≠ 0) || ms.all (fun n => decide (n.src ≠ 0) || decide (n.index ≠ m.index) || decide (n.clk = m.clk))) &&
  ms.all (fun m => decide (m.src ≠ 2) || (d.trigSeqAfter x (m.index / 16)).contains (m.index % 16)) &&
  ms.all (fun m => decide (m.path ≠ 2) || decide (ch R.FBA_CHCFG.RATE m.index = 2)) &&
  (List.range 32).all (fun i => decide (ch R.FBA_CHCFG.INTEG i = 0) || decide (ch R.FBA_CHCFG.RATE i = 2)) &&
  ms.all (fun m => decide (m.src ≠ 1 ∧ m.src ≠ 2) || decide (ch R.FBA_CHCFG.GUARD m.index = 0))

/-- The leg an ACTMAP record drives (Table 9-2): a phase is the n-th motion leg of its axis. -/
def actLeg (x : StreamData) (a : ActRec) : Option Nat :=
  match a.kind with
  | 0 => some a.dest
  | 2 => ((x.legs.filter (fun l => l.cls == 1 && l.axis == a.dest / 4))[a.dest % 4]?).map (·.leg)
  | _ => none

/-- ACTMAP (R174). -/
def actmapOk (x : StreamData) (rs : List (List Byte)) : Bool :=
  rs.all (fun r => zeroAt r 5 3) &&
  x.acts.all (fun a => decide (0x100 ≤ a.slot) && decide (a.slot ≤ 0x17F) && decide (a.fmt ≤ 1) && (match a.kind with
    | 0 | 1 => decide (a.dest ≤ 79)
    | 2 => decide (a.dest ≤ 15) && decide (a.dest % 4 ≤ 2) && (actLeg x a).isSome
    | _ => false)) &&
  distinct (x.acts.map (fun a => if a.kind = 1 then 1000 + a.dest else (actLeg x a).getD 999))

/-- A LEGMAP record by itself (Table 9-1). -/
def legRecOk (r : List Byte) : Bool :=
  let l := legOf r
  decide (l.leg ≤ 79) && (decide (l.blk ≤ 7) || decide (l.blk = 0xFF)) &&
  ((decide (l.cls = 0) && decide (l.axis = 0xFF)) || (decide (l.cls = 1) && decide (l.axis ≤ 3))) && decide (l.mode ≤ 1) && decide (l.policy ≤ 1) &&
  zeroAt r 6 2 && decide (1600 ≤ l.per) && decide (l.per ≤ 40000) && decide (l.gofs < l.per) && decide (l.lofs < l.per) && decide (l.dtr ≤ 128000) &&
  zeroAt r 23 1 && decide (l.dtf ≤ 128000) && zeroAt r 27 1 && decide (128 ≤ l.tmin) && decide (l.tmin ≤ 51200) && zeroAt r 30 2

/-- LEGMAP (R169). -/
def legmapOk (x : StreamData) (rs : List (List Byte)) : Bool :=
  rs.all legRecOk && ascending (x.legs.map (·.leg)) &&
  x.legs.all (fun a => x.legs.all (fun b => decide (a.leg / 4 ≠ b.leg / 4) ||
    (decide (a.mode = b.mode) && decide (a.per = b.per) && decide (a.gofs = b.gofs))))

/-- TRIPMAT (R187, Table 9-7). -/
def tripmatOk (x : StreamData) (bs : List Byte) (rs : List (List Byte)) : Bool :=
  decide (leAt bs 0 4 = 96) &&
  rs.zipIdx.all (fun (q : List Byte × Nat) => decide (leAt q.1 0 1 = q.2) && zeroAt q.1 3 1 && decide (leAt q.1 14 1 ≤ 15) && zeroAt q.1 15 1) &&
  x.trips.all (fun t => decide (t.action ≤ 3) && decide (t.filt ≤ 200)) && x.patterns.all (fun p => decide (bits p 6 2 = 0))

/-- PERM (R76, Table 4-7). -/
def permOk (x : StreamData) (rs : List (List Byte)) : Bool :=
  rs.all (fun r => zeroAt r 3 1 && zeroAt r 7 1) && decide (x.perms.length ≤ 1024) &&
  x.perms.all (fun p => decide (p.first % 4 = 0) && decide (p.last % 4 = 0) && decide (p.first ≤ p.last) && decide (p.last ≤ 0x7FFFFC) &&
    decide (p.rdModes < 4096) && decide (p.wrModes < 4096)) &&
  ascending (x.perms.flatMap (fun p => [2 * p.first, 2 * p.last + 1]))

/-- TARGETS (Table 4-8). -/
def targetsOk (x : StreamData) (rs : List (List Byte)) : Bool :=
  rs.all (fun r => zeroAt r 18 2) && distinct (x.targets.map (·.number)) &&
  x.targets.all (fun t => decide (t.number ≤ 1023) && decide (t.min ≤ t.max) && decide (t.min ≤ t.dflt) && decide (t.dflt ≤ t.max) && (match t.kind with
    | 0 => decide (t.dest ≤ 63) | 1 => decide (t.dest ≤ 47) | 2 => decide (t.dest ≤ 3) | _ => false))

/-- SUBRATE (Table 4-9, R123): `n` is the number of instructions of PROGRAM. -/
def subrateOk (n : Nat) (prog : List CeOp) (rs : List (List Byte)) : Bool :=
  distinct (rs.map (fun r => leAt r 0 1)) &&
  rs.all (fun r =>
    let kind := leAt r 1 1
    let per := leAt r 2 2
    let ph := leAt r 4 2
    let entry := leAt r 8 4
    decide (leAt r 0 1 ≤ 63) && zeroAt r 12 4 && decide (16 ≤ entry) && decide (entry % 16 = 0) && decide (entry < 16 + 16 * n) &&
    (prog.drop ((entry - 16) / 16)).any (fun o => decide (o.op = 0)) &&
    (match kind with | 0 => decide (2 ≤ per) && decide (per ≤ 4096) && decide (ph < per) | 1 => decide (per = 0) && decide (ph = 0) | _ => false))

/-! ## COEFF and TABLES -/

/-- COEFF (Table 6-6, R119). -/
def coeffOk (x : StreamData) (bs : List Byte) : Bool :=
  let nmat := leAt bs 0 4
  let ncoef := leAt bs 4 4
  let nshift := leAt bs 8 4
  decide (1 ≤ nmat) && decide (nmat ≤ 4096) && zeroAt bs 12 4 && decide (bs.length = 16 + 12 * nmat + 5 * ncoef + nshift) &&
  x.mats.all (fun m => decide (1 ≤ m.rows) && decide (m.rows ≤ 256) && decide (1 ≤ m.cols) && decide (m.cols ≤ 256) &&
    decide (m.first + m.rows * m.cols ≤ ncoef) && decide (m.oshFirst + m.rows ≤ nshift)) &&
  x.coefs.all (fun c => decide (c < 2 ^ 38)) && x.oshs.all (fun o => decide (o < 32))

/-- A feed-forward table (Table 7-8). -/
def ffOk (bs : List Byte) (i : Nat) : Bool :=
  let r := slice bs (16 + 4112 * i) 16
  (match leAt r 5 1 with | 0 => decide (leAt r 4 1 ≤ 23) | 1 => decide (leAt r 4 1 = 22) | _ => false) && zeroAt r 6 2 && zeroAt r 12 4

/-- The loss table (R167, Table 8-6). -/
def lossOk (x : StreamData) (bs : List Byte) (off : Nat) : Bool :=
  decide (off = 0) ||
  (decide (16 ≤ off) && decide (off + 16 + 16 * leAt bs off 2 ≤ bs.length) && decide (leAt bs off 2 ≤ 256) && decide (leAt bs (off + 2) 1 ≤ 50) &&
   decide (1 ≤ leAt bs (off + 3) 1) && zeroAt bs (off + 4) 12 && (lossRun bs off).all (fun r => zeroAt r 3 1 && zeroAt r 12 4) &&
   x.loss.all (fun r => x.detBlks.any (fun b => b.blk == r.blk && b.shed) && decide (1 ≤ r.count) && decide (r.count ≤ 12) && decide (1 ≤ r.cardiv) &&
     decide (r.cardiv ≤ 4) && decide (r.pmin < r.pmax)) &&
   (List.range 8).all (fun b =>
     let rows := x.loss.filter (fun r => r.blk == b)
     (rows.zip (rows.drop 1)).all (fun (q : LossRow × LossRow) => decide (q.1.pmax = q.2.pmin))))

/-- The balancing derate table (R334). -/
def balOk (bs : List Byte) (off : Nat) : Bool :=
  decide (off = 0) ||
  (decide (16 ≤ off) && decide (2 ≤ leAt bs off 2) && decide (leAt bs off 2 ≤ 16) && (slice bs (off + 2) 14).all (fun b => decide (b = 0)) &&
   decide (off + 16 + 4 * leAt bs off 2 ≤ bs.length) &&
   (let rs := runOf bs (off + 16) 4 (leAt bs off 2)
    rs.all (fun r => zeroAt r 3 1) && (rs.zip (rs.drop 1)).all (fun (q : List Byte × List Byte) => decide (sAt q.1 0 2 < sAt q.2 0 2))))

/-- TABLES (R145). -/
def tablesOk (x : StreamData) (bs : List Byte) : Bool :=
  let nff := leAt bs 0 4
  decide (nff ≤ 128) && zeroAt bs 12 4 && decide (16 + 4112 * nff ≤ bs.length) && (List.range nff).all (ffOk bs) && lossOk x bs (leAt bs 4 4) &&
  balOk bs (leAt bs 8 4)

/-! ## BLOCKS (R127 to R129, R139) -/

/-- A block record by itself (Table 7-2, R128). -/
def blkRecOk (x : StreamData) (r : List Byte) : Bool :=
  let b := blkOf r
  decide (b.blk ≤ 7) && (match b.law with
    | 1 => within b.xbase b.nx 0x200 0x29F && decide (b.ni ≤ b.nx)
    | 2 => decide (1 ≤ b.nx) && within b.xbase b.nx 0 511 && decide (b.ni = 0)
    | _ => false) &&
  decide (1 ≤ b.nvar) && decide (leAt r 3 1 ≤ 3) && within b.ybase b.ny 0 0xBF && within b.ubase b.nu 0x100 0x17F && within b.wbase b.nw 0x2A0 0x3FF &&
  (decide (b.manBase = 0xFFFF) || (decide (0x180 ≤ b.manBase) && decide (b.manBase + b.nu ≤ 0x200))) &&
  (!b.track || (decide (0x180 ≤ b.manBase) && decide (b.manBase + b.nu ≤ 0x1C0))) &&
  (decide (b.slot = 0xFF) || x.slots.any (fun s => s.slot == b.slot)) && (slice r 25 7).all (fun y => decide (y = 0)) &&
  decide ((x.vars.filter (fun v => v.blk == b.blk)).length = b.nvar)

/-- Ranges of two blocks do not overlap (R128). -/
def blksApart (a b : Blk) : Bool :=
  (decide (a.law ≠ b.law) || apart a.xbase a.nx b.xbase b.nx) && apart a.ubase a.nu b.ubase b.nu && apart a.wbase a.nw b.wbase b.nw

/-- A variant record (Table 7-3, R124): roles name matrices, and a role keeps its shape over the block's variants. -/
def varRecOk (x : StreamData) (r : List Byte) : Bool :=
  let v := varOf r
  zeroAt r 4 4 && (match x.blks.find? (fun b => b.blk == v.blk) with | some b => decide (v.index < b.nvar) | none => false) &&
  v.roles.all (fun m => decide (m = 0xFFFF) || decide (m < x.mats.length))

/-- BLOCKS. -/
def blocksOk (x : StreamData) (bs : List Byte) : Bool :=
  zeroAt bs 3 1 && zeroAt bs 8 8 && decide (1 ≤ leAt bs 0 1) && decide (leAt bs 1 1 ≤ 64) && decide (leAt bs 2 1 ≤ 16) && decide (1 ≤ leAt bs 4 4) &&
  decide (leAt bs 4 4 ≤ 256) && decide (bs.length = 16 + 32 * leAt bs 0 1 + 40 * leAt bs 4 4 + 16 * leAt bs 1 1 + 16 * leAt bs 2 1) &&
  ascending (x.blks.map (·.blk)) && (blkRun bs).all (blkRecOk x) &&
  x.blks.all (fun a => x.blks.all (fun b => decide (a.blk = b.blk) || blksApart a b)) && (varRun bs).all (varRecOk x) &&
  distinct (x.vars.map (fun v => v.blk * 65536 + v.key)) && distinct (x.vars.map (fun v => v.blk * 256 + v.index)) &&
  ascending (x.gens.map (·.gen)) && (genRun bs).all (fun r => zeroAt r 1 3) &&
  x.gens.all (fun g => decide (g.gen ≤ 63) && decide (g.rmax < 2 ^ 31) && decide (g.jmax < 2 ^ 31)) &&
  ascending (x.sups.map (·.sup)) && (supRun bs).all (fun r => zeroAt r 3 1 && zeroAt r 10 6) &&
  x.sups.all (fun s => decide (s.sup ≤ 15) && decide (s.kind ≤ 1) && decide (s.unit ≤ 3) && decide (1 ≤ s.timer)) &&
  distinct (x.sups.map (fun s => 4 * s.kind + s.unit))

/-! ## DETMAP (section 8.2, R155) -/

def detmapOk (x : StreamData) (bs : List Byte) : Bool :=
  let key := fun (m : MapEntry) => ((m.blk * 65536 + m.src) * 256 + m.det) * 256 + m.outcome
  let hasKey := fun (b k : Nat) => x.vars.any (fun v => v.blk == b && v.key == k)
  let attr := fun (b k : Nat) => (x.vars.find? (fun v => v.blk == b && v.key == k)).bind (fun v => x.attrs.find? (fun a => a.blk == b && a.index == v.index))
  zeroAt bs 1 1 && zeroAt bs 10 6 && decide (1 ≤ leAt bs 0 1) &&
  decide (bs.length = 16 + 16 * leAt bs 0 1 + 32 * leAt bs 2 2 + 40 * leAt bs 4 2 + 8 * leAt bs 6 2 + 8 * leAt bs 8 2) &&
  decide (x.detBlks.map (·.blk) = x.blks.map (·.blk)) &&
  (dBlkRun bs).all (fun r => decide (1 ≤ leAt r 1 1) && decide (leAt r 1 1 < 2 * leAt r 2 1) && decide (leAt r 2 1 ≤ leAt r 1 1) && decide (leAt r 3 1 ≤ 1) &&
    decide (leAt r 4 1 ≤ 15) && (slice r 5 11).all (fun y => decide (y = 0))) &&
  ascending (x.dets.map (·.det)) &&
  (detRun bs).all (fun r => decide (leAt r 11 1 ≤ 3) && zeroAt r 28 4) &&
  x.dets.all (fun t => decide (t.det ≤ 191) && x.blks.any (fun b => b.blk == t.blk) && decide (t.meas ≤ 0xBF) && decide (1 ≤ t.n) &&
    (decide (t.mod ≤ 11) || decide (t.mod = 0xFF)) && decide (t.fallback ≤ 2) && (!t.classify || decide (t.mod ≠ 0xFF)) && decide (t.est ≤ 0x3FF) &&
    decide (t.bal ≤ 0x3FF) && (!t.classify || decide (t.agree + t.openTol < t.imin))) &&
  (attrRun bs).all (fun r => decide (leAt r 2 1 ≤ 3) && zeroAt r 3 1 && zeroAt r 6 2) &&
  decide (x.attrs.length = x.vars.length) && distinct (x.attrs.map (fun a => a.blk * 256 + a.index)) &&
  x.attrs.all (fun a => x.vars.any (fun v => v.blk == a.blk && v.index == a.index) &&
    (bitsOf 16 a.active).all (fun m => x.mods.any (fun r => r.blk == a.blk && r.mod == m))) &&
  ascending (x.maps.map key) && (mapRun bs).all (fun r => zeroAt r 3 1) &&
  x.maps.all (fun m => decide (m.outcome ≤ 2) && hasKey m.blk m.src && hasKey m.blk m.dst && (match x.dets.find? (fun t => t.det == m.det), attr m.blk m.dst with
    | some t, some a => if m.outcome = 2 then decide (t.mod = 0xFF) || !testBit a.active t.mod else testBit a.excl t.meas
    | _, _ => false)) &&
  distinct (x.mods.map (fun m => m.blk * 256 + m.mod)) &&
  x.mods.all (fun m => x.blks.any (fun b => b.blk == m.blk) && decide (m.mod ≤ 11) && decide (m.group ≤ 19) && decide (m.legs ≤ 15) &&
    m.il.all (fun i => decide (i ≤ 191) || decide (i = 0xFF))) &&
  distinct (x.mods.flatMap (fun m => (bitsOf 4 m.legs).map (fun l => 4 * m.group + l)))

/-! ## CTRSEQ (R205) -/

/-- A step of CTRSEQ: its operation, its argument and its time (Table 10-4). -/
def stepRecOk (x : StreamData) (s : StepRec) : Bool :=
  let coil := x.ctr.coils.find? (fun c => c.coil == s.arg)
  match s.op with
  | 0 => true
  | 1 | 2 => coil.isSome
  | 3 => decide (1 ≤ s.time)
  | 4 | 5 => decide (s.arg ≤ 0xBF) && decide (1 ≤ s.time)
  | 6 => decide (1 ≤ s.time) && (match coil with | some c => decide (c.va ≠ 0xFFFF) && decide (c.vb ≠ 0xFFFF) | none => false)
  | _ => false

def ctrseqOk (x : StreamData) (bs : List Byte) : Bool :=
  let c := x.ctr
  (slice bs 5 11).all (fun y => decide (y = 0)) &&
  decide (bs.length = 16 + 24 * leAt bs 0 1 + 8 * leAt bs 1 1 + 12 * leAt bs 2 2 + 4 * leAt bs 4 1) &&
  ascending (c.coils.map (·.coil)) && (coilRun bs).all (fun r => decide (leAt r 2 1 ≤ 1) && zeroAt r 20 4) &&
  c.coils.all (fun k => decide (k.coil ≤ 47) && (decide (k.fb ≤ 47) || decide (k.fb = 0xFF)) && decide (k.fbdeb ≤ 20) && decide (1 ≤ k.tclose) &&
    decide (k.tclose ≤ 1000) && decide (1 ≤ k.topen) && decide (k.topen ≤ 1000) && (decide (k.va ≤ 0xBF) || decide (k.va = 0xFFFF)) &&
    (decide (k.vb ≤ 0xBF) || decide (k.vb = 0xFFFF))) &&
  ascending (c.seqs.map (·.seq)) && (seqRun bs).all (fun r => zeroAt r 6 2) &&
  c.seqs.all (fun q => decide (q.seq ≤ 63) && decide (1 ≤ q.nsteps) && decide (q.nsteps ≤ 64) && decide (q.first + q.nsteps ≤ c.steps.length) &&
    ((c.steps.drop q.first).take q.nsteps).any (fun s => decide (s.op = 0)) &&
    (decide (q.failSeq = 0xFF) || c.seqs.any (fun f => f.seq == q.failSeq && f.failSeq == 0xFF))) &&
  (stepRun bs).all (fun r => zeroAt r 1 1 && zeroAt r 6 2) && c.steps.all (stepRecOk x) &&
  (ilkRun bs).all (fun r => decide (leAt r 0 1 ≤ 47) && decide (leAt r 1 1 ≤ 47) && decide (leAt r 2 1 ≤ 1) && zeroAt r 3 1)

/-! ## PROGRAM (R118, R123, R124, R129, R131, R136, R146, R153) -/

/-- The matrices a MAT field may name: one directly, or the role's matrix in every variant of a block; none where it names
none. -/
def matsNamed (x : StreamData) (mat : Nat) : Option (List Mat) :=
  if testBit mat 31 then
    let vs := x.vars.filter (fun v => v.blk == bits mat 30 24)
    let role := bits mat 15 0
    if vs.isEmpty || decide (16 ≤ role) || vs.any (fun v => decide (x.mats.length ≤ numAt v.roles role)) then none
    else some (vs.map (fun v => x.mats.getD (numAt v.roles role) {}))
  else if mat < x.mats.length then some [x.mats.getD mat {}] else none

/-- Every matrix named has the given shape. -/
def shapeOk (x : StreamData) (mat rows cols : Nat) : Bool :=
  match matsNamed x mat with
  | some ms => ms.all (fun m => decide (m.rows = rows) && decide (m.cols = cols))
  | none => false

/-- Signals a program may write (R118). -/
def mayWrite (dst n : Nat) : Bool := decide (dst + n ≤ 0x400) && (within dst n 0x100 0x17F || decide (0x200 ≤ dst))

/-- Signals a program may read. -/
def mayRead (src n : Nat) : Bool := decide (src + n ≤ 0x400)

/-- The block whose ranges hold the signals `dst` to `dst + n - 1` (R136). -/
def blockHolds (x : StreamData) (dst n : Nat) : Bool :=
  x.blks.any (fun b => (decide (b.law = 1) && decide (b.xbase ≤ dst) && decide (dst + n ≤ b.xbase + b.nx)) ||
    (decide (b.ubase ≤ dst) && decide (dst + n ≤ b.ubase + b.nu)) || (decide (b.wbase ≤ dst) && decide (dst + n ≤ b.wbase + b.nw)))

/-- The LAW 2 block whose section range holds the sections of a BQ. -/
def sectBlock (x : StreamData) (a : CeArgs) : Option Blk :=
  x.blks.find? (fun b => decide (b.law = 2) && decide (b.xbase ≤ a.aux) && decide (a.aux + a.r ≤ b.xbase + b.nx))

/-- One instruction by itself; `main` says whether it stands in the main program, `ready` how many accumulator rows an MVM of
its sequence has initialised. -/
def opOk (x : StreamData) (main : Bool) (ready : Nat) (o : CeOp) : Bool :=
  let a := o.a
  let rows := decide (1 ≤ a.r) && decide (a.r ≤ 256)
  let flags := fun (m : Nat) => decide (Nat.land a.flags m = a.flags)
  let xfer := testBit a.flags 1
  match o.op with
  | 0x00 => flags 0
  | 0x01 => rows && flags 1 && decide (1 ≤ a.c) && decide (a.c ≤ 256) && mayRead a.src a.c && (!testBit a.flags 0 || mayRead a.aux a.r) && shapeOk x a.mat a.r a.c
  | 0x02 => rows && flags 0 && decide (1 ≤ a.c) && decide (a.c ≤ 256) && mayRead a.src a.c && shapeOk x a.mat a.r a.c
  | 0x03 => rows && flags 2 && mayWrite a.dst a.r && decide (a.r ≤ ready) && (!xfer || blockHolds x a.dst a.r)
  | 0x04 => rows && flags 0 && mayWrite a.dst a.r && mayRead a.src a.r && mayRead a.aux a.r
  | 0x05 => rows && flags 2 && mayWrite a.dst a.r && mayRead a.src a.r && mayRead a.aux a.r && (!xfer || blockHolds x a.dst a.r)
  | 0x06 => rows && flags 0 && mayWrite a.dst a.r && mayRead a.src a.r && mayRead a.aux a.r
  | 0x07 => rows && flags 0 && mayWrite a.dst a.r && mayRead a.src a.r
  | 0x08 =>
    let dir := testBit a.flags 1
    let last := a.mat + (if testBit a.flags 2 then 0 else (a.r - 1) * (if dir then 2 else 1)) + b2n dir
    rows && flags 6 && mayWrite a.dst a.r && mayRead a.src a.r && (!dir || mayRead a.aux a.r) && decide (last < x.ffs.length)
  | 0x09 => rows && flags 2 && decide (a.dst = 0) && decide (a.aux + a.r ≤ 64) && (!xfer || mayRead a.src a.r)
  | 0x0A => rows && decide (a.r ≤ 64) && flags 2 && mayWrite a.dst a.r && mayRead a.src a.r && shapeOk x a.mat a.r 5 && (match sectBlock x a with
    | some b => !xfer || (decide (b.ubase ≤ a.dst) && decide (a.dst + a.r ≤ b.ubase + b.nu))
    | none => false)
  | 0x0B => rows && flags 0 && main && decide (a.aux = 0) && decide (a.mat = 0) && decide (a.dst + a.r ≤ 192) && mayRead a.src a.r
  | 0x0C => rows && flags 0 && decide (a.dst + a.r ≤ 16) && mayRead a.src a.r && mayRead a.aux a.r
  | 0x0D => flags 0
  | _ => false

/-- A code sequence: its instructions one after another. -/
def codeOk (x : StreamData) (main : Bool) : Nat → List CeOp → Bool
  | _, [] => true
  | ready, o :: rest => opOk x main ready o && codeOk x main (if o.op = 1 then max ready o.a.r else ready) rest

/-- Every code sequence of a stream: the main program and the sub-rate slots. -/
def StreamData.code (x : StreamData) : List CeOp := x.main ++ x.slots.flatMap (·.code)

/-- How many instructions name the element `n` of an operation. -/
def named (x : StreamData) (op : Nat) (first : CeArgs → Nat) (n : Nat) : Nat :=
  (x.code.filter (fun o => o.op == op && decide (first o.a ≤ n) && decide (n < first o.a + o.a.r))).length

/-- A state index that an XFER instruction of the block writes (R140). -/
def xferWritesState (x : StreamData) (b : Blk) (didx : Nat) : Bool :=
  x.code.any (fun o => testBit o.a.flags 1 &&
    (if b.law = 1 then (o.op == 3 || o.op == 5) && decide (o.a.dst ≤ b.xbase + didx) && decide (b.xbase + didx < o.a.dst + o.a.r)
     else o.op == 0x0A && decide (o.a.aux ≤ b.xbase + didx / 2) && decide (b.xbase + didx / 2 < o.a.aux + o.a.r)))

/-- PROGRAM. -/
def programOk (x : StreamData) (bs : List Byte) : Bool :=
  let n := leAt bs 0 4
  let main := leAt bs 4 4
  let prog := programOf bs
  zeroAt bs 8 8 && decide (bs.length = 16 + 16 * n) && decide (1 ≤ main) && decide (main ≤ n) && decide ((prog.getD (main - 1) {}).op = 0) &&
  (prog.take (main - 1)).all (fun o => decide (o.op ≠ 0)) && prog.all (fun o => decide (o.op ≤ 0x0D)) && codeOk x true 0 x.main &&
  x.slots.all (fun s => codeOk x false 0 s.code) &&
  (List.range 512).all (fun i => decide (named x 0x0A (·.aux) i ≤ 1)) && (List.range 64).all (fun g => decide (named x 0x09 (·.aux) g ≤ 1)) &&
  x.dets.all (fun t => decide (named x 0x0B (·.dst) t.det = 1) &&
    x.blks.any (fun b => b.blk == t.blk && decide (b.ybase ≤ t.meas) && decide (t.meas < b.ybase + b.ny))) &&
  x.sups.all (fun s => decide (named x 0x0C (·.dst) s.sup = 1))

/-! ## PRESET (R80, R140) -/

/-- The number of states a block counts for DIDX and SIDX. -/
def Blk.states (b : Blk) : Nat := if b.law = 1 then b.nx else 2 * b.nx

/-- PRESET: `old` holds the blocks of the stream that is active now. -/
def presetsOk (x : StreamData) (old : List Blk) (rs : List (List Byte)) : Bool :=
  rs.all (fun r => zeroAt r 5 1) &&
  x.presets.all (fun p =>
    let dst := x.blks.find? (fun b => b.blk == p.dblk)
    let src := old.find? (fun b => b.blk == p.sblk)
    (match dst with | some b => decide (p.didx < b.states) && (decide (p.op ≠ 3) || xferWritesState x b p.didx) | none => false) &&
    decide (p.op ≤ 3) && (decide (p.op ≠ 2) || decide (p.sidx ≤ 0x3FF)) &&
    (decide (p.op = 0 ∨ p.op = 2) || (decide (p.sblk ≤ 7) && (old.isEmpty || (match src with | some b => decide (p.sidx < b.states) | none => false)))))

/-! ## The checks of Table 4-12 -/

/-- One section keeps the layout rules of its tag (code 0x08). -/
def Dev.secOk (d : Dev) (x : StreamData) (dir : List Sec) (s : Sec) : Bool :=
  let bs := s.bytes
  let pre := match recLenOf s.tag with | some rl => recPrefixOk bs rl (if s.tag = 6 then 80 else 0) | none => true
  let rs := recsOf bs ((recLenOf s.tag).getD 1)
  pre && (match s.tag with
    | 0x01 => decide (leAt bs 0 4 = 1)
    | 0x02 => signalsOk rs
    | 0x03 => d.measmapOk x rs
    | 0x04 => actmapOk x rs
    | 0x05 => legmapOk x rs
    | 0x06 => tripmatOk x bs rs
    | 0x07 => blocksOk x bs
    | 0x08 => coeffOk x bs
    | 0x09 => tablesOk x bs
    | 0x0A => detmapOk x bs
    | 0x0B => ctrseqOk x bs
    | 0x0C => rs.all (fun r => zeroAt r 3 1)
    | 0x0D => permOk x rs
    | 0x0E => targetsOk x rs
    | 0x0F => subrateOk (leAt (secBytes dir 0x11) 0 4) (programOf (secBytes dir 0x11)) rs
    | 0x10 => presetsOk x d.act.blks rs
    | 0x11 => programOk x bs
    | 0x12 => decide (rs.length ≤ 512) && rs.all (fun r => zeroAt r 3 1) && x.regInits.all regInitOk
    | _ => true)

/-- Cascades of a code sequence keep R133: each BQ whose SRC is the DST of the BQ before it continues the run. -/
def cascadesOk : Nat → Option CeArgs → List CeOp → Bool
  | _, _, [] => true
  | n, prev, o :: rest =>
    if o.op = 0x0A then
      match prev with
      | some p =>
        if o.a.src = p.dst then decide (n + 1 ≤ 16) && decide (o.a.r = p.r) && cascadesOk (n + 1) (some o.a) rest
        else cascadesOk 1 (some o.a) rest
      | none => cascadesOk 1 (some o.a) rest
    else cascadesOk 0 none rest

/-- Bytes rounded up to a multiple of 16 (R70). -/
def round16 (n : Nat) : Nat := (n + 15) / 16 * 16

/-- Space the other sections take in a table area (R70). -/
def tableSpace (dir : List Sec) : Nat :=
  (dir.filter (fun s => !infoTag s.tag)).foldl (fun a s => a + round16 (if s.tag = 0x08 then s.len - 5 * leAt s.bytes 4 4 else s.len)) 0

/-- RESOURCE (code 0x09). -/
def resourceOk (x : StreamData) (img : List Byte) : Bool :=
  let dir := dirOf img
  let b := secBytes dir
  let law1 : Nat := (x.blks.filter (fun k => decide (k.law = 1))).foldl (fun (a : Nat) (k : Blk) => a + k.nx) 0
  let law2 : Nat := (x.blks.filter (fun k => decide (k.law = 2))).foldl (fun (a : Nat) (k : Blk) => a + k.nx) 0
  let nu : Nat := x.blks.foldl (fun (a : Nat) (k : Blk) => a + k.nu) 0
  let sos : Nat := (x.code.filter (fun o => decide (o.op = 0x0A))).foldl (fun (a : Nat) (o : CeOp) => a + o.a.r) 0
  decide (img.length ≤ 1572864) && decide (x.coefs.length ≤ 1048576) && decide (tableSpace dir ≤ 1048576) && decide (law1 ≤ 160) && decide (law2 ≤ 512) &&
  decide (nu ≤ 128) && x.blks.all (fun k => decide (k.nvar ≤ 32)) && decide (x.blks.length ≤ 8) &&
  decide (x.slots.length ≤ 64) && cascadesOk 0 none x.main && x.slots.all (fun s => cascadesOk 0 none s.code) &&
  decide (sos ≤ 512) && decide (x.lcm ≤ 1048576) &&
  decide (leAt (b 0x0A) 0 1 ≤ 8) && decide (leAt (b 0x0A) 2 2 ≤ 192) && decide (leAt (b 0x0A) 6 2 ≤ 1024) && decide (leAt (b 0x0A) 8 2 ≤ 96) &&
  decide (leAt (b 0x0B) 0 1 ≤ 48) && decide (leAt (b 0x0B) 1 1 ≤ 64) && decide (leAt (b 0x0B) 2 2 ≤ 1024) && decide (leAt (b 0x0B) 4 1 ≤ 128)

/-- Carrier relations of one leg with one multiple (R171). -/
def carrierOk (t : Timing) (l : LegRec) (div : Nat) : Bool :=
  let pe := l.per * div
  decide (1600 ≤ pe) && decide (pe ≤ 40000) &&
  ((decide (pe % t.tick = 0) && decide (1 ≤ pe / t.tick) && decide (pe / t.tick ≤ 64)) ||
   (decide (t.tick % pe = 0) && decide (1 ≤ t.tick / pe) && decide (t.tick / pe ≤ 16))) &&
  decide ((((l.gofs + l.lofs : Nat) : Int) - t.phase) % (min pe t.tick : Nat) = 0) && decide (l.dtr + l.dtf + 2 * l.tmin ≤ 64 * l.per)

/-- Carrier multiples a group may take: 1, and those of the loss rows of blocks that own a leg of it (R171). -/
def multiplesOf (x : StreamData) (g : Nat) : List Nat :=
  1 :: ((x.loss.filter (fun r => x.legs.any (fun l => decide (l.leg / 4 = g) && l.blk == r.blk))).map (·.cardiv))

/-- Starts of a converter's triggered sequence that one tick may hold: every compare of a used group with that target fires once
per period, once per tick at least. -/
def Dev.trigStarts (d : Dev) (x : StreamData) (c : Nat) : Nat :=
  (x.legs.map (fun l => l.leg / 4)).eraseDups.foldl (fun a g =>
    let per := ((x.legs.find? (fun l => l.leg / 4 == g)).getD {}).per
    a + ((List.range 4).filter (fun t => decide (d.rwsAfter x (R.PWM_TRGCFG.TARGET g t) = 2 + c))).length * max 1 (x.timing.tick / max 1 per)) 0

/-- Conversions of a converter on the control path (R199). -/
def Dev.ctlConversions (d : Dev) (x : StreamData) (c : Nat) : Nat :=
  (x.meas.filter (fun m => m.path == 0 && m.src == 1 && m.index / 16 == c && decide (d.rwsAfter x (R.FBA_CHCFG.INTEG m.index) = 0))).length

/-- TIMING (code 0x0A): Table 4-6, R117, R171, R194 and R201. -/
def Dev.timingOk (d : Dev) (x : StreamData) (raw : List Byte) : Bool :=
  let t := x.timing
  let divs := (x.meas.filter (fun m => m.path == 0 && m.src == 0)).map (fun m => numAt t.div m.clk)
  decide (1000 ≤ t.tick) && decide (t.tick ≤ 16000) && decide (t.phase < t.tick) && decide (x.tmeas + 40 ≤ t.w) && decide (t.w + 160 ≤ 2 * t.tick) &&
  [8, 16, 32, 64].contains t.osr && decide (1 ≤ t.base) && decide (t.preset ≤ 4095) &&
  t.div.all (fun v => decide (v = 0) || (decide (16 ≤ v) && decide (v ≤ 80))) && zeroAt raw 19 1 && zeroAt raw 26 2 && zeroAt raw 36 4 &&
  divs.all (fun v => decide (0 < v) && decide (t.tick % v = 0) && decide (t.phase % v = 0)) &&
  x.meas.all (fun m => decide (m.src ≠ 0) || decide (0 < numAt t.div m.clk)) &&
  x.meas.all (fun m => decide (m.path ≠ 1) || (decide (0 < numAt t.div m.clk) && decide (10000 % numAt t.div m.clk = 0))) &&
  x.legs.all (fun l => (multiplesOf x (l.leg / 4)).all (carrierOk t l)) &&
  [0, 1].all (fun c => decide (400 * d.ctlConversions x c ≤ x.tmeas) &&
    decide (250 * (d.ctlConversions x c + d.trigStarts x c * d.rwsAfter x (R.FBA_TCFG.LEN c)) ≤ t.tick))

/-- Functions a pad group offers (Table 23-14). -/
def padOffers (k fn : Nat) : Bool :=
  decide (fn = 0) || (decide (1 ≤ fn) && decide (fn ≤ 8) && (decide (k % 8 = fn - 1) || decide (k % 8 = (fn - 1 + 4) % 8))) ||
  ((decide (fn = 0x10) || decide (fn = 0x11)) && decide (8 ≤ k))

/-- PADS (code 0x0B, R441). -/
def Dev.padsOk (d : Dev) (x : StreamData) : Bool :=
  x.padFns.all (fun p => decide (p.group ≤ 15) && padOffers p.group p.fn) && distinct (x.padFns.map (·.group)) &&
  (List.range 20).all (fun g => [0, 1, 2, 3].all (fun t => decide (d.rwsAfter x (R.PWM_TRGCFG.TARGET g t) ≠ 1) ||
    x.padFns.any (fun p => decide (p.fn = 1 + d.rwsAfter x (R.PWM_TRGCFG.PAD g t)))))

/-- TRIPMAP (code 0x0C, R187). -/
def tripmapOk (x : StreamData) : Bool :=
  x.legs.all (fun l =>
    let p := numAt x.patterns l.leg
    testBit p 7 && decide (bits p 1 0 ≠ 3) && (decide (l.cls = 1) || decide (bits p 1 0 = 0)))

/-- LOCKOUT (code 0x0D, R77). -/
def lockoutOk (x : StreamData) : Bool :=
  [0x20018, 0x2001C, 0x20020, 0x20028].all (fun a => x.perms.any (fun p => decide (p.first ≤ a) && decide (a ≤ p.last) && testBit p.wrModes 3 &&
    decide (p.wmask = 0xFFFFFFFF)))

/-- SEALED (code 0x0E, R85). -/
def Dev.sealedOk (d : Dev) (x : StreamData) : Bool :=
  decide (d.ffuse.variant = 2) || !d.ffuse.sealed || decide (Config.sha384 x.bindRaw = d.ffuse.bind)

/-- Cycles of one instruction (Table 6-8). -/
def opCost (o : CeOp) : Nat :=
  let p := (o.a.r + 63) / 64
  match o.op with
  | 0x01 | 0x02 => p * o.a.c + 4
  | 0x03 | 0x04 | 0x05 | 0x06 => p + 2
  | 0x07 => p + 1
  | 0x08 => p + 10
  | 0x09 => p + 6
  | 0x0A => 8
  | 0x0B | 0x0C => p + 3
  | 0x0D => o.a.c
  | _ => 0

/-- BUDGET (code 0x0F, R83). -/
def budgetOk (x : StreamData) : Bool :=
  decide (x.worst + x.tmeas + 40 ≤ x.timing.w) && decide ((x.main.map opCost).sum ≤ x.timing.base) &&
  x.slots.all (fun s => decide ((s.code.map opCost).sum ≤ s.cyc))

/-- The directory index of a tag's section, 0xFF where the image lacks it. -/
def sectOf (img : List Byte) (tag : Nat) : Nat := match secOf (dirOf img) tag with | some s => s.idx | none => 0xFF

/-- The first failing check of an image as received (R82): its code and SECT; none where every check passes. -/
def Dev.loadBad (d : Dev) (img : List Byte) : Option (Nat × Nat) :=
  let total := leAt img 8 4
  if total ≠ img.length ∨ total < 1024 ∨ 1572864 < total then some (0x01, 0xFF)
  else if leAt img 0 4 ≠ 0x5254535A ∨ leAt (trailerOf img) 0 4 ≠ 0x4749535A then some (0x02, 0xFF)
  else if leAt img 4 2 ≠ 1 ∨ leAt img 6 2 ≠ 64 ∨ leAt img 24 2 < 6 ∨ 32 < leAt img 24 2 ∨ leAt img 15 1 ≠ 0 ∨ leAt img 26 2 ≠ 0 ∨ leAt img 40 24 ≠ 0 then
    some (0x03, 0xFF)
  else if leAt img 12 2 ≠ 0x4810 ∨ d.rd R.FSYS_ID.MAJOR < leAt img 14 1 then some (0x04, 0xFF)
  else if d.signedOk .field 0 img = false then some (0x05, 0xFF)
  else if leAt img 20 4 < d.rd R.STS_MINSVN.SVN then some (0x06, 0xFF)
  else match directoryBad img with
    | some i => some (0x07, i)
    | none =>
      let dir := dirOf img
      let x := decodeStream img
      match dir.find? (fun s => !d.secOk x dir s) with
      | some s => some (0x08, s.idx)
      | none =>
        if resourceOk x img = false then some (0x09, 0xFF)
        else if d.timingOk x (secBytes dir 0x01) = false then some (0x0A, sectOf img 0x01)
        else if d.padsOk x = false then some (0x0B, sectOf img 0x0C)
        else if tripmapOk x = false then some (0x0C, sectOf img 0x06)
        else if lockoutOk x = false then some (0x0D, sectOf img 0x0D)
        else if d.sealedOk x = false then some (0x0E, sectOf img 0x03)
        else if budgetOk x = false then some (0x0F, 0xFF)
        else none

end Sys2Proof.Machine
end

