-- ==== Sys2Proof/Machine/Stack.lean ====
section
/-! DEFINITION. The buffer stack port (chapter 16): chain frames and states, snapshots, open-wire test, balancing and the
buffer block. End 0 is A, end 1 is B. -/

namespace Sys2Proof.Machine

def Dev.satRt (d : Dev) (s : Nat) : SatRt := d.stk.sats.getD s {}

def Dev.setSat (d : Dev) (s : Nat) (x : SatRt) : Dev := { d with stk := { d.stk with sats := setAt d.stk.sats s x } }

def Dev.chainState (d : Dev) : Nat := d.rd R.STK_CHSTAT.STATE

/-- Satellites an end serves (R327). -/
def Dev.served (d : Dev) (e : Nat) : List Nat :=
  (List.range d.stk.nsat).filter (fun s => if e = 0 then decide (s < d.stk.split) else decide (d.stk.split ≤ s))

/-- The end that serves a satellite. -/
def Dev.endOf (d : Dev) (s : Nat) : Nat := if s < d.stk.split then 0 else 1

/-- SPLITEFF and the serving ends shown. -/
def Dev.splitShow (d : Dev) : Dev :=
  let d := d.wr R.STK_CHSTAT.SPLITEFF d.stk.split
  d.forAll (List.range 32) (fun d s => d.wr (R.STK_SATSTAT.END s) (if s < d.stk.nsat then d.endOf s else 0))

/-! ## The buffer block (R336) -/

/-- The buffer becomes HELD: its hold begins. -/
def Dev.bufHeld (d : Dev) : Dev := ((d.wr R.STK_BUFSTAT.STATE 0).raise 57 1 []).legsHold

/-- The target of the current generator goes to 0 (Table 16-5). -/
def Dev.bufZero (d : Dev) : Dev :=
  if d.rd R.STK_BUFCFG.IGEN < 64 then d.setGen (d.rd R.STK_BUFCFG.IGEN) { d.gen (d.rd R.STK_BUFCFG.IGEN) with target := 0 } else d

/-- RUN ends with a cause: the target goes to 0, and the block to LIMITED, or to HELD in the tick of its GO (Table 16-5). -/
def Dev.bufLimit (d : Dev) (c : Nat) : Dev :=
  let stk := { d.stk with causeId := some d.stk.snapId, izeroAt := none }
  let e := ({ d with stk := stk }.wr R.STK_BUFSTAT.CAUSE c).bufZero
  if d.stk.goAt = some d.ce.k then (e.wr R.STK_BUFSTAT.STATE 0).legsHold
  else (e.wr R.STK_BUFSTAT.STATE 2).raise 57 0 [c]

/-- A cause of Table 16-5 in the snapshot in progress. -/
def Dev.bufCause (d : Dev) (c : Nat) : Dev :=
  let d := d.wr R.STK_BUFSTAT.CAUSEMASK (setBit (d.rd R.STK_BUFSTAT.CAUSEMASK) (c - 1))
  match d.rd R.STK_BUFSTAT.STATE with
  | 1 => d.bufLimit c
  | 2 => if d.stk.causeId = some d.stk.snapId then d.wr R.STK_BUFSTAT.CAUSE (min c (d.rd R.STK_BUFSTAT.CAUSE)) else d
  | _ => d

/-- The state that BLK calls for after REGINIT or with F4 (Table 16-5). -/
def Dev.bufSync (d : Dev) : Dev :=
  let st := d.rd R.STK_BUFSTAT.STATE
  if d.rd R.STK_BUFCFG.BLK = 0xFF then d.wr R.STK_BUFSTAT.STATE 3
  else if st = 3 then (d.wr R.STK_BUFSTAT.STATE 0).legsHold else d

/-- A cell-limit condition stands (R331). -/
def Dev.cellLimit (d : Dev) : Bool := d.stk.cells.any (fun c => decide (d.rd R.STK_CHKCFG.LIMN ≤ c.run))

/-- A sum mismatch stands (R331). -/
def Dev.sumMismatch (d : Dev) : Bool := decide (d.rd R.STK_CHKCFG.SUMLIM ≤ d.stk.sumRun)

/-- GO written (Table 16-5). -/
def Dev.bufGo (d : Dev) : Dev :=
  if d.rd R.STK_BUFSTAT.STATE ≠ 0 then d
  else
    let ow := (List.range 32).any (fun s => decide (d.rd (R.STK_SATOW.LINE s) ≠ 0))
    if d.chainState = 3 ∧ d.stk.lastComplete = true ∧ d.cellLimit = false ∧ d.sumMismatch = false ∧ ow = false ∧
        d.stk.causeId ≠ some d.stk.snapId then
      let d := { d with stk := { d.stk with goAt := some d.ce.k, causeId := none } }
      (d.wrAll [(R.STK_BUFSTAT.STATE, 1), (R.STK_BUFSTAT.CAUSEMASK, 0)]).raise 57 2 []
    else d.raise 57 3 []

/-- A signal scaled by R330. -/
def Dev.stkScaled (d : Dev) (mant shift sg : Fld) : Int :=
  sat (rshRound (term (d.rd mant + 2 ^ 32 * d.rd shift) (d.snapAt (d.rd sg))).1 30) 32

/-- ib of R330 in mA. -/
def Dev.bufCurrent (d : Dev) : Int := d.stkScaled R.STK_BUFIMANT.VALUE R.STK_BUFSH.ISH R.STK_BUFSIG.ISIG

/-- vst of R330 in mV. -/
def Dev.stackVoltage (d : Dev) : Int := d.stkScaled R.STK_BUFVMANT.VALUE R.STK_BUFSH.VSH R.STK_BUFSIG.VSIG

/-- STK at a W: the end of QUENCHING (Table 16-5), and the pair of the target tick (R330). -/
def Dev.stkAtW (d : Dev) : Dev :=
  if d.domOn .f4 then
    let now := d.stcNs
    let d := if d.rd R.STK_BUFSTAT.STATE = 2 then
        if d.bufCurrent.natAbs ≤ d.rd R.STK_BUFIZ.VALUE then
          match d.stk.izeroAt with
          | none => { d with stk := { d.stk with izeroAt := some now } }
          | some t => if t + 1000000 ≤ now then d.bufHeld else d
        else { d with stk := { d.stk with izeroAt := none } }
      else d
    if d.stk.snapOn ∧ d.stk.target = d.pwm.lastS then
      { d with stk := { d.stk with pair := if d.ceLive then some (d.bufCurrent, d.stackVoltage) else none } }
    else d
  else d

/-! ## Balancing duties (R334) -/

/-- LIM between neighbouring points. -/
def limBetween : List (Int × Nat) → Int → Int
  | [], _ => 0
  | [(_, l)], _ => l
  | (t0, l0) :: (t1, l1) :: rest, t =>
    if t ≤ t0 then l0
    else if t < t1 then (l0 : Int) + divz (((l1 : Int) - l0) * (t - t0)) (t1 - t0)
    else limBetween ((t1, l1) :: rest) t

/-- The derate limit at a die temperature in 0.1 °C. -/
def Dev.balLimit (d : Dev) (t : Int) : Nat :=
  (limBetween (if d.act.balTab = [] then [(850, 100), (1100, 0)] else d.act.balTab) t).toNat

/-- The requested and the applied duty field of a global cell. -/
def balDuty (c : Nat) : Fld :=
  match c % 4 with
  | 0 => R.STK_BALDUTY.DUTY0 (c / 4) | 1 => R.STK_BALDUTY.DUTY1 (c / 4) | 2 => R.STK_BALDUTY.DUTY2 (c / 4) | _ => R.STK_BALDUTY.DUTY3 (c / 4)

def balEff (c : Nat) : Fld :=
  match c % 4 with
  | 0 => R.STK_BALEFF.DUTY0 (c / 4) | 1 => R.STK_BALEFF.DUTY1 (c / 4) | 2 => R.STK_BALEFF.DUTY2 (c / 4) | _ => R.STK_BALEFF.DUTY3 (c / 4)

/-- The applied duties of a satellite and its DERATED bit (R334). -/
def Dev.balApply (d : Dev) (s : Nat) : Dev :=
  let lim := if d.on (R.STK_SATTEMP.VALID s) then d.balLimit (d.rdS (R.STK_SATTEMP.TDIE s)) else 0
  let cells := (List.range 18).map (fun j => 18 * s + j)
  let d := d.forAll cells (fun d c => d.wr (balEff c) (min (d.rd (balDuty c)) lim))
  let der := cells.any (fun c => decide (d.rd (balEff c) < d.rd (balDuty c)))
  if der = d.on (R.STK_SATSTAT.DERATED s) then d else (d.wrB (R.STK_SATSTAT.DERATED s) der).raise 59 0 [s]

/-- The duties that a satellite should hold. -/
def Dev.balWant (d : Dev) (s : Nat) : List Nat := (List.range 18).map (fun j => d.rd (balEff (18 * s + j)))

/-- STK_BALDUTY written: the satellites of its four cells are applied anew. -/
def Dev.balDutyChanged (d : Dev) (i : Nat) : Dev := d.forAll ((([0, 1, 2, 3].map (fun b => (4 * i + b) / 18)).eraseDups)) Dev.balApply

/-! ## Chain states (R325) -/

/-- A change of the chain's state. -/
def Dev.chainGo (d : Dev) (st : Nat) : Dev :=
  let was := d.chainState
  if was = st then d
  else
    let d := (d.wr R.STK_CHSTAT.STATE st).raise 56 0 [was, st]
    if was = 3 then
      let k := { d.stk with snapOn := false, todo := [[], []], out := [none, none], lastComplete := false, prevIb := none }
      let d := { d with stk := { k with owLine := none, owPhase := 0, owTest := false } }
      (d.wrAll [(R.STK_OWSTAT.RUNNING, 0), (R.STK_OWSTAT.LINE, 0x1F)]).bufCause 1
    else d

/-- Entry to WAKING: STK_CHCFG applied, satellites asleep until now, estimates cleared (R325 to R327, R332). -/
def Dev.chainWake (d : Dev) : Dev :=
  let n := min 32 (d.rd R.STK_CHCFG.NSAT)
  let ring := d.on R.STK_CHCFG.RING
  let sp := d.rd R.STK_CHCFG.SPLIT
  let split := if ring then (if sp = 0 then (n + 1) / 2 else min sp n) else n
  let k := d.stk
  let k := { k with nsat := n, ring := ring, cfgSplit := sp, crcEn := d.on R.STK_CHCFG.CRCEN, ccEn := d.on R.STK_CHCFG.CCEN }
  let k := { k with autow := d.on R.STK_CHCFG.AUTOW, wakes := 1, wakeReq := false, found := [0, 0], enumDone := [false, !ring], split := split }
  let k := { k with moved := false, sats := k.sats.map (fun (x : SatRt) => ({ cc := x.cc } : SatRt)), out := [none, none], closing := false }
  let k := { k with cells := List.replicate 576 {}, sumRun := 0, lastComplete := false, compV := none }
  let d := { d with stk := k }
  let d := d.wr R.STK_CHSTAT.CFGPEND 0
  let d := d.forAll (List.range 32) (fun d s => d.wrAll [(R.STK_SATSTAT.FOUND s, 0), (R.STK_SATDLY.ARRA s, 0xFFFF), (R.STK_SATDLY.ARRB s, 0xFFFF)])
  let d := d.forAll (List.range 576) (fun d c => d.wr (R.STK_CELLZ.Z c) 0x80000000)
  d.splitShow.chainGo 1

/-- The chain leaves OFF when it may (R325). -/
def Dev.chainStart (d : Dev) : Dev :=
  if d.chainState = 0 ∧ d.domOn .f4 = true ∧ d.rd R.STK_CTL.STATUS = 1 ∧ d.streamActive = true ∧ d.rd R.STK_CHCFG.NSAT ≠ 0 then d.chainWake else d

/-- The chain is OFF: the drain is done, and a SLEEP is due (Table 16-3). -/
def Dev.chainOff (d : Dev) : Dev :=
  let d := if d.chainState = 0 then d else { (d.chainGo 0) with stk := { (d.chainGo 0).stk with sleepDue := true } }
  let d := { d with stk := { d.stk with closing := false, out := [none, none] } }
  let d := if d.rd R.STK_CTL.STATUS = 2 then d.wr R.STK_CTL.STATUS (if d.on R.STK_CTL.EN then 1 else 0) else d
  d.chainStart

/-- The chain has no frame in flight. -/
def Dev.chainQuiet (d : Dev) : Bool := d.stk.out.all (·.isNone)

/-- The chain is to end (EN written 0, or no stream): at once, or after its frame in flight and the response (Table 2-6). -/
def Dev.chainClose (d : Dev) : Dev :=
  let d := { d with stk := { d.stk with closing := true } }
  if d.chainQuiet then d.chainOff else d

/-- STK_CTL.EN written. -/
def Dev.stkEnable (d : Dev) (en : Bool) : Dev :=
  let st := d.rd R.STK_CTL.STATUS
  let d := d.wrB R.STK_CTL.EN en
  if en then (if st = 0 then (d.wr R.STK_CTL.STATUS 1).chainStart else d)
  else if st = 1 then (d.wr R.STK_CTL.STATUS 2).chainClose else d

/-- REGINIT or a swap changed STK fields (R326, Table 16-5). -/
def Dev.stkConfigured (d : Dev) : Dev :=
  let s := d.stk
  let differs := decide (s.nsat ≠ min 32 (d.rd R.STK_CHCFG.NSAT)) || decide (s.ring ≠ d.on R.STK_CHCFG.RING) || decide (s.cfgSplit ≠ d.rd R.STK_CHCFG.SPLIT) ||
    decide (s.crcEn ≠ d.on R.STK_CHCFG.CRCEN) || decide (s.ccEn ≠ d.on R.STK_CHCFG.CCEN) || decide (s.autow ≠ d.on R.STK_CHCFG.AUTOW)
  let d := if d.chainState ≠ 0 ∧ differs = true then d.wr R.STK_CHSTAT.CFGPEND 1 else d
  d.bufSync.chainStart

/-- FAULT ends: 600 ms have passed, and AUTOW is set or WAKE was written (R325, R326). -/
def Dev.chainRewake (d : Dev) : Dev :=
  if d.chainState = 4 ∧ (d.stk.autow = true ∨ d.stk.wakeReq = true) ∧ d.rd R.STK_CTL.STATUS = 1 then
    (d.advanceTo (stepsOfNs (d.stk.faultAt + 600000000))).chainWake
  else d

/-- STK_CTL.WAKE written: it takes effect once FAULT has lasted 600 ms (R326). -/
def Dev.stkWake (d : Dev) : Dev :=
  if d.chainState = 4 then
    let d := { d with stk := { d.stk with wakeReq := true } }
    if d.stk.faultAt + 600000000 ≤ d.stcNs then d.chainRewake else d
  else d

/-- Wake tone sent and wake time elapsed. -/
def Dev.chainAwake (d : Dev) : Dev := if d.chainState = 1 then d.chainGo 2 else d

/-- Satellites found. -/
def Dev.nFound (d : Dev) : Nat := numAt d.stk.found 0 + numAt d.stk.found 1

/-- ARR of a satellite from an end. -/
def satArr (e s : Nat) : Fld := if e = 0 then R.STK_SATDLY.ARRA s else R.STK_SATDLY.ARRB s

/-- The end of enumeration (Table 16-3): RUN, another wake, or FAULT after the third. -/
def Dev.enumComplete (d : Dev) : Dev :=
  if d.chainState = 2 then
    let n := d.nFound
    let d := d.wr R.STK_CHSTAT.NFOUND n
    if n < d.stk.nsat then
      if 3 ≤ d.stk.wakes then
        let d := { d with stk := { d.stk with faultAt := d.stcNs } }
        d.chainGo 4
      else
        let d := d.forAll (List.range 32) (fun d s => d.wr (R.STK_SATSTAT.FOUND s) 0)
        let k := { d.stk with wakes := d.stk.wakes + 1, found := [0, 0], enumDone := [false, !d.stk.ring], out := [none, none] }
        { d with stk := { k with sats := k.sats.map (fun (x : SatRt) => ({ cc := x.cc } : SatRt)) } }
    else if (List.range d.stk.nsat).all (fun s => (d.satRt s).cfgd && decide (d.rd (satArr (d.endOf s) s) ≠ 0xFFFF)) then d.chainGo 3
    else d
  else d

/-! ## Frames (R320 to R323) -/

/-- A frame of Table 16-1. -/
def chainFrame (dst e lim cmd cc : Nat) (payload : List Byte) (crc : Bool) : List Byte :=
  let body := leBytes 1 (dst + 128 * e) ++ leBytes 1 lim ++ leBytes 1 (cmd + 16 * cc) ++ leBytes 1 payload.length ++ payload
  [0x55, 0xD5] ++ body ++ leBytes 2 (if crc then crc16 body else 0)

/-- The last frame of an end, as CHAIN_A or CHAIN_B carried it. -/
def Dev.chainPut (d : Dev) (e : Nat) (f : List Byte) : Dev := { d with stk := { d.stk with lastFrame := setAt d.stk.lastFrame e f } }

/-- An end may send: the chain is not closing, and no command awaits its response there. -/
def Dev.endFree (d : Dev) (e : Nat) : Bool :=
  d.domOn .f4 && !d.stk.closing && decide (d.rd R.STK_CTL.STATUS = 1) && (d.stk.out.getD e none).isNone

/-- A unicast command (R322): the counter advances for a new command and is kept when a missed one is sent again. -/
def Dev.chainSend (d : Dev) (e s code : Nat) (payload : List Byte) : Dev :=
  let x := d.satRt s
  let retry := x.missed && decide (x.last = some (code, payload))
  let cc := if retry then x.cc else (x.cc + 1) % 16
  let d := d.setSat s { x with cc := cc, last := some (code, payload), missed := false }
  let cc' := if x.ccOn then cc else 0
  let d := { d with stk := { d.stk with out := setAt d.stk.out e (some { sat := s, code := code, cc := cc', payload := payload }) } }
  d.chainPut e (chainFrame s e s code cc' payload x.crcOn)

/-- A broadcast from an end, to the farthest satellite it serves. -/
def Dev.chainCast (d : Dev) (e code : Nat) (payload : List Byte) : Dev :=
  let lim := if e = 0 then d.stk.split - 1 else min d.stk.split (d.stk.nsat - 1)
  d.chainPut e (chainFrame 0x3F e lim code 0 payload d.stk.crcEn)

/-- A broadcast from each serving end. -/
def Dev.chainCastAll (d : Dev) (code : Nat) (payload : List Byte) : Dev :=
  d.forAll [0, 1] (fun d e => if d.served e = [] then d else d.chainCast e code payload)

/-- ENUM from an end (R325): A hands out 0, 1 and so on; B then hands out NSAT − 1 downward. -/
def Dev.chainEnum (d : Dev) (e : Nat) : Dev :=
  if d.chainState = 2 ∧ d.endFree e = true ∧ d.stk.enumDone.getD e true = false ∧ d.nFound < d.stk.nsat ∧ (e = 0 ∨ d.stk.enumDone.getD 0 false = true) then
    let a := if e = 0 then numAt d.stk.found 0 else d.stk.nsat - 1 - numAt d.stk.found 1
    let d := { d with stk := { d.stk with out := setAt d.stk.out e (some { sat := a, code := 1, cc := 0, payload := leBytes 1 a }) } }
    d.chainPut e (chainFrame 0x3E e a 1 0 (leBytes 1 a) true)
  else d

/-- NOP to a satellite. -/
def Dev.chainNop (d : Dev) (s : Nat) : Dev :=
  let e := d.endOf s
  if (d.chainState = 2 ∨ d.chainState = 3) ∧ d.endFree e = true ∧ d.on (R.STK_SATSTAT.FOUND s) = true then d.chainSend e s 0 [] else d

/-- ECHO to a satellite from an end (R325). -/
def Dev.chainEcho (d : Dev) (e s : Nat) : Dev :=
  if d.chainState = 2 ∧ d.endFree e = true ∧ d.on (R.STK_SATSTAT.FOUND s) = true then d.chainSend e s 2 [] else d

/-- CFG to a satellite (R321, R325). -/
def Dev.chainCfg (d : Dev) (s : Nat) : Dev :=
  let e := d.endOf s
  if (d.chainState = 2 ∨ d.chainState = 3) ∧ d.endFree e = true ∧ d.on (R.STK_SATSTAT.FOUND s) = true then
    let flags := b2n d.stk.crcEn + 2 * b2n d.stk.ccEn + 4 * d.rd R.STK_SNAPCFG.PAUSE
    d.chainSend e s 3 (leBytes 2 (d.rd (R.STK_SATDLY.ARRA s)) ++ leBytes 2 (d.rd (R.STK_SATDLY.ARRB s)) ++ leBytes 1 flags)
  else d

/-! ## Snapshots (R328 to R330) -/

/-- PEREFF of R329 in ms. -/
def Dev.perEff (d : Dev) : Nat :=
  let n := max (d.served 0).length (d.served 1).length
  let tmin := 100 * d.rd R.STK_SNAPCFG.LEAD + 84 + 250 + (250 * n + n * (n - 1)) + 148 + 2 * (n - 1)
  max (d.rd R.STK_SNAPCFG.PERIOD) ((tmin + 999) / 1000)

/-- The first S of the tick grid at or after a step count (R97, R328). -/
def Dev.gridAt (d : Dev) (q : Nat) : Nat :=
  let t := max 1 d.act.timing.tick
  let ph := d.act.timing.phase
  if q ≤ ph then ph else ph + (q - ph + t - 1) / t * t

/-- A snapshot is left behind: cells of satellites without a valid READ lose VALID (R330). -/
def Dev.snapClose (d : Dev) : Dev :=
  if d.stk.snapOn then
    let missing := (List.range d.stk.nsat).filter (fun s => !d.stk.got.contains s)
    let cells := missing.flatMap (fun s => (List.range 18).map (fun j => 18 * s + j))
    let d := d.forAll cells (fun d c => { (d.wr (R.STK_CELLV.VALID c) 0) with stk := { d.stk with cells := setAt d.stk.cells c { d.stk.cells.getD c {} with run := 0 } } })
    let whole := d.stk.complete
    let k := { d.stk with snapOn := false, lastComplete := whole, prevIb := if whole then d.stk.pair.map (fun (p : Int × Int) => p.1) else none }
    { d with stk := { k with cells := k.cells.map (fun (c : CellRt) => { c with prev := if whole then c.cur else none, cur := none }) } }
  else d

/-- SNAP of the next snapshot (R328): the frame's last bit leaves at the latest bit boundary at or before target − LEAD. -/
def Dev.chainSnap (d : Dev) : Dev :=
  if d.chainState = 3 ∧ d.domOn .f4 = true ∧ d.stk.closing = false ∧ d.rd R.STK_CTL.STATUS = 1 then
    let d := d.snapClose
    let d := { d with stk := { d.stk with out := [none, none] } }
    let per := d.perEff
    let d := (d.wr R.STK_SNAPSTAT.PEREFF per).wrB R.STK_SNAPSTAT.PERLONG (decide (d.rd R.STK_SNAPCFG.PERIOD < per))
    let step := per * 400000
    let lead := 40000 * d.rd R.STK_SNAPCFG.LEAD
    let from' := max (d.tm.q + lead + 33600) (d.stk.target + 1)
    let m := (from' + step - 1) / step
    let target := d.gridAt (m * step)
    let sent := (target - lead) / 200 * 200
    let test := d.stk.owPhase = 1 ∧ d.stk.owAt + 2000000 ≤ 5 * sent / 2
    let d := (d.advanceTo sent).chainCastAll 4 (leBytes 8 (5 * target / 2) ++ leBytes 4 (5 * (target - sent) / 2) ++ leBytes 1 (m % 256))
    let k := { d.stk with snapOn := true, snapId := m % 256, target := target, got := [], complete := false, pair := none }
    { d with stk := { k with todo := [d.served 0, (d.served 1).reverse], owTest := test } }
  else d

/-- READ of the next satellite of an end, nearest first (R329). -/
def Dev.chainRead (d : Dev) (e : Nat) : Dev :=
  match d.stk.todo.getD e [] with
  | [] => d
  | s :: rest =>
    if d.chainState = 3 ∧ d.endFree e = true ∧ d.stk.snapOn = true ∧ (d.satRt s).cfgDue = false then
      let d := d.advanceTo (d.stk.target + 100000)
      ({ d with stk := { d.stk with todo := setAt d.stk.todo e rest } }).chainSend e s 5 (leBytes 1 d.stk.snapId)
    else d

/-- BAL to the next satellite of an end whose held duties differ from the applied ones (R334). -/
def Dev.chainBal (d : Dev) (e : Nat) : Dev :=
  match (d.served e).find? (fun s => decide ((d.satRt s).held ≠ d.balWant s)) with
  | none => d
  | some s => if d.chainState = 3 ∧ d.endFree e = true then d.chainSend e s 6 ((d.balWant s).map (fun v => BitVec.ofNat 8 v)) else d

/-- SLEEP from both ends when the chain goes to OFF (R325). -/
def Dev.chainSleep (d : Dev) : Dev :=
  if d.stk.sleepDue then
    let d := { d with stk := { d.stk with sleepDue := false } }
    (d.chainCast 0 8 []).chainCast 1 8 []
  else d

/-! ## Open-wire test (R333) -/

/-- A sweep starts. -/
def Dev.owStart (d : Dev) : Dev :=
  if d.chainState = 3 ∧ d.stk.owLine = none then
    let d := { d with stk := { d.stk with owLine := some 0, owPhase := 0, owPend := List.range d.stk.nsat, owTest := false } }
    d.wrAll [(R.STK_OWSTAT.RUNNING, 1), (R.STK_OWSTAT.LINE, 0)]
  else d

/-- OWT: on for the line under test, or off after its test snapshot; then the next line, the same line again for satellites not
compared, or the end of the sweep. -/
def Dev.chainOwt (d : Dev) : Dev :=
  match d.stk.owLine with
  | none => d
  | some k =>
    if d.chainState ≠ 3 ∨ d.stk.closing = true then d
    else match d.stk.owPhase with
    | 0 =>
      let d := d.chainCastAll 7 (leBytes 1 k)
      { d with stk := { d.stk with owPhase := 1, owAt := d.stcNs, owBase := d.stk.compV } }
    | 2 =>
      let d := d.chainCastAll 7 (leBytes 1 0xFF)
      let d := { d with stk := { d.stk with owPhase := 0, owTest := false } }
      if d.stk.owPend ≠ [] then d
      else if k = 18 then
        let d := { d with stk := { d.stk with owLine := none } }
        ((d.wrAll [(R.STK_OWSTAT.RUNNING, 0), (R.STK_OWSTAT.LINE, 0x1F)]).bump R.STK_OWSTAT.SWEEPS).raise 58 3 []
      else
        let d := { d with stk := { d.stk with owLine := some (k + 1), owPend := List.range d.stk.nsat } }
        d.wr R.STK_OWSTAT.LINE (k + 1)
    | _ => d

/-- Line `k` is open by the differences of a satellite's cells, `dv j` of cell j. -/
def lineOpen (thr : Int) (k : Nat) (dv : Nat → Int) : Bool :=
  if k = 0 then decide (dv 1 ≤ -thr)
  else if k = 18 then decide (dv 18 ≤ -thr)
  else decide (dv k ≤ -thr) && decide (thr ≤ dv (k + 1)) && decide (((dv k + dv (k + 1)).natAbs : Int) ≤ divz thr 4)

/-- A satellite's test reading compared (R333). -/
def Dev.owCompare (d : Dev) (s : Nat) : Dev :=
  match d.stk.owLine, d.stk.owBase with
  | some k, some base =>
    let dv := fun j => (((d.stk.cells.getD (18 * s + j - 1) {}).cur.map (·.1)).getD 0) - base.getD (18 * s + j - 1) 0
    let d := { d with stk := { d.stk with owPend := d.stk.owPend.filter (fun x => decide (x ≠ s)) } }
    if lineOpen (d.rd R.STK_OWCFG.OWTHR) k dv then
      ((d.wr (R.STK_SATOW.LINE s) (setBit (d.rd (R.STK_SATOW.LINE s)) k)).raise 58 2 [s, k]).bufCause 4
    else d
  | _, _ => d

/-! ## Readings (R331, R332) -/

/-- The corrected readings of R331 for one satellite. -/
def balCorrect (rbal rw : Int) (balon : Nat) (vs : List Int) : List Int :=
  let ib := fun (j : Nat) => if j = 0 ∨ 18 < j then 0 else if testBit balon (j - 1) then divz (vs.getD (j - 1) 0 * 100) rbal else 0
  (List.range 18).map (fun i => vs.getD i 0 + divz (rw * (2 * ib (i + 1) - ib i - ib (i + 2))) 100000)

/-- One cell's reading stored and checked against the limits. -/
def Dev.cellRead (d : Dev) (c : Nat) (v : Int) (corr owt : Bool) : Dev :=
  let x := d.stk.cells.getD c {}
  let bad := decide ((d.rd R.STK_CELLLIM.CELLOV : Int) < v) || decide (v < d.rd R.STK_CELLLIM.CELLUV)
  let run := if owt then x.run else if bad then x.run + 1 else 0
  let d := { d with stk := { d.stk with cells := setAt d.stk.cells c { x with run := run, cur := some (v, !corr && !owt) } } }
  let d := d.wrAll [(R.STK_CELLV.VALID c, 1), (R.STK_CELLV.BALCORR c, b2n corr), (R.STK_CELLV.OWT c, b2n owt), (R.STK_CELLV.V c, (clampInt v 0 65535).toNat)]
  if !owt && decide (run = d.rd R.STK_CHKCFG.LIMN) then (d.raise 58 0 [c]).bufCause 2 else d

/-- zest of a cell after a complete snapshot (R332). -/
def Dev.cellImpedance (d : Dev) (c : Nat) (di : Int) : Dev :=
  let x := d.stk.cells.getD c {}
  match x.cur, x.prev with
  | some (v1, true), some (v0, true) =>
    if (d.rd R.STK_IMPCFG.IMPMIN) ≤ di.natAbs ∧ di ≠ 0 then
      let z := divz ((v1 - v0) * 100000) di
      let a := d.rd R.STK_IMPCFG.ALPHA
      let z' := match x.zest with
        | none => z
        | some old => if a = 0 then z else old + rshRound (z - old) a
      let d := { d with stk := { d.stk with cells := setAt d.stk.cells c { x with zest := some z' } } }
      d.wrS (R.STK_CELLZ.Z c) (sat z' 32)
    else d
  | _, _ => d

/-- Every satellite has given a valid READ (R330 to R332). -/
def Dev.snapDone (d : Dev) : Dev :=
  let vs := d.stk.cells.map (fun (c : CellRt) => (c.cur.map (·.1)).getD 0)
  let d := { d with stk := { d.stk with complete := true, lastComplete := true, doneAt := some (5 * d.stk.target / 2), compV := some vs } }
  let d := d.wr R.STK_SNAPSTAT.ID d.stk.snapId
  match d.stk.pair with
  | none => d
  | some (ib, vst) =>
    let cells := List.range (18 * d.stk.nsat)
    let sumc := divz (sumInt (cells.map (fun c => ((d.stk.cells.getD c {}).cur.map (·.1)).getD 0))) 10
    let d := (d.wrS R.STK_SUM.MV sumc).wrS R.STK_VSTACK.MV vst
    let off := decide (d.rd R.STK_CHKCFG.SUMTOL < (sumc - vst).natAbs)
    let n := if off then d.stk.sumRun + 1 else 0
    let d := { d with stk := { d.stk with sumRun := n } }
    let d := if off && decide (n = d.rd R.STK_CHKCFG.SUMLIM) then (d.raise 58 1 []).bufCause 3 else d
    match d.stk.prevIb with
    | some ib0 => d.forAll cells (fun d c => d.cellImpedance c (ib - ib0))
    | none => d

/-- A valid READ response (R330, R331, R333, R334); `bs` is its payload. -/
def Dev.readDone (d : Dev) (s : Nat) (bs : List Byte) : Dev :=
  let vs := (List.range 18).map (fun j => (leAt bs (2 + 2 * j) 2 : Int))
  let balon := leAt bs 40 3
  let flags := leAt bs 43 1
  let corr := testBit flags 2 || (!d.on R.STK_SNAPCFG.PAUSE && decide (balon ≠ 0))
  let vs := if corr then balCorrect (max 1 (d.rd R.STK_BALMOD.RBAL)) (d.rd R.STK_BALMOD.RW) balon vs else vs
  let owt := d.stk.owTest
  let d := { d with stk := { d.stk with got := d.stk.got ++ [s] } }
  let d := d.forAll (List.range 18) (fun d j => d.cellRead (18 * s + j) (vs.getD j 0) corr owt)
  let d := (d.wrAll [(R.STK_SATTEMP.VALID s, 1), (R.STK_SATTEMP.TDIE s, leAt bs 38 2)]).balApply s
  let d := if owt && d.stk.owPend.contains s then d.owCompare s else d
  let d := if (List.range d.stk.nsat).all (fun x => d.stk.got.contains x) then d.snapDone else d
  if owt && d.stk.todo.all (fun (l : List Nat) => l.isEmpty) then { d with stk := { d.stk with owPhase := 2 } } else d

/-! ## Responses (R324, R327) -/

/-- SPLIT moves after a miss of satellite `s` on end `e` (R327). -/
def Dev.reroute (d : Dev) (e s : Nat) : Dev :=
  if d.stk.ring = true ∧ d.stk.moved = false ∧ d.chainState = 3 ∧ d.endOf s = e ∧ d.rd (satArr (1 - e) s) ≠ 0xFFFF then
    let old := d.stk.split
    let new := if e = 0 then s else s + 1
    let unread := fun x => !d.stk.got.contains x
    let mine := fun x => if e = 0 then decide (x < s) else decide (s < x)
    let extra := if e = 0 then ((List.range old).filter (fun x => decide (s ≤ x) && unread x)).reverse
      else (List.range new).filter (fun x => decide (old ≤ x) && unread x)
    let ta := (d.stk.todo.getD e []).filter mine
    let tb := d.stk.todo.getD (1 - e) [] ++ (if d.stk.snapOn then extra else [])
    let d := { d with stk := { d.stk with split := new, moved := true, todo := setAt (setAt d.stk.todo e ta) (1 - e) tb } }
    (d.splitShow.bump R.STK_CNT.REROUTE).raise 56 2 [new]
  else d

/-- A missed response of satellite `s` on end `e` (R324): reasons 0 none, 1 CRC, 2 address, 3 command, 4 CC, 5 LEN, 6 STATUS,
7 POR. -/
def Dev.chainMiss (d : Dev) (e s reason : Nat) : Dev :=
  let d := d.setSat s { d.satRt s with missed := true }
  let n := min 3 (d.rd (R.STK_SATSTAT.MISSRUN s) + 1)
  let d := ((d.wr (R.STK_SATSTAT.MISSRUN s) n).bump R.STK_CNT.MISS).raise 56 1 [s, reason]
  let d := d.reroute e s
  if d.chainState = 3 ∧ 3 ≤ n then
    let d := { d with stk := { d.stk with faultAt := d.stcNs } }
    d.chainGo 4
  else d

/-- The response of an end is settled: a chain that was closing goes to OFF. -/
def Dev.chainSettle (d : Dev) : Dev := if d.stk.closing && d.chainQuiet then d.chainOff else d

/-- The command of an end taken off. -/
def Dev.outTake (d : Dev) (e : Nat) : Dev := { d with stk := { d.stk with out := setAt d.stk.out e none } }

/-- No response in time on an end (R324); after an ENUM it ends the end's enumeration. -/
def Dev.chainMissed (d : Dev) (e : Nat) : Dev :=
  match d.stk.out.getD e none with
  | none => d
  | some c =>
    let d := d.outTake e
    (if c.code = 1 then { d with stk := { d.stk with enumDone := setAt d.stk.enumDone e true } } else d.chainMiss e c.sat 0).chainSettle

/-- Payload length of a good response (Table 16-2). -/
def respLen (code : Nat) : Nat := if code = 5 then 44 else 1

/-- What is wrong with a response, 0 when nothing is: reasons as in `chainMiss`, 8 when no frame begins. -/
def Dev.respFault (d : Dev) (e : Nat) (c : ChainCmd) (f : List Byte) : Nat :=
  let x := d.satRt c.sat
  let len := leAt f 5 1
  let body := slice f 2 (4 + len)
  let crcOn := c.code = 1 ∨ x.crcOn = true
  let ccOn := c.code ≠ 1 ∧ x.ccOn = true
  let inj := d.injected 6 c.sat
  if slice f 0 2 ≠ [0x55, 0xD5] ∨ f.length < 8 + len then 8
  else if (crcOn ∧ leAt f (6 + len) 2 ≠ crc16 body) ∨ inj.any (fun i => i.par = 0) = true then 1
  else if leAt f 2 1 ≠ c.sat + 128 * e then 2
  else if leAt f 4 1 % 16 ≠ c.code then 3
  else if (ccOn ∧ leAt f 4 1 / 16 ≠ c.cc) ∨ inj.any (fun i => i.par = 1) = true then 4
  else if leAt f 6 1 ≠ 0 then (if len = 1 then 6 else 5)
  else if len ≠ respLen c.code then 5
  else if c.code = 5 ∧ testBit (leAt f 49 1) 0 = true then 7
  else 0

/-- What a valid response does for its command. -/
def Dev.respDone (d : Dev) (e : Nat) (c : ChainCmd) (f : List Byte) (rtt : Nat) : Dev :=
  let s := c.sat
  let d := d.wr (R.STK_SATSTAT.MISSRUN s) 0
  match c.code with
  | 1 => { (d.wr (R.STK_SATSTAT.FOUND s) 1) with stk := { d.stk with found := addAt d.stk.found e 1 } }
  | 2 => d.wr (satArr e s) (min 0xFFFE ((rtt - 4000) / 2))
  | 3 => d.setSat s { d.satRt s with cfgd := true, cfgDue := false, crcOn := testBit (leAt c.payload 4 1) 0, ccOn := testBit (leAt c.payload 4 1) 1 }
  | 5 => if leAt f 7 1 = d.stk.snapId ∧ leAt c.payload 0 1 = d.stk.snapId then d.readDone s (slice f 6 44) else d
  | 6 => d.setSat s { d.satRt s with held := c.payload.map BitVec.toNat }
  | _ => d

/-- A response frame on an end; `rtt` is the time from the command's last bit to the response's first bit in ns. -/
def Dev.chainResponse (d : Dev) (e : Nat) (f : List Byte) (rtt : Nat) : Dev :=
  match d.stk.out.getD e none with
  | none => d
  | some c =>
    let why := d.respFault e c f
    let d := (d.outTake e).injUse 6 c.sat
    if why = 0 then (d.respDone e c f rtt).chainSettle
    else if why = 8 then ((if c.code = 1 then { d with stk := { d.stk with enumDone := setAt d.stk.enumDone e true } } else d.chainMiss e c.sat 0)).chainSettle
    else
      let d := if why = 1 then d.bump R.STK_CNT.CRC else if why = 4 then d.bump R.STK_CNT.CC else d
      let d := if why = 7 then d.setSat c.sat { d.satRt c.sat with cfgDue := true } else d
      (d.chainMiss e c.sat why).chainSettle

/-! ## Meanings -/

/-- A change while STK's domain F4 is on. -/
def Dev.onF4 (d : Dev) (f : Dev → Dev) : Dev := if d.domOn .f4 then f d else d

/-- STK_CTL_WAKE (R325). -/
def execStkCtlWake (s : State) : Host.Outcome State Fault Refusal := done s (·.onF4 Dev.stkWake)

/-- CHAIN_REWAKE (R325). -/
def execChainRewake (s : State) : Host.Outcome State Fault Refusal := done s (·.onF4 Dev.chainRewake)

/-- WAKE_COMPLETE (R325). -/
def execWakeComplete (s : State) : Host.Outcome State Fault Refusal := done s (·.onF4 Dev.chainAwake)

/-- ENUM_COMPLETE (R325). -/
def execEnumComplete (s : State) : Host.Outcome State Fault Refusal := done s (·.onF4 Dev.enumComplete)

/-- CHAIN_NOP (R323). -/
def execChainNop (sat : Fin 32) (s : State) : Host.Outcome State Fault Refusal := done s (·.onF4 (·.chainNop sat))

/-- CHAIN_ENUM (R325). -/
def execChainEnum (fromB : Bool) (s : State) : Host.Outcome State Fault Refusal := done s (·.onF4 (·.chainEnum (b2n fromB)))

/-- CHAIN_ECHO (R325). -/
def execChainEcho (fromB : Bool) (sat : Fin 32) (s : State) : Host.Outcome State Fault Refusal := done s (·.onF4 (·.chainEcho (b2n fromB) sat))

/-- CHAIN_CFG (R321). -/
def execChainCfg (sat : Fin 32) (s : State) : Host.Outcome State Fault Refusal := done s (·.onF4 (·.chainCfg sat))

/-- CHAIN_SNAP (R328). -/
def execChainSnap (s : State) : Host.Outcome State Fault Refusal := done s (·.onF4 Dev.chainSnap)

/-- CHAIN_READ (R329). -/
def execChainRead (fromB : Bool) (s : State) : Host.Outcome State Fault Refusal := done s (·.onF4 (·.chainRead (b2n fromB)))

/-- CHAIN_BAL (R334). -/
def execChainBal (fromB : Bool) (s : State) : Host.Outcome State Fault Refusal := done s (·.onF4 (·.chainBal (b2n fromB)))

/-- CHAIN_OWT (R333). -/
def execChainOwt (s : State) : Host.Outcome State Fault Refusal := done s (·.onF4 Dev.chainOwt)

/-- CHAIN_SLEEP (R325). -/
def execChainSleep (s : State) : Host.Outcome State Fault Refusal := done s (·.onF4 Dev.chainSleep)

/-- CHAIN_RESPONSE (R324). -/
def execChainResponse (fromB : Bool) (frame : List Byte) (rtt : Nat) (s : State) : Host.Outcome State Fault Refusal :=
  done s (·.onF4 (·.chainResponse (b2n fromB) frame rtt))

/-- CHAIN_RESPONSE_MISSED (R324). -/
def execChainResponseMissed (fromB : Bool) (s : State) : Host.Outcome State Fault Refusal := done s (·.onF4 (·.chainMissed (b2n fromB)))

/-- STK_OWCFG_START: the word written to STK_OWCFG with START = 1 (R333). -/
def execStkOwcfgStart (owper owthr : Nat) (s : State) : Host.Outcome State Fault Refusal :=
  done s (·.onF4 (fun d => (d.wrAll [(R.STK_OWCFG.OWPER, owper), (R.STK_OWCFG.OWTHR, owthr)]).owStart))

/-- OPEN_WIRE_PERIOD (R333). -/
def execOpenWirePeriod (s : State) : Host.Outcome State Fault Refusal :=
  done s (·.onF4 (fun d => if d.rd R.STK_OWCFG.OWPER = 0 then d else d.owStart))

/-- BUFFER_GO (R336). -/
def execBufferGo (s : State) : Host.Outcome State Fault Refusal := done s (·.onF4 Dev.bufGo)

/-- BUFFER_STOP (R336). -/
def execBufferStop (s : State) : Host.Outcome State Fault Refusal :=
  done s (·.onF4 (fun d => if d.rd R.STK_BUFSTAT.STATE = 1 then d.bufCause 5 else d))

/-- BUFFER_TQ_EXPIRY (R336). -/
def execBufferTqExpiry (s : State) : Host.Outcome State Fault Refusal :=
  done s (·.onF4 (fun d => if d.rd R.STK_BUFSTAT.STATE = 2 then d.bufHeld else d))

end Sys2Proof.Machine
end

