-- ==== Sys2Proof/Machine/Activate.lean ====
section
/-! DEFINITION. The active stream put into force: fields that sections load, REGINIT, presets, targets, activation at boot and the
swap (R78, R80, R81, R87, R90 to R94, R140, R152). -/

namespace Sys2Proof.Machine

/-! ## Fields loaded from sections -/

/-- F2 fields marked "stream" (chapters 6 to 8). -/
def Dev.loadF2 (d : Dev) : Dev :=
  let x := d.act
  let t := x.timing
  let d := d.wrAll [(R.CEN_TIMING.W_CYC, t.w), (R.CEN_TIMING.TMEAS_CYC, x.tmeas), (R.CEN_BUDGET.WORST, x.worst), (R.CEN_BUDGET.U, t.w - x.tmeas - 40),
    (R.CEN_DECL.BASE, t.base), (R.CEN_SRPERIOD.L, x.lcm)]
  let d := d.forAll (List.range 8) (fun d b =>
    let k := (x.blks.find? (fun k => k.blk == b)).getD {}
    d.wrAll [(R.LAW_BLK.LAW b, k.law), (R.LAW_BLK.NX b, k.nx), (R.LAW_BLK.NY b, k.ny), (R.LAW_BLK.NU b, k.nu), (R.LAW_MAN.TRACK b, b2n k.track)])
  let d := d.forAll (List.range 64) (fun d g =>
    let r := (x.gens.find? (fun r => r.gen == g)).getD {}
    (d.wr (R.LAW_SLEWRATE.RMAX g) r.rmax).wr (R.LAW_SLEWJERK.JMAX g) r.jmax)
  let d := d.forAll (List.range 16) (fun d i =>
    match x.sups.find? (fun r => r.sup == i) with
    | some r => d.wrAll [(R.LAW_FERRLIM.LIMIT i, r.limit), (R.LAW_FERRTMR.TIMER i, max 1 r.timer), (R.LAW_FERRSTAT.UNIT i, r.unit), (R.LAW_FERRSTAT.KIND i, r.kind)]
    | none => d.wrAll [(R.LAW_FERRLIM.LIMIT i, 0), (R.LAW_FERRTMR.TIMER i, 1), (R.LAW_FERRSTAT.UNIT i, 0), (R.LAW_FERRSTAT.KIND i, 0)])
  d.forAll (List.range 192) (fun d n => d.wr (R.DGR_DETTHR.THR n) ((x.dets.find? (fun r => r.det == n)).map (·.thr) |>.getD 0))

/-- F3 fields marked "stream" (LEGMAP, chapter 9); a leg that is used no more stands at its reset state. -/
def Dev.loadF3 (d : Dev) : Dev :=
  let x := d.act
  let d := d.forAll (List.range 80) (fun d n =>
    let g := n / 4
    let l := n % 4
    let was := d.legUsed n
    match x.legs.find? (fun r => r.leg == n) with
    | some r =>
      d.wrAll [(R.PWM_LEGCFG.USED g l, 1), (R.PWM_LEGCFG.CLASS g l, r.cls), (R.PWM_LEGCFG.AXIS g l, r.axis), (R.PWM_LEGCFG.POLICY g l, r.policy),
        (R.PWM_LEGCFG.BLK g l, r.blk), (R.PWM_DTR.DT g l, r.dtr), (R.PWM_DTF.DT g l, r.dtf), (R.PWM_TMIN.TMIN g l, r.tmin), (R.PWM_LOFS.LOFS g l, r.lofs)]
    | none =>
      let d := d.wrAll [(R.PWM_LEGCFG.USED g l, 0), (R.PWM_LEGCFG.CLASS g l, 0), (R.PWM_LEGCFG.AXIS g l, 0), (R.PWM_LEGCFG.POLICY g l, 0),
        (R.PWM_LEGCFG.BLK g l, 0xFF), (R.PWM_DTR.DT g l, 0), (R.PWM_DTF.DT g l, 0), (R.PWM_TMIN.TMIN g l, 0), (R.PWM_LOFS.LOFS g l, 0)]
      if was then (d.setLeg n {}).setLegState n 0 else d)
  d.forAll (List.range 20) (fun d g =>
    let d := match x.legs.find? (fun r => r.leg / 4 == g) with
      | some r => d.wrAll [(R.PWM_GRPCFG.USED g, 1), (R.PWM_GRPCFG.MODE g, r.mode), (R.PWM_PER.VALUE g, r.per), (R.PWM_GOFS.VALUE g, r.gofs)]
      | none => d.wrAll [(R.PWM_GRPCFG.USED g, 0), (R.PWM_GRPCFG.MODE g, 0), (R.PWM_PER.VALUE g, 0), (R.PWM_GOFS.VALUE g, 0)]
    d.grpShow g)

/-- F4 fields marked "stream" (MOD, chapter 10). -/
def Dev.loadF4 (d : Dev) : Dev :=
  let x := d.act
  let d := d.wr R.MOD_CLKSTAT.RUN (maskOf 8 (fun k => decide (0 < numAt x.timing.div k)))
  d.forAll (List.range 128) (fun d i =>
    match x.meas.find? (fun m => m.src == 0 && m.index == i) with
    | some m => (d.wr (R.MOD_INSTAT.USED i) 1).wr (R.MOD_INSTAT.CLK i) m.clk
    | none => (d.wr (R.MOD_INSTAT.USED i) 0).wr (R.MOD_INSTAT.CLK i) 0)

/-- One REGINIT record applied to its RWS fields (R81). -/
def Dev.regInitOne (d : Dev) (r : RegInit) : Dev :=
  match findReg r.addr with
  | some reg => d.forAll (reg.fields.filter (fun fd => decide (fd.acc = .rws))) (fun d fd =>
      d.wr (fd.at r.addr) (clampNat (initField [r] (fd.at r.addr) (d.rd (fd.at r.addr))) fd.low fd.high))
  | none => d

/-- The REGINIT records of the domains that `p` names, in record order (R81). -/
def Dev.regInit (d : Dev) (p : Dom → Bool) : Dev := d.forAll (d.act.regInits.filter (fun r => p (domOfAddr r.addr))) Dev.regInitOne

/-- The active stream's values for one domain that is on: sections first, then REGINIT (R81). -/
def Dev.streamDomain (d : Dev) (dom : Dom) : Dev :=
  if d.streamActive && d.domOn dom then
    (match dom with | .f2 => d.loadF2 | .f3 => d.loadF3 | .f4 => d.loadF4 | _ => d).regInit (fun p => decide (p = dom))
  else d

/-- The stream's values for every field domain: sections first, then REGINIT in record order over all of them. -/
def Dev.streamRegs (d : Dev) : Dev :=
  let d := d.when (d.domOn .f2) Dev.loadF2
  let d := d.when (d.domOn .f3) Dev.loadF3
  let d := d.when (d.domOn .f4) Dev.loadF4
  d.regInit d.domOn

/-- The words at some addresses as the stream sets them (R16). -/
def Dev.streamWords (d : Dev) (addrs : List Nat) : Dev :=
  let e := d.streamRegs
  d.forAll addrs (fun d a => match findReg a with
    | some reg => d.forAll reg.fields (fun d fd => d.wr (fd.at a) (e.rd (fd.at a)))
    | none => d)

/-- What the units show and hold once the registers changed (R182, R326, section 8.9, Table 7-12). -/
def Dev.streamSettle (d : Dev) : Dev :=
  let d := d.when (d.domOn .f2) (fun d => (d.supSync).forAll (List.range 8) (fun d b => (d.dgrShow b).wr (R.DGR_SHEDSTAT.COUNT b) (d.modsSwitching b)))
  let d := d.when (d.domOn .f2) (fun d => d.capShow.forAll d.act.dets (fun d r => d.detShow r.det))
  let d := d.when (d.domOn .f3) (fun d => d.legsHold.pwmStatShow)
  d.when (d.domOn .f4) Dev.stkConfigured

/-! ## Targets (R78, R94) -/

/-- The present value of a target: where its kind keeps it. -/
def Dev.targetValue (d : Dev) (t : Target) : Int :=
  match t.kind with
  | 0 => (d.gen t.dest).target
  | 1 => d.sig (0x1C0 + t.dest)
  | _ => ((d.ce.targets.find? (fun x => x.1 == t.number)).map (·.2)).getD t.dflt

/-- A target's value put where its kind keeps it; a generator held at target 0 ignores it (R150, R304, R336). -/
def Dev.targetPut (d : Dev) (t : Target) (v : Int) : Dev :=
  let keep := fun (xs : List (Nat × Int)) => (t.number, v) :: xs.filter (fun x => x.1 != t.number)
  match t.kind with
  | 0 => if d.genHeld t.dest then d else d.setGen t.dest { d.gen t.dest with target := v }
  | 1 => d.putSig (0x1C0 + t.dest) v
  | _ => { d with ce := { d.ce with targets := keep d.ce.targets } }

/-- A value brought to a target record's range, the clamp counted (R78). -/
def Dev.targetClamp (d : Dev) (t : Target) (v : Int) : Int × Dev :=
  let w := clampInt v t.min t.max
  if w = v then (w, d) else (w, (d.bump R.STS_TGTCLAMP.COUNT).wr R.STS_TGTCLAMP.LAST t.number)

/-- Targets of the incoming stream (R94): kept by number, clamped; DEFAULT where the outgoing stream lacks the number. `vals` are the
outgoing values. -/
def Dev.targetsLoad (d : Dev) (vals : List (Nat × Int)) : Dev :=
  let d := { d with ce := { d.ce with targets := [] } }
  d.forAll d.act.targets (fun d t =>
    match vals.find? (fun x => x.1 == t.number) with
    | some x => let q := d.targetClamp t x.2; q.2.targetPut t q.1
    | none => d.targetPut t t.dflt)

/-! ## Presets (R80, R140) -/

/-- A state of a block by its index (R80). -/
def Dev.stateOf (d : Dev) (x : StreamData) (b i : Nat) : Int :=
  match x.blks.find? (fun k => k.blk == b) with
  | some k =>
    if k.law = 2 then (let q := d.ce.bq.getD (k.xbase + i / 2) (0, 0); if i % 2 = 0 then q.1 else q.2)
    else d.sig (k.xbase + i)
  | none => 0

/-- A state of an incoming block written. -/
def Dev.stateSet (d : Dev) (b i : Nat) (v : Int) : Dev :=
  match d.act.blks.find? (fun k => k.blk == b) with
  | some k =>
    if k.law = 2 then
      let n := k.xbase + i / 2
      let q := d.ce.bq.getD n (0, 0)
      { d with ce := { d.ce with bq := setAt d.ce.bq n (if i % 2 = 0 then (v, q.2) else (q.1, v)) } }
    else d.putSig (k.xbase + i) v
  | none => d

/-- Values of the PRESET records of `new`, taken from the outgoing stream's states and signals (R80). -/
def Dev.presetValues (d : Dev) (new old : StreamData) : List (Nat × Nat × Int) :=
  new.presets.map (fun p => (p.dblk, p.didx,
    match p.op with
    | 0 => p.const
    | 2 => d.sig p.sidx
    | _ => d.stateOf old p.sblk p.sidx))

/-- Incoming states: 0, then the records' values; damaged section words are made good. -/
def Dev.statesSet (d : Dev) (vals : List (Nat × Nat × Int)) : Dev :=
  let d := d.forAll (List.range 160) (fun d i => d.putSig (0x200 + i) 0)
  let isSect := fun (w : CeWord) => match w with | .sect _ => true | _ => false
  let c := { d.ce with bq := List.replicate 512 (0, 0), bad := d.ce.bad.filter (fun w => !isSect w) }
  ({ d with ce := c }).forAll vals (fun d v => d.stateSet v.1 v.2.1 v.2.2)

/-- PRESET work at the latch of the swap tick (R91): the states, and transfer ticks of BUMPLESS blocks in AUTOMATIC (R140). -/
def Dev.presetWork (d : Dev) : Dev :=
  if d.ce.swapTick then
    let d := d.statesSet d.ce.presets
    let d := { d with ce := { d.ce with presets := [] } }
    d.forAll d.act.presets (fun d p =>
      if p.op = 3 ∧ d.ce.man.getD p.dblk false = false then { d with ce := { d.ce with xfer := setAt d.ce.xfer p.dblk true } } else d)
  else d

/-! ## Activation -/

/-- STS registers of the active stream. -/
def Dev.actShow (d : Dev) : Dev :=
  ((d.wr R.STS_ACTID.ID d.act.id).wr R.STS_ACTSVN.SVN d.act.svn).wrWords R.STS_ACTDIG.DIG (padTo d.act.digest 48)

/-- MAN of every block: by block number where the outgoing stream has the block, MANINIT otherwise (R135); a block that the incoming
stream lacks or gives no manual mode is not in MANUAL. -/
def Dev.manLoad (d : Dev) (old : StreamData) : Dev :=
  d.forAll (List.range 8) (fun d b =>
    let new := d.act.blks.find? (fun k => k.blk == b)
    let manual := match new with | some k => decide (k.manBase ≠ 0xFFFF) | none => false
    if manual && old.blks.any (fun k => k.blk == b) then d
    else
      let m := manual && ((new.map (·.manInit)).getD false)
      ({ d with ce := { d.ce with man := setAt d.ce.man b m, manReq := setAt d.ce.manReq b m } }).wrB (R.LAW_MAN.MAN b) m)

/-- The active variant of a block set by index; `pend` is the change that takes effect at the same S (R160). -/
def Dev.variantSet (d : Dev) (b idx : Nat) (pend : Option (Nat × Nat)) : Dev :=
  d.setDblk b { d.dblk b with active := idx, pend := pend, win := none, winWait := false, agree := 0, opened := 0, ticks := 0, queued := none }

/-- A stream made active at boot (R80, R87, R94, R118): bank 0, every signal and state 0, generators at INIT. -/
def Dev.activateBoot (d : Dev) (x : StreamData) : Dev :=
  let d := { d with st := { d.st with banks := setAt d.st.banks 0 x } }
  let d := ((d.wr R.STS_BANK.ACTV 1).wr R.STS_BANK.ACT 0).actShow
  let axes := d.ce.axes
  let d := { d with ce := { axes := axes, gateNext := (d.tm.q + 399999) / 400000 }, dgr := {} }
  let d := d.streamRegs
  let d := d.forAll x.gens (fun d r => ((d.setGen r.gen { rate := 0, target := r.init }).putSig (0x180 + r.gen) r.init).wrS (R.LAW_SLEWTGT.T r.gen) r.init)
  let d := (d.targetsLoad []).manLoad {}
  let d := d.forAll x.presets (fun d p => d.stateSet p.dblk p.didx p.const)
  let d := (d.tripRemap []).streamSettle
  d.metRecsFrom d.stcNs false

/-! ## Arm, cancel and swap -/

/-- SWAPSTAT with a code and event 5 KIND 1 (R90, R91). -/
def Dev.swapEnds (d : Dev) (st code : Nat) : Dev := ((d.wr R.STS_SWAPSTAT.STATE st).wr R.STS_SWAPSTAT.CODE code).raise 5 1 [code]

/-- The swap time STS_SWAPAT. -/
def Dev.swapAt (d : Dev) : Nat := d.rd R.STS_SWAPAT_LO.LO + 2 ^ 32 * d.rd R.STS_SWAPAT_HI.HI

/-- The standby stream. -/
def Dev.standby (d : Dev) : StreamData := d.st.banks.getD (1 - d.rd R.STS_BANK.ACT) {}

/-- Index of the incoming variant of a block: the outgoing key after any pending change, variant 0 without a counterpart (R93). -/
def Dev.swapIndex (d : Dev) (new : StreamData) (b : Nat) : Option Nat :=
  if d.act.blks.any (fun k => k.blk == b) then
    (new.vars.find? (fun v => v.blk == b && v.key == d.keyOf b (d.idxAfter b))).map (·.index)
  else some 0

/-- R92 and R93 hold. -/
def Dev.swapCompat (d : Dev) : Bool :=
  let new := d.standby
  let old := d.act
  (d.mode.readyOrLower || (decide (new.timingRaw = old.timingRaw) && decide (new.legmapRaw = old.legmapRaw) && decide (new.padfnRaw = old.padfnRaw))) &&
  new.blks.all (fun k => (d.swapIndex new k.blk).isSome)

/-- ARM (R90): refused in the order NOTVALID, ARMTIME, BUSY, SWAPCOMPAT. -/
def Dev.swapArm (d : Dev) : Dev :=
  let now := d.stcNs
  let at' := d.swapAt
  if d.rd R.STS_LOADSTAT.STATE ≠ 3 then d.swapEnds 4 0x12
  else if at' < now + 1000000 ∨ now + 60000000000 < at' then d.swapEnds 4 0x13
  else if d.mode.ceRuns = false ∨ d.streamActive = false then d.swapEnds 4 0x11
  else if d.swapCompat = false then d.swapEnds 4 0x14
  else (d.wr R.STS_SWAPSTAT.STATE 1).wr R.STS_SWAPSTAT.DEFER 0

/-- CANCEL of an armed swap. -/
def Dev.swapCancel (d : Dev) : Dev := if d.rd R.STS_SWAPSTAT.STATE = 1 then d.swapEnds 3 0x15 else d

/-- The roles exchange and the incoming stream's values come into force at S (R91, R94). -/
def Dev.swapNow (d : Dev) : Dev :=
  let new := d.standby
  let old := d.act
  let vals := old.targets.map (fun t => (t.number, d.targetValue t))
  let presets := d.presetValues new old
  let idx := (List.range 8).map (fun b => (d.swapIndex new b).getD 0)
  let pend := (List.range 8).map (fun b => if old.blks.any (fun k => k.blk == b) && new.blks.any (fun k => k.blk == b) then
    (d.dblk b).pend.map (fun p => (numAt idx b, p.2)) else none)
  let damaged := d.on R.CEN_STAT.DAMAGED
  let d := d.wr R.STS_BANK.ACT (1 - d.rd R.STS_BANK.ACT)
  let d := d.wrAll [(R.STS_LOADSTAT.STATE, if damaged then 0 else 3), (R.STS_STBID.ID, old.id), (R.CEN_STAT.DAMAGED, 0), (R.CEN_STAT.SWAPTICK, 1)]
  let isSig := fun (w : CeWord) => match w with | .signal _ => true | .sect _ => true | _ => false
  let d := { d with ce := { d.ce with presets := presets, swapTick := true, bad := d.ce.bad.filter isSig } }
  let d := d.actShow.streamRegs
  let d := d.forAll (List.range 8) (fun d b => d.variantSet b (numAt idx b) (pend.getD b none))
  let d := { d with dgr := { d.dgr with det := List.replicate 192 {} } }
  let d := d.forAll old.dets (fun d r => d.detShow r.det)
  let d := d.forAll (List.range 16) (fun d i =>
    let same := match new.sups.find? (fun r => r.sup == i), old.sups.find? (fun r => r.sup == i) with
      | some a, some b => a.kind == b.kind && a.unit == b.unit
      | _, _ => false
    if same then d else (d.wr (R.LAW_FERRSTAT.STATE i) 0).wr (R.LAW_FERRSTAT.COUNT i) 0)
  let d := (d.targetsLoad vals).manLoad old
  let d := (d.tripRemap old.trips).streamSettle
  d.metRecsFrom d.stcNs true

/-- At S, after the mode evaluation: an armed swap that is due is cancelled, deferred or made (R91, R93). -/
def Dev.swapAtS (d : Dev) (tripped : Bool) : Dev :=
  if d.rd R.STS_SWAPSTAT.STATE = 1 ∧ d.swapAt ≤ d.stcNs then
    if tripped then d.swapEnds 3 0x16
    else if d.dgr.blk.any (fun b => b.win.isSome) then d.bump R.STS_SWAPSTAT.DEFER
    else if d.swapCompat = false then d.swapEnds 3 0x14
    else d.swapNow
  else d

/-- The S after the swap tick: the PWM has loaded the first incoming actuations (Example 4-1). -/
def Dev.swapDone (d : Dev) : Dev :=
  if d.ce.swapTick then
    let s := 5 * d.pwm.lastS / 2
    let d := { d with ce := { d.ce with swapTick := false, presets := [] } }
    ((d.wr R.CEN_STAT.SWAPTICK 0).wr R.STS_SWAPSTAT.STATE 2).raise 5 0 [s % 2 ^ 32, s / 2 ^ 32]
  else d

/-- STS_SWAPCTL_ARM (R90). -/
def execStsSwapctlArm (s : State) : Host.Outcome State Fault Refusal := done s (fun d => if d.domOn .f1 then d.swapArm else d)

/-- STS_SWAPCTL_CANCEL (R90). -/
def execStsSwapctlCancel (s : State) : Host.Outcome State Fault Refusal := done s (fun d => if d.domOn .f1 then d.swapCancel else d)

end Sys2Proof.Machine
end

