-- ==== Sys2Proof/Machine/Stream.lean ====
section
/-! DEFINITION. The loader: image transfers, validation, recovery and persisting (R55, R82, R86 to R89, R377). -/

namespace Sys2Proof.Machine

/-- Offset of staging in field memory (Table 4-1). -/
def stagingBase : Nat := 0x1200000

/-- IMG_STAT sent on queue 3 (Table 3-5): OP 4 DONE. -/
def Dev.imgStat (d : Dev) (xfer status : Nat) : Dev :=
  d.sendF 3 { ty := 0x62, payload := leBytes 2 xfer ++ leBytes 1 4 ++ leBytes 1 status ++ leBytes 4 0 }

/-- STS_LOADSTAT.STATE (Table 4-13). -/
def Dev.loadState (d : Dev) : Nat := d.rd R.STS_LOADSTAT.STATE

/-- A loader code and SECT with FSYS event 4 KIND 1. -/
def Dev.loadCode (d : Dev) (code sect : Nat) : Dev := ((d.wr R.STS_LOADSTAT.CODE code).wr R.STS_LOADSTAT.SECT sect).raise 4 1 [code, sect]

/-- The load refused (R82, R86). -/
def Dev.loadRefuse (d : Dev) (code sect : Nat) : Dev := (d.wr R.STS_LOADSTAT.STATE 4).loadCode code sect

/-- A transfer ended as an ABORT (R86). -/
def Dev.imgAbort (d : Dev) : Dev :=
  match d.st.rx with
  | some x => (({ d with st := { d.st with rx := none, rxMem := [] } }.wr R.STS_LOADSTAT.STATE 0).raise 4 2 [x.xfer]).imgStat x.xfer 1
  | none => d

/-- The NOR slot that a load in RECOVERY writes: the one with the lower generation, slot 0 when neither is marked (R88); an unmarked
slot counts below a marked one. -/
def Dev.recSlot (d : Dev) : Nat :=
  let a := d.st.slots.getD 0 {}
  let b := d.st.slots.getD 1 {}
  if a.marked && (!b.marked || decide (b.gen < a.gen)) then 1 else 0

/-- IMG_CTRL BEGIN (R86, R377). -/
def Dev.imgBegin (d : Dev) (xfer len : Nat) : Dev :=
  let d := d.takeCell .field 0x61
  let rec' := decide (d.mode = .recovery)
  if d.loadState = 2 ∨ d.rd R.STS_SWAPSTAT.STATE = 1 ∨ (d.domOn .f2 = false ∧ rec' = false) then (d.loadCode 0x11 0xFF).imgStat xfer 1
  else if d.on R.FSEC_CFG.BULKENC ∧ (d.on R.FSEC_STATE.PAIRED = false ∨ d.fsec.usedXfer.contains xfer = true) then d.imgStat xfer 1
  else
    let d := d.imgAbort
    let fd := { d.fl.h2f with damaged := setAt d.fl.h2f.damaged 0 false }
    let d := { d with fl := { d.fl with h2f := fd }, st := { d.st with rx := some { xfer := xfer, len := len, slot := if rec' then some d.recSlot else none }, rxMem := [] } }
    let d := if d.on R.FSEC_CFG.BULKENC then { d with fsec := { d.fsec with usedXfer := xfer :: d.fsec.usedXfer } } else d
    d.wr R.STS_LOADSTAT.STATE 1

/-- A NOR slot changed. -/
def Dev.setNor (d : Dev) (i : Nat) (x : NorSlot) : Dev := { d with st := { d.st with slots := setAt d.st.slots i x } }

/-- Bytes of the transfer in progress from an offset. -/
def Dev.imgBytes (d : Dev) (x : ImgXfer) (off n : Nat) : List Byte :=
  if x.slot.isSome then Mem.readBytes d.st.rxMem off n else Mem.readBytes d.fmem (stagingBase + off) n

/-- IMG_DATA (R86): to staging, or in RECOVERY to the NOR slot, whose mark no longer holds (R88, R89). -/
def Dev.imgData (d : Dev) (xfer off : Nat) (bs : List Byte) : Dev :=
  let d := d.takeCell .field 0x60
  match d.st.rx with
  | none => d
  | some x =>
    if x.xfer ≠ xfer then d
    else if x.len < off + bs.length then d.imgAbort
    else match x.slot with
      | none => if stagingBase + off + bs.length ≤ 0x1400000 then { d with fmem := Mem.writeBytes d.fmem (stagingBase + off) bs } else d
      | some k =>
        let d := { d with st := { d.st with rxMem := Mem.writeBytes d.st.rxMem off bs } }
        if leNat (d.imgBytes x 0 4) = 0x5254535A then d.setNor k { d.st.slots.getD k {} with marked := false } else d

/-- The plaintext of a transfer: decrypted under K_B while BULKENC is 1 (R377); none where the tag fails. -/
def Dev.imgPlain (d : Dev) (x : ImgXfer) (bs : List Byte) : Option (List Byte) :=
  if d.on R.FSEC_CFG.BULKENC then
    let n := bs.length - 16
    Config.gcmOpen d.fsec.kb (leBytes 2 x.xfer ++ List.replicate 10 0) (bs.take n) (bs.drop n)
  else some bs

/-- A complete, checked image handed to its owner by its MAGIC (R86, R281, R373): tokens to FSEC, legally relevant software to
the metrology processor, whose check LR_IMAGE_STAGED reports; anything else is validated as a stream. -/
def Dev.imgDispatch (d : Dev) (x : ImgXfer) (bs : List Byte) : Dev :=
  let magic := leAt bs 0 4
  if magic = 0x4B54535A ∨ magic = 0x4A4E495A then ((d.wr R.STS_LOADSTAT.STATE 0).anyToken .field bs).1
  else if magic = 0x524C4D5A then d.wr R.STS_LOADSTAT.STATE 0
  else
    let st := { d.st with image := bs, imageSlot := x.slot }
    let d := { d with st := st }.wr R.STS_LOADSTAT.STATE 2
    match x.slot with
    | some k => d.setNor k { d.st.slots.getD k {} with img := bs, marked := false }
    | none => { d with fmem := Mem.writeBytes d.fmem stagingBase bs }

/-- IMG_CTRL END (R55, R86, R377): a gap before the digest. -/
def Dev.imgEnd (d : Dev) (xfer : Nat) (digest : List Byte) : Dev :=
  let d := d.takeCell .field 0x61
  match d.st.rx with
  | none => d
  | some x =>
    if x.xfer ≠ xfer then d
    else
      let bs := d.imgBytes x 0 x.len
      let gap := d.fl.h2f.damaged.getD 0 false
      let d := { d with st := { d.st with rx := none, rxMem := [] } }
      if gap then (d.imgStat xfer 2).loadRefuse 0x10 0xFF
      else if Config.sha384 bs ≠ digest then (d.imgStat xfer 3).loadRefuse 0x10 0xFF
      else match d.imgPlain x bs with
        | none => (d.imgStat xfer 3).loadRefuse 0x10 0xFF
        | some p => (d.imgStat xfer 0).imgDispatch x p

/-- IMG_CTRL ABORT (R86). -/
def Dev.imgCancel (d : Dev) (xfer : Nat) : Dev :=
  let d := d.takeCell .field 0x61
  match d.st.rx with
  | some x => if x.xfer = xfer then d.imgAbort else d
  | none => d

/-- Validation and expansion end (R82, R84); an uncorrectable word that the loader reads ends the load with DIGEST (R125). -/
def Dev.validated (d : Dev) (damaged : Bool) : Dev :=
  if d.loadState ≠ 2 then d
  else
    let img := d.st.image
    let slot := d.st.imageSlot
    let d := { d with st := { d.st with image := [], imageSlot := none } }
    if damaged then ((d.bump R.CEN_ECC.UNCORR).raise 18 2 []).loadRefuse 0x10 0xFF
    else match d.loadBad img with
      | some c => d.loadRefuse c.1 c.2
      | none =>
        let x := decodeStream img
        let d := d.wrAll [(R.STS_LOADSTAT.STATE, 3), (R.STS_LOADSTAT.CODE, 0), (R.STS_LOADSTAT.SECT, 0xFF), (R.STS_STBID.ID, x.id)]
        let d := match slot with
          | some k => d.setNor k { d.st.slots.getD k {} with marked := true, gen := (d.st.slots.getD (1 - k) {}).gen + 1 }
          | none => { d with st := { d.st with banks := setAt d.st.banks (if d.streamActive then 1 - d.rd R.STS_BANK.ACT else 0) x } }
        d.raise 4 0 [x.id]

/-! ## Persisting (R89) -/

/-- A persist that fails. -/
def Dev.persistFail (d : Dev) (code : Nat) : Dev :=
  (({ d with st := { d.st with persist := none } }.wr R.STS_PERSIST.STATE 3).wr R.STS_PERSIST.CODE code).raise 5 3 [code]

/-- The image that staging holds, by the length of its header. -/
def Dev.stagedImage (d : Dev) : List Byte := Mem.readBytes d.fmem stagingBase (min 1572864 (Mem.readNat d.fmem (stagingBase + 8) 4))

/-- The slot other than BOOTSLOT. -/
def Dev.otherSlot (d : Dev) : Nat := 1 - d.rd R.STS_BANK.BOOTSLOT

/-- 0x50E5 written to STS_PERSIST.KEY: the staging check, then the other slot is written, unmarked until step 4. A request while a
persist is in progress changes nothing. -/
def Dev.persistStart (d : Dev) (value : Nat) : Dev :=
  if bits value 31 16 ≠ 0x50E5 ∨ d.rd R.STS_PERSIST.STATE = 1 then d
  else
    let img := d.stagedImage
    if d.streamActive = false ∨ Config.sha384 img ≠ d.act.digest then d.persistFail 0x11
    else
      let d := { d with st := { d.st with persist := some img } }.wr R.STS_PERSIST.STATE 1
      d.setNor d.otherSlot { d.st.slots.getD d.otherSlot {} with img := img, marked := false }

/-- The persist ends: steps 3 to 5 of R89. -/
def Dev.persistDone (d : Dev) (readBack : Bool) : Dev :=
  match d.st.persist with
  | none => d
  | some img =>
    if readBack = false then d.persistFail 0x10
    else
      let k := d.otherSlot
      let gen := (d.st.slots.getD (1 - k) {}).gen + 1
      let svn := max d.st.minSvn (leAt img 20 4)
      let d := d.setNor k { img := img, marked := true, gen := gen }
      let d := { d with st := { d.st with persist := none, minSvn := svn } }
      (d.wrAll [(R.STS_PERSIST.STATE, 2), (R.STS_BANK.BOOTSLOT, k), (R.STS_BOOTGEN.GEN, gen), (R.STS_MINSVN.SVN, svn)]).raise 5 2 [k, gen]

/-- An FMP restart ends a persist before its step 4 (R89). -/
def Dev.persistCancel (d : Dev) : Dev := if d.st.persist.isSome then d.persistFail 0x15 else d

/-! ## Boot (R71, R87) -/

/-- NOR slots whose mark is valid, the higher generation first. -/
def Dev.bootOrder (d : Dev) : List Nat :=
  let a := d.st.slots.getD 0 {}
  let b := d.st.slots.getD 1 {}
  ((if a.marked && (!b.marked || decide (b.gen ≤ a.gen)) then [0, 1] else [1, 0])).filter (fun k => (d.st.slots.getD k {}).marked)

/-- The boot stream read into staging, validated and made active, or the other slot's (R87); a slot that fails is reported (R82). The Bool says that one passed. -/
def Dev.bootStream (d : Dev) : Dev × Bool :=
  let refused := d.bootOrder.takeWhile (fun k => (d.loadBad (d.st.slots.getD k {}).img).isSome)
  let d := d.forAll refused (fun d k => match d.loadBad (d.st.slots.getD k {}).img with
    | some c => d.loadCode c.1 c.2
    | none => d)
  match d.bootOrder.find? (fun k => !refused.contains k) with
  | none => (d, false)
  | some k =>
    let s := d.st.slots.getD k {}
    let fallback := decide (d.bootOrder.head? ≠ some k)
    let d := { d with fmem := Mem.writeBytes d.fmem stagingBase s.img }
    let d := (d.wr R.STS_BANK.BOOTSLOT k).wr R.STS_BOOTGEN.GEN s.gen
    let d := d.activateBoot (decodeStream s.img)
    (d.raise 4 3 [k, s.gen, b2n fallback], true)

/-! ## Meanings -/

/-- IMG_CTRL_BEGIN (R86). -/
def execImgCtrlBegin (xfer length : Nat) (s : State) : Host.Outcome State Fault Refusal :=
  done s (fun d => if d.domOn .f1 then d.imgBegin (xfer % 2 ^ 16) (length % 2 ^ 32) else d)

/-- IMG_DATA (R86). -/
def execImgData (xfer offset : Nat) (bytes : List Byte) (s : State) : Host.Outcome State Fault Refusal :=
  done s (fun d => if d.domOn .f1 then d.imgData (xfer % 2 ^ 16) (offset % 2 ^ 32) bytes else d)

/-- IMG_CTRL_END (R86). -/
def execImgCtrlEnd (xfer : Nat) (digest : List Byte) (s : State) : Host.Outcome State Fault Refusal :=
  done s (fun d => if d.domOn .f1 then d.imgEnd (xfer % 2 ^ 16) digest else d)

/-- IMG_CTRL_ABORT (R86). -/
def execImgCtrlAbort (xfer : Nat) (s : State) : Host.Outcome State Fault Refusal :=
  done s (fun d => if d.domOn .f1 then d.imgCancel (xfer % 2 ^ 16) else d)

/-- STREAM_VALIDATION_COMPLETE (R82). -/
def execStreamValidationComplete (damaged : Bool) (s : State) : Host.Outcome State Fault Refusal :=
  done s (fun d => if d.domOn .f1 then d.validated damaged else d)

/-- STS_PERSIST: the word written (R89). -/
def execStsPersist (value : Nat) (s : State) : Host.Outcome State Fault Refusal := done s (fun d => if d.domOn .f1 then d.persistStart value else d)

/-- PERSIST_COMPLETE (R89). -/
def execPersistComplete (readBack : Bool) (s : State) : Host.Outcome State Fault Refusal :=
  done s (fun d => if d.domOn .f1 then d.persistDone readBack else d)

end Sys2Proof.Machine
end

