-- ==== Sys2Proof/Machine/Vehicle.lean ====
section
/-! DEFINITION. Vehicle ports: 10BASE-T1S, control pilot and proximity (section 15.3). -/

namespace Sys2Proof.Machine

def Dev.vehRt (d : Dev) (n : Nat) : VehRt := d.veh.getD n {}

def Dev.setVeh (d : Dev) (n : Nat) (x : VehRt) : Dev := { d with veh := setAt d.veh n x }

/-- A received 10BASE-T1S frame with its collisions (R309). -/
def Dev.t1sFrame (d : Dev) (n : Nat) (frame : List Byte) (fcsOk : Bool) (collisions : Nat) : Dev :=
  if d.rd (R.VEH_T1SSTAT.STATUS n) = 0 then d
  else
    let d := d.bumpBy (R.VEH_T1SCNT.COLL n) collisions
    if fcsOk then d.ringFrame (8 + 2 * n) frame n else d.bump (R.VEH_T1SCNT.RXERR n)

/-- The PLCA status or jabber changed (R309). -/
def Dev.plcaChange (d : Dev) (n : Nat) (ok jabber : Bool) : Dev :=
  let wasOk := d.on (R.VEH_T1SSTAT.PLCA n)
  let wasJab := d.on (R.VEH_T1SSTAT.JABBER n)
  let d := (d.wrB (R.VEH_T1SSTAT.PLCA n) ok).wrB (R.VEH_T1SSTAT.JABBER n) jabber
  let d := if wasOk = ok then d else d.raiseH 102 0 [n, b2n ok]
  if jabber && !wasJab then d.raiseH 102 1 [n] else d

/-- VEH_T1SCFG.EN written (R309, R40). -/
def Dev.t1sEnable (d : Dev) (n : Nat) (en : Bool) : Dev :=
  let d := d.wrB (R.VEH_T1SCFG.EN n) en
  if en then (if d.rd (R.VEH_T1SSTAT.STATUS n) = 0 then d.wr (R.VEH_T1SSTAT.STATUS n) 1 else d)
  else if d.rd (R.VEH_T1SSTAT.STATUS n) = 1 then d.wr (R.VEH_T1SSTAT.STATUS n) 2 else d

/-- The pilot state of a HIGH level in mV (Table 15-4). -/
def pilotState : Option Int → Nat
  | none => 6
  | some v =>
    if 11000 ≤ v ∧ v ≤ 13000 then 0 else if 8000 ≤ v ∧ v ≤ 10000 then 1 else if 5000 ≤ v ∧ v ≤ 7000 then 2
    else if 2000 ≤ v ∧ v ≤ 4000 then 3 else if -1000 ≤ v ∧ v ≤ 1000 then 4 else if -13000 ≤ v ∧ v ≤ -11000 then 5 else 6

/-- VEH_CPSTAT as a word. -/
def Dev.cpstat (d : Dev) (n : Nat) : Nat :=
  d.rd (R.VEH_CPSTAT.STATE n) + 8 * d.rd (R.VEH_CPSTAT.DIODE n) + 2 ^ 16 * d.rd (R.VEH_CPSTAT.DUTYM n)

/-- The hardware quench of R312. -/
def Dev.pilotQuench (d : Dev) (n : Nat) : Dev :=
  (d.sendH 0 { ty := 0x04, payload := leBytes 1 (2 ^ n) ++ leBytes 1 0 ++ leBytes 2 (0xFF00 + n) ++ leBytes 4 (d.cpstat n) }).raiseH 103 0 [n, d.cpstat n]

/-- A pilot state is taken (R311, R312). Bit 7 of AUTOQ belongs to DIODE, so OFF sends no quench (log entry 158). -/
def Dev.pilotTake (d : Dev) (n st : Nat) : Dev :=
  let old := d.rd (R.VEH_CPSTAT.STATE n)
  if old = st then d
  else
    let d := (d.wr (R.VEH_CPSTAT.STATE n) st).raiseH 100 0 [n, old, st]
    if d.on (R.VEH_CPCFG.ARM n) && decide (st < 7) && testBit (d.rd (R.VEH_CPCFG.AUTOQ n)) st then d.pilotQuench n else d

/-- DIODE from the LOW level (R311); once set it stands until the measurer is switched off (log entry 54). -/
def Dev.pilotDiode (d : Dev) (n : Nat) (low : Option Int) : Dev :=
  let x := d.vehRt n
  let bad := decide (0 < x.duty) && decide (x.duty < 1000) && (match low with | some v => decide (-11000 < v) | none => false)
  let run := if bad then x.diodeRun + 1 else 0
  let d := d.setVeh n { x with diodeRun := run }
  if 3 ≤ run ∧ d.on (R.VEH_CPSTAT.DIODE n) = false then
    let d := d.wr (R.VEH_CPSTAT.DIODE n) 1
    if d.on (R.VEH_CPCFG.ARM n) && testBit (d.rd (R.VEH_CPCFG.AUTOQ n)) 7 then d.pilotQuench n else d
  else d

/-- A plateau level as VEH_CPMEAS shows it. -/
def plateau : Option Int → Nat
  | none => 0x8000
  | some v => unsigned (sat v 16) 16

/-- The end of a pilot period (R310, R311); injection point 35 gives the state (Table 21-1). -/
def Dev.pilotPeriod (d : Dev) (n : Nat) (high low : Option Int) (dutyM : Nat) : Dev :=
  if d.on (R.VEH_CPCFG.EN n) then
    let d := d.wrAll [(R.VEH_CPMEAS.HIGH n, plateau high), (R.VEH_CPMEAS.LOW n, plateau low), (R.VEH_CPSTAT.DUTYM n, min dutyM 1000)]
    let st := match d.injected 35 n with | some i => i.par % 8 | none => pilotState high
    let d := d.injUse 35 n
    let x := d.vehRt n
    let run := if x.cand = st then x.candRun + 1 else 1
    let d := d.setVeh n { x with cand := st, candRun := run }
    let d := d.pilotDiode n low
    let d := if 3 ≤ run then d.pilotTake n st else d
    d.setVeh n { d.vehRt n with duty := d.rd (R.VEH_CPDUTY.DUTY n) }
  else d.setVeh n { d.vehRt n with duty := d.rd (R.VEH_CPDUTY.DUTY n) }

/-- VEH_CPCFG.EN changed: OFF while it is 0 (Table 15-4). -/
def Dev.pilotEnable (d : Dev) (n : Nat) (en : Bool) : Dev :=
  if en then d.setVeh n { d.vehRt n with cand := 7, candRun := 0, diodeRun := 0 }
  else
    let d := d.wrAll [(R.VEH_CPMEAS.HIGH n, 0x8000), (R.VEH_CPMEAS.LOW n, 0x8000), (R.VEH_CPSTAT.DUTYM n, 0), (R.VEH_CPSTAT.DIODE n, 0)]
    d.pilotTake n 7

/-- One proximity reading in Ω (R313). -/
def Dev.proximity (d : Dev) (n res : Nat) : Dev :=
  let v := if 10000 < res then 0xFFFF else res
  let x := d.vehRt n
  let changed := decide (5 * x.ppRef < 100 * ((v : Int) - x.ppRef).natAbs)
  let run := if changed then x.ppRun + 1 else 0
  let d := d.wr (R.VEH_PP.RES n) v
  if 3 ≤ run then (d.setVeh n { x with ppRun := 0, ppRef := v }).raiseH 101 0 [n, v] else d.setVeh n { x with ppRun := run }

/-! ## Meanings -/

/-- T1S_FRAME (R309). -/
def execT1sFrame (port : Fin 4) (frame : List Byte) (fcsOk : Bool) (collisions : Nat) (s : State) : Host.Outcome State Fault Refusal :=
  done s (fun d => if d.domOn .h3 then d.t1sFrame port frame fcsOk collisions else d)

/-- PLCA_STATUS_CHANGE (R309). -/
def execPlcaStatusChange (port : Fin 4) (ok jabber : Bool) (s : State) : Host.Outcome State Fault Refusal :=
  done s (fun d => if d.domOn .h3 then d.plcaChange port ok jabber else d)

/-- CONTROL_PILOT_PERIOD: the plateau means in mV, none for a plateau with no samples, and the measured duty in 0.1 % (R311). -/
def execControlPilotPeriod (port : Fin 4) (high low : Option Int) (dutyM : Nat) (s : State) : Host.Outcome State Fault Refusal :=
  done s (fun d => if d.domOn .h3 then d.pilotPeriod port high low dutyM else d)

/-- PROXIMITY_READING (R313). -/
def execProximityReading (port : Fin 4) (res : Nat) (s : State) : Host.Outcome State Fault Refusal :=
  done s (fun d => if d.domOn .h3 then d.proximity port res else d)

end Sys2Proof.Machine
end

