-- ==== Sys2Proof/Machine/Thermal.lean ====
section
/-! DEFINITION. Die temperature (chapter 20): sensors, conditions, thresholds, the field shutdown record and the host shutdown. -/

namespace Sys2Proof.Machine

/-- The registers of a die's supervisor. -/
structure ThermRegs where
  shutdown : Fld
  throttle : Fld
  warn : Fld
  hshut : Fld
  hthr : Fld
  hwarn : Fld
  hot : Fld
  orderr : Fld
  sensflt : Fld
  shutnow : Fld
  thrOn : Fld
  warnOn : Fld
  peakSensor : Fld
  peak : Fld
  fault : Nat → Fld
  temp : Nat → Fld

/-- FTHM and HTHM. -/
def thermRegs : Side → ThermRegs
  | .field => ⟨R.FTHM_THR.SHUTDOWN, R.FTHM_THR.THROTTLE, R.FTHM_THR.WARN, R.FTHM_HYST.HSHUT, R.FTHM_HYST.HTHR, R.FTHM_HYST.HWARN, R.FTHM_STAT.HOT,
      R.FTHM_STAT.ORDERR, R.FTHM_STAT.SENSFLT, R.FTHM_STAT.SHUTNOW, R.FTHM_STAT.THROTTLE, R.FTHM_STAT.WARN, R.FTHM_PEAK.SENSOR, R.FTHM_PEAK.PEAK,
      R.FTHM_TEMP.FAULT, R.FTHM_TEMP.T⟩
  | .host => ⟨R.HTHM_THR.SHUTDOWN, R.HTHM_THR.THROTTLE, R.HTHM_THR.WARN, R.HTHM_HYST.HSHUT, R.HTHM_HYST.HTHR, R.HTHM_HYST.HWARN, R.HTHM_STAT.HOT,
      R.HTHM_STAT.ORDERR, R.HTHM_STAT.SENSFLT, R.HTHM_STAT.SHUTNOW, R.HTHM_STAT.THROTTLE, R.HTHM_STAT.WARN, R.HTHM_PEAK.SENSOR, R.HTHM_PEAK.PEAK,
      R.HTHM_TEMP.FAULT, R.HTHM_TEMP.T⟩

/-- Sensors of a die (R386). -/
def sensorsOf : Side → Nat
  | .field => 12
  | .host => 8

/-- Sensors in FAULT that hold WARN and THROTTLE set (R387). -/
def faultLimit : Side → Nat
  | .field => 3
  | .host => 2

/-- The injection point of the die's temperature (Table 21-1). -/
def thermPoint : Side → Nat
  | .field => 9
  | .host => 34

/-- Good readings in a row of a sensor. -/
def Dev.thermGood (d : Dev) (side : Side) (i : Nat) : Nat := numAt (match side with | .field => d.th.goodF | .host => d.th.goodH) i

def Dev.setGood (d : Dev) (side : Side) (i n : Nat) : Dev :=
  match side with
  | .field => { d with th := { d.th with goodF := setAt d.th.goodF i n } }
  | .host => { d with th := { d.th with goodH := setAt d.th.goodH i n } }

/-- A conversion outside −60 °C to 160 °C (R386). -/
def convBad (v : Int) : Bool := decide (v < -600) || decide (1600 < v)

/-- One sensor's reading (R386): the mean of its conversions, whose rounding the spec leaves open, plus an injected offset. -/
def Dev.sensorRead (d : Dev) (side : Side) (i : Nat) (conv : List Int) (failed : Bool) : Dev :=
  let r := thermRegs side
  let n := max 1 conv.length
  let q := d.drawFree 2
  let sum := sumInt conv
  let mean := sum / (n : Int) + (if sum % (n : Int) = 0 then 0 else (q.1 : Int))
  let d := if sum % (n : Int) = 0 then d else q.2
  let off := match d.injected (thermPoint side) i with | some x => signed (bits x.par 15 0) 16 | none => 0
  let d := d.wrS (r.temp i) (sat (mean + off) 16)
  if failed || conv.any convBad then
    let d := d.setGood side i 0
    if d.on (r.fault i) then d else (d.wr (r.fault i) 1).raiseOn side 62 119 6 [i]
  else
    let g := d.thermGood side i + 1
    let d := d.setGood side i g
    if d.on (r.fault i) && decide (16 ≤ g) then d.wr (r.fault i) 0 else d

/-- The hottest sensor that is not in FAULT, with its reading. -/
def Dev.hottest (d : Dev) (side : Side) : Option (Nat × Int) :=
  let r := thermRegs side
  let live := (List.range (sensorsOf side)).filter (fun i => !d.on (r.fault i))
  live.foldl (fun (best : Option (Nat × Int)) i =>
    match best with
    | some (j, t) => if t < d.rdS (r.temp i) then some (i, d.rdS (r.temp i)) else some (j, t)
    | none => some (i, d.rdS (r.temp i))) none

/-- A condition with hysteresis (R387): held set, set at its level, cleared below it less the hysteresis. -/
def condition (held old : Bool) (t : Option Int) (level hyst : Nat) : Bool :=
  held || (match t with
    | some x => if 10 * (level : Int) ≤ x then true else if x < 10 * ((level : Int) - hyst) then false else old
    | none => true)

/-- The event of a condition's change. -/
def Dev.thermEvent (d : Dev) (side : Side) (kindF nH : Nat) (on : Bool) : Dev :=
  match side with
  | .field => d.raise 62 (if on then kindF else kindF + 1) []
  | .host => d.raiseH nH (if on then 0 else 1) []

/-- A shutdown record is pending: in F0, or the NOR slot with the higher SEQ is not acknowledged (R391, R393). -/
def newestRec (xs : List (Option ShutRec)) : Option ShutRec :=
  match xs with
  | [some a, some b] => if a.seq < b.seq then some b else some a
  | [some a, _] => some a
  | [_, some b] => some b
  | _ => none

def Dev.shutRecPending (d : Dev) : Bool := d.th.f0.isSome || (match newestRec d.th.nor with | some x => !x.ack | none => false)

/-- FSYS_MODE.SHUTREC and REARM_PEND as the records stand. -/
def Dev.shutRecShow (d : Dev) : Dev := (d.wrB R.FSYS_MODE.SHUTREC d.shutRecPending).wrB R.FSYS_MODE.REARM_PEND d.shutRecPending

/-- Field SHUTDOWN sets (R391): t0, the F0 record, SHUTREC and REARM_PEND. -/
def Dev.shutFieldStart (d : Dev) (sensor : Nat) (t : Int) : Dev :=
  let rec' : ShutRec := { stc := d.stcNs, sensor := sensor, mode := d.mode.code, peak := t }
  let d := { d with th := { d.th with shut := true, t0 := d.stcNs, f0 := some rec' } }
  (d.wr R.FTHM_STAT.SHUT 1).shutRecShow.raise 62 4 [sensor]

/-- Host SHUTDOWN sets (R395): H4 to self-refresh, H2 and H3 off, and HTHM_SHUTREC. -/
def Dev.shutHostStart (d : Dev) (sensor : Nat) (t : Int) : Dev :=
  let d := { d with th := { d.th with shutH := true } }
  let d := d.wrAll [(R.HTHM_STAT.SHUT, 1), (R.HTHM_SHUTREC.VALID, 1), (R.HTHM_SHUTREC.SENSOR, sensor)]
  let d := d.wrS R.HTHM_SHUTREC.PEAK t
  let d := d.raiseH 118 0 [sensor]
  let d := d.forAll [0, 1, 2, 3] (fun d n => d.pilotEnable n false)
  let d := (d.resetDomains (fun x => decide (x = .h3))).wr R.HMEM_STAT.TRAINED 0
  d.wr R.HSYS_PWRSTAT.ON (clearBit (clearBit (d.rd R.HSYS_PWRSTAT.ON) 2) 3)

/-- SHUTDOWN at a reading update (R387, R391, R395); it stays latched. -/
def Dev.shutCheck (d : Dev) (side : Side) : Dev :=
  let r := thermRegs side
  let h := d.hottest side
  let t := h.map (·.2)
  let set := match t with | some x => decide (10 * (d.rd r.shutdown : Int) ≤ x) | none => true
  let d := d.wrB r.shutnow (match t with | some x => decide (10 * ((d.rd r.shutdown : Int) - d.rd r.hshut) ≤ x) | none => true)
  let sensor := (h.map (·.1)).getD 0
  match side with
  | .field =>
    if set && !d.th.shut then d.shutFieldStart sensor (t.getD 0)
    else
      match d.th.f0, t with
      | some x, some v => if d.rd R.FTHM_STAT.SHUT = 1 ∧ x.peak < v then { d with th := { d.th with f0 := some { x with peak := v } } } else d
      | _, _ => d
  | .host =>
    if set && !d.th.shutH then d.shutHostStart sensor (t.getD 0)
    else match t with
      | some v => if d.th.shutH = true ∧ d.rdS R.HTHM_SHUTREC.PEAK < v ∧ d.on R.HTHM_SHUTREC.VALID = true then d.wrS R.HTHM_SHUTREC.PEAK v else d
      | none => d

/-- The reading update of a die (R386, R387). -/
def Dev.thermUpdate (d : Dev) (side : Side) (conv : List (List Int)) (failed : List Bool) : Dev :=
  let r := thermRegs side
  let d := d.forAll (List.range (sensorsOf side)) (fun d i => d.sensorRead side i (conv.getD i []) (failed.getD i false))
  let h := d.hottest side
  let t := h.map (·.2)
  let n := ((List.range (sensorsOf side)).filter (fun i => d.on (r.fault i))).length
  let held := decide (faultLimit side ≤ n)
  let d := d.wrB r.sensflt held
  let d := match h with
    | some (i, v) =>
      let d := d.wr r.hot i
      if d.rd r.peak = 0x8000 ∨ d.rdS r.peak < v then (d.wrS r.peak v).wr r.peakSensor i else d
    | none => d
  let w := condition held (d.on r.warnOn) t (d.rd r.warn) (d.rd r.hwarn)
  let d := if w = d.on r.warnOn then d else (d.wrB r.warnOn w).thermEvent side 0 116 w
  let x := condition held (d.on r.thrOn) t (d.rd r.throttle) (d.rd r.hthr)
  let d := if x = d.on r.thrOn then d else (d.wrB r.thrOn x).thermEvent side 2 117 x
  d.shutCheck side

/-- A threshold or hysteresis write (R388). -/
def Dev.thresholdWrite (d : Dev) (side : Side) (hyst : Bool) (v : Nat) : Dev :=
  let r := thermRegs side
  let a := bits v 23 16
  let b := bits v 15 8
  let c := bits v 7 0
  if hyst then
    if [a, b, c].all (fun x => decide (1 ≤ x) && decide (x ≤ 20)) then d.wrAll [(r.hshut, a), (r.hthr, b), (r.hwarn, c), (r.orderr, 0)] else d.wr r.orderr 1
  else if c < b ∧ b < a ∧ a ≤ 125 then d.wrAll [(r.shutdown, a), (r.throttle, b), (r.warn, c), (r.orderr, 0)]
  else d.wr r.orderr 1

/-- The NOR slot with the lower SEQ, an empty one first (R392, R393). -/
def Dev.recSlotLow (d : Dev) : Nat :=
  match d.th.nor with
  | [none, _] => 0
  | [_, none] => 1
  | [some a, some b] => if b.seq < a.seq then 1 else 0
  | _ => 0

/-- A shutdown record written to NOR with the next SEQ. -/
def Dev.recWrite (d : Dev) (x : ShutRec) : Dev :=
  let seq := ((newestRec d.th.nor).map (·.seq)).getD 0 + 1
  { d with th := { d.th with nor := setAt d.th.nor d.recSlotLow (some { x with seq := seq }), f0 := none } }

/-- SHUTDOWN_RECORD_NOR_COPY (R391): after any billing commit in progress. -/
def Dev.recCopy (d : Dev) : Dev :=
  match d.th.f0 with
  | some x => if d.bil.commit.isSome then d else (d.recWrite x).shutRecShow
  | none => d

/-- The pending record acknowledged (R392). -/
def Dev.shutAck (d : Dev) : Dev :=
  let x := match d.th.f0 with | some x => some x | none => newestRec d.th.nor
  let d := match x with
    | some x => if d.shutRecPending then d.recWrite { x with ack := true } else d
    | none => d
  ({ d with th := { d.th with shut := false, ackKey := false } }.wr R.FTHM_STAT.SHUT 0).shutRecShow

/-- The 32 bytes of a shutdown record (Table 20-1). -/
def ShutRec.bytes (x : ShutRec) : List Byte :=
  let b := leBytes 4 0x4448535A ++ leBytes 4 x.seq ++ leBytes 8 x.stc ++ leBytes 1 x.sensor ++ leBytes 1 x.mode ++ leBytes 2 (unsigned x.peak 16) ++
    leBytes 1 (b2n x.ack) ++ leBytes 1 x.result ++ leBytes 6 0
  b ++ leBytes 4 (crc32c b)

/-- Every field sensor reads below WARN less its hysteresis (R32). -/
def Dev.coolEnough (d : Dev) (side : Side) : Bool :=
  let r := thermRegs side
  (List.range (sensorsOf side)).all (fun i => decide (d.rdS (r.temp i) < 10 * ((d.rd r.warn : Int) - d.rd r.hwarn)))

/-- t0 + TQS (R391): every output still in codes 4 to 7 goes to FAULT with CAUSE DEVICE. -/
def Dev.tqsEnd (d : Dev) : Dev :=
  if d.th.shut = true ∧ d.rd R.FTHM_STAT.SHUT = 1 ∧ d.mode = .quench then
    (d.advanceTo (stepsOfNs (d.th.t0 + 1000000 * d.rd R.FTHM_CFG.TQS))).outsTripped
  else d

/-- THERMAL_READING (R386, R387). -/
def execThermalReading (side : Side) (conv : List (List Int)) (failed : List Bool) (s : State) : Host.Outcome State Fault Refusal :=
  done s (fun d => if d.domOn (match side with | .field => .f1 | .host => .h1) then d.thermUpdate side conv failed else d)

/-- TQS_EXPIRY (R391). -/
def execTqsExpiry (s : State) : Host.Outcome State Fault Refusal := done s Dev.tqsEnd

/-- THRESHOLD_WRITE (R388). -/
def execThresholdWrite (side : Side) (hyst : Bool) (value : Nat) (s : State) : Host.Outcome State Fault Refusal :=
  done s (fun d => if d.domOn (match side with | .field => .f1 | .host => .h1) then d.thresholdWrite side hyst value else d)

/-- FTHM_RECCTL (R392): the word written. -/
def execFthmRecctl (value : Nat) (s : State) : Host.Outcome State Fault Refusal :=
  done s (fun d => if d.domOn .f1 && decide (bits value 31 16 = 0xAC4D) then { d with th := { d.th with ackKey := true } } else d)

/-- HTHM_SHUTREC_CLR (R395). -/
def execHthmShutrecClr (s : State) : Host.Outcome State Fault Refusal := done s (fun d => d.wr R.HTHM_SHUTREC.VALID 0)

/-- SHUTDOWN_RECORD_NOR_COPY (R391). -/
def execShutdownRecordNorCopy (s : State) : Host.Outcome State Fault Refusal := done s (fun d => if d.domOn .f1 then d.recCopy else d)

end Sys2Proof.Machine
end

