-- ==== Sys2Proof/Machine/Diag.lean ====
section
/-! DEFINITION. Fault injection (R397 to R399), the journal's pace (R402, R403), and the ash areas (R408 to R410). -/

namespace Sys2Proof.Machine

/-! ## Injection (R397 to R399) -/

/-- Instances of an injection point (Table 21-1); 0 for a point that is not in the table. -/
def injInstances (point : Nat) : Nat :=
  match point with
  | 1 => 96 | 2 => 192 | 3 => 128 | 4 => 2 | 5 => 1 | 6 => 32 | 7 => 8 | 8 => 1 | 9 => 12 | 10 => 48 | 11 => 4 | 12 => 32 | 13 => 16
  | 14 => 32 | 15 => 32 | 32 => 1 | 33 => 2 | 34 => 8 | 35 => 4 | _ => 0

/-- Words of a memory that points 4 and 33 name: field SRAM, signal memory, host DRAM, host SRAM. -/
def injWords (point inst : Nat) : Nat :=
  if point = 4 then (if inst = 0 then 6291456 else 1024) else if inst = 0 then 2 ^ 25 else 1048576

/-- INJPAR lies in the range of its point (Table 21-1); bits outside the named fields do not count. -/
def injParOk (point inst par : Nat) : Bool :=
  let between := fun (v lo hi : Nat) => decide (lo ≤ v) && decide (v ≤ hi)
  match point with
  | 1 | 10 | 12 | 13 => between par 1 65535
  | 2 | 7 | 8 | 15 => between par 1 255
  | 3 => decide (par % 4 ≤ 2) && between (bits par 31 16) 1 65535
  | 4 | 33 => decide (par % 2 ^ 25 < injWords point inst)
  | 5 | 32 => between par 1 16
  | 6 => decide (par ≤ 1)
  | 9 | 34 => between (bits par 31 16) 1 3600
  | 35 => between (bits par 31 16) 1 65535
  | 14 => decide (par = 0)
  | _ => true

/-- Uses after which the injection ends: a number of runs, cells, samples, frames or periods, or one; 0 for a point that ends after
a time (Table 21-1). -/
def injUses (point par : Nat) : Nat :=
  match point with
  | 2 | 5 | 7 | 13 | 15 | 32 => par
  | 35 => bits par 31 16
  | 4 | 6 | 11 | 14 | 33 => 1
  | _ => 0

/-- The side's active injections. -/
def Dev.injList (d : Dev) : Side → List Injection
  | .field => d.inj.field
  | .host => d.inj.host

/-- The side's token. -/
def Dev.injTok (d : Dev) : Side → Option InjToken
  | .field => d.inj.tokenF
  | .host => d.inj.tokenH

/-- The detector of a point runs: a stream active where it needs one, its block enabled, the instance configured (Table 21-2,
code 7). -/
def Dev.injRuns (d : Dev) (point i : Nat) : Bool :=
  match point with
  | 1 => d.streamActive && decide ((d.tripRec i).action ≠ 0)
  | 2 => d.domOn .f2 && d.act.dets.any (fun x => x.det == i)
  | 3 => d.domOn .f4 && d.on (R.MOD_INSTAT.USED i)
  | 4 => d.domOn .f2 && d.streamActive
  | 6 => d.domOn .f4 && d.on R.STK_CTL.EN && decide (i < d.nFound)
  | 7 => d.domOn .f4 && decide (d.rd (R.SVG_SUBSTAT.STATE i) ≠ 0)
  | 8 => d.on R.STC_CFG.PPSEN
  | 10 => d.domOn .f4 && d.act.ctr.coils.any (fun c => c.fb == i)
  | 11 => d.domOn .f4 && d.on (R.IMD_CTL.EN i)
  | 12 => d.domOn .f4 && decide (d.rd (R.FBA_TEMPCFG.TYPE i) ≠ 0)
  | 13 => d.domOn .f2 && d.act.sups.any (fun x => x.sup == i)
  | 14 => d.domOn .f4 && decide (d.rd (R.SVG_GSSTAT.STATE i) ≠ 0)
  | 15 => d.domOn .f4 && d.streamActive && testBit (d.rd R.SHR_MEMBER.VALUE) i
  | 35 => d.domOn .h3 && d.on (R.VEH_CPCFG.EN i)
  | _ => true

/-- Whether a token covers a point and instance (Table 21-3). -/
def InjToken.covers (t : InjToken) (point i : Nat) : Bool := testBit t.points (point % 32) && (decide (t.inst = 0xFF) || decide (t.inst = i))

/-- The mode or the debug state permits every injection of the side (R398). -/
def Dev.injFree (d : Dev) (side : Side) : Bool :=
  match side with
  | .field => decide (d.mode = .service) || decide (d.mode = .commission)
  | .host => d.dbgen .host

/-- The time a token's window is checked against (R400). -/
def Dev.injNow (d : Dev) (side : Side) : Nat :=
  match side with | .field => d.stcNs | .host => d.htcNs

/-- The refusal of a start by its token (Table 21-2, codes 2 to 4), 0 where the token permits it. -/
def Dev.injTokCheck (d : Dev) (side : Side) (point i : Nat) : Nat :=
  match d.injTok side with
  | none => 2
  | some t =>
    if t.covers point i = false then 3
    else if t.count = 0 ∨ d.injNow side < t.notBefore ∨ t.notAfter < d.injNow side ∨ (side = .field ∧ d.rd R.STC_STAT.STATE = 0) then 4
    else 0

/-- Point 3 on a modulator input of a PATH 1 record, sealed, with a session open on any output (Table 21-2, code 6). -/
def Dev.injSession (d : Dev) (point i : Nat) : Bool :=
  decide (point = 3) && d.ffuse.sealed && d.met.recs.any (fun r => r.path == 1 && r.src == 0 && r.index == i) &&
  (List.range 4).any (fun n => (d.sessAt n).isOpen)

/-- The refusal code of a start (Table 21-2), in code order; 0 where it is accepted. -/
def Dev.injCode (d : Dev) (side : Side) (point i par : Nat) : Nat :=
  let own := match side with | .field => decide (point < 32) | .host => decide (32 ≤ point)
  if own = false ∨ injInstances point ≤ i ∨ injParOk point i par = false then 1
  else
    let t := if d.injFree side then 0 else d.injTokCheck side point i
    if t ≠ 0 then t
    else if d.isInjected point i = true ∨ 8 ≤ (d.injList side).length then 5
    else if d.injSession point i then 6
    else if d.injRuns point i = false then 7
    else 0

/-- What an accepted start does at once (Table 21-1); the other points act when their detector next looks. -/
def Dev.injBegin (d : Dev) (point i par : Nat) (fell : Bool) : Dev :=
  match point with
  | 1 => if fell then (d.setTripIn i { d.tripIn i with fell := d.stcNs }).tripBegin i else d
  | 3 => (d.modClk (par % 4) i true).forAll (d.modGroup (par % 4) i) (fun d j => d.modPresent (par % 4) j)
  | 14 => d.gooseStale i
  | _ => d

/-- The fields of INJCTL and INJPAR of a side. -/
def injRegs : Side → Fld × Fld × Fld
  | .field => (R.FDIA_INJCTL.RESULT, R.FDIA_INJCTL.CODE, R.FDIA_INJPAR.PAR)
  | .host => (R.HDIA_INJCTL.RESULT, R.HDIA_INJCTL.CODE, R.HDIA_INJPAR.PAR)

/-- GO takes effect (R398): refused with its code and the event of KIND 1, or started with the event of KIND 0. -/
def Dev.injStart (d : Dev) (side : Side) (point i : Nat) : Dev :=
  let (res, codeF, parF) := injRegs side
  let par := d.rd parF
  let code := d.injCode side point i par
  let now := d.injNow side
  let data := [point, i, par, now % 2 ^ 32, now / 2 ^ 32]
  if code ≠ 0 then ((d.wr res 3).wr codeF code).raiseOn side 63 120 1 data
  else
    let free := d.injFree side
    let x : Injection := { point := point, inst := i, par := par, left := injUses point par, byToken := !free }
    let was := decide (point = 1) && d.tripActive i
    let spend := fun (t : Option InjToken) => if free then t else t.map (fun k => { k with count := k.count - 1 })
    let inj := match side with
      | .field => { d.inj with field := d.inj.field ++ [x], tokenF := spend d.inj.tokenF }
      | .host => { d.inj with host := d.inj.host ++ [x], tokenH := spend d.inj.tokenH }
    let d := (({ d with inj := inj }).wr res 2).wr codeF 0
    let d := match side with | .field => d.bump R.FDIA_CNT.STARTED | .host => d
    (d.injShow.raiseOn side 63 120 0 data).injBegin point i par (!was)

/-- A start by the FMP that waits for its S (R398). -/
def Dev.injWaiting (d : Dev) : Dev :=
  if d.inj.startWaiting then
    ({ d with inj := { d.inj with startWaiting := false } }).injStart .field (d.rd R.FDIA_INJCTL.POINT) (d.rd R.FDIA_INJCTL.INST)
  else d

/-- GO written with a point and an instance: at once on the host side, at the next S on the field side (R398). -/
def Dev.injGo (d : Dev) (side : Side) (point i : Nat) : Dev :=
  match side with
  | .field => { (d.wrAll [(R.FDIA_INJCTL.POINT, point), (R.FDIA_INJCTL.INST, i)]) with inj := { d.inj with startWaiting := true } }
  | .host => (d.wrAll [(R.HDIA_INJCTL.POINT, point), (R.HDIA_INJCTL.INST, i)]).injStart .host (point % 256) (i % 256)

/-- Every active injection of a side ended, with its end event (R399). -/
def Dev.injEndAll (d : Dev) (side : Side) : Dev := (d.forAll (d.injList side) (fun d x => d.injEnd x.point x.inst)).tripSync

/-- The field mode has changed: injections that neither the mode nor the token permits end (R399). -/
def Dev.injModeEnd (d : Dev) : Dev :=
  if d.injFree .field then d
  else
    let stays := fun (x : Injection) => match d.inj.tokenF with | some t => t.covers x.point x.inst | none => false
    (d.forAll (d.inj.field.filter (fun x => !stays x)) (fun d x => d.injEnd x.point x.inst)).tripSync

/-- The side's FDIA or HDIA domain is on. -/
def Dev.diaOn (d : Dev) (side : Side) : Bool := match side with | .field => d.domOn .f1 | .host => d.domOn .h1

/-! ## The journal's pace (R402, R403) -/

/-- JOURNAL_ALLOWANCE: one unit more, at most 64, and held records written with what there is. -/
def Dev.jrnUnit (d : Dev) : Dev := ({ d with jr := { d.jr with allowance := min 64 (d.jr.allowance + 1) } }).jrnDrain

/-- FLOOD_END: QUIET has passed with no report and no held record of the source. The entry uses the episode's times and total, and
event 121 KIND 1 is pended. Where ring 24 cannot take the entry now, the source stays in flood. -/
def Dev.floodEnd (d : Dev) (src : Nat) : Dev :=
  match d.jr.flood.find? (fun x => x.src == src) with
  | none => d
  | some x =>
    if d.jr.held.any (fun h => h.src == src) || !(d.ringReady 24 && d.jrnRingFits) then d
    else
      let d := d.hostAdvanceTo (x.lastAt + d.rd R.HDIA_JCFG.QUIET * 10 ^ 6)
      let units := d.jr.allowance
      let d := d.jrnWrite x.first x.last src x.kind 3 (b2n x.hostTime) x.total []
      let d := { d with jr := { d.jr with allowance := units, flood := d.jr.flood.filter (fun y => y.src != src) } }
      (d.pend 121).jrnShow

/-! ## The field ash area (R408) -/

/-- FIELD_ASH_READY: FMP firmware has assembled the area; its header begins with MAGIC, and the rest is the FMP's. -/
def Dev.ashReady (d : Dev) (area : List Byte) : Dev :=
  if d.ash.pend && decide (d.rd R.FDIA_ASHSTAT.STATE = 0) then
    let a := { d.ash with pend := false, field := padTo (leBytes 4 0x5341465A ++ area) 1048576 }
    (({ d with ash := a }).wr R.FDIA_ASHSTAT.STATE 1).raise 63 4 [d.rd R.FDIA_ASHSTAT.CAUSE]
  else d

/-- ASH_REQ BEGIN: a READY area is sent as ASH_DATA on queue 6. -/
def Dev.ashBegin (d : Dev) (xfer : Nat) : Dev :=
  let d := d.takeCell .field 0x74
  if d.rd R.FDIA_ASHSTAT.STATE = 1 then
    (({ d with ash := { d.ash with xfer := some xfer } }).wr R.FDIA_ASHSTAT.STATE 2).sendBulk 6 0x75 xfer d.ash.field
  else d

/-- The transfer has left the queue: the area is READY again. -/
def Dev.ashSent (d : Dev) : Dev :=
  if decide (d.rd R.FDIA_ASHSTAT.STATE = 2) && (d.fl.f2h.queue.getD 6 []).isEmpty then
    ({ d with ash := { d.ash with xfer := none } }).wr R.FDIA_ASHSTAT.STATE 1
  else d

/-- FDIA_ASHCTL.CLR: the area is EMPTY. -/
def Dev.ashClr (d : Dev) : Dev := ({ d with ash := { d.ash with pend := false, field := [], xfer := none } }).wr R.FDIA_ASHSTAT.STATE 0

/-! ## The host record at boot (R409, R410) -/

/-- ASH_SIGN: a record in GATHERING becomes INCOMPLETE; a COMPLETE or INCOMPLETE one is quoted and SIGNED; then a record of a fatal
error that reset the host begins its gathering. -/
def Dev.ashBoot (d : Dev) : Dev :=
  let d := if d.ash.hState = 1 then d.ashState 3 2 else d
  let d := if d.ash.hState = 2 ∨ d.ash.hState = 3 then
      let body := Mem.readBytes d.hmem 0xFC001000 (d.ash.hEnd - 0x1000)
      let d := { d with enc := { d.enc with quotes := (d.enc.quotes + 1) % 2 ^ 64 } }
      let q := d.quote ((Config.sha384 body).take 32) d.enc.quotes
      let d := { d with hmem := Mem.writeBytes d.hmem 0xFC000800 (q ++ d.signBytes .host 0x01 q) }
      ({ d with ash := { d.ash with hState := 4 } }).ashShow
    else d
  match d.ash.hPend with
  | some _ => ({ d with ash := { d.ash with hPend := none } }).ashState 1 0
  | none => d.ashShow

/-! ## Meanings -/

/-- INJECTION_START (R398). -/
def execInjectionStart (side : Side) (point : Nat) (inst : Nat) (s : State) : Host.Outcome State Fault Refusal :=
  done s (fun d => if d.diaOn side then d.injGo side point inst else d)

/-- INJECTION_STOP (R399). -/
def execInjectionStop (side : Side) (s : State) : Host.Outcome State Fault Refusal :=
  done s (fun d => if d.diaOn side then d.injEndAll side else d)

/-- INJECTION_END (R397): the end that Table 21-1 states for the point is reached. -/
def execInjectionEnd (point : Nat) (inst : Nat) (s : State) : Host.Outcome State Fault Refusal :=
  done s (fun d => (d.injEnd point inst).tripSync)

/-- JOURNAL_ALLOWANCE (R402, R403). -/
def execJournalAllowance (s : State) : Host.Outcome State Fault Refusal := done s (fun d => if d.domOn .h1 then d.jrnUnit else d)

/-- FLOOD_END (R403). -/
def execFloodEnd (source : Fin 128) (s : State) : Host.Outcome State Fault Refusal :=
  done s (fun d => if d.domOn .h1 then d.floodEnd source else d)

/-- FIELD_ASH_READY (R408). -/
def execFieldAshReady (area : List Byte) (s : State) : Host.Outcome State Fault Refusal :=
  done s (fun d => if d.domOn .f1 then d.ashReady area else d)

/-- ASH_REQ_BEGIN (R408). -/
def execAshReqBegin (xfer : Nat) (s : State) : Host.Outcome State Fault Refusal :=
  done s (fun d => if d.domOn .f1 then d.ashBegin xfer else d)

/-- FDIA_ASHCTL_CLR (R408). -/
def execFdiaAshctlClr (s : State) : Host.Outcome State Fault Refusal := done s (fun d => if d.domOn .f1 then d.ashClr else d)

/-- HDIA_ASHCTL_SNAP (R409). -/
def execHdiaAshctlSnap (s : State) : Host.Outcome State Fault Refusal := done s (fun d => if d.domOn .h1 then d.ashSnap else d)

/-- HDIA_ASHCTL_EXPORTED (R410). -/
def execHdiaAshctlExported (s : State) : Host.Outcome State Fault Refusal :=
  done s (fun d => if d.domOn .h1 then ({ d with ash := { d.ash with hState := 5 } }).ashShow else d)

/-- ASH_GATHER_COMPLETE (R409): firmware has written its dump up to END. -/
def execAshGatherComplete (endOff : Nat) (s : State) : Host.Outcome State Fault Refusal :=
  done s (fun d => if d.domOn .h1 && decide (d.ash.hState = 1) then ({ d with ash := { d.ash with hEnd := endOff } }).ashState 2 1 else d)

/-- DRAM_SCRUB (R339, R409): each word the scrubber finds in error, with its address and whether it is uncorrectable. -/
def execDramScrub (errors : List (Nat × Bool)) (s : State) : Host.Outcome State Fault Refusal :=
  done s (fun d => if d.domOn .h4 then
      d.forAll errors (fun d e => if e.2 then (d.hostEcc false e.1 true).hostFatal 8 else d.hostEcc false e.1 false)
    else d)

/-- HOST_ECC_ERROR (R339, R409): a corrected error is counted; an uncorrectable one is returned as a bus error and is a host fatal
error. -/
def execHostEccError (sram : Bool) (addr : Nat) (uncorr : Bool) (s : State) : Host.Outcome State Fault Refusal :=
  done s (fun d =>
    if d.domOn (if sram then .h1 else .h4) then
      let d := d.hostEcc sram addr uncorr
      if uncorr then ({ d with busError := true }).hostFatal 8 else { d with busError := false }
    else d)

/-- FMP_WINDOW_ECC_ERROR (R125): counted, event 18 KIND 2, no trip. -/
def execFmpWindowEccError (addr : Nat) (s : State) : Host.Outcome State Fault Refusal :=
  done s (fun d => if d.domOn .f2 then (d.bump R.CEN_ECC.UNCORR).raise 18 2 [addr] else d)

end Sys2Proof.Machine
end

