-- ==== Sys2Proof/Machine/Power.lean ====
section
/-! DEFINITION. Modes, power domains and resets (chapter 2): the domains switched on and off, the resets of either side with the boots
that follow, the mode evaluation at S, mode requests, and the disable and enable requests of blocks. -/

namespace Sys2Proof.Machine

/-! ## Domains (Table 2-3, R33, R37) -/

/-- The ON bit of a field domain. -/
def Dev.fieldOn (d : Dev) (i : Nat) (on : Bool) : Dev :=
  d.wr R.FSYS_PWRSTAT.ON (withBit (d.rd R.FSYS_PWRSTAT.ON) i on)

/-- The ON bit of a host domain. -/
def Dev.hostOn (d : Dev) (i : Nat) (on : Bool) : Dev :=
  d.wr R.HSYS_PWRSTAT.ON (withBit (d.rd R.HSYS_PWRSTAT.ON) i on)

/-- F3 switched off: axes end, pads low (R37), its registers at their reset values. -/
def Dev.f3Off (d : Dev) : Dev :=
  if d.domOn .f3 then
    let d := (d.axesTripped.fieldOn 3 false).legsTrip
    { (d.resetDomains (fun x => decide (x = .f3))) with pwm := { inputs := d.pwm.inputs, lastS := d.pwm.lastS } }
  else d

/-- F3 switched on: the active stream's values, and the holds and trips that stand. -/
def Dev.f3On (d : Dev) : Dev :=
  if d.domOn .f3 then d else (((d.fieldOn 3 true).streamDomain .f3).legsTrip).legsHold.pwmStatShow

/-- The CE stops (R115); its program, signals and states stay as they are. -/
def Dev.ceStop (d : Dev) : Dev :=
  ({ d with ce := { d.ce with todo := [], runTick := false, stepReq := false, stepping := false } }).wr R.CEN_STAT.RUN 0

/-- F2 into retention (R33): everything in it is kept. -/
def Dev.f2Retain (d : Dev) : Dev := if d.domOn .f2 then (d.ceStop.fieldOn 2 false).wr R.FSYS_PWRSTAT.F2RET 1 else d

/-- What F2 holds lost: both banks, the signal memory and every F2 register. -/
def Dev.f2Clear (d : Dev) : Dev :=
  let d := (d.ceStop.swapCancel.persistCancel.imgAbort.fieldOn 2 false).wr R.FSYS_PWRSTAT.F2RET 0
  let d := d.resetDomains (fun x => decide (x = .f2))
  let d := { d with ce := {}, dgr := {}, cap := {}, tlm := {}, cbl := List.replicate 4 {}, fmem := [], st := { d.st with banks := [{}, {}] } }
  ((d.wr R.STS_BANK.ACTV 0).wr R.STS_LOADSTAT.STATE 0).actShow

/-- The chain closed, where it is not OFF. -/
def Dev.chainStop (d : Dev) : Dev := if d.chainState = 0 then d else d.chainClose

/-- F2 switched off: both banks, the signal memory and every F2 register are lost, so that no stream is active. -/
def Dev.f2Off (d : Dev) : Dev :=
  if d.domOn .f2 || d.on R.FSYS_PWRSTAT.F2RET then
    let e := d.f2Clear.chainStop
    (e.tripRemap d.act.trips).metRecsFrom e.stcNs false
  else d

/-- F2 on with the boot stream, as at point F of Table 2-5. The Bool says that a stream became active. -/
def Dev.f2Boot (d : Dev) : Dev × Bool :=
  let (d, ok) := (d.fieldOn 2 true).bootStream
  (d.forAll (List.range 4) (fun d n => d.forAll (List.range 4) (fun d p => if d.on (R.CBL_PINCFG.EN n p) then d.pinStart n p else d)), ok)

/-- F2 out of retention, or on again where its contents were lost in BANKED. -/
def Dev.f2Restore (d : Dev) : Dev :=
  if d.on R.FSYS_PWRSTAT.F2RET then (d.fieldOn 2 true).wr R.FSYS_PWRSTAT.F2RET 0
  else if d.domOn .f2 then d else d.f2Boot.1

/-! ## Field reset and boot (R35, R39, R44, Table 2-5) -/

/-- Events that the operations cut off by a field reset raise after the next boot (Table 2-7, R399). -/
def Dev.cutEventsF (d : Dev) : List (Nat × Option Nat × List Nat) :=
  (if d.st.rx.isSome || decide (d.rd R.STS_LOADSTAT.STATE = 2) then [(4, some 2, [])] else []) ++
  (if d.rd R.MET_LRCTL.STATE = 2 then [(43, some 2, [])] else []) ++
  d.inj.field.map (fun x => (63, some 2, [x.point, x.inst, x.par])) ++
  (if d.th.f0.isSome then [(62, none, [])] else [])

/-- F1 to F4 reset: what F0, the NOR, the fuses, the pads and the host side hold is kept; the flue link is lost (R35, R46). -/
def Dev.fieldClear (d : Dev) : Dev :=
  let banked := d.rd R.FSYS_BOOTCFG.BANKED
  let cut := if d.domOn .f1 then d.cutEventsF else []
  let d := d.linkDown
  let d := d.resetDomains (fun x => decide (x = .f1) || decide (x = .f2) || decide (x = .f3) || decide (x = .f4))
  let d := d.wrAll [(R.FSYS_BOOTCFG.BANKED, banked), (R.FSYS_PWRSTAT.F0SRC, b2n (!d.pw.auxF))]
  let fl := { d.fl with h2f := { d.fl.h2f with damaged := List.replicate 5 false }, f2h := { damaged := d.fl.f2h.damaged },
                        reqs := [], done := [], kept := [], keptEvents := [], autoAt := 0 }
  let pw := { d.pw with req := none, engaged := false, tripPend := false, quenchPend := false, autoExpired := false, quenchExpired := false,
                        quenchThermal := false, fmpRestart := false, nmiF := false, bootF := true, bootEvents := d.pw.bootEvents ++ cut, ctrHold := false }
  let d := { d with
    fl := fl, pw := pw, fmem := [],
    inj := { d.inj with field := [], tokenF := none, startWaiting := false },
    st := { slots := d.st.slots, minSvn := d.st.minSvn },
    ce := {}, dgr := {}, cap := {}, fba := {}, tlm := {}, shr := {}, rt := {}, net := {}, svg := {}, met := {}, bil := {}, stk := {},
    imd := List.replicate 4 {}, cbl := List.replicate 4 {},
    pwm := { inputs := d.pwm.inputs.map (fun (t : TripRt) => { low := t.low, fell := t.fell, rose := t.rose }) },
    out := d.out.map (fun (o : OutRt) => ({ marker := o.marker } : OutRt)),
    ctr := { raw := d.ctr.raw },
    can := ([{}, {}] : List CanRt) ++ d.can.drop 2,
    ash := { d.ash with pend := false, field := [], xfer := none },
    fsec := { fwDigest := d.fsec.fwDigest, tampAt := d.fsec.tampAt, scan := d.fsec.scan },
    th := { d.th with goodF := List.replicate 12 0, shut := false, t0 := 0, ackKey := false } }
  d.stcLoad

/-- Points B to H of Table 2-5: fuses and debug state, F4, the metrology restore, F2 with the boot stream, F3, contactor feedback and
output markers; then the events that wait for a boot (R44). `power` says that the reset was a loss of supply. -/
def Dev.fieldBoot (d : Dev) (power : Bool) : Dev :=
  let d := d.tripRawBoot.fuseShowF.wrB R.FSEC_STATE.DBGEN (d.on R.FSEC_STATE.DBGARM)
  let d := ((d.newChal .field).wr R.FSEC_TRNG.OK 1).fuseShowF.scanEval
  let d := (d.fieldOn 4 true).metStart
  let d := (d.restore power).theftExit.theftEntries
  let d := d.dormantEntry d.stcNs
  let d := if d.on R.FSEC_STATE.DBGEN then (d.logAdd 7 0 (leBytes 4 (d.rd R.FSEC_STATE.LC))).raise 44 2 [] else d
  let d := ((d.wr R.STS_MINSVN.SVN d.st.minSvn).recCopy).shutRecShow
  let (d, ok) := d.f2Boot
  let d := if ok then d.f3On else d
  let d := d.outsPointH.pwmStatShow
  let waiting := d.pw.bootEvents.filter (fun e => decide (e.1 < 64))
  let d := { d with pw := { d.pw with bootEvents := d.pw.bootEvents.filter (fun e => decide (64 ≤ e.1)) } }
  d.forAll waiting (fun d e =>
    match e.2.1 with
    | some k => d.raise e.1 k e.2.2
    | none => let r := d.drawFree 256; r.2.raise e.1 r.1 e.2.2)

/-- FSYS_MODE written, with FSYS event 1 (R31). -/
def Dev.modeWrite (d : Dev) (prev mode cause : Nat) : Dev :=
  (d.wrAll [(R.FSYS_MODE.PREV, prev), (R.FSYS_MODE.MODE, mode), (R.FSYS_MODE.CAUSE, cause)]).raiseOrBoot .field 1 0 [prev, mode, cause]

/-- A field reset into KINDLING (Table 2-2, last row) and the boot up to point H. -/
def Dev.fieldReset (d : Dev) (cause : Nat) (power : Bool) : Dev :=
  let prev := d.mode.code
  let d := d.fieldClear
  let d := { d with fl := { d.fl with hbAt := d.tm.q }, pw := { d.pw with fHeld := false, f0Lost := false } }
  (d.modeWrite prev 1 cause).fieldBoot power

/-- A bit of FSYS_RSTCAUSE. -/
def Dev.fieldCause (d : Dev) (f : Fld) : Dev := d.wr f 1

/-! ## Host reset and boot (R35, R340) -/

/-- H1 to H3 reset, and H4 as well when `cold`; H0, the NOR and the fuses keep what they hold, DRAM only in a warm reset. -/
def Dev.hostClear (d : Dev) (cold : Bool) : Dev :=
  let cut := d.inj.host.map (fun x => (120, some 2, [x.point, x.inst, x.par]))
  let d := d.linkDown
  let d := d.resetDomains (fun x => decide (x = .h1) || decide (x = .h2) || decide (x = .h3) || (cold && decide (x = .h4)))
  let d := d.wr R.HSYS_PWRSTAT.H0SRC (b2n (!d.pw.auxH))
  let fl := { d.fl with h2f := { damaged := d.fl.h2f.damaged }, f2h := { d.fl.f2h with damaged := List.replicate 5 false },
                        hbSeq := 0, kickAt := none, hostState := 0, ackAt := 0, lostRaised := false, tsHost := 0, tsStc := 0, txwin0 := [], txwin1 := [] }
  let bsram := fun (c : Host.Cell) => decide (0x18000000 ≤ c.1) && decide (c.1 < 0x18010000)
  let hp := d.hp
  let enc := d.enc
  { d with
    fl := fl, rings := {}, jr := {}, veh := List.replicate 4 {}, can := d.can.take 2 ++ ([{}, {}] : List CanRt),
    inj := { d.inj with host := [], tokenH := none },
    hp := { slots := hp.slots, running := hp.running, tries := hp.tries },
    enc := { quotes := enc.quotes, mirror := enc.mirror, monoLost := enc.monoLost, statement := enc.statement, tampAt := enc.tampAt, scan := enc.scan },
    hmem := d.hmem.filter (fun c => bsram c || (!cold && decide (0x80000000 ≤ c.1))),
    ash := if cold then { pend := d.ash.pend, field := d.ash.field, xfer := d.ash.xfer } else d.ash,
    th := { d.th with goodH := List.replicate 8 0, shutH := false },
    tm := { d.tm with hq := 0 },
    pw := { d.pw with nmiH := false, bootEvents := d.pw.bootEvents ++ cut } }

/-- The host boot: fuses and debug state, the image slot with its measurements, the enclave, H4, H2 and H3, event 64 and the events
that wait for a boot. -/
def Dev.hostBoot (d : Dev) (warm : Bool) : Dev :=
  let d := d.fuseShowH.wrB R.SEC_STATE.DBGEN (d.on R.SEC_STATE.DBGARM)
  let d := ((d.newChal .host).wr R.SEC_TRNG.OK 1).scanEval
  let d := if d.pw.h0Lost then d.monoRestore else d
  let d := d.wr R.HSYS_BOOTCFG.TRIES d.hp.tries
  let bad := d.hp.slots.any (fun x => decide (x.st ≠ 0) && !x.ok)
  let d := if bad then d.raiseH 114 0 [] else d
  let d := d.hostBootSlot
  let d := match d.hp.running with
    | some i => (d.mrExtend 0 (d.slot i).header).mrExtend 1 (d.slot i).digest
    | none => d
  let d := d.continuity
  let d := d.wrAll [(R.HMEM_STAT.TRAINED, 1), (R.HMEM_STAT.RETAINED, b2n warm), (R.HSYS_PWRSTAT.ON, 0x1F)]
  let d := { d with pw := { d.pw with h0Lost := false, hHeld := false } }
  let word := d.rd R.HSYS_RSTCAUSE.POR + 2 * d.rd R.HSYS_RSTCAUSE.SUPPLY + 4 * d.rd R.HSYS_RSTCAUSE.WDT2 + 8 * d.rd R.HSYS_RSTCAUSE.SW_WARM +
    16 * d.rd R.HSYS_RSTCAUSE.SW_COLD + 32 * d.rd R.HSYS_RSTCAUSE.THERM + 64 * d.rd R.HSYS_RSTCAUSE.LS_ENC
  let d := d.raiseH 64 0 [word]
  let d := if d.on R.SEC_STATE.DBGEN then d.raiseH 113 0 [] else d
  let d := d.ashBoot
  let waiting := d.pw.bootEvents.filter (fun e => decide (64 ≤ e.1))
  let d := { d with pw := { d.pw with bootEvents := d.pw.bootEvents.filter (fun e => decide (e.1 < 64)) } }
  d.forAll waiting (fun d e => d.raiseH e.1 (e.2.1.getD 0) e.2.2)

/-- A host reset with the bit it sets in HSYS_RSTCAUSE. -/
def Dev.hostReset (d : Dev) (cold : Bool) (bit : Option Fld) : Dev :=
  let d := d.hostClear cold
  let d := match bit with | some f => d.wr f 1 | none => d
  d.hostBoot (!cold)

/-! ## Battery domains (R34, R422) -/

/-- F0 without both of its supplies: battery-backed SRAM, theft watch, time counter, tamper latches and RSTCAUSE are lost. -/
def Dev.f0Loss (d : Dev) : Dev :=
  let d := d.resetDomains (fun x => decide (x = .f0))
  { d with
    bst := { d.bst with copies := [none, none] }, tw := {}, tm := { d.tm with f0 := 0 }, th := { d.th with f0 := none },
    out := d.out.map (fun o => { o with marker := false }), fsec := { d.fsec with tampAt := [0, 0] }, pw := { d.pw with f0Lost := true } }

/-- H0 without both of its supplies: RTC, battery-backed SRAM, monotonic counters, tamper latches and RSTCAUSE are lost. -/
def Dev.h0Loss (d : Dev) : Dev :=
  let d := d.resetDomains (fun x => decide (x = .h0))
  { d with
    hmem := d.hmem.filter (fun c => decide (c.1 < 0x18000000) || decide (0x18010000 ≤ c.1)), tm := { d.tm with rtc := 0 },
    enc := { d.enc with tampAt := [0, 0] }, pw := { d.pw with h0Lost := true } }

/-- BATTERY_LOSS (R34): with the main supply there the domain keeps its state. -/
def Dev.batteryLoss (d : Dev) (side : Side) : Dev :=
  match side with
  | .field => if d.pw.auxF then d else d.f0Loss
  | .host => if d.pw.auxH then d else d.h0Loss

/-- BATTERY_SWITCHOVER (R422). -/
def Dev.switchover (d : Dev) (side : Side) (battery : Bool) : Dev :=
  match side with
  | .field => ({ d with pw := { d.pw with auxF := !battery } }).wrB R.FSYS_PWRSTAT.F0SRC battery
  | .host => ({ d with pw := { d.pw with auxH := !battery } }).wrB R.HSYS_PWRSTAT.H0SRC battery

/-- POWER_ON_RESET (Table 2-4): the side's battery domain has itself powered up, POR is set and every other bit cleared. -/
def Dev.powerOn (d : Dev) (side : Side) : Dev :=
  match side with
  | .field =>
    let d := { d.f0Loss with pw := { d.f0Loss.pw with auxF := true } }
    let d := d.wr R.FSYS_MODE.MODE 0
    d.fieldReset 0x01 true
  | .host =>
    let d := { d.h0Loss with pw := { d.h0Loss.pw with auxH := true } }
    d.hostReset true none

/-- SUPPLY_MONITOR_RESET (R421, R37): the side is held in reset; the field side is DORMANT (Table 2-2). -/
def Dev.supplyLow (d : Dev) (side : Side) : Dev :=
  match side with
  | .field =>
    if d.pw.fHeld then d
    else
      let prev := d.mode.code
      let d := d.fieldClear
      let d := d.wr R.FSYS_PWRSTAT.ON 1
      let d := { d with pw := { d.pw with fHeld := true }, tw := { d.tw with entered := some d.f0Ns } }
      d.modeWrite prev 0 0x02
  | .host =>
    if d.pw.hHeld then d
    else
      let d := (d.hostClear true).wr R.HSYS_PWRSTAT.ON 1
      { d with pw := { d.pw with hHeld := true } }

/-- SUPPLY_RELEASE (R421): POR where the battery domain has powered up since, SUPPLY otherwise. -/
def Dev.supplyRelease (d : Dev) (side : Side) : Dev :=
  match side with
  | .field =>
    if d.pw.fHeld then (if d.pw.f0Lost then d else d.wr R.FSYS_RSTCAUSE.SUPPLY 1).fieldReset 0x01 true else d
  | .host =>
    if d.pw.hHeld then d.hostReset true (if d.pw.h0Lost then none else some R.HSYS_RSTCAUSE.SUPPLY) else d

/-! ## Answers to requests of the CONTROL class (R59, R62, Table 3-5) -/

/-- A PARAM_RSP message. -/
def rspMsg (tag status index count ty : Nat) (body : List Byte) : Msg :=
  { ty := 0x12, payload := leBytes 2 tag ++ leBytes 1 status ++ leBytes 1 index ++ leBytes 1 count ++ leBytes 1 ty ++ leBytes 2 0 ++ padTo body 48 }

/-- A response queued and kept with its pair; a refusal counts in FFLU_REFUSE. -/
def Dev.respond (d : Dev) (tag status index count ty : Nat) (body : List Byte) : Dev :=
  let m := rspMsg tag status index count ty body
  let d := { d with fl := { d.fl with kept := (({ tag := tag, ty := ty, rsp := m } : KeptRsp) :: d.fl.kept).take 16 } }
  let d := if status = 0 then d else (d.bump R.FFLU_REFUSE.COUNT).wr R.FFLU_REFUSE.LAST status
  d.sendF 1 m

/-- The kept response of a pair. -/
def Dev.keptRsp (d : Dev) (tag ty : Nat) : Option Msg := (d.fl.kept.find? (fun k => k.tag == tag && k.ty == ty)).map (·.rsp)

/-! ## Mode requests (R30, R32, R63) -/

/-- The row of Table 2-2 for a request in mode `m`, as target and CAUSE. -/
def Dev.reqRow (d : Dev) (m : Mode) (r : ModeReq) : Option (Mode × Nat) :=
  match m, Mode.ofCode r.target with
  | .banked, some .kindling | .ready, some .kindling | .service, some .kindling | .recovery, some .kindling => some (.kindling, 0x13)
  | .banked, some .ready => if d.shutRecPending then (if r.rearm then some (.ready, 0x12) else none) else some (.ready, 0x06)
  | .banked, some .service => some (.service, 0x06)
  | .banked, some .recovery => some (.recovery, 0x06)
  | .ready, some .banked => some (.banked, 0x06)
  | .ready, some .commission => some (.commission, 0x06)
  | .ready, some .service => some (.service, 0x06)
  | .ready, some .recovery => some (.recovery, 0x06)
  | .active, some .ready | .derate, some .ready | .autonomous, some .ready => some (.quench, 0x0E)
  | .tripped, some .ready => if r.rearm then some (.ready, 0x12) else none
  | .commission, some .ready | .service, some .ready => some (.ready, 0x06)
  | .service, some .banked => some (.banked, 0x06)
  | _, _ => none

/-- Every condition of R32 holds. -/
def Dev.rearmOk (d : Dev) (ack : Bool) : Bool :=
  decide (d.rd (R.TRP_STAT.LATCH 0) = 0) && decide (d.rd (R.TRP_STAT.LATCH 1) = 0) && decide (d.rd (R.TRP_STAT.LATCH 2) = 0) &&
  !d.on R.TRP_SWSTAT.DEV && decide (d.rd R.TRP_SWSTAT.OUT = 0) && decide (d.rd R.TRP_SWSTAT.GRP = 0) &&
  !(List.range 96).any (fun i => d.tripActive i && decide ((d.tripRec i).action ≠ 0)) && !d.gooseDevHold &&
  !List.any [0, 1, 2, 3] (fun n => decide (4 ≤ d.outState n) && decide (d.outState n ≤ 7)) && !d.on R.CEN_STAT.DAMAGED &&
  (!d.shutRecPending || (d.coolEnough .field && ack))

/-- Refusal code of a request, 0 when it is accepted (R58). -/
def Dev.reqCode (d : Dev) (r : ModeReq) : Nat :=
  if d.pw.req.isSome then 0x0C
  else if (d.reqRow d.mode r).isNone then 0x0A
  else if r.rearm && !d.rearmOk r.ack then 0x0B
  else 0

/-- A request answered: PARAM_RSP on the flue, FSYS_MODEREQ.RESULT for the FMP. -/
def Dev.reqAnswer (d : Dev) (tag : Option Nat) (status : Nat) : Dev :=
  match tag with
  | some t => d.respond t status 0xFF 0 0x14 (if status = 0 then leBytes 8 d.stcNs else [])
  | none => d.wr R.FSYS_MODEREQ.RESULT (if status = 0 then 2 else 3)

/-- A request received: refused at once, or pending until the transition completes (R63). -/
def Dev.reqTake (d : Dev) (r : ModeReq) : Dev :=
  match d.reqCode r with
  | 0 =>
    let d := { d with pw := { d.pw with req := some r } }
    if r.tag.isNone then d.wr R.FSYS_MODEREQ.RESULT 1 else d
  | c => d.reqAnswer r.tag c

/-- A MODE_REQ accepted on the flue (R62, R63): a kept pair is answered again; the pair that is pending is not performed twice. -/
def Dev.flueModeReq (d : Dev) (tag target : Nat) (rearm ack : Bool) : Dev :=
  let d := d.takeCell .field 0x14
  match d.keptRsp tag 0x14 with
  | some m => d.sendF 1 m
  | none =>
    if d.pw.req.any (fun r => r.tag == some tag) then d
    else d.reqTake { target := target, rearm := rearm, ack := ack, tag := some tag }

/-- FSYS_MODEREQ written (R30, R392): the key of FTHM_RECCTL counts for this write. -/
def Dev.fmpModeReq (d : Dev) (target : Nat) (rearm : Bool) : Dev :=
  let ack := d.th.ackKey
  let d := (d.wr R.FSYS_MODEREQ.TARGET target).wrB R.FSYS_MODEREQ.REARM rearm
  let d := { d with th := { d.th with ackKey := false } }
  d.reqTake { target := target, rearm := rearm, ack := ack }

/-! ## Transitions -/

/-- CTR is live in the mode (R42, R206). -/
def ctrLive : Mode → Bool
  | .dormant | .kindling | .banked | .recovery => false
  | _ => true

/-- The disable request that a coming mode makes of CTR (R42). -/
def Dev.ctrHoldOn (d : Dev) : Dev :=
  let held := { d with pw := { d.pw with ctrHold := true } }
  if d.rd R.CTR_CTL.STATUS = 1 then (held.wr R.CTR_CTL.STATUS 2).ctrDrained else held

/-- CTR is live again: ENABLED where its enable bit is 1 (R42); a drain still running ends there by itself. -/
def Dev.ctrHoldOff (d : Dev) : Dev :=
  let free := { d with pw := { d.pw with ctrHold := false } }
  if d.rd R.CTR_CTL.STATUS = 0 ∧ d.on R.CTR_CTL.EN = true then free.wr R.CTR_CTL.STATUS 1 else free

/-- The field domains of the new mode (Table 2-1). -/
def Dev.modeDomains (d : Dev) (old m : Mode) : Dev :=
  match m with
  | .banked => d.f3Off.f2Retain
  | .recovery => d.f3Off.f2Off
  | .ready | .service => if old = .banked then d.f2Restore.f3On else if old = .kindling then d.f3On else d
  | _ => d

/-- What a mode keeps from its entry: QUENCH its limit and whether thermal shutdown led to it, AUTONOMOUS the instant its time runs
from, TRIPPED its outputs tripped. -/
def Dev.enterTimers (d : Dev) (m : Mode) (cause : Nat) : Dev :=
  match m with
  | .quench => { d with pw := { d.pw with quenchExpired := false, quenchThermal := decide (cause = 0x0F) } }
  | .autonomous => { d with fl := { d.fl with autoAt := d.tm.q }, pw := { d.pw with autoExpired := false } }
  | .tripped => d.outsTripped
  | _ => d

/-- A transition of Table 2-2 other than a reset. -/
def Dev.enter (d : Dev) (m : Mode) (cause : Nat) : Dev :=
  let old := d.mode
  let d := d.modeDomains old m
  let d := d.wrAll [(R.FSYS_MODE.PREV, old.code), (R.FSYS_MODE.MODE, m.code), (R.FSYS_MODE.CAUSE, cause)]
  let d := d.enterTimers m cause
  let d := if m = .tripped ∨ m = .service ∨ m = .banked ∨ m = .recovery then d.windowsAbort else d
  let d := if ctrLive m then d.ctrHoldOff else d
  let d := if m = .banked ∧ d.th.shut = true then d.wr R.FTHM_STAT.SHUT 2 else d
  let d := if old = .service then d.wr R.CEN_DBG.HALT 0 else d
  let d := d.axesMode.legsHold.pwmStatShow.scanEval
  (d.raise 1 0 [old.code, m.code, cause]).injModeEnd

/-- A target in which CTR is not live waits for its drain (R42): the block, and whether the change can be taken now. -/
def Dev.ctrReady (d : Dev) : Dev × Bool :=
  let d := d.ctrHoldOn
  (d, decide (d.rd R.CTR_CTL.STATUS = 0))

/-- The condition that stands first in the precedence of R29, with target and CAUSE, but for requests. -/
def Dev.transition (d : Dev) : Option (Mode × Nat) :=
  let m := d.mode
  let thermal := d.th.shut && decide (d.rd R.FTHM_STAT.SHUT = 1)
  let eng := d.pw.engaged
  let lost := d.on R.FSYS_MODE.HOSTLOST
  let der := d.deratesNow
  let run := decide (m = .active) || decide (m = .derate) || decide (m = .autonomous)
  if d.pw.tripPend then some (.tripped, 0x11)
  else if m = .quench ∧ eng = true ∧ d.pw.quenchExpired = true ∧ d.pw.quenchThermal = false then some (.tripped, 0x10)
  else if thermal ∧ (m = .ready ∨ m = .commission ∨ m = .service ∨ m = .tripped) then some (.banked, 0x0F)
  else if m = .quench ∧ d.pw.quenchThermal = true ∧ eng = false then some (.banked, 0x08)
  else if thermal ∧ (run ∨ (m = .quench ∧ d.pw.quenchThermal = false)) then some (.quench, 0x0F)
  else if d.pw.quenchPend then some (.quench, 0x0E)
  else if m = .autonomous ∧ d.pw.autoExpired = true then some (.quench, 0x0D)
  else if (m = .active ∨ m = .derate) ∧ lost then some (.autonomous, 0x0B)
  else if m = .autonomous ∧ lost = false then some (if der then .derate else .active, 0x0C)
  else if m = .active ∧ der = true then some (.derate, 0x09)
  else if m = .derate ∧ der = false then some (.active, 0x0A)
  else if m = .ready ∧ eng = true then some (.active, 0x07)
  else if (run ∨ m = .quench) ∧ eng = false then some (.ready, 0x08)
  else none

/-- A pending request that leads to QUENCH, which stands at QUENCH in the precedence. -/
def Dev.reqQuench (d : Dev) : Option ModeReq :=
  match d.pw.req with
  | some r => (match d.reqRow d.mode r with | some (.quench, _) => some r | _ => none)
  | none => none

/-- The pending request performed: a field reset for KINDLING, otherwise the transition and its answer. -/
def Dev.reqPerform (d : Dev) (r : ModeReq) (m : Mode) (cause : Nat) : Dev :=
  let d := { d with pw := { d.pw with req := none } }
  match m with
  | .kindling => (d.fieldCause (if r.tag.isSome then R.FSYS_RSTCAUSE.FLUE else R.FSYS_RSTCAUSE.SW_FIELD)).fieldReset 0x13 false
  | _ =>
    let d := if r.rearm then (if d.shutRecPending then d.shutAck else d.wr R.FSYS_MODE.REARM_PEND 0) else d
    (d.enter m cause).reqAnswer r.tag 0

/-- A pending request at S: refused where its row or its conditions are gone (R29), waiting for CTR (R42), or performed. -/
def Dev.reqAtS (d : Dev) : Dev :=
  match d.pw.req with
  | none => d
  | some r =>
    let drop := fun (c : Nat) => (({ d with pw := { d.pw with req := none } }).reqAnswer r.tag c).when (ctrLive d.mode) Dev.ctrHoldOff
    match d.reqRow d.mode r with
    | none => drop 0x0A
    | some (m, cause) =>
      if r.rearm && !d.rearmOk r.ack then drop 0x0B
      else if m = .banked ∨ m = .recovery then (match d.ctrReady with | (d', ok) => if ok then d'.reqPerform r m cause else d')
      else d.reqPerform r m cause

/-- Conditions without a row from the present mode are dropped (R29). -/
def Dev.dropConditions (d : Dev) : Dev :=
  let c := d.mode.code
  { d with pw := { d.pw with tripPend := d.pw.tripPend && decide (3 ≤ c) && decide (c ≤ 9), quenchPend := d.pw.quenchPend && decide (4 ≤ c) && decide (c ≤ 6) } }

/-- A thermal shutdown in KINDLING, BANKED or RECOVERY: the mode is unchanged, F3 off, and F2 in retention or off (R391). -/
def Dev.thermalIdle (d : Dev) : Dev :=
  if d.th.shut = true ∧ d.rd R.FTHM_STAT.SHUT = 1 ∧ (d.mode = .kindling ∨ d.mode = .banked ∨ d.mode = .recovery) then
    (if d.mode = .banked then d.f3Off.f2Retain else d.f3Off.f2Off).wr R.FTHM_STAT.SHUT 2
  else d

/-- The mode evaluation at S (R29). The Bool says that TRIPPED was entered. -/
def Dev.modeAtS (d : Dev) : Dev × Bool :=
  if d.domOn .f1 then
    let d := d.dropConditions.thermalIdle
    match d.transition with
    | some (m, cause) =>
      if m.code = 7 ∨ m = .tripped ∨ m = .banked ∨ d.reqQuench.isNone then
        match m with
        | .tripped => (({ d with pw := { d.pw with tripPend := if cause = 0x11 then false else d.pw.tripPend } }).enter .tripped cause, true)
        | .banked => (match d.ctrReady with | (d', ok) => if ok then d'.enter .banked cause else d', false)
        | .quench => (({ d with pw := { d.pw with quenchPend := if cause = 0x0E then false else d.pw.quenchPend } }).enter .quench cause, false)
        | _ => (d.enter m cause, false)
      else (d.reqAtS, false)
    | none => (d.reqAtS, false)
  else (d, false)

/-- Engagement after the output evaluations (R27); `switching` says that the front-end or DC/DC block has switching enabled. -/
def Dev.engagedNow (d : Dev) (switching : Bool) : Bool :=
  [0, 1, 2, 3].any (fun n => decide (4 ≤ d.outState n) && decide (d.outState n ≤ 7)) || switching ||
  decide (d.rd R.STK_BUFSTAT.STATE = 1) || decide (d.rd R.STK_BUFSTAT.STATE = 2)

/-- KINDLING ends (Table 2-2). Where F4 is still off the boot stands at point A and its points B to H come first.
TRP event 13 carries the result of the trip-path test (R191); which leg failed, if it is what failed, is free. -/
def Dev.bootDone (d : Dev) (selfTest image : Bool) : Dev :=
  if d.mode = .kindling ∧ d.pw.bootF = true ∧ d.domOn .f1 = true then
    let d := if d.domOn .f4 then d else d.fieldBoot true
    let variant := d.rd R.FSYS_VARIANT.VARIANT
    let stop := { d with pw := { d.pw with bootF := false } }
    if variant ≠ 1 ∧ variant ≠ 2 then stop.raise 0 0 [variant]
    else if image = false then (stop.raise 6 5 []).enter .recovery 0x05
    else if selfTest = false then
      let k := stop.drawFree 2
      let l := k.2.drawFree 80
      (l.2.raise 13 k.1 [if k.1 = 1 then l.1 else 0]).raise 0 0 []
    else
      let stop := stop.raise 13 0 [0]
      if d.th.shut then stop.enter .banked 0x04
      else if d.streamActive = false then stop.enter .recovery 0x05
      else if d.shutRecPending || d.on R.FSYS_BOOTCFG.BANKED then stop.enter .banked 0x04
      else stop.enter .ready 0x03
  else d

/-! ## Watchdogs, software resets and lockstep (Table 2-4) -/

/-- Only the FMP pair is reset (R38): the control plane runs on, and a persist in progress ends (R89). -/
def Dev.fmpReset (d : Dev) (f : Fld) : Dev :=
  (({ d with pw := { d.pw with fmpRestart := true, nmiF := false } }).wr f 1).persistCancel

/-- A watchdog service write restarts stage 1. -/
def Dev.wdtService (d : Dev) (side : Side) (value : Nat) : Dev :=
  if value % 65536 = 0x5AA5 then
    match side with
    | .field => { d with pw := { d.pw with nmiF := false } }
    | .host => { d with pw := { d.pw with nmiH := false } }
  else d

/-- Watchdog stage 1: a non-maskable interrupt and an event. The spec numbers the host's event (66) and not the field's, whose
number and KIND are free values (log entry 61). -/
def Dev.wdtStage1 (d : Dev) (side : Side) : Dev :=
  match side with
  | .field =>
    let n := d.drawFree 64
    let k := n.2.drawFree 256
    ({ k.2 with pw := { d.pw with nmiF := true } }).raise n.1 k.1 []
  | .host => ({ d with pw := { d.pw with nmiH := true } }).raiseH 66 0 []

/-! ## Blocks (R40 to R43) -/

/-- The metrology seal refuses a disable of MET and BIL (R43). -/
def Dev.sealHolds (d : Dev) : Bool := decide (d.ffuse.variant = 1) && d.ffuse.sealed

/-- EN and STATUS of a block whose drain ends with DRAIN_COMPLETE alone. -/
def Dev.plainEnable (d : Dev) (en st : Fld) (v : Bool) : Dev :=
  let s := d.rd st
  let d := d.wrB en v
  if v then (if s = 0 then d.wr st 1 else d) else if s = 1 then d.wr st 2 else d

/-- A drain of such a block completes: DISABLED, or ENABLED where EN was set again (R41). -/
def Dev.plainDrained (d : Dev) (en st : Fld) : Dev := if d.rd st = 2 then d.wr st (b2n (d.on en)) else d

/-- The domain a block is in. -/
def blockDom : Block → Dom
  | .out _ | .ctr | .stk | .svg | .pub _ | .fieldPort _ | .imd _ => .f4
  | .bil | .met => .f1
  | .capture => domOfAddr 0x158000
  | .cable _ => .f2
  | .can c => canDom c
  | .ring _ => .h1
  | .hostPort _ | .t1s _ | .periph _ => .h3

/-- An enable bit written (R40, R41). -/
def Dev.blockEnable (d : Dev) (b : Block) (en : Bool) : Dev :=
  if d.domOn (blockDom b) = false then d
  else match b with
  | .out n => d.outEnable n en
  | .ctr => d.ctrEnable en
  | .bil =>
    if !en && d.sealHolds then d
    else
      let d := d.plainEnable R.BIL_CTL.EN R.BIL_CTL.STATUS en
      if d.bil.commit.isNone then d.bilDrained else d
  | .met => if !en && d.sealHolds then d else d.plainEnable R.MET_CTL.EN R.MET_CTL.STATUS en
  | .stk => d.stkEnable en
  | .svg =>
    let was := d.rd R.SVG_CTL.STATUS
    let d := d.plainEnable R.SVG_CTL.EN R.SVG_CTL.STATUS en
    if en && decide (was = 0) then d.svgStart else if !en && decide (was = 1) then d.svgStop else d
  | .pub p => d.plainEnable (R.SVG_PUBCFG.EN p) (R.SVG_PUBSTAT.STATUS p) en
  | .fieldPort p => d.plainEnable (R.FNET_PORT.EN p) (R.FNET_PORT.STATUS p) en
  | .can c => d.canEnable c en
  | .capture => d.wrB R.TLM_CAPCFG.EN en
  | .ring r => d.ringEnable r en
  | .imd n => if en then d.imdEnable n else d.plainEnable (R.IMD_CTL.EN n) (R.IMD_CTL.STATUS n) false
  | .cable n => d.cblEnable n en
  | .hostPort p => d.plainEnable (R.HNET_PORT.EN p) (R.HNET_PORT.STATUS p) en
  | .t1s n => d.t1sEnable n en
  | .periph i => d.hperEnable i en

/-- A draining block has completed its unit of work (R40). Outputs, CAN controllers and the chain end their drains in their own
state machines; nothing is left to do here for them. -/
def Dev.blockDrained (d : Dev) (b : Block) : Dev :=
  if d.domOn (blockDom b) = false then d
  else match b with
  | .out _ | .capture => d
  | .can c => d.canSettle c
  | .ctr => d.ctrDrained
  | .bil => if d.bil.commit.isNone then d.bilDrained else d
  | .met => d.plainDrained R.MET_CTL.EN R.MET_CTL.STATUS
  | .stk => if decide (d.rd R.STK_CTL.STATUS = 2) && d.chainQuiet then d.chainOff else d
  | .svg =>
    let was := d.rd R.SVG_CTL.STATUS
    let d := d.plainDrained R.SVG_CTL.EN R.SVG_CTL.STATUS
    if was = 2 ∧ d.rd R.SVG_CTL.STATUS = 1 then d.svgStart else d
  | .pub p => d.plainDrained (R.SVG_PUBCFG.EN p) (R.SVG_PUBSTAT.STATUS p)
  | .fieldPort p => d.plainDrained (R.FNET_PORT.EN p) (R.FNET_PORT.STATUS p)
  | .ring r => d.ringDrained r
  | .imd n => if d.rd (R.IMD_CTL.STATUS n) = 2 then d.imdOff n else d
  | .cable n => d.plainDrained (R.CBL_CTL.EN n) (R.CBL_CTL.STATUS n)
  | .hostPort p => d.plainDrained (R.HNET_PORT.EN p) (R.HNET_PORT.STATUS p)
  | .t1s n => d.plainDrained (R.VEH_T1SCFG.EN n) (R.VEH_T1SSTAT.STATUS n)
  | .periph i => d.plainDrained (R.HPER_CTL.EN i) (R.HPER_CTL.STATUS i)

/-! ## Meanings -/

/-- A row of the field side, while F1 is on. -/
def onF1 (s : State) (f : Dev → Dev) : Host.Outcome State Fault Refusal := done s (fun d => if d.domOn .f1 then f d else d)

/-- A row of the host side, while H1 is on. -/
def onH1 (s : State) (f : Dev → Dev) : Host.Outcome State Fault Refusal := done s (fun d => if d.domOn .h1 then f d else d)

/-- POWER_ON_RESET (R35). -/
def execPowerOnReset (side : Side) (s : State) : Host.Outcome State Fault Refusal := done s (·.powerOn side)

/-- SUPPLY_MONITOR_RESET (R421). -/
def execSupplyMonitorReset (side : Side) (s : State) : Host.Outcome State Fault Refusal := done s (·.supplyLow side)

/-- BATTERY_SWITCHOVER (R422). -/
def execBatterySwitchover (side : Side) (toBattery : Bool) (s : State) : Host.Outcome State Fault Refusal := done s (·.switchover side toBattery)

/-- SUPPLY_RELEASE (R421). -/
def execSupplyRelease (side : Side) (s : State) : Host.Outcome State Fault Refusal := done s (·.supplyRelease side)

/-- BATTERY_LOSS (R34). -/
def execBatteryLoss (side : Side) (s : State) : Host.Outcome State Fault Refusal := done s (·.batteryLoss side)

/-- WATCHDOG_SERVICE: the value written to SERVICE. -/
def execWatchdogService (side : Side) (value : Nat) (s : State) : Host.Outcome State Fault Refusal := done s (·.wdtService side value)

/-- WATCHDOG_STAGE_1 (Table 2-4). -/
def execWatchdogStage1 (side : Side) (s : State) : Host.Outcome State Fault Refusal :=
  done s (fun d => if d.domOn (match side with | .field => .f1 | .host => .h1) then d.wdtStage1 side else d)

/-- WATCHDOG_STAGE_2_FIELD (Table 2-4, R408): 10 ms after a stage 1 that no write serviced. -/
def execWatchdogStage2Field (s : State) : Host.Outcome State Fault Refusal :=
  onF1 s (fun d => if d.pw.nmiF then (d.fatalLatch 5).fmpReset R.FSYS_RSTCAUSE.WDT2 else d)

/-- WATCHDOG_STAGE_2_HOST (Table 2-4, R409). -/
def execWatchdogStage2Host (s : State) : Host.Outcome State Fault Refusal :=
  onH1 s (fun d => if d.pw.nmiH then (d.hostFatal 6).hostReset false (some R.HSYS_RSTCAUSE.WDT2) else d)

/-- SW_FMP (R38): FSYS_SWRST with SCOPE 0b01; `key` is the KEY written. -/
def execSwFmp (key : Nat) (s : State) : Host.Outcome State Fault Refusal :=
  onF1 s (fun d => if key = 0xC4E1 then d.fmpReset R.FSYS_RSTCAUSE.SW_FMP else d)

/-- SW_FIELD (R35, R26). -/
def execSwField (key : Nat) (s : State) : Host.Outcome State Fault Refusal :=
  onF1 s (fun d => if key = 0xC4E1 ∧ d.mode.readyOrLower = true then (d.fieldCause R.FSYS_RSTCAUSE.SW_FIELD).fieldReset 0x13 false else d)

/-- SW_WARM (R340). -/
def execSwWarm (key : Nat) (s : State) : Host.Outcome State Fault Refusal :=
  onH1 s (fun d => if key = 0xC4E1 then d.hostReset false (some R.HSYS_RSTCAUSE.SW_WARM) else d)

/-- SW_COLD (R35). -/
def execSwCold (key : Nat) (s : State) : Host.Outcome State Fault Refusal :=
  onH1 s (fun d => if key = 0xC4E1 then d.hostReset true (some R.HSYS_RSTCAUSE.SW_COLD) else d)

/-- LS_FMP (R38, R408): the pair restarts and the device-level trip follows. -/
def execLsFmp (s : State) : Host.Outcome State Fault Refusal :=
  onF1 s (fun d => ((d.fatalLatch 1).fmpReset R.FSYS_RSTCAUSE.LS_FMP).deviceTrip)

/-- LS_MET (R280). -/
def execLsMet (s : State) : Host.Outcome State Fault Refusal :=
  onF1 s (fun d => ((d.fatalLatch 2).wr R.FSYS_RSTCAUSE.LS_MET 1).metStop)

/-- LS_ENC (R35, R409). -/
def execLsEnc (s : State) : Host.Outcome State Fault Refusal :=
  onH1 s (fun d => (d.hostFatal 7).hostReset false (some R.HSYS_RSTCAUSE.LS_ENC))

/-- THERMAL_RESET (R392): only while the field sequence runs; the host sequence always completes before it (R395). -/
def execThermalReset (side : Side) (s : State) : Host.Outcome State Fault Refusal :=
  done s (fun d =>
    match side with
    | .host => d
    | .field =>
      if d.domOn .f1 = true ∧ d.th.shut = true ∧ d.rd R.FTHM_STAT.SHUT = 1 then
        let d := d.advanceTo (stepsOfNs (d.th.t0 + 50000000))
        let d := { d with th := { d.th with f0 := d.th.f0.map (fun (x : ShutRec) => { x with result := 1 }) } }
        (d.fieldCause R.FSYS_RSTCAUSE.THERM).fieldReset 0x15 false
      else d)

/-- FMP_RESTART_COMPLETE (R38). -/
def execFmpRestartComplete (s : State) : Host.Outcome State Fault Refusal :=
  done s (fun d => { d with pw := { d.pw with fmpRestart := false } })

/-- HOST_SHUTDOWN_CLEAR (R395): a warm reset. -/
def execHostShutdownClear (s : State) : Host.Outcome State Fault Refusal :=
  onH1 s (fun d => if d.th.shutH && d.coolEnough .host then d.hostReset false none else d)

/-- BOOT_COMPLETE (R39): whether the self-test passed, and whether a valid field image was found. -/
def execBootComplete (selfTest image : Bool) (s : State) : Host.Outcome State Fault Refusal := done s (·.bootDone selfTest image)

/-- MODE_REQ (R30, R63) without REARM; its acknowledge flag is ignored (R32). -/
def execModeReq (tag target : Nat) (s : State) : Host.Outcome State Fault Refusal := onF1 s (·.flueModeReq tag target false false)

/-- RE_ARM (R32): a MODE_REQ with REARM = 1, and FLAGS bit 1 as `ack`. -/
def execReArm (tag target : Nat) (ack : Bool) (s : State) : Host.Outcome State Fault Refusal := onF1 s (·.flueModeReq tag target true ack)

/-- FSYS_MODEREQ (R30): TARGET written with REARM 0. -/
def execFsysModereq (target : Fin 16) (s : State) : Host.Outcome State Fault Refusal := onF1 s (·.fmpModeReq target false)

/-- FSYS_MODEREQ_REARM (R32): TARGET written with REARM 1. -/
def execFsysModereqRearm (target : Fin 16) (s : State) : Host.Outcome State Fault Refusal := onF1 s (·.fmpModeReq target true)

/-- T_HB_EXPIRY (R65). -/
def execTHbExpiry (s : State) : Host.Outcome State Fault Refusal := onF1 s (·.wr R.FSYS_MODE.HOSTLOST 1)

/-- T_AUTO_EXPIRY (Table 2-2). -/
def execTAutoExpiry (s : State) : Host.Outcome State Fault Refusal :=
  onF1 s (fun d => if d.mode = .autonomous then { d with pw := { d.pw with autoExpired := true } } else d)

/-- QUENCH_LIMIT_EXPIRY (Table 2-2). -/
def execQuenchLimitExpiry (s : State) : Host.Outcome State Fault Refusal :=
  onF1 s (fun d => if d.mode = .quench then { d with pw := { d.pw with quenchExpired := true } } else d)

/-- BLOCK_DISABLE_REQUEST (R40). -/
def execBlockDisableRequest (block : Block) (s : State) : Host.Outcome State Fault Refusal := done s (·.blockEnable block false)

/-- BLOCK_ENABLE_REQUEST (R41). -/
def execBlockEnableRequest (block : Block) (s : State) : Host.Outcome State Fault Refusal := done s (·.blockEnable block true)

/-- DRAIN_COMPLETE (R40). -/
def execDrainComplete (block : Block) (s : State) : Host.Outcome State Fault Refusal := done s (·.blockDrained block)

end Sys2Proof.Machine
end

