-- ==== Sys2Proof/Machine/Access.lean ====
section
/-! DEFINITION. Register accesses (section 0.4, chapter 22): what a word reads as, what a write of a word does, reserved addresses
and bad accesses. Writes that the chapters give an effect of their own go to that effect; every other field follows Table 0-3. -/

namespace Sys2Proof.Machine

/-! ## Registers by address -/

/-- The access type of a register as its table heads it: a register with a field that software stores is RW or RWL, one with
command bits beside results is RW. -/
def RegDesc.kind (r : RegDesc) : Acc :=
  let has := fun (a : Acc) => r.fields.any (fun fd => decide (fd.acc = a))
  if has .rwl then .rwl else if has .rw then .rw else if has .w1c then .w1c
  else if has .wo then (if has .ro then .rw else .wo)
  else if has .rws then .rws else if has .rc then .rc else .ro

/-- The register at an address that is not reserved (R412). -/
def Dev.regAt (d : Dev) (addr : Nat) : Option RegDesc := if d.domOn (domOfAddr addr) then findReg addr else none

/-- The word the stored fields make; command bits read 0. -/
def Dev.word (d : Dev) (r : RegDesc) (addr : Nat) : Nat :=
  r.fields.foldl (fun (n : Nat) fd => if fd.acc = .wo then n else n + d.rd (fd.at addr) * 2 ^ fd.lo) 0

/-- The instance index of a register whose instances stand a fixed stride apart. -/
def instOf (addr base stride : Nat) : Nat := (addr - base) / stride

/-- The copy of a HI word that a read of its LO word latched: it stands beside the HI word in the register file. -/
def hiLatch (hi : Fld) : Fld := { hi with lo := 1, reset := 0 }

/-- Pairs whose HI word is held by the block itself: LO address and HI field. -/
def heldPairs : List (Nat × Fld) :=
  [(R.TRP_FIRSTT_LO.NS.addr, R.TRP_FIRSTT_HI.NS), (R.SHR_FRAME_LO.VALUE.addr, R.SHR_FRAME_HI.VALUE),
   (R.FDIA_FATAL_LO.NS.addr, R.FDIA_FATAL_HI.NS), (R.TLM_CAPTRIG_LO.NS.addr, R.TLM_CAPTRIG_HI.NS)]

/-- Pairs formed when they are read: LO address, HI field, and the 64-bit value. -/
def Dev.livePair (d : Dev) (addr : Nat) : Option (Fld × Nat) :=
  if addr = R.CEN_TICK_LO.K.addr then some (R.CEN_TICK_HI.K, d.ce.k)
  else if addr = R.STC_NOW_LO.NS.addr then some (R.STC_NOW_HI.NS, d.stcNs)
  else if addr = R.BIL_SEQ_LO.SEQ.addr then some (R.BIL_SEQ_HI.SEQ, d.bil.seq)
  else if addr = R.STK_SNAPT_LO.NS.addr then some (R.STK_SNAPT_HI.NS, d.stk.doneAt.getD 0)
  else if addr = R.HSYS_HTC_LO.NS.addr then some (R.HSYS_HTC_HI.NS, d.htcNs)
  else if (R.MET_E_LO.E 0).addr ≤ addr ∧ addr ≤ (R.MET_E_LO.E 35).addr ∧ (addr - (R.MET_E_LO.E 0).addr) % 16 = 0 then
    let e := instOf addr (R.MET_E_LO.E 0).addr 16
    some (R.MET_E_HI.E e, d.energyRead e)
  else none

/-- Words of a public key register file (MPUB, FPUB, DPUB). -/
def Dev.keyWord (d : Dev) (side : Side) (purpose i : Nat) : Nat := leAt (d.pubKey side purpose) (4 * i) 4

/-- R168 is being evaluated: shedding is permitted, the mode allows it and the FMP runs. -/
def Dev.shedRunning (d : Dev) : Bool :=
  d.on R.DGR_SHED.EN && (decide (d.mode = .active) || decide (d.mode = .derate) || decide (d.mode = .autonomous)) && !d.pw.fmpRestart

/-- Registers that are formed when they are read. -/
def Dev.view (d : Dev) (addr : Nat) : Option Nat :=
  match d.livePair addr with
  | some p => some (p.2 % 2 ^ 32)
  | none =>
    match heldPairs.find? (fun p => p.2.addr == addr) with
    | some p => some (d.rd (hiLatch p.2))
    | none =>
      if addr = R.FFLU_HBSTAT.SINCE_HB.addr then
        let auto := if d.mode = .autonomous then min 511 ((d.tm.q - d.fl.autoAt) / 400000000) else 0
        some (min 65535 (msBetween d.fl.hbAt d.tm.q) + auto * 2 ^ 16)
      else if addr = R.STC_ESTERR.ERR.addr then some d.estErr
      else if addr = R.CEN_SATVAL.COUNT.addr then some (numAt d.ce.satcnt (d.rd R.CEN_SATSEL.SIG))
      else if addr = R.LAW_BQS1.S1.addr then some (unsigned (d.ce.bqSnap.getD (d.rd R.LAW_BQSEL.SECT) (0, 0)).1 32)
      else if addr = R.LAW_BQS2.S2.addr then some (unsigned (d.ce.bqSnap.getD (d.rd R.LAW_BQSEL.SECT) (0, 0)).2 32)
      else if addr = R.DGR_SHED.EN.addr then some (d.rd R.DGR_SHED.EN + 2 ^ 8 * b2n d.shedRunning)
      else if addr = R.TLM_CAPSTAT.STATE.addr then
        some (d.rd R.TLM_CAPSTAT.STATE + d.rd R.TLM_CAPSTAT.CAUSE * 2 ^ 4 + d.capDepth * 2 ^ 11)
      else if (R.FSEC_MPUB.WORD 0).addr ≤ addr ∧ addr ≤ (R.FSEC_MPUB.WORD 23).addr then some (d.keyWord .field 0x81 (instOf addr (R.FSEC_MPUB.WORD 0).addr 4))
      else if (R.FSEC_FPUB.WORD 0).addr ≤ addr ∧ addr ≤ (R.FSEC_FPUB.WORD 23).addr then some (d.keyWord .field 0x82 (instOf addr (R.FSEC_FPUB.WORD 0).addr 4))
      else if (R.SEC_DPUB.WORD 0).addr ≤ addr ∧ addr ≤ (R.SEC_DPUB.WORD 23).addr then some (d.keyWord .host 0x01 (instOf addr (R.SEC_DPUB.WORD 0).addr 4))
      else if addr / 0x10000 = 0x27 ∧ 0x2010 ≤ addr % 0x8000 ∧ addr % 0x8000 < 0x2060 then
        match (d.canRt (addr % 0x10000 / 0x8000)).ring with
        | e :: _ => some (leAt (canBytes e) (addr % 0x8000 - 0x2010) 4)
        | [] => some 0
      else none

/-- What a register reads as. -/
def Dev.peek (d : Dev) (r : RegDesc) (addr : Nat) : Nat := (d.view addr).getD (d.word r addr)

/-! ## Reads -/

/-- Fields that a read clears (Table 0-3): the RC fields of the word, and for CEN_SATVAL the counter it shows. -/
def Dev.readClear (d : Dev) (r : RegDesc) (addr : Nat) : Dev :=
  let d := d.forAll (r.fields.filter (fun fd => decide (fd.acc = .rc))) (fun d fd => d.wr (fd.at addr) fd.reset)
  if addr = R.CEN_SATVAL.COUNT.addr then { d with ce := { d.ce with satcnt := setAt d.ce.satcnt (d.rd R.CEN_SATSEL.SIG) 0 } }
  else if addr / 0x10000 = 0x1A ∧ addr % 0x10000 < 0x200 ∧ (addr % 0x100 = 0x10 ∨ addr % 0x100 = 0x14) then
    let p := addr % 0x10000 / 0x100
    d.setPort p { d.port p with dropSeen := false }
  else d

/-- A CAN mailbox word by its address: controller, mailbox and word (Table 18-4). -/
def mbAt (addr : Nat) : Option (Nat × Nat × Nat) :=
  let b := addr / 0x10000
  let o := addr % 0x8000
  if (b = 0x27 ∨ b = 0x2006) ∧ 0x1000 ≤ o ∧ o < 0x1800 ∧ o % 0x80 < 0x48 then
    some ((if b = 0x27 then 0 else 2) + addr % 0x10000 / 0x8000, (o - 0x1000) / 0x80, o % 0x80 / 4)
  else none

/-- A word read with what the read does: HI words latched (R111), RC fields cleared, mailboxes locked and released (R357), sources
claimed (R346), a received byte string taken. The value is left in `lastRead`. -/
def Dev.readWord (d : Dev) (r : RegDesc) (addr : Nat) : Dev :=
  if addr = R.STC_NOW_LO.NS.addr then d.readNowLo
  else if addr / 0x10000 = 0x2003 ∧ 0x300 ≤ addr % 0x10000 ∧ addr % 8 = 4 then d.claimRead ((addr % 0x10000 - 0x300) / 8)
  else match mbAt addr with
    | some (c, m, k) => d.mbRead c m k
    | none =>
      let v := d.peek r addr
      let d := match d.livePair addr with
        | some p => d.wr p.1 (p.2 / 2 ^ 32)
        | none => match heldPairs.find? (fun (p : Nat × Fld) => p.1 == addr) with
          | some p => let hi : Fld := p.2; d.wr (hiLatch hi) (d.rd hi)
          | none => d
      if addr / 0x10000 = 0x12 ∧ 0x1000 ≤ addr % 0x10000 ∧ testBit v 3 = true then
        let q := d.drawFree 256
        { q.2 with lastRead := v + q.1 * 2 ^ 16 }
      else if addr / 0x10000 = 0x200A ∧ addr % 0x1000 = 0x10 ∧ addr % 0x10000 < 0x9000 then
        let i := addr % 0x10000 / 0x1000
        let bs := d.hp.rx.getD i []
        { d with lastRead := leAt bs 0 1, hp := { d.hp with rx := setAt d.hp.rx i (bs.drop 1) } }
      else { d.readClear r addr with lastRead := v }

/-! ## Writes -/

/-- One field of a written word by its access type (Table 0-3); a stored value keeps the range its table states. -/
def Dev.writeField (d : Dev) (addr v : Nat) (fd : FieldDesc) : Dev :=
  let f := fd.at addr
  let x := v / 2 ^ fd.lo % 2 ^ fd.width
  match fd.acc with
  | .rw => d.wr f (clampNat x fd.low fd.high)
  | .rwl => if d.rwlSealed then d else d.wr f (clampNat x fd.low fd.high)
  | .w1c => d.wr f (Nat.land (d.rd f) (2 ^ fd.width - 1 - x))
  | _ => d

/-- Every field of a written word. -/
def Dev.writePlain (d : Dev) (r : RegDesc) (addr v : Nat) : Dev := d.forAll r.fields (fun d fd => d.writeField addr v fd)

/-- Every field but the enable bit at bit `e`, which has an effect of its own. -/
def Dev.writeBut (d : Dev) (r : RegDesc) (addr v e : Nat) : Dev :=
  d.forAll (r.fields.filter (fun fd => decide (fd.lo ≠ e))) (fun d fd => d.writeField addr v fd)

/-- Words of a command buffer that only the unit itself reads (FSEC_KEYIN, FSEC_PAIRIN). -/
def Dev.writeHidden (d : Dev) (addr v : Nat) : Dev := d.wr ⟨addr, 0, 32, 0⟩ v

/-- FSYS. -/
def Dev.writeFsys (d : Dev) (r : RegDesc) (addr v : Nat) : Dev :=
  match addr % 0x10000 with
  | 0x14 => d.fmpModeReq (bits v 3 0) (testBit v 8)
  | 0x1C =>
    if bits v 31 16 ≠ 0xC4E1 then d
    else match bits v 1 0 with
      | 1 => d.fmpReset R.FSYS_RSTCAUSE.SW_FMP
      | 2 => if d.mode.readyOrLower then (d.fieldCause R.FSYS_RSTCAUSE.SW_FIELD).fieldReset 0x13 false else d
      | _ => d
  | 0x20 => (d.writePlain r addr v).wdtService .field (bits v 31 16)
  | _ => d.writePlain r addr v

/-- STS: CANCEL wins over ARM. -/
def Dev.writeSts (d : Dev) (r : RegDesc) (addr v : Nat) : Dev :=
  match addr % 0x10000 with
  | 0x20 => if testBit v 1 then d.swapCancel else if testBit v 0 then d.swapArm else d
  | 0x28 => d.persistStart v
  | _ => d.writePlain r addr v

/-- STC (R99, R101, R108, R109). -/
def Dev.writeStc (d : Dev) (r : RegDesc) (addr v : Nat) : Dev :=
  match addr % 0x10000 with
  | 0x00 => (d.writePlain r addr v).reselect
  | 0x30 => d.ptpSample 0 (signed v 32)
  | 0x34 => d.ptpSample 1 (signed v 32)
  | 0x3C => d.setSecHi v
  | 0x40 => if d.on R.STC_UTCOFS.SRC then d else d.writePlain r addr v
  | _ => d.writePlain r addr v

/-- CEN: HALT and STEP of CEN_DBG. -/
def Dev.writeCen (d : Dev) (r : RegDesc) (addr v : Nat) : Dev :=
  match addr % 0x10000 with
  | 0x34 => (d.dbgHalt (testBit v 0)).when (testBit v 1) Dev.dbgStep
  | _ => d.writePlain r addr v

/-- LAW: MAN and the axis commands. A write of MAN through PARAM counts in its tick (R135). -/
def Dev.writeLaw (d : Dev) (param : Bool) (r : RegDesc) (addr v : Nat) : Dev :=
  let o := addr % 0x10000
  if o < 0x80 ∧ o % 0x10 = 4 then (d.manWrite (o / 0x10) v).when param (·.manNow (o / 0x10))
  else if 0xC00 ≤ o ∧ o % 0x40 = 0x0C then
    let n := (o - 0xC00) / 0x40
    let d := d.when (testBit v 1) (·.axisClr n)
    if testBit v 0 then d.axisEnable n else d.axisDisable n
  else d.writePlain r addr v

/-- DGR: software requests and lost modules. -/
def Dev.writeDgr (d : Dev) (r : RegDesc) (addr v : Nat) : Dev :=
  let o := addr % 0x10000
  if 0x100 ≤ o ∧ o < 0x200 ∧ o % 0x20 = 4 then d.varReq ((o - 0x100) / 0x20) v
  else if 0x100 ≤ o ∧ o < 0x200 ∧ o % 0x20 = 8 then d.lostWrite ((o - 0x100) / 0x20) v
  else d.writePlain r addr v

/-- PWM: forces, carrier multiples and SYNC_IN. -/
def Dev.writePwm (d : Dev) (r : RegDesc) (addr v : Nat) : Dev :=
  let o := addr % 0x10000
  let g := o / 0x400
  let k := o % 0x400
  if o < 0x5000 ∧ k < 0x200 ∧ k % 0x80 = 0x1C then d.forceWrite (4 * g + k / 0x80) v
  else if o < 0x5000 ∧ k = 0x20C then d.grpDivReq g (v % 8)
  else if o = 0x8004 then
    let was := d.on R.PWM_SYNCCFG.EN
    let d := d.writeBut r addr v 31
    if testBit v 31 then (if was then d else d.syncEnable) else if was then d.syncDisable else d
  else d.writePlain r addr v

/-- TRP: clears (R189). -/
def Dev.writeTrp (d : Dev) (r : RegDesc) (addr v : Nat) : Dev :=
  match addr % 0x10000 with
  | 0x20 => d.trpClr 0 v
  | 0x24 => d.trpClr 1 v
  | 0x28 => d.trpClr 2 v
  | 0x48 => d.trpSwClr v
  | _ => d.writePlain r addr v

/-- CTR. -/
def Dev.writeCtr (d : Dev) (r : RegDesc) (addr v : Nat) : Dev :=
  match addr % 0x10000 with
  | 0x00 => d.blockEnable .ctr (testBit v 0)
  | 0x04 => (d.ctrStart (bits v 5 0)).1
  | _ => d.writePlain r addr v

/-- TLM: the capture's configuration stands while it is ARMED or in POST (R405). -/
def Dev.writeTlm (d : Dev) (r : RegDesc) (addr v : Nat) : Dev :=
  let o := addr % 0x10000
  let busy := decide (d.capState = 1) || decide (d.capState = 2)
  if o = 0x8008 then
    let d := d.when (testBit v 2) Dev.capStop
    let d := d.when (testBit v 0) Dev.capArm
    d.when (testBit v 1) (·.capTrigger 6)
  else if (o = 0x8000 ∨ 0x8100 ≤ o ∧ o < 0x8200) ∧ busy = true then d
  else d.writePlain r addr v

/-- IMD. -/
def Dev.writeImd (d : Dev) (r : RegDesc) (addr v : Nat) : Dev :=
  if addr % 0x100 = 0 then d.blockEnable (.imd (Fin.ofNat 4 (addr % 0x10000 / 0x100))) (testBit v 0) else d.writePlain r addr v

/-- SHR: DEVNO, GROUPID and AUTH change in READY or lower only (R218); the configuration change, thermal derating and the guard's
stream have effects of their own. -/
def Dev.writeShr (d : Dev) (r : RegDesc) (addr v : Nat) : Dev :=
  match addr % 0x10000 with
  | 0x00 =>
    if d.shrLocked = false then (d.writePlain r addr v).wr R.SHR_STAT.WRIGN 0
    else if v = d.rd R.SHR_GROUPID.ID then d else d.wr R.SHR_STAT.WRIGN 1
  | 0x04 =>
    let dev := d.rd R.SHR_GRP.DEVNO
    let auth := d.rd R.SHR_GRP.AUTH
    let lock := d.shrLocked
    let d := d.writePlain r addr v
    if lock = false then d.wr R.SHR_STAT.WRIGN 0
    else if d.rd R.SHR_GRP.DEVNO = dev ∧ d.rd R.SHR_GRP.AUTH = auth then d
    else d.wrAll [(R.SHR_GRP.DEVNO, dev), (R.SHR_GRP.AUTH, auth), (R.SHR_STAT.WRIGN, 1)]
  | 0x20 => d.nextatWrite v
  | 0x50 => (d.writePlain r addr v).derateSync
  | 0x60 => (d.writePlain r addr v).guardSync
  | _ => d.writePlain r addr v

/-- SVG: enables of the block, its subscriptions and publications, and a subscription's other registers (Tables 12-3, 12-4). -/
def Dev.writeSvg (d : Dev) (r : RegDesc) (addr v : Nat) : Dev :=
  let o := addr % 0x10000
  if o = 0 then d.blockEnable .svg (testBit v 0)
  else if 0x100 ≤ o ∧ o < 0x300 ∧ o % 0x40 < 0x18 then
    let s := (o - 0x100) / 0x40
    if o % 0x40 = 0 then
      let was := d.on (R.SVG_SUBCFG.EN s)
      let d := d.writePlain r addr v
      if testBit v 31 then (if was then d.subReconfigure s else d.subEnable s) else if was then d.subOff s else d
    else (d.writePlain r addr v).subReconfigure s
  else if 0x400 ≤ o ∧ o < 0x500 ∧ o % 0x80 = 0 then (d.writeBut r addr v 31).blockEnable (.pub (Fin.ofNat 2 ((o - 0x400) / 0x80))) (testBit v 31)
  else if 0x800 ≤ o ∧ o < 0xC00 ∧ o % 0x20 = 0 then
    let j := (o - 0x800) / 0x20
    let was := d.on (R.SVG_GSCFG.EN j)
    let d := d.writePlain r addr v
    if testBit v 31 then (if was then d else d.gooseEnable j) else if was then d.gooseOff j else d
  else d.writePlain r addr v

/-- FNET. -/
def Dev.writeFnet (d : Dev) (r : RegDesc) (addr v : Nat) : Dev :=
  let o := addr % 0x10000
  if o < 0x200 ∧ o % 0x100 = 0 then d.blockEnable (.fieldPort (Fin.ofNat 2 (o / 0x100))) (testBit v 0)
  else if o < 0x200 ∧ o % 0x100 = 0x0C then
    (d.writePlain r addr v).when (testBit v 31) (·.wr (R.FNET_GCLCTL.PEND (o / 0x100)) 1)
  else d.writePlain r addr v

/-- MET (R43, R273, R278, R281). -/
def Dev.writeMet (d : Dev) (r : RegDesc) (addr v : Nat) : Dev :=
  let o := addr % 0x10000
  if o = 0 then d.blockEnable .met (testBit v 0)
  else if o = 0x08 then d.metEclr v
  else if o = 0x18 then d.lrActivate (bits v 31 16)
  else if 0x800 ≤ o ∧ o < 0x840 ∧ o % 0x10 = 0 then d.tpWrite ((o - 0x800) / 0x10) false v
  else if 0x800 ≤ o ∧ o < 0x840 ∧ o % 0x10 = 4 then d.tpWrite ((o - 0x800) / 0x10) true v
  else d.writePlain r addr v

/-- A session command (R289, R290): 1 opens, 2 closes. -/
def Dev.sessCmd (d : Dev) (n op : Nat) : Dev := if op = 1 then d.sessOpen n else if op = 2 then d.sessClose n else d

/-- BIL: a session command of the FMP waits for the next S (R290). -/
def Dev.writeBil (d : Dev) (param : Bool) (r : RegDesc) (addr v : Nat) : Dev :=
  let o := addr % 0x10000
  if o = 0 then d.blockEnable .bil (testBit v 0)
  else if o = 0x08 then d.sealReq (bits v 31 16)
  else if o = 0x0C then (if testBit v 0 then d.commitReq else d)
  else if o = 0x20 then d.recAck v
  else if o = 0x28 then d.logAck v
  else if 0x100 ≤ o ∧ o < 0x200 ∧ o % 0x40 = 0 then
    let n := (o - 0x100) / 0x40
    let op := bits v 1 0
    if param then d.sessCmd n op
    else if op = 1 ∨ op = 2 then ({ d with bil := { d.bil with cmds := d.bil.cmds ++ [(n, op)] } }).wr (R.BIL_SESSCTL.RESULT n) 1
    else d
  else d.writePlain r addr v

/-- The session commands that waited for S. -/
def Dev.sessAtS (d : Dev) : Dev := ({ d with bil := { d.bil with cmds := [] } }).forAll d.bil.cmds (fun d c => d.sessCmd c.1 c.2)

/-- OUT (R300). -/
def Dev.writeOut (d : Dev) (param : Bool) (r : RegDesc) (addr v : Nat) : Dev :=
  let n := addr % 0x10000 / 0x1000
  match addr % 0x1000 with
  | 0x00 => d.blockEnable (.out (Fin.ofNat 4 n)) (testBit v 0)
  | 0x08 => if param then d.outCmd n (bits v 2 0) else d.outCmdFmp n (bits v 2 0)
  | _ => d.writePlain r addr v

/-- CBL. -/
def Dev.writeCbl (d : Dev) (r : RegDesc) (addr v : Nat) : Dev :=
  if addr % 0x400 = 0 then d.blockEnable (.cable (Fin.ofNat 4 (addr % 0x10000 / 0x400))) (testBit v 0) else d.writePlain r addr v

/-- STK (R325, R333, R334, R336). -/
def Dev.writeStk (d : Dev) (r : RegDesc) (addr v : Nat) : Dev :=
  let o := addr % 0x10000
  if o = 0 then (d.blockEnable .stk (testBit v 0)).when (testBit v 8) Dev.stkWake
  else if o = 0x38 then
    let d := d.when (testBit v 1) (fun d => if d.rd R.STK_BUFSTAT.STATE = 1 then d.bufCause 5 else d)
    d.when (testBit v 0 && !testBit v 1) Dev.bufGo
  else if o = 0x50 then (d.writePlain r addr v).when (testBit v 31) Dev.owStart
  else if 0x4000 ≤ o ∧ o < 0x4240 then (d.writePlain r addr v).balDutyChanged ((o - 0x4000) / 4)
  else d.writePlain r addr v

/-- A CAN register; FCAN and HCAN have one layout (Table 18-4). -/
def Dev.writeCan (d : Dev) (r : RegDesc) (addr v : Nat) : Dev :=
  let c := (if addr < 0x20000000 then 0 else 2) + addr % 0x10000 / 0x8000
  let o := addr % 0x8000
  if o = 0 then d.canCtlWrite c v
  else if o = 4 ∨ o = 8 then (d.writePlain r addr v).canTiming c
  else if 0x100 ≤ o ∧ o < 0x280 ∧ o % 0x80 < 0x48 then d.txWrite c ((o - 0x100) / 0x80) (o % 0x80 / 4) v
  else if 0x100 ≤ o ∧ o < 0x280 ∧ o % 0x80 = 0x48 then d.txCmdWrite c ((o - 0x100) / 0x80) v
  else if 0x1000 ≤ o ∧ o < 0x1800 ∧ o % 0x80 = 0x48 then d.mbFilter c ((o - 0x1000) / 0x80) 0 v
  else if 0x1000 ≤ o ∧ o < 0x1800 ∧ o % 0x80 = 0x4C then d.mbFilter c ((o - 0x1000) / 0x80) 1 v
  else if 0x1000 ≤ o ∧ o < 0x1800 ∧ o % 0x80 = 0x50 then d.mbFilter c ((o - 0x1000) / 0x80) 2 v
  else if 0x1000 ≤ o ∧ o < 0x1800 ∧ o % 0x80 = 0x54 then
    (if testBit v 31 then d.wr (canAt c (fun i => R.FCAN_MBSTAT.OVR i ((o - 0x1000) / 0x80))) 0 else d)
  else if o = 0x2004 ∧ c < 2 then (if testBit v 0 then d.canPop c else d)
  else d.writePlain r addr v

/-- FTHM and HTHM. -/
def Dev.writeThm (d : Dev) (side : Side) (r : RegDesc) (addr v : Nat) : Dev :=
  match addr % 0x10000 with
  | 0x00 => d.thresholdWrite side false v
  | 0x04 => d.thresholdWrite side true v
  | 0x14 =>
    match side with
    | .field => if bits v 31 16 = 0xAC4D then { d with th := { d.th with ackKey := true } } else d
    | .host => if testBit v 30 then d.wr R.HTHM_SHUTREC.VALID 0 else d
  | _ => d.writePlain r addr v

/-- An injection order (R397 to R399): STOP first; a field GO through PARAM starts in its tick, one of the FMP at the next S. -/
def Dev.writeInj (d : Dev) (side : Side) (param : Bool) (r : RegDesc) (addr v : Nat) : Dev :=
  let d := (d.writePlain r addr v).when (testBit v 30) (·.injEndAll side)
  if testBit v 31 then
    let d := d.injGo side (bits v 7 0) (bits v 15 8)
    if param then d.injWaiting else d
  else d

/-- FDIA. -/
def Dev.writeFdia (d : Dev) (param : Bool) (r : RegDesc) (addr v : Nat) : Dev :=
  match addr % 0x10000 with
  | 0x00 => d.writeInj .field param r addr v
  | 0x14 => if testBit v 0 then d.ashClr else d
  | _ => d.writePlain r addr v

/-- FSEC. -/
def Dev.writeFsec (d : Dev) (r : RegDesc) (addr v : Nat) : Dev :=
  let o := addr % 0x10000
  if o = 0x0C then (if testBit v 0 then d.relock .field else d)
  else if o = 0x18 then (if testBit v 0 then d.pairGo else d)
  else if o = 0x1C then
    let d := d.writePlain r addr v
    let d := d.when (testBit v 1) (·.keyClear (bits v 6 4))
    d.when (testBit v 0 && !testBit v 1) (·.keyLoad (bits v 6 4))
  else if o = 0x30 then d.wr R.FSEC_TAMPSTAT.LATCH (tampClear (d.rd R.FSEC_TAMPSTAT.LATCH) (d.rd R.FSEC_TAMPSTAT.RAW) v)
  else if o = 0x34 then (if testBit v 0 then d.stmtGo else d)
  else if 0x80 ≤ o ∧ o < 0xB0 ∨ 0x400 ≤ o ∧ o < 0x530 then d.writeHidden addr v
  else d.writePlain r addr v

/-- HSYS. -/
def Dev.writeHsys (d : Dev) (r : RegDesc) (addr v : Nat) : Dev :=
  match addr % 0x10000 with
  | 0x1C =>
    if bits v 31 16 ≠ 0xC4E1 then d
    else match bits v 1 0 with
      | 1 => d.hostReset false (some R.HSYS_RSTCAUSE.SW_WARM)
      | 2 => d.hostReset true (some R.HSYS_RSTCAUSE.SW_COLD)
      | _ => d
  | 0x20 => (d.writePlain r addr v).wdtService .host (bits v 31 16)
  | 0x28 =>
    let d := d.writePlain r addr v
    { d with hp := { d.hp with tries := d.rd R.HSYS_BOOTCFG.TRIES } }
  | 0x30 => d.imgOk v
  | _ => d.writePlain r addr v

/-- HFLU: the kick and the two transmit windows (R51, R64). -/
def Dev.writeHflu (d : Dev) (r : RegDesc) (addr v : Nat) : Dev :=
  let o := addr % 0x10000
  if o = 0x08 then d.hbKick v
  else if 0x100 ≤ o ∧ o < 0x180 then
    (if o % 0x40 = 0x3C then d.txwinCommit ((o - 0x100) / 0x40) else d.txwinWrite ((o - 0x100) / 0x40) (o % 0x40 / 4) v)
  else d.writePlain r addr v

/-- HRNG (R342). -/
def Dev.writeHrng (d : Dev) (r : RegDesc) (addr v : Nat) : Dev :=
  let n := addr % 0x10000 / 0x40
  match addr % 0x40 with
  | 0x08 => (d.writeBut r addr v 0).blockEnable (.ring (Fin.ofNat 32 n)) (testBit v 0)
  | 0x10 => d.ringTail n (v % 2 ^ 16)
  | _ => d.writePlain r addr v

/-- HEVT: a write of CLAIM completes its source (R346). -/
def Dev.writeHevt (d : Dev) (r : RegDesc) (addr v : Nat) : Dev :=
  let o := addr % 0x10000
  if 0x300 ≤ o ∧ o % 8 = 4 then d.claimWrite (bits v 7 0) else d.writePlain r addr v

/-- HNET. -/
def Dev.writeHnet (d : Dev) (r : RegDesc) (addr v : Nat) : Dev :=
  if addr % 0x100 = 0 then d.blockEnable (.hostPort (Fin.ofNat 2 (addr % 0x10000 / 0x100))) (testBit v 0) else d.writePlain r addr v

/-- VEH (R309 to R312). -/
def Dev.writeVeh (d : Dev) (r : RegDesc) (addr v : Nat) : Dev :=
  let n := addr % 0x10000 / 0x100
  match addr % 0x100 with
  | 0x00 => (d.writeBut r addr v 0).blockEnable (.t1s (Fin.ofNat 4 n)) (testBit v 0)
  | 0x20 =>
    let was := d.on (R.VEH_CPCFG.EN n)
    let d := d.writePlain r addr v
    if was = testBit v 0 then d else d.pilotEnable n (testBit v 0)
  | _ => d.writePlain r addr v

/-- SEC. -/
def Dev.writeSec (d : Dev) (r : RegDesc) (addr v : Nat) : Dev :=
  match addr % 0x10000 with
  | 0x0C => if testBit v 0 then d.relock .host else d
  | 0x10 => (d.writePlain r addr v).when (testBit v 31) Dev.encGo
  | 0x2C => d.wr R.SEC_TAMPSTAT.LATCH (tampClear (d.rd R.SEC_TAMPSTAT.LATCH) (d.rd R.SEC_TAMPSTAT.RAW) v)
  | 0x30 => d.monoInc (bits v 3 0)
  | _ => d.writePlain r addr v

/-- HDIA. -/
def Dev.writeHdia (d : Dev) (r : RegDesc) (addr v : Nat) : Dev :=
  match addr % 0x10000 with
  | 0x00 => d.writeInj .host false r addr v
  | 0x24 =>
    let d := d.when (testBit v 1) Dev.ashSnap
    d.when (testBit v 0) (fun d => ({ d with ash := { d.ash with hState := 5 } }).ashShow)
  | _ => d.writePlain r addr v

/-- HPER: the data register of a serial instance queues a byte to be sent. -/
def Dev.writeHper (d : Dev) (r : RegDesc) (addr v : Nat) : Dev :=
  let i := addr % 0x10000 / 0x1000
  match addr % 0x1000 with
  | 0x00 => d.blockEnable (.periph (Fin.ofNat 10 i)) (testBit v 0)
  | 0x10 =>
    if i < 9 then { d with hp := { d.hp with tx := setAt d.hp.tx i (d.hp.tx.getD i [] ++ leBytes 1 v) } } else d.writePlain r addr v
  | _ => d.writePlain r addr v

/-- A word written to a register; `param` says that the write came through PARAM_WR. -/
def Dev.writeWord (d : Dev) (param : Bool) (r : RegDesc) (addr value : Nat) : Dev :=
  let v := value % 2 ^ 32
  match addr / 0x10000 with
  | 0x00 => d.writeFsys r addr v
  | 0x02 => d.writeSts r addr v
  | 0x03 => d.writeStc r addr v
  | 0x04 => d.writeCen r addr v
  | 0x05 => d.writeLaw param r addr v
  | 0x06 => d.writeDgr r addr v
  | 0x10 => d.writePwm r addr v
  | 0x11 => d.writeTrp r addr v
  | 0x14 => d.writeCtr r addr v
  | 0x15 => d.writeTlm r addr v
  | 0x16 => d.writeImd r addr v
  | 0x18 => d.writeShr r addr v
  | 0x19 => d.writeSvg r addr v
  | 0x1A => d.writeFnet r addr v
  | 0x20 => d.writeMet r addr v
  | 0x21 => d.writeBil param r addr v
  | 0x24 => d.writeOut param r addr v
  | 0x25 => d.writeCbl r addr v
  | 0x26 => d.writeStk r addr v
  | 0x27 => d.writeCan r addr v
  | 0x28 => d.writeThm .field r addr v
  | 0x29 => d.writeFdia param r addr v
  | 0x2A => d.writeFsec r addr v
  | 0x2000 => d.writeHsys r addr v
  | 0x2001 => d.writeHflu r addr v
  | 0x2002 => d.writeHrng r addr v
  | 0x2003 => d.writeHevt r addr v
  | 0x2004 => d.writeHnet r addr v
  | 0x2005 => d.writeVeh r addr v
  | 0x2006 => d.writeCan r addr v
  | 0x2007 => d.writeSec r addr v
  | 0x2008 => d.writeThm .host r addr v
  | 0x2009 => d.writeHdia r addr v
  | 0x200A => d.writeHper r addr v
  | _ => d.writePlain r addr v

/-! ## Bad accesses -/

/-- A bad access of the FMP (R414): no side effect, a read returns 0, and the access is latched. The bus reports an error only above
the last window. -/
def Dev.badField (d : Dev) (addr : Nat) (write : Bool) : Dev :=
  let d := (d.bump R.FSYS_BADADDR.COUNT).wrAll [(R.FSYS_BADADDR.VALID, 1), (R.FSYS_BADADDR.WRITE, b2n write), (R.FSYS_BADADDR.ADDR, addr)]
  { d with lastRead := if write then d.lastRead else 0, busError := decide (0x0240_0000 ≤ addr) }

/-- The window of Table 22-3 and the domain that an FMP address names: F2 holds the coefficient and table areas (Table 4-1). -/
def windowDom (addr : Nat) : Option Dom :=
  if 0x0080_0000 ≤ addr ∧ addr < 0x0240_0000 then (if 0x00C0_0000 ≤ addr ∧ addr < 0x0100_0000 then some .f1 else some .f2) else none

/-- Whether an FMP access is bad (R414). -/
def Dev.isBadField (d : Dev) (addr : Nat) (write narrow : Bool) : Bool :=
  if addr < 0x0080_0000 then narrow || (d.regAt addr).isNone
  else match windowDom addr with
    | some dom => write || !d.domOn dom
    | none => true

/-- The host's register blocks (R417). -/
def hostRegSpace (addr : Nat) : Bool := decide (0x2000_0000 ≤ addr) && decide (addr ≤ 0x200B_FFFF)

/-- Whether a host access outside the register blocks ends in a bus error (R337, R338). -/
def Dev.hostBusError (d : Dev) (addr : Nat) (write machine : Bool) : Bool :=
  if addr ≤ 0xFFFF ∨ 0x4000_0000 ≤ addr ∧ addr ≤ 0x43FF_FFFF then write
  else if 0x1000_0000 ≤ addr ∧ addr ≤ 0x107F_FFFF ∨ 0x1800_0000 ≤ addr ∧ addr ≤ 0x1800_FFFF ∨ 0x8000_0000 ≤ addr ∧ addr ≤ 0xF3FF_FFFF then false
  else if 0xF400_0000 ≤ addr ∧ addr ≤ 0xFFFF_FFFF then write && d.on R.HMEM_PROT.LOCK && !machine
  else true

/-- A host access to a reserved register, or a narrower one: it reads 0 or changes nothing, with HSYS event 71 (R417). -/
def Dev.hostReserved (d : Dev) (addr : Nat) (write : Bool) : Dev :=
  { d.raiseH 71 0 [addr] with lastRead := if write then d.lastRead else 0, busError := false }

/-- A host access that ends in a bus error (R337). -/
def Dev.hostError (d : Dev) (addr : Nat) : Dev := { d.raiseH 71 0 [addr] with busError := true }

/-- A bad host access; an access that is none of these has no effect here. -/
def Dev.badHost (d : Dev) (addr : Nat) (write narrow machine : Bool) : Dev :=
  if hostRegSpace addr then (if narrow || (d.regAt addr).isNone then d.hostReserved addr write else d)
  else if d.hostBusError addr write machine then d.hostError addr else d

/-! ## Accesses of the FMP and of the host cores -/

/-- A 32-bit write: of the FMP below 0x2000_0000 of its own space, of a host core above. A write to host RAM stores its bytes. -/
def Dev.busWrite (d : Dev) (addr value : Nat) : Dev :=
  if addr < 0x1000_0000 then
    if d.domOn .f1 = false then d
    else if d.isBadField addr true false then d.badField addr true
    else match d.regAt addr with
      | some r => { d.writeWord false r addr value with busError := false }
      | none => d
  else if d.domOn .h1 = false then d
  else if hostRegSpace addr then
    match d.regAt addr with
    | some r => { d.writeWord false r addr value with busError := false }
    | none => d.hostReserved addr true
  else if d.hostBusError addr true true then d.hostError addr
  else { d with hmem := Mem.writeNat d.hmem (addr / 4 * 4) 4 (value % 2 ^ 32), busError := false }

/-- A read of a memory window by the FMP (R413): staging, the capture ring and the coefficients; what the table areas and the NOR
hold at an address is not stated and is a free value (log entry 3). -/
def Dev.windowRead (d : Dev) (addr : Nat) : Dev :=
  let a := addr / 4 * 4
  if 0x0200_0000 ≤ a then { d with lastRead := Mem.readNat d.fmem (capBase + (a - 0x0200_0000)) 4 }
  else if 0x0100_0000 ≤ a then
    let c := numAt (d.st.banks.getD ((a - 0x0100_0000) / 0x0080_0000) {}).coefs (a % 0x0080_0000 / 8)
    { d with lastRead := if a % 8 = 0 then c % 2 ^ 32 else c / 2 ^ 32 % 64 }
  else if 0x00A0_0000 ≤ a ∧ a < 0x00C0_0000 then { d with lastRead := Mem.readNat d.fmem (stagingBase + (a - 0x00A0_0000)) 4 }
  else
    let q := d.drawFree (2 ^ 32)
    { q.2 with lastRead := q.1 }

/-- A 32-bit read of a register, or of a memory window by the FMP. -/
def Dev.busRead (d : Dev) (addr : Nat) : Dev :=
  if addr < 0x1000_0000 then
    if d.domOn .f1 = false then d
    else if d.isBadField addr false false then d.badField addr false
    else match d.regAt addr with
      | some r => { d.readWord r addr with busError := false }
      | none => { d.windowRead addr with busError := false }
  else if d.domOn .h1 = false then d
  else if hostRegSpace addr then
    match d.regAt addr with
    | some r => { d.readWord r addr with busError := false }
    | none => d.hostReserved addr false
  else if d.hostBusError addr false true then d.hostError addr
  else { d with lastRead := Mem.readNat d.hmem (addr / 4 * 4) 4, busError := false }

/-! ## Meanings -/

/-- REGISTER_WRITE (R7): a 32-bit write by the FMP (field address) or by a host core in machine mode. -/
def execRegisterWrite (addr value : Nat) (s : State) : Host.Outcome State Fault Refusal := done s (·.busWrite addr value)

/-- REGISTER_READ_CLEAR (R7): a 32-bit read; RC fields are cleared. -/
def execRegisterReadClear (addr : Nat) (s : State) : Host.Outcome State Fault Refusal := done s (·.busRead addr)

/-- LATCHED_PAIR_READ (R111): a read of a LO word latches its HI word; a read of a HI word returns what was latched. -/
def execLatchedPairRead (addr : Nat) (s : State) : Host.Outcome State Fault Refusal := done s (fun d => d.busRead addr)

/-- BAD_ACCESS (R414): an FMP access; one that is not bad has no effect here. -/
def execBadAccess (addr : Nat) (write narrow : Bool) (s : State) : Host.Outcome State Fault Refusal :=
  onF1 s (fun d => if d.isBadField addr write narrow then d.badField addr write else d)

/-- HOST_BAD_ACCESS (R337, R338, R417): an access by a host core, in machine mode or not. -/
def execHostBadAccess (addr : Nat) (write narrow machine : Bool) (s : State) : Host.Outcome State Fault Refusal :=
  onH1 s (·.badHost addr write narrow machine)

end Sys2Proof.Machine
end

