-- ==== Sys2Proof/Machine/Requests.lean ====
section
/-! DEFINITION. What the field side does with the host's messages: heartbeats and orders of the SAFETY class (R56, R65, R66), and
the requests of the CONTROL class with their checks, their application and their responses (R58 to R62, R76, R78, R415, R416). -/

namespace Sys2Proof.Machine

/-! ## SAFETY class -/

/-- The word of FSYS_MODE. -/
def Dev.modeWord (d : Dev) : Nat :=
  d.rd R.FSYS_MODE.MODE + d.rd R.FSYS_MODE.PREV * 2 ^ 4 + d.rd R.FSYS_MODE.CAUSE * 2 ^ 8 + d.rd R.FSYS_MODE.HOSTLOST * 2 ^ 16 +
    d.rd R.FSYS_MODE.REARM_PEND * 2 ^ 17 + d.rd R.FSYS_MODE.SHUTREC * 2 ^ 18

/-- A HEARTBEAT (R65, R66): T_hb restarts, HOSTSTATE 1 or 2 clears HOSTLOST, and HB_ACK answers. -/
def Dev.heartbeat (d : Dev) (hbSeq hostState : Nat) : Dev :=
  let d := d.takeCell .field 0x00
  let d := { d with fl := { d.fl with hbAt := d.tm.q } }
  let d := if hostState = 1 ∨ hostState = 2 then d.wr R.FSYS_MODE.HOSTLOST 0 else d
  d.sendF 0 { ty := 0x01, payload := leBytes 4 hbSeq ++ leBytes 4 d.modeWord ++ leBytes 8 d.stcNs }

/-- FSYS event 2 KIND 1: TYPE, SCOPE or OUTMASK, INDEX, MSGID, REASON (R56). -/
def Dev.orderEvent (d : Dev) (ty b0 index msgid reason : Nat) : Dev := d.raise 2 1 [ty, b0, index, msgid, reason]

/-- A trip of one output (R56, R190, R302). -/
def Dev.tripOutput (d : Dev) (n : Nat) : Dev :=
  if 2 ≤ d.outState n ∧ d.outState n ≤ 7 then d.outImmediate n 1 else (d.swTripOut n).outImmediate n 1

/-- A TRIP by its SCOPE (R56): an INDEX that names no output or group of the stream makes it a device-level trip. -/
def Dev.tripOrder (d : Dev) (scope index msgid reason : Nat) : Dev :=
  let d := (d.takeCell .field 0x02).orderEvent 0x02 scope index msgid reason
  if scope = 1 ∧ index ≤ 3 ∧ d.on (R.SHR_OUTCFG.VALID index) = true then d.tripOutput index
  else if scope = 2 ∧ index < 20 ∧ d.on (R.PWM_GRPCFG.USED index) = true then d.swTripGroups (2 ^ index)
  else d.deviceTrip

/-! ## CONTROL class: acceptance -/

/-- Greatest COUNT and bytes per entry of a request (Table 3-5). -/
def reqForm (ty : Nat) : Nat × Nat := if ty = 0x11 then (12, 4) else (6, 8)

/-- A request from the LEN bytes of its payload: FORMAT is broken where COUNT is out of range or LEN does not fit it. An entry holds
a 3-byte address and a value, or for TARGET_SET a 2-byte target number and a value. -/
def parseReq (ty : Nat) (payload : List Byte) : CtlReq :=
  let (top, size) := reqForm ty
  let count := leAt payload 2 1
  let bad := decide (count = 0) || decide (top < count) || decide (payload.length ≠ 4 + size * count)
  let entry := fun (i : Nat) => (leAt payload (4 + size * i) (if ty = 0x13 then 2 else 3), if size = 8 then leAt payload (8 + size * i) 4 else 0)
  { tag := leAt payload 0 2, ty := ty, count := count, entries := if bad then [] else (List.range count).map entry, badFormat := bad }

/-- A request accepted (R59, R62): a kept pair is answered again; a pair that still waits for its tick is not taken twice. -/
def Dev.ctlAccept (d : Dev) (ty : Nat) (payload : List Byte) : Dev :=
  let d := d.takeCell .field ty
  let q := parseReq ty payload
  match d.keptRsp q.tag ty with
  | some m => d.sendF 1 m
  | none =>
    if d.fl.reqs.any (fun r => r.tag == q.tag && r.ty == ty) || d.fl.done.any (fun r => r.req.tag == q.tag && r.req.ty == ty) then d
    else { d with fl := { d.fl with reqs := d.fl.reqs ++ [q] } }

/-! ## Checks (R58) -/

/-- The stream whose tables check a request: none without an active stream, the outgoing one in the swap tick (R16). -/
def Dev.checkStream (d : Dev) : Option StreamData :=
  if d.streamActive then some (if d.ce.swapTick then d.standby else d.act) else none

/-- The permission table (R76): PERM 6, MODE 7, or 0. -/
def Dev.permCode (d : Dev) (x : StreamData) (wr : Bool) (r : RegDesc) (addr v : Nat) : Nat :=
  match x.perms.find? (fun p => decide (p.first ≤ addr) && decide (addr ≤ p.last)) with
  | none => 6
  | some p =>
    let forbidden := 2 ^ 32 - 1 - p.wmask
    let hit := match r.kind with
      | .rw | .rwl => Nat.land (Nat.xor v (d.peek r addr)) forbidden
      | _ => Nat.land v forbidden
    if wr && decide (hit ≠ 0) then 6
    else if testBit (if wr then p.wrModes else p.rdModes) d.mode.code then 0 else 7

/-- A write that the metrology seal forbids (R7, R43). -/
def Dev.sealedCode (d : Dev) (r : RegDesc) (addr v : Nat) : Bool :=
  (decide (r.kind = .rwl) && d.rwlSealed) ||
  ((decide (addr = R.MET_CTL.EN.addr) || decide (addr = R.BIL_CTL.EN.addr)) && !testBit v 0 && d.sealHolds)

/-- STATUS of one PARAM entry, in the order NOSTREAM, WINDOW, NOREG, READONLY, SEALED, PERM, MODE (R58, R61). CTR_START is written by
the FMP alone. -/
def Dev.paramCode (d : Dev) (st : Option StreamData) (wr : Bool) (addr v : Nat) : Nat :=
  if st.isNone && wr && decide (addr / 0x10000 ≠ 1) && decide (addr / 0x10000 ≠ 2) then 8
  else if 0x80_0000 ≤ addr then 2
  else match d.regAt addr with
    | none => 3
    | some r =>
      let k := r.kind
      let readOnly := decide (k = .ro) || decide (k = .rc) || decide (k = .rws) || decide (addr = R.CTR_START.SEQ.addr)
      if (wr && readOnly) || (!wr && decide (k = .wo)) then 4
      else if wr && d.sealedCode r addr v then 5
      else match st with
        | some x => d.permCode x wr r addr v
        | none => 0

/-- STATUS of one TARGET_SET entry, in the order NOSTREAM, TARGET, PERM, MODE (R58, R78). -/
def Dev.targetCode (d : Dev) (st : Option StreamData) (num : Nat) : Nat :=
  match st with
  | none => 8
  | some x =>
    match x.targets.find? (fun t => t.number == num) with
    | none => 9
    | some t => if t.wrModes = 0 then 6 else if testBit t.wrModes d.mode.code then 0 else 7

/-- STATUS and INDEX of the first entry that fails; 0 and 0xFF when none does (R415). -/
def firstFail (code : Nat × Nat → Nat) : Nat → List (Nat × Nat) → Nat × Nat
  | _, [] => (0, 0xFF)
  | i, e :: es => if code e = 0 then firstFail code (i + 1) es else (code e, i)

/-- STATUS and INDEX of a request; FORMAT concerns the cell as a whole. -/
def Dev.reqStatus (d : Dev) (q : CtlReq) : Nat × Nat :=
  if q.badFormat then (1, 0xFF)
  else
    let st := d.checkStream
    firstFail (fun e => if q.ty = 0x13 then d.targetCode st e.1 else d.paramCode st (q.ty = 0x10) e.1 e.2) 0 q.entries

/-! ## Application -/

/-- One entry of an accepted PARAM_WR. -/
def Dev.paramWrite (d : Dev) (addr v : Nat) : Dev :=
  match d.regAt addr with
  | some r => d.writeWord true r addr v
  | none => d

/-- One entry of an accepted TARGET_SET (R78); in the swap tick the value is clamped to the outgoing record and then to the incoming
one, and lapses where the incoming stream lacks the number (R16, R94). -/
def Dev.targetSet (d : Dev) (st : StreamData) (num v : Nat) : Dev :=
  match st.targets.find? (fun t => t.number == num) with
  | none => d
  | some t =>
    let q := d.targetClamp t (signed v 32)
    if d.ce.swapTick then
      match d.act.targets.find? (fun t => t.number == num) with
      | some t' => let q' := q.2.targetClamp t' q.1; q'.2.targetPut t' q'.1
      | none => q.2
    else q.2.targetPut t q.1

/-- An accepted request applied in entry order (R416); in the swap tick the words that the incoming stream sets stand (R16). -/
def Dev.reqApply (d : Dev) (q : CtlReq) : Dev :=
  if q.ty = 0x10 then
    let d := d.forAll q.entries (fun d e => d.paramWrite e.1 e.2)
    if d.ce.swapTick then d.streamWords (q.entries.map (·.1)) else d
  else if q.ty = 0x13 then
    match d.checkStream with
    | some st => d.forAll q.entries (fun d e => d.targetSet st e.1 e.2)
    | none => d
  else d

/-- The requests that wait are checked, each against the state that those before it left, and applied; all are answered at W. -/
def Dev.reqsTake (d : Dev) : Dev :=
  let reqs := d.fl.reqs
  ({ d with fl := { d.fl with reqs := [] } }).forAll reqs (fun d q =>
    let c := d.reqStatus q
    let d := { d with fl := { d.fl with done := d.fl.done ++ [({ req := q, status := c.1, index := c.2 } : CtlDone)] } }
    if c.1 = 0 then d.reqApply q else d)

/-! ## Responses -/

/-- One entry of a PARAM_RD (R59): RC fields are cleared. The STC_NOW words of a PARAM_RD are all read at one cycle (R111). -/
def Dev.paramRead (d : Dev) (addr : Nat) : Nat × Dev :=
  if addr = R.STC_NOW_LO.NS.addr then (d.stcNs % 2 ^ 32, d)
  else if addr = R.STC_NOW_HI.NS.addr then (d.stcNs / 2 ^ 32, d)
  else if addr = R.STC_NOW_FR.FR.addr then (d.stcFr, d)
  else match d.regAt addr with
    | some r =>
      let e := d.readWord r addr
      (e.lastRead, { e with lastRead := d.lastRead })
    | none => (0, d)

/-- The words of a PARAM_RD in entry order. -/
def Dev.paramReads (d : Dev) : List (Nat × Nat) → List Nat × Dev
  | [] => ([], d)
  | e :: es =>
    let q := d.paramRead e.1
    let rest := q.2.paramReads es
    (q.1 :: rest.1, rest.2)

/-- Every checked request answered in order of acceptance; `s` is the STC of S of the tick applied (Table 3-5). -/
def Dev.reqsAnswer (d : Dev) (s : Nat) : Dev :=
  let ds := d.fl.done
  ({ d with fl := { d.fl with done := [] } }).forAll ds (fun d x =>
    let q := x.req
    if x.status ≠ 0 then d.respond q.tag x.status x.index q.count q.ty []
    else if q.ty = 0x11 then
      let r := d.paramReads q.entries
      r.2.respond q.tag 0 0xFF q.count q.ty (r.1.flatMap (leBytes 4))
    else d.respond q.tag 0 0xFF q.count q.ty (leBytes 8 s))

/-! ## Meanings -/

/-- HEARTBEAT (R66). -/
def execHeartbeat (hbSeq hostState : Nat) (s : State) : Host.Outcome State Fault Refusal := onF1 s (·.heartbeat hbSeq hostState)

/-- TRIP_DEVICE (R56): a TRIP of SCOPE 0, or of a SCOPE from 3 to 255 (a SCOPE of 1 or 2 acts by its INDEX). -/
def execTripDevice (scope index msgid reason : Nat) (s : State) : Host.Outcome State Fault Refusal :=
  onF1 s (·.tripOrder scope index msgid reason)

/-- TRIP_OUTPUT (R56, R190). -/
def execTripOutput (index msgid reason : Nat) (s : State) : Host.Outcome State Fault Refusal := onF1 s (·.tripOrder 1 index msgid reason)

/-- TRIP_LEG_GROUP (R56, R190). -/
def execTripLegGroup (index msgid reason : Nat) (s : State) : Host.Outcome State Fault Refusal := onF1 s (·.tripOrder 2 index msgid reason)

/-- QUENCH_ALL (R56). -/
def execQuenchAll (msgid reason : Nat) (s : State) : Host.Outcome State Fault Refusal :=
  onF1 s (fun d => ((d.takeCell .field 0x03).orderEvent 0x03 0 0 msgid reason).quenchAll)

/-- QUENCH_OUT (R56, R303). -/
def execQuenchOut (mask : Fin 16) (msgid reason : Nat) (s : State) : Host.Outcome State Fault Refusal :=
  onF1 s (fun d => ((d.takeCell .field 0x04).orderEvent 0x04 mask 0 msgid reason).forAll (bitsOf 4 mask) (fun d n => d.outQuench n none))

/-- PARAM_WR: the LEN bytes of its payload (R59). -/
def execParamWr (payload : List Byte) (s : State) : Host.Outcome State Fault Refusal := onF1 s (·.ctlAccept 0x10 payload)

/-- PARAM_RD: the LEN bytes of its payload (R59). -/
def execParamRd (payload : List Byte) (s : State) : Host.Outcome State Fault Refusal := onF1 s (·.ctlAccept 0x11 payload)

/-- TARGET_SET: the LEN bytes of its payload (R78). -/
def execTargetSet (payload : List Byte) (s : State) : Host.Outcome State Fault Refusal := onF1 s (·.ctlAccept 0x13 payload)

end Sys2Proof.Machine
end

