-- ==== Sys2Proof/Machine/Tick.lean ====
section
/-! DEFINITION. The control tick (chapters 1, 5 and 6): the sample instant S, the latch, the write phase W, steps of the STC,
the 10 µs grid without a stream, and whole STC milliseconds. -/

namespace Sys2Proof.Machine

/-! ## Steps of the STC (R104) -/

/-- A time held in steps, moved with the STC by `n` steps. -/
def shiftQ (n : Int) (x : Nat) : Nat := ((x : Int) + n).toNat

/-- A time held in STC ns, moved with the STC by `n` steps. -/
def shiftNs (n : Int) (x : Nat) : Nat := ((x : Int) + divf (5 * n) 2).toNat

/-- Intervals that run on through a step keep their length: their starts move with the STC. -/
def Dev.intervalsShift (d : Dev) (n : Int) : Dev :=
  let legs := d.pwm.legs.map (fun (l : LegRt) => { l with p := 0, t0 := 0, aOn := shiftQ (64 * n) l.aOn, bOn := shiftQ (64 * n) l.bOn, seen := shiftQ (64 * n) l.seen })
  let inputs := d.pwm.inputs.map (fun (t : TripRt) => { t with fell := shiftNs n t.fell, rose := shiftNs n t.rose })
  let pwm := { d.pwm with legs := legs, inputs := inputs, trgOut := d.pwm.trgOut.map (shiftNs n) }
  let stk := { d.stk with faultAt := shiftNs n d.stk.faultAt, owAt := shiftNs n d.stk.owAt, izeroAt := d.stk.izeroAt.map (shiftNs n) }
  { d with
    fl := { d.fl with hbAt := shiftQ n d.fl.hbAt, autoAt := shiftQ n d.fl.autoAt }
    tm := { d.tm with holdAt := shiftQ n d.tm.holdAt }
    pwm := pwm
    shr := { d.shr with validSince := d.shr.validSince.map (shiftNs n) }
    rt := { d.rt with zeroAt := d.rt.zeroAt.map (shiftNs n) }
    svg := { d.svg with gs := d.svg.gs.map (fun (g : GsRt) => { g with at' := shiftNs n g.at' }) }
    out := d.out.map (fun (o : OutRt) => { o with izeroAt := o.izeroAt.map (shiftNs n) })
    cbl := d.cbl.map (fun (c : CableRt) => { c with tachAt := c.tachAt.map (shiftNs n) })
    stk := stk }

/-- What is aligned to the STC goes on at the new STC: converter slots and scan instants (R199, R201), the insulation monitors'
high halves (R211). -/
def Dev.gridsRealign (d : Dev) : Dev :=
  let ns := d.stcNs
  let done := (List.range 68).map (fun item =>
    let conv := if item < 64 then item % 32 / 16 else (item - 64) / 2
    min (numAt d.fba.dueDone item) (dueCount (d.scanPeriod item) ((scanList conv).idxOf item) ns))
  let d := { d with fba := { d.fba with slot := [0, 0], dueDone := done } }
  d.forAll [0, 1, 2, 3] (fun d n =>
    let p := 2 * clampNat (d.rd (R.IMD_CFG.HP n)) 100 10000 * 1000000
    if d.rd (R.IMD_CTL.STATUS n) = 0 then d
    else d.setImd n { d.imdRt n with first := (ns + p - 1) / p * p, half := 0, samples := [], xp := none })

/-- A pending step is applied (R104): the step itself, what it does to sessions (R291), and the milliseconds it jumps over. -/
def Dev.stepNow (d : Dev) (e16 : Int) (sec : Bool) : Dev :=
  let q0 := d.tm.q
  let d := d.stcStepApply e16 sec
  let n : Int := (d.tm.q : Int) - q0
  let d := ((d.intervalsShift n).gridsRealign).sessStepped (divz (5 * n) 2)
  let ms := d.tm.q / 400000
  { d with tm := { d.tm with lastMs := max d.tm.lastMs ms }, ce := { d.ce with gateNext := max d.ce.gateNext (ms + 1) } }

/-- Whether a step waits and can be made (R103). -/
def Dev.stepDue (d : Dev) : Bool := d.tm.step.isSome && d.stepModeOk && !d.legsSwitch

/-- The step that waits, made. -/
def Dev.stepTake (d : Dev) : Dev :=
  match d.tm.step with
  | some (e16, sec) => d.stepNow e16 sec
  | none => d

/-! ## The sample instant -/

/-- The next S (R97): the first grid point from now on that lies at least one tick after the last S or step. -/
def Dev.nextS (d : Dev) (atLeast : Nat) : Nat :=
  let t := max 1 d.act.timing.tick
  let ph := d.act.timing.phase
  let from' := max (max d.tm.q (d.pwm.lastS + t)) (max atLeast ph)
  (from' - ph + t - 1) / t * t + ph

/-- Debug halt at S (R115): outside SERVICE it clears; HALTED ends when HALT is 0, or runs one tick for a STEP. The Bool says that
the CE runs in the tick. -/
def Dev.haltAtS (d : Dev) : Dev × Bool :=
  let live := d.ceLive
  let d := if d.mode = .service then d else { d with ce := { d.ce with stepReq := false, stepping := false } }
  if live = false then (d, false)
  else if d.rd R.CEN_STAT.RUN = 2 ∧ d.mode = .service ∧ d.on R.CEN_DBG.HALT = true then
    if d.ce.stepReq then ({ d with ce := { d.ce with stepReq := false, stepping := true } }, true) else (d, false)
  else (d.wr R.CEN_STAT.RUN 1, true)

/-- Work at S of a tick in which the CE runs: MAN requests, variant changes, encoder counts (R135, R156, R147). -/
def Dev.ceAtS (d : Dev) : Dev := (d.manAtS.varAtS).axesAtS

/-- The last S noted at the present step count. -/
def Dev.lastSNow (d : Dev) : Dev := { d with pwm := { d.pwm with lastS := d.tm.q } }

/-- The tick that begins at step count `q`: its index k, whether it runs the STC-gated slots, and no work left of the tick before. -/
def Dev.tickBegin (d : Dev) (q : Nat) : Dev :=
  let d := d.advanceTo q
  let ms := d.tm.q / 400000
  let gate := decide (400000 * d.ce.gateNext ≤ d.tm.q)
  let k := (d.tm.q - d.act.timing.phase) / max 1 d.act.timing.tick
  let next := if gate then ms + 1 else d.ce.gateNext
  let ce := { d.ce with k := k, gateDue := gate, gateNext := next, latchDue := false, wDue := false, runTick := false, todo := [] }
  { d with ce := ce, pwm := { d.pwm with lastS := d.tm.q } }

/-- What S does once the mode and the swap are settled: the CE's work at S where it runs, routing, holds, carrier multiples, converters
and outputs, sessions and waiting injections; then whether a CE block is engaged. -/
def Dev.tickWork (d : Dev) (run blockSwitch : Bool) : Dev :=
  let d := d.when run Dev.ceAtS
  let d := ((d.routeAtS.legsHold).grpDivAtS).when run Dev.fbaAtS
  let d := (d.outsAtS.sessAtS).injWaiting
  { d with pw := { d.pw with engaged := d.engagedNow blockSwitch } }

/-- The end of S: an abandoned tick takes its step (R104), any other waits for its latch. -/
def Dev.tickEnd (d : Dev) (abandon run : Bool) : Dev :=
  if abandon then d.stepTake.lastSNow
  else if d.streamActive then { d with ce := { d.ce with latchDue := true, runTick := run && d.ceLive } }
  else d

/-- S of a tick at step count `q` (R29, R91, R97, R299); `blockSwitch` says that the front-end or DC/DC block has switching
enabled (R27). -/
def Dev.sampleInstant (d : Dev) (q : Nat) (blockSwitch : Bool) : Dev :=
  let m := (d.tickBegin q).swapDone.modeAtS
  let abandon := m.1.stepDue
  let h := (m.1.when (m.1.domOn .f2 && !abandon) (·.swapAtS m.2)).haltAtS
  (h.1.tickWork (h.2 && !abandon) blockSwitch).tickEnd abandon (h.2 && !abandon)

/-- SAMPLE_INSTANT: the next S of the tick grid. -/
def Dev.sampleNext (d : Dev) (blockSwitch : Bool) : Dev :=
  if d.streamActive && d.domOn .f1 then d.sampleInstant (d.nextS 0) blockSwitch else d

/-- STREAM_SWAP: S of the swap tick, the first at or after STS_SWAPAT (R90, R91). -/
def Dev.sampleSwap (d : Dev) : Dev :=
  if d.streamActive && d.domOn .f1 && decide (d.rd R.STS_SWAPSTAT.STATE = 1) then d.sampleInstant (d.nextS (stepsOfNs d.swapAt)) false else d

/-- STC_STEP: at the next S of the tick grid, or at the next cycle while no stream is active. -/
def Dev.sampleStep (d : Dev) : Dev :=
  if d.domOn .f1 && d.stepDue then (if d.streamActive then d.sampleInstant (d.nextS 0) false else d.stepTake) else d

/-! ## The latch -/

/-- Sub-rate slots that run in the tick (R79, R21), in ascending SLOT order. -/
def Dev.dueSlots (d : Dev) : List SubSlot :=
  let due := d.act.slots.filter (fun (s : SubSlot) => if s.kind = 1 then d.ce.gateDue else decide (0 < s.n) && decide (d.ce.k % s.n = s.phase))
  (List.range 64).flatMap (fun n => due.filter (fun (s : SubSlot) => s.slot == n))

/-- The tick's computation begins (R112, R114): MAN changes, PRESET work, the damper, then the tick's code waits to run. -/
def Dev.computeBegin (d : Dev) : Dev :=
  let slots := d.dueSlots
  let d := (d.manApply (fun n => slots.any (fun (s : SubSlot) => s.slot == n))).presetWork
  let d := d.damperLatch
  { d with ce := { d.ce with todo := d.act.main ++ slots.flatMap (fun (s : SubSlot) => s.code) } }

/-- MEASUREMENT_LATCH: S + t_meas (R112); `window` gives each modulator input's bits. -/
def Dev.latchInstant (d : Dev) (window : Nat → List Bool) : Dev :=
  if d.ce.latchDue then
    let d := d.advanceTo (d.pwm.lastS + (d.act.tmeas + 1) / 2)
    let d := { d with ce := { d.ce with latchDue := false, wDue := true } }
    let d := d.when d.ce.runTick (fun d => (d.measLatch window).axesStandstill)
    let d := d.reqsTake
    if d.ce.runTick then d.computeBegin else d
  else d

/-! ## W -/

/-- The actuation transfer in one cycle (R112, R174); none once a damaged word was read (R125). -/
def Dev.actuate (d : Dev) : Dev := if d.on R.CEN_STAT.DAMAGED then d else d.forAll d.act.acts Dev.actTransfer

/-- The snapshot (R113), and the dampers as used in the tick (Table 1-3). -/
def Dev.snapshot (d : Dev) : Dev :=
  let d := { d with ce := { d.ce with snap := d.ce.sig, bqSnap := d.ce.bq } }
  d.forAll [0, 1, 2, 3] (fun d n => d.wrS (R.OUT_DAMPER.PD n) (d.sig (0x1F0 + 4 * n)))

/-- Units that read the snapshot at W. -/
def Dev.unitsAtW (d : Dev) : Dev :=
  let ms := 5 * d.pwm.lastS / 2 / 1000000
  let d := d.dgrAtW.when d.ce.gateDue (·.imbalanceMs ms)
  let d := ((d.ctrAtW).tlmAtW).routeAtW
  let d := (d.outsAtW).stkAtW
  let d := (d.cablesAtW d.ce.gateDue).capAtW
  d.capFeed (d.on R.FTHM_STAT.THROTTLE)

/-- CEN_DBG at W (R115): a single-stepped tick ends halted, a written HALT takes effect; CEN event 19. -/
def Dev.haltAtW (d : Dev) : Dev :=
  if d.ce.stepping then (({ d with ce := { d.ce with stepping := false } }).wr R.CEN_STAT.RUN 2).raise 19 0 []
  else if d.on R.CEN_DBG.HALT && decide (d.mode = .service) && decide (d.rd R.CEN_STAT.RUN = 1) then (d.wr R.CEN_STAT.RUN 2).raise 19 0 []
  else d

/-- W of a tick in which the CE runs: the rest of the tick's code ends by W (R112). -/
def Dev.ceAtW (d : Dev) : Dev := (((((d.ceRunRest.manualAtW).actuate).snapshot).unitsAtW).xferAtW).haltAtW

/-- WRITE_PHASE: W of the tick (R112, R113), and the answers to the tick's requests (R59). -/
def Dev.writePhase (d : Dev) : Dev :=
  if d.ce.wDue then
    let s := 5 * d.pwm.lastS / 2
    let d := d.advanceTo (d.pwm.lastS + (d.act.timing.w + 1) / 2)
    let d := { d with ce := { d.ce with wDue := false } }
    let d := if d.ce.runTick then d.ceAtW else d.requestsIdle
    ({ d with ce := { d.ce with runTick := false } }).reqsAnswer s
  else d

/-! ## Without a stream, and whole milliseconds -/

/-- TEN_US_GRID: a whole 10 µs of the STC while no stream is active (R29, R59, R61, R299). -/
def Dev.tenUs (d : Dev) : Dev :=
  if d.domOn .f1 && !d.streamActive then
    let d := d.advanceTo ((d.tm.q / 4000 + 1) * 4000)
    let d := d.modeAtS.1
    let d := (d.outsAtS.sessAtS).injWaiting
    let d := { d with pw := { d.pw with engaged := d.engagedNow false } }
    let d := d.reqsTake.requestsIdle
    d.reqsAnswer d.stcNs
  else d

/-- One TIME_SYNC for the whole millisecond (R57); one that still waits for its slot stands for it. -/
def Dev.timeSyncSend (d : Dev) : Dev :=
  if (d.fl.f2h.queue.getD 1 []).any (fun m => m.ty == 0x15) then d
  else
    let stat := leBytes 1 (d.rd R.STC_STAT.STATE) ++ leBytes 1 (d.rd R.STC_STAT.SOURCE)
    d.sendF 1 { ty := 0x15, payload := leBytes 8 d.stcNs ++ leBytes 4 d.stcFr ++ stat ++ leBytes 2 (d.rd R.STC_UTCOFS.OFS) ++ leBytes 4 d.estErr }

/-- STC_MILLISECOND (R98, R104): keys that govern from here (R376), the share frame (R219, R220), gate lists (R246), TIME_SYNC. -/
def Dev.stcMs (d : Dev) : Dev :=
  if d.domOn .f1 then
    let ms := max (d.tm.lastMs + 1) ((d.tm.q + 399999) / 400000)
    let d := d.advanceTo (400000 * ms)
    let d := { d with tm := { d.tm with lastMs := ms } }
    let d := d.keysGovern.when (d.domOn .f4) (fun d => (d.shrFrame ms).gclMs)
    d.timeSyncSend.ashSent
  else d

/-! ## Meanings -/

/-- SAMPLE_INSTANT (R29). -/
def execSampleInstant (blockSwitch : Bool) (s : State) : Host.Outcome State Fault Refusal := done s (·.sampleNext blockSwitch)

/-- STREAM_SWAP (R91). -/
def execStreamSwap (s : State) : Host.Outcome State Fault Refusal := done s Dev.sampleSwap

/-- STC_STEP (R104). -/
def execStcStep (s : State) : Host.Outcome State Fault Refusal := done s Dev.sampleStep

/-- PPS_IN_EDGE (R100): the capture in 1/16 ns; injection point 8 makes the edge be ignored (Table 21-1). -/
def execPpsInEdge (cap : Nat) (s : State) : Host.Outcome State Fault Refusal :=
  onF1 s (fun d => ((d.ppsEdge cap (d.isInjected 8 0)).injUse 8 0))

/-- STC_MILLISECOND (R98). -/
def execStcMillisecond (s : State) : Host.Outcome State Fault Refusal := done s Dev.stcMs

/-- TEN_US_GRID (R299). -/
def execTenUsGrid (s : State) : Host.Outcome State Fault Refusal := done s Dev.tenUs

/-- MEASUREMENT_LATCH (R112): the modulator bits of each control-path window, by input. -/
def execMeasurementLatch (bits : List (Nat × List Bool)) (s : State) : Host.Outcome State Fault Refusal :=
  done s (·.latchInstant (fun n => ((bits.find? (fun w => w.1 == n)).map (·.2)).getD []))

/-- WRITE_PHASE (R112). -/
def execWritePhase (s : State) : Host.Outcome State Fault Refusal := done s Dev.writePhase

end Sys2Proof.Machine
end

