-- ==== Sys2Proof/Machine/Dispatch.lean ====
section
/-! DEFINITION. One arm per command: the meaning of the command, or its rejection by name. -/

namespace Sys2Proof.Machine

def exec (i : Instr) (s : State) : Host.Outcome State Fault Refusal :=
  match i with
  | .powerOnReset side => Sys2Proof.Machine.execPowerOnReset side s
  | .supplyMonitorReset side => Sys2Proof.Machine.execSupplyMonitorReset side s
  | .batterySwitchover side toBattery => Sys2Proof.Machine.execBatterySwitchover side toBattery s
  | .watchdogService side value => Sys2Proof.Machine.execWatchdogService side value s
  | .watchdogStage1 side => Sys2Proof.Machine.execWatchdogStage1 side s
  | .watchdogStage2Field => Sys2Proof.Machine.execWatchdogStage2Field s
  | .watchdogStage2Host => Sys2Proof.Machine.execWatchdogStage2Host s
  | .swFmp key => Sys2Proof.Machine.execSwFmp key s
  | .swField key => Sys2Proof.Machine.execSwField key s
  | .swWarm key => Sys2Proof.Machine.execSwWarm key s
  | .swCold key => Sys2Proof.Machine.execSwCold key s
  | .lsFmp => Sys2Proof.Machine.execLsFmp s
  | .lsMet => Sys2Proof.Machine.execLsMet s
  | .ceLockstepMismatch => Sys2Proof.Machine.execCeLockstepMismatch s
  | .lsEnc => Sys2Proof.Machine.execLsEnc s
  | .thermalReset side => Sys2Proof.Machine.execThermalReset side s
  | .fmpRestartComplete => Sys2Proof.Machine.execFmpRestartComplete s
  | .bootComplete selfTest image => Sys2Proof.Machine.execBootComplete selfTest image s
  | .modeReq tag target => Sys2Proof.Machine.execModeReq tag target s
  | .reArm tag target ack => Sys2Proof.Machine.execReArm tag target ack s
  | .fsysModereq target => Sys2Proof.Machine.execFsysModereq target s
  | .fsysModereqRearm target => Sys2Proof.Machine.execFsysModereqRearm target s
  | .sampleInstant blockSwitch => Sys2Proof.Machine.execSampleInstant blockSwitch s
  | .tHbExpiry => Sys2Proof.Machine.execTHbExpiry s
  | .tAutoExpiry => Sys2Proof.Machine.execTAutoExpiry s
  | .quenchLimitExpiry => Sys2Proof.Machine.execQuenchLimitExpiry s
  | .blockDisableRequest block => Sys2Proof.Machine.execBlockDisableRequest block s
  | .blockEnableRequest block => Sys2Proof.Machine.execBlockEnableRequest block s
  | .drainComplete block => Sys2Proof.Machine.execDrainComplete block s
  | .flueLinkUp => Sys2Proof.Machine.execFlueLinkUp s
  | .flueRetrain sender lane fails => Sys2Proof.Machine.execFlueRetrain sender lane fails s
  | .flueCellSlot sender => Sys2Proof.Machine.execFlueCellSlot sender s
  | .flueCellReceive receiver cell => Sys2Proof.Machine.execFlueCellReceive receiver cell s
  | .heartbeat hbSeq hostState => Sys2Proof.Machine.execHeartbeat hbSeq hostState s
  | .hbAck hbSeq modeWord stc => Sys2Proof.Machine.execHbAck hbSeq modeWord stc s
  | .tripDevice scope index msgid reason => Sys2Proof.Machine.execTripDevice scope index msgid reason s
  | .tripOutput index msgid reason => Sys2Proof.Machine.execTripOutput index msgid reason s
  | .tripLegGroup index msgid reason => Sys2Proof.Machine.execTripLegGroup index msgid reason s
  | .quenchAll msgid reason => Sys2Proof.Machine.execQuenchAll msgid reason s
  | .quenchOut mask msgid reason => Sys2Proof.Machine.execQuenchOut mask msgid reason s
  | .paramWr payload => Sys2Proof.Machine.execParamWr payload s
  | .paramRd payload => Sys2Proof.Machine.execParamRd payload s
  | .targetSet payload => Sys2Proof.Machine.execTargetSet payload s
  | .paramRsp tag status index count ty values => Sys2Proof.Machine.execParamRsp tag status index count ty values s
  | .timeSync stc fr state source utc err => Sys2Proof.Machine.execTimeSync stc fr state source utc err s
  | .event number kind count first last data => Sys2Proof.Machine.execEvent number kind count first last data s
  | .telemetry block inst window ms values => Sys2Proof.Machine.execTelemetry block inst window ms values s
  | .recordReady output kind number stc => Sys2Proof.Machine.execRecordReady output kind number stc s
  | .imgCtrlBegin xfer length => Sys2Proof.Machine.execImgCtrlBegin xfer length s
  | .imgData xfer offset bytes => Sys2Proof.Machine.execImgData xfer offset bytes s
  | .imgCtrlEnd xfer digest => Sys2Proof.Machine.execImgCtrlEnd xfer digest s
  | .imgCtrlAbort xfer => Sys2Proof.Machine.execImgCtrlAbort xfer s
  | .imgStat xfer status => Sys2Proof.Machine.execImgStat xfer status s
  | .streamValidationComplete damaged => Sys2Proof.Machine.execStreamValidationComplete damaged s
  | .stsPersist value => Sys2Proof.Machine.execStsPersist value s
  | .persistComplete readBack => Sys2Proof.Machine.execPersistComplete readBack s
  | .stsSwapctlArm => Sys2Proof.Machine.execStsSwapctlArm s
  | .stsSwapctlCancel => Sys2Proof.Machine.execStsSwapctlCancel s
  | .streamSwap => Sys2Proof.Machine.execStreamSwap s
  | .ppsInEdge cap => Sys2Proof.Machine.execPpsInEdge cap s
  | .ppsMissingSecond => Sys2Proof.Machine.execPpsMissingSecond s
  | .ptpMessage port rx m => Sys2Proof.Machine.execPtpMessage port rx m s
  | .pdelayReqSend port => Sys2Proof.Machine.execPdelayReqSend port s
  | .ptpOffsetSample port ofs => Sys2Proof.Machine.execPtpOffsetSample port ofs s
  | .ptpSampleTimeout port => Sys2Proof.Machine.execPtpSampleTimeout port s
  | .servoSampleTimeout => Sys2Proof.Machine.execServoSampleTimeout s
  | .stcStep => Sys2Proof.Machine.execStcStep s
  | .esterrLimit => Sys2Proof.Machine.execEsterrLimit s
  | .stcSecond => Sys2Proof.Machine.execStcSecond s
  | .ppsOutFall => Sys2Proof.Machine.execPpsOutFall s
  | .stcSetsecHiArm value => Sys2Proof.Machine.execStcSetsecHiArm value s
  | .stcNowLoRead => Sys2Proof.Machine.execStcNowLoRead s
  | .stcMillisecond => Sys2Proof.Machine.execStcMillisecond s
  | .tenUsGrid => Sys2Proof.Machine.execTenUsGrid s
  | .measurementLatch bits => Sys2Proof.Machine.execMeasurementLatch bits s
  | .writePhase => Sys2Proof.Machine.execWritePhase s
  | .ceMvm a ecc => Sys2Proof.Machine.execCeMvm a ecc s
  | .ceMva a ecc => Sys2Proof.Machine.execCeMva a ecc s
  | .ceWb a ecc => Sys2Proof.Machine.execCeWb a ecc s
  | .ceVadd a ecc => Sys2Proof.Machine.execCeVadd a ecc s
  | .ceVsub a ecc => Sys2Proof.Machine.execCeVsub a ecc s
  | .ceVlim a ecc => Sys2Proof.Machine.execCeVlim a ecc s
  | .ceMov a ecc => Sys2Proof.Machine.execCeMov a ecc s
  | .ceLut a ecc => Sys2Proof.Machine.execCeLut a ecc s
  | .ceSlew a ecc => Sys2Proof.Machine.execCeSlew a ecc s
  | .ceBq a ecc => Sys2Proof.Machine.execCeBq a ecc s
  | .ceResid a ecc => Sys2Proof.Machine.execCeResid a ecc s
  | .ceFerr a ecc => Sys2Proof.Machine.execCeFerr a ecc s
  | .ceIdle a => Sys2Proof.Machine.execCeIdle a s
  | .ceEnd a => Sys2Proof.Machine.execCeEnd a s
  | .cenDbgHalt halt => Sys2Proof.Machine.execCenDbgHalt halt s
  | .cenDbgStep => Sys2Proof.Machine.execCenDbgStep s
  | .lawManWrite block value => Sys2Proof.Machine.execLawManWrite block value s
  | .encoderTransition axis a b => Sys2Proof.Machine.execEncoderTransition axis a b s
  | .encoderIndexEdge axis => Sys2Proof.Machine.execEncoderIndexEdge axis s
  | .axisEnable axis => Sys2Proof.Machine.execAxisEnable axis s
  | .axisDisable axis => Sys2Proof.Machine.execAxisDisable axis s
  | .axisClr axis => Sys2Proof.Machine.execAxisClr axis s
  | .stoptimeExpiry axis => Sys2Proof.Machine.execStoptimeExpiry axis s
  | .dgrVarreq block value => Sys2Proof.Machine.execDgrVarreq block value s
  | .dgrLostWrite block value => Sys2Proof.Machine.execDgrLostWrite block value s
  | .legSheddingEvaluation => Sys2Proof.Machine.execLegSheddingEvaluation s
  | .periodStart leg => Sys2Proof.Machine.execPeriodStart leg s
  | .pwmGrpdivWrite group value => Sys2Proof.Machine.execPwmGrpdivWrite group value s
  | .pwmForceWrite leg value => Sys2Proof.Machine.execPwmForceWrite leg value s
  | .tripInputFall input => Sys2Proof.Machine.execTripInputFall input s
  | .tripQualification input => Sys2Proof.Machine.execTripQualification input s
  | .tripInputRise input => Sys2Proof.Machine.execTripInputRise input s
  | .trpClr word value => Sys2Proof.Machine.execTrpClr word value s
  | .trpSwclr value => Sys2Proof.Machine.execTrpSwclr value s
  | .syncInEdge cap => Sys2Proof.Machine.execSyncInEdge cap s
  | .syncInMissing => Sys2Proof.Machine.execSyncInMissing s
  | .syncInEnable => Sys2Proof.Machine.execSyncInEnable s
  | .syncInDisable => Sys2Proof.Machine.execSyncInDisable s
  | .triggerCompare group cmp => Sys2Proof.Machine.execTriggerCompare group cmp s
  | .modConditionPresent kind index => Sys2Proof.Machine.execModConditionPresent kind index s
  | .modConditionEnd kind index => Sys2Proof.Machine.execModConditionEnd kind index s
  | .fbaConversionSlot conv raw => Sys2Proof.Machine.execFbaConversionSlot conv raw s
  | .ctrStart seq => Sys2Proof.Machine.execCtrStart seq s
  | .ctrSequencerBoundary fb => Sys2Proof.Machine.execCtrSequencerBoundary fb s
  | .ctrStepTimeout engine => Sys2Proof.Machine.execCtrStepTimeout engine s
  | .coilMismatch coil => Sys2Proof.Machine.execCoilMismatch coil s
  | .imdEnable ch => Sys2Proof.Machine.execImdEnable ch s
  | .imdHalfPeriodEnd ch => Sys2Proof.Machine.execImdHalfPeriodEnd ch s
  | .demandRecordTransmit => Sys2Proof.Machine.execDemandRecordTransmit s
  | .demandRecord payload => Sys2Proof.Machine.execDemandRecord payload s
  | .shareCutoff => Sys2Proof.Machine.execShareCutoff s
  | .shrNextatArm value => Sys2Proof.Machine.execShrNextatArm value s
  | .thermalDerateStep => Sys2Proof.Machine.execThermalDerateStep s
  | .routingPlan => Sys2Proof.Machine.execRoutingPlan s
  | .routingZeroTimeout => Sys2Proof.Machine.execRoutingZeroTimeout s
  | .ethLinkChange port up supported => Sys2Proof.Machine.execEthLinkChange port up supported s
  | .ethFrameReceive port frame fcsOk => Sys2Proof.Machine.execEthFrameReceive port frame fcsOk s
  | .ethTransmitStart port => Sys2Proof.Machine.execEthTransmitStart port s
  | .fnetGclctlApply port nent => Sys2Proof.Machine.execFnetGclctlApply port nent s
  | .svFrame m => Sys2Proof.Machine.execSvFrame m s
  | .svSampleDeadline sub => Sys2Proof.Machine.execSvSampleDeadline sub s
  | .svSubscriptionEnable sub => Sys2Proof.Machine.execSvSubscriptionEnable sub s
  | .svSubscriptionDisable sub => Sys2Proof.Machine.execSvSubscriptionDisable sub s
  | .svSubscriptionReconfigure sub => Sys2Proof.Machine.execSvSubscriptionReconfigure sub s
  | .svPublication pub raws len => Sys2Proof.Machine.execSvPublication pub raws len s
  | .gooseFrame m => Sys2Proof.Machine.execGooseFrame m s
  | .gooseTtlExpiry sub => Sys2Proof.Machine.execGooseTtlExpiry sub s
  | .gooseSubscriptionEnable sub => Sys2Proof.Machine.execGooseSubscriptionEnable sub s
  | .gooseSubscriptionDisable sub => Sys2Proof.Machine.execGooseSubscriptionDisable sub s
  | .metrologyInstant main vh => Sys2Proof.Machine.execMetrologyInstant main vh s
  | .metrologyReturnWait channel => Sys2Proof.Machine.execMetrologyReturnWait channel s
  | .testPulseStart k => Sys2Proof.Machine.execTestPulseStart k s
  | .testPulseEnd k => Sys2Proof.Machine.execTestPulseEnd k s
  | .testOutputConfigWrite k isConst value => Sys2Proof.Machine.execTestOutputConfigWrite k isConst value s
  | .metEclr value => Sys2Proof.Machine.execMetEclr value s
  | .lrImageStaged version svn sum => Sys2Proof.Machine.execLrImageStaged version svn sum s
  | .lrActivate key => Sys2Proof.Machine.execLrActivate key s
  | .lrSwitchComplete ok => Sys2Proof.Machine.execLrSwitchComplete ok s
  | .metrologyProcessorRunning => Sys2Proof.Machine.execMetrologyProcessorRunning s
  | .sealRequest key => Sys2Proof.Machine.execSealRequest key s
  | .sealComplete => Sys2Proof.Machine.execSealComplete s
  | .commitRequest => Sys2Proof.Machine.execCommitRequest s
  | .commit15Min => Sys2Proof.Machine.execCommit15Min s
  | .commitComplete ok => Sys2Proof.Machine.execCommitComplete ok s
  | .shutdownRecordNorCopy => Sys2Proof.Machine.execShutdownRecordNorCopy s
  | .sessionOpen output => Sys2Proof.Machine.execSessionOpen output s
  | .sessionClose output => Sys2Proof.Machine.execSessionClose output s
  | .sessionRecordSigned output => Sys2Proof.Machine.execSessionRecordSigned output s
  | .bilRecack value => Sys2Proof.Machine.execBilRecack value s
  | .bilLogack value => Sys2Proof.Machine.execBilLogack value s
  | .recReqBegin xfer number => Sys2Proof.Machine.execRecReqBegin xfer number s
  | .recData xfer offset bytes last => Sys2Proof.Machine.execRecData xfer offset bytes last s
  | .theftWatchBlock samples => Sys2Proof.Machine.execTheftWatchBlock samples s
  | .outLock output => Sys2Proof.Machine.execOutLock output s
  | .outUnlock output => Sys2Proof.Machine.execOutUnlock output s
  | .outStart output => Sys2Proof.Machine.execOutStart output s
  | .outStop output => Sys2Proof.Machine.execOutStop output s
  | .outClr output => Sys2Proof.Machine.execOutClr output s
  | .tlockExpiry output => Sys2Proof.Machine.execTlockExpiry output s
  | .tinsExpiry output => Sys2Proof.Machine.execTinsExpiry output s
  | .tpreExpiry output => Sys2Proof.Machine.execTpreExpiry output s
  | .trampExpiry output => Sys2Proof.Machine.execTrampExpiry output s
  | .tdisExpiry output => Sys2Proof.Machine.execTdisExpiry output s
  | .outSequenceRetry output => Sys2Proof.Machine.execOutSequenceRetry output s
  | .connectorChange output present => Sys2Proof.Machine.execConnectorChange output present s
  | .enableLoopChange output closed => Sys2Proof.Machine.execEnableLoopChange output closed s
  | .t1sFrame port frame fcsOk collisions => Sys2Proof.Machine.execT1sFrame port frame fcsOk collisions s
  | .controlPilotPeriod port high low dutyM => Sys2Proof.Machine.execControlPilotPeriod port high low dutyM s
  | .proximityReading port res => Sys2Proof.Machine.execProximityReading port res s
  | .flowWindow output count => Sys2Proof.Machine.execFlowWindow output count s
  | .fanStall output => Sys2Proof.Machine.execFanStall output s
  | .stkCtlWake => Sys2Proof.Machine.execStkCtlWake s
  | .chainRewake => Sys2Proof.Machine.execChainRewake s
  | .wakeComplete => Sys2Proof.Machine.execWakeComplete s
  | .enumComplete => Sys2Proof.Machine.execEnumComplete s
  | .chainNop sat => Sys2Proof.Machine.execChainNop sat s
  | .chainEnum fromB => Sys2Proof.Machine.execChainEnum fromB s
  | .chainEcho fromB sat => Sys2Proof.Machine.execChainEcho fromB sat s
  | .chainCfg sat => Sys2Proof.Machine.execChainCfg sat s
  | .chainSnap => Sys2Proof.Machine.execChainSnap s
  | .chainRead fromB => Sys2Proof.Machine.execChainRead fromB s
  | .chainBal fromB => Sys2Proof.Machine.execChainBal fromB s
  | .chainOwt => Sys2Proof.Machine.execChainOwt s
  | .chainSleep => Sys2Proof.Machine.execChainSleep s
  | .chainResponse fromB frame rtt => Sys2Proof.Machine.execChainResponse fromB frame rtt s
  | .chainResponseMissed fromB => Sys2Proof.Machine.execChainResponseMissed fromB s
  | .stkOwcfgStart owper owthr => Sys2Proof.Machine.execStkOwcfgStart owper owthr s
  | .openWirePeriod => Sys2Proof.Machine.execOpenWirePeriod s
  | .bufferGo => Sys2Proof.Machine.execBufferGo s
  | .bufferStop => Sys2Proof.Machine.execBufferStop s
  | .bufferTqExpiry => Sys2Proof.Machine.execBufferTqExpiry s
  | .hrngTailWrite ring index => Sys2Proof.Machine.execHrngTailWrite ring index s
  | .ringCoalTimeout ring => Sys2Proof.Machine.execRingCoalTimeout ring s
  | .dramScrub errors => Sys2Proof.Machine.execDramScrub errors s
  | .hostBadAccess addr write narrow machine => Sys2Proof.Machine.execHostBadAccess addr write narrow machine s
  | .hsysImgok value => Sys2Proof.Machine.execHsysImgok value s
  | .hevtClaimRead core => Sys2Proof.Machine.execHevtClaimRead core s
  | .hevtClaimWrite source => Sys2Proof.Machine.execHevtClaimWrite source s
  | .gpioEdge pin level => Sys2Proof.Machine.execGpioEdge pin level s
  | .canTxReq ctrl buf => Sys2Proof.Machine.execCanTxReq ctrl buf s
  | .canTxAbort ctrl buf => Sys2Proof.Machine.execCanTxAbort ctrl buf s
  | .canStartOfFrame ctrl => Sys2Proof.Machine.execCanStartOfFrame ctrl s
  | .canTransmitComplete ctrl => Sys2Proof.Machine.execCanTransmitComplete ctrl s
  | .canArbitrationLost ctrl => Sys2Proof.Machine.execCanArbitrationLost ctrl s
  | .canFrameError ctrl lec step => Sys2Proof.Machine.execCanFrameError ctrl lec step s
  | .canRecover ctrl => Sys2Proof.Machine.execCanRecover ctrl s
  | .canBusoffRecoveryComplete ctrl => Sys2Proof.Machine.execCanBusoffRecoveryComplete ctrl s
  | .canFrameReceived ctrl words => Sys2Proof.Machine.execCanFrameReceived ctrl words s
  | .canMailboxLock ctrl mb => Sys2Proof.Machine.execCanMailboxLock ctrl mb s
  | .canMailboxRelease ctrl mb => Sys2Proof.Machine.execCanMailboxRelease ctrl mb s
  | .canRxpop ctrl => Sys2Proof.Machine.execCanRxpop ctrl s
  | .canFilterWrite ctrl mb reg value => Sys2Proof.Machine.execCanFilterWrite ctrl mb reg value s
  | .debugUnlock die token => Sys2Proof.Machine.execDebugUnlock die token s
  | .lifecycleToken die token fuseOk => Sys2Proof.Machine.execLifecycleToken die token fuseOk s
  | .slotProgram die token fuseOk => Sys2Proof.Machine.execSlotProgram die token fuseOk s
  | .slotRevoke die token fuseOk => Sys2Proof.Machine.execSlotRevoke die token fuseOk s
  | .injectionToken die token => Sys2Proof.Machine.execInjectionToken die token s
  | .relock die => Sys2Proof.Machine.execRelock die s
  | .fsecPairctlGo => Sys2Proof.Machine.execFsecPairctlGo s
  | .keyLoad target => Sys2Proof.Machine.execKeyLoad target s
  | .keySlotClear target => Sys2Proof.Machine.execKeySlotClear target s
  | .fsecStmtctlGo => Sys2Proof.Machine.execFsecStmtctlGo s
  | .encDerive blk => Sys2Proof.Machine.execEncDerive blk s
  | .encUnwrap blk => Sys2Proof.Machine.execEncUnwrap blk s
  | .encWrap blk => Sys2Proof.Machine.execEncWrap blk s
  | .encSign blk => Sys2Proof.Machine.execEncSign blk s
  | .encAttest blk => Sys2Proof.Machine.execEncAttest blk s
  | .encExtend blk => Sys2Proof.Machine.execEncExtend blk s
  | .encFieldmeas blk => Sys2Proof.Machine.execEncFieldmeas blk s
  | .encPair blk => Sys2Proof.Machine.execEncPair blk s
  | .encKeywrapf blk => Sys2Proof.Machine.execEncKeywrapf blk s
  | .encAead blk => Sys2Proof.Machine.execEncAead blk s
  | .encRandom blk => Sys2Proof.Machine.execEncRandom blk s
  | .encClear blk => Sys2Proof.Machine.execEncClear blk s
  | .secMonoinc mask => Sys2Proof.Machine.execSecMonoinc mask s
  | .trngHealthFailure die => Sys2Proof.Machine.execTrngHealthFailure die s
  | .tamperInput die input low => Sys2Proof.Machine.execTamperInput die input low s
  | .boundaryScanInstruction die drives => Sys2Proof.Machine.execBoundaryScanInstruction die drives s
  | .thermalReading side conv failed => Sys2Proof.Machine.execThermalReading side conv failed s
  | .tqsExpiry => Sys2Proof.Machine.execTqsExpiry s
  | .hostShutdownClear => Sys2Proof.Machine.execHostShutdownClear s
  | .thresholdWrite side hyst value => Sys2Proof.Machine.execThresholdWrite side hyst value s
  | .fthmRecctl value => Sys2Proof.Machine.execFthmRecctl value s
  | .hthmShutrecClr => Sys2Proof.Machine.execHthmShutrecClr s
  | .injectionStart side point inst => Sys2Proof.Machine.execInjectionStart side point inst s
  | .injectionStop side => Sys2Proof.Machine.execInjectionStop side s
  | .injectionEnd point inst => Sys2Proof.Machine.execInjectionEnd point inst s
  | .journalAllowance => Sys2Proof.Machine.execJournalAllowance s
  | .floodEnd source => Sys2Proof.Machine.execFloodEnd source s
  | .jrnData xfer offset bytes last => Sys2Proof.Machine.execJrnData xfer offset bytes last s
  | .captureArm => Sys2Proof.Machine.execCaptureArm s
  | .captureTrigger => Sys2Proof.Machine.execCaptureTrigger s
  | .captureStop => Sys2Proof.Machine.execCaptureStop s
  | .capReqBegin xfer len => Sys2Proof.Machine.execCapReqBegin xfer len s
  | .capReqEnd xfer => Sys2Proof.Machine.execCapReqEnd xfer s
  | .capReqAbort xfer => Sys2Proof.Machine.execCapReqAbort xfer s
  | .capData xfer offset bytes last => Sys2Proof.Machine.execCapData xfer offset bytes last s
  | .fieldAshReady area => Sys2Proof.Machine.execFieldAshReady area s
  | .ashReqBegin xfer => Sys2Proof.Machine.execAshReqBegin xfer s
  | .ashData xfer offset bytes last => Sys2Proof.Machine.execAshData xfer offset bytes last s
  | .fdiaAshctlClr => Sys2Proof.Machine.execFdiaAshctlClr s
  | .hdiaAshctlSnap => Sys2Proof.Machine.execHdiaAshctlSnap s
  | .hdiaAshctlExported => Sys2Proof.Machine.execHdiaAshctlExported s
  | .ashGatherComplete endOff => Sys2Proof.Machine.execAshGatherComplete endOff s
  | .badAccess addr write narrow => Sys2Proof.Machine.execBadAccess addr write narrow s
  | .registerWrite addr value => Sys2Proof.Machine.execRegisterWrite addr value s
  | .registerReadClear addr => Sys2Proof.Machine.execRegisterReadClear addr s
  | .latchedPairRead addr => Sys2Proof.Machine.execLatchedPairRead addr s
  | .heartbeatSend => Sys2Proof.Machine.execHeartbeatSend s
  | .hfluHbkick value => Sys2Proof.Machine.execHfluHbkick value s
  | .hfluTxwinCommit win => Sys2Proof.Machine.execHfluTxwinCommit win s
  | .fieldLost => Sys2Proof.Machine.execFieldLost s
  | .noCreditTimeout queue => Sys2Proof.Machine.execNoCreditTimeout queue s
  | .timeSyncMissing => Sys2Proof.Machine.execTimeSyncMissing s
  | .supplyRelease side => Sys2Proof.Machine.execSupplyRelease side s
  | .batteryLoss side => Sys2Proof.Machine.execBatteryLoss side s
  | .trngHealthRecovery die => Sys2Proof.Machine.execTrngHealthRecovery die s
  | .tachEdge output => Sys2Proof.Machine.execTachEdge output s
  | .hostEccError sram addr uncorr => Sys2Proof.Machine.execHostEccError sram addr uncorr s
  | .fmpWindowEccError addr => Sys2Proof.Machine.execFmpWindowEccError addr s
  | .plcaStatusChange port ok jabber => Sys2Proof.Machine.execPlcaStatusChange port ok jabber s
  | .peripheralTransfer inst bytes err => Sys2Proof.Machine.execPeripheralTransfer inst bytes err s

end Sys2Proof.Machine
end

