-- ==== Sys2Proof/Safety.lean ====
section
/-! DEFINITION. The terms the claims are stated in: safe steps, the parts of the block and what it means to leave them alone, the
canonical form of the registers and memories, and the one-way order of the fuses. -/

namespace Sys2Proof.Machine

/-- The step answers a next state. -/
def Runs (s : State) : Prop := ∃ t, step s = .next t

/-- The register file is in its canonical form. -/
def RegsCanonical (s : State) : Prop := Regs.wf s.dev.regs = true

/-- Both addressed memories are in their canonical form. -/
def MemCanonical (s : State) : Prop := Mem.wf s.dev.fmem = true ∧ Mem.wf s.dev.hmem = true

/-! ## The parts of the block, one mask bit each -/

def Part.regs : Nat := 1
def Part.fmem : Nat := 2
def Part.hmem : Nat := 4
def Part.lastRead : Nat := 8
def Part.busError : Nat := 16
def Part.free : Nat := 32
def Part.inj : Nat := 64
def Part.jr : Nat := 128
def Part.rings : Nat := 256
def Part.pw : Nat := 512
def Part.fl : Nat := 1024
def Part.tm : Nat := 2048
def Part.st : Nat := 4096
def Part.ce : Nat := 8192
def Part.dgr : Nat := 16384
def Part.pwm : Nat := 32768
def Part.out : Nat := 65536
def Part.cbl : Nat := 131072
def Part.veh : Nat := 262144
def Part.cap : Nat := 524288
def Part.ash : Nat := 1048576
def Part.fba : Nat := 2097152
def Part.ctr : Nat := 4194304
def Part.imd : Nat := 8388608
def Part.tlm : Nat := 16777216
def Part.shr : Nat := 33554432
def Part.rt : Nat := 67108864
def Part.net : Nat := 134217728
def Part.svg : Nat := 268435456
def Part.met : Nat := 536870912
def Part.bil : Nat := 1073741824
def Part.bst : Nat := 2147483648
def Part.tw : Nat := 4294967296
def Part.ffuse : Nat := 8589934592
def Part.hfuse : Nat := 17179869184
def Part.fsec : Nat := 34359738368
def Part.enc : Nat := 68719476736
def Part.stk : Nat := 137438953472
def Part.can : Nat := 274877906944
def Part.hp : Nat := 549755813888
def Part.th : Nat := 1099511627776

/-- The mask names the part. -/
def Part.on (m p : Nat) : Bool := m &&& p == p

/-- Every part of the block that the mask does not name is the same in `e` as in `d`. -/
structure Dev.OnlyIn (m : Nat) (d e : Dev) : Prop where
  regs : Part.on m Part.regs = false → e.regs = d.regs
  fmem : Part.on m Part.fmem = false → e.fmem = d.fmem
  hmem : Part.on m Part.hmem = false → e.hmem = d.hmem
  lastRead : Part.on m Part.lastRead = false → e.lastRead = d.lastRead
  busError : Part.on m Part.busError = false → e.busError = d.busError
  free : Part.on m Part.free = false → e.free = d.free
  inj : Part.on m Part.inj = false → e.inj = d.inj
  jr : Part.on m Part.jr = false → e.jr = d.jr
  rings : Part.on m Part.rings = false → e.rings = d.rings
  pw : Part.on m Part.pw = false → e.pw = d.pw
  fl : Part.on m Part.fl = false → e.fl = d.fl
  tm : Part.on m Part.tm = false → e.tm = d.tm
  st : Part.on m Part.st = false → e.st = d.st
  ce : Part.on m Part.ce = false → e.ce = d.ce
  dgr : Part.on m Part.dgr = false → e.dgr = d.dgr
  pwm : Part.on m Part.pwm = false → e.pwm = d.pwm
  out : Part.on m Part.out = false → e.out = d.out
  cbl : Part.on m Part.cbl = false → e.cbl = d.cbl
  veh : Part.on m Part.veh = false → e.veh = d.veh
  cap : Part.on m Part.cap = false → e.cap = d.cap
  ash : Part.on m Part.ash = false → e.ash = d.ash
  fba : Part.on m Part.fba = false → e.fba = d.fba
  ctr : Part.on m Part.ctr = false → e.ctr = d.ctr
  imd : Part.on m Part.imd = false → e.imd = d.imd
  tlm : Part.on m Part.tlm = false → e.tlm = d.tlm
  shr : Part.on m Part.shr = false → e.shr = d.shr
  rt : Part.on m Part.rt = false → e.rt = d.rt
  net : Part.on m Part.net = false → e.net = d.net
  svg : Part.on m Part.svg = false → e.svg = d.svg
  met : Part.on m Part.met = false → e.met = d.met
  bil : Part.on m Part.bil = false → e.bil = d.bil
  bst : Part.on m Part.bst = false → e.bst = d.bst
  tw : Part.on m Part.tw = false → e.tw = d.tw
  ffuse : Part.on m Part.ffuse = false → e.ffuse = d.ffuse
  hfuse : Part.on m Part.hfuse = false → e.hfuse = d.hfuse
  fsec : Part.on m Part.fsec = false → e.fsec = d.fsec
  enc : Part.on m Part.enc = false → e.enc = d.enc
  stk : Part.on m Part.stk = false → e.stk = d.stk
  can : Part.on m Part.can = false → e.can = d.can
  hp : Part.on m Part.hp = false → e.hp = d.hp
  th : Part.on m Part.th = false → e.th = d.th

/-- The command answers a next state whose queue is the one it was given, and the block it leaves has the property. -/
def Answers (c : Instr) (s : State) (P : Dev → Prop) : Prop := ∃ t, exec c s = .next t ∧ t.pending = s.pending ∧ P t.dev

/-- The command answers a next state and changes, of all the state, only the named parts of the block. -/
def Within (m : Nat) (c : Instr) (s : State) : Prop := Answers c s (Dev.OnlyIn m s.dev)

/-- Every register field but the ones listed reads the same in `e` as in `d`. -/
def Dev.RegsBut (fs : List Fld) (d e : Dev) : Prop := ∀ g : Fld, (∀ f ∈ fs, f.key ≠ g.key) → e.rd g = d.rd g

/-! ## Events -/

/-- The router's pending bit of a source is set (R346). -/
def Dev.Pends (d : Dev) (n : Nat) : Prop := testBit (d.rd (R.HEVT_PEND.PEND (n / 32))) (n % 32) = true

/-! ## Fuses -/

/-- No fuse that is blown in `f` reads as not blown in `g`, and what the factory wrote is the same (R361, R362). -/
structure Fuses.Le (f g : Fuses) : Prop where
  root : g.root = f.root
  mask : g.mask = f.mask
  mapSeed : g.mapSeed = f.mapSeed
  uid : g.uid = f.uid
  variant : g.variant = f.variant
  lc : ∀ i, testBit f.lc i = true → testBit g.lc i = true
  slots : ∀ i, (f.slots.getD i none).isSome = true → (g.slots.getD i none).isSome = true
  rev : ∀ i, testBit f.rev i = true → testBit g.rev i = true
  sealed : f.sealed = true → g.sealed = true
  contBlown : f.cont = true → g.cont = true
  count : g.slots.length = f.slots.length

/-! ## Shape: the lists that stand for a fixed number of like things have that many entries -/

def SiteTime.Shaped (x : SiteTime) : Prop := x.pdelaySeq.length = 2

def Ce.Shaped (x : Ce) : Prop := x.sig.length = 1024 ∧ x.acc.length = 256 ∧ x.axes.length = 4

def Dgr.Shaped (x : Dgr) : Prop := x.blk.length = 8

def Pwm.Shaped (x : Pwm) : Prop := x.inputs.length = 96

def Fba.Shaped (x : Fba) : Prop := x.ctlTodo.length = 2 ∧ x.trigTodo.length = 2 ∧ x.ctl.length = 32 ∧ x.trig.length = 32

def Net.Shaped (x : Net) : Prop := x.ports.length = 2 ∧ x.ptp.length = 2 ∧ x.cells.length = 5

def Svg.Shaped (x : Svg) : Prop := x.subs.length = 8 ∧ x.gs.length = 32 ∧ x.keys.length = 4 ∧ x.pubs.length = 2

def Metr.Shaped (x : Metr) : Prop := x.retAt.length = 16 ∧ x.tp.length = 4

def Bil.Shaped (x : Bil) : Prop := x.sess.length = 4

def BilStore.Shaped (x : BilStore) : Prop := x.slots.length = 2 ∧ x.copies.length = 2

def Stk.Shaped (x : Stk) : Prop :=
  x.found.length = 2 ∧ x.enumDone.length = 2 ∧ x.sats.length = 32 ∧ x.out.length = 2 ∧ x.lastFrame.length = 2

def HostPlat.Shaped (x : HostPlat) : Prop := x.slots.length = 2 ∧ x.rx.length = 9

def Therm.Shaped (x : Therm) : Prop := x.nor.length = 2

/-- Every list of the block that stands for a fixed number of like things (axes, trip inputs, ports, subscriptions, satellites,
image slots and so on) has that many entries. -/
structure Dev.Shaped (d : Dev) : Prop where
  tm : d.tm.Shaped
  ce : d.ce.Shaped
  dgr : d.dgr.Shaped
  pwm : d.pwm.Shaped
  out : d.out.length = 4
  cbl : d.cbl.length = 4
  veh : d.veh.length = 4
  fba : d.fba.Shaped
  imd : d.imd.length = 4
  net : d.net.Shaped
  svg : d.svg.Shaped
  met : d.met.Shaped
  bil : d.bil.Shaped
  bst : d.bst.Shaped
  ffuse : d.ffuse.slots.length = 5
  hfuse : d.hfuse.slots.length = 5
  stk : d.stk.Shaped
  can : d.can.length = 4
  hp : d.hp.Shaped
  th : d.th.Shaped

end Sys2Proof.Machine
end

