-- ==== Sys2Proof/Footprint.lean ====
section
/-! DEFINITION. The footprint of every command: the parts of the block it may change at all, whatever the state. A statement of
the claims says that no command changes more. -/

namespace Sys2Proof.Machine

/-- The parts of the block that the command may change. -/
def footprint : Instr → Nat
  | .powerOnReset _ => Part.regs ||| Part.fmem ||| Part.hmem ||| Part.free ||| Part.inj ||| Part.jr ||| Part.rings ||| Part.pw ||| Part.fl ||| Part.tm ||| Part.st ||| Part.ce ||| Part.dgr ||| Part.pwm ||| Part.out ||| Part.cbl ||| Part.veh ||| Part.cap ||| Part.ash ||| Part.fba ||| Part.ctr ||| Part.imd ||| Part.tlm ||| Part.shr ||| Part.rt ||| Part.net ||| Part.svg ||| Part.met ||| Part.bil ||| Part.bst ||| Part.tw ||| Part.hfuse ||| Part.fsec ||| Part.enc ||| Part.stk ||| Part.can ||| Part.hp ||| Part.th
  | .supplyMonitorReset _ => Part.regs ||| Part.fmem ||| Part.hmem ||| Part.inj ||| Part.jr ||| Part.rings ||| Part.pw ||| Part.fl ||| Part.tm ||| Part.st ||| Part.ce ||| Part.dgr ||| Part.pwm ||| Part.out ||| Part.cbl ||| Part.veh ||| Part.cap ||| Part.ash ||| Part.fba ||| Part.ctr ||| Part.imd ||| Part.tlm ||| Part.shr ||| Part.rt ||| Part.net ||| Part.svg ||| Part.met ||| Part.bil ||| Part.tw ||| Part.fsec ||| Part.enc ||| Part.stk ||| Part.can ||| Part.hp ||| Part.th
  | .batterySwitchover _ _ => Part.regs ||| Part.pw
  | .watchdogService _ _ => Part.pw
  | .watchdogStage1 _ => Part.regs ||| Part.hmem ||| Part.free ||| Part.jr ||| Part.rings ||| Part.pw ||| Part.fl
  | .watchdogStage2Field => Part.regs ||| Part.pw ||| Part.fl ||| Part.st ||| Part.ash
  | .watchdogStage2Host => Part.regs ||| Part.hmem ||| Part.free ||| Part.inj ||| Part.jr ||| Part.rings ||| Part.pw ||| Part.fl ||| Part.tm ||| Part.st ||| Part.pwm ||| Part.out ||| Part.veh ||| Part.cap ||| Part.ash ||| Part.hfuse ||| Part.fsec ||| Part.enc ||| Part.can ||| Part.hp ||| Part.th
  | .swFmp _ => Part.regs ||| Part.pw ||| Part.fl ||| Part.st
  | .swField _ => Part.regs ||| Part.fmem ||| Part.hmem ||| Part.free ||| Part.inj ||| Part.jr ||| Part.rings ||| Part.pw ||| Part.fl ||| Part.tm ||| Part.st ||| Part.ce ||| Part.dgr ||| Part.pwm ||| Part.out ||| Part.cbl ||| Part.cap ||| Part.ash ||| Part.fba ||| Part.ctr ||| Part.imd ||| Part.tlm ||| Part.shr ||| Part.rt ||| Part.net ||| Part.svg ||| Part.met ||| Part.bil ||| Part.bst ||| Part.tw ||| Part.fsec ||| Part.enc ||| Part.stk ||| Part.can ||| Part.th
  | .swWarm _ => Part.regs ||| Part.hmem ||| Part.free ||| Part.inj ||| Part.jr ||| Part.rings ||| Part.pw ||| Part.fl ||| Part.tm ||| Part.st ||| Part.pwm ||| Part.out ||| Part.veh ||| Part.cap ||| Part.ash ||| Part.hfuse ||| Part.fsec ||| Part.enc ||| Part.can ||| Part.hp ||| Part.th
  | .swCold _ => Part.regs ||| Part.hmem ||| Part.free ||| Part.inj ||| Part.jr ||| Part.rings ||| Part.pw ||| Part.fl ||| Part.tm ||| Part.st ||| Part.pwm ||| Part.out ||| Part.veh ||| Part.cap ||| Part.ash ||| Part.hfuse ||| Part.fsec ||| Part.enc ||| Part.can ||| Part.hp ||| Part.th
  | .lsFmp => Part.regs ||| Part.pw ||| Part.fl ||| Part.st ||| Part.pwm ||| Part.cap ||| Part.ash
  | .lsMet => Part.regs ||| Part.fl ||| Part.ash
  | .ceLockstepMismatch => Part.regs ||| Part.pw ||| Part.fl ||| Part.pwm ||| Part.cap ||| Part.ash
  | .lsEnc => Part.regs ||| Part.hmem ||| Part.free ||| Part.inj ||| Part.jr ||| Part.rings ||| Part.pw ||| Part.fl ||| Part.tm ||| Part.st ||| Part.pwm ||| Part.out ||| Part.veh ||| Part.cap ||| Part.ash ||| Part.hfuse ||| Part.fsec ||| Part.enc ||| Part.can ||| Part.hp ||| Part.th
  | .thermalReset _ => Part.regs ||| Part.fmem ||| Part.hmem ||| Part.free ||| Part.inj ||| Part.jr ||| Part.rings ||| Part.pw ||| Part.fl ||| Part.tm ||| Part.st ||| Part.ce ||| Part.dgr ||| Part.pwm ||| Part.out ||| Part.cbl ||| Part.cap ||| Part.ash ||| Part.fba ||| Part.ctr ||| Part.imd ||| Part.tlm ||| Part.shr ||| Part.rt ||| Part.net ||| Part.svg ||| Part.met ||| Part.bil ||| Part.bst ||| Part.tw ||| Part.fsec ||| Part.enc ||| Part.stk ||| Part.can ||| Part.th
  | .fmpRestartComplete => Part.pw
  | .bootComplete _ _ => Part.regs ||| Part.fmem ||| Part.hmem ||| Part.free ||| Part.inj ||| Part.jr ||| Part.rings ||| Part.pw ||| Part.fl ||| Part.st ||| Part.ce ||| Part.dgr ||| Part.pwm ||| Part.out ||| Part.cbl ||| Part.cap ||| Part.ctr ||| Part.tlm ||| Part.met ||| Part.bil ||| Part.bst ||| Part.tw ||| Part.fsec ||| Part.enc ||| Part.stk ||| Part.th
  | .modeReq _ _ => Part.regs ||| Part.pw ||| Part.fl
  | .reArm _ _ _ => Part.regs ||| Part.pw ||| Part.fl
  | .fsysModereq _ => Part.regs ||| Part.pw ||| Part.fl ||| Part.th
  | .fsysModereqRearm _ => Part.regs ||| Part.pw ||| Part.fl ||| Part.th
  | .sampleInstant _ => Part.regs ||| Part.fmem ||| Part.hmem ||| Part.free ||| Part.inj ||| Part.jr ||| Part.rings ||| Part.pw ||| Part.fl ||| Part.tm ||| Part.st ||| Part.ce ||| Part.dgr ||| Part.pwm ||| Part.out ||| Part.cbl ||| Part.cap ||| Part.ash ||| Part.fba ||| Part.ctr ||| Part.imd ||| Part.tlm ||| Part.shr ||| Part.rt ||| Part.net ||| Part.svg ||| Part.met ||| Part.bil ||| Part.bst ||| Part.tw ||| Part.fsec ||| Part.enc ||| Part.stk ||| Part.can ||| Part.th
  | .tHbExpiry => Part.regs
  | .tAutoExpiry => Part.pw
  | .quenchLimitExpiry => Part.pw
  | .blockDisableRequest _ => Part.regs ||| Part.hmem ||| Part.jr ||| Part.rings ||| Part.pw ||| Part.fl ||| Part.st ||| Part.ce ||| Part.pwm ||| Part.out ||| Part.cbl ||| Part.cap ||| Part.imd ||| Part.shr ||| Part.svg ||| Part.stk ||| Part.can ||| Part.hp
  | .blockEnableRequest _ => Part.regs ||| Part.hmem ||| Part.jr ||| Part.rings ||| Part.pw ||| Part.fl ||| Part.st ||| Part.ce ||| Part.pwm ||| Part.out ||| Part.cbl ||| Part.cap ||| Part.imd ||| Part.shr ||| Part.svg ||| Part.stk ||| Part.can ||| Part.hp
  | .drainComplete _ => Part.regs ||| Part.hmem ||| Part.jr ||| Part.rings ||| Part.fl ||| Part.ce ||| Part.pwm ||| Part.out ||| Part.imd ||| Part.shr ||| Part.svg ||| Part.stk
  | .flueLinkUp => Part.regs ||| Part.hmem ||| Part.jr ||| Part.rings ||| Part.fl
  | .flueRetrain _ _ _ => Part.regs ||| Part.hmem ||| Part.jr ||| Part.rings ||| Part.fl
  | .flueCellSlot _ => Part.regs ||| Part.hmem ||| Part.inj ||| Part.jr ||| Part.rings ||| Part.fl
  | .flueCellReceive _ _ => Part.regs ||| Part.hmem ||| Part.jr ||| Part.rings ||| Part.fl
  | .heartbeat _ _ => Part.regs ||| Part.fl
  | .hbAck _ _ _ => Part.regs ||| Part.hmem ||| Part.jr ||| Part.rings ||| Part.fl ||| Part.cap
  | .tripDevice _ _ _ _ => Part.regs ||| Part.pw ||| Part.fl ||| Part.pwm ||| Part.out ||| Part.cap
  | .tripOutput _ _ _ => Part.regs ||| Part.pw ||| Part.fl ||| Part.pwm ||| Part.out ||| Part.cap
  | .tripLegGroup _ _ _ => Part.regs ||| Part.pw ||| Part.fl ||| Part.pwm ||| Part.out ||| Part.cap
  | .quenchAll _ _ => Part.pw ||| Part.fl
  | .quenchOut _ _ _ => Part.regs ||| Part.fl ||| Part.out
  | .paramWr _ => Part.fl
  | .paramRd _ => Part.fl
  | .targetSet _ => Part.fl
  | .paramRsp _ _ _ _ _ _ => Part.regs ||| Part.hmem ||| Part.jr ||| Part.rings ||| Part.fl ||| Part.cap
  | .timeSync _ _ _ _ _ _ => Part.regs ||| Part.hmem ||| Part.jr ||| Part.rings ||| Part.fl ||| Part.cap
  | .event _ _ _ _ _ _ => Part.regs ||| Part.hmem ||| Part.jr ||| Part.rings ||| Part.fl ||| Part.cap ||| Part.ash
  | .telemetry _ _ _ _ _ => Part.regs ||| Part.hmem ||| Part.jr ||| Part.rings ||| Part.fl ||| Part.cap
  | .recordReady _ _ _ _ => Part.regs ||| Part.hmem ||| Part.jr ||| Part.rings ||| Part.fl ||| Part.cap
  | .imgCtrlBegin _ _ => Part.regs ||| Part.fl ||| Part.st ||| Part.fsec
  | .imgData _ _ _ => Part.regs ||| Part.fmem ||| Part.fl ||| Part.st
  | .imgCtrlEnd _ _ => Part.regs ||| Part.fmem ||| Part.hmem ||| Part.free ||| Part.inj ||| Part.jr ||| Part.rings ||| Part.fl ||| Part.st ||| Part.pwm ||| Part.ffuse ||| Part.hfuse
  | .imgCtrlAbort _ => Part.regs ||| Part.fl ||| Part.st
  | .imgStat _ _ => Part.regs ||| Part.hmem ||| Part.jr ||| Part.rings ||| Part.fl
  | .streamValidationComplete _ => Part.regs ||| Part.fl ||| Part.st
  | .stsPersist _ => Part.regs ||| Part.fl ||| Part.st
  | .persistComplete _ => Part.regs ||| Part.fl ||| Part.st
  | .stsSwapctlArm => Part.regs ||| Part.fl
  | .stsSwapctlCancel => Part.regs ||| Part.fl
  | .streamSwap => Part.regs ||| Part.fmem ||| Part.hmem ||| Part.free ||| Part.inj ||| Part.jr ||| Part.rings ||| Part.pw ||| Part.fl ||| Part.tm ||| Part.st ||| Part.ce ||| Part.dgr ||| Part.pwm ||| Part.out ||| Part.cbl ||| Part.cap ||| Part.ash ||| Part.fba ||| Part.ctr ||| Part.imd ||| Part.tlm ||| Part.shr ||| Part.rt ||| Part.net ||| Part.svg ||| Part.met ||| Part.bil ||| Part.bst ||| Part.tw ||| Part.fsec ||| Part.enc ||| Part.stk ||| Part.can ||| Part.th
  | .ppsInEdge _ => Part.regs ||| Part.hmem ||| Part.inj ||| Part.jr ||| Part.rings ||| Part.fl ||| Part.tm
  | .ppsMissingSecond => Part.regs ||| Part.fl ||| Part.tm
  | .ptpMessage _ _ _ => Part.regs ||| Part.fl ||| Part.tm ||| Part.net
  | .pdelayReqSend _ => Part.tm ||| Part.net
  | .ptpOffsetSample _ _ => Part.regs ||| Part.fl ||| Part.tm
  | .ptpSampleTimeout _ => Part.regs ||| Part.fl ||| Part.tm
  | .servoSampleTimeout => Part.regs ||| Part.tm
  | .stcStep => Part.regs ||| Part.fmem ||| Part.hmem ||| Part.free ||| Part.inj ||| Part.jr ||| Part.rings ||| Part.pw ||| Part.fl ||| Part.tm ||| Part.st ||| Part.ce ||| Part.dgr ||| Part.pwm ||| Part.out ||| Part.cbl ||| Part.cap ||| Part.ash ||| Part.fba ||| Part.ctr ||| Part.imd ||| Part.tlm ||| Part.shr ||| Part.rt ||| Part.net ||| Part.svg ||| Part.met ||| Part.bil ||| Part.bst ||| Part.tw ||| Part.fsec ||| Part.enc ||| Part.stk ||| Part.can ||| Part.th
  | .esterrLimit => Part.fl ||| Part.tm
  | .stcSecond => Part.tm
  | .ppsOutFall => Part.tm
  | .stcSetsecHiArm _ => Part.regs ||| Part.tm
  | .stcNowLoRead => Part.regs ||| Part.lastRead
  | .stcMillisecond => Part.regs ||| Part.fl ||| Part.tm ||| Part.ash ||| Part.shr ||| Part.net ||| Part.fsec
  | .tenUsGrid => Part.regs ||| Part.fmem ||| Part.hmem ||| Part.lastRead ||| Part.free ||| Part.inj ||| Part.jr ||| Part.rings ||| Part.pw ||| Part.fl ||| Part.tm ||| Part.st ||| Part.ce ||| Part.dgr ||| Part.pwm ||| Part.out ||| Part.cbl ||| Part.veh ||| Part.cap ||| Part.ash ||| Part.fba ||| Part.ctr ||| Part.imd ||| Part.tlm ||| Part.shr ||| Part.rt ||| Part.net ||| Part.svg ||| Part.met ||| Part.bil ||| Part.bst ||| Part.tw ||| Part.ffuse ||| Part.hfuse ||| Part.fsec ||| Part.enc ||| Part.stk ||| Part.can ||| Part.hp ||| Part.th
  | .measurementLatch _ => Part.regs ||| Part.fmem ||| Part.hmem ||| Part.free ||| Part.inj ||| Part.jr ||| Part.rings ||| Part.pw ||| Part.fl ||| Part.tm ||| Part.st ||| Part.ce ||| Part.dgr ||| Part.pwm ||| Part.out ||| Part.cbl ||| Part.veh ||| Part.cap ||| Part.ash ||| Part.fba ||| Part.ctr ||| Part.imd ||| Part.tlm ||| Part.shr ||| Part.rt ||| Part.net ||| Part.svg ||| Part.met ||| Part.bil ||| Part.bst ||| Part.tw ||| Part.ffuse ||| Part.hfuse ||| Part.fsec ||| Part.enc ||| Part.stk ||| Part.can ||| Part.hp ||| Part.th
  | .writePhase => Part.regs ||| Part.fmem ||| Part.hmem ||| Part.lastRead ||| Part.free ||| Part.inj ||| Part.jr ||| Part.rings ||| Part.pw ||| Part.fl ||| Part.tm ||| Part.st ||| Part.ce ||| Part.dgr ||| Part.pwm ||| Part.out ||| Part.cbl ||| Part.cap ||| Part.ash ||| Part.ctr ||| Part.tlm ||| Part.rt ||| Part.net ||| Part.met ||| Part.stk ||| Part.can ||| Part.hp
  | .ceMvm _ _ => Part.regs ||| Part.hmem ||| Part.free ||| Part.inj ||| Part.jr ||| Part.rings ||| Part.pw ||| Part.fl ||| Part.st ||| Part.ce ||| Part.dgr ||| Part.pwm ||| Part.out ||| Part.cap ||| Part.ash
  | .ceMva _ _ => Part.regs ||| Part.hmem ||| Part.free ||| Part.inj ||| Part.jr ||| Part.rings ||| Part.pw ||| Part.fl ||| Part.st ||| Part.ce ||| Part.dgr ||| Part.pwm ||| Part.out ||| Part.cap ||| Part.ash
  | .ceWb _ _ => Part.regs ||| Part.hmem ||| Part.free ||| Part.inj ||| Part.jr ||| Part.rings ||| Part.pw ||| Part.fl ||| Part.st ||| Part.ce ||| Part.dgr ||| Part.pwm ||| Part.out ||| Part.cap ||| Part.ash
  | .ceVadd _ _ => Part.regs ||| Part.hmem ||| Part.free ||| Part.inj ||| Part.jr ||| Part.rings ||| Part.pw ||| Part.fl ||| Part.st ||| Part.ce ||| Part.dgr ||| Part.pwm ||| Part.out ||| Part.cap ||| Part.ash
  | .ceVsub _ _ => Part.regs ||| Part.hmem ||| Part.free ||| Part.inj ||| Part.jr ||| Part.rings ||| Part.pw ||| Part.fl ||| Part.st ||| Part.ce ||| Part.dgr ||| Part.pwm ||| Part.out ||| Part.cap ||| Part.ash
  | .ceVlim _ _ => Part.regs ||| Part.hmem ||| Part.free ||| Part.inj ||| Part.jr ||| Part.rings ||| Part.pw ||| Part.fl ||| Part.st ||| Part.ce ||| Part.dgr ||| Part.pwm ||| Part.out ||| Part.cap ||| Part.ash
  | .ceMov _ _ => Part.regs ||| Part.hmem ||| Part.free ||| Part.inj ||| Part.jr ||| Part.rings ||| Part.pw ||| Part.fl ||| Part.st ||| Part.ce ||| Part.dgr ||| Part.pwm ||| Part.out ||| Part.cap ||| Part.ash
  | .ceLut _ _ => Part.regs ||| Part.hmem ||| Part.free ||| Part.inj ||| Part.jr ||| Part.rings ||| Part.pw ||| Part.fl ||| Part.st ||| Part.ce ||| Part.dgr ||| Part.pwm ||| Part.out ||| Part.cap ||| Part.ash
  | .ceSlew _ _ => Part.regs ||| Part.hmem ||| Part.free ||| Part.inj ||| Part.jr ||| Part.rings ||| Part.pw ||| Part.fl ||| Part.st ||| Part.ce ||| Part.dgr ||| Part.pwm ||| Part.out ||| Part.cap ||| Part.ash
  | .ceBq _ _ => Part.regs ||| Part.hmem ||| Part.free ||| Part.inj ||| Part.jr ||| Part.rings ||| Part.pw ||| Part.fl ||| Part.st ||| Part.ce ||| Part.dgr ||| Part.pwm ||| Part.out ||| Part.cap ||| Part.ash
  | .ceResid _ _ => Part.regs ||| Part.hmem ||| Part.free ||| Part.inj ||| Part.jr ||| Part.rings ||| Part.pw ||| Part.fl ||| Part.st ||| Part.ce ||| Part.dgr ||| Part.pwm ||| Part.out ||| Part.cap ||| Part.ash
  | .ceFerr _ _ => Part.regs ||| Part.hmem ||| Part.free ||| Part.inj ||| Part.jr ||| Part.rings ||| Part.pw ||| Part.fl ||| Part.st ||| Part.ce ||| Part.dgr ||| Part.pwm ||| Part.out ||| Part.cap ||| Part.ash
  | .ceIdle _ => Part.regs ||| Part.hmem ||| Part.free ||| Part.inj ||| Part.jr ||| Part.rings ||| Part.pw ||| Part.fl ||| Part.st ||| Part.ce ||| Part.dgr ||| Part.pwm ||| Part.out ||| Part.cap ||| Part.ash
  | .ceEnd _ => Part.regs ||| Part.hmem ||| Part.free ||| Part.inj ||| Part.jr ||| Part.rings ||| Part.pw ||| Part.fl ||| Part.st ||| Part.ce ||| Part.dgr ||| Part.pwm ||| Part.out ||| Part.cap ||| Part.ash
  | .cenDbgHalt _ => Part.regs
  | .cenDbgStep => Part.ce
  | .lawManWrite _ _ => Part.regs
  | .encoderTransition _ _ _ => Part.regs ||| Part.fl ||| Part.st ||| Part.ce
  | .encoderIndexEdge _ => Part.regs ||| Part.fl ||| Part.st ||| Part.ce
  | .axisEnable _ => Part.regs ||| Part.st ||| Part.ce
  | .axisDisable _ => Part.regs ||| Part.st ||| Part.ce
  | .axisClr _ => Part.regs ||| Part.st
  | .stoptimeExpiry _ => Part.regs ||| Part.st ||| Part.ce
  | .dgrVarreq _ _ => Part.regs ||| Part.dgr
  | .dgrLostWrite _ _ => Part.regs
  | .legSheddingEvaluation => Part.regs ||| Part.tm ||| Part.dgr ||| Part.pwm
  | .periodStart _ => Part.regs ||| Part.fl ||| Part.tm ||| Part.st ||| Part.pwm
  | .pwmGrpdivWrite _ _ => Part.regs ||| Part.pwm
  | .pwmForceWrite _ _ => Part.regs ||| Part.fl
  | .tripInputFall _ => Part.regs ||| Part.pw ||| Part.fl ||| Part.pwm ||| Part.out ||| Part.cap
  | .tripQualification _ => Part.regs ||| Part.pw ||| Part.fl ||| Part.tm ||| Part.pwm ||| Part.out ||| Part.cap
  | .tripInputRise _ => Part.regs ||| Part.fl ||| Part.pwm
  | .trpClr _ _ => Part.regs ||| Part.fl ||| Part.pwm
  | .trpSwclr _ => Part.regs ||| Part.fl ||| Part.pwm
  | .syncInEdge _ => Part.regs ||| Part.fl ||| Part.tm ||| Part.pwm
  | .syncInMissing => Part.regs ||| Part.fl ||| Part.pwm
  | .syncInEnable => Part.regs ||| Part.fl ||| Part.pwm
  | .syncInDisable => Part.regs ||| Part.fl ||| Part.pwm
  | .triggerCompare _ _ => Part.regs ||| Part.fl ||| Part.tm ||| Part.pwm ||| Part.cap ||| Part.fba
  | .modConditionPresent _ _ => Part.regs ||| Part.fl ||| Part.met
  | .modConditionEnd _ _ => Part.regs ||| Part.fl ||| Part.met
  | .fbaConversionSlot _ _ => Part.regs ||| Part.inj ||| Part.fl ||| Part.tm ||| Part.out ||| Part.fba ||| Part.imd
  | .ctrStart _ => Part.regs ||| Part.fl ||| Part.ctr
  | .ctrSequencerBoundary _ => Part.regs ||| Part.fl ||| Part.tm ||| Part.st ||| Part.out ||| Part.ctr ||| Part.rt ||| Part.met
  | .ctrStepTimeout _ => Part.regs ||| Part.fl ||| Part.st ||| Part.out ||| Part.ctr ||| Part.rt ||| Part.met
  | .coilMismatch _ => Part.regs ||| Part.fl
  | .imdEnable _ => Part.regs ||| Part.imd
  | .imdHalfPeriodEnd _ => Part.regs ||| Part.hmem ||| Part.inj ||| Part.jr ||| Part.rings ||| Part.fl ||| Part.tm ||| Part.st ||| Part.out ||| Part.imd
  | .demandRecordTransmit => Part.tm ||| Part.shr ||| Part.net
  | .demandRecord _ => Part.regs ||| Part.fl ||| Part.shr ||| Part.net
  | .shareCutoff => Part.regs ||| Part.hmem ||| Part.inj ||| Part.jr ||| Part.rings ||| Part.fl ||| Part.tm ||| Part.shr ||| Part.rt ||| Part.net
  | .shrNextatArm _ => Part.regs ||| Part.shr
  | .thermalDerateStep => Part.regs ||| Part.tm ||| Part.shr
  | .routingPlan => Part.regs ||| Part.tm ||| Part.dgr ||| Part.rt
  | .routingZeroTimeout => Part.regs ||| Part.fl ||| Part.dgr ||| Part.rt
  | .ethLinkChange _ _ _ => Part.regs ||| Part.hmem ||| Part.jr ||| Part.rings ||| Part.fl
  | .ethFrameReceive _ _ _ => Part.regs ||| Part.hmem ||| Part.jr ||| Part.rings ||| Part.fl ||| Part.cap ||| Part.net
  | .ethTransmitStart _ => Part.regs ||| Part.hmem ||| Part.free ||| Part.jr ||| Part.rings ||| Part.net ||| Part.hp
  | .fnetGclctlApply _ _ => Part.regs
  | .svFrame _ => Part.regs ||| Part.hmem ||| Part.inj ||| Part.jr ||| Part.rings ||| Part.fl ||| Part.st ||| Part.shr ||| Part.net ||| Part.svg
  | .svSampleDeadline _ => Part.regs ||| Part.hmem ||| Part.inj ||| Part.jr ||| Part.rings ||| Part.fl ||| Part.tm ||| Part.st ||| Part.shr ||| Part.svg
  | .svSubscriptionEnable _ => Part.regs ||| Part.fl ||| Part.shr ||| Part.svg
  | .svSubscriptionDisable _ => Part.regs ||| Part.fl ||| Part.shr ||| Part.svg
  | .svSubscriptionReconfigure _ => Part.regs ||| Part.fl ||| Part.st ||| Part.shr ||| Part.svg
  | .svPublication _ _ _ => Part.regs ||| Part.net ||| Part.svg
  | .gooseFrame _ => Part.regs ||| Part.hmem ||| Part.inj ||| Part.jr ||| Part.rings ||| Part.pw ||| Part.fl ||| Part.st ||| Part.pwm ||| Part.out ||| Part.cap ||| Part.net ||| Part.svg
  | .gooseTtlExpiry _ => Part.regs ||| Part.pw ||| Part.fl ||| Part.st ||| Part.pwm ||| Part.out ||| Part.cap
  | .gooseSubscriptionEnable _ => Part.regs ||| Part.svg
  | .gooseSubscriptionDisable _ => Part.regs ||| Part.pw ||| Part.fl ||| Part.st ||| Part.pwm ||| Part.out ||| Part.cap ||| Part.svg
  | .metrologyInstant _ _ => Part.regs ||| Part.free ||| Part.fl ||| Part.tm ||| Part.tlm ||| Part.shr ||| Part.met ||| Part.bil ||| Part.bst
  | .metrologyReturnWait _ => Part.met
  | .testPulseStart _ => Part.regs ||| Part.tm ||| Part.met
  | .testPulseEnd _ => Part.tm ||| Part.met
  | .testOutputConfigWrite _ _ _ => Part.regs ||| Part.met
  | .metEclr _ => Part.regs ||| Part.fl ||| Part.met ||| Part.bil ||| Part.bst
  | .lrImageStaged _ _ _ => Part.regs ||| Part.met
  | .lrActivate _ => Part.regs ||| Part.fl ||| Part.st
  | .lrSwitchComplete _ => Part.regs ||| Part.fl ||| Part.met ||| Part.bil ||| Part.bst
  | .metrologyProcessorRunning => Part.regs ||| Part.fl
  | .sealRequest _ => Part.regs ||| Part.fl ||| Part.bil
  | .sealComplete => Part.regs ||| Part.fl ||| Part.bil ||| Part.bst ||| Part.ffuse
  | .commitRequest => Part.regs ||| Part.bil ||| Part.bst
  | .commit15Min => Part.regs ||| Part.tm ||| Part.bil ||| Part.bst
  | .commitComplete _ => Part.regs ||| Part.fl ||| Part.bil ||| Part.bst
  | .shutdownRecordNorCopy => Part.regs ||| Part.th
  | .sessionOpen _ => Part.regs ||| Part.fl ||| Part.bil ||| Part.bst
  | .sessionClose _ => Part.regs ||| Part.bil ||| Part.bst
  | .sessionRecordSigned _ => Part.regs ||| Part.fl ||| Part.bil ||| Part.bst
  | .bilRecack _ => Part.regs ||| Part.bil ||| Part.bst
  | .bilLogack _ => Part.regs ||| Part.bil ||| Part.bst
  | .recReqBegin _ _ => Part.fl
  | .recData _ _ _ _ => Part.regs ||| Part.hmem ||| Part.jr ||| Part.rings ||| Part.fl ||| Part.cap
  | .theftWatchBlock _ => Part.regs ||| Part.tm ||| Part.tw
  | .outLock _ => Part.regs ||| Part.fl ||| Part.pwm ||| Part.out ||| Part.ctr ||| Part.bil ||| Part.bst
  | .outUnlock _ => Part.regs ||| Part.fl ||| Part.pwm ||| Part.out ||| Part.ctr ||| Part.bil ||| Part.bst
  | .outStart _ => Part.regs ||| Part.fl ||| Part.pwm ||| Part.out ||| Part.ctr ||| Part.bil ||| Part.bst
  | .outStop _ => Part.regs ||| Part.fl ||| Part.pwm ||| Part.out ||| Part.ctr ||| Part.bil ||| Part.bst
  | .outClr _ => Part.regs ||| Part.fl ||| Part.pwm ||| Part.out ||| Part.ctr ||| Part.bil ||| Part.bst
  | .tlockExpiry _ => Part.regs ||| Part.fl ||| Part.pwm ||| Part.out ||| Part.cap ||| Part.ctr ||| Part.bil ||| Part.bst
  | .tinsExpiry _ => Part.regs ||| Part.fl ||| Part.out ||| Part.bil ||| Part.bst
  | .tpreExpiry _ => Part.regs ||| Part.fl ||| Part.out ||| Part.bil ||| Part.bst
  | .trampExpiry _ => Part.regs ||| Part.fl ||| Part.pwm ||| Part.out ||| Part.cap ||| Part.ctr ||| Part.bil ||| Part.bst
  | .tdisExpiry _ => Part.regs ||| Part.fl ||| Part.pwm ||| Part.out ||| Part.cap ||| Part.ctr ||| Part.bil ||| Part.bst
  | .outSequenceRetry _ => Part.regs ||| Part.fl ||| Part.out ||| Part.ctr
  | .connectorChange _ _ => Part.regs ||| Part.hmem ||| Part.jr ||| Part.rings
  | .enableLoopChange _ _ => Part.regs
  | .t1sFrame _ _ _ _ => Part.regs ||| Part.hmem ||| Part.jr ||| Part.rings ||| Part.cap
  | .controlPilotPeriod _ _ _ _ => Part.regs ||| Part.hmem ||| Part.inj ||| Part.jr ||| Part.rings ||| Part.fl ||| Part.st ||| Part.veh
  | .proximityReading _ _ => Part.regs ||| Part.hmem ||| Part.jr ||| Part.rings ||| Part.veh
  | .flowWindow _ _ => Part.regs ||| Part.fl ||| Part.tm ||| Part.cbl
  | .fanStall _ => Part.regs ||| Part.fl
  | .stkCtlWake => Part.regs ||| Part.fl ||| Part.tm ||| Part.ce ||| Part.pwm ||| Part.out ||| Part.stk
  | .chainRewake => Part.regs ||| Part.fl ||| Part.tm ||| Part.ce ||| Part.pwm ||| Part.out ||| Part.stk
  | .wakeComplete => Part.regs ||| Part.fl ||| Part.ce ||| Part.pwm ||| Part.out ||| Part.stk
  | .enumComplete => Part.regs ||| Part.fl ||| Part.ce ||| Part.pwm ||| Part.out ||| Part.stk
  | .chainNop _ => Part.out ||| Part.stk
  | .chainEnum _ => Part.out ||| Part.stk
  | .chainEcho _ _ => Part.out ||| Part.stk
  | .chainCfg _ => Part.out ||| Part.stk
  | .chainSnap => Part.regs ||| Part.tm ||| Part.out ||| Part.stk
  | .chainRead _ => Part.tm ||| Part.out ||| Part.stk
  | .chainBal _ => Part.out ||| Part.stk
  | .chainOwt => Part.regs ||| Part.fl ||| Part.stk
  | .chainSleep => Part.stk
  | .chainResponse _ _ _ => Part.regs ||| Part.hmem ||| Part.inj ||| Part.jr ||| Part.rings ||| Part.fl ||| Part.ce ||| Part.pwm ||| Part.out ||| Part.stk
  | .chainResponseMissed _ => Part.regs ||| Part.fl ||| Part.ce ||| Part.pwm ||| Part.out ||| Part.stk
  | .stkOwcfgStart _ _ => Part.regs ||| Part.stk
  | .openWirePeriod => Part.regs ||| Part.stk
  | .bufferGo => Part.regs ||| Part.fl ||| Part.stk
  | .bufferStop => Part.regs ||| Part.fl ||| Part.ce ||| Part.pwm ||| Part.stk
  | .bufferTqExpiry => Part.regs ||| Part.fl ||| Part.pwm
  | .hrngTailWrite _ _ => Part.regs ||| Part.hmem ||| Part.jr ||| Part.rings ||| Part.fl ||| Part.st ||| Part.cap ||| Part.can ||| Part.hp
  | .ringCoalTimeout _ => Part.regs ||| Part.hmem ||| Part.jr ||| Part.rings
  | .dramScrub _ => Part.regs ||| Part.hmem ||| Part.inj ||| Part.jr ||| Part.rings ||| Part.fl ||| Part.ash
  | .hostBadAccess _ _ _ _ => Part.regs ||| Part.hmem ||| Part.lastRead ||| Part.busError ||| Part.jr ||| Part.rings
  | .hsysImgok _ => Part.regs ||| Part.hmem ||| Part.jr ||| Part.rings ||| Part.pw ||| Part.fl ||| Part.st ||| Part.pwm ||| Part.out ||| Part.cap ||| Part.hp
  | .hevtClaimRead _ => Part.regs ||| Part.lastRead ||| Part.hp
  | .hevtClaimWrite _ => Part.hp
  | .gpioEdge _ _ => Part.regs ||| Part.hmem ||| Part.jr ||| Part.rings
  | .canTxReq _ _ => Part.regs
  | .canTxAbort _ _ => Part.regs ||| Part.hmem ||| Part.jr ||| Part.rings ||| Part.fl ||| Part.st ||| Part.can
  | .canStartOfFrame _ => Part.regs ||| Part.can
  | .canTransmitComplete _ => Part.regs ||| Part.hmem ||| Part.free ||| Part.jr ||| Part.rings ||| Part.fl ||| Part.st ||| Part.cap ||| Part.can
  | .canArbitrationLost _ => Part.regs ||| Part.hmem ||| Part.jr ||| Part.rings ||| Part.fl ||| Part.st ||| Part.can
  | .canFrameError _ _ _ => Part.regs ||| Part.hmem ||| Part.jr ||| Part.rings ||| Part.fl ||| Part.st ||| Part.can
  | .canRecover _ => Part.can
  | .canBusoffRecoveryComplete _ => Part.regs ||| Part.hmem ||| Part.jr ||| Part.rings ||| Part.fl ||| Part.st ||| Part.can
  | .canFrameReceived _ _ => Part.regs ||| Part.hmem ||| Part.free ||| Part.jr ||| Part.rings ||| Part.fl ||| Part.cap ||| Part.can
  | .canMailboxLock _ _ => Part.regs ||| Part.lastRead ||| Part.can
  | .canMailboxRelease _ _ => Part.regs ||| Part.lastRead ||| Part.can
  | .canRxpop _ => Part.regs ||| Part.hmem ||| Part.jr ||| Part.rings ||| Part.cap ||| Part.can
  | .canFilterWrite _ _ _ _ => Part.regs ||| Part.can
  | .debugUnlock _ _ => Part.regs ||| Part.hmem ||| Part.free ||| Part.jr ||| Part.rings ||| Part.fl ||| Part.ffuse ||| Part.hfuse
  | .lifecycleToken _ _ _ => Part.regs ||| Part.hmem ||| Part.free ||| Part.jr ||| Part.rings ||| Part.fl ||| Part.ffuse ||| Part.hfuse
  | .slotProgram _ _ _ => Part.regs ||| Part.hmem ||| Part.free ||| Part.jr ||| Part.rings ||| Part.fl ||| Part.ffuse ||| Part.hfuse
  | .slotRevoke _ _ _ => Part.regs ||| Part.hmem ||| Part.free ||| Part.jr ||| Part.rings ||| Part.fl ||| Part.ffuse ||| Part.hfuse
  | .injectionToken _ _ => Part.regs ||| Part.hmem ||| Part.free ||| Part.inj ||| Part.jr ||| Part.rings ||| Part.fl ||| Part.pwm ||| Part.ffuse ||| Part.hfuse
  | .relock _ => Part.regs
  | .fsecPairctlGo => Part.regs ||| Part.free ||| Part.fl ||| Part.fsec
  | .keyLoad _ => Part.regs ||| Part.fl ||| Part.svg ||| Part.fsec
  | .keySlotClear _ => Part.regs ||| Part.fl ||| Part.svg ||| Part.fsec
  | .fsecStmtctlGo => Part.regs ||| Part.fl
  | .encDerive _ => Part.regs ||| Part.hmem ||| Part.jr ||| Part.rings ||| Part.enc
  | .encUnwrap _ => Part.regs ||| Part.hmem ||| Part.jr ||| Part.rings ||| Part.enc
  | .encWrap _ => Part.regs ||| Part.hmem ||| Part.jr ||| Part.rings
  | .encSign _ => Part.regs ||| Part.hmem ||| Part.jr ||| Part.rings
  | .encAttest _ => Part.regs ||| Part.hmem ||| Part.jr ||| Part.rings ||| Part.enc
  | .encExtend _ => Part.regs ||| Part.hmem ||| Part.jr ||| Part.rings
  | .encFieldmeas _ => Part.regs ||| Part.hmem ||| Part.jr ||| Part.rings ||| Part.enc
  | .encPair _ => Part.regs ||| Part.hmem ||| Part.free ||| Part.jr ||| Part.rings ||| Part.enc
  | .encKeywrapf _ => Part.regs ||| Part.hmem ||| Part.jr ||| Part.rings
  | .encAead _ => Part.regs ||| Part.hmem ||| Part.jr ||| Part.rings
  | .encRandom _ => Part.regs ||| Part.hmem ||| Part.free ||| Part.jr ||| Part.rings
  | .encClear _ => Part.regs ||| Part.hmem ||| Part.jr ||| Part.rings ||| Part.enc
  | .secMonoinc _ => Part.regs ||| Part.enc
  | .trngHealthFailure _ => Part.regs ||| Part.hmem ||| Part.jr ||| Part.rings ||| Part.fl
  | .tamperInput _ _ _ => Part.regs ||| Part.hmem ||| Part.jr ||| Part.rings ||| Part.pw ||| Part.fl ||| Part.shr ||| Part.svg ||| Part.fsec ||| Part.enc
  | .boundaryScanInstruction _ _ => Part.fsec ||| Part.enc
  | .thermalReading _ _ _ => Part.regs ||| Part.hmem ||| Part.free ||| Part.jr ||| Part.rings ||| Part.fl ||| Part.veh ||| Part.th
  | .tqsExpiry => Part.regs ||| Part.fl ||| Part.tm ||| Part.out ||| Part.ctr ||| Part.bil ||| Part.bst
  | .hostShutdownClear => Part.regs ||| Part.hmem ||| Part.free ||| Part.inj ||| Part.jr ||| Part.rings ||| Part.pw ||| Part.fl ||| Part.tm ||| Part.st ||| Part.pwm ||| Part.out ||| Part.veh ||| Part.cap ||| Part.ash ||| Part.hfuse ||| Part.fsec ||| Part.enc ||| Part.can ||| Part.hp ||| Part.th
  | .thresholdWrite _ _ _ => Part.regs
  | .fthmRecctl _ => Part.th
  | .hthmShutrecClr => Part.regs
  | .injectionStart _ _ _ => Part.regs ||| Part.hmem ||| Part.free ||| Part.inj ||| Part.jr ||| Part.rings ||| Part.pw ||| Part.fl ||| Part.st ||| Part.pwm ||| Part.out ||| Part.cap ||| Part.met
  | .injectionStop _ => Part.regs ||| Part.hmem ||| Part.inj ||| Part.jr ||| Part.rings ||| Part.fl ||| Part.pwm
  | .injectionEnd _ _ => Part.regs ||| Part.hmem ||| Part.inj ||| Part.jr ||| Part.rings ||| Part.fl ||| Part.pwm
  | .journalAllowance => Part.regs ||| Part.hmem ||| Part.jr ||| Part.rings
  | .floodEnd _ => Part.regs ||| Part.hmem ||| Part.jr ||| Part.rings ||| Part.tm
  | .jrnData _ _ _ _ => Part.regs ||| Part.hmem ||| Part.jr ||| Part.rings ||| Part.fl ||| Part.cap
  | .captureArm => Part.regs ||| Part.cap
  | .captureTrigger => Part.fl ||| Part.cap
  | .captureStop => Part.regs ||| Part.cap
  | .capReqBegin _ _ => Part.fl ||| Part.cap
  | .capReqEnd _ => Part.fl ||| Part.cap
  | .capReqAbort _ => Part.fl ||| Part.cap
  | .capData _ _ _ _ => Part.regs ||| Part.hmem ||| Part.jr ||| Part.rings ||| Part.fl ||| Part.cap
  | .fieldAshReady _ => Part.regs ||| Part.fl ||| Part.ash
  | .ashReqBegin _ => Part.regs ||| Part.fl ||| Part.ash
  | .ashData _ _ _ _ => Part.regs ||| Part.hmem ||| Part.jr ||| Part.rings ||| Part.fl ||| Part.cap
  | .fdiaAshctlClr => Part.regs ||| Part.ash
  | .hdiaAshctlSnap => Part.hmem
  | .hdiaAshctlExported => Part.regs ||| Part.ash
  | .ashGatherComplete _ => Part.regs ||| Part.hmem ||| Part.jr ||| Part.rings ||| Part.ash
  | .badAccess _ _ _ => Part.regs ||| Part.lastRead ||| Part.busError
  | .registerWrite _ _ => Part.regs ||| Part.fmem ||| Part.hmem ||| Part.lastRead ||| Part.busError ||| Part.free ||| Part.inj ||| Part.jr ||| Part.rings ||| Part.pw ||| Part.fl ||| Part.tm ||| Part.st ||| Part.ce ||| Part.dgr ||| Part.pwm ||| Part.out ||| Part.cbl ||| Part.veh ||| Part.cap ||| Part.ash ||| Part.fba ||| Part.ctr ||| Part.imd ||| Part.tlm ||| Part.shr ||| Part.rt ||| Part.net ||| Part.svg ||| Part.met ||| Part.bil ||| Part.bst ||| Part.tw ||| Part.ffuse ||| Part.hfuse ||| Part.fsec ||| Part.enc ||| Part.stk ||| Part.can ||| Part.hp ||| Part.th
  | .registerReadClear _ => Part.regs ||| Part.hmem ||| Part.lastRead ||| Part.busError ||| Part.free ||| Part.jr ||| Part.rings ||| Part.ce ||| Part.net ||| Part.can ||| Part.hp
  | .latchedPairRead _ => Part.regs ||| Part.hmem ||| Part.lastRead ||| Part.busError ||| Part.free ||| Part.jr ||| Part.rings ||| Part.ce ||| Part.net ||| Part.can ||| Part.hp
  | .heartbeatSend => Part.fl
  | .hfluHbkick _ => Part.fl
  | .hfluTxwinCommit _ => Part.regs ||| Part.hmem ||| Part.jr ||| Part.rings ||| Part.fl
  | .fieldLost => Part.regs ||| Part.hmem ||| Part.jr ||| Part.rings ||| Part.fl
  | .noCreditTimeout _ => Part.regs ||| Part.hmem ||| Part.jr ||| Part.rings
  | .timeSyncMissing => Part.regs ||| Part.hmem ||| Part.jr ||| Part.rings
  | .supplyRelease _ => Part.regs ||| Part.fmem ||| Part.hmem ||| Part.free ||| Part.inj ||| Part.jr ||| Part.rings ||| Part.pw ||| Part.fl ||| Part.tm ||| Part.st ||| Part.ce ||| Part.dgr ||| Part.pwm ||| Part.out ||| Part.cbl ||| Part.veh ||| Part.cap ||| Part.ash ||| Part.fba ||| Part.ctr ||| Part.imd ||| Part.tlm ||| Part.shr ||| Part.rt ||| Part.net ||| Part.svg ||| Part.met ||| Part.bil ||| Part.bst ||| Part.tw ||| Part.hfuse ||| Part.fsec ||| Part.enc ||| Part.stk ||| Part.can ||| Part.hp ||| Part.th
  | .batteryLoss _ => Part.regs ||| Part.hmem ||| Part.pw ||| Part.tm ||| Part.out ||| Part.bst ||| Part.tw ||| Part.fsec ||| Part.enc ||| Part.th
  | .trngHealthRecovery _ => Part.regs
  | .tachEdge _ => Part.regs ||| Part.cbl
  | .hostEccError _ _ _ => Part.regs ||| Part.hmem ||| Part.busError ||| Part.inj ||| Part.jr ||| Part.rings ||| Part.fl ||| Part.ash
  | .fmpWindowEccError _ => Part.regs ||| Part.fl
  | .plcaStatusChange _ _ _ => Part.regs ||| Part.hmem ||| Part.jr ||| Part.rings
  | .peripheralTransfer _ _ _ => Part.regs ||| Part.hmem ||| Part.jr ||| Part.rings ||| Part.cap ||| Part.hp

end Sys2Proof.Machine
end

