-- ==== Sys2Proof/Certificates/Slice0/Obligations.lean ====
section
/-! DEFINITION. The statements for the provers, family by family. `Answers c s P` says that the command answers a next state, that its
queue is the one it was given, and that the block it leaves has the property `P`. -/

open Sys2Proof
open Sys2Proof.Machine

/-- BATTERY_SWITCHOVER makes the named domain's source the battery or the main supply, shows it in the source bit and changes no
other register. BATTERY_LOSS leaves the block as it is while the main supply of that side is there, and otherwise leaves every
register of the battery domain at its reset value and clears what the domain holds: for F0 the live copies, the theft watch
and the time counter, for H0 the battery-backed SRAM and the RTC. A field side already held by its supply monitor, and a host
side already held, stay as they are; otherwise SUPPLY_MONITOR_RESET leaves the field DORMANT with CAUSE 0x02, or the host with
only H0 on, and holds the side. (R34, R421, R422, Table 2-2, 02_modes_power_reset.md, 23_electrical_module.md) -/
def Obligations.SupplyCommandsMoveTheBatteryDomains : Prop :=
  ∀ s : State,
    (∀ b : Bool,
      Answers (.batterySwitchover .field b) s (fun t => t.pw.auxF = !b ∧ t.rd R.FSYS_PWRSTAT.F0SRC = b2n b ∧
        s.dev.RegsBut [R.FSYS_PWRSTAT.F0SRC] t ∧ s.dev.OnlyIn (Part.regs ||| Part.pw) t) ∧
      Answers (.batterySwitchover .host b) s (fun t => t.pw.auxH = !b ∧ t.rd R.HSYS_PWRSTAT.H0SRC = b2n b ∧
        s.dev.RegsBut [R.HSYS_PWRSTAT.H0SRC] t ∧ s.dev.OnlyIn (Part.regs ||| Part.pw) t)) ∧
    (s.dev.pw.auxF = true → Answers (.batteryLoss .field) s (fun t => t = s.dev)) ∧
    (s.dev.pw.auxH = true → Answers (.batteryLoss .host) s (fun t => t = s.dev)) ∧
    (s.dev.pw.auxF = false → Answers (.batteryLoss .field) s (fun t =>
      (∀ f : Fld, domOfKey f.key = .f0 → t.rd f = f.reset) ∧ (∀ f : Fld, domOfKey f.key ≠ .f0 → t.rd f = s.dev.rd f) ∧
      t.bst.copies = [none, none] ∧ t.tw = {} ∧ t.tm.f0 = 0 ∧ t.hmem = s.dev.hmem)) ∧
    (s.dev.pw.auxH = false → Answers (.batteryLoss .host) s (fun t =>
      (∀ f : Fld, domOfKey f.key = .h0 → t.rd f = f.reset) ∧ (∀ f : Fld, domOfKey f.key ≠ .h0 → t.rd f = s.dev.rd f) ∧
      (∀ a : Nat, 0x18000000 ≤ a → a < 0x18010000 → Mem.read t.hmem a = unwrittenByte) ∧
      (∀ a : Nat, a < 0x18000000 ∨ 0x18010000 ≤ a → Mem.read t.hmem a = Mem.read s.dev.hmem a) ∧ t.tm.rtc = 0 ∧ t.bst = s.dev.bst)) ∧
    (s.dev.pw.fHeld = true → Answers (.supplyMonitorReset .field) s (fun t => t = s.dev)) ∧
    (s.dev.pw.hHeld = true → Answers (.supplyMonitorReset .host) s (fun t => t = s.dev)) ∧
    (s.dev.pw.fHeld = false → Answers (.supplyMonitorReset .field) s (fun t =>
      t.rd R.FSYS_MODE.MODE = 0 ∧ t.rd R.FSYS_MODE.PREV = s.dev.mode.code ∧ t.rd R.FSYS_MODE.CAUSE = 0x02 ∧ t.rd R.FSYS_PWRSTAT.ON = 1 ∧
      t.pw.fHeld = true ∧ t.ffuse = s.dev.ffuse)) ∧
    (s.dev.pw.hHeld = false → Answers (.supplyMonitorReset .host) s (fun t =>
      t.rd R.HSYS_PWRSTAT.ON = 1 ∧ t.pw.hHeld = true ∧ t.hfuse = s.dev.hfuse))

/-- Each reset command, under its condition, answers the block after the reset operation of its side with its bit of the reset-
cause register: SW_FIELD needs the key 0xC4E1 and a mode not above READY, SW_WARM and SW_COLD the key, WATCHDOG_STAGE_2_HOST a
stage 1 that nothing serviced, SUPPLY_RELEASE a side held in reset, THERMAL_RESET the shutdown sequence running,
HOST_SHUTDOWN_CLEAR a shut host that has cooled. With a wrong key the block stays as it is. LS_ENC resets the host as a fatal
error. POWER_ON_RESET clears the side's battery domain first. (R35, R340, R392, R395, R421, Table 2-4,
02_modes_power_reset.md) -/
def Obligations.ResetCommandsRunTheirReset : Prop :=
  ∀ s : State,
    Answers (.powerOnReset .field) s (fun t =>
      t = (({ s.dev.f0Loss with pw := { s.dev.f0Loss.pw with auxF := true } }).wr R.FSYS_MODE.MODE 0).fieldReset 0x01 true) ∧
    Answers (.powerOnReset .host) s (fun t => t = ({ s.dev.h0Loss with pw := { s.dev.h0Loss.pw with auxH := true } }).hostReset true none) ∧
    (s.dev.pw.fHeld = true → s.dev.pw.f0Lost = false →
      Answers (.supplyRelease .field) s (fun t => t = (s.dev.wr R.FSYS_RSTCAUSE.SUPPLY 1).fieldReset 0x01 true)) ∧
    (s.dev.pw.hHeld = true → s.dev.pw.h0Lost = false →
      Answers (.supplyRelease .host) s (fun t => t = s.dev.hostReset true (some R.HSYS_RSTCAUSE.SUPPLY))) ∧
    (s.dev.domOn .f1 = true → s.dev.mode.readyOrLower = true →
      Answers (.swField 0xC4E1) s (fun t => t = (s.dev.wr R.FSYS_RSTCAUSE.SW_FIELD 1).fieldReset 0x13 false)) ∧
    (s.dev.domOn .h1 = true →
      Answers (.swWarm 0xC4E1) s (fun t => t = s.dev.hostReset false (some R.HSYS_RSTCAUSE.SW_WARM)) ∧
      Answers (.swCold 0xC4E1) s (fun t => t = s.dev.hostReset true (some R.HSYS_RSTCAUSE.SW_COLD)) ∧
      Answers .lsEnc s (fun t => t = (s.dev.hostFatal 7).hostReset false (some R.HSYS_RSTCAUSE.LS_ENC))) ∧
    (s.dev.domOn .h1 = true → s.dev.pw.nmiH = true →
      Answers .watchdogStage2Host s (fun t => t = (s.dev.hostFatal 6).hostReset false (some R.HSYS_RSTCAUSE.WDT2))) ∧
    (s.dev.domOn .h1 = true → s.dev.th.shutH = true → s.dev.coolEnough .host = true →
      Answers .hostShutdownClear s (fun t => t = s.dev.hostReset false none)) ∧
    (s.dev.domOn .f1 = true → s.dev.th.shut = true → s.dev.rd R.FTHM_STAT.SHUT = 1 →
      Answers (.thermalReset .field) s (fun t => ∃ d : Dev, d.regs = s.dev.regs ∧ s.dev.OnlyIn (Part.tm ||| Part.th) d ∧
        t = (d.wr R.FSYS_RSTCAUSE.THERM 1).fieldReset 0x15 false)) ∧
    (∀ key : Nat, key ≠ 0xC4E1 → Answers (.swField key) s (fun t => t = s.dev) ∧ Answers (.swWarm key) s (fun t => t = s.dev) ∧
      Answers (.swCold key) s (fun t => t = s.dev) ∧ Answers (.swFmp key) s (fun t => t = s.dev))

/-- What every field reset does first: each register field of F1 to F4, but for FSYS_BOOTCFG.BANKED and FSYS_PWRSTAT.F0SRC, reads
its reset value and each of F0 is kept; staging and capture memory are empty, the flue link is down, and fuses, stream slots,
live copies and the theft watch are kept. What every host reset does first: each field of H1 to H3, but for
HSYS_PWRSTAT.H0SRC, reads its reset value; battery-backed SRAM is kept and SRAM is lost; DRAM is kept in a warm reset and lost
in a cold one; the flue link is down and the fuses are kept. (R35, R46, R340, Table 2-3, 02_modes_power_reset.md) -/
def Obligations.ResetsLeaveTheirDomainsAtReset : Prop :=
  (∀ (d : Dev) (f : Fld),
    ((domOfKey f.key = .f1 ∨ domOfKey f.key = .f2 ∨ domOfKey f.key = .f3 ∨ domOfKey f.key = .f4) →
      f.key ≠ R.FSYS_BOOTCFG.BANKED.key → f.key ≠ R.FSYS_PWRSTAT.F0SRC.key → d.fieldClear.rd f = f.reset) ∧
    (domOfKey f.key = .f0 → d.fieldClear.rd f = d.rd f) ∧
    d.fieldClear.fmem = [] ∧ d.fieldClear.fl.up = false ∧ d.fieldClear.ffuse = d.ffuse ∧ d.fieldClear.hfuse = d.hfuse ∧
    d.fieldClear.st.slots = d.st.slots ∧ d.fieldClear.bst = d.bst ∧ d.fieldClear.tw = d.tw ∧ d.fieldClear.pw.bootF = true) ∧
  (∀ (d : Dev) (cold : Bool),
    (∀ f : Fld, (domOfKey f.key = .h1 ∨ domOfKey f.key = .h2 ∨ domOfKey f.key = .h3) → f.key ≠ R.HSYS_PWRSTAT.H0SRC.key →
      (d.hostClear cold).rd f = f.reset) ∧
    (∀ a : Nat, 0x18000000 ≤ a → a < 0x18010000 → Mem.read (d.hostClear cold).hmem a = Mem.read d.linkDown.hmem a) ∧
    (∀ a : Nat, 0x80000000 ≤ a → Mem.read (d.hostClear false).hmem a = Mem.read d.linkDown.hmem a) ∧
    (∀ a : Nat, 0x80000000 ≤ a → Mem.read (d.hostClear true).hmem a = unwrittenByte) ∧
    (∀ a : Nat, a < 0x18000000 ∨ (0x18010000 ≤ a ∧ a < 0x80000000) → Mem.read (d.hostClear cold).hmem a = unwrittenByte) ∧
    (d.hostClear cold).fl.up = false ∧ (d.hostClear cold).ffuse = d.ffuse ∧ (d.hostClear cold).hfuse = d.hfuse ∧ (d.hostClear cold).rings = {})

/-- WATCHDOG_SERVICE with 0x5AA5 ends the stage 1 of its side and any other value changes nothing. WATCHDOG_STAGE_1 raises the
side's non-maskable interrupt. SW_FMP with the key, WATCHDOG_STAGE_2_FIELD after a stage 1 that nothing serviced, and LS_FMP
hold the FMP for its restart and set their bit of FSYS_RSTCAUSE; the first two leave FSYS_MODE as it is and LS_FMP asks for
TRIPPED. FMP_RESTART_COMPLETE ends the hold. LS_MET sets its bit and stops the metrology processor. CE_LOCKSTEP_MISMATCH trips
the device. T_HB_EXPIRY sets HOSTLOST alone; T_AUTO_EXPIRY and QUENCH_LIMIT_EXPIRY mark their time as run out in their mode.
(R38, R65, R280, Table 2-2, Table 2-4, 02_modes_power_reset.md) -/
def Obligations.FmpOnlyResetsHoldTheProcessor : Prop :=
  ∀ s : State,
    (∀ v : Nat, v % 65536 = 0x5AA5 →
      Answers (.watchdogService .field v) s (fun t => t = { s.dev with pw := { s.dev.pw with nmiF := false } }) ∧
      Answers (.watchdogService .host v) s (fun t => t = { s.dev with pw := { s.dev.pw with nmiH := false } })) ∧
    (∀ (v : Nat) (side : Side), v % 65536 ≠ 0x5AA5 → Answers (.watchdogService side v) s (fun t => t = s.dev)) ∧
    (s.dev.domOn .f1 = true → Answers (.watchdogStage1 .field) s (fun t => t.pw.nmiF = true ∧ t.regs = s.dev.regs)) ∧
    (s.dev.domOn .h1 = true → Answers (.watchdogStage1 .host) s (fun t => t.pw.nmiH = true)) ∧
    (s.dev.domOn .f1 = true → s.dev.pw.nmiF = true → Answers .watchdogStage2Field s (fun t =>
      t.pw.fmpRestart = true ∧ t.pw.nmiF = false ∧ t.rd R.FSYS_RSTCAUSE.WDT2 = 1 ∧ t.rd R.FSYS_MODE.MODE = s.dev.rd R.FSYS_MODE.MODE)) ∧
    (s.dev.domOn .f1 = true → Answers (.swFmp 0xC4E1) s (fun t =>
      t.pw.fmpRestart = true ∧ t.rd R.FSYS_RSTCAUSE.SW_FMP = 1 ∧ t.rd R.FSYS_MODE.MODE = s.dev.rd R.FSYS_MODE.MODE)) ∧
    (s.dev.domOn .f1 = true → Answers .lsFmp s (fun t => t.pw.fmpRestart = true ∧ t.pw.tripPend = true)) ∧
    (s.dev.domOn .f1 = true → Answers .lsMet s (fun t => t.rd R.FSYS_RSTCAUSE.LS_MET = 1 ∧ t.rd R.MET_LRCTL.RUN ≠ 1)) ∧
    (s.dev.domOn .f2 = true → Answers .ceLockstepMismatch s (fun t => t.pw.tripPend = true)) ∧
    Answers .fmpRestartComplete s (fun t => t = { s.dev with pw := { s.dev.pw with fmpRestart := false } }) ∧
    (s.dev.domOn .f1 = true → Answers .tHbExpiry s (fun t =>
      t.rd R.FSYS_MODE.HOSTLOST = 1 ∧ s.dev.RegsBut [R.FSYS_MODE.HOSTLOST] t ∧ s.dev.OnlyIn Part.regs t)) ∧
    (s.dev.domOn .f1 = true → s.dev.mode = .autonomous →
      Answers .tAutoExpiry s (fun t => t = { s.dev with pw := { s.dev.pw with autoExpired := true } })) ∧
    (s.dev.domOn .f1 = true → s.dev.mode = .quench →
      Answers .quenchLimitExpiry s (fun t => t = { s.dev with pw := { s.dev.pw with quenchExpired := true } }))

/-- With F1 on and no request pending, MODE_REQ, RE_ARM (its re-arm conditions met), FSYS_MODEREQ and FSYS_MODEREQ_REARM whose
target has a row from the present mode become the pending request with their tag or, for the FMP, with FSYS_MODEREQ.RESULT 1;
a flue request counts as new when its tag has no kept response. While the pending request stands an FMP request changes
neither it nor the mode. BOOT_COMPLETE with a passed self-test, a field image and an active stream on a drawer with the
variant 1 or 2, F4 on, leaves KINDLING through the transition into READY, or BANKED where FSYS_BOOTCFG.BANKED or a pending
shutdown record asks for it (state in which no thermal shutdown stands). (R29, R30, R32, R39, R63, Table 2-2,
02_modes_power_reset.md) -/
def Obligations.ModeRequestsWaitForTheirTransition : Prop :=
  ∀ s : State, s.dev.domOn .f1 = true →
    (∀ (tag target : Nat) (rearm ack : Bool), s.dev.keptRsp tag 0x14 = none →
      s.dev.pw.req = none →
      let d := s.dev.takeCell .field 0x14
      let r : ModeReq := { target := target, rearm := rearm, ack := ack, tag := some tag }
      d.reqCode r = 0 →
        (rearm = false → ack = false → Answers (.modeReq tag target) s (fun t => t.pw.req = some r ∧ t.rd R.FSYS_MODE.MODE = s.dev.rd R.FSYS_MODE.MODE)) ∧
        (rearm = true → Answers (.reArm tag target ack) s (fun t => t.pw.req = some r ∧ t.rd R.FSYS_MODE.MODE = s.dev.rd R.FSYS_MODE.MODE))) ∧
    (∀ target : Fin 16, s.dev.pw.req = none → (s.dev.reqRow s.dev.mode { target := target.val, rearm := false, ack := s.dev.th.ackKey }).isSome = true →
      Answers (.fsysModereq target) s (fun t => t.pw.req = some { target := target.val, rearm := false, ack := s.dev.th.ackKey } ∧
        t.rd R.FSYS_MODEREQ.RESULT = 1 ∧ t.rd R.FSYS_MODEREQ.TARGET = target.val ∧ t.rd R.FSYS_MODE.MODE = s.dev.rd R.FSYS_MODE.MODE)) ∧
    (∀ target : Fin 16, s.dev.pw.req = none →
      (let d := { ((s.dev.wr R.FSYS_MODEREQ.TARGET target.val).wrB R.FSYS_MODEREQ.REARM true) with th := { s.dev.th with ackKey := false } }
       d.reqCode { target := target.val, rearm := true, ack := s.dev.th.ackKey } = 0) →
      Answers (.fsysModereqRearm target) s (fun t => t.pw.req = some { target := target.val, rearm := true, ack := s.dev.th.ackKey } ∧
        t.rd R.FSYS_MODEREQ.RESULT = 1 ∧ t.rd R.FSYS_MODE.MODE = s.dev.rd R.FSYS_MODE.MODE)) ∧
    (∀ target : Fin 16, s.dev.pw.req.isSome = true →
      Answers (.fsysModereq target) s (fun t => t.pw.req = s.dev.pw.req ∧ t.rd R.FSYS_MODEREQ.RESULT = 3)) ∧
    (s.dev.mode = .kindling → s.dev.pw.bootF = true → s.dev.domOn .f4 = true → s.dev.rd R.FSYS_VARIANT.VARIANT = 1 ∨ s.dev.rd R.FSYS_VARIANT.VARIANT = 2 →
      s.dev.streamActive = true → s.dev.th.shut = false →
      let d := ({ s.dev with pw := { s.dev.pw with bootF := false } }).raise 13 0 [0]
      (d.shutRecPending = false → s.dev.on R.FSYS_BOOTCFG.BANKED = false → Answers (.bootComplete true true) s (fun t => t = d.enter .ready 0x03)) ∧
      (s.dev.on R.FSYS_BOOTCFG.BANKED = true → Answers (.bootComplete true true) s (fun t => t = d.enter .banked 0x04)))

/-- For the metrology block (no seal held), a publication, a field port, a host port and a cable block, in a domain that is on: a
disable request in ENABLED leaves EN 0 and the block DRAINING, an enable request in DISABLED leaves EN 1 and the block
ENABLED, and DRAIN_COMPLETE of a draining block whose EN is 0 leaves it DISABLED. While the metrology seal of a legal-
metrology die is set, a disable request of MET or BIL changes nothing. (R40, R41, R43, 02_modes_power_reset.md) -/
def Obligations.BlockRequestsDrainAndEnable : Prop :=
  ∀ s : State,
    (s.dev.domOn .f1 = true → s.dev.sealHolds = false → s.dev.rd R.MET_CTL.STATUS = 1 →
      Answers (.blockDisableRequest .met) s (fun t => t.rd R.MET_CTL.EN = 0 ∧ t.rd R.MET_CTL.STATUS = 2 ∧
        s.dev.RegsBut [R.MET_CTL.EN, R.MET_CTL.STATUS] t ∧ s.dev.OnlyIn Part.regs t)) ∧
    (s.dev.domOn .f1 = true → s.dev.sealHolds = true → Answers (.blockDisableRequest .met) s (fun t => t = s.dev) ∧
      Answers (.blockDisableRequest .bil) s (fun t => t = s.dev)) ∧
    (s.dev.domOn .f1 = true → s.dev.rd R.MET_CTL.STATUS = 0 →
      Answers (.blockEnableRequest .met) s (fun t => t.rd R.MET_CTL.EN = 1 ∧ t.rd R.MET_CTL.STATUS = 1 ∧
        s.dev.RegsBut [R.MET_CTL.EN, R.MET_CTL.STATUS] t ∧ s.dev.OnlyIn Part.regs t)) ∧
    (s.dev.domOn .f1 = true → s.dev.rd R.MET_CTL.STATUS = 2 → s.dev.rd R.MET_CTL.EN = 0 →
      Answers (.drainComplete .met) s (fun t => t.rd R.MET_CTL.STATUS = 0 ∧ s.dev.RegsBut [R.MET_CTL.STATUS] t ∧ s.dev.OnlyIn Part.regs t)) ∧
    (∀ p : Fin 2, s.dev.domOn .f4 = true →
      (s.dev.rd (R.SVG_PUBSTAT.STATUS p) = 1 → Answers (.blockDisableRequest (.pub p)) s (fun t =>
        t.rd (R.SVG_PUBCFG.EN p) = 0 ∧ t.rd (R.SVG_PUBSTAT.STATUS p) = 2 ∧ s.dev.OnlyIn Part.regs t)) ∧
      (s.dev.rd (R.SVG_PUBSTAT.STATUS p) = 0 → Answers (.blockEnableRequest (.pub p)) s (fun t =>
        t.rd (R.SVG_PUBCFG.EN p) = 1 ∧ t.rd (R.SVG_PUBSTAT.STATUS p) = 1 ∧ s.dev.OnlyIn Part.regs t)) ∧
      (s.dev.rd (R.SVG_PUBSTAT.STATUS p) = 2 → s.dev.rd (R.SVG_PUBCFG.EN p) = 0 → Answers (.drainComplete (.pub p)) s (fun t =>
        t.rd (R.SVG_PUBSTAT.STATUS p) = 0 ∧ s.dev.OnlyIn Part.regs t)) ∧
      (s.dev.rd (R.FNET_PORT.STATUS p) = 1 → Answers (.blockDisableRequest (.fieldPort p)) s (fun t =>
        t.rd (R.FNET_PORT.EN p) = 0 ∧ t.rd (R.FNET_PORT.STATUS p) = 2 ∧ s.dev.OnlyIn Part.regs t)) ∧
      (s.dev.rd (R.FNET_PORT.STATUS p) = 0 → Answers (.blockEnableRequest (.fieldPort p)) s (fun t =>
        t.rd (R.FNET_PORT.EN p) = 1 ∧ t.rd (R.FNET_PORT.STATUS p) = 1 ∧ s.dev.OnlyIn Part.regs t)))

/-- FLUE_LINK_UP brings the link up on both ends with every SEQ, expected SEQ and freed count 0, and nothing kept any more.
FLUE_RETRAIN notes the failed trainings of its lane and takes the link down. With the link down FLUE_CELL_SLOT changes
nothing; with it up the slot number of the sender advances by 1 modulo 64, a SAFETY message at the head of its queue leaves in
slot 0 and stays to be sent once more, and that second copy leaves in the next slot 0. (R46, R47, R51, R53, 03_flue.md) -/
def Obligations.FlueLinkAndSlots : Prop :=
  ∀ s : State,
    Answers .flueLinkUp s (fun t => t.fl.up = true ∧ t.rd R.FFLU_LINK.UP = 1 ∧ t.rd R.HFLU_LINK.UP = 1 ∧ t.fl.keptEvents = [] ∧
      t.fl.h2f.seq = List.replicate 8 0 ∧ t.fl.h2f.expSeq = List.replicate 8 0 ∧ t.fl.f2h.seq = List.replicate 8 0 ∧ t.fl.f2h.slot = 0) ∧
    (∀ (sender : Side) (lane : Fin 2) (fails : Nat),
      Answers (.flueRetrain sender lane fails) s (fun t => t.fl.up = false ∧ t.rd R.FFLU_LINK.UP = 0 ∧ t.rd R.HFLU_LINK.UP = 0 ∧
        (t.sendDir sender).trainFails = setAt (s.dev.sendDir sender).trainFails lane fails)) ∧
    (∀ sender : Side,
      (s.dev.fl.up = false → Answers (.flueCellSlot sender) s (fun t => t = s.dev)) ∧
      (s.dev.fl.up = true → Answers (.flueCellSlot sender) s (fun t => (t.sendDir sender).slot = ((s.dev.sendDir sender).slot + 1) % 64)) ∧
      (s.dev.fl.up = true → (s.dev.sendDir sender).slot = 0 → (s.dev.sendDir sender).dup = none →
        ∀ (m : Msg) (rest : List Msg), (s.dev.sendDir sender).queue.getD 0 [] = m :: rest →
          Answers (.flueCellSlot sender) s (fun t => (t.sendDir sender).queue.getD 0 [] = rest ∧ (t.sendDir sender).dup = some m)) ∧
      (s.dev.fl.up = true → (s.dev.sendDir sender).slot = 0 → ∀ m : Msg, (s.dev.sendDir sender).dup = some m →
          Answers (.flueCellSlot sender) s (fun t => (t.sendDir sender).queue.getD 0 [] = (s.dev.sendDir sender).queue.getD 0 [] ∧ (t.sendDir sender).dup = none)))

/-- With the link up, a cell whose CRC, TYPE and LEN are good, whose SEQ is not stale and which is not of the SAFETY queue is put
behind the accepted cells of its receiver, and the expected SEQ becomes its SEQ + 1; a cell whose CRC is wrong leaves the
accepted cells and the expected SEQ as they are, as does a cell whose SEQ is stale. With the link down nothing changes. (R49,
R52, Table 3-1, Table 3-3, 03_flue.md) -/
def Obligations.FlueReceiveAcceptsGoodCells : Prop :=
  ∀ (s : State) (receiver : Side) (cell : List Byte),
    let w := leAt cell 0 4
    let fd := s.dev.recvDir receiver
    (s.dev.fl.up = false → Answers (.flueCellReceive receiver cell) s (fun t => t = s.dev)) ∧
    (s.dev.fl.up = true → crc32c (cell.take 60) ≠ leAt cell 60 4 → Answers (.flueCellReceive receiver cell) s (fun t =>
      (t.recvDir receiver).accepted = fd.accepted ∧ (t.recvDir receiver).expSeq = fd.expSeq)) ∧
    (∀ q g : Nat, s.dev.fl.up = true → crc32c (cell.take 60) = leAt cell 60 4 → queueOfType (bits w 7 0) = some q → q ≠ 0 →
      fd.gap q (bits w 23 16) = some g → typeDefined receiver (bits w 7 0) = true → lenFits (bits w 7 0) (bits w 13 8) = true →
      Answers (.flueCellReceive receiver cell) s (fun t => (t.recvDir receiver).accepted = fd.accepted ++ [cell] ∧
        (t.recvDir receiver).expSeq = setAt fd.expSeq q ((bits w 23 16 + 1) % 256))) ∧
    (∀ q : Nat, s.dev.fl.up = true → crc32c (cell.take 60) = leAt cell 60 4 → queueOfType (bits w 7 0) = some q →
      fd.gap q (bits w 23 16) = none → Answers (.flueCellReceive receiver cell) s (fun t =>
        (t.recvDir receiver).accepted = fd.accepted ∧ (t.recvDir receiver).expSeq = fd.expSeq))

/-- HB_ACK takes the present host time as the time of the last acknowledgement and ends a FIELD_LOST. HEARTBEAT_SEND, with HBGEN
1, the link up and a kick that is recent, raises the heartbeat number by 1 and queues one SAFETY message. HFLU_HBKICK with the
key 0x4B1C in the upper half takes the host time and the host state; any other value changes nothing. A commit of a transmit
window with room in its queue queues one message, and with a full queue raises TXFULL. FIELD_LOST is raised once;
NO_CREDIT_TIMEOUT and TIME_SYNC_MISSING set the pending bit of their source. (R50, R57, R64, R67, 03_flue.md) -/
def Obligations.HostEndpointSupervision : Prop :=
  ∀ s : State,
    (∀ n m t : Nat, Answers (.hbAck n m t) s (fun e => e.fl.ackAt = s.dev.htcNs ∧ e.fl.lostRaised = false ∧ e.ffuse = s.dev.ffuse)) ∧
    (∀ k : Nat, s.dev.on R.HFLU_HBCFG.HBGEN = true → s.dev.fl.up = true → s.dev.fl.kickAt = some k →
      s.dev.htcNs ≤ k + s.dev.rd R.HFLU_HBCFG.KICK * 10 ^ 6 →
      Answers .heartbeatSend s (fun t => t.fl.hbSeq = (s.dev.fl.hbSeq + 1) % 2 ^ 32 ∧
        t.fl.h2f.queue = setAt s.dev.fl.h2f.queue 0 (s.dev.fl.h2f.queue.getD 0 [] ++
          [{ ty := 0x00, payload := leBytes 4 ((s.dev.fl.hbSeq + 1) % 2 ^ 32) ++ leBytes 1 s.dev.fl.hostState ++ leBytes 3 0 }]) ∧
        s.dev.OnlyIn Part.fl t)) ∧
    (s.dev.on R.HFLU_HBCFG.HBGEN = false → Answers .heartbeatSend s (fun t => t = s.dev)) ∧
    (∀ v : Nat, bits v 31 16 = 0x4B1C →
      Answers (.hfluHbkick v) s (fun t => t.fl.kickAt = some s.dev.htcNs ∧ t.fl.hostState = bits v 7 0 ∧ s.dev.OnlyIn Part.fl t)) ∧
    (∀ v : Nat, bits v 31 16 ≠ 0x4B1C → Answers (.hfluHbkick v) s (fun t => t = s.dev)) ∧
    (∀ win : Fin 2, (s.dev.fl.h2f.queue.getD win []).length < (if win.val = 0 then 16 else 64) →
      Answers (.hfluTxwinCommit win) s (fun t => let w := padTo (if win.val = 0 then s.dev.fl.txwin0 else s.dev.fl.txwin1) 60
        t.fl.h2f.queue = setAt s.dev.fl.h2f.queue win (s.dev.fl.h2f.queue.getD win [] ++
          [{ ty := leAt w 0 1, payload := slice w 4 (min 56 (bits (leAt w 0 4) 13 8)) }]) ∧ t.regs = s.dev.regs)) ∧
    (∀ win : Fin 2, (if win.val = 0 then 16 else 64) ≤ (s.dev.fl.h2f.queue.getD win []).length →
      Answers (.hfluTxwinCommit win) s (fun t => t.fl.h2f.queue = s.dev.fl.h2f.queue ∧ t.Pends 73)) ∧
    (s.dev.fl.lostRaised = false → Answers .fieldLost s (fun t => t.fl.lostRaised = true ∧ t.Pends 74)) ∧
    (s.dev.fl.lostRaised = true → Answers .fieldLost s (fun t => t = s.dev)) ∧
    (∀ q : Fin 8, Answers (.noCreditTimeout q) s (fun t => t.Pends 75 ∧ t.fl = s.dev.fl)) ∧
    Answers .timeSyncMissing s (fun t => t.Pends 77 ∧ t.fl = s.dev.fl)

/-- TIME_SYNC takes the present host time and the STC it carries. A refusing PARAM_RSP raises HFLU event 76 and IMG_STAT event 78
for a complete transfer, 79 otherwise. EVENT sets the pending bit of its source. TELEMETRY and RECORD_READY that ring 21
cannot take, and bulk data of any of the four data rings that its ring cannot take, wait in the endpoint in order of arrival;
the last piece of a bulk transfer raises HFLU event 78. (R55, R57, R59, R290, R343, R344, R346, 03_flue.md,
17_host_platform.md) -/
def Obligations.HostReceiptOfFieldMessages : Prop :=
  ∀ s : State,
    (∀ stc fr st src utc err : Nat, Answers (.timeSync stc fr st src utc err) s (fun t => t.fl.tsHost = s.dev.htcNs ∧ t.fl.tsStc = stc)) ∧
    (∀ (tag status index count ty : Nat) (vs : List Nat), status ≠ 0 → Answers (.paramRsp tag status index count ty vs) s (fun t => t.Pends 76)) ∧
    (∀ (tag index count ty : Nat) (vs : List Nat), s.dev.on (R.HRNG_CFG.EN 20) = false → s.dev.rings.wait20.length < 64 →
      Answers (.paramRsp tag 0 index count ty vs) s (fun t => t.rings.wait20.length = s.dev.rings.wait20.length + 1)) ∧
    (∀ xfer : Nat, Answers (.imgStat xfer 0) s (fun t => t.Pends 78)) ∧
    (∀ xfer status : Nat, status ≠ 0 → Answers (.imgStat xfer status) s (fun t => t.Pends 79)) ∧
    (∀ (n : Fin 64) (kind count first last : Nat) (data : List Nat), Answers (.event n kind count first last data) s (fun t => t.Pends n)) ∧
    (s.dev.on (R.HRNG_CFG.EN 21) = false →
      (∀ (block inst window ms : Nat) (vs : List Nat), Answers (.telemetry block inst window ms vs) s (fun t =>
        t.rings.wait21.length = s.dev.rings.wait21.length + 1 ∧ t.hmem = s.dev.hmem)) ∧
      (∀ output kind number stc : Nat, Answers (.recordReady output kind number stc) s (fun t =>
        t.rings.wait21.length = s.dev.rings.wait21.length + 1 ∧ t.hmem = s.dev.hmem))) ∧
    (∀ (xfer off : Nat) (bs : List Byte) (last : Bool),
      (s.dev.on (R.HRNG_CFG.EN 26) = false → numAt s.dev.rings.fill 26 = 0 → Answers (.recData xfer off bs last) s (fun t =>
        t.rings.waitBulk = s.dev.rings.waitBulk ++ [{ ring := 26, ty := 0x79, xfer := xfer, sop := decide (off = 0), eop := last, bytes := bs }] ∧
        (last = true → t.Pends 78))) ∧
      (s.dev.on (R.HRNG_CFG.EN 22) = false → numAt s.dev.rings.fill 22 = 0 → Answers (.capData xfer off bs last) s (fun t =>
        t.rings.waitBulk = s.dev.rings.waitBulk ++ [{ ring := 22, ty := 0x69, xfer := xfer, sop := decide (off = 0), eop := last, bytes := bs }] ∧
        (last = true → t.Pends 78))) ∧
      (s.dev.on (R.HRNG_CFG.EN 23) = false → numAt s.dev.rings.fill 23 = 0 → Answers (.jrnData xfer off bs last) s (fun t =>
        t.rings.waitBulk = s.dev.rings.waitBulk ++ [{ ring := 23, ty := 0x70, xfer := xfer, sop := decide (off = 0), eop := last, bytes := bs }] ∧
        (last = true → t.Pends 78))) ∧
      (s.dev.on (R.HRNG_CFG.EN 25) = false → numAt s.dev.rings.fill 25 = 0 → Answers (.ashData xfer off bs last) s (fun t =>
        t.rings.waitBulk = s.dev.rings.waitBulk ++ [{ ring := 25, ty := 0x75, xfer := xfer, sop := decide (off = 0), eop := last, bytes := bs }] ∧
        (last = true → t.Pends 78))))

/-- With F1 on: HEARTBEAT restarts the supervision time at the present STC and, with HOSTSTATE 1 or 2, clears HOSTLOST, which
otherwise stays. A TRIP of the device scope, and one of an index that names nothing of the stream, asks for TRIPPED and sets
the device bit of the software trips; a trip of an output or of a leg group that the stream uses does not ask for TRIPPED by
itself. QUENCH_ALL asks for QUENCH. QUENCH_OUT with no output named changes no register. (R56, R65, R66, R190, R303,
03_flue.md) -/
def Obligations.SafetyOrdersOfTheFlue : Prop :=
  ∀ s : State, s.dev.domOn .f1 = true →
    (∀ n h : Nat, Answers (.heartbeat n h) s (fun t => t.fl.hbAt = s.dev.tm.q ∧
      t.rd R.FSYS_MODE.HOSTLOST = (if h = 1 ∨ h = 2 then 0 else s.dev.rd R.FSYS_MODE.HOSTLOST) ∧ s.dev.RegsBut [R.FSYS_MODE.HOSTLOST] t)) ∧
    (∀ scope index msgid reason : Nat, (scope = 0 ∨ 3 ≤ scope) →
      Answers (.tripDevice scope index msgid reason) s (fun t => t.pw.tripPend = true ∧ t.rd R.TRP_SWSTAT.DEV = 1)) ∧
    (∀ index msgid reason : Nat, 3 < index →
      Answers (.tripOutput index msgid reason) s (fun t => t.pw.tripPend = true ∧ t.rd R.TRP_SWSTAT.DEV = 1)) ∧
    (∀ (index : Fin 4) (msgid reason : Nat), s.dev.on (R.SHR_OUTCFG.VALID index) = true → (s.dev.outState index < 2 ∨ 7 < s.dev.outState index) →
      Answers (.tripOutput index msgid reason) s (fun t =>
        t = (((s.dev.takeCell .field 0x02).orderEvent 0x02 1 index msgid reason).swTripOut index).outImmediate index 1)) ∧
    (∀ index msgid reason : Nat, 20 ≤ index →
      Answers (.tripLegGroup index msgid reason) s (fun t => t.pw.tripPend = true ∧ t.rd R.TRP_SWSTAT.DEV = 1)) ∧
    (∀ (index : Fin 20) (msgid reason : Nat), s.dev.on (R.PWM_GRPCFG.USED index) = true →
      Answers (.tripLegGroup index msgid reason) s (fun t =>
        t = ((s.dev.takeCell .field 0x02).orderEvent 0x02 2 index msgid reason).swTripGroups (2 ^ index.val))) ∧
    (∀ msgid reason : Nat, Answers (.quenchAll msgid reason) s (fun t => t.pw.quenchPend = true ∧ t.regs = s.dev.regs)) ∧
    (∀ msgid reason : Nat, Answers (.quenchOut 0 msgid reason) s (fun t => t.regs = s.dev.regs ∧ t.out = s.dev.out)) ∧
    (∀ (n : Fin 4) (mask : Fin 16) (msgid reason : Nat), mask.val = 2 ^ n.val → Answers (.quenchOut mask msgid reason) s (fun t =>
      t = ((s.dev.takeCell .field 0x04).orderEvent 0x04 (2 ^ n.val) 0 msgid reason).outQuench n none))

/-- With F1 on, PARAM_WR, PARAM_RD and TARGET_SET whose pair of tag and type has no kept response and does not wait yet are put
behind the waiting requests with their entries, and change no register; a pair with a kept response is answered with it again
and is not queued. (R59, R62, R78, 03_flue.md) -/
def Obligations.ControlRequestsWaitForTheirTick : Prop :=
  ∀ (s : State) (p : List Byte), s.dev.domOn .f1 = true →
    (∀ (c : Instr) (ty : Nat), (c = .paramWr p ∧ ty = 0x10 ∨ c = .paramRd p ∧ ty = 0x11 ∨ c = .targetSet p ∧ ty = 0x13) →
      (s.dev.keptRsp (leAt p 0 2) ty = none →
        (∀ r ∈ s.dev.fl.reqs, (r.tag, r.ty) ≠ (leAt p 0 2, ty)) → (∀ r ∈ s.dev.fl.done, (r.req.tag, r.req.ty) ≠ (leAt p 0 2, ty)) →
        Answers c s (fun t => t.fl.reqs = s.dev.fl.reqs ++ [parseReq ty p] ∧ t.regs = s.dev.regs ∧ s.dev.OnlyIn Part.fl t)) ∧
      (∀ m : Msg, s.dev.keptRsp (leAt p 0 2) ty = some m →
        Answers c s (fun t => t.fl.reqs = s.dev.fl.reqs ∧ t = (s.dev.takeCell .field ty).sendF 1 m)))

/-- PPS_IN_EDGE that injection point 8 does not suppress is rejected and counted while PPSOK is 1 and its error is beyond WIN, and
is otherwise the last accepted edge, ending a run of missing seconds; PPS_MISSING_SECOND counts, ends the run of good edges,
and makes PPS_IN invalid at the third in a row. PTP_OFFSET_SAMPLE counts the port's samples and makes the port valid at the
third; PTP_SAMPLE_TIMEOUT makes it invalid. SERVO_SAMPLE_TIMEOUT sets p to 0 and keeps f. The sum p + f stands in STC_RATE.
(R99, R100, R101, R102, 05_site_time.md) -/
def Obligations.TimeSourcesAreJudged : Prop :=
  ∀ s : State,
    (∀ cap : Nat, s.dev.domOn .f1 = true → s.dev.isInjected 8 0 = false → s.dev.on R.STC_STAT.PPSOK = true →
      s.dev.rd R.STC_PPSCFG.WIN * 16000 < (s.dev.ppsError cap).natAbs →
      Answers (.ppsInEdge cap) s (fun t => t.rd R.STC_CNT.PPSREJ = min 255 (s.dev.rd R.STC_CNT.PPSREJ + 1) ∧ t.tm.ppsLast = s.dev.tm.ppsLast ∧
        t.rd R.STC_STAT.STATE = s.dev.rd R.STC_STAT.STATE)) ∧
    (∀ cap : Nat, s.dev.domOn .f1 = true → s.dev.isInjected 8 0 = false →
      (s.dev.on R.STC_STAT.PPSOK = false ∨ (s.dev.ppsError cap).natAbs ≤ s.dev.rd R.STC_PPSCFG.WIN * 16000) →
      Answers (.ppsInEdge cap) s (fun t => t.tm.ppsLast = some cap ∧ t.tm.ppsMissRun = 0 ∧ t.rd R.STC_CNT.PPSREJ = s.dev.rd R.STC_CNT.PPSREJ)) ∧
    Answers .ppsMissingSecond s (fun t => t.rd R.STC_CNT.PPSMISS = min 255 (s.dev.rd R.STC_CNT.PPSMISS + 1) ∧ t.tm.ppsRun = 0 ∧
      (2 ≤ s.dev.tm.ppsMissRun → t.rd R.STC_STAT.PPSOK = 0) ∧ (s.dev.tm.ppsMissRun < 2 → t.rd R.STC_STAT.PPSOK = s.dev.rd R.STC_STAT.PPSOK)) ∧
    (∀ (p : Fin 2) (ofs : Int), Answers (.ptpOffsetSample p ofs) s (fun t =>
      t.tm.ptpRun = setAt s.dev.tm.ptpRun p (numAt s.dev.tm.ptpRun p + 1) ∧
      (2 ≤ numAt s.dev.tm.ptpRun p → t.rd (ptpOk p) = 1) ∧ (numAt s.dev.tm.ptpRun p < 2 → t.rd (ptpOk p) = s.dev.rd (ptpOk p)))) ∧
    (∀ p : Fin 2, Answers (.ptpSampleTimeout p) s (fun t => t.rd (ptpOk p) = 0 ∧ t.tm.ptpRun = setAt s.dev.tm.ptpRun p 0)) ∧
    Answers .servoSampleTimeout s (fun t => t.tm.p = 0 ∧ t.tm.f = s.dev.tm.f ∧ t.rd R.STC_RATE.RATE = unsigned s.dev.tm.f 32 ∧
      s.dev.RegsBut [R.STC_RATE.RATE, R.STC_FREQ.F] t ∧ s.dev.OnlyIn (Part.regs ||| Part.tm) t)

/-- STC_SECOND moves the STC to the next whole second and copies it into the F0 counter. STC_MILLISECOND with F1 on moves it to
the next whole ms. A step that waits, with no stream active, stepping permitted and no leg switching, takes the error rounded
to 2.5 ns off the STC, ends the wait and counts. A read of STC_NOW_LO answers the low word and latches high word and fraction
of the same instant. ARM in STC_SETSEC_HI arms the seconds setting. PPS_OUT_FALL ends the pulse. ESTERR_LIMIT marks the
estimated error as beyond its limit once. (R95, R96, R98, R103, R104, R106, R109, R110, R111, 05_site_time.md) -/
def Obligations.TheStcMovesAsTheSpecSays : Prop :=
  ∀ s : State,
    Answers .stcSecond s (fun t => let q := nextGrid s.dev.tm.q 400000000 s.dev.tm.lastSec * 400000000
      t.tm.q = max s.dev.tm.q q ∧ t.tm.f0 = q ∧ s.dev.OnlyIn Part.tm t) ∧
    (s.dev.domOn .f1 = true → Answers .stcMillisecond s (fun t => let ms := max (s.dev.tm.lastMs + 1) ((s.dev.tm.q + 399999) / 400000)
      t.tm.lastMs = ms ∧ t.tm.q = max s.dev.tm.q (400000 * ms))) ∧
    (∀ (e16 : Int) (sec : Bool), s.dev.domOn .f1 = true → s.dev.streamActive = false → s.dev.stepModeOk = true → s.dev.legsSwitch = false →
      s.dev.tm.step = some (e16, sec) → Answers .stcStep s (fun t => t.tm.q = ((s.dev.tm.q : Int) - roundAway e16 40).toNat ∧ t.tm.step = none ∧
        t.rd R.STC_STAT.STEPPEND = 0 ∧ t.rd R.STC_CNT.STEPS = min 255 (s.dev.rd R.STC_CNT.STEPS + 1))) ∧
    Answers .stcNowLoRead s (fun t => t.lastRead = s.dev.stcNs % 2 ^ 32 ∧ t.rd R.STC_NOW_HI.NS = s.dev.stcNs / 2 ^ 32 ∧ t.rd R.STC_NOW_FR.FR = s.dev.stcFr ∧
      s.dev.RegsBut [R.STC_NOW_HI.NS, R.STC_NOW_FR.FR] t ∧ s.dev.OnlyIn (Part.regs ||| Part.lastRead) t) ∧
    (∀ v : Nat, testBit v 31 = true → Answers (.stcSetsecHiArm v) s (fun t => t.rd R.STC_SETSEC_HI.SEC = bits v 15 0 ∧ t.rd R.STC_STAT.SECPEND = 1 ∧
      t.tm.setSec = some (bits v 15 0 * 2 ^ 32 + s.dev.rd R.STC_SETSEC_LO.SEC))) ∧
    (∀ v : Nat, testBit v 31 = false → Answers (.stcSetsecHiArm v) s (fun t => t.rd R.STC_SETSEC_HI.SEC = bits v 15 0 ∧
      s.dev.RegsBut [R.STC_SETSEC_HI.SEC] t ∧ t.tm = s.dev.tm)) ∧
    Answers .ppsOutFall s (fun t => t = { s.dev with tm := { s.dev.tm with ppsOut := false } }) ∧
    (s.dev.rd R.STC_HOLDCFG.ERRLIM ≤ s.dev.estErr → s.dev.tm.errHigh = false →
      Answers .esterrLimit s (fun t => t = ({ s.dev with tm := { s.dev.tm with errHigh := true } }).raise 33 1 [s.dev.estErr])) ∧
    (s.dev.estErr < s.dev.rd R.STC_HOLDCFG.ERRLIM ∨ s.dev.tm.errHigh = true → Answers .esterrLimit s (fun t => t = s.dev))

/-- With F1 on and a stream active SAMPLE_INSTANT is the S of the tick at the next grid point, and STREAM_SWAP with a swap armed
the S of the swap tick, the first at or after STS_SWAPAT. MEASUREMENT_LATCH acts only while a latch is due and WRITE_PHASE
only while a W is due; W ends the tick's computation. TEN_US_GRID acts only without a stream: the mode is evaluated, then the
waiting requests are taken and answered in that instant. (R29, R59, R90, R91, R97, R112, R299, 01_architecture.md,
05_site_time.md, 06_control_engine_timing.md) -/
def Obligations.TheControlTickHasItsThreeInstants : Prop :=
  ∀ s : State,
    (s.dev.streamActive = true → s.dev.domOn .f1 = true → ∀ b : Bool,
      Answers (.sampleInstant b) s (fun t => t = s.dev.sampleInstant (s.dev.nextS 0) b)) ∧
    (s.dev.streamActive = true → s.dev.domOn .f1 = true → s.dev.rd R.STS_SWAPSTAT.STATE = 1 →
      Answers .streamSwap s (fun t => t = s.dev.sampleInstant (s.dev.nextS (stepsOfNs s.dev.swapAt)) false)) ∧
    (∀ w : List (Nat × List Bool), s.dev.ce.latchDue = false → Answers (.measurementLatch w) s (fun t => t = s.dev)) ∧
    (∀ w : List (Nat × List Bool), s.dev.ce.latchDue = true → s.dev.ce.runTick = false → Answers (.measurementLatch w) s (fun t =>
      ∃ d : Dev, d.ce.latchDue = false ∧ d.ce.wDue = true ∧ d.tm.q = max s.dev.tm.q (s.dev.pwm.lastS + (s.dev.act.tmeas + 1) / 2) ∧
        s.dev.OnlyIn (Part.tm ||| Part.ce) d ∧ t = (if d.reqsTake.ce.runTick then d.reqsTake.computeBegin else d.reqsTake))) ∧
    (s.dev.ce.wDue = false → Answers .writePhase s (fun t => t = s.dev)) ∧
    (s.dev.ce.wDue = true → s.dev.ce.runTick = false → Answers .writePhase s (fun t => ∃ d : Dev, d.ce.wDue = false ∧
      d.tm.q = max s.dev.tm.q (s.dev.pwm.lastS + (s.dev.act.timing.w + 1) / 2) ∧ s.dev.OnlyIn (Part.tm ||| Part.ce) d ∧
      t = d.reqsAnswer (5 * s.dev.pwm.lastS / 2))) ∧
    (s.dev.streamActive = true → Answers .tenUsGrid s (fun t => t = s.dev)) ∧
    (s.dev.streamActive = false → s.dev.domOn .f1 = true → Answers .tenUsGrid s (fun t => ∃ d : Dev,
      d = (((s.dev.advanceTo ((s.dev.tm.q / 4000 + 1) * 4000)).modeAtS.1.outsAtS).sessAtS).injWaiting ∧
      ∃ e : Dev, d.OnlyIn Part.pw e ∧ e.pw.engaged = d.engagedNow false ∧ t = e.reqsTake.reqsAnswer e.reqsTake.stcNs))

/-- The next S is a point of the grid of the active stream's tick and phase, at least one tick after the last S and not before the
present; the tick that begins there notes it as the last S, moves the STC to it and takes its index from the grid. (R97, R112,
05_site_time.md) -/
def Obligations.TheTickBeginsAtItsGridPoint : Prop :=
  ∀ (d : Dev) (q : Nat), 0 < d.act.timing.tick →
    (d.nextS q - d.act.timing.phase) % d.act.timing.tick = 0 ∧ d.act.timing.phase ≤ d.nextS q ∧ d.tm.q ≤ d.nextS q ∧ q ≤ d.nextS q ∧
    d.pwm.lastS + d.act.timing.tick ≤ d.nextS q ∧
    (d.tickBegin (d.nextS q)).pwm.lastS = d.nextS q ∧ (d.tickBegin (d.nextS q)).tm.q = d.nextS q ∧
    (d.tickBegin (d.nextS q)).ce.k = (d.nextS q - d.act.timing.phase) / d.act.timing.tick ∧
    (d.tickBegin (d.nextS q)).regs = d.regs

/-- With F1 on, outside RECOVERY, and with BULKENC 0: BEGIN while the loader is not validating and no swap is armed, with F2 on,
opens the transfer; DATA of it within its length writes exactly its bytes into staging; END with a digest that fails, or after
a gap, refuses the load with DIGEST; END of a complete image of a stream hands it to validation; ABORT ends it. A validation
that finds nothing wrong leaves the stream in standby under its ID; one that finds a fault, or read a damaged word, is refused
with its code. (R55, R82, R84, R86, 04_structure_stream.md) -/
def Obligations.ImageTransfersAreTakenAndChecked : Prop :=
  ∀ s : State, s.dev.domOn .f1 = true →
    (∀ xfer len : Nat, s.dev.mode ≠ .recovery → s.dev.domOn .f2 = true → s.dev.on R.FSEC_CFG.BULKENC = false → s.dev.loadState ≠ 2 →
      s.dev.rd R.STS_SWAPSTAT.STATE ≠ 1 → Answers (.imgCtrlBegin xfer len) s (fun t =>
        t.st.rx = some { xfer := xfer % 2 ^ 16, len := len % 2 ^ 32, slot := none } ∧ t.rd R.STS_LOADSTAT.STATE = 1 ∧ s.dev.RegsBut [R.STS_LOADSTAT.STATE] t)) ∧
    (∀ (x : ImgXfer) (xfer off : Nat) (bs : List Byte), s.dev.st.rx = some x → x.slot = none → x.xfer = xfer % 2 ^ 16 →
      off % 2 ^ 32 + bs.length ≤ x.len → stagingBase + off % 2 ^ 32 + bs.length ≤ 0x1400000 →
      Answers (.imgData xfer off bs) s (fun t => t.fmem = Mem.writeBytes s.dev.fmem (stagingBase + off % 2 ^ 32) bs ∧ t.st = s.dev.st ∧
        (∀ a : Nat, a < stagingBase + off % 2 ^ 32 ∨ stagingBase + off % 2 ^ 32 + bs.length ≤ a → Mem.read t.fmem a = Mem.read s.dev.fmem a) ∧
        s.dev.OnlyIn (Part.fmem ||| Part.fl) t)) ∧
    (∀ (x : ImgXfer) (xfer : Nat) (dig : List Byte), s.dev.st.rx = some x → x.xfer = xfer % 2 ^ 16 → x.slot = none →
      (Config.sha384 (Mem.readBytes s.dev.fmem stagingBase x.len) ≠ dig ∨ s.dev.fl.h2f.damaged.getD 0 false = true) →
      Answers (.imgCtrlEnd xfer dig) s (fun t => t.st.rx = none ∧ t.rd R.STS_LOADSTAT.STATE = 4 ∧ t.rd R.STS_LOADSTAT.CODE = 0x10 ∧ t.fmem = s.dev.fmem)) ∧
    (∀ (x : ImgXfer) (xfer : Nat), let img := Mem.readBytes s.dev.fmem stagingBase x.len
      s.dev.st.rx = some x → x.xfer = xfer % 2 ^ 16 → x.slot = none → s.dev.fl.h2f.damaged.getD 0 false = false → s.dev.on R.FSEC_CFG.BULKENC = false →
      leAt img 0 4 ≠ 0x4B54535A → leAt img 0 4 ≠ 0x4A4E495A → leAt img 0 4 ≠ 0x524C4D5A →
      Answers (.imgCtrlEnd xfer (Config.sha384 img)) s (fun t => t.st.rx = none ∧ t.rd R.STS_LOADSTAT.STATE = 2 ∧ t.st.image = img)) ∧
    (∀ (x : ImgXfer) (xfer : Nat), s.dev.st.rx = some x → x.xfer = xfer % 2 ^ 16 →
      Answers (.imgCtrlAbort xfer) s (fun t => t.st.rx = none ∧ t.rd R.STS_LOADSTAT.STATE = 0 ∧ s.dev.RegsBut [R.STS_LOADSTAT.STATE] t ∧ t.fmem = s.dev.fmem)) ∧
    (s.dev.loadState = 2 → Answers (.streamValidationComplete true) s (fun t => t.rd R.STS_LOADSTAT.STATE = 4 ∧ t.rd R.STS_LOADSTAT.CODE = 0x10 ∧
      t.rd R.CEN_ECC.UNCORR = min 255 (s.dev.rd R.CEN_ECC.UNCORR + 1))) ∧
    (s.dev.loadState = 2 → s.dev.st.imageSlot = none → Answers (.streamValidationComplete false) s (fun t => t.st.image = [] ∧
      t.rd R.STS_BANK.ACT = s.dev.rd R.STS_BANK.ACT ∧ match ({ s.dev with st := { s.dev.st with image := [], imageSlot := none } }).loadBad s.dev.st.image with
      | none => t.rd R.STS_LOADSTAT.STATE = 3 ∧ t.rd R.STS_LOADSTAT.CODE = 0 ∧ t.rd R.STS_STBID.ID = (decodeStream s.dev.st.image).id % 2 ^ 32
      | some c => t.rd R.STS_LOADSTAT.STATE = 4 ∧ t.rd R.STS_LOADSTAT.CODE = c.1 % 2 ^ R.STS_LOADSTAT.CODE.width))

/-- With F1 on: STS_PERSIST without its key changes nothing; with it, the active stream whose digest the staged image has begins a
persist into the slot that is not BOOTSLOT, and any other staged image fails it. A persist that read back well makes that slot
the boot slot with a generation above the other's and raises the least SVN; a failed read back fails it and leaves BOOTSLOT.
STS_SWAPCTL ARM, with a valid standby, an instant from 1 ms to 60 s ahead, the CE running and a compatible stream, arms the
swap; CANCEL of an armed swap ends it as cancelled. (R89, R90, 04_structure_stream.md) -/
def Obligations.PersistAndSwapRequests : Prop :=
  ∀ s : State, s.dev.domOn .f1 = true →
    (∀ v : Nat, bits v 31 16 ≠ 0x50E5 → Answers (.stsPersist v) s (fun t => t = s.dev)) ∧
    (∀ v : Nat, bits v 31 16 = 0x50E5 → s.dev.rd R.STS_PERSIST.STATE ≠ 1 → s.dev.streamActive = true → Config.sha384 s.dev.stagedImage = s.dev.act.digest →
      Answers (.stsPersist v) s (fun t => t.st.persist = some s.dev.stagedImage ∧ t.rd R.STS_PERSIST.STATE = 1 ∧ s.dev.RegsBut [R.STS_PERSIST.STATE] t)) ∧
    (∀ v : Nat, bits v 31 16 = 0x50E5 → s.dev.rd R.STS_PERSIST.STATE ≠ 1 → (s.dev.streamActive = false ∨ Config.sha384 s.dev.stagedImage ≠ s.dev.act.digest) →
      Answers (.stsPersist v) s (fun t => t.st.persist = none ∧ t.rd R.STS_PERSIST.STATE = 3 ∧ t.rd R.STS_PERSIST.CODE = 0x11 ∧ t.st.slots = s.dev.st.slots)) ∧
    (∀ img : List Byte, s.dev.st.persist = some img → Answers (.persistComplete true) s (fun t => t.st.persist = none ∧ t.rd R.STS_PERSIST.STATE = 2 ∧
      t.rd R.STS_BANK.BOOTSLOT = s.dev.otherSlot % 2 ∧ t.st.minSvn = max s.dev.st.minSvn (leAt img 20 4) ∧ s.dev.st.minSvn ≤ t.st.minSvn)) ∧
    (∀ img : List Byte, s.dev.st.persist = some img → Answers (.persistComplete false) s (fun t => t.st.persist = none ∧ t.rd R.STS_PERSIST.STATE = 3 ∧
      t.rd R.STS_PERSIST.CODE = 0x10 ∧ t.rd R.STS_BANK.BOOTSLOT = s.dev.rd R.STS_BANK.BOOTSLOT ∧ t.st.minSvn = s.dev.st.minSvn)) ∧
    (s.dev.rd R.STS_LOADSTAT.STATE = 3 → s.dev.stcNs + 1000000 ≤ s.dev.swapAt → s.dev.swapAt ≤ s.dev.stcNs + 60000000000 → s.dev.mode.ceRuns = true →
      s.dev.streamActive = true → s.dev.swapCompat = true → Answers .stsSwapctlArm s (fun t => t.rd R.STS_SWAPSTAT.STATE = 1 ∧ t.rd R.STS_SWAPSTAT.DEFER = 0 ∧
        s.dev.RegsBut [R.STS_SWAPSTAT.STATE, R.STS_SWAPSTAT.DEFER] t ∧ s.dev.OnlyIn Part.regs t)) ∧
    (s.dev.rd R.STS_LOADSTAT.STATE = 3 → (s.dev.swapAt < s.dev.stcNs + 1000000 ∨ s.dev.stcNs + 60000000000 < s.dev.swapAt) →
      Answers .stsSwapctlArm s (fun t => t.rd R.STS_SWAPSTAT.STATE = 4 ∧ t.rd R.STS_SWAPSTAT.CODE = 0x13)) ∧
    (s.dev.rd R.STS_SWAPSTAT.STATE = 1 → Answers .stsSwapctlCancel s (fun t => t.rd R.STS_SWAPSTAT.STATE = 3 ∧ t.rd R.STS_SWAPSTAT.CODE = 0x15 ∧
      s.dev.RegsBut [R.STS_SWAPSTAT.STATE, R.STS_SWAPSTAT.CODE] t)) ∧
    (s.dev.rd R.STS_SWAPSTAT.STATE ≠ 1 → Answers .stsSwapctlCancel s (fun t => t = s.dev))

/-- With F2 on, no damaged word, no injection and no code of the tick waiting: MVM leaves in each accumulator row the sum of R121
of its matrix row and MVA adds to it, both writing no signal; WB, VADD, VSUB, VLIM, MOV and LUT write their destination
signals element by element in ascending order with the value of Table 6-8 of that moment, through the one operation that
writes a program destination; SLEW, BQ, RESID and FERR run their elements in ascending order; IDLE and END leave the block as
it is. (R114, R121, R124, R132, R143, R146, R151, R153, Table 6-8, 06_control_engine_timing.md, 07_control_laws.md) -/
def Obligations.CeInstructionsHaveTheirEffect : Prop :=
  ∀ (s : State) (a : CeArgs),
    s.dev.domOn .f2 = true → s.dev.ce.bad = [] → s.dev.inj.field = [] → s.dev.ce.todo = [] →
    let m := s.dev.matOf a.mat
    (∀ i : Nat, i < a.r → i < s.dev.ce.acc.length →
      Answers (.ceMvm a none) s (fun t => t.ce.sig = s.dev.ce.sig ∧ s.dev.OnlyIn Part.ce t ∧ t.ce.acc.getD i {} =
        rowAcc s.dev.act.coefs (m.first + i * a.c) a.c s.dev.ce.sig a.src
          { acc := if testBit a.flags 0 then sat (s.dev.sig (a.aux + i) * 2 ^ 30) 80 else 0, sat := false, osh := m.oshFirst + i }) ∧
      Answers (.ceMva a none) s (fun t => t.ce.sig = s.dev.ce.sig ∧ s.dev.OnlyIn Part.ce t ∧ t.ce.acc.getD i {} =
        rowAcc s.dev.act.coefs (m.first + i * a.c) a.c s.dev.ce.sig a.src (s.dev.ce.acc.getD i {}))) ∧
    (s.dev.xferWrites a = true → Answers (.ceWb a none) s (fun t => t = s.dev.forAll (List.range a.r) (fun d i =>
      d.outSig (a.dst + i) (writeback (d.ce.acc.getD i {}).acc (oshOf (numAt d.act.oshs (d.ce.acc.getD i {}).osh))).1
        ((d.ce.acc.getD i {}).sat || (writeback (d.ce.acc.getD i {}).acc (oshOf (numAt d.act.oshs (d.ce.acc.getD i {}).osh))).2)))) ∧
    Answers (.ceVadd a none) s (fun t => t = s.dev.forAll (List.range a.r) (fun d i => let x := d.sig (a.src + i) + d.sig (a.aux + i)
      d.outSig (a.dst + i) (sat x 32) (decide (x ≠ sat x 32)))) ∧
    (s.dev.xferWrites a = true → Answers (.ceVsub a none) s (fun t => t = s.dev.forAll (List.range a.r) (fun d i =>
      let x := d.sig (a.src + i) - d.sig (a.aux + i)
      d.outSig (a.dst + i) (sat x 32) (decide (x ≠ sat x 32))))) ∧
    (s.dev.xferWrites a = false → Answers (.ceWb a none) s (fun t => t = s.dev) ∧ Answers (.ceVsub a none) s (fun t => t = s.dev)) ∧
    Answers (.ceVlim a none) s (fun t => t = s.dev.forAll (List.range a.r) (fun d i =>
      d.outSig (a.dst + i) (max (d.sig (a.src + i)) (min (d.sig (a.aux + i)) (d.sig (a.dst + i)))) false)) ∧
    Answers (.ceMov a none) s (fun t => t = s.dev.forAll (List.range a.r) (fun d i => d.outSig (a.dst + i) (d.sig (a.src + i)) false)) ∧
    Answers (.ceLut a none) s (fun t => t = s.dev.forAll (List.range a.r) (fun d i => d.outSig (a.dst + i)
      (match d.lutTable a i with | some x => ffValue (d.act.ffs.getD x {}) (d.sig (a.src + i)) | none => 0) false)) ∧
    Answers (.ceSlew a none) s (fun t => t = s.dev.forAll (List.range a.r) (fun d i =>
      d.slewOne (a.aux + i) (if testBit a.flags 1 then some (a.src + i) else none))) ∧
    (testBit a.flags 1 = false → Answers (.ceBq a none) s (fun t => t = s.dev.forAll (List.range a.r) (fun d i => d.bqSection a m.first i false))) ∧
    Answers (.ceResid a none) s (fun t => t = s.dev.forAll (List.range a.r) (fun d i => d.residOne (a.dst + i) (d.sig (a.src + i)))) ∧
    Answers (.ceFerr a none) s (fun t => t = s.dev.forAll (List.range a.r) (fun d i => d.ferrOne (a.dst + i) (d.sig (a.src + i)) (d.sig (a.aux + i)))) ∧
    Answers (.ceIdle a) s (fun t => t = s.dev) ∧ Answers (.ceEnd a) s (fun t => t = s.dev)

/-- A program destination inside the signal memory that no block keeps in its transfer tick takes the value and leaves every other
signal as it is; a saturated one is also counted, in the total and as the last. A kept one is not written. A written-back or
slew-limited value always lies in the 32-bit range, and without a jerk limit a slew run moves a value by at most RMAX towards
its target. (R118, R121, R122, R136, R143, 06_control_engine_timing.md) -/
def Obligations.ProgramDestinationsAreWrittenOnce : Prop :=
  (∀ (d : Dev) (n : Nat) (v : Int) (b : Bool), d.sigKept n = false → n < d.ce.sig.length →
      (d.outSig n v b).sig n = v ∧ (∀ k : Nat, k ≠ n → (d.outSig n v b).sig k = d.sig k) ∧
      (b = false → (d.outSig n v b).regs = d.regs) ∧
      (b = true → (d.outSig n v b).rd R.CEN_SATTOT.COUNT = min (2 ^ 32 - 1) (d.rd R.CEN_SATTOT.COUNT + 1) ∧
        (d.outSig n v b).rd R.CEN_SATLAST.SIG = n % 2 ^ R.CEN_SATLAST.SIG.width ∧ (d.outSig n v b).rd R.CEN_SATLAST.VALID = 1)) ∧
  (∀ (d : Dev) (n : Nat) (v : Int) (b : Bool), d.sigKept n = true → d.outSig n v b = d) ∧
  (∀ acc osh : Int, -2 ^ 31 ≤ (writeback acc osh).1 ∧ (writeback acc osh).1 < 2 ^ 31) ∧
  (∀ (rmax : Nat) (v r t : Int), rmax ≠ 0 → -2 ^ 31 ≤ v → v < 2 ^ 31 → -2 ^ 31 ≤ t → t < 2 ^ 31 →
    ((slewRun rmax 0 v r t).1 - v).natAbs ≤ rmax ∧ ((slewRun rmax 0 v r t).1 - t).natAbs ≤ (v - t).natAbs)

/-- With F2 on: HALT is written in SERVICE only; STEP acts only while the CE is HALTED in SERVICE. A write of LAW_MAN of a block
with manual generators sets its request bit and touches no other register; a block with MANBASE 0xFFFF ignores it. DGR_VARREQ
with GO makes the key the block's waiting request, PENDING with code 0. DGR_LOST clears the bits written as 1 where the mode
is READY or lower, and otherwise, outside MANUAL, counts a refusal. (R115, R135, R156, R165, 06_control_engine_timing.md,
07_control_laws.md, 08_degraded_operation.md) -/
def Obligations.DebugHaltAndManualRequests : Prop :=
  ∀ s : State, s.dev.domOn .f2 = true →
    (∀ h : Bool, s.dev.mode = .service → Answers (.cenDbgHalt h) s (fun t => t.rd R.CEN_DBG.HALT = b2n h ∧ s.dev.RegsBut [R.CEN_DBG.HALT] t ∧ s.dev.OnlyIn Part.regs t)) ∧
    (∀ h : Bool, s.dev.mode ≠ .service → Answers (.cenDbgHalt h) s (fun t => t.rd R.CEN_DBG.HALT = 0 ∧ s.dev.RegsBut [R.CEN_DBG.HALT] t ∧ s.dev.OnlyIn Part.regs t)) ∧
    (s.dev.rd R.CEN_STAT.RUN = 2 → s.dev.mode = .service → Answers .cenDbgStep s (fun t => t = { s.dev with ce := { s.dev.ce with stepReq := true } })) ∧
    (s.dev.rd R.CEN_STAT.RUN ≠ 2 ∨ s.dev.mode ≠ .service → Answers .cenDbgStep s (fun t => t = s.dev)) ∧
    (∀ (b : Fin 8) (v : Nat) (x : Blk), s.dev.blk? b = some x → x.manBase ≠ 0xFFFF →
      Answers (.lawManWrite b v) s (fun t => t.rd (R.LAW_MAN.MAN b) = bit v 0 ∧ s.dev.RegsBut [R.LAW_MAN.MAN b] t ∧ s.dev.OnlyIn Part.regs t)) ∧
    (∀ (b : Fin 8) (v : Nat) (x : Blk), s.dev.blk? b = some x → x.manBase = 0xFFFF → Answers (.lawManWrite b v) s (fun t => t = s.dev)) ∧
    (∀ (b : Fin 8) (v : Nat), testBit v 0 = true → b.val < s.dev.dgr.blk.length → Answers (.dgrVarreq b v) s (fun t =>
      (t.dblk b).req = some (bits v 31 16, false) ∧ t.rd (R.DGR_VARREQ.RESULT b) = 1 ∧ t.rd (R.DGR_VARREQ.CODE b) = 0 ∧ t.rd (R.DGR_VARREQ.KEY b) = bits v 31 16)) ∧
    (∀ (b : Fin 8) (v : Nat), Nat.land v (s.dev.lost b) ≠ 0 → s.dev.mode.readyOrLower = true →
      Answers (.dgrLostWrite b v) s (fun t => t.rd (R.DGR_LOST.LOST b) = (s.dev.lost b - Nat.land v (s.dev.lost b)) % 2 ^ (R.DGR_LOST.LOST b).width ∧
        s.dev.RegsBut [R.DGR_LOST.LOST b, R.DGR_SHEDSTAT.COUNT b] t ∧ s.dev.OnlyIn Part.regs t)) ∧
    (∀ (b : Fin 8) (v : Nat), Nat.land v (s.dev.lost b) ≠ 0 → s.dev.mode.readyOrLower = false → s.dev.ce.man.getD b false = false →
      Answers (.dgrLostWrite b v) s (fun t => t.rd (R.DGR_LOST.LOST b) = s.dev.lost b ∧ s.dev.RegsBut [R.DGR_CNT.LOSTREF] t))

/-- With F2 on and the encoder enabled: a change of both inputs at once counts an illegal transition and leaves the count, a
change of one moves the count by one in its direction. The first index edge with ZEN takes the present count as zero and sets
ZVALID. EN written 1 takes an axis from OFF to RUN in a mode that allows switching, EN written 0 takes it from RUN to STOPPING
with its generator's target 0, STOPTIME_EXPIRY ends STOPPING in OFF, or FAULT when a fault is pending, and CLR takes FAULT to
OFF. (R147, R148, R150, Table 7-10, 07_control_laws.md) -/
def Obligations.AxesCountAndChangeState : Prop :=
  ∀ (s : State) (n : Fin 4), s.dev.domOn .f2 = true →
    (∀ a b : Bool, s.dev.on (R.LAW_AXCFG.ENCEN n) = true → (s.dev.axis n).a ≠ a → (s.dev.axis n).b ≠ b → n.val < s.dev.ce.axes.length →
      Answers (.encoderTransition n a b) s (fun t => t.rd (R.LAW_AXERR.ILLEGAL n) = min 255 (s.dev.rd (R.LAW_AXERR.ILLEGAL n) + 1) ∧
        (t.axis n).cnt = (s.dev.axis n).cnt)) ∧
    (∀ a b : Bool, s.dev.on (R.LAW_AXCFG.ENCEN n) = true → ((s.dev.axis n).a = a ∧ (s.dev.axis n).b ≠ b ∨ (s.dev.axis n).a ≠ a ∧ (s.dev.axis n).b = b) →
      n.val < s.dev.ce.axes.length → Answers (.encoderTransition n a b) s (fun t => t.regs = s.dev.regs ∧ (t.axis n).a = a ∧ (t.axis n).b = b ∧
        ((t.axis n).cnt = wrap ((s.dev.axis n).cnt + 1) 64 ∨ (t.axis n).cnt = wrap ((s.dev.axis n).cnt - 1) 64))) ∧
    (s.dev.on (R.LAW_AXCFG.ZEN n) = true → s.dev.on (R.LAW_AXSTAT.ZVALID n) = false → n.val < s.dev.ce.axes.length →
      Answers (.encoderIndexEdge n) s (fun t => (t.axis n).zref = (s.dev.axis n).cnt ∧ t.rd (R.LAW_AXSTAT.ZVALID n) = 1 ∧
        t.rd (R.LAW_AXZPOS.ZCNT n) = unsigned (s.dev.axis n).cnt 32)) ∧
    (s.dev.axisState n = 0 → axisMode s.dev.mode = true → Answers (.axisEnable n) s (fun t =>
      t.axisState n = 1 ∧ t.rd (R.LAW_AXCTL.EN n) = 1 ∧ t.rd (R.LAW_AXSTAT.ZVALID n) = 0)) ∧
    (s.dev.axisState n = 1 → Answers (.axisDisable n) s (fun t => t.axisState n = 2 ∧ t.rd (R.LAW_AXCTL.EN n) = 0)) ∧
    (s.dev.axisState n = 2 → Answers (.stoptimeExpiry n) s (fun t => t.axisState n = (if (s.dev.axis n).faultPend then 3 else 0))) ∧
    (s.dev.axisState n = 3 → Answers (.axisClr n) s (fun t => t.axisState n = 0 ∧ t.rd (R.LAW_AXSTAT.CAUSE n) = 0)) ∧
    (s.dev.axisState n ≠ 3 → Answers (.axisClr n) s (fun t => t = s.dev))

/-- For every width, carry and policy: whenever PWM_A is high in a period, PWM_B is low from before it to after it; where the rise
of PWM_A lies inside the period it follows the fall of PWM_B by at least DTR, and where the rise of PWM_B lies inside the
period it follows the fall of PWM_A by at least DTF. With room for both dead times and one minimum pulse the effective width
of the normal policy lies within the period. (R175, R176, R177, R179, 09_pwm.md) -/
def Obligations.DeadTimeSeparatesThePads : Prop :=
  ∀ (c : LegSet) (p duty : Nat) (carry : Int),
    (∀ w : Nat, c.dtr + c.dtf + c.tmin ≤ p → 0 ≤ (minPulse c p w carry).1 ∧ (minPulse c p w carry).1 ≤ p) ∧ ∀ q ∈ [planNormal c p duty carry, planTab c p duty], q.ah0 < q.ah1 →
    q.bl0 ≤ q.ah0 ∧ q.ah1 ≤ q.bl1 ∧ (0 < q.ah0 → q.bl0 + c.dtr ≤ q.ah0) ∧ (q.bl1 < p → q.ah1 + c.dtf ≤ q.bl1)

/-- With F3 on: PWM_GRPDIV takes the divisor requested, 0 as 1; a permitted one waits and clears DIVBAD, any other sets DIVBAD.
PWM_FORCE takes both fields, and both pads forced high count an error. SYNC_IN_DISABLE ends in state 0 with EN 0 and
SYNC_IN_ENABLE leaves OFF for state 1; a missing edge in state 1 or 2 leads to state 3. A SYNC_IN_EDGE while EN is 0 changes
nothing; with EN 1 the error is shown. PERIOD_START of a leg that the stream uses moves the STC to the start of the period,
and for a leg that is not used changes nothing. (R173, R175, R183, R185, R186, 09_pwm.md) -/
def Obligations.PwmCommandsOfGroupsAndLegs : Prop :=
  ∀ s : State, s.dev.domOn .f3 = true →
    (∀ (g : Fin 20) (v : Nat), let w := if v % 8 = 0 then 1 else v % 8
      Answers (.pwmGrpdivWrite g v) s (fun t => t.rd (R.PWM_GRPDIV.REQ g) = w ∧ s.dev.RegsBut [R.PWM_GRPDIV.REQ g, R.PWM_GRPSTAT.DIVBAD g] t ∧
        s.dev.OnlyIn (Part.regs ||| Part.pwm) t ∧
        t.rd (R.PWM_GRPSTAT.DIVBAD g) = (if (s.dev.wr (R.PWM_GRPDIV.REQ g) w).divPermitted g w then 0 else 1))) ∧
    (∀ (n : Fin 80) (v : Nat), Answers (.pwmForceWrite n v) s (fun t =>
      t.rd (R.PWM_FORCE.A (n / 4) (n % 4)) = bits v 1 0 ∧ t.rd (R.PWM_FORCE.B (n / 4) (n % 4)) = bits v 3 2 ∧
      (bits v 1 0 = 2 → bits v 3 2 = 2 → t.rd R.PWM_CNT.FORCEERR = min (2 ^ R.PWM_CNT.FORCEERR.width - 1) (s.dev.rd R.PWM_CNT.FORCEERR + 1)) ∧
      (bits v 1 0 ≠ 2 → s.dev.RegsBut [R.PWM_FORCE.A (n / 4) (n % 4), R.PWM_FORCE.B (n / 4) (n % 4)] t ∧ s.dev.OnlyIn Part.regs t))) ∧
    Answers .syncInDisable s (fun t => t.rd R.PWM_SYNCCFG.EN = 0 ∧ t.rd R.PWM_SYNCSTAT.STATE = 0) ∧
    (s.dev.rd R.PWM_SYNCSTAT.STATE = 0 → Answers .syncInEnable s (fun t => t.rd R.PWM_SYNCCFG.EN = 1 ∧ t.rd R.PWM_SYNCSTAT.STATE = 1)) ∧
    (s.dev.rd R.PWM_SYNCSTAT.STATE = 1 ∨ s.dev.rd R.PWM_SYNCSTAT.STATE = 2 → Answers .syncInMissing s (fun t => t.rd R.PWM_SYNCSTAT.STATE = 3)) ∧
    (∀ cap : Nat, s.dev.on R.PWM_SYNCCFG.EN = false → Answers (.syncInEdge cap) s (fun t => t = s.dev)) ∧
    (∀ cap : Nat, s.dev.on R.PWM_SYNCCFG.EN = true → 0 < s.dev.grpP s.dev.refGroup → Answers (.syncInEdge cap) s (fun t =>
      t.tm.q = max s.dev.tm.q (8 * cap / 64) ∧
      t.rd R.PWM_SYNCERR.E = unsigned ((s.dev.advanceTo (8 * cap / 64)).syncError (8 * cap)) 32)) ∧
    (∀ n : Fin 80, s.dev.legUsed n = false → Answers (.periodStart n) s (fun t => t = s.dev)) ∧
    (∀ n : Fin 80, s.dev.legUsed n = true → 0 < s.dev.rd (R.PWM_PER.VALUE (n / 4)) → Answers (.periodStart n) s (fun t =>
      t.tm.q = max s.dev.tm.q (s.dev.legNext n / 64)))

/-- With F1 on: a falling input whose ACTION is 0 changes no latch; one with ACTION 1 and FILT 0 that did not act before is
latched at once. TRIP_QUALIFICATION of a waiting input that still acts, ACTION 1, latches it. A rise of an input that waited
counts a glitch with its number. TRP_CLR leaves the latch of every input that still acts, and of every input whose bit is not
written. TRP_SWCLR with bit 31 clears the device bit unless a GOOSE subscription holds it. A trigger compare that is disabled
changes nothing, one that fires moves the STC on and stamps its time. (R184, R188, R189, R190, R258, 09_pwm.md) -/
def Obligations.TripInputsLatchAndClear : Prop :=
  ∀ s : State, s.dev.domOn .f1 = true →
    (∀ i : Fin 96, (s.dev.tripRec i).action = 0 → s.dev.tripActive i = false → i.val < s.dev.pwm.inputs.length →
      Answers (.tripInputFall i) s (fun t => (t.tripIn i).low = true ∧ (∀ k : Fin 3, t.rd (R.TRP_STAT.LATCH k) = s.dev.rd (R.TRP_STAT.LATCH k)) ∧ t.pw = s.dev.pw)) ∧
    (∀ i : Fin 96, (s.dev.tripRec i).action = 1 → (s.dev.tripRec i).filt = 0 → s.dev.tripActive i = false → i.val < s.dev.pwm.inputs.length →
      Answers (.tripInputFall i) s (fun t => (t.tripIn i).low = true ∧ testBit (t.rd (R.TRP_STAT.LATCH (i / 32))) (i % 32) = true ∧ t.pw = s.dev.pw)) ∧
    (∀ i : Fin 96, (s.dev.tripRec i).action = 1 → (s.dev.tripIn i).waits = true → s.dev.tripActive i = true →
      Answers (.tripQualification i) s (fun t => testBit (t.rd (R.TRP_STAT.LATCH (i / 32))) (i % 32) = true ∧
        t.tm.q = max s.dev.tm.q (stepsOfNs ((s.dev.tripIn i).fell + 10 * (s.dev.tripRec i).filt)))) ∧
    (∀ i : Fin 96, (s.dev.tripIn i).waits = false → Answers (.tripQualification i) s (fun t => t = s.dev)) ∧
    (∀ i : Fin 96, s.dev.tripActive i = true → (s.dev.setTripIn i { s.dev.tripIn i with low := false }).tripActive i = false → (s.dev.tripIn i).waits = true →
      i.val < s.dev.pwm.inputs.length →
      Answers (.tripInputRise i) s (fun t => t.rd R.TRP_GLITCH.LAST = i ∧ (∀ k : Fin 3, t.rd (R.TRP_STAT.LATCH k) = s.dev.rd (R.TRP_STAT.LATCH k)))) ∧
    (∀ (word : Fin 3) (v : Nat), Answers (.trpClr word v) s (fun t => ∀ i : Fin 96, testBit (s.dev.rd (R.TRP_STAT.LATCH (i / 32))) (i % 32) = true →
      (s.dev.tripActive i = true ∨ i.val / 32 ≠ word.val ∨ testBit v (i % 32) = false) → testBit (t.rd (R.TRP_STAT.LATCH (i / 32))) (i % 32) = true)) ∧
    (∀ (word : Fin 3) (b : Fin 32), let i := 32 * word.val + b.val
      testBit (s.dev.rd (R.TRP_STAT.LATCH word)) b = true → s.dev.tripActive i = false → (s.dev.tripIn i).rose + 1000 * s.dev.rd R.TRP_CFG.TREARM ≤ s.dev.stcNs →
      Answers (.trpClr word (2 ^ b.val)) s (fun t => testBit (t.rd (R.TRP_STAT.LATCH word)) b = false)) ∧
    (∀ v : Nat, testBit v 31 = true → s.dev.on R.TRP_SWSTAT.DEV = true → s.dev.gooseDevHold = false → Answers (.trpSwclr v) s (fun t => t.rd R.TRP_SWSTAT.DEV = 0)) ∧
    (∀ v : Nat, testBit v 31 = true → s.dev.on R.TRP_SWSTAT.DEV = true → s.dev.gooseDevHold = true → Answers (.trpSwclr v) s (fun t => t.rd R.TRP_SWSTAT.DEV = 1)) ∧
    (∀ (g : Fin 20) (c : Fin 4), s.dev.on (R.PWM_TRGCFG.EN g c) = false → Answers (.triggerCompare g c) s (fun t => t = s.dev)) ∧
    (∀ (g : Fin 20) (c : Fin 4), s.dev.domOn .f3 = true → s.dev.on (R.PWM_TRGCFG.EN g c) = true → 0 < s.dev.rd (R.PWM_PER.VALUE g) →
      s.dev.rd (R.PWM_TRGCFG.TARGET g c) = 0 → Answers (.triggerCompare g c) s (fun t => s.dev.tm.q ≤ t.tm.q ∧
        s.dev.RegsBut [R.PWM_TRGSTAMP.NS g c] t ∧ s.dev.OnlyIn (Part.regs ||| Part.tm ||| Part.pwm) t))

/-- With F4 on, a slot of converter A or B first converts the oldest control channel, else the oldest triggered channel, each
result kept for its tick with no register changed, and else the scanned input longest due: a channel without guard and
integrator then shows the 16-bit result in FBA_RAW. With nothing to convert only the time and the slot count move. (R199,
R200, R201, 10_measurement_protection.md) -/
def Obligations.ConverterSlotsServeControlFirst : Prop :=
  ∀ (s : State) (conv : Fin 2) (raw : Int), s.dev.domOn .f4 = true →
    let k := max (numAt s.dev.fba.slot conv) ((s.dev.tm.q + 199) / 200)
    let d := ({ s.dev with fba := { s.dev.fba with slot := setAt s.dev.fba.slot conv (k + 1) } }).advanceTo (200 * k)
    (∀ (ch : Nat) (rest : List Nat), s.dev.fba.ctlTodo.getD conv [] = ch :: rest → ch < s.dev.fba.ctl.length → conv.val < s.dev.fba.ctlTodo.length →
      Answers (.fbaConversionSlot conv raw) s (fun t => t.fba.ctl.getD ch 0 = wrap raw 16 ∧ t.fba.ctlTodo.getD conv [] = rest ∧
        t.fba.trig = s.dev.fba.trig ∧ t.fba.back = s.dev.fba.back ∧ t.regs = s.dev.regs)) ∧
    (∀ (ch : Nat) (rest : List Nat), s.dev.fba.ctlTodo.getD conv [] = [] → s.dev.fba.trigTodo.getD conv [] = ch :: rest →
      ch < s.dev.fba.trig.length → conv.val < s.dev.fba.trigTodo.length →
      Answers (.fbaConversionSlot conv raw) s (fun t => t.fba.trig.getD ch 0 = wrap raw 16 ∧ t.fba.trigTodo.getD conv [] = rest ∧
        t.fba.ctl = s.dev.fba.ctl ∧ t.fba.back = s.dev.fba.back ∧ t.regs = s.dev.regs)) ∧
    (∀ ch : Nat, s.dev.fba.ctlTodo.getD conv [] = [] → s.dev.fba.trigTodo.getD conv [] = [] → numAt s.dev.fba.starts conv = 0 →
      d.scanDue conv (500 * k) = some ch → ch < 32 → s.dev.on (R.FBA_CHCFG.GUARD ch) = false → s.dev.on (R.FBA_CHCFG.INTEG ch) = false →
      Answers (.fbaConversionSlot conv raw) s (fun t => t.rdS (R.FBA_RAW.VALUE ch) = wrap raw 16 ∧ s.dev.RegsBut [R.FBA_RAW.VALUE ch] t ∧
        t.fba.ctl = s.dev.fba.ctl ∧ t.fba.trig = s.dev.fba.trig)) ∧
    (s.dev.fba.ctlTodo.getD conv [] = [] → s.dev.fba.trigTodo.getD conv [] = [] → numAt s.dev.fba.starts conv = 0 → d.scanDue conv (500 * k) = none →
      Answers (.fbaConversionSlot conv raw) s (fun t => t = d))

/-- With F4 on: EN written 1 of a DISABLED monitor makes it ENABLED and SETTLING from the next whole measurement period, and of
any other only sets EN. The two half periods of the first full period leave the registers. The end of a settled low half whose
high half was settled shows the resistance of R211; the ratio is the resistance per unit of UREF, all ones beyond the range. A
confirmed ratio below FAULT leaves FAULT. (R211, R212, 10_measurement_protection.md) -/
def Obligations.InsulationMonitorsMeasure : Prop :=
  ∀ (s : State) (n : Fin 4), s.dev.domOn .f4 = true →
    (s.dev.rd (R.IMD_CTL.STATUS n) = 0 → n.val < s.dev.imd.length → Answers (.imdEnable n) s (fun t => t.rd (R.IMD_CTL.EN n) = 1 ∧
      t.rd (R.IMD_CTL.STATUS n) = 1 ∧ t.rd (R.IMD_CTL.STATE n) = 1 ∧ s.dev.stcNs ≤ (t.imdRt n).first ∧
      (t.imdRt n).first % (2 * clampNat (s.dev.rd (R.IMD_CFG.HP n)) 100 10000 * 1000000) = 0 ∧
      s.dev.RegsBut [R.IMD_CTL.EN n, R.IMD_CTL.STATUS n, R.IMD_CTL.STATE n] t)) ∧
    (s.dev.rd (R.IMD_CTL.STATUS n) ≠ 0 → Answers (.imdEnable n) s (fun t => t = s.dev.wr (R.IMD_CTL.EN n) 1)) ∧
    (s.dev.rd (R.IMD_CTL.STATUS n) = 1 → (s.dev.imdRt n).half < 2 → n.val < s.dev.imd.length → Answers (.imdHalfPeriodEnd n) s (fun t =>
      t.regs = s.dev.regs ∧ (t.imdRt n).half = (s.dev.imdRt n).half + 1 ∧ (t.imdRt n).samples = [])) ∧
    (∀ xp xn : Int, s.dev.rd (R.IMD_CTL.STATUS n) = 1 → 2 ≤ (s.dev.imdRt n).half → (s.dev.imdRt n).half % 2 = 1 → n.val < s.dev.imd.length →
      s.dev.imdSettled n = some xn → (s.dev.imdRt n).xp = some xp → s.dev.injected 11 n = none →
      let riso := imdRiso xp xn (s.dev.rd (R.IMD_NET.VINJ n)) (s.dev.rd (R.IMD_NET.RNET n))
      let ratio := if riso = 0xFFFFFFFF then 0xFFFFFFFF else riso / max 1 (s.dev.rd (R.IMD_UREF.UREF n))
      Answers (.imdHalfPeriodEnd n) s (fun t => t.rd (R.IMD_RISO.VALUE n) = riso ∧ t.rd (R.IMD_RATIO.VALUE n) = ratio ∧
        (ratio < s.dev.rd (R.IMD_THR.FAULT n) → max 1 (s.dev.rd (R.IMD_CFG.FCONF n)) ≤ (s.dev.imdRt n).low + 1 →
          t.rd (R.IMD_CTL.STATE n) = 4)))

/-- With F4 on: a start that nothing refuses takes an engine, RUNNING at step 0; a refused one shows its code, is counted and
takes none. At a boundary with one engine busy and its CLOSE step due, an interlock that holds energises the coil and one that
fails leaves CODE 4 and, without a FAILSEQ, FAILED. A CLOSE that times out with its feedback open de-energises the coil and
leaves CODE 1. A coil outside its own steps whose feedback differs from it is marked. (R205, R206, R207, R208, R209, R210,
10_measurement_protection.md) -/
def Obligations.SequencerRunsItsSteps : Prop :=
  ∀ s : State, s.dev.domOn .f4 = true →
    (∀ q : Nat, s.dev.ctrRefusal (q % 64) = 0 → Answers (.ctrStart q) s (fun t => ∃ e : Nat, e < 8 ∧ s.dev.engBusy e = false ∧
      t.rd (R.CTR_ENG.STATE e) = 1 ∧ t.rd (R.CTR_ENG.SEQ e) = q % 64 ∧ t.rd (R.CTR_ENG.STEP e) = 0 ∧ t.rd (R.CTR_ENG.CODE e) = 0 ∧
      t.rd R.CTR_START.RESULT = 1 ∧ t.rd R.CTR_START.CODE = 0 ∧ t.rd R.CTR_START.ENGINE = e ∧ t.rd R.CTR_CNT.REFUSED = s.dev.rd R.CTR_CNT.REFUSED)) ∧
    (∀ q : Nat, s.dev.ctrRefusal (q % 64) ≠ 0 → Answers (.ctrStart q) s (fun t => t.rd R.CTR_START.RESULT = 3 ∧
      t.rd R.CTR_START.CODE = s.dev.ctrRefusal (q % 64) ∧ t.rd R.CTR_CNT.REFUSED = min 255 (s.dev.rd R.CTR_CNT.REFUSED + 1) ∧ t.ctr = s.dev.ctr ∧
      s.dev.RegsBut [R.CTR_START.SEQ, R.CTR_START.RESULT, R.CTR_START.CODE, R.CTR_CNT.REFUSED] t)) ∧
    (∀ (fb : Nat) (e : Fin 8),
      let a := s.dev.advanceTo ((s.dev.tm.q + 3999) / 4000 * 4000)
      let d := ({ a with ctr := { a.ctr with raw := some fb } }).fbSample fb
      s.dev.engBusy e = true → (s.dev.engRt e).fresh = true → (∀ k : Nat, k < 8 → k ≠ e.val → s.dev.engBusy k = false) → (s.dev.engStep e).op = 1 →
      (d.ilkOk (d.engRt e).defs (d.engStep e) = true → Answers (.ctrSequencerBoundary fb) s (fun t => t.coilOn (s.dev.engStep e).arg = true ∧
        t.rd (R.CTR_ENG.STATE e) = s.dev.rd (R.CTR_ENG.STATE e) ∧ (t.engRt e).fresh = false)) ∧
      (d.ilkOk (d.engRt e).defs (d.engStep e) = false → (s.dev.engRt e).defs.failOf (s.dev.engRt e).seq = none → s.dev.rd (R.CTR_ENG.STATE e) = 1 →
        Answers (.ctrSequencerBoundary fb) s (fun t => t.rd (R.CTR_ENG.STATE e) = 3 ∧ t.rd (R.CTR_ENG.CODE e) = 4 ∧
          t.coilOn (s.dev.engStep e).arg = s.dev.coilOn (s.dev.engStep e).arg))) ∧
    (∀ e : Fin 8, s.dev.rd (R.CTR_ENG.STATE e) = 1 → (s.dev.engRt e).fresh = false → (s.dev.engStep e).op = 1 →
      ((s.dev.engRt e).defs.coil (s.dev.engStep e).arg).fb ≠ 0xFF → s.dev.coilClosed (s.dev.engStep e).arg = false →
      (s.dev.engRt e).defs.failOf (s.dev.engRt e).seq = none → Answers (.ctrStepTimeout e) s (fun t =>
        t.coilOn (s.dev.engStep e).arg = false ∧ t.rd (R.CTR_ENG.STATE e) = 3 ∧ t.rd (R.CTR_ENG.CODE e) = 1 ∧
        t.rd R.CTR_CNT.FAILED = min 255 (s.dev.rd R.CTR_CNT.FAILED + 1))) ∧
    (∀ c : Fin 48, (∀ e : Nat, e < 8 → s.dev.engBusy e = false) → (s.dev.act.ctr.coil c).fb ≠ 0xFF → s.dev.coilOn c ≠ s.dev.coilClosed c →
      Answers (.coilMismatch c) s (fun t => t.coilBit R.CTR_MISM.BIT c = true ∧ s.dev.RegsBut [R.CTR_MISM.BIT (c / 32)] t))

/-- With F2 on: at the next whole 10 ms an evaluation with shedding disabled moves nothing but the time. With it enabled in
ACTIVE, DERATE or AUTONOMOUS and no FMP restart, each block with shedding that is not in MANUAL and waits for no transition
looks at its power: WANT is the number of modules of the first row whose range holds that power. (R168,
08_degraded_operation.md) -/
def Obligations.SheddingAndTheMeasurementSources : Prop :=
  ∀ s : State, s.dev.domOn .f2 = true →
    let d := s.dev.advanceTo ((s.dev.tm.q + 3999999) / 4000000 * 4000000)
    (s.dev.on R.DGR_SHED.EN = false → Answers .legSheddingEvaluation s (fun t => t = d)) ∧
    (∀ (b : DetBlk) (r : LossRow), s.dev.on R.DGR_SHED.EN = true → s.dev.mode = .active ∨ s.dev.mode = .derate ∨ s.dev.mode = .autonomous →
      s.dev.pw.fmpRestart = false → s.dev.act.detBlks = [b] → b.shed = true → s.dev.ce.man.getD b.blk false = false →
      (s.dev.dblk b.blk).win = none → (s.dev.dblk b.blk).queued = none →
      (s.dev.act.loss.filter (fun x => x.blk == b.blk)).find? (fun x => decide (x.pmin ≤ d.shedPower b.blk) && decide (d.shedPower b.blk < x.pmax)) = some r →
      Answers .legSheddingEvaluation s (fun t => t.rd (R.DGR_SHEDSTAT.WANT b.blk) = r.count % 2 ^ (R.DGR_SHEDSTAT.WANT b.blk).width))

/-- With F4 on: the enabled write of SHR_NEXTAT_HI arms limit, margin, members and frame. DEMAND_RECORD_TRANSMIT without AUTH
queues the own record, once, on each field port that is up. A record of a later frame is kept; a record of the frame with the
group's settings, unauthenticated, is used; a past one is counted late. The cutoff computes the allocation of the frame of the
own record and shows it. A derate condition that begins while engaged leaves FT 900 after the first 100 ms; without one FT
rises by 100 a step. (R219, R220, R221, R223, R229, R230, R237, R247, 11_sharing.md) -/
def Obligations.SharingAndDerating : Prop :=
  ∀ s : State, s.dev.domOn .f4 = true →
    (∀ v : Nat, testBit v 31 = true → Answers (.shrNextatArm v) s (fun t => t.rd R.SHR_STAT.NEXTPEND = 1 ∧ t.rd R.SHR_NEXTAT_HI.AT = bits v 15 0 ∧
      t.shr.armed = some (s.dev.rd R.SHR_NEXTLIM.VALUE, s.dev.rd R.SHR_NEXTMARG.VALUE, s.dev.rd R.SHR_NEXTMEMB.VALUE,
        s.dev.rd R.SHR_NEXTAT_LO.VALUE + 2 ^ 32 * bits v 15 0))) ∧
    (∀ v : Nat, testBit v 31 = false → Answers (.shrNextatArm v) s (fun t => t.shr = s.dev.shr ∧ s.dev.RegsBut [R.SHR_NEXTAT_HI.AT] t)) ∧
    (∀ (r : ShrRec) (p : Fin 2), s.dev.shr.own = some r → s.dev.on R.SHR_GRP.AUTH = false → p.val < s.dev.net.ports.length →
      Answers .demandRecordTransmit s (fun t => t.regs = s.dev.regs ∧ (t.port p).queues.getD 0 [] = (s.dev.port p).queues.getD 0 [] ∧
        (s.dev.on (R.FNET_PORT.LINK p) = true → s.dev.rd (R.FNET_PORT.STATUS p) = 1 →
          (t.port p).queues = setAt (s.dev.port p).queues 1 ((s.dev.port p).queues.getD 1 [] ++
            [{ tag := some (s.dev.rd (R.FNET_SHRTAG.PCP p), s.dev.rd (R.FNET_SHRTAG.VID p)), etype := 0x88B5,
               payload := r.bytes ++ List.replicate 16 0, len := 166, frame := r.frame }])) ∧
        (s.dev.on (R.FNET_PORT.LINK p) = false → t.port p = s.dev.port p))) ∧
    (s.dev.shr.own = none → Answers .demandRecordTransmit s (fun t => s.dev.OnlyIn Part.tm t)) ∧
    (∀ bs : List Byte, s.dev.shr.frame < leAt (padTo bs 144) 4 8 →
      Answers (.demandRecord bs) s (fun t => t.shr = { s.dev.shr with early := s.dev.shr.early ++ [padTo bs 144] } ∧ t.regs = s.dev.regs)) ∧
    (∀ bs : List Byte, let r := padTo bs 144
      leAt r 4 8 = s.dev.shr.frame → s.dev.stcNs ≤ s.dev.shr.frame * 1000000 + 700000 → s.dev.shr.frame = s.dev.stcNs / 1000000 →
      leAt r 0 1 = 1 → leAt r 12 4 = s.dev.rd R.SHR_GROUPID.ID → leAt r 1 1 ≠ s.dev.devno → leAt r 1 1 < 32 →
      testBit s.dev.memberMask (leAt r 1 1) = true → s.dev.recMatches r = true → s.dev.on R.SHR_GRP.AUTH = false →
      s.dev.isInjected 15 (leAt r 1 1) = false → s.dev.shr.conflict = [] → s.dev.shr.used = [] →
      Answers (.demandRecord bs) s (fun t => t.shr = { s.dev.shr with used := [parseRec r] } ∧ t.regs = s.dev.regs)) ∧
    (∀ bs : List Byte, leAt (padTo bs 144) 4 8 ≤ s.dev.shr.frame → leAt (padTo bs 144) 4 8 < s.dev.stcNs / 1000000 →
      Answers (.demandRecord bs) s (fun t => t.rd R.SHR_CNT.LATE = min 255 (s.dev.rd R.SHR_CNT.LATE + 1) ∧ t.shr = s.dev.shr)) ∧
    (∀ r : ShrRec, s.dev.shr.own = some r → Answers .shareCutoff s (fun t => ∃ c : ShrAlloc, t.shr.comp = some c ∧ c.frame = r.frame ∧ c.disc = r.disc ∧
      ∀ n : Nat, n < 4 → t.rd (R.SHR_ALLOC.W n) = numAt c.a n % 2 ^ 32)) ∧
    (s.dev.shr.own = none → Answers .shareCutoff s (fun t => t.shr.comp = s.dev.shr.comp ∧
      ∀ p : Fin 2,
        (t.port p).queues.getD 1 [] = ((s.dev.port p).queues.getD 1 []).filter (fun f => decide (s.dev.shr.frame < f.frame)))) ∧
    (s.dev.derateCond = true → s.dev.shr.derating = false → s.dev.pw.engaged = true → Answers .thermalDerateStep s (fun t =>
      t.rd R.SHR_DERATE.FT = 900 ∧ t.shr.limited = true ∧ t.shr.derating = true ∧ s.dev.RegsBut [R.SHR_DERATE.FT] t)) ∧
    (s.dev.derateCond = false → s.dev.shr.limited = true → s.dev.rd R.SHR_DERATE.FT + 100 < 1000 → Answers .thermalDerateStep s (fun t =>
      t.rd R.SHR_DERATE.FT = s.dev.rd R.SHR_DERATE.FT + 100 ∧ t.shr.limited = true ∧ s.dev.RegsBut [R.SHR_DERATE.FT] t))

/-- For every list of entries whose floors do not exceed their requests and that hold nothing yet, and every budget: the
allocation keeps the entries in place, grants no entry more than its request, and grants in sum no more than the budget; with
a budget that covers all requests every entry of classes 0 to 7 receives its request. (R230, 11_sharing.md) -/
def Obligations.AllocationKeepsTheBudget : Prop :=
  ∀ (es : List FillEntry) (b : Nat), (∀ e ∈ es, e.a = 0 ∧ e.flr ≤ e.req) →
    (allocate es b).length = es.length ∧
    (∀ i : Nat, i < es.length → ∀ x y : FillEntry, es[i]? = some x → (allocate es b)[i]? = some y →
      y.a ≤ x.req ∧ y.dev = x.dev ∧ y.idx = x.idx ∧ y.req = x.req) ∧
    ((allocate es b).map (fun e => e.a)).sum ≤ b ∧
    ((es.map (fun e => e.req)).sum ≤ b → (∀ e ∈ es, e.cls < 8) → ∀ e ∈ allocate es b, e.a = e.req)

/-- With F4 on and routing enabled in a delivering mode with no step in progress: the first output of largest positive deficit
becomes TO, the first of largest surplus that has a movable group becomes FROM, that group is GROUP, PHASE becomes 1 and the
donor block gets the request of its variant without the module. Disabled, only the time moves. A zero-current time-out in
phase 2 ends the step with PHASE 0 and requests the donor's former key; in any other phase it changes nothing. (R240, Table
11-5, 11_sharing.md) -/
def Obligations.RoutingMovesOneModule : Prop :=
  ∀ s : State, s.dev.domOn .f4 = true →
    let d := s.dev.advanceTo s.dev.next100ms
    (s.dev.on R.SHR_RTCFG.EN = false → Answers .routingPlan s (fun t => t = d)) ∧
    (∀ (rcv frm g v : Nat) (m m' : ModRec), s.dev.on R.SHR_RTCFG.EN = true → s.dev.mode = .active ∨ s.dev.mode = .derate ∨ s.dev.mode = .autonomous →
      s.dev.rd R.SHR_RTSTAT.PHASE = 0 → s.dev.pw.fmpRestart = false →
      argMax (([0, 1, 2, 3].map (fun n => (n, d.rtDeficit n))).filter (fun x => decide (0 < x.2))) = some rcv →
      let movable := d.routeGroups.filterMap (fun g => if d.rtSeq g rcv = 0x3F then none else ((d.routable.find? (fun q => q.1.group == g && d.routed q.1)).map (fun q => (g, q.2))))
      argMax (([0, 1, 2, 3].filter (fun n => movable.any (fun x => x.2 == n) && decide (n ≠ rcv) && decide (d.rtDeficit n < 0))).map
        (fun n => (n, -(d.rtDeficit n)))) = some frm →
      movable.find? (fun x => x.2 == frm) = some (g, frm) → d.routeMod g frm = some m → d.routeMod g rcv = some m' →
      d.moduleVariant m.blk m.mod false = some v → rcv < 4 → frm < 4 → g < 20 → m.blk < s.dev.dgr.blk.length →
      Answers .routingPlan s (fun t => t.rd R.SHR_RTSTAT.PHASE = 1 ∧ t.rd R.SHR_RTSTAT.TO = rcv ∧ t.rd R.SHR_RTSTAT.FROM = frm ∧
        t.rd R.SHR_RTSTAT.GROUP = g ∧ t.rt.donor = m.blk ∧ t.rt.receiver = m'.blk ∧
        (t.dblk m.blk).req = some (d.keyOf m.blk v % 65536, false))) ∧
    (s.dev.rd R.SHR_RTSTAT.PHASE = 2 → s.dev.rt.donor < s.dev.dgr.blk.length → Answers .routingZeroTimeout s (fun t => t.rd R.SHR_RTSTAT.PHASE = 0 ∧
      t.rd R.SHR_RTSTAT.STEPS = s.dev.rd R.SHR_RTSTAT.STEPS ∧ (t.dblk s.dev.rt.donor).req = some (s.dev.rt.prevKey % 65536, false))) ∧
    (s.dev.rd R.SHR_RTSTAT.PHASE ≠ 2 → Answers .routingZeroTimeout s (fun t => t = s.dev))

/-- With F4 on: a link report shows LINK, or SPEEDERR and no link for an unsupported speed. A frame above 1522 bytes, or with a
bad FCS, counts in its drop counter and takes no buffer; one of an unknown EtherType is filtered; one whose class has free
reserve is admitted in cells of 256 bytes. A start sends the head of the first open queue with room before its gate closes.
APPLY leaves PEND with NENT kept in 1 to 16. A Sync in two steps waits for its Follow_Up, which gives the offset sample; a
Pdelay_Req takes the next number and is stamped. (R101, R241, R242, R243, R244, R245, R246, 12_process_bus.md, 05_time.md) -/
def Obligations.FieldPortsAndSiteTimeMessages : Prop :=
  ∀ (s : State) (p : Fin 2), s.dev.domOn .f4 = true →
    (∀ up : Bool, Answers (.ethLinkChange ⟨p.val, by omega⟩ up true) s (fun t => t.rd (R.FNET_PORT.LINK p) = b2n up ∧ t.rd (R.FNET_PORT.SPEEDERR p) = 0 ∧
      s.dev.RegsBut [R.FNET_PORT.LINK p, R.FNET_PORT.SPEEDERR p] t ∧ s.dev.OnlyIn (Part.regs ||| Part.fl) t)) ∧
    Answers (.ethLinkChange ⟨p.val, by omega⟩ true false) s (fun t => t.rd (R.FNET_PORT.LINK p) = 0 ∧ t.rd (R.FNET_PORT.SPEEDERR p) = 1 ∧
      s.dev.RegsBut [R.FNET_PORT.LINK p, R.FNET_PORT.SPEEDERR p] t) ∧
    (∀ (f : List Byte) (ok : Bool), s.dev.portUp p = true → 1522 < f.length + 4 → Answers (.ethFrameReceive ⟨p.val, by omega⟩ f ok) s (fun t =>
      t.rd (R.FNET_DROP1.OVERSIZE p) = min 255 (s.dev.rd (R.FNET_DROP1.OVERSIZE p) + 1) ∧ t.net.cells = s.dev.net.cells ∧
      s.dev.RegsBut [R.FNET_DROP1.OVERSIZE p] t)) ∧
    (∀ f : List Byte, s.dev.portUp p = true → f.length + 4 ≤ 1522 → Answers (.ethFrameReceive ⟨p.val, by omega⟩ f false) s (fun t =>
      t.rd (R.FNET_DROP1.FCS p) = min 255 (s.dev.rd (R.FNET_DROP1.FCS p) + 1) ∧ t.net.cells = s.dev.net.cells ∧ s.dev.RegsBut [R.FNET_DROP1.FCS p] t)) ∧
    (∀ f : List Byte, s.dev.portUp p = true → f.length + 4 ≤ 1522 → s.dev.rxClass (etherType f) = none →
      Answers (.ethFrameReceive ⟨p.val, by omega⟩ f true) s (fun t => t.rd (R.FNET_DROP1.FILTERED p) = min 255 (s.dev.rd (R.FNET_DROP1.FILTERED p) + 1) ∧
        t.net.cells = s.dev.net.cells ∧ s.dev.RegsBut [R.FNET_DROP1.FILTERED p] t)) ∧
    (∀ (f : List Byte) (c : Nat), s.dev.portUp p = true → f.length + 4 ≤ 1522 → s.dev.rxClass (etherType f) = some c →
      (f.length + 4 + 255) / 256 + (s.dev.cellsUsed c).1 ≤ (classReserve c).1 → c < s.dev.net.cells.length →
      Answers (.ethFrameReceive ⟨p.val, by omega⟩ f true) s (fun t =>
        t.net.cells.getD c [] = s.dev.net.cells.getD c [] ++ [((f.length + 4 + 255) / 256, 0)] ∧
        s.dev.RegsBut [R.FNET_BUFPEAK.CELLS c, R.FNET_BUFPEAK.CELLS 5] t)) ∧
    (∀ (q : Nat) (f : TxFrame) (rest : List TxFrame), s.dev.on (R.FNET_PORT.LINK p) = true → s.dev.rd (R.FNET_PORT.STATUS p) = 1 →
      s.dev.txPick p = some q → (s.dev.port p).queues.getD q [] = f :: rest → p.val < s.dev.net.ports.length →
      Answers (.ethTransmitStart ⟨p.val, by omega⟩) s (fun t => (t.port p).queues.getD q [] = rest ∧ t.regs = s.dev.regs ∧
        (t.port p).sending = some (f, 16 * s.dev.stcNs + 2 * s.dev.rd (R.FNET_PDLY.TX p)))) ∧
    (∀ n : Nat, Answers (.fnetGclctlApply p n) s (fun t => t.rd (R.FNET_GCLCTL.PEND p) = 1 ∧ t.rd (R.FNET_GCLCTL.NENT p) = clampNat (n % 32) 1 16 ∧
      t.net = s.dev.net ∧ s.dev.RegsBut [R.FNET_GCLCTL.PEND p, R.FNET_GCLCTL.NENT p] t)) ∧
    (s.dev.pw.fmpRestart = false →
      (∀ (rx : Int) (u : Int), Answers (.ptpMessage p rx (.announce (s.dev.rd R.STC_PTPCFG.DOMAIN) (some u))) s (fun t =>
        t.rd R.STC_UTCOFS.SRC = 1 ∧ t.rdS R.STC_UTCOFS.OFS = wrap u 16)) ∧
      (∀ (rx origin corr : Int) (seq : Nat), p.val < s.dev.net.ptp.length →
        Answers (.ptpMessage p rx (.sync (s.dev.rd R.STC_PTPCFG.DOMAIN) seq true origin corr)) s (fun t =>
          (t.ptp p).sync = some (seq, rx - 2 * s.dev.rd (R.FNET_PDLY.RX p), corr) ∧ t.regs = s.dev.regs)) ∧
      (∀ (rx rs origin c0 corr md : Int) (seq : Nat), p.val < s.dev.net.ptp.length → (s.dev.ptp p).sync = some (seq, rs, c0) →
        (s.dev.ptp p).delay = some md → Answers (.ptpMessage p rx (.followUp (s.dev.rd R.STC_PTPCFG.DOMAIN) seq origin corr)) s (fun t =>
          t.rdS (R.STC_PTPOFS.OFS p) = wrap (divz (rs - (origin + (c0 + corr) + md)) 16) 32 ∧ (t.ptp p).sync = none)) ∧
      (s.dev.portUp p = true → p.val < s.dev.net.ptp.length → p.val < s.dev.tm.pdelaySeq.length → Answers (.pdelayReqSend p) s (fun t =>
        (t.ptp p).t1 = some (numAt s.dev.tm.pdelaySeq p, (16 * s.dev.stcNs + 2 * s.dev.rd (R.FNET_PDLY.TX p) : Int)) ∧ (t.ptp p).resp = none ∧
        numAt t.tm.pdelaySeq p = (numAt s.dev.tm.pdelaySeq p + 1) % 65536 ∧ t.regs = s.dev.regs)))

/-- A claim read by a core answers its highest ready source, clears its pending bit and puts it in service, or answers 0xFF and
changes nothing; a claim write ends the service. A TAIL write ends the ring's stop and serves what waits for the ring. A
coalescing time-out raises the ring's event for completions that were collected. HSYS_IMGOK with 0x600D makes a running TRIAL
image GOOD; another value changes nothing. A GPIO edge shows its level, with its event where enabled. A transfer of an enabled
peripheral without DMA puts its bytes into the FIFO and raises its event. (R341, R342, R345, R346, R347, 17_host.md) -/
def Obligations.HostRouterRingsAndPeripherals : Prop :=
  ∀ s : State,
    (s.dev.domOn .h1 = true →
      (∀ (c : Fin 4) (n : Nat), s.dev.srcBest c = some n → Answers (.hevtClaimRead c) s (fun t => t.lastRead = n ∧ t.srcPend n = false ∧
        t.hp.service = s.dev.hp.service ++ [n] ∧ s.dev.RegsBut [R.HEVT_PEND.PEND (n / 32)] t)) ∧
      (∀ c : Fin 4, s.dev.srcBest c = none → Answers (.hevtClaimRead c) s (fun t => t = { s.dev with lastRead := 0xFF })) ∧
      (∀ n : Nat, Answers (.hevtClaimWrite n) s (fun t => n ∉ t.hp.service ∧ s.dev.OnlyIn Part.hp t)) ∧
      (∀ (r : Fin 32) (idx : Nat), r.val < 8 → Answers (.hrngTailWrite r idx) s (fun t => t.rings.stopped.getD r false = false ∧
        t.rd (R.HRNG_TAIL.IDX r) = idx % 2 ^ (R.HRNG_TAIL.IDX r).width ∧ s.dev.RegsBut [R.HRNG_TAIL.IDX r] t ∧
        s.dev.OnlyIn (Part.regs ||| Part.rings) t)) ∧
      (∀ (r : Fin 32) (idx : Nat), 8 ≤ r.val → Answers (.hrngTailWrite r idx) s (fun t =>
        t = (({ s.dev with rings := { s.dev.rings with stopped := setAt s.dev.rings.stopped r false } }).wr (R.HRNG_TAIL.IDX r) idx).ringServe r)) ∧
      (∀ r : Fin 32, s.dev.rd (R.HRNG_COAL.TIME r) ≠ 0 → numAt s.dev.rings.fill r = 0 → numAt s.dev.rings.collected r ≠ 0 →
        Answers (.ringCoalTimeout r) s (fun t => t.rd (R.HRNG_STAT.EVT r) = 1 ∧ t.Pends (80 + r / 2))) ∧
      (∀ r : Fin 32, s.dev.rd (R.HRNG_COAL.TIME r) = 0 → Answers (.ringCoalTimeout r) s (fun t => t = s.dev)) ∧
      (∀ (i v : Nat), s.dev.hp.running = some i → i < s.dev.hp.slots.length → bits v 31 16 = 0x600D → (s.dev.slot i).st = 1 →
        Answers (.hsysImgok v) s (fun t => (t.slot i).st = 2 ∧ (t.slot i).gen = (s.dev.slot (1 - i)).gen + 1 ∧ t.Pends 67)) ∧
      (∀ v : Nat, bits v 31 16 ≠ 0x600D → Answers (.hsysImgok v) s (fun t => t = s.dev))) ∧
    (s.dev.domOn .h3 = true →
      (∀ (pin : Fin 32) (b : Bool), Answers (.gpioEdge pin b) s (fun t => testBit (t.rd (R.HPER_DATA.DATA 9)) pin = b ∧
        (testBit (s.dev.rd (R.HPER_DATA.DATA 9)) pin ≠ b → testBit (s.dev.rd R.HPER_EVT.EN) pin = true → s.dev.rd (R.HPER_CTL.STATUS 9) ≠ 0 → t.Pends 127))) ∧
      (∀ (i : Fin 9) (bs : List Byte) (err : Bool), s.dev.rd (R.HPER_CTL.STATUS i) ≠ 0 → s.dev.rd (R.HPER_DMASEL.RING i) < 28 → i.val < s.dev.hp.rx.length →
        Answers (.peripheralTransfer i bs err) s (fun t => t.hp.rx.getD i [] = (s.dev.hp.rx.getD i [] ++ bs).take 64 ∧ t.rd (R.HPER_STAT.DONE i) = 1 ∧
          (err = true → t.rd (R.HPER_STAT.ERROR i) = 1) ∧ t.Pends (hperEvent i))) ∧
      (∀ (i : Fin 9) (bs : List Byte) (err : Bool), s.dev.rd (R.HPER_CTL.STATUS i) = 0 → Answers (.peripheralTransfer i bs err) s (fun t => t = s.dev)))

/-- With F4 on: enabling an OFF subscription of a known data set starts it anew in state 1, disabling or an unknown data set puts
it OFF, reconfiguring a live one starts it anew. At a deadline with no sample the held one is released missing: MISSING
counts, the run grows to at most 3, a VALID subscription leaves VALID at 3, and the shown values stay. A frame of the
subscription with a wrong CONFREV counts FORMAT; one that passes gives its ASDUs in order. A running publication queues the
frame of the present samples. (R249, R251, R252, R253, Table 12-3, 12_process_bus.md) -/
def Obligations.SampledValueStreams : Prop :=
  ∀ s : State, s.dev.domOn .f4 = true →
    (∀ b : Fin 8, s.dev.rd (R.SVG_SUBSTAT.STATE b) = 0 → dsetAsdus (s.dev.rd (R.SVG_SUBCFG.DSET b)) ≠ 0 → s.dev.svgRuns = true →
      b.val < s.dev.svg.subs.length → Answers (.svSubscriptionEnable b) s (fun t => t.rd (R.SVG_SUBSTAT.STATE b) = 1 ∧
        t.rd (R.SVG_SUBCFG.EN b) = 1 ∧ t.rd (R.SVG_SUBSTAT.MISSRUN b) = 0 ∧ t.sub b = {})) ∧
    (∀ b : Fin 8, b.val < s.dev.svg.subs.length → Answers (.svSubscriptionDisable b) s (fun t => t.rd (R.SVG_SUBSTAT.STATE b) = 0 ∧
      t.rd (R.SVG_SUBCFG.EN b) = 0 ∧ t.sub b = {})) ∧
    (∀ b : Fin 8, s.dev.rd (R.SVG_SUBSTAT.STATE b) = 0 → Answers (.svSubscriptionReconfigure b) s (fun t => t = s.dev)) ∧
    (∀ b : Fin 8, s.dev.rd (R.SVG_SUBSTAT.STATE b) ≠ 0 → b.val < s.dev.svg.subs.length → Answers (.svSubscriptionReconfigure b) s (fun t =>
      t.rd (R.SVG_SUBSTAT.STATE b) = (if dsetAsdus (s.dev.rd (R.SVG_SUBCFG.DSET b)) = 0 then 0 else 1) ∧ t.rd (R.SVG_SUBSTAT.MISSRUN b) = 0 ∧ t.sub b = {})) ∧
    (∀ (b : Fin 8) (n : Nat), (s.dev.sub b).next = some n → (s.dev.sub b).buf = [] → b.val < s.dev.svg.subs.length →
      Answers (.svSampleDeadline b) s (fun t => t.rd (R.SVG_SUBSTAT.HELD b) = 1 ∧ t.rd (R.SVG_SUBSTAT.MISSRUN b) = min 3 (s.dev.rd (R.SVG_SUBSTAT.MISSRUN b) + 1) ∧
        t.rd (R.SVG_SUBCNT.MISSING b) = min 255 (s.dev.rd (R.SVG_SUBCNT.MISSING b) + 1) ∧ (t.sub b).next = some (n + 1) ∧ (t.sub b).usedRun = 0 ∧
        (s.dev.rd (R.SVG_SUBSTAT.STATE b) = 2 → 2 ≤ s.dev.rd (R.SVG_SUBSTAT.MISSRUN b) → t.rd (R.SVG_SUBSTAT.STATE b) = 1) ∧
        ∀ q : Fin 8, t.rd (R.SVG_SUBVAL.VALUE b q) = s.dev.rd (R.SVG_SUBVAL.VALUE b q))) ∧
    (∀ b : Fin 8, (s.dev.sub b).next = none → Answers (.svSampleDeadline b) s (fun t => t = s.dev)) ∧
    (∀ (m : SvMsg) (k : Nat), s.dev.svgRuns = true → (List.range 8).find? (fun i => s.dev.svMatches i m) = some k → m.confRev ≠ s.dev.rd (R.SVG_SUBREV.VALUE k) →
      Answers (.svFrame m) s (fun t => t.rd (R.SVG_SUBCNT.FORMAT k) = min 255 (s.dev.rd (R.SVG_SUBCNT.FORMAT k) + 1) ∧ t.svg = s.dev.svg ∧
        s.dev.RegsBut [R.SVG_SUBCNT.FORMAT k] t)) ∧
    (∀ (m : SvMsg) (k : Nat), s.dev.svgRuns = true → (List.range 8).find? (fun i => s.dev.svMatches i m) = some k → m.confRev = s.dev.rd (R.SVG_SUBREV.VALUE k) →
      m.asdus.length = dsetAsdus (s.dev.rd (R.SVG_SUBCFG.DSET k)) →
      (∀ a ∈ m.asdus, a.smpCnt < dsetRate (s.dev.rd (R.SVG_SUBCFG.DSET k))) → s.dev.on (R.SVG_SUBCFG.AUTH k) = false →
      Answers (.svFrame m) s (fun t => t = (s.dev.rxFree 3).forAll m.asdus (fun d a => d.svAsdu k a))) ∧
    (∀ (p : Fin 2) (raws : List (List Int)) (len : Nat), s.dev.pubRuns p = true → p.val < s.dev.svg.pubs.length →
      let k := dsetAsdus (s.dev.rd (R.SVG_PUBCFG.DSET p))
      let first := s.dev.stcNs % 10 ^ 9 * dsetRate (s.dev.rd (R.SVG_PUBCFG.DSET p)) / 10 ^ 9 / k * k
      Answers (.svPublication p raws len) s (fun t => (t.svg.pubs.getD p []).map (fun a => a.smpCnt) = (List.range k).map (fun i => first + i) ∧
        t.rd (R.SVG_PUBSTAT.SMPCNT p) = (first + k - 1) % 2 ^ (R.SVG_PUBSTAT.SMPCNT p).width ∧
        s.dev.RegsBut [R.SVG_PUBSTAT.SMPCNT p, R.SVG_PUBSTAT.SMPSYNCH p] t)) ∧
    (∀ (p : Fin 2) (raws : List (List Int)) (len : Nat), s.dev.pubRuns p = false → Answers (.svPublication p raws len) s (fun t => t = s.dev))

/-- With F4 on: enabling an OFF subscription makes it wait for its first message with no hold; disabling clears state and hold.
The first message that passes all checks makes it LIVE with its value, quality and state number, and it holds exactly when the
value is true and the quality good. At its time to live a LIVE one becomes STALE, and then holds exactly when FAILSAFE is set;
any other is left as it is. (R255, R256, Table 12-4, 12_process_bus.md) -/
def Obligations.GooseSubscriptionsHold : Prop :=
  ∀ s : State, s.dev.domOn .f4 = true →
    (∀ j : Fin 32, s.dev.rd (R.SVG_GSSTAT.STATE j) = 0 → s.dev.svgRuns = true → j.val < s.dev.svg.gs.length →
      Answers (.gooseSubscriptionEnable j) s (fun t => t.rd (R.SVG_GSSTAT.STATE j) = 1 ∧ t.rd (R.SVG_GSSTAT.HOLD j) = 0 ∧ t.rd (R.SVG_GSCFG.EN j) = 1 ∧ t.gs j = {})) ∧
    (∀ j : Fin 32, Answers (.gooseSubscriptionDisable j) s (fun t => t.rd (R.SVG_GSSTAT.STATE j) = 0 ∧ t.rd (R.SVG_GSSTAT.HOLD j) = 0 ∧
      t.rd (R.SVG_GSCFG.EN j) = 0)) ∧
    (∀ j : Fin 32, s.dev.rd (R.SVG_GSSTAT.STATE j) = 2 → Answers (.gooseTtlExpiry j) s (fun t => t.rd (R.SVG_GSSTAT.STATE j) = 3 ∧
      t.rd (R.SVG_GSSTAT.HOLD j) = b2n (s.dev.on (R.SVG_GSCFG.FAILSAFE j)) ∧ t.rd (R.SVG_GSSTAT.VALUE j) = s.dev.rd (R.SVG_GSSTAT.VALUE j))) ∧
    (∀ j : Fin 32, s.dev.rd (R.SVG_GSSTAT.STATE j) ≠ 2 → Answers (.gooseTtlExpiry j) s (fun t => t = s.dev)) ∧
    (∀ (m : GooseMsg) (j : Nat) (v qb : Bool), s.dev.svgRuns = true → (List.range 32).find? (fun i => s.dev.gsMatches i m) = some j →
      s.dev.on (R.SVG_GSCFG.AUTH j) = false → m.confRev = s.dev.rd (R.SVG_GSREV.VALUE j) → m.ndsCom = false → m.simulation = false →
      (s.dev.gs j).last = none → s.dev.gsValue j m = some (v, qb) → j < s.dev.svg.gs.length →
      Answers (.gooseFrame m) s (fun t => t.rd (R.SVG_GSSTAT.STATE j) = 2 ∧ t.rd (R.SVG_GSSTAT.VALUE j) = b2n v ∧ t.rd (R.SVG_GSSTAT.QBAD j) = b2n qb ∧
        t.rd (R.SVG_GSSTAT.STNUM j) = m.stNum % 2 ^ (R.SVG_GSSTAT.STNUM j).width ∧ t.rd (R.SVG_GSSTAT.HOLD j) = b2n (v && !qb) ∧
        (t.gs j).last = some (m.stNum, m.sqNum))) ∧
    (∀ (m : GooseMsg) (j : Nat), s.dev.svgRuns = true → (List.range 32).find? (fun i => s.dev.gsMatches i m) = some j → s.dev.on (R.SVG_GSCFG.AUTH j) = false →
      m.confRev ≠ s.dev.rd (R.SVG_GSREV.VALUE j) → Answers (.gooseFrame m) s (fun t => t.rd R.SVG_CNT.GSFORMAT = min 255 (s.dev.rd R.SVG_CNT.GSFORMAT + 1) ∧
        t.svg = s.dev.svg ∧ s.dev.RegsBut [R.SVG_CNT.GSFORMAT] t))

/-- With F4 on a condition that comes up on an input in use sets its bit, the health bit and the latched bit and counts; a missing
clock concerns every input in use on it. The end of an input's last condition clears the health bit, not the latched one.
RETURN_WAIT records the instant from which the main source counts again. A test pulse starts with one owed, enabled and low,
and takes one; it ends low. Its configuration keeps the constant in 1 to 1000000 and is ignored under the seal. (R197, R198,
R265, R266, R273, R276, R277, R278, 10_measurement_protection.md, 13_metrology.md) -/
def Obligations.MeteringSourcesAndTestOutputs : Prop :=
  ∀ s : State,
    (∀ (k : Fin 3) (j : Fin 128), s.dev.domOn .f4 = true → k.val ≠ 2 → s.dev.on (R.MOD_INSTAT.USED j) = true →
      let f := if k.val = 0 then R.MOD_INSTAT.STUCK j else R.MOD_INSTAT.SAT j
      s.dev.on f = false → Answers (.modConditionPresent k j) s (fun t => t.rd f = 1 ∧ t.modFaulty j = true ∧
        testBit (t.rd (R.MOD_HLATCH.IN (j / 32))) (j % 32) = true ∧ t.rd R.MOD_CNT.FAULTS = min 65535 (s.dev.rd R.MOD_CNT.FAULTS + 1) ∧
        s.dev.RegsBut [f, R.MOD_HSTAT.IN (j / 32), R.MOD_HLATCH.IN (j / 32), R.MOD_CNT.FAULTS] t)) ∧
    (∀ j : Fin 128, s.dev.domOn .f4 = true → s.dev.rd (R.MOD_INSTAT.CLK j) < 8 → Answers (.modConditionPresent 2 j) s (fun t =>
      testBit (t.rd R.MOD_CLKSTAT.FAULT) (s.dev.rd (R.MOD_INSTAT.CLK j)) = true ∧
      ∀ i : Fin 128, s.dev.on (R.MOD_INSTAT.USED i) = true → s.dev.rd (R.MOD_INSTAT.CLK i) = s.dev.rd (R.MOD_INSTAT.CLK j) →
        t.rd (R.MOD_INSTAT.CLKF i) = 1)) ∧
    (∀ j : Fin 128, s.dev.domOn .f4 = true → s.dev.isInjected 3 j = false → s.dev.on (R.MOD_INSTAT.STUCK j) = true →
      s.dev.on (R.MOD_INSTAT.SAT j) = false → s.dev.on (R.MOD_INSTAT.CLKF j) = false → Answers (.modConditionEnd 0 j) s (fun t =>
        t.rd (R.MOD_INSTAT.STUCK j) = 0 ∧ t.modFaulty j = false ∧ s.dev.RegsBut [R.MOD_INSTAT.STUCK j, R.MOD_HSTAT.IN (j / 32)] t)) ∧
    (∀ j : Fin 128, s.dev.domOn .f4 = true → s.dev.isInjected 3 j = false → s.dev.on (R.MOD_INSTAT.STUCK j) = true →
      s.dev.on (R.MOD_INSTAT.SAT j) = true → Answers (.modConditionEnd 0 j) s (fun t => t = s.dev.wr (R.MOD_INSTAT.STUCK j) 0)) ∧
    (∀ (c : Fin 16) (r : MeasRec) (f : Nat), s.dev.met.mainRec c = some r → s.dev.met.fbFrom.getD c none = some f → s.dev.met.retAt.getD c none = none →
      s.dev.modFaulty r.index = false → c.val < s.dev.met.retAt.length → Answers (.metrologyReturnWait c) s (fun t =>
        t.met.retAt.getD c none = some s.dev.stcNs ∧ t.regs = s.dev.regs)) ∧
    (∀ c : Fin 16, s.dev.met.fbFrom.getD c none = none → Answers (.metrologyReturnWait c) s (fun t => t = s.dev)) ∧
    (∀ k : Fin 4, s.dev.metRuns = true → s.dev.on (R.MET_TPCFG.EN k) = true → 0 < s.dev.rd (R.MET_TPSTAT.OWED k) → s.dev.rd (R.MET_TPSTAT.OWED k) ≤ 4095 →
      (s.dev.testOut k).high = none → (s.dev.testOut k).start = none → k.val < s.dev.met.tp.length → Answers (.testPulseStart k) s (fun t =>
        t.rd (R.MET_TPSTAT.OWED k) = s.dev.rd (R.MET_TPSTAT.OWED k) - 1 ∧
        (t.testOut k).high = some ((s.dev.stcNs + 999) / 1000 + s.dev.rd (R.MET_TPSTAT.WIDTH k)) ∧ s.dev.RegsBut [R.MET_TPSTAT.OWED k] t)) ∧
    (∀ k : Fin 4, s.dev.metRuns = true → s.dev.rd (R.MET_TPSTAT.OWED k) = 0 → Answers (.testPulseStart k) s (fun t => t = s.dev)) ∧
    (∀ k : Fin 4, k.val < s.dev.met.tp.length → Answers (.testPulseEnd k) s (fun t => (t.testOut k).high = none ∧ t.regs = s.dev.regs)) ∧
    (∀ (k : Fin 4) (c : Bool) (v : Nat), s.dev.rwlSealed = true → Answers (.testOutputConfigWrite k c v) s (fun t => t = s.dev)) ∧
    (∀ (k : Fin 4) (v : Nat), s.dev.rwlSealed = false → Answers (.testOutputConfigWrite k true v) s (fun t =>
      t.rd (R.MET_TPCONST.C k) = clampNat (bits v 19 0) 1 1000000 ∧ t.rd (R.MET_TPSTAT.OWED k) = 0)) ∧
    (∀ (k : Fin 4) (v : Nat), s.dev.rwlSealed = false → Answers (.testOutputConfigWrite k false v) s (fun t =>
      t.rd (R.MET_TPCFG.SRC k) = min 35 (bits v 7 2) ∧ t.rd (R.MET_TPSTAT.OWED k) = 0 ∧
      (s.dev.rd (R.MET_ECFG.MODE (min 35 (bits v 7 2))) = 0 → t.rd (R.MET_TPCFG.EN k) = 0 ∧ t.rd (R.MET_TPCFG.SRCBAD k) = 1) ∧
      (s.dev.rd (R.MET_ECFG.MODE (min 35 (bits v 7 2))) ≠ 0 → t.rd (R.MET_TPCFG.EN k) = bit v 0 ∧ t.rd (R.MET_TPCFG.SRCBAD k) = 0)))

/-- A processed instant is the next due one, 1.000 ms behind the STC, and writes the live image once; where metrology does not run
nothing changes. MET_ECLR with its key, unsealed, zeroes exactly the named registers. Staging and ACTIVATE hand the staged
image over, with the metrology processor stopped, unless a session is open; the switch then makes it the image in force and
never lowers the least SVN, or leaves the former one with code 5. A processor that starts shows RUN. (R262, R273, R279, R280,
R281, R285, 13_metrology.md, 14_records.md) -/
def Obligations.MetrologyInstantsAndLegalSoftware : Prop :=
  ∀ s : State,
    (∀ main vh : List Int, s.dev.metRuns = true → Answers (.metrologyInstant main vh) s (fun t => t.met.last = some s.dev.metNext ∧
      t.bil.seq = (s.dev.bil.seq + 1) % 2 ^ 64 ∧ s.dev.tm.q ≤ t.tm.q ∧ stepsOfNs (s.dev.metNext + 1000000) ≤ t.tm.q)) ∧
    (∀ main vh : List Int, s.dev.metRuns = false → Answers (.metrologyInstant main vh) s (fun t => t = s.dev)) ∧
    (∀ v : Nat, bits v 31 16 = 0xE0C1 → s.dev.rwlSealed = false → Answers (.metEclr v) s (fun t => ∀ e : Nat, e < 36 →
      t.met.acc.getD e 0 = (if (if e < 28 then testBit v 0 else testBit v 1) then 0 else s.dev.met.acc.getD e 0))) ∧
    (∀ v : Nat, bits v 31 16 ≠ 0xE0C1 ∨ s.dev.rwlSealed = true → Answers (.metEclr v) s (fun t => t = s.dev)) ∧
    (∀ (ver svn : Nat) (sum : List Byte), s.dev.rd R.MET_LRCTL.STATE ≠ 2 → Answers (.lrImageStaged ver svn sum) s (fun t =>
      t.met.staged = some { ver := ver, svn := svn, sum := padTo sum 48 } ∧ t.rd R.MET_LRCTL.STATE = 1 ∧ s.dev.RegsBut [R.MET_LRCTL.STATE] t)) ∧
    (∀ (ver svn : Nat) (sum : List Byte), s.dev.rd R.MET_LRCTL.STATE = 2 → Answers (.lrImageStaged ver svn sum) s (fun t => t = s.dev)) ∧
    (∀ x : LrImg, s.dev.rd R.MET_LRCTL.STATE ≠ 2 → (∀ y ∈ s.dev.bil.sess, y.isOpen = false) → s.dev.met.staged = some x →
      s.dev.rd R.MET_LRMINSVN.SVN ≤ x.svn → s.dev.rd R.MET_LRCTL.RUN ≤ 1 → Answers (.lrActivate 0x4C52) s (fun t => t.rd R.MET_LRCTL.STATE = 2 ∧
        t.rd R.MET_LRCTL.CODE = 0 ∧ t.rd R.MET_LRCTL.RUN = 0 ∧ t.met = s.dev.met)) ∧
    (s.dev.rd R.MET_LRCTL.STATE ≠ 2 → (∃ y ∈ s.dev.bil.sess, y.isOpen = true) → Answers (.lrActivate 0x4C52) s (fun t => t.rd R.MET_LRCTL.CODE = 1 ∧
      t.met = s.dev.met ∧ s.dev.RegsBut [R.MET_LRCTL.CODE] t)) ∧
    (∀ key : Nat, key ≠ 0x4C52 → Answers (.lrActivate key) s (fun t => t = s.dev)) ∧
    (s.dev.on R.MET_LRCTL.RUN = false → s.dev.rd R.MET_LRCTL.STATE ≠ 2 → Answers .metrologyProcessorRunning s (fun t => t.rd R.MET_LRCTL.RUN = 1 ∧
      t.rd R.MET_LRVER.MAJOR = bits s.dev.bst.lr.ver 31 24 ∧ t.met = s.dev.met)) ∧
    (s.dev.on R.MET_LRCTL.RUN = true → Answers .metrologyProcessorRunning s (fun t => t = s.dev)) ∧
    (∀ x : LrImg, s.dev.rd R.MET_LRCTL.STATE = 2 → s.dev.met.staged = some x → Answers (.lrSwitchComplete true) s (fun t => t.bst.lr = x ∧
      t.bst.lrMin = max s.dev.bst.lrMin x.svn ∧ t.rd R.MET_LRCTL.STATE = 0 ∧ t.met.staged = none ∧ t.rd R.MET_LRCTL.RUN = 1)) ∧
    (∀ x : LrImg, s.dev.rd R.MET_LRCTL.STATE = 2 → s.dev.met.staged = some x → Answers (.lrSwitchComplete false) s (fun t => t.bst.lr = s.dev.bst.lr ∧
      t.rd R.MET_LRCTL.CODE = 5 ∧ t.rd R.MET_LRCTL.STATE = 0 ∧ t.met.staged = none ∧ t.rd R.MET_LRCTL.RUN = 1))

/-- A seal request with its key starts sealing exactly when the first failing check is none, and its completion blows the seal
with the binding digest. A session opens on code 0 and is refused with the code otherwise; a close of an open session begins
CLOSING, else answers 7. The oldest waiting session of an output becomes the next record. A commit begins in IDLE, is held as
one request otherwise, and moves the snapshot into its slot or fails. An acknowledgement removes what it names. REC_REQ sends
a stored item. A theft block of DORMANT moves the F0 counter by 100 ms. (R282, R286, R289, R290, R293, R294, R295, R296, R297,
Table 14-1, Table 14-2, 14_records.md) -/
def Obligations.SealSessionsCommitsAndExport : Prop :=
  ∀ s : State,
    (s.dev.bil.sealing = false → s.dev.sealCode = 0 → Answers (.sealRequest 0x5EA1) s (fun t => t.bil.sealing = true ∧ t.rd R.BIL_SEAL.CODE = 0 ∧
      t.ffuse = s.dev.ffuse)) ∧
    (s.dev.bil.sealing = false → s.dev.sealCode ≠ 0 → Answers (.sealRequest 0x5EA1) s (fun t => t.bil = s.dev.bil ∧
      t.rd R.BIL_SEAL.CODE = s.dev.sealCode ∧ s.dev.RegsBut [R.BIL_SEAL.CODE] t)) ∧
    (∀ key : Nat, key ≠ 0x5EA1 → Answers (.sealRequest key) s (fun t => t = s.dev)) ∧
    (s.dev.bil.sealing = true → Answers .sealComplete s (fun t => t.ffuse.sealed = true ∧ t.ffuse.bind = Config.sha384 s.dev.act.bindRaw ∧
      t.rd R.BIL_SEAL.STATE = 1 ∧ t.bil.sealing = false)) ∧
    (s.dev.bil.sealing = false → Answers .sealComplete s (fun t => t = s.dev)) ∧
    (s.dev.rd R.BIL_CTL.STATUS = 1 → s.dev.rd R.BIL_COMMIT.STATE = 0 → Answers .commitRequest s (fun t => t.rd R.BIL_COMMIT.STATE = 1 ∧
      t.bil.commit.isSome = true ∧ t.bst.recs = s.dev.bst.recs ∧ t.bst.logs = s.dev.bst.logs)) ∧
    (s.dev.rd R.BIL_CTL.STATUS = 1 → s.dev.rd R.BIL_COMMIT.STATE ≠ 0 → Answers .commitRequest s (fun t => t = s.dev.wr R.BIL_COMMIT.STATE 2)) ∧
    (s.dev.rd R.BIL_CTL.STATUS ≠ 1 → Answers .commitRequest s (fun t => t = s.dev)) ∧
    (s.dev.rd R.BIL_CTL.STATUS = 1 → s.dev.rd R.BIL_COMMIT.STATE = 0 → Answers .commit15Min s (fun t => t.rd R.BIL_COMMIT.STATE = 1 ∧
      t.bil.commit.isSome = true ∧ s.dev.tm.q ≤ t.tm.q)) ∧
    (∀ (x : LiveImg) (k : Nat), s.dev.bil.commit = some (x, k) → s.dev.rd R.BIL_COMMIT.STATE = 1 → k < 2 → k < s.dev.bst.slots.length →
      Answers (.commitComplete true) s (fun t => t.bst.slots.getD k none = some x ∧ t.bil.commit = none ∧ t.rd R.BIL_COMMIT.STATE = 0 ∧
        t.rd R.BIL_COMMIT.FAIL = 0 ∧ t.rd R.BIL_COMMIT.SLOT = k)) ∧
    (∀ (x : LiveImg) (k : Nat), s.dev.bil.commit = some (x, k) → s.dev.rd R.BIL_COMMIT.STATE = 1 → Answers (.commitComplete false) s (fun t =>
      t.bst = s.dev.bst ∧ t.bil.commit = none ∧ t.rd R.BIL_COMMIT.STATE = 0 ∧ t.rd R.BIL_COMMIT.FAIL = 1)) ∧
    (∀ n : Fin 4, s.dev.sessCode n = 0 → n.val < s.dev.bil.sess.length → Answers (.sessionOpen n) s (fun t => t.rd (R.BIL_SESSCTL.CODE n) = 0 ∧
      t.rd (R.BIL_SESSCTL.RESULT n) = 2 ∧ t.rd (R.BIL_SESSSTAT.OPEN n) = 1 ∧ (t.sessAt n).isOpen = true ∧ (t.sessAt n).start = s.dev.nextInstant)) ∧
    (∀ n : Fin 4, s.dev.sessCode n ≠ 0 → Answers (.sessionOpen n) s (fun t => t.rd (R.BIL_SESSCTL.CODE n) = s.dev.sessCode n ∧
      t.rd (R.BIL_SESSCTL.RESULT n) = 3 ∧ t.bil = s.dev.bil)) ∧
    (∀ n : Fin 4, (s.dev.sessAt n).isOpen = true → (s.dev.sessAt n).closing = false → n.val < s.dev.bil.sess.length → Answers (.sessionClose n) s (fun t =>
      (t.sessAt n).closing = true ∧ (t.sessAt n).cause = 0 ∧ (t.sessAt n).stop = s.dev.nextInstant ∧ t.rd (R.BIL_SESSSTAT.CLOSING n) = 1 ∧
      t.rd (R.BIL_SESSCTL.CODE n) = 0 ∧ t.rd (R.BIL_SESSCTL.RESULT n) = 2)) ∧
    (∀ n : Fin 4, (s.dev.sessAt n).isOpen = false → Answers (.sessionClose n) s (fun t => t.bil = s.dev.bil ∧ t.rd (R.BIL_SESSCTL.CODE n) = 7 ∧
      t.rd (R.BIL_SESSCTL.RESULT n) = 3)) ∧
    (∀ (n : Fin 4) (x : Sess) (rest : List Sess), s.dev.on R.MET_LRCTL.RUN = true → takeFirst (fun (y : Sess) => y.output == n.val) s.dev.bil.toSign = some (x, rest) →
      Answers (.sessionRecordSigned n) s (fun t => t.bil.toSign = rest ∧ t.bil.recNext = s.dev.bil.recNext + 1 ∧
        t.bil.recs.map (fun r => r.1) = s.dev.bil.recs.map (fun r => r.1) ++ [s.dev.bil.recNext] ∧
        t.rd (R.BIL_SESSREC.RECNUM n) = s.dev.bil.recNext % 2 ^ 32)) ∧
    (∀ n : Fin 4, s.dev.on R.MET_LRCTL.RUN = false → Answers (.sessionRecordSigned n) s (fun t => t = s.dev)) ∧
    (∀ v : Nat, s.dev.rd R.BIL_RECACK.NUM ≤ v → Answers (.bilRecack v) s (fun t => t.rd R.BIL_RECACK.NUM = v % 2 ^ 32 ∧
      (∀ x ∈ t.bil.recs ++ t.bst.recs, v < x.1) ∧ t.bil.logs = s.dev.bil.logs ∧ t.bst.logs = s.dev.bst.logs)) ∧
    (∀ v : Nat, v < s.dev.rd R.BIL_RECACK.NUM → Answers (.bilRecack v) s (fun t => t = s.dev)) ∧
    (∀ v : Nat, s.dev.rd R.BIL_LOGACK.NUM ≤ v → Answers (.bilLogack v) s (fun t => t.rd R.BIL_LOGACK.NUM = v % 2 ^ 32 ∧
      (∀ x ∈ t.bil.logs ++ t.bst.logs, v < x.1) ∧ t.bil.recs = s.dev.bil.recs ∧ t.bst.recs = s.dev.bst.recs)) ∧
    (∀ (xfer n : Nat) (e : List Byte), testBit n 31 = false → (s.dev.bst.recs ++ s.dev.bil.recs).find? (fun x => x.1 == n % 2 ^ 31) = some (n % 2 ^ 31, e) →
      Answers (.recReqBegin xfer n) s (fun t => t = (s.dev.takeCell .field 0x78).sendBulk 7 0x79 xfer e)) ∧
    (∀ xs : List (List Int), s.dev.mode = .dormant → s.dev.on R.BIL_TWCTL.EN = true → s.dev.tw.blocks = [] → Answers (.theftWatchBlock xs) s (fun t =>
      t.tm.f0 = max s.dev.tm.f0 (stepsOfNs (s.dev.f0Ns + 100000000)) ∧ t.tw.blocks.length = 1 ∧ (t.tw.blocks.getD 0 (0, [])).1 = s.dev.f0Ns)) ∧
    (∀ xs : List (List Int), s.dev.mode ≠ .dormant ∨ s.dev.on R.BIL_TWCTL.EN = false → Answers (.theftWatchBlock xs) s (fun t => t = s.dev))

/-- With F4 on: each of LOCK, UNLOCK, START, STOP and CLR is refused with its code, counted, with no other effect on the output,
exactly when the code of Table 15-2 is not 0. Accepted, LOCK leads to LOCKING, UNLOCK from LOCKED state 2 to 1, START to
INSULATION, STOP from states 3 to 5 to RAMPDOWN, CLR from FAULT to 1 or 0 by the connector. A limit that elapses in its state
leads to FAULT with its cause or, for TINS and TPRE, to RAMPDOWN with the fault pending; in any other state it does nothing.
(R299, R300, R301, R302, R308, Table 15-1, Table 15-2, 15_outputs_vehicle_cooling.md) -/
def Obligations.OutputCommandsAndLimits : Prop :=
  ∀ (s : State) (n : Fin 4), s.dev.domOn .f4 = true →
    (∀ p ∈ [(Instr.outLock n, 1), (.outUnlock n, 2), (.outStart n, 3), (.outStop n, 4), (.outClr n, 5)], s.dev.outCode n p.2 ≠ 0 →
      Answers p.1 s (fun t => t.rd (R.OUT_CMD.RESULT n) = 3 ∧ t.rd (R.OUT_CMD.CODE n) = s.dev.outCode n p.2 ∧
        t.rd (R.OUT_CNT.REFUSED n) = min (2 ^ (R.OUT_CNT.REFUSED n).width - 1) (s.dev.rd (R.OUT_CNT.REFUSED n) + 1) ∧ t.out = s.dev.out ∧
        s.dev.RegsBut [R.OUT_CMD.RESULT n, R.OUT_CMD.CODE n, R.OUT_CNT.REFUSED n] t)) ∧
    (∀ p ∈ [(Instr.outLock n, 1), (.outUnlock n, 2), (.outStart n, 3), (.outStop n, 4), (.outClr n, 5)], s.dev.outCode n p.2 = 0 →
      Answers p.1 s (fun t => t.rd (R.OUT_CMD.RESULT n) = 2 ∧ t.rd (R.OUT_CMD.CODE n) = 0)) ∧
    (s.dev.outCode n 1 = 0 → Answers (.outLock n) s (fun t => t.outState n = 2 ∧ t.rd (R.OUT_STAT.PREV n) = 1)) ∧
    (s.dev.outCode n 2 = 0 → Answers (.outUnlock n) s (fun t => t.outState n = (if s.dev.outState n = 2 then 1 else 8))) ∧
    (s.dev.outCode n 3 = 0 → Answers (.outStart n) s (fun t => t.outState n = 3 ∧ t.rd (R.OUT_STAT.PREV n) = 2)) ∧
    (s.dev.outCode n 4 = 0 → Answers (.outStop n) s (fun t => t.outState n = (if s.dev.outState n ≤ 5 then 6 else s.dev.outState n))) ∧
    (s.dev.outCode n 5 = 0 → n.val < s.dev.out.length → Answers (.outClr n) s (fun t =>
      t.outState n = (if s.dev.on (R.OUT_STAT.CONN n) then 1 else 0) ∧ (t.outRt n).trips = 0 ∧ (t.outRt n).pend = 0)) ∧
    (s.dev.outState n = 2 → s.dev.on (R.OUT_STAT.LOCKED n) = false → Answers (.tlockExpiry n) s (fun t => t.outState n = 8 ∧ t.rd (R.OUT_STAT.CAUSE n) = 16 ∧
      testBit (t.rd (R.OUT_FCAUSE.CAUSE n)) 15 = true)) ∧
    (s.dev.outState n ≠ 2 → Answers (.tlockExpiry n) s (fun t => t = s.dev)) ∧
    (s.dev.outState n = 3 → Answers (.tinsExpiry n) s (fun t => t.outState n = 6 ∧ testBit (t.rd (R.OUT_FCAUSE.CAUSE n)) 15 = true ∧
      (n.val < s.dev.out.length → (t.outRt n).pend ≠ 0))) ∧
    (s.dev.outState n ≠ 3 → Answers (.tinsExpiry n) s (fun t => t = s.dev)) ∧
    (s.dev.outState n = 4 → Answers (.tpreExpiry n) s (fun t => t.outState n = 6 ∧ testBit (t.rd (R.OUT_FCAUSE.CAUSE n)) 15 = true ∧
      (n.val < s.dev.out.length → (t.outRt n).pend ≠ 0))) ∧
    (s.dev.outState n ≠ 4 → Answers (.tpreExpiry n) s (fun t => t = s.dev)) ∧
    (s.dev.outState n = 6 → Answers (.trampExpiry n) s (fun t => t.outState n = 8 ∧ t.rd (R.OUT_STAT.CAUSE n) = 8)) ∧
    (s.dev.outState n ≠ 6 → Answers (.trampExpiry n) s (fun t => t = s.dev)) ∧
    (s.dev.outState n = 7 → (s.dev.outRt n).cur = 5 → (s.dev.outRt n).seqDone = true → (s.dev.outRt n).vsafe = false → Answers (.tdisExpiry n) s (fun t =>
      t.outState n = 8 ∧ t.rd (R.OUT_STAT.CAUSE n) = 9)) ∧
    (s.dev.outState n ≠ 7 → Answers (.tdisExpiry n) s (fun t => t = s.dev)) ∧
    ((s.dev.outRt n).want ≠ 0 → (s.dev.outRt n).retry = true → s.dev.pw.fmpRestart = false → n.val < s.dev.out.length →
      s.dev.ctrRefusal (s.dev.outSeqNum n (s.dev.outRt n).want % 64) = 0 → Answers (.outSequenceRetry n) s (fun t => (t.outRt n).want = 0 ∧
        t.rd (R.OUT_STAT.SEQWAIT n) = 0 ∧ ∃ e : Nat, e < 8 ∧ (t.outRt n).engine = some e ∧ t.rd (R.CTR_ENG.STATE e) = 1)) ∧
    ((s.dev.outRt n).want = 0 → Answers (.outSequenceRetry n) s (fun t => t = s.dev)) ∧
    (∀ b : Bool, Answers (.connectorChange n b) s (fun t => t.rd (R.OUT_STAT.CONN n) = b2n b ∧ s.dev.RegsBut [R.OUT_STAT.CONN n] t ∧
      s.dev.OnlyIn Part.regs t)) ∧
    (∀ b : Bool, Answers (.enableLoopChange n b) s (fun t => t.rd (R.OUT_STAT.ELOOP n) = b2n b ∧ s.dev.RegsBut [R.OUT_STAT.ELOOP n] t ∧
      s.dev.OnlyIn Part.regs t))

/-- With F2 on, a flow window shows count * 6000 / K, kept in 16 bits; a stall is set only at a duty of at least 200; a tach edge
clears it and shows the speed of the time since the edge before. With H3 on, a frame with collisions counts them and a bad one
counts RXERR; a PLCA change shows and reports; the third equal pilot period in a row takes the state of Table 15-4; a
proximity reading above 10000 ohm reads 0xFFFF. (R309, R311, R313, R314, R315, Table 15-4, 15_outputs_vehicle_cooling.md) -/
def Obligations.CoolingAndVehiclePorts : Prop :=
  ∀ (s : State) (n : Fin 4),
    (s.dev.domOn .f2 = true →
      (∀ c : Nat, s.dev.rd (R.CBL_FLOWK.K n) ≠ 0 → Answers (.flowWindow n c) s (fun t =>
        t.rd (R.CBL_FLOW.FLOW n) = min (c * 6000 / s.dev.rd (R.CBL_FLOWK.K n)) 65535 ∧ s.dev.RegsBut [R.CBL_FLOW.FLOW n, R.CBL_CTL.NOFLOW n] t)) ∧
      (∀ c : Nat, s.dev.rd (R.CBL_FLOWK.K n) = 0 → s.dev.pumpStopped n = false → Answers (.flowWindow n c) s (fun t =>
        t.rd (R.CBL_FLOW.FLOW n) = 0 ∧ t.on (R.CBL_CTL.NOFLOW n) = false)) ∧
      (200 ≤ s.dev.rd (R.CBL_FAN.DUTY n) → s.dev.on (R.CBL_TACH.STALL n) = false → Answers (.fanStall n) s (fun t => t.rd (R.CBL_TACH.STALL n) = 1 ∧
        s.dev.RegsBut [R.CBL_TACH.STALL n] t)) ∧
      (s.dev.rd (R.CBL_FAN.DUTY n) < 200 → Answers (.fanStall n) s (fun t => t = s.dev)) ∧
      (∀ a : Nat, (s.dev.cable n).tachAt = some a → a + 1000 ≤ s.dev.stcNs → n.val < s.dev.cbl.length → Answers (.tachEdge n) s (fun t =>
        t.rd (R.CBL_TACH.RPM n) = min 65535 (60000000 / ((s.dev.stcNs - a) / 1000 * max 1 (s.dev.rd (R.CBL_FAN.PPR n)))) ∧
        t.rd (R.CBL_TACH.STALL n) = 0 ∧ (t.cable n).tachAt = some s.dev.stcNs)) ∧
      ((s.dev.cable n).tachAt = none → n.val < s.dev.cbl.length → Answers (.tachEdge n) s (fun t => t.rd (R.CBL_TACH.STALL n) = 0 ∧
        t.rd (R.CBL_TACH.RPM n) = s.dev.rd (R.CBL_TACH.RPM n) ∧ (t.cable n).tachAt = some s.dev.stcNs))) ∧
    (s.dev.domOn .h3 = true →
      (∀ (f : List Byte) (k : Nat), s.dev.rd (R.VEH_T1SSTAT.STATUS n) ≠ 0 → Answers (.t1sFrame n f false k) s (fun t =>
        t.rd (R.VEH_T1SCNT.RXERR n) = min (2 ^ (R.VEH_T1SCNT.RXERR n).width - 1) (s.dev.rd (R.VEH_T1SCNT.RXERR n) + 1) ∧
        t.rd (R.VEH_T1SCNT.COLL n) = min (2 ^ (R.VEH_T1SCNT.COLL n).width - 1) (s.dev.rd (R.VEH_T1SCNT.COLL n) + k) ∧
        s.dev.RegsBut [R.VEH_T1SCNT.RXERR n, R.VEH_T1SCNT.COLL n] t)) ∧
      (∀ (f : List Byte) (k : Nat), s.dev.rd (R.VEH_T1SSTAT.STATUS n) ≠ 0 → Answers (.t1sFrame n f true k) s (fun t =>
        t = (s.dev.bumpBy (R.VEH_T1SCNT.COLL n) k).ringFrame (8 + 2 * n) f n)) ∧
      (∀ (f : List Byte) (ok : Bool) (k : Nat), s.dev.rd (R.VEH_T1SSTAT.STATUS n) = 0 → Answers (.t1sFrame n f ok k) s (fun t => t = s.dev)) ∧
      (∀ ok j : Bool, Answers (.plcaStatusChange n ok j) s (fun t => t.rd (R.VEH_T1SSTAT.PLCA n) = b2n ok ∧ t.rd (R.VEH_T1SSTAT.JABBER n) = b2n j ∧
        (s.dev.on (R.VEH_T1SSTAT.PLCA n) ≠ ok → t.Pends 102))) ∧
      (∀ (hi lo : Option Int) (m : Nat), s.dev.on (R.VEH_CPCFG.EN n) = true → s.dev.injected 35 n = none → Answers (.controlPilotPeriod n hi lo m) s (fun t =>
        t.rd (R.VEH_CPMEAS.HIGH n) = plateau hi ∧ t.rd (R.VEH_CPMEAS.LOW n) = plateau lo ∧ t.rd (R.VEH_CPSTAT.DUTYM n) = min m 1000 ∧
        (n.val < s.dev.veh.length → (s.dev.vehRt n).cand = pilotState hi → 2 ≤ (s.dev.vehRt n).candRun → t.rd (R.VEH_CPSTAT.STATE n) = pilotState hi) ∧
        ((s.dev.vehRt n).cand ≠ pilotState hi → t.rd (R.VEH_CPSTAT.STATE n) = s.dev.rd (R.VEH_CPSTAT.STATE n)))) ∧
      (∀ (hi lo : Option Int) (m : Nat), s.dev.on (R.VEH_CPCFG.EN n) = false → Answers (.controlPilotPeriod n hi lo m) s (fun t => t.regs = s.dev.regs ∧
        s.dev.OnlyIn Part.veh t)) ∧
      (∀ r : Nat, Answers (.proximityReading n r) s (fun t => t.rd (R.VEH_PP.RES n) = (if 10000 < r then 0xFFFF else r))))

/-- With F2 on, ARM takes the capture from OFF or FROZEN to ARMED with no frame written and no cause, and does nothing in other
states; a trigger by hand is taken once while ARMED with cause 6; STOP goes to OFF. CAP_REQ with length 0 begins the live
stream, another sends the frozen ring or, while not FROZEN, the empty marker; END and ABORT end the stream of their transfer,
ABORT also discards what waits of it. (R405, R406, R407, 21_diagnostics.md, 10_measurement_protection.md) -/
def Obligations.WaveformCapture : Prop :=
  ∀ s : State,
    (s.dev.domOn .f2 = true →
      (s.dev.capState = 0 ∨ s.dev.capState = 3 → Answers .captureArm s (fun t => t.capState = 1 ∧ t.rd R.TLM_CAPSTAT.CAUSE = 0 ∧ t.rd R.TLM_CAPWR.FRAMES = 0 ∧
        t.cap.trig = none ∧ t.fmem = s.dev.fmem ∧ s.dev.RegsBut [R.TLM_CAPSTAT.STATE, R.TLM_CAPSTAT.CAUSE, R.TLM_CAPWR.FRAMES] t)) ∧
      (s.dev.capState ≠ 0 → s.dev.capState ≠ 3 → Answers .captureArm s (fun t => t = s.dev)) ∧
      (s.dev.capState = 1 → s.dev.cap.trig = none → Answers .captureTrigger s (fun t => t.cap.trig = some 6 ∧ t.regs = s.dev.regs ∧ t.fmem = s.dev.fmem)) ∧
      (s.dev.capState ≠ 1 → Answers .captureTrigger s (fun t => t = s.dev)) ∧
      Answers .captureStop s (fun t => t.capState = 0 ∧ t.cap.trig = none ∧ t.fmem = s.dev.fmem ∧ s.dev.RegsBut [R.TLM_CAPSTAT.STATE] t)) ∧
    (∀ x : Nat, Answers (.capReqBegin x 0) s (fun t => t.cap.live = some x ∧ t.cap.liveFrame = s.dev.rd R.TLM_CAPWR.FRAMES ∧ t.cap.liveBytes = 0 ∧
      t.regs = s.dev.regs)) ∧
    (∀ x len : Nat, len ≠ 0 → s.dev.capState = 3 → Answers (.capReqBegin x len) s (fun t =>
      t = (s.dev.takeCell .field 0x68).sendBulkAt 4 0x69 x 0 (s.dev.capFrozen.take len))) ∧
    (∀ x len : Nat, len ≠ 0 → s.dev.capState ≠ 3 → Answers (.capReqBegin x len) s (fun t =>
      t = (s.dev.takeCell .field 0x68).sendBulkAt 4 0x69 x 0xFFFFFFFF [0x01])) ∧
    (∀ x : Nat, s.dev.cap.live = some x → Answers (.capReqEnd x) s (fun t => t.cap.live = none ∧ t.regs = s.dev.regs ∧ s.dev.OnlyIn (Part.cap ||| Part.fl) t)) ∧
    (∀ x : Nat, s.dev.cap.live ≠ some x → Answers (.capReqEnd x) s (fun t => t = s.dev.takeCell .field 0x68)) ∧
    (∀ x : Nat, Answers (.capReqAbort x) s (fun t => t.cap.live = none ∧ t.regs = s.dev.regs ∧ 
      t.fl.f2h.queue.getD 4 [] = (s.dev.fl.f2h.queue.getD 4 []).filter (fun m => !(decide (leAt m.payload 0 2 = x)))))

/-- With F4 on: WAKE written in FAULT is remembered, and after 600 ms, with STK enabled, wakes the chain; REWAKE leaves FAULT
where AUTOW or a WAKE asks for it. The wake tone's end leads from WAKING to ENUM. An enumeration that found all satellites,
all configured and with their delay, leads to RUN; one that found fewer begins another wake, and the third leads to FAULT. A
missed response to a command other than ENUM counts in its satellite and in MISS; after ENUM it ends that end's enumeration. A
due SLEEP is sent once. (R322, R324, R325, R326, Table 16-3, 16_stack_port.md) -/
def Obligations.ChainStatesMove : Prop :=
  ∀ s : State, s.dev.domOn .f4 = true →
    (s.dev.chainState = 4 → s.dev.stcNs < s.dev.stk.faultAt + 600000000 → Answers .stkCtlWake s (fun t =>
      t = { s.dev with stk := { s.dev.stk with wakeReq := true } })) ∧
    (s.dev.chainState = 4 → s.dev.stk.faultAt + 600000000 ≤ s.dev.stcNs → s.dev.rd R.STK_CTL.STATUS = 1 → Answers .stkCtlWake s (fun t =>
      t.chainState = 1 ∧ t.stk.wakes = 1 ∧ t.stk.nsat = min 32 (s.dev.rd R.STK_CHCFG.NSAT) ∧ t.rd R.STK_CHSTAT.CFGPEND = 0)) ∧
    (s.dev.chainState ≠ 4 → Answers .stkCtlWake s (fun t => t = s.dev)) ∧
    (s.dev.chainState = 4 → s.dev.stk.autow = true ∨ s.dev.stk.wakeReq = true → s.dev.rd R.STK_CTL.STATUS = 1 → Answers .chainRewake s (fun t =>
      t.chainState = 1 ∧ t.stk.wakes = 1 ∧ s.dev.tm.q ≤ t.tm.q)) ∧
    (s.dev.chainState = 4 → s.dev.stk.autow = false → s.dev.stk.wakeReq = false → Answers .chainRewake s (fun t => t = s.dev)) ∧
    (s.dev.chainState = 1 → Answers .wakeComplete s (fun t => t.chainState = 2 ∧ t.stk = s.dev.stk ∧ s.dev.RegsBut [R.STK_CHSTAT.STATE] t)) ∧
    (s.dev.chainState ≠ 1 → Answers .wakeComplete s (fun t => t = s.dev)) ∧
    (s.dev.chainState = 2 → s.dev.stk.nsat ≤ s.dev.nFound →
      ((List.range s.dev.stk.nsat).all (fun x => (s.dev.satRt x).cfgd && decide (s.dev.rd (satArr (s.dev.endOf x) x) ≠ 0xFFFF))) = true →
      Answers .enumComplete s (fun t => t.chainState = 3 ∧ t.rd R.STK_CHSTAT.NFOUND = s.dev.nFound % 2 ^ R.STK_CHSTAT.NFOUND.width)) ∧
    (s.dev.chainState = 2 → s.dev.nFound < s.dev.stk.nsat → s.dev.stk.wakes < 3 → Answers .enumComplete s (fun t => t.chainState = 2 ∧
      t.stk.wakes = s.dev.stk.wakes + 1 ∧ t.nFound = 0 ∧ ∀ i : Fin 32, t.rd (R.STK_SATSTAT.FOUND i) = 0)) ∧
    (s.dev.chainState = 2 → s.dev.nFound < s.dev.stk.nsat → 3 ≤ s.dev.stk.wakes → Answers .enumComplete s (fun t => t.chainState = 4 ∧
      t.stk.faultAt = s.dev.stcNs)) ∧
    (s.dev.chainState ≠ 2 → Answers .enumComplete s (fun t => t = s.dev)) ∧
    (∀ b : Bool, s.dev.stk.out.getD (b2n b) none = none → Answers (.chainResponseMissed b) s (fun t => t = s.dev)) ∧
    (∀ (b : Bool) (c : ChainCmd), s.dev.stk.out.getD (b2n b) none = some c → c.code = 1 → s.dev.stk.closing = false → s.dev.stk.out.length = 2 →
      s.dev.stk.enumDone.length = 2 → Answers (.chainResponseMissed b) s (fun t => t.stk.enumDone.getD (b2n b) false = true ∧
        t.stk.out.getD (b2n b) none = none ∧ t.regs = s.dev.regs)) ∧
    (∀ (b : Bool) (c : ChainCmd), s.dev.stk.out.getD (b2n b) none = some c → c.code ≠ 1 → s.dev.chainState = 2 → s.dev.stk.closing = false →
      s.dev.stk.out.length = 2 → c.sat < s.dev.stk.sats.length → Answers (.chainResponseMissed b) s (fun t =>
        t.rd (R.STK_SATSTAT.MISSRUN c.sat) = min 3 (s.dev.rd (R.STK_SATSTAT.MISSRUN c.sat) + 1) ∧
        t.rd R.STK_CNT.MISS = min 255 (s.dev.rd R.STK_CNT.MISS + 1) ∧ (t.satRt c.sat).missed = true ∧ t.stk.out.getD (b2n b) none = none ∧
        s.dev.RegsBut [R.STK_SATSTAT.MISSRUN c.sat, R.STK_CNT.MISS] t)) ∧
    (s.dev.stk.sleepDue = true → Answers .chainSleep s (fun t => t.stk.sleepDue = false ∧ t.regs = s.dev.regs ∧
      (s.dev.stk.lastFrame.length = 2 → t.stk.lastFrame.getD 0 [] = chainFrame 0x3F 0 (s.dev.stk.split - 1) 8 0 [] s.dev.stk.crcEn))) ∧
    (s.dev.stk.sleepDue = false → Answers .chainSleep s (fun t => t = s.dev))

/-- With F4 on and the end free, NOP, ECHO and CFG to a found satellite, READ and BAL to the next one, and ENUM from an end become
the end's command in flight with their codes 0, 2, 3, 5, 6 and 1, the counter raised by one for a new command. SNAP in RUN
opens the snapshot with all satellites to be read. A good ENUM response finds its satellite; a good CFG response configures
it. START and a sweep period begin line 0; OWT of the last line ends the sweep. GO runs a buffer that nothing limits, STOP
limits it, and TQ ends QUENCHING. (R321, R322, R323, R324, R325, R328, R329, R333, R334, R336, Table 16-5, 16_stack_port.md) -/
def Obligations.ChainCommandsAndBuffer : Prop :=
  ∀ s : State, s.dev.domOn .f4 = true →
    (∀ a : Fin 32, s.dev.chainState = 2 ∨ s.dev.chainState = 3 → s.dev.endFree (s.dev.endOf a) = true → s.dev.on (R.STK_SATSTAT.FOUND a) = true → (s.dev.satRt a).missed = false →
      Answers (.chainNop a) s (fun t => (s.dev.endOf a) < s.dev.stk.out.length → ∃ c : ChainCmd, t.stk.out.getD (s.dev.endOf a) none = some c ∧ c.sat = a.val ∧
        c.code = 0 ∧ c.payload = [] ∧ ((s.dev.satRt a).ccOn = true → c.cc = ((s.dev.satRt a).cc + 1) % 16))) ∧
    (∀ a : Fin 32, s.dev.chainState = 2 ∨ s.dev.chainState = 3 → s.dev.endFree (s.dev.endOf a) = true → s.dev.on (R.STK_SATSTAT.FOUND a) = true → (s.dev.satRt a).missed = false →
      Answers (.chainCfg a) s (fun t => (s.dev.endOf a) < s.dev.stk.out.length → ∃ c : ChainCmd, t.stk.out.getD (s.dev.endOf a) none = some c ∧ c.sat = a.val ∧
        c.code = 3 ∧ c.payload.length = 5)) ∧
    (∀ (b : Bool) (a : Fin 32), s.dev.chainState = 2 → s.dev.endFree (b2n b) = true → s.dev.on (R.STK_SATSTAT.FOUND a) = true →
      Answers (.chainEcho b a) s (fun t => b2n b < s.dev.stk.out.length → ∃ c : ChainCmd, t.stk.out.getD (b2n b) none = some c ∧ c.sat = a.val ∧ c.code = 2)) ∧
    (s.dev.chainState = 2 → s.dev.endFree 0 = true → s.dev.stk.enumDone.getD 0 true = false → s.dev.nFound < s.dev.stk.nsat →
      Answers (.chainEnum false) s (fun t => 0 < s.dev.stk.out.length → t.stk.out.getD 0 none =
        some { sat := numAt s.dev.stk.found 0, code := 1, cc := 0, payload := leBytes 1 (numAt s.dev.stk.found 0) })) ∧
    (s.dev.chainState = 2 → s.dev.endFree 1 = true → s.dev.stk.enumDone.getD 1 true = false → s.dev.stk.enumDone.getD 0 false = true →
      s.dev.nFound < s.dev.stk.nsat → Answers (.chainEnum true) s (fun t => 1 < s.dev.stk.out.length → t.stk.out.getD 1 none =
        some { sat := s.dev.stk.nsat - 1 - numAt s.dev.stk.found 1, code := 1, cc := 0, payload := leBytes 1 (s.dev.stk.nsat - 1 - numAt s.dev.stk.found 1) })) ∧
    (s.dev.chainState = 3 → s.dev.stk.closing = false → s.dev.rd R.STK_CTL.STATUS = 1 → Answers .chainSnap s (fun t => t.stk.snapOn = true ∧
      t.stk.got = [] ∧ t.stk.out = [none, none] ∧ t.stk.todo = [s.dev.served 0, (s.dev.served 1).reverse] ∧ t.rd R.STK_SNAPSTAT.PEREFF = s.dev.perEff % 512)) ∧
    (∀ (b : Bool) (a : Nat) (rest : List Nat), s.dev.stk.todo.getD (b2n b) [] = a :: rest → s.dev.chainState = 3 → s.dev.endFree (b2n b) = true →
      s.dev.stk.snapOn = true → (s.dev.satRt a).cfgDue = false → Answers (.chainRead b) s (fun t => t.stk.todo.getD (b2n b) [] = rest ∧
        (b2n b < s.dev.stk.out.length → ∃ c : ChainCmd, t.stk.out.getD (b2n b) none = some c ∧ c.sat = a ∧ c.code = 5 ∧ c.payload = leBytes 1 s.dev.stk.snapId))) ∧
    (∀ (b : Bool) (a : Nat), (s.dev.served (b2n b)).find? (fun x => decide ((s.dev.satRt x).held ≠ s.dev.balWant x)) = some a → s.dev.chainState = 3 →
      s.dev.endFree (b2n b) = true → Answers (.chainBal b) s (fun t => b2n b < s.dev.stk.out.length → ∃ c : ChainCmd,
        t.stk.out.getD (b2n b) none = some c ∧ c.sat = a ∧ c.code = 6 ∧ c.payload.length = 18)) ∧
    (∀ (b : Bool) (f : List Byte) (rtt : Nat) (c : ChainCmd), s.dev.stk.out.getD (b2n b) none = some c → s.dev.stk.closing = false →
      s.dev.stk.out.length = 2 → s.dev.respFault (b2n b) c f = 0 → Answers (.chainResponse b f rtt) s (fun t => t.rd (R.STK_SATSTAT.MISSRUN c.sat) = 0 ∧
        (c.code = 1 → s.dev.stk.found.length = 2 → t.rd (R.STK_SATSTAT.FOUND c.sat) = 1 ∧ numAt t.stk.found (b2n b) = numAt s.dev.stk.found (b2n b) + 1) ∧
        (c.code = 3 → c.sat < s.dev.stk.sats.length → (t.satRt c.sat).cfgd = true ∧ (t.satRt c.sat).cfgDue = false))) ∧
    (∀ (b : Bool) (f : List Byte) (rtt : Nat), s.dev.stk.out.getD (b2n b) none = none → Answers (.chainResponse b f rtt) s (fun t => t = s.dev)) ∧
    (∀ per thr : Nat, s.dev.chainState = 3 → s.dev.stk.owLine = none → Answers (.stkOwcfgStart per thr) s (fun t => t.stk.owLine = some 0 ∧ t.stk.owPhase = 0 ∧
      t.rd R.STK_OWSTAT.RUNNING = 1 ∧ t.rd R.STK_OWSTAT.LINE = 0 ∧ t.rd R.STK_OWCFG.OWPER = per % 2 ^ 12 ∧ t.rd R.STK_OWCFG.OWTHR = thr % 2 ^ 16)) ∧
    (s.dev.rd R.STK_OWCFG.OWPER ≠ 0 → s.dev.chainState = 3 → s.dev.stk.owLine = none → Answers .openWirePeriod s (fun t => t.stk.owLine = some 0 ∧
      t.rd R.STK_OWSTAT.RUNNING = 1 ∧ t.rd R.STK_OWSTAT.LINE = 0)) ∧
    (s.dev.rd R.STK_OWCFG.OWPER = 0 → Answers .openWirePeriod s (fun t => t = s.dev)) ∧
    (∀ k : Nat, s.dev.stk.owLine = some k → s.dev.chainState = 3 → s.dev.stk.closing = false → s.dev.stk.owPhase = 0 → Answers .chainOwt s (fun t =>
      t.stk.owPhase = 1 ∧ t.stk.owAt = s.dev.stcNs ∧ t.stk.owBase = s.dev.stk.compV ∧ t.regs = s.dev.regs)) ∧
    (s.dev.stk.owLine = some 18 → s.dev.chainState = 3 → s.dev.stk.closing = false → s.dev.stk.owPhase = 2 → s.dev.stk.owPend = [] → Answers .chainOwt s (fun t =>
      t.stk.owLine = none ∧ t.rd R.STK_OWSTAT.RUNNING = 0 ∧ t.rd R.STK_OWSTAT.LINE = 0x1F ∧
      t.rd R.STK_OWSTAT.SWEEPS = min 255 (s.dev.rd R.STK_OWSTAT.SWEEPS + 1))) ∧
    (s.dev.stk.owLine = none → Answers .chainOwt s (fun t => t = s.dev)) ∧
    (s.dev.rd R.STK_BUFSTAT.STATE = 0 → s.dev.chainState = 3 → s.dev.stk.lastComplete = true → s.dev.cellLimit = false → s.dev.sumMismatch = false →
      (∀ i : Nat, i < 32 → s.dev.rd (R.STK_SATOW.LINE i) = 0) → s.dev.stk.causeId ≠ some s.dev.stk.snapId → Answers .bufferGo s (fun t =>
        t.rd R.STK_BUFSTAT.STATE = 1 ∧ t.rd R.STK_BUFSTAT.CAUSEMASK = 0 ∧ s.dev.RegsBut [R.STK_BUFSTAT.STATE, R.STK_BUFSTAT.CAUSEMASK] t)) ∧
    (s.dev.rd R.STK_BUFSTAT.STATE = 0 → s.dev.chainState ≠ 3 → Answers .bufferGo s (fun t => t.regs = s.dev.regs ∧ t.stk = s.dev.stk)) ∧
    (s.dev.rd R.STK_BUFSTAT.STATE ≠ 0 → Answers .bufferGo s (fun t => t = s.dev)) ∧
    (s.dev.rd R.STK_BUFSTAT.STATE = 1 → s.dev.stk.goAt ≠ some s.dev.ce.k → Answers .bufferStop s (fun t => t.rd R.STK_BUFSTAT.STATE = 2 ∧
      t.rd R.STK_BUFSTAT.CAUSE = 5 ∧ testBit (t.rd R.STK_BUFSTAT.CAUSEMASK) 4 = true)) ∧
    (s.dev.rd R.STK_BUFSTAT.STATE ≠ 1 → Answers .bufferStop s (fun t => t = s.dev)) ∧
    (s.dev.rd R.STK_BUFSTAT.STATE = 2 → Answers .bufferTqExpiry s (fun t => t.rd R.STK_BUFSTAT.STATE = 0)) ∧
    (s.dev.rd R.STK_BUFSTAT.STATE ≠ 2 → Answers .bufferTqExpiry s (fun t => t = s.dev))

/-- While its domain is on, for a buffer that no ring feeds: REQ of an enabled controller outside LISTEN makes an idle buffer
WAITING with its counts 0; one in progress or waiting is left. ABORT ends a WAITING buffer as ABORTED at once and one on the
bus when its attempt ends. A start of frame puts the chosen buffer on the bus with its time stamp; the end of a good frame
makes it DONE; lost arbitration and an error return it to WAITING with their count until the retry limit, which ends it.
RECOVER starts bus-off recovery, and its end clears both counters. (R352, R353, R354, R355, Table 18-3, 18_can.md) -/
def Obligations.CanTransmission : Prop :=
  ∀ (s : State) (c : Fin 4), s.dev.domOn (canDom c) = true →
    (∀ b : Fin 3, s.dev.canRingFed c b = false → s.dev.on (canAt c R.FCAN_CTL.LISTEN) = false → s.dev.canStatus c = 1 → s.dev.rd (canStat c b) ≠ 1 →
      s.dev.rd (canStat c b) ≠ 2 → Answers (.canTxReq c b) s (fun t => t.rd (canStat c b) = 1 ∧ t.rd (canAt c (fun i => R.FCAN_TXCMD.ARBN i b)) = 0 ∧
        t.rd (canAt c (fun i => R.FCAN_TXCMD.ERRN i b)) = 0 ∧ t.rd (canAt c (fun i => R.FCAN_TXCMD.WRIGN i b)) = 0 ∧ t.can = s.dev.can ∧
        s.dev.OnlyIn Part.regs t)) ∧
    (∀ b : Fin 3, s.dev.canRingFed c b = true → Answers (.canTxReq c b) s (fun t => t = s.dev.wr (canAt c (fun i => R.FCAN_TXCMD.WRIGN i b)) 1)) ∧
    (∀ b : Fin 3, s.dev.canRingFed c b = false → s.dev.rd (canStat c b) = 1 ∨ s.dev.rd (canStat c b) = 2 → Answers (.canTxReq c b) s (fun t =>
      t = s.dev.wr (canAt c (fun i => R.FCAN_TXCMD.WRIGN i b)) 0)) ∧
    (∀ b : Fin 3, s.dev.rd (canStat c b) = 2 → Answers (.canTxAbort c b) s (fun t => t = s.dev.setCan c { s.dev.canRt c with abort := true })) ∧
    (∀ b : Fin 3, s.dev.rd (canStat c b) = 1 → s.dev.canRingFed c b = false → Answers (.canTxAbort c b) s (fun t => t.rd (canStat c b) = 4)) ∧
    (∀ b : Fin 3, s.dev.rd (canStat c b) ≠ 1 → s.dev.rd (canStat c b) ≠ 2 → Answers (.canTxAbort c b) s (fun t => t = s.dev)) ∧
    (∀ b : Nat, s.dev.canOnBus c = true → s.dev.on (canAt c R.FCAN_CTL.LISTEN) = false → (s.dev.canRt c).sending = none → s.dev.canChoose c = some b →
      c.val < s.dev.can.length → Answers (.canStartOfFrame c) s (fun t => t.rd (canStat c b) = 2 ∧ (t.canRt c).sending = some b ∧
        t.rd (canAt c (fun i => R.FCAN_TXTS.NS i b)) = s.dev.canNow c % 2 ^ 32 ∧
        s.dev.RegsBut [canStat c b, canAt c (fun i => R.FCAN_TXTS.NS i b)] t)) ∧
    (s.dev.canChoose c = none → Answers (.canStartOfFrame c) s (fun t => t = s.dev)) ∧
    (∀ b : Nat, (s.dev.canRt c).sending = some b → b < 3 → s.dev.canRingFed c b = false → Answers (.canTransmitComplete c) s (fun t =>
      t.rd (canStat c b) = 3 ∧ (t.canRt c).sending = none)) ∧
    ((s.dev.canRt c).sending = none → Answers (.canTransmitComplete c) s (fun t => t = s.dev)) ∧
    (∀ b : Nat, (s.dev.canRt c).sending = some b → b < 3 → (s.dev.canRt c).abort = false → s.dev.canStatus c ≠ 2 →
      s.dev.rd (canAt c (fun i => R.FCAN_TXCMD.ARBN i b)) < s.dev.rd (canAt c R.FCAN_RETRY.ALRETRY) → s.dev.rd (canAt c R.FCAN_RETRY.ALRETRY) < 16 →
      Answers (.canArbitrationLost c) s (fun t => t.rd (canStat c b) = 1 ∧ (t.canRt c).sending = none ∧
        t.rd (canAt c (fun i => R.FCAN_TXCMD.ARBN i b)) = s.dev.rd (canAt c (fun i => R.FCAN_TXCMD.ARBN i b)) + 1 ∧
        t.rd (canAt c R.FCAN_CNT.ARBLOST) = min 255 (s.dev.rd (canAt c R.FCAN_CNT.ARBLOST) + 1))) ∧
    (∀ b : Nat, (s.dev.canRt c).sending = some b → b < 3 → (s.dev.canRt c).abort = false → s.dev.canStatus c ≠ 2 → s.dev.canRingFed c b = false →
      s.dev.rd (canAt c R.FCAN_RETRY.ALRETRY) ≤ s.dev.rd (canAt c (fun i => R.FCAN_TXCMD.ARBN i b)) →
      Answers (.canArbitrationLost c) s (fun t => t.rd (canStat c b) = 5)) ∧
    ((s.dev.canRt c).sending = none → Answers (.canArbitrationLost c) s (fun t => t = s.dev)) ∧
    (∀ (b : Nat) (lec : Fin 7) (k : Fin 9), (s.dev.canRt c).sending = some b → b < 3 → s.dev.on (canAt c R.FCAN_CTL.LISTEN) = false →
      s.dev.rd (canStat c b) = 2 → (s.dev.canRt c).abort = false → s.dev.canStatus c ≠ 2 → (s.dev.canRt c).tec + k ≤ 255 →
      s.dev.rd (canAt c (fun i => R.FCAN_TXCMD.ERRN i b)) < s.dev.rd (canAt c R.FCAN_RETRY.ERRETRY) → s.dev.rd (canAt c R.FCAN_RETRY.ERRETRY) < 16 →
      Answers (.canFrameError c lec k) s (fun t => t.rd (canStat c b) = 1 ∧ (t.canRt c).tec = (s.dev.canRt c).tec + k ∧
        t.rd (canAt c R.FCAN_ERR.TEC) = (s.dev.canRt c).tec + k ∧ t.rd (canAt c R.FCAN_ERR.LEC) = lec ∧
        t.rd (canAt c (fun i => R.FCAN_TXCMD.ERRN i b)) = s.dev.rd (canAt c (fun i => R.FCAN_TXCMD.ERRN i b)) + 1)) ∧
    (∀ (lec : Fin 7) (k : Fin 9), (s.dev.canRt c).sending = none → s.dev.on (canAt c R.FCAN_CTL.LISTEN) = false → c.val < s.dev.can.length →
      (s.dev.canRt c).rec' + k ≤ 255 → Answers (.canFrameError c lec k) s (fun t => (t.canRt c).rec' = (s.dev.canRt c).rec' + k ∧
        t.rd (canAt c R.FCAN_ERR.REC) = (s.dev.canRt c).rec' + k ∧ t.rd (canAt c R.FCAN_ERR.LEC) = lec)) ∧
    (s.dev.rd (canAt c R.FCAN_ERR.STATE) = 2 → s.dev.on (canAt c R.FCAN_CTL.ABO) = false → Answers (.canRecover c) s (fun t =>
      t = s.dev.setCan c { s.dev.canRt c with recovering := true })) ∧
    (s.dev.rd (canAt c R.FCAN_ERR.STATE) ≠ 2 → Answers (.canRecover c) s (fun t => t = s.dev)) ∧
    (s.dev.rd (canAt c R.FCAN_ERR.STATE) = 2 → (s.dev.canRt c).recovering = true → Answers (.canBusoffRecoveryComplete c) s (fun t =>
      t.rd (canAt c R.FCAN_ERR.STATE) = 0 ∧ t.rd (canAt c R.FCAN_ERR.TEC) = 0 ∧ t.rd (canAt c R.FCAN_ERR.REC) = 0 ∧ (t.canRt c).tec = 0)) ∧
    (s.dev.rd (canAt c R.FCAN_ERR.STATE) ≠ 2 → Answers (.canBusoffRecoveryComplete c) s (fun t => t = s.dev))

/-- While its domain is on, a frame on the bus that no mailbox filter matches counts FILTERED where RINGALL is clear; one that
matches an unlocked empty mailbox is stored there word by word and makes it NEW. A read of word 0 locks the mailbox, the read
of the last word releases it, with its shadow frame moving in. RXPOP takes the oldest ring entry of FCAN. A filter write
empties the mailbox and its shadow. (R351, R356, R357, R358, R359, 18_can.md) -/
def Obligations.CanReception : Prop :=
  ∀ (s : State) (c : Fin 4), s.dev.domOn (canDom c) = true →
    (∀ ws : List Nat, s.dev.canOnBus c = true → (∀ m : Nat, m < 16 → s.dev.mbMatches c m (numAt (canNormal ws) 0) (numAt (canNormal ws) 1) = false) →
      s.dev.on (canAt c R.FCAN_CTL.RINGALL) = false → Answers (.canFrameReceived c ws) s (fun t =>
        t.rd (canAt c R.FCAN_CNT.FILTERED) = min 255 (s.dev.rd (canAt c R.FCAN_CNT.FILTERED) + 1) ∧
        ∀ m k : Nat, t.rd (canAt c (fun i => R.FCAN_MB.WORD i m k)) = s.dev.rd (canAt c (fun i => R.FCAN_MB.WORD i m k)))) ∧
    (∀ (ws : List Nat) (m : Nat), s.dev.canOnBus c = true →
      (List.range 16).find? (fun m => s.dev.mbMatches c m (numAt (canNormal ws) 0) (numAt (canNormal ws) 1)) = some m →
      s.dev.on (mbLock c m) = false → s.dev.on (mbNew c m) = false → Answers (.canFrameReceived c ws) s (fun t => t.rd (mbNew c m) = 1 ∧
        t.on (mbLock c m) = false ∧ ∀ k : Nat, k < 18 → t.rd (canAt c (fun i => R.FCAN_MB.WORD i m k)) = numAt (canNormal ws) k % 2 ^ 32)) ∧
    (∀ ws : List Nat, s.dev.canOnBus c = false → Answers (.canFrameReceived c ws) s (fun t => t = s.dev)) ∧
    (∀ m : Fin 16, Answers (.canMailboxLock c m) s (fun t => t.rd (mbLock c m) = 1 ∧ t.lastRead = s.dev.rd (canAt c (fun i => R.FCAN_MB.WORD i m 0)) ∧
      t.can = s.dev.can ∧ s.dev.RegsBut [mbLock c m, canAt c (fun i => R.FCAN_MBTS.NS i m)] t)) ∧
    (∀ m : Fin 16, s.dev.on (mbLock c m) = true → ((s.dev.canRt c).mbs.getD m {}).shadow = none → Answers (.canMailboxRelease c m) s (fun t =>
      t.rd (mbLock c m) = 0 ∧ t.rd (mbNew c m) = 0 ∧ t.lastRead = s.dev.rd (canAt c (fun i => R.FCAN_MB.WORD i m (s.dev.mbLast c m))) ∧
      s.dev.RegsBut [mbLock c m, mbNew c m] t)) ∧
    (∀ (m : Fin 16) (e : CanEntry), s.dev.on (mbLock c m) = true → ((s.dev.canRt c).mbs.getD m {}).shadow = some e → Answers (.canMailboxRelease c m) s (fun t =>
      t.rd (mbLock c m) = 0 ∧ t.rd (mbShadow c m) = 0 ∧ t.rd (mbNew c m) = s.dev.rd (mbNew c m) ∧
      ∀ k : Nat, k < 18 → t.rd (canAt c (fun i => R.FCAN_MB.WORD i m k)) = numAt e.words k % 2 ^ 32)) ∧
    (∀ m : Fin 16, s.dev.on (mbLock c m) = false → Answers (.canMailboxRelease c m) s (fun t =>
      t = { s.dev with lastRead := s.dev.rd (canAt c (fun i => R.FCAN_MB.WORD i m (s.dev.mbLast c m))) })) ∧
    (∀ f : Fin 2, s.dev.domOn .f4 = true → f.val < s.dev.can.length → Answers (.canRxpop f) s (fun t => (t.canRt f).ring = (s.dev.canRt f).ring.drop 1 ∧
      t.rd (canAt f R.FCAN_RXSTAT.ENTRIES) = ((s.dev.canRt f).ring.length - 1) % 2 ^ 7 ∧ s.dev.RegsBut [canAt f R.FCAN_RXSTAT.ENTRIES] t)) ∧
    (∀ (m : Fin 16) (r : Fin 3) (v : Nat), Answers (.canFilterWrite c m r v) s (fun t => t.rd (mbNew c m) = 0 ∧ t.rd (mbLock c m) = 0 ∧
      t.rd (mbShadow c m) = 0 ∧ (r.val = 0 → t.rd (canAt c (fun i => R.FCAN_MBFLT.ID i m)) = v % 2 ^ 29) ∧
      (r.val = 1 → t.rd (canAt c (fun i => R.FCAN_MBMASK.MASK i m)) = v % 2 ^ 29) ∧ (r.val = 2 → t.rd (canAt c (fun i => R.FCAN_MBCFG.MODE i m)) = v % 4) ∧
      ∀ k : Nat, k < 18 → t.rd (canAt c (fun i => R.FCAN_MB.WORD i m k)) = 0))

/-- A token presented to a powered die gets the first failing check of Table 19-7 as its CODE with RESULT 3 and changes no fuse;
one that passes arms debug (KIND 1), blows the lifecycle groups and sets LCPEND while LC stays (KIND 2), programs its slot
with the 48 bytes of its hash (KIND 3) or sets the revocation bit (KIND 4), with RESULT 2; a blow that fails its verify gives
CODE 8. The host side answers the enclave command besides. An injection token shows KIND 5 and, accepted, takes the place of
the one before. RELOCK clears DBGARM only. A health failure sets FAIL, clears OK and counts; a recovery sets OK and clears
FAIL. (R363, R365, R373, R374, R383, R400, Table 19-7, 19_security.md) -/
def Obligations.TokensAndRandomSources : Prop :=
  ∀ s : State,
    (∀ tok : List Byte, s.dev.domOn .f1 = true → Answers (.debugUnlock .field tok) s (fun t => (s.dev.tokenCode .field 1 tok ≠ 0 → t.rd R.FSEC_TOKSTAT.RESULT = 3 ∧ t.rd R.FSEC_TOKSTAT.CODE = s.dev.tokenCode .field 1 tok ∧ t.ffuse = s.dev.ffuse ∧ t.hfuse = s.dev.hfuse) ∧
      (s.dev.tokenCode .field 1 tok = 0 → t.rd R.FSEC_TOKSTAT.RESULT = 2 ∧ t.rd R.FSEC_TOKSTAT.CODE = 0 ∧ t.rd R.FSEC_STATE.DBGARM = 1 ∧ t.ffuse = s.dev.ffuse ∧ t.hfuse = s.dev.hfuse))) ∧
    (∀ (tok : List Byte) (w : Bool), s.dev.domOn .f1 = true → Answers (.lifecycleToken .field tok w) s (fun t => (s.dev.tokenCode .field 2 tok ≠ 0 → t.rd R.FSEC_TOKSTAT.RESULT = 3 ∧ t.rd R.FSEC_TOKSTAT.CODE = s.dev.tokenCode .field 2 tok ∧ t.ffuse = s.dev.ffuse ∧ t.hfuse = s.dev.hfuse) ∧
      (s.dev.tokenCode .field 2 tok = 0 → w = true → t.rd R.FSEC_TOKSTAT.RESULT = 2 ∧ t.rd R.FSEC_TOKSTAT.CODE = 0 ∧ t.ffuse.lc = lcBlown s.dev.ffuse.lc (leAt tok 6 1) ∧ t.rd R.FSEC_STATE.LCPEND = 1 ∧
        t.rd R.FSEC_STATE.LC = s.dev.rd R.FSEC_STATE.LC) ∧ (s.dev.tokenCode .field 2 tok = 0 → w = false → t.rd R.FSEC_TOKSTAT.RESULT = 3 ∧ t.rd R.FSEC_TOKSTAT.CODE = 8))) ∧
    (∀ (tok : List Byte) (w : Bool), s.dev.domOn .f1 = true → Answers (.slotProgram .field tok w) s (fun t => (s.dev.tokenCode .field 3 tok ≠ 0 → t.rd R.FSEC_TOKSTAT.RESULT = 3 ∧ t.rd R.FSEC_TOKSTAT.CODE = s.dev.tokenCode .field 3 tok ∧ t.ffuse = s.dev.ffuse ∧ t.hfuse = s.dev.hfuse) ∧
      (s.dev.tokenCode .field 3 tok = 0 → w = true → t.rd R.FSEC_TOKSTAT.RESULT = 2 ∧ t.rd R.FSEC_TOKSTAT.CODE = 0 ∧ (leAt tok 6 1 < s.dev.ffuse.slots.length → t.ffuse.slots.getD (leAt tok 6 1) none = some (slice tok 32 48)) ∧
        t.ffuse.lc = s.dev.ffuse.lc) ∧ (s.dev.tokenCode .field 3 tok = 0 → w = false → t.rd R.FSEC_TOKSTAT.RESULT = 3 ∧ t.rd R.FSEC_TOKSTAT.CODE = 8))) ∧
    (∀ (tok : List Byte) (w : Bool), s.dev.domOn .f1 = true → Answers (.slotRevoke .field tok w) s (fun t => (s.dev.tokenCode .field 4 tok ≠ 0 → t.rd R.FSEC_TOKSTAT.RESULT = 3 ∧ t.rd R.FSEC_TOKSTAT.CODE = s.dev.tokenCode .field 4 tok ∧ t.ffuse = s.dev.ffuse ∧ t.hfuse = s.dev.hfuse) ∧
      (s.dev.tokenCode .field 4 tok = 0 → w = true → t.rd R.FSEC_TOKSTAT.RESULT = 2 ∧ t.rd R.FSEC_TOKSTAT.CODE = 0 ∧ testBit t.ffuse.rev (leAt tok 6 1) = true ∧ t.ffuse.slots = s.dev.ffuse.slots) ∧
        (s.dev.tokenCode .field 4 tok = 0 → w = false → t.rd R.FSEC_TOKSTAT.RESULT = 3 ∧ t.rd R.FSEC_TOKSTAT.CODE = 8))) ∧
    (∀ tok : List Byte, s.dev.domOn .f1 = true → Answers (.injectionToken .field tok) s (fun t => t.rd R.FSEC_TOKSTAT.KIND = 5 ∧
      (s.dev.injTokenCode .field tok ≠ 0 → t.rd R.FSEC_TOKSTAT.RESULT = 3 ∧ t.rd R.FSEC_TOKSTAT.CODE = s.dev.injTokenCode .field tok ∧ t.inj = s.dev.inj) ∧
      (s.dev.injTokenCode .field tok = 0 → t.rd R.FSEC_TOKSTAT.RESULT = 2 ∧ t.rd R.FSEC_TOKSTAT.CODE = 0 ∧ t.inj.tokenF =
        some { notBefore := leAt tok 32 8, notAfter := leAt tok 40 8, points := leAt tok 48 4, inst := leAt tok 52 1, count := leAt tok 54 2 }))) ∧
    (s.dev.domOn .f1 = true → Answers (.relock .field) s (fun t => t.rd R.FSEC_STATE.DBGARM = 0 ∧ s.dev.RegsBut [R.FSEC_STATE.DBGARM] t ∧ s.dev.OnlyIn Part.regs t)) ∧
    (s.dev.domOn .f1 = true → Answers (.trngHealthFailure .field) s (fun t => t.rd R.FSEC_TRNG.FAIL = 1 ∧ t.rd R.FSEC_TRNG.OK = 0 ∧
      t.rd R.FSEC_TRNG.FAILURES = min 255 (s.dev.rd R.FSEC_TRNG.FAILURES + 1))) ∧
    (s.dev.domOn .f1 = true → Answers (.trngHealthRecovery .field) s (fun t => t.rd R.FSEC_TRNG.FAIL = 0 ∧ t.rd R.FSEC_TRNG.OK = 1 ∧
      s.dev.RegsBut [R.FSEC_TRNG.FAIL, R.FSEC_TRNG.OK] t ∧ s.dev.OnlyIn Part.regs t)) ∧
    (∀ tok : List Byte, s.dev.domOn .h1 = true → Answers (.debugUnlock .host tok) s (fun t => (s.dev.tokenCode .host 1 tok ≠ 0 → t.rd R.SEC_TOKSTAT.RESULT = 3 ∧ t.rd R.SEC_TOKSTAT.CODE = s.dev.tokenCode .host 1 tok ∧ t.ffuse = s.dev.ffuse ∧ t.hfuse = s.dev.hfuse ∧ t.rd R.SEC_CMD.RESULT = 3 ∧ t.rd R.SEC_CMD.CODE = 7) ∧
      (s.dev.tokenCode .host 1 tok = 0 → t.rd R.SEC_TOKSTAT.RESULT = 2 ∧ t.rd R.SEC_TOKSTAT.CODE = 0 ∧ t.rd R.SEC_CMD.RESULT = 2 ∧ t.rd R.SEC_STATE.DBGARM = 1 ∧ t.ffuse = s.dev.ffuse ∧ t.hfuse = s.dev.hfuse))) ∧
    (∀ (tok : List Byte) (w : Bool), s.dev.domOn .h1 = true → Answers (.lifecycleToken .host tok w) s (fun t => (s.dev.tokenCode .host 2 tok ≠ 0 → t.rd R.SEC_TOKSTAT.RESULT = 3 ∧ t.rd R.SEC_TOKSTAT.CODE = s.dev.tokenCode .host 2 tok ∧ t.ffuse = s.dev.ffuse ∧ t.hfuse = s.dev.hfuse ∧ t.rd R.SEC_CMD.RESULT = 3 ∧ t.rd R.SEC_CMD.CODE = 7) ∧
      (s.dev.tokenCode .host 2 tok = 0 → w = true → t.rd R.SEC_TOKSTAT.RESULT = 2 ∧ t.rd R.SEC_TOKSTAT.CODE = 0 ∧ t.rd R.SEC_CMD.RESULT = 2 ∧ t.hfuse.lc = lcBlown s.dev.hfuse.lc (leAt tok 6 1) ∧ t.rd R.SEC_STATE.LCPEND = 1 ∧
        t.rd R.SEC_STATE.LC = s.dev.rd R.SEC_STATE.LC) ∧ (s.dev.tokenCode .host 2 tok = 0 → w = false → t.rd R.SEC_TOKSTAT.RESULT = 3 ∧ t.rd R.SEC_TOKSTAT.CODE = 8))) ∧
    (∀ (tok : List Byte) (w : Bool), s.dev.domOn .h1 = true → Answers (.slotProgram .host tok w) s (fun t => (s.dev.tokenCode .host 3 tok ≠ 0 → t.rd R.SEC_TOKSTAT.RESULT = 3 ∧ t.rd R.SEC_TOKSTAT.CODE = s.dev.tokenCode .host 3 tok ∧ t.ffuse = s.dev.ffuse ∧ t.hfuse = s.dev.hfuse ∧ t.rd R.SEC_CMD.RESULT = 3 ∧ t.rd R.SEC_CMD.CODE = 7) ∧
      (s.dev.tokenCode .host 3 tok = 0 → w = true → t.rd R.SEC_TOKSTAT.RESULT = 2 ∧ t.rd R.SEC_TOKSTAT.CODE = 0 ∧ t.rd R.SEC_CMD.RESULT = 2 ∧ (leAt tok 6 1 < s.dev.hfuse.slots.length → t.hfuse.slots.getD (leAt tok 6 1) none = some (slice tok 32 48)) ∧
        t.hfuse.lc = s.dev.hfuse.lc) ∧ (s.dev.tokenCode .host 3 tok = 0 → w = false → t.rd R.SEC_TOKSTAT.RESULT = 3 ∧ t.rd R.SEC_TOKSTAT.CODE = 8))) ∧
    (∀ (tok : List Byte) (w : Bool), s.dev.domOn .h1 = true → Answers (.slotRevoke .host tok w) s (fun t => (s.dev.tokenCode .host 4 tok ≠ 0 → t.rd R.SEC_TOKSTAT.RESULT = 3 ∧ t.rd R.SEC_TOKSTAT.CODE = s.dev.tokenCode .host 4 tok ∧ t.ffuse = s.dev.ffuse ∧ t.hfuse = s.dev.hfuse ∧ t.rd R.SEC_CMD.RESULT = 3 ∧ t.rd R.SEC_CMD.CODE = 7) ∧
      (s.dev.tokenCode .host 4 tok = 0 → w = true → t.rd R.SEC_TOKSTAT.RESULT = 2 ∧ t.rd R.SEC_TOKSTAT.CODE = 0 ∧ t.rd R.SEC_CMD.RESULT = 2 ∧ testBit t.hfuse.rev (leAt tok 6 1) = true ∧ t.hfuse.slots = s.dev.hfuse.slots) ∧
        (s.dev.tokenCode .host 4 tok = 0 → w = false → t.rd R.SEC_TOKSTAT.RESULT = 3 ∧ t.rd R.SEC_TOKSTAT.CODE = 8))) ∧
    (∀ tok : List Byte, s.dev.domOn .h1 = true → Answers (.injectionToken .host tok) s (fun t => t.rd R.SEC_TOKSTAT.KIND = 5 ∧
      (s.dev.injTokenCode .host tok ≠ 0 → t.rd R.SEC_TOKSTAT.RESULT = 3 ∧ t.rd R.SEC_TOKSTAT.CODE = s.dev.injTokenCode .host tok ∧ t.inj = s.dev.inj) ∧
      (s.dev.injTokenCode .host tok = 0 → t.rd R.SEC_TOKSTAT.RESULT = 2 ∧ t.rd R.SEC_TOKSTAT.CODE = 0 ∧ t.rd R.SEC_CMD.RESULT = 2 ∧ t.inj.tokenH =
        some { notBefore := leAt tok 32 8, notAfter := leAt tok 40 8, points := leAt tok 48 4, inst := leAt tok 52 1, count := leAt tok 54 2 }))) ∧
    (s.dev.domOn .h1 = true → Answers (.relock .host) s (fun t => t.rd R.SEC_STATE.DBGARM = 0 ∧ s.dev.RegsBut [R.SEC_STATE.DBGARM] t ∧ s.dev.OnlyIn Part.regs t)) ∧
    (s.dev.domOn .h1 = true → Answers (.trngHealthFailure .host) s (fun t => t.rd R.SEC_TRNG.FAIL = 1 ∧ t.rd R.SEC_TRNG.OK = 0 ∧
      t.rd R.SEC_TRNG.FAILURES = min 255 (s.dev.rd R.SEC_TRNG.FAILURES + 1) ∧ t.Pends 111)) ∧
    (s.dev.domOn .h1 = true → Answers (.trngHealthRecovery .host) s (fun t => t.rd R.SEC_TRNG.FAIL = 0 ∧ t.rd R.SEC_TRNG.OK = 1 ∧
      s.dev.RegsBut [R.SEC_TRNG.FAIL, R.SEC_TRNG.OK] t ∧ s.dev.OnlyIn Part.regs t))

/-- A tamper input shows its level; low with EN it latches, and with ZEROISE its side loses keys and pairing. Instructions that
drive pads act only where R367 permits. FSEC pairing ends with 0 where it verifies, is permitted and TRNG is healthy, else
with 2, 3 or 5. KEY_LOAD without K_T answers 1, with bytes that do not unwrap 2, for another target 3; else the slot takes the
key, a share slot from the next whole millisecond. CLEAR empties a slot. The statement's first 240 bytes are read back.
SEC_MONOINC raises the counters named, saturating, and no other. (R367, R371, R375, R376, R379, R384, Table 19-8,
19_security.md) -/
def Obligations.TamperScanPairingAndKeys : Prop :=
  ∀ s : State,
    (∀ (i : Fin 2) (low : Bool), s.dev.domOn .f0 = true → Answers (.tamperInput .field i low) s (fun t => testBit (t.rd R.FSEC_TAMPSTAT.RAW) i = low ∧
      (low = true → s.dev.on (R.FSEC_TAMPCFG.EN i) = true → testBit (t.rd R.FSEC_TAMPSTAT.LATCH) i = true ∧
        (s.dev.on (R.FSEC_TAMPCFG.ZEROISE i) = true → t.shr.keys = [none, none] ∧ t.svg.keys = [none, none, none, none] ∧ t.fsec.kt = none ∧ t.rd R.FSEC_STATE.PAIRED = 0) ∧ (s.dev.on (R.FSEC_TAMPCFG.ZEROISE i) = false → t.shr.keys = s.dev.shr.keys ∧ t.svg.keys = s.dev.svg.keys ∧ t.fsec.kt = s.dev.fsec.kt)) ∧
      (low = false ∨ s.dev.on (R.FSEC_TAMPCFG.EN i) = false → s.dev.RegsBut [R.FSEC_TAMPSTAT.RAW] t ∧ s.dev.OnlyIn Part.regs t))) ∧
    (∀ (i : Fin 2) (low : Bool), s.dev.domOn .f0 = false → Answers (.tamperInput .field i low) s (fun t => t = s.dev)) ∧
    (∀ drives : Bool, Answers (.boundaryScanInstruction .field drives) s (fun t => t.fsec.scan = (drives && s.dev.scanActs .field) ∧ t.regs = s.dev.regs ∧
      s.dev.OnlyIn Part.fsec t)) ∧
    (∀ (i : Fin 2) (low : Bool), s.dev.domOn .h0 = true → Answers (.tamperInput .host i low) s (fun t => testBit (t.rd R.SEC_TAMPSTAT.RAW) i = low ∧
      (low = true → s.dev.on (R.SEC_TAMPCFG.EN i) = true → testBit (t.rd R.SEC_TAMPSTAT.LATCH) i = true ∧
        (s.dev.on (R.SEC_TAMPCFG.ZEROISE i) = true → t.enc.slots = List.replicate 16 none ∧ t.enc.kt = none ∧ t.rd R.SEC_STATE.PAIRED = 0) ∧ (s.dev.on (R.SEC_TAMPCFG.ZEROISE i) = false → t.enc.slots = s.dev.enc.slots ∧ t.enc.kt = s.dev.enc.kt)) ∧
      (low = false ∨ s.dev.on (R.SEC_TAMPCFG.EN i) = false → s.dev.RegsBut [R.SEC_TAMPSTAT.RAW] t ∧ s.dev.OnlyIn Part.regs t))) ∧
    (∀ (i : Fin 2) (low : Bool), s.dev.domOn .h0 = false → Answers (.tamperInput .host i low) s (fun t => t = s.dev)) ∧
    (∀ drives : Bool, Answers (.boundaryScanInstruction .host drives) s (fun t => t.enc.scan = (drives && s.dev.scanActs .host) ∧ t.regs = s.dev.regs ∧
      s.dev.OnlyIn Part.enc t)) ∧
    (s.dev.domOn .f1 = true → Answers .fsecPairctlGo s (fun t =>
      let x := s.dev.rdWords R.FSEC_PAIRIN.WORD 76
      let good := Config.ecdsaVerify (slice x 0 96) (Config.sha384 ([1] ++ slice x 96 96 ++ slice x 192 16 ++ leBytes 8 s.dev.ffuse.uid)) (slice x 208 96)
      let permitted := decide (s.dev.lc .field ≠ 2) || (!s.dev.dbgen .field && decide (s.dev.ffuse.pin = some (Config.sha384 (slice x 0 96))))
      (good = false → t.rd R.FSEC_PAIRCTL.RESULT = 3 ∧ t.rd R.FSEC_PAIRCTL.CODE = 2 ∧ t.fsec = s.dev.fsec) ∧
      (good = true → permitted = false → t.rd R.FSEC_PAIRCTL.RESULT = 3 ∧ t.rd R.FSEC_PAIRCTL.CODE = 3 ∧ t.fsec = s.dev.fsec) ∧
      (good = true → permitted = true → s.dev.on R.FSEC_TRNG.FAIL = true → t.rd R.FSEC_PAIRCTL.RESULT = 3 ∧ t.rd R.FSEC_PAIRCTL.CODE = 5 ∧ t.fsec = s.dev.fsec) ∧
      (good = true → permitted = true → s.dev.on R.FSEC_TRNG.FAIL = false → t.rd R.FSEC_PAIRCTL.RESULT = 2 ∧ t.rd R.FSEC_PAIRCTL.CODE = 0 ∧
        t.rd R.FSEC_STATE.PAIRED = 1 ∧ t.fsec.peer = slice x 0 96 ∧ t.fsec.kt.isSome = true))) ∧
    (∀ n : Fin 8, s.dev.domOn .f1 = true → s.dev.fsec.kt = none → Answers (.keyLoad n) s (fun t => t.rd R.FSEC_KEYCTL.RESULT = 3 ∧ t.rd R.FSEC_KEYCTL.CODE = 1 ∧
      t.fsec = s.dev.fsec ∧ t.svg = s.dev.svg)) ∧
    (∀ (n : Fin 8) (kt : List Byte), s.dev.domOn .f1 = true → s.dev.domOn .f4 = true → s.dev.fsec.kt = some kt → Answers (.keyLoad n) s (fun t =>
      t.rd R.FSEC_KEYCTL.TARGET = n ∧ match Config.aesUnwrap kt (s.dev.rdWords R.FSEC_KEYIN.WORD 12) with
      | none => t.rd R.FSEC_KEYCTL.RESULT = 3 ∧ t.rd R.FSEC_KEYCTL.CODE = 2 ∧ t.fsec = s.dev.fsec ∧ t.svg = s.dev.svg
      | some x => (5 < n.val ∨ leAt x 32 1 ≠ n.val → t.rd R.FSEC_KEYCTL.RESULT = 3 ∧ t.rd R.FSEC_KEYCTL.CODE = 3 ∧ t.fsec = s.dev.fsec ∧ t.svg = s.dev.svg) ∧
          (n.val ≤ 5 → leAt x 32 1 = n.val → t.rd R.FSEC_KEYCTL.RESULT = 2 ∧ t.rd R.FSEC_KEYCTL.CODE = 0 ∧
            (n.val < 2 → t.fsec.keyNext = s.dev.fsec.keyNext ++ [(n.val, some (x.take 32))] ∧ t.shr = s.dev.shr) ∧
            (2 ≤ n.val → n.val - 2 < s.dev.svg.keys.length → t.svg.keys.getD (n.val - 2) none = some (x.take 32))))) ∧
    (∀ n : Fin 8, s.dev.domOn .f1 = true → s.dev.domOn .f4 = true → n.val ≤ 5 → Answers (.keySlotClear n) s (fun t => t.rd R.FSEC_KEYCTL.RESULT = 2 ∧
      t.rd R.FSEC_KEYCTL.CODE = 0 ∧ (n.val < 2 → t.fsec.keyNext = s.dev.fsec.keyNext ++ [(n.val, none)]) ∧ (2 ≤ n.val → t.svg.keys.getD (n.val - 2) none = none))) ∧
    (∀ n : Fin 8, s.dev.domOn .f1 = true → 5 < n.val → Answers (.keySlotClear n) s (fun t => t.rd R.FSEC_KEYCTL.RESULT = 3 ∧ t.rd R.FSEC_KEYCTL.CODE = 3 ∧
      t.fsec = s.dev.fsec ∧ t.svg = s.dev.svg)) ∧
    (s.dev.domOn .f1 = true → Answers .fsecStmtctlGo s (fun t => t.rd R.FSEC_STMTCTL.RESULT = 2 ∧ t.fsec = s.dev.fsec ∧
      t.rdWords R.FSEC_STMT.WORD 60 = s.dev.statement)) ∧
    (∀ m : Fin 16, s.dev.domOn .h1 = true → Answers (.secMonoinc m) s (fun t => (∀ c : Fin 4, testBit m.val c = true →
      t.rd (R.SEC_MONO.VALUE c) = min (2 ^ 32 - 1) (s.dev.rd (R.SEC_MONO.VALUE c) + 1)) ∧
      (∀ c : Fin 4, testBit m.val c = false → t.rd (R.SEC_MONO.VALUE c) = s.dev.rd (R.SEC_MONO.VALUE c)) ∧ s.dev.OnlyIn (Part.regs + Part.enc) t))

/-- With H1 on, CLEAR and DERIVE, UNWRAP and WRAP, SIGN and ATTEST, EXTEND, FIELDMEAS, PAIR, KEYWRAPF, AEAD and RANDOM end with
RESULT 2 and event 108, having emptied or filled the slot named, stored their bytes at DST, extended the measurement register
or opened a pairing, or with RESULT 3 and the CODE of Table 19-11: 2 for a slot that does not serve, 3 refused, 4 not paired,
5 without randomness, 6 for a range outside host memory, in which case no slot changes. What the cryptographic primitives
answer is uninterpreted (log entry 4); the tokens have their own statement. (R375, R376, R378, R380, R382, R383, Table 19-10,
Table 19-11) -/
def Obligations.EnclaveCommands : Prop :=
  ∀ (s : State) (b : EncBlock), s.dev.domOn .h1 = true →
    (b.slot < 16 → Answers (.encClear b) s (fun t => t.rd R.SEC_CMD.RESULT = 2 ∧ t.rd R.SEC_CMD.CODE = 0 ∧ t.Pends 108 ∧ t.enc.slots = setAt s.dev.enc.slots b.slot none)) ∧
    (16 ≤ b.slot → Answers (.encClear b) s (fun t => t.rd R.SEC_CMD.RESULT = 3 ∧ t.rd R.SEC_CMD.CODE = 2 ∧ t.enc = s.dev.enc)) ∧
    (0x10 ≤ b.purpose → b.purpose ≤ 0x1F → b.srcLen ≤ 32 → b.slot < 16 → (b.srcLen = 0 ∨ encRange b.src b.srcLen = true) → s.dev.lc .host ≠ 4 → Answers (.encDerive b) s (fun t => t.rd R.SEC_CMD.RESULT = 2 ∧ t.rd R.SEC_CMD.CODE = 0 ∧ t.Pends 108 ∧
      t.enc.slots = setAt s.dev.enc.slots b.slot ((s.dev.kdf .host b.purpose (s.dev.hread b.src b.srcLen) (8 * (if b.dstLen = 0 then 32 else b.dstLen % 8192))).map
        (fun k => { key := k, exportable := testBit b.flags 0 })))) ∧
    (b.srcLen ≠ 0 → encRange b.src b.srcLen = false → Answers (.encDerive b) s (fun t => t.rd R.SEC_CMD.RESULT = 3 ∧ t.rd R.SEC_CMD.CODE = 6 ∧ t.enc = s.dev.enc)) ∧
    (b.slot < 16 → (b.srcLen = 0 ∨ encRange b.src b.srcLen = true) → Answers (.encUnwrap b) s (fun t => match Config.aesUnwrap s.dev.wrapKey (s.dev.hread b.src b.srcLen) with
      | some k => t.rd R.SEC_CMD.RESULT = 2 ∧ t.rd R.SEC_CMD.CODE = 0 ∧ t.Pends 108 ∧ t.enc.slots = setAt s.dev.enc.slots b.slot (some { key := k, exportable := testBit b.flags 0 })
      | none => t.rd R.SEC_CMD.RESULT = 3 ∧ t.rd R.SEC_CMD.CODE = 3 ∧ t.enc = s.dev.enc)) ∧
    (∀ x : EncSlot, s.dev.encSlot b.slot = some x → x.exportable = true → encRange b.dst (x.key.length + 8) = true → Answers (.encWrap b) s (fun t => t.rd R.SEC_CMD.RESULT = 2 ∧ t.rd R.SEC_CMD.CODE = 0 ∧ t.Pends 108 ∧
      t = s.dev.encOut b.dst (Config.aesWrap s.dev.wrapKey x.key))) ∧
    (∀ x : EncSlot, s.dev.encSlot b.slot = some x → x.exportable = false → Answers (.encWrap b) s (fun t => t.rd R.SEC_CMD.RESULT = 3 ∧ t.rd R.SEC_CMD.CODE = 3 ∧ t.enc = s.dev.enc)) ∧
    (s.dev.encSlot b.slot = none → Answers (.encWrap b) s (fun t => t.rd R.SEC_CMD.RESULT = 3 ∧ t.rd R.SEC_CMD.CODE = 2) ∧ Answers (.encSign b) s (fun t => t.rd R.SEC_CMD.RESULT = 3 ∧ t.rd R.SEC_CMD.CODE = 2)) ∧
    (∀ x : EncSlot, s.dev.encSlot b.slot = some x → encRange b.src 48 = true → encRange b.dst 96 = true → Answers (.encSign b) s (fun t => t.rd R.SEC_CMD.RESULT = 2 ∧ t.rd R.SEC_CMD.CODE = 0 ∧ t.Pends 108 ∧
      t = s.dev.encOut b.dst (Config.ecdsaSign (p384Private x.key) (s.dev.hread b.src 48)))) ∧
    (encRange b.src 32 = true → encRange b.dst 608 = true → Answers (.encAttest b) s (fun t => t.rd R.SEC_CMD.RESULT = 2 ∧ t.rd R.SEC_CMD.CODE = 0 ∧ t.Pends 108 ∧ t.enc.quotes = (s.dev.enc.quotes + 1) % 2 ^ 64 ∧
      t.enc.slots = s.dev.enc.slots)) ∧
    (b.slot = 2 ∨ b.slot = 3 → encRange b.src 48 = true → Answers (.encExtend b) s (fun t => t.rd R.SEC_CMD.RESULT = 2 ∧ t.rd R.SEC_CMD.CODE = 0 ∧ t.Pends 108 ∧
      t.mr b.slot = padTo (Config.sha384 (s.dev.mr b.slot ++ s.dev.hread b.src 48)) 48 ∧ ∀ m : Fin 8, m.val ≠ b.slot → t.mr m = s.dev.mr m)) ∧
    (b.slot ≠ 2 → b.slot ≠ 3 → Answers (.encExtend b) s (fun t => t.rd R.SEC_CMD.RESULT = 3 ∧ t.rd R.SEC_CMD.CODE = 2 ∧ ∀ m : Fin 8, t.mr m = s.dev.mr m)) ∧
    (encRange b.src 336 = true → s.dev.on R.SEC_STATE.PAIRED = false → Answers (.encFieldmeas b) s (fun t => t.rd R.SEC_CMD.RESULT = 3 ∧ t.rd R.SEC_CMD.CODE = 4 ∧ t.enc = s.dev.enc)) ∧
    (encRange b.src 336 = true → s.dev.on R.SEC_STATE.PAIRED = true → Answers (.encFieldmeas b) s (fun t =>
      (Config.ecdsaVerify s.dev.enc.fid (Config.sha384 (s.dev.hread b.src 240)) (s.dev.hread (b.src + 240) 96) = false → t.rd R.SEC_CMD.RESULT = 3 ∧ t.rd R.SEC_CMD.CODE = 3 ∧ t.enc = s.dev.enc) ∧
      (Config.ecdsaVerify s.dev.enc.fid (Config.sha384 (s.dev.hread b.src 240)) (s.dev.hread (b.src + 240) 96) = true → t.rd R.SEC_CMD.RESULT = 2 ∧ t.rd R.SEC_CMD.CODE = 0 ∧ t.Pends 108 ∧
        ∀ m : Fin 4, t.mr m = s.dev.mr m))) ∧
    (b.slot = 0 → encRange b.src 8 = true → encRange b.dst 304 = true → s.dev.on R.SEC_TRNG.FAIL = false → Answers (.encPair b) s (fun t => t.rd R.SEC_CMD.RESULT = 2 ∧ t.rd R.SEC_CMD.CODE = 0 ∧ t.Pends 108 ∧
      t.enc.eph.isSome = true ∧ t.enc.askUid = leNat (s.dev.hread b.src 8))) ∧
    (b.slot = 0 → encRange b.src 8 = true → encRange b.dst 304 = true → s.dev.on R.SEC_TRNG.FAIL = true → Answers (.encPair b) s (fun t => t.rd R.SEC_CMD.RESULT = 3 ∧ t.rd R.SEC_CMD.CODE = 5 ∧ t.enc = s.dev.enc)) ∧
    (b.slot = 1 → encRange b.src 304 = true → s.dev.enc.eph = none → Answers (.encPair b) s (fun t => t.rd R.SEC_CMD.RESULT = 3 ∧ t.rd R.SEC_CMD.CODE = 4 ∧ t.enc = s.dev.enc)) ∧
    (2 ≤ b.slot → Answers (.encPair b) s (fun t => t.rd R.SEC_CMD.RESULT = 3 ∧ t.rd R.SEC_CMD.CODE = 2 ∧ t.enc = s.dev.enc)) ∧
    ((b.srcLen = 0 ∨ encRange b.src b.srcLen = true) → encRange b.dst 48 = true → s.dev.enc.kt = none → Answers (.encKeywrapf b) s (fun t => t.rd R.SEC_CMD.RESULT = 3 ∧ t.rd R.SEC_CMD.CODE = 4)) ∧
    (∀ kt : List Byte, (b.srcLen = 0 ∨ encRange b.src b.srcLen = true) → encRange b.dst 48 = true → s.dev.enc.kt = some kt → Answers (.encKeywrapf b) s (fun t =>
      match Config.aesUnwrap s.dev.wrapKey (s.dev.hread b.src b.srcLen) with
      | some k => t.rd R.SEC_CMD.RESULT = 2 ∧ t.rd R.SEC_CMD.CODE = 0 ∧ t.Pends 108 ∧ t = s.dev.encOut b.dst (Config.aesWrap kt (k ++ leBytes 1 b.purpose ++ List.replicate 7 0))
      | none => t.rd R.SEC_CMD.RESULT = 3 ∧ t.rd R.SEC_CMD.CODE = 3 ∧ t.enc = s.dev.enc)) ∧
    (b.slot = 0xFE → s.dev.on R.SEC_STATE.PAIRED = false → Answers (.encAead b) s (fun t => t.rd R.SEC_CMD.RESULT = 3 ∧ t.rd R.SEC_CMD.CODE = 4)) ∧
    (∀ x : EncSlot, b.slot ≠ 0xFE → s.dev.encSlot b.slot = some x → (b.srcLen = 0 ∨ encRange b.src b.srcLen = true) → encRange b.dst 65536 = true → Answers (.encAead b) s (fun t =>
      match Config.aead x.key b.flags (s.dev.hread b.src b.srcLen) with
      | some out => out.length ≤ 65536 → t.rd R.SEC_CMD.RESULT = 2 ∧ t.rd R.SEC_CMD.CODE = 0 ∧ t.Pends 108 ∧ t = s.dev.encOut b.dst out
      | none => t.rd R.SEC_CMD.RESULT = 3 ∧ t.rd R.SEC_CMD.CODE = 3 ∧ t.enc = s.dev.enc)) ∧
    (b.dstLen = 0 ∨ encRange b.dst b.dstLen = true → s.dev.on R.SEC_TRNG.FAIL = false → Answers (.encRandom b) s (fun t => t.rd R.SEC_CMD.RESULT = 2 ∧ t.rd R.SEC_CMD.CODE = 0 ∧ t.Pends 108 ∧
      t.free = s.dev.free + b.dstLen ∧ t.enc = s.dev.enc)) ∧
    (b.dstLen = 0 ∨ encRange b.dst b.dstLen = true → s.dev.on R.SEC_TRNG.FAIL = true → Answers (.encRandom b) s (fun t => t.rd R.SEC_CMD.RESULT = 3 ∧ t.rd R.SEC_CMD.CODE = 5 ∧
      t.free = s.dev.free ∧ t.enc = s.dev.enc))

/-- Good readings of all sensors of a powered die show in TEMP; WARN and THROTTLE set from their level on and clear below it less
their hysteresis; at SHUTDOWN the field side keeps a record in F0 with SHUTREC, and the host side turns H2 and H3 off with
SHUTREC valid. A failed conversion puts its sensor in FAULT. At t0 + TQS in QUENCH the outputs in codes 4 to 7 are in FAULT.
The ACK key is noted, CLR clears the host record's VALID, and the NOR copy moves the F0 record to the slot with the lower SEQ,
unless a commit runs. (R386, R387, R391, R392, R395, 20_thermal.md) -/
def Obligations.DieTemperatures : Prop :=
  ∀ s : State,
    (∀ (conv : List (List Int)) (v : Nat → Int), s.dev.domOn .f1 = true → conv.length = 12 → (∀ i : Fin 12, conv.getD i [] = [v i] ∧ -600 ≤ v i ∧ v i ≤ 1600) → s.dev.inj.field = [] → (∀ i : Fin 12, s.dev.rd (R.FTHM_TEMP.FAULT i) = 0) →
      Answers (.thermalReading .field conv []) s (fun t => (∀ i : Fin 12, t.rdS (R.FTHM_TEMP.T i) = v i ∧ t.rd (R.FTHM_TEMP.FAULT i) = 0) ∧
        ((∃ i : Fin 12, 10 * (s.dev.rd R.FTHM_THR.WARN : Int) ≤ v i) → t.rd R.FTHM_STAT.WARN = 1) ∧
        ((∀ i : Fin 12, v i < 10 * ((s.dev.rd R.FTHM_THR.WARN : Int) - s.dev.rd R.FTHM_HYST.HWARN)) → t.on R.FTHM_STAT.WARN = false) ∧
        ((∃ i : Fin 12, 10 * (s.dev.rd R.FTHM_THR.THROTTLE : Int) ≤ v i) → t.rd R.FTHM_STAT.THROTTLE = 1) ∧
        ((∀ i : Fin 12, v i < 10 * ((s.dev.rd R.FTHM_THR.THROTTLE : Int) - s.dev.rd R.FTHM_HYST.HTHR)) → t.on R.FTHM_STAT.THROTTLE = false) ∧
        ((∃ i : Fin 12, 10 * (s.dev.rd R.FTHM_THR.SHUTDOWN : Int) ≤ v i) → s.dev.th.shut = false → t.th.shut = true ∧ t.rd R.FTHM_STAT.SHUT = 1 ∧ t.th.t0 = s.dev.stcNs ∧ t.th.f0.isSome = true ∧ t.rd R.FSYS_MODE.SHUTREC = 1 ∧ t.rd R.FSYS_MODE.REARM_PEND = 1) ∧
        ((∀ i : Fin 12, v i < 10 * (s.dev.rd R.FTHM_THR.SHUTDOWN : Int)) → t.th.shut = s.dev.th.shut ∧ t.th.shutH = s.dev.th.shutH))) ∧
    (∀ (conv : List (List Int)) (bad : List Bool) (i : Fin 12), s.dev.domOn .f1 = true → bad.getD i false = true →
      Answers (.thermalReading .field conv bad) s (fun t => t.rd (R.FTHM_TEMP.FAULT i) = 1)) ∧
    (∀ (conv : List (List Int)) (v : Nat → Int), s.dev.domOn .h1 = true → conv.length = 8 → (∀ i : Fin 8, conv.getD i [] = [v i] ∧ -600 ≤ v i ∧ v i ≤ 1600) → s.dev.inj.host = [] → (∀ i : Fin 8, s.dev.rd (R.HTHM_TEMP.FAULT i) = 0) →
      Answers (.thermalReading .host conv []) s (fun t => (∀ i : Fin 8, t.rdS (R.HTHM_TEMP.T i) = v i ∧ t.rd (R.HTHM_TEMP.FAULT i) = 0) ∧
        ((∃ i : Fin 8, 10 * (s.dev.rd R.HTHM_THR.WARN : Int) ≤ v i) → t.rd R.HTHM_STAT.WARN = 1) ∧
        ((∀ i : Fin 8, v i < 10 * ((s.dev.rd R.HTHM_THR.WARN : Int) - s.dev.rd R.HTHM_HYST.HWARN)) → t.on R.HTHM_STAT.WARN = false) ∧
        ((∃ i : Fin 8, 10 * (s.dev.rd R.HTHM_THR.THROTTLE : Int) ≤ v i) → t.rd R.HTHM_STAT.THROTTLE = 1) ∧
        ((∀ i : Fin 8, v i < 10 * ((s.dev.rd R.HTHM_THR.THROTTLE : Int) - s.dev.rd R.HTHM_HYST.HTHR)) → t.on R.HTHM_STAT.THROTTLE = false) ∧
        ((∃ i : Fin 8, 10 * (s.dev.rd R.HTHM_THR.SHUTDOWN : Int) ≤ v i) → s.dev.th.shutH = false → t.th.shutH = true ∧ t.rd R.HTHM_STAT.SHUT = 1 ∧ t.rd R.HTHM_SHUTREC.VALID = 1 ∧ t.domOn .h2 = false ∧ t.domOn .h3 = false ∧ t.Pends 118) ∧
        ((∀ i : Fin 8, v i < 10 * (s.dev.rd R.HTHM_THR.SHUTDOWN : Int)) → t.th.shut = s.dev.th.shut ∧ t.th.shutH = s.dev.th.shutH))) ∧
    (∀ (conv : List (List Int)) (bad : List Bool) (i : Fin 8), s.dev.domOn .h1 = true → bad.getD i false = true →
      Answers (.thermalReading .host conv bad) s (fun t => t.rd (R.HTHM_TEMP.FAULT i) = 1)) ∧
    (s.dev.th.shut = true → s.dev.rd R.FTHM_STAT.SHUT = 1 → s.dev.mode = .quench → Answers .tqsExpiry s (fun t =>
      (∀ n : Fin 4, 4 ≤ s.dev.outState n → s.dev.outState n ≤ 7 → t.outState n = 8 ∧ t.rd (R.OUT_STAT.CAUSE n) = 2) ∧
      (∀ n : Fin 4, s.dev.outState n < 4 ∨ 7 < s.dev.outState n → t.outState n = s.dev.outState n) ∧ s.dev.tm.q ≤ t.tm.q)) ∧
    (s.dev.th.shut = false ∨ s.dev.mode ≠ .quench → Answers .tqsExpiry s (fun t => t = s.dev)) ∧
    (∀ x : Nat, s.dev.domOn .f1 = true → bits x 31 16 = 0xAC4D → Answers (.fthmRecctl x) s (fun t => t = { s.dev with th := { s.dev.th with ackKey := true } })) ∧
    (∀ x : Nat, bits x 31 16 ≠ 0xAC4D → Answers (.fthmRecctl x) s (fun t => t = s.dev)) ∧
    Answers .hthmShutrecClr s (fun t => t.rd R.HTHM_SHUTREC.VALID = 0 ∧ s.dev.RegsBut [R.HTHM_SHUTREC.VALID] t ∧ s.dev.OnlyIn Part.regs t) ∧
    (∀ x : ShutRec, s.dev.domOn .f1 = true → s.dev.th.f0 = some x → s.dev.bil.commit = none → s.dev.th.nor.length = 2 → Answers .shutdownRecordNorCopy s (fun t =>
      t.th.f0 = none ∧ t.th.nor.getD s.dev.recSlotLow none = some { x with seq := ((newestRec s.dev.th.nor).map (·.seq)).getD 0 + 1 } ∧
      t.th.nor.getD (1 - s.dev.recSlotLow) none = s.dev.th.nor.getD (1 - s.dev.recSlotLow) none)) ∧
    (s.dev.th.f0 = none ∨ s.dev.bil.commit.isSome = true → Answers .shutdownRecordNorCopy s (fun t => t = s.dev))

/-- A field start waits for S with its point and instance; a host start is refused at once with the code of Table 21-2 or becomes
active. STOP ends all of the side; an end removes the injection. A unit of allowance is added up to 64; FLOOD_END closes the
episode with event 121 unless a record is held. A pending field area becomes READY with MAGIC first, BEGIN sends a READY area
only, CLR empties it. SNAP stores the register snapshot, EXPORTED and a completed gathering set the host record's state.
Memory errors count as corrected or not, with their event; an uncorrectable one is a host fatal error (R409). A window error
of the FMP counts only. (R125, R397, R398, R399, R402, R403, R408, R409, R410, Table 21-2, 21_diagnostics.md) -/
def Obligations.InjectionsJournalAshAndErrors : Prop :=
  ∀ s : State,
    (∀ p i : Nat, s.dev.domOn .f1 = true → Answers (.injectionStart .field p i) s (fun t => t.inj = { s.dev.inj with startWaiting := true } ∧
      t.rd R.FDIA_INJCTL.POINT = p % 256 ∧ t.rd R.FDIA_INJCTL.INST = i % 256 ∧ s.dev.RegsBut [R.FDIA_INJCTL.POINT, R.FDIA_INJCTL.INST] t)) ∧
    (∀ p i : Nat, s.dev.domOn .h1 = true → Answers (.injectionStart .host p i) s (fun t =>
      (s.dev.injCode .host (p % 256) (i % 256) (s.dev.rd R.HDIA_INJPAR.PAR) ≠ 0 → t.rd R.HDIA_INJCTL.RESULT = 3 ∧
        t.rd R.HDIA_INJCTL.CODE = s.dev.injCode .host (p % 256) (i % 256) (s.dev.rd R.HDIA_INJPAR.PAR) ∧ t.inj = s.dev.inj ∧ t.Pends 120) ∧
      (s.dev.injCode .host (p % 256) (i % 256) (s.dev.rd R.HDIA_INJPAR.PAR) = 0 → t.rd R.HDIA_INJCTL.RESULT = 2 ∧ t.rd R.HDIA_INJCTL.CODE = 0 ∧
        t.inj.host.length = s.dev.inj.host.length + 1 ∧ t.isInjected (p % 256) (i % 256) = true ∧ t.inj.field = s.dev.inj.field ∧ t.Pends 120))) ∧
    (s.dev.domOn .f1 = true → (∀ x ∈ s.dev.inj.field, x.point < 32) → Answers (.injectionStop .field) s (fun t => t.inj.field = [] ∧ t.inj.host = s.dev.inj.host)) ∧
    (s.dev.domOn .h1 = true → (∀ x ∈ s.dev.inj.host, 32 ≤ x.point) → Answers (.injectionStop .host) s (fun t => t.inj.host = [] ∧ t.inj.field = s.dev.inj.field)) ∧
    (∀ p i : Nat, Answers (.injectionEnd p i) s (fun t => t.isInjected p i = false ∧ t.inj.tokenF = s.dev.inj.tokenF ∧ t.inj.tokenH = s.dev.inj.tokenH ∧
      ∀ q j : Nat, (q, j) ≠ (p, i) → t.injected q j = s.dev.injected q j)) ∧
    (s.dev.domOn .h1 = true → s.dev.jr.held = [] → Answers .journalAllowance s (fun t => t.jr = { s.dev.jr with allowance := min 64 (s.dev.jr.allowance + 1) } ∧
      s.dev.OnlyIn (Part.regs + Part.jr) t)) ∧
    (∀ (n : Fin 128) (x : FloodRec), s.dev.domOn .h1 = true → s.dev.jr.flood.find? (fun y => y.src == n.val) = some x → s.dev.jr.held = [] → s.dev.ringReady 24 = true →
      s.dev.jrnRingFits = true → Answers (.floodEnd n) s (fun t => t.jr.flood = s.dev.jr.flood.filter (fun y => y.src != n.val) ∧ t.jr.allowance = s.dev.jr.allowance ∧
        t.Pends 121)) ∧
    (∀ n : Fin 128, s.dev.jr.flood.find? (fun y => y.src == n.val) = none ∨ s.dev.jr.held.any (fun h => h.src == n.val) = true →
      Answers (.floodEnd n) s (fun t => t = s.dev)) ∧
    (∀ a : List Byte, s.dev.domOn .f1 = true → s.dev.ash.pend = true → s.dev.rd R.FDIA_ASHSTAT.STATE = 0 → Answers (.fieldAshReady a) s (fun t =>
      t.rd R.FDIA_ASHSTAT.STATE = 1 ∧ t.ash.pend = false ∧ t.ash.field.take 4 = leBytes 4 0x5341465A)) ∧
    (∀ a : List Byte, s.dev.ash.pend = false ∨ s.dev.rd R.FDIA_ASHSTAT.STATE ≠ 0 → Answers (.fieldAshReady a) s (fun t => t = s.dev)) ∧
    (∀ x : Nat, s.dev.domOn .f1 = true → s.dev.rd R.FDIA_ASHSTAT.STATE = 1 → Answers (.ashReqBegin x) s (fun t => t.rd R.FDIA_ASHSTAT.STATE = 2 ∧ t.ash.xfer = some x ∧
      t.ash.field = s.dev.ash.field ∧ s.dev.RegsBut [R.FDIA_ASHSTAT.STATE] t)) ∧
    (∀ x : Nat, s.dev.domOn .f1 = true → s.dev.rd R.FDIA_ASHSTAT.STATE ≠ 1 → Answers (.ashReqBegin x) s (fun t => t = s.dev.takeCell .field 0x74)) ∧
    (s.dev.domOn .f1 = true → Answers .fdiaAshctlClr s (fun t => t.rd R.FDIA_ASHSTAT.STATE = 0 ∧ t.ash.field = [] ∧ t.ash.pend = false ∧
      s.dev.RegsBut [R.FDIA_ASHSTAT.STATE] t)) ∧
    (s.dev.domOn .h1 = true → Answers .hdiaAshctlSnap s (fun t => s.dev.OnlyIn Part.hmem t ∧
      ∀ a : Nat, a < 0xFC001000 ∨ 0xFC010000 ≤ a → Mem.read t.hmem a = Mem.read s.dev.hmem a)) ∧
    (s.dev.domOn .h1 = true → Answers .hdiaAshctlExported s (fun t => t.ash.hState = 5 ∧ t.rd R.HDIA_ASHSTAT.STATE = 5 ∧ s.dev.OnlyIn (Part.regs + Part.ash) t)) ∧
    (∀ n : Nat, s.dev.domOn .h1 = true → s.dev.ash.hState = 1 → Answers (.ashGatherComplete n) s (fun t => t.ash.hState = 2 ∧ t.ash.hEnd = n ∧
      t.rd R.HDIA_ASHSTAT.STATE = 2 ∧ t.Pends 122)) ∧
    (∀ n : Nat, s.dev.ash.hState ≠ 1 → Answers (.ashGatherComplete n) s (fun t => t = s.dev)) ∧
    (∀ (sram : Bool) (a : Nat), s.dev.domOn (if sram then .h1 else .h4) = true →
      Answers (.hostEccError sram a false) s (fun t => t.rd R.HMEM_ECC.CORR = min 65535 (s.dev.rd R.HMEM_ECC.CORR + 1) ∧ t.Pends 68 ∧ t.busError = false ∧
        t.rd R.HMEM_ECCADDR.ADDR = (if sram then 0xFFFFFFFF else (a - 0x80000000) / 8 % 2 ^ 32)) ∧
      Answers (.hostEccError sram a true) s (fun t => t.rd R.HMEM_ECC.UNCORR = min 255 (s.dev.rd R.HMEM_ECC.UNCORR + 1) ∧ t.busError = true ∧
        t.Pends (if sram then 70 else 69) ∧ t.Pends 122 ∧
        (s.dev.ashFree = true → t.ash.hState = 1 ∧ t.ash.hCause = 8) ∧ (s.dev.ashFree = false → t.ash.hState = s.dev.ash.hState ∧ t.ash.hLost = s.dev.ash.hLost + 1))) ∧
    (∀ a : Nat, s.dev.domOn .h4 = true → Answers (.dramScrub [(a, false)]) s (fun t => t.rd R.HMEM_ECC.CORR = min 65535 (s.dev.rd R.HMEM_ECC.CORR + 1) ∧ t.Pends 68 ∧
        t.ash = s.dev.ash) ∧ Answers (.dramScrub []) s (fun t => t = s.dev) ∧
      Answers (.dramScrub [(a, true)]) s (fun t => t.rd R.HMEM_ECC.UNCORR = min 255 (s.dev.rd R.HMEM_ECC.UNCORR + 1) ∧ t.Pends 69 ∧ t.Pends 122)) ∧
    (∀ a : Nat, s.dev.domOn .f2 = true → Answers (.fmpWindowEccError a) s (fun t => t.rd R.CEN_ECC.UNCORR = min 255 (s.dev.rd R.CEN_ECC.UNCORR + 1) ∧
      s.dev.RegsBut [R.CEN_ECC.UNCORR] t ∧ s.dev.OnlyIn (Part.regs + Part.fl) t))

/-- For either die: a THR write with WARN < THROTTLE < SHUTDOWN ≤ 125 degrees, or a HYST write with each value from 1 to 20, is
stored, in whole degrees; every other one leaves every register as it is but for ORDERR, which reads 1. The reading update
that follows an accepted write uses the stored values: a reading at WARN sets WARN. (R388) -/
def Obligations.ThresholdsKeepTheirOrder : Prop :=
  ∀ s : State,
    (∀ x : Nat, s.dev.domOn .f1 = true → bits x 7 0 < bits x 15 8 → bits x 15 8 < bits x 23 16 → bits x 23 16 ≤ 125 → Answers (.thresholdWrite .field false x) s (fun t =>
      t.rd R.FTHM_THR.SHUTDOWN = bits x 23 16 ∧ t.rd R.FTHM_THR.THROTTLE = bits x 15 8 ∧ t.rd R.FTHM_THR.WARN = bits x 7 0 ∧ t.rd R.FTHM_STAT.ORDERR = 0)) ∧
    (∀ x : Nat, s.dev.domOn .f1 = true → ¬ (bits x 7 0 < bits x 15 8 ∧ bits x 15 8 < bits x 23 16 ∧ bits x 23 16 ≤ 125) → Answers (.thresholdWrite .field false x) s (fun t =>
      t.rd R.FTHM_STAT.ORDERR = 1 ∧ s.dev.RegsBut [R.FTHM_STAT.ORDERR] t ∧ s.dev.OnlyIn Part.regs t)) ∧
    (∀ x : Nat, s.dev.domOn .f1 = true → (∀ y ∈ [bits x 23 16, bits x 15 8, bits x 7 0], 1 ≤ y ∧ y ≤ 20) → Answers (.thresholdWrite .field true x) s (fun t =>
      t.rd R.FTHM_HYST.HSHUT = bits x 23 16 ∧ t.rd R.FTHM_HYST.HTHR = bits x 15 8 ∧ t.rd R.FTHM_HYST.HWARN = bits x 7 0 ∧ t.rd R.FTHM_STAT.ORDERR = 0)) ∧
    (∀ x : Nat, s.dev.domOn .f1 = true → ¬ (∀ y ∈ [bits x 23 16, bits x 15 8, bits x 7 0], 1 ≤ y ∧ y ≤ 20) → Answers (.thresholdWrite .field true x) s (fun t =>
      t.rd R.FTHM_STAT.ORDERR = 1 ∧ s.dev.RegsBut [R.FTHM_STAT.ORDERR] t ∧ s.dev.OnlyIn Part.regs t)) ∧
    (∀ x : Nat, s.dev.domOn .f1 = true → bits x 7 0 < bits x 15 8 → bits x 15 8 < bits x 23 16 → bits x 23 16 ≤ 125 → Answers (.thresholdWrite .field false x) s (fun t =>
      ∀ (conv : List (List Int)) (v : Nat → Int), conv.length = 12 → (∀ i : Fin 12, conv.getD i [] = [v i] ∧ -600 ≤ v i ∧ v i ≤ 1600) → s.dev.inj.field = [] →
        (∀ i : Fin 12, s.dev.rd (R.FTHM_TEMP.FAULT i) = 0) → (∃ i : Fin 12, 10 * (bits x 7 0 : Int) ≤ v i) →
        Answers (.thermalReading .field conv []) { s with dev := t } (fun u => u.rd R.FTHM_STAT.WARN = 1))) ∧
    (∀ x : Nat, s.dev.domOn .h1 = true → bits x 7 0 < bits x 15 8 → bits x 15 8 < bits x 23 16 → bits x 23 16 ≤ 125 → Answers (.thresholdWrite .host false x) s (fun t =>
      t.rd R.HTHM_THR.SHUTDOWN = bits x 23 16 ∧ t.rd R.HTHM_THR.THROTTLE = bits x 15 8 ∧ t.rd R.HTHM_THR.WARN = bits x 7 0 ∧ t.rd R.HTHM_STAT.ORDERR = 0)) ∧
    (∀ x : Nat, s.dev.domOn .h1 = true → ¬ (bits x 7 0 < bits x 15 8 ∧ bits x 15 8 < bits x 23 16 ∧ bits x 23 16 ≤ 125) → Answers (.thresholdWrite .host false x) s (fun t =>
      t.rd R.HTHM_STAT.ORDERR = 1 ∧ s.dev.RegsBut [R.HTHM_STAT.ORDERR] t ∧ s.dev.OnlyIn Part.regs t)) ∧
    (∀ x : Nat, s.dev.domOn .h1 = true → (∀ y ∈ [bits x 23 16, bits x 15 8, bits x 7 0], 1 ≤ y ∧ y ≤ 20) → Answers (.thresholdWrite .host true x) s (fun t =>
      t.rd R.HTHM_HYST.HSHUT = bits x 23 16 ∧ t.rd R.HTHM_HYST.HTHR = bits x 15 8 ∧ t.rd R.HTHM_HYST.HWARN = bits x 7 0 ∧ t.rd R.HTHM_STAT.ORDERR = 0)) ∧
    (∀ x : Nat, s.dev.domOn .h1 = true → ¬ (∀ y ∈ [bits x 23 16, bits x 15 8, bits x 7 0], 1 ≤ y ∧ y ≤ 20) → Answers (.thresholdWrite .host true x) s (fun t =>
      t.rd R.HTHM_STAT.ORDERR = 1 ∧ s.dev.RegsBut [R.HTHM_STAT.ORDERR] t ∧ s.dev.OnlyIn Part.regs t)) ∧
    (∀ x : Nat, s.dev.domOn .h1 = true → bits x 7 0 < bits x 15 8 → bits x 15 8 < bits x 23 16 → bits x 23 16 ≤ 125 → Answers (.thresholdWrite .host false x) s (fun t =>
      ∀ (conv : List (List Int)) (v : Nat → Int), conv.length = 8 → (∀ i : Fin 8, conv.getD i [] = [v i] ∧ -600 ≤ v i ∧ v i ≤ 1600) → s.dev.inj.host = [] →
        (∀ i : Fin 8, s.dev.rd (R.HTHM_TEMP.FAULT i) = 0) → (∃ i : Fin 8, 10 * (bits x 7 0 : Int) ≤ v i) →
        Answers (.thermalReading .host conv []) { s with dev := t } (fun u => u.rd R.HTHM_STAT.WARN = 1)))

/-- Which accesses of the FMP are bad, by address, direction and width, and what a bad access does: FSYS_BADADDR shows it with its
direction and address and counts to 15, a read returns 0, nothing else changes, no RC register is cleared, and the bus error
is raised only above F:0x023F_FFFF. An access that is not bad changes nothing here. That windows onto field SRAM belong to F2
and the NOR window to F1 is read from Table 4-1 (log entry 103). (R412, R413, R414, 22_register_map.md) -/
def Obligations.BadAccessesOfTheFmpChangeNothing : Prop :=
  ∀ (s : State) (a : Nat) (w n : Bool), s.dev.domOn .f1 = true →
    (s.dev.isBadField a w n = true ↔ (a < 0x800000 ∧ (n = true ∨ s.dev.regAt a = none)) ∨
      (∃ x : Dom, windowDom a = some x ∧ 0x800000 ≤ a ∧ (w = true ∨ s.dev.domOn x = false)) ∨ 0x2400000 ≤ a) ∧
    (s.dev.isBadField a w n = true → Answers (.badAccess a w n) s (fun t =>
      t.rd R.FSYS_BADADDR.VALID = 1 ∧ t.rd R.FSYS_BADADDR.WRITE = b2n w ∧ t.rd R.FSYS_BADADDR.ADDR = a % 2 ^ 26 ∧
      t.rd R.FSYS_BADADDR.COUNT = min 15 (s.dev.rd R.FSYS_BADADDR.COUNT + 1) ∧ (w = false → t.lastRead = 0) ∧ (w = true → t.lastRead = s.dev.lastRead) ∧
      (t.busError = true ↔ 0x2400000 ≤ a) ∧
      s.dev.RegsBut [R.FSYS_BADADDR.VALID, R.FSYS_BADADDR.WRITE, R.FSYS_BADADDR.COUNT, R.FSYS_BADADDR.ADDR] t ∧
      s.dev.OnlyIn (Part.regs + Part.lastRead + Part.busError) t)) ∧
    (s.dev.isBadField a w n = false → Answers (.badAccess a w n) s (fun t => t = s.dev))

/-- A host access in H:0x2000_0000 to 0x200B_FFFF that is reserved or narrower completes without a bus error: a read returns 0, a
write changes nothing but the record of HSYS event 71, which is raised with the address. Outside that range an access of
R337's kind ends in a bus error with event 71, and any other has no effect here. (R417) -/
def Obligations.HostReservedAccessesReadZero : Prop :=
  ∀ (s : State) (a : Nat) (w n m : Bool), s.dev.domOn .h1 = true →
    (0x20000000 ≤ a → a ≤ 0x200BFFFF → n = true ∨ s.dev.regAt a = none → Answers (.hostBadAccess a w n m) s (fun t =>
      t = { s.dev.raiseH 71 0 [a] with lastRead := if w then s.dev.lastRead else 0, busError := false } ∧ t.Pends 71 ∧
      (w = false → t.lastRead = 0) ∧ t.busError = false ∧
      s.dev.OnlyIn (Part.regs + Part.hmem + Part.jr + Part.rings + Part.lastRead + Part.busError) t ∧
      ∀ g : Fld, g.addr < 0x20020000 ∨ (0x20040000 ≤ g.addr ∧ g.addr < 0x20090000 ∨ 0x200A0000 ≤ g.addr) → g.lo < 32 → t.rd g = s.dev.rd g)) ∧
    (a < 0x20000000 ∨ 0x200BFFFF < a → s.dev.hostBusError a w m = true → Answers (.hostBadAccess a w n m) s (fun t => t.busError = true ∧ t.Pends 71 ∧
      t.lastRead = s.dev.lastRead)) ∧
    (a < 0x20000000 ∨ 0x200BFFFF < a → s.dev.hostBusError a w m = false → Answers (.hostBadAccess a w n m) s (fun t => t = s.dev))

/-- A write by the FMP to a register of a block whose registers have no effect of their own stores each RW field within the range
its table states, clears the W1C bits written 1, and leaves RO and RC fields. A read of such a register answers the word and
then its RC fields read their reset value. A read of the LO word of a 64-bit value answers its low half and latches the high
half in HI. A host write to SRAM stores its four bytes and a host read returns them. A write outside what the host may reach
ends in a bus error. (R7, R111, R337, Table 0-3, 00_scope.md, 22_register_map.md) -/
def Obligations.RegisterAccessesFollowTheirType : Prop :=
  ∀ s : State,
    (∀ (a v : Nat) (r : RegDesc), s.dev.domOn .f1 = true → (a / 0x10000 = 0x01 ∨ a / 0x10000 = 0x12 ∨ a / 0x10000 = 0x13) → s.dev.regAt a = some r → (r.fields.map (fun fd => fd.lo)).Nodup →
      Answers (.registerWrite a v) s (fun t => t.busError = false ∧ (∀ fd ∈ r.fields,
        (fd.acc = .rw → t.rd (fd.at a) = clampNat (v % 2 ^ 32 / 2 ^ fd.lo % 2 ^ fd.width) fd.low fd.high % 2 ^ fd.width) ∧
        (fd.acc = .w1c → t.rd (fd.at a) = Nat.land (s.dev.rd (fd.at a)) (2 ^ fd.width - 1 - v % 2 ^ 32 / 2 ^ fd.lo % 2 ^ fd.width) % 2 ^ fd.width) ∧
        (fd.acc = .ro ∨ fd.acc = .rc ∨ fd.acc = .rws ∨ fd.acc = .wo → t.rd (fd.at a) = s.dev.rd (fd.at a))) ∧
        (∀ g : Fld, (∀ fd ∈ r.fields, (fd.at a).key ≠ g.key) → t.rd g = s.dev.rd g) ∧ s.dev.OnlyIn (Part.regs + Part.busError) t)) ∧
    (∀ (a : Nat) (r : RegDesc), s.dev.domOn .f1 = true → a / 0x10000 = 0x29 → s.dev.view a = none → s.dev.regAt a = some r →
      (r.fields.map (fun fd => fd.lo)).Nodup → Answers (.registerReadClear a) s (fun t => t.lastRead = s.dev.word r a ∧ t.busError = false ∧
        (∀ fd ∈ r.fields, fd.acc = .rc → t.rd (fd.at a) = fd.reset % 2 ^ fd.width) ∧ (∀ fd ∈ r.fields, fd.acc ≠ .rc → t.rd (fd.at a) = s.dev.rd (fd.at a)) ∧
        s.dev.OnlyIn (Part.regs + Part.lastRead + Part.busError) t)) ∧
    (s.dev.domOn .f1 = true → Answers (.latchedPairRead R.STC_NOW_LO.NS.addr) s (fun t => t.lastRead = s.dev.stcNs % 2 ^ 32 ∧
      t.rd R.STC_NOW_HI.NS = s.dev.stcNs / 2 ^ 32 % 2 ^ 32 ∧ t.rd R.STC_NOW_FR.FR = s.dev.stcFr % 2 ^ R.STC_NOW_FR.FR.width)) ∧
    (s.dev.domOn .h1 = true → Answers (.latchedPairRead R.HSYS_HTC_LO.NS.addr) s (fun t => t.lastRead = s.dev.htcNs % 2 ^ 32 ∧
      t.rd R.HSYS_HTC_HI.NS = s.dev.htcNs / 2 ^ 32 % 2 ^ 32)) ∧
    (s.dev.domOn .f1 = true → s.dev.domOn .f2 = true → Answers (.latchedPairRead R.CEN_TICK_LO.K.addr) s (fun t => t.lastRead = s.dev.ce.k % 2 ^ 32 ∧
      t.rd R.CEN_TICK_HI.K = s.dev.ce.k / 2 ^ 32 % 2 ^ 32)) ∧
    (s.dev.domOn .f1 = true → Answers (.latchedPairRead R.BIL_SEQ_LO.SEQ.addr) s (fun t => t.lastRead = s.dev.bil.seq % 2 ^ 32 ∧
      t.rd R.BIL_SEQ_HI.SEQ = s.dev.bil.seq / 2 ^ 32 % 2 ^ 32)) ∧
    (∀ a v : Nat, s.dev.domOn .h1 = true → 0x10000000 ≤ a → a ≤ 0x107FFFFC → a % 4 = 0 →
      Answers (.registerWrite a v) s (fun t => Mem.readNat t.hmem a 4 = v % 2 ^ 32 ∧ s.dev.OnlyIn (Part.hmem + Part.busError) t ∧
        ∀ b : Nat, b < a ∨ a + 4 ≤ b → Mem.read t.hmem b = Mem.read s.dev.hmem b) ∧
      Answers (.registerReadClear a) s (fun t => t.lastRead = Mem.readNat s.dev.hmem a 4 ∧ s.dev.OnlyIn (Part.lastRead + Part.busError) t)) ∧
    (∀ a v : Nat, s.dev.domOn .h1 = true → a ≤ 0xFFFF → Answers (.registerWrite (a + 0x40000000) v) s (fun t => t.busError = true ∧ t.Pends 71 ∧
      t.lastRead = s.dev.lastRead))

/-- With a command at the front of its queue, a step is exec of that command on the state with the queue's rest. With an empty
queue the step answers a state in which only the time counters changed, each by at most one 400 MHz cycle: the STC's while F1
is on, the host counter while H1 is on. That an empty queue passes a cycle is the model's choice (log entry 1). (R95, R96,
00_scope.md) -/
def Obligations.StepRunsTheFrontOrIdles : Prop :=
  (∀ (c : Instr) (s : State), step { s with pending := c :: s.pending } = exec c s) ∧
  (∀ s : State, s.pending = [] → ∃ t : State, step s = .next t ∧ t.pending = [] ∧ s.dev.OnlyIn Part.tm t.dev ∧
    t.dev.tm.q = (if s.dev.domOn .f1 then s.dev.tm.q + 1 else s.dev.tm.q) ∧ t.dev.tm.f0 = (if s.dev.domOn .f0 then s.dev.tm.f0 + 1 else s.dev.tm.f0) ∧
    t.dev.tm.hq = (if s.dev.domOn .h1 then s.dev.tm.hq + 1 else s.dev.tm.hq) ∧ t.dev.tm.rtc = (if s.dev.domOn .h0 then s.dev.tm.rtc + 1 else s.dev.tm.rtc))

/-- From every state every command answers a next state whose queue is the one it was given, and every part of the block that the
command's footprint does not name is the same after it as before. (R14, 01_architecture.md) -/
def Obligations.EveryCommandKeepsItsFootprint : Prop :=
  ∀ (c : Instr) (s : State), Within (footprint c) c s

/-- From a state whose register file has strictly rising keys a step answers such a state; from a state whose field and host
memories have strictly rising addresses with no entry equal to an unwritten byte it answers such a state; and from a state in
which every list that stands for a fixed number of like things (axes, trip inputs, ports, subscriptions, satellites, image
slots, fuse slots and so on) has that many entries it answers such a state. (R5, 22_register_map.md) -/
def Obligations.EveryStepKeepsTheCanonicalForm : Prop :=
  ∀ s t : State, step s = .next t →
    (RegsCanonical s → RegsCanonical t) ∧ (MemCanonical s → MemCanonical t) ∧ (s.dev.Shaped → t.dev.Shaped)

/-- At reset every register field reads the reset value of its table, memory lists nothing and is canonical, every list of fixed
size has its size, no command waits, both flue directions are down, no injection is active, no token is held, and the host and
field side are powered with what the tables of FSYS_PWRSTAT and HSYS_PWRSTAT say. Fuse contents are the model's choice (log
entry 9). (R10, R35, 02_modes_power_reset.md) -/
def Obligations.ResetIsAsTheTablesSay : Prop :=
  (∀ f : Fld, State.reset.dev.rd f = f.reset) ∧ State.reset.dev.fmem = [] ∧ State.reset.dev.hmem = [] ∧ State.reset.pending = [] ∧
  RegsCanonical State.reset ∧ MemCanonical State.reset ∧ State.reset.dev.Shaped ∧ State.reset.dev.mode = .kindling ∧ State.reset.dev.fl.up = false ∧ State.reset.dev.inj.field = [] ∧
  State.reset.dev.inj.host = [] ∧ State.reset.dev.inj.tokenF = none ∧ State.reset.dev.inj.tokenH = none ∧ State.reset.dev.domOn .f1 = true ∧
  State.reset.dev.domOn .h1 = true ∧ State.reset.dev.domOn .f4 = false ∧ State.reset.dev.domOn .h3 = false

/-- Over every step the root, mask, seed, UID and variant of either die stay, and every lifecycle bit, programmed slot, revocation
bit, the seal and the continuity mark that were blown are blown after it; the number of slots stays. (R361, R362, R363, R374,
19_security.md) -/
def Obligations.FusesAreBlownOneWay : Prop :=
  ∀ s t : State, step s = .next t → Fuses.Le s.dev.ffuse t.dev.ffuse ∧ Fuses.Le s.dev.hfuse t.dev.hfuse
end

