-- ==== Sys2Proof/Laws/PerInstr.lean ====
section
/-! SUPPORT. Statements about every command as syntax, one lemma per constructor. -/

namespace Sys2Proof

/-- No word of the opcode table spells the command: the table gives bits for no row. -/
def Laws.NoWord.Statement (i : Sys2Proof.Instr) : Prop := ∀ nbits w : Nat, Sys2Proof.decodeTableWord nbits w ≠ some i

theorem Laws.NoWord.all (i : Sys2Proof.Instr) : Sys2Proof.Laws.NoWord.Statement i := fun _ _ h => nomatch h

theorem Laws.NoWord.powerOnReset (side : Side) : Sys2Proof.Laws.NoWord.Statement (.powerOnReset side) := Sys2Proof.Laws.NoWord.all _
theorem Laws.NoWord.supplyMonitorReset (side : Side) : Sys2Proof.Laws.NoWord.Statement (.supplyMonitorReset side) := Sys2Proof.Laws.NoWord.all _
theorem Laws.NoWord.batterySwitchover (side : Side) (toBattery : Bool) : Sys2Proof.Laws.NoWord.Statement (.batterySwitchover side toBattery) := Sys2Proof.Laws.NoWord.all _
theorem Laws.NoWord.watchdogService (side : Side) (value : Nat) : Sys2Proof.Laws.NoWord.Statement (.watchdogService side value) := Sys2Proof.Laws.NoWord.all _
theorem Laws.NoWord.watchdogStage1 (side : Side) : Sys2Proof.Laws.NoWord.Statement (.watchdogStage1 side) := Sys2Proof.Laws.NoWord.all _
theorem Laws.NoWord.watchdogStage2Field : Sys2Proof.Laws.NoWord.Statement (.watchdogStage2Field) := Sys2Proof.Laws.NoWord.all _
theorem Laws.NoWord.watchdogStage2Host : Sys2Proof.Laws.NoWord.Statement (.watchdogStage2Host) := Sys2Proof.Laws.NoWord.all _
theorem Laws.NoWord.swFmp (key : Nat) : Sys2Proof.Laws.NoWord.Statement (.swFmp key) := Sys2Proof.Laws.NoWord.all _
theorem Laws.NoWord.swField (key : Nat) : Sys2Proof.Laws.NoWord.Statement (.swField key) := Sys2Proof.Laws.NoWord.all _
theorem Laws.NoWord.swWarm (key : Nat) : Sys2Proof.Laws.NoWord.Statement (.swWarm key) := Sys2Proof.Laws.NoWord.all _
theorem Laws.NoWord.swCold (key : Nat) : Sys2Proof.Laws.NoWord.Statement (.swCold key) := Sys2Proof.Laws.NoWord.all _
theorem Laws.NoWord.lsFmp : Sys2Proof.Laws.NoWord.Statement (.lsFmp) := Sys2Proof.Laws.NoWord.all _
theorem Laws.NoWord.lsMet : Sys2Proof.Laws.NoWord.Statement (.lsMet) := Sys2Proof.Laws.NoWord.all _
theorem Laws.NoWord.ceLockstepMismatch : Sys2Proof.Laws.NoWord.Statement (.ceLockstepMismatch) := Sys2Proof.Laws.NoWord.all _
theorem Laws.NoWord.lsEnc : Sys2Proof.Laws.NoWord.Statement (.lsEnc) := Sys2Proof.Laws.NoWord.all _
theorem Laws.NoWord.thermalReset (side : Side) : Sys2Proof.Laws.NoWord.Statement (.thermalReset side) := Sys2Proof.Laws.NoWord.all _
theorem Laws.NoWord.fmpRestartComplete : Sys2Proof.Laws.NoWord.Statement (.fmpRestartComplete) := Sys2Proof.Laws.NoWord.all _
theorem Laws.NoWord.bootComplete (selfTest image : Bool) : Sys2Proof.Laws.NoWord.Statement (.bootComplete selfTest image) := Sys2Proof.Laws.NoWord.all _
theorem Laws.NoWord.modeReq (tag target : Nat) : Sys2Proof.Laws.NoWord.Statement (.modeReq tag target) := Sys2Proof.Laws.NoWord.all _
theorem Laws.NoWord.reArm (tag target : Nat) (ack : Bool) : Sys2Proof.Laws.NoWord.Statement (.reArm tag target ack) := Sys2Proof.Laws.NoWord.all _
theorem Laws.NoWord.fsysModereq (target : Fin 16) : Sys2Proof.Laws.NoWord.Statement (.fsysModereq target) := Sys2Proof.Laws.NoWord.all _
theorem Laws.NoWord.fsysModereqRearm (target : Fin 16) : Sys2Proof.Laws.NoWord.Statement (.fsysModereqRearm target) := Sys2Proof.Laws.NoWord.all _
theorem Laws.NoWord.sampleInstant (blockSwitch : Bool) : Sys2Proof.Laws.NoWord.Statement (.sampleInstant blockSwitch) := Sys2Proof.Laws.NoWord.all _
theorem Laws.NoWord.tHbExpiry : Sys2Proof.Laws.NoWord.Statement (.tHbExpiry) := Sys2Proof.Laws.NoWord.all _
theorem Laws.NoWord.tAutoExpiry : Sys2Proof.Laws.NoWord.Statement (.tAutoExpiry) := Sys2Proof.Laws.NoWord.all _
theorem Laws.NoWord.quenchLimitExpiry : Sys2Proof.Laws.NoWord.Statement (.quenchLimitExpiry) := Sys2Proof.Laws.NoWord.all _
theorem Laws.NoWord.blockDisableRequest (block : Block) : Sys2Proof.Laws.NoWord.Statement (.blockDisableRequest block) := Sys2Proof.Laws.NoWord.all _
theorem Laws.NoWord.blockEnableRequest (block : Block) : Sys2Proof.Laws.NoWord.Statement (.blockEnableRequest block) := Sys2Proof.Laws.NoWord.all _
theorem Laws.NoWord.drainComplete (block : Block) : Sys2Proof.Laws.NoWord.Statement (.drainComplete block) := Sys2Proof.Laws.NoWord.all _
theorem Laws.NoWord.flueLinkUp : Sys2Proof.Laws.NoWord.Statement (.flueLinkUp) := Sys2Proof.Laws.NoWord.all _
theorem Laws.NoWord.flueRetrain (sender : Side) (lane : Fin 2) (fails : Nat) : Sys2Proof.Laws.NoWord.Statement (.flueRetrain sender lane fails) := Sys2Proof.Laws.NoWord.all _
theorem Laws.NoWord.flueCellSlot (sender : Side) : Sys2Proof.Laws.NoWord.Statement (.flueCellSlot sender) := Sys2Proof.Laws.NoWord.all _
theorem Laws.NoWord.flueCellReceive (receiver : Side) (cell : List Byte) : Sys2Proof.Laws.NoWord.Statement (.flueCellReceive receiver cell) := Sys2Proof.Laws.NoWord.all _
theorem Laws.NoWord.heartbeat (hbSeq hostState : Nat) : Sys2Proof.Laws.NoWord.Statement (.heartbeat hbSeq hostState) := Sys2Proof.Laws.NoWord.all _
theorem Laws.NoWord.hbAck (hbSeq modeWord stc : Nat) : Sys2Proof.Laws.NoWord.Statement (.hbAck hbSeq modeWord stc) := Sys2Proof.Laws.NoWord.all _
theorem Laws.NoWord.tripDevice (scope index msgid reason : Nat) : Sys2Proof.Laws.NoWord.Statement (.tripDevice scope index msgid reason) := Sys2Proof.Laws.NoWord.all _
theorem Laws.NoWord.tripOutput (index msgid reason : Nat) : Sys2Proof.Laws.NoWord.Statement (.tripOutput index msgid reason) := Sys2Proof.Laws.NoWord.all _
theorem Laws.NoWord.tripLegGroup (index msgid reason : Nat) : Sys2Proof.Laws.NoWord.Statement (.tripLegGroup index msgid reason) := Sys2Proof.Laws.NoWord.all _
theorem Laws.NoWord.quenchAll (msgid reason : Nat) : Sys2Proof.Laws.NoWord.Statement (.quenchAll msgid reason) := Sys2Proof.Laws.NoWord.all _
theorem Laws.NoWord.quenchOut (mask : Fin 16) (msgid reason : Nat) : Sys2Proof.Laws.NoWord.Statement (.quenchOut mask msgid reason) := Sys2Proof.Laws.NoWord.all _
theorem Laws.NoWord.paramWr (payload : List Byte) : Sys2Proof.Laws.NoWord.Statement (.paramWr payload) := Sys2Proof.Laws.NoWord.all _
theorem Laws.NoWord.paramRd (payload : List Byte) : Sys2Proof.Laws.NoWord.Statement (.paramRd payload) := Sys2Proof.Laws.NoWord.all _
theorem Laws.NoWord.targetSet (payload : List Byte) : Sys2Proof.Laws.NoWord.Statement (.targetSet payload) := Sys2Proof.Laws.NoWord.all _
theorem Laws.NoWord.paramRsp (tag status index count ty : Nat) (values : List Nat) : Sys2Proof.Laws.NoWord.Statement (.paramRsp tag status index count ty values) := Sys2Proof.Laws.NoWord.all _
theorem Laws.NoWord.timeSync (stc fr state source utc err : Nat) : Sys2Proof.Laws.NoWord.Statement (.timeSync stc fr state source utc err) := Sys2Proof.Laws.NoWord.all _
theorem Laws.NoWord.event (number : Fin 64) (kind count first last : Nat) (data : List Nat) : Sys2Proof.Laws.NoWord.Statement (.event number kind count first last data) := Sys2Proof.Laws.NoWord.all _
theorem Laws.NoWord.telemetry (block inst window ms : Nat) (values : List Nat) : Sys2Proof.Laws.NoWord.Statement (.telemetry block inst window ms values) := Sys2Proof.Laws.NoWord.all _
theorem Laws.NoWord.recordReady (output kind number stc : Nat) : Sys2Proof.Laws.NoWord.Statement (.recordReady output kind number stc) := Sys2Proof.Laws.NoWord.all _
theorem Laws.NoWord.imgCtrlBegin (xfer length : Nat) : Sys2Proof.Laws.NoWord.Statement (.imgCtrlBegin xfer length) := Sys2Proof.Laws.NoWord.all _
theorem Laws.NoWord.imgData (xfer offset : Nat) (bytes : List Byte) : Sys2Proof.Laws.NoWord.Statement (.imgData xfer offset bytes) := Sys2Proof.Laws.NoWord.all _
theorem Laws.NoWord.imgCtrlEnd (xfer : Nat) (digest : List Byte) : Sys2Proof.Laws.NoWord.Statement (.imgCtrlEnd xfer digest) := Sys2Proof.Laws.NoWord.all _
theorem Laws.NoWord.imgCtrlAbort (xfer : Nat) : Sys2Proof.Laws.NoWord.Statement (.imgCtrlAbort xfer) := Sys2Proof.Laws.NoWord.all _
theorem Laws.NoWord.imgStat (xfer status : Nat) : Sys2Proof.Laws.NoWord.Statement (.imgStat xfer status) := Sys2Proof.Laws.NoWord.all _
theorem Laws.NoWord.streamValidationComplete (damaged : Bool) : Sys2Proof.Laws.NoWord.Statement (.streamValidationComplete damaged) := Sys2Proof.Laws.NoWord.all _
theorem Laws.NoWord.stsPersist (value : Nat) : Sys2Proof.Laws.NoWord.Statement (.stsPersist value) := Sys2Proof.Laws.NoWord.all _
theorem Laws.NoWord.persistComplete (readBack : Bool) : Sys2Proof.Laws.NoWord.Statement (.persistComplete readBack) := Sys2Proof.Laws.NoWord.all _
theorem Laws.NoWord.stsSwapctlArm : Sys2Proof.Laws.NoWord.Statement (.stsSwapctlArm) := Sys2Proof.Laws.NoWord.all _
theorem Laws.NoWord.stsSwapctlCancel : Sys2Proof.Laws.NoWord.Statement (.stsSwapctlCancel) := Sys2Proof.Laws.NoWord.all _
theorem Laws.NoWord.streamSwap : Sys2Proof.Laws.NoWord.Statement (.streamSwap) := Sys2Proof.Laws.NoWord.all _
theorem Laws.NoWord.ppsInEdge (cap : Nat) : Sys2Proof.Laws.NoWord.Statement (.ppsInEdge cap) := Sys2Proof.Laws.NoWord.all _
theorem Laws.NoWord.ppsMissingSecond : Sys2Proof.Laws.NoWord.Statement (.ppsMissingSecond) := Sys2Proof.Laws.NoWord.all _
theorem Laws.NoWord.ptpMessage (port : Fin 2) (rx : Int) (m : PtpMsg) : Sys2Proof.Laws.NoWord.Statement (.ptpMessage port rx m) := Sys2Proof.Laws.NoWord.all _
theorem Laws.NoWord.pdelayReqSend (port : Fin 2) : Sys2Proof.Laws.NoWord.Statement (.pdelayReqSend port) := Sys2Proof.Laws.NoWord.all _
theorem Laws.NoWord.ptpOffsetSample (port : Fin 2) (ofs : Int) : Sys2Proof.Laws.NoWord.Statement (.ptpOffsetSample port ofs) := Sys2Proof.Laws.NoWord.all _
theorem Laws.NoWord.ptpSampleTimeout (port : Fin 2) : Sys2Proof.Laws.NoWord.Statement (.ptpSampleTimeout port) := Sys2Proof.Laws.NoWord.all _
theorem Laws.NoWord.servoSampleTimeout : Sys2Proof.Laws.NoWord.Statement (.servoSampleTimeout) := Sys2Proof.Laws.NoWord.all _
theorem Laws.NoWord.stcStep : Sys2Proof.Laws.NoWord.Statement (.stcStep) := Sys2Proof.Laws.NoWord.all _
theorem Laws.NoWord.esterrLimit : Sys2Proof.Laws.NoWord.Statement (.esterrLimit) := Sys2Proof.Laws.NoWord.all _
theorem Laws.NoWord.stcSecond : Sys2Proof.Laws.NoWord.Statement (.stcSecond) := Sys2Proof.Laws.NoWord.all _
theorem Laws.NoWord.ppsOutFall : Sys2Proof.Laws.NoWord.Statement (.ppsOutFall) := Sys2Proof.Laws.NoWord.all _
theorem Laws.NoWord.stcSetsecHiArm (value : Nat) : Sys2Proof.Laws.NoWord.Statement (.stcSetsecHiArm value) := Sys2Proof.Laws.NoWord.all _
theorem Laws.NoWord.stcNowLoRead : Sys2Proof.Laws.NoWord.Statement (.stcNowLoRead) := Sys2Proof.Laws.NoWord.all _
theorem Laws.NoWord.stcMillisecond : Sys2Proof.Laws.NoWord.Statement (.stcMillisecond) := Sys2Proof.Laws.NoWord.all _
theorem Laws.NoWord.tenUsGrid : Sys2Proof.Laws.NoWord.Statement (.tenUsGrid) := Sys2Proof.Laws.NoWord.all _
theorem Laws.NoWord.measurementLatch (bits : List (Nat × List Bool)) : Sys2Proof.Laws.NoWord.Statement (.measurementLatch bits) := Sys2Proof.Laws.NoWord.all _
theorem Laws.NoWord.writePhase : Sys2Proof.Laws.NoWord.Statement (.writePhase) := Sys2Proof.Laws.NoWord.all _
theorem Laws.NoWord.ceMvm (a : CeArgs) (ecc : Option EccHit) : Sys2Proof.Laws.NoWord.Statement (.ceMvm a ecc) := Sys2Proof.Laws.NoWord.all _
theorem Laws.NoWord.ceMva (a : CeArgs) (ecc : Option EccHit) : Sys2Proof.Laws.NoWord.Statement (.ceMva a ecc) := Sys2Proof.Laws.NoWord.all _
theorem Laws.NoWord.ceWb (a : CeArgs) (ecc : Option EccHit) : Sys2Proof.Laws.NoWord.Statement (.ceWb a ecc) := Sys2Proof.Laws.NoWord.all _
theorem Laws.NoWord.ceVadd (a : CeArgs) (ecc : Option EccHit) : Sys2Proof.Laws.NoWord.Statement (.ceVadd a ecc) := Sys2Proof.Laws.NoWord.all _
theorem Laws.NoWord.ceVsub (a : CeArgs) (ecc : Option EccHit) : Sys2Proof.Laws.NoWord.Statement (.ceVsub a ecc) := Sys2Proof.Laws.NoWord.all _
theorem Laws.NoWord.ceVlim (a : CeArgs) (ecc : Option EccHit) : Sys2Proof.Laws.NoWord.Statement (.ceVlim a ecc) := Sys2Proof.Laws.NoWord.all _
theorem Laws.NoWord.ceMov (a : CeArgs) (ecc : Option EccHit) : Sys2Proof.Laws.NoWord.Statement (.ceMov a ecc) := Sys2Proof.Laws.NoWord.all _
theorem Laws.NoWord.ceLut (a : CeArgs) (ecc : Option EccHit) : Sys2Proof.Laws.NoWord.Statement (.ceLut a ecc) := Sys2Proof.Laws.NoWord.all _
theorem Laws.NoWord.ceSlew (a : CeArgs) (ecc : Option EccHit) : Sys2Proof.Laws.NoWord.Statement (.ceSlew a ecc) := Sys2Proof.Laws.NoWord.all _
theorem Laws.NoWord.ceBq (a : CeArgs) (ecc : Option EccHit) : Sys2Proof.Laws.NoWord.Statement (.ceBq a ecc) := Sys2Proof.Laws.NoWord.all _
theorem Laws.NoWord.ceResid (a : CeArgs) (ecc : Option EccHit) : Sys2Proof.Laws.NoWord.Statement (.ceResid a ecc) := Sys2Proof.Laws.NoWord.all _
theorem Laws.NoWord.ceFerr (a : CeArgs) (ecc : Option EccHit) : Sys2Proof.Laws.NoWord.Statement (.ceFerr a ecc) := Sys2Proof.Laws.NoWord.all _
theorem Laws.NoWord.ceIdle (a : CeArgs) : Sys2Proof.Laws.NoWord.Statement (.ceIdle a) := Sys2Proof.Laws.NoWord.all _
theorem Laws.NoWord.ceEnd (a : CeArgs) : Sys2Proof.Laws.NoWord.Statement (.ceEnd a) := Sys2Proof.Laws.NoWord.all _
theorem Laws.NoWord.cenDbgHalt (halt : Bool) : Sys2Proof.Laws.NoWord.Statement (.cenDbgHalt halt) := Sys2Proof.Laws.NoWord.all _
theorem Laws.NoWord.cenDbgStep : Sys2Proof.Laws.NoWord.Statement (.cenDbgStep) := Sys2Proof.Laws.NoWord.all _
theorem Laws.NoWord.lawManWrite (block : Fin 8) (value : Nat) : Sys2Proof.Laws.NoWord.Statement (.lawManWrite block value) := Sys2Proof.Laws.NoWord.all _
theorem Laws.NoWord.encoderTransition (axis : Fin 4) (a b : Bool) : Sys2Proof.Laws.NoWord.Statement (.encoderTransition axis a b) := Sys2Proof.Laws.NoWord.all _
theorem Laws.NoWord.encoderIndexEdge (axis : Fin 4) : Sys2Proof.Laws.NoWord.Statement (.encoderIndexEdge axis) := Sys2Proof.Laws.NoWord.all _
theorem Laws.NoWord.axisEnable (axis : Fin 4) : Sys2Proof.Laws.NoWord.Statement (.axisEnable axis) := Sys2Proof.Laws.NoWord.all _
theorem Laws.NoWord.axisDisable (axis : Fin 4) : Sys2Proof.Laws.NoWord.Statement (.axisDisable axis) := Sys2Proof.Laws.NoWord.all _
theorem Laws.NoWord.axisClr (axis : Fin 4) : Sys2Proof.Laws.NoWord.Statement (.axisClr axis) := Sys2Proof.Laws.NoWord.all _
theorem Laws.NoWord.stoptimeExpiry (axis : Fin 4) : Sys2Proof.Laws.NoWord.Statement (.stoptimeExpiry axis) := Sys2Proof.Laws.NoWord.all _
theorem Laws.NoWord.dgrVarreq (block : Fin 8) (value : Nat) : Sys2Proof.Laws.NoWord.Statement (.dgrVarreq block value) := Sys2Proof.Laws.NoWord.all _
theorem Laws.NoWord.dgrLostWrite (block : Fin 8) (value : Nat) : Sys2Proof.Laws.NoWord.Statement (.dgrLostWrite block value) := Sys2Proof.Laws.NoWord.all _
theorem Laws.NoWord.legSheddingEvaluation : Sys2Proof.Laws.NoWord.Statement (.legSheddingEvaluation) := Sys2Proof.Laws.NoWord.all _
theorem Laws.NoWord.periodStart (leg : Fin 80) : Sys2Proof.Laws.NoWord.Statement (.periodStart leg) := Sys2Proof.Laws.NoWord.all _
theorem Laws.NoWord.pwmGrpdivWrite (group : Fin 20) (value : Nat) : Sys2Proof.Laws.NoWord.Statement (.pwmGrpdivWrite group value) := Sys2Proof.Laws.NoWord.all _
theorem Laws.NoWord.pwmForceWrite (leg : Fin 80) (value : Nat) : Sys2Proof.Laws.NoWord.Statement (.pwmForceWrite leg value) := Sys2Proof.Laws.NoWord.all _
theorem Laws.NoWord.tripInputFall (input : Fin 96) : Sys2Proof.Laws.NoWord.Statement (.tripInputFall input) := Sys2Proof.Laws.NoWord.all _
theorem Laws.NoWord.tripQualification (input : Fin 96) : Sys2Proof.Laws.NoWord.Statement (.tripQualification input) := Sys2Proof.Laws.NoWord.all _
theorem Laws.NoWord.tripInputRise (input : Fin 96) : Sys2Proof.Laws.NoWord.Statement (.tripInputRise input) := Sys2Proof.Laws.NoWord.all _
theorem Laws.NoWord.trpClr (word : Fin 3) (value : Nat) : Sys2Proof.Laws.NoWord.Statement (.trpClr word value) := Sys2Proof.Laws.NoWord.all _
theorem Laws.NoWord.trpSwclr (value : Nat) : Sys2Proof.Laws.NoWord.Statement (.trpSwclr value) := Sys2Proof.Laws.NoWord.all _
theorem Laws.NoWord.syncInEdge (cap : Nat) : Sys2Proof.Laws.NoWord.Statement (.syncInEdge cap) := Sys2Proof.Laws.NoWord.all _
theorem Laws.NoWord.syncInMissing : Sys2Proof.Laws.NoWord.Statement (.syncInMissing) := Sys2Proof.Laws.NoWord.all _
theorem Laws.NoWord.syncInEnable : Sys2Proof.Laws.NoWord.Statement (.syncInEnable) := Sys2Proof.Laws.NoWord.all _
theorem Laws.NoWord.syncInDisable : Sys2Proof.Laws.NoWord.Statement (.syncInDisable) := Sys2Proof.Laws.NoWord.all _
theorem Laws.NoWord.triggerCompare (group : Fin 20) (cmp : Fin 4) : Sys2Proof.Laws.NoWord.Statement (.triggerCompare group cmp) := Sys2Proof.Laws.NoWord.all _
theorem Laws.NoWord.modConditionPresent (kind : Fin 3) (index : Fin 128) : Sys2Proof.Laws.NoWord.Statement (.modConditionPresent kind index) := Sys2Proof.Laws.NoWord.all _
theorem Laws.NoWord.modConditionEnd (kind : Fin 3) (index : Fin 128) : Sys2Proof.Laws.NoWord.Statement (.modConditionEnd kind index) := Sys2Proof.Laws.NoWord.all _
theorem Laws.NoWord.fbaConversionSlot (conv : Fin 2) (raw : Int) : Sys2Proof.Laws.NoWord.Statement (.fbaConversionSlot conv raw) := Sys2Proof.Laws.NoWord.all _
theorem Laws.NoWord.ctrStart (seq : Nat) : Sys2Proof.Laws.NoWord.Statement (.ctrStart seq) := Sys2Proof.Laws.NoWord.all _
theorem Laws.NoWord.ctrSequencerBoundary (fb : Nat) : Sys2Proof.Laws.NoWord.Statement (.ctrSequencerBoundary fb) := Sys2Proof.Laws.NoWord.all _
theorem Laws.NoWord.ctrStepTimeout (engine : Fin 8) : Sys2Proof.Laws.NoWord.Statement (.ctrStepTimeout engine) := Sys2Proof.Laws.NoWord.all _
theorem Laws.NoWord.coilMismatch (coil : Fin 48) : Sys2Proof.Laws.NoWord.Statement (.coilMismatch coil) := Sys2Proof.Laws.NoWord.all _
theorem Laws.NoWord.imdEnable (ch : Fin 4) : Sys2Proof.Laws.NoWord.Statement (.imdEnable ch) := Sys2Proof.Laws.NoWord.all _
theorem Laws.NoWord.imdHalfPeriodEnd (ch : Fin 4) : Sys2Proof.Laws.NoWord.Statement (.imdHalfPeriodEnd ch) := Sys2Proof.Laws.NoWord.all _
theorem Laws.NoWord.demandRecordTransmit : Sys2Proof.Laws.NoWord.Statement (.demandRecordTransmit) := Sys2Proof.Laws.NoWord.all _
theorem Laws.NoWord.demandRecord (payload : List Byte) : Sys2Proof.Laws.NoWord.Statement (.demandRecord payload) := Sys2Proof.Laws.NoWord.all _
theorem Laws.NoWord.shareCutoff : Sys2Proof.Laws.NoWord.Statement (.shareCutoff) := Sys2Proof.Laws.NoWord.all _
theorem Laws.NoWord.shrNextatArm (value : Nat) : Sys2Proof.Laws.NoWord.Statement (.shrNextatArm value) := Sys2Proof.Laws.NoWord.all _
theorem Laws.NoWord.thermalDerateStep : Sys2Proof.Laws.NoWord.Statement (.thermalDerateStep) := Sys2Proof.Laws.NoWord.all _
theorem Laws.NoWord.routingPlan : Sys2Proof.Laws.NoWord.Statement (.routingPlan) := Sys2Proof.Laws.NoWord.all _
theorem Laws.NoWord.routingZeroTimeout : Sys2Proof.Laws.NoWord.Statement (.routingZeroTimeout) := Sys2Proof.Laws.NoWord.all _
theorem Laws.NoWord.ethLinkChange (port : Fin 4) (up supported : Bool) : Sys2Proof.Laws.NoWord.Statement (.ethLinkChange port up supported) := Sys2Proof.Laws.NoWord.all _
theorem Laws.NoWord.ethFrameReceive (port : Fin 4) (frame : List Byte) (fcsOk : Bool) : Sys2Proof.Laws.NoWord.Statement (.ethFrameReceive port frame fcsOk) := Sys2Proof.Laws.NoWord.all _
theorem Laws.NoWord.ethTransmitStart (port : Fin 4) : Sys2Proof.Laws.NoWord.Statement (.ethTransmitStart port) := Sys2Proof.Laws.NoWord.all _
theorem Laws.NoWord.fnetGclctlApply (port : Fin 2) (nent : Nat) : Sys2Proof.Laws.NoWord.Statement (.fnetGclctlApply port nent) := Sys2Proof.Laws.NoWord.all _
theorem Laws.NoWord.svFrame (m : SvMsg) : Sys2Proof.Laws.NoWord.Statement (.svFrame m) := Sys2Proof.Laws.NoWord.all _
theorem Laws.NoWord.svSampleDeadline (sub : Fin 8) : Sys2Proof.Laws.NoWord.Statement (.svSampleDeadline sub) := Sys2Proof.Laws.NoWord.all _
theorem Laws.NoWord.svSubscriptionEnable (sub : Fin 8) : Sys2Proof.Laws.NoWord.Statement (.svSubscriptionEnable sub) := Sys2Proof.Laws.NoWord.all _
theorem Laws.NoWord.svSubscriptionDisable (sub : Fin 8) : Sys2Proof.Laws.NoWord.Statement (.svSubscriptionDisable sub) := Sys2Proof.Laws.NoWord.all _
theorem Laws.NoWord.svSubscriptionReconfigure (sub : Fin 8) : Sys2Proof.Laws.NoWord.Statement (.svSubscriptionReconfigure sub) := Sys2Proof.Laws.NoWord.all _
theorem Laws.NoWord.svPublication (pub : Fin 2) (raws : List (List Int)) (len : Nat) : Sys2Proof.Laws.NoWord.Statement (.svPublication pub raws len) := Sys2Proof.Laws.NoWord.all _
theorem Laws.NoWord.gooseFrame (m : GooseMsg) : Sys2Proof.Laws.NoWord.Statement (.gooseFrame m) := Sys2Proof.Laws.NoWord.all _
theorem Laws.NoWord.gooseTtlExpiry (sub : Fin 32) : Sys2Proof.Laws.NoWord.Statement (.gooseTtlExpiry sub) := Sys2Proof.Laws.NoWord.all _
theorem Laws.NoWord.gooseSubscriptionEnable (sub : Fin 32) : Sys2Proof.Laws.NoWord.Statement (.gooseSubscriptionEnable sub) := Sys2Proof.Laws.NoWord.all _
theorem Laws.NoWord.gooseSubscriptionDisable (sub : Fin 32) : Sys2Proof.Laws.NoWord.Statement (.gooseSubscriptionDisable sub) := Sys2Proof.Laws.NoWord.all _
theorem Laws.NoWord.metrologyInstant (main vh : List Int) : Sys2Proof.Laws.NoWord.Statement (.metrologyInstant main vh) := Sys2Proof.Laws.NoWord.all _
theorem Laws.NoWord.metrologyReturnWait (channel : Fin 16) : Sys2Proof.Laws.NoWord.Statement (.metrologyReturnWait channel) := Sys2Proof.Laws.NoWord.all _
theorem Laws.NoWord.testPulseStart (k : Fin 4) : Sys2Proof.Laws.NoWord.Statement (.testPulseStart k) := Sys2Proof.Laws.NoWord.all _
theorem Laws.NoWord.testPulseEnd (k : Fin 4) : Sys2Proof.Laws.NoWord.Statement (.testPulseEnd k) := Sys2Proof.Laws.NoWord.all _
theorem Laws.NoWord.testOutputConfigWrite (k : Fin 4) (isConst : Bool) (value : Nat) : Sys2Proof.Laws.NoWord.Statement (.testOutputConfigWrite k isConst value) := Sys2Proof.Laws.NoWord.all _
theorem Laws.NoWord.metEclr (value : Nat) : Sys2Proof.Laws.NoWord.Statement (.metEclr value) := Sys2Proof.Laws.NoWord.all _
theorem Laws.NoWord.lrImageStaged (version svn : Nat) (sum : List Byte) : Sys2Proof.Laws.NoWord.Statement (.lrImageStaged version svn sum) := Sys2Proof.Laws.NoWord.all _
theorem Laws.NoWord.lrActivate (key : Nat) : Sys2Proof.Laws.NoWord.Statement (.lrActivate key) := Sys2Proof.Laws.NoWord.all _
theorem Laws.NoWord.lrSwitchComplete (ok : Bool) : Sys2Proof.Laws.NoWord.Statement (.lrSwitchComplete ok) := Sys2Proof.Laws.NoWord.all _
theorem Laws.NoWord.metrologyProcessorRunning : Sys2Proof.Laws.NoWord.Statement (.metrologyProcessorRunning) := Sys2Proof.Laws.NoWord.all _
theorem Laws.NoWord.sealRequest (key : Nat) : Sys2Proof.Laws.NoWord.Statement (.sealRequest key) := Sys2Proof.Laws.NoWord.all _
theorem Laws.NoWord.sealComplete : Sys2Proof.Laws.NoWord.Statement (.sealComplete) := Sys2Proof.Laws.NoWord.all _
theorem Laws.NoWord.commitRequest : Sys2Proof.Laws.NoWord.Statement (.commitRequest) := Sys2Proof.Laws.NoWord.all _
theorem Laws.NoWord.commit15Min : Sys2Proof.Laws.NoWord.Statement (.commit15Min) := Sys2Proof.Laws.NoWord.all _
theorem Laws.NoWord.commitComplete (ok : Bool) : Sys2Proof.Laws.NoWord.Statement (.commitComplete ok) := Sys2Proof.Laws.NoWord.all _
theorem Laws.NoWord.shutdownRecordNorCopy : Sys2Proof.Laws.NoWord.Statement (.shutdownRecordNorCopy) := Sys2Proof.Laws.NoWord.all _
theorem Laws.NoWord.sessionOpen (output : Fin 4) : Sys2Proof.Laws.NoWord.Statement (.sessionOpen output) := Sys2Proof.Laws.NoWord.all _
theorem Laws.NoWord.sessionClose (output : Fin 4) : Sys2Proof.Laws.NoWord.Statement (.sessionClose output) := Sys2Proof.Laws.NoWord.all _
theorem Laws.NoWord.sessionRecordSigned (output : Fin 4) : Sys2Proof.Laws.NoWord.Statement (.sessionRecordSigned output) := Sys2Proof.Laws.NoWord.all _
theorem Laws.NoWord.bilRecack (value : Nat) : Sys2Proof.Laws.NoWord.Statement (.bilRecack value) := Sys2Proof.Laws.NoWord.all _
theorem Laws.NoWord.bilLogack (value : Nat) : Sys2Proof.Laws.NoWord.Statement (.bilLogack value) := Sys2Proof.Laws.NoWord.all _
theorem Laws.NoWord.recReqBegin (xfer number : Nat) : Sys2Proof.Laws.NoWord.Statement (.recReqBegin xfer number) := Sys2Proof.Laws.NoWord.all _
theorem Laws.NoWord.recData (xfer offset : Nat) (bytes : List Byte) (last : Bool) : Sys2Proof.Laws.NoWord.Statement (.recData xfer offset bytes last) := Sys2Proof.Laws.NoWord.all _
theorem Laws.NoWord.theftWatchBlock (samples : List (List Int)) : Sys2Proof.Laws.NoWord.Statement (.theftWatchBlock samples) := Sys2Proof.Laws.NoWord.all _
theorem Laws.NoWord.outLock (output : Fin 4) : Sys2Proof.Laws.NoWord.Statement (.outLock output) := Sys2Proof.Laws.NoWord.all _
theorem Laws.NoWord.outUnlock (output : Fin 4) : Sys2Proof.Laws.NoWord.Statement (.outUnlock output) := Sys2Proof.Laws.NoWord.all _
theorem Laws.NoWord.outStart (output : Fin 4) : Sys2Proof.Laws.NoWord.Statement (.outStart output) := Sys2Proof.Laws.NoWord.all _
theorem Laws.NoWord.outStop (output : Fin 4) : Sys2Proof.Laws.NoWord.Statement (.outStop output) := Sys2Proof.Laws.NoWord.all _
theorem Laws.NoWord.outClr (output : Fin 4) : Sys2Proof.Laws.NoWord.Statement (.outClr output) := Sys2Proof.Laws.NoWord.all _
theorem Laws.NoWord.tlockExpiry (output : Fin 4) : Sys2Proof.Laws.NoWord.Statement (.tlockExpiry output) := Sys2Proof.Laws.NoWord.all _
theorem Laws.NoWord.tinsExpiry (output : Fin 4) : Sys2Proof.Laws.NoWord.Statement (.tinsExpiry output) := Sys2Proof.Laws.NoWord.all _
theorem Laws.NoWord.tpreExpiry (output : Fin 4) : Sys2Proof.Laws.NoWord.Statement (.tpreExpiry output) := Sys2Proof.Laws.NoWord.all _
theorem Laws.NoWord.trampExpiry (output : Fin 4) : Sys2Proof.Laws.NoWord.Statement (.trampExpiry output) := Sys2Proof.Laws.NoWord.all _
theorem Laws.NoWord.tdisExpiry (output : Fin 4) : Sys2Proof.Laws.NoWord.Statement (.tdisExpiry output) := Sys2Proof.Laws.NoWord.all _
theorem Laws.NoWord.outSequenceRetry (output : Fin 4) : Sys2Proof.Laws.NoWord.Statement (.outSequenceRetry output) := Sys2Proof.Laws.NoWord.all _
theorem Laws.NoWord.connectorChange (output : Fin 4) (present : Bool) : Sys2Proof.Laws.NoWord.Statement (.connectorChange output present) := Sys2Proof.Laws.NoWord.all _
theorem Laws.NoWord.enableLoopChange (output : Fin 4) (closed : Bool) : Sys2Proof.Laws.NoWord.Statement (.enableLoopChange output closed) := Sys2Proof.Laws.NoWord.all _
theorem Laws.NoWord.t1sFrame (port : Fin 4) (frame : List Byte) (fcsOk : Bool) (collisions : Nat) : Sys2Proof.Laws.NoWord.Statement (.t1sFrame port frame fcsOk collisions) := Sys2Proof.Laws.NoWord.all _
theorem Laws.NoWord.controlPilotPeriod (port : Fin 4) (high low : Option Int) (dutyM : Nat) : Sys2Proof.Laws.NoWord.Statement (.controlPilotPeriod port high low dutyM) := Sys2Proof.Laws.NoWord.all _
theorem Laws.NoWord.proximityReading (port : Fin 4) (res : Nat) : Sys2Proof.Laws.NoWord.Statement (.proximityReading port res) := Sys2Proof.Laws.NoWord.all _
theorem Laws.NoWord.flowWindow (output : Fin 4) (count : Nat) : Sys2Proof.Laws.NoWord.Statement (.flowWindow output count) := Sys2Proof.Laws.NoWord.all _
theorem Laws.NoWord.fanStall (output : Fin 4) : Sys2Proof.Laws.NoWord.Statement (.fanStall output) := Sys2Proof.Laws.NoWord.all _
theorem Laws.NoWord.stkCtlWake : Sys2Proof.Laws.NoWord.Statement (.stkCtlWake) := Sys2Proof.Laws.NoWord.all _
theorem Laws.NoWord.chainRewake : Sys2Proof.Laws.NoWord.Statement (.chainRewake) := Sys2Proof.Laws.NoWord.all _
theorem Laws.NoWord.wakeComplete : Sys2Proof.Laws.NoWord.Statement (.wakeComplete) := Sys2Proof.Laws.NoWord.all _
theorem Laws.NoWord.enumComplete : Sys2Proof.Laws.NoWord.Statement (.enumComplete) := Sys2Proof.Laws.NoWord.all _
theorem Laws.NoWord.chainNop (sat : Fin 32) : Sys2Proof.Laws.NoWord.Statement (.chainNop sat) := Sys2Proof.Laws.NoWord.all _
theorem Laws.NoWord.chainEnum (fromB : Bool) : Sys2Proof.Laws.NoWord.Statement (.chainEnum fromB) := Sys2Proof.Laws.NoWord.all _
theorem Laws.NoWord.chainEcho (fromB : Bool) (sat : Fin 32) : Sys2Proof.Laws.NoWord.Statement (.chainEcho fromB sat) := Sys2Proof.Laws.NoWord.all _
theorem Laws.NoWord.chainCfg (sat : Fin 32) : Sys2Proof.Laws.NoWord.Statement (.chainCfg sat) := Sys2Proof.Laws.NoWord.all _
theorem Laws.NoWord.chainSnap : Sys2Proof.Laws.NoWord.Statement (.chainSnap) := Sys2Proof.Laws.NoWord.all _
theorem Laws.NoWord.chainRead (fromB : Bool) : Sys2Proof.Laws.NoWord.Statement (.chainRead fromB) := Sys2Proof.Laws.NoWord.all _
theorem Laws.NoWord.chainBal (fromB : Bool) : Sys2Proof.Laws.NoWord.Statement (.chainBal fromB) := Sys2Proof.Laws.NoWord.all _
theorem Laws.NoWord.chainOwt : Sys2Proof.Laws.NoWord.Statement (.chainOwt) := Sys2Proof.Laws.NoWord.all _
theorem Laws.NoWord.chainSleep : Sys2Proof.Laws.NoWord.Statement (.chainSleep) := Sys2Proof.Laws.NoWord.all _
theorem Laws.NoWord.chainResponse (fromB : Bool) (frame : List Byte) (rtt : Nat) : Sys2Proof.Laws.NoWord.Statement (.chainResponse fromB frame rtt) := Sys2Proof.Laws.NoWord.all _
theorem Laws.NoWord.chainResponseMissed (fromB : Bool) : Sys2Proof.Laws.NoWord.Statement (.chainResponseMissed fromB) := Sys2Proof.Laws.NoWord.all _
theorem Laws.NoWord.stkOwcfgStart (owper owthr : Nat) : Sys2Proof.Laws.NoWord.Statement (.stkOwcfgStart owper owthr) := Sys2Proof.Laws.NoWord.all _
theorem Laws.NoWord.openWirePeriod : Sys2Proof.Laws.NoWord.Statement (.openWirePeriod) := Sys2Proof.Laws.NoWord.all _
theorem Laws.NoWord.bufferGo : Sys2Proof.Laws.NoWord.Statement (.bufferGo) := Sys2Proof.Laws.NoWord.all _
theorem Laws.NoWord.bufferStop : Sys2Proof.Laws.NoWord.Statement (.bufferStop) := Sys2Proof.Laws.NoWord.all _
theorem Laws.NoWord.bufferTqExpiry : Sys2Proof.Laws.NoWord.Statement (.bufferTqExpiry) := Sys2Proof.Laws.NoWord.all _
theorem Laws.NoWord.hrngTailWrite (ring : Fin 32) (index : Nat) : Sys2Proof.Laws.NoWord.Statement (.hrngTailWrite ring index) := Sys2Proof.Laws.NoWord.all _
theorem Laws.NoWord.ringCoalTimeout (ring : Fin 32) : Sys2Proof.Laws.NoWord.Statement (.ringCoalTimeout ring) := Sys2Proof.Laws.NoWord.all _
theorem Laws.NoWord.dramScrub (errors : List (Nat × Bool)) : Sys2Proof.Laws.NoWord.Statement (.dramScrub errors) := Sys2Proof.Laws.NoWord.all _
theorem Laws.NoWord.hostBadAccess (addr : Nat) (write narrow machine : Bool) : Sys2Proof.Laws.NoWord.Statement (.hostBadAccess addr write narrow machine) := Sys2Proof.Laws.NoWord.all _
theorem Laws.NoWord.hsysImgok (value : Nat) : Sys2Proof.Laws.NoWord.Statement (.hsysImgok value) := Sys2Proof.Laws.NoWord.all _
theorem Laws.NoWord.hevtClaimRead (core : Fin 4) : Sys2Proof.Laws.NoWord.Statement (.hevtClaimRead core) := Sys2Proof.Laws.NoWord.all _
theorem Laws.NoWord.hevtClaimWrite (source : Nat) : Sys2Proof.Laws.NoWord.Statement (.hevtClaimWrite source) := Sys2Proof.Laws.NoWord.all _
theorem Laws.NoWord.gpioEdge (pin : Fin 32) (level : Bool) : Sys2Proof.Laws.NoWord.Statement (.gpioEdge pin level) := Sys2Proof.Laws.NoWord.all _
theorem Laws.NoWord.canTxReq (ctrl : Fin 4) (buf : Fin 3) : Sys2Proof.Laws.NoWord.Statement (.canTxReq ctrl buf) := Sys2Proof.Laws.NoWord.all _
theorem Laws.NoWord.canTxAbort (ctrl : Fin 4) (buf : Fin 3) : Sys2Proof.Laws.NoWord.Statement (.canTxAbort ctrl buf) := Sys2Proof.Laws.NoWord.all _
theorem Laws.NoWord.canStartOfFrame (ctrl : Fin 4) : Sys2Proof.Laws.NoWord.Statement (.canStartOfFrame ctrl) := Sys2Proof.Laws.NoWord.all _
theorem Laws.NoWord.canTransmitComplete (ctrl : Fin 4) : Sys2Proof.Laws.NoWord.Statement (.canTransmitComplete ctrl) := Sys2Proof.Laws.NoWord.all _
theorem Laws.NoWord.canArbitrationLost (ctrl : Fin 4) : Sys2Proof.Laws.NoWord.Statement (.canArbitrationLost ctrl) := Sys2Proof.Laws.NoWord.all _
theorem Laws.NoWord.canFrameError (ctrl : Fin 4) (lec : Fin 7) (step : Fin 9) : Sys2Proof.Laws.NoWord.Statement (.canFrameError ctrl lec step) := Sys2Proof.Laws.NoWord.all _
theorem Laws.NoWord.canRecover (ctrl : Fin 4) : Sys2Proof.Laws.NoWord.Statement (.canRecover ctrl) := Sys2Proof.Laws.NoWord.all _
theorem Laws.NoWord.canBusoffRecoveryComplete (ctrl : Fin 4) : Sys2Proof.Laws.NoWord.Statement (.canBusoffRecoveryComplete ctrl) := Sys2Proof.Laws.NoWord.all _
theorem Laws.NoWord.canFrameReceived (ctrl : Fin 4) (words : List Nat) : Sys2Proof.Laws.NoWord.Statement (.canFrameReceived ctrl words) := Sys2Proof.Laws.NoWord.all _
theorem Laws.NoWord.canMailboxLock (ctrl : Fin 4) (mb : Fin 16) : Sys2Proof.Laws.NoWord.Statement (.canMailboxLock ctrl mb) := Sys2Proof.Laws.NoWord.all _
theorem Laws.NoWord.canMailboxRelease (ctrl : Fin 4) (mb : Fin 16) : Sys2Proof.Laws.NoWord.Statement (.canMailboxRelease ctrl mb) := Sys2Proof.Laws.NoWord.all _
theorem Laws.NoWord.canRxpop (ctrl : Fin 2) : Sys2Proof.Laws.NoWord.Statement (.canRxpop ctrl) := Sys2Proof.Laws.NoWord.all _
theorem Laws.NoWord.canFilterWrite (ctrl : Fin 4) (mb : Fin 16) (reg : Fin 3) (value : Nat) : Sys2Proof.Laws.NoWord.Statement (.canFilterWrite ctrl mb reg value) := Sys2Proof.Laws.NoWord.all _
theorem Laws.NoWord.debugUnlock (die : Side) (token : List Byte) : Sys2Proof.Laws.NoWord.Statement (.debugUnlock die token) := Sys2Proof.Laws.NoWord.all _
theorem Laws.NoWord.lifecycleToken (die : Side) (token : List Byte) (fuseOk : Bool) : Sys2Proof.Laws.NoWord.Statement (.lifecycleToken die token fuseOk) := Sys2Proof.Laws.NoWord.all _
theorem Laws.NoWord.slotProgram (die : Side) (token : List Byte) (fuseOk : Bool) : Sys2Proof.Laws.NoWord.Statement (.slotProgram die token fuseOk) := Sys2Proof.Laws.NoWord.all _
theorem Laws.NoWord.slotRevoke (die : Side) (token : List Byte) (fuseOk : Bool) : Sys2Proof.Laws.NoWord.Statement (.slotRevoke die token fuseOk) := Sys2Proof.Laws.NoWord.all _
theorem Laws.NoWord.injectionToken (die : Side) (token : List Byte) : Sys2Proof.Laws.NoWord.Statement (.injectionToken die token) := Sys2Proof.Laws.NoWord.all _
theorem Laws.NoWord.relock (die : Side) : Sys2Proof.Laws.NoWord.Statement (.relock die) := Sys2Proof.Laws.NoWord.all _
theorem Laws.NoWord.fsecPairctlGo : Sys2Proof.Laws.NoWord.Statement (.fsecPairctlGo) := Sys2Proof.Laws.NoWord.all _
theorem Laws.NoWord.keyLoad (target : Fin 8) : Sys2Proof.Laws.NoWord.Statement (.keyLoad target) := Sys2Proof.Laws.NoWord.all _
theorem Laws.NoWord.keySlotClear (target : Fin 8) : Sys2Proof.Laws.NoWord.Statement (.keySlotClear target) := Sys2Proof.Laws.NoWord.all _
theorem Laws.NoWord.fsecStmtctlGo : Sys2Proof.Laws.NoWord.Statement (.fsecStmtctlGo) := Sys2Proof.Laws.NoWord.all _
theorem Laws.NoWord.encDerive (blk : EncBlock) : Sys2Proof.Laws.NoWord.Statement (.encDerive blk) := Sys2Proof.Laws.NoWord.all _
theorem Laws.NoWord.encUnwrap (blk : EncBlock) : Sys2Proof.Laws.NoWord.Statement (.encUnwrap blk) := Sys2Proof.Laws.NoWord.all _
theorem Laws.NoWord.encWrap (blk : EncBlock) : Sys2Proof.Laws.NoWord.Statement (.encWrap blk) := Sys2Proof.Laws.NoWord.all _
theorem Laws.NoWord.encSign (blk : EncBlock) : Sys2Proof.Laws.NoWord.Statement (.encSign blk) := Sys2Proof.Laws.NoWord.all _
theorem Laws.NoWord.encAttest (blk : EncBlock) : Sys2Proof.Laws.NoWord.Statement (.encAttest blk) := Sys2Proof.Laws.NoWord.all _
theorem Laws.NoWord.encExtend (blk : EncBlock) : Sys2Proof.Laws.NoWord.Statement (.encExtend blk) := Sys2Proof.Laws.NoWord.all _
theorem Laws.NoWord.encFieldmeas (blk : EncBlock) : Sys2Proof.Laws.NoWord.Statement (.encFieldmeas blk) := Sys2Proof.Laws.NoWord.all _
theorem Laws.NoWord.encPair (blk : EncBlock) : Sys2Proof.Laws.NoWord.Statement (.encPair blk) := Sys2Proof.Laws.NoWord.all _
theorem Laws.NoWord.encKeywrapf (blk : EncBlock) : Sys2Proof.Laws.NoWord.Statement (.encKeywrapf blk) := Sys2Proof.Laws.NoWord.all _
theorem Laws.NoWord.encAead (blk : EncBlock) : Sys2Proof.Laws.NoWord.Statement (.encAead blk) := Sys2Proof.Laws.NoWord.all _
theorem Laws.NoWord.encRandom (blk : EncBlock) : Sys2Proof.Laws.NoWord.Statement (.encRandom blk) := Sys2Proof.Laws.NoWord.all _
theorem Laws.NoWord.encClear (blk : EncBlock) : Sys2Proof.Laws.NoWord.Statement (.encClear blk) := Sys2Proof.Laws.NoWord.all _
theorem Laws.NoWord.secMonoinc (mask : Fin 16) : Sys2Proof.Laws.NoWord.Statement (.secMonoinc mask) := Sys2Proof.Laws.NoWord.all _
theorem Laws.NoWord.trngHealthFailure (die : Side) : Sys2Proof.Laws.NoWord.Statement (.trngHealthFailure die) := Sys2Proof.Laws.NoWord.all _
theorem Laws.NoWord.tamperInput (die : Side) (input : Fin 2) (low : Bool) : Sys2Proof.Laws.NoWord.Statement (.tamperInput die input low) := Sys2Proof.Laws.NoWord.all _
theorem Laws.NoWord.boundaryScanInstruction (die : Side) (drives : Bool) : Sys2Proof.Laws.NoWord.Statement (.boundaryScanInstruction die drives) := Sys2Proof.Laws.NoWord.all _
theorem Laws.NoWord.thermalReading (side : Side) (conv : List (List Int)) (failed : List Bool) : Sys2Proof.Laws.NoWord.Statement (.thermalReading side conv failed) := Sys2Proof.Laws.NoWord.all _
theorem Laws.NoWord.tqsExpiry : Sys2Proof.Laws.NoWord.Statement (.tqsExpiry) := Sys2Proof.Laws.NoWord.all _
theorem Laws.NoWord.hostShutdownClear : Sys2Proof.Laws.NoWord.Statement (.hostShutdownClear) := Sys2Proof.Laws.NoWord.all _
theorem Laws.NoWord.thresholdWrite (side : Side) (hyst : Bool) (value : Nat) : Sys2Proof.Laws.NoWord.Statement (.thresholdWrite side hyst value) := Sys2Proof.Laws.NoWord.all _
theorem Laws.NoWord.fthmRecctl (value : Nat) : Sys2Proof.Laws.NoWord.Statement (.fthmRecctl value) := Sys2Proof.Laws.NoWord.all _
theorem Laws.NoWord.hthmShutrecClr : Sys2Proof.Laws.NoWord.Statement (.hthmShutrecClr) := Sys2Proof.Laws.NoWord.all _
theorem Laws.NoWord.injectionStart (side : Side) (point : Nat) (inst : Nat) : Sys2Proof.Laws.NoWord.Statement (.injectionStart side point inst) := Sys2Proof.Laws.NoWord.all _
theorem Laws.NoWord.injectionStop (side : Side) : Sys2Proof.Laws.NoWord.Statement (.injectionStop side) := Sys2Proof.Laws.NoWord.all _
theorem Laws.NoWord.injectionEnd (point : Nat) (inst : Nat) : Sys2Proof.Laws.NoWord.Statement (.injectionEnd point inst) := Sys2Proof.Laws.NoWord.all _
theorem Laws.NoWord.journalAllowance : Sys2Proof.Laws.NoWord.Statement (.journalAllowance) := Sys2Proof.Laws.NoWord.all _
theorem Laws.NoWord.floodEnd (source : Fin 128) : Sys2Proof.Laws.NoWord.Statement (.floodEnd source) := Sys2Proof.Laws.NoWord.all _
theorem Laws.NoWord.jrnData (xfer offset : Nat) (bytes : List Byte) (last : Bool) : Sys2Proof.Laws.NoWord.Statement (.jrnData xfer offset bytes last) := Sys2Proof.Laws.NoWord.all _
theorem Laws.NoWord.captureArm : Sys2Proof.Laws.NoWord.Statement (.captureArm) := Sys2Proof.Laws.NoWord.all _
theorem Laws.NoWord.captureTrigger : Sys2Proof.Laws.NoWord.Statement (.captureTrigger) := Sys2Proof.Laws.NoWord.all _
theorem Laws.NoWord.captureStop : Sys2Proof.Laws.NoWord.Statement (.captureStop) := Sys2Proof.Laws.NoWord.all _
theorem Laws.NoWord.capReqBegin (xfer len : Nat) : Sys2Proof.Laws.NoWord.Statement (.capReqBegin xfer len) := Sys2Proof.Laws.NoWord.all _
theorem Laws.NoWord.capReqEnd (xfer : Nat) : Sys2Proof.Laws.NoWord.Statement (.capReqEnd xfer) := Sys2Proof.Laws.NoWord.all _
theorem Laws.NoWord.capReqAbort (xfer : Nat) : Sys2Proof.Laws.NoWord.Statement (.capReqAbort xfer) := Sys2Proof.Laws.NoWord.all _
theorem Laws.NoWord.capData (xfer offset : Nat) (bytes : List Byte) (last : Bool) : Sys2Proof.Laws.NoWord.Statement (.capData xfer offset bytes last) := Sys2Proof.Laws.NoWord.all _
theorem Laws.NoWord.fieldAshReady (area : List Byte) : Sys2Proof.Laws.NoWord.Statement (.fieldAshReady area) := Sys2Proof.Laws.NoWord.all _
theorem Laws.NoWord.ashReqBegin (xfer : Nat) : Sys2Proof.Laws.NoWord.Statement (.ashReqBegin xfer) := Sys2Proof.Laws.NoWord.all _
theorem Laws.NoWord.ashData (xfer offset : Nat) (bytes : List Byte) (last : Bool) : Sys2Proof.Laws.NoWord.Statement (.ashData xfer offset bytes last) := Sys2Proof.Laws.NoWord.all _
theorem Laws.NoWord.fdiaAshctlClr : Sys2Proof.Laws.NoWord.Statement (.fdiaAshctlClr) := Sys2Proof.Laws.NoWord.all _
theorem Laws.NoWord.hdiaAshctlSnap : Sys2Proof.Laws.NoWord.Statement (.hdiaAshctlSnap) := Sys2Proof.Laws.NoWord.all _
theorem Laws.NoWord.hdiaAshctlExported : Sys2Proof.Laws.NoWord.Statement (.hdiaAshctlExported) := Sys2Proof.Laws.NoWord.all _
theorem Laws.NoWord.ashGatherComplete (endOff : Nat) : Sys2Proof.Laws.NoWord.Statement (.ashGatherComplete endOff) := Sys2Proof.Laws.NoWord.all _
theorem Laws.NoWord.badAccess (addr : Nat) (write narrow : Bool) : Sys2Proof.Laws.NoWord.Statement (.badAccess addr write narrow) := Sys2Proof.Laws.NoWord.all _
theorem Laws.NoWord.registerWrite (addr value : Nat) : Sys2Proof.Laws.NoWord.Statement (.registerWrite addr value) := Sys2Proof.Laws.NoWord.all _
theorem Laws.NoWord.registerReadClear (addr : Nat) : Sys2Proof.Laws.NoWord.Statement (.registerReadClear addr) := Sys2Proof.Laws.NoWord.all _
theorem Laws.NoWord.latchedPairRead (addr : Nat) : Sys2Proof.Laws.NoWord.Statement (.latchedPairRead addr) := Sys2Proof.Laws.NoWord.all _
theorem Laws.NoWord.heartbeatSend : Sys2Proof.Laws.NoWord.Statement (.heartbeatSend) := Sys2Proof.Laws.NoWord.all _
theorem Laws.NoWord.hfluHbkick (value : Nat) : Sys2Proof.Laws.NoWord.Statement (.hfluHbkick value) := Sys2Proof.Laws.NoWord.all _
theorem Laws.NoWord.hfluTxwinCommit (win : Fin 2) : Sys2Proof.Laws.NoWord.Statement (.hfluTxwinCommit win) := Sys2Proof.Laws.NoWord.all _
theorem Laws.NoWord.fieldLost : Sys2Proof.Laws.NoWord.Statement (.fieldLost) := Sys2Proof.Laws.NoWord.all _
theorem Laws.NoWord.noCreditTimeout (queue : Fin 8) : Sys2Proof.Laws.NoWord.Statement (.noCreditTimeout queue) := Sys2Proof.Laws.NoWord.all _
theorem Laws.NoWord.timeSyncMissing : Sys2Proof.Laws.NoWord.Statement (.timeSyncMissing) := Sys2Proof.Laws.NoWord.all _
theorem Laws.NoWord.supplyRelease (side : Side) : Sys2Proof.Laws.NoWord.Statement (.supplyRelease side) := Sys2Proof.Laws.NoWord.all _
theorem Laws.NoWord.batteryLoss (side : Side) : Sys2Proof.Laws.NoWord.Statement (.batteryLoss side) := Sys2Proof.Laws.NoWord.all _
theorem Laws.NoWord.trngHealthRecovery (die : Side) : Sys2Proof.Laws.NoWord.Statement (.trngHealthRecovery die) := Sys2Proof.Laws.NoWord.all _
theorem Laws.NoWord.tachEdge (output : Fin 4) : Sys2Proof.Laws.NoWord.Statement (.tachEdge output) := Sys2Proof.Laws.NoWord.all _
theorem Laws.NoWord.hostEccError (sram : Bool) (addr : Nat) (uncorr : Bool) : Sys2Proof.Laws.NoWord.Statement (.hostEccError sram addr uncorr) := Sys2Proof.Laws.NoWord.all _
theorem Laws.NoWord.fmpWindowEccError (addr : Nat) : Sys2Proof.Laws.NoWord.Statement (.fmpWindowEccError addr) := Sys2Proof.Laws.NoWord.all _
theorem Laws.NoWord.plcaStatusChange (port : Fin 4) (ok jabber : Bool) : Sys2Proof.Laws.NoWord.Statement (.plcaStatusChange port ok jabber) := Sys2Proof.Laws.NoWord.all _
theorem Laws.NoWord.peripheralTransfer (inst : Fin 9) (bytes : List Byte) (err : Bool) : Sys2Proof.Laws.NoWord.Statement (.peripheralTransfer inst bytes err) := Sys2Proof.Laws.NoWord.all _

end Sys2Proof
end

