-- ==== Sys2Proof/Laws/Reach.lean ====
section
/-! SUPPORT. What a command can do to the block, once for all: `Reach m d e` says that `e` comes from `d` by changes to the parts
named in the mask `m` alone, the registers changing only by field writes and domain resets, the memories only by writes, clears
and drops of entries, and the fuses only by being blown. -/

namespace Sys2Proof.Machine

/-- The changes a memory goes through: byte strings written, everything dropped, entries dropped. -/
inductive MemStep : Mem → Mem → Prop
  | refl (m : Mem) : MemStep m m
  | write {m n : Mem} (h : MemStep m n) (a : Nat) (bs : List Byte) : MemStep m (Mem.writeBytes n a bs)
  | drop {m n : Mem} (h : MemStep m n) (p : Host.Cell → Bool) : MemStep m (n.filter p)
  | clear (m : Mem) : MemStep m []

theorem MemStep.writeNat {m n : Mem} (h : MemStep m n) (a k v : Nat) : MemStep m (Mem.writeNat n a k v) := .write h a _

theorem Fuses.Le.rfl' (f : Fuses) : Fuses.Le f f := ⟨rfl, rfl, rfl, rfl, rfl, fun _ h => h, fun _ h => h, fun _ h => h, id, id, rfl⟩

theorem Fuses.Le.seal (f : Fuses) (dig : List Byte) : Fuses.Le f { f with sealed := true, bind := dig } :=
  ⟨rfl, rfl, rfl, rfl, rfl, fun _ h => h, fun _ h => h, fun _ h => h, fun _ => rfl, id, rfl⟩

theorem Fuses.Le.cont (f : Fuses) : Fuses.Le f { f with cont := true } :=
  ⟨rfl, rfl, rfl, rfl, rfl, fun _ h => h, fun _ h => h, fun _ h => h, id, fun _ => rfl, rfl⟩

/-- `e` is `d` with other contents of the parts in the mask. -/
structure Same (m : Nat) (d e : Dev) : Prop where
  regs : e.regs = d.regs
  fmem : e.fmem = d.fmem ∨ Part.on m Part.fmem = true ∧ MemStep d.fmem e.fmem
  hmem : e.hmem = d.hmem ∨ Part.on m Part.hmem = true ∧ MemStep d.hmem e.hmem
  lastRead : e.lastRead = d.lastRead ∨ Part.on m Part.lastRead = true
  busError : e.busError = d.busError ∨ Part.on m Part.busError = true
  free : e.free = d.free ∨ Part.on m Part.free = true
  inj : e.inj = d.inj ∨ Part.on m Part.inj = true
  jr : e.jr = d.jr ∨ Part.on m Part.jr = true
  rings : e.rings = d.rings ∨ Part.on m Part.rings = true
  pw : e.pw = d.pw ∨ Part.on m Part.pw = true
  fl : e.fl = d.fl ∨ Part.on m Part.fl = true
  tm : e.tm = d.tm ∨ Part.on m Part.tm = true
  st : e.st = d.st ∨ Part.on m Part.st = true
  ce : e.ce = d.ce ∨ Part.on m Part.ce = true
  dgr : e.dgr = d.dgr ∨ Part.on m Part.dgr = true
  pwm : e.pwm = d.pwm ∨ Part.on m Part.pwm = true
  out : e.out = d.out ∨ Part.on m Part.out = true
  cbl : e.cbl = d.cbl ∨ Part.on m Part.cbl = true
  veh : e.veh = d.veh ∨ Part.on m Part.veh = true
  cap : e.cap = d.cap ∨ Part.on m Part.cap = true
  ash : e.ash = d.ash ∨ Part.on m Part.ash = true
  fba : e.fba = d.fba ∨ Part.on m Part.fba = true
  ctr : e.ctr = d.ctr ∨ Part.on m Part.ctr = true
  imd : e.imd = d.imd ∨ Part.on m Part.imd = true
  tlm : e.tlm = d.tlm ∨ Part.on m Part.tlm = true
  shr : e.shr = d.shr ∨ Part.on m Part.shr = true
  rt : e.rt = d.rt ∨ Part.on m Part.rt = true
  net : e.net = d.net ∨ Part.on m Part.net = true
  svg : e.svg = d.svg ∨ Part.on m Part.svg = true
  met : e.met = d.met ∨ Part.on m Part.met = true
  bil : e.bil = d.bil ∨ Part.on m Part.bil = true
  bst : e.bst = d.bst ∨ Part.on m Part.bst = true
  tw : e.tw = d.tw ∨ Part.on m Part.tw = true
  ffuse : e.ffuse = d.ffuse ∨ Part.on m Part.ffuse = true ∧ Fuses.Le d.ffuse e.ffuse
  hfuse : e.hfuse = d.hfuse ∨ Part.on m Part.hfuse = true ∧ Fuses.Le d.hfuse e.hfuse
  fsec : e.fsec = d.fsec ∨ Part.on m Part.fsec = true
  enc : e.enc = d.enc ∨ Part.on m Part.enc = true
  stk : e.stk = d.stk ∨ Part.on m Part.stk = true
  can : e.can = d.can ∨ Part.on m Part.can = true
  hp : e.hp = d.hp ∨ Part.on m Part.hp = true
  th : e.th = d.th ∨ Part.on m Part.th = true

/-- What changes to the parts in the mask make of a block. -/
inductive Reach (m : Nat) : Dev → Dev → Prop
  | refl (d : Dev) : Reach m d d
  | wr {d e : Dev} (f : Fld) (v : Nat) (h : Part.on m Part.regs = true) (r : Reach m d e) : Reach m d (e.wr f v)
  | reset {d e : Dev} (p : Dom → Bool) (h : Part.on m Part.regs = true) (r : Reach m d e) : Reach m d (e.resetDomains p)
  | parts {d e e' : Dev} (s : Same m e e') (sh : d.Shaped → e'.Shaped) (r : Reach m d e) : Reach m d e'

theorem Dev.Shaped.tm_pdelaySeq {d : Dev} (h : d.Shaped) : d.tm.pdelaySeq.length = 2 := h.tm

theorem Dev.Shaped.ce_sig {d : Dev} (h : d.Shaped) : d.ce.sig.length = 1024 := h.ce.1

theorem Dev.Shaped.ce_acc {d : Dev} (h : d.Shaped) : d.ce.acc.length = 256 := h.ce.2.1

theorem Dev.Shaped.ce_axes {d : Dev} (h : d.Shaped) : d.ce.axes.length = 4 := h.ce.2.2

theorem Dev.Shaped.dgr_blk {d : Dev} (h : d.Shaped) : d.dgr.blk.length = 8 := h.dgr

theorem Dev.Shaped.pwm_inputs {d : Dev} (h : d.Shaped) : d.pwm.inputs.length = 96 := h.pwm

theorem Dev.Shaped.fba_ctlTodo {d : Dev} (h : d.Shaped) : d.fba.ctlTodo.length = 2 := h.fba.1

theorem Dev.Shaped.fba_trigTodo {d : Dev} (h : d.Shaped) : d.fba.trigTodo.length = 2 := h.fba.2.1

theorem Dev.Shaped.fba_ctl {d : Dev} (h : d.Shaped) : d.fba.ctl.length = 32 := h.fba.2.2.1

theorem Dev.Shaped.fba_trig {d : Dev} (h : d.Shaped) : d.fba.trig.length = 32 := h.fba.2.2.2

theorem Dev.Shaped.net_ports {d : Dev} (h : d.Shaped) : d.net.ports.length = 2 := h.net.1

theorem Dev.Shaped.net_ptp {d : Dev} (h : d.Shaped) : d.net.ptp.length = 2 := h.net.2.1

theorem Dev.Shaped.net_cells {d : Dev} (h : d.Shaped) : d.net.cells.length = 5 := h.net.2.2

theorem Dev.Shaped.svg_subs {d : Dev} (h : d.Shaped) : d.svg.subs.length = 8 := h.svg.1

theorem Dev.Shaped.svg_gs {d : Dev} (h : d.Shaped) : d.svg.gs.length = 32 := h.svg.2.1

theorem Dev.Shaped.svg_keys {d : Dev} (h : d.Shaped) : d.svg.keys.length = 4 := h.svg.2.2.1

theorem Dev.Shaped.svg_pubs {d : Dev} (h : d.Shaped) : d.svg.pubs.length = 2 := h.svg.2.2.2

theorem Dev.Shaped.met_retAt {d : Dev} (h : d.Shaped) : d.met.retAt.length = 16 := h.met.1

theorem Dev.Shaped.met_tp {d : Dev} (h : d.Shaped) : d.met.tp.length = 4 := h.met.2

theorem Dev.Shaped.bil_sess {d : Dev} (h : d.Shaped) : d.bil.sess.length = 4 := h.bil

theorem Dev.Shaped.bst_slots {d : Dev} (h : d.Shaped) : d.bst.slots.length = 2 := h.bst.1

theorem Dev.Shaped.bst_copies {d : Dev} (h : d.Shaped) : d.bst.copies.length = 2 := h.bst.2

theorem Dev.Shaped.stk_found {d : Dev} (h : d.Shaped) : d.stk.found.length = 2 := h.stk.1

theorem Dev.Shaped.stk_enumDone {d : Dev} (h : d.Shaped) : d.stk.enumDone.length = 2 := h.stk.2.1

theorem Dev.Shaped.stk_sats {d : Dev} (h : d.Shaped) : d.stk.sats.length = 32 := h.stk.2.2.1

theorem Dev.Shaped.stk_out {d : Dev} (h : d.Shaped) : d.stk.out.length = 2 := h.stk.2.2.2.1

theorem Dev.Shaped.stk_lastFrame {d : Dev} (h : d.Shaped) : d.stk.lastFrame.length = 2 := h.stk.2.2.2.2

theorem Dev.Shaped.hp_slots {d : Dev} (h : d.Shaped) : d.hp.slots.length = 2 := h.hp.1

theorem Dev.Shaped.hp_rx {d : Dev} (h : d.Shaped) : d.hp.rx.length = 9 := h.hp.2

theorem Dev.Shaped.th_nor {d : Dev} (h : d.Shaped) : d.th.nor.length = 2 := h.th

theorem Dev.Shaped.wr {d : Dev} {f : Fld} {v : Nat} (h : d.Shaped) : (d.wr f v).Shaped := ⟨h.tm, h.ce, h.dgr, h.pwm, h.out, h.cbl, h.veh, h.fba, h.imd, h.net, h.svg, h.met, h.bil, h.bst, h.ffuse, h.hfuse, h.stk, h.can, h.hp, h.th⟩

theorem Dev.Shaped.resetDomains {d : Dev} {p : Dom → Bool} (h : d.Shaped) : (d.resetDomains p).Shaped := ⟨h.tm, h.ce, h.dgr, h.pwm, h.out, h.cbl, h.veh, h.fba, h.imd, h.net, h.svg, h.met, h.bil, h.bst, h.ffuse, h.hfuse, h.stk, h.can, h.hp, h.th⟩

theorem setAt_length {α : Type} (xs : List α) (i : Nat) (v : α) : (setAt xs i v).length = xs.length := List.length_set

theorem addAt_length (xs : List Nat) (i k : Nat) : (addAt xs i k).length = xs.length := List.length_set

theorem Reach.shaped {m : Nat} {d e : Dev} (r : Reach m d e) (h : d.Shaped) : e.Shaped := by
  induction r with
  | refl => exact h
  | wr f v _ _ ih => exact ⟨ih.tm, ih.ce, ih.dgr, ih.pwm, ih.out, ih.cbl, ih.veh, ih.fba, ih.imd, ih.net, ih.svg, ih.met, ih.bil, ih.bst, ih.ffuse, ih.hfuse, ih.stk, ih.can, ih.hp, ih.th⟩
  | reset p _ _ ih => exact ⟨ih.tm, ih.ce, ih.dgr, ih.pwm, ih.out, ih.cbl, ih.veh, ih.fba, ih.imd, ih.net, ih.svg, ih.met, ih.bil, ih.bst, ih.ffuse, ih.hfuse, ih.stk, ih.can, ih.hp, ih.th⟩
  | parts _ sh _ _ => exact sh h

theorem Reach.trans {m : Nat} {a b c : Dev} (h : Reach m a b) (h' : Reach m b c) : Reach m a c := by
  induction h' with
  | refl => exact h
  | wr f v hm _ ih => exact .wr f v hm ih
  | reset p hm _ ih => exact .reset p hm ih
  | parts s sh _ ih => exact .parts s (fun ha => sh (h.shaped ha)) ih

/-- One mask within another. -/
def Part.sub (k m : Nat) : Bool := k &&& m == k

theorem Part.on_of_sub {k m p : Nat} (h : Part.sub k m = true) (hp : Part.on k p = true) : Part.on m p = true := by
  simp only [Part.sub, Part.on, beq_iff_eq] at *
  rw [← hp, ← Nat.and_assoc, Nat.and_comm m k, h]

theorem Same.mono {k m : Nat} (h : Part.sub k m = true) {d e : Dev} (s : Same k d e) : Same m d e where
  regs := s.regs
  fmem := s.fmem.imp id (fun x => ⟨Part.on_of_sub h x.1, x.2⟩)
  hmem := s.hmem.imp id (fun x => ⟨Part.on_of_sub h x.1, x.2⟩)
  lastRead := s.lastRead.imp id (Part.on_of_sub h)
  busError := s.busError.imp id (Part.on_of_sub h)
  free := s.free.imp id (Part.on_of_sub h)
  inj := s.inj.imp id (Part.on_of_sub h)
  jr := s.jr.imp id (Part.on_of_sub h)
  rings := s.rings.imp id (Part.on_of_sub h)
  pw := s.pw.imp id (Part.on_of_sub h)
  fl := s.fl.imp id (Part.on_of_sub h)
  tm := s.tm.imp id (Part.on_of_sub h)
  st := s.st.imp id (Part.on_of_sub h)
  ce := s.ce.imp id (Part.on_of_sub h)
  dgr := s.dgr.imp id (Part.on_of_sub h)
  pwm := s.pwm.imp id (Part.on_of_sub h)
  out := s.out.imp id (Part.on_of_sub h)
  cbl := s.cbl.imp id (Part.on_of_sub h)
  veh := s.veh.imp id (Part.on_of_sub h)
  cap := s.cap.imp id (Part.on_of_sub h)
  ash := s.ash.imp id (Part.on_of_sub h)
  fba := s.fba.imp id (Part.on_of_sub h)
  ctr := s.ctr.imp id (Part.on_of_sub h)
  imd := s.imd.imp id (Part.on_of_sub h)
  tlm := s.tlm.imp id (Part.on_of_sub h)
  shr := s.shr.imp id (Part.on_of_sub h)
  rt := s.rt.imp id (Part.on_of_sub h)
  net := s.net.imp id (Part.on_of_sub h)
  svg := s.svg.imp id (Part.on_of_sub h)
  met := s.met.imp id (Part.on_of_sub h)
  bil := s.bil.imp id (Part.on_of_sub h)
  bst := s.bst.imp id (Part.on_of_sub h)
  tw := s.tw.imp id (Part.on_of_sub h)
  ffuse := s.ffuse.imp id (fun x => ⟨Part.on_of_sub h x.1, x.2⟩)
  hfuse := s.hfuse.imp id (fun x => ⟨Part.on_of_sub h x.1, x.2⟩)
  fsec := s.fsec.imp id (Part.on_of_sub h)
  enc := s.enc.imp id (Part.on_of_sub h)
  stk := s.stk.imp id (Part.on_of_sub h)
  can := s.can.imp id (Part.on_of_sub h)
  hp := s.hp.imp id (Part.on_of_sub h)
  th := s.th.imp id (Part.on_of_sub h)

theorem Reach.mono {k m : Nat} (h : Part.sub k m = true) {d e : Dev} (r : Reach k d e) : Reach m d e := by
  induction r with
  | refl => exact .refl _
  | wr f v hm _ ih => exact .wr f v (Part.on_of_sub h hm) ih
  | reset p hm _ ih => exact .reset p (Part.on_of_sub h hm) ih
  | parts s sh _ ih => exact .parts (s.mono h) sh ih

/-- A function that reaches within `k`, run behind what is reached within `m`. -/
theorem Reach.step {k m : Nat} {a d e : Dev} (h : Reach m a d) (g : Reach k d e) (hs : Part.sub k m = true) : Reach m a e := h.trans (g.mono hs)

/-- `Reach` of a block written out field by field (the form a record update takes). -/
def ReachMk (m : Nat) (d : Dev) (regs : Regs) (fmem : Mem) (hmem : Mem) (lastRead : Nat) (busError : Bool) (free : Nat) (inj : Inject) (jr : Journal) (rings : Rings) (pw : Power) (fl : Flue) (tm : SiteTime) (st : Sts) (ce : Ce) (dgr : Dgr) (pwm : Pwm) (out : List OutRt) (cbl : List CableRt) (veh : List VehRt) (cap : Cap) (ash : Ash) (fba : Fba) (ctr : Ctr) (imd : List ImdRt) (tlm : Tlm) (shr : Shr) (rt : Route) (net : Net) (svg : Svg) (met : Metr) (bil : Bil) (bst : BilStore) (tw : Theft) (ffuse : Fuses) (hfuse : Fuses) (fsec : Fsec) (enc : Enclave) (stk : Stk) (can : List CanRt) (hp : HostPlat) (th : Therm) : Prop := Reach m d (Dev.mk regs fmem hmem lastRead busError free inj jr rings pw fl tm st ce dgr pwm out cbl veh cap ash fba ctr imd tlm shr rt net svg met bil bst tw ffuse hfuse fsec enc stk can hp th)

theorem Reach.mk_eq (m : Nat) (d : Dev) (regs : Regs) (fmem : Mem) (hmem : Mem) (lastRead : Nat) (busError : Bool) (free : Nat) (inj : Inject) (jr : Journal) (rings : Rings) (pw : Power) (fl : Flue) (tm : SiteTime) (st : Sts) (ce : Ce) (dgr : Dgr) (pwm : Pwm) (out : List OutRt) (cbl : List CableRt) (veh : List VehRt) (cap : Cap) (ash : Ash) (fba : Fba) (ctr : Ctr) (imd : List ImdRt) (tlm : Tlm) (shr : Shr) (rt : Route) (net : Net) (svg : Svg) (met : Metr) (bil : Bil) (bst : BilStore) (tw : Theft) (ffuse : Fuses) (hfuse : Fuses) (fsec : Fsec) (enc : Enclave) (stk : Stk) (can : List CanRt) (hp : HostPlat) (th : Therm) : Reach m d (Dev.mk regs fmem hmem lastRead busError free inj jr rings pw fl tm st ce dgr pwm out cbl veh cap ash fba ctr imd tlm shr rt net svg met bil bst tw ffuse hfuse fsec enc stk can hp th) = ReachMk m d regs fmem hmem lastRead busError free inj jr rings pw fl tm st ce dgr pwm out cbl veh cap ash fba ctr imd tlm shr rt net svg met bil bst tw ffuse hfuse fsec enc stk can hp th := rfl

theorem ReachMk.intro {m : Nat} {d e : Dev} {regs : Regs} {fmem : Mem} {hmem : Mem} {lastRead : Nat} {busError : Bool} {free : Nat} {inj : Inject} {jr : Journal} {rings : Rings} {pw : Power} {fl : Flue} {tm : SiteTime} {st : Sts} {ce : Ce} {dgr : Dgr} {pwm : Pwm} {out : List OutRt} {cbl : List CableRt} {veh : List VehRt} {cap : Cap} {ash : Ash} {fba : Fba} {ctr : Ctr} {imd : List ImdRt} {tlm : Tlm} {shr : Shr} {rt : Route} {net : Net} {svg : Svg} {met : Metr} {bil : Bil} {bst : BilStore} {tw : Theft} {ffuse : Fuses} {hfuse : Fuses} {fsec : Fsec} {enc : Enclave} {stk : Stk} {can : List CanRt} {hp : HostPlat} {th : Therm}
    (h_regs : regs = e.regs) (h_fmem : fmem = e.fmem ∨ Part.on m Part.fmem = true ∧ MemStep e.fmem fmem) (h_hmem : hmem = e.hmem ∨ Part.on m Part.hmem = true ∧ MemStep e.hmem hmem) (h_lastRead : lastRead = e.lastRead ∨ Part.on m Part.lastRead = true) (h_busError : busError = e.busError ∨ Part.on m Part.busError = true) (h_free : free = e.free ∨ Part.on m Part.free = true) (h_inj : inj = e.inj ∨ Part.on m Part.inj = true) (h_jr : jr = e.jr ∨ Part.on m Part.jr = true) (h_rings : rings = e.rings ∨ Part.on m Part.rings = true) (h_pw : pw = e.pw ∨ Part.on m Part.pw = true) (h_fl : fl = e.fl ∨ Part.on m Part.fl = true) (h_tm : tm = e.tm ∨ Part.on m Part.tm = true ∧ (d.Shaped → e.Shaped → tm.Shaped)) (h_st : st = e.st ∨ Part.on m Part.st = true) (h_ce : ce = e.ce ∨ Part.on m Part.ce = true ∧ (d.Shaped → e.Shaped → ce.Shaped)) (h_dgr : dgr = e.dgr ∨ Part.on m Part.dgr = true ∧ (d.Shaped → e.Shaped → dgr.Shaped)) (h_pwm : pwm = e.pwm ∨ Part.on m Part.pwm = true ∧ (d.Shaped → e.Shaped → pwm.Shaped)) (h_out : out = e.out ∨ Part.on m Part.out = true ∧ (d.Shaped → e.Shaped → out.length = 4)) (h_cbl : cbl = e.cbl ∨ Part.on m Part.cbl = true ∧ (d.Shaped → e.Shaped → cbl.length = 4)) (h_veh : veh = e.veh ∨ Part.on m Part.veh = true ∧ (d.Shaped → e.Shaped → veh.length = 4)) (h_cap : cap = e.cap ∨ Part.on m Part.cap = true) (h_ash : ash = e.ash ∨ Part.on m Part.ash = true) (h_fba : fba = e.fba ∨ Part.on m Part.fba = true ∧ (d.Shaped → e.Shaped → fba.Shaped)) (h_ctr : ctr = e.ctr ∨ Part.on m Part.ctr = true) (h_imd : imd = e.imd ∨ Part.on m Part.imd = true ∧ (d.Shaped → e.Shaped → imd.length = 4)) (h_tlm : tlm = e.tlm ∨ Part.on m Part.tlm = true) (h_shr : shr = e.shr ∨ Part.on m Part.shr = true) (h_rt : rt = e.rt ∨ Part.on m Part.rt = true) (h_net : net = e.net ∨ Part.on m Part.net = true ∧ (d.Shaped → e.Shaped → net.Shaped)) (h_svg : svg = e.svg ∨ Part.on m Part.svg = true ∧ (d.Shaped → e.Shaped → svg.Shaped)) (h_met : met = e.met ∨ Part.on m Part.met = true ∧ (d.Shaped → e.Shaped → met.Shaped)) (h_bil : bil = e.bil ∨ Part.on m Part.bil = true ∧ (d.Shaped → e.Shaped → bil.Shaped)) (h_bst : bst = e.bst ∨ Part.on m Part.bst = true ∧ (d.Shaped → e.Shaped → bst.Shaped)) (h_tw : tw = e.tw ∨ Part.on m Part.tw = true) (h_ffuse : ffuse = e.ffuse ∨ Part.on m Part.ffuse = true ∧ Fuses.Le e.ffuse ffuse) (h_hfuse : hfuse = e.hfuse ∨ Part.on m Part.hfuse = true ∧ Fuses.Le e.hfuse hfuse) (h_fsec : fsec = e.fsec ∨ Part.on m Part.fsec = true) (h_enc : enc = e.enc ∨ Part.on m Part.enc = true) (h_stk : stk = e.stk ∨ Part.on m Part.stk = true ∧ (d.Shaped → e.Shaped → stk.Shaped)) (h_can : can = e.can ∨ Part.on m Part.can = true ∧ (d.Shaped → e.Shaped → can.length = 4)) (h_hp : hp = e.hp ∨ Part.on m Part.hp = true ∧ (d.Shaped → e.Shaped → hp.Shaped)) (h_th : th = e.th ∨ Part.on m Part.th = true ∧ (d.Shaped → e.Shaped → th.Shaped))
    (r : Reach m d e) : ReachMk m d regs fmem hmem lastRead busError free inj jr rings pw fl tm st ce dgr pwm out cbl veh cap ash fba ctr imd tlm shr rt net svg met bil bst tw ffuse hfuse fsec enc stk can hp th := .parts ⟨h_regs, h_fmem, h_hmem, h_lastRead, h_busError, h_free, h_inj, h_jr, h_rings, h_pw, h_fl, h_tm.imp id And.left, h_st, h_ce.imp id And.left, h_dgr.imp id And.left, h_pwm.imp id And.left, h_out.imp id And.left, h_cbl.imp id And.left, h_veh.imp id And.left, h_cap, h_ash, h_fba.imp id And.left, h_ctr, h_imd.imp id And.left, h_tlm, h_shr, h_rt, h_net.imp id And.left, h_svg.imp id And.left, h_met.imp id And.left, h_bil.imp id And.left, h_bst.imp id And.left, h_tw, h_ffuse, h_hfuse, h_fsec, h_enc, h_stk.imp id And.left, h_can.imp id And.left, h_hp.imp id And.left, h_th.imp id And.left⟩
    (fun hd => have he := r.shaped hd; ⟨h_tm.elim (fun h => h ▸ he.tm) (fun h => h.2 hd he), h_ce.elim (fun h => h ▸ he.ce) (fun h => h.2 hd he), h_dgr.elim (fun h => h ▸ he.dgr) (fun h => h.2 hd he), h_pwm.elim (fun h => h ▸ he.pwm) (fun h => h.2 hd he), h_out.elim (fun h => h ▸ he.out) (fun h => h.2 hd he), h_cbl.elim (fun h => h ▸ he.cbl) (fun h => h.2 hd he), h_veh.elim (fun h => h ▸ he.veh) (fun h => h.2 hd he), h_fba.elim (fun h => h ▸ he.fba) (fun h => h.2 hd he), h_imd.elim (fun h => h ▸ he.imd) (fun h => h.2 hd he), h_net.elim (fun h => h ▸ he.net) (fun h => h.2 hd he), h_svg.elim (fun h => h ▸ he.svg) (fun h => h.2 hd he), h_met.elim (fun h => h ▸ he.met) (fun h => h.2 hd he), h_bil.elim (fun h => h ▸ he.bil) (fun h => h.2 hd he), h_bst.elim (fun h => h ▸ he.bst) (fun h => h.2 hd he), h_ffuse.elim (fun h => h ▸ he.ffuse) (fun h => h.2.count.trans he.ffuse), h_hfuse.elim (fun h => h ▸ he.hfuse) (fun h => h.2.count.trans he.hfuse), h_stk.elim (fun h => h ▸ he.stk) (fun h => h.2 hd he), h_can.elim (fun h => h ▸ he.can) (fun h => h.2 hd he), h_hp.elim (fun h => h ▸ he.hp) (fun h => h.2 hd he), h_th.elim (fun h => h ▸ he.th) (fun h => h.2 hd he)⟩) r

theorem Reach.keep_tm {m : Nat} {a y : Dev} {x : SiteTime} (h : a.Shaped → x.Shaped) (k : (a.Shaped → x.Shaped) → Reach m a y) : Reach m a y := k h

theorem Reach.keep_ce {m : Nat} {a y : Dev} {x : Ce} (h : a.Shaped → x.Shaped) (k : (a.Shaped → x.Shaped) → Reach m a y) : Reach m a y := k h

theorem Reach.keep_dgr {m : Nat} {a y : Dev} {x : Dgr} (h : a.Shaped → x.Shaped) (k : (a.Shaped → x.Shaped) → Reach m a y) : Reach m a y := k h

theorem Reach.keep_pwm {m : Nat} {a y : Dev} {x : Pwm} (h : a.Shaped → x.Shaped) (k : (a.Shaped → x.Shaped) → Reach m a y) : Reach m a y := k h

theorem Reach.keep_out {m : Nat} {a y : Dev} {x : List OutRt} (h : a.Shaped → x.length = 4) (k : (a.Shaped → x.length = 4) → Reach m a y) : Reach m a y := k h

theorem Reach.keep_cbl {m : Nat} {a y : Dev} {x : List CableRt} (h : a.Shaped → x.length = 4) (k : (a.Shaped → x.length = 4) → Reach m a y) : Reach m a y := k h

theorem Reach.keep_veh {m : Nat} {a y : Dev} {x : List VehRt} (h : a.Shaped → x.length = 4) (k : (a.Shaped → x.length = 4) → Reach m a y) : Reach m a y := k h

theorem Reach.keep_fba {m : Nat} {a y : Dev} {x : Fba} (h : a.Shaped → x.Shaped) (k : (a.Shaped → x.Shaped) → Reach m a y) : Reach m a y := k h

theorem Reach.keep_imd {m : Nat} {a y : Dev} {x : List ImdRt} (h : a.Shaped → x.length = 4) (k : (a.Shaped → x.length = 4) → Reach m a y) : Reach m a y := k h

theorem Reach.keep_net {m : Nat} {a y : Dev} {x : Net} (h : a.Shaped → x.Shaped) (k : (a.Shaped → x.Shaped) → Reach m a y) : Reach m a y := k h

theorem Reach.keep_svg {m : Nat} {a y : Dev} {x : Svg} (h : a.Shaped → x.Shaped) (k : (a.Shaped → x.Shaped) → Reach m a y) : Reach m a y := k h

theorem Reach.keep_met {m : Nat} {a y : Dev} {x : Metr} (h : a.Shaped → x.Shaped) (k : (a.Shaped → x.Shaped) → Reach m a y) : Reach m a y := k h

theorem Reach.keep_bil {m : Nat} {a y : Dev} {x : Bil} (h : a.Shaped → x.Shaped) (k : (a.Shaped → x.Shaped) → Reach m a y) : Reach m a y := k h

theorem Reach.keep_bst {m : Nat} {a y : Dev} {x : BilStore} (h : a.Shaped → x.Shaped) (k : (a.Shaped → x.Shaped) → Reach m a y) : Reach m a y := k h

theorem Reach.keep_stk {m : Nat} {a y : Dev} {x : Stk} (h : a.Shaped → x.Shaped) (k : (a.Shaped → x.Shaped) → Reach m a y) : Reach m a y := k h

theorem Reach.keep_can {m : Nat} {a y : Dev} {x : List CanRt} (h : a.Shaped → x.length = 4) (k : (a.Shaped → x.length = 4) → Reach m a y) : Reach m a y := k h

theorem Reach.keep_hp {m : Nat} {a y : Dev} {x : HostPlat} (h : a.Shaped → x.Shaped) (k : (a.Shaped → x.Shaped) → Reach m a y) : Reach m a y := k h

theorem Reach.keep_th {m : Nat} {a y : Dev} {x : Therm} (h : a.Shaped → x.Shaped) (k : (a.Shaped → x.Shaped) → Reach m a y) : Reach m a y := k h

theorem Reach.keep_len {m n : Nat} {a y : Dev} {α : Type} {x : List α} (h : a.Shaped → x.length = n) (k : (a.Shaped → x.length = n) → Reach m a y) : Reach m a y := k h

theorem Reach.via {k m : Nat} {a d e : Dev} (g : Reach k d e) (hs : Part.sub k m = true) (r : Reach m a d) : Reach m a e := r.step g hs

theorem Reach.wr' {m : Nat} {a d : Dev} {f : Fld} {v : Nat} (h : Part.on m Part.regs = true) (r : Reach m a d) : Reach m a (d.wr f v) := .wr f v h r

theorem Reach.reset' {m : Nat} {a d : Dev} {p : Dom → Bool} (h : Part.on m Part.regs = true) (r : Reach m a d) : Reach m a (d.resetDomains p) := .reset p h r

theorem Reach.ite {m : Nat} {a x y : Dev} {c : Prop} {i : Decidable c} (h : c → Reach m a x) (k : ¬c → Reach m a y) : Reach m a (if c then x else y) := by
  split
  · exact h ‹_›
  · exact k ‹_›

theorem Reach.have {m : Nat} {a x y : Dev} (h : Reach m a x) (k : Reach m a x → (a.Shaped → x.Shaped) → Reach m a y) : Reach m a y := k h h.shaped

theorem Dev.forAll_reach {m : Nat} {α : Type} {a d : Dev} {xs : List α} {f : Dev → α → Dev} (h : Reach m a d)
    (hf : ∀ (e : Dev) (x : α), Reach m a e → (a.Shaped → e.Shaped) → Reach m a (f e x)) : Reach m a (d.forAll xs f) := by
  unfold Dev.forAll
  induction xs generalizing d with
  | nil => exact h
  | cons x xs ih => exact ih (hf d x h h.shaped)

theorem Dev.when_reach {m : Nat} {a d : Dev} {c : Bool} {f : Dev → Dev} (h : Reach m a d) (hf : ∀ e, Reach m a e → (a.Shaped → e.Shaped) → Reach m a (f e)) : Reach m a (d.when c f) := by
  unfold Dev.when
  split
  · exact hf d h h.shaped
  · exact h

theorem Dev.onCan_reach {m : Nat} {a d : Dev} {c : Nat} {f : Dev → Dev} (h : Reach m a d) (hf : ∀ e, Reach m a e → (a.Shaped → e.Shaped) → Reach m a (f e)) : Reach m a (d.onCan c f) := by
  unfold Dev.onCan
  split
  · exact hf d h h.shaped
  · exact h

theorem Dev.onF4_reach {m : Nat} {a d : Dev} {f : Dev → Dev} (h : Reach m a d) (hf : ∀ e, Reach m a e → (a.Shaped → e.Shaped) → Reach m a (f e)) : Reach m a (d.onF4 f) := by
  unfold Dev.onF4
  split
  · exact hf d h h.shaped
  · exact h

end Sys2Proof.Machine
end

