-- ==== Sys2Proof/Laws/ReachOps.lean ====
section
/-! SUPPORT. What the functions of Machine/Ops.lean can do to the block. -/

set_option linter.tactic.unusedName false
set_option linter.unusedTactic false
set_option linter.unusedSimpArgs false
set_option linter.unreachableTactic false
set_option maxHeartbeats 800000

namespace Sys2Proof.Machine

theorem Dev.wrS_reach (d : Dev) (f : Fld) (x : Int) : Reach (Part.regs) d (Dev.wrS d f x) := by
  unfold Dev.wrS
  with_reducible repeat' (first | assumption | exact .refl _ | (apply Reach.wr'; decide))

theorem Dev.wrB_reach (d : Dev) (f : Fld) (b : Bool) : Reach (Part.regs) d (Dev.wrB d f b) := by
  unfold Dev.wrB
  with_reducible repeat' (first | assumption | exact .refl _ | (apply Reach.wr'; decide))

theorem Dev.bumpBy_reach (d : Dev) (f : Fld) (k : Nat) : Reach (Part.regs) d (Dev.bumpBy d f k) := by
  unfold Dev.bumpBy
  with_reducible repeat' (first | assumption | exact .refl _ | (apply Reach.wr'; decide) | dsimp only)

theorem Dev.bump_reach (d : Dev) (f : Fld) : Reach (Part.regs) d (Dev.bump d f) := by
  unfold Dev.bump
  with_reducible repeat' (first | assumption | exact .refl _ | (apply Reach.via (Dev.bumpBy_reach ..); decide) | dsimp only)

theorem Dev.wrAll_reach (d : Dev) (ws : List (Fld × Nat)) : Reach (Part.regs) d (d.wrAll ws) := by
  unfold Dev.wrAll
  induction ws generalizing d with
  | nil => exact .refl _
  | cons w ws ih => exact (Reach.wr w.1 w.2 (by decide) (.refl d)).trans (ih _)


theorem Dev.wrPair_reach (d : Dev) (lo hi : Fld) (v : Nat) : Reach (Part.regs) d (Dev.wrPair d lo hi v) := by
  unfold Dev.wrPair
  with_reducible repeat' (first | assumption | exact .refl _ | (apply Reach.wr'; decide))

theorem Dev.drawFree_reach (d : Dev) (m : Nat) : Reach (Part.free) d (Dev.drawFree d m).2 := by
  unfold Dev.drawFree
  with_reducible repeat' (first | assumption | exact .refl _ | (extract_lets +onlyGivenNames x; clear_value x) | simp -zeta -iota only [↓Reach.mk_eq] | dsimp only | (apply ReachMk.intro <;> first | exact .inr (by decide) | rfl | exact .inl rfl | skip))

theorem Dev.drawFree_reach' {d : Dev} {m : Nat} {rr0 : Nat} {re : Dev} (he : Dev.drawFree d m = (rr0, re)) : Reach (Part.free) d re := by
  have hreach := Dev.drawFree_reach d m
  rw [he] at hreach
  exact hreach

theorem Dev.drawFree_via' {mm : Nat} {aa : Dev} {d : Dev} {m : Nat} {rr0 : Nat} {re : Dev} (hs : Part.sub (Part.free) mm = true) (he : Dev.drawFree d m = (rr0, re)) (hr : Reach mm aa d) : Reach mm aa re := hr.step (Dev.drawFree_reach' he) hs

theorem Dev.advanceTo_reach (d : Dev) (q : Nat) : Reach (Part.tm) d (Dev.advanceTo d q) := by
  unfold Dev.advanceTo
  with_reducible repeat' (first | assumption | exact .refl _ | (extract_lets +onlyGivenNames x; first | (have hf : SiteTime := x; clear hf; refine Reach.keep_tm (x := x) ?_ (fun hx => ?_); (· intro hs; unfold x; clear x; (repeat' (first | ((try simp only [SiteTime.Shaped] at *); simp +zetaDelta (maxDischargeDepth := 9) only [SiteTime.Shaped, Dev.Shaped.tm_pdelaySeq, Dev.Shaped.wr, Dev.Shaped.resetDomains, setAt_length, addAt_length, List.length_map, List.length_replicate, List.length_cons, List.length_nil, List.length_zipWith, List.length_range, List.length_append, List.length_drop, List.length_take, Nat.reduceSub, Nat.reduceLeDiff, Nat.min_eq_left, *, and_self, Nat.reduceAdd, Nat.zero_add]; done) | split))); clear_value x) | clear_value x) | simp -zeta -iota only [↓Reach.mk_eq] | (apply ReachMk.intro <;> first | exact .inr (by decide) | rfl | exact .inl rfl | (refine .inr ⟨by decide, fun hs he => ?_⟩; (repeat' (first | ((try simp only [SiteTime.Shaped] at *); simp +zetaDelta (maxDischargeDepth := 9) only [SiteTime.Shaped, Dev.Shaped.tm_pdelaySeq, Dev.Shaped.wr, Dev.Shaped.resetDomains, setAt_length, addAt_length, List.length_map, List.length_replicate, List.length_cons, List.length_nil, List.length_zipWith, List.length_range, List.length_append, List.length_drop, List.length_take, Nat.reduceSub, Nat.reduceLeDiff, Nat.min_eq_left, *, and_self, Nat.reduceAdd, Nat.zero_add]; done) | split)); done) | skip))

theorem Dev.hostAdvanceTo_reach (d : Dev) (ns : Nat) : Reach (Part.tm) d (Dev.hostAdvanceTo d ns) := by
  unfold Dev.hostAdvanceTo
  with_reducible repeat' (first | assumption | exact .refl _ | (extract_lets +onlyGivenNames x; first | (have hf : SiteTime := x; clear hf; refine Reach.keep_tm (x := x) ?_ (fun hx => ?_); (· intro hs; unfold x; clear x; (repeat' (first | ((try simp only [SiteTime.Shaped] at *); simp +zetaDelta (maxDischargeDepth := 9) only [SiteTime.Shaped, Dev.Shaped.tm_pdelaySeq, Dev.Shaped.wr, Dev.Shaped.resetDomains, setAt_length, addAt_length, List.length_map, List.length_replicate, List.length_cons, List.length_nil, List.length_zipWith, List.length_range, List.length_append, List.length_drop, List.length_take, Nat.reduceSub, Nat.reduceLeDiff, Nat.min_eq_left, *, and_self, Nat.reduceAdd, Nat.zero_add]; done) | split))); clear_value x) | clear_value x) | simp -zeta -iota only [↓Reach.mk_eq] | (apply ReachMk.intro <;> first | exact .inr (by decide) | rfl | exact .inl rfl | (refine .inr ⟨by decide, fun hs he => ?_⟩; (repeat' (first | ((try simp only [SiteTime.Shaped] at *); simp +zetaDelta (maxDischargeDepth := 9) only [SiteTime.Shaped, Dev.Shaped.tm_pdelaySeq, Dev.Shaped.wr, Dev.Shaped.resetDomains, setAt_length, addAt_length, List.length_map, List.length_replicate, List.length_cons, List.length_nil, List.length_zipWith, List.length_range, List.length_append, List.length_drop, List.length_take, Nat.reduceSub, Nat.reduceLeDiff, Nat.min_eq_left, *, and_self, Nat.reduceAdd, Nat.zero_add]; done) | split)); done) | skip))

theorem Dev.idle_reach (d : Dev) : Reach (Part.tm) d (Dev.idle d) := by
  unfold Dev.idle
  with_reducible repeat' (first | assumption | exact .refl _ | (extract_lets +onlyGivenNames x; first | (refine Reach.have (x := x) ?_ (fun hx hxs => ?_); unfold x; clear x; rotate_left; clear_value x) | (have hf : SiteTime := x; clear hf; refine Reach.keep_tm (x := x) ?_ (fun hx => ?_); (· intro hs; unfold x; clear x; (repeat' (first | ((try simp only [SiteTime.Shaped] at *); simp +zetaDelta (maxDischargeDepth := 9) only [SiteTime.Shaped, Dev.Shaped.tm_pdelaySeq, Dev.Shaped.wr, Dev.Shaped.resetDomains, setAt_length, addAt_length, List.length_map, List.length_replicate, List.length_cons, List.length_nil, List.length_zipWith, List.length_range, List.length_append, List.length_drop, List.length_take, Nat.reduceSub, Nat.reduceLeDiff, Nat.min_eq_left, *, and_self, Nat.reduceAdd, Nat.zero_add]; done) | split))); clear_value x) | clear_value x) | (apply Reach.ite <;> intro) | simp -zeta -iota only [↓Reach.mk_eq] | split | dsimp only | (apply ReachMk.intro <;> first | exact .inr (by decide) | rfl | exact .inl rfl | (refine .inr ⟨by decide, fun hs he => ?_⟩; (repeat' (first | ((try simp only [SiteTime.Shaped] at *); simp +zetaDelta (maxDischargeDepth := 9) only [SiteTime.Shaped, Dev.Shaped.tm_pdelaySeq, Dev.Shaped.wr, Dev.Shaped.resetDomains, setAt_length, addAt_length, List.length_map, List.length_replicate, List.length_cons, List.length_nil, List.length_zipWith, List.length_range, List.length_append, List.length_drop, List.length_take, Nat.reduceSub, Nat.reduceLeDiff, Nat.min_eq_left, *, and_self, Nat.reduceAdd, Nat.zero_add]; done) | split)); done) | skip))

end Sys2Proof.Machine
end

