-- ==== Sys2Proof/Laws/ReachEvents.lean ====
section
/-! SUPPORT. What the functions of Machine/Events.lean can do to the block. -/

set_option linter.tactic.unusedName false
set_option linter.unusedTactic false
set_option linter.unusedSimpArgs false
set_option linter.unreachableTactic false
set_option maxHeartbeats 800000

namespace Sys2Proof.Machine

theorem Dev.ringStore_reach (d : Dev) (r : Nat) (bs : List Byte) : Reach (Part.hmem ||| Part.rings) d (Dev.ringStore d r bs) := by
  unfold Dev.ringStore
  with_reducible repeat' (first | assumption | exact .refl _ | (extract_lets +onlyGivenNames x; first | (refine Reach.have (x := x) ?_ (fun hx hxs => ?_); unfold x; clear x; rotate_left; clear_value x) | (have hf : Mem := x; clear hf; unfold x; clear_value x) | clear_value x) | simp -zeta -iota only [↓Reach.mk_eq] | (apply ReachMk.intro <;> first | exact .inr (by decide) | rfl | exact .inl rfl | (refine .inr ⟨by decide, ?_⟩; (repeat' (first | exact MemStep.refl _ | exact MemStep.clear _ | apply MemStep.writeNat | apply MemStep.write | apply MemStep.drop)); done) | skip))

theorem Dev.ringFinish_reach (d : Dev) (r : Nat) (err info : Nat) (sop eop : Bool) : Reach (Part.regs ||| Part.hmem ||| Part.rings) d (Dev.ringFinish d r err info sop eop).1 := by
  unfold Dev.ringFinish
  with_reducible repeat' (first | assumption | exact .refl _ | (extract_lets +onlyGivenNames x; first | (refine Reach.have (x := x) ?_ (fun hx hxs => ?_); unfold x; clear x; rotate_left; clear_value x) | (have hf : Mem := x; clear hf; unfold x; clear_value x) | clear_value x) | (apply Reach.wr'; decide) | (apply Reach.ite <;> intro) | simp -zeta -iota only [↓Reach.mk_eq] | split | dsimp only | (apply ReachMk.intro <;> first | exact .inr (by decide) | rfl | exact .inl rfl | (refine .inr ⟨by decide, ?_⟩; (repeat' (first | exact MemStep.refl _ | exact MemStep.clear _ | apply MemStep.writeNat | apply MemStep.write | apply MemStep.drop)); done) | skip))

theorem Dev.ringFinish_reach' {d : Dev} {r : Nat} {err info : Nat} {sop eop : Bool} {re : Dev} {rr1 : Bool} (he : Dev.ringFinish d r err info sop eop = (re, rr1)) : Reach (Part.regs ||| Part.hmem ||| Part.rings) d re := by
  have hreach := Dev.ringFinish_reach d r err info sop eop
  rw [he] at hreach
  exact hreach

theorem Dev.ringFinish_via' {mm : Nat} {aa : Dev} {d : Dev} {r : Nat} {err info : Nat} {sop eop : Bool} {re : Dev} {rr1 : Bool} (hs : Part.sub (Part.regs ||| Part.hmem ||| Part.rings) mm = true) (he : Dev.ringFinish d r err info sop eop = (re, rr1)) (hr : Reach mm aa d) : Reach mm aa re := hr.step (Dev.ringFinish_reach' he) hs

theorem Dev.pend_reach (d : Dev) (n : Nat) : Reach (Part.regs) d (Dev.pend d n) := by
  unfold Dev.pend
  with_reducible repeat' (first | assumption | exact .refl _ | (apply Reach.wr'; decide))

theorem Dev.jrnWrite_reach (d : Dev) (first last ev kind typ flags count : Nat) (data : List Nat) : Reach (Part.regs ||| Part.hmem ||| Part.jr ||| Part.rings) d (Dev.jrnWrite d first last ev kind typ flags count data) := by
  unfold Dev.jrnWrite
  with_reducible repeat' (first | assumption | exact .refl _ | (extract_lets +onlyGivenNames x; first | (refine Reach.have (x := x) ?_ (fun hx hxs => ?_); unfold x; clear x; rotate_left; clear_value x) | (refine Reach.have (x := x.1) ?_ (fun hx hxs => ?_); unfold x; clear x; rotate_left; clear_value x) | (refine Reach.have (x := x.2) ?_ (fun hx hxs => ?_); unfold x; clear x; rotate_left; clear_value x) | clear_value x) | (apply Reach.wr'; decide) | (apply Reach.via (Dev.pend_reach ..); decide) | (apply Reach.via (Dev.ringFinish_reach ..); decide) | (apply Dev.ringFinish_via'; decide; assumption) | (apply Reach.via (Dev.ringStore_reach ..); decide) | (apply Reach.ite <;> intro) | simp -zeta -iota only [↓Reach.mk_eq] | split | dsimp only | (apply ReachMk.intro <;> first | exact .inr (by decide) | rfl | exact .inl rfl | skip))

theorem Dev.jrnShow_reach (d : Dev) : Reach (Part.regs) d (Dev.jrnShow d) := by
  unfold Dev.jrnShow
  with_reducible repeat' (first | assumption | exact .refl _ | (extract_lets +onlyGivenNames x; first | (refine Reach.have (x := x) ?_ (fun hx hxs => ?_); unfold x; clear x; rotate_left; clear_value x) | clear_value x) | (apply Reach.wr'; decide) | (apply Dev.forAll_reach <;> intros) | split | dsimp only)

theorem Dev.jrnHold_reach (d : Dev) (h : HeldRec) : Reach (Part.regs ||| Part.jr) d (Dev.jrnHold d h) := by
  unfold Dev.jrnHold
  with_reducible repeat' (first | assumption | exact .refl _ | (extract_lets +onlyGivenNames x; first | (refine Reach.have (x := x) ?_ (fun hx hxs => ?_); unfold x; clear x; rotate_left; clear_value x) | clear_value x) | (apply Reach.via (Dev.bump_reach ..); decide) | (apply Reach.via (Dev.bumpBy_reach ..); decide) | (apply Reach.via (Dev.jrnShow_reach ..); decide) | (apply Reach.via (Dev.pend_reach ..); decide) | (apply Reach.ite <;> intro) | simp -zeta -iota only [↓Reach.mk_eq] | split | (apply ReachMk.intro <;> first | exact .inr (by decide) | rfl | exact .inl rfl | skip))

theorem Dev.jrnReport_reach (d : Dev) (h : HeldRec) : Reach (Part.regs ||| Part.hmem ||| Part.jr ||| Part.rings) d (Dev.jrnReport d h) := by
  unfold Dev.jrnReport
  with_reducible repeat' (first | assumption | exact .refl _ | (extract_lets +onlyGivenNames x; first | (refine Reach.have (x := x) ?_ (fun hx hxs => ?_); unfold x; clear x; rotate_left; clear_value x) | clear_value x) | (apply Reach.wr'; decide) | (apply Reach.via (Dev.jrnHold_reach ..); decide) | (apply Reach.via (Dev.jrnWrite_reach ..); decide) | (apply Reach.via (Dev.pend_reach ..); decide) | (apply Reach.ite <;> intro) | simp -zeta -iota only [↓Reach.mk_eq] | split | dsimp only | (apply ReachMk.intro <;> first | exact .inr (by decide) | rfl | exact .inl rfl | skip))

theorem Dev.jrnHeldWrite_reach (d : Dev) (h : HeldRec) (rest : List HeldRec) : Reach (Part.regs ||| Part.hmem ||| Part.jr ||| Part.rings) d (Dev.jrnHeldWrite d h rest) := by
  unfold Dev.jrnHeldWrite
  with_reducible repeat' (first | assumption | exact .refl _ | (extract_lets +onlyGivenNames x; first | (refine Reach.have (x := x) ?_ (fun hx hxs => ?_); unfold x; clear x; rotate_left; clear_value x) | (have hf := fun y => (x y : Dev); clear hf; unfold x; clear_value x) | (have hf := fun y z => (x y z : Dev); clear hf; unfold x; clear_value x) | clear_value x) | (apply Reach.via (Dev.jrnWrite_reach ..); decide) | (apply Reach.ite <;> intro) | simp -zeta -iota only [↓Reach.mk_eq] | split | dsimp only | (apply ReachMk.intro <;> first | exact .inr (by decide) | rfl | exact .inl rfl | skip))

theorem Dev.jrnDrainGo_reach  (x0 : Nat) (d : Dev) : Reach (Part.regs ||| Part.hmem ||| Part.jr ||| Part.rings) d (Dev.jrnDrainGo  x0 d) := by
  induction x0 generalizing d with
  | zero => unfold Dev.jrnDrainGo; with_reducible repeat' (first | assumption | exact .refl _ | exact .trans (by assumption) (ih ..) | refine .trans ?_ (ih ..) | (extract_lets +onlyGivenNames x; clear_value x) | (apply Reach.via (Dev.jrnHeldWrite_reach ..); decide) | (apply Reach.ite <;> intro) | simp -zeta -iota only [↓Reach.mk_eq] | split | dsimp only | (apply ReachMk.intro <;> first | exact .inr (by decide) | rfl | exact .inl rfl | skip))
  | succ n ih => unfold Dev.jrnDrainGo; with_reducible repeat' (first | assumption | exact .refl _ | exact .trans (by assumption) (ih ..) | refine .trans ?_ (ih ..) | (extract_lets +onlyGivenNames x; clear_value x) | (apply Reach.via (Dev.jrnHeldWrite_reach ..); decide) | (apply Reach.ite <;> intro) | simp -zeta -iota only [↓Reach.mk_eq] | split | dsimp only | (apply ReachMk.intro <;> first | exact .inr (by decide) | rfl | exact .inl rfl | skip))

theorem Dev.jrnDrain_reach (d : Dev) : Reach (Part.regs ||| Part.hmem ||| Part.jr ||| Part.rings) d (Dev.jrnDrain d) := by
  unfold Dev.jrnDrain
  with_reducible repeat' (first | assumption | exact .refl _ | (apply Reach.via (Dev.jrnDrainGo_reach ..); decide) | (apply Reach.via (Dev.jrnShow_reach ..); decide))

theorem Dev.raiseH_reach (d : Dev) (n kind : Nat) (data : List Nat) : Reach (Part.regs ||| Part.hmem ||| Part.jr ||| Part.rings) d (Dev.raiseH d n kind data) := by
  unfold Dev.raiseH
  with_reducible repeat' (first | assumption | exact .refl _ | (extract_lets +onlyGivenNames x; first | (refine Reach.have (x := x) ?_ (fun hx hxs => ?_); unfold x; clear x; rotate_left; clear_value x) | clear_value x) | (apply Reach.via (Dev.jrnReport_reach ..); decide) | (apply Reach.via (Dev.pend_reach ..); decide) | (apply Reach.ite <;> intro) | simp -zeta -iota only [↓Reach.mk_eq] | split | dsimp only | (apply ReachMk.intro <;> first | exact .inr (by decide) | rfl | exact .inl rfl | skip))

theorem Dev.ringEvent_reach (d : Dev) (r : Nat) : Reach (Part.regs ||| Part.hmem ||| Part.jr ||| Part.rings) d (Dev.ringEvent d r) := by
  unfold Dev.ringEvent
  with_reducible repeat' (first | assumption | exact .refl _ | (apply Reach.wr'; decide) | (apply Reach.via (Dev.raiseH_reach ..); decide) | dsimp only)

theorem Dev.ringStall_reach (d : Dev) (r : Nat) : Reach (Part.regs ||| Part.hmem ||| Part.jr ||| Part.rings) d (Dev.ringStall d r) := by
  unfold Dev.ringStall
  with_reducible repeat' (first | assumption | exact .refl _ | (extract_lets +onlyGivenNames x; clear_value x) | (apply Reach.wr'; decide) | (apply Reach.via (Dev.ringEvent_reach ..); decide) | (apply Reach.ite <;> intro) | simp -zeta -iota only [↓Reach.mk_eq] | split | dsimp only | (apply ReachMk.intro <;> first | exact .inr (by decide) | rfl | exact .inl rfl | skip))

theorem Dev.ringReach_reach (d : Dev) (r : Nat) : Reach (Part.regs ||| Part.hmem ||| Part.jr ||| Part.rings) d (Dev.ringReach d r) := by
  unfold Dev.ringReach
  with_reducible repeat' (first | assumption | exact .refl _ | (apply Reach.via (Dev.ringStall_reach ..); decide) | (apply Reach.ite <;> intro) | split)

theorem Dev.ringComplete_reach (d : Dev) (r err info : Nat) (sop eop : Bool) : Reach (Part.regs ||| Part.hmem ||| Part.jr ||| Part.rings) d (Dev.ringComplete d r err info sop eop) := by
  unfold Dev.ringComplete
  with_reducible repeat' (first | assumption | exact .refl _ | (extract_lets +onlyGivenNames x; clear_value x) | (apply Reach.via (Dev.ringEvent_reach ..); decide) | (apply Reach.via (Dev.ringFinish_reach ..); decide) | (apply Dev.ringFinish_via'; decide; assumption) | (apply Reach.ite <;> intro) | split)

theorem Dev.ringFrameGo_reach  (x0 : Nat) (d : Dev) (x2 : Nat) (x3 : List Byte) (x4 : Nat) (x5 : Bool) : Reach (Part.regs ||| Part.hmem ||| Part.jr ||| Part.rings ||| Part.cap) d (Dev.ringFrameGo  x0 d x2 x3 x4 x5) := by
  induction x0 generalizing d x2 x3 x4 x5 with
  | zero => unfold Dev.ringFrameGo; with_reducible repeat' (first | assumption | exact .refl _ | exact .trans (by assumption) (ih ..) | refine .trans ?_ (ih ..) | (extract_lets +onlyGivenNames x; first | (refine Reach.have (x := x) ?_ (fun hx hxs => ?_); unfold x; clear x; rotate_left; clear_value x) | (refine Reach.have (x := x.1) ?_ (fun hx hxs => ?_); unfold x; clear x; rotate_left; clear_value x) | (refine Reach.have (x := x.2) ?_ (fun hx hxs => ?_); unfold x; clear x; rotate_left; clear_value x) | clear_value x) | (apply Reach.via (Dev.ringComplete_reach ..); decide) | (apply Reach.via (Dev.ringStore_reach ..); decide) | (apply Reach.ite <;> intro) | split | dsimp only)
  | succ n ih => unfold Dev.ringFrameGo; with_reducible repeat' (first | assumption | exact .refl _ | exact .trans (by assumption) (ih ..) | refine .trans ?_ (ih ..) | (extract_lets +onlyGivenNames x; first | (refine Reach.have (x := x) ?_ (fun hx hxs => ?_); unfold x; clear x; rotate_left; clear_value x) | (refine Reach.have (x := x.1) ?_ (fun hx hxs => ?_); unfold x; clear x; rotate_left; clear_value x) | (refine Reach.have (x := x.2) ?_ (fun hx hxs => ?_); unfold x; clear x; rotate_left; clear_value x) | clear_value x) | (apply Reach.via (Dev.ringComplete_reach ..); decide) | (apply Reach.via (Dev.ringStore_reach ..); decide) | (apply Reach.ite <;> intro) | split | dsimp only)

theorem Dev.ringFrame_reach (d : Dev) (r : Nat) (bs : List Byte) (info : Nat) : Reach (Part.regs ||| Part.hmem ||| Part.jr ||| Part.rings ||| Part.cap) d (Dev.ringFrame d r bs info) := by
  unfold Dev.ringFrame
  with_reducible repeat' (first | assumption | exact .refl _ | (extract_lets +onlyGivenNames x; first | (refine Reach.have (x := x) ?_ (fun hx hxs => ?_); unfold x; clear x; rotate_left; clear_value x) | (refine Reach.have (x := x.1) ?_ (fun hx hxs => ?_); unfold x; clear x; rotate_left; clear_value x) | (refine Reach.have (x := x.2) ?_ (fun hx hxs => ?_); unfold x; clear x; rotate_left; clear_value x) | clear_value x) | (apply Reach.via (Dev.bump_reach ..); decide) | (apply Reach.via (Dev.ringFrameGo_reach ..); decide) | (apply Reach.via (Dev.ringReach_reach ..); decide) | (apply Reach.ite <;> intro) | split | dsimp only)

theorem Dev.ringCell_reach (d : Dev) (r : Nat) (cell : List Byte) : Reach (Part.regs ||| Part.hmem ||| Part.jr ||| Part.rings ||| Part.cap) d (Dev.ringCell d r cell).1 := by
  unfold Dev.ringCell
  with_reducible repeat' (first | assumption | exact .refl _ | (extract_lets +onlyGivenNames x; first | (refine Reach.have (x := x) ?_ (fun hx hxs => ?_); unfold x; clear x; rotate_left; clear_value x) | clear_value x) | (apply Reach.via (Dev.ringComplete_reach ..); decide) | (apply Reach.via (Dev.ringReach_reach ..); decide) | (apply Reach.via (Dev.ringStore_reach ..); decide) | (apply Reach.ite <;> intro) | split | dsimp only)

theorem Dev.ringCell_reach' {d : Dev} {r : Nat} {cell : List Byte} {re : Dev} {rr1 : Bool} (he : Dev.ringCell d r cell = (re, rr1)) : Reach (Part.regs ||| Part.hmem ||| Part.jr ||| Part.rings ||| Part.cap) d re := by
  have hreach := Dev.ringCell_reach d r cell
  rw [he] at hreach
  exact hreach

theorem Dev.ringCell_via' {mm : Nat} {aa : Dev} {d : Dev} {r : Nat} {cell : List Byte} {re : Dev} {rr1 : Bool} (hs : Part.sub (Part.regs ||| Part.hmem ||| Part.jr ||| Part.rings ||| Part.cap) mm = true) (he : Dev.ringCell d r cell = (re, rr1)) (hr : Reach mm aa d) : Reach mm aa re := hr.step (Dev.ringCell_reach' he) hs

theorem Dev.ringDataEnd_reach (d : Dev) (r err info : Nat) (eop : Bool) : Reach (Part.regs ||| Part.hmem ||| Part.jr ||| Part.rings) d (Dev.ringDataEnd d r err info eop) := by
  unfold Dev.ringDataEnd
  with_reducible repeat' (first | assumption | exact .refl _ | (extract_lets +onlyGivenNames x; first | (refine Reach.have (x := x) ?_ (fun hx hxs => ?_); unfold x; clear x; rotate_left; clear_value x) | clear_value x) | (apply Reach.via (Dev.ringComplete_reach ..); decide) | simp -zeta -iota only [↓Reach.mk_eq] | (apply ReachMk.intro <;> first | exact .inr (by decide) | rfl | exact .inl rfl | skip))

theorem Dev.ringDataGo_reach  (x0 : Nat) (d : Dev) (x2 : Nat) (x3 : List Byte) (x4 : Nat) (x5 : Bool) : Reach (Part.regs ||| Part.hmem ||| Part.jr ||| Part.rings ||| Part.cap) d (Dev.ringDataGo  x0 d x2 x3 x4 x5).1 := by
  induction x0 generalizing d x2 x3 x4 x5 with
  | zero => unfold Dev.ringDataGo; with_reducible repeat' (first | assumption | exact .refl _ | exact .trans (by assumption) (ih ..) | refine .trans ?_ (ih ..) | (extract_lets +onlyGivenNames x; first | (refine Reach.have (x := x) ?_ (fun hx hxs => ?_); unfold x; clear x; rotate_left; clear_value x) | (refine Reach.have (x := x.1) ?_ (fun hx hxs => ?_); unfold x; clear x; rotate_left; clear_value x) | (refine Reach.have (x := x.2) ?_ (fun hx hxs => ?_); unfold x; clear x; rotate_left; clear_value x) | clear_value x) | (apply Reach.via (Dev.ringDataEnd_reach ..); decide) | (apply Reach.via (Dev.ringReach_reach ..); decide) | (apply Reach.via (Dev.ringStore_reach ..); decide) | (apply Reach.ite <;> intro) | split | dsimp only)
  | succ n ih => unfold Dev.ringDataGo; with_reducible repeat' (first | assumption | exact .refl _ | exact .trans (by assumption) (ih ..) | refine .trans ?_ (ih ..) | (extract_lets +onlyGivenNames x; first | (refine Reach.have (x := x) ?_ (fun hx hxs => ?_); unfold x; clear x; rotate_left; clear_value x) | (refine Reach.have (x := x.1) ?_ (fun hx hxs => ?_); unfold x; clear x; rotate_left; clear_value x) | (refine Reach.have (x := x.2) ?_ (fun hx hxs => ?_); unfold x; clear x; rotate_left; clear_value x) | clear_value x) | (apply Reach.via (Dev.ringDataEnd_reach ..); decide) | (apply Reach.via (Dev.ringReach_reach ..); decide) | (apply Reach.via (Dev.ringStore_reach ..); decide) | (apply Reach.ite <;> intro) | split | dsimp only)

theorem Dev.ringDataGo_reach' {x0 : Nat} {d : Dev} {x2 : Nat} {x3 : List Byte} {x4 : Nat} {x5 : Bool} {re : Dev} {rr1 : Bool} (he : Dev.ringDataGo  x0 d x2 x3 x4 x5 = (re, rr1)) : Reach (Part.regs ||| Part.hmem ||| Part.jr ||| Part.rings ||| Part.cap) d re := by
  have hreach := Dev.ringDataGo_reach x0 d x2 x3 x4 x5
  rw [he] at hreach
  exact hreach

theorem Dev.ringDataGo_via' {mm : Nat} {aa : Dev} {x0 : Nat} {d : Dev} {x2 : Nat} {x3 : List Byte} {x4 : Nat} {x5 : Bool} {re : Dev} {rr1 : Bool} (hs : Part.sub (Part.regs ||| Part.hmem ||| Part.jr ||| Part.rings ||| Part.cap) mm = true) (he : Dev.ringDataGo  x0 d x2 x3 x4 x5 = (re, rr1)) (hr : Reach mm aa d) : Reach mm aa re := hr.step (Dev.ringDataGo_reach' he) hs

theorem Dev.ringData_reach (d : Dev) (r : Nat) (bs : List Byte) (xfer : Nat) (sop eop : Bool) : Reach (Part.regs ||| Part.hmem ||| Part.jr ||| Part.rings ||| Part.cap) d (Dev.ringData d r bs xfer sop eop).1 := by
  unfold Dev.ringData
  with_reducible repeat' (first | assumption | exact .refl _ | (extract_lets +onlyGivenNames x; first | (refine Reach.have (x := x) ?_ (fun hx hxs => ?_); unfold x; clear x; rotate_left; clear_value x) | (refine Reach.have (x := x.1) ?_ (fun hx hxs => ?_); unfold x; clear x; rotate_left; clear_value x) | (refine Reach.have (x := x.2) ?_ (fun hx hxs => ?_); unfold x; clear x; rotate_left; clear_value x) | clear_value x) | (apply Reach.via (Dev.ringDataEnd_reach ..); decide) | (apply Reach.via (Dev.ringDataGo_reach ..); decide) | (apply Reach.ite <;> intro) | simp -zeta -iota only [↓Reach.mk_eq] | split | dsimp only | (apply ReachMk.intro <;> first | exact .inr (by decide) | rfl | exact .inl rfl | skip))

theorem Dev.ringData_reach' {d : Dev} {r : Nat} {bs : List Byte} {xfer : Nat} {sop eop : Bool} {re : Dev} {rr1 : Bool} (he : Dev.ringData d r bs xfer sop eop = (re, rr1)) : Reach (Part.regs ||| Part.hmem ||| Part.jr ||| Part.rings ||| Part.cap) d re := by
  have hreach := Dev.ringData_reach d r bs xfer sop eop
  rw [he] at hreach
  exact hreach

theorem Dev.ringData_via' {mm : Nat} {aa : Dev} {d : Dev} {r : Nat} {bs : List Byte} {xfer : Nat} {sop eop : Bool} {re : Dev} {rr1 : Bool} (hs : Part.sub (Part.regs ||| Part.hmem ||| Part.jr ||| Part.rings ||| Part.cap) mm = true) (he : Dev.ringData d r bs xfer sop eop = (re, rr1)) (hr : Reach mm aa d) : Reach mm aa re := hr.step (Dev.ringData_reach' he) hs

theorem Dev.sendF_reach (d : Dev) (q : Nat) (m : Msg) : Reach (Part.fl) d (Dev.sendF d q m) := by
  unfold Dev.sendF
  with_reducible repeat' (first | assumption | exact .refl _ | (extract_lets +onlyGivenNames x; clear_value x) | simp -zeta -iota only [↓Reach.mk_eq] | (apply ReachMk.intro <;> first | exact .inr (by decide) | rfl | exact .inl rfl | skip))

theorem Dev.sendH_reach (d : Dev) (q : Nat) (m : Msg) : Reach (Part.fl) d (Dev.sendH d q m) := by
  unfold Dev.sendH
  with_reducible repeat' (first | assumption | exact .refl _ | (extract_lets +onlyGivenNames x; clear_value x) | simp -zeta -iota only [↓Reach.mk_eq] | (apply ReachMk.intro <;> first | exact .inr (by decide) | rfl | exact .inl rfl | skip))

theorem Dev.raise_reach (d : Dev) (n kind : Nat) (data : List Nat) : Reach (Part.fl) d (Dev.raise d n kind data) := by
  unfold Dev.raise
  with_reducible repeat' (first | assumption | exact .refl _ | (extract_lets +onlyGivenNames x; first | (refine Reach.have (x := x) ?_ (fun hx hxs => ?_); unfold x; clear x; rotate_left; clear_value x) | clear_value x) | (apply Reach.via (Dev.sendF_reach ..); decide) | (apply Reach.ite <;> intro) | simp -zeta -iota only [↓Reach.mk_eq] | split | dsimp only | (apply ReachMk.intro <;> first | exact .inr (by decide) | rfl | exact .inl rfl | skip))

theorem Dev.raiseOn_reach (d : Dev) (side : Side) (nF nH kind : Nat) (data : List Nat) : Reach (Part.regs ||| Part.hmem ||| Part.jr ||| Part.rings ||| Part.fl) d (Dev.raiseOn d side nF nH kind data) := by
  unfold Dev.raiseOn
  with_reducible repeat' (first | assumption | exact .refl _ | (extract_lets +onlyGivenNames x; clear_value x) | (apply Reach.via (Dev.raise_reach ..); decide) | (apply Reach.via (Dev.raiseH_reach ..); decide) | simp -zeta -iota only [↓Reach.mk_eq] | split | (apply ReachMk.intro <;> first | exact .inr (by decide) | rfl | exact .inl rfl | skip))

theorem Dev.injShow_reach (d : Dev) : Reach (Part.regs) d (Dev.injShow d) := by
  unfold Dev.injShow
  with_reducible repeat' (first | assumption | exact .refl _ | (extract_lets +onlyGivenNames x; first | (refine Reach.have (x := x) ?_ (fun hx hxs => ?_); unfold x; clear x; rotate_left; clear_value x) | (have hf := fun y => (x y : Dev); clear hf; unfold x; clear_value x) | (have hf := fun y z => (x y z : Dev); clear hf; unfold x; clear_value x) | clear_value x) | (apply Reach.via (Dev.wrAll_reach ..); decide) | simp -zeta -iota only [↓Reach.mk_eq] | split | (apply ReachMk.intro <;> first | exact .inr (by decide) | rfl | exact .inl rfl | skip))

theorem Dev.injEnd_reach (d : Dev) (point inst : Nat) : Reach (Part.regs ||| Part.hmem ||| Part.inj ||| Part.jr ||| Part.rings ||| Part.fl) d (Dev.injEnd d point inst) := by
  unfold Dev.injEnd
  with_reducible repeat' (first | assumption | exact .refl _ | (extract_lets +onlyGivenNames x; first | (refine Reach.have (x := x) ?_ (fun hx hxs => ?_); unfold x; clear x; rotate_left; clear_value x) | (have hf := fun y => (x y : Dev); clear hf; unfold x; clear_value x) | (have hf := fun y z => (x y z : Dev); clear hf; unfold x; clear_value x) | clear_value x) | (apply Reach.via (Dev.injShow_reach ..); decide) | (apply Reach.via (Dev.raiseOn_reach ..); decide) | (apply Reach.ite <;> intro) | simp -zeta -iota only [↓Reach.mk_eq] | split | (apply ReachMk.intro <;> first | exact .inr (by decide) | rfl | exact .inl rfl | skip))

theorem Dev.injUse_reach (d : Dev) (point inst : Nat) : Reach (Part.regs ||| Part.hmem ||| Part.inj ||| Part.jr ||| Part.rings ||| Part.fl) d (Dev.injUse d point inst) := by
  unfold Dev.injUse
  with_reducible repeat' (first | assumption | exact .refl _ | (extract_lets +onlyGivenNames x; first | (refine Reach.have (x := x) ?_ (fun hx hxs => ?_); unfold x; clear x; rotate_left; clear_value x) | (have hf := fun y => (x y : Dev); clear hf; unfold x; clear_value x) | (have hf := fun y z => (x y z : Dev); clear hf; unfold x; clear_value x) | clear_value x) | (apply Reach.via (Dev.injEnd_reach ..); decide) | (apply Reach.ite <;> intro) | simp -zeta -iota only [↓Reach.mk_eq] | split | dsimp only | (apply ReachMk.intro <;> first | exact .inr (by decide) | rfl | exact .inl rfl | skip))

end Sys2Proof.Machine
end

