-- ==== Sys2Proof/Laws/ReachKeys.lean ====
section
/-! SUPPORT. What the functions of Machine/Keys.lean can do to the block. -/

set_option linter.tactic.unusedName false
set_option linter.unusedTactic false
set_option linter.unusedSimpArgs false
set_option linter.unreachableTactic false
set_option maxHeartbeats 800000

namespace Sys2Proof.Machine

theorem Dev.setFuses_reach (d : Dev) (side : Side) (f : Fuses) (h : Fuses.Le (d.fuses side) f) : Reach (Part.ffuse ||| Part.hfuse) d (d.setFuses side f) := by
  cases side
  · exact .parts (e := d) { regs := rfl, ffuse := .inr ⟨by decide, h⟩, fmem := .inl rfl, hmem := .inl rfl, lastRead := .inl rfl, busError := .inl rfl, free := .inl rfl, inj := .inl rfl, jr := .inl rfl, rings := .inl rfl, pw := .inl rfl, fl := .inl rfl, tm := .inl rfl, st := .inl rfl, ce := .inl rfl, dgr := .inl rfl, pwm := .inl rfl, out := .inl rfl, cbl := .inl rfl, veh := .inl rfl, cap := .inl rfl, ash := .inl rfl, fba := .inl rfl, ctr := .inl rfl, imd := .inl rfl, tlm := .inl rfl, shr := .inl rfl, rt := .inl rfl, net := .inl rfl, svg := .inl rfl, met := .inl rfl, bil := .inl rfl, bst := .inl rfl, tw := .inl rfl, hfuse := .inl rfl, fsec := .inl rfl, enc := .inl rfl, stk := .inl rfl, can := .inl rfl, hp := .inl rfl, th := .inl rfl } (fun sh => ⟨sh.tm, sh.ce, sh.dgr, sh.pwm, sh.out, sh.cbl, sh.veh, sh.fba, sh.imd, sh.net, sh.svg, sh.met, sh.bil, sh.bst, h.count.trans sh.ffuse, sh.hfuse, sh.stk, sh.can, sh.hp, sh.th⟩) (.refl d)
  · exact .parts (e := d) { regs := rfl, hfuse := .inr ⟨by decide, h⟩, fmem := .inl rfl, hmem := .inl rfl, lastRead := .inl rfl, busError := .inl rfl, free := .inl rfl, inj := .inl rfl, jr := .inl rfl, rings := .inl rfl, pw := .inl rfl, fl := .inl rfl, tm := .inl rfl, st := .inl rfl, ce := .inl rfl, dgr := .inl rfl, pwm := .inl rfl, out := .inl rfl, cbl := .inl rfl, veh := .inl rfl, cap := .inl rfl, ash := .inl rfl, fba := .inl rfl, ctr := .inl rfl, imd := .inl rfl, tlm := .inl rfl, shr := .inl rfl, rt := .inl rfl, net := .inl rfl, svg := .inl rfl, met := .inl rfl, bil := .inl rfl, bst := .inl rfl, tw := .inl rfl, ffuse := .inl rfl, fsec := .inl rfl, enc := .inl rfl, stk := .inl rfl, can := .inl rfl, hp := .inl rfl, th := .inl rfl } (fun sh => ⟨sh.tm, sh.ce, sh.dgr, sh.pwm, sh.out, sh.cbl, sh.veh, sh.fba, sh.imd, sh.net, sh.svg, sh.met, sh.bil, sh.bst, sh.ffuse, h.count.trans sh.hfuse, sh.stk, sh.can, sh.hp, sh.th⟩) (.refl d)

theorem Dev.wrWords_reach (d : Dev) (f : Nat → Fld) (bs : List Byte) : Reach (Part.regs) d (Dev.wrWords d f bs) := by
  unfold Dev.wrWords
  with_reducible repeat' (first | assumption | exact .refl _ | (apply Reach.wr'; decide) | (apply Dev.forAll_reach <;> intros) | split | dsimp only)

theorem Dev.fuseShowF_reach (d : Dev) : Reach (Part.regs) d (Dev.fuseShowF d) := by
  unfold Dev.fuseShowF
  with_reducible repeat' (first | assumption | exact .refl _ | (extract_lets +onlyGivenNames x; first | (refine Reach.have (x := x) ?_ (fun hx hxs => ?_); unfold x; clear x; rotate_left; clear_value x) | clear_value x) | (apply Reach.via (Dev.wrAll_reach ..); decide) | (apply Reach.via (Dev.wrWords_reach ..); decide) | (apply Reach.ite <;> intro) | split)

theorem Dev.fuseShowH_reach (d : Dev) : Reach (Part.regs) d (Dev.fuseShowH d) := by
  unfold Dev.fuseShowH
  with_reducible repeat' (first | assumption | exact .refl _ | (extract_lets +onlyGivenNames x; first | (refine Reach.have (x := x) ?_ (fun hx hxs => ?_); unfold x; clear x; rotate_left; clear_value x) | clear_value x) | (apply Reach.via (Dev.wrAll_reach ..); decide))

end Sys2Proof.Machine
end

