-- ==== Sys2Proof/Laws/ReachAsh.lean ====
section
/-! SUPPORT. What the functions of Machine/Ash.lean can do to the block. -/

set_option linter.tactic.unusedName false
set_option linter.unusedTactic false
set_option linter.unusedSimpArgs false
set_option linter.unreachableTactic false
set_option maxHeartbeats 800000

namespace Sys2Proof.Machine

theorem Dev.ashShow_reach (d : Dev) : Reach (Part.regs) d (Dev.ashShow d) := by
  unfold Dev.ashShow
  with_reducible repeat' (first | assumption | exact .refl _ | (apply Reach.via (Dev.wrAll_reach ..); decide))

theorem Dev.ashState_reach (d : Dev) (st kind : Nat) : Reach (Part.regs ||| Part.hmem ||| Part.jr ||| Part.rings ||| Part.ash) d (Dev.ashState d st kind) := by
  unfold Dev.ashState
  with_reducible repeat' (first | assumption | exact .refl _ | (extract_lets +onlyGivenNames x; clear_value x) | (apply Reach.via (Dev.ashShow_reach ..); decide) | (apply Reach.via (Dev.raiseH_reach ..); decide) | simp -zeta -iota only [↓Reach.mk_eq] | (apply ReachMk.intro <;> first | exact .inr (by decide) | rfl | exact .inl rfl | skip))

theorem Dev.ashSnap_reach (d : Dev) : Reach (Part.hmem) d (Dev.ashSnap d) := by
  unfold Dev.ashSnap
  with_reducible repeat' (first | assumption | exact .refl _ | (extract_lets +onlyGivenNames x; first | (refine Reach.have (x := x) ?_ (fun hx hxs => ?_); unfold x; clear x; rotate_left; clear_value x) | (have hf : Mem := x; clear hf; unfold x; clear_value x) | clear_value x) | simp -zeta -iota only [↓Reach.mk_eq] | split | dsimp only | (apply ReachMk.intro <;> first | exact .inr (by decide) | rfl | exact .inl rfl | (refine .inr ⟨by decide, ?_⟩; (repeat' (first | exact MemStep.refl _ | exact MemStep.clear _ | apply MemStep.writeNat | apply MemStep.write | apply MemStep.drop)); done) | skip))

theorem Dev.hostFatal_reach (d : Dev) (cause : Nat) : Reach (Part.regs ||| Part.hmem ||| Part.jr ||| Part.rings ||| Part.ash) d (Dev.hostFatal d cause) := by
  unfold Dev.hostFatal
  with_reducible repeat' (first | assumption | exact .refl _ | (extract_lets +onlyGivenNames x; first | (refine Reach.have (x := x) ?_ (fun hx hxs => ?_); unfold x; clear x; rotate_left; clear_value x) | clear_value x) | (apply Reach.via (Dev.ashShow_reach ..); decide) | (apply Reach.via (Dev.ashSnap_reach ..); decide) | (apply Reach.via (Dev.ashState_reach ..); decide) | (apply Reach.via (Dev.raiseH_reach ..); decide) | (apply Reach.ite <;> intro) | simp -zeta -iota only [↓Reach.mk_eq] | split | dsimp only | (apply ReachMk.intro <;> first | exact .inr (by decide) | rfl | exact .inl rfl | skip))

end Sys2Proof.Machine
end

