-- ==== Sys2Proof/Laws/ReachTime.lean ====
section
/-! SUPPORT. What the functions of Machine/Time.lean can do to the block. -/

set_option linter.tactic.unusedName false
set_option linter.unusedTactic false
set_option linter.unusedSimpArgs false
set_option linter.unreachableTactic false
set_option maxHeartbeats 800000

namespace Sys2Proof.Machine

theorem Dev.stcSet_reach (d : Dev) (state source : Nat) : Reach (Part.regs ||| Part.fl) d (Dev.stcSet d state source) := by
  unfold Dev.stcSet
  with_reducible repeat' (first | assumption | exact .refl _ | (extract_lets +onlyGivenNames x; first | (refine Reach.have (x := x) ?_ (fun hx hxs => ?_); unfold x; clear x; rotate_left; clear_value x) | clear_value x) | (apply Reach.wr'; decide) | (apply Reach.via (Dev.bump_reach ..); decide) | (apply Reach.via (Dev.raise_reach ..); decide) | (apply Reach.ite <;> intro) | split)

theorem Dev.rateShow_reach (d : Dev) : Reach (Part.regs) d (Dev.rateShow d) := by
  unfold Dev.rateShow
  with_reducible repeat' (first | assumption | exact .refl _ | (apply Reach.via (Dev.wrS_reach ..); decide))

theorem Dev.reselect_reach (d : Dev) : Reach (Part.regs ||| Part.fl ||| Part.tm) d (Dev.reselect d) := by
  unfold Dev.reselect
  with_reducible repeat' (first | assumption | exact .refl _ | (extract_lets +onlyGivenNames x; first | (refine Reach.have (x := x) ?_ (fun hx hxs => ?_); unfold x; clear x; rotate_left; clear_value x) | (have hf : SiteTime := x; clear hf; refine Reach.keep_tm (x := x) ?_ (fun hx => ?_); (· intro hs; unfold x; clear x; (repeat' (first | ((try simp only [SiteTime.Shaped] at *); simp +zetaDelta (maxDischargeDepth := 9) only [SiteTime.Shaped, Dev.Shaped.tm_pdelaySeq, Dev.Shaped.wr, Dev.Shaped.resetDomains, setAt_length, addAt_length, List.length_map, List.length_replicate, List.length_cons, List.length_nil, List.length_zipWith, List.length_range, List.length_append, List.length_drop, List.length_take, Nat.reduceSub, Nat.reduceLeDiff, Nat.min_eq_left, *, and_self, Nat.reduceAdd, Nat.zero_add]; done) | split))); clear_value x) | clear_value x) | (apply Reach.via (Dev.rateShow_reach ..); decide) | (apply Reach.via (Dev.stcSet_reach ..); decide) | (apply Reach.ite <;> intro) | simp -zeta -iota only [↓Reach.mk_eq] | split | dsimp only | (apply ReachMk.intro <;> first | exact .inr (by decide) | rfl | exact .inl rfl | (refine .inr ⟨by decide, fun hs he => ?_⟩; (repeat' (first | ((try simp only [SiteTime.Shaped] at *); simp +zetaDelta (maxDischargeDepth := 9) only [SiteTime.Shaped, Dev.Shaped.tm_pdelaySeq, Dev.Shaped.wr, Dev.Shaped.resetDomains, setAt_length, addAt_length, List.length_map, List.length_replicate, List.length_cons, List.length_nil, List.length_zipWith, List.length_range, List.length_append, List.length_drop, List.length_take, Nat.reduceSub, Nat.reduceLeDiff, Nat.min_eq_left, *, and_self, Nat.reduceAdd, Nat.zero_add]; done) | split)); done) | skip))

theorem Dev.servo_reach (d : Dev) (e : Int) : Reach (Part.regs ||| Part.tm) d (Dev.servo d e) := by
  unfold Dev.servo
  with_reducible repeat' (first | assumption | exact .refl _ | (extract_lets +onlyGivenNames x; first | (refine Reach.have (x := x) ?_ (fun hx hxs => ?_); unfold x; clear x; rotate_left; clear_value x) | (have hf : SiteTime := x; clear hf; refine Reach.keep_tm (x := x) ?_ (fun hx => ?_); (· intro hs; unfold x; clear x; (repeat' (first | ((try simp only [SiteTime.Shaped] at *); simp +zetaDelta (maxDischargeDepth := 9) only [SiteTime.Shaped, Dev.Shaped.tm_pdelaySeq, Dev.Shaped.wr, Dev.Shaped.resetDomains, setAt_length, addAt_length, List.length_map, List.length_replicate, List.length_cons, List.length_nil, List.length_zipWith, List.length_range, List.length_append, List.length_drop, List.length_take, Nat.reduceSub, Nat.reduceLeDiff, Nat.min_eq_left, *, and_self, Nat.reduceAdd, Nat.zero_add]; done) | split))); clear_value x) | clear_value x) | (apply Reach.via (Dev.rateShow_reach ..); decide) | (apply Reach.ite <;> intro) | simp -zeta -iota only [↓Reach.mk_eq] | split | (apply ReachMk.intro <;> first | exact .inr (by decide) | rfl | exact .inl rfl | (refine .inr ⟨by decide, fun hs he => ?_⟩; (repeat' (first | ((try simp only [SiteTime.Shaped] at *); simp +zetaDelta (maxDischargeDepth := 9) only [SiteTime.Shaped, Dev.Shaped.tm_pdelaySeq, Dev.Shaped.wr, Dev.Shaped.resetDomains, setAt_length, addAt_length, List.length_map, List.length_replicate, List.length_cons, List.length_nil, List.length_zipWith, List.length_range, List.length_append, List.length_drop, List.length_take, Nat.reduceSub, Nat.reduceLeDiff, Nat.min_eq_left, *, and_self, Nat.reduceAdd, Nat.zero_add]; done) | split)); done) | skip))

theorem Dev.lockStep_reach (d : Dev) (e : Int) : Reach (Part.regs ||| Part.fl ||| Part.tm) d (Dev.lockStep d e) := by
  unfold Dev.lockStep
  with_reducible repeat' (first | assumption | exact .refl _ | (extract_lets +onlyGivenNames x; first | (refine Reach.have (x := x) ?_ (fun hx hxs => ?_); unfold x; clear x; rotate_left; clear_value x) | (have hf : SiteTime := x; clear hf; refine Reach.keep_tm (x := x) ?_ (fun hx => ?_); (· intro hs; unfold x; clear x; (repeat' (first | ((try simp only [SiteTime.Shaped] at *); simp +zetaDelta (maxDischargeDepth := 9) only [SiteTime.Shaped, Dev.Shaped.tm_pdelaySeq, Dev.Shaped.wr, Dev.Shaped.resetDomains, setAt_length, addAt_length, List.length_map, List.length_replicate, List.length_cons, List.length_nil, List.length_zipWith, List.length_range, List.length_append, List.length_drop, List.length_take, Nat.reduceSub, Nat.reduceLeDiff, Nat.min_eq_left, *, and_self, Nat.reduceAdd, Nat.zero_add]; done) | split))); clear_value x) | clear_value x) | (apply Reach.via (Dev.stcSet_reach ..); decide) | (apply Reach.ite <;> intro) | simp -zeta -iota only [↓Reach.mk_eq] | split | dsimp only | (apply ReachMk.intro <;> first | exact .inr (by decide) | rfl | exact .inl rfl | (refine .inr ⟨by decide, fun hs he => ?_⟩; (repeat' (first | ((try simp only [SiteTime.Shaped] at *); simp +zetaDelta (maxDischargeDepth := 9) only [SiteTime.Shaped, Dev.Shaped.tm_pdelaySeq, Dev.Shaped.wr, Dev.Shaped.resetDomains, setAt_length, addAt_length, List.length_map, List.length_replicate, List.length_cons, List.length_nil, List.length_zipWith, List.length_range, List.length_append, List.length_drop, List.length_take, Nat.reduceSub, Nat.reduceLeDiff, Nat.min_eq_left, *, and_self, Nat.reduceAdd, Nat.zero_add]; done) | split)); done) | skip))

theorem Dev.stcSample_reach (d : Dev) (e16 : Int) (sec : Bool) : Reach (Part.regs ||| Part.fl ||| Part.tm) d (Dev.stcSample d e16 sec) := by
  unfold Dev.stcSample
  with_reducible repeat' (first | assumption | exact .refl _ | (extract_lets +onlyGivenNames x; first | (refine Reach.have (x := x) ?_ (fun hx hxs => ?_); unfold x; clear x; rotate_left; clear_value x) | (have hf : SiteTime := x; clear hf; refine Reach.keep_tm (x := x) ?_ (fun hx => ?_); (· intro hs; unfold x; clear x; (repeat' (first | ((try simp only [SiteTime.Shaped] at *); simp +zetaDelta (maxDischargeDepth := 9) only [Reach.shaped (Dev.lockStep_reach ..), Reach.shaped (Dev.servo_reach ..), Reach.shaped (Dev.wrS_reach ..), SiteTime.Shaped, Dev.Shaped.tm_pdelaySeq, Dev.Shaped.wr, Dev.Shaped.resetDomains, setAt_length, addAt_length, List.length_map, List.length_replicate, List.length_cons, List.length_nil, List.length_zipWith, List.length_range, List.length_append, List.length_drop, List.length_take, Nat.reduceSub, Nat.reduceLeDiff, Nat.min_eq_left, *, and_self, Nat.reduceAdd, Nat.zero_add]; done) | split))); clear_value x) | clear_value x) | (apply Reach.wr'; decide) | (apply Reach.via (Dev.lockStep_reach ..); decide) | (apply Reach.via (Dev.servo_reach ..); decide) | (apply Reach.via (Dev.wrS_reach ..); decide) | (apply Reach.ite <;> intro) | simp -zeta -iota only [↓Reach.mk_eq] | split | dsimp only | (apply ReachMk.intro <;> first | exact .inr (by decide) | rfl | exact .inl rfl | (refine .inr ⟨by decide, fun hs he => ?_⟩; (repeat' (first | ((try simp only [SiteTime.Shaped] at *); simp +zetaDelta (maxDischargeDepth := 9) only [Reach.shaped (Dev.lockStep_reach ..), Reach.shaped (Dev.servo_reach ..), Reach.shaped (Dev.wrS_reach ..), SiteTime.Shaped, Dev.Shaped.tm_pdelaySeq, Dev.Shaped.wr, Dev.Shaped.resetDomains, setAt_length, addAt_length, List.length_map, List.length_replicate, List.length_cons, List.length_nil, List.length_zipWith, List.length_range, List.length_append, List.length_drop, List.length_take, Nat.reduceSub, Nat.reduceLeDiff, Nat.min_eq_left, *, and_self, Nat.reduceAdd, Nat.zero_add]; done) | split)); done) | skip))

theorem Dev.stcStepApply_reach (d : Dev) (e16 : Int) (sec : Bool) : Reach (Part.regs ||| Part.fl ||| Part.tm) d (Dev.stcStepApply d e16 sec) := by
  unfold Dev.stcStepApply
  with_reducible repeat' (first | assumption | exact .refl _ | (extract_lets +onlyGivenNames x; first | (refine Reach.have (x := x) ?_ (fun hx hxs => ?_); unfold x; clear x; rotate_left; clear_value x) | (have hf : SiteTime := x; clear hf; refine Reach.keep_tm (x := x) ?_ (fun hx => ?_); (· intro hs; unfold x; clear x; (repeat' (first | ((try simp only [SiteTime.Shaped] at *); simp +zetaDelta (maxDischargeDepth := 9) only [SiteTime.Shaped, Dev.Shaped.tm_pdelaySeq, Dev.Shaped.wr, Dev.Shaped.resetDomains, setAt_length, addAt_length, List.length_map, List.length_replicate, List.length_cons, List.length_nil, List.length_zipWith, List.length_range, List.length_append, List.length_drop, List.length_take, Nat.reduceSub, Nat.reduceLeDiff, Nat.min_eq_left, *, and_self, Nat.reduceAdd, Nat.zero_add]; done) | split))); clear_value x) | clear_value x) | (apply Reach.wr'; decide) | (apply Reach.via (Dev.bump_reach ..); decide) | (apply Reach.via (Dev.raise_reach ..); decide) | (apply Reach.via (Dev.rateShow_reach ..); decide) | (apply Reach.ite <;> intro) | simp -zeta -iota only [↓Reach.mk_eq] | split | (apply ReachMk.intro <;> first | exact .inr (by decide) | rfl | exact .inl rfl | (refine .inr ⟨by decide, fun hs he => ?_⟩; (repeat' (first | ((try simp only [SiteTime.Shaped] at *); simp +zetaDelta (maxDischargeDepth := 9) only [SiteTime.Shaped, Dev.Shaped.tm_pdelaySeq, Dev.Shaped.wr, Dev.Shaped.resetDomains, setAt_length, addAt_length, List.length_map, List.length_replicate, List.length_cons, List.length_nil, List.length_zipWith, List.length_range, List.length_append, List.length_drop, List.length_take, Nat.reduceSub, Nat.reduceLeDiff, Nat.min_eq_left, *, and_self, Nat.reduceAdd, Nat.zero_add]; done) | split)); done) | skip))

theorem Dev.ppsSample_reach (d : Dev) (cap : Nat) (e16 : Int) : Reach (Part.regs ||| Part.fl ||| Part.tm) d (Dev.ppsSample d cap e16) := by
  unfold Dev.ppsSample
  with_reducible repeat' (first | assumption | exact .refl _ | (extract_lets +onlyGivenNames x; clear_value x) | (apply Reach.via (Dev.stcSample_reach ..); decide) | (apply Reach.ite <;> intro) | simp -zeta -iota only [↓Reach.mk_eq] | split | (apply ReachMk.intro <;> first | exact .inr (by decide) | rfl | exact .inl rfl | skip))

theorem Dev.ppsAccept_reach (d : Dev) (cap : Nat) (e16 : Int) : Reach (Part.regs ||| Part.fl ||| Part.tm) d (Dev.ppsAccept d cap e16) := by
  unfold Dev.ppsAccept
  with_reducible repeat' (first | assumption | exact .refl _ | (extract_lets +onlyGivenNames x; first | (refine Reach.have (x := x) ?_ (fun hx hxs => ?_); unfold x; clear x; rotate_left; clear_value x) | (have hf : SiteTime := x; clear hf; refine Reach.keep_tm (x := x) ?_ (fun hx => ?_); (· intro hs; unfold x; clear x; (repeat' (first | ((try simp only [SiteTime.Shaped] at *); simp +zetaDelta (maxDischargeDepth := 9) only [SiteTime.Shaped, Dev.Shaped.tm_pdelaySeq, Dev.Shaped.wr, Dev.Shaped.resetDomains, setAt_length, addAt_length, List.length_map, List.length_replicate, List.length_cons, List.length_nil, List.length_zipWith, List.length_range, List.length_append, List.length_drop, List.length_take, Nat.reduceSub, Nat.reduceLeDiff, Nat.min_eq_left, *, and_self, Nat.reduceAdd, Nat.zero_add]; done) | split))); clear_value x) | clear_value x) | (apply Reach.wr'; decide) | (apply Reach.via (Dev.ppsSample_reach ..); decide) | (apply Reach.via (Dev.reselect_reach ..); decide) | (apply Reach.ite <;> intro) | simp -zeta -iota only [↓Reach.mk_eq] | split | dsimp only | (apply ReachMk.intro <;> first | exact .inr (by decide) | rfl | exact .inl rfl | (refine .inr ⟨by decide, fun hs he => ?_⟩; (repeat' (first | ((try simp only [SiteTime.Shaped] at *); simp +zetaDelta (maxDischargeDepth := 9) only [SiteTime.Shaped, Dev.Shaped.tm_pdelaySeq, Dev.Shaped.wr, Dev.Shaped.resetDomains, setAt_length, addAt_length, List.length_map, List.length_replicate, List.length_cons, List.length_nil, List.length_zipWith, List.length_range, List.length_append, List.length_drop, List.length_take, Nat.reduceSub, Nat.reduceLeDiff, Nat.min_eq_left, *, and_self, Nat.reduceAdd, Nat.zero_add]; done) | split)); done) | skip))

theorem Dev.ppsEdge_reach (d : Dev) (cap : Nat) (ignored : Bool) : Reach (Part.regs ||| Part.fl ||| Part.tm) d (Dev.ppsEdge d cap ignored) := by
  unfold Dev.ppsEdge
  with_reducible repeat' (first | assumption | exact .refl _ | (extract_lets +onlyGivenNames x; first | (refine Reach.have (x := x) ?_ (fun hx hxs => ?_); unfold x; clear x; rotate_left; clear_value x) | clear_value x) | (apply Reach.via (Dev.advanceTo_reach ..); decide) | (apply Reach.via (Dev.bump_reach ..); decide) | (apply Reach.via (Dev.ppsAccept_reach ..); decide) | (apply Reach.ite <;> intro) | split)

theorem Dev.ppsMissing_reach (d : Dev) : Reach (Part.regs ||| Part.fl ||| Part.tm) d (Dev.ppsMissing d) := by
  unfold Dev.ppsMissing
  with_reducible repeat' (first | assumption | exact .refl _ | (extract_lets +onlyGivenNames x; first | (refine Reach.have (x := x) ?_ (fun hx hxs => ?_); unfold x; clear x; rotate_left; clear_value x) | (have hf : SiteTime := x; clear hf; refine Reach.keep_tm (x := x) ?_ (fun hx => ?_); (· intro hs; unfold x; clear x; (repeat' (first | ((try simp only [SiteTime.Shaped] at *); simp +zetaDelta (maxDischargeDepth := 9) only [SiteTime.Shaped, Dev.Shaped.tm_pdelaySeq, Dev.Shaped.wr, Dev.Shaped.resetDomains, setAt_length, addAt_length, List.length_map, List.length_replicate, List.length_cons, List.length_nil, List.length_zipWith, List.length_range, List.length_append, List.length_drop, List.length_take, Nat.reduceSub, Nat.reduceLeDiff, Nat.min_eq_left, *, and_self, Nat.reduceAdd, Nat.zero_add]; done) | split))); clear_value x) | clear_value x) | (apply Reach.wr'; decide) | (apply Reach.via (Dev.bump_reach ..); decide) | (apply Reach.via (Dev.reselect_reach ..); decide) | (apply Reach.ite <;> intro) | simp -zeta -iota only [↓Reach.mk_eq] | split | dsimp only | (apply ReachMk.intro <;> first | exact .inr (by decide) | rfl | exact .inl rfl | (refine .inr ⟨by decide, fun hs he => ?_⟩; (repeat' (first | ((try simp only [SiteTime.Shaped] at *); simp +zetaDelta (maxDischargeDepth := 9) only [SiteTime.Shaped, Dev.Shaped.tm_pdelaySeq, Dev.Shaped.wr, Dev.Shaped.resetDomains, setAt_length, addAt_length, List.length_map, List.length_replicate, List.length_cons, List.length_nil, List.length_zipWith, List.length_range, List.length_append, List.length_drop, List.length_take, Nat.reduceSub, Nat.reduceLeDiff, Nat.min_eq_left, *, and_self, Nat.reduceAdd, Nat.zero_add]; done) | split)); done) | skip))

theorem Dev.ptpSample_reach (d : Dev) (p : Nat) (ofs : Int) : Reach (Part.regs ||| Part.fl ||| Part.tm) d (Dev.ptpSample d p ofs) := by
  unfold Dev.ptpSample
  with_reducible repeat' (first | assumption | exact .refl _ | (extract_lets +onlyGivenNames x; first | (refine Reach.have (x := x) ?_ (fun hx hxs => ?_); unfold x; clear x; rotate_left; clear_value x) | (have hf : SiteTime := x; clear hf; refine Reach.keep_tm (x := x) ?_ (fun hx => ?_); (· intro hs; unfold x; clear x; (repeat' (first | ((try simp only [SiteTime.Shaped] at *); simp +zetaDelta (maxDischargeDepth := 9) only [SiteTime.Shaped, Dev.Shaped.tm_pdelaySeq, Dev.Shaped.wr, Dev.Shaped.resetDomains, setAt_length, addAt_length, List.length_map, List.length_replicate, List.length_cons, List.length_nil, List.length_zipWith, List.length_range, List.length_append, List.length_drop, List.length_take, Nat.reduceSub, Nat.reduceLeDiff, Nat.min_eq_left, *, and_self, Nat.reduceAdd, Nat.zero_add]; done) | split))); clear_value x) | clear_value x) | (apply Reach.wr'; decide) | (apply Reach.via (Dev.reselect_reach ..); decide) | (apply Reach.via (Dev.stcSample_reach ..); decide) | (apply Reach.ite <;> intro) | simp -zeta -iota only [↓Reach.mk_eq] | split | dsimp only | (apply ReachMk.intro <;> first | exact .inr (by decide) | rfl | exact .inl rfl | (refine .inr ⟨by decide, fun hs he => ?_⟩; (repeat' (first | ((try simp only [SiteTime.Shaped] at *); simp +zetaDelta (maxDischargeDepth := 9) only [SiteTime.Shaped, Dev.Shaped.tm_pdelaySeq, Dev.Shaped.wr, Dev.Shaped.resetDomains, setAt_length, addAt_length, List.length_map, List.length_replicate, List.length_cons, List.length_nil, List.length_zipWith, List.length_range, List.length_append, List.length_drop, List.length_take, Nat.reduceSub, Nat.reduceLeDiff, Nat.min_eq_left, *, and_self, Nat.reduceAdd, Nat.zero_add]; done) | split)); done) | skip))

theorem Dev.ptpTimeout_reach (d : Dev) (p : Nat) : Reach (Part.regs ||| Part.fl ||| Part.tm) d (Dev.ptpTimeout d p) := by
  unfold Dev.ptpTimeout
  with_reducible repeat' (first | assumption | exact .refl _ | (extract_lets +onlyGivenNames x; first | (have hf : SiteTime := x; clear hf; refine Reach.keep_tm (x := x) ?_ (fun hx => ?_); (· intro hs; unfold x; clear x; (repeat' (first | ((try simp only [SiteTime.Shaped] at *); simp +zetaDelta (maxDischargeDepth := 9) only [SiteTime.Shaped, Dev.Shaped.tm_pdelaySeq, Dev.Shaped.wr, Dev.Shaped.resetDomains, setAt_length, addAt_length, List.length_map, List.length_replicate, List.length_cons, List.length_nil, List.length_zipWith, List.length_range, List.length_append, List.length_drop, List.length_take, Nat.reduceSub, Nat.reduceLeDiff, Nat.min_eq_left, *, and_self, Nat.reduceAdd, Nat.zero_add]; done) | split))); clear_value x) | clear_value x) | (apply Reach.wr'; decide) | (apply Reach.via (Dev.reselect_reach ..); decide) | simp -zeta -iota only [↓Reach.mk_eq] | (apply ReachMk.intro <;> first | exact .inr (by decide) | rfl | exact .inl rfl | (refine .inr ⟨by decide, fun hs he => ?_⟩; (repeat' (first | ((try simp only [SiteTime.Shaped] at *); simp +zetaDelta (maxDischargeDepth := 9) only [SiteTime.Shaped, Dev.Shaped.tm_pdelaySeq, Dev.Shaped.wr, Dev.Shaped.resetDomains, setAt_length, addAt_length, List.length_map, List.length_replicate, List.length_cons, List.length_nil, List.length_zipWith, List.length_range, List.length_append, List.length_drop, List.length_take, Nat.reduceSub, Nat.reduceLeDiff, Nat.min_eq_left, *, and_self, Nat.reduceAdd, Nat.zero_add]; done) | split)); done) | skip))

theorem Dev.estErrCheck_reach (d : Dev) : Reach (Part.fl ||| Part.tm) d (Dev.estErrCheck d) := by
  unfold Dev.estErrCheck
  with_reducible repeat' (first | assumption | exact .refl _ | (extract_lets +onlyGivenNames x; first | (have hf : SiteTime := x; clear hf; refine Reach.keep_tm (x := x) ?_ (fun hx => ?_); (· intro hs; unfold x; clear x; (repeat' (first | ((try simp only [SiteTime.Shaped] at *); simp +zetaDelta (maxDischargeDepth := 9) only [SiteTime.Shaped, Dev.Shaped.tm_pdelaySeq, Dev.Shaped.wr, Dev.Shaped.resetDomains, setAt_length, addAt_length, List.length_map, List.length_replicate, List.length_cons, List.length_nil, List.length_zipWith, List.length_range, List.length_append, List.length_drop, List.length_take, Nat.reduceSub, Nat.reduceLeDiff, Nat.min_eq_left, *, and_self, Nat.reduceAdd, Nat.zero_add]; done) | split))); clear_value x) | clear_value x) | (apply Reach.via (Dev.raise_reach ..); decide) | (apply Reach.ite <;> intro) | simp -zeta -iota only [↓Reach.mk_eq] | split | dsimp only | (apply ReachMk.intro <;> first | exact .inr (by decide) | rfl | exact .inl rfl | (refine .inr ⟨by decide, fun hs he => ?_⟩; (repeat' (first | ((try simp only [SiteTime.Shaped] at *); simp +zetaDelta (maxDischargeDepth := 9) only [SiteTime.Shaped, Dev.Shaped.tm_pdelaySeq, Dev.Shaped.wr, Dev.Shaped.resetDomains, setAt_length, addAt_length, List.length_map, List.length_replicate, List.length_cons, List.length_nil, List.length_zipWith, List.length_range, List.length_append, List.length_drop, List.length_take, Nat.reduceSub, Nat.reduceLeDiff, Nat.min_eq_left, *, and_self, Nat.reduceAdd, Nat.zero_add]; done) | split)); done) | skip))

theorem Dev.stcSecond_reach (d : Dev) : Reach (Part.tm) d (Dev.stcSecond d) := by
  unfold Dev.stcSecond
  with_reducible repeat' (first | assumption | exact .refl _ | (extract_lets +onlyGivenNames x; first | (refine Reach.have (x := x) ?_ (fun hx hxs => ?_); unfold x; clear x; rotate_left; clear_value x) | (have hf : SiteTime := x; clear hf; refine Reach.keep_tm (x := x) ?_ (fun hx => ?_); (· intro hs; unfold x; clear x; (repeat' (first | ((try simp only [SiteTime.Shaped] at *); simp +zetaDelta (maxDischargeDepth := 9) only [SiteTime.Shaped, Dev.Shaped.tm_pdelaySeq, Dev.Shaped.wr, Dev.Shaped.resetDomains, setAt_length, addAt_length, List.length_map, List.length_replicate, List.length_cons, List.length_nil, List.length_zipWith, List.length_range, List.length_append, List.length_drop, List.length_take, Nat.reduceSub, Nat.reduceLeDiff, Nat.min_eq_left, *, and_self, Nat.reduceAdd, Nat.zero_add]; done) | split))); clear_value x) | clear_value x) | (apply Reach.via (Dev.advanceTo_reach ..); decide) | (apply Reach.ite <;> intro) | simp -zeta -iota only [↓Reach.mk_eq] | split | dsimp only | (apply ReachMk.intro <;> first | exact .inr (by decide) | rfl | exact .inl rfl | (refine .inr ⟨by decide, fun hs he => ?_⟩; (repeat' (first | ((try simp only [SiteTime.Shaped] at *); simp +zetaDelta (maxDischargeDepth := 9) only [SiteTime.Shaped, Dev.Shaped.tm_pdelaySeq, Dev.Shaped.wr, Dev.Shaped.resetDomains, setAt_length, addAt_length, List.length_map, List.length_replicate, List.length_cons, List.length_nil, List.length_zipWith, List.length_range, List.length_append, List.length_drop, List.length_take, Nat.reduceSub, Nat.reduceLeDiff, Nat.min_eq_left, *, and_self, Nat.reduceAdd, Nat.zero_add]; done) | split)); done) | skip))

theorem Dev.setSecHi_reach (d : Dev) (v : Nat) : Reach (Part.regs ||| Part.tm) d (Dev.setSecHi d v) := by
  unfold Dev.setSecHi
  with_reducible repeat' (first | assumption | exact .refl _ | (extract_lets +onlyGivenNames x; first | (refine Reach.have (x := x) ?_ (fun hx hxs => ?_); unfold x; clear x; rotate_left; clear_value x) | (have hf : SiteTime := x; clear hf; refine Reach.keep_tm (x := x) ?_ (fun hx => ?_); (· intro hs; unfold x; clear x; (repeat' (first | ((try simp only [SiteTime.Shaped] at *); simp +zetaDelta (maxDischargeDepth := 9) only [SiteTime.Shaped, Dev.Shaped.tm_pdelaySeq, Dev.Shaped.wr, Dev.Shaped.resetDomains, setAt_length, addAt_length, List.length_map, List.length_replicate, List.length_cons, List.length_nil, List.length_zipWith, List.length_range, List.length_append, List.length_drop, List.length_take, Nat.reduceSub, Nat.reduceLeDiff, Nat.min_eq_left, *, and_self, Nat.reduceAdd, Nat.zero_add]; done) | split))); clear_value x) | clear_value x) | (apply Reach.wr'; decide) | (apply Reach.ite <;> intro) | simp -zeta -iota only [↓Reach.mk_eq] | split | dsimp only | (apply ReachMk.intro <;> first | exact .inr (by decide) | rfl | exact .inl rfl | (refine .inr ⟨by decide, fun hs he => ?_⟩; (repeat' (first | ((try simp only [SiteTime.Shaped] at *); simp +zetaDelta (maxDischargeDepth := 9) only [SiteTime.Shaped, Dev.Shaped.tm_pdelaySeq, Dev.Shaped.wr, Dev.Shaped.resetDomains, setAt_length, addAt_length, List.length_map, List.length_replicate, List.length_cons, List.length_nil, List.length_zipWith, List.length_range, List.length_append, List.length_drop, List.length_take, Nat.reduceSub, Nat.reduceLeDiff, Nat.min_eq_left, *, and_self, Nat.reduceAdd, Nat.zero_add]; done) | split)); done) | skip))

theorem Dev.readNowLo_reach (d : Dev) : Reach (Part.regs ||| Part.lastRead) d (Dev.readNowLo d) := by
  unfold Dev.readNowLo
  with_reducible repeat' (first | assumption | exact .refl _ | (extract_lets +onlyGivenNames x; first | (refine Reach.have (x := x) ?_ (fun hx hxs => ?_); unfold x; clear x; rotate_left; clear_value x) | (refine Reach.have (x := x) ?_ (fun hx hxs => ?_); unfold x; clear x; rotate_left; rename Dev => yy) | (refine Reach.have (x := x.1) ?_ (fun hx hxs => ?_); unfold x; clear x; rotate_left; clear_value x) | (refine Reach.have (x := x.2) ?_ (fun hx hxs => ?_); unfold x; clear x; rotate_left; clear_value x) | (refine Reach.have (x := x.2.2) ?_ (fun hx hxs => ?_); unfold x; clear x; rotate_left; clear_value x) | (have hf : Mem := x; clear hf; unfold x; clear_value x) | (have hf : Fuses := x; clear hf; unfold x; clear_value x) | (have hf := fun y => (x y : Dev); clear hf; unfold x; clear_value x) | (have hf := fun y z => (x y z : Dev); clear hf; unfold x; clear_value x) | (have hf := fun y z w => (x y z w : Dev); clear hf; unfold x; clear_value x) | clear_value x) | (apply Reach.wr'; decide) | (apply Reach.reset'; decide) | (apply Reach.ite <;> intro) | simp -zeta -iota only [↓Reach.mk_eq] | split | dsimp only | (apply ReachMk.intro <;> first | exact .inr (by decide) | rfl | exact .inl rfl | (refine .inr ⟨by decide, ?_⟩; (repeat' (first | exact MemStep.refl _ | exact MemStep.clear _ | apply MemStep.writeNat | apply MemStep.write | apply MemStep.drop)); done) | exact .inr ⟨by decide, .seal _ _⟩ | exact .inr ⟨by decide, .cont _⟩ | (refine .inr ⟨by decide, fun hs he => ?_⟩; (repeat' (first | ((try simp only [SiteTime.Shaped] at *); simp +zetaDelta (maxDischargeDepth := 9) only [SiteTime.Shaped, Dev.Shaped.tm_pdelaySeq, Dev.Shaped.wr, Dev.Shaped.resetDomains, setAt_length, addAt_length, List.length_map, List.length_replicate, List.length_cons, List.length_nil, List.length_zipWith, List.length_range, List.length_append, List.length_drop, List.length_take, Nat.reduceSub, Nat.reduceLeDiff, Nat.min_eq_left, *, and_self, Nat.reduceAdd, Nat.zero_add]; done) | split)); done) | (refine .inr ⟨by decide, fun hs he => ?_⟩; (repeat' (first | ((try simp only [Ce.Shaped] at *); simp +zetaDelta (maxDischargeDepth := 9) only [Ce.Shaped, Dev.Shaped.ce_sig, Dev.Shaped.ce_acc, Dev.Shaped.ce_axes, Dev.Shaped.wr, Dev.Shaped.resetDomains, setAt_length, addAt_length, List.length_map, List.length_replicate, List.length_cons, List.length_nil, List.length_zipWith, List.length_range, List.length_append, List.length_drop, List.length_take, Nat.reduceSub, Nat.reduceLeDiff, Nat.min_eq_left, *, and_self, Nat.reduceAdd, Nat.zero_add]; done) | split)); done) | (refine .inr ⟨by decide, fun hs he => ?_⟩; (repeat' (first | ((try simp only [Dgr.Shaped] at *); simp +zetaDelta (maxDischargeDepth := 9) only [Dgr.Shaped, Dev.Shaped.dgr_blk, Dev.Shaped.wr, Dev.Shaped.resetDomains, setAt_length, addAt_length, List.length_map, List.length_replicate, List.length_cons, List.length_nil, List.length_zipWith, List.length_range, List.length_append, List.length_drop, List.length_take, Nat.reduceSub, Nat.reduceLeDiff, Nat.min_eq_left, *, and_self, Nat.reduceAdd, Nat.zero_add]; done) | split)); done) | (refine .inr ⟨by decide, fun hs he => ?_⟩; (repeat' (first | ((try simp only [Pwm.Shaped] at *); simp +zetaDelta (maxDischargeDepth := 9) only [Pwm.Shaped, Dev.Shaped.pwm_inputs, Dev.Shaped.wr, Dev.Shaped.resetDomains, setAt_length, addAt_length, List.length_map, List.length_replicate, List.length_cons, List.length_nil, List.length_zipWith, List.length_range, List.length_append, List.length_drop, List.length_take, Nat.reduceSub, Nat.reduceLeDiff, Nat.min_eq_left, *, and_self, Nat.reduceAdd, Nat.zero_add]; done) | split)); done) | (refine .inr ⟨by decide, fun hs he => ?_⟩; (repeat' (first | (simp +zetaDelta (maxDischargeDepth := 9) only [Dev.Shaped.out, Dev.Shaped.wr, Dev.Shaped.resetDomains, setAt_length, addAt_length, List.length_map, List.length_replicate, List.length_cons, List.length_nil, List.length_zipWith, List.length_range, List.length_append, List.length_drop, List.length_take, Nat.reduceSub, Nat.reduceLeDiff, Nat.min_eq_left, *, and_self, Nat.reduceAdd, Nat.zero_add]; done) | split)); done) | (refine .inr ⟨by decide, fun hs he => ?_⟩; (repeat' (first | (simp +zetaDelta (maxDischargeDepth := 9) only [Dev.Shaped.cbl, Dev.Shaped.wr, Dev.Shaped.resetDomains, setAt_length, addAt_length, List.length_map, List.length_replicate, List.length_cons, List.length_nil, List.length_zipWith, List.length_range, List.length_append, List.length_drop, List.length_take, Nat.reduceSub, Nat.reduceLeDiff, Nat.min_eq_left, *, and_self, Nat.reduceAdd, Nat.zero_add]; done) | split)); done) | (refine .inr ⟨by decide, fun hs he => ?_⟩; (repeat' (first | (simp +zetaDelta (maxDischargeDepth := 9) only [Dev.Shaped.veh, Dev.Shaped.wr, Dev.Shaped.resetDomains, setAt_length, addAt_length, List.length_map, List.length_replicate, List.length_cons, List.length_nil, List.length_zipWith, List.length_range, List.length_append, List.length_drop, List.length_take, Nat.reduceSub, Nat.reduceLeDiff, Nat.min_eq_left, *, and_self, Nat.reduceAdd, Nat.zero_add]; done) | split)); done) | (refine .inr ⟨by decide, fun hs he => ?_⟩; (repeat' (first | ((try simp only [Fba.Shaped] at *); simp +zetaDelta (maxDischargeDepth := 9) only [Fba.Shaped, Dev.Shaped.fba_ctlTodo, Dev.Shaped.fba_trigTodo, Dev.Shaped.fba_ctl, Dev.Shaped.fba_trig, Dev.Shaped.wr, Dev.Shaped.resetDomains, setAt_length, addAt_length, List.length_map, List.length_replicate, List.length_cons, List.length_nil, List.length_zipWith, List.length_range, List.length_append, List.length_drop, List.length_take, Nat.reduceSub, Nat.reduceLeDiff, Nat.min_eq_left, *, and_self, Nat.reduceAdd, Nat.zero_add]; done) | split)); done) | (refine .inr ⟨by decide, fun hs he => ?_⟩; (repeat' (first | (simp +zetaDelta (maxDischargeDepth := 9) only [Dev.Shaped.imd, Dev.Shaped.wr, Dev.Shaped.resetDomains, setAt_length, addAt_length, List.length_map, List.length_replicate, List.length_cons, List.length_nil, List.length_zipWith, List.length_range, List.length_append, List.length_drop, List.length_take, Nat.reduceSub, Nat.reduceLeDiff, Nat.min_eq_left, *, and_self, Nat.reduceAdd, Nat.zero_add]; done) | split)); done) | (refine .inr ⟨by decide, fun hs he => ?_⟩; (repeat' (first | ((try simp only [Net.Shaped] at *); simp +zetaDelta (maxDischargeDepth := 9) only [Net.Shaped, Dev.Shaped.net_ports, Dev.Shaped.net_ptp, Dev.Shaped.net_cells, Dev.Shaped.wr, Dev.Shaped.resetDomains, setAt_length, addAt_length, List.length_map, List.length_replicate, List.length_cons, List.length_nil, List.length_zipWith, List.length_range, List.length_append, List.length_drop, List.length_take, Nat.reduceSub, Nat.reduceLeDiff, Nat.min_eq_left, *, and_self, Nat.reduceAdd, Nat.zero_add]; done) | split)); done) | (refine .inr ⟨by decide, fun hs he => ?_⟩; (repeat' (first | ((try simp only [Svg.Shaped] at *); simp +zetaDelta (maxDischargeDepth := 9) only [Svg.Shaped, Dev.Shaped.svg_subs, Dev.Shaped.svg_gs, Dev.Shaped.svg_keys, Dev.Shaped.svg_pubs, Dev.Shaped.wr, Dev.Shaped.resetDomains, setAt_length, addAt_length, List.length_map, List.length_replicate, List.length_cons, List.length_nil, List.length_zipWith, List.length_range, List.length_append, List.length_drop, List.length_take, Nat.reduceSub, Nat.reduceLeDiff, Nat.min_eq_left, *, and_self, Nat.reduceAdd, Nat.zero_add]; done) | split)); done) | (refine .inr ⟨by decide, fun hs he => ?_⟩; (repeat' (first | ((try simp only [Metr.Shaped] at *); simp +zetaDelta (maxDischargeDepth := 9) only [Metr.Shaped, Dev.Shaped.met_retAt, Dev.Shaped.met_tp, Dev.Shaped.wr, Dev.Shaped.resetDomains, setAt_length, addAt_length, List.length_map, List.length_replicate, List.length_cons, List.length_nil, List.length_zipWith, List.length_range, List.length_append, List.length_drop, List.length_take, Nat.reduceSub, Nat.reduceLeDiff, Nat.min_eq_left, *, and_self, Nat.reduceAdd, Nat.zero_add]; done) | split)); done) | (refine .inr ⟨by decide, fun hs he => ?_⟩; (repeat' (first | ((try simp only [Bil.Shaped] at *); simp +zetaDelta (maxDischargeDepth := 9) only [Bil.Shaped, Dev.Shaped.bil_sess, Dev.Shaped.wr, Dev.Shaped.resetDomains, setAt_length, addAt_length, List.length_map, List.length_replicate, List.length_cons, List.length_nil, List.length_zipWith, List.length_range, List.length_append, List.length_drop, List.length_take, Nat.reduceSub, Nat.reduceLeDiff, Nat.min_eq_left, *, and_self, Nat.reduceAdd, Nat.zero_add]; done) | split)); done) | (refine .inr ⟨by decide, fun hs he => ?_⟩; (repeat' (first | ((try simp only [BilStore.Shaped] at *); simp +zetaDelta (maxDischargeDepth := 9) only [BilStore.Shaped, Dev.Shaped.bst_slots, Dev.Shaped.bst_copies, Dev.Shaped.wr, Dev.Shaped.resetDomains, setAt_length, addAt_length, List.length_map, List.length_replicate, List.length_cons, List.length_nil, List.length_zipWith, List.length_range, List.length_append, List.length_drop, List.length_take, Nat.reduceSub, Nat.reduceLeDiff, Nat.min_eq_left, *, and_self, Nat.reduceAdd, Nat.zero_add]; done) | split)); done) | (refine .inr ⟨by decide, fun hs he => ?_⟩; (repeat' (first | ((try simp only [Stk.Shaped] at *); simp +zetaDelta (maxDischargeDepth := 9) only [Stk.Shaped, Dev.Shaped.stk_found, Dev.Shaped.stk_enumDone, Dev.Shaped.stk_sats, Dev.Shaped.stk_out, Dev.Shaped.stk_lastFrame, Dev.Shaped.wr, Dev.Shaped.resetDomains, setAt_length, addAt_length, List.length_map, List.length_replicate, List.length_cons, List.length_nil, List.length_zipWith, List.length_range, List.length_append, List.length_drop, List.length_take, Nat.reduceSub, Nat.reduceLeDiff, Nat.min_eq_left, *, and_self, Nat.reduceAdd, Nat.zero_add]; done) | split)); done) | (refine .inr ⟨by decide, fun hs he => ?_⟩; (repeat' (first | (simp +zetaDelta (maxDischargeDepth := 9) only [Dev.Shaped.can, Dev.Shaped.wr, Dev.Shaped.resetDomains, setAt_length, addAt_length, List.length_map, List.length_replicate, List.length_cons, List.length_nil, List.length_zipWith, List.length_range, List.length_append, List.length_drop, List.length_take, Nat.reduceSub, Nat.reduceLeDiff, Nat.min_eq_left, *, and_self, Nat.reduceAdd, Nat.zero_add]; done) | split)); done) | (refine .inr ⟨by decide, fun hs he => ?_⟩; (repeat' (first | ((try simp only [HostPlat.Shaped] at *); simp +zetaDelta (maxDischargeDepth := 9) only [HostPlat.Shaped, Dev.Shaped.hp_slots, Dev.Shaped.hp_rx, Dev.Shaped.wr, Dev.Shaped.resetDomains, setAt_length, addAt_length, List.length_map, List.length_replicate, List.length_cons, List.length_nil, List.length_zipWith, List.length_range, List.length_append, List.length_drop, List.length_take, Nat.reduceSub, Nat.reduceLeDiff, Nat.min_eq_left, *, and_self, Nat.reduceAdd, Nat.zero_add]; done) | split)); done) | (refine .inr ⟨by decide, fun hs he => ?_⟩; (repeat' (first | ((try simp only [Therm.Shaped] at *); simp +zetaDelta (maxDischargeDepth := 9) only [Therm.Shaped, Dev.Shaped.th_nor, Dev.Shaped.wr, Dev.Shaped.resetDomains, setAt_length, addAt_length, List.length_map, List.length_replicate, List.length_cons, List.length_nil, List.length_zipWith, List.length_range, List.length_append, List.length_drop, List.length_take, Nat.reduceSub, Nat.reduceLeDiff, Nat.min_eq_left, *, and_self, Nat.reduceAdd, Nat.zero_add]; done) | split)); done) | skip) | (apply Reach.ite <;> intro))

theorem Dev.stcLoad_reach (d : Dev) : Reach (Part.tm) d (Dev.stcLoad d) := by
  unfold Dev.stcLoad
  with_reducible repeat' (first | assumption | exact .refl _ | (extract_lets +onlyGivenNames x; first | (refine Reach.have (x := x) ?_ (fun hx hxs => ?_); unfold x; clear x; rotate_left; clear_value x) | (have hf : SiteTime := x; clear hf; refine Reach.keep_tm (x := x) ?_ (fun hx => ?_); (· intro hs; unfold x; clear x; (repeat' (first | ((try simp only [SiteTime.Shaped] at *); simp +zetaDelta (maxDischargeDepth := 9) only [SiteTime.Shaped, Dev.Shaped.tm_pdelaySeq, Dev.Shaped.wr, Dev.Shaped.resetDomains, setAt_length, addAt_length, List.length_map, List.length_replicate, List.length_cons, List.length_nil, List.length_zipWith, List.length_range, List.length_append, List.length_drop, List.length_take, Nat.reduceSub, Nat.reduceLeDiff, Nat.min_eq_left, *, and_self, Nat.reduceAdd, Nat.zero_add]; done) | split))); clear_value x) | clear_value x) | simp -zeta -iota only [↓Reach.mk_eq] | (apply ReachMk.intro <;> first | exact .inr (by decide) | rfl | exact .inl rfl | (refine .inr ⟨by decide, fun hs he => ?_⟩; (repeat' (first | ((try simp only [SiteTime.Shaped] at *); simp +zetaDelta (maxDischargeDepth := 9) only [SiteTime.Shaped, Dev.Shaped.tm_pdelaySeq, Dev.Shaped.wr, Dev.Shaped.resetDomains, setAt_length, addAt_length, List.length_map, List.length_replicate, List.length_cons, List.length_nil, List.length_zipWith, List.length_range, List.length_append, List.length_drop, List.length_take, Nat.reduceSub, Nat.reduceLeDiff, Nat.min_eq_left, *, and_self, Nat.reduceAdd, Nat.zero_add]; done) | split)); done) | skip))

end Sys2Proof.Machine
end

