-- ==== Sys2Proof/Laws/ReachFlue.lean ====
section
/-! SUPPORT. What the functions of Machine/Flue.lean can do to the block. -/

set_option linter.tactic.unusedName false
set_option linter.unusedTactic false
set_option linter.unusedSimpArgs false
set_option linter.unreachableTactic false
set_option maxHeartbeats 800000

namespace Sys2Proof.Machine

theorem Dev.setSendDir_reach (d : Dev) (side : Side) (fd : FlueDir) : Reach (Part.fl) d (Dev.setSendDir d side fd) := by
  unfold Dev.setSendDir
  with_reducible repeat' (first | assumption | exact .refl _ | (extract_lets +onlyGivenNames x; clear_value x) | simp -zeta -iota only [↓Reach.mk_eq] | split | (apply ReachMk.intro <;> first | exact .inr (by decide) | rfl | exact .inl rfl | skip))

theorem Dev.setRecvDir_reach (d : Dev) (side : Side) (fd : FlueDir) : Reach (Part.fl) d (Dev.setRecvDir d side fd) := by
  unfold Dev.setRecvDir
  with_reducible repeat' (first | assumption | exact .refl _ | (extract_lets +onlyGivenNames x; clear_value x) | simp -zeta -iota only [↓Reach.mk_eq] | split | (apply ReachMk.intro <;> first | exact .inr (by decide) | rfl | exact .inl rfl | skip))

theorem Dev.creditShow_reach (d : Dev) : Reach (Part.regs) d (Dev.creditShow d) := by
  unfold Dev.creditShow
  with_reducible repeat' (first | assumption | exact .refl _ | (apply Reach.via (Dev.wrAll_reach ..); decide) | dsimp only)

theorem Dev.linkDown_reach (d : Dev) : Reach (Part.regs ||| Part.hmem ||| Part.jr ||| Part.rings ||| Part.fl) d (Dev.linkDown d) := by
  unfold Dev.linkDown
  with_reducible repeat' (first | assumption | exact .refl _ | (extract_lets +onlyGivenNames x; first | (refine Reach.have (x := x) ?_ (fun hx hxs => ?_); unfold x; clear x; rotate_left; clear_value x) | clear_value x) | (apply Reach.via (Dev.raise_reach ..); decide) | (apply Reach.via (Dev.raiseH_reach ..); decide) | (apply Reach.via (Dev.wrAll_reach ..); decide) | (apply Reach.ite <;> intro) | simp -zeta -iota only [↓Reach.mk_eq] | split | (apply ReachMk.intro <;> first | exact .inr (by decide) | rfl | exact .inl rfl | skip))

theorem Dev.sendBulk_reach (d : Dev) (q ty xfer : Nat) (bs : List Byte) : Reach (Part.fl) d (Dev.sendBulk d q ty xfer bs) := by
  unfold Dev.sendBulk
  with_reducible repeat' (first | assumption | exact .refl _ | (apply Reach.via (Dev.sendF_reach ..); decide) | (apply Dev.forAll_reach <;> intros) | split | dsimp only)

theorem Dev.linkUp_reach (d : Dev) : Reach (Part.regs ||| Part.hmem ||| Part.jr ||| Part.rings ||| Part.fl) d (Dev.linkUp d) := by
  unfold Dev.linkUp
  with_reducible repeat' (first | assumption | exact .refl _ | (extract_lets +onlyGivenNames x; first | (refine Reach.have (x := x) ?_ (fun hx hxs => ?_); unfold x; clear x; rotate_left; clear_value x) | (have hf := fun y => (x y : Dev); clear hf; unfold x; clear_value x) | (have hf := fun y z => (x y z : Dev); clear hf; unfold x; clear_value x) | clear_value x) | (apply Reach.via (Dev.creditShow_reach ..); decide) | (apply Reach.via (Dev.raise_reach ..); decide) | (apply Reach.via (Dev.raiseH_reach ..); decide) | (apply Reach.via (Dev.sendBulk_reach ..); decide) | (apply Reach.via (Dev.wrAll_reach ..); decide) | (apply Reach.ite <;> intro) | simp -zeta -iota only [↓Reach.mk_eq] | split | dsimp only | (apply ReachMk.intro <;> first | exact .inr (by decide) | rfl | exact .inl rfl | skip))

theorem Dev.retrain_reach (d : Dev) (sender : Side) (lane fails : Nat) : Reach (Part.regs ||| Part.hmem ||| Part.jr ||| Part.rings ||| Part.fl) d (Dev.retrain d sender lane fails) := by
  unfold Dev.retrain
  with_reducible repeat' (first | assumption | exact .refl _ | (extract_lets +onlyGivenNames x; first | (refine Reach.have (x := x) ?_ (fun hx hxs => ?_); unfold x; clear x; rotate_left; clear_value x) | clear_value x) | (apply Reach.via (Dev.linkDown_reach ..); decide) | (apply Reach.via (Dev.setSendDir_reach ..); decide) | simp -zeta -iota only [↓Reach.mk_eq] | (apply ReachMk.intro <;> first | exact .inr (by decide) | rfl | exact .inl rfl | skip))

theorem Dev.cellSlot_reach (d : Dev) (sender : Side) : Reach (Part.regs ||| Part.hmem ||| Part.inj ||| Part.jr ||| Part.rings ||| Part.fl) d (Dev.cellSlot d sender) := by
  unfold Dev.cellSlot
  with_reducible repeat' (first | assumption | exact .refl _ | (extract_lets +onlyGivenNames x; first | (refine Reach.have (x := x) ?_ (fun hx hxs => ?_); unfold x; clear x; rotate_left; clear_value x) | clear_value x) | (apply Reach.via (Dev.creditShow_reach ..); decide) | (apply Reach.via (Dev.injUse_reach ..); decide) | (apply Reach.via (Dev.setRecvDir_reach ..); decide) | (apply Reach.via (Dev.setSendDir_reach ..); decide) | (apply Reach.ite <;> intro) | simp -zeta -iota only [↓Reach.mk_eq] | split | dsimp only | (apply ReachMk.intro <;> first | exact .inr (by decide) | rfl | exact .inl rfl | skip))

theorem Dev.flueErr_reach (d : Dev) (receiver : Side) (f h : Fld) (k : Nat) : Reach (Part.regs ||| Part.hmem ||| Part.jr ||| Part.rings ||| Part.fl) d (Dev.flueErr d receiver f h k) := by
  unfold Dev.flueErr
  with_reducible repeat' (first | assumption | exact .refl _ | (extract_lets +onlyGivenNames x; clear_value x) | (apply Reach.via (Dev.bumpBy_reach ..); decide) | (apply Reach.via (Dev.raise_reach ..); decide) | (apply Reach.via (Dev.raiseH_reach ..); decide) | (apply Reach.ite <;> intro) | simp -zeta -iota only [↓Reach.mk_eq] | split | (apply ReachMk.intro <;> first | exact .inr (by decide) | rfl | exact .inl rfl | skip))

theorem Dev.acceptCell_reach (d : Dev) (receiver : Side) (q : Nat) (cell : List Byte) : Reach (Part.regs ||| Part.hmem ||| Part.jr ||| Part.rings ||| Part.fl) d (Dev.acceptCell d receiver q cell) := by
  unfold Dev.acceptCell
  with_reducible repeat' (first | assumption | exact .refl _ | (extract_lets +onlyGivenNames x; first | (refine Reach.have (x := x) ?_ (fun hx hxs => ?_); unfold x; clear x; rotate_left; clear_value x) | clear_value x) | (apply Reach.via (Dev.flueErr_reach ..); decide) | (apply Reach.via (Dev.setRecvDir_reach ..); decide) | (apply Reach.ite <;> intro) | simp -zeta -iota only [↓Reach.mk_eq] | split | dsimp only | (apply ReachMk.intro <;> first | exact .inr (by decide) | rfl | exact .inl rfl | skip))

theorem Dev.cellReceive_reach (d : Dev) (receiver : Side) (cell : List Byte) : Reach (Part.regs ||| Part.hmem ||| Part.jr ||| Part.rings ||| Part.fl) d (Dev.cellReceive d receiver cell) := by
  unfold Dev.cellReceive
  with_reducible repeat' (first | assumption | exact .refl _ | (extract_lets +onlyGivenNames x; first | (refine Reach.have (x := x) ?_ (fun hx hxs => ?_); unfold x; clear x; rotate_left; clear_value x) | clear_value x) | (apply Reach.via (Dev.acceptCell_reach ..); decide) | (apply Reach.via (Dev.creditShow_reach ..); decide) | (apply Reach.via (Dev.flueErr_reach ..); decide) | (apply Reach.via (Dev.setRecvDir_reach ..); decide) | (apply Reach.via (Dev.setSendDir_reach ..); decide) | (apply Reach.ite <;> intro) | simp -zeta -iota only [↓Reach.mk_eq] | split | dsimp only | (apply ReachMk.intro <;> first | exact .inr (by decide) | rfl | exact .inl rfl | skip))

theorem Dev.takeCell_reach (d : Dev) (receiver : Side) (ty : Nat) : Reach (Part.fl) d (Dev.takeCell d receiver ty) := by
  unfold Dev.takeCell
  with_reducible repeat' (first | assumption | exact .refl _ | (extract_lets +onlyGivenNames x; first | (refine Reach.have (x := x) ?_ (fun hx hxs => ?_); unfold x; clear x; rotate_left; clear_value x) | clear_value x) | (apply Reach.via (Dev.setRecvDir_reach ..); decide) | simp -zeta -iota only [↓Reach.mk_eq] | split | dsimp only | (apply ReachMk.intro <;> first | exact .inr (by decide) | rfl | exact .inl rfl | skip))

theorem Dev.toRing20_reach (d : Dev) (cell : List Byte) : Reach (Part.regs ||| Part.hmem ||| Part.jr ||| Part.rings ||| Part.cap) d (Dev.toRing20 d cell) := by
  unfold Dev.toRing20
  with_reducible repeat' (first | assumption | exact .refl _ | (extract_lets +onlyGivenNames x; first | (refine Reach.have (x := x) ?_ (fun hx hxs => ?_); unfold x; clear x; rotate_left; clear_value x) | (refine Reach.have (x := x.1) ?_ (fun hx hxs => ?_); unfold x; clear x; rotate_left; clear_value x) | (refine Reach.have (x := x.2) ?_ (fun hx hxs => ?_); unfold x; clear x; rotate_left; clear_value x) | clear_value x) | (apply Reach.via (Dev.bump_reach ..); decide) | (apply Reach.via (Dev.ringCell_reach ..); decide) | (apply Dev.ringCell_via'; decide; assumption) | (apply Reach.ite <;> intro) | simp -zeta -iota only [↓Reach.mk_eq] | split | dsimp only | (apply ReachMk.intro <;> first | exact .inr (by decide) | rfl | exact .inl rfl | skip))

theorem Dev.toRing21_reach (d : Dev) (m : Msg) : Reach (Part.regs ||| Part.hmem ||| Part.jr ||| Part.rings ||| Part.fl ||| Part.cap) d (Dev.toRing21 d m) := by
  unfold Dev.toRing21
  with_reducible repeat' (first | assumption | exact .refl _ | (extract_lets +onlyGivenNames x; first | (refine Reach.have (x := x) ?_ (fun hx hxs => ?_); unfold x; clear x; rotate_left; clear_value x) | (refine Reach.have (x := x.1) ?_ (fun hx hxs => ?_); unfold x; clear x; rotate_left; clear_value x) | (refine Reach.have (x := x.2) ?_ (fun hx hxs => ?_); unfold x; clear x; rotate_left; clear_value x) | clear_value x) | (apply Reach.via (Dev.ringCell_reach ..); decide) | (apply Dev.ringCell_via'; decide; assumption) | (apply Reach.via (Dev.takeCell_reach ..); decide) | (apply Reach.ite <;> intro) | simp -zeta -iota only [↓Reach.mk_eq] | split | dsimp only | (apply ReachMk.intro <;> first | exact .inr (by decide) | rfl | exact .inl rfl | skip))

theorem Dev.toDataRing_reach (d : Dev) (r ty xfer : Nat) (bs : List Byte) (sop eop : Bool) : Reach (Part.regs ||| Part.hmem ||| Part.jr ||| Part.rings ||| Part.fl ||| Part.cap) d (Dev.toDataRing d r ty xfer bs sop eop) := by
  unfold Dev.toDataRing
  with_reducible repeat' (first | assumption | exact .refl _ | (extract_lets +onlyGivenNames x; first | (refine Reach.have (x := x) ?_ (fun hx hxs => ?_); unfold x; clear x; rotate_left; clear_value x) | (refine Reach.have (x := x.1) ?_ (fun hx hxs => ?_); unfold x; clear x; rotate_left; clear_value x) | (refine Reach.have (x := x.2) ?_ (fun hx hxs => ?_); unfold x; clear x; rotate_left; clear_value x) | clear_value x) | (apply Reach.via (Dev.raiseH_reach ..); decide) | (apply Reach.via (Dev.ringData_reach ..); decide) | (apply Dev.ringData_via'; decide; assumption) | (apply Reach.via (Dev.takeCell_reach ..); decide) | (apply Reach.ite <;> intro) | simp -zeta -iota only [↓Reach.mk_eq] | split | (apply ReachMk.intro <;> first | exact .inr (by decide) | rfl | exact .inl rfl | skip))

theorem Dev.hbAck_reach (d : Dev) (hbSeq modeWord stc : Nat) : Reach (Part.regs ||| Part.hmem ||| Part.jr ||| Part.rings ||| Part.fl ||| Part.cap) d (Dev.hbAck d hbSeq modeWord stc) := by
  unfold Dev.hbAck
  with_reducible repeat' (first | assumption | exact .refl _ | (extract_lets +onlyGivenNames x; first | (refine Reach.have (x := x) ?_ (fun hx hxs => ?_); unfold x; clear x; rotate_left; clear_value x) | clear_value x) | (apply Reach.via (Dev.takeCell_reach ..); decide) | (apply Reach.via (Dev.toRing20_reach ..); decide) | simp -zeta -iota only [↓Reach.mk_eq] | (apply ReachMk.intro <;> first | exact .inr (by decide) | rfl | exact .inl rfl | skip))

theorem Dev.heartbeatSend_reach (d : Dev) : Reach (Part.fl) d (Dev.heartbeatSend d) := by
  unfold Dev.heartbeatSend
  with_reducible repeat' (first | assumption | exact .refl _ | (extract_lets +onlyGivenNames x; first | (refine Reach.have (x := x) ?_ (fun hx hxs => ?_); unfold x; clear x; rotate_left; clear_value x) | clear_value x) | (apply Reach.via (Dev.sendH_reach ..); decide) | (apply Reach.ite <;> intro) | simp -zeta -iota only [↓Reach.mk_eq] | split | dsimp only | (apply ReachMk.intro <;> first | exact .inr (by decide) | rfl | exact .inl rfl | skip))

theorem Dev.hbKick_reach (d : Dev) (v : Nat) : Reach (Part.fl) d (Dev.hbKick d v) := by
  unfold Dev.hbKick
  with_reducible repeat' (first | assumption | exact .refl _ | (extract_lets +onlyGivenNames x; clear_value x) | (apply Reach.ite <;> intro) | simp -zeta -iota only [↓Reach.mk_eq] | split | (apply ReachMk.intro <;> first | exact .inr (by decide) | rfl | exact .inl rfl | skip))

theorem Dev.txwinCommit_reach (d : Dev) (win : Nat) : Reach (Part.regs ||| Part.hmem ||| Part.jr ||| Part.rings ||| Part.fl) d (Dev.txwinCommit d win) := by
  unfold Dev.txwinCommit
  with_reducible repeat' (first | assumption | exact .refl _ | (extract_lets +onlyGivenNames x; first | (refine Reach.have (x := x) ?_ (fun hx hxs => ?_); unfold x; clear x; rotate_left; clear_value x) | clear_value x) | (apply Reach.via (Dev.bump_reach ..); decide) | (apply Reach.via (Dev.raiseH_reach ..); decide) | (apply Reach.via (Dev.sendH_reach ..); decide) | (apply Reach.ite <;> intro) | simp -zeta -iota only [↓Reach.mk_eq] | split | dsimp only | (apply ReachMk.intro <;> first | exact .inr (by decide) | rfl | exact .inl rfl | skip))

theorem Dev.txwinWrite_reach (d : Dev) (win word v : Nat) : Reach (Part.fl) d (Dev.txwinWrite d win word v) := by
  unfold Dev.txwinWrite
  with_reducible repeat' (first | assumption | exact .refl _ | (extract_lets +onlyGivenNames x; first | (refine Reach.have (x := x) ?_ (fun hx hxs => ?_); unfold x; clear x; rotate_left; clear_value x) | (have hf := fun y => (x y : Dev); clear hf; unfold x; clear_value x) | (have hf := fun y z => (x y z : Dev); clear hf; unfold x; clear_value x) | clear_value x) | (apply Reach.ite <;> intro) | simp -zeta -iota only [↓Reach.mk_eq] | split | (apply ReachMk.intro <;> first | exact .inr (by decide) | rfl | exact .inl rfl | skip))

end Sys2Proof.Machine
end

