-- ==== Sys2Proof/Laws/ReachCapture.lean ====
section
/-! SUPPORT. What the functions of Machine/Capture.lean can do to the block. -/

set_option linter.tactic.unusedName false
set_option linter.unusedTactic false
set_option linter.unusedSimpArgs false
set_option linter.unreachableTactic false
set_option maxHeartbeats 800000

namespace Sys2Proof.Machine

theorem Dev.capTrigger_reach (d : Dev) (cause : Nat) : Reach (Part.fl ||| Part.cap) d (Dev.capTrigger d cause) := by
  unfold Dev.capTrigger
  with_reducible repeat' (first | assumption | exact .refl _ | (extract_lets +onlyGivenNames x; clear_value x) | (apply Reach.via (Dev.raise_reach ..); decide) | (apply Reach.ite <;> intro) | simp -zeta -iota only [↓Reach.mk_eq] | split | dsimp only | (apply ReachMk.intro <;> first | exact .inr (by decide) | rfl | exact .inl rfl | skip))

theorem Dev.capCause_reach (d : Dev) (cause : Nat) : Reach (Part.fl ||| Part.cap) d (Dev.capCause d cause) := by
  unfold Dev.capCause
  with_reducible repeat' (first | assumption | exact .refl _ | (apply Reach.via (Dev.capTrigger_reach ..); decide) | (apply Reach.ite <;> intro) | split | dsimp only)

theorem Dev.capFreeze_reach (d : Dev) : Reach (Part.regs ||| Part.fl) d (Dev.capFreeze d) := by
  unfold Dev.capFreeze
  with_reducible repeat' (first | assumption | exact .refl _ | (apply Reach.wr'; decide) | (apply Reach.via (Dev.raise_reach ..); decide) | (apply Reach.ite <;> intro) | split)

theorem Dev.capPost_reach (d : Dev) (cause : Nat) : Reach (Part.regs ||| Part.fl ||| Part.cap) d (Dev.capPost d cause) := by
  unfold Dev.capPost
  with_reducible repeat' (first | assumption | exact .refl _ | (extract_lets +onlyGivenNames x; first | (refine Reach.have (x := x) ?_ (fun hx hxs => ?_); unfold x; clear x; rotate_left; clear_value x) | clear_value x) | (apply Reach.wr'; decide) | (apply Reach.via (Dev.capFreeze_reach ..); decide) | (apply Reach.via (Dev.wrPair_reach ..); decide) | simp -zeta -iota only [↓Reach.mk_eq] | (apply ReachMk.intro <;> first | exact .inr (by decide) | rfl | exact .inl rfl | skip))

theorem Dev.capAdvance_reach (d : Dev) : Reach (Part.regs ||| Part.fl ||| Part.cap) d (Dev.capAdvance d) := by
  unfold Dev.capAdvance
  with_reducible repeat' (first | assumption | exact .refl _ | (extract_lets +onlyGivenNames x; clear_value x) | (apply Reach.via (Dev.capFreeze_reach ..); decide) | (apply Reach.via (Dev.capPost_reach ..); decide) | simp -zeta -iota only [↓Reach.mk_eq] | split | dsimp only | (apply ReachMk.intro <;> first | exact .inr (by decide) | rfl | exact .inl rfl | skip))

theorem Dev.sendBulkAt_reach (d : Dev) (q ty xfer off : Nat) (bs : List Byte) : Reach (Part.fl) d (Dev.sendBulkAt d q ty xfer off bs) := by
  unfold Dev.sendBulkAt
  with_reducible repeat' (first | assumption | exact .refl _ | (apply Reach.via (Dev.sendF_reach ..); decide) | (apply Dev.forAll_reach <;> intros) | split | dsimp only)

theorem Dev.capFeed_reach (d : Dev) (throttle : Bool) : Reach (Part.regs ||| Part.fl ||| Part.cap) d (Dev.capFeed d throttle) := by
  unfold Dev.capFeed
  with_reducible repeat' (first | assumption | exact .refl _ | (extract_lets +onlyGivenNames x; first | (refine Reach.have (x := x) ?_ (fun hx hxs => ?_); unfold x; clear x; rotate_left; clear_value x) | clear_value x) | (apply Reach.via (Dev.bumpBy_reach ..); decide) | (apply Reach.via (Dev.raise_reach ..); decide) | (apply Reach.via (Dev.sendBulkAt_reach ..); decide) | (apply Reach.ite <;> intro) | simp -zeta -iota only [↓Reach.mk_eq] | split | dsimp only | (apply ReachMk.intro <;> first | exact .inr (by decide) | rfl | exact .inl rfl | skip))

theorem Dev.capAtW_reach (d : Dev) : Reach (Part.regs ||| Part.fmem ||| Part.fl ||| Part.cap) d (Dev.capAtW d) := by
  unfold Dev.capAtW
  with_reducible repeat' (first | assumption | exact .refl _ | (extract_lets +onlyGivenNames x; first | (refine Reach.have (x := x) ?_ (fun hx hxs => ?_); unfold x; clear x; rotate_left; clear_value x) | (have hf : Mem := x; clear hf; unfold x; clear_value x) | clear_value x) | (apply Reach.wr'; decide) | (apply Reach.via (Dev.capAdvance_reach ..); decide) | (apply Reach.ite <;> intro) | simp -zeta -iota only [↓Reach.mk_eq] | split | dsimp only | (apply ReachMk.intro <;> first | exact .inr (by decide) | rfl | exact .inl rfl | (refine .inr ⟨by decide, ?_⟩; (repeat' (first | exact MemStep.refl _ | exact MemStep.clear _ | apply MemStep.writeNat | apply MemStep.write | apply MemStep.drop)); done) | skip))

theorem Dev.capMark_reach (d : Dev) (group cmp : Nat) : Reach (Part.regs ||| Part.cap) d (Dev.capMark d group cmp) := by
  unfold Dev.capMark
  with_reducible repeat' (first | assumption | exact .refl _ | (extract_lets +onlyGivenNames x; first | (refine Reach.have (x := x) ?_ (fun hx hxs => ?_); unfold x; clear x; rotate_left; clear_value x) | clear_value x) | (apply Reach.via (Dev.wrAll_reach ..); decide) | (apply Reach.ite <;> intro) | simp -zeta -iota only [↓Reach.mk_eq] | split | dsimp only | (apply ReachMk.intro <;> first | exact .inr (by decide) | rfl | exact .inl rfl | skip))

theorem Dev.capArm_reach (d : Dev) : Reach (Part.regs ||| Part.cap) d (Dev.capArm d) := by
  unfold Dev.capArm
  with_reducible repeat' (first | assumption | exact .refl _ | (extract_lets +onlyGivenNames x; first | (refine Reach.have (x := x) ?_ (fun hx hxs => ?_); unfold x; clear x; rotate_left; clear_value x) | clear_value x) | (apply Reach.wr'; decide) | (apply Reach.ite <;> intro) | simp -zeta -iota only [↓Reach.mk_eq] | split | dsimp only | (apply ReachMk.intro <;> first | exact .inr (by decide) | rfl | exact .inl rfl | skip))

theorem Dev.capStop_reach (d : Dev) : Reach (Part.regs ||| Part.cap) d (Dev.capStop d) := by
  unfold Dev.capStop
  with_reducible repeat' (first | assumption | exact .refl _ | (extract_lets +onlyGivenNames x; clear_value x) | (apply Reach.wr'; decide) | simp -zeta -iota only [↓Reach.mk_eq] | (apply ReachMk.intro <;> first | exact .inr (by decide) | rfl | exact .inl rfl | skip))

theorem Dev.capBegin_reach (d : Dev) (xfer len : Nat) : Reach (Part.fl ||| Part.cap) d (Dev.capBegin d xfer len) := by
  unfold Dev.capBegin
  with_reducible repeat' (first | assumption | exact .refl _ | (extract_lets +onlyGivenNames x; first | (refine Reach.have (x := x) ?_ (fun hx hxs => ?_); unfold x; clear x; rotate_left; clear_value x) | clear_value x) | (apply Reach.via (Dev.sendBulkAt_reach ..); decide) | (apply Reach.via (Dev.takeCell_reach ..); decide) | (apply Reach.ite <;> intro) | simp -zeta -iota only [↓Reach.mk_eq] | split | (apply ReachMk.intro <;> first | exact .inr (by decide) | rfl | exact .inl rfl | skip))

theorem Dev.capEnd_reach (d : Dev) : Reach (Part.fl ||| Part.cap) d (Dev.capEnd d) := by
  unfold Dev.capEnd
  with_reducible repeat' (first | assumption | exact .refl _ | (extract_lets +onlyGivenNames x; first | (refine Reach.have (x := x) ?_ (fun hx hxs => ?_); unfold x; clear x; rotate_left; clear_value x) | clear_value x) | (apply Reach.via (Dev.raise_reach ..); decide) | (apply Reach.via (Dev.takeCell_reach ..); decide) | simp -zeta -iota only [↓Reach.mk_eq] | (apply ReachMk.intro <;> first | exact .inr (by decide) | rfl | exact .inl rfl | skip))

theorem Dev.fatalLatch_reach (d : Dev) (cause : Nat) : Reach (Part.regs ||| Part.fl ||| Part.ash) d (Dev.fatalLatch d cause) := by
  unfold Dev.fatalLatch
  with_reducible repeat' (first | assumption | exact .refl _ | (extract_lets +onlyGivenNames x; clear_value x) | (apply Reach.wr'; decide) | (apply Reach.via (Dev.bump_reach ..); decide) | (apply Reach.via (Dev.raise_reach ..); decide) | (apply Reach.via (Dev.wrPair_reach ..); decide) | (apply Reach.ite <;> intro) | simp -zeta -iota only [↓Reach.mk_eq] | split | (apply ReachMk.intro <;> first | exact .inr (by decide) | rfl | exact .inl rfl | skip))

end Sys2Proof.Machine
end

