-- ==== Sys2Proof/Laws/ReachLegs.lean ====
section
/-! SUPPORT. What the functions of Machine/Legs.lean can do to the block. -/

set_option linter.tactic.unusedName false
set_option linter.unusedTactic false
set_option linter.unusedSimpArgs false
set_option linter.unreachableTactic false
set_option maxHeartbeats 800000

namespace Sys2Proof.Machine

theorem Dev.setLeg_reach (d : Dev) (n : Nat) (l : LegRt) : Reach (Part.pwm) d (Dev.setLeg d n l) := by
  unfold Dev.setLeg
  with_reducible repeat' (first | assumption | exact .refl _ | (extract_lets +onlyGivenNames x; first | (have hf : Pwm := x; clear hf; refine Reach.keep_pwm (x := x) ?_ (fun hx => ?_); (· intro hs; unfold x; clear x; (repeat' (first | ((try simp only [Pwm.Shaped] at *); simp +zetaDelta (maxDischargeDepth := 9) only [Pwm.Shaped, Dev.Shaped.pwm_inputs, Dev.Shaped.wr, Dev.Shaped.resetDomains, setAt_length, addAt_length, List.length_map, List.length_replicate, List.length_cons, List.length_nil, List.length_zipWith, List.length_range, List.length_append, List.length_drop, List.length_take, Nat.reduceSub, Nat.reduceLeDiff, Nat.min_eq_left, *, and_self, Nat.reduceAdd, Nat.zero_add]; done) | split))); clear_value x) | clear_value x) | simp -zeta -iota only [↓Reach.mk_eq] | (apply ReachMk.intro <;> first | exact .inr (by decide) | rfl | exact .inl rfl | (refine .inr ⟨by decide, fun hs he => ?_⟩; (repeat' (first | ((try simp only [Pwm.Shaped] at *); simp +zetaDelta (maxDischargeDepth := 9) only [Pwm.Shaped, Dev.Shaped.pwm_inputs, Dev.Shaped.wr, Dev.Shaped.resetDomains, setAt_length, addAt_length, List.length_map, List.length_replicate, List.length_cons, List.length_nil, List.length_zipWith, List.length_range, List.length_append, List.length_drop, List.length_take, Nat.reduceSub, Nat.reduceLeDiff, Nat.min_eq_left, *, and_self, Nat.reduceAdd, Nat.zero_add]; done) | split)); done) | skip))

theorem Dev.setLegState_reach (d : Dev) (n v : Nat) : Reach (Part.regs) d (Dev.setLegState d n v) := by
  unfold Dev.setLegState
  with_reducible repeat' (first | assumption | exact .refl _ | (apply Reach.wr'; decide))

theorem Dev.legSafe_reach (d : Dev) (n : Nat) : Reach (Part.pwm) d (Dev.legSafe d n) := by
  unfold Dev.legSafe
  with_reducible repeat' (first | assumption | exact .refl _ | (extract_lets +onlyGivenNames x; first | (refine Reach.have (x := x) ?_ (fun hx hxs => ?_); unfold x; clear x; rotate_left; clear_value x) | clear_value x) | (apply Reach.via (Dev.setLeg_reach ..); decide))

theorem Dev.pwmStatShow_reach (d : Dev) : Reach (Part.regs) d (Dev.pwmStatShow d) := by
  unfold Dev.pwmStatShow
  with_reducible repeat' (first | assumption | exact .refl _ | (apply Reach.via (Dev.wrB_reach ..); decide))

theorem Dev.legSafeShow_reach (d : Dev) (n : Nat) (v : Bool) : Reach (Part.regs) d (Dev.legSafeShow d n v) := by
  unfold Dev.legSafeShow
  with_reducible repeat' (first | assumption | exact .refl _ | (extract_lets +onlyGivenNames x; first | (refine Reach.have (x := x) ?_ (fun hx hxs => ?_); unfold x; clear x; rotate_left; clear_value x) | clear_value x) | (apply Reach.wr'; decide) | (apply Reach.ite <;> intro) | split)

theorem Dev.legOwes_reach (d : Dev) (n : Nat) (v : Bool) : Reach (Part.pwm) d (Dev.legOwes d n v) := by
  unfold Dev.legOwes
  with_reducible repeat' (first | assumption | exact .refl _ | (extract_lets +onlyGivenNames x; clear_value x) | (apply Reach.via (Dev.setLeg_reach ..); decide) | simp -zeta -iota only [↓Reach.mk_eq] | (apply ReachMk.intro <;> first | exact .inr (by decide) | rfl | exact .inl rfl | skip))

theorem Dev.legsTrip_reach (d : Dev) : Reach (Part.regs ||| Part.pwm) d (Dev.legsTrip d) := by
  unfold Dev.legsTrip
  with_reducible repeat' (first | assumption | exact .refl _ | (extract_lets +onlyGivenNames x; first | (refine Reach.have (x := x) ?_ (fun hx hxs => ?_); unfold x; clear x; rotate_left; clear_value x) | clear_value x) | (apply Reach.via (Dev.legOwes_reach ..); decide) | (apply Reach.via (Dev.legSafe_reach ..); decide) | (apply Reach.via (Dev.legSafeShow_reach ..); decide) | (apply Reach.via (Dev.setLegState_reach ..); decide) | (apply Dev.forAll_reach <;> intros) | (apply Reach.ite <;> intro) | split)

theorem Dev.legsHold_reach (d : Dev) : Reach (Part.regs ||| Part.pwm) d (Dev.legsHold d) := by
  unfold Dev.legsHold
  with_reducible repeat' (first | assumption | exact .refl _ | (apply Reach.via (Dev.legSafe_reach ..); decide) | (apply Reach.via (Dev.setLegState_reach ..); decide) | (apply Dev.forAll_reach <;> intros) | (apply Reach.ite <;> intro) | split)

theorem Dev.tripFirst_reach (d : Dev) (input : Nat) : Reach (Part.regs) d (Dev.tripFirst d input) := by
  unfold Dev.tripFirst
  with_reducible repeat' (first | assumption | exact .refl _ | (apply Reach.wr'; decide) | (apply Reach.via (Dev.wrPair_reach ..); decide) | (apply Reach.ite <;> intro) | split | dsimp only)

theorem Dev.tripFirstClear_reach (d : Dev) : Reach (Part.regs) d (Dev.tripFirstClear d) := by
  unfold Dev.tripFirstClear
  with_reducible repeat' (first | assumption | exact .refl _ | (apply Reach.wr'; decide) | (apply Reach.ite <;> intro) | split | dsimp only)

theorem Dev.swTripGroups_reach (d : Dev) (mask : Nat) : Reach (Part.regs ||| Part.fl ||| Part.pwm ||| Part.cap) d (Dev.swTripGroups d mask) := by
  unfold Dev.swTripGroups
  with_reducible repeat' (first | assumption | exact .refl _ | (extract_lets +onlyGivenNames x; first | (refine Reach.have (x := x) ?_ (fun hx hxs => ?_); unfold x; clear x; rotate_left; clear_value x) | clear_value x) | (apply Reach.wr'; decide) | (apply Reach.via (Dev.capCause_reach ..); decide) | (apply Reach.via (Dev.legsTrip_reach ..); decide) | (apply Reach.via (Dev.raise_reach ..); decide) | (apply Reach.via (Dev.tripFirst_reach ..); decide))

theorem Dev.swTripOut_reach (d : Dev) (n : Nat) : Reach (Part.regs ||| Part.fl ||| Part.pwm ||| Part.cap) d (Dev.swTripOut d n) := by
  unfold Dev.swTripOut
  with_reducible repeat' (first | assumption | exact .refl _ | (extract_lets +onlyGivenNames x; first | (refine Reach.have (x := x) ?_ (fun hx hxs => ?_); unfold x; clear x; rotate_left; clear_value x) | clear_value x) | (apply Reach.wr'; decide) | (apply Reach.via (Dev.capCause_reach ..); decide) | (apply Reach.via (Dev.legsTrip_reach ..); decide) | (apply Reach.via (Dev.raise_reach ..); decide) | (apply Reach.via (Dev.tripFirst_reach ..); decide) | dsimp only)

theorem Dev.deviceTrip_reach (d : Dev) : Reach (Part.regs ||| Part.pw ||| Part.fl ||| Part.pwm ||| Part.cap) d (Dev.deviceTrip d) := by
  unfold Dev.deviceTrip
  with_reducible repeat' (first | assumption | exact .refl _ | (extract_lets +onlyGivenNames x; first | (refine Reach.have (x := x) ?_ (fun hx hxs => ?_); unfold x; clear x; rotate_left; clear_value x) | clear_value x) | (apply Reach.wr'; decide) | (apply Reach.via (Dev.capCause_reach ..); decide) | (apply Reach.via (Dev.legsTrip_reach ..); decide) | (apply Reach.via (Dev.raise_reach ..); decide) | (apply Reach.via (Dev.tripFirst_reach ..); decide) | simp -zeta -iota only [↓Reach.mk_eq] | dsimp only | (apply ReachMk.intro <;> first | exact .inr (by decide) | rfl | exact .inl rfl | skip))

theorem Dev.grpShow_reach (d : Dev) (g : Nat) : Reach (Part.regs) d (Dev.grpShow d g) := by
  unfold Dev.grpShow
  with_reducible repeat' (first | assumption | exact .refl _ | (extract_lets +onlyGivenNames x; first | (refine Reach.have (x := x) ?_ (fun hx hxs => ?_); unfold x; clear x; rotate_left; clear_value x) | clear_value x) | (apply Reach.wr'; decide) | simp -zeta -iota only [↓Reach.mk_eq] | split | (apply ReachMk.intro <;> first | exact .inr (by decide) | rfl | exact .inl rfl | skip))

theorem Dev.grpDivReq_reach (d : Dev) (g v : Nat) : Reach (Part.regs ||| Part.pwm) d (Dev.grpDivReq d g v) := by
  unfold Dev.grpDivReq
  with_reducible repeat' (first | assumption | exact .refl _ | (extract_lets +onlyGivenNames x; first | (refine Reach.have (x := x) ?_ (fun hx hxs => ?_); unfold x; clear x; rotate_left; clear_value x) | (have hf : Pwm := x; clear hf; refine Reach.keep_pwm (x := x) ?_ (fun hx => ?_); (· intro hs; unfold x; clear x; (repeat' (first | ((try simp only [Pwm.Shaped] at *); simp +zetaDelta (maxDischargeDepth := 9) only [Pwm.Shaped, Dev.Shaped.pwm_inputs, Dev.Shaped.wr, Dev.Shaped.resetDomains, setAt_length, addAt_length, List.length_map, List.length_replicate, List.length_cons, List.length_nil, List.length_zipWith, List.length_range, List.length_append, List.length_drop, List.length_take, Nat.reduceSub, Nat.reduceLeDiff, Nat.min_eq_left, *, and_self, Nat.reduceAdd, Nat.zero_add]; done) | split))); clear_value x) | clear_value x) | (apply Reach.wr'; decide) | (apply Reach.ite <;> intro) | simp -zeta -iota only [↓Reach.mk_eq] | split | dsimp only | (apply ReachMk.intro <;> first | exact .inr (by decide) | rfl | exact .inl rfl | (refine .inr ⟨by decide, fun hs he => ?_⟩; (repeat' (first | ((try simp only [Pwm.Shaped] at *); simp +zetaDelta (maxDischargeDepth := 9) only [Pwm.Shaped, Dev.Shaped.pwm_inputs, Dev.Shaped.wr, Dev.Shaped.resetDomains, setAt_length, addAt_length, List.length_map, List.length_replicate, List.length_cons, List.length_nil, List.length_zipWith, List.length_range, List.length_append, List.length_drop, List.length_take, Nat.reduceSub, Nat.reduceLeDiff, Nat.min_eq_left, *, and_self, Nat.reduceAdd, Nat.zero_add]; done) | split)); done) | skip))

theorem Dev.grpDivAtS_reach (d : Dev) : Reach (Part.regs ||| Part.pwm) d (Dev.grpDivAtS d) := by
  unfold Dev.grpDivAtS
  with_reducible repeat' (first | assumption | exact .refl _ | (extract_lets +onlyGivenNames x; first | (have hf : Pwm := x; clear hf; refine Reach.keep_pwm (x := x) ?_ (fun hx => ?_); (· intro hs; unfold x; clear x; (repeat' (first | ((try simp only [Pwm.Shaped] at *); simp +zetaDelta (maxDischargeDepth := 9) only [Pwm.Shaped, Dev.Shaped.pwm_inputs, Dev.Shaped.wr, Dev.Shaped.resetDomains, setAt_length, addAt_length, List.length_map, List.length_replicate, List.length_cons, List.length_nil, List.length_zipWith, List.length_range, List.length_append, List.length_drop, List.length_take, Nat.reduceSub, Nat.reduceLeDiff, Nat.min_eq_left, *, and_self, Nat.reduceAdd, Nat.zero_add]; done) | split))); clear_value x) | clear_value x) | (apply Reach.wr'; decide) | (apply Dev.forAll_reach <;> intros) | simp -zeta -iota only [↓Reach.mk_eq] | split | dsimp only | (apply ReachMk.intro <;> first | exact .inr (by decide) | rfl | exact .inl rfl | (refine .inr ⟨by decide, fun hs he => ?_⟩; (repeat' (first | ((try simp only [Pwm.Shaped] at *); simp +zetaDelta (maxDischargeDepth := 9) only [Pwm.Shaped, Dev.Shaped.pwm_inputs, Dev.Shaped.wr, Dev.Shaped.resetDomains, setAt_length, addAt_length, List.length_map, List.length_replicate, List.length_cons, List.length_nil, List.length_zipWith, List.length_range, List.length_append, List.length_drop, List.length_take, Nat.reduceSub, Nat.reduceLeDiff, Nat.min_eq_left, *, and_self, Nat.reduceAdd, Nat.zero_add]; done) | split)); done) | skip))

theorem Dev.legDiv_reach (d : Dev) (n f : Nat) : Reach (Part.regs ||| Part.pwm) d (Dev.legDiv d n f) := by
  unfold Dev.legDiv
  with_reducible repeat' (first | assumption | exact .refl _ | (extract_lets +onlyGivenNames x; first | (refine Reach.have (x := x) ?_ (fun hx hxs => ?_); unfold x; clear x; rotate_left; clear_value x) | (have hf : Pwm := x; clear hf; refine Reach.keep_pwm (x := x) ?_ (fun hx => ?_); (· intro hs; unfold x; clear x; (repeat' (first | ((try simp only [Pwm.Shaped] at *); simp +zetaDelta (maxDischargeDepth := 9) only [Pwm.Shaped, Dev.Shaped.pwm_inputs, Dev.Shaped.wr, Dev.Shaped.resetDomains, setAt_length, addAt_length, List.length_map, List.length_replicate, List.length_cons, List.length_nil, List.length_zipWith, List.length_range, List.length_append, List.length_drop, List.length_take, Nat.reduceSub, Nat.reduceLeDiff, Nat.min_eq_left, *, and_self, Nat.reduceAdd, Nat.zero_add]; done) | split))); clear_value x) | clear_value x) | (apply Reach.wr'; decide) | (apply Reach.via (Dev.grpShow_reach ..); decide) | (apply Reach.via (Dev.setLeg_reach ..); decide) | (apply Reach.ite <;> intro) | simp -zeta -iota only [↓Reach.mk_eq] | split | (apply ReachMk.intro <;> first | exact .inr (by decide) | rfl | exact .inl rfl | (refine .inr ⟨by decide, fun hs he => ?_⟩; (repeat' (first | ((try simp only [Pwm.Shaped] at *); simp +zetaDelta (maxDischargeDepth := 9) only [Pwm.Shaped, Dev.Shaped.pwm_inputs, Dev.Shaped.wr, Dev.Shaped.resetDomains, setAt_length, addAt_length, List.length_map, List.length_replicate, List.length_cons, List.length_nil, List.length_zipWith, List.length_range, List.length_append, List.length_drop, List.length_take, Nat.reduceSub, Nat.reduceLeDiff, Nat.min_eq_left, *, and_self, Nat.reduceAdd, Nat.zero_add]; done) | split)); done) | skip))

theorem Dev.legShow_reach (d : Dev) (n : Nat) (pl : Plan) (duty : Nat) : Reach (Part.regs) d (Dev.legShow d n pl duty) := by
  unfold Dev.legShow
  with_reducible repeat' (first | assumption | exact .refl _ | (extract_lets +onlyGivenNames x; first | (refine Reach.have (x := x) ?_ (fun hx hxs => ?_); unfold x; clear x; rotate_left; clear_value x) | clear_value x) | (apply Reach.via (Dev.bump_reach ..); decide) | (apply Reach.via (Dev.wrAll_reach ..); decide) | (apply Reach.via (Dev.wrS_reach ..); decide) | (apply Reach.ite <;> intro) | split)

theorem Dev.syncReturn_reach (d : Dev) (n : Nat) : Reach (Part.regs ||| Part.pwm) d (Dev.syncReturn d n) := by
  unfold Dev.syncReturn
  with_reducible repeat' (first | assumption | exact .refl _ | (extract_lets +onlyGivenNames x; first | (refine Reach.have (x := x) ?_ (fun hx hxs => ?_); unfold x; clear x; rotate_left; clear_value x) | (have hf : Pwm := x; clear hf; refine Reach.keep_pwm (x := x) ?_ (fun hx => ?_); (· intro hs; unfold x; clear x; (repeat' (first | ((try simp only [Pwm.Shaped] at *); simp +zetaDelta (maxDischargeDepth := 9) only [Pwm.Shaped, Dev.Shaped.pwm_inputs, Dev.Shaped.wr, Dev.Shaped.resetDomains, setAt_length, addAt_length, List.length_map, List.length_replicate, List.length_cons, List.length_nil, List.length_zipWith, List.length_range, List.length_append, List.length_drop, List.length_take, Nat.reduceSub, Nat.reduceLeDiff, Nat.min_eq_left, *, and_self, Nat.reduceAdd, Nat.zero_add]; done) | split))); clear_value x) | clear_value x) | (apply Reach.via (Dev.wrS_reach ..); decide) | (apply Reach.ite <;> intro) | simp -zeta -iota only [↓Reach.mk_eq] | split | (apply ReachMk.intro <;> first | exact .inr (by decide) | rfl | exact .inl rfl | (refine .inr ⟨by decide, fun hs he => ?_⟩; (repeat' (first | ((try simp only [Pwm.Shaped] at *); simp +zetaDelta (maxDischargeDepth := 9) only [Pwm.Shaped, Dev.Shaped.pwm_inputs, Dev.Shaped.wr, Dev.Shaped.resetDomains, setAt_length, addAt_length, List.length_map, List.length_replicate, List.length_cons, List.length_nil, List.length_zipWith, List.length_range, List.length_append, List.length_drop, List.length_take, Nat.reduceSub, Nat.reduceLeDiff, Nat.min_eq_left, *, and_self, Nat.reduceAdd, Nat.zero_add]; done) | split)); done) | skip))

theorem Dev.trgLoad_reach (d : Dev) (g : Nat) : Reach (Part.pwm) d (Dev.trgLoad d g) := by
  unfold Dev.trgLoad
  with_reducible repeat' (first | assumption | exact .refl _ | (extract_lets +onlyGivenNames x; first | (have hf : Pwm := x; clear hf; refine Reach.keep_pwm (x := x) ?_ (fun hx => ?_); (· intro hs; unfold x; clear x; (repeat' (first | ((try simp only [Pwm.Shaped] at *); simp +zetaDelta (maxDischargeDepth := 9) only [Pwm.Shaped, Dev.Shaped.pwm_inputs, Dev.Shaped.wr, Dev.Shaped.resetDomains, setAt_length, addAt_length, List.length_map, List.length_replicate, List.length_cons, List.length_nil, List.length_zipWith, List.length_range, List.length_append, List.length_drop, List.length_take, Nat.reduceSub, Nat.reduceLeDiff, Nat.min_eq_left, *, and_self, Nat.reduceAdd, Nat.zero_add]; done) | split))); clear_value x) | clear_value x) | simp -zeta -iota only [↓Reach.mk_eq] | split | dsimp only | (apply ReachMk.intro <;> first | exact .inr (by decide) | rfl | exact .inl rfl | (refine .inr ⟨by decide, fun hs he => ?_⟩; (repeat' (first | ((try simp only [Pwm.Shaped] at *); simp +zetaDelta (maxDischargeDepth := 9) only [Pwm.Shaped, Dev.Shaped.pwm_inputs, Dev.Shaped.wr, Dev.Shaped.resetDomains, setAt_length, addAt_length, List.length_map, List.length_replicate, List.length_cons, List.length_nil, List.length_zipWith, List.length_range, List.length_append, List.length_drop, List.length_take, Nat.reduceSub, Nat.reduceLeDiff, Nat.min_eq_left, *, and_self, Nat.reduceAdd, Nat.zero_add]; done) | split)); done) | skip))

theorem Dev.legRun_reach (d : Dev) (n f : Nat) (load resume : Bool) : Reach (Part.regs ||| Part.pwm) d (Dev.legRun d n f load resume) := by
  unfold Dev.legRun
  with_reducible repeat' (first | assumption | exact .refl _ | (extract_lets +onlyGivenNames x; first | (refine Reach.have (x := x) ?_ (fun hx hxs => ?_); unfold x; clear x; rotate_left; clear_value x) | clear_value x) | (apply Reach.via (Dev.legShow_reach ..); decide) | (apply Reach.via (Dev.setLeg_reach ..); decide) | (apply Reach.via (Dev.setLegState_reach ..); decide) | (apply Reach.ite <;> intro) | simp -zeta -iota only [↓Reach.mk_eq] | split | (apply ReachMk.intro <;> first | exact .inr (by decide) | rfl | exact .inl rfl | skip))

theorem Dev.legKept_reach (d : Dev) (n f st : Nat) : Reach (Part.regs ||| Part.pwm) d (Dev.legKept d n f st) := by
  unfold Dev.legKept
  with_reducible repeat' (first | assumption | exact .refl _ | (extract_lets +onlyGivenNames x; first | (refine Reach.have (x := x) ?_ (fun hx hxs => ?_); unfold x; clear x; rotate_left; clear_value x) | clear_value x) | (apply Reach.via (Dev.setLeg_reach ..); decide) | (apply Reach.via (Dev.setLegState_reach ..); decide) | simp -zeta -iota only [↓Reach.mk_eq] | (apply ReachMk.intro <;> first | exact .inr (by decide) | rfl | exact .inl rfl | skip))

theorem Dev.periodStart_reach (d : Dev) (n : Nat) : Reach (Part.regs ||| Part.fl ||| Part.tm ||| Part.st ||| Part.pwm) d (Dev.periodStart d n) := by
  unfold Dev.periodStart
  with_reducible repeat' (first | assumption | exact .refl _ | (extract_lets +onlyGivenNames x; first | (refine Reach.have (x := x) ?_ (fun hx hxs => ?_); unfold x; clear x; rotate_left; clear_value x) | clear_value x) | (apply Reach.wr'; decide) | (apply Reach.via (Dev.advanceTo_reach ..); decide) | (apply Reach.via (Dev.legDiv_reach ..); decide) | (apply Reach.via (Dev.legKept_reach ..); decide) | (apply Reach.via (Dev.legOwes_reach ..); decide) | (apply Reach.via (Dev.legRun_reach ..); decide) | (apply Reach.via (Dev.legSafe_reach ..); decide) | (apply Reach.via (Dev.legSafeShow_reach ..); decide) | (apply Reach.via (Dev.raise_reach ..); decide) | (apply Reach.via (Dev.setLeg_reach ..); decide) | (apply Reach.via (Dev.syncReturn_reach ..); decide) | (apply Reach.via (Dev.trgLoad_reach ..); decide) | (apply Reach.ite <;> intro) | split)

theorem Dev.forceWrite_reach (d : Dev) (n v : Nat) : Reach (Part.regs ||| Part.fl) d (Dev.forceWrite d n v) := by
  unfold Dev.forceWrite
  with_reducible repeat' (first | assumption | exact .refl _ | (extract_lets +onlyGivenNames x; first | (refine Reach.have (x := x) ?_ (fun hx hxs => ?_); unfold x; clear x; rotate_left; clear_value x) | clear_value x) | (apply Reach.wr'; decide) | (apply Reach.via (Dev.bump_reach ..); decide) | (apply Reach.via (Dev.raise_reach ..); decide) | (apply Reach.ite <;> intro) | split | dsimp only)

theorem Dev.actTransfer_reach (d : Dev) (r : ActRec) : Reach (Part.regs) d (Dev.actTransfer d r) := by
  unfold Dev.actTransfer
  with_reducible repeat' (first | assumption | exact .refl _ | (extract_lets +onlyGivenNames x; first | (refine Reach.have (x := x) ?_ (fun hx hxs => ?_); unfold x; clear x; rotate_left; clear_value x) | clear_value x) | (apply Reach.wr'; decide) | (apply Reach.via (Dev.bump_reach ..); decide) | (apply Reach.ite <;> intro) | simp -zeta -iota only [↓Reach.mk_eq] | split | dsimp only | (apply ReachMk.intro <;> first | exact .inr (by decide) | rfl | exact .inl rfl | skip))

theorem Dev.syncState_reach (d : Dev) (st : Nat) : Reach (Part.regs ||| Part.fl) d (Dev.syncState d st) := by
  unfold Dev.syncState
  with_reducible repeat' (first | assumption | exact .refl _ | (apply Reach.wr'; decide) | (apply Reach.via (Dev.raise_reach ..); decide) | (apply Reach.ite <;> intro) | split)

theorem Dev.setDelta_reach (d : Dev) (x : Int) : Reach (Part.regs ||| Part.pwm) d (Dev.setDelta d x) := by
  unfold Dev.setDelta
  with_reducible repeat' (first | assumption | exact .refl _ | (extract_lets +onlyGivenNames x; first | (have hf : Pwm := x; clear hf; refine Reach.keep_pwm (x := x) ?_ (fun hx => ?_); (· intro hs; unfold x; clear x; (repeat' (first | ((try simp only [Pwm.Shaped] at *); simp +zetaDelta (maxDischargeDepth := 9) only [Pwm.Shaped, Dev.Shaped.pwm_inputs, Dev.Shaped.wr, Dev.Shaped.resetDomains, setAt_length, addAt_length, List.length_map, List.length_replicate, List.length_cons, List.length_nil, List.length_zipWith, List.length_range, List.length_append, List.length_drop, List.length_take, Nat.reduceSub, Nat.reduceLeDiff, Nat.min_eq_left, *, and_self, Nat.reduceAdd, Nat.zero_add]; done) | split))); clear_value x) | clear_value x) | (apply Reach.via (Dev.wrS_reach ..); decide) | simp -zeta -iota only [↓Reach.mk_eq] | (apply ReachMk.intro <;> first | exact .inr (by decide) | rfl | exact .inl rfl | (refine .inr ⟨by decide, fun hs he => ?_⟩; (repeat' (first | ((try simp only [Pwm.Shaped] at *); simp +zetaDelta (maxDischargeDepth := 9) only [Pwm.Shaped, Dev.Shaped.pwm_inputs, Dev.Shaped.wr, Dev.Shaped.resetDomains, setAt_length, addAt_length, List.length_map, List.length_replicate, List.length_cons, List.length_nil, List.length_zipWith, List.length_range, List.length_append, List.length_drop, List.length_take, Nat.reduceSub, Nat.reduceLeDiff, Nat.min_eq_left, *, and_self, Nat.reduceAdd, Nat.zero_add]; done) | split)); done) | skip))

theorem Dev.setSyncRun_reach (d : Dev) (n : Nat) : Reach (Part.pwm) d (Dev.setSyncRun d n) := by
  unfold Dev.setSyncRun
  with_reducible repeat' (first | assumption | exact .refl _ | (extract_lets +onlyGivenNames x; first | (have hf : Pwm := x; clear hf; refine Reach.keep_pwm (x := x) ?_ (fun hx => ?_); (· intro hs; unfold x; clear x; (repeat' (first | ((try simp only [Pwm.Shaped] at *); simp +zetaDelta (maxDischargeDepth := 9) only [Pwm.Shaped, Dev.Shaped.pwm_inputs, Dev.Shaped.wr, Dev.Shaped.resetDomains, setAt_length, addAt_length, List.length_map, List.length_replicate, List.length_cons, List.length_nil, List.length_zipWith, List.length_range, List.length_append, List.length_drop, List.length_take, Nat.reduceSub, Nat.reduceLeDiff, Nat.min_eq_left, *, and_self, Nat.reduceAdd, Nat.zero_add]; done) | split))); clear_value x) | clear_value x) | simp -zeta -iota only [↓Reach.mk_eq] | (apply ReachMk.intro <;> first | exact .inr (by decide) | rfl | exact .inl rfl | (refine .inr ⟨by decide, fun hs he => ?_⟩; (repeat' (first | ((try simp only [Pwm.Shaped] at *); simp +zetaDelta (maxDischargeDepth := 9) only [Pwm.Shaped, Dev.Shaped.pwm_inputs, Dev.Shaped.wr, Dev.Shaped.resetDomains, setAt_length, addAt_length, List.length_map, List.length_replicate, List.length_cons, List.length_nil, List.length_zipWith, List.length_range, List.length_append, List.length_drop, List.length_take, Nat.reduceSub, Nat.reduceLeDiff, Nat.min_eq_left, *, and_self, Nat.reduceAdd, Nat.zero_add]; done) | split)); done) | skip))

theorem Dev.syncEdge_reach (d : Dev) (cap : Nat) : Reach (Part.regs ||| Part.fl ||| Part.tm ||| Part.pwm) d (Dev.syncEdge d cap) := by
  unfold Dev.syncEdge
  with_reducible repeat' (first | assumption | exact .refl _ | (extract_lets +onlyGivenNames x; first | (refine Reach.have (x := x) ?_ (fun hx hxs => ?_); unfold x; clear x; rotate_left; clear_value x) | clear_value x) | (apply Reach.via (Dev.advanceTo_reach ..); decide) | (apply Reach.via (Dev.setDelta_reach ..); decide) | (apply Reach.via (Dev.setSyncRun_reach ..); decide) | (apply Reach.via (Dev.syncState_reach ..); decide) | (apply Reach.via (Dev.wrS_reach ..); decide) | (apply Reach.ite <;> intro) | simp -zeta -iota only [↓Reach.mk_eq] | split | dsimp only | (apply ReachMk.intro <;> first | exact .inr (by decide) | rfl | exact .inl rfl | skip))

theorem Dev.syncMissing_reach (d : Dev) : Reach (Part.regs ||| Part.fl ||| Part.pwm) d (Dev.syncMissing d) := by
  unfold Dev.syncMissing
  with_reducible repeat' (first | assumption | exact .refl _ | (apply Reach.via (Dev.setSyncRun_reach ..); decide) | (apply Reach.via (Dev.syncState_reach ..); decide) | (apply Reach.ite <;> intro) | split | dsimp only)

theorem Dev.syncEnable_reach (d : Dev) : Reach (Part.regs ||| Part.fl ||| Part.pwm) d (Dev.syncEnable d) := by
  unfold Dev.syncEnable
  with_reducible repeat' (first | assumption | exact .refl _ | (extract_lets +onlyGivenNames x; first | (refine Reach.have (x := x) ?_ (fun hx hxs => ?_); unfold x; clear x; rotate_left; clear_value x) | clear_value x) | (apply Reach.wr'; decide) | (apply Reach.via (Dev.setSyncRun_reach ..); decide) | (apply Reach.via (Dev.syncState_reach ..); decide) | (apply Reach.ite <;> intro) | split | dsimp only)

theorem Dev.syncDisable_reach (d : Dev) : Reach (Part.regs ||| Part.fl ||| Part.pwm) d (Dev.syncDisable d) := by
  unfold Dev.syncDisable
  with_reducible repeat' (first | assumption | exact .refl _ | (apply Reach.wr'; decide) | (apply Reach.via (Dev.setSyncRun_reach ..); decide) | (apply Reach.via (Dev.syncState_reach ..); decide))

end Sys2Proof.Machine
end

