-- ==== Sys2Proof/Laws/ReachOrders.lean ====
section
/-! SUPPORT. What the functions of Machine/Orders.lean can do to the block. -/

set_option linter.tactic.unusedName false
set_option linter.unusedTactic false
set_option linter.unusedSimpArgs false
set_option linter.unreachableTactic false
set_option maxHeartbeats 800000

namespace Sys2Proof.Machine

theorem Dev.setOut_reach (d : Dev) (n : Nat) (o : OutRt) : Reach (Part.out) d (Dev.setOut d n o) := by
  unfold Dev.setOut
  with_reducible repeat' (first | assumption | exact .refl _ | (extract_lets +onlyGivenNames x; first | (have hf : List OutRt := x; clear hf; refine Reach.keep_out (x := x) ?_ (fun hx => ?_); (· intro hs; unfold x; clear x; (repeat' (first | (simp +zetaDelta (maxDischargeDepth := 9) only [Dev.Shaped.out, Dev.Shaped.wr, Dev.Shaped.resetDomains, setAt_length, addAt_length, List.length_map, List.length_replicate, List.length_cons, List.length_nil, List.length_zipWith, List.length_range, List.length_append, List.length_drop, List.length_take, Nat.reduceSub, Nat.reduceLeDiff, Nat.min_eq_left, *, and_self, Nat.reduceAdd, Nat.zero_add]; done) | split))); clear_value x) | clear_value x) | simp -zeta -iota only [↓Reach.mk_eq] | (apply ReachMk.intro <;> first | exact .inr (by decide) | rfl | exact .inl rfl | (refine .inr ⟨by decide, fun hs he => ?_⟩; (repeat' (first | (simp +zetaDelta (maxDischargeDepth := 9) only [Dev.Shaped.out, Dev.Shaped.wr, Dev.Shaped.resetDomains, setAt_length, addAt_length, List.length_map, List.length_replicate, List.length_cons, List.length_nil, List.length_zipWith, List.length_range, List.length_append, List.length_drop, List.length_take, Nat.reduceSub, Nat.reduceLeDiff, Nat.min_eq_left, *, and_self, Nat.reduceAdd, Nat.zero_add]; done) | split)); done) | skip))

theorem Dev.outCause_reach (d : Dev) (n c : Nat) : Reach (Part.regs ||| Part.fl) d (Dev.outCause d n c) := by
  unfold Dev.outCause
  with_reducible repeat' (first | assumption | exact .refl _ | (apply Reach.wr'; decide) | (apply Reach.via (Dev.raise_reach ..); decide) | dsimp only)

theorem Dev.outImmediate_reach (d : Dev) (n c : Nat) : Reach (Part.regs ||| Part.fl ||| Part.pwm ||| Part.out ||| Part.cap) d (Dev.outImmediate d n c) := by
  unfold Dev.outImmediate
  with_reducible repeat' (first | assumption | exact .refl _ | (extract_lets +onlyGivenNames x; first | (refine Reach.have (x := x) ?_ (fun hx hxs => ?_); unfold x; clear x; rotate_left; clear_value x) | clear_value x) | (apply Reach.via (Dev.outCause_reach ..); decide) | (apply Reach.via (Dev.setOut_reach ..); decide) | (apply Reach.via (Dev.swTripOut_reach ..); decide) | (apply Reach.ite <;> intro) | simp -zeta -iota only [↓Reach.mk_eq] | split | (apply ReachMk.intro <;> first | exact .inr (by decide) | rfl | exact .inl rfl | skip))

theorem Dev.outPend_reach (d : Dev) (n c : Nat) : Reach (Part.regs ||| Part.fl ||| Part.out) d (Dev.outPend d n c) := by
  unfold Dev.outPend
  with_reducible repeat' (first | assumption | exact .refl _ | (extract_lets +onlyGivenNames x; first | (refine Reach.have (x := x) ?_ (fun hx hxs => ?_); unfold x; clear x; rotate_left; clear_value x) | clear_value x) | (apply Reach.wr'; decide) | (apply Reach.via (Dev.outCause_reach ..); decide) | (apply Reach.via (Dev.pend_reach ..); decide) | (apply Reach.via (Dev.setOut_reach ..); decide) | (apply Reach.ite <;> intro) | simp -zeta -iota only [↓Reach.mk_eq] | split | dsimp only | (apply ReachMk.intro <;> first | exact .inr (by decide) | rfl | exact .inl rfl | skip))

theorem Dev.outQuench_reach (d : Dev) (n : Nat) (cause : Option Nat) : Reach (Part.regs ||| Part.fl ||| Part.out) d (Dev.outQuench d n cause) := by
  unfold Dev.outQuench
  with_reducible repeat' (first | assumption | exact .refl _ | (extract_lets +onlyGivenNames x; first | (refine Reach.have (x := x) ?_ (fun hx hxs => ?_); unfold x; clear x; rotate_left; clear_value x) | clear_value x) | (apply Reach.via (Dev.outPend_reach ..); decide) | (apply Reach.via (Dev.setOut_reach ..); decide) | (apply Reach.ite <;> intro) | simp -zeta -iota only [↓Reach.mk_eq] | split | (apply ReachMk.intro <;> first | exact .inr (by decide) | rfl | exact .inl rfl | skip))

theorem Dev.quenchAll_reach (d : Dev) : Reach (Part.pw) d (Dev.quenchAll d) := by
  unfold Dev.quenchAll
  with_reducible repeat' (first | assumption | exact .refl _ | (extract_lets +onlyGivenNames x; clear_value x) | simp -zeta -iota only [↓Reach.mk_eq] | (apply ReachMk.intro <;> first | exact .inr (by decide) | rfl | exact .inl rfl | skip))

end Sys2Proof.Machine
end

