-- ==== Sys2Proof/Laws/ReachCe.lean ====
section
/-! SUPPORT. What the functions of Machine/Ce.lean can do to the block. -/

set_option linter.tactic.unusedName false
set_option linter.unusedTactic false
set_option linter.unusedSimpArgs false
set_option linter.unreachableTactic false
set_option maxHeartbeats 800000

namespace Sys2Proof.Machine

theorem Dev.putSig_reach (d : Dev) (n : Nat) (v : Int) : Reach (Part.ce) d (Dev.putSig d n v) := by
  unfold Dev.putSig
  with_reducible repeat' (first | assumption | exact .refl _ | (extract_lets +onlyGivenNames x; first | (have hf : Ce := x; clear hf; refine Reach.keep_ce (x := x) ?_ (fun hx => ?_); (· intro hs; unfold x; clear x; (repeat' (first | ((try simp only [Ce.Shaped] at *); simp +zetaDelta (maxDischargeDepth := 9) only [Ce.Shaped, Dev.Shaped.ce_sig, Dev.Shaped.ce_acc, Dev.Shaped.ce_axes, Dev.Shaped.wr, Dev.Shaped.resetDomains, setAt_length, addAt_length, List.length_map, List.length_replicate, List.length_cons, List.length_nil, List.length_zipWith, List.length_range, List.length_append, List.length_drop, List.length_take, Nat.reduceSub, Nat.reduceLeDiff, Nat.min_eq_left, *, and_self, Nat.reduceAdd, Nat.zero_add]; done) | split))); clear_value x) | clear_value x) | simp -zeta -iota only [↓Reach.mk_eq] | split | (apply ReachMk.intro <;> first | exact .inr (by decide) | rfl | exact .inl rfl | (refine .inr ⟨by decide, fun hs he => ?_⟩; (repeat' (first | ((try simp only [Ce.Shaped] at *); simp +zetaDelta (maxDischargeDepth := 9) only [Ce.Shaped, Dev.Shaped.ce_sig, Dev.Shaped.ce_acc, Dev.Shaped.ce_axes, Dev.Shaped.wr, Dev.Shaped.resetDomains, setAt_length, addAt_length, List.length_map, List.length_replicate, List.length_cons, List.length_nil, List.length_zipWith, List.length_range, List.length_append, List.length_drop, List.length_take, Nat.reduceSub, Nat.reduceLeDiff, Nat.min_eq_left, *, and_self, Nat.reduceAdd, Nat.zero_add]; done) | split)); done) | skip))

theorem Dev.satCount_reach (d : Dev) (n : Nat) : Reach (Part.regs ||| Part.fl ||| Part.ce) d (Dev.satCount d n) := by
  unfold Dev.satCount
  with_reducible repeat' (first | assumption | exact .refl _ | (extract_lets +onlyGivenNames x; first | (refine Reach.have (x := x) ?_ (fun hx hxs => ?_); unfold x; clear x; rotate_left; clear_value x) | (have hf : Ce := x; clear hf; refine Reach.keep_ce (x := x) ?_ (fun hx => ?_); (· intro hs; unfold x; clear x; (repeat' (first | ((try simp only [Ce.Shaped] at *); simp +zetaDelta (maxDischargeDepth := 9) only [Ce.Shaped, Dev.Shaped.ce_sig, Dev.Shaped.ce_acc, Dev.Shaped.ce_axes, Dev.Shaped.wr, Dev.Shaped.resetDomains, setAt_length, addAt_length, List.length_map, List.length_replicate, List.length_cons, List.length_nil, List.length_zipWith, List.length_range, List.length_append, List.length_drop, List.length_take, Nat.reduceSub, Nat.reduceLeDiff, Nat.min_eq_left, *, and_self, Nat.reduceAdd, Nat.zero_add]; done) | split))); clear_value x) | clear_value x) | (apply Reach.wr'; decide) | (apply Reach.via (Dev.bump_reach ..); decide) | (apply Reach.via (Dev.raise_reach ..); decide) | (apply Reach.ite <;> intro) | simp -zeta -iota only [↓Reach.mk_eq] | split | dsimp only | (apply ReachMk.intro <;> first | exact .inr (by decide) | rfl | exact .inl rfl | (refine .inr ⟨by decide, fun hs he => ?_⟩; (repeat' (first | ((try simp only [Ce.Shaped] at *); simp +zetaDelta (maxDischargeDepth := 9) only [Ce.Shaped, Dev.Shaped.ce_sig, Dev.Shaped.ce_acc, Dev.Shaped.ce_axes, Dev.Shaped.wr, Dev.Shaped.resetDomains, setAt_length, addAt_length, List.length_map, List.length_replicate, List.length_cons, List.length_nil, List.length_zipWith, List.length_range, List.length_append, List.length_drop, List.length_take, Nat.reduceSub, Nat.reduceLeDiff, Nat.min_eq_left, *, and_self, Nat.reduceAdd, Nat.zero_add]; done) | split)); done) | skip))

theorem Dev.outSig_reach (d : Dev) (n : Nat) (v : Int) (satd : Bool) : Reach (Part.regs ||| Part.fl ||| Part.ce) d (Dev.outSig d n v satd) := by
  unfold Dev.outSig
  with_reducible repeat' (first | assumption | exact .refl _ | (apply Reach.via (Dev.putSig_reach ..); decide) | (apply Reach.via (Dev.satCount_reach ..); decide) | (apply Dev.when_reach <;> intros) | (apply Reach.ite <;> intro) | split)

theorem Dev.setAcc_reach (d : Dev) (i : Nat) (a : AccRow) : Reach (Part.ce) d (Dev.setAcc d i a) := by
  unfold Dev.setAcc
  with_reducible repeat' (first | assumption | exact .refl _ | (extract_lets +onlyGivenNames x; first | (have hf : Ce := x; clear hf; refine Reach.keep_ce (x := x) ?_ (fun hx => ?_); (· intro hs; unfold x; clear x; (repeat' (first | ((try simp only [Ce.Shaped] at *); simp +zetaDelta (maxDischargeDepth := 9) only [Ce.Shaped, Dev.Shaped.ce_sig, Dev.Shaped.ce_acc, Dev.Shaped.ce_axes, Dev.Shaped.wr, Dev.Shaped.resetDomains, setAt_length, addAt_length, List.length_map, List.length_replicate, List.length_cons, List.length_nil, List.length_zipWith, List.length_range, List.length_append, List.length_drop, List.length_take, Nat.reduceSub, Nat.reduceLeDiff, Nat.min_eq_left, *, and_self, Nat.reduceAdd, Nat.zero_add]; done) | split))); clear_value x) | clear_value x) | simp -zeta -iota only [↓Reach.mk_eq] | (apply ReachMk.intro <;> first | exact .inr (by decide) | rfl | exact .inl rfl | (refine .inr ⟨by decide, fun hs he => ?_⟩; (repeat' (first | ((try simp only [Ce.Shaped] at *); simp +zetaDelta (maxDischargeDepth := 9) only [Ce.Shaped, Dev.Shaped.ce_sig, Dev.Shaped.ce_acc, Dev.Shaped.ce_axes, Dev.Shaped.wr, Dev.Shaped.resetDomains, setAt_length, addAt_length, List.length_map, List.length_replicate, List.length_cons, List.length_nil, List.length_zipWith, List.length_range, List.length_append, List.length_drop, List.length_take, Nat.reduceSub, Nat.reduceLeDiff, Nat.min_eq_left, *, and_self, Nat.reduceAdd, Nat.zero_add]; done) | split)); done) | skip))

theorem Dev.ceMvm_reach (d : Dev) (a : CeArgs) : Reach (Part.ce) d (Dev.ceMvm d a) := by
  unfold Dev.ceMvm
  with_reducible repeat' (first | assumption | exact .refl _ | (extract_lets +onlyGivenNames x; first | (refine Reach.have (x := x) ?_ (fun hx hxs => ?_); unfold x; clear x; rotate_left; clear_value x) | clear_value x) | (apply Reach.via (Dev.setAcc_reach ..); decide) | (apply Dev.forAll_reach <;> intros) | (apply Reach.ite <;> intro) | simp -zeta -iota only [↓Reach.mk_eq] | split | (apply ReachMk.intro <;> first | exact .inr (by decide) | rfl | exact .inl rfl | skip))

theorem Dev.ceMva_reach (d : Dev) (a : CeArgs) : Reach (Part.ce) d (Dev.ceMva d a) := by
  unfold Dev.ceMva
  with_reducible repeat' (first | assumption | exact .refl _ | (extract_lets +onlyGivenNames x; first | (refine Reach.have (x := x) ?_ (fun hx hxs => ?_); unfold x; clear x; rotate_left; clear_value x) | clear_value x) | (apply Reach.via (Dev.setAcc_reach ..); decide) | (apply Dev.forAll_reach <;> intros) | simp -zeta -iota only [↓Reach.mk_eq] | split | (apply ReachMk.intro <;> first | exact .inr (by decide) | rfl | exact .inl rfl | skip))

theorem Dev.ceWb_reach (d : Dev) (a : CeArgs) : Reach (Part.regs ||| Part.fl ||| Part.ce) d (Dev.ceWb d a) := by
  unfold Dev.ceWb
  with_reducible repeat' (first | assumption | exact .refl _ | (extract_lets +onlyGivenNames x; first | (refine Reach.have (x := x) ?_ (fun hx hxs => ?_); unfold x; clear x; rotate_left; clear_value x) | clear_value x) | (apply Reach.via (Dev.outSig_reach ..); decide) | (apply Dev.forAll_reach <;> intros) | (apply Reach.ite <;> intro) | simp -zeta -iota only [↓Reach.mk_eq] | split | dsimp only | (apply ReachMk.intro <;> first | exact .inr (by decide) | rfl | exact .inl rfl | skip))

theorem Dev.ceVadd_reach (d : Dev) (a : CeArgs) : Reach (Part.regs ||| Part.fl ||| Part.ce) d (Dev.ceVadd d a) := by
  unfold Dev.ceVadd
  with_reducible repeat' (first | assumption | exact .refl _ | (extract_lets +onlyGivenNames x; first | (refine Reach.have (x := x) ?_ (fun hx hxs => ?_); unfold x; clear x; rotate_left; clear_value x) | clear_value x) | (apply Reach.via (Dev.outSig_reach ..); decide) | (apply Dev.forAll_reach <;> intros) | split)

theorem Dev.ceVsub_reach (d : Dev) (a : CeArgs) : Reach (Part.regs ||| Part.fl ||| Part.ce) d (Dev.ceVsub d a) := by
  unfold Dev.ceVsub
  with_reducible repeat' (first | assumption | exact .refl _ | (extract_lets +onlyGivenNames x; first | (refine Reach.have (x := x) ?_ (fun hx hxs => ?_); unfold x; clear x; rotate_left; clear_value x) | clear_value x) | (apply Reach.via (Dev.outSig_reach ..); decide) | (apply Dev.forAll_reach <;> intros) | (apply Reach.ite <;> intro) | split)

theorem Dev.ceVlim_reach (d : Dev) (a : CeArgs) : Reach (Part.regs ||| Part.fl ||| Part.ce) d (Dev.ceVlim d a) := by
  unfold Dev.ceVlim
  with_reducible repeat' (first | assumption | exact .refl _ | (apply Reach.via (Dev.outSig_reach ..); decide) | (apply Dev.forAll_reach <;> intros) | split)

theorem Dev.ceMov_reach (d : Dev) (a : CeArgs) : Reach (Part.regs ||| Part.fl ||| Part.ce) d (Dev.ceMov d a) := by
  unfold Dev.ceMov
  with_reducible repeat' (first | assumption | exact .refl _ | (apply Reach.via (Dev.outSig_reach ..); decide) | (apply Dev.forAll_reach <;> intros) | split)

theorem Dev.bqSat_reach (d : Dev) (n : Nat) (k : Nat) : Reach (Part.regs) d (Dev.bqSat d n k) := by
  unfold Dev.bqSat
  with_reducible repeat' (first | assumption | exact .refl _ | (apply Reach.wr'; decide) | (apply Reach.via (Dev.bumpBy_reach ..); decide) | (apply Reach.ite <;> intro) | split)

theorem Dev.bqSection_reach (d : Dev) (a : CeArgs) (first i : Nat) (xfer : Bool) : Reach (Part.regs ||| Part.fl ||| Part.ce) d (Dev.bqSection d a first i xfer) := by
  unfold Dev.bqSection
  with_reducible repeat' (first | assumption | exact .refl _ | (extract_lets +onlyGivenNames x; first | (refine Reach.have (x := x) ?_ (fun hx hxs => ?_); unfold x; clear x; rotate_left; clear_value x) | (refine Reach.have (x := x) ?_ (fun hx hxs => ?_); unfold x; clear x; rotate_left; rename Dev => yy) | (refine Reach.have (x := x.1) ?_ (fun hx hxs => ?_); unfold x; clear x; rotate_left; clear_value x) | (refine Reach.have (x := x.2) ?_ (fun hx hxs => ?_); unfold x; clear x; rotate_left; clear_value x) | (refine Reach.have (x := x.2.2) ?_ (fun hx hxs => ?_); unfold x; clear x; rotate_left; clear_value x) | (have hf : Mem := x; clear hf; unfold x; clear_value x) | (have hf : Fuses := x; clear hf; unfold x; clear_value x) | (have hf := fun y => (x y : Dev); clear hf; unfold x; clear_value x) | (have hf := fun y z => (x y z : Dev); clear hf; unfold x; clear_value x) | (have hf := fun y z w => (x y z w : Dev); clear hf; unfold x; clear_value x) | (have hf : Ce := x; clear hf; refine Reach.keep_ce (x := x) ?_ (fun hx => ?_); (· intro hs; unfold x; clear x; (repeat' (first | ((try simp only [Ce.Shaped] at *); simp +zetaDelta (maxDischargeDepth := 9) only [Ce.Shaped, Dev.Shaped.ce_sig, Dev.Shaped.ce_acc, Dev.Shaped.ce_axes, Dev.Shaped.wr, Dev.Shaped.resetDomains, setAt_length, addAt_length, List.length_map, List.length_replicate, List.length_cons, List.length_nil, List.length_zipWith, List.length_range, List.length_append, List.length_drop, List.length_take, Nat.reduceSub, Nat.reduceLeDiff, Nat.min_eq_left, *, and_self, Nat.reduceAdd, Nat.zero_add]; done) | split))); clear_value x) | clear_value x) | (apply Reach.wr'; decide) | (apply Reach.reset'; decide) | (apply Reach.via (Dev.bqSat_reach ..); decide) | (apply Reach.via (Dev.outSig_reach ..); decide) | (apply Reach.ite <;> intro) | simp -zeta -iota only [↓Reach.mk_eq] | split | dsimp only | (apply ReachMk.intro <;> first | exact .inr (by decide) | rfl | exact .inl rfl | (refine .inr ⟨by decide, ?_⟩; (repeat' (first | exact MemStep.refl _ | exact MemStep.clear _ | apply MemStep.writeNat | apply MemStep.write | apply MemStep.drop)); done) | exact .inr ⟨by decide, .seal _ _⟩ | exact .inr ⟨by decide, .cont _⟩ | (refine .inr ⟨by decide, fun hs he => ?_⟩; (repeat' (first | ((try simp only [SiteTime.Shaped] at *); simp +zetaDelta (maxDischargeDepth := 9) only [SiteTime.Shaped, Dev.Shaped.tm_pdelaySeq, Dev.Shaped.wr, Dev.Shaped.resetDomains, setAt_length, addAt_length, List.length_map, List.length_replicate, List.length_cons, List.length_nil, List.length_zipWith, List.length_range, List.length_append, List.length_drop, List.length_take, Nat.reduceSub, Nat.reduceLeDiff, Nat.min_eq_left, *, and_self, Nat.reduceAdd, Nat.zero_add]; done) | split)); done) | (refine .inr ⟨by decide, fun hs he => ?_⟩; (repeat' (first | ((try simp only [Ce.Shaped] at *); simp +zetaDelta (maxDischargeDepth := 9) only [Ce.Shaped, Dev.Shaped.ce_sig, Dev.Shaped.ce_acc, Dev.Shaped.ce_axes, Dev.Shaped.wr, Dev.Shaped.resetDomains, setAt_length, addAt_length, List.length_map, List.length_replicate, List.length_cons, List.length_nil, List.length_zipWith, List.length_range, List.length_append, List.length_drop, List.length_take, Nat.reduceSub, Nat.reduceLeDiff, Nat.min_eq_left, *, and_self, Nat.reduceAdd, Nat.zero_add]; done) | split)); done) | (refine .inr ⟨by decide, fun hs he => ?_⟩; (repeat' (first | ((try simp only [Dgr.Shaped] at *); simp +zetaDelta (maxDischargeDepth := 9) only [Dgr.Shaped, Dev.Shaped.dgr_blk, Dev.Shaped.wr, Dev.Shaped.resetDomains, setAt_length, addAt_length, List.length_map, List.length_replicate, List.length_cons, List.length_nil, List.length_zipWith, List.length_range, List.length_append, List.length_drop, List.length_take, Nat.reduceSub, Nat.reduceLeDiff, Nat.min_eq_left, *, and_self, Nat.reduceAdd, Nat.zero_add]; done) | split)); done) | (refine .inr ⟨by decide, fun hs he => ?_⟩; (repeat' (first | ((try simp only [Pwm.Shaped] at *); simp +zetaDelta (maxDischargeDepth := 9) only [Pwm.Shaped, Dev.Shaped.pwm_inputs, Dev.Shaped.wr, Dev.Shaped.resetDomains, setAt_length, addAt_length, List.length_map, List.length_replicate, List.length_cons, List.length_nil, List.length_zipWith, List.length_range, List.length_append, List.length_drop, List.length_take, Nat.reduceSub, Nat.reduceLeDiff, Nat.min_eq_left, *, and_self, Nat.reduceAdd, Nat.zero_add]; done) | split)); done) | (refine .inr ⟨by decide, fun hs he => ?_⟩; (repeat' (first | (simp +zetaDelta (maxDischargeDepth := 9) only [Dev.Shaped.out, Dev.Shaped.wr, Dev.Shaped.resetDomains, setAt_length, addAt_length, List.length_map, List.length_replicate, List.length_cons, List.length_nil, List.length_zipWith, List.length_range, List.length_append, List.length_drop, List.length_take, Nat.reduceSub, Nat.reduceLeDiff, Nat.min_eq_left, *, and_self, Nat.reduceAdd, Nat.zero_add]; done) | split)); done) | (refine .inr ⟨by decide, fun hs he => ?_⟩; (repeat' (first | (simp +zetaDelta (maxDischargeDepth := 9) only [Dev.Shaped.cbl, Dev.Shaped.wr, Dev.Shaped.resetDomains, setAt_length, addAt_length, List.length_map, List.length_replicate, List.length_cons, List.length_nil, List.length_zipWith, List.length_range, List.length_append, List.length_drop, List.length_take, Nat.reduceSub, Nat.reduceLeDiff, Nat.min_eq_left, *, and_self, Nat.reduceAdd, Nat.zero_add]; done) | split)); done) | (refine .inr ⟨by decide, fun hs he => ?_⟩; (repeat' (first | (simp +zetaDelta (maxDischargeDepth := 9) only [Dev.Shaped.veh, Dev.Shaped.wr, Dev.Shaped.resetDomains, setAt_length, addAt_length, List.length_map, List.length_replicate, List.length_cons, List.length_nil, List.length_zipWith, List.length_range, List.length_append, List.length_drop, List.length_take, Nat.reduceSub, Nat.reduceLeDiff, Nat.min_eq_left, *, and_self, Nat.reduceAdd, Nat.zero_add]; done) | split)); done) | (refine .inr ⟨by decide, fun hs he => ?_⟩; (repeat' (first | ((try simp only [Fba.Shaped] at *); simp +zetaDelta (maxDischargeDepth := 9) only [Fba.Shaped, Dev.Shaped.fba_ctlTodo, Dev.Shaped.fba_trigTodo, Dev.Shaped.fba_ctl, Dev.Shaped.fba_trig, Dev.Shaped.wr, Dev.Shaped.resetDomains, setAt_length, addAt_length, List.length_map, List.length_replicate, List.length_cons, List.length_nil, List.length_zipWith, List.length_range, List.length_append, List.length_drop, List.length_take, Nat.reduceSub, Nat.reduceLeDiff, Nat.min_eq_left, *, and_self, Nat.reduceAdd, Nat.zero_add]; done) | split)); done) | (refine .inr ⟨by decide, fun hs he => ?_⟩; (repeat' (first | (simp +zetaDelta (maxDischargeDepth := 9) only [Dev.Shaped.imd, Dev.Shaped.wr, Dev.Shaped.resetDomains, setAt_length, addAt_length, List.length_map, List.length_replicate, List.length_cons, List.length_nil, List.length_zipWith, List.length_range, List.length_append, List.length_drop, List.length_take, Nat.reduceSub, Nat.reduceLeDiff, Nat.min_eq_left, *, and_self, Nat.reduceAdd, Nat.zero_add]; done) | split)); done) | (refine .inr ⟨by decide, fun hs he => ?_⟩; (repeat' (first | ((try simp only [Net.Shaped] at *); simp +zetaDelta (maxDischargeDepth := 9) only [Net.Shaped, Dev.Shaped.net_ports, Dev.Shaped.net_ptp, Dev.Shaped.net_cells, Dev.Shaped.wr, Dev.Shaped.resetDomains, setAt_length, addAt_length, List.length_map, List.length_replicate, List.length_cons, List.length_nil, List.length_zipWith, List.length_range, List.length_append, List.length_drop, List.length_take, Nat.reduceSub, Nat.reduceLeDiff, Nat.min_eq_left, *, and_self, Nat.reduceAdd, Nat.zero_add]; done) | split)); done) | (refine .inr ⟨by decide, fun hs he => ?_⟩; (repeat' (first | ((try simp only [Svg.Shaped] at *); simp +zetaDelta (maxDischargeDepth := 9) only [Svg.Shaped, Dev.Shaped.svg_subs, Dev.Shaped.svg_gs, Dev.Shaped.svg_keys, Dev.Shaped.svg_pubs, Dev.Shaped.wr, Dev.Shaped.resetDomains, setAt_length, addAt_length, List.length_map, List.length_replicate, List.length_cons, List.length_nil, List.length_zipWith, List.length_range, List.length_append, List.length_drop, List.length_take, Nat.reduceSub, Nat.reduceLeDiff, Nat.min_eq_left, *, and_self, Nat.reduceAdd, Nat.zero_add]; done) | split)); done) | (refine .inr ⟨by decide, fun hs he => ?_⟩; (repeat' (first | ((try simp only [Metr.Shaped] at *); simp +zetaDelta (maxDischargeDepth := 9) only [Metr.Shaped, Dev.Shaped.met_retAt, Dev.Shaped.met_tp, Dev.Shaped.wr, Dev.Shaped.resetDomains, setAt_length, addAt_length, List.length_map, List.length_replicate, List.length_cons, List.length_nil, List.length_zipWith, List.length_range, List.length_append, List.length_drop, List.length_take, Nat.reduceSub, Nat.reduceLeDiff, Nat.min_eq_left, *, and_self, Nat.reduceAdd, Nat.zero_add]; done) | split)); done) | (refine .inr ⟨by decide, fun hs he => ?_⟩; (repeat' (first | ((try simp only [Bil.Shaped] at *); simp +zetaDelta (maxDischargeDepth := 9) only [Bil.Shaped, Dev.Shaped.bil_sess, Dev.Shaped.wr, Dev.Shaped.resetDomains, setAt_length, addAt_length, List.length_map, List.length_replicate, List.length_cons, List.length_nil, List.length_zipWith, List.length_range, List.length_append, List.length_drop, List.length_take, Nat.reduceSub, Nat.reduceLeDiff, Nat.min_eq_left, *, and_self, Nat.reduceAdd, Nat.zero_add]; done) | split)); done) | (refine .inr ⟨by decide, fun hs he => ?_⟩; (repeat' (first | ((try simp only [BilStore.Shaped] at *); simp +zetaDelta (maxDischargeDepth := 9) only [BilStore.Shaped, Dev.Shaped.bst_slots, Dev.Shaped.bst_copies, Dev.Shaped.wr, Dev.Shaped.resetDomains, setAt_length, addAt_length, List.length_map, List.length_replicate, List.length_cons, List.length_nil, List.length_zipWith, List.length_range, List.length_append, List.length_drop, List.length_take, Nat.reduceSub, Nat.reduceLeDiff, Nat.min_eq_left, *, and_self, Nat.reduceAdd, Nat.zero_add]; done) | split)); done) | (refine .inr ⟨by decide, fun hs he => ?_⟩; (repeat' (first | ((try simp only [Stk.Shaped] at *); simp +zetaDelta (maxDischargeDepth := 9) only [Stk.Shaped, Dev.Shaped.stk_found, Dev.Shaped.stk_enumDone, Dev.Shaped.stk_sats, Dev.Shaped.stk_out, Dev.Shaped.stk_lastFrame, Dev.Shaped.wr, Dev.Shaped.resetDomains, setAt_length, addAt_length, List.length_map, List.length_replicate, List.length_cons, List.length_nil, List.length_zipWith, List.length_range, List.length_append, List.length_drop, List.length_take, Nat.reduceSub, Nat.reduceLeDiff, Nat.min_eq_left, *, and_self, Nat.reduceAdd, Nat.zero_add]; done) | split)); done) | (refine .inr ⟨by decide, fun hs he => ?_⟩; (repeat' (first | (simp +zetaDelta (maxDischargeDepth := 9) only [Dev.Shaped.can, Dev.Shaped.wr, Dev.Shaped.resetDomains, setAt_length, addAt_length, List.length_map, List.length_replicate, List.length_cons, List.length_nil, List.length_zipWith, List.length_range, List.length_append, List.length_drop, List.length_take, Nat.reduceSub, Nat.reduceLeDiff, Nat.min_eq_left, *, and_self, Nat.reduceAdd, Nat.zero_add]; done) | split)); done) | (refine .inr ⟨by decide, fun hs he => ?_⟩; (repeat' (first | ((try simp only [HostPlat.Shaped] at *); simp +zetaDelta (maxDischargeDepth := 9) only [HostPlat.Shaped, Dev.Shaped.hp_slots, Dev.Shaped.hp_rx, Dev.Shaped.wr, Dev.Shaped.resetDomains, setAt_length, addAt_length, List.length_map, List.length_replicate, List.length_cons, List.length_nil, List.length_zipWith, List.length_range, List.length_append, List.length_drop, List.length_take, Nat.reduceSub, Nat.reduceLeDiff, Nat.min_eq_left, *, and_self, Nat.reduceAdd, Nat.zero_add]; done) | split)); done) | (refine .inr ⟨by decide, fun hs he => ?_⟩; (repeat' (first | ((try simp only [Therm.Shaped] at *); simp +zetaDelta (maxDischargeDepth := 9) only [Therm.Shaped, Dev.Shaped.th_nor, Dev.Shaped.wr, Dev.Shaped.resetDomains, setAt_length, addAt_length, List.length_map, List.length_replicate, List.length_cons, List.length_nil, List.length_zipWith, List.length_range, List.length_append, List.length_drop, List.length_take, Nat.reduceSub, Nat.reduceLeDiff, Nat.min_eq_left, *, and_self, Nat.reduceAdd, Nat.zero_add]; done) | split)); done) | skip) | (apply Reach.ite <;> intro))

theorem Dev.ceBq_reach (d : Dev) (a : CeArgs) : Reach (Part.regs ||| Part.fl ||| Part.ce) d (Dev.ceBq d a) := by
  unfold Dev.ceBq
  with_reducible repeat' (first | assumption | exact .refl _ | (extract_lets +onlyGivenNames x; first | (refine Reach.have (x := x) ?_ (fun hx hxs => ?_); unfold x; clear x; rotate_left; clear_value x) | clear_value x) | (apply Reach.via (Dev.bqSection_reach ..); decide) | (apply Dev.forAll_reach <;> intros) | simp -zeta -iota only [↓Reach.mk_eq] | split | dsimp only | (apply ReachMk.intro <;> first | exact .inr (by decide) | rfl | exact .inl rfl | skip))

theorem Dev.ceLut_reach (d : Dev) (a : CeArgs) : Reach (Part.regs ||| Part.fl ||| Part.ce) d (Dev.ceLut d a) := by
  unfold Dev.ceLut
  with_reducible repeat' (first | assumption | exact .refl _ | (extract_lets +onlyGivenNames x; first | (refine Reach.have (x := x) ?_ (fun hx hxs => ?_); unfold x; clear x; rotate_left; clear_value x) | clear_value x) | (apply Reach.via (Dev.outSig_reach ..); decide) | (apply Dev.forAll_reach <;> intros) | simp -zeta -iota only [↓Reach.mk_eq] | split | (apply ReachMk.intro <;> first | exact .inr (by decide) | rfl | exact .inl rfl | skip))

theorem Dev.setGen_reach (d : Dev) (g : Nat) (r : GenRt) : Reach (Part.ce) d (Dev.setGen d g r) := by
  unfold Dev.setGen
  with_reducible repeat' (first | assumption | exact .refl _ | (extract_lets +onlyGivenNames x; first | (have hf : Ce := x; clear hf; refine Reach.keep_ce (x := x) ?_ (fun hx => ?_); (· intro hs; unfold x; clear x; (repeat' (first | ((try simp only [Ce.Shaped] at *); simp +zetaDelta (maxDischargeDepth := 9) only [Ce.Shaped, Dev.Shaped.ce_sig, Dev.Shaped.ce_acc, Dev.Shaped.ce_axes, Dev.Shaped.wr, Dev.Shaped.resetDomains, setAt_length, addAt_length, List.length_map, List.length_replicate, List.length_cons, List.length_nil, List.length_zipWith, List.length_range, List.length_append, List.length_drop, List.length_take, Nat.reduceSub, Nat.reduceLeDiff, Nat.min_eq_left, *, and_self, Nat.reduceAdd, Nat.zero_add]; done) | split))); clear_value x) | clear_value x) | simp -zeta -iota only [↓Reach.mk_eq] | (apply ReachMk.intro <;> first | exact .inr (by decide) | rfl | exact .inl rfl | (refine .inr ⟨by decide, fun hs he => ?_⟩; (repeat' (first | ((try simp only [Ce.Shaped] at *); simp +zetaDelta (maxDischargeDepth := 9) only [Ce.Shaped, Dev.Shaped.ce_sig, Dev.Shaped.ce_acc, Dev.Shaped.ce_axes, Dev.Shaped.wr, Dev.Shaped.resetDomains, setAt_length, addAt_length, List.length_map, List.length_replicate, List.length_cons, List.length_nil, List.length_zipWith, List.length_range, List.length_append, List.length_drop, List.length_take, Nat.reduceSub, Nat.reduceLeDiff, Nat.min_eq_left, *, and_self, Nat.reduceAdd, Nat.zero_add]; done) | split)); done) | skip))

theorem Dev.slewOne_reach (d : Dev) (g : Nat) (src : Option Nat) : Reach (Part.regs ||| Part.ce) d (Dev.slewOne d g src) := by
  unfold Dev.slewOne
  with_reducible repeat' (first | assumption | exact .refl _ | (extract_lets +onlyGivenNames x; first | (refine Reach.have (x := x) ?_ (fun hx hxs => ?_); unfold x; clear x; rotate_left; clear_value x) | (refine Reach.have (x := x.1) ?_ (fun hx hxs => ?_); unfold x; clear x; rotate_left; clear_value x) | (refine Reach.have (x := x.2) ?_ (fun hx hxs => ?_); unfold x; clear x; rotate_left; clear_value x) | clear_value x) | (apply Reach.via (Dev.putSig_reach ..); decide) | (apply Reach.via (Dev.setGen_reach ..); decide) | (apply Reach.via (Dev.wrS_reach ..); decide) | (apply Reach.ite <;> intro) | simp -zeta -iota only [↓Reach.mk_eq] | split | (apply ReachMk.intro <;> first | exact .inr (by decide) | rfl | exact .inl rfl | skip))

theorem Dev.ceSlew_reach (d : Dev) (a : CeArgs) : Reach (Part.regs ||| Part.ce) d (Dev.ceSlew d a) := by
  unfold Dev.ceSlew
  with_reducible repeat' (first | assumption | exact .refl _ | (apply Reach.via (Dev.slewOne_reach ..); decide) | (apply Dev.forAll_reach <;> intros) | (apply Reach.ite <;> intro) | split | dsimp only)

theorem Dev.supSync_reach (d : Dev) : Reach (Part.regs ||| Part.st) d (Dev.supSync d) := by
  unfold Dev.supSync
  with_reducible repeat' (first | assumption | exact .refl _ | (extract_lets +onlyGivenNames x; first | (refine Reach.have (x := x) ?_ (fun hx hxs => ?_); unfold x; clear x; rotate_left; clear_value x) | clear_value x) | (apply Reach.wr'; decide) | (apply Dev.forAll_reach <;> intros) | (apply Reach.ite <;> intro) | split | dsimp only)

theorem Dev.supRelease_reach (d : Dev) (kind unit : Nat) : Reach (Part.regs) d (Dev.supRelease d kind unit) := by
  unfold Dev.supRelease
  with_reducible repeat' (first | assumption | exact .refl _ | (apply Reach.wr'; decide) | (apply Dev.forAll_reach <;> intros) | (apply Reach.ite <;> intro) | split)

theorem Dev.setAxis_reach (d : Dev) (n : Nat) (x : AxisRt) : Reach (Part.ce) d (Dev.setAxis d n x) := by
  unfold Dev.setAxis
  with_reducible repeat' (first | assumption | exact .refl _ | (extract_lets +onlyGivenNames x; first | (have hf : Ce := x; clear hf; refine Reach.keep_ce (x := x) ?_ (fun hx => ?_); (· intro hs; unfold x; clear x; (repeat' (first | ((try simp only [Ce.Shaped] at *); simp +zetaDelta (maxDischargeDepth := 9) only [Ce.Shaped, Dev.Shaped.ce_sig, Dev.Shaped.ce_acc, Dev.Shaped.ce_axes, Dev.Shaped.wr, Dev.Shaped.resetDomains, setAt_length, addAt_length, List.length_map, List.length_replicate, List.length_cons, List.length_nil, List.length_zipWith, List.length_range, List.length_append, List.length_drop, List.length_take, Nat.reduceSub, Nat.reduceLeDiff, Nat.min_eq_left, *, and_self, Nat.reduceAdd, Nat.zero_add]; done) | split))); clear_value x) | clear_value x) | simp -zeta -iota only [↓Reach.mk_eq] | (apply ReachMk.intro <;> first | exact .inr (by decide) | rfl | exact .inl rfl | (refine .inr ⟨by decide, fun hs he => ?_⟩; (repeat' (first | ((try simp only [Ce.Shaped] at *); simp +zetaDelta (maxDischargeDepth := 9) only [Ce.Shaped, Dev.Shaped.ce_sig, Dev.Shaped.ce_acc, Dev.Shaped.ce_axes, Dev.Shaped.wr, Dev.Shaped.resetDomains, setAt_length, addAt_length, List.length_map, List.length_replicate, List.length_cons, List.length_nil, List.length_zipWith, List.length_range, List.length_append, List.length_drop, List.length_take, Nat.reduceSub, Nat.reduceLeDiff, Nat.min_eq_left, *, and_self, Nat.reduceAdd, Nat.zero_add]; done) | split)); done) | skip))

theorem Dev.setAxisState_reach (d : Dev) (n v : Nat) : Reach (Part.regs ||| Part.st) d (Dev.setAxisState d n v) := by
  unfold Dev.setAxisState
  with_reducible repeat' (first | assumption | exact .refl _ | (apply Reach.wr'; decide) | (apply Reach.via (Dev.supSync_reach ..); decide))

theorem Dev.axisFault_reach (d : Dev) (n cause : Nat) : Reach (Part.regs ||| Part.fl ||| Part.st ||| Part.ce) d (Dev.axisFault d n cause) := by
  unfold Dev.axisFault
  with_reducible repeat' (first | assumption | exact .refl _ | (extract_lets +onlyGivenNames x; first | (refine Reach.have (x := x) ?_ (fun hx hxs => ?_); unfold x; clear x; rotate_left; clear_value x) | clear_value x) | (apply Reach.wr'; decide) | (apply Reach.via (Dev.raise_reach ..); decide) | (apply Reach.via (Dev.setAxis_reach ..); decide) | (apply Reach.via (Dev.setAxisState_reach ..); decide) | (apply Reach.ite <;> intro) | simp -zeta -iota only [↓Reach.mk_eq] | split | dsimp only | (apply ReachMk.intro <;> first | exact .inr (by decide) | rfl | exact .inl rfl | skip))

theorem Dev.supQuench_reach (d : Dev) (i : Nat) : Reach (Part.regs ||| Part.fl ||| Part.st ||| Part.ce ||| Part.out) d (Dev.supQuench d i) := by
  unfold Dev.supQuench
  with_reducible repeat' (first | assumption | exact .refl _ | (extract_lets +onlyGivenNames x; first | (refine Reach.have (x := x) ?_ (fun hx hxs => ?_); unfold x; clear x; rotate_left; clear_value x) | clear_value x) | (apply Reach.via (Dev.axisFault_reach ..); decide) | (apply Reach.via (Dev.outQuench_reach ..); decide) | (apply Reach.ite <;> intro) | split | dsimp only)

theorem Dev.ferrOne_reach (d : Dev) (i : Nat) (ref fb : Int) : Reach (Part.regs ||| Part.hmem ||| Part.inj ||| Part.jr ||| Part.rings ||| Part.fl ||| Part.st ||| Part.ce ||| Part.out ||| Part.cap) d (Dev.ferrOne d i ref fb) := by
  unfold Dev.ferrOne
  with_reducible repeat' (first | assumption | exact .refl _ | (extract_lets +onlyGivenNames x; first | (refine Reach.have (x := x) ?_ (fun hx hxs => ?_); unfold x; clear x; rotate_left; clear_value x) | clear_value x) | (apply Reach.wr'; decide) | (apply Reach.via (Dev.capCause_reach ..); decide) | (apply Reach.via (Dev.injUse_reach ..); decide) | (apply Reach.via (Dev.raise_reach ..); decide) | (apply Reach.via (Dev.supQuench_reach ..); decide) | (apply Reach.via (Dev.supSync_reach ..); decide) | (apply Reach.ite <;> intro) | split | dsimp only)

theorem Dev.ceFerr_reach (d : Dev) (a : CeArgs) : Reach (Part.regs ||| Part.hmem ||| Part.inj ||| Part.jr ||| Part.rings ||| Part.fl ||| Part.st ||| Part.ce ||| Part.out ||| Part.cap) d (Dev.ceFerr d a) := by
  unfold Dev.ceFerr
  with_reducible repeat' (first | assumption | exact .refl _ | (apply Reach.via (Dev.ferrOne_reach ..); decide) | (apply Dev.forAll_reach <;> intros) | split)

theorem Dev.setDet_reach (d : Dev) (n : Nat) (x : DetRt) : Reach (Part.dgr) d (Dev.setDet d n x) := by
  unfold Dev.setDet
  with_reducible repeat' (first | assumption | exact .refl _ | (extract_lets +onlyGivenNames x; first | (have hf : Dgr := x; clear hf; refine Reach.keep_dgr (x := x) ?_ (fun hx => ?_); (· intro hs; unfold x; clear x; (repeat' (first | ((try simp only [Dgr.Shaped] at *); simp +zetaDelta (maxDischargeDepth := 9) only [Dgr.Shaped, Dev.Shaped.dgr_blk, Dev.Shaped.wr, Dev.Shaped.resetDomains, setAt_length, addAt_length, List.length_map, List.length_replicate, List.length_cons, List.length_nil, List.length_zipWith, List.length_range, List.length_append, List.length_drop, List.length_take, Nat.reduceSub, Nat.reduceLeDiff, Nat.min_eq_left, *, and_self, Nat.reduceAdd, Nat.zero_add]; done) | split))); clear_value x) | clear_value x) | simp -zeta -iota only [↓Reach.mk_eq] | (apply ReachMk.intro <;> first | exact .inr (by decide) | rfl | exact .inl rfl | (refine .inr ⟨by decide, fun hs he => ?_⟩; (repeat' (first | ((try simp only [Dgr.Shaped] at *); simp +zetaDelta (maxDischargeDepth := 9) only [Dgr.Shaped, Dev.Shaped.dgr_blk, Dev.Shaped.wr, Dev.Shaped.resetDomains, setAt_length, addAt_length, List.length_map, List.length_replicate, List.length_cons, List.length_nil, List.length_zipWith, List.length_range, List.length_append, List.length_drop, List.length_take, Nat.reduceSub, Nat.reduceLeDiff, Nat.min_eq_left, *, and_self, Nat.reduceAdd, Nat.zero_add]; done) | split)); done) | skip))

theorem Dev.detShow_reach (d : Dev) (n : Nat) : Reach (Part.regs ||| Part.st) d (Dev.detShow d n) := by
  unfold Dev.detShow
  with_reducible repeat' (first | assumption | exact .refl _ | (extract_lets +onlyGivenNames x; first | (refine Reach.have (x := x) ?_ (fun hx hxs => ?_); unfold x; clear x; rotate_left; clear_value x) | clear_value x) | (apply Reach.wr'; decide) | (apply Reach.ite <;> intro) | split | dsimp only)

theorem Dev.residOne_reach (d : Dev) (n : Nat) (x : Int) : Reach (Part.regs ||| Part.hmem ||| Part.inj ||| Part.jr ||| Part.rings ||| Part.fl ||| Part.st ||| Part.dgr) d (Dev.residOne d n x) := by
  unfold Dev.residOne
  with_reducible repeat' (first | assumption | exact .refl _ | (extract_lets +onlyGivenNames x; first | (refine Reach.have (x := x) ?_ (fun hx hxs => ?_); unfold x; clear x; rotate_left; clear_value x) | (refine Reach.have (x := x.1) ?_ (fun hx hxs => ?_); unfold x; clear x; rotate_left; clear_value x) | (refine Reach.have (x := x.2) ?_ (fun hx hxs => ?_); unfold x; clear x; rotate_left; clear_value x) | clear_value x) | (apply Reach.wr'; decide) | (apply Reach.via (Dev.detShow_reach ..); decide) | (apply Reach.via (Dev.injUse_reach ..); decide) | (apply Reach.via (Dev.setDet_reach ..); decide) | (apply Reach.ite <;> intro) | simp -zeta -iota only [↓Reach.mk_eq] | split | dsimp only | (apply ReachMk.intro <;> first | exact .inr (by decide) | rfl | exact .inl rfl | skip))

theorem Dev.ceResid_reach (d : Dev) (a : CeArgs) : Reach (Part.regs ||| Part.hmem ||| Part.inj ||| Part.jr ||| Part.rings ||| Part.fl ||| Part.st ||| Part.dgr) d (Dev.ceResid d a) := by
  unfold Dev.ceResid
  with_reducible repeat' (first | assumption | exact .refl _ | (apply Reach.via (Dev.residOne_reach ..); decide) | (apply Dev.forAll_reach <;> intros) | split)

theorem Dev.onAct_reach (d : Dev) (f : StreamData → StreamData) : Reach (Part.st) d (Dev.onAct d f) := by
  unfold Dev.onAct
  with_reducible repeat' (first | assumption | exact .refl _ | (extract_lets +onlyGivenNames x; clear_value x) | simp -zeta -iota only [↓Reach.mk_eq] | (apply ReachMk.intro <;> first | exact .inr (by decide) | rfl | exact .inl rfl | skip))

theorem Dev.spoilWord_reach (d : Dev) (w : CeWord) : Reach (Part.free ||| Part.st ||| Part.ce) d (Dev.spoilWord d w) := by
  unfold Dev.spoilWord
  with_reducible repeat' (first | assumption | exact .refl _ | (extract_lets +onlyGivenNames x; first | (have hf : Ce := x; clear hf; refine Reach.keep_ce (x := x) ?_ (fun hx => ?_); (· intro hs; unfold x; clear x; (repeat' (first | ((repeat (rename _ = (_, _) => hz; have hz2 := congrArg Prod.snd hz; have hz1 := congrArg Prod.fst hz; clear hz; dsimp only at hz1 hz2; subst hz1 hz2)); (try simp only [Ce.Shaped] at *); simp +zetaDelta (maxDischargeDepth := 9) only [Reach.shaped (Dev.drawFree_reach ..), Ce.Shaped, Dev.Shaped.ce_sig, Dev.Shaped.ce_acc, Dev.Shaped.ce_axes, Dev.Shaped.wr, Dev.Shaped.resetDomains, setAt_length, addAt_length, List.length_map, List.length_replicate, List.length_cons, List.length_nil, List.length_zipWith, List.length_range, List.length_append, List.length_drop, List.length_take, Nat.reduceSub, Nat.reduceLeDiff, Nat.min_eq_left, *, and_self, Nat.reduceAdd, Nat.zero_add]; done) | split))); clear_value x) | clear_value x) | (apply Reach.via (Dev.drawFree_reach ..); decide) | (apply Dev.drawFree_via'; decide; assumption) | (apply Reach.via (Dev.onAct_reach ..); decide) | simp -zeta -iota only [↓Reach.mk_eq] | split | (apply ReachMk.intro <;> first | exact .inr (by decide) | rfl | exact .inl rfl | (refine .inr ⟨by decide, fun hs he => ?_⟩; (repeat' (first | ((repeat (rename _ = (_, _) => hz; have hz2 := congrArg Prod.snd hz; have hz1 := congrArg Prod.fst hz; clear hz; dsimp only at hz1 hz2; subst hz1 hz2)); (try simp only [Ce.Shaped] at *); simp +zetaDelta (maxDischargeDepth := 9) only [Reach.shaped (Dev.drawFree_reach ..), Ce.Shaped, Dev.Shaped.ce_sig, Dev.Shaped.ce_acc, Dev.Shaped.ce_axes, Dev.Shaped.wr, Dev.Shaped.resetDomains, setAt_length, addAt_length, List.length_map, List.length_replicate, List.length_cons, List.length_nil, List.length_zipWith, List.length_range, List.length_append, List.length_drop, List.length_take, Nat.reduceSub, Nat.reduceLeDiff, Nat.min_eq_left, *, and_self, Nat.reduceAdd, Nat.zero_add]; done) | split)); done) | skip))

theorem Dev.eccAddr_reach (d : Dev) (sigMem : Bool) (addr : Nat) : Reach (Part.regs) d (Dev.eccAddr d sigMem addr) := by
  unfold Dev.eccAddr
  with_reducible repeat' (first | assumption | exact .refl _ | (apply Reach.wr'; decide) | (apply Reach.via (Dev.wrB_reach ..); decide))

theorem Dev.eccCorr_reach (d : Dev) (sigMem : Bool) (addr : Nat) : Reach (Part.regs ||| Part.fl) d (Dev.eccCorr d sigMem addr) := by
  unfold Dev.eccCorr
  with_reducible repeat' (first | assumption | exact .refl _ | (apply Reach.via (Dev.bump_reach ..); decide) | (apply Reach.via (Dev.eccAddr_reach ..); decide) | (apply Reach.via (Dev.raise_reach ..); decide))

theorem Dev.ceEcc_reach (d : Dev) (h : EccHit) : Reach (Part.regs ||| Part.free ||| Part.pw ||| Part.fl ||| Part.st ||| Part.ce ||| Part.pwm ||| Part.cap ||| Part.ash) d (Dev.ceEcc d h) := by
  unfold Dev.ceEcc
  with_reducible repeat' (first | assumption | exact .refl _ | (extract_lets +onlyGivenNames x; first | (refine Reach.have (x := x) ?_ (fun hx hxs => ?_); unfold x; clear x; rotate_left; clear_value x) | (have hf : Ce := x; clear hf; refine Reach.keep_ce (x := x) ?_ (fun hx => ?_); (· intro hs; unfold x; clear x; (repeat' (first | ((try simp only [Ce.Shaped] at *); simp +zetaDelta (maxDischargeDepth := 9) only [Ce.Shaped, Dev.Shaped.ce_sig, Dev.Shaped.ce_acc, Dev.Shaped.ce_axes, Dev.Shaped.wr, Dev.Shaped.resetDomains, setAt_length, addAt_length, List.length_map, List.length_replicate, List.length_cons, List.length_nil, List.length_zipWith, List.length_range, List.length_append, List.length_drop, List.length_take, Nat.reduceSub, Nat.reduceLeDiff, Nat.min_eq_left, *, and_self, Nat.reduceAdd, Nat.zero_add]; done) | split))); clear_value x) | clear_value x) | (apply Reach.wr'; decide) | (apply Reach.via (Dev.bump_reach ..); decide) | (apply Reach.via (Dev.deviceTrip_reach ..); decide) | (apply Reach.via (Dev.eccAddr_reach ..); decide) | (apply Reach.via (Dev.eccCorr_reach ..); decide) | (apply Reach.via (Dev.fatalLatch_reach ..); decide) | (apply Reach.via (Dev.raise_reach ..); decide) | (apply Reach.via (Dev.spoilWord_reach ..); decide) | (apply Reach.ite <;> intro) | simp -zeta -iota only [↓Reach.mk_eq] | split | dsimp only | (apply ReachMk.intro <;> first | exact .inr (by decide) | rfl | exact .inl rfl | (refine .inr ⟨by decide, fun hs he => ?_⟩; (repeat' (first | ((try simp only [Ce.Shaped] at *); simp +zetaDelta (maxDischargeDepth := 9) only [Ce.Shaped, Dev.Shaped.ce_sig, Dev.Shaped.ce_acc, Dev.Shaped.ce_axes, Dev.Shaped.wr, Dev.Shaped.resetDomains, setAt_length, addAt_length, List.length_map, List.length_replicate, List.length_cons, List.length_nil, List.length_zipWith, List.length_range, List.length_append, List.length_drop, List.length_take, Nat.reduceSub, Nat.reduceLeDiff, Nat.min_eq_left, *, and_self, Nat.reduceAdd, Nat.zero_add]; done) | split)); done) | skip))

theorem Dev.ceReread_reach (d : Dev) (o : CeOp) : Reach (Part.regs ||| Part.free ||| Part.st ||| Part.ce) d (Dev.ceReread d o) := by
  unfold Dev.ceReread
  with_reducible repeat' (first | assumption | exact .refl _ | (apply Reach.via (Dev.bump_reach ..); decide) | (apply Reach.via (Dev.spoilWord_reach ..); decide) | (apply Dev.forAll_reach <;> intros) | split)

theorem Dev.ceEffect_reach (d : Dev) (o : CeOp) : Reach (Part.regs ||| Part.hmem ||| Part.inj ||| Part.jr ||| Part.rings ||| Part.fl ||| Part.st ||| Part.ce ||| Part.dgr ||| Part.out ||| Part.cap) d (Dev.ceEffect d o) := by
  unfold Dev.ceEffect
  with_reducible repeat' (first | assumption | exact .refl _ | (extract_lets +onlyGivenNames x; clear_value x) | (apply Reach.via (Dev.ceBq_reach ..); decide) | (apply Reach.via (Dev.ceFerr_reach ..); decide) | (apply Reach.via (Dev.ceLut_reach ..); decide) | (apply Reach.via (Dev.ceMov_reach ..); decide) | (apply Reach.via (Dev.ceMva_reach ..); decide) | (apply Reach.via (Dev.ceMvm_reach ..); decide) | (apply Reach.via (Dev.ceResid_reach ..); decide) | (apply Reach.via (Dev.ceSlew_reach ..); decide) | (apply Reach.via (Dev.ceVadd_reach ..); decide) | (apply Reach.via (Dev.ceVlim_reach ..); decide) | (apply Reach.via (Dev.ceVsub_reach ..); decide) | (apply Reach.via (Dev.ceWb_reach ..); decide) | simp -zeta -iota only [↓Reach.mk_eq] | split | dsimp only | (apply ReachMk.intro <;> first | exact .inr (by decide) | rfl | exact .inl rfl | skip))

theorem Dev.ceFetchWords_reach (d : Dev) (o : CeOp) (ecc : Option EccHit) : Reach (Part.regs ||| Part.hmem ||| Part.free ||| Part.inj ||| Part.jr ||| Part.rings ||| Part.pw ||| Part.fl ||| Part.st ||| Part.ce ||| Part.pwm ||| Part.cap ||| Part.ash) d (Dev.ceFetchWords d o ecc) := by
  unfold Dev.ceFetchWords
  with_reducible repeat' (first | assumption | exact .refl _ | (extract_lets +onlyGivenNames x; first | (refine Reach.have (x := x) ?_ (fun hx hxs => ?_); unfold x; clear x; rotate_left; clear_value x) | clear_value x) | (apply Reach.via (Dev.ceEcc_reach ..); decide) | (apply Reach.via (Dev.ceReread_reach ..); decide) | (apply Reach.via (Dev.injUse_reach ..); decide) | (apply Reach.ite <;> intro) | simp -zeta -iota only [↓Reach.mk_eq] | split | (apply ReachMk.intro <;> first | exact .inr (by decide) | rfl | exact .inl rfl | skip))

theorem Dev.ceStep_reach (d : Dev) (op : Nat) (a : CeArgs) (ecc : Option EccHit) : Reach (Part.regs ||| Part.hmem ||| Part.free ||| Part.inj ||| Part.jr ||| Part.rings ||| Part.pw ||| Part.fl ||| Part.st ||| Part.ce ||| Part.dgr ||| Part.pwm ||| Part.out ||| Part.cap ||| Part.ash) d (Dev.ceStep d op a ecc) := by
  unfold Dev.ceStep
  with_reducible repeat' (first | assumption | exact .refl _ | (extract_lets +onlyGivenNames x; first | (refine Reach.have (x := x) ?_ (fun hx hxs => ?_); unfold x; clear x; rotate_left; clear_value x) | (have hf : Ce := x; clear hf; refine Reach.keep_ce (x := x) ?_ (fun hx => ?_); (· intro hs; unfold x; clear x; (repeat' (first | ((try simp only [Ce.Shaped] at *); simp +zetaDelta (maxDischargeDepth := 9) only [Ce.Shaped, Dev.Shaped.ce_sig, Dev.Shaped.ce_acc, Dev.Shaped.ce_axes, Dev.Shaped.wr, Dev.Shaped.resetDomains, setAt_length, addAt_length, List.length_map, List.length_replicate, List.length_cons, List.length_nil, List.length_zipWith, List.length_range, List.length_append, List.length_drop, List.length_take, Nat.reduceSub, Nat.reduceLeDiff, Nat.min_eq_left, *, and_self, Nat.reduceAdd, Nat.zero_add]; done) | split))); clear_value x) | clear_value x) | (apply Reach.via (Dev.ceEffect_reach ..); decide) | (apply Reach.via (Dev.ceFetchWords_reach ..); decide) | (apply Reach.ite <;> intro) | simp -zeta -iota only [↓Reach.mk_eq] | split | dsimp only | (apply ReachMk.intro <;> first | exact .inr (by decide) | rfl | exact .inl rfl | (refine .inr ⟨by decide, fun hs he => ?_⟩; (repeat' (first | ((try simp only [Ce.Shaped] at *); simp +zetaDelta (maxDischargeDepth := 9) only [Ce.Shaped, Dev.Shaped.ce_sig, Dev.Shaped.ce_acc, Dev.Shaped.ce_axes, Dev.Shaped.wr, Dev.Shaped.resetDomains, setAt_length, addAt_length, List.length_map, List.length_replicate, List.length_cons, List.length_nil, List.length_zipWith, List.length_range, List.length_append, List.length_drop, List.length_take, Nat.reduceSub, Nat.reduceLeDiff, Nat.min_eq_left, *, and_self, Nat.reduceAdd, Nat.zero_add]; done) | split)); done) | skip))

theorem Dev.ceRunRest_reach (d : Dev) : Reach (Part.regs ||| Part.hmem ||| Part.free ||| Part.inj ||| Part.jr ||| Part.rings ||| Part.pw ||| Part.fl ||| Part.st ||| Part.ce ||| Part.dgr ||| Part.pwm ||| Part.out ||| Part.cap ||| Part.ash) d (Dev.ceRunRest d) := by
  unfold Dev.ceRunRest
  with_reducible repeat' (first | assumption | exact .refl _ | (extract_lets +onlyGivenNames x; first | (refine Reach.have (x := x) ?_ (fun hx hxs => ?_); unfold x; clear x; rotate_left; clear_value x) | (have hf : Ce := x; clear hf; refine Reach.keep_ce (x := x) ?_ (fun hx => ?_); (· intro hs; unfold x; clear x; (repeat' (first | ((try simp only [Ce.Shaped] at *); simp +zetaDelta (maxDischargeDepth := 9) only [Ce.Shaped, Dev.Shaped.ce_sig, Dev.Shaped.ce_acc, Dev.Shaped.ce_axes, Dev.Shaped.wr, Dev.Shaped.resetDomains, setAt_length, addAt_length, List.length_map, List.length_replicate, List.length_cons, List.length_nil, List.length_zipWith, List.length_range, List.length_append, List.length_drop, List.length_take, Nat.reduceSub, Nat.reduceLeDiff, Nat.min_eq_left, *, and_self, Nat.reduceAdd, Nat.zero_add]; done) | split))); clear_value x) | clear_value x) | (apply Reach.via (Dev.ceEffect_reach ..); decide) | (apply Reach.via (Dev.ceFetchWords_reach ..); decide) | (apply Dev.forAll_reach <;> intros) | (apply Dev.when_reach <;> intros) | simp -zeta -iota only [↓Reach.mk_eq] | split | (apply ReachMk.intro <;> first | exact .inr (by decide) | rfl | exact .inl rfl | (refine .inr ⟨by decide, fun hs he => ?_⟩; (repeat' (first | ((try simp only [Ce.Shaped] at *); simp +zetaDelta (maxDischargeDepth := 9) only [Ce.Shaped, Dev.Shaped.ce_sig, Dev.Shaped.ce_acc, Dev.Shaped.ce_axes, Dev.Shaped.wr, Dev.Shaped.resetDomains, setAt_length, addAt_length, List.length_map, List.length_replicate, List.length_cons, List.length_nil, List.length_zipWith, List.length_range, List.length_append, List.length_drop, List.length_take, Nat.reduceSub, Nat.reduceLeDiff, Nat.min_eq_left, *, and_self, Nat.reduceAdd, Nat.zero_add]; done) | split)); done) | skip))

end Sys2Proof.Machine
end

