-- ==== Sys2Proof/Laws/ReachMotion.lean ====
section
/-! SUPPORT. What the functions of Machine/Motion.lean can do to the block. -/

set_option linter.tactic.unusedName false
set_option linter.unusedTactic false
set_option linter.unusedSimpArgs false
set_option linter.unreachableTactic false
set_option maxHeartbeats 800000

namespace Sys2Proof.Machine

theorem Dev.encTransition_reach (d : Dev) (n : Nat) (a b : Bool) : Reach (Part.regs ||| Part.fl ||| Part.st ||| Part.ce) d (Dev.encTransition d n a b) := by
  unfold Dev.encTransition
  with_reducible repeat' (first | assumption | exact .refl _ | (extract_lets +onlyGivenNames x; first | (refine Reach.have (x := x) ?_ (fun hx hxs => ?_); unfold x; clear x; rotate_left; clear_value x) | clear_value x) | (apply Reach.via (Dev.axisFault_reach ..); decide) | (apply Reach.via (Dev.bump_reach ..); decide) | (apply Reach.via (Dev.setAxis_reach ..); decide) | (apply Reach.ite <;> intro) | simp -zeta -iota only [↓Reach.mk_eq] | split | dsimp only | (apply ReachMk.intro <;> first | exact .inr (by decide) | rfl | exact .inl rfl | skip))

theorem Dev.axesAtS_reach (d : Dev) : Reach (Part.regs ||| Part.ce) d (Dev.axesAtS d) := by
  unfold Dev.axesAtS
  with_reducible repeat' (first | assumption | exact .refl _ | (extract_lets +onlyGivenNames x; first | (refine Reach.have (x := x) ?_ (fun hx hxs => ?_); unfold x; clear x; rotate_left; clear_value x) | clear_value x) | (apply Reach.via (Dev.setAxis_reach ..); decide) | (apply Reach.via (Dev.wrS_reach ..); decide) | (apply Dev.forAll_reach <;> intros) | simp -zeta -iota only [↓Reach.mk_eq] | split | dsimp only | (apply ReachMk.intro <;> first | exact .inr (by decide) | rfl | exact .inl rfl | skip))

theorem Dev.encIndex_reach (d : Dev) (n : Nat) : Reach (Part.regs ||| Part.fl ||| Part.st ||| Part.ce) d (Dev.encIndex d n) := by
  unfold Dev.encIndex
  with_reducible repeat' (first | assumption | exact .refl _ | (extract_lets +onlyGivenNames x; first | (refine Reach.have (x := x) ?_ (fun hx hxs => ?_); unfold x; clear x; rotate_left; clear_value x) | clear_value x) | (apply Reach.wr'; decide) | (apply Reach.via (Dev.axisFault_reach ..); decide) | (apply Reach.via (Dev.bump_reach ..); decide) | (apply Reach.via (Dev.setAxis_reach ..); decide) | (apply Reach.via (Dev.wrS_reach ..); decide) | (apply Reach.ite <;> intro) | simp -zeta -iota only [↓Reach.mk_eq] | split | dsimp only | (apply ReachMk.intro <;> first | exact .inr (by decide) | rfl | exact .inl rfl | skip))

theorem Dev.axisGenZero_reach (d : Dev) (n : Nat) : Reach (Part.ce) d (Dev.axisGenZero d n) := by
  unfold Dev.axisGenZero
  with_reducible repeat' (first | assumption | exact .refl _ | (extract_lets +onlyGivenNames x; first | (refine Reach.have (x := x) ?_ (fun hx hxs => ?_); unfold x; clear x; rotate_left; clear_value x) | clear_value x) | (apply Reach.via (Dev.setGen_reach ..); decide) | simp -zeta -iota only [↓Reach.mk_eq] | (apply ReachMk.intro <;> first | exact .inr (by decide) | rfl | exact .inl rfl | skip))

theorem Dev.axisStopping_reach (d : Dev) (n : Nat) : Reach (Part.regs ||| Part.st ||| Part.ce) d (Dev.axisStopping d n) := by
  unfold Dev.axisStopping
  with_reducible repeat' (first | assumption | exact .refl _ | (apply Reach.via (Dev.axisGenZero_reach ..); decide) | (apply Reach.via (Dev.setAxisState_reach ..); decide) | (apply Reach.ite <;> intro) | split | dsimp only)

theorem Dev.axisStopped_reach (d : Dev) (n : Nat) : Reach (Part.regs ||| Part.st ||| Part.ce) d (Dev.axisStopped d n) := by
  unfold Dev.axisStopped
  with_reducible repeat' (first | assumption | exact .refl _ | (extract_lets +onlyGivenNames x; clear_value x) | (apply Reach.via (Dev.setAxis_reach ..); decide) | (apply Reach.via (Dev.setAxisState_reach ..); decide) | (apply Reach.ite <;> intro) | simp -zeta -iota only [↓Reach.mk_eq] | split | (apply ReachMk.intro <;> first | exact .inr (by decide) | rfl | exact .inl rfl | skip))

theorem Dev.axesTripped_reach (d : Dev) : Reach (Part.regs ||| Part.st ||| Part.ce) d (Dev.axesTripped d) := by
  unfold Dev.axesTripped
  with_reducible repeat' (first | assumption | exact .refl _ | (apply Reach.via (Dev.axisStopped_reach ..); decide) | (apply Dev.forAll_reach <;> intros) | (apply Reach.ite <;> intro) | split | dsimp only)

theorem Dev.axesMode_reach (d : Dev) : Reach (Part.regs ||| Part.st ||| Part.ce) d (Dev.axesMode d) := by
  unfold Dev.axesMode
  with_reducible repeat' (first | assumption | exact .refl _ | (apply Reach.via (Dev.axesTripped_reach ..); decide) | (apply Reach.via (Dev.axisStopping_reach ..); decide) | (apply Dev.forAll_reach <;> intros) | (apply Reach.ite <;> intro) | split | dsimp only)

theorem Dev.axesStandstill_reach (d : Dev) : Reach (Part.regs ||| Part.st ||| Part.ce) d (Dev.axesStandstill d) := by
  unfold Dev.axesStandstill
  with_reducible repeat' (first | assumption | exact .refl _ | (apply Reach.via (Dev.axisStopped_reach ..); decide) | (apply Dev.forAll_reach <;> intros) | (apply Reach.ite <;> intro) | split | dsimp only)

theorem Dev.axisEnable_reach (d : Dev) (n : Nat) : Reach (Part.regs ||| Part.st ||| Part.ce) d (Dev.axisEnable d n) := by
  unfold Dev.axisEnable
  with_reducible repeat' (first | assumption | exact .refl _ | (extract_lets +onlyGivenNames x; first | (refine Reach.have (x := x) ?_ (fun hx hxs => ?_); unfold x; clear x; rotate_left; clear_value x) | clear_value x) | (apply Reach.wr'; decide) | (apply Reach.via (Dev.setAxis_reach ..); decide) | (apply Reach.via (Dev.setAxisState_reach ..); decide) | (apply Reach.ite <;> intro) | simp -zeta -iota only [↓Reach.mk_eq] | split | dsimp only | (apply ReachMk.intro <;> first | exact .inr (by decide) | rfl | exact .inl rfl | skip))

theorem Dev.axisDisable_reach (d : Dev) (n : Nat) : Reach (Part.regs ||| Part.st ||| Part.ce) d (Dev.axisDisable d n) := by
  unfold Dev.axisDisable
  with_reducible repeat' (first | assumption | exact .refl _ | (apply Reach.wr'; decide) | (apply Reach.via (Dev.axisStopping_reach ..); decide))

theorem Dev.axisClr_reach (d : Dev) (n : Nat) : Reach (Part.regs ||| Part.st) d (Dev.axisClr d n) := by
  unfold Dev.axisClr
  with_reducible repeat' (first | assumption | exact .refl _ | (apply Reach.wr'; decide) | (apply Reach.via (Dev.setAxisState_reach ..); decide) | (apply Reach.via (Dev.supRelease_reach ..); decide) | (apply Reach.ite <;> intro) | split)

theorem Dev.manWrite_reach (d : Dev) (b v : Nat) : Reach (Part.regs) d (Dev.manWrite d b v) := by
  unfold Dev.manWrite
  with_reducible repeat' (first | assumption | exact .refl _ | (extract_lets +onlyGivenNames x; clear_value x) | (apply Reach.wr'; decide) | (apply Reach.ite <;> intro) | simp -zeta -iota only [↓Reach.mk_eq] | split | (apply ReachMk.intro <;> first | exact .inr (by decide) | rfl | exact .inl rfl | skip))

theorem Dev.manAtS_reach (d : Dev) : Reach (Part.ce) d (Dev.manAtS d) := by
  unfold Dev.manAtS
  with_reducible repeat' (first | assumption | exact .refl _ | (extract_lets +onlyGivenNames x; first | (have hf : Ce := x; clear hf; refine Reach.keep_ce (x := x) ?_ (fun hx => ?_); (· intro hs; unfold x; clear x; (repeat' (first | ((try simp only [Ce.Shaped] at *); simp +zetaDelta (maxDischargeDepth := 9) only [Ce.Shaped, Dev.Shaped.ce_sig, Dev.Shaped.ce_acc, Dev.Shaped.ce_axes, Dev.Shaped.wr, Dev.Shaped.resetDomains, setAt_length, addAt_length, List.length_map, List.length_replicate, List.length_cons, List.length_nil, List.length_zipWith, List.length_range, List.length_append, List.length_drop, List.length_take, Nat.reduceSub, Nat.reduceLeDiff, Nat.min_eq_left, *, and_self, Nat.reduceAdd, Nat.zero_add]; done) | split))); clear_value x) | clear_value x) | simp -zeta -iota only [↓Reach.mk_eq] | split | (apply ReachMk.intro <;> first | exact .inr (by decide) | rfl | exact .inl rfl | (refine .inr ⟨by decide, fun hs he => ?_⟩; (repeat' (first | ((try simp only [Ce.Shaped] at *); simp +zetaDelta (maxDischargeDepth := 9) only [Ce.Shaped, Dev.Shaped.ce_sig, Dev.Shaped.ce_acc, Dev.Shaped.ce_axes, Dev.Shaped.wr, Dev.Shaped.resetDomains, setAt_length, addAt_length, List.length_map, List.length_replicate, List.length_cons, List.length_nil, List.length_zipWith, List.length_range, List.length_append, List.length_drop, List.length_take, Nat.reduceSub, Nat.reduceLeDiff, Nat.min_eq_left, *, and_self, Nat.reduceAdd, Nat.zero_add]; done) | split)); done) | skip))

theorem Dev.manNow_reach (d : Dev) (b : Nat) : Reach (Part.ce) d (Dev.manNow d b) := by
  unfold Dev.manNow
  with_reducible repeat' (first | assumption | exact .refl _ | (extract_lets +onlyGivenNames x; first | (have hf : Ce := x; clear hf; refine Reach.keep_ce (x := x) ?_ (fun hx => ?_); (· intro hs; unfold x; clear x; (repeat' (first | ((try simp only [Ce.Shaped] at *); simp +zetaDelta (maxDischargeDepth := 9) only [Ce.Shaped, Dev.Shaped.ce_sig, Dev.Shaped.ce_acc, Dev.Shaped.ce_axes, Dev.Shaped.wr, Dev.Shaped.resetDomains, setAt_length, addAt_length, List.length_map, List.length_replicate, List.length_cons, List.length_nil, List.length_zipWith, List.length_range, List.length_append, List.length_drop, List.length_take, Nat.reduceSub, Nat.reduceLeDiff, Nat.min_eq_left, *, and_self, Nat.reduceAdd, Nat.zero_add]; done) | split))); clear_value x) | clear_value x) | simp -zeta -iota only [↓Reach.mk_eq] | (apply ReachMk.intro <;> first | exact .inr (by decide) | rfl | exact .inl rfl | (refine .inr ⟨by decide, fun hs he => ?_⟩; (repeat' (first | ((try simp only [Ce.Shaped] at *); simp +zetaDelta (maxDischargeDepth := 9) only [Ce.Shaped, Dev.Shaped.ce_sig, Dev.Shaped.ce_acc, Dev.Shaped.ce_axes, Dev.Shaped.wr, Dev.Shaped.resetDomains, setAt_length, addAt_length, List.length_map, List.length_replicate, List.length_cons, List.length_nil, List.length_zipWith, List.length_range, List.length_append, List.length_drop, List.length_take, Nat.reduceSub, Nat.reduceLeDiff, Nat.min_eq_left, *, and_self, Nat.reduceAdd, Nat.zero_add]; done) | split)); done) | skip))

theorem Dev.trackLoad_reach (d : Dev) (x : Blk) : Reach (Part.ce) d (Dev.trackLoad d x) := by
  unfold Dev.trackLoad
  with_reducible repeat' (first | assumption | exact .refl _ | (extract_lets +onlyGivenNames x; first | (refine Reach.have (x := x) ?_ (fun hx hxs => ?_); unfold x; clear x; rotate_left; clear_value x) | clear_value x) | (apply Reach.via (Dev.putSig_reach ..); decide) | (apply Reach.via (Dev.setGen_reach ..); decide) | (apply Dev.forAll_reach <;> intros) | simp -zeta -iota only [↓Reach.mk_eq] | split | (apply ReachMk.intro <;> first | exact .inr (by decide) | rfl | exact .inl rfl | skip))

theorem Dev.manApply_reach (d : Dev) (due : Nat → Bool) : Reach (Part.ce) d (Dev.manApply d due) := by
  unfold Dev.manApply
  with_reducible repeat' (first | assumption | exact .refl _ | (extract_lets +onlyGivenNames x; first | (refine Reach.have (x := x) ?_ (fun hx hxs => ?_); unfold x; clear x; rotate_left; clear_value x) | (have hf : Ce := x; clear hf; refine Reach.keep_ce (x := x) ?_ (fun hx => ?_); (· intro hs; unfold x; clear x; (repeat' (first | ((try simp only [Ce.Shaped] at *); simp +zetaDelta (maxDischargeDepth := 9) only [Ce.Shaped, Dev.Shaped.ce_sig, Dev.Shaped.ce_acc, Dev.Shaped.ce_axes, Dev.Shaped.wr, Dev.Shaped.resetDomains, setAt_length, addAt_length, List.length_map, List.length_replicate, List.length_cons, List.length_nil, List.length_zipWith, List.length_range, List.length_append, List.length_drop, List.length_take, Nat.reduceSub, Nat.reduceLeDiff, Nat.min_eq_left, *, and_self, Nat.reduceAdd, Nat.zero_add]; done) | split))); clear_value x) | clear_value x) | (apply Reach.via (Dev.trackLoad_reach ..); decide) | (apply Dev.forAll_reach <;> intros) | (apply Reach.ite <;> intro) | simp -zeta -iota only [↓Reach.mk_eq] | split | (apply ReachMk.intro <;> first | exact .inr (by decide) | rfl | exact .inl rfl | (refine .inr ⟨by decide, fun hs he => ?_⟩; (repeat' (first | ((try simp only [Ce.Shaped] at *); simp +zetaDelta (maxDischargeDepth := 9) only [Ce.Shaped, Dev.Shaped.ce_sig, Dev.Shaped.ce_acc, Dev.Shaped.ce_axes, Dev.Shaped.wr, Dev.Shaped.resetDomains, setAt_length, addAt_length, List.length_map, List.length_replicate, List.length_cons, List.length_nil, List.length_zipWith, List.length_range, List.length_append, List.length_drop, List.length_take, Nat.reduceSub, Nat.reduceLeDiff, Nat.min_eq_left, *, and_self, Nat.reduceAdd, Nat.zero_add]; done) | split)); done) | skip))

theorem Dev.manualAtW_reach (d : Dev) : Reach (Part.ce) d (Dev.manualAtW d) := by
  unfold Dev.manualAtW
  with_reducible repeat' (first | assumption | exact .refl _ | (apply Reach.via (Dev.putSig_reach ..); decide) | (apply Dev.forAll_reach <;> intros) | (apply Reach.ite <;> intro) | split)

theorem Dev.xferAtW_reach (d : Dev) : Reach (Part.regs ||| Part.fl) d (Dev.xferAtW d) := by
  unfold Dev.xferAtW
  with_reducible repeat' (first | assumption | exact .refl _ | (apply Reach.via (Dev.bump_reach ..); decide) | (apply Reach.via (Dev.raise_reach ..); decide) | (apply Dev.forAll_reach <;> intros) | (apply Reach.ite <;> intro) | split)

theorem Dev.dbgHalt_reach (d : Dev) (halt : Bool) : Reach (Part.regs) d (Dev.dbgHalt d halt) := by
  unfold Dev.dbgHalt
  with_reducible repeat' (first | assumption | exact .refl _ | (apply Reach.via (Dev.wrB_reach ..); decide))

theorem Dev.dbgStep_reach (d : Dev) : Reach (Part.ce) d (Dev.dbgStep d) := by
  unfold Dev.dbgStep
  with_reducible repeat' (first | assumption | exact .refl _ | (extract_lets +onlyGivenNames x; first | (have hf : Ce := x; clear hf; refine Reach.keep_ce (x := x) ?_ (fun hx => ?_); (· intro hs; unfold x; clear x; (repeat' (first | ((try simp only [Ce.Shaped] at *); simp +zetaDelta (maxDischargeDepth := 9) only [Ce.Shaped, Dev.Shaped.ce_sig, Dev.Shaped.ce_acc, Dev.Shaped.ce_axes, Dev.Shaped.wr, Dev.Shaped.resetDomains, setAt_length, addAt_length, List.length_map, List.length_replicate, List.length_cons, List.length_nil, List.length_zipWith, List.length_range, List.length_append, List.length_drop, List.length_take, Nat.reduceSub, Nat.reduceLeDiff, Nat.min_eq_left, *, and_self, Nat.reduceAdd, Nat.zero_add]; done) | split))); clear_value x) | clear_value x) | (apply Reach.ite <;> intro) | simp -zeta -iota only [↓Reach.mk_eq] | split | (apply ReachMk.intro <;> first | exact .inr (by decide) | rfl | exact .inl rfl | (refine .inr ⟨by decide, fun hs he => ?_⟩; (repeat' (first | ((try simp only [Ce.Shaped] at *); simp +zetaDelta (maxDischargeDepth := 9) only [Ce.Shaped, Dev.Shaped.ce_sig, Dev.Shaped.ce_acc, Dev.Shaped.ce_axes, Dev.Shaped.wr, Dev.Shaped.resetDomains, setAt_length, addAt_length, List.length_map, List.length_replicate, List.length_cons, List.length_nil, List.length_zipWith, List.length_range, List.length_append, List.length_drop, List.length_take, Nat.reduceSub, Nat.reduceLeDiff, Nat.min_eq_left, *, and_self, Nat.reduceAdd, Nat.zero_add]; done) | split)); done) | skip))

end Sys2Proof.Machine
end

