-- ==== Sys2Proof/Laws/ReachDegraded.lean ====
section
/-! SUPPORT. What the functions of Machine/Degraded.lean can do to the block. -/

set_option linter.tactic.unusedName false
set_option linter.unusedTactic false
set_option linter.unusedSimpArgs false
set_option linter.unreachableTactic false
set_option maxHeartbeats 800000

namespace Sys2Proof.Machine

theorem Dev.setDblk_reach (d : Dev) (b : Nat) (x : DgrBlk) : Reach (Part.dgr) d (Dev.setDblk d b x) := by
  unfold Dev.setDblk
  with_reducible repeat' (first | assumption | exact .refl _ | (extract_lets +onlyGivenNames x; first | (have hf : Dgr := x; clear hf; refine Reach.keep_dgr (x := x) ?_ (fun hx => ?_); (· intro hs; unfold x; clear x; (repeat' (first | ((try simp only [Dgr.Shaped] at *); simp +zetaDelta (maxDischargeDepth := 9) only [Dgr.Shaped, Dev.Shaped.dgr_blk, Dev.Shaped.wr, Dev.Shaped.resetDomains, setAt_length, addAt_length, List.length_map, List.length_replicate, List.length_cons, List.length_nil, List.length_zipWith, List.length_range, List.length_append, List.length_drop, List.length_take, Nat.reduceSub, Nat.reduceLeDiff, Nat.min_eq_left, *, and_self, Nat.reduceAdd, Nat.zero_add]; done) | split))); clear_value x) | clear_value x) | simp -zeta -iota only [↓Reach.mk_eq] | (apply ReachMk.intro <;> first | exact .inr (by decide) | rfl | exact .inl rfl | (refine .inr ⟨by decide, fun hs he => ?_⟩; (repeat' (first | ((try simp only [Dgr.Shaped] at *); simp +zetaDelta (maxDischargeDepth := 9) only [Dgr.Shaped, Dev.Shaped.dgr_blk, Dev.Shaped.wr, Dev.Shaped.resetDomains, setAt_length, addAt_length, List.length_map, List.length_replicate, List.length_cons, List.length_nil, List.length_zipWith, List.length_range, List.length_append, List.length_drop, List.length_take, Nat.reduceSub, Nat.reduceLeDiff, Nat.min_eq_left, *, and_self, Nat.reduceAdd, Nat.zero_add]; done) | split)); done) | skip))

theorem Dev.dgrShow_reach (d : Dev) (b : Nat) : Reach (Part.regs) d (Dev.dgrShow d b) := by
  unfold Dev.dgrShow
  with_reducible repeat' (first | assumption | exact .refl _ | (extract_lets +onlyGivenNames x; first | (refine Reach.have (x := x) ?_ (fun hx hxs => ?_); unfold x; clear x; rotate_left; clear_value x) | clear_value x) | (apply Reach.via (Dev.pend_reach ..); decide) | (apply Reach.via (Dev.wrAll_reach ..); decide))

theorem Dev.pendVar_reach (d : Dev) (b idx kind : Nat) : Reach (Part.regs ||| Part.dgr) d (Dev.pendVar d b idx kind) := by
  unfold Dev.pendVar
  with_reducible repeat' (first | assumption | exact .refl _ | (extract_lets +onlyGivenNames x; clear_value x) | (apply Reach.via (Dev.dgrShow_reach ..); decide) | (apply Reach.via (Dev.setDblk_reach ..); decide) | simp -zeta -iota only [↓Reach.mk_eq] | (apply ReachMk.intro <;> first | exact .inr (by decide) | rfl | exact .inl rfl | skip))

theorem Dev.fallback_reach (d : Dev) (det : Nat) : Reach (Part.regs ||| Part.pw ||| Part.fl ||| Part.pwm ||| Part.out ||| Part.cap) d (Dev.fallback d det) := by
  unfold Dev.fallback
  with_reducible repeat' (first | assumption | exact .refl _ | (extract_lets +onlyGivenNames x; first | (refine Reach.have (x := x) ?_ (fun hx hxs => ?_); unfold x; clear x; rotate_left; clear_value x) | (refine Reach.have (x := x.1) ?_ (fun hx hxs => ?_); unfold x; clear x; rotate_left; clear_value x) | (refine Reach.have (x := x.2) ?_ (fun hx hxs => ?_); unfold x; clear x; rotate_left; clear_value x) | clear_value x) | (apply Reach.via (Dev.bump_reach ..); decide) | (apply Reach.via (Dev.outImmediate_reach ..); decide) | (apply Reach.via (Dev.outQuench_reach ..); decide) | (apply Reach.via (Dev.quenchAll_reach ..); decide) | (apply Reach.via (Dev.raise_reach ..); decide) | (apply Reach.via (Dev.swTripGroups_reach ..); decide) | (apply Dev.forAll_reach <;> intros) | (apply Reach.ite <;> intro) | simp -zeta -iota only [↓Reach.mk_eq] | split | dsimp only | (apply ReachMk.intro <;> first | exact .inr (by decide) | rfl | exact .inl rfl | skip))

theorem Dev.openWindow_reach (d : Dev) (b det : Nat) : Reach (Part.regs ||| Part.dgr) d (Dev.openWindow d b det) := by
  unfold Dev.openWindow
  with_reducible repeat' (first | assumption | exact .refl _ | (extract_lets +onlyGivenNames x; clear_value x) | (apply Reach.via (Dev.dgrShow_reach ..); decide) | (apply Reach.via (Dev.setDblk_reach ..); decide) | simp -zeta -iota only [↓Reach.mk_eq] | (apply ReachMk.intro <;> first | exact .inr (by decide) | rfl | exact .inl rfl | skip))

theorem Dev.trigger_reach (d : Dev) (det : Nat) : Reach (Part.regs ||| Part.pw ||| Part.fl ||| Part.st ||| Part.dgr ||| Part.pwm ||| Part.out ||| Part.cap) d (Dev.trigger d det) := by
  unfold Dev.trigger
  with_reducible repeat' (first | assumption | exact .refl _ | (extract_lets +onlyGivenNames x; first | (refine Reach.have (x := x) ?_ (fun hx hxs => ?_); unfold x; clear x; rotate_left; clear_value x) | (refine Reach.have (x := x.1) ?_ (fun hx hxs => ?_); unfold x; clear x; rotate_left; clear_value x) | (refine Reach.have (x := x.2) ?_ (fun hx hxs => ?_); unfold x; clear x; rotate_left; clear_value x) | clear_value x) | (apply Reach.wr'; decide) | (apply Reach.via (Dev.bump_reach ..); decide) | (apply Reach.via (Dev.capCause_reach ..); decide) | (apply Reach.via (Dev.detShow_reach ..); decide) | (apply Reach.via (Dev.dgrShow_reach ..); decide) | (apply Reach.via (Dev.fallback_reach ..); decide) | (apply Reach.via (Dev.openWindow_reach ..); decide) | (apply Reach.via (Dev.pendVar_reach ..); decide) | (apply Reach.via (Dev.raise_reach ..); decide) | (apply Reach.via (Dev.setDblk_reach ..); decide) | (apply Reach.via (Dev.setDet_reach ..); decide) | (apply Reach.ite <;> intro) | simp -zeta -iota only [↓Reach.mk_eq] | split | dsimp only | (apply ReachMk.intro <;> first | exact .inr (by decide) | rfl | exact .inl rfl | skip))

theorem Dev.closeWindow_reach (d : Dev) (b : Nat) : Reach (Part.regs ||| Part.dgr) d (Dev.closeWindow d b) := by
  unfold Dev.closeWindow
  with_reducible repeat' (first | assumption | exact .refl _ | (extract_lets +onlyGivenNames x; first | (refine Reach.have (x := x) ?_ (fun hx hxs => ?_); unfold x; clear x; rotate_left; clear_value x) | clear_value x) | (apply Reach.wr'; decide) | (apply Reach.via (Dev.dgrShow_reach ..); decide) | (apply Reach.via (Dev.openWindow_reach ..); decide) | (apply Reach.via (Dev.setDblk_reach ..); decide) | (apply Reach.ite <;> intro) | simp -zeta -iota only [↓Reach.mk_eq] | split | dsimp only | (apply ReachMk.intro <;> first | exact .inr (by decide) | rfl | exact .inl rfl | skip))

theorem Dev.lastCls_reach (d : Dev) (b det verdict : Nat) : Reach (Part.regs ||| Part.pw ||| Part.fl ||| Part.dgr ||| Part.pwm ||| Part.out ||| Part.cap) d (Dev.lastCls d b det verdict) := by
  unfold Dev.lastCls
  with_reducible repeat' (first | assumption | exact .refl _ | (extract_lets +onlyGivenNames x; first | (refine Reach.have (x := x) ?_ (fun hx hxs => ?_); unfold x; clear x; rotate_left; clear_value x) | clear_value x) | (apply Reach.via (Dev.wrAll_reach ..); decide))

theorem Dev.verdict_reach (d : Dev) (b det : Nat) : Reach (Part.regs ||| Part.pw ||| Part.fl ||| Part.dgr ||| Part.pwm ||| Part.out ||| Part.cap) d (Dev.verdict d b det) := by
  unfold Dev.verdict
  with_reducible repeat' (first | assumption | exact .refl _ | (extract_lets +onlyGivenNames x; first | (refine Reach.have (x := x) ?_ (fun hx hxs => ?_); unfold x; clear x; rotate_left; clear_value x) | (refine Reach.have (x := x.1) ?_ (fun hx hxs => ?_); unfold x; clear x; rotate_left; clear_value x) | (refine Reach.have (x := x.2) ?_ (fun hx hxs => ?_); unfold x; clear x; rotate_left; clear_value x) | clear_value x) | (apply Reach.wr'; decide) | (apply Reach.via (Dev.closeWindow_reach ..); decide) | (apply Reach.via (Dev.fallback_reach ..); decide) | (apply Reach.via (Dev.lastCls_reach ..); decide) | (apply Reach.via (Dev.pendVar_reach ..); decide) | (apply Reach.via (Dev.raise_reach ..); decide) | (apply Reach.ite <;> intro) | simp -zeta -iota only [↓Reach.mk_eq] | split | dsimp only | (apply ReachMk.intro <;> first | exact .inr (by decide) | rfl | exact .inl rfl | skip))

theorem Dev.windowTick_reach (d : Dev) (b : Nat) : Reach (Part.regs ||| Part.pw ||| Part.fl ||| Part.dgr ||| Part.pwm ||| Part.out ||| Part.cap) d (Dev.windowTick d b) := by
  unfold Dev.windowTick
  with_reducible repeat' (first | assumption | exact .refl _ | (extract_lets +onlyGivenNames x; first | (refine Reach.have (x := x) ?_ (fun hx hxs => ?_); unfold x; clear x; rotate_left; clear_value x) | (refine Reach.have (x := x.1) ?_ (fun hx hxs => ?_); unfold x; clear x; rotate_left; clear_value x) | (refine Reach.have (x := x.2) ?_ (fun hx hxs => ?_); unfold x; clear x; rotate_left; clear_value x) | clear_value x) | (apply Reach.via (Dev.dgrShow_reach ..); decide) | (apply Reach.via (Dev.setDblk_reach ..); decide) | (apply Reach.via (Dev.verdict_reach ..); decide) | (apply Reach.ite <;> intro) | simp -zeta -iota only [↓Reach.mk_eq] | split | dsimp only | (apply ReachMk.intro <;> first | exact .inr (by decide) | rfl | exact .inl rfl | skip))

theorem Dev.takeRequest_reach (d : Dev) (b : Nat) (hw : Bool) : Reach (Part.regs ||| Part.dgr) d (Dev.takeRequest d b hw) := by
  unfold Dev.takeRequest
  with_reducible repeat' (first | assumption | exact .refl _ | (extract_lets +onlyGivenNames x; first | (refine Reach.have (x := x) ?_ (fun hx hxs => ?_); unfold x; clear x; rotate_left; clear_value x) | (have hf := fun y => (x y : Dev); clear hf; unfold x; clear_value x) | (have hf := fun y z => (x y z : Dev); clear hf; unfold x; clear_value x) | clear_value x) | (apply Reach.wr'; decide) | (apply Reach.via (Dev.pendVar_reach ..); decide) | (apply Reach.via (Dev.setDblk_reach ..); decide) | (apply Reach.ite <;> intro) | simp -zeta -iota only [↓Reach.mk_eq] | split | dsimp only | (apply ReachMk.intro <;> first | exact .inr (by decide) | rfl | exact .inl rfl | skip))

theorem Dev.dgrAtW_reach (d : Dev) : Reach (Part.regs ||| Part.pw ||| Part.fl ||| Part.st ||| Part.dgr ||| Part.pwm ||| Part.out ||| Part.cap) d (Dev.dgrAtW d) := by
  unfold Dev.dgrAtW
  with_reducible repeat' (first | assumption | exact .refl _ | (extract_lets +onlyGivenNames x; first | (refine Reach.have (x := x) ?_ (fun hx hxs => ?_); unfold x; clear x; rotate_left; clear_value x) | (have hf := fun y => (x y : Dev); clear hf; unfold x; clear_value x) | (have hf := fun y z => (x y z : Dev); clear hf; unfold x; clear_value x) | clear_value x) | (apply Reach.via (Dev.pend_reach ..); decide) | (apply Reach.via (Dev.takeRequest_reach ..); decide) | (apply Reach.via (Dev.trigger_reach ..); decide) | (apply Reach.via (Dev.windowTick_reach ..); decide) | (apply Dev.forAll_reach <;> intros) | split)

theorem Dev.requestsIdle_reach (d : Dev) : Reach (Part.regs ||| Part.dgr) d (Dev.requestsIdle d) := by
  unfold Dev.requestsIdle
  with_reducible repeat' (first | assumption | exact .refl _ | (extract_lets +onlyGivenNames x; first | (refine Reach.have (x := x) ?_ (fun hx hxs => ?_); unfold x; clear x; rotate_left; clear_value x) | clear_value x) | (apply Reach.wr'; decide) | (apply Reach.via (Dev.setDblk_reach ..); decide) | (apply Dev.forAll_reach <;> intros) | (apply Reach.ite <;> intro) | simp -zeta -iota only [↓Reach.mk_eq] | split | dsimp only | (apply ReachMk.intro <;> first | exact .inr (by decide) | rfl | exact .inl rfl | skip))

theorem Dev.capShow_reach (d : Dev) : Reach (Part.regs) d (Dev.capShow d) := by
  unfold Dev.capShow
  with_reducible repeat' (first | assumption | exact .refl _ | (extract_lets +onlyGivenNames x; first | (refine Reach.have (x := x) ?_ (fun hx hxs => ?_); unfold x; clear x; rotate_left; clear_value x) | clear_value x) | (apply Reach.wr'; decide) | (apply Dev.forAll_reach <;> intros) | split | dsimp only)

theorem Dev.varAtS_reach (d : Dev) : Reach (Part.regs ||| Part.fl ||| Part.st ||| Part.ce ||| Part.dgr) d (Dev.varAtS d) := by
  unfold Dev.varAtS
  with_reducible repeat' (first | assumption | exact .refl _ | (extract_lets +onlyGivenNames x; first | (refine Reach.have (x := x) ?_ (fun hx hxs => ?_); unfold x; clear x; rotate_left; clear_value x) | (have hf : Ce := x; clear hf; refine Reach.keep_ce (x := x) ?_ (fun hx => ?_); (· intro hs; unfold x; clear x; (repeat' (first | ((try simp only [Ce.Shaped] at *); simp +zetaDelta (maxDischargeDepth := 9) only [Ce.Shaped, Dev.Shaped.ce_sig, Dev.Shaped.ce_acc, Dev.Shaped.ce_axes, Dev.Shaped.wr, Dev.Shaped.resetDomains, setAt_length, addAt_length, List.length_map, List.length_replicate, List.length_cons, List.length_nil, List.length_zipWith, List.length_range, List.length_append, List.length_drop, List.length_take, Nat.reduceSub, Nat.reduceLeDiff, Nat.min_eq_left, *, and_self, Nat.reduceAdd, Nat.zero_add]; done) | split))); clear_value x) | clear_value x) | (apply Reach.wr'; decide) | (apply Reach.via (Dev.capShow_reach ..); decide) | (apply Reach.via (Dev.detShow_reach ..); decide) | (apply Reach.via (Dev.dgrShow_reach ..); decide) | (apply Reach.via (Dev.pend_reach ..); decide) | (apply Reach.via (Dev.raise_reach ..); decide) | (apply Reach.via (Dev.setDblk_reach ..); decide) | (apply Reach.via (Dev.setDet_reach ..); decide) | (apply Dev.forAll_reach <;> intros) | (apply Reach.ite <;> intro) | simp -zeta -iota only [↓Reach.mk_eq] | split | (apply ReachMk.intro <;> first | exact .inr (by decide) | rfl | exact .inl rfl | (refine .inr ⟨by decide, fun hs he => ?_⟩; (repeat' (first | ((try simp only [Ce.Shaped] at *); simp +zetaDelta (maxDischargeDepth := 9) only [Ce.Shaped, Dev.Shaped.ce_sig, Dev.Shaped.ce_acc, Dev.Shaped.ce_axes, Dev.Shaped.wr, Dev.Shaped.resetDomains, setAt_length, addAt_length, List.length_map, List.length_replicate, List.length_cons, List.length_nil, List.length_zipWith, List.length_range, List.length_append, List.length_drop, List.length_take, Nat.reduceSub, Nat.reduceLeDiff, Nat.min_eq_left, *, and_self, Nat.reduceAdd, Nat.zero_add]; done) | split)); done) | skip))

theorem Dev.windowsAbort_reach (d : Dev) : Reach (Part.regs ||| Part.pw ||| Part.fl ||| Part.dgr ||| Part.pwm ||| Part.out ||| Part.cap) d (Dev.windowsAbort d) := by
  unfold Dev.windowsAbort
  with_reducible repeat' (first | assumption | exact .refl _ | (extract_lets +onlyGivenNames x; first | (refine Reach.have (x := x) ?_ (fun hx hxs => ?_); unfold x; clear x; rotate_left; clear_value x) | clear_value x) | (apply Reach.wr'; decide) | (apply Reach.via (Dev.dgrShow_reach ..); decide) | (apply Reach.via (Dev.lastCls_reach ..); decide) | (apply Reach.via (Dev.raise_reach ..); decide) | (apply Reach.via (Dev.setDblk_reach ..); decide) | (apply Dev.forAll_reach <;> intros) | simp -zeta -iota only [↓Reach.mk_eq] | split | dsimp only | (apply ReachMk.intro <;> first | exact .inr (by decide) | rfl | exact .inl rfl | skip))

theorem Dev.varReq_reach (d : Dev) (b v : Nat) : Reach (Part.regs ||| Part.dgr) d (Dev.varReq d b v) := by
  unfold Dev.varReq
  with_reducible repeat' (first | assumption | exact .refl _ | (extract_lets +onlyGivenNames x; first | (refine Reach.have (x := x) ?_ (fun hx hxs => ?_); unfold x; clear x; rotate_left; clear_value x) | clear_value x) | (apply Reach.wr'; decide) | (apply Reach.via (Dev.setDblk_reach ..); decide) | (apply Reach.ite <;> intro) | simp -zeta -iota only [↓Reach.mk_eq] | split | dsimp only | (apply ReachMk.intro <;> first | exact .inr (by decide) | rfl | exact .inl rfl | skip))

theorem Dev.lostWrite_reach (d : Dev) (b v : Nat) : Reach (Part.regs) d (Dev.lostWrite d b v) := by
  unfold Dev.lostWrite
  with_reducible repeat' (first | assumption | exact .refl _ | (extract_lets +onlyGivenNames x; first | (refine Reach.have (x := x) ?_ (fun hx hxs => ?_); unfold x; clear x; rotate_left; clear_value x) | clear_value x) | (apply Reach.wr'; decide) | (apply Reach.via (Dev.bump_reach ..); decide) | (apply Reach.ite <;> intro) | split)

theorem Dev.imbalanceMs_reach (d : Dev) (ms : Nat) : Reach (Part.regs ||| Part.fl ||| Part.dgr) d (Dev.imbalanceMs d ms) := by
  unfold Dev.imbalanceMs
  with_reducible repeat' (first | assumption | exact .refl _ | (extract_lets +onlyGivenNames x; first | (refine Reach.have (x := x) ?_ (fun hx hxs => ?_); unfold x; clear x; rotate_left; clear_value x) | (refine Reach.have (x := x.1) ?_ (fun hx hxs => ?_); unfold x; clear x; rotate_left; clear_value x) | (refine Reach.have (x := x.2) ?_ (fun hx hxs => ?_); unfold x; clear x; rotate_left; clear_value x) | (have hf : Dgr := x; clear hf; refine Reach.keep_dgr (x := x) ?_ (fun hx => ?_); (· intro hs; unfold x; clear x; (repeat' (first | ((try simp only [Dgr.Shaped] at *); simp +zetaDelta (maxDischargeDepth := 9) only [Dgr.Shaped, Dev.Shaped.dgr_blk, Dev.Shaped.wr, Dev.Shaped.resetDomains, setAt_length, addAt_length, List.length_map, List.length_replicate, List.length_cons, List.length_nil, List.length_zipWith, List.length_range, List.length_append, List.length_drop, List.length_take, Nat.reduceSub, Nat.reduceLeDiff, Nat.min_eq_left, *, and_self, Nat.reduceAdd, Nat.zero_add]; done) | split))); clear_value x) | clear_value x) | (apply Reach.wr'; decide) | (apply Reach.via (Dev.raise_reach ..); decide) | (apply Dev.forAll_reach <;> intros) | (apply Reach.ite <;> intro) | simp -zeta -iota only [↓Reach.mk_eq] | split | dsimp only | (apply ReachMk.intro <;> first | exact .inr (by decide) | rfl | exact .inl rfl | (refine .inr ⟨by decide, fun hs he => ?_⟩; (repeat' (first | ((try simp only [Dgr.Shaped] at *); simp +zetaDelta (maxDischargeDepth := 9) only [Dgr.Shaped, Dev.Shaped.dgr_blk, Dev.Shaped.wr, Dev.Shaped.resetDomains, setAt_length, addAt_length, List.length_map, List.length_replicate, List.length_cons, List.length_nil, List.length_zipWith, List.length_range, List.length_append, List.length_drop, List.length_take, Nat.reduceSub, Nat.reduceLeDiff, Nat.min_eq_left, *, and_self, Nat.reduceAdd, Nat.zero_add]; done) | split)); done) | skip))

end Sys2Proof.Machine
end

