-- ==== Sys2Proof/Laws/ReachSensors.lean ====
section
/-! SUPPORT. What the functions of Machine/Sensors.lean can do to the block. -/

set_option linter.tactic.unusedName false
set_option linter.unusedTactic false
set_option linter.unusedSimpArgs false
set_option linter.unreachableTactic false
set_option maxHeartbeats 800000

namespace Sys2Proof.Machine

theorem Dev.guarded_reach (d : Dev) (item thr : Nat) (x : Int) : Reach (Part.regs ||| Part.fba) d (Dev.guarded d item thr x).2 := by
  unfold Dev.guarded
  with_reducible repeat' (first | assumption | exact .refl _ | (extract_lets +onlyGivenNames x; first | (refine Reach.have (x := x) ?_ (fun hx hxs => ?_); unfold x; clear x; rotate_left; clear_value x) | (have hf : Fba := x; clear hf; refine Reach.keep_fba (x := x) ?_ (fun hx => ?_); (· intro hs; unfold x; clear x; (repeat' (first | ((try simp only [Fba.Shaped] at *); simp +zetaDelta (maxDischargeDepth := 9) only [Fba.Shaped, Dev.Shaped.fba_ctlTodo, Dev.Shaped.fba_trigTodo, Dev.Shaped.fba_ctl, Dev.Shaped.fba_trig, Dev.Shaped.wr, Dev.Shaped.resetDomains, setAt_length, addAt_length, List.length_map, List.length_replicate, List.length_cons, List.length_nil, List.length_zipWith, List.length_range, List.length_append, List.length_drop, List.length_take, Nat.reduceSub, Nat.reduceLeDiff, Nat.min_eq_left, *, and_self, Nat.reduceAdd, Nat.zero_add]; done) | split))); clear_value x) | clear_value x) | (apply Reach.via (Dev.bump_reach ..); decide) | (apply Reach.ite <;> intro) | simp -zeta -iota only [↓Reach.mk_eq] | split | dsimp only | (apply ReachMk.intro <;> first | exact .inr (by decide) | rfl | exact .inl rfl | (refine .inr ⟨by decide, fun hs he => ?_⟩; (repeat' (first | ((try simp only [Fba.Shaped] at *); simp +zetaDelta (maxDischargeDepth := 9) only [Fba.Shaped, Dev.Shaped.fba_ctlTodo, Dev.Shaped.fba_trigTodo, Dev.Shaped.fba_ctl, Dev.Shaped.fba_trig, Dev.Shaped.wr, Dev.Shaped.resetDomains, setAt_length, addAt_length, List.length_map, List.length_replicate, List.length_cons, List.length_nil, List.length_zipWith, List.length_range, List.length_append, List.length_drop, List.length_take, Nat.reduceSub, Nat.reduceLeDiff, Nat.min_eq_left, *, and_self, Nat.reduceAdd, Nat.zero_add]; done) | split)); done) | skip))

theorem Dev.guarded_reach' {d : Dev} {item thr : Nat} {x : Int} {rr0 : Int} {re : Dev} (he : Dev.guarded d item thr x = (rr0, re)) : Reach (Part.regs ||| Part.fba) d re := by
  have hreach := Dev.guarded_reach d item thr x
  rw [he] at hreach
  exact hreach

theorem Dev.guarded_via' {mm : Nat} {aa : Dev} {d : Dev} {item thr : Nat} {x : Int} {rr0 : Int} {re : Dev} (hs : Part.sub (Part.regs ||| Part.fba) mm = true) (he : Dev.guarded d item thr x = (rr0, re)) (hr : Reach mm aa d) : Reach mm aa re := hr.step (Dev.guarded_reach' he) hs

theorem Dev.setImd_reach (d : Dev) (n : Nat) (x : ImdRt) : Reach (Part.imd) d (Dev.setImd d n x) := by
  unfold Dev.setImd
  with_reducible repeat' (first | assumption | exact .refl _ | (extract_lets +onlyGivenNames x; first | (have hf : List ImdRt := x; clear hf; refine Reach.keep_imd (x := x) ?_ (fun hx => ?_); (· intro hs; unfold x; clear x; (repeat' (first | (simp +zetaDelta (maxDischargeDepth := 9) only [Dev.Shaped.imd, Dev.Shaped.wr, Dev.Shaped.resetDomains, setAt_length, addAt_length, List.length_map, List.length_replicate, List.length_cons, List.length_nil, List.length_zipWith, List.length_range, List.length_append, List.length_drop, List.length_take, Nat.reduceSub, Nat.reduceLeDiff, Nat.min_eq_left, *, and_self, Nat.reduceAdd, Nat.zero_add]; done) | split))); clear_value x) | clear_value x) | simp -zeta -iota only [↓Reach.mk_eq] | (apply ReachMk.intro <;> first | exact .inr (by decide) | rfl | exact .inl rfl | (refine .inr ⟨by decide, fun hs he => ?_⟩; (repeat' (first | (simp +zetaDelta (maxDischargeDepth := 9) only [Dev.Shaped.imd, Dev.Shaped.wr, Dev.Shaped.resetDomains, setAt_length, addAt_length, List.length_map, List.length_replicate, List.length_cons, List.length_nil, List.length_zipWith, List.length_range, List.length_append, List.length_drop, List.length_take, Nat.reduceSub, Nat.reduceLeDiff, Nat.min_eq_left, *, and_self, Nat.reduceAdd, Nat.zero_add]; done) | split)); done) | skip))

theorem Dev.tempGood_reach (d : Dev) (i : Nat) (x : Int) : Reach (Part.regs ||| Part.fba) d (Dev.tempGood d i x) := by
  unfold Dev.tempGood
  with_reducible repeat' (first | assumption | exact .refl _ | (extract_lets +onlyGivenNames x; first | (refine Reach.have (x := x) ?_ (fun hx hxs => ?_); unfold x; clear x; rotate_left; clear_value x) | (refine Reach.have (x := x.1) ?_ (fun hx hxs => ?_); unfold x; clear x; rotate_left; clear_value x) | (refine Reach.have (x := x.2) ?_ (fun hx hxs => ?_); unfold x; clear x; rotate_left; clear_value x) | clear_value x) | (apply Reach.wr'; decide) | (apply Reach.via (Dev.guarded_reach ..); decide) | (apply Reach.via (Dev.wrS_reach ..); decide) | (apply Reach.ite <;> intro) | split | dsimp only)

theorem Dev.tempFault_reach (d : Dev) (i : Nat) (isOpen : Bool) : Reach (Part.regs ||| Part.fl) d (Dev.tempFault d i isOpen) := by
  unfold Dev.tempFault
  with_reducible repeat' (first | assumption | exact .refl _ | (extract_lets +onlyGivenNames x; first | (refine Reach.have (x := x) ?_ (fun hx hxs => ?_); unfold x; clear x; rotate_left; clear_value x) | clear_value x) | (apply Reach.wr'; decide) | (apply Reach.via (Dev.raise_reach ..); decide) | (apply Reach.via (Dev.wrB_reach ..); decide) | (apply Reach.ite <;> intro) | split | dsimp only)

theorem Dev.tempSample_reach (d : Dev) (i r : Nat) : Reach (Part.regs ||| Part.inj ||| Part.fl ||| Part.fba) d (Dev.tempSample d i r) := by
  unfold Dev.tempSample
  with_reducible repeat' (first | assumption | exact .refl _ | (extract_lets +onlyGivenNames x; first | (refine Reach.have (x := x) ?_ (fun hx hxs => ?_); unfold x; clear x; rotate_left; clear_value x) | clear_value x) | (apply Reach.via (Dev.tempFault_reach ..); decide) | (apply Reach.via (Dev.tempGood_reach ..); decide) | (apply Reach.ite <;> intro) | simp -zeta -iota only [↓Reach.mk_eq] | split | dsimp only | (apply ReachMk.intro <;> first | exact .inr (by decide) | rfl | exact .inl rfl | skip))

theorem Dev.backSample_reach (d : Dev) (ch : Nat) (x : Int) : Reach (Part.regs ||| Part.out ||| Part.fba) d (Dev.backSample d ch x) := by
  unfold Dev.backSample
  with_reducible repeat' (first | assumption | exact .refl _ | (extract_lets +onlyGivenNames x; first | (refine Reach.have (x := x) ?_ (fun hx hxs => ?_); unfold x; clear x; rotate_left; clear_value x) | (refine Reach.have (x := x.1) ?_ (fun hx hxs => ?_); unfold x; clear x; rotate_left; clear_value x) | (refine Reach.have (x := x.2) ?_ (fun hx hxs => ?_); unfold x; clear x; rotate_left; clear_value x) | (have hf : List OutRt := x; clear hf; refine Reach.keep_out (x := x) ?_ (fun hx => ?_); (· intro hs; unfold x; clear x; (repeat' (first | (simp +zetaDelta (maxDischargeDepth := 9) only [Reach.shaped (Dev.guarded_reach ..), Dev.Shaped.out, Dev.Shaped.wr, Dev.Shaped.resetDomains, setAt_length, addAt_length, List.length_map, List.length_replicate, List.length_cons, List.length_nil, List.length_zipWith, List.length_range, List.length_append, List.length_drop, List.length_take, Nat.reduceSub, Nat.reduceLeDiff, Nat.min_eq_left, *, and_self, Nat.reduceAdd, Nat.zero_add]; done) | split))); clear_value x) | (have hf : Fba := x; clear hf; refine Reach.keep_fba (x := x) ?_ (fun hx => ?_); (· intro hs; unfold x; clear x; (repeat' (first | ((try simp only [Fba.Shaped] at *); simp +zetaDelta (maxDischargeDepth := 9) only [Reach.shaped (Dev.guarded_reach ..), Fba.Shaped, Dev.Shaped.fba_ctlTodo, Dev.Shaped.fba_trigTodo, Dev.Shaped.fba_ctl, Dev.Shaped.fba_trig, Dev.Shaped.wr, Dev.Shaped.resetDomains, setAt_length, addAt_length, List.length_map, List.length_replicate, List.length_cons, List.length_nil, List.length_zipWith, List.length_range, List.length_append, List.length_drop, List.length_take, Nat.reduceSub, Nat.reduceLeDiff, Nat.min_eq_left, *, and_self, Nat.reduceAdd, Nat.zero_add]; done) | split))); clear_value x) | clear_value x) | (apply Reach.via (Dev.guarded_reach ..); decide) | (apply Reach.via (Dev.wrS_reach ..); decide) | (apply Reach.ite <;> intro) | simp -zeta -iota only [↓Reach.mk_eq] | split | dsimp only | (apply ReachMk.intro <;> first | exact .inr (by decide) | rfl | exact .inl rfl | (refine .inr ⟨by decide, fun hs he => ?_⟩; (repeat' (first | (simp +zetaDelta (maxDischargeDepth := 9) only [Reach.shaped (Dev.guarded_reach ..), Dev.Shaped.out, Dev.Shaped.wr, Dev.Shaped.resetDomains, setAt_length, addAt_length, List.length_map, List.length_replicate, List.length_cons, List.length_nil, List.length_zipWith, List.length_range, List.length_append, List.length_drop, List.length_take, Nat.reduceSub, Nat.reduceLeDiff, Nat.min_eq_left, *, and_self, Nat.reduceAdd, Nat.zero_add]; done) | split)); done) | (refine .inr ⟨by decide, fun hs he => ?_⟩; (repeat' (first | ((try simp only [Fba.Shaped] at *); simp +zetaDelta (maxDischargeDepth := 9) only [Reach.shaped (Dev.guarded_reach ..), Fba.Shaped, Dev.Shaped.fba_ctlTodo, Dev.Shaped.fba_trigTodo, Dev.Shaped.fba_ctl, Dev.Shaped.fba_trig, Dev.Shaped.wr, Dev.Shaped.resetDomains, setAt_length, addAt_length, List.length_map, List.length_replicate, List.length_cons, List.length_nil, List.length_zipWith, List.length_range, List.length_append, List.length_drop, List.length_take, Nat.reduceSub, Nat.reduceLeDiff, Nat.min_eq_left, *, and_self, Nat.reduceAdd, Nat.zero_add]; done) | split)); done) | skip))

theorem Dev.histPush_reach (d : Dev) (ch ns : Nat) (raw : Int) : Reach (Part.fba) d (Dev.histPush d ch ns raw) := by
  unfold Dev.histPush
  with_reducible repeat' (first | assumption | exact .refl _ | (extract_lets +onlyGivenNames x; first | (refine Reach.have (x := x) ?_ (fun hx hxs => ?_); unfold x; clear x; rotate_left; clear_value x) | (have hf : Fba := x; clear hf; refine Reach.keep_fba (x := x) ?_ (fun hx => ?_); (· intro hs; unfold x; clear x; (repeat' (first | ((try simp only [Fba.Shaped] at *); simp +zetaDelta (maxDischargeDepth := 9) only [Fba.Shaped, Dev.Shaped.fba_ctlTodo, Dev.Shaped.fba_trigTodo, Dev.Shaped.fba_ctl, Dev.Shaped.fba_trig, Dev.Shaped.wr, Dev.Shaped.resetDomains, setAt_length, addAt_length, List.length_map, List.length_replicate, List.length_cons, List.length_nil, List.length_zipWith, List.length_range, List.length_append, List.length_drop, List.length_take, Nat.reduceSub, Nat.reduceLeDiff, Nat.min_eq_left, *, and_self, Nat.reduceAdd, Nat.zero_add]; done) | split))); clear_value x) | clear_value x) | (apply Reach.ite <;> intro) | simp -zeta -iota only [↓Reach.mk_eq] | split | (apply ReachMk.intro <;> first | exact .inr (by decide) | rfl | exact .inl rfl | (refine .inr ⟨by decide, fun hs he => ?_⟩; (repeat' (first | ((try simp only [Fba.Shaped] at *); simp +zetaDelta (maxDischargeDepth := 9) only [Fba.Shaped, Dev.Shaped.fba_ctlTodo, Dev.Shaped.fba_trigTodo, Dev.Shaped.fba_ctl, Dev.Shaped.fba_trig, Dev.Shaped.wr, Dev.Shaped.resetDomains, setAt_length, addAt_length, List.length_map, List.length_replicate, List.length_cons, List.length_nil, List.length_zipWith, List.length_range, List.length_append, List.length_drop, List.length_take, Nat.reduceSub, Nat.reduceLeDiff, Nat.min_eq_left, *, and_self, Nat.reduceAdd, Nat.zero_add]; done) | split)); done) | skip))

theorem Dev.scanSample_reach (d : Dev) (item ns : Nat) (raw : Int) : Reach (Part.regs ||| Part.inj ||| Part.fl ||| Part.out ||| Part.fba ||| Part.imd) d (Dev.scanSample d item ns raw) := by
  unfold Dev.scanSample
  with_reducible repeat' (first | assumption | exact .refl _ | (extract_lets +onlyGivenNames x; first | (refine Reach.have (x := x) ?_ (fun hx hxs => ?_); unfold x; clear x; rotate_left; clear_value x) | (refine Reach.have (x := x.1) ?_ (fun hx hxs => ?_); unfold x; clear x; rotate_left; clear_value x) | (refine Reach.have (x := x.2) ?_ (fun hx hxs => ?_); unfold x; clear x; rotate_left; clear_value x) | clear_value x) | (apply Reach.via (Dev.backSample_reach ..); decide) | (apply Reach.via (Dev.guarded_reach ..); decide) | (apply Dev.guarded_via'; decide; assumption) | (apply Reach.via (Dev.histPush_reach ..); decide) | (apply Reach.via (Dev.setImd_reach ..); decide) | (apply Reach.via (Dev.tempSample_reach ..); decide) | (apply Reach.ite <;> intro) | simp -zeta -iota only [↓Reach.mk_eq] | split | (apply ReachMk.intro <;> first | exact .inr (by decide) | rfl | exact .inl rfl | skip))

theorem Dev.trigStart_reach (d : Dev) (conv : Nat) : Reach (Part.regs ||| Part.fl ||| Part.fba) d (Dev.trigStart d conv) := by
  unfold Dev.trigStart
  with_reducible repeat' (first | assumption | exact .refl _ | (extract_lets +onlyGivenNames x; first | (refine Reach.have (x := x) ?_ (fun hx hxs => ?_); unfold x; clear x; rotate_left; clear_value x) | (have hf : Fba := x; clear hf; refine Reach.keep_fba (x := x) ?_ (fun hx => ?_); (· intro hs; unfold x; clear x; (repeat' (first | ((try simp only [Fba.Shaped] at *); simp +zetaDelta (maxDischargeDepth := 9) only [Fba.Shaped, Dev.Shaped.fba_ctlTodo, Dev.Shaped.fba_trigTodo, Dev.Shaped.fba_ctl, Dev.Shaped.fba_trig, Dev.Shaped.wr, Dev.Shaped.resetDomains, setAt_length, addAt_length, List.length_map, List.length_replicate, List.length_cons, List.length_nil, List.length_zipWith, List.length_range, List.length_append, List.length_drop, List.length_take, Nat.reduceSub, Nat.reduceLeDiff, Nat.min_eq_left, *, and_self, Nat.reduceAdd, Nat.zero_add]; done) | split))); clear_value x) | clear_value x) | (apply Reach.via (Dev.bump_reach ..); decide) | (apply Reach.via (Dev.raise_reach ..); decide) | (apply Reach.ite <;> intro) | simp -zeta -iota only [↓Reach.mk_eq] | split | dsimp only | (apply ReachMk.intro <;> first | exact .inr (by decide) | rfl | exact .inl rfl | (refine .inr ⟨by decide, fun hs he => ?_⟩; (repeat' (first | ((try simp only [Fba.Shaped] at *); simp +zetaDelta (maxDischargeDepth := 9) only [Fba.Shaped, Dev.Shaped.fba_ctlTodo, Dev.Shaped.fba_trigTodo, Dev.Shaped.fba_ctl, Dev.Shaped.fba_trig, Dev.Shaped.wr, Dev.Shaped.resetDomains, setAt_length, addAt_length, List.length_map, List.length_replicate, List.length_cons, List.length_nil, List.length_zipWith, List.length_range, List.length_append, List.length_drop, List.length_take, Nat.reduceSub, Nat.reduceLeDiff, Nat.min_eq_left, *, and_self, Nat.reduceAdd, Nat.zero_add]; done) | split)); done) | skip))

theorem Dev.trigNext_reach (d : Dev) (conv : Nat) : Reach (Part.fba) d (Dev.trigNext d conv) := by
  unfold Dev.trigNext
  with_reducible repeat' (first | assumption | exact .refl _ | (extract_lets +onlyGivenNames x; first | (have hf : Fba := x; clear hf; refine Reach.keep_fba (x := x) ?_ (fun hx => ?_); (· intro hs; unfold x; clear x; (repeat' (first | ((try simp only [Fba.Shaped] at *); simp +zetaDelta (maxDischargeDepth := 9) only [Fba.Shaped, Dev.Shaped.fba_ctlTodo, Dev.Shaped.fba_trigTodo, Dev.Shaped.fba_ctl, Dev.Shaped.fba_trig, Dev.Shaped.wr, Dev.Shaped.resetDomains, setAt_length, addAt_length, List.length_map, List.length_replicate, List.length_cons, List.length_nil, List.length_zipWith, List.length_range, List.length_append, List.length_drop, List.length_take, Nat.reduceSub, Nat.reduceLeDiff, Nat.min_eq_left, *, and_self, Nat.reduceAdd, Nat.zero_add]; done) | split))); clear_value x) | clear_value x) | (apply Reach.ite <;> intro) | simp -zeta -iota only [↓Reach.mk_eq] | split | dsimp only | (apply ReachMk.intro <;> first | exact .inr (by decide) | rfl | exact .inl rfl | (refine .inr ⟨by decide, fun hs he => ?_⟩; (repeat' (first | ((try simp only [Fba.Shaped] at *); simp +zetaDelta (maxDischargeDepth := 9) only [Fba.Shaped, Dev.Shaped.fba_ctlTodo, Dev.Shaped.fba_trigTodo, Dev.Shaped.fba_ctl, Dev.Shaped.fba_trig, Dev.Shaped.wr, Dev.Shaped.resetDomains, setAt_length, addAt_length, List.length_map, List.length_replicate, List.length_cons, List.length_nil, List.length_zipWith, List.length_range, List.length_append, List.length_drop, List.length_take, Nat.reduceSub, Nat.reduceLeDiff, Nat.min_eq_left, *, and_self, Nat.reduceAdd, Nat.zero_add]; done) | split)); done) | skip))

theorem Dev.convSlot_reach (d : Dev) (conv ns : Nat) (raw : Int) : Reach (Part.regs ||| Part.inj ||| Part.fl ||| Part.out ||| Part.fba ||| Part.imd) d (Dev.convSlot d conv ns raw) := by
  unfold Dev.convSlot
  with_reducible repeat' (first | assumption | exact .refl _ | (extract_lets +onlyGivenNames x; first | (refine Reach.have (x := x) ?_ (fun hx hxs => ?_); unfold x; clear x; rotate_left; clear_value x) | (have hf : Fba := x; clear hf; refine Reach.keep_fba (x := x) ?_ (fun hx => ?_); (· intro hs; unfold x; clear x; (repeat' (first | ((try simp only [Fba.Shaped] at *); simp +zetaDelta (maxDischargeDepth := 9) only [Fba.Shaped, Dev.Shaped.fba_ctlTodo, Dev.Shaped.fba_trigTodo, Dev.Shaped.fba_ctl, Dev.Shaped.fba_trig, Dev.Shaped.wr, Dev.Shaped.resetDomains, setAt_length, addAt_length, List.length_map, List.length_replicate, List.length_cons, List.length_nil, List.length_zipWith, List.length_range, List.length_append, List.length_drop, List.length_take, Nat.reduceSub, Nat.reduceLeDiff, Nat.min_eq_left, *, and_self, Nat.reduceAdd, Nat.zero_add]; done) | split))); clear_value x) | clear_value x) | (apply Reach.via (Dev.scanSample_reach ..); decide) | simp -zeta -iota only [↓Reach.mk_eq] | split | (apply ReachMk.intro <;> first | exact .inr (by decide) | rfl | exact .inl rfl | (refine .inr ⟨by decide, fun hs he => ?_⟩; (repeat' (first | ((try simp only [Fba.Shaped] at *); simp +zetaDelta (maxDischargeDepth := 9) only [Fba.Shaped, Dev.Shaped.fba_ctlTodo, Dev.Shaped.fba_trigTodo, Dev.Shaped.fba_ctl, Dev.Shaped.fba_trig, Dev.Shaped.wr, Dev.Shaped.resetDomains, setAt_length, addAt_length, List.length_map, List.length_replicate, List.length_cons, List.length_nil, List.length_zipWith, List.length_range, List.length_append, List.length_drop, List.length_take, Nat.reduceSub, Nat.reduceLeDiff, Nat.min_eq_left, *, and_self, Nat.reduceAdd, Nat.zero_add]; done) | split)); done) | skip))

theorem Dev.fbaSlot_reach (d : Dev) (conv : Nat) (raw : Int) : Reach (Part.regs ||| Part.inj ||| Part.fl ||| Part.tm ||| Part.out ||| Part.fba ||| Part.imd) d (Dev.fbaSlot d conv raw) := by
  unfold Dev.fbaSlot
  with_reducible repeat' (first | assumption | exact .refl _ | (extract_lets +onlyGivenNames x; first | (refine Reach.have (x := x) ?_ (fun hx hxs => ?_); unfold x; clear x; rotate_left; clear_value x) | (have hf : Fba := x; clear hf; refine Reach.keep_fba (x := x) ?_ (fun hx => ?_); (· intro hs; unfold x; clear x; (repeat' (first | ((try simp only [Fba.Shaped] at *); simp +zetaDelta (maxDischargeDepth := 9) only [Fba.Shaped, Dev.Shaped.fba_ctlTodo, Dev.Shaped.fba_trigTodo, Dev.Shaped.fba_ctl, Dev.Shaped.fba_trig, Dev.Shaped.wr, Dev.Shaped.resetDomains, setAt_length, addAt_length, List.length_map, List.length_replicate, List.length_cons, List.length_nil, List.length_zipWith, List.length_range, List.length_append, List.length_drop, List.length_take, Nat.reduceSub, Nat.reduceLeDiff, Nat.min_eq_left, *, and_self, Nat.reduceAdd, Nat.zero_add]; done) | split))); clear_value x) | clear_value x) | (apply Reach.via (Dev.advanceTo_reach ..); decide) | (apply Reach.via (Dev.convSlot_reach ..); decide) | (apply Reach.via (Dev.trigNext_reach ..); decide) | simp -zeta -iota only [↓Reach.mk_eq] | dsimp only | (apply ReachMk.intro <;> first | exact .inr (by decide) | rfl | exact .inl rfl | (refine .inr ⟨by decide, fun hs he => ?_⟩; (repeat' (first | ((try simp only [Fba.Shaped] at *); simp +zetaDelta (maxDischargeDepth := 9) only [Fba.Shaped, Dev.Shaped.fba_ctlTodo, Dev.Shaped.fba_trigTodo, Dev.Shaped.fba_ctl, Dev.Shaped.fba_trig, Dev.Shaped.wr, Dev.Shaped.resetDomains, setAt_length, addAt_length, List.length_map, List.length_replicate, List.length_cons, List.length_nil, List.length_zipWith, List.length_range, List.length_append, List.length_drop, List.length_take, Nat.reduceSub, Nat.reduceLeDiff, Nat.min_eq_left, *, and_self, Nat.reduceAdd, Nat.zero_add]; done) | split)); done) | skip))

theorem Dev.fbaAtS_reach (d : Dev) : Reach (Part.fba) d (Dev.fbaAtS d) := by
  unfold Dev.fbaAtS
  with_reducible repeat' (first | assumption | exact .refl _ | (extract_lets +onlyGivenNames x; first | (refine Reach.have (x := x) ?_ (fun hx hxs => ?_); unfold x; clear x; rotate_left; clear_value x) | (have hf : Fba := x; clear hf; refine Reach.keep_fba (x := x) ?_ (fun hx => ?_); (· intro hs; unfold x; clear x; (repeat' (first | ((try simp only [Fba.Shaped] at *); simp +zetaDelta (maxDischargeDepth := 9) only [Fba.Shaped, Dev.Shaped.fba_ctlTodo, Dev.Shaped.fba_trigTodo, Dev.Shaped.fba_ctl, Dev.Shaped.fba_trig, Dev.Shaped.wr, Dev.Shaped.resetDomains, setAt_length, addAt_length, List.length_map, List.length_replicate, List.length_cons, List.length_nil, List.length_zipWith, List.length_range, List.length_append, List.length_drop, List.length_take, Nat.reduceSub, Nat.reduceLeDiff, Nat.min_eq_left, *, and_self, Nat.reduceAdd, Nat.zero_add]; done) | split))); clear_value x) | clear_value x) | simp -zeta -iota only [↓Reach.mk_eq] | split | dsimp only | (apply ReachMk.intro <;> first | exact .inr (by decide) | rfl | exact .inl rfl | (refine .inr ⟨by decide, fun hs he => ?_⟩; (repeat' (first | ((try simp only [Fba.Shaped] at *); simp +zetaDelta (maxDischargeDepth := 9) only [Fba.Shaped, Dev.Shaped.fba_ctlTodo, Dev.Shaped.fba_trigTodo, Dev.Shaped.fba_ctl, Dev.Shaped.fba_trig, Dev.Shaped.wr, Dev.Shaped.resetDomains, setAt_length, addAt_length, List.length_map, List.length_replicate, List.length_cons, List.length_nil, List.length_zipWith, List.length_range, List.length_append, List.length_drop, List.length_take, Nat.reduceSub, Nat.reduceLeDiff, Nat.min_eq_left, *, and_self, Nat.reduceAdd, Nat.zero_add]; done) | split)); done) | skip))

theorem Dev.measLatch_reach (d : Dev) (window : Nat → List Bool) : Reach (Part.regs ||| Part.fl ||| Part.ce) d (Dev.measLatch d window) := by
  unfold Dev.measLatch
  with_reducible repeat' (first | assumption | exact .refl _ | (extract_lets +onlyGivenNames x; first | (refine Reach.have (x := x) ?_ (fun hx hxs => ?_); unfold x; clear x; rotate_left; clear_value x) | clear_value x) | (apply Reach.via (Dev.putSig_reach ..); decide) | (apply Reach.via (Dev.satCount_reach ..); decide) | (apply Dev.forAll_reach <;> intros) | (apply Dev.when_reach <;> intros) | split | dsimp only)

theorem Dev.imdEnable_reach (d : Dev) (n : Nat) : Reach (Part.regs ||| Part.imd) d (Dev.imdEnable d n) := by
  unfold Dev.imdEnable
  with_reducible repeat' (first | assumption | exact .refl _ | (extract_lets +onlyGivenNames x; first | (refine Reach.have (x := x) ?_ (fun hx hxs => ?_); unfold x; clear x; rotate_left; clear_value x) | clear_value x) | (apply Reach.wr'; decide) | (apply Reach.via (Dev.setImd_reach ..); decide) | (apply Reach.ite <;> intro) | simp -zeta -iota only [↓Reach.mk_eq] | split | dsimp only | (apply ReachMk.intro <;> first | exact .inr (by decide) | rfl | exact .inl rfl | skip))

theorem Dev.imdOff_reach (d : Dev) (n : Nat) : Reach (Part.regs ||| Part.imd) d (Dev.imdOff d n) := by
  unfold Dev.imdOff
  with_reducible repeat' (first | assumption | exact .refl _ | (extract_lets +onlyGivenNames x; first | (refine Reach.have (x := x) ?_ (fun hx hxs => ?_); unfold x; clear x; rotate_left; clear_value x) | clear_value x) | (apply Reach.wr'; decide) | (apply Reach.via (Dev.imdEnable_reach ..); decide) | (apply Reach.via (Dev.setImd_reach ..); decide) | (apply Reach.ite <;> intro) | simp -zeta -iota only [↓Reach.mk_eq] | split | (apply ReachMk.intro <;> first | exact .inr (by decide) | rfl | exact .inl rfl | skip))

theorem Dev.imdMeasure_reach (d : Dev) (n riso : Nat) : Reach (Part.regs ||| Part.hmem ||| Part.inj ||| Part.jr ||| Part.rings ||| Part.fl ||| Part.st ||| Part.out ||| Part.imd) d (Dev.imdMeasure d n riso) := by
  unfold Dev.imdMeasure
  with_reducible repeat' (first | assumption | exact .refl _ | (extract_lets +onlyGivenNames x; first | (refine Reach.have (x := x) ?_ (fun hx hxs => ?_); unfold x; clear x; rotate_left; clear_value x) | clear_value x) | (apply Reach.wr'; decide) | (apply Reach.via (Dev.injUse_reach ..); decide) | (apply Reach.via (Dev.raise_reach ..); decide) | (apply Reach.via (Dev.setImd_reach ..); decide) | (apply Reach.via (Dev.setOut_reach ..); decide) | (apply Reach.via (Dev.wrAll_reach ..); decide) | (apply Dev.forAll_reach <;> intros) | (apply Reach.ite <;> intro) | simp -zeta -iota only [↓Reach.mk_eq] | split | dsimp only | (apply ReachMk.intro <;> first | exact .inr (by decide) | rfl | exact .inl rfl | skip))

theorem Dev.imdUnsettled_reach (d : Dev) (n : Nat) : Reach (Part.regs ||| Part.fl ||| Part.st ||| Part.imd) d (Dev.imdUnsettled d n) := by
  unfold Dev.imdUnsettled
  with_reducible repeat' (first | assumption | exact .refl _ | (extract_lets +onlyGivenNames x; first | (refine Reach.have (x := x) ?_ (fun hx hxs => ?_); unfold x; clear x; rotate_left; clear_value x) | clear_value x) | (apply Reach.wr'; decide) | (apply Reach.via (Dev.raise_reach ..); decide) | (apply Reach.via (Dev.setImd_reach ..); decide) | (apply Reach.ite <;> intro) | simp -zeta -iota only [↓Reach.mk_eq] | split | dsimp only | (apply ReachMk.intro <;> first | exact .inr (by decide) | rfl | exact .inl rfl | skip))

theorem Dev.imdHalf_reach (d : Dev) (n : Nat) : Reach (Part.regs ||| Part.hmem ||| Part.inj ||| Part.jr ||| Part.rings ||| Part.fl ||| Part.tm ||| Part.st ||| Part.out ||| Part.imd) d (Dev.imdHalf d n) := by
  unfold Dev.imdHalf
  with_reducible repeat' (first | assumption | exact .refl _ | (extract_lets +onlyGivenNames x; first | (refine Reach.have (x := x) ?_ (fun hx hxs => ?_); unfold x; clear x; rotate_left; clear_value x) | clear_value x) | (apply Reach.via (Dev.advanceTo_reach ..); decide) | (apply Reach.via (Dev.imdMeasure_reach ..); decide) | (apply Reach.via (Dev.imdOff_reach ..); decide) | (apply Reach.via (Dev.imdUnsettled_reach ..); decide) | (apply Reach.via (Dev.setImd_reach ..); decide) | (apply Reach.ite <;> intro) | simp -zeta -iota only [↓Reach.mk_eq] | split | dsimp only | (apply ReachMk.intro <;> first | exact .inr (by decide) | rfl | exact .inl rfl | skip))

end Sys2Proof.Machine
end

