-- ==== Sys2Proof/Laws/ReachContactors.lean ====
section
/-! SUPPORT. What the functions of Machine/Contactors.lean can do to the block. -/

set_option linter.tactic.unusedName false
set_option linter.unusedTactic false
set_option linter.unusedSimpArgs false
set_option linter.unreachableTactic false
set_option maxHeartbeats 800000

namespace Sys2Proof.Machine

theorem Dev.setCoilBit_reach (d : Dev) (f : Nat → Fld) (c : Nat) (v : Bool) : Reach (Part.regs) d (Dev.setCoilBit d f c v) := by
  unfold Dev.setCoilBit
  with_reducible repeat' (first | assumption | exact .refl _ | (extract_lets +onlyGivenNames x; first | (refine Reach.have (x := x) ?_ (fun hx hxs => ?_); unfold x; clear x; rotate_left; clear_value x) | clear_value x) | (apply Reach.wr'; decide) | (apply Reach.ite <;> intro) | split)

theorem Dev.fbSample_reach (d : Dev) (fb : Nat) : Reach (Part.regs ||| Part.ctr) d (Dev.fbSample d fb) := by
  unfold Dev.fbSample
  with_reducible repeat' (first | assumption | exact .refl _ | (extract_lets +onlyGivenNames x; first | (refine Reach.have (x := x) ?_ (fun hx hxs => ?_); unfold x; clear x; rotate_left; clear_value x) | clear_value x) | (apply Reach.via (Dev.setCoilBit_reach ..); decide) | (apply Dev.forAll_reach <;> intros) | (apply Reach.ite <;> intro) | simp -zeta -iota only [↓Reach.mk_eq] | split | dsimp only | (apply ReachMk.intro <;> first | exact .inr (by decide) | rfl | exact .inl rfl | skip))

theorem Dev.coilWeld_reach (d : Dev) (c : Nat) : Reach (Part.regs ||| Part.fl) d (Dev.coilWeld d c) := by
  unfold Dev.coilWeld
  with_reducible repeat' (first | assumption | exact .refl _ | (apply Reach.via (Dev.raise_reach ..); decide) | (apply Reach.via (Dev.setCoilBit_reach ..); decide))

theorem Dev.fbBoot_reach (d : Dev) : Reach (Part.regs) d (Dev.fbBoot d) := by
  unfold Dev.fbBoot
  with_reducible repeat' (first | assumption | exact .refl _ | (extract_lets +onlyGivenNames x; clear_value x) | (apply Reach.via (Dev.setCoilBit_reach ..); decide) | (apply Dev.forAll_reach <;> intros) | (apply Reach.ite <;> intro) | simp -zeta -iota only [↓Reach.mk_eq] | split | (apply ReachMk.intro <;> first | exact .inr (by decide) | rfl | exact .inl rfl | skip))

theorem Dev.weldScan_reach (d : Dev) : Reach (Part.regs ||| Part.fl) d (Dev.weldScan d) := by
  unfold Dev.weldScan
  with_reducible repeat' (first | assumption | exact .refl _ | (apply Reach.via (Dev.coilWeld_reach ..); decide) | (apply Reach.via (Dev.fbBoot_reach ..); decide) | (apply Dev.forAll_reach <;> intros) | (apply Reach.ite <;> intro) | split)

theorem Dev.setEng_reach (d : Dev) (e : Nat) (x : EngRt) : Reach (Part.regs ||| Part.ctr) d (Dev.setEng d e x) := by
  unfold Dev.setEng
  with_reducible repeat' (first | assumption | exact .refl _ | (extract_lets +onlyGivenNames x; clear_value x) | (apply Reach.wr'; decide) | simp -zeta -iota only [↓Reach.mk_eq] | (apply ReachMk.intro <;> first | exact .inr (by decide) | rfl | exact .inl rfl | skip))

theorem Dev.outSeqEnd_reach (d : Dev) (e : Nat) (fail : Option Nat) : Reach (Part.regs ||| Part.out) d (Dev.outSeqEnd d e fail) := by
  unfold Dev.outSeqEnd
  with_reducible repeat' (first | assumption | exact .refl _ | (extract_lets +onlyGivenNames x; first | (refine Reach.have (x := x) ?_ (fun hx hxs => ?_); unfold x; clear x; rotate_left; clear_value x) | clear_value x) | (apply Reach.wr'; decide) | (apply Reach.via (Dev.setOut_reach ..); decide) | (apply Dev.forAll_reach <;> intros) | (apply Reach.ite <;> intro) | simp -zeta -iota only [↓Reach.mk_eq] | split | dsimp only | (apply ReachMk.intro <;> first | exact .inr (by decide) | rfl | exact .inl rfl | skip))

theorem Dev.engNotify_reach (d : Dev) (e : Nat) (fail : Option Nat) : Reach (Part.regs ||| Part.out ||| Part.rt) d (Dev.engNotify d e fail) := by
  unfold Dev.engNotify
  with_reducible repeat' (first | assumption | exact .refl _ | (extract_lets +onlyGivenNames x; first | (refine Reach.have (x := x) ?_ (fun hx hxs => ?_); unfold x; clear x; rotate_left; clear_value x) | clear_value x) | (apply Reach.via (Dev.outSeqEnd_reach ..); decide) | (apply Reach.ite <;> intro) | simp -zeta -iota only [↓Reach.mk_eq] | split | (apply ReachMk.intro <;> first | exact .inr (by decide) | rfl | exact .inl rfl | skip))

theorem Dev.engEnd_reach (d : Dev) (e state : Nat) : Reach (Part.regs ||| Part.out ||| Part.rt) d (Dev.engEnd d e state) := by
  unfold Dev.engEnd
  with_reducible repeat' (first | assumption | exact .refl _ | (apply Reach.wr'; decide) | (apply Reach.via (Dev.bump_reach ..); decide) | (apply Reach.via (Dev.engNotify_reach ..); decide))

theorem Dev.engDone_reach (d : Dev) (e : Nat) : Reach (Part.regs ||| Part.fl ||| Part.out ||| Part.rt) d (Dev.engDone d e) := by
  unfold Dev.engDone
  with_reducible repeat' (first | assumption | exact .refl _ | (apply Reach.wr'; decide) | (apply Reach.via (Dev.bump_reach ..); decide) | (apply Reach.via (Dev.engEnd_reach ..); decide) | (apply Reach.via (Dev.engNotify_reach ..); decide) | (apply Reach.via (Dev.raise_reach ..); decide) | (apply Reach.ite <;> intro) | split | dsimp only)

theorem Dev.stepBegin_reach (d : Dev) (e : Nat) : Reach (Part.regs ||| Part.st ||| Part.ctr ||| Part.met) d (Dev.stepBegin d e).1 := by
  unfold Dev.stepBegin
  with_reducible repeat' (first | assumption | exact .refl _ | (extract_lets +onlyGivenNames x; first | (refine Reach.have (x := x) ?_ (fun hx hxs => ?_); unfold x; clear x; rotate_left; clear_value x) | (have hf : Metr := x; clear hf; refine Reach.keep_met (x := x) ?_ (fun hx => ?_); (· intro hs; unfold x; clear x; (repeat' (first | ((try simp only [Metr.Shaped] at *); simp +zetaDelta (maxDischargeDepth := 9) only [Metr.Shaped, Dev.Shaped.met_retAt, Dev.Shaped.met_tp, Dev.Shaped.wr, Dev.Shaped.resetDomains, setAt_length, addAt_length, List.length_map, List.length_replicate, List.length_cons, List.length_nil, List.length_zipWith, List.length_range, List.length_append, List.length_drop, List.length_take, Nat.reduceSub, Nat.reduceLeDiff, Nat.min_eq_left, *, and_self, Nat.reduceAdd, Nat.zero_add]; done) | split))); clear_value x) | clear_value x) | (apply Reach.via (Dev.setCoilBit_reach ..); decide) | (apply Reach.via (Dev.setEng_reach ..); decide) | (apply Reach.ite <;> intro) | simp -zeta -iota only [↓Reach.mk_eq] | split | dsimp only | (apply ReachMk.intro <;> first | exact .inr (by decide) | rfl | exact .inl rfl | (refine .inr ⟨by decide, fun hs he => ?_⟩; (repeat' (first | ((try simp only [Metr.Shaped] at *); simp +zetaDelta (maxDischargeDepth := 9) only [Metr.Shaped, Dev.Shaped.met_retAt, Dev.Shaped.met_tp, Dev.Shaped.wr, Dev.Shaped.resetDomains, setAt_length, addAt_length, List.length_map, List.length_replicate, List.length_cons, List.length_nil, List.length_zipWith, List.length_range, List.length_append, List.length_drop, List.length_take, Nat.reduceSub, Nat.reduceLeDiff, Nat.min_eq_left, *, and_self, Nat.reduceAdd, Nat.zero_add]; done) | split)); done) | skip))

theorem Dev.stepBegin_reach' {d : Dev} {e : Nat} {re : Dev} {rr1 : Nat} (he : Dev.stepBegin d e = (re, rr1)) : Reach (Part.regs ||| Part.st ||| Part.ctr ||| Part.met) d re := by
  have hreach := Dev.stepBegin_reach d e
  rw [he] at hreach
  exact hreach

theorem Dev.stepBegin_via' {mm : Nat} {aa : Dev} {d : Dev} {e : Nat} {re : Dev} {rr1 : Nat} (hs : Part.sub (Part.regs ||| Part.st ||| Part.ctr ||| Part.met) mm = true) (he : Dev.stepBegin d e = (re, rr1)) (hr : Reach mm aa d) : Reach mm aa re := hr.step (Dev.stepBegin_reach' he) hs

theorem Dev.engFailLast_reach (d : Dev) (e : Nat) : Reach (Part.regs ||| Part.out ||| Part.rt) d (Dev.engFailLast d e) := by
  unfold Dev.engFailLast
  with_reducible repeat' (first | assumption | exact .refl _ | (apply Reach.via (Dev.engEnd_reach ..); decide))

theorem Dev.engFail_reach (d : Dev) (e code : Nat) : Reach (Part.regs ||| Part.fl ||| Part.st ||| Part.out ||| Part.ctr ||| Part.rt ||| Part.met) d (Dev.engFail d e code) := by
  unfold Dev.engFail
  with_reducible repeat' (first | assumption | exact .refl _ | (extract_lets +onlyGivenNames x; first | (refine Reach.have (x := x) ?_ (fun hx hxs => ?_); unfold x; clear x; rotate_left; clear_value x) | (refine Reach.have (x := x.1) ?_ (fun hx hxs => ?_); unfold x; clear x; rotate_left; clear_value x) | (refine Reach.have (x := x.2) ?_ (fun hx hxs => ?_); unfold x; clear x; rotate_left; clear_value x) | (have hf : Metr := x; clear hf; refine Reach.keep_met (x := x) ?_ (fun hx => ?_); (· intro hs; unfold x; clear x; (repeat' (first | ((repeat (rename _ = (_, _) => hz; have hz2 := congrArg Prod.snd hz; have hz1 := congrArg Prod.fst hz; clear hz; dsimp only at hz1 hz2; subst hz1 hz2)); (try simp only [Metr.Shaped] at *); simp +zetaDelta (maxDischargeDepth := 9) only [Reach.shaped (Dev.stepBegin_reach ..), Metr.Shaped, Dev.Shaped.met_retAt, Dev.Shaped.met_tp, Dev.Shaped.wr, Dev.Shaped.resetDomains, setAt_length, addAt_length, List.length_map, List.length_replicate, List.length_cons, List.length_nil, List.length_zipWith, List.length_range, List.length_append, List.length_drop, List.length_take, Nat.reduceSub, Nat.reduceLeDiff, Nat.min_eq_left, *, and_self, Nat.reduceAdd, Nat.zero_add]; done) | split))); clear_value x) | clear_value x) | (apply Reach.wr'; decide) | (apply Reach.via (Dev.engDone_reach ..); decide) | (apply Reach.via (Dev.engFailLast_reach ..); decide) | (apply Reach.via (Dev.outSeqEnd_reach ..); decide) | (apply Reach.via (Dev.raise_reach ..); decide) | (apply Reach.via (Dev.setEng_reach ..); decide) | (apply Reach.via (Dev.stepBegin_reach ..); decide) | (apply Dev.stepBegin_via'; decide; assumption) | (apply Reach.ite <;> intro) | simp -zeta -iota only [↓Reach.mk_eq] | split | dsimp only | (apply ReachMk.intro <;> first | exact .inr (by decide) | rfl | exact .inl rfl | (refine .inr ⟨by decide, fun hs he => ?_⟩; (repeat' (first | ((repeat (rename _ = (_, _) => hz; have hz2 := congrArg Prod.snd hz; have hz1 := congrArg Prod.fst hz; clear hz; dsimp only at hz1 hz2; subst hz1 hz2)); (try simp only [Metr.Shaped] at *); simp +zetaDelta (maxDischargeDepth := 9) only [Reach.shaped (Dev.stepBegin_reach ..), Metr.Shaped, Dev.Shaped.met_retAt, Dev.Shaped.met_tp, Dev.Shaped.wr, Dev.Shaped.resetDomains, setAt_length, addAt_length, List.length_map, List.length_replicate, List.length_cons, List.length_nil, List.length_zipWith, List.length_range, List.length_append, List.length_drop, List.length_take, Nat.reduceSub, Nat.reduceLeDiff, Nat.min_eq_left, *, and_self, Nat.reduceAdd, Nat.zero_add]; done) | split)); done) | skip))

theorem Dev.engBegin_reach (d : Dev) (e : Nat) : Reach (Part.regs ||| Part.fl ||| Part.st ||| Part.out ||| Part.ctr ||| Part.rt ||| Part.met) d (Dev.engBegin d e) := by
  unfold Dev.engBegin
  with_reducible repeat' (first | assumption | exact .refl _ | (extract_lets +onlyGivenNames x; clear_value x) | (apply Reach.via (Dev.engDone_reach ..); decide) | (apply Reach.via (Dev.engFail_reach ..); decide) | (apply Reach.via (Dev.setEng_reach ..); decide) | (apply Reach.via (Dev.stepBegin_reach ..); decide) | (apply Dev.stepBegin_via'; decide; assumption) | (apply Reach.ite <;> intro) | simp -zeta -iota only [↓Reach.mk_eq] | split | (apply ReachMk.intro <;> first | exact .inr (by decide) | rfl | exact .inl rfl | skip))

theorem Dev.engNext_reach (d : Dev) (e : Nat) : Reach (Part.regs ||| Part.fl ||| Part.st ||| Part.out ||| Part.ctr ||| Part.rt ||| Part.met) d (Dev.engNext d e) := by
  unfold Dev.engNext
  with_reducible repeat' (first | assumption | exact .refl _ | (extract_lets +onlyGivenNames x; clear_value x) | (apply Reach.wr'; decide) | (apply Reach.via (Dev.engBegin_reach ..); decide) | (apply Reach.via (Dev.engEnd_reach ..); decide) | (apply Reach.via (Dev.raise_reach ..); decide) | (apply Reach.via (Dev.setEng_reach ..); decide) | (apply Reach.ite <;> intro) | simp -zeta -iota only [↓Reach.mk_eq] | split | dsimp only | (apply ReachMk.intro <;> first | exact .inr (by decide) | rfl | exact .inl rfl | skip))

theorem Dev.engAdvance_reach (d : Dev) (e : Nat) : Reach (Part.regs ||| Part.fl ||| Part.st ||| Part.out ||| Part.ctr ||| Part.rt ||| Part.met) d (Dev.engAdvance d e) := by
  unfold Dev.engAdvance
  with_reducible repeat' (first | assumption | exact .refl _ | (extract_lets +onlyGivenNames x; first | (refine Reach.have (x := x) ?_ (fun hx hxs => ?_); unfold x; clear x; rotate_left; clear_value x) | clear_value x) | (apply Reach.via (Dev.engBegin_reach ..); decide) | (apply Reach.via (Dev.engNext_reach ..); decide) | (apply Reach.via (Dev.wrB_reach ..); decide) | (apply Reach.ite <;> intro) | split)

theorem Dev.ctrDrained_reach (d : Dev) : Reach (Part.regs) d (Dev.ctrDrained d) := by
  unfold Dev.ctrDrained
  with_reducible repeat' (first | assumption | exact .refl _ | (apply Reach.wr'; decide) | (apply Reach.ite <;> intro) | split | dsimp only)

theorem Dev.ctrEnable_reach (d : Dev) (en : Bool) : Reach (Part.regs ||| Part.st) d (Dev.ctrEnable d en) := by
  unfold Dev.ctrEnable
  with_reducible repeat' (first | assumption | exact .refl _ | (extract_lets +onlyGivenNames x; first | (refine Reach.have (x := x) ?_ (fun hx hxs => ?_); unfold x; clear x; rotate_left; clear_value x) | clear_value x) | (apply Reach.wr'; decide) | (apply Reach.via (Dev.ctrDrained_reach ..); decide) | (apply Reach.via (Dev.wrB_reach ..); decide) | (apply Reach.ite <;> intro) | split | dsimp only)

theorem Dev.ctrBoundary_reach (d : Dev) (fb : Nat) : Reach (Part.regs ||| Part.fl ||| Part.tm ||| Part.st ||| Part.out ||| Part.ctr ||| Part.rt ||| Part.met) d (Dev.ctrBoundary d fb) := by
  unfold Dev.ctrBoundary
  with_reducible repeat' (first | assumption | exact .refl _ | (extract_lets +onlyGivenNames x; first | (refine Reach.have (x := x) ?_ (fun hx hxs => ?_); unfold x; clear x; rotate_left; clear_value x) | clear_value x) | (apply Reach.via (Dev.advanceTo_reach ..); decide) | (apply Reach.via (Dev.ctrDrained_reach ..); decide) | (apply Reach.via (Dev.engAdvance_reach ..); decide) | (apply Reach.via (Dev.fbSample_reach ..); decide) | (apply Dev.forAll_reach <;> intros) | simp -zeta -iota only [↓Reach.mk_eq] | (apply ReachMk.intro <;> first | exact .inr (by decide) | rfl | exact .inl rfl | skip))

theorem Dev.ctrAtW_reach (d : Dev) : Reach (Part.regs ||| Part.st ||| Part.ctr ||| Part.met) d (Dev.ctrAtW d) := by
  unfold Dev.ctrAtW
  with_reducible repeat' (first | assumption | exact .refl _ | (extract_lets +onlyGivenNames x; first | (refine Reach.have (x := x) ?_ (fun hx hxs => ?_); unfold x; clear x; rotate_left; clear_value x) | (refine Reach.have (x := x.1) ?_ (fun hx hxs => ?_); unfold x; clear x; rotate_left; clear_value x) | (refine Reach.have (x := x.2) ?_ (fun hx hxs => ?_); unfold x; clear x; rotate_left; clear_value x) | (have hf : Metr := x; clear hf; refine Reach.keep_met (x := x) ?_ (fun hx => ?_); (· intro hs; unfold x; clear x; (repeat' (first | ((try simp only [Metr.Shaped] at *); simp +zetaDelta (maxDischargeDepth := 9) only [Metr.Shaped, Dev.Shaped.met_retAt, Dev.Shaped.met_tp, Dev.Shaped.wr, Dev.Shaped.resetDomains, setAt_length, addAt_length, List.length_map, List.length_replicate, List.length_cons, List.length_nil, List.length_zipWith, List.length_range, List.length_append, List.length_drop, List.length_take, Nat.reduceSub, Nat.reduceLeDiff, Nat.min_eq_left, *, and_self, Nat.reduceAdd, Nat.zero_add]; done) | split))); clear_value x) | clear_value x) | (apply Reach.via (Dev.setEng_reach ..); decide) | (apply Dev.forAll_reach <;> intros) | (apply Reach.ite <;> intro) | simp -zeta -iota only [↓Reach.mk_eq] | split | (apply ReachMk.intro <;> first | exact .inr (by decide) | rfl | exact .inl rfl | (refine .inr ⟨by decide, fun hs he => ?_⟩; (repeat' (first | ((try simp only [Metr.Shaped] at *); simp +zetaDelta (maxDischargeDepth := 9) only [Metr.Shaped, Dev.Shaped.met_retAt, Dev.Shaped.met_tp, Dev.Shaped.wr, Dev.Shaped.resetDomains, setAt_length, addAt_length, List.length_map, List.length_replicate, List.length_cons, List.length_nil, List.length_zipWith, List.length_range, List.length_append, List.length_drop, List.length_take, Nat.reduceSub, Nat.reduceLeDiff, Nat.min_eq_left, *, and_self, Nat.reduceAdd, Nat.zero_add]; done) | split)); done) | skip))

theorem Dev.ctrTimeout_reach (d : Dev) (e : Nat) : Reach (Part.regs ||| Part.fl ||| Part.st ||| Part.out ||| Part.ctr ||| Part.rt ||| Part.met) d (Dev.ctrTimeout d e) := by
  unfold Dev.ctrTimeout
  with_reducible repeat' (first | assumption | exact .refl _ | (extract_lets +onlyGivenNames x; first | (refine Reach.have (x := x) ?_ (fun hx hxs => ?_); unfold x; clear x; rotate_left; clear_value x) | (refine Reach.have (x := x.1) ?_ (fun hx hxs => ?_); unfold x; clear x; rotate_left; clear_value x) | (refine Reach.have (x := x.2) ?_ (fun hx hxs => ?_); unfold x; clear x; rotate_left; clear_value x) | clear_value x) | (apply Reach.wr'; decide) | (apply Reach.via (Dev.coilWeld_reach ..); decide) | (apply Reach.via (Dev.engFail_reach ..); decide) | (apply Reach.via (Dev.engNext_reach ..); decide) | (apply Reach.via (Dev.setCoilBit_reach ..); decide) | (apply Reach.ite <;> intro) | simp -zeta -iota only [↓Reach.mk_eq] | split | dsimp only | (apply ReachMk.intro <;> first | exact .inr (by decide) | rfl | exact .inl rfl | skip))

theorem Dev.ctrStart_reach (d : Dev) (n : Nat) : Reach (Part.regs ||| Part.fl ||| Part.ctr) d (Dev.ctrStart d n).1 := by
  unfold Dev.ctrStart
  with_reducible repeat' (first | assumption | exact .refl _ | (extract_lets +onlyGivenNames x; first | (refine Reach.have (x := x) ?_ (fun hx hxs => ?_); unfold x; clear x; rotate_left; clear_value x) | clear_value x) | (apply Reach.wr'; decide) | (apply Reach.via (Dev.bump_reach ..); decide) | (apply Reach.via (Dev.raise_reach ..); decide) | (apply Reach.via (Dev.setEng_reach ..); decide) | (apply Reach.via (Dev.wrAll_reach ..); decide) | simp -zeta -iota only [↓Reach.mk_eq] | split | dsimp only | (apply ReachMk.intro <;> first | exact .inr (by decide) | rfl | exact .inl rfl | skip))

theorem Dev.ctrStart_reach' {d : Dev} {n : Nat} {re : Dev} {rr1 : Option Nat} (he : Dev.ctrStart d n = (re, rr1)) : Reach (Part.regs ||| Part.fl ||| Part.ctr) d re := by
  have hreach := Dev.ctrStart_reach d n
  rw [he] at hreach
  exact hreach

theorem Dev.ctrStart_via' {mm : Nat} {aa : Dev} {d : Dev} {n : Nat} {re : Dev} {rr1 : Option Nat} (hs : Part.sub (Part.regs ||| Part.fl ||| Part.ctr) mm = true) (he : Dev.ctrStart d n = (re, rr1)) (hr : Reach mm aa d) : Reach mm aa re := hr.step (Dev.ctrStart_reach' he) hs

theorem Dev.coilMismatch_reach (d : Dev) (c : Nat) : Reach (Part.regs ||| Part.fl) d (Dev.coilMismatch d c) := by
  unfold Dev.coilMismatch
  with_reducible repeat' (first | assumption | exact .refl _ | (extract_lets +onlyGivenNames x; first | (refine Reach.have (x := x) ?_ (fun hx hxs => ?_); unfold x; clear x; rotate_left; clear_value x) | clear_value x) | (apply Reach.via (Dev.raise_reach ..); decide) | (apply Reach.via (Dev.setCoilBit_reach ..); decide) | (apply Reach.ite <;> intro) | split | dsimp only)

end Sys2Proof.Machine
end

