-- ==== Sys2Proof/Laws/ReachTelemetry.lean ====
section
/-! SUPPORT. What the functions of Machine/Telemetry.lean can do to the block. -/

set_option linter.tactic.unusedName false
set_option linter.unusedTactic false
set_option linter.unusedSimpArgs false
set_option linter.unreachableTactic false
set_option maxHeartbeats 800000

namespace Sys2Proof.Machine

theorem Dev.setTlmQ_reach (d : Dev) (u q : Nat) (x : TlmQ) : Reach (Part.tlm) d (Dev.setTlmQ d u q x) := by
  unfold Dev.setTlmQ
  with_reducible repeat' (first | assumption | exact .refl _ | (extract_lets +onlyGivenNames x; clear_value x) | simp -zeta -iota only [↓Reach.mk_eq] | (apply ReachMk.intro <;> first | exact .inr (by decide) | rfl | exact .inl rfl | skip))

theorem Dev.tlmSample_reach (d : Dev) (u q : Nat) (v : Int) : Reach (Part.regs ||| Part.tlm) d (Dev.tlmSample d u q v) := by
  unfold Dev.tlmSample
  with_reducible repeat' (first | assumption | exact .refl _ | (extract_lets +onlyGivenNames x; first | (refine Reach.have (x := x) ?_ (fun hx hxs => ?_); unfold x; clear x; rotate_left; clear_value x) | clear_value x) | (apply Reach.via (Dev.setTlmQ_reach ..); decide) | (apply Reach.via (Dev.wrS_reach ..); decide) | (apply Reach.ite <;> intro) | simp -zeta -iota only [↓Reach.mk_eq] | split | dsimp only | (apply ReachMk.intro <;> first | exact .inr (by decide) | rfl | exact .inl rfl | skip))

theorem Dev.tlmUnit_reach (d : Dev) (u : Nat) : Reach (Part.regs ||| Part.tlm) d (Dev.tlmUnit d u) := by
  unfold Dev.tlmUnit
  with_reducible repeat' (first | assumption | exact .refl _ | (extract_lets +onlyGivenNames x; first | (refine Reach.have (x := x) ?_ (fun hx hxs => ?_); unfold x; clear x; rotate_left; clear_value x) | clear_value x) | (apply Reach.via (Dev.tlmSample_reach ..); decide) | (apply Reach.ite <;> intro) | split | dsimp only)

theorem Dev.tlmShow_reach (d : Dev) (u q w : Nat) (whole : Bool) : Reach (Part.regs ||| Part.tlm) d (Dev.tlmShow d u q w whole) := by
  unfold Dev.tlmShow
  with_reducible repeat' (first | assumption | exact .refl _ | (extract_lets +onlyGivenNames x; first | (refine Reach.have (x := x) ?_ (fun hx hxs => ?_); unfold x; clear x; rotate_left; clear_value x) | clear_value x) | (apply Reach.wr'; decide) | (apply Reach.via (Dev.setTlmQ_reach ..); decide) | (apply Reach.ite <;> intro) | simp -zeta -iota only [↓Reach.mk_eq] | split | (apply ReachMk.intro <;> first | exact .inr (by decide) | rfl | exact .inl rfl | skip))

theorem Dev.tlmFold_reach (d : Dev) (u q : Nat) : Reach (Part.tlm) d (Dev.tlmFold d u q) := by
  unfold Dev.tlmFold
  with_reducible repeat' (first | assumption | exact .refl _ | (extract_lets +onlyGivenNames x; first | (refine Reach.have (x := x) ?_ (fun hx hxs => ?_); unfold x; clear x; rotate_left; clear_value x) | clear_value x) | (apply Reach.via (Dev.setTlmQ_reach ..); decide) | (apply Reach.ite <;> intro) | simp -zeta -iota only [↓Reach.mk_eq] | split | dsimp only | (apply ReachMk.intro <;> first | exact .inr (by decide) | rfl | exact .inl rfl | skip))

theorem Dev.tlmCell_reach (d : Dev) (u w ms : Nat) : Reach (Part.fl) d (Dev.tlmCell d u w ms) := by
  unfold Dev.tlmCell
  with_reducible repeat' (first | assumption | exact .refl _ | (apply Reach.via (Dev.sendF_reach ..); decide) | (apply Reach.ite <;> intro) | simp -zeta -iota only [↓Reach.mk_eq] | split | dsimp only | (apply ReachMk.intro <;> first | exact .inr (by decide) | rfl | exact .inl rfl | skip))

theorem Dev.tlmClose_reach (d : Dev) (u old new : Nat) : Reach (Part.regs ||| Part.fl ||| Part.tlm) d (Dev.tlmClose d u old new) := by
  unfold Dev.tlmClose
  with_reducible repeat' (first | assumption | exact .refl _ | (extract_lets +onlyGivenNames x; first | (refine Reach.have (x := x) ?_ (fun hx hxs => ?_); unfold x; clear x; rotate_left; clear_value x) | clear_value x) | (apply Reach.via (Dev.tlmCell_reach ..); decide) | (apply Reach.via (Dev.tlmFold_reach ..); decide) | (apply Reach.via (Dev.tlmShow_reach ..); decide) | (apply Dev.forAll_reach <;> intros) | (apply Reach.ite <;> intro) | split | dsimp only)

theorem Dev.tlmAtW_reach (d : Dev) : Reach (Part.regs ||| Part.fl ||| Part.tlm) d (Dev.tlmAtW d) := by
  unfold Dev.tlmAtW
  with_reducible repeat' (first | assumption | exact .refl _ | (extract_lets +onlyGivenNames x; first | (refine Reach.have (x := x) ?_ (fun hx hxs => ?_); unfold x; clear x; rotate_left; clear_value x) | clear_value x) | (apply Reach.via (Dev.tlmClose_reach ..); decide) | (apply Reach.via (Dev.tlmUnit_reach ..); decide) | (apply Dev.forAll_reach <;> intros) | (apply Reach.ite <;> intro) | simp -zeta -iota only [↓Reach.mk_eq] | split | dsimp only | (apply ReachMk.intro <;> first | exact .inr (by decide) | rfl | exact .inl rfl | skip))

theorem Dev.tlmAc_reach (d : Dev) (tn : Nat) (p : Int) : Reach (Part.regs ||| Part.fl ||| Part.tlm) d (Dev.tlmAc d tn p) := by
  unfold Dev.tlmAc
  with_reducible repeat' (first | assumption | exact .refl _ | (extract_lets +onlyGivenNames x; first | (refine Reach.have (x := x) ?_ (fun hx hxs => ?_); unfold x; clear x; rotate_left; clear_value x) | clear_value x) | (apply Reach.via (Dev.tlmClose_reach ..); decide) | (apply Reach.via (Dev.tlmSample_reach ..); decide) | (apply Reach.ite <;> intro) | simp -zeta -iota only [↓Reach.mk_eq] | split | (apply ReachMk.intro <;> first | exact .inr (by decide) | rfl | exact .inl rfl | skip))

theorem Dev.shedBlock_reach (d : Dev) (b : Nat) : Reach (Part.regs ||| Part.dgr ||| Part.pwm) d (Dev.shedBlock d b) := by
  unfold Dev.shedBlock
  with_reducible repeat' (first | assumption | exact .refl _ | (extract_lets +onlyGivenNames x; first | (refine Reach.have (x := x) ?_ (fun hx hxs => ?_); unfold x; clear x; rotate_left; clear_value x) | clear_value x) | (apply Reach.wr'; decide) | (apply Reach.via (Dev.grpDivReq_reach ..); decide) | (apply Reach.via (Dev.setDblk_reach ..); decide) | (apply Reach.via (Dev.wrAll_reach ..); decide) | (apply Dev.forAll_reach <;> intros) | (apply Reach.ite <;> intro) | simp -zeta -iota only [↓Reach.mk_eq] | split | dsimp only | (apply ReachMk.intro <;> first | exact .inr (by decide) | rfl | exact .inl rfl | skip))

theorem Dev.shedEval_reach (d : Dev) : Reach (Part.regs ||| Part.dgr ||| Part.pwm) d (Dev.shedEval d) := by
  unfold Dev.shedEval
  with_reducible repeat' (first | assumption | exact .refl _ | (extract_lets +onlyGivenNames x; first | (refine Reach.have (x := x) ?_ (fun hx hxs => ?_); unfold x; clear x; rotate_left; clear_value x) | clear_value x) | (apply Reach.via (Dev.shedBlock_reach ..); decide) | (apply Dev.forAll_reach <;> intros) | (apply Reach.ite <;> intro) | split)

end Sys2Proof.Machine
end

