-- ==== Sys2Proof/Laws/ReachShare.lean ====
section
/-! SUPPORT. What the functions of Machine/Share.lean can do to the block. -/

set_option linter.tactic.unusedName false
set_option linter.unusedTactic false
set_option linter.unusedSimpArgs false
set_option linter.unreachableTactic false
set_option maxHeartbeats 800000

namespace Sys2Proof.Machine

theorem Dev.setMember_reach (d : Dev) (m : Nat) (x : ShrMember) : Reach (Part.shr) d (Dev.setMember d m x) := by
  unfold Dev.setMember
  with_reducible repeat' (first | assumption | exact .refl _ | (extract_lets +onlyGivenNames x; clear_value x) | simp -zeta -iota only [↓Reach.mk_eq] | (apply ReachMk.intro <;> first | exact .inr (by decide) | rfl | exact .inl rfl | skip))

theorem Dev.nextatWrite_reach (d : Dev) (v : Nat) : Reach (Part.regs ||| Part.shr) d (Dev.nextatWrite d v) := by
  unfold Dev.nextatWrite
  with_reducible repeat' (first | assumption | exact .refl _ | (extract_lets +onlyGivenNames x; first | (refine Reach.have (x := x) ?_ (fun hx hxs => ?_); unfold x; clear x; rotate_left; clear_value x) | clear_value x) | (apply Reach.wr'; decide) | (apply Reach.ite <;> intro) | simp -zeta -iota only [↓Reach.mk_eq] | split | dsimp only | (apply ReachMk.intro <;> first | exact .inr (by decide) | rfl | exact .inl rfl | skip))

theorem Dev.nextApply_reach (d : Dev) (f : Nat) : Reach (Part.regs ||| Part.fl ||| Part.shr) d (Dev.nextApply d f) := by
  unfold Dev.nextApply
  with_reducible repeat' (first | assumption | exact .refl _ | (extract_lets +onlyGivenNames x; first | (refine Reach.have (x := x) ?_ (fun hx hxs => ?_); unfold x; clear x; rotate_left; clear_value x) | clear_value x) | (apply Reach.via (Dev.raise_reach ..); decide) | (apply Reach.via (Dev.wrAll_reach ..); decide) | (apply Reach.ite <;> intro) | simp -zeta -iota only [↓Reach.mk_eq] | split | (apply ReachMk.intro <;> first | exact .inr (by decide) | rfl | exact .inl rfl | skip))

theorem Dev.derateSync_reach (d : Dev) : Reach (Part.regs ||| Part.shr) d (Dev.derateSync d) := by
  unfold Dev.derateSync
  with_reducible repeat' (first | assumption | exact .refl _ | (extract_lets +onlyGivenNames x; first | (refine Reach.have (x := x) ?_ (fun hx hxs => ?_); unfold x; clear x; rotate_left; clear_value x) | clear_value x) | (apply Reach.wr'; decide) | (apply Reach.ite <;> intro) | simp -zeta -iota only [↓Reach.mk_eq] | split | dsimp only | (apply ReachMk.intro <;> first | exact .inr (by decide) | rfl | exact .inl rfl | skip))

theorem Dev.derateStep_reach (d : Dev) : Reach (Part.regs ||| Part.shr) d (Dev.derateStep d) := by
  unfold Dev.derateStep
  with_reducible repeat' (first | assumption | exact .refl _ | (extract_lets +onlyGivenNames x; first | (refine Reach.have (x := x) ?_ (fun hx hxs => ?_); unfold x; clear x; rotate_left; clear_value x) | clear_value x) | (apply Reach.wr'; decide) | (apply Reach.via (Dev.derateSync_reach ..); decide) | (apply Reach.ite <;> intro) | simp -zeta -iota only [↓Reach.mk_eq] | split | (apply ReachMk.intro <;> first | exact .inr (by decide) | rfl | exact .inl rfl | skip))

theorem Dev.shrForm_reach (d : Dev) (f : Nat) : Reach (Part.regs ||| Part.shr) d (Dev.shrForm d f) := by
  unfold Dev.shrForm
  with_reducible repeat' (first | assumption | exact .refl _ | (extract_lets +onlyGivenNames x; first | (refine Reach.have (x := x) ?_ (fun hx hxs => ?_); unfold x; clear x; rotate_left; clear_value x) | clear_value x) | (apply Reach.wr'; decide) | (apply Reach.via (Dev.wrB_reach ..); decide) | (apply Reach.via (Dev.wrS_reach ..); decide) | (apply Dev.forAll_reach <;> intros) | (apply Reach.ite <;> intro) | simp -zeta -iota only [↓Reach.mk_eq] | split | dsimp only | (apply ReachMk.intro <;> first | exact .inr (by decide) | rfl | exact .inl rfl | skip))

theorem Dev.recUse_reach (d : Dev) (r : ShrRec) : Reach (Part.fl ||| Part.shr) d (Dev.recUse d r) := by
  unfold Dev.recUse
  with_reducible repeat' (first | assumption | exact .refl _ | (extract_lets +onlyGivenNames x; clear_value x) | (apply Reach.via (Dev.raise_reach ..); decide) | (apply Reach.ite <;> intro) | simp -zeta -iota only [↓Reach.mk_eq] | split | (apply ReachMk.intro <;> first | exact .inr (by decide) | rfl | exact .inl rfl | skip))

theorem Dev.recCheck_reach (d : Dev) (bs : List Byte) : Reach (Part.regs ||| Part.fl ||| Part.shr) d (Dev.recCheck d bs) := by
  unfold Dev.recCheck
  with_reducible repeat' (first | assumption | exact .refl _ | (extract_lets +onlyGivenNames x; first | (refine Reach.have (x := x) ?_ (fun hx hxs => ?_); unfold x; clear x; rotate_left; clear_value x) | clear_value x) | (apply Reach.via (Dev.bump_reach ..); decide) | (apply Reach.via (Dev.raise_reach ..); decide) | (apply Reach.via (Dev.recUse_reach ..); decide) | (apply Reach.via (Dev.setMember_reach ..); decide) | (apply Reach.ite <;> intro) | simp -zeta -iota only [↓Reach.mk_eq] | split | dsimp only | (apply ReachMk.intro <;> first | exact .inr (by decide) | rfl | exact .inl rfl | skip))

theorem Dev.recReceive_reach (d : Dev) (bs : List Byte) : Reach (Part.regs ||| Part.fl ||| Part.shr) d (Dev.recReceive d bs) := by
  unfold Dev.recReceive
  with_reducible repeat' (first | assumption | exact .refl _ | (extract_lets +onlyGivenNames x; clear_value x) | (apply Reach.via (Dev.recCheck_reach ..); decide) | (apply Reach.ite <;> intro) | simp -zeta -iota only [↓Reach.mk_eq] | split | (apply ReachMk.intro <;> first | exact .inr (by decide) | rfl | exact .inl rfl | skip))

theorem Dev.recEarly_reach (d : Dev) : Reach (Part.regs ||| Part.fl ||| Part.shr) d (Dev.recEarly d) := by
  unfold Dev.recEarly
  with_reducible repeat' (first | assumption | exact .refl _ | (extract_lets +onlyGivenNames x; first | (refine Reach.have (x := x) ?_ (fun hx hxs => ?_); unfold x; clear x; rotate_left; clear_value x) | clear_value x) | (apply Reach.via (Dev.recCheck_reach ..); decide) | (apply Dev.forAll_reach <;> intros) | simp -zeta -iota only [↓Reach.mk_eq] | split | (apply ReachMk.intro <;> first | exact .inr (by decide) | rfl | exact .inl rfl | skip))

theorem Dev.shrStale_reach (d : Dev) (ms : Nat) : Reach (Part.shr) d (Dev.shrStale d ms) := by
  unfold Dev.shrStale
  with_reducible repeat' (first | assumption | exact .refl _ | (extract_lets +onlyGivenNames x; clear_value x) | (apply Reach.ite <;> intro) | simp -zeta -iota only [↓Reach.mk_eq] | split | dsimp only | (apply ReachMk.intro <;> first | exact .inr (by decide) | rfl | exact .inl rfl | skip))

theorem Dev.shrFrame_reach (d : Dev) (ms : Nat) : Reach (Part.regs ||| Part.fl ||| Part.shr) d (Dev.shrFrame d ms) := by
  unfold Dev.shrFrame
  with_reducible repeat' (first | assumption | exact .refl _ | (extract_lets +onlyGivenNames x; first | (refine Reach.have (x := x) ?_ (fun hx hxs => ?_); unfold x; clear x; rotate_left; clear_value x) | clear_value x) | (apply Reach.via (Dev.nextApply_reach ..); decide) | (apply Reach.via (Dev.recEarly_reach ..); decide) | (apply Reach.via (Dev.shrForm_reach ..); decide) | (apply Reach.via (Dev.shrStale_reach ..); decide) | (apply Reach.ite <;> intro) | simp -zeta -iota only [↓Reach.mk_eq] | split | (apply ReachMk.intro <;> first | exact .inr (by decide) | rfl | exact .inl rfl | skip))

theorem Dev.memberUsed_reach (d : Dev) (r : ShrRec) (la f : Nat) : Reach (Part.regs ||| Part.fl ||| Part.shr ||| Part.rt) d (Dev.memberUsed d r la f) := by
  unfold Dev.memberUsed
  with_reducible repeat' (first | assumption | exact .refl _ | (extract_lets +onlyGivenNames x; first | (refine Reach.have (x := x) ?_ (fun hx hxs => ?_); unfold x; clear x; rotate_left; clear_value x) | clear_value x) | (apply Reach.via (Dev.raise_reach ..); decide) | (apply Reach.via (Dev.setMember_reach ..); decide) | (apply Reach.via (Dev.wrAll_reach ..); decide) | (apply Reach.ite <;> intro) | simp -zeta -iota only [↓Reach.mk_eq] | split | dsimp only | (apply ReachMk.intro <;> first | exact .inr (by decide) | rfl | exact .inl rfl | skip))

theorem Dev.memberMissing_reach (d : Dev) (m f : Nat) : Reach (Part.regs ||| Part.fl ||| Part.shr) d (Dev.memberMissing d m f) := by
  unfold Dev.memberMissing
  with_reducible repeat' (first | assumption | exact .refl _ | (extract_lets +onlyGivenNames x; first | (refine Reach.have (x := x) ?_ (fun hx hxs => ?_); unfold x; clear x; rotate_left; clear_value x) | clear_value x) | (apply Reach.wr'; decide) | (apply Reach.via (Dev.bump_reach ..); decide) | (apply Reach.via (Dev.raise_reach ..); decide) | (apply Reach.via (Dev.setMember_reach ..); decide) | (apply Reach.ite <;> intro) | simp -zeta -iota only [↓Reach.mk_eq] | split | dsimp only | (apply ReachMk.intro <;> first | exact .inr (by decide) | rfl | exact .inl rfl | skip))

theorem Dev.memberIdle_reach (d : Dev) (m : Nat) : Reach (Part.regs ||| Part.shr) d (Dev.memberIdle d m) := by
  unfold Dev.memberIdle
  with_reducible repeat' (first | assumption | exact .refl _ | (extract_lets +onlyGivenNames x; first | (refine Reach.have (x := x) ?_ (fun hx hxs => ?_); unfold x; clear x; rotate_left; clear_value x) | clear_value x) | (apply Reach.wr'; decide) | (apply Reach.via (Dev.bump_reach ..); decide) | (apply Reach.via (Dev.setMember_reach ..); decide) | (apply Reach.ite <;> intro) | simp -zeta -iota only [↓Reach.mk_eq] | split | (apply ReachMk.intro <;> first | exact .inr (by decide) | rfl | exact .inl rfl | skip))

theorem Dev.allocDone_reach (d : Dev) (own : ShrRec) (es : List FillEntry) (missing : List Nat) : Reach (Part.regs ||| Part.fl ||| Part.shr) d (Dev.allocDone d own es missing) := by
  unfold Dev.allocDone
  with_reducible repeat' (first | assumption | exact .refl _ | (extract_lets +onlyGivenNames x; first | (refine Reach.have (x := x) ?_ (fun hx hxs => ?_); unfold x; clear x; rotate_left; clear_value x) | (have hf := fun y => (x y : Dev); clear hf; unfold x; clear_value x) | (have hf := fun y z => (x y z : Dev); clear hf; unfold x; clear_value x) | clear_value x) | (apply Reach.wr'; decide) | (apply Reach.via (Dev.raise_reach ..); decide) | (apply Reach.via (Dev.wrB_reach ..); decide) | (apply Dev.forAll_reach <;> intros) | (apply Reach.ite <;> intro) | simp -zeta -iota only [↓Reach.mk_eq] | split | dsimp only | (apply ReachMk.intro <;> first | exact .inr (by decide) | rfl | exact .inl rfl | skip))

theorem Dev.shrCompute_reach (d : Dev) (own : ShrRec) : Reach (Part.regs ||| Part.fl ||| Part.shr ||| Part.rt) d (Dev.shrCompute d own) := by
  unfold Dev.shrCompute
  with_reducible repeat' (first | assumption | exact .refl _ | (extract_lets +onlyGivenNames x; first | (refine Reach.have (x := x) ?_ (fun hx hxs => ?_); unfold x; clear x; rotate_left; clear_value x) | (have hf := fun y => (x y : Dev); clear hf; unfold x; clear_value x) | (have hf := fun y z => (x y z : Dev); clear hf; unfold x; clear_value x) | clear_value x) | (apply Reach.via (Dev.allocDone_reach ..); decide) | (apply Reach.via (Dev.memberIdle_reach ..); decide) | (apply Reach.via (Dev.memberMissing_reach ..); decide) | (apply Reach.via (Dev.memberUsed_reach ..); decide) | (apply Reach.via (Dev.wrAll_reach ..); decide) | (apply Reach.via (Dev.wrPair_reach ..); decide) | (apply Dev.forAll_reach <;> intros) | (apply Reach.ite <;> intro) | simp -zeta -iota only [↓Reach.mk_eq] | split | (apply ReachMk.intro <;> first | exact .inr (by decide) | rfl | exact .inl rfl | skip))

theorem Dev.injFrames_reach (d : Dev) : Reach (Part.regs ||| Part.hmem ||| Part.inj ||| Part.jr ||| Part.rings ||| Part.fl) d (Dev.injFrames d) := by
  unfold Dev.injFrames
  with_reducible repeat' (first | assumption | exact .refl _ | (apply Reach.via (Dev.injUse_reach ..); decide) | (apply Dev.forAll_reach <;> intros) | split)

theorem Dev.shrCutoff_reach (d : Dev) : Reach (Part.regs ||| Part.hmem ||| Part.inj ||| Part.jr ||| Part.rings ||| Part.fl ||| Part.tm ||| Part.shr ||| Part.rt) d (Dev.shrCutoff d) := by
  unfold Dev.shrCutoff
  with_reducible repeat' (first | assumption | exact .refl _ | (extract_lets +onlyGivenNames x; first | (refine Reach.have (x := x) ?_ (fun hx hxs => ?_); unfold x; clear x; rotate_left; clear_value x) | clear_value x) | (apply Reach.via (Dev.advanceTo_reach ..); decide) | (apply Reach.via (Dev.injFrames_reach ..); decide) | (apply Reach.via (Dev.shrCompute_reach ..); decide) | simp -zeta -iota only [↓Reach.mk_eq] | split | (apply ReachMk.intro <;> first | exact .inr (by decide) | rfl | exact .inl rfl | skip))

theorem Dev.guardSync_reach (d : Dev) : Reach (Part.regs ||| Part.fl ||| Part.shr) d (Dev.guardSync d) := by
  unfold Dev.guardSync
  with_reducible repeat' (first | assumption | exact .refl _ | (extract_lets +onlyGivenNames x; first | (refine Reach.have (x := x) ?_ (fun hx hxs => ?_); unfold x; clear x; rotate_left; clear_value x) | clear_value x) | (apply Reach.via (Dev.raise_reach ..); decide) | (apply Reach.via (Dev.wrB_reach ..); decide) | (apply Reach.ite <;> intro) | simp -zeta -iota only [↓Reach.mk_eq] | split | (apply ReachMk.intro <;> first | exact .inr (by decide) | rfl | exact .inl rfl | skip))

theorem Dev.guardFeed_reach (d : Dev) (inst : Nat) (p : Int) : Reach (Part.shr) d (Dev.guardFeed d inst p) := by
  unfold Dev.guardFeed
  with_reducible repeat' (first | assumption | exact .refl _ | (extract_lets +onlyGivenNames x; first | (refine Reach.have (x := x) ?_ (fun hx hxs => ?_); unfold x; clear x; rotate_left; clear_value x) | clear_value x) | (apply Reach.ite <;> intro) | simp -zeta -iota only [↓Reach.mk_eq] | split | (apply ReachMk.intro <;> first | exact .inr (by decide) | rfl | exact .inl rfl | skip))

theorem Dev.guardAc_reach (d : Dev) (inst : Nat) (p : Int) : Reach (Part.shr) d (Dev.guardAc d inst p) := by
  unfold Dev.guardAc
  with_reducible repeat' (first | assumption | exact .refl _ | (extract_lets +onlyGivenNames x; first | (refine Reach.have (x := x) ?_ (fun hx hxs => ?_); unfold x; clear x; rotate_left; clear_value x) | clear_value x) | (apply Reach.ite <;> intro) | simp -zeta -iota only [↓Reach.mk_eq] | split | (apply ReachMk.intro <;> first | exact .inr (by decide) | rfl | exact .inl rfl | skip))

theorem Dev.guardSample_reach (d : Dev) (x : GuardSample) : Reach (Part.regs ||| Part.fl ||| Part.shr) d (Dev.guardSample d x) := by
  unfold Dev.guardSample
  with_reducible repeat' (first | assumption | exact .refl _ | (extract_lets +onlyGivenNames x; first | (refine Reach.have (x := x) ?_ (fun hx hxs => ?_); unfold x; clear x; rotate_left; clear_value x) | clear_value x) | (apply Reach.wr'; decide) | (apply Reach.via (Dev.raise_reach ..); decide) | (apply Reach.via (Dev.wrS_reach ..); decide) | (apply Reach.ite <;> intro) | simp -zeta -iota only [↓Reach.mk_eq] | split | dsimp only | (apply ReachMk.intro <;> first | exact .inr (by decide) | rfl | exact .inl rfl | skip))

theorem Dev.handOff_reach (d : Dev) : Reach (Part.regs ||| Part.fl ||| Part.shr) d (Dev.handOff d) := by
  unfold Dev.handOff
  with_reducible repeat' (first | assumption | exact .refl _ | (extract_lets +onlyGivenNames x; first | (refine Reach.have (x := x) ?_ (fun hx hxs => ?_); unfold x; clear x; rotate_left; clear_value x) | clear_value x) | (apply Reach.wr'; decide) | (apply Reach.via (Dev.raise_reach ..); decide) | (apply Reach.ite <;> intro) | simp -zeta -iota only [↓Reach.mk_eq] | split | dsimp only | (apply ReachMk.intro <;> first | exact .inr (by decide) | rfl | exact .inl rfl | skip))

theorem Dev.guardAtLatch_reach (d : Dev) : Reach (Part.regs ||| Part.fl ||| Part.shr) d (Dev.guardAtLatch d) := by
  unfold Dev.guardAtLatch
  with_reducible repeat' (first | assumption | exact .refl _ | (extract_lets +onlyGivenNames x; first | (refine Reach.have (x := x) ?_ (fun hx hxs => ?_); unfold x; clear x; rotate_left; clear_value x) | clear_value x) | (apply Reach.via (Dev.guardSample_reach ..); decide) | (apply Dev.forAll_reach <;> intros) | simp -zeta -iota only [↓Reach.mk_eq] | split | (apply ReachMk.intro <;> first | exact .inr (by decide) | rfl | exact .inl rfl | skip))

theorem Dev.dampOne_reach (d : Dev) (n : Nat) : Reach (Part.regs ||| Part.ce) d (Dev.dampOne d n) := by
  unfold Dev.dampOne
  with_reducible repeat' (first | assumption | exact .refl _ | (extract_lets +onlyGivenNames x; first | (refine Reach.have (x := x) ?_ (fun hx hxs => ?_); unfold x; clear x; rotate_left; clear_value x) | clear_value x) | (apply Reach.wr'; decide) | (apply Reach.via (Dev.putSig_reach ..); decide))

theorem Dev.damperLatch_reach (d : Dev) : Reach (Part.regs ||| Part.fl ||| Part.ce ||| Part.shr) d (Dev.damperLatch d) := by
  unfold Dev.damperLatch
  with_reducible repeat' (first | assumption | exact .refl _ | (extract_lets +onlyGivenNames x; first | (refine Reach.have (x := x) ?_ (fun hx hxs => ?_); unfold x; clear x; rotate_left; clear_value x) | clear_value x) | (apply Reach.via (Dev.dampOne_reach ..); decide) | (apply Reach.via (Dev.derateSync_reach ..); decide) | (apply Reach.via (Dev.guardAtLatch_reach ..); decide) | (apply Reach.via (Dev.guardSync_reach ..); decide) | (apply Reach.via (Dev.handOff_reach ..); decide) | (apply Reach.via (Dev.putSig_reach ..); decide) | (apply Reach.via (Dev.wrS_reach ..); decide) | (apply Dev.forAll_reach <;> intros) | split | dsimp only)

theorem Dev.requestKey_reach (d : Dev) (b key : Nat) : Reach (Part.regs ||| Part.dgr) d (Dev.requestKey d b key) := by
  unfold Dev.requestKey
  with_reducible repeat' (first | assumption | exact .refl _ | (apply Reach.via (Dev.varReq_reach ..); decide) | dsimp only)

theorem Dev.rtPhase_reach (d : Dev) (p : Nat) : Reach (Part.regs ||| Part.rt) d (Dev.rtPhase d p) := by
  unfold Dev.rtPhase
  with_reducible repeat' (first | assumption | exact .refl _ | (extract_lets +onlyGivenNames x; clear_value x) | (apply Reach.wr'; decide) | simp -zeta -iota only [↓Reach.mk_eq] | (apply ReachMk.intro <;> first | exact .inr (by decide) | rfl | exact .inl rfl | skip))

theorem Dev.rtAbandon_reach (d : Dev) : Reach (Part.regs ||| Part.fl ||| Part.rt) d (Dev.rtAbandon d) := by
  unfold Dev.rtAbandon
  with_reducible repeat' (first | assumption | exact .refl _ | (apply Reach.via (Dev.raise_reach ..); decide) | (apply Reach.via (Dev.rtPhase_reach ..); decide))

theorem Dev.routePlan_reach (d : Dev) : Reach (Part.regs ||| Part.dgr ||| Part.rt) d (Dev.routePlan d) := by
  unfold Dev.routePlan
  with_reducible repeat' (first | assumption | exact .refl _ | (extract_lets +onlyGivenNames x; first | (refine Reach.have (x := x) ?_ (fun hx hxs => ?_); unfold x; clear x; rotate_left; clear_value x) | clear_value x) | (apply Reach.via (Dev.requestKey_reach ..); decide) | (apply Reach.via (Dev.wrAll_reach ..); decide) | (apply Reach.ite <;> intro) | simp -zeta -iota only [↓Reach.mk_eq] | split | dsimp only | (apply ReachMk.intro <;> first | exact .inr (by decide) | rfl | exact .inl rfl | skip))

theorem Dev.rtSwitch_reach (d : Dev) : Reach (Part.regs ||| Part.fl ||| Part.ctr ||| Part.rt) d (Dev.rtSwitch d) := by
  unfold Dev.rtSwitch
  with_reducible repeat' (first | assumption | exact .refl _ | (extract_lets +onlyGivenNames x; first | (refine Reach.have (x := x) ?_ (fun hx hxs => ?_); unfold x; clear x; rotate_left; clear_value x) | (refine Reach.have (x := x.1) ?_ (fun hx hxs => ?_); unfold x; clear x; rotate_left; clear_value x) | (refine Reach.have (x := x.2) ?_ (fun hx hxs => ?_); unfold x; clear x; rotate_left; clear_value x) | clear_value x) | (apply Reach.via (Dev.ctrStart_reach ..); decide) | (apply Dev.ctrStart_via'; decide; assumption) | (apply Reach.via (Dev.rtAbandon_reach ..); decide) | (apply Reach.via (Dev.rtPhase_reach ..); decide) | simp -zeta -iota only [↓Reach.mk_eq] | split | (apply ReachMk.intro <;> first | exact .inr (by decide) | rfl | exact .inl rfl | skip))

theorem Dev.routeAtW_reach (d : Dev) : Reach (Part.regs ||| Part.fl ||| Part.ctr ||| Part.rt) d (Dev.routeAtW d) := by
  unfold Dev.routeAtW
  with_reducible repeat' (first | assumption | exact .refl _ | (extract_lets +onlyGivenNames x; clear_value x) | (apply Reach.via (Dev.rtSwitch_reach ..); decide) | (apply Reach.ite <;> intro) | simp -zeta -iota only [↓Reach.mk_eq] | split | (apply ReachMk.intro <;> first | exact .inr (by decide) | rfl | exact .inl rfl | skip))

theorem Dev.routeAtS_reach (d : Dev) : Reach (Part.regs ||| Part.fl ||| Part.dgr ||| Part.rt) d (Dev.routeAtS d) := by
  unfold Dev.routeAtS
  with_reducible repeat' (first | assumption | exact .refl _ | (extract_lets +onlyGivenNames x; clear_value x) | (apply Reach.via (Dev.bump_reach ..); decide) | (apply Reach.via (Dev.raise_reach ..); decide) | (apply Reach.via (Dev.requestKey_reach ..); decide) | (apply Reach.via (Dev.rtAbandon_reach ..); decide) | (apply Reach.via (Dev.rtPhase_reach ..); decide) | (apply Reach.ite <;> intro) | simp -zeta -iota only [↓Reach.mk_eq] | split | dsimp only | (apply ReachMk.intro <;> first | exact .inr (by decide) | rfl | exact .inl rfl | skip))

theorem Dev.routeTimeout_reach (d : Dev) : Reach (Part.regs ||| Part.fl ||| Part.dgr ||| Part.rt) d (Dev.routeTimeout d) := by
  unfold Dev.routeTimeout
  with_reducible repeat' (first | assumption | exact .refl _ | (apply Reach.via (Dev.requestKey_reach ..); decide) | (apply Reach.via (Dev.rtAbandon_reach ..); decide) | (apply Reach.ite <;> intro) | split)

end Sys2Proof.Machine
end

