-- ==== Sys2Proof/Laws/ReachMetrology.lean ====
section
/-! SUPPORT. What the functions of Machine/Metrology.lean can do to the block. -/

set_option linter.tactic.unusedName false
set_option linter.unusedTactic false
set_option linter.unusedSimpArgs false
set_option linter.unreachableTactic false
set_option maxHeartbeats 800000

namespace Sys2Proof.Machine

theorem Dev.metFault_reach (d : Dev) (j : Nat) : Reach (Part.fl ||| Part.met) d (Dev.metFault d j) := by
  unfold Dev.metFault
  with_reducible repeat' (first | assumption | exact .refl _ | (extract_lets +onlyGivenNames x; first | (refine Reach.have (x := x) ?_ (fun hx hxs => ?_); unfold x; clear x; rotate_left; clear_value x) | (have hf : Metr := x; clear hf; refine Reach.keep_met (x := x) ?_ (fun hx => ?_); (· intro hs; unfold x; clear x; (repeat' (first | ((try simp only [Metr.Shaped] at *); simp +zetaDelta (maxDischargeDepth := 9) only [Metr.Shaped, Dev.Shaped.met_retAt, Dev.Shaped.met_tp, Dev.Shaped.wr, Dev.Shaped.resetDomains, setAt_length, addAt_length, List.length_map, List.length_replicate, List.length_cons, List.length_nil, List.length_zipWith, List.length_range, List.length_append, List.length_drop, List.length_take, Nat.reduceSub, Nat.reduceLeDiff, Nat.min_eq_left, *, and_self, Nat.reduceAdd, Nat.zero_add]; done) | split))); clear_value x) | clear_value x) | (apply Reach.via (Dev.raise_reach ..); decide) | (apply Dev.forAll_reach <;> intros) | (apply Reach.ite <;> intro) | simp -zeta -iota only [↓Reach.mk_eq] | split | (apply ReachMk.intro <;> first | exact .inr (by decide) | rfl | exact .inl rfl | (refine .inr ⟨by decide, fun hs he => ?_⟩; (repeat' (first | ((try simp only [Metr.Shaped] at *); simp +zetaDelta (maxDischargeDepth := 9) only [Metr.Shaped, Dev.Shaped.met_retAt, Dev.Shaped.met_tp, Dev.Shaped.wr, Dev.Shaped.resetDomains, setAt_length, addAt_length, List.length_map, List.length_replicate, List.length_cons, List.length_nil, List.length_zipWith, List.length_range, List.length_append, List.length_drop, List.length_take, Nat.reduceSub, Nat.reduceLeDiff, Nat.min_eq_left, *, and_self, Nat.reduceAdd, Nat.zero_add]; done) | split)); done) | skip))

theorem Dev.metClear_reach (d : Dev) (j : Nat) : Reach (Part.met) d (Dev.metClear d j) := by
  unfold Dev.metClear
  with_reducible repeat' (first | assumption | exact .refl _ | (extract_lets +onlyGivenNames x; first | (have hf : Metr := x; clear hf; refine Reach.keep_met (x := x) ?_ (fun hx => ?_); (· intro hs; unfold x; clear x; (repeat' (first | ((try simp only [Metr.Shaped] at *); simp +zetaDelta (maxDischargeDepth := 9) only [Metr.Shaped, Dev.Shaped.met_retAt, Dev.Shaped.met_tp, Dev.Shaped.wr, Dev.Shaped.resetDomains, setAt_length, addAt_length, List.length_map, List.length_replicate, List.length_cons, List.length_nil, List.length_zipWith, List.length_range, List.length_append, List.length_drop, List.length_take, Nat.reduceSub, Nat.reduceLeDiff, Nat.min_eq_left, *, and_self, Nat.reduceAdd, Nat.zero_add]; done) | split))); clear_value x) | clear_value x) | (apply Dev.forAll_reach <;> intros) | simp -zeta -iota only [↓Reach.mk_eq] | split | (apply ReachMk.intro <;> first | exact .inr (by decide) | rfl | exact .inl rfl | (refine .inr ⟨by decide, fun hs he => ?_⟩; (repeat' (first | ((try simp only [Metr.Shaped] at *); simp +zetaDelta (maxDischargeDepth := 9) only [Metr.Shaped, Dev.Shaped.met_retAt, Dev.Shaped.met_tp, Dev.Shaped.wr, Dev.Shaped.resetDomains, setAt_length, addAt_length, List.length_map, List.length_replicate, List.length_cons, List.length_nil, List.length_zipWith, List.length_range, List.length_append, List.length_drop, List.length_take, Nat.reduceSub, Nat.reduceLeDiff, Nat.min_eq_left, *, and_self, Nat.reduceAdd, Nat.zero_add]; done) | split)); done) | skip))

theorem Dev.metReturn_reach (d : Dev) (c : Nat) : Reach (Part.met) d (Dev.metReturn d c) := by
  unfold Dev.metReturn
  with_reducible repeat' (first | assumption | exact .refl _ | (extract_lets +onlyGivenNames x; first | (have hf : Metr := x; clear hf; refine Reach.keep_met (x := x) ?_ (fun hx => ?_); (· intro hs; unfold x; clear x; (repeat' (first | ((try simp only [Metr.Shaped] at *); simp +zetaDelta (maxDischargeDepth := 9) only [Metr.Shaped, Dev.Shaped.met_retAt, Dev.Shaped.met_tp, Dev.Shaped.wr, Dev.Shaped.resetDomains, setAt_length, addAt_length, List.length_map, List.length_replicate, List.length_cons, List.length_nil, List.length_zipWith, List.length_range, List.length_append, List.length_drop, List.length_take, Nat.reduceSub, Nat.reduceLeDiff, Nat.min_eq_left, *, and_self, Nat.reduceAdd, Nat.zero_add]; done) | split))); clear_value x) | clear_value x) | (apply Reach.ite <;> intro) | simp -zeta -iota only [↓Reach.mk_eq] | split | (apply ReachMk.intro <;> first | exact .inr (by decide) | rfl | exact .inl rfl | (refine .inr ⟨by decide, fun hs he => ?_⟩; (repeat' (first | ((try simp only [Metr.Shaped] at *); simp +zetaDelta (maxDischargeDepth := 9) only [Metr.Shaped, Dev.Shaped.met_retAt, Dev.Shaped.met_tp, Dev.Shaped.wr, Dev.Shaped.resetDomains, setAt_length, addAt_length, List.length_map, List.length_replicate, List.length_cons, List.length_nil, List.length_zipWith, List.length_range, List.length_append, List.length_drop, List.length_take, Nat.reduceSub, Nat.reduceLeDiff, Nat.min_eq_left, *, and_self, Nat.reduceAdd, Nat.zero_add]; done) | split)); done) | skip))

theorem Dev.metRecsFrom_reach (d : Dev) (ns : Nat) (swap : Bool) : Reach (Part.met) d (Dev.metRecsFrom d ns swap) := by
  unfold Dev.metRecsFrom
  with_reducible repeat' (first | assumption | exact .refl _ | (extract_lets +onlyGivenNames x; first | (have hf : Metr := x; clear hf; refine Reach.keep_met (x := x) ?_ (fun hx => ?_); (· intro hs; unfold x; clear x; (repeat' (first | ((try simp only [Metr.Shaped] at *); simp +zetaDelta (maxDischargeDepth := 9) only [Metr.Shaped, Dev.Shaped.met_retAt, Dev.Shaped.met_tp, Dev.Shaped.wr, Dev.Shaped.resetDomains, setAt_length, addAt_length, List.length_map, List.length_replicate, List.length_cons, List.length_nil, List.length_zipWith, List.length_range, List.length_append, List.length_drop, List.length_take, Nat.reduceSub, Nat.reduceLeDiff, Nat.min_eq_left, *, and_self, Nat.reduceAdd, Nat.zero_add]; done) | split))); clear_value x) | clear_value x) | simp -zeta -iota only [↓Reach.mk_eq] | split | dsimp only | (apply ReachMk.intro <;> first | exact .inr (by decide) | rfl | exact .inl rfl | (refine .inr ⟨by decide, fun hs he => ?_⟩; (repeat' (first | ((try simp only [Metr.Shaped] at *); simp +zetaDelta (maxDischargeDepth := 9) only [Metr.Shaped, Dev.Shaped.met_retAt, Dev.Shaped.met_tp, Dev.Shaped.wr, Dev.Shaped.resetDomains, setAt_length, addAt_length, List.length_map, List.length_replicate, List.length_cons, List.length_nil, List.length_zipWith, List.length_range, List.length_append, List.length_drop, List.length_take, Nat.reduceSub, Nat.reduceLeDiff, Nat.min_eq_left, *, and_self, Nat.reduceAdd, Nat.zero_add]; done) | split)); done) | skip))

theorem Dev.metTake_reach (d : Dev) (t : Nat) : Reach (Part.met) d (Dev.metTake d t).1 := by
  unfold Dev.metTake
  with_reducible repeat' (first | assumption | exact .refl _ | (extract_lets +onlyGivenNames x; first | (refine Reach.have (x := x) ?_ (fun hx hxs => ?_); unfold x; clear x; rotate_left; clear_value x) | (have hf : Metr := x; clear hf; refine Reach.keep_met (x := x) ?_ (fun hx => ?_); (· intro hs; unfold x; clear x; (repeat' (first | ((try simp only [Metr.Shaped] at *); simp +zetaDelta (maxDischargeDepth := 9) only [Metr.Shaped, Dev.Shaped.met_retAt, Dev.Shaped.met_tp, Dev.Shaped.wr, Dev.Shaped.resetDomains, setAt_length, addAt_length, List.length_map, List.length_replicate, List.length_cons, List.length_nil, List.length_zipWith, List.length_range, List.length_append, List.length_drop, List.length_take, Nat.reduceSub, Nat.reduceLeDiff, Nat.min_eq_left, *, and_self, Nat.reduceAdd, Nat.zero_add]; done) | split))); clear_value x) | clear_value x) | (apply Reach.ite <;> intro) | simp -zeta -iota only [↓Reach.mk_eq] | split | dsimp only | (apply ReachMk.intro <;> first | exact .inr (by decide) | rfl | exact .inl rfl | (refine .inr ⟨by decide, fun hs he => ?_⟩; (repeat' (first | ((try simp only [Metr.Shaped] at *); simp +zetaDelta (maxDischargeDepth := 9) only [Metr.Shaped, Dev.Shaped.met_retAt, Dev.Shaped.met_tp, Dev.Shaped.wr, Dev.Shaped.resetDomains, setAt_length, addAt_length, List.length_map, List.length_replicate, List.length_cons, List.length_nil, List.length_zipWith, List.length_range, List.length_append, List.length_drop, List.length_take, Nat.reduceSub, Nat.reduceLeDiff, Nat.min_eq_left, *, and_self, Nat.reduceAdd, Nat.zero_add]; done) | split)); done) | skip))

theorem Dev.metTake_reach' {d : Dev} {t : Nat} {re : Dev} {rr1 : List Bool} (he : Dev.metTake d t = (re, rr1)) : Reach (Part.met) d re := by
  have hreach := Dev.metTake_reach d t
  rw [he] at hreach
  exact hreach

theorem Dev.metTake_via' {mm : Nat} {aa : Dev} {d : Dev} {t : Nat} {re : Dev} {rr1 : List Bool} (hs : Part.sub (Part.met) mm = true) (he : Dev.metTake d t = (re, rr1)) (hr : Reach mm aa d) : Reach mm aa re := hr.step (Dev.metTake_reach' he) hs

theorem Dev.fbSampleAt_reach (d : Dev) (m : MeasRec) (t : Nat) : Reach (Part.free) d (Dev.fbSampleAt d m t).2.2 := by
  unfold Dev.fbSampleAt
  with_reducible repeat' (first | assumption | exact .refl _ | (extract_lets +onlyGivenNames x; clear_value x) | (apply Reach.via (Dev.drawFree_reach ..); decide) | (apply Dev.drawFree_via'; decide; assumption) | simp -zeta -iota only [↓Reach.mk_eq] | split | dsimp only | (apply ReachMk.intro <;> first | exact .inr (by decide) | rfl | exact .inl rfl | skip))

theorem Dev.fbSampleAt_reach' {d : Dev} {m : MeasRec} {t : Nat} {rr0 : Int} {rr1 : Bool} {re : Dev} (he : Dev.fbSampleAt d m t = (rr0, rr1, re)) : Reach (Part.free) d re := by
  have hreach := Dev.fbSampleAt_reach d m t
  rw [he] at hreach
  exact hreach

theorem Dev.fbSampleAt_via' {mm : Nat} {aa : Dev} {d : Dev} {m : MeasRec} {t : Nat} {rr0 : Int} {rr1 : Bool} {re : Dev} (hs : Part.sub (Part.free) mm = true) (he : Dev.fbSampleAt d m t = (rr0, rr1, re)) (hr : Reach mm aa d) : Reach mm aa re := hr.step (Dev.fbSampleAt_reach' he) hs

theorem Dev.metSample_reach (d : Dev) (c t : Nat) (raw : Int) (cfg : Bool) : Reach (Part.regs ||| Part.free ||| Part.fl ||| Part.met) d (Dev.metSample d c t raw cfg).2.2 := by
  unfold Dev.metSample
  with_reducible repeat' (first | assumption | exact .refl _ | (extract_lets +onlyGivenNames x; first | (refine Reach.have (x := x) ?_ (fun hx hxs => ?_); unfold x; clear x; rotate_left; clear_value x) | (refine Reach.have (x := x.1) ?_ (fun hx hxs => ?_); unfold x; clear x; rotate_left; clear_value x) | (refine Reach.have (x := x.2) ?_ (fun hx hxs => ?_); unfold x; clear x; rotate_left; clear_value x) | (refine Reach.have (x := x.2.2) ?_ (fun hx hxs => ?_); unfold x; clear x; rotate_left; clear_value x) | (have hf : Metr := x; clear hf; refine Reach.keep_met (x := x) ?_ (fun hx => ?_); (· intro hs; unfold x; clear x; (repeat' (first | ((repeat (rename _ = (_, _) => hz; have hz2 := congrArg Prod.snd hz; have hz1 := congrArg Prod.fst hz; clear hz; dsimp only at hz1 hz2; subst hz1 hz2)); (try simp only [Metr.Shaped] at *); simp +zetaDelta (maxDischargeDepth := 9) only [Reach.shaped (Dev.fbSampleAt_reach ..), Metr.Shaped, Dev.Shaped.met_retAt, Dev.Shaped.met_tp, Dev.Shaped.wr, Dev.Shaped.resetDomains, setAt_length, addAt_length, List.length_map, List.length_replicate, List.length_cons, List.length_nil, List.length_zipWith, List.length_range, List.length_append, List.length_drop, List.length_take, Nat.reduceSub, Nat.reduceLeDiff, Nat.min_eq_left, *, and_self, Nat.reduceAdd, Nat.zero_add]; done) | split))); clear_value x) | clear_value x) | (apply Reach.wr'; decide) | (apply Reach.via (Dev.bump_reach ..); decide) | (apply Reach.via (Dev.fbSampleAt_reach ..); decide) | (apply Dev.fbSampleAt_via'; decide; assumption) | (apply Reach.via (Dev.raise_reach ..); decide) | (apply Reach.ite <;> intro) | simp -zeta -iota only [↓Reach.mk_eq] | split | dsimp only | (apply ReachMk.intro <;> first | exact .inr (by decide) | rfl | exact .inl rfl | (refine .inr ⟨by decide, fun hs he => ?_⟩; (repeat' (first | ((repeat (rename _ = (_, _) => hz; have hz2 := congrArg Prod.snd hz; have hz1 := congrArg Prod.fst hz; clear hz; dsimp only at hz1 hz2; subst hz1 hz2)); (try simp only [Metr.Shaped] at *); simp +zetaDelta (maxDischargeDepth := 9) only [Reach.shaped (Dev.fbSampleAt_reach ..), Metr.Shaped, Dev.Shaped.met_retAt, Dev.Shaped.met_tp, Dev.Shaped.wr, Dev.Shaped.resetDomains, setAt_length, addAt_length, List.length_map, List.length_replicate, List.length_cons, List.length_nil, List.length_zipWith, List.length_range, List.length_append, List.length_drop, List.length_take, Nat.reduceSub, Nat.reduceLeDiff, Nat.min_eq_left, *, and_self, Nat.reduceAdd, Nat.zero_add]; done) | split)); done) | skip))

theorem Dev.metSample_reach' {d : Dev} {c t : Nat} {raw : Int} {cfg : Bool} {rr0 : Int} {rr1 : Nat} {re : Dev} (he : Dev.metSample d c t raw cfg = (rr0, rr1, re)) : Reach (Part.regs ||| Part.free ||| Part.fl ||| Part.met) d re := by
  have hreach := Dev.metSample_reach d c t raw cfg
  rw [he] at hreach
  exact hreach

theorem Dev.metSample_via' {mm : Nat} {aa : Dev} {d : Dev} {c t : Nat} {raw : Int} {cfg : Bool} {rr0 : Int} {rr1 : Nat} {re : Dev} (hs : Part.sub (Part.regs ||| Part.free ||| Part.fl ||| Part.met) mm = true) (he : Dev.metSample d c t raw cfg = (rr0, rr1, re)) (hr : Reach mm aa d) : Reach mm aa re := hr.step (Dev.metSample_reach' he) hs

theorem metSampleNext_reach (t : Nat) (raw : List Int) (changed : List Bool) (acc : List Int × List Nat × Dev) (c : Nat) :
    Reach (Part.regs ||| Part.free ||| Part.fl ||| Part.met) acc.2.2 (metSampleNext t raw changed acc c).2.2 := by
  unfold metSampleNext
  exact Dev.metSample_reach acc.2.2 c t (raw.getD c 0) (changed.getD c false)

theorem metSampleNext_fold (t : Nat) (raw : List Int) (changed : List Bool) (l : List Nat) (acc : List Int × List Nat × Dev) :
    Reach (Part.regs ||| Part.free ||| Part.fl ||| Part.met) acc.2.2 (l.foldl (metSampleNext t raw changed) acc).2.2 := by
  induction l generalizing acc with
  | nil => exact .refl _
  | cons c l ih => exact (metSampleNext_reach t raw changed acc c).trans (ih _)

theorem Dev.metSamples_reach (d : Dev) (t : Nat) (raw : List Int) (changed : List Bool) : Reach (Part.regs ||| Part.free ||| Part.fl ||| Part.met) d (d.metSamples t raw changed).2.2 := by
  unfold Dev.metSamples
  exact metSampleNext_fold t raw changed (List.range 16) ([], [], d)


theorem Dev.accAdd_reach (d : Dev) (e : Nat) (x : Int) : Reach (Part.free ||| Part.met) d (Dev.accAdd d e x) := by
  unfold Dev.accAdd
  with_reducible repeat' (first | assumption | exact .refl _ | (extract_lets +onlyGivenNames x; first | (refine Reach.have (x := x) ?_ (fun hx hxs => ?_); unfold x; clear x; rotate_left; clear_value x) | (refine Reach.have (x := x.1) ?_ (fun hx hxs => ?_); unfold x; clear x; rotate_left; clear_value x) | (refine Reach.have (x := x.2) ?_ (fun hx hxs => ?_); unfold x; clear x; rotate_left; clear_value x) | (have hf : Metr := x; clear hf; refine Reach.keep_met (x := x) ?_ (fun hx => ?_); (· intro hs; unfold x; clear x; (repeat' (first | ((try simp only [Metr.Shaped] at *); simp +zetaDelta (maxDischargeDepth := 9) only [Reach.shaped (Dev.drawFree_reach ..), Metr.Shaped, Dev.Shaped.met_retAt, Dev.Shaped.met_tp, Dev.Shaped.wr, Dev.Shaped.resetDomains, setAt_length, addAt_length, List.length_map, List.length_replicate, List.length_cons, List.length_nil, List.length_zipWith, List.length_range, List.length_append, List.length_drop, List.length_take, Nat.reduceSub, Nat.reduceLeDiff, Nat.min_eq_left, *, and_self, Nat.reduceAdd, Nat.zero_add]; done) | split))); clear_value x) | clear_value x) | (apply Reach.via (Dev.drawFree_reach ..); decide) | (apply Reach.ite <;> intro) | simp -zeta -iota only [↓Reach.mk_eq] | split | dsimp only | (apply ReachMk.intro <;> first | exact .inr (by decide) | rfl | exact .inl rfl | (refine .inr ⟨by decide, fun hs he => ?_⟩; (repeat' (first | ((try simp only [Metr.Shaped] at *); simp +zetaDelta (maxDischargeDepth := 9) only [Reach.shaped (Dev.drawFree_reach ..), Metr.Shaped, Dev.Shaped.met_retAt, Dev.Shaped.met_tp, Dev.Shaped.wr, Dev.Shaped.resetDomains, setAt_length, addAt_length, List.length_map, List.length_replicate, List.length_cons, List.length_nil, List.length_zipWith, List.length_range, List.length_append, List.length_drop, List.length_take, Nat.reduceSub, Nat.reduceLeDiff, Nat.min_eq_left, *, and_self, Nat.reduceAdd, Nat.zero_add]; done) | split)); done) | skip))

theorem Dev.tpCheck_reach (d : Dev) (k : Nat) : Reach (Part.regs) d (Dev.tpCheck d k) := by
  unfold Dev.tpCheck
  with_reducible repeat' (first | assumption | exact .refl _ | (extract_lets +onlyGivenNames x; first | (refine Reach.have (x := x) ?_ (fun hx hxs => ?_); unfold x; clear x; rotate_left; clear_value x) | clear_value x) | (apply Reach.wr'; decide) | (apply Reach.via (Dev.wrB_reach ..); decide) | (apply Reach.ite <;> intro) | split)

theorem Dev.setTestOut_reach (d : Dev) (k : Nat) (t : TestOut) : Reach (Part.met) d (Dev.setTestOut d k t) := by
  unfold Dev.setTestOut
  with_reducible repeat' (first | assumption | exact .refl _ | (extract_lets +onlyGivenNames x; first | (have hf : Metr := x; clear hf; refine Reach.keep_met (x := x) ?_ (fun hx => ?_); (· intro hs; unfold x; clear x; (repeat' (first | ((try simp only [Metr.Shaped] at *); simp +zetaDelta (maxDischargeDepth := 9) only [Metr.Shaped, Dev.Shaped.met_retAt, Dev.Shaped.met_tp, Dev.Shaped.wr, Dev.Shaped.resetDomains, setAt_length, addAt_length, List.length_map, List.length_replicate, List.length_cons, List.length_nil, List.length_zipWith, List.length_range, List.length_append, List.length_drop, List.length_take, Nat.reduceSub, Nat.reduceLeDiff, Nat.min_eq_left, *, and_self, Nat.reduceAdd, Nat.zero_add]; done) | split))); clear_value x) | clear_value x) | simp -zeta -iota only [↓Reach.mk_eq] | (apply ReachMk.intro <;> first | exact .inr (by decide) | rfl | exact .inl rfl | (refine .inr ⟨by decide, fun hs he => ?_⟩; (repeat' (first | ((try simp only [Metr.Shaped] at *); simp +zetaDelta (maxDischargeDepth := 9) only [Metr.Shaped, Dev.Shaped.met_retAt, Dev.Shaped.met_tp, Dev.Shaped.wr, Dev.Shaped.resetDomains, setAt_length, addAt_length, List.length_map, List.length_replicate, List.length_cons, List.length_nil, List.length_zipWith, List.length_range, List.length_append, List.length_drop, List.length_take, Nat.reduceSub, Nat.reduceLeDiff, Nat.min_eq_left, *, and_self, Nat.reduceAdd, Nat.zero_add]; done) | split)); done) | skip))

theorem Dev.tpRun_reach (d : Dev) (k inc : Nat) : Reach (Part.regs ||| Part.fl ||| Part.met) d (Dev.tpRun d k inc) := by
  unfold Dev.tpRun
  with_reducible repeat' (first | assumption | exact .refl _ | (extract_lets +onlyGivenNames x; first | (refine Reach.have (x := x) ?_ (fun hx hxs => ?_); unfold x; clear x; rotate_left; clear_value x) | clear_value x) | (apply Reach.via (Dev.bumpBy_reach ..); decide) | (apply Reach.via (Dev.raise_reach ..); decide) | (apply Reach.via (Dev.setTestOut_reach ..); decide) | (apply Reach.via (Dev.wrAll_reach ..); decide) | (apply Reach.ite <;> intro) | simp -zeta -iota only [↓Reach.mk_eq] | split | dsimp only | (apply ReachMk.intro <;> first | exact .inr (by decide) | rfl | exact .inl rfl | skip))

theorem Dev.tpStart_reach (d : Dev) (k : Nat) : Reach (Part.regs ||| Part.tm ||| Part.met) d (Dev.tpStart d k) := by
  unfold Dev.tpStart
  with_reducible repeat' (first | assumption | exact .refl _ | (extract_lets +onlyGivenNames x; first | (refine Reach.have (x := x) ?_ (fun hx hxs => ?_); unfold x; clear x; rotate_left; clear_value x) | clear_value x) | (apply Reach.wr'; decide) | (apply Reach.via (Dev.advanceTo_reach ..); decide) | (apply Reach.via (Dev.setTestOut_reach ..); decide) | (apply Reach.ite <;> intro) | simp -zeta -iota only [↓Reach.mk_eq] | split | dsimp only | (apply ReachMk.intro <;> first | exact .inr (by decide) | rfl | exact .inl rfl | skip))

theorem Dev.tpEnd_reach (d : Dev) (k : Nat) : Reach (Part.tm ||| Part.met) d (Dev.tpEnd d k) := by
  unfold Dev.tpEnd
  with_reducible repeat' (first | assumption | exact .refl _ | (extract_lets +onlyGivenNames x; first | (refine Reach.have (x := x) ?_ (fun hx hxs => ?_); unfold x; clear x; rotate_left; clear_value x) | clear_value x) | (apply Reach.via (Dev.advanceTo_reach ..); decide) | (apply Reach.via (Dev.setTestOut_reach ..); decide) | simp -zeta -iota only [↓Reach.mk_eq] | split | (apply ReachMk.intro <;> first | exact .inr (by decide) | rfl | exact .inl rfl | skip))

theorem Dev.tpWrite_reach (d : Dev) (k : Nat) (isConst : Bool) (v : Nat) : Reach (Part.regs ||| Part.met) d (Dev.tpWrite d k isConst v) := by
  unfold Dev.tpWrite
  with_reducible repeat' (first | assumption | exact .refl _ | (extract_lets +onlyGivenNames x; first | (refine Reach.have (x := x) ?_ (fun hx hxs => ?_); unfold x; clear x; rotate_left; clear_value x) | clear_value x) | (apply Reach.wr'; decide) | (apply Reach.via (Dev.setTestOut_reach ..); decide) | (apply Reach.via (Dev.tpCheck_reach ..); decide) | (apply Reach.ite <;> intro) | simp -zeta -iota only [↓Reach.mk_eq] | split | dsimp only | (apply ReachMk.intro <;> first | exact .inr (by decide) | rfl | exact .inl rfl | skip))

theorem Dev.windowAdd_reach (d : Dev) (x : List Int) (flags : List Nat) (w raw : Products) : Reach (Part.met) d (Dev.windowAdd d x flags w raw) := by
  unfold Dev.windowAdd
  with_reducible repeat' (first | assumption | exact .refl _ | (extract_lets +onlyGivenNames x; first | (refine Reach.have (x := x) ?_ (fun hx hxs => ?_); unfold x; clear x; rotate_left; clear_value x) | (have hf : Metr := x; clear hf; refine Reach.keep_met (x := x) ?_ (fun hx => ?_); (· intro hs; unfold x; clear x; (repeat' (first | ((try simp only [Metr.Shaped] at *); simp +zetaDelta (maxDischargeDepth := 9) only [Metr.Shaped, Dev.Shaped.met_retAt, Dev.Shaped.met_tp, Dev.Shaped.wr, Dev.Shaped.resetDomains, setAt_length, addAt_length, List.length_map, List.length_replicate, List.length_cons, List.length_nil, List.length_zipWith, List.length_range, List.length_append, List.length_drop, List.length_take, Nat.reduceSub, Nat.reduceLeDiff, Nat.min_eq_left, *, and_self, Nat.reduceAdd, Nat.zero_add]; done) | split))); clear_value x) | clear_value x) | simp -zeta -iota only [↓Reach.mk_eq] | split | dsimp only | (apply ReachMk.intro <;> first | exact .inr (by decide) | rfl | exact .inl rfl | (refine .inr ⟨by decide, fun hs he => ?_⟩; (repeat' (first | ((try simp only [Metr.Shaped] at *); simp +zetaDelta (maxDischargeDepth := 9) only [Metr.Shaped, Dev.Shaped.met_retAt, Dev.Shaped.met_tp, Dev.Shaped.wr, Dev.Shaped.resetDomains, setAt_length, addAt_length, List.length_map, List.length_replicate, List.length_cons, List.length_nil, List.length_zipWith, List.length_range, List.length_append, List.length_drop, List.length_take, Nat.reduceSub, Nat.reduceLeDiff, Nat.min_eq_left, *, and_self, Nat.reduceAdd, Nat.zero_add]; done) | split)); done) | skip))

theorem Dev.windowClose_reach (d : Dev) : Reach (Part.regs ||| Part.met) d (Dev.windowClose d) := by
  unfold Dev.windowClose
  with_reducible repeat' (first | assumption | exact .refl _ | (extract_lets +onlyGivenNames x; first | (refine Reach.have (x := x) ?_ (fun hx hxs => ?_); unfold x; clear x; rotate_left; clear_value x) | (have hf : Metr := x; clear hf; refine Reach.keep_met (x := x) ?_ (fun hx => ?_); (· intro hs; unfold x; clear x; (repeat' (first | ((try simp only [Metr.Shaped] at *); simp +zetaDelta (maxDischargeDepth := 9) only [Metr.Shaped, Dev.Shaped.met_retAt, Dev.Shaped.met_tp, Dev.Shaped.wr, Dev.Shaped.resetDomains, setAt_length, addAt_length, List.length_map, List.length_replicate, List.length_cons, List.length_nil, List.length_zipWith, List.length_range, List.length_append, List.length_drop, List.length_take, Nat.reduceSub, Nat.reduceLeDiff, Nat.min_eq_left, *, and_self, Nat.reduceAdd, Nat.zero_add]; done) | split))); clear_value x) | clear_value x) | (apply Reach.wr'; decide) | (apply Reach.via (Dev.wrAll_reach ..); decide) | (apply Dev.forAll_reach <;> intros) | (apply Reach.ite <;> intro) | simp -zeta -iota only [↓Reach.mk_eq] | split | dsimp only | (apply ReachMk.intro <;> first | exact .inr (by decide) | rfl | exact .inl rfl | (refine .inr ⟨by decide, fun hs he => ?_⟩; (repeat' (first | ((try simp only [Metr.Shaped] at *); simp +zetaDelta (maxDischargeDepth := 9) only [Metr.Shaped, Dev.Shaped.met_retAt, Dev.Shaped.met_tp, Dev.Shaped.wr, Dev.Shaped.resetDomains, setAt_length, addAt_length, List.length_map, List.length_replicate, List.length_cons, List.length_nil, List.length_zipWith, List.length_range, List.length_append, List.length_drop, List.length_take, Nat.reduceSub, Nat.reduceLeDiff, Nat.min_eq_left, *, and_self, Nat.reduceAdd, Nat.zero_add]; done) | split)); done) | skip))

theorem Dev.applyIncs_reach (d : Dev) (incs : List (Nat × Int)) : Reach (Part.regs ||| Part.free ||| Part.fl ||| Part.met) d (Dev.applyIncs d incs) := by
  unfold Dev.applyIncs
  with_reducible repeat' (first | assumption | exact .refl _ | (extract_lets +onlyGivenNames x; first | (refine Reach.have (x := x) ?_ (fun hx hxs => ?_); unfold x; clear x; rotate_left; clear_value x) | clear_value x) | (apply Reach.via (Dev.accAdd_reach ..); decide) | (apply Reach.via (Dev.tpRun_reach ..); decide) | (apply Dev.forAll_reach <;> intros) | split | dsimp only)

theorem Dev.metStop_reach (d : Dev) : Reach (Part.regs ||| Part.fl) d (Dev.metStop d) := by
  unfold Dev.metStop
  with_reducible repeat' (first | assumption | exact .refl _ | (apply Reach.wr'; decide) | (apply Reach.via (Dev.raise_reach ..); decide) | (apply Reach.ite <;> intro) | split)

theorem Dev.lrShow_reach (d : Dev) (x : LrImg) : Reach (Part.regs) d (Dev.lrShow d x) := by
  unfold Dev.lrShow
  with_reducible repeat' (first | assumption | exact .refl _ | (apply Reach.wr'; decide) | (apply Reach.via (Dev.wrAll_reach ..); decide) | (apply Reach.via (Dev.wrWords_reach ..); decide))

theorem Dev.metStart_reach (d : Dev) : Reach (Part.regs ||| Part.fl) d (Dev.metStart d) := by
  unfold Dev.metStart
  with_reducible repeat' (first | assumption | exact .refl _ | (extract_lets +onlyGivenNames x; first | (refine Reach.have (x := x) ?_ (fun hx hxs => ?_); unfold x; clear x; rotate_left; clear_value x) | clear_value x) | (apply Reach.wr'; decide) | (apply Reach.via (Dev.lrShow_reach ..); decide) | (apply Reach.via (Dev.raise_reach ..); decide) | (apply Reach.ite <;> intro) | split | dsimp only)

theorem Dev.lrActivate_reach (d : Dev) (key : Nat) : Reach (Part.regs ||| Part.fl ||| Part.st) d (Dev.lrActivate d key) := by
  unfold Dev.lrActivate
  with_reducible repeat' (first | assumption | exact .refl _ | (extract_lets +onlyGivenNames x; first | (refine Reach.have (x := x) ?_ (fun hx hxs => ?_); unfold x; clear x; rotate_left; clear_value x) | clear_value x) | (apply Reach.wr'; decide) | (apply Reach.via (Dev.metStop_reach ..); decide) | (apply Reach.via (Dev.raise_reach ..); decide) | (apply Reach.ite <;> intro) | simp -zeta -iota only [↓Reach.mk_eq] | split | dsimp only | (apply ReachMk.intro <;> first | exact .inr (by decide) | rfl | exact .inl rfl | skip))

theorem Dev.modPresent_reach (d : Dev) (kind j : Nat) : Reach (Part.regs ||| Part.fl ||| Part.met) d (Dev.modPresent d kind j) := by
  unfold Dev.modPresent
  with_reducible repeat' (first | assumption | exact .refl _ | (extract_lets +onlyGivenNames x; first | (refine Reach.have (x := x) ?_ (fun hx hxs => ?_); unfold x; clear x; rotate_left; clear_value x) | clear_value x) | (apply Reach.wr'; decide) | (apply Reach.via (Dev.bump_reach ..); decide) | (apply Reach.via (Dev.metFault_reach ..); decide) | (apply Reach.via (Dev.raise_reach ..); decide) | (apply Reach.ite <;> intro) | split | dsimp only)

theorem Dev.modEnded_reach (d : Dev) (kind j : Nat) : Reach (Part.regs ||| Part.fl ||| Part.met) d (Dev.modEnded d kind j) := by
  unfold Dev.modEnded
  with_reducible repeat' (first | assumption | exact .refl _ | (extract_lets +onlyGivenNames x; first | (refine Reach.have (x := x) ?_ (fun hx hxs => ?_); unfold x; clear x; rotate_left; clear_value x) | clear_value x) | (apply Reach.wr'; decide) | (apply Reach.via (Dev.metClear_reach ..); decide) | (apply Reach.via (Dev.raise_reach ..); decide) | (apply Reach.ite <;> intro) | split | dsimp only)

theorem Dev.modClk_reach (d : Dev) (kind j : Nat) (on : Bool) : Reach (Part.regs) d (Dev.modClk d kind j on) := by
  unfold Dev.modClk
  with_reducible repeat' (first | assumption | exact .refl _ | (extract_lets +onlyGivenNames x; first | (refine Reach.have (x := x) ?_ (fun hx hxs => ?_); unfold x; clear x; rotate_left; clear_value x) | clear_value x) | (apply Reach.wr'; decide) | (apply Reach.ite <;> intro) | split)

end Sys2Proof.Machine
end

