-- ==== Sys2Proof/Laws/ReachBilling.lean ====
section
/-! SUPPORT. What the functions of Machine/Billing.lean can do to the block. -/

set_option linter.tactic.unusedName false
set_option linter.unusedTactic false
set_option linter.unusedSimpArgs false
set_option linter.unreachableTactic false
set_option maxHeartbeats 800000

namespace Sys2Proof.Machine

theorem Dev.liveWrite_reach (d : Dev) : Reach (Part.bil ||| Part.bst) d (Dev.liveWrite d) := by
  unfold Dev.liveWrite
  with_reducible repeat' (first | assumption | exact .refl _ | (extract_lets +onlyGivenNames x; first | (refine Reach.have (x := x) ?_ (fun hx hxs => ?_); unfold x; clear x; rotate_left; clear_value x) | (have hf : Bil := x; clear hf; refine Reach.keep_bil (x := x) ?_ (fun hx => ?_); (· intro hs; unfold x; clear x; (repeat' (first | ((try simp only [Bil.Shaped] at *); simp +zetaDelta (maxDischargeDepth := 9) only [Bil.Shaped, Dev.Shaped.bil_sess, Dev.Shaped.wr, Dev.Shaped.resetDomains, setAt_length, addAt_length, List.length_map, List.length_replicate, List.length_cons, List.length_nil, List.length_zipWith, List.length_range, List.length_append, List.length_drop, List.length_take, Nat.reduceSub, Nat.reduceLeDiff, Nat.min_eq_left, *, and_self, Nat.reduceAdd, Nat.zero_add]; done) | split))); clear_value x) | (have hf : BilStore := x; clear hf; refine Reach.keep_bst (x := x) ?_ (fun hx => ?_); (· intro hs; unfold x; clear x; (repeat' (first | ((try simp only [BilStore.Shaped] at *); simp +zetaDelta (maxDischargeDepth := 9) only [BilStore.Shaped, Dev.Shaped.bst_slots, Dev.Shaped.bst_copies, Dev.Shaped.wr, Dev.Shaped.resetDomains, setAt_length, addAt_length, List.length_map, List.length_replicate, List.length_cons, List.length_nil, List.length_zipWith, List.length_range, List.length_append, List.length_drop, List.length_take, Nat.reduceSub, Nat.reduceLeDiff, Nat.min_eq_left, *, and_self, Nat.reduceAdd, Nat.zero_add]; done) | split))); clear_value x) | clear_value x) | (apply Reach.ite <;> intro) | simp -zeta -iota only [↓Reach.mk_eq] | split | dsimp only | (apply ReachMk.intro <;> first | exact .inr (by decide) | rfl | exact .inl rfl | (refine .inr ⟨by decide, fun hs he => ?_⟩; (repeat' (first | ((try simp only [Bil.Shaped] at *); simp +zetaDelta (maxDischargeDepth := 9) only [Bil.Shaped, Dev.Shaped.bil_sess, Dev.Shaped.wr, Dev.Shaped.resetDomains, setAt_length, addAt_length, List.length_map, List.length_replicate, List.length_cons, List.length_nil, List.length_zipWith, List.length_range, List.length_append, List.length_drop, List.length_take, Nat.reduceSub, Nat.reduceLeDiff, Nat.min_eq_left, *, and_self, Nat.reduceAdd, Nat.zero_add]; done) | split)); done) | (refine .inr ⟨by decide, fun hs he => ?_⟩; (repeat' (first | ((try simp only [BilStore.Shaped] at *); simp +zetaDelta (maxDischargeDepth := 9) only [BilStore.Shaped, Dev.Shaped.bst_slots, Dev.Shaped.bst_copies, Dev.Shaped.wr, Dev.Shaped.resetDomains, setAt_length, addAt_length, List.length_map, List.length_replicate, List.length_cons, List.length_nil, List.length_zipWith, List.length_range, List.length_append, List.length_drop, List.length_take, Nat.reduceSub, Nat.reduceLeDiff, Nat.min_eq_left, *, and_self, Nat.reduceAdd, Nat.zero_add]; done) | split)); done) | skip))

theorem Dev.liveRefresh_reach (d : Dev) : Reach (Part.bst) d (Dev.liveRefresh d) := by
  unfold Dev.liveRefresh
  with_reducible repeat' (first | assumption | exact .refl _ | (extract_lets +onlyGivenNames x; first | (refine Reach.have (x := x) ?_ (fun hx hxs => ?_); unfold x; clear x; rotate_left; clear_value x) | (have hf : BilStore := x; clear hf; refine Reach.keep_bst (x := x) ?_ (fun hx => ?_); (· intro hs; unfold x; clear x; (repeat' (first | ((try simp only [BilStore.Shaped] at *); simp +zetaDelta (maxDischargeDepth := 9) only [BilStore.Shaped, Dev.Shaped.bst_slots, Dev.Shaped.bst_copies, Dev.Shaped.wr, Dev.Shaped.resetDomains, setAt_length, addAt_length, List.length_map, List.length_replicate, List.length_cons, List.length_nil, List.length_zipWith, List.length_range, List.length_append, List.length_drop, List.length_take, Nat.reduceSub, Nat.reduceLeDiff, Nat.min_eq_left, *, and_self, Nat.reduceAdd, Nat.zero_add]; done) | split))); clear_value x) | clear_value x) | simp -zeta -iota only [↓Reach.mk_eq] | split | (apply ReachMk.intro <;> first | exact .inr (by decide) | rfl | exact .inl rfl | (refine .inr ⟨by decide, fun hs he => ?_⟩; (repeat' (first | ((try simp only [BilStore.Shaped] at *); simp +zetaDelta (maxDischargeDepth := 9) only [BilStore.Shaped, Dev.Shaped.bst_slots, Dev.Shaped.bst_copies, Dev.Shaped.wr, Dev.Shaped.resetDomains, setAt_length, addAt_length, List.length_map, List.length_replicate, List.length_cons, List.length_nil, List.length_zipWith, List.length_range, List.length_append, List.length_drop, List.length_take, Nat.reduceSub, Nat.reduceLeDiff, Nat.min_eq_left, *, and_self, Nat.reduceAdd, Nat.zero_add]; done) | split)); done) | skip))

theorem Dev.storeShow_reach (d : Dev) : Reach (Part.regs) d (Dev.storeShow d) := by
  unfold Dev.storeShow
  with_reducible repeat' (first | assumption | exact .refl _ | (apply Reach.via (Dev.wrAll_reach ..); decide))

theorem Dev.commitBegin_reach (d : Dev) : Reach (Part.regs ||| Part.bil ||| Part.bst) d (Dev.commitBegin d) := by
  unfold Dev.commitBegin
  with_reducible repeat' (first | assumption | exact .refl _ | (extract_lets +onlyGivenNames x; first | (refine Reach.have (x := x) ?_ (fun hx hxs => ?_); unfold x; clear x; rotate_left; clear_value x) | (have hf : Bil := x; clear hf; refine Reach.keep_bil (x := x) ?_ (fun hx => ?_); (· intro hs; unfold x; clear x; (repeat' (first | ((try simp only [Bil.Shaped] at *); simp +zetaDelta (maxDischargeDepth := 9) only [Bil.Shaped, Dev.Shaped.bil_sess, Dev.Shaped.wr, Dev.Shaped.resetDomains, setAt_length, addAt_length, List.length_map, List.length_replicate, List.length_cons, List.length_nil, List.length_zipWith, List.length_range, List.length_append, List.length_drop, List.length_take, Nat.reduceSub, Nat.reduceLeDiff, Nat.min_eq_left, *, and_self, Nat.reduceAdd, Nat.zero_add]; done) | split))); clear_value x) | (have hf : BilStore := x; clear hf; refine Reach.keep_bst (x := x) ?_ (fun hx => ?_); (· intro hs; unfold x; clear x; (repeat' (first | ((try simp only [BilStore.Shaped] at *); simp +zetaDelta (maxDischargeDepth := 9) only [BilStore.Shaped, Dev.Shaped.bst_slots, Dev.Shaped.bst_copies, Dev.Shaped.wr, Dev.Shaped.resetDomains, setAt_length, addAt_length, List.length_map, List.length_replicate, List.length_cons, List.length_nil, List.length_zipWith, List.length_range, List.length_append, List.length_drop, List.length_take, Nat.reduceSub, Nat.reduceLeDiff, Nat.min_eq_left, *, and_self, Nat.reduceAdd, Nat.zero_add]; done) | split))); clear_value x) | clear_value x) | (apply Reach.wr'; decide) | (apply Reach.ite <;> intro) | simp -zeta -iota only [↓Reach.mk_eq] | split | dsimp only | (apply ReachMk.intro <;> first | exact .inr (by decide) | rfl | exact .inl rfl | (refine .inr ⟨by decide, fun hs he => ?_⟩; (repeat' (first | ((try simp only [Bil.Shaped] at *); simp +zetaDelta (maxDischargeDepth := 9) only [Bil.Shaped, Dev.Shaped.bil_sess, Dev.Shaped.wr, Dev.Shaped.resetDomains, setAt_length, addAt_length, List.length_map, List.length_replicate, List.length_cons, List.length_nil, List.length_zipWith, List.length_range, List.length_append, List.length_drop, List.length_take, Nat.reduceSub, Nat.reduceLeDiff, Nat.min_eq_left, *, and_self, Nat.reduceAdd, Nat.zero_add]; done) | split)); done) | (refine .inr ⟨by decide, fun hs he => ?_⟩; (repeat' (first | ((try simp only [BilStore.Shaped] at *); simp +zetaDelta (maxDischargeDepth := 9) only [BilStore.Shaped, Dev.Shaped.bst_slots, Dev.Shaped.bst_copies, Dev.Shaped.wr, Dev.Shaped.resetDomains, setAt_length, addAt_length, List.length_map, List.length_replicate, List.length_cons, List.length_nil, List.length_zipWith, List.length_range, List.length_append, List.length_drop, List.length_take, Nat.reduceSub, Nat.reduceLeDiff, Nat.min_eq_left, *, and_self, Nat.reduceAdd, Nat.zero_add]; done) | split)); done) | skip))

theorem Dev.commitReq_reach (d : Dev) : Reach (Part.regs ||| Part.bil ||| Part.bst) d (Dev.commitReq d) := by
  unfold Dev.commitReq
  with_reducible repeat' (first | assumption | exact .refl _ | (apply Reach.wr'; decide) | (apply Reach.via (Dev.commitBegin_reach ..); decide) | (apply Reach.ite <;> intro) | split | dsimp only)

theorem Dev.bilDrained_reach (d : Dev) : Reach (Part.regs) d (Dev.bilDrained d) := by
  unfold Dev.bilDrained
  with_reducible repeat' (first | assumption | exact .refl _ | (apply Reach.wr'; decide) | (apply Reach.ite <;> intro) | split | dsimp only)

theorem Dev.commitDone_reach (d : Dev) (ok : Bool) : Reach (Part.regs ||| Part.fl ||| Part.bil ||| Part.bst) d (Dev.commitDone d ok) := by
  unfold Dev.commitDone
  with_reducible repeat' (first | assumption | exact .refl _ | (extract_lets +onlyGivenNames x; first | (refine Reach.have (x := x) ?_ (fun hx hxs => ?_); unfold x; clear x; rotate_left; clear_value x) | (have hf : Bil := x; clear hf; refine Reach.keep_bil (x := x) ?_ (fun hx => ?_); (· intro hs; unfold x; clear x; (repeat' (first | ((try simp only [Bil.Shaped] at *); simp +zetaDelta (maxDischargeDepth := 9) only [Bil.Shaped, Dev.Shaped.bil_sess, Dev.Shaped.wr, Dev.Shaped.resetDomains, setAt_length, addAt_length, List.length_map, List.length_replicate, List.length_cons, List.length_nil, List.length_zipWith, List.length_range, List.length_append, List.length_drop, List.length_take, Nat.reduceSub, Nat.reduceLeDiff, Nat.min_eq_left, *, and_self, Nat.reduceAdd, Nat.zero_add]; done) | split))); clear_value x) | (have hf : BilStore := x; clear hf; refine Reach.keep_bst (x := x) ?_ (fun hx => ?_); (· intro hs; unfold x; clear x; (repeat' (first | ((try simp only [BilStore.Shaped] at *); simp +zetaDelta (maxDischargeDepth := 9) only [BilStore.Shaped, Dev.Shaped.bst_slots, Dev.Shaped.bst_copies, Dev.Shaped.wr, Dev.Shaped.resetDomains, setAt_length, addAt_length, List.length_map, List.length_replicate, List.length_cons, List.length_nil, List.length_zipWith, List.length_range, List.length_append, List.length_drop, List.length_take, Nat.reduceSub, Nat.reduceLeDiff, Nat.min_eq_left, *, and_self, Nat.reduceAdd, Nat.zero_add]; done) | split))); clear_value x) | clear_value x) | (apply Reach.wr'; decide) | (apply Reach.via (Dev.bilDrained_reach ..); decide) | (apply Reach.via (Dev.commitReq_reach ..); decide) | (apply Reach.via (Dev.liveRefresh_reach ..); decide) | (apply Reach.via (Dev.raise_reach ..); decide) | (apply Reach.via (Dev.storeShow_reach ..); decide) | (apply Reach.ite <;> intro) | simp -zeta -iota only [↓Reach.mk_eq] | split | dsimp only | (apply ReachMk.intro <;> first | exact .inr (by decide) | rfl | exact .inl rfl | (refine .inr ⟨by decide, fun hs he => ?_⟩; (repeat' (first | ((try simp only [Bil.Shaped] at *); simp +zetaDelta (maxDischargeDepth := 9) only [Bil.Shaped, Dev.Shaped.bil_sess, Dev.Shaped.wr, Dev.Shaped.resetDomains, setAt_length, addAt_length, List.length_map, List.length_replicate, List.length_cons, List.length_nil, List.length_zipWith, List.length_range, List.length_append, List.length_drop, List.length_take, Nat.reduceSub, Nat.reduceLeDiff, Nat.min_eq_left, *, and_self, Nat.reduceAdd, Nat.zero_add]; done) | split)); done) | (refine .inr ⟨by decide, fun hs he => ?_⟩; (repeat' (first | ((try simp only [BilStore.Shaped] at *); simp +zetaDelta (maxDischargeDepth := 9) only [BilStore.Shaped, Dev.Shaped.bst_slots, Dev.Shaped.bst_copies, Dev.Shaped.wr, Dev.Shaped.resetDomains, setAt_length, addAt_length, List.length_map, List.length_replicate, List.length_cons, List.length_nil, List.length_zipWith, List.length_range, List.length_append, List.length_drop, List.length_take, Nat.reduceSub, Nat.reduceLeDiff, Nat.min_eq_left, *, and_self, Nat.reduceAdd, Nat.zero_add]; done) | split)); done) | skip))

theorem Dev.recordReady_reach (d : Dev) (output kind number : Nat) : Reach (Part.fl) d (Dev.recordReady d output kind number) := by
  unfold Dev.recordReady
  with_reducible repeat' (first | assumption | exact .refl _ | (apply Reach.via (Dev.sendF_reach ..); decide) | simp -zeta -iota only [↓Reach.mk_eq] | dsimp only | (apply ReachMk.intro <;> first | exact .inr (by decide) | rfl | exact .inl rfl | skip))

theorem Dev.logPut_reach (d : Dev) (kind flags : Nat) (data : List Byte) : Reach (Part.regs ||| Part.fl ||| Part.bil ||| Part.bst) d (Dev.logPut d kind flags data) := by
  unfold Dev.logPut
  with_reducible repeat' (first | assumption | exact .refl _ | (extract_lets +onlyGivenNames x; first | (refine Reach.have (x := x) ?_ (fun hx hxs => ?_); unfold x; clear x; rotate_left; clear_value x) | (have hf : Bil := x; clear hf; refine Reach.keep_bil (x := x) ?_ (fun hx => ?_); (· intro hs; unfold x; clear x; (repeat' (first | ((try simp only [Bil.Shaped] at *); simp +zetaDelta (maxDischargeDepth := 9) only [Bil.Shaped, Dev.Shaped.bil_sess, Dev.Shaped.wr, Dev.Shaped.resetDomains, setAt_length, addAt_length, List.length_map, List.length_replicate, List.length_cons, List.length_nil, List.length_zipWith, List.length_range, List.length_append, List.length_drop, List.length_take, Nat.reduceSub, Nat.reduceLeDiff, Nat.min_eq_left, *, and_self, Nat.reduceAdd, Nat.zero_add]; done) | split))); clear_value x) | clear_value x) | (apply Reach.via (Dev.commitReq_reach ..); decide) | (apply Reach.via (Dev.liveRefresh_reach ..); decide) | (apply Reach.via (Dev.raise_reach ..); decide) | (apply Reach.via (Dev.recordReady_reach ..); decide) | (apply Reach.via (Dev.storeShow_reach ..); decide) | (apply Reach.ite <;> intro) | simp -zeta -iota only [↓Reach.mk_eq] | split | dsimp only | (apply ReachMk.intro <;> first | exact .inr (by decide) | rfl | exact .inl rfl | (refine .inr ⟨by decide, fun hs he => ?_⟩; (repeat' (first | ((try simp only [Bil.Shaped] at *); simp +zetaDelta (maxDischargeDepth := 9) only [Bil.Shaped, Dev.Shaped.bil_sess, Dev.Shaped.wr, Dev.Shaped.resetDomains, setAt_length, addAt_length, List.length_map, List.length_replicate, List.length_cons, List.length_nil, List.length_zipWith, List.length_range, List.length_append, List.length_drop, List.length_take, Nat.reduceSub, Nat.reduceLeDiff, Nat.min_eq_left, *, and_self, Nat.reduceAdd, Nat.zero_add]; done) | split)); done) | skip))

theorem Dev.logAdd_reach (d : Dev) (kind flags : Nat) (data : List Byte) : Reach (Part.regs ||| Part.fl ||| Part.bil ||| Part.bst) d (Dev.logAdd d kind flags data) := by
  unfold Dev.logAdd
  with_reducible repeat' (first | assumption | exact .refl _ | (extract_lets +onlyGivenNames x; first | (refine Reach.have (x := x) ?_ (fun hx hxs => ?_); unfold x; clear x; rotate_left; clear_value x) | (have hf := fun y => (x y : Dev); clear hf; unfold x; clear_value x) | (have hf := fun y z => (x y z : Dev); clear hf; unfold x; clear_value x) | (have hf : Bil := x; clear hf; refine Reach.keep_bil (x := x) ?_ (fun hx => ?_); (· intro hs; unfold x; clear x; (repeat' (first | ((try simp only [Bil.Shaped] at *); simp +zetaDelta (maxDischargeDepth := 9) only [Bil.Shaped, Dev.Shaped.bil_sess, Dev.Shaped.wr, Dev.Shaped.resetDomains, setAt_length, addAt_length, List.length_map, List.length_replicate, List.length_cons, List.length_nil, List.length_zipWith, List.length_range, List.length_append, List.length_drop, List.length_take, Nat.reduceSub, Nat.reduceLeDiff, Nat.min_eq_left, *, and_self, Nat.reduceAdd, Nat.zero_add]; done) | split))); clear_value x) | clear_value x) | (apply Reach.via (Dev.bump_reach ..); decide) | (apply Reach.via (Dev.logPut_reach ..); decide) | (apply Reach.ite <;> intro) | simp -zeta -iota only [↓Reach.mk_eq] | split | dsimp only | (apply ReachMk.intro <;> first | exact .inr (by decide) | rfl | exact .inl rfl | (refine .inr ⟨by decide, fun hs he => ?_⟩; (repeat' (first | ((try simp only [Bil.Shaped] at *); simp +zetaDelta (maxDischargeDepth := 9) only [Bil.Shaped, Dev.Shaped.bil_sess, Dev.Shaped.wr, Dev.Shaped.resetDomains, setAt_length, addAt_length, List.length_map, List.length_replicate, List.length_cons, List.length_nil, List.length_zipWith, List.length_range, List.length_append, List.length_drop, List.length_take, Nat.reduceSub, Nat.reduceLeDiff, Nat.min_eq_left, *, and_self, Nat.reduceAdd, Nat.zero_add]; done) | split)); done) | skip))

theorem Dev.setSess_reach (d : Dev) (n : Nat) (x : Sess) : Reach (Part.regs ||| Part.bil) d (Dev.setSess d n x) := by
  unfold Dev.setSess
  with_reducible repeat' (first | assumption | exact .refl _ | (extract_lets +onlyGivenNames x; first | (refine Reach.have (x := x) ?_ (fun hx hxs => ?_); unfold x; clear x; rotate_left; clear_value x) | (have hf : Bil := x; clear hf; refine Reach.keep_bil (x := x) ?_ (fun hx => ?_); (· intro hs; unfold x; clear x; (repeat' (first | ((try simp only [Bil.Shaped] at *); simp +zetaDelta (maxDischargeDepth := 9) only [Bil.Shaped, Dev.Shaped.bil_sess, Dev.Shaped.wr, Dev.Shaped.resetDomains, setAt_length, addAt_length, List.length_map, List.length_replicate, List.length_cons, List.length_nil, List.length_zipWith, List.length_range, List.length_append, List.length_drop, List.length_take, Nat.reduceSub, Nat.reduceLeDiff, Nat.min_eq_left, *, and_self, Nat.reduceAdd, Nat.zero_add]; done) | split))); clear_value x) | clear_value x) | (apply Reach.wr'; decide) | simp -zeta -iota only [↓Reach.mk_eq] | (apply ReachMk.intro <;> first | exact .inr (by decide) | rfl | exact .inl rfl | (refine .inr ⟨by decide, fun hs he => ?_⟩; (repeat' (first | ((try simp only [Bil.Shaped] at *); simp +zetaDelta (maxDischargeDepth := 9) only [Bil.Shaped, Dev.Shaped.bil_sess, Dev.Shaped.wr, Dev.Shaped.resetDomains, setAt_length, addAt_length, List.length_map, List.length_replicate, List.length_cons, List.length_nil, List.length_zipWith, List.length_range, List.length_append, List.length_drop, List.length_take, Nat.reduceSub, Nat.reduceLeDiff, Nat.min_eq_left, *, and_self, Nat.reduceAdd, Nat.zero_add]; done) | split)); done) | skip))

theorem Dev.sessOpen_reach (d : Dev) (n : Nat) : Reach (Part.regs ||| Part.fl ||| Part.bil ||| Part.bst) d (Dev.sessOpen d n) := by
  unfold Dev.sessOpen
  with_reducible repeat' (first | assumption | exact .refl _ | (extract_lets +onlyGivenNames x; first | (refine Reach.have (x := x) ?_ (fun hx hxs => ?_); unfold x; clear x; rotate_left; clear_value x) | clear_value x) | (apply Reach.wr'; decide) | (apply Reach.via (Dev.liveRefresh_reach ..); decide) | (apply Reach.via (Dev.raise_reach ..); decide) | (apply Reach.via (Dev.setSess_reach ..); decide) | (apply Reach.ite <;> intro) | simp -zeta -iota only [↓Reach.mk_eq] | split | (apply ReachMk.intro <;> first | exact .inr (by decide) | rfl | exact .inl rfl | skip))

theorem Dev.sessEnd_reach (d : Dev) (n cause : Nat) : Reach (Part.regs ||| Part.bil ||| Part.bst) d (Dev.sessEnd d n cause) := by
  unfold Dev.sessEnd
  with_reducible repeat' (first | assumption | exact .refl _ | (extract_lets +onlyGivenNames x; first | (refine Reach.have (x := x) ?_ (fun hx hxs => ?_); unfold x; clear x; rotate_left; clear_value x) | clear_value x) | (apply Reach.via (Dev.liveRefresh_reach ..); decide) | (apply Reach.via (Dev.setSess_reach ..); decide) | (apply Reach.ite <;> intro) | simp -zeta -iota only [↓Reach.mk_eq] | split | (apply ReachMk.intro <;> first | exact .inr (by decide) | rfl | exact .inl rfl | skip))

theorem Dev.sessClose_reach (d : Dev) (n : Nat) : Reach (Part.regs ||| Part.bil ||| Part.bst) d (Dev.sessClose d n) := by
  unfold Dev.sessClose
  with_reducible repeat' (first | assumption | exact .refl _ | (extract_lets +onlyGivenNames x; first | (refine Reach.have (x := x) ?_ (fun hx hxs => ?_); unfold x; clear x; rotate_left; clear_value x) | clear_value x) | (apply Reach.wr'; decide) | (apply Reach.via (Dev.sessEnd_reach ..); decide) | (apply Reach.ite <;> intro) | split)

theorem Dev.sessWindow_reach (d : Dev) (n ws we : Nat) : Reach (Part.regs ||| Part.bil) d (Dev.sessWindow d n ws we) := by
  unfold Dev.sessWindow
  with_reducible repeat' (first | assumption | exact .refl _ | (extract_lets +onlyGivenNames x; first | (refine Reach.have (x := x) ?_ (fun hx hxs => ?_); unfold x; clear x; rotate_left; clear_value x) | clear_value x) | (apply Reach.via (Dev.setSess_reach ..); decide) | (apply Reach.ite <;> intro) | simp -zeta -iota only [↓Reach.mk_eq] | split | (apply ReachMk.intro <;> first | exact .inr (by decide) | rfl | exact .inl rfl | skip))

theorem Dev.stopLatch_reach (d : Dev) (n tn : Nat) : Reach (Part.regs ||| Part.bil) d (Dev.stopLatch d n tn) := by
  unfold Dev.stopLatch
  with_reducible repeat' (first | assumption | exact .refl _ | (extract_lets +onlyGivenNames x; first | (refine Reach.have (x := x) ?_ (fun hx hxs => ?_); unfold x; clear x; rotate_left; clear_value x) | (have hf : Bil := x; clear hf; refine Reach.keep_bil (x := x) ?_ (fun hx => ?_); (· intro hs; unfold x; clear x; (repeat' (first | ((try simp only [Bil.Shaped] at *); simp +zetaDelta (maxDischargeDepth := 9) only [Bil.Shaped, Dev.Shaped.bil_sess, Dev.Shaped.wr, Dev.Shaped.resetDomains, setAt_length, addAt_length, List.length_map, List.length_replicate, List.length_cons, List.length_nil, List.length_zipWith, List.length_range, List.length_append, List.length_drop, List.length_take, Nat.reduceSub, Nat.reduceLeDiff, Nat.min_eq_left, *, and_self, Nat.reduceAdd, Nat.zero_add]; done) | split))); clear_value x) | clear_value x) | (apply Reach.via (Dev.setSess_reach ..); decide) | (apply Reach.ite <;> intro) | simp -zeta -iota only [↓Reach.mk_eq] | split | (apply ReachMk.intro <;> first | exact .inr (by decide) | rfl | exact .inl rfl | (refine .inr ⟨by decide, fun hs he => ?_⟩; (repeat' (first | ((try simp only [Bil.Shaped] at *); simp +zetaDelta (maxDischargeDepth := 9) only [Bil.Shaped, Dev.Shaped.bil_sess, Dev.Shaped.wr, Dev.Shaped.resetDomains, setAt_length, addAt_length, List.length_map, List.length_replicate, List.length_cons, List.length_nil, List.length_zipWith, List.length_range, List.length_append, List.length_drop, List.length_take, Nat.reduceSub, Nat.reduceLeDiff, Nat.min_eq_left, *, and_self, Nat.reduceAdd, Nat.zero_add]; done) | split)); done) | skip))

theorem Dev.sessLatch_reach (d : Dev) (n tn : Nat) : Reach (Part.regs ||| Part.bil) d (Dev.sessLatch d n tn) := by
  unfold Dev.sessLatch
  with_reducible repeat' (first | assumption | exact .refl _ | (extract_lets +onlyGivenNames x; first | (refine Reach.have (x := x) ?_ (fun hx hxs => ?_); unfold x; clear x; rotate_left; clear_value x) | clear_value x) | (apply Reach.via (Dev.setSess_reach ..); decide) | (apply Reach.via (Dev.stopLatch_reach ..); decide) | (apply Reach.ite <;> intro) | simp -zeta -iota only [↓Reach.mk_eq] | split | (apply ReachMk.intro <;> first | exact .inr (by decide) | rfl | exact .inl rfl | skip))

theorem Dev.sessCount_reach (d : Dev) (n : Nat) (p : Int) : Reach (Part.regs ||| Part.bil) d (Dev.sessCount d n p) := by
  unfold Dev.sessCount
  with_reducible repeat' (first | assumption | exact .refl _ | (extract_lets +onlyGivenNames x; first | (refine Reach.have (x := x) ?_ (fun hx hxs => ?_); unfold x; clear x; rotate_left; clear_value x) | clear_value x) | (apply Reach.via (Dev.setSess_reach ..); decide) | (apply Reach.ite <;> intro) | simp -zeta -iota only [↓Reach.mk_eq] | split | dsimp only | (apply ReachMk.intro <;> first | exact .inr (by decide) | rfl | exact .inl rfl | skip))

theorem Dev.sessStepped_reach (d : Dev) (step : Int) : Reach (Part.regs ||| Part.fl ||| Part.bil ||| Part.bst) d (Dev.sessStepped d step) := by
  unfold Dev.sessStepped
  with_reducible repeat' (first | assumption | exact .refl _ | (extract_lets +onlyGivenNames x; first | (have hf : Bil := x; clear hf; refine Reach.keep_bil (x := x) ?_ (fun hx => ?_); (· intro hs; unfold x; clear x; (repeat' (first | ((try simp only [Bil.Shaped] at *); simp +zetaDelta (maxDischargeDepth := 9) only [Bil.Shaped, Dev.Shaped.bil_sess, Dev.Shaped.wr, Dev.Shaped.resetDomains, setAt_length, addAt_length, List.length_map, List.length_replicate, List.length_cons, List.length_nil, List.length_zipWith, List.length_range, List.length_append, List.length_drop, List.length_take, Nat.reduceSub, Nat.reduceLeDiff, Nat.min_eq_left, *, and_self, Nat.reduceAdd, Nat.zero_add]; done) | split))); clear_value x) | clear_value x) | (apply Reach.via (Dev.logAdd_reach ..); decide) | (apply Reach.ite <;> intro) | simp -zeta -iota only [↓Reach.mk_eq] | split | (apply ReachMk.intro <;> first | exact .inr (by decide) | rfl | exact .inl rfl | (refine .inr ⟨by decide, fun hs he => ?_⟩; (repeat' (first | ((try simp only [Bil.Shaped] at *); simp +zetaDelta (maxDischargeDepth := 9) only [Bil.Shaped, Dev.Shaped.bil_sess, Dev.Shaped.wr, Dev.Shaped.resetDomains, setAt_length, addAt_length, List.length_map, List.length_replicate, List.length_cons, List.length_nil, List.length_zipWith, List.length_range, List.length_append, List.length_drop, List.length_take, Nat.reduceSub, Nat.reduceLeDiff, Nat.min_eq_left, *, and_self, Nat.reduceAdd, Nat.zero_add]; done) | split)); done) | skip))

theorem Dev.recordSigned_reach (d : Dev) (n : Nat) : Reach (Part.regs ||| Part.fl ||| Part.bil ||| Part.bst) d (Dev.recordSigned d n) := by
  unfold Dev.recordSigned
  with_reducible repeat' (first | assumption | exact .refl _ | (extract_lets +onlyGivenNames x; first | (refine Reach.have (x := x) ?_ (fun hx hxs => ?_); unfold x; clear x; rotate_left; clear_value x) | (have hf : Bil := x; clear hf; refine Reach.keep_bil (x := x) ?_ (fun hx => ?_); (· intro hs; unfold x; clear x; (repeat' (first | ((try simp only [Bil.Shaped] at *); simp +zetaDelta (maxDischargeDepth := 9) only [Bil.Shaped, Dev.Shaped.bil_sess, Dev.Shaped.wr, Dev.Shaped.resetDomains, setAt_length, addAt_length, List.length_map, List.length_replicate, List.length_cons, List.length_nil, List.length_zipWith, List.length_range, List.length_append, List.length_drop, List.length_take, Nat.reduceSub, Nat.reduceLeDiff, Nat.min_eq_left, *, and_self, Nat.reduceAdd, Nat.zero_add]; done) | split))); clear_value x) | clear_value x) | (apply Reach.wr'; decide) | (apply Reach.via (Dev.commitReq_reach ..); decide) | (apply Reach.via (Dev.liveRefresh_reach ..); decide) | (apply Reach.via (Dev.raise_reach ..); decide) | (apply Reach.via (Dev.recordReady_reach ..); decide) | (apply Reach.via (Dev.storeShow_reach ..); decide) | (apply Reach.ite <;> intro) | simp -zeta -iota only [↓Reach.mk_eq] | split | dsimp only | (apply ReachMk.intro <;> first | exact .inr (by decide) | rfl | exact .inl rfl | (refine .inr ⟨by decide, fun hs he => ?_⟩; (repeat' (first | ((try simp only [Bil.Shaped] at *); simp +zetaDelta (maxDischargeDepth := 9) only [Bil.Shaped, Dev.Shaped.bil_sess, Dev.Shaped.wr, Dev.Shaped.resetDomains, setAt_length, addAt_length, List.length_map, List.length_replicate, List.length_cons, List.length_nil, List.length_zipWith, List.length_range, List.length_append, List.length_drop, List.length_take, Nat.reduceSub, Nat.reduceLeDiff, Nat.min_eq_left, *, and_self, Nat.reduceAdd, Nat.zero_add]; done) | split)); done) | skip))

theorem Dev.recAck_reach (d : Dev) (v : Nat) : Reach (Part.regs ||| Part.bil ||| Part.bst) d (Dev.recAck d v) := by
  unfold Dev.recAck
  with_reducible repeat' (first | assumption | exact .refl _ | (extract_lets +onlyGivenNames x; first | (refine Reach.have (x := x) ?_ (fun hx hxs => ?_); unfold x; clear x; rotate_left; clear_value x) | (have hf := fun y => (x y : Dev); clear hf; unfold x; clear_value x) | (have hf := fun y z => (x y z : Dev); clear hf; unfold x; clear_value x) | (have hf : Bil := x; clear hf; refine Reach.keep_bil (x := x) ?_ (fun hx => ?_); (· intro hs; unfold x; clear x; (repeat' (first | ((try simp only [Bil.Shaped] at *); simp +zetaDelta (maxDischargeDepth := 9) only [Bil.Shaped, Dev.Shaped.bil_sess, Dev.Shaped.wr, Dev.Shaped.resetDomains, setAt_length, addAt_length, List.length_map, List.length_replicate, List.length_cons, List.length_nil, List.length_zipWith, List.length_range, List.length_append, List.length_drop, List.length_take, Nat.reduceSub, Nat.reduceLeDiff, Nat.min_eq_left, *, and_self, Nat.reduceAdd, Nat.zero_add]; done) | split))); clear_value x) | (have hf : BilStore := x; clear hf; refine Reach.keep_bst (x := x) ?_ (fun hx => ?_); (· intro hs; unfold x; clear x; (repeat' (first | ((try simp only [BilStore.Shaped] at *); simp +zetaDelta (maxDischargeDepth := 9) only [BilStore.Shaped, Dev.Shaped.bst_slots, Dev.Shaped.bst_copies, Dev.Shaped.wr, Dev.Shaped.resetDomains, setAt_length, addAt_length, List.length_map, List.length_replicate, List.length_cons, List.length_nil, List.length_zipWith, List.length_range, List.length_append, List.length_drop, List.length_take, Nat.reduceSub, Nat.reduceLeDiff, Nat.min_eq_left, *, and_self, Nat.reduceAdd, Nat.zero_add]; done) | split))); clear_value x) | clear_value x) | (apply Reach.wr'; decide) | (apply Reach.via (Dev.liveRefresh_reach ..); decide) | (apply Reach.via (Dev.storeShow_reach ..); decide) | (apply Reach.ite <;> intro) | simp -zeta -iota only [↓Reach.mk_eq] | split | dsimp only | (apply ReachMk.intro <;> first | exact .inr (by decide) | rfl | exact .inl rfl | (refine .inr ⟨by decide, fun hs he => ?_⟩; (repeat' (first | ((try simp only [Bil.Shaped] at *); simp +zetaDelta (maxDischargeDepth := 9) only [Bil.Shaped, Dev.Shaped.bil_sess, Dev.Shaped.wr, Dev.Shaped.resetDomains, setAt_length, addAt_length, List.length_map, List.length_replicate, List.length_cons, List.length_nil, List.length_zipWith, List.length_range, List.length_append, List.length_drop, List.length_take, Nat.reduceSub, Nat.reduceLeDiff, Nat.min_eq_left, *, and_self, Nat.reduceAdd, Nat.zero_add]; done) | split)); done) | (refine .inr ⟨by decide, fun hs he => ?_⟩; (repeat' (first | ((try simp only [BilStore.Shaped] at *); simp +zetaDelta (maxDischargeDepth := 9) only [BilStore.Shaped, Dev.Shaped.bst_slots, Dev.Shaped.bst_copies, Dev.Shaped.wr, Dev.Shaped.resetDomains, setAt_length, addAt_length, List.length_map, List.length_replicate, List.length_cons, List.length_nil, List.length_zipWith, List.length_range, List.length_append, List.length_drop, List.length_take, Nat.reduceSub, Nat.reduceLeDiff, Nat.min_eq_left, *, and_self, Nat.reduceAdd, Nat.zero_add]; done) | split)); done) | skip))

theorem Dev.logAck_reach (d : Dev) (v : Nat) : Reach (Part.regs ||| Part.bil ||| Part.bst) d (Dev.logAck d v) := by
  unfold Dev.logAck
  with_reducible repeat' (first | assumption | exact .refl _ | (extract_lets +onlyGivenNames x; first | (refine Reach.have (x := x) ?_ (fun hx hxs => ?_); unfold x; clear x; rotate_left; clear_value x) | (have hf := fun y => (x y : Dev); clear hf; unfold x; clear_value x) | (have hf := fun y z => (x y z : Dev); clear hf; unfold x; clear_value x) | (have hf : Bil := x; clear hf; refine Reach.keep_bil (x := x) ?_ (fun hx => ?_); (· intro hs; unfold x; clear x; (repeat' (first | ((try simp only [Bil.Shaped] at *); simp +zetaDelta (maxDischargeDepth := 9) only [Bil.Shaped, Dev.Shaped.bil_sess, Dev.Shaped.wr, Dev.Shaped.resetDomains, setAt_length, addAt_length, List.length_map, List.length_replicate, List.length_cons, List.length_nil, List.length_zipWith, List.length_range, List.length_append, List.length_drop, List.length_take, Nat.reduceSub, Nat.reduceLeDiff, Nat.min_eq_left, *, and_self, Nat.reduceAdd, Nat.zero_add]; done) | split))); clear_value x) | (have hf : BilStore := x; clear hf; refine Reach.keep_bst (x := x) ?_ (fun hx => ?_); (· intro hs; unfold x; clear x; (repeat' (first | ((try simp only [BilStore.Shaped] at *); simp +zetaDelta (maxDischargeDepth := 9) only [BilStore.Shaped, Dev.Shaped.bst_slots, Dev.Shaped.bst_copies, Dev.Shaped.wr, Dev.Shaped.resetDomains, setAt_length, addAt_length, List.length_map, List.length_replicate, List.length_cons, List.length_nil, List.length_zipWith, List.length_range, List.length_append, List.length_drop, List.length_take, Nat.reduceSub, Nat.reduceLeDiff, Nat.min_eq_left, *, and_self, Nat.reduceAdd, Nat.zero_add]; done) | split))); clear_value x) | clear_value x) | (apply Reach.wr'; decide) | (apply Reach.via (Dev.liveRefresh_reach ..); decide) | (apply Reach.via (Dev.storeShow_reach ..); decide) | (apply Reach.ite <;> intro) | simp -zeta -iota only [↓Reach.mk_eq] | split | dsimp only | (apply ReachMk.intro <;> first | exact .inr (by decide) | rfl | exact .inl rfl | (refine .inr ⟨by decide, fun hs he => ?_⟩; (repeat' (first | ((try simp only [Bil.Shaped] at *); simp +zetaDelta (maxDischargeDepth := 9) only [Bil.Shaped, Dev.Shaped.bil_sess, Dev.Shaped.wr, Dev.Shaped.resetDomains, setAt_length, addAt_length, List.length_map, List.length_replicate, List.length_cons, List.length_nil, List.length_zipWith, List.length_range, List.length_append, List.length_drop, List.length_take, Nat.reduceSub, Nat.reduceLeDiff, Nat.min_eq_left, *, and_self, Nat.reduceAdd, Nat.zero_add]; done) | split)); done) | (refine .inr ⟨by decide, fun hs he => ?_⟩; (repeat' (first | ((try simp only [BilStore.Shaped] at *); simp +zetaDelta (maxDischargeDepth := 9) only [BilStore.Shaped, Dev.Shaped.bst_slots, Dev.Shaped.bst_copies, Dev.Shaped.wr, Dev.Shaped.resetDomains, setAt_length, addAt_length, List.length_map, List.length_replicate, List.length_cons, List.length_nil, List.length_zipWith, List.length_range, List.length_append, List.length_drop, List.length_take, Nat.reduceSub, Nat.reduceLeDiff, Nat.min_eq_left, *, and_self, Nat.reduceAdd, Nat.zero_add]; done) | split)); done) | skip))

theorem Dev.recReq_reach (d : Dev) (xfer number : Nat) : Reach (Part.fl) d (Dev.recReq d xfer number) := by
  unfold Dev.recReq
  with_reducible repeat' (first | assumption | exact .refl _ | (extract_lets +onlyGivenNames x; first | (refine Reach.have (x := x) ?_ (fun hx hxs => ?_); unfold x; clear x; rotate_left; clear_value x) | clear_value x) | (apply Reach.via (Dev.sendBulk_reach ..); decide) | (apply Reach.via (Dev.sendF_reach ..); decide) | (apply Reach.ite <;> intro) | simp -zeta -iota only [↓Reach.mk_eq] | split | dsimp only | (apply ReachMk.intro <;> first | exact .inr (by decide) | rfl | exact .inl rfl | skip))

theorem Dev.restore_reach (d : Dev) (power : Bool) : Reach (Part.regs ||| Part.fl ||| Part.met ||| Part.bil ||| Part.bst) d (Dev.restore d power) := by
  unfold Dev.restore
  with_reducible repeat' (first | assumption | exact .refl _ | (extract_lets +onlyGivenNames x; first | (refine Reach.have (x := x) ?_ (fun hx hxs => ?_); unfold x; clear x; rotate_left; clear_value x) | (have hf := fun y => (x y : Dev); clear hf; unfold x; clear_value x) | (have hf := fun y z => (x y z : Dev); clear hf; unfold x; clear_value x) | (have hf : Metr := x; clear hf; refine Reach.keep_met (x := x) ?_ (fun hx => ?_); (· intro hs; unfold x; clear x; (repeat' (first | ((try simp only [Metr.Shaped] at *); simp +zetaDelta (maxDischargeDepth := 9) only [Metr.Shaped, Dev.Shaped.met_retAt, Dev.Shaped.met_tp, Dev.Shaped.wr, Dev.Shaped.resetDomains, setAt_length, addAt_length, List.length_map, List.length_replicate, List.length_cons, List.length_nil, List.length_zipWith, List.length_range, List.length_append, List.length_drop, List.length_take, Nat.reduceSub, Nat.reduceLeDiff, Nat.min_eq_left, *, and_self, Nat.reduceAdd, Nat.zero_add]; done) | split))); clear_value x) | (have hf : Bil := x; clear hf; refine Reach.keep_bil (x := x) ?_ (fun hx => ?_); (· intro hs; unfold x; clear x; (repeat' (first | ((try simp only [Bil.Shaped] at *); simp +zetaDelta (maxDischargeDepth := 9) only [Bil.Shaped, Dev.Shaped.bil_sess, Dev.Shaped.wr, Dev.Shaped.resetDomains, setAt_length, addAt_length, List.length_map, List.length_replicate, List.length_cons, List.length_nil, List.length_zipWith, List.length_range, List.length_append, List.length_drop, List.length_take, Nat.reduceSub, Nat.reduceLeDiff, Nat.min_eq_left, *, and_self, Nat.reduceAdd, Nat.zero_add]; done) | split))); clear_value x) | clear_value x) | (apply Reach.via (Dev.logAdd_reach ..); decide) | (apply Reach.via (Dev.raise_reach ..); decide) | (apply Reach.via (Dev.storeShow_reach ..); decide) | (apply Reach.via (Dev.wrAll_reach ..); decide) | (apply Reach.ite <;> intro) | simp -zeta -iota only [↓Reach.mk_eq] | split | dsimp only | (apply ReachMk.intro <;> first | exact .inr (by decide) | rfl | exact .inl rfl | (refine .inr ⟨by decide, fun hs he => ?_⟩; (repeat' (first | ((try simp only [Metr.Shaped] at *); simp +zetaDelta (maxDischargeDepth := 9) only [Metr.Shaped, Dev.Shaped.met_retAt, Dev.Shaped.met_tp, Dev.Shaped.wr, Dev.Shaped.resetDomains, setAt_length, addAt_length, List.length_map, List.length_replicate, List.length_cons, List.length_nil, List.length_zipWith, List.length_range, List.length_append, List.length_drop, List.length_take, Nat.reduceSub, Nat.reduceLeDiff, Nat.min_eq_left, *, and_self, Nat.reduceAdd, Nat.zero_add]; done) | split)); done) | (refine .inr ⟨by decide, fun hs he => ?_⟩; (repeat' (first | ((try simp only [Bil.Shaped] at *); simp +zetaDelta (maxDischargeDepth := 9) only [Bil.Shaped, Dev.Shaped.bil_sess, Dev.Shaped.wr, Dev.Shaped.resetDomains, setAt_length, addAt_length, List.length_map, List.length_replicate, List.length_cons, List.length_nil, List.length_zipWith, List.length_range, List.length_append, List.length_drop, List.length_take, Nat.reduceSub, Nat.reduceLeDiff, Nat.min_eq_left, *, and_self, Nat.reduceAdd, Nat.zero_add]; done) | split)); done) | skip))

theorem Dev.theftEntries_reach (d : Dev) : Reach (Part.regs ||| Part.fl ||| Part.bil ||| Part.bst ||| Part.tw) d (Dev.theftEntries d) := by
  unfold Dev.theftEntries
  with_reducible repeat' (first | assumption | exact .refl _ | (extract_lets +onlyGivenNames x; first | (refine Reach.have (x := x) ?_ (fun hx hxs => ?_); unfold x; clear x; rotate_left; clear_value x) | clear_value x) | (apply Reach.via (Dev.logAdd_reach ..); decide) | (apply Reach.via (Dev.raise_reach ..); decide) | (apply Reach.via (Dev.wrAll_reach ..); decide) | (apply Dev.forAll_reach <;> intros) | (apply Reach.ite <;> intro) | simp -zeta -iota only [↓Reach.mk_eq] | split | dsimp only | (apply ReachMk.intro <;> first | exact .inr (by decide) | rfl | exact .inl rfl | skip))

theorem Dev.dormantEntry_reach (d : Dev) (exit : Nat) : Reach (Part.regs ||| Part.fl ||| Part.bil ||| Part.bst ||| Part.tw) d (Dev.dormantEntry d exit) := by
  unfold Dev.dormantEntry
  with_reducible repeat' (first | assumption | exact .refl _ | (extract_lets +onlyGivenNames x; clear_value x) | (apply Reach.via (Dev.logAdd_reach ..); decide) | simp -zeta -iota only [↓Reach.mk_eq] | split | (apply ReachMk.intro <;> first | exact .inr (by decide) | rfl | exact .inl rfl | skip))

theorem Dev.episodePut_reach (d : Dev) (e : Episode) : Reach (Part.regs ||| Part.tw) d (Dev.episodePut d e) := by
  unfold Dev.episodePut
  with_reducible repeat' (first | assumption | exact .refl _ | (extract_lets +onlyGivenNames x; first | (refine Reach.have (x := x) ?_ (fun hx hxs => ?_); unfold x; clear x; rotate_left; clear_value x) | clear_value x) | (apply Reach.via (Dev.wrAll_reach ..); decide) | (apply Reach.ite <;> intro) | simp -zeta -iota only [↓Reach.mk_eq] | split | (apply ReachMk.intro <;> first | exact .inr (by decide) | rfl | exact .inl rfl | skip))

theorem Dev.theftBlock_reach (d : Dev) (samples : List (List Int)) : Reach (Part.regs ||| Part.tm ||| Part.tw) d (Dev.theftBlock d samples) := by
  unfold Dev.theftBlock
  with_reducible repeat' (first | assumption | exact .refl _ | (extract_lets +onlyGivenNames x; first | (refine Reach.have (x := x) ?_ (fun hx hxs => ?_); unfold x; clear x; rotate_left; clear_value x) | (have hf := fun y => (x y : Dev); clear hf; unfold x; clear_value x) | (have hf := fun y z => (x y z : Dev); clear hf; unfold x; clear_value x) | (have hf : SiteTime := x; clear hf; refine Reach.keep_tm (x := x) ?_ (fun hx => ?_); (· intro hs; unfold x; clear x; (repeat' (first | ((try simp only [SiteTime.Shaped] at *); simp +zetaDelta (maxDischargeDepth := 9) only [SiteTime.Shaped, Dev.Shaped.tm_pdelaySeq, Dev.Shaped.wr, Dev.Shaped.resetDomains, setAt_length, addAt_length, List.length_map, List.length_replicate, List.length_cons, List.length_nil, List.length_zipWith, List.length_range, List.length_append, List.length_drop, List.length_take, Nat.reduceSub, Nat.reduceLeDiff, Nat.min_eq_left, *, and_self, Nat.reduceAdd, Nat.zero_add]; done) | split))); clear_value x) | clear_value x) | (apply Reach.via (Dev.episodePut_reach ..); decide) | (apply Reach.ite <;> intro) | simp -zeta -iota only [↓Reach.mk_eq] | split | dsimp only | (apply ReachMk.intro <;> first | exact .inr (by decide) | rfl | exact .inl rfl | (refine .inr ⟨by decide, fun hs he => ?_⟩; (repeat' (first | ((try simp only [SiteTime.Shaped] at *); simp +zetaDelta (maxDischargeDepth := 9) only [SiteTime.Shaped, Dev.Shaped.tm_pdelaySeq, Dev.Shaped.wr, Dev.Shaped.resetDomains, setAt_length, addAt_length, List.length_map, List.length_replicate, List.length_cons, List.length_nil, List.length_zipWith, List.length_range, List.length_append, List.length_drop, List.length_take, Nat.reduceSub, Nat.reduceLeDiff, Nat.min_eq_left, *, and_self, Nat.reduceAdd, Nat.zero_add]; done) | split)); done) | skip))

theorem Dev.theftExit_reach (d : Dev) : Reach (Part.regs ||| Part.tw) d (Dev.theftExit d) := by
  unfold Dev.theftExit
  with_reducible repeat' (first | assumption | exact .refl _ | (extract_lets +onlyGivenNames x; first | (refine Reach.have (x := x) ?_ (fun hx hxs => ?_); unfold x; clear x; rotate_left; clear_value x) | clear_value x) | (apply Reach.via (Dev.episodePut_reach ..); decide) | simp -zeta -iota only [↓Reach.mk_eq] | split | (apply ReachMk.intro <;> first | exact .inr (by decide) | rfl | exact .inl rfl | skip))

theorem Dev.sealReq_reach (d : Dev) (key : Nat) : Reach (Part.regs ||| Part.fl ||| Part.bil) d (Dev.sealReq d key) := by
  unfold Dev.sealReq
  with_reducible repeat' (first | assumption | exact .refl _ | (extract_lets +onlyGivenNames x; first | (refine Reach.have (x := x) ?_ (fun hx hxs => ?_); unfold x; clear x; rotate_left; clear_value x) | (have hf : Bil := x; clear hf; refine Reach.keep_bil (x := x) ?_ (fun hx => ?_); (· intro hs; unfold x; clear x; (repeat' (first | ((try simp only [Bil.Shaped] at *); simp +zetaDelta (maxDischargeDepth := 9) only [Bil.Shaped, Dev.Shaped.bil_sess, Dev.Shaped.wr, Dev.Shaped.resetDomains, setAt_length, addAt_length, List.length_map, List.length_replicate, List.length_cons, List.length_nil, List.length_zipWith, List.length_range, List.length_append, List.length_drop, List.length_take, Nat.reduceSub, Nat.reduceLeDiff, Nat.min_eq_left, *, and_self, Nat.reduceAdd, Nat.zero_add]; done) | split))); clear_value x) | clear_value x) | (apply Reach.wr'; decide) | (apply Reach.via (Dev.raise_reach ..); decide) | (apply Reach.ite <;> intro) | simp -zeta -iota only [↓Reach.mk_eq] | split | dsimp only | (apply ReachMk.intro <;> first | exact .inr (by decide) | rfl | exact .inl rfl | (refine .inr ⟨by decide, fun hs he => ?_⟩; (repeat' (first | ((try simp only [Bil.Shaped] at *); simp +zetaDelta (maxDischargeDepth := 9) only [Bil.Shaped, Dev.Shaped.bil_sess, Dev.Shaped.wr, Dev.Shaped.resetDomains, setAt_length, addAt_length, List.length_map, List.length_replicate, List.length_cons, List.length_nil, List.length_zipWith, List.length_range, List.length_append, List.length_drop, List.length_take, Nat.reduceSub, Nat.reduceLeDiff, Nat.min_eq_left, *, and_self, Nat.reduceAdd, Nat.zero_add]; done) | split)); done) | skip))

theorem Dev.sealDone_reach (d : Dev) : Reach (Part.regs ||| Part.fl ||| Part.bil ||| Part.bst ||| Part.ffuse) d (Dev.sealDone d) := by
  unfold Dev.sealDone
  with_reducible repeat' (first | assumption | exact .refl _ | (extract_lets +onlyGivenNames x; first | (refine Reach.have (x := x) ?_ (fun hx hxs => ?_); unfold x; clear x; rotate_left; clear_value x) | (have hf : Fuses := x; clear hf; unfold x; clear_value x) | (have hf : Bil := x; clear hf; refine Reach.keep_bil (x := x) ?_ (fun hx => ?_); (· intro hs; unfold x; clear x; (repeat' (first | ((try simp only [Bil.Shaped] at *); simp +zetaDelta (maxDischargeDepth := 9) only [Bil.Shaped, Dev.Shaped.bil_sess, Dev.Shaped.wr, Dev.Shaped.resetDomains, setAt_length, addAt_length, List.length_map, List.length_replicate, List.length_cons, List.length_nil, List.length_zipWith, List.length_range, List.length_append, List.length_drop, List.length_take, Nat.reduceSub, Nat.reduceLeDiff, Nat.min_eq_left, *, and_self, Nat.reduceAdd, Nat.zero_add]; done) | split))); clear_value x) | clear_value x) | (apply Reach.wr'; decide) | (apply Reach.via (Dev.commitReq_reach ..); decide) | (apply Reach.via (Dev.logAdd_reach ..); decide) | (apply Reach.via (Dev.raise_reach ..); decide) | (apply Reach.via (Dev.wrWords_reach ..); decide) | (apply Reach.ite <;> intro) | simp -zeta -iota only [↓Reach.mk_eq] | split | dsimp only | (apply ReachMk.intro <;> first | exact .inr (by decide) | rfl | exact .inl rfl | exact .inr ⟨by decide, .seal _ _⟩ | exact .inr ⟨by decide, .cont _⟩ | (refine .inr ⟨by decide, fun hs he => ?_⟩; (repeat' (first | ((try simp only [Bil.Shaped] at *); simp +zetaDelta (maxDischargeDepth := 9) only [Bil.Shaped, Dev.Shaped.bil_sess, Dev.Shaped.wr, Dev.Shaped.resetDomains, setAt_length, addAt_length, List.length_map, List.length_replicate, List.length_cons, List.length_nil, List.length_zipWith, List.length_range, List.length_append, List.length_drop, List.length_take, Nat.reduceSub, Nat.reduceLeDiff, Nat.min_eq_left, *, and_self, Nat.reduceAdd, Nat.zero_add]; done) | split)); done) | skip))

theorem Dev.metInstant_reach (d : Dev) (main vh : List Int) : Reach (Part.regs ||| Part.free ||| Part.fl ||| Part.tm ||| Part.tlm ||| Part.shr ||| Part.met ||| Part.bil ||| Part.bst) d (Dev.metInstant d main vh) := by
  unfold Dev.metInstant
  with_reducible repeat' (first | assumption | exact .refl _ | (extract_lets +onlyGivenNames x; first | (refine Reach.have (x := x) ?_ (fun hx hxs => ?_); unfold x; clear x; rotate_left; clear_value x) | (refine Reach.have (x := x.1) ?_ (fun hx hxs => ?_); unfold x; clear x; rotate_left; clear_value x) | (refine Reach.have (x := x.2) ?_ (fun hx hxs => ?_); unfold x; clear x; rotate_left; clear_value x) | (refine Reach.have (x := x.2.2) ?_ (fun hx hxs => ?_); unfold x; clear x; rotate_left; clear_value x) | (have hf : Metr := x; clear hf; refine Reach.keep_met (x := x) ?_ (fun hx => ?_); (· intro hs; unfold x; clear x; (repeat' (first | ((try simp only [Metr.Shaped] at *); simp +zetaDelta (maxDischargeDepth := 9) only [Reach.shaped (Dev.metTake_reach ..), Metr.Shaped, Dev.Shaped.met_retAt, Dev.Shaped.met_tp, Dev.Shaped.wr, Dev.Shaped.resetDomains, setAt_length, addAt_length, List.length_map, List.length_replicate, List.length_cons, List.length_nil, List.length_zipWith, List.length_range, List.length_append, List.length_drop, List.length_take, Nat.reduceSub, Nat.reduceLeDiff, Nat.min_eq_left, *, and_self, Nat.reduceAdd, Nat.zero_add]; done) | split))); clear_value x) | clear_value x) | (apply Reach.via (Dev.advanceTo_reach ..); decide) | (apply Reach.via (Dev.applyIncs_reach ..); decide) | (apply Reach.via (Dev.guardAc_reach ..); decide) | (apply Reach.via (Dev.liveWrite_reach ..); decide) | (apply Reach.via (Dev.metSamples_reach ..); decide) | (apply Reach.via (Dev.metTake_reach ..); decide) | (apply Reach.via (Dev.sessCount_reach ..); decide) | (apply Reach.via (Dev.sessLatch_reach ..); decide) | (apply Reach.via (Dev.sessWindow_reach ..); decide) | (apply Reach.via (Dev.tlmAc_reach ..); decide) | (apply Reach.via (Dev.windowAdd_reach ..); decide) | (apply Reach.via (Dev.windowClose_reach ..); decide) | (apply Dev.forAll_reach <;> intros) | (apply Reach.ite <;> intro) | simp -zeta -iota only [↓Reach.mk_eq] | split | dsimp only | (apply ReachMk.intro <;> first | exact .inr (by decide) | rfl | exact .inl rfl | (refine .inr ⟨by decide, fun hs he => ?_⟩; (repeat' (first | ((try simp only [Metr.Shaped] at *); simp +zetaDelta (maxDischargeDepth := 9) only [Reach.shaped (Dev.metTake_reach ..), Metr.Shaped, Dev.Shaped.met_retAt, Dev.Shaped.met_tp, Dev.Shaped.wr, Dev.Shaped.resetDomains, setAt_length, addAt_length, List.length_map, List.length_replicate, List.length_cons, List.length_nil, List.length_zipWith, List.length_range, List.length_append, List.length_drop, List.length_take, Nat.reduceSub, Nat.reduceLeDiff, Nat.min_eq_left, *, and_self, Nat.reduceAdd, Nat.zero_add]; done) | split)); done) | skip))

theorem Dev.lrDone_reach (d : Dev) (ok : Bool) : Reach (Part.regs ||| Part.fl ||| Part.met ||| Part.bil ||| Part.bst) d (Dev.lrDone d ok) := by
  unfold Dev.lrDone
  with_reducible repeat' (first | assumption | exact .refl _ | (extract_lets +onlyGivenNames x; first | (refine Reach.have (x := x) ?_ (fun hx hxs => ?_); unfold x; clear x; rotate_left; clear_value x) | (have hf : Metr := x; clear hf; refine Reach.keep_met (x := x) ?_ (fun hx => ?_); (· intro hs; unfold x; clear x; (repeat' (first | ((try simp only [Metr.Shaped] at *); simp +zetaDelta (maxDischargeDepth := 9) only [Metr.Shaped, Dev.Shaped.met_retAt, Dev.Shaped.met_tp, Dev.Shaped.wr, Dev.Shaped.resetDomains, setAt_length, addAt_length, List.length_map, List.length_replicate, List.length_cons, List.length_nil, List.length_zipWith, List.length_range, List.length_append, List.length_drop, List.length_take, Nat.reduceSub, Nat.reduceLeDiff, Nat.min_eq_left, *, and_self, Nat.reduceAdd, Nat.zero_add]; done) | split))); clear_value x) | (have hf : BilStore := x; clear hf; refine Reach.keep_bst (x := x) ?_ (fun hx => ?_); (· intro hs; unfold x; clear x; (repeat' (first | ((try simp only [BilStore.Shaped] at *); simp +zetaDelta (maxDischargeDepth := 9) only [BilStore.Shaped, Dev.Shaped.bst_slots, Dev.Shaped.bst_copies, Dev.Shaped.wr, Dev.Shaped.resetDomains, setAt_length, addAt_length, List.length_map, List.length_replicate, List.length_cons, List.length_nil, List.length_zipWith, List.length_range, List.length_append, List.length_drop, List.length_take, Nat.reduceSub, Nat.reduceLeDiff, Nat.min_eq_left, *, and_self, Nat.reduceAdd, Nat.zero_add]; done) | split))); clear_value x) | clear_value x) | (apply Reach.wr'; decide) | (apply Reach.via (Dev.logAdd_reach ..); decide) | (apply Reach.via (Dev.lrShow_reach ..); decide) | (apply Reach.via (Dev.metStart_reach ..); decide) | (apply Reach.via (Dev.raise_reach ..); decide) | (apply Reach.ite <;> intro) | simp -zeta -iota only [↓Reach.mk_eq] | split | (apply ReachMk.intro <;> first | exact .inr (by decide) | rfl | exact .inl rfl | (refine .inr ⟨by decide, fun hs he => ?_⟩; (repeat' (first | ((try simp only [Metr.Shaped] at *); simp +zetaDelta (maxDischargeDepth := 9) only [Metr.Shaped, Dev.Shaped.met_retAt, Dev.Shaped.met_tp, Dev.Shaped.wr, Dev.Shaped.resetDomains, setAt_length, addAt_length, List.length_map, List.length_replicate, List.length_cons, List.length_nil, List.length_zipWith, List.length_range, List.length_append, List.length_drop, List.length_take, Nat.reduceSub, Nat.reduceLeDiff, Nat.min_eq_left, *, and_self, Nat.reduceAdd, Nat.zero_add]; done) | split)); done) | (refine .inr ⟨by decide, fun hs he => ?_⟩; (repeat' (first | ((try simp only [BilStore.Shaped] at *); simp +zetaDelta (maxDischargeDepth := 9) only [BilStore.Shaped, Dev.Shaped.bst_slots, Dev.Shaped.bst_copies, Dev.Shaped.wr, Dev.Shaped.resetDomains, setAt_length, addAt_length, List.length_map, List.length_replicate, List.length_cons, List.length_nil, List.length_zipWith, List.length_range, List.length_append, List.length_drop, List.length_take, Nat.reduceSub, Nat.reduceLeDiff, Nat.min_eq_left, *, and_self, Nat.reduceAdd, Nat.zero_add]; done) | split)); done) | skip))

theorem Dev.metEclr_reach (d : Dev) (v : Nat) : Reach (Part.regs ||| Part.fl ||| Part.met ||| Part.bil ||| Part.bst) d (Dev.metEclr d v) := by
  unfold Dev.metEclr
  with_reducible repeat' (first | assumption | exact .refl _ | (extract_lets +onlyGivenNames x; first | (refine Reach.have (x := x) ?_ (fun hx hxs => ?_); unfold x; clear x; rotate_left; clear_value x) | (have hf := fun y => (x y : Dev); clear hf; unfold x; clear_value x) | (have hf := fun y z => (x y z : Dev); clear hf; unfold x; clear_value x) | (have hf : Metr := x; clear hf; refine Reach.keep_met (x := x) ?_ (fun hx => ?_); (· intro hs; unfold x; clear x; (repeat' (first | ((try simp only [Metr.Shaped] at *); simp +zetaDelta (maxDischargeDepth := 9) only [Metr.Shaped, Dev.Shaped.met_retAt, Dev.Shaped.met_tp, Dev.Shaped.wr, Dev.Shaped.resetDomains, setAt_length, addAt_length, List.length_map, List.length_replicate, List.length_cons, List.length_nil, List.length_zipWith, List.length_range, List.length_append, List.length_drop, List.length_take, Nat.reduceSub, Nat.reduceLeDiff, Nat.min_eq_left, *, and_self, Nat.reduceAdd, Nat.zero_add]; done) | split))); clear_value x) | clear_value x) | (apply Reach.via (Dev.logAdd_reach ..); decide) | (apply Reach.ite <;> intro) | simp -zeta -iota only [↓Reach.mk_eq] | split | dsimp only | (apply ReachMk.intro <;> first | exact .inr (by decide) | rfl | exact .inl rfl | (refine .inr ⟨by decide, fun hs he => ?_⟩; (repeat' (first | ((try simp only [Metr.Shaped] at *); simp +zetaDelta (maxDischargeDepth := 9) only [Metr.Shaped, Dev.Shaped.met_retAt, Dev.Shaped.met_tp, Dev.Shaped.wr, Dev.Shaped.resetDomains, setAt_length, addAt_length, List.length_map, List.length_replicate, List.length_cons, List.length_nil, List.length_zipWith, List.length_range, List.length_append, List.length_drop, List.length_take, Nat.reduceSub, Nat.reduceLeDiff, Nat.min_eq_left, *, and_self, Nat.reduceAdd, Nat.zero_add]; done) | split)); done) | skip))

end Sys2Proof.Machine
end

