-- ==== Sys2Proof/Laws/ReachFieldNet.lean ====
section
/-! SUPPORT. What the functions of Machine/FieldNet.lean can do to the block. -/

set_option linter.tactic.unusedName false
set_option linter.unusedTactic false
set_option linter.unusedSimpArgs false
set_option linter.unreachableTactic false
set_option maxHeartbeats 800000

namespace Sys2Proof.Machine

theorem Dev.setPort_reach (d : Dev) (p : Nat) (x : PortRt) : Reach (Part.net) d (Dev.setPort d p x) := by
  unfold Dev.setPort
  with_reducible repeat' (first | assumption | exact .refl _ | (extract_lets +onlyGivenNames x; first | (have hf : Net := x; clear hf; refine Reach.keep_net (x := x) ?_ (fun hx => ?_); (· intro hs; unfold x; clear x; (repeat' (first | ((try simp only [Net.Shaped] at *); simp +zetaDelta (maxDischargeDepth := 9) only [Net.Shaped, Dev.Shaped.net_ports, Dev.Shaped.net_ptp, Dev.Shaped.net_cells, Dev.Shaped.wr, Dev.Shaped.resetDomains, setAt_length, addAt_length, List.length_map, List.length_replicate, List.length_cons, List.length_nil, List.length_zipWith, List.length_range, List.length_append, List.length_drop, List.length_take, Nat.reduceSub, Nat.reduceLeDiff, Nat.min_eq_left, *, and_self, Nat.reduceAdd, Nat.zero_add]; done) | split))); clear_value x) | clear_value x) | simp -zeta -iota only [↓Reach.mk_eq] | (apply ReachMk.intro <;> first | exact .inr (by decide) | rfl | exact .inl rfl | (refine .inr ⟨by decide, fun hs he => ?_⟩; (repeat' (first | ((try simp only [Net.Shaped] at *); simp +zetaDelta (maxDischargeDepth := 9) only [Net.Shaped, Dev.Shaped.net_ports, Dev.Shaped.net_ptp, Dev.Shaped.net_cells, Dev.Shaped.wr, Dev.Shaped.resetDomains, setAt_length, addAt_length, List.length_map, List.length_replicate, List.length_cons, List.length_nil, List.length_zipWith, List.length_range, List.length_append, List.length_drop, List.length_take, Nat.reduceSub, Nat.reduceLeDiff, Nat.min_eq_left, *, and_self, Nat.reduceAdd, Nat.zero_add]; done) | split)); done) | skip))

theorem Dev.fieldLink_reach (d : Dev) (p : Nat) (up supported : Bool) : Reach (Part.regs ||| Part.fl) d (Dev.fieldLink d p up supported) := by
  unfold Dev.fieldLink
  with_reducible repeat' (first | assumption | exact .refl _ | (extract_lets +onlyGivenNames x; first | (refine Reach.have (x := x) ?_ (fun hx hxs => ?_); unfold x; clear x; rotate_left; clear_value x) | clear_value x) | (apply Reach.wr'; decide) | (apply Reach.via (Dev.raise_reach ..); decide) | (apply Reach.via (Dev.wrB_reach ..); decide) | (apply Reach.ite <;> intro) | split | dsimp only)

theorem Dev.rxDrop_reach (d : Dev) (p : Nat) (f : Fld) : Reach (Part.regs ||| Part.fl ||| Part.net) d (Dev.rxDrop d p f) := by
  unfold Dev.rxDrop
  with_reducible repeat' (first | assumption | exact .refl _ | (extract_lets +onlyGivenNames x; first | (refine Reach.have (x := x) ?_ (fun hx hxs => ?_); unfold x; clear x; rotate_left; clear_value x) | clear_value x) | (apply Reach.via (Dev.bump_reach ..); decide) | (apply Reach.via (Dev.raise_reach ..); decide) | (apply Reach.via (Dev.setPort_reach ..); decide) | (apply Reach.ite <;> intro) | simp -zeta -iota only [↓Reach.mk_eq] | split | (apply ReachMk.intro <;> first | exact .inr (by decide) | rfl | exact .inl rfl | skip))

theorem Dev.bufPeak_reach (d : Dev) (c : Nat) : Reach (Part.regs) d (Dev.bufPeak d c) := by
  unfold Dev.bufPeak
  with_reducible repeat' (first | assumption | exact .refl _ | (extract_lets +onlyGivenNames x; first | (refine Reach.have (x := x) ?_ (fun hx hxs => ?_); unfold x; clear x; rotate_left; clear_value x) | clear_value x) | (apply Reach.wr'; decide) | dsimp only)

theorem Dev.rxAdmit_reach (d : Dev) (p c len : Nat) : Reach (Part.regs ||| Part.fl ||| Part.net) d (Dev.rxAdmit d p c len) := by
  unfold Dev.rxAdmit
  with_reducible repeat' (first | assumption | exact .refl _ | (extract_lets +onlyGivenNames x; first | (refine Reach.have (x := x) ?_ (fun hx hxs => ?_); unfold x; clear x; rotate_left; clear_value x) | (have hf : Net := x; clear hf; refine Reach.keep_net (x := x) ?_ (fun hx => ?_); (· intro hs; unfold x; clear x; (repeat' (first | ((try simp only [Net.Shaped] at *); simp +zetaDelta (maxDischargeDepth := 9) only [Net.Shaped, Dev.Shaped.net_ports, Dev.Shaped.net_ptp, Dev.Shaped.net_cells, Dev.Shaped.wr, Dev.Shaped.resetDomains, setAt_length, addAt_length, List.length_map, List.length_replicate, List.length_cons, List.length_nil, List.length_zipWith, List.length_range, List.length_append, List.length_drop, List.length_take, Nat.reduceSub, Nat.reduceLeDiff, Nat.min_eq_left, *, and_self, Nat.reduceAdd, Nat.zero_add]; done) | split))); clear_value x) | clear_value x) | (apply Reach.via (Dev.bufPeak_reach ..); decide) | (apply Reach.via (Dev.rxDrop_reach ..); decide) | (apply Reach.ite <;> intro) | simp -zeta -iota only [↓Reach.mk_eq] | split | (apply ReachMk.intro <;> first | exact .inr (by decide) | rfl | exact .inl rfl | (refine .inr ⟨by decide, fun hs he => ?_⟩; (repeat' (first | ((try simp only [Net.Shaped] at *); simp +zetaDelta (maxDischargeDepth := 9) only [Net.Shaped, Dev.Shaped.net_ports, Dev.Shaped.net_ptp, Dev.Shaped.net_cells, Dev.Shaped.wr, Dev.Shaped.resetDomains, setAt_length, addAt_length, List.length_map, List.length_replicate, List.length_cons, List.length_nil, List.length_zipWith, List.length_range, List.length_append, List.length_drop, List.length_take, Nat.reduceSub, Nat.reduceLeDiff, Nat.min_eq_left, *, and_self, Nat.reduceAdd, Nat.zero_add]; done) | split)); done) | skip))

theorem Dev.rxFree_reach (d : Dev) (c : Nat) : Reach (Part.net) d (Dev.rxFree d c) := by
  unfold Dev.rxFree
  with_reducible repeat' (first | assumption | exact .refl _ | (extract_lets +onlyGivenNames x; first | (have hf : Net := x; clear hf; refine Reach.keep_net (x := x) ?_ (fun hx => ?_); (· intro hs; unfold x; clear x; (repeat' (first | ((try simp only [Net.Shaped] at *); simp +zetaDelta (maxDischargeDepth := 9) only [Net.Shaped, Dev.Shaped.net_ports, Dev.Shaped.net_ptp, Dev.Shaped.net_cells, Dev.Shaped.wr, Dev.Shaped.resetDomains, setAt_length, addAt_length, List.length_map, List.length_replicate, List.length_cons, List.length_nil, List.length_zipWith, List.length_range, List.length_append, List.length_drop, List.length_take, Nat.reduceSub, Nat.reduceLeDiff, Nat.min_eq_left, *, and_self, Nat.reduceAdd, Nat.zero_add]; done) | split))); clear_value x) | clear_value x) | simp -zeta -iota only [↓Reach.mk_eq] | dsimp only | (apply ReachMk.intro <;> first | exact .inr (by decide) | rfl | exact .inl rfl | (refine .inr ⟨by decide, fun hs he => ?_⟩; (repeat' (first | ((try simp only [Net.Shaped] at *); simp +zetaDelta (maxDischargeDepth := 9) only [Net.Shaped, Dev.Shaped.net_ports, Dev.Shaped.net_ptp, Dev.Shaped.net_cells, Dev.Shaped.wr, Dev.Shaped.resetDomains, setAt_length, addAt_length, List.length_map, List.length_replicate, List.length_cons, List.length_nil, List.length_zipWith, List.length_range, List.length_append, List.length_drop, List.length_take, Nat.reduceSub, Nat.reduceLeDiff, Nat.min_eq_left, *, and_self, Nat.reduceAdd, Nat.zero_add]; done) | split)); done) | skip))

theorem Dev.fieldFrame_reach (d : Dev) (p : Nat) (frame : List Byte) (fcsOk : Bool) : Reach (Part.regs ||| Part.fl ||| Part.net) d (Dev.fieldFrame d p frame fcsOk) := by
  unfold Dev.fieldFrame
  with_reducible repeat' (first | assumption | exact .refl _ | (extract_lets +onlyGivenNames x; clear_value x) | (apply Reach.via (Dev.rxAdmit_reach ..); decide) | (apply Reach.via (Dev.rxDrop_reach ..); decide) | (apply Reach.ite <;> intro) | simp -zeta -iota only [↓Reach.mk_eq] | split | (apply ReachMk.intro <;> first | exact .inr (by decide) | rfl | exact .inl rfl | skip))

theorem Dev.fieldTxStart_reach (d : Dev) (p : Nat) : Reach (Part.net) d (Dev.fieldTxStart d p) := by
  unfold Dev.fieldTxStart
  with_reducible repeat' (first | assumption | exact .refl _ | (extract_lets +onlyGivenNames x; first | (refine Reach.have (x := x) ?_ (fun hx hxs => ?_); unfold x; clear x; rotate_left; clear_value x) | clear_value x) | (apply Reach.via (Dev.setPort_reach ..); decide) | (apply Reach.ite <;> intro) | simp -zeta -iota only [↓Reach.mk_eq] | split | dsimp only | (apply ReachMk.intro <;> first | exact .inr (by decide) | rfl | exact .inl rfl | skip))

theorem Dev.txQueue_reach (d : Dev) (p q : Nat) (f : TxFrame) : Reach (Part.net) d (Dev.txQueue d p q f) := by
  unfold Dev.txQueue
  with_reducible repeat' (first | assumption | exact .refl _ | (extract_lets +onlyGivenNames x; first | (refine Reach.have (x := x) ?_ (fun hx hxs => ?_); unfold x; clear x; rotate_left; clear_value x) | clear_value x) | (apply Reach.via (Dev.setPort_reach ..); decide) | simp -zeta -iota only [↓Reach.mk_eq] | (apply ReachMk.intro <;> first | exact .inr (by decide) | rfl | exact .inl rfl | skip))

theorem Dev.gclMs_reach (d : Dev) : Reach (Part.regs ||| Part.net) d (Dev.gclMs d) := by
  unfold Dev.gclMs
  with_reducible repeat' (first | assumption | exact .refl _ | (extract_lets +onlyGivenNames x; clear_value x) | (apply Reach.wr'; decide) | (apply Reach.via (Dev.setPort_reach ..); decide) | (apply Dev.forAll_reach <;> intros) | (apply Reach.ite <;> intro) | simp -zeta -iota only [↓Reach.mk_eq] | split | dsimp only | (apply ReachMk.intro <;> first | exact .inr (by decide) | rfl | exact .inl rfl | skip))

theorem Dev.txLate_reach (d : Dev) : Reach (Part.regs ||| Part.net) d (Dev.txLate d) := by
  unfold Dev.txLate
  with_reducible repeat' (first | assumption | exact .refl _ | (extract_lets +onlyGivenNames x; first | (refine Reach.have (x := x) ?_ (fun hx hxs => ?_); unfold x; clear x; rotate_left; clear_value x) | clear_value x) | (apply Reach.via (Dev.bumpBy_reach ..); decide) | (apply Reach.via (Dev.setPort_reach ..); decide) | (apply Dev.forAll_reach <;> intros) | simp -zeta -iota only [↓Reach.mk_eq] | split | dsimp only | (apply ReachMk.intro <;> first | exact .inr (by decide) | rfl | exact .inl rfl | skip))

theorem Dev.shrTransmit_reach (d : Dev) : Reach (Part.tm ||| Part.shr ||| Part.net) d (Dev.shrTransmit d) := by
  unfold Dev.shrTransmit
  with_reducible repeat' (first | assumption | exact .refl _ | (extract_lets +onlyGivenNames x; first | (refine Reach.have (x := x) ?_ (fun hx hxs => ?_); unfold x; clear x; rotate_left; clear_value x) | clear_value x) | (apply Reach.via (Dev.advanceTo_reach ..); decide) | (apply Reach.via (Dev.txQueue_reach ..); decide) | (apply Dev.forAll_reach <;> intros) | (apply Reach.ite <;> intro) | simp -zeta -iota only [↓Reach.mk_eq] | split | dsimp only | (apply ReachMk.intro <;> first | exact .inr (by decide) | rfl | exact .inl rfl | skip))

theorem Dev.setPtp_reach (d : Dev) (p : Nat) (x : PtpRt) : Reach (Part.net) d (Dev.setPtp d p x) := by
  unfold Dev.setPtp
  with_reducible repeat' (first | assumption | exact .refl _ | (extract_lets +onlyGivenNames x; first | (have hf : Net := x; clear hf; refine Reach.keep_net (x := x) ?_ (fun hx => ?_); (· intro hs; unfold x; clear x; (repeat' (first | ((try simp only [Net.Shaped] at *); simp +zetaDelta (maxDischargeDepth := 9) only [Net.Shaped, Dev.Shaped.net_ports, Dev.Shaped.net_ptp, Dev.Shaped.net_cells, Dev.Shaped.wr, Dev.Shaped.resetDomains, setAt_length, addAt_length, List.length_map, List.length_replicate, List.length_cons, List.length_nil, List.length_zipWith, List.length_range, List.length_append, List.length_drop, List.length_take, Nat.reduceSub, Nat.reduceLeDiff, Nat.min_eq_left, *, and_self, Nat.reduceAdd, Nat.zero_add]; done) | split))); clear_value x) | clear_value x) | simp -zeta -iota only [↓Reach.mk_eq] | (apply ReachMk.intro <;> first | exact .inr (by decide) | rfl | exact .inl rfl | (refine .inr ⟨by decide, fun hs he => ?_⟩; (repeat' (first | ((try simp only [Net.Shaped] at *); simp +zetaDelta (maxDischargeDepth := 9) only [Net.Shaped, Dev.Shaped.net_ports, Dev.Shaped.net_ptp, Dev.Shaped.net_cells, Dev.Shaped.wr, Dev.Shaped.resetDomains, setAt_length, addAt_length, List.length_map, List.length_replicate, List.length_cons, List.length_nil, List.length_zipWith, List.length_range, List.length_append, List.length_drop, List.length_take, Nat.reduceSub, Nat.reduceLeDiff, Nat.min_eq_left, *, and_self, Nat.reduceAdd, Nat.zero_add]; done) | split)); done) | skip))

theorem Dev.ptpOffset_reach (d : Dev) (p : Nat) (rx origin corr : Int) : Reach (Part.regs ||| Part.fl ||| Part.tm) d (Dev.ptpOffset d p rx origin corr) := by
  unfold Dev.ptpOffset
  with_reducible repeat' (first | assumption | exact .refl _ | (extract_lets +onlyGivenNames x; first | (refine Reach.have (x := x) ?_ (fun hx hxs => ?_); unfold x; clear x; rotate_left; clear_value x) | clear_value x) | (apply Reach.via (Dev.ptpSample_reach ..); decide) | (apply Reach.via (Dev.wrS_reach ..); decide) | simp -zeta -iota only [↓Reach.mk_eq] | split | (apply ReachMk.intro <;> first | exact .inr (by decide) | rfl | exact .inl rfl | skip))

theorem Dev.ptpMessage_reach (d : Dev) (p : Nat) (rx : Int) (m : PtpMsg) : Reach (Part.regs ||| Part.fl ||| Part.tm ||| Part.net) d (Dev.ptpMessage d p rx m) := by
  unfold Dev.ptpMessage
  with_reducible repeat' (first | assumption | exact .refl _ | (extract_lets +onlyGivenNames x; first | (refine Reach.have (x := x) ?_ (fun hx hxs => ?_); unfold x; clear x; rotate_left; clear_value x) | clear_value x) | (apply Reach.wr'; decide) | (apply Reach.via (Dev.ptpOffset_reach ..); decide) | (apply Reach.via (Dev.setPtp_reach ..); decide) | (apply Reach.via (Dev.txQueue_reach ..); decide) | (apply Reach.via (Dev.wrS_reach ..); decide) | (apply Reach.ite <;> intro) | simp -zeta -iota only [↓Reach.mk_eq] | split | dsimp only | (apply ReachMk.intro <;> first | exact .inr (by decide) | rfl | exact .inl rfl | skip))

theorem Dev.pdelayReq_reach (d : Dev) (p : Nat) : Reach (Part.tm ||| Part.net) d (Dev.pdelayReq d p) := by
  unfold Dev.pdelayReq
  with_reducible repeat' (first | assumption | exact .refl _ | (extract_lets +onlyGivenNames x; first | (refine Reach.have (x := x) ?_ (fun hx hxs => ?_); unfold x; clear x; rotate_left; clear_value x) | (have hf : SiteTime := x; clear hf; refine Reach.keep_tm (x := x) ?_ (fun hx => ?_); (· intro hs; unfold x; clear x; (repeat' (first | ((try simp only [SiteTime.Shaped] at *); simp +zetaDelta (maxDischargeDepth := 9) only [SiteTime.Shaped, Dev.Shaped.tm_pdelaySeq, Dev.Shaped.wr, Dev.Shaped.resetDomains, setAt_length, addAt_length, List.length_map, List.length_replicate, List.length_cons, List.length_nil, List.length_zipWith, List.length_range, List.length_append, List.length_drop, List.length_take, Nat.reduceSub, Nat.reduceLeDiff, Nat.min_eq_left, *, and_self, Nat.reduceAdd, Nat.zero_add]; done) | split))); clear_value x) | clear_value x) | (apply Reach.via (Dev.setPtp_reach ..); decide) | (apply Reach.via (Dev.txQueue_reach ..); decide) | simp -zeta -iota only [↓Reach.mk_eq] | dsimp only | (apply ReachMk.intro <;> first | exact .inr (by decide) | rfl | exact .inl rfl | (refine .inr ⟨by decide, fun hs he => ?_⟩; (repeat' (first | ((try simp only [SiteTime.Shaped] at *); simp +zetaDelta (maxDischargeDepth := 9) only [SiteTime.Shaped, Dev.Shaped.tm_pdelaySeq, Dev.Shaped.wr, Dev.Shaped.resetDomains, setAt_length, addAt_length, List.length_map, List.length_replicate, List.length_cons, List.length_nil, List.length_zipWith, List.length_range, List.length_append, List.length_drop, List.length_take, Nat.reduceSub, Nat.reduceLeDiff, Nat.min_eq_left, *, and_self, Nat.reduceAdd, Nat.zero_add]; done) | split)); done) | skip))

end Sys2Proof.Machine
end

