-- ==== Sys2Proof/Laws/ReachProcessBus.lean ====
section
/-! SUPPORT. What the functions of Machine/ProcessBus.lean can do to the block. -/

set_option linter.tactic.unusedName false
set_option linter.unusedTactic false
set_option linter.unusedSimpArgs false
set_option linter.unreachableTactic false
set_option maxHeartbeats 800000

namespace Sys2Proof.Machine

theorem Dev.setSub_reach (d : Dev) (s : Nat) (x : SubRt) : Reach (Part.svg) d (Dev.setSub d s x) := by
  unfold Dev.setSub
  with_reducible repeat' (first | assumption | exact .refl _ | (extract_lets +onlyGivenNames x; first | (have hf : Svg := x; clear hf; refine Reach.keep_svg (x := x) ?_ (fun hx => ?_); (· intro hs; unfold x; clear x; (repeat' (first | ((try simp only [Svg.Shaped] at *); simp +zetaDelta (maxDischargeDepth := 9) only [Svg.Shaped, Dev.Shaped.svg_subs, Dev.Shaped.svg_gs, Dev.Shaped.svg_keys, Dev.Shaped.svg_pubs, Dev.Shaped.wr, Dev.Shaped.resetDomains, setAt_length, addAt_length, List.length_map, List.length_replicate, List.length_cons, List.length_nil, List.length_zipWith, List.length_range, List.length_append, List.length_drop, List.length_take, Nat.reduceSub, Nat.reduceLeDiff, Nat.min_eq_left, *, and_self, Nat.reduceAdd, Nat.zero_add]; done) | split))); clear_value x) | clear_value x) | simp -zeta -iota only [↓Reach.mk_eq] | (apply ReachMk.intro <;> first | exact .inr (by decide) | rfl | exact .inl rfl | (refine .inr ⟨by decide, fun hs he => ?_⟩; (repeat' (first | ((try simp only [Svg.Shaped] at *); simp +zetaDelta (maxDischargeDepth := 9) only [Svg.Shaped, Dev.Shaped.svg_subs, Dev.Shaped.svg_gs, Dev.Shaped.svg_keys, Dev.Shaped.svg_pubs, Dev.Shaped.wr, Dev.Shaped.resetDomains, setAt_length, addAt_length, List.length_map, List.length_replicate, List.length_cons, List.length_nil, List.length_zipWith, List.length_range, List.length_append, List.length_drop, List.length_take, Nat.reduceSub, Nat.reduceLeDiff, Nat.min_eq_left, *, and_self, Nat.reduceAdd, Nat.zero_add]; done) | split)); done) | skip))

theorem Dev.svState_reach (d : Dev) (s st : Nat) : Reach (Part.regs ||| Part.fl ||| Part.shr) d (Dev.svState d s st) := by
  unfold Dev.svState
  with_reducible repeat' (first | assumption | exact .refl _ | (extract_lets +onlyGivenNames x; first | (refine Reach.have (x := x) ?_ (fun hx hxs => ?_); unfold x; clear x; rotate_left; clear_value x) | clear_value x) | (apply Reach.wr'; decide) | (apply Reach.via (Dev.guardSync_reach ..); decide) | (apply Reach.via (Dev.raise_reach ..); decide) | (apply Reach.ite <;> intro) | split | dsimp only)

theorem Dev.svRelease_reach (d : Dev) (s : Nat) (x : SvSample) : Reach (Part.regs ||| Part.hmem ||| Part.inj ||| Part.jr ||| Part.rings ||| Part.fl ||| Part.st ||| Part.shr ||| Part.svg) d (Dev.svRelease d s x) := by
  unfold Dev.svRelease
  with_reducible repeat' (first | assumption | exact .refl _ | (extract_lets +onlyGivenNames x; first | (refine Reach.have (x := x) ?_ (fun hx hxs => ?_); unfold x; clear x; rotate_left; clear_value x) | clear_value x) | (apply Reach.wr'; decide) | (apply Reach.via (Dev.bump_reach ..); decide) | (apply Reach.via (Dev.guardFeed_reach ..); decide) | (apply Reach.via (Dev.injUse_reach ..); decide) | (apply Reach.via (Dev.setSub_reach ..); decide) | (apply Reach.via (Dev.svState_reach ..); decide) | (apply Reach.via (Dev.wrAll_reach ..); decide) | (apply Reach.via (Dev.wrS_reach ..); decide) | (apply Dev.forAll_reach <;> intros) | (apply Reach.ite <;> intro) | simp -zeta -iota only [↓Reach.mk_eq] | split | dsimp only | (apply ReachMk.intro <;> first | exact .inr (by decide) | rfl | exact .inl rfl | skip))

theorem Dev.svDrain_reach (d : Dev) (s : Nat) : Reach (Part.regs ||| Part.hmem ||| Part.inj ||| Part.jr ||| Part.rings ||| Part.fl ||| Part.st ||| Part.shr ||| Part.svg) d (Dev.svDrain d s) := by
  unfold Dev.svDrain
  with_reducible repeat' (first | assumption | exact .refl _ | (extract_lets +onlyGivenNames x; first | (refine Reach.have (x := x) ?_ (fun hx hxs => ?_); unfold x; clear x; rotate_left; clear_value x) | clear_value x) | (apply Reach.via (Dev.setSub_reach ..); decide) | (apply Reach.via (Dev.svRelease_reach ..); decide) | (apply Dev.forAll_reach <;> intros) | simp -zeta -iota only [↓Reach.mk_eq] | split | dsimp only | (apply ReachMk.intro <;> first | exact .inr (by decide) | rfl | exact .inl rfl | skip))

theorem Dev.svAsdu_reach (d : Dev) (s : Nat) (a : SvAsdu) : Reach (Part.regs ||| Part.hmem ||| Part.inj ||| Part.jr ||| Part.rings ||| Part.fl ||| Part.st ||| Part.shr ||| Part.svg) d (Dev.svAsdu d s a) := by
  unfold Dev.svAsdu
  with_reducible repeat' (first | assumption | exact .refl _ | (extract_lets +onlyGivenNames x; first | (refine Reach.have (x := x) ?_ (fun hx hxs => ?_); unfold x; clear x; rotate_left; clear_value x) | clear_value x) | (apply Reach.via (Dev.bump_reach ..); decide) | (apply Reach.via (Dev.setSub_reach ..); decide) | (apply Reach.via (Dev.svDrain_reach ..); decide) | (apply Reach.ite <;> intro) | simp -zeta -iota only [↓Reach.mk_eq] | split | dsimp only | (apply ReachMk.intro <;> first | exact .inr (by decide) | rfl | exact .inl rfl | skip))

theorem Dev.svFrame_reach (d : Dev) (m : SvMsg) : Reach (Part.regs ||| Part.hmem ||| Part.inj ||| Part.jr ||| Part.rings ||| Part.fl ||| Part.st ||| Part.shr ||| Part.svg) d (Dev.svFrame d m) := by
  unfold Dev.svFrame
  with_reducible repeat' (first | assumption | exact .refl _ | (extract_lets +onlyGivenNames x; first | (refine Reach.have (x := x) ?_ (fun hx hxs => ?_); unfold x; clear x; rotate_left; clear_value x) | clear_value x) | (apply Reach.via (Dev.bump_reach ..); decide) | (apply Reach.via (Dev.svAsdu_reach ..); decide) | (apply Dev.forAll_reach <;> intros) | (apply Reach.ite <;> intro) | simp -zeta -iota only [↓Reach.mk_eq] | split | (apply ReachMk.intro <;> first | exact .inr (by decide) | rfl | exact .inl rfl | skip))

theorem Dev.svMiss_reach (d : Dev) (s : Nat) : Reach (Part.regs ||| Part.hmem ||| Part.inj ||| Part.jr ||| Part.rings ||| Part.fl ||| Part.tm ||| Part.st ||| Part.shr ||| Part.svg) d (Dev.svMiss d s) := by
  unfold Dev.svMiss
  with_reducible repeat' (first | assumption | exact .refl _ | (extract_lets +onlyGivenNames x; first | (refine Reach.have (x := x) ?_ (fun hx hxs => ?_); unfold x; clear x; rotate_left; clear_value x) | clear_value x) | (apply Reach.via (Dev.advanceTo_reach ..); decide) | (apply Reach.via (Dev.setSub_reach ..); decide) | (apply Reach.via (Dev.svDrain_reach ..); decide) | (apply Reach.via (Dev.svRelease_reach ..); decide) | (apply Reach.ite <;> intro) | simp -zeta -iota only [↓Reach.mk_eq] | split | dsimp only | (apply ReachMk.intro <;> first | exact .inr (by decide) | rfl | exact .inl rfl | skip))

theorem Dev.subEnable_reach (d : Dev) (s : Nat) : Reach (Part.regs ||| Part.fl ||| Part.shr ||| Part.svg) d (Dev.subEnable d s) := by
  unfold Dev.subEnable
  with_reducible repeat' (first | assumption | exact .refl _ | (extract_lets +onlyGivenNames x; first | (refine Reach.have (x := x) ?_ (fun hx hxs => ?_); unfold x; clear x; rotate_left; clear_value x) | clear_value x) | (apply Reach.wr'; decide) | (apply Reach.via (Dev.setSub_reach ..); decide) | (apply Reach.via (Dev.svState_reach ..); decide) | (apply Reach.ite <;> intro) | simp -zeta -iota only [↓Reach.mk_eq] | split | dsimp only | (apply ReachMk.intro <;> first | exact .inr (by decide) | rfl | exact .inl rfl | skip))

theorem Dev.subOff_reach (d : Dev) (s : Nat) : Reach (Part.regs ||| Part.fl ||| Part.shr ||| Part.svg) d (Dev.subOff d s) := by
  unfold Dev.subOff
  with_reducible repeat' (first | assumption | exact .refl _ | (apply Reach.wr'; decide) | (apply Reach.via (Dev.setSub_reach ..); decide) | (apply Reach.via (Dev.svState_reach ..); decide) | simp -zeta -iota only [↓Reach.mk_eq] | (apply ReachMk.intro <;> first | exact .inr (by decide) | rfl | exact .inl rfl | skip))

theorem Dev.subReconfigure_reach (d : Dev) (s : Nat) : Reach (Part.regs ||| Part.fl ||| Part.st ||| Part.shr ||| Part.svg) d (Dev.subReconfigure d s) := by
  unfold Dev.subReconfigure
  with_reducible repeat' (first | assumption | exact .refl _ | (extract_lets +onlyGivenNames x; first | (refine Reach.have (x := x) ?_ (fun hx hxs => ?_); unfold x; clear x; rotate_left; clear_value x) | clear_value x) | (apply Reach.wr'; decide) | (apply Reach.via (Dev.setSub_reach ..); decide) | (apply Reach.via (Dev.subOff_reach ..); decide) | (apply Reach.via (Dev.svState_reach ..); decide) | (apply Reach.ite <;> intro) | simp -zeta -iota only [↓Reach.mk_eq] | split | dsimp only | (apply ReachMk.intro <;> first | exact .inr (by decide) | rfl | exact .inl rfl | skip))

theorem Dev.svPublish_reach (d : Dev) (p : Nat) (raws : List (List Int)) (len : Nat) : Reach (Part.regs ||| Part.net ||| Part.svg) d (Dev.svPublish d p raws len) := by
  unfold Dev.svPublish
  with_reducible repeat' (first | assumption | exact .refl _ | (extract_lets +onlyGivenNames x; first | (refine Reach.have (x := x) ?_ (fun hx hxs => ?_); unfold x; clear x; rotate_left; clear_value x) | (have hf : Svg := x; clear hf; refine Reach.keep_svg (x := x) ?_ (fun hx => ?_); (· intro hs; unfold x; clear x; (repeat' (first | ((try simp only [Svg.Shaped] at *); simp +zetaDelta (maxDischargeDepth := 9) only [Svg.Shaped, Dev.Shaped.svg_subs, Dev.Shaped.svg_gs, Dev.Shaped.svg_keys, Dev.Shaped.svg_pubs, Dev.Shaped.wr, Dev.Shaped.resetDomains, setAt_length, addAt_length, List.length_map, List.length_replicate, List.length_cons, List.length_nil, List.length_zipWith, List.length_range, List.length_append, List.length_drop, List.length_take, Nat.reduceSub, Nat.reduceLeDiff, Nat.min_eq_left, *, and_self, Nat.reduceAdd, Nat.zero_add]; done) | split))); clear_value x) | clear_value x) | (apply Reach.wr'; decide) | (apply Reach.via (Dev.txQueue_reach ..); decide) | (apply Dev.forAll_reach <;> intros) | (apply Reach.ite <;> intro) | simp -zeta -iota only [↓Reach.mk_eq] | split | dsimp only | (apply ReachMk.intro <;> first | exact .inr (by decide) | rfl | exact .inl rfl | (refine .inr ⟨by decide, fun hs he => ?_⟩; (repeat' (first | ((try simp only [Svg.Shaped] at *); simp +zetaDelta (maxDischargeDepth := 9) only [Svg.Shaped, Dev.Shaped.svg_subs, Dev.Shaped.svg_gs, Dev.Shaped.svg_keys, Dev.Shaped.svg_pubs, Dev.Shaped.wr, Dev.Shaped.resetDomains, setAt_length, addAt_length, List.length_map, List.length_replicate, List.length_cons, List.length_nil, List.length_zipWith, List.length_range, List.length_append, List.length_drop, List.length_take, Nat.reduceSub, Nat.reduceLeDiff, Nat.min_eq_left, *, and_self, Nat.reduceAdd, Nat.zero_add]; done) | split)); done) | skip))

theorem Dev.setGs_reach (d : Dev) (j : Nat) (x : GsRt) : Reach (Part.svg) d (Dev.setGs d j x) := by
  unfold Dev.setGs
  with_reducible repeat' (first | assumption | exact .refl _ | (extract_lets +onlyGivenNames x; first | (have hf : Svg := x; clear hf; refine Reach.keep_svg (x := x) ?_ (fun hx => ?_); (· intro hs; unfold x; clear x; (repeat' (first | ((try simp only [Svg.Shaped] at *); simp +zetaDelta (maxDischargeDepth := 9) only [Svg.Shaped, Dev.Shaped.svg_subs, Dev.Shaped.svg_gs, Dev.Shaped.svg_keys, Dev.Shaped.svg_pubs, Dev.Shaped.wr, Dev.Shaped.resetDomains, setAt_length, addAt_length, List.length_map, List.length_replicate, List.length_cons, List.length_nil, List.length_zipWith, List.length_range, List.length_append, List.length_drop, List.length_take, Nat.reduceSub, Nat.reduceLeDiff, Nat.min_eq_left, *, and_self, Nat.reduceAdd, Nat.zero_add]; done) | split))); clear_value x) | clear_value x) | simp -zeta -iota only [↓Reach.mk_eq] | (apply ReachMk.intro <;> first | exact .inr (by decide) | rfl | exact .inl rfl | (refine .inr ⟨by decide, fun hs he => ?_⟩; (repeat' (first | ((try simp only [Svg.Shaped] at *); simp +zetaDelta (maxDischargeDepth := 9) only [Svg.Shaped, Dev.Shaped.svg_subs, Dev.Shaped.svg_gs, Dev.Shaped.svg_keys, Dev.Shaped.svg_pubs, Dev.Shaped.wr, Dev.Shaped.resetDomains, setAt_length, addAt_length, List.length_map, List.length_replicate, List.length_cons, List.length_nil, List.length_zipWith, List.length_range, List.length_append, List.length_drop, List.length_take, Nat.reduceSub, Nat.reduceLeDiff, Nat.min_eq_left, *, and_self, Nat.reduceAdd, Nat.zero_add]; done) | split)); done) | skip))

theorem Dev.gooseAct_reach (d : Dev) (j : Nat) : Reach (Part.regs ||| Part.pw ||| Part.fl ||| Part.pwm ||| Part.out ||| Part.cap) d (Dev.gooseAct d j) := by
  unfold Dev.gooseAct
  with_reducible repeat' (first | assumption | exact .refl _ | (extract_lets +onlyGivenNames x; clear_value x) | (apply Reach.via (Dev.deviceTrip_reach ..); decide) | (apply Reach.via (Dev.outQuench_reach ..); decide) | (apply Reach.via (Dev.quenchAll_reach ..); decide) | (apply Dev.forAll_reach <;> intros) | simp -zeta -iota only [↓Reach.mk_eq] | split | dsimp only | (apply ReachMk.intro <;> first | exact .inr (by decide) | rfl | exact .inl rfl | skip))

theorem Dev.gooseHold_reach (d : Dev) (j : Nat) : Reach (Part.regs ||| Part.pw ||| Part.fl ||| Part.st ||| Part.pwm ||| Part.out ||| Part.cap) d (Dev.gooseHold d j) := by
  unfold Dev.gooseHold
  with_reducible repeat' (first | assumption | exact .refl _ | (extract_lets +onlyGivenNames x; first | (refine Reach.have (x := x) ?_ (fun hx hxs => ?_); unfold x; clear x; rotate_left; clear_value x) | clear_value x) | (apply Reach.via (Dev.gooseAct_reach ..); decide) | (apply Reach.via (Dev.raise_reach ..); decide) | (apply Reach.via (Dev.wrB_reach ..); decide) | (apply Reach.ite <;> intro) | split)

theorem Dev.gsReceive_reach (d : Dev) (j : Nat) (m : GooseMsg) : Reach (Part.regs ||| Part.hmem ||| Part.inj ||| Part.jr ||| Part.rings ||| Part.pw ||| Part.fl ||| Part.st ||| Part.pwm ||| Part.out ||| Part.cap ||| Part.svg) d (Dev.gsReceive d j m) := by
  unfold Dev.gsReceive
  with_reducible repeat' (first | assumption | exact .refl _ | (extract_lets +onlyGivenNames x; first | (refine Reach.have (x := x) ?_ (fun hx hxs => ?_); unfold x; clear x; rotate_left; clear_value x) | clear_value x) | (apply Reach.wr'; decide) | (apply Reach.via (Dev.bump_reach ..); decide) | (apply Reach.via (Dev.gooseHold_reach ..); decide) | (apply Reach.via (Dev.injEnd_reach ..); decide) | (apply Reach.via (Dev.raise_reach ..); decide) | (apply Reach.via (Dev.setGs_reach ..); decide) | (apply Reach.via (Dev.wrAll_reach ..); decide) | (apply Reach.ite <;> intro) | simp -zeta -iota only [↓Reach.mk_eq] | split | (apply ReachMk.intro <;> first | exact .inr (by decide) | rfl | exact .inl rfl | skip))

theorem Dev.gooseFrame_reach (d : Dev) (m : GooseMsg) : Reach (Part.regs ||| Part.hmem ||| Part.inj ||| Part.jr ||| Part.rings ||| Part.pw ||| Part.fl ||| Part.st ||| Part.pwm ||| Part.out ||| Part.cap ||| Part.svg) d (Dev.gooseFrame d m) := by
  unfold Dev.gooseFrame
  with_reducible repeat' (first | assumption | exact .refl _ | (extract_lets +onlyGivenNames x; clear_value x) | (apply Reach.via (Dev.gsReceive_reach ..); decide) | simp -zeta -iota only [↓Reach.mk_eq] | split | (apply ReachMk.intro <;> first | exact .inr (by decide) | rfl | exact .inl rfl | skip))

theorem Dev.gooseStale_reach (d : Dev) (j : Nat) : Reach (Part.regs ||| Part.pw ||| Part.fl ||| Part.st ||| Part.pwm ||| Part.out ||| Part.cap) d (Dev.gooseStale d j) := by
  unfold Dev.gooseStale
  with_reducible repeat' (first | assumption | exact .refl _ | (apply Reach.wr'; decide) | (apply Reach.via (Dev.gooseHold_reach ..); decide) | (apply Reach.via (Dev.raise_reach ..); decide) | (apply Reach.ite <;> intro) | split | dsimp only)

theorem Dev.gooseEnable_reach (d : Dev) (j : Nat) : Reach (Part.regs ||| Part.svg) d (Dev.gooseEnable d j) := by
  unfold Dev.gooseEnable
  with_reducible repeat' (first | assumption | exact .refl _ | (extract_lets +onlyGivenNames x; first | (refine Reach.have (x := x) ?_ (fun hx hxs => ?_); unfold x; clear x; rotate_left; clear_value x) | clear_value x) | (apply Reach.wr'; decide) | (apply Reach.via (Dev.setGs_reach ..); decide) | (apply Reach.ite <;> intro) | simp -zeta -iota only [↓Reach.mk_eq] | split | dsimp only | (apply ReachMk.intro <;> first | exact .inr (by decide) | rfl | exact .inl rfl | skip))

theorem Dev.gooseOff_reach (d : Dev) (j : Nat) : Reach (Part.regs ||| Part.pw ||| Part.fl ||| Part.st ||| Part.pwm ||| Part.out ||| Part.cap ||| Part.svg) d (Dev.gooseOff d j) := by
  unfold Dev.gooseOff
  with_reducible repeat' (first | assumption | exact .refl _ | (apply Reach.wr'; decide) | (apply Reach.via (Dev.gooseHold_reach ..); decide) | (apply Reach.via (Dev.setGs_reach ..); decide) | simp -zeta -iota only [↓Reach.mk_eq] | (apply ReachMk.intro <;> first | exact .inr (by decide) | rfl | exact .inl rfl | skip))

theorem Dev.svgStop_reach (d : Dev) : Reach (Part.regs ||| Part.pw ||| Part.fl ||| Part.st ||| Part.pwm ||| Part.out ||| Part.cap ||| Part.shr ||| Part.svg) d (Dev.svgStop d) := by
  unfold Dev.svgStop
  with_reducible repeat' (first | assumption | exact .refl _ | (apply Reach.via (Dev.gooseOff_reach ..); decide) | (apply Reach.via (Dev.subOff_reach ..); decide) | (apply Dev.forAll_reach <;> intros))

theorem Dev.svgStart_reach (d : Dev) : Reach (Part.regs ||| Part.fl ||| Part.shr ||| Part.svg) d (Dev.svgStart d) := by
  unfold Dev.svgStart
  with_reducible repeat' (first | assumption | exact .refl _ | (apply Reach.via (Dev.gooseEnable_reach ..); decide) | (apply Reach.via (Dev.subEnable_reach ..); decide) | (apply Dev.forAll_reach <;> intros) | (apply Reach.ite <;> intro) | split)

end Sys2Proof.Machine
end

