-- ==== Sys2Proof/Laws/ReachTrip.lean ====
section
/-! SUPPORT. What the functions of Machine/Trip.lean can do to the block. -/

set_option linter.tactic.unusedName false
set_option linter.unusedTactic false
set_option linter.unusedSimpArgs false
set_option linter.unreachableTactic false
set_option maxHeartbeats 800000

namespace Sys2Proof.Machine

theorem Dev.setTripIn_reach (d : Dev) (i : Nat) (t : TripRt) : Reach (Part.pwm) d (Dev.setTripIn d i t) := by
  unfold Dev.setTripIn
  with_reducible repeat' (first | assumption | exact .refl _ | (extract_lets +onlyGivenNames x; first | (have hf : Pwm := x; clear hf; refine Reach.keep_pwm (x := x) ?_ (fun hx => ?_); (· intro hs; unfold x; clear x; (repeat' (first | ((try simp only [Pwm.Shaped] at *); simp +zetaDelta (maxDischargeDepth := 9) only [Pwm.Shaped, Dev.Shaped.pwm_inputs, Dev.Shaped.wr, Dev.Shaped.resetDomains, setAt_length, addAt_length, List.length_map, List.length_replicate, List.length_cons, List.length_nil, List.length_zipWith, List.length_range, List.length_append, List.length_drop, List.length_take, Nat.reduceSub, Nat.reduceLeDiff, Nat.min_eq_left, *, and_self, Nat.reduceAdd, Nat.zero_add]; done) | split))); clear_value x) | clear_value x) | simp -zeta -iota only [↓Reach.mk_eq] | (apply ReachMk.intro <;> first | exact .inr (by decide) | rfl | exact .inl rfl | (refine .inr ⟨by decide, fun hs he => ?_⟩; (repeat' (first | ((try simp only [Pwm.Shaped] at *); simp +zetaDelta (maxDischargeDepth := 9) only [Pwm.Shaped, Dev.Shaped.pwm_inputs, Dev.Shaped.wr, Dev.Shaped.resetDomains, setAt_length, addAt_length, List.length_map, List.length_replicate, List.length_cons, List.length_nil, List.length_zipWith, List.length_range, List.length_append, List.length_drop, List.length_take, Nat.reduceSub, Nat.reduceLeDiff, Nat.min_eq_left, *, and_self, Nat.reduceAdd, Nat.zero_add]; done) | split)); done) | skip))

theorem Dev.tripRawShow_reach (d : Dev) (i : Nat) : Reach (Part.regs) d (Dev.tripRawShow d i) := by
  unfold Dev.tripRawShow
  with_reducible repeat' (first | assumption | exact .refl _ | (extract_lets +onlyGivenNames x; first | (refine Reach.have (x := x) ?_ (fun hx hxs => ?_); unfold x; clear x; rotate_left; clear_value x) | clear_value x) | (apply Reach.wr'; decide) | (apply Reach.ite <;> intro) | split)

theorem Dev.tripRawBoot_reach (d : Dev) : Reach (Part.regs) d (Dev.tripRawBoot d) := by
  unfold Dev.tripRawBoot
  with_reducible repeat' (first | assumption | exact .refl _ | (apply Reach.via (Dev.tripRawShow_reach ..); decide) | (apply Dev.forAll_reach <;> intros) | (apply Reach.ite <;> intro) | split)

theorem Dev.tripQualify_reach (d : Dev) (i : Nat) : Reach (Part.regs ||| Part.pw ||| Part.fl ||| Part.pwm ||| Part.out ||| Part.cap) d (Dev.tripQualify d i) := by
  unfold Dev.tripQualify
  with_reducible repeat' (first | assumption | exact .refl _ | (extract_lets +onlyGivenNames x; first | (refine Reach.have (x := x) ?_ (fun hx hxs => ?_); unfold x; clear x; rotate_left; clear_value x) | (refine Reach.have (x := x.1) ?_ (fun hx hxs => ?_); unfold x; clear x; rotate_left; clear_value x) | (refine Reach.have (x := x.2) ?_ (fun hx hxs => ?_); unfold x; clear x; rotate_left; clear_value x) | clear_value x) | (apply Reach.wr'; decide) | (apply Reach.via (Dev.capCause_reach ..); decide) | (apply Reach.via (Dev.deviceTrip_reach ..); decide) | (apply Reach.via (Dev.legsTrip_reach ..); decide) | (apply Reach.via (Dev.outImmediate_reach ..); decide) | (apply Reach.via (Dev.raise_reach ..); decide) | (apply Reach.via (Dev.setTripIn_reach ..); decide) | (apply Reach.via (Dev.tripFirst_reach ..); decide) | (apply Dev.forAll_reach <;> intros) | (apply Reach.ite <;> intro) | simp -zeta -iota only [↓Reach.mk_eq] | split | dsimp only | (apply ReachMk.intro <;> first | exact .inr (by decide) | rfl | exact .inl rfl | skip))

theorem Dev.tripBegin_reach (d : Dev) (i : Nat) : Reach (Part.regs ||| Part.pw ||| Part.fl ||| Part.pwm ||| Part.out ||| Part.cap) d (Dev.tripBegin d i) := by
  unfold Dev.tripBegin
  with_reducible repeat' (first | assumption | exact .refl _ | (extract_lets +onlyGivenNames x; first | (refine Reach.have (x := x) ?_ (fun hx hxs => ?_); unfold x; clear x; rotate_left; clear_value x) | (refine Reach.have (x := x.1) ?_ (fun hx hxs => ?_); unfold x; clear x; rotate_left; clear_value x) | (refine Reach.have (x := x.2) ?_ (fun hx hxs => ?_); unfold x; clear x; rotate_left; clear_value x) | clear_value x) | (apply Reach.via (Dev.legsTrip_reach ..); decide) | (apply Reach.via (Dev.setTripIn_reach ..); decide) | (apply Reach.via (Dev.tripQualify_reach ..); decide) | (apply Reach.via (Dev.tripRawShow_reach ..); decide) | (apply Reach.ite <;> intro) | simp -zeta -iota only [↓Reach.mk_eq] | split | (apply ReachMk.intro <;> first | exact .inr (by decide) | rfl | exact .inl rfl | skip))

theorem Dev.tripStop_reach (d : Dev) (i : Nat) : Reach (Part.regs ||| Part.fl ||| Part.pwm) d (Dev.tripStop d i) := by
  unfold Dev.tripStop
  with_reducible repeat' (first | assumption | exact .refl _ | (extract_lets +onlyGivenNames x; first | (refine Reach.have (x := x) ?_ (fun hx hxs => ?_); unfold x; clear x; rotate_left; clear_value x) | clear_value x) | (apply Reach.wr'; decide) | (apply Reach.via (Dev.bump_reach ..); decide) | (apply Reach.via (Dev.legsTrip_reach ..); decide) | (apply Reach.via (Dev.raise_reach ..); decide) | (apply Reach.via (Dev.setTripIn_reach ..); decide) | (apply Reach.via (Dev.tripRawShow_reach ..); decide) | (apply Reach.ite <;> intro) | simp -zeta -iota only [↓Reach.mk_eq] | split | (apply ReachMk.intro <;> first | exact .inr (by decide) | rfl | exact .inl rfl | skip))

theorem Dev.tripSync_reach (d : Dev) : Reach (Part.regs ||| Part.fl ||| Part.pwm) d (Dev.tripSync d) := by
  unfold Dev.tripSync
  with_reducible repeat' (first | assumption | exact .refl _ | (apply Reach.via (Dev.tripStop_reach ..); decide) | (apply Dev.forAll_reach <;> intros) | (apply Reach.ite <;> intro) | split)

theorem Dev.tripFall_reach (d : Dev) (i : Nat) : Reach (Part.regs ||| Part.pw ||| Part.fl ||| Part.pwm ||| Part.out ||| Part.cap) d (Dev.tripFall d i) := by
  unfold Dev.tripFall
  with_reducible repeat' (first | assumption | exact .refl _ | (extract_lets +onlyGivenNames x; first | (refine Reach.have (x := x) ?_ (fun hx hxs => ?_); unfold x; clear x; rotate_left; clear_value x) | clear_value x) | (apply Reach.via (Dev.setTripIn_reach ..); decide) | (apply Reach.via (Dev.tripBegin_reach ..); decide) | (apply Reach.ite <;> intro) | simp -zeta -iota only [↓Reach.mk_eq] | split | (apply ReachMk.intro <;> first | exact .inr (by decide) | rfl | exact .inl rfl | skip))

theorem Dev.tripRise_reach (d : Dev) (i : Nat) : Reach (Part.regs ||| Part.fl ||| Part.pwm) d (Dev.tripRise d i) := by
  unfold Dev.tripRise
  with_reducible repeat' (first | assumption | exact .refl _ | (extract_lets +onlyGivenNames x; first | (refine Reach.have (x := x) ?_ (fun hx hxs => ?_); unfold x; clear x; rotate_left; clear_value x) | clear_value x) | (apply Reach.via (Dev.setTripIn_reach ..); decide) | (apply Reach.via (Dev.tripStop_reach ..); decide) | (apply Reach.ite <;> intro) | simp -zeta -iota only [↓Reach.mk_eq] | split | (apply ReachMk.intro <;> first | exact .inr (by decide) | rfl | exact .inl rfl | skip))

theorem Dev.tripFiltEnd_reach (d : Dev) (i : Nat) : Reach (Part.regs ||| Part.pw ||| Part.fl ||| Part.tm ||| Part.pwm ||| Part.out ||| Part.cap) d (Dev.tripFiltEnd d i) := by
  unfold Dev.tripFiltEnd
  with_reducible repeat' (first | assumption | exact .refl _ | (extract_lets +onlyGivenNames x; first | (refine Reach.have (x := x) ?_ (fun hx hxs => ?_); unfold x; clear x; rotate_left; clear_value x) | clear_value x) | (apply Reach.via (Dev.advanceTo_reach ..); decide) | (apply Reach.via (Dev.tripQualify_reach ..); decide) | (apply Reach.ite <;> intro) | split)

theorem Dev.tripRemap_reach (d : Dev) (old : List TripRec) : Reach (Part.regs ||| Part.pw ||| Part.fl ||| Part.pwm ||| Part.out ||| Part.cap) d (Dev.tripRemap d old) := by
  unfold Dev.tripRemap
  with_reducible repeat' (first | assumption | exact .refl _ | (extract_lets +onlyGivenNames x; first | (refine Reach.have (x := x) ?_ (fun hx hxs => ?_); unfold x; clear x; rotate_left; clear_value x) | clear_value x) | (apply Reach.via (Dev.legsTrip_reach ..); decide) | (apply Reach.via (Dev.setTripIn_reach ..); decide) | (apply Reach.via (Dev.tripBegin_reach ..); decide) | (apply Dev.forAll_reach <;> intros) | (apply Reach.ite <;> intro) | simp -zeta -iota only [↓Reach.mk_eq] | split | (apply ReachMk.intro <;> first | exact .inr (by decide) | rfl | exact .inl rfl | skip))

theorem Dev.tripClear_reach (d : Dev) (i : Nat) : Reach (Part.regs ||| Part.fl) d (Dev.tripClear d i) := by
  unfold Dev.tripClear
  with_reducible repeat' (first | assumption | exact .refl _ | (apply Reach.wr'; decide) | (apply Reach.via (Dev.bump_reach ..); decide) | (apply Reach.via (Dev.raise_reach ..); decide) | (apply Reach.ite <;> intro) | split)

theorem Dev.trpClr_reach (d : Dev) (word value : Nat) : Reach (Part.regs ||| Part.fl ||| Part.pwm) d (Dev.trpClr d word value) := by
  unfold Dev.trpClr
  with_reducible repeat' (first | assumption | exact .refl _ | (apply Reach.via (Dev.legsTrip_reach ..); decide) | (apply Reach.via (Dev.tripClear_reach ..); decide) | (apply Reach.via (Dev.tripFirstClear_reach ..); decide) | (apply Dev.forAll_reach <;> intros) | split)

theorem Dev.swClear_reach (d : Dev) (outs grps : Nat) : Reach (Part.regs ||| Part.pwm) d (Dev.swClear d outs grps) := by
  unfold Dev.swClear
  with_reducible repeat' (first | assumption | exact .refl _ | (extract_lets +onlyGivenNames x; first | (refine Reach.have (x := x) ?_ (fun hx hxs => ?_); unfold x; clear x; rotate_left; clear_value x) | clear_value x) | (apply Reach.wr'; decide) | (apply Reach.via (Dev.legsTrip_reach ..); decide) | (apply Reach.via (Dev.tripFirstClear_reach ..); decide) | split)

theorem Dev.trpSwClr_reach (d : Dev) (v : Nat) : Reach (Part.regs ||| Part.fl ||| Part.pwm) d (Dev.trpSwClr d v) := by
  unfold Dev.trpSwClr
  with_reducible repeat' (first | assumption | exact .refl _ | (extract_lets +onlyGivenNames x; first | (refine Reach.have (x := x) ?_ (fun hx hxs => ?_); unfold x; clear x; rotate_left; clear_value x) | clear_value x) | (apply Reach.wr'; decide) | (apply Reach.via (Dev.bump_reach ..); decide) | (apply Reach.via (Dev.raise_reach ..); decide) | (apply Reach.via (Dev.swClear_reach ..); decide) | (apply Reach.ite <;> intro) | split)

theorem Dev.trigFire_reach (d : Dev) (g t : Nat) : Reach (Part.regs ||| Part.fl ||| Part.tm ||| Part.pwm ||| Part.cap ||| Part.fba) d (Dev.trigFire d g t) := by
  unfold Dev.trigFire
  with_reducible repeat' (first | assumption | exact .refl _ | (extract_lets +onlyGivenNames x; first | (refine Reach.have (x := x) ?_ (fun hx hxs => ?_); unfold x; clear x; rotate_left; clear_value x) | (have hf : Pwm := x; clear hf; refine Reach.keep_pwm (x := x) ?_ (fun hx => ?_); (· intro hs; unfold x; clear x; (repeat' (first | ((try simp only [Pwm.Shaped] at *); simp +zetaDelta (maxDischargeDepth := 9) only [Pwm.Shaped, Dev.Shaped.pwm_inputs, Dev.Shaped.wr, Dev.Shaped.resetDomains, setAt_length, addAt_length, List.length_map, List.length_replicate, List.length_cons, List.length_nil, List.length_zipWith, List.length_range, List.length_append, List.length_drop, List.length_take, Nat.reduceSub, Nat.reduceLeDiff, Nat.min_eq_left, *, and_self, Nat.reduceAdd, Nat.zero_add]; done) | split))); clear_value x) | clear_value x) | (apply Reach.wr'; decide) | (apply Reach.via (Dev.advanceTo_reach ..); decide) | (apply Reach.via (Dev.capMark_reach ..); decide) | (apply Reach.via (Dev.trigStart_reach ..); decide) | (apply Reach.ite <;> intro) | simp -zeta -iota only [↓Reach.mk_eq] | split | dsimp only | (apply ReachMk.intro <;> first | exact .inr (by decide) | rfl | exact .inl rfl | (refine .inr ⟨by decide, fun hs he => ?_⟩; (repeat' (first | ((try simp only [Pwm.Shaped] at *); simp +zetaDelta (maxDischargeDepth := 9) only [Pwm.Shaped, Dev.Shaped.pwm_inputs, Dev.Shaped.wr, Dev.Shaped.resetDomains, setAt_length, addAt_length, List.length_map, List.length_replicate, List.length_cons, List.length_nil, List.length_zipWith, List.length_range, List.length_append, List.length_drop, List.length_take, Nat.reduceSub, Nat.reduceLeDiff, Nat.min_eq_left, *, and_self, Nat.reduceAdd, Nat.zero_add]; done) | split)); done) | skip))

end Sys2Proof.Machine
end

