-- ==== Sys2Proof/Laws/ReachOutputs.lean ====
section
/-! SUPPORT. What the functions of Machine/Outputs.lean can do to the block. -/

set_option linter.tactic.unusedName false
set_option linter.unusedTactic false
set_option linter.unusedSimpArgs false
set_option linter.unreachableTactic false
set_option maxHeartbeats 800000

namespace Sys2Proof.Machine

theorem Dev.outTry_reach (d : Dev) (n : Nat) : Reach (Part.regs ||| Part.fl ||| Part.out ||| Part.ctr) d (Dev.outTry d n) := by
  unfold Dev.outTry
  with_reducible repeat' (first | assumption | exact .refl _ | (extract_lets +onlyGivenNames x; first | (refine Reach.have (x := x) ?_ (fun hx hxs => ?_); unfold x; clear x; rotate_left; clear_value x) | (refine Reach.have (x := x.1) ?_ (fun hx hxs => ?_); unfold x; clear x; rotate_left; clear_value x) | (refine Reach.have (x := x.2) ?_ (fun hx hxs => ?_); unfold x; clear x; rotate_left; clear_value x) | clear_value x) | (apply Reach.wr'; decide) | (apply Reach.via (Dev.ctrStart_reach ..); decide) | (apply Dev.ctrStart_via'; decide; assumption) | (apply Reach.via (Dev.setOut_reach ..); decide) | (apply Reach.ite <;> intro) | simp -zeta -iota only [↓Reach.mk_eq] | split | (apply ReachMk.intro <;> first | exact .inr (by decide) | rfl | exact .inl rfl | skip))

theorem Dev.outReq_reach (d : Dev) (n step : Nat) : Reach (Part.regs ||| Part.fl ||| Part.out ||| Part.ctr) d (Dev.outReq d n step) := by
  unfold Dev.outReq
  with_reducible repeat' (first | assumption | exact .refl _ | (extract_lets +onlyGivenNames x; first | (refine Reach.have (x := x) ?_ (fun hx hxs => ?_); unfold x; clear x; rotate_left; clear_value x) | clear_value x) | (apply Reach.wr'; decide) | (apply Reach.via (Dev.outTry_reach ..); decide) | (apply Reach.via (Dev.setOut_reach ..); decide) | (apply Reach.ite <;> intro) | simp -zeta -iota only [↓Reach.mk_eq] | split | dsimp only | (apply ReachMk.intro <;> first | exact .inr (by decide) | rfl | exact .inl rfl | skip))

theorem Dev.outDrain_reach (d : Dev) (n new : Nat) : Reach (Part.regs) d (Dev.outDrain d n new) := by
  unfold Dev.outDrain
  with_reducible repeat' (first | assumption | exact .refl _ | (apply Reach.wr'; decide) | (apply Reach.ite <;> intro) | split | dsimp only)

theorem Dev.outGo_reach (d : Dev) (n new : Nat) (cause : Option Nat) : Reach (Part.regs ||| Part.fl ||| Part.out ||| Part.bil ||| Part.bst) d (Dev.outGo d n new cause) := by
  unfold Dev.outGo
  with_reducible repeat' (first | assumption | exact .refl _ | (extract_lets +onlyGivenNames x; first | (refine Reach.have (x := x) ?_ (fun hx hxs => ?_); unfold x; clear x; rotate_left; clear_value x) | clear_value x) | (apply Reach.wr'; decide) | (apply Reach.via (Dev.bump_reach ..); decide) | (apply Reach.via (Dev.outDrain_reach ..); decide) | (apply Reach.via (Dev.pend_reach ..); decide) | (apply Reach.via (Dev.raise_reach ..); decide) | (apply Reach.via (Dev.sessEnd_reach ..); decide) | (apply Reach.via (Dev.setOut_reach ..); decide) | (apply Reach.via (Dev.wrAll_reach ..); decide) | (apply Reach.ite <;> intro) | simp -zeta -iota only [↓Reach.mk_eq] | split | dsimp only | (apply ReachMk.intro <;> first | exact .inr (by decide) | rfl | exact .inl rfl | skip))

theorem Dev.outFault_reach (d : Dev) (n cause : Nat) : Reach (Part.regs ||| Part.fl ||| Part.out ||| Part.ctr ||| Part.bil ||| Part.bst) d (Dev.outFault d n cause) := by
  unfold Dev.outFault
  with_reducible repeat' (first | assumption | exact .refl _ | (extract_lets +onlyGivenNames x; first | (refine Reach.have (x := x) ?_ (fun hx hxs => ?_); unfold x; clear x; rotate_left; clear_value x) | clear_value x) | (apply Reach.via (Dev.outGo_reach ..); decide) | (apply Reach.via (Dev.outReq_reach ..); decide) | (apply Reach.ite <;> intro) | split)

theorem Dev.outTrip_reach (d : Dev) (n cause : Nat) : Reach (Part.regs ||| Part.fl ||| Part.pwm ||| Part.out ||| Part.cap ||| Part.ctr ||| Part.bil ||| Part.bst) d (Dev.outTrip d n cause) := by
  unfold Dev.outTrip
  with_reducible repeat' (first | assumption | exact .refl _ | (extract_lets +onlyGivenNames x; first | (refine Reach.have (x := x) ?_ (fun hx hxs => ?_); unfold x; clear x; rotate_left; clear_value x) | clear_value x) | (apply Reach.via (Dev.outFault_reach ..); decide) | (apply Reach.via (Dev.outImmediate_reach ..); decide) | (apply Reach.via (Dev.setOut_reach ..); decide) | simp -zeta -iota only [↓Reach.mk_eq] | (apply ReachMk.intro <;> first | exact .inr (by decide) | rfl | exact .inl rfl | skip))

theorem Dev.outsTripped_reach (d : Dev) : Reach (Part.regs ||| Part.fl ||| Part.out ||| Part.ctr ||| Part.bil ||| Part.bst) d (Dev.outsTripped d) := by
  unfold Dev.outsTripped
  with_reducible repeat' (first | assumption | exact .refl _ | (apply Reach.via (Dev.outCause_reach ..); decide) | (apply Reach.via (Dev.outFault_reach ..); decide) | (apply Dev.forAll_reach <;> intros) | (apply Reach.ite <;> intro) | split | dsimp only)

theorem Dev.outRamp_reach (d : Dev) (n cause : Nat) : Reach (Part.regs ||| Part.fl ||| Part.out ||| Part.bil ||| Part.bst) d (Dev.outRamp d n cause) := by
  unfold Dev.outRamp
  with_reducible repeat' (first | assumption | exact .refl _ | (apply Reach.via (Dev.outGo_reach ..); decide) | (apply Reach.via (Dev.outPend_reach ..); decide))

theorem Dev.outSeqFailed_reach (d : Dev) (n : Nat) : Reach (Part.regs ||| Part.fl ||| Part.pwm ||| Part.out ||| Part.cap) d (Dev.outSeqFailed d n) := by
  unfold Dev.outSeqFailed
  with_reducible repeat' (first | assumption | exact .refl _ | (extract_lets +onlyGivenNames x; first | (refine Reach.have (x := x) ?_ (fun hx hxs => ?_); unfold x; clear x; rotate_left; clear_value x) | clear_value x) | (apply Reach.via (Dev.outCause_reach ..); decide) | (apply Reach.via (Dev.outImmediate_reach ..); decide) | (apply Reach.via (Dev.setOut_reach ..); decide) | (apply Reach.ite <;> intro) | simp -zeta -iota only [↓Reach.mk_eq] | split | (apply ReachMk.intro <;> first | exact .inr (by decide) | rfl | exact .inl rfl | skip))

theorem Dev.outConditions_reach (d : Dev) (n : Nat) : Reach (Part.regs ||| Part.fl ||| Part.pwm ||| Part.out ||| Part.cap) d (Dev.outConditions d n) := by
  unfold Dev.outConditions
  with_reducible repeat' (first | assumption | exact .refl _ | (extract_lets +onlyGivenNames x; first | (refine Reach.have (x := x) ?_ (fun hx hxs => ?_); unfold x; clear x; rotate_left; clear_value x) | clear_value x) | (apply Reach.via (Dev.outImmediate_reach ..); decide) | (apply Reach.ite <;> intro) | split)

theorem Dev.outRows_reach (d : Dev) (n : Nat) : Reach (Part.regs ||| Part.fl ||| Part.out ||| Part.ctr ||| Part.bil ||| Part.bst) d (Dev.outRows d n) := by
  unfold Dev.outRows
  with_reducible repeat' (first | assumption | exact .refl _ | (extract_lets +onlyGivenNames x; first | (refine Reach.have (x := x) ?_ (fun hx hxs => ?_); unfold x; clear x; rotate_left; clear_value x) | clear_value x) | (apply Reach.wr'; decide) | (apply Reach.via (Dev.outGo_reach ..); decide) | (apply Reach.via (Dev.outRamp_reach ..); decide) | (apply Reach.via (Dev.outReq_reach ..); decide) | (apply Reach.via (Dev.pend_reach ..); decide) | (apply Reach.via (Dev.wrB_reach ..); decide) | (apply Reach.ite <;> intro) | simp -zeta -iota only [↓Reach.mk_eq] | split | dsimp only | (apply ReachMk.intro <;> first | exact .inr (by decide) | rfl | exact .inl rfl | skip))

theorem Dev.outEval_reach (d : Dev) (n : Nat) : Reach (Part.regs ||| Part.fl ||| Part.pwm ||| Part.out ||| Part.cap ||| Part.ctr ||| Part.bil ||| Part.bst) d (Dev.outEval d n) := by
  unfold Dev.outEval
  with_reducible repeat' (first | assumption | exact .refl _ | (extract_lets +onlyGivenNames x; first | (refine Reach.have (x := x) ?_ (fun hx hxs => ?_); unfold x; clear x; rotate_left; clear_value x) | clear_value x) | (apply Reach.via (Dev.outConditions_reach ..); decide) | (apply Reach.via (Dev.outFault_reach ..); decide) | (apply Reach.via (Dev.outRows_reach ..); decide) | (apply Reach.via (Dev.outSeqFailed_reach ..); decide) | (apply Reach.via (Dev.setOut_reach ..); decide) | (apply Reach.ite <;> intro) | simp -zeta -iota only [↓Reach.mk_eq] | split | (apply ReachMk.intro <;> first | exact .inr (by decide) | rfl | exact .inl rfl | skip))

theorem Dev.outDo_reach (d : Dev) (n op : Nat) : Reach (Part.regs ||| Part.fl ||| Part.pwm ||| Part.out ||| Part.ctr ||| Part.bil ||| Part.bst) d (Dev.outDo d n op) := by
  unfold Dev.outDo
  with_reducible repeat' (first | assumption | exact .refl _ | (extract_lets +onlyGivenNames x; first | (refine Reach.have (x := x) ?_ (fun hx hxs => ?_); unfold x; clear x; rotate_left; clear_value x) | clear_value x) | (apply Reach.via (Dev.outGo_reach ..); decide) | (apply Reach.via (Dev.outReq_reach ..); decide) | (apply Reach.via (Dev.setOut_reach ..); decide) | (apply Reach.via (Dev.swClear_reach ..); decide) | (apply Reach.ite <;> intro) | simp -zeta -iota only [↓Reach.mk_eq] | split | dsimp only | (apply ReachMk.intro <;> first | exact .inr (by decide) | rfl | exact .inl rfl | skip))

theorem Dev.outCmd_reach (d : Dev) (n op : Nat) : Reach (Part.regs ||| Part.fl ||| Part.pwm ||| Part.out ||| Part.ctr ||| Part.bil ||| Part.bst) d (Dev.outCmd d n op) := by
  unfold Dev.outCmd
  with_reducible repeat' (first | assumption | exact .refl _ | (extract_lets +onlyGivenNames x; first | (refine Reach.have (x := x) ?_ (fun hx hxs => ?_); unfold x; clear x; rotate_left; clear_value x) | clear_value x) | (apply Reach.via (Dev.bump_reach ..); decide) | (apply Reach.via (Dev.outDo_reach ..); decide) | (apply Reach.via (Dev.raise_reach ..); decide) | (apply Reach.via (Dev.wrAll_reach ..); decide) | (apply Reach.ite <;> intro) | split)

theorem Dev.outCmdFmp_reach (d : Dev) (n op : Nat) : Reach (Part.regs ||| Part.out) d (Dev.outCmdFmp d n op) := by
  unfold Dev.outCmdFmp
  with_reducible repeat' (first | assumption | exact .refl _ | (extract_lets +onlyGivenNames x; clear_value x) | (apply Reach.via (Dev.setOut_reach ..); decide) | (apply Reach.via (Dev.wrAll_reach ..); decide) | (apply Reach.ite <;> intro) | simp -zeta -iota only [↓Reach.mk_eq] | split | dsimp only | (apply ReachMk.intro <;> first | exact .inr (by decide) | rfl | exact .inl rfl | skip))

theorem Dev.outsAtS_reach (d : Dev) : Reach (Part.regs ||| Part.fl ||| Part.pwm ||| Part.out ||| Part.cap ||| Part.ctr ||| Part.bil ||| Part.bst) d (Dev.outsAtS d) := by
  unfold Dev.outsAtS
  with_reducible repeat' (first | assumption | exact .refl _ | (extract_lets +onlyGivenNames x; first | (refine Reach.have (x := x) ?_ (fun hx hxs => ?_); unfold x; clear x; rotate_left; clear_value x) | clear_value x) | (apply Reach.via (Dev.outCmd_reach ..); decide) | (apply Reach.via (Dev.outEval_reach ..); decide) | (apply Reach.via (Dev.setOut_reach ..); decide) | (apply Dev.forAll_reach <;> intros) | (apply Reach.ite <;> intro) | simp -zeta -iota only [↓Reach.mk_eq] | split | dsimp only | (apply ReachMk.intro <;> first | exact .inr (by decide) | rfl | exact .inl rfl | skip))

theorem Dev.outEnable_reach (d : Dev) (n : Nat) (en : Bool) : Reach (Part.regs ||| Part.st ||| Part.out) d (Dev.outEnable d n en) := by
  unfold Dev.outEnable
  with_reducible repeat' (first | assumption | exact .refl _ | (extract_lets +onlyGivenNames x; first | (refine Reach.have (x := x) ?_ (fun hx hxs => ?_); unfold x; clear x; rotate_left; clear_value x) | clear_value x) | (apply Reach.wr'; decide) | (apply Reach.via (Dev.setOut_reach ..); decide) | (apply Reach.via (Dev.wrB_reach ..); decide) | (apply Reach.ite <;> intro) | simp -zeta -iota only [↓Reach.mk_eq] | split | dsimp only | (apply ReachMk.intro <;> first | exact .inr (by decide) | rfl | exact .inl rfl | skip))

theorem Dev.outsAtW_reach (d : Dev) : Reach (Part.out) d (Dev.outsAtW d) := by
  unfold Dev.outsAtW
  with_reducible repeat' (first | assumption | exact .refl _ | (extract_lets +onlyGivenNames x; first | (refine Reach.have (x := x) ?_ (fun hx hxs => ?_); unfold x; clear x; rotate_left; clear_value x) | clear_value x) | (apply Reach.via (Dev.setOut_reach ..); decide) | (apply Dev.forAll_reach <;> intros) | (apply Reach.ite <;> intro) | simp -zeta -iota only [↓Reach.mk_eq] | split | dsimp only | (apply ReachMk.intro <;> first | exact .inr (by decide) | rfl | exact .inl rfl | skip))

theorem Dev.outsPointH_reach (d : Dev) : Reach (Part.regs ||| Part.fl ||| Part.out ||| Part.bil ||| Part.bst) d (Dev.outsPointH d) := by
  unfold Dev.outsPointH
  with_reducible repeat' (first | assumption | exact .refl _ | (extract_lets +onlyGivenNames x; first | (refine Reach.have (x := x) ?_ (fun hx hxs => ?_); unfold x; clear x; rotate_left; clear_value x) | clear_value x) | (apply Reach.via (Dev.outCause_reach ..); decide) | (apply Reach.via (Dev.outGo_reach ..); decide) | (apply Reach.via (Dev.weldScan_reach ..); decide) | (apply Dev.forAll_reach <;> intros) | (apply Reach.ite <;> intro) | split | dsimp only)

theorem Dev.tlockEnd_reach (d : Dev) (n : Nat) : Reach (Part.regs ||| Part.fl ||| Part.pwm ||| Part.out ||| Part.cap ||| Part.ctr ||| Part.bil ||| Part.bst) d (Dev.tlockEnd d n) := by
  unfold Dev.tlockEnd
  with_reducible repeat' (first | assumption | exact .refl _ | (apply Reach.via (Dev.outTrip_reach ..); decide) | (apply Reach.ite <;> intro) | split)

theorem Dev.tinsEnd_reach (d : Dev) (n : Nat) : Reach (Part.regs ||| Part.fl ||| Part.out ||| Part.bil ||| Part.bst) d (Dev.tinsEnd d n) := by
  unfold Dev.tinsEnd
  with_reducible repeat' (first | assumption | exact .refl _ | (apply Reach.via (Dev.outRamp_reach ..); decide) | (apply Reach.ite <;> intro) | split)

theorem Dev.tpreEnd_reach (d : Dev) (n : Nat) : Reach (Part.regs ||| Part.fl ||| Part.out ||| Part.bil ||| Part.bst) d (Dev.tpreEnd d n) := by
  unfold Dev.tpreEnd
  with_reducible repeat' (first | assumption | exact .refl _ | (apply Reach.via (Dev.outRamp_reach ..); decide) | (apply Reach.ite <;> intro) | split)

theorem Dev.trampEnd_reach (d : Dev) (n : Nat) : Reach (Part.regs ||| Part.fl ||| Part.pwm ||| Part.out ||| Part.cap ||| Part.ctr ||| Part.bil ||| Part.bst) d (Dev.trampEnd d n) := by
  unfold Dev.trampEnd
  with_reducible repeat' (first | assumption | exact .refl _ | (apply Reach.via (Dev.outTrip_reach ..); decide) | (apply Reach.ite <;> intro) | split)

theorem Dev.tdisEnd_reach (d : Dev) (n : Nat) : Reach (Part.regs ||| Part.fl ||| Part.pwm ||| Part.out ||| Part.cap ||| Part.ctr ||| Part.bil ||| Part.bst) d (Dev.tdisEnd d n) := by
  unfold Dev.tdisEnd
  with_reducible repeat' (first | assumption | exact .refl _ | (extract_lets +onlyGivenNames x; first | (refine Reach.have (x := x) ?_ (fun hx hxs => ?_); unfold x; clear x; rotate_left; clear_value x) | clear_value x) | (apply Reach.via (Dev.outTrip_reach ..); decide) | (apply Reach.ite <;> intro) | split)

end Sys2Proof.Machine
end

