-- ==== Sys2Proof/Laws/ReachCable.lean ====
section
/-! SUPPORT. What the functions of Machine/Cable.lean can do to the block. -/

set_option linter.tactic.unusedName false
set_option linter.unusedTactic false
set_option linter.unusedSimpArgs false
set_option linter.unreachableTactic false
set_option maxHeartbeats 800000

namespace Sys2Proof.Machine

theorem Dev.setCable_reach (d : Dev) (n : Nat) (x : CableRt) : Reach (Part.cbl) d (Dev.setCable d n x) := by
  unfold Dev.setCable
  with_reducible repeat' (first | assumption | exact .refl _ | (extract_lets +onlyGivenNames x; first | (have hf : List CableRt := x; clear hf; refine Reach.keep_cbl (x := x) ?_ (fun hx => ?_); (· intro hs; unfold x; clear x; (repeat' (first | (simp +zetaDelta (maxDischargeDepth := 9) only [Dev.Shaped.cbl, Dev.Shaped.wr, Dev.Shaped.resetDomains, setAt_length, addAt_length, List.length_map, List.length_replicate, List.length_cons, List.length_nil, List.length_zipWith, List.length_range, List.length_append, List.length_drop, List.length_take, Nat.reduceSub, Nat.reduceLeDiff, Nat.min_eq_left, *, and_self, Nat.reduceAdd, Nat.zero_add]; done) | split))); clear_value x) | clear_value x) | simp -zeta -iota only [↓Reach.mk_eq] | (apply ReachMk.intro <;> first | exact .inr (by decide) | rfl | exact .inl rfl | (refine .inr ⟨by decide, fun hs he => ?_⟩; (repeat' (first | (simp +zetaDelta (maxDischargeDepth := 9) only [Dev.Shaped.cbl, Dev.Shaped.wr, Dev.Shaped.resetDomains, setAt_length, addAt_length, List.length_map, List.length_replicate, List.length_cons, List.length_nil, List.length_zipWith, List.length_range, List.length_append, List.length_drop, List.length_take, Nat.reduceSub, Nat.reduceLeDiff, Nat.min_eq_left, *, and_self, Nat.reduceAdd, Nat.zero_add]; done) | split)); done) | skip))

theorem Dev.setPin_reach (d : Dev) (n p : Nat) (x : PinRt) : Reach (Part.cbl) d (Dev.setPin d n p x) := by
  unfold Dev.setPin
  with_reducible repeat' (first | assumption | exact .refl _ | (extract_lets +onlyGivenNames x; clear_value x) | (apply Reach.via (Dev.setCable_reach ..); decide) | simp -zeta -iota only [↓Reach.mk_eq] | (apply ReachMk.intro <;> first | exact .inr (by decide) | rfl | exact .inl rfl | skip))

theorem Dev.noFlowCheck_reach (d : Dev) (n : Nat) : Reach (Part.regs ||| Part.fl) d (Dev.noFlowCheck d n) := by
  unfold Dev.noFlowCheck
  with_reducible repeat' (first | assumption | exact .refl _ | (extract_lets +onlyGivenNames x; first | (refine Reach.have (x := x) ?_ (fun hx hxs => ?_); unfold x; clear x; rotate_left; clear_value x) | clear_value x) | (apply Reach.via (Dev.raise_reach ..); decide) | (apply Reach.via (Dev.wrB_reach ..); decide) | (apply Reach.ite <;> intro) | split | dsimp only)

theorem Dev.flowWindow_reach (d : Dev) (n count : Nat) : Reach (Part.regs ||| Part.fl ||| Part.cbl) d (Dev.flowWindow d n count) := by
  unfold Dev.flowWindow
  with_reducible repeat' (first | assumption | exact .refl _ | (extract_lets +onlyGivenNames x; first | (refine Reach.have (x := x) ?_ (fun hx hxs => ?_); unfold x; clear x; rotate_left; clear_value x) | clear_value x) | (apply Reach.wr'; decide) | (apply Reach.via (Dev.noFlowCheck_reach ..); decide) | (apply Reach.via (Dev.setCable_reach ..); decide) | (apply Reach.ite <;> intro) | simp -zeta -iota only [↓Reach.mk_eq] | split | dsimp only | (apply ReachMk.intro <;> first | exact .inr (by decide) | rfl | exact .inl rfl | skip))

theorem Dev.fanStall_reach (d : Dev) (n : Nat) : Reach (Part.regs ||| Part.fl) d (Dev.fanStall d n) := by
  unfold Dev.fanStall
  with_reducible repeat' (first | assumption | exact .refl _ | (apply Reach.wr'; decide) | (apply Reach.via (Dev.raise_reach ..); decide) | (apply Reach.ite <;> intro) | split | dsimp only)

theorem Dev.tachEdge_reach (d : Dev) (n : Nat) : Reach (Part.regs ||| Part.cbl) d (Dev.tachEdge d n) := by
  unfold Dev.tachEdge
  with_reducible repeat' (first | assumption | exact .refl _ | (extract_lets +onlyGivenNames x; first | (refine Reach.have (x := x) ?_ (fun hx hxs => ?_); unfold x; clear x; rotate_left; clear_value x) | clear_value x) | (apply Reach.wr'; decide) | (apply Reach.via (Dev.setCable_reach ..); decide) | (apply Reach.ite <;> intro) | simp -zeta -iota only [↓Reach.mk_eq] | split | dsimp only | (apply ReachMk.intro <;> first | exact .inr (by decide) | rfl | exact .inl rfl | skip))

theorem Dev.divOpen_reach (d : Dev) (a b : Int) : Reach (Part.free) d (Dev.divOpen d a b).2 := by
  unfold Dev.divOpen
  with_reducible repeat' (first | assumption | exact .refl _ | (extract_lets +onlyGivenNames x; clear_value x) | (apply Reach.ite <;> intro) | simp -zeta -iota only [↓Reach.mk_eq] | split | dsimp only | (apply ReachMk.intro <;> first | exact .inr (by decide) | rfl | exact .inl rfl | skip))

theorem Dev.divOpen_reach' {d : Dev} {a b : Int} {rr0 : Int} {re : Dev} (he : Dev.divOpen d a b = (rr0, re)) : Reach (Part.free) d re := by
  have hreach := Dev.divOpen_reach d a b
  rw [he] at hreach
  exact hreach

theorem Dev.divOpen_via' {mm : Nat} {aa : Dev} {d : Dev} {a b : Int} {rr0 : Int} {re : Dev} (hs : Part.sub (Part.free) mm = true) (he : Dev.divOpen d a b = (rr0, re)) (hr : Reach mm aa d) : Reach mm aa re := hr.step (Dev.divOpen_reach' he) hs

theorem Dev.cblSample_reach (d : Dev) (n : Nat) : Reach (Part.cbl) d (Dev.cblSample d n) := by
  unfold Dev.cblSample
  with_reducible repeat' (first | assumption | exact .refl _ | (extract_lets +onlyGivenNames x; first | (refine Reach.have (x := x) ?_ (fun hx hxs => ?_); unfold x; clear x; rotate_left; clear_value x) | clear_value x) | (apply Reach.via (Dev.setCable_reach ..); decide) | (apply Reach.ite <;> intro) | simp -zeta -iota only [↓Reach.mk_eq] | split | dsimp only | (apply ReachMk.intro <;> first | exact .inr (by decide) | rfl | exact .inl rfl | skip))

theorem Dev.pinLimit_reach (d : Dev) (n p : Nat) (h : PinHeat) (tcool : Int) (fault : Bool) : Reach (Part.free) d (Dev.pinLimit d n p h tcool fault).2 := by
  unfold Dev.pinLimit
  with_reducible repeat' (first | assumption | exact .refl _ | (extract_lets +onlyGivenNames x; first | (refine Reach.have (x := x) ?_ (fun hx hxs => ?_); unfold x; clear x; rotate_left; clear_value x) | (refine Reach.have (x := x.1) ?_ (fun hx hxs => ?_); unfold x; clear x; rotate_left; clear_value x) | (refine Reach.have (x := x.2) ?_ (fun hx hxs => ?_); unfold x; clear x; rotate_left; clear_value x) | (have hf := fun y => (x y : Dev); clear hf; unfold x; clear_value x) | (have hf := fun y z => (x y z : Dev); clear hf; unfold x; clear_value x) | clear_value x) | (apply Reach.via (Dev.divOpen_reach ..); decide) | (apply Dev.divOpen_via'; decide; assumption) | (apply Reach.ite <;> intro) | split | dsimp only)

theorem Dev.pinLimit_reach' {d : Dev} {n p : Nat} {h : PinHeat} {tcool : Int} {fault : Bool} {rr0 : Nat} {re : Dev} (he : Dev.pinLimit d n p h tcool fault = (rr0, re)) : Reach (Part.free) d re := by
  have hreach := Dev.pinLimit_reach d n p h tcool fault
  rw [he] at hreach
  exact hreach

theorem Dev.pinLimit_via' {mm : Nat} {aa : Dev} {d : Dev} {n p : Nat} {h : PinHeat} {tcool : Int} {fault : Bool} {rr0 : Nat} {re : Dev} (hs : Part.sub (Part.free) mm = true) (he : Dev.pinLimit d n p h tcool fault = (rr0, re)) (hr : Reach mm aa d) : Reach mm aa re := hr.step (Dev.pinLimit_reach' he) hs

theorem Dev.pinEvents_reach (d : Dev) (n p : Nat) : Reach (Part.fl ||| Part.cbl) d (Dev.pinEvents d n p) := by
  unfold Dev.pinEvents
  with_reducible repeat' (first | assumption | exact .refl _ | (extract_lets +onlyGivenNames x; first | (refine Reach.have (x := x) ?_ (fun hx hxs => ?_); unfold x; clear x; rotate_left; clear_value x) | clear_value x) | (apply Reach.via (Dev.raise_reach ..); decide) | (apply Reach.via (Dev.setPin_reach ..); decide) | (apply Reach.ite <;> intro) | simp -zeta -iota only [↓Reach.mk_eq] | split | dsimp only | (apply ReachMk.intro <;> first | exact .inr (by decide) | rfl | exact .inl rfl | skip))

theorem Dev.pinMs_reach (d : Dev) (n p : Nat) (i2 : Nat) : Reach (Part.regs ||| Part.free ||| Part.fl ||| Part.cbl) d (Dev.pinMs d n p i2).2 := by
  unfold Dev.pinMs
  with_reducible repeat' (first | assumption | exact .refl _ | (extract_lets +onlyGivenNames x; first | (refine Reach.have (x := x) ?_ (fun hx hxs => ?_); unfold x; clear x; rotate_left; clear_value x) | (refine Reach.have (x := x.1) ?_ (fun hx hxs => ?_); unfold x; clear x; rotate_left; clear_value x) | (refine Reach.have (x := x.2) ?_ (fun hx hxs => ?_); unfold x; clear x; rotate_left; clear_value x) | clear_value x) | (apply Reach.wr'; decide) | (apply Reach.via (Dev.pinEvents_reach ..); decide) | (apply Reach.via (Dev.pinLimit_reach ..); decide) | (apply Dev.pinLimit_via'; decide; assumption) | (apply Reach.via (Dev.setPin_reach ..); decide) | (apply Reach.via (Dev.wrS_reach ..); decide) | (apply Reach.ite <;> intro) | simp -zeta -iota only [↓Reach.mk_eq] | split | dsimp only | (apply ReachMk.intro <;> first | exact .inr (by decide) | rfl | exact .inl rfl | skip))

theorem Dev.pinMs_reach' {d : Dev} {n p : Nat} {i2 : Nat} {rr0 : Nat} {re : Dev} (he : Dev.pinMs d n p i2 = (rr0, re)) : Reach (Part.regs ||| Part.free ||| Part.fl ||| Part.cbl) d re := by
  have hreach := Dev.pinMs_reach d n p i2
  rw [he] at hreach
  exact hreach

theorem Dev.pinMs_via' {mm : Nat} {aa : Dev} {d : Dev} {n p : Nat} {i2 : Nat} {rr0 : Nat} {re : Dev} (hs : Part.sub (Part.regs ||| Part.free ||| Part.fl ||| Part.cbl) mm = true) (he : Dev.pinMs d n p i2 = (rr0, re)) (hr : Reach mm aa d) : Reach mm aa re := hr.step (Dev.pinMs_reach' he) hs

theorem Dev.setIlim_reach (d : Dev) (n lim : Nat) : Reach (Part.regs ||| Part.fl ||| Part.cbl) d (Dev.setIlim d n lim) := by
  unfold Dev.setIlim
  with_reducible repeat' (first | assumption | exact .refl _ | (extract_lets +onlyGivenNames x; first | (refine Reach.have (x := x) ?_ (fun hx hxs => ?_); unfold x; clear x; rotate_left; clear_value x) | clear_value x) | (apply Reach.wr'; decide) | (apply Reach.via (Dev.raise_reach ..); decide) | (apply Reach.via (Dev.setCable_reach ..); decide) | (apply Reach.ite <;> intro) | simp -zeta -iota only [↓Reach.mk_eq] | split | (apply ReachMk.intro <;> first | exact .inr (by decide) | rfl | exact .inl rfl | skip))

theorem cblPinNext_reach (n : Nat) (i2 : List Nat) (acc : Nat × Dev) (p : Nat) : Reach (Part.regs ||| Part.free ||| Part.fl ||| Part.cbl) acc.2 (cblPinNext n i2 acc p).2 := by
  unfold cblPinNext
  split
  · exact Dev.pinMs_reach acc.2 n p (numAt i2 p)
  · exact .refl _

theorem cblPinNext_fold (n : Nat) (i2 l : List Nat) (acc : Nat × Dev) : Reach (Part.regs ||| Part.free ||| Part.fl ||| Part.cbl) acc.2 (l.foldl (cblPinNext n i2) acc).2 := by
  induction l generalizing acc with
  | nil => exact .refl _
  | cons p l ih => exact (cblPinNext_reach n i2 acc p).trans (ih _)


theorem Dev.cblMs_reach (d : Dev) (n : Nat) : Reach (Part.regs ||| Part.free ||| Part.fl ||| Part.cbl) d (Dev.cblMs d n) := by
  unfold Dev.cblMs
  with_reducible repeat' (first | assumption | exact .refl _ | (extract_lets +onlyGivenNames x; first | (refine Reach.have (x := x) ?_ (fun hx hxs => ?_); unfold x; clear x; rotate_left; clear_value x) | (refine Reach.have (x := x.1) ?_ (fun hx hxs => ?_); unfold x; clear x; rotate_left; clear_value x) | (refine Reach.have (x := x.2) ?_ (fun hx hxs => ?_); unfold x; clear x; rotate_left; clear_value x) | clear_value x) | (apply Reach.wr'; decide) | (apply Reach.via (Dev.setCable_reach ..); decide) | (apply Reach.via (Dev.setIlim_reach ..); decide) | (apply Reach.via (Dev.wrS_reach ..); decide) | (apply Reach.via (cblPinNext_reach ..); decide) | (apply Reach.via (cblPinNext_fold _ _ _ (_, _)); decide) | (apply Reach.ite <;> intro) | simp -zeta -iota only [↓Reach.mk_eq] | split | dsimp only | (apply ReachMk.intro <;> first | exact .inr (by decide) | rfl | exact .inl rfl | skip))

theorem Dev.cablesAtW_reach (d : Dev) (ms : Bool) : Reach (Part.regs ||| Part.free ||| Part.fl ||| Part.cbl) d (Dev.cablesAtW d ms) := by
  unfold Dev.cablesAtW
  with_reducible repeat' (first | assumption | exact .refl _ | (extract_lets +onlyGivenNames x; first | (refine Reach.have (x := x) ?_ (fun hx hxs => ?_); unfold x; clear x; rotate_left; clear_value x) | clear_value x) | (apply Reach.via (Dev.cblMs_reach ..); decide) | (apply Reach.via (Dev.cblSample_reach ..); decide) | (apply Reach.via (Dev.noFlowCheck_reach ..); decide) | (apply Dev.forAll_reach <;> intros) | (apply Reach.ite <;> intro) | split | dsimp only)

theorem Dev.cblEnable_reach (d : Dev) (n : Nat) (en : Bool) : Reach (Part.regs ||| Part.fl ||| Part.st ||| Part.cbl) d (Dev.cblEnable d n en) := by
  unfold Dev.cblEnable
  with_reducible repeat' (first | assumption | exact .refl _ | (extract_lets +onlyGivenNames x; first | (refine Reach.have (x := x) ?_ (fun hx hxs => ?_); unfold x; clear x; rotate_left; clear_value x) | clear_value x) | (apply Reach.wr'; decide) | (apply Reach.via (Dev.setIlim_reach ..); decide) | (apply Reach.via (Dev.wrB_reach ..); decide) | (apply Reach.ite <;> intro) | split | dsimp only)

theorem Dev.pinStart_reach (d : Dev) (n p : Nat) : Reach (Part.cbl) d (Dev.pinStart d n p) := by
  unfold Dev.pinStart
  with_reducible repeat' (first | assumption | exact .refl _ | (extract_lets +onlyGivenNames x; clear_value x) | (apply Reach.via (Dev.setPin_reach ..); decide) | simp -zeta -iota only [↓Reach.mk_eq] | (apply ReachMk.intro <;> first | exact .inr (by decide) | rfl | exact .inl rfl | skip))

end Sys2Proof.Machine
end

