-- ==== Sys2Proof/Laws/ReachCan.lean ====
section
/-! SUPPORT. What the functions of Machine/Can.lean can do to the block. -/

set_option linter.tactic.unusedName false
set_option linter.unusedTactic false
set_option linter.unusedSimpArgs false
set_option linter.unreachableTactic false
set_option maxHeartbeats 800000

namespace Sys2Proof.Machine

theorem Dev.setCan_reach (d : Dev) (c : Nat) (x : CanRt) : Reach (Part.can) d (Dev.setCan d c x) := by
  unfold Dev.setCan
  with_reducible repeat' (first | assumption | exact .refl _ | (extract_lets +onlyGivenNames x; first | (have hf : List CanRt := x; clear hf; refine Reach.keep_can (x := x) ?_ (fun hx => ?_); (· intro hs; unfold x; clear x; (repeat' (first | (simp +zetaDelta (maxDischargeDepth := 9) only [Dev.Shaped.can, Dev.Shaped.wr, Dev.Shaped.resetDomains, setAt_length, addAt_length, List.length_map, List.length_replicate, List.length_cons, List.length_nil, List.length_zipWith, List.length_range, List.length_append, List.length_drop, List.length_take, Nat.reduceSub, Nat.reduceLeDiff, Nat.min_eq_left, *, and_self, Nat.reduceAdd, Nat.zero_add]; done) | split))); clear_value x) | clear_value x) | simp -zeta -iota only [↓Reach.mk_eq] | (apply ReachMk.intro <;> first | exact .inr (by decide) | rfl | exact .inl rfl | (refine .inr ⟨by decide, fun hs he => ?_⟩; (repeat' (first | (simp +zetaDelta (maxDischargeDepth := 9) only [Dev.Shaped.can, Dev.Shaped.wr, Dev.Shaped.resetDomains, setAt_length, addAt_length, List.length_map, List.length_replicate, List.length_cons, List.length_nil, List.length_zipWith, List.length_range, List.length_append, List.length_drop, List.length_take, Nat.reduceSub, Nat.reduceLeDiff, Nat.min_eq_left, *, and_self, Nat.reduceAdd, Nat.zero_add]; done) | split)); done) | skip))

theorem Dev.canTxEvent_reach (d : Dev) (c kind : Nat) (data : List Nat) : Reach (Part.regs ||| Part.hmem ||| Part.jr ||| Part.rings ||| Part.fl) d (Dev.canTxEvent d c kind data) := by
  unfold Dev.canTxEvent
  with_reducible repeat' (first | assumption | exact .refl _ | (apply Reach.via (Dev.raise_reach ..); decide) | (apply Reach.via (Dev.raiseH_reach ..); decide) | (apply Reach.ite <;> intro) | split)

theorem Dev.canRxEvent_reach (d : Dev) (c kind : Nat) (data : List Nat) : Reach (Part.regs ||| Part.hmem ||| Part.jr ||| Part.rings ||| Part.fl) d (Dev.canRxEvent d c kind data) := by
  unfold Dev.canRxEvent
  with_reducible repeat' (first | assumption | exact .refl _ | (apply Reach.via (Dev.raise_reach ..); decide) | (apply Reach.via (Dev.raiseH_reach ..); decide) | (apply Reach.ite <;> intro) | split)

theorem Dev.canTiming_reach (d : Dev) (c : Nat) : Reach (Part.regs) d (Dev.canTiming d c) := by
  unfold Dev.canTiming
  with_reducible repeat' (first | assumption | exact .refl _ | (extract_lets +onlyGivenNames x; first | (refine Reach.have (x := x) ?_ (fun hx hxs => ?_); unfold x; clear x; rotate_left; clear_value x) | clear_value x) | (apply Reach.via (Dev.wrB_reach ..); decide) | dsimp only)

theorem Dev.canEnd_reach (d : Dev) (c b st : Nat) : Reach (Part.regs ||| Part.hmem ||| Part.jr ||| Part.rings ||| Part.fl) d (Dev.canEnd d c b st) := by
  unfold Dev.canEnd
  with_reducible repeat' (first | assumption | exact .refl _ | (apply Reach.wr'; decide) | (apply Reach.via (Dev.canTxEvent_reach ..); decide) | dsimp only)

theorem Dev.canShow_reach (d : Dev) (c : Nat) : Reach (Part.regs ||| Part.hmem ||| Part.jr ||| Part.rings ||| Part.fl ||| Part.can) d (Dev.canShow d c) := by
  unfold Dev.canShow
  with_reducible repeat' (first | assumption | exact .refl _ | (extract_lets +onlyGivenNames x; first | (refine Reach.have (x := x) ?_ (fun hx hxs => ?_); unfold x; clear x; rotate_left; clear_value x) | clear_value x) | (apply Reach.wr'; decide) | (apply Reach.via (Dev.canEnd_reach ..); decide) | (apply Reach.via (Dev.canTxEvent_reach ..); decide) | (apply Reach.via (Dev.setCan_reach ..); decide) | (apply Dev.forAll_reach <;> intros) | (apply Reach.ite <;> intro) | simp -zeta -iota only [↓Reach.mk_eq] | split | dsimp only | (apply ReachMk.intro <;> first | exact .inr (by decide) | rfl | exact .inl rfl | skip))

theorem Dev.canGood_reach (d : Dev) (c : Nat) (asTx : Bool) : Reach (Part.regs ||| Part.hmem ||| Part.free ||| Part.jr ||| Part.rings ||| Part.fl ||| Part.can) d (Dev.canGood d c asTx) := by
  unfold Dev.canGood
  with_reducible repeat' (first | assumption | exact .refl _ | (extract_lets +onlyGivenNames x; first | (refine Reach.have (x := x) ?_ (fun hx hxs => ?_); unfold x; clear x; rotate_left; clear_value x) | (refine Reach.have (x := x.1) ?_ (fun hx hxs => ?_); unfold x; clear x; rotate_left; clear_value x) | (refine Reach.have (x := x.2) ?_ (fun hx hxs => ?_); unfold x; clear x; rotate_left; clear_value x) | clear_value x) | (apply Reach.via (Dev.canShow_reach ..); decide) | (apply Reach.via (Dev.drawFree_reach ..); decide) | (apply Dev.drawFree_via'; decide; assumption) | (apply Reach.via (Dev.setCan_reach ..); decide) | (apply Reach.ite <;> intro) | simp -zeta -iota only [↓Reach.mk_eq] | split | dsimp only | (apply ReachMk.intro <;> first | exact .inr (by decide) | rfl | exact .inl rfl | skip))

theorem Dev.canSettle_reach (d : Dev) (c : Nat) : Reach (Part.regs) d (Dev.canSettle d c) := by
  unfold Dev.canSettle
  with_reducible repeat' (first | assumption | exact .refl _ | (apply Reach.wr'; decide) | (apply Reach.ite <;> intro) | split | dsimp only)

theorem Dev.canFlushGo_reach  (x0 : Nat) (d : Dev) (x2 : Nat) : Reach (Part.regs ||| Part.hmem ||| Part.jr ||| Part.rings ||| Part.cap ||| Part.can) d (Dev.canFlushGo  x0 d x2) := by
  induction x0 generalizing d x2 with
  | zero => unfold Dev.canFlushGo; with_reducible repeat' (first | assumption | exact .refl _ | exact .trans (by assumption) (ih ..) | refine .trans ?_ (ih ..) | (extract_lets +onlyGivenNames x; first | (refine Reach.have (x := x) ?_ (fun hx hxs => ?_); unfold x; clear x; rotate_left; clear_value x) | (refine Reach.have (x := x.1) ?_ (fun hx hxs => ?_); unfold x; clear x; rotate_left; clear_value x) | (refine Reach.have (x := x.2) ?_ (fun hx hxs => ?_); unfold x; clear x; rotate_left; clear_value x) | clear_value x) | (apply Reach.via (Dev.ringFrameGo_reach ..); decide) | (apply Reach.via (Dev.ringReach_reach ..); decide) | (apply Reach.via (Dev.setCan_reach ..); decide) | (apply Reach.ite <;> intro) | simp -zeta -iota only [↓Reach.mk_eq] | split | dsimp only | (apply ReachMk.intro <;> first | exact .inr (by decide) | rfl | exact .inl rfl | skip))
  | succ n ih => unfold Dev.canFlushGo; with_reducible repeat' (first | assumption | exact .refl _ | exact .trans (by assumption) (ih ..) | refine .trans ?_ (ih ..) | (extract_lets +onlyGivenNames x; first | (refine Reach.have (x := x) ?_ (fun hx hxs => ?_); unfold x; clear x; rotate_left; clear_value x) | (refine Reach.have (x := x.1) ?_ (fun hx hxs => ?_); unfold x; clear x; rotate_left; clear_value x) | (refine Reach.have (x := x.2) ?_ (fun hx hxs => ?_); unfold x; clear x; rotate_left; clear_value x) | clear_value x) | (apply Reach.via (Dev.ringFrameGo_reach ..); decide) | (apply Reach.via (Dev.ringReach_reach ..); decide) | (apply Reach.via (Dev.setCan_reach ..); decide) | (apply Reach.ite <;> intro) | simp -zeta -iota only [↓Reach.mk_eq] | split | dsimp only | (apply ReachMk.intro <;> first | exact .inr (by decide) | rfl | exact .inl rfl | skip))

theorem Dev.canFlush_reach (d : Dev) (c : Nat) : Reach (Part.regs ||| Part.hmem ||| Part.jr ||| Part.rings ||| Part.cap ||| Part.can) d (Dev.canFlush d c) := by
  unfold Dev.canFlush
  with_reducible repeat' (first | assumption | exact .refl _ | (extract_lets +onlyGivenNames x; first | (refine Reach.have (x := x) ?_ (fun hx hxs => ?_); unfold x; clear x; rotate_left; clear_value x) | (refine Reach.have (x := x.1) ?_ (fun hx hxs => ?_); unfold x; clear x; rotate_left; clear_value x) | (refine Reach.have (x := x.2) ?_ (fun hx hxs => ?_); unfold x; clear x; rotate_left; clear_value x) | clear_value x) | (apply Reach.wr'; decide) | (apply Reach.via (Dev.canFlushGo_reach ..); decide) | (apply Reach.ite <;> intro) | split)

theorem Dev.canToRing_reach (d : Dev) (c : Nat) (e : CanEntry) : Reach (Part.regs ||| Part.hmem ||| Part.jr ||| Part.rings ||| Part.fl ||| Part.cap ||| Part.can) d (Dev.canToRing d c e) := by
  unfold Dev.canToRing
  with_reducible repeat' (first | assumption | exact .refl _ | (extract_lets +onlyGivenNames x; first | (refine Reach.have (x := x) ?_ (fun hx hxs => ?_); unfold x; clear x; rotate_left; clear_value x) | clear_value x) | (apply Reach.via (Dev.bump_reach ..); decide) | (apply Reach.via (Dev.canFlush_reach ..); decide) | (apply Reach.via (Dev.canRxEvent_reach ..); decide) | (apply Reach.via (Dev.setCan_reach ..); decide) | (apply Reach.ite <;> intro) | simp -zeta -iota only [↓Reach.mk_eq] | split | (apply ReachMk.intro <;> first | exact .inr (by decide) | rfl | exact .inl rfl | skip))

theorem Dev.mbPut_reach (d : Dev) (c m : Nat) (e : CanEntry) : Reach (Part.regs ||| Part.can) d (Dev.mbPut d c m e) := by
  unfold Dev.mbPut
  with_reducible repeat' (first | assumption | exact .refl _ | (extract_lets +onlyGivenNames x; first | (refine Reach.have (x := x) ?_ (fun hx hxs => ?_); unfold x; clear x; rotate_left; clear_value x) | clear_value x) | (apply Reach.wr'; decide) | (apply Reach.via (Dev.setCan_reach ..); decide) | (apply Dev.forAll_reach <;> intros) | simp -zeta -iota only [↓Reach.mk_eq] | split | (apply ReachMk.intro <;> first | exact .inr (by decide) | rfl | exact .inl rfl | skip))

theorem Dev.setShadow_reach (d : Dev) (c m : Nat) (s : Option CanEntry) : Reach (Part.regs ||| Part.can) d (Dev.setShadow d c m s) := by
  unfold Dev.setShadow
  with_reducible repeat' (first | assumption | exact .refl _ | (extract_lets +onlyGivenNames x; first | (refine Reach.have (x := x) ?_ (fun hx hxs => ?_); unfold x; clear x; rotate_left; clear_value x) | clear_value x) | (apply Reach.via (Dev.setCan_reach ..); decide) | (apply Reach.via (Dev.wrB_reach ..); decide) | simp -zeta -iota only [↓Reach.mk_eq] | (apply ReachMk.intro <;> first | exact .inr (by decide) | rfl | exact .inl rfl | skip))

theorem Dev.mbStore_reach (d : Dev) (c m : Nat) (e : CanEntry) : Reach (Part.regs ||| Part.hmem ||| Part.jr ||| Part.rings ||| Part.fl ||| Part.can) d (Dev.mbStore d c m e) := by
  unfold Dev.mbStore
  with_reducible repeat' (first | assumption | exact .refl _ | (extract_lets +onlyGivenNames x; first | (refine Reach.have (x := x) ?_ (fun hx hxs => ?_); unfold x; clear x; rotate_left; clear_value x) | (have hf := fun y => (x y : Dev); clear hf; unfold x; clear_value x) | (have hf := fun y z => (x y z : Dev); clear hf; unfold x; clear_value x) | clear_value x) | (apply Reach.wr'; decide) | (apply Reach.via (Dev.bump_reach ..); decide) | (apply Reach.via (Dev.canRxEvent_reach ..); decide) | (apply Reach.via (Dev.mbPut_reach ..); decide) | (apply Reach.via (Dev.setShadow_reach ..); decide) | (apply Reach.ite <;> intro) | split | dsimp only)

theorem Dev.canReceive_reach (d : Dev) (c : Nat) (ws : List Nat) (at' : Nat) : Reach (Part.regs ||| Part.hmem ||| Part.jr ||| Part.rings ||| Part.fl ||| Part.cap ||| Part.can) d (Dev.canReceive d c ws at') := by
  unfold Dev.canReceive
  with_reducible repeat' (first | assumption | exact .refl _ | (extract_lets +onlyGivenNames x; first | (refine Reach.have (x := x) ?_ (fun hx hxs => ?_); unfold x; clear x; rotate_left; clear_value x) | clear_value x) | (apply Reach.via (Dev.bump_reach ..); decide) | (apply Reach.via (Dev.canToRing_reach ..); decide) | (apply Reach.via (Dev.mbStore_reach ..); decide) | (apply Reach.ite <;> intro) | simp -zeta -iota only [↓Reach.mk_eq] | split | dsimp only | (apply ReachMk.intro <;> first | exact .inr (by decide) | rfl | exact .inl rfl | skip))

theorem Dev.mbReadLock_reach (d : Dev) (c m : Nat) : Reach (Part.regs ||| Part.lastRead) d (Dev.mbReadLock d c m) := by
  unfold Dev.mbReadLock
  with_reducible repeat' (first | assumption | exact .refl _ | (extract_lets +onlyGivenNames x; first | (refine Reach.have (x := x) ?_ (fun hx hxs => ?_); unfold x; clear x; rotate_left; clear_value x) | clear_value x) | (apply Reach.wr'; decide) | (apply Reach.ite <;> intro) | simp -zeta -iota only [↓Reach.mk_eq] | split | dsimp only | (apply ReachMk.intro <;> first | exact .inr (by decide) | rfl | exact .inl rfl | skip))

theorem Dev.mbRelease_reach (d : Dev) (c m : Nat) : Reach (Part.regs ||| Part.can) d (Dev.mbRelease d c m) := by
  unfold Dev.mbRelease
  with_reducible repeat' (first | assumption | exact .refl _ | (extract_lets +onlyGivenNames x; first | (refine Reach.have (x := x) ?_ (fun hx hxs => ?_); unfold x; clear x; rotate_left; clear_value x) | clear_value x) | (apply Reach.wr'; decide) | (apply Reach.via (Dev.mbPut_reach ..); decide) | (apply Reach.via (Dev.setShadow_reach ..); decide) | (apply Reach.ite <;> intro) | simp -zeta -iota only [↓Reach.mk_eq] | split | (apply ReachMk.intro <;> first | exact .inr (by decide) | rfl | exact .inl rfl | skip))

theorem Dev.mbRead_reach (d : Dev) (c m k : Nat) : Reach (Part.regs ||| Part.lastRead ||| Part.can) d (Dev.mbRead d c m k) := by
  unfold Dev.mbRead
  with_reducible repeat' (first | assumption | exact .refl _ | (extract_lets +onlyGivenNames x; first | (refine Reach.have (x := x) ?_ (fun hx hxs => ?_); unfold x; clear x; rotate_left; clear_value x) | clear_value x) | (apply Reach.via (Dev.mbReadLock_reach ..); decide) | (apply Reach.via (Dev.mbRelease_reach ..); decide) | (apply Reach.ite <;> intro) | simp -zeta -iota only [↓Reach.mk_eq] | split | (apply ReachMk.intro <;> first | exact .inr (by decide) | rfl | exact .inl rfl | skip))

theorem Dev.mbFilter_reach (d : Dev) (c m : Nat) (reg v : Nat) : Reach (Part.regs ||| Part.can) d (Dev.mbFilter d c m reg v) := by
  unfold Dev.mbFilter
  with_reducible repeat' (first | assumption | exact .refl _ | (extract_lets +onlyGivenNames x; first | (refine Reach.have (x := x) ?_ (fun hx hxs => ?_); unfold x; clear x; rotate_left; clear_value x) | (refine Reach.have (x := x) ?_ (fun hx hxs => ?_); unfold x; clear x; rotate_left; rename Dev => yy) | (refine Reach.have (x := x.1) ?_ (fun hx hxs => ?_); unfold x; clear x; rotate_left; clear_value x) | (refine Reach.have (x := x.2) ?_ (fun hx hxs => ?_); unfold x; clear x; rotate_left; clear_value x) | (refine Reach.have (x := x.2.2) ?_ (fun hx hxs => ?_); unfold x; clear x; rotate_left; clear_value x) | (have hf : Mem := x; clear hf; unfold x; clear_value x) | (have hf : Fuses := x; clear hf; unfold x; clear_value x) | (have hf := fun y => (x y : Dev); clear hf; unfold x; clear_value x) | (have hf := fun y z => (x y z : Dev); clear hf; unfold x; clear_value x) | (have hf := fun y z w => (x y z w : Dev); clear hf; unfold x; clear_value x) | clear_value x) | (apply Reach.wr'; decide) | (apply Reach.reset'; decide) | (apply Reach.via (Dev.mbPut_reach ..); decide) | (apply Reach.via (Dev.setShadow_reach ..); decide) | (apply Reach.ite <;> intro) | simp -zeta -iota only [↓Reach.mk_eq] | split | dsimp only | (apply ReachMk.intro <;> first | exact .inr (by decide) | rfl | exact .inl rfl | (refine .inr ⟨by decide, ?_⟩; (repeat' (first | exact MemStep.refl _ | exact MemStep.clear _ | apply MemStep.writeNat | apply MemStep.write | apply MemStep.drop)); done) | exact .inr ⟨by decide, .seal _ _⟩ | exact .inr ⟨by decide, .cont _⟩ | (refine .inr ⟨by decide, fun hs he => ?_⟩; (repeat' (first | ((try simp only [SiteTime.Shaped] at *); simp +zetaDelta (maxDischargeDepth := 9) only [SiteTime.Shaped, Dev.Shaped.tm_pdelaySeq, Dev.Shaped.wr, Dev.Shaped.resetDomains, setAt_length, addAt_length, List.length_map, List.length_replicate, List.length_cons, List.length_nil, List.length_zipWith, List.length_range, List.length_append, List.length_drop, List.length_take, Nat.reduceSub, Nat.reduceLeDiff, Nat.min_eq_left, *, and_self, Nat.reduceAdd, Nat.zero_add]; done) | split)); done) | (refine .inr ⟨by decide, fun hs he => ?_⟩; (repeat' (first | ((try simp only [Ce.Shaped] at *); simp +zetaDelta (maxDischargeDepth := 9) only [Ce.Shaped, Dev.Shaped.ce_sig, Dev.Shaped.ce_acc, Dev.Shaped.ce_axes, Dev.Shaped.wr, Dev.Shaped.resetDomains, setAt_length, addAt_length, List.length_map, List.length_replicate, List.length_cons, List.length_nil, List.length_zipWith, List.length_range, List.length_append, List.length_drop, List.length_take, Nat.reduceSub, Nat.reduceLeDiff, Nat.min_eq_left, *, and_self, Nat.reduceAdd, Nat.zero_add]; done) | split)); done) | (refine .inr ⟨by decide, fun hs he => ?_⟩; (repeat' (first | ((try simp only [Dgr.Shaped] at *); simp +zetaDelta (maxDischargeDepth := 9) only [Dgr.Shaped, Dev.Shaped.dgr_blk, Dev.Shaped.wr, Dev.Shaped.resetDomains, setAt_length, addAt_length, List.length_map, List.length_replicate, List.length_cons, List.length_nil, List.length_zipWith, List.length_range, List.length_append, List.length_drop, List.length_take, Nat.reduceSub, Nat.reduceLeDiff, Nat.min_eq_left, *, and_self, Nat.reduceAdd, Nat.zero_add]; done) | split)); done) | (refine .inr ⟨by decide, fun hs he => ?_⟩; (repeat' (first | ((try simp only [Pwm.Shaped] at *); simp +zetaDelta (maxDischargeDepth := 9) only [Pwm.Shaped, Dev.Shaped.pwm_inputs, Dev.Shaped.wr, Dev.Shaped.resetDomains, setAt_length, addAt_length, List.length_map, List.length_replicate, List.length_cons, List.length_nil, List.length_zipWith, List.length_range, List.length_append, List.length_drop, List.length_take, Nat.reduceSub, Nat.reduceLeDiff, Nat.min_eq_left, *, and_self, Nat.reduceAdd, Nat.zero_add]; done) | split)); done) | (refine .inr ⟨by decide, fun hs he => ?_⟩; (repeat' (first | (simp +zetaDelta (maxDischargeDepth := 9) only [Dev.Shaped.out, Dev.Shaped.wr, Dev.Shaped.resetDomains, setAt_length, addAt_length, List.length_map, List.length_replicate, List.length_cons, List.length_nil, List.length_zipWith, List.length_range, List.length_append, List.length_drop, List.length_take, Nat.reduceSub, Nat.reduceLeDiff, Nat.min_eq_left, *, and_self, Nat.reduceAdd, Nat.zero_add]; done) | split)); done) | (refine .inr ⟨by decide, fun hs he => ?_⟩; (repeat' (first | (simp +zetaDelta (maxDischargeDepth := 9) only [Dev.Shaped.cbl, Dev.Shaped.wr, Dev.Shaped.resetDomains, setAt_length, addAt_length, List.length_map, List.length_replicate, List.length_cons, List.length_nil, List.length_zipWith, List.length_range, List.length_append, List.length_drop, List.length_take, Nat.reduceSub, Nat.reduceLeDiff, Nat.min_eq_left, *, and_self, Nat.reduceAdd, Nat.zero_add]; done) | split)); done) | (refine .inr ⟨by decide, fun hs he => ?_⟩; (repeat' (first | (simp +zetaDelta (maxDischargeDepth := 9) only [Dev.Shaped.veh, Dev.Shaped.wr, Dev.Shaped.resetDomains, setAt_length, addAt_length, List.length_map, List.length_replicate, List.length_cons, List.length_nil, List.length_zipWith, List.length_range, List.length_append, List.length_drop, List.length_take, Nat.reduceSub, Nat.reduceLeDiff, Nat.min_eq_left, *, and_self, Nat.reduceAdd, Nat.zero_add]; done) | split)); done) | (refine .inr ⟨by decide, fun hs he => ?_⟩; (repeat' (first | ((try simp only [Fba.Shaped] at *); simp +zetaDelta (maxDischargeDepth := 9) only [Fba.Shaped, Dev.Shaped.fba_ctlTodo, Dev.Shaped.fba_trigTodo, Dev.Shaped.fba_ctl, Dev.Shaped.fba_trig, Dev.Shaped.wr, Dev.Shaped.resetDomains, setAt_length, addAt_length, List.length_map, List.length_replicate, List.length_cons, List.length_nil, List.length_zipWith, List.length_range, List.length_append, List.length_drop, List.length_take, Nat.reduceSub, Nat.reduceLeDiff, Nat.min_eq_left, *, and_self, Nat.reduceAdd, Nat.zero_add]; done) | split)); done) | (refine .inr ⟨by decide, fun hs he => ?_⟩; (repeat' (first | (simp +zetaDelta (maxDischargeDepth := 9) only [Dev.Shaped.imd, Dev.Shaped.wr, Dev.Shaped.resetDomains, setAt_length, addAt_length, List.length_map, List.length_replicate, List.length_cons, List.length_nil, List.length_zipWith, List.length_range, List.length_append, List.length_drop, List.length_take, Nat.reduceSub, Nat.reduceLeDiff, Nat.min_eq_left, *, and_self, Nat.reduceAdd, Nat.zero_add]; done) | split)); done) | (refine .inr ⟨by decide, fun hs he => ?_⟩; (repeat' (first | ((try simp only [Net.Shaped] at *); simp +zetaDelta (maxDischargeDepth := 9) only [Net.Shaped, Dev.Shaped.net_ports, Dev.Shaped.net_ptp, Dev.Shaped.net_cells, Dev.Shaped.wr, Dev.Shaped.resetDomains, setAt_length, addAt_length, List.length_map, List.length_replicate, List.length_cons, List.length_nil, List.length_zipWith, List.length_range, List.length_append, List.length_drop, List.length_take, Nat.reduceSub, Nat.reduceLeDiff, Nat.min_eq_left, *, and_self, Nat.reduceAdd, Nat.zero_add]; done) | split)); done) | (refine .inr ⟨by decide, fun hs he => ?_⟩; (repeat' (first | ((try simp only [Svg.Shaped] at *); simp +zetaDelta (maxDischargeDepth := 9) only [Svg.Shaped, Dev.Shaped.svg_subs, Dev.Shaped.svg_gs, Dev.Shaped.svg_keys, Dev.Shaped.svg_pubs, Dev.Shaped.wr, Dev.Shaped.resetDomains, setAt_length, addAt_length, List.length_map, List.length_replicate, List.length_cons, List.length_nil, List.length_zipWith, List.length_range, List.length_append, List.length_drop, List.length_take, Nat.reduceSub, Nat.reduceLeDiff, Nat.min_eq_left, *, and_self, Nat.reduceAdd, Nat.zero_add]; done) | split)); done) | (refine .inr ⟨by decide, fun hs he => ?_⟩; (repeat' (first | ((try simp only [Metr.Shaped] at *); simp +zetaDelta (maxDischargeDepth := 9) only [Metr.Shaped, Dev.Shaped.met_retAt, Dev.Shaped.met_tp, Dev.Shaped.wr, Dev.Shaped.resetDomains, setAt_length, addAt_length, List.length_map, List.length_replicate, List.length_cons, List.length_nil, List.length_zipWith, List.length_range, List.length_append, List.length_drop, List.length_take, Nat.reduceSub, Nat.reduceLeDiff, Nat.min_eq_left, *, and_self, Nat.reduceAdd, Nat.zero_add]; done) | split)); done) | (refine .inr ⟨by decide, fun hs he => ?_⟩; (repeat' (first | ((try simp only [Bil.Shaped] at *); simp +zetaDelta (maxDischargeDepth := 9) only [Bil.Shaped, Dev.Shaped.bil_sess, Dev.Shaped.wr, Dev.Shaped.resetDomains, setAt_length, addAt_length, List.length_map, List.length_replicate, List.length_cons, List.length_nil, List.length_zipWith, List.length_range, List.length_append, List.length_drop, List.length_take, Nat.reduceSub, Nat.reduceLeDiff, Nat.min_eq_left, *, and_self, Nat.reduceAdd, Nat.zero_add]; done) | split)); done) | (refine .inr ⟨by decide, fun hs he => ?_⟩; (repeat' (first | ((try simp only [BilStore.Shaped] at *); simp +zetaDelta (maxDischargeDepth := 9) only [BilStore.Shaped, Dev.Shaped.bst_slots, Dev.Shaped.bst_copies, Dev.Shaped.wr, Dev.Shaped.resetDomains, setAt_length, addAt_length, List.length_map, List.length_replicate, List.length_cons, List.length_nil, List.length_zipWith, List.length_range, List.length_append, List.length_drop, List.length_take, Nat.reduceSub, Nat.reduceLeDiff, Nat.min_eq_left, *, and_self, Nat.reduceAdd, Nat.zero_add]; done) | split)); done) | (refine .inr ⟨by decide, fun hs he => ?_⟩; (repeat' (first | ((try simp only [Stk.Shaped] at *); simp +zetaDelta (maxDischargeDepth := 9) only [Stk.Shaped, Dev.Shaped.stk_found, Dev.Shaped.stk_enumDone, Dev.Shaped.stk_sats, Dev.Shaped.stk_out, Dev.Shaped.stk_lastFrame, Dev.Shaped.wr, Dev.Shaped.resetDomains, setAt_length, addAt_length, List.length_map, List.length_replicate, List.length_cons, List.length_nil, List.length_zipWith, List.length_range, List.length_append, List.length_drop, List.length_take, Nat.reduceSub, Nat.reduceLeDiff, Nat.min_eq_left, *, and_self, Nat.reduceAdd, Nat.zero_add]; done) | split)); done) | (refine .inr ⟨by decide, fun hs he => ?_⟩; (repeat' (first | (simp +zetaDelta (maxDischargeDepth := 9) only [Dev.Shaped.can, Dev.Shaped.wr, Dev.Shaped.resetDomains, setAt_length, addAt_length, List.length_map, List.length_replicate, List.length_cons, List.length_nil, List.length_zipWith, List.length_range, List.length_append, List.length_drop, List.length_take, Nat.reduceSub, Nat.reduceLeDiff, Nat.min_eq_left, *, and_self, Nat.reduceAdd, Nat.zero_add]; done) | split)); done) | (refine .inr ⟨by decide, fun hs he => ?_⟩; (repeat' (first | ((try simp only [HostPlat.Shaped] at *); simp +zetaDelta (maxDischargeDepth := 9) only [HostPlat.Shaped, Dev.Shaped.hp_slots, Dev.Shaped.hp_rx, Dev.Shaped.wr, Dev.Shaped.resetDomains, setAt_length, addAt_length, List.length_map, List.length_replicate, List.length_cons, List.length_nil, List.length_zipWith, List.length_range, List.length_append, List.length_drop, List.length_take, Nat.reduceSub, Nat.reduceLeDiff, Nat.min_eq_left, *, and_self, Nat.reduceAdd, Nat.zero_add]; done) | split)); done) | (refine .inr ⟨by decide, fun hs he => ?_⟩; (repeat' (first | ((try simp only [Therm.Shaped] at *); simp +zetaDelta (maxDischargeDepth := 9) only [Therm.Shaped, Dev.Shaped.th_nor, Dev.Shaped.wr, Dev.Shaped.resetDomains, setAt_length, addAt_length, List.length_map, List.length_replicate, List.length_cons, List.length_nil, List.length_zipWith, List.length_range, List.length_append, List.length_drop, List.length_take, Nat.reduceSub, Nat.reduceLeDiff, Nat.min_eq_left, *, and_self, Nat.reduceAdd, Nat.zero_add]; done) | split)); done) | skip) | (apply Reach.ite <;> intro))

theorem Dev.canPop_reach (d : Dev) (c : Nat) : Reach (Part.regs ||| Part.hmem ||| Part.jr ||| Part.rings ||| Part.cap ||| Part.can) d (Dev.canPop d c) := by
  unfold Dev.canPop
  with_reducible repeat' (first | assumption | exact .refl _ | (extract_lets +onlyGivenNames x; clear_value x) | (apply Reach.via (Dev.canFlush_reach ..); decide) | (apply Reach.via (Dev.setCan_reach ..); decide) | simp -zeta -iota only [↓Reach.mk_eq] | dsimp only | (apply ReachMk.intro <;> first | exact .inr (by decide) | rfl | exact .inl rfl | skip))

theorem Dev.canFeed_reach (d : Dev) (c : Nat) : Reach (Part.regs ||| Part.hmem ||| Part.jr ||| Part.rings ||| Part.st ||| Part.can) d (Dev.canFeed d c) := by
  unfold Dev.canFeed
  with_reducible repeat' (first | assumption | exact .refl _ | (extract_lets +onlyGivenNames x; first | (refine Reach.have (x := x) ?_ (fun hx hxs => ?_); unfold x; clear x; rotate_left; clear_value x) | (refine Reach.have (x := x.1) ?_ (fun hx hxs => ?_); unfold x; clear x; rotate_left; clear_value x) | (refine Reach.have (x := x.2) ?_ (fun hx hxs => ?_); unfold x; clear x; rotate_left; clear_value x) | clear_value x) | (apply Reach.wr'; decide) | (apply Reach.via (Dev.ringReach_reach ..); decide) | (apply Reach.via (Dev.setCan_reach ..); decide) | (apply Reach.via (Dev.wrAll_reach ..); decide) | (apply Dev.forAll_reach <;> intros) | (apply Reach.ite <;> intro) | simp -zeta -iota only [↓Reach.mk_eq] | split | dsimp only | (apply ReachMk.intro <;> first | exact .inr (by decide) | rfl | exact .inl rfl | skip))

theorem Dev.canFedDone_reach (d : Dev) (c : Nat) (ok : Bool) : Reach (Part.regs ||| Part.hmem ||| Part.jr ||| Part.rings ||| Part.st ||| Part.can) d (Dev.canFedDone d c ok) := by
  unfold Dev.canFedDone
  with_reducible repeat' (first | assumption | exact .refl _ | (extract_lets +onlyGivenNames x; first | (refine Reach.have (x := x) ?_ (fun hx hxs => ?_); unfold x; clear x; rotate_left; clear_value x) | (refine Reach.have (x := x.1) ?_ (fun hx hxs => ?_); unfold x; clear x; rotate_left; clear_value x) | (refine Reach.have (x := x.2) ?_ (fun hx hxs => ?_); unfold x; clear x; rotate_left; clear_value x) | (have hf : Mem := x; clear hf; unfold x; clear_value x) | clear_value x) | (apply Reach.via (Dev.canFeed_reach ..); decide) | (apply Reach.via (Dev.ringComplete_reach ..); decide) | (apply Reach.via (Dev.setCan_reach ..); decide) | (apply Reach.ite <;> intro) | simp -zeta -iota only [↓Reach.mk_eq] | split | dsimp only | (apply ReachMk.intro <;> first | exact .inr (by decide) | rfl | exact .inl rfl | (refine .inr ⟨by decide, ?_⟩; (repeat' (first | exact MemStep.refl _ | exact MemStep.clear _ | apply MemStep.writeNat | apply MemStep.write | apply MemStep.drop)); done) | skip))

theorem Dev.canStop_reach (d : Dev) (c b st : Nat) : Reach (Part.regs ||| Part.hmem ||| Part.jr ||| Part.rings ||| Part.fl ||| Part.st ||| Part.can) d (Dev.canStop d c b st) := by
  unfold Dev.canStop
  with_reducible repeat' (first | assumption | exact .refl _ | (extract_lets +onlyGivenNames x; first | (refine Reach.have (x := x) ?_ (fun hx hxs => ?_); unfold x; clear x; rotate_left; clear_value x) | clear_value x) | (apply Reach.via (Dev.canEnd_reach ..); decide) | (apply Reach.via (Dev.canFedDone_reach ..); decide) | (apply Reach.via (Dev.canSettle_reach ..); decide) | (apply Reach.via (Dev.setCan_reach ..); decide) | (apply Reach.ite <;> intro) | simp -zeta -iota only [↓Reach.mk_eq] | split | (apply ReachMk.intro <;> first | exact .inr (by decide) | rfl | exact .inl rfl | skip))

theorem Dev.canReq_reach (d : Dev) (c b : Nat) : Reach (Part.regs) d (Dev.canReq d c b) := by
  unfold Dev.canReq
  with_reducible repeat' (first | assumption | exact .refl _ | (extract_lets +onlyGivenNames x; first | (refine Reach.have (x := x) ?_ (fun hx hxs => ?_); unfold x; clear x; rotate_left; clear_value x) | clear_value x) | (apply Reach.wr'; decide) | (apply Reach.via (Dev.wrAll_reach ..); decide) | (apply Reach.ite <;> intro) | split | dsimp only)

theorem Dev.canAbort_reach (d : Dev) (c b : Nat) : Reach (Part.regs ||| Part.hmem ||| Part.jr ||| Part.rings ||| Part.fl ||| Part.st ||| Part.can) d (Dev.canAbort d c b) := by
  unfold Dev.canAbort
  with_reducible repeat' (first | assumption | exact .refl _ | (extract_lets +onlyGivenNames x; clear_value x) | (apply Reach.via (Dev.canStop_reach ..); decide) | (apply Reach.via (Dev.setCan_reach ..); decide) | simp -zeta -iota only [↓Reach.mk_eq] | split | dsimp only | (apply ReachMk.intro <;> first | exact .inr (by decide) | rfl | exact .inl rfl | skip))

theorem Dev.txWrite_reach (d : Dev) (c b k v : Nat) : Reach (Part.regs ||| Part.st) d (Dev.txWrite d c b k v) := by
  unfold Dev.txWrite
  with_reducible repeat' (first | assumption | exact .refl _ | (extract_lets +onlyGivenNames x; first | (refine Reach.have (x := x) ?_ (fun hx hxs => ?_); unfold x; clear x; rotate_left; clear_value x) | clear_value x) | (apply Reach.wr'; decide) | (apply Reach.ite <;> intro) | split | dsimp only)

theorem Dev.canStart_reach (d : Dev) (c : Nat) : Reach (Part.regs ||| Part.can) d (Dev.canStart d c) := by
  unfold Dev.canStart
  with_reducible repeat' (first | assumption | exact .refl _ | (extract_lets +onlyGivenNames x; first | (refine Reach.have (x := x) ?_ (fun hx hxs => ?_); unfold x; clear x; rotate_left; clear_value x) | clear_value x) | (apply Reach.via (Dev.setCan_reach ..); decide) | (apply Reach.via (Dev.wrAll_reach ..); decide) | (apply Reach.ite <;> intro) | simp -zeta -iota only [↓Reach.mk_eq] | split | (apply ReachMk.intro <;> first | exact .inr (by decide) | rfl | exact .inl rfl | skip))

theorem Dev.canSent_reach (d : Dev) (c : Nat) : Reach (Part.regs ||| Part.hmem ||| Part.free ||| Part.jr ||| Part.rings ||| Part.fl ||| Part.st ||| Part.cap ||| Part.can) d (Dev.canSent d c) := by
  unfold Dev.canSent
  with_reducible repeat' (first | assumption | exact .refl _ | (extract_lets +onlyGivenNames x; first | (refine Reach.have (x := x) ?_ (fun hx hxs => ?_); unfold x; clear x; rotate_left; clear_value x) | clear_value x) | (apply Reach.wr'; decide) | (apply Reach.via (Dev.canFedDone_reach ..); decide) | (apply Reach.via (Dev.canGood_reach ..); decide) | (apply Reach.via (Dev.canReceive_reach ..); decide) | (apply Reach.via (Dev.canSettle_reach ..); decide) | (apply Reach.via (Dev.canTxEvent_reach ..); decide) | (apply Reach.via (Dev.setCan_reach ..); decide) | (apply Reach.ite <;> intro) | simp -zeta -iota only [↓Reach.mk_eq] | split | (apply ReachMk.intro <;> first | exact .inr (by decide) | rfl | exact .inl rfl | skip))

theorem Dev.canLost_reach (d : Dev) (c : Nat) : Reach (Part.regs ||| Part.hmem ||| Part.jr ||| Part.rings ||| Part.fl ||| Part.st ||| Part.can) d (Dev.canLost d c) := by
  unfold Dev.canLost
  with_reducible repeat' (first | assumption | exact .refl _ | (extract_lets +onlyGivenNames x; first | (refine Reach.have (x := x) ?_ (fun hx hxs => ?_); unfold x; clear x; rotate_left; clear_value x) | clear_value x) | (apply Reach.via (Dev.bump_reach ..); decide) | (apply Reach.via (Dev.canStop_reach ..); decide) | (apply Reach.via (Dev.setCan_reach ..); decide) | (apply Reach.via (Dev.wrAll_reach ..); decide) | (apply Reach.ite <;> intro) | simp -zeta -iota only [↓Reach.mk_eq] | split | dsimp only | (apply ReachMk.intro <;> first | exact .inr (by decide) | rfl | exact .inl rfl | skip))

theorem Dev.canError_reach (d : Dev) (c lec step : Nat) : Reach (Part.regs ||| Part.hmem ||| Part.jr ||| Part.rings ||| Part.fl ||| Part.st ||| Part.can) d (Dev.canError d c lec step) := by
  unfold Dev.canError
  with_reducible repeat' (first | assumption | exact .refl _ | (extract_lets +onlyGivenNames x; first | (refine Reach.have (x := x) ?_ (fun hx hxs => ?_); unfold x; clear x; rotate_left; clear_value x) | clear_value x) | (apply Reach.wr'; decide) | (apply Reach.via (Dev.bump_reach ..); decide) | (apply Reach.via (Dev.canFedDone_reach ..); decide) | (apply Reach.via (Dev.canSettle_reach ..); decide) | (apply Reach.via (Dev.canShow_reach ..); decide) | (apply Reach.via (Dev.canStop_reach ..); decide) | (apply Reach.via (Dev.setCan_reach ..); decide) | (apply Reach.via (Dev.wrAll_reach ..); decide) | (apply Reach.ite <;> intro) | simp -zeta -iota only [↓Reach.mk_eq] | split | dsimp only | (apply ReachMk.intro <;> first | exact .inr (by decide) | rfl | exact .inl rfl | skip))

theorem Dev.canRecover_reach (d : Dev) (c : Nat) : Reach (Part.can) d (Dev.canRecover d c) := by
  unfold Dev.canRecover
  with_reducible repeat' (first | assumption | exact .refl _ | (extract_lets +onlyGivenNames x; clear_value x) | (apply Reach.via (Dev.setCan_reach ..); decide) | (apply Reach.ite <;> intro) | simp -zeta -iota only [↓Reach.mk_eq] | split | (apply ReachMk.intro <;> first | exact .inr (by decide) | rfl | exact .inl rfl | skip))

theorem Dev.canRecovered_reach (d : Dev) (c : Nat) : Reach (Part.regs ||| Part.hmem ||| Part.jr ||| Part.rings ||| Part.fl ||| Part.st ||| Part.can) d (Dev.canRecovered d c) := by
  unfold Dev.canRecovered
  with_reducible repeat' (first | assumption | exact .refl _ | (extract_lets +onlyGivenNames x; clear_value x) | (apply Reach.via (Dev.canFeed_reach ..); decide) | (apply Reach.via (Dev.canShow_reach ..); decide) | (apply Reach.via (Dev.setCan_reach ..); decide) | (apply Reach.ite <;> intro) | simp -zeta -iota only [↓Reach.mk_eq] | split | (apply ReachMk.intro <;> first | exact .inr (by decide) | rfl | exact .inl rfl | skip))

theorem Dev.canEnable_reach (d : Dev) (c : Nat) (en : Bool) : Reach (Part.regs ||| Part.hmem ||| Part.jr ||| Part.rings ||| Part.fl ||| Part.st ||| Part.can) d (Dev.canEnable d c en) := by
  unfold Dev.canEnable
  with_reducible repeat' (first | assumption | exact .refl _ | (extract_lets +onlyGivenNames x; first | (refine Reach.have (x := x) ?_ (fun hx hxs => ?_); unfold x; clear x; rotate_left; clear_value x) | clear_value x) | (apply Reach.wr'; decide) | (apply Reach.via (Dev.canFeed_reach ..); decide) | (apply Reach.via (Dev.canSettle_reach ..); decide) | (apply Reach.via (Dev.canStop_reach ..); decide) | (apply Reach.via (Dev.canTiming_reach ..); decide) | (apply Reach.via (Dev.setCan_reach ..); decide) | (apply Reach.via (Dev.wrB_reach ..); decide) | (apply Dev.forAll_reach <;> intros) | (apply Reach.ite <;> intro) | simp -zeta -iota only [↓Reach.mk_eq] | split | dsimp only | (apply ReachMk.intro <;> first | exact .inr (by decide) | rfl | exact .inl rfl | skip))

theorem Dev.canCtlWrite_reach (d : Dev) (c v : Nat) : Reach (Part.regs ||| Part.hmem ||| Part.jr ||| Part.rings ||| Part.fl ||| Part.st ||| Part.can) d (Dev.canCtlWrite d c v) := by
  unfold Dev.canCtlWrite
  with_reducible repeat' (first | assumption | exact .refl _ | (extract_lets +onlyGivenNames x; first | (refine Reach.have (x := x) ?_ (fun hx hxs => ?_); unfold x; clear x; rotate_left; clear_value x) | clear_value x) | (apply Reach.via (Dev.canEnable_reach ..); decide) | (apply Reach.via (Dev.canRecover_reach ..); decide) | (apply Reach.via (Dev.setCan_reach ..); decide) | (apply Reach.via (Dev.wrAll_reach ..); decide) | (apply Reach.ite <;> intro) | simp -zeta -iota only [↓Reach.mk_eq] | split | (apply ReachMk.intro <;> first | exact .inr (by decide) | rfl | exact .inl rfl | skip))

theorem Dev.txCmdWrite_reach (d : Dev) (c b v : Nat) : Reach (Part.regs ||| Part.hmem ||| Part.jr ||| Part.rings ||| Part.fl ||| Part.st ||| Part.can) d (Dev.txCmdWrite d c b v) := by
  unfold Dev.txCmdWrite
  with_reducible repeat' (first | assumption | exact .refl _ | (apply Reach.via (Dev.canAbort_reach ..); decide) | (apply Reach.via (Dev.canReq_reach ..); decide) | (apply Reach.ite <;> intro) | split)

end Sys2Proof.Machine
end

