-- ==== Sys2Proof/Laws/ReachHostPlat.lean ====
section
/-! SUPPORT. What the functions of Machine/HostPlat.lean can do to the block. -/

set_option linter.tactic.unusedName false
set_option linter.unusedTactic false
set_option linter.unusedSimpArgs false
set_option linter.unreachableTactic false
set_option maxHeartbeats 800000

namespace Sys2Proof.Machine

theorem Dev.hostEcc_reach (d : Dev) (sram : Bool) (addr : Nat) (uncorr : Bool) : Reach (Part.regs ||| Part.hmem ||| Part.inj ||| Part.jr ||| Part.rings ||| Part.fl) d (Dev.hostEcc d sram addr uncorr) := by
  unfold Dev.hostEcc
  with_reducible repeat' (first | assumption | exact .refl _ | (extract_lets +onlyGivenNames x; first | (refine Reach.have (x := x) ?_ (fun hx hxs => ?_); unfold x; clear x; rotate_left; clear_value x) | clear_value x) | (apply Reach.wr'; decide) | (apply Reach.via (Dev.bump_reach ..); decide) | (apply Reach.via (Dev.injUse_reach ..); decide) | (apply Reach.via (Dev.raiseH_reach ..); decide) | (apply Reach.ite <;> intro) | simp -zeta -iota only [↓Reach.mk_eq] | split | (apply ReachMk.intro <;> first | exact .inr (by decide) | rfl | exact .inl rfl | skip))

theorem Dev.setSlot_reach (d : Dev) (i : Nat) (x : ImgSlot) : Reach (Part.hp) d (Dev.setSlot d i x) := by
  unfold Dev.setSlot
  with_reducible repeat' (first | assumption | exact .refl _ | (extract_lets +onlyGivenNames x; first | (have hf : HostPlat := x; clear hf; refine Reach.keep_hp (x := x) ?_ (fun hx => ?_); (· intro hs; unfold x; clear x; (repeat' (first | ((try simp only [HostPlat.Shaped] at *); simp +zetaDelta (maxDischargeDepth := 9) only [HostPlat.Shaped, Dev.Shaped.hp_slots, Dev.Shaped.hp_rx, Dev.Shaped.wr, Dev.Shaped.resetDomains, setAt_length, addAt_length, List.length_map, List.length_replicate, List.length_cons, List.length_nil, List.length_zipWith, List.length_range, List.length_append, List.length_drop, List.length_take, Nat.reduceSub, Nat.reduceLeDiff, Nat.min_eq_left, *, and_self, Nat.reduceAdd, Nat.zero_add]; done) | split))); clear_value x) | clear_value x) | simp -zeta -iota only [↓Reach.mk_eq] | (apply ReachMk.intro <;> first | exact .inr (by decide) | rfl | exact .inl rfl | (refine .inr ⟨by decide, fun hs he => ?_⟩; (repeat' (first | ((try simp only [HostPlat.Shaped] at *); simp +zetaDelta (maxDischargeDepth := 9) only [HostPlat.Shaped, Dev.Shaped.hp_slots, Dev.Shaped.hp_rx, Dev.Shaped.wr, Dev.Shaped.resetDomains, setAt_length, addAt_length, List.length_map, List.length_replicate, List.length_cons, List.length_nil, List.length_zipWith, List.length_range, List.length_append, List.length_drop, List.length_take, Nat.reduceSub, Nat.reduceLeDiff, Nat.min_eq_left, *, and_self, Nat.reduceAdd, Nat.zero_add]; done) | split)); done) | skip))

theorem Dev.imgShow_reach (d : Dev) (fallback : Bool) : Reach (Part.regs ||| Part.pw ||| Part.fl ||| Part.pwm ||| Part.out ||| Part.cap) d (Dev.imgShow d fallback) := by
  unfold Dev.imgShow
  with_reducible repeat' (first | assumption | exact .refl _ | (extract_lets +onlyGivenNames x; first | (refine Reach.have (x := x) ?_ (fun hx hxs => ?_); unfold x; clear x; rotate_left; clear_value x) | clear_value x) | (apply Reach.via (Dev.fallback_reach ..); decide) | (apply Reach.via (Dev.wrAll_reach ..); decide) | dsimp only)

theorem Dev.hostBootSlot_reach (d : Dev) : Reach (Part.regs ||| Part.hmem ||| Part.jr ||| Part.rings ||| Part.pw ||| Part.fl ||| Part.st ||| Part.pwm ||| Part.out ||| Part.cap ||| Part.hp) d (Dev.hostBootSlot d) := by
  unfold Dev.hostBootSlot
  with_reducible repeat' (first | assumption | exact .refl _ | (extract_lets +onlyGivenNames x; first | (refine Reach.have (x := x) ?_ (fun hx hxs => ?_); unfold x; clear x; rotate_left; clear_value x) | (have hf : HostPlat := x; clear hf; refine Reach.keep_hp (x := x) ?_ (fun hx => ?_); (· intro hs; unfold x; clear x; (repeat' (first | ((try simp only [HostPlat.Shaped] at *); simp +zetaDelta (maxDischargeDepth := 9) only [HostPlat.Shaped, Dev.Shaped.hp_slots, Dev.Shaped.hp_rx, Dev.Shaped.wr, Dev.Shaped.resetDomains, setAt_length, addAt_length, List.length_map, List.length_replicate, List.length_cons, List.length_nil, List.length_zipWith, List.length_range, List.length_append, List.length_drop, List.length_take, Nat.reduceSub, Nat.reduceLeDiff, Nat.min_eq_left, *, and_self, Nat.reduceAdd, Nat.zero_add]; done) | split))); clear_value x) | clear_value x) | (apply Reach.via (Dev.imgShow_reach ..); decide) | (apply Reach.via (Dev.raiseH_reach ..); decide) | (apply Reach.via (Dev.setSlot_reach ..); decide) | (apply Dev.forAll_reach <;> intros) | (apply Reach.ite <;> intro) | simp -zeta -iota only [↓Reach.mk_eq] | split | dsimp only | (apply ReachMk.intro <;> first | exact .inr (by decide) | rfl | exact .inl rfl | (refine .inr ⟨by decide, fun hs he => ?_⟩; (repeat' (first | ((try simp only [HostPlat.Shaped] at *); simp +zetaDelta (maxDischargeDepth := 9) only [HostPlat.Shaped, Dev.Shaped.hp_slots, Dev.Shaped.hp_rx, Dev.Shaped.wr, Dev.Shaped.resetDomains, setAt_length, addAt_length, List.length_map, List.length_replicate, List.length_cons, List.length_nil, List.length_zipWith, List.length_range, List.length_append, List.length_drop, List.length_take, Nat.reduceSub, Nat.reduceLeDiff, Nat.min_eq_left, *, and_self, Nat.reduceAdd, Nat.zero_add]; done) | split)); done) | skip))

theorem Dev.imgOk_reach (d : Dev) (v : Nat) : Reach (Part.regs ||| Part.hmem ||| Part.jr ||| Part.rings ||| Part.pw ||| Part.fl ||| Part.st ||| Part.pwm ||| Part.out ||| Part.cap ||| Part.hp) d (Dev.imgOk d v) := by
  unfold Dev.imgOk
  with_reducible repeat' (first | assumption | exact .refl _ | (extract_lets +onlyGivenNames x; first | (refine Reach.have (x := x) ?_ (fun hx hxs => ?_); unfold x; clear x; rotate_left; clear_value x) | clear_value x) | (apply Reach.via (Dev.imgShow_reach ..); decide) | (apply Reach.via (Dev.raiseH_reach ..); decide) | (apply Reach.via (Dev.setSlot_reach ..); decide) | (apply Reach.ite <;> intro) | simp -zeta -iota only [↓Reach.mk_eq] | split | dsimp only | (apply ReachMk.intro <;> first | exact .inr (by decide) | rfl | exact .inl rfl | skip))

theorem Dev.ringSent_reach (d : Dev) (r err info : Nat) : Reach (Part.regs ||| Part.hmem ||| Part.jr ||| Part.rings) d (Dev.ringSent d r err info) := by
  unfold Dev.ringSent
  with_reducible repeat' (first | assumption | exact .refl _ | (extract_lets +onlyGivenNames x; first | (refine Reach.have (x := x) ?_ (fun hx hxs => ?_); unfold x; clear x; rotate_left; clear_value x) | clear_value x) | (apply Reach.via (Dev.ringComplete_reach ..); decide) | (apply Reach.ite <;> intro) | simp -zeta -iota only [↓Reach.mk_eq] | split | dsimp only | (apply ReachMk.intro <;> first | exact .inr (by decide) | rfl | exact .inl rfl | skip))

theorem Dev.ringTakeFrame_reach (d : Dev) (r info : Nat) : Reach (Part.regs ||| Part.hmem ||| Part.jr ||| Part.rings) d (Dev.ringTakeFrame d r info).2 := by
  unfold Dev.ringTakeFrame
  with_reducible repeat' (first | assumption | exact .refl _ | (extract_lets +onlyGivenNames x; first | (refine Reach.have (x := x) ?_ (fun hx hxs => ?_); unfold x; clear x; rotate_left; clear_value x) | clear_value x) | (apply Reach.via (Dev.ringReach_reach ..); decide) | (apply Reach.via (Dev.ringSent_reach ..); decide) | (apply Dev.forAll_reach <;> intros) | (apply Reach.ite <;> intro) | simp -zeta -iota only [↓Reach.mk_eq] | split | dsimp only | (apply ReachMk.intro <;> first | exact .inr (by decide) | rfl | exact .inl rfl | skip))

theorem Dev.ringTakeFrame_reach' {d : Dev} {r info : Nat} {rr0 : Option (List Byte)} {re : Dev} (he : Dev.ringTakeFrame d r info = (rr0, re)) : Reach (Part.regs ||| Part.hmem ||| Part.jr ||| Part.rings) d re := by
  have hreach := Dev.ringTakeFrame_reach d r info
  rw [he] at hreach
  exact hreach

theorem Dev.ringTakeFrame_via' {mm : Nat} {aa : Dev} {d : Dev} {r info : Nat} {rr0 : Option (List Byte)} {re : Dev} (hs : Part.sub (Part.regs ||| Part.hmem ||| Part.jr ||| Part.rings) mm = true) (he : Dev.ringTakeFrame d r info = (rr0, re)) (hr : Reach mm aa d) : Reach mm aa re := hr.step (Dev.ringTakeFrame_reach' he) hs

theorem Dev.hostSent_reach (d : Dev) (port : Nat) (f : List Byte) : Reach (Part.hp) d (Dev.hostSent d port f) := by
  unfold Dev.hostSent
  with_reducible repeat' (first | assumption | exact .refl _ | (extract_lets +onlyGivenNames x; first | (have hf : HostPlat := x; clear hf; refine Reach.keep_hp (x := x) ?_ (fun hx => ?_); (· intro hs; unfold x; clear x; (repeat' (first | ((try simp only [HostPlat.Shaped] at *); simp +zetaDelta (maxDischargeDepth := 9) only [HostPlat.Shaped, Dev.Shaped.hp_slots, Dev.Shaped.hp_rx, Dev.Shaped.wr, Dev.Shaped.resetDomains, setAt_length, addAt_length, List.length_map, List.length_replicate, List.length_cons, List.length_nil, List.length_zipWith, List.length_range, List.length_append, List.length_drop, List.length_take, Nat.reduceSub, Nat.reduceLeDiff, Nat.min_eq_left, *, and_self, Nat.reduceAdd, Nat.zero_add]; done) | split))); clear_value x) | clear_value x) | simp -zeta -iota only [↓Reach.mk_eq] | (apply ReachMk.intro <;> first | exact .inr (by decide) | rfl | exact .inl rfl | (refine .inr ⟨by decide, fun hs he => ?_⟩; (repeat' (first | ((try simp only [HostPlat.Shaped] at *); simp +zetaDelta (maxDischargeDepth := 9) only [HostPlat.Shaped, Dev.Shaped.hp_slots, Dev.Shaped.hp_rx, Dev.Shaped.wr, Dev.Shaped.resetDomains, setAt_length, addAt_length, List.length_map, List.length_replicate, List.length_cons, List.length_nil, List.length_zipWith, List.length_range, List.length_append, List.length_drop, List.length_take, Nat.reduceSub, Nat.reduceLeDiff, Nat.min_eq_left, *, and_self, Nat.reduceAdd, Nat.zero_add]; done) | split)); done) | skip))

theorem Dev.t1sSendGo_reach  (x0 : Nat) (d : Dev) (x2 : Nat) : Reach (Part.regs ||| Part.hmem ||| Part.jr ||| Part.rings ||| Part.hp) d (Dev.t1sSendGo  x0 d x2) := by
  induction x0 generalizing d x2 with
  | zero => unfold Dev.t1sSendGo; with_reducible repeat' (first | assumption | exact .refl _ | exact .trans (by assumption) (ih ..) | refine .trans ?_ (ih ..) | (extract_lets +onlyGivenNames x; clear_value x) | (apply Reach.via (Dev.hostSent_reach ..); decide) | (apply Reach.via (Dev.ringTakeFrame_reach ..); decide) | (apply Dev.ringTakeFrame_via'; decide; assumption) | simp -zeta -iota only [↓Reach.mk_eq] | split | dsimp only | (apply ReachMk.intro <;> first | exact .inr (by decide) | rfl | exact .inl rfl | skip))
  | succ n ih => unfold Dev.t1sSendGo; with_reducible repeat' (first | assumption | exact .refl _ | exact .trans (by assumption) (ih ..) | refine .trans ?_ (ih ..) | (extract_lets +onlyGivenNames x; clear_value x) | (apply Reach.via (Dev.hostSent_reach ..); decide) | (apply Reach.via (Dev.ringTakeFrame_reach ..); decide) | (apply Dev.ringTakeFrame_via'; decide; assumption) | simp -zeta -iota only [↓Reach.mk_eq] | split | dsimp only | (apply ReachMk.intro <;> first | exact .inr (by decide) | rfl | exact .inl rfl | skip))

theorem Dev.t1sSend_reach (d : Dev) (n : Nat) : Reach (Part.regs ||| Part.hmem ||| Part.jr ||| Part.rings ||| Part.hp) d (Dev.t1sSend d n) := by
  unfold Dev.t1sSend
  with_reducible repeat' (first | assumption | exact .refl _ | (apply Reach.via (Dev.t1sSendGo_reach ..); decide) | (apply Reach.ite <;> intro) | split | dsimp only)

theorem Dev.bulkCells_reach (d : Dev) (x0 : Nat) (x1 : List Byte) : Reach (Part.fl) d (Dev.bulkCells d x0 x1).1 := by
  induction x0 generalizing d x1 with
  | zero => unfold Dev.bulkCells; with_reducible repeat' (first | assumption | exact .refl _ | exact .trans (by assumption) (ih ..) | refine .trans ?_ (ih ..) | (extract_lets +onlyGivenNames x; first | (refine Reach.have (x := x) ?_ (fun hx hxs => ?_); unfold x; clear x; rotate_left; clear_value x) | clear_value x) | (apply Reach.via (Dev.sendH_reach ..); decide) | (apply Reach.ite <;> intro) | simp -zeta -iota only [↓Reach.mk_eq] | split | dsimp only | (apply ReachMk.intro <;> first | exact .inr (by decide) | rfl | exact .inl rfl | skip))
  | succ n ih => unfold Dev.bulkCells; with_reducible repeat' (first | assumption | exact .refl _ | exact .trans (by assumption) (ih ..) | refine .trans ?_ (ih ..) | (extract_lets +onlyGivenNames x; first | (refine Reach.have (x := x) ?_ (fun hx hxs => ?_); unfold x; clear x; rotate_left; clear_value x) | clear_value x) | (apply Reach.via (Dev.sendH_reach ..); decide) | (apply Reach.ite <;> intro) | simp -zeta -iota only [↓Reach.mk_eq] | split | dsimp only | (apply ReachMk.intro <;> first | exact .inr (by decide) | rfl | exact .inl rfl | skip))

theorem Dev.bulkCells_reach' {d : Dev} {x0 : Nat} {x1 : List Byte} {re : Dev} {rr1 : Bool} (he : Dev.bulkCells d x0 x1 = (re, rr1)) : Reach (Part.fl) d re := by
  have hreach := Dev.bulkCells_reach d x0 x1
  rw [he] at hreach
  exact hreach

theorem Dev.bulkCells_via' {mm : Nat} {aa : Dev} {d : Dev} {x0 : Nat} {x1 : List Byte} {re : Dev} {rr1 : Bool} (hs : Part.sub (Part.fl) mm = true) (he : Dev.bulkCells d x0 x1 = (re, rr1)) (hr : Reach mm aa d) : Reach mm aa re := hr.step (Dev.bulkCells_reach' he) hs

theorem Dev.bulkSendGo_reach  (x0 : Nat) (d : Dev) : Reach (Part.regs ||| Part.hmem ||| Part.jr ||| Part.rings ||| Part.fl) d (Dev.bulkSendGo  x0 d) := by
  induction x0 generalizing d with
  | zero => unfold Dev.bulkSendGo; with_reducible repeat' (first | assumption | exact .refl _ | exact .trans (by assumption) (ih ..) | refine .trans ?_ (ih ..) | (extract_lets +onlyGivenNames x; first | (refine Reach.have (x := x) ?_ (fun hx hxs => ?_); unfold x; clear x; rotate_left; clear_value x) | (refine Reach.have (x := x.1) ?_ (fun hx hxs => ?_); unfold x; clear x; rotate_left; clear_value x) | (refine Reach.have (x := x.2) ?_ (fun hx hxs => ?_); unfold x; clear x; rotate_left; clear_value x) | clear_value x) | (apply Reach.via (Dev.bulkCells_reach ..); decide) | (apply Dev.bulkCells_via'; decide; assumption) | (apply Reach.via (Dev.ringReach_reach ..); decide) | (apply Reach.via (Dev.ringSent_reach ..); decide) | (apply Reach.ite <;> intro) | simp -zeta -iota only [↓Reach.mk_eq] | split | dsimp only | (apply ReachMk.intro <;> first | exact .inr (by decide) | rfl | exact .inl rfl | skip))
  | succ n ih => unfold Dev.bulkSendGo; with_reducible repeat' (first | assumption | exact .refl _ | exact .trans (by assumption) (ih ..) | refine .trans ?_ (ih ..) | (extract_lets +onlyGivenNames x; first | (refine Reach.have (x := x) ?_ (fun hx hxs => ?_); unfold x; clear x; rotate_left; clear_value x) | (refine Reach.have (x := x.1) ?_ (fun hx hxs => ?_); unfold x; clear x; rotate_left; clear_value x) | (refine Reach.have (x := x.2) ?_ (fun hx hxs => ?_); unfold x; clear x; rotate_left; clear_value x) | clear_value x) | (apply Reach.via (Dev.bulkCells_reach ..); decide) | (apply Dev.bulkCells_via'; decide; assumption) | (apply Reach.via (Dev.ringReach_reach ..); decide) | (apply Reach.via (Dev.ringSent_reach ..); decide) | (apply Reach.ite <;> intro) | simp -zeta -iota only [↓Reach.mk_eq] | split | dsimp only | (apply ReachMk.intro <;> first | exact .inr (by decide) | rfl | exact .inl rfl | skip))

theorem Dev.flush20_reach  (x0 : Nat) (d : Dev) : Reach (Part.regs ||| Part.hmem ||| Part.jr ||| Part.rings ||| Part.cap) d (Dev.flush20  x0 d) := by
  induction x0 generalizing d with
  | zero => unfold Dev.flush20; with_reducible repeat' (first | assumption | exact .refl _ | exact .trans (by assumption) (ih ..) | refine .trans ?_ (ih ..) | (extract_lets +onlyGivenNames x; clear_value x) | (apply Reach.via (Dev.ringCell_reach ..); decide) | (apply Dev.ringCell_via'; decide; assumption) | (apply Reach.ite <;> intro) | simp -zeta -iota only [↓Reach.mk_eq] | split | dsimp only | (apply ReachMk.intro <;> first | exact .inr (by decide) | rfl | exact .inl rfl | skip))
  | succ n ih => unfold Dev.flush20; with_reducible repeat' (first | assumption | exact .refl _ | exact .trans (by assumption) (ih ..) | refine .trans ?_ (ih ..) | (extract_lets +onlyGivenNames x; clear_value x) | (apply Reach.via (Dev.ringCell_reach ..); decide) | (apply Dev.ringCell_via'; decide; assumption) | (apply Reach.ite <;> intro) | simp -zeta -iota only [↓Reach.mk_eq] | split | dsimp only | (apply ReachMk.intro <;> first | exact .inr (by decide) | rfl | exact .inl rfl | skip))

theorem Dev.flush21_reach  (x0 : Nat) (d : Dev) : Reach (Part.regs ||| Part.hmem ||| Part.jr ||| Part.rings ||| Part.fl ||| Part.cap) d (Dev.flush21  x0 d) := by
  induction x0 generalizing d with
  | zero => unfold Dev.flush21; with_reducible repeat' (first | assumption | exact .refl _ | exact .trans (by assumption) (ih ..) | refine .trans ?_ (ih ..) | (extract_lets +onlyGivenNames x; first | (refine Reach.have (x := x) ?_ (fun hx hxs => ?_); unfold x; clear x; rotate_left; clear_value x) | (refine Reach.have (x := x.1) ?_ (fun hx hxs => ?_); unfold x; clear x; rotate_left; clear_value x) | (refine Reach.have (x := x.2) ?_ (fun hx hxs => ?_); unfold x; clear x; rotate_left; clear_value x) | clear_value x) | (apply Reach.via (Dev.ringCell_reach ..); decide) | (apply Dev.ringCell_via'; decide; assumption) | (apply Reach.via (Dev.setRecvDir_reach ..); decide) | (apply Reach.ite <;> intro) | simp -zeta -iota only [↓Reach.mk_eq] | split | dsimp only | (apply ReachMk.intro <;> first | exact .inr (by decide) | rfl | exact .inl rfl | skip))
  | succ n ih => unfold Dev.flush21; with_reducible repeat' (first | assumption | exact .refl _ | exact .trans (by assumption) (ih ..) | refine .trans ?_ (ih ..) | (extract_lets +onlyGivenNames x; first | (refine Reach.have (x := x) ?_ (fun hx hxs => ?_); unfold x; clear x; rotate_left; clear_value x) | (refine Reach.have (x := x.1) ?_ (fun hx hxs => ?_); unfold x; clear x; rotate_left; clear_value x) | (refine Reach.have (x := x.2) ?_ (fun hx hxs => ?_); unfold x; clear x; rotate_left; clear_value x) | clear_value x) | (apply Reach.via (Dev.ringCell_reach ..); decide) | (apply Dev.ringCell_via'; decide; assumption) | (apply Reach.via (Dev.setRecvDir_reach ..); decide) | (apply Reach.ite <;> intro) | simp -zeta -iota only [↓Reach.mk_eq] | split | dsimp only | (apply ReachMk.intro <;> first | exact .inr (by decide) | rfl | exact .inl rfl | skip))

theorem Dev.flushBulk_reach  (x0 : Nat) (d : Dev) (x2 : Nat) : Reach (Part.regs ||| Part.hmem ||| Part.jr ||| Part.rings ||| Part.fl ||| Part.cap) d (Dev.flushBulk  x0 d x2) := by
  induction x0 generalizing d x2 with
  | zero => unfold Dev.flushBulk; with_reducible repeat' (first | assumption | exact .refl _ | exact .trans (by assumption) (ih ..) | refine .trans ?_ (ih ..) | (extract_lets +onlyGivenNames x; clear_value x) | (apply Reach.via (Dev.ringData_reach ..); decide) | (apply Dev.ringData_via'; decide; assumption) | (apply Reach.via (Dev.takeCell_reach ..); decide) | (apply Reach.ite <;> intro) | simp -zeta -iota only [↓Reach.mk_eq] | split | dsimp only | (apply ReachMk.intro <;> first | exact .inr (by decide) | rfl | exact .inl rfl | skip))
  | succ n ih => unfold Dev.flushBulk; with_reducible repeat' (first | assumption | exact .refl _ | exact .trans (by assumption) (ih ..) | refine .trans ?_ (ih ..) | (extract_lets +onlyGivenNames x; clear_value x) | (apply Reach.via (Dev.ringData_reach ..); decide) | (apply Dev.ringData_via'; decide; assumption) | (apply Reach.via (Dev.takeCell_reach ..); decide) | (apply Reach.ite <;> intro) | simp -zeta -iota only [↓Reach.mk_eq] | split | dsimp only | (apply ReachMk.intro <;> first | exact .inr (by decide) | rfl | exact .inl rfl | skip))

theorem Dev.ringServe_reach (d : Dev) (r : Nat) : Reach (Part.regs ||| Part.hmem ||| Part.jr ||| Part.rings ||| Part.fl ||| Part.st ||| Part.cap ||| Part.can ||| Part.hp) d (Dev.ringServe d r) := by
  unfold Dev.ringServe
  with_reducible repeat' (first | assumption | exact .refl _ | (apply Reach.wr'; decide) | (apply Reach.via (Dev.bulkSendGo_reach ..); decide) | (apply Reach.via (Dev.canFeed_reach ..); decide) | (apply Reach.via (Dev.canFlush_reach ..); decide) | (apply Reach.via (Dev.flush20_reach ..); decide) | (apply Reach.via (Dev.flush21_reach ..); decide) | (apply Reach.via (Dev.flushBulk_reach ..); decide) | (apply Reach.via (Dev.jrnDrain_reach ..); decide) | (apply Reach.via (Dev.t1sSend_reach ..); decide) | (apply Reach.ite <;> intro) | split | dsimp only)

theorem Dev.ringTail_reach (d : Dev) (r idx : Nat) : Reach (Part.regs ||| Part.hmem ||| Part.jr ||| Part.rings ||| Part.fl ||| Part.st ||| Part.cap ||| Part.can ||| Part.hp) d (Dev.ringTail d r idx) := by
  unfold Dev.ringTail
  with_reducible repeat' (first | assumption | exact .refl _ | (extract_lets +onlyGivenNames x; first | (refine Reach.have (x := x) ?_ (fun hx hxs => ?_); unfold x; clear x; rotate_left; clear_value x) | clear_value x) | (apply Reach.wr'; decide) | (apply Reach.via (Dev.ringServe_reach ..); decide) | simp -zeta -iota only [↓Reach.mk_eq] | (apply ReachMk.intro <;> first | exact .inr (by decide) | rfl | exact .inl rfl | skip))

theorem Dev.ringEnable_reach (d : Dev) (r : Nat) (en : Bool) : Reach (Part.regs ||| Part.hmem ||| Part.jr ||| Part.rings ||| Part.fl ||| Part.st ||| Part.cap ||| Part.can ||| Part.hp) d (Dev.ringEnable d r en) := by
  unfold Dev.ringEnable
  with_reducible repeat' (first | assumption | exact .refl _ | (extract_lets +onlyGivenNames x; first | (refine Reach.have (x := x) ?_ (fun hx hxs => ?_); unfold x; clear x; rotate_left; clear_value x) | clear_value x) | (apply Reach.wr'; decide) | (apply Reach.via (Dev.ringServe_reach ..); decide) | (apply Reach.via (Dev.wrB_reach ..); decide) | (apply Reach.ite <;> intro) | split | dsimp only)

theorem Dev.ringDrained_reach (d : Dev) (r : Nat) : Reach (Part.regs ||| Part.hmem ||| Part.jr ||| Part.rings) d (Dev.ringDrained d r) := by
  unfold Dev.ringDrained
  with_reducible repeat' (first | assumption | exact .refl _ | (extract_lets +onlyGivenNames x; first | (refine Reach.have (x := x) ?_ (fun hx hxs => ?_); unfold x; clear x; rotate_left; clear_value x) | clear_value x) | (apply Reach.wr'; decide) | (apply Reach.via (Dev.ringDataEnd_reach ..); decide) | (apply Reach.ite <;> intro) | split | dsimp only)

theorem Dev.ringCoal_reach (d : Dev) (r : Nat) : Reach (Part.regs ||| Part.hmem ||| Part.jr ||| Part.rings) d (Dev.ringCoal d r) := by
  unfold Dev.ringCoal
  with_reducible repeat' (first | assumption | exact .refl _ | (extract_lets +onlyGivenNames x; first | (refine Reach.have (x := x) ?_ (fun hx hxs => ?_); unfold x; clear x; rotate_left; clear_value x) | clear_value x) | (apply Reach.via (Dev.ringDataEnd_reach ..); decide) | (apply Reach.via (Dev.ringEvent_reach ..); decide) | (apply Reach.ite <;> intro) | simp -zeta -iota only [↓Reach.mk_eq] | split | (apply ReachMk.intro <;> first | exact .inr (by decide) | rfl | exact .inl rfl | skip))

theorem Dev.claimRead_reach (d : Dev) (c : Nat) : Reach (Part.regs ||| Part.lastRead ||| Part.hp) d (Dev.claimRead d c) := by
  unfold Dev.claimRead
  with_reducible repeat' (first | assumption | exact .refl _ | (extract_lets +onlyGivenNames x; first | (refine Reach.have (x := x) ?_ (fun hx hxs => ?_); unfold x; clear x; rotate_left; clear_value x) | (have hf : HostPlat := x; clear hf; refine Reach.keep_hp (x := x) ?_ (fun hx => ?_); (· intro hs; unfold x; clear x; (repeat' (first | ((try simp only [HostPlat.Shaped] at *); simp +zetaDelta (maxDischargeDepth := 9) only [HostPlat.Shaped, Dev.Shaped.hp_slots, Dev.Shaped.hp_rx, Dev.Shaped.wr, Dev.Shaped.resetDomains, setAt_length, addAt_length, List.length_map, List.length_replicate, List.length_cons, List.length_nil, List.length_zipWith, List.length_range, List.length_append, List.length_drop, List.length_take, Nat.reduceSub, Nat.reduceLeDiff, Nat.min_eq_left, *, and_self, Nat.reduceAdd, Nat.zero_add]; done) | split))); clear_value x) | clear_value x) | (apply Reach.wr'; decide) | simp -zeta -iota only [↓Reach.mk_eq] | split | (apply ReachMk.intro <;> first | exact .inr (by decide) | rfl | exact .inl rfl | (refine .inr ⟨by decide, fun hs he => ?_⟩; (repeat' (first | ((try simp only [HostPlat.Shaped] at *); simp +zetaDelta (maxDischargeDepth := 9) only [HostPlat.Shaped, Dev.Shaped.hp_slots, Dev.Shaped.hp_rx, Dev.Shaped.wr, Dev.Shaped.resetDomains, setAt_length, addAt_length, List.length_map, List.length_replicate, List.length_cons, List.length_nil, List.length_zipWith, List.length_range, List.length_append, List.length_drop, List.length_take, Nat.reduceSub, Nat.reduceLeDiff, Nat.min_eq_left, *, and_self, Nat.reduceAdd, Nat.zero_add]; done) | split)); done) | skip))

theorem Dev.claimWrite_reach (d : Dev) (n : Nat) : Reach (Part.hp) d (Dev.claimWrite d n) := by
  unfold Dev.claimWrite
  with_reducible repeat' (first | assumption | exact .refl _ | (extract_lets +onlyGivenNames x; first | (have hf : HostPlat := x; clear hf; refine Reach.keep_hp (x := x) ?_ (fun hx => ?_); (· intro hs; unfold x; clear x; (repeat' (first | ((try simp only [HostPlat.Shaped] at *); simp +zetaDelta (maxDischargeDepth := 9) only [HostPlat.Shaped, Dev.Shaped.hp_slots, Dev.Shaped.hp_rx, Dev.Shaped.wr, Dev.Shaped.resetDomains, setAt_length, addAt_length, List.length_map, List.length_replicate, List.length_cons, List.length_nil, List.length_zipWith, List.length_range, List.length_append, List.length_drop, List.length_take, Nat.reduceSub, Nat.reduceLeDiff, Nat.min_eq_left, *, and_self, Nat.reduceAdd, Nat.zero_add]; done) | split))); clear_value x) | clear_value x) | simp -zeta -iota only [↓Reach.mk_eq] | split | (apply ReachMk.intro <;> first | exact .inr (by decide) | rfl | exact .inl rfl | (refine .inr ⟨by decide, fun hs he => ?_⟩; (repeat' (first | ((try simp only [HostPlat.Shaped] at *); simp +zetaDelta (maxDischargeDepth := 9) only [HostPlat.Shaped, Dev.Shaped.hp_slots, Dev.Shaped.hp_rx, Dev.Shaped.wr, Dev.Shaped.resetDomains, setAt_length, addAt_length, List.length_map, List.length_replicate, List.length_cons, List.length_nil, List.length_zipWith, List.length_range, List.length_append, List.length_drop, List.length_take, Nat.reduceSub, Nat.reduceLeDiff, Nat.min_eq_left, *, and_self, Nat.reduceAdd, Nat.zero_add]; done) | split)); done) | skip))

theorem Dev.hostLink_reach (d : Dev) (p : Nat) (up supported : Bool) : Reach (Part.regs ||| Part.hmem ||| Part.jr ||| Part.rings) d (Dev.hostLink d p up supported) := by
  unfold Dev.hostLink
  with_reducible repeat' (first | assumption | exact .refl _ | (extract_lets +onlyGivenNames x; first | (refine Reach.have (x := x) ?_ (fun hx hxs => ?_); unfold x; clear x; rotate_left; clear_value x) | clear_value x) | (apply Reach.via (Dev.raiseH_reach ..); decide) | (apply Reach.via (Dev.wrB_reach ..); decide) | (apply Reach.ite <;> intro) | split)

theorem Dev.hostFrame_reach (d : Dev) (p : Nat) (f : List Byte) (fcsOk : Bool) : Reach (Part.regs ||| Part.hmem ||| Part.jr ||| Part.rings ||| Part.cap) d (Dev.hostFrame d p f fcsOk) := by
  unfold Dev.hostFrame
  with_reducible repeat' (first | assumption | exact .refl _ | (extract_lets +onlyGivenNames x; first | (refine Reach.have (x := x) ?_ (fun hx hxs => ?_); unfold x; clear x; rotate_left; clear_value x) | clear_value x) | (apply Reach.via (Dev.bump_reach ..); decide) | (apply Reach.via (Dev.ringFrame_reach ..); decide) | (apply Reach.ite <;> intro) | split)

theorem Dev.hostTxStart_reach (d : Dev) (p : Nat) : Reach (Part.regs ||| Part.hmem ||| Part.free ||| Part.jr ||| Part.rings ||| Part.hp) d (Dev.hostTxStart d p) := by
  unfold Dev.hostTxStart
  with_reducible repeat' (first | assumption | exact .refl _ | (extract_lets +onlyGivenNames x; first | (refine Reach.have (x := x) ?_ (fun hx hxs => ?_); unfold x; clear x; rotate_left; clear_value x) | (refine Reach.have (x := x.1) ?_ (fun hx hxs => ?_); unfold x; clear x; rotate_left; clear_value x) | (refine Reach.have (x := x.2) ?_ (fun hx hxs => ?_); unfold x; clear x; rotate_left; clear_value x) | clear_value x) | (apply Reach.via (Dev.drawFree_reach ..); decide) | (apply Dev.drawFree_via'; decide; assumption) | (apply Reach.via (Dev.hostSent_reach ..); decide) | (apply Reach.via (Dev.ringTakeFrame_reach ..); decide) | (apply Dev.ringTakeFrame_via'; decide; assumption) | (apply Reach.ite <;> intro) | simp -zeta -iota only [↓Reach.mk_eq] | split | dsimp only | (apply ReachMk.intro <;> first | exact .inr (by decide) | rfl | exact .inl rfl | skip))

theorem Dev.hperTransfer_reach (d : Dev) (i : Nat) (bs : List Byte) (err : Bool) : Reach (Part.regs ||| Part.hmem ||| Part.jr ||| Part.rings ||| Part.cap ||| Part.hp) d (Dev.hperTransfer d i bs err) := by
  unfold Dev.hperTransfer
  with_reducible repeat' (first | assumption | exact .refl _ | (extract_lets +onlyGivenNames x; first | (refine Reach.have (x := x) ?_ (fun hx hxs => ?_); unfold x; clear x; rotate_left; clear_value x) | (refine Reach.have (x := x.1) ?_ (fun hx hxs => ?_); unfold x; clear x; rotate_left; clear_value x) | (refine Reach.have (x := x.2) ?_ (fun hx hxs => ?_); unfold x; clear x; rotate_left; clear_value x) | (have hf : HostPlat := x; clear hf; refine Reach.keep_hp (x := x) ?_ (fun hx => ?_); (· intro hs; unfold x; clear x; (repeat' (first | ((try simp only [HostPlat.Shaped] at *); simp +zetaDelta (maxDischargeDepth := 9) only [Reach.shaped (Dev.ringTakeFrame_reach ..), HostPlat.Shaped, Dev.Shaped.hp_slots, Dev.Shaped.hp_rx, Dev.Shaped.wr, Dev.Shaped.resetDomains, setAt_length, addAt_length, List.length_map, List.length_replicate, List.length_cons, List.length_nil, List.length_zipWith, List.length_range, List.length_append, List.length_drop, List.length_take, Nat.reduceSub, Nat.reduceLeDiff, Nat.min_eq_left, *, and_self, Nat.reduceAdd, Nat.zero_add]; done) | split))); clear_value x) | clear_value x) | (apply Reach.wr'; decide) | (apply Reach.via (Dev.raiseH_reach ..); decide) | (apply Reach.via (Dev.ringFrameGo_reach ..); decide) | (apply Reach.via (Dev.ringReach_reach ..); decide) | (apply Reach.via (Dev.ringTakeFrame_reach ..); decide) | (apply Dev.when_reach <;> intros) | (apply Reach.ite <;> intro) | simp -zeta -iota only [↓Reach.mk_eq] | split | dsimp only | (apply ReachMk.intro <;> first | exact .inr (by decide) | rfl | exact .inl rfl | (refine .inr ⟨by decide, fun hs he => ?_⟩; (repeat' (first | ((try simp only [HostPlat.Shaped] at *); simp +zetaDelta (maxDischargeDepth := 9) only [Reach.shaped (Dev.ringTakeFrame_reach ..), HostPlat.Shaped, Dev.Shaped.hp_slots, Dev.Shaped.hp_rx, Dev.Shaped.wr, Dev.Shaped.resetDomains, setAt_length, addAt_length, List.length_map, List.length_replicate, List.length_cons, List.length_nil, List.length_zipWith, List.length_range, List.length_append, List.length_drop, List.length_take, Nat.reduceSub, Nat.reduceLeDiff, Nat.min_eq_left, *, and_self, Nat.reduceAdd, Nat.zero_add]; done) | split)); done) | skip))

theorem Dev.hperEnable_reach (d : Dev) (i : Nat) (en : Bool) : Reach (Part.regs ||| Part.st) d (Dev.hperEnable d i en) := by
  unfold Dev.hperEnable
  with_reducible repeat' (first | assumption | exact .refl _ | (extract_lets +onlyGivenNames x; first | (refine Reach.have (x := x) ?_ (fun hx hxs => ?_); unfold x; clear x; rotate_left; clear_value x) | clear_value x) | (apply Reach.wr'; decide) | (apply Reach.via (Dev.wrB_reach ..); decide) | (apply Reach.ite <;> intro) | split | dsimp only)

theorem Dev.gpioEdge_reach (d : Dev) (pin : Nat) (level : Bool) : Reach (Part.regs ||| Part.hmem ||| Part.jr ||| Part.rings) d (Dev.gpioEdge d pin level) := by
  unfold Dev.gpioEdge
  with_reducible repeat' (first | assumption | exact .refl _ | (extract_lets +onlyGivenNames x; first | (refine Reach.have (x := x) ?_ (fun hx hxs => ?_); unfold x; clear x; rotate_left; clear_value x) | clear_value x) | (apply Reach.wr'; decide) | (apply Reach.via (Dev.raiseH_reach ..); decide) | (apply Reach.ite <;> intro) | split)

end Sys2Proof.Machine
end

