-- ==== Sys2Proof/Laws/ReachSecurity.lean ====
section
/-! SUPPORT. What the functions of Machine/Security.lean can do to the block. -/

set_option linter.tactic.unusedName false
set_option linter.unusedTactic false
set_option linter.unusedSimpArgs false
set_option linter.unreachableTactic false
set_option maxHeartbeats 800000

namespace Sys2Proof.Machine

theorem Dev.newChal_reach (d : Dev) (side : Side) : Reach (Part.regs ||| Part.free) d (Dev.newChal d side) := by
  unfold Dev.newChal
  with_reducible repeat' (first | assumption | exact .refl _ | (extract_lets +onlyGivenNames x; first | (refine Reach.have (x := x) ?_ (fun hx hxs => ?_); unfold x; clear x; rotate_left; clear_value x) | (refine Reach.have (x := x.1) ?_ (fun hx hxs => ?_); unfold x; clear x; rotate_left; clear_value x) | (refine Reach.have (x := x.2) ?_ (fun hx hxs => ?_); unfold x; clear x; rotate_left; clear_value x) | clear_value x) | (apply Reach.wr'; decide) | (apply Reach.via (Dev.drawFree_reach ..); decide) | (apply Dev.drawFree_via'; decide; assumption) | (apply Dev.forAll_reach <;> intros) | simp -zeta -iota only [↓Reach.mk_eq] | split | dsimp only | (apply ReachMk.intro <;> first | exact .inr (by decide) | rfl | exact .inl rfl | skip))

theorem Dev.freeBytes_reach (d : Dev) (n : Nat) : Reach (Part.free) d (Dev.freeBytes d n).2 := by
  unfold Dev.freeBytes
  with_reducible repeat' (first | assumption | exact .refl _ | (extract_lets +onlyGivenNames x; clear_value x) | simp -zeta -iota only [↓Reach.mk_eq] | split | dsimp only | (apply ReachMk.intro <;> first | exact .inr (by decide) | rfl | exact .inl rfl | skip))

theorem Dev.freeBytes_reach' {d : Dev} {n : Nat} {rr0 : List Byte} {re : Dev} (he : Dev.freeBytes d n = (rr0, re)) : Reach (Part.free) d re := by
  have hreach := Dev.freeBytes_reach d n
  rw [he] at hreach
  exact hreach

theorem Dev.freeBytes_via' {mm : Nat} {aa : Dev} {d : Dev} {n : Nat} {rr0 : List Byte} {re : Dev} (hs : Part.sub (Part.free) mm = true) (he : Dev.freeBytes d n = (rr0, re)) (hr : Reach mm aa d) : Reach mm aa re := hr.step (Dev.freeBytes_reach' he) hs

theorem testBit_eq (v i : Nat) : testBit v i = Nat.testBit v i := by
  unfold testBit bit
  rw [Nat.testBit_eq_decide_div_mod_eq]

theorem testBit_lor (a b i : Nat) (h : testBit a i = true) : testBit (Nat.lor a b) i = true := by
  rw [testBit_eq] at *
  change (a ||| b).testBit i = true
  rw [Nat.testBit_or, h, Bool.true_or]

theorem testBit_setBit (v k i : Nat) (h : testBit v i = true) : testBit (setBit v k) i = true := testBit_lor v _ i h

theorem isSome_setAt {α : Type} (xs : List (Option α)) (k i : Nat) (v : α) (h : (xs.getD i none).isSome = true) : ((setAt xs k (some v)).getD i none).isSome = true := by
  unfold setAt
  rw [List.getD_eq_getElem?_getD, List.getElem?_set]
  rw [List.getD_eq_getElem?_getD] at h
  split
  · split
    · rfl
    · rename_i hki hlt
      subst hki
      rw [List.getElem?_eq_none (by omega)] at h
      exact h
  · exact h

theorem Dev.blow_reach (d : Dev) (side : Side) (kind target : Nat) (hash : List Byte) (ok : Bool) : Reach (Part.free ||| Part.ffuse ||| Part.hfuse) d (d.blow side kind target hash ok) := by
  have lc : ∀ (e : Dev) (x : Nat) (p : Option (List Byte)), e.fuses side = d.fuses side →
      Fuses.Le (e.fuses side) { d.fuses side with lc := Nat.lor (d.fuses side).lc x, pin := p } := fun e x p he => he ▸
    ⟨rfl, rfl, rfl, rfl, rfl, fun i h => testBit_lor _ _ i h, fun _ h => h, fun _ h => h, id, id, rfl⟩
  have sl : ∀ (e : Dev) (h : List Byte), e.fuses side = d.fuses side →
      Fuses.Le (e.fuses side) { d.fuses side with slots := setAt (d.fuses side).slots target (some h) } := fun e h he => he ▸
    ⟨rfl, rfl, rfl, rfl, rfl, fun _ h => h, fun i hi => isSome_setAt _ _ i _ hi, fun _ h => h, id, id, setAt_length _ _ _⟩
  have rv : ∀ (e : Dev), e.fuses side = d.fuses side →
      Fuses.Le (e.fuses side) { d.fuses side with rev := setBit (d.fuses side).rev target } := fun e he => he ▸
    ⟨rfl, rfl, rfl, rfl, rfl, fun _ h => h, fun _ h => h, fun i h => testBit_setBit _ _ i h, id, id, rfl⟩
  have q1 : ∀ n, (d.drawFree n).2.fuses side = d.fuses side := fun n => by cases side <;> rfl
  have q2 : ∀ n, (d.freeBytes n).2.fuses side = d.fuses side := fun n => by cases side <;> rfl
  unfold Dev.blow
  dsimp only
  split
  · split
    · exact (Reach.refl d).step (Dev.setFuses_reach d side _ (lc d _ _ rfl)) (by decide)
    · exact ((Reach.refl d).step (Dev.drawFree_reach d 65536) (by decide)).step (Dev.setFuses_reach _ side _ (lc _ _ _ (q1 _))) (by decide)
  · split
    · exact (Reach.refl d).step (Dev.setFuses_reach d side _ (sl d _ rfl)) (by decide)
    · exact ((Reach.refl d).step (Dev.freeBytes_reach d 48) (by decide)).step (Dev.setFuses_reach _ side _ (sl _ _ (q2 _))) (by decide)
  · split
    · exact (Reach.refl d).step (Dev.setFuses_reach d side _ (rv d rfl)) (by decide)
    · refine ((Reach.refl d).step (Dev.drawFree_reach d 2) (by decide)).step (Dev.setFuses_reach _ side _ ?_) (by decide)
      split
      · exact rv _ (q1 _)
      · rw [q1]; exact Fuses.Le.rfl' _


theorem Dev.tokStat_reach (d : Dev) (side : Side) (kind code : Nat) : Reach (Part.regs ||| Part.hmem ||| Part.jr ||| Part.rings ||| Part.fl) d (Dev.tokStat d side kind code) := by
  unfold Dev.tokStat
  with_reducible repeat' (first | assumption | exact .refl _ | (extract_lets +onlyGivenNames x; first | (refine Reach.have (x := x) ?_ (fun hx hxs => ?_); unfold x; clear x; rotate_left; clear_value x) | clear_value x) | (apply Reach.via (Dev.raise_reach ..); decide) | (apply Reach.via (Dev.raiseH_reach ..); decide) | (apply Reach.via (Dev.wrAll_reach ..); decide) | (apply Reach.ite <;> intro) | simp -zeta -iota only [↓Reach.mk_eq] | split | (apply ReachMk.intro <;> first | exact .inr (by decide) | rfl | exact .inl rfl | skip))

theorem Dev.slotShow_reach (d : Dev) (side : Side) : Reach (Part.regs) d (Dev.slotShow d side) := by
  unfold Dev.slotShow
  with_reducible repeat' (first | assumption | exact .refl _ | (extract_lets +onlyGivenNames x; first | (refine Reach.have (x := x) ?_ (fun hx hxs => ?_); unfold x; clear x; rotate_left; clear_value x) | clear_value x) | (apply Reach.via (Dev.wrAll_reach ..); decide) | simp -zeta -iota only [↓Reach.mk_eq] | split | (apply ReachMk.intro <;> first | exact .inr (by decide) | rfl | exact .inl rfl | skip))

theorem Dev.token_reach (d : Dev) (side : Side) (kind : Nat) (bs : List Byte) (fuseOk : Bool) : Reach (Part.regs ||| Part.hmem ||| Part.free ||| Part.jr ||| Part.rings ||| Part.fl ||| Part.ffuse ||| Part.hfuse) d (Dev.token d side kind bs fuseOk).1 := by
  unfold Dev.token
  with_reducible repeat' (first | assumption | exact .refl _ | (extract_lets +onlyGivenNames x; first | (refine Reach.have (x := x) ?_ (fun hx hxs => ?_); unfold x; clear x; rotate_left; clear_value x) | clear_value x) | (apply Reach.wr'; decide) | (apply Reach.via (Dev.blow_reach ..); decide) | (apply Reach.via (Dev.newChal_reach ..); decide) | (apply Reach.via (Dev.slotShow_reach ..); decide) | (apply Reach.via (Dev.tokStat_reach ..); decide) | (apply Reach.ite <;> intro) | simp -zeta -iota only [↓Reach.mk_eq] | split | dsimp only | (apply ReachMk.intro <;> first | exact .inr (by decide) | rfl | exact .inl rfl | skip))

theorem Dev.token_reach' {d : Dev} {side : Side} {kind : Nat} {bs : List Byte} {fuseOk : Bool} {re : Dev} {rr1 : Bool} (he : Dev.token d side kind bs fuseOk = (re, rr1)) : Reach (Part.regs ||| Part.hmem ||| Part.free ||| Part.jr ||| Part.rings ||| Part.fl ||| Part.ffuse ||| Part.hfuse) d re := by
  have hreach := Dev.token_reach d side kind bs fuseOk
  rw [he] at hreach
  exact hreach

theorem Dev.token_via' {mm : Nat} {aa : Dev} {d : Dev} {side : Side} {kind : Nat} {bs : List Byte} {fuseOk : Bool} {re : Dev} {rr1 : Bool} (hs : Part.sub (Part.regs ||| Part.hmem ||| Part.free ||| Part.jr ||| Part.rings ||| Part.fl ||| Part.ffuse ||| Part.hfuse) mm = true) (he : Dev.token d side kind bs fuseOk = (re, rr1)) (hr : Reach mm aa d) : Reach mm aa re := hr.step (Dev.token_reach' he) hs

theorem Dev.injToken_reach (d : Dev) (side : Side) (bs : List Byte) : Reach (Part.regs ||| Part.hmem ||| Part.free ||| Part.inj ||| Part.jr ||| Part.rings ||| Part.fl ||| Part.pwm) d (Dev.injToken d side bs).1 := by
  unfold Dev.injToken
  with_reducible repeat' (first | assumption | exact .refl _ | (extract_lets +onlyGivenNames x; first | (refine Reach.have (x := x) ?_ (fun hx hxs => ?_); unfold x; clear x; rotate_left; clear_value x) | clear_value x) | (apply Reach.via (Dev.injEnd_reach ..); decide) | (apply Reach.via (Dev.injShow_reach ..); decide) | (apply Reach.via (Dev.newChal_reach ..); decide) | (apply Reach.via (Dev.raiseOn_reach ..); decide) | (apply Reach.via (Dev.tokStat_reach ..); decide) | (apply Reach.via (Dev.tripSync_reach ..); decide) | (apply Dev.forAll_reach <;> intros) | (apply Reach.ite <;> intro) | simp -zeta -iota only [↓Reach.mk_eq] | split | dsimp only | (apply ReachMk.intro <;> first | exact .inr (by decide) | rfl | exact .inl rfl | skip))

theorem Dev.injToken_reach' {d : Dev} {side : Side} {bs : List Byte} {re : Dev} {rr1 : Bool} (he : Dev.injToken d side bs = (re, rr1)) : Reach (Part.regs ||| Part.hmem ||| Part.free ||| Part.inj ||| Part.jr ||| Part.rings ||| Part.fl ||| Part.pwm) d re := by
  have hreach := Dev.injToken_reach d side bs
  rw [he] at hreach
  exact hreach

theorem Dev.injToken_via' {mm : Nat} {aa : Dev} {d : Dev} {side : Side} {bs : List Byte} {re : Dev} {rr1 : Bool} (hs : Part.sub (Part.regs ||| Part.hmem ||| Part.free ||| Part.inj ||| Part.jr ||| Part.rings ||| Part.fl ||| Part.pwm) mm = true) (he : Dev.injToken d side bs = (re, rr1)) (hr : Reach mm aa d) : Reach mm aa re := hr.step (Dev.injToken_reach' he) hs

theorem Dev.anyToken_reach (d : Dev) (side : Side) (bs : List Byte) : Reach (Part.regs ||| Part.hmem ||| Part.free ||| Part.inj ||| Part.jr ||| Part.rings ||| Part.fl ||| Part.pwm ||| Part.ffuse ||| Part.hfuse) d (Dev.anyToken d side bs).1 := by
  unfold Dev.anyToken
  with_reducible repeat' (first | assumption | exact .refl _ | (apply Reach.via (Dev.injToken_reach ..); decide) | (apply Reach.via (Dev.token_reach ..); decide) | (apply Reach.ite <;> intro) | split | dsimp only)

theorem Dev.anyToken_reach' {d : Dev} {side : Side} {bs : List Byte} {re : Dev} {rr1 : Bool} (he : Dev.anyToken d side bs = (re, rr1)) : Reach (Part.regs ||| Part.hmem ||| Part.free ||| Part.inj ||| Part.jr ||| Part.rings ||| Part.fl ||| Part.pwm ||| Part.ffuse ||| Part.hfuse) d re := by
  have hreach := Dev.anyToken_reach d side bs
  rw [he] at hreach
  exact hreach

theorem Dev.anyToken_via' {mm : Nat} {aa : Dev} {d : Dev} {side : Side} {bs : List Byte} {re : Dev} {rr1 : Bool} (hs : Part.sub (Part.regs ||| Part.hmem ||| Part.free ||| Part.inj ||| Part.jr ||| Part.rings ||| Part.fl ||| Part.pwm ||| Part.ffuse ||| Part.hfuse) mm = true) (he : Dev.anyToken d side bs = (re, rr1)) (hr : Reach mm aa d) : Reach mm aa re := hr.step (Dev.anyToken_reach' he) hs

theorem Dev.encDone_reach (d : Dev) (code : Nat) : Reach (Part.regs ||| Part.hmem ||| Part.jr ||| Part.rings) d (Dev.encDone d code) := by
  unfold Dev.encDone
  with_reducible repeat' (first | assumption | exact .refl _ | (apply Reach.via (Dev.raiseH_reach ..); decide) | (apply Reach.via (Dev.wrAll_reach ..); decide) | (apply Reach.ite <;> intro) | split)

theorem Dev.present_via {mm : Nat} {aa d : Dev} {side : Side} {f : Dev → Dev × Bool} (hs : Part.sub (Part.regs ||| Part.hmem ||| Part.jr ||| Part.rings) mm = true) (hr : Reach mm aa d)
    (hf : ∀ e, Reach mm aa e → (aa.Shaped → e.Shaped) → Reach mm aa (f e).1) : Reach mm aa (d.present side f) := by
  unfold Dev.present
  split
  · split
    · exact hf d hr hr.shaped
    · exact hr
  · split
    · exact (hf d hr hr.shaped).step (Dev.encDone_reach _ _) hs
    · exact hr

theorem Dev.relock_reach (d : Dev) (side : Side) : Reach (Part.regs) d (Dev.relock d side) := by
  unfold Dev.relock
  with_reducible repeat' (first | assumption | exact .refl _ | (extract_lets +onlyGivenNames x; clear_value x) | (apply Reach.wr'; decide) | (apply Reach.ite <;> intro) | simp -zeta -iota only [↓Reach.mk_eq] | split | (apply ReachMk.intro <;> first | exact .inr (by decide) | rfl | exact .inl rfl | skip))

theorem Dev.drawKey_reach (d : Dev) : Reach (Part.free) d (Dev.drawKey d).2 := by
  unfold Dev.drawKey
  with_reducible repeat' (first | assumption | exact .refl _ | (apply Reach.via (Dev.drawFree_reach ..); decide) | dsimp only)

theorem Dev.drawKey_reach' {d : Dev} {rr0 : Nat} {re : Dev} (he : Dev.drawKey d = (rr0, re)) : Reach (Part.free) d re := by
  have hreach := Dev.drawKey_reach d
  rw [he] at hreach
  exact hreach

theorem Dev.drawKey_via' {mm : Nat} {aa : Dev} {d : Dev} {rr0 : Nat} {re : Dev} (hs : Part.sub (Part.free) mm = true) (he : Dev.drawKey d = (rr0, re)) (hr : Reach mm aa d) : Reach mm aa re := hr.step (Dev.drawKey_reach' he) hs

theorem Dev.pairStat_reach (d : Dev) (code : Nat) : Reach (Part.regs ||| Part.fl) d (Dev.pairStat d code) := by
  unfold Dev.pairStat
  with_reducible repeat' (first | assumption | exact .refl _ | (apply Reach.via (Dev.raise_reach ..); decide) | (apply Reach.via (Dev.wrAll_reach ..); decide) | (apply Reach.ite <;> intro) | split | dsimp only)

theorem Dev.pairGo_reach (d : Dev) : Reach (Part.regs ||| Part.free ||| Part.fl ||| Part.fsec) d (Dev.pairGo d) := by
  unfold Dev.pairGo
  with_reducible repeat' (first | assumption | exact .refl _ | (extract_lets +onlyGivenNames x; first | (refine Reach.have (x := x) ?_ (fun hx hxs => ?_); unfold x; clear x; rotate_left; clear_value x) | (refine Reach.have (x := x.1) ?_ (fun hx hxs => ?_); unfold x; clear x; rotate_left; clear_value x) | (refine Reach.have (x := x.2) ?_ (fun hx hxs => ?_); unfold x; clear x; rotate_left; clear_value x) | clear_value x) | (apply Reach.wr'; decide) | (apply Reach.via (Dev.drawKey_reach ..); decide) | (apply Reach.via (Dev.freeBytes_reach ..); decide) | (apply Reach.via (Dev.pairStat_reach ..); decide) | (apply Reach.via (Dev.wrWords_reach ..); decide) | (apply Reach.ite <;> intro) | simp -zeta -iota only [↓Reach.mk_eq] | split | dsimp only | (apply ReachMk.intro <;> first | exact .inr (by decide) | rfl | exact .inl rfl | skip))

theorem Dev.keyStat_reach (d : Dev) (target code : Nat) : Reach (Part.regs ||| Part.fl) d (Dev.keyStat d target code) := by
  unfold Dev.keyStat
  with_reducible repeat' (first | assumption | exact .refl _ | (apply Reach.via (Dev.raise_reach ..); decide) | (apply Reach.via (Dev.wrAll_reach ..); decide) | (apply Reach.ite <;> intro) | split)

theorem Dev.keyPut_reach (d : Dev) (target : Nat) (k : Option (List Byte)) : Reach (Part.svg ||| Part.fsec) d (Dev.keyPut d target k) := by
  unfold Dev.keyPut
  with_reducible repeat' (first | assumption | exact .refl _ | (extract_lets +onlyGivenNames x; first | (have hf : Svg := x; clear hf; refine Reach.keep_svg (x := x) ?_ (fun hx => ?_); (· intro hs; unfold x; clear x; (repeat' (first | ((try simp only [Svg.Shaped] at *); simp +zetaDelta (maxDischargeDepth := 9) only [Svg.Shaped, Dev.Shaped.svg_subs, Dev.Shaped.svg_gs, Dev.Shaped.svg_keys, Dev.Shaped.svg_pubs, Dev.Shaped.wr, Dev.Shaped.resetDomains, setAt_length, addAt_length, List.length_map, List.length_replicate, List.length_cons, List.length_nil, List.length_zipWith, List.length_range, List.length_append, List.length_drop, List.length_take, Nat.reduceSub, Nat.reduceLeDiff, Nat.min_eq_left, *, and_self, Nat.reduceAdd, Nat.zero_add]; done) | split))); clear_value x) | clear_value x) | (apply Reach.ite <;> intro) | simp -zeta -iota only [↓Reach.mk_eq] | split | (apply ReachMk.intro <;> first | exact .inr (by decide) | rfl | exact .inl rfl | (refine .inr ⟨by decide, fun hs he => ?_⟩; (repeat' (first | ((try simp only [Svg.Shaped] at *); simp +zetaDelta (maxDischargeDepth := 9) only [Svg.Shaped, Dev.Shaped.svg_subs, Dev.Shaped.svg_gs, Dev.Shaped.svg_keys, Dev.Shaped.svg_pubs, Dev.Shaped.wr, Dev.Shaped.resetDomains, setAt_length, addAt_length, List.length_map, List.length_replicate, List.length_cons, List.length_nil, List.length_zipWith, List.length_range, List.length_append, List.length_drop, List.length_take, Nat.reduceSub, Nat.reduceLeDiff, Nat.min_eq_left, *, and_self, Nat.reduceAdd, Nat.zero_add]; done) | split)); done) | skip))

theorem Dev.keysGovern_reach (d : Dev) : Reach (Part.shr ||| Part.fsec) d (Dev.keysGovern d) := by
  unfold Dev.keysGovern
  with_reducible repeat' (first | assumption | exact .refl _ | (extract_lets +onlyGivenNames x; first | (refine Reach.have (x := x) ?_ (fun hx hxs => ?_); unfold x; clear x; rotate_left; clear_value x) | clear_value x) | (apply Dev.forAll_reach <;> intros) | simp -zeta -iota only [↓Reach.mk_eq] | split | dsimp only | (apply ReachMk.intro <;> first | exact .inr (by decide) | rfl | exact .inl rfl | skip))

theorem Dev.keyLoad_reach (d : Dev) (target : Nat) : Reach (Part.regs ||| Part.fl ||| Part.svg ||| Part.fsec) d (Dev.keyLoad d target) := by
  unfold Dev.keyLoad
  with_reducible repeat' (first | assumption | exact .refl _ | (extract_lets +onlyGivenNames x; clear_value x) | (apply Reach.via (Dev.keyPut_reach ..); decide) | (apply Reach.via (Dev.keyStat_reach ..); decide) | (apply Reach.ite <;> intro) | simp -zeta -iota only [↓Reach.mk_eq] | split | dsimp only | (apply ReachMk.intro <;> first | exact .inr (by decide) | rfl | exact .inl rfl | skip))

theorem Dev.keyClear_reach (d : Dev) (target : Nat) : Reach (Part.regs ||| Part.fl ||| Part.svg ||| Part.fsec) d (Dev.keyClear d target) := by
  unfold Dev.keyClear
  with_reducible repeat' (first | assumption | exact .refl _ | (apply Reach.via (Dev.keyPut_reach ..); decide) | (apply Reach.via (Dev.keyStat_reach ..); decide) | (apply Reach.ite <;> intro) | split)

theorem Dev.stmtGo_reach (d : Dev) : Reach (Part.regs ||| Part.fl) d (Dev.stmtGo d) := by
  unfold Dev.stmtGo
  with_reducible repeat' (first | assumption | exact .refl _ | (extract_lets +onlyGivenNames x; first | (refine Reach.have (x := x) ?_ (fun hx hxs => ?_); unfold x; clear x; rotate_left; clear_value x) | clear_value x) | (apply Reach.wr'; decide) | (apply Reach.via (Dev.raise_reach ..); decide) | (apply Reach.via (Dev.wrWords_reach ..); decide))

theorem Dev.encCheck_via {mm : Nat} {aa d : Dev} {src srcLen dst dstLen : Nat} {f : Dev → Dev} (hs : Part.sub (Part.regs ||| Part.hmem ||| Part.jr ||| Part.rings) mm = true) (hr : Reach mm aa d)
    (hf : ∀ e, Reach mm aa e → (aa.Shaped → e.Shaped) → Reach mm aa (f e)) : Reach mm aa (d.encCheck src srcLen dst dstLen f) := by
  unfold Dev.encCheck
  split
  · exact hr.step (Dev.encDone_reach _ _) hs
  · exact hf d hr hr.shaped

theorem Dev.encOut_reach (d : Dev) (a : Nat) (bs : List Byte) : Reach (Part.regs ||| Part.hmem ||| Part.jr ||| Part.rings) d (Dev.encOut d a bs) := by
  unfold Dev.encOut
  with_reducible repeat' (first | assumption | exact .refl _ | (extract_lets +onlyGivenNames x; clear_value x) | (apply Reach.via (Dev.encDone_reach ..); decide) | simp -zeta -iota only [↓Reach.mk_eq] | (apply ReachMk.intro <;> first | exact .inr (by decide) | rfl | exact .inl rfl | (refine .inr ⟨by decide, ?_⟩; (repeat' (first | exact MemStep.refl _ | exact MemStep.clear _ | apply MemStep.writeNat | apply MemStep.write | apply MemStep.drop)); done) | skip))

theorem Dev.encPut_reach (d : Dev) (n : Nat) (x : Option EncSlot) : Reach (Part.enc) d (Dev.encPut d n x) := by
  unfold Dev.encPut
  with_reducible repeat' (first | assumption | exact .refl _ | (extract_lets +onlyGivenNames x; clear_value x) | simp -zeta -iota only [↓Reach.mk_eq] | (apply ReachMk.intro <;> first | exact .inr (by decide) | rfl | exact .inl rfl | skip))

theorem Dev.encDeriveCmd_reach (d : Dev) (b : EncBlock) : Reach (Part.regs ||| Part.hmem ||| Part.jr ||| Part.rings ||| Part.enc) d (Dev.encDeriveCmd d b) := by
  unfold Dev.encDeriveCmd
  with_reducible repeat' (first | assumption | exact .refl _ | (extract_lets +onlyGivenNames x; clear_value x) | (apply Dev.encCheck_via; decide; rotate_left; intros; rotate_right) | (apply Reach.via (Dev.encDone_reach ..); decide) | (apply Reach.via (Dev.encPut_reach ..); decide) | (apply Reach.ite <;> intro) | simp -zeta -iota only [↓Reach.mk_eq] | split | dsimp only | (apply ReachMk.intro <;> first | exact .inr (by decide) | rfl | exact .inl rfl | skip))

theorem Dev.encUnwrapCmd_reach (d : Dev) (b : EncBlock) : Reach (Part.regs ||| Part.hmem ||| Part.jr ||| Part.rings ||| Part.enc) d (Dev.encUnwrapCmd d b) := by
  unfold Dev.encUnwrapCmd
  with_reducible repeat' (first | assumption | exact .refl _ | (extract_lets +onlyGivenNames x; clear_value x) | (apply Dev.encCheck_via; decide; rotate_left; intros; rotate_right) | (apply Reach.via (Dev.encDone_reach ..); decide) | (apply Reach.via (Dev.encPut_reach ..); decide) | (apply Reach.ite <;> intro) | simp -zeta -iota only [↓Reach.mk_eq] | split | (apply ReachMk.intro <;> first | exact .inr (by decide) | rfl | exact .inl rfl | skip))

theorem Dev.encWrapCmd_reach (d : Dev) (b : EncBlock) : Reach (Part.regs ||| Part.hmem ||| Part.jr ||| Part.rings) d (Dev.encWrapCmd d b) := by
  unfold Dev.encWrapCmd
  with_reducible repeat' (first | assumption | exact .refl _ | (extract_lets +onlyGivenNames x; clear_value x) | (apply Dev.encCheck_via; decide; rotate_left; intros; rotate_right) | (apply Reach.via (Dev.encDone_reach ..); decide) | (apply Reach.via (Dev.encOut_reach ..); decide) | (apply Reach.ite <;> intro) | simp -zeta -iota only [↓Reach.mk_eq] | split | (apply ReachMk.intro <;> first | exact .inr (by decide) | rfl | exact .inl rfl | skip))

theorem Dev.encSignCmd_reach (d : Dev) (b : EncBlock) : Reach (Part.regs ||| Part.hmem ||| Part.jr ||| Part.rings) d (Dev.encSignCmd d b) := by
  unfold Dev.encSignCmd
  with_reducible repeat' (first | assumption | exact .refl _ | (extract_lets +onlyGivenNames x; clear_value x) | (apply Dev.encCheck_via; decide; rotate_left; intros; rotate_right) | (apply Reach.via (Dev.encDone_reach ..); decide) | (apply Reach.via (Dev.encOut_reach ..); decide) | simp -zeta -iota only [↓Reach.mk_eq] | split | (apply ReachMk.intro <;> first | exact .inr (by decide) | rfl | exact .inl rfl | skip))

theorem Dev.mrExtend_reach (d : Dev) (m : Nat) (v : List Byte) : Reach (Part.regs) d (Dev.mrExtend d m v) := by
  unfold Dev.mrExtend
  with_reducible repeat' (first | assumption | exact .refl _ | (apply Reach.via (Dev.wrWords_reach ..); decide))

theorem Dev.encAttestCmd_reach (d : Dev) (b : EncBlock) : Reach (Part.regs ||| Part.hmem ||| Part.jr ||| Part.rings ||| Part.enc) d (Dev.encAttestCmd d b) := by
  unfold Dev.encAttestCmd
  with_reducible repeat' (first | assumption | exact .refl _ | (extract_lets +onlyGivenNames x; first | (refine Reach.have (x := x) ?_ (fun hx hxs => ?_); unfold x; clear x; rotate_left; clear_value x) | clear_value x) | (apply Dev.encCheck_via; decide; rotate_left; intros; rotate_right) | (apply Reach.via (Dev.encOut_reach ..); decide) | simp -zeta -iota only [↓Reach.mk_eq] | split | dsimp only | (apply ReachMk.intro <;> first | exact .inr (by decide) | rfl | exact .inl rfl | skip))

theorem Dev.encExtendCmd_reach (d : Dev) (b : EncBlock) : Reach (Part.regs ||| Part.hmem ||| Part.jr ||| Part.rings) d (Dev.encExtendCmd d b) := by
  unfold Dev.encExtendCmd
  with_reducible repeat' (first | assumption | exact .refl _ | (apply Dev.encCheck_via; decide; rotate_left; intros; rotate_right) | (apply Reach.via (Dev.encDone_reach ..); decide) | (apply Reach.via (Dev.mrExtend_reach ..); decide) | (apply Reach.ite <;> intro) | split)

theorem Dev.measExtend_reach (d : Dev) (i : Nat) (v : List Byte) : Reach (Part.regs ||| Part.enc) d (Dev.measExtend d i v) := by
  unfold Dev.measExtend
  with_reducible repeat' (first | assumption | exact .refl _ | (extract_lets +onlyGivenNames x; clear_value x) | (apply Reach.via (Dev.mrExtend_reach ..); decide) | (apply Reach.ite <;> intro) | simp -zeta -iota only [↓Reach.mk_eq] | split | (apply ReachMk.intro <;> first | exact .inr (by decide) | rfl | exact .inl rfl | skip))

theorem Dev.encFieldmeasCmd_reach (d : Dev) (b : EncBlock) : Reach (Part.regs ||| Part.hmem ||| Part.jr ||| Part.rings ||| Part.enc) d (Dev.encFieldmeasCmd d b) := by
  unfold Dev.encFieldmeasCmd
  with_reducible repeat' (first | assumption | exact .refl _ | (extract_lets +onlyGivenNames x; first | (refine Reach.have (x := x) ?_ (fun hx hxs => ?_); unfold x; clear x; rotate_left; clear_value x) | clear_value x) | (apply Dev.encCheck_via; decide; rotate_left; intros; rotate_right) | (apply Reach.via (Dev.encDone_reach ..); decide) | (apply Reach.via (Dev.measExtend_reach ..); decide) | (apply Reach.ite <;> intro) | split | dsimp only)

theorem Dev.encPairOut_reach (d : Dev) (b : EncBlock) : Reach (Part.regs ||| Part.hmem ||| Part.free ||| Part.jr ||| Part.rings ||| Part.enc) d (Dev.encPairOut d b) := by
  unfold Dev.encPairOut
  with_reducible repeat' (first | assumption | exact .refl _ | (extract_lets +onlyGivenNames x; first | (refine Reach.have (x := x) ?_ (fun hx hxs => ?_); unfold x; clear x; rotate_left; clear_value x) | (refine Reach.have (x := x.1) ?_ (fun hx hxs => ?_); unfold x; clear x; rotate_left; clear_value x) | (refine Reach.have (x := x.2) ?_ (fun hx hxs => ?_); unfold x; clear x; rotate_left; clear_value x) | clear_value x) | (apply Reach.via (Dev.drawKey_reach ..); decide) | (apply Dev.encCheck_via; decide; rotate_left; intros; rotate_right) | (apply Reach.via (Dev.encDone_reach ..); decide) | (apply Reach.via (Dev.encOut_reach ..); decide) | (apply Reach.via (Dev.freeBytes_reach ..); decide) | (apply Reach.ite <;> intro) | simp -zeta -iota only [↓Reach.mk_eq] | split | dsimp only | (apply ReachMk.intro <;> first | exact .inr (by decide) | rfl | exact .inl rfl | skip))

theorem Dev.encPairIn_reach (d : Dev) (b : EncBlock) : Reach (Part.regs ||| Part.hmem ||| Part.jr ||| Part.rings ||| Part.enc) d (Dev.encPairIn d b) := by
  unfold Dev.encPairIn
  with_reducible repeat' (first | assumption | exact .refl _ | (extract_lets +onlyGivenNames x; first | (refine Reach.have (x := x) ?_ (fun hx hxs => ?_); unfold x; clear x; rotate_left; clear_value x) | clear_value x) | (apply Reach.wr'; decide) | (apply Dev.encCheck_via; decide; rotate_left; intros; rotate_right) | (apply Reach.via (Dev.encDone_reach ..); decide) | (apply Reach.via (Dev.raiseH_reach ..); decide) | (apply Reach.ite <;> intro) | simp -zeta -iota only [↓Reach.mk_eq] | split | dsimp only | (apply ReachMk.intro <;> first | exact .inr (by decide) | rfl | exact .inl rfl | skip))

theorem Dev.encPairCmd_reach (d : Dev) (b : EncBlock) : Reach (Part.regs ||| Part.hmem ||| Part.free ||| Part.jr ||| Part.rings ||| Part.enc) d (Dev.encPairCmd d b) := by
  unfold Dev.encPairCmd
  with_reducible repeat' (first | assumption | exact .refl _ | (extract_lets +onlyGivenNames x; clear_value x) | (apply Reach.via (Dev.encDone_reach ..); decide) | (apply Reach.via (Dev.encPairIn_reach ..); decide) | (apply Reach.via (Dev.encPairOut_reach ..); decide) | simp -zeta -iota only [↓Reach.mk_eq] | split | dsimp only | (apply ReachMk.intro <;> first | exact .inr (by decide) | rfl | exact .inl rfl | skip))

theorem Dev.encKeywrapfCmd_reach (d : Dev) (b : EncBlock) : Reach (Part.regs ||| Part.hmem ||| Part.jr ||| Part.rings) d (Dev.encKeywrapfCmd d b) := by
  unfold Dev.encKeywrapfCmd
  with_reducible repeat' (first | assumption | exact .refl _ | (extract_lets +onlyGivenNames x; clear_value x) | (apply Dev.encCheck_via; decide; rotate_left; intros; rotate_right) | (apply Reach.via (Dev.encDone_reach ..); decide) | (apply Reach.via (Dev.encOut_reach ..); decide) | simp -zeta -iota only [↓Reach.mk_eq] | split | dsimp only | (apply ReachMk.intro <;> first | exact .inr (by decide) | rfl | exact .inl rfl | skip))

theorem Dev.encAeadCmd_reach (d : Dev) (b : EncBlock) : Reach (Part.regs ||| Part.hmem ||| Part.jr ||| Part.rings) d (Dev.encAeadCmd d b) := by
  unfold Dev.encAeadCmd
  with_reducible repeat' (first | assumption | exact .refl _ | (extract_lets +onlyGivenNames x; first | (refine Reach.have (x := x) ?_ (fun hx hxs => ?_); unfold x; clear x; rotate_left; clear_value x) | clear_value x) | (apply Dev.encCheck_via; decide; rotate_left; intros; rotate_right) | (apply Reach.via (Dev.encDone_reach ..); decide) | (apply Reach.via (Dev.encOut_reach ..); decide) | (apply Reach.ite <;> intro) | simp -zeta -iota only [↓Reach.mk_eq] | split | dsimp only | (apply ReachMk.intro <;> first | exact .inr (by decide) | rfl | exact .inl rfl | skip))

theorem Dev.encRandomCmd_reach (d : Dev) (b : EncBlock) : Reach (Part.regs ||| Part.hmem ||| Part.free ||| Part.jr ||| Part.rings) d (Dev.encRandomCmd d b) := by
  unfold Dev.encRandomCmd
  with_reducible repeat' (first | assumption | exact .refl _ | (extract_lets +onlyGivenNames x; first | (refine Reach.have (x := x) ?_ (fun hx hxs => ?_); unfold x; clear x; rotate_left; clear_value x) | (refine Reach.have (x := x.1) ?_ (fun hx hxs => ?_); unfold x; clear x; rotate_left; clear_value x) | (refine Reach.have (x := x.2) ?_ (fun hx hxs => ?_); unfold x; clear x; rotate_left; clear_value x) | clear_value x) | (apply Dev.encCheck_via; decide; rotate_left; intros; rotate_right) | (apply Reach.via (Dev.encDone_reach ..); decide) | (apply Reach.via (Dev.encOut_reach ..); decide) | (apply Reach.via (Dev.freeBytes_reach ..); decide) | (apply Reach.ite <;> intro) | split | dsimp only)

theorem Dev.encClearCmd_reach (d : Dev) (b : EncBlock) : Reach (Part.regs ||| Part.hmem ||| Part.jr ||| Part.rings ||| Part.enc) d (Dev.encClearCmd d b) := by
  unfold Dev.encClearCmd
  with_reducible repeat' (first | assumption | exact .refl _ | (apply Reach.via (Dev.encDone_reach ..); decide) | (apply Reach.via (Dev.encPut_reach ..); decide) | (apply Reach.ite <;> intro) | split)

theorem Dev.encTokenCmd_reach (d : Dev) (b : EncBlock) : Reach (Part.regs ||| Part.hmem ||| Part.free ||| Part.inj ||| Part.jr ||| Part.rings ||| Part.fl ||| Part.pwm ||| Part.ffuse ||| Part.hfuse) d (Dev.encTokenCmd d b) := by
  unfold Dev.encTokenCmd
  with_reducible repeat' (first | assumption | exact .refl _ | (apply Reach.via (Dev.anyToken_reach ..); decide) | (apply Dev.encCheck_via; decide; rotate_left; intros; rotate_right) | (apply Dev.present_via; decide; rotate_left; intros; rotate_right) | split)

theorem Dev.encCommand_reach (d : Dev) (op : Nat) (b : EncBlock) : Reach (Part.regs ||| Part.hmem ||| Part.free ||| Part.inj ||| Part.jr ||| Part.rings ||| Part.fl ||| Part.pwm ||| Part.ffuse ||| Part.hfuse ||| Part.enc) d (Dev.encCommand d op b) := by
  unfold Dev.encCommand
  with_reducible repeat' (first | assumption | exact .refl _ | (extract_lets +onlyGivenNames x; clear_value x) | (apply Reach.via (Dev.encAeadCmd_reach ..); decide) | (apply Reach.via (Dev.encAttestCmd_reach ..); decide) | (apply Reach.via (Dev.encClearCmd_reach ..); decide) | (apply Reach.via (Dev.encDeriveCmd_reach ..); decide) | (apply Reach.via (Dev.encDone_reach ..); decide) | (apply Reach.via (Dev.encExtendCmd_reach ..); decide) | (apply Reach.via (Dev.encFieldmeasCmd_reach ..); decide) | (apply Reach.via (Dev.encKeywrapfCmd_reach ..); decide) | (apply Reach.via (Dev.encPairCmd_reach ..); decide) | (apply Reach.via (Dev.encRandomCmd_reach ..); decide) | (apply Reach.via (Dev.encSignCmd_reach ..); decide) | (apply Reach.via (Dev.encTokenCmd_reach ..); decide) | (apply Reach.via (Dev.encUnwrapCmd_reach ..); decide) | (apply Reach.via (Dev.encWrapCmd_reach ..); decide) | simp -zeta -iota only [↓Reach.mk_eq] | split | dsimp only | (apply ReachMk.intro <;> first | exact .inr (by decide) | rfl | exact .inl rfl | skip))

theorem Dev.encGo_reach (d : Dev) : Reach (Part.regs ||| Part.hmem ||| Part.free ||| Part.inj ||| Part.jr ||| Part.rings ||| Part.fl ||| Part.pwm ||| Part.ffuse ||| Part.hfuse ||| Part.enc) d (Dev.encGo d) := by
  unfold Dev.encGo
  with_reducible repeat' (first | assumption | exact .refl _ | (extract_lets +onlyGivenNames x; first | (refine Reach.have (x := x) ?_ (fun hx hxs => ?_); unfold x; clear x; rotate_left; clear_value x) | clear_value x) | (apply Reach.via (Dev.encCommand_reach ..); decide) | (apply Reach.via (Dev.encDone_reach ..); decide) | (apply Reach.ite <;> intro) | simp -zeta -iota only [↓Reach.mk_eq] | split | dsimp only | (apply ReachMk.intro <;> first | exact .inr (by decide) | rfl | exact .inl rfl | skip))

theorem Dev.monoInc_reach (d : Dev) (mask : Nat) : Reach (Part.regs ||| Part.enc) d (Dev.monoInc d mask) := by
  unfold Dev.monoInc
  with_reducible repeat' (first | assumption | exact .refl _ | (extract_lets +onlyGivenNames x; first | (refine Reach.have (x := x) ?_ (fun hx hxs => ?_); unfold x; clear x; rotate_left; clear_value x) | clear_value x) | (apply Reach.via (Dev.bump_reach ..); decide) | (apply Dev.forAll_reach <;> intros) | (apply Reach.ite <;> intro) | simp -zeta -iota only [↓Reach.mk_eq] | split | (apply ReachMk.intro <;> first | exact .inr (by decide) | rfl | exact .inl rfl | skip))

theorem Dev.monoRestore_reach (d : Dev) : Reach (Part.regs ||| Part.enc) d (Dev.monoRestore d) := by
  unfold Dev.monoRestore
  with_reducible repeat' (first | assumption | exact .refl _ | (extract_lets +onlyGivenNames x; clear_value x) | (apply Reach.wr'; decide) | (apply Dev.forAll_reach <;> intros) | (apply Reach.ite <;> intro) | simp -zeta -iota only [↓Reach.mk_eq] | split | dsimp only | (apply ReachMk.intro <;> first | exact .inr (by decide) | rfl | exact .inl rfl | skip))

theorem Dev.continuity_reach (d : Dev) : Reach (Part.regs ||| Part.hfuse ||| Part.enc) d (Dev.continuity d) := by
  unfold Dev.continuity
  with_reducible repeat' (first | assumption | exact .refl _ | (extract_lets +onlyGivenNames x; first | (refine Reach.have (x := x) ?_ (fun hx hxs => ?_); unfold x; clear x; rotate_left; clear_value x) | (have hf : Fuses := x; clear hf; unfold x; clear_value x) | clear_value x) | (apply Reach.wr'; decide) | (apply Reach.ite <;> intro) | simp -zeta -iota only [↓Reach.mk_eq] | split | dsimp only | (apply ReachMk.intro <;> first | exact .inr (by decide) | rfl | exact .inl rfl | exact .inr ⟨by decide, .seal _ _⟩ | exact .inr ⟨by decide, .cont _⟩ | skip))

theorem Dev.trngFail_reach (d : Dev) (side : Side) : Reach (Part.regs ||| Part.hmem ||| Part.jr ||| Part.rings ||| Part.fl) d (Dev.trngFail d side) := by
  unfold Dev.trngFail
  with_reducible repeat' (first | assumption | exact .refl _ | (extract_lets +onlyGivenNames x; clear_value x) | (apply Reach.wr'; decide) | (apply Reach.via (Dev.bump_reach ..); decide) | (apply Reach.via (Dev.raise_reach ..); decide) | (apply Reach.via (Dev.raiseH_reach ..); decide) | (apply Reach.ite <;> intro) | simp -zeta -iota only [↓Reach.mk_eq] | split | dsimp only | (apply ReachMk.intro <;> first | exact .inr (by decide) | rfl | exact .inl rfl | skip))

theorem Dev.trngGood_reach (d : Dev) (side : Side) : Reach (Part.regs) d (Dev.trngGood d side) := by
  unfold Dev.trngGood
  with_reducible repeat' (first | assumption | exact .refl _ | (extract_lets +onlyGivenNames x; clear_value x) | (apply Reach.wr'; decide) | (apply Reach.ite <;> intro) | simp -zeta -iota only [↓Reach.mk_eq] | split | dsimp only | (apply ReachMk.intro <;> first | exact .inr (by decide) | rfl | exact .inl rfl | skip))

theorem Dev.zeroiseF_reach (d : Dev) : Reach (Part.regs ||| Part.shr ||| Part.svg ||| Part.fsec) d (Dev.zeroiseF d) := by
  unfold Dev.zeroiseF
  with_reducible repeat' (first | assumption | exact .refl _ | (extract_lets +onlyGivenNames x; first | (refine Reach.have (x := x) ?_ (fun hx hxs => ?_); unfold x; clear x; rotate_left; clear_value x) | (have hf : Svg := x; clear hf; refine Reach.keep_svg (x := x) ?_ (fun hx => ?_); (· intro hs; unfold x; clear x; (repeat' (first | ((try simp only [Svg.Shaped] at *); simp +zetaDelta (maxDischargeDepth := 9) only [Svg.Shaped, Dev.Shaped.svg_subs, Dev.Shaped.svg_gs, Dev.Shaped.svg_keys, Dev.Shaped.svg_pubs, Dev.Shaped.wr, Dev.Shaped.resetDomains, setAt_length, addAt_length, List.length_map, List.length_replicate, List.length_cons, List.length_nil, List.length_zipWith, List.length_range, List.length_append, List.length_drop, List.length_take, Nat.reduceSub, Nat.reduceLeDiff, Nat.min_eq_left, *, and_self, Nat.reduceAdd, Nat.zero_add]; done) | split))); clear_value x) | clear_value x) | (apply Reach.wr'; decide) | simp -zeta -iota only [↓Reach.mk_eq] | (apply ReachMk.intro <;> first | exact .inr (by decide) | rfl | exact .inl rfl | (refine .inr ⟨by decide, fun hs he => ?_⟩; (repeat' (first | ((try simp only [Svg.Shaped] at *); simp +zetaDelta (maxDischargeDepth := 9) only [Svg.Shaped, Dev.Shaped.svg_subs, Dev.Shaped.svg_gs, Dev.Shaped.svg_keys, Dev.Shaped.svg_pubs, Dev.Shaped.wr, Dev.Shaped.resetDomains, setAt_length, addAt_length, List.length_map, List.length_replicate, List.length_cons, List.length_nil, List.length_zipWith, List.length_range, List.length_append, List.length_drop, List.length_take, Nat.reduceSub, Nat.reduceLeDiff, Nat.min_eq_left, *, and_self, Nat.reduceAdd, Nat.zero_add]; done) | split)); done) | skip))

theorem Dev.zeroiseH_reach (d : Dev) : Reach (Part.regs ||| Part.hmem ||| Part.enc) d (Dev.zeroiseH d) := by
  unfold Dev.zeroiseH
  with_reducible repeat' (first | assumption | exact .refl _ | (extract_lets +onlyGivenNames x; first | (refine Reach.have (x := x) ?_ (fun hx hxs => ?_); unfold x; clear x; rotate_left; clear_value x) | (have hf : Mem := x; clear hf; unfold x; clear_value x) | clear_value x) | (apply Reach.wr'; decide) | simp -zeta -iota only [↓Reach.mk_eq] | split | dsimp only | (apply ReachMk.intro <;> first | exact .inr (by decide) | rfl | exact .inl rfl | (refine .inr ⟨by decide, ?_⟩; (repeat' (first | exact MemStep.refl _ | exact MemStep.clear _ | apply MemStep.writeNat | apply MemStep.write | apply MemStep.drop)); done) | skip))

theorem Dev.raiseOrBoot_reach (d : Dev) (side : Side) (n kind : Nat) (data : List Nat) : Reach (Part.regs ||| Part.hmem ||| Part.jr ||| Part.rings ||| Part.pw ||| Part.fl) d (Dev.raiseOrBoot d side n kind data) := by
  unfold Dev.raiseOrBoot
  with_reducible repeat' (first | assumption | exact .refl _ | (extract_lets +onlyGivenNames x; clear_value x) | (apply Reach.via (Dev.raise_reach ..); decide) | (apply Reach.via (Dev.raiseH_reach ..); decide) | (apply Reach.ite <;> intro) | simp -zeta -iota only [↓Reach.mk_eq] | split | (apply ReachMk.intro <;> first | exact .inr (by decide) | rfl | exact .inl rfl | skip))

theorem Dev.tamper_reach (d : Dev) (side : Side) (t : Nat) (low : Bool) : Reach (Part.regs ||| Part.hmem ||| Part.jr ||| Part.rings ||| Part.pw ||| Part.fl ||| Part.shr ||| Part.svg ||| Part.fsec ||| Part.enc) d (Dev.tamper d side t low) := by
  unfold Dev.tamper
  with_reducible repeat' (first | assumption | exact .refl _ | (extract_lets +onlyGivenNames x; first | (refine Reach.have (x := x) ?_ (fun hx hxs => ?_); unfold x; clear x; rotate_left; clear_value x) | clear_value x) | (apply Reach.wr'; decide) | (apply Reach.via (Dev.raiseOrBoot_reach ..); decide) | (apply Reach.via (Dev.zeroiseF_reach ..); decide) | (apply Reach.via (Dev.zeroiseH_reach ..); decide) | (apply Dev.when_reach <;> intros) | (apply Reach.ite <;> intro) | simp -zeta -iota only [↓Reach.mk_eq] | split | (apply ReachMk.intro <;> first | exact .inr (by decide) | rfl | exact .inl rfl | skip))

theorem Dev.scanLoad_reach (d : Dev) (side : Side) (drives : Bool) : Reach (Part.fsec ||| Part.enc) d (Dev.scanLoad d side drives) := by
  unfold Dev.scanLoad
  with_reducible repeat' (first | assumption | exact .refl _ | (extract_lets +onlyGivenNames x; clear_value x) | simp -zeta -iota only [↓Reach.mk_eq] | split | (apply ReachMk.intro <;> first | exact .inr (by decide) | rfl | exact .inl rfl | skip))

theorem Dev.scanEval_reach (d : Dev) : Reach (Part.fsec ||| Part.enc) d (Dev.scanEval d) := by
  unfold Dev.scanEval
  with_reducible repeat' (first | assumption | exact .refl _ | (extract_lets +onlyGivenNames x; clear_value x) | simp -zeta -iota only [↓Reach.mk_eq] | (apply ReachMk.intro <;> first | exact .inr (by decide) | rfl | exact .inl rfl | skip))

end Sys2Proof.Machine
end

