-- ==== Sys2Proof/Laws/ReachStack.lean ====
section
/-! SUPPORT. What the functions of Machine/Stack.lean can do to the block. -/

set_option linter.tactic.unusedName false
set_option linter.unusedTactic false
set_option linter.unusedSimpArgs false
set_option linter.unreachableTactic false
set_option maxHeartbeats 800000

namespace Sys2Proof.Machine

theorem Dev.setSat_reach (d : Dev) (s : Nat) (x : SatRt) : Reach (Part.stk) d (Dev.setSat d s x) := by
  unfold Dev.setSat
  with_reducible repeat' (first | assumption | exact .refl _ | (extract_lets +onlyGivenNames x; first | (have hf : Stk := x; clear hf; refine Reach.keep_stk (x := x) ?_ (fun hx => ?_); (· intro hs; unfold x; clear x; (repeat' (first | ((try simp only [Stk.Shaped] at *); simp +zetaDelta (maxDischargeDepth := 9) only [Stk.Shaped, Dev.Shaped.stk_found, Dev.Shaped.stk_enumDone, Dev.Shaped.stk_sats, Dev.Shaped.stk_out, Dev.Shaped.stk_lastFrame, Dev.Shaped.wr, Dev.Shaped.resetDomains, setAt_length, addAt_length, List.length_map, List.length_replicate, List.length_cons, List.length_nil, List.length_zipWith, List.length_range, List.length_append, List.length_drop, List.length_take, Nat.reduceSub, Nat.reduceLeDiff, Nat.min_eq_left, *, and_self, Nat.reduceAdd, Nat.zero_add]; done) | split))); clear_value x) | clear_value x) | simp -zeta -iota only [↓Reach.mk_eq] | (apply ReachMk.intro <;> first | exact .inr (by decide) | rfl | exact .inl rfl | (refine .inr ⟨by decide, fun hs he => ?_⟩; (repeat' (first | ((try simp only [Stk.Shaped] at *); simp +zetaDelta (maxDischargeDepth := 9) only [Stk.Shaped, Dev.Shaped.stk_found, Dev.Shaped.stk_enumDone, Dev.Shaped.stk_sats, Dev.Shaped.stk_out, Dev.Shaped.stk_lastFrame, Dev.Shaped.wr, Dev.Shaped.resetDomains, setAt_length, addAt_length, List.length_map, List.length_replicate, List.length_cons, List.length_nil, List.length_zipWith, List.length_range, List.length_append, List.length_drop, List.length_take, Nat.reduceSub, Nat.reduceLeDiff, Nat.min_eq_left, *, and_self, Nat.reduceAdd, Nat.zero_add]; done) | split)); done) | skip))

theorem Dev.splitShow_reach (d : Dev) : Reach (Part.regs) d (Dev.splitShow d) := by
  unfold Dev.splitShow
  with_reducible repeat' (first | assumption | exact .refl _ | (extract_lets +onlyGivenNames x; first | (refine Reach.have (x := x) ?_ (fun hx hxs => ?_); unfold x; clear x; rotate_left; clear_value x) | clear_value x) | (apply Reach.wr'; decide) | (apply Dev.forAll_reach <;> intros) | (apply Reach.ite <;> intro) | split)

theorem Dev.bufHeld_reach (d : Dev) : Reach (Part.regs ||| Part.fl ||| Part.pwm) d (Dev.bufHeld d) := by
  unfold Dev.bufHeld
  with_reducible repeat' (first | assumption | exact .refl _ | (apply Reach.wr'; decide) | (apply Reach.via (Dev.legsHold_reach ..); decide) | (apply Reach.via (Dev.raise_reach ..); decide) | dsimp only)

theorem Dev.bufZero_reach (d : Dev) : Reach (Part.ce) d (Dev.bufZero d) := by
  unfold Dev.bufZero
  with_reducible repeat' (first | assumption | exact .refl _ | (extract_lets +onlyGivenNames x; clear_value x) | (apply Reach.via (Dev.setGen_reach ..); decide) | (apply Reach.ite <;> intro) | simp -zeta -iota only [↓Reach.mk_eq] | split | (apply ReachMk.intro <;> first | exact .inr (by decide) | rfl | exact .inl rfl | skip))

theorem Dev.bufLimit_reach (d : Dev) (c : Nat) : Reach (Part.regs ||| Part.fl ||| Part.ce ||| Part.pwm ||| Part.stk) d (Dev.bufLimit d c) := by
  unfold Dev.bufLimit
  with_reducible repeat' (first | assumption | exact .refl _ | (extract_lets +onlyGivenNames x; first | (refine Reach.have (x := x) ?_ (fun hx hxs => ?_); unfold x; clear x; rotate_left; clear_value x) | (have hf : Stk := x; clear hf; refine Reach.keep_stk (x := x) ?_ (fun hx => ?_); (· intro hs; unfold x; clear x; (repeat' (first | ((try simp only [Stk.Shaped] at *); simp +zetaDelta (maxDischargeDepth := 9) only [Stk.Shaped, Dev.Shaped.stk_found, Dev.Shaped.stk_enumDone, Dev.Shaped.stk_sats, Dev.Shaped.stk_out, Dev.Shaped.stk_lastFrame, Dev.Shaped.wr, Dev.Shaped.resetDomains, setAt_length, addAt_length, List.length_map, List.length_replicate, List.length_cons, List.length_nil, List.length_zipWith, List.length_range, List.length_append, List.length_drop, List.length_take, Nat.reduceSub, Nat.reduceLeDiff, Nat.min_eq_left, *, and_self, Nat.reduceAdd, Nat.zero_add]; done) | split))); clear_value x) | clear_value x) | (apply Reach.wr'; decide) | (apply Reach.via (Dev.bufZero_reach ..); decide) | (apply Reach.via (Dev.legsHold_reach ..); decide) | (apply Reach.via (Dev.raise_reach ..); decide) | (apply Reach.ite <;> intro) | simp -zeta -iota only [↓Reach.mk_eq] | split | (apply ReachMk.intro <;> first | exact .inr (by decide) | rfl | exact .inl rfl | (refine .inr ⟨by decide, fun hs he => ?_⟩; (repeat' (first | ((try simp only [Stk.Shaped] at *); simp +zetaDelta (maxDischargeDepth := 9) only [Stk.Shaped, Dev.Shaped.stk_found, Dev.Shaped.stk_enumDone, Dev.Shaped.stk_sats, Dev.Shaped.stk_out, Dev.Shaped.stk_lastFrame, Dev.Shaped.wr, Dev.Shaped.resetDomains, setAt_length, addAt_length, List.length_map, List.length_replicate, List.length_cons, List.length_nil, List.length_zipWith, List.length_range, List.length_append, List.length_drop, List.length_take, Nat.reduceSub, Nat.reduceLeDiff, Nat.min_eq_left, *, and_self, Nat.reduceAdd, Nat.zero_add]; done) | split)); done) | skip))

theorem Dev.bufCause_reach (d : Dev) (c : Nat) : Reach (Part.regs ||| Part.fl ||| Part.ce ||| Part.pwm ||| Part.stk) d (Dev.bufCause d c) := by
  unfold Dev.bufCause
  with_reducible repeat' (first | assumption | exact .refl _ | (extract_lets +onlyGivenNames x; first | (refine Reach.have (x := x) ?_ (fun hx hxs => ?_); unfold x; clear x; rotate_left; clear_value x) | clear_value x) | (apply Reach.wr'; decide) | (apply Reach.via (Dev.bufLimit_reach ..); decide) | (apply Reach.ite <;> intro) | simp -zeta -iota only [↓Reach.mk_eq] | split | dsimp only | (apply ReachMk.intro <;> first | exact .inr (by decide) | rfl | exact .inl rfl | skip))

theorem Dev.bufSync_reach (d : Dev) : Reach (Part.regs ||| Part.st ||| Part.pwm) d (Dev.bufSync d) := by
  unfold Dev.bufSync
  with_reducible repeat' (first | assumption | exact .refl _ | (extract_lets +onlyGivenNames x; first | (refine Reach.have (x := x) ?_ (fun hx hxs => ?_); unfold x; clear x; rotate_left; clear_value x) | clear_value x) | (apply Reach.wr'; decide) | (apply Reach.via (Dev.legsHold_reach ..); decide) | (apply Reach.ite <;> intro) | split)

theorem Dev.bufGo_reach (d : Dev) : Reach (Part.regs ||| Part.fl ||| Part.stk) d (Dev.bufGo d) := by
  unfold Dev.bufGo
  with_reducible repeat' (first | assumption | exact .refl _ | (extract_lets +onlyGivenNames x; first | (refine Reach.have (x := x) ?_ (fun hx hxs => ?_); unfold x; clear x; rotate_left; clear_value x) | (have hf : Stk := x; clear hf; refine Reach.keep_stk (x := x) ?_ (fun hx => ?_); (· intro hs; unfold x; clear x; (repeat' (first | ((try simp only [Stk.Shaped] at *); simp +zetaDelta (maxDischargeDepth := 9) only [Stk.Shaped, Dev.Shaped.stk_found, Dev.Shaped.stk_enumDone, Dev.Shaped.stk_sats, Dev.Shaped.stk_out, Dev.Shaped.stk_lastFrame, Dev.Shaped.wr, Dev.Shaped.resetDomains, setAt_length, addAt_length, List.length_map, List.length_replicate, List.length_cons, List.length_nil, List.length_zipWith, List.length_range, List.length_append, List.length_drop, List.length_take, Nat.reduceSub, Nat.reduceLeDiff, Nat.min_eq_left, *, and_self, Nat.reduceAdd, Nat.zero_add]; done) | split))); clear_value x) | clear_value x) | (apply Reach.via (Dev.raise_reach ..); decide) | (apply Reach.via (Dev.wrAll_reach ..); decide) | (apply Reach.ite <;> intro) | simp -zeta -iota only [↓Reach.mk_eq] | split | dsimp only | (apply ReachMk.intro <;> first | exact .inr (by decide) | rfl | exact .inl rfl | (refine .inr ⟨by decide, fun hs he => ?_⟩; (repeat' (first | ((try simp only [Stk.Shaped] at *); simp +zetaDelta (maxDischargeDepth := 9) only [Stk.Shaped, Dev.Shaped.stk_found, Dev.Shaped.stk_enumDone, Dev.Shaped.stk_sats, Dev.Shaped.stk_out, Dev.Shaped.stk_lastFrame, Dev.Shaped.wr, Dev.Shaped.resetDomains, setAt_length, addAt_length, List.length_map, List.length_replicate, List.length_cons, List.length_nil, List.length_zipWith, List.length_range, List.length_append, List.length_drop, List.length_take, Nat.reduceSub, Nat.reduceLeDiff, Nat.min_eq_left, *, and_self, Nat.reduceAdd, Nat.zero_add]; done) | split)); done) | skip))

theorem Dev.stkAtW_reach (d : Dev) : Reach (Part.regs ||| Part.fl ||| Part.pwm ||| Part.stk) d (Dev.stkAtW d) := by
  unfold Dev.stkAtW
  with_reducible repeat' (first | assumption | exact .refl _ | (extract_lets +onlyGivenNames x; first | (refine Reach.have (x := x) ?_ (fun hx hxs => ?_); unfold x; clear x; rotate_left; clear_value x) | (have hf : Stk := x; clear hf; refine Reach.keep_stk (x := x) ?_ (fun hx => ?_); (· intro hs; unfold x; clear x; (repeat' (first | ((try simp only [Stk.Shaped] at *); simp +zetaDelta (maxDischargeDepth := 9) only [Stk.Shaped, Dev.Shaped.stk_found, Dev.Shaped.stk_enumDone, Dev.Shaped.stk_sats, Dev.Shaped.stk_out, Dev.Shaped.stk_lastFrame, Dev.Shaped.wr, Dev.Shaped.resetDomains, setAt_length, addAt_length, List.length_map, List.length_replicate, List.length_cons, List.length_nil, List.length_zipWith, List.length_range, List.length_append, List.length_drop, List.length_take, Nat.reduceSub, Nat.reduceLeDiff, Nat.min_eq_left, *, and_self, Nat.reduceAdd, Nat.zero_add]; done) | split))); clear_value x) | clear_value x) | (apply Reach.via (Dev.bufHeld_reach ..); decide) | (apply Reach.ite <;> intro) | simp -zeta -iota only [↓Reach.mk_eq] | split | (apply ReachMk.intro <;> first | exact .inr (by decide) | rfl | exact .inl rfl | (refine .inr ⟨by decide, fun hs he => ?_⟩; (repeat' (first | ((try simp only [Stk.Shaped] at *); simp +zetaDelta (maxDischargeDepth := 9) only [Stk.Shaped, Dev.Shaped.stk_found, Dev.Shaped.stk_enumDone, Dev.Shaped.stk_sats, Dev.Shaped.stk_out, Dev.Shaped.stk_lastFrame, Dev.Shaped.wr, Dev.Shaped.resetDomains, setAt_length, addAt_length, List.length_map, List.length_replicate, List.length_cons, List.length_nil, List.length_zipWith, List.length_range, List.length_append, List.length_drop, List.length_take, Nat.reduceSub, Nat.reduceLeDiff, Nat.min_eq_left, *, and_self, Nat.reduceAdd, Nat.zero_add]; done) | split)); done) | skip))

theorem Dev.balApply_reach (d : Dev) (s : Nat) : Reach (Part.regs ||| Part.fl) d (Dev.balApply d s) := by
  unfold Dev.balApply
  with_reducible repeat' (first | assumption | exact .refl _ | (extract_lets +onlyGivenNames x; first | (refine Reach.have (x := x) ?_ (fun hx hxs => ?_); unfold x; clear x; rotate_left; clear_value x) | clear_value x) | (apply Reach.wr'; decide) | (apply Reach.via (Dev.raise_reach ..); decide) | (apply Reach.via (Dev.wrB_reach ..); decide) | (apply Dev.forAll_reach <;> intros) | (apply Reach.ite <;> intro) | split)

theorem Dev.balDutyChanged_reach (d : Dev) (i : Nat) : Reach (Part.regs ||| Part.fl) d (Dev.balDutyChanged d i) := by
  unfold Dev.balDutyChanged
  with_reducible repeat' (first | assumption | exact .refl _ | (apply Reach.via (Dev.balApply_reach ..); decide) | (apply Dev.forAll_reach <;> intros) | split | dsimp only)

theorem Dev.chainGo_reach (d : Dev) (st : Nat) : Reach (Part.regs ||| Part.fl ||| Part.ce ||| Part.pwm ||| Part.out ||| Part.stk) d (Dev.chainGo d st) := by
  unfold Dev.chainGo
  with_reducible repeat' (first | assumption | exact .refl _ | (extract_lets +onlyGivenNames x; first | (refine Reach.have (x := x) ?_ (fun hx hxs => ?_); unfold x; clear x; rotate_left; clear_value x) | (have hf : List OutRt := x; clear hf; refine Reach.keep_out (x := x) ?_ (fun hx => ?_); (· intro hs; unfold x; clear x; (repeat' (first | (simp +zetaDelta (maxDischargeDepth := 9) only [Dev.Shaped.out, Dev.Shaped.wr, Dev.Shaped.resetDomains, setAt_length, addAt_length, List.length_map, List.length_replicate, List.length_cons, List.length_nil, List.length_zipWith, List.length_range, List.length_append, List.length_drop, List.length_take, Nat.reduceSub, Nat.reduceLeDiff, Nat.min_eq_left, *, and_self, Nat.reduceAdd, Nat.zero_add]; done) | split))); clear_value x) | (have hf : Stk := x; clear hf; refine Reach.keep_stk (x := x) ?_ (fun hx => ?_); (· intro hs; unfold x; clear x; (repeat' (first | ((try simp only [Stk.Shaped] at *); simp +zetaDelta (maxDischargeDepth := 9) only [Stk.Shaped, Dev.Shaped.stk_found, Dev.Shaped.stk_enumDone, Dev.Shaped.stk_sats, Dev.Shaped.stk_out, Dev.Shaped.stk_lastFrame, Dev.Shaped.wr, Dev.Shaped.resetDomains, setAt_length, addAt_length, List.length_map, List.length_replicate, List.length_cons, List.length_nil, List.length_zipWith, List.length_range, List.length_append, List.length_drop, List.length_take, Nat.reduceSub, Nat.reduceLeDiff, Nat.min_eq_left, *, and_self, Nat.reduceAdd, Nat.zero_add]; done) | split))); clear_value x) | clear_value x) | (apply Reach.wr'; decide) | (apply Reach.via (Dev.bufCause_reach ..); decide) | (apply Reach.via (Dev.raise_reach ..); decide) | (apply Reach.via (Dev.wrAll_reach ..); decide) | (apply Reach.ite <;> intro) | simp -zeta -iota only [↓Reach.mk_eq] | split | dsimp only | (apply ReachMk.intro <;> first | exact .inr (by decide) | rfl | exact .inl rfl | (refine .inr ⟨by decide, fun hs he => ?_⟩; (repeat' (first | (simp +zetaDelta (maxDischargeDepth := 9) only [Dev.Shaped.out, Dev.Shaped.wr, Dev.Shaped.resetDomains, setAt_length, addAt_length, List.length_map, List.length_replicate, List.length_cons, List.length_nil, List.length_zipWith, List.length_range, List.length_append, List.length_drop, List.length_take, Nat.reduceSub, Nat.reduceLeDiff, Nat.min_eq_left, *, and_self, Nat.reduceAdd, Nat.zero_add]; done) | split)); done) | (refine .inr ⟨by decide, fun hs he => ?_⟩; (repeat' (first | ((try simp only [Stk.Shaped] at *); simp +zetaDelta (maxDischargeDepth := 9) only [Stk.Shaped, Dev.Shaped.stk_found, Dev.Shaped.stk_enumDone, Dev.Shaped.stk_sats, Dev.Shaped.stk_out, Dev.Shaped.stk_lastFrame, Dev.Shaped.wr, Dev.Shaped.resetDomains, setAt_length, addAt_length, List.length_map, List.length_replicate, List.length_cons, List.length_nil, List.length_zipWith, List.length_range, List.length_append, List.length_drop, List.length_take, Nat.reduceSub, Nat.reduceLeDiff, Nat.min_eq_left, *, and_self, Nat.reduceAdd, Nat.zero_add]; done) | split)); done) | skip))

theorem Dev.chainWake_reach (d : Dev) : Reach (Part.regs ||| Part.fl ||| Part.ce ||| Part.pwm ||| Part.out ||| Part.stk) d (Dev.chainWake d) := by
  unfold Dev.chainWake
  with_reducible repeat' (first | assumption | exact .refl _ | (extract_lets +onlyGivenNames x; first | (refine Reach.have (x := x) ?_ (fun hx hxs => ?_); unfold x; clear x; rotate_left; clear_value x) | (have hf : List OutRt := x; clear hf; refine Reach.keep_out (x := x) ?_ (fun hx => ?_); (· intro hs; unfold x; clear x; (repeat' (first | (simp +zetaDelta (maxDischargeDepth := 9) only [Dev.Shaped.out, Dev.Shaped.wr, Dev.Shaped.resetDomains, setAt_length, addAt_length, List.length_map, List.length_replicate, List.length_cons, List.length_nil, List.length_zipWith, List.length_range, List.length_append, List.length_drop, List.length_take, Nat.reduceSub, Nat.reduceLeDiff, Nat.min_eq_left, *, and_self, Nat.reduceAdd, Nat.zero_add]; done) | split))); clear_value x) | (have hf : Stk := x; clear hf; refine Reach.keep_stk (x := x) ?_ (fun hx => ?_); (· intro hs; unfold x; clear x; (repeat' (first | ((try simp only [Stk.Shaped] at *); simp +zetaDelta (maxDischargeDepth := 9) only [Stk.Shaped, Dev.Shaped.stk_found, Dev.Shaped.stk_enumDone, Dev.Shaped.stk_sats, Dev.Shaped.stk_out, Dev.Shaped.stk_lastFrame, Dev.Shaped.wr, Dev.Shaped.resetDomains, setAt_length, addAt_length, List.length_map, List.length_replicate, List.length_cons, List.length_nil, List.length_zipWith, List.length_range, List.length_append, List.length_drop, List.length_take, Nat.reduceSub, Nat.reduceLeDiff, Nat.min_eq_left, *, and_self, Nat.reduceAdd, Nat.zero_add]; done) | split))); clear_value x) | clear_value x) | (apply Reach.wr'; decide) | (apply Reach.via (Dev.chainGo_reach ..); decide) | (apply Reach.via (Dev.splitShow_reach ..); decide) | (apply Reach.via (Dev.wrAll_reach ..); decide) | (apply Dev.forAll_reach <;> intros) | (apply Reach.ite <;> intro) | simp -zeta -iota only [↓Reach.mk_eq] | split | dsimp only | (apply ReachMk.intro <;> first | exact .inr (by decide) | rfl | exact .inl rfl | (refine .inr ⟨by decide, fun hs he => ?_⟩; (repeat' (first | (simp +zetaDelta (maxDischargeDepth := 9) only [Dev.Shaped.out, Dev.Shaped.wr, Dev.Shaped.resetDomains, setAt_length, addAt_length, List.length_map, List.length_replicate, List.length_cons, List.length_nil, List.length_zipWith, List.length_range, List.length_append, List.length_drop, List.length_take, Nat.reduceSub, Nat.reduceLeDiff, Nat.min_eq_left, *, and_self, Nat.reduceAdd, Nat.zero_add]; done) | split)); done) | (refine .inr ⟨by decide, fun hs he => ?_⟩; (repeat' (first | ((try simp only [Stk.Shaped] at *); simp +zetaDelta (maxDischargeDepth := 9) only [Stk.Shaped, Dev.Shaped.stk_found, Dev.Shaped.stk_enumDone, Dev.Shaped.stk_sats, Dev.Shaped.stk_out, Dev.Shaped.stk_lastFrame, Dev.Shaped.wr, Dev.Shaped.resetDomains, setAt_length, addAt_length, List.length_map, List.length_replicate, List.length_cons, List.length_nil, List.length_zipWith, List.length_range, List.length_append, List.length_drop, List.length_take, Nat.reduceSub, Nat.reduceLeDiff, Nat.min_eq_left, *, and_self, Nat.reduceAdd, Nat.zero_add]; done) | split)); done) | skip))

theorem Dev.chainStart_reach (d : Dev) : Reach (Part.regs ||| Part.fl ||| Part.ce ||| Part.pwm ||| Part.out ||| Part.stk) d (Dev.chainStart d) := by
  unfold Dev.chainStart
  with_reducible repeat' (first | assumption | exact .refl _ | (apply Reach.via (Dev.chainWake_reach ..); decide) | (apply Reach.ite <;> intro) | split | dsimp only)

theorem Dev.chainOff_reach (d : Dev) : Reach (Part.regs ||| Part.fl ||| Part.ce ||| Part.pwm ||| Part.out ||| Part.stk) d (Dev.chainOff d) := by
  unfold Dev.chainOff
  with_reducible repeat' (first | assumption | exact .refl _ | (extract_lets +onlyGivenNames x; first | (refine Reach.have (x := x) ?_ (fun hx hxs => ?_); unfold x; clear x; rotate_left; clear_value x) | (have hf : List OutRt := x; clear hf; refine Reach.keep_out (x := x) ?_ (fun hx => ?_); (· intro hs; unfold x; clear x; (repeat' (first | (simp +zetaDelta (maxDischargeDepth := 9) only [Reach.shaped (Dev.chainGo_reach ..), Reach.shaped (Dev.chainStart_reach ..), Dev.Shaped.out, Dev.Shaped.wr, Dev.Shaped.resetDomains, setAt_length, addAt_length, List.length_map, List.length_replicate, List.length_cons, List.length_nil, List.length_zipWith, List.length_range, List.length_append, List.length_drop, List.length_take, Nat.reduceSub, Nat.reduceLeDiff, Nat.min_eq_left, *, and_self, Nat.reduceAdd, Nat.zero_add]; done) | split))); clear_value x) | (have hf : Stk := x; clear hf; refine Reach.keep_stk (x := x) ?_ (fun hx => ?_); (· intro hs; unfold x; clear x; (repeat' (first | ((try simp only [Stk.Shaped] at *); simp +zetaDelta (maxDischargeDepth := 9) only [Reach.shaped (Dev.chainGo_reach ..), Reach.shaped (Dev.chainStart_reach ..), Stk.Shaped, Dev.Shaped.stk_found, Dev.Shaped.stk_enumDone, Dev.Shaped.stk_sats, Dev.Shaped.stk_out, Dev.Shaped.stk_lastFrame, Dev.Shaped.wr, Dev.Shaped.resetDomains, setAt_length, addAt_length, List.length_map, List.length_replicate, List.length_cons, List.length_nil, List.length_zipWith, List.length_range, List.length_append, List.length_drop, List.length_take, Nat.reduceSub, Nat.reduceLeDiff, Nat.min_eq_left, *, and_self, Nat.reduceAdd, Nat.zero_add]; done) | split))); clear_value x) | clear_value x) | (apply Reach.wr'; decide) | (apply Reach.via (Dev.chainGo_reach ..); decide) | (apply Reach.via (Dev.chainStart_reach ..); decide) | (apply Reach.ite <;> intro) | simp -zeta -iota only [↓Reach.mk_eq] | split | dsimp only | (apply ReachMk.intro <;> first | exact .inr (by decide) | rfl | exact .inl rfl | (refine .inr ⟨by decide, fun hs he => ?_⟩; (repeat' (first | (simp +zetaDelta (maxDischargeDepth := 9) only [Reach.shaped (Dev.chainGo_reach ..), Reach.shaped (Dev.chainStart_reach ..), Dev.Shaped.out, Dev.Shaped.wr, Dev.Shaped.resetDomains, setAt_length, addAt_length, List.length_map, List.length_replicate, List.length_cons, List.length_nil, List.length_zipWith, List.length_range, List.length_append, List.length_drop, List.length_take, Nat.reduceSub, Nat.reduceLeDiff, Nat.min_eq_left, *, and_self, Nat.reduceAdd, Nat.zero_add]; done) | split)); done) | (refine .inr ⟨by decide, fun hs he => ?_⟩; (repeat' (first | ((try simp only [Stk.Shaped] at *); simp +zetaDelta (maxDischargeDepth := 9) only [Reach.shaped (Dev.chainGo_reach ..), Reach.shaped (Dev.chainStart_reach ..), Stk.Shaped, Dev.Shaped.stk_found, Dev.Shaped.stk_enumDone, Dev.Shaped.stk_sats, Dev.Shaped.stk_out, Dev.Shaped.stk_lastFrame, Dev.Shaped.wr, Dev.Shaped.resetDomains, setAt_length, addAt_length, List.length_map, List.length_replicate, List.length_cons, List.length_nil, List.length_zipWith, List.length_range, List.length_append, List.length_drop, List.length_take, Nat.reduceSub, Nat.reduceLeDiff, Nat.min_eq_left, *, and_self, Nat.reduceAdd, Nat.zero_add]; done) | split)); done) | skip))

theorem Dev.chainClose_reach (d : Dev) : Reach (Part.regs ||| Part.fl ||| Part.ce ||| Part.pwm ||| Part.out ||| Part.stk) d (Dev.chainClose d) := by
  unfold Dev.chainClose
  with_reducible repeat' (first | assumption | exact .refl _ | (extract_lets +onlyGivenNames x; first | (refine Reach.have (x := x) ?_ (fun hx hxs => ?_); unfold x; clear x; rotate_left; clear_value x) | (have hf : Stk := x; clear hf; refine Reach.keep_stk (x := x) ?_ (fun hx => ?_); (· intro hs; unfold x; clear x; (repeat' (first | ((try simp only [Stk.Shaped] at *); simp +zetaDelta (maxDischargeDepth := 9) only [Stk.Shaped, Dev.Shaped.stk_found, Dev.Shaped.stk_enumDone, Dev.Shaped.stk_sats, Dev.Shaped.stk_out, Dev.Shaped.stk_lastFrame, Dev.Shaped.wr, Dev.Shaped.resetDomains, setAt_length, addAt_length, List.length_map, List.length_replicate, List.length_cons, List.length_nil, List.length_zipWith, List.length_range, List.length_append, List.length_drop, List.length_take, Nat.reduceSub, Nat.reduceLeDiff, Nat.min_eq_left, *, and_self, Nat.reduceAdd, Nat.zero_add]; done) | split))); clear_value x) | clear_value x) | (apply Reach.via (Dev.chainOff_reach ..); decide) | (apply Reach.ite <;> intro) | simp -zeta -iota only [↓Reach.mk_eq] | split | (apply ReachMk.intro <;> first | exact .inr (by decide) | rfl | exact .inl rfl | (refine .inr ⟨by decide, fun hs he => ?_⟩; (repeat' (first | ((try simp only [Stk.Shaped] at *); simp +zetaDelta (maxDischargeDepth := 9) only [Stk.Shaped, Dev.Shaped.stk_found, Dev.Shaped.stk_enumDone, Dev.Shaped.stk_sats, Dev.Shaped.stk_out, Dev.Shaped.stk_lastFrame, Dev.Shaped.wr, Dev.Shaped.resetDomains, setAt_length, addAt_length, List.length_map, List.length_replicate, List.length_cons, List.length_nil, List.length_zipWith, List.length_range, List.length_append, List.length_drop, List.length_take, Nat.reduceSub, Nat.reduceLeDiff, Nat.min_eq_left, *, and_self, Nat.reduceAdd, Nat.zero_add]; done) | split)); done) | skip))

theorem Dev.stkEnable_reach (d : Dev) (en : Bool) : Reach (Part.regs ||| Part.fl ||| Part.st ||| Part.ce ||| Part.pwm ||| Part.out ||| Part.stk) d (Dev.stkEnable d en) := by
  unfold Dev.stkEnable
  with_reducible repeat' (first | assumption | exact .refl _ | (extract_lets +onlyGivenNames x; first | (refine Reach.have (x := x) ?_ (fun hx hxs => ?_); unfold x; clear x; rotate_left; clear_value x) | clear_value x) | (apply Reach.wr'; decide) | (apply Reach.via (Dev.chainClose_reach ..); decide) | (apply Reach.via (Dev.chainStart_reach ..); decide) | (apply Reach.via (Dev.wrB_reach ..); decide) | (apply Reach.ite <;> intro) | split | dsimp only)

theorem Dev.stkConfigured_reach (d : Dev) : Reach (Part.regs ||| Part.fl ||| Part.st ||| Part.ce ||| Part.pwm ||| Part.out ||| Part.stk) d (Dev.stkConfigured d) := by
  unfold Dev.stkConfigured
  with_reducible repeat' (first | assumption | exact .refl _ | (extract_lets +onlyGivenNames x; first | (refine Reach.have (x := x) ?_ (fun hx hxs => ?_); unfold x; clear x; rotate_left; clear_value x) | clear_value x) | (apply Reach.wr'; decide) | (apply Reach.via (Dev.bufSync_reach ..); decide) | (apply Reach.via (Dev.chainStart_reach ..); decide) | (apply Reach.ite <;> intro) | split | dsimp only)

theorem Dev.chainRewake_reach (d : Dev) : Reach (Part.regs ||| Part.fl ||| Part.tm ||| Part.ce ||| Part.pwm ||| Part.out ||| Part.stk) d (Dev.chainRewake d) := by
  unfold Dev.chainRewake
  with_reducible repeat' (first | assumption | exact .refl _ | (apply Reach.via (Dev.advanceTo_reach ..); decide) | (apply Reach.via (Dev.chainWake_reach ..); decide) | (apply Reach.ite <;> intro) | split | dsimp only)

theorem Dev.stkWake_reach (d : Dev) : Reach (Part.regs ||| Part.fl ||| Part.tm ||| Part.ce ||| Part.pwm ||| Part.out ||| Part.stk) d (Dev.stkWake d) := by
  unfold Dev.stkWake
  with_reducible repeat' (first | assumption | exact .refl _ | (extract_lets +onlyGivenNames x; first | (refine Reach.have (x := x) ?_ (fun hx hxs => ?_); unfold x; clear x; rotate_left; clear_value x) | (have hf : Stk := x; clear hf; refine Reach.keep_stk (x := x) ?_ (fun hx => ?_); (· intro hs; unfold x; clear x; (repeat' (first | ((try simp only [Stk.Shaped] at *); simp +zetaDelta (maxDischargeDepth := 9) only [Stk.Shaped, Dev.Shaped.stk_found, Dev.Shaped.stk_enumDone, Dev.Shaped.stk_sats, Dev.Shaped.stk_out, Dev.Shaped.stk_lastFrame, Dev.Shaped.wr, Dev.Shaped.resetDomains, setAt_length, addAt_length, List.length_map, List.length_replicate, List.length_cons, List.length_nil, List.length_zipWith, List.length_range, List.length_append, List.length_drop, List.length_take, Nat.reduceSub, Nat.reduceLeDiff, Nat.min_eq_left, *, and_self, Nat.reduceAdd, Nat.zero_add]; done) | split))); clear_value x) | clear_value x) | (apply Reach.via (Dev.chainRewake_reach ..); decide) | (apply Reach.ite <;> intro) | simp -zeta -iota only [↓Reach.mk_eq] | split | (apply ReachMk.intro <;> first | exact .inr (by decide) | rfl | exact .inl rfl | (refine .inr ⟨by decide, fun hs he => ?_⟩; (repeat' (first | ((try simp only [Stk.Shaped] at *); simp +zetaDelta (maxDischargeDepth := 9) only [Stk.Shaped, Dev.Shaped.stk_found, Dev.Shaped.stk_enumDone, Dev.Shaped.stk_sats, Dev.Shaped.stk_out, Dev.Shaped.stk_lastFrame, Dev.Shaped.wr, Dev.Shaped.resetDomains, setAt_length, addAt_length, List.length_map, List.length_replicate, List.length_cons, List.length_nil, List.length_zipWith, List.length_range, List.length_append, List.length_drop, List.length_take, Nat.reduceSub, Nat.reduceLeDiff, Nat.min_eq_left, *, and_self, Nat.reduceAdd, Nat.zero_add]; done) | split)); done) | skip))

theorem Dev.chainAwake_reach (d : Dev) : Reach (Part.regs ||| Part.fl ||| Part.ce ||| Part.pwm ||| Part.out ||| Part.stk) d (Dev.chainAwake d) := by
  unfold Dev.chainAwake
  with_reducible repeat' (first | assumption | exact .refl _ | (apply Reach.via (Dev.chainGo_reach ..); decide) | (apply Reach.ite <;> intro) | split | dsimp only)

theorem Dev.enumComplete_reach (d : Dev) : Reach (Part.regs ||| Part.fl ||| Part.ce ||| Part.pwm ||| Part.out ||| Part.stk) d (Dev.enumComplete d) := by
  unfold Dev.enumComplete
  with_reducible repeat' (first | assumption | exact .refl _ | (extract_lets +onlyGivenNames x; first | (refine Reach.have (x := x) ?_ (fun hx hxs => ?_); unfold x; clear x; rotate_left; clear_value x) | (have hf : List OutRt := x; clear hf; refine Reach.keep_out (x := x) ?_ (fun hx => ?_); (· intro hs; unfold x; clear x; (repeat' (first | (simp +zetaDelta (maxDischargeDepth := 9) only [Dev.Shaped.out, Dev.Shaped.wr, Dev.Shaped.resetDomains, setAt_length, addAt_length, List.length_map, List.length_replicate, List.length_cons, List.length_nil, List.length_zipWith, List.length_range, List.length_append, List.length_drop, List.length_take, Nat.reduceSub, Nat.reduceLeDiff, Nat.min_eq_left, *, and_self, Nat.reduceAdd, Nat.zero_add]; done) | split))); clear_value x) | (have hf : Stk := x; clear hf; refine Reach.keep_stk (x := x) ?_ (fun hx => ?_); (· intro hs; unfold x; clear x; (repeat' (first | ((try simp only [Stk.Shaped] at *); simp +zetaDelta (maxDischargeDepth := 9) only [Stk.Shaped, Dev.Shaped.stk_found, Dev.Shaped.stk_enumDone, Dev.Shaped.stk_sats, Dev.Shaped.stk_out, Dev.Shaped.stk_lastFrame, Dev.Shaped.wr, Dev.Shaped.resetDomains, setAt_length, addAt_length, List.length_map, List.length_replicate, List.length_cons, List.length_nil, List.length_zipWith, List.length_range, List.length_append, List.length_drop, List.length_take, Nat.reduceSub, Nat.reduceLeDiff, Nat.min_eq_left, *, and_self, Nat.reduceAdd, Nat.zero_add]; done) | split))); clear_value x) | clear_value x) | (apply Reach.wr'; decide) | (apply Reach.via (Dev.chainGo_reach ..); decide) | (apply Dev.forAll_reach <;> intros) | (apply Reach.ite <;> intro) | simp -zeta -iota only [↓Reach.mk_eq] | split | dsimp only | (apply ReachMk.intro <;> first | exact .inr (by decide) | rfl | exact .inl rfl | (refine .inr ⟨by decide, fun hs he => ?_⟩; (repeat' (first | (simp +zetaDelta (maxDischargeDepth := 9) only [Dev.Shaped.out, Dev.Shaped.wr, Dev.Shaped.resetDomains, setAt_length, addAt_length, List.length_map, List.length_replicate, List.length_cons, List.length_nil, List.length_zipWith, List.length_range, List.length_append, List.length_drop, List.length_take, Nat.reduceSub, Nat.reduceLeDiff, Nat.min_eq_left, *, and_self, Nat.reduceAdd, Nat.zero_add]; done) | split)); done) | (refine .inr ⟨by decide, fun hs he => ?_⟩; (repeat' (first | ((try simp only [Stk.Shaped] at *); simp +zetaDelta (maxDischargeDepth := 9) only [Stk.Shaped, Dev.Shaped.stk_found, Dev.Shaped.stk_enumDone, Dev.Shaped.stk_sats, Dev.Shaped.stk_out, Dev.Shaped.stk_lastFrame, Dev.Shaped.wr, Dev.Shaped.resetDomains, setAt_length, addAt_length, List.length_map, List.length_replicate, List.length_cons, List.length_nil, List.length_zipWith, List.length_range, List.length_append, List.length_drop, List.length_take, Nat.reduceSub, Nat.reduceLeDiff, Nat.min_eq_left, *, and_self, Nat.reduceAdd, Nat.zero_add]; done) | split)); done) | skip))

theorem Dev.chainPut_reach (d : Dev) (e : Nat) (f : List Byte) : Reach (Part.stk) d (Dev.chainPut d e f) := by
  unfold Dev.chainPut
  with_reducible repeat' (first | assumption | exact .refl _ | (extract_lets +onlyGivenNames x; first | (have hf : Stk := x; clear hf; refine Reach.keep_stk (x := x) ?_ (fun hx => ?_); (· intro hs; unfold x; clear x; (repeat' (first | ((try simp only [Stk.Shaped] at *); simp +zetaDelta (maxDischargeDepth := 9) only [Stk.Shaped, Dev.Shaped.stk_found, Dev.Shaped.stk_enumDone, Dev.Shaped.stk_sats, Dev.Shaped.stk_out, Dev.Shaped.stk_lastFrame, Dev.Shaped.wr, Dev.Shaped.resetDomains, setAt_length, addAt_length, List.length_map, List.length_replicate, List.length_cons, List.length_nil, List.length_zipWith, List.length_range, List.length_append, List.length_drop, List.length_take, Nat.reduceSub, Nat.reduceLeDiff, Nat.min_eq_left, *, and_self, Nat.reduceAdd, Nat.zero_add]; done) | split))); clear_value x) | clear_value x) | simp -zeta -iota only [↓Reach.mk_eq] | (apply ReachMk.intro <;> first | exact .inr (by decide) | rfl | exact .inl rfl | (refine .inr ⟨by decide, fun hs he => ?_⟩; (repeat' (first | ((try simp only [Stk.Shaped] at *); simp +zetaDelta (maxDischargeDepth := 9) only [Stk.Shaped, Dev.Shaped.stk_found, Dev.Shaped.stk_enumDone, Dev.Shaped.stk_sats, Dev.Shaped.stk_out, Dev.Shaped.stk_lastFrame, Dev.Shaped.wr, Dev.Shaped.resetDomains, setAt_length, addAt_length, List.length_map, List.length_replicate, List.length_cons, List.length_nil, List.length_zipWith, List.length_range, List.length_append, List.length_drop, List.length_take, Nat.reduceSub, Nat.reduceLeDiff, Nat.min_eq_left, *, and_self, Nat.reduceAdd, Nat.zero_add]; done) | split)); done) | skip))

theorem Dev.chainSend_reach (d : Dev) (e s code : Nat) (payload : List Byte) : Reach (Part.out ||| Part.stk) d (Dev.chainSend d e s code payload) := by
  unfold Dev.chainSend
  with_reducible repeat' (first | assumption | exact .refl _ | (extract_lets +onlyGivenNames x; first | (refine Reach.have (x := x) ?_ (fun hx hxs => ?_); unfold x; clear x; rotate_left; clear_value x) | (have hf : List OutRt := x; clear hf; refine Reach.keep_out (x := x) ?_ (fun hx => ?_); (· intro hs; unfold x; clear x; (repeat' (first | (simp +zetaDelta (maxDischargeDepth := 9) only [Dev.Shaped.out, Dev.Shaped.wr, Dev.Shaped.resetDomains, setAt_length, addAt_length, List.length_map, List.length_replicate, List.length_cons, List.length_nil, List.length_zipWith, List.length_range, List.length_append, List.length_drop, List.length_take, Nat.reduceSub, Nat.reduceLeDiff, Nat.min_eq_left, *, and_self, Nat.reduceAdd, Nat.zero_add]; done) | split))); clear_value x) | (have hf : Stk := x; clear hf; refine Reach.keep_stk (x := x) ?_ (fun hx => ?_); (· intro hs; unfold x; clear x; (repeat' (first | ((try simp only [Stk.Shaped] at *); simp +zetaDelta (maxDischargeDepth := 9) only [Stk.Shaped, Dev.Shaped.stk_found, Dev.Shaped.stk_enumDone, Dev.Shaped.stk_sats, Dev.Shaped.stk_out, Dev.Shaped.stk_lastFrame, Dev.Shaped.wr, Dev.Shaped.resetDomains, setAt_length, addAt_length, List.length_map, List.length_replicate, List.length_cons, List.length_nil, List.length_zipWith, List.length_range, List.length_append, List.length_drop, List.length_take, Nat.reduceSub, Nat.reduceLeDiff, Nat.min_eq_left, *, and_self, Nat.reduceAdd, Nat.zero_add]; done) | split))); clear_value x) | clear_value x) | (apply Reach.via (Dev.chainPut_reach ..); decide) | (apply Reach.via (Dev.setSat_reach ..); decide) | (apply Reach.ite <;> intro) | simp -zeta -iota only [↓Reach.mk_eq] | split | dsimp only | (apply ReachMk.intro <;> first | exact .inr (by decide) | rfl | exact .inl rfl | (refine .inr ⟨by decide, fun hs he => ?_⟩; (repeat' (first | (simp +zetaDelta (maxDischargeDepth := 9) only [Dev.Shaped.out, Dev.Shaped.wr, Dev.Shaped.resetDomains, setAt_length, addAt_length, List.length_map, List.length_replicate, List.length_cons, List.length_nil, List.length_zipWith, List.length_range, List.length_append, List.length_drop, List.length_take, Nat.reduceSub, Nat.reduceLeDiff, Nat.min_eq_left, *, and_self, Nat.reduceAdd, Nat.zero_add]; done) | split)); done) | (refine .inr ⟨by decide, fun hs he => ?_⟩; (repeat' (first | ((try simp only [Stk.Shaped] at *); simp +zetaDelta (maxDischargeDepth := 9) only [Stk.Shaped, Dev.Shaped.stk_found, Dev.Shaped.stk_enumDone, Dev.Shaped.stk_sats, Dev.Shaped.stk_out, Dev.Shaped.stk_lastFrame, Dev.Shaped.wr, Dev.Shaped.resetDomains, setAt_length, addAt_length, List.length_map, List.length_replicate, List.length_cons, List.length_nil, List.length_zipWith, List.length_range, List.length_append, List.length_drop, List.length_take, Nat.reduceSub, Nat.reduceLeDiff, Nat.min_eq_left, *, and_self, Nat.reduceAdd, Nat.zero_add]; done) | split)); done) | skip))

theorem Dev.chainCast_reach (d : Dev) (e code : Nat) (payload : List Byte) : Reach (Part.stk) d (Dev.chainCast d e code payload) := by
  unfold Dev.chainCast
  with_reducible repeat' (first | assumption | exact .refl _ | (extract_lets +onlyGivenNames x; first | (refine Reach.have (x := x) ?_ (fun hx hxs => ?_); unfold x; clear x; rotate_left; clear_value x) | clear_value x) | (apply Reach.via (Dev.chainPut_reach ..); decide) | (apply Reach.ite <;> intro) | split | dsimp only)

theorem Dev.chainCastAll_reach (d : Dev) (code : Nat) (payload : List Byte) : Reach (Part.stk) d (Dev.chainCastAll d code payload) := by
  unfold Dev.chainCastAll
  with_reducible repeat' (first | assumption | exact .refl _ | (apply Reach.via (Dev.chainCast_reach ..); decide) | (apply Dev.forAll_reach <;> intros) | (apply Reach.ite <;> intro) | split | dsimp only)

theorem Dev.chainEnum_reach (d : Dev) (e : Nat) : Reach (Part.out ||| Part.stk) d (Dev.chainEnum d e) := by
  unfold Dev.chainEnum
  with_reducible repeat' (first | assumption | exact .refl _ | (extract_lets +onlyGivenNames x; first | (refine Reach.have (x := x) ?_ (fun hx hxs => ?_); unfold x; clear x; rotate_left; clear_value x) | (have hf : List OutRt := x; clear hf; refine Reach.keep_out (x := x) ?_ (fun hx => ?_); (· intro hs; unfold x; clear x; (repeat' (first | (simp +zetaDelta (maxDischargeDepth := 9) only [Dev.Shaped.out, Dev.Shaped.wr, Dev.Shaped.resetDomains, setAt_length, addAt_length, List.length_map, List.length_replicate, List.length_cons, List.length_nil, List.length_zipWith, List.length_range, List.length_append, List.length_drop, List.length_take, Nat.reduceSub, Nat.reduceLeDiff, Nat.min_eq_left, *, and_self, Nat.reduceAdd, Nat.zero_add]; done) | split))); clear_value x) | (have hf : Stk := x; clear hf; refine Reach.keep_stk (x := x) ?_ (fun hx => ?_); (· intro hs; unfold x; clear x; (repeat' (first | ((try simp only [Stk.Shaped] at *); simp +zetaDelta (maxDischargeDepth := 9) only [Stk.Shaped, Dev.Shaped.stk_found, Dev.Shaped.stk_enumDone, Dev.Shaped.stk_sats, Dev.Shaped.stk_out, Dev.Shaped.stk_lastFrame, Dev.Shaped.wr, Dev.Shaped.resetDomains, setAt_length, addAt_length, List.length_map, List.length_replicate, List.length_cons, List.length_nil, List.length_zipWith, List.length_range, List.length_append, List.length_drop, List.length_take, Nat.reduceSub, Nat.reduceLeDiff, Nat.min_eq_left, *, and_self, Nat.reduceAdd, Nat.zero_add]; done) | split))); clear_value x) | clear_value x) | (apply Reach.via (Dev.chainPut_reach ..); decide) | (apply Reach.ite <;> intro) | simp -zeta -iota only [↓Reach.mk_eq] | split | dsimp only | (apply ReachMk.intro <;> first | exact .inr (by decide) | rfl | exact .inl rfl | (refine .inr ⟨by decide, fun hs he => ?_⟩; (repeat' (first | (simp +zetaDelta (maxDischargeDepth := 9) only [Dev.Shaped.out, Dev.Shaped.wr, Dev.Shaped.resetDomains, setAt_length, addAt_length, List.length_map, List.length_replicate, List.length_cons, List.length_nil, List.length_zipWith, List.length_range, List.length_append, List.length_drop, List.length_take, Nat.reduceSub, Nat.reduceLeDiff, Nat.min_eq_left, *, and_self, Nat.reduceAdd, Nat.zero_add]; done) | split)); done) | (refine .inr ⟨by decide, fun hs he => ?_⟩; (repeat' (first | ((try simp only [Stk.Shaped] at *); simp +zetaDelta (maxDischargeDepth := 9) only [Stk.Shaped, Dev.Shaped.stk_found, Dev.Shaped.stk_enumDone, Dev.Shaped.stk_sats, Dev.Shaped.stk_out, Dev.Shaped.stk_lastFrame, Dev.Shaped.wr, Dev.Shaped.resetDomains, setAt_length, addAt_length, List.length_map, List.length_replicate, List.length_cons, List.length_nil, List.length_zipWith, List.length_range, List.length_append, List.length_drop, List.length_take, Nat.reduceSub, Nat.reduceLeDiff, Nat.min_eq_left, *, and_self, Nat.reduceAdd, Nat.zero_add]; done) | split)); done) | skip))

theorem Dev.chainNop_reach (d : Dev) (s : Nat) : Reach (Part.out ||| Part.stk) d (Dev.chainNop d s) := by
  unfold Dev.chainNop
  with_reducible repeat' (first | assumption | exact .refl _ | (extract_lets +onlyGivenNames x; first | (refine Reach.have (x := x) ?_ (fun hx hxs => ?_); unfold x; clear x; rotate_left; clear_value x) | clear_value x) | (apply Reach.via (Dev.chainSend_reach ..); decide) | (apply Reach.ite <;> intro) | split)

theorem Dev.chainEcho_reach (d : Dev) (e s : Nat) : Reach (Part.out ||| Part.stk) d (Dev.chainEcho d e s) := by
  unfold Dev.chainEcho
  with_reducible repeat' (first | assumption | exact .refl _ | (apply Reach.via (Dev.chainSend_reach ..); decide) | (apply Reach.ite <;> intro) | split)

theorem Dev.chainCfg_reach (d : Dev) (s : Nat) : Reach (Part.out ||| Part.stk) d (Dev.chainCfg d s) := by
  unfold Dev.chainCfg
  with_reducible repeat' (first | assumption | exact .refl _ | (extract_lets +onlyGivenNames x; first | (refine Reach.have (x := x) ?_ (fun hx hxs => ?_); unfold x; clear x; rotate_left; clear_value x) | clear_value x) | (apply Reach.via (Dev.chainSend_reach ..); decide) | (apply Reach.ite <;> intro) | split | dsimp only)

theorem Dev.snapClose_reach (d : Dev) : Reach (Part.regs ||| Part.stk) d (Dev.snapClose d) := by
  unfold Dev.snapClose
  with_reducible repeat' (first | assumption | exact .refl _ | (extract_lets +onlyGivenNames x; first | (refine Reach.have (x := x) ?_ (fun hx hxs => ?_); unfold x; clear x; rotate_left; clear_value x) | (have hf : Stk := x; clear hf; refine Reach.keep_stk (x := x) ?_ (fun hx => ?_); (· intro hs; unfold x; clear x; (repeat' (first | ((try simp only [Stk.Shaped] at *); simp +zetaDelta (maxDischargeDepth := 9) only [Stk.Shaped, Dev.Shaped.stk_found, Dev.Shaped.stk_enumDone, Dev.Shaped.stk_sats, Dev.Shaped.stk_out, Dev.Shaped.stk_lastFrame, Dev.Shaped.wr, Dev.Shaped.resetDomains, setAt_length, addAt_length, List.length_map, List.length_replicate, List.length_cons, List.length_nil, List.length_zipWith, List.length_range, List.length_append, List.length_drop, List.length_take, Nat.reduceSub, Nat.reduceLeDiff, Nat.min_eq_left, *, and_self, Nat.reduceAdd, Nat.zero_add]; done) | split))); clear_value x) | clear_value x) | (apply Reach.wr'; decide) | (apply Dev.forAll_reach <;> intros) | (apply Reach.ite <;> intro) | simp -zeta -iota only [↓Reach.mk_eq] | split | dsimp only | (apply ReachMk.intro <;> first | exact .inr (by decide) | rfl | exact .inl rfl | (refine .inr ⟨by decide, fun hs he => ?_⟩; (repeat' (first | ((try simp only [Stk.Shaped] at *); simp +zetaDelta (maxDischargeDepth := 9) only [Stk.Shaped, Dev.Shaped.stk_found, Dev.Shaped.stk_enumDone, Dev.Shaped.stk_sats, Dev.Shaped.stk_out, Dev.Shaped.stk_lastFrame, Dev.Shaped.wr, Dev.Shaped.resetDomains, setAt_length, addAt_length, List.length_map, List.length_replicate, List.length_cons, List.length_nil, List.length_zipWith, List.length_range, List.length_append, List.length_drop, List.length_take, Nat.reduceSub, Nat.reduceLeDiff, Nat.min_eq_left, *, and_self, Nat.reduceAdd, Nat.zero_add]; done) | split)); done) | skip))

theorem Dev.chainSnap_reach (d : Dev) : Reach (Part.regs ||| Part.tm ||| Part.out ||| Part.stk) d (Dev.chainSnap d) := by
  unfold Dev.chainSnap
  with_reducible repeat' (first | assumption | exact .refl _ | (extract_lets +onlyGivenNames x; first | (refine Reach.have (x := x) ?_ (fun hx hxs => ?_); unfold x; clear x; rotate_left; clear_value x) | (have hf : List OutRt := x; clear hf; refine Reach.keep_out (x := x) ?_ (fun hx => ?_); (· intro hs; unfold x; clear x; (repeat' (first | (simp +zetaDelta (maxDischargeDepth := 9) only [Dev.Shaped.out, Dev.Shaped.wr, Dev.Shaped.resetDomains, setAt_length, addAt_length, List.length_map, List.length_replicate, List.length_cons, List.length_nil, List.length_zipWith, List.length_range, List.length_append, List.length_drop, List.length_take, Nat.reduceSub, Nat.reduceLeDiff, Nat.min_eq_left, *, and_self, Nat.reduceAdd, Nat.zero_add]; done) | split))); clear_value x) | (have hf : Stk := x; clear hf; refine Reach.keep_stk (x := x) ?_ (fun hx => ?_); (· intro hs; unfold x; clear x; (repeat' (first | ((try simp only [Stk.Shaped] at *); simp +zetaDelta (maxDischargeDepth := 9) only [Stk.Shaped, Dev.Shaped.stk_found, Dev.Shaped.stk_enumDone, Dev.Shaped.stk_sats, Dev.Shaped.stk_out, Dev.Shaped.stk_lastFrame, Dev.Shaped.wr, Dev.Shaped.resetDomains, setAt_length, addAt_length, List.length_map, List.length_replicate, List.length_cons, List.length_nil, List.length_zipWith, List.length_range, List.length_append, List.length_drop, List.length_take, Nat.reduceSub, Nat.reduceLeDiff, Nat.min_eq_left, *, and_self, Nat.reduceAdd, Nat.zero_add]; done) | split))); clear_value x) | clear_value x) | (apply Reach.wr'; decide) | (apply Reach.via (Dev.advanceTo_reach ..); decide) | (apply Reach.via (Dev.chainCastAll_reach ..); decide) | (apply Reach.via (Dev.snapClose_reach ..); decide) | (apply Reach.via (Dev.wrB_reach ..); decide) | (apply Reach.ite <;> intro) | simp -zeta -iota only [↓Reach.mk_eq] | split | dsimp only | (apply ReachMk.intro <;> first | exact .inr (by decide) | rfl | exact .inl rfl | (refine .inr ⟨by decide, fun hs he => ?_⟩; (repeat' (first | (simp +zetaDelta (maxDischargeDepth := 9) only [Dev.Shaped.out, Dev.Shaped.wr, Dev.Shaped.resetDomains, setAt_length, addAt_length, List.length_map, List.length_replicate, List.length_cons, List.length_nil, List.length_zipWith, List.length_range, List.length_append, List.length_drop, List.length_take, Nat.reduceSub, Nat.reduceLeDiff, Nat.min_eq_left, *, and_self, Nat.reduceAdd, Nat.zero_add]; done) | split)); done) | (refine .inr ⟨by decide, fun hs he => ?_⟩; (repeat' (first | ((try simp only [Stk.Shaped] at *); simp +zetaDelta (maxDischargeDepth := 9) only [Stk.Shaped, Dev.Shaped.stk_found, Dev.Shaped.stk_enumDone, Dev.Shaped.stk_sats, Dev.Shaped.stk_out, Dev.Shaped.stk_lastFrame, Dev.Shaped.wr, Dev.Shaped.resetDomains, setAt_length, addAt_length, List.length_map, List.length_replicate, List.length_cons, List.length_nil, List.length_zipWith, List.length_range, List.length_append, List.length_drop, List.length_take, Nat.reduceSub, Nat.reduceLeDiff, Nat.min_eq_left, *, and_self, Nat.reduceAdd, Nat.zero_add]; done) | split)); done) | skip))

theorem Dev.chainRead_reach (d : Dev) (e : Nat) : Reach (Part.tm ||| Part.out ||| Part.stk) d (Dev.chainRead d e) := by
  unfold Dev.chainRead
  with_reducible repeat' (first | assumption | exact .refl _ | (extract_lets +onlyGivenNames x; first | (refine Reach.have (x := x) ?_ (fun hx hxs => ?_); unfold x; clear x; rotate_left; clear_value x) | (have hf : Stk := x; clear hf; refine Reach.keep_stk (x := x) ?_ (fun hx => ?_); (· intro hs; unfold x; clear x; (repeat' (first | ((try simp only [Stk.Shaped] at *); simp +zetaDelta (maxDischargeDepth := 9) only [Stk.Shaped, Dev.Shaped.stk_found, Dev.Shaped.stk_enumDone, Dev.Shaped.stk_sats, Dev.Shaped.stk_out, Dev.Shaped.stk_lastFrame, Dev.Shaped.wr, Dev.Shaped.resetDomains, setAt_length, addAt_length, List.length_map, List.length_replicate, List.length_cons, List.length_nil, List.length_zipWith, List.length_range, List.length_append, List.length_drop, List.length_take, Nat.reduceSub, Nat.reduceLeDiff, Nat.min_eq_left, *, and_self, Nat.reduceAdd, Nat.zero_add]; done) | split))); clear_value x) | clear_value x) | (apply Reach.via (Dev.advanceTo_reach ..); decide) | (apply Reach.via (Dev.chainSend_reach ..); decide) | (apply Reach.ite <;> intro) | simp -zeta -iota only [↓Reach.mk_eq] | split | dsimp only | (apply ReachMk.intro <;> first | exact .inr (by decide) | rfl | exact .inl rfl | (refine .inr ⟨by decide, fun hs he => ?_⟩; (repeat' (first | ((try simp only [Stk.Shaped] at *); simp +zetaDelta (maxDischargeDepth := 9) only [Stk.Shaped, Dev.Shaped.stk_found, Dev.Shaped.stk_enumDone, Dev.Shaped.stk_sats, Dev.Shaped.stk_out, Dev.Shaped.stk_lastFrame, Dev.Shaped.wr, Dev.Shaped.resetDomains, setAt_length, addAt_length, List.length_map, List.length_replicate, List.length_cons, List.length_nil, List.length_zipWith, List.length_range, List.length_append, List.length_drop, List.length_take, Nat.reduceSub, Nat.reduceLeDiff, Nat.min_eq_left, *, and_self, Nat.reduceAdd, Nat.zero_add]; done) | split)); done) | skip))

theorem Dev.chainBal_reach (d : Dev) (e : Nat) : Reach (Part.out ||| Part.stk) d (Dev.chainBal d e) := by
  unfold Dev.chainBal
  with_reducible repeat' (first | assumption | exact .refl _ | (extract_lets +onlyGivenNames x; clear_value x) | (apply Reach.via (Dev.chainSend_reach ..); decide) | (apply Reach.ite <;> intro) | simp -zeta -iota only [↓Reach.mk_eq] | split | (apply ReachMk.intro <;> first | exact .inr (by decide) | rfl | exact .inl rfl | skip))

theorem Dev.chainSleep_reach (d : Dev) : Reach (Part.stk) d (Dev.chainSleep d) := by
  unfold Dev.chainSleep
  with_reducible repeat' (first | assumption | exact .refl _ | (extract_lets +onlyGivenNames x; first | (refine Reach.have (x := x) ?_ (fun hx hxs => ?_); unfold x; clear x; rotate_left; clear_value x) | (have hf : Stk := x; clear hf; refine Reach.keep_stk (x := x) ?_ (fun hx => ?_); (· intro hs; unfold x; clear x; (repeat' (first | ((try simp only [Stk.Shaped] at *); simp +zetaDelta (maxDischargeDepth := 9) only [Stk.Shaped, Dev.Shaped.stk_found, Dev.Shaped.stk_enumDone, Dev.Shaped.stk_sats, Dev.Shaped.stk_out, Dev.Shaped.stk_lastFrame, Dev.Shaped.wr, Dev.Shaped.resetDomains, setAt_length, addAt_length, List.length_map, List.length_replicate, List.length_cons, List.length_nil, List.length_zipWith, List.length_range, List.length_append, List.length_drop, List.length_take, Nat.reduceSub, Nat.reduceLeDiff, Nat.min_eq_left, *, and_self, Nat.reduceAdd, Nat.zero_add]; done) | split))); clear_value x) | clear_value x) | (apply Reach.via (Dev.chainCast_reach ..); decide) | (apply Reach.ite <;> intro) | simp -zeta -iota only [↓Reach.mk_eq] | split | dsimp only | (apply ReachMk.intro <;> first | exact .inr (by decide) | rfl | exact .inl rfl | (refine .inr ⟨by decide, fun hs he => ?_⟩; (repeat' (first | ((try simp only [Stk.Shaped] at *); simp +zetaDelta (maxDischargeDepth := 9) only [Stk.Shaped, Dev.Shaped.stk_found, Dev.Shaped.stk_enumDone, Dev.Shaped.stk_sats, Dev.Shaped.stk_out, Dev.Shaped.stk_lastFrame, Dev.Shaped.wr, Dev.Shaped.resetDomains, setAt_length, addAt_length, List.length_map, List.length_replicate, List.length_cons, List.length_nil, List.length_zipWith, List.length_range, List.length_append, List.length_drop, List.length_take, Nat.reduceSub, Nat.reduceLeDiff, Nat.min_eq_left, *, and_self, Nat.reduceAdd, Nat.zero_add]; done) | split)); done) | skip))

theorem Dev.owStart_reach (d : Dev) : Reach (Part.regs ||| Part.stk) d (Dev.owStart d) := by
  unfold Dev.owStart
  with_reducible repeat' (first | assumption | exact .refl _ | (extract_lets +onlyGivenNames x; first | (refine Reach.have (x := x) ?_ (fun hx hxs => ?_); unfold x; clear x; rotate_left; clear_value x) | (have hf : Stk := x; clear hf; refine Reach.keep_stk (x := x) ?_ (fun hx => ?_); (· intro hs; unfold x; clear x; (repeat' (first | ((try simp only [Stk.Shaped] at *); simp +zetaDelta (maxDischargeDepth := 9) only [Stk.Shaped, Dev.Shaped.stk_found, Dev.Shaped.stk_enumDone, Dev.Shaped.stk_sats, Dev.Shaped.stk_out, Dev.Shaped.stk_lastFrame, Dev.Shaped.wr, Dev.Shaped.resetDomains, setAt_length, addAt_length, List.length_map, List.length_replicate, List.length_cons, List.length_nil, List.length_zipWith, List.length_range, List.length_append, List.length_drop, List.length_take, Nat.reduceSub, Nat.reduceLeDiff, Nat.min_eq_left, *, and_self, Nat.reduceAdd, Nat.zero_add]; done) | split))); clear_value x) | clear_value x) | (apply Reach.via (Dev.wrAll_reach ..); decide) | (apply Reach.ite <;> intro) | simp -zeta -iota only [↓Reach.mk_eq] | split | dsimp only | (apply ReachMk.intro <;> first | exact .inr (by decide) | rfl | exact .inl rfl | (refine .inr ⟨by decide, fun hs he => ?_⟩; (repeat' (first | ((try simp only [Stk.Shaped] at *); simp +zetaDelta (maxDischargeDepth := 9) only [Stk.Shaped, Dev.Shaped.stk_found, Dev.Shaped.stk_enumDone, Dev.Shaped.stk_sats, Dev.Shaped.stk_out, Dev.Shaped.stk_lastFrame, Dev.Shaped.wr, Dev.Shaped.resetDomains, setAt_length, addAt_length, List.length_map, List.length_replicate, List.length_cons, List.length_nil, List.length_zipWith, List.length_range, List.length_append, List.length_drop, List.length_take, Nat.reduceSub, Nat.reduceLeDiff, Nat.min_eq_left, *, and_self, Nat.reduceAdd, Nat.zero_add]; done) | split)); done) | skip))

theorem Dev.chainOwt_reach (d : Dev) : Reach (Part.regs ||| Part.fl ||| Part.stk) d (Dev.chainOwt d) := by
  unfold Dev.chainOwt
  with_reducible repeat' (first | assumption | exact .refl _ | (extract_lets +onlyGivenNames x; first | (refine Reach.have (x := x) ?_ (fun hx hxs => ?_); unfold x; clear x; rotate_left; clear_value x) | (have hf : Stk := x; clear hf; refine Reach.keep_stk (x := x) ?_ (fun hx => ?_); (· intro hs; unfold x; clear x; (repeat' (first | ((try simp only [Stk.Shaped] at *); simp +zetaDelta (maxDischargeDepth := 9) only [Reach.shaped (Dev.bump_reach ..), Reach.shaped (Dev.chainCastAll_reach ..), Reach.shaped (Dev.raise_reach ..), Stk.Shaped, Dev.Shaped.stk_found, Dev.Shaped.stk_enumDone, Dev.Shaped.stk_sats, Dev.Shaped.stk_out, Dev.Shaped.stk_lastFrame, Dev.Shaped.wr, Dev.Shaped.resetDomains, setAt_length, addAt_length, List.length_map, List.length_replicate, List.length_cons, List.length_nil, List.length_zipWith, List.length_range, List.length_append, List.length_drop, List.length_take, Nat.reduceSub, Nat.reduceLeDiff, Nat.min_eq_left, *, and_self, Nat.reduceAdd, Nat.zero_add]; done) | split))); clear_value x) | clear_value x) | (apply Reach.wr'; decide) | (apply Reach.via (Dev.bump_reach ..); decide) | (apply Reach.via (Dev.chainCastAll_reach ..); decide) | (apply Reach.via (Dev.raise_reach ..); decide) | (apply Reach.via (Dev.wrAll_reach ..); decide) | (apply Reach.ite <;> intro) | simp -zeta -iota only [↓Reach.mk_eq] | split | dsimp only | (apply ReachMk.intro <;> first | exact .inr (by decide) | rfl | exact .inl rfl | (refine .inr ⟨by decide, fun hs he => ?_⟩; (repeat' (first | ((try simp only [Stk.Shaped] at *); simp +zetaDelta (maxDischargeDepth := 9) only [Reach.shaped (Dev.bump_reach ..), Reach.shaped (Dev.chainCastAll_reach ..), Reach.shaped (Dev.raise_reach ..), Stk.Shaped, Dev.Shaped.stk_found, Dev.Shaped.stk_enumDone, Dev.Shaped.stk_sats, Dev.Shaped.stk_out, Dev.Shaped.stk_lastFrame, Dev.Shaped.wr, Dev.Shaped.resetDomains, setAt_length, addAt_length, List.length_map, List.length_replicate, List.length_cons, List.length_nil, List.length_zipWith, List.length_range, List.length_append, List.length_drop, List.length_take, Nat.reduceSub, Nat.reduceLeDiff, Nat.min_eq_left, *, and_self, Nat.reduceAdd, Nat.zero_add]; done) | split)); done) | skip))

theorem Dev.owCompare_reach (d : Dev) (s : Nat) : Reach (Part.regs ||| Part.fl ||| Part.ce ||| Part.pwm ||| Part.stk) d (Dev.owCompare d s) := by
  unfold Dev.owCompare
  with_reducible repeat' (first | assumption | exact .refl _ | (extract_lets +onlyGivenNames x; first | (refine Reach.have (x := x) ?_ (fun hx hxs => ?_); unfold x; clear x; rotate_left; clear_value x) | (have hf := fun y => (x y : Dev); clear hf; unfold x; clear_value x) | (have hf := fun y z => (x y z : Dev); clear hf; unfold x; clear_value x) | (have hf : Stk := x; clear hf; refine Reach.keep_stk (x := x) ?_ (fun hx => ?_); (· intro hs; unfold x; clear x; (repeat' (first | ((try simp only [Stk.Shaped] at *); simp +zetaDelta (maxDischargeDepth := 9) only [Stk.Shaped, Dev.Shaped.stk_found, Dev.Shaped.stk_enumDone, Dev.Shaped.stk_sats, Dev.Shaped.stk_out, Dev.Shaped.stk_lastFrame, Dev.Shaped.wr, Dev.Shaped.resetDomains, setAt_length, addAt_length, List.length_map, List.length_replicate, List.length_cons, List.length_nil, List.length_zipWith, List.length_range, List.length_append, List.length_drop, List.length_take, Nat.reduceSub, Nat.reduceLeDiff, Nat.min_eq_left, *, and_self, Nat.reduceAdd, Nat.zero_add]; done) | split))); clear_value x) | clear_value x) | (apply Reach.wr'; decide) | (apply Reach.via (Dev.bufCause_reach ..); decide) | (apply Reach.via (Dev.raise_reach ..); decide) | (apply Reach.ite <;> intro) | simp -zeta -iota only [↓Reach.mk_eq] | split | dsimp only | (apply ReachMk.intro <;> first | exact .inr (by decide) | rfl | exact .inl rfl | (refine .inr ⟨by decide, fun hs he => ?_⟩; (repeat' (first | ((try simp only [Stk.Shaped] at *); simp +zetaDelta (maxDischargeDepth := 9) only [Stk.Shaped, Dev.Shaped.stk_found, Dev.Shaped.stk_enumDone, Dev.Shaped.stk_sats, Dev.Shaped.stk_out, Dev.Shaped.stk_lastFrame, Dev.Shaped.wr, Dev.Shaped.resetDomains, setAt_length, addAt_length, List.length_map, List.length_replicate, List.length_cons, List.length_nil, List.length_zipWith, List.length_range, List.length_append, List.length_drop, List.length_take, Nat.reduceSub, Nat.reduceLeDiff, Nat.min_eq_left, *, and_self, Nat.reduceAdd, Nat.zero_add]; done) | split)); done) | skip))

theorem Dev.cellRead_reach (d : Dev) (c : Nat) (v : Int) (corr owt : Bool) : Reach (Part.regs ||| Part.fl ||| Part.ce ||| Part.pwm ||| Part.stk) d (Dev.cellRead d c v corr owt) := by
  unfold Dev.cellRead
  with_reducible repeat' (first | assumption | exact .refl _ | (extract_lets +onlyGivenNames x; first | (refine Reach.have (x := x) ?_ (fun hx hxs => ?_); unfold x; clear x; rotate_left; clear_value x) | (have hf : Stk := x; clear hf; refine Reach.keep_stk (x := x) ?_ (fun hx => ?_); (· intro hs; unfold x; clear x; (repeat' (first | ((try simp only [Stk.Shaped] at *); simp +zetaDelta (maxDischargeDepth := 9) only [Stk.Shaped, Dev.Shaped.stk_found, Dev.Shaped.stk_enumDone, Dev.Shaped.stk_sats, Dev.Shaped.stk_out, Dev.Shaped.stk_lastFrame, Dev.Shaped.wr, Dev.Shaped.resetDomains, setAt_length, addAt_length, List.length_map, List.length_replicate, List.length_cons, List.length_nil, List.length_zipWith, List.length_range, List.length_append, List.length_drop, List.length_take, Nat.reduceSub, Nat.reduceLeDiff, Nat.min_eq_left, *, and_self, Nat.reduceAdd, Nat.zero_add]; done) | split))); clear_value x) | clear_value x) | (apply Reach.via (Dev.bufCause_reach ..); decide) | (apply Reach.via (Dev.raise_reach ..); decide) | (apply Reach.via (Dev.wrAll_reach ..); decide) | (apply Reach.ite <;> intro) | simp -zeta -iota only [↓Reach.mk_eq] | split | dsimp only | (apply ReachMk.intro <;> first | exact .inr (by decide) | rfl | exact .inl rfl | (refine .inr ⟨by decide, fun hs he => ?_⟩; (repeat' (first | ((try simp only [Stk.Shaped] at *); simp +zetaDelta (maxDischargeDepth := 9) only [Stk.Shaped, Dev.Shaped.stk_found, Dev.Shaped.stk_enumDone, Dev.Shaped.stk_sats, Dev.Shaped.stk_out, Dev.Shaped.stk_lastFrame, Dev.Shaped.wr, Dev.Shaped.resetDomains, setAt_length, addAt_length, List.length_map, List.length_replicate, List.length_cons, List.length_nil, List.length_zipWith, List.length_range, List.length_append, List.length_drop, List.length_take, Nat.reduceSub, Nat.reduceLeDiff, Nat.min_eq_left, *, and_self, Nat.reduceAdd, Nat.zero_add]; done) | split)); done) | skip))

theorem Dev.cellImpedance_reach (d : Dev) (c : Nat) (di : Int) : Reach (Part.regs ||| Part.stk) d (Dev.cellImpedance d c di) := by
  unfold Dev.cellImpedance
  with_reducible repeat' (first | assumption | exact .refl _ | (extract_lets +onlyGivenNames x; first | (refine Reach.have (x := x) ?_ (fun hx hxs => ?_); unfold x; clear x; rotate_left; clear_value x) | (have hf : Stk := x; clear hf; refine Reach.keep_stk (x := x) ?_ (fun hx => ?_); (· intro hs; unfold x; clear x; (repeat' (first | ((try simp only [Stk.Shaped] at *); simp +zetaDelta (maxDischargeDepth := 9) only [Stk.Shaped, Dev.Shaped.stk_found, Dev.Shaped.stk_enumDone, Dev.Shaped.stk_sats, Dev.Shaped.stk_out, Dev.Shaped.stk_lastFrame, Dev.Shaped.wr, Dev.Shaped.resetDomains, setAt_length, addAt_length, List.length_map, List.length_replicate, List.length_cons, List.length_nil, List.length_zipWith, List.length_range, List.length_append, List.length_drop, List.length_take, Nat.reduceSub, Nat.reduceLeDiff, Nat.min_eq_left, *, and_self, Nat.reduceAdd, Nat.zero_add]; done) | split))); clear_value x) | clear_value x) | (apply Reach.via (Dev.wrS_reach ..); decide) | (apply Reach.ite <;> intro) | simp -zeta -iota only [↓Reach.mk_eq] | split | (apply ReachMk.intro <;> first | exact .inr (by decide) | rfl | exact .inl rfl | (refine .inr ⟨by decide, fun hs he => ?_⟩; (repeat' (first | ((try simp only [Stk.Shaped] at *); simp +zetaDelta (maxDischargeDepth := 9) only [Stk.Shaped, Dev.Shaped.stk_found, Dev.Shaped.stk_enumDone, Dev.Shaped.stk_sats, Dev.Shaped.stk_out, Dev.Shaped.stk_lastFrame, Dev.Shaped.wr, Dev.Shaped.resetDomains, setAt_length, addAt_length, List.length_map, List.length_replicate, List.length_cons, List.length_nil, List.length_zipWith, List.length_range, List.length_append, List.length_drop, List.length_take, Nat.reduceSub, Nat.reduceLeDiff, Nat.min_eq_left, *, and_self, Nat.reduceAdd, Nat.zero_add]; done) | split)); done) | skip))

theorem Dev.snapDone_reach (d : Dev) : Reach (Part.regs ||| Part.fl ||| Part.ce ||| Part.pwm ||| Part.stk) d (Dev.snapDone d) := by
  unfold Dev.snapDone
  with_reducible repeat' (first | assumption | exact .refl _ | (extract_lets +onlyGivenNames x; first | (refine Reach.have (x := x) ?_ (fun hx hxs => ?_); unfold x; clear x; rotate_left; clear_value x) | (have hf : Stk := x; clear hf; refine Reach.keep_stk (x := x) ?_ (fun hx => ?_); (· intro hs; unfold x; clear x; (repeat' (first | ((try simp only [Stk.Shaped] at *); simp +zetaDelta (maxDischargeDepth := 9) only [Stk.Shaped, Dev.Shaped.stk_found, Dev.Shaped.stk_enumDone, Dev.Shaped.stk_sats, Dev.Shaped.stk_out, Dev.Shaped.stk_lastFrame, Dev.Shaped.wr, Dev.Shaped.resetDomains, setAt_length, addAt_length, List.length_map, List.length_replicate, List.length_cons, List.length_nil, List.length_zipWith, List.length_range, List.length_append, List.length_drop, List.length_take, Nat.reduceSub, Nat.reduceLeDiff, Nat.min_eq_left, *, and_self, Nat.reduceAdd, Nat.zero_add]; done) | split))); clear_value x) | clear_value x) | (apply Reach.wr'; decide) | (apply Reach.via (Dev.bufCause_reach ..); decide) | (apply Reach.via (Dev.cellImpedance_reach ..); decide) | (apply Reach.via (Dev.raise_reach ..); decide) | (apply Reach.via (Dev.wrS_reach ..); decide) | (apply Dev.forAll_reach <;> intros) | (apply Reach.ite <;> intro) | simp -zeta -iota only [↓Reach.mk_eq] | split | dsimp only | (apply ReachMk.intro <;> first | exact .inr (by decide) | rfl | exact .inl rfl | (refine .inr ⟨by decide, fun hs he => ?_⟩; (repeat' (first | ((try simp only [Stk.Shaped] at *); simp +zetaDelta (maxDischargeDepth := 9) only [Stk.Shaped, Dev.Shaped.stk_found, Dev.Shaped.stk_enumDone, Dev.Shaped.stk_sats, Dev.Shaped.stk_out, Dev.Shaped.stk_lastFrame, Dev.Shaped.wr, Dev.Shaped.resetDomains, setAt_length, addAt_length, List.length_map, List.length_replicate, List.length_cons, List.length_nil, List.length_zipWith, List.length_range, List.length_append, List.length_drop, List.length_take, Nat.reduceSub, Nat.reduceLeDiff, Nat.min_eq_left, *, and_self, Nat.reduceAdd, Nat.zero_add]; done) | split)); done) | skip))

theorem Dev.readDone_reach (d : Dev) (s : Nat) (bs : List Byte) : Reach (Part.regs ||| Part.fl ||| Part.ce ||| Part.pwm ||| Part.stk) d (Dev.readDone d s bs) := by
  unfold Dev.readDone
  with_reducible repeat' (first | assumption | exact .refl _ | (extract_lets +onlyGivenNames x; first | (refine Reach.have (x := x) ?_ (fun hx hxs => ?_); unfold x; clear x; rotate_left; clear_value x) | (have hf : Stk := x; clear hf; refine Reach.keep_stk (x := x) ?_ (fun hx => ?_); (· intro hs; unfold x; clear x; (repeat' (first | ((try simp only [Stk.Shaped] at *); simp +zetaDelta (maxDischargeDepth := 9) only [Stk.Shaped, Dev.Shaped.stk_found, Dev.Shaped.stk_enumDone, Dev.Shaped.stk_sats, Dev.Shaped.stk_out, Dev.Shaped.stk_lastFrame, Dev.Shaped.wr, Dev.Shaped.resetDomains, setAt_length, addAt_length, List.length_map, List.length_replicate, List.length_cons, List.length_nil, List.length_zipWith, List.length_range, List.length_append, List.length_drop, List.length_take, Nat.reduceSub, Nat.reduceLeDiff, Nat.min_eq_left, *, and_self, Nat.reduceAdd, Nat.zero_add]; done) | split))); clear_value x) | clear_value x) | (apply Reach.via (Dev.balApply_reach ..); decide) | (apply Reach.via (Dev.cellRead_reach ..); decide) | (apply Reach.via (Dev.owCompare_reach ..); decide) | (apply Reach.via (Dev.snapDone_reach ..); decide) | (apply Reach.via (Dev.wrAll_reach ..); decide) | (apply Dev.forAll_reach <;> intros) | (apply Reach.ite <;> intro) | simp -zeta -iota only [↓Reach.mk_eq] | split | dsimp only | (apply ReachMk.intro <;> first | exact .inr (by decide) | rfl | exact .inl rfl | (refine .inr ⟨by decide, fun hs he => ?_⟩; (repeat' (first | ((try simp only [Stk.Shaped] at *); simp +zetaDelta (maxDischargeDepth := 9) only [Stk.Shaped, Dev.Shaped.stk_found, Dev.Shaped.stk_enumDone, Dev.Shaped.stk_sats, Dev.Shaped.stk_out, Dev.Shaped.stk_lastFrame, Dev.Shaped.wr, Dev.Shaped.resetDomains, setAt_length, addAt_length, List.length_map, List.length_replicate, List.length_cons, List.length_nil, List.length_zipWith, List.length_range, List.length_append, List.length_drop, List.length_take, Nat.reduceSub, Nat.reduceLeDiff, Nat.min_eq_left, *, and_self, Nat.reduceAdd, Nat.zero_add]; done) | split)); done) | skip))

theorem Dev.reroute_reach (d : Dev) (e s : Nat) : Reach (Part.regs ||| Part.fl ||| Part.stk) d (Dev.reroute d e s) := by
  unfold Dev.reroute
  with_reducible repeat' (first | assumption | exact .refl _ | (extract_lets +onlyGivenNames x; first | (refine Reach.have (x := x) ?_ (fun hx hxs => ?_); unfold x; clear x; rotate_left; clear_value x) | (have hf := fun y => (x y : Dev); clear hf; unfold x; clear_value x) | (have hf := fun y z => (x y z : Dev); clear hf; unfold x; clear_value x) | (have hf : Stk := x; clear hf; refine Reach.keep_stk (x := x) ?_ (fun hx => ?_); (· intro hs; unfold x; clear x; (repeat' (first | ((try simp only [Stk.Shaped] at *); simp +zetaDelta (maxDischargeDepth := 9) only [Stk.Shaped, Dev.Shaped.stk_found, Dev.Shaped.stk_enumDone, Dev.Shaped.stk_sats, Dev.Shaped.stk_out, Dev.Shaped.stk_lastFrame, Dev.Shaped.wr, Dev.Shaped.resetDomains, setAt_length, addAt_length, List.length_map, List.length_replicate, List.length_cons, List.length_nil, List.length_zipWith, List.length_range, List.length_append, List.length_drop, List.length_take, Nat.reduceSub, Nat.reduceLeDiff, Nat.min_eq_left, *, and_self, Nat.reduceAdd, Nat.zero_add]; done) | split))); clear_value x) | clear_value x) | (apply Reach.via (Dev.bump_reach ..); decide) | (apply Reach.via (Dev.raise_reach ..); decide) | (apply Reach.via (Dev.splitShow_reach ..); decide) | (apply Reach.ite <;> intro) | simp -zeta -iota only [↓Reach.mk_eq] | split | dsimp only | (apply ReachMk.intro <;> first | exact .inr (by decide) | rfl | exact .inl rfl | (refine .inr ⟨by decide, fun hs he => ?_⟩; (repeat' (first | ((try simp only [Stk.Shaped] at *); simp +zetaDelta (maxDischargeDepth := 9) only [Stk.Shaped, Dev.Shaped.stk_found, Dev.Shaped.stk_enumDone, Dev.Shaped.stk_sats, Dev.Shaped.stk_out, Dev.Shaped.stk_lastFrame, Dev.Shaped.wr, Dev.Shaped.resetDomains, setAt_length, addAt_length, List.length_map, List.length_replicate, List.length_cons, List.length_nil, List.length_zipWith, List.length_range, List.length_append, List.length_drop, List.length_take, Nat.reduceSub, Nat.reduceLeDiff, Nat.min_eq_left, *, and_self, Nat.reduceAdd, Nat.zero_add]; done) | split)); done) | skip))

theorem Dev.chainMiss_reach (d : Dev) (e s reason : Nat) : Reach (Part.regs ||| Part.fl ||| Part.ce ||| Part.pwm ||| Part.out ||| Part.stk) d (Dev.chainMiss d e s reason) := by
  unfold Dev.chainMiss
  with_reducible repeat' (first | assumption | exact .refl _ | (extract_lets +onlyGivenNames x; first | (refine Reach.have (x := x) ?_ (fun hx hxs => ?_); unfold x; clear x; rotate_left; clear_value x) | (have hf : Stk := x; clear hf; refine Reach.keep_stk (x := x) ?_ (fun hx => ?_); (· intro hs; unfold x; clear x; (repeat' (first | ((try simp only [Stk.Shaped] at *); simp +zetaDelta (maxDischargeDepth := 9) only [Stk.Shaped, Dev.Shaped.stk_found, Dev.Shaped.stk_enumDone, Dev.Shaped.stk_sats, Dev.Shaped.stk_out, Dev.Shaped.stk_lastFrame, Dev.Shaped.wr, Dev.Shaped.resetDomains, setAt_length, addAt_length, List.length_map, List.length_replicate, List.length_cons, List.length_nil, List.length_zipWith, List.length_range, List.length_append, List.length_drop, List.length_take, Nat.reduceSub, Nat.reduceLeDiff, Nat.min_eq_left, *, and_self, Nat.reduceAdd, Nat.zero_add]; done) | split))); clear_value x) | clear_value x) | (apply Reach.wr'; decide) | (apply Reach.via (Dev.bump_reach ..); decide) | (apply Reach.via (Dev.chainGo_reach ..); decide) | (apply Reach.via (Dev.raise_reach ..); decide) | (apply Reach.via (Dev.reroute_reach ..); decide) | (apply Reach.via (Dev.setSat_reach ..); decide) | (apply Reach.ite <;> intro) | simp -zeta -iota only [↓Reach.mk_eq] | split | dsimp only | (apply ReachMk.intro <;> first | exact .inr (by decide) | rfl | exact .inl rfl | (refine .inr ⟨by decide, fun hs he => ?_⟩; (repeat' (first | ((try simp only [Stk.Shaped] at *); simp +zetaDelta (maxDischargeDepth := 9) only [Stk.Shaped, Dev.Shaped.stk_found, Dev.Shaped.stk_enumDone, Dev.Shaped.stk_sats, Dev.Shaped.stk_out, Dev.Shaped.stk_lastFrame, Dev.Shaped.wr, Dev.Shaped.resetDomains, setAt_length, addAt_length, List.length_map, List.length_replicate, List.length_cons, List.length_nil, List.length_zipWith, List.length_range, List.length_append, List.length_drop, List.length_take, Nat.reduceSub, Nat.reduceLeDiff, Nat.min_eq_left, *, and_self, Nat.reduceAdd, Nat.zero_add]; done) | split)); done) | skip))

theorem Dev.chainSettle_reach (d : Dev) : Reach (Part.regs ||| Part.fl ||| Part.ce ||| Part.pwm ||| Part.out ||| Part.stk) d (Dev.chainSettle d) := by
  unfold Dev.chainSettle
  with_reducible repeat' (first | assumption | exact .refl _ | (apply Reach.via (Dev.chainOff_reach ..); decide) | (apply Reach.ite <;> intro) | split)

theorem Dev.outTake_reach (d : Dev) (e : Nat) : Reach (Part.out ||| Part.stk) d (Dev.outTake d e) := by
  unfold Dev.outTake
  with_reducible repeat' (first | assumption | exact .refl _ | (extract_lets +onlyGivenNames x; first | (have hf : List OutRt := x; clear hf; refine Reach.keep_out (x := x) ?_ (fun hx => ?_); (· intro hs; unfold x; clear x; (repeat' (first | (simp +zetaDelta (maxDischargeDepth := 9) only [Dev.Shaped.out, Dev.Shaped.wr, Dev.Shaped.resetDomains, setAt_length, addAt_length, List.length_map, List.length_replicate, List.length_cons, List.length_nil, List.length_zipWith, List.length_range, List.length_append, List.length_drop, List.length_take, Nat.reduceSub, Nat.reduceLeDiff, Nat.min_eq_left, *, and_self, Nat.reduceAdd, Nat.zero_add]; done) | split))); clear_value x) | (have hf : Stk := x; clear hf; refine Reach.keep_stk (x := x) ?_ (fun hx => ?_); (· intro hs; unfold x; clear x; (repeat' (first | ((try simp only [Stk.Shaped] at *); simp +zetaDelta (maxDischargeDepth := 9) only [Stk.Shaped, Dev.Shaped.stk_found, Dev.Shaped.stk_enumDone, Dev.Shaped.stk_sats, Dev.Shaped.stk_out, Dev.Shaped.stk_lastFrame, Dev.Shaped.wr, Dev.Shaped.resetDomains, setAt_length, addAt_length, List.length_map, List.length_replicate, List.length_cons, List.length_nil, List.length_zipWith, List.length_range, List.length_append, List.length_drop, List.length_take, Nat.reduceSub, Nat.reduceLeDiff, Nat.min_eq_left, *, and_self, Nat.reduceAdd, Nat.zero_add]; done) | split))); clear_value x) | clear_value x) | simp -zeta -iota only [↓Reach.mk_eq] | (apply ReachMk.intro <;> first | exact .inr (by decide) | rfl | exact .inl rfl | (refine .inr ⟨by decide, fun hs he => ?_⟩; (repeat' (first | (simp +zetaDelta (maxDischargeDepth := 9) only [Dev.Shaped.out, Dev.Shaped.wr, Dev.Shaped.resetDomains, setAt_length, addAt_length, List.length_map, List.length_replicate, List.length_cons, List.length_nil, List.length_zipWith, List.length_range, List.length_append, List.length_drop, List.length_take, Nat.reduceSub, Nat.reduceLeDiff, Nat.min_eq_left, *, and_self, Nat.reduceAdd, Nat.zero_add]; done) | split)); done) | (refine .inr ⟨by decide, fun hs he => ?_⟩; (repeat' (first | ((try simp only [Stk.Shaped] at *); simp +zetaDelta (maxDischargeDepth := 9) only [Stk.Shaped, Dev.Shaped.stk_found, Dev.Shaped.stk_enumDone, Dev.Shaped.stk_sats, Dev.Shaped.stk_out, Dev.Shaped.stk_lastFrame, Dev.Shaped.wr, Dev.Shaped.resetDomains, setAt_length, addAt_length, List.length_map, List.length_replicate, List.length_cons, List.length_nil, List.length_zipWith, List.length_range, List.length_append, List.length_drop, List.length_take, Nat.reduceSub, Nat.reduceLeDiff, Nat.min_eq_left, *, and_self, Nat.reduceAdd, Nat.zero_add]; done) | split)); done) | skip))

theorem Dev.chainMissed_reach (d : Dev) (e : Nat) : Reach (Part.regs ||| Part.fl ||| Part.ce ||| Part.pwm ||| Part.out ||| Part.stk) d (Dev.chainMissed d e) := by
  unfold Dev.chainMissed
  with_reducible repeat' (first | assumption | exact .refl _ | (extract_lets +onlyGivenNames x; first | (refine Reach.have (x := x) ?_ (fun hx hxs => ?_); unfold x; clear x; rotate_left; clear_value x) | (have hf : Stk := x; clear hf; refine Reach.keep_stk (x := x) ?_ (fun hx => ?_); (· intro hs; unfold x; clear x; (repeat' (first | ((try simp only [Stk.Shaped] at *); simp +zetaDelta (maxDischargeDepth := 9) only [Stk.Shaped, Dev.Shaped.stk_found, Dev.Shaped.stk_enumDone, Dev.Shaped.stk_sats, Dev.Shaped.stk_out, Dev.Shaped.stk_lastFrame, Dev.Shaped.wr, Dev.Shaped.resetDomains, setAt_length, addAt_length, List.length_map, List.length_replicate, List.length_cons, List.length_nil, List.length_zipWith, List.length_range, List.length_append, List.length_drop, List.length_take, Nat.reduceSub, Nat.reduceLeDiff, Nat.min_eq_left, *, and_self, Nat.reduceAdd, Nat.zero_add]; done) | split))); clear_value x) | clear_value x) | (apply Reach.via (Dev.chainMiss_reach ..); decide) | (apply Reach.via (Dev.chainSettle_reach ..); decide) | (apply Reach.via (Dev.outTake_reach ..); decide) | (apply Reach.ite <;> intro) | simp -zeta -iota only [↓Reach.mk_eq] | split | dsimp only | (apply ReachMk.intro <;> first | exact .inr (by decide) | rfl | exact .inl rfl | (refine .inr ⟨by decide, fun hs he => ?_⟩; (repeat' (first | ((try simp only [Stk.Shaped] at *); simp +zetaDelta (maxDischargeDepth := 9) only [Stk.Shaped, Dev.Shaped.stk_found, Dev.Shaped.stk_enumDone, Dev.Shaped.stk_sats, Dev.Shaped.stk_out, Dev.Shaped.stk_lastFrame, Dev.Shaped.wr, Dev.Shaped.resetDomains, setAt_length, addAt_length, List.length_map, List.length_replicate, List.length_cons, List.length_nil, List.length_zipWith, List.length_range, List.length_append, List.length_drop, List.length_take, Nat.reduceSub, Nat.reduceLeDiff, Nat.min_eq_left, *, and_self, Nat.reduceAdd, Nat.zero_add]; done) | split)); done) | skip))

theorem Dev.respDone_reach (d : Dev) (e : Nat) (c : ChainCmd) (f : List Byte) (rtt : Nat) : Reach (Part.regs ||| Part.fl ||| Part.ce ||| Part.pwm ||| Part.stk) d (Dev.respDone d e c f rtt) := by
  unfold Dev.respDone
  with_reducible repeat' (first | assumption | exact .refl _ | (extract_lets +onlyGivenNames x; first | (refine Reach.have (x := x) ?_ (fun hx hxs => ?_); unfold x; clear x; rotate_left; clear_value x) | (have hf : Stk := x; clear hf; refine Reach.keep_stk (x := x) ?_ (fun hx => ?_); (· intro hs; unfold x; clear x; (repeat' (first | ((try simp only [Stk.Shaped] at *); simp +zetaDelta (maxDischargeDepth := 9) only [Reach.shaped (Dev.readDone_reach ..), Reach.shaped (Dev.setSat_reach ..), Stk.Shaped, Dev.Shaped.stk_found, Dev.Shaped.stk_enumDone, Dev.Shaped.stk_sats, Dev.Shaped.stk_out, Dev.Shaped.stk_lastFrame, Dev.Shaped.wr, Dev.Shaped.resetDomains, setAt_length, addAt_length, List.length_map, List.length_replicate, List.length_cons, List.length_nil, List.length_zipWith, List.length_range, List.length_append, List.length_drop, List.length_take, Nat.reduceSub, Nat.reduceLeDiff, Nat.min_eq_left, *, and_self, Nat.reduceAdd, Nat.zero_add]; done) | split))); clear_value x) | clear_value x) | (apply Reach.wr'; decide) | (apply Reach.via (Dev.readDone_reach ..); decide) | (apply Reach.via (Dev.setSat_reach ..); decide) | (apply Reach.ite <;> intro) | simp -zeta -iota only [↓Reach.mk_eq] | split | dsimp only | (apply ReachMk.intro <;> first | exact .inr (by decide) | rfl | exact .inl rfl | (refine .inr ⟨by decide, fun hs he => ?_⟩; (repeat' (first | ((try simp only [Stk.Shaped] at *); simp +zetaDelta (maxDischargeDepth := 9) only [Reach.shaped (Dev.readDone_reach ..), Reach.shaped (Dev.setSat_reach ..), Stk.Shaped, Dev.Shaped.stk_found, Dev.Shaped.stk_enumDone, Dev.Shaped.stk_sats, Dev.Shaped.stk_out, Dev.Shaped.stk_lastFrame, Dev.Shaped.wr, Dev.Shaped.resetDomains, setAt_length, addAt_length, List.length_map, List.length_replicate, List.length_cons, List.length_nil, List.length_zipWith, List.length_range, List.length_append, List.length_drop, List.length_take, Nat.reduceSub, Nat.reduceLeDiff, Nat.min_eq_left, *, and_self, Nat.reduceAdd, Nat.zero_add]; done) | split)); done) | skip))

theorem Dev.chainResponse_reach (d : Dev) (e : Nat) (f : List Byte) (rtt : Nat) : Reach (Part.regs ||| Part.hmem ||| Part.inj ||| Part.jr ||| Part.rings ||| Part.fl ||| Part.ce ||| Part.pwm ||| Part.out ||| Part.stk) d (Dev.chainResponse d e f rtt) := by
  unfold Dev.chainResponse
  with_reducible repeat' (first | assumption | exact .refl _ | (extract_lets +onlyGivenNames x; first | (refine Reach.have (x := x) ?_ (fun hx hxs => ?_); unfold x; clear x; rotate_left; clear_value x) | (have hf : Stk := x; clear hf; refine Reach.keep_stk (x := x) ?_ (fun hx => ?_); (· intro hs; unfold x; clear x; (repeat' (first | ((try simp only [Stk.Shaped] at *); simp +zetaDelta (maxDischargeDepth := 9) only [Stk.Shaped, Dev.Shaped.stk_found, Dev.Shaped.stk_enumDone, Dev.Shaped.stk_sats, Dev.Shaped.stk_out, Dev.Shaped.stk_lastFrame, Dev.Shaped.wr, Dev.Shaped.resetDomains, setAt_length, addAt_length, List.length_map, List.length_replicate, List.length_cons, List.length_nil, List.length_zipWith, List.length_range, List.length_append, List.length_drop, List.length_take, Nat.reduceSub, Nat.reduceLeDiff, Nat.min_eq_left, *, and_self, Nat.reduceAdd, Nat.zero_add]; done) | split))); clear_value x) | clear_value x) | (apply Reach.via (Dev.bump_reach ..); decide) | (apply Reach.via (Dev.chainMiss_reach ..); decide) | (apply Reach.via (Dev.chainSettle_reach ..); decide) | (apply Reach.via (Dev.injUse_reach ..); decide) | (apply Reach.via (Dev.outTake_reach ..); decide) | (apply Reach.via (Dev.respDone_reach ..); decide) | (apply Reach.via (Dev.setSat_reach ..); decide) | (apply Reach.ite <;> intro) | simp -zeta -iota only [↓Reach.mk_eq] | split | dsimp only | (apply ReachMk.intro <;> first | exact .inr (by decide) | rfl | exact .inl rfl | (refine .inr ⟨by decide, fun hs he => ?_⟩; (repeat' (first | ((try simp only [Stk.Shaped] at *); simp +zetaDelta (maxDischargeDepth := 9) only [Stk.Shaped, Dev.Shaped.stk_found, Dev.Shaped.stk_enumDone, Dev.Shaped.stk_sats, Dev.Shaped.stk_out, Dev.Shaped.stk_lastFrame, Dev.Shaped.wr, Dev.Shaped.resetDomains, setAt_length, addAt_length, List.length_map, List.length_replicate, List.length_cons, List.length_nil, List.length_zipWith, List.length_range, List.length_append, List.length_drop, List.length_take, Nat.reduceSub, Nat.reduceLeDiff, Nat.min_eq_left, *, and_self, Nat.reduceAdd, Nat.zero_add]; done) | split)); done) | skip))

end Sys2Proof.Machine
end

