-- ==== Sys2Proof/Laws/ReachStream.lean ====
section
/-! SUPPORT. What the functions of Machine/Stream.lean can do to the block. -/

set_option linter.tactic.unusedName false
set_option linter.unusedTactic false
set_option linter.unusedSimpArgs false
set_option linter.unreachableTactic false
set_option maxHeartbeats 800000

namespace Sys2Proof.Machine

theorem Dev.imgStat_reach (d : Dev) (xfer status : Nat) : Reach (Part.fl) d (Dev.imgStat d xfer status) := by
  unfold Dev.imgStat
  with_reducible repeat' (first | assumption | exact .refl _ | (apply Reach.via (Dev.sendF_reach ..); decide) | simp -zeta -iota only [↓Reach.mk_eq] | dsimp only | (apply ReachMk.intro <;> first | exact .inr (by decide) | rfl | exact .inl rfl | skip))

theorem Dev.loadCode_reach (d : Dev) (code sect : Nat) : Reach (Part.regs ||| Part.fl) d (Dev.loadCode d code sect) := by
  unfold Dev.loadCode
  with_reducible repeat' (first | assumption | exact .refl _ | (apply Reach.wr'; decide) | (apply Reach.via (Dev.raise_reach ..); decide) | dsimp only)

theorem Dev.loadRefuse_reach (d : Dev) (code sect : Nat) : Reach (Part.regs ||| Part.fl) d (Dev.loadRefuse d code sect) := by
  unfold Dev.loadRefuse
  with_reducible repeat' (first | assumption | exact .refl _ | (apply Reach.wr'; decide) | (apply Reach.via (Dev.loadCode_reach ..); decide))

theorem Dev.imgAbort_reach (d : Dev) : Reach (Part.regs ||| Part.fl ||| Part.st) d (Dev.imgAbort d) := by
  unfold Dev.imgAbort
  with_reducible repeat' (first | assumption | exact .refl _ | (extract_lets +onlyGivenNames x; clear_value x) | (apply Reach.wr'; decide) | (apply Reach.via (Dev.imgStat_reach ..); decide) | (apply Reach.via (Dev.raise_reach ..); decide) | simp -zeta -iota only [↓Reach.mk_eq] | split | dsimp only | (apply ReachMk.intro <;> first | exact .inr (by decide) | rfl | exact .inl rfl | skip))

theorem Dev.imgBegin_reach (d : Dev) (xfer len : Nat) : Reach (Part.regs ||| Part.fl ||| Part.st ||| Part.fsec) d (Dev.imgBegin d xfer len) := by
  unfold Dev.imgBegin
  with_reducible repeat' (first | assumption | exact .refl _ | (extract_lets +onlyGivenNames x; first | (refine Reach.have (x := x) ?_ (fun hx hxs => ?_); unfold x; clear x; rotate_left; clear_value x) | clear_value x) | (apply Reach.wr'; decide) | (apply Reach.via (Dev.imgAbort_reach ..); decide) | (apply Reach.via (Dev.imgStat_reach ..); decide) | (apply Reach.via (Dev.loadCode_reach ..); decide) | (apply Reach.via (Dev.takeCell_reach ..); decide) | (apply Reach.ite <;> intro) | simp -zeta -iota only [↓Reach.mk_eq] | split | dsimp only | (apply ReachMk.intro <;> first | exact .inr (by decide) | rfl | exact .inl rfl | skip))

theorem Dev.setNor_reach (d : Dev) (i : Nat) (x : NorSlot) : Reach (Part.st) d (Dev.setNor d i x) := by
  unfold Dev.setNor
  with_reducible repeat' (first | assumption | exact .refl _ | (extract_lets +onlyGivenNames x; clear_value x) | simp -zeta -iota only [↓Reach.mk_eq] | (apply ReachMk.intro <;> first | exact .inr (by decide) | rfl | exact .inl rfl | skip))

theorem Dev.imgData_reach (d : Dev) (xfer off : Nat) (bs : List Byte) : Reach (Part.regs ||| Part.fmem ||| Part.fl ||| Part.st) d (Dev.imgData d xfer off bs) := by
  unfold Dev.imgData
  with_reducible repeat' (first | assumption | exact .refl _ | (extract_lets +onlyGivenNames x; first | (refine Reach.have (x := x) ?_ (fun hx hxs => ?_); unfold x; clear x; rotate_left; clear_value x) | (have hf : Mem := x; clear hf; unfold x; clear_value x) | clear_value x) | (apply Reach.via (Dev.imgAbort_reach ..); decide) | (apply Reach.via (Dev.setNor_reach ..); decide) | (apply Reach.via (Dev.takeCell_reach ..); decide) | (apply Reach.ite <;> intro) | simp -zeta -iota only [↓Reach.mk_eq] | split | (apply ReachMk.intro <;> first | exact .inr (by decide) | rfl | exact .inl rfl | (refine .inr ⟨by decide, ?_⟩; (repeat' (first | exact MemStep.refl _ | exact MemStep.clear _ | apply MemStep.writeNat | apply MemStep.write | apply MemStep.drop)); done) | skip))

theorem Dev.imgDispatch_reach (d : Dev) (x : ImgXfer) (bs : List Byte) : Reach (Part.regs ||| Part.fmem ||| Part.hmem ||| Part.free ||| Part.inj ||| Part.jr ||| Part.rings ||| Part.fl ||| Part.st ||| Part.pwm ||| Part.ffuse ||| Part.hfuse) d (Dev.imgDispatch d x bs) := by
  unfold Dev.imgDispatch
  with_reducible repeat' (first | assumption | exact .refl _ | (extract_lets +onlyGivenNames x; first | (refine Reach.have (x := x) ?_ (fun hx hxs => ?_); unfold x; clear x; rotate_left; clear_value x) | (refine Reach.have (x := x.1) ?_ (fun hx hxs => ?_); unfold x; clear x; rotate_left; clear_value x) | (refine Reach.have (x := x.2) ?_ (fun hx hxs => ?_); unfold x; clear x; rotate_left; clear_value x) | (have hf : Mem := x; clear hf; unfold x; clear_value x) | clear_value x) | (apply Reach.wr'; decide) | (apply Reach.via (Dev.anyToken_reach ..); decide) | (apply Dev.anyToken_via'; decide; assumption) | (apply Reach.via (Dev.setNor_reach ..); decide) | (apply Reach.ite <;> intro) | simp -zeta -iota only [↓Reach.mk_eq] | split | dsimp only | (apply ReachMk.intro <;> first | exact .inr (by decide) | rfl | exact .inl rfl | (refine .inr ⟨by decide, ?_⟩; (repeat' (first | exact MemStep.refl _ | exact MemStep.clear _ | apply MemStep.writeNat | apply MemStep.write | apply MemStep.drop)); done) | skip))

theorem Dev.imgEnd_reach (d : Dev) (xfer : Nat) (digest : List Byte) : Reach (Part.regs ||| Part.fmem ||| Part.hmem ||| Part.free ||| Part.inj ||| Part.jr ||| Part.rings ||| Part.fl ||| Part.st ||| Part.pwm ||| Part.ffuse ||| Part.hfuse) d (Dev.imgEnd d xfer digest) := by
  unfold Dev.imgEnd
  with_reducible repeat' (first | assumption | exact .refl _ | (extract_lets +onlyGivenNames x; first | (refine Reach.have (x := x) ?_ (fun hx hxs => ?_); unfold x; clear x; rotate_left; clear_value x) | clear_value x) | (apply Reach.via (Dev.imgDispatch_reach ..); decide) | (apply Reach.via (Dev.imgStat_reach ..); decide) | (apply Reach.via (Dev.loadRefuse_reach ..); decide) | (apply Reach.via (Dev.takeCell_reach ..); decide) | (apply Reach.ite <;> intro) | simp -zeta -iota only [↓Reach.mk_eq] | split | (apply ReachMk.intro <;> first | exact .inr (by decide) | rfl | exact .inl rfl | skip))

theorem Dev.imgCancel_reach (d : Dev) (xfer : Nat) : Reach (Part.regs ||| Part.fl ||| Part.st) d (Dev.imgCancel d xfer) := by
  unfold Dev.imgCancel
  with_reducible repeat' (first | assumption | exact .refl _ | (extract_lets +onlyGivenNames x; first | (refine Reach.have (x := x) ?_ (fun hx hxs => ?_); unfold x; clear x; rotate_left; clear_value x) | clear_value x) | (apply Reach.via (Dev.imgAbort_reach ..); decide) | (apply Reach.via (Dev.takeCell_reach ..); decide) | (apply Reach.ite <;> intro) | simp -zeta -iota only [↓Reach.mk_eq] | split | (apply ReachMk.intro <;> first | exact .inr (by decide) | rfl | exact .inl rfl | skip))

theorem Dev.validated_reach (d : Dev) (damaged : Bool) : Reach (Part.regs ||| Part.fl ||| Part.st) d (Dev.validated d damaged) := by
  unfold Dev.validated
  with_reducible repeat' (first | assumption | exact .refl _ | (extract_lets +onlyGivenNames x; first | (refine Reach.have (x := x) ?_ (fun hx hxs => ?_); unfold x; clear x; rotate_left; clear_value x) | clear_value x) | (apply Reach.via (Dev.bump_reach ..); decide) | (apply Reach.via (Dev.loadRefuse_reach ..); decide) | (apply Reach.via (Dev.raise_reach ..); decide) | (apply Reach.via (Dev.setNor_reach ..); decide) | (apply Reach.via (Dev.wrAll_reach ..); decide) | (apply Reach.ite <;> intro) | simp -zeta -iota only [↓Reach.mk_eq] | split | dsimp only | (apply ReachMk.intro <;> first | exact .inr (by decide) | rfl | exact .inl rfl | skip))

theorem Dev.persistFail_reach (d : Dev) (code : Nat) : Reach (Part.regs ||| Part.fl ||| Part.st) d (Dev.persistFail d code) := by
  unfold Dev.persistFail
  with_reducible repeat' (first | assumption | exact .refl _ | (extract_lets +onlyGivenNames x; clear_value x) | (apply Reach.wr'; decide) | (apply Reach.via (Dev.raise_reach ..); decide) | simp -zeta -iota only [↓Reach.mk_eq] | (apply ReachMk.intro <;> first | exact .inr (by decide) | rfl | exact .inl rfl | skip))

theorem Dev.persistStart_reach (d : Dev) (value : Nat) : Reach (Part.regs ||| Part.fl ||| Part.st) d (Dev.persistStart d value) := by
  unfold Dev.persistStart
  with_reducible repeat' (first | assumption | exact .refl _ | (extract_lets +onlyGivenNames x; first | (refine Reach.have (x := x) ?_ (fun hx hxs => ?_); unfold x; clear x; rotate_left; clear_value x) | clear_value x) | (apply Reach.wr'; decide) | (apply Reach.via (Dev.persistFail_reach ..); decide) | (apply Reach.via (Dev.setNor_reach ..); decide) | (apply Reach.ite <;> intro) | simp -zeta -iota only [↓Reach.mk_eq] | split | dsimp only | (apply ReachMk.intro <;> first | exact .inr (by decide) | rfl | exact .inl rfl | skip))

theorem Dev.persistDone_reach (d : Dev) (readBack : Bool) : Reach (Part.regs ||| Part.fl ||| Part.st) d (Dev.persistDone d readBack) := by
  unfold Dev.persistDone
  with_reducible repeat' (first | assumption | exact .refl _ | (extract_lets +onlyGivenNames x; first | (refine Reach.have (x := x) ?_ (fun hx hxs => ?_); unfold x; clear x; rotate_left; clear_value x) | clear_value x) | (apply Reach.via (Dev.persistFail_reach ..); decide) | (apply Reach.via (Dev.raise_reach ..); decide) | (apply Reach.via (Dev.setNor_reach ..); decide) | (apply Reach.via (Dev.wrAll_reach ..); decide) | (apply Reach.ite <;> intro) | simp -zeta -iota only [↓Reach.mk_eq] | split | dsimp only | (apply ReachMk.intro <;> first | exact .inr (by decide) | rfl | exact .inl rfl | skip))

theorem Dev.persistCancel_reach (d : Dev) : Reach (Part.regs ||| Part.fl ||| Part.st) d (Dev.persistCancel d) := by
  unfold Dev.persistCancel
  with_reducible repeat' (first | assumption | exact .refl _ | (apply Reach.via (Dev.persistFail_reach ..); decide) | (apply Reach.ite <;> intro) | split)

theorem Dev.bootStream_reach (d : Dev) : Reach (Part.regs ||| Part.fmem ||| Part.pw ||| Part.fl ||| Part.st ||| Part.ce ||| Part.dgr ||| Part.pwm ||| Part.out ||| Part.cap ||| Part.met ||| Part.stk) d (Dev.bootStream d).1 := by
  unfold Dev.bootStream
  with_reducible repeat' (first | assumption | exact .refl _ | (extract_lets +onlyGivenNames x; first | (refine Reach.have (x := x) ?_ (fun hx hxs => ?_); unfold x; clear x; rotate_left; clear_value x) | (have hf : Mem := x; clear hf; unfold x; clear_value x) | clear_value x) | (apply Reach.wr'; decide) | (apply Reach.via (Dev.activateBoot_reach ..); decide) | (apply Reach.via (Dev.fallback_reach ..); decide) | (apply Reach.via (Dev.loadCode_reach ..); decide) | (apply Reach.via (Dev.raise_reach ..); decide) | (apply Dev.forAll_reach <;> intros) | simp -zeta -iota only [↓Reach.mk_eq] | split | dsimp only | (apply ReachMk.intro <;> first | exact .inr (by decide) | rfl | exact .inl rfl | (refine .inr ⟨by decide, ?_⟩; (repeat' (first | exact MemStep.refl _ | exact MemStep.clear _ | apply MemStep.writeNat | apply MemStep.write | apply MemStep.drop)); done) | skip))

theorem Dev.bootStream_reach' {d : Dev} {re : Dev} {rr1 : Bool} (he : Dev.bootStream d = (re, rr1)) : Reach (Part.regs ||| Part.fmem ||| Part.pw ||| Part.fl ||| Part.st ||| Part.ce ||| Part.dgr ||| Part.pwm ||| Part.out ||| Part.cap ||| Part.met ||| Part.stk) d re := by
  have hreach := Dev.bootStream_reach d
  rw [he] at hreach
  exact hreach

theorem Dev.bootStream_via' {mm : Nat} {aa : Dev} {d : Dev} {re : Dev} {rr1 : Bool} (hs : Part.sub (Part.regs ||| Part.fmem ||| Part.pw ||| Part.fl ||| Part.st ||| Part.ce ||| Part.dgr ||| Part.pwm ||| Part.out ||| Part.cap ||| Part.met ||| Part.stk) mm = true) (he : Dev.bootStream d = (re, rr1)) (hr : Reach mm aa d) : Reach mm aa re := hr.step (Dev.bootStream_reach' he) hs

end Sys2Proof.Machine
end

