-- ==== Sys2Proof/Laws/ReachThermal.lean ====
section
/-! SUPPORT. What the functions of Machine/Thermal.lean can do to the block. -/

set_option linter.tactic.unusedName false
set_option linter.unusedTactic false
set_option linter.unusedSimpArgs false
set_option linter.unreachableTactic false
set_option maxHeartbeats 800000

namespace Sys2Proof.Machine

theorem Dev.setGood_reach (d : Dev) (side : Side) (i n : Nat) : Reach (Part.th) d (Dev.setGood d side i n) := by
  unfold Dev.setGood
  with_reducible repeat' (first | assumption | exact .refl _ | (extract_lets +onlyGivenNames x; first | (have hf : Therm := x; clear hf; refine Reach.keep_th (x := x) ?_ (fun hx => ?_); (· intro hs; unfold x; clear x; (repeat' (first | ((try simp only [Therm.Shaped] at *); simp +zetaDelta (maxDischargeDepth := 9) only [Therm.Shaped, Dev.Shaped.th_nor, Dev.Shaped.wr, Dev.Shaped.resetDomains, setAt_length, addAt_length, List.length_map, List.length_replicate, List.length_cons, List.length_nil, List.length_zipWith, List.length_range, List.length_append, List.length_drop, List.length_take, Nat.reduceSub, Nat.reduceLeDiff, Nat.min_eq_left, *, and_self, Nat.reduceAdd, Nat.zero_add]; done) | split))); clear_value x) | clear_value x) | simp -zeta -iota only [↓Reach.mk_eq] | split | (apply ReachMk.intro <;> first | exact .inr (by decide) | rfl | exact .inl rfl | (refine .inr ⟨by decide, fun hs he => ?_⟩; (repeat' (first | ((try simp only [Therm.Shaped] at *); simp +zetaDelta (maxDischargeDepth := 9) only [Therm.Shaped, Dev.Shaped.th_nor, Dev.Shaped.wr, Dev.Shaped.resetDomains, setAt_length, addAt_length, List.length_map, List.length_replicate, List.length_cons, List.length_nil, List.length_zipWith, List.length_range, List.length_append, List.length_drop, List.length_take, Nat.reduceSub, Nat.reduceLeDiff, Nat.min_eq_left, *, and_self, Nat.reduceAdd, Nat.zero_add]; done) | split)); done) | skip))

theorem Dev.sensorRead_reach (d : Dev) (side : Side) (i : Nat) (conv : List Int) (failed : Bool) : Reach (Part.regs ||| Part.hmem ||| Part.free ||| Part.jr ||| Part.rings ||| Part.fl ||| Part.th) d (Dev.sensorRead d side i conv failed) := by
  unfold Dev.sensorRead
  with_reducible repeat' (first | assumption | exact .refl _ | (extract_lets +onlyGivenNames x; first | (refine Reach.have (x := x) ?_ (fun hx hxs => ?_); unfold x; clear x; rotate_left; clear_value x) | (refine Reach.have (x := x.1) ?_ (fun hx hxs => ?_); unfold x; clear x; rotate_left; clear_value x) | (refine Reach.have (x := x.2) ?_ (fun hx hxs => ?_); unfold x; clear x; rotate_left; clear_value x) | clear_value x) | (apply Reach.wr'; decide) | (apply Reach.via (Dev.drawFree_reach ..); decide) | (apply Dev.drawFree_via'; decide; assumption) | (apply Reach.via (Dev.raiseOn_reach ..); decide) | (apply Reach.via (Dev.setGood_reach ..); decide) | (apply Reach.via (Dev.wrS_reach ..); decide) | (apply Reach.ite <;> intro) | simp -zeta -iota only [↓Reach.mk_eq] | split | dsimp only | (apply ReachMk.intro <;> first | exact .inr (by decide) | rfl | exact .inl rfl | skip))

theorem Dev.thermEvent_reach (d : Dev) (side : Side) (kindF nH : Nat) (on : Bool) : Reach (Part.regs ||| Part.hmem ||| Part.jr ||| Part.rings ||| Part.fl) d (Dev.thermEvent d side kindF nH on) := by
  unfold Dev.thermEvent
  with_reducible repeat' (first | assumption | exact .refl _ | (extract_lets +onlyGivenNames x; clear_value x) | (apply Reach.via (Dev.raise_reach ..); decide) | (apply Reach.via (Dev.raiseH_reach ..); decide) | (apply Reach.ite <;> intro) | simp -zeta -iota only [↓Reach.mk_eq] | split | dsimp only | (apply ReachMk.intro <;> first | exact .inr (by decide) | rfl | exact .inl rfl | skip))

theorem Dev.shutRecShow_reach (d : Dev) : Reach (Part.regs) d (Dev.shutRecShow d) := by
  unfold Dev.shutRecShow
  with_reducible repeat' (first | assumption | exact .refl _ | (apply Reach.via (Dev.wrB_reach ..); decide))

theorem Dev.shutFieldStart_reach (d : Dev) (sensor : Nat) (t : Int) : Reach (Part.regs ||| Part.fl ||| Part.th) d (Dev.shutFieldStart d sensor t) := by
  unfold Dev.shutFieldStart
  with_reducible repeat' (first | assumption | exact .refl _ | (extract_lets +onlyGivenNames x; first | (refine Reach.have (x := x) ?_ (fun hx hxs => ?_); unfold x; clear x; rotate_left; clear_value x) | (have hf : Therm := x; clear hf; refine Reach.keep_th (x := x) ?_ (fun hx => ?_); (· intro hs; unfold x; clear x; (repeat' (first | ((try simp only [Therm.Shaped] at *); simp +zetaDelta (maxDischargeDepth := 9) only [Therm.Shaped, Dev.Shaped.th_nor, Dev.Shaped.wr, Dev.Shaped.resetDomains, setAt_length, addAt_length, List.length_map, List.length_replicate, List.length_cons, List.length_nil, List.length_zipWith, List.length_range, List.length_append, List.length_drop, List.length_take, Nat.reduceSub, Nat.reduceLeDiff, Nat.min_eq_left, *, and_self, Nat.reduceAdd, Nat.zero_add]; done) | split))); clear_value x) | clear_value x) | (apply Reach.wr'; decide) | (apply Reach.via (Dev.raise_reach ..); decide) | (apply Reach.via (Dev.shutRecShow_reach ..); decide) | simp -zeta -iota only [↓Reach.mk_eq] | dsimp only | (apply ReachMk.intro <;> first | exact .inr (by decide) | rfl | exact .inl rfl | (refine .inr ⟨by decide, fun hs he => ?_⟩; (repeat' (first | ((try simp only [Therm.Shaped] at *); simp +zetaDelta (maxDischargeDepth := 9) only [Therm.Shaped, Dev.Shaped.th_nor, Dev.Shaped.wr, Dev.Shaped.resetDomains, setAt_length, addAt_length, List.length_map, List.length_replicate, List.length_cons, List.length_nil, List.length_zipWith, List.length_range, List.length_append, List.length_drop, List.length_take, Nat.reduceSub, Nat.reduceLeDiff, Nat.min_eq_left, *, and_self, Nat.reduceAdd, Nat.zero_add]; done) | split)); done) | skip))

theorem Dev.shutHostStart_reach (d : Dev) (sensor : Nat) (t : Int) : Reach (Part.regs ||| Part.hmem ||| Part.jr ||| Part.rings ||| Part.fl ||| Part.veh ||| Part.th) d (Dev.shutHostStart d sensor t) := by
  unfold Dev.shutHostStart
  with_reducible repeat' (first | assumption | exact .refl _ | (extract_lets +onlyGivenNames x; first | (refine Reach.have (x := x) ?_ (fun hx hxs => ?_); unfold x; clear x; rotate_left; clear_value x) | (have hf : Therm := x; clear hf; refine Reach.keep_th (x := x) ?_ (fun hx => ?_); (· intro hs; unfold x; clear x; (repeat' (first | ((try simp only [Therm.Shaped] at *); simp +zetaDelta (maxDischargeDepth := 9) only [Therm.Shaped, Dev.Shaped.th_nor, Dev.Shaped.wr, Dev.Shaped.resetDomains, setAt_length, addAt_length, List.length_map, List.length_replicate, List.length_cons, List.length_nil, List.length_zipWith, List.length_range, List.length_append, List.length_drop, List.length_take, Nat.reduceSub, Nat.reduceLeDiff, Nat.min_eq_left, *, and_self, Nat.reduceAdd, Nat.zero_add]; done) | split))); clear_value x) | clear_value x) | (apply Reach.wr'; decide) | (apply Reach.reset'; decide) | (apply Reach.via (Dev.pilotEnable_reach ..); decide) | (apply Reach.via (Dev.raiseH_reach ..); decide) | (apply Reach.via (Dev.wrAll_reach ..); decide) | (apply Reach.via (Dev.wrS_reach ..); decide) | (apply Dev.forAll_reach <;> intros) | simp -zeta -iota only [↓Reach.mk_eq] | split | dsimp only | (apply ReachMk.intro <;> first | exact .inr (by decide) | rfl | exact .inl rfl | (refine .inr ⟨by decide, fun hs he => ?_⟩; (repeat' (first | ((try simp only [Therm.Shaped] at *); simp +zetaDelta (maxDischargeDepth := 9) only [Therm.Shaped, Dev.Shaped.th_nor, Dev.Shaped.wr, Dev.Shaped.resetDomains, setAt_length, addAt_length, List.length_map, List.length_replicate, List.length_cons, List.length_nil, List.length_zipWith, List.length_range, List.length_append, List.length_drop, List.length_take, Nat.reduceSub, Nat.reduceLeDiff, Nat.min_eq_left, *, and_self, Nat.reduceAdd, Nat.zero_add]; done) | split)); done) | skip))

theorem Dev.shutCheck_reach (d : Dev) (side : Side) : Reach (Part.regs ||| Part.hmem ||| Part.jr ||| Part.rings ||| Part.fl ||| Part.veh ||| Part.th) d (Dev.shutCheck d side) := by
  unfold Dev.shutCheck
  with_reducible repeat' (first | assumption | exact .refl _ | (extract_lets +onlyGivenNames x; first | (refine Reach.have (x := x) ?_ (fun hx hxs => ?_); unfold x; clear x; rotate_left; clear_value x) | (refine Reach.have (x := x.1) ?_ (fun hx hxs => ?_); unfold x; clear x; rotate_left; clear_value x) | (refine Reach.have (x := x.2) ?_ (fun hx hxs => ?_); unfold x; clear x; rotate_left; clear_value x) | (have hf : Therm := x; clear hf; refine Reach.keep_th (x := x) ?_ (fun hx => ?_); (· intro hs; unfold x; clear x; (repeat' (first | ((try simp only [Therm.Shaped] at *); simp +zetaDelta (maxDischargeDepth := 9) only [Therm.Shaped, Dev.Shaped.th_nor, Dev.Shaped.wr, Dev.Shaped.resetDomains, setAt_length, addAt_length, List.length_map, List.length_replicate, List.length_cons, List.length_nil, List.length_zipWith, List.length_range, List.length_append, List.length_drop, List.length_take, Nat.reduceSub, Nat.reduceLeDiff, Nat.min_eq_left, *, and_self, Nat.reduceAdd, Nat.zero_add]; done) | split))); clear_value x) | clear_value x) | (apply Reach.via (Dev.shutFieldStart_reach ..); decide) | (apply Reach.via (Dev.shutHostStart_reach ..); decide) | (apply Reach.via (Dev.wrB_reach ..); decide) | (apply Reach.via (Dev.wrS_reach ..); decide) | (apply Reach.ite <;> intro) | simp -zeta -iota only [↓Reach.mk_eq] | split | dsimp only | (apply ReachMk.intro <;> first | exact .inr (by decide) | rfl | exact .inl rfl | (refine .inr ⟨by decide, fun hs he => ?_⟩; (repeat' (first | ((try simp only [Therm.Shaped] at *); simp +zetaDelta (maxDischargeDepth := 9) only [Therm.Shaped, Dev.Shaped.th_nor, Dev.Shaped.wr, Dev.Shaped.resetDomains, setAt_length, addAt_length, List.length_map, List.length_replicate, List.length_cons, List.length_nil, List.length_zipWith, List.length_range, List.length_append, List.length_drop, List.length_take, Nat.reduceSub, Nat.reduceLeDiff, Nat.min_eq_left, *, and_self, Nat.reduceAdd, Nat.zero_add]; done) | split)); done) | skip))

theorem Dev.thermUpdate_reach (d : Dev) (side : Side) (conv : List (List Int)) (failed : List Bool) : Reach (Part.regs ||| Part.hmem ||| Part.free ||| Part.jr ||| Part.rings ||| Part.fl ||| Part.veh ||| Part.th) d (Dev.thermUpdate d side conv failed) := by
  unfold Dev.thermUpdate
  with_reducible repeat' (first | assumption | exact .refl _ | (extract_lets +onlyGivenNames x; first | (refine Reach.have (x := x) ?_ (fun hx hxs => ?_); unfold x; clear x; rotate_left; clear_value x) | (refine Reach.have (x := x.1) ?_ (fun hx hxs => ?_); unfold x; clear x; rotate_left; clear_value x) | (refine Reach.have (x := x.2) ?_ (fun hx hxs => ?_); unfold x; clear x; rotate_left; clear_value x) | clear_value x) | (apply Reach.wr'; decide) | (apply Reach.via (Dev.sensorRead_reach ..); decide) | (apply Reach.via (Dev.shutCheck_reach ..); decide) | (apply Reach.via (Dev.thermEvent_reach ..); decide) | (apply Reach.via (Dev.wrB_reach ..); decide) | (apply Reach.via (Dev.wrS_reach ..); decide) | (apply Dev.forAll_reach <;> intros) | (apply Reach.ite <;> intro) | simp -zeta -iota only [↓Reach.mk_eq] | split | dsimp only | (apply ReachMk.intro <;> first | exact .inr (by decide) | rfl | exact .inl rfl | skip))

theorem Dev.thresholdWrite_reach (d : Dev) (side : Side) (hyst : Bool) (v : Nat) : Reach (Part.regs) d (Dev.thresholdWrite d side hyst v) := by
  unfold Dev.thresholdWrite
  with_reducible repeat' (first | assumption | exact .refl _ | (extract_lets +onlyGivenNames x; first | (refine Reach.have (x := x) ?_ (fun hx hxs => ?_); unfold x; clear x; rotate_left; clear_value x) | (refine Reach.have (x := x.1) ?_ (fun hx hxs => ?_); unfold x; clear x; rotate_left; clear_value x) | (refine Reach.have (x := x.2) ?_ (fun hx hxs => ?_); unfold x; clear x; rotate_left; clear_value x) | clear_value x) | (apply Reach.wr'; decide) | (apply Reach.via (Dev.wrAll_reach ..); decide) | (apply Reach.ite <;> intro) | split | dsimp only)

theorem Dev.recWrite_reach (d : Dev) (x : ShutRec) : Reach (Part.th) d (Dev.recWrite d x) := by
  unfold Dev.recWrite
  with_reducible repeat' (first | assumption | exact .refl _ | (extract_lets +onlyGivenNames x; first | (refine Reach.have (x := x) ?_ (fun hx hxs => ?_); unfold x; clear x; rotate_left; clear_value x) | (have hf : Therm := x; clear hf; refine Reach.keep_th (x := x) ?_ (fun hx => ?_); (· intro hs; unfold x; clear x; (repeat' (first | ((try simp only [Therm.Shaped] at *); simp +zetaDelta (maxDischargeDepth := 9) only [Therm.Shaped, Dev.Shaped.th_nor, Dev.Shaped.wr, Dev.Shaped.resetDomains, setAt_length, addAt_length, List.length_map, List.length_replicate, List.length_cons, List.length_nil, List.length_zipWith, List.length_range, List.length_append, List.length_drop, List.length_take, Nat.reduceSub, Nat.reduceLeDiff, Nat.min_eq_left, *, and_self, Nat.reduceAdd, Nat.zero_add]; done) | split))); clear_value x) | clear_value x) | simp -zeta -iota only [↓Reach.mk_eq] | dsimp only | (apply ReachMk.intro <;> first | exact .inr (by decide) | rfl | exact .inl rfl | (refine .inr ⟨by decide, fun hs he => ?_⟩; (repeat' (first | ((try simp only [Therm.Shaped] at *); simp +zetaDelta (maxDischargeDepth := 9) only [Therm.Shaped, Dev.Shaped.th_nor, Dev.Shaped.wr, Dev.Shaped.resetDomains, setAt_length, addAt_length, List.length_map, List.length_replicate, List.length_cons, List.length_nil, List.length_zipWith, List.length_range, List.length_append, List.length_drop, List.length_take, Nat.reduceSub, Nat.reduceLeDiff, Nat.min_eq_left, *, and_self, Nat.reduceAdd, Nat.zero_add]; done) | split)); done) | skip))

theorem Dev.recCopy_reach (d : Dev) : Reach (Part.regs ||| Part.th) d (Dev.recCopy d) := by
  unfold Dev.recCopy
  with_reducible repeat' (first | assumption | exact .refl _ | (extract_lets +onlyGivenNames x; clear_value x) | (apply Reach.via (Dev.recWrite_reach ..); decide) | (apply Reach.via (Dev.shutRecShow_reach ..); decide) | (apply Reach.ite <;> intro) | simp -zeta -iota only [↓Reach.mk_eq] | split | (apply ReachMk.intro <;> first | exact .inr (by decide) | rfl | exact .inl rfl | skip))

theorem Dev.shutAck_reach (d : Dev) : Reach (Part.regs ||| Part.th) d (Dev.shutAck d) := by
  unfold Dev.shutAck
  with_reducible repeat' (first | assumption | exact .refl _ | (extract_lets +onlyGivenNames x; first | (refine Reach.have (x := x) ?_ (fun hx hxs => ?_); unfold x; clear x; rotate_left; clear_value x) | (have hf : Therm := x; clear hf; refine Reach.keep_th (x := x) ?_ (fun hx => ?_); (· intro hs; unfold x; clear x; (repeat' (first | ((try simp only [Therm.Shaped] at *); simp +zetaDelta (maxDischargeDepth := 9) only [Therm.Shaped, Dev.Shaped.th_nor, Dev.Shaped.wr, Dev.Shaped.resetDomains, setAt_length, addAt_length, List.length_map, List.length_replicate, List.length_cons, List.length_nil, List.length_zipWith, List.length_range, List.length_append, List.length_drop, List.length_take, Nat.reduceSub, Nat.reduceLeDiff, Nat.min_eq_left, *, and_self, Nat.reduceAdd, Nat.zero_add]; done) | split))); clear_value x) | clear_value x) | (apply Reach.wr'; decide) | (apply Reach.via (Dev.recWrite_reach ..); decide) | (apply Reach.via (Dev.shutRecShow_reach ..); decide) | (apply Reach.ite <;> intro) | simp -zeta -iota only [↓Reach.mk_eq] | split | (apply ReachMk.intro <;> first | exact .inr (by decide) | rfl | exact .inl rfl | (refine .inr ⟨by decide, fun hs he => ?_⟩; (repeat' (first | ((try simp only [Therm.Shaped] at *); simp +zetaDelta (maxDischargeDepth := 9) only [Therm.Shaped, Dev.Shaped.th_nor, Dev.Shaped.wr, Dev.Shaped.resetDomains, setAt_length, addAt_length, List.length_map, List.length_replicate, List.length_cons, List.length_nil, List.length_zipWith, List.length_range, List.length_append, List.length_drop, List.length_take, Nat.reduceSub, Nat.reduceLeDiff, Nat.min_eq_left, *, and_self, Nat.reduceAdd, Nat.zero_add]; done) | split)); done) | skip))

theorem Dev.tqsEnd_reach (d : Dev) : Reach (Part.regs ||| Part.fl ||| Part.tm ||| Part.out ||| Part.ctr ||| Part.bil ||| Part.bst) d (Dev.tqsEnd d) := by
  unfold Dev.tqsEnd
  with_reducible repeat' (first | assumption | exact .refl _ | (apply Reach.via (Dev.advanceTo_reach ..); decide) | (apply Reach.via (Dev.outsTripped_reach ..); decide) | (apply Reach.ite <;> intro) | split | dsimp only)

end Sys2Proof.Machine
end

