-- ==== Sys2Proof/Laws/ReachRequests.lean ====
section
/-! SUPPORT. What the functions of Machine/Requests.lean can do to the block. -/

set_option linter.tactic.unusedName false
set_option linter.unusedTactic false
set_option linter.unusedSimpArgs false
set_option linter.unreachableTactic false
set_option maxHeartbeats 800000

namespace Sys2Proof.Machine

theorem Dev.heartbeat_reach (d : Dev) (hbSeq hostState : Nat) : Reach (Part.regs ||| Part.fl) d (Dev.heartbeat d hbSeq hostState) := by
  unfold Dev.heartbeat
  with_reducible repeat' (first | assumption | exact .refl _ | (extract_lets +onlyGivenNames x; first | (refine Reach.have (x := x) ?_ (fun hx hxs => ?_); unfold x; clear x; rotate_left; clear_value x) | clear_value x) | (apply Reach.wr'; decide) | (apply Reach.via (Dev.sendF_reach ..); decide) | (apply Reach.via (Dev.takeCell_reach ..); decide) | (apply Reach.ite <;> intro) | simp -zeta -iota only [↓Reach.mk_eq] | split | dsimp only | (apply ReachMk.intro <;> first | exact .inr (by decide) | rfl | exact .inl rfl | skip))

theorem Dev.orderEvent_reach (d : Dev) (ty b0 index msgid reason : Nat) : Reach (Part.fl) d (Dev.orderEvent d ty b0 index msgid reason) := by
  unfold Dev.orderEvent
  with_reducible repeat' (first | assumption | exact .refl _ | (apply Reach.via (Dev.raise_reach ..); decide) | dsimp only)

theorem Dev.tripOutput_reach (d : Dev) (n : Nat) : Reach (Part.regs ||| Part.fl ||| Part.pwm ||| Part.out ||| Part.cap) d (Dev.tripOutput d n) := by
  unfold Dev.tripOutput
  with_reducible repeat' (first | assumption | exact .refl _ | (apply Reach.via (Dev.outImmediate_reach ..); decide) | (apply Reach.via (Dev.swTripOut_reach ..); decide) | (apply Reach.ite <;> intro) | split | dsimp only)

theorem Dev.tripOrder_reach (d : Dev) (scope index msgid reason : Nat) : Reach (Part.regs ||| Part.pw ||| Part.fl ||| Part.pwm ||| Part.out ||| Part.cap) d (Dev.tripOrder d scope index msgid reason) := by
  unfold Dev.tripOrder
  with_reducible repeat' (first | assumption | exact .refl _ | (extract_lets +onlyGivenNames x; first | (refine Reach.have (x := x) ?_ (fun hx hxs => ?_); unfold x; clear x; rotate_left; clear_value x) | clear_value x) | (apply Reach.via (Dev.deviceTrip_reach ..); decide) | (apply Reach.via (Dev.orderEvent_reach ..); decide) | (apply Reach.via (Dev.swTripGroups_reach ..); decide) | (apply Reach.via (Dev.takeCell_reach ..); decide) | (apply Reach.via (Dev.tripOutput_reach ..); decide) | (apply Reach.ite <;> intro) | split | dsimp only)

theorem Dev.ctlAccept_reach (d : Dev) (ty : Nat) (payload : List Byte) : Reach (Part.fl) d (Dev.ctlAccept d ty payload) := by
  unfold Dev.ctlAccept
  with_reducible repeat' (first | assumption | exact .refl _ | (extract_lets +onlyGivenNames x; first | (refine Reach.have (x := x) ?_ (fun hx hxs => ?_); unfold x; clear x; rotate_left; clear_value x) | clear_value x) | (apply Reach.via (Dev.sendF_reach ..); decide) | (apply Reach.via (Dev.takeCell_reach ..); decide) | (apply Reach.ite <;> intro) | simp -zeta -iota only [↓Reach.mk_eq] | split | dsimp only | (apply ReachMk.intro <;> first | exact .inr (by decide) | rfl | exact .inl rfl | skip))

theorem Dev.paramWrite_reach (d : Dev) (addr v : Nat) : Reach (Part.regs ||| Part.fmem ||| Part.hmem ||| Part.free ||| Part.inj ||| Part.jr ||| Part.rings ||| Part.pw ||| Part.fl ||| Part.tm ||| Part.st ||| Part.ce ||| Part.dgr ||| Part.pwm ||| Part.out ||| Part.cbl ||| Part.veh ||| Part.cap ||| Part.ash ||| Part.fba ||| Part.ctr ||| Part.imd ||| Part.tlm ||| Part.shr ||| Part.rt ||| Part.net ||| Part.svg ||| Part.met ||| Part.bil ||| Part.bst ||| Part.tw ||| Part.ffuse ||| Part.hfuse ||| Part.fsec ||| Part.enc ||| Part.stk ||| Part.can ||| Part.hp ||| Part.th) d (Dev.paramWrite d addr v) := by
  unfold Dev.paramWrite
  with_reducible repeat' (first | assumption | exact .refl _ | (extract_lets +onlyGivenNames x; clear_value x) | (apply Reach.via (Dev.writeWord_reach ..); decide) | simp -zeta -iota only [↓Reach.mk_eq] | split | (apply ReachMk.intro <;> first | exact .inr (by decide) | rfl | exact .inl rfl | skip))

theorem Dev.targetSet_reach (d : Dev) (st : StreamData) (num v : Nat) : Reach (Part.regs ||| Part.ce) d (Dev.targetSet d st num v) := by
  unfold Dev.targetSet
  with_reducible repeat' (first | assumption | exact .refl _ | (extract_lets +onlyGivenNames x; first | (refine Reach.have (x := x) ?_ (fun hx hxs => ?_); unfold x; clear x; rotate_left; clear_value x) | (refine Reach.have (x := x.1) ?_ (fun hx hxs => ?_); unfold x; clear x; rotate_left; clear_value x) | (refine Reach.have (x := x.2) ?_ (fun hx hxs => ?_); unfold x; clear x; rotate_left; clear_value x) | clear_value x) | (apply Reach.via (Dev.targetClamp_reach ..); decide) | (apply Dev.targetClamp_via'; decide; assumption) | (apply Reach.via (Dev.targetPut_reach ..); decide) | (apply Reach.ite <;> intro) | simp -zeta -iota only [↓Reach.mk_eq] | split | dsimp only | (apply ReachMk.intro <;> first | exact .inr (by decide) | rfl | exact .inl rfl | skip))

theorem Dev.reqApply_reach (d : Dev) (q : CtlReq) : Reach (Part.regs ||| Part.fmem ||| Part.hmem ||| Part.free ||| Part.inj ||| Part.jr ||| Part.rings ||| Part.pw ||| Part.fl ||| Part.tm ||| Part.st ||| Part.ce ||| Part.dgr ||| Part.pwm ||| Part.out ||| Part.cbl ||| Part.veh ||| Part.cap ||| Part.ash ||| Part.fba ||| Part.ctr ||| Part.imd ||| Part.tlm ||| Part.shr ||| Part.rt ||| Part.net ||| Part.svg ||| Part.met ||| Part.bil ||| Part.bst ||| Part.tw ||| Part.ffuse ||| Part.hfuse ||| Part.fsec ||| Part.enc ||| Part.stk ||| Part.can ||| Part.hp ||| Part.th) d (Dev.reqApply d q) := by
  unfold Dev.reqApply
  with_reducible repeat' (first | assumption | exact .refl _ | (extract_lets +onlyGivenNames x; first | (refine Reach.have (x := x) ?_ (fun hx hxs => ?_); unfold x; clear x; rotate_left; clear_value x) | clear_value x) | (apply Reach.via (Dev.paramWrite_reach ..); decide) | (apply Reach.via (Dev.streamWords_reach ..); decide) | (apply Reach.via (Dev.targetSet_reach ..); decide) | (apply Dev.forAll_reach <;> intros) | (apply Reach.ite <;> intro) | simp -zeta -iota only [↓Reach.mk_eq] | split | dsimp only | (apply ReachMk.intro <;> first | exact .inr (by decide) | rfl | exact .inl rfl | skip))

theorem Dev.reqsTake_reach (d : Dev) : Reach (Part.regs ||| Part.fmem ||| Part.hmem ||| Part.free ||| Part.inj ||| Part.jr ||| Part.rings ||| Part.pw ||| Part.fl ||| Part.tm ||| Part.st ||| Part.ce ||| Part.dgr ||| Part.pwm ||| Part.out ||| Part.cbl ||| Part.veh ||| Part.cap ||| Part.ash ||| Part.fba ||| Part.ctr ||| Part.imd ||| Part.tlm ||| Part.shr ||| Part.rt ||| Part.net ||| Part.svg ||| Part.met ||| Part.bil ||| Part.bst ||| Part.tw ||| Part.ffuse ||| Part.hfuse ||| Part.fsec ||| Part.enc ||| Part.stk ||| Part.can ||| Part.hp ||| Part.th) d (Dev.reqsTake d) := by
  unfold Dev.reqsTake
  with_reducible repeat' (first | assumption | exact .refl _ | (extract_lets +onlyGivenNames x; first | (refine Reach.have (x := x) ?_ (fun hx hxs => ?_); unfold x; clear x; rotate_left; clear_value x) | clear_value x) | (apply Reach.via (Dev.reqApply_reach ..); decide) | (apply Dev.forAll_reach <;> intros) | (apply Reach.ite <;> intro) | simp -zeta -iota only [↓Reach.mk_eq] | split | dsimp only | (apply ReachMk.intro <;> first | exact .inr (by decide) | rfl | exact .inl rfl | skip))

theorem Dev.paramRead_reach (d : Dev) (addr : Nat) : Reach (Part.regs ||| Part.lastRead ||| Part.free ||| Part.ce ||| Part.net ||| Part.can ||| Part.hp) d (Dev.paramRead d addr).2 := by
  unfold Dev.paramRead
  with_reducible repeat' (first | assumption | exact .refl _ | (extract_lets +onlyGivenNames x; first | (refine Reach.have (x := x) ?_ (fun hx hxs => ?_); unfold x; clear x; rotate_left; clear_value x) | clear_value x) | (apply Reach.via (Dev.readWord_reach ..); decide) | (apply Reach.ite <;> intro) | simp -zeta -iota only [↓Reach.mk_eq] | split | dsimp only | (apply ReachMk.intro <;> first | exact .inr (by decide) | rfl | exact .inl rfl | skip))

theorem Dev.paramRead_reach' {d : Dev} {addr : Nat} {rr0 : Nat} {re : Dev} (he : Dev.paramRead d addr = (rr0, re)) : Reach (Part.regs ||| Part.lastRead ||| Part.free ||| Part.ce ||| Part.net ||| Part.can ||| Part.hp) d re := by
  have hreach := Dev.paramRead_reach d addr
  rw [he] at hreach
  exact hreach

theorem Dev.paramRead_via' {mm : Nat} {aa : Dev} {d : Dev} {addr : Nat} {rr0 : Nat} {re : Dev} (hs : Part.sub (Part.regs ||| Part.lastRead ||| Part.free ||| Part.ce ||| Part.net ||| Part.can ||| Part.hp) mm = true) (he : Dev.paramRead d addr = (rr0, re)) (hr : Reach mm aa d) : Reach mm aa re := hr.step (Dev.paramRead_reach' he) hs

theorem Dev.paramReads_reach (d : Dev) (x0 : List (Nat × Nat)) : Reach (Part.regs ||| Part.lastRead ||| Part.free ||| Part.ce ||| Part.net ||| Part.can ||| Part.hp) d (Dev.paramReads d x0).2 := by
  induction x0 generalizing d with
  | nil => unfold Dev.paramReads; with_reducible repeat' (first | assumption | exact .refl _ | exact .trans (by assumption) (ih ..) | refine .trans ?_ (ih ..) | (extract_lets +onlyGivenNames x; first | (refine Reach.have (x := x) ?_ (fun hx hxs => ?_); unfold x; clear x; rotate_left; clear_value x) | (refine Reach.have (x := x.1) ?_ (fun hx hxs => ?_); unfold x; clear x; rotate_left; clear_value x) | (refine Reach.have (x := x.2) ?_ (fun hx hxs => ?_); unfold x; clear x; rotate_left; clear_value x) | clear_value x) | (apply Reach.via (Dev.paramRead_reach ..); decide) | split | dsimp only)
  | cons z l ih => unfold Dev.paramReads; with_reducible repeat' (first | assumption | exact .refl _ | exact .trans (by assumption) (ih ..) | refine .trans ?_ (ih ..) | (extract_lets +onlyGivenNames x; first | (refine Reach.have (x := x) ?_ (fun hx hxs => ?_); unfold x; clear x; rotate_left; clear_value x) | (refine Reach.have (x := x.1) ?_ (fun hx hxs => ?_); unfold x; clear x; rotate_left; clear_value x) | (refine Reach.have (x := x.2) ?_ (fun hx hxs => ?_); unfold x; clear x; rotate_left; clear_value x) | clear_value x) | (apply Reach.via (Dev.paramRead_reach ..); decide) | split | dsimp only)

theorem Dev.paramReads_reach' {d : Dev} {x0 : List (Nat × Nat)} {rr0 : List Nat} {re : Dev} (he : Dev.paramReads d x0 = (rr0, re)) : Reach (Part.regs ||| Part.lastRead ||| Part.free ||| Part.ce ||| Part.net ||| Part.can ||| Part.hp) d re := by
  have hreach := Dev.paramReads_reach d x0
  rw [he] at hreach
  exact hreach

theorem Dev.paramReads_via' {mm : Nat} {aa : Dev} {d : Dev} {x0 : List (Nat × Nat)} {rr0 : List Nat} {re : Dev} (hs : Part.sub (Part.regs ||| Part.lastRead ||| Part.free ||| Part.ce ||| Part.net ||| Part.can ||| Part.hp) mm = true) (he : Dev.paramReads d x0 = (rr0, re)) (hr : Reach mm aa d) : Reach mm aa re := hr.step (Dev.paramReads_reach' he) hs

theorem Dev.reqsAnswer_reach (d : Dev) (s : Nat) : Reach (Part.regs ||| Part.lastRead ||| Part.free ||| Part.fl ||| Part.ce ||| Part.net ||| Part.can ||| Part.hp) d (Dev.reqsAnswer d s) := by
  unfold Dev.reqsAnswer
  with_reducible repeat' (first | assumption | exact .refl _ | (extract_lets +onlyGivenNames x; first | (refine Reach.have (x := x) ?_ (fun hx hxs => ?_); unfold x; clear x; rotate_left; clear_value x) | (refine Reach.have (x := x.1) ?_ (fun hx hxs => ?_); unfold x; clear x; rotate_left; clear_value x) | (refine Reach.have (x := x.2) ?_ (fun hx hxs => ?_); unfold x; clear x; rotate_left; clear_value x) | clear_value x) | (apply Reach.via (Dev.paramReads_reach ..); decide) | (apply Reach.via (Dev.respond_reach ..); decide) | (apply Dev.forAll_reach <;> intros) | (apply Reach.ite <;> intro) | simp -zeta -iota only [↓Reach.mk_eq] | split | dsimp only | (apply ReachMk.intro <;> first | exact .inr (by decide) | rfl | exact .inl rfl | skip))

end Sys2Proof.Machine
end

