-- ==== Sys2Proof/Laws/State.lean ====
section
/-! SUPPORT. The small lemmas of State: what each named update leaves of each part, so that no later proof unfolds a record update. -/

namespace Sys2Proof.Machine

/-! ## A register field written -/

@[simp] theorem Dev.wr_fmem (d : Dev) (f : Fld) (v : Nat) : (d.wr f v).fmem = d.fmem := rfl
@[simp] theorem Dev.wr_hmem (d : Dev) (f : Fld) (v : Nat) : (d.wr f v).hmem = d.hmem := rfl
@[simp] theorem Dev.wr_lastRead (d : Dev) (f : Fld) (v : Nat) : (d.wr f v).lastRead = d.lastRead := rfl
@[simp] theorem Dev.wr_busError (d : Dev) (f : Fld) (v : Nat) : (d.wr f v).busError = d.busError := rfl
@[simp] theorem Dev.wr_free (d : Dev) (f : Fld) (v : Nat) : (d.wr f v).free = d.free := rfl
@[simp] theorem Dev.wr_inj (d : Dev) (f : Fld) (v : Nat) : (d.wr f v).inj = d.inj := rfl
@[simp] theorem Dev.wr_jr (d : Dev) (f : Fld) (v : Nat) : (d.wr f v).jr = d.jr := rfl
@[simp] theorem Dev.wr_rings (d : Dev) (f : Fld) (v : Nat) : (d.wr f v).rings = d.rings := rfl
@[simp] theorem Dev.wr_pw (d : Dev) (f : Fld) (v : Nat) : (d.wr f v).pw = d.pw := rfl
@[simp] theorem Dev.wr_fl (d : Dev) (f : Fld) (v : Nat) : (d.wr f v).fl = d.fl := rfl
@[simp] theorem Dev.wr_tm (d : Dev) (f : Fld) (v : Nat) : (d.wr f v).tm = d.tm := rfl
@[simp] theorem Dev.wr_st (d : Dev) (f : Fld) (v : Nat) : (d.wr f v).st = d.st := rfl
@[simp] theorem Dev.wr_ce (d : Dev) (f : Fld) (v : Nat) : (d.wr f v).ce = d.ce := rfl
@[simp] theorem Dev.wr_dgr (d : Dev) (f : Fld) (v : Nat) : (d.wr f v).dgr = d.dgr := rfl
@[simp] theorem Dev.wr_pwm (d : Dev) (f : Fld) (v : Nat) : (d.wr f v).pwm = d.pwm := rfl
@[simp] theorem Dev.wr_out (d : Dev) (f : Fld) (v : Nat) : (d.wr f v).out = d.out := rfl
@[simp] theorem Dev.wr_cbl (d : Dev) (f : Fld) (v : Nat) : (d.wr f v).cbl = d.cbl := rfl
@[simp] theorem Dev.wr_veh (d : Dev) (f : Fld) (v : Nat) : (d.wr f v).veh = d.veh := rfl
@[simp] theorem Dev.wr_cap (d : Dev) (f : Fld) (v : Nat) : (d.wr f v).cap = d.cap := rfl
@[simp] theorem Dev.wr_ash (d : Dev) (f : Fld) (v : Nat) : (d.wr f v).ash = d.ash := rfl
@[simp] theorem Dev.wr_fba (d : Dev) (f : Fld) (v : Nat) : (d.wr f v).fba = d.fba := rfl
@[simp] theorem Dev.wr_ctr (d : Dev) (f : Fld) (v : Nat) : (d.wr f v).ctr = d.ctr := rfl
@[simp] theorem Dev.wr_imd (d : Dev) (f : Fld) (v : Nat) : (d.wr f v).imd = d.imd := rfl
@[simp] theorem Dev.wr_tlm (d : Dev) (f : Fld) (v : Nat) : (d.wr f v).tlm = d.tlm := rfl
@[simp] theorem Dev.wr_shr (d : Dev) (f : Fld) (v : Nat) : (d.wr f v).shr = d.shr := rfl
@[simp] theorem Dev.wr_rt (d : Dev) (f : Fld) (v : Nat) : (d.wr f v).rt = d.rt := rfl
@[simp] theorem Dev.wr_net (d : Dev) (f : Fld) (v : Nat) : (d.wr f v).net = d.net := rfl
@[simp] theorem Dev.wr_svg (d : Dev) (f : Fld) (v : Nat) : (d.wr f v).svg = d.svg := rfl
@[simp] theorem Dev.wr_met (d : Dev) (f : Fld) (v : Nat) : (d.wr f v).met = d.met := rfl
@[simp] theorem Dev.wr_bil (d : Dev) (f : Fld) (v : Nat) : (d.wr f v).bil = d.bil := rfl
@[simp] theorem Dev.wr_bst (d : Dev) (f : Fld) (v : Nat) : (d.wr f v).bst = d.bst := rfl
@[simp] theorem Dev.wr_tw (d : Dev) (f : Fld) (v : Nat) : (d.wr f v).tw = d.tw := rfl
@[simp] theorem Dev.wr_ffuse (d : Dev) (f : Fld) (v : Nat) : (d.wr f v).ffuse = d.ffuse := rfl
@[simp] theorem Dev.wr_hfuse (d : Dev) (f : Fld) (v : Nat) : (d.wr f v).hfuse = d.hfuse := rfl
@[simp] theorem Dev.wr_fsec (d : Dev) (f : Fld) (v : Nat) : (d.wr f v).fsec = d.fsec := rfl
@[simp] theorem Dev.wr_enc (d : Dev) (f : Fld) (v : Nat) : (d.wr f v).enc = d.enc := rfl
@[simp] theorem Dev.wr_stk (d : Dev) (f : Fld) (v : Nat) : (d.wr f v).stk = d.stk := rfl
@[simp] theorem Dev.wr_can (d : Dev) (f : Fld) (v : Nat) : (d.wr f v).can = d.can := rfl
@[simp] theorem Dev.wr_hp (d : Dev) (f : Fld) (v : Nat) : (d.wr f v).hp = d.hp := rfl
@[simp] theorem Dev.wr_th (d : Dev) (f : Fld) (v : Nat) : (d.wr f v).th = d.th := rfl

/-! ## A field event raised (R404): only the flue part changes -/

@[simp] theorem Dev.raise_regs (d : Dev) (n kind : Nat) (data : List Nat) : (d.raise n kind data).regs = d.regs := by unfold Dev.raise Dev.sendF; dsimp only; split <;> split <;> rfl
@[simp] theorem Dev.raise_fmem (d : Dev) (n kind : Nat) (data : List Nat) : (d.raise n kind data).fmem = d.fmem := by unfold Dev.raise Dev.sendF; dsimp only; split <;> split <;> rfl
@[simp] theorem Dev.raise_hmem (d : Dev) (n kind : Nat) (data : List Nat) : (d.raise n kind data).hmem = d.hmem := by unfold Dev.raise Dev.sendF; dsimp only; split <;> split <;> rfl
@[simp] theorem Dev.raise_lastRead (d : Dev) (n kind : Nat) (data : List Nat) : (d.raise n kind data).lastRead = d.lastRead := by unfold Dev.raise Dev.sendF; dsimp only; split <;> split <;> rfl
@[simp] theorem Dev.raise_busError (d : Dev) (n kind : Nat) (data : List Nat) : (d.raise n kind data).busError = d.busError := by unfold Dev.raise Dev.sendF; dsimp only; split <;> split <;> rfl
@[simp] theorem Dev.raise_free (d : Dev) (n kind : Nat) (data : List Nat) : (d.raise n kind data).free = d.free := by unfold Dev.raise Dev.sendF; dsimp only; split <;> split <;> rfl
@[simp] theorem Dev.raise_inj (d : Dev) (n kind : Nat) (data : List Nat) : (d.raise n kind data).inj = d.inj := by unfold Dev.raise Dev.sendF; dsimp only; split <;> split <;> rfl
@[simp] theorem Dev.raise_jr (d : Dev) (n kind : Nat) (data : List Nat) : (d.raise n kind data).jr = d.jr := by unfold Dev.raise Dev.sendF; dsimp only; split <;> split <;> rfl
@[simp] theorem Dev.raise_rings (d : Dev) (n kind : Nat) (data : List Nat) : (d.raise n kind data).rings = d.rings := by unfold Dev.raise Dev.sendF; dsimp only; split <;> split <;> rfl
@[simp] theorem Dev.raise_pw (d : Dev) (n kind : Nat) (data : List Nat) : (d.raise n kind data).pw = d.pw := by unfold Dev.raise Dev.sendF; dsimp only; split <;> split <;> rfl
@[simp] theorem Dev.raise_tm (d : Dev) (n kind : Nat) (data : List Nat) : (d.raise n kind data).tm = d.tm := by unfold Dev.raise Dev.sendF; dsimp only; split <;> split <;> rfl
@[simp] theorem Dev.raise_st (d : Dev) (n kind : Nat) (data : List Nat) : (d.raise n kind data).st = d.st := by unfold Dev.raise Dev.sendF; dsimp only; split <;> split <;> rfl
@[simp] theorem Dev.raise_ce (d : Dev) (n kind : Nat) (data : List Nat) : (d.raise n kind data).ce = d.ce := by unfold Dev.raise Dev.sendF; dsimp only; split <;> split <;> rfl
@[simp] theorem Dev.raise_dgr (d : Dev) (n kind : Nat) (data : List Nat) : (d.raise n kind data).dgr = d.dgr := by unfold Dev.raise Dev.sendF; dsimp only; split <;> split <;> rfl
@[simp] theorem Dev.raise_pwm (d : Dev) (n kind : Nat) (data : List Nat) : (d.raise n kind data).pwm = d.pwm := by unfold Dev.raise Dev.sendF; dsimp only; split <;> split <;> rfl
@[simp] theorem Dev.raise_out (d : Dev) (n kind : Nat) (data : List Nat) : (d.raise n kind data).out = d.out := by unfold Dev.raise Dev.sendF; dsimp only; split <;> split <;> rfl
@[simp] theorem Dev.raise_cbl (d : Dev) (n kind : Nat) (data : List Nat) : (d.raise n kind data).cbl = d.cbl := by unfold Dev.raise Dev.sendF; dsimp only; split <;> split <;> rfl
@[simp] theorem Dev.raise_veh (d : Dev) (n kind : Nat) (data : List Nat) : (d.raise n kind data).veh = d.veh := by unfold Dev.raise Dev.sendF; dsimp only; split <;> split <;> rfl
@[simp] theorem Dev.raise_cap (d : Dev) (n kind : Nat) (data : List Nat) : (d.raise n kind data).cap = d.cap := by unfold Dev.raise Dev.sendF; dsimp only; split <;> split <;> rfl
@[simp] theorem Dev.raise_ash (d : Dev) (n kind : Nat) (data : List Nat) : (d.raise n kind data).ash = d.ash := by unfold Dev.raise Dev.sendF; dsimp only; split <;> split <;> rfl
@[simp] theorem Dev.raise_fba (d : Dev) (n kind : Nat) (data : List Nat) : (d.raise n kind data).fba = d.fba := by unfold Dev.raise Dev.sendF; dsimp only; split <;> split <;> rfl
@[simp] theorem Dev.raise_ctr (d : Dev) (n kind : Nat) (data : List Nat) : (d.raise n kind data).ctr = d.ctr := by unfold Dev.raise Dev.sendF; dsimp only; split <;> split <;> rfl
@[simp] theorem Dev.raise_imd (d : Dev) (n kind : Nat) (data : List Nat) : (d.raise n kind data).imd = d.imd := by unfold Dev.raise Dev.sendF; dsimp only; split <;> split <;> rfl
@[simp] theorem Dev.raise_tlm (d : Dev) (n kind : Nat) (data : List Nat) : (d.raise n kind data).tlm = d.tlm := by unfold Dev.raise Dev.sendF; dsimp only; split <;> split <;> rfl
@[simp] theorem Dev.raise_shr (d : Dev) (n kind : Nat) (data : List Nat) : (d.raise n kind data).shr = d.shr := by unfold Dev.raise Dev.sendF; dsimp only; split <;> split <;> rfl
@[simp] theorem Dev.raise_rt (d : Dev) (n kind : Nat) (data : List Nat) : (d.raise n kind data).rt = d.rt := by unfold Dev.raise Dev.sendF; dsimp only; split <;> split <;> rfl
@[simp] theorem Dev.raise_net (d : Dev) (n kind : Nat) (data : List Nat) : (d.raise n kind data).net = d.net := by unfold Dev.raise Dev.sendF; dsimp only; split <;> split <;> rfl
@[simp] theorem Dev.raise_svg (d : Dev) (n kind : Nat) (data : List Nat) : (d.raise n kind data).svg = d.svg := by unfold Dev.raise Dev.sendF; dsimp only; split <;> split <;> rfl
@[simp] theorem Dev.raise_met (d : Dev) (n kind : Nat) (data : List Nat) : (d.raise n kind data).met = d.met := by unfold Dev.raise Dev.sendF; dsimp only; split <;> split <;> rfl
@[simp] theorem Dev.raise_bil (d : Dev) (n kind : Nat) (data : List Nat) : (d.raise n kind data).bil = d.bil := by unfold Dev.raise Dev.sendF; dsimp only; split <;> split <;> rfl
@[simp] theorem Dev.raise_bst (d : Dev) (n kind : Nat) (data : List Nat) : (d.raise n kind data).bst = d.bst := by unfold Dev.raise Dev.sendF; dsimp only; split <;> split <;> rfl
@[simp] theorem Dev.raise_tw (d : Dev) (n kind : Nat) (data : List Nat) : (d.raise n kind data).tw = d.tw := by unfold Dev.raise Dev.sendF; dsimp only; split <;> split <;> rfl
@[simp] theorem Dev.raise_ffuse (d : Dev) (n kind : Nat) (data : List Nat) : (d.raise n kind data).ffuse = d.ffuse := by unfold Dev.raise Dev.sendF; dsimp only; split <;> split <;> rfl
@[simp] theorem Dev.raise_hfuse (d : Dev) (n kind : Nat) (data : List Nat) : (d.raise n kind data).hfuse = d.hfuse := by unfold Dev.raise Dev.sendF; dsimp only; split <;> split <;> rfl
@[simp] theorem Dev.raise_fsec (d : Dev) (n kind : Nat) (data : List Nat) : (d.raise n kind data).fsec = d.fsec := by unfold Dev.raise Dev.sendF; dsimp only; split <;> split <;> rfl
@[simp] theorem Dev.raise_enc (d : Dev) (n kind : Nat) (data : List Nat) : (d.raise n kind data).enc = d.enc := by unfold Dev.raise Dev.sendF; dsimp only; split <;> split <;> rfl
@[simp] theorem Dev.raise_stk (d : Dev) (n kind : Nat) (data : List Nat) : (d.raise n kind data).stk = d.stk := by unfold Dev.raise Dev.sendF; dsimp only; split <;> split <;> rfl
@[simp] theorem Dev.raise_can (d : Dev) (n kind : Nat) (data : List Nat) : (d.raise n kind data).can = d.can := by unfold Dev.raise Dev.sendF; dsimp only; split <;> split <;> rfl
@[simp] theorem Dev.raise_hp (d : Dev) (n kind : Nat) (data : List Nat) : (d.raise n kind data).hp = d.hp := by unfold Dev.raise Dev.sendF; dsimp only; split <;> split <;> rfl
@[simp] theorem Dev.raise_th (d : Dev) (n kind : Nat) (data : List Nat) : (d.raise n kind data).th = d.th := by unfold Dev.raise Dev.sendF; dsimp only; split <;> split <;> rfl

@[simp] theorem Dev.raise_rd (d : Dev) (n kind : Nat) (data : List Nat) (f : Fld) : (d.raise n kind data).rd f = d.rd f := by unfold Dev.rd; rw [Dev.raise_regs]

@[simp] theorem Dev.raise_on (d : Dev) (n kind : Nat) (data : List Nat) (f : Fld) : (d.raise n kind data).on f = d.on f := by unfold Dev.on; rw [Dev.raise_rd]

/-! ## A message queued -/

@[simp] theorem Dev.sendF_regs (d : Dev) (q : Nat) (m : Msg) : (d.sendF q m).regs = d.regs := rfl
@[simp] theorem Dev.sendF_fmem (d : Dev) (q : Nat) (m : Msg) : (d.sendF q m).fmem = d.fmem := rfl
@[simp] theorem Dev.sendF_hmem (d : Dev) (q : Nat) (m : Msg) : (d.sendF q m).hmem = d.hmem := rfl
@[simp] theorem Dev.sendF_lastRead (d : Dev) (q : Nat) (m : Msg) : (d.sendF q m).lastRead = d.lastRead := rfl
@[simp] theorem Dev.sendF_busError (d : Dev) (q : Nat) (m : Msg) : (d.sendF q m).busError = d.busError := rfl
@[simp] theorem Dev.sendF_free (d : Dev) (q : Nat) (m : Msg) : (d.sendF q m).free = d.free := rfl
@[simp] theorem Dev.sendF_inj (d : Dev) (q : Nat) (m : Msg) : (d.sendF q m).inj = d.inj := rfl
@[simp] theorem Dev.sendF_jr (d : Dev) (q : Nat) (m : Msg) : (d.sendF q m).jr = d.jr := rfl
@[simp] theorem Dev.sendF_rings (d : Dev) (q : Nat) (m : Msg) : (d.sendF q m).rings = d.rings := rfl
@[simp] theorem Dev.sendF_pw (d : Dev) (q : Nat) (m : Msg) : (d.sendF q m).pw = d.pw := rfl
@[simp] theorem Dev.sendF_tm (d : Dev) (q : Nat) (m : Msg) : (d.sendF q m).tm = d.tm := rfl
@[simp] theorem Dev.sendF_st (d : Dev) (q : Nat) (m : Msg) : (d.sendF q m).st = d.st := rfl
@[simp] theorem Dev.sendF_ce (d : Dev) (q : Nat) (m : Msg) : (d.sendF q m).ce = d.ce := rfl
@[simp] theorem Dev.sendF_dgr (d : Dev) (q : Nat) (m : Msg) : (d.sendF q m).dgr = d.dgr := rfl
@[simp] theorem Dev.sendF_pwm (d : Dev) (q : Nat) (m : Msg) : (d.sendF q m).pwm = d.pwm := rfl
@[simp] theorem Dev.sendF_out (d : Dev) (q : Nat) (m : Msg) : (d.sendF q m).out = d.out := rfl
@[simp] theorem Dev.sendF_cbl (d : Dev) (q : Nat) (m : Msg) : (d.sendF q m).cbl = d.cbl := rfl
@[simp] theorem Dev.sendF_veh (d : Dev) (q : Nat) (m : Msg) : (d.sendF q m).veh = d.veh := rfl
@[simp] theorem Dev.sendF_cap (d : Dev) (q : Nat) (m : Msg) : (d.sendF q m).cap = d.cap := rfl
@[simp] theorem Dev.sendF_ash (d : Dev) (q : Nat) (m : Msg) : (d.sendF q m).ash = d.ash := rfl
@[simp] theorem Dev.sendF_fba (d : Dev) (q : Nat) (m : Msg) : (d.sendF q m).fba = d.fba := rfl
@[simp] theorem Dev.sendF_ctr (d : Dev) (q : Nat) (m : Msg) : (d.sendF q m).ctr = d.ctr := rfl
@[simp] theorem Dev.sendF_imd (d : Dev) (q : Nat) (m : Msg) : (d.sendF q m).imd = d.imd := rfl
@[simp] theorem Dev.sendF_tlm (d : Dev) (q : Nat) (m : Msg) : (d.sendF q m).tlm = d.tlm := rfl
@[simp] theorem Dev.sendF_shr (d : Dev) (q : Nat) (m : Msg) : (d.sendF q m).shr = d.shr := rfl
@[simp] theorem Dev.sendF_rt (d : Dev) (q : Nat) (m : Msg) : (d.sendF q m).rt = d.rt := rfl
@[simp] theorem Dev.sendF_net (d : Dev) (q : Nat) (m : Msg) : (d.sendF q m).net = d.net := rfl
@[simp] theorem Dev.sendF_svg (d : Dev) (q : Nat) (m : Msg) : (d.sendF q m).svg = d.svg := rfl
@[simp] theorem Dev.sendF_met (d : Dev) (q : Nat) (m : Msg) : (d.sendF q m).met = d.met := rfl
@[simp] theorem Dev.sendF_bil (d : Dev) (q : Nat) (m : Msg) : (d.sendF q m).bil = d.bil := rfl
@[simp] theorem Dev.sendF_bst (d : Dev) (q : Nat) (m : Msg) : (d.sendF q m).bst = d.bst := rfl
@[simp] theorem Dev.sendF_tw (d : Dev) (q : Nat) (m : Msg) : (d.sendF q m).tw = d.tw := rfl
@[simp] theorem Dev.sendF_ffuse (d : Dev) (q : Nat) (m : Msg) : (d.sendF q m).ffuse = d.ffuse := rfl
@[simp] theorem Dev.sendF_hfuse (d : Dev) (q : Nat) (m : Msg) : (d.sendF q m).hfuse = d.hfuse := rfl
@[simp] theorem Dev.sendF_fsec (d : Dev) (q : Nat) (m : Msg) : (d.sendF q m).fsec = d.fsec := rfl
@[simp] theorem Dev.sendF_enc (d : Dev) (q : Nat) (m : Msg) : (d.sendF q m).enc = d.enc := rfl
@[simp] theorem Dev.sendF_stk (d : Dev) (q : Nat) (m : Msg) : (d.sendF q m).stk = d.stk := rfl
@[simp] theorem Dev.sendF_can (d : Dev) (q : Nat) (m : Msg) : (d.sendF q m).can = d.can := rfl
@[simp] theorem Dev.sendF_hp (d : Dev) (q : Nat) (m : Msg) : (d.sendF q m).hp = d.hp := rfl
@[simp] theorem Dev.sendF_th (d : Dev) (q : Nat) (m : Msg) : (d.sendF q m).th = d.th := rfl

@[simp] theorem Dev.sendH_regs (d : Dev) (q : Nat) (m : Msg) : (d.sendH q m).regs = d.regs := rfl
@[simp] theorem Dev.sendH_fmem (d : Dev) (q : Nat) (m : Msg) : (d.sendH q m).fmem = d.fmem := rfl
@[simp] theorem Dev.sendH_hmem (d : Dev) (q : Nat) (m : Msg) : (d.sendH q m).hmem = d.hmem := rfl
@[simp] theorem Dev.sendH_lastRead (d : Dev) (q : Nat) (m : Msg) : (d.sendH q m).lastRead = d.lastRead := rfl
@[simp] theorem Dev.sendH_busError (d : Dev) (q : Nat) (m : Msg) : (d.sendH q m).busError = d.busError := rfl
@[simp] theorem Dev.sendH_free (d : Dev) (q : Nat) (m : Msg) : (d.sendH q m).free = d.free := rfl
@[simp] theorem Dev.sendH_inj (d : Dev) (q : Nat) (m : Msg) : (d.sendH q m).inj = d.inj := rfl
@[simp] theorem Dev.sendH_jr (d : Dev) (q : Nat) (m : Msg) : (d.sendH q m).jr = d.jr := rfl
@[simp] theorem Dev.sendH_rings (d : Dev) (q : Nat) (m : Msg) : (d.sendH q m).rings = d.rings := rfl
@[simp] theorem Dev.sendH_pw (d : Dev) (q : Nat) (m : Msg) : (d.sendH q m).pw = d.pw := rfl
@[simp] theorem Dev.sendH_tm (d : Dev) (q : Nat) (m : Msg) : (d.sendH q m).tm = d.tm := rfl
@[simp] theorem Dev.sendH_st (d : Dev) (q : Nat) (m : Msg) : (d.sendH q m).st = d.st := rfl
@[simp] theorem Dev.sendH_ce (d : Dev) (q : Nat) (m : Msg) : (d.sendH q m).ce = d.ce := rfl
@[simp] theorem Dev.sendH_dgr (d : Dev) (q : Nat) (m : Msg) : (d.sendH q m).dgr = d.dgr := rfl
@[simp] theorem Dev.sendH_pwm (d : Dev) (q : Nat) (m : Msg) : (d.sendH q m).pwm = d.pwm := rfl
@[simp] theorem Dev.sendH_out (d : Dev) (q : Nat) (m : Msg) : (d.sendH q m).out = d.out := rfl
@[simp] theorem Dev.sendH_cbl (d : Dev) (q : Nat) (m : Msg) : (d.sendH q m).cbl = d.cbl := rfl
@[simp] theorem Dev.sendH_veh (d : Dev) (q : Nat) (m : Msg) : (d.sendH q m).veh = d.veh := rfl
@[simp] theorem Dev.sendH_cap (d : Dev) (q : Nat) (m : Msg) : (d.sendH q m).cap = d.cap := rfl
@[simp] theorem Dev.sendH_ash (d : Dev) (q : Nat) (m : Msg) : (d.sendH q m).ash = d.ash := rfl
@[simp] theorem Dev.sendH_fba (d : Dev) (q : Nat) (m : Msg) : (d.sendH q m).fba = d.fba := rfl
@[simp] theorem Dev.sendH_ctr (d : Dev) (q : Nat) (m : Msg) : (d.sendH q m).ctr = d.ctr := rfl
@[simp] theorem Dev.sendH_imd (d : Dev) (q : Nat) (m : Msg) : (d.sendH q m).imd = d.imd := rfl
@[simp] theorem Dev.sendH_tlm (d : Dev) (q : Nat) (m : Msg) : (d.sendH q m).tlm = d.tlm := rfl
@[simp] theorem Dev.sendH_shr (d : Dev) (q : Nat) (m : Msg) : (d.sendH q m).shr = d.shr := rfl
@[simp] theorem Dev.sendH_rt (d : Dev) (q : Nat) (m : Msg) : (d.sendH q m).rt = d.rt := rfl
@[simp] theorem Dev.sendH_net (d : Dev) (q : Nat) (m : Msg) : (d.sendH q m).net = d.net := rfl
@[simp] theorem Dev.sendH_svg (d : Dev) (q : Nat) (m : Msg) : (d.sendH q m).svg = d.svg := rfl
@[simp] theorem Dev.sendH_met (d : Dev) (q : Nat) (m : Msg) : (d.sendH q m).met = d.met := rfl
@[simp] theorem Dev.sendH_bil (d : Dev) (q : Nat) (m : Msg) : (d.sendH q m).bil = d.bil := rfl
@[simp] theorem Dev.sendH_bst (d : Dev) (q : Nat) (m : Msg) : (d.sendH q m).bst = d.bst := rfl
@[simp] theorem Dev.sendH_tw (d : Dev) (q : Nat) (m : Msg) : (d.sendH q m).tw = d.tw := rfl
@[simp] theorem Dev.sendH_ffuse (d : Dev) (q : Nat) (m : Msg) : (d.sendH q m).ffuse = d.ffuse := rfl
@[simp] theorem Dev.sendH_hfuse (d : Dev) (q : Nat) (m : Msg) : (d.sendH q m).hfuse = d.hfuse := rfl
@[simp] theorem Dev.sendH_fsec (d : Dev) (q : Nat) (m : Msg) : (d.sendH q m).fsec = d.fsec := rfl
@[simp] theorem Dev.sendH_enc (d : Dev) (q : Nat) (m : Msg) : (d.sendH q m).enc = d.enc := rfl
@[simp] theorem Dev.sendH_stk (d : Dev) (q : Nat) (m : Msg) : (d.sendH q m).stk = d.stk := rfl
@[simp] theorem Dev.sendH_can (d : Dev) (q : Nat) (m : Msg) : (d.sendH q m).can = d.can := rfl
@[simp] theorem Dev.sendH_hp (d : Dev) (q : Nat) (m : Msg) : (d.sendH q m).hp = d.hp := rfl
@[simp] theorem Dev.sendH_th (d : Dev) (q : Nat) (m : Msg) : (d.sendH q m).th = d.th := rfl

/-! ## The STC moved on -/

@[simp] theorem Dev.advanceTo_regs (d : Dev) (q : Nat) : (d.advanceTo q).regs = d.regs := rfl
@[simp] theorem Dev.advanceTo_fmem (d : Dev) (q : Nat) : (d.advanceTo q).fmem = d.fmem := rfl
@[simp] theorem Dev.advanceTo_hmem (d : Dev) (q : Nat) : (d.advanceTo q).hmem = d.hmem := rfl
@[simp] theorem Dev.advanceTo_lastRead (d : Dev) (q : Nat) : (d.advanceTo q).lastRead = d.lastRead := rfl
@[simp] theorem Dev.advanceTo_busError (d : Dev) (q : Nat) : (d.advanceTo q).busError = d.busError := rfl
@[simp] theorem Dev.advanceTo_free (d : Dev) (q : Nat) : (d.advanceTo q).free = d.free := rfl
@[simp] theorem Dev.advanceTo_inj (d : Dev) (q : Nat) : (d.advanceTo q).inj = d.inj := rfl
@[simp] theorem Dev.advanceTo_jr (d : Dev) (q : Nat) : (d.advanceTo q).jr = d.jr := rfl
@[simp] theorem Dev.advanceTo_rings (d : Dev) (q : Nat) : (d.advanceTo q).rings = d.rings := rfl
@[simp] theorem Dev.advanceTo_pw (d : Dev) (q : Nat) : (d.advanceTo q).pw = d.pw := rfl
@[simp] theorem Dev.advanceTo_fl (d : Dev) (q : Nat) : (d.advanceTo q).fl = d.fl := rfl
@[simp] theorem Dev.advanceTo_st (d : Dev) (q : Nat) : (d.advanceTo q).st = d.st := rfl
@[simp] theorem Dev.advanceTo_ce (d : Dev) (q : Nat) : (d.advanceTo q).ce = d.ce := rfl
@[simp] theorem Dev.advanceTo_dgr (d : Dev) (q : Nat) : (d.advanceTo q).dgr = d.dgr := rfl
@[simp] theorem Dev.advanceTo_pwm (d : Dev) (q : Nat) : (d.advanceTo q).pwm = d.pwm := rfl
@[simp] theorem Dev.advanceTo_out (d : Dev) (q : Nat) : (d.advanceTo q).out = d.out := rfl
@[simp] theorem Dev.advanceTo_cbl (d : Dev) (q : Nat) : (d.advanceTo q).cbl = d.cbl := rfl
@[simp] theorem Dev.advanceTo_veh (d : Dev) (q : Nat) : (d.advanceTo q).veh = d.veh := rfl
@[simp] theorem Dev.advanceTo_cap (d : Dev) (q : Nat) : (d.advanceTo q).cap = d.cap := rfl
@[simp] theorem Dev.advanceTo_ash (d : Dev) (q : Nat) : (d.advanceTo q).ash = d.ash := rfl
@[simp] theorem Dev.advanceTo_fba (d : Dev) (q : Nat) : (d.advanceTo q).fba = d.fba := rfl
@[simp] theorem Dev.advanceTo_ctr (d : Dev) (q : Nat) : (d.advanceTo q).ctr = d.ctr := rfl
@[simp] theorem Dev.advanceTo_imd (d : Dev) (q : Nat) : (d.advanceTo q).imd = d.imd := rfl
@[simp] theorem Dev.advanceTo_tlm (d : Dev) (q : Nat) : (d.advanceTo q).tlm = d.tlm := rfl
@[simp] theorem Dev.advanceTo_shr (d : Dev) (q : Nat) : (d.advanceTo q).shr = d.shr := rfl
@[simp] theorem Dev.advanceTo_rt (d : Dev) (q : Nat) : (d.advanceTo q).rt = d.rt := rfl
@[simp] theorem Dev.advanceTo_net (d : Dev) (q : Nat) : (d.advanceTo q).net = d.net := rfl
@[simp] theorem Dev.advanceTo_svg (d : Dev) (q : Nat) : (d.advanceTo q).svg = d.svg := rfl
@[simp] theorem Dev.advanceTo_met (d : Dev) (q : Nat) : (d.advanceTo q).met = d.met := rfl
@[simp] theorem Dev.advanceTo_bil (d : Dev) (q : Nat) : (d.advanceTo q).bil = d.bil := rfl
@[simp] theorem Dev.advanceTo_bst (d : Dev) (q : Nat) : (d.advanceTo q).bst = d.bst := rfl
@[simp] theorem Dev.advanceTo_tw (d : Dev) (q : Nat) : (d.advanceTo q).tw = d.tw := rfl
@[simp] theorem Dev.advanceTo_ffuse (d : Dev) (q : Nat) : (d.advanceTo q).ffuse = d.ffuse := rfl
@[simp] theorem Dev.advanceTo_hfuse (d : Dev) (q : Nat) : (d.advanceTo q).hfuse = d.hfuse := rfl
@[simp] theorem Dev.advanceTo_fsec (d : Dev) (q : Nat) : (d.advanceTo q).fsec = d.fsec := rfl
@[simp] theorem Dev.advanceTo_enc (d : Dev) (q : Nat) : (d.advanceTo q).enc = d.enc := rfl
@[simp] theorem Dev.advanceTo_stk (d : Dev) (q : Nat) : (d.advanceTo q).stk = d.stk := rfl
@[simp] theorem Dev.advanceTo_can (d : Dev) (q : Nat) : (d.advanceTo q).can = d.can := rfl
@[simp] theorem Dev.advanceTo_hp (d : Dev) (q : Nat) : (d.advanceTo q).hp = d.hp := rfl
@[simp] theorem Dev.advanceTo_th (d : Dev) (q : Nat) : (d.advanceTo q).th = d.th := rfl

@[simp] theorem Dev.advanceTo_q (d : Dev) (q : Nat) : (d.advanceTo q).tm.q = max d.tm.q q := rfl

@[simp] theorem Dev.advanceTo_rd (d : Dev) (q : Nat) (f : Fld) : (d.advanceTo q).rd f = d.rd f := rfl

/-! ## The outcome of a command -/

@[simp] theorem done_eq (s : State) (f : Dev → Dev) : done s f = .next { s with dev := f s.dev } := rfl

end Sys2Proof.Machine
end

