-- ==== Sys2Proof/Laws/Regs.lean ====
section
/-! SUPPORT. The laws of the register file and of the addressed memories: what reads back after a write, and that every operation
keeps the canonical form. -/

namespace Sys2Proof.Machine

/-! ## The register file as a list -/

theorem Regs.find_insert (r : Regs) (k v : Nat) : Regs.find (Regs.insert r k v) k = some v := by
  induction r with
  | nil => simp [Regs.insert, Regs.find]
  | cons e r ih =>
    obtain ⟨a, w⟩ := e
    unfold Regs.insert
    split
    · simp [Regs.find]
    · split
      · simp [Regs.find]
      · rename_i h1 h2
        simp only [Regs.find]
        rw [if_neg (fun h => h2 h.symm)]
        exact ih

theorem Regs.find_insert_ne (r : Regs) (k v j : Nat) (h : k ≠ j) : Regs.find (Regs.insert r k v) j = Regs.find r j := by
  induction r with
  | nil => simp [Regs.insert, Regs.find, h]
  | cons e r ih =>
    obtain ⟨a, w⟩ := e
    unfold Regs.insert
    split
    · simp [Regs.find, h]
    · split
      · rename_i h1 h2
        subst h2
        simp [Regs.find, h]
      · simp only [Regs.find]
        rw [ih]

theorem Regs.find_erase (r : Regs) (k : Nat) : Regs.find (Regs.erase r k) k = none := by
  induction r with
  | nil => rfl
  | cons e r ih =>
    obtain ⟨a, w⟩ := e
    unfold Regs.erase
    split
    · exact ih
    · rename_i h
      simp only [Regs.find]
      rw [if_neg h]
      exact ih

theorem Regs.find_erase_ne (r : Regs) (k j : Nat) (h : k ≠ j) : Regs.find (Regs.erase r k) j = Regs.find r j := by
  induction r with
  | nil => rfl
  | cons e r ih =>
    obtain ⟨a, w⟩ := e
    unfold Regs.erase
    split
    · rename_i hk
      subst hk
      simp only [Regs.find]
      rw [if_neg h]
      exact ih
    · simp only [Regs.find]
      rw [ih]

/-! ## A field read after a field write -/

theorem Regs.get_set (r : Regs) (f : Fld) (v : Nat) : Regs.get (Regs.set r f v) f = v % 2 ^ f.width := by
  unfold Regs.get Regs.set
  split
  · rename_i h
    rw [Regs.find_erase, h]
    rfl
  · rw [Regs.find_insert]
    rfl

theorem Regs.get_set_ne (r : Regs) (f g : Fld) (v : Nat) (h : f.key ≠ g.key) : Regs.get (Regs.set r f v) g = Regs.get r g := by
  unfold Regs.get Regs.set
  split
  · rw [Regs.find_erase_ne _ _ _ h]
  · rw [Regs.find_insert_ne _ _ _ _ h]

/-- A register field reads back what was written, cut to its width. -/
@[simp] theorem Dev.rd_wr (d : Dev) (f : Fld) (v : Nat) : (d.wr f v).rd f = v % 2 ^ f.width := Regs.get_set d.regs f v

/-- A write leaves every field of another place alone. -/
theorem Dev.rd_wr_ne (d : Dev) (f g : Fld) (v : Nat) (h : f.key ≠ g.key) : (d.wr f v).rd g = d.rd g := Regs.get_set_ne d.regs f g v h

/-! ## The canonical form of the register file -/

/-- The first key of a list lies above a bound. -/
def Regs.above (k : Nat) : Regs → Prop
  | [] => True
  | (a, _) :: _ => k < a

theorem Regs.wf_cons (k v : Nat) (r : Regs) : Regs.wf ((k, v) :: r) = true ↔ Regs.above k r ∧ Regs.wf r = true := by
  cases r with
  | nil => simp [Regs.wf, Regs.above]
  | cons e r => obtain ⟨a, w⟩ := e; simp [Regs.wf, Regs.above]

theorem Regs.above_trans {j k : Nat} (h : j < k) (r : Regs) (a : Regs.above k r) : Regs.above j r := by
  cases r with
  | nil => trivial
  | cons e r => exact Nat.lt_trans h a

theorem Regs.above_insert {j : Nat} (r : Regs) (k v : Nat) (h : j < k) (a : Regs.above j r) : Regs.above j (Regs.insert r k v) := by
  cases r with
  | nil => exact h
  | cons e r =>
    obtain ⟨b, w⟩ := e
    unfold Regs.insert
    split
    · exact h
    · split
      · exact h
      · exact a

theorem Regs.insert_wf (r : Regs) (k v : Nat) (h : Regs.wf r = true) : Regs.wf (Regs.insert r k v) = true := by
  induction r with
  | nil => rfl
  | cons e r ih =>
    obtain ⟨a, w⟩ := e
    have hw := (Regs.wf_cons a w r).mp h
    unfold Regs.insert
    split
    · rename_i hlt
      exact (Regs.wf_cons k v _).mpr ⟨hlt, h⟩
    · split
      · rename_i h1 h2
        subst h2
        exact (Regs.wf_cons k v r).mpr hw
      · rename_i h1 h2
        exact (Regs.wf_cons a w _).mpr ⟨Regs.above_insert r k v (by omega) hw.1, ih hw.2⟩

theorem Regs.filter_wf (p : Nat × Nat → Bool) (r : Regs) (h : Regs.wf r = true) : Regs.wf (r.filter p) = true ∧ ∀ k, Regs.above k r → Regs.above k (r.filter p) := by
  induction r with
  | nil => exact ⟨rfl, fun _ h => h⟩
  | cons e r ih =>
    obtain ⟨a, w⟩ := e
    have hw := (Regs.wf_cons a w r).mp h
    have ih := ih hw.2
    rw [List.filter_cons]
    split
    · exact ⟨(Regs.wf_cons a w _).mpr ⟨ih.2 a hw.1, ih.1⟩, fun _ h => h⟩
    · exact ⟨ih.1, fun k hk => ih.2 k (Regs.above_trans hk r hw.1)⟩

theorem Regs.erase_eq_filter (r : Regs) (k : Nat) : Regs.erase r k = r.filter (fun e => decide (e.1 ≠ k)) := by
  induction r with
  | nil => rfl
  | cons e r ih =>
    obtain ⟨a, w⟩ := e
    unfold Regs.erase
    rw [List.filter_cons, ih]
    by_cases h : a = k <;> simp [h]

/-- A field write keeps the canonical form. -/
theorem Regs.set_wf (r : Regs) (f : Fld) (v : Nat) (h : Regs.wf r = true) : Regs.wf (Regs.set r f v) = true := by
  unfold Regs.set
  split
  · rw [Regs.erase_eq_filter]
    exact (Regs.filter_wf _ r h).1
  · exact Regs.insert_wf r _ _ h

/-- A domain reset keeps the canonical form. -/
theorem Regs.resetWhere_wf (r : Regs) (p : Nat → Bool) (h : Regs.wf r = true) : Regs.wf (Regs.resetWhere r p) = true :=
  (Regs.filter_wf _ r h).1

/-! ## The addressed memories -/

theorem Mem.read_insert (m : Mem) (a : Nat) (v : Byte) : Mem.read (Mem.insert m a v) a = v := by
  induction m with
  | nil => simp [Mem.insert, Mem.read]
  | cons e m ih =>
    obtain ⟨b, w⟩ := e
    unfold Mem.insert
    split
    · simp [Mem.read]
    · split
      · simp [Mem.read]
      · rename_i h1 h2
        simp only [Mem.read]
        rw [if_neg (fun h => h2 h.symm)]
        exact ih

theorem Mem.read_insert_ne (m : Mem) (a j : Nat) (v : Byte) (h : a ≠ j) : Mem.read (Mem.insert m a v) j = Mem.read m j := by
  induction m with
  | nil => simp [Mem.insert, Mem.read, h]
  | cons e m ih =>
    obtain ⟨b, w⟩ := e
    unfold Mem.insert
    split
    · simp [Mem.read, h]
    · split
      · rename_i h1 h2
        subst h2
        simp [Mem.read, h]
      · simp only [Mem.read]
        rw [ih]

theorem Mem.read_erase (m : Mem) (a : Nat) : Mem.read (Mem.erase m a) a = unwrittenByte := by
  induction m with
  | nil => rfl
  | cons e m ih =>
    obtain ⟨b, w⟩ := e
    unfold Mem.erase
    split
    · exact ih
    · rename_i h
      simp only [Mem.read]
      rw [if_neg h]
      exact ih

theorem Mem.read_erase_ne (m : Mem) (a j : Nat) (h : a ≠ j) : Mem.read (Mem.erase m a) j = Mem.read m j := by
  induction m with
  | nil => rfl
  | cons e m ih =>
    obtain ⟨b, w⟩ := e
    unfold Mem.erase
    split
    · rename_i hk
      subst hk
      simp only [Mem.read]
      rw [if_neg h]
      exact ih
    · simp only [Mem.read]
      rw [ih]

/-- A byte reads back what was written. -/
@[simp] theorem Mem.read_write (m : Mem) (a : Nat) (v : Byte) : Mem.read (Mem.write m a v) a = v := by
  unfold Mem.write
  split
  · rename_i h
    rw [Mem.read_erase, h]
  · exact Mem.read_insert m a v

/-- A write leaves every other byte alone. -/
theorem Mem.read_write_ne (m : Mem) (a j : Nat) (v : Byte) (h : a ≠ j) : Mem.read (Mem.write m a v) j = Mem.read m j := by
  unfold Mem.write
  split
  · exact Mem.read_erase_ne m a j h
  · exact Mem.read_insert_ne m a j v h

/-- The first address of a memory lies above a bound. -/
def Mem.above (k : Nat) : Mem → Prop
  | [] => True
  | (a, _) :: _ => k < a

theorem Mem.wf_cons (a : Nat) (b : Byte) (m : Mem) : Mem.wf ((a, b) :: m) = true ↔ Mem.above a m ∧ b ≠ unwrittenByte ∧ Mem.wf m = true := by
  cases m with
  | nil => simp [Mem.wf, Mem.above]
  | cons e m => obtain ⟨c, w⟩ := e; simp [Mem.wf, Mem.above, and_assoc]

theorem Mem.above_trans {j k : Nat} (h : j < k) (m : Mem) (a : Mem.above k m) : Mem.above j m := by
  cases m with
  | nil => trivial
  | cons e m => exact Nat.lt_trans h a

theorem Mem.above_insert {j : Nat} (m : Mem) (k : Nat) (v : Byte) (h : j < k) (a : Mem.above j m) : Mem.above j (Mem.insert m k v) := by
  cases m with
  | nil => exact h
  | cons e m =>
    obtain ⟨b, w⟩ := e
    unfold Mem.insert
    split
    · exact h
    · split
      · exact h
      · exact a

theorem Mem.insert_wf (m : Mem) (a : Nat) (v : Byte) (hv : v ≠ unwrittenByte) (h : Mem.wf m = true) : Mem.wf (Mem.insert m a v) = true := by
  induction m with
  | nil => simpa [Mem.insert, Mem.wf] using hv
  | cons e m ih =>
    obtain ⟨b, w⟩ := e
    have hw := (Mem.wf_cons b w m).mp h
    unfold Mem.insert
    split
    · rename_i hlt
      exact (Mem.wf_cons a v _).mpr ⟨hlt, hv, h⟩
    · split
      · rename_i h1 h2
        subst h2
        exact (Mem.wf_cons a v m).mpr ⟨hw.1, hv, hw.2.2⟩
      · rename_i h1 h2
        exact (Mem.wf_cons b w _).mpr ⟨Mem.above_insert m a v (by omega) hw.1, hw.2.1, ih hw.2.2⟩

theorem Mem.filter_wf (p : Host.Cell → Bool) (m : Mem) (h : Mem.wf m = true) : Mem.wf (m.filter p) = true ∧ ∀ k, Mem.above k m → Mem.above k (m.filter p) := by
  induction m with
  | nil => exact ⟨rfl, fun _ h => h⟩
  | cons e m ih =>
    obtain ⟨b, w⟩ := e
    have hw := (Mem.wf_cons b w m).mp h
    have ih := ih hw.2.2
    rw [List.filter_cons]
    split
    · exact ⟨(Mem.wf_cons b w _).mpr ⟨ih.2 b hw.1, hw.2.1, ih.1⟩, fun _ h => h⟩
    · exact ⟨ih.1, fun k hk => ih.2 k (Mem.above_trans hk m hw.1)⟩

theorem Mem.erase_eq_filter (m : Mem) (a : Nat) : Mem.erase m a = m.filter (fun e => decide (e.1 ≠ a)) := by
  induction m with
  | nil => rfl
  | cons e m ih =>
    obtain ⟨b, w⟩ := e
    unfold Mem.erase
    rw [List.filter_cons, ih]
    by_cases h : b = a <;> simp [h]

/-- A byte write keeps the canonical form. -/
theorem Mem.write_wf (m : Mem) (a : Nat) (v : Byte) (h : Mem.wf m = true) : Mem.wf (Mem.write m a v) = true := by
  unfold Mem.write
  split
  · rw [Mem.erase_eq_filter]
    exact (Mem.filter_wf _ m h).1
  · rename_i hv
    exact Mem.insert_wf m a v hv h

/-- A byte string's write keeps the canonical form. -/
theorem Mem.writeBytes_wf (m : Mem) (a : Nat) (bs : List Byte) (h : Mem.wf m = true) : Mem.wf (Mem.writeBytes m a bs) = true := by
  induction bs generalizing m a with
  | nil => exact h
  | cons b bs ih => exact ih _ _ (Mem.write_wf m a b h)

/-- A byte string's write leaves every byte outside it alone. -/
theorem Mem.read_writeBytes_ne (m : Mem) (a j : Nat) (bs : List Byte) (h : j < a ∨ a + bs.length ≤ j) : Mem.read (Mem.writeBytes m a bs) j = Mem.read m j := by
  induction bs generalizing m a with
  | nil => rfl
  | cons b bs ih =>
    rw [List.length_cons] at h
    unfold Mem.writeBytes
    rw [ih _ _ (by omega), Mem.read_write_ne m a j b (by omega)]

end Sys2Proof.Machine
end

