-- ==== Sys2Proof/Laws/RunsTime.lean ====
section
/-! SUPPORT. What each command of Machine/Time.lean can do: it answers a next state, and changes only the parts named. -/

set_option linter.tactic.unusedName false
set_option linter.unusedTactic false
set_option linter.unusedSimpArgs false
set_option linter.unreachableTactic false
set_option maxHeartbeats 800000
set_option linter.unusedVariables false

namespace Sys2Proof.Machine

theorem execPpsMissingSecond_reach (s : State) : ∃ e, execPpsMissingSecond s = .next { s with dev := e } ∧ Reach (Part.regs ||| Part.fl ||| Part.tm) s.dev e := by
  refine ⟨_, rfl, ?_⟩
  try dsimp only
  with_reducible repeat' (first | assumption | exact .refl _ | (apply Reach.via (Dev.ppsMissing_reach ..); decide) | dsimp only)

theorem execPtpOffsetSample_reach (port : Fin 2) (ofs : Int) (s : State) : ∃ e, execPtpOffsetSample port ofs s = .next { s with dev := e } ∧ Reach (Part.regs ||| Part.fl ||| Part.tm) s.dev e := by
  refine ⟨_, rfl, ?_⟩
  try dsimp only
  with_reducible repeat' (first | assumption | exact .refl _ | (apply Reach.via (Dev.ptpSample_reach ..); decide) | dsimp only)

theorem execPtpSampleTimeout_reach (port : Fin 2) (s : State) : ∃ e, execPtpSampleTimeout port s = .next { s with dev := e } ∧ Reach (Part.regs ||| Part.fl ||| Part.tm) s.dev e := by
  refine ⟨_, rfl, ?_⟩
  try dsimp only
  with_reducible repeat' (first | assumption | exact .refl _ | (apply Reach.via (Dev.ptpTimeout_reach ..); decide) | dsimp only)

theorem execServoSampleTimeout_reach (s : State) : ∃ e, execServoSampleTimeout s = .next { s with dev := e } ∧ Reach (Part.regs ||| Part.tm) s.dev e := by
  refine ⟨_, rfl, ?_⟩
  try dsimp only
  with_reducible repeat' (first | assumption | exact .refl _ | (extract_lets +onlyGivenNames x; first | (have hf : SiteTime := x; clear hf; refine Reach.keep_tm (x := x) ?_ (fun hx => ?_); (· intro hs; unfold x; clear x; (repeat' (first | ((try simp only [SiteTime.Shaped] at *); simp +zetaDelta (maxDischargeDepth := 9) only [SiteTime.Shaped, Dev.Shaped.tm_pdelaySeq, Dev.Shaped.wr, Dev.Shaped.resetDomains, setAt_length, addAt_length, List.length_map, List.length_replicate, List.length_cons, List.length_nil, List.length_zipWith, List.length_range, List.length_append, List.length_drop, List.length_take, Nat.reduceSub, Nat.reduceLeDiff, Nat.min_eq_left, *, and_self, Nat.reduceAdd, Nat.zero_add]; done) | split))); clear_value x) | clear_value x) | (apply Reach.via (Dev.rateShow_reach ..); decide) | simp -zeta -iota only [↓Reach.mk_eq] | split | dsimp only | (apply ReachMk.intro <;> first | exact .inr (by decide) | rfl | exact .inl rfl | (refine .inr ⟨by decide, fun hs he => ?_⟩; (repeat' (first | ((try simp only [SiteTime.Shaped] at *); simp +zetaDelta (maxDischargeDepth := 9) only [SiteTime.Shaped, Dev.Shaped.tm_pdelaySeq, Dev.Shaped.wr, Dev.Shaped.resetDomains, setAt_length, addAt_length, List.length_map, List.length_replicate, List.length_cons, List.length_nil, List.length_zipWith, List.length_range, List.length_append, List.length_drop, List.length_take, Nat.reduceSub, Nat.reduceLeDiff, Nat.min_eq_left, *, and_self, Nat.reduceAdd, Nat.zero_add]; done) | split)); done) | skip))

theorem execEsterrLimit_reach (s : State) : ∃ e, execEsterrLimit s = .next { s with dev := e } ∧ Reach (Part.fl ||| Part.tm) s.dev e := by
  refine ⟨_, rfl, ?_⟩
  try dsimp only
  with_reducible repeat' (first | assumption | exact .refl _ | (apply Reach.via (Dev.estErrCheck_reach ..); decide) | dsimp only)

theorem execStcSecond_reach (s : State) : ∃ e, execStcSecond s = .next { s with dev := e } ∧ Reach (Part.tm) s.dev e := by
  refine ⟨_, rfl, ?_⟩
  try dsimp only
  with_reducible repeat' (first | assumption | exact .refl _ | (apply Reach.via (Dev.stcSecond_reach ..); decide) | dsimp only)

theorem execPpsOutFall_reach (s : State) : ∃ e, execPpsOutFall s = .next { s with dev := e } ∧ Reach (Part.tm) s.dev e := by
  refine ⟨_, rfl, ?_⟩
  try dsimp only
  with_reducible repeat' (first | assumption | exact .refl _ | (extract_lets +onlyGivenNames x; first | (have hf : SiteTime := x; clear hf; refine Reach.keep_tm (x := x) ?_ (fun hx => ?_); (· intro hs; unfold x; clear x; (repeat' (first | ((try simp only [SiteTime.Shaped] at *); simp +zetaDelta (maxDischargeDepth := 9) only [SiteTime.Shaped, Dev.Shaped.tm_pdelaySeq, Dev.Shaped.wr, Dev.Shaped.resetDomains, setAt_length, addAt_length, List.length_map, List.length_replicate, List.length_cons, List.length_nil, List.length_zipWith, List.length_range, List.length_append, List.length_drop, List.length_take, Nat.reduceSub, Nat.reduceLeDiff, Nat.min_eq_left, *, and_self, Nat.reduceAdd, Nat.zero_add]; done) | split))); clear_value x) | clear_value x) | simp -zeta -iota only [↓Reach.mk_eq] | split | dsimp only | (apply ReachMk.intro <;> first | exact .inr (by decide) | rfl | exact .inl rfl | (refine .inr ⟨by decide, fun hs he => ?_⟩; (repeat' (first | ((try simp only [SiteTime.Shaped] at *); simp +zetaDelta (maxDischargeDepth := 9) only [SiteTime.Shaped, Dev.Shaped.tm_pdelaySeq, Dev.Shaped.wr, Dev.Shaped.resetDomains, setAt_length, addAt_length, List.length_map, List.length_replicate, List.length_cons, List.length_nil, List.length_zipWith, List.length_range, List.length_append, List.length_drop, List.length_take, Nat.reduceSub, Nat.reduceLeDiff, Nat.min_eq_left, *, and_self, Nat.reduceAdd, Nat.zero_add]; done) | split)); done) | skip))

theorem execStcSetsecHiArm_reach (value : Nat) (s : State) : ∃ e, execStcSetsecHiArm value s = .next { s with dev := e } ∧ Reach (Part.regs ||| Part.tm) s.dev e := by
  refine ⟨_, rfl, ?_⟩
  try dsimp only
  with_reducible repeat' (first | assumption | exact .refl _ | (apply Reach.via (Dev.setSecHi_reach ..); decide) | dsimp only)

theorem execStcNowLoRead_reach (s : State) : ∃ e, execStcNowLoRead s = .next { s with dev := e } ∧ Reach (Part.regs ||| Part.lastRead) s.dev e := by
  refine ⟨_, rfl, ?_⟩
  try dsimp only
  with_reducible repeat' (first | assumption | exact .refl _ | (apply Reach.via (Dev.readNowLo_reach ..); decide) | dsimp only)

end Sys2Proof.Machine
end

