-- ==== Sys2Proof/Laws/RunsFlue.lean ====
section
/-! SUPPORT. What each command of Machine/Flue.lean can do: it answers a next state, and changes only the parts named. -/

set_option linter.tactic.unusedName false
set_option linter.unusedTactic false
set_option linter.unusedSimpArgs false
set_option linter.unreachableTactic false
set_option maxHeartbeats 800000
set_option linter.unusedVariables false

namespace Sys2Proof.Machine

theorem execFlueLinkUp_reach (s : State) : ∃ e, execFlueLinkUp s = .next { s with dev := e } ∧ Reach (Part.regs ||| Part.hmem ||| Part.jr ||| Part.rings ||| Part.fl) s.dev e := by
  refine ⟨_, rfl, ?_⟩
  try dsimp only
  with_reducible repeat' (first | assumption | exact .refl _ | (apply Reach.via (Dev.linkUp_reach ..); decide) | dsimp only)

theorem execFlueRetrain_reach (sender : Side) (lane : Fin 2) (fails : Nat) (s : State) : ∃ e, execFlueRetrain sender lane fails s = .next { s with dev := e } ∧ Reach (Part.regs ||| Part.hmem ||| Part.jr ||| Part.rings ||| Part.fl) s.dev e := by
  refine ⟨_, rfl, ?_⟩
  try dsimp only
  with_reducible repeat' (first | assumption | exact .refl _ | (apply Reach.via (Dev.retrain_reach ..); decide) | dsimp only)

theorem execFlueCellSlot_reach (sender : Side) (s : State) : ∃ e, execFlueCellSlot sender s = .next { s with dev := e } ∧ Reach (Part.regs ||| Part.hmem ||| Part.inj ||| Part.jr ||| Part.rings ||| Part.fl) s.dev e := by
  refine ⟨_, rfl, ?_⟩
  try dsimp only
  with_reducible repeat' (first | assumption | exact .refl _ | (apply Reach.via (Dev.cellSlot_reach ..); decide) | dsimp only)

theorem execFlueCellReceive_reach (receiver : Side) (cell : List Byte) (s : State) : ∃ e, execFlueCellReceive receiver cell s = .next { s with dev := e } ∧ Reach (Part.regs ||| Part.hmem ||| Part.jr ||| Part.rings ||| Part.fl) s.dev e := by
  refine ⟨_, rfl, ?_⟩
  try dsimp only
  with_reducible repeat' (first | assumption | exact .refl _ | (apply Reach.via (Dev.cellReceive_reach ..); decide) | dsimp only)

theorem execHbAck_reach (hbSeq modeWord stc : Nat) (s : State) : ∃ e, execHbAck hbSeq modeWord stc s = .next { s with dev := e } ∧ Reach (Part.regs ||| Part.hmem ||| Part.jr ||| Part.rings ||| Part.fl ||| Part.cap) s.dev e := by
  refine ⟨_, rfl, ?_⟩
  try dsimp only
  with_reducible repeat' (first | assumption | exact .refl _ | (apply Reach.via (Dev.hbAck_reach ..); decide) | dsimp only)

theorem execParamRsp_reach (tag status index count ty : Nat) (values : List Nat) (s : State) : ∃ e, execParamRsp tag status index count ty values s = .next { s with dev := e } ∧ Reach (Part.regs ||| Part.hmem ||| Part.jr ||| Part.rings ||| Part.fl ||| Part.cap) s.dev e := by
  refine ⟨_, rfl, ?_⟩
  try dsimp only
  with_reducible repeat' (first | assumption | exact .refl _ | (extract_lets +onlyGivenNames x; first | (refine Reach.have (x := x) ?_ (fun hx hxs => ?_); unfold x; clear x; rotate_left; clear_value x) | clear_value x) | (apply Reach.via (Dev.raiseH_reach ..); decide) | (apply Reach.via (Dev.takeCell_reach ..); decide) | (apply Reach.via (Dev.toRing20_reach ..); decide) | (apply Reach.ite <;> intro) | simp -zeta -iota only [↓Reach.mk_eq] | split | dsimp only | (apply ReachMk.intro <;> first | exact .inr (by decide) | rfl | exact .inl rfl | skip))

theorem execTimeSync_reach (stc fr state source utc err : Nat) (s : State) : ∃ e, execTimeSync stc fr state source utc err s = .next { s with dev := e } ∧ Reach (Part.regs ||| Part.hmem ||| Part.jr ||| Part.rings ||| Part.fl ||| Part.cap) s.dev e := by
  refine ⟨_, rfl, ?_⟩
  try dsimp only
  with_reducible repeat' (first | assumption | exact .refl _ | (extract_lets +onlyGivenNames x; first | (refine Reach.have (x := x) ?_ (fun hx hxs => ?_); unfold x; clear x; rotate_left; clear_value x) | clear_value x) | (apply Reach.via (Dev.takeCell_reach ..); decide) | (apply Reach.via (Dev.toRing20_reach ..); decide) | simp -zeta -iota only [↓Reach.mk_eq] | split | dsimp only | (apply ReachMk.intro <;> first | exact .inr (by decide) | rfl | exact .inl rfl | skip))

theorem execEvent_reach (number : Fin 64) (kind count first last : Nat) (data : List Nat) (s : State) : ∃ e, execEvent number kind count first last data s = .next { s with dev := e } ∧ Reach (Part.regs ||| Part.hmem ||| Part.jr ||| Part.rings ||| Part.fl ||| Part.cap ||| Part.ash) s.dev e := by
  refine ⟨_, rfl, ?_⟩
  try dsimp only
  with_reducible repeat' (first | assumption | exact .refl _ | (extract_lets +onlyGivenNames x; first | (refine Reach.have (x := x) ?_ (fun hx hxs => ?_); unfold x; clear x; rotate_left; clear_value x) | clear_value x) | (apply Reach.via (Dev.hostFatal_reach ..); decide) | (apply Reach.via (Dev.jrnReport_reach ..); decide) | (apply Reach.via (Dev.pend_reach ..); decide) | (apply Reach.via (Dev.toRing21_reach ..); decide) | (apply Reach.ite <;> intro) | simp -zeta -iota only [↓Reach.mk_eq] | split | dsimp only | (apply ReachMk.intro <;> first | exact .inr (by decide) | rfl | exact .inl rfl | skip))

theorem execTelemetry_reach (block inst window ms : Nat) (values : List Nat) (s : State) : ∃ e, execTelemetry block inst window ms values s = .next { s with dev := e } ∧ Reach (Part.regs ||| Part.hmem ||| Part.jr ||| Part.rings ||| Part.fl ||| Part.cap) s.dev e := by
  refine ⟨_, rfl, ?_⟩
  try dsimp only
  with_reducible repeat' (first | assumption | exact .refl _ | (apply Reach.via (Dev.toRing21_reach ..); decide) | simp -zeta -iota only [↓Reach.mk_eq] | dsimp only | (apply ReachMk.intro <;> first | exact .inr (by decide) | rfl | exact .inl rfl | skip))

theorem execRecordReady_reach (output kind number stc : Nat) (s : State) : ∃ e, execRecordReady output kind number stc s = .next { s with dev := e } ∧ Reach (Part.regs ||| Part.hmem ||| Part.jr ||| Part.rings ||| Part.fl ||| Part.cap) s.dev e := by
  refine ⟨_, rfl, ?_⟩
  try dsimp only
  with_reducible repeat' (first | assumption | exact .refl _ | (apply Reach.via (Dev.toRing21_reach ..); decide) | simp -zeta -iota only [↓Reach.mk_eq] | dsimp only | (apply ReachMk.intro <;> first | exact .inr (by decide) | rfl | exact .inl rfl | skip))

theorem execImgStat_reach (xfer status : Nat) (s : State) : ∃ e, execImgStat xfer status s = .next { s with dev := e } ∧ Reach (Part.regs ||| Part.hmem ||| Part.jr ||| Part.rings ||| Part.fl) s.dev e := by
  refine ⟨_, rfl, ?_⟩
  try dsimp only
  with_reducible repeat' (first | assumption | exact .refl _ | (apply Reach.via (Dev.raiseH_reach ..); decide) | (apply Reach.via (Dev.takeCell_reach ..); decide) | (apply Reach.ite <;> intro) | split | dsimp only)

theorem execRecData_reach (xfer offset : Nat) (bytes : List Byte) (last : Bool) (s : State) : ∃ e, execRecData xfer offset bytes last s = .next { s with dev := e } ∧ Reach (Part.regs ||| Part.hmem ||| Part.jr ||| Part.rings ||| Part.fl ||| Part.cap) s.dev e := by
  refine ⟨_, rfl, ?_⟩
  try dsimp only
  with_reducible repeat' (first | assumption | exact .refl _ | (apply Reach.via (Dev.toDataRing_reach ..); decide) | dsimp only)

theorem execJrnData_reach (xfer offset : Nat) (bytes : List Byte) (last : Bool) (s : State) : ∃ e, execJrnData xfer offset bytes last s = .next { s with dev := e } ∧ Reach (Part.regs ||| Part.hmem ||| Part.jr ||| Part.rings ||| Part.fl ||| Part.cap) s.dev e := by
  refine ⟨_, rfl, ?_⟩
  try dsimp only
  with_reducible repeat' (first | assumption | exact .refl _ | (apply Reach.via (Dev.toDataRing_reach ..); decide) | dsimp only)

theorem execCapData_reach (xfer offset : Nat) (bytes : List Byte) (last : Bool) (s : State) : ∃ e, execCapData xfer offset bytes last s = .next { s with dev := e } ∧ Reach (Part.regs ||| Part.hmem ||| Part.jr ||| Part.rings ||| Part.fl ||| Part.cap) s.dev e := by
  refine ⟨_, rfl, ?_⟩
  try dsimp only
  with_reducible repeat' (first | assumption | exact .refl _ | (apply Reach.via (Dev.toDataRing_reach ..); decide) | dsimp only)

theorem execAshData_reach (xfer offset : Nat) (bytes : List Byte) (last : Bool) (s : State) : ∃ e, execAshData xfer offset bytes last s = .next { s with dev := e } ∧ Reach (Part.regs ||| Part.hmem ||| Part.jr ||| Part.rings ||| Part.fl ||| Part.cap) s.dev e := by
  refine ⟨_, rfl, ?_⟩
  try dsimp only
  with_reducible repeat' (first | assumption | exact .refl _ | (apply Reach.via (Dev.toDataRing_reach ..); decide) | dsimp only)

theorem execHeartbeatSend_reach (s : State) : ∃ e, execHeartbeatSend s = .next { s with dev := e } ∧ Reach (Part.fl) s.dev e := by
  refine ⟨_, rfl, ?_⟩
  try dsimp only
  with_reducible repeat' (first | assumption | exact .refl _ | (apply Reach.via (Dev.heartbeatSend_reach ..); decide) | dsimp only)

theorem execHfluHbkick_reach (value : Nat) (s : State) : ∃ e, execHfluHbkick value s = .next { s with dev := e } ∧ Reach (Part.fl) s.dev e := by
  refine ⟨_, rfl, ?_⟩
  try dsimp only
  with_reducible repeat' (first | assumption | exact .refl _ | (apply Reach.via (Dev.hbKick_reach ..); decide) | dsimp only)

theorem execHfluTxwinCommit_reach (win : Fin 2) (s : State) : ∃ e, execHfluTxwinCommit win s = .next { s with dev := e } ∧ Reach (Part.regs ||| Part.hmem ||| Part.jr ||| Part.rings ||| Part.fl) s.dev e := by
  refine ⟨_, rfl, ?_⟩
  try dsimp only
  with_reducible repeat' (first | assumption | exact .refl _ | (apply Reach.via (Dev.txwinCommit_reach ..); decide) | dsimp only)

theorem execFieldLost_reach (s : State) : ∃ e, execFieldLost s = .next { s with dev := e } ∧ Reach (Part.regs ||| Part.hmem ||| Part.jr ||| Part.rings ||| Part.fl) s.dev e := by
  refine ⟨_, rfl, ?_⟩
  try dsimp only
  with_reducible repeat' (first | assumption | exact .refl _ | (extract_lets +onlyGivenNames x; clear_value x) | (apply Reach.via (Dev.raiseH_reach ..); decide) | (apply Reach.ite <;> intro) | simp -zeta -iota only [↓Reach.mk_eq] | split | dsimp only | (apply ReachMk.intro <;> first | exact .inr (by decide) | rfl | exact .inl rfl | skip))

theorem execNoCreditTimeout_reach (queue : Fin 8) (s : State) : ∃ e, execNoCreditTimeout queue s = .next { s with dev := e } ∧ Reach (Part.regs ||| Part.hmem ||| Part.jr ||| Part.rings) s.dev e := by
  refine ⟨_, rfl, ?_⟩
  try dsimp only
  with_reducible repeat' (first | assumption | exact .refl _ | (apply Reach.via (Dev.raiseH_reach ..); decide) | dsimp only)

theorem execTimeSyncMissing_reach (s : State) : ∃ e, execTimeSyncMissing s = .next { s with dev := e } ∧ Reach (Part.regs ||| Part.hmem ||| Part.jr ||| Part.rings) s.dev e := by
  refine ⟨_, rfl, ?_⟩
  try dsimp only
  with_reducible repeat' (first | assumption | exact .refl _ | (apply Reach.via (Dev.raiseH_reach ..); decide) | dsimp only)

end Sys2Proof.Machine
end

