-- ==== Sys2Proof/Laws/RunsCapture.lean ====
section
/-! SUPPORT. What each command of Machine/Capture.lean can do: it answers a next state, and changes only the parts named. -/

set_option linter.tactic.unusedName false
set_option linter.unusedTactic false
set_option linter.unusedSimpArgs false
set_option linter.unreachableTactic false
set_option maxHeartbeats 800000
set_option linter.unusedVariables false

namespace Sys2Proof.Machine

theorem execCaptureArm_reach (s : State) : ∃ e, execCaptureArm s = .next { s with dev := e } ∧ Reach (Part.regs ||| Part.cap) s.dev e := by
  refine ⟨_, rfl, ?_⟩
  try dsimp only
  with_reducible repeat' (first | assumption | exact .refl _ | (apply Reach.via (Dev.capArm_reach ..); decide) | (apply Reach.ite <;> intro) | split | dsimp only)

theorem execCaptureTrigger_reach (s : State) : ∃ e, execCaptureTrigger s = .next { s with dev := e } ∧ Reach (Part.fl ||| Part.cap) s.dev e := by
  refine ⟨_, rfl, ?_⟩
  try dsimp only
  with_reducible repeat' (first | assumption | exact .refl _ | (apply Reach.via (Dev.capTrigger_reach ..); decide) | (apply Reach.ite <;> intro) | split | dsimp only)

theorem execCaptureStop_reach (s : State) : ∃ e, execCaptureStop s = .next { s with dev := e } ∧ Reach (Part.regs ||| Part.cap) s.dev e := by
  refine ⟨_, rfl, ?_⟩
  try dsimp only
  with_reducible repeat' (first | assumption | exact .refl _ | (apply Reach.via (Dev.capStop_reach ..); decide) | (apply Reach.ite <;> intro) | split | dsimp only)

theorem execCapReqBegin_reach (xfer len : Nat) (s : State) : ∃ e, execCapReqBegin xfer len s = .next { s with dev := e } ∧ Reach (Part.fl ||| Part.cap) s.dev e := by
  refine ⟨_, rfl, ?_⟩
  try dsimp only
  with_reducible repeat' (first | assumption | exact .refl _ | (apply Reach.via (Dev.capBegin_reach ..); decide) | dsimp only)

theorem execCapReqEnd_reach (xfer : Nat) (s : State) : ∃ e, execCapReqEnd xfer s = .next { s with dev := e } ∧ Reach (Part.fl ||| Part.cap) s.dev e := by
  refine ⟨_, rfl, ?_⟩
  try dsimp only
  with_reducible repeat' (first | assumption | exact .refl _ | (apply Reach.via (Dev.capEnd_reach ..); decide) | (apply Reach.via (Dev.takeCell_reach ..); decide) | (apply Reach.ite <;> intro) | split | dsimp only)

theorem execCapReqAbort_reach (xfer : Nat) (s : State) : ∃ e, execCapReqAbort xfer s = .next { s with dev := e } ∧ Reach (Part.fl ||| Part.cap) s.dev e := by
  refine ⟨_, rfl, ?_⟩
  try dsimp only
  with_reducible repeat' (first | assumption | exact .refl _ | (extract_lets +onlyGivenNames x; first | (refine Reach.have (x := x) ?_ (fun hx hxs => ?_); unfold x; clear x; rotate_left; clear_value x) | (have hf := fun y => (x y : Dev); clear hf; unfold x; clear_value x) | (have hf := fun y z => (x y z : Dev); clear hf; unfold x; clear_value x) | clear_value x) | (apply Reach.via (Dev.capEnd_reach ..); decide) | simp -zeta -iota only [↓Reach.mk_eq] | split | dsimp only | (apply ReachMk.intro <;> first | exact .inr (by decide) | rfl | exact .inl rfl | skip))

end Sys2Proof.Machine
end

