-- ==== Sys2Proof/Laws/RunsLegs.lean ====
section
/-! SUPPORT. What each command of Machine/Legs.lean can do: it answers a next state, and changes only the parts named. -/

set_option linter.tactic.unusedName false
set_option linter.unusedTactic false
set_option linter.unusedSimpArgs false
set_option linter.unreachableTactic false
set_option maxHeartbeats 800000
set_option linter.unusedVariables false

namespace Sys2Proof.Machine

theorem execPeriodStart_reach (leg : Fin 80) (s : State) : ∃ e, execPeriodStart leg s = .next { s with dev := e } ∧ Reach (Part.regs ||| Part.fl ||| Part.tm ||| Part.st ||| Part.pwm) s.dev e := by
  refine ⟨_, rfl, ?_⟩
  try dsimp only
  with_reducible repeat' (first | assumption | exact .refl _ | (apply Reach.via (Dev.periodStart_reach ..); decide) | dsimp only)

theorem execPwmGrpdivWrite_reach (group : Fin 20) (value : Nat) (s : State) : ∃ e, execPwmGrpdivWrite group value s = .next { s with dev := e } ∧ Reach (Part.regs ||| Part.pwm) s.dev e := by
  refine ⟨_, rfl, ?_⟩
  try dsimp only
  with_reducible repeat' (first | assumption | exact .refl _ | (apply Reach.via (Dev.grpDivReq_reach ..); decide) | (apply Reach.ite <;> intro) | split | dsimp only)

theorem execPwmForceWrite_reach (leg : Fin 80) (value : Nat) (s : State) : ∃ e, execPwmForceWrite leg value s = .next { s with dev := e } ∧ Reach (Part.regs ||| Part.fl) s.dev e := by
  refine ⟨_, rfl, ?_⟩
  try dsimp only
  with_reducible repeat' (first | assumption | exact .refl _ | (apply Reach.via (Dev.forceWrite_reach ..); decide) | (apply Reach.ite <;> intro) | split | dsimp only)

theorem execSyncInEdge_reach (cap : Nat) (s : State) : ∃ e, execSyncInEdge cap s = .next { s with dev := e } ∧ Reach (Part.regs ||| Part.fl ||| Part.tm ||| Part.pwm) s.dev e := by
  refine ⟨_, rfl, ?_⟩
  try dsimp only
  with_reducible repeat' (first | assumption | exact .refl _ | (apply Reach.via (Dev.syncEdge_reach ..); decide) | (apply Reach.ite <;> intro) | split | dsimp only)

theorem execSyncInMissing_reach (s : State) : ∃ e, execSyncInMissing s = .next { s with dev := e } ∧ Reach (Part.regs ||| Part.fl ||| Part.pwm) s.dev e := by
  refine ⟨_, rfl, ?_⟩
  try dsimp only
  with_reducible repeat' (first | assumption | exact .refl _ | (apply Reach.via (Dev.syncMissing_reach ..); decide) | dsimp only)

theorem execSyncInEnable_reach (s : State) : ∃ e, execSyncInEnable s = .next { s with dev := e } ∧ Reach (Part.regs ||| Part.fl ||| Part.pwm) s.dev e := by
  refine ⟨_, rfl, ?_⟩
  try dsimp only
  with_reducible repeat' (first | assumption | exact .refl _ | (apply Reach.via (Dev.syncEnable_reach ..); decide) | (apply Reach.ite <;> intro) | split | dsimp only)

theorem execSyncInDisable_reach (s : State) : ∃ e, execSyncInDisable s = .next { s with dev := e } ∧ Reach (Part.regs ||| Part.fl ||| Part.pwm) s.dev e := by
  refine ⟨_, rfl, ?_⟩
  try dsimp only
  with_reducible repeat' (first | assumption | exact .refl _ | (apply Reach.via (Dev.syncDisable_reach ..); decide) | (apply Reach.ite <;> intro) | split | dsimp only)

end Sys2Proof.Machine
end

