-- ==== Sys2Proof/Laws/RunsCe.lean ====
section
/-! SUPPORT. What each command of Machine/Ce.lean can do: it answers a next state, and changes only the parts named. -/

set_option linter.tactic.unusedName false
set_option linter.unusedTactic false
set_option linter.unusedSimpArgs false
set_option linter.unreachableTactic false
set_option maxHeartbeats 800000
set_option linter.unusedVariables false

namespace Sys2Proof.Machine

theorem execCeMvm_reach (a : CeArgs) (ecc : Option EccHit) (s : State) : ∃ e, execCeMvm a ecc s = .next { s with dev := e } ∧ Reach (Part.regs ||| Part.hmem ||| Part.free ||| Part.inj ||| Part.jr ||| Part.rings ||| Part.pw ||| Part.fl ||| Part.st ||| Part.ce ||| Part.dgr ||| Part.pwm ||| Part.out ||| Part.cap ||| Part.ash) s.dev e := by
  refine ⟨_, rfl, ?_⟩
  try dsimp only
  with_reducible repeat' (first | assumption | exact .refl _ | (apply Reach.via (Dev.ceStep_reach ..); decide) | dsimp only)

theorem execCeMva_reach (a : CeArgs) (ecc : Option EccHit) (s : State) : ∃ e, execCeMva a ecc s = .next { s with dev := e } ∧ Reach (Part.regs ||| Part.hmem ||| Part.free ||| Part.inj ||| Part.jr ||| Part.rings ||| Part.pw ||| Part.fl ||| Part.st ||| Part.ce ||| Part.dgr ||| Part.pwm ||| Part.out ||| Part.cap ||| Part.ash) s.dev e := by
  refine ⟨_, rfl, ?_⟩
  try dsimp only
  with_reducible repeat' (first | assumption | exact .refl _ | (apply Reach.via (Dev.ceStep_reach ..); decide) | dsimp only)

theorem execCeWb_reach (a : CeArgs) (ecc : Option EccHit) (s : State) : ∃ e, execCeWb a ecc s = .next { s with dev := e } ∧ Reach (Part.regs ||| Part.hmem ||| Part.free ||| Part.inj ||| Part.jr ||| Part.rings ||| Part.pw ||| Part.fl ||| Part.st ||| Part.ce ||| Part.dgr ||| Part.pwm ||| Part.out ||| Part.cap ||| Part.ash) s.dev e := by
  refine ⟨_, rfl, ?_⟩
  try dsimp only
  with_reducible repeat' (first | assumption | exact .refl _ | (apply Reach.via (Dev.ceStep_reach ..); decide) | dsimp only)

theorem execCeVadd_reach (a : CeArgs) (ecc : Option EccHit) (s : State) : ∃ e, execCeVadd a ecc s = .next { s with dev := e } ∧ Reach (Part.regs ||| Part.hmem ||| Part.free ||| Part.inj ||| Part.jr ||| Part.rings ||| Part.pw ||| Part.fl ||| Part.st ||| Part.ce ||| Part.dgr ||| Part.pwm ||| Part.out ||| Part.cap ||| Part.ash) s.dev e := by
  refine ⟨_, rfl, ?_⟩
  try dsimp only
  with_reducible repeat' (first | assumption | exact .refl _ | (apply Reach.via (Dev.ceStep_reach ..); decide) | dsimp only)

theorem execCeVsub_reach (a : CeArgs) (ecc : Option EccHit) (s : State) : ∃ e, execCeVsub a ecc s = .next { s with dev := e } ∧ Reach (Part.regs ||| Part.hmem ||| Part.free ||| Part.inj ||| Part.jr ||| Part.rings ||| Part.pw ||| Part.fl ||| Part.st ||| Part.ce ||| Part.dgr ||| Part.pwm ||| Part.out ||| Part.cap ||| Part.ash) s.dev e := by
  refine ⟨_, rfl, ?_⟩
  try dsimp only
  with_reducible repeat' (first | assumption | exact .refl _ | (apply Reach.via (Dev.ceStep_reach ..); decide) | dsimp only)

theorem execCeVlim_reach (a : CeArgs) (ecc : Option EccHit) (s : State) : ∃ e, execCeVlim a ecc s = .next { s with dev := e } ∧ Reach (Part.regs ||| Part.hmem ||| Part.free ||| Part.inj ||| Part.jr ||| Part.rings ||| Part.pw ||| Part.fl ||| Part.st ||| Part.ce ||| Part.dgr ||| Part.pwm ||| Part.out ||| Part.cap ||| Part.ash) s.dev e := by
  refine ⟨_, rfl, ?_⟩
  try dsimp only
  with_reducible repeat' (first | assumption | exact .refl _ | (apply Reach.via (Dev.ceStep_reach ..); decide) | dsimp only)

theorem execCeMov_reach (a : CeArgs) (ecc : Option EccHit) (s : State) : ∃ e, execCeMov a ecc s = .next { s with dev := e } ∧ Reach (Part.regs ||| Part.hmem ||| Part.free ||| Part.inj ||| Part.jr ||| Part.rings ||| Part.pw ||| Part.fl ||| Part.st ||| Part.ce ||| Part.dgr ||| Part.pwm ||| Part.out ||| Part.cap ||| Part.ash) s.dev e := by
  refine ⟨_, rfl, ?_⟩
  try dsimp only
  with_reducible repeat' (first | assumption | exact .refl _ | (apply Reach.via (Dev.ceStep_reach ..); decide) | dsimp only)

theorem execCeLut_reach (a : CeArgs) (ecc : Option EccHit) (s : State) : ∃ e, execCeLut a ecc s = .next { s with dev := e } ∧ Reach (Part.regs ||| Part.hmem ||| Part.free ||| Part.inj ||| Part.jr ||| Part.rings ||| Part.pw ||| Part.fl ||| Part.st ||| Part.ce ||| Part.dgr ||| Part.pwm ||| Part.out ||| Part.cap ||| Part.ash) s.dev e := by
  refine ⟨_, rfl, ?_⟩
  try dsimp only
  with_reducible repeat' (first | assumption | exact .refl _ | (apply Reach.via (Dev.ceStep_reach ..); decide) | dsimp only)

theorem execCeSlew_reach (a : CeArgs) (ecc : Option EccHit) (s : State) : ∃ e, execCeSlew a ecc s = .next { s with dev := e } ∧ Reach (Part.regs ||| Part.hmem ||| Part.free ||| Part.inj ||| Part.jr ||| Part.rings ||| Part.pw ||| Part.fl ||| Part.st ||| Part.ce ||| Part.dgr ||| Part.pwm ||| Part.out ||| Part.cap ||| Part.ash) s.dev e := by
  refine ⟨_, rfl, ?_⟩
  try dsimp only
  with_reducible repeat' (first | assumption | exact .refl _ | (apply Reach.via (Dev.ceStep_reach ..); decide) | dsimp only)

theorem execCeBq_reach (a : CeArgs) (ecc : Option EccHit) (s : State) : ∃ e, execCeBq a ecc s = .next { s with dev := e } ∧ Reach (Part.regs ||| Part.hmem ||| Part.free ||| Part.inj ||| Part.jr ||| Part.rings ||| Part.pw ||| Part.fl ||| Part.st ||| Part.ce ||| Part.dgr ||| Part.pwm ||| Part.out ||| Part.cap ||| Part.ash) s.dev e := by
  refine ⟨_, rfl, ?_⟩
  try dsimp only
  with_reducible repeat' (first | assumption | exact .refl _ | (apply Reach.via (Dev.ceStep_reach ..); decide) | dsimp only)

theorem execCeResid_reach (a : CeArgs) (ecc : Option EccHit) (s : State) : ∃ e, execCeResid a ecc s = .next { s with dev := e } ∧ Reach (Part.regs ||| Part.hmem ||| Part.free ||| Part.inj ||| Part.jr ||| Part.rings ||| Part.pw ||| Part.fl ||| Part.st ||| Part.ce ||| Part.dgr ||| Part.pwm ||| Part.out ||| Part.cap ||| Part.ash) s.dev e := by
  refine ⟨_, rfl, ?_⟩
  try dsimp only
  with_reducible repeat' (first | assumption | exact .refl _ | (apply Reach.via (Dev.ceStep_reach ..); decide) | dsimp only)

theorem execCeFerr_reach (a : CeArgs) (ecc : Option EccHit) (s : State) : ∃ e, execCeFerr a ecc s = .next { s with dev := e } ∧ Reach (Part.regs ||| Part.hmem ||| Part.free ||| Part.inj ||| Part.jr ||| Part.rings ||| Part.pw ||| Part.fl ||| Part.st ||| Part.ce ||| Part.dgr ||| Part.pwm ||| Part.out ||| Part.cap ||| Part.ash) s.dev e := by
  refine ⟨_, rfl, ?_⟩
  try dsimp only
  with_reducible repeat' (first | assumption | exact .refl _ | (apply Reach.via (Dev.ceStep_reach ..); decide) | dsimp only)

theorem execCeIdle_reach (a : CeArgs) (s : State) : ∃ e, execCeIdle a s = .next { s with dev := e } ∧ Reach (Part.regs ||| Part.hmem ||| Part.free ||| Part.inj ||| Part.jr ||| Part.rings ||| Part.pw ||| Part.fl ||| Part.st ||| Part.ce ||| Part.dgr ||| Part.pwm ||| Part.out ||| Part.cap ||| Part.ash) s.dev e := by
  refine ⟨_, rfl, ?_⟩
  try dsimp only
  with_reducible repeat' (first | assumption | exact .refl _ | (apply Reach.via (Dev.ceStep_reach ..); decide) | dsimp only)

theorem execCeEnd_reach (a : CeArgs) (s : State) : ∃ e, execCeEnd a s = .next { s with dev := e } ∧ Reach (Part.regs ||| Part.hmem ||| Part.free ||| Part.inj ||| Part.jr ||| Part.rings ||| Part.pw ||| Part.fl ||| Part.st ||| Part.ce ||| Part.dgr ||| Part.pwm ||| Part.out ||| Part.cap ||| Part.ash) s.dev e := by
  refine ⟨_, rfl, ?_⟩
  try dsimp only
  with_reducible repeat' (first | assumption | exact .refl _ | (apply Reach.via (Dev.ceStep_reach ..); decide) | dsimp only)

end Sys2Proof.Machine
end

