-- ==== Sys2Proof/Laws/RunsMotion.lean ====
section
/-! SUPPORT. What each command of Machine/Motion.lean can do: it answers a next state, and changes only the parts named. -/

set_option linter.tactic.unusedName false
set_option linter.unusedTactic false
set_option linter.unusedSimpArgs false
set_option linter.unreachableTactic false
set_option maxHeartbeats 800000
set_option linter.unusedVariables false

namespace Sys2Proof.Machine

theorem execCeLockstepMismatch_reach (s : State) : ∃ e, execCeLockstepMismatch s = .next { s with dev := e } ∧ Reach (Part.regs ||| Part.pw ||| Part.fl ||| Part.pwm ||| Part.cap ||| Part.ash) s.dev e := by
  refine ⟨_, rfl, ?_⟩
  try dsimp only
  with_reducible repeat' (first | assumption | exact .refl _ | (apply Reach.via (Dev.deviceTrip_reach ..); decide) | (apply Reach.via (Dev.fatalLatch_reach ..); decide) | (apply Reach.via (Dev.raise_reach ..); decide) | (apply Reach.ite <;> intro) | split | dsimp only)

theorem execCenDbgHalt_reach (halt : Bool) (s : State) : ∃ e, execCenDbgHalt halt s = .next { s with dev := e } ∧ Reach (Part.regs) s.dev e := by
  refine ⟨_, rfl, ?_⟩
  try dsimp only
  with_reducible repeat' (first | assumption | exact .refl _ | (apply Reach.via (Dev.dbgHalt_reach ..); decide) | (apply Reach.ite <;> intro) | split | dsimp only)

theorem execCenDbgStep_reach (s : State) : ∃ e, execCenDbgStep s = .next { s with dev := e } ∧ Reach (Part.ce) s.dev e := by
  refine ⟨_, rfl, ?_⟩
  try dsimp only
  with_reducible repeat' (first | assumption | exact .refl _ | (apply Reach.via (Dev.dbgStep_reach ..); decide) | (apply Reach.ite <;> intro) | split | dsimp only)

theorem execLawManWrite_reach (block : Fin 8) (value : Nat) (s : State) : ∃ e, execLawManWrite block value s = .next { s with dev := e } ∧ Reach (Part.regs) s.dev e := by
  refine ⟨_, rfl, ?_⟩
  try dsimp only
  with_reducible repeat' (first | assumption | exact .refl _ | (apply Reach.via (Dev.manWrite_reach ..); decide) | (apply Reach.ite <;> intro) | split | dsimp only)

theorem execEncoderTransition_reach (axis : Fin 4) (a b : Bool) (s : State) : ∃ e, execEncoderTransition axis a b s = .next { s with dev := e } ∧ Reach (Part.regs ||| Part.fl ||| Part.st ||| Part.ce) s.dev e := by
  refine ⟨_, rfl, ?_⟩
  try dsimp only
  with_reducible repeat' (first | assumption | exact .refl _ | (apply Reach.via (Dev.encTransition_reach ..); decide) | (apply Reach.ite <;> intro) | split | dsimp only)

theorem execEncoderIndexEdge_reach (axis : Fin 4) (s : State) : ∃ e, execEncoderIndexEdge axis s = .next { s with dev := e } ∧ Reach (Part.regs ||| Part.fl ||| Part.st ||| Part.ce) s.dev e := by
  refine ⟨_, rfl, ?_⟩
  try dsimp only
  with_reducible repeat' (first | assumption | exact .refl _ | (apply Reach.via (Dev.encIndex_reach ..); decide) | (apply Reach.ite <;> intro) | split | dsimp only)

theorem execAxisEnable_reach (axis : Fin 4) (s : State) : ∃ e, execAxisEnable axis s = .next { s with dev := e } ∧ Reach (Part.regs ||| Part.st ||| Part.ce) s.dev e := by
  refine ⟨_, rfl, ?_⟩
  try dsimp only
  with_reducible repeat' (first | assumption | exact .refl _ | (apply Reach.via (Dev.axisEnable_reach ..); decide) | (apply Reach.ite <;> intro) | split | dsimp only)

theorem execAxisDisable_reach (axis : Fin 4) (s : State) : ∃ e, execAxisDisable axis s = .next { s with dev := e } ∧ Reach (Part.regs ||| Part.st ||| Part.ce) s.dev e := by
  refine ⟨_, rfl, ?_⟩
  try dsimp only
  with_reducible repeat' (first | assumption | exact .refl _ | (apply Reach.via (Dev.axisDisable_reach ..); decide) | (apply Reach.ite <;> intro) | split | dsimp only)

theorem execAxisClr_reach (axis : Fin 4) (s : State) : ∃ e, execAxisClr axis s = .next { s with dev := e } ∧ Reach (Part.regs ||| Part.st) s.dev e := by
  refine ⟨_, rfl, ?_⟩
  try dsimp only
  with_reducible repeat' (first | assumption | exact .refl _ | (apply Reach.via (Dev.axisClr_reach ..); decide) | (apply Reach.ite <;> intro) | split | dsimp only)

theorem execStoptimeExpiry_reach (axis : Fin 4) (s : State) : ∃ e, execStoptimeExpiry axis s = .next { s with dev := e } ∧ Reach (Part.regs ||| Part.st ||| Part.ce) s.dev e := by
  refine ⟨_, rfl, ?_⟩
  try dsimp only
  with_reducible repeat' (first | assumption | exact .refl _ | (apply Reach.via (Dev.axisStopped_reach ..); decide) | (apply Reach.ite <;> intro) | split | dsimp only)

end Sys2Proof.Machine
end

