-- ==== Sys2Proof/Laws/RunsDegraded.lean ====
section
/-! SUPPORT. What each command of Machine/Degraded.lean can do: it answers a next state, and changes only the parts named. -/

set_option linter.tactic.unusedName false
set_option linter.unusedTactic false
set_option linter.unusedSimpArgs false
set_option linter.unreachableTactic false
set_option maxHeartbeats 800000
set_option linter.unusedVariables false

namespace Sys2Proof.Machine

theorem execDgrVarreq_reach (block : Fin 8) (value : Nat) (s : State) : ∃ e, execDgrVarreq block value s = .next { s with dev := e } ∧ Reach (Part.regs ||| Part.dgr) s.dev e := by
  refine ⟨_, rfl, ?_⟩
  try dsimp only
  with_reducible repeat' (first | assumption | exact .refl _ | (apply Reach.via (Dev.varReq_reach ..); decide) | (apply Reach.ite <;> intro) | split | dsimp only)

theorem execDgrLostWrite_reach (block : Fin 8) (value : Nat) (s : State) : ∃ e, execDgrLostWrite block value s = .next { s with dev := e } ∧ Reach (Part.regs) s.dev e := by
  refine ⟨_, rfl, ?_⟩
  try dsimp only
  with_reducible repeat' (first | assumption | exact .refl _ | (apply Reach.via (Dev.lostWrite_reach ..); decide) | (apply Reach.ite <;> intro) | split | dsimp only)

end Sys2Proof.Machine
end

