-- ==== Sys2Proof/Laws/RunsSensors.lean ====
section
/-! SUPPORT. What each command of Machine/Sensors.lean can do: it answers a next state, and changes only the parts named. -/

set_option linter.tactic.unusedName false
set_option linter.unusedTactic false
set_option linter.unusedSimpArgs false
set_option linter.unreachableTactic false
set_option maxHeartbeats 800000
set_option linter.unusedVariables false

namespace Sys2Proof.Machine

theorem execFbaConversionSlot_reach (conv : Fin 2) (raw : Int) (s : State) : ∃ e, execFbaConversionSlot conv raw s = .next { s with dev := e } ∧ Reach (Part.regs ||| Part.inj ||| Part.fl ||| Part.tm ||| Part.out ||| Part.fba ||| Part.imd) s.dev e := by
  refine ⟨_, rfl, ?_⟩
  try dsimp only
  with_reducible repeat' (first | assumption | exact .refl _ | (apply Reach.via (Dev.fbaSlot_reach ..); decide) | (apply Reach.ite <;> intro) | split | dsimp only)

theorem execImdEnable_reach (ch : Fin 4) (s : State) : ∃ e, execImdEnable ch s = .next { s with dev := e } ∧ Reach (Part.regs ||| Part.imd) s.dev e := by
  refine ⟨_, rfl, ?_⟩
  try dsimp only
  with_reducible repeat' (first | assumption | exact .refl _ | (apply Reach.via (Dev.imdEnable_reach ..); decide) | (apply Reach.ite <;> intro) | split | dsimp only)

theorem execImdHalfPeriodEnd_reach (ch : Fin 4) (s : State) : ∃ e, execImdHalfPeriodEnd ch s = .next { s with dev := e } ∧ Reach (Part.regs ||| Part.hmem ||| Part.inj ||| Part.jr ||| Part.rings ||| Part.fl ||| Part.tm ||| Part.st ||| Part.out ||| Part.imd) s.dev e := by
  refine ⟨_, rfl, ?_⟩
  try dsimp only
  with_reducible repeat' (first | assumption | exact .refl _ | (apply Reach.via (Dev.imdHalf_reach ..); decide) | (apply Reach.ite <;> intro) | split | dsimp only)

end Sys2Proof.Machine
end

