-- ==== Sys2Proof/Laws/RunsContactors.lean ====
section
/-! SUPPORT. What each command of Machine/Contactors.lean can do: it answers a next state, and changes only the parts named. -/

set_option linter.tactic.unusedName false
set_option linter.unusedTactic false
set_option linter.unusedSimpArgs false
set_option linter.unreachableTactic false
set_option maxHeartbeats 800000
set_option linter.unusedVariables false

namespace Sys2Proof.Machine

theorem execCtrStart_reach (seq : Nat) (s : State) : ∃ e, execCtrStart seq s = .next { s with dev := e } ∧ Reach (Part.regs ||| Part.fl ||| Part.ctr) s.dev e := by
  refine ⟨_, rfl, ?_⟩
  try dsimp only
  with_reducible repeat' (first | assumption | exact .refl _ | (apply Reach.via (Dev.ctrStart_reach ..); decide) | (apply Reach.ite <;> intro) | split | dsimp only)

theorem execCtrSequencerBoundary_reach (fb : Nat) (s : State) : ∃ e, execCtrSequencerBoundary fb s = .next { s with dev := e } ∧ Reach (Part.regs ||| Part.fl ||| Part.tm ||| Part.st ||| Part.out ||| Part.ctr ||| Part.rt ||| Part.met) s.dev e := by
  refine ⟨_, rfl, ?_⟩
  try dsimp only
  with_reducible repeat' (first | assumption | exact .refl _ | (apply Reach.via (Dev.ctrBoundary_reach ..); decide) | (apply Reach.ite <;> intro) | split | dsimp only)

theorem execCtrStepTimeout_reach (engine : Fin 8) (s : State) : ∃ e, execCtrStepTimeout engine s = .next { s with dev := e } ∧ Reach (Part.regs ||| Part.fl ||| Part.st ||| Part.out ||| Part.ctr ||| Part.rt ||| Part.met) s.dev e := by
  refine ⟨_, rfl, ?_⟩
  try dsimp only
  with_reducible repeat' (first | assumption | exact .refl _ | (apply Reach.via (Dev.ctrDrained_reach ..); decide) | (apply Reach.via (Dev.ctrTimeout_reach ..); decide) | (apply Reach.ite <;> intro) | split | dsimp only)

theorem execCoilMismatch_reach (coil : Fin 48) (s : State) : ∃ e, execCoilMismatch coil s = .next { s with dev := e } ∧ Reach (Part.regs ||| Part.fl) s.dev e := by
  refine ⟨_, rfl, ?_⟩
  try dsimp only
  with_reducible repeat' (first | assumption | exact .refl _ | (apply Reach.via (Dev.coilMismatch_reach ..); decide) | (apply Reach.ite <;> intro) | split | dsimp only)

end Sys2Proof.Machine
end

