-- ==== Sys2Proof/Laws/RunsTelemetry.lean ====
section
/-! SUPPORT. What each command of Machine/Telemetry.lean can do: it answers a next state, and changes only the parts named. -/

set_option linter.tactic.unusedName false
set_option linter.unusedTactic false
set_option linter.unusedSimpArgs false
set_option linter.unreachableTactic false
set_option maxHeartbeats 800000
set_option linter.unusedVariables false

namespace Sys2Proof.Machine

theorem execLegSheddingEvaluation_reach (s : State) : ∃ e, execLegSheddingEvaluation s = .next { s with dev := e } ∧ Reach (Part.regs ||| Part.tm ||| Part.dgr ||| Part.pwm) s.dev e := by
  refine ⟨_, rfl, ?_⟩
  try dsimp only
  with_reducible repeat' (first | assumption | exact .refl _ | (apply Reach.via (Dev.advanceTo_reach ..); decide) | (apply Reach.via (Dev.shedEval_reach ..); decide) | (apply Reach.ite <;> intro) | split | dsimp only)

end Sys2Proof.Machine
end

