-- ==== Sys2Proof/Laws/RunsShare.lean ====
section
/-! SUPPORT. What each command of Machine/Share.lean can do: it answers a next state, and changes only the parts named. -/

set_option linter.tactic.unusedName false
set_option linter.unusedTactic false
set_option linter.unusedSimpArgs false
set_option linter.unreachableTactic false
set_option maxHeartbeats 800000
set_option linter.unusedVariables false

namespace Sys2Proof.Machine

theorem execShrNextatArm_reach (value : Nat) (s : State) : ∃ e, execShrNextatArm value s = .next { s with dev := e } ∧ Reach (Part.regs ||| Part.shr) s.dev e := by
  refine ⟨_, rfl, ?_⟩
  try dsimp only
  with_reducible repeat' (first | assumption | exact .refl _ | (apply Reach.via (Dev.nextatWrite_reach ..); decide) | (apply Reach.ite <;> intro) | split | dsimp only)

theorem execThermalDerateStep_reach (s : State) : ∃ e, execThermalDerateStep s = .next { s with dev := e } ∧ Reach (Part.regs ||| Part.tm ||| Part.shr) s.dev e := by
  refine ⟨_, rfl, ?_⟩
  try dsimp only
  with_reducible repeat' (first | assumption | exact .refl _ | (apply Reach.via (Dev.advanceTo_reach ..); decide) | (apply Reach.via (Dev.derateStep_reach ..); decide) | (apply Reach.ite <;> intro) | split | dsimp only)

theorem execRoutingPlan_reach (s : State) : ∃ e, execRoutingPlan s = .next { s with dev := e } ∧ Reach (Part.regs ||| Part.tm ||| Part.dgr ||| Part.rt) s.dev e := by
  refine ⟨_, rfl, ?_⟩
  try dsimp only
  with_reducible repeat' (first | assumption | exact .refl _ | (apply Reach.via (Dev.advanceTo_reach ..); decide) | (apply Reach.via (Dev.routePlan_reach ..); decide) | (apply Reach.ite <;> intro) | split | dsimp only)

theorem execRoutingZeroTimeout_reach (s : State) : ∃ e, execRoutingZeroTimeout s = .next { s with dev := e } ∧ Reach (Part.regs ||| Part.fl ||| Part.dgr ||| Part.rt) s.dev e := by
  refine ⟨_, rfl, ?_⟩
  try dsimp only
  with_reducible repeat' (first | assumption | exact .refl _ | (apply Reach.via (Dev.routeTimeout_reach ..); decide) | (apply Reach.ite <;> intro) | split | dsimp only)

end Sys2Proof.Machine
end

