-- ==== Sys2Proof/Laws/RunsMetrology.lean ====
section
/-! SUPPORT. What each command of Machine/Metrology.lean can do: it answers a next state, and changes only the parts named. -/

set_option linter.tactic.unusedName false
set_option linter.unusedTactic false
set_option linter.unusedSimpArgs false
set_option linter.unreachableTactic false
set_option maxHeartbeats 800000
set_option linter.unusedVariables false

namespace Sys2Proof.Machine

theorem execModConditionPresent_reach (kind : Fin 3) (index : Fin 128) (s : State) : ∃ e, execModConditionPresent kind index s = .next { s with dev := e } ∧ Reach (Part.regs ||| Part.fl ||| Part.met) s.dev e := by
  refine ⟨_, rfl, ?_⟩
  try dsimp only
  with_reducible repeat' (first | assumption | exact .refl _ | (apply Reach.via (Dev.modClk_reach ..); decide) | (apply Reach.via (Dev.modPresent_reach ..); decide) | (apply Dev.forAll_reach <;> intros) | (apply Reach.ite <;> intro) | split | dsimp only)

theorem execModConditionEnd_reach (kind : Fin 3) (index : Fin 128) (s : State) : ∃ e, execModConditionEnd kind index s = .next { s with dev := e } ∧ Reach (Part.regs ||| Part.fl ||| Part.met) s.dev e := by
  refine ⟨_, rfl, ?_⟩
  try dsimp only
  with_reducible repeat' (first | assumption | exact .refl _ | (apply Reach.via (Dev.modClk_reach ..); decide) | (apply Reach.via (Dev.modEnded_reach ..); decide) | (apply Dev.forAll_reach <;> intros) | (apply Reach.ite <;> intro) | split | dsimp only)

theorem execMetrologyReturnWait_reach (channel : Fin 16) (s : State) : ∃ e, execMetrologyReturnWait channel s = .next { s with dev := e } ∧ Reach (Part.met) s.dev e := by
  refine ⟨_, rfl, ?_⟩
  try dsimp only
  with_reducible repeat' (first | assumption | exact .refl _ | (apply Reach.via (Dev.metReturn_reach ..); decide) | dsimp only)

theorem execTestPulseStart_reach (k : Fin 4) (s : State) : ∃ e, execTestPulseStart k s = .next { s with dev := e } ∧ Reach (Part.regs ||| Part.tm ||| Part.met) s.dev e := by
  refine ⟨_, rfl, ?_⟩
  try dsimp only
  with_reducible repeat' (first | assumption | exact .refl _ | (apply Reach.via (Dev.tpStart_reach ..); decide) | (apply Reach.ite <;> intro) | split | dsimp only)

theorem execTestPulseEnd_reach (k : Fin 4) (s : State) : ∃ e, execTestPulseEnd k s = .next { s with dev := e } ∧ Reach (Part.tm ||| Part.met) s.dev e := by
  refine ⟨_, rfl, ?_⟩
  try dsimp only
  with_reducible repeat' (first | assumption | exact .refl _ | (apply Reach.via (Dev.tpEnd_reach ..); decide) | dsimp only)

theorem execTestOutputConfigWrite_reach (k : Fin 4) (isConst : Bool) (value : Nat) (s : State) : ∃ e, execTestOutputConfigWrite k isConst value s = .next { s with dev := e } ∧ Reach (Part.regs ||| Part.met) s.dev e := by
  refine ⟨_, rfl, ?_⟩
  try dsimp only
  with_reducible repeat' (first | assumption | exact .refl _ | (apply Reach.via (Dev.tpWrite_reach ..); decide) | dsimp only)

theorem execLrImageStaged_reach (version svn : Nat) (sum : List Byte) (s : State) : ∃ e, execLrImageStaged version svn sum s = .next { s with dev := e } ∧ Reach (Part.regs ||| Part.met) s.dev e := by
  refine ⟨_, rfl, ?_⟩
  try dsimp only
  with_reducible repeat' (first | assumption | exact .refl _ | (extract_lets +onlyGivenNames x; first | (have hf : Metr := x; clear hf; refine Reach.keep_met (x := x) ?_ (fun hx => ?_); (· intro hs; unfold x; clear x; (repeat' (first | ((try simp only [Metr.Shaped] at *); simp +zetaDelta (maxDischargeDepth := 9) only [Metr.Shaped, Dev.Shaped.met_retAt, Dev.Shaped.met_tp, Dev.Shaped.wr, Dev.Shaped.resetDomains, setAt_length, addAt_length, List.length_map, List.length_replicate, List.length_cons, List.length_nil, List.length_zipWith, List.length_range, List.length_append, List.length_drop, List.length_take, Nat.reduceSub, Nat.reduceLeDiff, Nat.min_eq_left, *, and_self, Nat.reduceAdd, Nat.zero_add]; done) | split))); clear_value x) | clear_value x) | (apply Reach.wr'; decide) | (apply Reach.ite <;> intro) | simp -zeta -iota only [↓Reach.mk_eq] | split | dsimp only | (apply ReachMk.intro <;> first | exact .inr (by decide) | rfl | exact .inl rfl | (refine .inr ⟨by decide, fun hs he => ?_⟩; (repeat' (first | ((try simp only [Metr.Shaped] at *); simp +zetaDelta (maxDischargeDepth := 9) only [Metr.Shaped, Dev.Shaped.met_retAt, Dev.Shaped.met_tp, Dev.Shaped.wr, Dev.Shaped.resetDomains, setAt_length, addAt_length, List.length_map, List.length_replicate, List.length_cons, List.length_nil, List.length_zipWith, List.length_range, List.length_append, List.length_drop, List.length_take, Nat.reduceSub, Nat.reduceLeDiff, Nat.min_eq_left, *, and_self, Nat.reduceAdd, Nat.zero_add]; done) | split)); done) | skip))

theorem execLrActivate_reach (key : Nat) (s : State) : ∃ e, execLrActivate key s = .next { s with dev := e } ∧ Reach (Part.regs ||| Part.fl ||| Part.st) s.dev e := by
  refine ⟨_, rfl, ?_⟩
  try dsimp only
  with_reducible repeat' (first | assumption | exact .refl _ | (apply Reach.via (Dev.lrActivate_reach ..); decide) | dsimp only)

theorem execMetrologyProcessorRunning_reach (s : State) : ∃ e, execMetrologyProcessorRunning s = .next { s with dev := e } ∧ Reach (Part.regs ||| Part.fl) s.dev e := by
  refine ⟨_, rfl, ?_⟩
  try dsimp only
  with_reducible repeat' (first | assumption | exact .refl _ | (apply Reach.via (Dev.metStart_reach ..); decide) | dsimp only)

end Sys2Proof.Machine
end

