-- ==== Sys2Proof/Laws/RunsBilling.lean ====
section
/-! SUPPORT. What each command of Machine/Billing.lean can do: it answers a next state, and changes only the parts named. -/

set_option linter.tactic.unusedName false
set_option linter.unusedTactic false
set_option linter.unusedSimpArgs false
set_option linter.unreachableTactic false
set_option maxHeartbeats 800000
set_option linter.unusedVariables false

namespace Sys2Proof.Machine

theorem execMetrologyInstant_reach (main vh : List Int) (s : State) : ∃ e, execMetrologyInstant main vh s = .next { s with dev := e } ∧ Reach (Part.regs ||| Part.free ||| Part.fl ||| Part.tm ||| Part.tlm ||| Part.shr ||| Part.met ||| Part.bil ||| Part.bst) s.dev e := by
  refine ⟨_, rfl, ?_⟩
  try dsimp only
  with_reducible repeat' (first | assumption | exact .refl _ | (apply Reach.via (Dev.metInstant_reach ..); decide) | (apply Reach.ite <;> intro) | split | dsimp only)

theorem execMetEclr_reach (value : Nat) (s : State) : ∃ e, execMetEclr value s = .next { s with dev := e } ∧ Reach (Part.regs ||| Part.fl ||| Part.met ||| Part.bil ||| Part.bst) s.dev e := by
  refine ⟨_, rfl, ?_⟩
  try dsimp only
  with_reducible repeat' (first | assumption | exact .refl _ | (apply Reach.via (Dev.metEclr_reach ..); decide) | dsimp only)

theorem execLrSwitchComplete_reach (ok : Bool) (s : State) : ∃ e, execLrSwitchComplete ok s = .next { s with dev := e } ∧ Reach (Part.regs ||| Part.fl ||| Part.met ||| Part.bil ||| Part.bst) s.dev e := by
  refine ⟨_, rfl, ?_⟩
  try dsimp only
  with_reducible repeat' (first | assumption | exact .refl _ | (apply Reach.via (Dev.lrDone_reach ..); decide) | dsimp only)

theorem execSealRequest_reach (key : Nat) (s : State) : ∃ e, execSealRequest key s = .next { s with dev := e } ∧ Reach (Part.regs ||| Part.fl ||| Part.bil) s.dev e := by
  refine ⟨_, rfl, ?_⟩
  try dsimp only
  with_reducible repeat' (first | assumption | exact .refl _ | (apply Reach.via (Dev.sealReq_reach ..); decide) | dsimp only)

theorem execSealComplete_reach (s : State) : ∃ e, execSealComplete s = .next { s with dev := e } ∧ Reach (Part.regs ||| Part.fl ||| Part.bil ||| Part.bst ||| Part.ffuse) s.dev e := by
  refine ⟨_, rfl, ?_⟩
  try dsimp only
  with_reducible repeat' (first | assumption | exact .refl _ | (apply Reach.via (Dev.sealDone_reach ..); decide) | dsimp only)

theorem execCommitRequest_reach (s : State) : ∃ e, execCommitRequest s = .next { s with dev := e } ∧ Reach (Part.regs ||| Part.bil ||| Part.bst) s.dev e := by
  refine ⟨_, rfl, ?_⟩
  try dsimp only
  with_reducible repeat' (first | assumption | exact .refl _ | (apply Reach.via (Dev.commitReq_reach ..); decide) | dsimp only)

theorem execCommit15Min_reach (s : State) : ∃ e, execCommit15Min s = .next { s with dev := e } ∧ Reach (Part.regs ||| Part.tm ||| Part.bil ||| Part.bst) s.dev e := by
  refine ⟨_, rfl, ?_⟩
  try dsimp only
  with_reducible repeat' (first | assumption | exact .refl _ | (apply Reach.via (Dev.advanceTo_reach ..); decide) | (apply Reach.via (Dev.commitReq_reach ..); decide) | split | dsimp only)

theorem execCommitComplete_reach (ok : Bool) (s : State) : ∃ e, execCommitComplete ok s = .next { s with dev := e } ∧ Reach (Part.regs ||| Part.fl ||| Part.bil ||| Part.bst) s.dev e := by
  refine ⟨_, rfl, ?_⟩
  try dsimp only
  with_reducible repeat' (first | assumption | exact .refl _ | (apply Reach.via (Dev.commitDone_reach ..); decide) | dsimp only)

theorem execSessionOpen_reach (output : Fin 4) (s : State) : ∃ e, execSessionOpen output s = .next { s with dev := e } ∧ Reach (Part.regs ||| Part.fl ||| Part.bil ||| Part.bst) s.dev e := by
  refine ⟨_, rfl, ?_⟩
  try dsimp only
  with_reducible repeat' (first | assumption | exact .refl _ | (apply Reach.via (Dev.sessOpen_reach ..); decide) | dsimp only)

theorem execSessionClose_reach (output : Fin 4) (s : State) : ∃ e, execSessionClose output s = .next { s with dev := e } ∧ Reach (Part.regs ||| Part.bil ||| Part.bst) s.dev e := by
  refine ⟨_, rfl, ?_⟩
  try dsimp only
  with_reducible repeat' (first | assumption | exact .refl _ | (apply Reach.via (Dev.sessClose_reach ..); decide) | dsimp only)

theorem execSessionRecordSigned_reach (output : Fin 4) (s : State) : ∃ e, execSessionRecordSigned output s = .next { s with dev := e } ∧ Reach (Part.regs ||| Part.fl ||| Part.bil ||| Part.bst) s.dev e := by
  refine ⟨_, rfl, ?_⟩
  try dsimp only
  with_reducible repeat' (first | assumption | exact .refl _ | (apply Reach.via (Dev.recordSigned_reach ..); decide) | dsimp only)

theorem execBilRecack_reach (value : Nat) (s : State) : ∃ e, execBilRecack value s = .next { s with dev := e } ∧ Reach (Part.regs ||| Part.bil ||| Part.bst) s.dev e := by
  refine ⟨_, rfl, ?_⟩
  try dsimp only
  with_reducible repeat' (first | assumption | exact .refl _ | (apply Reach.via (Dev.recAck_reach ..); decide) | dsimp only)

theorem execBilLogack_reach (value : Nat) (s : State) : ∃ e, execBilLogack value s = .next { s with dev := e } ∧ Reach (Part.regs ||| Part.bil ||| Part.bst) s.dev e := by
  refine ⟨_, rfl, ?_⟩
  try dsimp only
  with_reducible repeat' (first | assumption | exact .refl _ | (apply Reach.via (Dev.logAck_reach ..); decide) | dsimp only)

theorem execRecReqBegin_reach (xfer number : Nat) (s : State) : ∃ e, execRecReqBegin xfer number s = .next { s with dev := e } ∧ Reach (Part.fl) s.dev e := by
  refine ⟨_, rfl, ?_⟩
  try dsimp only
  with_reducible repeat' (first | assumption | exact .refl _ | (apply Reach.via (Dev.recReq_reach ..); decide) | (apply Reach.via (Dev.takeCell_reach ..); decide) | split | dsimp only)

theorem execTheftWatchBlock_reach (samples : List (List Int)) (s : State) : ∃ e, execTheftWatchBlock samples s = .next { s with dev := e } ∧ Reach (Part.regs ||| Part.tm ||| Part.tw) s.dev e := by
  refine ⟨_, rfl, ?_⟩
  try dsimp only
  with_reducible repeat' (first | assumption | exact .refl _ | (apply Reach.via (Dev.theftBlock_reach ..); decide) | dsimp only)

end Sys2Proof.Machine
end

