-- ==== Sys2Proof/Laws/RunsFieldNet.lean ====
section
/-! SUPPORT. What each command of Machine/FieldNet.lean can do: it answers a next state, and changes only the parts named. -/

set_option linter.tactic.unusedName false
set_option linter.unusedTactic false
set_option linter.unusedSimpArgs false
set_option linter.unreachableTactic false
set_option maxHeartbeats 800000
set_option linter.unusedVariables false

namespace Sys2Proof.Machine

theorem execPtpMessage_reach (port : Fin 2) (rx : Int) (m : PtpMsg) (s : State) : ∃ e, execPtpMessage port rx m s = .next { s with dev := e } ∧ Reach (Part.regs ||| Part.fl ||| Part.tm ||| Part.net) s.dev e := by
  refine ⟨_, rfl, ?_⟩
  try dsimp only
  with_reducible repeat' (first | assumption | exact .refl _ | (apply Reach.via (Dev.ptpMessage_reach ..); decide) | (apply Reach.via (Dev.rxFree_reach ..); decide) | (apply Reach.ite <;> intro) | split | dsimp only)

theorem execPdelayReqSend_reach (port : Fin 2) (s : State) : ∃ e, execPdelayReqSend port s = .next { s with dev := e } ∧ Reach (Part.tm ||| Part.net) s.dev e := by
  refine ⟨_, rfl, ?_⟩
  try dsimp only
  with_reducible repeat' (first | assumption | exact .refl _ | (apply Reach.via (Dev.pdelayReq_reach ..); decide) | (apply Reach.ite <;> intro) | split | dsimp only)

theorem execDemandRecordTransmit_reach (s : State) : ∃ e, execDemandRecordTransmit s = .next { s with dev := e } ∧ Reach (Part.tm ||| Part.shr ||| Part.net) s.dev e := by
  refine ⟨_, rfl, ?_⟩
  try dsimp only
  with_reducible repeat' (first | assumption | exact .refl _ | (apply Reach.via (Dev.shrTransmit_reach ..); decide) | (apply Reach.ite <;> intro) | split | dsimp only)

theorem execDemandRecord_reach (payload : List Byte) (s : State) : ∃ e, execDemandRecord payload s = .next { s with dev := e } ∧ Reach (Part.regs ||| Part.fl ||| Part.shr ||| Part.net) s.dev e := by
  refine ⟨_, rfl, ?_⟩
  try dsimp only
  with_reducible repeat' (first | assumption | exact .refl _ | (apply Reach.via (Dev.recReceive_reach ..); decide) | (apply Reach.via (Dev.rxFree_reach ..); decide) | (apply Reach.ite <;> intro) | split | dsimp only)

theorem execShareCutoff_reach (s : State) : ∃ e, execShareCutoff s = .next { s with dev := e } ∧ Reach (Part.regs ||| Part.hmem ||| Part.inj ||| Part.jr ||| Part.rings ||| Part.fl ||| Part.tm ||| Part.shr ||| Part.rt ||| Part.net) s.dev e := by
  refine ⟨_, rfl, ?_⟩
  try dsimp only
  with_reducible repeat' (first | assumption | exact .refl _ | (apply Reach.via (Dev.shrCutoff_reach ..); decide) | (apply Reach.via (Dev.txLate_reach ..); decide) | (apply Reach.ite <;> intro) | split | dsimp only)

theorem execFnetGclctlApply_reach (port : Fin 2) (nent : Nat) (s : State) : ∃ e, execFnetGclctlApply port nent s = .next { s with dev := e } ∧ Reach (Part.regs) s.dev e := by
  refine ⟨_, rfl, ?_⟩
  try dsimp only
  with_reducible repeat' (first | assumption | exact .refl _ | (apply Reach.wr'; decide) | (apply Reach.ite <;> intro) | split | dsimp only)

end Sys2Proof.Machine
end

