-- ==== Sys2Proof/Laws/RunsProcessBus.lean ====
section
/-! SUPPORT. What each command of Machine/ProcessBus.lean can do: it answers a next state, and changes only the parts named. -/

set_option linter.tactic.unusedName false
set_option linter.unusedTactic false
set_option linter.unusedSimpArgs false
set_option linter.unreachableTactic false
set_option maxHeartbeats 800000
set_option linter.unusedVariables false

namespace Sys2Proof.Machine

theorem execSvFrame_reach (m : SvMsg) (s : State) : ∃ e, execSvFrame m s = .next { s with dev := e } ∧ Reach (Part.regs ||| Part.hmem ||| Part.inj ||| Part.jr ||| Part.rings ||| Part.fl ||| Part.st ||| Part.shr ||| Part.net ||| Part.svg) s.dev e := by
  refine ⟨_, rfl, ?_⟩
  try dsimp only
  with_reducible repeat' (first | assumption | exact .refl _ | (apply Reach.via (Dev.rxFree_reach ..); decide) | (apply Reach.via (Dev.svFrame_reach ..); decide) | (apply Reach.ite <;> intro) | split | dsimp only)

theorem execSvSampleDeadline_reach (sub : Fin 8) (s : State) : ∃ e, execSvSampleDeadline sub s = .next { s with dev := e } ∧ Reach (Part.regs ||| Part.hmem ||| Part.inj ||| Part.jr ||| Part.rings ||| Part.fl ||| Part.tm ||| Part.st ||| Part.shr ||| Part.svg) s.dev e := by
  refine ⟨_, rfl, ?_⟩
  try dsimp only
  with_reducible repeat' (first | assumption | exact .refl _ | (apply Reach.via (Dev.svMiss_reach ..); decide) | (apply Reach.ite <;> intro) | split | dsimp only)

theorem execSvSubscriptionEnable_reach (sub : Fin 8) (s : State) : ∃ e, execSvSubscriptionEnable sub s = .next { s with dev := e } ∧ Reach (Part.regs ||| Part.fl ||| Part.shr ||| Part.svg) s.dev e := by
  refine ⟨_, rfl, ?_⟩
  try dsimp only
  with_reducible repeat' (first | assumption | exact .refl _ | (apply Reach.via (Dev.subEnable_reach ..); decide) | (apply Reach.ite <;> intro) | split | dsimp only)

theorem execSvSubscriptionDisable_reach (sub : Fin 8) (s : State) : ∃ e, execSvSubscriptionDisable sub s = .next { s with dev := e } ∧ Reach (Part.regs ||| Part.fl ||| Part.shr ||| Part.svg) s.dev e := by
  refine ⟨_, rfl, ?_⟩
  try dsimp only
  with_reducible repeat' (first | assumption | exact .refl _ | (apply Reach.wr'; decide) | (apply Reach.via (Dev.subOff_reach ..); decide) | (apply Reach.ite <;> intro) | split | dsimp only)

theorem execSvSubscriptionReconfigure_reach (sub : Fin 8) (s : State) : ∃ e, execSvSubscriptionReconfigure sub s = .next { s with dev := e } ∧ Reach (Part.regs ||| Part.fl ||| Part.st ||| Part.shr ||| Part.svg) s.dev e := by
  refine ⟨_, rfl, ?_⟩
  try dsimp only
  with_reducible repeat' (first | assumption | exact .refl _ | (apply Reach.via (Dev.subReconfigure_reach ..); decide) | (apply Reach.ite <;> intro) | split | dsimp only)

theorem execSvPublication_reach (pub : Fin 2) (raws : List (List Int)) (len : Nat) (s : State) : ∃ e, execSvPublication pub raws len s = .next { s with dev := e } ∧ Reach (Part.regs ||| Part.net ||| Part.svg) s.dev e := by
  refine ⟨_, rfl, ?_⟩
  try dsimp only
  with_reducible repeat' (first | assumption | exact .refl _ | (apply Reach.via (Dev.svPublish_reach ..); decide) | (apply Reach.ite <;> intro) | split | dsimp only)

theorem execGooseFrame_reach (m : GooseMsg) (s : State) : ∃ e, execGooseFrame m s = .next { s with dev := e } ∧ Reach (Part.regs ||| Part.hmem ||| Part.inj ||| Part.jr ||| Part.rings ||| Part.pw ||| Part.fl ||| Part.st ||| Part.pwm ||| Part.out ||| Part.cap ||| Part.net ||| Part.svg) s.dev e := by
  refine ⟨_, rfl, ?_⟩
  try dsimp only
  with_reducible repeat' (first | assumption | exact .refl _ | (apply Reach.via (Dev.gooseFrame_reach ..); decide) | (apply Reach.via (Dev.rxFree_reach ..); decide) | (apply Reach.ite <;> intro) | split | dsimp only)

theorem execGooseTtlExpiry_reach (sub : Fin 32) (s : State) : ∃ e, execGooseTtlExpiry sub s = .next { s with dev := e } ∧ Reach (Part.regs ||| Part.pw ||| Part.fl ||| Part.st ||| Part.pwm ||| Part.out ||| Part.cap) s.dev e := by
  refine ⟨_, rfl, ?_⟩
  try dsimp only
  with_reducible repeat' (first | assumption | exact .refl _ | (apply Reach.via (Dev.gooseStale_reach ..); decide) | (apply Reach.ite <;> intro) | split | dsimp only)

theorem execGooseSubscriptionEnable_reach (sub : Fin 32) (s : State) : ∃ e, execGooseSubscriptionEnable sub s = .next { s with dev := e } ∧ Reach (Part.regs ||| Part.svg) s.dev e := by
  refine ⟨_, rfl, ?_⟩
  try dsimp only
  with_reducible repeat' (first | assumption | exact .refl _ | (apply Reach.via (Dev.gooseEnable_reach ..); decide) | (apply Reach.ite <;> intro) | split | dsimp only)

theorem execGooseSubscriptionDisable_reach (sub : Fin 32) (s : State) : ∃ e, execGooseSubscriptionDisable sub s = .next { s with dev := e } ∧ Reach (Part.regs ||| Part.pw ||| Part.fl ||| Part.st ||| Part.pwm ||| Part.out ||| Part.cap ||| Part.svg) s.dev e := by
  refine ⟨_, rfl, ?_⟩
  try dsimp only
  with_reducible repeat' (first | assumption | exact .refl _ | (apply Reach.wr'; decide) | (apply Reach.via (Dev.gooseOff_reach ..); decide) | (apply Reach.ite <;> intro) | split | dsimp only)

end Sys2Proof.Machine
end

