-- ==== Sys2Proof/Laws/RunsTrip.lean ====
section
/-! SUPPORT. What each command of Machine/Trip.lean can do: it answers a next state, and changes only the parts named. -/

set_option linter.tactic.unusedName false
set_option linter.unusedTactic false
set_option linter.unusedSimpArgs false
set_option linter.unreachableTactic false
set_option maxHeartbeats 800000
set_option linter.unusedVariables false

namespace Sys2Proof.Machine

theorem execTripInputFall_reach (input : Fin 96) (s : State) : ∃ e, execTripInputFall input s = .next { s with dev := e } ∧ Reach (Part.regs ||| Part.pw ||| Part.fl ||| Part.pwm ||| Part.out ||| Part.cap) s.dev e := by
  refine ⟨_, rfl, ?_⟩
  try dsimp only
  with_reducible repeat' (first | assumption | exact .refl _ | (extract_lets +onlyGivenNames x; clear_value x) | (apply Reach.via (Dev.setTripIn_reach ..); decide) | (apply Reach.via (Dev.tripFall_reach ..); decide) | (apply Reach.ite <;> intro) | simp -zeta -iota only [↓Reach.mk_eq] | split | dsimp only | (apply ReachMk.intro <;> first | exact .inr (by decide) | rfl | exact .inl rfl | skip))

theorem execTripQualification_reach (input : Fin 96) (s : State) : ∃ e, execTripQualification input s = .next { s with dev := e } ∧ Reach (Part.regs ||| Part.pw ||| Part.fl ||| Part.tm ||| Part.pwm ||| Part.out ||| Part.cap) s.dev e := by
  refine ⟨_, rfl, ?_⟩
  try dsimp only
  with_reducible repeat' (first | assumption | exact .refl _ | (apply Reach.via (Dev.tripFiltEnd_reach ..); decide) | (apply Reach.ite <;> intro) | split | dsimp only)

theorem execTripInputRise_reach (input : Fin 96) (s : State) : ∃ e, execTripInputRise input s = .next { s with dev := e } ∧ Reach (Part.regs ||| Part.fl ||| Part.pwm) s.dev e := by
  refine ⟨_, rfl, ?_⟩
  try dsimp only
  with_reducible repeat' (first | assumption | exact .refl _ | (extract_lets +onlyGivenNames x; clear_value x) | (apply Reach.via (Dev.setTripIn_reach ..); decide) | (apply Reach.via (Dev.tripRise_reach ..); decide) | (apply Reach.ite <;> intro) | simp -zeta -iota only [↓Reach.mk_eq] | split | dsimp only | (apply ReachMk.intro <;> first | exact .inr (by decide) | rfl | exact .inl rfl | skip))

theorem execTrpClr_reach (word : Fin 3) (value : Nat) (s : State) : ∃ e, execTrpClr word value s = .next { s with dev := e } ∧ Reach (Part.regs ||| Part.fl ||| Part.pwm) s.dev e := by
  refine ⟨_, rfl, ?_⟩
  try dsimp only
  with_reducible repeat' (first | assumption | exact .refl _ | (apply Reach.via (Dev.trpClr_reach ..); decide) | (apply Reach.ite <;> intro) | split | dsimp only)

theorem execTrpSwclr_reach (value : Nat) (s : State) : ∃ e, execTrpSwclr value s = .next { s with dev := e } ∧ Reach (Part.regs ||| Part.fl ||| Part.pwm) s.dev e := by
  refine ⟨_, rfl, ?_⟩
  try dsimp only
  with_reducible repeat' (first | assumption | exact .refl _ | (apply Reach.via (Dev.trpSwClr_reach ..); decide) | (apply Reach.ite <;> intro) | split | dsimp only)

theorem execTriggerCompare_reach (group : Fin 20) (cmp : Fin 4) (s : State) : ∃ e, execTriggerCompare group cmp s = .next { s with dev := e } ∧ Reach (Part.regs ||| Part.fl ||| Part.tm ||| Part.pwm ||| Part.cap ||| Part.fba) s.dev e := by
  refine ⟨_, rfl, ?_⟩
  try dsimp only
  with_reducible repeat' (first | assumption | exact .refl _ | (apply Reach.via (Dev.trigFire_reach ..); decide) | dsimp only)

end Sys2Proof.Machine
end

