-- ==== Sys2Proof/Laws/RunsOutputs.lean ====
section
/-! SUPPORT. What each command of Machine/Outputs.lean can do: it answers a next state, and changes only the parts named. -/

set_option linter.tactic.unusedName false
set_option linter.unusedTactic false
set_option linter.unusedSimpArgs false
set_option linter.unreachableTactic false
set_option maxHeartbeats 800000
set_option linter.unusedVariables false

namespace Sys2Proof.Machine

theorem execOutLock_reach (output : Fin 4) (s : State) : ∃ e, execOutLock output s = .next { s with dev := e } ∧ Reach (Part.regs ||| Part.fl ||| Part.pwm ||| Part.out ||| Part.ctr ||| Part.bil ||| Part.bst) s.dev e := by
  refine ⟨_, rfl, ?_⟩
  try dsimp only
  with_reducible repeat' (first | assumption | exact .refl _ | (apply Reach.via (Dev.outCmd_reach ..); decide) | (apply Reach.ite <;> intro) | split | dsimp only)

theorem execOutUnlock_reach (output : Fin 4) (s : State) : ∃ e, execOutUnlock output s = .next { s with dev := e } ∧ Reach (Part.regs ||| Part.fl ||| Part.pwm ||| Part.out ||| Part.ctr ||| Part.bil ||| Part.bst) s.dev e := by
  refine ⟨_, rfl, ?_⟩
  try dsimp only
  with_reducible repeat' (first | assumption | exact .refl _ | (apply Reach.via (Dev.outCmd_reach ..); decide) | (apply Reach.ite <;> intro) | split | dsimp only)

theorem execOutStart_reach (output : Fin 4) (s : State) : ∃ e, execOutStart output s = .next { s with dev := e } ∧ Reach (Part.regs ||| Part.fl ||| Part.pwm ||| Part.out ||| Part.ctr ||| Part.bil ||| Part.bst) s.dev e := by
  refine ⟨_, rfl, ?_⟩
  try dsimp only
  with_reducible repeat' (first | assumption | exact .refl _ | (apply Reach.via (Dev.outCmd_reach ..); decide) | (apply Reach.ite <;> intro) | split | dsimp only)

theorem execOutStop_reach (output : Fin 4) (s : State) : ∃ e, execOutStop output s = .next { s with dev := e } ∧ Reach (Part.regs ||| Part.fl ||| Part.pwm ||| Part.out ||| Part.ctr ||| Part.bil ||| Part.bst) s.dev e := by
  refine ⟨_, rfl, ?_⟩
  try dsimp only
  with_reducible repeat' (first | assumption | exact .refl _ | (apply Reach.via (Dev.outCmd_reach ..); decide) | (apply Reach.ite <;> intro) | split | dsimp only)

theorem execOutClr_reach (output : Fin 4) (s : State) : ∃ e, execOutClr output s = .next { s with dev := e } ∧ Reach (Part.regs ||| Part.fl ||| Part.pwm ||| Part.out ||| Part.ctr ||| Part.bil ||| Part.bst) s.dev e := by
  refine ⟨_, rfl, ?_⟩
  try dsimp only
  with_reducible repeat' (first | assumption | exact .refl _ | (apply Reach.via (Dev.outCmd_reach ..); decide) | (apply Reach.ite <;> intro) | split | dsimp only)

theorem execTlockExpiry_reach (output : Fin 4) (s : State) : ∃ e, execTlockExpiry output s = .next { s with dev := e } ∧ Reach (Part.regs ||| Part.fl ||| Part.pwm ||| Part.out ||| Part.cap ||| Part.ctr ||| Part.bil ||| Part.bst) s.dev e := by
  refine ⟨_, rfl, ?_⟩
  try dsimp only
  with_reducible repeat' (first | assumption | exact .refl _ | (apply Reach.via (Dev.tlockEnd_reach ..); decide) | (apply Reach.ite <;> intro) | split | dsimp only)

theorem execTinsExpiry_reach (output : Fin 4) (s : State) : ∃ e, execTinsExpiry output s = .next { s with dev := e } ∧ Reach (Part.regs ||| Part.fl ||| Part.out ||| Part.bil ||| Part.bst) s.dev e := by
  refine ⟨_, rfl, ?_⟩
  try dsimp only
  with_reducible repeat' (first | assumption | exact .refl _ | (apply Reach.via (Dev.tinsEnd_reach ..); decide) | (apply Reach.ite <;> intro) | split | dsimp only)

theorem execTpreExpiry_reach (output : Fin 4) (s : State) : ∃ e, execTpreExpiry output s = .next { s with dev := e } ∧ Reach (Part.regs ||| Part.fl ||| Part.out ||| Part.bil ||| Part.bst) s.dev e := by
  refine ⟨_, rfl, ?_⟩
  try dsimp only
  with_reducible repeat' (first | assumption | exact .refl _ | (apply Reach.via (Dev.tpreEnd_reach ..); decide) | (apply Reach.ite <;> intro) | split | dsimp only)

theorem execTrampExpiry_reach (output : Fin 4) (s : State) : ∃ e, execTrampExpiry output s = .next { s with dev := e } ∧ Reach (Part.regs ||| Part.fl ||| Part.pwm ||| Part.out ||| Part.cap ||| Part.ctr ||| Part.bil ||| Part.bst) s.dev e := by
  refine ⟨_, rfl, ?_⟩
  try dsimp only
  with_reducible repeat' (first | assumption | exact .refl _ | (apply Reach.via (Dev.trampEnd_reach ..); decide) | (apply Reach.ite <;> intro) | split | dsimp only)

theorem execTdisExpiry_reach (output : Fin 4) (s : State) : ∃ e, execTdisExpiry output s = .next { s with dev := e } ∧ Reach (Part.regs ||| Part.fl ||| Part.pwm ||| Part.out ||| Part.cap ||| Part.ctr ||| Part.bil ||| Part.bst) s.dev e := by
  refine ⟨_, rfl, ?_⟩
  try dsimp only
  with_reducible repeat' (first | assumption | exact .refl _ | (apply Reach.via (Dev.tdisEnd_reach ..); decide) | (apply Reach.ite <;> intro) | split | dsimp only)

theorem execOutSequenceRetry_reach (output : Fin 4) (s : State) : ∃ e, execOutSequenceRetry output s = .next { s with dev := e } ∧ Reach (Part.regs ||| Part.fl ||| Part.out ||| Part.ctr) s.dev e := by
  refine ⟨_, rfl, ?_⟩
  try dsimp only
  with_reducible repeat' (first | assumption | exact .refl _ | (apply Reach.via (Dev.outTry_reach ..); decide) | (apply Reach.ite <;> intro) | split | dsimp only)

theorem execConnectorChange_reach (output : Fin 4) (present : Bool) (s : State) : ∃ e, execConnectorChange output present s = .next { s with dev := e } ∧ Reach (Part.regs ||| Part.hmem ||| Part.jr ||| Part.rings) s.dev e := by
  refine ⟨_, rfl, ?_⟩
  try dsimp only
  with_reducible repeat' (first | assumption | exact .refl _ | (apply Dev.present_via; decide; rotate_left; intros; rotate_right) | (apply Reach.via (Dev.wrB_reach ..); decide) | (apply Reach.ite <;> intro) | split | dsimp only)

theorem execEnableLoopChange_reach (output : Fin 4) (closed : Bool) (s : State) : ∃ e, execEnableLoopChange output closed s = .next { s with dev := e } ∧ Reach (Part.regs) s.dev e := by
  refine ⟨_, rfl, ?_⟩
  try dsimp only
  with_reducible repeat' (first | assumption | exact .refl _ | (apply Reach.via (Dev.wrB_reach ..); decide) | (apply Reach.ite <;> intro) | split | dsimp only)

end Sys2Proof.Machine
end

