-- ==== Sys2Proof/Laws/RunsCable.lean ====
section
/-! SUPPORT. What each command of Machine/Cable.lean can do: it answers a next state, and changes only the parts named. -/

set_option linter.tactic.unusedName false
set_option linter.unusedTactic false
set_option linter.unusedSimpArgs false
set_option linter.unreachableTactic false
set_option maxHeartbeats 800000
set_option linter.unusedVariables false

namespace Sys2Proof.Machine

theorem execFlowWindow_reach (output : Fin 4) (count : Nat) (s : State) : ∃ e, execFlowWindow output count s = .next { s with dev := e } ∧ Reach (Part.regs ||| Part.fl ||| Part.tm ||| Part.cbl) s.dev e := by
  refine ⟨_, rfl, ?_⟩
  try dsimp only
  with_reducible repeat' (first | assumption | exact .refl _ | (apply Reach.via (Dev.advanceTo_reach ..); decide) | (apply Reach.via (Dev.flowWindow_reach ..); decide) | (apply Reach.ite <;> intro) | split | dsimp only)

theorem execFanStall_reach (output : Fin 4) (s : State) : ∃ e, execFanStall output s = .next { s with dev := e } ∧ Reach (Part.regs ||| Part.fl) s.dev e := by
  refine ⟨_, rfl, ?_⟩
  try dsimp only
  with_reducible repeat' (first | assumption | exact .refl _ | (apply Reach.via (Dev.fanStall_reach ..); decide) | (apply Reach.ite <;> intro) | split | dsimp only)

theorem execTachEdge_reach (output : Fin 4) (s : State) : ∃ e, execTachEdge output s = .next { s with dev := e } ∧ Reach (Part.regs ||| Part.cbl) s.dev e := by
  refine ⟨_, rfl, ?_⟩
  try dsimp only
  with_reducible repeat' (first | assumption | exact .refl _ | (apply Reach.via (Dev.tachEdge_reach ..); decide) | (apply Reach.ite <;> intro) | split | dsimp only)

end Sys2Proof.Machine
end

