-- ==== Sys2Proof/Laws/RunsCan.lean ====
section
/-! SUPPORT. What each command of Machine/Can.lean can do: it answers a next state, and changes only the parts named. -/

set_option linter.tactic.unusedName false
set_option linter.unusedTactic false
set_option linter.unusedSimpArgs false
set_option linter.unreachableTactic false
set_option maxHeartbeats 800000
set_option linter.unusedVariables false

namespace Sys2Proof.Machine

theorem execCanTxReq_reach (ctrl : Fin 4) (buf : Fin 3) (s : State) : ∃ e, execCanTxReq ctrl buf s = .next { s with dev := e } ∧ Reach (Part.regs) s.dev e := by
  refine ⟨_, rfl, ?_⟩
  try dsimp only
  with_reducible repeat' (first | assumption | exact .refl _ | (apply Reach.via (Dev.canReq_reach ..); decide) | (apply Dev.onCan_reach <;> intros) | dsimp only)

theorem execCanTxAbort_reach (ctrl : Fin 4) (buf : Fin 3) (s : State) : ∃ e, execCanTxAbort ctrl buf s = .next { s with dev := e } ∧ Reach (Part.regs ||| Part.hmem ||| Part.jr ||| Part.rings ||| Part.fl ||| Part.st ||| Part.can) s.dev e := by
  refine ⟨_, rfl, ?_⟩
  try dsimp only
  with_reducible repeat' (first | assumption | exact .refl _ | (apply Reach.via (Dev.canAbort_reach ..); decide) | (apply Dev.onCan_reach <;> intros) | dsimp only)

theorem execCanStartOfFrame_reach (ctrl : Fin 4) (s : State) : ∃ e, execCanStartOfFrame ctrl s = .next { s with dev := e } ∧ Reach (Part.regs ||| Part.can) s.dev e := by
  refine ⟨_, rfl, ?_⟩
  try dsimp only
  with_reducible repeat' (first | assumption | exact .refl _ | (apply Reach.via (Dev.canStart_reach ..); decide) | (apply Dev.onCan_reach <;> intros) | dsimp only)

theorem execCanTransmitComplete_reach (ctrl : Fin 4) (s : State) : ∃ e, execCanTransmitComplete ctrl s = .next { s with dev := e } ∧ Reach (Part.regs ||| Part.hmem ||| Part.free ||| Part.jr ||| Part.rings ||| Part.fl ||| Part.st ||| Part.cap ||| Part.can) s.dev e := by
  refine ⟨_, rfl, ?_⟩
  try dsimp only
  with_reducible repeat' (first | assumption | exact .refl _ | (apply Reach.via (Dev.canSent_reach ..); decide) | (apply Dev.onCan_reach <;> intros) | dsimp only)

theorem execCanArbitrationLost_reach (ctrl : Fin 4) (s : State) : ∃ e, execCanArbitrationLost ctrl s = .next { s with dev := e } ∧ Reach (Part.regs ||| Part.hmem ||| Part.jr ||| Part.rings ||| Part.fl ||| Part.st ||| Part.can) s.dev e := by
  refine ⟨_, rfl, ?_⟩
  try dsimp only
  with_reducible repeat' (first | assumption | exact .refl _ | (apply Reach.via (Dev.canLost_reach ..); decide) | (apply Dev.onCan_reach <;> intros) | dsimp only)

theorem execCanFrameError_reach (ctrl : Fin 4) (lec : Fin 7) (step : Fin 9) (s : State) : ∃ e, execCanFrameError ctrl lec step s = .next { s with dev := e } ∧ Reach (Part.regs ||| Part.hmem ||| Part.jr ||| Part.rings ||| Part.fl ||| Part.st ||| Part.can) s.dev e := by
  refine ⟨_, rfl, ?_⟩
  try dsimp only
  with_reducible repeat' (first | assumption | exact .refl _ | (apply Reach.via (Dev.canError_reach ..); decide) | (apply Dev.onCan_reach <;> intros) | dsimp only)

theorem execCanRecover_reach (ctrl : Fin 4) (s : State) : ∃ e, execCanRecover ctrl s = .next { s with dev := e } ∧ Reach (Part.can) s.dev e := by
  refine ⟨_, rfl, ?_⟩
  try dsimp only
  with_reducible repeat' (first | assumption | exact .refl _ | (apply Reach.via (Dev.canRecover_reach ..); decide) | (apply Dev.onCan_reach <;> intros) | dsimp only)

theorem execCanBusoffRecoveryComplete_reach (ctrl : Fin 4) (s : State) : ∃ e, execCanBusoffRecoveryComplete ctrl s = .next { s with dev := e } ∧ Reach (Part.regs ||| Part.hmem ||| Part.jr ||| Part.rings ||| Part.fl ||| Part.st ||| Part.can) s.dev e := by
  refine ⟨_, rfl, ?_⟩
  try dsimp only
  with_reducible repeat' (first | assumption | exact .refl _ | (apply Reach.via (Dev.canRecovered_reach ..); decide) | (apply Dev.onCan_reach <;> intros) | dsimp only)

theorem execCanFrameReceived_reach (ctrl : Fin 4) (words : List Nat) (s : State) : ∃ e, execCanFrameReceived ctrl words s = .next { s with dev := e } ∧ Reach (Part.regs ||| Part.hmem ||| Part.free ||| Part.jr ||| Part.rings ||| Part.fl ||| Part.cap ||| Part.can) s.dev e := by
  refine ⟨_, rfl, ?_⟩
  try dsimp only
  with_reducible repeat' (first | assumption | exact .refl _ | (apply Reach.via (Dev.canGood_reach ..); decide) | (apply Reach.via (Dev.canReceive_reach ..); decide) | (apply Dev.onCan_reach <;> intros) | (apply Reach.ite <;> intro) | split | dsimp only)

theorem execCanMailboxLock_reach (ctrl : Fin 4) (mb : Fin 16) (s : State) : ∃ e, execCanMailboxLock ctrl mb s = .next { s with dev := e } ∧ Reach (Part.regs ||| Part.lastRead ||| Part.can) s.dev e := by
  refine ⟨_, rfl, ?_⟩
  try dsimp only
  with_reducible repeat' (first | assumption | exact .refl _ | (apply Reach.via (Dev.mbRead_reach ..); decide) | (apply Dev.onCan_reach <;> intros) | dsimp only)

theorem execCanMailboxRelease_reach (ctrl : Fin 4) (mb : Fin 16) (s : State) : ∃ e, execCanMailboxRelease ctrl mb s = .next { s with dev := e } ∧ Reach (Part.regs ||| Part.lastRead ||| Part.can) s.dev e := by
  refine ⟨_, rfl, ?_⟩
  try dsimp only
  with_reducible repeat' (first | assumption | exact .refl _ | (apply Reach.via (Dev.mbRead_reach ..); decide) | (apply Dev.onCan_reach <;> intros) | split | dsimp only)

theorem execCanRxpop_reach (ctrl : Fin 2) (s : State) : ∃ e, execCanRxpop ctrl s = .next { s with dev := e } ∧ Reach (Part.regs ||| Part.hmem ||| Part.jr ||| Part.rings ||| Part.cap ||| Part.can) s.dev e := by
  refine ⟨_, rfl, ?_⟩
  try dsimp only
  with_reducible repeat' (first | assumption | exact .refl _ | (apply Reach.via (Dev.canPop_reach ..); decide) | (apply Dev.onCan_reach <;> intros) | dsimp only)

theorem execCanFilterWrite_reach (ctrl : Fin 4) (mb : Fin 16) (reg : Fin 3) (value : Nat) (s : State) : ∃ e, execCanFilterWrite ctrl mb reg value s = .next { s with dev := e } ∧ Reach (Part.regs ||| Part.can) s.dev e := by
  refine ⟨_, rfl, ?_⟩
  try dsimp only
  with_reducible repeat' (first | assumption | exact .refl _ | (apply Reach.via (Dev.mbFilter_reach ..); decide) | (apply Dev.onCan_reach <;> intros) | dsimp only)

end Sys2Proof.Machine
end

