-- ==== Sys2Proof/Laws/RunsHostPlat.lean ====
section
/-! SUPPORT. What each command of Machine/HostPlat.lean can do: it answers a next state, and changes only the parts named. -/

set_option linter.tactic.unusedName false
set_option linter.unusedTactic false
set_option linter.unusedSimpArgs false
set_option linter.unreachableTactic false
set_option maxHeartbeats 800000
set_option linter.unusedVariables false

namespace Sys2Proof.Machine

theorem execEthLinkChange_reach (port : Fin 4) (up supported : Bool) (s : State) : ∃ e, execEthLinkChange port up supported s = .next { s with dev := e } ∧ Reach (Part.regs ||| Part.hmem ||| Part.jr ||| Part.rings ||| Part.fl) s.dev e := by
  refine ⟨_, rfl, ?_⟩
  try dsimp only
  with_reducible repeat' (first | assumption | exact .refl _ | (apply Reach.via (Dev.fieldLink_reach ..); decide) | (apply Reach.via (Dev.hostLink_reach ..); decide) | (apply Reach.ite <;> intro) | split | dsimp only)

theorem execEthFrameReceive_reach (port : Fin 4) (frame : List Byte) (fcsOk : Bool) (s : State) : ∃ e, execEthFrameReceive port frame fcsOk s = .next { s with dev := e } ∧ Reach (Part.regs ||| Part.hmem ||| Part.jr ||| Part.rings ||| Part.fl ||| Part.cap ||| Part.net) s.dev e := by
  refine ⟨_, rfl, ?_⟩
  try dsimp only
  with_reducible repeat' (first | assumption | exact .refl _ | (apply Reach.via (Dev.fieldFrame_reach ..); decide) | (apply Reach.via (Dev.hostFrame_reach ..); decide) | (apply Reach.ite <;> intro) | split | dsimp only)

theorem execEthTransmitStart_reach (port : Fin 4) (s : State) : ∃ e, execEthTransmitStart port s = .next { s with dev := e } ∧ Reach (Part.regs ||| Part.hmem ||| Part.free ||| Part.jr ||| Part.rings ||| Part.net ||| Part.hp) s.dev e := by
  refine ⟨_, rfl, ?_⟩
  try dsimp only
  with_reducible repeat' (first | assumption | exact .refl _ | (apply Reach.via (Dev.fieldTxStart_reach ..); decide) | (apply Reach.via (Dev.hostTxStart_reach ..); decide) | (apply Reach.ite <;> intro) | split | dsimp only)

theorem execHrngTailWrite_reach (ring : Fin 32) (index : Nat) (s : State) : ∃ e, execHrngTailWrite ring index s = .next { s with dev := e } ∧ Reach (Part.regs ||| Part.hmem ||| Part.jr ||| Part.rings ||| Part.fl ||| Part.st ||| Part.cap ||| Part.can ||| Part.hp) s.dev e := by
  refine ⟨_, rfl, ?_⟩
  try dsimp only
  with_reducible repeat' (first | assumption | exact .refl _ | (apply Reach.via (Dev.ringTail_reach ..); decide) | (apply Reach.ite <;> intro) | split | dsimp only)

theorem execRingCoalTimeout_reach (ring : Fin 32) (s : State) : ∃ e, execRingCoalTimeout ring s = .next { s with dev := e } ∧ Reach (Part.regs ||| Part.hmem ||| Part.jr ||| Part.rings) s.dev e := by
  refine ⟨_, rfl, ?_⟩
  try dsimp only
  with_reducible repeat' (first | assumption | exact .refl _ | (apply Reach.via (Dev.ringCoal_reach ..); decide) | (apply Reach.ite <;> intro) | split | dsimp only)

theorem execHsysImgok_reach (value : Nat) (s : State) : ∃ e, execHsysImgok value s = .next { s with dev := e } ∧ Reach (Part.regs ||| Part.hmem ||| Part.jr ||| Part.rings ||| Part.pw ||| Part.fl ||| Part.st ||| Part.pwm ||| Part.out ||| Part.cap ||| Part.hp) s.dev e := by
  refine ⟨_, rfl, ?_⟩
  try dsimp only
  with_reducible repeat' (first | assumption | exact .refl _ | (apply Reach.via (Dev.imgOk_reach ..); decide) | (apply Reach.ite <;> intro) | split | dsimp only)

theorem execHevtClaimRead_reach (core : Fin 4) (s : State) : ∃ e, execHevtClaimRead core s = .next { s with dev := e } ∧ Reach (Part.regs ||| Part.lastRead ||| Part.hp) s.dev e := by
  refine ⟨_, rfl, ?_⟩
  try dsimp only
  with_reducible repeat' (first | assumption | exact .refl _ | (apply Reach.via (Dev.claimRead_reach ..); decide) | (apply Reach.ite <;> intro) | split | dsimp only)

theorem execHevtClaimWrite_reach (source : Nat) (s : State) : ∃ e, execHevtClaimWrite source s = .next { s with dev := e } ∧ Reach (Part.hp) s.dev e := by
  refine ⟨_, rfl, ?_⟩
  try dsimp only
  with_reducible repeat' (first | assumption | exact .refl _ | (apply Reach.via (Dev.claimWrite_reach ..); decide) | (apply Reach.ite <;> intro) | split | dsimp only)

theorem execGpioEdge_reach (pin : Fin 32) (level : Bool) (s : State) : ∃ e, execGpioEdge pin level s = .next { s with dev := e } ∧ Reach (Part.regs ||| Part.hmem ||| Part.jr ||| Part.rings) s.dev e := by
  refine ⟨_, rfl, ?_⟩
  try dsimp only
  with_reducible repeat' (first | assumption | exact .refl _ | (apply Reach.via (Dev.gpioEdge_reach ..); decide) | (apply Reach.ite <;> intro) | split | dsimp only)

theorem execPeripheralTransfer_reach (inst : Fin 9) (bytes : List Byte) (err : Bool) (s : State) : ∃ e, execPeripheralTransfer inst bytes err s = .next { s with dev := e } ∧ Reach (Part.regs ||| Part.hmem ||| Part.jr ||| Part.rings ||| Part.cap ||| Part.hp) s.dev e := by
  refine ⟨_, rfl, ?_⟩
  try dsimp only
  with_reducible repeat' (first | assumption | exact .refl _ | (apply Reach.via (Dev.hperTransfer_reach ..); decide) | (apply Reach.ite <;> intro) | split | dsimp only)

end Sys2Proof.Machine
end

