-- ==== Sys2Proof/Laws/RunsStack.lean ====
section
/-! SUPPORT. What each command of Machine/Stack.lean can do: it answers a next state, and changes only the parts named. -/

set_option linter.tactic.unusedName false
set_option linter.unusedTactic false
set_option linter.unusedSimpArgs false
set_option linter.unreachableTactic false
set_option maxHeartbeats 800000
set_option linter.unusedVariables false

namespace Sys2Proof.Machine

theorem execStkCtlWake_reach (s : State) : ∃ e, execStkCtlWake s = .next { s with dev := e } ∧ Reach (Part.regs ||| Part.fl ||| Part.tm ||| Part.ce ||| Part.pwm ||| Part.out ||| Part.stk) s.dev e := by
  refine ⟨_, rfl, ?_⟩
  try dsimp only
  with_reducible repeat' (first | assumption | exact .refl _ | (apply Reach.via (Dev.stkWake_reach ..); decide) | (apply Dev.onF4_reach <;> intros) | dsimp only)

theorem execChainRewake_reach (s : State) : ∃ e, execChainRewake s = .next { s with dev := e } ∧ Reach (Part.regs ||| Part.fl ||| Part.tm ||| Part.ce ||| Part.pwm ||| Part.out ||| Part.stk) s.dev e := by
  refine ⟨_, rfl, ?_⟩
  try dsimp only
  with_reducible repeat' (first | assumption | exact .refl _ | (apply Reach.via (Dev.chainRewake_reach ..); decide) | (apply Dev.onF4_reach <;> intros) | dsimp only)

theorem execWakeComplete_reach (s : State) : ∃ e, execWakeComplete s = .next { s with dev := e } ∧ Reach (Part.regs ||| Part.fl ||| Part.ce ||| Part.pwm ||| Part.out ||| Part.stk) s.dev e := by
  refine ⟨_, rfl, ?_⟩
  try dsimp only
  with_reducible repeat' (first | assumption | exact .refl _ | (apply Reach.via (Dev.chainAwake_reach ..); decide) | (apply Dev.onF4_reach <;> intros) | dsimp only)

theorem execEnumComplete_reach (s : State) : ∃ e, execEnumComplete s = .next { s with dev := e } ∧ Reach (Part.regs ||| Part.fl ||| Part.ce ||| Part.pwm ||| Part.out ||| Part.stk) s.dev e := by
  refine ⟨_, rfl, ?_⟩
  try dsimp only
  with_reducible repeat' (first | assumption | exact .refl _ | (apply Reach.via (Dev.enumComplete_reach ..); decide) | (apply Dev.onF4_reach <;> intros) | dsimp only)

theorem execChainNop_reach (sat : Fin 32) (s : State) : ∃ e, execChainNop sat s = .next { s with dev := e } ∧ Reach (Part.out ||| Part.stk) s.dev e := by
  refine ⟨_, rfl, ?_⟩
  try dsimp only
  with_reducible repeat' (first | assumption | exact .refl _ | (apply Reach.via (Dev.chainNop_reach ..); decide) | (apply Dev.onF4_reach <;> intros) | dsimp only)

theorem execChainEnum_reach (fromB : Bool) (s : State) : ∃ e, execChainEnum fromB s = .next { s with dev := e } ∧ Reach (Part.out ||| Part.stk) s.dev e := by
  refine ⟨_, rfl, ?_⟩
  try dsimp only
  with_reducible repeat' (first | assumption | exact .refl _ | (apply Reach.via (Dev.chainEnum_reach ..); decide) | (apply Dev.onF4_reach <;> intros) | dsimp only)

theorem execChainEcho_reach (fromB : Bool) (sat : Fin 32) (s : State) : ∃ e, execChainEcho fromB sat s = .next { s with dev := e } ∧ Reach (Part.out ||| Part.stk) s.dev e := by
  refine ⟨_, rfl, ?_⟩
  try dsimp only
  with_reducible repeat' (first | assumption | exact .refl _ | (apply Reach.via (Dev.chainEcho_reach ..); decide) | (apply Dev.onF4_reach <;> intros) | dsimp only)

theorem execChainCfg_reach (sat : Fin 32) (s : State) : ∃ e, execChainCfg sat s = .next { s with dev := e } ∧ Reach (Part.out ||| Part.stk) s.dev e := by
  refine ⟨_, rfl, ?_⟩
  try dsimp only
  with_reducible repeat' (first | assumption | exact .refl _ | (apply Reach.via (Dev.chainCfg_reach ..); decide) | (apply Dev.onF4_reach <;> intros) | dsimp only)

theorem execChainSnap_reach (s : State) : ∃ e, execChainSnap s = .next { s with dev := e } ∧ Reach (Part.regs ||| Part.tm ||| Part.out ||| Part.stk) s.dev e := by
  refine ⟨_, rfl, ?_⟩
  try dsimp only
  with_reducible repeat' (first | assumption | exact .refl _ | (apply Reach.via (Dev.chainSnap_reach ..); decide) | (apply Dev.onF4_reach <;> intros) | dsimp only)

theorem execChainRead_reach (fromB : Bool) (s : State) : ∃ e, execChainRead fromB s = .next { s with dev := e } ∧ Reach (Part.tm ||| Part.out ||| Part.stk) s.dev e := by
  refine ⟨_, rfl, ?_⟩
  try dsimp only
  with_reducible repeat' (first | assumption | exact .refl _ | (apply Reach.via (Dev.chainRead_reach ..); decide) | (apply Dev.onF4_reach <;> intros) | dsimp only)

theorem execChainBal_reach (fromB : Bool) (s : State) : ∃ e, execChainBal fromB s = .next { s with dev := e } ∧ Reach (Part.out ||| Part.stk) s.dev e := by
  refine ⟨_, rfl, ?_⟩
  try dsimp only
  with_reducible repeat' (first | assumption | exact .refl _ | (apply Reach.via (Dev.chainBal_reach ..); decide) | (apply Dev.onF4_reach <;> intros) | dsimp only)

theorem execChainOwt_reach (s : State) : ∃ e, execChainOwt s = .next { s with dev := e } ∧ Reach (Part.regs ||| Part.fl ||| Part.stk) s.dev e := by
  refine ⟨_, rfl, ?_⟩
  try dsimp only
  with_reducible repeat' (first | assumption | exact .refl _ | (apply Reach.via (Dev.chainOwt_reach ..); decide) | (apply Dev.onF4_reach <;> intros) | dsimp only)

theorem execChainSleep_reach (s : State) : ∃ e, execChainSleep s = .next { s with dev := e } ∧ Reach (Part.stk) s.dev e := by
  refine ⟨_, rfl, ?_⟩
  try dsimp only
  with_reducible repeat' (first | assumption | exact .refl _ | (apply Reach.via (Dev.chainSleep_reach ..); decide) | (apply Dev.onF4_reach <;> intros) | dsimp only)

theorem execChainResponse_reach (fromB : Bool) (frame : List Byte) (rtt : Nat) (s : State) : ∃ e, execChainResponse fromB frame rtt s = .next { s with dev := e } ∧ Reach (Part.regs ||| Part.hmem ||| Part.inj ||| Part.jr ||| Part.rings ||| Part.fl ||| Part.ce ||| Part.pwm ||| Part.out ||| Part.stk) s.dev e := by
  refine ⟨_, rfl, ?_⟩
  try dsimp only
  with_reducible repeat' (first | assumption | exact .refl _ | (apply Reach.via (Dev.chainResponse_reach ..); decide) | (apply Dev.onF4_reach <;> intros) | dsimp only)

theorem execChainResponseMissed_reach (fromB : Bool) (s : State) : ∃ e, execChainResponseMissed fromB s = .next { s with dev := e } ∧ Reach (Part.regs ||| Part.fl ||| Part.ce ||| Part.pwm ||| Part.out ||| Part.stk) s.dev e := by
  refine ⟨_, rfl, ?_⟩
  try dsimp only
  with_reducible repeat' (first | assumption | exact .refl _ | (apply Reach.via (Dev.chainMissed_reach ..); decide) | (apply Dev.onF4_reach <;> intros) | dsimp only)

theorem execStkOwcfgStart_reach (owper owthr : Nat) (s : State) : ∃ e, execStkOwcfgStart owper owthr s = .next { s with dev := e } ∧ Reach (Part.regs ||| Part.stk) s.dev e := by
  refine ⟨_, rfl, ?_⟩
  try dsimp only
  with_reducible repeat' (first | assumption | exact .refl _ | (apply Reach.via (Dev.owStart_reach ..); decide) | (apply Reach.via (Dev.wrAll_reach ..); decide) | (apply Dev.onF4_reach <;> intros) | split | dsimp only)

theorem execOpenWirePeriod_reach (s : State) : ∃ e, execOpenWirePeriod s = .next { s with dev := e } ∧ Reach (Part.regs ||| Part.stk) s.dev e := by
  refine ⟨_, rfl, ?_⟩
  try dsimp only
  with_reducible repeat' (first | assumption | exact .refl _ | (apply Reach.via (Dev.owStart_reach ..); decide) | (apply Dev.onF4_reach <;> intros) | (apply Reach.ite <;> intro) | split | dsimp only)

theorem execBufferGo_reach (s : State) : ∃ e, execBufferGo s = .next { s with dev := e } ∧ Reach (Part.regs ||| Part.fl ||| Part.stk) s.dev e := by
  refine ⟨_, rfl, ?_⟩
  try dsimp only
  with_reducible repeat' (first | assumption | exact .refl _ | (apply Reach.via (Dev.bufGo_reach ..); decide) | (apply Dev.onF4_reach <;> intros) | dsimp only)

theorem execBufferStop_reach (s : State) : ∃ e, execBufferStop s = .next { s with dev := e } ∧ Reach (Part.regs ||| Part.fl ||| Part.ce ||| Part.pwm ||| Part.stk) s.dev e := by
  refine ⟨_, rfl, ?_⟩
  try dsimp only
  with_reducible repeat' (first | assumption | exact .refl _ | (apply Reach.via (Dev.bufCause_reach ..); decide) | (apply Dev.onF4_reach <;> intros) | (apply Reach.ite <;> intro) | split | dsimp only)

theorem execBufferTqExpiry_reach (s : State) : ∃ e, execBufferTqExpiry s = .next { s with dev := e } ∧ Reach (Part.regs ||| Part.fl ||| Part.pwm) s.dev e := by
  refine ⟨_, rfl, ?_⟩
  try dsimp only
  with_reducible repeat' (first | assumption | exact .refl _ | (apply Reach.via (Dev.bufHeld_reach ..); decide) | (apply Dev.onF4_reach <;> intros) | (apply Reach.ite <;> intro) | split | dsimp only)

end Sys2Proof.Machine
end

