-- ==== Sys2Proof/Laws/RunsStream.lean ====
section
/-! SUPPORT. What each command of Machine/Stream.lean can do: it answers a next state, and changes only the parts named. -/

set_option linter.tactic.unusedName false
set_option linter.unusedTactic false
set_option linter.unusedSimpArgs false
set_option linter.unreachableTactic false
set_option maxHeartbeats 800000
set_option linter.unusedVariables false

namespace Sys2Proof.Machine

theorem execImgCtrlBegin_reach (xfer length : Nat) (s : State) : ∃ e, execImgCtrlBegin xfer length s = .next { s with dev := e } ∧ Reach (Part.regs ||| Part.fl ||| Part.st ||| Part.fsec) s.dev e := by
  refine ⟨_, rfl, ?_⟩
  try dsimp only
  with_reducible repeat' (first | assumption | exact .refl _ | (apply Reach.via (Dev.imgBegin_reach ..); decide) | (apply Reach.ite <;> intro) | split | dsimp only)

theorem execImgData_reach (xfer offset : Nat) (bytes : List Byte) (s : State) : ∃ e, execImgData xfer offset bytes s = .next { s with dev := e } ∧ Reach (Part.regs ||| Part.fmem ||| Part.fl ||| Part.st) s.dev e := by
  refine ⟨_, rfl, ?_⟩
  try dsimp only
  with_reducible repeat' (first | assumption | exact .refl _ | (apply Reach.via (Dev.imgData_reach ..); decide) | (apply Reach.ite <;> intro) | split | dsimp only)

theorem execImgCtrlEnd_reach (xfer : Nat) (digest : List Byte) (s : State) : ∃ e, execImgCtrlEnd xfer digest s = .next { s with dev := e } ∧ Reach (Part.regs ||| Part.fmem ||| Part.hmem ||| Part.free ||| Part.inj ||| Part.jr ||| Part.rings ||| Part.fl ||| Part.st ||| Part.pwm ||| Part.ffuse ||| Part.hfuse) s.dev e := by
  refine ⟨_, rfl, ?_⟩
  try dsimp only
  with_reducible repeat' (first | assumption | exact .refl _ | (apply Reach.via (Dev.imgEnd_reach ..); decide) | (apply Reach.ite <;> intro) | split | dsimp only)

theorem execImgCtrlAbort_reach (xfer : Nat) (s : State) : ∃ e, execImgCtrlAbort xfer s = .next { s with dev := e } ∧ Reach (Part.regs ||| Part.fl ||| Part.st) s.dev e := by
  refine ⟨_, rfl, ?_⟩
  try dsimp only
  with_reducible repeat' (first | assumption | exact .refl _ | (apply Reach.via (Dev.imgCancel_reach ..); decide) | (apply Reach.ite <;> intro) | split | dsimp only)

theorem execStreamValidationComplete_reach (damaged : Bool) (s : State) : ∃ e, execStreamValidationComplete damaged s = .next { s with dev := e } ∧ Reach (Part.regs ||| Part.fl ||| Part.st) s.dev e := by
  refine ⟨_, rfl, ?_⟩
  try dsimp only
  with_reducible repeat' (first | assumption | exact .refl _ | (apply Reach.via (Dev.validated_reach ..); decide) | (apply Reach.ite <;> intro) | split | dsimp only)

theorem execStsPersist_reach (value : Nat) (s : State) : ∃ e, execStsPersist value s = .next { s with dev := e } ∧ Reach (Part.regs ||| Part.fl ||| Part.st) s.dev e := by
  refine ⟨_, rfl, ?_⟩
  try dsimp only
  with_reducible repeat' (first | assumption | exact .refl _ | (apply Reach.via (Dev.persistStart_reach ..); decide) | (apply Reach.ite <;> intro) | split | dsimp only)

theorem execPersistComplete_reach (readBack : Bool) (s : State) : ∃ e, execPersistComplete readBack s = .next { s with dev := e } ∧ Reach (Part.regs ||| Part.fl ||| Part.st) s.dev e := by
  refine ⟨_, rfl, ?_⟩
  try dsimp only
  with_reducible repeat' (first | assumption | exact .refl _ | (apply Reach.via (Dev.persistDone_reach ..); decide) | (apply Reach.ite <;> intro) | split | dsimp only)

end Sys2Proof.Machine
end

