-- ==== Sys2Proof/Laws/RunsVehicle.lean ====
section
/-! SUPPORT. What each command of Machine/Vehicle.lean can do: it answers a next state, and changes only the parts named. -/

set_option linter.tactic.unusedName false
set_option linter.unusedTactic false
set_option linter.unusedSimpArgs false
set_option linter.unreachableTactic false
set_option maxHeartbeats 800000
set_option linter.unusedVariables false

namespace Sys2Proof.Machine

theorem execT1sFrame_reach (port : Fin 4) (frame : List Byte) (fcsOk : Bool) (collisions : Nat) (s : State) : ∃ e, execT1sFrame port frame fcsOk collisions s = .next { s with dev := e } ∧ Reach (Part.regs ||| Part.hmem ||| Part.jr ||| Part.rings ||| Part.cap) s.dev e := by
  refine ⟨_, rfl, ?_⟩
  try dsimp only
  with_reducible repeat' (first | assumption | exact .refl _ | (apply Reach.via (Dev.t1sFrame_reach ..); decide) | (apply Reach.ite <;> intro) | split | dsimp only)

theorem execControlPilotPeriod_reach (port : Fin 4) (high low : Option Int) (dutyM : Nat) (s : State) : ∃ e, execControlPilotPeriod port high low dutyM s = .next { s with dev := e } ∧ Reach (Part.regs ||| Part.hmem ||| Part.inj ||| Part.jr ||| Part.rings ||| Part.fl ||| Part.st ||| Part.veh) s.dev e := by
  refine ⟨_, rfl, ?_⟩
  try dsimp only
  with_reducible repeat' (first | assumption | exact .refl _ | (apply Reach.via (Dev.pilotPeriod_reach ..); decide) | (apply Reach.ite <;> intro) | split | dsimp only)

theorem execProximityReading_reach (port : Fin 4) (res : Nat) (s : State) : ∃ e, execProximityReading port res s = .next { s with dev := e } ∧ Reach (Part.regs ||| Part.hmem ||| Part.jr ||| Part.rings ||| Part.veh) s.dev e := by
  refine ⟨_, rfl, ?_⟩
  try dsimp only
  with_reducible repeat' (first | assumption | exact .refl _ | (apply Reach.via (Dev.proximity_reach ..); decide) | (apply Reach.ite <;> intro) | split | dsimp only)

theorem execPlcaStatusChange_reach (port : Fin 4) (ok jabber : Bool) (s : State) : ∃ e, execPlcaStatusChange port ok jabber s = .next { s with dev := e } ∧ Reach (Part.regs ||| Part.hmem ||| Part.jr ||| Part.rings) s.dev e := by
  refine ⟨_, rfl, ?_⟩
  try dsimp only
  with_reducible repeat' (first | assumption | exact .refl _ | (apply Reach.via (Dev.plcaChange_reach ..); decide) | (apply Reach.ite <;> intro) | split | dsimp only)

end Sys2Proof.Machine
end

