-- ==== Sys2Proof/Laws/RunsDiag.lean ====
section
/-! SUPPORT. What each command of Machine/Diag.lean can do: it answers a next state, and changes only the parts named. -/

set_option linter.tactic.unusedName false
set_option linter.unusedTactic false
set_option linter.unusedSimpArgs false
set_option linter.unreachableTactic false
set_option maxHeartbeats 800000
set_option linter.unusedVariables false

namespace Sys2Proof.Machine

theorem execDramScrub_reach (errors : List (Nat × Bool)) (s : State) : ∃ e, execDramScrub errors s = .next { s with dev := e } ∧ Reach (Part.regs ||| Part.hmem ||| Part.inj ||| Part.jr ||| Part.rings ||| Part.fl ||| Part.ash) s.dev e := by
  refine ⟨_, rfl, ?_⟩
  try dsimp only
  with_reducible repeat' (first | assumption | exact .refl _ | (apply Reach.via (Dev.hostEcc_reach ..); decide) | (apply Reach.via (Dev.hostFatal_reach ..); decide) | (apply Dev.forAll_reach <;> intros) | (apply Reach.ite <;> intro) | split | dsimp only)

theorem execInjectionStart_reach (side : Side) (point : Nat) (inst : Nat) (s : State) : ∃ e, execInjectionStart side point inst s = .next { s with dev := e } ∧ Reach (Part.regs ||| Part.hmem ||| Part.free ||| Part.inj ||| Part.jr ||| Part.rings ||| Part.pw ||| Part.fl ||| Part.st ||| Part.pwm ||| Part.out ||| Part.cap ||| Part.met) s.dev e := by
  refine ⟨_, rfl, ?_⟩
  try dsimp only
  with_reducible repeat' (first | assumption | exact .refl _ | (apply Reach.via (Dev.injGo_reach ..); decide) | (apply Reach.ite <;> intro) | split | dsimp only)

theorem execInjectionStop_reach (side : Side) (s : State) : ∃ e, execInjectionStop side s = .next { s with dev := e } ∧ Reach (Part.regs ||| Part.hmem ||| Part.inj ||| Part.jr ||| Part.rings ||| Part.fl ||| Part.pwm) s.dev e := by
  refine ⟨_, rfl, ?_⟩
  try dsimp only
  with_reducible repeat' (first | assumption | exact .refl _ | (apply Reach.via (Dev.injEndAll_reach ..); decide) | (apply Reach.ite <;> intro) | split | dsimp only)

theorem execInjectionEnd_reach (point : Nat) (inst : Nat) (s : State) : ∃ e, execInjectionEnd point inst s = .next { s with dev := e } ∧ Reach (Part.regs ||| Part.hmem ||| Part.inj ||| Part.jr ||| Part.rings ||| Part.fl ||| Part.pwm) s.dev e := by
  refine ⟨_, rfl, ?_⟩
  try dsimp only
  with_reducible repeat' (first | assumption | exact .refl _ | (apply Reach.via (Dev.injEnd_reach ..); decide) | (apply Reach.via (Dev.tripSync_reach ..); decide) | split | dsimp only)

theorem execJournalAllowance_reach (s : State) : ∃ e, execJournalAllowance s = .next { s with dev := e } ∧ Reach (Part.regs ||| Part.hmem ||| Part.jr ||| Part.rings) s.dev e := by
  refine ⟨_, rfl, ?_⟩
  try dsimp only
  with_reducible repeat' (first | assumption | exact .refl _ | (apply Reach.via (Dev.jrnUnit_reach ..); decide) | (apply Reach.ite <;> intro) | split | dsimp only)

theorem execFloodEnd_reach (source : Fin 128) (s : State) : ∃ e, execFloodEnd source s = .next { s with dev := e } ∧ Reach (Part.regs ||| Part.hmem ||| Part.jr ||| Part.rings ||| Part.tm) s.dev e := by
  refine ⟨_, rfl, ?_⟩
  try dsimp only
  with_reducible repeat' (first | assumption | exact .refl _ | (apply Reach.via (Dev.floodEnd_reach ..); decide) | (apply Reach.ite <;> intro) | split | dsimp only)

theorem execFieldAshReady_reach (area : List Byte) (s : State) : ∃ e, execFieldAshReady area s = .next { s with dev := e } ∧ Reach (Part.regs ||| Part.fl ||| Part.ash) s.dev e := by
  refine ⟨_, rfl, ?_⟩
  try dsimp only
  with_reducible repeat' (first | assumption | exact .refl _ | (apply Reach.via (Dev.ashReady_reach ..); decide) | (apply Reach.ite <;> intro) | split | dsimp only)

theorem execAshReqBegin_reach (xfer : Nat) (s : State) : ∃ e, execAshReqBegin xfer s = .next { s with dev := e } ∧ Reach (Part.regs ||| Part.fl ||| Part.ash) s.dev e := by
  refine ⟨_, rfl, ?_⟩
  try dsimp only
  with_reducible repeat' (first | assumption | exact .refl _ | (apply Reach.via (Dev.ashBegin_reach ..); decide) | (apply Reach.ite <;> intro) | split | dsimp only)

theorem execFdiaAshctlClr_reach (s : State) : ∃ e, execFdiaAshctlClr s = .next { s with dev := e } ∧ Reach (Part.regs ||| Part.ash) s.dev e := by
  refine ⟨_, rfl, ?_⟩
  try dsimp only
  with_reducible repeat' (first | assumption | exact .refl _ | (apply Reach.via (Dev.ashClr_reach ..); decide) | (apply Reach.ite <;> intro) | split | dsimp only)

theorem execHdiaAshctlSnap_reach (s : State) : ∃ e, execHdiaAshctlSnap s = .next { s with dev := e } ∧ Reach (Part.hmem) s.dev e := by
  refine ⟨_, rfl, ?_⟩
  try dsimp only
  with_reducible repeat' (first | assumption | exact .refl _ | (apply Reach.via (Dev.ashSnap_reach ..); decide) | (apply Reach.ite <;> intro) | split | dsimp only)

theorem execHdiaAshctlExported_reach (s : State) : ∃ e, execHdiaAshctlExported s = .next { s with dev := e } ∧ Reach (Part.regs ||| Part.ash) s.dev e := by
  refine ⟨_, rfl, ?_⟩
  try dsimp only
  with_reducible repeat' (first | assumption | exact .refl _ | (extract_lets +onlyGivenNames x; clear_value x) | (apply Reach.via (Dev.ashShow_reach ..); decide) | (apply Reach.ite <;> intro) | simp -zeta -iota only [↓Reach.mk_eq] | split | dsimp only | (apply ReachMk.intro <;> first | exact .inr (by decide) | rfl | exact .inl rfl | skip))

theorem execAshGatherComplete_reach (endOff : Nat) (s : State) : ∃ e, execAshGatherComplete endOff s = .next { s with dev := e } ∧ Reach (Part.regs ||| Part.hmem ||| Part.jr ||| Part.rings ||| Part.ash) s.dev e := by
  refine ⟨_, rfl, ?_⟩
  try dsimp only
  with_reducible repeat' (first | assumption | exact .refl _ | (extract_lets +onlyGivenNames x; clear_value x) | (apply Reach.via (Dev.ashState_reach ..); decide) | (apply Reach.ite <;> intro) | simp -zeta -iota only [↓Reach.mk_eq] | split | dsimp only | (apply ReachMk.intro <;> first | exact .inr (by decide) | rfl | exact .inl rfl | skip))

theorem execHostEccError_reach (sram : Bool) (addr : Nat) (uncorr : Bool) (s : State) : ∃ e, execHostEccError sram addr uncorr s = .next { s with dev := e } ∧ Reach (Part.regs ||| Part.hmem ||| Part.busError ||| Part.inj ||| Part.jr ||| Part.rings ||| Part.fl ||| Part.ash) s.dev e := by
  refine ⟨_, rfl, ?_⟩
  try dsimp only
  with_reducible repeat' (first | assumption | exact .refl _ | (extract_lets +onlyGivenNames x; first | (refine Reach.have (x := x) ?_ (fun hx hxs => ?_); unfold x; clear x; rotate_left; clear_value x) | clear_value x) | (apply Reach.via (Dev.hostEcc_reach ..); decide) | (apply Reach.via (Dev.hostFatal_reach ..); decide) | (apply Reach.ite <;> intro) | simp -zeta -iota only [↓Reach.mk_eq] | split | dsimp only | (apply ReachMk.intro <;> first | exact .inr (by decide) | rfl | exact .inl rfl | skip))

theorem execFmpWindowEccError_reach (addr : Nat) (s : State) : ∃ e, execFmpWindowEccError addr s = .next { s with dev := e } ∧ Reach (Part.regs ||| Part.fl) s.dev e := by
  refine ⟨_, rfl, ?_⟩
  try dsimp only
  with_reducible repeat' (first | assumption | exact .refl _ | (apply Reach.via (Dev.bump_reach ..); decide) | (apply Reach.via (Dev.raise_reach ..); decide) | (apply Reach.ite <;> intro) | split | dsimp only)

end Sys2Proof.Machine
end

