-- ==== Sys2Proof/Machine/Pads.lean ====
section
/-! DEFINITION. Levels of the pads that the block drives, as functions of its state (R110, R175, R205, R211, R276, R441, R442). -/

namespace Sys2Proof.Machine

/-- A function code of FMUXk in a stream: 0 where no PADFN record names the pad. -/
def StreamData.padFn (x : StreamData) (k : Nat) : Nat := ((x.padFns.find? (fun p => p.group == k)).map (·.fn)).getD 0

/-- FMUXk: none while it is an input. In the cycle of S of a swap that changes its function it is driven low (R442). -/
def Dev.fmux (d : Dev) (k : Nat) : Option Bool :=
  if d.streamActive = false ∨ d.domOn .f4 = false then none
  else
    let fn := d.act.padFn k
    if d.ce.swapTick && decide (d.tm.q = d.pwm.lastS) && decide (d.standby.padFn k ≠ fn) then some false
    else match fn with
      | 0 => none
      | 0x10 => some (!([0, 1, 2].any (fun i => decide (d.rd (R.TRP_LEGSAFE.LEG i) ≠ 0)) || d.on R.TRP_SWSTAT.DEV ||
          decide (d.rd R.TRP_SWSTAT.OUT ≠ 0) || decide (d.rd R.TRP_SWSTAT.GRP ≠ 0)))
      | 0x11 => some d.pw.engaged
      | n + 1 => some (d.domOn .f3 && decide (d.stcNs < numAt d.pwm.trgOut n))

/-- PWM_A and PWM_B of a leg (R175 to R183). -/
def Dev.pwmPads (d : Dev) (n : Nat) : Bool × Bool := if d.domOn .f3 then (d.leg n).levels (64 * d.tm.q) else (false, false)

/-- CTC_OUTi (R205). -/
def Dev.ctcOut (d : Dev) (i : Nat) : Bool := d.domOn .f4 && d.coilOn i

/-- PPS_OUT (R110). -/
def Dev.ppsOutPad (d : Dev) : Bool := d.domOn .f1 && d.tm.ppsOut

/-- IMD_INJn (R211). -/
def Dev.imdInjPad (d : Dev) (n : Nat) : Bool := d.domOn .f4 && d.imdInj n

end Sys2Proof.Machine
end

