-- ==== Sys2Proof/WellFormed.lean ====
section
/-! DEFINITION. Which commands are well-formed: every operand fits the field the spec gives it (Tables 3-5 and 3-6 of the flue, the
register tables, the frame formats). The meanings are total: they take an ill-formed command's operands cut to the field. -/

namespace Sys2Proof

/-- The number fits an n-bit field. -/
def fits (v n : Nat) : Bool := decide (v < 2 ^ n)

/-- The integer fits an n-bit two's complement field. -/
def fitsS (v : Int) (n : Nat) : Bool := decide (-(2 ^ (n - 1) : Int) ≤ v) && decide (v < (2 ^ (n - 1) : Int))

/-- Every operand of the command fits its field. -/
def Instr.wellFormed : Instr → Bool
  | .powerOnReset _ => true
  | .supplyMonitorReset _ => true
  | .batterySwitchover _ _ => true
  | .watchdogService _ value => fits value 32
  | .watchdogStage1 _ => true
  | .watchdogStage2Field => true
  | .watchdogStage2Host => true
  | .swFmp key => fits key 16
  | .swField key => fits key 16
  | .swWarm key => fits key 16
  | .swCold key => fits key 16
  | .lsFmp => true
  | .lsMet => true
  | .ceLockstepMismatch => true
  | .lsEnc => true
  | .thermalReset _ => true
  | .fmpRestartComplete => true
  | .bootComplete _ _ => true
  | .modeReq tag target => fits tag 16 && fits target 8
  | .reArm tag target _ => fits tag 16 && fits target 8
  | .fsysModereq _ => true
  | .fsysModereqRearm _ => true
  | .sampleInstant _ => true
  | .tHbExpiry => true
  | .tAutoExpiry => true
  | .quenchLimitExpiry => true
  | .blockDisableRequest _ => true
  | .blockEnableRequest _ => true
  | .drainComplete _ => true
  | .flueLinkUp => true
  | .flueRetrain _ _ fails => decide (fails ≤ 64)
  | .flueCellSlot _ => true
  | .flueCellReceive _ cell => decide (cell.length = 64)
  | .heartbeat hbSeq hostState => fits hbSeq 32 && fits hostState 8
  | .hbAck hbSeq modeWord stc => fits hbSeq 32 && fits modeWord 32 && fits stc 64
  | .tripDevice scope index msgid reason => fits scope 8 && fits index 8 && fits msgid 16 && fits reason 32
  | .tripOutput index msgid reason => fits index 8 && fits msgid 16 && fits reason 32
  | .tripLegGroup index msgid reason => fits index 8 && fits msgid 16 && fits reason 32
  | .quenchAll msgid reason => fits msgid 16 && fits reason 32
  | .quenchOut _ msgid reason => fits msgid 16 && fits reason 32
  | .paramWr payload => decide (payload.length ≤ 56)
  | .paramRd payload => decide (payload.length ≤ 56)
  | .targetSet payload => decide (payload.length ≤ 56)
  | .paramRsp tag status index count ty values => fits tag 16 && fits status 8 && fits index 8 && fits count 16 && fits ty 8 && decide (values.length ≤ 12) && values.all (fun v => fits v 32)
  | .timeSync stc fr state source utc err => fits stc 64 && fits fr 32 && fits state 8 && fits source 8 && fits utc 16 && fits err 32
  | .event _ kind count first last data => fits kind 8 && fits count 16 && fits first 64 && fits last 64 && decide (data.length ≤ 9) && data.all (fun v => fits v 32)
  | .telemetry block inst window ms values => fits block 8 && fits inst 8 && decide (window ≤ 2) && fits ms 32 && decide (1 ≤ values.length) && decide (values.length ≤ 12) && values.all (fun v => fits v 32)
  | .recordReady output kind number stc => decide (output < 4) && decide (kind ≤ 1) && fits number 32 && fits stc 64
  | .imgCtrlBegin xfer length => fits xfer 16 && fits length 32
  | .imgData xfer offset bytes => fits xfer 16 && fits offset 32 && decide (1 ≤ bytes.length) && decide (bytes.length ≤ 48)
  | .imgCtrlEnd xfer digest => fits xfer 16 && decide (digest.length = 48)
  | .imgCtrlAbort xfer => fits xfer 16
  | .imgStat xfer status => fits xfer 16 && fits status 8
  | .streamValidationComplete _ => true
  | .stsPersist value => fits value 32
  | .persistComplete _ => true
  | .stsSwapctlArm => true
  | .stsSwapctlCancel => true
  | .streamSwap => true
  | .ppsInEdge _ => true
  | .ppsMissingSecond => true
  | .ptpMessage _ _ _ => true
  | .pdelayReqSend _ => true
  | .ptpOffsetSample _ ofs => fitsS ofs 32
  | .ptpSampleTimeout _ => true
  | .servoSampleTimeout => true
  | .stcStep => true
  | .esterrLimit => true
  | .stcSecond => true
  | .ppsOutFall => true
  | .stcSetsecHiArm value => fits value 32
  | .stcNowLoRead => true
  | .stcMillisecond => true
  | .tenUsGrid => true
  | .measurementLatch _ => true
  | .writePhase => true
  | .ceMvm _ _ => true
  | .ceMva _ _ => true
  | .ceWb _ _ => true
  | .ceVadd _ _ => true
  | .ceVsub _ _ => true
  | .ceVlim _ _ => true
  | .ceMov _ _ => true
  | .ceLut _ _ => true
  | .ceSlew _ _ => true
  | .ceBq _ _ => true
  | .ceResid _ _ => true
  | .ceFerr _ _ => true
  | .ceIdle _ => true
  | .ceEnd _ => true
  | .cenDbgHalt _ => true
  | .cenDbgStep => true
  | .lawManWrite _ value => fits value 32
  | .encoderTransition _ _ _ => true
  | .encoderIndexEdge _ => true
  | .axisEnable _ => true
  | .axisDisable _ => true
  | .axisClr _ => true
  | .stoptimeExpiry _ => true
  | .dgrVarreq _ value => fits value 32
  | .dgrLostWrite _ value => fits value 32
  | .legSheddingEvaluation => true
  | .periodStart _ => true
  | .pwmGrpdivWrite _ value => fits value 32
  | .pwmForceWrite _ value => fits value 32
  | .tripInputFall _ => true
  | .tripQualification _ => true
  | .tripInputRise _ => true
  | .trpClr _ value => fits value 32
  | .trpSwclr value => fits value 32
  | .syncInEdge _ => true
  | .syncInMissing => true
  | .syncInEnable => true
  | .syncInDisable => true
  | .triggerCompare _ _ => true
  | .modConditionPresent _ _ => true
  | .modConditionEnd _ _ => true
  | .fbaConversionSlot _ raw => fitsS raw 16
  | .ctrStart seq => fits seq 6
  | .ctrSequencerBoundary fb => decide (fb < 2 ^ 48)
  | .ctrStepTimeout _ => true
  | .coilMismatch _ => true
  | .imdEnable _ => true
  | .imdHalfPeriodEnd _ => true
  | .demandRecordTransmit => true
  | .demandRecord payload => decide (payload.length ≤ 56)
  | .shareCutoff => true
  | .shrNextatArm value => fits value 32
  | .thermalDerateStep => true
  | .routingPlan => true
  | .routingZeroTimeout => true
  | .ethLinkChange _ _ _ => true
  | .ethFrameReceive _ frame _ => decide (frame.length ≤ 1526)
  | .ethTransmitStart _ => true
  | .fnetGclctlApply _ nent => fits nent 6
  | .svFrame _ => true
  | .svSampleDeadline _ => true
  | .svSubscriptionEnable _ => true
  | .svSubscriptionDisable _ => true
  | .svSubscriptionReconfigure _ => true
  | .svPublication _ _ len => fits len 32
  | .gooseFrame _ => true
  | .gooseTtlExpiry _ => true
  | .gooseSubscriptionEnable _ => true
  | .gooseSubscriptionDisable _ => true
  | .metrologyInstant _ _ => true
  | .metrologyReturnWait _ => true
  | .testPulseStart _ => true
  | .testPulseEnd _ => true
  | .testOutputConfigWrite _ _ value => fits value 32
  | .metEclr value => fits value 32
  | .lrImageStaged version svn sum => fits version 32 && fits svn 32 && decide (sum.length = 48)
  | .lrActivate key => fits key 16
  | .lrSwitchComplete _ => true
  | .metrologyProcessorRunning => true
  | .sealRequest key => fits key 16
  | .sealComplete => true
  | .commitRequest => true
  | .commit15Min => true
  | .commitComplete _ => true
  | .shutdownRecordNorCopy => true
  | .sessionOpen _ => true
  | .sessionClose _ => true
  | .sessionRecordSigned _ => true
  | .bilRecack value => fits value 32
  | .bilLogack value => fits value 32
  | .recReqBegin xfer number => fits xfer 16 && fits number 32
  | .recData xfer offset bytes _ => fits xfer 16 && fits offset 32 && decide (1 ≤ bytes.length) && decide (bytes.length ≤ 48)
  | .theftWatchBlock samples => decide (samples.length = 4)
  | .outLock _ => true
  | .outUnlock _ => true
  | .outStart _ => true
  | .outStop _ => true
  | .outClr _ => true
  | .tlockExpiry _ => true
  | .tinsExpiry _ => true
  | .tpreExpiry _ => true
  | .trampExpiry _ => true
  | .tdisExpiry _ => true
  | .outSequenceRetry _ => true
  | .connectorChange _ _ => true
  | .enableLoopChange _ _ => true
  | .t1sFrame _ frame _ _ => decide (frame.length ≤ 1526)
  | .controlPilotPeriod _ _ _ dutyM => decide (dutyM ≤ 1000)
  | .proximityReading _ res => fits res 32
  | .flowWindow _ count => fits count 32
  | .fanStall _ => true
  | .stkCtlWake => true
  | .chainRewake => true
  | .wakeComplete => true
  | .enumComplete => true
  | .chainNop _ => true
  | .chainEnum _ => true
  | .chainEcho _ _ => true
  | .chainCfg _ => true
  | .chainSnap => true
  | .chainRead _ => true
  | .chainBal _ => true
  | .chainOwt => true
  | .chainSleep => true
  | .chainResponse _ _ rtt => fits rtt 32
  | .chainResponseMissed _ => true
  | .stkOwcfgStart owper owthr => fits owper 8 && fits owthr 16
  | .openWirePeriod => true
  | .bufferGo => true
  | .bufferStop => true
  | .bufferTqExpiry => true
  | .hrngTailWrite _ index => fits index 16
  | .ringCoalTimeout _ => true
  | .dramScrub _ => true
  | .hostBadAccess addr _ _ _ => fits addr 40
  | .hsysImgok value => fits value 32
  | .hevtClaimRead _ => true
  | .hevtClaimWrite source => fits source 32
  | .gpioEdge _ _ => true
  | .canTxReq _ _ => true
  | .canTxAbort _ _ => true
  | .canStartOfFrame _ => true
  | .canTransmitComplete _ => true
  | .canArbitrationLost _ => true
  | .canFrameError _ _ _ => true
  | .canRecover _ => true
  | .canBusoffRecoveryComplete _ => true
  | .canFrameReceived _ words => decide (words.length ≤ 20) && words.all (fun v => fits v 32)
  | .canMailboxLock _ _ => true
  | .canMailboxRelease _ _ => true
  | .canRxpop _ => true
  | .canFilterWrite _ _ _ value => fits value 32
  | .debugUnlock _ _ => true
  | .lifecycleToken _ _ _ => true
  | .slotProgram _ _ _ => true
  | .slotRevoke _ _ _ => true
  | .injectionToken _ _ => true
  | .relock _ => true
  | .fsecPairctlGo => true
  | .keyLoad _ => true
  | .keySlotClear _ => true
  | .fsecStmtctlGo => true
  | .encDerive _ => true
  | .encUnwrap _ => true
  | .encWrap _ => true
  | .encSign _ => true
  | .encAttest _ => true
  | .encExtend _ => true
  | .encFieldmeas _ => true
  | .encPair _ => true
  | .encKeywrapf _ => true
  | .encAead _ => true
  | .encRandom _ => true
  | .encClear _ => true
  | .secMonoinc _ => true
  | .trngHealthFailure _ => true
  | .tamperInput _ _ _ => true
  | .boundaryScanInstruction _ _ => true
  | .thermalReading _ _ _ => true
  | .tqsExpiry => true
  | .hostShutdownClear => true
  | .thresholdWrite _ _ value => fits value 32
  | .fthmRecctl value => fits value 32
  | .hthmShutrecClr => true
  | .injectionStart _ point inst => decide (point < 64) && fits inst 8
  | .injectionStop _ => true
  | .injectionEnd point inst => decide (point < 64) && fits inst 8
  | .journalAllowance => true
  | .floodEnd _ => true
  | .jrnData xfer offset bytes _ => fits xfer 16 && fits offset 32 && decide (1 ≤ bytes.length) && decide (bytes.length ≤ 48)
  | .captureArm => true
  | .captureTrigger => true
  | .captureStop => true
  | .capReqBegin xfer len => fits xfer 16 && fits len 32
  | .capReqEnd xfer => fits xfer 16
  | .capReqAbort xfer => fits xfer 16
  | .capData xfer offset bytes _ => fits xfer 16 && fits offset 32 && decide (1 ≤ bytes.length) && decide (bytes.length ≤ 48)
  | .fieldAshReady area => decide (area.length ≤ 1048576)
  | .ashReqBegin xfer => fits xfer 16
  | .ashData xfer offset bytes _ => fits xfer 16 && fits offset 32 && decide (1 ≤ bytes.length) && decide (bytes.length ≤ 48)
  | .fdiaAshctlClr => true
  | .hdiaAshctlSnap => true
  | .hdiaAshctlExported => true
  | .ashGatherComplete endOff => fits endOff 32
  | .badAccess addr _ _ => fits addr 26
  | .registerWrite addr value => fits addr 40 && fits value 32
  | .registerReadClear addr => fits addr 40
  | .latchedPairRead addr => fits addr 40
  | .heartbeatSend => true
  | .hfluHbkick value => fits value 32
  | .hfluTxwinCommit _ => true
  | .fieldLost => true
  | .noCreditTimeout _ => true
  | .timeSyncMissing => true
  | .supplyRelease _ => true
  | .batteryLoss _ => true
  | .trngHealthRecovery _ => true
  | .tachEdge _ => true
  | .hostEccError _ addr _ => fits addr 40
  | .fmpWindowEccError addr => fits addr 32
  | .plcaStatusChange _ _ _ => true
  | .peripheralTransfer _ _ _ => true

end Sys2Proof
end

