-- ==== Sys2Proof/Tests/Slice0.lean ====
section
/-! SUPPORT. Tests: the checks of WellFormed refuse an ill-formed command each, values the spec works out, one command on a small state,
and for every statement states and operands that meet the hypotheses of each of its clauses. -/

set_option maxRecDepth 100000

open Sys2Proof
open Sys2Proof.Machine

namespace Sys2Proof.Tests

/-- A block with every domain on. -/
def allOn : Dev := ((({} : Dev).wr R.FSYS_PWRSTAT.ON 0x1F).wr R.HSYS_PWRSTAT.ON 0x1F)

/-- The state with a block and nothing waiting. -/
def at' (d : Dev) : State := { dev := d, pending := [] }

/-- A stream active in bank 0. -/
def withStream (d : Dev) (x : StreamData) : Dev := { (d.wr R.STS_BANK.ACTV 1) with st := { d.st with banks := [x, {}] } }

/-! ## WellFormed -/

theorem test_ill_formed_refused_0 : ([.watchdogService .field (2 ^ 32), .swFmp (2 ^ 16), .swField (2 ^ 16), .swWarm (2 ^ 16), .swCold (2 ^ 16), .modeReq (2 ^ 16) 1,
    .modeReq 1 (2 ^ 8), .reArm (2 ^ 16) 1 true, .reArm 1 (2 ^ 8) true, .flueRetrain .field 0 65, .flueCellReceive .field [], .heartbeat (2 ^ 32) 1,
    .heartbeat 1 (2 ^ 8), .hbAck (2 ^ 32) 1 1, .hbAck 1 (2 ^ 32) 1, .hbAck 1 1 (2 ^ 64), .tripDevice (2 ^ 8) 1 1 1, .tripDevice 1 (2 ^ 8) 1 1,
    .tripDevice 1 1 (2 ^ 16) 1, .tripDevice 1 1 1 (2 ^ 32), .tripOutput (2 ^ 8) 1 1, .tripOutput 1 (2 ^ 16) 1, .tripOutput 1 1 (2 ^ 32),
    .tripLegGroup (2 ^ 8) 1 1, .tripLegGroup 1 (2 ^ 16) 1, .tripLegGroup 1 1 (2 ^ 32), .quenchAll (2 ^ 16) 1, .quenchAll 1 (2 ^ 32),
    .quenchOut 0 (2 ^ 16) 1, .quenchOut 0 1 (2 ^ 32)] :
    List Instr).all (fun i => !i.wellFormed) = true := by decide

theorem test_ill_formed_refused_1 : ([.paramWr (List.replicate 57 0), .paramRd (List.replicate 57 0), .targetSet (List.replicate 57 0), .paramRsp (2 ^ 16) 1 1 1 1 [],
    .paramRsp 1 (2 ^ 8) 1 1 1 [], .paramRsp 1 1 (2 ^ 8) 1 1 [], .paramRsp 1 1 1 (2 ^ 16) 1 [], .paramRsp 1 1 1 1 (2 ^ 8) [],
    .paramRsp 1 1 1 1 1 (List.replicate 13 0), .paramRsp 1 1 1 1 1 [2 ^ 32], .timeSync (2 ^ 64) 1 1 1 1 1, .timeSync 1 (2 ^ 32) 1 1 1 1,
    .timeSync 1 1 (2 ^ 8) 1 1 1, .timeSync 1 1 1 (2 ^ 8) 1 1, .timeSync 1 1 1 1 (2 ^ 16) 1, .timeSync 1 1 1 1 1 (2 ^ 32), .event 0 (2 ^ 8) 1 1 1 [],
    .event 0 1 (2 ^ 16) 1 1 [], .event 0 1 1 (2 ^ 64) 1 [], .event 0 1 1 1 (2 ^ 64) [], .event 0 1 1 1 1 (List.replicate 10 0),
    .event 0 1 1 1 1 [2 ^ 32], .telemetry (2 ^ 8) 1 1 1 [1], .telemetry 1 (2 ^ 8) 1 1 [1], .telemetry 1 1 3 1 [1], .telemetry 1 1 1 (2 ^ 32) [1],
    .telemetry 1 1 1 1 [], .telemetry 1 1 1 1 (List.replicate 13 0), .telemetry 1 1 1 1 [2 ^ 32], .recordReady 4 1 1 1] :
    List Instr).all (fun i => !i.wellFormed) = true := by decide

theorem test_ill_formed_refused_2 : ([.recordReady 1 2 1 1, .recordReady 1 1 (2 ^ 32) 1, .recordReady 1 1 1 (2 ^ 64), .imgCtrlBegin (2 ^ 16) 1, .imgCtrlBegin 1 (2 ^ 32),
    .imgData (2 ^ 16) 1 [1], .imgData 1 (2 ^ 32) [1], .imgData 1 1 [], .imgData 1 1 (List.replicate 49 0),
    .imgCtrlEnd (2 ^ 16) (List.replicate 48 0), .imgCtrlEnd 1 [], .imgCtrlAbort (2 ^ 16), .imgStat (2 ^ 16) 1, .imgStat 1 (2 ^ 8),
    .stsPersist (2 ^ 32), .ptpOffsetSample 0 (2 ^ 31), .stcSetsecHiArm (2 ^ 32), .lawManWrite 0 (2 ^ 32), .dgrVarreq 0 (2 ^ 32),
    .dgrLostWrite 0 (2 ^ 32), .pwmGrpdivWrite 0 (2 ^ 32), .pwmForceWrite 0 (2 ^ 32), .trpClr 0 (2 ^ 32), .trpSwclr (2 ^ 32),
    .fbaConversionSlot 0 (2 ^ 15), .ctrStart (2 ^ 6), .ctrSequencerBoundary (2 ^ 48), .demandRecord (List.replicate 57 0), .shrNextatArm (2 ^ 32),
    .ethFrameReceive 0 (List.replicate 1527 0) true] :
    List Instr).all (fun i => !i.wellFormed) = true := by decide

theorem test_ill_formed_refused_3 : ([.fnetGclctlApply 0 (2 ^ 6), .svPublication 0 [] (2 ^ 32), .testOutputConfigWrite 0 true (2 ^ 32), .metEclr (2 ^ 32),
    .lrImageStaged (2 ^ 32) 1 (List.replicate 48 0), .lrImageStaged 1 (2 ^ 32) (List.replicate 48 0), .lrImageStaged 1 1 [], .lrActivate (2 ^ 16),
    .sealRequest (2 ^ 16), .bilRecack (2 ^ 32), .bilLogack (2 ^ 32), .recReqBegin (2 ^ 16) 1, .recReqBegin 1 (2 ^ 32), .recData (2 ^ 16) 1 [1] true,
    .recData 1 (2 ^ 32) [1] true, .recData 1 1 [] true, .recData 1 1 (List.replicate 49 0) true, .theftWatchBlock [],
    .t1sFrame 0 (List.replicate 1527 0) true 1, .controlPilotPeriod 0 none none 1001, .proximityReading 0 (2 ^ 32), .flowWindow 0 (2 ^ 32),
    .chainResponse true [] (2 ^ 32), .stkOwcfgStart (2 ^ 8) 1, .stkOwcfgStart 1 (2 ^ 16), .hrngTailWrite 0 (2 ^ 16),
    .hostBadAccess (2 ^ 40) true true true, .hsysImgok (2 ^ 32), .hevtClaimWrite (2 ^ 32), .canFrameReceived 0 (List.replicate 21 0)] :
    List Instr).all (fun i => !i.wellFormed) = true := by decide

theorem test_ill_formed_refused_4 : ([.canFrameReceived 0 [2 ^ 32], .canFilterWrite 0 0 0 (2 ^ 32), .thresholdWrite .field true (2 ^ 32), .fthmRecctl (2 ^ 32),
    .injectionStart .field 64 1, .injectionStart .field 1 (2 ^ 8), .injectionEnd 64 1, .injectionEnd 1 (2 ^ 8), .jrnData (2 ^ 16) 1 [1] true,
    .jrnData 1 (2 ^ 32) [1] true, .jrnData 1 1 [] true, .jrnData 1 1 (List.replicate 49 0) true, .capReqBegin (2 ^ 16) 1, .capReqBegin 1 (2 ^ 32),
    .capReqEnd (2 ^ 16), .capReqAbort (2 ^ 16), .capData (2 ^ 16) 1 [1] true, .capData 1 (2 ^ 32) [1] true, .capData 1 1 [] true,
    .capData 1 1 (List.replicate 49 0) true, .ashReqBegin (2 ^ 16), .ashData (2 ^ 16) 1 [1] true, .ashData 1 (2 ^ 32) [1] true, .ashData 1 1 [] true,
    .ashData 1 1 (List.replicate 49 0) true, .ashGatherComplete (2 ^ 32), .badAccess (2 ^ 26) true true, .registerWrite (2 ^ 40) 1,
    .registerWrite 1 (2 ^ 32), .registerReadClear (2 ^ 40)] :
    List Instr).all (fun i => !i.wellFormed) = true := by decide

theorem test_ill_formed_refused_5 : ([.latchedPairRead (2 ^ 40), .hfluHbkick (2 ^ 32), .hostEccError true (2 ^ 40) true, .fmpWindowEccError (2 ^ 32)] :
    List Instr).all (fun i => !i.wellFormed) = true := by decide

theorem test_ill_formed_ash_area_refused (area : List Byte) (h : area.length = 1048577) :
    (Instr.fieldAshReady area).wellFormed = false := by
  simp [Instr.wellFormed, h]

theorem test_well_formed_accepted_0 : ([.watchdogService .field 1, .swFmp 1, .swField 1, .swWarm 1, .swCold 1, .modeReq 1 1, .reArm 1 1 true, .flueRetrain .field 0 1,
    .flueCellReceive .field (List.replicate 64 0), .heartbeat 1 1, .hbAck 1 1 1, .tripDevice 1 1 1 1, .tripOutput 1 1 1, .tripLegGroup 1 1 1,
    .quenchAll 1 1, .quenchOut 0 1 1, .paramWr [], .paramRd [], .targetSet [], .paramRsp 1 1 1 1 1 [], .timeSync 1 1 1 1 1 1, .event 0 1 1 1 1 [],
    .telemetry 1 1 1 1 [1], .recordReady 1 1 1 1, .imgCtrlBegin 1 1, .imgData 1 1 [1], .imgCtrlEnd 1 (List.replicate 48 0), .imgCtrlAbort 1,
    .imgStat 1 1, .stsPersist 1] :
    List Instr).all Instr.wellFormed = true := by decide

theorem test_well_formed_accepted_1 : ([.ptpOffsetSample 0 1, .stcSetsecHiArm 1, .lawManWrite 0 1, .dgrVarreq 0 1, .dgrLostWrite 0 1, .pwmGrpdivWrite 0 1, .pwmForceWrite 0 1,
    .trpClr 0 1, .trpSwclr 1, .fbaConversionSlot 0 1, .ctrStart 1, .ctrSequencerBoundary 1, .demandRecord [], .shrNextatArm 1,
    .ethFrameReceive 0 [] true, .fnetGclctlApply 0 1, .svPublication 0 [] 1, .testOutputConfigWrite 0 true 1, .metEclr 1,
    .lrImageStaged 1 1 (List.replicate 48 0), .lrActivate 1, .sealRequest 1, .bilRecack 1, .bilLogack 1, .recReqBegin 1 1, .recData 1 1 [1] true,
    .theftWatchBlock (List.replicate 4 []), .t1sFrame 0 [] true 1, .controlPilotPeriod 0 none none 1, .proximityReading 0 1] :
    List Instr).all Instr.wellFormed = true := by decide

theorem test_well_formed_accepted_2 : ([.flowWindow 0 1, .chainResponse true [] 1, .stkOwcfgStart 1 1, .hrngTailWrite 0 1, .hostBadAccess 1 true true true, .hsysImgok 1,
    .hevtClaimWrite 1, .canFrameReceived 0 [], .canFilterWrite 0 0 0 1, .thresholdWrite .field true 1, .fthmRecctl 1, .injectionStart .field 1 1,
    .injectionEnd 1 1, .jrnData 1 1 [1] true, .capReqBegin 1 1, .capReqEnd 1, .capReqAbort 1, .capData 1 1 [1] true, .fieldAshReady [],
    .ashReqBegin 1, .ashData 1 1 [1] true, .ashGatherComplete 1, .badAccess 1 true true, .registerWrite 1 1, .registerReadClear 1,
    .latchedPairRead 1, .hfluHbkick 1, .hostEccError true 1 true, .fmpWindowEccError 1] :
    List Instr).all Instr.wellFormed = true := by decide

/-! ## Values the spec works out -/

/-- The check value of CRC-32C over "123456789" (RFC 3720, appendix B.4). -/
theorem test_crc32c_check_value : crc32c [0x31, 0x32, 0x33, 0x34, 0x35, 0x36, 0x37, 0x38, 0x39] = 0xE3069283 := by decide

/-- Example 0-1. -/
theorem test_leg_register_address : (R.PWM_DTF.DT 17 3).addr = 0x00104588 := by decide

/-- Example 0-1. -/
theorem test_output_register_address : 0x1000 * 3 + (0x00240010 : Nat) = 0x00243010 ∧ (findReg 0x00243010).isSome = true := by decide

/-- Example 6-1, the row's accumulator. -/
theorem test_row_accumulates : rowAcc [0x3F50000000, 0x3FFFFFFFFD] 0 2 [12345, 7] 0 {} = { acc := 8284589260789, sat := false } := by decide

/-- Example 6-1, the writeback with OSH 0. -/
theorem test_row_writes_back : writeback 8284589260789 0 = (7716, false) := by decide

/-- Example 6-1, the writeback with OSH 6 saturates. -/
theorem test_row_saturates : writeback 67108863999999989 6 = (2147483647, true) := by decide

/-- Example 7-2, the transfer tick's term and the next output. -/
theorem test_pi_transfer : (term 0x30000000 1237).1 = 996163977216 ∧ (wb (term 0x30000000 1237).1).1 = 928 ∧
    (wb (19072 * 2 ^ 30 + (term 0x30000000 1300).1)).1 = 20047 ∧ (wb (term 0xE0000000 1300).1).1 + 20047 = 19397 := by decide

/-- Example 9-1. -/
theorem test_duty_width : dutyWidth 13743895 1280000 = 8192 := by decide

/-- Example 9-1, period 1 of DROP: no pulse, carry 512. -/
theorem test_drop_drops : minPulse { dtr := 7680, dtf := 5120, tmin := 5120 } 1280000 8192 0 = (0, 512, true, false) := by decide

/-- Example 9-1, period 10 of DROP: w_eff 12,800, carry 0. -/
theorem test_drop_delivers : minPulse { dtr := 7680, dtf := 5120, tmin := 5120 } 1280000 8192 4608 = (12800, 0, false, false) := by decide

/-- Example 9-1, period 1 of STRETCH: a pulse of 200 ns after dead time, carry −4,608. -/
theorem test_stretch_widens :
    minPulse { dtr := 7680, dtf := 5120, tmin := 5120, stretch := true } 1280000 8192 0 = (12800, -4608, false, true) := by decide

/-- Example 9-1, period 2 of STRETCH: no pulse, carry −4,096. -/
theorem test_stretch_owes :
    (minPulse { dtr := 7680, dtf := 5120, tmin := 5120, stretch := true } 1280000 8192 (-4608)).1 = 0 ∧
    (minPulse { dtr := 7680, dtf := 5120, tmin := 5120, stretch := true } 1280000 8192 (-4608)).2.1 = -4096 := by decide

/-- Example 22-1: STC_CNT is a register, 0x04_0038 is reserved. -/
theorem test_register_map : (findReg 0x030048).map RegDesc.name = some "STC_CNT" ∧ findReg 0x040038 = none := by decide

/-! ## One command on a small state -/

/-- The block after one command. -/
def after (c : Instr) (d : Dev) : Dev :=
  match exec c (at' d) with
  | .next t => t.dev
  | _ => d

/-- R412: a bad access is shown, counted, and reads 0. -/
theorem test_bad_access_is_counted :
    ((after (.badAccess 0x040038 false false) allOn).rd R.FSYS_BADADDR.COUNT,
     (after (.badAccess 0x040038 false false) allOn).lastRead) = (1, 0) := by decide

/-- R388: a threshold write out of order sets ORDERR and leaves the thresholds. -/
theorem test_threshold_order :
    ((after (.thresholdWrite .field false 0x404040) allOn).rd R.FTHM_STAT.ORDERR,
     (after (.thresholdWrite .field false 0x404040) allOn).rd R.FTHM_THR.WARN) = (1, R.FTHM_THR.WARN.reset) := by decide

/-- R388: thresholds in order are taken, and the greatest SHUTDOWN is 125 °C. -/
theorem test_threshold_taken :
    ((after (.thresholdWrite .host false 0x7D5040) allOn).rd R.HTHM_THR.SHUTDOWN,
     (after (.thresholdWrite .host false 0x7E5040) allOn).rd R.HTHM_STAT.ORDERR) = (0x7D, 1) := by decide

/-- Table 16-3: the wake tone's end leads from WAKING to ENUM. -/
theorem test_chain_awake : (after .wakeComplete (allOn.wr R.STK_CHSTAT.STATE 1)).chainState = 2 := by decide

/-- Example 18-1: a frame that arrives at a locked mailbox waits in its shadow and moves in at the release. -/
theorem test_locked_mailbox :
    (after (.canMailboxRelease 1 3) { (allOn.wr (mbLock 1 3) 1) with
      can := setAt allOn.can 1 { mbs := setAt (List.replicate 16 {}) 3 { shadow := some { stamp := 9, words := [0x123, 0] } } } }).rd
        (canAt 1 (fun i => R.FCAN_MB.WORD i 3 0)) = 0x123 := by decide

/-- TLM_CAPCTL.STOP: to OFF. -/
theorem test_capture_stop : (after .captureStop (allOn.wr R.TLM_CAPSTAT.STATE 1)).capState = 0 := by decide

/-- TLM_CAPCTL.ARM arms from OFF or FROZEN only. -/
theorem test_capture_arm_again : (after .captureArm (allOn.wr R.TLM_CAPSTAT.STATE 2)).capState = 2 := by decide

/-- R371, SEC_MONOINC bit 2: counter 2 rises by 1 and counter 1 stays. -/
theorem test_monotonic : ((after (.secMonoinc 4) (allOn.wr (R.SEC_MONO.VALUE 2) 41)).rd (R.SEC_MONO.VALUE 2),
    (after (.secMonoinc 4) (allOn.wr (R.SEC_MONO.VALUE 1) 41)).rd (R.SEC_MONO.VALUE 1)) = (42, 41) := by decide

/-- R384: an enabled tamper input that goes low latches. -/
theorem test_tamper_latches :
    testBit ((after (.tamperInput .host 1 true) (allOn.wr (R.SEC_TAMPCFG.EN 1) 1)).rd R.SEC_TAMPSTAT.LATCH) 1 = true := by decide

/-- KEY must be 0xC4E1; any other value resets nothing. -/
theorem test_reset_key : after (.swWarm 0xC4E0) allOn = allOn := by decide

/-- The reset state's mode is KINDLING and no command waits. -/
theorem test_reset_mode : State.reset.dev.mode = .kindling ∧ State.reset.pending = [] := by decide

/-! ## Witnesses of the statements -/

theorem witness_SupplyCommandsMoveTheBatteryDomains :
    (∃ (s : State), s.dev.pw.auxF = true) ∧
    (∃ (s : State), s.dev.pw.auxH = true) ∧
    (∃ (s : State), s.dev.pw.auxF = false) ∧
    (∃ (s : State), s.dev.pw.auxH = false) ∧
    (∃ (s : State), s.dev.pw.fHeld = true) ∧
    (∃ (s : State), s.dev.pw.hHeld = true) ∧
    (∃ (s : State), s.dev.pw.fHeld = false) ∧
    (∃ (s : State), s.dev.pw.hHeld = false) :=
  ⟨⟨at' (let d : Dev := (let d := allOn; { d with pw := { d.pw with auxF := true } }); { d with pw := { d.pw with auxF := true } }), by decide⟩,
   ⟨at' (let d : Dev := (let d := allOn; { d with pw := { d.pw with auxH := true } }); { d with pw := { d.pw with auxH := true } }), by decide⟩,
   ⟨at' (let d : Dev := (let d := allOn; { d with pw := { d.pw with auxF := false } }); { d with pw := { d.pw with auxF := false } }), by decide⟩,
   ⟨at' (let d : Dev := (let d := allOn; { d with pw := { d.pw with auxH := false } }); { d with pw := { d.pw with auxH := false } }), by decide⟩,
   ⟨at' (let d : Dev := (let d := allOn; { d with pw := { d.pw with fHeld := true } }); { d with pw := { d.pw with fHeld := true } }), by decide⟩,
   ⟨at' (let d : Dev := (let d := allOn; { d with pw := { d.pw with hHeld := true } }); { d with pw := { d.pw with hHeld := true } }), by decide⟩,
   ⟨at' (let d := allOn; { d with pw := { d.pw with fHeld := false } }), by decide⟩,
   ⟨at' (let d := allOn; { d with pw := { d.pw with hHeld := false } }), by decide⟩⟩

theorem witness_ResetCommandsRunTheirReset :
    (∃ (s : State), s.dev.pw.fHeld = true ∧ s.dev.pw.f0Lost = false) ∧
    (∃ (s : State), s.dev.pw.hHeld = true ∧ s.dev.pw.h0Lost = false) ∧
    (∃ (s : State), s.dev.domOn .f1 = true ∧ s.dev.mode.readyOrLower = true) ∧
    (∃ (s : State), s.dev.domOn .h1 = true ∧ s.dev.pw.nmiH = true) ∧
    (∃ (s : State), s.dev.domOn .h1 = true ∧ s.dev.th.shutH = true ∧ s.dev.coolEnough .host = true) ∧
    (∃ (s : State), s.dev.domOn .f1 = true ∧ s.dev.th.shut = true ∧ s.dev.rd R.FTHM_STAT.SHUT = 1) ∧
    (∃ (key : Nat), key ≠ 0xC4E1) :=
  ⟨⟨at' (let d : Dev := (let d := (let d := allOn; { d with pw := { d.pw with fHeld := true } }); { d with pw := { d.pw with f0Lost := false } }); { d with pw := { d.pw with fHeld := true, f0Lost := false } }), by decide⟩,
   ⟨at' (let d : Dev := (let d := (let d := allOn; { d with pw := { d.pw with hHeld := true } }); { d with pw := { d.pw with h0Lost := false } }); { d with pw := { d.pw with hHeld := true, h0Lost := false } }), by decide⟩,
   ⟨at' allOn, by decide⟩,
   ⟨at' (let d : Dev := (let d := allOn; { d with pw := { d.pw with nmiH := true } }); { d with pw := { d.pw with nmiH := true } }), by decide⟩,
   ⟨at' (let d : Dev := (let d := allOn; { d with th := { d.th with shutH := true } }); { d with th := { d.th with shutH := true } }), by decide⟩,
   ⟨at' (let d : Dev := ((let d := allOn; { d with th := { d.th with shut := true } }).wr R.FTHM_STAT.SHUT 1); { d with th := { d.th with shut := true } }), by decide⟩,
   ⟨1, by decide⟩⟩

theorem witness_ResetsLeaveTheirDomainsAtReset :
    (∃ (f : Fld), (domOfKey f.key = .f1 ∨ domOfKey f.key = .f2 ∨ domOfKey f.key = .f3 ∨ domOfKey f.key = .f4) ∧ f.key ≠ R.FSYS_BOOTCFG.BANKED.key ∧ f.key ≠ R.FSYS_PWRSTAT.F0SRC.key) ∧
    (∃ (f : Fld), domOfKey f.key = .f0) ∧
    (∃ (f : Fld), (domOfKey f.key = .h1 ∨ domOfKey f.key = .h2 ∨ domOfKey f.key = .h3) ∧ f.key ≠ R.HSYS_PWRSTAT.H0SRC.key) ∧
    (∃ (a : Nat), 0x18000000 ≤ a ∧ a < 0x18010000) ∧
    (∃ (a : Nat), 0x80000000 ≤ a) ∧
    (∃ (a : Nat), (a < 0x18000000 ∨ (0x18010000 ≤ a ∧ a < 0x80000000))) :=
  ⟨⟨R.STC_STAT.STATE, by decide⟩,
   ⟨R.FSEC_STATE.DBGARM, by decide⟩,
   ⟨R.HEVT_PEND.PEND 2, by decide⟩,
   ⟨0x18000000, by decide⟩,
   ⟨0x80000000, by decide⟩,
   ⟨0x10000000, by decide⟩⟩

theorem witness_FmpOnlyResetsHoldTheProcessor :
    (∃ (v : Nat), v % 65536 = 0x5AA5) ∧
    (∃ (v : Nat), v % 65536 ≠ 0x5AA5) ∧
    (∃ (s : State), s.dev.domOn .h1 = true) ∧
    (∃ (s : State), s.dev.domOn .f1 = true ∧ s.dev.pw.nmiF = true) ∧
    (∃ (s : State), s.dev.domOn .f2 = true) ∧
    (∃ (s : State), s.dev.domOn .f1 = true ∧ s.dev.mode = .autonomous) ∧
    (∃ (s : State), s.dev.domOn .f1 = true ∧ s.dev.mode = .quench) :=
  ⟨⟨0x5AA5, by decide⟩,
   ⟨1, by decide⟩,
   ⟨at' allOn, by decide⟩,
   ⟨at' (let d : Dev := (let d := allOn; { d with pw := { d.pw with nmiF := true } }); { d with pw := { d.pw with nmiF := true } }), by decide⟩,
   ⟨at' allOn, by decide⟩,
   ⟨at' (allOn.wr R.FSYS_MODE.MODE (Mode.code .autonomous)), by decide⟩,
   ⟨at' (allOn.wr R.FSYS_MODE.MODE (Mode.code .quench)), by decide⟩⟩

theorem witness_ModeRequestsWaitForTheirTransition :
    (∃ (s : State) (tag : Nat), s.dev.domOn .f1 = true ∧ s.dev.keptRsp tag 0x14 = none ∧ s.dev.pw.req = none) ∧
    (∃ (s : State) (target : Fin 16), s.dev.domOn .f1 = true ∧ s.dev.pw.req = none ∧ (s.dev.reqRow s.dev.mode { target := target.val, rearm := false, ack := s.dev.th.ackKey }).isSome = true) ∧
    (∃ (s : State) (target : Fin 16), s.dev.domOn .f1 = true ∧ s.dev.pw.req = none ∧ let d := { ((s.dev.wr R.FSYS_MODEREQ.TARGET target.val).wrB R.FSYS_MODEREQ.REARM true) with th := { s.dev.th with ackKey := false } }
       d.reqCode { target := target.val, rearm := true, ack := s.dev.th.ackKey } = 0) ∧
    (∃ (s : State), s.dev.domOn .f1 = true ∧ s.dev.pw.req.isSome = true) ∧
    (∃ (s : State), s.dev.domOn .f1 = true ∧ s.dev.mode = .kindling ∧ s.dev.pw.bootF = true ∧ s.dev.domOn .f4 = true ∧ (s.dev.rd R.FSYS_VARIANT.VARIANT = 1 ∨ s.dev.rd R.FSYS_VARIANT.VARIANT = 2) ∧ s.dev.streamActive = true ∧ s.dev.th.shut = false ∧ (let d := ({ s.dev with pw := { s.dev.pw with bootF := false } }).raise 13 0 [0]; d.shutRecPending = false ∧ s.dev.on R.FSYS_BOOTCFG.BANKED = false)) ∧
    (∃ (s : State), s.dev.domOn .f1 = true ∧ s.dev.mode = .kindling ∧ s.dev.pw.bootF = true ∧ s.dev.domOn .f4 = true ∧ (s.dev.rd R.FSYS_VARIANT.VARIANT = 1 ∨ s.dev.rd R.FSYS_VARIANT.VARIANT = 2) ∧ s.dev.streamActive = true ∧ s.dev.th.shut = false ∧ (let d := ({ s.dev with pw := { s.dev.pw with bootF := false } }).raise 13 0 [0]; s.dev.on R.FSYS_BOOTCFG.BANKED = true)) :=
  ⟨⟨at' ((let d := allOn; { d with pw := { d.pw with req := none } }).wr R.FSYS_MODE.MODE (Mode.code .ready)), 1, by decide⟩,
   ⟨at' ((let d := allOn; { d with pw := { d.pw with req := none } }).wr R.FSYS_MODE.MODE (Mode.code .ready)), 2, by decide⟩,
   ⟨at' ((let d := allOn; { d with pw := { d.pw with req := none } }).wr R.FSYS_MODE.MODE (Mode.code .ready)), 2, by decide⟩,
   ⟨at' (let d : Dev := allOn; { d with pw := { d.pw with req := some {} } }), by decide⟩,
   ⟨at' (let d : Dev := ((let d := ((let d := (allOn.wr R.FSYS_MODE.MODE (Mode.code .kindling)); { d with pw := { d.pw with bootF := true } }).wr R.STS_BANK.ACTV 1); { d with th := { d.th with shut := false } }).wr R.FSYS_BOOTCFG.BANKED 0); { d.wr R.FSYS_VARIANT.VARIANT 1 with pw := { d.pw with bootF := true } }), by decide⟩,
   ⟨at' (let d : Dev := ((let d := ((let d := (allOn.wr R.FSYS_MODE.MODE (Mode.code .kindling)); { d with pw := { d.pw with bootF := true } }).wr R.STS_BANK.ACTV 1); { d with th := { d.th with shut := false } }).wr R.FSYS_BOOTCFG.BANKED 1); { d.wr R.FSYS_VARIANT.VARIANT 1 with pw := { d.pw with bootF := true } }), by decide⟩⟩

theorem witness_BlockRequestsDrainAndEnable :
    (∃ (s : State), s.dev.domOn .f1 = true ∧ s.dev.sealHolds = false ∧ s.dev.rd R.MET_CTL.STATUS = 1) ∧
    (∃ (s : State), s.dev.domOn .f1 = true ∧ s.dev.sealHolds = true) ∧
    (∃ (s : State), s.dev.domOn .f1 = true ∧ s.dev.rd R.MET_CTL.STATUS = 0) ∧
    (∃ (s : State), s.dev.domOn .f1 = true ∧ s.dev.rd R.MET_CTL.STATUS = 2 ∧ s.dev.rd R.MET_CTL.EN = 0) ∧
    (∃ (s : State) (p : Fin 2), s.dev.domOn .f4 = true ∧ s.dev.rd (R.SVG_PUBSTAT.STATUS p) = 1) ∧
    (∃ (s : State) (p : Fin 2), s.dev.domOn .f4 = true ∧ s.dev.rd (R.SVG_PUBSTAT.STATUS p) = 0) ∧
    (∃ (s : State) (p : Fin 2), s.dev.domOn .f4 = true ∧ s.dev.rd (R.SVG_PUBSTAT.STATUS p) = 2 ∧ s.dev.rd (R.SVG_PUBCFG.EN p) = 0) ∧
    (∃ (s : State) (p : Fin 2), s.dev.domOn .f4 = true ∧ s.dev.rd (R.FNET_PORT.STATUS p) = 1) ∧
    (∃ (s : State) (p : Fin 2), s.dev.domOn .f4 = true ∧ s.dev.rd (R.FNET_PORT.STATUS p) = 0) :=
  ⟨⟨at' (let d : Dev := (allOn.wr R.MET_CTL.STATUS 1); { d with ffuse := { d.ffuse with sealed := false } }), by decide⟩,
   ⟨at' (let d : Dev := allOn; { d with ffuse := { d.ffuse with sealed := true, variant := 1 } }), by decide⟩,
   ⟨at' (allOn.wr R.MET_CTL.STATUS 0), by decide⟩,
   ⟨at' ((allOn.wr R.MET_CTL.STATUS 2).wr R.MET_CTL.EN 0), by decide⟩,
   ⟨(let p : Fin 2 := 1; at' (allOn.wr (R.SVG_PUBSTAT.STATUS p) 1)), 1, by decide⟩,
   ⟨(let p : Fin 2 := 1; at' (allOn.wr (R.SVG_PUBSTAT.STATUS p) 0)), 1, by decide⟩,
   ⟨(let p : Fin 2 := 1; at' ((allOn.wr (R.SVG_PUBSTAT.STATUS p) 2).wr (R.SVG_PUBCFG.EN p) 0)), 1, by decide⟩,
   ⟨(let p : Fin 2 := 1; at' (allOn.wr (R.FNET_PORT.STATUS p) 1)), 1, by decide⟩,
   ⟨(let p : Fin 2 := 1; at' (allOn.wr (R.FNET_PORT.STATUS p) 0)), 1, by decide⟩⟩

theorem witness_FlueLinkAndSlots :
    (∃ (s : State), s.dev.fl.up = false) ∧
    (∃ (s : State) (sender : Side) (m : Msg) (rest : List Msg), s.dev.fl.up = true ∧ (s.dev.sendDir sender).slot = 0 ∧ (s.dev.sendDir sender).dup = none ∧ (s.dev.sendDir sender).queue.getD 0 [] = m :: rest) ∧
    (∃ (s : State) (sender : Side) (m : Msg), s.dev.fl.up = true ∧ (s.dev.sendDir sender).slot = 0 ∧ (s.dev.sendDir sender).dup = some m) :=
  ⟨⟨at' (let d := allOn; { d with fl := { d.fl with up := false } }), by decide⟩,
   ⟨at' (let d : Dev := (let d := allOn; { d with fl := { d.fl with up := true } }); { d with fl := { d.fl with f2h := { d.fl.f2h with slot := 0, dup := none, queue := [[{ ty := 1 }],[],[],[],[],[],[],[]] } } }), .field, { ty := 1 }, [], by decide⟩,
   ⟨at' (let d : Dev := (let d := allOn; { d with fl := { d.fl with up := true } }); { d with fl := { d.fl with f2h := { d.fl.f2h with slot := 0, dup := some { ty := 1 }, queue := [[],[],[],[],[],[],[],[]] } } }), .field, { ty := 1 }, by decide⟩⟩

theorem witness_FlueReceiveAcceptsGoodCells :
    (∃ (s : State) (receiver : Side) (cell : List Byte), (let w := leAt cell 0 4; (let fd := s.dev.recvDir receiver; s.dev.fl.up = false))) ∧
    (∃ (s : State) (receiver : Side) (cell : List Byte), (let w := leAt cell 0 4; (let fd := s.dev.recvDir receiver; s.dev.fl.up = true ∧ crc32c (cell.take 60) ≠ leAt cell 60 4))) ∧
    (∃ (s : State) (receiver : Side) (cell : List Byte) (q : Nat) (g : Nat), (let w := leAt cell 0 4; (let fd := s.dev.recvDir receiver; s.dev.fl.up = true ∧ crc32c (cell.take 60) = leAt cell 60 4 ∧ queueOfType (bits w 7 0) = some q ∧ q ≠ 0 ∧ fd.gap q (bits w 23 16) = some g ∧ typeDefined receiver (bits w 7 0) = true ∧ lenFits (bits w 7 0) (bits w 13 8) = true))) ∧
    (∃ (s : State) (receiver : Side) (cell : List Byte) (q : Nat), (let w := leAt cell 0 4; (let fd := s.dev.recvDir receiver; s.dev.fl.up = true ∧ crc32c (cell.take 60) = leAt cell 60 4 ∧ queueOfType (bits w 7 0) = some q ∧ fd.gap q (bits w 23 16) = none))) :=
  ⟨⟨at' (let d := allOn; { d with fl := { d.fl with up := false } }), .field, [1,2,3], by decide⟩,
   ⟨at' (let d := allOn; { d with fl := { d.fl with up := true } }), .field, List.replicate 60 0 ++ [1,2,3,4], by decide⟩,
   ⟨at' (let d := allOn; { d with fl := { d.fl with up := true } }), .field, (let h := leBytes 4 (0x10 + 4096 * 0 + 65536 * 1) ++ List.replicate 56 0; h ++ leBytes 4 (crc32c h)), 1, 1, by decide⟩,
   ⟨at' (let d := allOn; { d with fl := { d.fl with up := true } }), .field, (let h := leBytes 4 (0x10 + 4096 * 0 + 65536 * 200) ++ List.replicate 56 0; h ++ leBytes 4 (crc32c h)), 1, by decide⟩⟩

theorem witness_HostEndpointSupervision :
    (∃ (s : State) (k : Nat), s.dev.on R.HFLU_HBCFG.HBGEN = true ∧ s.dev.fl.up = true ∧ s.dev.fl.kickAt = some k ∧ s.dev.htcNs ≤ k + s.dev.rd R.HFLU_HBCFG.KICK * 10 ^ 6) ∧
    (∃ (s : State), s.dev.on R.HFLU_HBCFG.HBGEN = false) ∧
    (∃ (v : Nat), bits v 31 16 = 0x4B1C) ∧
    (∃ (v : Nat), bits v 31 16 ≠ 0x4B1C) ∧
    (∃ (s : State) (win : Fin 2), (s.dev.fl.h2f.queue.getD win []).length < (if win.val = 0 then 16 else 64)) ∧
    (∃ (s : State) (win : Fin 2), (if win.val = 0 then 16 else 64) ≤ (s.dev.fl.h2f.queue.getD win []).length) ∧
    (∃ (s : State), s.dev.fl.lostRaised = false) ∧
    (∃ (s : State), s.dev.fl.lostRaised = true) :=
  ⟨⟨at' (let d : Dev := (let d := (allOn.wr R.HFLU_HBCFG.HBGEN 1); { d with fl := { d.fl with up := true } }); { d with fl := { d.fl with kickAt := some 0 } }), 0, by decide⟩,
   ⟨at' (allOn.wr R.HFLU_HBCFG.HBGEN 0), by decide⟩,
   ⟨0x4B1C0001, by decide⟩,
   ⟨1, by decide⟩,
   ⟨at' (let d : Dev := allOn; { d with fl := { d.fl with h2f := { d.fl.h2f with queue := [[],[],[],[],[],[],[],[]] } } }), 1, by decide⟩,
   ⟨at' (let d : Dev := allOn; { d with fl := { d.fl with h2f := { d.fl.h2f with queue := [[],List.replicate 64 {},[],[],[],[],[],[]] } } }), 1, by decide⟩,
   ⟨at' (let d := allOn; { d with fl := { d.fl with lostRaised := false } }), by decide⟩,
   ⟨at' (let d : Dev := (let d := allOn; { d with fl := { d.fl with lostRaised := true } }); { d with fl := { d.fl with lostRaised := true } }), by decide⟩⟩

theorem witness_HostReceiptOfFieldMessages :
    (∃ (status : Nat), status ≠ 0) ∧
    (∃ (s : State), s.dev.on (R.HRNG_CFG.EN 20) = false ∧ s.dev.rings.wait20.length < 64) ∧
    (∃ (s : State), s.dev.on (R.HRNG_CFG.EN 21) = false) ∧
    (∃ (s : State), s.dev.on (R.HRNG_CFG.EN 26) = false ∧ numAt s.dev.rings.fill 26 = 0) ∧
    (∃ (s : State), s.dev.on (R.HRNG_CFG.EN 22) = false ∧ numAt s.dev.rings.fill 22 = 0) ∧
    (∃ (s : State), s.dev.on (R.HRNG_CFG.EN 23) = false ∧ numAt s.dev.rings.fill 23 = 0) ∧
    (∃ (s : State), s.dev.on (R.HRNG_CFG.EN 25) = false ∧ numAt s.dev.rings.fill 25 = 0) :=
  ⟨⟨1, by decide⟩,
   ⟨at' (allOn.wr (R.HRNG_CFG.EN 20) 0), by decide⟩,
   ⟨at' (allOn.wr (R.HRNG_CFG.EN 21) 0), by decide⟩,
   ⟨at' (allOn.wr (R.HRNG_CFG.EN 26) 0), by decide⟩,
   ⟨at' (allOn.wr (R.HRNG_CFG.EN 22) 0), by decide⟩,
   ⟨at' (allOn.wr (R.HRNG_CFG.EN 23) 0), by decide⟩,
   ⟨at' (allOn.wr (R.HRNG_CFG.EN 25) 0), by decide⟩⟩

theorem witness_SafetyOrdersOfTheFlue :
    (∃ (s : State) (scope : Nat), s.dev.domOn .f1 = true ∧ (scope = 0 ∨ 3 ≤ scope)) ∧
    (∃ (s : State) (index : Nat), s.dev.domOn .f1 = true ∧ 3 < index) ∧
    (∃ (s : State) (index : Fin 4), s.dev.domOn .f1 = true ∧ s.dev.on (R.SHR_OUTCFG.VALID index) = true ∧ (s.dev.outState index < 2 ∨ 7 < s.dev.outState index)) ∧
    (∃ (s : State) (index : Nat), s.dev.domOn .f1 = true ∧ 20 ≤ index) ∧
    (∃ (s : State) (index : Fin 20), s.dev.domOn .f1 = true ∧ s.dev.on (R.PWM_GRPCFG.USED index) = true) ∧
    (∃ (s : State) (n : Fin 4) (mask : Fin 16), s.dev.domOn .f1 = true ∧ mask.val = 2 ^ n.val) :=
  ⟨⟨at' allOn, 0, by decide⟩,
   ⟨at' allOn, 4, by decide⟩,
   ⟨(let index : Fin 4 := 1; at' (allOn.wr (R.SHR_OUTCFG.VALID index) 1)), 1, by decide⟩,
   ⟨at' allOn, 20, by decide⟩,
   ⟨(let index : Fin 20 := 1; at' (allOn.wr (R.PWM_GRPCFG.USED index) 1)), 1, by decide⟩,
   ⟨at' allOn, 1, 2, by decide⟩⟩

theorem witness_ControlRequestsWaitForTheirTick :
    (∃ (s : State) (p : List Byte) (c : Instr) (ty : Nat), s.dev.domOn .f1 = true ∧ (c = .paramWr p ∧ ty = 0x10 ∨ c = .paramRd p ∧ ty = 0x11 ∨ c = .targetSet p ∧ ty = 0x13) ∧ s.dev.keptRsp (leAt p 0 2) ty = none ∧ (∀ r ∈ s.dev.fl.reqs, (r.tag, r.ty) ≠ (leAt p 0 2, ty)) ∧ (∀ r ∈ s.dev.fl.done, (r.req.tag, r.req.ty) ≠ (leAt p 0 2, ty))) ∧
    (∃ (s : State) (p : List Byte) (c : Instr) (ty : Nat) (m : Msg), s.dev.domOn .f1 = true ∧ (c = .paramWr p ∧ ty = 0x10 ∨ c = .paramRd p ∧ ty = 0x11 ∨ c = .targetSet p ∧ ty = 0x13) ∧ s.dev.keptRsp (leAt p 0 2) ty = some m) :=
  ⟨⟨at' allOn, [1,2,3], (let p : List Byte := [1,2,3]; .paramWr p), 0x10, by decide⟩,
   ⟨at' (let d : Dev := allOn; { d with fl := { d.fl with kept := [{ tag := leAt [1,2,3] 0 2, ty := 0x10, rsp := { ty := 0x20 } }] } }), [1,2,3], (let p : List Byte := [1,2,3]; .paramWr p), 0x10, { ty := 0x20 }, by decide⟩⟩

theorem witness_TimeSourcesAreJudged :
    (∃ (s : State) (cap : Nat), s.dev.domOn .f1 = true ∧ s.dev.isInjected 8 0 = false ∧ s.dev.on R.STC_STAT.PPSOK = true ∧ s.dev.rd R.STC_PPSCFG.WIN * 16000 < (s.dev.ppsError cap).natAbs) ∧
    (∃ (s : State) (cap : Nat), s.dev.domOn .f1 = true ∧ s.dev.isInjected 8 0 = false ∧ (s.dev.on R.STC_STAT.PPSOK = false ∨ (s.dev.ppsError cap).natAbs ≤ s.dev.rd R.STC_PPSCFG.WIN * 16000)) :=
  ⟨⟨at' ((allOn.wr R.STC_STAT.PPSOK 1).wr R.STC_PPSCFG.WIN 0), 123456, by decide⟩,
   ⟨at' allOn, 1, by decide⟩⟩

theorem witness_TheStcMovesAsTheSpecSays :
    (∃ (s : State) (e16 : Int) (sec : Bool), s.dev.domOn .f1 = true ∧ s.dev.streamActive = false ∧ s.dev.stepModeOk = true ∧ s.dev.legsSwitch = false ∧ s.dev.tm.step = some (e16, sec)) ∧
    (∃ (v : Nat), testBit v 31 = true) ∧
    (∃ (v : Nat), testBit v 31 = false) ∧
    (∃ (s : State), s.dev.rd R.STC_HOLDCFG.ERRLIM ≤ s.dev.estErr ∧ s.dev.tm.errHigh = false) ∧
    (∃ (s : State), (s.dev.estErr < s.dev.rd R.STC_HOLDCFG.ERRLIM ∨ s.dev.tm.errHigh = true)) :=
  ⟨⟨at' (let d : Dev := (allOn.wr R.STS_BANK.ACTV 0); { d with tm := { d.tm with step := some (16, false) } }), 16, false, by decide⟩,
   ⟨0x80000001, by decide⟩,
   ⟨1, by decide⟩,
   ⟨at' ((let d := allOn; { d with tm := { d.tm with errHigh := false } }).wr R.STC_HOLDCFG.ERRLIM 0), by decide⟩,
   ⟨at' (let d : Dev := allOn; { d with tm := { d.tm with errHigh := true } }), by decide⟩⟩

theorem witness_TheControlTickHasItsThreeInstants :
    (∃ (s : State), s.dev.streamActive = true ∧ s.dev.domOn .f1 = true ∧ s.dev.rd R.STS_SWAPSTAT.STATE = 1) ∧
    (∃ (s : State), s.dev.ce.latchDue = false) ∧
    (∃ (s : State), s.dev.ce.latchDue = true ∧ s.dev.ce.runTick = false) ∧
    (∃ (s : State), s.dev.ce.wDue = false) ∧
    (∃ (s : State), s.dev.ce.wDue = true ∧ s.dev.ce.runTick = false) ∧
    (∃ (s : State), s.dev.streamActive = false ∧ s.dev.domOn .f1 = true) :=
  ⟨⟨at' ((allOn.wr R.STS_BANK.ACTV 1).wr R.STS_SWAPSTAT.STATE 1), by decide⟩,
   ⟨at' (let d := allOn; { d with ce := { d.ce with latchDue := false } }), by decide⟩,
   ⟨at' (let d := (let d := allOn; { d with ce := { d.ce with latchDue := true } }); { d with ce := { d.ce with runTick := false } }), by decide⟩,
   ⟨at' (let d := allOn; { d with ce := { d.ce with wDue := false } }), by decide⟩,
   ⟨at' (let d := (let d := allOn; { d with ce := { d.ce with wDue := true } }); { d with ce := { d.ce with runTick := false } }), by decide⟩,
   ⟨at' (allOn.wr R.STS_BANK.ACTV 0), by decide⟩⟩

theorem witness_TheTickBeginsAtItsGridPoint :
    (∃ (d : Dev), 0 < d.act.timing.tick) :=
  ⟨withStream allOn { timing := { tick := 4000, phase := 7 } }, by decide⟩

theorem witness_ImageTransfersAreTakenAndChecked :
    (∃ (s : State), s.dev.domOn .f1 = true ∧ s.dev.mode ≠ .recovery ∧ s.dev.domOn .f2 = true ∧ s.dev.on R.FSEC_CFG.BULKENC = false ∧ s.dev.loadState ≠ 2 ∧ s.dev.rd R.STS_SWAPSTAT.STATE ≠ 1) ∧
    (∃ (s : State) (x : ImgXfer) (xfer : Nat) (off : Nat) (bs : List Byte), s.dev.domOn .f1 = true ∧ s.dev.st.rx = some x ∧ x.slot = none ∧ x.xfer = xfer % 2 ^ 16 ∧ off % 2 ^ 32 + bs.length ≤ x.len ∧ stagingBase + off % 2 ^ 32 + bs.length ≤ 0x1400000) ∧
    (∃ (s : State) (x : ImgXfer) (xfer : Nat) (dig : List Byte), s.dev.domOn .f1 = true ∧ s.dev.st.rx = some x ∧ x.xfer = xfer % 2 ^ 16 ∧ x.slot = none ∧ (Config.sha384 (Mem.readBytes s.dev.fmem stagingBase x.len) ≠ dig ∨ s.dev.fl.h2f.damaged.getD 0 false = true)) ∧
    (∃ (s : State) (x : ImgXfer) (xfer : Nat), s.dev.domOn .f1 = true ∧ (let img := Mem.readBytes s.dev.fmem stagingBase x.len; s.dev.st.rx = some x ∧ x.xfer = xfer % 2 ^ 16 ∧ x.slot = none ∧ s.dev.fl.h2f.damaged.getD 0 false = false ∧ s.dev.on R.FSEC_CFG.BULKENC = false ∧ leAt img 0 4 ≠ 0x4B54535A ∧ leAt img 0 4 ≠ 0x4A4E495A ∧ leAt img 0 4 ≠ 0x524C4D5A)) ∧
    (∃ (s : State), s.dev.domOn .f1 = true ∧ s.dev.loadState = 2 ∧ s.dev.st.imageSlot = none) :=
  ⟨⟨at' ((allOn.wr R.FSEC_CFG.BULKENC 0).wr R.STS_SWAPSTAT.STATE 0), by decide⟩,
   ⟨at' (let d : Dev := allOn; { d with st := { d.st with rx := some { xfer := 1, len := 16 } } }), { xfer := 1, len := 16 }, 1, 2, [1,2,3], by decide⟩,
   ⟨at' (let d : Dev := allOn; { d with st := { d.st with rx := some { xfer := 1, len := 16 } }, fl := { d.fl with h2f := { d.fl.h2f with damaged := [true] } } }), { xfer := 1, len := 16 }, 1, [1,2,3], by decide, rfl, by decide, rfl, .inr (by decide)⟩,
   ⟨at' (let d : Dev := (allOn.wr R.FSEC_CFG.BULKENC 0); { d with st := { d.st with rx := some { xfer := 1, len := 16 } } }), { xfer := 1, len := 16 }, 1, by decide⟩,
   ⟨at' ((let d := allOn; { d with st := { d.st with imageSlot := none } }).wr R.STS_LOADSTAT.STATE 2), by decide⟩⟩

theorem witness_PersistAndSwapRequests :
    (∃ (s : State) (v : Nat), s.dev.domOn .f1 = true ∧ bits v 31 16 ≠ 0x50E5) ∧
    (∃ (s : State) (v : Nat), s.dev.domOn .f1 = true ∧ bits v 31 16 = 0x50E5 ∧ s.dev.rd R.STS_PERSIST.STATE ≠ 1 ∧ s.dev.streamActive = true ∧ Config.sha384 s.dev.stagedImage = s.dev.act.digest) ∧
    (∃ (s : State) (v : Nat), s.dev.domOn .f1 = true ∧ bits v 31 16 = 0x50E5 ∧ s.dev.rd R.STS_PERSIST.STATE ≠ 1 ∧ (s.dev.streamActive = false ∨ Config.sha384 s.dev.stagedImage ≠ s.dev.act.digest)) ∧
    (∃ (s : State) (img : List Byte), s.dev.domOn .f1 = true ∧ s.dev.st.persist = some img) ∧
    (∃ (s : State), s.dev.domOn .f1 = true ∧ s.dev.rd R.STS_LOADSTAT.STATE = 3 ∧ s.dev.stcNs + 1000000 ≤ s.dev.swapAt ∧ s.dev.swapAt ≤ s.dev.stcNs + 60000000000 ∧ s.dev.mode.ceRuns = true ∧ s.dev.streamActive = true ∧ s.dev.swapCompat = true) ∧
    (∃ (s : State), s.dev.domOn .f1 = true ∧ s.dev.rd R.STS_LOADSTAT.STATE = 3 ∧ (s.dev.swapAt < s.dev.stcNs + 1000000 ∨ s.dev.stcNs + 60000000000 < s.dev.swapAt)) ∧
    (∃ (s : State), s.dev.domOn .f1 = true ∧ s.dev.rd R.STS_SWAPSTAT.STATE = 1) ∧
    (∃ (s : State), s.dev.domOn .f1 = true ∧ s.dev.rd R.STS_SWAPSTAT.STATE ≠ 1) :=
  ⟨⟨at' allOn, 1, by decide⟩,
   ⟨at' (let d : Dev := ((allOn.wr R.STS_PERSIST.STATE 0).wr R.STS_BANK.ACTV 1); withStream d { digest := Config.sha384 d.stagedImage }), 0x50E50000, by decide, by decide, by decide, by decide, rfl⟩,
   ⟨at' ((allOn.wr R.STS_PERSIST.STATE 0).wr R.STS_BANK.ACTV 0), 0x50E50000, by decide⟩,
   ⟨at' (let d : Dev := allOn; { d with st := { d.st with persist := some [1,2,3] } }), [1,2,3], by decide⟩,
   ⟨at' (((((allOn.wr R.STS_LOADSTAT.STATE 3).wr R.STS_BANK.ACTV 1).wr R.STS_SWAPAT_LO.LO 1000000).wr R.STS_SWAPAT_HI.HI 0).wr R.FSYS_MODE.MODE (Mode.code .active)), by decide⟩,
   ⟨at' (allOn.wr R.STS_LOADSTAT.STATE 3), by decide⟩,
   ⟨at' (allOn.wr R.STS_SWAPSTAT.STATE 1), by decide⟩,
   ⟨at' (allOn.wr R.STS_SWAPSTAT.STATE 0), by decide⟩⟩

theorem witness_CeInstructionsHaveTheirEffect :
    (∃ (s : State) (a : CeArgs) (i : Nat), s.dev.domOn .f2 = true ∧ s.dev.ce.bad = [] ∧ s.dev.inj.field = [] ∧ s.dev.ce.todo = [] ∧ (let m := s.dev.matOf a.mat; i < a.r ∧ i < s.dev.ce.acc.length)) ∧
    (∃ (s : State) (a : CeArgs), s.dev.domOn .f2 = true ∧ s.dev.ce.bad = [] ∧ s.dev.inj.field = [] ∧ s.dev.ce.todo = [] ∧ (let m := s.dev.matOf a.mat; s.dev.xferWrites a = true)) ∧
    (∃ (s : State) (a : CeArgs), s.dev.domOn .f2 = true ∧ s.dev.ce.bad = [] ∧ s.dev.inj.field = [] ∧ s.dev.ce.todo = [] ∧ (let m := s.dev.matOf a.mat; s.dev.xferWrites a = false)) ∧
    (∃ (s : State) (a : CeArgs), s.dev.domOn .f2 = true ∧ s.dev.ce.bad = [] ∧ s.dev.inj.field = [] ∧ s.dev.ce.todo = [] ∧ (let m := s.dev.matOf a.mat; testBit a.flags 1 = false)) :=
  ⟨⟨at' (let d := (let d := (let d := allOn; { d with ce := { d.ce with bad := [] } }); { d with inj := { d.inj with field := [] } }); { d with ce := { d.ce with todo := [] } }), { r := 2, c := 2 }, 1, by decide⟩,
   ⟨at' (let d := (let d := (let d := allOn; { d with ce := { d.ce with bad := [] } }); { d with inj := { d.inj with field := [] } }); { d with ce := { d.ce with todo := [] } }), {}, by decide⟩,
   ⟨at' (let d := (let d := (let d := allOn; { d with ce := { d.ce with bad := [] } }); { d with inj := { d.inj with field := [] } }); { d with ce := { d.ce with todo := [] } }), { flags := 2 }, by decide⟩,
   ⟨at' (let d := (let d := (let d := allOn; { d with ce := { d.ce with bad := [] } }); { d with inj := { d.inj with field := [] } }); { d with ce := { d.ce with todo := [] } }), {}, by decide⟩⟩

theorem witness_ProgramDestinationsAreWrittenOnce :
    (∃ (d : Dev) (n : Nat) (k : Nat), d.sigKept n = false ∧ n < d.ce.sig.length ∧ k ≠ n) ∧
    (∃ (d : Dev) (n : Nat) (b : Bool), d.sigKept n = false ∧ n < d.ce.sig.length ∧ b = false) ∧
    (∃ (d : Dev) (n : Nat) (b : Bool), d.sigKept n = false ∧ n < d.ce.sig.length ∧ b = true) ∧
    (∃ (d : Dev) (n : Nat), d.sigKept n = true) ∧
    (∃ (rmax : Nat) (v : Int) (t : Int), rmax ≠ 0 ∧ -2 ^ 31 ≤ v ∧ v < 2 ^ 31 ∧ -2 ^ 31 ≤ t ∧ t < 2 ^ 31) :=
  ⟨⟨allOn, 1, 2, by decide⟩,
   ⟨allOn, 1, false, by decide⟩,
   ⟨allOn, 1, true, by decide⟩,
   ⟨{ (withStream allOn { blks := [{ blk := 0, ubase := 1, nu := 1 }] }) with ce := { allOn.ce with xfer := [true] } }, 1, by decide⟩,
   ⟨1, 5, 5, by decide⟩⟩

theorem witness_DebugHaltAndManualRequests :
    (∃ (s : State), s.dev.domOn .f2 = true ∧ s.dev.mode ≠ .service) ∧
    (∃ (s : State), s.dev.domOn .f2 = true ∧ s.dev.rd R.CEN_STAT.RUN = 2 ∧ s.dev.mode = .service) ∧
    (∃ (s : State), s.dev.domOn .f2 = true ∧ (s.dev.rd R.CEN_STAT.RUN ≠ 2 ∨ s.dev.mode ≠ .service)) ∧
    (∃ (s : State) (b : Fin 8) (x : Blk), s.dev.domOn .f2 = true ∧ s.dev.blk? b = some x ∧ x.manBase ≠ 0xFFFF) ∧
    (∃ (s : State) (b : Fin 8) (x : Blk), s.dev.domOn .f2 = true ∧ s.dev.blk? b = some x ∧ x.manBase = 0xFFFF) ∧
    (∃ (s : State) (b : Fin 8) (v : Nat), s.dev.domOn .f2 = true ∧ testBit v 0 = true ∧ b.val < s.dev.dgr.blk.length) ∧
    (∃ (s : State) (b : Fin 8) (v : Nat), s.dev.domOn .f2 = true ∧ Nat.land v (s.dev.lost b) ≠ 0 ∧ s.dev.mode.readyOrLower = true) ∧
    (∃ (s : State) (b : Fin 8) (v : Nat), s.dev.domOn .f2 = true ∧ Nat.land v (s.dev.lost b) ≠ 0 ∧ s.dev.mode.readyOrLower = false ∧ s.dev.ce.man.getD b false = false) :=
  ⟨⟨at' allOn, by decide⟩,
   ⟨at' ((allOn.wr R.CEN_STAT.RUN 2).wr R.FSYS_MODE.MODE (Mode.code .service)), by decide⟩,
   ⟨at' allOn, by decide⟩,
   ⟨at' (let d : Dev := allOn; withStream d { blks := [{ blk := 1, manBase := 5 }] }), 1, { blk := 1, manBase := 5 }, by decide⟩,
   ⟨at' (let d : Dev := allOn; withStream d { blks := [{ blk := 1 }] }), 1, { blk := 1 }, by decide⟩,
   ⟨at' allOn, 1, 1, by decide⟩,
   ⟨at' (allOn.wr (R.DGR_LOST.LOST 1) 3), 1, 1, by decide⟩,
   ⟨at' ((allOn.wr (R.DGR_LOST.LOST 1) 3).wr R.FSYS_MODE.MODE (Mode.code .active)), 1, 1, by decide⟩⟩

theorem witness_AxesCountAndChangeState :
    (∃ (s : State) (n : Fin 4) (a : Bool) (b : Bool), s.dev.domOn .f2 = true ∧ s.dev.on (R.LAW_AXCFG.ENCEN n) = true ∧ (s.dev.axis n).a ≠ a ∧ (s.dev.axis n).b ≠ b ∧ n.val < s.dev.ce.axes.length) ∧
    (∃ (s : State) (n : Fin 4) (a : Bool) (b : Bool), s.dev.domOn .f2 = true ∧ s.dev.on (R.LAW_AXCFG.ENCEN n) = true ∧ ((s.dev.axis n).a = a ∧ (s.dev.axis n).b ≠ b ∨ (s.dev.axis n).a ≠ a ∧ (s.dev.axis n).b = b) ∧ n.val < s.dev.ce.axes.length) ∧
    (∃ (s : State) (n : Fin 4), s.dev.domOn .f2 = true ∧ s.dev.on (R.LAW_AXCFG.ZEN n) = true ∧ s.dev.on (R.LAW_AXSTAT.ZVALID n) = false ∧ n.val < s.dev.ce.axes.length) ∧
    (∃ (s : State) (n : Fin 4), s.dev.domOn .f2 = true ∧ s.dev.axisState n = 0 ∧ axisMode s.dev.mode = true) ∧
    (∃ (s : State) (n : Fin 4), s.dev.domOn .f2 = true ∧ s.dev.axisState n = 1) ∧
    (∃ (s : State) (n : Fin 4), s.dev.domOn .f2 = true ∧ s.dev.axisState n = 2) ∧
    (∃ (s : State) (n : Fin 4), s.dev.domOn .f2 = true ∧ s.dev.axisState n = 3) ∧
    (∃ (s : State) (n : Fin 4), s.dev.domOn .f2 = true ∧ s.dev.axisState n ≠ 3) :=
  ⟨⟨(let n : Fin 4 := 1; at' (allOn.wr (R.LAW_AXCFG.ENCEN n) 1)), 1, true, true, by decide⟩,
   ⟨(let n : Fin 4 := 1; at' (allOn.wr (R.LAW_AXCFG.ENCEN n) 1)), 1, true, false, by decide⟩,
   ⟨(let n : Fin 4 := 1; at' ((allOn.wr (R.LAW_AXCFG.ZEN n) 1).wr (R.LAW_AXSTAT.ZVALID n) 0)), 1, by decide⟩,
   ⟨at' (allOn.wr R.FSYS_MODE.MODE (Mode.code .active)), 1, by decide⟩,
   ⟨at' (allOn.wr (R.LAW_AXSTAT.STATE 1) 1), 1, by decide⟩,
   ⟨at' (allOn.wr (R.LAW_AXSTAT.STATE 1) 2), 1, by decide⟩,
   ⟨at' (allOn.wr (R.LAW_AXSTAT.STATE 1) 3), 1, by decide⟩,
   ⟨at' allOn, 1, by decide⟩⟩

theorem witness_PwmCommandsOfGroupsAndLegs :
    (∃ (s : State), s.dev.domOn .f3 = true ∧ s.dev.rd R.PWM_SYNCSTAT.STATE = 0) ∧
    (∃ (s : State), s.dev.domOn .f3 = true ∧ (s.dev.rd R.PWM_SYNCSTAT.STATE = 1 ∨ s.dev.rd R.PWM_SYNCSTAT.STATE = 2)) ∧
    (∃ (s : State), s.dev.domOn .f3 = true ∧ s.dev.on R.PWM_SYNCCFG.EN = false) ∧
    (∃ (s : State), s.dev.domOn .f3 = true ∧ s.dev.on R.PWM_SYNCCFG.EN = true ∧ 0 < s.dev.grpP s.dev.refGroup) ∧
    (∃ (s : State) (n : Fin 80), s.dev.domOn .f3 = true ∧ s.dev.legUsed n = false) ∧
    (∃ (s : State) (n : Fin 80), s.dev.domOn .f3 = true ∧ s.dev.legUsed n = true ∧ 0 < s.dev.rd (R.PWM_PER.VALUE (n / 4))) :=
  ⟨⟨at' (allOn.wr R.PWM_SYNCSTAT.STATE 0), by decide⟩,
   ⟨at' (allOn.wr R.PWM_SYNCSTAT.STATE 2), by decide⟩,
   ⟨at' (allOn.wr R.PWM_SYNCCFG.EN 0), by decide⟩,
   ⟨at' ((((allOn.wr R.PWM_SYNCCFG.EN 1).wr (R.PWM_PER.VALUE 0) 100).wr (R.PWM_GRPSTAT.DIVACT 0) 1).wr R.PWM_SYNCSTAT.STATE 1), by decide⟩,
   ⟨at' allOn, 1, by decide⟩,
   ⟨at' ((allOn.wr (R.PWM_LEGCFG.USED 0 1) 1).wr (R.PWM_PER.VALUE 0) 100), 1, by decide⟩⟩

theorem witness_TripInputsLatchAndClear :
    (∃ (s : State) (i : Fin 96), s.dev.domOn .f1 = true ∧ (s.dev.tripRec i).action = 0 ∧ s.dev.tripActive i = false ∧ i.val < s.dev.pwm.inputs.length) ∧
    (∃ (s : State) (i : Fin 96), s.dev.domOn .f1 = true ∧ (s.dev.tripRec i).action = 1 ∧ (s.dev.tripRec i).filt = 0 ∧ s.dev.tripActive i = false ∧ i.val < s.dev.pwm.inputs.length) ∧
    (∃ (s : State) (i : Fin 96), s.dev.domOn .f1 = true ∧ (s.dev.tripRec i).action = 1 ∧ (s.dev.tripIn i).waits = true ∧ s.dev.tripActive i = true) ∧
    (∃ (s : State) (i : Fin 96), s.dev.domOn .f1 = true ∧ (s.dev.tripIn i).waits = false) ∧
    (∃ (s : State) (i : Fin 96), s.dev.domOn .f1 = true ∧ s.dev.tripActive i = true ∧ (s.dev.setTripIn i { s.dev.tripIn i with low := false }).tripActive i = false ∧ (s.dev.tripIn i).waits = true ∧ i.val < s.dev.pwm.inputs.length) ∧
    (∃ (s : State) (word : Fin 3) (b : Fin 32), s.dev.domOn .f1 = true ∧ (let i := 32 * word.val + b.val; testBit (s.dev.rd (R.TRP_STAT.LATCH word)) b = true ∧ s.dev.tripActive i = false ∧ (s.dev.tripIn i).rose + 1000 * s.dev.rd R.TRP_CFG.TREARM ≤ s.dev.stcNs)) ∧
    (∃ (s : State) (v : Nat), s.dev.domOn .f1 = true ∧ testBit v 31 = true ∧ s.dev.on R.TRP_SWSTAT.DEV = true ∧ s.dev.gooseDevHold = false) ∧
    (∃ (s : State) (v : Nat), s.dev.domOn .f1 = true ∧ testBit v 31 = true ∧ s.dev.on R.TRP_SWSTAT.DEV = true ∧ s.dev.gooseDevHold = true) ∧
    (∃ (s : State) (g : Fin 20) (c : Fin 4), s.dev.domOn .f1 = true ∧ s.dev.on (R.PWM_TRGCFG.EN g c) = false) ∧
    (∃ (s : State) (g : Fin 20) (c : Fin 4), s.dev.domOn .f1 = true ∧ s.dev.domOn .f3 = true ∧ s.dev.on (R.PWM_TRGCFG.EN g c) = true ∧ 0 < s.dev.rd (R.PWM_PER.VALUE g) ∧ s.dev.rd (R.PWM_TRGCFG.TARGET g c) = 0) :=
  ⟨⟨at' allOn, 1, by decide⟩,
   ⟨at' (let d : Dev := allOn; withStream d { trips := [{}, { action := 1, filt := 0, legMask := 3, outMask := 1 }] }), 1, by decide⟩,
   ⟨at' (let d : Dev := allOn; { (withStream d { trips := [{}, { action := 1, filt := 0, legMask := 3, outMask := 1 }] }) with pwm := { d.pwm with inputs := setAt d.pwm.inputs 1 { low := true, waits := true } } }), 1, by decide⟩,
   ⟨at' allOn, 1, by decide⟩,
   ⟨at' (let d : Dev := allOn; { (withStream d { trips := [{}, { action := 1, filt := 0, legMask := 3, outMask := 1 }] }) with pwm := { d.pwm with inputs := setAt d.pwm.inputs 1 { low := true, waits := true } } }), 1, by decide⟩,
   ⟨at' (let d : Dev := allOn; { d.wr (R.TRP_STAT.LATCH 1) 2 with tm := { d.tm with q := 1000000 } }), 1, 1, by decide⟩,
   ⟨at' (allOn.wr R.TRP_SWSTAT.DEV 1), 0x80000000, by decide⟩,
   ⟨at' (((allOn.wr R.TRP_SWSTAT.DEV 1).wr (R.SVG_GSACT.ACTION 1) 3).wr (R.SVG_GSSTAT.HOLD 1) 1), 0x80000000, by decide⟩,
   ⟨(let g : Fin 20 := 1; let c : Fin 4 := 1; at' (allOn.wr (R.PWM_TRGCFG.EN g c) 0)), 1, 1, by decide⟩,
   ⟨(let g : Fin 20 := 1; let c : Fin 4 := 1; at' (((allOn.wr (R.PWM_TRGCFG.EN g c) 1).wr (R.PWM_TRGCFG.TARGET g c) 0).wr (R.PWM_PER.VALUE 1) 100)), 1, 1, by decide⟩⟩

theorem witness_ConverterSlotsServeControlFirst :
    (∃ (s : State) (conv : Fin 2) (ch : Nat) (rest : List Nat), s.dev.domOn .f4 = true ∧ (let k := max (numAt s.dev.fba.slot conv) ((s.dev.tm.q + 199) / 200); (let d := ({ s.dev with fba := { s.dev.fba with slot := setAt s.dev.fba.slot conv (k + 1) } }).advanceTo (200 * k); s.dev.fba.ctlTodo.getD conv [] = ch :: rest ∧ ch < s.dev.fba.ctl.length ∧ conv.val < s.dev.fba.ctlTodo.length))) ∧
    (∃ (s : State) (conv : Fin 2) (ch : Nat) (rest : List Nat), s.dev.domOn .f4 = true ∧ (let k := max (numAt s.dev.fba.slot conv) ((s.dev.tm.q + 199) / 200); (let d := ({ s.dev with fba := { s.dev.fba with slot := setAt s.dev.fba.slot conv (k + 1) } }).advanceTo (200 * k); s.dev.fba.ctlTodo.getD conv [] = [] ∧ s.dev.fba.trigTodo.getD conv [] = ch :: rest ∧ ch < s.dev.fba.trig.length ∧ conv.val < s.dev.fba.trigTodo.length))) ∧
    (∃ (s : State) (conv : Fin 2) (ch : Nat), s.dev.domOn .f4 = true ∧ (let k := max (numAt s.dev.fba.slot conv) ((s.dev.tm.q + 199) / 200); (let d := ({ s.dev with fba := { s.dev.fba with slot := setAt s.dev.fba.slot conv (k + 1) } }).advanceTo (200 * k); s.dev.fba.ctlTodo.getD conv [] = [] ∧ s.dev.fba.trigTodo.getD conv [] = [] ∧ numAt s.dev.fba.starts conv = 0 ∧ d.scanDue conv (500 * k) = some ch ∧ ch < 32 ∧ s.dev.on (R.FBA_CHCFG.GUARD ch) = false ∧ s.dev.on (R.FBA_CHCFG.INTEG ch) = false))) ∧
    (∃ (s : State) (conv : Fin 2), s.dev.domOn .f4 = true ∧ (let k := max (numAt s.dev.fba.slot conv) ((s.dev.tm.q + 199) / 200); (let d := ({ s.dev with fba := { s.dev.fba with slot := setAt s.dev.fba.slot conv (k + 1) } }).advanceTo (200 * k); s.dev.fba.ctlTodo.getD conv [] = [] ∧ s.dev.fba.trigTodo.getD conv [] = [] ∧ numAt s.dev.fba.starts conv = 0 ∧ d.scanDue conv (500 * k) = none))) :=
  ⟨⟨at' (let d : Dev := allOn; { d with fba := { d.fba with ctlTodo := [[], [7, 8]] } }), 1, 7, [8], by decide⟩,
   ⟨at' (let d : Dev := allOn; { d with fba := { d.fba with trigTodo := [[], [7, 8]] } }), 1, 7, [8], by decide⟩,
   ⟨(let ch : Nat := 17; at' (let d : Dev := ((allOn.wr (R.FBA_CHCFG.GUARD ch) 0).wr (R.FBA_CHCFG.INTEG ch) 0); { (d.wr (R.FBA_CHCFG.RATE 17) 1) with fba := { d.fba with dueDone := setAt (List.replicate 68 1000000) 17 0 }, tm := { d.tm with q := 1000000 } })), 1, 17, by decide⟩,
   ⟨at' allOn, 1, by decide⟩⟩

theorem witness_InsulationMonitorsMeasure :
    (∃ (s : State) (n : Fin 4), s.dev.domOn .f4 = true ∧ s.dev.rd (R.IMD_CTL.STATUS n) = 0 ∧ n.val < s.dev.imd.length) ∧
    (∃ (s : State) (n : Fin 4), s.dev.domOn .f4 = true ∧ s.dev.rd (R.IMD_CTL.STATUS n) ≠ 0) ∧
    (∃ (s : State) (n : Fin 4), s.dev.domOn .f4 = true ∧ s.dev.rd (R.IMD_CTL.STATUS n) = 1 ∧ (s.dev.imdRt n).half < 2 ∧ n.val < s.dev.imd.length) ∧
    (∃ (s : State) (n : Fin 4) (xp : Int) (xn : Int), s.dev.domOn .f4 = true ∧ s.dev.rd (R.IMD_CTL.STATUS n) = 1 ∧ 2 ≤ (s.dev.imdRt n).half ∧ (s.dev.imdRt n).half % 2 = 1 ∧ n.val < s.dev.imd.length ∧ s.dev.imdSettled n = some xn ∧ (s.dev.imdRt n).xp = some xp ∧ s.dev.injected 11 n = none) :=
  ⟨⟨(let n : Fin 4 := 1; at' (allOn.wr (R.IMD_CTL.STATUS n) 0)), 1, by decide⟩,
   ⟨(let n : Fin 4 := 1; at' (allOn.wr (R.IMD_CTL.STATUS n) 1)), 1, by decide⟩,
   ⟨(let n : Fin 4 := 1; at' (allOn.wr (R.IMD_CTL.STATUS n) 1)), 1, by decide⟩,
   ⟨(let n : Fin 4 := 1; at' (let d : Dev := (allOn.wr (R.IMD_CTL.STATUS n) 1); { d with imd := setAt d.imd 1 { half := 3, samples := List.replicate 16 100, xp := some 9000 } })), 1, 9000, 100, by decide⟩⟩

theorem witness_SequencerRunsItsSteps :
    (∃ (s : State) (q : Nat), s.dev.domOn .f4 = true ∧ s.dev.ctrRefusal (q % 64) = 0) ∧
    (∃ (s : State) (q : Nat), s.dev.domOn .f4 = true ∧ s.dev.ctrRefusal (q % 64) ≠ 0) ∧
    (∃ (s : State) (fb : Nat) (e : Fin 8), s.dev.domOn .f4 = true ∧ (let a := s.dev.advanceTo ((s.dev.tm.q + 3999) / 4000 * 4000); (let d := ({ a with ctr := { a.ctr with raw := some fb } }).fbSample fb; s.dev.engBusy e = true ∧ (s.dev.engRt e).fresh = true ∧ (∀ k : Nat, k < 8 → k ≠ e.val → s.dev.engBusy k = false) ∧ (s.dev.engStep e).op = 1 ∧ d.ilkOk (d.engRt e).defs (d.engStep e) = true))) ∧
    (∃ (s : State) (fb : Nat) (e : Fin 8), s.dev.domOn .f4 = true ∧ (let a := s.dev.advanceTo ((s.dev.tm.q + 3999) / 4000 * 4000); (let d := ({ a with ctr := { a.ctr with raw := some fb } }).fbSample fb; s.dev.engBusy e = true ∧ (s.dev.engRt e).fresh = true ∧ (∀ k : Nat, k < 8 → k ≠ e.val → s.dev.engBusy k = false) ∧ (s.dev.engStep e).op = 1 ∧ d.ilkOk (d.engRt e).defs (d.engStep e) = false ∧ (s.dev.engRt e).defs.failOf (s.dev.engRt e).seq = none ∧ s.dev.rd (R.CTR_ENG.STATE e) = 1))) ∧
    (∃ (s : State) (e : Fin 8), s.dev.domOn .f4 = true ∧ s.dev.rd (R.CTR_ENG.STATE e) = 1 ∧ (s.dev.engRt e).fresh = false ∧ (s.dev.engStep e).op = 1 ∧ ((s.dev.engRt e).defs.coil (s.dev.engStep e).arg).fb ≠ 0xFF ∧ s.dev.coilClosed (s.dev.engStep e).arg = false ∧ (s.dev.engRt e).defs.failOf (s.dev.engRt e).seq = none) ∧
    (∃ (s : State) (c : Fin 48), s.dev.domOn .f4 = true ∧ (∀ e : Nat, e < 8 → s.dev.engBusy e = false) ∧ (s.dev.act.ctr.coil c).fb ≠ 0xFF ∧ s.dev.coilOn c ≠ s.dev.coilClosed c) :=
  ⟨⟨at' (let d : Dev := allOn; ((withStream d { ctr := { coils := [{ coil := 0 }, { coil := 1, fb := 3 }], seqs := [{ seq := 1, first := 0, nsteps := 2 }], steps := [{ op := 1, arg := 1 }, { op := 2, arg := 1 }], ilks := [] } }).wr R.CTR_CTL.STATUS 1).wr R.FSYS_MODE.MODE (Mode.code .active)), 1, by decide⟩,
   ⟨at' allOn, 1, by decide⟩,
   ⟨at' (let d : Dev := allOn; let d := d.wr (R.CTR_ENG.STATE 1) 1; { d with ctr := { d.ctr with eng := setAt d.ctr.eng 1 { defs := { coils := [{ coil := 0 }, { coil := 1, fb := 3 }], seqs := [{ seq := 1, first := 0, nsteps := 2 }], steps := [{ op := 1, arg := 1 }, { op := 2, arg := 1 }], ilks := [] }, started := 1, seq := 1, fresh := true } } }), 1, 1, by decide⟩,
   ⟨(let e : Fin 8 := 1; at' (let d : Dev := (allOn.wr (R.CTR_ENG.STATE e) 1); { d with ctr := { d.ctr with eng := setAt d.ctr.eng 1 { defs := { coils := [{ coil := 0 }, { coil := 1, fb := 3 }], seqs := [{ seq := 1, first := 0, nsteps := 2 }], steps := [{ op := 1, arg := 1 }, { op := 2, arg := 1 }], ilks := [{ a := 1, b := 0, require := true }] }, started := 1, seq := 1, fresh := true } } })), 1, 1, by decide⟩,
   ⟨(let e : Fin 8 := 1; at' (let d : Dev := (allOn.wr (R.CTR_ENG.STATE e) 1); { d with ctr := { d.ctr with eng := setAt d.ctr.eng 1 { defs := { coils := [{ coil := 0 }, { coil := 1, fb := 3 }], seqs := [{ seq := 1, first := 0, nsteps := 2 }], steps := [{ op := 1, arg := 1 }, { op := 2, arg := 1 }], ilks := [] }, started := 1, seq := 1, fresh := false } } })), 1, by decide⟩,
   ⟨at' (let d : Dev := allOn; (withStream d { ctr := { coils := [{ coil := 0 }, { coil := 1, fb := 3 }], seqs := [{ seq := 1, first := 0, nsteps := 2 }], steps := [{ op := 1, arg := 1 }, { op := 2, arg := 1 }], ilks := [] } }).wr (R.CTR_COIL.BIT 0) 2), 1, by decide⟩⟩

theorem witness_SheddingAndTheMeasurementSources :
    (∃ (s : State), s.dev.domOn .f2 = true ∧ (let d := s.dev.advanceTo ((s.dev.tm.q + 3999999) / 4000000 * 4000000); s.dev.on R.DGR_SHED.EN = false)) ∧
    (∃ (s : State) (b : DetBlk) (r : LossRow), s.dev.domOn .f2 = true ∧ (let d := s.dev.advanceTo ((s.dev.tm.q + 3999999) / 4000000 * 4000000); s.dev.on R.DGR_SHED.EN = true ∧ (s.dev.mode = .active ∨ s.dev.mode = .derate ∨ s.dev.mode = .autonomous) ∧ s.dev.pw.fmpRestart = false ∧ s.dev.act.detBlks = [b] ∧ b.shed = true ∧ s.dev.ce.man.getD b.blk false = false ∧ (s.dev.dblk b.blk).win = none ∧ (s.dev.dblk b.blk).queued = none ∧ (s.dev.act.loss.filter (fun x => x.blk == b.blk)).find? (fun x => decide (x.pmin ≤ d.shedPower b.blk) && decide (d.shedPower b.blk < x.pmax)) = some r)) :=
  ⟨⟨at' (allOn.wr R.DGR_SHED.EN 0), by decide⟩,
   ⟨at' (let d : Dev := (let d := (allOn.wr R.DGR_SHED.EN 1); { d with pw := { d.pw with fmpRestart := false } }); (withStream d { detBlks := [{ blk := 1, shed := true }], loss := [{ blk := 1, count := 2, cardiv := 1, pmin := 0, pmax := 10 }] }).wr R.FSYS_MODE.MODE (Mode.code .active)), { blk := 1, shed := true }, { blk := 1, count := 2, cardiv := 1, pmin := 0, pmax := 10 }, by decide⟩⟩

theorem witness_SharingAndDerating :
    (∃ (s : State) (v : Nat), s.dev.domOn .f4 = true ∧ testBit v 31 = true) ∧
    (∃ (s : State) (v : Nat), s.dev.domOn .f4 = true ∧ testBit v 31 = false) ∧
    (∃ (s : State) (r : ShrRec) (p : Fin 2), s.dev.domOn .f4 = true ∧ s.dev.shr.own = some r ∧ s.dev.on R.SHR_GRP.AUTH = false ∧ p.val < s.dev.net.ports.length) ∧
    (∃ (s : State), s.dev.domOn .f4 = true ∧ s.dev.shr.own = none) ∧
    (∃ (s : State) (bs : List Byte), s.dev.domOn .f4 = true ∧ s.dev.shr.frame < leAt (padTo bs 144) 4 8) ∧
    (∃ (s : State) (bs : List Byte), s.dev.domOn .f4 = true ∧ (let r := padTo bs 144; leAt r 4 8 = s.dev.shr.frame ∧ s.dev.stcNs ≤ s.dev.shr.frame * 1000000 + 700000 ∧ s.dev.shr.frame = s.dev.stcNs / 1000000 ∧ leAt r 0 1 = 1 ∧ leAt r 12 4 = s.dev.rd R.SHR_GROUPID.ID ∧ leAt r 1 1 ≠ s.dev.devno ∧ leAt r 1 1 < 32 ∧ testBit s.dev.memberMask (leAt r 1 1) = true ∧ s.dev.recMatches r = true ∧ s.dev.on R.SHR_GRP.AUTH = false ∧ s.dev.isInjected 15 (leAt r 1 1) = false ∧ s.dev.shr.conflict = [] ∧ s.dev.shr.used = [])) ∧
    (∃ (s : State) (bs : List Byte), s.dev.domOn .f4 = true ∧ leAt (padTo bs 144) 4 8 ≤ s.dev.shr.frame ∧ leAt (padTo bs 144) 4 8 < s.dev.stcNs / 1000000) ∧
    (∃ (s : State), s.dev.domOn .f4 = true ∧ s.dev.derateCond = true ∧ s.dev.shr.derating = false ∧ s.dev.pw.engaged = true) ∧
    (∃ (s : State), s.dev.domOn .f4 = true ∧ s.dev.derateCond = false ∧ s.dev.shr.limited = true ∧ s.dev.rd R.SHR_DERATE.FT + 100 < 1000) :=
  ⟨⟨at' allOn, 0x80000005, by decide⟩,
   ⟨at' allOn, 1, by decide⟩,
   ⟨at' (let d : Dev := (allOn.wr R.SHR_GRP.AUTH 0); { d with shr := { d.shr with own := some { frame := 7, bytes := [1,2,3] } } }), { frame := 7, bytes := [1,2,3] }, 1, by decide⟩,
   ⟨at' (let d := allOn; { d with shr := { d.shr with own := none } }), by decide⟩,
   ⟨at' allOn, [0,0,0,0,9], by decide⟩,
   ⟨at' (let d : Dev := (let d := (let d := (allOn.wr R.SHR_GRP.AUTH 0); { d with shr := { d.shr with conflict := [] } }); { d with shr := { d.shr with used := [] } }); { ((d.wr R.SHR_MEMBER.VALUE 3).wr R.SHR_GRP.DEVNO 0) with shr := { d.shr with frame := 5 }, tm := { d.tm with q := 2100000 } }), [1,1,0,0,5,0,0,0,0,0,0,0,0,0,0,0] ++ leBytes 4 (allOn.rd R.SHR_LIMIT.VALUE) ++ leBytes 4 (allOn.rd R.SHR_MARGIN.VALUE) ++ [3], by decide⟩,
   ⟨at' (let d : Dev := allOn; { d with tm := { d.tm with q := 2100000 } }), [1], by decide⟩,
   ⟨at' (let d : Dev := (let d := (let d := allOn; { d with shr := { d.shr with derating := false } }); { d with pw := { d.pw with engaged := true } }); { d.wr R.SHR_DERATE.REQ 1 with pw := { d.pw with engaged := true }, shr := { d.shr with derating := false } }), by decide⟩,
   ⟨at' ((let d := allOn; { d with shr := { d.shr with limited := true } }).wr R.SHR_DERATE.FT 500), by decide⟩⟩

theorem witness_AllocationKeepsTheBudget :
    (∃ (es : List FillEntry) (b : Nat) (i : Nat) (x : FillEntry) (y : FillEntry), (∀ e ∈ es, e.a = 0 ∧ e.flr ≤ e.req) ∧ i < es.length ∧ es[i]? = some x ∧ (allocate es b)[i]? = some y) ∧
    (∃ (es : List FillEntry) (b : Nat) (e : FillEntry), (∀ e ∈ es, e.a = 0 ∧ e.flr ≤ e.req) ∧ (es.map (fun e => e.req)).sum ≤ b ∧ (∀ e ∈ es, e.cls < 8)) :=
  ⟨⟨[⟨0,0,1,100,20,0⟩,⟨1,0,2,100,50,0⟩,⟨1,1,2,30,0,0⟩], 150, 1, ⟨1,0,2,100,50,0⟩, (let es : List FillEntry := [⟨0,0,1,100,20,0⟩,⟨1,0,2,100,50,0⟩,⟨1,1,2,30,0,0⟩]; let b : Nat := 150; let i : Nat := 1; ((allocate es b)[i]?).getD ⟨0,0,0,0,0,0⟩), by decide⟩,
   ⟨[⟨0,0,1,100,20,0⟩,⟨1,0,2,100,50,0⟩,⟨1,1,2,30,0,0⟩], 1000, ⟨0,0,1,100,20,100⟩, by decide⟩⟩

theorem witness_RoutingMovesOneModule :
    (∃ (s : State), s.dev.domOn .f4 = true ∧ (let d := s.dev.advanceTo s.dev.next100ms; s.dev.on R.SHR_RTCFG.EN = false)) ∧
    (∃ (s : State) (rcv : Nat) (frm : Nat) (g : Nat) (v : Nat) (m : ModRec) (m' : ModRec), s.dev.domOn .f4 = true ∧ (let d := s.dev.advanceTo s.dev.next100ms; s.dev.on R.SHR_RTCFG.EN = true ∧ (s.dev.mode = .active ∨ s.dev.mode = .derate ∨ s.dev.mode = .autonomous) ∧ s.dev.rd R.SHR_RTSTAT.PHASE = 0 ∧ s.dev.pw.fmpRestart = false ∧ argMax (([0, 1, 2, 3].map (fun n => (n, d.rtDeficit n))).filter (fun x => decide (0 < x.2))) = some rcv ∧ (let movable := d.routeGroups.filterMap (fun g => if d.rtSeq g rcv = 0x3F then none else ((d.routable.find? (fun q => q.1.group == g && d.routed q.1)).map (fun q => (g, q.2)))); argMax (([0, 1, 2, 3].filter (fun n => movable.any (fun x => x.2 == n) && decide (n ≠ rcv) && decide (d.rtDeficit n < 0))).map
        (fun n => (n, -(d.rtDeficit n)))) = some frm ∧ movable.find? (fun x => x.2 == frm) = some (g, frm) ∧ d.routeMod g frm = some m ∧ d.routeMod g rcv = some m' ∧ d.moduleVariant m.blk m.mod false = some v ∧ rcv < 4 ∧ frm < 4 ∧ g < 20 ∧ m.blk < s.dev.dgr.blk.length))) ∧
    (∃ (s : State), s.dev.domOn .f4 = true ∧ (let d := s.dev.advanceTo s.dev.next100ms; s.dev.rd R.SHR_RTSTAT.PHASE = 2 ∧ s.dev.rt.donor < s.dev.dgr.blk.length)) ∧
    (∃ (s : State), s.dev.domOn .f4 = true ∧ (let d := s.dev.advanceTo s.dev.next100ms; s.dev.rd R.SHR_RTSTAT.PHASE ≠ 2)) :=
  ⟨⟨at' (allOn.wr R.SHR_RTCFG.EN 0), by decide⟩,
   ⟨at' (let d : Dev := (let d := ((allOn.wr R.SHR_RTCFG.EN 1).wr R.SHR_RTSTAT.PHASE 0); { d with pw := { d.pw with fmpRestart := false } }); (((withStream d { mods := [{ blk := 0, mod := 0, group := 5 }, { blk := 1, mod := 0, group := 5 }], detBlks := [{ blk := 0, outmask := 1 }, { blk := 1, outmask := 2 }], attrs := [{ blk := 0, index := 0, active := 1 }, { blk := 0, index := 1, active := 0 }, { blk := 1, index := 0, active := 0 }, { blk := 1, index := 1, active := 1 }], vars := [{ key := 9, blk := 0, index := 1 }] }).wr (R.SHR_REQSENT.W 1) 1).wr (R.SHR_RTMAP.SEQ1 5) 2).wr R.FSYS_MODE.MODE (Mode.code .active)), 1, 0, 5, 1, { blk := 0, mod := 0, group := 5 }, { blk := 1, mod := 0, group := 5 }, by decide⟩,
   ⟨at' (allOn.wr R.SHR_RTSTAT.PHASE 2), by decide⟩,
   ⟨at' (allOn.wr R.SHR_RTSTAT.PHASE 0), by decide⟩⟩

theorem witness_FieldPortsAndSiteTimeMessages :
    (∃ (s : State) (p : Fin 2) (f : List Byte), s.dev.domOn .f4 = true ∧ s.dev.portUp p = true ∧ 1522 < f.length + 4) ∧
    (∃ (s : State) (p : Fin 2) (f : List Byte), s.dev.domOn .f4 = true ∧ s.dev.portUp p = true ∧ f.length + 4 ≤ 1522 ∧ s.dev.rxClass (etherType f) = none) ∧
    (∃ (s : State) (p : Fin 2) (f : List Byte) (c : Nat), s.dev.domOn .f4 = true ∧ s.dev.portUp p = true ∧ f.length + 4 ≤ 1522 ∧ s.dev.rxClass (etherType f) = some c ∧ (f.length + 4 + 255) / 256 + (s.dev.cellsUsed c).1 ≤ (classReserve c).1 ∧ c < s.dev.net.cells.length) ∧
    (∃ (s : State) (p : Fin 2) (q : Nat) (f : TxFrame) (rest : List TxFrame), s.dev.domOn .f4 = true ∧ s.dev.on (R.FNET_PORT.LINK p) = true ∧ s.dev.rd (R.FNET_PORT.STATUS p) = 1 ∧ s.dev.txPick p = some q ∧ (s.dev.port p).queues.getD q [] = f :: rest ∧ p.val < s.dev.net.ports.length) ∧
    (∃ (s : State) (p : Fin 2) (rs : Int) (c0 : Int) (md : Int) (seq : Nat), s.dev.domOn .f4 = true ∧ s.dev.pw.fmpRestart = false ∧ p.val < s.dev.net.ptp.length ∧ (s.dev.ptp p).sync = some (seq, rs, c0) ∧ (s.dev.ptp p).delay = some md) ∧
    (∃ (s : State) (p : Fin 2), s.dev.domOn .f4 = true ∧ s.dev.pw.fmpRestart = false ∧ s.dev.portUp p = true ∧ p.val < s.dev.net.ptp.length ∧ p.val < s.dev.tm.pdelaySeq.length) :=
  ⟨⟨at' ((allOn.wr (R.FNET_PORT.STATUS 1) 1).wr (R.FNET_PORT.LINK 1) 1), 1, List.replicate 1600 0, by decide⟩,
   ⟨at' ((allOn.wr (R.FNET_PORT.STATUS 1) 1).wr (R.FNET_PORT.LINK 1) 1), 1, List.replicate 12 0 ++ [0x12, 0x34] ++ List.replicate 46 0, by decide⟩,
   ⟨at' ((allOn.wr (R.FNET_PORT.STATUS 1) 1).wr (R.FNET_PORT.LINK 1) 1), 1, List.replicate 12 0 ++ [0x88, 0xF7] ++ List.replicate 46 0, 0, by decide⟩,
   ⟨(let p : Fin 2 := 1; at' (let d : Dev := ((allOn.wr (R.FNET_PORT.LINK p) 1).wr (R.FNET_PORT.STATUS p) 1); { d with net := { d.net with ports := setAt d.net.ports 1 { queues := [[{}], [], [], []] } } })), 1, 0, {}, [], by decide⟩,
   ⟨at' (let d : Dev := (let d := allOn; { d with pw := { d.pw with fmpRestart := false } }); { d with net := { d.net with ptp := setAt d.net.ptp 1 { sync := some (1, 5, 5), delay := some 5 } } }), 1, 5, 5, 5, 1, by decide⟩,
   ⟨at' (((let d := allOn; { d with pw := { d.pw with fmpRestart := false } }).wr (R.FNET_PORT.STATUS 1) 1).wr (R.FNET_PORT.LINK 1) 1), 1, by decide⟩⟩

theorem witness_HostRouterRingsAndPeripherals :
    (∃ (s : State) (c : Fin 4) (n : Nat), s.dev.domOn .h1 = true ∧ s.dev.srcBest c = some n) ∧
    (∃ (s : State) (c : Fin 4), s.dev.domOn .h1 = true ∧ s.dev.srcBest c = none) ∧
    (∃ (s : State) (r : Fin 32), s.dev.domOn .h1 = true ∧ r.val < 8) ∧
    (∃ (s : State) (r : Fin 32), s.dev.domOn .h1 = true ∧ 8 ≤ r.val) ∧
    (∃ (s : State) (r : Fin 32), s.dev.domOn .h1 = true ∧ s.dev.rd (R.HRNG_COAL.TIME r) ≠ 0 ∧ numAt s.dev.rings.fill r = 0 ∧ numAt s.dev.rings.collected r ≠ 0) ∧
    (∃ (s : State) (r : Fin 32), s.dev.domOn .h1 = true ∧ s.dev.rd (R.HRNG_COAL.TIME r) = 0) ∧
    (∃ (s : State) (i : Nat) (v : Nat), s.dev.domOn .h1 = true ∧ s.dev.hp.running = some i ∧ i < s.dev.hp.slots.length ∧ bits v 31 16 = 0x600D ∧ (s.dev.slot i).st = 1) ∧
    (∃ (s : State) (v : Nat), s.dev.domOn .h1 = true ∧ bits v 31 16 ≠ 0x600D) ∧
    (∃ (s : State) (i : Fin 9), s.dev.domOn .h3 = true ∧ s.dev.rd (R.HPER_CTL.STATUS i) ≠ 0 ∧ s.dev.rd (R.HPER_DMASEL.RING i) < 28 ∧ i.val < s.dev.hp.rx.length) ∧
    (∃ (s : State) (i : Fin 9), s.dev.domOn .h3 = true ∧ s.dev.rd (R.HPER_CTL.STATUS i) = 0) :=
  ⟨⟨at' ((((allOn.wr (R.HEVT_PEND.PEND 2) 1).wr (R.HEVT_SRC.EN 64) 1).wr (R.HEVT_SRC.PRIO 64) 5).wr (R.HEVT_SRC.CORE 64) 15), 1, 64, by decide⟩,
   ⟨at' allOn, 1, by decide⟩,
   ⟨at' allOn, 7, by decide⟩,
   ⟨at' allOn, 8, by decide⟩,
   ⟨(let r : Fin 32 := 1; at' (let d : Dev := (allOn.wr (R.HRNG_COAL.TIME r) 1); { d with rings := { d.rings with collected := setAt d.rings.collected 1 2 } })), 1, by decide⟩,
   ⟨(let r : Fin 32 := 1; at' (allOn.wr (R.HRNG_COAL.TIME r) 0)), 1, by decide⟩,
   ⟨at' (let d : Dev := allOn; { d with hp := { d.hp with running := some 1, slots := [{}, { st := 1 }] } }), 1, 0x600D0000, by decide⟩,
   ⟨at' allOn, 1, by decide⟩,
   ⟨(let i : Fin 9 := 1; at' ((allOn.wr (R.HPER_CTL.STATUS i) 1).wr (R.HPER_DMASEL.RING 1) 0)), 1, by decide⟩,
   ⟨(let i : Fin 9 := 1; at' (allOn.wr (R.HPER_CTL.STATUS i) 0)), 1, by decide⟩⟩

theorem witness_SampledValueStreams :
    (∃ (s : State) (b : Fin 8), s.dev.domOn .f4 = true ∧ s.dev.rd (R.SVG_SUBSTAT.STATE b) = 0 ∧ dsetAsdus (s.dev.rd (R.SVG_SUBCFG.DSET b)) ≠ 0 ∧ s.dev.svgRuns = true ∧ b.val < s.dev.svg.subs.length) ∧
    (∃ (s : State) (b : Fin 8), s.dev.domOn .f4 = true ∧ s.dev.rd (R.SVG_SUBSTAT.STATE b) ≠ 0 ∧ b.val < s.dev.svg.subs.length) ∧
    (∃ (s : State) (b : Fin 8) (n : Nat), s.dev.domOn .f4 = true ∧ (s.dev.sub b).next = some n ∧ (s.dev.sub b).buf = [] ∧ b.val < s.dev.svg.subs.length) ∧
    (∃ (s : State) (b : Fin 8), s.dev.domOn .f4 = true ∧ (s.dev.sub b).next = none) ∧
    (∃ (s : State) (m : SvMsg) (k : Nat), s.dev.domOn .f4 = true ∧ s.dev.svgRuns = true ∧ (List.range 8).find? (fun i => s.dev.svMatches i m) = some k ∧ m.confRev ≠ s.dev.rd (R.SVG_SUBREV.VALUE k)) ∧
    (∃ (s : State) (m : SvMsg) (k : Nat), s.dev.domOn .f4 = true ∧ s.dev.svgRuns = true ∧ (List.range 8).find? (fun i => s.dev.svMatches i m) = some k ∧ m.confRev = s.dev.rd (R.SVG_SUBREV.VALUE k) ∧ m.asdus.length = dsetAsdus (s.dev.rd (R.SVG_SUBCFG.DSET k)) ∧ (∀ a ∈ m.asdus, a.smpCnt < dsetRate (s.dev.rd (R.SVG_SUBCFG.DSET k))) ∧ s.dev.on (R.SVG_SUBCFG.AUTH k) = false) ∧
    (∃ (s : State) (p : Fin 2), s.dev.domOn .f4 = true ∧ s.dev.pubRuns p = true ∧ p.val < s.dev.svg.pubs.length) ∧
    (∃ (s : State) (p : Fin 2), s.dev.domOn .f4 = true ∧ s.dev.pubRuns p = false) :=
  ⟨⟨(let b : Fin 8 := 1; at' (((allOn.wr (R.SVG_SUBSTAT.STATE b) 0).wr R.SVG_CTL.STATUS 1).wr (R.SVG_SUBCFG.DSET 1) 1)), 1, by decide⟩,
   ⟨(let b : Fin 8 := 1; at' (allOn.wr (R.SVG_SUBSTAT.STATE b) 1)), 1, by decide⟩,
   ⟨at' (let d : Dev := allOn; { d with svg := { d.svg with subs := setAt d.svg.subs 1 { next := some 4 } } }), 1, 4, by decide⟩,
   ⟨at' allOn, 1, by decide⟩,
   ⟨at' ((((allOn.wr R.SVG_CTL.STATUS 1).wr (R.SVG_SUBCFG.DSET 1) 1).wr (R.SVG_SUBIDC.VALUE 1) (crc32c [65])).wr (R.SVG_SUBSTAT.STATE 1) 1), { port := 0, mac := 0, appid := allOn.rd (R.SVG_SUBAPP.APPID 1), vid := none, svId := [65], confRev := 77, asdus := [{ smpCnt := 3, smpSynch := 2, values := List.replicate 8 7, qualities := List.replicate 8 ⟨false,false,false⟩ }], auth := none }, 1, by decide⟩,
   ⟨(let k : Nat := 1; at' (((((allOn.wr (R.SVG_SUBCFG.AUTH k) 0).wr R.SVG_CTL.STATUS 1).wr (R.SVG_SUBCFG.DSET 1) 1).wr (R.SVG_SUBIDC.VALUE 1) (crc32c [65])).wr (R.SVG_SUBSTAT.STATE 1) 1)), { port := 0, mac := 0, appid := allOn.rd (R.SVG_SUBAPP.APPID 1), vid := none, svId := [65], confRev := allOn.rd (R.SVG_SUBREV.VALUE 1), asdus := [{ smpCnt := 3, smpSynch := 2, values := List.replicate 8 7, qualities := List.replicate 8 ⟨false,false,false⟩ }], auth := none }, 1, by decide⟩,
   ⟨at' (let d : Dev := allOn; withStream (((d.wr R.SVG_CTL.STATUS 1).wr (R.SVG_PUBCFG.DSET 1) 2).wr (R.SVG_PUBCFG.EN 1) 1) {}), 1, by decide⟩,
   ⟨at' allOn, 1, by decide⟩⟩

theorem witness_GooseSubscriptionsHold :
    (∃ (s : State) (j : Fin 32), s.dev.domOn .f4 = true ∧ s.dev.rd (R.SVG_GSSTAT.STATE j) = 0 ∧ s.dev.svgRuns = true ∧ j.val < s.dev.svg.gs.length) ∧
    (∃ (s : State) (j : Fin 32), s.dev.domOn .f4 = true ∧ s.dev.rd (R.SVG_GSSTAT.STATE j) = 2) ∧
    (∃ (s : State) (j : Fin 32), s.dev.domOn .f4 = true ∧ s.dev.rd (R.SVG_GSSTAT.STATE j) ≠ 2) ∧
    (∃ (s : State) (m : GooseMsg) (j : Nat) (v : Bool) (qb : Bool), s.dev.domOn .f4 = true ∧ s.dev.svgRuns = true ∧ (List.range 32).find? (fun i => s.dev.gsMatches i m) = some j ∧ s.dev.on (R.SVG_GSCFG.AUTH j) = false ∧ m.confRev = s.dev.rd (R.SVG_GSREV.VALUE j) ∧ m.ndsCom = false ∧ m.simulation = false ∧ (s.dev.gs j).last = none ∧ s.dev.gsValue j m = some (v, qb) ∧ j < s.dev.svg.gs.length) ∧
    (∃ (s : State) (m : GooseMsg) (j : Nat), s.dev.domOn .f4 = true ∧ s.dev.svgRuns = true ∧ (List.range 32).find? (fun i => s.dev.gsMatches i m) = some j ∧ s.dev.on (R.SVG_GSCFG.AUTH j) = false ∧ m.confRev ≠ s.dev.rd (R.SVG_GSREV.VALUE j)) :=
  ⟨⟨(let j : Fin 32 := 1; at' (allOn.wr (R.SVG_GSSTAT.STATE j) 0)), 1, by decide⟩,
   ⟨(let j : Fin 32 := 1; at' (allOn.wr (R.SVG_GSSTAT.STATE j) 2)), 1, by decide⟩,
   ⟨(let j : Fin 32 := 1; at' (allOn.wr (R.SVG_GSSTAT.STATE j) 0)), 1, by decide⟩,
   ⟨(let j : Nat := 1; at' (((((allOn.wr (R.SVG_GSCFG.AUTH j) 0).wr R.SVG_CTL.STATUS 1).wr (R.SVG_GSREF.VALUE 1) (crc32c [65])).wr (R.SVG_GSSTAT.STATE 1) 1).wr (R.SVG_GSCFG.QENTRY 1) 0xFF)), { port := 0, mac := 0, appid := allOn.rd (R.SVG_GSAPP.APPID 1), gocbRef := [65], confRev := allOn.rd (R.SVG_GSREV.VALUE 1), ndsCom := false, simulation := false, stNum := 1, sqNum := 0, ttl := 100, entries := [.boolean true], auth := none }, 1, true, false, by decide⟩,
   ⟨(let j : Nat := 1; at' ((((allOn.wr (R.SVG_GSCFG.AUTH j) 0).wr R.SVG_CTL.STATUS 1).wr (R.SVG_GSREF.VALUE 1) (crc32c [65])).wr (R.SVG_GSSTAT.STATE 1) 1)), { port := 0, mac := 0, appid := allOn.rd (R.SVG_GSAPP.APPID 1), gocbRef := [65], confRev := 77, ndsCom := false, simulation := false, stNum := 1, sqNum := 0, ttl := 100, entries := [.boolean true], auth := none }, 1, by decide⟩⟩

theorem witness_MeteringSourcesAndTestOutputs :
    (∃ (s : State) (k : Fin 3) (j : Fin 128), s.dev.domOn .f4 = true ∧ k.val ≠ 2 ∧ s.dev.on (R.MOD_INSTAT.USED j) = true ∧ (let f := if k.val = 0 then R.MOD_INSTAT.STUCK j else R.MOD_INSTAT.SAT j; s.dev.on f = false)) ∧
    (∃ (s : State) (j : Fin 128), s.dev.domOn .f4 = true ∧ s.dev.rd (R.MOD_INSTAT.CLK j) < 8) ∧
    (∃ (s : State) (j : Fin 128), s.dev.domOn .f4 = true ∧ s.dev.isInjected 3 j = false ∧ s.dev.on (R.MOD_INSTAT.STUCK j) = true ∧ s.dev.on (R.MOD_INSTAT.SAT j) = false ∧ s.dev.on (R.MOD_INSTAT.CLKF j) = false) ∧
    (∃ (s : State) (j : Fin 128), s.dev.domOn .f4 = true ∧ s.dev.isInjected 3 j = false ∧ s.dev.on (R.MOD_INSTAT.STUCK j) = true ∧ s.dev.on (R.MOD_INSTAT.SAT j) = true) ∧
    (∃ (s : State) (c : Fin 16) (r : MeasRec) (f : Nat), s.dev.met.mainRec c = some r ∧ s.dev.met.fbFrom.getD c none = some f ∧ s.dev.met.retAt.getD c none = none ∧ s.dev.modFaulty r.index = false ∧ c.val < s.dev.met.retAt.length) ∧
    (∃ (s : State) (c : Fin 16), s.dev.met.fbFrom.getD c none = none) ∧
    (∃ (s : State) (k : Fin 4), s.dev.metRuns = true ∧ s.dev.on (R.MET_TPCFG.EN k) = true ∧ 0 < s.dev.rd (R.MET_TPSTAT.OWED k) ∧ s.dev.rd (R.MET_TPSTAT.OWED k) ≤ 4095 ∧ (s.dev.testOut k).high = none ∧ (s.dev.testOut k).start = none ∧ k.val < s.dev.met.tp.length) ∧
    (∃ (s : State) (k : Fin 4), s.dev.metRuns = true ∧ s.dev.rd (R.MET_TPSTAT.OWED k) = 0) ∧
    (∃ (s : State), s.dev.rwlSealed = true) ∧
    (∃ (s : State), s.dev.rwlSealed = false) :=
  ⟨⟨(let j : Fin 128 := 1; at' (allOn.wr (R.MOD_INSTAT.USED j) 1)), 1, 1, by decide⟩,
   ⟨at' allOn, 1, by decide⟩,
   ⟨(let j : Fin 128 := 1; at' (((allOn.wr (R.MOD_INSTAT.STUCK j) 1).wr (R.MOD_INSTAT.SAT j) 0).wr (R.MOD_INSTAT.CLKF j) 0)), 1, by decide⟩,
   ⟨(let j : Fin 128 := 1; at' ((allOn.wr (R.MOD_INSTAT.STUCK j) 1).wr (R.MOD_INSTAT.SAT j) 1)), 1, by decide⟩,
   ⟨at' (let d : Dev := allOn; { d with met := { d.met with recs := [{ slot := 1, path := 1, index := 9 }], fbFrom := setAt d.met.fbFrom 1 (some 5) } }), 1, { slot := 1, path := 1, index := 9 }, 5, by decide⟩,
   ⟨at' allOn, 1, by decide⟩,
   ⟨(let k : Fin 4 := 1; at' (((allOn.wr (R.MET_TPCFG.EN k) 1).wr (R.MET_TPSTAT.OWED 1) 3).wr R.MET_CTL.STATUS 1)), 1, by decide⟩,
   ⟨(let k : Fin 4 := 1; at' ((allOn.wr (R.MET_TPSTAT.OWED k) 0).wr R.MET_CTL.STATUS 1)), 1, by decide⟩,
   ⟨at' (allOn.wr R.BIL_SEAL.STATE 1), by decide⟩,
   ⟨at' allOn, by decide⟩⟩

theorem witness_MetrologyInstantsAndLegalSoftware :
    (∃ (s : State), s.dev.metRuns = true) ∧
    (∃ (s : State), s.dev.metRuns = false) ∧
    (∃ (s : State) (v : Nat), bits v 31 16 = 0xE0C1 ∧ s.dev.rwlSealed = false) ∧
    (∃ (s : State) (v : Nat), (bits v 31 16 ≠ 0xE0C1 ∨ s.dev.rwlSealed = true)) ∧
    (∃ (s : State) (x : LrImg), s.dev.rd R.MET_LRCTL.STATE ≠ 2 ∧ (∀ y ∈ s.dev.bil.sess, y.isOpen = false) ∧ s.dev.met.staged = some x ∧ s.dev.rd R.MET_LRMINSVN.SVN ≤ x.svn ∧ s.dev.rd R.MET_LRCTL.RUN ≤ 1) ∧
    (∃ (s : State), s.dev.rd R.MET_LRCTL.STATE ≠ 2 ∧ ∃ y ∈ s.dev.bil.sess, y.isOpen = true) ∧
    (∃ (key : Nat), key ≠ 0x4C52) ∧
    (∃ (s : State), s.dev.on R.MET_LRCTL.RUN = false ∧ s.dev.rd R.MET_LRCTL.STATE ≠ 2) ∧
    (∃ (s : State), s.dev.on R.MET_LRCTL.RUN = true) ∧
    (∃ (s : State) (x : LrImg), s.dev.rd R.MET_LRCTL.STATE = 2 ∧ s.dev.met.staged = some x) :=
  ⟨⟨at' (allOn.wr R.MET_CTL.STATUS 1), by decide⟩,
   ⟨at' (allOn.wr R.MET_CTL.STATUS 0), by decide⟩,
   ⟨at' allOn, 0xE0C10000, by decide⟩,
   ⟨at' allOn, 1, by decide⟩,
   ⟨at' (let d : Dev := (allOn.wr R.MET_LRCTL.STATE 0); { d with met := { d.met with staged := some { ver := 2, svn := 5 } } }), { ver := 2, svn := 5 }, by decide⟩,
   ⟨at' (let d : Dev := (allOn.wr R.MET_LRCTL.STATE 0); { d with bil := { d.bil with sess := [{ isOpen := true }, {}, {}, {}] } }), by decide⟩,
   ⟨1, by decide⟩,
   ⟨at' ((allOn.wr R.MET_LRCTL.RUN 0).wr R.MET_LRCTL.STATE 0), by decide⟩,
   ⟨at' (allOn.wr R.MET_LRCTL.RUN 1), by decide⟩,
   ⟨at' (let d : Dev := (allOn.wr R.MET_LRCTL.STATE 2); { d with met := { d.met with staged := some { ver := 2, svn := 5 } } }), { ver := 2, svn := 5 }, by decide⟩⟩

theorem witness_SealSessionsCommitsAndExport :
    (∃ (s : State), s.dev.bil.sealing = false ∧ s.dev.sealCode = 0) ∧
    (∃ (s : State), s.dev.bil.sealing = false ∧ s.dev.sealCode ≠ 0) ∧
    (∃ (key : Nat), key ≠ 0x5EA1) ∧
    (∃ (s : State), s.dev.bil.sealing = true) ∧
    (∃ (s : State), s.dev.rd R.BIL_CTL.STATUS = 1 ∧ s.dev.rd R.BIL_COMMIT.STATE = 0) ∧
    (∃ (s : State), s.dev.rd R.BIL_CTL.STATUS = 1 ∧ s.dev.rd R.BIL_COMMIT.STATE ≠ 0) ∧
    (∃ (s : State), s.dev.rd R.BIL_CTL.STATUS ≠ 1) ∧
    (∃ (s : State) (x : LiveImg) (k : Nat), s.dev.bil.commit = some (x, k) ∧ s.dev.rd R.BIL_COMMIT.STATE = 1 ∧ k < 2 ∧ k < s.dev.bst.slots.length) ∧
    (∃ (s : State) (n : Fin 4), s.dev.sessCode n = 0 ∧ n.val < s.dev.bil.sess.length) ∧
    (∃ (s : State) (n : Fin 4), s.dev.sessCode n ≠ 0) ∧
    (∃ (s : State) (n : Fin 4), (s.dev.sessAt n).isOpen = true ∧ (s.dev.sessAt n).closing = false ∧ n.val < s.dev.bil.sess.length) ∧
    (∃ (s : State) (n : Fin 4), (s.dev.sessAt n).isOpen = false) ∧
    (∃ (s : State) (n : Fin 4) (x : Sess) (rest : List Sess), s.dev.on R.MET_LRCTL.RUN = true ∧ takeFirst (fun (y : Sess) => y.output == n.val) s.dev.bil.toSign = some (x, rest)) ∧
    (∃ (s : State), s.dev.on R.MET_LRCTL.RUN = false) ∧
    (∃ (s : State) (v : Nat), s.dev.rd R.BIL_RECACK.NUM ≤ v) ∧
    (∃ (s : State) (v : Nat), v < s.dev.rd R.BIL_RECACK.NUM) ∧
    (∃ (s : State) (v : Nat), s.dev.rd R.BIL_LOGACK.NUM ≤ v) ∧
    (∃ (s : State) (n : Nat) (e : List Byte), testBit n 31 = false ∧ (s.dev.bst.recs ++ s.dev.bil.recs).find? (fun x => x.1 == n % 2 ^ 31) = some (n % 2 ^ 31, e)) ∧
    (∃ (s : State), s.dev.mode = .dormant ∧ s.dev.on R.BIL_TWCTL.EN = true ∧ s.dev.tw.blocks = []) ∧
    (∃ (s : State), (s.dev.mode ≠ .dormant ∨ s.dev.on R.BIL_TWCTL.EN = false)) :=
  ⟨⟨at' (let d : Dev := (let d := allOn; { d with bil := { d.bil with sealing := false } }); { (withStream d { meas := [{ path := 1 }] }) with ffuse := { d.ffuse with variant := 1 } }), by decide⟩,
   ⟨at' (let d := allOn; { d with bil := { d.bil with sealing := false } }), by decide⟩,
   ⟨1, by decide⟩,
   ⟨at' (let d := allOn; { d with bil := { d.bil with sealing := true } }), by decide⟩,
   ⟨at' ((allOn.wr R.BIL_CTL.STATUS 1).wr R.BIL_COMMIT.STATE 0), by decide⟩,
   ⟨at' ((allOn.wr R.BIL_CTL.STATUS 1).wr R.BIL_COMMIT.STATE 1), by decide⟩,
   ⟨at' (allOn.wr R.BIL_CTL.STATUS 0), by decide⟩,
   ⟨at' (let d : Dev := (allOn.wr R.BIL_COMMIT.STATE 1); { d with bil := { d.bil with commit := some ({ seq := 3 }, 1) } }), { seq := 3 }, 1, by decide⟩,
   ⟨at' (let d : Dev := allOn; { d with met := { d.met with recs := [{ slot := 10, path := 1 }, { slot := 11, path := 1 }] } }), 1, by decide⟩,
   ⟨at' allOn, 1, by decide⟩,
   ⟨at' (let d : Dev := allOn; { d with bil := { d.bil with sess := setAt d.bil.sess 1 { isOpen := true } } }), 1, by decide⟩,
   ⟨at' allOn, 1, by decide⟩,
   ⟨at' (let d : Dev := (allOn.wr R.MET_LRCTL.RUN 1); { d with bil := { d.bil with toSign := [{ output := 1 }] } }), 1, { output := 1 }, [], by decide⟩,
   ⟨at' (allOn.wr R.MET_LRCTL.RUN 0), by decide⟩,
   ⟨at' allOn, 1, by decide⟩,
   ⟨at' (allOn.wr R.BIL_RECACK.NUM 5), 1, by decide⟩,
   ⟨at' (allOn.wr R.BIL_LOGACK.NUM 0), 1, by decide⟩,
   ⟨at' (let d : Dev := allOn; { d with bil := { d.bil with recs := [(3, [1,2,3])] } }), 3, [1,2,3], by decide⟩,
   ⟨at' (let d := ((allOn.wr R.FSYS_MODE.MODE (Mode.code .dormant)).wr R.BIL_TWCTL.EN 1); { d with tw := { d.tw with blocks := [] } }), by decide⟩,
   ⟨at' allOn, by decide⟩⟩

theorem witness_OutputCommandsAndLimits :
    (∃ (s : State) (n : Fin 4) (p : Instr × Nat), s.dev.domOn .f4 = true ∧ s.dev.outCode n p.2 ≠ 0) ∧
    (∃ (s : State) (n : Fin 4) (p : Instr × Nat), s.dev.domOn .f4 = true ∧ s.dev.outCode n p.2 = 0) ∧
    (∃ (s : State) (n : Fin 4), s.dev.domOn .f4 = true ∧ s.dev.outCode n 1 = 0) ∧
    (∃ (s : State) (n : Fin 4), s.dev.domOn .f4 = true ∧ s.dev.outCode n 2 = 0) ∧
    (∃ (s : State) (n : Fin 4), s.dev.domOn .f4 = true ∧ s.dev.outCode n 3 = 0) ∧
    (∃ (s : State) (n : Fin 4), s.dev.domOn .f4 = true ∧ s.dev.outCode n 4 = 0) ∧
    (∃ (s : State) (n : Fin 4), s.dev.domOn .f4 = true ∧ s.dev.outCode n 5 = 0 ∧ n.val < s.dev.out.length) ∧
    (∃ (s : State) (n : Fin 4), s.dev.domOn .f4 = true ∧ s.dev.outState n = 2 ∧ s.dev.on (R.OUT_STAT.LOCKED n) = false) ∧
    (∃ (s : State) (n : Fin 4), s.dev.domOn .f4 = true ∧ s.dev.outState n ≠ 2) ∧
    (∃ (s : State) (n : Fin 4), s.dev.domOn .f4 = true ∧ s.dev.outState n = 3) ∧
    (∃ (s : State) (n : Fin 4), s.dev.domOn .f4 = true ∧ s.dev.outState n ≠ 3) ∧
    (∃ (s : State) (n : Fin 4), s.dev.domOn .f4 = true ∧ s.dev.outState n = 4) ∧
    (∃ (s : State) (n : Fin 4), s.dev.domOn .f4 = true ∧ s.dev.outState n ≠ 4) ∧
    (∃ (s : State) (n : Fin 4), s.dev.domOn .f4 = true ∧ s.dev.outState n = 6) ∧
    (∃ (s : State) (n : Fin 4), s.dev.domOn .f4 = true ∧ s.dev.outState n ≠ 6) ∧
    (∃ (s : State) (n : Fin 4), s.dev.domOn .f4 = true ∧ s.dev.outState n = 7 ∧ (s.dev.outRt n).cur = 5 ∧ (s.dev.outRt n).seqDone = true ∧ (s.dev.outRt n).vsafe = false) ∧
    (∃ (s : State) (n : Fin 4), s.dev.domOn .f4 = true ∧ s.dev.outState n ≠ 7) ∧
    (∃ (s : State) (n : Fin 4), s.dev.domOn .f4 = true ∧ (s.dev.outRt n).want ≠ 0 ∧ (s.dev.outRt n).retry = true ∧ s.dev.pw.fmpRestart = false ∧ n.val < s.dev.out.length ∧ s.dev.ctrRefusal (s.dev.outSeqNum n (s.dev.outRt n).want % 64) = 0) ∧
    (∃ (s : State) (n : Fin 4), s.dev.domOn .f4 = true ∧ (s.dev.outRt n).want = 0) :=
  ⟨⟨at' allOn, 1, (Instr.outLock 1, 1), by decide⟩,
   ⟨at' (((allOn.wr (R.OUT_STAT.STATE 1) 1).wr (R.OUT_CTL.STATUS 1) 1).wr R.FSYS_MODE.MODE (Mode.code .ready)), 1, (Instr.outLock 1, 1), by decide⟩,
   ⟨at' (((allOn.wr (R.OUT_STAT.STATE 1) 1).wr (R.OUT_CTL.STATUS 1) 1).wr R.FSYS_MODE.MODE (Mode.code .ready)), 1, by decide⟩,
   ⟨at' (((allOn.wr (R.OUT_STAT.STATE 1) 2).wr (R.OUT_CTL.STATUS 1) 1).wr R.FSYS_MODE.MODE (Mode.code .ready)), 1, by decide⟩,
   ⟨at' (((((allOn.wr (R.OUT_STAT.STATE 1) 2).wr (R.OUT_CTL.STATUS 1) 1).wr R.FSYS_MODE.MODE (Mode.code .ready)).wr (R.OUT_STAT.ELOOP 1) 1).wr (R.OUT_STAT.LOCKED 1) 1), 1, by decide⟩,
   ⟨at' (((allOn.wr (R.OUT_STAT.STATE 1) 4).wr (R.OUT_CTL.STATUS 1) 1).wr R.FSYS_MODE.MODE (Mode.code .ready)), 1, by decide⟩,
   ⟨at' (((allOn.wr (R.OUT_STAT.STATE 1) 8).wr (R.OUT_CTL.STATUS 1) 1).wr R.FSYS_MODE.MODE (Mode.code .ready)), 1, by decide⟩,
   ⟨(let n : Fin 4 := 1; at' ((((allOn.wr (R.OUT_STAT.LOCKED n) 0).wr (R.OUT_STAT.STATE 1) 2).wr (R.OUT_CTL.STATUS 1) 1).wr R.FSYS_MODE.MODE (Mode.code .ready))), 1, by decide⟩,
   ⟨at' allOn, 1, by decide⟩,
   ⟨at' (((allOn.wr (R.OUT_STAT.STATE 1) 3).wr (R.OUT_CTL.STATUS 1) 1).wr R.FSYS_MODE.MODE (Mode.code .ready)), 1, by decide⟩,
   ⟨at' allOn, 1, by decide⟩,
   ⟨at' (((allOn.wr (R.OUT_STAT.STATE 1) 4).wr (R.OUT_CTL.STATUS 1) 1).wr R.FSYS_MODE.MODE (Mode.code .ready)), 1, by decide⟩,
   ⟨at' allOn, 1, by decide⟩,
   ⟨at' (((allOn.wr (R.OUT_STAT.STATE 1) 6).wr (R.OUT_CTL.STATUS 1) 1).wr R.FSYS_MODE.MODE (Mode.code .ready)), 1, by decide⟩,
   ⟨at' allOn, 1, by decide⟩,
   ⟨at' (let d : Dev := allOn; { (((d.wr (R.OUT_STAT.STATE 1) 7).wr (R.OUT_CTL.STATUS 1) 1).wr R.FSYS_MODE.MODE (Mode.code .ready)) with out := setAt d.out 1 { cur := 5, seqDone := true } }), 1, by decide⟩,
   ⟨at' allOn, 1, by decide⟩,
   ⟨at' (let d : Dev := (let d := allOn; { d with pw := { d.pw with fmpRestart := false } }); { (((withStream d { ctr := { coils := [{ coil := 0 }, { coil := 1, fb := 3 }], seqs := [{ seq := 1, first := 0, nsteps := 2 }], steps := [{ op := 1, arg := 1 }, { op := 2, arg := 1 }], ilks := [] } }).wr R.CTR_CTL.STATUS 1).wr R.FSYS_MODE.MODE (Mode.code .active)).wr (R.OUT_SEQ.INS 1) 1 with out := setAt d.out 1 { want := 3, retry := true } }), 1, by decide⟩,
   ⟨at' allOn, 1, by decide⟩⟩

theorem witness_CoolingAndVehiclePorts :
    (∃ (s : State) (n : Fin 4), s.dev.domOn .f2 = true ∧ s.dev.rd (R.CBL_FLOWK.K n) ≠ 0) ∧
    (∃ (s : State) (n : Fin 4), s.dev.domOn .f2 = true ∧ s.dev.rd (R.CBL_FLOWK.K n) = 0 ∧ s.dev.pumpStopped n = false) ∧
    (∃ (s : State) (n : Fin 4), s.dev.domOn .f2 = true ∧ 200 ≤ s.dev.rd (R.CBL_FAN.DUTY n) ∧ s.dev.on (R.CBL_TACH.STALL n) = false) ∧
    (∃ (s : State) (n : Fin 4), s.dev.domOn .f2 = true ∧ s.dev.rd (R.CBL_FAN.DUTY n) < 200) ∧
    (∃ (s : State) (n : Fin 4) (a : Nat), s.dev.domOn .f2 = true ∧ (s.dev.cable n).tachAt = some a ∧ a + 1000 ≤ s.dev.stcNs ∧ n.val < s.dev.cbl.length) ∧
    (∃ (s : State) (n : Fin 4), s.dev.domOn .f2 = true ∧ (s.dev.cable n).tachAt = none ∧ n.val < s.dev.cbl.length) ∧
    (∃ (s : State) (n : Fin 4), s.dev.domOn .h3 = true ∧ s.dev.rd (R.VEH_T1SSTAT.STATUS n) ≠ 0) ∧
    (∃ (s : State) (n : Fin 4), s.dev.domOn .h3 = true ∧ s.dev.rd (R.VEH_T1SSTAT.STATUS n) = 0) ∧
    (∃ (s : State) (n : Fin 4), s.dev.domOn .h3 = true ∧ s.dev.on (R.VEH_CPCFG.EN n) = true ∧ s.dev.injected 35 n = none) ∧
    (∃ (s : State) (n : Fin 4), s.dev.domOn .h3 = true ∧ s.dev.on (R.VEH_CPCFG.EN n) = false) :=
  ⟨⟨(let n : Fin 4 := 1; at' (allOn.wr (R.CBL_FLOWK.K n) 1)), 1, by decide⟩,
   ⟨(let n : Fin 4 := 1; at' (allOn.wr (R.CBL_FLOWK.K n) 0)), 1, by decide⟩,
   ⟨(let n : Fin 4 := 1; at' ((allOn.wr (R.CBL_TACH.STALL n) 0).wr (R.CBL_FAN.DUTY 1) 200)), 1, by decide⟩,
   ⟨at' allOn, 1, by decide⟩,
   ⟨at' (let d : Dev := allOn; { d with cbl := setAt d.cbl 1 { tachAt := some 5 }, tm := { d.tm with q := 1000000 } }), 1, 5, by decide⟩,
   ⟨at' allOn, 1, by decide⟩,
   ⟨(let n : Fin 4 := 1; at' (allOn.wr (R.VEH_T1SSTAT.STATUS n) 1)), 1, by decide⟩,
   ⟨(let n : Fin 4 := 1; at' (allOn.wr (R.VEH_T1SSTAT.STATUS n) 0)), 1, by decide⟩,
   ⟨(let n : Fin 4 := 1; at' (allOn.wr (R.VEH_CPCFG.EN n) 1)), 1, by decide⟩,
   ⟨(let n : Fin 4 := 1; at' (allOn.wr (R.VEH_CPCFG.EN n) 0)), 1, by decide⟩⟩

theorem witness_WaveformCapture :
    (∃ (s : State), s.dev.domOn .f2 = true ∧ (s.dev.capState = 0 ∨ s.dev.capState = 3)) ∧
    (∃ (s : State), s.dev.domOn .f2 = true ∧ s.dev.capState ≠ 0 ∧ s.dev.capState ≠ 3) ∧
    (∃ (s : State), s.dev.domOn .f2 = true ∧ s.dev.capState = 1 ∧ s.dev.cap.trig = none) ∧
    (∃ (s : State), s.dev.domOn .f2 = true ∧ s.dev.capState ≠ 1) ∧
    (∃ (s : State) (len : Nat), len ≠ 0 ∧ s.dev.capState = 3) ∧
    (∃ (s : State) (len : Nat), len ≠ 0 ∧ s.dev.capState ≠ 3) ∧
    (∃ (s : State) (x : Nat), s.dev.cap.live = some x) ∧
    (∃ (s : State) (x : Nat), s.dev.cap.live ≠ some x) :=
  ⟨⟨at' (allOn.wr R.TLM_CAPSTAT.STATE 3), by decide⟩,
   ⟨at' (allOn.wr R.TLM_CAPSTAT.STATE 1), by decide⟩,
   ⟨at' ((let d := allOn; { d with cap := { d.cap with trig := none } }).wr R.TLM_CAPSTAT.STATE 1), by decide⟩,
   ⟨at' (allOn.wr R.TLM_CAPSTAT.STATE 2), by decide⟩,
   ⟨at' (allOn.wr R.TLM_CAPSTAT.STATE 3), 24, by decide⟩,
   ⟨at' allOn, 24, by decide⟩,
   ⟨at' (let d : Dev := allOn; { d with cap := { d.cap with live := some 7 } }), 7, by decide⟩,
   ⟨at' allOn, 1, by decide⟩⟩

theorem witness_ChainStatesMove :
    (∃ (s : State), s.dev.domOn .f4 = true ∧ s.dev.chainState = 4 ∧ s.dev.stcNs < s.dev.stk.faultAt + 600000000) ∧
    (∃ (s : State), s.dev.domOn .f4 = true ∧ s.dev.chainState = 4 ∧ s.dev.stk.faultAt + 600000000 ≤ s.dev.stcNs ∧ s.dev.rd R.STK_CTL.STATUS = 1) ∧
    (∃ (s : State), s.dev.domOn .f4 = true ∧ s.dev.chainState ≠ 4) ∧
    (∃ (s : State), s.dev.domOn .f4 = true ∧ s.dev.chainState = 4 ∧ (s.dev.stk.autow = true ∨ s.dev.stk.wakeReq = true) ∧ s.dev.rd R.STK_CTL.STATUS = 1) ∧
    (∃ (s : State), s.dev.domOn .f4 = true ∧ s.dev.chainState = 4 ∧ s.dev.stk.autow = false ∧ s.dev.stk.wakeReq = false) ∧
    (∃ (s : State), s.dev.domOn .f4 = true ∧ s.dev.chainState = 1) ∧
    (∃ (s : State), s.dev.domOn .f4 = true ∧ s.dev.chainState ≠ 1) ∧
    (∃ (s : State), s.dev.domOn .f4 = true ∧ s.dev.chainState = 2 ∧ s.dev.stk.nsat ≤ s.dev.nFound ∧ ((List.range s.dev.stk.nsat).all (fun x => (s.dev.satRt x).cfgd && decide (s.dev.rd (satArr (s.dev.endOf x) x) ≠ 0xFFFF))) = true) ∧
    (∃ (s : State), s.dev.domOn .f4 = true ∧ s.dev.chainState = 2 ∧ s.dev.nFound < s.dev.stk.nsat ∧ s.dev.stk.wakes < 3) ∧
    (∃ (s : State), s.dev.domOn .f4 = true ∧ s.dev.chainState = 2 ∧ s.dev.nFound < s.dev.stk.nsat ∧ 3 ≤ s.dev.stk.wakes) ∧
    (∃ (s : State), s.dev.domOn .f4 = true ∧ s.dev.chainState ≠ 2) ∧
    (∃ (s : State) (b : Bool), s.dev.domOn .f4 = true ∧ s.dev.stk.out.getD (b2n b) none = none) ∧
    (∃ (s : State) (b : Bool) (c : ChainCmd), s.dev.domOn .f4 = true ∧ s.dev.stk.out.getD (b2n b) none = some c ∧ c.code = 1 ∧ s.dev.stk.closing = false ∧ s.dev.stk.out.length = 2 ∧ s.dev.stk.enumDone.length = 2) ∧
    (∃ (s : State) (b : Bool) (c : ChainCmd), s.dev.domOn .f4 = true ∧ s.dev.stk.out.getD (b2n b) none = some c ∧ c.code ≠ 1 ∧ s.dev.chainState = 2 ∧ s.dev.stk.closing = false ∧ s.dev.stk.out.length = 2 ∧ c.sat < s.dev.stk.sats.length) ∧
    (∃ (s : State), s.dev.domOn .f4 = true ∧ s.dev.stk.sleepDue = true) ∧
    (∃ (s : State), s.dev.domOn .f4 = true ∧ s.dev.stk.sleepDue = false) :=
  ⟨⟨at' (allOn.wr R.STK_CHSTAT.STATE 4), by decide⟩,
   ⟨at' (let d : Dev := (allOn.wr R.STK_CTL.STATUS 1); { (d.wr R.STK_CHSTAT.STATE 4) with tm := { d.tm with q := 240000000 } }), by decide⟩,
   ⟨at' allOn, by decide⟩,
   ⟨at' (let d : Dev := (allOn.wr R.STK_CTL.STATUS 1); { (d.wr R.STK_CHSTAT.STATE 4) with stk := { d.stk with wakeReq := true } }), by decide⟩,
   ⟨at' ((let d := (let d := allOn; { d with stk := { d.stk with autow := false } }); { d with stk := { d.stk with wakeReq := false } }).wr R.STK_CHSTAT.STATE 4), by decide⟩,
   ⟨at' (allOn.wr R.STK_CHSTAT.STATE 1), by decide⟩,
   ⟨at' allOn, by decide⟩,
   ⟨at' (allOn.wr R.STK_CHSTAT.STATE 2), by decide⟩,
   ⟨at' (let d : Dev := allOn; { (d.wr R.STK_CHSTAT.STATE 2) with stk := { d.stk with nsat := 2, wakes := 1 } }), by decide⟩,
   ⟨at' (let d : Dev := allOn; { (d.wr R.STK_CHSTAT.STATE 2) with stk := { d.stk with nsat := 2, wakes := 3 } }), by decide⟩,
   ⟨at' allOn, by decide⟩,
   ⟨at' allOn, true, by decide⟩,
   ⟨at' (let d : Dev := (let d := allOn; { d with stk := { d.stk with closing := false } }); { d with stk := { d.stk with out := [none, some { code := 1 }] } }), true, { code := 1 }, by decide⟩,
   ⟨at' (let d : Dev := (let d := allOn; { d with stk := { d.stk with closing := false } }); { (d.wr R.STK_CHSTAT.STATE 2) with stk := { d.stk with out := [none, some { sat := 3, code := 3 }] } }), true, { sat := 3, code := 3 }, by decide⟩,
   ⟨at' (let d := allOn; { d with stk := { d.stk with sleepDue := true } }), by decide⟩,
   ⟨at' (let d := allOn; { d with stk := { d.stk with sleepDue := false } }), by decide⟩⟩

theorem witness_ChainCommandsAndBuffer :
    (∃ (s : State) (a : Fin 32), s.dev.domOn .f4 = true ∧ (s.dev.chainState = 2 ∨ s.dev.chainState = 3) ∧ s.dev.endFree (s.dev.endOf a) = true ∧ s.dev.on (R.STK_SATSTAT.FOUND a) = true ∧ (s.dev.satRt a).missed = false) ∧
    (∃ (s : State) (b : Bool) (a : Fin 32), s.dev.domOn .f4 = true ∧ s.dev.chainState = 2 ∧ s.dev.endFree (b2n b) = true ∧ s.dev.on (R.STK_SATSTAT.FOUND a) = true) ∧
    (∃ (s : State), s.dev.domOn .f4 = true ∧ s.dev.chainState = 2 ∧ s.dev.endFree 0 = true ∧ s.dev.stk.enumDone.getD 0 true = false ∧ s.dev.nFound < s.dev.stk.nsat) ∧
    (∃ (s : State), s.dev.domOn .f4 = true ∧ s.dev.chainState = 2 ∧ s.dev.endFree 1 = true ∧ s.dev.stk.enumDone.getD 1 true = false ∧ s.dev.stk.enumDone.getD 0 false = true ∧ s.dev.nFound < s.dev.stk.nsat) ∧
    (∃ (s : State), s.dev.domOn .f4 = true ∧ s.dev.chainState = 3 ∧ s.dev.stk.closing = false ∧ s.dev.rd R.STK_CTL.STATUS = 1) ∧
    (∃ (s : State) (b : Bool) (a : Nat) (rest : List Nat), s.dev.domOn .f4 = true ∧ s.dev.stk.todo.getD (b2n b) [] = a :: rest ∧ s.dev.chainState = 3 ∧ s.dev.endFree (b2n b) = true ∧ s.dev.stk.snapOn = true ∧ (s.dev.satRt a).cfgDue = false) ∧
    (∃ (s : State) (b : Bool) (a : Nat), s.dev.domOn .f4 = true ∧ (s.dev.served (b2n b)).find? (fun x => decide ((s.dev.satRt x).held ≠ s.dev.balWant x)) = some a ∧ s.dev.chainState = 3 ∧ s.dev.endFree (b2n b) = true) ∧
    (∃ (s : State) (b : Bool) (f : List Byte) (c : ChainCmd), s.dev.domOn .f4 = true ∧ s.dev.stk.out.getD (b2n b) none = some c ∧ s.dev.stk.closing = false ∧ s.dev.stk.out.length = 2 ∧ s.dev.respFault (b2n b) c f = 0) ∧
    (∃ (s : State) (b : Bool), s.dev.domOn .f4 = true ∧ s.dev.stk.out.getD (b2n b) none = none) ∧
    (∃ (s : State), s.dev.domOn .f4 = true ∧ s.dev.rd R.STK_OWCFG.OWPER ≠ 0 ∧ s.dev.chainState = 3 ∧ s.dev.stk.owLine = none) ∧
    (∃ (s : State), s.dev.domOn .f4 = true ∧ s.dev.rd R.STK_OWCFG.OWPER = 0) ∧
    (∃ (s : State) (k : Nat), s.dev.domOn .f4 = true ∧ s.dev.stk.owLine = some k ∧ s.dev.chainState = 3 ∧ s.dev.stk.closing = false ∧ s.dev.stk.owPhase = 0) ∧
    (∃ (s : State), s.dev.domOn .f4 = true ∧ s.dev.stk.owLine = some 18 ∧ s.dev.chainState = 3 ∧ s.dev.stk.closing = false ∧ s.dev.stk.owPhase = 2 ∧ s.dev.stk.owPend = []) ∧
    (∃ (s : State), s.dev.domOn .f4 = true ∧ s.dev.rd R.STK_BUFSTAT.STATE = 0 ∧ s.dev.chainState = 3 ∧ s.dev.stk.lastComplete = true ∧ s.dev.cellLimit = false ∧ s.dev.sumMismatch = false ∧ (∀ i : Nat, i < 32 → s.dev.rd (R.STK_SATOW.LINE i) = 0) ∧ s.dev.stk.causeId ≠ some s.dev.stk.snapId) ∧
    (∃ (s : State), s.dev.domOn .f4 = true ∧ s.dev.rd R.STK_BUFSTAT.STATE = 0 ∧ s.dev.chainState ≠ 3) ∧
    (∃ (s : State), s.dev.domOn .f4 = true ∧ s.dev.rd R.STK_BUFSTAT.STATE ≠ 0) ∧
    (∃ (s : State), s.dev.domOn .f4 = true ∧ s.dev.rd R.STK_BUFSTAT.STATE = 1 ∧ s.dev.stk.goAt ≠ some s.dev.ce.k) ∧
    (∃ (s : State), s.dev.domOn .f4 = true ∧ s.dev.rd R.STK_BUFSTAT.STATE ≠ 1) ∧
    (∃ (s : State), s.dev.domOn .f4 = true ∧ s.dev.rd R.STK_BUFSTAT.STATE = 2) ∧
    (∃ (s : State), s.dev.domOn .f4 = true ∧ s.dev.rd R.STK_BUFSTAT.STATE ≠ 2) :=
  ⟨⟨(let a : Fin 32 := 1; at' (((allOn.wr (R.STK_SATSTAT.FOUND a) 1).wr R.STK_CHSTAT.STATE 3).wr R.STK_CTL.STATUS 1)), 1, by decide⟩,
   ⟨(let a : Fin 32 := 1; at' (((allOn.wr (R.STK_SATSTAT.FOUND a) 1).wr R.STK_CHSTAT.STATE 2).wr R.STK_CTL.STATUS 1)), true, 1, by decide⟩,
   ⟨at' (let d : Dev := allOn; { ((d.wr R.STK_CHSTAT.STATE 2).wr R.STK_CTL.STATUS 1) with stk := { d.stk with nsat := 2, enumDone := [false, false] } }), by decide⟩,
   ⟨at' (let d : Dev := allOn; { ((d.wr R.STK_CHSTAT.STATE 2).wr R.STK_CTL.STATUS 1) with stk := { d.stk with nsat := 2, enumDone := [true, false] } }), by decide⟩,
   ⟨at' (((let d := allOn; { d with stk := { d.stk with closing := false } }).wr R.STK_CTL.STATUS 1).wr R.STK_CHSTAT.STATE 3), by decide⟩,
   ⟨at' (let d : Dev := (let d := allOn; { d with stk := { d.stk with snapOn := true } }); { ((d.wr R.STK_CHSTAT.STATE 3).wr R.STK_CTL.STATUS 1) with stk := { d.stk with snapOn := true, nsat := 2, split := 1, todo := [[0], [1]] } }), true, 1, [], by decide⟩,
   ⟨at' (let d : Dev := allOn; { (((d.wr R.STK_CHSTAT.STATE 3).wr R.STK_CTL.STATUS 1)).wr (balEff 19) 5 with stk := { d.stk with nsat := 2, split := 1 } }), true, 1, by decide⟩,
   ⟨at' (let d : Dev := (let d := allOn; { d with stk := { d.stk with closing := false } }); { ((d.wr R.STK_CHSTAT.STATE 2).wr R.STK_CTL.STATUS 1) with stk := { d.stk with nsat := 2, split := 1, out := [none, some { sat := 1, code := 1 }] } }), true, (let b : Bool := true; (let b : List Byte := [0x81, 0, 1, 1, 0]; [0x55, 0xD5] ++ b ++ leBytes 2 (crc16 b))), { sat := 1, code := 1 }, by decide⟩,
   ⟨at' allOn, true, by decide⟩,
   ⟨at' ((let d := (allOn.wr R.STK_OWCFG.OWPER 1); { d with stk := { d.stk with owLine := none } }).wr R.STK_CHSTAT.STATE 3), by decide⟩,
   ⟨at' ((allOn.wr R.STK_OWCFG.OWPER 0).wr R.STK_CHSTAT.STATE 3), by decide⟩,
   ⟨at' (let d : Dev := (let d := (let d := allOn; { d with stk := { d.stk with closing := false } }); { d with stk := { d.stk with owPhase := 0 } }); { d.wr R.STK_CHSTAT.STATE 3 with stk := { d.stk with owLine := some 4 } }), 4, by decide⟩,
   ⟨at' (let d : Dev := (let d := (let d := (let d := allOn; { d with stk := { d.stk with closing := false } }); { d with stk := { d.stk with owPhase := 2 } }); { d with stk := { d.stk with owPend := [] } }); { d.wr R.STK_CHSTAT.STATE 3 with stk := { d.stk with owLine := some 18, owPhase := 2, owPend := [] } }), by decide⟩,
   ⟨at' (let d : Dev := (let d := (allOn.wr R.STK_BUFSTAT.STATE 0); { d with stk := { d.stk with lastComplete := true } }); { ((d.wr R.STK_CHSTAT.STATE 3).wr R.STK_CHKCFG.LIMN 3).wr R.STK_CHKCFG.SUMLIM 5 with stk := { d.stk with lastComplete := true } }), by decide⟩,
   ⟨at' (allOn.wr R.STK_BUFSTAT.STATE 0), by decide⟩,
   ⟨at' (allOn.wr R.STK_BUFSTAT.STATE 1), by decide⟩,
   ⟨at' (allOn.wr R.STK_BUFSTAT.STATE 1), by decide⟩,
   ⟨at' (allOn.wr R.STK_BUFSTAT.STATE 0), by decide⟩,
   ⟨at' (allOn.wr R.STK_BUFSTAT.STATE 2), by decide⟩,
   ⟨at' (allOn.wr R.STK_BUFSTAT.STATE 0), by decide⟩⟩

theorem witness_CanTransmission :
    (∃ (s : State) (c : Fin 4) (b : Fin 3), s.dev.domOn (canDom c) = true ∧ s.dev.canRingFed c b = false ∧ s.dev.on (canAt c R.FCAN_CTL.LISTEN) = false ∧ s.dev.canStatus c = 1 ∧ s.dev.rd (canStat c b) ≠ 1 ∧ s.dev.rd (canStat c b) ≠ 2) ∧
    (∃ (s : State) (c : Fin 4) (b : Fin 3), s.dev.domOn (canDom c) = true ∧ s.dev.canRingFed c b = true) ∧
    (∃ (s : State) (c : Fin 4) (b : Fin 3), s.dev.domOn (canDom c) = true ∧ s.dev.canRingFed c b = false ∧ (s.dev.rd (canStat c b) = 1 ∨ s.dev.rd (canStat c b) = 2)) ∧
    (∃ (s : State) (c : Fin 4) (b : Fin 3), s.dev.domOn (canDom c) = true ∧ s.dev.rd (canStat c b) = 2) ∧
    (∃ (s : State) (c : Fin 4) (b : Fin 3), s.dev.domOn (canDom c) = true ∧ s.dev.rd (canStat c b) = 1 ∧ s.dev.canRingFed c b = false) ∧
    (∃ (s : State) (c : Fin 4) (b : Nat), s.dev.domOn (canDom c) = true ∧ s.dev.canOnBus c = true ∧ s.dev.on (canAt c R.FCAN_CTL.LISTEN) = false ∧ (s.dev.canRt c).sending = none ∧ s.dev.canChoose c = some b ∧ c.val < s.dev.can.length) ∧
    (∃ (s : State) (c : Fin 4), s.dev.domOn (canDom c) = true ∧ s.dev.canChoose c = none) ∧
    (∃ (s : State) (c : Fin 4) (b : Nat), s.dev.domOn (canDom c) = true ∧ (s.dev.canRt c).sending = some b ∧ b < 3 ∧ (s.dev.canRt c).abort = false ∧ s.dev.canStatus c ≠ 2 ∧ s.dev.rd (canAt c (fun i => R.FCAN_TXCMD.ARBN i b)) < s.dev.rd (canAt c R.FCAN_RETRY.ALRETRY) ∧ s.dev.rd (canAt c R.FCAN_RETRY.ALRETRY) < 16) ∧
    (∃ (s : State) (c : Fin 4) (b : Nat), s.dev.domOn (canDom c) = true ∧ (s.dev.canRt c).sending = some b ∧ b < 3 ∧ (s.dev.canRt c).abort = false ∧ s.dev.canStatus c ≠ 2 ∧ s.dev.canRingFed c b = false ∧ s.dev.rd (canAt c R.FCAN_RETRY.ALRETRY) ≤ s.dev.rd (canAt c (fun i => R.FCAN_TXCMD.ARBN i b))) ∧
    (∃ (s : State) (c : Fin 4) (b : Nat) (k : Fin 9), s.dev.domOn (canDom c) = true ∧ (s.dev.canRt c).sending = some b ∧ b < 3 ∧ s.dev.on (canAt c R.FCAN_CTL.LISTEN) = false ∧ s.dev.rd (canStat c b) = 2 ∧ (s.dev.canRt c).abort = false ∧ s.dev.canStatus c ≠ 2 ∧ (s.dev.canRt c).tec + k ≤ 255 ∧ s.dev.rd (canAt c (fun i => R.FCAN_TXCMD.ERRN i b)) < s.dev.rd (canAt c R.FCAN_RETRY.ERRETRY) ∧ s.dev.rd (canAt c R.FCAN_RETRY.ERRETRY) < 16) ∧
    (∃ (s : State) (c : Fin 4) (k : Fin 9), s.dev.domOn (canDom c) = true ∧ (s.dev.canRt c).sending = none ∧ s.dev.on (canAt c R.FCAN_CTL.LISTEN) = false ∧ c.val < s.dev.can.length ∧ (s.dev.canRt c).rec' + k ≤ 255) ∧
    (∃ (s : State) (c : Fin 4), s.dev.domOn (canDom c) = true ∧ s.dev.rd (canAt c R.FCAN_ERR.STATE) = 2 ∧ s.dev.on (canAt c R.FCAN_CTL.ABO) = false) ∧
    (∃ (s : State) (c : Fin 4), s.dev.domOn (canDom c) = true ∧ s.dev.rd (canAt c R.FCAN_ERR.STATE) ≠ 2) ∧
    (∃ (s : State) (c : Fin 4), s.dev.domOn (canDom c) = true ∧ s.dev.rd (canAt c R.FCAN_ERR.STATE) = 2 ∧ (s.dev.canRt c).recovering = true) :=
  ⟨⟨at' (allOn.wr (canAt 1 R.FCAN_CTL.STATUS) 1), 1, 2, by decide⟩,
   ⟨at' (allOn.wr (R.HRNG_CFG.EN 19) 1), 3, 2, by decide⟩,
   ⟨at' (allOn.wr (canStat 1 1) 2), 1, 1, by decide⟩,
   ⟨at' (allOn.wr (canStat 1 1) 2), 1, 1, by decide⟩,
   ⟨at' (allOn.wr (canStat 1 1) 1), 1, 1, by decide⟩,
   ⟨at' ((allOn.wr (canAt 1 R.FCAN_CTL.STATUS) 1).wr (canStat 1 2) 1), 1, 2, by decide⟩,
   ⟨at' allOn, 1, by decide⟩,
   ⟨at' (let d : Dev := allOn; { ((d.wr (canAt 1 R.FCAN_RETRY.ALRETRY) 15)) with can := setAt d.can 1 { sending := some 2 } }), 1, 2, by decide⟩,
   ⟨at' (let d : Dev := allOn; { (d.wr (canAt 1 R.FCAN_RETRY.ALRETRY) 0) with can := setAt d.can 1 { sending := some 2 } }), 1, 2, by decide⟩,
   ⟨at' (let d : Dev := allOn; { ((d.wr (canStat 1 2) 2).wr (canAt 1 R.FCAN_RETRY.ERRETRY) 15) with can := setAt d.can 1 { sending := some 2 } }), 1, 2, 8, by decide⟩,
   ⟨at' allOn, 1, 8, by decide⟩,
   ⟨at' (allOn.wr (canAt 1 R.FCAN_ERR.STATE) 2), 1, by decide⟩,
   ⟨at' allOn, 1, by decide⟩,
   ⟨at' (let d : Dev := allOn; { d.wr (canAt 1 R.FCAN_ERR.STATE) 2 with can := setAt d.can 1 { recovering := true } }), 1, by decide⟩⟩

theorem witness_CanReception :
    (∃ (s : State) (c : Fin 4) (ws : List Nat), s.dev.domOn (canDom c) = true ∧ s.dev.canOnBus c = true ∧ (∀ m : Nat, m < 16 → s.dev.mbMatches c m (numAt (canNormal ws) 0) (numAt (canNormal ws) 1) = false) ∧ s.dev.on (canAt c R.FCAN_CTL.RINGALL) = false) ∧
    (∃ (s : State) (c : Fin 4) (ws : List Nat) (m : Nat), s.dev.domOn (canDom c) = true ∧ s.dev.canOnBus c = true ∧ (List.range 16).find? (fun m => s.dev.mbMatches c m (numAt (canNormal ws) 0) (numAt (canNormal ws) 1)) = some m ∧ s.dev.on (mbLock c m) = false ∧ s.dev.on (mbNew c m) = false) ∧
    (∃ (s : State) (c : Fin 4), s.dev.domOn (canDom c) = true ∧ s.dev.canOnBus c = false) ∧
    (∃ (s : State) (c : Fin 4) (m : Fin 16), s.dev.domOn (canDom c) = true ∧ s.dev.on (mbLock c m) = true ∧ ((s.dev.canRt c).mbs.getD m {}).shadow = none) ∧
    (∃ (s : State) (c : Fin 4) (m : Fin 16) (e : CanEntry), s.dev.domOn (canDom c) = true ∧ s.dev.on (mbLock c m) = true ∧ ((s.dev.canRt c).mbs.getD m {}).shadow = some e) ∧
    (∃ (s : State) (c : Fin 4) (m : Fin 16), s.dev.domOn (canDom c) = true ∧ s.dev.on (mbLock c m) = false) ∧
    (∃ (s : State) (c : Fin 4) (f : Fin 2), s.dev.domOn (canDom c) = true ∧ s.dev.domOn .f4 = true ∧ f.val < s.dev.can.length) :=
  ⟨⟨at' (allOn.wr (canAt 1 R.FCAN_CTL.STATUS) 1), 1, [0x123, 0x8, 1, 2], by decide⟩,
   ⟨at' (((allOn.wr (canAt 1 (fun i => R.FCAN_MBCFG.MODE i 15)) 1).wr (canAt 1 (fun i => R.FCAN_MBFLT.ID i 15)) 0x123).wr (canAt 1 R.FCAN_CTL.STATUS) 1), 1, [0x123, 0x8, 1, 2], 15, by decide⟩,
   ⟨at' allOn, 1, by decide⟩,
   ⟨at' (allOn.wr (mbLock 1 15) 1), 1, 15, by decide⟩,
   ⟨at' (let d : Dev := allOn; { d.wr (mbLock 1 15) 1 with can := setAt d.can 1 { mbs := setAt (List.replicate 16 {}) 15 { shadow := some { stamp := 5, words := [1] } } } }), 1, 15, { stamp := 5, words := [1] }, by decide⟩,
   ⟨at' allOn, 1, 1, by decide⟩,
   ⟨at' allOn, 1, 1, by decide⟩⟩

theorem witness_TokensAndRandomSources :
    (∃ (s : State), s.dev.domOn .f1 = true) ∧
    (∃ (s : State), s.dev.domOn .h1 = true) :=
  ⟨⟨at' allOn, by decide⟩,
   ⟨at' allOn, by decide⟩⟩

theorem witness_TamperScanPairingAndKeys :
    (∃ (s : State), s.dev.domOn .f0 = true) ∧
    (∃ (s : State), s.dev.domOn .f0 = false) ∧
    (∃ (s : State), s.dev.domOn .h0 = true) ∧
    (∃ (s : State), s.dev.domOn .h0 = false) ∧
    (∃ (s : State), s.dev.domOn .f1 = true ∧ s.dev.fsec.kt = none) ∧
    (∃ (s : State) (kt : List Byte), s.dev.domOn .f1 = true ∧ s.dev.domOn .f4 = true ∧ s.dev.fsec.kt = some kt) ∧
    (∃ (s : State) (n : Fin 8), s.dev.domOn .f1 = true ∧ s.dev.domOn .f4 = true ∧ n.val ≤ 5) ∧
    (∃ (s : State) (n : Fin 8), s.dev.domOn .f1 = true ∧ 5 < n.val) ∧
    (∃ (s : State), s.dev.domOn .h1 = true) :=
  ⟨⟨at' allOn, by decide⟩,
   ⟨at' (let d := allOn; (d.wr R.FSYS_PWRSTAT.ON (clearBit (d.rd R.FSYS_PWRSTAT.ON) 0))), by decide⟩,
   ⟨at' allOn, by decide⟩,
   ⟨at' (let d := allOn; (d.wr R.HSYS_PWRSTAT.ON (clearBit (d.rd R.HSYS_PWRSTAT.ON) 0))), by decide⟩,
   ⟨at' (let d := allOn; { d with fsec := { d.fsec with kt := none } }), by decide⟩,
   ⟨at' (let d : Dev := allOn; { d with fsec := { d.fsec with kt := some (List.replicate 32 9) } }), List.replicate 32 9, by decide⟩,
   ⟨at' allOn, 5, by decide⟩,
   ⟨at' allOn, 6, by decide⟩,
   ⟨at' allOn, by decide⟩⟩

theorem witness_EnclaveCommands :
    (∃ (s : State) (b : EncBlock), s.dev.domOn .h1 = true ∧ 16 ≤ b.slot) ∧
    (∃ (s : State) (b : EncBlock), s.dev.domOn .h1 = true ∧ 0x10 ≤ b.purpose ∧ b.purpose ≤ 0x1F ∧ b.srcLen ≤ 32 ∧ b.slot < 16 ∧ (b.srcLen = 0 ∨ encRange b.src b.srcLen = true) ∧ s.dev.lc .host ≠ 4) ∧
    (∃ (s : State) (b : EncBlock), s.dev.domOn .h1 = true ∧ b.srcLen ≠ 0 ∧ encRange b.src b.srcLen = false) ∧
    (∃ (s : State) (b : EncBlock) (x : EncSlot), s.dev.domOn .h1 = true ∧ s.dev.encSlot b.slot = some x ∧ x.exportable = true ∧ encRange b.dst (x.key.length + 8) = true) ∧
    (∃ (s : State) (b : EncBlock) (x : EncSlot), s.dev.domOn .h1 = true ∧ s.dev.encSlot b.slot = some x ∧ x.exportable = false) ∧
    (∃ (s : State) (b : EncBlock), s.dev.domOn .h1 = true ∧ s.dev.encSlot b.slot = none) ∧
    (∃ (s : State) (b : EncBlock) (x : EncSlot), s.dev.domOn .h1 = true ∧ s.dev.encSlot b.slot = some x ∧ encRange b.src 48 = true ∧ encRange b.dst 96 = true) ∧
    (∃ (s : State) (b : EncBlock), s.dev.domOn .h1 = true ∧ encRange b.src 32 = true ∧ encRange b.dst 608 = true) ∧
    (∃ (s : State) (b : EncBlock), s.dev.domOn .h1 = true ∧ (b.slot = 2 ∨ b.slot = 3) ∧ encRange b.src 48 = true) ∧
    (∃ (s : State) (b : EncBlock), s.dev.domOn .h1 = true ∧ b.slot ≠ 2 ∧ b.slot ≠ 3) ∧
    (∃ (s : State) (b : EncBlock), s.dev.domOn .h1 = true ∧ encRange b.src 336 = true ∧ s.dev.on R.SEC_STATE.PAIRED = false) ∧
    (∃ (s : State) (b : EncBlock), s.dev.domOn .h1 = true ∧ encRange b.src 336 = true ∧ s.dev.on R.SEC_STATE.PAIRED = true) ∧
    (∃ (s : State) (b : EncBlock), s.dev.domOn .h1 = true ∧ b.slot = 0 ∧ encRange b.src 8 = true ∧ encRange b.dst 304 = true ∧ s.dev.on R.SEC_TRNG.FAIL = false) ∧
    (∃ (s : State) (b : EncBlock), s.dev.domOn .h1 = true ∧ b.slot = 0 ∧ encRange b.src 8 = true ∧ encRange b.dst 304 = true ∧ s.dev.on R.SEC_TRNG.FAIL = true) ∧
    (∃ (s : State) (b : EncBlock), s.dev.domOn .h1 = true ∧ b.slot = 1 ∧ encRange b.src 304 = true ∧ s.dev.enc.eph = none) ∧
    (∃ (s : State) (b : EncBlock), s.dev.domOn .h1 = true ∧ 2 ≤ b.slot) ∧
    (∃ (s : State) (b : EncBlock), s.dev.domOn .h1 = true ∧ (b.srcLen = 0 ∨ encRange b.src b.srcLen = true) ∧ encRange b.dst 48 = true ∧ s.dev.enc.kt = none) ∧
    (∃ (s : State) (b : EncBlock) (kt : List Byte), s.dev.domOn .h1 = true ∧ (b.srcLen = 0 ∨ encRange b.src b.srcLen = true) ∧ encRange b.dst 48 = true ∧ s.dev.enc.kt = some kt) ∧
    (∃ (s : State) (b : EncBlock), s.dev.domOn .h1 = true ∧ b.slot = 0xFE ∧ s.dev.on R.SEC_STATE.PAIRED = false) ∧
    (∃ (s : State) (b : EncBlock) (x : EncSlot), s.dev.domOn .h1 = true ∧ b.slot ≠ 0xFE ∧ s.dev.encSlot b.slot = some x ∧ (b.srcLen = 0 ∨ encRange b.src b.srcLen = true) ∧ encRange b.dst 65536 = true) ∧
    (∃ (s : State) (b : EncBlock), s.dev.domOn .h1 = true ∧ (b.dstLen = 0 ∨ encRange b.dst b.dstLen = true) ∧ s.dev.on R.SEC_TRNG.FAIL = false) ∧
    (∃ (s : State) (b : EncBlock), s.dev.domOn .h1 = true ∧ (b.dstLen = 0 ∨ encRange b.dst b.dstLen = true) ∧ s.dev.on R.SEC_TRNG.FAIL = true) :=
  ⟨⟨at' allOn, { slot := 16 }, by decide⟩,
   ⟨at' allOn, { slot := 15, purpose := 0x1F, src := 0x80000000, srcLen := 32 }, by decide⟩,
   ⟨at' allOn, { slot := 15, purpose := 0x1F, src := 0, srcLen := 32 }, by decide⟩,
   ⟨at' (let d : Dev := allOn; { d with enc := { d.enc with slots := setAt d.enc.slots 15 (some { key := [1,2,3], exportable := true }) } }), { slot := 15, dst := 0x80000000 }, { key := [1,2,3], exportable := true }, by decide⟩,
   ⟨at' (let d : Dev := allOn; { d with enc := { d.enc with slots := setAt d.enc.slots 15 (some { key := [1,2,3], exportable := false }) } }), { slot := 15 }, { key := [1,2,3], exportable := false }, by decide⟩,
   ⟨at' allOn, { slot := 15 }, by decide⟩,
   ⟨at' (let d : Dev := allOn; { d with enc := { d.enc with slots := setAt d.enc.slots 15 (some { key := [1,2,3], exportable := false }) } }), { slot := 15, src := 0x80000000, dst := 0x80000100 }, { key := [1,2,3], exportable := false }, by decide⟩,
   ⟨at' allOn, { src := 0x80000000, dst := 0x80000100 }, by decide⟩,
   ⟨at' allOn, { slot := 3, src := 0x80000000 }, by decide⟩,
   ⟨at' allOn, { slot := 4, src := 0x80000000 }, by decide⟩,
   ⟨at' (allOn.wr R.SEC_STATE.PAIRED 0), { src := 0x80000000 }, by decide⟩,
   ⟨at' (allOn.wr R.SEC_STATE.PAIRED 1), { src := 0x80000000 }, by decide⟩,
   ⟨at' (allOn.wr R.SEC_TRNG.FAIL 0), { slot := 0, src := 0x80000000, dst := 0x80000100 }, by decide⟩,
   ⟨at' (allOn.wr R.SEC_TRNG.FAIL 1), { slot := 0, src := 0x80000000, dst := 0x80000100 }, by decide⟩,
   ⟨at' (let d := allOn; { d with enc := { d.enc with eph := none } }), { slot := 1, src := 0x80000000, dst := 0x80000100 }, by decide⟩,
   ⟨at' allOn, { slot := 2 }, by decide⟩,
   ⟨at' (let d := allOn; { d with enc := { d.enc with kt := none } }), { src := 0x80000000, srcLen := 4, dst := 0x80000100 }, by decide⟩,
   ⟨at' (let d : Dev := allOn; { d with enc := { d.enc with kt := some [1] } }), { src := 0x80000000, srcLen := 4, dst := 0x80000100 }, [1], by decide⟩,
   ⟨at' (allOn.wr R.SEC_STATE.PAIRED 0), { slot := 0xFE }, by decide⟩,
   ⟨at' (let d : Dev := allOn; { d with enc := { d.enc with slots := setAt d.enc.slots 15 (some { key := [1,2,3], exportable := false }) } }), { slot := 15, src := 0x80000000, srcLen := 4, dst := 0x80000100 }, { key := [1,2,3], exportable := false }, by decide⟩,
   ⟨at' (allOn.wr R.SEC_TRNG.FAIL 0), { dst := 0x80000100, dstLen := 5 }, by decide⟩,
   ⟨at' (allOn.wr R.SEC_TRNG.FAIL 1), { dst := 0x80000100, dstLen := 5 }, by decide⟩⟩

theorem witness_DieTemperatures :
    (∃ (s : State) (conv : List (List Int)) (v : Nat → Int), s.dev.domOn .f1 = true ∧ conv.length = 12 ∧ (∀ i : Fin 12, conv.getD i [] = [v i] ∧ -600 ≤ v i ∧ v i ≤ 1600) ∧ s.dev.inj.field = [] ∧ (∀ i : Fin 12, s.dev.rd (R.FTHM_TEMP.FAULT i) = 0)) ∧
    (∃ (s : State) (bad : List Bool) (i : Fin 12), s.dev.domOn .f1 = true ∧ bad.getD i false = true) ∧
    (∃ (s : State) (conv : List (List Int)) (v : Nat → Int), s.dev.domOn .h1 = true ∧ conv.length = 8 ∧ (∀ i : Fin 8, conv.getD i [] = [v i] ∧ -600 ≤ v i ∧ v i ≤ 1600) ∧ s.dev.inj.host = [] ∧ (∀ i : Fin 8, s.dev.rd (R.HTHM_TEMP.FAULT i) = 0)) ∧
    (∃ (s : State) (bad : List Bool) (i : Fin 8), s.dev.domOn .h1 = true ∧ bad.getD i false = true) ∧
    (∃ (s : State), s.dev.th.shut = true ∧ s.dev.rd R.FTHM_STAT.SHUT = 1 ∧ s.dev.mode = .quench) ∧
    (∃ (s : State), (s.dev.th.shut = false ∨ s.dev.mode ≠ .quench)) ∧
    (∃ (s : State) (x : Nat), s.dev.domOn .f1 = true ∧ bits x 31 16 = 0xAC4D) ∧
    (∃ (x : Nat), bits x 31 16 ≠ 0xAC4D) ∧
    (∃ (s : State) (x : ShutRec), s.dev.domOn .f1 = true ∧ s.dev.th.f0 = some x ∧ s.dev.bil.commit = none ∧ s.dev.th.nor.length = 2) ∧
    (∃ (s : State), (s.dev.th.f0 = none ∨ s.dev.bil.commit.isSome = true)) :=
  ⟨⟨at' (let d := allOn; { d with inj := { d.inj with field := [] } }), List.replicate 12 [5], (fun _ => 5), by decide⟩,
   ⟨at' allOn, [false, true], 1, by decide⟩,
   ⟨at' (let d := allOn; { d with inj := { d.inj with host := [] } }), List.replicate 8 [5], (fun _ => 5), by decide⟩,
   ⟨at' allOn, [false, true], 1, by decide⟩,
   ⟨at' (((let d := allOn; { d with th := { d.th with shut := true } }).wr R.FTHM_STAT.SHUT 1).wr R.FSYS_MODE.MODE (Mode.code .quench)), by decide⟩,
   ⟨at' allOn, by decide⟩,
   ⟨at' allOn, 0xAC4D0001, by decide⟩,
   ⟨1, by decide⟩,
   ⟨at' (let d : Dev := (let d := allOn; { d with bil := { d.bil with commit := none } }); { d with th := { d.th with f0 := some { seq := 2 } } }), { seq := 2 }, by decide⟩,
   ⟨at' allOn, by decide⟩⟩

theorem witness_InjectionsJournalAshAndErrors :
    (∃ (s : State), s.dev.domOn .f1 = true ∧ (∀ x ∈ s.dev.inj.field, x.point < 32)) ∧
    (∃ (s : State), s.dev.domOn .h1 = true ∧ (∀ x ∈ s.dev.inj.host, 32 ≤ x.point)) ∧
    (∃ (s : State) (n : Fin 128) (x : FloodRec), s.dev.domOn .h1 = true ∧ s.dev.jr.flood.find? (fun y => y.src == n.val) = some x ∧ s.dev.jr.held = [] ∧ s.dev.ringReady 24 = true ∧ s.dev.jrnRingFits = true) ∧
    (∃ (s : State) (n : Fin 128), (s.dev.jr.flood.find? (fun y => y.src == n.val) = none ∨ s.dev.jr.held.any (fun h => h.src == n.val) = true)) ∧
    (∃ (s : State), s.dev.domOn .f1 = true ∧ s.dev.ash.pend = true ∧ s.dev.rd R.FDIA_ASHSTAT.STATE = 0) ∧
    (∃ (s : State), (s.dev.ash.pend = false ∨ s.dev.rd R.FDIA_ASHSTAT.STATE ≠ 0)) ∧
    (∃ (s : State), s.dev.domOn .f1 = true ∧ s.dev.rd R.FDIA_ASHSTAT.STATE = 1) ∧
    (∃ (s : State), s.dev.domOn .f1 = true ∧ s.dev.rd R.FDIA_ASHSTAT.STATE ≠ 1) ∧
    (∃ (s : State), s.dev.domOn .h1 = true ∧ s.dev.ash.hState = 1) ∧
    (∃ (s : State), s.dev.ash.hState ≠ 1) ∧
    (∃ (s : State) (sram : Bool), s.dev.domOn (if sram then .h1 else .h4) = true) ∧
    (∃ (s : State), s.dev.domOn .h4 = true) ∧
    (∃ (s : State), s.dev.domOn .f2 = true) :=
  ⟨⟨at' (let d : Dev := allOn; { d with inj := { d.inj with field := [{ point := 31, left := 2 }] } }), by decide⟩,
   ⟨at' (let d : Dev := allOn; { d with inj := { d.inj with host := [{ point := 32, left := 2 }] } }), by decide⟩,
   ⟨at' (let d : Dev := (let d := allOn; { d with jr := { d.jr with held := [] } }); (let e : Dev := (((({ d with jr := { d.jr with flood := [{ src := 5, total := 3 }] } } : Dev).wr (R.HRNG_CFG.EN 24) 1).wr (R.HRNG_CFG.SIZE 24) 12).wr (R.HRNG_TAIL.IDX 24) 1); { e with hmem := Mem.writeNat (Mem.writeNat (Mem.writeNat e.hmem 0 8 0xFA000000) 8 4 64) 24 4 1 })), 5, { src := 5, total := 3 }, by decide⟩,
   ⟨at' allOn, 1, by decide⟩,
   ⟨at' ((let d := allOn; { d with ash := { d.ash with pend := true } }).wr R.FDIA_ASHSTAT.STATE 0), by decide⟩,
   ⟨at' allOn, by decide⟩,
   ⟨at' (allOn.wr R.FDIA_ASHSTAT.STATE 1), by decide⟩,
   ⟨at' (allOn.wr R.FDIA_ASHSTAT.STATE 0), by decide⟩,
   ⟨at' (let d := allOn; { d with ash := { d.ash with hState := 1 } }), by decide⟩,
   ⟨at' allOn, by decide⟩,
   ⟨at' allOn, true, by decide⟩,
   ⟨at' allOn, by decide⟩,
   ⟨at' allOn, by decide⟩⟩

theorem witness_ThresholdsKeepTheirOrder :
    (∃ (s : State) (x : Nat), s.dev.domOn .f1 = true ∧ bits x 7 0 < bits x 15 8 ∧ bits x 15 8 < bits x 23 16 ∧ bits x 23 16 ≤ 125) ∧
    (∃ (s : State) (x : Nat), s.dev.domOn .f1 = true ∧ (¬ (bits x 7 0 < bits x 15 8 ∧ bits x 15 8 < bits x 23 16 ∧ bits x 23 16 ≤ 125))) ∧
    (∃ (s : State) (x : Nat), s.dev.domOn .f1 = true ∧ (∀ y ∈ [bits x 23 16, bits x 15 8, bits x 7 0], 1 ≤ y ∧ y ≤ 20)) ∧
    (∃ (s : State) (x : Nat), s.dev.domOn .f1 = true ∧ (¬ (∀ y ∈ [bits x 23 16, bits x 15 8, bits x 7 0], 1 ≤ y ∧ y ≤ 20))) ∧
    (∃ (s : State) (x : Nat), s.dev.domOn .h1 = true ∧ bits x 7 0 < bits x 15 8 ∧ bits x 15 8 < bits x 23 16 ∧ bits x 23 16 ≤ 125) ∧
    (∃ (s : State) (x : Nat), s.dev.domOn .h1 = true ∧ (¬ (bits x 7 0 < bits x 15 8 ∧ bits x 15 8 < bits x 23 16 ∧ bits x 23 16 ≤ 125))) ∧
    (∃ (s : State) (x : Nat), s.dev.domOn .h1 = true ∧ (∀ y ∈ [bits x 23 16, bits x 15 8, bits x 7 0], 1 ≤ y ∧ y ≤ 20)) ∧
    (∃ (s : State) (x : Nat), s.dev.domOn .h1 = true ∧ (¬ (∀ y ∈ [bits x 23 16, bits x 15 8, bits x 7 0], 1 ≤ y ∧ y ≤ 20))) :=
  ⟨⟨at' allOn, 0x7D7C7B, by decide⟩,
   ⟨at' allOn, 0x7E0201, by decide⟩,
   ⟨at' allOn, 0x140101, by decide⟩,
   ⟨at' allOn, 0x150101, by decide⟩,
   ⟨at' allOn, 0x7D7C7B, by decide⟩,
   ⟨at' allOn, 0x7E0201, by decide⟩,
   ⟨at' allOn, 0x140101, by decide⟩,
   ⟨at' allOn, 0x150101, by decide⟩⟩

theorem witness_BadAccessesOfTheFmpChangeNothing :
    (∃ (s : State) (a : Nat) (w : Bool) (n : Bool), s.dev.domOn .f1 = true ∧ s.dev.isBadField a w n = true) ∧
    (∃ (s : State) (a : Nat) (w : Bool) (n : Bool), s.dev.domOn .f1 = true ∧ s.dev.isBadField a w n = false) :=
  ⟨⟨at' allOn, 0xFFFFFFFF, true, true, by decide⟩,
   ⟨at' allOn, R.FSYS_MODE.MODE.addr, true, false, by decide⟩⟩

theorem witness_HostReservedAccessesReadZero :
    (∃ (s : State) (a : Nat) (n : Bool), s.dev.domOn .h1 = true ∧ 0x20000000 ≤ a ∧ a ≤ 0x200BFFFF ∧ (n = true ∨ s.dev.regAt a = none)) ∧
    (∃ (s : State) (a : Nat) (w : Bool) (m : Bool), s.dev.domOn .h1 = true ∧ (a < 0x20000000 ∨ 0x200BFFFF < a) ∧ s.dev.hostBusError a w m = true) ∧
    (∃ (s : State) (a : Nat) (w : Bool) (m : Bool), s.dev.domOn .h1 = true ∧ (a < 0x20000000 ∨ 0x200BFFFF < a) ∧ s.dev.hostBusError a w m = false) :=
  ⟨⟨at' allOn, 0x200BFFFF, true, by decide⟩,
   ⟨at' allOn, 0x43FFFFFF, true, true, by decide⟩,
   ⟨at' allOn, 0x43FFFFFF, false, true, by decide⟩⟩

theorem witness_RegisterAccessesFollowTheirType :
    (∃ (s : State) (a : Nat) (r : RegDesc), s.dev.domOn .f1 = true ∧ (a / 0x10000 = 0x01 ∨ a / 0x10000 = 0x12 ∨ a / 0x10000 = 0x13) ∧ s.dev.regAt a = some r ∧ (r.fields.map (fun fd => fd.lo)).Nodup) ∧
    (∃ (s : State) (a : Nat) (r : RegDesc), s.dev.domOn .f1 = true ∧ a / 0x10000 = 0x29 ∧ s.dev.view a = none ∧ s.dev.regAt a = some r ∧ (r.fields.map (fun fd => fd.lo)).Nodup) ∧
    (∃ (s : State), s.dev.domOn .f1 = true ∧ s.dev.domOn .f2 = true) ∧
    (∃ (s : State) (a : Nat), s.dev.domOn .h1 = true ∧ 0x10000000 ≤ a ∧ a ≤ 0x107FFFFC ∧ a % 4 = 0) ∧
    (∃ (s : State) (a : Nat), s.dev.domOn .h1 = true ∧ a ≤ 0xFFFF) :=
  ⟨⟨at' allOn, 0x10000, (findReg 0x10000).getD ⟨"", 0, [], []⟩, by decide⟩,
   ⟨at' allOn, 0x290000, (findReg 0x290000).getD ⟨"", 0, [], []⟩, by decide⟩,
   ⟨at' allOn, by decide⟩,
   ⟨at' allOn, 0x107FFFFC, by decide⟩,
   ⟨at' allOn, 0xFFFF, by decide⟩⟩

theorem witness_StepRunsTheFrontOrIdles :
    (∃ (s : State), s.pending = []) :=
  ⟨at' allOn, by decide⟩

theorem witness_DeadTimeSeparatesThePads :
    (∃ (c : LegSet) (p : Nat), c.dtr + c.dtf + c.tmin ≤ p) ∧
    (∃ (c : LegSet) (p duty : Nat) (carry : Int) (q : Plan), q ∈ [planNormal c p duty carry, planTab c p duty] ∧ q.ah0 < q.ah1 ∧
      0 < q.ah0 ∧ q.bl1 < p) :=
  ⟨⟨{ dtr := 10, dtf := 12, tmin := 5 }, 27, by decide⟩,
   ⟨{ dtr := 10, dtf := 12, tmin := 5 }, 6400, 2 ^ 30, 0, planNormal { dtr := 10, dtf := 12, tmin := 5 } 6400 (2 ^ 30) 0, by decide⟩⟩

theorem witness_EveryStepKeepsTheCanonicalForm :
    ∃ s t : State, RegsCanonical s ∧ MemCanonical s ∧ s.dev.Shaped ∧ step s = .next t ∧ s.pending = [.stsPersist 1] :=
  ⟨{ State.reset with pending := [.stsPersist 1] }, _, rfl, ⟨rfl, rfl⟩, ⟨rfl, ⟨rfl, rfl, rfl⟩, rfl, rfl, rfl, rfl, rfl, ⟨rfl, rfl, rfl, rfl⟩, rfl, ⟨rfl, rfl, rfl⟩, ⟨rfl, rfl, rfl, rfl⟩, ⟨rfl, rfl⟩, rfl, ⟨rfl, rfl⟩, rfl, rfl, ⟨rfl, rfl, rfl, rfl, rfl⟩, rfl, ⟨rfl, rfl⟩, rfl⟩, rfl, rfl⟩

theorem witness_FusesAreBlownOneWay : ∃ s t : State, step s = .next t ∧ s.pending = [.stsPersist 1] :=
  ⟨{ State.reset with pending := [.stsPersist 1] }, _, rfl, rfl⟩

end Sys2Proof.Tests
end

section
/-! What one step can do to the block, and from it the canonical form kept by every step and met at reset (R5, R10, R35,
22_register_map.md). Each command's reach is proved beside the command's own laws; here they are put together along the dispatch. -/

namespace Sys2Proof.Machine

/-! ## The reach of a command and of a step -/

/-- One case per command, in the order of the dispatch: the command answers a next state, keeps the queue it was given, and
changes the block within its footprint. -/
theorem exec_reach : ∀ (c : Instr) (s : State), ∃ e, exec c s = .next { s with dev := e } ∧ Reach (footprint c) s.dev e
  | .powerOnReset side, s => execPowerOnReset_reach side s
  | .supplyMonitorReset side, s => execSupplyMonitorReset_reach side s
  | .batterySwitchover side toBattery, s => execBatterySwitchover_reach side toBattery s
  | .watchdogService side value, s => execWatchdogService_reach side value s
  | .watchdogStage1 side, s => execWatchdogStage1_reach side s
  | .watchdogStage2Field, s => execWatchdogStage2Field_reach s
  | .watchdogStage2Host, s => execWatchdogStage2Host_reach s
  | .swFmp key, s => execSwFmp_reach key s
  | .swField key, s => execSwField_reach key s
  | .swWarm key, s => execSwWarm_reach key s
  | .swCold key, s => execSwCold_reach key s
  | .lsFmp, s => execLsFmp_reach s
  | .lsMet, s => execLsMet_reach s
  | .ceLockstepMismatch, s => execCeLockstepMismatch_reach s
  | .lsEnc, s => execLsEnc_reach s
  | .thermalReset side, s => execThermalReset_reach side s
  | .fmpRestartComplete, s => execFmpRestartComplete_reach s
  | .bootComplete selfTest image, s => execBootComplete_reach selfTest image s
  | .modeReq tag target, s => execModeReq_reach tag target s
  | .reArm tag target ack, s => execReArm_reach tag target ack s
  | .fsysModereq target, s => execFsysModereq_reach target s
  | .fsysModereqRearm target, s => execFsysModereqRearm_reach target s
  | .sampleInstant blockSwitch, s => execSampleInstant_reach blockSwitch s
  | .tHbExpiry, s => execTHbExpiry_reach s
  | .tAutoExpiry, s => execTAutoExpiry_reach s
  | .quenchLimitExpiry, s => execQuenchLimitExpiry_reach s
  | .blockDisableRequest block, s => execBlockDisableRequest_reach block s
  | .blockEnableRequest block, s => execBlockEnableRequest_reach block s
  | .drainComplete block, s => execDrainComplete_reach block s
  | .flueLinkUp, s => execFlueLinkUp_reach s
  | .flueRetrain sender lane fails, s => execFlueRetrain_reach sender lane fails s
  | .flueCellSlot sender, s => execFlueCellSlot_reach sender s
  | .flueCellReceive receiver cell, s => execFlueCellReceive_reach receiver cell s
  | .heartbeat hbSeq hostState, s => execHeartbeat_reach hbSeq hostState s
  | .hbAck hbSeq modeWord stc, s => execHbAck_reach hbSeq modeWord stc s
  | .tripDevice scope index msgid reason, s => execTripDevice_reach scope index msgid reason s
  | .tripOutput index msgid reason, s => execTripOutput_reach index msgid reason s
  | .tripLegGroup index msgid reason, s => execTripLegGroup_reach index msgid reason s
  | .quenchAll msgid reason, s => execQuenchAll_reach msgid reason s
  | .quenchOut mask msgid reason, s => execQuenchOut_reach mask msgid reason s
  | .paramWr payload, s => execParamWr_reach payload s
  | .paramRd payload, s => execParamRd_reach payload s
  | .targetSet payload, s => execTargetSet_reach payload s
  | .paramRsp tag status index count ty values, s => execParamRsp_reach tag status index count ty values s
  | .timeSync stc fr state source utc err, s => execTimeSync_reach stc fr state source utc err s
  | .event number kind count first last data, s => execEvent_reach number kind count first last data s
  | .telemetry block inst window ms values, s => execTelemetry_reach block inst window ms values s
  | .recordReady output kind number stc, s => execRecordReady_reach output kind number stc s
  | .imgCtrlBegin xfer length, s => execImgCtrlBegin_reach xfer length s
  | .imgData xfer offset bytes, s => execImgData_reach xfer offset bytes s
  | .imgCtrlEnd xfer digest, s => execImgCtrlEnd_reach xfer digest s
  | .imgCtrlAbort xfer, s => execImgCtrlAbort_reach xfer s
  | .imgStat xfer status, s => execImgStat_reach xfer status s
  | .streamValidationComplete damaged, s => execStreamValidationComplete_reach damaged s
  | .stsPersist value, s => execStsPersist_reach value s
  | .persistComplete readBack, s => execPersistComplete_reach readBack s
  | .stsSwapctlArm, s => execStsSwapctlArm_reach s
  | .stsSwapctlCancel, s => execStsSwapctlCancel_reach s
  | .streamSwap, s => execStreamSwap_reach s
  | .ppsInEdge cap, s => execPpsInEdge_reach cap s
  | .ppsMissingSecond, s => execPpsMissingSecond_reach s
  | .ptpMessage port rx m, s => execPtpMessage_reach port rx m s
  | .pdelayReqSend port, s => execPdelayReqSend_reach port s
  | .ptpOffsetSample port ofs, s => execPtpOffsetSample_reach port ofs s
  | .ptpSampleTimeout port, s => execPtpSampleTimeout_reach port s
  | .servoSampleTimeout, s => execServoSampleTimeout_reach s
  | .stcStep, s => execStcStep_reach s
  | .esterrLimit, s => execEsterrLimit_reach s
  | .stcSecond, s => execStcSecond_reach s
  | .ppsOutFall, s => execPpsOutFall_reach s
  | .stcSetsecHiArm value, s => execStcSetsecHiArm_reach value s
  | .stcNowLoRead, s => execStcNowLoRead_reach s
  | .stcMillisecond, s => execStcMillisecond_reach s
  | .tenUsGrid, s => execTenUsGrid_reach s
  | .measurementLatch bits, s => execMeasurementLatch_reach bits s
  | .writePhase, s => execWritePhase_reach s
  | .ceMvm a ecc, s => execCeMvm_reach a ecc s
  | .ceMva a ecc, s => execCeMva_reach a ecc s
  | .ceWb a ecc, s => execCeWb_reach a ecc s
  | .ceVadd a ecc, s => execCeVadd_reach a ecc s
  | .ceVsub a ecc, s => execCeVsub_reach a ecc s
  | .ceVlim a ecc, s => execCeVlim_reach a ecc s
  | .ceMov a ecc, s => execCeMov_reach a ecc s
  | .ceLut a ecc, s => execCeLut_reach a ecc s
  | .ceSlew a ecc, s => execCeSlew_reach a ecc s
  | .ceBq a ecc, s => execCeBq_reach a ecc s
  | .ceResid a ecc, s => execCeResid_reach a ecc s
  | .ceFerr a ecc, s => execCeFerr_reach a ecc s
  | .ceIdle a, s => execCeIdle_reach a s
  | .ceEnd a, s => execCeEnd_reach a s
  | .cenDbgHalt halt, s => execCenDbgHalt_reach halt s
  | .cenDbgStep, s => execCenDbgStep_reach s
  | .lawManWrite block value, s => execLawManWrite_reach block value s
  | .encoderTransition axis a b, s => execEncoderTransition_reach axis a b s
  | .encoderIndexEdge axis, s => execEncoderIndexEdge_reach axis s
  | .axisEnable axis, s => execAxisEnable_reach axis s
  | .axisDisable axis, s => execAxisDisable_reach axis s
  | .axisClr axis, s => execAxisClr_reach axis s
  | .stoptimeExpiry axis, s => execStoptimeExpiry_reach axis s
  | .dgrVarreq block value, s => execDgrVarreq_reach block value s
  | .dgrLostWrite block value, s => execDgrLostWrite_reach block value s
  | .legSheddingEvaluation, s => execLegSheddingEvaluation_reach s
  | .periodStart leg, s => execPeriodStart_reach leg s
  | .pwmGrpdivWrite group value, s => execPwmGrpdivWrite_reach group value s
  | .pwmForceWrite leg value, s => execPwmForceWrite_reach leg value s
  | .tripInputFall input, s => execTripInputFall_reach input s
  | .tripQualification input, s => execTripQualification_reach input s
  | .tripInputRise input, s => execTripInputRise_reach input s
  | .trpClr word value, s => execTrpClr_reach word value s
  | .trpSwclr value, s => execTrpSwclr_reach value s
  | .syncInEdge cap, s => execSyncInEdge_reach cap s
  | .syncInMissing, s => execSyncInMissing_reach s
  | .syncInEnable, s => execSyncInEnable_reach s
  | .syncInDisable, s => execSyncInDisable_reach s
  | .triggerCompare group cmp, s => execTriggerCompare_reach group cmp s
  | .modConditionPresent kind index, s => execModConditionPresent_reach kind index s
  | .modConditionEnd kind index, s => execModConditionEnd_reach kind index s
  | .fbaConversionSlot conv raw, s => execFbaConversionSlot_reach conv raw s
  | .ctrStart seq, s => execCtrStart_reach seq s
  | .ctrSequencerBoundary fb, s => execCtrSequencerBoundary_reach fb s
  | .ctrStepTimeout engine, s => execCtrStepTimeout_reach engine s
  | .coilMismatch coil, s => execCoilMismatch_reach coil s
  | .imdEnable ch, s => execImdEnable_reach ch s
  | .imdHalfPeriodEnd ch, s => execImdHalfPeriodEnd_reach ch s
  | .demandRecordTransmit, s => execDemandRecordTransmit_reach s
  | .demandRecord payload, s => execDemandRecord_reach payload s
  | .shareCutoff, s => execShareCutoff_reach s
  | .shrNextatArm value, s => execShrNextatArm_reach value s
  | .thermalDerateStep, s => execThermalDerateStep_reach s
  | .routingPlan, s => execRoutingPlan_reach s
  | .routingZeroTimeout, s => execRoutingZeroTimeout_reach s
  | .ethLinkChange port up supported, s => execEthLinkChange_reach port up supported s
  | .ethFrameReceive port frame fcsOk, s => execEthFrameReceive_reach port frame fcsOk s
  | .ethTransmitStart port, s => execEthTransmitStart_reach port s
  | .fnetGclctlApply port nent, s => execFnetGclctlApply_reach port nent s
  | .svFrame m, s => execSvFrame_reach m s
  | .svSampleDeadline sub, s => execSvSampleDeadline_reach sub s
  | .svSubscriptionEnable sub, s => execSvSubscriptionEnable_reach sub s
  | .svSubscriptionDisable sub, s => execSvSubscriptionDisable_reach sub s
  | .svSubscriptionReconfigure sub, s => execSvSubscriptionReconfigure_reach sub s
  | .svPublication pub raws len, s => execSvPublication_reach pub raws len s
  | .gooseFrame m, s => execGooseFrame_reach m s
  | .gooseTtlExpiry sub, s => execGooseTtlExpiry_reach sub s
  | .gooseSubscriptionEnable sub, s => execGooseSubscriptionEnable_reach sub s
  | .gooseSubscriptionDisable sub, s => execGooseSubscriptionDisable_reach sub s
  | .metrologyInstant main vh, s => execMetrologyInstant_reach main vh s
  | .metrologyReturnWait channel, s => execMetrologyReturnWait_reach channel s
  | .testPulseStart k, s => execTestPulseStart_reach k s
  | .testPulseEnd k, s => execTestPulseEnd_reach k s
  | .testOutputConfigWrite k isConst value, s => execTestOutputConfigWrite_reach k isConst value s
  | .metEclr value, s => execMetEclr_reach value s
  | .lrImageStaged version svn sum, s => execLrImageStaged_reach version svn sum s
  | .lrActivate key, s => execLrActivate_reach key s
  | .lrSwitchComplete ok, s => execLrSwitchComplete_reach ok s
  | .metrologyProcessorRunning, s => execMetrologyProcessorRunning_reach s
  | .sealRequest key, s => execSealRequest_reach key s
  | .sealComplete, s => execSealComplete_reach s
  | .commitRequest, s => execCommitRequest_reach s
  | .commit15Min, s => execCommit15Min_reach s
  | .commitComplete ok, s => execCommitComplete_reach ok s
  | .shutdownRecordNorCopy, s => execShutdownRecordNorCopy_reach s
  | .sessionOpen output, s => execSessionOpen_reach output s
  | .sessionClose output, s => execSessionClose_reach output s
  | .sessionRecordSigned output, s => execSessionRecordSigned_reach output s
  | .bilRecack value, s => execBilRecack_reach value s
  | .bilLogack value, s => execBilLogack_reach value s
  | .recReqBegin xfer number, s => execRecReqBegin_reach xfer number s
  | .recData xfer offset bytes last, s => execRecData_reach xfer offset bytes last s
  | .theftWatchBlock samples, s => execTheftWatchBlock_reach samples s
  | .outLock output, s => execOutLock_reach output s
  | .outUnlock output, s => execOutUnlock_reach output s
  | .outStart output, s => execOutStart_reach output s
  | .outStop output, s => execOutStop_reach output s
  | .outClr output, s => execOutClr_reach output s
  | .tlockExpiry output, s => execTlockExpiry_reach output s
  | .tinsExpiry output, s => execTinsExpiry_reach output s
  | .tpreExpiry output, s => execTpreExpiry_reach output s
  | .trampExpiry output, s => execTrampExpiry_reach output s
  | .tdisExpiry output, s => execTdisExpiry_reach output s
  | .outSequenceRetry output, s => execOutSequenceRetry_reach output s
  | .connectorChange output present, s => execConnectorChange_reach output present s
  | .enableLoopChange output closed, s => execEnableLoopChange_reach output closed s
  | .t1sFrame port frame fcsOk collisions, s => execT1sFrame_reach port frame fcsOk collisions s
  | .controlPilotPeriod port high low dutyM, s => execControlPilotPeriod_reach port high low dutyM s
  | .proximityReading port res, s => execProximityReading_reach port res s
  | .flowWindow output count, s => execFlowWindow_reach output count s
  | .fanStall output, s => execFanStall_reach output s
  | .stkCtlWake, s => execStkCtlWake_reach s
  | .chainRewake, s => execChainRewake_reach s
  | .wakeComplete, s => execWakeComplete_reach s
  | .enumComplete, s => execEnumComplete_reach s
  | .chainNop sat, s => execChainNop_reach sat s
  | .chainEnum fromB, s => execChainEnum_reach fromB s
  | .chainEcho fromB sat, s => execChainEcho_reach fromB sat s
  | .chainCfg sat, s => execChainCfg_reach sat s
  | .chainSnap, s => execChainSnap_reach s
  | .chainRead fromB, s => execChainRead_reach fromB s
  | .chainBal fromB, s => execChainBal_reach fromB s
  | .chainOwt, s => execChainOwt_reach s
  | .chainSleep, s => execChainSleep_reach s
  | .chainResponse fromB frame rtt, s => execChainResponse_reach fromB frame rtt s
  | .chainResponseMissed fromB, s => execChainResponseMissed_reach fromB s
  | .stkOwcfgStart owper owthr, s => execStkOwcfgStart_reach owper owthr s
  | .openWirePeriod, s => execOpenWirePeriod_reach s
  | .bufferGo, s => execBufferGo_reach s
  | .bufferStop, s => execBufferStop_reach s
  | .bufferTqExpiry, s => execBufferTqExpiry_reach s
  | .hrngTailWrite ring index, s => execHrngTailWrite_reach ring index s
  | .ringCoalTimeout ring, s => execRingCoalTimeout_reach ring s
  | .dramScrub errors, s => execDramScrub_reach errors s
  | .hostBadAccess addr write narrow machine, s => execHostBadAccess_reach addr write narrow machine s
  | .hsysImgok value, s => execHsysImgok_reach value s
  | .hevtClaimRead core, s => execHevtClaimRead_reach core s
  | .hevtClaimWrite source, s => execHevtClaimWrite_reach source s
  | .gpioEdge pin level, s => execGpioEdge_reach pin level s
  | .canTxReq ctrl buf, s => execCanTxReq_reach ctrl buf s
  | .canTxAbort ctrl buf, s => execCanTxAbort_reach ctrl buf s
  | .canStartOfFrame ctrl, s => execCanStartOfFrame_reach ctrl s
  | .canTransmitComplete ctrl, s => execCanTransmitComplete_reach ctrl s
  | .canArbitrationLost ctrl, s => execCanArbitrationLost_reach ctrl s
  | .canFrameError ctrl lec step, s => execCanFrameError_reach ctrl lec step s
  | .canRecover ctrl, s => execCanRecover_reach ctrl s
  | .canBusoffRecoveryComplete ctrl, s => execCanBusoffRecoveryComplete_reach ctrl s
  | .canFrameReceived ctrl words, s => execCanFrameReceived_reach ctrl words s
  | .canMailboxLock ctrl mb, s => execCanMailboxLock_reach ctrl mb s
  | .canMailboxRelease ctrl mb, s => execCanMailboxRelease_reach ctrl mb s
  | .canRxpop ctrl, s => execCanRxpop_reach ctrl s
  | .canFilterWrite ctrl mb reg value, s => execCanFilterWrite_reach ctrl mb reg value s
  | .debugUnlock die token, s => execDebugUnlock_reach die token s
  | .lifecycleToken die token fuseOk, s => execLifecycleToken_reach die token fuseOk s
  | .slotProgram die token fuseOk, s => execSlotProgram_reach die token fuseOk s
  | .slotRevoke die token fuseOk, s => execSlotRevoke_reach die token fuseOk s
  | .injectionToken die token, s => execInjectionToken_reach die token s
  | .relock die, s => execRelock_reach die s
  | .fsecPairctlGo, s => execFsecPairctlGo_reach s
  | .keyLoad target, s => execKeyLoad_reach target s
  | .keySlotClear target, s => execKeySlotClear_reach target s
  | .fsecStmtctlGo, s => execFsecStmtctlGo_reach s
  | .encDerive blk, s => execEncDerive_reach blk s
  | .encUnwrap blk, s => execEncUnwrap_reach blk s
  | .encWrap blk, s => execEncWrap_reach blk s
  | .encSign blk, s => execEncSign_reach blk s
  | .encAttest blk, s => execEncAttest_reach blk s
  | .encExtend blk, s => execEncExtend_reach blk s
  | .encFieldmeas blk, s => execEncFieldmeas_reach blk s
  | .encPair blk, s => execEncPair_reach blk s
  | .encKeywrapf blk, s => execEncKeywrapf_reach blk s
  | .encAead blk, s => execEncAead_reach blk s
  | .encRandom blk, s => execEncRandom_reach blk s
  | .encClear blk, s => execEncClear_reach blk s
  | .secMonoinc mask, s => execSecMonoinc_reach mask s
  | .trngHealthFailure die, s => execTrngHealthFailure_reach die s
  | .tamperInput die input low, s => execTamperInput_reach die input low s
  | .boundaryScanInstruction die drives, s => execBoundaryScanInstruction_reach die drives s
  | .thermalReading side conv failed, s => execThermalReading_reach side conv failed s
  | .tqsExpiry, s => execTqsExpiry_reach s
  | .hostShutdownClear, s => execHostShutdownClear_reach s
  | .thresholdWrite side hyst value, s => execThresholdWrite_reach side hyst value s
  | .fthmRecctl value, s => execFthmRecctl_reach value s
  | .hthmShutrecClr, s => execHthmShutrecClr_reach s
  | .injectionStart side point inst, s => execInjectionStart_reach side point inst s
  | .injectionStop side, s => execInjectionStop_reach side s
  | .injectionEnd point inst, s => execInjectionEnd_reach point inst s
  | .journalAllowance, s => execJournalAllowance_reach s
  | .floodEnd source, s => execFloodEnd_reach source s
  | .jrnData xfer offset bytes last, s => execJrnData_reach xfer offset bytes last s
  | .captureArm, s => execCaptureArm_reach s
  | .captureTrigger, s => execCaptureTrigger_reach s
  | .captureStop, s => execCaptureStop_reach s
  | .capReqBegin xfer len, s => execCapReqBegin_reach xfer len s
  | .capReqEnd xfer, s => execCapReqEnd_reach xfer s
  | .capReqAbort xfer, s => execCapReqAbort_reach xfer s
  | .capData xfer offset bytes last, s => execCapData_reach xfer offset bytes last s
  | .fieldAshReady area, s => execFieldAshReady_reach area s
  | .ashReqBegin xfer, s => execAshReqBegin_reach xfer s
  | .ashData xfer offset bytes last, s => execAshData_reach xfer offset bytes last s
  | .fdiaAshctlClr, s => execFdiaAshctlClr_reach s
  | .hdiaAshctlSnap, s => execHdiaAshctlSnap_reach s
  | .hdiaAshctlExported, s => execHdiaAshctlExported_reach s
  | .ashGatherComplete endOff, s => execAshGatherComplete_reach endOff s
  | .badAccess addr write narrow, s => execBadAccess_reach addr write narrow s
  | .registerWrite addr value, s => execRegisterWrite_reach addr value s
  | .registerReadClear addr, s => execRegisterReadClear_reach addr s
  | .latchedPairRead addr, s => execLatchedPairRead_reach addr s
  | .heartbeatSend, s => execHeartbeatSend_reach s
  | .hfluHbkick value, s => execHfluHbkick_reach value s
  | .hfluTxwinCommit win, s => execHfluTxwinCommit_reach win s
  | .fieldLost, s => execFieldLost_reach s
  | .noCreditTimeout queue, s => execNoCreditTimeout_reach queue s
  | .timeSyncMissing, s => execTimeSyncMissing_reach s
  | .supplyRelease side, s => execSupplyRelease_reach side s
  | .batteryLoss side, s => execBatteryLoss_reach side s
  | .trngHealthRecovery die, s => execTrngHealthRecovery_reach die s
  | .tachEdge output, s => execTachEdge_reach output s
  | .hostEccError sram addr uncorr, s => execHostEccError_reach sram addr uncorr s
  | .fmpWindowEccError addr, s => execFmpWindowEccError_reach addr s
  | .plcaStatusChange port ok jabber, s => execPlcaStatusChange_reach port ok jabber s
  | .peripheralTransfer inst bytes err, s => execPeripheralTransfer_reach inst bytes err s

/-- A step is the front command's or the idle cycle's, so some mask bounds what it does to the block. -/
theorem step_reach {s t : State} (h : step s = .next t) : ∃ m, Reach m s.dev t.dev := by
  obtain ⟨d, _ | ⟨c, rest⟩⟩ := s
  · cases h
    exact ⟨_, Dev.idle_reach d⟩
  · obtain ⟨e, he, hr⟩ := exec_reach c ⟨d, rest⟩
    cases he.symm.trans h
    exact ⟨_, hr⟩

/-! ## What a reach keeps -/

theorem MemStep.wf {m n : Mem} (h : MemStep m n) (hm : Mem.wf m = true) : Mem.wf n = true := by
  induction h with
  | refl => exact hm
  | write _ a bs ih => exact Mem.writeBytes_wf _ a bs ih
  | drop _ p ih => exact (Mem.filter_wf p _ ih).1
  | clear => rfl

/-- A memory that is as before, or went through memory changes, keeps its canonical form: the two cases of a memory in `Same`. -/
theorem Mem.wf_of_eq_or_memStep {m n : Mem} {c : Prop} (h : n = m ∨ c ∧ MemStep m n) (hm : Mem.wf m = true) : Mem.wf n = true := by
  obtain rfl | ⟨-, hs⟩ := h
  · exact hm
  · exact hs.wf hm

theorem Reach.regs_wf {m : Nat} {d e : Dev} (r : Reach m d e) (h : Regs.wf d.regs = true) : Regs.wf e.regs = true := by
  induction r with
  | refl => exact h
  | wr f v _ _ ih => exact Regs.set_wf _ f v ih
  | reset p _ _ ih => exact Regs.resetWhere_wf _ (fun k => p (domOfKey k)) ih
  | parts same _ _ ih => exact same.regs ▸ ih

theorem Reach.mem_wf {m : Nat} {d e : Dev} (r : Reach m d e) (h : Mem.wf d.fmem = true ∧ Mem.wf d.hmem = true) :
    Mem.wf e.fmem = true ∧ Mem.wf e.hmem = true := by
  induction r with
  | refl => exact h
  | wr _ _ _ _ ih => exact ih
  | reset _ _ _ ih => exact ih
  | parts same _ _ ih => exact ⟨Mem.wf_of_eq_or_memStep same.fmem ih.1, Mem.wf_of_eq_or_memStep same.hmem ih.2⟩

/-- Settles O58: every step reaches its next block, and a reach keeps both canonical forms and every fixed length. -/
theorem everyStepKeepsTheCanonicalForm : Obligations.EveryStepKeepsTheCanonicalForm := by
  intro s t h
  obtain ⟨m, hr⟩ := step_reach h
  exact ⟨hr.regs_wf, hr.mem_wf, hr.shaped⟩

/-! ## The state at reset -/

/-- The register file lists no field at reset, so each reads its reset value. -/
@[simp] theorem State.reset_rd (f : Fld) : State.reset.dev.rd f = f.reset := rfl

theorem State.reset_regsCanonical : RegsCanonical State.reset := rfl

theorem State.reset_memCanonical : MemCanonical State.reset := ⟨rfl, rfl⟩

theorem State.reset_shaped : State.reset.dev.Shaped where
  tm := rfl
  ce := ⟨List.length_replicate, List.length_replicate, List.length_replicate⟩
  dgr := rfl
  pwm := List.length_replicate
  out := rfl
  cbl := rfl
  veh := rfl
  fba := ⟨rfl, rfl, rfl, rfl⟩
  imd := rfl
  net := ⟨rfl, rfl, rfl⟩
  svg := ⟨rfl, rfl, rfl, rfl⟩
  met := ⟨rfl, rfl⟩
  bil := rfl
  bst := ⟨rfl, rfl⟩
  ffuse := rfl
  hfuse := rfl
  stk := ⟨rfl, rfl, rfl, rfl, rfl⟩
  can := rfl
  hp := ⟨rfl, rfl⟩
  th := rfl

/-- The power domains at reset: what the reset values of FSYS_PWRSTAT and HSYS_PWRSTAT say. -/
theorem State.reset_domOn : State.reset.dev.domOn .f1 = true ∧ State.reset.dev.domOn .h1 = true ∧
    State.reset.dev.domOn .f4 = false ∧ State.reset.dev.domOn .h3 = false := by
  simp only [Dev.domOn, State.reset_rd]
  decide

theorem State.reset_mode : State.reset.dev.mode = .kindling := by
  simp only [Dev.mode, State.reset_rd]
  decide

/-- Settles O59: reset is the block of empty register file and memories, with each unit as its type's default has it. -/
theorem resetIsAsTheTablesSay : Obligations.ResetIsAsTheTablesSay := by
  obtain ⟨hf1, hh1, hf4, hh3⟩ := State.reset_domOn
  exact ⟨State.reset_rd, rfl, rfl, rfl, State.reset_regsCanonical, State.reset_memCanonical, State.reset_shaped,
    State.reset_mode, rfl, rfl, rfl, rfl, rfl, hf1, hh1, hf4, hh3⟩

end Sys2Proof.Machine
end

section
/-! The frame of every command (R14, 01_architecture.md): a reach within a mask leaves the parts outside the mask alone, and each
command's reach is within its footprint. -/

namespace Sys2Proof.Machine

/-- A part outside the mask that only a change named by the mask can touch keeps the value it was known to have. -/
theorem Part.kept_of_changed {α : Type} {m p : Nat} {a b c : α} (h : c = b ∨ Part.on m p = true)
    (hb : Part.on m p = false → b = a) (hp : Part.on m p = false) : c = a :=
  (h.resolve_right (hp ▸ Bool.false_ne_true)).trans (hb hp)

/-- Any other register file may stand in the block when the mask names the registers: the case of a field write and of a reset. -/
theorem Dev.OnlyIn.with_regs {m : Nat} {d e : Dev} {r : Regs} (h : d.OnlyIn m e) (hm : Part.on m Part.regs = true) :
    d.OnlyIn m { e with regs := r } :=
  { h with regs := Part.kept_of_changed (.inr hm) h.regs }

/-- The frame goes on over one more change within the mask, part by part as `Same` lists them. -/
theorem Dev.OnlyIn.same {m : Nat} {d e e' : Dev} (h : d.OnlyIn m e) (s : Same m e e') : d.OnlyIn m e' where
  regs := Part.kept_of_changed (.inl s.regs) h.regs
  fmem := Part.kept_of_changed (s.fmem.imp_right And.left) h.fmem
  hmem := Part.kept_of_changed (s.hmem.imp_right And.left) h.hmem
  lastRead := Part.kept_of_changed s.lastRead h.lastRead
  busError := Part.kept_of_changed s.busError h.busError
  free := Part.kept_of_changed s.free h.free
  inj := Part.kept_of_changed s.inj h.inj
  jr := Part.kept_of_changed s.jr h.jr
  rings := Part.kept_of_changed s.rings h.rings
  pw := Part.kept_of_changed s.pw h.pw
  fl := Part.kept_of_changed s.fl h.fl
  tm := Part.kept_of_changed s.tm h.tm
  st := Part.kept_of_changed s.st h.st
  ce := Part.kept_of_changed s.ce h.ce
  dgr := Part.kept_of_changed s.dgr h.dgr
  pwm := Part.kept_of_changed s.pwm h.pwm
  out := Part.kept_of_changed s.out h.out
  cbl := Part.kept_of_changed s.cbl h.cbl
  veh := Part.kept_of_changed s.veh h.veh
  cap := Part.kept_of_changed s.cap h.cap
  ash := Part.kept_of_changed s.ash h.ash
  fba := Part.kept_of_changed s.fba h.fba
  ctr := Part.kept_of_changed s.ctr h.ctr
  imd := Part.kept_of_changed s.imd h.imd
  tlm := Part.kept_of_changed s.tlm h.tlm
  shr := Part.kept_of_changed s.shr h.shr
  rt := Part.kept_of_changed s.rt h.rt
  net := Part.kept_of_changed s.net h.net
  svg := Part.kept_of_changed s.svg h.svg
  met := Part.kept_of_changed s.met h.met
  bil := Part.kept_of_changed s.bil h.bil
  bst := Part.kept_of_changed s.bst h.bst
  tw := Part.kept_of_changed s.tw h.tw
  ffuse := Part.kept_of_changed (s.ffuse.imp_right And.left) h.ffuse
  hfuse := Part.kept_of_changed (s.hfuse.imp_right And.left) h.hfuse
  fsec := Part.kept_of_changed s.fsec h.fsec
  enc := Part.kept_of_changed s.enc h.enc
  stk := Part.kept_of_changed s.stk h.stk
  can := Part.kept_of_changed s.can h.can
  hp := Part.kept_of_changed s.hp h.hp
  th := Part.kept_of_changed s.th h.th

/-- What is reached by changes to the parts of a mask differs from the block it came from only in those parts. -/
theorem Reach.onlyIn {m : Nat} {d e : Dev} (r : Reach m d e) : d.OnlyIn m e := by
  induction r with
  | refl => constructor <;> exact fun _ => rfl
  | wr _ _ hm _ ih => exact ih.with_regs hm
  | reset _ hm _ ih => exact ih.with_regs hm
  | parts s _ _ ih => exact ih.same s

/-- Settles O57: every command reaches its next block within its footprint, under the queue it was given. -/
theorem everyCommandKeepsItsFootprint : Obligations.EveryCommandKeepsItsFootprint := by
  intro c s
  obtain ⟨e, he, hr⟩ := exec_reach c s
  exact ⟨_, he, rfl, hr.onlyIn⟩

end Sys2Proof.Machine
end

section
/-! Register fields by domain (R10, Table 2-3): what a domain reset does to each field, which domains' fields an operation can
change at all, and from these the resets of either side (R35, R46, R340, 02_modes_power_reset.md). -/

namespace Sys2Proof.Machine

/-! ## Entries dropped by their place -/

theorem Regs.find_filter (r : Regs) (q : Nat → Bool) (k : Nat) :
    Regs.find (r.filter (fun e => q e.1)) k = if q k then Regs.find r k else none := by
  induction r with
  | nil => simp [Regs.find]
  | cons e r ih =>
    obtain ⟨a, w⟩ := e
    rw [List.filter_cons]
    by_cases hak : a = k
    · subst hak
      by_cases hq : q a = true <;> simp [hq, Regs.find, ih]
    · by_cases hq : q a = true <;> simp [hq, Regs.find, ih, hak]

theorem Mem.read_filter (m : Mem) (q : Nat → Bool) (a : Nat) :
    Mem.read (m.filter (fun c => q c.1)) a = if q a then Mem.read m a else unwrittenByte := by
  induction m with
  | nil => simp [Mem.read]
  | cons c m ih =>
    obtain ⟨b, w⟩ := c
    rw [List.filter_cons]
    by_cases hba : b = a
    · subst hba
      by_cases hq : q b = true <;> simp [hq, Mem.read, ih]
    · by_cases hq : q b = true <;> simp [hq, Mem.read, ih, hba]

/-- A byte whose address the drop keeps reads as before. -/
theorem Mem.read_filter_kept {m : Mem} {q : Nat → Bool} {a : Nat} (h : q a = true) :
    Mem.read (m.filter (fun c => q c.1)) a = Mem.read m a := by rw [Mem.read_filter, if_pos h]

/-- A byte whose address the drop does not keep reads as unwritten (log entry 2). -/
theorem Mem.read_filter_dropped {m : Mem} {q : Nat → Bool} {a : Nat} (h : q a = false) :
    Mem.read (m.filter (fun c => q c.1)) a = unwrittenByte := by rw [Mem.read_filter, if_neg (by simp [h])]

/-- A domain reset puts each field of its domains at its reset value and leaves every other field. -/
theorem Dev.rd_resetDomains (d : Dev) (p : Dom → Bool) (f : Fld) :
    (d.resetDomains p).rd f = if p (domOfKey f.key) then f.reset else d.rd f := by
  unfold Dev.rd Dev.resetDomains Regs.resetWhere Regs.get
  rw [Regs.find_filter d.regs (fun k => !p (domOfKey k))]
  cases p (domOfKey f.key) <;> rfl

/-! ## Changes within some domains -/

/-- Only register fields of the domains listed may read differently in `e` and `d`. -/
def Dev.RegsOnlyIn (doms : List Dom) (d e : Dev) : Prop := ∀ f : Fld, domOfKey f.key ∉ doms → e.rd f = d.rd f

section
variable {doms : List Dom} {d e : Dev}

theorem Dev.RegsOnlyIn.refl (doms : List Dom) (d : Dev) : d.RegsOnlyIn doms d := fun _ _ => rfl

theorem Dev.RegsOnlyIn.trans {e' : Dev} (h : d.RegsOnlyIn doms e) (h' : e.RegsOnlyIn doms e') : d.RegsOnlyIn doms e' :=
  fun f hf => (h' f hf).trans (h f hf)

theorem Dev.RegsOnlyIn.mono {more : List Dom} (h : d.RegsOnlyIn doms e) (hsub : doms ⊆ more) : d.RegsOnlyIn more e :=
  fun f hf => h f (fun hmem => hf (hsub hmem))

theorem Dev.RegsOnlyIn.of_regs {e' : Dev} (h : d.RegsOnlyIn doms e) (hregs : e'.regs = e.regs) : d.RegsOnlyIn doms e' :=
  fun f hf => (congrArg (Regs.get · f) hregs).trans (h f hf)

theorem Dev.RegsOnlyIn.wr {f : Fld} {v : Nat} (h : d.RegsOnlyIn doms e) (hf : domOfKey f.key ∈ doms) : d.RegsOnlyIn doms (e.wr f v) :=
  fun g hg => (Dev.rd_wr_ne e f g v (fun hkey => hg (hkey ▸ hf))).trans (h g hg)

theorem Dev.RegsOnlyIn.wrAll {ws : List (Fld × Nat)} (h : d.RegsOnlyIn doms e) (hws : ∀ w ∈ ws, domOfKey w.1.key ∈ doms) :
    d.RegsOnlyIn doms (e.wrAll ws) := by
  induction ws generalizing e with
  | nil => exact h
  | cons w ws ih =>
    exact ih (h.wr (hws w List.mem_cons_self)) (fun x hx => hws x (List.mem_cons_of_mem w hx))

theorem Dev.RegsOnlyIn.resetDomains {p : Dom → Bool} (h : d.RegsOnlyIn doms e) (hp : ∀ x, p x = true → x ∈ doms) :
    d.RegsOnlyIn doms (e.resetDomains p) := by
  intro f hf
  rw [Dev.rd_resetDomains, if_neg (fun ht => hf (hp _ ht)), h f hf]

theorem Dev.RegsOnlyIn.forAll {α : Type} {xs : List α} {g : Dev → α → Dev} (h : d.RegsOnlyIn doms e)
    (hg : ∀ e x, d.RegsOnlyIn doms e → d.RegsOnlyIn doms (g e x)) : d.RegsOnlyIn doms (e.forAll xs g) := by
  unfold Dev.forAll
  induction xs generalizing e with
  | nil => exact h
  | cons x xs ih => exact ih (hg e x h)

end

/-! ## A host event changes registers of H1 alone (R346, R401 to R404) -/

theorem domOfKey_pend (i : Nat) : domOfKey (R.HEVT_PEND.PEND i).key = .h1 :=
  (by decide : ∀ j < 4, domOfKey ((0x20030200 + 0x4 * j) * 32 + 0) = .h1) (i % 4) (Nat.mod_lt i (by decide))

theorem domOfKey_ringHead (r : Nat) : domOfKey (R.HRNG_HEAD.IDX r).key = .h1 :=
  (by decide : ∀ j < 32, domOfKey ((0x2002000C + 0x40 * j) * 32 + 0) = .h1) (r % 32) (Nat.mod_lt r (by decide))

theorem domOfKey_ringErr (r : Nat) : domOfKey (R.HRNG_STAT.ERR r).key = .h1 :=
  (by decide : ∀ j < 32, domOfKey ((0x20020014 + 0x40 * j) * 32 + 2) = .h1) (r % 32) (Nat.mod_lt r (by decide))

theorem domOfKey_heldSrc (i : Nat) : domOfKey (R.HDIA_HELD.SRC i).key = .h1 :=
  (by decide : ∀ j < 4, domOfKey ((0x20090040 + 0x4 * j) * 32 + 0) = .h1) (i % 4) (Nat.mod_lt i (by decide))

theorem domOfKey_floodSrc (i : Nat) : domOfKey (R.HDIA_FLOOD.SRC i).key = .h1 :=
  (by decide : ∀ j < 4, domOfKey ((0x20090050 + 0x4 * j) * 32 + 0) = .h1) (i % 4) (Nat.mod_lt i (by decide))

theorem Dev.pend_regsOnlyIn (d : Dev) (n : Nat) : d.RegsOnlyIn [.h1] (d.pend n) :=
  (Dev.RegsOnlyIn.refl _ d).wr (by simp [domOfKey_pend])

theorem Dev.ringStore_regsOnlyIn (d : Dev) (r : Nat) (bs : List Byte) : d.RegsOnlyIn [.h1] (d.ringStore r bs) :=
  (Dev.RegsOnlyIn.refl _ d).of_regs rfl

theorem Dev.ringFinish_regsOnlyIn (d : Dev) (r err info : Nat) (sop eop : Bool) :
    d.RegsOnlyIn [.h1] (d.ringFinish r err info sop eop).1 := by
  have hhead : ∀ (e : Dev) (v : Nat), e.regs = d.regs → d.RegsOnlyIn [.h1] (e.wr (R.HRNG_HEAD.IDX r) v) := fun e v hregs =>
    ((Dev.RegsOnlyIn.refl _ d).of_regs hregs).wr (by simp [domOfKey_ringHead])
  unfold Dev.ringFinish
  by_cases herr : err = 0
  · simp only [herr, if_true]
    exact hhead _ _ rfl
  · simp only [herr, if_false]
    exact (hhead _ _ rfl).wr (by simp [domOfKey_ringErr])

theorem Dev.jrnWrite_regsOnlyIn (d : Dev) (first last ev kind typ flags count : Nat) (data : List Nat) :
    d.RegsOnlyIn [.h1] (d.jrnWrite first last ev kind typ flags count data) := by
  have hring : ∀ bs : List Byte, d.RegsOnlyIn [.h1] ((d.ringStore 24 bs).ringFinish 24 0 0 true true).1 := fun bs =>
    (d.ringStore_regsOnlyIn 24 bs).trans (Dev.ringFinish_regsOnlyIn _ 24 0 0 true true)
  have hseq : ∀ (bs : List Byte) (j : Journal) (v : Nat),
      d.RegsOnlyIn [.h1] (({ ((d.ringStore 24 bs).ringFinish 24 0 0 true true).1 with jr := j }).wr R.HDIA_JSEQ.SEQ v) :=
    fun bs _ _ => ((hring bs).of_regs rfl).wr (by decide)
  unfold Dev.jrnWrite
  dsimp only
  split
  · exact ((hseq _ _ _).wr (by decide)).trans (Dev.pend_regsOnlyIn _ 92)
  · exact hseq _ _ _

theorem Dev.jrnShow_regsOnlyIn (d : Dev) : d.RegsOnlyIn [.h1] d.jrnShow := by
  unfold Dev.jrnShow
  refine (((Dev.RegsOnlyIn.refl _ d).wr (by decide)).wr (by decide)).forAll (fun e i h => ?_)
  exact (h.wr (by simp [domOfKey_heldSrc])).wr (by simp [domOfKey_floodSrc])

theorem Dev.jrnHold_regsOnlyIn (d : Dev) (h : HeldRec) : d.RegsOnlyIn [.h1] (d.jrnHold h) := by
  have hcount : ∀ (e : Dev), e.regs = d.regs → d.RegsOnlyIn [.h1] (e.bumpBy R.HDIA_JCNT.HELD h.count) := fun e he =>
    ((Dev.RegsOnlyIn.refl _ d).of_regs he).wr (by decide)
  unfold Dev.jrnHold
  dsimp only
  refine .trans ?_ (Dev.jrnShow_regsOnlyIn _)
  split
  · exact hcount _ rfl
  · exact ((hcount _ rfl).wr (by decide)).trans (Dev.pend_regsOnlyIn _ 121)

theorem Dev.jrnReport_regsOnlyIn (d : Dev) (h : HeldRec) : d.RegsOnlyIn [.h1] (d.jrnReport h) := by
  unfold Dev.jrnReport
  dsimp only
  split
  · exact (d.jrnWrite_regsOnlyIn _ _ _ _ _ _ _ _).of_regs rfl
  · split
    · exact (((d.jrnHold_regsOnlyIn h).wr (by decide)).trans (Dev.pend_regsOnlyIn _ 123)).trans (Dev.jrnHold_regsOnlyIn _ _)
    · exact d.jrnHold_regsOnlyIn h

theorem Dev.raiseH_regsOnlyIn (d : Dev) (n kind : Nat) (data : List Nat) : d.RegsOnlyIn [.h1] (d.raiseH n kind data) := by
  unfold Dev.raiseH
  dsimp only
  split
  · exact d.pend_regsOnlyIn n
  · exact (d.pend_regsOnlyIn n).trans (Dev.jrnReport_regsOnlyIn _ _)

/-! ## The link state lost (R46) -/

@[simp] theorem Dev.raise_fl_up (d : Dev) (n kind : Nat) (data : List Nat) : (d.raise n kind data).fl.up = d.fl.up := by
  unfold Dev.raise Dev.sendF
  dsimp only
  split <;> split <;> rfl

@[simp] theorem Dev.raiseH_fl (d : Dev) (n kind : Nat) (data : List Nat) : (d.raiseH n kind data).fl = d.fl :=
  (d.raiseH_reach n kind data).onlyIn.fl rfl

@[simp] theorem Dev.linkDown_fl_up (d : Dev) : d.linkDown.fl.up = false := by
  unfold Dev.linkDown
  dsimp only
  split
  · rw [Dev.raiseH_fl, Dev.raise_fl_up]
    rfl
  · rfl

theorem Dev.linkDown_regsOnlyIn (d : Dev) : d.RegsOnlyIn [.f1, .h1] d.linkDown := by
  have hdown : ∀ e : Dev, e.regs = d.regs → d.RegsOnlyIn [.f1, .h1] (e.wrAll [(R.FFLU_LINK.UP, 0), (R.HFLU_LINK.UP, 0),
      (R.FFLU_LINK.LANE0, 0), (R.FFLU_LINK.LANE1, 0), (R.HFLU_LINK.LANE0, 0), (R.HFLU_LINK.LANE1, 0)]) := fun e he =>
    ((Dev.RegsOnlyIn.refl _ d).of_regs he).wrAll (by decide)
  unfold Dev.linkDown
  dsimp only
  split
  · refine .trans ?_ ((Dev.raiseH_regsOnlyIn _ _ _ _).mono (by simp))
    exact .of_regs (hdown _ rfl) (Dev.raise_regs _ _ _ _)
  · exact hdown _ rfl

@[simp] theorem Dev.linkDown_ffuse (d : Dev) : d.linkDown.ffuse = d.ffuse := d.linkDown_reach.onlyIn.ffuse rfl
@[simp] theorem Dev.linkDown_hfuse (d : Dev) : d.linkDown.hfuse = d.hfuse := d.linkDown_reach.onlyIn.hfuse rfl
@[simp] theorem Dev.linkDown_st (d : Dev) : d.linkDown.st = d.st := d.linkDown_reach.onlyIn.st rfl
@[simp] theorem Dev.linkDown_bst (d : Dev) : d.linkDown.bst = d.bst := d.linkDown_reach.onlyIn.bst rfl
@[simp] theorem Dev.linkDown_tw (d : Dev) : d.linkDown.tw = d.tw := d.linkDown_reach.onlyIn.tw rfl
@[simp] theorem Dev.linkDown_pw (d : Dev) : d.linkDown.pw = d.pw := d.linkDown_reach.onlyIn.pw rfl

/-! ## F1 to F4 reset (R35) -/

/-- The domains that every field reset puts at their reset values (Table 2-3). -/
def fieldResetDom (x : Dom) : Bool := decide (x = .f1) || decide (x = .f2) || decide (x = .f3) || decide (x = .f4)

theorem fieldResetDom_iff (x : Dom) : fieldResetDom x = true ↔ x = .f1 ∨ x = .f2 ∨ x = .f3 ∨ x = .f4 := by
  cases x <;> decide

/-- The registers after the first part of a field reset: those of its domains reset, the choice of the boot into BANKED kept and
the source of F0 shown. -/
theorem Dev.fieldClear_regs (d : Dev) : d.fieldClear.regs = ((d.linkDown.resetDomains fieldResetDom).wrAll
    [(R.FSYS_BOOTCFG.BANKED, d.rd R.FSYS_BOOTCFG.BANKED), (R.FSYS_PWRSTAT.F0SRC, b2n (!d.linkDown.pw.auxF))]).regs := rfl

theorem Dev.fieldClear_rd_reset (d : Dev) (f : Fld) (hdom : fieldResetDom (domOfKey f.key) = true)
    (hbanked : f.key ≠ R.FSYS_BOOTCFG.BANKED.key) (hsrc : f.key ≠ R.FSYS_PWRSTAT.F0SRC.key) : d.fieldClear.rd f = f.reset := by
  have hclear : d.fieldClear.rd f = (d.linkDown.resetDomains fieldResetDom).rd f := by
    rw [Dev.rd, Dev.fieldClear_regs]
    exact (Dev.rd_wr_ne _ _ _ _ hsrc.symm).trans (Dev.rd_wr_ne _ _ _ _ hbanked.symm)
  rw [hclear, Dev.rd_resetDomains, if_pos hdom]

theorem domOfKey_banked : domOfKey R.FSYS_BOOTCFG.BANKED.key = .f1 := by decide

theorem domOfKey_f0src : domOfKey R.FSYS_PWRSTAT.F0SRC.key = .f1 := by decide

theorem Dev.fieldClear_regsOnlyIn (d : Dev) : d.RegsOnlyIn [.f1, .f2, .f3, .f4, .h1] d.fieldClear := by
  have hlink : d.RegsOnlyIn [.f1, .f2, .f3, .f4, .h1] d.linkDown := d.linkDown_regsOnlyIn.mono (by simp)
  have hreset := hlink.resetDomains (p := fieldResetDom) (fun x => by cases x <;> decide)
  refine .of_regs (hreset.wrAll (fun w hw => ?_)) d.fieldClear_regs
  obtain rfl | rfl := List.mem_pair.mp hw
  · simp [domOfKey_banked]
  · simp [domOfKey_f0src]

@[simp] theorem Dev.fieldClear_fmem (d : Dev) : d.fieldClear.fmem = [] := rfl
@[simp] theorem Dev.fieldClear_bootF (d : Dev) : d.fieldClear.pw.bootF = true := rfl
@[simp] theorem Dev.fieldClear_fl_up (d : Dev) : d.fieldClear.fl.up = false := d.linkDown_fl_up
@[simp] theorem Dev.fieldClear_ffuse (d : Dev) : d.fieldClear.ffuse = d.ffuse := d.linkDown_ffuse
@[simp] theorem Dev.fieldClear_hfuse (d : Dev) : d.fieldClear.hfuse = d.hfuse := d.linkDown_hfuse
@[simp] theorem Dev.fieldClear_slots (d : Dev) : d.fieldClear.st.slots = d.st.slots :=
  (congrArg Sts.slots d.linkDown_st : d.linkDown.st.slots = d.st.slots)
@[simp] theorem Dev.fieldClear_bst (d : Dev) : d.fieldClear.bst = d.bst := d.linkDown_bst
@[simp] theorem Dev.fieldClear_tw (d : Dev) : d.fieldClear.tw = d.tw := d.linkDown_tw

/-! ## H1 to H3 reset, and H4 in a cold reset (R35, R340) -/

/-- The domains that a host reset puts at their reset values (Table 2-3). -/
def hostResetDom (cold : Bool) (x : Dom) : Bool := decide (x = .h1) || decide (x = .h2) || decide (x = .h3) || (cold && decide (x = .h4))

theorem hostResetDom_of_h1h2h3 {cold : Bool} {x : Dom} (h : x = .h1 ∨ x = .h2 ∨ x = .h3) : hostResetDom cold x = true := by
  obtain rfl | rfl | rfl := h <;> rfl

/-- The host addresses whose bytes a reset keeps: battery-backed SRAM, and DRAM unless the reset is cold. -/
def hostResetKeeps (cold : Bool) (a : Nat) : Bool :=
  (decide (0x18000000 ≤ a) && decide (a < 0x18010000)) || (!cold && decide (0x80000000 ≤ a))

theorem Dev.hostClear_regs (d : Dev) (cold : Bool) : (d.hostClear cold).regs =
    ((d.linkDown.resetDomains (hostResetDom cold)).wr R.HSYS_PWRSTAT.H0SRC (b2n (!d.linkDown.pw.auxH))).regs := rfl

theorem Dev.hostClear_hmem (d : Dev) (cold : Bool) :
    (d.hostClear cold).hmem = d.linkDown.hmem.filter (fun c => hostResetKeeps cold c.1) := rfl

theorem Dev.hostClear_rd_reset (d : Dev) (cold : Bool) (f : Fld) (hdom : hostResetDom cold (domOfKey f.key) = true)
    (hsrc : f.key ≠ R.HSYS_PWRSTAT.H0SRC.key) : (d.hostClear cold).rd f = f.reset := by
  have hclear : (d.hostClear cold).rd f = (d.linkDown.resetDomains (hostResetDom cold)).rd f := by
    rw [Dev.rd, Dev.hostClear_regs]
    exact Dev.rd_wr_ne _ _ _ _ hsrc.symm
  rw [hclear, Dev.rd_resetDomains, if_pos hdom]

theorem Dev.hostClear_read_kept (d : Dev) {cold : Bool} {a : Nat} (h : hostResetKeeps cold a = true) :
    Mem.read (d.hostClear cold).hmem a = Mem.read d.linkDown.hmem a := by rw [Dev.hostClear_hmem, Mem.read_filter_kept h]

theorem Dev.hostClear_read_lost (d : Dev) {cold : Bool} {a : Nat} (h : hostResetKeeps cold a = false) :
    Mem.read (d.hostClear cold).hmem a = unwrittenByte := by rw [Dev.hostClear_hmem, Mem.read_filter_dropped h]

@[simp] theorem Dev.hostClear_rings (d : Dev) (cold : Bool) : (d.hostClear cold).rings = {} := rfl
@[simp] theorem Dev.hostClear_fl_up (d : Dev) (cold : Bool) : (d.hostClear cold).fl.up = false := d.linkDown_fl_up
@[simp] theorem Dev.hostClear_ffuse (d : Dev) (cold : Bool) : (d.hostClear cold).ffuse = d.ffuse := d.linkDown_ffuse
@[simp] theorem Dev.hostClear_hfuse (d : Dev) (cold : Bool) : (d.hostClear cold).hfuse = d.hfuse := d.linkDown_hfuse

/-! ## The first part of every reset -/

/-- Settles O3: the first part of a field reset and of a host reset is the link lost, the domains reset and the parts that
do not outlive the reset emptied, and each clause is the law of one of these. -/
theorem resetsLeaveTheirDomainsAtReset : Obligations.ResetsLeaveTheirDomainsAtReset := by
  refine ⟨fun d f => ⟨fun hdom => ?_, fun hf0 => ?_, ?_⟩, fun d cold => ⟨fun f hdom => ?_, ?_, ?_, ?_, ?_, ?_⟩⟩
  · exact d.fieldClear_rd_reset f ((fieldResetDom_iff _).mpr hdom)
  · exact d.fieldClear_regsOnlyIn f (by simp [hf0])
  · exact ⟨d.fieldClear_fmem, d.fieldClear_fl_up, d.fieldClear_ffuse, d.fieldClear_hfuse, d.fieldClear_slots, d.fieldClear_bst,
      d.fieldClear_tw, d.fieldClear_bootF⟩
  · exact d.hostClear_rd_reset cold f (hostResetDom_of_h1h2h3 hdom)
  · exact fun a hlo hhi => d.hostClear_read_kept (by simp [hostResetKeeps, hlo, hhi])
  · exact fun a hdram => d.hostClear_read_kept (by simp [hostResetKeeps, hdram])
  · exact fun a hdram => d.hostClear_read_lost (by simp [hostResetKeeps]; omega)
  · exact fun a hsram => d.hostClear_read_lost (by simp [hostResetKeeps]; omega)
  · exact ⟨d.hostClear_fl_up cold, d.hostClear_ffuse cold, d.hostClear_hfuse cold, d.hostClear_rings cold⟩

end Sys2Proof.Machine
end

section
/-! The commands of chapter 2 that move a supply or reset a side: the battery domains (R34, R422), the supply monitor (R421) and
the reset commands of Table 2-4, each as the operation it runs. -/

namespace Sys2Proof.Machine

/-! ## A command's answer from its meaning -/

theorem answers_of_done {c : Instr} {s : State} {f : Dev → Dev} {P : Dev → Prop} (h : exec c s = done s f) (hP : P (f s.dev)) :
    Answers c s P := ⟨_, h, rfl, hP⟩

/-- A row of the field side answers its operation's block while F1 is on. -/
theorem answers_of_onF1 {c : Instr} {s : State} {f : Dev → Dev} {P : Dev → Prop} (h : exec c s = onF1 s f)
    (hon : s.dev.domOn .f1 = true) (hP : P (f s.dev)) : Answers c s P :=
  answers_of_done h (by rwa [if_pos hon])

/-- A row of the host side answers its operation's block while H1 is on. -/
theorem answers_of_onH1 {c : Instr} {s : State} {f : Dev → Dev} {P : Dev → Prop} (h : exec c s = onH1 s f)
    (hon : s.dev.domOn .h1 = true) (hP : P (f s.dev)) : Answers c s P :=
  answers_of_done h (by rwa [if_pos hon])

/-- A row whose operation leaves the block alone leaves it alone whether F1 is on or off. -/
theorem answers_same_of_onF1 {c : Instr} {s : State} {f : Dev → Dev} (h : exec c s = onF1 s f) (hf : f s.dev = s.dev) :
    Answers c s (fun t => t = s.dev) := answers_of_done h (by simp only [hf, ite_self])

/-- A row whose operation leaves the block alone leaves it alone whether H1 is on or off. -/
theorem answers_same_of_onH1 {c : Instr} {s : State} {f : Dev → Dev} (h : exec c s = onH1 s f) (hf : f s.dev = s.dev) :
    Answers c s (fun t => t = s.dev) := answers_of_done h (by simp only [hf, ite_self])

/-! ## The meaning of each command of this part -/

section
variable (side : Side) (key : Nat) (s : State)

theorem exec_powerOnReset : exec (.powerOnReset side) s = done s (·.powerOn side) := rfl

theorem exec_supplyMonitorReset : exec (.supplyMonitorReset side) s = done s (·.supplyLow side) := rfl

theorem exec_supplyRelease : exec (.supplyRelease side) s = done s (·.supplyRelease side) := rfl

theorem exec_batteryLoss : exec (.batteryLoss side) s = done s (·.batteryLoss side) := rfl

theorem exec_batterySwitchover (b : Bool) : exec (.batterySwitchover side b) s = done s (·.switchover side b) := rfl

theorem exec_swFmp : exec (.swFmp key) s = onF1 s (fun d => if key = 0xC4E1 then d.fmpReset R.FSYS_RSTCAUSE.SW_FMP else d) := rfl

theorem exec_swField : exec (.swField key) s = onF1 s (fun d =>
    if key = 0xC4E1 ∧ d.mode.readyOrLower = true then (d.fieldCause R.FSYS_RSTCAUSE.SW_FIELD).fieldReset 0x13 false else d) := rfl

theorem exec_swWarm : exec (.swWarm key) s = onH1 s (fun d =>
    if key = 0xC4E1 then d.hostReset false (some R.HSYS_RSTCAUSE.SW_WARM) else d) := rfl

theorem exec_swCold : exec (.swCold key) s = onH1 s (fun d =>
    if key = 0xC4E1 then d.hostReset true (some R.HSYS_RSTCAUSE.SW_COLD) else d) := rfl

theorem exec_lsEnc : exec .lsEnc s = onH1 s (fun d => (d.hostFatal 7).hostReset false (some R.HSYS_RSTCAUSE.LS_ENC)) := rfl

theorem exec_watchdogStage2Host : exec .watchdogStage2Host s = onH1 s (fun d =>
    if d.pw.nmiH then (d.hostFatal 6).hostReset false (some R.HSYS_RSTCAUSE.WDT2) else d) := rfl

theorem exec_hostShutdownClear : exec .hostShutdownClear s = onH1 s (fun d =>
    if d.th.shutH && d.coolEnough .host then d.hostReset false none else d) := rfl

end

/-! ## Single-bit fields -/

theorem b2n_mod_two (b : Bool) : b2n b % 2 = b2n b := by cases b <;> rfl

theorem Dev.rd_wrB (d : Dev) {f : Fld} (b : Bool) (h : f.width = 1) : (d.wrB f b).rd f = b2n b := by
  rw [Dev.wrB, Dev.rd_wr, h, pow_one, b2n_mod_two]

/-- A write to one field changes no other register, whatever part beside the registers was changed before it. -/
theorem Dev.regsBut_wr {d e : Dev} {f : Fld} {v : Nat} (h : e.regs = d.regs) : d.RegsBut [f] (e.wr f v) := fun g hg =>
  (Dev.rd_wr_ne e f g v (hg f List.mem_cons_self)).trans (congrArg (Regs.get · g) h)

/-! ## What a lost battery domain loses (R34) -/

theorem Dev.f0Loss_rd (d : Dev) (f : Fld) : d.f0Loss.rd f = if decide (domOfKey f.key = .f0) then f.reset else d.rd f :=
  d.rd_resetDomains (fun x => decide (x = .f0)) f

theorem Dev.h0Loss_rd (d : Dev) (f : Fld) : d.h0Loss.rd f = if decide (domOfKey f.key = .h0) then f.reset else d.rd f :=
  d.rd_resetDomains (fun x => decide (x = .h0)) f

/-- The host addresses that lie outside battery-backed SRAM. -/
def outsideBsram (a : Nat) : Bool := decide (a < 0x18000000) || decide (0x18010000 ≤ a)

theorem Dev.h0Loss_hmem (d : Dev) : d.h0Loss.hmem = d.hmem.filter (fun c => outsideBsram c.1) := rfl

theorem Dev.h0Loss_read_lost (d : Dev) {a : Nat} (h : outsideBsram a = false) : Mem.read d.h0Loss.hmem a = unwrittenByte := by
  rw [Dev.h0Loss_hmem, Mem.read_filter_dropped h]

theorem Dev.h0Loss_read_kept (d : Dev) {a : Nat} (h : outsideBsram a = true) : Mem.read d.h0Loss.hmem a = Mem.read d.hmem a := by
  rw [Dev.h0Loss_hmem, Mem.read_filter_kept h]

/-! ## FSYS_MODE written (R31) -/

theorem Dev.raiseOrBoot_field_regs (d : Dev) (n kind : Nat) (data : List Nat) : (d.raiseOrBoot .field n kind data).regs = d.regs := by
  unfold Dev.raiseOrBoot
  dsimp only
  split
  · exact d.raise_regs n kind data
  · rfl

theorem Dev.raiseOrBoot_field_fHeld (d : Dev) (n kind : Nat) (data : List Nat) :
    (d.raiseOrBoot .field n kind data).pw.fHeld = d.pw.fHeld := by
  unfold Dev.raiseOrBoot
  dsimp only
  split
  · rw [Dev.raise_pw]
  · rfl

theorem Dev.raiseOrBoot_ffuse (d : Dev) (side : Side) (n kind : Nat) (data : List Nat) :
    (d.raiseOrBoot side n kind data).ffuse = d.ffuse := (d.raiseOrBoot_reach side n kind data).onlyIn.ffuse rfl

section
variable (d : Dev) (prev mode cause : Nat)

/-- The event of a mode change touches no register, so each reads as the three field writes leave it. -/
theorem Dev.modeWrite_rd (f : Fld) : (d.modeWrite prev mode cause).rd f =
    (((d.wr R.FSYS_MODE.PREV prev).wr R.FSYS_MODE.MODE mode).wr R.FSYS_MODE.CAUSE cause).rd f :=
  congrArg (Regs.get · f) (Dev.raiseOrBoot_field_regs _ 1 0 [prev, mode, cause])

theorem Dev.modeWrite_mode : (d.modeWrite prev mode cause).rd R.FSYS_MODE.MODE = mode % 16 := by
  rw [Dev.modeWrite_rd, Dev.rd_wr_ne _ R.FSYS_MODE.CAUSE _ _ (by decide), Dev.rd_wr]
  rfl

theorem Dev.modeWrite_prev : (d.modeWrite prev mode cause).rd R.FSYS_MODE.PREV = prev % 16 := by
  rw [Dev.modeWrite_rd, Dev.rd_wr_ne _ R.FSYS_MODE.CAUSE _ _ (by decide), Dev.rd_wr_ne _ R.FSYS_MODE.MODE _ _ (by decide), Dev.rd_wr]
  rfl

theorem Dev.modeWrite_cause : (d.modeWrite prev mode cause).rd R.FSYS_MODE.CAUSE = cause % 256 := by
  rw [Dev.modeWrite_rd, Dev.rd_wr]
  rfl

theorem Dev.modeWrite_rd_other {f : Fld} (h : f.addr ≠ R.FSYS_MODE.MODE.addr) (hlo : f.lo < 32) :
    (d.modeWrite prev mode cause).rd f = d.rd f := by
  have hkey : ∀ g : Fld, g.addr = R.FSYS_MODE.MODE.addr → g.lo < 32 → g.key ≠ f.key := by
    intro g hg hglo hgf
    simp only [Fld.key] at hgf
    omega
  rw [Dev.modeWrite_rd, Dev.rd_wr_ne _ R.FSYS_MODE.CAUSE f _ (hkey _ rfl (by decide)),
    Dev.rd_wr_ne _ R.FSYS_MODE.MODE f _ (hkey _ rfl (by decide)), Dev.rd_wr_ne _ R.FSYS_MODE.PREV f _ (hkey _ rfl (by decide))]

@[simp] theorem Dev.modeWrite_fHeld : (d.modeWrite prev mode cause).pw.fHeld = d.pw.fHeld :=
  Dev.raiseOrBoot_field_fHeld _ 1 0 [prev, mode, cause]

@[simp] theorem Dev.modeWrite_ffuse : (d.modeWrite prev mode cause).ffuse = d.ffuse :=
  Dev.raiseOrBoot_ffuse _ .field 1 0 [prev, mode, cause]

end

theorem Mode.code_lt (m : Mode) : m.code < 16 := by cases m <;> decide

/-! ## The supply monitor (R421) -/

/-- The field side cut from its supply, before FSYS_MODE is written: reset, with only F0 on, held, and the theft watch told. -/
def Dev.fieldHeld (d : Dev) : Dev :=
  let e := d.fieldClear.wr R.FSYS_PWRSTAT.ON 1
  { e with pw := { e.pw with fHeld := true }, tw := { e.tw with entered := some e.f0Ns } }

/-- The host side cut from its supply: reset as by a cold reset, with only H0 on, and held. -/
def Dev.hostHeld (d : Dev) : Dev :=
  let e := (d.hostClear true).wr R.HSYS_PWRSTAT.ON 1
  { e with pw := { e.pw with hHeld := true } }

theorem Dev.supplyLow_field {d : Dev} (h : d.pw.fHeld = false) : d.supplyLow .field = d.fieldHeld.modeWrite d.mode.code 0 0x02 :=
  if_neg (by simp [h])

theorem Dev.supplyLow_host {d : Dev} (h : d.pw.hHeld = false) : d.supplyLow .host = d.hostHeld := if_neg (by simp [h])

theorem Dev.fieldHeld_on (d : Dev) : d.fieldHeld.rd R.FSYS_PWRSTAT.ON = 1 := Dev.rd_wr d.fieldClear R.FSYS_PWRSTAT.ON 1
theorem Dev.fieldHeld_fHeld (d : Dev) : d.fieldHeld.pw.fHeld = true := rfl
theorem Dev.fieldHeld_ffuse (d : Dev) : d.fieldHeld.ffuse = d.ffuse := d.fieldClear_ffuse
theorem Dev.hostHeld_on (d : Dev) : d.hostHeld.rd R.HSYS_PWRSTAT.ON = 1 := Dev.rd_wr (d.hostClear true) R.HSYS_PWRSTAT.ON 1
theorem Dev.hostHeld_hHeld (d : Dev) : d.hostHeld.pw.hHeld = true := rfl
theorem Dev.hostHeld_hfuse (d : Dev) : d.hostHeld.hfuse = d.hfuse := d.hostClear_hfuse true

/-- The monitor leaves a field side that it does not hold yet DORMANT, held, with its fuses. -/
theorem answers_supplyMonitorReset_field {s : State} (h : s.dev.pw.fHeld = false) : Answers (.supplyMonitorReset .field) s (fun t =>
    t.rd R.FSYS_MODE.MODE = 0 ∧ t.rd R.FSYS_MODE.PREV = s.dev.mode.code ∧ t.rd R.FSYS_MODE.CAUSE = 0x02 ∧
    t.rd R.FSYS_PWRSTAT.ON = 1 ∧ t.pw.fHeld = true ∧ t.ffuse = s.dev.ffuse) := by
  refine answers_of_done (exec_supplyMonitorReset .field s) ?_
  rw [Dev.supplyLow_field h]
  refine ⟨Dev.modeWrite_mode .., ?_, Dev.modeWrite_cause .., ?_, ?_, ?_⟩
  · rw [Dev.modeWrite_prev, Nat.mod_eq_of_lt (Mode.code_lt _)]
  · rw [Dev.modeWrite_rd_other _ _ _ _ (by decide) (by decide), Dev.fieldHeld_on]
  · rw [Dev.modeWrite_fHeld, Dev.fieldHeld_fHeld]
  · rw [Dev.modeWrite_ffuse, Dev.fieldHeld_ffuse]

theorem answers_supplyMonitorReset_host {s : State} (h : s.dev.pw.hHeld = false) : Answers (.supplyMonitorReset .host) s (fun t =>
    t.rd R.HSYS_PWRSTAT.ON = 1 ∧ t.pw.hHeld = true ∧ t.hfuse = s.dev.hfuse) := by
  refine answers_of_done (exec_supplyMonitorReset .host s) ?_
  rw [Dev.supplyLow_host h]
  exact ⟨s.dev.hostHeld_on, s.dev.hostHeld_hHeld, s.dev.hostHeld_hfuse⟩

/-! ## Supplies -/

theorem answers_batterySwitchover_field (s : State) (b : Bool) : Answers (.batterySwitchover .field b) s (fun t =>
    t.pw.auxF = !b ∧ t.rd R.FSYS_PWRSTAT.F0SRC = b2n b ∧ s.dev.RegsBut [R.FSYS_PWRSTAT.F0SRC] t ∧
    s.dev.OnlyIn (Part.regs ||| Part.pw) t) :=
  answers_of_done (exec_batterySwitchover .field s b) ⟨rfl, Dev.rd_wrB _ b rfl, Dev.regsBut_wr rfl, (s.dev.switchover_reach .field b).onlyIn⟩

theorem answers_batterySwitchover_host (s : State) (b : Bool) : Answers (.batterySwitchover .host b) s (fun t =>
    t.pw.auxH = !b ∧ t.rd R.HSYS_PWRSTAT.H0SRC = b2n b ∧ s.dev.RegsBut [R.HSYS_PWRSTAT.H0SRC] t ∧
    s.dev.OnlyIn (Part.regs ||| Part.pw) t) :=
  answers_of_done (exec_batterySwitchover .host s b) ⟨rfl, Dev.rd_wrB _ b rfl, Dev.regsBut_wr rfl, (s.dev.switchover_reach .host b).onlyIn⟩

theorem Dev.batteryLoss_field {d : Dev} (h : d.pw.auxF = false) : d.batteryLoss .field = d.f0Loss := if_neg (by simp [h])

theorem Dev.batteryLoss_host {d : Dev} (h : d.pw.auxH = false) : d.batteryLoss .host = d.h0Loss := if_neg (by simp [h])

theorem answers_batteryLoss_field {s : State} (h : s.dev.pw.auxF = false) : Answers (.batteryLoss .field) s (fun t =>
    (∀ f : Fld, domOfKey f.key = .f0 → t.rd f = f.reset) ∧ (∀ f : Fld, domOfKey f.key ≠ .f0 → t.rd f = s.dev.rd f) ∧
    t.bst.copies = [none, none] ∧ t.tw = {} ∧ t.tm.f0 = 0 ∧ t.hmem = s.dev.hmem) := by
  refine answers_of_done (exec_batteryLoss .field s) ?_
  rw [Dev.batteryLoss_field h]
  refine ⟨fun f hf => ?_, fun f hf => ?_, rfl, rfl, rfl, rfl⟩
  · simp [Dev.f0Loss_rd, hf]
  · simp [Dev.f0Loss_rd, hf]

theorem answers_batteryLoss_host {s : State} (h : s.dev.pw.auxH = false) : Answers (.batteryLoss .host) s (fun t =>
    (∀ f : Fld, domOfKey f.key = .h0 → t.rd f = f.reset) ∧ (∀ f : Fld, domOfKey f.key ≠ .h0 → t.rd f = s.dev.rd f) ∧
    (∀ a : Nat, 0x18000000 ≤ a → a < 0x18010000 → Mem.read t.hmem a = unwrittenByte) ∧
    (∀ a : Nat, a < 0x18000000 ∨ 0x18010000 ≤ a → Mem.read t.hmem a = Mem.read s.dev.hmem a) ∧ t.tm.rtc = 0 ∧
    t.bst = s.dev.bst) := by
  refine answers_of_done (exec_batteryLoss .host s) ?_
  rw [Dev.batteryLoss_host h]
  refine ⟨fun f hf => ?_, fun f hf => ?_, fun a hlo hhi => ?_, fun a ha => ?_, rfl, rfl⟩
  · simp [Dev.h0Loss_rd, hf]
  · simp [Dev.h0Loss_rd, hf]
  · exact s.dev.h0Loss_read_lost (by simp [outsideBsram, hlo, hhi])
  · exact s.dev.h0Loss_read_kept (by simpa [outsideBsram] using ha)

/-- Settles O1: a supply that is there and a side that is held make the command's condition false, and each other case is the
law of its operation. -/
theorem supplyCommandsMoveTheBatteryDomains : Obligations.SupplyCommandsMoveTheBatteryDomains := by
  intro s
  exact ⟨fun b => ⟨answers_batterySwitchover_field s b, answers_batterySwitchover_host s b⟩,
    fun haux => answers_of_done (exec_batteryLoss .field s) (if_pos haux),
    fun haux => answers_of_done (exec_batteryLoss .host s) (if_pos haux),
    answers_batteryLoss_field, answers_batteryLoss_host,
    fun hheld => answers_of_done (exec_supplyMonitorReset .field s) (if_pos hheld),
    fun hheld => answers_of_done (exec_supplyMonitorReset .host s) (if_pos hheld),
    answers_supplyMonitorReset_field, answers_supplyMonitorReset_host⟩

/-! ## Resets (Table 2-4) -/

/-- The wrong key runs no reset: the block stays as it is, whether the side is on or off. -/
theorem answers_same_of_wrong_key (s : State) {key : Nat} (h : key ≠ 0xC4E1) :
    Answers (.swField key) s (fun t => t = s.dev) ∧ Answers (.swWarm key) s (fun t => t = s.dev) ∧
    Answers (.swCold key) s (fun t => t = s.dev) ∧ Answers (.swFmp key) s (fun t => t = s.dev) :=
  ⟨answers_same_of_onF1 (exec_swField key s) (if_neg (fun hk => h hk.1)), answers_same_of_onH1 (exec_swWarm key s) (if_neg h),
    answers_same_of_onH1 (exec_swCold key s) (if_neg h), answers_same_of_onF1 (exec_swFmp key s) (if_neg h)⟩

/-- The block at the end of the thermal shutdown's sequence: the STC at its instant and the F0 record with its result (R392). -/
def Dev.shutdownDone (d : Dev) : Dev :=
  let e := d.advanceTo (stepsOfNs (d.th.t0 + 50000000))
  { e with th := { e.th with f0 := e.th.f0.map (fun (x : ShutRec) => { x with result := 1 }) } }

theorem exec_thermalReset_field (s : State) : exec (.thermalReset .field) s = done s (fun d =>
    if d.domOn .f1 = true ∧ d.th.shut = true ∧ d.rd R.FTHM_STAT.SHUT = 1 then
      (d.shutdownDone.wr R.FSYS_RSTCAUSE.THERM 1).fieldReset 0x15 false
    else d) := rfl

/-- Any other site time may stand in the block when the mask names it. -/
theorem Dev.OnlyIn.with_tm {m : Nat} {d e : Dev} {x : SiteTime} (h : d.OnlyIn m e) (hm : Part.on m Part.tm = true) :
    d.OnlyIn m { e with tm := x } :=
  { h with tm := Part.kept_of_changed (.inr hm) h.tm }

/-- Any other die temperature state may stand in the block when the mask names it. -/
theorem Dev.OnlyIn.with_th {m : Nat} {d e : Dev} {x : Therm} (h : d.OnlyIn m e) (hm : Part.on m Part.th = true) :
    d.OnlyIn m { e with th := x } :=
  { h with th := Part.kept_of_changed (.inr hm) h.th }

theorem Dev.shutdownDone_onlyIn (d : Dev) : d.OnlyIn (Part.tm ||| Part.th) d.shutdownDone :=
  ((Reach.refl d).onlyIn.with_tm rfl).with_th rfl

theorem Dev.supplyRelease_field {d : Dev} (hheld : d.pw.fHeld = true) (hlost : d.pw.f0Lost = false) :
    d.supplyRelease .field = (d.wr R.FSYS_RSTCAUSE.SUPPLY 1).fieldReset 0x01 true := by
  simp only [Dev.supplyRelease, hheld, hlost, if_true, if_false, Bool.false_eq_true]

theorem Dev.supplyRelease_host {d : Dev} (hheld : d.pw.hHeld = true) (hlost : d.pw.h0Lost = false) :
    d.supplyRelease .host = d.hostReset true (some R.HSYS_RSTCAUSE.SUPPLY) := by
  simp only [Dev.supplyRelease, hheld, hlost, if_true, if_false, Bool.false_eq_true]

/-- Settles O2: each command's meaning is the reset operation of its side under a condition, and each clause grants it. -/
theorem resetCommandsRunTheirReset : Obligations.ResetCommandsRunTheirReset := by
  intro s
  refine ⟨answers_of_done (exec_powerOnReset .field s) rfl, answers_of_done (exec_powerOnReset .host s) rfl, fun hheld hlost => ?_,
    fun hheld hlost => ?_, fun hon hmode => ?_, fun hon => ⟨?_, ?_, ?_⟩, fun hon hnmi => ?_, fun hon hshut hcool => ?_,
    fun hon hshut hstat => ?_, fun key => answers_same_of_wrong_key s⟩
  · exact answers_of_done (exec_supplyRelease .field s) (Dev.supplyRelease_field hheld hlost)
  · exact answers_of_done (exec_supplyRelease .host s) (Dev.supplyRelease_host hheld hlost)
  · exact answers_of_onF1 (exec_swField _ s) hon (if_pos ⟨rfl, hmode⟩)
  · exact answers_of_onH1 (exec_swWarm _ s) hon (if_pos rfl)
  · exact answers_of_onH1 (exec_swCold _ s) hon (if_pos rfl)
  · exact answers_of_onH1 (exec_lsEnc s) hon rfl
  · exact answers_of_onH1 (exec_watchdogStage2Host s) hon (if_pos hnmi)
  · exact answers_of_onH1 (exec_hostShutdownClear s) hon (if_pos (by rw [hshut, hcool]; rfl))
  · exact answers_of_done (exec_thermalReset_field s)
      ⟨s.dev.shutdownDone, rfl, s.dev.shutdownDone_onlyIn, if_pos ⟨hon, hshut, hstat⟩⟩

end Sys2Proof.Machine
end

section
/-! Laws of register fields and frames that several chapters use: writes in order, a counter raised, what a change leaves. -/

namespace Sys2Proof.Machine

/-! ## Registers other than those listed -/

theorem Dev.RegsBut.trans {fs : List Fld} {d e e' : Dev} (h : d.RegsBut fs e) (h' : e.RegsBut fs e') : d.RegsBut fs e' :=
  fun g hg => (h' g hg).trans (h g hg)

theorem Dev.RegsBut.of_regs {fs : List Fld} {d e e' : Dev} (h : d.RegsBut fs e) (hregs : e'.regs = e.regs) : d.RegsBut fs e' :=
  fun g hg => (congrArg (Regs.get · g) hregs).trans (h g hg)

theorem Dev.RegsBut.of_eq (fs : List Fld) {d e : Dev} (h : e.regs = d.regs) : d.RegsBut fs e := fun g _ => congrArg (Regs.get · g) h

/-! ## Fields written in order -/

theorem Dev.rd_wrAll_other (d : Dev) {ws : List (Fld × Nat)} {f : Fld} (h : ∀ w ∈ ws, w.1.key ≠ f.key) : (d.wrAll ws).rd f = d.rd f := by
  unfold Dev.wrAll
  induction ws generalizing d with
  | nil => rfl
  | cons w ws ih =>
    obtain ⟨hw, hws⟩ := List.forall_mem_cons.mp h
    exact (ih (d.wr w.1 w.2) hws).trans (d.rd_wr_ne w.1 f w.2 hw)

/-- A field that no later write of the list names reads back what was written first. -/
theorem Dev.rd_wrAll_head (d : Dev) {ws : List (Fld × Nat)} {f : Fld} {v : Nat} (h : ∀ w ∈ ws, w.1.key ≠ f.key) :
    (d.wrAll ((f, v) :: ws)).rd f = v % 2 ^ f.width := (Dev.rd_wrAll_other (d.wr f v) h).trans (d.rd_wr f v)

/-- A counting field raised by 1 reads one more, up to its greatest value. -/
theorem Dev.rd_bump (d : Dev) (f : Fld) : (d.bump f).rd f = min (2 ^ f.width - 1) (d.rd f + 1) := by
  have hlt : min (2 ^ f.width - 1) (d.rd f + 1) < 2 ^ f.width :=
    Nat.lt_of_le_of_lt (Nat.min_le_left ..) (Nat.pred_lt (Nat.two_pow_pos _).ne')
  exact (d.rd_wr f _).trans (Nat.mod_eq_of_lt hlt)

/-! ## Field memory -/

/-- Any other field memory may stand in the block when the mask names it. -/
theorem Dev.OnlyIn.with_fmem {m : Nat} {d e : Dev} {x : Mem} (h : d.OnlyIn m e) (hm : Part.on m Part.fmem = true) :
    d.OnlyIn m { e with fmem := x } :=
  { h with fmem := Part.kept_of_changed (.inr hm) h.fmem }

end Sys2Proof.Machine
end

section
/-! The router's pending bits (R346): a host event sets the bit of its source, and the journal and the rings never clear one. -/

namespace Sys2Proof.Machine

/-! ## One bit of a register word -/

theorem testBit_setBit_self (v i : Nat) : testBit (setBit v i) i = true := by
  rw [testBit_eq]
  change (v ||| 2 ^ i).testBit i = true
  rw [Nat.testBit_or, Nat.testBit_two_pow_self, Bool.or_true]

theorem testBit_mod_two_pow {v i w : Nat} (h : i < w) : testBit (v % 2 ^ w) i = testBit v i := by
  simp [testBit_eq, Nat.testBit_mod_two_pow, h]

/-! ## The pending bits -/

/-- The field is none of the router's pending words. -/
abbrev Fld.OffPend (f : Fld) : Prop := f.key < (R.HEVT_PEND.PEND 0).key ∨ (R.HEVT_PEND.PEND 3).key < f.key

theorem Fld.OffPend.key_ne {f : Fld} (h : f.OffPend) (i : Nat) : f.key ≠ (R.HEVT_PEND.PEND i).key := by
  simp only [Fld.OffPend, Fld.key, R.HEVT_PEND.PEND] at h ⊢
  omega

/-- Every source that is pending in `d` is pending in `e`. -/
def Dev.KeepsPends (d e : Dev) : Prop := ∀ n, d.Pends n → e.Pends n

theorem Dev.pend_pends (d : Dev) (n : Nat) : (d.pend n).Pends n := by
  have hlt : n % 32 < (R.HEVT_PEND.PEND (n / 32)).width := Nat.mod_lt n (by decide)
  rw [Dev.Pends, Dev.pend, Dev.rd_wr, testBit_mod_two_pow hlt, testBit_setBit_self]

section
variable {d e : Dev}

theorem Dev.KeepsPends.refl (d : Dev) : d.KeepsPends d := fun _ h => h

theorem Dev.KeepsPends.trans {e' : Dev} (h : d.KeepsPends e) (h' : e.KeepsPends e') : d.KeepsPends e' := fun n hn => h' n (h n hn)

theorem Dev.KeepsPends.of_regs {e' : Dev} (h : d.KeepsPends e) (hregs : e'.regs = e.regs) : d.KeepsPends e' := fun n hn => by
  have hrd : e'.rd (R.HEVT_PEND.PEND (n / 32)) = e.rd (R.HEVT_PEND.PEND (n / 32)) := congrArg (Regs.get · _) hregs
  rw [Dev.Pends, hrd]
  exact h n hn

theorem Dev.KeepsPends.wr {f : Fld} {v : Nat} (h : d.KeepsPends e) (hf : f.OffPend) : d.KeepsPends (e.wr f v) := fun n hn => by
  rw [Dev.Pends, Dev.rd_wr_ne _ _ _ _ (hf.key_ne _)]
  exact h n hn

/-- One more pending bit: another word stays as it is, and the same word gains a bit. -/
theorem Dev.KeepsPends.pend (h : d.KeepsPends e) (m : Nat) : d.KeepsPends (e.pend m) := fun n hn => by
  have hlt : n % 32 < (R.HEVT_PEND.PEND (m / 32)).width := Nat.mod_lt n (by decide)
  by_cases hword : m / 32 % 4 = n / 32 % 4
  · have hfld : R.HEVT_PEND.PEND (n / 32) = R.HEVT_PEND.PEND (m / 32) := by simp only [R.HEVT_PEND.PEND, hword]
    have hn' := h n hn
    rw [Dev.Pends, hfld] at hn' ⊢
    rw [Dev.pend, Dev.rd_wr, testBit_mod_two_pow hlt, testBit_setBit _ _ _ hn']
  · have hkey : (R.HEVT_PEND.PEND (m / 32)).key ≠ (R.HEVT_PEND.PEND (n / 32)).key := by
      simp only [Fld.key, R.HEVT_PEND.PEND]
      omega
    rw [Dev.Pends, Dev.pend, Dev.rd_wr_ne _ _ _ _ hkey]
    exact h n hn

theorem Dev.KeepsPends.forAll {α : Type} {xs : List α} {g : Dev → α → Dev} (h : d.KeepsPends e)
    (hg : ∀ e x, d.KeepsPends e → d.KeepsPends (g e x)) : d.KeepsPends (e.forAll xs g) := by
  unfold Dev.forAll
  induction xs generalizing e with
  | nil => exact h
  | cons x xs ih => exact ih (hg e x h)

end

/-! ## A host event -/

theorem Dev.ringFinish_keepsPends (d : Dev) (r err info : Nat) (sop eop : Bool) : d.KeepsPends (d.ringFinish r err info sop eop).1 := by
  have hhead : ∀ (e : Dev) (v : Nat), e.regs = d.regs → d.KeepsPends (e.wr (R.HRNG_HEAD.IDX r) v) := fun e v hregs =>
    ((Dev.KeepsPends.refl d).of_regs hregs).wr (by simp only [Fld.OffPend, Fld.key, R.HRNG_HEAD.IDX, R.HEVT_PEND.PEND]; omega)
  unfold Dev.ringFinish
  by_cases herr : err = 0
  · simp only [herr, if_true]
    exact hhead _ _ rfl
  · simp only [herr, if_false]
    exact (hhead _ _ rfl).wr (by simp only [Fld.OffPend, Fld.key, R.HRNG_STAT.ERR, R.HEVT_PEND.PEND]; omega)

theorem Dev.jrnWrite_keepsPends (d : Dev) (first last ev kind typ flags count : Nat) (data : List Nat) :
    d.KeepsPends (d.jrnWrite first last ev kind typ flags count data) := by
  have hring : ∀ bs : List Byte, d.KeepsPends ((d.ringStore 24 bs).ringFinish 24 0 0 true true).1 := fun bs =>
    ((Dev.KeepsPends.refl d).of_regs rfl).trans (Dev.ringFinish_keepsPends (d.ringStore 24 bs) 24 0 0 true true)
  have hseq : ∀ (bs : List Byte) (j : Journal) (v : Nat),
      d.KeepsPends (({ ((d.ringStore 24 bs).ringFinish 24 0 0 true true).1 with jr := j }).wr R.HDIA_JSEQ.SEQ v) :=
    fun bs _ _ => ((hring bs).of_regs rfl).wr (by decide)
  unfold Dev.jrnWrite
  dsimp only
  split
  · exact ((hseq _ _ _).wr (by decide)).pend 92
  · exact hseq _ _ _

theorem Dev.jrnShow_keepsPends (d : Dev) : d.KeepsPends d.jrnShow := by
  unfold Dev.jrnShow
  refine (((Dev.KeepsPends.refl d).wr (by decide)).wr (by decide)).forAll (fun e i h => (h.wr ?_).wr ?_)
  · simp only [Fld.OffPend, Fld.key, R.HDIA_HELD.SRC, R.HEVT_PEND.PEND]
    omega
  · simp only [Fld.OffPend, Fld.key, R.HDIA_FLOOD.SRC, R.HEVT_PEND.PEND]
    omega

theorem Dev.jrnHold_keepsPends (d : Dev) (h : HeldRec) : d.KeepsPends (d.jrnHold h) := by
  have hcount : ∀ e : Dev, e.regs = d.regs → d.KeepsPends (e.bumpBy R.HDIA_JCNT.HELD h.count) := fun e he =>
    ((Dev.KeepsPends.refl d).of_regs he).wr (by decide)
  unfold Dev.jrnHold
  dsimp only
  refine .trans ?_ (Dev.jrnShow_keepsPends _)
  split
  · exact hcount _ rfl
  · exact ((hcount _ rfl).wr (by decide)).pend 121

theorem Dev.jrnReport_keepsPends (d : Dev) (h : HeldRec) : d.KeepsPends (d.jrnReport h) := by
  unfold Dev.jrnReport
  dsimp only
  split
  · exact (d.jrnWrite_keepsPends _ _ _ _ _ _ _ _).of_regs rfl
  · split
    · exact (((d.jrnHold_keepsPends h).wr (by decide)).pend 123).trans (Dev.jrnHold_keepsPends _ _)
    · exact d.jrnHold_keepsPends h

theorem Dev.raiseH_pends (d : Dev) (n kind : Nat) (data : List Nat) : (d.raiseH n kind data).Pends n := by
  unfold Dev.raiseH
  dsimp only
  split
  · exact d.pend_pends n
  · exact Dev.jrnReport_keepsPends _ _ n (d.pend_pends n)

end Sys2Proof.Machine
end

section
/-! The flue's receivers and the host endpoint (R49 to R53, R64, R67). -/

namespace Sys2Proof.Machine

/-! ## The direction a side receives on -/

section
variable (d : Dev) (side : Side) (fd : FlueDir)

@[simp] theorem Dev.recvDir_setSendDir : (d.setSendDir side fd).recvDir side = d.recvDir side := by cases side <;> rfl

@[simp] theorem Dev.recvDir_setRecvDir : (d.setRecvDir side fd).recvDir side = fd := by cases side <;> rfl

theorem Dev.recvDir_of_fl {d e : Dev} (h : e.fl = d.fl) (side : Side) : e.recvDir side = d.recvDir side := by
  cases side <;> simp only [Dev.recvDir, h]

@[simp] theorem Dev.recvDir_creditShow : d.creditShow.recvDir side = d.recvDir side :=
  Dev.recvDir_of_fl (d.creditShow_reach.onlyIn.fl rfl) side

/-- A field event waits on the direction that the field sends on, so what it receives stays as it is. -/
@[simp] theorem Dev.raise_h2f (n kind : Nat) (data : List Nat) : (d.raise n kind data).fl.h2f = d.fl.h2f := by
  unfold Dev.raise Dev.sendF
  dsimp only
  split <;> split <;> rfl

/-- A receiver's error is counted and raised without touching what it has received. -/
@[simp] theorem Dev.recvDir_flueErr (f h : Fld) (k : Nat) : (d.flueErr side f h k).recvDir side = d.recvDir side := by
  unfold Dev.flueErr
  split
  · rfl
  · cases side
    · exact Dev.raise_h2f _ _ _ _
    · exact congrArg Flue.f2h (Dev.raiseH_fl _ _ _ _)

end

/-! ## Counters of a receiver -/

section
variable (fd : FlueDir) (q k seq g : Nat)

@[simp] theorem FlueDir.free_accepted : (fd.free q k).accepted = fd.accepted := by unfold FlueDir.free; split <;> rfl

@[simp] theorem FlueDir.free_expSeq : (fd.free q k).expSeq = fd.expSeq := by unfold FlueDir.free; split <;> rfl

@[simp] theorem FlueDir.free_damaged : (fd.free q k).damaged = fd.damaged := by unfold FlueDir.free; split <;> rfl

@[simp] theorem FlueDir.advance_accepted : (fd.advance q seq g).accepted = fd.accepted := by
  unfold FlueDir.advance
  dsimp only
  split <;> exact FlueDir.free_accepted _ _ _

@[simp] theorem FlueDir.advance_expSeq : (fd.advance q seq g).expSeq = setAt fd.expSeq q ((seq + 1) % 256) := by
  unfold FlueDir.advance
  dsimp only
  split <;> exact FlueDir.free_expSeq _ _ _

end

/-! ## FLUE_CELL_RECEIVE (R49, R52) -/

/-- The block after a cell of good CRC was noted: its freed count taken for the other direction, the run of failures ended. -/
def Dev.cellNoted (d : Dev) (receiver : Side) (cell : List Byte) : Dev :=
  let w := leAt cell 0 4
  (d.setSendDir receiver { d.sendDir receiver with crf := setAt (d.sendDir receiver).crf (bits w 26 24) (bits w 31 27) }).creditShow.setRecvDir
    receiver { d.recvDir receiver with failRun := [0, 0] }

theorem Dev.recvDir_cellNoted (d : Dev) (receiver : Side) (cell : List Byte) :
    (d.cellNoted receiver cell).recvDir receiver = { d.recvDir receiver with failRun := [0, 0] } := Dev.recvDir_setRecvDir ..

/-- IDLE is of no queue (Table 3-3). -/
theorem ne_idle_of_queueOfType {ty q : Nat} (h : queueOfType ty = some q) : ty ≠ 0xFF := by
  rintro rfl
  simp [queueOfType] at h

section
variable {d : Dev} {receiver : Side} {cell : List Byte} {q g : Nat}

theorem Dev.cellReceive_of_bad_crc (hup : d.fl.up = true) (hcrc : crc32c (cell.take 60) ≠ leAt cell 60 4) :
    d.cellReceive receiver cell = (d.setRecvDir receiver { d.recvDir receiver with failRun := (d.recvDir receiver).failRun.map (· + 1) }).flueErr
      receiver R.FFLU_ERR.CRC R.HFLU_ERR.CRC 1 := by
  simp only [Dev.cellReceive, hup, if_pos hcrc, Bool.true_eq_false, if_false]

theorem FlueDir.gap_failRun (fd : FlueDir) (runs : List Nat) (q seq : Nat) : { fd with failRun := runs }.gap q seq = fd.gap q seq := rfl

theorem Dev.cellReceive_of_stale (hup : d.fl.up = true) (hcrc : crc32c (cell.take 60) = leAt cell 60 4)
    (hq : queueOfType (bits (leAt cell 0 4) 7 0) = some q) (hgap : (d.recvDir receiver).gap q (bits (leAt cell 0 4) 23 16) = none) :
    d.cellReceive receiver cell = d.cellNoted receiver cell := by
  simp only [Dev.cellReceive, hup, hcrc, ne_eq, not_true, Bool.true_eq_false, if_false, ne_idle_of_queueOfType hq, hq,
    Dev.recvDir_setRecvDir, Dev.recvDir_creditShow, Dev.recvDir_setSendDir, FlueDir.gap_failRun, hgap]
  rfl

theorem Dev.cellReceive_of_good (hup : d.fl.up = true) (hcrc : crc32c (cell.take 60) = leAt cell 60 4)
    (hq : queueOfType (bits (leAt cell 0 4) 7 0) = some q) (hgap : (d.recvDir receiver).gap q (bits (leAt cell 0 4) 23 16) = some g)
    (hty : typeDefined receiver (bits (leAt cell 0 4) 7 0) = true)
    (hlen : lenFits (bits (leAt cell 0 4) 7 0) (bits (leAt cell 0 4) 13 8) = true) :
    d.cellReceive receiver cell = (((d.cellNoted receiver cell).setRecvDir receiver
      (((d.cellNoted receiver cell).recvDir receiver).advance q (bits (leAt cell 0 4) 23 16) g)).flueErr receiver R.FFLU_ERR.GAP R.HFLU_ERR.GAP g).acceptCell
        receiver q cell := by
  simp only [Dev.cellReceive, hup, hcrc, ne_eq, not_true, Bool.true_eq_false, if_false, ne_idle_of_queueOfType hq, hq,
    Dev.recvDir_setRecvDir, Dev.recvDir_creditShow, Dev.recvDir_setSendDir, FlueDir.gap_failRun, hgap, hty, hlen, Bool.and_self, if_true, Dev.recvDir_cellNoted]
  rfl

end

section
variable (d : Dev) (receiver : Side) (cell : List Byte) {q : Nat}

/-- Outside the SAFETY queue there is no second copy and no XC buffer: the cell is accepted. -/
theorem Dev.acceptCell_accepted (hq : q ≠ 0) :
    ((d.acceptCell receiver q cell).recvDir receiver).accepted = (d.recvDir receiver).accepted ++ [cell] := by
  simp [Dev.acceptCell, hq]

theorem Dev.acceptCell_expSeq (hq : q ≠ 0) :
    ((d.acceptCell receiver q cell).recvDir receiver).expSeq = (d.recvDir receiver).expSeq := by
  simp [Dev.acceptCell, hq]

end

theorem exec_flueCellReceive (receiver : Side) (cell : List Byte) (s : State) :
    exec (.flueCellReceive receiver cell) s = done s (·.cellReceive receiver cell) := rfl

/-- Settles O8: the four clauses are the four ways a cell can go, each followed to the receiver's counters. -/
theorem flueReceiveAcceptsGoodCells : Obligations.FlueReceiveAcceptsGoodCells := by
  intro s receiver cell w fd
  refine ⟨fun hdown => ?_, fun hup hcrc => ?_, fun q g hup hcrc hq hq0 hgap hty hlen => ?_, fun q hup hcrc hq hgap => ?_⟩
  · exact answers_of_done (exec_flueCellReceive receiver cell s) (if_pos hdown)
  · refine answers_of_done (exec_flueCellReceive receiver cell s) ?_
    rw [Dev.cellReceive_of_bad_crc hup hcrc, Dev.recvDir_flueErr, Dev.recvDir_setRecvDir]
    exact ⟨rfl, rfl⟩
  · refine answers_of_done (exec_flueCellReceive receiver cell s) ?_
    rw [Dev.cellReceive_of_good hup hcrc hq hgap hty hlen, Dev.acceptCell_accepted _ _ _ hq0, Dev.acceptCell_expSeq _ _ _ hq0,
      Dev.recvDir_flueErr, Dev.recvDir_setRecvDir, FlueDir.advance_accepted, FlueDir.advance_expSeq, Dev.recvDir_cellNoted]
    exact ⟨rfl, rfl⟩
  · refine answers_of_done (exec_flueCellReceive receiver cell s) ?_
    rw [Dev.cellReceive_of_stale hup hcrc hq hgap, Dev.recvDir_cellNoted]
    exact ⟨rfl, rfl⟩

end Sys2Proof.Machine
end

section
/-! The host endpoint's supervision (R50, R51, R57, R64, R67): heartbeats, their acknowledgement, the transmit windows and the
events of a lost field. -/

namespace Sys2Proof.Machine

/-! ## The meaning of each command of this part -/

section
variable (s : State)

theorem exec_hbAck (hbSeq modeWord stc : Nat) : exec (.hbAck hbSeq modeWord stc) s = done s (·.hbAck hbSeq modeWord stc) := rfl
theorem exec_heartbeatSend : exec .heartbeatSend s = done s Dev.heartbeatSend := rfl
theorem exec_hfluHbkick (v : Nat) : exec (.hfluHbkick v) s = done s (·.hbKick v) := rfl
theorem exec_hfluTxwinCommit (win : Fin 2) : exec (.hfluTxwinCommit win) s = done s (·.txwinCommit win) := rfl
theorem exec_fieldLost : exec .fieldLost s = done s (fun d =>
    if d.fl.lostRaised then d else ({ d with fl := { d.fl with lostRaised := true } }).raiseH 74 0 []) := rfl
theorem exec_noCreditTimeout (q : Fin 8) : exec (.noCreditTimeout q) s = done s (·.raiseH 75 0 [q.val]) := rfl
theorem exec_timeSyncMissing : exec .timeSyncMissing s = done s (·.raiseH 77 0 []) := rfl

end

/-! ## HB_ACK (R67) -/

@[simp] theorem Dev.toRing20_fl (d : Dev) (cell : List Byte) : (d.toRing20 cell).fl = d.fl := (d.toRing20_reach cell).onlyIn.fl rfl

/-- The acknowledgement is noted at the present host time, whatever cell is taken and however ring 20 receives it. -/
theorem Dev.hbAck_fl (d : Dev) (hbSeq modeWord stc : Nat) :
    (d.hbAck hbSeq modeWord stc).fl = { (d.takeCell .host 0x01).fl with ackAt := d.htcNs, lostRaised := false } := by
  have htm : (d.takeCell .host 0x01).htcNs = d.htcNs := by
    simp only [Dev.htcNs, (d.takeCell_reach .host 0x01).onlyIn.tm rfl]
  rw [← htm]
  exact Dev.toRing20_fl ..

theorem answers_hbAck (s : State) (n m stc : Nat) : Answers (.hbAck n m stc) s (fun e =>
    e.fl.ackAt = s.dev.htcNs ∧ e.fl.lostRaised = false ∧ e.ffuse = s.dev.ffuse) := by
  refine answers_of_done (exec_hbAck s n m stc) ?_
  rw [Dev.hbAck_fl]
  exact ⟨rfl, rfl, (s.dev.hbAck_reach n m stc).onlyIn.ffuse rfl⟩

/-! ## HEARTBEAT_SEND (R64) -/

/-- The SAFETY message of heartbeat number `n`. -/
def Dev.heartbeatMsg (d : Dev) (n : Nat) : Msg := { ty := 0x00, payload := leBytes 4 n ++ leBytes 1 d.fl.hostState ++ leBytes 3 0 }

section
variable {d : Dev}

theorem Dev.heartbeatSend_of_fresh {k : Nat} (hgen : d.on R.HFLU_HBCFG.HBGEN = true) (hup : d.fl.up = true) (hkick : d.fl.kickAt = some k)
    (hfresh : d.htcNs ≤ k + d.rd R.HFLU_HBCFG.KICK * 10 ^ 6) :
    d.heartbeatSend = { d with fl := { d.fl with hbSeq := (d.fl.hbSeq + 1) % 2 ^ 32 } }.sendH 0 (d.heartbeatMsg ((d.fl.hbSeq + 1) % 2 ^ 32)) := by
  simp only [Dev.heartbeatSend, hgen, hup, hkick, decide_eq_true hfresh, Bool.and_self, if_true]
  rfl

theorem Dev.heartbeatSend_of_off (hgen : d.on R.HFLU_HBCFG.HBGEN = false) : d.heartbeatSend = d := by
  simp only [Dev.heartbeatSend, hgen, Bool.false_and, Bool.false_eq_true, if_false]

theorem Dev.hbKick_of_key {v : Nat} (hkey : bits v 31 16 = 0x4B1C) :
    d.hbKick v = { d with fl := { d.fl with kickAt := some d.htcNs, hostState := bits v 7 0 } } := if_pos hkey

/-! ## A commit of a transmit window (R51) -/

/-- The message that a transmit window holds. -/
def Dev.txwinMsg (d : Dev) (win : Nat) : Msg :=
  let w := padTo (if win = 0 then d.fl.txwin0 else d.fl.txwin1) 60
  { ty := leAt w 0 1, payload := slice w 4 (min 56 (bits (leAt w 0 4) 13 8)) }

theorem Dev.txwinCommit_of_room {win : Nat} (h : (d.fl.h2f.queue.getD win []).length < (if win = 0 then 16 else 64)) :
    d.txwinCommit win = d.sendH win (d.txwinMsg win) := if_neg (Nat.not_le_of_lt h)

theorem Dev.txwinCommit_of_full {win : Nat} (h : (if win = 0 then 16 else 64) ≤ (d.fl.h2f.queue.getD win []).length) :
    d.txwinCommit win = (d.bump R.HFLU_ERR.TXFULL).raiseH 73 0 [1] := if_pos h

end

/-! ## A host event leaves the flue as it is and its source pending -/

theorem Dev.raiseH_pends_fl (d : Dev) (n kind : Nat) (data : List Nat) : (d.raiseH n kind data).Pends n ∧ (d.raiseH n kind data).fl = d.fl :=
  ⟨d.raiseH_pends n kind data, d.raiseH_fl n kind data⟩

/-- Settles O9: each clause is the law of one command, and the events it raises pend by the law of a host event. -/
theorem hostEndpointSupervision : Obligations.HostEndpointSupervision := by
  intro s
  refine ⟨answers_hbAck s, fun k hgen hup hkick hfresh => ?_, fun hgen => ?_, fun v hkey => ?_, fun v hkey => ?_, fun win hroom => ?_,
    fun win hfull => ?_, fun hlost => ?_, fun hlost => ?_, fun q => ?_, ?_⟩
  · have honly := s.dev.heartbeatSend_reach.onlyIn
    refine answers_of_done (exec_heartbeatSend s) ?_
    rw [Dev.heartbeatSend_of_fresh hgen hup hkick hfresh] at honly ⊢
    exact ⟨rfl, rfl, honly⟩
  · exact answers_of_done (exec_heartbeatSend s) (Dev.heartbeatSend_of_off hgen)
  · have honly := (s.dev.hbKick_reach v).onlyIn
    refine answers_of_done (exec_hfluHbkick s v) ?_
    rw [Dev.hbKick_of_key hkey] at honly ⊢
    exact ⟨rfl, rfl, honly⟩
  · exact answers_of_done (exec_hfluHbkick s v) (if_neg hkey)
  · refine answers_of_done (exec_hfluTxwinCommit s win) ?_
    rw [Dev.txwinCommit_of_room hroom]
    exact ⟨rfl, rfl⟩
  · refine answers_of_done (exec_hfluTxwinCommit s win) ?_
    rw [Dev.txwinCommit_of_full hfull]
    obtain ⟨hpend, hfl⟩ := (s.dev.bump R.HFLU_ERR.TXFULL).raiseH_pends_fl 73 0 [1]
    exact ⟨by rw [hfl]; rfl, hpend⟩
  · refine answers_of_done (exec_fieldLost s) ?_
    rw [if_neg (by simp [hlost])]
    obtain ⟨hpend, hfl⟩ := ({ s.dev with fl := { s.dev.fl with lostRaised := true } } : Dev).raiseH_pends_fl 74 0 []
    exact ⟨by rw [hfl], hpend⟩
  · exact answers_of_done (exec_fieldLost s) (if_pos hlost)
  · exact answers_of_done (exec_noCreditTimeout s q) (s.dev.raiseH_pends_fl 75 0 [q.val])
  · exact answers_of_done (exec_timeSyncMissing s) (s.dev.raiseH_pends_fl 77 0 [])

end Sys2Proof.Machine
end

section
/-! A cell taken by the command that acts on it (Table 3-3), and the requests of the CONTROL class (R59, R62). -/

namespace Sys2Proof.Machine

/-! ## A cell taken: only the direction it came on changes -/

section
variable (d : Dev) (receiver : Side) (ty : Nat)

theorem Dev.takeCell_onlyIn : d.OnlyIn Part.fl (d.takeCell receiver ty) := (d.takeCell_reach receiver ty).onlyIn

@[simp] theorem Dev.takeCell_regs : (d.takeCell receiver ty).regs = d.regs := (d.takeCell_onlyIn receiver ty).regs rfl

@[simp] theorem Dev.takeCell_fmem : (d.takeCell receiver ty).fmem = d.fmem := (d.takeCell_onlyIn receiver ty).fmem rfl

@[simp] theorem Dev.takeCell_st : (d.takeCell receiver ty).st = d.st := (d.takeCell_onlyIn receiver ty).st rfl

@[simp] theorem Dev.takeCell_rd (f : Fld) : (d.takeCell receiver ty).rd f = d.rd f :=
  congrArg (Regs.get · f) (d.takeCell_regs receiver ty)

@[simp] theorem Dev.takeCell_on (f : Fld) : (d.takeCell receiver ty).on f = d.on f := by
  simp only [Dev.on, Dev.takeCell_rd]

@[simp] theorem Dev.takeCell_domOn (dom : Dom) : (d.takeCell receiver ty).domOn dom = d.domOn dom := by
  simp only [Dev.domOn, Dev.takeCell_rd, Dev.takeCell_on]

@[simp] theorem Dev.takeCell_mode : (d.takeCell receiver ty).mode = d.mode := by
  simp only [Dev.mode, Dev.takeCell_rd]

/-- On the field side only the host-to-field direction changes, and not its marks of damaged transfers. -/
theorem Dev.takeCell_field_fl : ∃ fd : FlueDir, fd.damaged = d.fl.h2f.damaged ∧ (d.takeCell .field ty).fl = { d.fl with h2f := fd } := by
  unfold Dev.takeCell
  dsimp only
  split
  · exact ⟨d.fl.h2f, rfl, rfl⟩
  · refine ⟨_, ?_, rfl⟩
    exact FlueDir.free_damaged _ _ _

@[simp] theorem Dev.takeCell_field_reqs : (d.takeCell .field ty).fl.reqs = d.fl.reqs := by
  obtain ⟨fd, -, hfl⟩ := d.takeCell_field_fl ty
  rw [hfl]

@[simp] theorem Dev.takeCell_field_done : (d.takeCell .field ty).fl.done = d.fl.done := by
  obtain ⟨fd, -, hfl⟩ := d.takeCell_field_fl ty
  rw [hfl]

@[simp] theorem Dev.takeCell_field_keptRsp (tag rty : Nat) : (d.takeCell .field ty).keptRsp tag rty = d.keptRsp tag rty := by
  obtain ⟨fd, -, hfl⟩ := d.takeCell_field_fl ty
  simp only [Dev.keptRsp, hfl]

@[simp] theorem Dev.takeCell_field_damaged : (d.takeCell .field ty).fl.h2f.damaged = d.fl.h2f.damaged := by
  obtain ⟨fd, hdamaged, hfl⟩ := d.takeCell_field_fl ty
  rw [hfl, ← hdamaged]

end

/-! ## A request accepted (R59, R62) -/

theorem parseReq_tag (ty : Nat) (p : List Byte) : (parseReq ty p).tag = leAt p 0 2 := rfl

section
variable {d : Dev} {ty : Nat} {p : List Byte}

theorem Dev.ctlAccept_of_kept {m : Msg} (h : d.keptRsp (leAt p 0 2) ty = some m) :
    d.ctlAccept ty p = (d.takeCell .field ty).sendF 1 m := by
  simp only [Dev.ctlAccept, parseReq_tag, Dev.takeCell_field_keptRsp, h]

theorem Dev.ctlAccept_of_new (hkept : d.keptRsp (leAt p 0 2) ty = none)
    (hreqs : ∀ r ∈ d.fl.reqs, (r.tag, r.ty) ≠ (leAt p 0 2, ty)) (hdone : ∀ r ∈ d.fl.done, (r.req.tag, r.req.ty) ≠ (leAt p 0 2, ty)) :
    (d.ctlAccept ty p).fl.reqs = d.fl.reqs ++ [parseReq ty p] ∧ (d.ctlAccept ty p).regs = d.regs := by
  have hwaits : d.fl.reqs.any (fun r => r.tag == leAt p 0 2 && r.ty == ty) = false := by
    simpa using hreqs
  have hanswered : d.fl.done.any (fun r => r.req.tag == leAt p 0 2 && r.req.ty == ty) = false := by
    simpa using hdone
  simp only [Dev.ctlAccept, parseReq_tag, Dev.takeCell_field_keptRsp, hkept, Dev.takeCell_field_reqs, Dev.takeCell_field_done, hwaits,
    hanswered, Bool.or_self, Bool.false_eq_true, if_false, Dev.takeCell_regs, and_self]

end

section
variable (p : List Byte) (s : State)

theorem exec_paramWr : exec (.paramWr p) s = onF1 s (·.ctlAccept 0x10 p) := rfl
theorem exec_paramRd : exec (.paramRd p) s = onF1 s (·.ctlAccept 0x11 p) := rfl
theorem exec_targetSet : exec (.targetSet p) s = onF1 s (·.ctlAccept 0x13 p) := rfl

end

/-- The three commands of the CONTROL class accept their payload under their own type. -/
theorem exec_controlRequest {c : Instr} {ty : Nat} {p : List Byte} (s : State)
    (hc : c = .paramWr p ∧ ty = 0x10 ∨ c = .paramRd p ∧ ty = 0x11 ∨ c = .targetSet p ∧ ty = 0x13) :
    exec c s = onF1 s (·.ctlAccept ty p) := by
  obtain ⟨rfl, rfl⟩ | ⟨rfl, rfl⟩ | ⟨rfl, rfl⟩ := hc
  · exact exec_paramWr p s
  · exact exec_paramRd p s
  · exact exec_targetSet p s

/-- Settles O12: whichever of the three commands it is, the request is accepted by the one operation, new or kept. -/
theorem controlRequestsWaitForTheirTick : Obligations.ControlRequestsWaitForTheirTick := by
  intro s p hon c ty hc
  refine ⟨fun hkept hreqs hdone => ?_, fun m hkept => ?_⟩
  · obtain ⟨hqueued, hregs⟩ := Dev.ctlAccept_of_new hkept hreqs hdone
    exact answers_of_onF1 (exec_controlRequest s hc) hon ⟨hqueued, hregs, (s.dev.ctlAccept_reach ty p).onlyIn⟩
  · refine answers_of_onF1 (exec_controlRequest s hc) hon ?_
    rw [Dev.ctlAccept_of_kept hkept]
    exact ⟨s.dev.takeCell_field_reqs ty, rfl⟩

end Sys2Proof.Machine
end

section
/-! The loader's transfers and the end of a validation (R55, R82, R84, R86). -/

namespace Sys2Proof.Machine

/-! ## A load refused -/

section
variable (d : Dev) (code sect : Nat)

/-- The event of a refused load touches no register, so each reads as the three field writes leave it. -/
theorem Dev.loadRefuse_rd (f : Fld) : (d.loadRefuse code sect).rd f =
    (d.wrAll [(R.STS_LOADSTAT.STATE, 4), (R.STS_LOADSTAT.CODE, code), (R.STS_LOADSTAT.SECT, sect)]).rd f := Dev.raise_rd _ _ _ _ f

theorem Dev.loadRefuse_state : (d.loadRefuse code sect).rd R.STS_LOADSTAT.STATE = 4 :=
  (d.loadRefuse_rd code sect _).trans (d.rd_wrAll_head (by simp only [List.forall_mem_cons]; decide))

theorem Dev.loadRefuse_code : (d.loadRefuse code sect).rd R.STS_LOADSTAT.CODE = code % 2 ^ R.STS_LOADSTAT.CODE.width :=
  (d.loadRefuse_rd code sect _).trans ((d.wr R.STS_LOADSTAT.STATE 4).rd_wrAll_head (by simp only [List.forall_mem_cons]; decide))

theorem Dev.loadRefuse_regsBut : d.RegsBut [R.STS_LOADSTAT.STATE, R.STS_LOADSTAT.CODE, R.STS_LOADSTAT.SECT] (d.loadRefuse code sect) := by
  intro f hf
  rw [Dev.loadRefuse_rd]
  exact d.rd_wrAll_other (fun w hw => hf w.1 (List.mem_map_of_mem (f := Prod.fst) hw))

@[simp] theorem Dev.loadRefuse_st : (d.loadRefuse code sect).st = d.st := Dev.raise_st ..

@[simp] theorem Dev.loadRefuse_fmem : (d.loadRefuse code sect).fmem = d.fmem := Dev.raise_fmem ..

end

/-! ## A transfer opened, closed and aborted -/

/-- The block with a transfer open and nothing of it damaged yet. -/
def Dev.rxOpened (d : Dev) (x : ImgXfer) : Dev :=
  { d with fl := { d.fl with h2f := { d.fl.h2f with damaged := setAt d.fl.h2f.damaged 0 false } },
           st := { d.st with rx := some x, rxMem := [] } }

/-- The block with no transfer open. -/
def Dev.rxClosed (d : Dev) : Dev := { d with st := { d.st with rx := none, rxMem := [] } }

section
variable {d : Dev} {x : ImgXfer}

theorem Dev.imgAbort_of_open (hx : d.st.rx = some x) :
    d.imgAbort = ((d.rxClosed.wr R.STS_LOADSTAT.STATE 0).raise 4 2 [x.xfer]).imgStat x.xfer 1 := by
  simp only [Dev.imgAbort, hx]
  rfl

theorem Dev.imgAbort_of_none (hx : d.st.rx = none) : d.imgAbort = d := by
  simp only [Dev.imgAbort, hx]

theorem Dev.imgAbort_regs (hx : d.st.rx = some x) : d.imgAbort.regs = (d.rxClosed.wr R.STS_LOADSTAT.STATE 0).regs := by
  rw [Dev.imgAbort_of_open hx]
  exact Dev.raise_regs ..

theorem Dev.imgAbort_regsBut (d : Dev) : d.RegsBut [R.STS_LOADSTAT.STATE] d.imgAbort := by
  cases hx : d.st.rx with
  | none => exact .of_eq _ (congrArg Dev.regs (Dev.imgAbort_of_none hx))
  | some x => exact (Dev.regsBut_wr (e := d.rxClosed) rfl).of_regs (Dev.imgAbort_regs hx)

theorem Dev.imgAbort_st (hx : d.st.rx = some x) : d.imgAbort.st = { d.st with rx := none, rxMem := [] } := by
  rw [Dev.imgAbort_of_open hx]
  exact Dev.raise_st ..

theorem Dev.imgAbort_fmem (hx : d.st.rx = some x) : d.imgAbort.fmem = d.fmem := by
  rw [Dev.imgAbort_of_open hx]
  exact Dev.raise_fmem ..

theorem Dev.imgAbort_state (hx : d.st.rx = some x) : d.imgAbort.rd R.STS_LOADSTAT.STATE = 0 := by
  rw [Dev.rd, Dev.imgAbort_regs hx]
  exact Dev.rd_wr d.rxClosed R.STS_LOADSTAT.STATE 0

/-! ## The four commands of a transfer -/

theorem Dev.imgBegin_opens {xfer len : Nat} (hmode : d.mode ≠ .recovery) (hon : d.domOn .f2 = true)
    (henc : d.on R.FSEC_CFG.BULKENC = false) (hload : d.loadState ≠ 2) (hswap : d.rd R.STS_SWAPSTAT.STATE ≠ 1) :
    d.imgBegin xfer len = ((d.takeCell .field 0x61).imgAbort.rxOpened { xfer := xfer, len := len, slot := none }).wr R.STS_LOADSTAT.STATE 1 := by
  have hencAbort : (d.takeCell .field 0x61).imgAbort.on R.FSEC_CFG.BULKENC = false := by
    rw [Dev.on, Dev.imgAbort_regsBut _ _ (by decide), Dev.takeCell_rd]
    exact henc
  have hload' : (d.takeCell .field 0x61).loadState ≠ 2 := by
    rw [Dev.loadState, Dev.takeCell_rd]
    exact hload
  unfold Dev.imgBegin
  dsimp only
  rw [if_neg (by simp [hload', hswap, hon]), if_neg (by simp [henc]), if_neg (by exact Bool.eq_false_iff.mp hencAbort)]
  simp only [Dev.takeCell_mode, decide_eq_false hmode]
  rfl

theorem Dev.imgData_stores {xfer off : Nat} {bs : List Byte} (hx : d.st.rx = some x) (hslot : x.slot = none) (hxfer : x.xfer = xfer)
    (hlen : off + bs.length ≤ x.len) (hroom : stagingBase + off + bs.length ≤ 0x1400000) :
    d.imgData xfer off bs = { d.takeCell .field 0x60 with fmem := Mem.writeBytes d.fmem (stagingBase + off) bs } := by
  simp only [Dev.imgData, Dev.takeCell_st, hx, hxfer, ne_eq, not_true, if_false, Nat.not_lt.mpr hlen, hslot, if_pos hroom,
    Dev.takeCell_fmem]

theorem Dev.imgBytes_staging {n : Nat} (hslot : x.slot = none) : d.imgBytes x 0 n = Mem.readBytes d.fmem stagingBase n := by
  simp [Dev.imgBytes, hslot]

/-- What END finds once its cell is taken: the open transfer, its bytes in staging and the mark of a gap. -/
theorem Dev.imgEnd_finds (hx : d.st.rx = some x) (hslot : x.slot = none) : (d.takeCell .field 0x61).st.rx = some x ∧
    (d.takeCell .field 0x61).imgBytes x 0 x.len = Mem.readBytes d.fmem stagingBase x.len ∧
    (d.takeCell .field 0x61).fl.h2f.damaged.getD 0 false = d.fl.h2f.damaged.getD 0 false := by
  rw [Dev.imgBytes_staging hslot, Dev.takeCell_st, Dev.takeCell_fmem, Dev.takeCell_field_damaged]
  exact ⟨hx, rfl, rfl⟩

theorem Dev.imgEnd_refused {xfer : Nat} {digest : List Byte} (hx : d.st.rx = some x) (hslot : x.slot = none) (hxfer : x.xfer = xfer)
    (hbad : Config.sha384 (Mem.readBytes d.fmem stagingBase x.len) ≠ digest ∨ d.fl.h2f.damaged.getD 0 false = true) :
    ∃ status, d.imgEnd xfer digest = ((d.takeCell .field 0x61).rxClosed.imgStat xfer status).loadRefuse 0x10 0xFF := by
  obtain ⟨hrx, hbytes, hdamaged⟩ := Dev.imgEnd_finds hx hslot
  simp only [Dev.imgEnd, hrx, hbytes, hdamaged, hxfer, ne_eq, not_true, if_false]
  by_cases hgap : d.fl.h2f.damaged.getD 0 false = true
  · exact ⟨2, if_pos hgap⟩
  · exact ⟨3, (if_neg hgap).trans (if_pos (hbad.resolve_right hgap))⟩

theorem Dev.imgPlain_clear (bs : List Byte) (henc : d.on R.FSEC_CFG.BULKENC = false) : d.imgPlain x bs = some bs := if_neg (by simp [henc])

theorem Dev.imgEnd_checked {xfer : Nat} (hx : d.st.rx = some x) (hslot : x.slot = none) (hxfer : x.xfer = xfer)
    (hgap : d.fl.h2f.damaged.getD 0 false = false) (henc : d.on R.FSEC_CFG.BULKENC = false) :
    d.imgEnd xfer (Config.sha384 (Mem.readBytes d.fmem stagingBase x.len)) =
      ((d.takeCell .field 0x61).rxClosed.imgStat xfer 0).imgDispatch x (Mem.readBytes d.fmem stagingBase x.len) := by
  obtain ⟨hrx, hbytes, hdamaged⟩ := Dev.imgEnd_finds hx hslot
  have hplain : (d.takeCell .field 0x61).rxClosed.imgPlain x (Mem.readBytes d.fmem stagingBase x.len) = some _ :=
    Dev.imgPlain_clear _ ((Dev.takeCell_on _ _ _ _).trans henc)
  simp only [Dev.rxClosed] at hplain ⊢
  simp only [Dev.imgEnd, hrx, hbytes, hdamaged, hgap, hxfer, ne_eq, not_true, if_false, Bool.false_eq_true, hplain]

/-- An image that is no token and no legally relevant software is handed to validation. -/
theorem Dev.imgDispatch_stream {img : List Byte} (hslot : x.slot = none) (htoken : leAt img 0 4 ≠ 0x4B54535A) (hinj : leAt img 0 4 ≠ 0x4A4E495A)
    (hlr : leAt img 0 4 ≠ 0x524C4D5A) : d.imgDispatch x img =
      { ({ d with st := { d.st with image := img, imageSlot := none } }.wr R.STS_LOADSTAT.STATE 2) with
        fmem := Mem.writeBytes d.fmem stagingBase img } := by
  unfold Dev.imgDispatch
  dsimp only
  rw [if_neg (not_or.mpr ⟨htoken, hinj⟩), if_neg hlr, hslot]
  rfl

theorem Dev.imgCancel_of_open {xfer : Nat} (hx : d.st.rx = some x) (hxfer : x.xfer = xfer) :
    d.imgCancel xfer = (d.takeCell .field 0x61).imgAbort := by
  simp only [Dev.imgCancel, Dev.takeCell_st, hx, hxfer, if_true]

/-! ## Validation ends -/

/-- The block whose image the loader no longer holds. -/
def Dev.imageTaken (d : Dev) : Dev := { d with st := { d.st with image := [], imageSlot := none } }

theorem Dev.validated_damaged (hload : d.loadState = 2) :
    d.validated true = ((d.imageTaken.bump R.CEN_ECC.UNCORR).raise 18 2 []).loadRefuse 0x10 0xFF := by
  simp only [Dev.validated, hload, ne_eq, not_true, if_false, if_true]
  rfl

theorem Dev.validated_refused {c : Nat × Nat} (hload : d.loadState = 2) (hbad : d.imageTaken.loadBad d.st.image = some c) :
    d.validated false = d.imageTaken.loadRefuse c.1 c.2 := by
  simp only [Dev.imageTaken] at hbad ⊢
  simp only [Dev.validated, hload, ne_eq, not_true, if_false, Bool.false_eq_true, hbad]

/-- The registers of a stream that passed: STANDBY, no code and the stream's ID (Table 4-13). -/
def Dev.standbyShown (d : Dev) (id : Nat) : Dev :=
  d.wrAll [(R.STS_LOADSTAT.STATE, 3), (R.STS_LOADSTAT.CODE, 0), (R.STS_LOADSTAT.SECT, 0xFF), (R.STS_STBID.ID, id)]

theorem Dev.validated_passed (hload : d.loadState = 2) (hslot : d.st.imageSlot = none) (hgood : d.imageTaken.loadBad d.st.image = none) :
    (d.validated false).regs = (d.imageTaken.standbyShown (decodeStream d.st.image).id).regs ∧ (d.validated false).st.image = [] := by
  simp only [Dev.imageTaken] at hgood ⊢
  simp only [Dev.validated, hload, hslot, ne_eq, not_true, if_false, Bool.false_eq_true, hgood, Dev.raise_regs, Dev.raise_st]
  exact ⟨rfl, rfl⟩

end

section
variable (d : Dev) (id : Nat)

theorem Dev.standbyShown_state : (d.standbyShown id).rd R.STS_LOADSTAT.STATE = 3 :=
  d.rd_wrAll_head (by simp only [List.forall_mem_cons]; decide)

theorem Dev.standbyShown_code : (d.standbyShown id).rd R.STS_LOADSTAT.CODE = 0 :=
  (d.wr R.STS_LOADSTAT.STATE 3).rd_wrAll_head (by simp only [List.forall_mem_cons]; decide)

theorem Dev.standbyShown_id : (d.standbyShown id).rd R.STS_STBID.ID = id % 2 ^ 32 := Dev.rd_wr ..

theorem Dev.standbyShown_bank : (d.standbyShown id).rd R.STS_BANK.ACT = d.rd R.STS_BANK.ACT :=
  d.rd_wrAll_other (by simp only [List.forall_mem_cons]; decide)

end

/-! ## The meaning of each command of this part -/

section
variable (xfer : Nat) (s : State)

theorem exec_imgCtrlBegin (len : Nat) : exec (.imgCtrlBegin xfer len) s = onF1 s (·.imgBegin (xfer % 2 ^ 16) (len % 2 ^ 32)) := rfl
theorem exec_imgData (off : Nat) (bs : List Byte) : exec (.imgData xfer off bs) s = onF1 s (·.imgData (xfer % 2 ^ 16) (off % 2 ^ 32) bs) := rfl
theorem exec_imgCtrlEnd (digest : List Byte) : exec (.imgCtrlEnd xfer digest) s = onF1 s (·.imgEnd (xfer % 2 ^ 16) digest) := rfl
theorem exec_imgCtrlAbort : exec (.imgCtrlAbort xfer) s = onF1 s (·.imgCancel (xfer % 2 ^ 16)) := rfl
theorem exec_streamValidationComplete (damaged : Bool) : exec (.streamValidationComplete damaged) s = onF1 s (·.validated damaged) := rfl

end

/-! ## The answer of each command of this part -/

section
variable {s : State} {x : ImgXfer} {xfer : Nat} (hon : s.dev.domOn .f1 = true)
include hon

theorem answers_imgCtrlBegin {len : Nat} (hmode : s.dev.mode ≠ .recovery) (hf2 : s.dev.domOn .f2 = true)
    (henc : s.dev.on R.FSEC_CFG.BULKENC = false) (hload : s.dev.loadState ≠ 2) (hswap : s.dev.rd R.STS_SWAPSTAT.STATE ≠ 1) :
    Answers (.imgCtrlBegin xfer len) s (fun t => t.st.rx = some { xfer := xfer % 2 ^ 16, len := len % 2 ^ 32, slot := none } ∧
      t.rd R.STS_LOADSTAT.STATE = 1 ∧ s.dev.RegsBut [R.STS_LOADSTAT.STATE] t) := by
  have htaken : s.dev.RegsBut [R.STS_LOADSTAT.STATE] (s.dev.takeCell .field 0x61) := .of_eq _ (Dev.takeCell_regs ..)
  refine answers_of_onF1 (exec_imgCtrlBegin xfer s len) hon ?_
  rw [Dev.imgBegin_opens hmode hf2 henc hload hswap]
  exact ⟨rfl, Dev.rd_wr _ R.STS_LOADSTAT.STATE 1, (htaken.trans (Dev.imgAbort_regsBut _)).trans (Dev.regsBut_wr rfl)⟩

theorem answers_imgData {off : Nat} {bs : List Byte} (hx : s.dev.st.rx = some x) (hslot : x.slot = none) (hxfer : x.xfer = xfer % 2 ^ 16)
    (hlen : off % 2 ^ 32 + bs.length ≤ x.len) (hroom : stagingBase + off % 2 ^ 32 + bs.length ≤ 0x1400000) :
    Answers (.imgData xfer off bs) s (fun t => t.fmem = Mem.writeBytes s.dev.fmem (stagingBase + off % 2 ^ 32) bs ∧ t.st = s.dev.st ∧
      (∀ a : Nat, a < stagingBase + off % 2 ^ 32 ∨ stagingBase + off % 2 ^ 32 + bs.length ≤ a → Mem.read t.fmem a = Mem.read s.dev.fmem a) ∧
      s.dev.OnlyIn (Part.fmem ||| Part.fl) t) := by
  have htaken : Reach (Part.fmem ||| Part.fl) s.dev (s.dev.takeCell .field 0x60) := (Reach.refl _).step (Dev.takeCell_reach ..) rfl
  refine answers_of_onF1 (exec_imgData xfer s off bs) hon ?_
  rw [Dev.imgData_stores hx hslot hxfer hlen hroom]
  exact ⟨rfl, Dev.takeCell_st .., fun a ha => Mem.read_writeBytes_ne _ _ _ _ ha, htaken.onlyIn.with_fmem rfl⟩

theorem answers_imgCtrlEnd_refused {digest : List Byte} (hx : s.dev.st.rx = some x) (hxfer : x.xfer = xfer % 2 ^ 16) (hslot : x.slot = none)
    (hbad : Config.sha384 (Mem.readBytes s.dev.fmem stagingBase x.len) ≠ digest ∨ s.dev.fl.h2f.damaged.getD 0 false = true) :
    Answers (.imgCtrlEnd xfer digest) s (fun t => t.st.rx = none ∧ t.rd R.STS_LOADSTAT.STATE = 4 ∧ t.rd R.STS_LOADSTAT.CODE = 0x10 ∧
      t.fmem = s.dev.fmem) := by
  obtain ⟨status, hend⟩ := Dev.imgEnd_refused hx hslot hxfer hbad
  refine answers_of_onF1 (exec_imgCtrlEnd xfer s digest) hon ?_
  rw [hend, Dev.loadRefuse_st, Dev.loadRefuse_fmem]
  exact ⟨rfl, Dev.loadRefuse_state .., Dev.loadRefuse_code .., Dev.takeCell_fmem ..⟩

theorem answers_imgCtrlEnd_stream (hx : s.dev.st.rx = some x) (hxfer : x.xfer = xfer % 2 ^ 16) (hslot : x.slot = none)
    (hgap : s.dev.fl.h2f.damaged.getD 0 false = false) (henc : s.dev.on R.FSEC_CFG.BULKENC = false) {img : List Byte}
    (himg : Mem.readBytes s.dev.fmem stagingBase x.len = img)
    (htoken : leAt img 0 4 ≠ 0x4B54535A) (hinj : leAt img 0 4 ≠ 0x4A4E495A) (hlr : leAt img 0 4 ≠ 0x524C4D5A) :
    Answers (.imgCtrlEnd xfer (Config.sha384 img)) s (fun t => t.st.rx = none ∧ t.rd R.STS_LOADSTAT.STATE = 2 ∧ t.st.image = img) := by
  subst himg
  refine answers_of_onF1 (exec_imgCtrlEnd xfer s _) hon ?_
  rw [Dev.imgEnd_checked hx hslot hxfer hgap henc, Dev.imgDispatch_stream hslot htoken hinj hlr]
  exact ⟨rfl, Dev.rd_wr _ R.STS_LOADSTAT.STATE 2, rfl⟩

theorem answers_imgCtrlAbort (hx : s.dev.st.rx = some x) (hxfer : x.xfer = xfer % 2 ^ 16) :
    Answers (.imgCtrlAbort xfer) s (fun t => t.st.rx = none ∧ t.rd R.STS_LOADSTAT.STATE = 0 ∧ s.dev.RegsBut [R.STS_LOADSTAT.STATE] t ∧
      t.fmem = s.dev.fmem) := by
  have htaken : (s.dev.takeCell .field 0x61).st.rx = some x := by rw [Dev.takeCell_st, hx]
  refine answers_of_onF1 (exec_imgCtrlAbort xfer s) hon ?_
  rw [Dev.imgCancel_of_open hx hxfer]
  refine ⟨by rw [Dev.imgAbort_st htaken], Dev.imgAbort_state htaken, ?_, ?_⟩
  · exact (Dev.RegsBut.of_eq _ (Dev.takeCell_regs ..)).trans (Dev.imgAbort_regsBut _)
  · rw [Dev.imgAbort_fmem htaken, Dev.takeCell_fmem]

theorem answers_streamValidationComplete_damaged (hload : s.dev.loadState = 2) :
    Answers (.streamValidationComplete true) s (fun t => t.rd R.STS_LOADSTAT.STATE = 4 ∧ t.rd R.STS_LOADSTAT.CODE = 0x10 ∧
      t.rd R.CEN_ECC.UNCORR = min 255 (s.dev.rd R.CEN_ECC.UNCORR + 1)) := by
  refine answers_of_onF1 (exec_streamValidationComplete s true) hon ?_
  rw [Dev.validated_damaged hload]
  refine ⟨Dev.loadRefuse_state .., Dev.loadRefuse_code .., ?_⟩
  rw [Dev.loadRefuse_regsBut _ _ _ R.CEN_ECC.UNCORR (by decide), Dev.raise_rd, Dev.rd_bump]
  rfl

theorem answers_streamValidationComplete_passed (hload : s.dev.loadState = 2) (hslot : s.dev.st.imageSlot = none)
    (hgood : s.dev.imageTaken.loadBad s.dev.st.image = none) :
    Answers (.streamValidationComplete false) s (fun t => t.st.image = [] ∧ t.rd R.STS_BANK.ACT = s.dev.rd R.STS_BANK.ACT ∧
      t.rd R.STS_LOADSTAT.STATE = 3 ∧ t.rd R.STS_LOADSTAT.CODE = 0 ∧ t.rd R.STS_STBID.ID = (decodeStream s.dev.st.image).id % 2 ^ 32) := by
  obtain ⟨hregs, himage⟩ := Dev.validated_passed hload hslot hgood
  have hrd : ∀ f : Fld, (s.dev.validated false).rd f = (s.dev.imageTaken.standbyShown (decodeStream s.dev.st.image).id).rd f :=
    fun f => congrArg (Regs.get · f) hregs
  refine answers_of_onF1 (exec_streamValidationComplete s false) hon ⟨himage, ?_⟩
  simp only [hrd]
  exact ⟨Dev.standbyShown_bank .., Dev.standbyShown_state .., Dev.standbyShown_code .., Dev.standbyShown_id ..⟩

theorem answers_streamValidationComplete_refused {c : Nat × Nat} (hload : s.dev.loadState = 2)
    (hbad : s.dev.imageTaken.loadBad s.dev.st.image = some c) :
    Answers (.streamValidationComplete false) s (fun t => t.st.image = [] ∧ t.rd R.STS_BANK.ACT = s.dev.rd R.STS_BANK.ACT ∧
      t.rd R.STS_LOADSTAT.STATE = 4 ∧ t.rd R.STS_LOADSTAT.CODE = c.1 % 2 ^ R.STS_LOADSTAT.CODE.width) := by
  refine answers_of_onF1 (exec_streamValidationComplete s false) hon ?_
  rw [Dev.validated_refused hload hbad, Dev.loadRefuse_st]
  exact ⟨rfl, Dev.loadRefuse_regsBut _ _ _ R.STS_BANK.ACT (by decide), Dev.loadRefuse_state .., Dev.loadRefuse_code ..⟩

end

/-- Settles O17: each clause is the answer of one command, and a validation without damage is refused or passes as the checks of
the image say. -/
theorem imageTransfersAreTakenAndChecked : Obligations.ImageTransfersAreTakenAndChecked := by
  intro s hon
  refine ⟨fun _ _ => answers_imgCtrlBegin hon, fun _ _ _ _ => answers_imgData hon, fun _ _ _ => answers_imgCtrlEnd_refused hon,
    fun _ _ hx hxfer hslot hgap henc => answers_imgCtrlEnd_stream hon hx hxfer hslot hgap henc rfl, fun _ _ => answers_imgCtrlAbort hon,
    answers_streamValidationComplete_damaged hon, fun hload hslot => ?_⟩
  change Answers _ s (fun t => t.st.image = [] ∧ t.rd R.STS_BANK.ACT = s.dev.rd R.STS_BANK.ACT ∧ match s.dev.imageTaken.loadBad s.dev.st.image with
    | none => _
    | some c => _)
  cases hcheck : s.dev.imageTaken.loadBad s.dev.st.image with
  | none => exact answers_streamValidationComplete_passed hon hload hslot hcheck
  | some c => exact answers_streamValidationComplete_refused hon hload hcheck

end Sys2Proof.Machine
end

section
/-! One step of the block (log entry 1, R95, R96): the command at the front of the queue, or one idle cycle. -/

namespace Sys2Proof.Machine

theorem step_cons (c : Instr) (s : State) : step { s with pending := c :: s.pending } = exec c s := rfl

theorem step_nil {s : State} (h : s.pending = []) : step s = .next { s with dev := s.dev.idle } := by
  unfold step
  rw [h]

/-- Settles O56: the front command runs on the queue's rest, and the idle cycle reaches no part but the time counters. -/
theorem stepRunsTheFrontOrIdles : Obligations.StepRunsTheFrontOrIdles :=
  ⟨step_cons, fun s h => ⟨_, step_nil h, h, s.dev.idle_reach.onlyIn, rfl, rfl, rfl, rfl⟩⟩

end Sys2Proof.Machine
end

section
/-! The grid of the control tick (R97, R112): where the next S lies, and what the tick that begins there notes. -/

namespace Sys2Proof.Machine

/-- A number rounded up to a multiple of `t` is at least that number. -/
theorem le_roundUp {t : Nat} (m : Nat) (ht : 0 < t) : m ≤ (m + t - 1) / t * t := by
  have hmod := Nat.mod_lt (m + t - 1) ht
  have hdiv := Nat.div_add_mod' (m + t - 1) t
  omega

/-- The instant from which the next S is sought: not before the present, a tick after the last S, and the bounds given. -/
def Dev.nextSFrom (d : Dev) (q : Nat) : Nat :=
  max (max d.tm.q (d.pwm.lastS + d.act.timing.tick)) (max q d.act.timing.phase)

section
variable {d : Dev} (htick : 0 < d.act.timing.tick) (q : Nat)
include htick

theorem Dev.nextS_eq : d.nextS q =
    (d.nextSFrom q - d.act.timing.phase + d.act.timing.tick - 1) / d.act.timing.tick * d.act.timing.tick + d.act.timing.phase := by
  unfold Dev.nextS Dev.nextSFrom
  rw [Nat.max_eq_right htick]

theorem Dev.nextS_on_grid : (d.nextS q - d.act.timing.phase) % d.act.timing.tick = 0 := by
  rw [Dev.nextS_eq htick, Nat.add_sub_cancel, Nat.mul_mod_left]

theorem Dev.nextSFrom_le_nextS : d.nextSFrom q ≤ d.nextS q := by
  have hup := le_roundUp (d.nextSFrom q - d.act.timing.phase) htick
  rw [Dev.nextS_eq htick]
  omega

theorem Dev.nextS_bounds : d.act.timing.phase ≤ d.nextS q ∧ d.tm.q ≤ d.nextS q ∧ q ≤ d.nextS q ∧
    d.pwm.lastS + d.act.timing.tick ≤ d.nextS q := by
  have hfrom := Dev.nextSFrom_le_nextS htick q
  unfold Dev.nextSFrom at hfrom
  omega

end

/-- The tick that begins at an instant not before the present begins at that instant. -/
theorem Dev.tickBegin_at {d : Dev} {q : Nat} (htick : 0 < d.act.timing.tick) (hq : d.tm.q ≤ q) :
    (d.tickBegin q).pwm.lastS = q ∧ (d.tickBegin q).tm.q = q ∧
    (d.tickBegin q).ce.k = (q - d.act.timing.phase) / d.act.timing.tick ∧ (d.tickBegin q).regs = d.regs := by
  have hmax : max d.tm.q q = q := Nat.max_eq_right hq
  refine ⟨hmax, hmax, ?_, rfl⟩
  change (max d.tm.q q - d.act.timing.phase) / max 1 d.act.timing.tick = _
  rw [hmax, Nat.max_eq_right htick]

/-- Settles O16: rounding up to the grid keeps every lower bound, and the tick begins exactly there. -/
theorem theTickBeginsAtItsGridPoint : Obligations.TheTickBeginsAtItsGridPoint := by
  intro d q htick
  obtain ⟨hphase, hnow, hleast, hlast⟩ := Dev.nextS_bounds htick q
  exact ⟨Dev.nextS_on_grid htick q, hphase, hnow, hleast, hlast, Dev.tickBegin_at htick hnow⟩

end Sys2Proof.Machine
end

section
/-! Further laws of register fields and frames: a change added to those of a list, and fields in two's complement (section 0.5). -/

namespace Sys2Proof.Machine

/-! ## One more change within the fields listed -/

section
variable {fs : List Fld} {d e : Dev}

theorem Dev.RegsBut.refl (fs : List Fld) (d : Dev) : d.RegsBut fs d := fun _ _ => rfl

theorem Dev.RegsBut.wr {f : Fld} {v : Nat} (h : d.RegsBut fs e) (hf : f ∈ fs) : d.RegsBut fs (e.wr f v) := fun g hg =>
  (Dev.rd_wr_ne e f g v (hg f hf)).trans (h g hg)

theorem Dev.RegsBut.wrAll {ws : List (Fld × Nat)} (h : d.RegsBut fs e) (hws : ∀ w ∈ ws, w.1 ∈ fs) : d.RegsBut fs (e.wrAll ws) := by
  induction ws generalizing e with
  | nil => exact h
  | cons w ws ih => exact ih (h.wr (hws w List.mem_cons_self)) (fun x hx => hws x (List.mem_cons_of_mem w hx))

theorem Dev.RegsBut.raise (h : d.RegsBut fs e) (n kind : Nat) (data : List Nat) : d.RegsBut fs (e.raise n kind data) :=
  h.of_regs (e.raise_regs n kind data)

end

/-! ## Two's complement -/

theorem unsigned_lt (x : Int) (n : Nat) : unsigned x n < 2 ^ n := by
  have hpos : (0 : Int) < 2 ^ n := by positivity
  have hlt := Int.emod_lt_of_pos x hpos
  have hnonneg := Int.emod_nonneg x hpos.ne'
  unfold unsigned
  zify
  rwa [Int.toNat_of_nonneg hnonneg]

theorem signed_unsigned (x : Int) (n : Nat) : signed (unsigned x n) n = wrap x n := by
  have hpos : (0 : Int) < 2 ^ n := by positivity
  have hcast : ((unsigned x n : Nat) : Int) = x % 2 ^ n := Int.toNat_of_nonneg (Int.emod_nonneg x hpos.ne')
  have hiff : unsigned x n < 2 ^ (n - 1) ↔ x % 2 ^ n < 2 ^ (n - 1) := by
    rw [← hcast]
    norm_cast
  simp only [signed, wrap, Nat.mod_eq_of_lt (unsigned_lt x n), hcast, hiff]

theorem wrap_wrap (x : Int) (n : Nat) : wrap (wrap x n) n = wrap x n := by
  have hmod : wrap x n % 2 ^ n = x % 2 ^ n := by
    unfold wrap
    dsimp only
    split
    · exact Int.emod_emod_of_dvd x (dvd_refl _)
    · rw [Int.sub_emod_right, Int.emod_emod_of_dvd x (dvd_refl _)]
  change (if wrap x n % 2 ^ n < 2 ^ (n - 1) then wrap x n % 2 ^ n else wrap x n % 2 ^ n - 2 ^ n) = wrap x n
  rw [hmod]
  rfl

/-- A signed field reads back what was written, cut to its width. -/
theorem Dev.rd_wrS (d : Dev) (f : Fld) (x : Int) : (d.wrS f x).rd f = unsigned x f.width :=
  (d.rd_wr f _).trans (Nat.mod_eq_of_lt (unsigned_lt x _))

theorem Dev.rdS_wrS (d : Dev) (f : Fld) (x : Int) : (d.wrS f x).rdS f = wrap x f.width := by
  rw [Dev.rdS, Dev.rd_wrS, signed_unsigned]

end Sys2Proof.Machine
end

section
/-! The time sources (R99 to R102): what a new selection and a sample of the selected source leave, and how edges, missing
seconds, samples and time-outs are counted. -/

namespace Sys2Proof.Machine

/-! ## A selection and a sample leave the judgement of the sources -/

/-- The fields that a new selection and a sample of the selected source write (R99, R102 to R106). -/
def sampleFlds : List Fld := [R.STC_STAT.STATE, R.STC_STAT.SOURCE, R.STC_STAT.STEPPEND, R.STC_CNT.SRCCHG, R.STC_RATE.RATE, R.STC_FREQ.F,
  R.STC_PHERR.E, R.STC_ESTERR.ERR]

/-- What R99 and R100 judge the sources by: the runs of edges, missing seconds and samples, and the last accepted edge. -/
def SiteTime.judged (x : SiteTime) : Nat × Nat × Option Nat × List Nat := (x.ppsRun, x.ppsMissRun, x.ppsLast, x.ptpRun)

/-- `e` comes from `d` by selections and samples: only their fields are written, and the judgement of the sources stays. -/
structure Dev.Sampled (d e : Dev) : Prop where
  regsBut : d.RegsBut sampleFlds e
  judged : e.tm.judged = d.tm.judged

section
variable {d e : Dev}

theorem Dev.Sampled.refl (d : Dev) : d.Sampled d := ⟨.refl _ _, rfl⟩

theorem Dev.Sampled.wr {f : Fld} {v : Nat} (h : d.Sampled e) (hf : f ∈ sampleFlds) : d.Sampled (e.wr f v) := ⟨h.regsBut.wr hf, h.judged⟩

theorem Dev.Sampled.of_eqs {e' : Dev} (h : d.Sampled e) (hregs : e'.regs = e.regs) (htm : e'.tm.judged = e.tm.judged) : d.Sampled e' :=
  ⟨h.regsBut.of_regs hregs, htm.trans h.judged⟩

theorem Dev.Sampled.raise (h : d.Sampled e) (n kind : Nat) (data : List Nat) : d.Sampled (e.raise n kind data) :=
  ⟨h.regsBut.raise n kind data, (congrArg SiteTime.judged (e.raise_tm n kind data)).trans h.judged⟩

theorem Dev.Sampled.ppsRun (h : d.Sampled e) : e.tm.ppsRun = d.tm.ppsRun := congrArg (·.1) h.judged

theorem Dev.Sampled.ppsMissRun (h : d.Sampled e) : e.tm.ppsMissRun = d.tm.ppsMissRun := congrArg (·.2.1) h.judged

theorem Dev.Sampled.ppsLast (h : d.Sampled e) : e.tm.ppsLast = d.tm.ppsLast := congrArg (·.2.2.1) h.judged

theorem Dev.Sampled.ptpRun (h : d.Sampled e) : e.tm.ptpRun = d.tm.ptpRun := congrArg (·.2.2.2) h.judged

theorem Dev.Sampled.stcSet (h : d.Sampled e) (state source : Nat) : d.Sampled (e.stcSet state source) := by
  have hset : d.Sampled ((e.wr R.STC_STAT.STATE state).wr R.STC_STAT.SOURCE source) := (h.wr (by decide)).wr (by decide)
  unfold Dev.stcSet
  dsimp only
  split
  · exact h
  · split
    · exact hset.raise _ _ _
    · exact .raise (hset.wr (by decide)) _ _ _

theorem Dev.Sampled.rateShow (h : d.Sampled e) : d.Sampled e.rateShow := .wr (f := R.STC_FREQ.F) (.wr (f := R.STC_RATE.RATE) h (by decide)) (by decide)

theorem Dev.Sampled.reselect (h : d.Sampled e) : d.Sampled e.reselect := by
  unfold Dev.reselect
  dsimp only
  split
  · exact h
  · split
    · refine .stcSet (.rateShow ?_) 3 0
      exact h.of_eqs rfl rfl
    · refine .stcSet ?_ 1 _
      exact h.of_eqs rfl rfl

theorem Dev.Sampled.servo (h : d.Sampled e) (x : Int) : d.Sampled (e.servo x) := by
  refine .rateShow ?_
  exact h.of_eqs rfl rfl

theorem Dev.Sampled.lockStep (h : d.Sampled e) (x : Int) : d.Sampled (e.lockStep x) := by
  unfold Dev.lockStep
  extract_lets +onlyGivenNames small n tm e' source
  have hrun : d.Sampled e' := h.of_eqs rfl rfl
  clear_value e'
  split
  · split
    · exact hrun.stcSet _ _
    · exact hrun
  · split
    · refine .stcSet ?_ _ _
      exact hrun.of_eqs rfl rfl
    · exact hrun
  · exact hrun

theorem Dev.Sampled.stcSample (h : d.Sampled e) (e16 : Int) (sec : Bool) : d.Sampled (e.stcSample e16 sec) := by
  unfold Dev.stcSample
  extract_lets +onlyGivenNames x shown measured tm judged locked
  have hmeasured : d.Sampled measured := .wr (f := R.STC_ESTERR.ERR) (.wr (f := R.STC_PHERR.E) h (by decide)) (by decide)
  have hjudged : d.Sampled judged := by
    unfold judged
    split
    · exact hmeasured.of_eqs rfl rfl
    · exact hmeasured
  have hlocked : d.Sampled locked := hjudged.lockStep x
  clear_value locked
  split
  · refine .wr ?_ (by decide)
    exact (hlocked.servo x).of_eqs rfl rfl
  · split
    · dsimp only
      split
      · refine .servo (.wr ?_ (by decide)) _
        exact hlocked.of_eqs rfl rfl
      · exact hlocked.of_eqs rfl rfl
    · refine .servo ?_ _
      exact hlocked.of_eqs rfl rfl

theorem Dev.Sampled.ppsSample (h : d.Sampled e) (cap : Nat) (e16 : Int) : d.Sampled (e.ppsSample cap e16) := by
  unfold Dev.ppsSample
  split
  · split
    · exact h.stcSample _ _
    · exact h.stcSample _ _
  · exact h.stcSample _ _

end

/-! ## PPS_IN (R100) -/

/-- The block with an accepted edge noted and validity judged, before the source is selected anew. -/
def Dev.ppsNoted (d : Dev) (cap : Nat) : Dev :=
  let run := if d.ppsNear cap then d.tm.ppsRun + 1 else 1
  let e := { d with tm := { d.tm with ppsRun := run, ppsLast := some cap, ppsMissRun := 0 } }
  if 3 ≤ run then e.wr R.STC_STAT.PPSOK 1 else e

section
variable (d : Dev) (cap : Nat)

theorem Dev.ppsNoted_judged : (d.ppsNoted cap).tm.ppsLast = some cap ∧ (d.ppsNoted cap).tm.ppsMissRun = 0 := by
  unfold Dev.ppsNoted
  extract_lets run e
  split <;> exact ⟨rfl, rfl⟩

theorem Dev.ppsNoted_regsBut : d.RegsBut [R.STC_STAT.PPSOK] (d.ppsNoted cap) := by
  unfold Dev.ppsNoted
  extract_lets run e
  split
  · exact Dev.regsBut_wr rfl
  · exact .of_eq _ rfl

theorem Dev.ppsNoted_sampled (e16 : Int) : (d.ppsNoted cap).Sampled (d.ppsAccept cap e16) := by
  have hselect : (d.ppsNoted cap).Sampled (d.ppsNoted cap).reselect := (Dev.Sampled.refl _).reselect
  change (d.ppsNoted cap).Sampled (if (d.ppsNoted cap).reselect.rd R.STC_STAT.SOURCE = 1 then (d.ppsNoted cap).reselect.ppsSample cap e16
    else (d.ppsNoted cap).reselect)
  split
  · exact hselect.ppsSample cap e16
  · exact hselect

end

/-- The block with a missing second counted, before validity is judged. -/
def Dev.secondMissed (d : Dev) : Dev :=
  { d.bump R.STC_CNT.PPSMISS with tm := { d.tm with ppsMissRun := d.tm.ppsMissRun + 1, ppsRun := 0 } }

section
variable {d : Dev}

theorem Dev.ppsMissing_third (h : 2 ≤ d.tm.ppsMissRun) : d.ppsMissing = (d.secondMissed.wr R.STC_STAT.PPSOK 0).reselect :=
  if_pos (Nat.succ_le_succ h)

theorem Dev.ppsMissing_earlier (h : d.tm.ppsMissRun < 2) : d.ppsMissing = d.secondMissed :=
  if_neg (by omega)

theorem Dev.secondMissed_ppsmiss (d : Dev) : d.secondMissed.rd R.STC_CNT.PPSMISS = min 255 (d.rd R.STC_CNT.PPSMISS + 1) :=
  d.rd_bump R.STC_CNT.PPSMISS

theorem Dev.secondMissed_ppsok (d : Dev) : d.secondMissed.rd R.STC_STAT.PPSOK = d.rd R.STC_STAT.PPSOK :=
  Dev.rd_wr_ne d R.STC_CNT.PPSMISS _ _ (by decide)

end

/-! ## An injection point that is inactive (R397) -/

theorem Dev.injUse_of_none {d : Dev} {point inst : Nat} (h : d.isInjected point inst = false) : d.injUse point inst = d := by
  have hnone : d.injected point inst = none := by simpa [Dev.isInjected] using h
  simp only [Dev.injUse, hnone]

theorem Dev.isInjected_of_inj {d e : Dev} (h : e.inj = d.inj) (point inst : Nat) : e.isInjected point inst = d.isInjected point inst := by
  simp only [Dev.isInjected, Dev.injected, h]

/-! ## PTP (R101) -/

/-- The block with a sample of a port counted and validity judged, before the source is selected anew. -/
def Dev.ptpCounted (d : Dev) (p : Nat) : Dev :=
  let n := numAt d.tm.ptpRun p + 1
  let e := { d with tm := { d.tm with ptpRun := setAt d.tm.ptpRun p n } }
  if 3 ≤ n then e.wr (ptpOk p) 1 else e

theorem ptpOk_width (p : Nat) : (ptpOk p).width = 1 := by
  unfold ptpOk
  split <;> rfl

theorem sampleFlds_key_ne_ptpOk (p : Nat) : ∀ f ∈ sampleFlds, f.key ≠ (ptpOk p).key := by
  unfold ptpOk
  split <;> decide

section
variable (d : Dev) (p : Nat)

theorem Dev.ptpCounted_ptpRun : (d.ptpCounted p).tm.ptpRun = setAt d.tm.ptpRun p (numAt d.tm.ptpRun p + 1) := by
  unfold Dev.ptpCounted
  dsimp only
  split <;> rfl

theorem Dev.ptpCounted_regsBut : d.RegsBut [ptpOk p] (d.ptpCounted p) := by
  unfold Dev.ptpCounted
  dsimp only
  split
  · exact Dev.regsBut_wr rfl
  · exact .of_eq _ rfl

theorem Dev.ptpCounted_ok_third (h : 2 ≤ numAt d.tm.ptpRun p) : (d.ptpCounted p).rd (ptpOk p) = 1 := by
  have hcounted : d.ptpCounted p = Dev.wr _ (ptpOk p) 1 := if_pos (Nat.succ_le_succ h)
  rw [hcounted]
  exact (Dev.rd_wr ..).trans (congrArg (fun w => 1 % 2 ^ w) (ptpOk_width p))

theorem Dev.ptpCounted_ok_earlier (h : numAt d.tm.ptpRun p < 2) : (d.ptpCounted p).rd (ptpOk p) = d.rd (ptpOk p) := by
  have hcounted : d.ptpCounted p = { d with tm := { d.tm with ptpRun := setAt d.tm.ptpRun p (numAt d.tm.ptpRun p + 1) } } := if_neg (by omega)
  rw [hcounted]
  rfl

theorem Dev.ptpCounted_sampled (ofs : Int) : (d.ptpCounted p).Sampled (d.ptpSample p ofs) := by
  have hselect : (d.ptpCounted p).Sampled (d.ptpCounted p).reselect := (Dev.Sampled.refl _).reselect
  change (d.ptpCounted p).Sampled (if (d.ptpCounted p).reselect.rd R.STC_STAT.SOURCE = 2 + p then
    (d.ptpCounted p).reselect.stcSample (16 * wrap ofs 32) false else (d.ptpCounted p).reselect)
  split
  · exact hselect.stcSample _ _
  · exact hselect

end

/-! ## The meaning of each command of this part -/

section
variable (s : State)

theorem exec_ppsInEdge (cap : Nat) : exec (.ppsInEdge cap) s = onF1 s (fun d => (d.ppsEdge cap (d.isInjected 8 0)).injUse 8 0) := rfl
theorem exec_ppsMissingSecond : exec .ppsMissingSecond s = done s Dev.ppsMissing := rfl
theorem exec_ptpOffsetSample (p : Fin 2) (ofs : Int) : exec (.ptpOffsetSample p ofs) s = done s (·.ptpSample p ofs) := rfl
theorem exec_ptpSampleTimeout (p : Fin 2) : exec (.ptpSampleTimeout p) s = done s (·.ptpTimeout p) := rfl
theorem exec_servoSampleTimeout : exec .servoSampleTimeout s = done s (fun d => ({ d with tm := { d.tm with p := 0 } }).rateShow) := rfl

end

/-! ## The answer of each command of this part -/

/-- While injection point 8 is inactive an edge is judged by PPSOK and its error, and no use of the injection is counted. -/
theorem Dev.ppsEdge_judged {d : Dev} {cap : Nat} (hinj : d.isInjected 8 0 = false) :
    (d.ppsEdge cap (d.isInjected 8 0)).injUse 8 0 =
      if d.on R.STC_STAT.PPSOK && decide (d.rd R.STC_PPSCFG.WIN * 16000 < (d.ppsError cap).natAbs) then
        (d.advanceTo (cap / 40)).bump R.STC_CNT.PPSREJ
      else (d.advanceTo (cap / 40)).ppsAccept cap (d.ppsError cap) := by
  have hkept : (d.ppsEdge cap false).isInjected 8 0 = false :=
    (Dev.isInjected_of_inj ((d.ppsEdge_reach cap false).onlyIn.inj rfl) 8 0).trans hinj
  rw [hinj, Dev.injUse_of_none hkept]
  rfl

section
variable {s : State}

theorem answers_ppsInEdge_rejected {cap : Nat} (hon : s.dev.domOn .f1 = true) (hinj : s.dev.isInjected 8 0 = false)
    (hok : s.dev.on R.STC_STAT.PPSOK = true) (herr : s.dev.rd R.STC_PPSCFG.WIN * 16000 < (s.dev.ppsError cap).natAbs) :
    Answers (.ppsInEdge cap) s (fun t => t.rd R.STC_CNT.PPSREJ = min 255 (s.dev.rd R.STC_CNT.PPSREJ + 1) ∧ t.tm.ppsLast = s.dev.tm.ppsLast ∧
      t.rd R.STC_STAT.STATE = s.dev.rd R.STC_STAT.STATE) := by
  refine answers_of_onF1 (exec_ppsInEdge s cap) hon ?_
  rw [Dev.ppsEdge_judged hinj, if_pos (by simp [hok, herr])]
  exact ⟨Dev.rd_bump _ R.STC_CNT.PPSREJ, rfl, Dev.rd_wr_ne (s.dev.advanceTo (cap / 40)) R.STC_CNT.PPSREJ _ _ (by decide)⟩

theorem answers_ppsInEdge_accepted {cap : Nat} (hon : s.dev.domOn .f1 = true) (hinj : s.dev.isInjected 8 0 = false)
    (hgood : s.dev.on R.STC_STAT.PPSOK = false ∨ (s.dev.ppsError cap).natAbs ≤ s.dev.rd R.STC_PPSCFG.WIN * 16000) :
    Answers (.ppsInEdge cap) s (fun t => t.tm.ppsLast = some cap ∧ t.tm.ppsMissRun = 0 ∧ t.rd R.STC_CNT.PPSREJ = s.dev.rd R.STC_CNT.PPSREJ) := by
  have hjudged : ¬(s.dev.on R.STC_STAT.PPSOK && decide (s.dev.rd R.STC_PPSCFG.WIN * 16000 < (s.dev.ppsError cap).natAbs)) = true := by
    rcases hgood with hok | herr
    · simp [hok]
    · simp [herr]
  have hsampled := (s.dev.advanceTo (cap / 40)).ppsNoted_sampled cap (s.dev.ppsError cap)
  obtain ⟨hlast, hmiss⟩ := (s.dev.advanceTo (cap / 40)).ppsNoted_judged cap
  refine answers_of_onF1 (exec_ppsInEdge s cap) hon ?_
  rw [Dev.ppsEdge_judged hinj, if_neg hjudged, hsampled.ppsLast, hsampled.ppsMissRun, hsampled.regsBut _ (by decide),
    Dev.ppsNoted_regsBut _ _ _ (by decide)]
  exact ⟨hlast, hmiss, rfl⟩

theorem answers_ppsMissingSecond : Answers .ppsMissingSecond s (fun t =>
    t.rd R.STC_CNT.PPSMISS = min 255 (s.dev.rd R.STC_CNT.PPSMISS + 1) ∧ t.tm.ppsRun = 0 ∧ (2 ≤ s.dev.tm.ppsMissRun → t.rd R.STC_STAT.PPSOK = 0) ∧
    (s.dev.tm.ppsMissRun < 2 → t.rd R.STC_STAT.PPSOK = s.dev.rd R.STC_STAT.PPSOK)) := by
  refine answers_of_done (exec_ppsMissingSecond s) ?_
  rcases Nat.lt_or_ge s.dev.tm.ppsMissRun 2 with hfew | hthird
  · rw [Dev.ppsMissing_earlier hfew]
    exact ⟨s.dev.secondMissed_ppsmiss, rfl, fun hthird => absurd hfew (Nat.not_lt.mpr hthird), fun _ => s.dev.secondMissed_ppsok⟩
  · have hsampled : Dev.Sampled _ (s.dev.secondMissed.wr R.STC_STAT.PPSOK 0).reselect := (Dev.Sampled.refl _).reselect
    rw [Dev.ppsMissing_third hthird, hsampled.regsBut _ (by decide), hsampled.regsBut _ (by decide), hsampled.ppsRun]
    refine ⟨?_, rfl, fun _ => Dev.rd_wr _ R.STC_STAT.PPSOK 0, fun hfew => absurd hfew (Nat.not_lt.mpr hthird)⟩
    rw [Dev.rd_wr_ne _ R.STC_STAT.PPSOK _ _ (by decide), Dev.secondMissed_ppsmiss]

theorem answers_ptpOffsetSample (p : Fin 2) (ofs : Int) : Answers (.ptpOffsetSample p ofs) s (fun t =>
    t.tm.ptpRun = setAt s.dev.tm.ptpRun p (numAt s.dev.tm.ptpRun p + 1) ∧ (2 ≤ numAt s.dev.tm.ptpRun p → t.rd (ptpOk p) = 1) ∧
    (numAt s.dev.tm.ptpRun p < 2 → t.rd (ptpOk p) = s.dev.rd (ptpOk p))) := by
  have hsampled := s.dev.ptpCounted_sampled p ofs
  refine answers_of_done (exec_ptpOffsetSample s p ofs) ?_
  rw [hsampled.ptpRun, hsampled.regsBut _ (sampleFlds_key_ne_ptpOk p)]
  exact ⟨s.dev.ptpCounted_ptpRun p, s.dev.ptpCounted_ok_third p, s.dev.ptpCounted_ok_earlier p⟩

theorem answers_ptpSampleTimeout (p : Fin 2) :
    Answers (.ptpSampleTimeout p) s (fun t => t.rd (ptpOk p) = 0 ∧ t.tm.ptpRun = setAt s.dev.tm.ptpRun p 0) := by
  have hsampled : Dev.Sampled _ (s.dev.ptpTimeout p) := (Dev.Sampled.refl _).reselect
  refine answers_of_done (exec_ptpSampleTimeout s p) ?_
  rw [hsampled.ptpRun, hsampled.regsBut _ (sampleFlds_key_ne_ptpOk p), Dev.rd_wr]
  exact ⟨Nat.zero_mod _, rfl⟩

theorem answers_servoSampleTimeout : Answers .servoSampleTimeout s (fun t => t.tm.p = 0 ∧ t.tm.f = s.dev.tm.f ∧
    t.rd R.STC_RATE.RATE = unsigned s.dev.tm.f 32 ∧ s.dev.RegsBut [R.STC_RATE.RATE, R.STC_FREQ.F] t ∧ s.dev.OnlyIn (Part.regs ||| Part.tm) t) := by
  obtain ⟨e, he, hreach⟩ := execServoSampleTimeout_reach s
  refine answers_of_done (exec_servoSampleTimeout s) ⟨rfl, rfl, ?_, ?_, ?_⟩
  · refine (Dev.rd_wr_ne _ R.STC_FREQ.F _ _ (by decide)).trans ((Dev.rd_wrS _ R.STC_RATE.RATE _).trans ?_)
    exact congrArg (unsigned · 32) (add_zero s.dev.tm.f)
  · exact .wr (f := R.STC_FREQ.F) (.wr (f := R.STC_RATE.RATE) (.of_eq _ rfl) (by decide)) (by decide)
  · cases he
    exact hreach.onlyIn

end

/-- Settles O13: an edge is judged before it is noted, and what follows the judgement of a source leaves that judgement. -/
theorem timeSourcesAreJudged : Obligations.TimeSourcesAreJudged := fun _ =>
  ⟨fun _ => answers_ppsInEdge_rejected, fun _ => answers_ppsInEdge_accepted, answers_ppsMissingSecond, answers_ptpOffsetSample,
    answers_ptpSampleTimeout, answers_servoSampleTimeout⟩

end Sys2Proof.Machine
end

section
/-! The site time counter (R95 to R111): whole seconds and milliseconds, steps, reads, the seconds setting, PPS_OUT and the limit of
the estimated error. -/

namespace Sys2Proof.Machine

/-! ## Whole milliseconds (R98, R104) -/

/-- What a whole millisecond begins leaves the time alone. -/
theorem Dev.stcMs_tm {d : Dev} (hon : d.domOn .f1 = true) :
    d.stcMs.tm = { (d.advanceTo (400000 * max (d.tm.lastMs + 1) ((d.tm.q + 399999) / 400000))).tm with
      lastMs := max (d.tm.lastMs + 1) ((d.tm.q + 399999) / 400000) } := by
  have hends : ∀ e : Dev, e.timeSyncSend.ashSent.tm = e.tm := fun e =>
    (e.timeSyncSend.ashSent_reach.onlyIn.tm rfl).trans (e.timeSyncSend_reach.onlyIn.tm rfl)
  have hkeys : ∀ e : Dev, e.keysGovern.tm = e.tm := fun e => e.keysGovern_reach.onlyIn.tm rfl
  have hframe : ∀ (e : Dev) (c : Bool) (ms : Nat), (e.when c (fun e => (e.shrFrame ms).gclMs)).tm = e.tm := by
    intro e c ms
    cases c
    · rfl
    · exact ((e.shrFrame ms).gclMs_reach.onlyIn.tm rfl).trans ((e.shrFrame_reach ms).onlyIn.tm rfl)
  unfold Dev.stcMs
  rw [if_pos hon]
  dsimp only
  rw [hends, hframe, hkeys]

/-! ## A step of the STC (R103, R104) -/

/-- The fields that the legal log writes when an entry arises (R286, R295). -/
def legalLogFlds : List Fld := [R.BIL_STORE.RECS, R.BIL_STORE.LOGS, R.BIL_RECNEXT.NUM, R.BIL_LOGNEXT.NUM, R.BIL_COMMIT.STATE, R.BIL_LOGLOST.COUNT]

section
variable {d e : Dev}

theorem Dev.storeShow_regsBut (h : d.RegsBut legalLogFlds e) : d.RegsBut legalLogFlds e.storeShow :=
  h.wrAll (by simp [legalLogFlds])

theorem Dev.commitReq_regsBut (h : d.RegsBut legalLogFlds e) : d.RegsBut legalLogFlds e.commitReq := by
  unfold Dev.commitReq
  split
  · exact h
  · split
    · refine .wr ?_ (by decide)
      exact h.of_regs rfl
    · exact h.wr (by decide)

theorem Dev.logPut_regsBut (h : d.RegsBut legalLogFlds e) (kind flags : Nat) (data : List Byte) :
    d.RegsBut legalLogFlds (e.logPut kind flags data) := by
  have hput : ∀ (b : Bil) (n : Nat), d.RegsBut legalLogFlds ((({ e with bil := b } : Dev).liveRefresh.storeShow.recordReady 0 1 n).commitReq) := by
    intro b n
    refine Dev.commitReq_regsBut (.of_regs (Dev.storeShow_regsBut (h.of_regs ?_)) rfl)
    exact (Dev.liveRefresh_reach _).onlyIn.regs rfl
  unfold Dev.logPut
  dsimp only
  split
  · exact (hput _ _).raise _ _ _
  · split
    · exact (hput _ _).raise _ _ _
    · exact hput _ _

theorem Dev.logAdd_regsBut (h : d.RegsBut legalLogFlds e) (kind flags : Nat) (data : List Byte) :
    d.RegsBut legalLogFlds (e.logAdd kind flags data) := by
  unfold Dev.logAdd
  extract_lets +onlyGivenNames room lose n bil begun
  have hbegun : d.RegsBut legalLogFlds begun := by
    unfold begun
    split
    · refine Dev.logPut_regsBut ?_ _ _ _
      exact h.of_regs rfl
    · exact h
  clear_value begun
  split
  · exact Dev.logPut_regsBut hbegun _ _ _
  · refine .wr (f := R.BIL_LOGLOST.COUNT) ?_ (by decide)
    exact hbegun.of_regs rfl

theorem Dev.sessStepped_regsBut (d : Dev) (step : Int) : d.RegsBut legalLogFlds (d.sessStepped step) := by
  unfold Dev.sessStepped
  split
  · refine Dev.logAdd_regsBut ?_ _ _ _
    exact .of_eq _ rfl
  · exact .refl _ _

end

/-- The fields that a step writes before it is counted. -/
def stepFlds : List Fld := [R.STC_RATE.RATE, R.STC_FREQ.F, R.STC_ESTERR.ERR, R.STC_STAT.STEPPEND, R.STC_STAT.SECPEND]

/-- The block with a step made, before it is counted and reported. -/
def Dev.stepMade (d : Dev) (e16 : Int) (sec : Bool) : Dev :=
  let n := roundAway e16 40
  let rest := divz (e16 - 40 * n) 16
  let d := { d with tm := { d.tm with q := ((d.tm.q : Int) - n).toNat, ePrev := rest, p := 0, step := none, lastSec := none,
                                       setSec := if sec then none else d.tm.setSec } }
  let d := d.rateShow.wr R.STC_ESTERR.ERR rest.natAbs
  let d := if rest.natAbs < d.rd R.STC_HOLDCFG.ERRLIM then { d with tm := { d.tm with errHigh := false } } else d
  let d := d.wr R.STC_STAT.STEPPEND 0
  if sec then d.wr R.STC_STAT.SECPEND 0 else d

section
variable (d : Dev) (e16 : Int) (sec : Bool)

theorem Dev.stcStepApply_eq : d.stcStepApply e16 sec = ((d.stepMade e16 sec).bump R.STC_CNT.STEPS).raise 33 0
    [unsigned (divz (5 * roundAway e16 40) 2) 64 % 2 ^ 32, unsigned (divz (5 * roundAway e16 40) 2) 64 / 2 ^ 32] := rfl

theorem Dev.stepMade_tm : (d.stepMade e16 sec).tm.q = ((d.tm.q : Int) - roundAway e16 40).toNat ∧ (d.stepMade e16 sec).tm.step = none := by
  unfold Dev.stepMade
  extract_lets +onlyGivenNames n rest tm moved shown tm' judged
  have hjudged : judged.tm.q = ((d.tm.q : Int) - roundAway e16 40).toNat ∧ judged.tm.step = none := by
    unfold judged
    split <;> exact ⟨rfl, rfl⟩
  cases sec <;> exact hjudged

theorem Dev.stepMade_regsBut : d.RegsBut stepFlds (d.stepMade e16 sec) := by
  unfold Dev.stepMade
  extract_lets +onlyGivenNames n rest tm moved shown tm' judged
  have hshown : d.RegsBut stepFlds shown :=
    .wr (f := R.STC_ESTERR.ERR) (.wr (f := R.STC_FREQ.F) (.wr (f := R.STC_RATE.RATE) (.of_eq _ rfl) (by decide)) (by decide)) (by decide)
  have hjudged : d.RegsBut stepFlds judged := by
    unfold judged
    split
    · exact hshown.of_regs rfl
    · exact hshown
  cases sec
  · exact hjudged.wr (by decide)
  · exact .wr (hjudged.wr (f := R.STC_STAT.STEPPEND) (by decide)) (by decide)

theorem Dev.stepMade_steppend : (d.stepMade e16 sec).rd R.STC_STAT.STEPPEND = 0 := by
  unfold Dev.stepMade
  extract_lets +onlyGivenNames n rest tm moved shown tm' judged
  cases sec
  · exact Dev.rd_wr _ R.STC_STAT.STEPPEND 0
  · exact (Dev.rd_wr_ne _ R.STC_STAT.SECPEND _ _ (by decide)).trans (Dev.rd_wr _ R.STC_STAT.STEPPEND 0)

/-- What a step of `n` does to what runs beside the STC: intervals and grids move with it, and sessions note it. -/
def Dev.stepFollowed (d : Dev) (n : Int) : Dev := (d.intervalsShift n).gridsRealign.sessStepped (divz (5 * n) 2)

theorem Dev.stepFollowed_regsBut (n : Int) : d.RegsBut legalLogFlds (d.stepFollowed n) := by
  have hmoved : (d.intervalsShift n).gridsRealign.regs = d.regs :=
    ((Dev.gridsRealign_reach _).onlyIn.regs rfl).trans ((d.intervalsShift_reach n).onlyIn.regs rfl)
  exact (Dev.RegsBut.of_eq _ hmoved).trans (Dev.sessStepped_regsBut _ _)

theorem Dev.stepFollowed_tm (n : Int) : (d.stepFollowed n).tm = (d.intervalsShift n).tm :=
  ((Dev.sessStepped_reach _ _).onlyIn.tm rfl).trans ((Dev.gridsRealign_reach _).onlyIn.tm rfl)

/-- The block at the end of a step, but for the milliseconds that the step jumps over. -/
def Dev.stepSettled (d : Dev) (e16 : Int) (sec : Bool) : Dev :=
  (d.stcStepApply e16 sec).stepFollowed (((d.stcStepApply e16 sec).tm.q : Int) - d.tm.q)

theorem Dev.stepNow_eq : d.stepNow e16 sec = { d.stepSettled e16 sec with
    tm := { (d.stepSettled e16 sec).tm with lastMs := max (d.stepSettled e16 sec).tm.lastMs ((d.stepSettled e16 sec).tm.q / 400000) }
    ce := { (d.stepSettled e16 sec).ce with gateNext := max (d.stepSettled e16 sec).ce.gateNext ((d.stepSettled e16 sec).tm.q / 400000 + 1) } } := by
  unfold Dev.stepNow Dev.stepSettled Dev.stepFollowed
  rfl

theorem Dev.stepSettled_regsBut : (d.stcStepApply e16 sec).RegsBut legalLogFlds (d.stepSettled e16 sec) := Dev.stepFollowed_regsBut _ _

theorem Dev.stepNow_tm : (d.stepNow e16 sec).tm.q = ((d.tm.q : Int) - roundAway e16 40).toNat ∧ (d.stepNow e16 sec).tm.step = none := by
  have hmade : (d.stcStepApply e16 sec).tm = (d.stepMade e16 sec).tm := by rw [Dev.stcStepApply_eq, Dev.raise_tm]; rfl
  rw [Dev.stepNow_eq]
  dsimp only
  rw [Dev.stepSettled, Dev.stepFollowed_tm, ← (d.stepMade_tm e16 sec).1, ← (d.stepMade_tm e16 sec).2, ← hmade]
  exact ⟨rfl, rfl⟩

theorem Dev.stepNow_regsBut : (d.stcStepApply e16 sec).RegsBut legalLogFlds (d.stepNow e16 sec) := by
  have hsettled := d.stepSettled_regsBut e16 sec
  rw [Dev.stepNow_eq]
  generalize d.stepSettled e16 sec = e at hsettled ⊢
  exact hsettled.of_regs rfl

theorem Dev.stepNow_shown : (d.stepNow e16 sec).rd R.STC_STAT.STEPPEND = 0 ∧
    (d.stepNow e16 sec).rd R.STC_CNT.STEPS = min 255 (d.rd R.STC_CNT.STEPS + 1) := by
  have hkept := d.stepNow_regsBut e16 sec
  have happly : ∀ f : Fld, (d.stcStepApply e16 sec).rd f = ((d.stepMade e16 sec).bump R.STC_CNT.STEPS).rd f := fun f => by
    rw [Dev.stcStepApply_eq, Dev.raise_rd]
  rw [hkept _ (by decide), hkept _ (by decide), happly, happly]
  constructor
  · exact (Dev.rd_wr_ne _ R.STC_CNT.STEPS _ _ (by decide)).trans (d.stepMade_steppend e16 sec)
  · rw [Dev.rd_bump, d.stepMade_regsBut e16 sec _ (by decide)]
    rfl

end

/-- A step that waits is made at the next cycle while no stream is active. -/
theorem Dev.sampleStep_idle {d : Dev} {e16 : Int} {sec : Bool} (hon : d.domOn .f1 = true) (hstream : d.streamActive = false)
    (hmode : d.stepModeOk = true) (hlegs : d.legsSwitch = false) (hstep : d.tm.step = some (e16, sec)) : d.sampleStep = d.stepNow e16 sec := by
  simp [Dev.sampleStep, Dev.stepDue, Dev.stepTake, hon, hstream, hmode, hlegs, hstep]

/-! ## Reads and the seconds setting (R109, R111) -/

section
variable (d : Dev)

theorem Dev.stcNs_lt : d.stcNs < 2 ^ 64 := Nat.mod_lt _ (by decide)

theorem Dev.stcFr_lt : d.stcFr < 2 ^ 32 := by
  unfold Dev.stcFr
  split <;> decide

theorem Dev.readNowLo_hi : d.readNowLo.rd R.STC_NOW_HI.NS = d.stcNs / 2 ^ 32 := by
  have hlt : d.stcNs / 2 ^ 32 < 2 ^ 32 := Nat.div_lt_of_lt_mul d.stcNs_lt
  exact (Dev.rd_wr_ne _ R.STC_NOW_FR.FR _ _ (by decide)).trans ((Dev.rd_wr d R.STC_NOW_HI.NS _).trans (Nat.mod_eq_of_lt hlt))

theorem Dev.readNowLo_fr : d.readNowLo.rd R.STC_NOW_FR.FR = d.stcFr := (Dev.rd_wr _ R.STC_NOW_FR.FR _).trans (Nat.mod_eq_of_lt d.stcFr_lt)

theorem Dev.readNowLo_regsBut : d.RegsBut [R.STC_NOW_HI.NS, R.STC_NOW_FR.FR] d.readNowLo :=
  .of_regs (.wr (f := R.STC_NOW_FR.FR) (.wr (f := R.STC_NOW_HI.NS) (.refl _ d) (by decide)) (by decide)) rfl

theorem Dev.rd_wr_setsecHi (v : Nat) : (d.wr R.STC_SETSEC_HI.SEC (bits v 15 0)).rd R.STC_SETSEC_HI.SEC = bits v 15 0 :=
  (Dev.rd_wr ..).trans (Nat.mod_mod ..)

theorem Dev.setSecHi_armed {v : Nat} (h : testBit v 31 = true) :
    d.setSecHi v = { (d.wr R.STC_SETSEC_HI.SEC (bits v 15 0)).wr R.STC_STAT.SECPEND 1 with
      tm := { d.tm with setSec := some (bits v 15 0 * 2 ^ 32 + d.rd R.STC_SETSEC_LO.SEC) } } := by
  have hlow : (d.wr R.STC_SETSEC_HI.SEC (bits v 15 0)).rd R.STC_SETSEC_LO.SEC = d.rd R.STC_SETSEC_LO.SEC := Dev.rd_wr_ne _ _ _ _ (by decide)
  unfold Dev.setSecHi
  dsimp only
  rw [if_pos h, Dev.rd_wr_setsecHi, hlow]
  rfl

theorem Dev.setSecHi_unarmed {v : Nat} (h : testBit v 31 = false) : d.setSecHi v = d.wr R.STC_SETSEC_HI.SEC (bits v 15 0) :=
  if_neg (by simp [h])

end

/-! ## The meaning of each command of this part -/

section
variable (s : State)

theorem exec_stcSecond : exec .stcSecond s = done s Dev.stcSecond := rfl
theorem exec_stcMillisecond : exec .stcMillisecond s = done s Dev.stcMs := rfl
theorem exec_stcStep : exec .stcStep s = done s Dev.sampleStep := rfl
theorem exec_stcNowLoRead : exec .stcNowLoRead s = done s Dev.readNowLo := rfl
theorem exec_stcSetsecHiArm (v : Nat) : exec (.stcSetsecHiArm v) s = done s (·.setSecHi v) := rfl
theorem exec_ppsOutFall : exec .ppsOutFall s = done s (fun d => { d with tm := { d.tm with ppsOut := false } }) := rfl
theorem exec_esterrLimit : exec .esterrLimit s = done s Dev.estErrCheck := rfl

end

/-! ## The answer of each command of this part -/

section
variable {s : State}

theorem answers_stcMillisecond (hon : s.dev.domOn .f1 = true) : Answers .stcMillisecond s (fun t =>
    let ms := max (s.dev.tm.lastMs + 1) ((s.dev.tm.q + 399999) / 400000)
    t.tm.lastMs = ms ∧ t.tm.q = max s.dev.tm.q (400000 * ms)) := by
  refine answers_of_done (exec_stcMillisecond s) ?_
  rw [Dev.stcMs_tm hon]
  exact ⟨rfl, rfl⟩

theorem answers_stcStep {e16 : Int} {sec : Bool} (hon : s.dev.domOn .f1 = true) (hstream : s.dev.streamActive = false)
    (hmode : s.dev.stepModeOk = true) (hlegs : s.dev.legsSwitch = false) (hstep : s.dev.tm.step = some (e16, sec)) :
    Answers .stcStep s (fun t => t.tm.q = ((s.dev.tm.q : Int) - roundAway e16 40).toNat ∧ t.tm.step = none ∧
      t.rd R.STC_STAT.STEPPEND = 0 ∧ t.rd R.STC_CNT.STEPS = min 255 (s.dev.rd R.STC_CNT.STEPS + 1)) := by
  obtain ⟨hq, hnone⟩ := s.dev.stepNow_tm e16 sec
  refine answers_of_done (exec_stcStep s) ?_
  rw [Dev.sampleStep_idle hon hstream hmode hlegs hstep]
  exact ⟨hq, hnone, s.dev.stepNow_shown e16 sec⟩

theorem answers_stcNowLoRead : Answers .stcNowLoRead s (fun t => t.lastRead = s.dev.stcNs % 2 ^ 32 ∧
    t.rd R.STC_NOW_HI.NS = s.dev.stcNs / 2 ^ 32 ∧ t.rd R.STC_NOW_FR.FR = s.dev.stcFr ∧
    s.dev.RegsBut [R.STC_NOW_HI.NS, R.STC_NOW_FR.FR] t ∧ s.dev.OnlyIn (Part.regs ||| Part.lastRead) t) :=
  answers_of_done (exec_stcNowLoRead s)
    ⟨rfl, s.dev.readNowLo_hi, s.dev.readNowLo_fr, s.dev.readNowLo_regsBut, s.dev.readNowLo_reach.onlyIn⟩

theorem answers_stcSetsecHiArm_armed {v : Nat} (h : testBit v 31 = true) : Answers (.stcSetsecHiArm v) s (fun t =>
    t.rd R.STC_SETSEC_HI.SEC = bits v 15 0 ∧ t.rd R.STC_STAT.SECPEND = 1 ∧
    t.tm.setSec = some (bits v 15 0 * 2 ^ 32 + s.dev.rd R.STC_SETSEC_LO.SEC)) := by
  have hsec : ((s.dev.wr R.STC_SETSEC_HI.SEC (bits v 15 0)).wr R.STC_STAT.SECPEND 1).rd R.STC_SETSEC_HI.SEC = bits v 15 0 :=
    (Dev.rd_wr_ne _ R.STC_STAT.SECPEND _ _ (by decide)).trans (s.dev.rd_wr_setsecHi v)
  refine answers_of_done (exec_stcSetsecHiArm s v) ?_
  rw [Dev.setSecHi_armed _ h]
  exact ⟨hsec, Dev.rd_wr _ R.STC_STAT.SECPEND 1, rfl⟩

theorem answers_stcSetsecHiArm_unarmed {v : Nat} (h : testBit v 31 = false) : Answers (.stcSetsecHiArm v) s (fun t =>
    t.rd R.STC_SETSEC_HI.SEC = bits v 15 0 ∧ s.dev.RegsBut [R.STC_SETSEC_HI.SEC] t ∧ t.tm = s.dev.tm) := by
  refine answers_of_done (exec_stcSetsecHiArm s v) ?_
  rw [Dev.setSecHi_unarmed _ h]
  exact ⟨s.dev.rd_wr_setsecHi v, Dev.regsBut_wr rfl, rfl⟩

end

/-- Settles O14: each clause is the answer of one command, and a waiting step is the step made and what follows it. -/
theorem theStcMovesAsTheSpecSays : Obligations.TheStcMovesAsTheSpecSays := fun s =>
  ⟨answers_of_done (exec_stcSecond s) ⟨rfl, rfl, s.dev.stcSecond_reach.onlyIn⟩,
    answers_stcMillisecond,
    fun _ _ => answers_stcStep,
    answers_stcNowLoRead,
    fun _ => answers_stcSetsecHiArm_armed,
    fun _ => answers_stcSetsecHiArm_unarmed,
    answers_of_done (exec_ppsOutFall s) rfl,
    fun hlimit hlow => answers_of_done (exec_esterrLimit s) (if_pos ⟨hlimit, hlow⟩),
    fun hbelow => answers_of_done (exec_esterrLimit s) (if_neg (by rcases hbelow with h | h <;> simp [h]))⟩

end Sys2Proof.Machine
end

section
/-! The field Ethernet ports (R241 to R246): links, frames received and dropped, transmission and gate lists. -/

namespace Sys2Proof.Machine

/-! ## A port, a PTP port and a list of the receive buffer replaced -/

theorem getD_setAt_self {α : Type} {xs : List α} {i : Nat} (v x : α) (h : i < xs.length) : (setAt xs i v).getD i x = v := by
  simp [setAt, h]

/-- A list that yields something other than its default at a place is long enough for it. -/
theorem lt_length_of_getD_ne {α : Type} {xs : List α} {i : Nat} {x : α} (h : xs.getD i x ≠ x) : i < xs.length := by
  by_contra hlen
  exact h (List.getD_eq_default _ _ (Nat.not_lt.mp hlen))

section
variable {d : Dev} {p : Nat}

theorem Dev.port_setPort_self (x : PortRt) (h : p < d.net.ports.length) : (d.setPort p x).port p = x := getD_setAt_self x {} h

theorem Dev.ptp_setPtp_self (x : PtpRt) (h : p < d.net.ptp.length) : (d.setPtp p x).ptp p = x := getD_setAt_self x {} h

end

/-! ## Links (R241) -/

section
variable (d : Dev) (p : Nat)

theorem Dev.fieldLink_unsupported : d.fieldLink p true false = ((d.wr (R.FNET_PORT.LINK p) 0).wr (R.FNET_PORT.SPEEDERR p) 1).raise 38 2 [p] := rfl

/-- The event of a changed link touches no register, so each reads as the two field writes leave it. -/
theorem Dev.fieldLink_regs (up : Bool) :
    (d.fieldLink p up true).regs = ((d.wrB (R.FNET_PORT.LINK p) up).wr (R.FNET_PORT.SPEEDERR p) 0).regs := by
  unfold Dev.fieldLink
  dsimp only
  rw [if_neg (by simp)]
  split
  · rfl
  · exact Dev.raise_regs ..

theorem link_key_ne_speederr : (R.FNET_PORT.LINK p).key ≠ (R.FNET_PORT.SPEEDERR p).key := by
  simp [Fld.key, R.FNET_PORT.LINK, R.FNET_PORT.SPEEDERR]

/-- Both fields of a link report, whatever else the block does beside its registers. -/
theorem Dev.linkShown_of_regs {e : Dev} {link err : Nat} (h : e.regs = ((d.wr (R.FNET_PORT.LINK p) link).wr (R.FNET_PORT.SPEEDERR p) err).regs) :
    e.rd (R.FNET_PORT.LINK p) = link % 2 ∧ e.rd (R.FNET_PORT.SPEEDERR p) = err % 2 ∧
    d.RegsBut [R.FNET_PORT.LINK p, R.FNET_PORT.SPEEDERR p] e := by
  have hrd : ∀ f : Fld, e.rd f = ((d.wr (R.FNET_PORT.LINK p) link).wr (R.FNET_PORT.SPEEDERR p) err).rd f := fun f => congrArg (Regs.get · f) h
  refine ⟨?_, ?_, ?_⟩
  · rw [hrd, Dev.rd_wr_ne _ _ _ _ (link_key_ne_speederr p).symm, Dev.rd_wr]
    rfl
  · rw [hrd, Dev.rd_wr]
    rfl
  · exact .of_regs (.wr (.wr (.refl _ d) (by simp)) (by simp)) h

end

/-! ## Frames received (R243, R244) -/

section
variable (d : Dev) (p : Nat)

theorem Dev.rxDrop_regs (f : Fld) : (d.rxDrop p f).regs = (d.bump f).regs := by
  unfold Dev.rxDrop
  dsimp only
  split
  · rfl
  · exact Dev.raise_regs ..

theorem Dev.rxDrop_cells (f : Fld) : (d.rxDrop p f).net.cells = d.net.cells := by
  unfold Dev.rxDrop
  dsimp only
  split
  · rfl
  · rw [Dev.raise_net]
    rfl

/-- A dropped frame counts in its field alone and takes no buffer. -/
theorem Dev.rxDrop_counts {f : Fld} (hwidth : f.width = 8) : (d.rxDrop p f).rd f = min 255 (d.rd f + 1) ∧
    (d.rxDrop p f).net.cells = d.net.cells ∧ d.RegsBut [f] (d.rxDrop p f) := by
  have hrd : (d.rxDrop p f).rd f = (d.bump f).rd f := congrArg (Regs.get · f) (d.rxDrop_regs p f)
  have hmax : min (2 ^ f.width - 1) (d.rd f + 1) = min 255 (d.rd f + 1) := congrArg (fun w => min (2 ^ w - 1) (d.rd f + 1)) hwidth
  exact ⟨hrd.trans ((d.rd_bump f).trans hmax), d.rxDrop_cells p f, (Dev.regsBut_wr (e := d) rfl).of_regs (d.rxDrop_regs p f)⟩

variable {d p} {f : List Byte}

theorem Dev.fieldFrame_oversize {ok : Bool} (hup : d.portUp p = true) (hlen : 1522 < f.length + 4) :
    d.fieldFrame p f ok = d.rxDrop p (R.FNET_DROP1.OVERSIZE p) := by
  simp [Dev.fieldFrame, hup, hlen]

theorem Dev.fieldFrame_bad_fcs (hup : d.portUp p = true) (hlen : f.length + 4 ≤ 1522) : d.fieldFrame p f false = d.rxDrop p (R.FNET_DROP1.FCS p) := by
  simp [Dev.fieldFrame, hup, Nat.not_lt.mpr hlen]

theorem Dev.fieldFrame_filtered (hup : d.portUp p = true) (hlen : f.length + 4 ≤ 1522) (hclass : d.rxClass (etherType f) = none) :
    d.fieldFrame p f true = d.rxDrop p (R.FNET_DROP1.FILTERED p) := by
  simp [Dev.fieldFrame, hup, Nat.not_lt.mpr hlen, hclass]

theorem Dev.fieldFrame_classified {c : Nat} (hup : d.portUp p = true) (hlen : f.length + 4 ≤ 1522) (hclass : d.rxClass (etherType f) = some c) :
    d.fieldFrame p f true = d.rxAdmit p c (f.length + 4) := by
  simp [Dev.fieldFrame, hup, Nat.not_lt.mpr hlen, hclass]

/-- A frame that its class's reserve can take takes no cell of the pool. -/
theorem Dev.rxAdmit_of_reserve {c len : Nat} (h : (len + 255) / 256 + (d.cellsUsed c).1 ≤ (classReserve c).1) : d.rxAdmit p c len =
    ({ d with net := { d.net with cells := setAt d.net.cells c (d.net.cells.getD c [] ++ [((len + 255) / 256, 0)]) } } : Dev).bufPeak c := by
  have hfrom : min ((len + 255) / 256) ((classReserve c).1 - (d.cellsUsed c).1) = (len + 255) / 256 := by omega
  unfold Dev.rxAdmit
  dsimp only
  rw [hfrom, Nat.sub_self, if_pos (.inl rfl)]

theorem Dev.bufPeak_regsBut (d : Dev) (c : Nat) : d.RegsBut [R.FNET_BUFPEAK.CELLS c, R.FNET_BUFPEAK.CELLS 5] (d.bufPeak c) :=
  .wr (f := R.FNET_BUFPEAK.CELLS 5) (.wr (f := R.FNET_BUFPEAK.CELLS c) (.refl _ d) (by simp)) (by simp)

theorem Dev.rxAdmit_takes {c len : Nat} (h : (len + 255) / 256 + (d.cellsUsed c).1 ≤ (classReserve c).1) (hc : c < d.net.cells.length) :
    (d.rxAdmit p c len).net.cells.getD c [] = d.net.cells.getD c [] ++ [((len + 255) / 256, 0)] ∧
    d.RegsBut [R.FNET_BUFPEAK.CELLS c, R.FNET_BUFPEAK.CELLS 5] (d.rxAdmit p c len) := by
  rw [Dev.rxAdmit_of_reserve h]
  exact ⟨getD_setAt_self _ _ hc, (Dev.RegsBut.of_eq _ rfl).trans (Dev.bufPeak_regsBut _ c)⟩

end

/-! ## Transmission (R245, R246) -/

section
variable {d : Dev} {p q : Nat} {f : TxFrame} {rest : List TxFrame}

theorem Dev.fieldTxStart_picked (hlink : d.on (R.FNET_PORT.LINK p) = true) (hstatus : d.rd (R.FNET_PORT.STATUS p) = 1) (hpick : d.txPick p = some q)
    (hhead : (d.port p).queues.getD q [] = f :: rest) : d.fieldTxStart p = d.setPort p { d.port p with
      queues := setAt (d.port p).queues q rest, sending := some (f, 16 * d.stcNs + 2 * d.rd (R.FNET_PDLY.TX p)) } := by
  simp only [Dev.fieldTxStart, hlink, hstatus, decide_true, Bool.and_self, if_true, hpick, hhead]

theorem Dev.fieldTxStart_sends (hlink : d.on (R.FNET_PORT.LINK p) = true) (hstatus : d.rd (R.FNET_PORT.STATUS p) = 1) (hpick : d.txPick p = some q)
    (hhead : (d.port p).queues.getD q [] = f :: rest) (hp : p < d.net.ports.length) : ((d.fieldTxStart p).port p).queues.getD q [] = rest ∧
      (d.fieldTxStart p).regs = d.regs ∧
      ((d.fieldTxStart p).port p).sending = some (f, 16 * d.stcNs + 2 * d.rd (R.FNET_PDLY.TX p)) := by
  have hq : q < (d.port p).queues.length := lt_length_of_getD_ne (x := []) (hhead ▸ List.cons_ne_nil f rest)
  rw [Dev.fieldTxStart_picked hlink hstatus hpick hhead, Dev.port_setPort_self _ hp]
  exact ⟨getD_setAt_self _ _ hq, rfl, rfl⟩

end

theorem clampNat_nent_lt (n : Nat) : clampNat (n % 32) 1 16 < 32 := by
  unfold clampNat
  split
  · decide
  · split
    · decide
    · exact Nat.mod_lt n (by decide)

/-- The block with a gate list applied: PEND set beside the length kept in its range. -/
theorem Dev.gclApplied_shown (d : Dev) (p n : Nat) : let e := (d.wr (R.FNET_GCLCTL.NENT p) (clampNat (n % 32) 1 16)).wr (R.FNET_GCLCTL.PEND p) 1
    e.rd (R.FNET_GCLCTL.PEND p) = 1 ∧ e.rd (R.FNET_GCLCTL.NENT p) = clampNat (n % 32) 1 16 ∧ e.net = d.net ∧
    d.RegsBut [R.FNET_GCLCTL.PEND p, R.FNET_GCLCTL.NENT p] e := by
  have hkey : (R.FNET_GCLCTL.PEND p).key ≠ (R.FNET_GCLCTL.NENT p).key := by simp [Fld.key, R.FNET_GCLCTL.PEND, R.FNET_GCLCTL.NENT]
  refine ⟨Dev.rd_wr .., ?_, rfl, .wr (.wr (.refl _ d) (by simp)) (by simp)⟩
  rw [Dev.rd_wr_ne _ _ _ _ hkey, Dev.rd_wr]
  exact Nat.mod_eq_of_lt (clampNat_nent_lt n)

/-! ## IEEE 1588 messages (R101) -/

section
variable (d : Dev) (p : Nat)

theorem Dev.ptpMessage_announce {dom : Nat} (hdom : dom = d.rd R.STC_PTPCFG.DOMAIN) (rx u : Int) :
    d.ptpMessage p rx (.announce dom (some u)) = (d.wr R.STC_UTCOFS.SRC 1).wrS R.STC_UTCOFS.OFS (wrap u 16) := if_pos hdom

theorem Dev.ptpMessage_sync {dom : Nat} (hdom : dom = d.rd R.STC_PTPCFG.DOMAIN) (rx origin corr : Int) (seq : Nat) :
    d.ptpMessage p rx (.sync dom seq true origin corr) =
      d.setPtp p { d.ptp p with sync := some (seq, rx - 2 * d.rd (R.FNET_PDLY.RX p), corr) } := if_pos hdom

variable {d p}

theorem Dev.ptpMessage_followUp {rx rs origin c0 corr : Int} {seq : Nat} (hsync : (d.ptp p).sync = some (seq, rs, c0)) :
    d.ptpMessage p rx (.followUp (d.rd R.STC_PTPCFG.DOMAIN) seq origin corr) =
      (d.setPtp p { d.ptp p with sync := none }).ptpOffset p rs origin (c0 + corr) := by
  simp only [Dev.ptpMessage, hsync, and_self, if_true]

theorem Dev.ptpOffset_of_delay {rx origin corr md : Int} (h : (d.ptp p).delay = some md) : d.ptpOffset p rx origin corr =
    (d.wrS (R.STC_PTPOFS.OFS p) (wrap (divz (rx - (origin + corr + md)) 16) 32)).ptpSample p (wrap (divz (rx - (origin + corr + md)) 16) 32) := by
  simp only [Dev.ptpOffset, h]

end

theorem sampleFlds_key_ne_ptpofs (p : Nat) : ∀ f ∈ sampleFlds, f.key ≠ (R.STC_PTPOFS.OFS p).key :=
  (by decide : ∀ j < 2, ∀ f ∈ sampleFlds, f.key ≠ (0x00030030 + 0x4 * j) * 32 + 0) (p % 2) (Nat.mod_lt p (by decide))

theorem ptpOk_key_ne_ptpofs (p : Nat) : (ptpOk p).key ≠ (R.STC_PTPOFS.OFS p).key := by
  have haddr : (ptpOk p).key < (R.STC_PTPOFS.OFS 0).key := by
    unfold ptpOk
    split <;> decide
  simp only [Fld.key, R.STC_PTPOFS.OFS] at haddr ⊢
  omega

/-- An offset sample is shown in STC_PTPOFS, and what follows it there leaves it. -/
theorem Dev.ptpSample_shown (d : Dev) (p : Nat) (ofs : Int) :
    ((d.wrS (R.STC_PTPOFS.OFS p) ofs).ptpSample p ofs).rdS (R.STC_PTPOFS.OFS p) = wrap ofs 32 := by
  have hsampled := (d.wrS (R.STC_PTPOFS.OFS p) ofs).ptpCounted_sampled p ofs
  have hcounted := (d.wrS (R.STC_PTPOFS.OFS p) ofs).ptpCounted_regsBut p
  rw [Dev.rdS, hsampled.regsBut _ (sampleFlds_key_ne_ptpofs p), hcounted _ (List.forall_mem_singleton.mpr (ptpOk_key_ne_ptpofs p))]
  exact Dev.rdS_wrS d (R.STC_PTPOFS.OFS p) ofs

theorem Dev.ptpMessage_followUp_offset {d : Dev} {p seq : Nat} {rx rs origin c0 corr md : Int} (hp : p < d.net.ptp.length)
    (hsync : (d.ptp p).sync = some (seq, rs, c0)) (hdelay : (d.ptp p).delay = some md) :
    let e := d.ptpMessage p rx (.followUp (d.rd R.STC_PTPCFG.DOMAIN) seq origin corr)
    e.rdS (R.STC_PTPOFS.OFS p) = wrap (divz (rs - (origin + (c0 + corr) + md)) 16) 32 ∧ (e.ptp p).sync = none := by
  have hport : (d.setPtp p { d.ptp p with sync := none }).ptp p = { d.ptp p with sync := none } := Dev.ptp_setPtp_self _ hp
  have hdelay' : ((d.setPtp p { d.ptp p with sync := none }).ptp p).delay = some md := by rw [hport, hdelay]
  have hnet : ∀ (x : Dev) (ofs : Int), (x.ptpSample p ofs).ptp p = x.ptp p := fun x ofs =>
    congrArg (fun n : Net => n.ptp.getD p {}) ((x.ptpSample_reach p ofs).onlyIn.net rfl)
  dsimp only
  rw [Dev.ptpMessage_followUp hsync, Dev.ptpOffset_of_delay hdelay', hnet]
  refine ⟨(Dev.ptpSample_shown _ p _).trans (wrap_wrap _ 32), ?_⟩
  change ((d.setPtp p { d.ptp p with sync := none }).ptp p).sync = none
  rw [hport]

/-- A Pdelay_Req takes the next number, is stamped with its sending, and forgets the response to the one before. -/
theorem Dev.pdelayReq_stamped {d : Dev} {p : Nat} (hp : p < d.net.ptp.length) (hseq : p < d.tm.pdelaySeq.length) :
    ((d.pdelayReq p).ptp p).t1 = some (numAt d.tm.pdelaySeq p, (16 * d.stcNs + 2 * d.rd (R.FNET_PDLY.TX p) : Int)) ∧
    ((d.pdelayReq p).ptp p).resp = none ∧ numAt (d.pdelayReq p).tm.pdelaySeq p = (numAt d.tm.pdelaySeq p + 1) % 65536 ∧
    (d.pdelayReq p).regs = d.regs := by
  have hqueue : ∀ (e : Dev) (f : TxFrame), (e.txQueue p 0 f).ptp p = e.ptp p := fun _ _ => rfl
  have hport : (d.pdelayReq p).ptp p = { d.ptp p with
      t1 := some (numAt d.tm.pdelaySeq p, (16 * d.stcNs + 2 * d.rd (R.FNET_PDLY.TX p) : Int)), resp := none } :=
    (hqueue _ _).trans (Dev.ptp_setPtp_self
      (d := { d with tm := { d.tm with pdelaySeq := setAt d.tm.pdelaySeq p ((numAt d.tm.pdelaySeq p + 1) % 65536) } }) _ hp)
  rw [hport]
  exact ⟨rfl, rfl, getD_setAt_self _ 0 hseq, rfl⟩

/-! ## The meaning of each command of this part -/

/-- A row of the field ports answers its operation's block while F4 is on. -/
theorem answers_of_onF4 {c : Instr} {s : State} {f : Dev → Dev} {P : Dev → Prop} (h : exec c s = done s (fun d => if d.domOn .f4 then f d else d))
    (hon : s.dev.domOn .f4 = true) (hP : P (f s.dev)) : Answers c s P :=
  answers_of_done h (by rwa [if_pos hon])

section
variable (s : State) (p : Fin 2)

theorem exec_ethLinkChange_field (up supported : Bool) : exec (.ethLinkChange ⟨p.val, by omega⟩ up supported) s =
    done s (fun d => if d.domOn .f4 then d.fieldLink p up supported else d) := congrArg (done s) (funext fun _ => if_pos p.isLt)

theorem exec_ethFrameReceive_field (f : List Byte) (ok : Bool) : exec (.ethFrameReceive ⟨p.val, by omega⟩ f ok) s =
    done s (fun d => if d.domOn .f4 then d.fieldFrame p f ok else d) := congrArg (done s) (funext fun _ => if_pos p.isLt)

theorem exec_ethTransmitStart_field : exec (.ethTransmitStart ⟨p.val, by omega⟩) s =
    done s (fun d => if d.domOn .f4 then d.fieldTxStart p else d) := congrArg (done s) (funext fun _ => if_pos p.isLt)

theorem exec_fnetGclctlApply (n : Nat) : exec (.fnetGclctlApply p n) s = done s (fun d =>
    if d.domOn .f4 then (d.wr (R.FNET_GCLCTL.NENT p) (clampNat (n % 32) 1 16)).wr (R.FNET_GCLCTL.PEND p) 1 else d) := rfl

theorem exec_ptpMessage (rx : Int) (m : PtpMsg) : exec (.ptpMessage p rx m) s = done s (fun d =>
    if d.domOn .f4 && !d.pw.fmpRestart then (d.rxFree 0).ptpMessage p rx m else d) := rfl

theorem exec_pdelayReqSend : exec (.pdelayReqSend p) s = done s (fun d =>
    if d.domOn .f4 && !d.pw.fmpRestart && d.portUp p then d.pdelayReq p else d) := rfl

end

/-! ## The answer of each command of this part -/

section
variable {s : State} {p : Fin 2} (hon : s.dev.domOn .f4 = true)
include hon

theorem answers_ethLinkChange (up : Bool) : Answers (.ethLinkChange ⟨p.val, by omega⟩ up true) s (fun t =>
    t.rd (R.FNET_PORT.LINK p) = b2n up ∧ t.rd (R.FNET_PORT.SPEEDERR p) = 0 ∧
    s.dev.RegsBut [R.FNET_PORT.LINK p, R.FNET_PORT.SPEEDERR p] t ∧ s.dev.OnlyIn (Part.regs ||| Part.fl) t) := by
  obtain ⟨hlink, herr, hrest⟩ := s.dev.linkShown_of_regs p (s.dev.fieldLink_regs p up)
  exact answers_of_onF4 (exec_ethLinkChange_field s p up true) hon
    ⟨hlink.trans (b2n_mod_two up), herr, hrest, (s.dev.fieldLink_reach p up true).onlyIn⟩

theorem answers_ethLinkChange_unsupported : Answers (.ethLinkChange ⟨p.val, by omega⟩ true false) s (fun t =>
    t.rd (R.FNET_PORT.LINK p) = 0 ∧ t.rd (R.FNET_PORT.SPEEDERR p) = 1 ∧ s.dev.RegsBut [R.FNET_PORT.LINK p, R.FNET_PORT.SPEEDERR p] t) :=
  answers_of_onF4 (exec_ethLinkChange_field s p true false) hon
    (s.dev.linkShown_of_regs p ((congrArg Dev.regs (s.dev.fieldLink_unsupported p)).trans (Dev.raise_regs ..)))

theorem answers_ethFrameReceive_dropped {f : List Byte} {ok : Bool} {fld : Fld} (hwidth : fld.width = 8)
    (hdrop : s.dev.fieldFrame p f ok = s.dev.rxDrop p fld) : Answers (.ethFrameReceive ⟨p.val, by omega⟩ f ok) s (fun t =>
      t.rd fld = min 255 (s.dev.rd fld + 1) ∧ t.net.cells = s.dev.net.cells ∧ s.dev.RegsBut [fld] t) := by
  refine answers_of_onF4 (exec_ethFrameReceive_field s p f ok) hon ?_
  rw [hdrop]
  exact s.dev.rxDrop_counts p hwidth

theorem answers_ethFrameReceive_admitted {f : List Byte} {c : Nat} (hup : s.dev.portUp p = true) (hlen : f.length + 4 ≤ 1522)
    (hclass : s.dev.rxClass (etherType f) = some c) (hroom : (f.length + 4 + 255) / 256 + (s.dev.cellsUsed c).1 ≤ (classReserve c).1)
    (hc : c < s.dev.net.cells.length) : Answers (.ethFrameReceive ⟨p.val, by omega⟩ f true) s (fun t =>
      t.net.cells.getD c [] = s.dev.net.cells.getD c [] ++ [((f.length + 4 + 255) / 256, 0)] ∧
      s.dev.RegsBut [R.FNET_BUFPEAK.CELLS c, R.FNET_BUFPEAK.CELLS 5] t) := by
  refine answers_of_onF4 (exec_ethFrameReceive_field s p f true) hon ?_
  rw [Dev.fieldFrame_classified hup hlen hclass]
  exact Dev.rxAdmit_takes hroom hc

theorem answers_ptpMessage {rx : Int} {m : PtpMsg} {P : Dev → Prop} (hrun : s.dev.pw.fmpRestart = false)
    (hP : P ((s.dev.rxFree 0).ptpMessage p rx m)) : Answers (.ptpMessage p rx m) s P :=
  answers_of_done (exec_ptpMessage s p rx m) (by rwa [if_pos (by simp [hon, hrun])])

theorem answers_ptpMessage_announce (hrun : s.dev.pw.fmpRestart = false) (rx u : Int) :
    Answers (.ptpMessage p rx (.announce (s.dev.rd R.STC_PTPCFG.DOMAIN) (some u))) s (fun t =>
      t.rd R.STC_UTCOFS.SRC = 1 ∧ t.rdS R.STC_UTCOFS.OFS = wrap u 16) := by
  refine answers_ptpMessage hon hrun ?_
  have hsrc : (((s.dev.rxFree 0).wr R.STC_UTCOFS.SRC 1).wrS R.STC_UTCOFS.OFS (wrap u 16)).rd R.STC_UTCOFS.SRC = 1 :=
    (Dev.rd_wr_ne _ R.STC_UTCOFS.OFS _ _ (by decide)).trans (Dev.rd_wr _ R.STC_UTCOFS.SRC 1)
  rw [(s.dev.rxFree 0).ptpMessage_announce p (dom := s.dev.rd R.STC_PTPCFG.DOMAIN) rfl rx u]
  exact ⟨hsrc, (Dev.rdS_wrS _ R.STC_UTCOFS.OFS _).trans (wrap_wrap u 16)⟩

theorem answers_ptpMessage_sync (hrun : s.dev.pw.fmpRestart = false) (rx origin corr : Int) (seq : Nat) (hp : p.val < s.dev.net.ptp.length) :
    Answers (.ptpMessage p rx (.sync (s.dev.rd R.STC_PTPCFG.DOMAIN) seq true origin corr)) s (fun t =>
      (t.ptp p).sync = some (seq, rx - 2 * s.dev.rd (R.FNET_PDLY.RX p), corr) ∧ t.regs = s.dev.regs) := by
  refine answers_ptpMessage hon hrun ?_
  rw [(s.dev.rxFree 0).ptpMessage_sync p (dom := s.dev.rd R.STC_PTPCFG.DOMAIN) rfl rx origin corr seq, Dev.ptp_setPtp_self (d := s.dev.rxFree 0) _ hp]
  exact ⟨rfl, rfl⟩

theorem answers_pdelayReqSend (hrun : s.dev.pw.fmpRestart = false) (hup : s.dev.portUp p = true) (hp : p.val < s.dev.net.ptp.length)
    (hseq : p.val < s.dev.tm.pdelaySeq.length) : Answers (.pdelayReqSend p) s (fun t =>
      (t.ptp p).t1 = some (numAt s.dev.tm.pdelaySeq p, (16 * s.dev.stcNs + 2 * s.dev.rd (R.FNET_PDLY.TX p) : Int)) ∧ (t.ptp p).resp = none ∧
      numAt t.tm.pdelaySeq p = (numAt s.dev.tm.pdelaySeq p + 1) % 65536 ∧ t.regs = s.dev.regs) := by
  refine answers_of_done (exec_pdelayReqSend s p) ?_
  rw [if_pos (by simp [hon, hrun, hup])]
  exact Dev.pdelayReq_stamped hp hseq

end

/-- Settles O33: each clause is the answer of one command, and a drop counts in the one field that its cause names. -/
theorem fieldPortsAndSiteTimeMessages : Obligations.FieldPortsAndSiteTimeMessages := fun s p hon =>
  ⟨answers_ethLinkChange hon,
    answers_ethLinkChange_unsupported hon,
    fun _ _ hup hlen => answers_ethFrameReceive_dropped hon rfl (Dev.fieldFrame_oversize hup hlen),
    fun _ hup hlen => answers_ethFrameReceive_dropped hon rfl (Dev.fieldFrame_bad_fcs hup hlen),
    fun _ hup hlen hclass => answers_ethFrameReceive_dropped hon rfl (Dev.fieldFrame_filtered hup hlen hclass),
    fun _ _ hup hlen hclass hroom hc => answers_ethFrameReceive_admitted hon hup hlen hclass hroom hc,
    fun _ _ _ hlink hstatus hpick hhead hp =>
      answers_of_onF4 (exec_ethTransmitStart_field s p) hon (Dev.fieldTxStart_sends hlink hstatus hpick hhead hp),
    fun n => answers_of_onF4 (exec_fnetGclctlApply s p n) hon (s.dev.gclApplied_shown p n),
    fun hrun => ⟨answers_ptpMessage_announce hon hrun,
      fun rx origin corr seq => answers_ptpMessage_sync hon hrun rx origin corr seq,
      fun _ _ _ _ _ _ _ hp hsync hdelay => answers_ptpMessage hon hrun (Dev.ptpMessage_followUp_offset hp hsync hdelay),
      answers_pdelayReqSend hon hrun⟩⟩

end Sys2Proof.Machine
end

section
/-! The control engine's instructions run outside the tick's list (Table 6-8, R114, R121, R124): with no memory error a command is
the effect of its instruction, and MVM and MVA leave each accumulator row by itself. -/

namespace Sys2Proof.Machine

/-! ## An instruction whose reads meet no error (R125) -/

/-- F2 is on, no word is damaged, no injection is active on the field side, and no code of the tick waits. -/
structure Dev.CeUndisturbed (d : Dev) : Prop where
  on : d.domOn .f2 = true
  bad : d.ce.bad = []
  inj : d.inj.field = []
  todo : d.ce.todo = []

section
variable {d : Dev}

theorem Dev.ceReread_of_bad_nil (h : d.ce.bad = []) (o : CeOp) : d.ceReread o = d := by
  simp only [Dev.ceReread, h, List.filter_nil, Dev.forAll, List.foldl_nil]

theorem Dev.injected_of_field_nil (h : d.inj.field = []) {point : Nat} (hp : point < 32) (inst : Nat) : d.injected point inst = none := by
  simp only [Dev.injected, if_pos hp, h, List.find?_nil]

theorem Dev.ceInjected_of_field_nil (h : d.inj.field = []) (o : CeOp) : d.ceInjected o = none := by
  simp only [Dev.ceInjected, Dev.injected_of_field_nil h (by decide : 4 < 32), Option.or_none]

theorem Dev.CeUndisturbed.ceFetchWords (h : d.CeUndisturbed) (o : CeOp) : d.ceFetchWords o none = d := by
  simp only [Dev.ceFetchWords, Dev.ceReread_of_bad_nil h.bad, Dev.ceInjected_of_field_nil h.inj]

theorem Dev.CeUndisturbed.ceStep (h : d.CeUndisturbed) (op : Nat) (a : CeArgs) : d.ceStep op a none = d.ceEffect ⟨op, a⟩ := by
  have hnext : ¬d.ce.todo.head? = some ⟨op, a⟩ := by simp [h.todo]
  simp only [Dev.ceStep, if_pos h.on, if_neg hnext, h.ceFetchWords]

end

/-- A row of the CE answers the block that its instruction's effect leaves. -/
theorem answers_of_ceStep {c : Instr} {s : State} {op : Nat} {a : CeArgs} {P : Dev → Prop}
    (h : exec c s = done s (·.ceStep op a none)) (hs : s.dev.CeUndisturbed) (hP : P (s.dev.ceEffect ⟨op, a⟩)) : Answers c s P :=
  answers_of_done h (by rwa [hs.ceStep])

/-! ## Rows of the accumulator file set one after another (R121) -/

/-- The accumulator file with each of its first `n` rows replaced by what `g` makes of it. -/
def rowsSet (g : Nat → AccRow → AccRow) (n : Nat) (rows : List AccRow) : List AccRow :=
  rows.mapIdx (fun i row => if i < n then g i row else row)

section
variable (g : Nat → AccRow → AccRow) (n : Nat) {rows : List AccRow} {i : Nat}

theorem rowsSet_zero : rowsSet g 0 rows = rows := List.ext_getElem (by simp [rowsSet]) (by simp [rowsSet])

theorem getD_rowsSet_of_lt (h : i < n) (hi : i < rows.length) : (rowsSet g n rows).getD i {} = g i (rows.getD i {}) := by
  simp [rowsSet, h, hi]

theorem getD_rowsSet_of_ge (h : n ≤ i) : (rowsSet g n rows).getD i {} = rows.getD i {} := by
  simp [rowsSet, h.not_gt, List.getD_eq_getElem?_getD]

/-- Setting row `n` after those below it: row `n` is still the row that stood there at first. -/
theorem rowsSet_succ : rowsSet g (n + 1) rows = setAt (rowsSet g n rows) n (g n (rows.getD n {})) := by
  refine List.ext_getElem (by simp [rowsSet, setAt]) fun i hi _ => ?_
  have hrow : i < rows.length := by simpa [rowsSet] using hi
  simp only [rowsSet, setAt, List.getElem_mapIdx, List.getElem_set]
  rcases lt_trichotomy i n with hlt | rfl | hgt
  · simp [hlt, hlt.ne', Nat.lt_succ_of_lt hlt]
  · simp [hrow]
  · simp [hgt.ne, hgt.not_gt, show ¬i < n + 1 by omega]

end

/-- The block with the accumulator file replaced. -/
def Dev.withAcc (d : Dev) (rows : List AccRow) : Dev := { d with ce := { d.ce with acc := rows } }

/-- A run of rows in which each new value depends, of all that the run changes, on the row it replaces only: every row is computed
from the block and the row that the run began with. -/
theorem Dev.forAll_setAcc {d : Dev} {f : Dev → Nat → AccRow} {g : Nat → AccRow → AccRow}
    (h : ∀ rows i, f (d.withAcc rows) i = g i (rows.getD i {})) (n : Nat) :
    d.forAll (List.range n) (fun e i => e.setAcc i (f e i)) = d.withAcc (rowsSet g n d.ce.acc) := by
  induction n with
  | zero => rw [rowsSet_zero]; rfl
  | succ n ih =>
    calc d.forAll (List.range (n + 1)) (fun e i => e.setAcc i (f e i))
      _ = (d.forAll (List.range n) (fun e i => e.setAcc i (f e i))).forAll [n] (fun e i => e.setAcc i (f e i)) := by
        rw [List.range_succ]
        exact List.foldl_append
      _ = (d.withAcc (rowsSet g n d.ce.acc)).setAcc n (f (d.withAcc (rowsSet g n d.ce.acc)) n) := by rw [ih]; rfl
      _ = d.withAcc (rowsSet g (n + 1) d.ce.acc) := by
        rw [h, getD_rowsSet_of_ge g n le_rfl, rowsSet_succ]
        rfl

section
variable (d : Dev) (a : CeArgs)

/-- The row that MVM leaves (R121): its initial value and its columns. -/
def Dev.mvmRow (i : Nat) : AccRow :=
  rowAcc d.act.coefs ((d.matOf a.mat).first + i * a.c) a.c d.ce.sig a.src
    { acc := if testBit a.flags 0 then sat (d.sig (a.aux + i) * 2 ^ 30) 80 else 0, sat := false, osh := (d.matOf a.mat).oshFirst + i }

/-- The row that MVA leaves (R121): the row that stood there and its columns. -/
def Dev.mvaRow (i : Nat) (row : AccRow) : AccRow :=
  rowAcc d.act.coefs ((d.matOf a.mat).first + i * a.c) a.c d.ce.sig a.src row

theorem Dev.ceMvm_eq_withAcc : d.ceMvm a = d.withAcc (rowsSet (fun i _ => d.mvmRow a i) a.r d.ce.acc) :=
  Dev.forAll_setAcc (fun _ _ => rfl) a.r

theorem Dev.ceMva_eq_withAcc : d.ceMva a = d.withAcc (rowsSet (d.mvaRow a) a.r d.ce.acc) :=
  Dev.forAll_setAcc (fun _ _ => rfl) a.r

end

/-! ## The meaning of each command of this part -/

section
variable (a : CeArgs) (s : State)

theorem exec_ceMvm (ecc : Option EccHit) : exec (.ceMvm a ecc) s = done s (·.ceStep 0x01 a ecc) := rfl
theorem exec_ceMva (ecc : Option EccHit) : exec (.ceMva a ecc) s = done s (·.ceStep 0x02 a ecc) := rfl
theorem exec_ceWb (ecc : Option EccHit) : exec (.ceWb a ecc) s = done s (·.ceStep 0x03 a ecc) := rfl
theorem exec_ceVadd (ecc : Option EccHit) : exec (.ceVadd a ecc) s = done s (·.ceStep 0x04 a ecc) := rfl
theorem exec_ceVsub (ecc : Option EccHit) : exec (.ceVsub a ecc) s = done s (·.ceStep 0x05 a ecc) := rfl
theorem exec_ceVlim (ecc : Option EccHit) : exec (.ceVlim a ecc) s = done s (·.ceStep 0x06 a ecc) := rfl
theorem exec_ceMov (ecc : Option EccHit) : exec (.ceMov a ecc) s = done s (·.ceStep 0x07 a ecc) := rfl
theorem exec_ceLut (ecc : Option EccHit) : exec (.ceLut a ecc) s = done s (·.ceStep 0x08 a ecc) := rfl
theorem exec_ceSlew (ecc : Option EccHit) : exec (.ceSlew a ecc) s = done s (·.ceStep 0x09 a ecc) := rfl
theorem exec_ceBq (ecc : Option EccHit) : exec (.ceBq a ecc) s = done s (·.ceStep 0x0A a ecc) := rfl
theorem exec_ceResid (ecc : Option EccHit) : exec (.ceResid a ecc) s = done s (·.ceStep 0x0B a ecc) := rfl
theorem exec_ceFerr (ecc : Option EccHit) : exec (.ceFerr a ecc) s = done s (·.ceStep 0x0C a ecc) := rfl
theorem exec_ceIdle : exec (.ceIdle a) s = done s (·.ceStep 0x0D a none) := rfl
theorem exec_ceEnd : exec (.ceEnd a) s = done s (·.ceStep 0x00 a none) := rfl

end

/-! ## The answer of the commands whose effect has cases -/

section
variable {s : State} {a : CeArgs} (hs : s.dev.CeUndisturbed)

include hs

theorem answers_ceMvm {i : Nat} (hr : i < a.r) (hi : i < s.dev.ce.acc.length) : Answers (.ceMvm a none) s (fun t =>
    t.ce.sig = s.dev.ce.sig ∧ s.dev.OnlyIn Part.ce t ∧ t.ce.acc.getD i {} = s.dev.mvmRow a i) := by
  refine answers_of_ceStep (exec_ceMvm a s none) hs ⟨?_, (s.dev.ceMvm_reach a).onlyIn, ?_⟩
  · exact congrArg (·.ce.sig) (s.dev.ceMvm_eq_withAcc a)
  · exact (congrArg (·.ce.acc.getD i {}) (s.dev.ceMvm_eq_withAcc a)).trans (getD_rowsSet_of_lt _ a.r hr hi)

theorem answers_ceMva {i : Nat} (hr : i < a.r) (hi : i < s.dev.ce.acc.length) : Answers (.ceMva a none) s (fun t =>
    t.ce.sig = s.dev.ce.sig ∧ s.dev.OnlyIn Part.ce t ∧ t.ce.acc.getD i {} = s.dev.mvaRow a i (s.dev.ce.acc.getD i {})) := by
  refine answers_of_ceStep (exec_ceMva a s none) hs ⟨?_, (s.dev.ceMva_reach a).onlyIn, ?_⟩
  · exact congrArg (·.ce.sig) (s.dev.ceMva_eq_withAcc a)
  · exact (congrArg (·.ce.acc.getD i {}) (s.dev.ceMva_eq_withAcc a)).trans (getD_rowsSet_of_lt _ a.r hr hi)

/-- In a tick in which its XFER lets it write, WB writes back every row (R121, R136). -/
theorem answers_ceWb_writing (hx : s.dev.xferWrites a = true) : Answers (.ceWb a none) s (fun t =>
    t = s.dev.forAll (List.range a.r) (fun d i =>
      d.outSig (a.dst + i) (writeback (d.ce.acc.getD i {}).acc (oshOf (numAt d.act.oshs (d.ce.acc.getD i {}).osh))).1
        ((d.ce.acc.getD i {}).sat || (writeback (d.ce.acc.getD i {}).acc (oshOf (numAt d.act.oshs (d.ce.acc.getD i {}).osh))).2))) :=
  answers_of_ceStep (exec_ceWb a s none) hs (if_pos hx)

theorem answers_ceWb_waiting (hx : s.dev.xferWrites a = false) : Answers (.ceWb a none) s (fun t => t = s.dev) :=
  answers_of_ceStep (exec_ceWb a s none) hs (if_neg (ne_true_of_eq_false hx))

/-- In a tick in which its XFER lets it write, VSUB writes every difference (Table 6-8, R136). -/
theorem answers_ceVsub_writing (hx : s.dev.xferWrites a = true) : Answers (.ceVsub a none) s (fun t =>
    t = s.dev.forAll (List.range a.r) (fun d i =>
      d.outSig (a.dst + i) (sat (d.sig (a.src + i) - d.sig (a.aux + i)) 32)
        (decide (d.sig (a.src + i) - d.sig (a.aux + i) ≠ sat (d.sig (a.src + i) - d.sig (a.aux + i)) 32)))) :=
  answers_of_ceStep (exec_ceVsub a s none) hs (if_pos hx)

theorem answers_ceVsub_waiting (hx : s.dev.xferWrites a = false) : Answers (.ceVsub a none) s (fun t => t = s.dev) :=
  answers_of_ceStep (exec_ceVsub a s none) hs (if_neg (ne_true_of_eq_false hx))

/-- Without XFER every section of BQ runs by R132, in a transfer tick too (R136, R137). -/
theorem answers_ceBq_no_xfer (hflag : testBit a.flags 1 = false) : Answers (.ceBq a none) s (fun t =>
    t = s.dev.forAll (List.range a.r) (fun d i => d.bqSection a (s.dev.matOf a.mat).first i false)) := by
  refine answers_of_ceStep (exec_ceBq a s none) hs ?_
  change s.dev.ceBq a = _
  simp only [Dev.ceBq, hflag, Bool.false_and]

end

/-- Settles O19: with no error met each command is its instruction's effect; the rows of MVM and MVA do not touch one another, XFER
decides WB, VSUB and BQ, and every other effect is its elements in ascending order. -/
theorem ceInstructionsHaveTheirEffect : Obligations.CeInstructionsHaveTheirEffect := by
  intro s a hon hbad hinj htodo
  have hs : s.dev.CeUndisturbed := ⟨hon, hbad, hinj, htodo⟩
  exact ⟨fun _ hr hi => ⟨answers_ceMvm hs hr hi, answers_ceMva hs hr hi⟩,
    answers_ceWb_writing hs,
    answers_of_ceStep (exec_ceVadd a s none) hs rfl,
    answers_ceVsub_writing hs,
    fun hx => ⟨answers_ceWb_waiting hs hx, answers_ceVsub_waiting hs hx⟩,
    answers_of_ceStep (exec_ceVlim a s none) hs rfl,
    answers_of_ceStep (exec_ceMov a s none) hs rfl,
    answers_of_ceStep (exec_ceLut a s none) hs rfl,
    answers_of_ceStep (exec_ceSlew a s none) hs rfl,
    answers_ceBq_no_xfer hs,
    answers_of_ceStep (exec_ceResid a s none) hs rfl,
    answers_of_ceStep (exec_ceFerr a s none) hs rfl,
    answers_of_ceStep (exec_ceIdle a s) hs rfl,
    answers_of_ceStep (exec_ceEnd a s) hs rfl⟩

end Sys2Proof.Machine
end

section
/-! The pads of a leg over one period (R175 to R179): the dead times between them under both policies, and the effective width of the
normal policy within the period. -/

namespace Sys2Proof.Machine

/-! ## Pads separated by the dead times -/

/-- The two pads of a leg are separated in a period of length `p` (R176): while PWM_A is high PWM_B is low, and each rise inside the
period follows the other pad's fall by its dead time. -/
def Plan.Separated (c : LegSet) (p : Nat) (q : Plan) : Prop :=
  q.ah0 < q.ah1 →
    q.bl0 ≤ q.ah0 ∧ q.ah1 ≤ q.bl1 ∧ (0 < q.ah0 → q.bl0 + c.dtr ≤ q.ah0) ∧ (q.bl1 < p → q.ah1 + c.dtf ≤ q.bl1)

section
variable {c : LegSet} {p : Nat} {q : Plan}

/-- Without a pulse of PWM_A nothing is to be separated. -/
theorem Plan.separated_of_a_low (ha : q.ah1 = 0) : q.Separated c p := fun hlt => absurd hlt (by simp [ha])

/-- Both edges of the command, each pad's rise delayed by its dead time (R176). -/
theorem Plan.separated_of_edges {ton toff : Nat} (ha0 : q.ah0 = ton + c.dtr) (ha1 : q.ah1 = toff) (hb0 : q.bl0 = ton)
    (hb1 : q.bl1 = toff + c.dtf) : q.Separated c p := fun _ =>
  ⟨hb0 ▸ ha0 ▸ Nat.le_add_right .., ha1 ▸ hb1 ▸ Nat.le_add_right .., fun _ => by rw [hb0, ha0], fun _ => by rw [ha1, hb1]⟩

/-- PWM_B low for the whole period: PWM_A need only stay within it, and rise after DTR unless it is high from the start. -/
theorem Plan.separated_of_b_low (hb0 : q.bl0 = 0) (hb1 : q.bl1 = p) (ha0 : 0 < q.ah0 → c.dtr ≤ q.ah0) (ha1 : q.ah1 ≤ p) :
    q.Separated c p := fun _ =>
  ⟨hb0 ▸ Nat.zero_le _, hb1 ▸ ha1, fun h => by simpa [hb0] using ha0 h, fun h => absurd h (by simp [hb1])⟩

theorem Plan.separated_off : Plan.Separated c p {} := Plan.separated_of_a_low rfl

theorem Plan.separated_full : Plan.Separated c p { ah1 := p, bl1 := p } :=
  Plan.separated_of_b_low rfl rfl (fun h => absurd h (lt_irrefl 0)) le_rfl

end

/-! ## Widths and edge times (R175) -/

/-- A duty below the 100 % code asks for no more than the period. -/
theorem dutyWidth_le {duty : Nat} (p : Nat) (h : duty < 2 ^ 31) : dutyWidth duty p ≤ p := by
  have hmul : duty * p ≤ (2 ^ 31 - 1) * p := Nat.mul_le_mul_right p (by omega)
  unfold dutyWidth
  omega

theorem edgeTimes_snd_le (c : LegSet) {p w : Nat} (h : w ≤ p) : (edgeTimes c p w).2 ≤ p := by
  unfold edgeTimes
  split
  · exact h
  · exact Nat.sub_le ..

/-! ## The policies -/

section
variable (c : LegSet) (p : Nat)

/-- The pads of any effective width are separated, one beyond the period included (R175, R176). -/
theorem planWidth_separated (w : Nat) : (planWidth c p w).Separated c p := by
  unfold planWidth
  split
  · exact Plan.separated_off
  split
  · exact Plan.separated_full
  · exact Plan.separated_of_edges rfl rfl rfl rfl

/-- The normal policy chooses a width, and the pads of every width are separated (R177). -/
theorem planNormal_separated (duty : Nat) (carry : Int) : (planNormal c p duty carry).Separated c p := by
  unfold planNormal
  split
  · exact Plan.separated_off
  split
  · exact Plan.separated_full
  · exact planWidth_separated c p _

/-- A tabulated plan leaves out a pulse of A, or one of B, or neither. Without B's, PWM_B is low for the whole period, which PWM_A
does not outlast since the requested width lies within it (R179). -/
theorem planTab_separated (duty : Nat) : (planTab c p duty).Separated c p := by
  unfold planTab
  split
  · exact Plan.separated_off
  split
  · exact Plan.separated_full
  next hduty =>
    have htoff : (edgeTimes c p (dutyWidth duty p)).2 ≤ p := edgeTimes_snd_le c (dutyWidth_le p (not_le.mp hduty))
    dsimp only
    split
    · exact Plan.separated_off
    split
    · exact Plan.separated_full
    split
    · split
      · exact Plan.separated_off
      · exact Plan.separated_of_a_low rfl
    split
    · split
      · exact Plan.separated_full
      · exact Plan.separated_of_b_low rfl rfl (fun _ => Nat.le_add_left ..) htoff
    · exact Plan.separated_of_edges rfl rfl rfl rfl

end

/-- With room for both dead times and one minimum pulse: a short pulse is dropped or widened to one that has room, and where neither
side is short the width leaves each side its dead time and its pulse (R177). -/
theorem minPulse_width_within_period {c : LegSet} {p : Nat} (w : Nat) (carry : Int) (hroom : c.dtr + c.dtf + c.tmin ≤ p) :
    0 ≤ (minPulse c p w carry).1 ∧ (minPulse c p w carry).1 ≤ p := by
  unfold minPulse
  generalize hwc : max (c.dtr : Int) (min ((p : Int) - c.dtf) w) = wc
  have hlow : (c.dtr : Int) ≤ wc := hwc ▸ le_max_left ..
  have hhigh : wc ≤ (p : Int) - c.dtf := hwc ▸ max_le (by omega) (min_le_left ..)
  dsimp only
  split
  · split
    · exact ⟨le_rfl, Int.natCast_nonneg p⟩
    · dsimp only
      omega
  split
  · split
    · exact ⟨Int.natCast_nonneg p, le_rfl⟩
    · dsimp only
      omega
  · dsimp only
    omega

/-- Settles O23: the pads are separated under either policy, whatever the width, and room keeps the normal width in the period. -/
theorem deadTimeSeparatesThePads : Obligations.DeadTimeSeparatesThePads := by
  intro c p duty carry
  exact ⟨fun w => minPulse_width_within_period w carry,
    List.forall_mem_cons.mpr ⟨planNormal_separated c p duty carry, List.forall_mem_singleton.mpr (planTab_separated c p duty)⟩⟩

end Sys2Proof.Machine
end

section
/-! The fallback converters' slots (R199 to R203): control conversions before triggered ones, and those before the scan. -/

namespace Sys2Proof.Machine

/-! ## A sample of 16 bits in a field of 32 -/

theorem wrap32_wrap16 (x : Int) : wrap (wrap x 16) 32 = wrap x 16 := by
  simp only [wrap, Nat.reduceSub, Int.reducePow]
  split_ifs <;> omega

/-! ## The slot begun -/

/-- The converter's next 0.5 µs slot on the grid of the STC. -/
def Dev.slotNumber (d : Dev) (conv : Nat) : Nat := max (numAt d.fba.slot conv) ((d.tm.q + 199) / 200)

/-- The block at the beginning of that slot. -/
def Dev.slotBegun (d : Dev) (conv : Nat) : Dev :=
  ({ d with fba := { d.fba with slot := setAt d.fba.slot conv (d.slotNumber conv + 1) } }).advanceTo (200 * d.slotNumber conv)

theorem Dev.fbaSlot_eq (d : Dev) (conv : Nat) (raw : Int) :
    d.fbaSlot conv raw = ((d.slotBegun conv).trigNext conv).convSlot conv (500 * d.slotNumber conv) raw := rfl

/-! ## A queued start is taken between triggered sequences only (R200) -/

section
variable (d : Dev) (conv : Nat)

/-- Taking a queued start touches no register, no control conversion and no result. -/
theorem Dev.trigNext_keeps : (d.trigNext conv).regs = d.regs ∧ (d.trigNext conv).fba.ctlTodo = d.fba.ctlTodo ∧
    (d.trigNext conv).fba.ctl = d.fba.ctl ∧ (d.trigNext conv).fba.trig = d.fba.trig ∧ (d.trigNext conv).fba.back = d.fba.back := by
  unfold Dev.trigNext
  split
  · exact ⟨rfl, rfl, rfl, rfl, rfl⟩
  · exact ⟨rfl, rfl, rfl, rfl, rfl⟩

variable {d conv}

theorem Dev.trigNext_of_sequence {ch : Nat} {rest : List Nat} (h : d.fba.trigTodo.getD conv [] = ch :: rest) : d.trigNext conv = d :=
  if_neg (by simp only [h, List.isEmpty_cons, Bool.false_and, Bool.false_eq_true, not_false_eq_true])

theorem Dev.trigNext_of_no_start (h : numAt d.fba.starts conv = 0) : d.trigNext conv = d :=
  if_neg (by simp only [h, lt_irrefl, decide_false, Bool.and_false, Bool.false_eq_true, not_false_eq_true])

end

/-! ## What the slot converts -/

section
variable {d : Dev} {conv ns ch : Nat} {raw : Int} {rest : List Nat}

theorem Dev.convSlot_control (h : d.fba.ctlTodo.getD conv [] = ch :: rest) : d.convSlot conv ns raw =
    { d with fba := { d.fba with ctlTodo := setAt d.fba.ctlTodo conv rest, ctl := setAt d.fba.ctl ch (wrap raw 16) } } := by
  simp only [Dev.convSlot, h]

theorem Dev.convSlot_triggered (hctl : d.fba.ctlTodo.getD conv [] = []) (h : d.fba.trigTodo.getD conv [] = ch :: rest) :
    d.convSlot conv ns raw =
      { d with fba := { d.fba with trigTodo := setAt d.fba.trigTodo conv rest, trig := setAt d.fba.trig ch (wrap raw 16) } } := by
  simp only [Dev.convSlot, hctl, h]

theorem Dev.convSlot_scanned (hctl : d.fba.ctlTodo.getD conv [] = []) (htrig : d.fba.trigTodo.getD conv [] = [])
    (h : d.scanDue conv ns = some ch) : ∃ due, d.convSlot conv ns raw = ({ d with fba := { d.fba with dueDone := due } }).scanSample ch ns raw := by
  simp only [Dev.convSlot, hctl, htrig, h]
  exact ⟨_, rfl⟩

theorem Dev.convSlot_idle (hctl : d.fba.ctlTodo.getD conv [] = []) (htrig : d.fba.trigTodo.getD conv [] = [])
    (h : d.scanDue conv ns = none) : d.convSlot conv ns raw = d := by
  simp only [Dev.convSlot, hctl, htrig, h]

/-- A background sample with neither guard nor integrator is shown as it is (R202, R203). -/
theorem Dev.backSample_plain {x : Int} (hguard : d.on (R.FBA_CHCFG.GUARD ch) = false) (hinteg : d.on (R.FBA_CHCFG.INTEG ch) = false) :
    d.backSample ch x = ({ d with fba := { d.fba with back := setAt d.fba.back ch x } }).wrS (R.FBA_RAW.VALUE ch) x := by
  simp only [Dev.backSample, hguard, hinteg, Bool.false_eq_true, if_false]

/-- Keeping a sample for metrology changes the history alone. -/
theorem Dev.histPush_eq (d : Dev) (ch ns : Nat) (x : Int) : ∃ hist, d.histPush ch ns x = { d with fba := { d.fba with hist := hist } } := by
  unfold Dev.histPush
  split
  · exact ⟨_, rfl⟩
  · exact ⟨_, rfl⟩

theorem Dev.scanSample_plain (hch : ch < 32) (hguard : d.on (R.FBA_CHCFG.GUARD ch) = false) (hinteg : d.on (R.FBA_CHCFG.INTEG ch) = false) :
    (d.scanSample ch ns raw).rdS (R.FBA_RAW.VALUE ch) = wrap raw 16 ∧ d.RegsBut [R.FBA_RAW.VALUE ch] (d.scanSample ch ns raw) ∧
    (d.scanSample ch ns raw).fba.ctl = d.fba.ctl ∧ (d.scanSample ch ns raw).fba.trig = d.fba.trig := by
  obtain ⟨hist, hpush⟩ := Dev.histPush_eq (d.backSample ch (wrap raw 16)) ch ns (wrap raw 16)
  have hsample : d.scanSample ch ns raw = (d.backSample ch (wrap raw 16)).histPush ch ns (wrap raw 16) := if_pos hch
  rw [hsample, hpush, Dev.backSample_plain hguard hinteg]
  exact ⟨(Dev.rdS_wrS _ (R.FBA_RAW.VALUE ch) _).trans (wrap32_wrap16 raw), Dev.regsBut_wr rfl, rfl, rfl⟩

end

/-! ## The answer of a slot -/

theorem exec_fbaConversionSlot (conv : Fin 2) (raw : Int) (s : State) :
    exec (.fbaConversionSlot conv raw) s = done s (fun d => if d.domOn .f4 then d.fbaSlot conv raw else d) := rfl

section
variable {s : State} {conv : Fin 2} (raw : Int) (hon : s.dev.domOn .f4 = true)
include hon

theorem answers_fbaConversionSlot_control {ch : Nat} {rest : List Nat} (htodo : s.dev.fba.ctlTodo.getD conv [] = ch :: rest)
    (hch : ch < s.dev.fba.ctl.length) (hconv : conv.val < s.dev.fba.ctlTodo.length) :
    Answers (.fbaConversionSlot conv raw) s (fun t => t.fba.ctl.getD ch 0 = wrap raw 16 ∧ t.fba.ctlTodo.getD conv [] = rest ∧
      t.fba.trig = s.dev.fba.trig ∧ t.fba.back = s.dev.fba.back ∧ t.regs = s.dev.regs) := by
  refine answers_of_onF4 (exec_fbaConversionSlot conv raw s) hon ?_
  obtain ⟨hregs, hctlTodo, hctl, htrig, hback⟩ := (s.dev.slotBegun conv).trigNext_keeps conv
  rw [Dev.fbaSlot_eq, Dev.convSlot_control (by rw [hctlTodo]; exact htodo)]
  exact ⟨getD_setAt_self _ 0 (by rw [hctl]; exact hch), getD_setAt_self _ [] (by rw [hctlTodo]; exact hconv), htrig, hback, hregs⟩

theorem answers_fbaConversionSlot_triggered {ch : Nat} {rest : List Nat} (hctl : s.dev.fba.ctlTodo.getD conv [] = [])
    (htodo : s.dev.fba.trigTodo.getD conv [] = ch :: rest) (hch : ch < s.dev.fba.trig.length) (hconv : conv.val < s.dev.fba.trigTodo.length) :
    Answers (.fbaConversionSlot conv raw) s (fun t => t.fba.trig.getD ch 0 = wrap raw 16 ∧ t.fba.trigTodo.getD conv [] = rest ∧
      t.fba.ctl = s.dev.fba.ctl ∧ t.fba.back = s.dev.fba.back ∧ t.regs = s.dev.regs) := by
  refine answers_of_onF4 (exec_fbaConversionSlot conv raw s) hon ?_
  rw [Dev.fbaSlot_eq, Dev.trigNext_of_sequence (d := s.dev.slotBegun conv) htodo, Dev.convSlot_triggered (d := s.dev.slotBegun conv) hctl htodo]
  exact ⟨getD_setAt_self _ 0 hch, getD_setAt_self _ [] hconv, rfl, rfl, rfl⟩

theorem answers_fbaConversionSlot_scanned {ch : Nat} (hctl : s.dev.fba.ctlTodo.getD conv [] = [])
    (htrig : s.dev.fba.trigTodo.getD conv [] = []) (hstart : numAt s.dev.fba.starts conv = 0)
    (hdue : (s.dev.slotBegun conv).scanDue conv (500 * s.dev.slotNumber conv) = some ch) (hch : ch < 32)
    (hguard : s.dev.on (R.FBA_CHCFG.GUARD ch) = false) (hinteg : s.dev.on (R.FBA_CHCFG.INTEG ch) = false) :
    Answers (.fbaConversionSlot conv raw) s (fun t => t.rdS (R.FBA_RAW.VALUE ch) = wrap raw 16 ∧ s.dev.RegsBut [R.FBA_RAW.VALUE ch] t ∧
      t.fba.ctl = s.dev.fba.ctl ∧ t.fba.trig = s.dev.fba.trig) := by
  refine answers_of_onF4 (exec_fbaConversionSlot conv raw s) hon ?_
  obtain ⟨due, hslot⟩ := Dev.convSlot_scanned (raw := raw) (d := s.dev.slotBegun conv) hctl htrig hdue
  rw [Dev.fbaSlot_eq, Dev.trigNext_of_no_start (d := s.dev.slotBegun conv) hstart, hslot]
  exact Dev.scanSample_plain (d := { s.dev.slotBegun conv with fba := { (s.dev.slotBegun conv).fba with dueDone := due } }) hch hguard hinteg

theorem answers_fbaConversionSlot_idle (hctl : s.dev.fba.ctlTodo.getD conv [] = []) (htrig : s.dev.fba.trigTodo.getD conv [] = [])
    (hstart : numAt s.dev.fba.starts conv = 0) (hdue : (s.dev.slotBegun conv).scanDue conv (500 * s.dev.slotNumber conv) = none) :
    Answers (.fbaConversionSlot conv raw) s (fun t => t = s.dev.slotBegun conv) := by
  refine answers_of_onF4 (exec_fbaConversionSlot conv raw s) hon ?_
  rw [Dev.fbaSlot_eq, Dev.trigNext_of_no_start (d := s.dev.slotBegun conv) hstart, Dev.convSlot_idle (d := s.dev.slotBegun conv) hctl htrig hdue]

end

/-- Settles O26: what a slot converts is the first of the converter's three lists that has anything to do. -/
theorem converterSlotsServeControlFirst : Obligations.ConverterSlotsServeControlFirst := fun _ _ raw hon =>
  ⟨fun _ _ htodo hch hconv => answers_fbaConversionSlot_control raw hon htodo hch hconv,
    fun _ _ hctl htodo hch hconv => answers_fbaConversionSlot_triggered raw hon hctl htodo hch hconv,
    fun _ hctl htrig hstart hdue hch hguard hinteg => answers_fbaConversionSlot_scanned raw hon hctl htrig hstart hdue hch hguard hinteg,
    fun hctl htrig hstart hdue => answers_fbaConversionSlot_idle raw hon hctl htrig hstart hdue⟩

end Sys2Proof.Machine
end

section
/-! Laws of folds over the block that chapters 10 and 13 share: what no step of a fold changes, and a fold of which one step alone acts. -/

namespace Sys2Proof.Machine

section
variable {α β : Type} {d : Dev} {xs : List α} {f : Dev → α → Dev}

/-- What every step keeps, the fold keeps. -/
theorem Dev.forAll_induct {P : Dev → Prop} (hd : P d) (hkeep : ∀ e x, P e → P (f e x)) : P (d.forAll xs f) := by
  unfold Dev.forAll
  induction xs generalizing d with
  | nil => exact hd
  | cons x xs ih => exact ih (hkeep d x hd)

/-- What no step changes, the fold leaves as it is. -/
theorem Dev.forAll_keeps (view : Dev → β) (h : ∀ e x, view (f e x) = view e) : view (d.forAll xs f) = view d :=
  Dev.forAll_induct (P := fun e => view e = view d) rfl fun e x he => (h e x).trans he

theorem Dev.forAll_fixed (h : ∀ x ∈ xs, f d x = d) : d.forAll xs f = d := by
  unfold Dev.forAll
  induction xs with
  | nil => rfl
  | cons x xs ih =>
    obtain ⟨hx, hxs⟩ := List.forall_mem_cons.mp h
    rw [List.foldl_cons, hx, ih hxs]

/-- A fold in which every element but one finds nothing to do, before and after that one, is the step of that one. -/
theorem Dev.forAll_single {a : α} (hnodup : xs.Nodup) (ha : a ∈ xs) (hbefore : ∀ x ∈ xs, x ≠ a → f d x = d)
    (hafter : ∀ x ∈ xs, x ≠ a → f (f d a) x = f d a) : d.forAll xs f = f d a := by
  obtain ⟨before, after, rfl⟩ := List.append_of_mem ha
  have hne : a ∉ before ∧ a ∉ after := by
    simpa only [List.mem_append, not_or] using (List.nodup_cons.mp (List.nodup_middle.mp hnodup)).1
  calc d.forAll (before ++ a :: after) f
    _ = (f (d.forAll before f) a).forAll after f := by
      unfold Dev.forAll
      rw [List.foldl_append, List.foldl_cons]
    _ = (f d a).forAll after f := by
      rw [Dev.forAll_fixed (xs := before) fun x hx => hbefore x (List.mem_append_left _ hx) (ne_of_mem_of_not_mem hx hne.1)]
    _ = f d a := Dev.forAll_fixed fun x hx =>
      hafter x (List.mem_append_right _ (List.mem_cons_of_mem a hx)) (ne_of_mem_of_not_mem hx hne.2)

/-- What every step keeps and the step of one element establishes holds after a fold over a list with that element. -/
theorem Dev.forAll_establishes {a : α} {P Q : Dev → Prop} (ha : a ∈ xs) (hd : P d) (hkeep : ∀ e x, P e → P (f e x))
    (hmake : ∀ e, P e → Q (f e a)) (hstay : ∀ e x, Q e → Q (f e x)) : Q (d.forAll xs f) := by
  induction xs generalizing d with
  | nil => exact absurd ha List.not_mem_nil
  | cons x xs ih =>
    rcases List.mem_cons.mp ha with rfl | hmem
    · exact Dev.forAll_induct (xs := xs) (hmake d hd) hstay
    · exact ih hmem (hkeep d x hd)

end

end Sys2Proof.Machine
end

section
/-! The insulation monitors (R211, R212): enabling, half periods, and what a measurement shows and makes of the state. -/

namespace Sys2Proof.Machine

/-! ## Enabling (R212) -/

/-- The period of a monitor in ns: two half periods (R211). -/
def Dev.imdPeriod (d : Dev) (n : Nat) : Nat := 2 * clampNat (d.rd (R.IMD_CFG.HP n)) 100 10000 * 1000000

theorem Dev.imdPeriod_pos (d : Dev) (n : Nat) : 0 < d.imdPeriod n := by
  unfold Dev.imdPeriod clampNat
  split_ifs <;> omega

section
variable {d : Dev} {n : Nat}

theorem Dev.imdRt_setImd_self (x : ImdRt) (h : n < d.imd.length) : (d.setImd n x).imdRt n = x := getD_setAt_self x {} h

@[simp] theorem Dev.rd_setImd (x : ImdRt) (f : Fld) : (d.setImd n x).rd f = d.rd f := rfl

theorem Dev.rd_imdStatus_wr_en (v : Nat) : (d.wr (R.IMD_CTL.EN n) v).rd (R.IMD_CTL.STATUS n) = d.rd (R.IMD_CTL.STATUS n) :=
  Dev.rd_wr_ne _ _ _ _ (by simp [Fld.key, R.IMD_CTL.EN, R.IMD_CTL.STATUS])

theorem Dev.imdPeriod_wr_en (v : Nat) : (d.wr (R.IMD_CTL.EN n) v).imdPeriod n = d.imdPeriod n := by
  have hhp : (d.wr (R.IMD_CTL.EN n) v).rd (R.IMD_CFG.HP n) = d.rd (R.IMD_CFG.HP n) :=
    Dev.rd_wr_ne _ _ _ _ (by simp [Fld.key, R.IMD_CTL.EN, R.IMD_CFG.HP])
  simp only [Dev.imdPeriod, hhp]

theorem Dev.imdEnable_of_disabled (h : d.rd (R.IMD_CTL.STATUS n) = 0) : d.imdEnable n =
    (((d.wr (R.IMD_CTL.EN n) 1).setImd n { first := (d.stcNs + d.imdPeriod n - 1) / d.imdPeriod n * d.imdPeriod n }).wr
      (R.IMD_CTL.STATUS n) 1).wr (R.IMD_CTL.STATE n) 1 := by
  rw [← d.imdPeriod_wr_en 1]
  exact if_pos ((d.rd_imdStatus_wr_en 1).trans h)

theorem Dev.imdEnable_of_not_disabled (h : d.rd (R.IMD_CTL.STATUS n) ≠ 0) : d.imdEnable n = d.wr (R.IMD_CTL.EN n) 1 :=
  if_neg ((d.rd_imdStatus_wr_en 1).trans_ne h)

/-- A monitor that was DISABLED is ENABLED and SETTLING, from the next whole period of its measurement (R212). -/
theorem Dev.imdEnable_settles (h : d.rd (R.IMD_CTL.STATUS n) = 0) (hn : n < d.imd.length) :
    (d.imdEnable n).rd (R.IMD_CTL.EN n) = 1 ∧ (d.imdEnable n).rd (R.IMD_CTL.STATUS n) = 1 ∧ (d.imdEnable n).rd (R.IMD_CTL.STATE n) = 1 ∧
    d.stcNs ≤ ((d.imdEnable n).imdRt n).first ∧ ((d.imdEnable n).imdRt n).first % d.imdPeriod n = 0 ∧
    d.RegsBut [R.IMD_CTL.EN n, R.IMD_CTL.STATUS n, R.IMD_CTL.STATE n] (d.imdEnable n) := by
  have hen : d.RegsBut [R.IMD_CTL.EN n, R.IMD_CTL.STATUS n, R.IMD_CTL.STATE n] (d.wr (R.IMD_CTL.EN n) 1) := .wr (.refl _ d) (by simp)
  have hrt := Dev.imdRt_setImd_self (d := d.wr (R.IMD_CTL.EN n) 1)
    { first := (d.stcNs + d.imdPeriod n - 1) / d.imdPeriod n * d.imdPeriod n } hn
  have hfirst := congrArg ImdRt.first hrt
  rw [Dev.imdEnable_of_disabled h]
  refine ⟨?_, ?_, Dev.rd_wr .., hfirst ▸ le_roundUp _ (d.imdPeriod_pos n), hfirst ▸ Nat.mul_mod_left .., ?_⟩
  · rw [Dev.rd_wr_ne _ _ _ _ (by simp [Fld.key, R.IMD_CTL.EN, R.IMD_CTL.STATE]),
      Dev.rd_wr_ne _ _ _ _ (by simp [Fld.key, R.IMD_CTL.EN, R.IMD_CTL.STATUS]), Dev.rd_setImd]
    exact Dev.rd_wr ..
  · rw [Dev.rd_wr_ne _ _ _ _ (by simp [Fld.key, R.IMD_CTL.STATUS, R.IMD_CTL.STATE])]
    exact Dev.rd_wr ..
  · exact .wr (.wr (hen.of_regs rfl) (by simp)) (by simp)

end

/-! ## The values of a measurement (R211) -/

theorem imdRiso_lt (xp xn : Int) (vinj rnet : Nat) : imdRiso xp xn vinj rnet < 2 ^ 32 := by
  unfold imdRiso
  dsimp only
  split_ifs
  · decide
  · decide
  · exact Nat.lt_of_le_of_lt (Nat.min_le_right ..) (by decide)

/-- The resistance per unit of UREF, all ones beyond the range (R211). -/
def Dev.imdRatio (d : Dev) (n riso : Nat) : Nat := if riso = 0xFFFFFFFF then 0xFFFFFFFF else riso / max 1 (d.rd (R.IMD_UREF.UREF n))

theorem Dev.imdRatio_of_regs {d e : Dev} (h : e.regs = d.regs) (n riso : Nat) : e.imdRatio n riso = d.imdRatio n riso := by
  simp only [Dev.imdRatio, Dev.rd, h]

theorem Dev.imdRatio_lt (d : Dev) (n : Nat) {riso : Nat} (h : riso < 2 ^ 32) : d.imdRatio n riso < 2 ^ 32 := by
  unfold Dev.imdRatio
  split
  · decide
  · exact Nat.lt_of_le_of_lt (Nat.div_le_self ..) h

/-! ## A measurement: shown, then judged by Table 10-5 -/

/-- The block with a measurement shown, and known to the outputs whose monitor this is. -/
def Dev.imdShown (d : Dev) (n riso ratio : Nat) : Dev :=
  (d.wrAll [(R.IMD_RISO.VALUE n, riso), (R.IMD_RATIO.VALUE n, ratio)]).forAll (whichIdx (fun _ => true) d.out) (fun e o =>
    if e.rd (R.OUT_CFG.IMDCH o) = n then e.setOut o { e.outRt o with imdFresh := true } else e)

section
variable (d : Dev) (n ratio : Nat)

/-- The measurements in a row below FAULT, with this one. -/
def Dev.imdLow : Nat := if ratio < d.rd (R.IMD_THR.FAULT n) then (d.imdRt n).low + 1 else 0

/-- The measurements in a row that clear FAULT, with this one. -/
def Dev.imdHigh : Nat := if d.rd (R.IMD_THR.FAULT n) * 5 ≤ ratio * 4 then (d.imdRt n).high + 1 else 0

/-- The state that a measurement is judged in: SETTLING and INVALID end with it. -/
def Dev.imdState : Nat := if d.rd (R.IMD_CTL.STATE n) = 1 ∨ d.rd (R.IMD_CTL.STATE n) = 5 then 2 else d.rd (R.IMD_CTL.STATE n)

/-- The block with the measurement counted. -/
def Dev.imdCounted : Dev :=
  (d.setImd n { d.imdRt n with low := d.imdLow n ratio, high := d.imdHigh n ratio }).wr (R.IMD_CTL.STATE n) (d.imdState n)

/-- The block with the counted measurement judged by the rows of Table 10-5. -/
def Dev.imdJudged : Dev :=
  let e := d.imdCounted n ratio
  let conf := max 1 (d.rd (R.IMD_CFG.FCONF n))
  if d.imdState n = 4 then (if conf ≤ d.imdHigh n ratio then (e.wr (R.IMD_CTL.STATE n) 3).raise 52 2 [n, ratio] else e)
  else if conf ≤ d.imdLow n ratio then ((e.setImd n { e.imdRt n with high := 0 }).wr (R.IMD_CTL.STATE n) 4).raise 52 1 [n, ratio]
  else if d.imdState n = 2 ∧ ratio < d.rd (R.IMD_THR.WARN n) then (e.wr (R.IMD_CTL.STATE n) 3).raise 52 0 [n, ratio]
  else if d.imdState n = 3 ∧ d.rd (R.IMD_THR.WARN n) * 5 ≤ ratio * 4 then (e.wr (R.IMD_CTL.STATE n) 2).raise 52 2 [n, ratio]
  else e

end

section
variable {d : Dev} {n : Nat}

theorem Dev.imdMeasure_eq (hinj : d.injected 11 n = none) (riso : Nat) :
    d.imdMeasure n riso = (d.imdShown n riso (d.imdRatio n riso)).imdJudged n (d.imdRatio n riso) := by
  have huse : d.injUse 11 n = d := Dev.injUse_of_none (by rw [Dev.isInjected, hinj]; rfl)
  unfold Dev.imdMeasure
  simp only [hinj, huse]
  rfl

theorem Dev.imdShown_regs (riso ratio : Nat) :
    (d.imdShown n riso ratio).regs = (d.wrAll [(R.IMD_RISO.VALUE n, riso), (R.IMD_RATIO.VALUE n, ratio)]).regs :=
  Dev.forAll_keeps Dev.regs fun _ _ => by split <;> rfl

theorem Dev.imdShown_imd (riso ratio : Nat) : (d.imdShown n riso ratio).imd = d.imd :=
  Dev.forAll_keeps Dev.imd fun _ _ => by split <;> rfl

theorem Dev.imdCounted_regsBut (ratio : Nat) : d.RegsBut [R.IMD_CTL.STATE n] (d.imdCounted n ratio) := Dev.regsBut_wr rfl

theorem Dev.imdJudged_regsBut (ratio : Nat) : d.RegsBut [R.IMD_CTL.STATE n] (d.imdJudged n ratio) := by
  have hcounted := d.imdCounted_regsBut (n := n) ratio
  have hmoved : ∀ (e : Dev) (st kind : Nat), e.regs = (d.imdCounted n ratio).regs →
      d.RegsBut [R.IMD_CTL.STATE n] ((e.wr (R.IMD_CTL.STATE n) st).raise 52 kind [n, ratio]) :=
    fun e st kind he => .raise (.wr (hcounted.of_regs he) List.mem_cons_self) 52 kind [n, ratio]
  unfold Dev.imdJudged
  dsimp only
  split_ifs
  · exact hmoved _ 3 2 rfl
  · exact hcounted
  · exact hmoved _ 4 1 rfl
  · exact hmoved _ 3 0 rfl
  · exact hmoved _ 2 2 rfl
  · exact hcounted

/-- A ratio below FAULT keeps FAULT, and enters it from any other state once enough are counted in a row (Table 10-5). -/
theorem Dev.imdJudged_fault {ratio : Nat} (hratio : ratio < d.rd (R.IMD_THR.FAULT n))
    (hconf : max 1 (d.rd (R.IMD_CFG.FCONF n)) ≤ (d.imdRt n).low + 1) : (d.imdJudged n ratio).rd (R.IMD_CTL.STATE n) = 4 := by
  have hlow : max 1 (d.rd (R.IMD_CFG.FCONF n)) ≤ d.imdLow n ratio := by rwa [Dev.imdLow, if_pos hratio]
  have hhigh : ¬max 1 (d.rd (R.IMD_CFG.FCONF n)) ≤ d.imdHigh n ratio := by
    rw [Dev.imdHigh, if_neg (by omega)]
    omega
  by_cases hst : d.imdState n = 4
  · have hkept : d.imdJudged n ratio = d.imdCounted n ratio := (if_pos hst).trans (if_neg hhigh)
    rw [hkept, Dev.imdCounted, Dev.rd_wr, hst]
    rfl
  · have hentered : d.imdJudged n ratio = Dev.raise (Dev.wr _ (R.IMD_CTL.STATE n) 4) 52 1 [n, ratio] := (if_neg hst).trans (if_pos hlow)
    rw [hentered, Dev.raise_rd, Dev.rd_wr]
    rfl

/-- What a measurement with no injection leaves in the channel's registers (R211, R212). -/
theorem Dev.imdMeasure_shows (hinj : d.injected 11 n = none) {riso : Nat} (hriso : riso < 2 ^ 32) :
    (d.imdMeasure n riso).rd (R.IMD_RISO.VALUE n) = riso ∧ (d.imdMeasure n riso).rd (R.IMD_RATIO.VALUE n) = d.imdRatio n riso ∧
    (d.imdMeasure n riso).rd (R.IMD_CTL.STATUS n) = d.rd (R.IMD_CTL.STATUS n) ∧
    (d.imdRatio n riso < d.rd (R.IMD_THR.FAULT n) → max 1 (d.rd (R.IMD_CFG.FCONF n)) ≤ (d.imdRt n).low + 1 →
      (d.imdMeasure n riso).rd (R.IMD_CTL.STATE n) = 4) := by
  have hratio := d.imdRatio_lt n hriso
  have hrd : ∀ f : Fld, (d.imdShown n riso (d.imdRatio n riso)).rd f =
      ((d.wr (R.IMD_RISO.VALUE n) riso).wr (R.IMD_RATIO.VALUE n) (d.imdRatio n riso)).rd f :=
    fun f => congrArg (Regs.get · f) (Dev.imdShown_regs ..)
  have hkept : d.RegsBut [R.IMD_RISO.VALUE n, R.IMD_RATIO.VALUE n] (d.imdShown n riso (d.imdRatio n riso)) :=
    Dev.RegsBut.of_regs (.wr (.wr (.refl _ d) (by simp)) (by simp)) (Dev.imdShown_regs ..)
  have hjudged := (d.imdShown n riso (d.imdRatio n riso)).imdJudged_regsBut (n := n) (d.imdRatio n riso)
  have hrt : (d.imdShown n riso (d.imdRatio n riso)).imdRt n = d.imdRt n := congrArg (·.getD n {}) (Dev.imdShown_imd ..)
  rw [Dev.imdMeasure_eq hinj]
  refine ⟨?_, ?_, ?_, fun hlow hconf => Dev.imdJudged_fault ?_ ?_⟩
  · rw [hjudged _ (by simp [Fld.key, R.IMD_CTL.STATE, R.IMD_RISO.VALUE]; omega), hrd,
      Dev.rd_wr_ne _ _ _ _ (by simp [Fld.key, R.IMD_RATIO.VALUE, R.IMD_RISO.VALUE])]
    exact (Dev.rd_wr ..).trans (Nat.mod_eq_of_lt hriso)
  · rw [hjudged _ (by simp [Fld.key, R.IMD_CTL.STATE, R.IMD_RATIO.VALUE]; omega), hrd]
    exact (Dev.rd_wr ..).trans (Nat.mod_eq_of_lt hratio)
  · rw [hjudged _ (by simp [Fld.key, R.IMD_CTL.STATE, R.IMD_CTL.STATUS]),
      hkept _ (by simp [Fld.key, R.IMD_CTL.STATUS, R.IMD_RISO.VALUE, R.IMD_RATIO.VALUE]; omega)]
  · rwa [hkept _ (by simp [Fld.key, R.IMD_THR.FAULT, R.IMD_RISO.VALUE, R.IMD_RATIO.VALUE])]
  · rwa [hkept _ (by simp [Fld.key, R.IMD_CFG.FCONF, R.IMD_RISO.VALUE, R.IMD_RATIO.VALUE]; omega), hrt]

/-! ## Half periods (R211) -/

/-- The block at the end of the monitor's present half period. -/
def Dev.imdHalfOver (d : Dev) (n : Nat) : Dev :=
  d.advanceTo (stepsOfNs ((d.imdRt n).first + ((d.imdRt n).half + 1) * clampNat (d.rd (R.IMD_CFG.HP n)) 100 10000 * 1000000))

/-- The block with the run of unsettled half periods ended. -/
def Dev.imdSettle (d : Dev) (n : Nat) : Dev := d.setImd n { d.imdRt n with unsettled := 0 }

/-- The half period that ends, taken into the measurement: the first full period is discarded, and a settled low half
after a settled high half is a measurement. -/
def Dev.imdTaken (d : Dev) (n : Nat) : Dev :=
  if (d.imdRt n).half < 2 then d
  else match d.imdSettled n with
    | none => d.imdUnsettled n
    | some xn =>
      let e := d.imdSettle n
      if (d.imdRt n).half % 2 = 0 then e
      else match (d.imdRt n).xp with
        | some xp => e.imdMeasure n (imdRiso xp xn (e.rd (R.IMD_NET.VINJ n)) (e.rd (R.IMD_NET.RNET n)))
        | none => e

theorem Dev.imdHalf_eq : d.imdHalf n =
    let e := (d.imdHalfOver n).imdTaken n
    if e.rd (R.IMD_CTL.STATUS n) = 2 then e.imdOff n
    else e.setImd n { e.imdRt n with half := (d.imdRt n).half + 1, samples := [], xp := if (d.imdRt n).half % 2 = 0 then d.imdSettled n else none } := rfl

/-- A monitor that is not being disabled goes on to its next half period. -/
theorem Dev.imdHalf_enabled {e : Dev} (htaken : (d.imdHalfOver n).imdTaken n = e) (hstatus : e.rd (R.IMD_CTL.STATUS n) = 1) :
    ∃ xp, d.imdHalf n = e.setImd n { e.imdRt n with half := (d.imdRt n).half + 1, samples := [], xp := xp } := by
  rw [Dev.imdHalf_eq, htaken]
  exact ⟨_, if_neg (hstatus.trans_ne (by decide))⟩

theorem Dev.imdTaken_discarded (h : (d.imdRt n).half < 2) : d.imdTaken n = d := if_pos h

theorem Dev.imdTaken_measured {xp xn : Int} (hhalf : 2 ≤ (d.imdRt n).half) (hlow : (d.imdRt n).half % 2 = 1)
    (hxn : d.imdSettled n = some xn) (hxp : (d.imdRt n).xp = some xp) : d.imdTaken n = (d.imdSettle n).imdMeasure n
      (imdRiso xp xn (d.rd (R.IMD_NET.VINJ n)) (d.rd (R.IMD_NET.RNET n))) := by
  have hhigh : ¬(d.imdRt n).half % 2 = 0 := by omega
  simp only [Dev.imdTaken, if_neg (Nat.not_lt.mpr hhalf), if_neg hhigh, hxn, hxp]
  rfl

/-- The first full period leaves the registers, whichever half of it ends. -/
theorem Dev.imdHalf_discards (hstatus : d.rd (R.IMD_CTL.STATUS n) = 1) (hhalf : (d.imdRt n).half < 2) (hn : n < d.imd.length) :
    (d.imdHalf n).regs = d.regs ∧ ((d.imdHalf n).imdRt n).half = (d.imdRt n).half + 1 ∧ ((d.imdHalf n).imdRt n).samples = [] := by
  obtain ⟨xp, hend⟩ := Dev.imdHalf_enabled (Dev.imdTaken_discarded (d := d.imdHalfOver n) hhalf) hstatus
  have hrt := Dev.imdRt_setImd_self (d := d.imdHalfOver n)
    { (d.imdHalfOver n).imdRt n with half := (d.imdRt n).half + 1, samples := [], xp := xp } hn
  rw [hend, hrt]
  exact ⟨rfl, rfl, rfl⟩

/-- The end of a settled low half whose high half was settled shows the measurement and judges it. -/
theorem Dev.imdHalf_measures {xp xn : Int} (hstatus : d.rd (R.IMD_CTL.STATUS n) = 1) (hhalf : 2 ≤ (d.imdRt n).half)
    (hlow : (d.imdRt n).half % 2 = 1) (hn : n < d.imd.length) (hxn : d.imdSettled n = some xn) (hxp : (d.imdRt n).xp = some xp)
    (hinj : d.injected 11 n = none) :
    let riso := imdRiso xp xn (d.rd (R.IMD_NET.VINJ n)) (d.rd (R.IMD_NET.RNET n))
    (d.imdHalf n).rd (R.IMD_RISO.VALUE n) = riso ∧ (d.imdHalf n).rd (R.IMD_RATIO.VALUE n) = d.imdRatio n riso ∧
    (d.imdRatio n riso < d.rd (R.IMD_THR.FAULT n) → max 1 (d.rd (R.IMD_CFG.FCONF n)) ≤ (d.imdRt n).low + 1 →
      (d.imdHalf n).rd (R.IMD_CTL.STATE n) = 4) := by
  intro riso
  have htaken : (d.imdHalfOver n).imdTaken n = ((d.imdHalfOver n).imdSettle n).imdMeasure n riso :=
    Dev.imdTaken_measured hhalf hlow hxn hxp
  have hrt : ((d.imdHalfOver n).imdSettle n).imdRt n = { d.imdRt n with unsettled := 0 } := Dev.imdRt_setImd_self _ hn
  have hkept : ((d.imdHalfOver n).imdSettle n).regs = d.regs := rfl
  have hlt : riso < 2 ^ 32 := imdRiso_lt ..
  obtain ⟨hriso, hratio, hshown, hfault⟩ := Dev.imdMeasure_shows (d := (d.imdHalfOver n).imdSettle n) hinj hlt
  obtain ⟨_, hend⟩ := Dev.imdHalf_enabled htaken (hshown.trans hstatus)
  rw [Dev.imdRatio_of_regs hkept] at hratio hfault
  rw [hrt] at hfault
  simp only [hend, Dev.rd_setImd]
  exact ⟨hriso, hratio, hfault⟩

end

/-! ## The answers of the monitors' commands -/

theorem exec_imdEnable (n : Fin 4) (s : State) : exec (.imdEnable n) s = done s (fun d => if d.domOn .f4 then d.imdEnable n else d) := rfl

theorem exec_imdHalfPeriodEnd (n : Fin 4) (s : State) : exec (.imdHalfPeriodEnd n) s = done s (fun d =>
    if d.domOn .f4 && decide (d.rd (R.IMD_CTL.STATUS n) ≠ 0) then d.imdHalf n else d) := rfl

theorem answers_imdHalfPeriodEnd {s : State} {n : Fin 4} {P : Dev → Prop} (hon : s.dev.domOn .f4 = true)
    (hstatus : s.dev.rd (R.IMD_CTL.STATUS n) = 1) (hP : P (s.dev.imdHalf n)) : Answers (.imdHalfPeriodEnd n) s P :=
  answers_of_done (exec_imdHalfPeriodEnd n s) (by rwa [if_pos (by simp [hon, hstatus])])

/-- Settles O27: enabling has the two cases of STATUS, and the end of a half period those of the half that ends. -/
theorem insulationMonitorsMeasure : Obligations.InsulationMonitorsMeasure := fun s n hon =>
  ⟨fun hstatus hn => answers_of_onF4 (exec_imdEnable n s) hon (Dev.imdEnable_settles hstatus hn),
    fun hstatus => answers_of_onF4 (exec_imdEnable n s) hon (Dev.imdEnable_of_not_disabled hstatus),
    fun hstatus hhalf hn => answers_imdHalfPeriodEnd hon hstatus (Dev.imdHalf_discards hstatus hhalf hn),
    fun _ _ hstatus hhalf hlow hn hxn hxp hinj =>
      answers_imdHalfPeriodEnd hon hstatus (Dev.imdHalf_measures hstatus hhalf hlow hn hxn hxp hinj)⟩

end Sys2Proof.Machine
end

section
/-! The contactor sequencer (R205 to R210): starts, the CLOSE step at a boundary and at its time-out, and coils that differ from
their feedback. -/

namespace Sys2Proof.Machine

/-! ## Registers other than those listed -/

theorem Dev.RegsBut.mono {fs gs : List Fld} {d e : Dev} (h : d.RegsBut fs e) (hsub : fs ⊆ gs) : d.RegsBut gs e :=
  fun g hg => h g fun f hf => hg f (hsub hf)

theorem Dev.wr_regs_congr {d e : Dev} (h : e.regs = d.regs) (f : Fld) (v : Nat) : (e.wr f v).regs = (d.wr f v).regs :=
  congrArg (Regs.set · f v) h

theorem Dev.bump_regs_congr {d e : Dev} (h : e.regs = d.regs) (f : Fld) : (e.bump f).regs = (d.bump f).regs := by
  have hrd : e.rd f = d.rd f := congrArg (Regs.get · f) h
  simp only [Dev.bump, Dev.bumpBy, hrd, Dev.wr_regs_congr h]

/-! ## One bit of a coil word -/

theorem testBit_clearBit_self (v i : Nat) : testBit (clearBit v i) i = false := by
  unfold clearBit
  split
  case isTrue hset =>
    have hodd : v / 2 ^ i % 2 = 1 := of_decide_eq_true hset
    have hdiv : (v - 2 ^ i) / 2 ^ i = v / 2 ^ i - 1 := by simpa using Nat.sub_mul_div v (2 ^ i) 1
    refine decide_eq_false ?_
    rw [bit, hdiv]
    omega
  case isFalse hclear => exact eq_false_of_ne_true hclear

section
variable {d e : Dev} {f : Nat → Fld} {fs : List Fld}

theorem Dev.coilBit_setCoilBit_self (hwidth : ∀ i, (f i).width = 32) (c : Nat) (v : Bool) : (d.setCoilBit f c v).coilBit f c = v := by
  have hlt : c % 32 < 32 := Nat.mod_lt _ (by decide)
  rw [Dev.coilBit, Dev.setCoilBit, Dev.rd_wr, hwidth, testBit_mod_two_pow hlt]
  cases v
  · exact testBit_clearBit_self ..
  · exact testBit_setBit_self ..

theorem Dev.RegsBut.coilBit (h : d.RegsBut fs e) (hfs : ∀ i, ∀ g ∈ fs, g.key ≠ (f i).key) (c : Nat) : e.coilBit f c = d.coilBit f c := by
  rw [Dev.coilBit, Dev.coilBit, h _ (hfs _)]

theorem Dev.RegsBut.setCoilBit {c : Nat} (h : d.RegsBut fs e) (hf : f (c / 32) ∈ fs) (v : Bool) : d.RegsBut fs (e.setCoilBit f c v) := h.wr hf

end

/-! ## Engines -/

section
variable {d : Dev} {e : Nat}

theorem Dev.engRt_setEng_self (x : EngRt) (h : e < d.ctr.eng.length) : (d.setEng e x).engRt e = x := getD_setAt_self x {} h

theorem Dev.setEng_regsBut (x : EngRt) : d.RegsBut [R.CTR_ENG.SEQ e, R.CTR_ENG.STEP e] (d.setEng e x) :=
  .wr (f := R.CTR_ENG.STEP e) (.wr (f := R.CTR_ENG.SEQ e) (.of_eq _ rfl) (by simp)) (by simp)

/-- An engine whose step has not begun has a place of its own. -/
theorem Dev.lt_length_of_fresh (h : (d.engRt e).fresh = true) : e < d.ctr.eng.length :=
  lt_length_of_getD_ne (x := {}) fun hdefault => absurd ((congrArg EngRt.fresh hdefault).symm.trans h) (by decide)

theorem Dev.engBusy_of_running (h : d.rd (R.CTR_ENG.STATE e) = 1) : d.engBusy e = true := by simp [Dev.engBusy, h]

theorem Dev.RegsBut.engBusy {fs : List Fld} {d' : Dev} (h : d.RegsBut fs d') (hfs : ∀ f ∈ fs, f.key ≠ (R.CTR_ENG.STATE e).key) :
    d'.engBusy e = d.engBusy e := by
  rw [Dev.engBusy, Dev.engBusy, h _ hfs]

/-- The interlock check reads coils and feedback alone. -/
theorem Dev.RegsBut.ilkOk {fs : List Fld} {d' : Dev} (h : d.RegsBut fs d') (hcoil : ∀ i, ∀ f ∈ fs, f.key ≠ (R.CTR_COIL.BIT i).key)
    (hfb : ∀ i, ∀ f ∈ fs, f.key ≠ (R.CTR_FB.BIT i).key) (t : CtrDef) (st : StepRec) : d'.ilkOk t st = d.ilkOk t st := by
  have hon : ∀ c, d'.coilOn c = d.coilOn c := h.coilBit hcoil
  have hclosed : ∀ c, d'.coilClosed c = d.coilClosed c := h.coilBit hfb
  simp only [Dev.ilkOk, hon, hclosed]

end

/-! ## A start that failed and has no FAILSEQ (R210) -/

section
variable (d : Dev) (e : Nat)

theorem Dev.outSeqEnd_failed_regs (code : Nat) : (d.outSeqEnd e (some code)).regs = d.regs :=
  Dev.forAll_keeps Dev.regs fun _ _ => by
    simp only [Option.isNone_some, Bool.false_eq_true, if_false]
    split <;> rfl

theorem Dev.engNotify_failed_regs (code : Nat) : (d.engNotify e (some code)).regs = d.regs := by
  unfold Dev.engNotify
  rw [Dev.outSeqEnd_failed_regs]
  split <;> rfl

theorem Dev.engEnd_regs (state : Nat) : (d.engEnd e state).regs = ((d.wr (R.CTR_ENG.STATE e) state).bump R.CTR_CNT.FAILED).regs :=
  Dev.engNotify_failed_regs ..

variable {d e}

/-- A first failure without FAILSEQ leaves its code and FAILED, and is counted. -/
theorem Dev.engFail_last_regs (hstate : d.rd (R.CTR_ENG.STATE e) = 1) (hfail : (d.engRt e).defs.failOf (d.engRt e).seq = none) (code : Nat) :
    (d.engFail e code).regs = (((d.wr (R.CTR_ENG.CODE e) code).wr (R.CTR_ENG.STATE e) 3).bump R.CTR_CNT.FAILED).regs := by
  have hrecover : ¬(d.raise 54 1 [e, (d.engRt e).seq, code]).rd (R.CTR_ENG.STATE e) = 2 := by
    rw [Dev.raise_rd, hstate]
    decide
  have hcode := Dev.wr_regs_congr (d.raise_regs 54 1 [e, (d.engRt e).seq, code]) (R.CTR_ENG.CODE e) code
  unfold Dev.engFail
  simp only [hrecover, if_false, hfail]
  rw [Dev.engFailLast, Dev.engEnd_regs]
  exact Dev.bump_regs_congr (Dev.wr_regs_congr ((Dev.outSeqEnd_failed_regs ..).trans hcode) ..) _

theorem Dev.engFail_last (hstate : d.rd (R.CTR_ENG.STATE e) = 1) (hfail : (d.engRt e).defs.failOf (d.engRt e).seq = none) {code : Nat}
    (hcode : code < 16) : (d.engFail e code).rd (R.CTR_ENG.STATE e) = 3 ∧ (d.engFail e code).rd (R.CTR_ENG.CODE e) = code ∧
      (d.engFail e code).rd R.CTR_CNT.FAILED = min 255 (d.rd R.CTR_CNT.FAILED + 1) ∧
      d.RegsBut [R.CTR_ENG.CODE e, R.CTR_ENG.STATE e, R.CTR_CNT.FAILED] (d.engFail e code) := by
  have hregs := Dev.engFail_last_regs hstate hfail code
  have hrd : ∀ f : Fld, (d.engFail e code).rd f = (((d.wr (R.CTR_ENG.CODE e) code).wr (R.CTR_ENG.STATE e) 3).bump R.CTR_CNT.FAILED).rd f :=
    fun f => congrArg (Regs.get · f) hregs
  refine ⟨?_, ?_, ?_, .of_regs (.wr (.wr (.wr (.refl _ d) (by simp)) (by simp)) (by simp)) hregs⟩
  · rw [hrd, Dev.bump, Dev.bumpBy, Dev.rd_wr_ne _ _ _ _ (by simp [Fld.key, R.CTR_ENG.STATE, R.CTR_CNT.FAILED]; omega), Dev.rd_wr]
    rfl
  · rw [hrd, Dev.bump, Dev.bumpBy, Dev.rd_wr_ne _ _ _ _ (by simp [Fld.key, R.CTR_ENG.CODE, R.CTR_CNT.FAILED]; omega),
      Dev.rd_wr_ne _ _ _ _ (by simp [Fld.key, R.CTR_ENG.CODE, R.CTR_ENG.STATE]), Dev.rd_wr]
    exact Nat.mod_eq_of_lt hcode
  · rw [hrd, Dev.rd_bump, Dev.rd_wr_ne _ _ _ _ (by simp [Fld.key, R.CTR_ENG.STATE, R.CTR_CNT.FAILED]; omega),
      Dev.rd_wr_ne _ _ _ _ (by simp [Fld.key, R.CTR_ENG.CODE, R.CTR_CNT.FAILED]; omega)]
    rfl

end

/-! ## A CLOSE step begins (R207) -/

/-- The block in which the engine's present step has begun. -/
def Dev.engBegun (d : Dev) (e : Nat) : Dev := d.setEng e { d.engRt e with fresh := false, met := false }

section
variable {d : Dev} {e : Nat}

theorem Dev.engBegun_regsBut : d.RegsBut [R.CTR_ENG.SEQ e, R.CTR_ENG.STEP e] (d.engBegun e) := Dev.setEng_regsBut _

theorem Dev.engBegun_ilkOk (t : CtrDef) (st : StepRec) : (d.engBegun e).ilkOk t st = d.ilkOk t st :=
  Dev.engBegun_regsBut.ilkOk (fun i => by simp [Fld.key, R.CTR_ENG.SEQ, R.CTR_ENG.STEP, R.CTR_COIL.BIT]; omega)
    (fun i => by simp [Fld.key, R.CTR_ENG.SEQ, R.CTR_ENG.STEP, R.CTR_FB.BIT]; omega) t st

theorem Dev.engRt_engBegun (h : e < d.ctr.eng.length) : (d.engBegun e).engRt e = { d.engRt e with fresh := false, met := false } :=
  Dev.engRt_setEng_self _ h

/-- A CLOSE that its interlocks allow energises the coil; one that they forbid fails with code 4. -/
theorem Dev.stepBegin_close (he : e < d.ctr.eng.length) (hop : (d.engStep e).op = 1) : d.stepBegin e =
    if d.ilkOk (d.engRt e).defs (d.engStep e) then ((d.engBegun e).setCoilBit R.CTR_COIL.BIT (d.engStep e).arg true, 0) else (d.engBegun e, 4) := by
  have hilk : (d.engBegun e).ilkOk ((d.engBegun e).engRt e).defs (d.engStep e) = d.ilkOk (d.engRt e).defs (d.engStep e) := by
    rw [Dev.engRt_engBegun he, Dev.engBegun_ilkOk]
  rw [← hilk]
  unfold Dev.stepBegin
  simp only [hop, true_or, if_true, decide_true]
  rfl

theorem Dev.engBegin_close (he : e < d.ctr.eng.length) (hop : (d.engStep e).op = 1)
    (hilk : d.ilkOk (d.engRt e).defs (d.engStep e) = true) :
    d.engBegin e = (d.engBegun e).setCoilBit R.CTR_COIL.BIT (d.engStep e).arg true := by
  simp only [Dev.engBegin, hop, one_ne_zero, if_false, Dev.stepBegin_close he hop, if_pos hilk, if_true]

theorem Dev.engBegin_refused (he : e < d.ctr.eng.length) (hop : (d.engStep e).op = 1)
    (hilk : d.ilkOk (d.engRt e).defs (d.engStep e) = false) : d.engBegin e = (d.engBegun e).engFail e 4 := by
  simp only [Dev.engBegin, hop, one_ne_zero, if_false, Dev.stepBegin_close he hop, if_neg (ne_true_of_eq_false hilk),
    OfNat.ofNat_ne_zero]

end

/-! ## A boundary with one engine busy (R205) -/

section
variable {d : Dev} {e : Nat}

theorem Dev.engAdvance_of_idle (h : d.engBusy e = false) : d.engAdvance e = d := by
  simp only [Dev.engAdvance, h, Bool.false_eq_true, if_false]

theorem Dev.engAdvance_of_fresh (hbusy : d.engBusy e = true) (hfresh : (d.engRt e).fresh = true) : d.engAdvance e = d.engBegin e := by
  simp only [Dev.engAdvance, hbusy, hfresh, if_true]

/-- A boundary acts on the one engine that is busy, when its step makes none of the others so. -/
theorem Dev.engines_advance_single (he : e < 8) (hidle : ∀ k, k < 8 → k ≠ e → d.engBusy k = false)
    (hstay : ∀ k, k < 8 → k ≠ e → (d.engAdvance e).engBusy k = d.engBusy k) : d.forAll (List.range 8) Dev.engAdvance = d.engAdvance e :=
  Dev.forAll_single List.nodup_range (List.mem_range.mpr he)
    (fun k hk hne => Dev.engAdvance_of_idle (hidle k (List.mem_range.mp hk) hne))
    (fun k hk hne => Dev.engAdvance_of_idle ((hstay k (List.mem_range.mp hk) hne).trans (hidle k (List.mem_range.mp hk) hne)))

theorem Dev.ctrDrained_regsBut : d.RegsBut [R.CTR_CTL.STATUS] d.ctrDrained := by
  unfold Dev.ctrDrained
  split
  · exact Dev.regsBut_wr rfl
  · exact .refl _ d

theorem Dev.ctrDrained_ctr : d.ctrDrained.ctr = d.ctr := d.ctrDrained_reach.onlyIn.ctr rfl

end

/-- The block at the next boundary with the feedback sampled, before the engines go on. -/
def Dev.ctrSampled (d : Dev) (fb : Nat) : Dev :=
  let a := d.advanceTo ((d.tm.q + 3999) / 4000 * 4000)
  ({ a with ctr := { a.ctr with raw := some fb } }).fbSample fb

theorem Dev.ctrBoundary_eq (d : Dev) (fb : Nat) : d.ctrBoundary fb = ((d.ctrSampled fb).forAll (List.range 8) Dev.engAdvance).ctrDrained := rfl

section
variable (d : Dev) (fb : Nat)

theorem fbWord_mem (i : Nat) : R.CTR_FB.BIT i ∈ [R.CTR_FB.BIT 0, R.CTR_FB.BIT 1] := by
  rcases Nat.mod_two_eq_zero_or_one i with h | h <;> simp [R.CTR_FB.BIT, h]

/-- Sampling the feedback writes its two words, and leaves the engines. -/
theorem Dev.fbSample_keeps : d.RegsBut [R.CTR_FB.BIT 0, R.CTR_FB.BIT 1] (d.fbSample fb) ∧ (d.fbSample fb).ctr.eng = d.ctr.eng := by
  refine Dev.forAll_induct (P := fun e => d.RegsBut [R.CTR_FB.BIT 0, R.CTR_FB.BIT 1] e ∧ e.ctr.eng = d.ctr.eng) ⟨.refl _ d, rfl⟩ ?_
  intro e r ⟨hregs, heng⟩
  split
  · exact ⟨hregs, heng⟩
  · extract_lets level closed n
    split
    · exact ⟨(hregs.of_regs rfl).setCoilBit (fbWord_mem _) _, heng⟩
    · exact ⟨hregs.of_regs rfl, heng⟩

theorem Dev.ctrSampled_regsBut : d.RegsBut [R.CTR_FB.BIT 0, R.CTR_FB.BIT 1] (d.ctrSampled fb) :=
  (Dev.RegsBut.of_eq _ rfl).trans (Dev.fbSample_keeps _ fb).1

theorem Dev.ctrSampled_engRt (e : Nat) : (d.ctrSampled fb).engRt e = d.engRt e := congrArg (·.getD e {}) (Dev.fbSample_keeps _ fb).2

theorem Dev.ctrSampled_engStep (e : Nat) : (d.ctrSampled fb).engStep e = d.engStep e := by
  simp only [Dev.engStep, Dev.ctrSampled_engRt]

theorem Dev.ctrSampled_engBusy (e : Nat) : (d.ctrSampled fb).engBusy e = d.engBusy e :=
  (d.ctrSampled_regsBut fb).engBusy (by simp [Fld.key, R.CTR_FB.BIT, R.CTR_ENG.STATE]; omega)

end

section
variable {d : Dev} {e fb : Nat}

/-- A boundary at which one engine is busy and begins its step, when that makes none of the others busy. -/
theorem Dev.ctrBoundary_single {x : Dev} (he : e < 8) (hbusy : d.engBusy e = true) (hfresh : (d.engRt e).fresh = true)
    (hidle : ∀ k, k < 8 → k ≠ e → d.engBusy k = false) (hx : (d.ctrSampled fb).engBegin e = x)
    (hstay : ∀ k, k < 8 → k ≠ e → x.engBusy k = (d.ctrSampled fb).engBusy k) : d.ctrBoundary fb = x.ctrDrained := by
  have hbegin : (d.ctrSampled fb).engAdvance e = x :=
    (Dev.engAdvance_of_fresh ((d.ctrSampled_engBusy fb e).trans hbusy) ((congrArg EngRt.fresh (d.ctrSampled_engRt fb e)).trans hfresh)).trans hx
  have hsingle := Dev.engines_advance_single (d := d.ctrSampled fb) he (fun k hk hne => (d.ctrSampled_engBusy fb k).trans (hidle k hk hne))
    (fun k hk hne => by rw [hbegin, hstay k hk hne])
  rw [Dev.ctrBoundary_eq, hsingle, hbegin]

theorem Dev.ctrSampled_lt_length (hfresh : (d.engRt e).fresh = true) : e < (d.ctrSampled fb).ctr.eng.length :=
  Dev.lt_length_of_fresh ((congrArg EngRt.fresh (d.ctrSampled_engRt fb e)).trans hfresh)

/-- A CLOSE that its interlocks allow at a boundary energises its coil, and its engine goes on. -/
theorem Dev.ctrBoundary_closes (he : e < 8) (hbusy : d.engBusy e = true) (hfresh : (d.engRt e).fresh = true)
    (hidle : ∀ k, k < 8 → k ≠ e → d.engBusy k = false) (hop : (d.engStep e).op = 1)
    (hilk : (d.ctrSampled fb).ilkOk ((d.ctrSampled fb).engRt e).defs ((d.ctrSampled fb).engStep e) = true) :
    (d.ctrBoundary fb).coilOn (d.engStep e).arg = true ∧ (d.ctrBoundary fb).rd (R.CTR_ENG.STATE e) = d.rd (R.CTR_ENG.STATE e) ∧
    ((d.ctrBoundary fb).engRt e).fresh = false := by
  have hlen := Dev.ctrSampled_lt_length (fb := fb) hfresh
  have hstep := d.ctrSampled_engStep fb e
  have hx := Dev.engBegin_close hlen ((congrArg StepRec.op hstep).trans hop) hilk
  rw [hstep] at hx
  have hregs : (d.ctrSampled fb).RegsBut [R.CTR_ENG.SEQ e, R.CTR_ENG.STEP e, R.CTR_COIL.BIT ((d.engStep e).arg / 32)]
      (((d.ctrSampled fb).engBegun e).setCoilBit R.CTR_COIL.BIT (d.engStep e).arg true) :=
    (Dev.engBegun_regsBut.mono (by simp)).setCoilBit (by simp) true
  have hstay : ∀ k, (((d.ctrSampled fb).engBegun e).setCoilBit R.CTR_COIL.BIT (d.engStep e).arg true).engBusy k = (d.ctrSampled fb).engBusy k :=
    fun k => hregs.engBusy (by simp [Fld.key, R.CTR_ENG.SEQ, R.CTR_ENG.STEP, R.CTR_COIL.BIT, R.CTR_ENG.STATE]; omega)
  rw [Dev.ctrBoundary_single he hbusy hfresh hidle hx fun k _ _ => hstay k]
  refine ⟨?_, ?_, ?_⟩
  · exact (Dev.ctrDrained_regsBut.coilBit (by simp [Fld.key, R.CTR_CTL.STATUS, R.CTR_COIL.BIT]; omega) _).trans
      (Dev.coilBit_setCoilBit_self (fun _ => rfl) _ true)
  · rw [Dev.ctrDrained_regsBut _ (by simp [Fld.key, R.CTR_CTL.STATUS, R.CTR_ENG.STATE]; omega),
      hregs _ (by simp [Fld.key, R.CTR_ENG.SEQ, R.CTR_ENG.STEP, R.CTR_COIL.BIT, R.CTR_ENG.STATE]; omega),
      d.ctrSampled_regsBut fb _ (by simp [Fld.key, R.CTR_FB.BIT, R.CTR_ENG.STATE]; omega)]
  · rw [Dev.engRt, Dev.ctrDrained_ctr]
    exact congrArg EngRt.fresh (Dev.engRt_engBegun hlen)

/-- A CLOSE that an interlock forbids at a boundary fails with code 4 and leaves its coil. -/
theorem Dev.ctrBoundary_refuses (he : e < 8) (hbusy : d.engBusy e = true) (hfresh : (d.engRt e).fresh = true)
    (hidle : ∀ k, k < 8 → k ≠ e → d.engBusy k = false) (hop : (d.engStep e).op = 1)
    (hilk : (d.ctrSampled fb).ilkOk ((d.ctrSampled fb).engRt e).defs ((d.ctrSampled fb).engStep e) = false)
    (hfail : (d.engRt e).defs.failOf (d.engRt e).seq = none) (hstate : d.rd (R.CTR_ENG.STATE e) = 1) :
    (d.ctrBoundary fb).rd (R.CTR_ENG.STATE e) = 3 ∧ (d.ctrBoundary fb).rd (R.CTR_ENG.CODE e) = 4 ∧
    (d.ctrBoundary fb).coilOn (d.engStep e).arg = d.coilOn (d.engStep e).arg := by
  have hlen := Dev.ctrSampled_lt_length (fb := fb) hfresh
  have hx := Dev.engBegin_refused hlen ((congrArg StepRec.op (d.ctrSampled_engStep fb e)).trans hop) hilk
  have hbegun : d.RegsBut [R.CTR_FB.BIT 0, R.CTR_FB.BIT 1, R.CTR_ENG.SEQ e, R.CTR_ENG.STEP e] ((d.ctrSampled fb).engBegun e) :=
    ((d.ctrSampled_regsBut fb).mono (by simp)).trans (Dev.engBegun_regsBut.mono (by simp))
  have hstate' : ((d.ctrSampled fb).engBegun e).rd (R.CTR_ENG.STATE e) = 1 :=
    (hbegun _ (by simp [Fld.key, R.CTR_FB.BIT, R.CTR_ENG.SEQ, R.CTR_ENG.STEP, R.CTR_ENG.STATE]; omega)).trans hstate
  have hfail' : (((d.ctrSampled fb).engBegun e).engRt e).defs.failOf (((d.ctrSampled fb).engBegun e).engRt e).seq = none := by
    rw [Dev.engRt_engBegun hlen, Dev.ctrSampled_engRt]
    exact hfail
  obtain ⟨hfailed, hcode, -, hregs⟩ := Dev.engFail_last hstate' hfail' (by decide : 4 < 16)
  have hstay : ∀ k, k < 8 → k ≠ e → (((d.ctrSampled fb).engBegun e).engFail e 4).engBusy k = (d.ctrSampled fb).engBusy k := fun k hk hne => by
    rw [hregs.engBusy (by simp [Fld.key, R.CTR_ENG.CODE, R.CTR_ENG.STATE, R.CTR_CNT.FAILED]; omega),
      Dev.engBegun_regsBut.engBusy (by simp [Fld.key, R.CTR_ENG.SEQ, R.CTR_ENG.STEP, R.CTR_ENG.STATE]; omega)]
  rw [Dev.ctrBoundary_single he hbusy hfresh hidle hx hstay]
  refine ⟨?_, ?_, ?_⟩
  · rwa [Dev.ctrDrained_regsBut _ (by simp [Fld.key, R.CTR_CTL.STATUS, R.CTR_ENG.STATE]; omega)]
  · rwa [Dev.ctrDrained_regsBut _ (by simp [Fld.key, R.CTR_CTL.STATUS, R.CTR_ENG.CODE]; omega)]
  · exact (Dev.ctrDrained_regsBut.coilBit (by simp [Fld.key, R.CTR_CTL.STATUS, R.CTR_COIL.BIT]; omega) _).trans
      ((hregs.coilBit (by simp [Fld.key, R.CTR_ENG.CODE, R.CTR_ENG.STATE, R.CTR_CNT.FAILED, R.CTR_COIL.BIT]; omega) _).trans
        (hbegun.coilBit (by simp [Fld.key, R.CTR_FB.BIT, R.CTR_ENG.SEQ, R.CTR_ENG.STEP, R.CTR_COIL.BIT]; omega) _))

end

/-! ## The time-out of a CLOSE step (R208) -/

section
variable {d : Dev} {e : Nat}

theorem Dev.ctrTimeout_close (hstate : d.rd (R.CTR_ENG.STATE e) = 1) (hfresh : (d.engRt e).fresh = false) (hop : (d.engStep e).op = 1)
    (hfb : ((d.engRt e).defs.coil (d.engStep e).arg).fb ≠ 0xFF) (hopen : d.coilClosed (d.engStep e).arg = false) :
    d.ctrTimeout e = (d.setCoilBit R.CTR_COIL.BIT (d.engStep e).arg false).engFail e 1 := by
  simp only [Dev.ctrTimeout, Dev.engBusy_of_running hstate, hfresh, hop, hfb, hopen, Bool.not_false, Bool.and_self, if_true,
    Bool.false_eq_true, or_self, if_false]

/-- A CLOSE that times out with its feedback open leaves the coil off and its engine FAILED with code 1. -/
theorem Dev.ctrTimeout_opens (hstate : d.rd (R.CTR_ENG.STATE e) = 1) (hfresh : (d.engRt e).fresh = false) (hop : (d.engStep e).op = 1)
    (hfb : ((d.engRt e).defs.coil (d.engStep e).arg).fb ≠ 0xFF) (hopen : d.coilClosed (d.engStep e).arg = false)
    (hfail : (d.engRt e).defs.failOf (d.engRt e).seq = none) :
    (d.ctrTimeout e).ctrDrained.coilOn (d.engStep e).arg = false ∧ (d.ctrTimeout e).ctrDrained.rd (R.CTR_ENG.STATE e) = 3 ∧
    (d.ctrTimeout e).ctrDrained.rd (R.CTR_ENG.CODE e) = 1 ∧
    (d.ctrTimeout e).ctrDrained.rd R.CTR_CNT.FAILED = min 255 (d.rd R.CTR_CNT.FAILED + 1) := by
  have hcoil : d.RegsBut [R.CTR_COIL.BIT ((d.engStep e).arg / 32)] (d.setCoilBit R.CTR_COIL.BIT (d.engStep e).arg false) :=
    Dev.regsBut_wr rfl
  have hstate' : (d.setCoilBit R.CTR_COIL.BIT (d.engStep e).arg false).rd (R.CTR_ENG.STATE e) = 1 :=
    (hcoil _ (by simp [Fld.key, R.CTR_COIL.BIT, R.CTR_ENG.STATE]; omega)).trans hstate
  obtain ⟨hfailed, hcode, hcount, hregs⟩ := Dev.engFail_last hstate' hfail (by decide : 1 < 16)
  rw [Dev.ctrTimeout_close hstate hfresh hop hfb hopen]
  refine ⟨?_, ?_, ?_, ?_⟩
  · exact (Dev.ctrDrained_regsBut.coilBit (by simp [Fld.key, R.CTR_CTL.STATUS, R.CTR_COIL.BIT]; omega) _).trans
      ((hregs.coilBit (by simp [Fld.key, R.CTR_ENG.CODE, R.CTR_ENG.STATE, R.CTR_CNT.FAILED, R.CTR_COIL.BIT]; omega) _).trans
        (Dev.coilBit_setCoilBit_self (fun _ => rfl) _ false))
  · rwa [Dev.ctrDrained_regsBut _ (by simp [Fld.key, R.CTR_CTL.STATUS, R.CTR_ENG.STATE]; omega)]
  · rwa [Dev.ctrDrained_regsBut _ (by simp [Fld.key, R.CTR_CTL.STATUS, R.CTR_ENG.CODE]; omega)]
  · rw [Dev.ctrDrained_regsBut _ (by decide), hcount, hcoil _ (by simp [Fld.key, R.CTR_COIL.BIT, R.CTR_CNT.FAILED]; omega)]

end

/-! ## Mismatch (R209) -/

theorem Dev.coilMismatch_marks {d : Dev} {c : Nat} (hidle : ∀ e, e < 8 → d.engBusy e = false) (hfb : (d.act.ctr.coil c).fb ≠ 0xFF)
    (hdiffer : d.coilOn c ≠ d.coilClosed c) :
    (d.coilMismatch c).coilBit R.CTR_MISM.BIT c = true ∧ d.RegsBut [R.CTR_MISM.BIT (c / 32)] (d.coilMismatch c) := by
  have hown : (List.range 8).any (fun e => d.engBusy e && !(d.engRt e).fresh && ((d.engStep e).op == 1 || (d.engStep e).op == 2) &&
      (d.engStep e).arg == c) = false :=
    List.any_eq_false.mpr fun e he => by simp [hidle e (List.mem_range.mp he)]
  have hmark : d.coilMismatch c = (d.setCoilBit R.CTR_MISM.BIT c true).raise 55 1 [c] := by
    unfold Dev.coilMismatch
    simp only [hown, hfb, hdiffer, decide_false, Bool.or_self, beq_eq_false_iff_ne.mpr, ne_eq, not_false_eq_true,
      Bool.false_eq_true, if_false]
  rw [hmark]
  refine ⟨?_, (Dev.regsBut_wr rfl).of_regs (Dev.raise_regs ..)⟩
  rw [Dev.coilBit, Dev.raise_rd]
  exact Dev.coilBit_setCoilBit_self (fun _ => rfl) c true

/-! ## Starts (R206) -/

section
variable {d : Dev} {n : Nat}

theorem Dev.ctrRefusal_le : d.ctrRefusal n ≤ 10 := by
  unfold Dev.ctrRefusal
  dsimp only
  split_ifs <;> decide

theorem Dev.engBusy_wr_start (q e : Nat) : (d.wr R.CTR_START.SEQ q).engBusy e = d.engBusy e :=
  Dev.RegsBut.engBusy (Dev.regsBut_wr rfl) (by simp [Fld.key, R.CTR_START.SEQ, R.CTR_ENG.STATE]; omega)

theorem Dev.act_wr_start (q : Nat) : (d.wr R.CTR_START.SEQ q).act = d.act := by
  have hkept : d.RegsBut [R.CTR_START.SEQ] (d.wr R.CTR_START.SEQ q) := Dev.regsBut_wr rfl
  rw [Dev.act, Dev.streamActive, Dev.on, hkept R.STS_BANK.ACTV (by decide), hkept R.STS_BANK.ACT (by decide)]
  rfl

/-- CTR_START shows a request and decides nothing about it. -/
theorem Dev.ctrRefusal_wr_start (q : Nat) : (d.wr R.CTR_START.SEQ q).ctrRefusal n = d.ctrRefusal n := by
  have hkept : d.RegsBut [R.CTR_START.SEQ] (d.wr R.CTR_START.SEQ q) := Dev.regsBut_wr rfl
  have hbusy : (d.wr R.CTR_START.SEQ q).engBusy = d.engBusy := funext (Dev.engBusy_wr_start q)
  have hctl : (d.wr R.CTR_START.SEQ q).rd R.CTR_CTL.STATUS = d.rd R.CTR_CTL.STATUS := hkept _ (by decide)
  have hmode : (d.wr R.CTR_START.SEQ q).mode = d.mode := by rw [Dev.mode, hkept R.FSYS_MODE.MODE (by decide), Dev.mode]
  simp only [Dev.ctrRefusal, hbusy, hctl, hmode, Dev.act_wr_start]
  rfl

/-- A start that nothing refuses finds an engine free. -/
theorem Dev.exists_free_engine (h : d.ctrRefusal n = 0) : ∃ e, e < 8 ∧ d.engBusy e = false ∧ (List.range 8).find? (fun k => !d.engBusy k) = some e := by
  cases hfind : (List.range 8).find? (fun k => !d.engBusy k) with
  | some e =>
    have hfree := List.find?_some hfind
    exact ⟨e, List.mem_range.mp (List.mem_of_find?_eq_some hfind), by simpa using hfree, rfl⟩
  | none =>
    have hall : (List.range 8).filter d.engBusy = List.range 8 :=
      List.filter_eq_self.mpr fun k hk => by simpa using List.find?_eq_none.mp hfind k hk
    have hlen : ((List.range 8).filter d.engBusy).length = 8 := by rw [hall, List.length_range]
    unfold Dev.ctrRefusal at h
    simp only [hlen, if_true] at h
    split_ifs at h

/-- The block with sequence `q` started in engine `e`. -/
def Dev.engLoaded (d : Dev) (q e : Nat) : Dev :=
  (((d.setEng e { defs := d.act.ctr, started := q, seq := q, fresh := true }).wr (R.CTR_ENG.STATE e) 1).wr (R.CTR_ENG.CODE e) 0).wr (R.CTR_ENG.NV e) 0

/-- The block with a start answered by engine `e`. -/
def Dev.startTaken (d : Dev) (e : Nat) : Dev := ((d.wr R.CTR_START.RESULT 1).wr R.CTR_START.CODE 0).wr R.CTR_START.ENGINE e

theorem Dev.ctrStart_taken (h : d.ctrRefusal (n % 64) = 0) : ∃ e, e < 8 ∧ d.engBusy e = false ∧ (d.ctrStart n).1 = ((d.wr R.CTR_START.SEQ (n % 64)).engLoaded (n % 64) e).startTaken e := by
  obtain ⟨e, he, hfree, hfind⟩ := Dev.exists_free_engine ((Dev.ctrRefusal_wr_start (n % 64)).trans h)
  refine ⟨e, he, (Dev.engBusy_wr_start (n % 64) e).symm.trans hfree, ?_⟩
  unfold Dev.ctrStart
  simp only [Dev.ctrRefusal_wr_start, h, hfind]
  rfl

theorem Dev.engLoaded_regsBut (q e : Nat) : d.RegsBut [R.CTR_ENG.SEQ e, R.CTR_ENG.STEP e, R.CTR_ENG.STATE e, R.CTR_ENG.CODE e, R.CTR_ENG.NV e]
    (d.engLoaded q e) :=
  .wr (.wr (.wr ((Dev.setEng_regsBut _).mono (by simp)) (by simp)) (by simp)) (by simp)

theorem Dev.startTaken_regsBut (e : Nat) : d.RegsBut [R.CTR_START.RESULT, R.CTR_START.CODE, R.CTR_START.ENGINE] (d.startTaken e) :=
  .wr (.wr (.wr (.refl _ d) (by simp)) (by simp)) (by simp)

/-- The engine shows its sequence, RUNNING at step 0 with no failure. -/
theorem Dev.engLoaded_shown {q : Nat} (hq : q < 64) (e : Nat) :
    (d.engLoaded q e).rd (R.CTR_ENG.STATE e) = 1 ∧ (d.engLoaded q e).rd (R.CTR_ENG.SEQ e) = q ∧
    (d.engLoaded q e).rd (R.CTR_ENG.STEP e) = 0 ∧ (d.engLoaded q e).rd (R.CTR_ENG.CODE e) = 0 := by
  refine ⟨?_, ?_, ?_, ?_⟩
  · rw [Dev.engLoaded, Dev.rd_wr_ne _ (R.CTR_ENG.NV e) _ _ (by simp [Fld.key, R.CTR_ENG.NV, R.CTR_ENG.STATE]),
      Dev.rd_wr_ne _ (R.CTR_ENG.CODE e) _ _ (by simp [Fld.key, R.CTR_ENG.CODE, R.CTR_ENG.STATE])]
    exact Dev.rd_wr ..
  · rw [Dev.engLoaded, Dev.rd_wr_ne _ (R.CTR_ENG.NV e) _ _ (by simp [Fld.key, R.CTR_ENG.NV, R.CTR_ENG.SEQ]),
      Dev.rd_wr_ne _ (R.CTR_ENG.CODE e) _ _ (by simp [Fld.key, R.CTR_ENG.CODE, R.CTR_ENG.SEQ]),
      Dev.rd_wr_ne _ (R.CTR_ENG.STATE e) _ _ (by simp [Fld.key, R.CTR_ENG.STATE, R.CTR_ENG.SEQ]), Dev.setEng,
      Dev.rd_wr_ne _ (R.CTR_ENG.STEP e) _ _ (by simp [Fld.key, R.CTR_ENG.STEP, R.CTR_ENG.SEQ]), Dev.rd_wr]
    exact Nat.mod_eq_of_lt hq
  · rw [Dev.engLoaded, Dev.rd_wr_ne _ (R.CTR_ENG.NV e) _ _ (by simp [Fld.key, R.CTR_ENG.NV, R.CTR_ENG.STEP]),
      Dev.rd_wr_ne _ (R.CTR_ENG.CODE e) _ _ (by simp [Fld.key, R.CTR_ENG.CODE, R.CTR_ENG.STEP]),
      Dev.rd_wr_ne _ (R.CTR_ENG.STATE e) _ _ (by simp [Fld.key, R.CTR_ENG.STATE, R.CTR_ENG.STEP])]
    exact Dev.rd_wr ..
  · rw [Dev.engLoaded, Dev.rd_wr_ne _ (R.CTR_ENG.NV e) _ _ (by simp [Fld.key, R.CTR_ENG.NV, R.CTR_ENG.CODE])]
    exact Dev.rd_wr ..

/-- CTR_START shows the engine. -/
theorem Dev.startTaken_shown {e : Nat} (he : e < 8) :
    (d.startTaken e).rd R.CTR_START.RESULT = 1 ∧ (d.startTaken e).rd R.CTR_START.CODE = 0 ∧ (d.startTaken e).rd R.CTR_START.ENGINE = e := by
  refine ⟨?_, ?_, (Dev.rd_wr ..).trans (Nat.mod_eq_of_lt he)⟩
  · rw [Dev.startTaken, Dev.rd_wr_ne _ R.CTR_START.ENGINE _ _ (by decide), Dev.rd_wr_ne _ R.CTR_START.CODE _ _ (by decide)]
    exact Dev.rd_wr ..
  · rw [Dev.startTaken, Dev.rd_wr_ne _ R.CTR_START.ENGINE _ _ (by decide)]
    exact Dev.rd_wr ..

/-- The block with a start refused and its code shown, before the event. -/
def Dev.startRefused (d : Dev) (q : Nat) : Dev :=
  (((d.wr R.CTR_START.SEQ q).wr R.CTR_START.RESULT 3).wr R.CTR_START.CODE (d.ctrRefusal q)).bump R.CTR_CNT.REFUSED

theorem Dev.ctrStart_refused (h : d.ctrRefusal (n % 64) ≠ 0) :
    (d.ctrStart n).1 = (d.startRefused (n % 64)).raise 54 2 [0, n % 64, d.ctrRefusal (n % 64)] := by
  unfold Dev.ctrStart
  simp only [Dev.ctrRefusal_wr_start]
  split
  case h_1 hzero _ => exact absurd hzero h
  case h_2 => rfl

theorem Dev.startRefused_shown (q : Nat) : (d.startRefused q).rd R.CTR_START.RESULT = 3 ∧ (d.startRefused q).rd R.CTR_START.CODE = d.ctrRefusal q ∧
    (d.startRefused q).rd R.CTR_CNT.REFUSED = min 255 (d.rd R.CTR_CNT.REFUSED + 1) ∧
    d.RegsBut [R.CTR_START.SEQ, R.CTR_START.RESULT, R.CTR_START.CODE, R.CTR_CNT.REFUSED] (d.startRefused q) := by
  refine ⟨?_, ?_, ?_, .wr (.wr (.wr (.wr (.refl _ d) (by simp)) (by simp)) (by simp)) (by simp)⟩
  · rw [Dev.startRefused, Dev.bump, Dev.bumpBy, Dev.rd_wr_ne _ _ _ _ (by decide), Dev.rd_wr_ne _ _ _ _ (by decide)]
    exact Dev.rd_wr ..
  · rw [Dev.startRefused, Dev.bump, Dev.bumpBy, Dev.rd_wr_ne _ _ _ _ (by decide), Dev.rd_wr]
    exact Nat.mod_eq_of_lt (Nat.lt_of_le_of_lt Dev.ctrRefusal_le (by decide))
  · rw [Dev.startRefused, Dev.rd_bump, Dev.rd_wr_ne _ _ _ _ (by decide), Dev.rd_wr_ne _ _ _ _ (by decide), Dev.rd_wr_ne _ _ _ _ (by decide)]
    rfl

end

/-! ## The answers of the sequencer's commands -/

section
variable (s : State)

theorem exec_ctrStart (q : Nat) : exec (.ctrStart q) s = done s (fun d => if d.domOn .f4 then (d.ctrStart q).1 else d) := rfl

theorem exec_ctrSequencerBoundary (fb : Nat) : exec (.ctrSequencerBoundary fb) s = done s (fun d =>
    if d.domOn .f4 then d.ctrBoundary fb else d) := rfl

theorem exec_ctrStepTimeout (e : Fin 8) : exec (.ctrStepTimeout e) s = done s (fun d =>
    if d.domOn .f4 then (d.ctrTimeout e).ctrDrained else d) := rfl

theorem exec_coilMismatch (c : Fin 48) : exec (.coilMismatch c) s = done s (fun d => if d.domOn .f4 then d.coilMismatch c else d) := rfl

end

section
variable {s : State} (hon : s.dev.domOn .f4 = true)
include hon

theorem answers_ctrStart_taken {q : Nat} (h : s.dev.ctrRefusal (q % 64) = 0) : Answers (.ctrStart q) s (fun t =>
    ∃ e : Nat, e < 8 ∧ s.dev.engBusy e = false ∧ t.rd (R.CTR_ENG.STATE e) = 1 ∧ t.rd (R.CTR_ENG.SEQ e) = q % 64 ∧
      t.rd (R.CTR_ENG.STEP e) = 0 ∧ t.rd (R.CTR_ENG.CODE e) = 0 ∧ t.rd R.CTR_START.RESULT = 1 ∧ t.rd R.CTR_START.CODE = 0 ∧
      t.rd R.CTR_START.ENGINE = e ∧ t.rd R.CTR_CNT.REFUSED = s.dev.rd R.CTR_CNT.REFUSED) := by
  obtain ⟨e, he, hfree, hstart⟩ := Dev.ctrStart_taken h
  refine answers_of_onF4 (exec_ctrStart s q) hon ⟨e, he, hfree, ?_⟩
  obtain ⟨hstate, hseq, hstep, hcode⟩ := (s.dev.wr R.CTR_START.SEQ (q % 64)).engLoaded_shown (Nat.mod_lt q (by decide)) e
  obtain ⟨hresult, hstartCode, hengine⟩ := Dev.startTaken_shown (d := (s.dev.wr R.CTR_START.SEQ (q % 64)).engLoaded (q % 64) e) he
  have hregs := Dev.startTaken_regsBut (d := (s.dev.wr R.CTR_START.SEQ (q % 64)).engLoaded (q % 64) e) e
  rw [hstart]
  refine ⟨?_, ?_, ?_, ?_, hresult, hstartCode, hengine, ?_⟩
  · rwa [hregs _ (by simp [Fld.key, R.CTR_START.RESULT, R.CTR_START.CODE, R.CTR_START.ENGINE, R.CTR_ENG.STATE]; omega)]
  · rwa [hregs _ (by simp [Fld.key, R.CTR_START.RESULT, R.CTR_START.CODE, R.CTR_START.ENGINE, R.CTR_ENG.SEQ]; omega)]
  · rwa [hregs _ (by simp [Fld.key, R.CTR_START.RESULT, R.CTR_START.CODE, R.CTR_START.ENGINE, R.CTR_ENG.STEP]; omega)]
  · rwa [hregs _ (by simp [Fld.key, R.CTR_START.RESULT, R.CTR_START.CODE, R.CTR_START.ENGINE, R.CTR_ENG.CODE]; omega)]
  · have hloaded := (s.dev.wr R.CTR_START.SEQ (q % 64)).engLoaded_regsBut (q % 64) e R.CTR_CNT.REFUSED
      (by simp [Fld.key, R.CTR_ENG.SEQ, R.CTR_ENG.STEP, R.CTR_ENG.STATE, R.CTR_ENG.CODE, R.CTR_ENG.NV, R.CTR_CNT.REFUSED]; omega)
    rw [hregs R.CTR_CNT.REFUSED (by decide), hloaded, Dev.rd_wr_ne _ R.CTR_START.SEQ _ _ (by decide)]

theorem answers_ctrStart_refused {q : Nat} (h : s.dev.ctrRefusal (q % 64) ≠ 0) : Answers (.ctrStart q) s (fun t =>
    t.rd R.CTR_START.RESULT = 3 ∧ t.rd R.CTR_START.CODE = s.dev.ctrRefusal (q % 64) ∧
    t.rd R.CTR_CNT.REFUSED = min 255 (s.dev.rd R.CTR_CNT.REFUSED + 1) ∧ t.ctr = s.dev.ctr ∧
    s.dev.RegsBut [R.CTR_START.SEQ, R.CTR_START.RESULT, R.CTR_START.CODE, R.CTR_CNT.REFUSED] t) := by
  obtain ⟨hresult, hcode, hcount, hregs⟩ := s.dev.startRefused_shown (q % 64)
  refine answers_of_onF4 (exec_ctrStart s q) hon ?_
  rw [Dev.ctrStart_refused h]
  simp only [Dev.raise_rd, Dev.raise_ctr]
  exact ⟨hresult, hcode, hcount, rfl, hregs.of_regs (Dev.raise_regs ..)⟩

end

/-- Settles O28: each clause is the answer of one command, and at a boundary the engine whose step begins is the only one that acts. -/
theorem sequencerRunsItsSteps : Obligations.SequencerRunsItsSteps := fun s hon =>
  ⟨fun _ h => answers_ctrStart_taken hon h,
    fun _ h => answers_ctrStart_refused hon h,
    fun fb e hbusy hfresh hidle hop =>
      ⟨fun hilk => answers_of_onF4 (exec_ctrSequencerBoundary s fb) hon (Dev.ctrBoundary_closes e.isLt hbusy hfresh hidle hop hilk),
        fun hilk hfail hstate =>
          answers_of_onF4 (exec_ctrSequencerBoundary s fb) hon (Dev.ctrBoundary_refuses e.isLt hbusy hfresh hidle hop hilk hfail hstate)⟩,
    fun e hstate hfresh hop hfb hopen hfail =>
      answers_of_onF4 (exec_ctrStepTimeout s e) hon (Dev.ctrTimeout_opens hstate hfresh hop hfb hopen hfail),
    fun c hidle hfb hdiffer => answers_of_onF4 (exec_coilMismatch s c) hon (Dev.coilMismatch_marks hidle hfb hdiffer)⟩

end Sys2Proof.Machine
end

section
/-! Modulator conditions (R197, R198), the return to the main source (R265), and the metrology test outputs (R273, R276 to R278). -/

namespace Sys2Proof.Machine

/-! ## One condition of one input (R197, R198) -/

/-- The field of a condition: 0 STUCK, 1 SAT, 2 CLK. -/
def modFld (kind j : Nat) : Fld := if kind = 0 then R.MOD_INSTAT.STUCK j else if kind = 1 then R.MOD_INSTAT.SAT j else R.MOD_INSTAT.CLKF j

theorem modFld_width (kind j : Nat) : (modFld kind j).width = 1 := by
  unfold modFld
  split_ifs <;> rfl

/-- The three fields are the low bits of the input's word. -/
theorem modFld_key (kind j : Nat) : ∃ b ≤ 2, (modFld kind j).key = (0x00121000 + 0x4 * (j % 128)) * 32 + b := by
  unfold modFld
  split_ifs
  · exact ⟨0, by decide, rfl⟩
  · exact ⟨1, by decide, rfl⟩
  · exact ⟨2, by decide, rfl⟩

theorem modFld_key_ne_summary (kind j i : Nat) : (modFld kind j).key ≠ (R.MOD_HSTAT.IN i).key ∧ (modFld kind j).key ≠ (R.MOD_HLATCH.IN i).key ∧
    (modFld kind j).key ≠ R.MOD_CNT.FAULTS.key := by
  obtain ⟨b, hb, hkey⟩ := modFld_key kind j
  rw [hkey]
  simp only [Fld.key, R.MOD_HSTAT.IN, R.MOD_HLATCH.IN, R.MOD_CNT.FAULTS]
  omega

theorem summary_keys_ne (i k : Nat) : (R.MOD_HLATCH.IN i).key ≠ (R.MOD_HSTAT.IN k).key ∧ R.MOD_CNT.FAULTS.key ≠ (R.MOD_HSTAT.IN k).key ∧
    R.MOD_CNT.FAULTS.key ≠ (R.MOD_HLATCH.IN i).key := by
  simp only [Fld.key, R.MOD_HSTAT.IN, R.MOD_HLATCH.IN, R.MOD_CNT.FAULTS]
  omega

/-- The block with a condition of an input in use present, summarised and counted. -/
def Dev.modShown (d : Dev) (kind j : Nat) : Dev :=
  let e := d.wr (modFld kind j) 1
  let e := e.wr (R.MOD_HSTAT.IN (j / 32)) (setBit (e.rd (R.MOD_HSTAT.IN (j / 32))) (j % 32))
  let e := e.wr (R.MOD_HLATCH.IN (j / 32)) (setBit (e.rd (R.MOD_HLATCH.IN (j / 32))) (j % 32))
  e.bump R.MOD_CNT.FAULTS

/-- The fields that a condition coming up writes. -/
def modShownFlds (kind j : Nat) : List Fld := [modFld kind j, R.MOD_HSTAT.IN (j / 32), R.MOD_HLATCH.IN (j / 32), R.MOD_CNT.FAULTS]

section
variable {d : Dev} {kind j : Nat}

theorem Dev.modPresent_eq (hused : d.on (R.MOD_INSTAT.USED j) = true) (hf : d.on (modFld kind j) = false) :
    d.modPresent kind j = ((d.modShown kind j).raise 24 kind [j]).metFault j :=
  if_neg (show ¬(d.on (modFld kind j) || !d.on (R.MOD_INSTAT.USED j)) = true by simp [hused, hf])

theorem Dev.modPresent_unchanged (h : d.on (modFld kind j) = true ∨ d.on (R.MOD_INSTAT.USED j) = false) : d.modPresent kind j = d :=
  if_pos (show (d.on (modFld kind j) || !d.on (R.MOD_INSTAT.USED j)) = true by simpa using h)

theorem Dev.modPresent_regs (hused : d.on (R.MOD_INSTAT.USED j) = true) (hf : d.on (modFld kind j) = false) :
    (d.modPresent kind j).regs = (d.modShown kind j).regs := by
  rw [Dev.modPresent_eq hused hf, (Dev.metFault_reach _ j).onlyIn.regs rfl, Dev.raise_regs]

theorem Dev.modShown_regsBut : d.RegsBut (modShownFlds kind j) (d.modShown kind j) :=
  .wr (.wr (.wr (.wr (.refl _ d) (by simp [modShownFlds])) (by simp [modShownFlds])) (by simp [modShownFlds])) (by simp [modShownFlds])

theorem Dev.modPresent_regsBut : d.RegsBut (modShownFlds kind j) (d.modPresent kind j) := by
  by_cases hused : d.on (R.MOD_INSTAT.USED j) = true
  · by_cases hf : d.on (modFld kind j) = true
    · rw [Dev.modPresent_unchanged (.inl hf)]
      exact .refl _ d
    · exact Dev.modShown_regsBut.of_regs (Dev.modPresent_regs hused (eq_false_of_ne_true hf))
  · rw [Dev.modPresent_unchanged (.inr (eq_false_of_ne_true hused))]
    exact .refl _ d

/-- What a condition that comes up shows. -/
theorem Dev.modShown_shows : (d.modShown kind j).rd (modFld kind j) = 1 ∧ (d.modShown kind j).modFaulty j = true ∧
    testBit ((d.modShown kind j).rd (R.MOD_HLATCH.IN (j / 32))) (j % 32) = true ∧
    (d.modShown kind j).rd R.MOD_CNT.FAULTS = min 65535 (d.rd R.MOD_CNT.FAULTS + 1) := by
  have hlt : j % 32 < 32 := Nat.mod_lt j (by decide)
  obtain ⟨hstat, hlatch, hfaults⟩ := modFld_key_ne_summary kind j (j / 32)
  obtain ⟨hwords, hcountStat, hcountLatch⟩ := summary_keys_ne (j / 32) (j / 32)
  refine ⟨?_, ?_, ?_, ?_⟩
  · rw [Dev.modShown, Dev.bump, Dev.bumpBy, Dev.rd_wr_ne _ _ _ _ hfaults.symm, Dev.rd_wr_ne _ _ _ _ hlatch.symm, Dev.rd_wr_ne _ _ _ _ hstat.symm]
    exact (Dev.rd_wr ..).trans (congrArg (1 % 2 ^ ·) (modFld_width kind j))
  · rw [Dev.modFaulty, Dev.modShown, Dev.bump, Dev.bumpBy, Dev.rd_wr_ne _ _ _ _ hcountStat, Dev.rd_wr_ne _ _ _ _ hwords, Dev.rd_wr]
    exact (testBit_mod_two_pow hlt).trans (testBit_setBit_self ..)
  · rw [Dev.modShown, Dev.bump, Dev.bumpBy, Dev.rd_wr_ne _ _ _ _ hcountLatch, Dev.rd_wr]
    exact (testBit_mod_two_pow hlt).trans (testBit_setBit_self ..)
  · rw [Dev.modShown, Dev.rd_bump, Dev.rd_wr_ne _ _ _ _ hcountLatch.symm, Dev.rd_wr_ne _ _ _ _ hcountStat.symm, Dev.rd_wr_ne _ _ _ _ hfaults]
    rfl

end

/-! ## A missing clock (R197) -/

/-- A condition on one input leaves every field that the summary and the conditions do not hold. -/
theorem Dev.modPresent_rd_other {d : Dev} {kind x : Nat} {f : Fld} (hfld : (modFld kind x).key ≠ f.key)
    (hsum : ∀ i, (R.MOD_HSTAT.IN i).key ≠ f.key ∧ (R.MOD_HLATCH.IN i).key ≠ f.key) (hcount : R.MOD_CNT.FAULTS.key ≠ f.key) :
    (d.modPresent kind x).rd f = d.rd f :=
  Dev.modPresent_regsBut _ (by
    simp only [modShownFlds, List.forall_mem_cons]
    exact ⟨hfld, (hsum _).1, (hsum _).2, hcount, nofun⟩)

section
variable {d : Dev} (x i : Nat)

theorem Dev.modPresent_used : (d.modPresent 2 x).on (R.MOD_INSTAT.USED i) = d.on (R.MOD_INSTAT.USED i) := by
  refine congrArg (fun v => decide (v = 1)) (Dev.modPresent_rd_other ?_ (fun k => ?_) ?_)
  · simp only [modFld, Fld.key, R.MOD_INSTAT.CLKF, R.MOD_INSTAT.USED, OfNat.ofNat_ne_zero, OfNat.ofNat_ne_one, if_false]
    omega
  · simp only [Fld.key, R.MOD_HSTAT.IN, R.MOD_HLATCH.IN, R.MOD_INSTAT.USED]
    omega
  · simp only [Fld.key, R.MOD_CNT.FAULTS, R.MOD_INSTAT.USED]
    omega

theorem Dev.modPresent_clkstat : (d.modPresent 2 x).rd R.MOD_CLKSTAT.FAULT = d.rd R.MOD_CLKSTAT.FAULT := by
  refine Dev.modPresent_rd_other ?_ (fun k => ?_) (by decide)
  · simp only [modFld, Fld.key, R.MOD_INSTAT.CLKF, R.MOD_CLKSTAT.FAULT, OfNat.ofNat_ne_zero, OfNat.ofNat_ne_one, if_false]
    omega
  · simp only [Fld.key, R.MOD_HSTAT.IN, R.MOD_HLATCH.IN, R.MOD_CLKSTAT.FAULT]
    omega

variable {x i}

theorem Dev.modPresent_sets_clkf (hused : d.on (R.MOD_INSTAT.USED i) = true) : (d.modPresent 2 i).rd (R.MOD_INSTAT.CLKF i) = 1 := by
  by_cases hf : d.on (modFld 2 i) = true
  · rw [Dev.modPresent_unchanged (.inl hf)]
    exact of_decide_eq_true hf
  · exact (congrArg (Regs.get · (R.MOD_INSTAT.CLKF i)) (Dev.modPresent_regs hused (eq_false_of_ne_true hf))).trans Dev.modShown_shows.1

theorem Dev.modPresent_keeps_clkf (h : d.rd (R.MOD_INSTAT.CLKF i) = 1) : (d.modPresent 2 x).rd (R.MOD_INSTAT.CLKF i) = 1 := by
  by_cases hsame : x % 128 = i % 128
  · have hfld : modFld 2 x = R.MOD_INSTAT.CLKF i := by simp [modFld, R.MOD_INSTAT.CLKF, hsame]
    rw [Dev.modPresent_unchanged (.inl (by rw [hfld]; exact decide_eq_true h))]
    exact h
  · refine (Dev.modPresent_rd_other ?_ (fun k => ?_) ?_).trans h
    · simp only [modFld, Fld.key, R.MOD_INSTAT.CLKF, OfNat.ofNat_ne_zero, OfNat.ofNat_ne_one, if_false]
      omega
    · simp only [Fld.key, R.MOD_HSTAT.IN, R.MOD_HLATCH.IN, R.MOD_INSTAT.CLKF]
      omega
    · simp only [Fld.key, R.MOD_CNT.FAULTS, R.MOD_INSTAT.CLKF]
      omega

end

/-- A missing clock is shown, and concerns each input in use on it. -/
theorem Dev.clockMissing_shown {d : Dev} {j : Nat} (hclk : d.rd (R.MOD_INSTAT.CLK j) < 8) :
    let e := (d.modClk 2 j true).forAll (d.modGroup 2 j) (fun e i => e.modPresent 2 i)
    testBit (e.rd R.MOD_CLKSTAT.FAULT) (d.rd (R.MOD_INSTAT.CLK j)) = true ∧
    ∀ i, i < 128 → d.on (R.MOD_INSTAT.USED i) = true → d.rd (R.MOD_INSTAT.CLK i) = d.rd (R.MOD_INSTAT.CLK j) → e.rd (R.MOD_INSTAT.CLKF i) = 1 := by
  intro e
  have hclock : d.modClk 2 j true = d.wr R.MOD_CLKSTAT.FAULT (setBit (d.rd R.MOD_CLKSTAT.FAULT) (d.rd (R.MOD_INSTAT.CLK j))) := rfl
  refine ⟨?_, fun i hi hused hsame => ?_⟩
  · have hkept : e.rd R.MOD_CLKSTAT.FAULT = (d.modClk 2 j true).rd R.MOD_CLKSTAT.FAULT :=
      Dev.forAll_keeps (·.rd R.MOD_CLKSTAT.FAULT) fun _ x => Dev.modPresent_clkstat x
    rw [hkept, hclock, Dev.rd_wr]
    exact (testBit_mod_two_pow hclk).trans (testBit_setBit_self ..)
  · have hmem : i ∈ d.modGroup 2 j := by simp [Dev.modGroup, hi, hused, hsame]
    have hused' : (d.modClk 2 j true).on (R.MOD_INSTAT.USED i) = true := by
      rw [hclock, Dev.on, Dev.rd_wr_ne _ _ _ _ (by simp only [Fld.key, R.MOD_CLKSTAT.FAULT, R.MOD_INSTAT.USED]; omega)]
      exact hused
    exact Dev.forAll_establishes (P := fun x => x.on (R.MOD_INSTAT.USED i) = true) (Q := fun x => x.rd (R.MOD_INSTAT.CLKF i) = 1) hmem hused'
      (fun _ x h => (Dev.modPresent_used x i).trans h) (fun _ h => Dev.modPresent_sets_clkf h) (fun _ _ h => Dev.modPresent_keeps_clkf h)

/-! ## The end of STUCK (R197, R198) -/

section
variable {d : Dev} {j : Nat}

theorem stuck_key_ne_others (j : Nat) : (R.MOD_INSTAT.STUCK j).key ≠ (R.MOD_INSTAT.SAT j).key ∧
    (R.MOD_INSTAT.STUCK j).key ≠ (R.MOD_INSTAT.CLKF j).key := by simp [Fld.key, R.MOD_INSTAT.STUCK, R.MOD_INSTAT.SAT, R.MOD_INSTAT.CLKF]

/-- With another condition of the input present the end of STUCK is its bit alone. -/
theorem Dev.modEnded_stuck_of_sat (hstuck : d.on (R.MOD_INSTAT.STUCK j) = true) (hsat : d.on (R.MOD_INSTAT.SAT j) = true) :
    d.modEnded 0 j = d.wr (R.MOD_INSTAT.STUCK j) 0 := by
  have hsat' : (d.wr (R.MOD_INSTAT.STUCK j) 0).on (R.MOD_INSTAT.SAT j) = true := by
    rwa [Dev.on, Dev.rd_wr_ne _ _ _ _ (stuck_key_ne_others j).1]
  simp only [Dev.modEnded, if_true, hstuck, hsat', Bool.or_true, Bool.true_or]

/-- The block in which an input's health bit is cleared with its STUCK. -/
def Dev.stuckCleared (d : Dev) (j : Nat) : Dev :=
  let e := d.wr (R.MOD_INSTAT.STUCK j) 0
  e.wr (R.MOD_HSTAT.IN (j / 32)) (clearBit (e.rd (R.MOD_HSTAT.IN (j / 32))) (j % 32))

theorem Dev.modEnded_stuck_last (hstuck : d.on (R.MOD_INSTAT.STUCK j) = true) (hsat : d.on (R.MOD_INSTAT.SAT j) = false)
    (hclk : d.on (R.MOD_INSTAT.CLKF j) = false) : d.modEnded 0 j = ((d.stuckCleared j).raise 25 0 [j]).metClear j := by
  have hstuck' : (d.wr (R.MOD_INSTAT.STUCK j) 0).on (R.MOD_INSTAT.STUCK j) = false := by
    rw [Dev.on, Dev.rd_wr]
    rfl
  have hsat' : (d.wr (R.MOD_INSTAT.STUCK j) 0).on (R.MOD_INSTAT.SAT j) = false := by
    rwa [Dev.on, Dev.rd_wr_ne _ _ _ _ (stuck_key_ne_others j).1]
  have hclk' : (d.wr (R.MOD_INSTAT.STUCK j) 0).on (R.MOD_INSTAT.CLKF j) = false := by
    rwa [Dev.on, Dev.rd_wr_ne _ _ _ _ (stuck_key_ne_others j).2]
  simp only [Dev.modEnded, if_true, hstuck, hstuck', hsat', hclk', Bool.or_self, Bool.false_eq_true, if_false]
  rfl

/-- The end of the last condition of an input clears its health bit and leaves the latched one. -/
theorem Dev.modEnded_stuck_clears (hstuck : d.on (R.MOD_INSTAT.STUCK j) = true) (hsat : d.on (R.MOD_INSTAT.SAT j) = false)
    (hclk : d.on (R.MOD_INSTAT.CLKF j) = false) : (d.modEnded 0 j).rd (R.MOD_INSTAT.STUCK j) = 0 ∧ (d.modEnded 0 j).modFaulty j = false ∧
      d.RegsBut [R.MOD_INSTAT.STUCK j, R.MOD_HSTAT.IN (j / 32)] (d.modEnded 0 j) := by
  have hlt : j % 32 < 32 := Nat.mod_lt j (by decide)
  have hregs : (d.modEnded 0 j).regs = (d.stuckCleared j).regs := by
    rw [Dev.modEnded_stuck_last hstuck hsat hclk, (Dev.metClear_reach _ j).onlyIn.regs rfl, Dev.raise_regs]
  have hrd : ∀ f : Fld, (d.modEnded 0 j).rd f = (d.stuckCleared j).rd f := fun f => congrArg (Regs.get · f) hregs
  have hkey : (R.MOD_HSTAT.IN (j / 32)).key ≠ (R.MOD_INSTAT.STUCK j).key := (modFld_key_ne_summary 0 j (j / 32)).1.symm
  refine ⟨?_, ?_, .of_regs (.wr (.wr (.refl _ d) (by simp)) (by simp)) hregs⟩
  · rw [hrd, Dev.stuckCleared, Dev.rd_wr_ne _ _ _ _ hkey]
    exact Dev.rd_wr ..
  · rw [Dev.modFaulty, hrd, Dev.stuckCleared, Dev.rd_wr]
    exact (testBit_mod_two_pow hlt).trans (testBit_clearBit_self ..)

end

/-! ## The return to the main source (R265) -/

section
variable {d : Dev} {c : Nat}

theorem Dev.metReturn_counts {r : MeasRec} {f : Nat} (hmain : d.met.mainRec c = some r) (hfrom : d.met.fbFrom.getD c none = some f)
    (hret : d.met.retAt.getD c none = none) (hfaulty : d.modFaulty r.index = false) (hc : c < d.met.retAt.length) :
    (d.metReturn c).met.retAt.getD c none = some d.stcNs ∧ (d.metReturn c).regs = d.regs := by
  have hret' : d.metReturn c = { d with met := { d.met with retAt := setAt d.met.retAt c (some d.stcNs) } } := by
    simp only [Dev.metReturn, hmain, hfrom, hret, hfaulty, Option.isSome_some, Option.isNone_none, Bool.not_false, Bool.and_self, if_true]
  rw [hret']
  exact ⟨getD_setAt_self _ none hc, rfl⟩

theorem Dev.metReturn_of_main (hfrom : d.met.fbFrom.getD c none = none) : d.metReturn c = d := by
  unfold Dev.metReturn
  split
  · rfl
  · exact if_neg (by simp only [hfrom, Option.isSome_none, Bool.false_and, Bool.false_eq_true, not_false_eq_true])

end

/-! ## Test outputs (R276 to R278) -/

section
variable {d : Dev} {k : Nat}

theorem Dev.testOut_setTestOut_self (x : TestOut) (h : k < d.met.tp.length) : (d.setTestOut k x).testOut k = x := getD_setAt_self x {} h

/-- A first pulse takes one of those owed and lasts the width shown. -/
theorem Dev.tpStart_takes_one (hen : d.on (R.MET_TPCFG.EN k) = true) (howed : 0 < d.rd (R.MET_TPSTAT.OWED k))
    (hmax : d.rd (R.MET_TPSTAT.OWED k) ≤ 4095) (hlow : (d.testOut k).high = none) (hfirst : (d.testOut k).start = none) (hk : k < d.met.tp.length) :
    (d.tpStart k).rd (R.MET_TPSTAT.OWED k) = d.rd (R.MET_TPSTAT.OWED k) - 1 ∧
    ((d.tpStart k).testOut k).high = some ((d.stcNs + 999) / 1000 + d.rd (R.MET_TPSTAT.WIDTH k)) ∧
    d.RegsBut [R.MET_TPSTAT.OWED k] (d.tpStart k) := by
  have hlt : d.rd (R.MET_TPSTAT.OWED k) - 1 < 4096 := by omega
  have hstart : d.tpStart k = ((d.advanceTo (stepsOfNs (1000 * ((d.stcNs + 999) / 1000)))).setTestOut k { d.testOut k with
      start := some ((d.stcNs + 999) / 1000),
      high := some ((d.stcNs + 999) / 1000 + d.rd (R.MET_TPSTAT.WIDTH k)) }).wr (R.MET_TPSTAT.OWED k) (d.rd (R.MET_TPSTAT.OWED k) - 1) := by
    simp only [Dev.tpStart, hen, howed, hlow, hfirst, decide_true, Option.isNone_none, Bool.and_self, if_true]
  rw [hstart]
  refine ⟨(Dev.rd_wr ..).trans (Nat.mod_eq_of_lt hlt), ?_, Dev.regsBut_wr rfl⟩
  exact congrArg TestOut.high (Dev.testOut_setTestOut_self (d := d.advanceTo (stepsOfNs (1000 * ((d.stcNs + 999) / 1000)))) _ hk)

theorem Dev.tpStart_of_none_owed (h : d.rd (R.MET_TPSTAT.OWED k) = 0) : d.tpStart k = d := by
  simp only [Dev.tpStart, h, lt_irrefl, decide_false, Bool.and_false, Bool.false_and, Bool.false_eq_true, if_false]

theorem Dev.tpEnd_low (hk : k < d.met.tp.length) : ((d.tpEnd k).testOut k).high = none ∧ (d.tpEnd k).regs = d.regs := by
  unfold Dev.tpEnd
  dsimp only
  split
  case h_1 e _ =>
    exact ⟨congrArg TestOut.high (Dev.testOut_setTestOut_self (d := d.advanceTo (stepsOfNs (1000 * e))) _ hk), rfl⟩
  case h_2 hlow => exact ⟨hlow, rfl⟩

/-! ## Their configuration (R273, R278) -/

theorem Dev.tpWrite_of_sealed (h : d.rwlSealed = true) (isConst : Bool) (v : Nat) : d.tpWrite k isConst v = d := if_pos h

/-- The block with an output's state emptied by a new configuration. -/
def Dev.tpEmptied (d : Dev) (k : Nat) : Dev := (d.setTestOut k { d.testOut k with acc := 0, high := none }).wr (R.MET_TPSTAT.OWED k) 0

theorem Dev.tpWrite_const (h : d.rwlSealed = false) (v : Nat) :
    d.tpWrite k true v = ((d.wr (R.MET_TPCONST.C k) (clampNat (bits v 19 0) 1 1000000)).tpEmptied k).tpCheck k := by
  simp only [Dev.tpWrite, h, Bool.false_eq_true, if_false, if_true]
  rfl

theorem Dev.tpWrite_config (h : d.rwlSealed = false) (v : Nat) : d.tpWrite k false v =
    (((d.wr (R.MET_TPCFG.SRC k) (min 35 (bits v 7 2))).wr (R.MET_TPCFG.EN k) (bit v 0)).tpEmptied k).tpCheck k := by
  simp only [Dev.tpWrite, h, Bool.false_eq_true, if_false]
  rfl

theorem Dev.tpEmptied_regsBut : d.RegsBut [R.MET_TPSTAT.OWED k] (d.tpEmptied k) := Dev.regsBut_wr rfl

theorem Dev.tpEmptied_owed : (d.tpEmptied k).rd (R.MET_TPSTAT.OWED k) = 0 := Dev.rd_wr ..

theorem Dev.tpCheck_regsBut : d.RegsBut [R.MET_TPCFG.SRCBAD k, R.MET_TPCFG.EN k] (d.tpCheck k) := by
  have hbad : ∀ b, d.RegsBut [R.MET_TPCFG.SRCBAD k, R.MET_TPCFG.EN k] (d.wrB (R.MET_TPCFG.SRCBAD k) b) := fun _ => .wr (.refl _ d) (by simp)
  unfold Dev.tpCheck
  dsimp only
  split
  · exact (hbad _).wr (by simp)
  · exact hbad _

/-- A source that is net and signed disables the output and is shown as bad; any other leaves it as it was written (R276). -/
theorem Dev.tpCheck_shown {m : Nat} (hm : d.rd (R.MET_ECFG.MODE (d.rd (R.MET_TPCFG.SRC k))) = m) :
    (m = 0 → (d.tpCheck k).rd (R.MET_TPCFG.EN k) = 0 ∧ (d.tpCheck k).rd (R.MET_TPCFG.SRCBAD k) = 1) ∧
    (m ≠ 0 → (d.tpCheck k).rd (R.MET_TPCFG.EN k) = d.rd (R.MET_TPCFG.EN k) ∧ (d.tpCheck k).rd (R.MET_TPCFG.SRCBAD k) = 0) := by
  have hkey : (R.MET_TPCFG.SRCBAD k).key ≠ (R.MET_TPCFG.EN k).key := by simp [Fld.key, R.MET_TPCFG.SRCBAD, R.MET_TPCFG.EN]
  refine ⟨fun hzero => ?_, fun hpos => ?_⟩
  · have hcheck : d.tpCheck k = (d.wrB (R.MET_TPCFG.SRCBAD k) true).wr (R.MET_TPCFG.EN k) 0 := by
      simp only [Dev.tpCheck, hm, hzero, decide_true, if_true]
    rw [hcheck]
    exact ⟨Dev.rd_wr .., (Dev.rd_wr_ne _ _ _ _ hkey.symm).trans (Dev.rd_wrB d true rfl)⟩
  · have hcheck : d.tpCheck k = d.wrB (R.MET_TPCFG.SRCBAD k) false := by
      simp only [Dev.tpCheck, hm, hpos, decide_false, Bool.false_eq_true, if_false]
    rw [hcheck]
    exact ⟨Dev.rd_wr_ne _ _ _ _ hkey, Dev.rd_wrB d false rfl⟩

theorem Dev.tpCheck_owed : (d.tpCheck k).rd (R.MET_TPSTAT.OWED k) = d.rd (R.MET_TPSTAT.OWED k) :=
  Dev.tpCheck_regsBut _ (by simp [Fld.key, R.MET_TPCFG.SRCBAD, R.MET_TPCFG.EN, R.MET_TPSTAT.OWED]; omega)

theorem clampNat_const_lt (n : Nat) : clampNat n 1 1000000 < 2 ^ 20 := by
  unfold clampNat
  split_ifs <;> omega

theorem Dev.tpWrite_const_shown (h : d.rwlSealed = false) (v : Nat) :
    (d.tpWrite k true v).rd (R.MET_TPCONST.C k) = clampNat (bits v 19 0) 1 1000000 ∧ (d.tpWrite k true v).rd (R.MET_TPSTAT.OWED k) = 0 := by
  rw [Dev.tpWrite_const h]
  refine ⟨?_, Dev.tpCheck_owed.trans Dev.tpEmptied_owed⟩
  rw [Dev.tpCheck_regsBut _ (by simp [Fld.key, R.MET_TPCFG.SRCBAD, R.MET_TPCFG.EN, R.MET_TPCONST.C]; omega),
    Dev.tpEmptied_regsBut _ (by simp [Fld.key, R.MET_TPSTAT.OWED, R.MET_TPCONST.C]), Dev.rd_wr]
  exact Nat.mod_eq_of_lt (clampNat_const_lt _)

theorem Dev.tpWrite_config_shown (h : d.rwlSealed = false) (v : Nat) :
    (d.tpWrite k false v).rd (R.MET_TPCFG.SRC k) = min 35 (bits v 7 2) ∧ (d.tpWrite k false v).rd (R.MET_TPSTAT.OWED k) = 0 ∧
    (d.rd (R.MET_ECFG.MODE (min 35 (bits v 7 2))) = 0 →
      (d.tpWrite k false v).rd (R.MET_TPCFG.EN k) = 0 ∧ (d.tpWrite k false v).rd (R.MET_TPCFG.SRCBAD k) = 1) ∧
    (d.rd (R.MET_ECFG.MODE (min 35 (bits v 7 2))) ≠ 0 →
      (d.tpWrite k false v).rd (R.MET_TPCFG.EN k) = bit v 0 ∧ (d.tpWrite k false v).rd (R.MET_TPCFG.SRCBAD k) = 0) := by
  have hsrc : (((d.wr (R.MET_TPCFG.SRC k) (min 35 (bits v 7 2))).wr (R.MET_TPCFG.EN k) (bit v 0)).tpEmptied k).rd (R.MET_TPCFG.SRC k) =
      min 35 (bits v 7 2) := by
    rw [Dev.tpEmptied_regsBut _ (by simp [Fld.key, R.MET_TPSTAT.OWED, R.MET_TPCFG.SRC]; omega),
      Dev.rd_wr_ne _ _ _ _ (by simp [Fld.key, R.MET_TPCFG.EN, R.MET_TPCFG.SRC]), Dev.rd_wr]
    exact Nat.mod_eq_of_lt (Nat.lt_of_le_of_lt (Nat.min_le_left ..) (by decide : 35 < 2 ^ 6))
  have hen : (((d.wr (R.MET_TPCFG.SRC k) (min 35 (bits v 7 2))).wr (R.MET_TPCFG.EN k) (bit v 0)).tpEmptied k).rd (R.MET_TPCFG.EN k) = bit v 0 := by
    rw [Dev.tpEmptied_regsBut _ (by simp [Fld.key, R.MET_TPSTAT.OWED, R.MET_TPCFG.EN]), Dev.rd_wr]
    exact Nat.mod_eq_of_lt (Nat.mod_lt _ (by decide))
  have hmode : ∀ m, (((d.wr (R.MET_TPCFG.SRC k) (min 35 (bits v 7 2))).wr (R.MET_TPCFG.EN k) (bit v 0)).tpEmptied k).rd (R.MET_ECFG.MODE m) =
      d.rd (R.MET_ECFG.MODE m) := fun m => by
    rw [Dev.tpEmptied_regsBut _ (by simp [Fld.key, R.MET_TPSTAT.OWED, R.MET_ECFG.MODE]; omega),
      Dev.rd_wr_ne _ _ _ _ (by simp [Fld.key, R.MET_TPCFG.EN, R.MET_ECFG.MODE]; omega),
      Dev.rd_wr_ne _ _ _ _ (by simp [Fld.key, R.MET_TPCFG.SRC, R.MET_ECFG.MODE]; omega)]
  have hshown := Dev.tpCheck_shown ((congrArg (fun x => Dev.rd _ (R.MET_ECFG.MODE x)) hsrc).trans (hmode _))
  rw [hen] at hshown
  rw [Dev.tpWrite_config h]
  refine ⟨?_, Dev.tpCheck_owed.trans Dev.tpEmptied_owed, hshown⟩
  rwa [Dev.tpCheck_regsBut _ (by simp [Fld.key, R.MET_TPCFG.SRCBAD, R.MET_TPCFG.EN, R.MET_TPCFG.SRC])]

end

/-! ## The answer of each command of this part -/

section
variable (s : State)

theorem exec_modConditionPresent (kind : Fin 3) (j : Fin 128) : exec (.modConditionPresent kind j) s = done s (fun d =>
    if d.domOn .f4 then (d.modClk kind j true).forAll (d.modGroup kind j) (fun d i => d.modPresent kind i) else d) := rfl

theorem exec_modConditionEnd_stuck (j : Fin 128) : exec (.modConditionEnd 0 j) s = done s (fun d =>
    if d.domOn .f4 && !d.isInjected 3 j then (if d.isInjected 3 j then d else d.modEnded 0 j) else d) := rfl

theorem exec_metrologyReturnWait (c : Fin 16) : exec (.metrologyReturnWait c) s = done s (·.metReturn c) := rfl

theorem exec_testPulseStart (k : Fin 4) : exec (.testPulseStart k) s = done s (fun d => if d.metRuns then d.tpStart k else d) := rfl

theorem exec_testPulseEnd (k : Fin 4) : exec (.testPulseEnd k) s = done s (·.tpEnd k) := rfl

theorem exec_testOutputConfigWrite (k : Fin 4) (isConst : Bool) (v : Nat) :
    exec (.testOutputConfigWrite k isConst v) s = done s (·.tpWrite k isConst v) := rfl

variable {s}

theorem answers_modConditionPresent {k : Fin 3} {j : Fin 128} {f : Fld} (hon : s.dev.domOn .f4 = true) (hk : k.val ≠ 2)
    (hused : s.dev.on (R.MOD_INSTAT.USED j) = true) (hf : modFld k j = f) (hoff : s.dev.on f = false) :
    Answers (.modConditionPresent k j) s (fun t => t.rd f = 1 ∧ t.modFaulty j = true ∧
      testBit (t.rd (R.MOD_HLATCH.IN (j / 32))) (j % 32) = true ∧ t.rd R.MOD_CNT.FAULTS = min 65535 (s.dev.rd R.MOD_CNT.FAULTS + 1) ∧
      s.dev.RegsBut [f, R.MOD_HSTAT.IN (j / 32), R.MOD_HLATCH.IN (j / 32), R.MOD_CNT.FAULTS] t) := by
  subst hf
  refine answers_of_onF4 (exec_modConditionPresent s k j) hon ?_
  have hone : (s.dev.modClk k j true).forAll (s.dev.modGroup k j) (fun d i => d.modPresent k i) = s.dev.modPresent k j := by
    simp only [Dev.modClk, Dev.modGroup, hk, if_false]
    rfl
  have hregs := Dev.modPresent_regs hused hoff
  have hrd : ∀ f : Fld, (s.dev.modPresent k j).rd f = (s.dev.modShown k j).rd f := fun f => congrArg (Regs.get · f) hregs
  obtain ⟨hfld, hfaulty, hlatch, hcount⟩ := s.dev.modShown_shows (kind := k) (j := j)
  rw [hone]
  refine ⟨(hrd _).trans hfld, ?_, ?_, (hrd _).trans hcount, Dev.modPresent_regsBut⟩
  · rwa [Dev.modFaulty, hrd]
  · rwa [hrd]

theorem answers_modConditionEnd_stuck {j : Fin 128} {P : Dev → Prop} (hon : s.dev.domOn .f4 = true) (hinj : s.dev.isInjected 3 j = false)
    (hP : P (s.dev.modEnded 0 j)) : Answers (.modConditionEnd 0 j) s P :=
  answers_of_done (exec_modConditionEnd_stuck s j) (by
    simp only [hon, hinj, Bool.not_false, Bool.and_self, if_true, Bool.false_eq_true, if_false]
    exact hP)

theorem answers_testPulseStart {k : Fin 4} {P : Dev → Prop} (hruns : s.dev.metRuns = true) (hP : P (s.dev.tpStart k)) :
    Answers (.testPulseStart k) s P :=
  answers_of_done (exec_testPulseStart s k) (by rwa [if_pos hruns])

end

/-- The two conditions that concern one input each have the fields that the statement names. -/
theorem modFld_of_ne_two {k : Fin 3} (hk : k.val ≠ 2) (j : Nat) :
    modFld k j = if k.val = 0 then R.MOD_INSTAT.STUCK j else R.MOD_INSTAT.SAT j := by
  have hone : k.val ≠ 0 → k.val = 1 := by omega
  unfold modFld
  split
  · rfl
  · exact if_pos (hone ‹_›)

/-- Settles O37: each clause is the answer of one command; a missing clock is the fold over the inputs in use on it. -/
theorem meteringSourcesAndTestOutputs : Obligations.MeteringSourcesAndTestOutputs := fun s =>
  ⟨fun _ j hon hk hused => answers_modConditionPresent hon hk hused (modFld_of_ne_two hk j),
    fun j hon hclk => answers_of_onF4 (exec_modConditionPresent s 2 j) hon
      ⟨(Dev.clockMissing_shown hclk).1, fun i => (Dev.clockMissing_shown hclk).2 i i.isLt⟩,
    fun _ hon hinj hstuck hsat hclk => answers_modConditionEnd_stuck hon hinj (Dev.modEnded_stuck_clears hstuck hsat hclk),
    fun _ hon hinj hstuck hsat => answers_modConditionEnd_stuck hon hinj (Dev.modEnded_stuck_of_sat hstuck hsat),
    fun c _ _ hmain hfrom hret hfaulty hc =>
      answers_of_done (exec_metrologyReturnWait s c) (Dev.metReturn_counts hmain hfrom hret hfaulty hc),
    fun c hfrom => answers_of_done (exec_metrologyReturnWait s c) (Dev.metReturn_of_main hfrom),
    fun _ hruns hen howed hmax hlow hfirst hk => answers_testPulseStart hruns (Dev.tpStart_takes_one hen howed hmax hlow hfirst hk),
    fun _ hruns howed => answers_testPulseStart hruns (Dev.tpStart_of_none_owed howed),
    fun k hk => answers_of_done (exec_testPulseEnd s k) (Dev.tpEnd_low hk),
    fun k isConst v hsealed => answers_of_done (exec_testOutputConfigWrite s k isConst v) (Dev.tpWrite_of_sealed hsealed isConst v),
    fun k v hopen => answers_of_done (exec_testOutputConfigWrite s k true v) (Dev.tpWrite_const_shown hopen v),
    fun k v hopen => answers_of_done (exec_testOutputConfigWrite s k false v) (Dev.tpWrite_config_shown hopen v)⟩

end Sys2Proof.Machine
end

section
/-! The allocation of R230: the fill of one class conserves the budget, so no grant passes what its entry still wants or what is left
to give. -/

namespace Sys2Proof.Machine

/-! ## Sums over positions -/

theorem sum_range_indicator (r n : Nat) : ((List.range n).map (fun i => if i < r then 1 else 0)).sum = min r n := by
  induction n with
  | zero => simp
  | succ n ih =>
    rw [List.sum_range_succ, ih]
    split_ifs <;> omega

theorem map_zipIdx_snd {α β : Type} (l : List α) (f : Nat → β) : l.zipIdx.map (fun e => f e.2) = (List.range l.length).map f := by
  rw [List.range_eq_range', ← List.zipIdx_map_snd, List.map_map]
  rfl

theorem map_zipIdx_fst {α β : Type} (l : List α) (f : α → β) : l.zipIdx.map (fun e => f e.1) = l.map f := by
  conv_rhs => rw [← List.zipIdx_map_fst 0 l, List.map_map]
  rfl

/-- Of a list's places, `r` lie below `r`, or all of them. -/
theorem sum_zipIdx_indicator {α : Type} (l : List α) (r : Nat) : (l.zipIdx.map (fun e => if e.2 < r then 1 else 0)).sum = min r l.length := by
  rw [map_zipIdx_snd l (fun i => if i < r then 1 else 0), sum_range_indicator]

/-! ## The loop of fill (R230) -/

/-- The sum of the second components: of wants, or of grants. -/
def fillTotal (l : List (Nat × Nat)) : Nat := (l.map (·.2)).sum

/-- What the loop may answer for the wants `act` and the budget `b`: one grant for each want, none above it, the budget conserved, and
every want met where the budget covers them all. -/
structure Fills (act : List (Nat × Nat)) (b : Nat) (r : List (Nat × Nat) × Nat) : Prop where
  keys : (r.1.map (·.1)).Perm (act.map (·.1))
  conserves : fillTotal r.1 + r.2 = b
  within : ∀ x ∈ r.1, ∃ w, (x.1, w) ∈ act ∧ x.2 ≤ w
  full : fillTotal act ≤ b → ∀ x ∈ r.1, x ∈ act

theorem Fills.nil (b : Nat) : Fills [] b ([], b) := ⟨.nil, Nat.zero_add b, by simp, by simp⟩

/-- The last turn: every want is above the even share, so the budget is shared evenly, the remainder from the first on. -/
theorem Fills.even {act : List (Nat × Nat)} {b : Nat} (hne : act ≠ []) (habove : ∀ e ∈ act, b / act.length < e.2) :
    Fills act b (act.zipIdx.map (fun e => (e.1.1, b / act.length + (if e.2 < b - b / act.length * act.length then 1 else 0))), 0) := by
  have hlen : 0 < act.length := List.length_pos_iff.mpr hne
  have hdiv : b / act.length * act.length + b % act.length = b := Nat.div_add_mod' b act.length
  have hmod : b % act.length < act.length := Nat.mod_lt b hlen
  refine ⟨?_, ?_, ?_, fun hcovers => absurd hcovers ?_⟩
  · rw [List.map_map]
    exact .of_eq (map_zipIdx_fst act (·.1))
  · simp only [fillTotal, List.map_map, Function.comp_def, List.sum_map_add, sum_zipIdx_indicator, List.map_const',
      List.sum_replicate, List.length_zipIdx, smul_eq_mul]
    rw [Nat.mul_comm act.length]
    omega
  · intro x hx
    obtain ⟨e, he, rfl⟩ := List.mem_map.mp hx
    have hmem : e.1 ∈ act := List.fst_mem_of_mem_zipIdx he
    have hwant := habove _ hmem
    exact ⟨e.1.2, hmem, by dsimp only; split_ifs <;> omega⟩
  · have hsum : (act.map (·.2)).length • (b / act.length + 1) ≤ (act.map (·.2)).sum :=
      List.card_nsmul_le_sum _ _ (List.forall_mem_map.mpr habove)
    rw [List.length_map, smul_eq_mul, Nat.mul_add, Nat.mul_comm act.length] at hsum
    unfold fillTotal
    omega

theorem fillTotal_append (l l' : List (Nat × Nat)) : fillTotal (l ++ l') = fillTotal l + fillTotal l' := by simp [fillTotal]

theorem fillTotal_perm {l l' : List (Nat × Nat)} (h : l.Perm l') : fillTotal l = fillTotal l' := (h.map _).sum_eq

/-- Wants that are at most the even share fit into the budget together. -/
theorem fillTotal_le_of_le_share {act : List (Nat × Nat)} {b n : Nat} (hlen : act.length ≤ n) (h : ∀ e ∈ act, e.2 ≤ b / n) :
    fillTotal act ≤ b :=
  calc fillTotal act ≤ (act.map (·.2)).length • (b / n) := List.sum_le_card_nsmul _ _ (List.forall_mem_map.mpr h)
    _ ≤ n * (b / n) := by rw [List.length_map, smul_eq_mul]; exact Nat.mul_le_mul_right _ hlen
    _ ≤ b := Nat.mul_div_le b n

/-- One more turn: the wants `fin` are met and leave the list, the rest shares what they leave. -/
theorem Fills.met {act fin rest : List (Nat × Nat)} {b : Nat} {r : List (Nat × Nat) × Nat} (hsplit : (fin ++ rest).Perm act)
    (hfin : fillTotal fin ≤ b) (h : Fills rest (b - fillTotal fin) r) : Fills act b (fin ++ r.1, r.2) := by
  obtain ⟨hkeys, hconserves, hwithin, hfull⟩ := h
  have hmem : ∀ x, x ∈ fin ∨ x ∈ rest → x ∈ act := fun x hx => hsplit.mem_iff.mp (List.mem_append.mpr hx)
  have htotal : fillTotal fin + fillTotal rest = fillTotal act := (fillTotal_append fin rest).symm.trans (fillTotal_perm hsplit)
  refine ⟨?_, ?_, fun x hx => ?_, fun hcovers x hx => ?_⟩
  · rw [List.map_append]
    exact (hkeys.append_left _).trans (by simpa using hsplit.map (·.1))
  · rw [fillTotal_append]
    omega
  · rcases List.mem_append.mp hx with hx | hx
    · exact ⟨x.2, hmem x (.inl hx), Nat.le_refl _⟩
    · obtain ⟨w, hw, hle⟩ := hwithin x hx
      exact ⟨w, hmem _ (.inr hw), hle⟩
  · rcases List.mem_append.mp hx with hx | hx
    · exact hmem x (.inl hx)
    · exact hmem x (.inr (hfull (by omega) x hx))

theorem fillGo_nil (n b : Nat) : fillGo n [] b = ([], b) := by cases n <;> rfl

/-- With no more wants than turns the loop ends with every want answered. -/
theorem fillGo_fills (n : Nat) (act : List (Nat × Nat)) (b : Nat) (hn : act.length ≤ n) : Fills act b (fillGo n act b) := by
  induction n generalizing act b with
  | zero =>
    obtain rfl := List.length_eq_zero_iff.mp (Nat.le_zero.mp hn)
    exact .nil b
  | succ n ih =>
    by_cases hne : act = []
    · subst hne
      exact .nil b
    · rw [fillGo, if_neg hne]
      dsimp only
      have habove : act.filter (fun e => decide (b / act.length < e.2)) = act.filter (fun e => !decide (e.2 ≤ b / act.length)) :=
        List.filter_congr fun e _ => by rw [← decide_not, decide_eq_decide, Nat.not_le]
      have hsplit := List.filter_append_perm (fun e : Nat × Nat => decide (e.2 ≤ b / act.length)) act
      rw [← habove] at hsplit
      split_ifs with hfin
      · exact .even hne (by simpa using hfin)
      · rw [← List.sum_eq_foldl_nat]
        have hlen := hsplit.length_eq
        have hpos := List.length_pos_iff.mpr hfin
        rw [List.length_append] at hlen
        exact .met hsplit (fillTotal_le_of_le_share (List.length_filter_le ..) (by simp)) (ih _ _ (by omega))

/-! ## The fill of one class (R230) -/

/-- What a fill of class `c` may grant an entry: its want, where it is of the class. -/
def FillEntry.want (floor : Bool) (c : Nat) (e : FillEntry) : Nat := if e.cls = c then e.w floor else 0

theorem FillEntry.want_true (c : Nat) (e : FillEntry) : e.want true c = if e.cls = c then e.flr else 0 := rfl

theorem FillEntry.want_false (c : Nat) (e : FillEntry) : e.want false c = if e.cls = c then e.req - e.a else 0 := rfl

/-- The entry with `k` more granted. -/
def FillEntry.plus (e : FillEntry) (k : Nat) : FillEntry := { e with a := e.a + k }

/-- What the answer of the loop grants the entry at place `i`. -/
def grantOf (g : List (Nat × Nat)) (i : Nat) : Nat := ((g.find? (fun x => x.1 == i)).map (·.2)).getD 0

theorem grantOf_cons (k v : Nat) (g : List (Nat × Nat)) (i : Nat) : grantOf ((k, v) :: g) i = if k = i then v else grantOf g i := by
  unfold grantOf
  rw [List.find?_cons]
  by_cases h : k = i
  · simp [h]
  · simp [h, beq_eq_false_iff_ne.mpr h]

/-- A place that the answer names is granted what the answer says of it somewhere, any other nothing. -/
theorem grantOf_cases (g : List (Nat × Nat)) (i : Nat) : (i, grantOf g i) ∈ g ∨ i ∉ g.map (·.1) ∧ grantOf g i = 0 := by
  induction g with
  | nil => exact .inr ⟨List.not_mem_nil, rfl⟩
  | cons x g ih =>
    obtain ⟨k, v⟩ := x
    rw [grantOf_cons]
    split_ifs with h
    · exact .inl (h ▸ List.mem_cons_self)
    · exact ih.imp (List.mem_cons_of_mem _) fun ⟨hi, hzero⟩ => ⟨by simpa [Ne.symm h] using hi, hzero⟩

/-- Where no place is named twice, the places are granted together what the answer says in sum. -/
theorem sum_grantOf {g : List (Nat × Nat)} {is : List Nat} (his : is.Nodup) (hg : (g.map (·.1)).Nodup) (hsub : ∀ x ∈ g, x.1 ∈ is) :
    (is.map (grantOf g)).sum = fillTotal g := by
  induction g with
  | nil => exact List.sum_eq_zero (List.forall_mem_map.mpr fun _ _ => rfl)
  | cons x g ih =>
    obtain ⟨k, v⟩ := x
    obtain ⟨hk, hg⟩ := List.nodup_cons.mp hg
    obtain ⟨hkis, hsub⟩ := List.forall_mem_cons.mp hsub
    have hzero : grantOf g k = 0 := (grantOf_cases g k).elim (fun h => absurd (List.mem_map_of_mem h) hk) (·.2)
    have hsplit : ∀ i, grantOf ((k, v) :: g) i = (if i = k then v else 0) + grantOf g i := fun i => by
      rw [grantOf_cons]
      by_cases h : i = k
      · rw [h, if_pos rfl, if_pos rfl, hzero, Nat.add_zero]
      · rw [if_neg (Ne.symm h), if_neg h, Nat.zero_add]
    have honce : (is.map (fun i => if i = k then v else 0)).sum = v := by
      simp [List.sum_map_ite, List.filter_eq, List.count_eq_one_of_mem his hkis]
    rw [funext hsplit, List.sum_map_add, ih hg hsub, honce]
    exact (List.sum_cons ..).symm

section
variable (floor : Bool) (c : Nat) (es : List FillEntry) (b : Nat)

/-- The entries of a class that still want something, by place. -/
def classWants : List (Nat × Nat) :=
  (es.zipIdx.filter (fun e => e.1.cls == c && decide (0 < e.1.w floor))).map (fun e => (e.2, e.1.w floor))

/-- The loop's answer for a class. -/
def classFill : List (Nat × Nat) × Nat := fillGo ((classWants floor c es).length + 1) (classWants floor c es) b

theorem fillClass_eq : fillClass floor c es b =
    (es.zipIdx.map (fun e => e.1.plus (grantOf (classFill floor c es b).1 e.2)), (classFill floor c es b).2) := by
  unfold fillClass
  dsimp only
  refine Prod.ext (List.map_congr_left fun e _ => ?_) rfl
  rw [grantOf, classFill, classWants]
  split <;> rename_i hx <;> rw [hx] <;> rfl

theorem classFill_fills : Fills (classWants floor c es) b (classFill floor c es b) := fillGo_fills _ _ b (Nat.le_succ _)

variable {floor c es b}

theorem mem_classWants {x : Nat × Nat} : x ∈ classWants floor c es ↔ ∃ e, es[x.1]? = some e ∧ e.cls = c ∧ 0 < e.w floor ∧ e.w floor = x.2 := by
  obtain ⟨i, w⟩ := x
  simp [classWants, List.mem_zipIdx_iff_getElem?, and_assoc]

theorem classWants_keys : ((classWants floor c es).map (·.1)).Sublist (List.range es.length) := by
  rw [classWants, List.map_map, List.range_eq_range', ← List.zipIdx_map_snd]
  exact List.filter_sublist.map Prod.snd

/-- The class wants together at most what its entries want, and these are among all. -/
theorem fillTotal_classWants_le : fillTotal (classWants floor c es) ≤ (es.map (FillEntry.want floor c)).sum := by
  have hwants : (classWants floor c es).map (·.2) =
      (es.zipIdx.filter (fun e => e.1.cls == c && decide (0 < e.1.w floor))).map (fun e => e.1.want floor c) := by
    rw [classWants, List.map_map]
    refine List.map_congr_left fun e he => ?_
    obtain ⟨-, hp⟩ := List.mem_filter.mp he
    obtain ⟨hcls, -⟩ : e.1.cls = c ∧ 0 < e.1.w floor := by simpa using hp
    exact (if_pos hcls).symm
  rw [fillTotal, hwants, ← map_zipIdx_fst es]
  exact (List.filter_sublist.map _).sum_le_sum fun _ _ => Nat.zero_le _

/-- No place is granted more than its entry wants. -/
theorem grantOf_classFill_le {i : Nat} {e : FillEntry} (he : es[i]? = some e) :
    grantOf (classFill floor c es b).1 i ≤ e.want floor c := by
  rcases grantOf_cases (classFill floor c es b).1 i with hin | ⟨-, hzero⟩
  · obtain ⟨w, hw, hle⟩ := (classFill_fills floor c es b).within _ hin
    obtain ⟨e', he', hcls, -, rfl⟩ := mem_classWants.mp hw
    obtain rfl : e = e' := Option.some.inj (he.symm.trans he')
    rwa [FillEntry.want, if_pos hcls]
  · exact hzero.le.trans (Nat.zero_le _)

/-- A budget that covers the wants of the class meets each of them. -/
theorem grantOf_classFill_full {i : Nat} {e : FillEntry} (he : es[i]? = some e) (hb : (es.map (FillEntry.want floor c)).sum ≤ b) :
    grantOf (classFill floor c es b).1 i = e.want floor c := by
  have hfills := classFill_fills floor c es b
  rcases grantOf_cases (classFill floor c es b).1 i with hin | ⟨hout, hzero⟩
  · obtain ⟨e', he', hcls, -, hw⟩ := mem_classWants.mp (hfills.full (fillTotal_classWants_le.trans hb) _ hin)
    obtain rfl : e = e' := Option.some.inj (he.symm.trans he')
    rw [FillEntry.want, if_pos hcls]
    exact hw.symm
  · rw [hzero, FillEntry.want]
    split_ifs with hcls
    · by_contra hne
      have hwants : (i, e.w floor) ∈ classWants floor c es := mem_classWants.mpr ⟨e, he, hcls, Nat.pos_of_ne_zero (Ne.symm hne), rfl⟩
      exact hout (hfills.keys.mem_iff.mpr (List.mem_map_of_mem hwants))
    · rfl

/-- Each entry after the fill of a class is an entry before it with more granted, within its want. -/
theorem of_mem_fillClass {e' : FillEntry} (h : e' ∈ (fillClass floor c es b).1) :
    ∃ e ∈ es, ∃ k ≤ e.want floor c, e' = e.plus k ∧ ((es.map (FillEntry.want floor c)).sum ≤ b → k = e.want floor c) := by
  rw [fillClass_eq] at h
  obtain ⟨⟨e, i⟩, he, rfl⟩ := List.mem_map.mp h
  have hat := List.mem_zipIdx_iff_getElem?.mp he
  exact ⟨e, List.fst_mem_of_mem_zipIdx he, _, grantOf_classFill_le hat, rfl, grantOf_classFill_full hat⟩

end

/-- The entries with nothing granted. -/
def blankEntries (es : List FillEntry) : List FillEntry := es.map (fun e => { e with a := 0 })

/-- What the entries hold together. -/
def grantedIn (es : List FillEntry) : Nat := (es.map (fun e => e.a)).sum

theorem fillClass_blank (floor : Bool) (c : Nat) (es : List FillEntry) (b : Nat) : blankEntries (fillClass floor c es b).1 = blankEntries es := by
  rw [fillClass_eq, blankEntries, List.map_map]
  exact map_zipIdx_fst es (fun e => { e with a := 0 })

/-- What the entries hold and what is left of the budget stay the same together. -/
theorem fillClass_conserves (floor : Bool) (c : Nat) (es : List FillEntry) (b : Nat) :
    grantedIn (fillClass floor c es b).1 + (fillClass floor c es b).2 = grantedIn es + b := by
  have hfills := classFill_fills floor c es b
  have hnodup : ((classFill floor c es b).1.map (·.1)).Nodup := hfills.keys.nodup_iff.mpr (classWants_keys.nodup List.nodup_range)
  have hplaces : ∀ x ∈ (classFill floor c es b).1, x.1 ∈ List.range es.length := fun x hx =>
    classWants_keys.subset (hfills.keys.subset (List.mem_map_of_mem hx))
  have hgrants : grantedIn (fillClass floor c es b).1 = grantedIn es + fillTotal (classFill floor c es b).1 := by
    rw [← sum_grantOf List.nodup_range hnodup hplaces, fillClass_eq, grantedIn, grantedIn, List.map_map, ← map_zipIdx_snd,
      ← map_zipIdx_fst es, ← List.sum_map_add]
    rfl
  rw [hgrants, fillClass_eq, Nat.add_assoc, hfills.conserves]

/-! ## A round over the classes (R230) -/

/-- The classes below `n` filled in order. -/
def fillRound (floor : Bool) (n : Nat) (s : List FillEntry × Nat) : List FillEntry × Nat :=
  (List.range n).foldl (fun s c => fillClass floor c s.1 s.2) s

theorem fillRound_succ (floor : Bool) (n : Nat) (s : List FillEntry × Nat) :
    fillRound floor (n + 1) s = fillClass floor n (fillRound floor n s).1 (fillRound floor n s).2 := by
  rw [fillRound, List.range_succ, List.foldl_append]
  rfl

theorem allocate_eq (es : List FillEntry) (b : Nat) : allocate es b = (fillRound false 8 (fillRound true 8 (es, b))).1 := rfl

section
variable (floor : Bool) (n : Nat) (s : List FillEntry × Nat)

theorem fillRound_blank : blankEntries (fillRound floor n s).1 = blankEntries s.1 := by
  induction n with
  | zero => rfl
  | succ n ih => rw [fillRound_succ, fillClass_blank, ih]

theorem fillRound_conserves : grantedIn (fillRound floor n s).1 + (fillRound floor n s).2 = grantedIn s.1 + s.2 := by
  induction n with
  | zero => rfl
  | succ n ih => rw [fillRound_succ, fillClass_conserves, ih]

end

/-- After the floors of the classes below `n` an entry holds at most its floor, and nothing where its class is still to come. -/
theorem floorRound_bound {es : List FillEntry} {b : Nat} (h : ∀ e ∈ es, e.a = 0 ∧ e.flr ≤ e.req) (n : Nat) :
    ∀ e ∈ (fillRound true n (es, b)).1, e.a ≤ (if e.cls < n then e.flr else 0) ∧ e.flr ≤ e.req := by
  induction n with
  | zero => exact fun e he => ⟨(h e he).1.le.trans (Nat.zero_le _), (h e he).2⟩
  | succ n ih =>
    rw [fillRound_succ]
    intro e' he'
    obtain ⟨e, he, k, hk, rfl, -⟩ := of_mem_fillClass he'
    obtain ⟨ha, hflr⟩ := ih e he
    refine ⟨?_, hflr⟩
    rw [FillEntry.want_true] at hk
    change e.a + k ≤ if e.cls < n + 1 then e.flr else 0
    split_ifs at ha hk ⊢ <;> omega

/-- An entry that holds at most its request holds at most its request after any classes have shared the rest. -/
theorem restRound_bound {s : List FillEntry × Nat} (h : ∀ e ∈ s.1, e.a ≤ e.req) (n : Nat) :
    ∀ e ∈ (fillRound false n s).1, e.a ≤ e.req := by
  induction n with
  | zero => exact h
  | succ n ih =>
    rw [fillRound_succ]
    intro e' he'
    obtain ⟨e, he, k, hk, rfl, -⟩ := of_mem_fillClass he'
    have ha := ih e he
    rw [FillEntry.want_false] at hk
    dsimp only [FillEntry.plus]
    split_ifs at hk <;> omega

/-- What the entries ask for together. -/
def requestedIn (es : List FillEntry) : Nat := (es.map (fun e => e.req)).sum

theorem requestedIn_eq_of_blank {es es' : List FillEntry} (h : blankEntries es = blankEntries es') : requestedIn es = requestedIn es' := by
  have hblank : ∀ xs, requestedIn xs = requestedIn (blankEntries xs) := fun xs => by simp [requestedIn, blankEntries, Function.comp_def]
  rw [hblank, h, ← hblank]

/-- A class wants together no more than what all entries still lack. -/
theorem sum_want_le (c : Nat) {es : List FillEntry} (h : ∀ e ∈ es, e.a ≤ e.req) :
    (es.map (FillEntry.want false c)).sum + grantedIn es ≤ requestedIn es := by
  rw [grantedIn, ← List.sum_map_add]
  refine List.sum_le_sum fun e he => ?_
  have ha := h e he
  rw [FillEntry.want_false]
  split_ifs <;> omega

/-- While the budget left covers what is still lacking, every class below `n` receives its requests. -/
theorem restRound_full {s : List FillEntry × Nat} (h : ∀ e ∈ s.1, e.a ≤ e.req) (hb : requestedIn s.1 ≤ grantedIn s.1 + s.2) (n : Nat) :
    ∀ e ∈ (fillRound false n s).1, e.cls < n → e.a = e.req := by
  induction n with
  | zero => exact fun _ _ hcls => absurd hcls (Nat.not_lt_zero _)
  | succ n ih =>
    have hbound := restRound_bound h n
    have hcovers : ((fillRound false n s).1.map (FillEntry.want false n)).sum ≤ (fillRound false n s).2 := by
      have hwant := sum_want_le n hbound
      have hconserves := fillRound_conserves false n s
      rw [requestedIn_eq_of_blank (fillRound_blank false n s)] at hwant
      omega
    rw [fillRound_succ]
    intro e' he' hcls
    obtain ⟨e, he, k, -, rfl, hfull⟩ := of_mem_fillClass he'
    have ha := hbound e he
    rw [hfull hcovers, FillEntry.want_false]
    dsimp only [FillEntry.plus] at hcls ⊢
    split_ifs with hn
    · exact Nat.add_sub_of_le ha
    · exact ih e he (by omega)

/-- Equal but for what they hold: two lists of entries agree place by place in everything else. -/
theorem eq_of_blank {es es' : List FillEntry} (h : blankEntries es = blankEntries es') {i : Nat} {x y : FillEntry} (hx : es[i]? = some x)
    (hy : es'[i]? = some y) : ({ y with a := 0 } : FillEntry) = { x with a := 0 } := by
  have hat := congrArg (·[i]?) h
  simp only [blankEntries, List.getElem?_map, hx, hy] at hat
  exact (Option.some.inj hat).symm

/-- The class of an entry stays among those of the list. -/
theorem cls_of_blank {es es' : List FillEntry} (h : blankEntries es = blankEntries es') {e : FillEntry} (he : e ∈ es) :
    ∃ x ∈ es', x.cls = e.cls := by
  have hmem : { e with a := 0 } ∈ blankEntries es' := h ▸ List.mem_map_of_mem he
  obtain ⟨x, hx, heq⟩ := List.mem_map.mp hmem
  injection heq with _ _ hcls
  exact ⟨x, hx, hcls⟩

/-- Settles O31: both rounds conserve the budget and change nothing but what is held; the rest round meets what a covering budget
can meet. -/
theorem allocationKeepsTheBudget : Obligations.AllocationKeepsTheBudget := by
  intro es b h
  have hfloor : ∀ e ∈ (fillRound true 8 (es, b)).1, e.a ≤ e.req := fun e he => by
    obtain ⟨ha, hflr⟩ := floorRound_bound h 8 e he
    split_ifs at ha <;> omega
  have hnothing : grantedIn es = 0 := List.sum_eq_zero (List.forall_mem_map.mpr fun e he => (h e he).1)
  have hblank : blankEntries (allocate es b) = blankEntries es := by rw [allocate_eq, fillRound_blank, fillRound_blank]
  have hconserves := fillRound_conserves false 8 (fillRound true 8 (es, b))
  rw [fillRound_conserves true 8 (es, b), hnothing, ← allocate_eq] at hconserves
  refine ⟨?_, fun i _ x y hx hy => ?_, ?_, fun hb hcls e he => ?_⟩
  · simpa [blankEntries] using congrArg List.length hblank
  · have hsame := eq_of_blank hblank.symm hx hy
    have ha : y.a ≤ y.req := restRound_bound hfloor 8 y (List.mem_of_getElem? hy)
    injection hsame with hdev hidx hc hreq
    exact ⟨hreq ▸ ha, hdev, hidx, hreq⟩
  · change grantedIn _ ≤ b
    omega
  · refine restRound_full hfloor ?_ 8 e he ?_
    · rw [requestedIn_eq_of_blank (fillRound_blank true 8 (es, b)), fillRound_conserves true 8 (es, b), hnothing, Nat.zero_add]
      exact hb
    · obtain ⟨x, hx, heq⟩ := cls_of_blank hblank he
      exact heq ▸ hcls x hx

end Sys2Proof.Machine
end

section
/-! Module routing (R240, Table 11-5): the step that a plan begins, and the step that the time-out abandons. -/

namespace Sys2Proof.Machine

/-! ## A variant request of the FMP (R156) -/

section
variable (d : Dev) (b key : Nat)

theorem Dev.requestKey_eq : d.requestKey b key =
    (((d.wr (R.DGR_VARREQ.KEY b) (key % 65536)).setDblk b { d.dblk b with req := some (key % 65536, false) }).wr
      (R.DGR_VARREQ.RESULT b) 1).wr (R.DGR_VARREQ.CODE b) 0 := by
  have hbits : bits (key * 65536 + 1) 31 16 = key % 65536 := by
    unfold bits
    omega
  have hgo : testBit (key * 65536 + 1) 0 = true := by
    rw [testBit_eq, Nat.testBit_zero, decide_eq_true_iff]
    omega
  rw [Dev.requestKey, Dev.varReq, if_pos hgo, hbits]
  rfl

theorem Dev.requestKey_rt : (d.requestKey b key).rt = d.rt := by
  rw [Dev.requestKey_eq]
  rfl

theorem Dev.requestKey_regsBut : d.RegsBut [R.DGR_VARREQ.KEY b, R.DGR_VARREQ.RESULT b, R.DGR_VARREQ.CODE b] (d.requestKey b key) := by
  rw [Dev.requestKey_eq]
  exact .wr (.wr (.of_regs (.wr (.refl _ d) (by simp)) rfl) (by simp)) (by simp)

/-- A request is shown beside the routing step, not in it. -/
theorem Dev.requestKey_rd_step {f : Fld} (hf : f.key / 32 = 0x00180308) : (d.requestKey b key).rd f = d.rd f := by
  refine d.requestKey_regsBut b key f ?_
  simp only [List.forall_mem_cons, Fld.key, R.DGR_VARREQ.KEY, R.DGR_VARREQ.RESULT, R.DGR_VARREQ.CODE] at hf ⊢
  exact ⟨by omega, by omega, by omega, List.forall_mem_nil _⟩

end

/-- A block of the device holds the request. -/
theorem Dev.requestKey_req {d : Dev} {b : Nat} (hb : b < d.dgr.blk.length) (key : Nat) :
    ((d.requestKey b key).dblk b).req = some (key % 65536, false) := by
  have hblk : (d.requestKey b key).dblk b = { d.dblk b with req := some (key % 65536, false) } := by
    rw [Dev.requestKey_eq]
    exact getD_setAt_self _ {} hb
  rw [hblk]

/-! ## The step that a plan begins (R240) -/

/-- A step begun: the module's group leaves one output for another. -/
def Dev.stepBegun (d : Dev) (rcv frm g : Nat) (rt : Route) : Dev :=
  ((({ d with rt := rt }.wr R.SHR_RTSTAT.PHASE 1).wr R.SHR_RTSTAT.TO rcv).wr R.SHR_RTSTAT.FROM frm).wr R.SHR_RTSTAT.GROUP g

section
variable {d : Dev} {rcv frm g v : Nat} {m m' : ModRec} {rt : Route}

theorem Dev.stepBegun_shown (hrcv : rcv < 4) (hfrm : frm < 4) (hg : g < 20) :
    (d.stepBegun rcv frm g rt).rd R.SHR_RTSTAT.PHASE = 1 ∧ (d.stepBegun rcv frm g rt).rd R.SHR_RTSTAT.TO = rcv ∧
    (d.stepBegun rcv frm g rt).rd R.SHR_RTSTAT.FROM = frm ∧ (d.stepBegun rcv frm g rt).rd R.SHR_RTSTAT.GROUP = g := by
  have hto : rcv % 2 ^ R.SHR_RTSTAT.TO.width = rcv := Nat.mod_eq_of_lt (hrcv.trans (by decide))
  have hfrom : frm % 2 ^ R.SHR_RTSTAT.FROM.width = frm := Nat.mod_eq_of_lt (hfrm.trans (by decide))
  have hgroup : g % 2 ^ R.SHR_RTSTAT.GROUP.width = g := Nat.mod_eq_of_lt (hg.trans (by decide))
  simp (disch := decide) only [Dev.stepBegun, Dev.rd_wr_ne, Dev.rd_wr, hto, hfrom, hgroup]
  decide

/-- The step begun with the request of a variant shows itself and waits with the donor block. -/
theorem Dev.stepRequested_shown {b : Nat} (hrcv : rcv < 4) (hfrm : frm < 4) (hg : g < 20) (hb : b < d.dgr.blk.length) (key : Nat) :
    let t := (d.stepBegun rcv frm g rt).requestKey b key
    t.rd R.SHR_RTSTAT.PHASE = 1 ∧ t.rd R.SHR_RTSTAT.TO = rcv ∧ t.rd R.SHR_RTSTAT.FROM = frm ∧ t.rd R.SHR_RTSTAT.GROUP = g ∧
      t.rt.donor = rt.donor ∧ t.rt.receiver = rt.receiver ∧ (t.dblk b).req = some (key % 65536, false) := by
  intro t
  have hkept : ∀ f : Fld, f.key / 32 = 0x00180308 → t.rd f = (d.stepBegun rcv frm g rt).rd f := fun _ => Dev.requestKey_rd_step _ b key
  have hrt : t.rt = rt := Dev.requestKey_rt _ b key
  obtain ⟨hphase, hto, hfrom, hgroup⟩ := d.stepBegun_shown (rt := rt) hrcv hfrm hg
  exact ⟨(hkept _ (by decide)).trans hphase, (hkept _ (by decide)).trans hto, (hkept _ (by decide)).trans hfrom,
    (hkept _ (by decide)).trans hgroup, congrArg Route.donor hrt, congrArg Route.receiver hrt, Dev.requestKey_req (d := d.stepBegun rcv frm g rt) hb key⟩

/-- The stream in force does not depend on the step. -/
theorem Dev.act_stepBegun : (d.stepBegun rcv frm g rt).act = d.act := by
  have hactv : (d.stepBegun rcv frm g rt).rd R.STS_BANK.ACTV = d.rd R.STS_BANK.ACTV := by
    simp (disch := decide) only [Dev.stepBegun, Dev.rd_wr_ne]
    rfl
  have hact : (d.stepBegun rcv frm g rt).rd R.STS_BANK.ACT = d.rd R.STS_BANK.ACT := by
    simp (disch := decide) only [Dev.stepBegun, Dev.rd_wr_ne]
    rfl
  rw [Dev.act, Dev.streamActive, Dev.on, hactv, hact]
  rfl

theorem Dev.keyOf_stepBegun (b i : Nat) : (d.stepBegun rcv frm g rt).keyOf b i = d.keyOf b i := by
  rw [Dev.keyOf, Dev.act_stepBegun, Dev.keyOf]

/-- The groups that can give the receiver a module, each with the output that has it. -/
def Dev.movable (d : Dev) (rcv : Nat) : List (Nat × Nat) := d.routeGroups.filterMap (fun g =>
  if d.rtSeq g rcv = 0x3F then none else ((d.routable.find? (fun q => q.1.group == g && d.routed q.1)).map (fun q => (g, q.2))))

/-- A plan may begin a step: routing is enabled in a delivering mode, no step is in progress and the FMP runs. -/
def Dev.MayPlan (d : Dev) : Prop := d.on R.SHR_RTCFG.EN = true ∧ (d.mode = .active ∨ d.mode = .derate ∨ d.mode = .autonomous) ∧
  d.rd R.SHR_RTSTAT.PHASE = 0 ∧ d.pw.fmpRestart = false

/-- Whether a plan may begin a step does not depend on the time. -/
theorem Dev.MayPlan.advanceTo (h : d.MayPlan) (q : Nat) : (d.advanceTo q).MayPlan := h

theorem Dev.routePlan_disabled (h : d.on R.SHR_RTCFG.EN = false) : d.routePlan = d := if_neg (by simp [h])

/-- A plan that finds receiver, donor, group and variant begins the step and requests the variant. -/
theorem Dev.routePlan_begins (hplans : d.MayPlan)
    (hrcv : argMax (([0, 1, 2, 3].map (fun n => (n, d.rtDeficit n))).filter (fun x => decide (0 < x.2))) = some rcv)
    (hfrm : argMax (([0, 1, 2, 3].filter (fun n => (d.movable rcv).any (fun x => x.2 == n) && decide (n ≠ rcv) &&
      decide (d.rtDeficit n < 0))).map (fun n => (n, -(d.rtDeficit n)))) = some frm)
    (hg : (d.movable rcv).find? (fun x => x.2 == frm) = some (g, frm)) (hm : d.routeMod g frm = some m)
    (hm' : d.routeMod g rcv = some m') (hv : d.moduleVariant m.blk m.mod false = some v) :
    d.routePlan = (d.stepBegun rcv frm g { prevKey := d.keyOf m.blk (d.dblk m.blk).active, donor := m.blk, receiver := m'.blk }).requestKey
      m.blk (d.keyOf m.blk v) := by
  obtain ⟨hen, hmode, hphase, hrun⟩ := hplans
  rw [Dev.movable] at hfrm hg
  rw [Dev.routePlan, if_pos (by simp [hen, hmode, hphase, hrun, or_assoc])]
  simp only [hrcv, hfrm, hg, hm, hm', hv]
  exact congrArg (Dev.requestKey _ m.blk) (Dev.keyOf_stepBegun m.blk v)

end

/-! ## The step that the time-out abandons (Table 11-5) -/

section
variable {d : Dev}

theorem Dev.rtAbandon_shown : d.rtAbandon.rd R.SHR_RTSTAT.PHASE = 0 ∧ d.rtAbandon.rd R.SHR_RTSTAT.STEPS = d.rd R.SHR_RTSTAT.STEPS ∧
    d.rtAbandon.dgr = d.dgr := by
  simp only [Dev.rtAbandon, Dev.raise_rd, Dev.raise_dgr]
  exact ⟨Dev.rd_wr _ _ _, Dev.rd_wr_ne _ _ _ _ (by decide), rfl⟩

theorem Dev.routeTimeout_of_zero (h : d.rd R.SHR_RTSTAT.PHASE = 2) :
    d.routeTimeout = (d.requestKey d.rt.donor d.rt.prevKey).rtAbandon := if_pos h

theorem Dev.routeTimeout_of_ne (h : d.rd R.SHR_RTSTAT.PHASE ≠ 2) : d.routeTimeout = d := if_neg h

end

/-! ## The answer of each command of this part -/

theorem exec_routingPlan (s : State) : exec .routingPlan s =
    done s (fun d => if d.domOn .f4 then (d.advanceTo d.next100ms).routePlan else d) := rfl

theorem exec_routingZeroTimeout (s : State) : exec .routingZeroTimeout s =
    done s (fun d => if d.domOn .f4 then d.routeTimeout else d) := rfl

section
variable {s : State} (hon : s.dev.domOn .f4 = true)
include hon

theorem answers_routingPlan_disabled (hen : s.dev.on R.SHR_RTCFG.EN = false) :
    Answers .routingPlan s (fun t => t = s.dev.advanceTo s.dev.next100ms) :=
  answers_of_onF4 (exec_routingPlan s) hon (Dev.routePlan_disabled (d := s.dev.advanceTo s.dev.next100ms) hen)

theorem answers_routingZeroTimeout_zero (hphase : s.dev.rd R.SHR_RTSTAT.PHASE = 2) (hb : s.dev.rt.donor < s.dev.dgr.blk.length) :
    Answers .routingZeroTimeout s (fun t => t.rd R.SHR_RTSTAT.PHASE = 0 ∧ t.rd R.SHR_RTSTAT.STEPS = s.dev.rd R.SHR_RTSTAT.STEPS ∧
      (t.dblk s.dev.rt.donor).req = some (s.dev.rt.prevKey % 65536, false)) := by
  refine answers_of_onF4 (exec_routingZeroTimeout s) hon ?_
  rw [Dev.routeTimeout_of_zero hphase]
  obtain ⟨hnone, hsteps, hdgr⟩ := (s.dev.requestKey s.dev.rt.donor s.dev.rt.prevKey).rtAbandon_shown
  refine ⟨hnone, hsteps.trans (s.dev.requestKey_rd_step _ _ (by decide)), ?_⟩
  rw [Dev.dblk, hdgr]
  exact Dev.requestKey_req hb _

end

/-- Settles O32: a plan that finds all it needs is the step begun and its variant's request, and a time-out in phase 2 the former
key's request and the step abandoned. -/
theorem routingMovesOneModule : Obligations.RoutingMovesOneModule := by
  intro s hon
  refine ⟨answers_routingPlan_disabled hon, ?_, answers_routingZeroTimeout_zero hon,
    fun hphase => answers_of_onF4 (exec_routingZeroTimeout s) hon (Dev.routeTimeout_of_ne hphase)⟩
  intro rcv frm g v m m' hen hmode hphase hrun hrcv movable hfrm hg hm hm' hv hrcv4 hfrm4 hg20 hblk
  have hplans : s.dev.MayPlan := ⟨hen, hmode, hphase, hrun⟩
  have hbegins := Dev.routePlan_begins (hplans.advanceTo _) hrcv hfrm hg hm hm' hv
  refine answers_of_onF4 (exec_routingPlan s) hon ?_
  rw [hbegins]
  exact Dev.stepRequested_shown hrcv4 hfrm4 hg20 (d := s.dev.advanceTo s.dev.next100ms) hblk _

end Sys2Proof.Machine
end

section
/-! GOOSE subscriptions (R255, R256): what an order to the outputs and a hold leave of the registers of SVG, the hold itself, and
the four commands of a subscription. -/

namespace Sys2Proof.Machine

/-! ## Registers of SVG kept -/

/-- Every register of SVG, the addresses from F:0x0019_0000 to 0x0019_FFFF, reads the same in `e` as in `d`. -/
def Dev.KeepsSvg (d e : Dev) : Prop := ∀ g : Fld, g.key / 2 ^ 21 = 0x19 → e.rd g = d.rd g

section
variable {d e : Dev}

theorem Dev.KeepsSvg.refl (d : Dev) : d.KeepsSvg d := fun _ _ => rfl

theorem Dev.KeepsSvg.of_regs {e' : Dev} (h : d.KeepsSvg e) (hregs : e'.regs = e.regs) : d.KeepsSvg e' :=
  fun g hg => (congrArg (Regs.get · g) hregs).trans (h g hg)

theorem Dev.KeepsSvg.wr {f : Fld} {v : Nat} (h : d.KeepsSvg e) (hf : f.key / 2 ^ 21 ≠ 0x19) : d.KeepsSvg (e.wr f v) :=
  fun g hg => (Dev.rd_wr_ne e f g v fun hkey => hf (hkey ▸ hg)).trans (h g hg)

theorem Dev.KeepsSvg.wrAll {ws : List (Fld × Nat)} (h : d.KeepsSvg e) (hws : ∀ w ∈ ws, w.1.key / 2 ^ 21 ≠ 0x19) :
    d.KeepsSvg (e.wrAll ws) := by
  induction ws generalizing e with
  | nil => exact h
  | cons w ws ih =>
    obtain ⟨hw, hrest⟩ := List.forall_mem_cons.mp hws
    exact ih (h.wr hw) hrest

theorem Dev.KeepsSvg.raise (h : d.KeepsSvg e) (n kind : Nat) (data : List Nat) : d.KeepsSvg (e.raise n kind data) :=
  h.of_regs (e.raise_regs n kind data)

/-! ## Orders to outputs and legs keep them (R190, R301, R303) -/

theorem Dev.KeepsSvg.outCause (h : d.KeepsSvg e) (n c : Nat) : d.KeepsSvg (e.outCause n c) := by
  refine (h.wr ?_).raise 49 2 [n, c]
  simp only [Fld.key, R.OUT_FCAUSE.CAUSE]
  omega

theorem Dev.KeepsSvg.outPend (h : d.KeepsSvg e) (n c : Nat) : d.KeepsSvg (e.outPend n c) := by
  unfold Dev.outPend
  dsimp only
  split
  · refine ((h.outCause n c).of_regs rfl).wr ?_
    simp only [Fld.key, R.OUT_STAT.FPEND]
    omega
  · exact h.outCause n c

theorem Dev.KeepsSvg.outQuench (h : d.KeepsSvg e) (n c : Nat) : d.KeepsSvg (e.outQuench n (some c)) := by
  unfold Dev.outQuench
  split
  · exact (h.outPend n c).of_regs rfl
  · exact h

theorem Dev.KeepsSvg.legSafeShow (h : d.KeepsSvg e) (n : Nat) (v : Bool) : d.KeepsSvg (e.legSafeShow n v) := by
  unfold Dev.legSafeShow
  dsimp only
  split
  · exact h
  · refine h.wr ?_
    simp only [Fld.key, R.TRP_LEGSAFE.LEG]
    omega

theorem Dev.KeepsSvg.setLegState (h : d.KeepsSvg e) (n v : Nat) : d.KeepsSvg (e.setLegState n v) := by
  refine h.wr ?_
  simp only [Fld.key, R.PWM_LEGSTAT.STATE]
  omega

theorem Dev.KeepsSvg.legSafe (h : d.KeepsSvg e) (n : Nat) : d.KeepsSvg (e.legSafe n) := h.of_regs ((e.legSafe_reach n).onlyIn.regs rfl)

theorem Dev.KeepsSvg.legOwes (h : d.KeepsSvg e) (n : Nat) (v : Bool) : d.KeepsSvg (e.legOwes n v) := h.of_regs rfl

theorem Dev.KeepsSvg.legsTrip (h : d.KeepsSvg e) : d.KeepsSvg e.legsTrip := by
  refine Dev.forAll_induct h fun e n he => ?_
  dsimp only
  split
  case isFalse => exact he.legSafeShow n false
  case isTrue =>
    split
    case isTrue =>
      split
      · exact (((he.legSafeShow n true).legSafe n).legOwes n false).setLegState n 4
      · exact he.legSafeShow n true
    case isFalse =>
      split
      · split
        · exact (he.legOwes n true).setLegState n 5
        · exact he
      · exact he.legSafeShow n false

theorem Dev.KeepsSvg.tripFirst (h : d.KeepsSvg e) (input : Nat) : d.KeepsSvg (e.tripFirst input) := by
  unfold Dev.tripFirst
  split
  · exact h
  · exact (((h.wr (by decide)).wr (by decide)).wr (by decide)).wr (by decide)

theorem Dev.KeepsSvg.capCause (h : d.KeepsSvg e) (cause : Nat) : d.KeepsSvg (e.capCause cause) :=
  h.of_regs ((e.capCause_reach cause).onlyIn.regs rfl)

theorem Dev.KeepsSvg.deviceTrip (h : d.KeepsSvg e) : d.KeepsSvg e.deviceTrip := by
  have hfirst : d.KeepsSvg ((e.wr R.TRP_SWSTAT.DEV 1).tripFirst 96) := (h.wr (by decide)).tripFirst 96
  have hpend : ∀ p : Power, d.KeepsSvg { (e.wr R.TRP_SWSTAT.DEV 1).tripFirst 96 with pw := p } := fun _ => hfirst.of_regs rfl
  exact .capCause (.raise (.legsTrip (hpend _)) 11 0 []) 2

/-- The action of a hold that begins leaves every register of SVG, whatever Table 12-5 orders. -/
theorem Dev.KeepsSvg.gooseAct (h : d.KeepsSvg e) (j : Nat) : d.KeepsSvg (e.gooseAct j) := by
  unfold Dev.gooseAct
  split
  · exact Dev.forAll_induct h fun _ n he => he.outQuench n 14
  · exact h.of_regs rfl
  · exact h.deviceTrip
  · exact h

/-! ## The end of an injection keeps them (R398) -/

theorem Dev.KeepsSvg.injShow (h : d.KeepsSvg e) : d.KeepsSvg e.injShow := by
  have hkeys : ∀ f ∈ [R.FDIA_INJSTAT.ACTIVE, R.HDIA_INJSTAT.ACTIVE, R.FDIA_INJSTAT.TOKEN, R.HDIA_INJSTAT.TOKEN, R.FDIA_INJSTAT.COUNT,
      R.HDIA_INJSTAT.COUNT], f.key / 2 ^ 21 ≠ 0x19 := by decide
  exact h.wrAll fun _ hw => hkeys _ (List.mem_map_of_mem (f := Prod.fst) hw)

theorem Dev.KeepsSvg.injEnd_field (h : d.KeepsSvg e) {point : Nat} (hp : point < 32) (inst : Nat) : d.KeepsSvg (e.injEnd point inst) := by
  have hended : ∀ x : Inject, d.KeepsSvg { e with inj := x } := fun _ => h.of_regs rfl
  unfold Dev.injEnd
  split
  · exact h
  · simp only [if_pos hp, Dev.raiseOn]
    exact .raise (.injShow (hended _)) _ _ _

end

/-! ## The registers of one subscription (chapter 12) -/

/-- The key of bit `c` in the eight words of subscription `j`, counted from the low bit of SVG_GSCFG. -/
def gsKey (j c : Nat) : Nat := (0x00190800 + 0x20 * (j % 32)) * 32 + c

section
variable (j : Nat)

@[simp] theorem gsKey_inj {a b : Nat} : gsKey j a = gsKey j b ↔ a = b := Nat.add_left_cancel_iff

@[simp] theorem key_gscfg_en : (R.SVG_GSCFG.EN j).key = gsKey j 31 := rfl

@[simp] theorem key_gscfg_failsafe : (R.SVG_GSCFG.FAILSAFE j).key = gsKey j 23 := rfl

@[simp] theorem key_gsstat_state : (R.SVG_GSSTAT.STATE j).key = gsKey j 896 := by
  simp only [Fld.key, R.SVG_GSSTAT.STATE, gsKey]
  omega

@[simp] theorem key_gsstat_value : (R.SVG_GSSTAT.VALUE j).key = gsKey j 899 := by
  simp only [Fld.key, R.SVG_GSSTAT.VALUE, gsKey]
  omega

@[simp] theorem key_gsstat_hold : (R.SVG_GSSTAT.HOLD j).key = gsKey j 900 := by
  simp only [Fld.key, R.SVG_GSSTAT.HOLD, gsKey]
  omega

@[simp] theorem key_gsstat_qbad : (R.SVG_GSSTAT.QBAD j).key = gsKey j 901 := by
  simp only [Fld.key, R.SVG_GSSTAT.QBAD, gsKey]
  omega

@[simp] theorem key_gsstat_stnum : (R.SVG_GSSTAT.STNUM j).key = gsKey j 912 := by
  simp only [Fld.key, R.SVG_GSSTAT.STNUM, gsKey]
  omega

end

/-- A field of a subscription is a register of SVG. -/
theorem Dev.KeepsSvg.rd_gs {d e : Dev} (h : d.KeepsSvg e) {g : Fld} {j c : Nat} (hkey : g.key = gsKey j c) (hc : c < 1024) :
    e.rd g = d.rd g := by
  refine h g ?_
  rw [hkey, gsKey]
  omega

/-! ## The hold (R256) -/

/-- A subscription holds: LIVE with a true value of good quality, or STALE with FAILSAFE. -/
def Dev.gooseHolds (d : Dev) (j : Nat) : Bool :=
  (decide (d.rd (R.SVG_GSSTAT.STATE j) = 2) && d.on (R.SVG_GSSTAT.VALUE j) && !d.on (R.SVG_GSSTAT.QBAD j)) ||
    (decide (d.rd (R.SVG_GSSTAT.STATE j) = 3) && d.on (R.SVG_GSCFG.FAILSAFE j))

section
variable {d : Dev} {j : Nat}

theorem Dev.gooseHolds_of_off (h : d.rd (R.SVG_GSSTAT.STATE j) = 0) : d.gooseHolds j = false := by simp [Dev.gooseHolds, h]

theorem Dev.gooseHolds_of_live (h : d.rd (R.SVG_GSSTAT.STATE j) = 2) :
    d.gooseHolds j = (d.on (R.SVG_GSSTAT.VALUE j) && !d.on (R.SVG_GSSTAT.QBAD j)) := by simp [Dev.gooseHolds, h]

theorem Dev.gooseHolds_of_stale (h : d.rd (R.SVG_GSSTAT.STATE j) = 3) : d.gooseHolds j = d.on (R.SVG_GSCFG.FAILSAFE j) := by
  simp [Dev.gooseHolds, h]

/-- Bringing the hold up to date shows it, and of SVG writes nothing else. -/
theorem Dev.gooseHold_keepsSvg : (d.wrB (R.SVG_GSSTAT.HOLD j) (d.gooseHolds j)).KeepsSvg (d.gooseHold j) := by
  have hshown := Dev.KeepsSvg.refl (d.wrB (R.SVG_GSSTAT.HOLD j) (d.gooseHolds j))
  unfold Dev.gooseHold
  dsimp only
  split
  · exact (hshown.raise 37 0 [j]).gooseAct j
  · split
    · exact hshown.raise 37 3 [j]
    · exact hshown

theorem Dev.gooseHold_hold : (d.gooseHold j).rd (R.SVG_GSSTAT.HOLD j) = b2n (d.gooseHolds j) :=
  (Dev.gooseHold_keepsSvg.rd_gs (key_gsstat_hold j) (by decide)).trans (Dev.rd_wrB d _ rfl)

theorem Dev.gooseHold_rd_other {g : Fld} {c : Nat} (hkey : g.key = gsKey j c) (hc : c < 1024) (hne : c ≠ 900) :
    (d.gooseHold j).rd g = d.rd g :=
  (Dev.gooseHold_keepsSvg.rd_gs hkey hc).trans (Dev.rd_wr_ne _ _ _ _ (by simpa [hkey] using hne.symm))

theorem Dev.gooseHold_svg (d : Dev) (j : Nat) : (d.gooseHold j).svg = d.svg := (d.gooseHold_reach j).onlyIn.svg rfl

end

/-! ## Its states (Table 12-4) -/

section
variable {d : Dev} {j : Nat}

theorem Dev.gs_setGs_self (x : GsRt) (h : j < d.svg.gs.length) : (d.setGs j x).gs j = x := getD_setAt_self x {} h

theorem Dev.setGs_rd (x : GsRt) (f : Fld) : (d.setGs j x).rd f = d.rd f := rfl

theorem Dev.gooseEnable_waits (hoff : d.rd (R.SVG_GSSTAT.STATE j) = 0) (hruns : d.svgRuns = true) (hj : j < d.svg.gs.length) :
    (d.gooseEnable j).rd (R.SVG_GSSTAT.STATE j) = 1 ∧ (d.gooseEnable j).rd (R.SVG_GSSTAT.HOLD j) = 0 ∧
    (d.gooseEnable j).rd (R.SVG_GSCFG.EN j) = 1 ∧ (d.gooseEnable j).gs j = {} := by
  have hoff' : (d.wr (R.SVG_GSCFG.EN j) 1).rd (R.SVG_GSSTAT.STATE j) = 0 := by rwa [Dev.rd_wr_ne _ _ _ _ (by simp)]
  have hkey : (R.SVG_GSCFG.EN j).key ≠ R.SVG_CTL.STATUS.key := by
    simp only [Fld.key, R.SVG_GSCFG.EN, R.SVG_CTL.STATUS]
    omega
  have hruns' : (d.wr (R.SVG_GSCFG.EN j) 1).svgRuns = true := by rwa [Dev.svgRuns, Dev.rd_wr_ne _ _ _ _ hkey]
  have henable : d.gooseEnable j =
      (((d.wr (R.SVG_GSCFG.EN j) 1).setGs j {}).wr (R.SVG_GSSTAT.STATE j) 1).wr (R.SVG_GSSTAT.HOLD j) 0 := if_pos ⟨hoff', hruns'⟩
  rw [henable]
  refine ⟨?_, Dev.rd_wr .., ?_, Dev.gs_setGs_self (d := d.wr (R.SVG_GSCFG.EN j) 1) {} hj⟩
  · rw [Dev.rd_wr_ne _ _ _ _ (by simp), Dev.rd_wr]
    rfl
  · rw [Dev.rd_wr_ne _ _ _ _ (by simp), Dev.rd_wr_ne _ _ _ _ (by simp), Dev.setGs_rd, Dev.rd_wr]
    rfl

/-- OFF there is no hold, and the configuration stays. -/
theorem Dev.gooseOff_clears : (d.gooseOff j).rd (R.SVG_GSSTAT.STATE j) = 0 ∧ (d.gooseOff j).rd (R.SVG_GSSTAT.HOLD j) = 0 ∧
    (d.gooseOff j).rd (R.SVG_GSCFG.EN j) = d.rd (R.SVG_GSCFG.EN j) := by
  have hoff : ((d.setGs j {}).wr (R.SVG_GSSTAT.STATE j) 0).rd (R.SVG_GSSTAT.STATE j) = 0 := Dev.rd_wr ..
  refine ⟨?_, ?_, ?_⟩
  · rw [Dev.gooseOff, Dev.gooseHold_rd_other (key_gsstat_state j) (by decide) (by decide), hoff]
  · rw [Dev.gooseOff, Dev.gooseHold_hold, Dev.gooseHolds_of_off hoff]
    rfl
  · rw [Dev.gooseOff, Dev.gooseHold_rd_other (key_gscfg_en j) (by decide) (by decide), Dev.rd_wr_ne _ _ _ _ (by simp), Dev.setGs_rd]

theorem Dev.gooseStale_of_live (h : d.rd (R.SVG_GSSTAT.STATE j) = 2) :
    d.gooseStale j = ((d.wr (R.SVG_GSSTAT.STATE j) 3).raise 37 1 [j]).gooseHold j := if_pos h

theorem Dev.gooseStale_of_ne_live (h : d.rd (R.SVG_GSSTAT.STATE j) ≠ 2) : d.gooseStale j = d := if_neg h

/-- STALE the hold is FAILSAFE, and the last value stays shown. -/
theorem Dev.gooseStale_fails_safe (h : d.rd (R.SVG_GSSTAT.STATE j) = 2) : (d.gooseStale j).rd (R.SVG_GSSTAT.STATE j) = 3 ∧
    (d.gooseStale j).rd (R.SVG_GSSTAT.HOLD j) = b2n (d.on (R.SVG_GSCFG.FAILSAFE j)) ∧
    (d.gooseStale j).rd (R.SVG_GSSTAT.VALUE j) = d.rd (R.SVG_GSSTAT.VALUE j) := by
  have hstale : ((d.wr (R.SVG_GSSTAT.STATE j) 3).raise 37 1 [j]).rd (R.SVG_GSSTAT.STATE j) = 3 := (Dev.raise_rd ..).trans (Dev.rd_wr ..)
  rw [Dev.gooseStale_of_live h]
  refine ⟨?_, ?_, ?_⟩
  · rw [Dev.gooseHold_rd_other (key_gsstat_state j) (by decide) (by decide), hstale]
  · rw [Dev.gooseHold_hold, Dev.gooseHolds_of_stale hstale, Dev.raise_on, Dev.on, Dev.rd_wr_ne _ _ _ _ (by simp), Dev.on]
  · rw [Dev.gooseHold_rd_other (key_gsstat_value j) (by decide) (by decide), Dev.raise_rd, Dev.rd_wr_ne _ _ _ _ (by simp)]

end

/-! ## A message (R255) -/

/-- The block with an accepted message noted and shown. -/
def Dev.gsNoted (d : Dev) (j : Nat) (m : GooseMsg) (v qb : Bool) : Dev :=
  (d.setGs j { last := some (m.stNum, m.sqNum), at' := d.stcNs, ttl := m.ttl * 1000000 }).wrAll
    [(R.SVG_GSSTAT.VALUE j, b2n v), (R.SVG_GSSTAT.QBAD j, b2n qb), (R.SVG_GSSTAT.STNUM j, m.stNum)]

/-- The subscription LIVE, with event 37 KIND 2 where it was not. -/
def Dev.gsLive (d : Dev) (j : Nat) : Dev :=
  if d.rd (R.SVG_GSSTAT.STATE j) = 2 then d else (d.wr (R.SVG_GSSTAT.STATE j) 2).raise 37 2 [j]

section
variable {d : Dev} {j : Nat} {m : GooseMsg} {v qb : Bool}

theorem Dev.gooseFrame_of_match (h : (List.range 32).find? (fun i => d.gsMatches i m) = some j) : d.gooseFrame m = d.gsReceive j m := by
  rw [Dev.gooseFrame, h]

theorem Dev.authOk_of_open (h : d.on (R.SVG_GSCFG.AUTH j) = false) (slot : Nat) (e : Option AuthExt) :
    d.authOk (d.on (R.SVG_GSCFG.AUTH j)) slot e = true := by simp [Dev.authOk, h]

theorem Dev.gsReceive_first (hauth : d.on (R.SVG_GSCFG.AUTH j) = false) (hrev : m.confRev = d.rd (R.SVG_GSREV.VALUE j))
    (hcom : m.ndsCom = false) (hsim : m.simulation = false) (hfirst : (d.gs j).last = none) (hval : d.gsValue j m = some (v, qb)) :
    d.gsReceive j m = (((d.gsNoted j m v qb).injEnd 14 j).gsLive j).gooseHold j := by
  simp only [Dev.gsReceive, Dev.authOk_of_open hauth, hrev, hcom, hsim, hfirst, hval, ne_eq, not_true_eq_false, Bool.true_eq_false,
    Bool.false_eq_true, false_and, or_self, if_false]
  rfl

theorem Dev.gsReceive_of_other_rev (hauth : d.on (R.SVG_GSCFG.AUTH j) = false) (hrev : m.confRev ≠ d.rd (R.SVG_GSREV.VALUE j)) :
    d.gsReceive j m = d.bump R.SVG_CNT.GSFORMAT := by
  rw [Dev.gsReceive, if_neg (by simp [Dev.authOk_of_open hauth]), if_pos (.inl hrev)]

theorem Dev.gsNoted_shown : (d.gsNoted j m v qb).rd (R.SVG_GSSTAT.VALUE j) = b2n v ∧ (d.gsNoted j m v qb).rd (R.SVG_GSSTAT.QBAD j) = b2n qb ∧
    (d.gsNoted j m v qb).rd (R.SVG_GSSTAT.STNUM j) = m.stNum % 2 ^ (R.SVG_GSSTAT.STNUM j).width := by
  simp (disch := simp) only [Dev.gsNoted, Dev.wrAll, List.foldl_cons, List.foldl_nil, Dev.rd_wr_ne, Dev.rd_wr]
  exact ⟨b2n_mod_two v, b2n_mod_two qb, trivial⟩

theorem Dev.gsNoted_last (hj : j < d.svg.gs.length) : ((d.gsNoted j m v qb).gs j).last = some (m.stNum, m.sqNum) :=
  congrArg GsRt.last (Dev.gs_setGs_self _ hj)

theorem Dev.gsLive_state : (d.gsLive j).rd (R.SVG_GSSTAT.STATE j) = 2 := by
  unfold Dev.gsLive
  split
  · assumption
  · exact (Dev.raise_rd ..).trans (Dev.rd_wr ..)

theorem Dev.gsLive_rd_other {g : Fld} (hne : (R.SVG_GSSTAT.STATE j).key ≠ g.key) : (d.gsLive j).rd g = d.rd g := by
  unfold Dev.gsLive
  split
  · rfl
  · exact (Dev.raise_rd ..).trans (Dev.rd_wr_ne _ _ _ _ hne)

theorem Dev.gsLive_svg : (d.gsLive j).svg = d.svg := by
  unfold Dev.gsLive
  split
  · rfl
  · exact Dev.raise_svg ..

theorem decide_b2n_eq_one (b : Bool) : decide (b2n b = 1) = b := by cases b <;> rfl

/-- What the end of the injection and the step to LIVE leave of the message noted. -/
theorem Dev.gsLive_injEnd_rd {g : Fld} {c : Nat} (hkey : g.key = gsKey j c) (hc : c < 1024) (hne : c ≠ 896) :
    ((d.injEnd 14 j).gsLive j).rd g = d.rd g :=
  (Dev.gsLive_rd_other (by simpa [hkey] using hne.symm)).trans (((Dev.KeepsSvg.refl d).injEnd_field (by decide) j).rd_gs hkey hc)

/-- The subscription LIVE with the message noted, and its hold. -/
theorem Dev.gsNoted_live_holds (hj : j < d.svg.gs.length) : let t := (((d.gsNoted j m v qb).injEnd 14 j).gsLive j).gooseHold j
    t.rd (R.SVG_GSSTAT.STATE j) = 2 ∧ t.rd (R.SVG_GSSTAT.VALUE j) = b2n v ∧ t.rd (R.SVG_GSSTAT.QBAD j) = b2n qb ∧
    t.rd (R.SVG_GSSTAT.STNUM j) = m.stNum % 2 ^ (R.SVG_GSSTAT.STNUM j).width ∧ t.rd (R.SVG_GSSTAT.HOLD j) = b2n (v && !qb) ∧
    (t.gs j).last = some (m.stNum, m.sqNum) := by
  intro t
  obtain ⟨hvalue, hqbad, hstnum⟩ := d.gsNoted_shown (j := j) (m := m) (v := v) (qb := qb)
  have hstate : (((d.gsNoted j m v qb).injEnd 14 j).gsLive j).rd (R.SVG_GSSTAT.STATE j) = 2 := Dev.gsLive_state
  have hvalue' := (Dev.gsLive_injEnd_rd (key_gsstat_value j) (by decide) (by decide)).trans hvalue
  have hqbad' := (Dev.gsLive_injEnd_rd (key_gsstat_qbad j) (by decide) (by decide)).trans hqbad
  have hstnum' := (Dev.gsLive_injEnd_rd (key_gsstat_stnum j) (by decide) (by decide)).trans hstnum
  refine ⟨(Dev.gooseHold_rd_other (key_gsstat_state j) (by decide) (by decide)).trans hstate,
    (Dev.gooseHold_rd_other (key_gsstat_value j) (by decide) (by decide)).trans hvalue',
    (Dev.gooseHold_rd_other (key_gsstat_qbad j) (by decide) (by decide)).trans hqbad',
    (Dev.gooseHold_rd_other (key_gsstat_stnum j) (by decide) (by decide)).trans hstnum', ?_, ?_⟩
  · rw [Dev.gooseHold_hold, Dev.gooseHolds_of_live hstate, Dev.on, hvalue', Dev.on, hqbad', decide_b2n_eq_one, decide_b2n_eq_one]
  · rw [Dev.gs, Dev.gooseHold_svg, Dev.gsLive_svg, (Dev.injEnd_reach _ 14 j).onlyIn.svg rfl]
    exact Dev.gsNoted_last hj

end

/-! ## The answer of each command -/

section
variable (s : State)

theorem exec_gooseFrame (m : GooseMsg) : exec (.gooseFrame m) s =
    done s (fun d => if d.domOn .f4 then (if d.svgRuns then (d.rxFree 1).gooseFrame m else d.rxFree 1) else d) := rfl

theorem exec_gooseTtlExpiry (j : Fin 32) : exec (.gooseTtlExpiry j) s = done s (fun d => if d.domOn .f4 then d.gooseStale j else d) := rfl

theorem exec_gooseSubscriptionEnable (j : Fin 32) : exec (.gooseSubscriptionEnable j) s =
    done s (fun d => if d.domOn .f4 then d.gooseEnable j else d) := rfl

theorem exec_gooseSubscriptionDisable (j : Fin 32) : exec (.gooseSubscriptionDisable j) s =
    done s (fun d => if d.domOn .f4 then (d.wr (R.SVG_GSCFG.EN j) 0).gooseOff j else d) := rfl

variable {s} {m : GooseMsg} {j : Nat}

theorem answers_gooseSubscriptionDisable (hon : s.dev.domOn .f4 = true) (j : Fin 32) : Answers (.gooseSubscriptionDisable j) s (fun t =>
    t.rd (R.SVG_GSSTAT.STATE j) = 0 ∧ t.rd (R.SVG_GSSTAT.HOLD j) = 0 ∧ t.rd (R.SVG_GSCFG.EN j) = 0) := by
  obtain ⟨hstate, hhold, hen⟩ := (s.dev.wr (R.SVG_GSCFG.EN j) 0).gooseOff_clears (j := j)
  exact answers_of_onF4 (exec_gooseSubscriptionDisable s j) hon ⟨hstate, hhold, hen.trans (Dev.rd_wr ..)⟩

/-- The frame of a subscription answers its reception, once it has left its cell. -/
theorem answers_gooseFrame {P : Dev → Prop} (hon : s.dev.domOn .f4 = true) (hruns : s.dev.svgRuns = true)
    (hfind : (List.range 32).find? (fun i => s.dev.gsMatches i m) = some j) (hP : P ((s.dev.rxFree 1).gsReceive j m)) :
    Answers (.gooseFrame m) s P :=
  answers_of_onF4 (exec_gooseFrame s m) hon (by
    rw [if_pos hruns, Dev.gooseFrame_of_match (d := s.dev.rxFree 1) hfind]
    exact hP)

end

/-- Settles O36: a command writes the state, and a first message also what it shows, before the hold is brought up to date; the
orders that a new hold gives leave every register of SVG, so the hold stays what the state it was judged in makes it. -/
theorem gooseSubscriptionsHold : Obligations.GooseSubscriptionsHold := by
  intro s hon
  refine ⟨fun j hoff hruns hj => answers_of_onF4 (exec_gooseSubscriptionEnable s j) hon (Dev.gooseEnable_waits hoff hruns hj),
    answers_gooseSubscriptionDisable hon,
    fun j hlive => answers_of_onF4 (exec_gooseTtlExpiry s j) hon (Dev.gooseStale_fails_safe hlive),
    fun j hne => answers_of_onF4 (exec_gooseTtlExpiry s j) hon (Dev.gooseStale_of_ne_live hne), ?_, ?_⟩
  · intro m j v qb hruns hfind hauth hrev hcom hsim hfirst hval hj
    refine answers_gooseFrame hon hruns hfind ?_
    rw [Dev.gsReceive_first (d := s.dev.rxFree 1) hauth hrev hcom hsim hfirst hval]
    exact Dev.gsNoted_live_holds (d := s.dev.rxFree 1) hj
  · intro m j hruns hfind hauth hrev
    refine answers_gooseFrame hon hruns hfind ?_
    rw [Dev.gsReceive_of_other_rev (d := s.dev.rxFree 1) hauth hrev]
    exact ⟨Dev.rd_bump .., rfl, Dev.regsBut_wr rfl⟩

end Sys2Proof.Machine
end

section
/-! The billing store and the sessions of chapter 14: what each operation on the live image, the commits, the legal log and a
session leaves of the block, and the fields it shows. -/

namespace Sys2Proof.Machine

/-! ## Live image and shown counts (R285) -/

section
variable (d : Dev)

@[simp] theorem Dev.liveRefresh_regs : d.liveRefresh.regs = d.regs := d.liveRefresh_reach.onlyIn.regs rfl

@[simp] theorem Dev.liveRefresh_rd (f : Fld) : d.liveRefresh.rd f = d.rd f := congrArg (Regs.get · f) d.liveRefresh_regs

@[simp] theorem Dev.liveRefresh_bil : d.liveRefresh.bil = d.bil := d.liveRefresh_reach.onlyIn.bil rfl

/-- Of the kept stores only the copies of the live image change. -/
theorem Dev.liveRefresh_bst : ∃ copies, d.liveRefresh.bst = { d.bst with copies := copies } := by
  unfold Dev.liveRefresh
  dsimp only
  split
  · exact ⟨_, rfl⟩
  · exact ⟨_, rfl⟩

theorem Dev.liveRefresh_stores :
    d.liveRefresh.bst.slots = d.bst.slots ∧ d.liveRefresh.bst.recs = d.bst.recs ∧ d.liveRefresh.bst.logs = d.bst.logs := by
  obtain ⟨copies, hbst⟩ := d.liveRefresh_bst
  rw [hbst]
  exact ⟨rfl, rfl, rfl⟩

@[simp] theorem Dev.storeShow_bil : d.storeShow.bil = d.bil := rfl

@[simp] theorem Dev.storeShow_bst : d.storeShow.bst = d.bst := rfl

@[simp] theorem Dev.recordReady_bil (output kind number : Nat) : (d.recordReady output kind number).bil = d.bil := rfl

@[simp] theorem Dev.bilDrained_bil : d.bilDrained.bil = d.bil := d.bilDrained_reach.onlyIn.bil rfl

@[simp] theorem Dev.bilDrained_bst : d.bilDrained.bst = d.bst := d.bilDrained_reach.onlyIn.bst rfl

theorem Dev.bilDrained_regsBut : d.RegsBut [R.BIL_CTL.STATUS] d.bilDrained := by
  unfold Dev.bilDrained
  split
  · exact Dev.regsBut_wr rfl
  · exact .refl _ _

end

/-! ## Commits (R286) -/

section
variable {d : Dev}

theorem Dev.commitReq_of_not_ready (h : d.rd R.BIL_CTL.STATUS ≠ 1) : d.commitReq = d := if_pos h

theorem Dev.commitReq_of_idle (hready : d.rd R.BIL_CTL.STATUS = 1) (hidle : d.rd R.BIL_COMMIT.STATE = 0) : d.commitReq = d.commitBegin := by
  rw [Dev.commitReq, if_neg (not_not.mpr hready), if_pos hidle]

theorem Dev.commitReq_of_writing (hready : d.rd R.BIL_CTL.STATUS = 1) (hwriting : d.rd R.BIL_COMMIT.STATE ≠ 0) :
    d.commitReq = d.wr R.BIL_COMMIT.STATE 2 := by
  rw [Dev.commitReq, if_neg (not_not.mpr hready), if_neg hwriting]

theorem Dev.commitBegin_state (d : Dev) : d.commitBegin.rd R.BIL_COMMIT.STATE = 1 := Dev.rd_wr ..

theorem Dev.commitBegin_commit (d : Dev) : d.commitBegin.bil.commit.isSome = true := rfl

theorem Dev.commitBegin_stores (d : Dev) : d.commitBegin.bst.recs = d.bst.recs ∧ d.commitBegin.bst.logs = d.bst.logs := ⟨rfl, rfl⟩

theorem Dev.commitReq_bil (d : Dev) : ∃ commit, d.commitReq.bil = { d.bil with commit := commit } := by
  unfold Dev.commitReq
  split
  · exact ⟨_, rfl⟩
  · split
    · exact ⟨_, rfl⟩
    · exact ⟨_, rfl⟩

theorem Dev.commitReq_sealing (d : Dev) : d.commitReq.bil.sealing = d.bil.sealing := by
  obtain ⟨commit, hbil⟩ := d.commitReq_bil
  rw [hbil]

/-- The block after its commit ended, before the outcome is noted. -/
def Dev.commitOver (d : Dev) : Dev := { d with bil := { d.bil with commit := none } }.wr R.BIL_COMMIT.STATE 0

/-- The items among `xs` that still wait in `waiting`, by number. -/
def stillWaiting (xs waiting : List (Nat × List Byte)) : List (Nat × List Byte) := xs.filter (fun x => waiting.any (fun y => y.1 == x.1))

/-- The block with the snapshot `x` in slot `k` and its items moved from the pending area to the NOR stores. -/
def Dev.commitMoved (d : Dev) (x : LiveImg) (k : Nat) : Dev :=
  { d with
    bst := { d.bst with slots := setAt d.bst.slots k (some x), recs := d.bst.recs ++ stillWaiting x.recs d.bil.recs,
                        logs := d.bst.logs ++ stillWaiting x.logs d.bil.logs },
    bil := { d.bil with recs := without d.bil.recs (stillWaiting x.recs d.bil.recs),
                        logs := without d.bil.logs (stillWaiting x.logs d.bil.logs) } }

/-- The block with a stored snapshot shown and reported. -/
def Dev.commitStored (d : Dev) (x : LiveImg) (k : Nat) : Dev :=
  (((d.commitOver.commitMoved x k).liveRefresh.wr R.BIL_COMMIT.FAIL 0).wr R.BIL_COMMIT.SLOT k).raise 45 0 []

/-- The block with a failed commit shown and reported. -/
def Dev.commitFailed (d : Dev) : Dev := (d.commitOver.wr R.BIL_COMMIT.FAIL 1).raise 45 1 []

section
variable {x : LiveImg} {k : Nat}

theorem Dev.commitDone_ok (hcommit : d.bil.commit = some (x, k)) (hone : d.rd R.BIL_COMMIT.STATE = 1) :
    d.commitDone true = (d.commitStored x k).bilDrained.storeShow := by
  simp only [Dev.commitDone, hcommit, hone, if_true, Nat.reduceEqDiff, decide_false, Bool.false_eq_true, if_false]
  rfl

theorem Dev.commitDone_failed (hcommit : d.bil.commit = some (x, k)) (hone : d.rd R.BIL_COMMIT.STATE = 1) :
    d.commitDone false = d.commitFailed.bilDrained.storeShow := by
  simp only [Dev.commitDone, hcommit, hone, Nat.reduceEqDiff, decide_false, Bool.false_eq_true, if_false]
  rfl

/-- The end of a drain and the shown counts leave BIL_COMMIT. -/
theorem Dev.drained_shown_commit {f : Fld} (h : f ∈ [R.BIL_COMMIT.STATE, R.BIL_COMMIT.FAIL, R.BIL_COMMIT.SLOT]) :
    d.bilDrained.storeShow.rd f = d.rd f := by
  have hdrain : R.BIL_CTL.STATUS.key ≠ f.key :=
    (by decide : ∀ g ∈ [R.BIL_COMMIT.STATE, R.BIL_COMMIT.FAIL, R.BIL_COMMIT.SLOT], R.BIL_CTL.STATUS.key ≠ g.key) f h
  have hshow : ∀ c ∈ [R.BIL_STORE.RECS, R.BIL_STORE.LOGS, R.BIL_RECNEXT.NUM, R.BIL_LOGNEXT.NUM], c.key ≠ f.key :=
    (by decide : ∀ g ∈ [R.BIL_COMMIT.STATE, R.BIL_COMMIT.FAIL, R.BIL_COMMIT.SLOT],
      ∀ c ∈ [R.BIL_STORE.RECS, R.BIL_STORE.LOGS, R.BIL_RECNEXT.NUM, R.BIL_LOGNEXT.NUM], c.key ≠ g.key) f h
  calc d.bilDrained.storeShow.rd f = d.bilDrained.rd f := Dev.rd_wrAll_other _ (by simpa using hshow)
    _ = d.rd f := d.bilDrained_regsBut f (by simpa using hdrain)

theorem Dev.commitOver_state (d : Dev) : d.commitOver.rd R.BIL_COMMIT.STATE = 0 := Dev.rd_wr ..

theorem Dev.commitStored_shown (hk : k < 2) : (d.commitStored x k).rd R.BIL_COMMIT.STATE = 0 ∧
    (d.commitStored x k).rd R.BIL_COMMIT.FAIL = 0 ∧ (d.commitStored x k).rd R.BIL_COMMIT.SLOT = k := by
  simp (disch := decide) only [Dev.commitStored, Dev.raise_rd, Dev.rd_wr_ne, Dev.rd_wr, Dev.liveRefresh_rd]
  exact ⟨d.commitOver_state, rfl, Nat.mod_eq_of_lt hk⟩

theorem Dev.commitFailed_shown : d.commitFailed.rd R.BIL_COMMIT.STATE = 0 ∧ d.commitFailed.rd R.BIL_COMMIT.FAIL = 1 := by
  simp (disch := decide) only [Dev.commitFailed, Dev.raise_rd, Dev.rd_wr_ne, Dev.rd_wr]
  exact ⟨d.commitOver_state, rfl⟩

theorem Dev.commitStored_slots : (d.commitStored x k).bst.slots = setAt d.bst.slots k (some x) := by
  rw [Dev.commitStored, Dev.raise_bst, Dev.wr_bst, Dev.wr_bst, (Dev.liveRefresh_stores _).1]
  rfl

theorem Dev.commitStored_commit : (d.commitStored x k).bil.commit = none := by
  rw [Dev.commitStored, Dev.raise_bil, Dev.wr_bil, Dev.wr_bil, Dev.liveRefresh_bil]
  rfl

theorem Dev.commitFailed_bst : d.commitFailed.bst = d.bst := Dev.raise_bst ..

theorem Dev.commitFailed_commit : d.commitFailed.bil.commit = none := congrArg Bil.commit (Dev.raise_bil ..)

end

end

/-! ## The legal log (R295) -/

section
variable (d : Dev) (kind flags : Nat) (data : List Byte)

theorem Dev.logPut_sealing : (d.logPut kind flags data).bil.sealing = d.bil.sealing := by
  unfold Dev.logPut
  dsimp only
  split
  · simp only [Dev.raise_bil, Dev.commitReq_sealing, Dev.recordReady_bil, Dev.storeShow_bil, Dev.liveRefresh_bil]
  · split <;> simp only [Dev.raise_bil, Dev.commitReq_sealing, Dev.recordReady_bil, Dev.storeShow_bil, Dev.liveRefresh_bil]

theorem Dev.logAdd_sealing : (d.logAdd kind flags data).bil.sealing = d.bil.sealing := by
  unfold Dev.logAdd
  extract_lets +onlyGivenNames room lose n bil begun
  have hbegun : begun.bil.sealing = d.bil.sealing := by
    unfold begun
    split
    · exact Dev.logPut_sealing _ _ _ _
    · rfl
  clear_value begun
  split
  · exact (Dev.logPut_sealing begun kind flags data).trans hbegun
  · exact hbegun

@[simp] theorem Dev.logAdd_ffuse : (d.logAdd kind flags data).ffuse = d.ffuse := (d.logAdd_reach kind flags data).onlyIn.ffuse rfl

@[simp] theorem Dev.commitReq_ffuse : d.commitReq.ffuse = d.ffuse := d.commitReq_reach.onlyIn.ffuse rfl

end

/-! ## Sessions (R289, R290) -/

section
variable (d : Dev) (n : Nat) (x : Sess)

theorem Dev.setSess_sessAt (h : n < d.bil.sess.length) : (d.setSess n x).sessAt n = x := getD_setAt_self x {} h

theorem Dev.setSess_open : (d.setSess n x).rd (R.BIL_SESSSTAT.OPEN n) = b2n (x.isOpen && !x.closing) := by
  rw [Dev.setSess, Dev.rd_wr_ne _ _ _ _ (by simp [Fld.key, R.BIL_SESSSTAT.CLOSING, R.BIL_SESSSTAT.OPEN]), Dev.rd_wr]
  exact b2n_mod_two _

theorem Dev.setSess_closing : (d.setSess n x).rd (R.BIL_SESSSTAT.CLOSING n) = b2n x.closing := (Dev.rd_wr ..).trans (b2n_mod_two _)

theorem Dev.setSess_regsBut : d.RegsBut [R.BIL_SESSSTAT.OPEN n, R.BIL_SESSSTAT.CLOSING n] (d.setSess n x) :=
  .wr (.wr (.of_eq _ rfl) (by simp)) (by simp)

/-- The block with the answer of a session command shown. -/
def Dev.sessAnswer (d : Dev) (n code result : Nat) : Dev := (d.wr (R.BIL_SESSCTL.CODE n) code).wr (R.BIL_SESSCTL.RESULT n) result

theorem Dev.sessAnswer_code {code : Nat} (h : code < 16) (result : Nat) : (d.sessAnswer n code result).rd (R.BIL_SESSCTL.CODE n) = code := by
  rw [Dev.sessAnswer, Dev.rd_wr_ne _ _ _ _ (by simp [Fld.key, R.BIL_SESSCTL.CODE, R.BIL_SESSCTL.RESULT]), Dev.rd_wr]
  exact Nat.mod_eq_of_lt h

theorem Dev.sessAnswer_result (code : Nat) {result : Nat} (h : result < 4) :
    (d.sessAnswer n code result).rd (R.BIL_SESSCTL.RESULT n) = result := (Dev.rd_wr ..).trans (Nat.mod_eq_of_lt h)

theorem Dev.sessAnswer_regsBut (code result : Nat) : d.RegsBut [R.BIL_SESSCTL.CODE n, R.BIL_SESSCTL.RESULT n] (d.sessAnswer n code result) :=
  .wr (.wr (.refl _ d) (by simp)) (by simp)

/-- The state and the answer of a session are in different words. -/
theorem sessctl_key_ne_sessstat : ∀ f ∈ [R.BIL_SESSCTL.CODE n, R.BIL_SESSCTL.RESULT n],
    ∀ g ∈ [R.BIL_SESSSTAT.OPEN n, R.BIL_SESSSTAT.CLOSING n], f.key ≠ g.key := by
  simp [Fld.key, R.BIL_SESSCTL.CODE, R.BIL_SESSCTL.RESULT, R.BIL_SESSSTAT.OPEN, R.BIL_SESSSTAT.CLOSING]
  omega

/-- The next instant depends on the present time, the last S and the stream's being active. -/
theorem Dev.nextInstant_of_eqs {d e : Dev} (htm : e.tm = d.tm) (hpwm : e.pwm = d.pwm) (hactive : e.rd R.STS_BANK.ACTV = d.rd R.STS_BANK.ACTV) :
    e.nextInstant = d.nextInstant := by
  have hstream : e.streamActive = d.streamActive := congrArg (fun v => decide (v = 1)) hactive
  simp only [Dev.nextInstant, Dev.stcNs, hstream, htm, hpwm]

theorem Dev.sessAnswer_nextInstant (code result : Nat) : (d.sessAnswer n code result).nextInstant = d.nextInstant :=
  Dev.nextInstant_of_eqs rfl rfl (d.sessAnswer_regsBut n code result _ (by
    simp [Fld.key, R.BIL_SESSCTL.CODE, R.BIL_SESSCTL.RESULT, R.STS_BANK.ACTV]
    omega))

/-- The session that opens on output `n`. -/
def Dev.sessNew (d : Dev) (n : Nat) : Sess :=
  { isOpen := true, output := n, sid := d.rdWords (R.BIL_SID.SID n) 4, start := d.nextInstant, stStart := d.rd R.STC_STAT.STATE,
    utcStart := d.utcOf d.nextInstant, errStart := d.estErr }

/-- The session of output `n` with its stop taken and its readings awaited. -/
def Dev.sessStopped (d : Dev) (n cause : Nat) : Sess :=
  { d.sessAt n with closing := true, stop := d.nextInstant, cause := cause, stStop := d.rd R.STC_STAT.STATE, utcStop := d.utcOf d.nextInstant,
                    errStop := d.estErr }

theorem Dev.sessCode_lt : d.sessCode n < 16 := by
  unfold Dev.sessCode
  split_ifs <;> decide

end

section
variable {d : Dev} {n : Nat}

theorem Dev.sessOpen_of_ok (h : d.sessCode n = 0) : d.sessOpen n =
    ((d.sessAnswer n 0 2).setSess n ((d.sessAnswer n 0 2).sessNew n)).liveRefresh.raise 46 0 [n, 0] := by
  simp only [Dev.sessOpen, h, if_true, ne_eq, not_true, if_false]
  rfl

theorem Dev.sessOpen_of_refused (h : d.sessCode n ≠ 0) : d.sessOpen n =
    (d.sessAnswer n (d.sessCode n) 3).raise 46 2 [n, d.sessCode n] := by
  simp only [Dev.sessOpen, if_neg h, if_pos h, Dev.sessAnswer]

theorem Dev.sessEnd_of_open (hopen : (d.sessAt n).isOpen = true) (hclosing : (d.sessAt n).closing = false) (cause : Nat) :
    d.sessEnd n cause = (d.setSess n (d.sessStopped n cause)).liveRefresh := if_pos (by simp [hopen, hclosing])

theorem Dev.sessClose_of_open (hopen : (d.sessAt n).isOpen = true) (hclosing : (d.sessAt n).closing = false) :
    d.sessClose n = (d.setSess n (d.sessStopped n 0)).liveRefresh.sessAnswer n 0 2 := by
  rw [← Dev.sessEnd_of_open hopen hclosing]
  exact if_pos (by simp [hopen, hclosing])

theorem Dev.sessClose_of_none (h : (d.sessAt n).isOpen = false) : d.sessClose n = d.sessAnswer n 7 3 := if_neg (by simp [h])

end

end Sys2Proof.Machine
end

section
/-! The commands of chapter 14 on the seal, the commits, the sessions, acknowledgement, REC_REQ and the theft watch (R282 to R297). -/

namespace Sys2Proof.Machine

/-! ## The seal (R282, Table 14-1) -/

section
variable {d : Dev}

theorem Dev.sealCode_lt (d : Dev) : d.sealCode < 9 := by
  unfold Dev.sealCode
  split_ifs <;> decide

theorem Dev.sealReq_of_key (h : d.bil.sealing = false) : d.sealReq 0x5EA1 =
    if d.sealCode ≠ 0 then (d.wr R.BIL_SEAL.CODE d.sealCode).raise 44 1 [d.sealCode]
    else { d.wr R.BIL_SEAL.CODE d.sealCode with bil := { d.bil with sealing := true } } := if_neg (by simp [h])

/-- The block with the seal and the digest blown and shown. -/
def Dev.sealBlown (d : Dev) : Dev :=
  (({ d with bil := { d.bil with sealing := false }, ffuse := { d.ffuse with sealed := true, bind := Config.sha384 d.act.bindRaw } } : Dev).wr
    R.BIL_SEAL.STATE 1).wrWords R.BIL_BIND.DIG (Config.sha384 d.act.bindRaw)

/-- The bytes of the SEALED entry (Table 14-5). -/
def Dev.sealedData (d : Dev) : List Byte := (Config.sha384 d.act.bindRaw).take 16 ++ leBytes 4 d.sealBlown.lrVerWord

theorem Dev.sealDone_of_sealing (h : d.bil.sealing = true) :
    d.sealDone = (d.sealBlown.logAdd 1 0 d.sealedData).commitReq.raise 44 0 [] := if_pos h

/-- Words written to consecutive registers leave every field elsewhere. -/
theorem Dev.rd_wrWords_other (d : Dev) {f : Nat → Fld} {g : Fld} (h : ∀ i, (f i).key ≠ g.key) (bs : List Byte) :
    (d.wrWords f bs).rd g = d.rd g := by
  unfold Dev.wrWords Dev.forAll
  generalize (leWords ((bs.length + 3) / 4) bs).zipIdx = ws
  induction ws generalizing d with
  | nil => rfl
  | cons w ws ih => exact (ih (d.wr (f w.2) w.1)).trans (d.rd_wr_ne (f w.2) g w.1 (h w.2))

theorem Dev.wrWords_onlyIn (d : Dev) (f : Nat → Fld) (bs : List Byte) : d.OnlyIn Part.regs (d.wrWords f bs) := (d.wrWords_reach f bs).onlyIn

theorem Dev.sealBlown_state (d : Dev) : d.sealBlown.rd R.BIL_SEAL.STATE = 1 :=
  (Dev.rd_wrWords_other _ (fun i => by simp [Fld.key, R.BIL_BIND.DIG, R.BIL_SEAL.STATE]; omega) _).trans (Dev.rd_wr ..)

theorem Dev.sealBlown_sealing (d : Dev) : d.sealBlown.bil.sealing = false := congrArg Bil.sealing ((Dev.wrWords_onlyIn ..).bil rfl)

theorem Dev.sealBlown_ffuse (d : Dev) : d.sealBlown.ffuse = { d.ffuse with sealed := true, bind := Config.sha384 d.act.bindRaw } :=
  (Dev.wrWords_onlyIn ..).ffuse rfl

/-- The entry and the commit that follow the seal leave the seal. -/
theorem Dev.sealDone_seals (h : d.bil.sealing = true) :
    d.sealDone.ffuse = { d.ffuse with sealed := true, bind := Config.sha384 d.act.bindRaw } ∧
    d.sealDone.rd R.BIL_SEAL.STATE = 1 ∧ d.sealDone.bil.sealing = false := by
  rw [Dev.sealDone_of_sealing h]
  refine ⟨?_, ?_, ?_⟩
  · rw [Dev.raise_ffuse, Dev.commitReq_ffuse, Dev.logAdd_ffuse, Dev.sealBlown_ffuse]
  · have hregs : d.sealBlown.RegsBut legalLogFlds (d.sealBlown.logAdd 1 0 d.sealedData).commitReq :=
      Dev.commitReq_regsBut (Dev.logAdd_regsBut (.refl _ _) 1 0 d.sealedData)
    rw [Dev.raise_rd, hregs _ (by decide), Dev.sealBlown_state]
  · rw [Dev.raise_bil, Dev.commitReq_sealing, Dev.logAdd_sealing, Dev.sealBlown_sealing]

end

section
variable (s : State)

theorem exec_sealRequest (key : Nat) : exec (.sealRequest key) s = done s (·.sealReq key) := rfl

theorem exec_sealComplete : exec .sealComplete s = done s Dev.sealDone := rfl

variable {s}

theorem answers_sealRequest_accepted (hfree : s.dev.bil.sealing = false) (hcode : s.dev.sealCode = 0) :
    Answers (.sealRequest 0x5EA1) s (fun t => t.bil.sealing = true ∧ t.rd R.BIL_SEAL.CODE = 0 ∧ t.ffuse = s.dev.ffuse) := by
  refine answers_of_done (exec_sealRequest s _) ?_
  rw [Dev.sealReq_of_key hfree, if_neg (not_not.mpr hcode), hcode]
  exact ⟨rfl, Dev.rd_wr s.dev R.BIL_SEAL.CODE 0, rfl⟩

theorem answers_sealRequest_refused (hfree : s.dev.bil.sealing = false) (hcode : s.dev.sealCode ≠ 0) :
    Answers (.sealRequest 0x5EA1) s (fun t => t.bil = s.dev.bil ∧ t.rd R.BIL_SEAL.CODE = s.dev.sealCode ∧ s.dev.RegsBut [R.BIL_SEAL.CODE] t) := by
  refine answers_of_done (exec_sealRequest s _) ?_
  rw [Dev.sealReq_of_key hfree, if_pos hcode]
  have hfits : s.dev.sealCode < 2 ^ 8 := s.dev.sealCode_lt.trans (by decide)
  refine ⟨Dev.raise_bil .., ?_, (Dev.regsBut_wr rfl).raise _ _ _⟩
  rw [Dev.raise_rd, Dev.rd_wr]
  exact Nat.mod_eq_of_lt hfits

theorem answers_sealComplete (h : s.dev.bil.sealing = true) : Answers .sealComplete s (fun t =>
    t.ffuse.sealed = true ∧ t.ffuse.bind = Config.sha384 s.dev.act.bindRaw ∧ t.rd R.BIL_SEAL.STATE = 1 ∧ t.bil.sealing = false) := by
  obtain ⟨hfuse, hstate, hsealing⟩ := Dev.sealDone_seals h
  exact answers_of_done (exec_sealComplete s) ⟨congrArg Fuses.sealed hfuse, congrArg Fuses.bind hfuse, hstate, hsealing⟩

end

/-! ## Commits (R286) -/

section
variable (s : State)

theorem exec_commitRequest : exec .commitRequest s = done s Dev.commitReq := rfl

theorem exec_commit15Min : exec .commit15Min s =
    done s (fun d => (d.advanceTo (stepsOfNs ((d.stcNs + 899999999999) / 900000000000 * 900000000000))).commitReq) := rfl

theorem exec_commitComplete (ok : Bool) : exec (.commitComplete ok) s = done s (·.commitDone ok) := rfl

variable {s}

theorem answers_commitRequest_idle (hready : s.dev.rd R.BIL_CTL.STATUS = 1) (hidle : s.dev.rd R.BIL_COMMIT.STATE = 0) :
    Answers .commitRequest s (fun t => t.rd R.BIL_COMMIT.STATE = 1 ∧ t.bil.commit.isSome = true ∧ t.bst.recs = s.dev.bst.recs ∧
      t.bst.logs = s.dev.bst.logs) := by
  refine answers_of_done (exec_commitRequest s) ?_
  rw [Dev.commitReq_of_idle hready hidle]
  exact ⟨Dev.commitBegin_state _, Dev.commitBegin_commit _, Dev.commitBegin_stores _⟩

theorem answers_commit15Min_idle (hready : s.dev.rd R.BIL_CTL.STATUS = 1) (hidle : s.dev.rd R.BIL_COMMIT.STATE = 0) :
    Answers .commit15Min s (fun t => t.rd R.BIL_COMMIT.STATE = 1 ∧ t.bil.commit.isSome = true ∧ s.dev.tm.q ≤ t.tm.q) := by
  refine answers_of_done (exec_commit15Min s) ?_
  rw [Dev.commitReq_of_idle (d := s.dev.advanceTo _) hready hidle]
  exact ⟨Dev.commitBegin_state _, Dev.commitBegin_commit _, Nat.le_max_left _ _⟩

variable {x : LiveImg} {k : Nat}

theorem answers_commitComplete_ok (hcommit : s.dev.bil.commit = some (x, k)) (hone : s.dev.rd R.BIL_COMMIT.STATE = 1) (hk : k < 2)
    (hslot : k < s.dev.bst.slots.length) : Answers (.commitComplete true) s (fun t => t.bst.slots.getD k none = some x ∧ t.bil.commit = none ∧
      t.rd R.BIL_COMMIT.STATE = 0 ∧ t.rd R.BIL_COMMIT.FAIL = 0 ∧ t.rd R.BIL_COMMIT.SLOT = k) := by
  refine answers_of_done (exec_commitComplete s true) ?_
  rw [Dev.commitDone_ok hcommit hone]
  obtain ⟨hstate, hfail, hshown⟩ := s.dev.commitStored_shown (x := x) hk
  refine ⟨?_, ?_, ?_, ?_, ?_⟩
  · rw [Dev.storeShow_bst, Dev.bilDrained_bst, Dev.commitStored_slots, getD_setAt_self _ _ hslot]
  · rw [Dev.storeShow_bil, Dev.bilDrained_bil, Dev.commitStored_commit]
  · rw [Dev.drained_shown_commit (by simp), hstate]
  · rw [Dev.drained_shown_commit (by simp), hfail]
  · rw [Dev.drained_shown_commit (by simp), hshown]

theorem answers_commitComplete_failed (hcommit : s.dev.bil.commit = some (x, k)) (hone : s.dev.rd R.BIL_COMMIT.STATE = 1) :
    Answers (.commitComplete false) s (fun t => t.bst = s.dev.bst ∧ t.bil.commit = none ∧ t.rd R.BIL_COMMIT.STATE = 0 ∧
      t.rd R.BIL_COMMIT.FAIL = 1) := by
  refine answers_of_done (exec_commitComplete s false) ?_
  rw [Dev.commitDone_failed hcommit hone]
  obtain ⟨hstate, hfail⟩ := s.dev.commitFailed_shown
  refine ⟨?_, ?_, ?_, ?_⟩
  · rw [Dev.storeShow_bst, Dev.bilDrained_bst, Dev.commitFailed_bst]
  · rw [Dev.storeShow_bil, Dev.bilDrained_bil, Dev.commitFailed_commit]
  · rw [Dev.drained_shown_commit (by simp), hstate]
  · rw [Dev.drained_shown_commit (by simp), hfail]

end

/-! ## Sessions (R289, R290, Table 14-2) -/

section
variable (s : State) (n : Fin 4)

theorem exec_sessionOpen : exec (.sessionOpen n) s = done s (·.sessOpen n) := rfl

theorem exec_sessionClose : exec (.sessionClose n) s = done s (·.sessClose n) := rfl

variable {s n}

theorem answers_sessionOpen_accepted (hcode : s.dev.sessCode n = 0) (hlen : n.val < s.dev.bil.sess.length) :
    Answers (.sessionOpen n) s (fun t => t.rd (R.BIL_SESSCTL.CODE n) = 0 ∧ t.rd (R.BIL_SESSCTL.RESULT n) = 2 ∧
      t.rd (R.BIL_SESSSTAT.OPEN n) = 1 ∧ (t.sessAt n).isOpen = true ∧ (t.sessAt n).start = s.dev.nextInstant) := by
  refine answers_of_done (exec_sessionOpen s n) ?_
  rw [Dev.sessOpen_of_ok hcode]
  have hsess : (((s.dev.sessAnswer n 0 2).setSess n ((s.dev.sessAnswer n 0 2).sessNew n)).liveRefresh.raise 46 0 [n.val, 0]).sessAt n =
      (s.dev.sessAnswer n 0 2).sessNew n := by
    rw [Dev.sessAt, Dev.raise_bil, Dev.liveRefresh_bil]
    exact Dev.setSess_sessAt _ _ _ hlen
  have hanswer : ∀ f ∈ [R.BIL_SESSCTL.CODE n, R.BIL_SESSCTL.RESULT n],
      ((s.dev.sessAnswer n 0 2).setSess n ((s.dev.sessAnswer n 0 2).sessNew n)).rd f = (s.dev.sessAnswer n 0 2).rd f :=
    fun f hf => Dev.setSess_regsBut _ _ _ f fun g hg => (sessctl_key_ne_sessstat n f hf g hg).symm
  rw [hsess]
  simp only [Dev.raise_rd, Dev.liveRefresh_rd]
  refine ⟨?_, ?_, Dev.setSess_open .., rfl, Dev.sessAnswer_nextInstant ..⟩
  · rw [hanswer _ (by simp), Dev.sessAnswer_code _ _ (by decide)]
  · rw [hanswer _ (by simp), Dev.sessAnswer_result _ _ _ (by decide)]

theorem answers_sessionOpen_refused (hcode : s.dev.sessCode n ≠ 0) : Answers (.sessionOpen n) s (fun t =>
    t.rd (R.BIL_SESSCTL.CODE n) = s.dev.sessCode n ∧ t.rd (R.BIL_SESSCTL.RESULT n) = 3 ∧ t.bil = s.dev.bil) := by
  refine answers_of_done (exec_sessionOpen s n) ?_
  rw [Dev.sessOpen_of_refused hcode]
  refine ⟨?_, ?_, Dev.raise_bil ..⟩
  · rw [Dev.raise_rd, Dev.sessAnswer_code _ _ (s.dev.sessCode_lt n)]
  · rw [Dev.raise_rd, Dev.sessAnswer_result _ _ _ (by decide)]

theorem answers_sessionClose_begins (hopen : (s.dev.sessAt n).isOpen = true) (hclosing : (s.dev.sessAt n).closing = false)
    (hlen : n.val < s.dev.bil.sess.length) : Answers (.sessionClose n) s (fun t => (t.sessAt n).closing = true ∧ (t.sessAt n).cause = 0 ∧
      (t.sessAt n).stop = s.dev.nextInstant ∧ t.rd (R.BIL_SESSSTAT.CLOSING n) = 1 ∧ t.rd (R.BIL_SESSCTL.CODE n) = 0 ∧
      t.rd (R.BIL_SESSCTL.RESULT n) = 2) := by
  refine answers_of_done (exec_sessionClose s n) ?_
  rw [Dev.sessClose_of_open hopen hclosing]
  have hsess : ((s.dev.setSess n (s.dev.sessStopped n 0)).liveRefresh.sessAnswer n 0 2).sessAt n = s.dev.sessStopped n 0 := by
    rw [Dev.sessAt, Dev.sessAnswer, Dev.wr_bil, Dev.wr_bil, Dev.liveRefresh_bil]
    exact Dev.setSess_sessAt _ _ _ hlen
  rw [hsess]
  refine ⟨rfl, rfl, rfl, ?_, Dev.sessAnswer_code _ _ (by decide) _, Dev.sessAnswer_result _ _ _ (by decide)⟩
  rw [Dev.sessAnswer_regsBut _ _ _ _ _ fun f hf => sessctl_key_ne_sessstat n f hf _ (by simp), Dev.liveRefresh_rd]
  exact Dev.setSess_closing ..

theorem answers_sessionClose_refused (h : (s.dev.sessAt n).isOpen = false) : Answers (.sessionClose n) s (fun t =>
    t.bil = s.dev.bil ∧ t.rd (R.BIL_SESSCTL.CODE n) = 7 ∧ t.rd (R.BIL_SESSCTL.RESULT n) = 3) := by
  refine answers_of_done (exec_sessionClose s n) ?_
  rw [Dev.sessClose_of_none h]
  exact ⟨rfl, Dev.sessAnswer_code _ _ (by decide) _, Dev.sessAnswer_result _ _ _ (by decide)⟩

end

/-! ## Session records (R290, R293) -/

/-- A session record with its signature. -/
def Dev.signedRecord (d : Dev) (x : Sess) : List Byte :=
  d.recordBytes x d.bil.recNext ++ d.signBytes .field 0x81 (d.recordBytes x d.bil.recNext)

/-- The block with the waiting session `x` of output `n` turned into the next record. -/
def Dev.recordKept (d : Dev) (n : Nat) (x : Sess) (rest : List Sess) : Dev :=
  ({ d with bil := { d.bil with toSign := rest, recs := d.bil.recs ++ [(d.bil.recNext, d.signedRecord x)], recNext := d.bil.recNext + 1 } } : Dev).wr
    (R.BIL_SESSREC.RECNUM n) d.bil.recNext

/-- The record shown and announced. -/
def Dev.recordTold (d : Dev) (n num : Nat) : Dev := (d.liveRefresh.storeShow.recordReady n 0 num).raise 46 1 [n, 0, num]

section
variable {d : Dev} {n : Nat} {x : Sess} {rest : List Sess}

theorem Dev.recordSigned_of_waiting (hrun : d.on R.MET_LRCTL.RUN = true)
    (htake : takeFirst (fun (y : Sess) => y.output == n) d.bil.toSign = some (x, rest)) :
    d.recordSigned n = ((d.recordKept n x rest).recordTold n d.bil.recNext).commitReq := by
  rw [Dev.recordSigned, if_neg (by simp [hrun]), htake]
  simp only [Dev.recordTold, Dev.recordKept, Dev.signedRecord]

theorem Dev.recordTold_bil (num : Nat) : (d.recordTold n num).bil = d.bil := by
  rw [Dev.recordTold, Dev.raise_bil, Dev.recordReady_bil, Dev.storeShow_bil, Dev.liveRefresh_bil]

theorem Dev.recordTold_regsBut (num : Nat) : d.RegsBut legalLogFlds (d.recordTold n num) := by
  have hshown : d.RegsBut legalLogFlds d.liveRefresh.storeShow := Dev.storeShow_regsBut (.of_eq _ d.liveRefresh_regs)
  have hready : d.RegsBut legalLogFlds (d.liveRefresh.storeShow.recordReady n 0 num) := hshown.of_regs rfl
  exact hready.raise 46 1 [n, 0, num]

theorem Dev.recordKept_recnum : (d.recordKept n x rest).rd (R.BIL_SESSREC.RECNUM n) = d.bil.recNext % 2 ^ 32 := Dev.rd_wr ..

theorem legalLogFlds_key_ne_recnum (n : Nat) : ∀ f ∈ legalLogFlds, f.key ≠ (R.BIL_SESSREC.RECNUM n).key := by
  simp [legalLogFlds, Fld.key, R.BIL_SESSREC.RECNUM, R.BIL_STORE.RECS, R.BIL_STORE.LOGS, R.BIL_RECNEXT.NUM, R.BIL_LOGNEXT.NUM,
    R.BIL_COMMIT.STATE, R.BIL_LOGLOST.COUNT]
  omega

end

section
variable (s : State) (n : Fin 4)

theorem exec_sessionRecordSigned : exec (.sessionRecordSigned n) s = done s (·.recordSigned n) := rfl

variable {s n} {x : Sess} {rest : List Sess}

theorem answers_sessionRecordSigned (hrun : s.dev.on R.MET_LRCTL.RUN = true)
    (htake : takeFirst (fun (y : Sess) => y.output == n.val) s.dev.bil.toSign = some (x, rest)) :
    Answers (.sessionRecordSigned n) s (fun t => t.bil.toSign = rest ∧ t.bil.recNext = s.dev.bil.recNext + 1 ∧
      t.bil.recs.map (fun r => r.1) = s.dev.bil.recs.map (fun r => r.1) ++ [s.dev.bil.recNext] ∧
      t.rd (R.BIL_SESSREC.RECNUM n) = s.dev.bil.recNext % 2 ^ 32) := by
  refine answers_of_done (exec_sessionRecordSigned s n) ?_
  rw [Dev.recordSigned_of_waiting hrun htake]
  obtain ⟨commit, hbil⟩ := ((s.dev.recordKept n x rest).recordTold n s.dev.bil.recNext).commitReq_bil
  rw [hbil, Dev.recordTold_bil, Dev.commitReq_regsBut (Dev.recordTold_regsBut _) _ (legalLogFlds_key_ne_recnum n), Dev.recordKept_recnum]
  exact ⟨rfl, rfl, List.map_append .., rfl⟩

theorem answers_sessionRecordSigned_stopped (h : s.dev.on R.MET_LRCTL.RUN = false) :
    Answers (.sessionRecordSigned n) s (fun t => t = s.dev) :=
  answers_of_done (exec_sessionRecordSigned s n) (if_pos (by simp [h]))

end

/-! ## Acknowledgement (R294, R295) -/

/-- The items numbered above `v`. -/
def itemsAbove (v : Nat) (xs : List (Nat × List Byte)) : List (Nat × List Byte) := xs.filter (fun x => decide (v < x.1))

theorem lt_of_mem_itemsAbove {v : Nat} {xs ys : List (Nat × List Byte)} : ∀ x ∈ itemsAbove v xs ++ itemsAbove v ys, v < x.1 := by
  simp only [itemsAbove, List.mem_append, List.mem_filter, decide_eq_true_eq]
  rintro x (⟨-, h⟩ | ⟨-, h⟩)
  · exact h
  · exact h

/-- The block with the records up to `v` gone. -/
def Dev.recsAcked (d : Dev) (v : Nat) : Dev :=
  { d with bil := { d.bil with recs := itemsAbove v d.bil.recs }, bst := { d.bst with recs := itemsAbove v d.bst.recs } }

/-- The block with the log entries up to `v` gone. -/
def Dev.logsAcked (d : Dev) (v : Nat) : Dev :=
  { d with bil := { d.bil with logs := itemsAbove v d.bil.logs }, bst := { d.bst with logs := itemsAbove v d.bst.logs } }

section
variable {d : Dev} {v : Nat}

theorem Dev.recAck_of_le (h : d.rd R.BIL_RECACK.NUM ≤ v) :
    d.recAck v = ((d.recsAcked v).wr R.BIL_RECACK.NUM v).liveRefresh.storeShow := if_neg (Nat.not_lt.mpr h)

theorem Dev.logAck_of_le (h : d.rd R.BIL_LOGACK.NUM ≤ v) :
    d.logAck v = ((d.logsAcked v).wr R.BIL_LOGACK.NUM v).liveRefresh.storeShow := if_neg (Nat.not_lt.mpr h)

/-- A field written before the stores are shown reads what was written, and the stores stay. -/
theorem Dev.acked_shown {f : Fld} (hf : ∀ g ∈ legalLogFlds, g.key ≠ f.key) : let t := (d.wr f v).liveRefresh.storeShow
    t.rd f = v % 2 ^ f.width ∧ t.bil = d.bil ∧ t.bst.recs = d.bst.recs ∧ t.bst.logs = d.bst.logs := by
  intro t
  obtain ⟨-, hrecs, hlogs⟩ := (d.wr f v).liveRefresh_stores
  refine ⟨?_, Dev.liveRefresh_bil _, hrecs, hlogs⟩
  rw [Dev.storeShow_regsBut (.refl _ _) f hf, Dev.liveRefresh_rd, Dev.rd_wr]

end

section
variable (s : State) (v : Nat)

theorem exec_bilRecack : exec (.bilRecack v) s = done s (·.recAck v) := rfl

theorem exec_bilLogack : exec (.bilLogack v) s = done s (·.logAck v) := rfl

variable {s v}

theorem answers_bilRecack (h : s.dev.rd R.BIL_RECACK.NUM ≤ v) : Answers (.bilRecack v) s (fun t => t.rd R.BIL_RECACK.NUM = v % 2 ^ 32 ∧
    (∀ x ∈ t.bil.recs ++ t.bst.recs, v < x.1) ∧ t.bil.logs = s.dev.bil.logs ∧ t.bst.logs = s.dev.bst.logs) := by
  refine answers_of_done (exec_bilRecack s v) ?_
  rw [Dev.recAck_of_le h]
  obtain ⟨hnum, hbil, hrecs, hlogs⟩ := (s.dev.recsAcked v).acked_shown (f := R.BIL_RECACK.NUM) (v := v) (by decide)
  rw [hnum, hbil, hrecs, hlogs]
  exact ⟨rfl, lt_of_mem_itemsAbove, rfl, rfl⟩

theorem answers_bilLogack (h : s.dev.rd R.BIL_LOGACK.NUM ≤ v) : Answers (.bilLogack v) s (fun t => t.rd R.BIL_LOGACK.NUM = v % 2 ^ 32 ∧
    (∀ x ∈ t.bil.logs ++ t.bst.logs, v < x.1) ∧ t.bil.recs = s.dev.bil.recs ∧ t.bst.recs = s.dev.bst.recs) := by
  refine answers_of_done (exec_bilLogack s v) ?_
  rw [Dev.logAck_of_le h]
  obtain ⟨hnum, hbil, hrecs, hlogs⟩ := (s.dev.logsAcked v).acked_shown (f := R.BIL_LOGACK.NUM) (v := v) (by decide)
  rw [hnum, hbil, hrecs, hlogs]
  exact ⟨rfl, lt_of_mem_itemsAbove, rfl, rfl⟩

end

/-! ## REC_REQ (R294) -/

section
variable (s : State) (xfer n : Nat)

theorem exec_recReqBegin : exec (.recReqBegin xfer n) s = done s (fun d => (d.takeCell .field 0x78).recReq xfer n) := rfl

variable {s xfer n} {e : List Byte}

theorem Dev.recReq_of_stored {d : Dev} {x : Nat × List Byte} (hrec : testBit n 31 = false)
    (hfind : (d.bst.recs ++ d.bil.recs).find? (fun x => x.1 == n % 2 ^ 31) = some x) : d.recReq xfer n = d.sendBulk 7 0x79 xfer x.2 := by
  simp only [Dev.recReq, hrec, Bool.false_eq_true, if_false, hfind]

theorem answers_recReqBegin (hrec : testBit n 31 = false)
    (hfind : (s.dev.bst.recs ++ s.dev.bil.recs).find? (fun x => x.1 == n % 2 ^ 31) = some (n % 2 ^ 31, e)) :
    Answers (.recReqBegin xfer n) s (fun t => t = (s.dev.takeCell .field 0x78).sendBulk 7 0x79 xfer e) := by
  refine answers_of_done (exec_recReqBegin s xfer n) ?_
  refine Dev.recReq_of_stored (x := (n % 2 ^ 31, e)) hrec ?_
  rw [(s.dev.takeCell_onlyIn .field 0x78).bst rfl, (s.dev.takeCell_onlyIn .field 0x78).bil rfl, hfind]

end

/-! ## The theft watch (R296, R297) -/

section
variable {d : Dev}

theorem Dev.theftBlock_of_off (h : d.mode ≠ .dormant ∨ d.on R.BIL_TWCTL.EN = false) (xs : List (List Int)) : d.theftBlock xs = d := if_pos h

/-- `e` is `d` after the first 100 ms block of a watch: the F0 time moved to its end, and the block noted from its start. -/
def Dev.FirstBlock (d e : Dev) : Prop :=
  e.tm.f0 = max d.tm.f0 (stepsOfNs (d.f0Ns + 100000000)) ∧ ∃ ms, e.tw.blocks = [(d.f0Ns, ms)]

theorem Dev.FirstBlock.of_eqs {e e' : Dev} (h : d.FirstBlock e) (htm : e'.tm = e.tm) (hblocks : e'.tw.blocks = e.tw.blocks) : d.FirstBlock e' := by
  rwa [Dev.FirstBlock, htm, hblocks]

/-- The block is noted before the episodes are looked at, and what becomes of them leaves the time and the blocks. -/
theorem Dev.theftBlock_first (hmode : d.mode = .dormant) (hen : d.on R.BIL_TWCTL.EN = true) (hfirst : d.tw.blocks = []) (xs : List (List Int)) :
    d.FirstBlock (d.theftBlock xs) := by
  unfold Dev.theftBlock
  rw [if_neg (by simp [hmode, hen])]
  extract_lets +onlyGivenNames t0 t1 used rs ms above chs amask blocks masks tm tw noted q new tw' tail begun
  have ht0 : t0 = d.f0Ns := by simp [t0, hfirst]
  have hnoted : d.FirstBlock noted := by
    refine ⟨congrArg (fun t => max d.tm.f0 (stepsOfNs (t + 100000000))) ht0, ms, ?_⟩
    change ((t0, ms) :: d.tw.blocks).take 20 = _
    rw [hfirst, ht0]
    rfl
  have hbegun : d.FirstBlock begun := by
    unfold begun
    split
    · split
      · exact hnoted.of_eqs rfl rfl
      · exact hnoted
    · split
      · exact hnoted.of_eqs rfl rfl
      · exact hnoted.of_eqs rfl rfl
  split
  · split
    · exact hbegun.of_eqs rfl rfl
    · exact hbegun
  · exact hbegun

end

section
variable {s : State} {xs : List (List Int)}

theorem exec_theftWatchBlock (s : State) (xs : List (List Int)) : exec (.theftWatchBlock xs) s = done s (·.theftBlock xs) := rfl

theorem answers_theftWatchBlock_first (hmode : s.dev.mode = .dormant) (hen : s.dev.on R.BIL_TWCTL.EN = true) (hfirst : s.dev.tw.blocks = []) :
    Answers (.theftWatchBlock xs) s (fun t => t.tm.f0 = max s.dev.tm.f0 (stepsOfNs (s.dev.f0Ns + 100000000)) ∧ t.tw.blocks.length = 1 ∧
      (t.tw.blocks.getD 0 (0, [])).1 = s.dev.f0Ns) := by
  obtain ⟨hf0, ms, hblocks⟩ := Dev.theftBlock_first hmode hen hfirst xs
  refine answers_of_done (exec_theftWatchBlock s xs) ⟨hf0, ?_, ?_⟩
  · rw [hblocks, List.length_singleton]
  · rw [hblocks, List.getD_cons_zero]

end

/-- Settles O39: each command is one operation on the billing state, and what follows it (the live image brought up to date, the
counts shown, the event, the requested commit) leaves what it stored and answered. -/
theorem sealSessionsCommitsAndExport : Obligations.SealSessionsCommitsAndExport := by
  intro s
  exact ⟨answers_sealRequest_accepted, answers_sealRequest_refused,
    fun key hkey => answers_of_done (exec_sealRequest s key) (if_pos (.inl hkey)),
    answers_sealComplete,
    fun hnot => answers_of_done (exec_sealComplete s) (if_neg (by simp [hnot])),
    answers_commitRequest_idle,
    fun hready hwriting => answers_of_done (exec_commitRequest s) (Dev.commitReq_of_writing hready hwriting),
    fun hready => answers_of_done (exec_commitRequest s) (Dev.commitReq_of_not_ready hready),
    answers_commit15Min_idle,
    fun _ _ => answers_commitComplete_ok, fun _ _ => answers_commitComplete_failed,
    fun _ => answers_sessionOpen_accepted, fun _ => answers_sessionOpen_refused,
    fun _ => answers_sessionClose_begins, fun _ => answers_sessionClose_refused,
    fun _ _ _ => answers_sessionRecordSigned, fun _ => answers_sessionRecordSigned_stopped,
    fun _ => answers_bilRecack, fun v hlow => answers_of_done (exec_bilRecack s v) (if_pos hlow),
    fun _ => answers_bilLogack, fun _ _ _ => answers_recReqBegin,
    fun _ => answers_theftWatchBlock_first,
    fun xs hoff => answers_of_done (exec_theftWatchBlock s xs) (Dev.theftBlock_of_off hoff xs)⟩

end Sys2Proof.Machine
end

section
/-! One-way fuses (R361 to R363, R374, 19_security.md): whatever a step does to the block is a reach, and no link of a reach
unblows a fuse of either die. -/

namespace Sys2Proof.Machine

theorem Fuses.Le.trans {f g h : Fuses} (hfg : Fuses.Le f g) (hgh : Fuses.Le g h) : Fuses.Le f h where
  root := hgh.root.trans hfg.root
  mask := hgh.mask.trans hfg.mask
  mapSeed := hgh.mapSeed.trans hfg.mapSeed
  uid := hgh.uid.trans hfg.uid
  variant := hgh.variant.trans hfg.variant
  lc k := hgh.lc k ∘ hfg.lc k
  slots i := hgh.slots i ∘ hfg.slots i
  rev k := hgh.rev k ∘ hfg.rev k
  sealed := hgh.sealed ∘ hfg.sealed
  contBlown := hgh.contBlown ∘ hfg.contBlown
  count := hgh.count.trans hfg.count

/-- Fuses that are as before, or were blown further: the two cases of a die's fuses in `Same`. -/
theorem Fuses.Le.of_eq_or {c : Prop} {f g : Fuses} (h : g = f ∨ c ∧ Fuses.Le f g) : Fuses.Le f g := by
  obtain rfl | ⟨-, hle⟩ := h
  · exact .rfl' g
  · exact hle

/-- Register writes and resets do not touch fuses; a change of the block's other parts only blows some. -/
theorem Reach.fuses_le {m : Nat} {d e : Dev} (r : Reach m d e) : Fuses.Le d.ffuse e.ffuse ∧ Fuses.Le d.hfuse e.hfuse := by
  induction r with
  | refl => exact ⟨.rfl' _, .rfl' _⟩
  | wr _ _ _ _ ih => exact ih
  | reset _ _ _ ih => exact ih
  | parts same _ _ ih => exact ⟨ih.1.trans (.of_eq_or same.ffuse), ih.2.trans (.of_eq_or same.hfuse)⟩

/-- Settles O60: every step reaches its next block, and a reach only blows fuses. -/
theorem fusesAreBlownOneWay : Obligations.FusesAreBlownOneWay := by
  intro s t h
  obtain ⟨m, hr⟩ := step_reach h
  exact hr.fuses_le

end Sys2Proof.Machine
end

section
/-! What a change writes of the register file: the fields it may write, by their block of the register map
(22_register_map.md), and what a host event, the journal and a ring write (R342 to R346, R401 to R404). -/

namespace Sys2Proof.Machine

/-! ## The fields a change may write -/

/-- The 64 KiB block of the register map that holds a field's register. -/
def Fld.block (f : Fld) : Nat := f.key / 2 ^ 21

theorem Fld.key_ne_of_block {f g : Fld} (h : f.block ≠ g.block) : f.key ≠ g.key := fun hkey => h (congrArg (· / 2 ^ 21) hkey)

/-- A register file reached from `r` by writes that `W` permits. -/
inductive Regs.Writes (W : Fld → Nat → Prop) (r : Regs) : Regs → Prop
  | refl : Regs.Writes W r r
  | set {x : Regs} {f : Fld} {v : Nat} (h : Regs.Writes W r x) (hf : W f v) : Regs.Writes W r (Regs.set x f v)

/-- From `d` to `e` the registers change by writes that `W` permits; other parts of the block change freely. -/
def Dev.Writes (W : Fld → Nat → Prop) (d e : Dev) : Prop := Regs.Writes W d.regs e.regs

/-- Writes to fields of the blocks listed. -/
def InBlocks (bs : List Nat) (f : Fld) (_ : Nat) : Prop := f.block ∈ bs

section
variable {W : Fld → Nat → Prop} {d e : Dev}

theorem Dev.Writes.refl (W : Fld → Nat → Prop) (d : Dev) : Dev.Writes W d d := Regs.Writes.refl

theorem Dev.Writes.wr {f : Fld} {v : Nat} (h : Dev.Writes W d e) (hf : W f v) : Dev.Writes W d (e.wr f v) := Regs.Writes.set h hf

theorem Dev.Writes.of_regs {e' : Dev} (h : Dev.Writes W d e) (hregs : e'.regs = e.regs) : Dev.Writes W d e' := by
  rwa [Dev.Writes, hregs]

theorem Dev.Writes.ite {c : Prop} [Decidable c] {x y : Dev} (hx : Dev.Writes W d x) (hy : Dev.Writes W d y) :
    Dev.Writes W d (if c then x else y) := by
  split
  · exact hx
  · exact hy

theorem Regs.Writes.trans {x y z : Regs} (h : Regs.Writes W x y) (h' : Regs.Writes W y z) : Regs.Writes W x z := by
  induction h' with
  | refl => exact h
  | set _ hf ih => exact ih.set hf

theorem Dev.Writes.trans {e' : Dev} (h : Dev.Writes W d e) (h' : Dev.Writes W e e') : Dev.Writes W d e' := Regs.Writes.trans h h'

theorem Regs.Writes.mono {V : Fld → Nat → Prop} {x y : Regs} (h : Regs.Writes W x y) (hsub : ∀ f v, W f v → V f v) :
    Regs.Writes V x y := by
  induction h with
  | refl => exact .refl
  | set _ hf ih => exact ih.set (hsub _ _ hf)

theorem Dev.Writes.mono {V : Fld → Nat → Prop} (h : Dev.Writes W d e) (hsub : ∀ f v, W f v → V f v) : Dev.Writes V d e :=
  Regs.Writes.mono h hsub

theorem Dev.Writes.wrAll {ws : List (Fld × Nat)} (h : Dev.Writes W d e) (hws : ∀ w ∈ ws, W w.1 w.2) : Dev.Writes W d (e.wrAll ws) := by
  induction ws generalizing e with
  | nil => exact h
  | cons w ws ih =>
    obtain ⟨hw, hrest⟩ := List.forall_mem_cons.mp hws
    exact ih (h.wr hw) hrest

theorem Dev.Writes.forAll {α : Type} {xs : List α} {g : Dev → α → Dev} (h : Dev.Writes W d e)
    (hg : ∀ e x, Dev.Writes W e (g e x)) : Dev.Writes W d (e.forAll xs g) :=
  Dev.forAll_induct h fun e x he => he.trans (hg e x)

/-- A field that no permitted write names reads as before. -/
theorem Regs.Writes.get_eq {g : Fld} {x y : Regs} (h : Regs.Writes W x y) (hg : ∀ f v, W f v → f.key ≠ g.key) :
    Regs.get y g = Regs.get x g := by
  induction h with
  | refl => rfl
  | set _ hf ih => exact (Regs.get_set_ne _ _ _ _ (hg _ _ hf)).trans ih

theorem Dev.Writes.rd_eq {g : Fld} (h : Dev.Writes W d e) (hg : ∀ f v, W f v → f.key ≠ g.key) : e.rd g = d.rd g :=
  Regs.Writes.get_eq h hg

/-- A field that every permitted write of it leaves at `n` keeps `n`. -/
theorem Regs.Writes.get_stays {g : Fld} {n : Nat} {x y : Regs} (h : Regs.Writes W x y)
    (hg : ∀ f v, W f v → f.key = g.key → f = g ∧ v % 2 ^ g.width = n) (hx : Regs.get x g = n) : Regs.get y g = n := by
  induction h with
  | refl => exact hx
  | @set y f v _ hf ih =>
    by_cases hkey : f.key = g.key
    · obtain ⟨rfl, hv⟩ := hg f v hf hkey
      exact (Regs.get_set y f v).trans hv
    · exact (Regs.get_set_ne y f g v hkey).trans ih

theorem Dev.Writes.rd_stays {g : Fld} {n : Nat} (h : Dev.Writes W d e)
    (hg : ∀ f v, W f v → f.key = g.key → f = g ∧ v % 2 ^ g.width = n) (hx : d.rd g = n) : e.rd g = n :=
  Regs.Writes.get_stays h hg hx

theorem Dev.Writes.rd_of_block {bs : List Nat} {g : Fld} (h : Dev.Writes (InBlocks bs) d e) (hg : g.block ∉ bs) : e.rd g = d.rd g :=
  h.rd_eq fun _ _ hf => Fld.key_ne_of_block fun hb => hg (hb ▸ hf)

theorem Dev.Writes.more {bs cs : List Nat} (h : Dev.Writes (InBlocks bs) d e) (hsub : bs ⊆ cs) : Dev.Writes (InBlocks cs) d e :=
  h.mono fun _ _ hf => hsub hf

end

/-- A one-bit field set reads 1. -/
theorem Dev.rd_wr_one (d : Dev) {f : Fld} (h : f.width = 1) : (d.wr f 1).rd f = 1 :=
  (d.rd_wr f 1).trans (congrArg (1 % 2 ^ ·) h)

/-! ## Blocks of the indexed fields of the rings, the router and the journal -/

section
variable (r : Nat)

@[simp] theorem block_HEVT_PEND : (R.HEVT_PEND.PEND r).block = 0x2003 := by simp only [Fld.block, Fld.key, R.HEVT_PEND.PEND]; omega

@[simp] theorem block_HRNG_HEAD : (R.HRNG_HEAD.IDX r).block = 0x2002 := by simp only [Fld.block, Fld.key, R.HRNG_HEAD.IDX]; omega

@[simp] theorem block_HRNG_STAT_ERR : (R.HRNG_STAT.ERR r).block = 0x2002 := by simp only [Fld.block, Fld.key, R.HRNG_STAT.ERR]; omega

@[simp] theorem block_HRNG_STAT_EVT : (R.HRNG_STAT.EVT r).block = 0x2002 := by simp only [Fld.block, Fld.key, R.HRNG_STAT.EVT]; omega

@[simp] theorem block_HRNG_STAT_STALL : (R.HRNG_STAT.STALL r).block = 0x2002 := by
  simp only [Fld.block, Fld.key, R.HRNG_STAT.STALL]; omega

@[simp] theorem block_HDIA_HELD : (R.HDIA_HELD.SRC r).block = 0x2009 := by simp only [Fld.block, Fld.key, R.HDIA_HELD.SRC]; omega

@[simp] theorem block_HDIA_FLOOD : (R.HDIA_FLOOD.SRC r).block = 0x2009 := by simp only [Fld.block, Fld.key, R.HDIA_FLOOD.SRC]; omega

end

/-! ## A host event -/

/-- What a host event may write: the router, the journal's registers, and of ring 24, which takes the entries, HEAD and EVT. -/
def HostEventWrite (f : Fld) (v : Nat) : Prop :=
  f.block = 0x2003 ∨ f.block = 0x2009 ∨ f = R.HRNG_HEAD.IDX 24 ∨ (f = R.HRNG_STAT.EVT 24 ∧ v = 1)

theorem HostEventWrite.inBlocks {f : Fld} {v : Nat} (h : HostEventWrite f v) : InBlocks [0x2002, 0x2003, 0x2009] f v := by
  obtain h | h | rfl | ⟨rfl, -⟩ := h
  · simp [InBlocks, h]
  · simp [InBlocks, h]
  · simp [InBlocks]
  · simp [InBlocks]

/-- A completed descriptor moves HEAD, and shows an error where there is one (R342). -/
theorem Dev.ringFinish_writes {W : Fld → Nat → Prop} (d : Dev) {r err : Nat} (info : Nat) (sop eop : Bool)
    (hhead : ∀ v, W (R.HRNG_HEAD.IDX r) v) (herr : err ≠ 0 → W (R.HRNG_STAT.ERR r) 1) :
    Dev.Writes W d (d.ringFinish r err info sop eop).1 := by
  have hmove : ∀ v, Dev.Writes W d (d.wr (R.HRNG_HEAD.IDX r) v) := fun v => (Dev.Writes.refl W d).wr (hhead v)
  unfold Dev.ringFinish
  by_cases h0 : err = 0
  · simp only [h0, if_true]
    exact hmove _
  · simp only [h0, if_false]
    exact (hmove _).wr (herr h0)

section
variable {d e : Dev}

theorem Dev.Writes.pend (h : Dev.Writes HostEventWrite d e) (n : Nat) : Dev.Writes HostEventWrite d (e.pend n) :=
  h.wr (.inl (block_HEVT_PEND _))

/-- A write to a register of the journal's block. -/
theorem Dev.Writes.hdia {f : Fld} {v : Nat} (h : Dev.Writes HostEventWrite d e) (hf : f.block = 0x2009) :
    Dev.Writes HostEventWrite d (e.wr f v) := h.wr (.inr (.inl hf))

theorem Dev.Writes.jrnWrite (h : Dev.Writes HostEventWrite d e) (first last ev kind typ flags count : Nat) (data : List Nat) :
    Dev.Writes HostEventWrite d (e.jrnWrite first last ev kind typ flags count data) := by
  have hring : Dev.Writes HostEventWrite d ((e.ringStore 24 (jrnEntry first last ev kind typ flags count (e.rd R.HDIA_JSEQ.SEQ)
      data)).ringFinish 24 0 0 true true).1 :=
    h.trans (Dev.ringFinish_writes (e.ringStore 24 _) 0 true true (fun _ => Or.inr (Or.inr (Or.inl rfl))) (absurd rfl))
  unfold Dev.jrnWrite
  dsimp only
  generalize (e.ringStore 24 _).ringFinish 24 0 0 true true = q at hring ⊢
  split
  · exact ((hring.hdia (f := R.HDIA_JSEQ.SEQ) (by decide)).wr (.inr (.inr (.inr ⟨rfl, rfl⟩)))).pend 92
  · exact hring.hdia (f := R.HDIA_JSEQ.SEQ) (by decide)

theorem Dev.Writes.jrnShow (h : Dev.Writes HostEventWrite d e) : Dev.Writes HostEventWrite d e.jrnShow :=
  ((h.hdia (by decide)).hdia (by decide)).forAll fun e i =>
    ((Dev.Writes.refl _ e).hdia (block_HDIA_HELD i)).hdia (block_HDIA_FLOOD i)

theorem Dev.Writes.jrnHold (h : Dev.Writes HostEventWrite d e) (r : HeldRec) : Dev.Writes HostEventWrite d (e.jrnHold r) := by
  have hcount : ∀ e' : Dev, e'.regs = e.regs → Dev.Writes HostEventWrite d (e'.bumpBy R.HDIA_JCNT.HELD r.count) := fun e' he =>
    (h.of_regs he).hdia (f := R.HDIA_JCNT.HELD) (by decide)
  unfold Dev.jrnHold
  dsimp only
  refine .jrnShow ?_
  split
  · exact hcount _ rfl
  · refine .pend (.hdia (f := R.HDIA_JCNT.FLOODS) ?_ (by decide)) 121
    exact hcount _ rfl

theorem Dev.Writes.jrnReport (h : Dev.Writes HostEventWrite d e) (r : HeldRec) : Dev.Writes HostEventWrite d (e.jrnReport r) := by
  unfold Dev.jrnReport
  dsimp only
  split
  · exact h.jrnWrite _ _ _ _ _ _ _ _
  · split
    · exact (((h.jrnHold r).hdia (by decide)).pend 123).jrnHold _
    · exact h.jrnHold r

end

theorem Dev.raiseH_writes (d : Dev) (n kind : Nat) (data : List Nat) : Dev.Writes HostEventWrite d (d.raiseH n kind data) := by
  have hpend := (Dev.Writes.refl HostEventWrite d).pend n
  unfold Dev.raiseH
  dsimp only
  split
  · exact hpend
  · exact hpend.jrnReport _

/-- The blocks a host event may write: the rings, the router and the journal. -/
def hostEventBlocks : List Nat := [0x2002, 0x2003, 0x2009]

theorem Dev.raiseH_inBlocks (d : Dev) (n kind : Nat) (data : List Nat) :
    Dev.Writes (InBlocks hostEventBlocks) d (d.raiseH n kind data) :=
  (d.raiseH_writes n kind data).mono fun _ _ => HostEventWrite.inBlocks

theorem Dev.raiseH_rd (d : Dev) (n kind : Nat) (data : List Nat) {g : Fld} (hg : g.block ∉ hostEventBlocks) :
    (d.raiseH n kind data).rd g = d.rd g := (d.raiseH_inBlocks n kind data).rd_of_block hg

/-- Writes to the fields listed, and what a host event writes. -/
def FieldsOrHostEvent (fs : List Fld) (f : Fld) (_ : Nat) : Prop := f ∈ fs ∨ f.block ∈ hostEventBlocks

section
variable {W : Fld → Nat → Prop} {fs : List Fld} {d e : Dev}

theorem Dev.Writes.raiseH (h : Dev.Writes W d e) (hW : ∀ f v, f.block ∈ hostEventBlocks → W f v) (n kind : Nat) (data : List Nat) :
    Dev.Writes W d (e.raiseH n kind data) := h.trans ((e.raiseH_inBlocks n kind data).mono hW)

theorem Dev.Writes.raise (h : Dev.Writes W d e) (n kind : Nat) (data : List Nat) : Dev.Writes W d (e.raise n kind data) :=
  h.of_regs (e.raise_regs n kind data)

theorem Dev.Writes.event (h : Dev.Writes (FieldsOrHostEvent fs) d e) (n kind : Nat) (data : List Nat) :
    Dev.Writes (FieldsOrHostEvent fs) d (e.raiseH n kind data) := h.raiseH (fun _ _ => .inr) n kind data

theorem Dev.Writes.field {f : Fld} {v : Nat} (h : Dev.Writes (FieldsOrHostEvent fs) d e) (hf : f ∈ fs) :
    Dev.Writes (FieldsOrHostEvent fs) d (e.wr f v) := h.wr (.inl hf)

theorem Dev.Writes.rd_of_fields {g : Fld} (h : Dev.Writes (FieldsOrHostEvent fs) d e) (hg : g.block ∉ hostEventBlocks)
    (hfs : ∀ f ∈ fs, f.key ≠ g.key) : e.rd g = d.rd g :=
  h.rd_eq fun f _ hf => hf.elim (hfs f) fun hb => Fld.key_ne_of_block fun hbg => hg (hbg ▸ hb)

end

/-- A ring's EVT that reads 1 still reads 1 after a host event, which at most sets ring 24's. -/
theorem Dev.raiseH_keeps_evt (d : Dev) (n kind : Nat) (data : List Nat) {r : Nat} (h : d.rd (R.HRNG_STAT.EVT r) = 1) :
    (d.raiseH n kind data).rd (R.HRNG_STAT.EVT r) = 1 := by
  refine (d.raiseH_writes n kind data).rd_stays (fun f v hf hkey => ?_) h
  have hblock : f.block = 0x2002 := (congrArg (· / 2 ^ 21) hkey).trans (block_HRNG_STAT_EVT r)
  obtain h3 | h9 | rfl | ⟨rfl, rfl⟩ := hf
  · omega
  · omega
  · simp only [Fld.key, R.HRNG_HEAD.IDX, R.HRNG_STAT.EVT] at hkey
    omega
  · simp only [Fld.key, R.HRNG_STAT.EVT] at hkey
    have hr : r % 32 = 24 := by omega
    exact ⟨by simp only [R.HRNG_STAT.EVT, hr], rfl⟩

/-! ## Rings -/

section
variable (d : Dev) (r : Nat)

theorem Dev.ringEvent_inBlocks : Dev.Writes (InBlocks hostEventBlocks) d (d.ringEvent r) :=
  ((Dev.Writes.refl _ d).wr (by simp [InBlocks, hostEventBlocks])).trans (Dev.raiseH_inBlocks _ _ _ _)

theorem Dev.ringEvent_pends : (d.ringEvent r).Pends (80 + r / 2) := Dev.raiseH_pends _ _ _ _

/-- The event of a ring shows in its EVT. -/
theorem Dev.ringEvent_evt : (d.ringEvent r).rd (R.HRNG_STAT.EVT r) = 1 := Dev.raiseH_keeps_evt _ _ _ _ (Dev.rd_wr _ _ _)

theorem Dev.ringStall_inBlocks : Dev.Writes (InBlocks hostEventBlocks) d (d.ringStall r) := by
  unfold Dev.ringStall
  split
  · exact .refl _ d
  · have hstall : Dev.Writes (InBlocks hostEventBlocks) d (d.wr (R.HRNG_STAT.STALL r) 1) :=
      (Dev.Writes.refl _ d).wr (by simp [InBlocks, hostEventBlocks])
    refine .trans ?_ (Dev.ringEvent_inBlocks _ r)
    exact hstall

theorem Dev.ringReach_inBlocks : Dev.Writes (InBlocks hostEventBlocks) d (d.ringReach r) := by
  unfold Dev.ringReach
  split
  · exact d.ringStall_inBlocks r
  · exact .refl _ d

theorem Dev.ringFinish_inBlocks (err info : Nat) (sop eop : Bool) :
    Dev.Writes (InBlocks hostEventBlocks) d (d.ringFinish r err info sop eop).1 :=
  d.ringFinish_writes info sop eop (by simp [InBlocks, hostEventBlocks]) (by simp [InBlocks, hostEventBlocks])

theorem Dev.ringComplete_inBlocks (err info : Nat) (sop eop : Bool) :
    Dev.Writes (InBlocks hostEventBlocks) d (d.ringComplete r err info sop eop) := by
  have hfin := d.ringFinish_inBlocks r err info sop eop
  unfold Dev.ringComplete
  dsimp only
  split
  · exact hfin.trans (Dev.ringEvent_inBlocks _ r)
  · exact hfin

theorem Dev.ringFrameGo_inBlocks (n : Nat) : ∀ (d : Dev) (bs : List Byte) (info : Nat) (sop : Bool),
    Dev.Writes (InBlocks hostEventBlocks) d (Dev.ringFrameGo n d r bs info sop) := by
  have hput : ∀ (e : Dev) (bs : List Byte) (err info : Nat) (sop eop : Bool),
      Dev.Writes (InBlocks hostEventBlocks) e ((e.ringStore r bs).ringComplete r err info sop eop) := fun e bs err info sop eop =>
    Dev.ringComplete_inBlocks (e.ringStore r bs) r err info sop eop
  induction n with
  | zero => exact fun d _ _ _ => .refl _ d
  | succ n ih =>
    intro d bs info sop
    unfold Dev.ringFrameGo
    dsimp only
    split
    · exact hput ..
    · split
      · exact (hput ..).trans (ih ..)
      · exact hput ..

end

end Sys2Proof.Machine
end

section
/-! Accesses outside the register map: bad accesses of the FMP (R412 to R414), and reserved, narrower and refused accesses of
the host (R337, R338, R417). -/

namespace Sys2Proof.Machine

theorem exec_badAccess (a : Nat) (w n : Bool) (s : State) :
    exec (.badAccess a w n) s = onF1 s (fun d => if d.isBadField a w n then d.badField a w else d) := rfl

theorem exec_hostBadAccess (a : Nat) (w n m : Bool) (s : State) :
    exec (.hostBadAccess a w n m) s = onH1 s (·.badHost a w n m) := rfl

/-! ## Accesses of the FMP -/

theorem windowDom_of_low {a : Nat} (h : a < 0x800000) : windowDom a = none := if_neg (by omega)

theorem windowDom_of_high {a : Nat} (h : 0x2400000 ≤ a) : windowDom a = none := if_neg (by omega)

theorem windowDom_of_window {a : Nat} (h : 0x800000 ≤ a) (h' : a < 0x2400000) : ∃ x, windowDom a = some x := by
  rw [windowDom, if_pos ⟨h, h'⟩]
  split <;> exact ⟨_, rfl⟩

/-- Which accesses are bad, by the three parts of the address space: registers, windows, and what lies above. -/
theorem Dev.isBadField_iff (d : Dev) (a : Nat) (w n : Bool) : d.isBadField a w n = true ↔
    (a < 0x800000 ∧ (n = true ∨ d.regAt a = none)) ∨
    (∃ x : Dom, windowDom a = some x ∧ 0x800000 ≤ a ∧ (w = true ∨ d.domOn x = false)) ∨ 0x2400000 ≤ a := by
  unfold Dev.isBadField
  by_cases hlow : a < 0x800000
  · have hnot : ¬ 0x2400000 ≤ a := by omega
    simp [hlow, hnot, windowDom_of_low hlow]
  · by_cases hhigh : 0x2400000 ≤ a
    · simp [hlow, hhigh, windowDom_of_high hhigh]
    · obtain ⟨x, hx⟩ := windowDom_of_window (Nat.le_of_not_lt hlow) (Nat.lt_of_not_le hhigh)
      simp [hlow, hhigh, hx, Nat.le_of_not_lt hlow]

section
variable (d : Dev) (a : Nat) (w : Bool)

/-- The fields that latch a bad access. -/
theorem Dev.badField_shown :
    (d.badField a w).rd R.FSYS_BADADDR.VALID = 1 ∧ (d.badField a w).rd R.FSYS_BADADDR.WRITE = b2n w ∧
    (d.badField a w).rd R.FSYS_BADADDR.ADDR = a % 2 ^ 26 ∧
    (d.badField a w).rd R.FSYS_BADADDR.COUNT = min 15 (d.rd R.FSYS_BADADDR.COUNT + 1) := by
  refine ⟨Dev.rd_wrAll_head (d.bump R.FSYS_BADADDR.COUNT) (by simp only [List.forall_mem_cons]; decide), ?_, ?_, ?_⟩
  · refine (Dev.rd_wrAll_head ((d.bump R.FSYS_BADADDR.COUNT).wr R.FSYS_BADADDR.VALID 1) (by simp only [List.forall_mem_cons]; decide)).trans ?_
    exact b2n_mod_two w
  · exact Dev.rd_wr ..
  · exact (Dev.rd_wrAll_other (d.bump R.FSYS_BADADDR.COUNT) (by simp only [List.forall_mem_cons]; decide)).trans (d.rd_bump R.FSYS_BADADDR.COUNT)

theorem Dev.badField_regsBut :
    d.RegsBut [R.FSYS_BADADDR.VALID, R.FSYS_BADADDR.WRITE, R.FSYS_BADADDR.COUNT, R.FSYS_BADADDR.ADDR] (d.badField a w) :=
  (((Dev.RegsBut.refl _ d).wr (v := satAdd _ 1 _) (by simp)).wrAll (by simp)).of_regs rfl

end

/-- Settles O53: the cases of the address, the latch of a bad access, and no effect of any other. -/
theorem badAccessesOfTheFmpChangeNothing : Obligations.BadAccessesOfTheFmpChangeNothing := by
  intro s a w n hon
  refine ⟨s.dev.isBadField_iff a w n, fun hbad => answers_of_onF1 (exec_badAccess a w n s) hon ?_, fun hgood =>
    answers_same_of_onF1 (exec_badAccess a w n s) (if_neg (by simp [hgood]))⟩
  rw [if_pos hbad]
  obtain ⟨hvalid, hwrite, haddr, hcount⟩ := s.dev.badField_shown a w
  exact ⟨hvalid, hwrite, haddr, hcount, fun hw => by simp [Dev.badField, hw], fun hw => by simp [Dev.badField, hw, Dev.wrAll, Dev.bump, Dev.bumpBy],
    decide_eq_true_iff, s.dev.badField_regsBut a w, (s.dev.badField_reach a w).onlyIn⟩

/-! ## Accesses of the host -/

section
variable {d : Dev} {a : Nat} {w n m : Bool}

theorem hostRegSpace_iff : hostRegSpace a = true ↔ 0x20000000 ≤ a ∧ a ≤ 0x200BFFFF := by
  simp [hostRegSpace]

theorem Dev.badHost_of_reserved (h : 0x20000000 ≤ a) (h' : a ≤ 0x200BFFFF) (hbad : n = true ∨ d.regAt a = none) :
    d.badHost a w n m = d.hostReserved a w := by
  rw [Dev.badHost, if_pos (hostRegSpace_iff.mpr ⟨h, h'⟩), if_pos (by simpa using hbad)]

theorem Dev.badHost_of_elsewhere (h : a < 0x20000000 ∨ 0x200BFFFF < a) :
    d.badHost a w n m = if d.hostBusError a w m then d.hostError a else d :=
  if_neg (by rw [hostRegSpace_iff]; omega)

theorem Dev.hostReserved_pends : (d.hostReserved a w).Pends 71 := d.raiseH_pends 71 0 [a]

theorem Dev.hostError_pends : (d.hostError a).Pends 71 := d.raiseH_pends 71 0 [a]

theorem Dev.hostError_lastRead : (d.hostError a).lastRead = d.lastRead := (d.raiseH_reach 71 0 [a]).onlyIn.lastRead rfl

end

/-- A register of none of the three blocks a host event writes. -/
theorem Fld.block_notMem_hostEventBlocks {g : Fld}
    (h : g.addr < 0x20020000 ∨ (0x20040000 ≤ g.addr ∧ g.addr < 0x20090000 ∨ 0x200A0000 ≤ g.addr)) (hlo : g.lo < 32) :
    g.block ∉ hostEventBlocks := by
  simp only [hostEventBlocks, Fld.block, Fld.key, List.mem_cons, List.not_mem_nil, or_false]
  omega

/-- Settles O54: a reserved access is the event alone, and outside the register blocks the bus decides. -/
theorem hostReservedAccessesReadZero : Obligations.HostReservedAccessesReadZero := by
  intro s a w n m hon
  refine ⟨fun h h' hbad => answers_of_onH1 (exec_hostBadAccess a w n m s) hon ?_,
    fun hout herr => answers_of_onH1 (exec_hostBadAccess a w n m s) hon ?_,
    fun hout hok => answers_same_of_onH1 (exec_hostBadAccess a w n m s) ?_⟩
  · rw [Dev.badHost_of_reserved h h' hbad]
    exact ⟨rfl, Dev.hostReserved_pends, fun hw => by simp [Dev.hostReserved, hw], rfl, (s.dev.hostReserved_reach a w).onlyIn,
      fun g hg hlo => s.dev.raiseH_rd 71 0 [a] (Fld.block_notMem_hostEventBlocks hg hlo)⟩
  · rw [Dev.badHost_of_elsewhere hout, if_pos herr]
    exact ⟨rfl, Dev.hostError_pends, Dev.hostError_lastRead⟩
  · rw [Dev.badHost_of_elsewhere hout, if_neg (by simp [hok])]

end Sys2Proof.Machine
end

section
/-! Coolant flow and fans (R314, R315), and the vehicle ports: 10BASE-T1S, the control pilot and proximity (R309, R311, R313). -/

namespace Sys2Proof.Machine

/-! ## Commands of the domains F2 and H3 -/

/-- A row of field domain F2 answers its operation's block while F2 is on. -/
theorem answers_of_onF2 {c : Instr} {s : State} {f : Dev → Dev} {P : Dev → Prop}
    (h : exec c s = done s (fun d => if d.domOn .f2 then f d else d)) (hon : s.dev.domOn .f2 = true) (hP : P (f s.dev)) : Answers c s P :=
  answers_of_done h (by rwa [if_pos hon])

/-- A row of host domain H3 answers its operation's block while H3 is on. -/
theorem answers_of_onH3 {c : Instr} {s : State} {f : Dev → Dev} {P : Dev → Prop}
    (h : exec c s = done s (fun d => if d.domOn .h3 then f d else d)) (hon : s.dev.domOn .h3 = true) (hP : P (f s.dev)) : Answers c s P :=
  answers_of_done h (by rwa [if_pos hon])

section
variable (n : Fin 4) (s : State)

theorem exec_flowWindow (c : Nat) : exec (.flowWindow n c) s = done s (fun d =>
    if d.domOn .f2 then (d.advanceTo ((d.tm.q + 39999999) / 40000000 * 40000000)).flowWindow n c else d) := rfl

theorem exec_fanStall : exec (.fanStall n) s = done s (fun d => if d.domOn .f2 then d.fanStall n else d) := rfl

theorem exec_tachEdge : exec (.tachEdge n) s = done s (fun d => if d.domOn .f2 then d.tachEdge n else d) := rfl

theorem exec_t1sFrame (f : List Byte) (ok : Bool) (k : Nat) :
    exec (.t1sFrame n f ok k) s = done s (fun d => if d.domOn .h3 then d.t1sFrame n f ok k else d) := rfl

theorem exec_plcaStatusChange (ok j : Bool) :
    exec (.plcaStatusChange n ok j) s = done s (fun d => if d.domOn .h3 then d.plcaChange n ok j else d) := rfl

theorem exec_controlPilotPeriod (hi lo : Option Int) (m : Nat) :
    exec (.controlPilotPeriod n hi lo m) s = done s (fun d => if d.domOn .h3 then d.pilotPeriod n hi lo m else d) := rfl

theorem exec_proximityReading (r : Nat) :
    exec (.proximityReading n r) s = done s (fun d => if d.domOn .h3 then d.proximity n r else d) := rfl

end

/-! ## Coolant flow and fans (R314, R315) -/

section
variable (d : Dev) (n : Nat)

theorem Dev.noFlowCheck_regsBut : d.RegsBut [R.CBL_CTL.NOFLOW n] (d.noFlowCheck n) := by
  unfold Dev.noFlowCheck
  dsimp only
  split
  · exact .refl _ d
  · exact ((Dev.RegsBut.refl _ d).wr (by simp)).raise _ _ _

/-- Where neither the pump nor a flow constant asks for it, no-flow ends. -/
theorem Dev.noFlowCheck_clear (hpump : d.pumpStopped n = false) (hk : d.rd (R.CBL_FLOWK.K n) = 0) :
    (d.noFlowCheck n).on (R.CBL_CTL.NOFLOW n) = false := by
  unfold Dev.noFlowCheck
  simp only [hpump, hk]
  split
  case isTrue h => exact h.symm
  case isFalse => simp [Dev.on, Dev.rd_wrB, b2n, R.CBL_CTL.NOFLOW]

theorem Dev.flowWindow_flow (c : Nat) : (d.flowWindow n c).rd (R.CBL_FLOW.FLOW n) =
    min (if d.rd (R.CBL_FLOWK.K n) = 0 then 0 else c * 6000 / d.rd (R.CBL_FLOWK.K n)) 65535 := by
  refine (Dev.noFlowCheck_regsBut _ n _ ?_).trans ((Dev.rd_wr _ _ _).trans (Nat.mod_eq_of_lt ?_))
  · simp [Fld.key, R.CBL_FLOW.FLOW, R.CBL_CTL.NOFLOW]
    omega
  · exact Nat.lt_succ_of_le (Nat.min_le_right ..)

theorem Dev.flowWindow_regsBut (c : Nat) : d.RegsBut [R.CBL_FLOW.FLOW n, R.CBL_CTL.NOFLOW n] (d.flowWindow n c) := by
  refine .trans ?_ ((Dev.noFlowCheck_regsBut _ n).mono (by simp))
  exact (Dev.RegsBut.of_eq _ rfl).wr (by simp)

/-- Whether the pump stands is read from registers that the flow window leaves. -/
theorem Dev.pumpStopped_wr_flow (v : Nat) : (d.wr (R.CBL_FLOW.FLOW n) v).pumpStopped n = d.pumpStopped n := by
  have hax : (d.wr (R.CBL_FLOW.FLOW n) v).rd (R.CBL_CFG.PUMPAX n) = d.rd (R.CBL_CFG.PUMPAX n) :=
    Dev.rd_wr_ne _ _ _ _ (by simp only [Fld.key, R.CBL_FLOW.FLOW, R.CBL_CFG.PUMPAX]; omega)
  have hstate : ∀ i, (d.wr (R.CBL_FLOW.FLOW n) v).axisState i = d.axisState i := fun i =>
    Dev.rd_wr_ne _ _ _ _ (by simp only [Fld.key, R.CBL_FLOW.FLOW, R.LAW_AXSTAT.STATE]; omega)
  simp only [Dev.pumpStopped, hax, hstate]

theorem Dev.flowWindow_clear (c : Nat) (hpump : d.pumpStopped n = false) (hk : d.rd (R.CBL_FLOWK.K n) = 0) :
    (d.flowWindow n c).on (R.CBL_CTL.NOFLOW n) = false := by
  refine Dev.noFlowCheck_clear _ n ((Dev.pumpStopped_wr_flow _ n _).trans hpump) ((Dev.rd_wr_ne _ _ _ _ ?_).trans hk)
  simp only [Fld.key, R.CBL_FLOW.FLOW, R.CBL_FLOWK.K]
  omega

theorem Dev.fanStall_set (hduty : 200 ≤ d.rd (R.CBL_FAN.DUTY n)) (hstall : d.on (R.CBL_TACH.STALL n) = false) :
    d.fanStall n = (d.wr (R.CBL_TACH.STALL n) 1).raise 51 2 [n] := if_pos ⟨hduty, hstall⟩

theorem Dev.fanStall_slow (hduty : d.rd (R.CBL_FAN.DUTY n) < 200) : d.fanStall n = d := if_neg fun h => absurd h.1 (by omega)

theorem Dev.tachEdge_stall : (d.tachEdge n).rd (R.CBL_TACH.STALL n) = 0 := Dev.rd_wr _ _ _

theorem Dev.cable_setCable_self {x : CableRt} (hn : n < d.cbl.length) : (d.setCable n x).cable n = x := getD_setAt_self x {} hn

theorem Dev.tachEdge_tachAt (hn : n < d.cbl.length) : ((d.tachEdge n).cable n).tachAt = some d.stcNs := by
  refine congrArg CableRt.tachAt (Dev.cable_setCable_self _ n ?_)
  simpa only [apply_ite Dev.cbl, Dev.wr_cbl, ite_self] using hn

theorem Dev.rd_rpm_wr_stall (v : Nat) : (d.wr (R.CBL_TACH.STALL n) v).rd (R.CBL_TACH.RPM n) = d.rd (R.CBL_TACH.RPM n) :=
  Dev.rd_wr_ne _ _ _ _ (by simp only [Fld.key, R.CBL_TACH.STALL, R.CBL_TACH.RPM]; omega)

/-- An edge at least 1 µs after the one before shows the speed of the time between them. -/
theorem Dev.tachEdge_rpm {a : Nat} (ha : (d.cable n).tachAt = some a) (hlate : a + 1000 ≤ d.stcNs) :
    (d.tachEdge n).rd (R.CBL_TACH.RPM n) = min 65535 (60000000 / ((d.stcNs - a) / 1000 * max 1 (d.rd (R.CBL_FAN.PPR n)))) := by
  have hus : (d.stcNs - a) / 1000 ≠ 0 := by omega
  unfold Dev.tachEdge
  simp only [ha, hus, if_false, Dev.rd_rpm_wr_stall]
  exact (Dev.rd_wr d _ _).trans (Nat.mod_eq_of_lt (Nat.lt_succ_of_le (Nat.min_le_left ..)))

theorem Dev.tachEdge_rpm_first (ha : (d.cable n).tachAt = none) :
    (d.tachEdge n).rd (R.CBL_TACH.RPM n) = d.rd (R.CBL_TACH.RPM n) := by
  unfold Dev.tachEdge
  simp only [ha, if_true, Dev.rd_rpm_wr_stall]
  rfl

end

/-! ## The block of the vehicle ports -/

section
variable (n : Nat)

@[simp] theorem block_VEH_T1SSTAT_PLCA : (R.VEH_T1SSTAT.PLCA n).block = 0x2005 := by simp only [Fld.block, Fld.key, R.VEH_T1SSTAT.PLCA]; omega

@[simp] theorem block_VEH_T1SSTAT_JABBER : (R.VEH_T1SSTAT.JABBER n).block = 0x2005 := by simp only [Fld.block, Fld.key, R.VEH_T1SSTAT.JABBER]; omega

@[simp] theorem block_VEH_CPMEAS_HIGH : (R.VEH_CPMEAS.HIGH n).block = 0x2005 := by simp only [Fld.block, Fld.key, R.VEH_CPMEAS.HIGH]; omega

@[simp] theorem block_VEH_CPMEAS_LOW : (R.VEH_CPMEAS.LOW n).block = 0x2005 := by simp only [Fld.block, Fld.key, R.VEH_CPMEAS.LOW]; omega

@[simp] theorem block_VEH_CPSTAT_DUTYM : (R.VEH_CPSTAT.DUTYM n).block = 0x2005 := by simp only [Fld.block, Fld.key, R.VEH_CPSTAT.DUTYM]; omega

@[simp] theorem block_VEH_CPSTAT_DIODE : (R.VEH_CPSTAT.DIODE n).block = 0x2005 := by simp only [Fld.block, Fld.key, R.VEH_CPSTAT.DIODE]; omega

@[simp] theorem block_VEH_CPSTAT_STATE : (R.VEH_CPSTAT.STATE n).block = 0x2005 := by simp only [Fld.block, Fld.key, R.VEH_CPSTAT.STATE]; omega

@[simp] theorem block_VEH_PP_RES : (R.VEH_PP.RES n).block = 0x2005 := by simp only [Fld.block, Fld.key, R.VEH_PP.RES]; omega

end

/-! ## 10BASE-T1S (R309) -/

section
variable {d : Dev} {n : Nat}

theorem Dev.t1sFrame_off (h : d.rd (R.VEH_T1SSTAT.STATUS n) = 0) (f : List Byte) (ok : Bool) (k : Nat) : d.t1sFrame n f ok k = d :=
  if_pos h

theorem Dev.t1sFrame_good (h : d.rd (R.VEH_T1SSTAT.STATUS n) ≠ 0) (f : List Byte) (k : Nat) :
    d.t1sFrame n f true k = (d.bumpBy (R.VEH_T1SCNT.COLL n) k).ringFrame (8 + 2 * n) f n := if_neg h

theorem Dev.t1sFrame_bad (h : d.rd (R.VEH_T1SSTAT.STATUS n) ≠ 0) (f : List Byte) (k : Nat) :
    d.t1sFrame n f false k = (d.bumpBy (R.VEH_T1SCNT.COLL n) k).bump (R.VEH_T1SCNT.RXERR n) := if_neg h

end

/-- A counting field raised by `k` reads `k` more, up to its greatest value. -/
theorem Dev.rd_bumpBy (d : Dev) (f : Fld) (k : Nat) : (d.bumpBy f k).rd f = min (2 ^ f.width - 1) (d.rd f + k) := by
  have hlt : min (2 ^ f.width - 1) (d.rd f + k) < 2 ^ f.width :=
    Nat.lt_of_le_of_lt (Nat.min_le_left ..) (Nat.pred_lt (Nat.two_pow_pos _).ne')
  exact (d.rd_wr f _).trans (Nat.mod_eq_of_lt hlt)

section
variable (d : Dev) (n : Nat)

theorem veh_coll_ne_rxerr : (R.VEH_T1SCNT.COLL n).key ≠ (R.VEH_T1SCNT.RXERR n).key := by
  simp only [Fld.key, R.VEH_T1SCNT.COLL, R.VEH_T1SCNT.RXERR]
  omega

/-- The two counters of a bad frame, and no other register. -/
theorem Dev.t1sCount_shown (k : Nat) :
    ((d.bumpBy (R.VEH_T1SCNT.COLL n) k).bump (R.VEH_T1SCNT.RXERR n)).rd (R.VEH_T1SCNT.RXERR n) =
      min (2 ^ (R.VEH_T1SCNT.RXERR n).width - 1) (d.rd (R.VEH_T1SCNT.RXERR n) + 1) ∧
    ((d.bumpBy (R.VEH_T1SCNT.COLL n) k).bump (R.VEH_T1SCNT.RXERR n)).rd (R.VEH_T1SCNT.COLL n) =
      min (2 ^ (R.VEH_T1SCNT.COLL n).width - 1) (d.rd (R.VEH_T1SCNT.COLL n) + k) ∧
    d.RegsBut [R.VEH_T1SCNT.RXERR n, R.VEH_T1SCNT.COLL n] ((d.bumpBy (R.VEH_T1SCNT.COLL n) k).bump (R.VEH_T1SCNT.RXERR n)) := by
  refine ⟨(Dev.rd_bump _ _).trans ?_, (Dev.rd_wr_ne _ _ _ _ (veh_coll_ne_rxerr n).symm).trans (Dev.rd_bumpBy ..), ?_⟩
  · rw [Dev.bumpBy, Dev.rd_wr_ne _ _ _ _ (veh_coll_ne_rxerr n)]
  · exact ((Dev.RegsBut.refl _ d).wr (by simp)).wr (by simp)

/-- A PLCA status and a jabber that are reported show in VEH_T1SSTAT. -/
theorem Dev.plcaChange_shown (ok j : Bool) :
    (d.plcaChange n ok j).rd (R.VEH_T1SSTAT.PLCA n) = b2n ok ∧ (d.plcaChange n ok j).rd (R.VEH_T1SSTAT.JABBER n) = b2n j := by
  have hne : (R.VEH_T1SSTAT.JABBER n).key ≠ (R.VEH_T1SSTAT.PLCA n).key := by
    simp only [Fld.key, R.VEH_T1SSTAT.JABBER, R.VEH_T1SSTAT.PLCA]
    omega
  have hframe : Dev.Writes (InBlocks hostEventBlocks) ((d.wrB (R.VEH_T1SSTAT.PLCA n) ok).wrB (R.VEH_T1SSTAT.JABBER n) j)
      (d.plcaChange n ok j) := by
    have hset := Dev.Writes.refl (InBlocks hostEventBlocks) ((d.wrB (R.VEH_T1SSTAT.PLCA n) ok).wrB (R.VEH_T1SSTAT.JABBER n) j)
    have hplca : Dev.Writes (InBlocks hostEventBlocks) _ (if d.on (R.VEH_T1SSTAT.PLCA n) = ok then _ else _) :=
      .ite hset (hset.raiseH (fun _ _ => id) 102 0 [n, b2n ok])
    exact .ite (hplca.raiseH (fun _ _ => id) 102 1 [n]) hplca
  exact ⟨(hframe.rd_of_block (by simp [hostEventBlocks])).trans ((Dev.rd_wr_ne _ _ _ _ hne).trans (Dev.rd_wrB d ok rfl)),
    (hframe.rd_of_block (by simp [hostEventBlocks])).trans (Dev.rd_wrB _ j rfl)⟩

/-- A PLCA status that changed is reported; a jabber reported besides leaves that event pending. -/
theorem Dev.plcaChange_pends {ok : Bool} (j : Bool) (h : d.on (R.VEH_T1SSTAT.PLCA n) ≠ ok) : (d.plcaChange n ok j).Pends 102 := by
  unfold Dev.plcaChange
  simp only [h, if_false]
  split
  · exact Dev.raiseH_pends _ _ _ _
  · exact Dev.raiseH_pends _ _ _ _

end

/-! ## The control pilot (R311, R312) -/

section
variable {d e : Dev} {fs : List Fld} {n : Nat}

theorem Dev.Writes.pilotQuench (h : Dev.Writes (FieldsOrHostEvent fs) d e) : Dev.Writes (FieldsOrHostEvent fs) d (e.pilotQuench n) :=
  Dev.Writes.event (e := e.sendH 0 _) h 103 0 _

theorem Dev.Writes.pilotTake (h : Dev.Writes (FieldsOrHostEvent fs) d e) (hfs : R.VEH_CPSTAT.STATE n ∈ fs) (st : Nat) :
    Dev.Writes (FieldsOrHostEvent fs) d (e.pilotTake n st) := by
  unfold Dev.pilotTake
  dsimp only
  split
  · exact h
  · split
    · exact ((h.field hfs).event _ _ _).pilotQuench
    · exact (h.field hfs).event _ _ _

theorem Dev.Writes.pilotDiode (h : Dev.Writes (FieldsOrHostEvent fs) d e) (hfs : R.VEH_CPSTAT.DIODE n ∈ fs) (low : Option Int) :
    Dev.Writes (FieldsOrHostEvent fs) d (e.pilotDiode n low) := by
  have hset : Dev.Writes (FieldsOrHostEvent fs) d (e.wr (R.VEH_CPSTAT.DIODE n) 1) := h.field hfs
  exact .ite (.ite (.pilotQuench hset) hset) h

end

/-- A pilot state that is taken shows, or showed already. -/
theorem Dev.pilotTake_state (d : Dev) (n : Nat) {st : Nat} (hst : st < 8) : (d.pilotTake n st).rd (R.VEH_CPSTAT.STATE n) = st := by
  have hset : (d.wr (R.VEH_CPSTAT.STATE n) st).rd (R.VEH_CPSTAT.STATE n) = st := (d.rd_wr _ _).trans (Nat.mod_eq_of_lt hst)
  have hevent : Dev.Writes (FieldsOrHostEvent []) (d.wr (R.VEH_CPSTAT.STATE n) st)
      ((d.wr (R.VEH_CPSTAT.STATE n) st).raiseH 100 0 [n, d.rd (R.VEH_CPSTAT.STATE n), st]) := (Dev.Writes.refl _ _).event _ _ _
  unfold Dev.pilotTake
  dsimp only
  split
  · assumption
  · exact ((Dev.Writes.ite hevent.pilotQuench hevent).rd_of_fields (by simp [hostEventBlocks]) (by simp)).trans hset

theorem pilotState_lt (v : Option Int) : pilotState v < 8 := by
  unfold pilotState
  split
  · decide
  · repeat' split
    all_goals decide

theorem plateau_lt (v : Option Int) : plateau v < 2 ^ 16 := by
  cases v with
  | none => exact (by decide : 0x8000 < 2 ^ 16)
  | some x => exact unsigned_lt _ 16

/-- The measurements of a period as the registers show them. -/
def Dev.pilotMeasured (d : Dev) (n : Nat) (high low : Option Int) (dutyM : Nat) : Dev :=
  d.wrAll [(R.VEH_CPMEAS.HIGH n, plateau high), (R.VEH_CPMEAS.LOW n, plateau low), (R.VEH_CPSTAT.DUTYM n, min dutyM 1000)]

/-- The periods in a row that gave this pilot state, this one with them (R311). -/
def Dev.pilotRun (d : Dev) (n st : Nat) : Nat := if (d.vehRt n).cand = st then (d.vehRt n).candRun + 1 else 1

/-- A period with no injection: the measurements, the candidate state, DIODE, and the state taken where it is the third. -/
theorem Dev.pilotPeriod_on {d : Dev} {n : Nat} (hen : d.on (R.VEH_CPCFG.EN n) = true) (hinj : d.injected 35 n = none)
    (high low : Option Int) (dutyM : Nat) : ∃ x : VehRt, (d.pilotPeriod n high low dutyM).regs =
      (if 3 ≤ d.pilotRun n (pilotState high) then
        (((d.pilotMeasured n high low dutyM).setVeh n x).pilotDiode n low).pilotTake n (pilotState high)
      else ((d.pilotMeasured n high low dutyM).setVeh n x).pilotDiode n low).regs := by
  refine ⟨{ d.vehRt n with cand := pilotState high, candRun := d.pilotRun n (pilotState high) }, ?_⟩
  have hnone : (d.pilotMeasured n high low dutyM).injected 35 n = none := hinj
  have huse : (d.pilotMeasured n high low dutyM).injUse 35 n = d.pilotMeasured n high low dutyM :=
    Dev.injUse_of_none (by rw [Dev.isInjected, hnone]; rfl)
  unfold Dev.pilotMeasured at hnone huse ⊢
  unfold Dev.pilotPeriod
  rw [if_pos hen]
  simp only [hnone, huse]
  rfl

section
variable (d : Dev) (n : Nat) (high low : Option Int) (dutyM : Nat)

theorem Dev.pilotMeasured_other {g : Fld} (hhigh : (R.VEH_CPMEAS.HIGH n).key ≠ g.key) (hlow : (R.VEH_CPMEAS.LOW n).key ≠ g.key)
    (hduty : (R.VEH_CPSTAT.DUTYM n).key ≠ g.key) : (d.pilotMeasured n high low dutyM).rd g = d.rd g :=
  Dev.rd_wrAll_other d (by simpa only [List.forall_mem_cons] using ⟨hhigh, hlow, hduty, fun _ h => absurd h List.not_mem_nil⟩)

theorem Dev.pilotMeasured_shown :
    (d.pilotMeasured n high low dutyM).rd (R.VEH_CPMEAS.HIGH n) = plateau high ∧
    (d.pilotMeasured n high low dutyM).rd (R.VEH_CPMEAS.LOW n) = plateau low ∧
    (d.pilotMeasured n high low dutyM).rd (R.VEH_CPSTAT.DUTYM n) = min dutyM 1000 := by
  have hduty : min dutyM 1000 < 2 ^ (R.VEH_CPSTAT.DUTYM n).width := Nat.lt_of_le_of_lt (Nat.min_le_right ..) (by simp [R.VEH_CPSTAT.DUTYM])
  refine ⟨(Dev.rd_wrAll_head d ?_).trans (Nat.mod_eq_of_lt (plateau_lt high)),
    (Dev.rd_wrAll_head (d.wr (R.VEH_CPMEAS.HIGH n) (plateau high)) ?_).trans (Nat.mod_eq_of_lt (plateau_lt low)),
    (Dev.rd_wr ..).trans (Nat.mod_eq_of_lt hduty)⟩
  · simp only [List.forall_mem_cons, Fld.key, R.VEH_CPMEAS.HIGH, R.VEH_CPMEAS.LOW, R.VEH_CPSTAT.DUTYM]
    exact ⟨by omega, by omega, fun _ h => absurd h List.not_mem_nil⟩
  · simp only [List.forall_mem_cons, Fld.key, R.VEH_CPMEAS.LOW, R.VEH_CPSTAT.DUTYM]
    exact ⟨by omega, fun _ h => absurd h List.not_mem_nil⟩

end

section
variable {d : Dev} {n : Nat} (hen : d.on (R.VEH_CPCFG.EN n) = true) (hinj : d.injected 35 n = none)
  (high low : Option Int) (dutyM : Nat)

include hen hinj

/-- After the measurements a period writes STATE and DIODE only, with their events. -/
theorem Dev.pilotPeriod_writes : Dev.Writes (FieldsOrHostEvent [R.VEH_CPSTAT.DIODE n, R.VEH_CPSTAT.STATE n])
    (d.pilotMeasured n high low dutyM) (d.pilotPeriod n high low dutyM) := by
  obtain ⟨x, hregs⟩ := Dev.pilotPeriod_on hen hinj high low dutyM
  have hdiode : Dev.Writes (FieldsOrHostEvent [R.VEH_CPSTAT.DIODE n, R.VEH_CPSTAT.STATE n]) (d.pilotMeasured n high low dutyM)
      (((d.pilotMeasured n high low dutyM).setVeh n x).pilotDiode n low) :=
    .pilotDiode (e := (d.pilotMeasured n high low dutyM).setVeh n x) (.refl _ _) (by simp) low
  exact (Dev.Writes.ite (hdiode.pilotTake (by simp) _) hdiode).of_regs hregs

theorem Dev.pilotPeriod_shown :
    (d.pilotPeriod n high low dutyM).rd (R.VEH_CPMEAS.HIGH n) = plateau high ∧
    (d.pilotPeriod n high low dutyM).rd (R.VEH_CPMEAS.LOW n) = plateau low ∧
    (d.pilotPeriod n high low dutyM).rd (R.VEH_CPSTAT.DUTYM n) = min dutyM 1000 := by
  have hkept : ∀ g : Fld, g.block = 0x2005 → (R.VEH_CPSTAT.DIODE n).key ≠ g.key → (R.VEH_CPSTAT.STATE n).key ≠ g.key →
      (d.pilotPeriod n high low dutyM).rd g = (d.pilotMeasured n high low dutyM).rd g := fun g hg hd hs =>
    (Dev.pilotPeriod_writes hen hinj high low dutyM).rd_of_fields (by simp [hostEventBlocks, hg]) (by simp [hd, hs])
  obtain ⟨hhigh, hlow, hduty⟩ := d.pilotMeasured_shown n high low dutyM
  refine ⟨(hkept _ (by simp) ?_ ?_).trans hhigh, (hkept _ (by simp) ?_ ?_).trans hlow, (hkept _ (by simp) ?_ ?_).trans hduty⟩
  all_goals
    simp only [Fld.key, R.VEH_CPSTAT.DIODE, R.VEH_CPSTAT.STATE, R.VEH_CPMEAS.HIGH, R.VEH_CPMEAS.LOW, R.VEH_CPSTAT.DUTYM]
    omega

/-- The third equal period in a row takes the state (R311). -/
theorem Dev.pilotPeriod_third (hcand : (d.vehRt n).cand = pilotState high) (hrun : 2 ≤ (d.vehRt n).candRun) :
    (d.pilotPeriod n high low dutyM).rd (R.VEH_CPSTAT.STATE n) = pilotState high := by
  obtain ⟨x, hregs⟩ := Dev.pilotPeriod_on hen hinj high low dutyM
  have h3 : 3 ≤ d.pilotRun n (pilotState high) := by
    rw [Dev.pilotRun, if_pos hcand]
    omega
  rw [if_pos h3] at hregs
  exact (congrArg (Regs.get · _) hregs).trans (Dev.pilotTake_state _ n (pilotState_lt high))

/-- A period that gives another state than the one before leaves STATE. -/
theorem Dev.pilotPeriod_first (hcand : (d.vehRt n).cand ≠ pilotState high) :
    (d.pilotPeriod n high low dutyM).rd (R.VEH_CPSTAT.STATE n) = d.rd (R.VEH_CPSTAT.STATE n) := by
  obtain ⟨x, hregs⟩ := Dev.pilotPeriod_on hen hinj high low dutyM
  have h1 : ¬ 3 ≤ d.pilotRun n (pilotState high) := by
    rw [Dev.pilotRun, if_neg hcand]
    decide
  have hdiode : Dev.Writes (FieldsOrHostEvent [R.VEH_CPSTAT.DIODE n]) (d.pilotMeasured n high low dutyM)
      (((d.pilotMeasured n high low dutyM).setVeh n x).pilotDiode n low) :=
    .pilotDiode (e := (d.pilotMeasured n high low dutyM).setVeh n x) (.refl _ _) (by simp) low
  rw [if_neg h1] at hregs
  refine ((hdiode.of_regs hregs).rd_of_fields (by simp [hostEventBlocks]) ?_).trans (d.pilotMeasured_other n high low dutyM ?_ ?_ ?_)
  · simp only [List.forall_mem_cons, Fld.key, R.VEH_CPSTAT.DIODE, R.VEH_CPSTAT.STATE]
    exact ⟨by omega, fun _ h => absurd h List.not_mem_nil⟩
  all_goals
    simp only [Fld.key, R.VEH_CPSTAT.STATE, R.VEH_CPMEAS.HIGH, R.VEH_CPMEAS.LOW, R.VEH_CPSTAT.DUTYM]
    omega

end

theorem Dev.pilotPeriod_off {d : Dev} {n : Nat} (hen : d.on (R.VEH_CPCFG.EN n) = false) (high low : Option Int) (dutyM : Nat) :
    d.pilotPeriod n high low dutyM = d.setVeh n { d.vehRt n with duty := d.rd (R.VEH_CPDUTY.DUTY n) } :=
  if_neg (by simp [hen])

/-! ## Proximity (R313) -/

/-- The reading shows whether or not the contact changed. -/
theorem Dev.proximity_res (d : Dev) (n res : Nat) :
    (d.proximity n res).rd (R.VEH_PP.RES n) = if 10000 < res then 0xFFFF else res := by
  have hlt : (if 10000 < res then 0xFFFF else res) < 2 ^ (R.VEH_PP.RES n).width := by
    change _ < 65536
    split <;> omega
  have hset : (d.wr (R.VEH_PP.RES n) (if 10000 < res then 0xFFFF else res)).rd (R.VEH_PP.RES n) = if 10000 < res then 0xFFFF else res :=
    (d.rd_wr _ _).trans (Nat.mod_eq_of_lt hlt)
  have hframe : Dev.Writes (InBlocks hostEventBlocks) (d.wr (R.VEH_PP.RES n) (if 10000 < res then 0xFFFF else res)) (d.proximity n res) :=
    have hrefl := Dev.Writes.refl (InBlocks hostEventBlocks) (d.wr (R.VEH_PP.RES n) (if 10000 < res then 0xFFFF else res))
    .ite (Dev.Writes.raiseH (e := Dev.setVeh _ n _) hrefl (fun _ _ => id) 101 0 _) hrefl
  exact (hframe.rd_of_block (by simp [hostEventBlocks])).trans hset

/-! ## The obligation -/

theorem answers_flowWindow {s : State} {n : Fin 4} (hon : s.dev.domOn .f2 = true) (c : Nat) {P : Dev → Prop}
    (hP : P ((s.dev.advanceTo ((s.dev.tm.q + 39999999) / 40000000 * 40000000)).flowWindow n c)) : Answers (.flowWindow n c) s P :=
  answers_of_onF2 (exec_flowWindow n s c) hon hP

/-- Settles O41: each command's law, with the domain on. -/
theorem coolingAndVehiclePorts : Obligations.CoolingAndVehiclePorts := by
  intro s n
  refine ⟨fun hon => ⟨fun c hk => answers_flowWindow hon c ⟨?_, ?_⟩, fun c hk hpump => answers_flowWindow hon c ⟨?_, ?_⟩,
    fun hduty hstall => answers_of_onF2 (exec_fanStall n s) hon ?_, fun hduty => answers_of_onF2 (exec_fanStall n s) hon ?_,
    fun a ha hlate hn => answers_of_onF2 (exec_tachEdge n s) hon ?_, fun ha hn => answers_of_onF2 (exec_tachEdge n s) hon ?_⟩, fun hon =>
    ⟨fun f k hst => answers_of_onH3 (exec_t1sFrame n s f false k) hon ?_, fun f k hst => answers_of_onH3 (exec_t1sFrame n s f true k) hon ?_,
    fun f ok k hst => answers_of_onH3 (exec_t1sFrame n s f ok k) hon ?_,
    fun ok j => answers_of_onH3 (exec_plcaStatusChange n s ok j) hon ?_,
    fun hi lo m hen hinj => answers_of_onH3 (exec_controlPilotPeriod n s hi lo m) hon ?_,
    fun hi lo m hen => answers_of_onH3 (exec_controlPilotPeriod n s hi lo m) hon ?_,
    fun r => answers_of_onH3 (exec_proximityReading n s r) hon (s.dev.proximity_res n r)⟩⟩
  · exact (Dev.flowWindow_flow _ n c).trans (congrArg (min · 65535) (if_neg hk))
  · exact Dev.flowWindow_regsBut (s.dev.advanceTo _) n c
  · refine (Dev.flowWindow_flow _ n c).trans ?_
    rw [Dev.advanceTo_rd, if_pos hk]
    rfl
  · exact Dev.flowWindow_clear _ n c hpump hk
  · rw [Dev.fanStall_set _ _ hduty hstall]
    exact ⟨(Dev.raise_rd ..).trans (Dev.rd_wr ..), ((Dev.RegsBut.refl _ _).wr (by simp)).raise _ _ _⟩
  · exact Dev.fanStall_slow _ _ hduty
  · exact ⟨Dev.tachEdge_rpm _ _ ha hlate, Dev.tachEdge_stall _ _, Dev.tachEdge_tachAt _ _ hn⟩
  · exact ⟨Dev.tachEdge_stall _ _, Dev.tachEdge_rpm_first _ _ ha, Dev.tachEdge_tachAt _ _ hn⟩
  · rw [Dev.t1sFrame_bad hst]
    exact Dev.t1sCount_shown _ _ k
  · exact Dev.t1sFrame_good hst f k
  · exact Dev.t1sFrame_off hst f ok k
  · obtain ⟨hplca, hjabber⟩ := Dev.plcaChange_shown s.dev n ok j
    exact ⟨hplca, hjabber, Dev.plcaChange_pends s.dev n j⟩
  · obtain ⟨hhigh, hlow, hduty⟩ := Dev.pilotPeriod_shown hen hinj hi lo m
    exact ⟨hhigh, hlow, hduty, fun _ => Dev.pilotPeriod_third hen hinj hi lo m, Dev.pilotPeriod_first hen hinj hi lo m⟩
  · rw [Dev.pilotPeriod_off hen]
    exact ⟨rfl, (Dev.setVeh_reach _ _ _).onlyIn⟩

end Sys2Proof.Machine
end

section
/-! Die temperature (R386 to R388): the threshold and hysteresis registers, and what a reading update makes of them. -/

namespace Sys2Proof.Machine

/-- The domain that holds a die's temperature supervisor. -/
def thermDom : Side → Dom
  | .field => .f1
  | .host => .h1

theorem exec_thresholdWrite (side : Side) (hyst : Bool) (x : Nat) (s : State) : exec (.thresholdWrite side hyst x) s = done s (fun d =>
    if d.domOn (thermDom side) then d.thresholdWrite side hyst x else d) := by cases side <;> rfl

theorem exec_thermalReading (side : Side) (conv : List (List Int)) (failed : List Bool) (s : State) :
    exec (.thermalReading side conv failed) s = done s (fun d =>
      if d.domOn (thermDom side) then d.thermUpdate side conv failed else d) := by cases side <;> rfl

/-! ## Threshold and hysteresis writes (R388) -/

theorem bits_byte_lt (v hi lo : Nat) (h : hi - lo + 1 = 8) : bits v hi lo < 2 ^ 8 := by
  rw [bits, h]
  exact Nat.mod_lt _ (by decide)

section
variable {d : Dev} {side : Side} {x : Nat}

/-- The four fields of an accepted write, the error flag last. -/
def Dev.orderWritten (d : Dev) (a b c e : Fld) (x : Nat) : Dev :=
  d.wrAll [(a, bits x 23 16), (b, bits x 15 8), (c, bits x 7 0), (e, 0)]

theorem Dev.thresholdWrite_accepted (hc : bits x 7 0 < bits x 15 8) (hb : bits x 15 8 < bits x 23 16) (ha : bits x 23 16 ≤ 125) :
    d.thresholdWrite side false x =
      d.orderWritten (thermRegs side).shutdown (thermRegs side).throttle (thermRegs side).warn (thermRegs side).orderr x :=
  if_pos ⟨hc, hb, ha⟩

theorem Dev.thresholdWrite_refused (h : ¬ (bits x 7 0 < bits x 15 8 ∧ bits x 15 8 < bits x 23 16 ∧ bits x 23 16 ≤ 125)) :
    d.thresholdWrite side false x = d.wr (thermRegs side).orderr 1 := if_neg h

theorem Dev.hystWrite_accepted (h : ∀ y ∈ [bits x 23 16, bits x 15 8, bits x 7 0], 1 ≤ y ∧ y ≤ 20) :
    d.thresholdWrite side true x =
      d.orderWritten (thermRegs side).hshut (thermRegs side).hthr (thermRegs side).hwarn (thermRegs side).orderr x :=
  if_pos (List.all_eq_true.mpr fun y hy => by simpa using h y hy)

theorem Dev.hystWrite_refused (h : ¬ ∀ y ∈ [bits x 23 16, bits x 15 8, bits x 7 0], 1 ≤ y ∧ y ≤ 20) :
    d.thresholdWrite side true x = d.wr (thermRegs side).orderr 1 :=
  if_neg fun hall => h fun y hy => by simpa using List.all_eq_true.mp hall y hy

/-- Four fields of eight bits and one bit, all different, read back what an accepted write gave them. -/
theorem Dev.orderWritten_shown {a b c e : Fld} (hdiff : ([a, b, c, e].map Fld.key).Nodup) (ha : a.width = 8) (hb : b.width = 8)
    (hc : c.width = 8) : (d.orderWritten a b c e x).rd a = bits x 23 16 ∧ (d.orderWritten a b c e x).rd b = bits x 15 8 ∧
      (d.orderWritten a b c e x).rd c = bits x 7 0 ∧ (d.orderWritten a b c e x).rd e = 0 := by
  simp only [List.map_cons, List.map_nil, List.nodup_cons, List.mem_cons, List.not_mem_nil, or_false, not_or] at hdiff
  obtain ⟨⟨hab, hac, hae⟩, ⟨hbc, hbe⟩, hce, -⟩ := hdiff
  have hval : ∀ {f : Fld} {v : Nat}, f.width = 8 → v < 2 ^ 8 → v % 2 ^ f.width = v := fun hf hv => by rw [hf, Nat.mod_eq_of_lt hv]
  refine ⟨(Dev.rd_wrAll_head d ?_).trans (hval ha (bits_byte_lt x 23 16 rfl)),
    (Dev.rd_wrAll_head (d.wr a _) ?_).trans (hval hb (bits_byte_lt x 15 8 rfl)),
    (Dev.rd_wrAll_head ((d.wr a _).wr b _) ?_).trans (hval hc (bits_byte_lt x 7 0 rfl)), (Dev.rd_wr ..).trans (Nat.zero_mod _)⟩
  · simp [hab, hac, hae, eq_comm]
  · simp [hbc, hbe, eq_comm]
  · simp [hce, eq_comm]

theorem Dev.orderWritten_other {a b c e g : Fld} (h : ∀ f ∈ [a, b, c, e], f.key ≠ g.key) : (d.orderWritten a b c e x).rd g = d.rd g :=
  Dev.rd_wrAll_other d (by simpa using h)

end

/-- A refused write sets ORDERR and changes nothing else. -/
theorem Dev.orderRefused_shown (d : Dev) {f : Fld} (h : f.width = 1) :
    (d.wr f 1).rd f = 1 ∧ d.RegsBut [f] (d.wr f 1) ∧ d.OnlyIn Part.regs (d.wr f 1) :=
  ⟨d.rd_wr_one h, Dev.regsBut_wr rfl, (Reach.refl d).onlyIn.with_regs rfl⟩

/-! ## The reading update (R386, R387) -/

section
variable {d e : Dev} {side : Side} {i : Nat} {v : Int}

theorem wrap_sat_of_reading (hlo : -600 ≤ v) (hhi : v ≤ 1600) : wrap (sat (v + 0) 16) 16 = v := by
  have hsat : sat (v + 0) 16 = v := by
    rw [sat, if_neg (by omega), if_neg (by omega), Int.add_zero]
  rw [hsat]
  simp only [wrap]
  split <;> omega

/-- The side has no active injection. -/
def Dev.NoInj (d : Dev) : Side → Prop
  | .field => d.inj.field = []
  | .host => d.inj.host = []

theorem Dev.NoInj.therm (h : d.NoInj side) (i : Nat) : d.injected (thermPoint side) i = none := by
  cases side with
  | field => exact congrArg (List.find? _) h
  | host => exact congrArg (List.find? _) h

theorem Dev.setGood_rd (g : Nat) (f : Fld) : (d.setGood side i g).rd f = d.rd f := by cases side <;> rfl

theorem temp_ne_fault (side : Side) (i j : Nat) : ((thermRegs side).temp i).key ≠ ((thermRegs side).fault j).key := by
  cases side <;> simp only [thermRegs, Fld.key, R.FTHM_TEMP.T, R.FTHM_TEMP.FAULT, R.HTHM_TEMP.T, R.HTHM_TEMP.FAULT] <;> omega

theorem temp_ne_warn (side : Side) (i : Nat) : ((thermRegs side).temp i).key ≠ (thermRegs side).warn.key := by
  cases side <;> simp only [thermRegs, Fld.key, R.FTHM_TEMP.T, R.FTHM_THR.WARN, R.HTHM_TEMP.T, R.HTHM_THR.WARN] <;> omega

theorem temp_ne_temp {j : Nat} (hi : i < sensorsOf side) (hj : j < sensorsOf side) (h : i ≠ j) :
    ((thermRegs side).temp i).key ≠ ((thermRegs side).temp j).key := by
  cases side <;> simp only [sensorsOf, thermRegs, Fld.key, R.FTHM_TEMP.T, R.HTHM_TEMP.T] at hi hj ⊢ <;> omega

/-- One good conversion of a sensor that is not in FAULT: its reading, and nothing else that a register shows. -/
theorem Dev.sensorRead_good (hinj : d.NoInj side) (hfault : d.rd ((thermRegs side).fault i) = 0) (hlo : -600 ≤ v) (hhi : v ≤ 1600) :
    ∃ g, d.sensorRead side i [v] false = (d.wrS ((thermRegs side).temp i) (sat (v + 0) 16)).setGood side i g := by
  have hsum : sumInt [v] % ((max 1 [v].length : Nat) : Int) = 0 := Int.emod_one _
  have hmean : sumInt [v] / ((max 1 [v].length : Nat) : Int) + 0 = v := by simp [sumInt]
  have hbad : ([v].any convBad) = false := by simp [convBad, hlo, hhi]
  have hoff : ∀ g, ((d.wrS ((thermRegs side).temp i) (sat (v + 0) 16)).setGood side i g).on ((thermRegs side).fault i) = false := fun g => by
    rw [Dev.on, Dev.setGood_rd, Dev.wrS, Dev.rd_wr_ne _ _ _ _ (temp_ne_fault side i i), hfault]
    rfl
  refine ⟨(d.wrS ((thermRegs side).temp i) (sat (v + 0) 16)).thermGood side i + 1, ?_⟩
  unfold Dev.sensorRead
  simp only [hsum, hmean, if_true, hinj.therm, hbad, hoff]
  rfl

/-- The block after the readings of the first `n` sensors: their temperatures, no sensor in FAULT, WARN's level as it was. -/
structure Dev.SensorsRead (d : Dev) (side : Side) (v : Nat → Int) (n : Nat) (e : Dev) : Prop where
  noInj : e.NoInj side
  fault : ∀ i < sensorsOf side, e.rd ((thermRegs side).fault i) = 0
  warn : e.rd (thermRegs side).warn = d.rd (thermRegs side).warn
  temp : ∀ i < n, e.rdS ((thermRegs side).temp i) = v i

theorem Dev.SensorsRead.next {v : Nat → Int} {n : Nat} (h : d.SensorsRead side v n e) (hn : n < sensorsOf side) (hlo : -600 ≤ v n)
    (hhi : v n ≤ 1600) : d.SensorsRead side v (n + 1) (e.sensorRead side n [v n] false) := by
  obtain ⟨g, hg⟩ := Dev.sensorRead_good h.noInj (h.fault n hn) hlo hhi
  have hrd : ∀ f : Fld, ((thermRegs side).temp n).key ≠ f.key → (e.sensorRead side n [v n] false).rd f = e.rd f := fun f hf => by
    rw [hg, Dev.setGood_rd, Dev.wrS, Dev.rd_wr_ne _ _ _ _ hf]
  refine ⟨?_, fun i hi => (hrd _ (temp_ne_fault side n i)).trans (h.fault i hi), (hrd _ (temp_ne_warn side n)).trans h.warn, fun i hi => ?_⟩
  · rw [hg]
    cases side <;> exact h.noInj
  · by_cases hin : i = n
    · subst hin
      have hwidth : ((thermRegs side).temp i).width = 16 := by cases side <;> rfl
      rw [hg, Dev.rdS, Dev.setGood_rd, ← Dev.rdS, Dev.rdS_wrS, hwidth, wrap_sat_of_reading hlo hhi]
    · rw [Dev.rdS, hrd _ (temp_ne_temp hn (by omega) (Ne.symm hin))]
      exact h.temp i (by omega)

/-- The readings of all sensors, each with one good conversion. -/
theorem Dev.sensorsRead_all {v : Nat → Int} {conv : List (List Int)} (hinj : d.NoInj side)
    (hfault : ∀ i < sensorsOf side, d.rd ((thermRegs side).fault i) = 0)
    (hconv : ∀ i < sensorsOf side, conv.getD i [] = [v i] ∧ -600 ≤ v i ∧ v i ≤ 1600) :
    ∀ n ≤ sensorsOf side, d.SensorsRead side v n
      (d.forAll (List.range n) (fun d i => d.sensorRead side i (conv.getD i []) (([] : List Bool).getD i false)))
  | 0, _ => ⟨hinj, hfault, rfl, fun i hi => absurd hi (Nat.not_lt_zero i)⟩
  | n + 1, hn => by
    obtain ⟨hv, hlo, hhi⟩ := hconv n hn
    have hnext := (Dev.sensorsRead_all hinj hfault hconv n (Nat.le_of_succ_le hn)).next hn hlo hhi
    rw [← hv] at hnext
    rw [List.range_succ, Dev.forAll, List.foldl_append]
    exact hnext

/-! ### The hottest sensor -/

/-- One sensor more in the search for the hottest. -/
def hotter (t : Nat → Int) (best : Option (Nat × Int)) (i : Nat) : Option (Nat × Int) :=
  match best with
  | some (j, x) => if x < t i then some (i, t i) else some (j, x)
  | none => some (i, t i)

theorem hotter_foldl_ge (t : Nat → Int) (xs : List Nat) (j : Nat) (x : Int) :
    ∃ k y, xs.foldl (hotter t) (some (j, x)) = some (k, y) ∧ x ≤ y ∧ ∀ i ∈ xs, t i ≤ y := by
  induction xs generalizing j x with
  | nil => exact ⟨j, x, rfl, le_refl x, fun i hi => absurd hi List.not_mem_nil⟩
  | cons a xs ih =>
    by_cases ha : x < t a
    · obtain ⟨k, y, hy, hle, hall⟩ := ih a (t a)
      refine ⟨k, y, ?_, by omega, List.forall_mem_cons.mpr ⟨hle, hall⟩⟩
      rw [List.foldl_cons, hotter, if_pos ha, hy]
    · obtain ⟨k, y, hy, hle, hall⟩ := ih j x
      refine ⟨k, y, ?_, hle, List.forall_mem_cons.mpr ⟨by omega, hall⟩⟩
      rw [List.foldl_cons, hotter, if_neg ha, hy]

/-- With no sensor in FAULT the hottest reading is no less than any sensor's. -/
theorem Dev.hottest_ge (hfault : ∀ i < sensorsOf side, d.rd ((thermRegs side).fault i) = 0) {i : Nat} (hi : i < sensorsOf side) :
    ∃ k y, d.hottest side = some (k, y) ∧ d.rdS ((thermRegs side).temp i) ≤ y := by
  have hlive : (List.range (sensorsOf side)).filter (fun i => !d.on ((thermRegs side).fault i)) = List.range (sensorsOf side) :=
    List.filter_eq_self.mpr fun j hj => by simp [Dev.on, hfault j (List.mem_range.mp hj)]
  have hhot : d.hottest side = (List.range (sensorsOf side)).foldl (hotter fun j => d.rdS ((thermRegs side).temp j)) none := by
    rw [← hlive]
    rfl
  obtain ⟨m, hm⟩ : ∃ m, sensorsOf side = m + 1 := ⟨sensorsOf side - 1, by cases side <;> rfl⟩
  rw [hm, List.range_succ_eq_map, List.foldl_cons] at hhot
  obtain ⟨k, y, hy, hle, hall⟩ := hotter_foldl_ge (fun j => d.rdS ((thermRegs side).temp j)) ((List.range m).map Nat.succ) 0
    (d.rdS ((thermRegs side).temp 0))
  refine ⟨k, y, hhot.trans hy, ?_⟩
  cases i with
  | zero => exact hle
  | succ i => exact hall (i + 1) (List.mem_map_of_mem (List.mem_range.mpr (by omega)))

end

/-! ### The update after the readings -/

/-- SENSFLT, and HOT and PEAK from the hottest sensor. -/
def Dev.thermShown (d : Dev) (side : Side) (held : Bool) (h : Option (Nat × Int)) : Dev :=
  match h with
  | some (i, v) =>
    if ((d.wrB (thermRegs side).sensflt held).wr (thermRegs side).hot i).rd (thermRegs side).peak = 0x8000 ∨
        ((d.wrB (thermRegs side).sensflt held).wr (thermRegs side).hot i).rdS (thermRegs side).peak < v then
      ((((d.wrB (thermRegs side).sensflt held).wr (thermRegs side).hot i).wrS (thermRegs side).peak v).wr (thermRegs side).peakSensor i)
    else (d.wrB (thermRegs side).sensflt held).wr (thermRegs side).hot i
  | none => d.wrB (thermRegs side).sensflt held

/-- A condition's field made to show `w`, with its event where it changed. -/
def Dev.thermCond (d : Dev) (side : Side) (f : Fld) (kindF nH : Nat) (w : Bool) : Dev :=
  if w = d.on f then d else (d.wrB f w).thermEvent side kindF nH w

/-- Sensors of a die in FAULT. -/
def Dev.faulty (d : Dev) (side : Side) : Nat := ((List.range (sensorsOf side)).filter (fun i => d.on ((thermRegs side).fault i))).length

/-- The update once the sensors are read: what it shows, the two conditions, and the shutdown check. -/
def Dev.thermConclude (d : Dev) (side : Side) : Dev :=
  let r := thermRegs side
  let t := (d.hottest side).map (·.2)
  let held := decide (faultLimit side ≤ d.faulty side)
  let shown := d.thermShown side held (d.hottest side)
  let warned := shown.thermCond side r.warnOn 0 116 (condition held (shown.on r.warnOn) t (shown.rd r.warn) (shown.rd r.hwarn))
  (warned.thermCond side r.thrOn 2 117 (condition held (warned.on r.thrOn) t (warned.rd r.throttle) (warned.rd r.hthr))).shutCheck side

theorem Dev.thermUpdate_eq (d : Dev) (side : Side) (conv : List (List Int)) (failed : List Bool) : d.thermUpdate side conv failed =
    (d.forAll (List.range (sensorsOf side)) (fun d i => d.sensorRead side i (conv.getD i []) (failed.getD i false))).thermConclude side := by
  unfold Dev.thermUpdate Dev.thermConclude Dev.thermShown
  rfl

/-- Writes to fields other than `g`. -/
def Off (g f : Fld) (_ : Nat) : Prop := f.key ≠ g.key

section
variable {W : Fld → Nat → Prop} {d e : Dev} {side : Side} {g : Fld}

theorem Dev.Writes.rd_of_off (h : Dev.Writes (Off g) d e) : e.rd g = d.rd g := h.rd_eq fun _ _ => id

theorem Dev.Writes.off {f : Fld} {v : Nat} (h : Dev.Writes (Off g) d e) (hf : f.key ≠ g.key) : Dev.Writes (Off g) d (e.wr f v) := h.wr hf

theorem Dev.Writes.off_event (h : Dev.Writes (Off g) d e) (hg : g.block ∉ hostEventBlocks) (n kind : Nat) (data : List Nat) :
    Dev.Writes (Off g) d (e.raiseH n kind data) :=
  h.raiseH (fun _ _ hf => Fld.key_ne_of_block fun hb => hg (hb ▸ hf)) n kind data

theorem Dev.Writes.thermShown (h : Dev.Writes (Off g) d e) (hflt : (thermRegs side).sensflt.key ≠ g.key)
    (hhot : (thermRegs side).hot.key ≠ g.key) (hpeak : (thermRegs side).peak.key ≠ g.key)
    (hsens : (thermRegs side).peakSensor.key ≠ g.key) (held : Bool) (t : Option (Nat × Int)) :
    Dev.Writes (Off g) d (e.thermShown side held t) := by
  cases t with
  | none => exact h.wr hflt
  | some p => exact .ite ((((h.wr hflt).wr hhot).wr hpeak).wr hsens) ((h.wr hflt).wr hhot)

theorem Dev.Writes.thermEvent (h : Dev.Writes (Off g) d e) (hg : g.block ∉ hostEventBlocks) (kindF nH : Nat) (w : Bool) :
    Dev.Writes (Off g) d (e.thermEvent side kindF nH w) := by
  cases side with
  | field => exact h.raise _ _ _
  | host => exact h.off_event hg _ _ _

theorem Dev.Writes.thermCond {f : Fld} (h : Dev.Writes (Off g) d e) (hf : f.key ≠ g.key) (hg : g.block ∉ hostEventBlocks)
    (kindF nH : Nat) (w : Bool) : Dev.Writes (Off g) d (e.thermCond side f kindF nH w) :=
  .ite h (.thermEvent (h.wr hf) hg _ _ _)

/-- A condition that holds shows 1. -/
theorem Dev.thermCond_true (d : Dev) {f : Fld} (hf : f.width = 1) (hblock : f.block ∉ hostEventBlocks) (kindF nH : Nat) :
    (d.thermCond side f kindF nH true).rd f = 1 := by
  unfold Dev.thermCond
  split
  case isTrue h => exact of_decide_eq_true h.symm
  case isFalse =>
    exact (Dev.Writes.thermEvent (.refl _ (d.wrB f true)) hblock kindF nH true).rd_of_off.trans (Dev.rd_wrB d true hf)

theorem condition_of_ge {held old : Bool} {x : Int} {level hyst : Nat} (h : 10 * (level : Int) ≤ x) :
    condition held old (some x) level hyst = true := by
  simp [condition, h]

end

/-! ### The shutdown check leaves WARN -/

theorem Dev.shutFieldStart_writes {d e : Dev} (h : Dev.Writes (Off R.FTHM_STAT.WARN) d e) (sensor : Nat) (t : Int) :
    Dev.Writes (Off R.FTHM_STAT.WARN) d (e.shutFieldStart sensor t) := by
  refine .raise ?_ _ _ _
  exact ((h.off (f := R.FTHM_STAT.SHUT) (v := 1) (by decide)).off (by decide)).off (by decide)

/-- The pilots of the vehicle ports are switched off in their own block. -/
theorem Dev.Writes.pilotOff {fs : List Fld} {d e : Dev} {n : Nat} (h : Dev.Writes (FieldsOrHostEvent fs) d e)
    (hfs : ∀ f ∈ [R.VEH_CPMEAS.HIGH n, R.VEH_CPMEAS.LOW n, R.VEH_CPSTAT.DUTYM n, R.VEH_CPSTAT.DIODE n, R.VEH_CPSTAT.STATE n], f ∈ fs) :
    Dev.Writes (FieldsOrHostEvent fs) d (e.pilotEnable n false) := by
  simp only [List.forall_mem_cons] at hfs
  obtain ⟨hhigh, hlow, hduty, hdiode, hstate, -⟩ := hfs
  exact ((((h.field hhigh).field hlow).field hduty).field hdiode).pilotTake hstate 7

theorem Dev.Writes.pilotsOff_warn {d e : Dev} (h : Dev.Writes (Off R.HTHM_STAT.WARN) d e) :
    Dev.Writes (Off R.HTHM_STAT.WARN) d (e.forAll [0, 1, 2, 3] (fun d n => d.pilotEnable n false)) := by
  refine h.forAll fun e n => (Dev.Writes.pilotOff (n := n) (.refl _ e) (fun _ => id)).mono fun f _ hf => ?_
  refine Fld.key_ne_of_block ?_
  have hwarn : R.HTHM_STAT.WARN.block = 0x2008 := by decide
  simp only [FieldsOrHostEvent, List.mem_cons, List.not_mem_nil, or_false, hostEventBlocks] at hf
  obtain (rfl | rfl | rfl | rfl | rfl) | hb := hf
  · simp [hwarn]
  · simp [hwarn]
  · simp [hwarn]
  · simp [hwarn]
  · simp [hwarn]
  · omega

/-- The host's shutdown resets H3, which does not hold the supervisor. -/
theorem Dev.shutHostStart_warn (d : Dev) (sensor : Nat) (t : Int) :
    (d.shutHostStart sensor t).rd R.HTHM_STAT.WARN = d.rd R.HTHM_STAT.WARN := by
  have hrec : ∀ (e : Dev) (v w : Nat), e.regs = d.regs → Dev.Writes (Off R.HTHM_STAT.WARN) d
      ((e.wrAll [(R.HTHM_STAT.SHUT, 1), (R.HTHM_SHUTREC.VALID, 1), (R.HTHM_SHUTREC.SENSOR, v)]).wr R.HTHM_SHUTREC.PEAK w) :=
    fun e v w he => (((((Dev.Writes.refl _ d).of_regs he).off (by decide)).off (by decide)).off (f := R.HTHM_SHUTREC.SENSOR)
      (by decide)).off (by decide)
  unfold Dev.shutHostStart
  dsimp only
  rw [Dev.rd_wr_ne _ _ _ _ (by decide), Dev.rd_wr_ne _ _ _ _ (by decide), Dev.rd_resetDomains, if_neg (by decide)]
  refine (Dev.Writes.pilotsOff_warn (.off_event ?_ (by decide) 118 0 [sensor])).rd_of_off
  exact hrec _ _ _ rfl

theorem Dev.shutCheck_warn (d : Dev) (side : Side) : (d.shutCheck side).rd (thermRegs side).warnOn = d.rd (thermRegs side).warnOn := by
  cases side with
  | field =>
    have hnow : ∀ b, Dev.Writes (Off R.FTHM_STAT.WARN) d (d.wrB R.FTHM_STAT.SHUTNOW b) := fun b => (Dev.Writes.refl _ d).off (by decide)
    refine Dev.Writes.rd_of_off (g := R.FTHM_STAT.WARN) ?_
    refine .ite (Dev.shutFieldStart_writes (hnow _) _ _) ?_
    split
    · exact .ite (hnow _) (hnow _)
    · exact hnow _
  | host =>
    have hnow : ∀ b, Dev.Writes (Off R.HTHM_STAT.WARN) d (d.wrB R.HTHM_STAT.SHUTNOW b) := fun b => (Dev.Writes.refl _ d).off (by decide)
    have hpeak : ∀ b v, Dev.Writes (Off R.HTHM_STAT.WARN) d ((d.wrB R.HTHM_STAT.SHUTNOW b).wrS R.HTHM_SHUTREC.PEAK v) := fun b v =>
      (hnow b).off (by decide)
    unfold Dev.shutCheck
    dsimp only [thermRegs]
    obtain hhot | ⟨p, hhot⟩ := Option.eq_none_or_eq_some (d.hottest .host)
    · simp only [hhot, Option.map_none]
      split
      · exact (Dev.shutHostStart_warn _ _ _).trans (hnow _).rd_of_off
      · exact (hnow _).rd_of_off
    · simp only [hhot, Option.map_some]
      split
      · exact (Dev.shutHostStart_warn _ _ _).trans (hnow _).rd_of_off
      · exact (Dev.Writes.ite (hpeak _ _) (hnow _)).rd_of_off

/-- A reading at WARN's level or above sets WARN, whatever else the update finds. -/
theorem Dev.thermConclude_warns {d : Dev} {side : Side} (hfault : ∀ i < sensorsOf side, d.rd ((thermRegs side).fault i) = 0)
    {i : Nat} (hi : i < sensorsOf side) (hat : 10 * (d.rd (thermRegs side).warn : Int) ≤ d.rdS ((thermRegs side).temp i)) :
    (d.thermConclude side).rd (thermRegs side).warnOn = 1 := by
  obtain ⟨k, y, hhot, hle⟩ := Dev.hottest_ge hfault hi
  have hshown : ∀ held h, (d.thermShown side held h).rd (thermRegs side).warn = d.rd (thermRegs side).warn := fun held h => by
    refine Dev.Writes.rd_of_off (.thermShown (.refl _ d) ?_ ?_ ?_ ?_ held h)
    all_goals cases side <;> decide
  have hcond : ∀ held old hyst h, condition held old (some y) ((d.thermShown side held h).rd (thermRegs side).warn) hyst = true :=
    fun held old hyst h => condition_of_ge (by rw [hshown]; omega)
  unfold Dev.thermConclude
  dsimp only
  rw [Dev.shutCheck_warn, hhot, Option.map_some, hcond]
  refine (Dev.Writes.rd_of_off (.thermCond (.refl _ _) ?_ ?_ _ _ _)).trans (Dev.thermCond_true _ ?_ ?_ _ _)
  all_goals cases side <;> decide

/-- One good conversion of every sensor, one of them at WARN's level, with no injection and no sensor in FAULT. -/
theorem Dev.thermUpdate_warns {d : Dev} {side : Side} {conv : List (List Int)} {v : Nat → Int} (hinj : d.NoInj side)
    (hfault : ∀ i < sensorsOf side, d.rd ((thermRegs side).fault i) = 0)
    (hconv : ∀ i < sensorsOf side, conv.getD i [] = [v i] ∧ -600 ≤ v i ∧ v i ≤ 1600)
    {i : Nat} (hi : i < sensorsOf side) (hat : 10 * (d.rd (thermRegs side).warn : Int) ≤ v i) :
    (d.thermUpdate side conv []).rd (thermRegs side).warnOn = 1 := by
  have hread := Dev.sensorsRead_all hinj hfault hconv _ (le_refl (sensorsOf side))
  rw [Dev.thermUpdate_eq]
  refine Dev.thermConclude_warns hread.fault hi ?_
  rwa [hread.warn, hread.temp i hi]

/-! ## The obligation, one side at a time -/

theorem Dev.domOn_thermDom_of_rd {d e : Dev} {side : Side} (hf : e.rd R.FSYS_PWRSTAT.ON = d.rd R.FSYS_PWRSTAT.ON)
    (hh : e.rd R.HSYS_PWRSTAT.ON = d.rd R.HSYS_PWRSTAT.ON) : e.domOn (thermDom side) = d.domOn (thermDom side) := by
  cases side with
  | field => simp only [thermDom, Dev.domOn, hf]
  | host => simp only [thermDom, Dev.domOn, hh]

section
variable {s : State} {side : Side} (hon : s.dev.domOn (thermDom side) = true) {x : Nat}

include hon

theorem answers_thresholdWrite_accepted (hc : bits x 7 0 < bits x 15 8) (hb : bits x 15 8 < bits x 23 16) (ha : bits x 23 16 ≤ 125) :
    Answers (.thresholdWrite side false x) s (fun t => t.rd (thermRegs side).shutdown = bits x 23 16 ∧
      t.rd (thermRegs side).throttle = bits x 15 8 ∧ t.rd (thermRegs side).warn = bits x 7 0 ∧ t.rd (thermRegs side).orderr = 0) := by
  refine answers_of_done (exec_thresholdWrite side false x s) ?_
  rw [if_pos hon, Dev.thresholdWrite_accepted hc hb ha]
  apply Dev.orderWritten_shown <;> cases side <;> decide

theorem answers_thresholdWrite_refused (h : ¬ (bits x 7 0 < bits x 15 8 ∧ bits x 15 8 < bits x 23 16 ∧ bits x 23 16 ≤ 125)) :
    Answers (.thresholdWrite side false x) s (fun t => t.rd (thermRegs side).orderr = 1 ∧ s.dev.RegsBut [(thermRegs side).orderr] t ∧
      s.dev.OnlyIn Part.regs t) := by
  refine answers_of_done (exec_thresholdWrite side false x s) ?_
  rw [if_pos hon, Dev.thresholdWrite_refused h]
  exact Dev.orderRefused_shown _ (by cases side <;> rfl)

theorem answers_hystWrite_accepted (h : ∀ y ∈ [bits x 23 16, bits x 15 8, bits x 7 0], 1 ≤ y ∧ y ≤ 20) :
    Answers (.thresholdWrite side true x) s (fun t => t.rd (thermRegs side).hshut = bits x 23 16 ∧
      t.rd (thermRegs side).hthr = bits x 15 8 ∧ t.rd (thermRegs side).hwarn = bits x 7 0 ∧ t.rd (thermRegs side).orderr = 0) := by
  refine answers_of_done (exec_thresholdWrite side true x s) ?_
  rw [if_pos hon, Dev.hystWrite_accepted h]
  apply Dev.orderWritten_shown <;> cases side <;> decide

theorem answers_hystWrite_refused (h : ¬ ∀ y ∈ [bits x 23 16, bits x 15 8, bits x 7 0], 1 ≤ y ∧ y ≤ 20) :
    Answers (.thresholdWrite side true x) s (fun t => t.rd (thermRegs side).orderr = 1 ∧ s.dev.RegsBut [(thermRegs side).orderr] t ∧
      s.dev.OnlyIn Part.regs t) := by
  refine answers_of_done (exec_thresholdWrite side true x s) ?_
  rw [if_pos hon, Dev.hystWrite_refused h]
  exact Dev.orderRefused_shown _ (by cases side <;> rfl)

/-- After an accepted write a reading at the level just stored sets WARN. -/
theorem answers_thermalReading_stored (hc : bits x 7 0 < bits x 15 8) (hb : bits x 15 8 < bits x 23 16) (ha : bits x 23 16 ≤ 125) :
    Answers (.thresholdWrite side false x) s (fun t => ∀ (conv : List (List Int)) (v : Nat → Int),
      (∀ i : Fin (sensorsOf side), conv.getD i [] = [v i] ∧ -600 ≤ v i ∧ v i ≤ 1600) → s.dev.NoInj side →
      (∀ i : Fin (sensorsOf side), s.dev.rd ((thermRegs side).fault i) = 0) →
      (∃ i : Fin (sensorsOf side), 10 * (bits x 7 0 : Int) ≤ v i) →
      Answers (.thermalReading side conv []) { s with dev := t } (fun u => u.rd (thermRegs side).warnOn = 1)) := by
  refine answers_of_done (exec_thresholdWrite side false x s) ?_
  rw [if_pos hon, Dev.thresholdWrite_accepted hc hb ha]
  intro conv v hconv hinj hfault ⟨i, hi⟩
  refine answers_of_done (exec_thermalReading side conv [] _) ?_
  have hdom : (s.dev.orderWritten (thermRegs side).shutdown (thermRegs side).throttle (thermRegs side).warn (thermRegs side).orderr x).domOn
      (thermDom side) = true :=
    (Dev.domOn_thermDom_of_rd (Dev.orderWritten_other (by cases side <;> decide)) (Dev.orderWritten_other (by cases side <;> decide))).trans hon
  rw [if_pos hdom]
  have hwarn : (s.dev.orderWritten (thermRegs side).shutdown (thermRegs side).throttle (thermRegs side).warn (thermRegs side).orderr x).rd
      (thermRegs side).warn = bits x 7 0 := by
    refine (Dev.orderWritten_shown ?_ ?_ ?_ ?_).2.2.1
    all_goals cases side <;> decide
  refine Dev.thermUpdate_warns (by cases side <;> exact hinj) (fun j hj => ?_) (fun j hj => hconv ⟨j, hj⟩) i.isLt ?_
  · refine (Dev.orderWritten_other ?_).trans (hfault ⟨j, hj⟩)
    simp only [List.forall_mem_cons]
    cases side <;> simp only [thermRegs, Fld.key, R.FTHM_TEMP.FAULT, R.FTHM_THR.SHUTDOWN, R.FTHM_THR.THROTTLE, R.FTHM_THR.WARN,
      R.FTHM_STAT.ORDERR, R.HTHM_TEMP.FAULT, R.HTHM_THR.SHUTDOWN, R.HTHM_THR.THROTTLE, R.HTHM_THR.WARN, R.HTHM_STAT.ORDERR]
    all_goals exact ⟨by omega, by omega, by omega, by omega, fun _ h => absurd h List.not_mem_nil⟩
  · rwa [hwarn]

end

/-- Settles O52: the writes of each side, and the reading that follows an accepted one. -/
theorem thresholdsKeepTheirOrder : Obligations.ThresholdsKeepTheirOrder := by
  intro s
  refine ⟨fun x hon => answers_thresholdWrite_accepted (side := .field) hon, fun x hon => answers_thresholdWrite_refused (side := .field) hon,
    fun x hon => answers_hystWrite_accepted (side := .field) hon, fun x hon => answers_hystWrite_refused (side := .field) hon,
    fun x hon hc hb ha => ?_, fun x hon => answers_thresholdWrite_accepted (side := .host) hon,
    fun x hon => answers_thresholdWrite_refused (side := .host) hon, fun x hon => answers_hystWrite_accepted (side := .host) hon,
    fun x hon => answers_hystWrite_refused (side := .host) hon, fun x hon hc hb ha => ?_⟩
  · obtain ⟨t, ht, hpend, hall⟩ := answers_thermalReading_stored (side := .field) hon hc hb ha
    exact ⟨t, ht, hpend, fun conv v _ => hall conv v⟩
  · obtain ⟨t, ht, hpend, hall⟩ := answers_thermalReading_stored (side := .host) hon hc hb ha
    exact ⟨t, ht, hpend, fun conv v _ => hall conv v⟩

end Sys2Proof.Machine
end

section
/-! Waveform capture (R405 to R407): arming, the trigger by hand, stopping, and the requests of a transfer. -/

namespace Sys2Proof.Machine

section
variable (s : State)

theorem exec_captureArm : exec .captureArm s = done s (fun d => if d.domOn .f2 then d.capArm else d) := rfl

theorem exec_captureTrigger : exec .captureTrigger s = done s (fun d => if d.domOn .f2 then d.capTrigger 6 else d) := rfl

theorem exec_captureStop : exec .captureStop s = done s (fun d => if d.domOn .f2 then d.capStop else d) := rfl

theorem exec_capReqBegin (x len : Nat) : exec (.capReqBegin x len) s = done s (·.capBegin x len) := rfl

theorem exec_capReqEnd (x : Nat) : exec (.capReqEnd x) s =
    done s (fun d => if d.cap.live = some x then d.capEnd else d.takeCell .field 0x68) := rfl

end

/-! ## The capture's states (R405, R406) -/

section
variable (d : Dev)

theorem Dev.capArm_idle (h0 : d.capState ≠ 0) (h3 : d.capState ≠ 3) : d.capArm = d := if_neg fun h => h.elim h0 h3

/-- ARM from OFF or FROZEN: ARMED, with no cause, no frame written and no trigger taken. -/
theorem Dev.capArm_armed (h : d.capState = 0 ∨ d.capState = 3) :
    d.capArm.capState = 1 ∧ d.capArm.rd R.TLM_CAPSTAT.CAUSE = 0 ∧ d.capArm.rd R.TLM_CAPWR.FRAMES = 0 ∧ d.capArm.cap.trig = none ∧
    d.capArm.fmem = d.fmem ∧ d.RegsBut [R.TLM_CAPSTAT.STATE, R.TLM_CAPSTAT.CAUSE, R.TLM_CAPWR.FRAMES] d.capArm := by
  rw [Dev.capArm, if_pos h]
  refine ⟨(Dev.rd_wr_ne _ _ _ _ (by decide)).trans ((Dev.rd_wr_ne _ _ _ _ (by decide)).trans (Dev.rd_wr ..)),
    (Dev.rd_wr_ne _ _ _ _ (by decide)).trans (Dev.rd_wr ..), Dev.rd_wr .., rfl, rfl, ?_⟩
  exact (((Dev.RegsBut.of_eq _ rfl).wr (by simp)).wr (by simp)).wr (by simp)

theorem Dev.capTrigger_taken {cause : Nat} (h : d.capState = 1) (hnone : d.cap.trig = none) :
    d.capTrigger cause = ({ d with cap := { d.cap with trig := some cause } }).raise 28 0 [cause] := if_pos ⟨h, hnone⟩

theorem Dev.capTrigger_idle {cause : Nat} (h : d.capState ≠ 1) : d.capTrigger cause = d := if_neg fun h' => h h'.1

end

/-! ## The requests of a transfer (R407) -/

/-- An event waits in queue 2 and leaves the other queues of its direction. -/
theorem Dev.raise_queue (d : Dev) (n kind : Nat) (data : List Nat) {q : Nat} (hq : q ≠ 2) :
    (d.raise n kind data).fl.f2h.queue.getD q [] = d.fl.f2h.queue.getD q [] := by
  have hset : ∀ (xs : List (List Msg)) (x : List Msg), (setAt xs 2 x).getD q [] = xs.getD q [] := fun xs x => by
    simp only [List.getD_eq_getElem?_getD, setAt, List.getElem?_set_ne hq.symm]
  unfold Dev.raise
  dsimp only
  split <;> split <;> exact hset _ _

/-- The transfer `x` is not that of the bulk message. -/
def notOfXfer (x : Nat) (m : Msg) : Bool := !(decide (leAt m.payload 0 2 = x))

/-- The block without what waits of a transfer in the capture's queue. -/
def Dev.capDropped (d : Dev) (x : Nat) : Dev :=
  { d with fl := { d.fl with f2h := { d.fl.f2h with queue := setAt d.fl.f2h.queue 4 ((d.fl.f2h.queue.getD 4 []).filter (notOfXfer x)) } } }

theorem exec_capReqAbort (x : Nat) (s : State) : exec (.capReqAbort x) s = done s (fun d => (d.capDropped x).capEnd) := rfl

section
variable (d : Dev)

theorem Dev.capDropped_queue (x : Nat) :
    (d.capDropped x).fl.f2h.queue.getD 4 [] = (d.fl.f2h.queue.getD 4 []).filter (notOfXfer x) := by
  by_cases h : 4 < d.fl.f2h.queue.length
  · exact getD_setAt_self _ _ h
  · have hnone : d.fl.f2h.queue.getD 4 [] = [] := List.getD_eq_default _ _ (Nat.le_of_not_lt h)
    rw [hnone, Dev.capDropped, setAt, List.set_eq_of_length_le (Nat.le_of_not_lt h)]
    exact hnone

/-- The end of a stream: none is live, the registers stay, and so does what waits in the capture's queue. -/
theorem Dev.capEnd_shown : d.capEnd.cap.live = none ∧ d.capEnd.regs = d.regs ∧
    d.capEnd.fl.f2h.queue.getD 4 [] = d.fl.f2h.queue.getD 4 [] := by
  have hqueue : (d.takeCell .field 0x68).fl.f2h = d.fl.f2h := by
    obtain ⟨fd, -, hfl⟩ := d.takeCell_field_fl 0x68
    rw [hfl]
  refine ⟨?_, ?_, ?_⟩
  · rw [Dev.capEnd, Dev.raise_cap]
  · rw [Dev.capEnd, Dev.raise_regs]
    exact d.takeCell_regs .field 0x68
  · rw [Dev.capEnd, Dev.raise_queue _ _ _ _ (by decide)]
    exact congrArg (fun f => f.queue.getD 4 []) hqueue

theorem Dev.capBegin_live (x : Nat) : (d.capBegin x 0).cap.live = some x ∧ (d.capBegin x 0).cap.liveFrame = d.rd R.TLM_CAPWR.FRAMES ∧
    (d.capBegin x 0).cap.liveBytes = 0 ∧ (d.capBegin x 0).regs = d.regs :=
  ⟨rfl, d.takeCell_rd .field 0x68 _, rfl, d.takeCell_regs .field 0x68⟩

theorem Dev.takeCell_capState : (d.takeCell .field 0x68).capState = d.capState := d.takeCell_rd .field 0x68 _

/-- What the frozen ring holds is read from registers and field memory, which taking the request's cell leaves. -/
theorem Dev.takeCell_capFrozen : (d.takeCell .field 0x68).capFrozen = d.capFrozen := by
  simp only [Dev.capFrozen, Dev.capRead, Dev.capDepth, Dev.capFrameLen, Dev.takeCell_rd, Dev.takeCell_fmem]

theorem Dev.capBegin_frozen (x : Nat) {len : Nat} (hlen : len ≠ 0) (h : d.capState = 3) :
    d.capBegin x len = (d.takeCell .field 0x68).sendBulkAt 4 0x69 x 0 (d.capFrozen.take len) := by
  rw [Dev.capBegin, if_neg hlen, Dev.takeCell_capState, if_pos h, Dev.takeCell_capFrozen]

theorem Dev.capBegin_empty (x : Nat) {len : Nat} (hlen : len ≠ 0) (h : d.capState ≠ 3) :
    d.capBegin x len = (d.takeCell .field 0x68).sendBulkAt 4 0x69 x 0xFFFFFFFF [0x01] := by
  rw [Dev.capBegin, if_neg hlen, Dev.takeCell_capState, if_neg h]

end

/-- Settles O42: the commands of TLM_CAPCTL with F2 on, then the three requests of a transfer. -/
theorem waveformCapture : Obligations.WaveformCapture := by
  intro s
  refine ⟨fun hon => ⟨fun h => answers_of_onF2 (exec_captureArm s) hon (s.dev.capArm_armed h),
      fun h0 h3 => answers_of_onF2 (exec_captureArm s) hon (s.dev.capArm_idle h0 h3),
      fun h hnone => answers_of_onF2 (exec_captureTrigger s) hon ?_,
      fun h => answers_of_onF2 (exec_captureTrigger s) hon (s.dev.capTrigger_idle h),
      answers_of_onF2 (exec_captureStop s) hon ⟨Dev.rd_wr .., rfl, rfl, Dev.regsBut_wr rfl⟩⟩,
    fun x => answers_of_done (exec_capReqBegin s x 0) (s.dev.capBegin_live x),
    fun x len hlen h => answers_of_done (exec_capReqBegin s x len) (s.dev.capBegin_frozen x hlen h),
    fun x len hlen h => answers_of_done (exec_capReqBegin s x len) (s.dev.capBegin_empty x hlen h),
    fun x h => answers_of_done (exec_capReqEnd s x) ?_, fun x h => answers_of_done (exec_capReqEnd s x) (if_neg h),
    fun x => answers_of_done (exec_capReqAbort x s) ?_⟩
  · rw [Dev.capTrigger_taken _ h hnone, Dev.raise_cap, Dev.raise_regs, Dev.raise_fmem]
    exact ⟨rfl, rfl, rfl⟩
  · obtain ⟨hlive, hregs, -⟩ := s.dev.capEnd_shown
    rw [if_pos h]
    exact ⟨hlive, hregs, s.dev.capEnd_reach.onlyIn⟩
  · obtain ⟨hlive, hregs, hqueue⟩ := (s.dev.capDropped x).capEnd_shown
    exact ⟨hlive, hregs, hqueue.trans (s.dev.capDropped_queue x)⟩

end Sys2Proof.Machine
end

section
/-! The host's event router (R346), TAIL writes and the coalescing time of its rings (R342, R345), the confirmation of an image
(R341), GPIO and the peripherals (R347). -/

namespace Sys2Proof.Machine

section
variable (s : State)

theorem exec_hevtClaimRead (c : Fin 4) : exec (.hevtClaimRead c) s = onH1 s (·.claimRead c) := rfl

theorem exec_hevtClaimWrite (n : Nat) : exec (.hevtClaimWrite n) s = onH1 s (·.claimWrite n) := rfl

theorem exec_hrngTailWrite (r : Fin 32) (idx : Nat) : exec (.hrngTailWrite r idx) s = onH1 s (·.ringTail r idx) := rfl

theorem exec_ringCoalTimeout (r : Fin 32) : exec (.ringCoalTimeout r) s = onH1 s (·.ringCoal r) := rfl

theorem exec_hsysImgok (v : Nat) : exec (.hsysImgok v) s = onH1 s (·.imgOk v) := rfl

theorem exec_gpioEdge (pin : Fin 32) (b : Bool) :
    exec (.gpioEdge pin b) s = done s (fun d => if d.domOn .h3 then d.gpioEdge pin b else d) := rfl

theorem exec_peripheralTransfer (i : Fin 9) (bs : List Byte) (err : Bool) :
    exec (.peripheralTransfer i bs err) s = done s (fun d => if d.domOn .h3 then d.hperTransfer i bs err else d) := rfl

end

/-! ## The event router (R346) -/

section
variable {d : Dev} {c n : Nat}

theorem Dev.claimRead_none (h : d.srcBest c = none) : d.claimRead c = { d with lastRead := 0xFF } := by
  simp only [Dev.claimRead, h]

theorem Dev.claimRead_some (h : d.srcBest c = some n) : (d.claimRead c).lastRead = n ∧ (d.claimRead c).srcPend n = false ∧
    (d.claimRead c).hp.service = d.hp.service ++ [n] ∧ d.RegsBut [R.HEVT_PEND.PEND (n / 32)] (d.claimRead c) := by
  have hbit : n % 32 < (R.HEVT_PEND.PEND (n / 32)).width := Nat.mod_lt n (by decide)
  simp only [Dev.claimRead, h]
  refine ⟨trivial, ?_, rfl, (Dev.RegsBut.refl _ d).wr (List.mem_singleton.mpr rfl)⟩
  refine (congrArg (testBit · (n % 32)) (Dev.rd_wr d (R.HEVT_PEND.PEND (n / 32)) _)).trans ?_
  rw [testBit_mod_two_pow hbit, testBit_clearBit_self]

theorem Dev.claimWrite_service : n ∉ (d.claimWrite n).hp.service := by simp [Dev.claimWrite]

end

/-! ## Rings (R342, R345) -/

section
variable (d : Dev) {r : Nat} (idx : Nat)

/-- The first eight rings serve the management ports, which fetch for themselves. -/
theorem Dev.ringServe_of_lt_eight (hr : r < 8) : d.ringServe r = d := by
  simp only [Dev.ringServe, show r ≠ 20 by omega, show r ≠ 21 by omega, show r ≠ 22 by omega, show r ≠ 23 by omega, show r ≠ 25 by omega,
    show r ≠ 26 by omega, show r ≠ 16 by omega, show r ≠ 17 by omega, show r ≠ 18 by omega, show r ≠ 19 by omega, show r ≠ 27 by omega,
    show r ≠ 24 by omega, show ¬ 8 ≤ r by omega, false_and, false_or, if_false]

/-- The block with the ring's stop ended and its new TAIL. -/
def Dev.tailed (d : Dev) (r idx : Nat) : Dev :=
  ({ d with rings := { d.rings with stopped := setAt d.rings.stopped r false } }).wr (R.HRNG_TAIL.IDX r) idx

theorem Dev.ringTail_eq : d.ringTail r idx = (d.tailed r idx).ringServe r := rfl

theorem Dev.tailed_shown : (d.tailed r idx).rings.stopped.getD r false = false ∧
    (d.tailed r idx).rd (R.HRNG_TAIL.IDX r) = idx % 2 ^ (R.HRNG_TAIL.IDX r).width ∧ d.RegsBut [R.HRNG_TAIL.IDX r] (d.tailed r idx) := by
  refine ⟨?_, Dev.rd_wr .., Dev.regsBut_wr rfl⟩
  by_cases hr : r < d.rings.stopped.length
  · exact getD_setAt_self _ _ hr
  · exact List.getD_eq_default _ _ (by simpa [Dev.tailed, setAt_length] using hr)

/-- Any other state of the rings may stand in the block when the mask names it. -/
theorem Dev.OnlyIn.with_rings {m : Nat} {d e : Dev} {x : Rings} (h : d.OnlyIn m e) (hm : Part.on m Part.rings = true) :
    d.OnlyIn m { e with rings := x } :=
  { h with rings := Part.kept_of_changed (.inr hm) h.rings }

theorem Dev.tailed_onlyIn : d.OnlyIn (Part.regs ||| Part.rings) (d.tailed r idx) :=
  ((Reach.refl d).onlyIn.with_rings rfl).with_regs rfl

theorem Dev.ringCoal_off (h : d.rd (R.HRNG_COAL.TIME r) = 0) : d.ringCoal r = d := if_pos h

/-- Collected completions of a ring with no descriptor in progress raise its event. -/
theorem Dev.ringCoal_collected (htime : d.rd (R.HRNG_COAL.TIME r) ≠ 0) (hfill : numAt d.rings.fill r = 0)
    (hcoll : numAt d.rings.collected r ≠ 0) :
    d.ringCoal r = ({ d with rings := { d.rings with collected := setAt d.rings.collected r 0 } }).ringEvent r := by
  simp only [Dev.ringCoal, htime, hfill, hcoll, if_false, lt_irrefl, false_and]

end

/-! ## The confirmation of an image (R341) -/

section
variable {d : Dev} {i v : Nat}

theorem Dev.imgOk_of_wrong_key (h : bits v 31 16 ≠ 0x600D) : d.imgOk v = d := by
  unfold Dev.imgOk
  split
  · exact if_neg fun h' => h h'.1
  · rfl

/-- The block with slot `i` GOOD, its generation above the other slot's. -/
def Dev.imgGood (d : Dev) (i : Nat) : Dev := d.setSlot i { d.slot i with st := 2, gen := (d.slot (1 - i)).gen + 1 }

theorem Dev.imgOk_trial (hrun : d.hp.running = some i) (hkey : bits v 31 16 = 0x600D) (htrial : (d.slot i).st = 1) :
    d.imgOk v = ((d.imgGood i).imgShow ((d.imgGood i).on R.HSYS_IMGSTAT.FALLBACK)).raiseH 67 0 [i] := by
  simp only [Dev.imgOk, hrun, hkey, htrial, and_self, if_true]
  rfl

theorem Dev.raiseH_hp (d : Dev) (n kind : Nat) (data : List Nat) : (d.raiseH n kind data).hp = d.hp :=
  (d.raiseH_reach n kind data).onlyIn.hp rfl

theorem Dev.imgShow_hp (d : Dev) (b : Bool) : (d.imgShow b).hp = d.hp := (d.imgShow_reach b).onlyIn.hp rfl

theorem Dev.imgGood_slot (h : i < d.hp.slots.length) :
    (d.imgGood i).slot i = { d.slot i with st := 2, gen := (d.slot (1 - i)).gen + 1 } :=
  getD_setAt_self (xs := d.hp.slots) _ {} h

theorem Dev.imgOk_confirmed (hrun : d.hp.running = some i) (hi : i < d.hp.slots.length) (hkey : bits v 31 16 = 0x600D)
    (htrial : (d.slot i).st = 1) :
    ((d.imgOk v).slot i).st = 2 ∧ ((d.imgOk v).slot i).gen = (d.slot (1 - i)).gen + 1 ∧ (d.imgOk v).Pends 67 := by
  have hslot : (d.imgOk v).slot i = (d.imgGood i).slot i := by
    rw [Dev.imgOk_trial hrun hkey htrial, Dev.slot, Dev.raiseH_hp, Dev.imgShow_hp, ← Dev.slot]
  rw [hslot, Dev.imgGood_slot hi, Dev.imgOk_trial hrun hkey htrial]
  exact ⟨rfl, rfl, Dev.raiseH_pends _ _ _ _⟩

end

/-! ## GPIO and the peripherals (R347) -/

section
variable (i : Nat)

@[simp] theorem block_HPER_DATA : (R.HPER_DATA.DATA i).block = 0x200A := by simp only [Fld.block, Fld.key, R.HPER_DATA.DATA]; omega

@[simp] theorem block_HPER_STAT_DONE : (R.HPER_STAT.DONE i).block = 0x200A := by
  simp only [Fld.block, Fld.key, R.HPER_STAT.DONE]; omega

@[simp] theorem block_HPER_STAT_ERROR : (R.HPER_STAT.ERROR i).block = 0x200A := by
  simp only [Fld.block, Fld.key, R.HPER_STAT.ERROR]; omega

end

section
variable (d : Dev)

/-- The level of a pin shows, whether or not its event is raised. -/
theorem Dev.gpioEdge_level {pin : Nat} (hpin : pin < 32) (b : Bool) : testBit ((d.gpioEdge pin b).rd (R.HPER_DATA.DATA 9)) pin = b := by
  have hset : ∀ v, testBit ((d.wr (R.HPER_DATA.DATA 9) v).rd (R.HPER_DATA.DATA 9)) pin = testBit v pin := fun v => by
    rw [Dev.rd_wr]
    exact testBit_mod_two_pow hpin
  have hframe : Dev.Writes (InBlocks hostEventBlocks) (d.wr (R.HPER_DATA.DATA 9) (if b then setBit (d.rd (R.HPER_DATA.DATA 9)) pin
      else clearBit (d.rd (R.HPER_DATA.DATA 9)) pin)) (d.gpioEdge pin b) :=
    .ite ((Dev.Writes.refl _ _).raiseH (fun _ _ => id) _ _ _) (.refl _ _)
  rw [hframe.rd_of_block (by simp [hostEventBlocks]), hset]
  cases b with
  | true => exact testBit_setBit_self _ _
  | false => exact testBit_clearBit_self _ _

theorem Dev.gpioEdge_pends {pin : Nat} {b : Bool} (hlevel : testBit (d.rd (R.HPER_DATA.DATA 9)) pin ≠ b)
    (hen : testBit (d.rd R.HPER_EVT.EN) pin = true) (hst : d.rd (R.HPER_CTL.STATUS 9) ≠ 0) : (d.gpioEdge pin b).Pends 127 := by
  rw [Dev.gpioEdge, if_pos ⟨hlevel, hen, hst⟩]
  exact Dev.raiseH_pends _ _ _ _

/-- Received bytes put into the FIFO of a peripheral, 64 at most. -/
def Dev.hperFifo (d : Dev) (i : Nat) (bs : List Byte) : Dev :=
  let q := d.hp.rx.getD i [] ++ bs
  let d := { d with hp := { d.hp with rx := setAt d.hp.rx i (q.take 64), tx := setAt d.hp.tx i [] } }
  let d := if 64 < q.length then d.wr (R.HPER_STAT.OVERRUN i) 1 else d
  if bs = [] then d else d.wr (R.HPER_STAT.FIFO i) 1

/-- A draining peripheral stops, or goes on where it was enabled again. -/
def Dev.hperDrained (d : Dev) (i : Nat) : Dev :=
  if d.rd (R.HPER_CTL.STATUS i) = 2 then d.wr (R.HPER_CTL.STATUS i) (if d.on (R.HPER_CTL.EN i) then 1 else 0) else d

/-- What a transfer's end shows. -/
def Dev.hperEnded (d : Dev) (i : Nat) (err : Bool) : Dev := ((d.wr (R.HPER_STAT.DONE i) 1).when err (·.wr (R.HPER_STAT.ERROR i) 1))

variable {d} {i : Nat}

theorem Dev.hperTransfer_off (h : d.rd (R.HPER_CTL.STATUS i) = 0) (bs : List Byte) (err : Bool) : d.hperTransfer i bs err = d := if_pos h

theorem Dev.hperTransfer_fifo (hst : d.rd (R.HPER_CTL.STATUS i) ≠ 0) (hring : d.rd (R.HPER_DMASEL.RING i) < 28) (bs : List Byte)
    (err : Bool) : d.hperTransfer i bs err = (((d.hperFifo i bs).hperEnded i err).hperDrained i).raiseH (hperEvent i) 0 [i] := by
  have hdma : decide (28 ≤ d.rd (R.HPER_DMASEL.RING i)) = false := decide_eq_false (by omega)
  rw [Dev.hperTransfer, if_neg hst]
  simp only [hdma, Bool.false_and, Bool.false_eq_true, if_false]
  rfl

theorem Dev.hperFifo_rx (hi : i < d.hp.rx.length) (bs : List Byte) :
    (d.hperFifo i bs).hp.rx.getD i [] = (d.hp.rx.getD i [] ++ bs).take 64 := by
  simp only [Dev.hperFifo, apply_ite Dev.hp, Dev.wr_hp, ite_self]
  exact getD_setAt_self _ _ hi

theorem Dev.hperEnded_hp (d : Dev) (err : Bool) : ((d.hperEnded i err).hperDrained i).hp = d.hp := by
  simp only [Dev.hperDrained, Dev.hperEnded, Dev.when, apply_ite Dev.hp, Dev.wr_hp, ite_self]

/-- A write of STATUS leaves the register of the peripheral's flags. -/
theorem Dev.hperDrained_rd (d : Dev) {f : Fld} (hf : (R.HPER_CTL.STATUS i).key ≠ f.key) : (d.hperDrained i).rd f = d.rd f := by
  unfold Dev.hperDrained
  split
  · exact Dev.rd_wr_ne _ _ _ _ hf
  · rfl

theorem Dev.hperEnded_done (d : Dev) (err : Bool) : ((d.hperEnded i err).hperDrained i).rd (R.HPER_STAT.DONE i) = 1 := by
  rw [Dev.hperDrained_rd _ (by simp only [Fld.key, R.HPER_CTL.STATUS, R.HPER_STAT.DONE]; omega)]
  cases err with
  | false => exact Dev.rd_wr ..
  | true =>
    exact (Dev.rd_wr_ne _ _ _ _ (by simp only [Fld.key, R.HPER_STAT.ERROR, R.HPER_STAT.DONE]; omega)).trans (Dev.rd_wr ..)

theorem Dev.hperEnded_error (d : Dev) : ((d.hperEnded i true).hperDrained i).rd (R.HPER_STAT.ERROR i) = 1 := by
  rw [Dev.hperDrained_rd _ (by simp only [Fld.key, R.HPER_CTL.STATUS, R.HPER_STAT.ERROR]; omega)]
  exact Dev.rd_wr ..

end

/-- Settles O34: each command's law, with H1 or H3 on. -/
theorem hostRouterRingsAndPeripherals : Obligations.HostRouterRingsAndPeripherals := by
  intro s
  refine ⟨fun hon => ⟨fun c n h => answers_of_onH1 (exec_hevtClaimRead s c) hon (Dev.claimRead_some h),
      fun c h => answers_of_onH1 (exec_hevtClaimRead s c) hon (Dev.claimRead_none h),
      fun n => answers_of_onH1 (exec_hevtClaimWrite s n) hon ⟨Dev.claimWrite_service, (s.dev.claimWrite_reach n).onlyIn⟩,
      fun r idx hr => answers_of_onH1 (exec_hrngTailWrite s r idx) hon ?_,
      fun r idx _ => answers_of_onH1 (exec_hrngTailWrite s r idx) hon (s.dev.ringTail_eq idx),
      fun r htime hfill hcoll => answers_of_onH1 (exec_ringCoalTimeout s r) hon ?_,
      fun r htime => answers_of_onH1 (exec_ringCoalTimeout s r) hon (s.dev.ringCoal_off htime),
      fun i v hrun hi hkey htrial => answers_of_onH1 (exec_hsysImgok s v) hon (Dev.imgOk_confirmed hrun hi hkey htrial),
      fun v hkey => answers_of_onH1 (exec_hsysImgok s v) hon (Dev.imgOk_of_wrong_key hkey)⟩,
    fun hon => ⟨fun pin b => answers_of_onH3 (exec_gpioEdge s pin b) hon
        ⟨s.dev.gpioEdge_level pin.isLt b, fun hlevel hen hst => s.dev.gpioEdge_pends hlevel hen hst⟩,
      fun i bs err hst hring hi => answers_of_onH3 (exec_peripheralTransfer s i bs err) hon ?_,
      fun i bs err hst => answers_of_onH3 (exec_peripheralTransfer s i bs err) hon (Dev.hperTransfer_off hst bs err)⟩⟩
  · obtain ⟨hstop, htail, hregs⟩ := s.dev.tailed_shown (r := r) idx
    rw [s.dev.ringTail_eq idx, Dev.ringServe_of_lt_eight _ hr]
    exact ⟨hstop, htail, hregs, s.dev.tailed_onlyIn idx⟩
  · rw [Dev.ringCoal_collected _ htime hfill hcoll]
    exact ⟨Dev.ringEvent_evt _ _, Dev.ringEvent_pends _ _⟩
  · rw [Dev.hperTransfer_fifo hst hring]
    refine ⟨?_, (Dev.raiseH_rd _ _ _ _ (by simp [hostEventBlocks])).trans (Dev.hperEnded_done _ err), fun herr => ?_,
      Dev.raiseH_pends _ _ _ _⟩
    · rw [Dev.raiseH_hp, Dev.hperEnded_hp]
      exact Dev.hperFifo_rx hi bs
    · rw [herr]
      exact (Dev.raiseH_rd _ _ _ _ (by simp [hostEventBlocks])).trans (Dev.hperEnded_error _)

end Sys2Proof.Machine
end

section
/-! The buffer stack chain (R322, R324 to R326, Table 16-3): its states, the wake, the end of an enumeration, a missed response
and the SLEEP frames. -/

namespace Sys2Proof.Machine

section
variable (s : State)

theorem exec_stkCtlWake : exec .stkCtlWake s = done s (fun d => if d.domOn .f4 then d.stkWake else d) := rfl

theorem exec_chainRewake : exec .chainRewake s = done s (fun d => if d.domOn .f4 then d.chainRewake else d) := rfl

theorem exec_wakeComplete : exec .wakeComplete s = done s (fun d => if d.domOn .f4 then d.chainAwake else d) := rfl

theorem exec_enumComplete : exec .enumComplete s = done s (fun d => if d.domOn .f4 then d.enumComplete else d) := rfl

theorem exec_chainResponseMissed (b : Bool) :
    exec (.chainResponseMissed b) s = done s (fun d => if d.domOn .f4 then d.chainMissed (b2n b) else d) := rfl

theorem exec_chainSleep : exec .chainSleep s = done s (fun d => if d.domOn .f4 then d.chainSleep else d) := rfl

end

/-! ## A change of state (R325) -/

section
variable {d : Dev} {st : Nat}

theorem Dev.chainGo_of_not_run (h : d.chainState ≠ st) (hrun : d.chainState ≠ 3) :
    d.chainGo st = (d.wr R.STK_CHSTAT.STATE st).raise 56 0 [d.chainState, st] := by
  simp only [Dev.chainGo, h, hrun, if_false]

/-- Left from a state other than RUN, the chain shows its new state and keeps everything else that is not the event. -/
theorem Dev.chainGo_shown (h : d.chainState ≠ st) (hrun : d.chainState ≠ 3) (hst : st < 8) :
    (d.chainGo st).chainState = st ∧ (d.chainGo st).stk = d.stk ∧ (d.chainGo st).tm = d.tm ∧
      d.RegsBut [R.STK_CHSTAT.STATE] (d.chainGo st) := by
  rw [Dev.chainGo_of_not_run h hrun]
  exact ⟨(Dev.raise_rd ..).trans ((Dev.rd_wr ..).trans (Nat.mod_eq_of_lt hst)), Dev.raise_stk .., Dev.raise_tm ..,
    ((Dev.RegsBut.refl _ d).wr (by simp)).raise _ _ _⟩

theorem Dev.chainAwake_waking (h : d.chainState = 1) : d.chainAwake = d.chainGo 2 := if_pos h

theorem Dev.chainAwake_else (h : d.chainState ≠ 1) : d.chainAwake = d := if_neg h

end

/-! ## The wake (R325 to R327) -/

/-- The satellites' registers at the entry to WAKING: none found, no delay, no estimate, and the ends shown. -/
def Dev.satsCleared (d : Dev) : Dev :=
  ((d.forAll (List.range 32) (fun d s =>
      d.wrAll [(R.STK_SATSTAT.FOUND s, 0), (R.STK_SATDLY.ARRA s, 0xFFFF), (R.STK_SATDLY.ARRB s, 0xFFFF)])).forAll
    (List.range 576) (fun d c => d.wr (R.STK_CELLZ.Z c) 0x80000000)).splitShow

theorem Dev.satsCleared_writes (d : Dev) {g : Fld} (hlow : g.key < 0x00261000 * 32) (hsplit : R.STK_CHSTAT.SPLITEFF.key ≠ g.key) :
    Dev.Writes (Off g) d d.satsCleared := by
  refine .forAll (.off (.forAll (.forAll (.refl _ d) fun e x => ?_) fun e x => ?_) hsplit) fun e x => ?_
  · refine (((Dev.Writes.refl _ e).off (f := R.STK_SATSTAT.FOUND x) ?_).off (f := R.STK_SATDLY.ARRA x) ?_).off (f := R.STK_SATDLY.ARRB x) ?_
    all_goals
      simp only [Fld.key, R.STK_SATSTAT.FOUND, R.STK_SATDLY.ARRA, R.STK_SATDLY.ARRB] at hlow ⊢
      omega
  · refine (Dev.Writes.refl _ e).off ?_
    simp only [Fld.key, R.STK_CELLZ.Z] at hlow ⊢
    omega
  · refine (Dev.Writes.refl _ e).off ?_
    simp only [Fld.key, R.STK_SATSTAT.END] at hlow ⊢
    omega

/-- The entry to WAKING: the chain's configuration applied, its satellites cleared, and the new state. -/
theorem Dev.chainWake_eq (d : Dev) : ∃ k : Stk, k.wakes = 1 ∧ k.nsat = min 32 (d.rd R.STK_CHCFG.NSAT) ∧
    d.chainWake = ((({ d with stk := k }).wr R.STK_CHSTAT.CFGPEND 0).satsCleared).chainGo 1 := by
  unfold Dev.chainWake Dev.satsCleared
  dsimp only
  refine ⟨?k, ?wakes, ?nsat, ?eq⟩
  case eq => rfl
  case wakes => rfl
  case nsat => rfl

theorem Dev.satsCleared_same (d : Dev) : d.satsCleared.stk = d.stk ∧ d.satsCleared.tm = d.tm := by
  have hkeep : ∀ {α : Type} (view : Dev → α), (∀ (e : Dev) (f : Fld) (v : Nat), view (e.wr f v) = view e) → view d.satsCleared = view d := by
    intro α view hwr
    unfold Dev.satsCleared Dev.splitShow
    rw [Dev.forAll_keeps view fun e x => hwr e _ _, hwr, Dev.forAll_keeps view fun e x => hwr e _ _, Dev.forAll_keeps view fun e x => ?_]
    exact (hwr _ _ _).trans ((hwr _ _ _).trans (hwr _ _ _))
  exact ⟨hkeep Dev.stk fun _ _ _ => rfl, hkeep Dev.tm fun _ _ _ => rfl⟩

/-- From a state that is neither WAKING nor RUN the wake shows WAKING with its first wake counted. -/
theorem Dev.chainWake_shown {d : Dev} (h1 : d.chainState ≠ 1) (h3 : d.chainState ≠ 3) :
    d.chainWake.chainState = 1 ∧ d.chainWake.stk.wakes = 1 ∧ d.chainWake.stk.nsat = min 32 (d.rd R.STK_CHCFG.NSAT) ∧
      d.chainWake.rd R.STK_CHSTAT.CFGPEND = 0 ∧ d.chainWake.tm = d.tm := by
  obtain ⟨k, hwakes, hnsat, heq⟩ := d.chainWake_eq
  have hstate : (((({ d with stk := k } : Dev)).wr R.STK_CHSTAT.CFGPEND 0).satsCleared).chainState = d.chainState :=
    (Dev.Writes.rd_of_off (Dev.satsCleared_writes _ (by decide) (by decide))).trans (Dev.rd_wr_ne _ _ _ _ (by decide))
  have hpend : (((({ d with stk := k } : Dev)).wr R.STK_CHSTAT.CFGPEND 0).satsCleared).rd R.STK_CHSTAT.CFGPEND = 0 :=
    (Dev.Writes.rd_of_off (Dev.satsCleared_writes _ (by decide) (by decide))).trans (Dev.rd_wr ..)
  obtain ⟨hstk, htm⟩ := Dev.satsCleared_same (({ d with stk := k } : Dev).wr R.STK_CHSTAT.CFGPEND 0)
  obtain ⟨hgo, hgostk, hgotm, hgoregs⟩ := Dev.chainGo_shown (hstate.trans_ne h1) (hstate.trans_ne h3) (by decide : 1 < 8)
  rw [heq]
  refine ⟨hgo, ?_, ?_, (hgoregs _ (by decide)).trans hpend, hgotm.trans htm⟩
  · rw [hgostk, hstk]
    exact hwakes
  · rw [hgostk, hstk]
    exact hnsat

section
variable {d : Dev}

theorem Dev.chainRewake_wakes (h4 : d.chainState = 4) (hask : d.stk.autow = true ∨ d.stk.wakeReq = true) (hst : d.rd R.STK_CTL.STATUS = 1) :
    d.chainRewake = (d.advanceTo (stepsOfNs (d.stk.faultAt + 600000000))).chainWake := if_pos ⟨h4, hask, hst⟩

theorem Dev.chainRewake_idle (hauto : d.stk.autow = false) (hreq : d.stk.wakeReq = false) : d.chainRewake = d :=
  if_neg fun h => h.2.1.elim (by simp [hauto]) (by simp [hreq])

theorem Dev.chainRewake_shown (h4 : d.chainState = 4) (hask : d.stk.autow = true ∨ d.stk.wakeReq = true) (hst : d.rd R.STK_CTL.STATUS = 1) :
    d.chainRewake.chainState = 1 ∧ d.chainRewake.stk.wakes = 1 ∧ d.chainRewake.stk.nsat = min 32 (d.rd R.STK_CHCFG.NSAT) ∧
      d.chainRewake.rd R.STK_CHSTAT.CFGPEND = 0 ∧ d.tm.q ≤ d.chainRewake.tm.q := by
  have hfault : (d.advanceTo (stepsOfNs (d.stk.faultAt + 600000000))).chainState = 4 := h4
  obtain ⟨hstate, hwakes, hnsat, hpend, htm⟩ := Dev.chainWake_shown (hfault.trans_ne (by decide)) (hfault.trans_ne (by decide))
  rw [Dev.chainRewake_wakes h4 hask hst]
  refine ⟨hstate, hwakes, hnsat, hpend, ?_⟩
  rw [htm]
  exact Nat.le_max_left ..

theorem Dev.stkWake_early (h4 : d.chainState = 4) (h : d.stcNs < d.stk.faultAt + 600000000) :
    d.stkWake = { d with stk := { d.stk with wakeReq := true } } := by
  rw [Dev.stkWake, if_pos h4]
  exact if_neg (Nat.not_le.mpr h)

theorem Dev.stkWake_late (h4 : d.chainState = 4) (h : d.stk.faultAt + 600000000 ≤ d.stcNs) :
    d.stkWake = ({ d with stk := { d.stk with wakeReq := true } } : Dev).chainRewake := by
  rw [Dev.stkWake, if_pos h4]
  exact if_pos h

theorem Dev.stkWake_else (h4 : d.chainState ≠ 4) : d.stkWake = d := if_neg h4

end

/-! ## The end of an enumeration (R325, Table 16-3) -/

section
variable {d : Dev}

theorem Dev.enumComplete_else (h : d.chainState ≠ 2) : d.enumComplete = d := if_neg h

theorem satArr_ne_nfound (e x : Nat) : R.STK_CHSTAT.NFOUND.key ≠ (satArr e x).key := by
  unfold satArr
  split
  · simp only [Fld.key, R.STK_CHSTAT.NFOUND, R.STK_SATDLY.ARRA]
    omega
  · simp only [Fld.key, R.STK_CHSTAT.NFOUND, R.STK_SATDLY.ARRB]
    omega

theorem Dev.chainState_wr_nfound (v : Nat) : (d.wr R.STK_CHSTAT.NFOUND v).chainState = d.chainState := Dev.rd_wr_ne _ _ _ _ (by decide)

/-- All found, configured and with their delay: RUN, and the number found shows. -/
theorem Dev.enumComplete_run (h2 : d.chainState = 2) (hall : d.stk.nsat ≤ d.nFound)
    (hcfgd : ((List.range d.stk.nsat).all (fun x => (d.satRt x).cfgd && decide (d.rd (satArr (d.endOf x) x) ≠ 0xFFFF))) = true) :
    d.enumComplete.chainState = 3 ∧ d.enumComplete.rd R.STK_CHSTAT.NFOUND = d.nFound % 2 ^ R.STK_CHSTAT.NFOUND.width := by
  have hgo : d.enumComplete = (d.wr R.STK_CHSTAT.NFOUND d.nFound).chainGo 3 := by
    rw [Dev.enumComplete, if_pos h2]
    refine (if_neg (Nat.not_lt.mpr hall)).trans (if_pos ?_)
    refine (List.all_congr rfl fun x => ?_).trans hcfgd
    rw [Dev.rd_wr_ne _ _ _ _ (satArr_ne_nfound _ x)]
    rfl
  have hstate := (Dev.chainState_wr_nfound (d := d) d.nFound).trans h2
  obtain ⟨hrun, -, -, hregs⟩ := Dev.chainGo_shown (hstate.trans_ne (by decide : 2 ≠ 3)) (hstate.trans_ne (by decide)) (by decide)
  rw [hgo]
  exact ⟨hrun, (hregs _ (by decide)).trans (Dev.rd_wr ..)⟩

/-- Fewer found before the third wake: another one, with nothing found yet. -/
theorem Dev.enumComplete_again (h2 : d.chainState = 2) (hfew : d.nFound < d.stk.nsat) (hwakes : d.stk.wakes < 3) :
    d.enumComplete.chainState = 2 ∧ d.enumComplete.stk.wakes = d.stk.wakes + 1 ∧ d.enumComplete.nFound = 0 ∧
      ∀ i : Fin 32, d.enumComplete.rd (R.STK_SATSTAT.FOUND i) = 0 := by
  have hregs : d.enumComplete.regs = ((d.wr R.STK_CHSTAT.NFOUND d.nFound).forAll (List.range 32) (fun d s => d.wr (R.STK_SATSTAT.FOUND s) 0)).regs ∧
      d.enumComplete.stk.wakes = d.stk.wakes + 1 ∧ d.enumComplete.nFound = 0 := by
    have hstk : ((d.wr R.STK_CHSTAT.NFOUND d.nFound).forAll (List.range 32) (fun d s => d.wr (R.STK_SATSTAT.FOUND s) 0)).stk = d.stk :=
      Dev.forAll_keeps Dev.stk fun _ _ => rfl
    rw [Dev.enumComplete, if_pos h2]
    dsimp only
    rw [if_pos (show d.nFound < (d.wr R.STK_CHSTAT.NFOUND d.nFound).stk.nsat from hfew),
      if_neg (show ¬ 3 ≤ (d.wr R.STK_CHSTAT.NFOUND d.nFound).stk.wakes from Nat.not_le.mpr hwakes)]
    generalize (d.wr R.STK_CHSTAT.NFOUND d.nFound).forAll (List.range 32) (fun d s => d.wr (R.STK_SATSTAT.FOUND s) 0) = e at hstk ⊢
    exact ⟨rfl, congrArg (·.wakes + 1) hstk, rfl⟩
  obtain ⟨hregs, hw, hn⟩ := hregs
  have hstate : Dev.Writes (Off R.STK_CHSTAT.STATE) d
      ((d.wr R.STK_CHSTAT.NFOUND d.nFound).forAll (List.range 32) (fun d s => d.wr (R.STK_SATSTAT.FOUND s) 0)) := by
    refine .forAll (.off (.refl _ d) (by decide)) fun e x => (Dev.Writes.refl _ e).off ?_
    simp only [Fld.key, R.STK_SATSTAT.FOUND, R.STK_CHSTAT.STATE]
    omega
  refine ⟨((hstate.of_regs hregs).rd_of_off).trans h2, hw, hn, fun i => (congrArg (Regs.get · _) hregs).trans ?_⟩
  refine Dev.forAll_establishes (P := fun _ => True) (Q := fun e => e.rd (R.STK_SATSTAT.FOUND i) = 0) (List.mem_range.mpr i.isLt) trivial
    (fun _ _ _ => trivial) (fun e _ => Dev.rd_wr ..) fun e x he => ?_
  by_cases hx : (R.STK_SATSTAT.FOUND x).key = (R.STK_SATSTAT.FOUND i).key
  · have hfld : R.STK_SATSTAT.FOUND x = R.STK_SATSTAT.FOUND i := by
      simp only [Fld.key, R.STK_SATSTAT.FOUND, Fld.mk.injEq, and_true] at hx ⊢
      omega
    rw [hfld]
    exact Dev.rd_wr ..
  · rw [Dev.rd_wr_ne _ _ _ _ hx, he]

/-- Fewer found after the third wake: FAULT from now on. -/
theorem Dev.enumComplete_fault (h2 : d.chainState = 2) (hfew : d.nFound < d.stk.nsat) (hwakes : 3 ≤ d.stk.wakes) :
    d.enumComplete.chainState = 4 ∧ d.enumComplete.stk.faultAt = d.stcNs := by
  have hgo : d.enumComplete = ({ d.wr R.STK_CHSTAT.NFOUND d.nFound with stk := { d.stk with faultAt := d.stcNs } } : Dev).chainGo 4 := by
    rw [Dev.enumComplete, if_pos h2]
    exact (if_pos hfew).trans (if_pos hwakes)
  have hstate : ({ d.wr R.STK_CHSTAT.NFOUND d.nFound with stk := { d.stk with faultAt := d.stcNs } } : Dev).chainState = 2 :=
    (Dev.chainState_wr_nfound (d := d) d.nFound).trans h2
  obtain ⟨hfault, hstk, -, -⟩ := Dev.chainGo_shown (hstate.trans_ne (by decide : 2 ≠ 4)) (hstate.trans_ne (by decide)) (by decide)
  rw [hgo, hstk]
  exact ⟨hfault, rfl⟩

end

/-! ## A missed response (R324) -/

section
variable {d : Dev} {e : Nat} {c : ChainCmd}

theorem Dev.chainMissed_none (h : d.stk.out.getD e none = none) : d.chainMissed e = d := by
  simp only [Dev.chainMissed, h]

theorem Dev.chainSettle_open (h : d.stk.closing = false) : d.chainSettle = d := if_neg (by simp [h])

theorem Dev.outTake_out (he : e < d.stk.out.length) : (d.outTake e).stk.out.getD e none = none := getD_setAt_self _ none he

theorem Dev.chainMissed_enum (h : d.stk.out.getD e none = some c) (hcode : c.code = 1) (hopen : d.stk.closing = false) :
    d.chainMissed e = { d.outTake e with stk := { (d.outTake e).stk with enumDone := setAt (d.outTake e).stk.enumDone e true } } := by
  simp only [Dev.chainMissed, h, hcode, if_true]
  exact Dev.chainSettle_open hopen

/-- What a miss counts while the chain is not in RUN. -/
def Dev.missCounted (d : Dev) (x : Nat) : Dev :=
  (((d.setSat x { d.satRt x with missed := true }).wr (R.STK_SATSTAT.MISSRUN x) (min 3 (d.rd (R.STK_SATSTAT.MISSRUN x) + 1))).bump
    R.STK_CNT.MISS).raise 56 1 [x, 0]

theorem missrun_ne_state (x : Nat) : (R.STK_SATSTAT.MISSRUN x).key ≠ R.STK_CHSTAT.STATE.key := by
  simp only [Fld.key, R.STK_SATSTAT.MISSRUN, R.STK_CHSTAT.STATE]
  omega

theorem missrun_ne_miss (x : Nat) : (R.STK_SATSTAT.MISSRUN x).key ≠ R.STK_CNT.MISS.key := by
  simp only [Fld.key, R.STK_SATSTAT.MISSRUN, R.STK_CNT.MISS]
  omega

theorem Dev.missCounted_shown (d : Dev) (x : Nat) :
    (d.missCounted x).rd (R.STK_SATSTAT.MISSRUN x) = min 3 (d.rd (R.STK_SATSTAT.MISSRUN x) + 1) ∧
    (d.missCounted x).rd R.STK_CNT.MISS = min 255 (d.rd R.STK_CNT.MISS + 1) ∧ (d.missCounted x).chainState = d.chainState ∧
    d.RegsBut [R.STK_SATSTAT.MISSRUN x, R.STK_CNT.MISS] (d.missCounted x) := by
  have hregs : d.RegsBut [R.STK_SATSTAT.MISSRUN x, R.STK_CNT.MISS] (d.missCounted x) :=
    (((Dev.RegsBut.of_eq _ rfl).wr (by simp)).wr (by simp)).raise _ _ _
  have hrun : min 3 (d.rd (R.STK_SATSTAT.MISSRUN x) + 1) < 2 ^ (R.STK_SATSTAT.MISSRUN x).width := by
    change _ < 4
    omega
  refine ⟨?_, ?_, hregs _ ?_, hregs⟩
  · rw [Dev.missCounted, Dev.raise_rd]
    exact (Dev.rd_wr_ne _ _ _ _ (missrun_ne_miss x).symm).trans ((Dev.rd_wr ..).trans (Nat.mod_eq_of_lt hrun))
  · rw [Dev.missCounted, Dev.raise_rd, Dev.rd_bump, Dev.rd_wr_ne _ _ _ _ (missrun_ne_miss x)]
    rfl
  · simp only [List.forall_mem_cons]
    exact ⟨missrun_ne_state x, by decide, fun _ h => absurd h List.not_mem_nil⟩

/-- Outside RUN a miss moves no split and leads to no FAULT. -/
theorem Dev.chainMiss_of_not_run (h : d.chainState ≠ 3) (x : Nat) : d.chainMiss e x 0 = d.missCounted x := by
  obtain ⟨-, -, hstate, -⟩ := d.missCounted_shown x
  have hnot : (d.missCounted x).chainState ≠ 3 := hstate.trans_ne h
  have hroute : (d.missCounted x).reroute e x = d.missCounted x := if_neg fun hr => hnot hr.2.2.1
  calc d.chainMiss e x 0
    _ = if ((d.missCounted x).reroute e x).chainState = 3 ∧ 3 ≤ min 3 (d.rd (R.STK_SATSTAT.MISSRUN x) + 1) then
          ({ (d.missCounted x).reroute e x with stk := { ((d.missCounted x).reroute e x).stk with
            faultAt := ((d.missCounted x).reroute e x).stcNs } } : Dev).chainGo 4
        else (d.missCounted x).reroute e x := rfl
    _ = d.missCounted x := by rw [hroute, if_neg fun hr => hnot hr.1]

theorem Dev.missCounted_stk (d : Dev) (x : Nat) : (d.missCounted x).stk = (d.setSat x { d.satRt x with missed := true }).stk :=
  Dev.raise_stk ..

theorem Dev.chainMissed_other (h : d.stk.out.getD e none = some c) (hcode : c.code ≠ 1) (hrun : d.chainState ≠ 3)
    (hopen : d.stk.closing = false) : d.chainMissed e = (d.outTake e).missCounted c.sat := by
  have hstate : (d.outTake e).chainState ≠ 3 := hrun
  simp only [Dev.chainMissed, h, hcode, if_false, Dev.chainMiss_of_not_run hstate]
  refine Dev.chainSettle_open ?_
  rw [Dev.missCounted_stk]
  exact hopen

end

/-! ## SLEEP (R325) -/

section
variable {d : Dev}

theorem Dev.chainSleep_idle (h : d.stk.sleepDue = false) : d.chainSleep = d := if_neg (by simp [h])

/-- A due SLEEP goes out from both ends, and is due no more. -/
theorem Dev.chainSleep_sent (h : d.stk.sleepDue = true) : d.chainSleep.stk.sleepDue = false ∧ d.chainSleep.regs = d.regs ∧
    (d.stk.lastFrame.length = 2 → d.chainSleep.stk.lastFrame.getD 0 [] = chainFrame 0x3F 0 (d.stk.split - 1) 8 0 [] d.stk.crcEn) := by
  rw [Dev.chainSleep, if_pos h]
  refine ⟨rfl, rfl, fun hlen => ?_⟩
  have hfirst : ∀ (x y : List Byte), (setAt (setAt d.stk.lastFrame 0 x) 1 y).getD 0 [] = x := fun x y => by
    rw [List.getD_eq_getElem?_getD, setAt, List.getElem?_set_ne (by decide), ← List.getD_eq_getElem?_getD]
    exact getD_setAt_self x [] (by omega)
  exact hfirst _ _

end

/-- Settles O43: each command of the chain by the state it finds, with F4 on. -/
theorem chainStatesMove : Obligations.ChainStatesMove := by
  intro s hon
  refine ⟨fun h4 h => answers_of_onF4 (exec_stkCtlWake s) hon (Dev.stkWake_early h4 h),
    fun h4 h hst => answers_of_onF4 (exec_stkCtlWake s) hon ?_,
    fun h4 => answers_of_onF4 (exec_stkCtlWake s) hon (Dev.stkWake_else h4),
    fun h4 hask hst => answers_of_onF4 (exec_chainRewake s) hon ?_,
    fun _ hauto hreq => answers_of_onF4 (exec_chainRewake s) hon (Dev.chainRewake_idle hauto hreq),
    fun h1 => answers_of_onF4 (exec_wakeComplete s) hon ?_,
    fun h1 => answers_of_onF4 (exec_wakeComplete s) hon (Dev.chainAwake_else h1),
    fun h2 hall hcfgd => answers_of_onF4 (exec_enumComplete s) hon (Dev.enumComplete_run h2 hall hcfgd),
    fun h2 hfew hwakes => answers_of_onF4 (exec_enumComplete s) hon (Dev.enumComplete_again h2 hfew hwakes),
    fun h2 hfew hwakes => answers_of_onF4 (exec_enumComplete s) hon (Dev.enumComplete_fault h2 hfew hwakes),
    fun h2 => answers_of_onF4 (exec_enumComplete s) hon (Dev.enumComplete_else h2),
    fun b hout => answers_of_onF4 (exec_chainResponseMissed s b) hon (Dev.chainMissed_none hout),
    fun b c hout hcode hopen hlen hdone => answers_of_onF4 (exec_chainResponseMissed s b) hon ?_,
    fun b c hout hcode h2 hopen hlen hsat => answers_of_onF4 (exec_chainResponseMissed s b) hon ?_,
    fun hdue => answers_of_onF4 (exec_chainSleep s) hon (Dev.chainSleep_sent hdue),
    fun hdue => answers_of_onF4 (exec_chainSleep s) hon (Dev.chainSleep_idle hdue)⟩
  · obtain ⟨hstate, hwakes, hnsat, hpend, -⟩ :=
      Dev.chainRewake_shown (d := { s.dev with stk := { s.dev.stk with wakeReq := true } }) h4 (.inr rfl) hst
    rw [Dev.stkWake_late h4 h]
    exact ⟨hstate, hwakes, hnsat, hpend⟩
  · obtain ⟨hstate, hwakes, -, -, htm⟩ := Dev.chainRewake_shown h4 hask hst
    exact ⟨hstate, hwakes, htm⟩
  · obtain ⟨hstate, hstk, -, hregs⟩ := Dev.chainGo_shown (h1.trans_ne (by decide : 1 ≠ 2)) (h1.trans_ne (by decide)) (by decide)
    rw [Dev.chainAwake_waking h1]
    exact ⟨hstate, hstk, hregs⟩
  · have he : b2n b < 2 := by cases b <;> decide
    rw [Dev.chainMissed_enum hout hcode hopen]
    exact ⟨getD_setAt_self _ _ (hdone.symm ▸ he), Dev.outTake_out (hlen.symm ▸ he), rfl⟩
  · have he : b2n b < 2 := by cases b <;> decide
    obtain ⟨hrun, hmiss, -, hregs⟩ := (s.dev.outTake (b2n b)).missCounted_shown c.sat
    rw [Dev.chainMissed_other hout hcode (h2.trans_ne (by decide)) hopen]
    refine ⟨hrun, hmiss, ?_, ?_, hregs⟩
    · rw [Dev.satRt, Dev.missCounted_stk]
      exact congrArg SatRt.missed (getD_setAt_self _ {} hsat)
    · rw [Dev.missCounted_stk]
      exact Dev.outTake_out (hlen.symm ▸ he)

end Sys2Proof.Machine
end

section
/-! Reception of the CAN FD controllers (R351, R356 to R359): the fields of a controller, the mailboxes with their lock and
shadow, and the receive ring. -/

namespace Sys2Proof.Machine

section
variable (c : Fin 4) (s : State)

theorem exec_canFrameReceived (ws : List Nat) : exec (.canFrameReceived c ws) s = done s (fun d => if d.domOn (canDom c) then
    (if d.canOnBus c then (d.canGood c false).canReceive c ws (d.canNow c) else d) else d) := rfl

theorem exec_canMailboxLock (m : Fin 16) :
    exec (.canMailboxLock c m) s = done s (fun d => if d.domOn (canDom c) then d.mbRead c m 0 else d) := rfl

theorem exec_canMailboxRelease (m : Fin 16) :
    exec (.canMailboxRelease c m) s = done s (fun d => if d.domOn (canDom c) then d.mbRead c m (d.mbLast c m) else d) := rfl

theorem exec_canRxpop (f : Fin 2) : exec (.canRxpop f) s = done s (fun d => if d.domOn (canDom f) then d.canPop f else d) := rfl

theorem exec_canFilterWrite (m : Fin 16) (r : Fin 3) (v : Nat) :
    exec (.canFilterWrite c m r v) s = done s (fun d => if d.domOn (canDom c) then d.mbFilter c m r v else d) := rfl

end

/-- A row of a controller answers its operation's block while the controller's domain is on. -/
theorem answers_of_onCan {i : Instr} {s : State} {c : Nat} {f : Dev → Dev} {P : Dev → Prop}
    (h : exec i s = done s (fun d => if d.domOn (canDom c) then f d else d)) (hon : s.dev.domOn (canDom c) = true) (hP : P (f s.dev)) :
    Answers i s P := answers_of_done h (by rwa [if_pos hon])

/-! ## The fields of a controller -/

section
variable {c : Nat} {f g : Nat → Fld}

/-- Two registers that differ in FCAN differ at the same offset of HCAN. -/
theorem canAt_key_ne (h : ∀ i, (f i).key ≠ (g i).key) : (canAt c f).key ≠ (canAt c g).key := by
  unfold canAt
  split
  · exact h c
  · have hc := h (c - 2)
    simp only [Fld.key] at hc ⊢
    omega

theorem canAt_width {w : Nat} (h : ∀ i, (f i).width = w) : (canAt c f).width = w := by
  unfold canAt
  split
  · exact h c
  · exact h (c - 2)

/-- A controller's registers lie in the block of FCAN or of HCAN. -/
theorem canAt_block (h : ∀ i, (f i).block = 0x27) : (canAt c f).block ∉ hostEventBlocks := by
  have hc := h (c - 2)
  unfold canAt
  split
  · simp [hostEventBlocks, h c]
  · simp only [Fld.block, Fld.key, hostEventBlocks, List.mem_cons, List.not_mem_nil, or_false] at hc ⊢
    omega

end

/-- A field of the mailboxes of FCAN `i`, at 0x1000 to 0x17FF of the controller. -/
def InMailbox (f : Nat → Fld) : Prop :=
  ∀ i, 0x00271000 + 0x8000 * (i % 2) ≤ (f i).addr ∧ (f i).addr < 0x00271800 + 0x8000 * (i % 2) ∧ (f i).lo < 32

theorem InMailbox.block {f : Nat → Fld} (h : InMailbox f) (i : Nat) : (f i).block = 0x27 := by
  obtain ⟨hfirst, hlast, hlo⟩ := h i
  simp only [Fld.block, Fld.key]
  omega

section
variable (m k : Nat)

theorem inMailbox_WORD : InMailbox (fun i => R.FCAN_MB.WORD i m k) := fun i => by simp only [R.FCAN_MB.WORD]; omega

theorem inMailbox_NEW : InMailbox (fun i => R.FCAN_MBSTAT.NEW i m) := fun i => by simp only [R.FCAN_MBSTAT.NEW]; omega

theorem inMailbox_LOCK : InMailbox (fun i => R.FCAN_MBSTAT.LOCK i m) := fun i => by simp only [R.FCAN_MBSTAT.LOCK]; omega

theorem inMailbox_ID : InMailbox (fun i => R.FCAN_MBFLT.ID i m) := fun i => by simp only [R.FCAN_MBFLT.ID]; omega

theorem inMailbox_MASK : InMailbox (fun i => R.FCAN_MBMASK.MASK i m) := fun i => by simp only [R.FCAN_MBMASK.MASK]; omega

theorem inMailbox_MODE : InMailbox (fun i => R.FCAN_MBCFG.MODE i m) := fun i => by simp only [R.FCAN_MBCFG.MODE]; omega

theorem inMailbox_IDE : InMailbox (fun i => R.FCAN_MBCFG.IDE i m) := fun i => by simp only [R.FCAN_MBCFG.IDE]; omega

theorem inMailbox_FDF : InMailbox (fun i => R.FCAN_MBCFG.FDF i m) := fun i => by simp only [R.FCAN_MBCFG.FDF]; omega

theorem inMailbox_FDFCHK : InMailbox (fun i => R.FCAN_MBCFG.FDFCHK i m) := fun i => by simp only [R.FCAN_MBCFG.FDFCHK]; omega

end

/-! ## The error counters after a good frame (R355) leave the mailboxes -/

section
variable {fs : List Fld} {d e : Dev} {c : Nat}

theorem Dev.Writes.canTxEvent (h : Dev.Writes (FieldsOrHostEvent fs) d e) (kind : Nat) (data : List Nat) :
    Dev.Writes (FieldsOrHostEvent fs) d (e.canTxEvent c kind data) := .ite (h.raise _ _ _) (h.event _ _ _)

theorem Dev.Writes.canRxEvent (h : Dev.Writes (FieldsOrHostEvent fs) d e) (kind : Nat) (data : List Nat) :
    Dev.Writes (FieldsOrHostEvent fs) d (e.canRxEvent c kind data) := .ite (h.raise _ _ _) (h.event _ _ _)

/-- The error counters and state of a controller, and the state of its transmit buffers. -/
def canErrFlds (c : Nat) : List Fld :=
  [canAt c R.FCAN_ERR.TEC, canAt c R.FCAN_ERR.REC, canAt c R.FCAN_ERR.STATE, canStat c 0, canStat c 1, canStat c 2]

theorem canStat_mem_canErrFlds {b : Nat} (hb : b ∈ [0, 1, 2]) : canStat c b ∈ canErrFlds c := by
  simp only [List.mem_cons, List.not_mem_nil, or_false] at hb
  obtain rfl | rfl | rfl := hb <;> simp [canErrFlds]

/-- Writes to the elements of a list that each step confines. -/
theorem Dev.Writes.forAll_mem {α : Type} {W : Fld → Nat → Prop} {xs : List α} {g : Dev → α → Dev} (h : Dev.Writes W d e)
    (hg : ∀ e, ∀ x ∈ xs, Dev.Writes W e (g e x)) : Dev.Writes W d (e.forAll xs g) := by
  unfold Dev.forAll
  induction xs generalizing e with
  | nil => exact h
  | cons x xs ih =>
    exact ih (h.trans (hg e x List.mem_cons_self)) fun e y hy => hg e y (List.mem_cons_of_mem x hy)

theorem Dev.canShow_writes (d : Dev) (c : Nat) : Dev.Writes (FieldsOrHostEvent (canErrFlds c)) d (d.canShow c) := by
  have hcount : Dev.Writes (FieldsOrHostEvent (canErrFlds c)) d
      ((d.wr (canAt c R.FCAN_ERR.TEC) (min 255 (d.canRt c).tec)).wr (canAt c R.FCAN_ERR.REC) (min 255 (d.canRt c).rec')) :=
    ((Dev.Writes.refl _ d).field (by simp [canErrFlds])).field (by simp [canErrFlds])
  unfold Dev.canShow
  extract_lets x d1 old new d2 d3
  have hstate : Dev.Writes (FieldsOrHostEvent (canErrFlds c)) d d2 := (hcount.field (by simp [canErrFlds])).canTxEvent _ _
  refine .ite hcount (.ite (.forAll_mem hstate fun e b hb => .ite ?_ (.refl _ e)) hstate)
  exact ((Dev.Writes.refl _ e).field (canStat_mem_canErrFlds hb)).canTxEvent _ _

theorem Dev.canGood_writes (d : Dev) (c : Nat) : Dev.Writes (FieldsOrHostEvent (canErrFlds c)) d (d.canGood c false) := by
  have hshow : ∀ e : Dev, e.regs = d.regs → Dev.Writes (FieldsOrHostEvent (canErrFlds c)) d (e.canShow c) := fun e he =>
    ((Dev.Writes.refl _ d).of_regs he).trans (e.canShow_writes c)
  unfold Dev.canGood
  split
  · exact .refl _ d
  · exact .ite (hshow _ rfl) (.ite (hshow _ rfl) (hshow _ rfl))

/-- A field of the controller's block that is none of its error and transmit states reads as before. -/
theorem Dev.canGood_rd (d : Dev) {f : Nat → Fld} (hblock : ∀ i, (f i).block = 0x27)
    (herr : ∀ i, ∀ g ∈ [R.FCAN_ERR.TEC i, R.FCAN_ERR.REC i, R.FCAN_ERR.STATE i, R.FCAN_TXCMD.STAT i 0, R.FCAN_TXCMD.STAT i 1,
      R.FCAN_TXCMD.STAT i 2], g.key ≠ (f i).key) : (d.canGood c false).rd (canAt c f) = d.rd (canAt c f) := by
  simp only [List.forall_mem_cons] at herr
  refine (d.canGood_writes c).rd_of_fields (canAt_block hblock) ?_
  simp only [canErrFlds, canStat, List.forall_mem_cons]
  exact ⟨canAt_key_ne fun i => (herr i).1, canAt_key_ne fun i => (herr i).2.1, canAt_key_ne fun i => (herr i).2.2.1,
    canAt_key_ne fun i => (herr i).2.2.2.1, canAt_key_ne fun i => (herr i).2.2.2.2.1, canAt_key_ne fun i => (herr i).2.2.2.2.2.1,
    fun _ h => absurd h List.not_mem_nil⟩

theorem Dev.canGood_rd_mailbox (d : Dev) {f : Nat → Fld} (h : InMailbox f) : (d.canGood c false).rd (canAt c f) = d.rd (canAt c f) := by
  refine d.canGood_rd h.block fun i => ?_
  obtain ⟨hfirst, -, -⟩ := h i
  simp only [List.forall_mem_cons, Fld.key, R.FCAN_ERR.TEC, R.FCAN_ERR.REC, R.FCAN_ERR.STATE, R.FCAN_TXCMD.STAT]
  exact ⟨by omega, by omega, by omega, by omega, by omega, by omega, fun _ h => absurd h List.not_mem_nil⟩

theorem Dev.canGood_mbMatches (d : Dev) (c m w0 w1 : Nat) : (d.canGood c false).mbMatches c m w0 w1 = d.mbMatches c m w0 w1 := by
  simp only [Dev.mbMatches, d.canGood_rd_mailbox (inMailbox_MODE m), d.canGood_rd_mailbox (inMailbox_ID m), d.canGood_rd_mailbox (inMailbox_MASK m),
    d.canGood_rd_mailbox (inMailbox_IDE m), d.canGood_rd_mailbox (inMailbox_FDFCHK m), d.canGood_rd_mailbox (inMailbox_FDF m)]

theorem Dev.canGood_ringall (d : Dev) (c : Nat) :
    (d.canGood c false).rd (canAt c R.FCAN_CTL.RINGALL) = d.rd (canAt c R.FCAN_CTL.RINGALL) := by
  refine d.canGood_rd (fun i => ?_) fun i => ?_
  · simp only [Fld.block, Fld.key, R.FCAN_CTL.RINGALL]
    omega
  · simp only [List.forall_mem_cons, Fld.key, R.FCAN_ERR.TEC, R.FCAN_ERR.REC, R.FCAN_ERR.STATE, R.FCAN_TXCMD.STAT, R.FCAN_CTL.RINGALL]
    exact ⟨by omega, by omega, by omega, by omega, by omega, by omega, fun _ h => absurd h List.not_mem_nil⟩

theorem Dev.canGood_filtered (d : Dev) (c : Nat) :
    (d.canGood c false).rd (canAt c R.FCAN_CNT.FILTERED) = d.rd (canAt c R.FCAN_CNT.FILTERED) := by
  refine d.canGood_rd (fun i => ?_) fun i => ?_
  · simp only [Fld.block, Fld.key, R.FCAN_CNT.FILTERED]
    omega
  · simp only [List.forall_mem_cons, Fld.key, R.FCAN_ERR.TEC, R.FCAN_ERR.REC, R.FCAN_ERR.STATE, R.FCAN_TXCMD.STAT, R.FCAN_CNT.FILTERED]
    exact ⟨by omega, by omega, by omega, by omega, by omega, by omega, fun _ h => absurd h List.not_mem_nil⟩

end

/-! ## The receive ring (R359) -/

section
variable (c : Nat)

/-- What the receive ring shows: its entries and the frames it lost. -/
def canRingFlds (c : Nat) : List Fld := [canAt c R.FCAN_RXSTAT.ENTRIES, canAt c R.FCAN_CNT.RINGOVR]

theorem Dev.canFlushGo_inBlocks (n : Nat) : ∀ d : Dev, Dev.Writes (InBlocks hostEventBlocks) d (Dev.canFlushGo n d c) := by
  induction n with
  | zero => exact fun d => .refl _ d
  | succ n ih =>
    intro d
    unfold Dev.canFlushGo
    split
    · exact .refl _ d
    · next e rest _ =>
      have hreach := d.ringReach_inBlocks (16 + 2 * (c - 2))
      refine .ite ?_ hreach
      refine .trans (.trans hreach ?_) (ih _)
      exact Dev.ringFrameGo_inBlocks (16 + 2 * (c - 2)) 81 (((d.ringReach (16 + 2 * (c - 2))).setCan c _)) (canBytes e) e.mb true

theorem Dev.canFlush_writes (d : Dev) : Dev.Writes (FieldsOrHostEvent (canRingFlds c)) d (d.canFlush c) := by
  refine .field (.ite ?_ (.refl _ d)) (by simp [canRingFlds])
  exact (Dev.canFlushGo_inBlocks c 64 d).mono fun _ _ => .inr

theorem Dev.canToRing_writes (d : Dev) (e : CanEntry) : Dev.Writes (FieldsOrHostEvent (canRingFlds c)) d (d.canToRing c e) := by
  unfold Dev.canToRing
  refine .ite (.canRxEvent (.field (.refl _ d) (by simp [canRingFlds])) _ _) ?_
  exact Dev.canFlush_writes c (d.setCan c { d.canRt c with ring := (d.canRt c).ring ++ [e] })

/-- The receive ring leaves the mailboxes. -/
theorem Dev.Writes.rd_mailbox {c : Nat} {d e : Dev} (h : Dev.Writes (FieldsOrHostEvent (canRingFlds c)) d e) {f : Nat → Fld}
    (hf : InMailbox f) : e.rd (canAt c f) = d.rd (canAt c f) := by
  refine h.rd_of_fields (canAt_block hf.block) (List.forall_mem_cons.mpr ⟨canAt_key_ne fun i => ?_,
    List.forall_mem_singleton.mpr (canAt_key_ne fun i => ?_)⟩)
  · obtain ⟨-, hlast, hlo⟩ := hf i
    simp only [Fld.key, R.FCAN_RXSTAT.ENTRIES]
    omega
  · obtain ⟨hfirst, -, -⟩ := hf i
    simp only [Fld.key, R.FCAN_CNT.RINGOVR]
    omega

end

/-! ## What a mailbox holds -/

/-- Writes to registers of different places in one pass: each reads the value written. -/
theorem Dev.rd_forAll_wr {α : Type} {xs : List α} {f : α → Fld} (v : α → Nat) {k : α} (hk : k ∈ xs)
    (hkeys : ∀ j ∈ xs, j ≠ k → (f j).key ≠ (f k).key) (d : Dev) :
    (d.forAll xs fun d j => d.wr (f j) (v j)).rd (f k) = v k % 2 ^ (f k).width := by
  unfold Dev.forAll
  induction xs generalizing d with
  | nil => exact absurd hk List.not_mem_nil
  | cons x xs ih =>
    obtain ⟨hx, hxs⟩ := List.forall_mem_cons.mp hkeys
    by_cases hmem : k ∈ xs
    · exact ih hmem hxs _
    · obtain rfl : k = x := (List.mem_cons.mp hk).resolve_right hmem
      have hrest : ((d.wr (f k) (v k)).forAll xs fun d j => d.wr (f j) (v j)).rd (f k) = (d.wr (f k) (v k)).rd (f k) :=
        Dev.Writes.rd_eq (W := fun g _ => g.key ≠ (f k).key)
          (.forAll_mem (.refl _ _) fun e y hy => (Dev.Writes.refl _ e).wr (hxs y hy (ne_of_mem_of_not_mem hy hmem))) fun _ _ h => h
      exact hrest.trans (Dev.rd_wr _ _ _)

section
variable (d : Dev) (c m : Nat)

theorem canWord_key_ne {j k : Nat} (hj : j < 18) (hk : k < 18) (hne : j ≠ k) :
    (canAt c fun i => R.FCAN_MB.WORD i m j).key ≠ (canAt c fun i => R.FCAN_MB.WORD i m k).key :=
  canAt_key_ne fun i => by
    simp only [Fld.key, R.FCAN_MB.WORD]
    omega

/-- The words of a frame put into a mailbox read back. -/
theorem Dev.mbPut_word (e : CanEntry) {k : Nat} (hk : k < 18) :
    (d.mbPut c m e).rd (canAt c fun i => R.FCAN_MB.WORD i m k) = numAt e.words k % 2 ^ 32 := by
  have h := Dev.rd_forAll_wr (f := fun k => canAt c fun i => R.FCAN_MB.WORD i m k) (numAt e.words) (List.mem_range.mpr hk)
    (fun j hj hne => canWord_key_ne c m (List.mem_range.mp hj) hk hne)
    (d.setCan c { d.canRt c with mbs := setAt (d.canRt c).mbs m { (d.canRt c).mbs.getD m {} with stamp := e.stamp } })
  refine Eq.trans h ?_
  rw [canAt_width (w := 32) fun i => rfl]

/-- A frame put into a mailbox leaves every field but its words. -/
theorem Dev.mbPut_writes (e : CanEntry) :
    Dev.Writes (fun f _ => ∃ k, f = canAt c fun i => R.FCAN_MB.WORD i m k) d (d.mbPut c m e) :=
  .forAll (.of_regs (.refl _ d) rfl) fun e k => (Dev.Writes.refl _ e).wr ⟨k, rfl⟩

theorem Dev.mbPut_rd (e : CanEntry) {f : Nat → Fld} (hf : ∀ i k, (R.FCAN_MB.WORD i m k).key ≠ (f i).key) :
    (d.mbPut c m e).rd (canAt c f) = d.rd (canAt c f) := by
  refine (d.mbPut_writes c m e).rd_eq ?_
  rintro _ _ ⟨k, rfl⟩
  exact canAt_key_ne fun i => hf i k

end

/-! ## The status of a mailbox (R357, R358) -/

section
variable (c m k : Nat)

theorem mbWord_ne_new : (canAt c fun i => R.FCAN_MB.WORD i m k).key ≠ (mbNew c m).key :=
  canAt_key_ne fun i => by
    simp only [Fld.key, R.FCAN_MB.WORD, R.FCAN_MBSTAT.NEW]
    omega

theorem mbWord_ne_lock : (canAt c fun i => R.FCAN_MB.WORD i m k).key ≠ (mbLock c m).key :=
  canAt_key_ne fun i => by
    simp only [Fld.key, R.FCAN_MB.WORD, R.FCAN_MBSTAT.LOCK]
    omega

theorem mbWord_ne_shadow : (canAt c fun i => R.FCAN_MB.WORD i m k).key ≠ (mbShadow c m).key :=
  canAt_key_ne fun i => by
    simp only [Fld.key, R.FCAN_MB.WORD, R.FCAN_MBSTAT.SHADOW]
    omega

theorem mbNew_ne_lock : (mbNew c m).key ≠ (mbLock c m).key :=
  canAt_key_ne fun i => by
    simp only [Fld.key, R.FCAN_MBSTAT.NEW, R.FCAN_MBSTAT.LOCK]
    omega

theorem mbNew_ne_shadow : (mbNew c m).key ≠ (mbShadow c m).key :=
  canAt_key_ne fun i => by
    simp only [Fld.key, R.FCAN_MBSTAT.NEW, R.FCAN_MBSTAT.SHADOW]
    omega

theorem mbLock_ne_shadow : (mbLock c m).key ≠ (mbShadow c m).key :=
  canAt_key_ne fun i => by
    simp only [Fld.key, R.FCAN_MBSTAT.LOCK, R.FCAN_MBSTAT.SHADOW]
    omega

theorem mbLock_ne_stamp : (canAt c fun i => R.FCAN_MBTS.NS i m).key ≠ (mbLock c m).key :=
  canAt_key_ne fun i => by
    simp only [Fld.key, R.FCAN_MBTS.NS, R.FCAN_MBSTAT.LOCK]
    omega

theorem mbNew_width : (mbNew c m).width = 1 := canAt_width fun _ => rfl

theorem mbLock_width : (mbLock c m).width = 1 := canAt_width fun _ => rfl

theorem mbShadow_width : (mbShadow c m).width = 1 := canAt_width fun _ => rfl

end

section
variable (d : Dev) (c m : Nat)

theorem Dev.mbPut_rd_new (e : CanEntry) : (d.mbPut c m e).rd (mbNew c m) = d.rd (mbNew c m) :=
  (d.mbPut_writes c m e).rd_eq fun _ _ ⟨k, hk⟩ => hk ▸ mbWord_ne_new c m k

theorem Dev.mbPut_rd_lock (e : CanEntry) : (d.mbPut c m e).rd (mbLock c m) = d.rd (mbLock c m) :=
  (d.mbPut_writes c m e).rd_eq fun _ _ ⟨k, hk⟩ => hk ▸ mbWord_ne_lock c m k

theorem Dev.mbPut_rd_shadow (e : CanEntry) : (d.mbPut c m e).rd (mbShadow c m) = d.rd (mbShadow c m) :=
  (d.mbPut_writes c m e).rd_eq fun _ _ ⟨k, hk⟩ => hk ▸ mbWord_ne_shadow c m k

theorem Dev.setShadow_rd (e : Option CanEntry) {g : Fld} (h : (mbShadow c m).key ≠ g.key) : (d.setShadow c m e).rd g = d.rd g :=
  Dev.rd_wr_ne _ _ _ _ h

theorem Dev.setShadow_none : (d.setShadow c m none).rd (mbShadow c m) = 0 := Dev.rd_wrB _ false (mbShadow_width c m)

end

/-! ## A frame received (R356, R358, R359) -/

section
variable {d : Dev} {c : Nat} {ws : List Nat}

theorem Dev.canReceive_filtered (t : Nat)
    (hnone : ∀ m, m < 16 → d.mbMatches c m (numAt (canNormal ws) 0) (numAt (canNormal ws) 1) = false)
    (hring : d.on (canAt c R.FCAN_CTL.RINGALL) = false) : d.canReceive c ws t = d.bump (canAt c R.FCAN_CNT.FILTERED) := by
  have hfind : (List.range 16).find? (fun m => d.mbMatches c m (numAt (canNormal ws) 0) (numAt (canNormal ws) 1)) = none :=
    List.find?_eq_none.mpr fun m hm => by rw [hnone m (List.mem_range.mp hm)]; exact Bool.false_ne_true
  rw [Dev.canReceive]
  simp only [hfind, hring, Bool.false_eq_true, if_false]

/-- A frame of a mailbox that is unlocked and empty is put there; besides, the receive ring may take it. -/
theorem Dev.canReceive_stored (t : Nat) {m : Nat}
    (hfind : (List.range 16).find? (fun m => d.mbMatches c m (numAt (canNormal ws) 0) (numAt (canNormal ws) 1)) = some m)
    (hlock : d.on (mbLock c m) = false) (hnew : d.on (mbNew c m) = false) :
    Dev.Writes (FieldsOrHostEvent (canRingFlds c))
      ((d.mbPut c m { stamp := t, words := canNormal ws, mb := m }).wr (mbNew c m) 1) (d.canReceive c ws t) := by
  rw [Dev.canReceive]
  simp only [hfind, Dev.mbStore, hlock, hnew, Bool.false_eq_true, if_false]
  exact .ite ((Dev.Writes.canRxEvent (.refl _ _) _ _).trans (Dev.canToRing_writes ..)) (.canRxEvent (.refl _ _) _ _)

end

/-! ## Mailbox reads and filter writes (R356, R357) -/

section
variable {d : Dev} {c m : Nat}

/-- The last word of the frame in a mailbox read. -/
def Dev.mbReadLast (d : Dev) (c m : Nat) : Dev := { d with lastRead := d.rd (canAt c (fun i => R.FCAN_MB.WORD i m (d.mbLast c m))) }

theorem Dev.mbRead_last : d.mbRead c m (d.mbLast c m) = (d.mbReadLast c m).mbRelease c m := by
  have hlast : d.mbLast c m ≠ 0 := by
    unfold Dev.mbLast
    omega
  rw [Dev.mbRead, if_neg hlast]
  exact if_pos rfl

theorem Dev.mbReadLock_shown : (d.mbReadLock c m).rd (mbLock c m) = 1 ∧
    (d.mbReadLock c m).lastRead = d.rd (canAt c (fun i => R.FCAN_MB.WORD i m 0)) ∧ (d.mbReadLock c m).can = d.can ∧
    d.RegsBut [mbLock c m, canAt c (fun i => R.FCAN_MBTS.NS i m)] (d.mbReadLock c m) := by
  unfold Dev.mbReadLock
  dsimp only
  split
  · next hlock => exact ⟨of_decide_eq_true hlock, rfl, rfl, .of_eq _ rfl⟩
  · refine ⟨?_, rfl, rfl, .wr (.wr (.of_eq _ rfl) List.mem_cons_self) (List.mem_cons_of_mem _ List.mem_cons_self)⟩
    rw [Dev.rd_wr_ne _ _ _ _ (mbLock_ne_stamp c m)]
    exact Dev.rd_wr_one _ (mbLock_width c m)

theorem Dev.mbRelease_unlocked (h : d.on (mbLock c m) = false) : d.mbRelease c m = d := by
  rw [Dev.mbRelease, if_neg (by rw [h]; exact Bool.false_ne_true)]

theorem Dev.mbRelease_empty (h : d.on (mbLock c m) = true) (hshadow : ((d.canRt c).mbs.getD m {}).shadow = none) :
    d.mbRelease c m = (d.wr (mbLock c m) 0).wr (mbNew c m) 0 := by
  have hshadow' : (((d.wr (mbLock c m) 0).canRt c).mbs.getD m {}).shadow = none := hshadow
  rw [Dev.mbRelease, if_pos h]
  simp only [hshadow']

theorem Dev.mbRelease_shadow {e : CanEntry} (h : d.on (mbLock c m) = true) (hshadow : ((d.canRt c).mbs.getD m {}).shadow = some e) :
    d.mbRelease c m = ((d.wr (mbLock c m) 0).setShadow c m none).mbPut c m e := by
  have hshadow' : (((d.wr (mbLock c m) 0).canRt c).mbs.getD m {}).shadow = some e := hshadow
  rw [Dev.mbRelease, if_pos h]
  simp only [hshadow']

/-- A mailbox emptied with its shadow. -/
def Dev.mbEmpty (d : Dev) (c m : Nat) : Dev :=
  (((d.mbPut c m { words := [] }).setShadow c m none).wr (mbNew c m) 0).wr (mbLock c m) 0

theorem Dev.mbEmpty_shown (d : Dev) (c m : Nat) : (d.mbEmpty c m).rd (mbNew c m) = 0 ∧ (d.mbEmpty c m).rd (mbLock c m) = 0 ∧
    (d.mbEmpty c m).rd (mbShadow c m) = 0 ∧ ∀ k, k < 18 → (d.mbEmpty c m).rd (canAt c fun i => R.FCAN_MB.WORD i m k) = 0 := by
  refine ⟨?_, ?_, ?_, fun k hk => ?_⟩
  · rw [Dev.mbEmpty, Dev.rd_wr_ne _ _ _ _ (mbNew_ne_lock c m).symm, Dev.rd_wr, Nat.zero_mod]
  · rw [Dev.mbEmpty, Dev.rd_wr, Nat.zero_mod]
  · rw [Dev.mbEmpty, Dev.rd_wr_ne _ _ _ _ (mbLock_ne_shadow c m), Dev.rd_wr_ne _ _ _ _ (mbNew_ne_shadow c m), Dev.setShadow_none]
  · rw [Dev.mbEmpty, Dev.rd_wr_ne _ _ _ _ (mbWord_ne_lock c m k).symm, Dev.rd_wr_ne _ _ _ _ (mbWord_ne_new c m k).symm,
      Dev.setShadow_rd _ _ _ _ (mbWord_ne_shadow c m k).symm, Dev.mbPut_word _ _ _ _ hk]
    rfl

/-- Emptying a mailbox leaves every field but its words and its status. -/
theorem Dev.mbEmpty_rd (d : Dev) {f : Nat → Fld} (hword : ∀ i k, (R.FCAN_MB.WORD i m k).key ≠ (f i).key)
    (hstat : ∀ i, ∀ g ∈ [R.FCAN_MBSTAT.LOCK i m, R.FCAN_MBSTAT.NEW i m, R.FCAN_MBSTAT.SHADOW i m], g.key ≠ (f i).key) :
    (d.mbEmpty c m).rd (canAt c f) = d.rd (canAt c f) := by
  simp only [List.forall_mem_cons] at hstat
  have hlock : (mbLock c m).key ≠ (canAt c f).key := canAt_key_ne fun i => (hstat i).1
  have hnew : (mbNew c m).key ≠ (canAt c f).key := canAt_key_ne fun i => (hstat i).2.1
  have hshadow : (mbShadow c m).key ≠ (canAt c f).key := canAt_key_ne fun i => (hstat i).2.2.1
  rw [Dev.mbEmpty, Dev.rd_wr_ne _ _ _ _ hlock, Dev.rd_wr_ne _ _ _ _ hnew, Dev.setShadow_rd _ _ _ _ hshadow, Dev.mbPut_rd _ _ _ _ hword]

/-- The filter register that a write names takes its value. -/
def Dev.mbFilterReg (d : Dev) (c m reg v : Nat) : Dev :=
  let w := fun (d : Dev) (g : Nat → Nat → Fld) (x : Nat) => d.wr (canAt c (fun i => g i m)) x
  match reg with
  | 0 => w d R.FCAN_MBFLT.ID (v % 2 ^ 29)
  | 1 => w d R.FCAN_MBMASK.MASK (v % 2 ^ 29)
  | _ => w (w (w (w d R.FCAN_MBCFG.FDFCHK (bit v 5)) R.FCAN_MBCFG.FDF (bit v 4)) R.FCAN_MBCFG.IDE (bit v 3)) R.FCAN_MBCFG.MODE (v % 4)

theorem Dev.mbFilter_eq (d : Dev) (c m reg v : Nat) : d.mbFilter c m reg v = (d.mbFilterReg c m reg v).mbEmpty c m := rfl

theorem Dev.mbFilter_id (d : Dev) (c m v : Nat) : (d.mbFilter c m 0 v).rd (canAt c fun i => R.FCAN_MBFLT.ID i m) = v % 2 ^ 29 := by
  have hne : ((d.mbFilterReg c m 0 v).mbEmpty c m).rd (canAt c fun i => R.FCAN_MBFLT.ID i m) =
      (d.mbFilterReg c m 0 v).rd (canAt c fun i => R.FCAN_MBFLT.ID i m) := by
    refine Dev.mbEmpty_rd _ (fun i k => ?_) fun i => ?_
    · simp only [Fld.key, R.FCAN_MB.WORD, R.FCAN_MBFLT.ID]
      omega
    · simp only [List.forall_mem_cons, Fld.key, R.FCAN_MBSTAT.LOCK, R.FCAN_MBSTAT.NEW, R.FCAN_MBSTAT.SHADOW, R.FCAN_MBFLT.ID]
      exact ⟨by omega, by omega, by omega, fun _ h => absurd h List.not_mem_nil⟩
  rw [Dev.mbFilter_eq, hne]
  refine (Dev.rd_wr _ _ _).trans ?_
  rw [canAt_width (w := 29) fun _ => rfl, Nat.mod_mod]

theorem Dev.mbFilter_mask (d : Dev) (c m v : Nat) :
    (d.mbFilter c m 1 v).rd (canAt c fun i => R.FCAN_MBMASK.MASK i m) = v % 2 ^ 29 := by
  have hne : ((d.mbFilterReg c m 1 v).mbEmpty c m).rd (canAt c fun i => R.FCAN_MBMASK.MASK i m) =
      (d.mbFilterReg c m 1 v).rd (canAt c fun i => R.FCAN_MBMASK.MASK i m) := by
    refine Dev.mbEmpty_rd _ (fun i k => ?_) fun i => ?_
    · simp only [Fld.key, R.FCAN_MB.WORD, R.FCAN_MBMASK.MASK]
      omega
    · simp only [List.forall_mem_cons, Fld.key, R.FCAN_MBSTAT.LOCK, R.FCAN_MBSTAT.NEW, R.FCAN_MBSTAT.SHADOW, R.FCAN_MBMASK.MASK]
      exact ⟨by omega, by omega, by omega, fun _ h => absurd h List.not_mem_nil⟩
  rw [Dev.mbFilter_eq, hne]
  refine (Dev.rd_wr _ _ _).trans ?_
  rw [canAt_width (w := 29) fun _ => rfl, Nat.mod_mod]

theorem Dev.mbFilter_mode (d : Dev) (c m v : Nat) : (d.mbFilter c m 2 v).rd (canAt c fun i => R.FCAN_MBCFG.MODE i m) = v % 4 := by
  have hne : ((d.mbFilterReg c m 2 v).mbEmpty c m).rd (canAt c fun i => R.FCAN_MBCFG.MODE i m) =
      (d.mbFilterReg c m 2 v).rd (canAt c fun i => R.FCAN_MBCFG.MODE i m) := by
    refine Dev.mbEmpty_rd _ (fun i k => ?_) fun i => ?_
    · simp only [Fld.key, R.FCAN_MB.WORD, R.FCAN_MBCFG.MODE]
      omega
    · simp only [List.forall_mem_cons, Fld.key, R.FCAN_MBSTAT.LOCK, R.FCAN_MBSTAT.NEW, R.FCAN_MBSTAT.SHADOW, R.FCAN_MBCFG.MODE]
      exact ⟨by omega, by omega, by omega, fun _ h => absurd h List.not_mem_nil⟩
  rw [Dev.mbFilter_eq, hne]
  refine (Dev.rd_wr _ _ _).trans ?_
  rw [canAt_width (w := 2) fun _ => rfl]
  exact Nat.mod_mod v 4

end

/-! ## The receive ring of FCAN -/

theorem Dev.canRt_setCan_self {d : Dev} {c : Nat} (x : CanRt) (h : c < d.can.length) : (d.setCan c x).canRt c = x :=
  getD_setAt_self x {} h

/-- FCAN has no ring of descriptors: RXPOP only shows the entries left. -/
theorem Dev.canPop_fcan {d : Dev} {c : Nat} (hc : c < 2) (hlen : c < d.can.length) :
    d.canPop c = (d.setCan c { d.canRt c with ring := (d.canRt c).ring.drop 1 }).wr (canAt c R.FCAN_RXSTAT.ENTRIES)
      ((d.canRt c).ring.drop 1).length := by
  rw [Dev.canPop, Dev.canFlush, if_neg (by omega), Dev.canRt_setCan_self _ hlen]

/-- Settles O46: a frame received, the reads of a mailbox, RXPOP and a filter write. -/
theorem canReception : Obligations.CanReception := by
  intro s c hon
  refine ⟨fun ws hbus hnone hring => answers_of_onCan (exec_canFrameReceived c s ws) hon ?_,
    fun ws m hbus hfind hlock hnew => answers_of_onCan (exec_canFrameReceived c s ws) hon ?_,
    fun ws hbus => answers_of_onCan (exec_canFrameReceived c s ws) hon (if_neg (by rw [hbus]; exact Bool.false_ne_true)),
    fun m => answers_of_onCan (exec_canMailboxLock c s m) hon Dev.mbReadLock_shown,
    fun m hlock hshadow => answers_of_onCan (exec_canMailboxRelease c s m) hon ?_,
    fun m e hlock hshadow => answers_of_onCan (exec_canMailboxRelease c s m) hon ?_,
    fun m hlock => answers_of_onCan (exec_canMailboxRelease c s m) hon (Dev.mbRead_last.trans (Dev.mbRelease_unlocked (d := s.dev.mbReadLast c m) hlock)),
    fun f h4 hlen => ?_, fun m r v => answers_of_onCan (exec_canFilterWrite c s m r v) hon ?_⟩
  · have hword : ∀ m k, (s.dev.canGood c false).rd (canAt c fun i => R.FCAN_MB.WORD i m k) =
        s.dev.rd (canAt c fun i => R.FCAN_MB.WORD i m k) := fun m k => s.dev.canGood_rd_mailbox (inMailbox_WORD m k)
    have hall : (s.dev.canGood c false).on (canAt c R.FCAN_CTL.RINGALL) = false := by
      rw [Dev.on, Dev.canGood_ringall]
      exact hring
    rw [if_pos hbus, Dev.canReceive_filtered _ (fun m hm => (s.dev.canGood_mbMatches c m _ _).trans (hnone m hm)) hall, Dev.rd_bump,
      s.dev.canGood_filtered c, canAt_width (w := 8) fun _ => rfl]
    refine ⟨rfl, fun m k => ?_⟩
    rw [Dev.bump, Dev.bumpBy, Dev.rd_wr_ne, hword]
    exact canAt_key_ne fun i => by
      simp only [Fld.key, R.FCAN_CNT.FILTERED, R.FCAN_MB.WORD]
      omega
  · have hlock' : (s.dev.canGood c false).rd (mbLock c m) = s.dev.rd (mbLock c m) := s.dev.canGood_rd_mailbox (inMailbox_LOCK m)
    have hnew' : (s.dev.canGood c false).rd (mbNew c m) = s.dev.rd (mbNew c m) := s.dev.canGood_rd_mailbox (inMailbox_NEW m)
    have hfind' : (List.range 16).find? (fun m => (s.dev.canGood c false).mbMatches c m (numAt (canNormal ws) 0)
        (numAt (canNormal ws) 1)) = some m := by simpa only [Dev.canGood_mbMatches] using hfind
    have hw := Dev.canReceive_stored (s.dev.canNow c) hfind' (by rw [Dev.on, hlock']; exact hlock) (by rw [Dev.on, hnew']; exact hnew)
    rw [if_pos hbus]
    refine ⟨?_, ?_, fun k hk => ?_⟩
    · rw [mbNew, hw.rd_mailbox (inMailbox_NEW m)]
      exact Dev.rd_wr_one _ (mbNew_width c m)
    · rw [Dev.on, mbLock, hw.rd_mailbox (inMailbox_LOCK m), ← mbLock, Dev.rd_wr_ne _ _ _ _ (mbNew_ne_lock c m), Dev.mbPut_rd_lock, hlock']
      exact hlock
    · rw [hw.rd_mailbox (inMailbox_WORD m k), Dev.rd_wr_ne _ _ _ _ (mbWord_ne_new c m k).symm, Dev.mbPut_word _ _ _ _ hk]
  · rw [Dev.mbRead_last, Dev.mbRelease_empty (d := s.dev.mbReadLast c m) hlock hshadow]
    refine ⟨?_, ?_, rfl, .wr (.wr (.of_eq _ rfl) List.mem_cons_self) (List.mem_cons_of_mem _ List.mem_cons_self)⟩
    · rw [Dev.rd_wr_ne _ _ _ _ (mbNew_ne_lock c m), Dev.rd_wr, Nat.zero_mod]
    · rw [Dev.rd_wr, Nat.zero_mod]
  · rw [Dev.mbRead_last, Dev.mbRelease_shadow (d := s.dev.mbReadLast c m) hlock hshadow]
    refine ⟨?_, ?_, ?_, fun k hk => Dev.mbPut_word _ _ _ _ hk⟩
    · rw [Dev.mbPut_rd_lock, Dev.setShadow_rd _ _ _ _ (mbLock_ne_shadow c m).symm, Dev.rd_wr, Nat.zero_mod]
    · rw [Dev.mbPut_rd_shadow, Dev.setShadow_none]
    · rw [Dev.mbPut_rd_new, Dev.setShadow_rd _ _ _ _ (mbNew_ne_shadow c m).symm, Dev.rd_wr_ne _ _ _ _ (mbNew_ne_lock c m).symm]
      rfl
  · have hdom : s.dev.domOn (canDom f) = true := by rwa [canDom, if_pos f.isLt]
    refine answers_of_onCan (exec_canRxpop s f) hdom ?_
    rw [Dev.canPop_fcan f.isLt hlen]
    refine ⟨congrArg CanRt.ring (Dev.canRt_setCan_self _ hlen), ?_, .wr (.of_eq _ rfl) List.mem_cons_self⟩
    rw [Dev.rd_wr, List.length_drop, canAt_width (w := 7) fun _ => rfl]
  · obtain ⟨hnew, hlock, hshadow, hword⟩ := (s.dev.mbFilterReg c m r v).mbEmpty_shown c m
    refine ⟨hnew, hlock, hshadow, fun h => ?_, fun h => ?_, fun h => ?_, hword⟩
    · rw [h]
      exact s.dev.mbFilter_id c m v
    · rw [h]
      exact s.dev.mbFilter_mask c m v
    · rw [h]
      exact s.dev.mbFilter_mode c m v

end Sys2Proof.Machine
end

section
/-! Tokens of either die and the health of its random source (R363, R365, R373, R374, R383, R400): the fields of each die, what a
token leaves in them and in the fuses, and what the enclave answers besides. -/

namespace Sys2Proof.Machine

/-! ## The fields of a die -/

def tokResultFld : Side → Fld | .field => R.FSEC_TOKSTAT.RESULT | .host => R.SEC_TOKSTAT.RESULT

def tokCodeFld : Side → Fld | .field => R.FSEC_TOKSTAT.CODE | .host => R.SEC_TOKSTAT.CODE

def tokKindFld : Side → Fld | .field => R.FSEC_TOKSTAT.KIND | .host => R.SEC_TOKSTAT.KIND

def dbgArmFld : Side → Fld | .field => R.FSEC_STATE.DBGARM | .host => R.SEC_STATE.DBGARM

def lcPendFld : Side → Fld | .field => R.FSEC_STATE.LCPEND | .host => R.SEC_STATE.LCPEND

def lcFld : Side → Fld | .field => R.FSEC_STATE.LC | .host => R.SEC_STATE.LC

/-- The registers of TOKSTAT and of the challenge, which a token writes on every die. -/
def tokFlds (side : Side) : List Fld := [tokResultFld side, tokCodeFld side, tokKindFld side]

section
variable (d : Dev) (side : Side)

theorem Dev.raiseOn_rd (nF nH kind : Nat) (data : List Nat) {g : Fld} (hg : g.block ∉ hostEventBlocks) :
    (d.raiseOn side nF nH kind data).rd g = d.rd g := by
  cases side with
  | field => exact d.raise_rd nF kind data g
  | host => exact d.raiseH_rd nH kind data hg

theorem Dev.tokStat_shown (kind : Nat) {code : Nat} (hcode : code < 256) :
    (d.tokStat side kind code).rd (tokResultFld side) = (if code = 0 then 2 else 3) ∧
    (d.tokStat side kind code).rd (tokCodeFld side) = code ∧ (d.tokStat side kind code).rd (tokKindFld side) = kind % 256 := by
  have hres : (if code = 0 then 2 else 3) < 2 ^ 2 := by split <;> decide
  cases side with
  | field =>
    refine ⟨(Dev.raise_rd ..).trans ?_, (Dev.raise_rd ..).trans ?_, (Dev.raise_rd ..).trans ?_⟩
    · refine (Dev.rd_wrAll_head _ (f := R.FSEC_TOKSTAT.RESULT) (by simp only [List.forall_mem_cons]; decide)).trans ?_
      exact Nat.mod_eq_of_lt hres
    · refine Eq.trans (Dev.rd_wrAll_head (d.wr R.FSEC_TOKSTAT.RESULT (if code = 0 then 2 else 3)) (f := R.FSEC_TOKSTAT.CODE)
        (by simp only [List.forall_mem_cons]; decide)) ?_
      exact Nat.mod_eq_of_lt hcode
    · exact Dev.rd_wr _ _ _
  | host =>
    refine ⟨(Dev.raiseH_rd _ _ _ _ (by decide)).trans ?_, (Dev.raiseH_rd _ _ _ _ (by decide)).trans ?_,
      (Dev.raiseH_rd _ _ _ _ (by decide)).trans ?_⟩
    · refine (Dev.rd_wrAll_head _ (f := R.SEC_TOKSTAT.RESULT) (by simp only [List.forall_mem_cons]; decide)).trans ?_
      exact Nat.mod_eq_of_lt hres
    · refine Eq.trans (Dev.rd_wrAll_head (d.wr R.SEC_TOKSTAT.RESULT (if code = 0 then 2 else 3)) (f := R.SEC_TOKSTAT.CODE)
        (by simp only [List.forall_mem_cons]; decide)) ?_
      exact Nat.mod_eq_of_lt hcode
    · exact Dev.rd_wr _ _ _

/-- A field that is none of TOKSTAT, and none that a host event may write. -/
theorem Dev.tokStat_rd (kind code : Nat) {g : Fld} (hg : g.block ∉ hostEventBlocks) (hfs : ∀ f ∈ tokFlds side, f.key ≠ g.key) :
    (d.tokStat side kind code).rd g = d.rd g := by
  have hwr : ∀ v w x, (d.wrAll [(tokResultFld side, v), (tokCodeFld side, w), (tokKindFld side, x)]).rd g = d.rd g := fun v w x => by
    refine Dev.rd_wrAll_other d ?_
    simp only [tokFlds, List.forall_mem_cons] at hfs ⊢
    exact ⟨hfs.1, hfs.2.1, hfs.2.2.1, fun _ h => absurd h List.not_mem_nil⟩
  cases side with
  | field => exact (Dev.raise_rd ..).trans (hwr _ _ _)
  | host => exact (Dev.raiseH_rd _ _ _ _ hg).trans (hwr _ _ _)

/-- A field outside the challenge registers of both dies. -/
theorem Dev.newChal_rd {g : Fld} (hF : g.key < 0x002A0040 * 32 ∨ 0x002A0050 * 32 ≤ g.key)
    (hH : g.key < 0x20070040 * 32 ∨ 0x20070050 * 32 ≤ g.key) : (d.newChal side).rd g = d.rd g := by
  refine Dev.forAll_keeps (fun e => e.rd g) fun e i => ?_
  cases side with
  | field =>
    refine Dev.rd_wr_ne (e.drawFree (2 ^ 32)).2 (R.FSEC_CHAL.WORD i) g _ ?_
    simp only [Fld.key, R.FSEC_CHAL.WORD] at hF ⊢
    omega
  | host =>
    refine Dev.rd_wr_ne (e.drawFree (2 ^ 32)).2 (R.SEC_CHAL.WORD i) g _ ?_
    simp only [Fld.key, R.SEC_CHAL.WORD] at hH ⊢
    omega

theorem Dev.newChal_rd_state {g : Fld} (hg : g = dbgArmFld side ∨ g = lcPendFld side ∨ g = lcFld side) :
    (d.newChal side).rd g = d.rd g := by
  cases side <;> obtain rfl | rfl | rfl := hg <;> exact Dev.newChal_rd d _ (by decide) (by decide)

theorem Dev.tokStat_rd_state (kind code : Nat) {g : Fld} (hg : g = dbgArmFld side ∨ g = lcPendFld side ∨ g = lcFld side) :
    (d.tokStat side kind code).rd g = d.rd g := by
  cases side <;> obtain rfl | rfl | rfl := hg <;>
    exact Dev.tokStat_rd d _ kind code (by decide) (by simp only [tokFlds, List.forall_mem_cons]; decide)

theorem Dev.slotShow_rd_lc : (d.slotShow side).rd (lcFld side) = d.rd (lcFld side) := by
  cases side <;> exact Dev.rd_wrAll_other _ (by simp only [List.forall_mem_cons]; decide)

theorem Dev.tokStat_fuses (kind code : Nat) :
    (d.tokStat side kind code).ffuse = d.ffuse ∧ (d.tokStat side kind code).hfuse = d.hfuse :=
  have h := (d.tokStat_reach side kind code).onlyIn
  ⟨h.ffuse rfl, h.hfuse rfl⟩

theorem Dev.newChal_fuses : (d.newChal side).ffuse = d.ffuse ∧ (d.newChal side).hfuse = d.hfuse :=
  have h := (d.newChal_reach side).onlyIn
  ⟨h.ffuse rfl, h.hfuse rfl⟩

theorem Dev.slotShow_fuses : (d.slotShow side).ffuse = d.ffuse ∧ (d.slotShow side).hfuse = d.hfuse :=
  have h := (d.slotShow_reach side).onlyIn
  ⟨h.ffuse rfl, h.hfuse rfl⟩

theorem Dev.fuses_eq {d e : Dev} (h : e.ffuse = d.ffuse ∧ e.hfuse = d.hfuse) (side : Side) : e.fuses side = d.fuses side := by
  cases side with
  | field => exact h.1
  | host => exact h.2

end

/-! ## A token by its checks (R363, R373, R374, Table 19-7) -/

section
variable (d : Dev) (side : Side) (kind : Nat) (tok : List Byte)

theorem Dev.tokenCode_lt : d.tokenCode side kind tok < 256 := by
  unfold Dev.tokenCode
  dsimp only
  split_ifs <;> decide

theorem Dev.injTokenCode_lt : d.injTokenCode side tok < 256 := by
  unfold Dev.injTokenCode
  dsimp only
  split_ifs <;> decide

variable {d side kind tok}

theorem Dev.token_refused (h : d.tokenCode side kind tok ≠ 0) (ok : Bool) :
    d.token side kind tok ok = (d.tokStat side (leAt tok 4 1) (d.tokenCode side kind tok), false) := if_pos h

theorem Dev.token_arms (h : d.tokenCode side 1 tok = 0) (ok : Bool) :
    d.token side 1 tok ok = (((d.wr (dbgArmFld side) 1).newChal side).tokStat side 1 0, true) := by
  unfold Dev.token
  simp only [h, ne_eq, not_true_eq_false, if_false, if_true]
  cases side <;> rfl

theorem Dev.token_failed (h : d.tokenCode side kind tok = 0) (hkind : kind ≠ 1) : d.token side kind tok false =
    (((d.blow side kind (leAt tok 6 1) (slice tok 32 48) false).slotShow side).tokStat side kind 8, false) := by
  unfold Dev.token
  simp only [h, hkind, ne_eq, not_true_eq_false, if_false, if_true]

/-- The die after the fuses of an accepted token are blown. -/
def Dev.tokenBlown (d : Dev) (side : Side) (kind : Nat) (tok : List Byte) : Dev :=
  let e := (d.blow side kind (leAt tok 6 1) (slice tok 32 48) true).slotShow side
  if kind = 2 then e.wr (lcPendFld side) 1 else e

theorem Dev.token_done (h : d.tokenCode side kind tok = 0) (hkind : kind ≠ 1) :
    d.token side kind tok true = (((d.tokenBlown side kind tok).newChal side).tokStat side kind 0, true) := by
  unfold Dev.token Dev.tokenBlown
  simp only [h, hkind, ne_eq, not_true_eq_false, if_false, Bool.true_eq_false]
  cases side <;> rfl

theorem Dev.tokenBlown_fuses : (d.tokenBlown side kind tok).fuses side =
    (d.blow side kind (leAt tok 6 1) (slice tok 32 48) true).fuses side := by
  refine Eq.trans ?_ (Dev.fuses_eq (Dev.slotShow_fuses _ side) side)
  unfold Dev.tokenBlown
  dsimp only
  split
  · cases side <;> rfl
  · rfl

theorem Dev.blow_lc (target : Nat) (hash : List Byte) :
    ((d.blow side 2 target hash true).fuses side).lc = lcBlown (d.fuses side).lc target := by cases side <;> rfl

theorem Dev.blow_slots (target : Nat) (hash : List Byte) :
    ((d.blow side 3 target hash true).fuses side).slots = setAt (d.fuses side).slots target (some hash) ∧
    ((d.blow side 3 target hash true).fuses side).lc = (d.fuses side).lc := by cases side <;> exact ⟨rfl, rfl⟩

theorem Dev.blow_rev (target : Nat) (hash : List Byte) :
    ((d.blow side 4 target hash true).fuses side).rev = setBit (d.fuses side).rev target ∧
    ((d.blow side 4 target hash true).fuses side).slots = (d.fuses side).slots := by cases side <;> exact ⟨rfl, rfl⟩

theorem Dev.blow_rd (target : Nat) (hash : List Byte) (g : Fld) : (d.blow side 2 target hash true).rd g = d.rd g := by
  cases side <;> rfl

/-- LCPEND shows a lifecycle token, while LC stays until the next reset. -/
theorem Dev.tokenBlown_lc : (d.tokenBlown side 2 tok).rd (lcPendFld side) = 1 ∧
    (d.tokenBlown side 2 tok).rd (lcFld side) = d.rd (lcFld side) := by
  rw [Dev.tokenBlown, if_pos rfl]
  refine ⟨(Dev.rd_wr _ _ _).trans (by cases side <;> rfl), ?_⟩
  rw [Dev.rd_wr_ne _ _ _ _ (by cases side <;> decide), Dev.slotShow_rd_lc, Dev.blow_rd]

/-! ### What a token leaves behind -/

theorem Dev.token_refused_shown (h : d.tokenCode side kind tok ≠ 0) (ok : Bool) :
    let t := (d.token side kind tok ok).1
    t.rd (tokResultFld side) = 3 ∧ t.rd (tokCodeFld side) = d.tokenCode side kind tok ∧ t.ffuse = d.ffuse ∧ t.hfuse = d.hfuse := by
  obtain ⟨hres, hcode, -⟩ := d.tokStat_shown side (leAt tok 4 1) (d.tokenCode_lt side kind tok)
  rw [Dev.token_refused h ok]
  exact ⟨hres.trans (if_neg h), hcode, d.tokStat_fuses side _ _⟩

theorem Dev.token_arms_shown (h : d.tokenCode side 1 tok = 0) (ok : Bool) :
    let t := (d.token side 1 tok ok).1
    t.rd (tokResultFld side) = 2 ∧ t.rd (tokCodeFld side) = 0 ∧ t.rd (dbgArmFld side) = 1 ∧ t.ffuse = d.ffuse ∧ t.hfuse = d.hfuse := by
  obtain ⟨hres, hcode, -⟩ := ((d.wr (dbgArmFld side) 1).newChal side).tokStat_shown side 1 (code := 0) (by decide)
  obtain ⟨hf, hh⟩ := ((d.wr (dbgArmFld side) 1).newChal side).tokStat_fuses side 1 0
  obtain ⟨hf', hh'⟩ := (d.wr (dbgArmFld side) 1).newChal_fuses side
  rw [Dev.token_arms h ok]
  refine ⟨hres, hcode, ?_, hf.trans hf', hh.trans hh'⟩
  rw [Dev.tokStat_rd_state _ side _ _ (.inl rfl), Dev.newChal_rd_state _ side (.inl rfl), Dev.rd_wr]
  cases side <;> rfl

theorem Dev.token_failed_shown (h : d.tokenCode side kind tok = 0) (hkind : kind ≠ 1) :
    let t := (d.token side kind tok false).1
    t.rd (tokResultFld side) = 3 ∧ t.rd (tokCodeFld side) = 8 := by
  rw [Dev.token_failed h hkind]
  obtain ⟨hres, hcode, -⟩ := Dev.tokStat_shown ((d.blow side kind (leAt tok 6 1) (slice tok 32 48) false).slotShow side) side kind
    (code := 8) (by decide)
  exact ⟨hres, hcode⟩

theorem Dev.token_done_shown (h : d.tokenCode side kind tok = 0) (hkind : kind ≠ 1) :
    let t := (d.token side kind tok true).1
    t.rd (tokResultFld side) = 2 ∧ t.rd (tokCodeFld side) = 0 ∧
      t.fuses side = (d.blow side kind (leAt tok 6 1) (slice tok 32 48) true).fuses side := by
  obtain ⟨hres, hcode, -⟩ := ((d.tokenBlown side kind tok).newChal side).tokStat_shown side kind (code := 0) (by decide)
  rw [Dev.token_done h hkind]
  refine ⟨hres, hcode, ?_⟩
  exact (Dev.fuses_eq (Dev.tokStat_fuses _ side _ _) side).trans ((Dev.fuses_eq (Dev.newChal_fuses _ side) side).trans
    Dev.tokenBlown_fuses)

theorem Dev.token_lifecycle_shown (h : d.tokenCode side 2 tok = 0) :
    let t := (d.token side 2 tok true).1
    t.rd (tokResultFld side) = 2 ∧ t.rd (tokCodeFld side) = 0 ∧ (t.fuses side).lc = lcBlown (d.fuses side).lc (leAt tok 6 1) ∧
      t.rd (lcPendFld side) = 1 ∧ t.rd (lcFld side) = d.rd (lcFld side) := by
  obtain ⟨hres, hcode, hfuse⟩ := Dev.token_done_shown h (by decide)
  obtain ⟨hpend, hlc⟩ := Dev.tokenBlown_lc (d := d) (side := side) (tok := tok)
  refine ⟨hres, hcode, ?_, ?_, ?_⟩
  · rw [hfuse, Dev.blow_lc]
  · rw [Dev.token_done h (by decide), Dev.tokStat_rd_state _ side _ _ (.inr (.inl rfl)), Dev.newChal_rd_state _ side (.inr (.inl rfl)),
      hpend]
  · rw [Dev.token_done h (by decide), Dev.tokStat_rd_state _ side _ _ (.inr (.inr rfl)), Dev.newChal_rd_state _ side (.inr (.inr rfl)),
      hlc]

theorem Dev.token_program_shown (h : d.tokenCode side 3 tok = 0) :
    let t := (d.token side 3 tok true).1
    t.rd (tokResultFld side) = 2 ∧ t.rd (tokCodeFld side) = 0 ∧
      (leAt tok 6 1 < (d.fuses side).slots.length → (t.fuses side).slots.getD (leAt tok 6 1) none = some (slice tok 32 48)) ∧
      (t.fuses side).lc = (d.fuses side).lc := by
  obtain ⟨hres, hcode, hfuse⟩ := Dev.token_done_shown h (by decide)
  obtain ⟨hslots, hlc⟩ := Dev.blow_slots (d := d) (side := side) (leAt tok 6 1) (slice tok 32 48)
  refine ⟨hres, hcode, fun hlen => ?_, ?_⟩
  · rw [hfuse, hslots]
    exact getD_setAt_self _ none hlen
  · rw [hfuse, hlc]

theorem Dev.token_revoke_shown (h : d.tokenCode side 4 tok = 0) :
    let t := (d.token side 4 tok true).1
    t.rd (tokResultFld side) = 2 ∧ t.rd (tokCodeFld side) = 0 ∧ testBit (t.fuses side).rev (leAt tok 6 1) = true ∧
      (t.fuses side).slots = (d.fuses side).slots := by
  obtain ⟨hres, hcode, hfuse⟩ := Dev.token_done_shown h (by decide)
  obtain ⟨hrev, hslots⟩ := Dev.blow_rev (d := d) (side := side) (leAt tok 6 1) (slice tok 32 48)
  refine ⟨hres, hcode, ?_, ?_⟩
  · rw [hfuse, hrev]
    exact testBit_setBit_self _ _
  · rw [hfuse, hslots]

end

/-! ## An injection token (R399, R400) -/

section
variable (d : Dev) (side : Side) (tok : List Byte)

/-- The injection token that a token's bytes name (Table 21-3). -/
def injTokenOf (tok : List Byte) : InjToken :=
  { notBefore := leAt tok 32 8, notAfter := leAt tok 40 8, points := leAt tok 48 4, inst := leAt tok 52 1, count := leAt tok 54 2 }

/-- The injection token in force on a die. -/
def Dev.tokenOf (d : Dev) : Side → Option InjToken
  | .field => d.inj.tokenF
  | .host => d.inj.tokenH

/-- The injection token put in the place of the one before, whose injections have ended. -/
def Dev.injReplaced (d : Dev) (side : Side) (tok : List Byte) : Dev :=
  let old := (match side with | .field => d.inj.field | .host => d.inj.host).filter Injection.byToken
  let d := (d.forAll old (fun d i => d.injEnd i.point i.inst)).tripSync
  match side with
  | .field => { d with inj := { d.inj with tokenF := some (injTokenOf tok) } }
  | .host => { d with inj := { d.inj with tokenH := some (injTokenOf tok) } }

theorem Dev.injReplaced_token : (d.injReplaced side tok).tokenOf side = some (injTokenOf tok) := by cases side <;> rfl

variable {d side tok}

theorem Dev.injToken_refused (h : d.injTokenCode side tok ≠ 0) :
    d.injToken side tok = (d.tokStat side 5 (d.injTokenCode side tok), false) := if_pos h

theorem Dev.injToken_done (h : d.injTokenCode side tok = 0) : d.injToken side tok =
    (((((d.injReplaced side tok).injShow).newChal side).tokStat side 5 0).raiseOn side 63 120 3
      [leAt tok 48 4, leAt tok 52 1, leAt tok 54 2], true) := by
  unfold Dev.injToken
  simp only [h, ne_eq, not_true_eq_false, if_false]
  cases side <;> rfl

theorem Dev.injToken_refused_shown (h : d.injTokenCode side tok ≠ 0) :
    let t := (d.injToken side tok).1
    t.rd (tokKindFld side) = 5 ∧ t.rd (tokResultFld side) = 3 ∧ t.rd (tokCodeFld side) = d.injTokenCode side tok ∧ t.inj = d.inj := by
  obtain ⟨hres, hcode, hkind⟩ := d.tokStat_shown side 5 (d.injTokenCode_lt side tok)
  rw [Dev.injToken_refused h]
  exact ⟨hkind, hres.trans (if_neg h), hcode, (d.tokStat_reach side 5 _).onlyIn.inj rfl⟩

theorem Dev.injToken_done_shown (h : d.injTokenCode side tok = 0) :
    let t := (d.injToken side tok).1
    t.rd (tokKindFld side) = 5 ∧ t.rd (tokResultFld side) = 2 ∧ t.rd (tokCodeFld side) = 0 ∧ t.tokenOf side = some (injTokenOf tok) := by
  obtain ⟨hres, hcode, hkind⟩ := (((d.injReplaced side tok).injShow).newChal side).tokStat_shown side 5 (code := 0) (by decide)
  have hinj : (d.injToken side tok).1.inj = (d.injReplaced side tok).inj := by
    rw [Dev.injToken_done h]
    exact ((Dev.raiseOn_reach _ _ _ _ _ _).onlyIn.inj rfl).trans (((Dev.tokStat_reach _ _ _ _).onlyIn.inj rfl).trans
      (((Dev.newChal_reach _ _).onlyIn.inj rfl).trans ((Dev.injShow_reach _).onlyIn.inj rfl)))
  have hrd : ∀ g : Fld, g.block ∉ hostEventBlocks → (d.injToken side tok).1.rd g =
      ((((d.injReplaced side tok).injShow).newChal side).tokStat side 5 0).rd g := fun g hg => by
    rw [Dev.injToken_done h]
    exact Dev.raiseOn_rd _ side _ _ _ _ hg
  refine ⟨?_, ?_, ?_, ?_⟩
  · rw [hrd _ (by cases side <;> decide), hkind]
  · rw [hrd _ (by cases side <;> decide), hres]
    rfl
  · rw [hrd _ (by cases side <;> decide), hcode]
  · rw [← Dev.injReplaced_token d side tok]
    cases side with
    | field => exact congrArg Inject.tokenF hinj
    | host => exact congrArg Inject.tokenH hinj

end

/-! ## The die's random source (R383) -/

section
variable (d : Dev)

/-- A failure marks FAIL, clears OK and is counted. -/
theorem Dev.trngMarked {fail ok count : Fld} (hok : ok.key ≠ fail.key) (hfail : count.key ≠ fail.key) (hcount : count.key ≠ ok.key)
    (hone : fail.width = 1) (height : count.width = 8) :
    let t := ((d.wr fail 1).wr ok 0).bump count
    t.rd fail = 1 ∧ t.rd ok = 0 ∧ t.rd count = min 255 (d.rd count + 1) := by
  refine ⟨?_, ?_, ?_⟩
  · rw [Dev.bump, Dev.bumpBy, Dev.rd_wr_ne _ _ _ _ hfail, Dev.rd_wr_ne _ _ _ _ hok]
    exact Dev.rd_wr_one d hone
  · rw [Dev.bump, Dev.bumpBy, Dev.rd_wr_ne _ _ _ _ hcount, Dev.rd_wr, Nat.zero_mod]
  · rw [Dev.rd_bump, height, Dev.rd_wr_ne _ _ _ _ hcount.symm, Dev.rd_wr_ne _ _ _ _ hfail.symm]
    rfl

theorem Dev.trngFail_field (hon : d.domOn .f1 = true) : (d.trngFail .field).rd R.FSEC_TRNG.FAIL = 1 ∧
    (d.trngFail .field).rd R.FSEC_TRNG.OK = 0 ∧
    (d.trngFail .field).rd R.FSEC_TRNG.FAILURES = min 255 (d.rd R.FSEC_TRNG.FAILURES + 1) := by
  obtain ⟨hfail, hok, hcount⟩ := d.trngMarked (fail := R.FSEC_TRNG.FAIL) (ok := R.FSEC_TRNG.OK) (count := R.FSEC_TRNG.FAILURES)
    (by decide) (by decide) (by decide) rfl rfl
  rw [Dev.trngFail, if_pos hon]
  exact ⟨(Dev.raise_rd ..).trans hfail, (Dev.raise_rd ..).trans hok, (Dev.raise_rd ..).trans hcount⟩

theorem Dev.trngFail_host (hon : d.domOn .h1 = true) : (d.trngFail .host).rd R.SEC_TRNG.FAIL = 1 ∧
    (d.trngFail .host).rd R.SEC_TRNG.OK = 0 ∧
    (d.trngFail .host).rd R.SEC_TRNG.FAILURES = min 255 (d.rd R.SEC_TRNG.FAILURES + 1) ∧ (d.trngFail .host).Pends 111 := by
  obtain ⟨hfail, hok, hcount⟩ := d.trngMarked (fail := R.SEC_TRNG.FAIL) (ok := R.SEC_TRNG.OK) (count := R.SEC_TRNG.FAILURES)
    (by decide) (by decide) (by decide) rfl rfl
  rw [Dev.trngFail, if_pos hon]
  exact ⟨(Dev.raiseH_rd _ _ _ _ (by decide)).trans hfail, (Dev.raiseH_rd _ _ _ _ (by decide)).trans hok,
    (Dev.raiseH_rd _ _ _ _ (by decide)).trans hcount, Dev.raiseH_pends _ _ _ _⟩

/-- A recovery clears FAIL and sets OK. -/
theorem Dev.trngCleared {fail ok : Fld} (hok : ok.key ≠ fail.key) (hone : ok.width = 1) :
    let t := (d.wr fail 0).wr ok 1
    t.rd fail = 0 ∧ t.rd ok = 1 ∧ d.RegsBut [fail, ok] t := by
  refine ⟨?_, ?_, .wr (.wr (.of_eq _ rfl) List.mem_cons_self) (List.mem_cons_of_mem _ List.mem_cons_self)⟩
  · rw [Dev.rd_wr_ne _ _ _ _ hok, Dev.rd_wr, Nat.zero_mod]
  · exact Dev.rd_wr_one _ hone

theorem Dev.trngGood_field (hon : d.domOn .f1 = true) : (d.trngGood .field).rd R.FSEC_TRNG.FAIL = 0 ∧
    (d.trngGood .field).rd R.FSEC_TRNG.OK = 1 ∧ d.RegsBut [R.FSEC_TRNG.FAIL, R.FSEC_TRNG.OK] (d.trngGood .field) ∧
    d.OnlyIn Part.regs (d.trngGood .field) := by
  have heq : d.trngGood .field = (d.wr R.FSEC_TRNG.FAIL 0).wr R.FSEC_TRNG.OK 1 := if_pos hon
  obtain ⟨hfail, hok, hbut⟩ := d.trngCleared (fail := R.FSEC_TRNG.FAIL) (ok := R.FSEC_TRNG.OK) (by decide) rfl
  rw [← heq] at hfail hok hbut
  exact ⟨hfail, hok, hbut, (d.trngGood_reach .field).onlyIn⟩

theorem Dev.trngGood_host (hon : d.domOn .h1 = true) : (d.trngGood .host).rd R.SEC_TRNG.FAIL = 0 ∧
    (d.trngGood .host).rd R.SEC_TRNG.OK = 1 ∧ d.RegsBut [R.SEC_TRNG.FAIL, R.SEC_TRNG.OK] (d.trngGood .host) ∧
    d.OnlyIn Part.regs (d.trngGood .host) := by
  have heq : d.trngGood .host = (d.wr R.SEC_TRNG.FAIL 0).wr R.SEC_TRNG.OK 1 := if_pos hon
  obtain ⟨hfail, hok, hbut⟩ := d.trngCleared (fail := R.SEC_TRNG.FAIL) (ok := R.SEC_TRNG.OK) (by decide) rfl
  rw [← heq] at hfail hok hbut
  exact ⟨hfail, hok, hbut, (d.trngGood_reach .host).onlyIn⟩

/-- RELOCK clears DBGARM of a powered die. -/
theorem Dev.relock_shown (side : Side) (hon : d.domOn (match side with | .field => .f1 | .host => .h1) = true) :
    (d.relock side).rd (dbgArmFld side) = 0 ∧ d.RegsBut [dbgArmFld side] (d.relock side) ∧ d.OnlyIn Part.regs (d.relock side) := by
  have heq : d.relock side = d.wr (dbgArmFld side) 0 := by cases side <;> exact if_pos hon
  refine ⟨?_, ?_, (d.relock_reach side).onlyIn⟩
  · rw [heq, Dev.rd_wr, Nat.zero_mod]
  · rw [heq]
    exact .wr (.of_eq _ rfl) List.mem_cons_self

end

/-! ## The die that a token is presented to -/

section
variable {d : Dev} (f : Dev → Dev × Bool)

theorem Dev.present_field (hon : d.domOn .f1 = true) : d.present .field f = (f d).1 := if_pos hon

theorem Dev.present_host (hon : d.domOn .h1 = true) : d.present .host f = (f d).1.encDone (if (f d).2 then 0 else 7) := if_pos hon

/-- The answer of the enclave command leaves every other field of SEC. -/
theorem Dev.encDone_rd (d : Dev) (code : Nat) {g : Fld} (hg : g.block ∉ hostEventBlocks)
    (hres : R.SEC_CMD.RESULT.key ≠ g.key) (hcode : R.SEC_CMD.CODE.key ≠ g.key) : (d.encDone code).rd g = d.rd g :=
  (Dev.raiseH_rd _ _ _ _ hg).trans (Dev.rd_wrAll_other _ (List.forall_mem_cons.mpr ⟨hres, List.forall_mem_singleton.mpr hcode⟩))

theorem Dev.encDone_shown (d : Dev) {code : Nat} (hcode : code < 256) :
    (d.encDone code).rd R.SEC_CMD.RESULT = (if code = 0 then 2 else 3) ∧ (d.encDone code).rd R.SEC_CMD.CODE = code := by
  have hres : (if code = 0 then 2 else 3) < 2 ^ 2 := by split <;> decide
  refine ⟨(Dev.raiseH_rd _ _ _ _ (by decide)).trans ?_, (Dev.raiseH_rd _ _ _ _ (by decide)).trans ?_⟩
  · refine (Dev.rd_wrAll_head _ (f := R.SEC_CMD.RESULT) (by simp only [List.forall_mem_singleton]; decide)).trans ?_
    exact Nat.mod_eq_of_lt hres
  · exact (Dev.rd_wr _ _ _).trans (Nat.mod_eq_of_lt hcode)

end

/-! ## The rows -/

section
variable (die : Side) (tok : List Byte) (ok : Bool) (s : State)

theorem exec_debugUnlock : exec (.debugUnlock die tok) s = done s (·.present die (·.token die 1 tok true)) := rfl

theorem exec_lifecycleToken : exec (.lifecycleToken die tok ok) s = done s (·.present die (·.token die 2 tok ok)) := rfl

theorem exec_slotProgram : exec (.slotProgram die tok ok) s = done s (·.present die (·.token die 3 tok ok)) := rfl

theorem exec_slotRevoke : exec (.slotRevoke die tok ok) s = done s (·.present die (·.token die 4 tok ok)) := rfl

theorem exec_injectionToken : exec (.injectionToken die tok) s = done s (·.present die (·.injToken die tok)) := rfl

theorem exec_relock : exec (.relock die) s = done s (·.relock die) := rfl

theorem exec_trngHealthFailure : exec (.trngHealthFailure die) s = done s (·.trngFail die) := rfl

theorem exec_trngHealthRecovery : exec (.trngHealthRecovery die) s = done s (·.trngGood die) := rfl

end

section
variable {i : Instr} {s : State} {f : Dev → Dev × Bool} {P : Dev → Prop}

/-- A row that presents a token to the powered field die. -/
theorem answers_of_field (h : exec i s = done s (·.present .field f)) (hon : s.dev.domOn .f1 = true) (hP : P (f s.dev).1) :
    Answers i s P := answers_of_done h (by rwa [Dev.present_field f hon])

/-- A row that presents a token to the powered host die: the enclave answers its command besides. -/
theorem answers_of_host (h : exec i s = done s (·.present .host f)) (hon : s.dev.domOn .h1 = true)
    (hP : P ((f s.dev).1.encDone (if (f s.dev).2 then 0 else 7))) : Answers i s P :=
  answers_of_done h (by rwa [Dev.present_host f hon])

end

/-! ## What the enclave's answer leaves of a token's outcome -/

section
variable (d : Dev) (code : Nat)

theorem Dev.encDone_result : (d.encDone code).rd R.SEC_TOKSTAT.RESULT = d.rd (tokResultFld .host) :=
  d.encDone_rd code (by decide) (by decide) (by decide)

theorem Dev.encDone_code : (d.encDone code).rd R.SEC_TOKSTAT.CODE = d.rd (tokCodeFld .host) :=
  d.encDone_rd code (by decide) (by decide) (by decide)

theorem Dev.encDone_kind : (d.encDone code).rd R.SEC_TOKSTAT.KIND = d.rd (tokKindFld .host) :=
  d.encDone_rd code (by decide) (by decide) (by decide)

theorem Dev.encDone_dbgArm : (d.encDone code).rd R.SEC_STATE.DBGARM = d.rd (dbgArmFld .host) :=
  d.encDone_rd code (by decide) (by decide) (by decide)

theorem Dev.encDone_lcPend : (d.encDone code).rd R.SEC_STATE.LCPEND = d.rd (lcPendFld .host) :=
  d.encDone_rd code (by decide) (by decide) (by decide)

theorem Dev.encDone_lc : (d.encDone code).rd R.SEC_STATE.LC = d.rd (lcFld .host) :=
  d.encDone_rd code (by decide) (by decide) (by decide)

theorem Dev.encDone_ffuse : (d.encDone code).ffuse = d.ffuse := (d.encDone_reach code).onlyIn.ffuse rfl

theorem Dev.encDone_hfuse : (d.encDone code).hfuse = d.hfuse := (d.encDone_reach code).onlyIn.hfuse rfl

theorem Dev.encDone_inj : (d.encDone code).inj = d.inj := (d.encDone_reach code).onlyIn.inj rfl

variable {d} {kind : Nat} {tok : List Byte}

/-- A token that the enclave refuses answers CODE 7. -/
theorem Dev.host_refused (h : d.tokenCode .host kind tok ≠ 0) (ok : Bool) :
    let q := d.token .host kind tok ok
    let t := q.1.encDone (if q.2 then 0 else 7)
    t.rd R.SEC_TOKSTAT.RESULT = 3 ∧ t.rd R.SEC_TOKSTAT.CODE = d.tokenCode .host kind tok ∧ t.ffuse = d.ffuse ∧ t.hfuse = d.hfuse ∧
      t.rd R.SEC_CMD.RESULT = 3 ∧ t.rd R.SEC_CMD.CODE = 7 := by
  obtain ⟨hres, hcode, hf, hh⟩ := Dev.token_refused_shown h ok
  have hanswer : (d.token .host kind tok ok).2 = false := congrArg Prod.snd (Dev.token_refused h ok)
  dsimp only
  rw [hanswer]
  obtain ⟨hcmd, hcmdcode⟩ := (d.token .host kind tok ok).1.encDone_shown (code := 7) (by decide)
  exact ⟨(Dev.encDone_result ..).trans hres, (Dev.encDone_code ..).trans hcode, (Dev.encDone_ffuse ..).trans hf,
    (Dev.encDone_hfuse ..).trans hh, hcmd, hcmdcode⟩

theorem Dev.host_failed (h : d.tokenCode .host kind tok = 0) (hkind : kind ≠ 1) :
    let q := d.token .host kind tok false
    let t := q.1.encDone (if q.2 then 0 else 7)
    t.rd R.SEC_TOKSTAT.RESULT = 3 ∧ t.rd R.SEC_TOKSTAT.CODE = 8 := by
  obtain ⟨hres, hcode⟩ := Dev.token_failed_shown h hkind
  exact ⟨(Dev.encDone_result ..).trans hres, (Dev.encDone_code ..).trans hcode⟩

end

/-- Settles O47: tokens of either die by their first failing check, and the random sources. -/
theorem tokensAndRandomSources : Obligations.TokensAndRandomSources := by
  intro s
  refine ⟨fun tok hon => answers_of_field (exec_debugUnlock .field tok s) hon ⟨fun h => Dev.token_refused_shown h true,
      fun h => Dev.token_arms_shown h true⟩,
    fun tok w hon => answers_of_field (exec_lifecycleToken .field tok w s) hon ⟨fun h => Dev.token_refused_shown h w, fun h hw => ?_,
      fun h hw => ?_⟩,
    fun tok w hon => answers_of_field (exec_slotProgram .field tok w s) hon ⟨fun h => Dev.token_refused_shown h w, fun h hw => ?_,
      fun h hw => ?_⟩,
    fun tok w hon => answers_of_field (exec_slotRevoke .field tok w s) hon ⟨fun h => Dev.token_refused_shown h w, fun h hw => ?_,
      fun h hw => ?_⟩,
    fun tok hon => answers_of_field (exec_injectionToken .field tok s) hon ⟨?_, fun h => (Dev.injToken_refused_shown h).2,
      fun h => (Dev.injToken_done_shown h).2⟩,
    fun hon => answers_of_done (exec_relock .field s) (s.dev.relock_shown .field hon),
    fun hon => answers_of_done (exec_trngHealthFailure .field s) (s.dev.trngFail_field hon),
    fun hon => answers_of_done (exec_trngHealthRecovery .field s) (s.dev.trngGood_field hon),
    fun tok hon => answers_of_host (exec_debugUnlock .host tok s) hon ⟨fun h => Dev.host_refused h true, fun h => ?_⟩,
    fun tok w hon => answers_of_host (exec_lifecycleToken .host tok w s) hon ⟨fun h => Dev.host_refused h w, fun h hw => ?_,
      fun h hw => ?_⟩,
    fun tok w hon => answers_of_host (exec_slotProgram .host tok w s) hon ⟨fun h => Dev.host_refused h w, fun h hw => ?_,
      fun h hw => ?_⟩,
    fun tok w hon => answers_of_host (exec_slotRevoke .host tok w s) hon ⟨fun h => Dev.host_refused h w, fun h hw => ?_,
      fun h hw => ?_⟩,
    fun tok hon => answers_of_host (exec_injectionToken .host tok s) hon ⟨?_, fun h => ?_, fun h => ?_⟩,
    fun hon => answers_of_done (exec_relock .host s) (s.dev.relock_shown .host hon),
    fun hon => answers_of_done (exec_trngHealthFailure .host s) (s.dev.trngFail_host hon),
    fun hon => answers_of_done (exec_trngHealthRecovery .host s) (s.dev.trngGood_host hon)⟩
  · subst hw
    exact Dev.token_lifecycle_shown h
  · subst hw
    exact Dev.token_failed_shown h (by decide)
  · subst hw
    exact Dev.token_program_shown h
  · subst hw
    exact Dev.token_failed_shown h (by decide)
  · subst hw
    exact Dev.token_revoke_shown h
  · subst hw
    exact Dev.token_failed_shown h (by decide)
  · by_cases h : s.dev.injTokenCode .field tok = 0
    · exact (Dev.injToken_done_shown h).1
    · exact (Dev.injToken_refused_shown h).1
  · obtain ⟨hres, hcode, harm, hf, hh⟩ := Dev.token_arms_shown h true
    rw [show (s.dev.token .host 1 tok true).2 = true from congrArg Prod.snd (Dev.token_arms h true)]
    exact ⟨(Dev.encDone_result ..).trans hres, (Dev.encDone_code ..).trans hcode, (Dev.encDone_shown _ (by decide)).1,
      (Dev.encDone_dbgArm ..).trans harm, (Dev.encDone_ffuse ..).trans hf, (Dev.encDone_hfuse ..).trans hh⟩
  · subst hw
    obtain ⟨hres, hcode, hlc, hpend, hshown⟩ := Dev.token_lifecycle_shown h
    rw [show (s.dev.token .host 2 tok true).2 = true from congrArg Prod.snd (Dev.token_done h (by decide))]
    exact ⟨(Dev.encDone_result ..).trans hres, (Dev.encDone_code ..).trans hcode, (Dev.encDone_shown _ (by decide)).1,
      (congrArg Fuses.lc (Dev.encDone_hfuse ..)).trans hlc, (Dev.encDone_lcPend ..).trans hpend, (Dev.encDone_lc ..).trans hshown⟩
  · subst hw
    exact Dev.host_failed h (by decide)
  · subst hw
    obtain ⟨hres, hcode, hslots, hlc⟩ := Dev.token_program_shown h
    rw [show (s.dev.token .host 3 tok true).2 = true from congrArg Prod.snd (Dev.token_done h (by decide)), Dev.encDone_hfuse]
    exact ⟨(Dev.encDone_result ..).trans hres, (Dev.encDone_code ..).trans hcode, (Dev.encDone_shown _ (by decide)).1, hslots, hlc⟩
  · subst hw
    exact Dev.host_failed h (by decide)
  · subst hw
    obtain ⟨hres, hcode, hrev, hslots⟩ := Dev.token_revoke_shown h
    rw [show (s.dev.token .host 4 tok true).2 = true from congrArg Prod.snd (Dev.token_done h (by decide)), Dev.encDone_hfuse]
    exact ⟨(Dev.encDone_result ..).trans hres, (Dev.encDone_code ..).trans hcode, (Dev.encDone_shown _ (by decide)).1, hrev, hslots⟩
  · subst hw
    exact Dev.host_failed h (by decide)
  · refine (Dev.encDone_kind ..).trans ?_
    by_cases h : s.dev.injTokenCode .host tok = 0
    · exact (Dev.injToken_done_shown h).1
    · exact (Dev.injToken_refused_shown h).1
  · obtain ⟨-, hres, hcode, hinj⟩ := Dev.injToken_refused_shown h
    exact ⟨(Dev.encDone_result ..).trans hres, (Dev.encDone_code ..).trans hcode, (Dev.encDone_inj ..).trans hinj⟩
  · obtain ⟨-, hres, hcode, htoken⟩ := Dev.injToken_done_shown h
    rw [show (s.dev.injToken .host tok).2 = true from congrArg Prod.snd (Dev.injToken_done h), Dev.encDone_inj]
    exact ⟨(Dev.encDone_result ..).trans hres, (Dev.encDone_code ..).trans hcode, (Dev.encDone_shown _ (by decide)).1, htoken⟩

end Sys2Proof.Machine
end

section
/-! Byte strings in consecutive registers: what is written there reads back. -/

namespace Sys2Proof.Machine

@[simp] theorem leBytes_length (n v : Nat) : (leBytes n v).length = n := by
  induction n generalizing v with
  | zero => rfl
  | succ n ih => exact congrArg Nat.succ (ih _)

theorem leBytes_leNat (bs : List Byte) : leBytes bs.length (leNat bs) = bs := by
  induction bs with
  | nil => rfl
  | cons b bs ih =>
    have hb : b.toNat < 256 := b.isLt
    rw [List.length_cons, leBytes, leNat, show (b.toNat + 256 * leNat bs) % 256 = b.toNat by omega,
      show (b.toNat + 256 * leNat bs) / 256 = leNat bs by omega, ih]
    exact congrArg (· :: bs) (BitVec.eq_of_toNat_eq (Nat.mod_eq_of_lt hb))

theorem leNat_lt (bs : List Byte) : leNat bs < 256 ^ bs.length := by
  induction bs with
  | nil => exact Nat.one_pos
  | cons b bs ih =>
    have hb : b.toNat < 256 := b.isLt
    rw [List.length_cons, leNat, Nat.pow_succ]
    omega

@[simp] theorem leWords_length (n : Nat) (bs : List Byte) : (leWords n bs).length = n := by
  induction n generalizing bs with
  | zero => rfl
  | succ n ih => exact congrArg Nat.succ (ih _)

theorem leWords_getElem? {n i : Nat} (bs : List Byte) (hi : i < n) : (leWords n bs)[i]? = some (leNat ((bs.drop (4 * i)).take 4)) := by
  induction n generalizing bs i with
  | zero => omega
  | succ n ih =>
    cases i with
    | zero => rfl
    | succ i =>
      rw [leWords, List.getElem?_cons_succ, ih _ (by omega), List.drop_drop, show 4 + 4 * i = 4 * (i + 1) by omega]

/-- The registers that hold a byte string read back its words. -/
theorem Dev.rd_wrWords (d : Dev) {f : Nat → Fld} (bs : List Byte) {n i : Nat} (hlen : bs.length = 4 * n) (hi : i < n)
    (hwidth : (f i).width = 32) (hkeys : ∀ j, j < n → j ≠ i → (f j).key ≠ (f i).key) :
    (d.wrWords f bs).rd (f i) = leNat ((bs.drop (4 * i)).take 4) := by
  have hn : (bs.length + 3) / 4 = n := by omega
  have hmem : (leNat ((bs.drop (4 * i)).take 4), i) ∈ (leWords n bs).zipIdx :=
    List.mk_mem_zipIdx_iff_getElem?.mpr (leWords_getElem? bs hi)
  have hlt : leNat ((bs.drop (4 * i)).take 4) < 2 ^ 32 := by
    have h := leNat_lt ((bs.drop (4 * i)).take 4)
    rwa [List.length_take, List.length_drop, show min 4 (bs.length - 4 * i) = 4 by omega] at h
  unfold Dev.wrWords
  rw [hn]
  refine (Dev.rd_forAll_wr (f := fun w : Nat × Nat => f w.2) (fun w => w.1) hmem (fun w hw hne => ?_) d).trans ?_
  · have hget := List.mk_mem_zipIdx_iff_getElem?.mp hw
    have hw2 : w.2 < n := by
      have h := (List.getElem?_eq_some_iff.mp hget).1
      rwa [leWords_length] at h
    refine hkeys w.2 hw2 fun hwi => hne (Prod.ext ?_ hwi)
    rw [leWords_getElem? bs hw2, hwi] at hget
    exact (Option.some.inj hget).symm
  · rw [hwidth, Nat.mod_eq_of_lt hlt]

/-- The first words of a byte string of whole words, written to as many registers, read back as its first bytes. -/
theorem Dev.rdWords_wrWords (d : Dev) {f : Nat → Fld} (bs : List Byte) {n k : Nat} (hlen : bs.length = 4 * n) (hk : k ≤ n)
    (hwidth : ∀ i, (f i).width = 32) (hkeys : ∀ i j, i < n → j < n → j ≠ i → (f j).key ≠ (f i).key) :
    (d.wrWords f bs).rdWords f k = bs.take (4 * k) := by
  unfold Dev.rdWords
  induction k with
  | zero => rfl
  | succ k ih =>
    have hword : leBytes 4 (leNat ((bs.drop (4 * k)).take 4)) = (bs.drop (4 * k)).take 4 := by
      have h := leBytes_leNat ((bs.drop (4 * k)).take 4)
      rwa [List.length_take, List.length_drop, show min 4 (bs.length - 4 * k) = 4 by omega] at h
    rw [List.range_succ, List.flatMap_append, ih (by omega), List.flatMap_singleton,
      d.rd_wrWords bs hlen (by omega) (hwidth k) fun j hj hne => hkeys k j (by omega) hj hne, hword, Nat.mul_succ, List.take_add]

theorem Dev.rdWords_congr {d e : Dev} {f : Nat → Fld} (h : ∀ i, e.rd (f i) = d.rd (f i)) (n : Nat) : e.rdWords f n = d.rdWords f n := by
  simp only [Dev.rdWords, h]

theorem Dev.rdWords_length (d : Dev) (f : Nat → Fld) (n : Nat) : (d.rdWords f n).length = 4 * n := by
  simp [Dev.rdWords, List.length_flatMap, Nat.mul_comm]

theorem padTo_length (bs : List Byte) (n : Nat) : (padTo bs n).length = n := by
  rw [padTo, List.length_take, List.length_append, List.length_replicate]
  omega

theorem sized_length (n : Nat) (bs : List Byte) : (Config.sized n bs).length = n := by
  rw [Config.sized, List.length_take, List.length_append, List.length_replicate]
  omega

end Sys2Proof.Machine
end

section
/-! Tamper inputs, boundary scan, pairing, key slots, the field statement and the monotonic counters (R367, R371, R375, R376,
R379, R384). -/

namespace Sys2Proof.Machine

/-! ## Tamper inputs (R384) -/

theorem testBit_withBit (v i : Nat) (b : Bool) : testBit (withBit v i b) i = b := by
  cases b with
  | false => exact testBit_clearBit_self v i
  | true => exact testBit_setBit_self v i

section
variable (d : Dev) (i : Fin 2) (low : Bool)

/-- A bit of a two-bit field written. -/
theorem Dev.testBit_rd_wr {f : Fld} {v : Nat} (hf : f.width = 2) : testBit ((d.wr f v).rd f) i = testBit v i := by
  rw [Dev.rd_wr, hf]
  exact testBit_mod_two_pow i.isLt

/-- The level of a tamper input shown. -/
def Dev.tampRaw (d : Dev) (f : Fld) (i : Nat) (low : Bool) : Dev := d.wr f (withBit (d.rd f) i low)

theorem Dev.tampRaw_raw {f : Fld} (hf : f.width = 2) : testBit ((d.tampRaw f i low).rd f) i = low := by
  rw [Dev.tampRaw, Dev.testBit_rd_wr _ _ hf, testBit_withBit]

variable (side : Side) (n kind : Nat) (data : List Nat)

theorem Dev.raiseOrBoot_rd {g : Fld} (hg : g.block ∉ hostEventBlocks) : (d.raiseOrBoot side n kind data).rd g = d.rd g := by
  cases side <;> unfold Dev.raiseOrBoot <;> dsimp only <;> split
  · exact Dev.raise_rd ..
  · rfl
  · exact Dev.raiseH_rd _ _ _ _ hg
  · rfl

theorem Dev.raiseOrBoot_keys : (d.raiseOrBoot side n kind data).shr = d.shr ∧ (d.raiseOrBoot side n kind data).svg = d.svg ∧
    (d.raiseOrBoot side n kind data).fsec = d.fsec ∧ (d.raiseOrBoot side n kind data).enc = d.enc :=
  have h := (d.raiseOrBoot_reach side n kind data).onlyIn
  ⟨h.shr rfl, h.svg rfl, h.fsec rfl, h.enc rfl⟩

end

theorem Dev.Writes.raiseOrBoot {fs : List Fld} {d e : Dev} (h : Dev.Writes (FieldsOrHostEvent fs) d e) (side : Side) (n kind : Nat)
    (data : List Nat) : Dev.Writes (FieldsOrHostEvent fs) d (e.raiseOrBoot side n kind data) := by
  cases side with
  | field => exact .ite (h.raise _ _ _) h
  | host => exact .ite (h.event _ _ _) h

/-- A register of TAMPCFG stands apart from TAMPSTAT and from the state of its side. -/
theorem tampcfg_key_ne (i : Nat) {f : Fld} (hf : f ∈ [R.FSEC_TAMPSTAT.RAW, R.FSEC_TAMPSTAT.LATCH, R.SEC_TAMPSTAT.RAW, R.SEC_TAMPSTAT.LATCH]) :
    f.key ≠ (R.FSEC_TAMPCFG.EN i).key ∧ f.key ≠ (R.FSEC_TAMPCFG.ZEROISE i).key ∧ f.key ≠ (R.SEC_TAMPCFG.EN i).key ∧
    f.key ≠ (R.SEC_TAMPCFG.ZEROISE i).key := by
  simp only [List.mem_cons, List.not_mem_nil, or_false] at hf
  simp only [Fld.key, R.FSEC_TAMPCFG.EN, R.FSEC_TAMPCFG.ZEROISE, R.SEC_TAMPCFG.EN, R.SEC_TAMPCFG.ZEROISE]
  obtain rfl | rfl | rfl | rfl := hf <;> dsimp only [R.FSEC_TAMPSTAT.RAW, R.FSEC_TAMPSTAT.LATCH, R.SEC_TAMPSTAT.RAW, R.SEC_TAMPSTAT.LATCH] <;>
    omega

/-! ### The field side -/

section
variable (d : Dev) (i : Fin 2)

/-- The field input's latch set, with its time. -/
def Dev.tampLatchF (d : Dev) (i : Nat) : Dev :=
  { d.wr R.FSEC_TAMPSTAT.LATCH (setBit (d.rd R.FSEC_TAMPSTAT.LATCH) i) with
    fsec := { d.fsec with tampAt := setAt d.fsec.tampAt i (if d.domOn .f1 then d.stcNs else d.f0Ns) } }

/-- The field side's answer to a latched input: keys and pairing lost with ZEROISE, and the event. -/
def Dev.tampActF (d : Dev) (i : Nat) (data : List Nat) : Dev :=
  (d.when (d.on (R.FSEC_TAMPCFG.ZEROISE i)) Dev.zeroiseF).raiseOrBoot .field 7 i data

theorem Dev.tampRaw_en_field (low : Bool) : (d.tampRaw R.FSEC_TAMPSTAT.RAW i low).on (R.FSEC_TAMPCFG.EN i) = d.on (R.FSEC_TAMPCFG.EN i) := by
  rw [Dev.on, Dev.on, Dev.tampRaw, Dev.rd_wr_ne _ _ _ _ (tampcfg_key_ne i (by simp)).1]

theorem Dev.tamper_field_idle {low : Bool} (hon : d.domOn .f0 = true) (h : low = false ∨ d.on (R.FSEC_TAMPCFG.EN i) = false) :
    d.tamper .field i low = d.tampRaw R.FSEC_TAMPSTAT.RAW i low := by
  have hen : ¬(low && (d.tampRaw R.FSEC_TAMPSTAT.RAW i low).on (R.FSEC_TAMPCFG.EN i)) = true := by
    rw [Dev.tampRaw_en_field]
    obtain rfl | h := h <;> simp [*]
  unfold Dev.tamper
  simp only [hon, Bool.true_eq_false, if_false]
  exact if_neg hen

theorem Dev.tamper_field_latched (hon : d.domOn .f0 = true) (hen : d.on (R.FSEC_TAMPCFG.EN i) = true) :
    ∃ data, d.tamper .field i true = ((d.tampRaw R.FSEC_TAMPSTAT.RAW i true).tampLatchF i).tampActF i data := by
  have hen' : (true && (d.tampRaw R.FSEC_TAMPSTAT.RAW i true).on (R.FSEC_TAMPCFG.EN i)) = true := by
    rw [Dev.tampRaw_en_field, hen]
    rfl
  unfold Dev.tamper
  simp only [hon, Bool.true_eq_false, if_false]
  exact ⟨_, if_pos hen'⟩

theorem Dev.tampLatchF_latch : testBit ((d.tampLatchF i).rd R.FSEC_TAMPSTAT.LATCH) i = true :=
  (d.testBit_rd_wr i rfl).trans (testBit_setBit_self _ _)

theorem Dev.tampLatchF_on {g : Fld} (h : R.FSEC_TAMPSTAT.LATCH.key ≠ g.key) : (d.tampLatchF i).rd g = d.rd g :=
  Dev.rd_wr_ne d R.FSEC_TAMPSTAT.LATCH g _ h

theorem Dev.tampActF_writes (data : List Nat) :
    Dev.Writes (FieldsOrHostEvent [R.FSEC_STATE.PAIRED]) d (d.tampActF i data) := by
  refine .raiseOrBoot (.ite ?_ (.refl _ d)) _ _ _ _
  exact (Dev.Writes.refl _ d).field List.mem_cons_self

theorem Dev.tampActF_zeroised (data : List Nat) (h : d.on (R.FSEC_TAMPCFG.ZEROISE i) = true) :
    let t := d.tampActF i data
    t.shr.keys = [none, none] ∧ t.svg.keys = [none, none, none, none] ∧ t.fsec.kt = none ∧ t.rd R.FSEC_STATE.PAIRED = 0 := by
  have heq : d.tampActF i data = d.zeroiseF.raiseOrBoot .field 7 i data := by rw [Dev.tampActF, Dev.when, if_pos h]
  obtain ⟨hshr, hsvg, hfsec, -⟩ := d.zeroiseF.raiseOrBoot_keys .field 7 i data
  rw [heq]
  exact ⟨congrArg Shr.keys hshr, congrArg Svg.keys hsvg, congrArg Fsec.kt hfsec,
    (Dev.raiseOrBoot_rd _ _ _ _ _ (by decide)).trans (Dev.rd_wr _ _ _)⟩

theorem Dev.tampActF_kept (data : List Nat) (h : d.on (R.FSEC_TAMPCFG.ZEROISE i) = false) :
    let t := d.tampActF i data
    t.shr.keys = d.shr.keys ∧ t.svg.keys = d.svg.keys ∧ t.fsec.kt = d.fsec.kt := by
  have heq : d.tampActF i data = d.raiseOrBoot .field 7 i data := by
    rw [Dev.tampActF, Dev.when, if_neg (by rw [h]; exact Bool.false_ne_true)]
  obtain ⟨hshr, hsvg, hfsec, -⟩ := d.raiseOrBoot_keys .field 7 i data
  rw [heq]
  exact ⟨congrArg Shr.keys hshr, congrArg Svg.keys hsvg, congrArg Fsec.kt hfsec⟩

/-- A tamper input of the field die whose F0 is powered. -/
theorem Dev.tamper_field_shown (low : Bool) (hon : d.domOn .f0 = true) :
    let t := d.tamper .field i low
    testBit (t.rd R.FSEC_TAMPSTAT.RAW) i = low ∧
    (low = true → d.on (R.FSEC_TAMPCFG.EN i) = true → testBit (t.rd R.FSEC_TAMPSTAT.LATCH) i = true ∧
      (d.on (R.FSEC_TAMPCFG.ZEROISE i) = true → t.shr.keys = [none, none] ∧ t.svg.keys = [none, none, none, none] ∧ t.fsec.kt = none ∧
        t.rd R.FSEC_STATE.PAIRED = 0) ∧
      (d.on (R.FSEC_TAMPCFG.ZEROISE i) = false → t.shr.keys = d.shr.keys ∧ t.svg.keys = d.svg.keys ∧ t.fsec.kt = d.fsec.kt)) ∧
    (low = false ∨ d.on (R.FSEC_TAMPCFG.EN i) = false → d.RegsBut [R.FSEC_TAMPSTAT.RAW] t ∧ d.OnlyIn Part.regs t) := by
  have hraw : testBit ((d.tampRaw R.FSEC_TAMPSTAT.RAW i low).rd R.FSEC_TAMPSTAT.RAW) i = low := d.tampRaw_raw i low rfl
  by_cases hlatch : low = true ∧ d.on (R.FSEC_TAMPCFG.EN i) = true
  · obtain ⟨rfl, hen⟩ := hlatch
    obtain ⟨data, heq⟩ := d.tamper_field_latched i hon hen
    have hzero : ((d.tampRaw R.FSEC_TAMPSTAT.RAW i true).tampLatchF i).on (R.FSEC_TAMPCFG.ZEROISE i) = d.on (R.FSEC_TAMPCFG.ZEROISE i) := by
      rw [Dev.on, Dev.on, Dev.tampLatchF_on _ _ (tampcfg_key_ne i (by simp)).2.1, Dev.tampRaw,
        Dev.rd_wr_ne _ _ _ _ (tampcfg_key_ne i (by simp)).2.1]
    have hw := ((d.tampRaw R.FSEC_TAMPSTAT.RAW i true).tampLatchF i).tampActF_writes i data
    have hL := (d.tampRaw R.FSEC_TAMPSTAT.RAW i true).tampLatchF_latch i
    have hkept := ((d.tampRaw R.FSEC_TAMPSTAT.RAW i true).tampLatchF i).tampActF_kept i data
    have hlost := ((d.tampRaw R.FSEC_TAMPSTAT.RAW i true).tampLatchF i).tampActF_zeroised i data
    rw [hzero] at hkept hlost
    dsimp only
    rw [heq, hw.rd_of_fields (by decide) (by simp only [List.forall_mem_singleton]; decide),
      hw.rd_of_fields (by decide) (by simp only [List.forall_mem_singleton]; decide), Dev.tampLatchF_on _ _ (by decide)]
    exact ⟨hraw, fun _ _ => ⟨hL, hlost, hkept⟩, fun h => absurd h (by simp [hen])⟩
  · have hidle : low = false ∨ d.on (R.FSEC_TAMPCFG.EN i) = false := by
      rwa [not_and_or, Bool.not_eq_true, Bool.not_eq_true] at hlatch
    dsimp only
    rw [d.tamper_field_idle i hon hidle]
    exact ⟨hraw, fun hlow hen => absurd ⟨hlow, hen⟩ hlatch, fun _ => ⟨.wr (.of_eq _ rfl) List.mem_cons_self,
      (Reach.refl d).onlyIn.with_regs rfl⟩⟩

end

/-! ### The host side -/

section
variable (d : Dev) (i : Fin 2)

/-- The host input's latch set, with its time and its event. -/
def Dev.tampLatchH (d : Dev) (i : Nat) : Dev :=
  ({ d.wr R.SEC_TAMPSTAT.LATCH (setBit (d.rd R.SEC_TAMPSTAT.LATCH) i) with
    enc := { d.enc with tampAt := setAt d.enc.tampAt i d.tm.rtc } } : Dev).raiseOrBoot .host 112 i [d.tm.rtc % 2 ^ 32, d.tm.rtc / 2 ^ 32]

/-- The enclave's answer to a latched input: slots and pairing lost with ZEROISE. -/
def Dev.tampActH (d : Dev) (i : Nat) : Dev :=
  if d.on (R.SEC_TAMPCFG.ZEROISE i) then d.zeroiseH.raiseOrBoot .host 115 i [] else d

theorem Dev.tampRaw_en_host (low : Bool) : (d.tampRaw R.SEC_TAMPSTAT.RAW i low).on (R.SEC_TAMPCFG.EN i) = d.on (R.SEC_TAMPCFG.EN i) := by
  rw [Dev.on, Dev.on, Dev.tampRaw, Dev.rd_wr_ne _ _ _ _ (tampcfg_key_ne i (by simp)).2.2.1]

theorem Dev.tamper_host_idle {low : Bool} (hon : d.domOn .h0 = true) (h : low = false ∨ d.on (R.SEC_TAMPCFG.EN i) = false) :
    d.tamper .host i low = d.tampRaw R.SEC_TAMPSTAT.RAW i low := by
  have hen : ¬(low && (d.tampRaw R.SEC_TAMPSTAT.RAW i low).on (R.SEC_TAMPCFG.EN i)) = true := by
    rw [Dev.tampRaw_en_host]
    obtain rfl | h := h <;> simp [*]
  unfold Dev.tamper
  simp only [hon, Bool.true_eq_false, if_false]
  exact if_neg hen

theorem Dev.tamper_host_latched (hon : d.domOn .h0 = true) (hen : d.on (R.SEC_TAMPCFG.EN i) = true) :
    d.tamper .host i true = ((d.tampRaw R.SEC_TAMPSTAT.RAW i true).tampLatchH i).tampActH i := by
  have hen' : (true && (d.tampRaw R.SEC_TAMPSTAT.RAW i true).on (R.SEC_TAMPCFG.EN i)) = true := by
    rw [Dev.tampRaw_en_host, hen]
    rfl
  unfold Dev.tamper
  simp only [hon, Bool.true_eq_false, if_false]
  exact if_pos hen'

theorem Dev.tampLatchH_latch : testBit ((d.tampLatchH i).rd R.SEC_TAMPSTAT.LATCH) i = true := by
  rw [Dev.tampLatchH, Dev.raiseOrBoot_rd _ _ _ _ _ (by decide)]
  exact (d.testBit_rd_wr i rfl).trans (testBit_setBit_self _ _)

theorem Dev.tampLatchH_rd {g : Fld} (hg : g.block ∉ hostEventBlocks) (h : R.SEC_TAMPSTAT.LATCH.key ≠ g.key) :
    (d.tampLatchH i).rd g = d.rd g :=
  (Dev.raiseOrBoot_rd _ _ _ _ _ hg).trans (Dev.rd_wr_ne d R.SEC_TAMPSTAT.LATCH g _ h)

/-- The latch leaves the keys of the enclave. -/
theorem Dev.tampLatchH_enc : (d.tampLatchH i).enc.slots = d.enc.slots ∧ (d.tampLatchH i).enc.kt = d.enc.kt := by
  have h : (d.tampLatchH i).enc = _ := (Dev.raiseOrBoot_keys _ _ _ _ _).2.2.2
  rw [h]
  exact ⟨rfl, rfl⟩

theorem Dev.tampActH_writes : Dev.Writes (FieldsOrHostEvent [R.SEC_STATE.PAIRED]) d (d.tampActH i) := by
  refine .ite (.raiseOrBoot ?_ _ _ _ _) (.refl _ d)
  exact (Dev.Writes.refl _ d).field List.mem_cons_self

theorem Dev.tampActH_zeroised (h : d.on (R.SEC_TAMPCFG.ZEROISE i) = true) :
    let t := d.tampActH i
    t.enc.slots = List.replicate 16 none ∧ t.enc.kt = none ∧ t.rd R.SEC_STATE.PAIRED = 0 := by
  have heq : d.tampActH i = d.zeroiseH.raiseOrBoot .host 115 i [] := if_pos h
  have henc := (d.zeroiseH.raiseOrBoot_keys .host 115 i []).2.2.2
  rw [heq]
  exact ⟨congrArg Enclave.slots henc, congrArg Enclave.kt henc, (Dev.raiseOrBoot_rd _ _ _ _ _ (by decide)).trans (Dev.rd_wr _ _ _)⟩

theorem Dev.tampActH_kept (h : d.on (R.SEC_TAMPCFG.ZEROISE i) = false) : d.tampActH i = d :=
  if_neg (by rw [h]; exact Bool.false_ne_true)

/-- A tamper input of the host die whose H0 is powered. -/
theorem Dev.tamper_host_shown (low : Bool) (hon : d.domOn .h0 = true) :
    let t := d.tamper .host i low
    testBit (t.rd R.SEC_TAMPSTAT.RAW) i = low ∧
    (low = true → d.on (R.SEC_TAMPCFG.EN i) = true → testBit (t.rd R.SEC_TAMPSTAT.LATCH) i = true ∧
      (d.on (R.SEC_TAMPCFG.ZEROISE i) = true → t.enc.slots = List.replicate 16 none ∧ t.enc.kt = none ∧ t.rd R.SEC_STATE.PAIRED = 0) ∧
      (d.on (R.SEC_TAMPCFG.ZEROISE i) = false → t.enc.slots = d.enc.slots ∧ t.enc.kt = d.enc.kt)) ∧
    (low = false ∨ d.on (R.SEC_TAMPCFG.EN i) = false → d.RegsBut [R.SEC_TAMPSTAT.RAW] t ∧ d.OnlyIn Part.regs t) := by
  have hraw : testBit ((d.tampRaw R.SEC_TAMPSTAT.RAW i low).rd R.SEC_TAMPSTAT.RAW) i = low := d.tampRaw_raw i low rfl
  by_cases hlatch : low = true ∧ d.on (R.SEC_TAMPCFG.EN i) = true
  · obtain ⟨rfl, hen⟩ := hlatch
    have hblock : (R.SEC_TAMPCFG.ZEROISE i).block ∉ hostEventBlocks := by
      have h : (R.SEC_TAMPCFG.ZEROISE i).block = 0x2007 := by
        simp only [Fld.block, Fld.key, R.SEC_TAMPCFG.ZEROISE]
        omega
      simp [h, hostEventBlocks]
    have hzero : ((d.tampRaw R.SEC_TAMPSTAT.RAW i true).tampLatchH i).on (R.SEC_TAMPCFG.ZEROISE i) = d.on (R.SEC_TAMPCFG.ZEROISE i) := by
      rw [Dev.on, Dev.on, Dev.tampLatchH_rd _ _ hblock (tampcfg_key_ne i (by simp)).2.2.2, Dev.tampRaw,
        Dev.rd_wr_ne _ _ _ _ (tampcfg_key_ne i (by simp)).2.2.2]
    have hw := ((d.tampRaw R.SEC_TAMPSTAT.RAW i true).tampLatchH i).tampActH_writes i
    have hL := (d.tampRaw R.SEC_TAMPSTAT.RAW i true).tampLatchH_latch i
    have henc := (d.tampRaw R.SEC_TAMPSTAT.RAW i true).tampLatchH_enc i
    have hkept := ((d.tampRaw R.SEC_TAMPSTAT.RAW i true).tampLatchH i).tampActH_kept i
    have hlost := ((d.tampRaw R.SEC_TAMPSTAT.RAW i true).tampLatchH i).tampActH_zeroised i
    rw [hzero] at hkept hlost
    dsimp only
    rw [d.tamper_host_latched i hon hen, hw.rd_of_fields (by decide) (by simp only [List.forall_mem_singleton]; decide),
      hw.rd_of_fields (by decide) (by simp only [List.forall_mem_singleton]; decide), Dev.tampLatchH_rd _ _ (by decide) (by decide)]
    exact ⟨hraw, fun _ _ => ⟨hL, hlost, fun h => by rw [hkept h]; exact henc⟩, fun h => absurd h (by simp [hen])⟩
  · have hidle : low = false ∨ d.on (R.SEC_TAMPCFG.EN i) = false := by
      rwa [not_and_or, Bool.not_eq_true, Bool.not_eq_true] at hlatch
    dsimp only
    rw [d.tamper_host_idle i hon hidle]
    exact ⟨hraw, fun hlow hen => absurd ⟨hlow, hen⟩ hlatch, fun _ => ⟨.wr (.of_eq _ rfl) List.mem_cons_self,
      (Reach.refl d).onlyIn.with_regs rfl⟩⟩

end

/-! ## Boundary scan (R367) -/

section
variable {m : Nat} {d e : Dev}

theorem Dev.OnlyIn.with_fsec {x : Fsec} (h : d.OnlyIn m e) (hm : Part.on m Part.fsec = true) : d.OnlyIn m { e with fsec := x } :=
  { h with fsec := Part.kept_of_changed (.inr hm) h.fsec }

theorem Dev.OnlyIn.with_enc {x : Enclave} (h : d.OnlyIn m e) (hm : Part.on m Part.enc = true) : d.OnlyIn m { e with enc := x } :=
  { h with enc := Part.kept_of_changed (.inr hm) h.enc }

end

theorem Dev.scanLoad_field (d : Dev) (drives : Bool) : (d.scanLoad .field drives).fsec.scan = (drives && d.scanActs .field) ∧
    (d.scanLoad .field drives).regs = d.regs ∧ d.OnlyIn Part.fsec (d.scanLoad .field drives) :=
  ⟨rfl, rfl, (Reach.refl d).onlyIn.with_fsec rfl⟩

theorem Dev.scanLoad_host (d : Dev) (drives : Bool) : (d.scanLoad .host drives).enc.scan = (drives && d.scanActs .host) ∧
    (d.scanLoad .host drives).regs = d.regs ∧ d.OnlyIn Part.enc (d.scanLoad .host drives) :=
  ⟨rfl, rfl, (Reach.refl d).onlyIn.with_enc rfl⟩

/-! ## Pairing (R375) -/

section
variable (d : Dev)

theorem Dev.pairStat_shown {code : Nat} (hcode : code < 16) : (d.pairStat code).rd R.FSEC_PAIRCTL.RESULT = (if code = 0 then 2 else 3) ∧
    (d.pairStat code).rd R.FSEC_PAIRCTL.CODE = code ∧ (d.pairStat code).fsec = d.fsec := by
  have hres : (if code = 0 then 2 else 3) < 2 ^ 2 := by split <;> decide
  refine ⟨(Dev.raise_rd ..).trans ?_, (Dev.raise_rd ..).trans ?_, (d.pairStat_reach code).onlyIn.fsec rfl⟩
  · exact (Dev.rd_wr _ _ _).trans (Nat.mod_eq_of_lt hres)
  · refine (Dev.rd_wrAll_head _ (f := R.FSEC_PAIRCTL.CODE) (by simp only [List.forall_mem_singleton]; decide)).trans ?_
    exact Nat.mod_eq_of_lt hcode

theorem Dev.pairStat_paired (code : Nat) : (d.pairStat code).rd R.FSEC_STATE.PAIRED = d.rd R.FSEC_STATE.PAIRED :=
  (Dev.raise_rd ..).trans (Dev.rd_wrAll_other _ (by simp only [List.forall_mem_cons]; decide))

/-- The bytes of a pairing request (R375). -/
def Dev.pairIn (d : Dev) : List Byte := d.rdWords R.FSEC_PAIRIN.WORD 76

/-- The peer's signature over its half of the exchange and this die's UID verifies. -/
def Dev.pairGood (d : Dev) : Bool :=
  Config.ecdsaVerify (slice d.pairIn 0 96) (Config.sha384 ([1] ++ slice d.pairIn 96 96 ++ slice d.pairIn 192 16 ++ leBytes 8 d.ffuse.uid))
    (slice d.pairIn 208 96)

/-- In DEPLOYED the peer is the one pinned, and DBGEN is clear. -/
def Dev.pairPermitted (d : Dev) : Bool :=
  decide (d.lc .field ≠ 2) || (!d.dbgen .field && decide (d.ffuse.pin = some (Config.sha384 (slice d.pairIn 0 96))))

variable {d}

theorem Dev.pairGo_bad (hgood : d.pairGood = false) : d.pairGo = d.pairStat 2 := if_pos hgood

theorem Dev.pairPermitted_iff : d.pairPermitted = false ↔
    d.lc .field = 2 ∧ (d.dbgen .field = true ∨ d.ffuse.pin ≠ some (Config.sha384 (slice d.pairIn 0 96))) := by
  simp only [Dev.pairPermitted, Bool.or_eq_false_iff, Bool.and_eq_false_iff, decide_eq_false_iff_not, Bool.not_eq_false', not_not, ne_eq]

theorem Dev.pairGo_forbidden (hgood : d.pairGood = true) (hperm : d.pairPermitted = false) : d.pairGo = d.pairStat 3 :=
  (if_neg (hgood.trans_ne (by decide))).trans (if_pos (Dev.pairPermitted_iff.mp hperm))

theorem Dev.pairGo_unhealthy (hgood : d.pairGood = true) (hperm : d.pairPermitted = true) (hfail : d.on R.FSEC_TRNG.FAIL = true) :
    d.pairGo = d.pairStat 5 :=
  (if_neg (hgood.trans_ne (by decide))).trans ((if_neg fun h => Bool.false_ne_true ((Dev.pairPermitted_iff.mpr h).symm.trans hperm)).trans
    (if_pos hfail))

/-- A pairing carried out: the peer and the keys kept, and PAIRED. -/
theorem Dev.pairGo_done (hgood : d.pairGood = true) (hperm : d.pairPermitted = true) (hfail : d.on R.FSEC_TRNG.FAIL = false) :
    ∃ e : Dev, d.pairGo = (e.wr R.FSEC_STATE.PAIRED 1).pairStat 0 ∧ e.fsec.peer = slice d.pairIn 0 96 ∧ e.fsec.kt.isSome = true := by
  refine ⟨_, (if_neg (hgood.trans_ne (by decide))).trans ((if_neg fun h =>
    Bool.false_ne_true ((Dev.pairPermitted_iff.mpr h).symm.trans hperm)).trans (if_neg (by rw [hfail]; exact Bool.false_ne_true))), rfl, rfl⟩

end

end Sys2Proof.Machine
end

section
/-! Key slots, the field statement and the monotonic counters (R371, R376, R379), and the rows of tamper, scan and pairing. -/

namespace Sys2Proof.Machine

/-! ## Key slots of the field side (R376) -/

section
variable (d : Dev) {target code : Nat}

theorem Dev.keyStat_shown (ht : target < 8) (hcode : code < 16) :
    (d.keyStat target code).rd R.FSEC_KEYCTL.RESULT = (if code = 0 then 2 else 3) ∧
    (d.keyStat target code).rd R.FSEC_KEYCTL.CODE = code ∧ (d.keyStat target code).rd R.FSEC_KEYCTL.TARGET = target := by
  have hres : (if code = 0 then 2 else 3) < 2 ^ 2 := by split <;> decide
  refine ⟨(Dev.raise_rd ..).trans ?_, (Dev.raise_rd ..).trans ?_, (Dev.raise_rd ..).trans ?_⟩
  · refine (Dev.rd_wrAll_head (d.wr R.FSEC_KEYCTL.CODE code) (f := R.FSEC_KEYCTL.RESULT)
      (by simp only [List.forall_mem_singleton]; decide)).trans ?_
    exact Nat.mod_eq_of_lt hres
  · refine (Dev.rd_wrAll_head _ (f := R.FSEC_KEYCTL.CODE) (by simp only [List.forall_mem_cons]; decide)).trans ?_
    exact Nat.mod_eq_of_lt hcode
  · exact (Dev.rd_wr _ _ _).trans (Nat.mod_eq_of_lt ht)

theorem Dev.keyStat_keeps (target code : Nat) : (d.keyStat target code).fsec = d.fsec ∧ (d.keyStat target code).svg = d.svg ∧
    (d.keyStat target code).shr = d.shr :=
  have h := (d.keyStat_reach target code).onlyIn
  ⟨h.fsec rfl, h.svg rfl, h.shr rfl⟩

variable {d}

/-- A key put into a share slot governs from the next whole millisecond. -/
theorem Dev.keyPut_share (hon : d.domOn .f4 = true) (ht : target < 2) (k : Option (List Byte)) :
    d.keyPut target k = { d with fsec := { d.fsec with keyNext := d.fsec.keyNext ++ [(target, k)] } } := by
  rw [Dev.keyPut, if_neg (hon.trans_ne (by decide)), if_pos ht]

theorem Dev.keyPut_svg (hon : d.domOn .f4 = true) (ht : 2 ≤ target) (k : Option (List Byte)) :
    d.keyPut target k = { d with svg := { d.svg with keys := setAt d.svg.keys (target - 2) k } } := by
  rw [Dev.keyPut, if_neg (hon.trans_ne (by decide)), if_neg (by omega)]

theorem Dev.keyLoad_unpaired (hkt : d.fsec.kt = none) (target : Nat) : d.keyLoad target = d.keyStat target 1 := by
  rw [Dev.keyLoad, hkt]

variable {kt x : List Byte}

theorem Dev.keyLoad_damaged (hkt : d.fsec.kt = some kt) (hx : Config.aesUnwrap kt (d.rdWords R.FSEC_KEYIN.WORD 12) = none) (target : Nat) :
    d.keyLoad target = d.keyStat target 2 := by
  rw [Dev.keyLoad, hkt]
  simp only [hx]

theorem Dev.keyLoad_other (hkt : d.fsec.kt = some kt) (hx : Config.aesUnwrap kt (d.rdWords R.FSEC_KEYIN.WORD 12) = some x)
    (h : 5 < target ∨ leAt x 32 1 ≠ target) : d.keyLoad target = d.keyStat target 3 := by
  rw [Dev.keyLoad, hkt]
  simp only [hx]
  exact if_pos h

theorem Dev.keyLoad_done (hkt : d.fsec.kt = some kt) (hx : Config.aesUnwrap kt (d.rdWords R.FSEC_KEYIN.WORD 12) = some x)
    (ht : target ≤ 5) (hsaid : leAt x 32 1 = target) : d.keyLoad target = (d.keyPut target (some (x.take 32))).keyStat target 0 := by
  rw [Dev.keyLoad, hkt]
  simp only [hx]
  exact if_neg fun h => h.elim (by omega) fun hne => hne hsaid

/-- A slot emptied reads empty whether the list holds it or not. -/
theorem getD_setAt_none {α : Type} (xs : List (Option α)) (i : Nat) : (setAt xs i none).getD i none = none := by
  by_cases h : i < xs.length
  · exact getD_setAt_self none none h
  · exact List.getD_eq_default _ _ (by rw [setAt_length]; omega)

/-- A key load with K_T: by what unwraps. -/
theorem Dev.keyLoad_shown (hon : d.domOn .f4 = true) (hkt : d.fsec.kt = some kt) (n : Fin 8) :
    (d.keyLoad n).rd R.FSEC_KEYCTL.TARGET = n ∧ match Config.aesUnwrap kt (d.rdWords R.FSEC_KEYIN.WORD 12) with
      | none => (d.keyLoad n).rd R.FSEC_KEYCTL.RESULT = 3 ∧ (d.keyLoad n).rd R.FSEC_KEYCTL.CODE = 2 ∧ (d.keyLoad n).fsec = d.fsec ∧
          (d.keyLoad n).svg = d.svg
      | some x => (5 < n.val ∨ leAt x 32 1 ≠ n.val → (d.keyLoad n).rd R.FSEC_KEYCTL.RESULT = 3 ∧ (d.keyLoad n).rd R.FSEC_KEYCTL.CODE = 3 ∧
            (d.keyLoad n).fsec = d.fsec ∧ (d.keyLoad n).svg = d.svg) ∧
          (n.val ≤ 5 → leAt x 32 1 = n.val → (d.keyLoad n).rd R.FSEC_KEYCTL.RESULT = 2 ∧ (d.keyLoad n).rd R.FSEC_KEYCTL.CODE = 0 ∧
            (n.val < 2 → (d.keyLoad n).fsec.keyNext = d.fsec.keyNext ++ [(n.val, some (x.take 32))] ∧ (d.keyLoad n).shr = d.shr) ∧
            (2 ≤ n.val → n.val - 2 < d.svg.keys.length → (d.keyLoad n).svg.keys.getD (n.val - 2) none = some (x.take 32))) := by
  split
  · next hx =>
    obtain ⟨hres, hcode, htarget⟩ := d.keyStat_shown (code := 2) n.isLt (by decide)
    obtain ⟨hfsec, hsvg, -⟩ := d.keyStat_keeps n 2
    rw [Dev.keyLoad_damaged hkt hx]
    exact ⟨htarget, hres, hcode, hfsec, hsvg⟩
  · next x hx =>
    by_cases hother : 5 < n.val ∨ leAt x 32 1 ≠ n.val
    · obtain ⟨hres, hcode, htarget⟩ := d.keyStat_shown (code := 3) n.isLt (by decide)
      obtain ⟨hfsec, hsvg, -⟩ := d.keyStat_keeps n 3
      rw [Dev.keyLoad_other hkt hx hother]
      exact ⟨htarget, fun _ => ⟨hres, hcode, hfsec, hsvg⟩, fun h5 hsaid => absurd hother (by simp [hsaid]; omega)⟩
    · obtain ⟨h5, hsaid⟩ : n.val ≤ 5 ∧ leAt x 32 1 = n.val := by simpa using hother
      obtain ⟨hres, hcode, htarget⟩ := (d.keyPut n (some (x.take 32))).keyStat_shown (code := 0) n.isLt (by decide)
      obtain ⟨hfsec, hsvg, hshr⟩ := (d.keyPut n (some (x.take 32))).keyStat_keeps n 0
      rw [Dev.keyLoad_done hkt hx h5 hsaid]
      refine ⟨htarget, fun h => absurd h hother, fun _ _ => ⟨hres, hcode, fun h2 => ⟨?_, ?_⟩, fun h2 hlen => ?_⟩⟩
      · rw [hfsec, Dev.keyPut_share hon h2]
      · rw [hshr, Dev.keyPut_share hon h2]
      · rw [hsvg, Dev.keyPut_svg hon h2]
        exact getD_setAt_self _ none hlen

theorem Dev.keyClear_shown (hon : d.domOn .f4 = true) (n : Fin 8) (h5 : n.val ≤ 5) :
    (d.keyClear n).rd R.FSEC_KEYCTL.RESULT = 2 ∧ (d.keyClear n).rd R.FSEC_KEYCTL.CODE = 0 ∧
      (n.val < 2 → (d.keyClear n).fsec.keyNext = d.fsec.keyNext ++ [(n.val, none)]) ∧
      (2 ≤ n.val → (d.keyClear n).svg.keys.getD (n.val - 2) none = none) := by
  obtain ⟨hres, hcode, -⟩ := (d.keyPut n none).keyStat_shown (code := 0) n.isLt (by decide)
  obtain ⟨hfsec, hsvg, -⟩ := (d.keyPut n none).keyStat_keeps n 0
  rw [Dev.keyClear, if_neg (by omega)]
  refine ⟨hres, hcode, fun h2 => ?_, fun h2 => ?_⟩
  · rw [hfsec, Dev.keyPut_share hon h2]
  · rw [hsvg, Dev.keyPut_svg hon h2]
    exact getD_setAt_none _ _

theorem Dev.keyClear_other (n : Fin 8) (h5 : 5 < n.val) : (d.keyClear n).rd R.FSEC_KEYCTL.RESULT = 3 ∧
    (d.keyClear n).rd R.FSEC_KEYCTL.CODE = 3 ∧ (d.keyClear n).fsec = d.fsec ∧ (d.keyClear n).svg = d.svg := by
  obtain ⟨hres, hcode, -⟩ := d.keyStat_shown (code := 3) n.isLt (by decide)
  obtain ⟨hfsec, hsvg, -⟩ := d.keyStat_keeps n 3
  rw [Dev.keyClear, if_pos h5]
  exact ⟨hres, hcode, hfsec, hsvg⟩

end

/-! ## The field statement (R379) -/

section
variable (d : Dev)

theorem Dev.statement_length : d.statement.length = 240 := by
  have hdig : (if d.streamActive = true then d.rdWords R.STS_ACTDIG.DIG 12 else List.replicate 48 0).length = 48 := by
    split
    · exact Dev.rdWords_length _ _ _
    · exact List.length_replicate
  simp only [Dev.statement, List.length_append, leBytes_length, Dev.rdWords_length, padTo_length, List.length_replicate, hdig,
    List.length_singleton]

theorem Dev.stmtGo_shown : d.stmtGo.rd R.FSEC_STMTCTL.RESULT = 2 ∧ d.stmtGo.fsec = d.fsec ∧
    d.stmtGo.rdWords R.FSEC_STMT.WORD 60 = d.statement := by
  have hrd : ∀ g, d.stmtGo.rd g = ((d.wrWords R.FSEC_STMT.WORD (d.statement ++ d.signBytes .field 0x82 d.statement)).wr
      R.FSEC_STMTCTL.RESULT 2).rd g := fun g => Dev.raise_rd _ _ _ _ g
  have hlen : (d.statement ++ d.signBytes .field 0x82 d.statement).length = 4 * 84 := by
    rw [List.length_append, d.statement_length, Dev.signBytes, Config.ecdsaSign, sized_length]
  refine ⟨(hrd _).trans (Dev.rd_wr _ _ _), d.stmtGo_reach.onlyIn.fsec rfl, ?_⟩
  calc d.stmtGo.rdWords R.FSEC_STMT.WORD 60
    _ = (d.wrWords R.FSEC_STMT.WORD (d.statement ++ d.signBytes .field 0x82 d.statement)).rdWords R.FSEC_STMT.WORD 60 :=
      Dev.rdWords_congr (fun i => (hrd _).trans (Dev.rd_wr_ne _ _ _ _ (by
        simp only [Fld.key, R.FSEC_STMTCTL.RESULT, R.FSEC_STMT.WORD]
        omega))) 60
    _ = (d.statement ++ d.signBytes .field 0x82 d.statement).take (4 * 60) :=
      d.rdWords_wrWords _ hlen (by decide) (fun _ => rfl) fun i j hi hj hne => by
        simp only [Fld.key, R.FSEC_STMT.WORD]
        omega
    _ = d.statement := List.take_left' d.statement_length

end

/-! ## The monotonic counters (R371) -/

/-- Counting the fields of a list without repetition, at different places: each of them rises once, and no other. -/
theorem Dev.rd_forAll_bump {α : Type} {xs : List α} {f : α → Fld} (hnodup : xs.Nodup) {k : α}
    (hkeys : ∀ j ∈ xs, j ≠ k → (f j).key ≠ (f k).key) (d : Dev) :
    (k ∈ xs → (d.forAll xs fun d j => d.bump (f j)).rd (f k) = min (2 ^ (f k).width - 1) (d.rd (f k) + 1)) ∧
    (k ∉ xs → (d.forAll xs fun d j => d.bump (f j)).rd (f k) = d.rd (f k)) := by
  unfold Dev.forAll
  induction xs generalizing d with
  | nil => exact ⟨fun h => absurd h List.not_mem_nil, fun _ => rfl⟩
  | cons x xs ih =>
    obtain ⟨hx, hxs⟩ := List.forall_mem_cons.mp hkeys
    obtain ⟨hfresh, hrest⟩ := List.nodup_cons.mp hnodup
    obtain ⟨hin, hout⟩ := ih hrest hxs (d.bump (f x))
    have hother : x ≠ k → (d.bump (f x)).rd (f k) = d.rd (f k) := fun hne => Dev.rd_wr_ne _ _ _ _ (hx hne)
    constructor
    · intro hk
      obtain rfl | hmem := List.mem_cons.mp hk
      · exact (hout hfresh).trans (Dev.rd_bump _ _)
      · rw [List.foldl_cons, hin hmem, hother (ne_of_mem_of_not_mem hmem hfresh).symm]
    · intro hk
      obtain ⟨hne, hmem⟩ := not_or.mp (fun h => hk (List.mem_cons.mpr h))
      rw [List.foldl_cons, hout hmem, hother (Ne.symm hne)]

section
variable (d : Dev)

theorem Dev.monoInc_rd (mask : Nat) (g : Fld) :
    (d.monoInc mask).rd g = (d.forAll (bitsOf 4 mask) fun d c => d.bump (R.SEC_MONO.VALUE c)).rd g := by
  unfold Dev.monoInc
  dsimp only
  split <;> rfl

theorem Dev.monoInc_shown (mask : Nat) (c : Fin 4) :
    (testBit mask c = true → (d.monoInc mask).rd (R.SEC_MONO.VALUE c) = min (2 ^ 32 - 1) (d.rd (R.SEC_MONO.VALUE c) + 1)) ∧
    (testBit mask c = false → (d.monoInc mask).rd (R.SEC_MONO.VALUE c) = d.rd (R.SEC_MONO.VALUE c)) := by
  have hmem : c.val ∈ bitsOf 4 mask ↔ testBit mask c = true := by
    simp only [bitsOf, List.mem_filter, List.mem_range, c.isLt, true_and]
  obtain ⟨hin, hout⟩ := Dev.rd_forAll_bump (f := R.SEC_MONO.VALUE) (xs := bitsOf 4 mask) (List.nodup_range.filter _) (k := c.val)
    (fun j hj hne => by
      have hj4 : j < 4 := List.mem_range.mp (List.mem_of_mem_filter hj)
      simp only [Fld.key, R.SEC_MONO.VALUE]
      omega) d
  rw [Dev.monoInc_rd]
  exact ⟨fun h => hin (hmem.mpr h), fun h => hout fun hc => Bool.false_ne_true (h.symm.trans (hmem.mp hc))⟩

end

/-! ## The rows -/

section
variable (s : State)

theorem exec_tamperInput (die : Side) (i : Fin 2) (low : Bool) : exec (.tamperInput die i low) s = done s (·.tamper die i low) := rfl

theorem exec_boundaryScanInstruction (die : Side) (drives : Bool) :
    exec (.boundaryScanInstruction die drives) s = done s (·.scanLoad die drives) := rfl

theorem exec_fsecPairctlGo : exec .fsecPairctlGo s = onF1 s (·.pairGo) := rfl

theorem exec_keyLoad (n : Fin 8) : exec (.keyLoad n) s = onF1 s (·.keyLoad n) := rfl

theorem exec_keySlotClear (n : Fin 8) : exec (.keySlotClear n) s = onF1 s (·.keyClear n) := rfl

theorem exec_fsecStmtctlGo : exec .fsecStmtctlGo s = onF1 s (·.stmtGo) := rfl

theorem exec_secMonoinc (m : Fin 16) : exec (.secMonoinc m) s = onH1 s (·.monoInc m) := rfl

end

/-- Settles O48: tamper inputs, boundary scan, pairing, key slots, the statement and the monotonic counters. -/
theorem tamperScanPairingAndKeys : Obligations.TamperScanPairingAndKeys := by
  intro s
  refine ⟨fun i low hon => answers_of_done (exec_tamperInput s .field i low) (s.dev.tamper_field_shown i low hon),
    fun i low hoff => answers_of_done (exec_tamperInput s .field i low) (if_pos hoff),
    fun drives => answers_of_done (exec_boundaryScanInstruction s .field drives) (s.dev.scanLoad_field drives),
    fun i low hon => answers_of_done (exec_tamperInput s .host i low) (s.dev.tamper_host_shown i low hon),
    fun i low hoff => answers_of_done (exec_tamperInput s .host i low) (if_pos hoff),
    fun drives => answers_of_done (exec_boundaryScanInstruction s .host drives) (s.dev.scanLoad_host drives),
    fun hon => answers_of_onF1 (exec_fsecPairctlGo s) hon ⟨fun hgood => ?_, fun hgood hperm => ?_, fun hgood hperm hfail => ?_,
      fun hgood hperm hfail => ?_⟩,
    fun n hon hkt => answers_of_onF1 (exec_keyLoad s n) hon ?_,
    fun n kt hon h4 hkt => answers_of_onF1 (exec_keyLoad s n) hon (Dev.keyLoad_shown h4 hkt n),
    fun n hon h4 h5 => answers_of_onF1 (exec_keySlotClear s n) hon (Dev.keyClear_shown h4 n h5),
    fun n hon h5 => answers_of_onF1 (exec_keySlotClear s n) hon (Dev.keyClear_other n h5),
    fun hon => answers_of_onF1 (exec_fsecStmtctlGo s) hon s.dev.stmtGo_shown,
    fun m hon => answers_of_onH1 (exec_secMonoinc s m) hon ⟨fun c => (s.dev.monoInc_shown m c).1, fun c => (s.dev.monoInc_shown m c).2,
      (s.dev.monoInc_reach m).onlyIn⟩⟩
  · rw [Dev.pairGo_bad hgood]
    exact s.dev.pairStat_shown (code := 2) (by decide)
  · rw [Dev.pairGo_forbidden hgood hperm]
    exact s.dev.pairStat_shown (code := 3) (by decide)
  · rw [Dev.pairGo_unhealthy hgood hperm hfail]
    exact s.dev.pairStat_shown (code := 5) (by decide)
  · obtain ⟨e, heq, hpeer, hkt⟩ := Dev.pairGo_done hgood hperm hfail
    obtain ⟨hres, hcode, hfsec⟩ := (e.wr R.FSEC_STATE.PAIRED 1).pairStat_shown (code := 0) (by decide)
    rw [heq, hfsec, Dev.pairStat_paired, Dev.rd_wr]
    exact ⟨hres, hcode, rfl, hpeer, hkt⟩
  · obtain ⟨hres, hcode, -⟩ := s.dev.keyStat_shown (code := 1) n.isLt (by decide)
    obtain ⟨hfsec, hsvg, -⟩ := s.dev.keyStat_keeps n 1
    rw [Dev.keyLoad_unpaired hkt]
    exact ⟨hres, hcode, hfsec, hsvg⟩

end Sys2Proof.Machine
end

section
/-! What the output state machines write (sections 15.1 and 15.2): besides the fields of one output, the registers of the leg and
trip units, the contactor engines and the sessions. -/

namespace Sys2Proof.Machine

/-- The blocks of the legs, the trip array, the contactor engines and the sessions. -/
def outBlocks : List Nat := [0x10, 0x11, 0x14, 0x21]

/-- Writes to the fields listed, and to the units that an output orders. -/
def OutWrite (fs : List Fld) (f : Fld) (_ : Nat) : Prop := f ∈ fs ∨ f.block ∈ outBlocks

section
variable {fs gs : List Fld} {d e : Dev}

theorem Dev.Writes.outField {f : Fld} {v : Nat} (h : Dev.Writes (OutWrite fs) d e) (hf : f ∈ fs) : Dev.Writes (OutWrite fs) d (e.wr f v) :=
  h.wr (.inl hf)

theorem Dev.Writes.outUnit {f : Fld} {v : Nat} (h : Dev.Writes (OutWrite fs) d e) (hf : f.block ∈ outBlocks) :
    Dev.Writes (OutWrite fs) d (e.wr f v) := h.wr (.inr hf)

theorem Dev.Writes.outMono (h : Dev.Writes (OutWrite fs) d e) (hsub : fs ⊆ gs) : Dev.Writes (OutWrite gs) d e :=
  h.mono fun _ _ hf => hf.imp_left fun hmem => hsub hmem

theorem Dev.Writes.rd_out {g : Fld} (h : Dev.Writes (OutWrite fs) d e) (hg : g.block ∉ outBlocks) (hfs : ∀ f ∈ fs, f.key ≠ g.key) :
    e.rd g = d.rd g :=
  h.rd_eq fun f _ hf => hf.elim (hfs f) fun hb => Fld.key_ne_of_block fun hbg => hg (hbg ▸ hb)

end

/-! ## The units that an output orders -/

section
variable (n : Nat)

theorem block_TRP_LEGSAFE : (R.TRP_LEGSAFE.LEG n).block ∈ outBlocks := by
  have h : (R.TRP_LEGSAFE.LEG n).block = 0x11 := by
    simp only [Fld.block, Fld.key, R.TRP_LEGSAFE.LEG]
    omega
  simp [h, outBlocks]

theorem block_PWM_LEGSTAT (l : Nat) : (R.PWM_LEGSTAT.STATE n l).block ∈ outBlocks := by
  have h : (R.PWM_LEGSTAT.STATE n l).block = 0x10 := by
    simp only [Fld.block, Fld.key, R.PWM_LEGSTAT.STATE]
    omega
  simp [h, outBlocks]

theorem block_CTR_ENG {f : Nat → Fld} (hf : f ∈ [R.CTR_ENG.STATE, R.CTR_ENG.SEQ, R.CTR_ENG.STEP, R.CTR_ENG.CODE, R.CTR_ENG.NV]) :
    (f n).block ∈ outBlocks := by
  have h : (f n).block = 0x14 := by
    simp only [List.mem_cons, List.not_mem_nil, or_false] at hf
    obtain rfl | rfl | rfl | rfl | rfl := hf <;>
      simp only [Fld.block, Fld.key, R.CTR_ENG.STATE, R.CTR_ENG.SEQ, R.CTR_ENG.STEP, R.CTR_ENG.CODE, R.CTR_ENG.NV] <;> omega
  simp [h, outBlocks]

theorem block_BIL_SESSSTAT : (R.BIL_SESSSTAT.OPEN n).block ∈ outBlocks ∧ (R.BIL_SESSSTAT.CLOSING n).block ∈ outBlocks := by
  have h : (R.BIL_SESSSTAT.OPEN n).block = 0x21 ∧ (R.BIL_SESSSTAT.CLOSING n).block = 0x21 := by
    simp only [Fld.block, Fld.key, R.BIL_SESSSTAT.OPEN, R.BIL_SESSSTAT.CLOSING]
    omega
  simp [h.1, h.2, outBlocks]

end

section
variable {fs : List Fld} {d e : Dev}

theorem Dev.Writes.legSafeShow (h : Dev.Writes (OutWrite fs) d e) (n : Nat) (v : Bool) : Dev.Writes (OutWrite fs) d (e.legSafeShow n v) :=
  .ite h (h.outUnit (block_TRP_LEGSAFE _))

theorem Dev.Writes.legsTrip (h : Dev.Writes (OutWrite fs) d e) : Dev.Writes (OutWrite fs) d e.legsTrip := by
  refine Dev.forAll_induct h fun e n he => ?_
  have hsafe : Dev.Writes (OutWrite fs) d ((e.legSafeShow n true).legSafe n) :=
    (he.legSafeShow n true).of_regs (((e.legSafeShow n true).legSafe_reach n).onlyIn.regs rfl)
  have hheld : Dev.Writes (OutWrite fs) d ((((e.legSafeShow n true).legSafe n).legOwes n false).setLegState n 4) :=
    Dev.Writes.outUnit (e := ((e.legSafeShow n true).legSafe n).legOwes n false) hsafe (block_PWM_LEGSTAT _ _)
  have hfreed : Dev.Writes (OutWrite fs) d ((e.legOwes n true).setLegState n 5) :=
    Dev.Writes.outUnit (e := e.legOwes n true) he (block_PWM_LEGSTAT _ _)
  exact .ite (.ite (.ite hheld (he.legSafeShow n true)) (.ite (.ite hfreed he) (he.legSafeShow n false))) (he.legSafeShow n false)

theorem Dev.Writes.tripFirst (h : Dev.Writes (OutWrite fs) d e) (input : Nat) : Dev.Writes (OutWrite fs) d (e.tripFirst input) :=
  .ite h ((((h.outUnit (by decide)).outUnit (by decide)).outUnit (by decide)).outUnit (by decide))

theorem Dev.Writes.tripFirstClear (h : Dev.Writes (OutWrite fs) d e) : Dev.Writes (OutWrite fs) d e.tripFirstClear :=
  .ite (h.outUnit (by decide)) h

theorem Dev.Writes.capCause (h : Dev.Writes (OutWrite fs) d e) (cause : Nat) : Dev.Writes (OutWrite fs) d (e.capCause cause) :=
  h.of_regs ((e.capCause_reach cause).onlyIn.regs rfl)

theorem Dev.Writes.liveRefresh (h : Dev.Writes (OutWrite fs) d e) : Dev.Writes (OutWrite fs) d e.liveRefresh :=
  h.of_regs e.liveRefresh_regs

theorem Dev.Writes.swTripOut (h : Dev.Writes (OutWrite fs) d e) (n : Nat) : Dev.Writes (OutWrite fs) d (e.swTripOut n) := by
  have hset : ∀ v w, Dev.Writes (OutWrite fs) d ((e.wr R.TRP_SWSTAT.OUT v).wr R.TRP_SWSTAT.GRP w) := fun v w =>
    (h.outUnit (by decide)).outUnit (by decide)
  exact ((((hset _ _).tripFirst 96).legsTrip).raise 11 1 [n]).capCause 3

theorem Dev.Writes.swClear (h : Dev.Writes (OutWrite fs) d e) (outs grps : Nat) : Dev.Writes (OutWrite fs) d (e.swClear outs grps) := by
  have hset : ∀ v w, Dev.Writes (OutWrite fs) d ((e.wr R.TRP_SWSTAT.OUT v).wr R.TRP_SWSTAT.GRP w) := fun v w =>
    (h.outUnit (by decide)).outUnit (by decide)
  exact (hset _ _).legsTrip.tripFirstClear

theorem Dev.Writes.sessEnd (h : Dev.Writes (OutWrite fs) d e) (n cause : Nat) : Dev.Writes (OutWrite fs) d (e.sessEnd n cause) := by
  have hset : ∀ x, Dev.Writes (OutWrite fs) d (e.setSess n x) := fun x =>
    Dev.Writes.outUnit (Dev.Writes.outUnit (e := { e with bil := { e.bil with sess := setAt e.bil.sess n x } }) h
      (block_BIL_SESSSTAT n).1) (block_BIL_SESSSTAT n).2
  exact .ite (hset _).liveRefresh h

/-- A start asked of the engines writes their registers alone, and leaves the outputs. -/
theorem Dev.ctrStart_writes (d : Dev) (n : Nat) : Dev.Writes (OutWrite []) d (d.ctrStart n).1 := by
  by_cases hcode : d.ctrRefusal (n % 64) = 0
  · obtain ⟨e, -, -, heq⟩ := Dev.ctrStart_taken hcode
    have hset : Dev.Writes (OutWrite []) d ((d.wr R.CTR_START.SEQ (n % 64)).setEng e
        { defs := (d.wr R.CTR_START.SEQ (n % 64)).act.ctr, started := n % 64, seq := n % 64, fresh := true }) :=
      (((Dev.Writes.refl _ d).outUnit (by decide)).outUnit (block_CTR_ENG e (by simp))).outUnit (block_CTR_ENG e (by simp))
    rw [heq]
    exact (((((hset.outUnit (block_CTR_ENG e (by simp))).outUnit (block_CTR_ENG e (by simp))).outUnit
      (block_CTR_ENG e (by simp))).outUnit (by decide)).outUnit (by decide)).outUnit (by decide)
  · rw [Dev.ctrStart_refused hcode]
    exact .raise (((((Dev.Writes.refl _ d).outUnit (by decide)).outUnit (by decide)).outUnit (by decide)).outUnit (by decide)) _ _ _

theorem Dev.Writes.ctrStart (h : Dev.Writes (OutWrite fs) d e) (n : Nat) : Dev.Writes (OutWrite fs) d (e.ctrStart n).1 :=
  h.trans ((e.ctrStart_writes n).outMono (List.nil_subset fs))

/-! ## The output's own operations -/

variable {n : Nat}

theorem Dev.Writes.outCause (h : Dev.Writes (OutWrite fs) d e) (hfs : R.OUT_FCAUSE.CAUSE n ∈ fs) (c : Nat) :
    Dev.Writes (OutWrite fs) d (e.outCause n c) := (h.outField hfs).raise _ _ _

theorem Dev.Writes.outTry (h : Dev.Writes (OutWrite fs) d e) (hfs : R.OUT_STAT.SEQWAIT n ∈ fs) : Dev.Writes (OutWrite fs) d (e.outTry n) := by
  have hstart := h.ctrStart (e.outSeqNum n (e.outRt n).want)
  unfold Dev.outTry
  dsimp only
  refine .ite h ?_
  split
  · exact Dev.Writes.outField (e := Dev.setOut _ _ _) hstart hfs
  · exact hstart

theorem Dev.Writes.outReq (h : Dev.Writes (OutWrite fs) d e) (hwait : R.OUT_STAT.SEQWAIT n ∈ fs) (hlock : R.OUT_STAT.LOCKED n ∈ fs)
    (step : Nat) : Dev.Writes (OutWrite fs) d (e.outReq n step) := by
  have hset : ∀ o v, Dev.Writes (OutWrite fs) d ((e.setOut n o).wr (R.OUT_STAT.SEQWAIT n) v) := fun o v =>
    Dev.Writes.outField (e := e.setOut n o) h hwait
  unfold Dev.outReq
  dsimp only
  exact .ite (.ite ((hset _ _).outField hlock) (.ite ((hset _ _).outField hlock) (hset _ _))) ((hset _ _).outTry hwait)

end

end Sys2Proof.Machine
end

section
/-! The output state machines (R299 to R302, R308): a change of state, causes, commands and limits. -/

namespace Sys2Proof.Machine

/-! ## The fields of an output -/

/-- What a change of state may write besides PREV and STATE. -/
def outGoFlds (n : Nat) : List Fld :=
  [R.OUT_STAT.HOLDPRE n, R.OUT_STAT.FPEND n, R.OUT_STAT.CAUSE n, R.OUT_CNT.FAULTS n, R.OUT_CTL.STATUS n]

/-- What a sequence request may write. -/
def outReqFlds (n : Nat) : List Fld := [R.OUT_STAT.SEQWAIT n, R.OUT_STAT.LOCKED n]

/-- The fields that tell an output's state, its cause and the result of its last command. -/
def outTellFlds (n : Nat) : List Fld :=
  [R.OUT_STAT.STATE n, R.OUT_STAT.PREV n, R.OUT_STAT.CONN n, R.OUT_FCAUSE.CAUSE n, R.OUT_CMD.RESULT n, R.OUT_CMD.CODE n]

section
variable (n : Nat) {f g : Fld}

theorem outTell_block (hg : g ∈ R.OUT_STAT.CAUSE n :: outTellFlds n) : g.block ∉ outBlocks := by
  have h : g.block = 0x24 := by
    simp only [outTellFlds, List.mem_cons, List.not_mem_nil, or_false] at hg
    obtain rfl | rfl | rfl | rfl | rfl | rfl | rfl := hg <;>
      simp only [Fld.block, Fld.key, R.OUT_STAT.STATE, R.OUT_STAT.PREV, R.OUT_STAT.CONN, R.OUT_STAT.CAUSE, R.OUT_FCAUSE.CAUSE,
        R.OUT_CMD.RESULT, R.OUT_CMD.CODE] <;> omega
  simp [h, outBlocks]

theorem outTell_key_ne_go (hg : g ∈ outTellFlds n) (hf : f ∈ outGoFlds n) : f.key ≠ g.key := by
  simp only [outTellFlds, outGoFlds, List.mem_cons, List.not_mem_nil, or_false] at hg hf
  obtain rfl | rfl | rfl | rfl | rfl | rfl := hg <;> obtain rfl | rfl | rfl | rfl | rfl := hf <;>
    simp only [Fld.key, R.OUT_STAT.STATE, R.OUT_STAT.PREV, R.OUT_STAT.CONN, R.OUT_STAT.CAUSE, R.OUT_FCAUSE.CAUSE, R.OUT_CMD.RESULT,
      R.OUT_CMD.CODE, R.OUT_STAT.HOLDPRE, R.OUT_STAT.FPEND, R.OUT_CNT.FAULTS, R.OUT_CTL.STATUS] <;> omega

theorem outTell_key_ne_req (hg : g ∈ R.OUT_STAT.CAUSE n :: outTellFlds n) (hf : f ∈ outReqFlds n) : f.key ≠ g.key := by
  simp only [outTellFlds, outReqFlds, List.mem_cons, List.not_mem_nil, or_false] at hg hf
  obtain rfl | rfl | rfl | rfl | rfl | rfl | rfl := hg <;> obtain rfl | rfl := hf <;>
    simp only [Fld.key, R.OUT_STAT.STATE, R.OUT_STAT.PREV, R.OUT_STAT.CONN, R.OUT_STAT.CAUSE, R.OUT_FCAUSE.CAUSE, R.OUT_CMD.RESULT,
      R.OUT_CMD.CODE, R.OUT_STAT.SEQWAIT, R.OUT_STAT.LOCKED] <;> omega

end

/-! ## A sequence request leaves what the output tells -/

section
variable (d : Dev) (n step : Nat)

theorem Dev.outReq_writes : Dev.Writes (OutWrite (outReqFlds n)) d (d.outReq n step) :=
  (Dev.Writes.refl _ d).outReq (by simp [outReqFlds]) (by simp [outReqFlds]) step

theorem Dev.outReq_rd {g : Fld} (hg : g ∈ R.OUT_STAT.CAUSE n :: outTellFlds n) : (d.outReq n step).rd g = d.rd g :=
  (d.outReq_writes n step).rd_out (outTell_block n hg) fun _ hf => outTell_key_ne_req n hg hf

end

/-! ## A change of state (R299) -/

/-- The output's record as it enters a state. -/
def OutRt.entered (o : OutRt) (new : Nat) : OutRt :=
  { o with quench := false, izeroAt := none, vsafe := false, imdFresh := false,
           pend := if decide (new = 8) || decide (new ≤ 1) then 0 else o.pend,
           marker := if 3 ≤ new ∧ new ≤ 7 then true else if new ≤ 2 then false else o.marker }

section
variable (d : Dev) (n new : Nat) (cause : Option Nat)

/-- PREV and STATE of an output as it enters a state, with its record. -/
def Dev.outEntered (d : Dev) (n new : Nat) : Dev :=
  ((d.setOut n ((d.outRt n).entered new)).wr (R.OUT_STAT.PREV n) (d.outState n)).wr (R.OUT_STAT.STATE n) new

theorem Dev.Writes.outDrain {fs : List Fld} {d e : Dev} {n : Nat} (h : Dev.Writes (OutWrite fs) d e) (hfs : R.OUT_CTL.STATUS n ∈ fs)
    (new : Nat) : Dev.Writes (OutWrite fs) d (e.outDrain n new) := .ite (h.outField hfs) h

/-- What follows the cause of a change of state: the fault count, the drain, the event and the session. -/
def Dev.outGoEnd (d : Dev) (n old new : Nat) : Dev :=
  let d := if new = 8 then d.bump (R.OUT_CNT.FAULTS n) else d
  let d := (d.outDrain n new).raise 48 0 [n, old, new, d.rd (R.OUT_STAT.CAUSE n)]
  if new = 0 then d.sessEnd n 1 else d

theorem Dev.outGoEnd_writes (old : Nat) : Dev.Writes (OutWrite [R.OUT_CNT.FAULTS n, R.OUT_CTL.STATUS n]) d (d.outGoEnd n old new) := by
  have hcount : Dev.Writes (OutWrite [R.OUT_CNT.FAULTS n, R.OUT_CTL.STATUS n]) d (if new = 8 then d.bump (R.OUT_CNT.FAULTS n) else d) :=
    .ite ((Dev.Writes.refl _ d).outField (by simp)) (.refl _ d)
  have hdrain := (hcount.outDrain (n := n) (by simp) new).raise 48 0 [n, old, new,
    (if new = 8 then d.bump (R.OUT_CNT.FAULTS n) else d).rd (R.OUT_STAT.CAUSE n)]
  exact .ite (hdrain.sessEnd n 1) hdrain

theorem Dev.outGoEnd_out (old : Nat) : (d.outGoEnd n old new).out = d.out := by
  have hcount : (if new = 8 then d.bump (R.OUT_CNT.FAULTS n) else d).out = d.out := by split <;> rfl
  unfold Dev.outGoEnd
  dsimp only
  generalize (if new = 8 then d.bump (R.OUT_CNT.FAULTS n) else d) = e at hcount ⊢
  have hevent : ∀ data, ((e.outDrain n new).raise 48 0 data).out = d.out := fun data =>
    (Dev.raise_out ..).trans (((e.outDrain_reach n new).onlyIn.out rfl).trans hcount)
  split
  · exact ((Dev.sessEnd_reach _ _ _).onlyIn.out rfl).trans (hevent _)
  · exact hevent _

/-- The state entered, with HOLDPRE, FPEND and the cause. -/
def Dev.outGoBegin (d : Dev) (n new : Nat) (cause : Option Nat) : Dev :=
  let e := ((d.outEntered n new).wr (R.OUT_STAT.HOLDPRE n) 0).wr (R.OUT_STAT.FPEND n)
    (b2n (decide (((d.setOut n ((d.outRt n).entered new)).outRt n).pend ≠ 0)))
  match cause with | some c => e.wr (R.OUT_STAT.CAUSE n) c | none => e

theorem Dev.outGo_eq : d.outGo n new cause = (d.outGoBegin n new cause).outGoEnd n (d.outState n) new := by
  cases cause <;> rfl

theorem Dev.outGoBegin_writes : Dev.Writes (OutWrite (outGoFlds n)) (d.outEntered n new) (d.outGoBegin n new cause) := by
  have hset : ∀ v, Dev.Writes (OutWrite (outGoFlds n)) (d.outEntered n new)
      (((d.outEntered n new).wr (R.OUT_STAT.HOLDPRE n) 0).wr (R.OUT_STAT.FPEND n) v) := fun v =>
    ((Dev.Writes.refl _ _).outField (by simp [outGoFlds])).outField (by simp [outGoFlds])
  unfold Dev.outGoBegin
  dsimp only
  cases cause with
  | none => exact hset _
  | some c => exact (hset _).outField (by simp [outGoFlds])

theorem Dev.outGo_writes : Dev.Writes (OutWrite (outGoFlds n)) (d.outEntered n new) (d.outGo n new cause) := by
  rw [Dev.outGo_eq]
  exact (d.outGoBegin_writes n new cause).trans ((Dev.outGoEnd_writes _ n new _).outMono (by simp [outGoFlds]))

theorem Dev.outGo_out : (d.outGo n new cause).out = setAt d.out n ((d.outRt n).entered new) := by
  rw [Dev.outGo_eq, Dev.outGoEnd_out]
  cases cause <;> rfl

theorem Dev.outGo_tell {g : Fld} (hg : g ∈ outTellFlds n) : (d.outGo n new cause).rd g = (d.outEntered n new).rd g :=
  (d.outGo_writes n new cause).rd_out (outTell_block n (List.mem_cons_of_mem _ hg)) fun _ hf => outTell_key_ne_go n hg hf

/-- What the output tells besides its state stays. -/
theorem Dev.outGo_rd {g : Fld} (hg : g ∈ [R.OUT_STAT.CONN n, R.OUT_FCAUSE.CAUSE n, R.OUT_CMD.RESULT n, R.OUT_CMD.CODE n]) :
    (d.outGo n new cause).rd g = d.rd g := by
  have htell : g ∈ outTellFlds n := by
    simp only [outTellFlds, List.mem_cons, List.not_mem_nil, or_false] at hg ⊢
    exact .inr (.inr hg)
  have hkeys : (R.OUT_STAT.PREV n).key ≠ g.key ∧ (R.OUT_STAT.STATE n).key ≠ g.key := by
    simp only [List.mem_cons, List.not_mem_nil, or_false] at hg
    obtain rfl | rfl | rfl | rfl := hg <;>
      simp only [Fld.key, R.OUT_STAT.STATE, R.OUT_STAT.PREV, R.OUT_STAT.CONN, R.OUT_FCAUSE.CAUSE, R.OUT_CMD.RESULT, R.OUT_CMD.CODE] <;>
      omega
  rw [d.outGo_tell n new cause htell, Dev.outEntered, Dev.rd_wr_ne _ _ _ _ hkeys.2, Dev.rd_wr_ne _ _ _ _ hkeys.1]
  rfl

variable {new}

theorem Dev.outGo_state (hnew : new < 16) : (d.outGo n new cause).outState n = new ∧
    (d.outGo n new cause).rd (R.OUT_STAT.PREV n) = d.outState n % 16 := by
  have hkey : (R.OUT_STAT.STATE n).key ≠ (R.OUT_STAT.PREV n).key := by
    simp only [Fld.key, R.OUT_STAT.STATE, R.OUT_STAT.PREV]
    omega
  constructor
  · rw [Dev.outState, d.outGo_tell n new cause (by simp [outTellFlds]), Dev.outEntered, Dev.rd_wr]
    exact Nat.mod_eq_of_lt hnew
  · rw [d.outGo_tell n new cause (by simp [outTellFlds]), Dev.outEntered, Dev.rd_wr_ne _ _ _ _ hkey, Dev.rd_wr]
    rfl

theorem Dev.outGo_cause {c : Nat} (hc : c < 256) : (d.outGo n new (some c)).rd (R.OUT_STAT.CAUSE n) = c := by
  rw [Dev.outGo_eq, (Dev.outGoEnd_writes (d.outGoBegin n new (some c)) n new (d.outState n)).rd_out (outTell_block n List.mem_cons_self)
    (by
      simp only [List.forall_mem_cons, Fld.key, R.OUT_CNT.FAULTS, R.OUT_CTL.STATUS, R.OUT_STAT.CAUSE]
      exact ⟨by omega, by omega, fun _ h => absurd h List.not_mem_nil⟩)]
  exact (Dev.rd_wr _ _ _).trans (Nat.mod_eq_of_lt hc)

theorem Dev.outGo_outRt (hn : n < d.out.length) : (d.outGo n new cause).outRt n = (d.outRt n).entered new := by
  rw [Dev.outRt, Dev.outGo_out]
  exact getD_setAt_self _ {} hn

end

/-! ## Causes (R301, R302) -/

theorem Dev.outRt_setOut_self {d : Dev} {n : Nat} (x : OutRt) (h : n < d.out.length) : (d.setOut n x).outRt n = x :=
  getD_setAt_self x {} h

section
variable (d : Dev) (n c : Nat)

theorem Dev.outCause_set (hc : c - 1 < 16) : testBit ((d.outCause n c).rd (R.OUT_FCAUSE.CAUSE n)) (c - 1) = true := by
  rw [Dev.outCause, Dev.raise_rd, Dev.rd_wr]
  exact (testBit_mod_two_pow hc).trans (testBit_setBit_self _ _)

theorem Dev.outCause_out : (d.outCause n c).out = d.out := Dev.raise_out ..

/-- The software trip that follows an immediate cause writes only the units that an output orders. -/
theorem Dev.outImmediate_writes :
    Dev.Writes (OutWrite []) ((d.setOut n { d.outRt n with imm := (d.outRt n).imm ++ [c] }).outCause n c) (d.outImmediate n c) :=
  .ite ((Dev.Writes.refl _ _).swTripOut n) (.refl _ _)

theorem Dev.outImmediate_set (hc : c - 1 < 16) : testBit ((d.outImmediate n c).rd (R.OUT_FCAUSE.CAUSE n)) (c - 1) = true := by
  rw [(d.outImmediate_writes n c).rd_out (outTell_block n (by simp [outTellFlds])) fun _ h => absurd h List.not_mem_nil]
  exact Dev.outCause_set _ n c hc

theorem Dev.outPend_writes : Dev.Writes (OutWrite [R.OUT_STAT.FPEND n]) (d.outCause n c) (d.outPend n c) := by
  refine .ite ?_ (.refl _ _)
  exact (Dev.Writes.refl _ _).outField List.mem_cons_self

theorem Dev.outPend_set (hc : c - 1 < 16) : testBit ((d.outPend n c).rd (R.OUT_FCAUSE.CAUSE n)) (c - 1) = true := by
  have hkey : (R.OUT_STAT.FPEND n).key ≠ (R.OUT_FCAUSE.CAUSE n).key := by
    simp only [Fld.key, R.OUT_STAT.FPEND, R.OUT_FCAUSE.CAUSE]
    omega
  rw [(d.outPend_writes n c).rd_out (outTell_block n (by simp [outTellFlds])) (List.forall_mem_singleton.mpr hkey)]
  exact d.outCause_set n c hc

theorem Dev.outPend_length : (d.outPend n c).out.length = d.out.length := by
  have hcause : (d.outCause n c).out.length = d.out.length := congrArg List.length (d.outCause_out n c)
  unfold Dev.outPend
  dsimp only
  split
  · exact (setAt_length _ _ _).trans hcause
  · exact hcause

/-- A cause made pending leaves one pending. -/
theorem Dev.outPend_pend (hn : n < d.out.length) (hc : c ≠ 0) : ((d.outPend n c).outRt n).pend ≠ 0 := by
  unfold Dev.outPend
  dsimp only
  split
  · have hself := Dev.outRt_setOut_self (d := d.outCause n c) { (d.outCause n c).outRt n with pend := c }
      (by rwa [d.outCause_out n c])
    exact fun h => hc ((congrArg OutRt.pend hself).symm.trans h)
  · next hpend => exact hpend

/-- A cause through RAMPDOWN: the output ramps down with its bit set and a fault pending (Table 15-1). -/
theorem Dev.outRamp_shown (hc : c - 1 < 16) (hc0 : c ≠ 0) : (d.outRamp n c).outState n = 6 ∧
    testBit ((d.outRamp n c).rd (R.OUT_FCAUSE.CAUSE n)) (c - 1) = true ∧
    (n < d.out.length → ((d.outRamp n c).outRt n).pend ≠ 0) := by
  refine ⟨((d.outPend n c).outGo_state n none (by decide)).1, ?_, fun hn => ?_⟩
  · rw [Dev.outRamp, Dev.outGo_rd _ _ _ _ (by simp)]
    exact d.outPend_set n c hc
  · rw [Dev.outRamp, Dev.outGo_outRt _ _ _ (by rwa [Dev.outPend_length])]
    exact d.outPend_pend n c hn hc0

/-- FAULT with a cause (R302). -/
theorem Dev.outFault_shown (hc : c < 256) : (d.outFault n c).outState n = 8 ∧ (d.outFault n c).rd (R.OUT_STAT.CAUSE n) = c ∧
    (d.outFault n c).rd (R.OUT_FCAUSE.CAUSE n) = d.rd (R.OUT_FCAUSE.CAUSE n) := by
  have hstate := (d.outGo_state n (some c) (new := 8) (by decide)).1
  have hcause := d.outGo_cause n (new := 8) hc
  have hset := d.outGo_rd n 8 (some c) (g := R.OUT_FCAUSE.CAUSE n) (by simp)
  unfold Dev.outFault
  dsimp only
  split
  · exact ⟨(Dev.outReq_rd _ _ _ (by simp [outTellFlds])).trans hstate, (Dev.outReq_rd _ _ _ (by simp)).trans hcause,
      (Dev.outReq_rd _ _ _ (by simp [outTellFlds])).trans hset⟩
  · exact ⟨hstate, hcause, hset⟩

/-- An immediate cause that the state machine finds: FAULT with its cause and its bit (R301, R302). -/
theorem Dev.outTrip_shown (hc : c - 1 < 16) : (d.outTrip n c).outState n = 8 ∧ (d.outTrip n c).rd (R.OUT_STAT.CAUSE n) = c ∧
    testBit ((d.outTrip n c).rd (R.OUT_FCAUSE.CAUSE n)) (c - 1) = true := by
  obtain ⟨hstate, hcause, hset⟩ :=
    ((d.outImmediate n c).setOut n { (d.outImmediate n c).outRt n with imm := [] }).outFault_shown n c (by omega)
  refine ⟨hstate, hcause, ?_⟩
  rw [show (d.outTrip n c).rd (R.OUT_FCAUSE.CAUSE n) = _ from hset]
  exact d.outImmediate_set n c hc

end

/-! ## Commands (R300, Table 15-2) -/

section
variable (d : Dev) (n op : Nat)

/-- The result of a command shown. -/
def Dev.outShown (d : Dev) (n code : Nat) : Dev := (d.wr (R.OUT_CMD.RESULT n) (if code = 0 then 2 else 3)).wr (R.OUT_CMD.CODE n) code

theorem Dev.outCode_lt : d.outCode n op < 16 := by
  unfold Dev.outCode
  dsimp only
  split
  case h_3 =>
    split_ifs
    case neg => split <;> [split_ifs; skip] <;> decide
    all_goals decide
  all_goals
    split_ifs <;> decide

theorem outCmd_key_ne {f g : Fld} (hf : f ∈ [R.OUT_CMD.RESULT n, R.OUT_CMD.CODE n])
    (hg : g ∈ [R.OUT_STAT.STATE n, R.OUT_STAT.CONN n, R.OUT_CNT.REFUSED n]) : f.key ≠ g.key := by
  simp only [List.mem_cons, List.not_mem_nil, or_false] at hf hg
  obtain rfl | rfl := hf <;> obtain rfl | rfl | rfl := hg <;>
    simp only [Fld.key, R.OUT_STAT.STATE, R.OUT_STAT.CONN, R.OUT_CMD.RESULT, R.OUT_CMD.CODE, R.OUT_CNT.REFUSED] <;> omega

variable {n op}

theorem Dev.outShown_rd (code : Nat) {g : Fld} (hg : g ∈ [R.OUT_STAT.STATE n, R.OUT_STAT.CONN n, R.OUT_CNT.REFUSED n]) :
    (d.outShown n code).rd g = d.rd g := by
  rw [Dev.outShown, Dev.rd_wr_ne _ _ _ _ (outCmd_key_ne n (by simp) hg), Dev.rd_wr_ne _ _ _ _ (outCmd_key_ne n (by simp) hg)]

theorem Dev.outShown_shown {code : Nat} (hcode : code < 16) :
    (d.outShown n code).rd (R.OUT_CMD.RESULT n) = (if code = 0 then 2 else 3) ∧ (d.outShown n code).rd (R.OUT_CMD.CODE n) = code := by
  have hkey : (R.OUT_CMD.CODE n).key ≠ (R.OUT_CMD.RESULT n).key := by
    simp only [Fld.key, R.OUT_CMD.CODE, R.OUT_CMD.RESULT]
    omega
  constructor
  · rw [Dev.outShown, Dev.rd_wr_ne _ _ _ _ hkey, Dev.rd_wr]
    have hres : (if code = 0 then 2 else 3) < 2 ^ 2 := by split <;> decide
    exact Nat.mod_eq_of_lt hres
  · exact (Dev.rd_wr _ _ _).trans (Nat.mod_eq_of_lt hcode)

variable {d}

theorem Dev.outCmd_refused (hop : 1 ≤ op ∧ op ≤ 5) (hcode : d.outCode n op ≠ 0) : d.outCmd n op =
    ((d.outShown n (d.outCode n op)).bump (R.OUT_CNT.REFUSED n)).raise 49 0 [n, d.outCode n op] :=
  (if_neg (by omega)).trans (if_pos hcode)

theorem Dev.outCmd_done (hop : 1 ≤ op ∧ op ≤ 5) (hcode : d.outCode n op = 0) : d.outCmd n op = (d.outShown n 0).outDo n op := by
  refine (if_neg (by omega)).trans ((if_neg (not_not.mpr hcode)).trans ?_)
  rw [hcode]
  rfl

/-- A refused command: its code, its count, and nothing else of the output. -/
theorem Dev.outCmd_refused_shown (hop : 1 ≤ op ∧ op ≤ 5) (hcode : d.outCode n op ≠ 0) :
    let t := d.outCmd n op
    t.rd (R.OUT_CMD.RESULT n) = 3 ∧ t.rd (R.OUT_CMD.CODE n) = d.outCode n op ∧
      t.rd (R.OUT_CNT.REFUSED n) = min (2 ^ (R.OUT_CNT.REFUSED n).width - 1) (d.rd (R.OUT_CNT.REFUSED n) + 1) ∧ t.out = d.out ∧
      d.RegsBut [R.OUT_CMD.RESULT n, R.OUT_CMD.CODE n, R.OUT_CNT.REFUSED n] t := by
  obtain ⟨hres, hshown⟩ := d.outShown_shown (n := n) (d.outCode_lt n op)
  have hcount : ∀ f ∈ [R.OUT_CMD.RESULT n, R.OUT_CMD.CODE n], (R.OUT_CNT.REFUSED n).key ≠ f.key := fun f hf =>
    (outCmd_key_ne n hf (by simp)).symm
  rw [Dev.outCmd_refused hop hcode]
  refine ⟨?_, ?_, ?_, Dev.raise_out .., .raise (.wr (.wr (.wr (.refl _ d) (by simp)) (by simp)) (by simp)) _ _ _⟩
  · rw [Dev.raise_rd, Dev.bump, Dev.bumpBy, Dev.rd_wr_ne _ _ _ _ (hcount _ (by simp)), hres, if_neg hcode]
  · rw [Dev.raise_rd, Dev.bump, Dev.bumpBy, Dev.rd_wr_ne _ _ _ _ (hcount _ (by simp)), hshown]
  · rw [Dev.raise_rd, Dev.rd_bump, Dev.outShown_rd _ _ (by simp)]

end

/-! ### Accepted commands (Table 15-1) -/

section
variable (d : Dev) (n : Nat)

theorem Dev.swClear_rd (outs grps : Nat) {g : Fld} (hg : g ∈ outTellFlds n) : (d.swClear outs grps).rd g = d.rd g :=
  ((Dev.Writes.refl (OutWrite []) d).swClear outs grps).rd_out (outTell_block n (List.mem_cons_of_mem _ hg)) fun _ h =>
    absurd h List.not_mem_nil

/-- What an accepted command does leaves the command's result. -/
theorem Dev.outDo_rd (op : Nat) {g : Fld} (hg : g ∈ [R.OUT_CMD.RESULT n, R.OUT_CMD.CODE n]) : (d.outDo n op).rd g = d.rd g := by
  have hgo : ∀ (e : Dev) new cause, (e.outGo n new cause).rd g = e.rd g := fun e new cause =>
    e.outGo_rd n new cause (by
      simp only [List.mem_cons, List.not_mem_nil, or_false] at hg ⊢
      exact .inr (.inr hg))
  have htell : g ∈ outTellFlds n := by
    simp only [outTellFlds, List.mem_cons, List.not_mem_nil, or_false] at hg ⊢
    exact .inr (.inr (.inr (.inr hg)))
  have hreq : ∀ (e : Dev) step, (e.outReq n step).rd g = e.rd g := fun e step => e.outReq_rd n step (List.mem_cons_of_mem _ htell)
  unfold Dev.outDo
  dsimp only
  split
  · rw [hreq, hgo]
  · split
    · rw [hreq, hgo]
    · exact hreq _ _
  · rw [hreq, hgo]
  · split
    · exact hgo _ _ _
    · rfl
  · rw [hgo, Dev.swClear_rd _ n _ _ htell]
    rfl

variable {d n}

theorem Dev.outCmd_done_shown {op : Nat} (hop : 1 ≤ op ∧ op ≤ 5) (hcode : d.outCode n op = 0) :
    (d.outCmd n op).rd (R.OUT_CMD.RESULT n) = 2 ∧ (d.outCmd n op).rd (R.OUT_CMD.CODE n) = 0 := by
  rw [Dev.outCmd_done hop hcode, Dev.outDo_rd _ _ _ (by simp), Dev.outDo_rd _ _ _ (by simp)]
  exact d.outShown_shown (code := 0) (by decide)

theorem Dev.outShown_state (d : Dev) (n code : Nat) : (d.outShown n code).outState n = d.outState n := d.outShown_rd code (by simp)

/-- A new state with its sequence request. -/
theorem Dev.outGo_req (d : Dev) (n : Nat) {new step : Nat} (hnew : new < 16) : ((d.outGo n new none).outReq n step).outState n = new ∧
    ((d.outGo n new none).outReq n step).rd (R.OUT_STAT.PREV n) = d.outState n % 16 := by
  obtain ⟨hstate, hprev⟩ := d.outGo_state n none hnew
  exact ⟨(Dev.outReq_rd _ _ _ (by simp [outTellFlds])).trans hstate, (Dev.outReq_rd _ _ _ (by simp [outTellFlds])).trans hprev⟩

theorem Dev.outCode_lock (h : d.outCode n 1 = 0) : d.outState n = 1 := by
  by_contra hs
  exact absurd ((if_pos hs).symm.trans h) (by decide)

theorem Dev.outCode_start (h : d.outCode n 3 = 0) : d.outState n = 2 := by
  by_contra hs
  exact absurd ((if_pos hs).symm.trans h) (by decide)

theorem Dev.outCode_unlock (h : d.outCode n 2 = 0) : d.outState n = 2 ∨ d.outState n = 8 := by
  by_contra hs
  rw [not_or] at hs
  exact absurd ((if_neg fun hor => hor.elim hs.1 fun h8 => hs.2 h8.1).symm.trans h) (by decide)

theorem Dev.outLock_shown (h : d.outCode n 1 = 0) : (d.outCmd n 1).outState n = 2 ∧ (d.outCmd n 1).rd (R.OUT_STAT.PREV n) = 1 := by
  obtain ⟨hstate, hprev⟩ := (d.outShown n 0).outGo_req n (new := 2) (step := 1) (by decide)
  rw [Dev.outCmd_done (by decide) h]
  rw [Dev.outShown_state, Dev.outCode_lock h] at hprev
  exact ⟨hstate, hprev⟩

theorem Dev.outStart_shown (h : d.outCode n 3 = 0) : (d.outCmd n 3).outState n = 3 ∧ (d.outCmd n 3).rd (R.OUT_STAT.PREV n) = 2 := by
  obtain ⟨hstate, hprev⟩ := (d.outShown n 0).outGo_req n (new := 3) (step := 3) (by decide)
  rw [Dev.outCmd_done (by decide) h]
  rw [Dev.outShown_state, Dev.outCode_start h] at hprev
  exact ⟨hstate, hprev⟩

theorem Dev.outUnlock_shown (h : d.outCode n 2 = 0) : (d.outCmd n 2).outState n = (if d.outState n = 2 then 1 else 8) := by
  have hdo : (d.outShown n 0).outDo n 2 = if d.outState n = 2 then ((d.outShown n 0).outGo n 1 none).outReq n 2
      else (d.outShown n 0).outReq n 2 := by
    rw [← d.outShown_state n 0]
    rfl
  rw [Dev.outCmd_done (by decide) h, hdo]
  split
  · exact ((d.outShown n 0).outGo_req n (by decide)).1
  · next hs =>
    have hreq : ((d.outShown n 0).outReq n 2).outState n = (d.outShown n 0).outState n := Dev.outReq_rd _ _ _ (by simp [outTellFlds])
    rw [hreq, Dev.outShown_state]
    exact (Dev.outCode_unlock h).resolve_left hs

theorem Dev.outStop_shown (h : d.outCode n 4 = 0) : (d.outCmd n 4).outState n = (if d.outState n ≤ 5 then 6 else d.outState n) := by
  have hdo : (d.outShown n 0).outDo n 4 = if d.outState n ≤ 5 then (d.outShown n 0).outGo n 6 none else d.outShown n 0 := by
    rw [← d.outShown_state n 0]
    rfl
  rw [Dev.outCmd_done (by decide) h, hdo]
  split
  · exact ((d.outShown n 0).outGo_state n none (by decide)).1
  · exact d.outShown_state n 0

/-- CLR leads out of FAULT by the connector, with no trip and no fault left. -/
theorem Dev.outClr_shown (h : d.outCode n 5 = 0) (hn : n < d.out.length) :
    (d.outCmd n 5).outState n = (if d.on (R.OUT_STAT.CONN n) then 1 else 0) ∧ ((d.outCmd n 5).outRt n).trips = 0 ∧
      ((d.outCmd n 5).outRt n).pend = 0 := by
  have hout := (((d.outShown n 0).setOut n { (d.outShown n 0).outRt n with trips := 0 }).swClear_reach (2 ^ n) ((d.outShown n 0).outRt n).trips).onlyIn.out rfl
  have hconn : (((d.outShown n 0).setOut n { (d.outShown n 0).outRt n with trips := 0 }).swClear (2 ^ n)
      ((d.outShown n 0).outRt n).trips).on (R.OUT_STAT.CONN n) = d.on (R.OUT_STAT.CONN n) := by
    rw [Dev.on, Dev.swClear_rd _ n _ _ (by simp [outTellFlds])]
    exact congrArg (fun v => decide (v = 1)) (d.outShown_rd 0 (by simp))
  have hdo : (d.outShown n 0).outDo n 5 = (((d.outShown n 0).setOut n { (d.outShown n 0).outRt n with trips := 0 }).swClear (2 ^ n)
      ((d.outShown n 0).outRt n).trips).outGo n (if d.on (R.OUT_STAT.CONN n) then 1 else 0) none := by
    rw [← hconn]
    rfl
  have hrt := congrArg (List.getD · n {}) hout
  rw [Dev.outCmd_done (by decide) h, hdo]
  generalize ((d.outShown n 0).setOut n { (d.outShown n 0).outRt n with trips := 0 }).swClear (2 ^ n) ((d.outShown n 0).outRt n).trips = e
    at hout hrt
  have hlen : n < e.out.length := by
    rw [hout]
    exact lt_of_lt_of_eq hn (setAt_length _ _ _).symm
  have htrips : (e.outRt n).trips = 0 := (congrArg OutRt.trips hrt).trans
    (congrArg OutRt.trips (Dev.outRt_setOut_self (d := d.outShown n 0) { (d.outShown n 0).outRt n with trips := 0 } hn))
  have hnew : (if d.on (R.OUT_STAT.CONN n) = true then 1 else 0) ≤ 1 := by split <;> decide
  refine ⟨(e.outGo_state n none (by omega)).1, ?_, ?_⟩
  · rw [Dev.outGo_outRt _ _ _ hlen]
    exact htrips
  · rw [Dev.outGo_outRt _ _ _ hlen, OutRt.entered]
    simp only [hnew, decide_true, Bool.or_true, if_true]

end

/-! ## Limits and the retry of a sequence -/

section
variable {d : Dev} {n : Nat}

theorem Dev.tdisEnd_elapsed (h7 : d.outState n = 7) (hcur : (d.outRt n).cur = 5) (hdone : (d.outRt n).seqDone = true)
    (hsafe : (d.outRt n).vsafe = false) : d.tdisEnd n = d.outTrip n 9 := if_pos ⟨h7, hcur, hdone, hsafe⟩

theorem Dev.tdisEnd_else (h7 : d.outState n ≠ 7) : d.tdisEnd n = d := if_neg fun h => h7 h.1

theorem Dev.tlockEnd_elapsed (h2 : d.outState n = 2) (hlock : d.on (R.OUT_STAT.LOCKED n) = false) : d.tlockEnd n = d.outTrip n 16 :=
  if_pos ⟨h2, hlock⟩

theorem Dev.tlockEnd_else (h2 : d.outState n ≠ 2) : d.tlockEnd n = d := if_neg fun h => h2 h.1

/-- A start that nothing refuses runs in the engine it answers. -/
theorem Dev.ctrStart_engine {q : Nat} (h : d.ctrRefusal (q % 64) = 0) :
    ∃ e, e < 8 ∧ d.ctrStart q = (((d.wr R.CTR_START.SEQ (q % 64)).engLoaded (q % 64) e).startTaken e, some e) := by
  obtain ⟨e, he, -, hfind⟩ := Dev.exists_free_engine ((Dev.ctrRefusal_wr_start (q % 64)).trans h)
  refine ⟨e, he, ?_⟩
  unfold Dev.ctrStart
  simp only [Dev.ctrRefusal_wr_start, h, hfind]
  rfl

theorem Dev.startTaken_state (d : Dev) {q : Nat} (hq : q < 64) (e : Nat) :
    ((d.engLoaded q e).startTaken e).rd (R.CTR_ENG.STATE e) = 1 := by
  rw [Dev.startTaken_regsBut e _ (by
    simp only [List.forall_mem_cons, Fld.key, R.CTR_START.RESULT, R.CTR_START.CODE, R.CTR_START.ENGINE, R.CTR_ENG.STATE]
    exact ⟨by omega, by omega, by omega, fun _ h => absurd h List.not_mem_nil⟩)]
  exact (Dev.engLoaded_shown hq e).1

/-- A sequence request that is repeated and taken. -/
theorem Dev.outTry_taken {x : Dev} {e : Nat} (hwant : (d.outRt n).want ≠ 0) (hretry : (d.outRt n).retry = true)
    (hrun : d.pw.fmpRestart = false) (hstart : d.ctrStart (d.outSeqNum n (d.outRt n).want) = (x, some e)) :
    d.outTry n = (x.setOut n { x.outRt n with want := 0, retry := false, engine := some e }).wr (R.OUT_STAT.SEQWAIT n) 0 := by
  unfold Dev.outTry
  simp only [hstart]
  refine if_neg ?_
  rintro (h | h | h)
  · exact hwant h
  · exact Bool.false_ne_true (h.symm.trans hretry)
  · exact Bool.false_ne_true (hrun.symm.trans h)

/-- A sequence that waits and is repeated starts in the engine that takes it. -/
theorem Dev.outTry_started (hwant : (d.outRt n).want ≠ 0) (hretry : (d.outRt n).retry = true) (hrun : d.pw.fmpRestart = false)
    (hn : n < d.out.length) (hcode : d.ctrRefusal (d.outSeqNum n (d.outRt n).want % 64) = 0) :
    ((d.outTry n).outRt n).want = 0 ∧ (d.outTry n).rd (R.OUT_STAT.SEQWAIT n) = 0 ∧
      ∃ e : Nat, e < 8 ∧ ((d.outTry n).outRt n).engine = some e ∧ (d.outTry n).rd (R.CTR_ENG.STATE e) = 1 := by
  obtain ⟨e, he, hstart⟩ := Dev.ctrStart_engine hcode
  have hstate := (d.wr R.CTR_START.SEQ (d.outSeqNum n (d.outRt n).want % 64)).startTaken_state
    (Nat.mod_lt (d.outSeqNum n (d.outRt n).want) (by decide)) e
  have hout := (d.ctrStart_reach (d.outSeqNum n (d.outRt n).want)).onlyIn.out rfl
  rw [hstart] at hout
  rw [Dev.outTry_taken hwant hretry hrun hstart]
  generalize ((d.wr R.CTR_START.SEQ (d.outSeqNum n (d.outRt n).want % 64)).engLoaded (d.outSeqNum n (d.outRt n).want % 64) e).startTaken e
    = x at hstate hout
  have hself := Dev.outRt_setOut_self (d := x) { x.outRt n with want := 0, retry := false, engine := some e }
    (lt_of_lt_of_eq hn (congrArg List.length hout).symm)
  have hkey : (R.OUT_STAT.SEQWAIT n).key ≠ (R.CTR_ENG.STATE e).key := by
    simp only [Fld.key, R.OUT_STAT.SEQWAIT, R.CTR_ENG.STATE]
    omega
  refine ⟨congrArg OutRt.want hself, (Dev.rd_wr _ _ _).trans (Nat.zero_mod _), e, he, congrArg OutRt.engine hself, ?_⟩
  rw [Dev.rd_wr_ne _ _ _ _ hkey]
  exact hstate

theorem Dev.outTry_none (hwant : (d.outRt n).want = 0) : d.outTry n = d := if_pos (.inl hwant)

/-- An input of an output's status shown. -/
theorem Dev.wrB_shown (d : Dev) {f : Fld} (hf : f.width = 1) (b : Bool) :
    (d.wrB f b).rd f = b2n b ∧ d.RegsBut [f] (d.wrB f b) ∧ d.OnlyIn Part.regs (d.wrB f b) :=
  ⟨d.rd_wrB b hf, .wr (.refl _ d) List.mem_cons_self, (Reach.refl d).onlyIn.with_regs rfl⟩

end

/-! ## The rows -/

section
variable (s : State) (n : Fin 4)

/-- The five commands and their operation codes. -/
theorem exec_outCmd {p : Instr × Nat} (hp : p ∈ [(Instr.outLock n, 1), (.outUnlock n, 2), (.outStart n, 3), (.outStop n, 4), (.outClr n, 5)]) :
    exec p.1 s = done s (fun d => if d.domOn .f4 then d.outCmd n p.2 else d) ∧ 1 ≤ p.2 ∧ p.2 ≤ 5 := by
  simp only [List.mem_cons, List.not_mem_nil, or_false] at hp
  obtain rfl | rfl | rfl | rfl | rfl := hp <;> exact ⟨rfl, by dsimp only; decide, by dsimp only; decide⟩

theorem exec_tlockExpiry : exec (.tlockExpiry n) s = done s (fun d => if d.domOn .f4 then d.tlockEnd n else d) := rfl

theorem exec_tinsExpiry : exec (.tinsExpiry n) s = done s (fun d => if d.domOn .f4 then d.tinsEnd n else d) := rfl

theorem exec_tpreExpiry : exec (.tpreExpiry n) s = done s (fun d => if d.domOn .f4 then d.tpreEnd n else d) := rfl

theorem exec_trampExpiry : exec (.trampExpiry n) s = done s (fun d => if d.domOn .f4 then d.trampEnd n else d) := rfl

theorem exec_tdisExpiry : exec (.tdisExpiry n) s = done s (fun d => if d.domOn .f4 then d.tdisEnd n else d) := rfl

theorem exec_outSequenceRetry : exec (.outSequenceRetry n) s = done s (fun d => if d.domOn .f4 then d.outTry n else d) := rfl

theorem exec_connectorChange (b : Bool) :
    exec (.connectorChange n b) s = done s (fun d => if d.domOn .f4 then d.wrB (R.OUT_STAT.CONN n) b else d) := rfl

theorem exec_enableLoopChange (b : Bool) :
    exec (.enableLoopChange n b) s = done s (fun d => if d.domOn .f4 then d.wrB (R.OUT_STAT.ELOOP n) b else d) := rfl

end

/-- Settles O40: the commands by the code of Table 15-2, and the limits by the state they find. -/
theorem outputCommandsAndLimits : Obligations.OutputCommandsAndLimits := by
  intro s n hon
  refine ⟨fun p hp hcode => ?_, fun p hp hcode => ?_,
    fun h => answers_of_onF4 (exec_outCmd s n (p := (.outLock n, 1)) (by simp)).1 hon (Dev.outLock_shown h),
    fun h => answers_of_onF4 (exec_outCmd s n (p := (.outUnlock n, 2)) (by simp)).1 hon (Dev.outUnlock_shown h),
    fun h => answers_of_onF4 (exec_outCmd s n (p := (.outStart n, 3)) (by simp)).1 hon (Dev.outStart_shown h),
    fun h => answers_of_onF4 (exec_outCmd s n (p := (.outStop n, 4)) (by simp)).1 hon (Dev.outStop_shown h),
    fun h hn => answers_of_onF4 (exec_outCmd s n (p := (.outClr n, 5)) (by simp)).1 hon (Dev.outClr_shown h hn),
    fun h2 hlock => answers_of_onF4 (exec_tlockExpiry s n) hon ?_,
    fun h2 => answers_of_onF4 (exec_tlockExpiry s n) hon (Dev.tlockEnd_else h2),
    fun h3 => answers_of_onF4 (exec_tinsExpiry s n) hon ?_, fun h3 => answers_of_onF4 (exec_tinsExpiry s n) hon (if_neg h3),
    fun h4 => answers_of_onF4 (exec_tpreExpiry s n) hon ?_, fun h4 => answers_of_onF4 (exec_tpreExpiry s n) hon (if_neg h4),
    fun h6 => answers_of_onF4 (exec_trampExpiry s n) hon ?_, fun h6 => answers_of_onF4 (exec_trampExpiry s n) hon (if_neg h6),
    fun h7 hcur hdone hsafe => answers_of_onF4 (exec_tdisExpiry s n) hon ?_,
    fun h7 => answers_of_onF4 (exec_tdisExpiry s n) hon (Dev.tdisEnd_else h7),
    fun hwant hretry hrun hn hcode => answers_of_onF4 (exec_outSequenceRetry s n) hon (Dev.outTry_started hwant hretry hrun hn hcode),
    fun hwant => answers_of_onF4 (exec_outSequenceRetry s n) hon (Dev.outTry_none hwant),
    fun b => answers_of_onF4 (exec_connectorChange s n b) hon (s.dev.wrB_shown rfl b),
    fun b => answers_of_onF4 (exec_enableLoopChange s n b) hon (s.dev.wrB_shown rfl b)⟩
  · obtain ⟨hexec, hop⟩ := exec_outCmd s n hp
    exact answers_of_onF4 hexec hon (Dev.outCmd_refused_shown hop hcode)
  · obtain ⟨hexec, hop⟩ := exec_outCmd s n hp
    exact answers_of_onF4 hexec hon (Dev.outCmd_done_shown hop hcode)
  · rw [Dev.tlockEnd_elapsed h2 hlock]
    exact s.dev.outTrip_shown n 16 (by decide)
  · rw [Dev.tinsEnd, if_pos h3]
    exact s.dev.outRamp_shown n 16 (by decide) (by decide)
  · rw [Dev.tpreEnd, if_pos h4]
    exact s.dev.outRamp_shown n 16 (by decide) (by decide)
  · obtain ⟨hstate, hcause, -⟩ := s.dev.outTrip_shown n 8 (by decide)
    rw [Dev.trampEnd, if_pos h6]
    exact ⟨hstate, hcause⟩
  · obtain ⟨hstate, hcause, -⟩ := s.dev.outTrip_shown n 9 (by decide)
    rw [Dev.tdisEnd_elapsed h7 hcur hdone hsafe]
    exact ⟨hstate, hcause⟩

end Sys2Proof.Machine
end
